-- ==== Sys2Proof/Word.lean ====
section
/-! DEFINITION. The word types of the machine and their plainest arithmetic: 32-bit words, 64-bit
pairs, bytes, and lane masks of 32 bits, bit L for lane L (08 R217). -/
namespace Sys2Proof

/-- A byte of storage. -/
abbrev Byte := BitVec 8
/-- A 32-bit word: a scalar register, one lane of a vector register, an instruction word. -/
abbrev Word := BitVec 32
/-- A 64-bit value: a scalar pair (08 R218), an address register, a counter. -/
abbrev DWord := BitVec 64
/-- A set of lanes: bit L stands for lane L (08 R217, lane masks). -/
abbrev Lanes := BitVec 32

/-- Lane `l` belongs to the set. -/
def Lanes.has (m : Lanes) (l : Nat) : Bool := m.getLsbD l

/-- The set that holds the lanes below `n` for which `p` holds. -/
def Lanes.ofFn (n : Nat) (p : Nat → Bool) : Lanes :=
  (List.range n).foldl (fun acc l => if p l then acc ||| (1#32 <<< l) else acc) 0#32

/-- The lanes of the set, ascending. -/
def Lanes.toList (m : Lanes) : List Nat := (List.range 32).filter (fun l => m.has l)

/-- How many lanes the set holds. -/
def Lanes.count (m : Lanes) : Nat := m.toList.length

/-- The low word of a 64-bit value. -/
def loWord (x : DWord) : Word := x.setWidth 32
/-- The high word of a 64-bit value. -/
def hiWord (x : DWord) : Word := (x >>> 32).setWidth 32
/-- A 64-bit value from its high and low words. -/
def mkPair (hi lo : Word) : DWord := (hi ++ lo : BitVec (32 + 32)).cast rfl

end Sys2Proof
end

