-- ==== Sys2Proof/Syntax.lean ====
section
/-! DEFINITION. The operations of the machine: ONE constructor for each row of the opcode table. A row
that stands for an SVJ instruction carries the fields of its words as the encoding tables give them
(12 R319, R320, and each family's table): a field is kept at its own width, so that every value the
encoding admits is a term. A row that stands for a step of the part itself (a reset, a command, a
completion) carries what the step is about: the register or the request written, the cell, the group.
`lit` is the EL word of a form that carries one when a source field holds code 124 (12 R322, 14 R371). -/
namespace Sys2Proof

/-- A step of the clamp: its cause, by its place among those that stand, and the junction temperature in °C plus 64 (02 R64). -/
structure ClampTick where
  cause : Nat
  temp : Nat
  deriving DecidableEq, Repr

/-- A receive port and a virtual channel of it (04 R127). -/
structure CamChannel where
  port : Nat
  vc : Nat
  deriving DecidableEq, Repr

/-- What the streams match a camera's long packet by: the channel and the data type (04 R127). -/
structure CamPacket where
  channel : CamChannel
  dt : Nat
  deriving DecidableEq, Repr

/-- A store as error records name it: SOURCE, UNIT, and the cell or slice that holds it (05 R137, R152). -/
structure ErrPlace where
  source : Nat
  unit : Nat
  place : Nat
  deriving DecidableEq, Repr

/-- One row of the opcode table each. -/
inductive Instr where
  /-- POR_RESET (R16): POR_N held low resets every state that has a Reset value to it, while the keep die's contents are preserved. -/
  | porReset (sa : Nat) (boot : Nat) (train : Nat)
  /-- PERST_RESET (R16): PERST_N low with POR_N high resets the PCIe endpoint as the device rung; the clamp state, the reserve and the keep die are kept. -/
  | perstReset (train : Nat)
  /-- SYSCLK_FAULT (R17): Loss of SYSCLK stops every cell and holds the core 0 counter; the pipes replace their safety layers with tell-tales. -/
  | sysclkFault
  /-- SYSCLK_RETURN (R517): On the return of SYSCLK, hypervisor core 0's counter resumes counting from its held value. -/
  | sysclkReturn
  /-- DCLK_FAULT (R17): Loss of DCLK, or DCLK leaving its tolerance, stops scan-out on all four ports and asserts FAULT_N. -/
  | dclkFault
  /-- LOCKSTEP_MISMATCH (R18): A mismatch between the two lockstepped hypervisor cores sets LOCKSTEP and asserts FAULT_N. -/
  | lockstepMismatch
  /-- THERMTRIP (R19): A junction sensor reaching 140 °C makes the limit keeper assert THERMTRIP_N. -/
  | thermtrip
  /-- SUPPLY_LOSS (R22): The hold-up controller declares supply loss, opens the reserve switch, stops launches and groups, and raises PFAIL. -/
  | supplyLoss (rails : Nat)
  /-- HANDLER_BUDGET_EXPIRY (R157): A power-fail handler still running 50 µs after its launch is stopped, and its context's regions are saved as they stand. -/
  | handlerBudgetExpiry (k : Nat)
  /-- HOLDUP_SAVE_COMPLETE (R161): The keep-die writes of the save end, and the slot header is written with STATE 2. -/
  | holdupSaveComplete
  /-- RESERVE_CHARGED (R24): The hold-up reserve reaches full charge and HOLDUP_RDY goes high. -/
  | reserveCharged
  /-- BOOT_GO (R72): A host write of 1 to BOOT_GO starts the boot from the image in the boot buffer. -/
  | bootGo (v : Nat)
  /-- FIRMWARE_IMAGE_CHECK (R73): Fixed boot logic checks the loaded image's signature, key digest and generation, and then runs it or sets BOOT to 5 or 6. -/
  | firmwareImageCheck (sig : Nat) (key : Nat) (gen : Nat) (build : Nat) (raise : Nat)
  /-- POST_ROOT_REGION (R44): A POST command 0x00 queues a root region's RCB address in the posting queue of the class, or rejects it. -/
  | postRootRegion (f : Nat) (cls : Nat) (half : Nat) (v : Nat)
  /-- POST_LOW_HALF_WRITE (R45): A 32-bit write to the low half of a POST register latches that half and performs nothing. -/
  | postLowHalfWrite (f : Nat) (cls : Nat) (v : Nat)
  /-- RESYNC_TO_MEMORY (R46): A POST command 0x01 captures a RESYNC summary, writes it to memory at ADDR and to the window, and raises the RESYNC vector. -/
  | resyncToMemory (f : Nat) (cls : Nat) (half : Nat) (v : Nat)
  /-- RESYNC_TO_WINDOW (R46): A POST command 0x02 captures a RESYNC summary into the function's RESYNC window only. -/
  | resyncToWindow (f : Nat) (cls : Nat) (half : Nat) (v : Nat)
  /-- POWER_CMD_CELL (R60): A POWER_CMD of kind cell changes the power state or clock level of one cell, or with ALL of every in-service cell of a pane. -/
  | powerCmdCell (v : Nat)
  /-- POWER_CMD_PANE (R60): A POWER_CMD of kind pane moves a pane between P-ON, P-RET and P-OFF. -/
  | powerCmdPane (v : Nat)
  /-- POWER_CMD_DEVICE (R60): A POWER_CMD of kind device moves the device between D0 and D-LOW. -/
  | powerCmdDevice (v : Nat)
  /-- D_HOLD (R61): A POWER_CMD of kind device to D-HOLD runs the hold-up sequence from board power and leaves the saved slot committed. -/
  | dHold (v : Nat)
  /-- POWER_CMD_COMPLETE (R59): A power transition finishes; BUSY falls, RESULT is set, and the power-command vector is raised. -/
  | powerCmdComplete (rail : Nat)
  /-- CLAMP_TRIGGER (R64): A temperature, current or undervoltage condition makes the limit keeper apply a clamp and raise the clamp vector and the I3C interrupt. -/
  | clampTrigger (kind : Nat) (pane : Nat) (temp : Nat)
  /-- CLAMP_STEP (R64): Every 20 µs while the clamp condition holds, the effective level of the affected cells falls one step, down to the issue duty limit. -/
  | clampStep (tick : ClampTick)
  /-- CLAMP_RELEASE (R66): Writing RELEASE to CLAMP_REL restores the commanded levels, or sets DENIED when the condition is still present. -/
  | clampRelease (v : Nat) (fw : Nat) (same : Nat)
  /-- FAULT_CLEAR (R70): Writing CLEAR to FAULT_CTL releases FAULT_N if no cause remains. -/
  | faultClear (v : Nat) (fw : Nat) (same : Nat)
  /-- ARM_WRITE (R69): A host write to ARM arms or disarms the CSI-2 transmit ports and the I3C controller. -/
  | armWrite (v : Nat) (fw : Nat)
  /-- SEAM_STATUS_CLEAR (R39): Writing CLEAR to a seam-link status register sets RETRY_CNT to zero. -/
  | seamStatusClear (n : Nat) (v : Nat) (same : Nat)
  /-- REGISTER_WRITE (R9): A write to a register field that has no row of its own sets or clears the field by its access code; a firmware write to a protected register is discarded and counted in LK_DENY. -/
  | registerWrite (f : Nat) (off : Nat) (n : Nat) (v : Nat) (fw : Nat)
  /-- I3C_RESYNC (R54): I3C command 0x10 prepares the 512-byte summary, in the physical-function view, for the next read. -/
  | i3cResync
  /-- I3C_STATUS (R54): I3C command 0x11 prepares DEV_STATUS and CLAMP_STAT as the response. -/
  | i3cStatus
  /-- I3C_FAULT_CLEAR (R70): I3C command 0x12 releases FAULT_N if no cause remains and reports the outcome. -/
  | i3cFaultClear (same : Nat)
  /-- FORCE_UNDERCOAT (R55): I3C command 0x13 forces the masked pipes' safety layers onto tell-tales. -/
  | forceUndercoat (mask : Nat)
  /-- RELEASE_UNDERCOAT (R55): I3C command 0x14 clears the forced mask for the masked pipes. -/
  | releaseUndercoat (mask : Nat)
  /-- I3C_HOLDUP (R54): I3C command 0x15 reports the reserve state and KEEPA bytes [3:0]. -/
  | i3cHoldup
  /-- I3C_UNKNOWN_COMMAND (R54): An unknown I3C command code, or an argument with bits [7:4] set, is ignored, and the next read returns 0xEE. -/
  | i3cUnknownCommand
  /-- I3C_PRIVATE_READ (R54): An I3C private read returns the response of the last command, or 0xEE when no command came before it. -/
  | i3cPrivateRead
  /-- VF_CONFIG_REQUEST (R84): The hypervisor cores answer a configuration request to a virtual function from its function entry. -/
  | vfConfigRequest (f : Nat) (item : Nat) (wr : Nat) (v : Nat)
  /-- APERTURE_REQUEST (R85): A host memory request at BAR 2 is translated to device memory, or completes as completer abort. -/
  | apertureRequest (f : Nat) (off : Nat) (n : Nat) (wr : Nat) (v : Nat)
  /-- FUNCTION_LEVEL_RESET (R86): A virtual-function FLR empties its posting queues and starts the context rung on each of its contexts in use. -/
  | functionLevelReset (f : Nat)
  /-- COMMIT (R82): PART_CMD COMMIT checks the configuration table and takes it into effect, including stage-2 invalidation. -/
  | partCommit (v : Nat) (fw : Nat)
  /-- GROW (R90): PART_CMD GROW hands the named unowned quadrants to a partition. -/
  | partGrow (v : Nat) (fw : Nat)
  /-- SHRINK (R91): PART_CMD SHRINK evicts the named quadrants' groups and releases the quadrants, or defers for a co-operative launch. -/
  | partShrink (v : Nat) (fw : Nat)
  /-- SHRINK_COMPLETE (R91): After the last eviction, the released banks are written back, the quadrant storage is zeroed and the quadrants become unowned. -/
  | shrinkComplete (k : Nat)
  /-- DEFERRED_LAUNCH_EVICTION (R92): At the first instant when all groups of a co-operative launch are blocked, the launch is evicted whole and its deferred shrink completes. -/
  | deferredLaunchEviction (k : Nat)
  /-- CANCEL (R93): PART_CMD CANCEL withdraws a deferred shrink from the named quadrants. -/
  | partCancel (v : Nat) (fw : Nat)
  /-- RESET (R101): PART_CMD RESET starts the named rung of the reset ladder on its target. -/
  | rungReset (v : Nat) (fw : Nat)
  /-- INV_CTX (R96): PART_CMD INV_CTX drops every stage-1 entry of a context in every TLB. -/
  | invCtx (v : Nat) (fw : Nat)
  /-- RUNG_TIMEOUT (R102): A rung that is not complete at its timeout is abandoned, and the next rung is started. -/
  | rungTimeout (k : Nat)
  /-- RUNG_COMPLETE (R103): A rung completes; its contexts read faulted, and an error record naming the rung is written. -/
  | rungComplete (k : Nat)
  /-- CLASS_WAYS_WRITE (R98): A write to CLASS_WAYS sets a class's hub-cache ways, or is refused and sets REJ. -/
  | classWaysWrite (cls : Nat) (v : Nat) (fw : Nat)
  /-- CLASS_BW_WRITE (R98): A write to CLASS_BW sets a class's issue-slot share, or is refused and sets REJ. -/
  | classBwWrite (cls : Nat) (v : Nat) (fw : Nat)
  /-- PIPE_ENABLE (R107): A rise of PIPE_CTL EN applies TIMING and PIXCLK and restarts LINES, or is refused and sets REJ. -/
  | pipeEnable (n : Nat) (v : Nat) (link : Nat) (fw : Nat)
  /-- PIPE_DISABLE (R107): A fall of EN stops scan-out at the end of the current frame. -/
  | pipeDisable (n : Nat) (v : Nat) (fw : Nat)
  /-- LAYER_TABLE_COMMIT (R109): Writing COMMIT to PIPE_CTL requests that the layer table at LT_BASE be taken, replacing any pending request. -/
  | layerTableCommit (n : Nat) (v : Nat) (link : Nat) (fw : Nat)
  /-- LAYER_COMMIT_TAKE (R109): At the first blank line, a pending commit is checked and taken for the next frame, or refused with REJ set. -/
  | layerCommitTake (n : Nat)
  /-- COAT_SIGN (R114): The coat checker reads a done coat and computes its CRC-32C signature for each tile. -/
  | coatSign (k : Nat)
  /-- FRAME_DECISION (R115): At the decision point, each enabled layer takes one outcome for the frame: passed, late, repeated, mismatch or tell-tales. -/
  | frameDecision (n : Nat)
  /-- SCANOUT_TILE_CHECK (R117): Pixels read for scan-out of a passed layer are signed per tile, and a difference sets DIFF, COATFAIL and FAULT_N. -/
  | scanoutTileCheck (n : Nat) (i : Nat) (t : Nat)
  /-- PANE_SELF_TEST_START (R121): Once the quarantine rungs have completed and the pane is in P-ON, a self-test starts on its in-service cells. -/
  | paneSelfTestStart (p : Nat)
  /-- PANE_SELF_TEST_END (R121): The pane self-test ends; PASSED or FAILED and QUAR_FAILCELL are set and vector 11 is raised. -/
  | paneSelfTestEnd (p : Nat) (fail : Nat)
  /-- READMIT (R123): A QUAR_CMD READMIT write readmits a quarantined pane, or is refused while its self-test is pending. -/
  | readmit (v : Nat) (fw : Nat)
  /-- TELLTALE_LOAD (R120): A TT_CMD write starts copying an image from TT_SRC into a tell-tale slot, or is refused. -/
  | telltaleLoad (v : Nat) (fw : Nat)
  /-- TELLTALE_COPY_COMPLETE (R120): The tell-tale copy ends and its RESULT is set. -/
  | telltaleCopyComplete
  /-- LATCH_WRITE (R125): A host write to a LATCH register goes to the pending set, and a write to LATCH 7 closes the set. -/
  | latchWrite (w : Nat) (v : Nat) (fw : Nat)
  /-- HUD_LATCH_TAKE (R125): At the latch line, the windscreen stage takes the completed pending set for the next frame, or counts STALE. -/
  | hudLatchTake
  /-- CAMERA_STREAM_WRITE (R127): A write to a stream's control word enables the stream, or leaves EN at 0 for a bad NBUF or data type. -/
  | cameraStreamWrite (i : Nat) (v : Nat) (fw : Nat)
  /-- CAMERA_FRAME_START (R128): At frame start, the port zeroes SEQ in the next ring buffer. -/
  | cameraFrameStart (ch : CamChannel)
  /-- CAMERA_LINE (R128): A received line lands in the buffer, truncated or flagged as needed. -/
  | cameraLine (pk : CamPacket) (n : Nat) (v : Nat) (crc : Nat)
  /-- CAMERA_FRAME_END (R129): At frame end, the port writes the frame record, adds to the semaphore and raises the frame-done interrupt. -/
  | cameraFrameEnd (ch : CamChannel)
  /-- CAMERA_TX_FRAME (R32): A frame presented to a CSI-2 transmit port is sent if the port is armed, and otherwise discarded and counted. -/
  | cameraTxFrame (port : Nat)
  /-- DEVQ_ENABLE (R136): A rise of DEVQ_CTL EN restarts the device queue's SEQ and HEAD. -/
  | devqEnable (v : Nat) (fw : Nat)
  /-- LANE (R149): SPARE_CMD LANE moves a failing lane onto its sub-core's spare lane. -/
  | spareLane (v : Nat) (fw : Nat)
  /-- CELL (R149): SPARE_CMD CELL retires a physical cell and brings in the pane's spare. -/
  | spareCell (v : Nat) (fw : Nat)
  /-- WAY (R149): SPARE_CMD WAY retires a hub-cache way in all slices and brings in the spare way. -/
  | spareWay (v : Nat) (fw : Nat)
  /-- CHANNEL (R150): SPARE_CMD CHANNEL starts migrating a physical channel to a trained spare. -/
  | spareChannel (v : Nat) (fw : Nat)
  /-- UNFENCE (R149): SPARE_CMD UNFENCE reruns the bead self-test on the named quadrants and unfences those that pass. -/
  | unfence (v : Nat) (fw : Nat)
  /-- SPARE_CMD_COMPLETE (R148): A spare command finishes; BUSY falls, vector 13 is raised and spare-event records are written. -/
  | spareCmdComplete (fail : Nat)
  /-- CHANNEL_MIGRATION_COMPLETE (R150): After the last line is copied, the hub remaps the logical channel to the spare in one step. -/
  | channelMigrationComplete
  /-- SEAM_FLIT_REPLAY (R37): A flit CRC error on a seam link makes the link replay the flit, counting it and setting CRC_SEEN. -/
  | seamFlitReplay (n : Nat)
  /-- SEAM_EYE_CHECK (R151): The periodic eye-margin check of each seam lane runs every 10 ms. -/
  | seamEyeCheck (n : Nat) (lane : Nat) (fail : Nat)
  /-- SEAM_LANE_FAIL (R151): A failing seam lane takes a spare, or makes the link retrain at half width or fail. -/
  | seamLaneFail (n : Nat) (lane : Nat)
  /-- CORRECTED_ERROR (R152): A corrected codeword increments CE_CHAN COUNT, and may set ALARM and write a threshold record. -/
  | correctedError (p : ErrPlace)
  /-- AGE_SAMPLE (R153): Each ageing monitor is sampled every 10 ms of C-ACT time, and a crossing sets ALARM and writes a record. -/
  | ageSample (phys : Nat) (m : Nat) (reading : Nat)
  /-- BEAD_SELF_TEST_START (R189): A due bead self-test starts at the first idle gap of its quadrant. -/
  | beadSelfTestStart (c : Nat) (q : Nat)
  /-- BEAD_SELF_TEST_END (R154): A bead self-test ends after 12 µs, and a failure fences the quadrant. -/
  | beadSelfTestEnd (c : Nat) (q : Nat) (fail : Nat)
  /-- BEAD_SELF_TEST_OVERDUE (R154): If no idle gap occurs for 1 s, a record marked overdue is written. -/
  | beadSelfTestOverdue (c : Nat) (q : Nat)
  /-- DIR (R163): KEEP_CMD DIR copies a slot's header, records and state bytes to KEEP_DST. -/
  | keepDir (v : Nat) (fw : Nat)
  /-- DATA (R163): KEEP_CMD DATA copies one region's data to KEEP_DST. -/
  | keepData (v : Nat) (fw : Nat)
  /-- ERASE (R163): KEEP_CMD ERASE makes a keep slot empty. -/
  | keepErase (v : Nat) (fw : Nat)
  /-- KEEP_CMD_COMPLETE (R163): A keep command finishes and raises vector 15. -/
  | keepCmdComplete
  /-- ROLLBACK (R142): At the end of the skid, a rollback block restores its shadows, discards uncommitted lines and restarts after its barrier. -/
  | rollback (b : Nat)
  /-- POST_TAKE (R48): The scheduler takes a posted entry, reads its RCB and checks it for admission. -/
  | postTake (f : Nat) (cls : Nat)
  /-- BLOCK_PLACE (R174): When resources are freed, the scheduler places waiting regions' blocks on eligible quadrants. -/
  | blockPlace (p : Nat)
  /-- ARBITRATION (R183): A sub-core or abacus sequencer chooses the next ready group to run. -/
  | arbitration (cell : Nat) (unit : Nat)
  /-- GROUP_WAKE (R182): A blocked group becomes ready when its wake condition holds. -/
  | groupWake (i : Nat)
  /-- SLICE_END (R186): A region's charge reaching SLICE with a waiter, or a higher-priority waiter, ends its slice on a cell and puts its groups into the slice wait. -/
  | sliceEnd (r : Nat) (c : Nat)
  /-- BLOCK_EVICT (R187): A block is evicted at the first clock in which all its groups are blocked, and is saved to its image. -/
  | blockEvict (b : Nat)
  /-- REGION_COMPLETE (R172): A region becomes complete, and its completion word and interrupt are written. -/
  | regionComplete (r : Nat)
  /-- RESULT_LANDING (R205): A register-targeted pending result lands in its register, or is discarded for an ended group. -/
  | resultLanding (i : Nat) (k : Nat)
  /-- GROUP_SLOT_RELEASE (R206): After EXIT, a group releases its slot once its pending results, operations and stores have completed. -/
  | groupSlotRelease (i : Nat)
  /-- TRACKER_ENTRY_FREE (R207): A retirement-tracker entry is freed when all its operations have completed. -/
  | trackerEntryFree (i : Nat)
  /-- CONT_RESULT_WRITE (R211): A continuation request's result is written into its record, and the record becomes ready. -/
  | contResultWrite (k : Nat)
  /-- REGROUP_RELAUNCH (R213): The regrouping unit relaunches a due bucket as a new group, in sort-key order. -/
  | regroupRelaunch (cell : Nat)
  /-- WATCHDOG_EXPIRY (R300): A group held in place for 2^26 clocks raises WATCHDOG. -/
  | watchdogExpiry (i : Nat)
  /-- GATE_BUDGET_EXPIRY (R347): A gate call reaching START + 1,024 × BUDGET before GRET raises WATCHDOG in the callee. -/
  | gateBudgetExpiry (i : Nat)
  /-- SLEEP_EXPIRY (R333): A group sleeping in SLEEP.UNTIL or SLEEP.CYC wakes when the cell counter reaches its time. -/
  | sleepExpiry (i : Nat)
  /-- LINE_FILL_RETURN (R182): A cell-cache fill returns its line, and a GLD blocked on the miss completes. -/
  | lineFillReturn (g : Nat)
  /-- RELEASE_DRAIN_COMPLETE (R250): The write-backs ahead of a release's marker are acknowledged, and the release's own access is performed. -/
  | releaseDrainComplete (g : Nat)
  /-- TLB_WALK_COMPLETE (R241): A page walk returns and fills the TLBs, or raises a translation fault. -/
  | tlbWalkComplete (cell : Nat) (quad : Nat) (c : Nat) (va : Nat)
  /-- ATOMIC_PERFORM (R256): A service sub-core performs a queued ATOM, ARED or GLZ request indivisibly at the home copy. -/
  | atomicPerform (k : Nat)
  /-- ATOM_REPLY (R424): An atomic's reply is written into its return slot. -/
  | atomReply (k : Nat)
  /-- HOD_OP_COMPLETE (R260): A hod operation completes, arrives on its barrier object and retires in order. -/
  | hodOpComplete (cell : Nat) (quad : Nat) (k : Nat)
  /-- MSG_DELIVER (R439): A message is written into a free message slot at its destination cell. -/
  | msgDeliver (k : Nat)
  /-- MONITOR_MATCH (R258): A write performed at the home copy that satisfies a WAITC monitor wakes its group and frees the monitor. -/
  | monitorMatch (i : Nat)
  /-- MONITOR_POLL (R258): With no free monitor, the slice reads a waited location every 2 µs. -/
  | monitorPoll (i : Nat)
  /-- KSTEP (R285): The bead engine performs one K-step of a queued MMA into its tile. -/
  | kstep (i : Nat)
  /-- MATRIX_OP_COMPLETE (R260): A matrix operation completes on the bead engine, arrives on any barrier object and retires. -/
  | matrixOpComplete (i : Nat)
  /-- TEX_COMPLETE (R489): The texture unit completes a request and writes its result or continuation record. -/
  | texComplete (k : Nat)
  /-- TRACE_COMPLETE (R495): The intersection unit ends or pauses a traversal and writes its results. -/
  | traceComplete (k : Nat)
  /-- FORCED_RENDER (R473): A held emission starts a forced render of every bin holding entries. -/
  | forcedRender (k : Nat)
  /-- TICKET_DONE (R471): A ticket becomes done, letting the tile's next ticket be issued. -/
  | ticketDone (k : Nat) (t : Nat)
  /-- TILE_FLUSH (R473): A force-rendered tile's memory is written to the flush area and freed. -/
  | tileFlush (k : Nat) (t : Nat)
  /-- TILE_STORE (R474): A closed pass stores a tile to its colour and depth surfaces once all its tickets are done. -/
  | tileStore (k : Nat) (t : Nat)
  /-- NOP (R324): The all-zero word does nothing for one clock. -/
  | nop
  /-- EXIT (R331): EXIT ends every active thread. -/
  | exit
  /-- TAIL (R331): TAIL ends every active thread and releases the slot early through the tracker. -/
  | tail
  /-- TRAP (R332): TRAP raises USER_TRAP. -/
  | trap (i : BitVec 8)
  /-- BRK (R332): BRK raises BREAKPOINT. -/
  | brk (i : BitVec 8)
  /-- RESUME (R296): RESUME ends the handler and returns the parked lanes to sr.trappc. -/
  | resume
  /-- SREAD (R335): SREAD reads a special register into scalars. -/
  | sread (d : BitVec 8) (n : BitVec 8)
  /-- SWRITE (R335): SWRITE writes a special register from scalars. -/
  | swrite (s : BitVec 8) (n : BitVec 8)
  /-- SLEEP_UNTIL (R333): SLEEP.UNTIL blocks until the cell counter reaches a value, then checks promises. -/
  | sleepUntil (s : BitVec 8)
  /-- SLEEP_CYC (R333): SLEEP.CYC blocks for a number of clocks. -/
  | sleepCyc (s : BitVec 8)
  /-- YIELD (R333): YIELD blocks with a wake condition that is true at once. -/
  | yield
  /-- PFAIL_DONE (R334): PFAIL.DONE ends the power-fail handler group and counts it as done. -/
  | pfailDone
  /-- IF_K_ELSE (R339): IF.K with an ELSE pushes an IF entry, selecting lanes by a mask. -/
  | ifKElse (k : BitVec 3) (o : BitVec 13)
  /-- IF_NK_ELSE (R339): IF.NK with an ELSE pushes an IF entry for lanes outside a mask. -/
  | ifNkElse (k : BitVec 3) (o : BitVec 13)
  /-- IF_S_ELSE (R339): IF.S with an ELSE pushes an IF entry on a non-zero scalar. -/
  | ifSElse (s : BitVec 8) (o : BitVec 13)
  /-- IF_NS_ELSE (R339): IF.NS with an ELSE pushes an IF entry on a zero scalar. -/
  | ifNsElse (s : BitVec 8) (o : BitVec 13)
  /-- IF_K (R339): IF.K without an ELSE pushes an IF entry, selecting lanes by a mask. -/
  | ifK (k : BitVec 3) (o : BitVec 13)
  /-- IF_NK (R339): IF.NK without an ELSE. -/
  | ifNk (k : BitVec 3) (o : BitVec 13)
  /-- IF_S (R339): IF.S without an ELSE. -/
  | ifS (s : BitVec 8) (o : BitVec 13)
  /-- IF_NS (R339): IF.NS without an ELSE. -/
  | ifNs (s : BitVec 8) (o : BitVec 13)
  /-- ELSE (R339): ELSE turns the group to the IF entry's waiting lanes. -/
  | elseArm (o : BitVec 13)
  /-- ENDIF (R339): ENDIF pops the IF entry and rejoins its lanes. -/
  | endif
  /-- LOOP (R339): LOOP pushes a LOOP entry. -/
  | loop (o : BitVec 13)
  /-- ENDLOOP (R339): ENDLOOP sends the lanes still in the loop back to its body. -/
  | endloop
  /-- BREAK_K (R339): BREAK.K takes masked lanes out of the loop. -/
  | breakK (k : BitVec 3)
  /-- BREAK_S (R339): BREAK.S takes the lanes out of the loop on a non-zero scalar. -/
  | breakS (s : BitVec 8)
  /-- CONTINUE_K (R339): CONTINUE.K sends masked lanes to the next iteration. -/
  | continueK (k : BitVec 3)
  /-- CONTINUE_S (R339): CONTINUE.S sends the lanes to the next iteration on a non-zero scalar. -/
  | continueS (s : BitVec 8)
  /-- CALL (R339): CALL pushes a CALL entry and jumps. -/
  | call (o : BitVec 13)
  /-- RET (R339): RET pops the CALL entry and returns. -/
  | ret
  /-- GATE (R345): GATE calls into another context's resident service through a gate entry. -/
  | gate (i : BitVec 8)
  /-- GRET (R348): GRET returns from a gate call and restores the caller from the frame. -/
  | gret
  /-- BAR (R350): BAR arrives at the block barrier and waits. -/
  | bar
  /-- BAR_ARRIVE (R350): BAR.ARRIVE arrives at the block barrier. -/
  | barArrive
  /-- BAR_DROP (R350): BAR.DROP leaves the block barrier. -/
  | barDrop
  /-- BAR_WAIT (R350): BAR.WAIT waits for the phase of the thread's latest arrival. -/
  | barWait
  /-- BOBJ_INIT (R353): BOBJ.INIT initialises a barrier object. -/
  | bobjInit (p : BitVec 8) (b : BitVec 8) (m : BitVec 1)
  /-- BOBJ_JOIN (R354): BOBJ.JOIN subscribes the active lanes to a barrier object. -/
  | bobjJoin (b : BitVec 8)
  /-- BOBJ_LEAVE (R354): BOBJ.LEAVE unsubscribes the active lanes. -/
  | bobjLeave (b : BitVec 8)
  /-- BOBJ_ARRIVE (R355): BOBJ.ARRIVE arrives on a barrier object, lane by lane. -/
  | bobjArrive (p : BitVec 8) (b : BitVec 8) (a : BitVec 1)
  /-- BOBJ_EXPECT (R353): BOBJ.EXPECT adds to the phase's expected count. -/
  | bobjExpect (p : BitVec 8) (b : BitVec 8)
  /-- BOBJ_WAIT (R356): BOBJ.WAIT blocks until the phase completes. -/
  | bobjWait (p : BitVec 8) (b : BitVec 8)
  /-- BOBJ_TEST (R356): BOBJ.TEST reports whether the phase is complete or starved. -/
  | bobjTest (p : BitVec 8) (b : BitVec 8)
  /-- WAIT_CNT (R358): WAIT.CNT blocks until a counter class is at or below a threshold. -/
  | waitCnt (n : BitVec 6) (c : BitVec 2)
  /-- FENCE (R358): FENCE performs a release, an acquire or both at a scope. -/
  | fence (s : BitVec 3) (o : BitVec 3)
  /-- SEM_SET (R359): SEM.SET sets a semaphore. -/
  | semSet (a : BitVec 8) (n : BitVec 8)
  /-- SEM_ADD (R359): SEM.ADD adds to a semaphore. -/
  | semAdd (a : BitVec 8) (n : BitVec 8)
  /-- SEM_WAITGE (R359): SEM.WAITGE blocks until a semaphore reaches a value. -/
  | semWaitge (a : BitVec 8) (n : BitVec 8)
  /-- SEM_READ (R359): SEM.READ reads a semaphore. -/
  | semRead (d : BitVec 8) (n : BitVec 8)
  /-- WAITC (R361): WAITC arms a monitor on a location and, without ARM, blocks until a monitor matches. -/
  | waitc (r : BitVec 1) (w : BitVec 1) (c : BitVec 3) (a : BitVec 8) (b : BitVec 8)
  /-- MON_CANCEL (R361): MON.CANCEL frees every monitor of the group. -/
  | monCancel
  /-- LAUNCH (R362): LAUNCH starts a child region and returns its take status. -/
  | launch (r : BitVec 8) (d : BitVec 8)
  /-- REGION_JOIN (R363): REGION.JOIN counts the block's launched regions that are not complete. -/
  | regionJoin (d : BitVec 8)
  /-- MSG_SEND (R439): MSG.SEND sends a 64-byte payload to a cell. -/
  | msgSend (r : BitVec 8) (b : BitVec 8)
  /-- MSG_RECV (R440): MSG.RECV blocks for a message on a channel and copies it. -/
  | msgRecv (r : BitVec 8) (b : BitVec 8) (c : BitVec 4)
  /-- MSG_POLL (R440): MSG.POLL takes a waiting message without blocking. -/
  | msgPoll (r : BitVec 8) (b : BitVec 8) (c : BitVec 4)
  /-- MSG_FREE (R438): MSG.FREE drops the oldest waiting message of a channel. -/
  | msgFree (r : BitVec 8) (c : BitVec 4)
  /-- PRIM_EMIT (R475): PRIM.EMIT emits a triangle per active lane into a pass. -/
  | primEmit (a : BitVec 7) (b : BitVec 7)
  /-- PRIM_EMIT_CLOSE (R475): PRIM.EMIT.CLOSE closes a pass. -/
  | primEmitClose (b : BitVec 7)
  /-- TILE_GET (R475): TILE.GET blocks for a ticket half and binds the group's threads to it. -/
  | tileGet (k : BitVec 3) (b : BitVec 7)
  /-- TILE_DONE (R475): TILE.DONE releases the active threads' ticket bindings. -/
  | tileDone
  /-- TILE_ATTR (R475): TILE.ATTR reads a ticket word or the primitive's USER. -/
  | tileAttr (d : BitVec 7) (w : BitVec 4)
  /-- EDGE (R479): EDGE writes each lane's sample coverage mask. -/
  | edge (d : BitVec 7)
  /-- INTERP (R479): INTERP computes a barycentric or depth quantity at a point. -/
  | interp (d : BitVec 7) (p : BitVec 4) (f : BitVec 3)
  /-- SAMPLEPOS (R479): SAMPLEPOS writes a point's pixel position. -/
  | samplepos (d : BitVec 7) (p : BitVec 4)
  /-- GLZ_INSERT (R484): GLZ.INSERT inserts a fragment into a pixel's glaze list, merging on overflow. -/
  | glzInsert (z : BitVec 7) (s : BitVec 7) (c : BitVec 7)
  /-- GLZ_COUNT (R485): GLZ.COUNT returns a pixel's layer count. -/
  | glzCount (d : BitVec 7) (s : BitVec 7)
  /-- GLZ_READ (R485): GLZ.READ returns one layer of a pixel. -/
  | glzRead (d : BitVec 7) (s : BitVec 7) (i : BitVec 7)
  /-- GLZ_RESOLVE (R485): GLZ.RESOLVE composites a pixel's layers over a background. -/
  | glzResolve (d : BitVec 7) (s : BitVec 7) (b : BitVec 7)
  /-- GLZ_RESOLVE_CLR (R485): GLZ.RESOLVE.CLR resolves a pixel and clears its head. -/
  | glzResolveClr (d : BitVec 7) (s : BitVec 7) (b : BitVec 7)
  /-- GLZ_CLEAR (R485): GLZ.CLEAR sets a pixel's head to none. -/
  | glzClear (s : BitVec 7)
  /-- TEX_SAMPLE (R489): TEX.SAMPLE samples a filtered texture into registers. -/
  | texSample (d : BitVec 7) (a : BitVec 7) (b : BitVec 8) (cm : BitVec 2) (f : BitVec 1) (lm : BitVec 2) (c : BitVec 7)
  /-- TEX_LOAD (R489): TEX.LOAD loads one texel exactly. -/
  | texLoad (d : BitVec 7) (a : BitVec 7) (b : BitVec 8) (cm : BitVec 2) (f : BitVec 1) (lm : BitVec 2) (c : BitVec 7)
  /-- TEX_GATHER4 (R489): TEX.GATHER4 returns one component of four texels. -/
  | texGather4 (d : BitVec 7) (a : BitVec 7) (b : BitVec 8) (cm : BitVec 2) (f : BitVec 1) (lm : BitVec 2) (c : BitVec 7)
  /-- TEX_LOD (R489): TEX.LOD returns the level of detail. -/
  | texLod (d : BitVec 7) (a : BitVec 7) (b : BitVec 8) (cm : BitVec 2) (f : BitVec 1) (lm : BitVec 2) (c : BitVec 7)
  /-- TEX_SAMPLE_C (R491): TEX.SAMPLE.C captures the thread and samples into its continuation record. -/
  | texSampleC (d : BitVec 7) (a : BitVec 7) (b : BitVec 8) (cm : BitVec 2) (f : BitVec 1) (lm : BitVec 2) (c : BitVec 7)
  /-- TEX_LOAD_C (R491): TEX.LOAD.C is the continuation form of TEX.LOAD. -/
  | texLoadC (d : BitVec 7) (a : BitVec 7) (b : BitVec 8) (cm : BitVec 2) (f : BitVec 1) (lm : BitVec 2) (c : BitVec 7)
  /-- TEX_GATHER4_C (R491): TEX.GATHER4.C is the continuation form of TEX.GATHER4. -/
  | texGather4C (d : BitVec 7) (a : BitVec 7) (b : BitVec 8) (cm : BitVec 2) (f : BitVec 1) (lm : BitVec 2) (c : BitVec 7)
  /-- TEX_LOD_C (R491): TEX.LOD.C is the continuation form of TEX.LOD. -/
  | texLodC (d : BitVec 7) (a : BitVec 7) (b : BitVec 8) (cm : BitVec 2) (f : BitVec 1) (lm : BitVec 2) (c : BitVec 7)
  /-- TRACE (R495): TRACE traverses a scene for each lane's ray. -/
  | trace (d : BitVec 7) (a : BitVec 7) (b : BitVec 8) (tf : BitVec 1) (any : BitVec 1)
  /-- TRACE_C (R491): TRACE.C captures the thread and traces into its continuation record. -/
  | traceC (d : BitVec 7) (a : BitVec 7) (b : BitVec 8) (tf : BitVec 1) (any : BitVec 1)
  /-- HIT_REPORT (R495): HIT.REPORT accepts the program's own hit and resumes the traversal. -/
  | hitReport (d : BitVec 7) (a : BitVec 7)
  /-- HIT_ACCEPT (R495): HIT.ACCEPT accepts the candidate and resumes. -/
  | hitAccept (d : BitVec 7)
  /-- HIT_IGNORE (R495): HIT.IGNORE drops the candidate and resumes. -/
  | hitIgnore (d : BitVec 7)
  /-- CONT_KEY (R492): CONT.KEY sets the continuation keys. -/
  | contKey (a : BitVec 7)
  /-- REPACK (R492): REPACK captures the threads into continuation records for regrouping. -/
  | repack (s : BitVec 7)
  /-- IADD (R376): IADD adds integers modulo 2^32. -/
  | iadd (d : BitVec 7) (a : BitVec 7) (b : BitVec 7) (lit : BitVec 32)
  /-- IADD_SAT (R376): IADD.sat adds with signed saturation. -/
  | iaddSat (d : BitVec 7) (a : BitVec 7) (b : BitVec 7) (lit : BitVec 32)
  /-- IADD_SAT_U (R376): IADD.sat.u adds with unsigned saturation. -/
  | iaddSatU (d : BitVec 7) (a : BitVec 7) (b : BitVec 7) (lit : BitVec 32)
  /-- ISUB (R376): ISUB subtracts integers modulo 2^32. -/
  | isub (d : BitVec 7) (a : BitVec 7) (b : BitVec 7) (lit : BitVec 32)
  /-- ISUB_SAT (R376): ISUB.sat subtracts with signed saturation. -/
  | isubSat (d : BitVec 7) (a : BitVec 7) (b : BitVec 7) (lit : BitVec 32)
  /-- ISUB_SAT_U (R376): ISUB.sat.u subtracts with unsigned saturation. -/
  | isubSatU (d : BitVec 7) (a : BitVec 7) (b : BitVec 7) (lit : BitVec 32)
  /-- INEG (R376): INEG negates. -/
  | ineg (d : BitVec 7) (a : BitVec 7) (lit : BitVec 32)
  /-- IABS (R376): IABS takes the absolute value. -/
  | iabs (d : BitVec 7) (a : BitVec 7) (lit : BitVec 32)
  /-- IABSD (R376): IABSD takes the signed absolute difference. -/
  | iabsd (d : BitVec 7) (a : BitVec 7) (b : BitVec 7) (lit : BitVec 32)
  /-- IABSD_U (R376): IABSD.u takes the unsigned absolute difference. -/
  | iabsdU (d : BitVec 7) (a : BitVec 7) (b : BitVec 7) (lit : BitVec 32)
  /-- IADD_CC (R377): IADD.cc adds with a carry mask. -/
  | iaddCc (d : BitVec 7) (a : BitVec 7) (b : BitVec 7) (ci : BitVec 1) (kc : BitVec 3)
  /-- ISUB_CC (R377): ISUB.cc subtracts with a borrow mask. -/
  | isubCc (d : BitVec 7) (a : BitVec 7) (b : BitVec 7) (ci : BitVec 1) (kc : BitVec 3)
  /-- IMUL_LO (R378): IMUL.LO gives the low product. -/
  | imulLo (d : BitVec 7) (a : BitVec 7) (b : BitVec 7) (lit : BitVec 32)
  /-- IMUL_HI (R378): IMUL.HI gives the signed high product. -/
  | imulHi (d : BitVec 7) (a : BitVec 7) (b : BitVec 7) (lit : BitVec 32)
  /-- IMUL_HI_U (R378): IMUL.HI.u gives the unsigned high product. -/
  | imulHiU (d : BitVec 7) (a : BitVec 7) (b : BitVec 7) (lit : BitVec 32)
  /-- IMAC (R378): IMAC multiplies and adds. -/
  | imac (d : BitVec 7) (a : BitVec 7) (b : BitVec 7) (c : BitVec 7)
  /-- IDOT4 (R379): IDOT4 forms a four-way byte dot product and adds it. -/
  | idot4 (d : BitVec 7) (a : BitVec 7) (b : BitVec 7) (sat : BitVec 1) (bu : BitVec 1) (au : BitVec 1) (c : BitVec 7)
  /-- AND (R380): AND. -/
  | and (d : BitVec 7) (a : BitVec 7) (b : BitVec 7) (lit : BitVec 32)
  /-- OR (R380): OR. -/
  | or (d : BitVec 7) (a : BitVec 7) (b : BitVec 7) (lit : BitVec 32)
  /-- XOR (R380): XOR. -/
  | xor (d : BitVec 7) (a : BitVec 7) (b : BitVec 7) (lit : BitVec 32)
  /-- ANDN (R380): AND with the complement. -/
  | andn (d : BitVec 7) (a : BitVec 7) (b : BitVec 7) (lit : BitVec 32)
  /-- NOT (R380): NOT. -/
  | not (d : BitVec 7) (a : BitVec 7) (lit : BitVec 32)
  /-- SHL (R380): Shift left. -/
  | shl (d : BitVec 7) (a : BitVec 7) (b : BitVec 7) (lit : BitVec 32)
  /-- SHR (R380): Logical shift right. -/
  | shr (d : BitVec 7) (a : BitVec 7) (b : BitVec 7) (lit : BitVec 32)
  /-- SAR (R380): Arithmetic shift right. -/
  | sar (d : BitVec 7) (a : BitVec 7) (b : BitVec 7) (lit : BitVec 32)
  /-- ROTL (R380): Rotate left. -/
  | rotl (d : BitVec 7) (a : BitVec 7) (b : BitVec 7) (lit : BitVec 32)
  /-- FSHR (R380): Funnel shift right. -/
  | fshr (d : BitVec 7) (a : BitVec 7) (b : BitVec 7) (c : BitVec 7)
  /-- IMIN (R380): Signed minimum. -/
  | imin (d : BitVec 7) (a : BitVec 7) (b : BitVec 7) (lit : BitVec 32)
  /-- IMIN_U (R380): Unsigned minimum. -/
  | iminU (d : BitVec 7) (a : BitVec 7) (b : BitVec 7) (lit : BitVec 32)
  /-- IMAX (R380): Signed maximum. -/
  | imax (d : BitVec 7) (a : BitVec 7) (b : BitVec 7) (lit : BitVec 32)
  /-- IMAX_U (R380): Unsigned maximum. -/
  | imaxU (d : BitVec 7) (a : BitVec 7) (b : BitVec 7) (lit : BitVec 32)
  /-- ICMP (R380): ICMP compares integers into a mask, with the condition in FN. -/
  | icmp (c : BitVec 5) (k : BitVec 3) (a : BitVec 7) (b : BitVec 7) (lit : BitVec 32)
  /-- POPC (R381): Population count. -/
  | popc (d : BitVec 7) (a : BitVec 7) (lit : BitVec 32)
  /-- CLZ (R381): Count leading zeros. -/
  | clz (d : BitVec 7) (a : BitVec 7) (lit : BitVec 32)
  /-- BREV (R381): Bit reverse. -/
  | brev (d : BitVec 7) (a : BitVec 7) (lit : BitVec 32)
  /-- BFE (R381): Bit-field extract, zero-extended. -/
  | bfe (d : BitVec 7) (a : BitVec 7) (b : BitVec 7) (lit : BitVec 32)
  /-- BFE_S (R381): Bit-field extract, sign-extended. -/
  | bfeS (d : BitVec 7) (a : BitVec 7) (b : BitVec 7) (lit : BitVec 32)
  /-- BFI (R381): Bit-field insert. -/
  | bfi (d : BitVec 7) (a : BitVec 7) (b : BitVec 7) (c : BitVec 7)
  /-- IADDI (R382): Add a signed immediate. -/
  | iaddi (d : BitVec 7) (a : BitVec 7) (i : BitVec 7)
  /-- ANDI (R382): AND with an immediate. -/
  | andi (d : BitVec 7) (a : BitVec 7) (i : BitVec 7)
  /-- ORI (R382): OR with an immediate. -/
  | ori (d : BitVec 7) (a : BitVec 7) (i : BitVec 7)
  /-- XORI (R382): XOR with an immediate. -/
  | xori (d : BitVec 7) (a : BitVec 7) (i : BitVec 7)
  /-- SHLI (R382): Shift left by an immediate. -/
  | shli (d : BitVec 7) (a : BitVec 7) (i : BitVec 7)
  /-- SHRI (R382): Logical shift right by an immediate. -/
  | shri (d : BitVec 7) (a : BitVec 7) (i : BitVec 7)
  /-- SARI (R382): Arithmetic shift right by an immediate. -/
  | sari (d : BitVec 7) (a : BitVec 7) (i : BitVec 7)
  /-- FADD (R383): Floating add, FP32 or packed FP16, optionally saturating. -/
  | fadd (s : BitVec 1) (p : BitVec 1) (d : BitVec 7) (a : BitVec 7) (b : BitVec 7) (lit : BitVec 32)
  /-- FSUB (R383): Floating subtract. -/
  | fsub (s : BitVec 1) (p : BitVec 1) (d : BitVec 7) (a : BitVec 7) (b : BitVec 7) (lit : BitVec 32)
  /-- FMUL (R383): Floating multiply. -/
  | fmul (s : BitVec 1) (p : BitVec 1) (d : BitVec 7) (a : BitVec 7) (b : BitVec 7) (lit : BitVec 32)
  /-- FMIN (R384): Floating minimum. -/
  | fmin (s : BitVec 1) (p : BitVec 1) (d : BitVec 7) (a : BitVec 7) (b : BitVec 7) (lit : BitVec 32)
  /-- FMAX (R384): Floating maximum. -/
  | fmax (s : BitVec 1) (p : BitVec 1) (d : BitVec 7) (a : BitVec 7) (b : BitVec 7) (lit : BitVec 32)
  /-- FMAC (R383): Fused multiply-accumulate into vd. -/
  | fmac (s : BitVec 1) (p : BitVec 1) (d : BitVec 7) (a : BitVec 7) (b : BitVec 7) (lit : BitVec 32)
  /-- FMA (R383): Fused multiply-add of three sources. -/
  | fma (s : BitVec 1) (p : BitVec 1) (d : BitVec 7) (a : BitVec 7) (b : BitVec 7) (c : BitVec 7)
  /-- FLERP (R383): Linear interpolation, rounded once. -/
  | flerp (s : BitVec 1) (p : BitVec 1) (d : BitVec 7) (a : BitVec 7) (b : BitVec 7) (c : BitVec 7)
  /-- FCMP (R385): FCMP compares FP32 values into a mask. -/
  | fcmp (c : BitVec 3) (k : BitVec 3) (a : BitVec 7) (b : BitVec 7) (lit : BitVec 32)
  /-- FCLASS (R385): FCLASS classifies an FP32 value. -/
  | fclass (d : BitVec 7) (a : BitVec 7) (lit : BitVec 32)
  /-- FRCP (R386): Reciprocal. -/
  | frcp (p : BitVec 1) (d : BitVec 7) (a : BitVec 7) (lit : BitVec 32)
  /-- FRSQ (R386): Reciprocal square root. -/
  | frsq (p : BitVec 1) (d : BitVec 7) (a : BitVec 7) (lit : BitVec 32)
  /-- FSQRT (R386): Square root. -/
  | fsqrt (p : BitVec 1) (d : BitVec 7) (a : BitVec 7) (lit : BitVec 32)
  /-- FEXP2 (R386): Power of two. -/
  | fexp2 (p : BitVec 1) (d : BitVec 7) (a : BitVec 7) (lit : BitVec 32)
  /-- FLOG2 (R386): Base-two logarithm. -/
  | flog2 (p : BitVec 1) (d : BitVec 7) (a : BitVec 7) (lit : BitVec 32)
  /-- FSIN (R386): Sine in revolutions. -/
  | fsin (p : BitVec 1) (d : BitVec 7) (a : BitVec 7) (lit : BitVec 32)
  /-- FCOS (R386): Cosine in revolutions. -/
  | fcos (p : BitVec 1) (d : BitVec 7) (a : BitVec 7) (lit : BitVec 32)
  /-- FTANH (R386): Hyperbolic tangent. -/
  | ftanh (p : BitVec 1) (d : BitVec 7) (a : BitVec 7) (lit : BitVec 32)
  /-- CVT (R389): CVT converts one element per lane between formats. -/
  | cvt (d : BitVec 7) (a : BitVec 7) (el : BitVec 3) (sf : BitVec 4) (sat : BitVec 1) (rm : BitVec 2) (df : BitVec 4)
  /-- FRND (R390): FRND rounds to an integral value in the source's own format. -/
  | frnd (d : BitVec 7) (a : BitVec 7) (p : BitVec 1) (m : BitVec 3) (lit : BitVec 32)
  /-- CVT_PK2 (R392): CVT.PK2 packs two converted values. -/
  | cvtPk2 (d : BitVec 7) (a : BitVec 7) (b : BitVec 7) (sat : BitVec 1) (rm : BitVec 2) (df : BitVec 4)
  /-- CVT_PK4 (R392): CVT.PK4 packs two converted 8-bit values at a position. -/
  | cvtPk4 (p : BitVec 1) (d : BitVec 7) (a : BitVec 7) (b : BitVec 7) (sat : BitVec 1) (rm : BitVec 2) (df : BitVec 4)
  /-- CVT_PK8 (R392): CVT.PK8 packs two converted 4-bit values at a position. -/
  | cvtPk8 (p : BitVec 2) (d : BitVec 7) (a : BitVec 7) (b : BitVec 7) (sat : BitVec 1) (rm : BitVec 2) (df : BitVec 4)
  /-- CVT_UNPK2 (R393): CVT.UNPK2 unpacks a 16-bit element to FP32. -/
  | cvtUnpk2 (e : BitVec 1) (d : BitVec 7) (a : BitVec 7) (b : BitVec 7) (sc : BitVec 2) (sf : BitVec 4)
  /-- CVT_UNPK4 (R393): CVT.UNPK4 unpacks an 8-bit element, optionally scaled. -/
  | cvtUnpk4 (e : BitVec 2) (d : BitVec 7) (a : BitVec 7) (b : BitVec 7) (sc : BitVec 2) (sf : BitVec 4)
  /-- CVT_UNPK8 (R393): CVT.UNPK8 unpacks a 4-bit element, optionally scaled. -/
  | cvtUnpk8 (e : BitVec 3) (d : BitVec 7) (a : BitVec 7) (b : BitVec 7) (sc : BitVec 2) (sf : BitVec 4)
  /-- QUANT_BLK (R394): QUANT.BLK quantises blocks of lane values under one scale. -/
  | quantBlk (d : BitVec 7) (a : BitVec 7) (b : BitVec 7) (blk : BitVec 1) (sm : BitVec 1) (rm : BitVec 2) (tf : BitVec 4)
  /-- CBK_DEC (R395): CBK.DEC decodes two codebook weights. -/
  | cbkDec (d : BitVec 7) (a : BitVec 7) (b : BitVec 7) (bf : BitVec 1) (p : BitVec 2)
  /-- MOV (R396): Move. -/
  | mov (d : BitVec 7) (a : BitVec 7) (lit : BitVec 32)
  /-- SEL (R396): Select by mask. -/
  | sel (d : BitVec 7) (a : BitVec 7) (b : BitVec 7) (kn : BitVec 3)
  /-- BCAST (R396): Broadcast a lane's value. -/
  | bcast (d : BitVec 7) (a : BitVec 7) (l : BitVec 5)
  /-- BCAST_FIRST (R396): Broadcast the lowest active lane's value. -/
  | bcastFirst (d : BitVec 7) (a : BitVec 7)
  /-- BALLOT (R398): BALLOT collects non-zero active lanes into a mask. -/
  | ballot (k : BitVec 3) (a : BitVec 7)
  /-- SHFL_IDX (R398): Shuffle from an indexed lane. -/
  | shflIdx (d : BitVec 7) (a : BitVec 7) (b : BitVec 7) (lit : BitVec 32)
  /-- SHFL_UP (R398): Shuffle up. -/
  | shflUp (d : BitVec 7) (a : BitVec 7) (n : BitVec 5)
  /-- SHFL_DN (R398): Shuffle down. -/
  | shflDn (d : BitVec 7) (a : BitVec 7) (n : BitVec 5)
  /-- SHFL_XOR (R398): Shuffle by XOR. -/
  | shflXor (d : BitVec 7) (a : BitVec 7) (n : BitVec 5)
  /-- RED_ADD (R399): Integer sum reduction. -/
  | redAdd (d : BitVec 7) (a : BitVec 7) (lit : BitVec 32)
  /-- RED_ADD_F32 (R399): FP32 sum reduction, rounded once. -/
  | redAddF32 (d : BitVec 7) (a : BitVec 7) (lit : BitVec 32)
  /-- RED_MIN (R399): Signed minimum reduction. -/
  | redMin (d : BitVec 7) (a : BitVec 7) (lit : BitVec 32)
  /-- RED_MIN_U (R399): Unsigned minimum reduction. -/
  | redMinU (d : BitVec 7) (a : BitVec 7) (lit : BitVec 32)
  /-- RED_MIN_F32 (R399): FP32 minimum reduction. -/
  | redMinF32 (d : BitVec 7) (a : BitVec 7) (lit : BitVec 32)
  /-- RED_MAX (R399): Signed maximum reduction. -/
  | redMax (d : BitVec 7) (a : BitVec 7) (lit : BitVec 32)
  /-- RED_MAX_U (R399): Unsigned maximum reduction. -/
  | redMaxU (d : BitVec 7) (a : BitVec 7) (lit : BitVec 32)
  /-- RED_MAX_F32 (R399): FP32 maximum reduction. -/
  | redMaxF32 (d : BitVec 7) (a : BitVec 7) (lit : BitVec 32)
  /-- SCAN_ADD (R399): Inclusive integer prefix sum. -/
  | scanAdd (d : BitVec 7) (a : BitVec 7) (lit : BitVec 32)
  /-- SCAN_ADD_EX (R399): Exclusive integer prefix sum. -/
  | scanAddEx (d : BitVec 7) (a : BitVec 7) (lit : BitVec 32)
  /-- SCAN_ADD_F32 (R399): Inclusive FP32 prefix sum. -/
  | scanAddF32 (d : BitVec 7) (a : BitVec 7) (lit : BitVec 32)
  /-- SADD (R402): Scalar add. -/
  | sadd (d : BitVec 8) (a : BitVec 8) (b : BitVec 8)
  /-- SSUB (R402): Scalar subtract. -/
  | ssub (d : BitVec 8) (a : BitVec 8) (b : BitVec 8)
  /-- SMUL (R402): Scalar multiply. -/
  | smul (d : BitVec 8) (a : BitVec 8) (b : BitVec 8)
  /-- SMULH (R402): Scalar signed high multiply. -/
  | smulh (d : BitVec 8) (a : BitVec 8) (b : BitVec 8)
  /-- SAND (R402): Scalar AND. -/
  | sand (d : BitVec 8) (a : BitVec 8) (b : BitVec 8)
  /-- SOR (R402): Scalar OR. -/
  | sor (d : BitVec 8) (a : BitVec 8) (b : BitVec 8)
  /-- SXOR (R402): Scalar XOR. -/
  | sxor (d : BitVec 8) (a : BitVec 8) (b : BitVec 8)
  /-- SANDN (R402): Scalar AND with the complement. -/
  | sandn (d : BitVec 8) (a : BitVec 8) (b : BitVec 8)
  /-- SSHL (R402): Scalar shift left. -/
  | sshl (d : BitVec 8) (a : BitVec 8) (b : BitVec 8)
  /-- SSHR (R402): Scalar logical shift right. -/
  | sshr (d : BitVec 8) (a : BitVec 8) (b : BitVec 8)
  /-- SSAR (R402): Scalar arithmetic shift right. -/
  | ssar (d : BitVec 8) (a : BitVec 8) (b : BitVec 8)
  /-- SROTL (R402): Scalar rotate left. -/
  | srotl (d : BitVec 8) (a : BitVec 8) (b : BitVec 8)
  /-- SCMP_EQ (R402): Scalar compare equal. -/
  | scmpEq (d : BitVec 8) (a : BitVec 8) (b : BitVec 8)
  /-- SCMP_LT (R402): Scalar signed less-than. -/
  | scmpLt (d : BitVec 8) (a : BitVec 8) (b : BitVec 8)
  /-- SCMP_LTU (R402): Scalar unsigned less-than. -/
  | scmpLtu (d : BitVec 8) (a : BitVec 8) (b : BitVec 8)
  /-- SCMP_LE (R402): Scalar signed less-or-equal. -/
  | scmpLe (d : BitVec 8) (a : BitVec 8) (b : BitVec 8)
  /-- SMOVI (R403): Scalar move of a sign-extended immediate. -/
  | smovi (d : BitVec 8) (i : BitVec 16)
  /-- SMOVHI (R403): Scalar move of an immediate into the high half. -/
  | smovhi (d : BitVec 8) (i : BitVec 16)
  /-- SADDI (R403): Scalar add of an immediate. -/
  | saddi (d : BitVec 8) (i : BitVec 16)
  /-- SCMPI (R403): Scalar compare with an immediate. -/
  | scmpi (d : BitVec 8) (a : BitVec 8) (c : BitVec 2) (i : BitVec 6)
  /-- SADD64 (R404): Scalar 64-bit add. -/
  | sadd64 (d : BitVec 8) (a : BitVec 8) (b : BitVec 8)
  /-- SSUB64 (R404): Scalar 64-bit subtract. -/
  | ssub64 (d : BitVec 8) (a : BitVec 8) (b : BitVec 8)
  /-- SMUL64 (R404): Scalar 64-bit multiply. -/
  | smul64 (d : BitVec 8) (a : BitVec 8) (b : BitVec 8)
  /-- SSHL64 (R404): Scalar 64-bit shift left. -/
  | sshl64 (d : BitVec 8) (a : BitVec 8) (b : BitVec 8)
  /-- SMIN (R402): Scalar signed minimum. -/
  | smin (d : BitVec 8) (a : BitVec 8) (b : BitVec 8)
  /-- SMAX (R402): Scalar signed maximum. -/
  | smax (d : BitVec 8) (a : BitVec 8) (b : BitVec 8)
  /-- SPOPC (R402): Scalar population count. -/
  | spopc (d : BitVec 8) (a : BitVec 8)
  /-- SCLZ (R402): Scalar count of leading zeros. -/
  | sclz (d : BitVec 8) (a : BitVec 8)
  /-- VGET (R405): Read one lane of a vector into a scalar. -/
  | vget (d : BitVec 8) (a : BitVec 8) (b : BitVec 8)
  /-- VSET (R405): Write a scalar into one lane of a vector. -/
  | vset (d : BitVec 8) (a : BitVec 8) (b : BitVec 8)
  /-- KTOS (R405): Copy a mask to a scalar. -/
  | ktos (d : BitVec 8) (k : BitVec 3)
  /-- STOK (R405): Copy a scalar to a mask. -/
  | stok (k : BitVec 3) (a : BitVec 8)
  /-- KAND (R406): Mask AND. -/
  | kand (d : BitVec 3) (a : BitVec 3) (b : BitVec 3)
  /-- KOR (R406): Mask OR. -/
  | kor (d : BitVec 3) (a : BitVec 3) (b : BitVec 3)
  /-- KXOR (R406): Mask XOR. -/
  | kxor (d : BitVec 3) (a : BitVec 3) (b : BitVec 3)
  /-- KNOT (R406): Mask NOT. -/
  | knot (d : BitVec 3) (a : BitVec 3)
  /-- KMOV (R406): Mask move. -/
  | kmov (d : BitVec 3) (a : BitVec 3)
  /-- DDX (R401): Fine horizontal derivative. -/
  | ddx (d : BitVec 7) (a : BitVec 7) (lit : BitVec 32)
  /-- DDX_COARSE (R401): Coarse horizontal derivative. -/
  | ddxCoarse (d : BitVec 7) (a : BitVec 7) (lit : BitVec 32)
  /-- DDY (R401): Fine vertical derivative. -/
  | ddy (d : BitVec 7) (a : BitVec 7) (lit : BitVec 32)
  /-- DDY_COARSE (R401): Coarse vertical derivative. -/
  | ddyCoarse (d : BitVec 7) (a : BitVec 7) (lit : BitVec 32)
  /-- QSWAP (R400): Swap values within a quad. -/
  | qswap (d : BitVec 7) (a : BitVec 7) (m : BitVec 2)
  /-- TLB_INV (R365): TLB.INV drops the stage-1 TLB entries of a page, or of the whole ASID. -/
  | tlbInv (a : BitVec 8) (l : BitVec 1)
  /-- IXU_LOAD (R366): IXU.LOAD loads a micro-program into an intersection-unit slot. -/
  | ixuLoad (a : BitVec 8) (s : BitVec 5)
  /-- CC_FLUSH (R367): CC.FLUSH writes back every dirty line of the partition's cell cache. -/
  | ccFlush
  /-- CC_INVAL (R367): CC.INVAL writes back and invalidates the partition's cell cache. -/
  | ccInval
  /-- BND_SET (R368): BND.SET loads or disables the context's bound table. -/
  | bndSet (a : BitVec 8)
  /-- LDC_U8 (R414): Cell-store load of a byte, zero-extended. -/
  | ldcU8 (d : BitVec 7) (i : BitVec 7) (x : BitVec 1) (b : BitVec 8) (lit : BitVec 32)
  /-- LDC_S8 (R414): Cell-store load of a byte, sign-extended. -/
  | ldcS8 (d : BitVec 7) (i : BitVec 7) (x : BitVec 1) (b : BitVec 8) (lit : BitVec 32)
  /-- LDC_U16 (R414): Cell-store load of a halfword, zero-extended. -/
  | ldcU16 (d : BitVec 7) (i : BitVec 7) (x : BitVec 1) (b : BitVec 8) (lit : BitVec 32)
  /-- LDC_S16 (R414): Cell-store load of a halfword, sign-extended. -/
  | ldcS16 (d : BitVec 7) (i : BitVec 7) (x : BitVec 1) (b : BitVec 8) (lit : BitVec 32)
  /-- LDC (R414): Cell-store load of a word. -/
  | ldc (d : BitVec 7) (i : BitVec 7) (x : BitVec 1) (b : BitVec 8) (lit : BitVec 32)
  /-- LDC_64 (R414): Cell-store load of 8 bytes. -/
  | ldc64 (d : BitVec 7) (i : BitVec 7) (x : BitVec 1) (b : BitVec 8) (lit : BitVec 32)
  /-- LDC_BC (R415): Cell-store load of one word broadcast as uniform. -/
  | ldcBc (d : BitVec 7) (i : BitVec 7) (x : BitVec 1) (b : BitVec 8) (lit : BitVec 32)
  /-- LDC_ORDERED (R414): Cell-store load with an access word giving size, order and scope. -/
  | ldcOrdered (d : BitVec 7) (i : BitVec 7) (x : BitVec 1) (b : BitVec 8) (sc : BitVec 3) (od : BitVec 2) (sz : BitVec 3)
  /-- STC_8 (R414): Cell-store store of a byte. -/
  | stc8 (s : BitVec 7) (i : BitVec 7) (x : BitVec 1) (b : BitVec 8) (lit : BitVec 32)
  /-- STC_16 (R414): Cell-store store of a halfword. -/
  | stc16 (s : BitVec 7) (i : BitVec 7) (x : BitVec 1) (b : BitVec 8) (lit : BitVec 32)
  /-- STC (R414): Cell-store store of a word. -/
  | stc (s : BitVec 7) (i : BitVec 7) (x : BitVec 1) (b : BitVec 8) (lit : BitVec 32)
  /-- STC_64 (R414): Cell-store store of 8 bytes. -/
  | stc64 (s : BitVec 7) (i : BitVec 7) (x : BitVec 1) (b : BitVec 8) (lit : BitVec 32)
  /-- STC_ORDERED (R414): Cell-store store with an access word. -/
  | stcOrdered (s : BitVec 7) (i : BitVec 7) (x : BitVec 1) (b : BitVec 8) (sc : BitVec 3) (od : BitVec 2) (sz : BitVec 3)
  /-- LDP (R417): Private load of a thread's word. -/
  | ldp (d : BitVec 7) (i : BitVec 7) (b : BitVec 8) (lit : BitVec 32)
  /-- STP (R417): Private store of a thread's word. -/
  | stp (s : BitVec 7) (i : BitVec 7) (b : BitVec 8) (lit : BitVec 32)
  /-- GLD (R419): Global load of a word. -/
  | gld (d : BitVec 7) (i : BitVec 7) (x : BitVec 1) (b : BitVec 8) (lit : BitVec 32)
  /-- GLD_64 (R419): Global load of 8 bytes. -/
  | gld64 (d : BitVec 7) (i : BitVec 7) (x : BitVec 1) (b : BitVec 8) (lit : BitVec 32)
  /-- GLD_128 (R419): Global load of 16 bytes. -/
  | gld128 (d : BitVec 7) (i : BitVec 7) (x : BitVec 1) (b : BitVec 8) (lit : BitVec 32)
  /-- GLD_ORDERED (R419): Global load with an access word. -/
  | gldOrdered (d : BitVec 7) (i : BitVec 7) (x : BitVec 1) (b : BitVec 8) (sc : BitVec 3) (od : BitVec 2) (sz : BitVec 3)
  /-- GST (R419): Global store of a word. -/
  | gst (s : BitVec 7) (i : BitVec 7) (x : BitVec 1) (b : BitVec 8) (lit : BitVec 32)
  /-- GST_64 (R419): Global store of 8 bytes. -/
  | gst64 (s : BitVec 7) (i : BitVec 7) (x : BitVec 1) (b : BitVec 8) (lit : BitVec 32)
  /-- GST_128 (R419): Global store of 16 bytes. -/
  | gst128 (s : BitVec 7) (i : BitVec 7) (x : BitVec 1) (b : BitVec 8) (lit : BitVec 32)
  /-- GST_ORDERED (R419): Global store with an access word. -/
  | gstOrdered (s : BitVec 7) (i : BitVec 7) (x : BitVec 1) (b : BitVec 8) (sc : BitVec 3) (od : BitVec 2) (sz : BitVec 3)
  /-- LATOM (R421): Cell-store atomic read-modify-write at the bank. -/
  | latom (o : BitVec 3) (d : BitVec 7) (i : BitVec 7) (x : BitVec 1) (b : BitVec 8) (sc : BitVec 3) (op : BitVec 4) (c : BitVec 7)
  /-- ATOM (R422): Global atomic sent to the serving service sub-core, with a reply to a return slot. -/
  | atom (o : BitVec 3) (sl : BitVec 3) (i : BitVec 7) (x : BitVec 1) (b : BitVec 8) (sc : BitVec 3) (op : BitVec 4) (c : BitVec 7)
  /-- ARED (R422): Relaxed global atomic reduction without a reply. -/
  | ared (z : BitVec 7) (i : BitVec 7) (x : BitVec 1) (b : BitVec 8) (sc : BitVec 3) (op : BitVec 4) (c : BitVec 7)
  /-- ARED_REL (R422): Global atomic reduction with release order. -/
  | aredRel (z : BitVec 7) (i : BitVec 7) (x : BitVec 1) (b : BitVec 8) (sc : BitVec 3) (op : BitVec 4) (c : BitVec 7)
  /-- RSLOT_LD (R424): Read a return-slot entry. -/
  | rslotLd (d : BitVec 7) (s : BitVec 3)
  /-- RSLOT_LD_64 (R424): Read 8 bytes of a return-slot entry. -/
  | rslotLd64 (d : BitVec 7) (s : BitVec 3)
  /-- RSLOT_TEST (R424): Test which lanes have no reply outstanding in a slot. -/
  | rslotTest (k : BitVec 3) (s : BitVec 3)
  /-- HOD_COPY (R429): Asynchronous multidimensional copy. -/
  | hodCopy (d : BitVec 8) (b : BitVec 8)
  /-- HOD_GATHER (R429): Asynchronous copy with an indexed source. -/
  | hodGather (d : BitVec 8) (b : BitVec 8)
  /-- HOD_SCATTER (R429): Asynchronous copy with an indexed destination. -/
  | hodScatter (d : BitVec 8) (b : BitVec 8)
  /-- HOD_FILL (R429): Asynchronous fill with a pattern. -/
  | hodFill (d : BitVec 8) (b : BitVec 8)
  /-- HOD_SEND (R429): Asynchronous copy into another cell's segment copy. -/
  | hodSend (d : BitVec 8) (b : BitVec 8)
  /-- HOD_REDUCE (R429): Asynchronous element-wise reduction into a destination. -/
  | hodReduce (d : BitVec 8) (b : BitVec 8)
  /-- HOD_PREFETCH (R429): Asynchronous prefetch into the hub cache. -/
  | hodPrefetch (d : BitVec 8) (b : BitVec 8)
  /-- CC_PREFETCH (R434): Prefetch a range into the cell cache or hub cache. -/
  | ccPrefetch (a : BitVec 8) (l : BitVec 8)
  /-- CC_WB (R434): Write back the dirty bytes of a range. -/
  | ccWb (a : BitVec 8) (l : BitVec 8)
  /-- CC_DISCARD (R434): Invalidate the lines of a range. -/
  | ccDiscard (a : BitVec 8) (l : BitVec 8)
  /-- RING_ACQ (R436): Acquire the next free slot of a stage ring. -/
  | ringAcq (d : BitVec 8) (r : BitVec 4)
  /-- RING_COMMIT (R436): Commit an acquired ring slot. -/
  | ringCommit (a : BitVec 8) (r : BitVec 4)
  /-- RING_WAIT (R436): Take the next committed ring slot. -/
  | ringWait (d : BitVec 8) (r : BitVec 4)
  /-- RING_FREE (R436): Free a taken ring slot. -/
  | ringFree (a : BitVec 8) (r : BitVec 4)
  /-- BEAD_MODE (R445): Set the bead mode. -/
  | beadMode (a : BitVec 8)
  /-- BEAD_MMA (R455): Matrix multiply-accumulate into a tile. -/
  | beadMma (c : BitVec 6) (a : BitVec 8) (b : BitVec 8)
  /-- BEAD_MMAZ (R455): Matrix multiply into a zeroed tile. -/
  | beadMmaz (c : BitVec 6) (a : BitVec 8) (b : BitVec 8)
  /-- BEAD_ZERO (R457): Zero a tile. -/
  | beadZero (c : BitVec 6)
  /-- BEAD_SYNC (R457): Arrive on a barrier object once earlier matrix operations have completed. -/
  | beadSync (a : BitVec 8)
  /-- BEAD_SCALE (R457): Scale a tile by an FP32 factor. -/
  | beadScale (c : BitVec 6) (a : BitVec 8)
  /-- PAL_RESERVE (R451): Reserve palette bytes for an operand. -/
  | palReserve (p : BitVec 6) (a : BitVec 8) (d : BitVec 8)
  /-- PAL_FILL (R452): Copy K-steps from the segment into a reservation. -/
  | palFill (p : BitVec 6) (a : BitVec 8) (b : BitVec 8)
  /-- PAL_FILLK (R452): Copy bytes from the segment into a reservation. -/
  | palFillk (p : BitVec 6) (a : BitVec 8) (b : BitVec 8)
  /-- PAL_RELEASE (R453): Release a palette reservation. -/
  | palRelease (p : BitVec 6)
  /-- CB_DRAIN (R461): Drain tile rows into the cell store, converting or adding. -/
  | cbDrain (c : BitVec 6) (a : BitVec 8) (b : BitVec 8)
  /-- CB_LOAD (R459): Load a tile from the cell store. -/
  | cbLoad (c : BitVec 6) (a : BitVec 8)
  /-- CB_CLEAR (R459): Clear a run of tiles. -/
  | cbClear (c : BitVec 6) (n : BitVec 8)
  /-- OM_DEPTH (R480): Depth-test samples against tile memory and optionally store depth. -/
  | omDepth (d : BitVec 7) (a : BitVec 7) (w : BitVec 1) (o : BitVec 3)
  /-- OM_WRITE (R480): Write or blend colour into masked samples. -/
  | omWrite (m : BitVec 2) (a : BitVec 7) (c : BitVec 7)
  /-- OM_LOAD (R480): Load a sample's depth and colour. -/
  | omLoad (d : BitVec 7) (s : BitVec 3)
  /-- OM_LATCH (R481): Write a HUD latch word of pipe 3. -/
  | omLatch (a : BitVec 7) (w : BitVec 3)
  /-- DCLK_RETURN (R69): DCLK returns to within its tolerance, clearing DCLKFAIL so that FAULT_N may be released. -/
  | dclkReturn
  /-- CLAMP_CONDITION_CLEAR (R64): The temperature, current or voltage condition behind a clamp clears, so ACTIVE falls to 0 while the effective level stays at the ceiling. -/
  | clampConditionClear
  /-- PCIE_LINK_STATE_CHANGE (R62): The PCIe link trains, retrains at a reduced width or rate, or enters or leaves L1 or L2, which updates the link status and makes posts be lost in L2 while the device is in D0. -/
  | pcieLinkStateChange (st : Nat) (width : Nat) (rate : Nat) (hot : Nat)
  deriving DecidableEq, Repr

end Sys2Proof
end

