-- ==== Sys2Proof/WellFormed.lean ====
section
/-! DEFINITION. Which instructions are well formed: those whose fields hold values that the encoding
defines. A word that breaks one of these conditions raises ILLEGAL_ENCODING (12 R322, R324 and each
family's table). Values that raise ILLEGAL_OPERAND or another fault when the word issues are well
formed here: their fault belongs to the meaning. -/
namespace Sys2Proof

/-- The literal of a form without code 124 among its sources is written as zero here: there is no EL
word then (14 R371). -/
def litOk (codes : List (BitVec 7)) (lit : BitVec 32) : Bool :=
  codes.any (fun c => c == 124#7) || lit == 0#32

/-- The instruction is one of the SVJ instruction set, with an encoding of its own. -/
def Instr.isCode : Instr → Bool
  | .porReset _ _ _ => false
  | .perstReset _ => false
  | .sysclkFault => false
  | .sysclkReturn => false
  | .dclkFault => false
  | .lockstepMismatch => false
  | .thermtrip => false
  | .supplyLoss _ => false
  | .handlerBudgetExpiry _ => false
  | .holdupSaveComplete => false
  | .reserveCharged => false
  | .bootGo _ => false
  | .firmwareImageCheck _ _ _ _ _ => false
  | .postRootRegion _ _ _ _ => false
  | .postLowHalfWrite _ _ _ => false
  | .resyncToMemory _ _ _ _ => false
  | .resyncToWindow _ _ _ _ => false
  | .powerCmdCell _ => false
  | .powerCmdPane _ => false
  | .powerCmdDevice _ => false
  | .dHold _ => false
  | .powerCmdComplete _ => false
  | .clampTrigger _ _ _ => false
  | .clampStep _ => false
  | .clampRelease _ _ _ => false
  | .faultClear _ _ _ => false
  | .armWrite _ _ => false
  | .seamStatusClear _ _ _ => false
  | .registerWrite _ _ _ _ _ => false
  | .i3cResync => false
  | .i3cStatus => false
  | .i3cFaultClear _ => false
  | .forceUndercoat _ => false
  | .releaseUndercoat _ => false
  | .i3cHoldup => false
  | .i3cUnknownCommand => false
  | .i3cPrivateRead => false
  | .vfConfigRequest _ _ _ _ => false
  | .apertureRequest _ _ _ _ _ => false
  | .functionLevelReset _ => false
  | .partCommit _ _ => false
  | .partGrow _ _ => false
  | .partShrink _ _ => false
  | .shrinkComplete _ => false
  | .deferredLaunchEviction _ => false
  | .partCancel _ _ => false
  | .rungReset _ _ => false
  | .invCtx _ _ => false
  | .rungTimeout _ => false
  | .rungComplete _ => false
  | .classWaysWrite _ _ _ => false
  | .classBwWrite _ _ _ => false
  | .pipeEnable _ _ _ _ => false
  | .pipeDisable _ _ _ => false
  | .layerTableCommit _ _ _ _ => false
  | .layerCommitTake _ => false
  | .coatSign _ => false
  | .frameDecision _ => false
  | .scanoutTileCheck _ _ _ => false
  | .paneSelfTestStart _ => false
  | .paneSelfTestEnd _ _ => false
  | .readmit _ _ => false
  | .telltaleLoad _ _ => false
  | .telltaleCopyComplete => false
  | .latchWrite _ _ _ => false
  | .hudLatchTake => false
  | .cameraStreamWrite _ _ _ => false
  | .cameraFrameStart _ => false
  | .cameraLine _ _ _ _ => false
  | .cameraFrameEnd _ => false
  | .cameraTxFrame _ => false
  | .devqEnable _ _ => false
  | .spareLane _ _ => false
  | .spareCell _ _ => false
  | .spareWay _ _ => false
  | .spareChannel _ _ => false
  | .unfence _ _ => false
  | .spareCmdComplete _ => false
  | .channelMigrationComplete => false
  | .seamFlitReplay _ => false
  | .seamEyeCheck _ _ _ => false
  | .seamLaneFail _ _ => false
  | .correctedError _ => false
  | .ageSample _ _ _ => false
  | .beadSelfTestStart _ _ => false
  | .beadSelfTestEnd _ _ _ => false
  | .beadSelfTestOverdue _ _ => false
  | .keepDir _ _ => false
  | .keepData _ _ => false
  | .keepErase _ _ => false
  | .keepCmdComplete => false
  | .rollback _ => false
  | .postTake _ _ => false
  | .blockPlace _ => false
  | .arbitration _ _ => false
  | .groupWake _ => false
  | .sliceEnd _ _ => false
  | .blockEvict _ => false
  | .regionComplete _ => false
  | .resultLanding _ _ => false
  | .groupSlotRelease _ => false
  | .trackerEntryFree _ => false
  | .contResultWrite _ => false
  | .regroupRelaunch _ => false
  | .watchdogExpiry _ => false
  | .gateBudgetExpiry _ => false
  | .sleepExpiry _ => false
  | .lineFillReturn _ => false
  | .releaseDrainComplete _ => false
  | .tlbWalkComplete _ _ _ _ => false
  | .atomicPerform _ => false
  | .atomReply _ => false
  | .hodOpComplete _ _ _ => false
  | .msgDeliver _ => false
  | .monitorMatch _ => false
  | .monitorPoll _ => false
  | .kstep _ => false
  | .matrixOpComplete _ => false
  | .texComplete _ => false
  | .traceComplete _ => false
  | .forcedRender _ => false
  | .ticketDone _ _ => false
  | .tileFlush _ _ => false
  | .tileStore _ _ => false
  | .nop => true
  | .exit => true
  | .tail => true
  | .trap _ => true
  | .brk _ => true
  | .resume => true
  | .sread _ _ => true
  | .swrite _ _ => true
  | .sleepUntil _ => true
  | .sleepCyc _ => true
  | .yield => true
  | .pfailDone => true
  | .ifKElse _ _ => true
  | .ifNkElse _ _ => true
  | .ifSElse _ _ => true
  | .ifNsElse _ _ => true
  | .ifK _ _ => true
  | .ifNk _ _ => true
  | .ifS _ _ => true
  | .ifNs _ _ => true
  | .elseArm _ => true
  | .endif => true
  | .loop _ => true
  | .endloop => true
  | .breakK _ => true
  | .breakS _ => true
  | .continueK _ => true
  | .continueS _ => true
  | .call _ => true
  | .ret => true
  | .gate _ => true
  | .gret => true
  | .bar => true
  | .barArrive => true
  | .barDrop => true
  | .barWait => true
  | .bobjInit _ _ _ => true
  | .bobjJoin _ => true
  | .bobjLeave _ => true
  | .bobjArrive _ _ _ => true
  | .bobjExpect _ _ => true
  | .bobjWait _ _ => true
  | .bobjTest _ _ => true
  | .waitCnt _ _ => true
  | .fence _ _ => true
  | .semSet _ _ => true
  | .semAdd _ _ => true
  | .semWaitge _ _ => true
  | .semRead _ _ => true
  | .waitc _ _ _ _ _ => true
  | .monCancel => true
  | .launch _ _ => true
  | .regionJoin _ => true
  | .msgSend _ _ => true
  | .msgRecv _ _ _ => true
  | .msgPoll _ _ _ => true
  | .msgFree _ _ => true
  | .primEmit _ _ => true
  | .primEmitClose _ => true
  | .tileGet _ _ => true
  | .tileDone => true
  | .tileAttr _ _ => true
  | .edge _ => true
  | .interp _ _ _ => true
  | .samplepos _ _ => true
  | .glzInsert _ _ _ => true
  | .glzCount _ _ => true
  | .glzRead _ _ _ => true
  | .glzResolve _ _ _ => true
  | .glzResolveClr _ _ _ => true
  | .glzClear _ => true
  | .texSample _ _ _ _ _ _ _ => true
  | .texLoad _ _ _ _ _ _ _ => true
  | .texGather4 _ _ _ _ _ _ _ => true
  | .texLod _ _ _ _ _ _ _ => true
  | .texSampleC _ _ _ _ _ _ _ => true
  | .texLoadC _ _ _ _ _ _ _ => true
  | .texGather4C _ _ _ _ _ _ _ => true
  | .texLodC _ _ _ _ _ _ _ => true
  | .trace _ _ _ _ _ => true
  | .traceC _ _ _ _ _ => true
  | .hitReport _ _ => true
  | .hitAccept _ => true
  | .hitIgnore _ => true
  | .contKey _ => true
  | .repack _ => true
  | .iadd _ _ _ _ => true
  | .iaddSat _ _ _ _ => true
  | .iaddSatU _ _ _ _ => true
  | .isub _ _ _ _ => true
  | .isubSat _ _ _ _ => true
  | .isubSatU _ _ _ _ => true
  | .ineg _ _ _ => true
  | .iabs _ _ _ => true
  | .iabsd _ _ _ _ => true
  | .iabsdU _ _ _ _ => true
  | .iaddCc _ _ _ _ _ => true
  | .isubCc _ _ _ _ _ => true
  | .imulLo _ _ _ _ => true
  | .imulHi _ _ _ _ => true
  | .imulHiU _ _ _ _ => true
  | .imac _ _ _ _ => true
  | .idot4 _ _ _ _ _ _ _ => true
  | .and _ _ _ _ => true
  | .or _ _ _ _ => true
  | .xor _ _ _ _ => true
  | .andn _ _ _ _ => true
  | .not _ _ _ => true
  | .shl _ _ _ _ => true
  | .shr _ _ _ _ => true
  | .sar _ _ _ _ => true
  | .rotl _ _ _ _ => true
  | .fshr _ _ _ _ => true
  | .imin _ _ _ _ => true
  | .iminU _ _ _ _ => true
  | .imax _ _ _ _ => true
  | .imaxU _ _ _ _ => true
  | .icmp _ _ _ _ _ => true
  | .popc _ _ _ => true
  | .clz _ _ _ => true
  | .brev _ _ _ => true
  | .bfe _ _ _ _ => true
  | .bfeS _ _ _ _ => true
  | .bfi _ _ _ _ => true
  | .iaddi _ _ _ => true
  | .andi _ _ _ => true
  | .ori _ _ _ => true
  | .xori _ _ _ => true
  | .shli _ _ _ => true
  | .shri _ _ _ => true
  | .sari _ _ _ => true
  | .fadd _ _ _ _ _ _ => true
  | .fsub _ _ _ _ _ _ => true
  | .fmul _ _ _ _ _ _ => true
  | .fmin _ _ _ _ _ _ => true
  | .fmax _ _ _ _ _ _ => true
  | .fmac _ _ _ _ _ _ => true
  | .fma _ _ _ _ _ _ => true
  | .flerp _ _ _ _ _ _ => true
  | .fcmp _ _ _ _ _ => true
  | .fclass _ _ _ => true
  | .frcp _ _ _ _ => true
  | .frsq _ _ _ _ => true
  | .fsqrt _ _ _ _ => true
  | .fexp2 _ _ _ _ => true
  | .flog2 _ _ _ _ => true
  | .fsin _ _ _ _ => true
  | .fcos _ _ _ _ => true
  | .ftanh _ _ _ _ => true
  | .cvt _ _ _ _ _ _ _ => true
  | .frnd _ _ _ _ _ => true
  | .cvtPk2 _ _ _ _ _ _ => true
  | .cvtPk4 _ _ _ _ _ _ _ => true
  | .cvtPk8 _ _ _ _ _ _ _ => true
  | .cvtUnpk2 _ _ _ _ _ _ => true
  | .cvtUnpk4 _ _ _ _ _ _ => true
  | .cvtUnpk8 _ _ _ _ _ _ => true
  | .quantBlk _ _ _ _ _ _ _ => true
  | .cbkDec _ _ _ _ _ => true
  | .mov _ _ _ => true
  | .sel _ _ _ _ => true
  | .bcast _ _ _ => true
  | .bcastFirst _ _ => true
  | .ballot _ _ => true
  | .shflIdx _ _ _ _ => true
  | .shflUp _ _ _ => true
  | .shflDn _ _ _ => true
  | .shflXor _ _ _ => true
  | .redAdd _ _ _ => true
  | .redAddF32 _ _ _ => true
  | .redMin _ _ _ => true
  | .redMinU _ _ _ => true
  | .redMinF32 _ _ _ => true
  | .redMax _ _ _ => true
  | .redMaxU _ _ _ => true
  | .redMaxF32 _ _ _ => true
  | .scanAdd _ _ _ => true
  | .scanAddEx _ _ _ => true
  | .scanAddF32 _ _ _ => true
  | .sadd _ _ _ => true
  | .ssub _ _ _ => true
  | .smul _ _ _ => true
  | .smulh _ _ _ => true
  | .sand _ _ _ => true
  | .sor _ _ _ => true
  | .sxor _ _ _ => true
  | .sandn _ _ _ => true
  | .sshl _ _ _ => true
  | .sshr _ _ _ => true
  | .ssar _ _ _ => true
  | .srotl _ _ _ => true
  | .scmpEq _ _ _ => true
  | .scmpLt _ _ _ => true
  | .scmpLtu _ _ _ => true
  | .scmpLe _ _ _ => true
  | .smovi _ _ => true
  | .smovhi _ _ => true
  | .saddi _ _ => true
  | .scmpi _ _ _ _ => true
  | .sadd64 _ _ _ => true
  | .ssub64 _ _ _ => true
  | .smul64 _ _ _ => true
  | .sshl64 _ _ _ => true
  | .smin _ _ _ => true
  | .smax _ _ _ => true
  | .spopc _ _ => true
  | .sclz _ _ => true
  | .vget _ _ _ => true
  | .vset _ _ _ => true
  | .ktos _ _ => true
  | .stok _ _ => true
  | .kand _ _ _ => true
  | .kor _ _ _ => true
  | .kxor _ _ _ => true
  | .knot _ _ => true
  | .kmov _ _ => true
  | .ddx _ _ _ => true
  | .ddxCoarse _ _ _ => true
  | .ddy _ _ _ => true
  | .ddyCoarse _ _ _ => true
  | .qswap _ _ _ => true
  | .tlbInv _ _ => true
  | .ixuLoad _ _ => true
  | .ccFlush => true
  | .ccInval => true
  | .bndSet _ => true
  | .ldcU8 _ _ _ _ _ => true
  | .ldcS8 _ _ _ _ _ => true
  | .ldcU16 _ _ _ _ _ => true
  | .ldcS16 _ _ _ _ _ => true
  | .ldc _ _ _ _ _ => true
  | .ldc64 _ _ _ _ _ => true
  | .ldcBc _ _ _ _ _ => true
  | .ldcOrdered _ _ _ _ _ _ _ => true
  | .stc8 _ _ _ _ _ => true
  | .stc16 _ _ _ _ _ => true
  | .stc _ _ _ _ _ => true
  | .stc64 _ _ _ _ _ => true
  | .stcOrdered _ _ _ _ _ _ _ => true
  | .ldp _ _ _ _ => true
  | .stp _ _ _ _ => true
  | .gld _ _ _ _ _ => true
  | .gld64 _ _ _ _ _ => true
  | .gld128 _ _ _ _ _ => true
  | .gldOrdered _ _ _ _ _ _ _ => true
  | .gst _ _ _ _ _ => true
  | .gst64 _ _ _ _ _ => true
  | .gst128 _ _ _ _ _ => true
  | .gstOrdered _ _ _ _ _ _ _ => true
  | .latom _ _ _ _ _ _ _ _ => true
  | .atom _ _ _ _ _ _ _ _ => true
  | .ared _ _ _ _ _ _ _ => true
  | .aredRel _ _ _ _ _ _ _ => true
  | .rslotLd _ _ => true
  | .rslotLd64 _ _ => true
  | .rslotTest _ _ => true
  | .hodCopy _ _ => true
  | .hodGather _ _ => true
  | .hodScatter _ _ => true
  | .hodFill _ _ => true
  | .hodSend _ _ => true
  | .hodReduce _ _ => true
  | .hodPrefetch _ _ => true
  | .ccPrefetch _ _ => true
  | .ccWb _ _ => true
  | .ccDiscard _ _ => true
  | .ringAcq _ _ => true
  | .ringCommit _ _ => true
  | .ringWait _ _ => true
  | .ringFree _ _ => true
  | .beadMode _ => true
  | .beadMma _ _ _ => true
  | .beadMmaz _ _ _ => true
  | .beadZero _ => true
  | .beadSync _ => true
  | .beadScale _ _ => true
  | .palReserve _ _ _ => true
  | .palFill _ _ _ => true
  | .palFillk _ _ _ => true
  | .palRelease _ => true
  | .cbDrain _ _ _ => true
  | .cbLoad _ _ => true
  | .cbClear _ _ => true
  | .omDepth _ _ _ _ => true
  | .omWrite _ _ _ => true
  | .omLoad _ _ => true
  | .omLatch _ _ => true
  | .dclkReturn => false
  | .clampConditionClear => false
  | .pcieLinkStateChange _ _ _ _ => false

/-- Every field holds a value that the encoding defines. -/
def Instr.wellFormed : Instr → Bool
  | .porReset _ _ _ => true
  | .perstReset _ => true
  | .sysclkFault => true
  | .sysclkReturn => true
  | .dclkFault => true
  | .lockstepMismatch => true
  | .thermtrip => true
  | .supplyLoss _ => true
  | .handlerBudgetExpiry _ => true
  | .holdupSaveComplete => true
  | .reserveCharged => true
  | .bootGo _ => true
  | .firmwareImageCheck _ _ _ _ _ => true
  | .postRootRegion _ _ _ _ => true
  | .postLowHalfWrite _ _ _ => true
  | .resyncToMemory _ _ _ _ => true
  | .resyncToWindow _ _ _ _ => true
  | .powerCmdCell _ => true
  | .powerCmdPane _ => true
  | .powerCmdDevice _ => true
  | .dHold _ => true
  | .powerCmdComplete _ => true
  | .clampTrigger _ _ _ => true
  | .clampStep _ => true
  | .clampRelease _ _ _ => true
  | .faultClear _ _ _ => true
  | .armWrite _ _ => true
  | .seamStatusClear _ _ _ => true
  | .registerWrite _ _ _ _ _ => true
  | .i3cResync => true
  | .i3cStatus => true
  | .i3cFaultClear _ => true
  | .forceUndercoat _ => true
  | .releaseUndercoat _ => true
  | .i3cHoldup => true
  | .i3cUnknownCommand => true
  | .i3cPrivateRead => true
  | .vfConfigRequest _ _ _ _ => true
  | .apertureRequest _ _ _ _ _ => true
  | .functionLevelReset _ => true
  | .partCommit _ _ => true
  | .partGrow _ _ => true
  | .partShrink _ _ => true
  | .shrinkComplete _ => true
  | .deferredLaunchEviction _ => true
  | .partCancel _ _ => true
  | .rungReset _ _ => true
  | .invCtx _ _ => true
  | .rungTimeout _ => true
  | .rungComplete _ => true
  | .classWaysWrite _ _ _ => true
  | .classBwWrite _ _ _ => true
  | .pipeEnable _ _ _ _ => true
  | .pipeDisable _ _ _ => true
  | .layerTableCommit _ _ _ _ => true
  | .layerCommitTake _ => true
  | .coatSign _ => true
  | .frameDecision _ => true
  | .scanoutTileCheck _ _ _ => true
  | .paneSelfTestStart _ => true
  | .paneSelfTestEnd _ _ => true
  | .readmit _ _ => true
  | .telltaleLoad _ _ => true
  | .telltaleCopyComplete => true
  | .latchWrite _ _ _ => true
  | .hudLatchTake => true
  | .cameraStreamWrite _ _ _ => true
  | .cameraFrameStart _ => true
  | .cameraLine _ _ _ _ => true
  | .cameraFrameEnd _ => true
  | .cameraTxFrame _ => true
  | .devqEnable _ _ => true
  | .spareLane _ _ => true
  | .spareCell _ _ => true
  | .spareWay _ _ => true
  | .spareChannel _ _ => true
  | .unfence _ _ => true
  | .spareCmdComplete _ => true
  | .channelMigrationComplete => true
  | .seamFlitReplay _ => true
  | .seamEyeCheck _ _ _ => true
  | .seamLaneFail _ _ => true
  | .correctedError _ => true
  | .ageSample _ _ _ => true
  | .beadSelfTestStart _ _ => true
  | .beadSelfTestEnd _ _ _ => true
  | .beadSelfTestOverdue _ _ => true
  | .keepDir _ _ => true
  | .keepData _ _ => true
  | .keepErase _ _ => true
  | .keepCmdComplete => true
  | .rollback _ => true
  | .postTake _ _ => true
  | .blockPlace _ => true
  | .arbitration _ _ => true
  | .groupWake _ => true
  | .sliceEnd _ _ => true
  | .blockEvict _ => true
  | .regionComplete _ => true
  | .resultLanding _ _ => true
  | .groupSlotRelease _ => true
  | .trackerEntryFree _ => true
  | .contResultWrite _ => true
  | .regroupRelaunch _ => true
  | .watchdogExpiry _ => true
  | .gateBudgetExpiry _ => true
  | .sleepExpiry _ => true
  | .lineFillReturn _ => true
  | .releaseDrainComplete _ => true
  | .tlbWalkComplete _ _ _ _ => true
  | .atomicPerform _ => true
  | .atomReply _ => true
  | .hodOpComplete _ _ _ => true
  | .msgDeliver _ => true
  | .monitorMatch _ => true
  | .monitorPoll _ => true
  | .kstep _ => true
  | .matrixOpComplete _ => true
  | .texComplete _ => true
  | .traceComplete _ => true
  | .forcedRender _ => true
  | .ticketDone _ _ => true
  | .tileFlush _ _ => true
  | .tileStore _ _ => true
  | .nop => true
  | .exit => true
  | .tail => true
  | .trap _ => true
  | .brk _ => true
  | .resume => true
  | .sread _ _ => true
  | .swrite _ _ => true
  | .sleepUntil _ => true
  | .sleepCyc _ => true
  | .yield => true
  | .pfailDone => true
  | .ifKElse _ _ => true
  | .ifNkElse _ _ => true
  | .ifSElse _ _ => true
  | .ifNsElse _ _ => true
  | .ifK _ _ => true
  | .ifNk _ _ => true
  | .ifS _ _ => true
  | .ifNs _ _ => true
  | .elseArm _ => true
  | .endif => true
  | .loop _ => true
  | .endloop => true
  | .breakK _ => true
  | .breakS _ => true
  | .continueK _ => true
  | .continueS _ => true
  | .call _ => true
  | .ret => true
  | .gate _ => true
  | .gret => true
  | .bar => true
  | .barArrive => true
  | .barDrop => true
  | .barWait => true
  | .bobjInit _ _ _ => true
  | .bobjJoin _ => true
  | .bobjLeave _ => true
  | .bobjArrive _ _ _ => true
  | .bobjExpect _ _ => true
  | .bobjWait _ _ => true
  | .bobjTest _ _ => true
  | .waitCnt _ _ => true
  | .fence s o => decide (o.toNat < 5 ∧ s.toNat < 6)
  | .semSet _ _ => true
  | .semAdd _ _ => true
  | .semWaitge _ _ => true
  | .semRead _ _ => true
  | .waitc _ _ c _ _ => decide (c.toNat < 6)
  | .monCancel => true
  | .launch _ _ => true
  | .regionJoin _ => true
  | .msgSend _ _ => true
  | .msgRecv _ _ _ => true
  | .msgPoll _ _ _ => true
  | .msgFree _ _ => true
  | .primEmit _ _ => true
  | .primEmitClose _ => true
  | .tileGet _ _ => true
  | .tileDone => true
  | .tileAttr _ _ => true
  | .edge _ => true
  | .interp _ _ _ => true
  | .samplepos _ _ => true
  | .glzInsert _ _ _ => true
  | .glzCount _ _ => true
  | .glzRead _ _ _ => true
  | .glzResolve _ _ _ => true
  | .glzResolveClr _ _ _ => true
  | .glzClear _ => true
  | .texSample _ _ _ cm _ lm c => decide (lm.toNat < 3 ∧ (lm.toNat ≠ 0 ∨ c.toNat = 0) ∧ cm.toNat = 0)
  | .texLoad _ _ _ cm _ lm c => decide (lm.toNat < 3 ∧ (lm.toNat ≠ 0 ∨ c.toNat = 0) ∧ lm.toNat = 1 ∧ cm.toNat = 0)
  | .texGather4 _ _ _ _ _ lm c => decide (lm.toNat < 3 ∧ (lm.toNat ≠ 0 ∨ c.toNat = 0))
  | .texLod _ _ _ cm _ lm c => decide (lm.toNat < 3 ∧ (lm.toNat ≠ 0 ∨ c.toNat = 0) ∧ cm.toNat = 0)
  | .texSampleC _ _ _ cm _ lm c => decide (lm.toNat < 3 ∧ (lm.toNat ≠ 0 ∨ c.toNat = 0) ∧ cm.toNat = 0)
  | .texLoadC _ _ _ cm _ lm c => decide (lm.toNat < 3 ∧ (lm.toNat ≠ 0 ∨ c.toNat = 0) ∧ lm.toNat = 1 ∧ cm.toNat = 0)
  | .texGather4C _ _ _ _ _ lm c => decide (lm.toNat < 3 ∧ (lm.toNat ≠ 0 ∨ c.toNat = 0))
  | .texLodC _ _ _ cm _ lm c => decide (lm.toNat < 3 ∧ (lm.toNat ≠ 0 ∨ c.toNat = 0) ∧ cm.toNat = 0)
  | .trace _ _ _ _ _ => true
  | .traceC _ _ _ _ _ => true
  | .hitReport _ _ => true
  | .hitAccept _ => true
  | .hitIgnore _ => true
  | .contKey _ => true
  | .repack _ => true
  | .iadd _ a b lit => litOk [a, b] lit
  | .iaddSat _ a b lit => litOk [a, b] lit
  | .iaddSatU _ a b lit => litOk [a, b] lit
  | .isub _ a b lit => litOk [a, b] lit
  | .isubSat _ a b lit => litOk [a, b] lit
  | .isubSatU _ a b lit => litOk [a, b] lit
  | .ineg _ a lit => litOk [a] lit
  | .iabs _ a lit => litOk [a] lit
  | .iabsd _ a b lit => litOk [a, b] lit
  | .iabsdU _ a b lit => litOk [a, b] lit
  | .iaddCc _ _ _ _ _ => true
  | .isubCc _ _ _ _ _ => true
  | .imulLo _ a b lit => litOk [a, b] lit
  | .imulHi _ a b lit => litOk [a, b] lit
  | .imulHiU _ a b lit => litOk [a, b] lit
  | .imac _ _ _ _ => true
  | .idot4 _ _ _ _ _ _ _ => true
  | .and _ a b lit => litOk [a, b] lit
  | .or _ a b lit => litOk [a, b] lit
  | .xor _ a b lit => litOk [a, b] lit
  | .andn _ a b lit => litOk [a, b] lit
  | .not _ a lit => litOk [a] lit
  | .shl _ a b lit => litOk [a, b] lit
  | .shr _ a b lit => litOk [a, b] lit
  | .sar _ a b lit => litOk [a, b] lit
  | .rotl _ a b lit => litOk [a, b] lit
  | .fshr _ _ _ _ => true
  | .imin _ a b lit => litOk [a, b] lit
  | .iminU _ a b lit => litOk [a, b] lit
  | .imax _ a b lit => litOk [a, b] lit
  | .imaxU _ a b lit => litOk [a, b] lit
  | .icmp c _ a b lit => litOk [a, b] lit && decide (c.toNat < 10)
  | .popc _ a lit => litOk [a] lit
  | .clz _ a lit => litOk [a] lit
  | .brev _ a lit => litOk [a] lit
  | .bfe _ a b lit => litOk [a, b] lit
  | .bfeS _ a b lit => litOk [a, b] lit
  | .bfi _ _ _ _ => true
  | .iaddi _ _ _ => true
  | .andi _ _ _ => true
  | .ori _ _ _ => true
  | .xori _ _ _ => true
  | .shli _ _ _ => true
  | .shri _ _ _ => true
  | .sari _ _ _ => true
  | .fadd _ _ _ a b lit => litOk [a, b] lit
  | .fsub _ _ _ a b lit => litOk [a, b] lit
  | .fmul _ _ _ a b lit => litOk [a, b] lit
  | .fmin _ _ _ a b lit => litOk [a, b] lit
  | .fmax _ _ _ a b lit => litOk [a, b] lit
  | .fmac _ _ _ a b lit => litOk [a, b] lit
  | .fma _ _ _ _ _ _ => true
  | .flerp _ _ _ _ _ _ => true
  | .fcmp _ _ a b lit => litOk [a, b] lit
  | .fclass _ a lit => litOk [a] lit
  | .frcp _ _ a lit => litOk [a] lit
  | .frsq _ _ a lit => litOk [a] lit
  | .fsqrt _ _ a lit => litOk [a] lit
  | .fexp2 _ _ a lit => litOk [a] lit
  | .flog2 _ _ a lit => litOk [a] lit
  | .fsin _ _ a lit => litOk [a] lit
  | .fcos _ _ a lit => litOk [a] lit
  | .ftanh _ _ a lit => litOk [a] lit
  | .cvt _ _ _ sf _ _ df => decide (sf.toNat ≠ 8 ∧ sf.toNat < 11 ∧ df.toNat ≠ 8 ∧ df.toNat < 11)
  | .frnd _ a _ m lit => litOk [a] lit && decide (m.toNat < 6)
  | .cvtPk2 _ _ _ _ _ df => decide (df.toNat = 1 ∨ df.toNat = 2)
  | .cvtPk4 _ _ _ _ _ _ df => decide (df.toNat = 3 ∨ df.toNat = 4 ∨ df.toNat = 6)
  | .cvtPk8 _ _ _ _ _ _ df => decide (df.toNat = 5 ∨ df.toNat = 7)
  | .cvtUnpk2 _ _ _ b sc sf => decide (sf.toNat = 1 ∨ sf.toNat = 2) && decide (sc.toNat < 3 ∧ (sc.toNat ≠ 0 ∨ b.toNat = 0))
  | .cvtUnpk4 _ _ _ b sc sf => decide (sf.toNat = 3 ∨ sf.toNat = 4 ∨ sf.toNat = 6) && decide (sc.toNat < 3 ∧ (sc.toNat ≠ 0 ∨ b.toNat = 0))
  | .cvtUnpk8 _ _ _ b sc sf => decide (sf.toNat = 5 ∨ sf.toNat = 7) && decide (sc.toNat < 3 ∧ (sc.toNat ≠ 0 ∨ b.toNat = 0))
  | .quantBlk _ _ _ _ _ _ tf => decide (tf.toNat = 3 ∨ tf.toNat = 4 ∨ tf.toNat = 5 ∨ tf.toNat = 6 ∨ tf.toNat = 7)
  | .cbkDec _ _ _ _ _ => true
  | .mov _ a lit => litOk [a] lit
  | .sel _ _ _ _ => true
  | .bcast _ _ _ => true
  | .bcastFirst _ _ => true
  | .ballot _ _ => true
  | .shflIdx _ a b lit => litOk [a, b] lit
  | .shflUp _ _ _ => true
  | .shflDn _ _ _ => true
  | .shflXor _ _ _ => true
  | .redAdd _ a lit => litOk [a] lit
  | .redAddF32 _ a lit => litOk [a] lit
  | .redMin _ a lit => litOk [a] lit
  | .redMinU _ a lit => litOk [a] lit
  | .redMinF32 _ a lit => litOk [a] lit
  | .redMax _ a lit => litOk [a] lit
  | .redMaxU _ a lit => litOk [a] lit
  | .redMaxF32 _ a lit => litOk [a] lit
  | .scanAdd _ a lit => litOk [a] lit
  | .scanAddEx _ a lit => litOk [a] lit
  | .scanAddF32 _ a lit => litOk [a] lit
  | .sadd _ _ _ => true
  | .ssub _ _ _ => true
  | .smul _ _ _ => true
  | .smulh _ _ _ => true
  | .sand _ _ _ => true
  | .sor _ _ _ => true
  | .sxor _ _ _ => true
  | .sandn _ _ _ => true
  | .sshl _ _ _ => true
  | .sshr _ _ _ => true
  | .ssar _ _ _ => true
  | .srotl _ _ _ => true
  | .scmpEq _ _ _ => true
  | .scmpLt _ _ _ => true
  | .scmpLtu _ _ _ => true
  | .scmpLe _ _ _ => true
  | .smovi _ _ => true
  | .smovhi _ _ => true
  | .saddi _ _ => true
  | .scmpi _ _ _ _ => true
  | .sadd64 _ _ _ => true
  | .ssub64 _ _ _ => true
  | .smul64 _ _ _ => true
  | .sshl64 _ _ _ => true
  | .smin _ _ _ => true
  | .smax _ _ _ => true
  | .spopc _ _ => true
  | .sclz _ _ => true
  | .vget _ _ _ => true
  | .vset _ _ _ => true
  | .ktos _ _ => true
  | .stok _ _ => true
  | .kand _ _ _ => true
  | .kor _ _ _ => true
  | .kxor _ _ _ => true
  | .knot _ _ => true
  | .kmov _ _ => true
  | .ddx _ a lit => litOk [a] lit
  | .ddxCoarse _ a lit => litOk [a] lit
  | .ddy _ a lit => litOk [a] lit
  | .ddyCoarse _ a lit => litOk [a] lit
  | .qswap _ _ _ => true
  | .tlbInv _ _ => true
  | .ixuLoad _ _ => true
  | .ccFlush => true
  | .ccInval => true
  | .bndSet _ => true
  | .ldcU8 _ i _ _ lit => litOk [i] lit
  | .ldcS8 _ i _ _ lit => litOk [i] lit
  | .ldcU16 _ i _ _ lit => litOk [i] lit
  | .ldcS16 _ i _ _ lit => litOk [i] lit
  | .ldc _ i _ _ lit => litOk [i] lit
  | .ldc64 _ i _ _ lit => litOk [i] lit
  | .ldcBc _ i _ _ lit => litOk [i] lit
  | .ldcOrdered _ _ _ _ sc od sz => decide (sc.toNat < 6 ∧ od.toNat < 3 ∧ (od.toNat ≠ 0 ∨ sc.toNat = 0) ∧ sz.toNat < 6)
  | .stc8 s i _ _ lit => litOk [s, i] lit
  | .stc16 s i _ _ lit => litOk [s, i] lit
  | .stc s i _ _ lit => litOk [s, i] lit
  | .stc64 s i _ _ lit => litOk [s, i] lit
  | .stcOrdered _ _ _ _ sc od sz => decide (sc.toNat < 6 ∧ od.toNat < 3 ∧ (od.toNat ≠ 0 ∨ sc.toNat = 0)) && decide (sz.toNat = 0 ∨ sz.toNat = 2 ∨ sz.toNat = 4 ∨ sz.toNat = 5)
  | .ldp _ i _ lit => litOk [i] lit
  | .stp s i _ lit => litOk [s, i] lit
  | .gld _ i _ _ lit => litOk [i] lit
  | .gld64 _ i _ _ lit => litOk [i] lit
  | .gld128 _ i _ _ lit => litOk [i] lit
  | .gldOrdered _ _ _ _ sc od sz => decide (sc.toNat < 6 ∧ od.toNat < 3 ∧ (od.toNat ≠ 0 ∨ sc.toNat = 0) ∧ sz.toNat < 7)
  | .gst s i _ _ lit => litOk [s, i] lit
  | .gst64 s i _ _ lit => litOk [s, i] lit
  | .gst128 s i _ _ lit => litOk [s, i] lit
  | .gstOrdered _ _ _ _ sc od sz => decide (sc.toNat < 6 ∧ od.toNat < 3 ∧ (od.toNat ≠ 0 ∨ sc.toNat = 0)) && decide (sz.toNat = 0 ∨ sz.toNat = 2 ∨ sz.toNat = 4 ∨ sz.toNat = 5 ∨ sz.toNat = 6)
  | .latom o _ _ _ _ sc _ _ => decide (o.toNat < 5 ∧ sc.toNat < 6 ∧ (o.toNat ≠ 0 ∨ sc.toNat = 0))
  | .atom o _ _ _ _ sc _ _ => decide (o.toNat < 5 ∧ sc.toNat < 6 ∧ (o.toNat ≠ 0 ∨ sc.toNat = 0))
  | .ared _ _ _ _ sc _ _ => decide (sc.toNat = 0)
  | .aredRel _ _ _ _ sc _ _ => decide (sc.toNat < 6)
  | .rslotLd _ _ => true
  | .rslotLd64 _ _ => true
  | .rslotTest _ _ => true
  | .hodCopy _ _ => true
  | .hodGather _ _ => true
  | .hodScatter _ _ => true
  | .hodFill _ _ => true
  | .hodSend _ _ => true
  | .hodReduce _ _ => true
  | .hodPrefetch _ _ => true
  | .ccPrefetch _ _ => true
  | .ccWb _ _ => true
  | .ccDiscard _ _ => true
  | .ringAcq _ _ => true
  | .ringCommit _ _ => true
  | .ringWait _ _ => true
  | .ringFree _ _ => true
  | .beadMode _ => true
  | .beadMma _ _ _ => true
  | .beadMmaz _ _ _ => true
  | .beadZero _ => true
  | .beadSync _ => true
  | .beadScale _ _ => true
  | .palReserve _ _ _ => true
  | .palFill _ _ _ => true
  | .palFillk _ _ _ => true
  | .palRelease _ => true
  | .cbDrain _ _ _ => true
  | .cbLoad _ _ => true
  | .cbClear _ _ => true
  | .omDepth _ _ _ _ => true
  | .omWrite _ _ _ => true
  | .omLoad _ _ => true
  | .omLatch _ _ => true
  | .dclkReturn => true
  | .clampConditionClear => true
  | .pcieLinkStateChange _ _ _ _ => true

/-- Well-formedness as a proposition. -/
abbrev Instr.WellFormed (i : Instr) : Prop := i.wellFormed = true

end Sys2Proof
end

