-- ==== Sys2Proof/Decode.lean ====
section
/-! DEFINITION. The decoder, total on any words, and after it the encoder, both written from the
formats and opcode map of 12 R319–R324 and from each family's encoding table. A word is read as one
number, bit 0 its least significant bit. What the decoder refuses, it refuses by name; the machine
raises ILLEGAL_ENCODING for it when it issues (12 R324). Some definitions are marked noncomputable for
one reason alone: the runtime has no tag for a constructor beyond the 244th of a type, and Instr has one
constructor for each of the table's 414 rows. The kernel evaluates them all. -/
namespace Sys2Proof

/-- Why a word is no instruction. -/
inductive BadWord where
  /-- A major that the opcode map reserves (12 R324). -/
  | reservedMajor
  /-- An FN that its family does not assign (12 R324). -/
  | unassignedFn
  /-- A field that the instruction does not use is not zero (12 R320). -/
  | unusedField
  /-- A reserved or undefined bit of the extension word is set, or a field of a word or of its extension
  holds a code that its family gives no meaning (12 R322). -/
  | reservedCode
  deriving DecidableEq, Repr

/-- What a word and the word after it decode to: an instruction and how many words it takes, or the
reason that there is none. -/
inductive Decoded where
  | instr (i : Instr) (words : Nat)
  | bad (r : BadWord)
  deriving DecidableEq, Repr

/-- Bits `[hi:lo]` of a word. -/
def wordField (w hi lo : Nat) : Nat := w / 2 ^ lo % 2 ^ (hi + 1 - lo)

/-- An instruction whose unused bits, as `unused` numbers them, must be zero and whose fields must hold
defined codes. -/
def decodedIf (unused : Nat) (i : Instr) (words : Nat) : Decoded :=
  if unused ≠ 0 then .bad .unusedField
  else if i.wellFormed then .instr i words else .bad .reservedCode

/-- The EL word, when a source code is 124, and zero otherwise (14 R371). -/
def litWord (codes : List Nat) (x : Nat) : BitVec 32 :=
  if codes.contains 124 then BitVec.ofNat 32 x else 0#32

/-- How many words a form with a literal takes. -/
def litWords (codes : List Nat) : Nat := if codes.contains 124 then 2 else 1

/-- Major 0x00. -/
def decodeMajor00 (w _x : Nat) : Decoded :=
  match wordField w 25 21 with
  | 0 =>
      decodedIf (wordField w 20 0) .nop 1
  | 1 =>
      decodedIf (wordField w 20 0) .exit 1
  | 2 =>
      decodedIf (wordField w 20 0) .tail 1
  | 3 =>
      decodedIf (wordField w 20 8) (.trap (BitVec.ofNat 8 (wordField w 7 0))) 1
  | 4 =>
      decodedIf (wordField w 20 8) (.brk (BitVec.ofNat 8 (wordField w 7 0))) 1
  | 5 =>
      decodedIf (wordField w 20 0) .resume 1
  | 6 =>
      decodedIf (wordField w 12 8) (.sread (BitVec.ofNat 8 (wordField w 20 13)) (BitVec.ofNat 8 (wordField w 7 0))) 1
  | 7 =>
      decodedIf (wordField w 12 8) (.swrite (BitVec.ofNat 8 (wordField w 20 13)) (BitVec.ofNat 8 (wordField w 7 0))) 1
  | 8 =>
      decodedIf (wordField w 12 0) (.sleepUntil (BitVec.ofNat 8 (wordField w 20 13))) 1
  | 9 =>
      decodedIf (wordField w 12 0) (.sleepCyc (BitVec.ofNat 8 (wordField w 20 13))) 1
  | 10 =>
      decodedIf (wordField w 20 0) .yield 1
  | 11 =>
      decodedIf (wordField w 20 0) .pfailDone 1
  | _ => .bad .unassignedFn

/-- Major 0x01. -/
def decodeMajor01 (w _x : Nat) : Decoded :=
  match wordField w 25 21 with
  | 0 =>
      decodedIf (wordField w 20 16) (.ifKElse (BitVec.ofNat 3 (wordField w 15 13)) (BitVec.ofNat 13 (wordField w 12 0))) 1
  | 1 =>
      decodedIf (wordField w 20 16) (.ifNkElse (BitVec.ofNat 3 (wordField w 15 13)) (BitVec.ofNat 13 (wordField w 12 0))) 1
  | 2 =>
      decodedIf (0) (.ifSElse (BitVec.ofNat 8 (wordField w 20 13)) (BitVec.ofNat 13 (wordField w 12 0))) 1
  | 3 =>
      decodedIf (0) (.ifNsElse (BitVec.ofNat 8 (wordField w 20 13)) (BitVec.ofNat 13 (wordField w 12 0))) 1
  | 4 =>
      decodedIf (wordField w 20 13) (.elseArm (BitVec.ofNat 13 (wordField w 12 0))) 1
  | 5 =>
      decodedIf (wordField w 20 0) .endif 1
  | 6 =>
      decodedIf (wordField w 20 13) (.loop (BitVec.ofNat 13 (wordField w 12 0))) 1
  | 7 =>
      decodedIf (wordField w 20 0) .endloop 1
  | 8 =>
      decodedIf (wordField w 12 0 + wordField w 20 16) (.breakK (BitVec.ofNat 3 (wordField w 15 13))) 1
  | 9 =>
      decodedIf (wordField w 12 0) (.breakS (BitVec.ofNat 8 (wordField w 20 13))) 1
  | 10 =>
      decodedIf (wordField w 12 0 + wordField w 20 16) (.continueK (BitVec.ofNat 3 (wordField w 15 13))) 1
  | 11 =>
      decodedIf (wordField w 12 0) (.continueS (BitVec.ofNat 8 (wordField w 20 13))) 1
  | 12 =>
      decodedIf (wordField w 20 13) (.call (BitVec.ofNat 13 (wordField w 12 0))) 1
  | 13 =>
      decodedIf (wordField w 20 0) .ret 1
  | 16 =>
      decodedIf (wordField w 20 16) (.ifK (BitVec.ofNat 3 (wordField w 15 13)) (BitVec.ofNat 13 (wordField w 12 0))) 1
  | 17 =>
      decodedIf (wordField w 20 16) (.ifNk (BitVec.ofNat 3 (wordField w 15 13)) (BitVec.ofNat 13 (wordField w 12 0))) 1
  | 18 =>
      decodedIf (0) (.ifS (BitVec.ofNat 8 (wordField w 20 13)) (BitVec.ofNat 13 (wordField w 12 0))) 1
  | 19 =>
      decodedIf (0) (.ifNs (BitVec.ofNat 8 (wordField w 20 13)) (BitVec.ofNat 13 (wordField w 12 0))) 1
  | _ => .bad .unassignedFn

/-- Major 0x02. -/
def decodeMajor02 (w _x : Nat) : Decoded :=
  match wordField w 25 21 with
  | 0 =>
      decodedIf (wordField w 20 8) (.gate (BitVec.ofNat 8 (wordField w 7 0))) 1
  | 1 =>
      decodedIf (wordField w 20 0) .gret 1
  | _ => .bad .unassignedFn

/-- Major 0x03. -/
def decodeMajor03 (w _x : Nat) : Decoded :=
  match wordField w 25 24 with
  | 0 =>
      decodedIf (wordField w 23 0) .bar 1
  | 1 =>
      decodedIf (wordField w 23 0) .barArrive 1
  | 2 =>
      decodedIf (wordField w 23 0) .barDrop 1
  | 3 =>
      decodedIf (wordField w 23 0) .barWait 1
  | _ => .bad .unassignedFn

/-- Major 0x04. -/
def decodeMajor04 (w _x : Nat) : Decoded :=
  match wordField w 25 21 with
  | 0 =>
      decodedIf (wordField w 4 1) (.bobjInit (BitVec.ofNat 8 (wordField w 20 13)) (BitVec.ofNat 8 (wordField w 12 5)) (BitVec.ofNat 1 (wordField w 0 0))) 1
  | 1 =>
      decodedIf (wordField w 4 0 + wordField w 20 13) (.bobjJoin (BitVec.ofNat 8 (wordField w 12 5))) 1
  | 2 =>
      decodedIf (wordField w 4 0 + wordField w 20 13) (.bobjLeave (BitVec.ofNat 8 (wordField w 12 5))) 1
  | 3 =>
      decodedIf (wordField w 4 1) (.bobjArrive (BitVec.ofNat 8 (wordField w 20 13)) (BitVec.ofNat 8 (wordField w 12 5)) (BitVec.ofNat 1 (wordField w 0 0))) 1
  | 4 =>
      decodedIf (wordField w 4 0) (.bobjExpect (BitVec.ofNat 8 (wordField w 20 13)) (BitVec.ofNat 8 (wordField w 12 5))) 1
  | 5 =>
      decodedIf (wordField w 4 0) (.bobjWait (BitVec.ofNat 8 (wordField w 20 13)) (BitVec.ofNat 8 (wordField w 12 5))) 1
  | 6 =>
      decodedIf (wordField w 4 0) (.bobjTest (BitVec.ofNat 8 (wordField w 20 13)) (BitVec.ofNat 8 (wordField w 12 5))) 1
  | _ => .bad .unassignedFn

/-- Major 0x05. -/
def decodeMajor05 (w _x : Nat) : Decoded :=
  match wordField w 25 24 with
  | 0 =>
      decodedIf (wordField w 7 2 + wordField w 23 14) (.waitCnt (BitVec.ofNat 6 (wordField w 13 8)) (BitVec.ofNat 2 (wordField w 1 0))) 1
  | 1 =>
      decodedIf (wordField w 3 3 + wordField w 23 7) (.fence (BitVec.ofNat 3 (wordField w 6 4)) (BitVec.ofNat 3 (wordField w 2 0))) 1
  | _ => .bad .unassignedFn

/-- Major 0x06. -/
def decodeMajor06 (w _x : Nat) : Decoded :=
  match wordField w 25 24 with
  | 0 =>
      decodedIf (wordField w 23 16) (.semSet (BitVec.ofNat 8 (wordField w 15 8)) (BitVec.ofNat 8 (wordField w 7 0))) 1
  | 1 =>
      decodedIf (wordField w 23 16) (.semAdd (BitVec.ofNat 8 (wordField w 15 8)) (BitVec.ofNat 8 (wordField w 7 0))) 1
  | 2 =>
      decodedIf (wordField w 23 16) (.semWaitge (BitVec.ofNat 8 (wordField w 15 8)) (BitVec.ofNat 8 (wordField w 7 0))) 1
  | 3 =>
      decodedIf (wordField w 15 8) (.semRead (BitVec.ofNat 8 (wordField w 23 16)) (BitVec.ofNat 8 (wordField w 7 0))) 1
  | _ => .bad .unassignedFn

/-- Major 0x07. -/
def decodeMajor07 (w _x : Nat) : Decoded :=
  match wordField w 25 24 with
  | 0 =>
      decodedIf (wordField w 23 21) (.waitc (BitVec.ofNat 1 (wordField w 20 20)) (BitVec.ofNat 1 (wordField w 19 19)) (BitVec.ofNat 3 (wordField w 18 16)) (BitVec.ofNat 8 (wordField w 15 8)) (BitVec.ofNat 8 (wordField w 7 0))) 1
  | 1 =>
      decodedIf (wordField w 23 0) .monCancel 1
  | _ => .bad .unassignedFn

/-- Major 0x08. -/
def decodeMajor08 (w _x : Nat) : Decoded :=
  match wordField w 25 21 with
  | 0 =>
      decodedIf (wordField w 4 0) (.launch (BitVec.ofNat 8 (wordField w 20 13)) (BitVec.ofNat 8 (wordField w 12 5))) 1
  | 1 =>
      decodedIf (wordField w 4 0 + wordField w 20 13) (.regionJoin (BitVec.ofNat 8 (wordField w 12 5))) 1
  | _ => .bad .unassignedFn

/-- Major 0x09. -/
def decodeMajor09 (w _x : Nat) : Decoded :=
  match wordField w 25 21 with
  | 0 =>
      decodedIf (wordField w 4 0) (.msgSend (BitVec.ofNat 8 (wordField w 20 13)) (BitVec.ofNat 8 (wordField w 12 5))) 1
  | 1 =>
      decodedIf (wordField w 4 4) (.msgRecv (BitVec.ofNat 8 (wordField w 20 13)) (BitVec.ofNat 8 (wordField w 12 5)) (BitVec.ofNat 4 (wordField w 3 0))) 1
  | 2 =>
      decodedIf (wordField w 4 4) (.msgPoll (BitVec.ofNat 8 (wordField w 20 13)) (BitVec.ofNat 8 (wordField w 12 5)) (BitVec.ofNat 4 (wordField w 3 0))) 1
  | 3 =>
      decodedIf (wordField w 12 4) (.msgFree (BitVec.ofNat 8 (wordField w 20 13)) (BitVec.ofNat 4 (wordField w 3 0))) 1
  | _ => .bad .unassignedFn

/-- Major 0x0A. -/
def decodeMajor0A (w _x : Nat) : Decoded :=
  match wordField w 25 21 with
  | 0 =>
      decodedIf (wordField w 20 14) (.primEmit (BitVec.ofNat 7 (wordField w 13 7)) (BitVec.ofNat 7 (wordField w 6 0))) 1
  | 1 =>
      decodedIf (wordField w 20 7) (.primEmitClose (BitVec.ofNat 7 (wordField w 6 0))) 1
  | 2 =>
      decodedIf (wordField w 13 7 + wordField w 20 17) (.tileGet (BitVec.ofNat 3 (wordField w 16 14)) (BitVec.ofNat 7 (wordField w 6 0))) 1
  | 3 =>
      decodedIf (wordField w 20 0) .tileDone 1
  | 4 =>
      decodedIf (wordField w 13 4) (.tileAttr (BitVec.ofNat 7 (wordField w 20 14)) (BitVec.ofNat 4 (wordField w 3 0))) 1
  | _ => .bad .unassignedFn

/-- Major 0x0B. -/
def decodeMajor0B (w _x : Nat) : Decoded :=
  match wordField w 25 21 with
  | 0 =>
      decodedIf (wordField w 13 0) (.edge (BitVec.ofNat 7 (wordField w 20 14))) 1
  | 1 =>
      decodedIf (wordField w 13 7) (.interp (BitVec.ofNat 7 (wordField w 20 14)) (BitVec.ofNat 4 (wordField w 6 3)) (BitVec.ofNat 3 (wordField w 2 0))) 1
  | 2 =>
      decodedIf (wordField w 13 4) (.samplepos (BitVec.ofNat 7 (wordField w 20 14)) (BitVec.ofNat 4 (wordField w 3 0))) 1
  | _ => .bad .unassignedFn

/-- Major 0x0C. -/
def decodeMajor0C (w _x : Nat) : Decoded :=
  match wordField w 25 21 with
  | 0 =>
      decodedIf (0) (.glzInsert (BitVec.ofNat 7 (wordField w 20 14)) (BitVec.ofNat 7 (wordField w 13 7)) (BitVec.ofNat 7 (wordField w 6 0))) 1
  | 1 =>
      decodedIf (wordField w 6 0) (.glzCount (BitVec.ofNat 7 (wordField w 20 14)) (BitVec.ofNat 7 (wordField w 13 7))) 1
  | 2 =>
      decodedIf (0) (.glzRead (BitVec.ofNat 7 (wordField w 20 14)) (BitVec.ofNat 7 (wordField w 13 7)) (BitVec.ofNat 7 (wordField w 6 0))) 1
  | 3 =>
      decodedIf (0) (.glzResolve (BitVec.ofNat 7 (wordField w 20 14)) (BitVec.ofNat 7 (wordField w 13 7)) (BitVec.ofNat 7 (wordField w 6 0))) 1
  | 4 =>
      decodedIf (0) (.glzResolveClr (BitVec.ofNat 7 (wordField w 20 14)) (BitVec.ofNat 7 (wordField w 13 7)) (BitVec.ofNat 7 (wordField w 6 0))) 1
  | 5 =>
      decodedIf (wordField w 6 0 + wordField w 20 14) (.glzClear (BitVec.ofNat 7 (wordField w 13 7))) 1
  | _ => .bad .unassignedFn

/-- Major 0x0D. -/
def decodeMajor0D (w x : Nat) : Decoded :=
  match wordField w 25 23 with
  | 0 =>
      if wordField x 7 7 + wordField x 31 13 ≠ 0 then .bad .reservedCode else
      decodedIf (wordField w 8 8) (.texSample (BitVec.ofNat 7 (wordField w 22 16)) (BitVec.ofNat 7 (wordField w 15 9)) (BitVec.ofNat 8 (wordField w 7 0)) (BitVec.ofNat 2 (wordField x 12 11)) (BitVec.ofNat 1 (wordField x 10 10)) (BitVec.ofNat 2 (wordField x 9 8)) (BitVec.ofNat 7 (wordField x 6 0))) 2
  | 1 =>
      if wordField x 7 7 + wordField x 31 13 ≠ 0 then .bad .reservedCode else
      decodedIf (wordField w 8 8) (.texLoad (BitVec.ofNat 7 (wordField w 22 16)) (BitVec.ofNat 7 (wordField w 15 9)) (BitVec.ofNat 8 (wordField w 7 0)) (BitVec.ofNat 2 (wordField x 12 11)) (BitVec.ofNat 1 (wordField x 10 10)) (BitVec.ofNat 2 (wordField x 9 8)) (BitVec.ofNat 7 (wordField x 6 0))) 2
  | 2 =>
      if wordField x 7 7 + wordField x 31 13 ≠ 0 then .bad .reservedCode else
      decodedIf (wordField w 8 8) (.texGather4 (BitVec.ofNat 7 (wordField w 22 16)) (BitVec.ofNat 7 (wordField w 15 9)) (BitVec.ofNat 8 (wordField w 7 0)) (BitVec.ofNat 2 (wordField x 12 11)) (BitVec.ofNat 1 (wordField x 10 10)) (BitVec.ofNat 2 (wordField x 9 8)) (BitVec.ofNat 7 (wordField x 6 0))) 2
  | 3 =>
      if wordField x 7 7 + wordField x 31 13 ≠ 0 then .bad .reservedCode else
      decodedIf (wordField w 8 8) (.texLod (BitVec.ofNat 7 (wordField w 22 16)) (BitVec.ofNat 7 (wordField w 15 9)) (BitVec.ofNat 8 (wordField w 7 0)) (BitVec.ofNat 2 (wordField x 12 11)) (BitVec.ofNat 1 (wordField x 10 10)) (BitVec.ofNat 2 (wordField x 9 8)) (BitVec.ofNat 7 (wordField x 6 0))) 2
  | 4 =>
      if wordField x 7 7 + wordField x 31 13 ≠ 0 then .bad .reservedCode else
      decodedIf (wordField w 8 8) (.texSampleC (BitVec.ofNat 7 (wordField w 22 16)) (BitVec.ofNat 7 (wordField w 15 9)) (BitVec.ofNat 8 (wordField w 7 0)) (BitVec.ofNat 2 (wordField x 12 11)) (BitVec.ofNat 1 (wordField x 10 10)) (BitVec.ofNat 2 (wordField x 9 8)) (BitVec.ofNat 7 (wordField x 6 0))) 2
  | 5 =>
      if wordField x 7 7 + wordField x 31 13 ≠ 0 then .bad .reservedCode else
      decodedIf (wordField w 8 8) (.texLoadC (BitVec.ofNat 7 (wordField w 22 16)) (BitVec.ofNat 7 (wordField w 15 9)) (BitVec.ofNat 8 (wordField w 7 0)) (BitVec.ofNat 2 (wordField x 12 11)) (BitVec.ofNat 1 (wordField x 10 10)) (BitVec.ofNat 2 (wordField x 9 8)) (BitVec.ofNat 7 (wordField x 6 0))) 2
  | 6 =>
      if wordField x 7 7 + wordField x 31 13 ≠ 0 then .bad .reservedCode else
      decodedIf (wordField w 8 8) (.texGather4C (BitVec.ofNat 7 (wordField w 22 16)) (BitVec.ofNat 7 (wordField w 15 9)) (BitVec.ofNat 8 (wordField w 7 0)) (BitVec.ofNat 2 (wordField x 12 11)) (BitVec.ofNat 1 (wordField x 10 10)) (BitVec.ofNat 2 (wordField x 9 8)) (BitVec.ofNat 7 (wordField x 6 0))) 2
  | 7 =>
      if wordField x 7 7 + wordField x 31 13 ≠ 0 then .bad .reservedCode else
      decodedIf (wordField w 8 8) (.texLodC (BitVec.ofNat 7 (wordField w 22 16)) (BitVec.ofNat 7 (wordField w 15 9)) (BitVec.ofNat 8 (wordField w 7 0)) (BitVec.ofNat 2 (wordField x 12 11)) (BitVec.ofNat 1 (wordField x 10 10)) (BitVec.ofNat 2 (wordField x 9 8)) (BitVec.ofNat 7 (wordField x 6 0))) 2
  | _ => .bad .unassignedFn

/-- Major 0x0E. -/
def decodeMajor0E (w x : Nat) : Decoded :=
  match wordField w 25 23 with
  | 0 =>
      if wordField x 7 0 + wordField x 31 10 ≠ 0 then .bad .reservedCode else
      decodedIf (wordField w 8 8) (.trace (BitVec.ofNat 7 (wordField w 22 16)) (BitVec.ofNat 7 (wordField w 15 9)) (BitVec.ofNat 8 (wordField w 7 0)) (BitVec.ofNat 1 (wordField x 9 9)) (BitVec.ofNat 1 (wordField x 8 8))) 2
  | 1 =>
      if wordField x 7 0 + wordField x 31 10 ≠ 0 then .bad .reservedCode else
      decodedIf (wordField w 8 8) (.traceC (BitVec.ofNat 7 (wordField w 22 16)) (BitVec.ofNat 7 (wordField w 15 9)) (BitVec.ofNat 8 (wordField w 7 0)) (BitVec.ofNat 1 (wordField x 9 9)) (BitVec.ofNat 1 (wordField x 8 8))) 2
  | 2 =>
      decodedIf (wordField w 8 0) (.hitReport (BitVec.ofNat 7 (wordField w 22 16)) (BitVec.ofNat 7 (wordField w 15 9))) 1
  | 3 =>
      decodedIf (wordField w 15 0) (.hitAccept (BitVec.ofNat 7 (wordField w 22 16))) 1
  | 4 =>
      decodedIf (wordField w 15 0) (.hitIgnore (BitVec.ofNat 7 (wordField w 22 16))) 1
  | _ => .bad .unassignedFn

/-- Major 0x0F. -/
def decodeMajor0F (w _x : Nat) : Decoded :=
  match wordField w 25 21 with
  | 0 =>
      decodedIf (wordField w 6 0 + wordField w 20 14) (.contKey (BitVec.ofNat 7 (wordField w 13 7))) 1
  | 1 =>
      decodedIf (wordField w 20 7) (.repack (BitVec.ofNat 7 (wordField w 6 0))) 1
  | _ => .bad .unassignedFn

/-- Major 0x10. -/
def decodeMajor10 (w x : Nat) : Decoded :=
  match wordField w 25 21 with
  | 0 =>
      decodedIf (0) (.iadd (BitVec.ofNat 7 (wordField w 20 14)) (BitVec.ofNat 7 (wordField w 13 7)) (BitVec.ofNat 7 (wordField w 6 0)) (litWord [wordField w 13 7, wordField w 6 0] x)) (litWords [wordField w 13 7, wordField w 6 0])
  | 1 =>
      decodedIf (0) (.iaddSat (BitVec.ofNat 7 (wordField w 20 14)) (BitVec.ofNat 7 (wordField w 13 7)) (BitVec.ofNat 7 (wordField w 6 0)) (litWord [wordField w 13 7, wordField w 6 0] x)) (litWords [wordField w 13 7, wordField w 6 0])
  | 2 =>
      decodedIf (0) (.iaddSatU (BitVec.ofNat 7 (wordField w 20 14)) (BitVec.ofNat 7 (wordField w 13 7)) (BitVec.ofNat 7 (wordField w 6 0)) (litWord [wordField w 13 7, wordField w 6 0] x)) (litWords [wordField w 13 7, wordField w 6 0])
  | 3 =>
      decodedIf (0) (.isub (BitVec.ofNat 7 (wordField w 20 14)) (BitVec.ofNat 7 (wordField w 13 7)) (BitVec.ofNat 7 (wordField w 6 0)) (litWord [wordField w 13 7, wordField w 6 0] x)) (litWords [wordField w 13 7, wordField w 6 0])
  | 4 =>
      decodedIf (0) (.isubSat (BitVec.ofNat 7 (wordField w 20 14)) (BitVec.ofNat 7 (wordField w 13 7)) (BitVec.ofNat 7 (wordField w 6 0)) (litWord [wordField w 13 7, wordField w 6 0] x)) (litWords [wordField w 13 7, wordField w 6 0])
  | 5 =>
      decodedIf (0) (.isubSatU (BitVec.ofNat 7 (wordField w 20 14)) (BitVec.ofNat 7 (wordField w 13 7)) (BitVec.ofNat 7 (wordField w 6 0)) (litWord [wordField w 13 7, wordField w 6 0] x)) (litWords [wordField w 13 7, wordField w 6 0])
  | 6 =>
      decodedIf (wordField w 6 0) (.ineg (BitVec.ofNat 7 (wordField w 20 14)) (BitVec.ofNat 7 (wordField w 13 7)) (litWord [wordField w 13 7] x)) (litWords [wordField w 13 7])
  | 7 =>
      decodedIf (wordField w 6 0) (.iabs (BitVec.ofNat 7 (wordField w 20 14)) (BitVec.ofNat 7 (wordField w 13 7)) (litWord [wordField w 13 7] x)) (litWords [wordField w 13 7])
  | 8 =>
      decodedIf (0) (.iabsd (BitVec.ofNat 7 (wordField w 20 14)) (BitVec.ofNat 7 (wordField w 13 7)) (BitVec.ofNat 7 (wordField w 6 0)) (litWord [wordField w 13 7, wordField w 6 0] x)) (litWords [wordField w 13 7, wordField w 6 0])
  | 9 =>
      decodedIf (0) (.iabsdU (BitVec.ofNat 7 (wordField w 20 14)) (BitVec.ofNat 7 (wordField w 13 7)) (BitVec.ofNat 7 (wordField w 6 0)) (litWord [wordField w 13 7, wordField w 6 0] x)) (litWords [wordField w 13 7, wordField w 6 0])
  | 10 =>
      if wordField x 7 0 + wordField x 31 12 ≠ 0 then .bad .reservedCode else
      decodedIf (0) (.iaddCc (BitVec.ofNat 7 (wordField w 20 14)) (BitVec.ofNat 7 (wordField w 13 7)) (BitVec.ofNat 7 (wordField w 6 0)) (BitVec.ofNat 1 (wordField x 11 11)) (BitVec.ofNat 3 (wordField x 10 8))) 2
  | 11 =>
      if wordField x 7 0 + wordField x 31 12 ≠ 0 then .bad .reservedCode else
      decodedIf (0) (.isubCc (BitVec.ofNat 7 (wordField w 20 14)) (BitVec.ofNat 7 (wordField w 13 7)) (BitVec.ofNat 7 (wordField w 6 0)) (BitVec.ofNat 1 (wordField x 11 11)) (BitVec.ofNat 3 (wordField x 10 8))) 2
  | _ => .bad .unassignedFn

/-- Major 0x11. -/
def decodeMajor11 (w x : Nat) : Decoded :=
  match wordField w 25 21 with
  | 0 =>
      decodedIf (0) (.imulLo (BitVec.ofNat 7 (wordField w 20 14)) (BitVec.ofNat 7 (wordField w 13 7)) (BitVec.ofNat 7 (wordField w 6 0)) (litWord [wordField w 13 7, wordField w 6 0] x)) (litWords [wordField w 13 7, wordField w 6 0])
  | 1 =>
      decodedIf (0) (.imulHi (BitVec.ofNat 7 (wordField w 20 14)) (BitVec.ofNat 7 (wordField w 13 7)) (BitVec.ofNat 7 (wordField w 6 0)) (litWord [wordField w 13 7, wordField w 6 0] x)) (litWords [wordField w 13 7, wordField w 6 0])
  | 2 =>
      decodedIf (0) (.imulHiU (BitVec.ofNat 7 (wordField w 20 14)) (BitVec.ofNat 7 (wordField w 13 7)) (BitVec.ofNat 7 (wordField w 6 0)) (litWord [wordField w 13 7, wordField w 6 0] x)) (litWords [wordField w 13 7, wordField w 6 0])
  | 3 =>
      if wordField x 31 7 ≠ 0 then .bad .reservedCode else
      decodedIf (0) (.imac (BitVec.ofNat 7 (wordField w 20 14)) (BitVec.ofNat 7 (wordField w 13 7)) (BitVec.ofNat 7 (wordField w 6 0)) (BitVec.ofNat 7 (wordField x 6 0))) 2
  | 4 =>
      if wordField x 7 7 + wordField x 31 11 ≠ 0 then .bad .reservedCode else
      decodedIf (0) (.idot4 (BitVec.ofNat 7 (wordField w 20 14)) (BitVec.ofNat 7 (wordField w 13 7)) (BitVec.ofNat 7 (wordField w 6 0)) (BitVec.ofNat 1 (wordField x 10 10)) (BitVec.ofNat 1 (wordField x 9 9)) (BitVec.ofNat 1 (wordField x 8 8)) (BitVec.ofNat 7 (wordField x 6 0))) 2
  | _ => .bad .unassignedFn

/-- Major 0x12. -/
def decodeMajor12 (w x : Nat) : Decoded :=
  match wordField w 25 21 with
  | 0 =>
      decodedIf (0) (.and (BitVec.ofNat 7 (wordField w 20 14)) (BitVec.ofNat 7 (wordField w 13 7)) (BitVec.ofNat 7 (wordField w 6 0)) (litWord [wordField w 13 7, wordField w 6 0] x)) (litWords [wordField w 13 7, wordField w 6 0])
  | 1 =>
      decodedIf (0) (.or (BitVec.ofNat 7 (wordField w 20 14)) (BitVec.ofNat 7 (wordField w 13 7)) (BitVec.ofNat 7 (wordField w 6 0)) (litWord [wordField w 13 7, wordField w 6 0] x)) (litWords [wordField w 13 7, wordField w 6 0])
  | 2 =>
      decodedIf (0) (.xor (BitVec.ofNat 7 (wordField w 20 14)) (BitVec.ofNat 7 (wordField w 13 7)) (BitVec.ofNat 7 (wordField w 6 0)) (litWord [wordField w 13 7, wordField w 6 0] x)) (litWords [wordField w 13 7, wordField w 6 0])
  | 3 =>
      decodedIf (0) (.andn (BitVec.ofNat 7 (wordField w 20 14)) (BitVec.ofNat 7 (wordField w 13 7)) (BitVec.ofNat 7 (wordField w 6 0)) (litWord [wordField w 13 7, wordField w 6 0] x)) (litWords [wordField w 13 7, wordField w 6 0])
  | 4 =>
      decodedIf (wordField w 6 0) (.not (BitVec.ofNat 7 (wordField w 20 14)) (BitVec.ofNat 7 (wordField w 13 7)) (litWord [wordField w 13 7] x)) (litWords [wordField w 13 7])
  | _ => .bad .unassignedFn

/-- Major 0x13. -/
def decodeMajor13 (w x : Nat) : Decoded :=
  match wordField w 25 21 with
  | 0 =>
      decodedIf (0) (.shl (BitVec.ofNat 7 (wordField w 20 14)) (BitVec.ofNat 7 (wordField w 13 7)) (BitVec.ofNat 7 (wordField w 6 0)) (litWord [wordField w 13 7, wordField w 6 0] x)) (litWords [wordField w 13 7, wordField w 6 0])
  | 1 =>
      decodedIf (0) (.shr (BitVec.ofNat 7 (wordField w 20 14)) (BitVec.ofNat 7 (wordField w 13 7)) (BitVec.ofNat 7 (wordField w 6 0)) (litWord [wordField w 13 7, wordField w 6 0] x)) (litWords [wordField w 13 7, wordField w 6 0])
  | 2 =>
      decodedIf (0) (.sar (BitVec.ofNat 7 (wordField w 20 14)) (BitVec.ofNat 7 (wordField w 13 7)) (BitVec.ofNat 7 (wordField w 6 0)) (litWord [wordField w 13 7, wordField w 6 0] x)) (litWords [wordField w 13 7, wordField w 6 0])
  | 3 =>
      decodedIf (0) (.rotl (BitVec.ofNat 7 (wordField w 20 14)) (BitVec.ofNat 7 (wordField w 13 7)) (BitVec.ofNat 7 (wordField w 6 0)) (litWord [wordField w 13 7, wordField w 6 0] x)) (litWords [wordField w 13 7, wordField w 6 0])
  | 4 =>
      if wordField x 31 7 ≠ 0 then .bad .reservedCode else
      decodedIf (0) (.fshr (BitVec.ofNat 7 (wordField w 20 14)) (BitVec.ofNat 7 (wordField w 13 7)) (BitVec.ofNat 7 (wordField w 6 0)) (BitVec.ofNat 7 (wordField x 6 0))) 2
  | _ => .bad .unassignedFn

/-- Major 0x14. -/
def decodeMajor14 (w x : Nat) : Decoded :=
  match wordField w 25 21 with
  | 0 =>
      decodedIf (0) (.imin (BitVec.ofNat 7 (wordField w 20 14)) (BitVec.ofNat 7 (wordField w 13 7)) (BitVec.ofNat 7 (wordField w 6 0)) (litWord [wordField w 13 7, wordField w 6 0] x)) (litWords [wordField w 13 7, wordField w 6 0])
  | 1 =>
      decodedIf (0) (.iminU (BitVec.ofNat 7 (wordField w 20 14)) (BitVec.ofNat 7 (wordField w 13 7)) (BitVec.ofNat 7 (wordField w 6 0)) (litWord [wordField w 13 7, wordField w 6 0] x)) (litWords [wordField w 13 7, wordField w 6 0])
  | 2 =>
      decodedIf (0) (.imax (BitVec.ofNat 7 (wordField w 20 14)) (BitVec.ofNat 7 (wordField w 13 7)) (BitVec.ofNat 7 (wordField w 6 0)) (litWord [wordField w 13 7, wordField w 6 0] x)) (litWords [wordField w 13 7, wordField w 6 0])
  | 3 =>
      decodedIf (0) (.imaxU (BitVec.ofNat 7 (wordField w 20 14)) (BitVec.ofNat 7 (wordField w 13 7)) (BitVec.ofNat 7 (wordField w 6 0)) (litWord [wordField w 13 7, wordField w 6 0] x)) (litWords [wordField w 13 7, wordField w 6 0])
  | _ => .bad .unassignedFn

/-- Major 0x15. -/
def decodeMajor15 (w x : Nat) : Decoded :=
  match wordField w 25 21 with
  | 0 | 1 | 2 | 3 | 4 | 5 | 6 | 7 | 8 | 9 =>
      decodedIf (wordField w 20 17) (.icmp (BitVec.ofNat 5 (wordField w 25 21)) (BitVec.ofNat 3 (wordField w 16 14)) (BitVec.ofNat 7 (wordField w 13 7)) (BitVec.ofNat 7 (wordField w 6 0)) (litWord [wordField w 13 7, wordField w 6 0] x)) (litWords [wordField w 13 7, wordField w 6 0])
  | _ => .bad .unassignedFn

/-- Major 0x16. -/
noncomputable def decodeMajor16 (w x : Nat) : Decoded :=
  match wordField w 25 21 with
  | 0 =>
      decodedIf (wordField w 6 0) (.popc (BitVec.ofNat 7 (wordField w 20 14)) (BitVec.ofNat 7 (wordField w 13 7)) (litWord [wordField w 13 7] x)) (litWords [wordField w 13 7])
  | 1 =>
      decodedIf (wordField w 6 0) (.clz (BitVec.ofNat 7 (wordField w 20 14)) (BitVec.ofNat 7 (wordField w 13 7)) (litWord [wordField w 13 7] x)) (litWords [wordField w 13 7])
  | 2 =>
      decodedIf (wordField w 6 0) (.brev (BitVec.ofNat 7 (wordField w 20 14)) (BitVec.ofNat 7 (wordField w 13 7)) (litWord [wordField w 13 7] x)) (litWords [wordField w 13 7])
  | 3 =>
      decodedIf (0) (.bfe (BitVec.ofNat 7 (wordField w 20 14)) (BitVec.ofNat 7 (wordField w 13 7)) (BitVec.ofNat 7 (wordField w 6 0)) (litWord [wordField w 13 7, wordField w 6 0] x)) (litWords [wordField w 13 7, wordField w 6 0])
  | 4 =>
      decodedIf (0) (.bfeS (BitVec.ofNat 7 (wordField w 20 14)) (BitVec.ofNat 7 (wordField w 13 7)) (BitVec.ofNat 7 (wordField w 6 0)) (litWord [wordField w 13 7, wordField w 6 0] x)) (litWords [wordField w 13 7, wordField w 6 0])
  | 5 =>
      if wordField x 31 7 ≠ 0 then .bad .reservedCode else
      decodedIf (0) (.bfi (BitVec.ofNat 7 (wordField w 20 14)) (BitVec.ofNat 7 (wordField w 13 7)) (BitVec.ofNat 7 (wordField w 6 0)) (BitVec.ofNat 7 (wordField x 6 0))) 2
  | _ => .bad .unassignedFn

/-- Major 0x17. -/
noncomputable def decodeMajor17 (w _x : Nat) : Decoded :=
  match wordField w 25 21 with
  | 0 =>
      decodedIf (0) (.iaddi (BitVec.ofNat 7 (wordField w 20 14)) (BitVec.ofNat 7 (wordField w 13 7)) (BitVec.ofNat 7 (wordField w 6 0))) 1
  | 1 =>
      decodedIf (0) (.andi (BitVec.ofNat 7 (wordField w 20 14)) (BitVec.ofNat 7 (wordField w 13 7)) (BitVec.ofNat 7 (wordField w 6 0))) 1
  | 2 =>
      decodedIf (0) (.ori (BitVec.ofNat 7 (wordField w 20 14)) (BitVec.ofNat 7 (wordField w 13 7)) (BitVec.ofNat 7 (wordField w 6 0))) 1
  | 3 =>
      decodedIf (0) (.xori (BitVec.ofNat 7 (wordField w 20 14)) (BitVec.ofNat 7 (wordField w 13 7)) (BitVec.ofNat 7 (wordField w 6 0))) 1
  | 4 =>
      decodedIf (0) (.shli (BitVec.ofNat 7 (wordField w 20 14)) (BitVec.ofNat 7 (wordField w 13 7)) (BitVec.ofNat 7 (wordField w 6 0))) 1
  | 5 =>
      decodedIf (0) (.shri (BitVec.ofNat 7 (wordField w 20 14)) (BitVec.ofNat 7 (wordField w 13 7)) (BitVec.ofNat 7 (wordField w 6 0))) 1
  | 6 =>
      decodedIf (0) (.sari (BitVec.ofNat 7 (wordField w 20 14)) (BitVec.ofNat 7 (wordField w 13 7)) (BitVec.ofNat 7 (wordField w 6 0))) 1
  | _ => .bad .unassignedFn

/-- Major 0x18. -/
noncomputable def decodeMajor18 (w x : Nat) : Decoded :=
  match wordField w 25 21 with
  | 0 =>
      decodedIf (0) (.fadd (BitVec.ofNat 1 (wordField w 25 25)) (BitVec.ofNat 1 (wordField w 24 24)) (BitVec.ofNat 7 (wordField w 20 14)) (BitVec.ofNat 7 (wordField w 13 7)) (BitVec.ofNat 7 (wordField w 6 0)) (litWord [wordField w 13 7, wordField w 6 0] x)) (litWords [wordField w 13 7, wordField w 6 0])
  | 1 =>
      decodedIf (0) (.fsub (BitVec.ofNat 1 (wordField w 25 25)) (BitVec.ofNat 1 (wordField w 24 24)) (BitVec.ofNat 7 (wordField w 20 14)) (BitVec.ofNat 7 (wordField w 13 7)) (BitVec.ofNat 7 (wordField w 6 0)) (litWord [wordField w 13 7, wordField w 6 0] x)) (litWords [wordField w 13 7, wordField w 6 0])
  | 2 =>
      decodedIf (0) (.fmul (BitVec.ofNat 1 (wordField w 25 25)) (BitVec.ofNat 1 (wordField w 24 24)) (BitVec.ofNat 7 (wordField w 20 14)) (BitVec.ofNat 7 (wordField w 13 7)) (BitVec.ofNat 7 (wordField w 6 0)) (litWord [wordField w 13 7, wordField w 6 0] x)) (litWords [wordField w 13 7, wordField w 6 0])
  | 3 =>
      decodedIf (0) (.fmin (BitVec.ofNat 1 (wordField w 25 25)) (BitVec.ofNat 1 (wordField w 24 24)) (BitVec.ofNat 7 (wordField w 20 14)) (BitVec.ofNat 7 (wordField w 13 7)) (BitVec.ofNat 7 (wordField w 6 0)) (litWord [wordField w 13 7, wordField w 6 0] x)) (litWords [wordField w 13 7, wordField w 6 0])
  | 4 =>
      decodedIf (0) (.fmax (BitVec.ofNat 1 (wordField w 25 25)) (BitVec.ofNat 1 (wordField w 24 24)) (BitVec.ofNat 7 (wordField w 20 14)) (BitVec.ofNat 7 (wordField w 13 7)) (BitVec.ofNat 7 (wordField w 6 0)) (litWord [wordField w 13 7, wordField w 6 0] x)) (litWords [wordField w 13 7, wordField w 6 0])
  | 8 =>
      decodedIf (0) (.fadd (BitVec.ofNat 1 (wordField w 25 25)) (BitVec.ofNat 1 (wordField w 24 24)) (BitVec.ofNat 7 (wordField w 20 14)) (BitVec.ofNat 7 (wordField w 13 7)) (BitVec.ofNat 7 (wordField w 6 0)) (litWord [wordField w 13 7, wordField w 6 0] x)) (litWords [wordField w 13 7, wordField w 6 0])
  | 9 =>
      decodedIf (0) (.fsub (BitVec.ofNat 1 (wordField w 25 25)) (BitVec.ofNat 1 (wordField w 24 24)) (BitVec.ofNat 7 (wordField w 20 14)) (BitVec.ofNat 7 (wordField w 13 7)) (BitVec.ofNat 7 (wordField w 6 0)) (litWord [wordField w 13 7, wordField w 6 0] x)) (litWords [wordField w 13 7, wordField w 6 0])
  | 10 =>
      decodedIf (0) (.fmul (BitVec.ofNat 1 (wordField w 25 25)) (BitVec.ofNat 1 (wordField w 24 24)) (BitVec.ofNat 7 (wordField w 20 14)) (BitVec.ofNat 7 (wordField w 13 7)) (BitVec.ofNat 7 (wordField w 6 0)) (litWord [wordField w 13 7, wordField w 6 0] x)) (litWords [wordField w 13 7, wordField w 6 0])
  | 11 =>
      decodedIf (0) (.fmin (BitVec.ofNat 1 (wordField w 25 25)) (BitVec.ofNat 1 (wordField w 24 24)) (BitVec.ofNat 7 (wordField w 20 14)) (BitVec.ofNat 7 (wordField w 13 7)) (BitVec.ofNat 7 (wordField w 6 0)) (litWord [wordField w 13 7, wordField w 6 0] x)) (litWords [wordField w 13 7, wordField w 6 0])
  | 12 =>
      decodedIf (0) (.fmax (BitVec.ofNat 1 (wordField w 25 25)) (BitVec.ofNat 1 (wordField w 24 24)) (BitVec.ofNat 7 (wordField w 20 14)) (BitVec.ofNat 7 (wordField w 13 7)) (BitVec.ofNat 7 (wordField w 6 0)) (litWord [wordField w 13 7, wordField w 6 0] x)) (litWords [wordField w 13 7, wordField w 6 0])
  | 16 =>
      decodedIf (0) (.fadd (BitVec.ofNat 1 (wordField w 25 25)) (BitVec.ofNat 1 (wordField w 24 24)) (BitVec.ofNat 7 (wordField w 20 14)) (BitVec.ofNat 7 (wordField w 13 7)) (BitVec.ofNat 7 (wordField w 6 0)) (litWord [wordField w 13 7, wordField w 6 0] x)) (litWords [wordField w 13 7, wordField w 6 0])
  | 17 =>
      decodedIf (0) (.fsub (BitVec.ofNat 1 (wordField w 25 25)) (BitVec.ofNat 1 (wordField w 24 24)) (BitVec.ofNat 7 (wordField w 20 14)) (BitVec.ofNat 7 (wordField w 13 7)) (BitVec.ofNat 7 (wordField w 6 0)) (litWord [wordField w 13 7, wordField w 6 0] x)) (litWords [wordField w 13 7, wordField w 6 0])
  | 18 =>
      decodedIf (0) (.fmul (BitVec.ofNat 1 (wordField w 25 25)) (BitVec.ofNat 1 (wordField w 24 24)) (BitVec.ofNat 7 (wordField w 20 14)) (BitVec.ofNat 7 (wordField w 13 7)) (BitVec.ofNat 7 (wordField w 6 0)) (litWord [wordField w 13 7, wordField w 6 0] x)) (litWords [wordField w 13 7, wordField w 6 0])
  | 19 =>
      decodedIf (0) (.fmin (BitVec.ofNat 1 (wordField w 25 25)) (BitVec.ofNat 1 (wordField w 24 24)) (BitVec.ofNat 7 (wordField w 20 14)) (BitVec.ofNat 7 (wordField w 13 7)) (BitVec.ofNat 7 (wordField w 6 0)) (litWord [wordField w 13 7, wordField w 6 0] x)) (litWords [wordField w 13 7, wordField w 6 0])
  | 20 =>
      decodedIf (0) (.fmax (BitVec.ofNat 1 (wordField w 25 25)) (BitVec.ofNat 1 (wordField w 24 24)) (BitVec.ofNat 7 (wordField w 20 14)) (BitVec.ofNat 7 (wordField w 13 7)) (BitVec.ofNat 7 (wordField w 6 0)) (litWord [wordField w 13 7, wordField w 6 0] x)) (litWords [wordField w 13 7, wordField w 6 0])
  | 24 =>
      decodedIf (0) (.fadd (BitVec.ofNat 1 (wordField w 25 25)) (BitVec.ofNat 1 (wordField w 24 24)) (BitVec.ofNat 7 (wordField w 20 14)) (BitVec.ofNat 7 (wordField w 13 7)) (BitVec.ofNat 7 (wordField w 6 0)) (litWord [wordField w 13 7, wordField w 6 0] x)) (litWords [wordField w 13 7, wordField w 6 0])
  | 25 =>
      decodedIf (0) (.fsub (BitVec.ofNat 1 (wordField w 25 25)) (BitVec.ofNat 1 (wordField w 24 24)) (BitVec.ofNat 7 (wordField w 20 14)) (BitVec.ofNat 7 (wordField w 13 7)) (BitVec.ofNat 7 (wordField w 6 0)) (litWord [wordField w 13 7, wordField w 6 0] x)) (litWords [wordField w 13 7, wordField w 6 0])
  | 26 =>
      decodedIf (0) (.fmul (BitVec.ofNat 1 (wordField w 25 25)) (BitVec.ofNat 1 (wordField w 24 24)) (BitVec.ofNat 7 (wordField w 20 14)) (BitVec.ofNat 7 (wordField w 13 7)) (BitVec.ofNat 7 (wordField w 6 0)) (litWord [wordField w 13 7, wordField w 6 0] x)) (litWords [wordField w 13 7, wordField w 6 0])
  | 27 =>
      decodedIf (0) (.fmin (BitVec.ofNat 1 (wordField w 25 25)) (BitVec.ofNat 1 (wordField w 24 24)) (BitVec.ofNat 7 (wordField w 20 14)) (BitVec.ofNat 7 (wordField w 13 7)) (BitVec.ofNat 7 (wordField w 6 0)) (litWord [wordField w 13 7, wordField w 6 0] x)) (litWords [wordField w 13 7, wordField w 6 0])
  | 28 =>
      decodedIf (0) (.fmax (BitVec.ofNat 1 (wordField w 25 25)) (BitVec.ofNat 1 (wordField w 24 24)) (BitVec.ofNat 7 (wordField w 20 14)) (BitVec.ofNat 7 (wordField w 13 7)) (BitVec.ofNat 7 (wordField w 6 0)) (litWord [wordField w 13 7, wordField w 6 0] x)) (litWords [wordField w 13 7, wordField w 6 0])
  | _ => .bad .unassignedFn

/-- Major 0x19. -/
noncomputable def decodeMajor19 (w x : Nat) : Decoded :=
  match wordField w 25 21 with
  | 0 =>
      decodedIf (0) (.fmac (BitVec.ofNat 1 (wordField w 25 25)) (BitVec.ofNat 1 (wordField w 24 24)) (BitVec.ofNat 7 (wordField w 20 14)) (BitVec.ofNat 7 (wordField w 13 7)) (BitVec.ofNat 7 (wordField w 6 0)) (litWord [wordField w 13 7, wordField w 6 0] x)) (litWords [wordField w 13 7, wordField w 6 0])
  | 1 =>
      if wordField x 31 7 ≠ 0 then .bad .reservedCode else
      decodedIf (0) (.fma (BitVec.ofNat 1 (wordField w 25 25)) (BitVec.ofNat 1 (wordField w 24 24)) (BitVec.ofNat 7 (wordField w 20 14)) (BitVec.ofNat 7 (wordField w 13 7)) (BitVec.ofNat 7 (wordField w 6 0)) (BitVec.ofNat 7 (wordField x 6 0))) 2
  | 2 =>
      if wordField x 31 7 ≠ 0 then .bad .reservedCode else
      decodedIf (0) (.flerp (BitVec.ofNat 1 (wordField w 25 25)) (BitVec.ofNat 1 (wordField w 24 24)) (BitVec.ofNat 7 (wordField w 20 14)) (BitVec.ofNat 7 (wordField w 13 7)) (BitVec.ofNat 7 (wordField w 6 0)) (BitVec.ofNat 7 (wordField x 6 0))) 2
  | 8 =>
      decodedIf (0) (.fmac (BitVec.ofNat 1 (wordField w 25 25)) (BitVec.ofNat 1 (wordField w 24 24)) (BitVec.ofNat 7 (wordField w 20 14)) (BitVec.ofNat 7 (wordField w 13 7)) (BitVec.ofNat 7 (wordField w 6 0)) (litWord [wordField w 13 7, wordField w 6 0] x)) (litWords [wordField w 13 7, wordField w 6 0])
  | 9 =>
      if wordField x 31 7 ≠ 0 then .bad .reservedCode else
      decodedIf (0) (.fma (BitVec.ofNat 1 (wordField w 25 25)) (BitVec.ofNat 1 (wordField w 24 24)) (BitVec.ofNat 7 (wordField w 20 14)) (BitVec.ofNat 7 (wordField w 13 7)) (BitVec.ofNat 7 (wordField w 6 0)) (BitVec.ofNat 7 (wordField x 6 0))) 2
  | 10 =>
      if wordField x 31 7 ≠ 0 then .bad .reservedCode else
      decodedIf (0) (.flerp (BitVec.ofNat 1 (wordField w 25 25)) (BitVec.ofNat 1 (wordField w 24 24)) (BitVec.ofNat 7 (wordField w 20 14)) (BitVec.ofNat 7 (wordField w 13 7)) (BitVec.ofNat 7 (wordField w 6 0)) (BitVec.ofNat 7 (wordField x 6 0))) 2
  | 16 =>
      decodedIf (0) (.fmac (BitVec.ofNat 1 (wordField w 25 25)) (BitVec.ofNat 1 (wordField w 24 24)) (BitVec.ofNat 7 (wordField w 20 14)) (BitVec.ofNat 7 (wordField w 13 7)) (BitVec.ofNat 7 (wordField w 6 0)) (litWord [wordField w 13 7, wordField w 6 0] x)) (litWords [wordField w 13 7, wordField w 6 0])
  | 17 =>
      if wordField x 31 7 ≠ 0 then .bad .reservedCode else
      decodedIf (0) (.fma (BitVec.ofNat 1 (wordField w 25 25)) (BitVec.ofNat 1 (wordField w 24 24)) (BitVec.ofNat 7 (wordField w 20 14)) (BitVec.ofNat 7 (wordField w 13 7)) (BitVec.ofNat 7 (wordField w 6 0)) (BitVec.ofNat 7 (wordField x 6 0))) 2
  | 18 =>
      if wordField x 31 7 ≠ 0 then .bad .reservedCode else
      decodedIf (0) (.flerp (BitVec.ofNat 1 (wordField w 25 25)) (BitVec.ofNat 1 (wordField w 24 24)) (BitVec.ofNat 7 (wordField w 20 14)) (BitVec.ofNat 7 (wordField w 13 7)) (BitVec.ofNat 7 (wordField w 6 0)) (BitVec.ofNat 7 (wordField x 6 0))) 2
  | 24 =>
      decodedIf (0) (.fmac (BitVec.ofNat 1 (wordField w 25 25)) (BitVec.ofNat 1 (wordField w 24 24)) (BitVec.ofNat 7 (wordField w 20 14)) (BitVec.ofNat 7 (wordField w 13 7)) (BitVec.ofNat 7 (wordField w 6 0)) (litWord [wordField w 13 7, wordField w 6 0] x)) (litWords [wordField w 13 7, wordField w 6 0])
  | 25 =>
      if wordField x 31 7 ≠ 0 then .bad .reservedCode else
      decodedIf (0) (.fma (BitVec.ofNat 1 (wordField w 25 25)) (BitVec.ofNat 1 (wordField w 24 24)) (BitVec.ofNat 7 (wordField w 20 14)) (BitVec.ofNat 7 (wordField w 13 7)) (BitVec.ofNat 7 (wordField w 6 0)) (BitVec.ofNat 7 (wordField x 6 0))) 2
  | 26 =>
      if wordField x 31 7 ≠ 0 then .bad .reservedCode else
      decodedIf (0) (.flerp (BitVec.ofNat 1 (wordField w 25 25)) (BitVec.ofNat 1 (wordField w 24 24)) (BitVec.ofNat 7 (wordField w 20 14)) (BitVec.ofNat 7 (wordField w 13 7)) (BitVec.ofNat 7 (wordField w 6 0)) (BitVec.ofNat 7 (wordField x 6 0))) 2
  | _ => .bad .unassignedFn

/-- Major 0x1A. -/
noncomputable def decodeMajor1A (w x : Nat) : Decoded :=
  match wordField w 25 21 with
  | 0 | 1 | 2 | 3 | 4 | 5 | 6 | 7 =>
      decodedIf (wordField w 20 17) (.fcmp (BitVec.ofNat 3 (wordField w 23 21)) (BitVec.ofNat 3 (wordField w 16 14)) (BitVec.ofNat 7 (wordField w 13 7)) (BitVec.ofNat 7 (wordField w 6 0)) (litWord [wordField w 13 7, wordField w 6 0] x)) (litWords [wordField w 13 7, wordField w 6 0])
  | 8 =>
      decodedIf (wordField w 6 0) (.fclass (BitVec.ofNat 7 (wordField w 20 14)) (BitVec.ofNat 7 (wordField w 13 7)) (litWord [wordField w 13 7] x)) (litWords [wordField w 13 7])
  | _ => .bad .unassignedFn

/-- Major 0x1B. -/
noncomputable def decodeMajor1B (w x : Nat) : Decoded :=
  match wordField w 25 21 with
  | 0 =>
      decodedIf (wordField w 6 0) (.frcp (BitVec.ofNat 1 (wordField w 24 24)) (BitVec.ofNat 7 (wordField w 20 14)) (BitVec.ofNat 7 (wordField w 13 7)) (litWord [wordField w 13 7] x)) (litWords [wordField w 13 7])
  | 1 =>
      decodedIf (wordField w 6 0) (.frsq (BitVec.ofNat 1 (wordField w 24 24)) (BitVec.ofNat 7 (wordField w 20 14)) (BitVec.ofNat 7 (wordField w 13 7)) (litWord [wordField w 13 7] x)) (litWords [wordField w 13 7])
  | 2 =>
      decodedIf (wordField w 6 0) (.fsqrt (BitVec.ofNat 1 (wordField w 24 24)) (BitVec.ofNat 7 (wordField w 20 14)) (BitVec.ofNat 7 (wordField w 13 7)) (litWord [wordField w 13 7] x)) (litWords [wordField w 13 7])
  | 3 =>
      decodedIf (wordField w 6 0) (.fexp2 (BitVec.ofNat 1 (wordField w 24 24)) (BitVec.ofNat 7 (wordField w 20 14)) (BitVec.ofNat 7 (wordField w 13 7)) (litWord [wordField w 13 7] x)) (litWords [wordField w 13 7])
  | 4 =>
      decodedIf (wordField w 6 0) (.flog2 (BitVec.ofNat 1 (wordField w 24 24)) (BitVec.ofNat 7 (wordField w 20 14)) (BitVec.ofNat 7 (wordField w 13 7)) (litWord [wordField w 13 7] x)) (litWords [wordField w 13 7])
  | 5 =>
      decodedIf (wordField w 6 0) (.fsin (BitVec.ofNat 1 (wordField w 24 24)) (BitVec.ofNat 7 (wordField w 20 14)) (BitVec.ofNat 7 (wordField w 13 7)) (litWord [wordField w 13 7] x)) (litWords [wordField w 13 7])
  | 6 =>
      decodedIf (wordField w 6 0) (.fcos (BitVec.ofNat 1 (wordField w 24 24)) (BitVec.ofNat 7 (wordField w 20 14)) (BitVec.ofNat 7 (wordField w 13 7)) (litWord [wordField w 13 7] x)) (litWords [wordField w 13 7])
  | 7 =>
      decodedIf (wordField w 6 0) (.ftanh (BitVec.ofNat 1 (wordField w 24 24)) (BitVec.ofNat 7 (wordField w 20 14)) (BitVec.ofNat 7 (wordField w 13 7)) (litWord [wordField w 13 7] x)) (litWords [wordField w 13 7])
  | 8 =>
      decodedIf (wordField w 6 0) (.frcp (BitVec.ofNat 1 (wordField w 24 24)) (BitVec.ofNat 7 (wordField w 20 14)) (BitVec.ofNat 7 (wordField w 13 7)) (litWord [wordField w 13 7] x)) (litWords [wordField w 13 7])
  | 9 =>
      decodedIf (wordField w 6 0) (.frsq (BitVec.ofNat 1 (wordField w 24 24)) (BitVec.ofNat 7 (wordField w 20 14)) (BitVec.ofNat 7 (wordField w 13 7)) (litWord [wordField w 13 7] x)) (litWords [wordField w 13 7])
  | 10 =>
      decodedIf (wordField w 6 0) (.fsqrt (BitVec.ofNat 1 (wordField w 24 24)) (BitVec.ofNat 7 (wordField w 20 14)) (BitVec.ofNat 7 (wordField w 13 7)) (litWord [wordField w 13 7] x)) (litWords [wordField w 13 7])
  | 11 =>
      decodedIf (wordField w 6 0) (.fexp2 (BitVec.ofNat 1 (wordField w 24 24)) (BitVec.ofNat 7 (wordField w 20 14)) (BitVec.ofNat 7 (wordField w 13 7)) (litWord [wordField w 13 7] x)) (litWords [wordField w 13 7])
  | 12 =>
      decodedIf (wordField w 6 0) (.flog2 (BitVec.ofNat 1 (wordField w 24 24)) (BitVec.ofNat 7 (wordField w 20 14)) (BitVec.ofNat 7 (wordField w 13 7)) (litWord [wordField w 13 7] x)) (litWords [wordField w 13 7])
  | 13 =>
      decodedIf (wordField w 6 0) (.fsin (BitVec.ofNat 1 (wordField w 24 24)) (BitVec.ofNat 7 (wordField w 20 14)) (BitVec.ofNat 7 (wordField w 13 7)) (litWord [wordField w 13 7] x)) (litWords [wordField w 13 7])
  | 14 =>
      decodedIf (wordField w 6 0) (.fcos (BitVec.ofNat 1 (wordField w 24 24)) (BitVec.ofNat 7 (wordField w 20 14)) (BitVec.ofNat 7 (wordField w 13 7)) (litWord [wordField w 13 7] x)) (litWords [wordField w 13 7])
  | 15 =>
      decodedIf (wordField w 6 0) (.ftanh (BitVec.ofNat 1 (wordField w 24 24)) (BitVec.ofNat 7 (wordField w 20 14)) (BitVec.ofNat 7 (wordField w 13 7)) (litWord [wordField w 13 7] x)) (litWords [wordField w 13 7])
  | _ => .bad .unassignedFn

/-- Major 0x1C. -/
noncomputable def decodeMajor1C (w x : Nat) : Decoded :=
  match wordField w 25 21 with
  | 0 =>
      if wordField x 7 0 + wordField x 31 15 ≠ 0 then .bad .reservedCode else
      decodedIf (0) (.cvt (BitVec.ofNat 7 (wordField w 20 14)) (BitVec.ofNat 7 (wordField w 13 7)) (BitVec.ofNat 3 (wordField w 6 4)) (BitVec.ofNat 4 (wordField w 3 0)) (BitVec.ofNat 1 (wordField x 14 14)) (BitVec.ofNat 2 (wordField x 13 12)) (BitVec.ofNat 4 (wordField x 11 8))) 2
  | 1 =>
      decodedIf (wordField w 6 4) (.frnd (BitVec.ofNat 7 (wordField w 20 14)) (BitVec.ofNat 7 (wordField w 13 7)) (BitVec.ofNat 1 (wordField w 3 3)) (BitVec.ofNat 3 (wordField w 2 0)) (litWord [wordField w 13 7] x)) (litWords [wordField w 13 7])
  | _ => .bad .unassignedFn

/-- Major 0x1D. -/
noncomputable def decodeMajor1D (w x : Nat) : Decoded :=
  match wordField w 25 21 with
  | 0 =>
      if wordField x 7 0 + wordField x 31 15 ≠ 0 then .bad .reservedCode else
      decodedIf (0) (.cvtPk2 (BitVec.ofNat 7 (wordField w 20 14)) (BitVec.ofNat 7 (wordField w 13 7)) (BitVec.ofNat 7 (wordField w 6 0)) (BitVec.ofNat 1 (wordField x 14 14)) (BitVec.ofNat 2 (wordField x 13 12)) (BitVec.ofNat 4 (wordField x 11 8))) 2
  | 2 | 3 =>
      if wordField x 7 0 + wordField x 31 15 ≠ 0 then .bad .reservedCode else
      decodedIf (0) (.cvtPk4 (BitVec.ofNat 1 (wordField w 21 21)) (BitVec.ofNat 7 (wordField w 20 14)) (BitVec.ofNat 7 (wordField w 13 7)) (BitVec.ofNat 7 (wordField w 6 0)) (BitVec.ofNat 1 (wordField x 14 14)) (BitVec.ofNat 2 (wordField x 13 12)) (BitVec.ofNat 4 (wordField x 11 8))) 2
  | 4 | 5 | 6 | 7 =>
      if wordField x 7 0 + wordField x 31 15 ≠ 0 then .bad .reservedCode else
      decodedIf (0) (.cvtPk8 (BitVec.ofNat 2 (wordField w 22 21)) (BitVec.ofNat 7 (wordField w 20 14)) (BitVec.ofNat 7 (wordField w 13 7)) (BitVec.ofNat 7 (wordField w 6 0)) (BitVec.ofNat 1 (wordField x 14 14)) (BitVec.ofNat 2 (wordField x 13 12)) (BitVec.ofNat 4 (wordField x 11 8))) 2
  | 8 | 9 =>
      if wordField x 7 0 + wordField x 31 14 ≠ 0 then .bad .reservedCode else
      decodedIf (0) (.cvtUnpk2 (BitVec.ofNat 1 (wordField w 21 21)) (BitVec.ofNat 7 (wordField w 20 14)) (BitVec.ofNat 7 (wordField w 13 7)) (BitVec.ofNat 7 (wordField w 6 0)) (BitVec.ofNat 2 (wordField x 13 12)) (BitVec.ofNat 4 (wordField x 11 8))) 2
  | 12 | 13 | 14 | 15 =>
      if wordField x 7 0 + wordField x 31 14 ≠ 0 then .bad .reservedCode else
      decodedIf (0) (.cvtUnpk4 (BitVec.ofNat 2 (wordField w 22 21)) (BitVec.ofNat 7 (wordField w 20 14)) (BitVec.ofNat 7 (wordField w 13 7)) (BitVec.ofNat 7 (wordField w 6 0)) (BitVec.ofNat 2 (wordField x 13 12)) (BitVec.ofNat 4 (wordField x 11 8))) 2
  | 16 | 17 | 18 | 19 | 20 | 21 | 22 | 23 =>
      if wordField x 7 0 + wordField x 31 14 ≠ 0 then .bad .reservedCode else
      decodedIf (0) (.cvtUnpk8 (BitVec.ofNat 3 (wordField w 23 21)) (BitVec.ofNat 7 (wordField w 20 14)) (BitVec.ofNat 7 (wordField w 13 7)) (BitVec.ofNat 7 (wordField w 6 0)) (BitVec.ofNat 2 (wordField x 13 12)) (BitVec.ofNat 4 (wordField x 11 8))) 2
  | 24 =>
      if wordField x 7 0 + wordField x 31 16 ≠ 0 then .bad .reservedCode else
      decodedIf (0) (.quantBlk (BitVec.ofNat 7 (wordField w 20 14)) (BitVec.ofNat 7 (wordField w 13 7)) (BitVec.ofNat 7 (wordField w 6 0)) (BitVec.ofNat 1 (wordField x 15 15)) (BitVec.ofNat 1 (wordField x 14 14)) (BitVec.ofNat 2 (wordField x 13 12)) (BitVec.ofNat 4 (wordField x 11 8))) 2
  | 25 =>
      if wordField x 7 0 + wordField x 31 11 ≠ 0 then .bad .reservedCode else
      decodedIf (0) (.cbkDec (BitVec.ofNat 7 (wordField w 20 14)) (BitVec.ofNat 7 (wordField w 13 7)) (BitVec.ofNat 7 (wordField w 6 0)) (BitVec.ofNat 1 (wordField x 10 10)) (BitVec.ofNat 2 (wordField x 9 8))) 2
  | _ => .bad .unassignedFn

/-- Major 0x1E. -/
noncomputable def decodeMajor1E (w x : Nat) : Decoded :=
  match wordField w 25 21 with
  | 0 =>
      decodedIf (wordField w 6 0) (.mov (BitVec.ofNat 7 (wordField w 20 14)) (BitVec.ofNat 7 (wordField w 13 7)) (litWord [wordField w 13 7] x)) (litWords [wordField w 13 7])
  | 1 =>
      if wordField x 7 0 + wordField x 31 11 ≠ 0 then .bad .reservedCode else
      decodedIf (0) (.sel (BitVec.ofNat 7 (wordField w 20 14)) (BitVec.ofNat 7 (wordField w 13 7)) (BitVec.ofNat 7 (wordField w 6 0)) (BitVec.ofNat 3 (wordField x 10 8))) 2
  | 2 =>
      decodedIf (wordField w 6 5) (.bcast (BitVec.ofNat 7 (wordField w 20 14)) (BitVec.ofNat 7 (wordField w 13 7)) (BitVec.ofNat 5 (wordField w 4 0))) 1
  | 3 =>
      decodedIf (wordField w 6 0) (.bcastFirst (BitVec.ofNat 7 (wordField w 20 14)) (BitVec.ofNat 7 (wordField w 13 7))) 1
  | _ => .bad .unassignedFn

/-- Major 0x1F. -/
noncomputable def decodeMajor1F (w x : Nat) : Decoded :=
  match wordField w 25 21 with
  | 0 =>
      decodedIf (wordField w 6 0 + wordField w 20 17) (.ballot (BitVec.ofNat 3 (wordField w 16 14)) (BitVec.ofNat 7 (wordField w 13 7))) 1
  | 1 =>
      decodedIf (0) (.shflIdx (BitVec.ofNat 7 (wordField w 20 14)) (BitVec.ofNat 7 (wordField w 13 7)) (BitVec.ofNat 7 (wordField w 6 0)) (litWord [wordField w 13 7, wordField w 6 0] x)) (litWords [wordField w 13 7, wordField w 6 0])
  | 2 =>
      decodedIf (wordField w 6 5) (.shflUp (BitVec.ofNat 7 (wordField w 20 14)) (BitVec.ofNat 7 (wordField w 13 7)) (BitVec.ofNat 5 (wordField w 4 0))) 1
  | 3 =>
      decodedIf (wordField w 6 5) (.shflDn (BitVec.ofNat 7 (wordField w 20 14)) (BitVec.ofNat 7 (wordField w 13 7)) (BitVec.ofNat 5 (wordField w 4 0))) 1
  | 4 =>
      decodedIf (wordField w 6 5) (.shflXor (BitVec.ofNat 7 (wordField w 20 14)) (BitVec.ofNat 7 (wordField w 13 7)) (BitVec.ofNat 5 (wordField w 4 0))) 1
  | 5 =>
      decodedIf (wordField w 6 0) (.redAdd (BitVec.ofNat 7 (wordField w 20 14)) (BitVec.ofNat 7 (wordField w 13 7)) (litWord [wordField w 13 7] x)) (litWords [wordField w 13 7])
  | 6 =>
      decodedIf (wordField w 6 0) (.redAddF32 (BitVec.ofNat 7 (wordField w 20 14)) (BitVec.ofNat 7 (wordField w 13 7)) (litWord [wordField w 13 7] x)) (litWords [wordField w 13 7])
  | 7 =>
      decodedIf (wordField w 6 0) (.redMin (BitVec.ofNat 7 (wordField w 20 14)) (BitVec.ofNat 7 (wordField w 13 7)) (litWord [wordField w 13 7] x)) (litWords [wordField w 13 7])
  | 8 =>
      decodedIf (wordField w 6 0) (.redMinU (BitVec.ofNat 7 (wordField w 20 14)) (BitVec.ofNat 7 (wordField w 13 7)) (litWord [wordField w 13 7] x)) (litWords [wordField w 13 7])
  | 9 =>
      decodedIf (wordField w 6 0) (.redMinF32 (BitVec.ofNat 7 (wordField w 20 14)) (BitVec.ofNat 7 (wordField w 13 7)) (litWord [wordField w 13 7] x)) (litWords [wordField w 13 7])
  | 10 =>
      decodedIf (wordField w 6 0) (.redMax (BitVec.ofNat 7 (wordField w 20 14)) (BitVec.ofNat 7 (wordField w 13 7)) (litWord [wordField w 13 7] x)) (litWords [wordField w 13 7])
  | 11 =>
      decodedIf (wordField w 6 0) (.redMaxU (BitVec.ofNat 7 (wordField w 20 14)) (BitVec.ofNat 7 (wordField w 13 7)) (litWord [wordField w 13 7] x)) (litWords [wordField w 13 7])
  | 12 =>
      decodedIf (wordField w 6 0) (.redMaxF32 (BitVec.ofNat 7 (wordField w 20 14)) (BitVec.ofNat 7 (wordField w 13 7)) (litWord [wordField w 13 7] x)) (litWords [wordField w 13 7])
  | 13 =>
      decodedIf (wordField w 6 0) (.scanAdd (BitVec.ofNat 7 (wordField w 20 14)) (BitVec.ofNat 7 (wordField w 13 7)) (litWord [wordField w 13 7] x)) (litWords [wordField w 13 7])
  | 14 =>
      decodedIf (wordField w 6 0) (.scanAddEx (BitVec.ofNat 7 (wordField w 20 14)) (BitVec.ofNat 7 (wordField w 13 7)) (litWord [wordField w 13 7] x)) (litWords [wordField w 13 7])
  | 15 =>
      decodedIf (wordField w 6 0) (.scanAddF32 (BitVec.ofNat 7 (wordField w 20 14)) (BitVec.ofNat 7 (wordField w 13 7)) (litWord [wordField w 13 7] x)) (litWords [wordField w 13 7])
  | _ => .bad .unassignedFn

/-- Major 0x20. -/
noncomputable def decodeMajor20 (w _x : Nat) : Decoded :=
  match wordField w 25 24 with
  | 0 =>
      decodedIf (0) (.sadd (BitVec.ofNat 8 (wordField w 23 16)) (BitVec.ofNat 8 (wordField w 15 8)) (BitVec.ofNat 8 (wordField w 7 0))) 1
  | 1 =>
      decodedIf (0) (.ssub (BitVec.ofNat 8 (wordField w 23 16)) (BitVec.ofNat 8 (wordField w 15 8)) (BitVec.ofNat 8 (wordField w 7 0))) 1
  | 2 =>
      decodedIf (0) (.smul (BitVec.ofNat 8 (wordField w 23 16)) (BitVec.ofNat 8 (wordField w 15 8)) (BitVec.ofNat 8 (wordField w 7 0))) 1
  | 3 =>
      decodedIf (0) (.smulh (BitVec.ofNat 8 (wordField w 23 16)) (BitVec.ofNat 8 (wordField w 15 8)) (BitVec.ofNat 8 (wordField w 7 0))) 1
  | _ => .bad .unassignedFn

/-- Major 0x21. -/
noncomputable def decodeMajor21 (w _x : Nat) : Decoded :=
  match wordField w 25 24 with
  | 0 =>
      decodedIf (0) (.sand (BitVec.ofNat 8 (wordField w 23 16)) (BitVec.ofNat 8 (wordField w 15 8)) (BitVec.ofNat 8 (wordField w 7 0))) 1
  | 1 =>
      decodedIf (0) (.sor (BitVec.ofNat 8 (wordField w 23 16)) (BitVec.ofNat 8 (wordField w 15 8)) (BitVec.ofNat 8 (wordField w 7 0))) 1
  | 2 =>
      decodedIf (0) (.sxor (BitVec.ofNat 8 (wordField w 23 16)) (BitVec.ofNat 8 (wordField w 15 8)) (BitVec.ofNat 8 (wordField w 7 0))) 1
  | 3 =>
      decodedIf (0) (.sandn (BitVec.ofNat 8 (wordField w 23 16)) (BitVec.ofNat 8 (wordField w 15 8)) (BitVec.ofNat 8 (wordField w 7 0))) 1
  | _ => .bad .unassignedFn

/-- Major 0x22. -/
noncomputable def decodeMajor22 (w _x : Nat) : Decoded :=
  match wordField w 25 24 with
  | 0 =>
      decodedIf (0) (.sshl (BitVec.ofNat 8 (wordField w 23 16)) (BitVec.ofNat 8 (wordField w 15 8)) (BitVec.ofNat 8 (wordField w 7 0))) 1
  | 1 =>
      decodedIf (0) (.sshr (BitVec.ofNat 8 (wordField w 23 16)) (BitVec.ofNat 8 (wordField w 15 8)) (BitVec.ofNat 8 (wordField w 7 0))) 1
  | 2 =>
      decodedIf (0) (.ssar (BitVec.ofNat 8 (wordField w 23 16)) (BitVec.ofNat 8 (wordField w 15 8)) (BitVec.ofNat 8 (wordField w 7 0))) 1
  | 3 =>
      decodedIf (0) (.srotl (BitVec.ofNat 8 (wordField w 23 16)) (BitVec.ofNat 8 (wordField w 15 8)) (BitVec.ofNat 8 (wordField w 7 0))) 1
  | _ => .bad .unassignedFn

/-- Major 0x23. -/
noncomputable def decodeMajor23 (w _x : Nat) : Decoded :=
  match wordField w 25 24 with
  | 0 =>
      decodedIf (0) (.scmpEq (BitVec.ofNat 8 (wordField w 23 16)) (BitVec.ofNat 8 (wordField w 15 8)) (BitVec.ofNat 8 (wordField w 7 0))) 1
  | 1 =>
      decodedIf (0) (.scmpLt (BitVec.ofNat 8 (wordField w 23 16)) (BitVec.ofNat 8 (wordField w 15 8)) (BitVec.ofNat 8 (wordField w 7 0))) 1
  | 2 =>
      decodedIf (0) (.scmpLtu (BitVec.ofNat 8 (wordField w 23 16)) (BitVec.ofNat 8 (wordField w 15 8)) (BitVec.ofNat 8 (wordField w 7 0))) 1
  | 3 =>
      decodedIf (0) (.scmpLe (BitVec.ofNat 8 (wordField w 23 16)) (BitVec.ofNat 8 (wordField w 15 8)) (BitVec.ofNat 8 (wordField w 7 0))) 1
  | _ => .bad .unassignedFn

/-- Major 0x24. -/
noncomputable def decodeMajor24 (w _x : Nat) : Decoded :=
  match wordField w 25 24 with
  | 0 =>
      decodedIf (0) (.smovi (BitVec.ofNat 8 (wordField w 23 16)) (BitVec.ofNat 16 (wordField w 15 0))) 1
  | 1 =>
      decodedIf (0) (.smovhi (BitVec.ofNat 8 (wordField w 23 16)) (BitVec.ofNat 16 (wordField w 15 0))) 1
  | 2 =>
      decodedIf (0) (.saddi (BitVec.ofNat 8 (wordField w 23 16)) (BitVec.ofNat 16 (wordField w 15 0))) 1
  | 3 =>
      decodedIf (0) (.scmpi (BitVec.ofNat 8 (wordField w 23 16)) (BitVec.ofNat 8 (wordField w 15 8)) (BitVec.ofNat 2 (wordField w 7 6)) (BitVec.ofNat 6 (wordField w 5 0))) 1
  | _ => .bad .unassignedFn

/-- Major 0x25. -/
noncomputable def decodeMajor25 (w _x : Nat) : Decoded :=
  match wordField w 25 24 with
  | 0 =>
      decodedIf (0) (.sadd64 (BitVec.ofNat 8 (wordField w 23 16)) (BitVec.ofNat 8 (wordField w 15 8)) (BitVec.ofNat 8 (wordField w 7 0))) 1
  | 1 =>
      decodedIf (0) (.ssub64 (BitVec.ofNat 8 (wordField w 23 16)) (BitVec.ofNat 8 (wordField w 15 8)) (BitVec.ofNat 8 (wordField w 7 0))) 1
  | 2 =>
      decodedIf (0) (.smul64 (BitVec.ofNat 8 (wordField w 23 16)) (BitVec.ofNat 8 (wordField w 15 8)) (BitVec.ofNat 8 (wordField w 7 0))) 1
  | 3 =>
      decodedIf (0) (.sshl64 (BitVec.ofNat 8 (wordField w 23 16)) (BitVec.ofNat 8 (wordField w 15 8)) (BitVec.ofNat 8 (wordField w 7 0))) 1
  | _ => .bad .unassignedFn

/-- Major 0x26. -/
noncomputable def decodeMajor26 (w _x : Nat) : Decoded :=
  match wordField w 25 24 with
  | 0 =>
      decodedIf (0) (.smin (BitVec.ofNat 8 (wordField w 23 16)) (BitVec.ofNat 8 (wordField w 15 8)) (BitVec.ofNat 8 (wordField w 7 0))) 1
  | 1 =>
      decodedIf (0) (.smax (BitVec.ofNat 8 (wordField w 23 16)) (BitVec.ofNat 8 (wordField w 15 8)) (BitVec.ofNat 8 (wordField w 7 0))) 1
  | 2 =>
      decodedIf (wordField w 7 0) (.spopc (BitVec.ofNat 8 (wordField w 23 16)) (BitVec.ofNat 8 (wordField w 15 8))) 1
  | 3 =>
      decodedIf (wordField w 7 0) (.sclz (BitVec.ofNat 8 (wordField w 23 16)) (BitVec.ofNat 8 (wordField w 15 8))) 1
  | _ => .bad .unassignedFn

/-- Major 0x27. -/
noncomputable def decodeMajor27 (w _x : Nat) : Decoded :=
  match wordField w 25 24 with
  | 0 =>
      decodedIf (0) (.vget (BitVec.ofNat 8 (wordField w 23 16)) (BitVec.ofNat 8 (wordField w 15 8)) (BitVec.ofNat 8 (wordField w 7 0))) 1
  | 1 =>
      decodedIf (0) (.vset (BitVec.ofNat 8 (wordField w 23 16)) (BitVec.ofNat 8 (wordField w 15 8)) (BitVec.ofNat 8 (wordField w 7 0))) 1
  | 2 =>
      decodedIf (wordField w 7 0 + wordField w 15 11) (.ktos (BitVec.ofNat 8 (wordField w 23 16)) (BitVec.ofNat 3 (wordField w 10 8))) 1
  | 3 =>
      decodedIf (wordField w 7 0 + wordField w 23 19) (.stok (BitVec.ofNat 3 (wordField w 18 16)) (BitVec.ofNat 8 (wordField w 15 8))) 1
  | _ => .bad .unassignedFn

/-- Major 0x28. -/
noncomputable def decodeMajor28 (w _x : Nat) : Decoded :=
  match wordField w 25 21 with
  | 0 =>
      decodedIf (wordField w 6 3 + wordField w 13 10 + wordField w 20 17) (.kand (BitVec.ofNat 3 (wordField w 16 14)) (BitVec.ofNat 3 (wordField w 9 7)) (BitVec.ofNat 3 (wordField w 2 0))) 1
  | 1 =>
      decodedIf (wordField w 6 3 + wordField w 13 10 + wordField w 20 17) (.kor (BitVec.ofNat 3 (wordField w 16 14)) (BitVec.ofNat 3 (wordField w 9 7)) (BitVec.ofNat 3 (wordField w 2 0))) 1
  | 2 =>
      decodedIf (wordField w 6 3 + wordField w 13 10 + wordField w 20 17) (.kxor (BitVec.ofNat 3 (wordField w 16 14)) (BitVec.ofNat 3 (wordField w 9 7)) (BitVec.ofNat 3 (wordField w 2 0))) 1
  | 3 =>
      decodedIf (wordField w 6 0 + wordField w 13 10 + wordField w 20 17) (.knot (BitVec.ofNat 3 (wordField w 16 14)) (BitVec.ofNat 3 (wordField w 9 7))) 1
  | 4 =>
      decodedIf (wordField w 6 0 + wordField w 13 10 + wordField w 20 17) (.kmov (BitVec.ofNat 3 (wordField w 16 14)) (BitVec.ofNat 3 (wordField w 9 7))) 1
  | _ => .bad .unassignedFn

/-- Major 0x29. -/
noncomputable def decodeMajor29 (w x : Nat) : Decoded :=
  match wordField w 25 21 with
  | 0 =>
      decodedIf (wordField w 6 0) (.ddx (BitVec.ofNat 7 (wordField w 20 14)) (BitVec.ofNat 7 (wordField w 13 7)) (litWord [wordField w 13 7] x)) (litWords [wordField w 13 7])
  | 1 =>
      decodedIf (wordField w 6 0) (.ddxCoarse (BitVec.ofNat 7 (wordField w 20 14)) (BitVec.ofNat 7 (wordField w 13 7)) (litWord [wordField w 13 7] x)) (litWords [wordField w 13 7])
  | 2 =>
      decodedIf (wordField w 6 0) (.ddy (BitVec.ofNat 7 (wordField w 20 14)) (BitVec.ofNat 7 (wordField w 13 7)) (litWord [wordField w 13 7] x)) (litWords [wordField w 13 7])
  | 3 =>
      decodedIf (wordField w 6 0) (.ddyCoarse (BitVec.ofNat 7 (wordField w 20 14)) (BitVec.ofNat 7 (wordField w 13 7)) (litWord [wordField w 13 7] x)) (litWords [wordField w 13 7])
  | 4 =>
      decodedIf (wordField w 6 2) (.qswap (BitVec.ofNat 7 (wordField w 20 14)) (BitVec.ofNat 7 (wordField w 13 7)) (BitVec.ofNat 2 (wordField w 1 0))) 1
  | _ => .bad .unassignedFn

/-- Major 0x2A. -/
noncomputable def decodeMajor2A (w _x : Nat) : Decoded :=
  match wordField w 25 21 with
  | 0 =>
      decodedIf (wordField w 12 1) (.tlbInv (BitVec.ofNat 8 (wordField w 20 13)) (BitVec.ofNat 1 (wordField w 0 0))) 1
  | 1 =>
      decodedIf (wordField w 12 5) (.ixuLoad (BitVec.ofNat 8 (wordField w 20 13)) (BitVec.ofNat 5 (wordField w 4 0))) 1
  | 2 =>
      decodedIf (wordField w 20 0) .ccFlush 1
  | 3 =>
      decodedIf (wordField w 20 0) .ccInval 1
  | 4 =>
      decodedIf (wordField w 12 0) (.bndSet (BitVec.ofNat 8 (wordField w 20 13))) 1
  | _ => .bad .unassignedFn

/-- Major 0x30. -/
noncomputable def decodeMajor30 (w x : Nat) : Decoded :=
  match wordField w 25 23 with
  | 0 =>
      decodedIf (0) (.ldcU8 (BitVec.ofNat 7 (wordField w 22 16)) (BitVec.ofNat 7 (wordField w 15 9)) (BitVec.ofNat 1 (wordField w 8 8)) (BitVec.ofNat 8 (wordField w 7 0)) (litWord [wordField w 15 9] x)) (litWords [wordField w 15 9])
  | 1 =>
      decodedIf (0) (.ldcS8 (BitVec.ofNat 7 (wordField w 22 16)) (BitVec.ofNat 7 (wordField w 15 9)) (BitVec.ofNat 1 (wordField w 8 8)) (BitVec.ofNat 8 (wordField w 7 0)) (litWord [wordField w 15 9] x)) (litWords [wordField w 15 9])
  | 2 =>
      decodedIf (0) (.ldcU16 (BitVec.ofNat 7 (wordField w 22 16)) (BitVec.ofNat 7 (wordField w 15 9)) (BitVec.ofNat 1 (wordField w 8 8)) (BitVec.ofNat 8 (wordField w 7 0)) (litWord [wordField w 15 9] x)) (litWords [wordField w 15 9])
  | 3 =>
      decodedIf (0) (.ldcS16 (BitVec.ofNat 7 (wordField w 22 16)) (BitVec.ofNat 7 (wordField w 15 9)) (BitVec.ofNat 1 (wordField w 8 8)) (BitVec.ofNat 8 (wordField w 7 0)) (litWord [wordField w 15 9] x)) (litWords [wordField w 15 9])
  | 4 =>
      decodedIf (0) (.ldc (BitVec.ofNat 7 (wordField w 22 16)) (BitVec.ofNat 7 (wordField w 15 9)) (BitVec.ofNat 1 (wordField w 8 8)) (BitVec.ofNat 8 (wordField w 7 0)) (litWord [wordField w 15 9] x)) (litWords [wordField w 15 9])
  | 5 =>
      decodedIf (0) (.ldc64 (BitVec.ofNat 7 (wordField w 22 16)) (BitVec.ofNat 7 (wordField w 15 9)) (BitVec.ofNat 1 (wordField w 8 8)) (BitVec.ofNat 8 (wordField w 7 0)) (litWord [wordField w 15 9] x)) (litWords [wordField w 15 9])
  | 6 =>
      decodedIf (0) (.ldcBc (BitVec.ofNat 7 (wordField w 22 16)) (BitVec.ofNat 7 (wordField w 15 9)) (BitVec.ofNat 1 (wordField w 8 8)) (BitVec.ofNat 8 (wordField w 7 0)) (litWord [wordField w 15 9] x)) (litWords [wordField w 15 9])
  | 7 =>
      if wordField x 7 0 + wordField x 31 16 ≠ 0 then .bad .reservedCode else
      decodedIf (0) (.ldcOrdered (BitVec.ofNat 7 (wordField w 22 16)) (BitVec.ofNat 7 (wordField w 15 9)) (BitVec.ofNat 1 (wordField w 8 8)) (BitVec.ofNat 8 (wordField w 7 0)) (BitVec.ofNat 3 (wordField x 15 13)) (BitVec.ofNat 2 (wordField x 12 11)) (BitVec.ofNat 3 (wordField x 10 8))) 2
  | _ => .bad .unassignedFn

/-- Major 0x31. -/
noncomputable def decodeMajor31 (w x : Nat) : Decoded :=
  match wordField w 25 23 with
  | 0 =>
      decodedIf (0) (.stc8 (BitVec.ofNat 7 (wordField w 22 16)) (BitVec.ofNat 7 (wordField w 15 9)) (BitVec.ofNat 1 (wordField w 8 8)) (BitVec.ofNat 8 (wordField w 7 0)) (litWord [wordField w 22 16, wordField w 15 9] x)) (litWords [wordField w 22 16, wordField w 15 9])
  | 1 =>
      decodedIf (0) (.stc16 (BitVec.ofNat 7 (wordField w 22 16)) (BitVec.ofNat 7 (wordField w 15 9)) (BitVec.ofNat 1 (wordField w 8 8)) (BitVec.ofNat 8 (wordField w 7 0)) (litWord [wordField w 22 16, wordField w 15 9] x)) (litWords [wordField w 22 16, wordField w 15 9])
  | 2 =>
      decodedIf (0) (.stc (BitVec.ofNat 7 (wordField w 22 16)) (BitVec.ofNat 7 (wordField w 15 9)) (BitVec.ofNat 1 (wordField w 8 8)) (BitVec.ofNat 8 (wordField w 7 0)) (litWord [wordField w 22 16, wordField w 15 9] x)) (litWords [wordField w 22 16, wordField w 15 9])
  | 3 =>
      decodedIf (0) (.stc64 (BitVec.ofNat 7 (wordField w 22 16)) (BitVec.ofNat 7 (wordField w 15 9)) (BitVec.ofNat 1 (wordField w 8 8)) (BitVec.ofNat 8 (wordField w 7 0)) (litWord [wordField w 22 16, wordField w 15 9] x)) (litWords [wordField w 22 16, wordField w 15 9])
  | 7 =>
      if wordField x 7 0 + wordField x 31 16 ≠ 0 then .bad .reservedCode else
      decodedIf (0) (.stcOrdered (BitVec.ofNat 7 (wordField w 22 16)) (BitVec.ofNat 7 (wordField w 15 9)) (BitVec.ofNat 1 (wordField w 8 8)) (BitVec.ofNat 8 (wordField w 7 0)) (BitVec.ofNat 3 (wordField x 15 13)) (BitVec.ofNat 2 (wordField x 12 11)) (BitVec.ofNat 3 (wordField x 10 8))) 2
  | _ => .bad .unassignedFn

/-- Major 0x32. -/
noncomputable def decodeMajor32 (w x : Nat) : Decoded :=
  match wordField w 25 23 with
  | 0 =>
      decodedIf (wordField w 8 8) (.ldp (BitVec.ofNat 7 (wordField w 22 16)) (BitVec.ofNat 7 (wordField w 15 9)) (BitVec.ofNat 8 (wordField w 7 0)) (litWord [wordField w 15 9] x)) (litWords [wordField w 15 9])
  | 1 =>
      decodedIf (wordField w 8 8) (.stp (BitVec.ofNat 7 (wordField w 22 16)) (BitVec.ofNat 7 (wordField w 15 9)) (BitVec.ofNat 8 (wordField w 7 0)) (litWord [wordField w 22 16, wordField w 15 9] x)) (litWords [wordField w 22 16, wordField w 15 9])
  | _ => .bad .unassignedFn

/-- Major 0x33. -/
noncomputable def decodeMajor33 (w x : Nat) : Decoded :=
  match wordField w 25 23 with
  | 0 =>
      decodedIf (0) (.gld (BitVec.ofNat 7 (wordField w 22 16)) (BitVec.ofNat 7 (wordField w 15 9)) (BitVec.ofNat 1 (wordField w 8 8)) (BitVec.ofNat 8 (wordField w 7 0)) (litWord [wordField w 15 9] x)) (litWords [wordField w 15 9])
  | 1 =>
      decodedIf (0) (.gld64 (BitVec.ofNat 7 (wordField w 22 16)) (BitVec.ofNat 7 (wordField w 15 9)) (BitVec.ofNat 1 (wordField w 8 8)) (BitVec.ofNat 8 (wordField w 7 0)) (litWord [wordField w 15 9] x)) (litWords [wordField w 15 9])
  | 2 =>
      decodedIf (0) (.gld128 (BitVec.ofNat 7 (wordField w 22 16)) (BitVec.ofNat 7 (wordField w 15 9)) (BitVec.ofNat 1 (wordField w 8 8)) (BitVec.ofNat 8 (wordField w 7 0)) (litWord [wordField w 15 9] x)) (litWords [wordField w 15 9])
  | 3 =>
      if wordField x 7 0 + wordField x 31 16 ≠ 0 then .bad .reservedCode else
      decodedIf (0) (.gldOrdered (BitVec.ofNat 7 (wordField w 22 16)) (BitVec.ofNat 7 (wordField w 15 9)) (BitVec.ofNat 1 (wordField w 8 8)) (BitVec.ofNat 8 (wordField w 7 0)) (BitVec.ofNat 3 (wordField x 15 13)) (BitVec.ofNat 2 (wordField x 12 11)) (BitVec.ofNat 3 (wordField x 10 8))) 2
  | 4 =>
      decodedIf (0) (.gst (BitVec.ofNat 7 (wordField w 22 16)) (BitVec.ofNat 7 (wordField w 15 9)) (BitVec.ofNat 1 (wordField w 8 8)) (BitVec.ofNat 8 (wordField w 7 0)) (litWord [wordField w 22 16, wordField w 15 9] x)) (litWords [wordField w 22 16, wordField w 15 9])
  | 5 =>
      decodedIf (0) (.gst64 (BitVec.ofNat 7 (wordField w 22 16)) (BitVec.ofNat 7 (wordField w 15 9)) (BitVec.ofNat 1 (wordField w 8 8)) (BitVec.ofNat 8 (wordField w 7 0)) (litWord [wordField w 22 16, wordField w 15 9] x)) (litWords [wordField w 22 16, wordField w 15 9])
  | 6 =>
      decodedIf (0) (.gst128 (BitVec.ofNat 7 (wordField w 22 16)) (BitVec.ofNat 7 (wordField w 15 9)) (BitVec.ofNat 1 (wordField w 8 8)) (BitVec.ofNat 8 (wordField w 7 0)) (litWord [wordField w 22 16, wordField w 15 9] x)) (litWords [wordField w 22 16, wordField w 15 9])
  | 7 =>
      if wordField x 7 0 + wordField x 31 16 ≠ 0 then .bad .reservedCode else
      decodedIf (0) (.gstOrdered (BitVec.ofNat 7 (wordField w 22 16)) (BitVec.ofNat 7 (wordField w 15 9)) (BitVec.ofNat 1 (wordField w 8 8)) (BitVec.ofNat 8 (wordField w 7 0)) (BitVec.ofNat 3 (wordField x 15 13)) (BitVec.ofNat 2 (wordField x 12 11)) (BitVec.ofNat 3 (wordField x 10 8))) 2
  | _ => .bad .unassignedFn

/-- Major 0x34. -/
noncomputable def decodeMajor34 (w x : Nat) : Decoded :=
  match wordField w 25 23 with
  | 0 | 1 | 2 | 3 | 4 =>
      if wordField x 7 7 + wordField x 31 15 ≠ 0 then .bad .reservedCode else
      decodedIf (0) (.latom (BitVec.ofNat 3 (wordField w 25 23)) (BitVec.ofNat 7 (wordField w 22 16)) (BitVec.ofNat 7 (wordField w 15 9)) (BitVec.ofNat 1 (wordField w 8 8)) (BitVec.ofNat 8 (wordField w 7 0)) (BitVec.ofNat 3 (wordField x 14 12)) (BitVec.ofNat 4 (wordField x 11 8)) (BitVec.ofNat 7 (wordField x 6 0))) 2
  | _ => .bad .unassignedFn

/-- Major 0x35. -/
noncomputable def decodeMajor35 (w x : Nat) : Decoded :=
  match wordField w 25 23 with
  | 0 | 1 | 2 | 3 | 4 =>
      if wordField x 7 7 + wordField x 31 15 ≠ 0 then .bad .reservedCode else
      decodedIf (wordField w 22 19) (.atom (BitVec.ofNat 3 (wordField w 25 23)) (BitVec.ofNat 3 (wordField w 18 16)) (BitVec.ofNat 7 (wordField w 15 9)) (BitVec.ofNat 1 (wordField w 8 8)) (BitVec.ofNat 8 (wordField w 7 0)) (BitVec.ofNat 3 (wordField x 14 12)) (BitVec.ofNat 4 (wordField x 11 8)) (BitVec.ofNat 7 (wordField x 6 0))) 2
  | 5 =>
      if wordField x 7 7 + wordField x 31 15 ≠ 0 then .bad .reservedCode else
      decodedIf (0) (.ared (BitVec.ofNat 7 (wordField w 22 16)) (BitVec.ofNat 7 (wordField w 15 9)) (BitVec.ofNat 1 (wordField w 8 8)) (BitVec.ofNat 8 (wordField w 7 0)) (BitVec.ofNat 3 (wordField x 14 12)) (BitVec.ofNat 4 (wordField x 11 8)) (BitVec.ofNat 7 (wordField x 6 0))) 2
  | 6 =>
      if wordField x 7 7 + wordField x 31 15 ≠ 0 then .bad .reservedCode else
      decodedIf (0) (.aredRel (BitVec.ofNat 7 (wordField w 22 16)) (BitVec.ofNat 7 (wordField w 15 9)) (BitVec.ofNat 1 (wordField w 8 8)) (BitVec.ofNat 8 (wordField w 7 0)) (BitVec.ofNat 3 (wordField x 14 12)) (BitVec.ofNat 4 (wordField x 11 8)) (BitVec.ofNat 7 (wordField x 6 0))) 2
  | _ => .bad .unassignedFn

/-- Major 0x36. -/
noncomputable def decodeMajor36 (w _x : Nat) : Decoded :=
  match wordField w 25 23 with
  | 0 =>
      decodedIf (wordField w 8 0 + wordField w 15 12) (.rslotLd (BitVec.ofNat 7 (wordField w 22 16)) (BitVec.ofNat 3 (wordField w 11 9))) 1
  | 1 =>
      decodedIf (wordField w 8 0 + wordField w 15 12) (.rslotLd64 (BitVec.ofNat 7 (wordField w 22 16)) (BitVec.ofNat 3 (wordField w 11 9))) 1
  | 2 =>
      decodedIf (wordField w 8 0 + wordField w 15 12 + wordField w 22 19) (.rslotTest (BitVec.ofNat 3 (wordField w 18 16)) (BitVec.ofNat 3 (wordField w 11 9))) 1
  | _ => .bad .unassignedFn

/-- Major 0x37. -/
noncomputable def decodeMajor37 (w _x : Nat) : Decoded :=
  match wordField w 25 21 with
  | 0 =>
      decodedIf (wordField w 4 0) (.hodCopy (BitVec.ofNat 8 (wordField w 20 13)) (BitVec.ofNat 8 (wordField w 12 5))) 1
  | 1 =>
      decodedIf (wordField w 4 0) (.hodGather (BitVec.ofNat 8 (wordField w 20 13)) (BitVec.ofNat 8 (wordField w 12 5))) 1
  | 2 =>
      decodedIf (wordField w 4 0) (.hodScatter (BitVec.ofNat 8 (wordField w 20 13)) (BitVec.ofNat 8 (wordField w 12 5))) 1
  | 3 =>
      decodedIf (wordField w 4 0) (.hodFill (BitVec.ofNat 8 (wordField w 20 13)) (BitVec.ofNat 8 (wordField w 12 5))) 1
  | 4 =>
      decodedIf (wordField w 4 0) (.hodSend (BitVec.ofNat 8 (wordField w 20 13)) (BitVec.ofNat 8 (wordField w 12 5))) 1
  | 5 =>
      decodedIf (wordField w 4 0) (.hodReduce (BitVec.ofNat 8 (wordField w 20 13)) (BitVec.ofNat 8 (wordField w 12 5))) 1
  | 6 =>
      decodedIf (wordField w 4 0) (.hodPrefetch (BitVec.ofNat 8 (wordField w 20 13)) (BitVec.ofNat 8 (wordField w 12 5))) 1
  | _ => .bad .unassignedFn

/-- Major 0x38. -/
noncomputable def decodeMajor38 (w _x : Nat) : Decoded :=
  match wordField w 25 21 with
  | 0 =>
      decodedIf (wordField w 4 0) (.ccPrefetch (BitVec.ofNat 8 (wordField w 20 13)) (BitVec.ofNat 8 (wordField w 12 5))) 1
  | 1 =>
      decodedIf (wordField w 4 0) (.ccWb (BitVec.ofNat 8 (wordField w 20 13)) (BitVec.ofNat 8 (wordField w 12 5))) 1
  | 2 =>
      decodedIf (wordField w 4 0) (.ccDiscard (BitVec.ofNat 8 (wordField w 20 13)) (BitVec.ofNat 8 (wordField w 12 5))) 1
  | _ => .bad .unassignedFn

/-- Major 0x39. -/
noncomputable def decodeMajor39 (w _x : Nat) : Decoded :=
  match wordField w 25 24 with
  | 0 =>
      decodedIf (wordField w 15 4) (.ringAcq (BitVec.ofNat 8 (wordField w 23 16)) (BitVec.ofNat 4 (wordField w 3 0))) 1
  | 1 =>
      decodedIf (wordField w 7 4 + wordField w 23 16) (.ringCommit (BitVec.ofNat 8 (wordField w 15 8)) (BitVec.ofNat 4 (wordField w 3 0))) 1
  | 2 =>
      decodedIf (wordField w 15 4) (.ringWait (BitVec.ofNat 8 (wordField w 23 16)) (BitVec.ofNat 4 (wordField w 3 0))) 1
  | 3 =>
      decodedIf (wordField w 7 4 + wordField w 23 16) (.ringFree (BitVec.ofNat 8 (wordField w 15 8)) (BitVec.ofNat 4 (wordField w 3 0))) 1
  | _ => .bad .unassignedFn

/-- Major 0x3C. -/
noncomputable def decodeMajor3C (w _x : Nat) : Decoded :=
  match wordField w 25 22 with
  | 0 =>
      decodedIf (wordField w 7 0 + wordField w 21 16) (.beadMode (BitVec.ofNat 8 (wordField w 15 8))) 1
  | 1 =>
      decodedIf (0) (.beadMma (BitVec.ofNat 6 (wordField w 21 16)) (BitVec.ofNat 8 (wordField w 15 8)) (BitVec.ofNat 8 (wordField w 7 0))) 1
  | 2 =>
      decodedIf (0) (.beadMmaz (BitVec.ofNat 6 (wordField w 21 16)) (BitVec.ofNat 8 (wordField w 15 8)) (BitVec.ofNat 8 (wordField w 7 0))) 1
  | 3 =>
      decodedIf (wordField w 15 0) (.beadZero (BitVec.ofNat 6 (wordField w 21 16))) 1
  | 4 =>
      decodedIf (wordField w 7 0 + wordField w 21 16) (.beadSync (BitVec.ofNat 8 (wordField w 15 8))) 1
  | 5 =>
      decodedIf (wordField w 7 0) (.beadScale (BitVec.ofNat 6 (wordField w 21 16)) (BitVec.ofNat 8 (wordField w 15 8))) 1
  | _ => .bad .unassignedFn

/-- Major 0x3D. -/
noncomputable def decodeMajor3D (w _x : Nat) : Decoded :=
  match wordField w 25 22 with
  | 0 =>
      decodedIf (0) (.palReserve (BitVec.ofNat 6 (wordField w 21 16)) (BitVec.ofNat 8 (wordField w 15 8)) (BitVec.ofNat 8 (wordField w 7 0))) 1
  | 1 =>
      decodedIf (0) (.palFill (BitVec.ofNat 6 (wordField w 21 16)) (BitVec.ofNat 8 (wordField w 15 8)) (BitVec.ofNat 8 (wordField w 7 0))) 1
  | 2 =>
      decodedIf (0) (.palFillk (BitVec.ofNat 6 (wordField w 21 16)) (BitVec.ofNat 8 (wordField w 15 8)) (BitVec.ofNat 8 (wordField w 7 0))) 1
  | 3 =>
      decodedIf (wordField w 15 0) (.palRelease (BitVec.ofNat 6 (wordField w 21 16))) 1
  | _ => .bad .unassignedFn

/-- Major 0x3E. -/
noncomputable def decodeMajor3E (w _x : Nat) : Decoded :=
  match wordField w 25 22 with
  | 0 =>
      decodedIf (0) (.cbDrain (BitVec.ofNat 6 (wordField w 21 16)) (BitVec.ofNat 8 (wordField w 15 8)) (BitVec.ofNat 8 (wordField w 7 0))) 1
  | 1 =>
      decodedIf (wordField w 7 0) (.cbLoad (BitVec.ofNat 6 (wordField w 21 16)) (BitVec.ofNat 8 (wordField w 15 8))) 1
  | 2 =>
      decodedIf (wordField w 15 8) (.cbClear (BitVec.ofNat 6 (wordField w 21 16)) (BitVec.ofNat 8 (wordField w 7 0))) 1
  | _ => .bad .unassignedFn

/-- Major 0x3F. -/
noncomputable def decodeMajor3F (w _x : Nat) : Decoded :=
  match wordField w 25 21 with
  | 0 =>
      decodedIf (wordField w 6 4) (.omDepth (BitVec.ofNat 7 (wordField w 20 14)) (BitVec.ofNat 7 (wordField w 13 7)) (BitVec.ofNat 1 (wordField w 3 3)) (BitVec.ofNat 3 (wordField w 2 0))) 1
  | 1 =>
      decodedIf (wordField w 20 16) (.omWrite (BitVec.ofNat 2 (wordField w 15 14)) (BitVec.ofNat 7 (wordField w 13 7)) (BitVec.ofNat 7 (wordField w 6 0))) 1
  | 2 =>
      decodedIf (wordField w 13 3) (.omLoad (BitVec.ofNat 7 (wordField w 20 14)) (BitVec.ofNat 3 (wordField w 2 0))) 1
  | 3 =>
      decodedIf (wordField w 6 3 + wordField w 20 14) (.omLatch (BitVec.ofNat 7 (wordField w 13 7)) (BitVec.ofNat 3 (wordField w 2 0))) 1
  | _ => .bad .unassignedFn

/-- The opcode map of 12 R323: the major selects the family. -/
noncomputable def decodeWords (w x : Nat) : Decoded :=
  match wordField w 31 26 with
  | 0 => decodeMajor00 w x
  | 1 => decodeMajor01 w x
  | 2 => decodeMajor02 w x
  | 3 => decodeMajor03 w x
  | 4 => decodeMajor04 w x
  | 5 => decodeMajor05 w x
  | 6 => decodeMajor06 w x
  | 7 => decodeMajor07 w x
  | 8 => decodeMajor08 w x
  | 9 => decodeMajor09 w x
  | 10 => decodeMajor0A w x
  | 11 => decodeMajor0B w x
  | 12 => decodeMajor0C w x
  | 13 => decodeMajor0D w x
  | 14 => decodeMajor0E w x
  | 15 => decodeMajor0F w x
  | 16 => decodeMajor10 w x
  | 17 => decodeMajor11 w x
  | 18 => decodeMajor12 w x
  | 19 => decodeMajor13 w x
  | 20 => decodeMajor14 w x
  | 21 => decodeMajor15 w x
  | 22 => decodeMajor16 w x
  | 23 => decodeMajor17 w x
  | 24 => decodeMajor18 w x
  | 25 => decodeMajor19 w x
  | 26 => decodeMajor1A w x
  | 27 => decodeMajor1B w x
  | 28 => decodeMajor1C w x
  | 29 => decodeMajor1D w x
  | 30 => decodeMajor1E w x
  | 31 => decodeMajor1F w x
  | 32 => decodeMajor20 w x
  | 33 => decodeMajor21 w x
  | 34 => decodeMajor22 w x
  | 35 => decodeMajor23 w x
  | 36 => decodeMajor24 w x
  | 37 => decodeMajor25 w x
  | 38 => decodeMajor26 w x
  | 39 => decodeMajor27 w x
  | 40 => decodeMajor28 w x
  | 41 => decodeMajor29 w x
  | 42 => decodeMajor2A w x
  | 48 => decodeMajor30 w x
  | 49 => decodeMajor31 w x
  | 50 => decodeMajor32 w x
  | 51 => decodeMajor33 w x
  | 52 => decodeMajor34 w x
  | 53 => decodeMajor35 w x
  | 54 => decodeMajor36 w x
  | 55 => decodeMajor37 w x
  | 56 => decodeMajor38 w x
  | 57 => decodeMajor39 w x
  | 60 => decodeMajor3C w x
  | 61 => decodeMajor3D w x
  | 62 => decodeMajor3E w x
  | 63 => decodeMajor3F w x
  | _ => .bad .reservedMajor

/-- The decoder on bytes as memory holds them, little-endian words: the instruction and the bytes after
it, or the reason there is none (`none` where fewer than its bytes are given). -/
noncomputable def decodeBytes (b : List Byte) : Option (Except BadWord (Instr × List Byte)) :=
  let word (l : List Byte) : Nat := l.foldr (fun y acc => y.toNat + 256 * acc) 0
  if b.length < 4 then none
  else match decodeWords (word (b.take 4)) (word ((b.drop 4).take 4)) with
    | .bad r => some (.error r)
    | .instr i n => if b.length < 4 * n then none else some (.ok (i, b.drop (4 * n)))

/-- The instruction read from an instruction's bits numbered as the opcode table numbers them; bits
above `nbits` are zero. -/
noncomputable def decodeTableWord (nbits w : Nat) : Option Instr :=
  let v := w % 2 ^ nbits
  match decodeWords (v % 2 ^ 32) (v / 2 ^ 32 % 2 ^ 32) with
  | .instr i _ => some i
  | .bad _ => none

/-- How many words an instruction takes, by its first word alone (12 R321, R322): two for a form with an EO word,
and for one with an EL word when a source code is 124. -/
def instrWords (w : Nat) : Nat :=
  match wordField w 31 26 with
  | 13 => 2
  | 14 => if [0, 1].contains (wordField w 25 23) then 2 else 1
  | 16 => if [0, 1, 2, 3, 4, 5, 8, 9].contains (wordField w 25 21) then litWords [wordField w 13 7, wordField w 6 0] else if [6, 7].contains (wordField w 25 21) then litWords [wordField w 13 7] else if [10, 11].contains (wordField w 25 21) then 2 else 1
  | 17 => if [0, 1, 2].contains (wordField w 25 21) then litWords [wordField w 13 7, wordField w 6 0] else if [3, 4].contains (wordField w 25 21) then 2 else 1
  | 18 => if [0, 1, 2, 3].contains (wordField w 25 21) then litWords [wordField w 13 7, wordField w 6 0] else if [4].contains (wordField w 25 21) then litWords [wordField w 13 7] else 1
  | 19 => if [0, 1, 2, 3].contains (wordField w 25 21) then litWords [wordField w 13 7, wordField w 6 0] else if [4].contains (wordField w 25 21) then 2 else 1
  | 20 => if [0, 1, 2, 3].contains (wordField w 25 21) then litWords [wordField w 13 7, wordField w 6 0] else 1
  | 21 => if [0, 1, 2, 3, 4, 5, 6, 7, 8, 9].contains (wordField w 25 21) then litWords [wordField w 13 7, wordField w 6 0] else 1
  | 22 => if [0, 1, 2].contains (wordField w 25 21) then litWords [wordField w 13 7] else if [3, 4].contains (wordField w 25 21) then litWords [wordField w 13 7, wordField w 6 0] else if [5].contains (wordField w 25 21) then 2 else 1
  | 24 => if [0, 1, 2, 3, 4, 8, 9, 10, 11, 12, 16, 17, 18, 19, 20, 24, 25, 26, 27, 28].contains (wordField w 25 21) then litWords [wordField w 13 7, wordField w 6 0] else 1
  | 25 => if [0, 8, 16, 24].contains (wordField w 25 21) then litWords [wordField w 13 7, wordField w 6 0] else if [1, 2, 9, 10, 17, 18, 25, 26].contains (wordField w 25 21) then 2 else 1
  | 26 => if [0, 1, 2, 3, 4, 5, 6, 7].contains (wordField w 25 21) then litWords [wordField w 13 7, wordField w 6 0] else if [8].contains (wordField w 25 21) then litWords [wordField w 13 7] else 1
  | 27 => if [0, 1, 2, 3, 4, 5, 6, 7, 8, 9, 10, 11, 12, 13, 14, 15].contains (wordField w 25 21) then litWords [wordField w 13 7] else 1
  | 28 => if [0].contains (wordField w 25 21) then 2 else if [1].contains (wordField w 25 21) then litWords [wordField w 13 7] else 1
  | 29 => if [0, 2, 3, 4, 5, 6, 7, 8, 9, 12, 13, 14, 15, 16, 17, 18, 19, 20, 21, 22, 23, 24, 25].contains (wordField w 25 21) then 2 else 1
  | 30 => if [0].contains (wordField w 25 21) then litWords [wordField w 13 7] else if [1].contains (wordField w 25 21) then 2 else 1
  | 31 => if [1].contains (wordField w 25 21) then litWords [wordField w 13 7, wordField w 6 0] else if [5, 6, 7, 8, 9, 10, 11, 12, 13, 14, 15].contains (wordField w 25 21) then litWords [wordField w 13 7] else 1
  | 41 => if [0, 1, 2, 3].contains (wordField w 25 21) then litWords [wordField w 13 7] else 1
  | 48 => if [0, 1, 2, 3, 4, 5, 6].contains (wordField w 25 23) then litWords [wordField w 15 9] else if [7].contains (wordField w 25 23) then 2 else 1
  | 49 => if [0, 1, 2, 3].contains (wordField w 25 23) then litWords [wordField w 22 16, wordField w 15 9] else if [7].contains (wordField w 25 23) then 2 else 1
  | 50 => if [0].contains (wordField w 25 23) then litWords [wordField w 15 9] else if [1].contains (wordField w 25 23) then litWords [wordField w 22 16, wordField w 15 9] else 1
  | 51 => if [0, 1, 2].contains (wordField w 25 23) then litWords [wordField w 15 9] else if [3, 7].contains (wordField w 25 23) then 2 else if [4, 5, 6].contains (wordField w 25 23) then litWords [wordField w 22 16, wordField w 15 9] else 1
  | 52 => if [0, 1, 2, 3, 4].contains (wordField w 25 23) then 2 else 1
  | 53 => if [0, 1, 2, 3, 4, 5, 6].contains (wordField w 25 23) then 2 else 1
  | _ => 1

/-- The words of a form with a literal: the EL word stands only when a source code is 124. -/
def withLit (w : Nat) (codes : List (BitVec 7)) (lit : BitVec 32) : List Nat :=
  if codes.any (fun c => c == 124#7) then [w, lit.toNat] else [w]

/-- The encoder: the words of an instruction, from the formats and families' tables of the spec. A row
that is a step of the part has no words. -/
def encode : Instr → List Nat
  | .porReset _ _ _ => []
  | .perstReset _ => []
  | .sysclkFault => []
  | .sysclkReturn => []
  | .dclkFault => []
  | .lockstepMismatch => []
  | .thermtrip => []
  | .supplyLoss _ => []
  | .handlerBudgetExpiry _ => []
  | .holdupSaveComplete => []
  | .reserveCharged => []
  | .bootGo _ => []
  | .firmwareImageCheck _ _ _ _ _ => []
  | .postRootRegion _ _ _ _ => []
  | .postLowHalfWrite _ _ _ => []
  | .resyncToMemory _ _ _ _ => []
  | .resyncToWindow _ _ _ _ => []
  | .powerCmdCell _ => []
  | .powerCmdPane _ => []
  | .powerCmdDevice _ => []
  | .dHold _ => []
  | .powerCmdComplete _ => []
  | .clampTrigger _ _ _ => []
  | .clampStep _ => []
  | .clampRelease _ _ _ => []
  | .faultClear _ _ _ => []
  | .armWrite _ _ => []
  | .seamStatusClear _ _ _ => []
  | .registerWrite _ _ _ _ _ => []
  | .i3cResync => []
  | .i3cStatus => []
  | .i3cFaultClear _ => []
  | .forceUndercoat _ => []
  | .releaseUndercoat _ => []
  | .i3cHoldup => []
  | .i3cUnknownCommand => []
  | .i3cPrivateRead => []
  | .vfConfigRequest _ _ _ _ => []
  | .apertureRequest _ _ _ _ _ => []
  | .functionLevelReset _ => []
  | .partCommit _ _ => []
  | .partGrow _ _ => []
  | .partShrink _ _ => []
  | .shrinkComplete _ => []
  | .deferredLaunchEviction _ => []
  | .partCancel _ _ => []
  | .rungReset _ _ => []
  | .invCtx _ _ => []
  | .rungTimeout _ => []
  | .rungComplete _ => []
  | .classWaysWrite _ _ _ => []
  | .classBwWrite _ _ _ => []
  | .pipeEnable _ _ _ _ => []
  | .pipeDisable _ _ _ => []
  | .layerTableCommit _ _ _ _ => []
  | .layerCommitTake _ => []
  | .coatSign _ => []
  | .frameDecision _ => []
  | .scanoutTileCheck _ _ _ => []
  | .paneSelfTestStart _ => []
  | .paneSelfTestEnd _ _ => []
  | .readmit _ _ => []
  | .telltaleLoad _ _ => []
  | .telltaleCopyComplete => []
  | .latchWrite _ _ _ => []
  | .hudLatchTake => []
  | .cameraStreamWrite _ _ _ => []
  | .cameraFrameStart _ => []
  | .cameraLine _ _ _ _ => []
  | .cameraFrameEnd _ => []
  | .cameraTxFrame _ => []
  | .devqEnable _ _ => []
  | .spareLane _ _ => []
  | .spareCell _ _ => []
  | .spareWay _ _ => []
  | .spareChannel _ _ => []
  | .unfence _ _ => []
  | .spareCmdComplete _ => []
  | .channelMigrationComplete => []
  | .seamFlitReplay _ => []
  | .seamEyeCheck _ _ _ => []
  | .seamLaneFail _ _ => []
  | .correctedError _ => []
  | .ageSample _ _ _ => []
  | .beadSelfTestStart _ _ => []
  | .beadSelfTestEnd _ _ _ => []
  | .beadSelfTestOverdue _ _ => []
  | .keepDir _ _ => []
  | .keepData _ _ => []
  | .keepErase _ _ => []
  | .keepCmdComplete => []
  | .rollback _ => []
  | .postTake _ _ => []
  | .blockPlace _ => []
  | .arbitration _ _ => []
  | .groupWake _ => []
  | .sliceEnd _ _ => []
  | .blockEvict _ => []
  | .regionComplete _ => []
  | .resultLanding _ _ => []
  | .groupSlotRelease _ => []
  | .trackerEntryFree _ => []
  | .contResultWrite _ => []
  | .regroupRelaunch _ => []
  | .watchdogExpiry _ => []
  | .gateBudgetExpiry _ => []
  | .sleepExpiry _ => []
  | .lineFillReturn _ => []
  | .releaseDrainComplete _ => []
  | .tlbWalkComplete _ _ _ _ => []
  | .atomicPerform _ => []
  | .atomReply _ => []
  | .hodOpComplete _ _ _ => []
  | .msgDeliver _ => []
  | .monitorMatch _ => []
  | .monitorPoll _ => []
  | .kstep _ => []
  | .matrixOpComplete _ => []
  | .texComplete _ => []
  | .traceComplete _ => []
  | .forcedRender _ => []
  | .ticketDone _ _ => []
  | .tileFlush _ _ => []
  | .tileStore _ _ => []
  | .nop => [0]
  | .exit => [0x00200000]
  | .tail => [0x00400000]
  | .trap i => [0x00600000 + i.toNat]
  | .brk i => [0x00800000 + i.toNat]
  | .resume => [0x00A00000]
  | .sread d n => [0x00C00000 + d.toNat * 0x2000 + n.toNat]
  | .swrite s n => [0x00E00000 + s.toNat * 0x2000 + n.toNat]
  | .sleepUntil s => [0x01000000 + s.toNat * 0x2000]
  | .sleepCyc s => [0x01200000 + s.toNat * 0x2000]
  | .yield => [0x01400000]
  | .pfailDone => [0x01600000]
  | .ifKElse k o => [0x04000000 + k.toNat * 0x2000 + o.toNat]
  | .ifNkElse k o => [0x04200000 + k.toNat * 0x2000 + o.toNat]
  | .ifSElse s o => [0x04400000 + s.toNat * 0x2000 + o.toNat]
  | .ifNsElse s o => [0x04600000 + s.toNat * 0x2000 + o.toNat]
  | .ifK k o => [0x06000000 + k.toNat * 0x2000 + o.toNat]
  | .ifNk k o => [0x06200000 + k.toNat * 0x2000 + o.toNat]
  | .ifS s o => [0x06400000 + s.toNat * 0x2000 + o.toNat]
  | .ifNs s o => [0x06600000 + s.toNat * 0x2000 + o.toNat]
  | .elseArm o => [0x04800000 + o.toNat]
  | .endif => [0x04A00000]
  | .loop o => [0x04C00000 + o.toNat]
  | .endloop => [0x04E00000]
  | .breakK k => [0x05000000 + k.toNat * 0x2000]
  | .breakS s => [0x05200000 + s.toNat * 0x2000]
  | .continueK k => [0x05400000 + k.toNat * 0x2000]
  | .continueS s => [0x05600000 + s.toNat * 0x2000]
  | .call o => [0x05800000 + o.toNat]
  | .ret => [0x05A00000]
  | .gate i => [0x08000000 + i.toNat]
  | .gret => [0x08200000]
  | .bar => [0x0C000000]
  | .barArrive => [0x0D000000]
  | .barDrop => [0x0E000000]
  | .barWait => [0x0F000000]
  | .bobjInit p b m => [0x10000000 + p.toNat * 0x2000 + b.toNat * 0x20 + m.toNat]
  | .bobjJoin b => [0x10200000 + b.toNat * 0x20]
  | .bobjLeave b => [0x10400000 + b.toNat * 0x20]
  | .bobjArrive p b a => [0x10600000 + p.toNat * 0x2000 + b.toNat * 0x20 + a.toNat]
  | .bobjExpect p b => [0x10800000 + p.toNat * 0x2000 + b.toNat * 0x20]
  | .bobjWait p b => [0x10A00000 + p.toNat * 0x2000 + b.toNat * 0x20]
  | .bobjTest p b => [0x10C00000 + p.toNat * 0x2000 + b.toNat * 0x20]
  | .waitCnt n c => [0x14000000 + n.toNat * 0x100 + c.toNat]
  | .fence s o => [0x15000000 + s.toNat * 0x10 + o.toNat]
  | .semSet a n => [0x18000000 + a.toNat * 0x100 + n.toNat]
  | .semAdd a n => [0x19000000 + a.toNat * 0x100 + n.toNat]
  | .semWaitge a n => [0x1A000000 + a.toNat * 0x100 + n.toNat]
  | .semRead d n => [0x1B000000 + d.toNat * 0x10000 + n.toNat]
  | .waitc r w c a b => [0x1C000000 + r.toNat * 0x100000 + w.toNat * 0x80000 + c.toNat * 0x10000 + a.toNat * 0x100 + b.toNat]
  | .monCancel => [0x1D000000]
  | .launch r d => [0x20000000 + r.toNat * 0x2000 + d.toNat * 0x20]
  | .regionJoin d => [0x20200000 + d.toNat * 0x20]
  | .msgSend r b => [0x24000000 + r.toNat * 0x2000 + b.toNat * 0x20]
  | .msgRecv r b c => [0x24200000 + r.toNat * 0x2000 + b.toNat * 0x20 + c.toNat]
  | .msgPoll r b c => [0x24400000 + r.toNat * 0x2000 + b.toNat * 0x20 + c.toNat]
  | .msgFree r c => [0x24600000 + r.toNat * 0x2000 + c.toNat]
  | .primEmit a b => [0x28000000 + a.toNat * 0x80 + b.toNat]
  | .primEmitClose b => [0x28200000 + b.toNat]
  | .tileGet k b => [0x28400000 + k.toNat * 0x4000 + b.toNat]
  | .tileDone => [0x28600000]
  | .tileAttr d w => [0x28800000 + d.toNat * 0x4000 + w.toNat]
  | .edge d => [0x2C000000 + d.toNat * 0x4000]
  | .interp d p f => [0x2C200000 + d.toNat * 0x4000 + p.toNat * 0x8 + f.toNat]
  | .samplepos d p => [0x2C400000 + d.toNat * 0x4000 + p.toNat]
  | .glzInsert z s c => [0x30000000 + z.toNat * 0x4000 + s.toNat * 0x80 + c.toNat]
  | .glzCount d s => [0x30200000 + d.toNat * 0x4000 + s.toNat * 0x80]
  | .glzRead d s i => [0x30400000 + d.toNat * 0x4000 + s.toNat * 0x80 + i.toNat]
  | .glzResolve d s b => [0x30600000 + d.toNat * 0x4000 + s.toNat * 0x80 + b.toNat]
  | .glzResolveClr d s b => [0x30800000 + d.toNat * 0x4000 + s.toNat * 0x80 + b.toNat]
  | .glzClear s => [0x30A00000 + s.toNat * 0x80]
  | .texSample d a b cm f lm c => [0x34000000 + d.toNat * 0x10000 + a.toNat * 0x200 + b.toNat, cm.toNat * 0x800 + f.toNat * 0x400 + lm.toNat * 0x100 + c.toNat]
  | .texLoad d a b cm f lm c => [0x34800000 + d.toNat * 0x10000 + a.toNat * 0x200 + b.toNat, cm.toNat * 0x800 + f.toNat * 0x400 + lm.toNat * 0x100 + c.toNat]
  | .texGather4 d a b cm f lm c => [0x35000000 + d.toNat * 0x10000 + a.toNat * 0x200 + b.toNat, cm.toNat * 0x800 + f.toNat * 0x400 + lm.toNat * 0x100 + c.toNat]
  | .texLod d a b cm f lm c => [0x35800000 + d.toNat * 0x10000 + a.toNat * 0x200 + b.toNat, cm.toNat * 0x800 + f.toNat * 0x400 + lm.toNat * 0x100 + c.toNat]
  | .texSampleC d a b cm f lm c => [0x36000000 + d.toNat * 0x10000 + a.toNat * 0x200 + b.toNat, cm.toNat * 0x800 + f.toNat * 0x400 + lm.toNat * 0x100 + c.toNat]
  | .texLoadC d a b cm f lm c => [0x36800000 + d.toNat * 0x10000 + a.toNat * 0x200 + b.toNat, cm.toNat * 0x800 + f.toNat * 0x400 + lm.toNat * 0x100 + c.toNat]
  | .texGather4C d a b cm f lm c => [0x37000000 + d.toNat * 0x10000 + a.toNat * 0x200 + b.toNat, cm.toNat * 0x800 + f.toNat * 0x400 + lm.toNat * 0x100 + c.toNat]
  | .texLodC d a b cm f lm c => [0x37800000 + d.toNat * 0x10000 + a.toNat * 0x200 + b.toNat, cm.toNat * 0x800 + f.toNat * 0x400 + lm.toNat * 0x100 + c.toNat]
  | .trace d a b tf any => [0x38000000 + d.toNat * 0x10000 + a.toNat * 0x200 + b.toNat, tf.toNat * 0x200 + any.toNat * 0x100]
  | .traceC d a b tf any => [0x38800000 + d.toNat * 0x10000 + a.toNat * 0x200 + b.toNat, tf.toNat * 0x200 + any.toNat * 0x100]
  | .hitReport d a => [0x39000000 + d.toNat * 0x10000 + a.toNat * 0x200]
  | .hitAccept d => [0x39800000 + d.toNat * 0x10000]
  | .hitIgnore d => [0x3A000000 + d.toNat * 0x10000]
  | .contKey a => [0x3C000000 + a.toNat * 0x80]
  | .repack s => [0x3C200000 + s.toNat]
  | .iadd d a b lit => withLit (0x40000000 + d.toNat * 0x4000 + a.toNat * 0x80 + b.toNat) [a, b] lit
  | .iaddSat d a b lit => withLit (0x40200000 + d.toNat * 0x4000 + a.toNat * 0x80 + b.toNat) [a, b] lit
  | .iaddSatU d a b lit => withLit (0x40400000 + d.toNat * 0x4000 + a.toNat * 0x80 + b.toNat) [a, b] lit
  | .isub d a b lit => withLit (0x40600000 + d.toNat * 0x4000 + a.toNat * 0x80 + b.toNat) [a, b] lit
  | .isubSat d a b lit => withLit (0x40800000 + d.toNat * 0x4000 + a.toNat * 0x80 + b.toNat) [a, b] lit
  | .isubSatU d a b lit => withLit (0x40A00000 + d.toNat * 0x4000 + a.toNat * 0x80 + b.toNat) [a, b] lit
  | .ineg d a lit => withLit (0x40C00000 + d.toNat * 0x4000 + a.toNat * 0x80) [a] lit
  | .iabs d a lit => withLit (0x40E00000 + d.toNat * 0x4000 + a.toNat * 0x80) [a] lit
  | .iabsd d a b lit => withLit (0x41000000 + d.toNat * 0x4000 + a.toNat * 0x80 + b.toNat) [a, b] lit
  | .iabsdU d a b lit => withLit (0x41200000 + d.toNat * 0x4000 + a.toNat * 0x80 + b.toNat) [a, b] lit
  | .iaddCc d a b ci kc => [0x41400000 + d.toNat * 0x4000 + a.toNat * 0x80 + b.toNat, ci.toNat * 0x800 + kc.toNat * 0x100]
  | .isubCc d a b ci kc => [0x41600000 + d.toNat * 0x4000 + a.toNat * 0x80 + b.toNat, ci.toNat * 0x800 + kc.toNat * 0x100]
  | .imulLo d a b lit => withLit (0x44000000 + d.toNat * 0x4000 + a.toNat * 0x80 + b.toNat) [a, b] lit
  | .imulHi d a b lit => withLit (0x44200000 + d.toNat * 0x4000 + a.toNat * 0x80 + b.toNat) [a, b] lit
  | .imulHiU d a b lit => withLit (0x44400000 + d.toNat * 0x4000 + a.toNat * 0x80 + b.toNat) [a, b] lit
  | .imac d a b c => [0x44600000 + d.toNat * 0x4000 + a.toNat * 0x80 + b.toNat, c.toNat]
  | .idot4 d a b sat bu au c => [0x44800000 + d.toNat * 0x4000 + a.toNat * 0x80 + b.toNat, sat.toNat * 0x400 + bu.toNat * 0x200 + au.toNat * 0x100 + c.toNat]
  | .and d a b lit => withLit (0x48000000 + d.toNat * 0x4000 + a.toNat * 0x80 + b.toNat) [a, b] lit
  | .or d a b lit => withLit (0x48200000 + d.toNat * 0x4000 + a.toNat * 0x80 + b.toNat) [a, b] lit
  | .xor d a b lit => withLit (0x48400000 + d.toNat * 0x4000 + a.toNat * 0x80 + b.toNat) [a, b] lit
  | .andn d a b lit => withLit (0x48600000 + d.toNat * 0x4000 + a.toNat * 0x80 + b.toNat) [a, b] lit
  | .not d a lit => withLit (0x48800000 + d.toNat * 0x4000 + a.toNat * 0x80) [a] lit
  | .shl d a b lit => withLit (0x4C000000 + d.toNat * 0x4000 + a.toNat * 0x80 + b.toNat) [a, b] lit
  | .shr d a b lit => withLit (0x4C200000 + d.toNat * 0x4000 + a.toNat * 0x80 + b.toNat) [a, b] lit
  | .sar d a b lit => withLit (0x4C400000 + d.toNat * 0x4000 + a.toNat * 0x80 + b.toNat) [a, b] lit
  | .rotl d a b lit => withLit (0x4C600000 + d.toNat * 0x4000 + a.toNat * 0x80 + b.toNat) [a, b] lit
  | .fshr d a b c => [0x4C800000 + d.toNat * 0x4000 + a.toNat * 0x80 + b.toNat, c.toNat]
  | .imin d a b lit => withLit (0x50000000 + d.toNat * 0x4000 + a.toNat * 0x80 + b.toNat) [a, b] lit
  | .iminU d a b lit => withLit (0x50200000 + d.toNat * 0x4000 + a.toNat * 0x80 + b.toNat) [a, b] lit
  | .imax d a b lit => withLit (0x50400000 + d.toNat * 0x4000 + a.toNat * 0x80 + b.toNat) [a, b] lit
  | .imaxU d a b lit => withLit (0x50600000 + d.toNat * 0x4000 + a.toNat * 0x80 + b.toNat) [a, b] lit
  | .icmp c k a b lit => withLit (0x54000000 + c.toNat * 0x200000 + k.toNat * 0x4000 + a.toNat * 0x80 + b.toNat) [a, b] lit
  | .popc d a lit => withLit (0x58000000 + d.toNat * 0x4000 + a.toNat * 0x80) [a] lit
  | .clz d a lit => withLit (0x58200000 + d.toNat * 0x4000 + a.toNat * 0x80) [a] lit
  | .brev d a lit => withLit (0x58400000 + d.toNat * 0x4000 + a.toNat * 0x80) [a] lit
  | .bfe d a b lit => withLit (0x58600000 + d.toNat * 0x4000 + a.toNat * 0x80 + b.toNat) [a, b] lit
  | .bfeS d a b lit => withLit (0x58800000 + d.toNat * 0x4000 + a.toNat * 0x80 + b.toNat) [a, b] lit
  | .bfi d a b c => [0x58A00000 + d.toNat * 0x4000 + a.toNat * 0x80 + b.toNat, c.toNat]
  | .iaddi d a i => [0x5C000000 + d.toNat * 0x4000 + a.toNat * 0x80 + i.toNat]
  | .andi d a i => [0x5C200000 + d.toNat * 0x4000 + a.toNat * 0x80 + i.toNat]
  | .ori d a i => [0x5C400000 + d.toNat * 0x4000 + a.toNat * 0x80 + i.toNat]
  | .xori d a i => [0x5C600000 + d.toNat * 0x4000 + a.toNat * 0x80 + i.toNat]
  | .shli d a i => [0x5C800000 + d.toNat * 0x4000 + a.toNat * 0x80 + i.toNat]
  | .shri d a i => [0x5CA00000 + d.toNat * 0x4000 + a.toNat * 0x80 + i.toNat]
  | .sari d a i => [0x5CC00000 + d.toNat * 0x4000 + a.toNat * 0x80 + i.toNat]
  | .fadd s p d a b lit => withLit (0x60000000 + s.toNat * 0x2000000 + p.toNat * 0x1000000 + d.toNat * 0x4000 + a.toNat * 0x80 + b.toNat) [a, b] lit
  | .fsub s p d a b lit => withLit (0x60200000 + s.toNat * 0x2000000 + p.toNat * 0x1000000 + d.toNat * 0x4000 + a.toNat * 0x80 + b.toNat) [a, b] lit
  | .fmul s p d a b lit => withLit (0x60400000 + s.toNat * 0x2000000 + p.toNat * 0x1000000 + d.toNat * 0x4000 + a.toNat * 0x80 + b.toNat) [a, b] lit
  | .fmin s p d a b lit => withLit (0x60600000 + s.toNat * 0x2000000 + p.toNat * 0x1000000 + d.toNat * 0x4000 + a.toNat * 0x80 + b.toNat) [a, b] lit
  | .fmax s p d a b lit => withLit (0x60800000 + s.toNat * 0x2000000 + p.toNat * 0x1000000 + d.toNat * 0x4000 + a.toNat * 0x80 + b.toNat) [a, b] lit
  | .fmac s p d a b lit => withLit (0x64000000 + s.toNat * 0x2000000 + p.toNat * 0x1000000 + d.toNat * 0x4000 + a.toNat * 0x80 + b.toNat) [a, b] lit
  | .fma s p d a b c => [0x64200000 + s.toNat * 0x2000000 + p.toNat * 0x1000000 + d.toNat * 0x4000 + a.toNat * 0x80 + b.toNat, c.toNat]
  | .flerp s p d a b c => [0x64400000 + s.toNat * 0x2000000 + p.toNat * 0x1000000 + d.toNat * 0x4000 + a.toNat * 0x80 + b.toNat, c.toNat]
  | .fcmp c k a b lit => withLit (0x68000000 + c.toNat * 0x200000 + k.toNat * 0x4000 + a.toNat * 0x80 + b.toNat) [a, b] lit
  | .fclass d a lit => withLit (0x69000000 + d.toNat * 0x4000 + a.toNat * 0x80) [a] lit
  | .frcp p d a lit => withLit (0x6C000000 + p.toNat * 0x1000000 + d.toNat * 0x4000 + a.toNat * 0x80) [a] lit
  | .frsq p d a lit => withLit (0x6C200000 + p.toNat * 0x1000000 + d.toNat * 0x4000 + a.toNat * 0x80) [a] lit
  | .fsqrt p d a lit => withLit (0x6C400000 + p.toNat * 0x1000000 + d.toNat * 0x4000 + a.toNat * 0x80) [a] lit
  | .fexp2 p d a lit => withLit (0x6C600000 + p.toNat * 0x1000000 + d.toNat * 0x4000 + a.toNat * 0x80) [a] lit
  | .flog2 p d a lit => withLit (0x6C800000 + p.toNat * 0x1000000 + d.toNat * 0x4000 + a.toNat * 0x80) [a] lit
  | .fsin p d a lit => withLit (0x6CA00000 + p.toNat * 0x1000000 + d.toNat * 0x4000 + a.toNat * 0x80) [a] lit
  | .fcos p d a lit => withLit (0x6CC00000 + p.toNat * 0x1000000 + d.toNat * 0x4000 + a.toNat * 0x80) [a] lit
  | .ftanh p d a lit => withLit (0x6CE00000 + p.toNat * 0x1000000 + d.toNat * 0x4000 + a.toNat * 0x80) [a] lit
  | .cvt d a el sf sat rm df => [0x70000000 + d.toNat * 0x4000 + a.toNat * 0x80 + el.toNat * 0x10 + sf.toNat, sat.toNat * 0x4000 + rm.toNat * 0x1000 + df.toNat * 0x100]
  | .frnd d a p m lit => withLit (0x70200000 + d.toNat * 0x4000 + a.toNat * 0x80 + p.toNat * 0x8 + m.toNat) [a] lit
  | .cvtPk2 d a b sat rm df => [0x74000000 + d.toNat * 0x4000 + a.toNat * 0x80 + b.toNat, sat.toNat * 0x4000 + rm.toNat * 0x1000 + df.toNat * 0x100]
  | .cvtPk4 p d a b sat rm df => [0x74400000 + p.toNat * 0x200000 + d.toNat * 0x4000 + a.toNat * 0x80 + b.toNat, sat.toNat * 0x4000 + rm.toNat * 0x1000 + df.toNat * 0x100]
  | .cvtPk8 p d a b sat rm df => [0x74800000 + p.toNat * 0x200000 + d.toNat * 0x4000 + a.toNat * 0x80 + b.toNat, sat.toNat * 0x4000 + rm.toNat * 0x1000 + df.toNat * 0x100]
  | .cvtUnpk2 e d a b sc sf => [0x75000000 + e.toNat * 0x200000 + d.toNat * 0x4000 + a.toNat * 0x80 + b.toNat, sc.toNat * 0x1000 + sf.toNat * 0x100]
  | .cvtUnpk4 e d a b sc sf => [0x75800000 + e.toNat * 0x200000 + d.toNat * 0x4000 + a.toNat * 0x80 + b.toNat, sc.toNat * 0x1000 + sf.toNat * 0x100]
  | .cvtUnpk8 e d a b sc sf => [0x76000000 + e.toNat * 0x200000 + d.toNat * 0x4000 + a.toNat * 0x80 + b.toNat, sc.toNat * 0x1000 + sf.toNat * 0x100]
  | .quantBlk d a b blk sm rm tf => [0x77000000 + d.toNat * 0x4000 + a.toNat * 0x80 + b.toNat, blk.toNat * 0x8000 + sm.toNat * 0x4000 + rm.toNat * 0x1000 + tf.toNat * 0x100]
  | .cbkDec d a b bf p => [0x77200000 + d.toNat * 0x4000 + a.toNat * 0x80 + b.toNat, bf.toNat * 0x400 + p.toNat * 0x100]
  | .mov d a lit => withLit (0x78000000 + d.toNat * 0x4000 + a.toNat * 0x80) [a] lit
  | .sel d a b kn => [0x78200000 + d.toNat * 0x4000 + a.toNat * 0x80 + b.toNat, kn.toNat * 0x100]
  | .bcast d a l => [0x78400000 + d.toNat * 0x4000 + a.toNat * 0x80 + l.toNat]
  | .bcastFirst d a => [0x78600000 + d.toNat * 0x4000 + a.toNat * 0x80]
  | .ballot k a => [0x7C000000 + k.toNat * 0x4000 + a.toNat * 0x80]
  | .shflIdx d a b lit => withLit (0x7C200000 + d.toNat * 0x4000 + a.toNat * 0x80 + b.toNat) [a, b] lit
  | .shflUp d a n => [0x7C400000 + d.toNat * 0x4000 + a.toNat * 0x80 + n.toNat]
  | .shflDn d a n => [0x7C600000 + d.toNat * 0x4000 + a.toNat * 0x80 + n.toNat]
  | .shflXor d a n => [0x7C800000 + d.toNat * 0x4000 + a.toNat * 0x80 + n.toNat]
  | .redAdd d a lit => withLit (0x7CA00000 + d.toNat * 0x4000 + a.toNat * 0x80) [a] lit
  | .redAddF32 d a lit => withLit (0x7CC00000 + d.toNat * 0x4000 + a.toNat * 0x80) [a] lit
  | .redMin d a lit => withLit (0x7CE00000 + d.toNat * 0x4000 + a.toNat * 0x80) [a] lit
  | .redMinU d a lit => withLit (0x7D000000 + d.toNat * 0x4000 + a.toNat * 0x80) [a] lit
  | .redMinF32 d a lit => withLit (0x7D200000 + d.toNat * 0x4000 + a.toNat * 0x80) [a] lit
  | .redMax d a lit => withLit (0x7D400000 + d.toNat * 0x4000 + a.toNat * 0x80) [a] lit
  | .redMaxU d a lit => withLit (0x7D600000 + d.toNat * 0x4000 + a.toNat * 0x80) [a] lit
  | .redMaxF32 d a lit => withLit (0x7D800000 + d.toNat * 0x4000 + a.toNat * 0x80) [a] lit
  | .scanAdd d a lit => withLit (0x7DA00000 + d.toNat * 0x4000 + a.toNat * 0x80) [a] lit
  | .scanAddEx d a lit => withLit (0x7DC00000 + d.toNat * 0x4000 + a.toNat * 0x80) [a] lit
  | .scanAddF32 d a lit => withLit (0x7DE00000 + d.toNat * 0x4000 + a.toNat * 0x80) [a] lit
  | .sadd d a b => [0x80000000 + d.toNat * 0x10000 + a.toNat * 0x100 + b.toNat]
  | .ssub d a b => [0x81000000 + d.toNat * 0x10000 + a.toNat * 0x100 + b.toNat]
  | .smul d a b => [0x82000000 + d.toNat * 0x10000 + a.toNat * 0x100 + b.toNat]
  | .smulh d a b => [0x83000000 + d.toNat * 0x10000 + a.toNat * 0x100 + b.toNat]
  | .sand d a b => [0x84000000 + d.toNat * 0x10000 + a.toNat * 0x100 + b.toNat]
  | .sor d a b => [0x85000000 + d.toNat * 0x10000 + a.toNat * 0x100 + b.toNat]
  | .sxor d a b => [0x86000000 + d.toNat * 0x10000 + a.toNat * 0x100 + b.toNat]
  | .sandn d a b => [0x87000000 + d.toNat * 0x10000 + a.toNat * 0x100 + b.toNat]
  | .sshl d a b => [0x88000000 + d.toNat * 0x10000 + a.toNat * 0x100 + b.toNat]
  | .sshr d a b => [0x89000000 + d.toNat * 0x10000 + a.toNat * 0x100 + b.toNat]
  | .ssar d a b => [0x8A000000 + d.toNat * 0x10000 + a.toNat * 0x100 + b.toNat]
  | .srotl d a b => [0x8B000000 + d.toNat * 0x10000 + a.toNat * 0x100 + b.toNat]
  | .scmpEq d a b => [0x8C000000 + d.toNat * 0x10000 + a.toNat * 0x100 + b.toNat]
  | .scmpLt d a b => [0x8D000000 + d.toNat * 0x10000 + a.toNat * 0x100 + b.toNat]
  | .scmpLtu d a b => [0x8E000000 + d.toNat * 0x10000 + a.toNat * 0x100 + b.toNat]
  | .scmpLe d a b => [0x8F000000 + d.toNat * 0x10000 + a.toNat * 0x100 + b.toNat]
  | .smovi d i => [0x90000000 + d.toNat * 0x10000 + i.toNat]
  | .smovhi d i => [0x91000000 + d.toNat * 0x10000 + i.toNat]
  | .saddi d i => [0x92000000 + d.toNat * 0x10000 + i.toNat]
  | .scmpi d a c i => [0x93000000 + d.toNat * 0x10000 + a.toNat * 0x100 + c.toNat * 0x40 + i.toNat]
  | .sadd64 d a b => [0x94000000 + d.toNat * 0x10000 + a.toNat * 0x100 + b.toNat]
  | .ssub64 d a b => [0x95000000 + d.toNat * 0x10000 + a.toNat * 0x100 + b.toNat]
  | .smul64 d a b => [0x96000000 + d.toNat * 0x10000 + a.toNat * 0x100 + b.toNat]
  | .sshl64 d a b => [0x97000000 + d.toNat * 0x10000 + a.toNat * 0x100 + b.toNat]
  | .smin d a b => [0x98000000 + d.toNat * 0x10000 + a.toNat * 0x100 + b.toNat]
  | .smax d a b => [0x99000000 + d.toNat * 0x10000 + a.toNat * 0x100 + b.toNat]
  | .spopc d a => [0x9A000000 + d.toNat * 0x10000 + a.toNat * 0x100]
  | .sclz d a => [0x9B000000 + d.toNat * 0x10000 + a.toNat * 0x100]
  | .vget d a b => [0x9C000000 + d.toNat * 0x10000 + a.toNat * 0x100 + b.toNat]
  | .vset d a b => [0x9D000000 + d.toNat * 0x10000 + a.toNat * 0x100 + b.toNat]
  | .ktos d k => [0x9E000000 + d.toNat * 0x10000 + k.toNat * 0x100]
  | .stok k a => [0x9F000000 + k.toNat * 0x10000 + a.toNat * 0x100]
  | .kand d a b => [0xA0000000 + d.toNat * 0x4000 + a.toNat * 0x80 + b.toNat]
  | .kor d a b => [0xA0200000 + d.toNat * 0x4000 + a.toNat * 0x80 + b.toNat]
  | .kxor d a b => [0xA0400000 + d.toNat * 0x4000 + a.toNat * 0x80 + b.toNat]
  | .knot d a => [0xA0600000 + d.toNat * 0x4000 + a.toNat * 0x80]
  | .kmov d a => [0xA0800000 + d.toNat * 0x4000 + a.toNat * 0x80]
  | .ddx d a lit => withLit (0xA4000000 + d.toNat * 0x4000 + a.toNat * 0x80) [a] lit
  | .ddxCoarse d a lit => withLit (0xA4200000 + d.toNat * 0x4000 + a.toNat * 0x80) [a] lit
  | .ddy d a lit => withLit (0xA4400000 + d.toNat * 0x4000 + a.toNat * 0x80) [a] lit
  | .ddyCoarse d a lit => withLit (0xA4600000 + d.toNat * 0x4000 + a.toNat * 0x80) [a] lit
  | .qswap d a m => [0xA4800000 + d.toNat * 0x4000 + a.toNat * 0x80 + m.toNat]
  | .tlbInv a l => [0xA8000000 + a.toNat * 0x2000 + l.toNat]
  | .ixuLoad a s => [0xA8200000 + a.toNat * 0x2000 + s.toNat]
  | .ccFlush => [0xA8400000]
  | .ccInval => [0xA8600000]
  | .bndSet a => [0xA8800000 + a.toNat * 0x2000]
  | .ldcU8 d i x b lit => withLit (0xC0000000 + d.toNat * 0x10000 + i.toNat * 0x200 + x.toNat * 0x100 + b.toNat) [i] lit
  | .ldcS8 d i x b lit => withLit (0xC0800000 + d.toNat * 0x10000 + i.toNat * 0x200 + x.toNat * 0x100 + b.toNat) [i] lit
  | .ldcU16 d i x b lit => withLit (0xC1000000 + d.toNat * 0x10000 + i.toNat * 0x200 + x.toNat * 0x100 + b.toNat) [i] lit
  | .ldcS16 d i x b lit => withLit (0xC1800000 + d.toNat * 0x10000 + i.toNat * 0x200 + x.toNat * 0x100 + b.toNat) [i] lit
  | .ldc d i x b lit => withLit (0xC2000000 + d.toNat * 0x10000 + i.toNat * 0x200 + x.toNat * 0x100 + b.toNat) [i] lit
  | .ldc64 d i x b lit => withLit (0xC2800000 + d.toNat * 0x10000 + i.toNat * 0x200 + x.toNat * 0x100 + b.toNat) [i] lit
  | .ldcBc d i x b lit => withLit (0xC3000000 + d.toNat * 0x10000 + i.toNat * 0x200 + x.toNat * 0x100 + b.toNat) [i] lit
  | .ldcOrdered d i x b sc od sz => [0xC3800000 + d.toNat * 0x10000 + i.toNat * 0x200 + x.toNat * 0x100 + b.toNat, sc.toNat * 0x2000 + od.toNat * 0x800 + sz.toNat * 0x100]
  | .stc8 s i x b lit => withLit (0xC4000000 + s.toNat * 0x10000 + i.toNat * 0x200 + x.toNat * 0x100 + b.toNat) [s, i] lit
  | .stc16 s i x b lit => withLit (0xC4800000 + s.toNat * 0x10000 + i.toNat * 0x200 + x.toNat * 0x100 + b.toNat) [s, i] lit
  | .stc s i x b lit => withLit (0xC5000000 + s.toNat * 0x10000 + i.toNat * 0x200 + x.toNat * 0x100 + b.toNat) [s, i] lit
  | .stc64 s i x b lit => withLit (0xC5800000 + s.toNat * 0x10000 + i.toNat * 0x200 + x.toNat * 0x100 + b.toNat) [s, i] lit
  | .stcOrdered s i x b sc od sz => [0xC7800000 + s.toNat * 0x10000 + i.toNat * 0x200 + x.toNat * 0x100 + b.toNat, sc.toNat * 0x2000 + od.toNat * 0x800 + sz.toNat * 0x100]
  | .ldp d i b lit => withLit (0xC8000000 + d.toNat * 0x10000 + i.toNat * 0x200 + b.toNat) [i] lit
  | .stp s i b lit => withLit (0xC8800000 + s.toNat * 0x10000 + i.toNat * 0x200 + b.toNat) [s, i] lit
  | .gld d i x b lit => withLit (0xCC000000 + d.toNat * 0x10000 + i.toNat * 0x200 + x.toNat * 0x100 + b.toNat) [i] lit
  | .gld64 d i x b lit => withLit (0xCC800000 + d.toNat * 0x10000 + i.toNat * 0x200 + x.toNat * 0x100 + b.toNat) [i] lit
  | .gld128 d i x b lit => withLit (0xCD000000 + d.toNat * 0x10000 + i.toNat * 0x200 + x.toNat * 0x100 + b.toNat) [i] lit
  | .gldOrdered d i x b sc od sz => [0xCD800000 + d.toNat * 0x10000 + i.toNat * 0x200 + x.toNat * 0x100 + b.toNat, sc.toNat * 0x2000 + od.toNat * 0x800 + sz.toNat * 0x100]
  | .gst s i x b lit => withLit (0xCE000000 + s.toNat * 0x10000 + i.toNat * 0x200 + x.toNat * 0x100 + b.toNat) [s, i] lit
  | .gst64 s i x b lit => withLit (0xCE800000 + s.toNat * 0x10000 + i.toNat * 0x200 + x.toNat * 0x100 + b.toNat) [s, i] lit
  | .gst128 s i x b lit => withLit (0xCF000000 + s.toNat * 0x10000 + i.toNat * 0x200 + x.toNat * 0x100 + b.toNat) [s, i] lit
  | .gstOrdered s i x b sc od sz => [0xCF800000 + s.toNat * 0x10000 + i.toNat * 0x200 + x.toNat * 0x100 + b.toNat, sc.toNat * 0x2000 + od.toNat * 0x800 + sz.toNat * 0x100]
  | .latom o d i x b sc op c => [0xD0000000 + o.toNat * 0x800000 + d.toNat * 0x10000 + i.toNat * 0x200 + x.toNat * 0x100 + b.toNat, sc.toNat * 0x1000 + op.toNat * 0x100 + c.toNat]
  | .atom o sl i x b sc op c => [0xD4000000 + o.toNat * 0x800000 + sl.toNat * 0x10000 + i.toNat * 0x200 + x.toNat * 0x100 + b.toNat, sc.toNat * 0x1000 + op.toNat * 0x100 + c.toNat]
  | .ared z i x b sc op c => [0xD6800000 + z.toNat * 0x10000 + i.toNat * 0x200 + x.toNat * 0x100 + b.toNat, sc.toNat * 0x1000 + op.toNat * 0x100 + c.toNat]
  | .aredRel z i x b sc op c => [0xD7000000 + z.toNat * 0x10000 + i.toNat * 0x200 + x.toNat * 0x100 + b.toNat, sc.toNat * 0x1000 + op.toNat * 0x100 + c.toNat]
  | .rslotLd d s => [0xD8000000 + d.toNat * 0x10000 + s.toNat * 0x200]
  | .rslotLd64 d s => [0xD8800000 + d.toNat * 0x10000 + s.toNat * 0x200]
  | .rslotTest k s => [0xD9000000 + k.toNat * 0x10000 + s.toNat * 0x200]
  | .hodCopy d b => [0xDC000000 + d.toNat * 0x2000 + b.toNat * 0x20]
  | .hodGather d b => [0xDC200000 + d.toNat * 0x2000 + b.toNat * 0x20]
  | .hodScatter d b => [0xDC400000 + d.toNat * 0x2000 + b.toNat * 0x20]
  | .hodFill d b => [0xDC600000 + d.toNat * 0x2000 + b.toNat * 0x20]
  | .hodSend d b => [0xDC800000 + d.toNat * 0x2000 + b.toNat * 0x20]
  | .hodReduce d b => [0xDCA00000 + d.toNat * 0x2000 + b.toNat * 0x20]
  | .hodPrefetch d b => [0xDCC00000 + d.toNat * 0x2000 + b.toNat * 0x20]
  | .ccPrefetch a l => [0xE0000000 + a.toNat * 0x2000 + l.toNat * 0x20]
  | .ccWb a l => [0xE0200000 + a.toNat * 0x2000 + l.toNat * 0x20]
  | .ccDiscard a l => [0xE0400000 + a.toNat * 0x2000 + l.toNat * 0x20]
  | .ringAcq d r => [0xE4000000 + d.toNat * 0x10000 + r.toNat]
  | .ringCommit a r => [0xE5000000 + a.toNat * 0x100 + r.toNat]
  | .ringWait d r => [0xE6000000 + d.toNat * 0x10000 + r.toNat]
  | .ringFree a r => [0xE7000000 + a.toNat * 0x100 + r.toNat]
  | .beadMode a => [0xF0000000 + a.toNat * 0x100]
  | .beadMma c a b => [0xF0400000 + c.toNat * 0x10000 + a.toNat * 0x100 + b.toNat]
  | .beadMmaz c a b => [0xF0800000 + c.toNat * 0x10000 + a.toNat * 0x100 + b.toNat]
  | .beadZero c => [0xF0C00000 + c.toNat * 0x10000]
  | .beadSync a => [0xF1000000 + a.toNat * 0x100]
  | .beadScale c a => [0xF1400000 + c.toNat * 0x10000 + a.toNat * 0x100]
  | .palReserve p a d => [0xF4000000 + p.toNat * 0x10000 + a.toNat * 0x100 + d.toNat]
  | .palFill p a b => [0xF4400000 + p.toNat * 0x10000 + a.toNat * 0x100 + b.toNat]
  | .palFillk p a b => [0xF4800000 + p.toNat * 0x10000 + a.toNat * 0x100 + b.toNat]
  | .palRelease p => [0xF4C00000 + p.toNat * 0x10000]
  | .cbDrain c a b => [0xF8000000 + c.toNat * 0x10000 + a.toNat * 0x100 + b.toNat]
  | .cbLoad c a => [0xF8400000 + c.toNat * 0x10000 + a.toNat * 0x100]
  | .cbClear c n => [0xF8800000 + c.toNat * 0x10000 + n.toNat]
  | .omDepth d a w o => [0xFC000000 + d.toNat * 0x4000 + a.toNat * 0x80 + w.toNat * 0x8 + o.toNat]
  | .omWrite m a c => [0xFC200000 + m.toNat * 0x4000 + a.toNat * 0x80 + c.toNat]
  | .omLoad d s => [0xFC400000 + d.toNat * 0x4000 + s.toNat]
  | .omLatch a w => [0xFC600000 + a.toNat * 0x80 + w.toNat]
  | .dclkReturn => []
  | .clampConditionClear => []
  | .pcieLinkStateChange _ _ _ _ => []

end Sys2Proof
end

