-- ==== Sys2Proof/Config.lean ====
section
/-! DEFINITION. What one part fixes (its fuses, its board, its firmware image) and the FREE VALUES:
constants with no body, which no proof can evaluate, for the values and orders the spec leaves open.
Every constant is named in the assumption log. -/
namespace Sys2Proof.Config
open Sys2Proof

/-! ### Geometry of the part (00, 01, 02 R74, 05 R149) -/

/-- Logical cells of the device. -/
def cells : Nat := 32
/-- Panes of the device. -/
def panes : Nat := 4
/-- Cells of one pane that are in service. -/
def cellsPerPane : Nat := 8
/-- Sub-cores of one cell, eight to a quadrant. -/
def subcores : Nat := 32
/-- Issue-group slots of one sub-core. -/
def slots : Nat := 12
/-- Abacus slots of one quadrant. -/
def abacusSlots : Nat := 4
/-- Register-file entries of one sub-core: 64 KiB of 4-byte entries (assumption 6). -/
def registerEntries : Nat := 16384
/-- Which of the three capacities the board's memory channels have: their number is this modulo 3 (01 R27). -/
opaque channelPick : Nat
/-- The capacity of one memory channel in bytes: 1, 2 or 4 GiB (01 R27). -/
def channelBytes : Nat := if channelPick % 3 = 0 then 2 ^ 30 else if channelPick % 3 = 1 then 2 ^ 31 else 2 ^ 32
/-- The group count G of one memory channel (01 R29). -/
def dramGroups : Nat := channelBytes / 576

/-! ### Free values -/

/-- A free 32-bit value, by a counter held in the state. -/
opaque freeWord : Nat → Word
/-- A free natural number: an order or a count that the spec leaves open. -/
opaque freeNat : Nat → Nat
/-- A special function's result where the spec gives an error bound only (14 R386): by function
number, by format (0 for FP32, 1 for FP16) and by the input's bits. -/
opaque freeSpecial : Nat → Nat → Nat → Nat

/-- The set of a second-level TLB that an entry belongs to, by its virtual base and size (08 R241 gives none). -/
opaque tlbSet : Nat → Nat → Nat
/-- The set of a hub-cache line in its slice, before it is reduced to the number of sets. -/
opaque hubSet : Nat → Nat
/-- The free choices of the hub cache: which way or victim of several, which class an access outside a turn has. -/
opaque freeHub : Nat → Nat → Nat

/-- A byte of the opaque form in which a mask stack is saved (07 R198): by the save's key and the byte's place. -/
opaque freeStack : Nat → Nat → Byte

/-- The free order in which the control state of a must-save declaration takes its 512 bytes, of which 05 R155 names the
contents and no places. -/
opaque controlPlace : Nat → Nat
/-- A byte of the control state that holds nothing named: by its place in that order, the context and the time of the event. -/
opaque freeControl : Nat → Nat → Nat → Byte

/-! ### Identifiers (03 R84) -/

/-- The vendor, subsystem vendor and subsystem identifiers of the functions, which the spec does not give. -/
opaque vendorId : Nat
opaque subVendorId : Nat
opaque subsystemId : Nat

/-! ### Fuses (01, 02 R63, R73; 05 R153) -/

/-- The rail set point in millivolts of a pane at a level (02 R63). -/
opaque vset : Nat → Nat → Nat
/-- The generation floor fused in the part before its first boot (02 R73). -/
opaque fusedFloor : Nat
/-- BASELINE of an ageing monitor, by physical cell and monitor (05 R153). -/
opaque ageBaseline : Nat → Nat → Nat

end Sys2Proof.Config
end

