-- ==== Sys2Proof/Machine/Num.lean ====
section
/-! DEFINITION. Number formats, exact arithmetic, rounding and the exception flags (10 R270–R289), the
special functions' bounds (14 R386, R387). Exact values are kept as a sign and a quotient of naturals
times a power of two; nothing is rounded before `roundTo`. -/
namespace Sys2Proof.Machine
open Sys2Proof

/-- The five flags of 10 R277, bit i for flag i: NX, UF, OF, DZ, IO. -/
abbrev FFlags := BitVec 5
def fNX : FFlags := 1#5
def fUF : FFlags := 2#5
def fOF : FFlags := 4#5
def fDZ : FFlags := 8#5
def fIO : FFlags := 16#5
def fNone : FFlags := 0#5

/-- The special codes of a floating-point format (10 R271). -/
inductive FKind where
  | ieee      -- infinities and NaNs in the top exponent
  | nanOnly   -- E4M3: one NaN magnitude, no infinity
  | plain     -- E2M1: neither
  deriving DecidableEq, Repr

/-- A floating-point format: exponent and mantissa widths, bias, special codes (10 R270). -/
structure FFmt where
  eb : Nat
  mb : Nat
  bias : Nat
  kind : FKind
  deriving DecidableEq, Repr

def fp32 : FFmt := ⟨8, 23, 127, .ieee⟩
def fp16 : FFmt := ⟨5, 10, 15, .ieee⟩
def bf16 : FFmt := ⟨8, 7, 127, .ieee⟩
def e4m3 : FFmt := ⟨4, 3, 7, .nanOnly⟩
def e5m2 : FFmt := ⟨5, 2, 15, .ieee⟩
def e2m1 : FFmt := ⟨2, 1, 1, .plain⟩

/-- The width of a format in bits. -/
def FFmt.width (f : FFmt) : Nat := 1 + f.eb + f.mb

/-- The canonical NaN of a format (10 R272); E2M1, which has none, gives +0 (10 R276). -/
def FFmt.canonNaN (f : FFmt) : Nat :=
  match f.kind with
  | .ieee => (2 ^ f.eb - 1) * 2 ^ f.mb + 2 ^ (f.mb - 1)
  | .nanOnly => 2 ^ (f.eb + f.mb) - 1
  | .plain => 0

/-- The magnitude code of infinity, for the formats that have it. -/
def FFmt.infCode (f : FFmt) : Nat := (2 ^ f.eb - 1) * 2 ^ f.mb

/-- The magnitude code of the largest finite value (10 R271). -/
def FFmt.maxCode (f : FFmt) : Nat :=
  match f.kind with
  | .ieee => f.infCode - 1
  | .nanOnly => 2 ^ (f.eb + f.mb) - 2
  | .plain => 2 ^ (f.eb + f.mb) - 1

/-- The exponent of the subnormal spacing. -/
def FFmt.minExp (f : FFmt) : Int := 1 - (f.bias : Int) - (f.mb : Int)

/-- The significand and exponent of a finite magnitude code: its value is `m * 2^e`. -/
def FFmt.magOf (f : FFmt) (code : Nat) : Nat × Int :=
  let e := code / 2 ^ f.mb
  let m := code % 2 ^ f.mb
  if e = 0 then (m, f.minExp) else (2 ^ f.mb + m, (e : Int) - f.bias - f.mb)

/-- A decoded element: a NaN (signalling or not), an infinity, or a finite value
`(-1)^neg * m * 2^e`. -/
inductive FVal where
  | nan (signalling : Bool)
  | inf (neg : Bool)
  | fin (neg : Bool) (m : Nat) (e : Int)
  deriving DecidableEq, Repr

/-- The value an encoding of a format stands for (10 R271, R272). -/
def FFmt.decode (f : FFmt) (x : Nat) : FVal :=
  let neg := bit x (f.eb + f.mb)
  let mag := bits x (f.eb + f.mb - 1) 0
  match f.kind with
  | .ieee =>
    if mag = f.infCode then .inf neg
    else if f.infCode < mag then .nan (!bit mag (f.mb - 1))
    else .fin neg (f.magOf mag).1 (f.magOf mag).2
  | .nanOnly =>
    if mag = 2 ^ (f.eb + f.mb) - 1 then .nan false
    else .fin neg (f.magOf mag).1 (f.magOf mag).2
  | .plain => .fin neg (f.magOf mag).1 (f.magOf mag).2

/-- The value of a two's-complement integer of `w` bits. -/
def intVal (w x : Nat) : FVal :=
  let v := signedOf w x
  .fin (decide (v < 0)) v.natAbs 0

/-- An exact result: a NaN (with IO where the operation is invalid), an infinity, a zero with its
sign, or a non-zero value `(-1)^neg * (n / d) * 2^e`. -/
inductive Exact where
  | nan (io : Bool)
  | inf (neg : Bool) (dz : Bool)
  | zero (neg : Bool)
  | num (neg : Bool) (n d : Nat) (e : Int)
  deriving DecidableEq, Repr

def FVal.isNaN : FVal → Bool
  | .nan _ => true
  | _ => false
def FVal.isSNaN : FVal → Bool
  | .nan s => s
  | _ => false
def FVal.isInf : FVal → Bool
  | .inf _ => true
  | _ => false
def FVal.isZero : FVal → Bool
  | .fin _ m _ => m == 0
  | _ => false
def FVal.neg : FVal → Bool
  | .nan _ => false
  | .inf n => n
  | .fin n _ _ => n
/-- The value with its sign turned. -/
def FVal.flip : FVal → FVal
  | .nan s => .nan s
  | .inf n => .inf (!n)
  | .fin n m e => .fin (!n) m e

/-- A value as an exact result; a NaN raises IO when it is signalling. -/
def FVal.exact : FVal → Exact
  | .nan s => .nan s
  | .inf n => .inf n false
  | .fin n m e => if m = 0 then .zero n else .num n m 1 e

/-- The exact product of two values that are not NaN and not zero times infinity. -/
def FVal.mul (a b : FVal) : FVal :=
  match a, b with
  | .nan s, _ => .nan s
  | _, .nan s => .nan s
  | .inf n, y => .inf (n != y.neg)
  | x, .inf n => .inf (x.neg != n)
  | .fin n m e, .fin n' m' e' => .fin (n != n') (m * m') (e + e')

/-- The signed significand of a finite value at exponent `e0`, which must not exceed its own. -/
def FVal.atExp (e0 : Int) : FVal → Int
  | .fin n m e => let k := (m * 2 ^ (e - e0).toNat : Nat); if n then -(k : Int) else k
  | _ => 0
def FVal.exp : FVal → Int
  | .fin _ m e => if m = 0 then 0 else e
  | _ => 0

/-- The exact sum of terms (10 R286; 14 R383, zero sums): a NaN term, or infinities of both signs,
give a NaN, and the latter invalid whatever the other terms; one infinity gives it; an exact zero sum gives +0 unless
every term is a negative zero. -/
def exactSum (terms : List FVal) : Exact :=
  let infs := terms.filter FVal.isInf
  let opposed := infs.any FVal.neg && infs.any (fun t => !t.neg)
  if terms.any FVal.isNaN then .nan (terms.any FVal.isSNaN || opposed)
  else if opposed then .nan true
  else match infs with
    | t :: _ => .inf t.neg false
    | [] =>
      let e0 := terms.foldl (fun acc t => if t.isZero then acc else min acc t.exp) 0
      let s := terms.foldl (fun (acc : Int) t => if t.isZero then acc else acc + t.atExp e0) 0
      if s = 0 then .zero (terms.all fun t => t.isZero && t.neg)
      else .num (decide (s < 0)) s.natAbs 1 e0

/-- The product of two operands as a term of a sum, with IO for zero times infinity. -/
def productTerm (a b : FVal) : FVal :=
  if a.isNaN then .nan (a.isSNaN || b.isSNaN)
  else if b.isNaN then b
  else if (a.isZero && b.isInf) || (a.isInf && b.isZero) then .nan true
  else a.mul b

/-- a × b + c with one rounding to come; 0 × ∞ is invalid whatever the addend (14 R383). -/
def exactFma (a b c : FVal) : Exact :=
  match exactSum [productTerm a b, c] with
  | .nan io => .nan (io || a.isSNaN || b.isSNaN || c.isSNaN)
  | x => x

/-- `va + vc × (vb − va)`, the whole expression exact (14 R383, FLERP). -/
def exactLerp (a b c : FVal) : Exact :=
  if a.isNaN || b.isNaN || c.isNaN then .nan (a.isSNaN || b.isSNaN || c.isSNaN)
  else
    let diff := exactSum [b, a.flip]
    let d : FVal := match diff with
      | .nan _ => .nan true
      | .inf n _ => .inf n
      | .zero n => .fin n 0 0
      | .num n m _ e => .fin n m e
    exactSum [a, productTerm c d]

/-- The binary logarithm of `n/d * 2^e`, rounded down, for positive `n` and `d`. -/
def floorLog2 (n d : Nat) (e : Int) : Int :=
  let k : Int := (n.log2 : Int) - d.log2
  -- n/d lies in [2^(k-1), 2^(k+1))
  let below := if 0 ≤ k then n < d * 2 ^ k.toNat else n * 2 ^ (-k).toNat < d
  (if below then k - 1 else k) + e

/-- `n/d * 2^e` as numerator and denominator in units of `2^q`. -/
def inUnits (n d : Nat) (e q : Int) : Nat × Nat :=
  if q ≤ e then (n * 2 ^ (e - q).toNat, d) else (n, d * 2 ^ (q - e).toNat)

/-- A rounding direction decided (10 R274, 14 R390): to nearest even, toward zero, stochastic with its
24-bit draw, down, up. -/
inductive RMode where
  | rne
  | rtz
  | sr (draw : Nat)
  | dn
  | up
  deriving DecidableEq, Repr

/-- The rounded integer of `a/b` under a mode, and whether it is inexact. -/
def roundQuot (rm : RMode) (neg : Bool) (a b : Nat) : Nat × Bool :=
  let t := a / b
  let r := a % b
  let up : Bool := match rm with
    | .rne => decide (b < 2 * r) || (decide (2 * r = b) && decide (t % 2 = 1))
    | .rtz => false
    | .sr draw => decide (draw < r * 2 ^ 24 / b)
    | .dn => neg && decide (r ≠ 0)
    | .up => !neg && decide (r ≠ 0)
  (if up then t + 1 else t, decide (r ≠ 0))

/-- The sign bit of a format, set or clear. -/
def FFmt.signBit (f : FFmt) (neg : Bool) : Nat := if neg then 2 ^ (f.eb + f.mb) else 0

/-- The magnitude code of `t * 2^q`, where `t < 2^(mb+1)` unless it was rounded up to just that, and
`t < 2^mb` only when `q` is the subnormal spacing. -/
def FFmt.codeOf (f : FFmt) (t : Nat) (q : Int) : Nat :=
  ((q - f.minExp).toNat) * 2 ^ f.mb + t

/-- The result of an overflow (10 R276). -/
def FFmt.overflow (f : FFmt) (rm : RMode) (sat : Bool) (neg roundedUp : Bool) : Nat :=
  let finite := f.signBit neg + f.maxCode
  let infinite := f.signBit neg + f.infCode
  match f.kind with
  | .ieee =>
    if sat then finite
    else match rm with
      | .rtz => finite
      | .sr _ => if roundedUp then infinite else finite
      | _ => infinite
  | _ => finite

/-- One rounding of a non-zero exact value into a floating-point format, with overflow and underflow
decided after it (10 R274–R277). -/
def FFmt.roundNum (f : FFmt) (rm : RMode) (sat : Bool) (neg : Bool) (n d : Nat) (e : Int) :
    Nat × FFlags :=
  let top := floorLog2 n d e
  let q := max (top - f.mb) f.minExp
  let (a, b) := inUnits n d e q
  let (t, inexact) := roundQuot rm neg a b
  let code := f.codeOf t q
  if f.maxCode < code then
    (f.overflow rm sat neg (decide (a / b < t) ), fOF ||| fNX)
  else
    let tiny := code < 2 ^ f.mb
    (f.signBit neg + code,
      if inexact then (if tiny then fUF ||| fNX else fNX) else fNone)

/-- The delivery of an exact result in a floating-point format (10 R272, R276). An infinity of the
operands raises no flag; under the saturating form, and in the formats without infinities, it is the
largest finite value with OF and NX. -/
def FFmt.deliver (f : FFmt) (rm : RMode) (sat : Bool) : Exact → Nat × FFlags
  | .nan io =>
    match f.kind with
    | .plain => (0, fIO)
    | _ => (f.canonNaN, if io then fIO else fNone)
  | .inf neg dz =>
    match f.kind with
    | .ieee =>
      if sat then (f.signBit neg + f.maxCode, fOF ||| fNX)
      else (f.signBit neg + f.infCode, if dz then fDZ else fNone)
    | _ => (f.signBit neg + f.maxCode, fOF ||| fNX)
  | .zero neg => (f.signBit neg, fNone)
  | .num neg n d e => f.roundNum rm sat neg n d e

/-- The delivery of an exact result as an integer from `lo` to `hi` of `w` bits: rounded in the named
mode, then saturated; saturation, infinities and NaNs raise IO alone (10 R276, R277). -/
def deliverInt (rm : RMode) (w : Nat) (lo hi : Int) : Exact → Nat × FFlags
  | .nan _ => (0, fIO)
  | .inf neg _ => (wrapInt w (if neg then lo else hi), fIO)
  | .zero _ => (0, fNone)
  | .num neg n d e =>
    let (a, b) := inUnits n d e 0
    let (t, inexact) := roundQuot rm neg a b
    let v : Int := if neg then -(t : Int) else t
    if v < lo then (wrapInt w lo, fIO)
    else if hi < v then (wrapInt w hi, fIO)
    else (wrapInt w v, if inexact then fNX else fNone)

/-! ### Element formats by code (10 R270; code 0xA is UINT32 in CVT, 14 R388) -/

/-- The floating-point format of a code. -/
def floatFmt : Nat → Option FFmt
  | 0 => some fp32
  | 1 => some fp16
  | 2 => some bf16
  | 3 => some e4m3
  | 4 => some e5m2
  | 5 => some e2m1
  | _ => none

/-- The integer format of a code: width, least and largest value. -/
def intFmt : Nat → Option (Nat × Int × Int)
  | 6 => some (8, -128, 127)
  | 7 => some (4, -8, 7)
  | 9 => some (32, -2147483648, 2147483647)
  | 10 => some (32, 0, 4294967295)
  | _ => none

/-- The width in bits of an element of a format code; 0 for a code without elements. -/
def fmtWidth (c : Nat) : Nat :=
  match floatFmt c with
  | some f => f.width
  | none => match intFmt c with
    | some (w, _, _) => w
    | none => 0

/-- The value of an element of a format code. UINT32 reads as an unsigned integer. -/
def elemVal (c x : Nat) : FVal :=
  match floatFmt c with
  | some f => f.decode x
  | none =>
    if c = 10 then .fin false (x % 2 ^ 32) 0
    else match intFmt c with
      | some (w, _, _) => intVal w x
      | none => .fin false 0 0

/-- One rounding of an exact result into a format code (10 R275, R276). -/
def deliverCode (c : Nat) (rm : RMode) (sat : Bool) (x : Exact) : Nat × FFlags :=
  match floatFmt c with
  | some f => f.deliver rm sat x
  | none => match intFmt c with
    | some (w, lo, hi) => deliverInt rm w lo hi x
    | none => (0, fNone)

/-- CVT between format codes (14 R389): equal formats pass the value, but that a NaN becomes
canonical and, under SAT, an infinity becomes the largest finite value. -/
def convert (src dst : Nat) (rm : RMode) (sat : Bool) (x : Nat) : Nat × FFlags :=
  deliverCode dst rm sat (elemVal src x).exact

/-! ### Stochastic rounding (10 R278, R279) -/

/-- The generator's start for a seed and a thread index. -/
def seedState (s : Word) (t : Nat) : Word :=
  let x := s ^^^ BitVec.ofNat 32 ((t + 1) * 0x9E3779B9)
  if x = 0#32 then 0x9E3779B9#32 else x

/-- One draw: the next state and the 24-bit number. -/
def draw (x : Word) : Word × Nat :=
  let x := x ^^^ (x <<< 13)
  let x := x ^^^ (x >>> 17)
  let x := x ^^^ (x <<< 5)
  (x, x.toNat / 256)

/-! ### Arithmetic on encodings -/

/-- The flags and code of a rounded exact result; `.sat` then clamps it into [+0, 1.0] (14 R383). -/
def clampUnit (f : FFmt) (x : Nat) : Nat :=
  let one := f.bias * 2 ^ f.mb
  match f.decode x with
  | .nan _ => 0
  | .inf neg => if neg then 0 else one
  | .fin neg _ _ => if neg then 0 else if one < x then one else x

/-- RoundNE of an exact result, with the `.sat` clamp where asked. -/
def roundNE (f : FFmt) (sat : Bool) (x : Exact) : Nat × FFlags :=
  let (c, fl) := f.deliver .rne false x
  (if sat then clampUnit f c else c, fl)

def fAdd (f : FFmt) (sat : Bool) (a b : Nat) : Nat × FFlags :=
  roundNE f sat (exactSum [f.decode a, f.decode b])
def fSub (f : FFmt) (sat : Bool) (a b : Nat) : Nat × FFlags :=
  roundNE f sat (exactSum [f.decode a, (f.decode b).flip])
/-- The exact product, with IO for 0 × ∞ or a signalling NaN. -/
def exactMul (a b : FVal) : Exact :=
  match (productTerm a b).exact with
  | .nan _ => .nan (a.isSNaN || b.isSNaN || !(a.isNaN || b.isNaN))
  | x => x
def fMul (f : FFmt) (sat : Bool) (a b : Nat) : Nat × FFlags :=
  roundNE f sat (exactMul (f.decode a) (f.decode b))
def fFma (f : FFmt) (sat : Bool) (a b c : Nat) : Nat × FFlags :=
  roundNE f sat (exactFma (f.decode a) (f.decode b) (f.decode c))
def fLerp (f : FFmt) (sat : Bool) (a b c : Nat) : Nat × FFlags :=
  roundNE f sat (exactLerp (f.decode a) (f.decode b) (f.decode c))

/-- The order of two values that are not NaN: −1, 0 or 1 by sign of a − b; the zeros are equal. -/
def fOrder (a b : FVal) : Int :=
  match a, b with
  | .inf n, .inf n' => if n = n' then 0 else if n then -1 else 1
  | .inf n, _ => if n then -1 else 1
  | _, .inf n => if n then 1 else -1
  | x, y =>
    let e0 := min x.exp y.exp
    let p := if x.isZero then 0 else x.atExp e0
    let q := if y.isZero then 0 else y.atExp e0
    if p < q then -1 else if q < p then 1 else 0

/-- FMIN and FMAX (14 R384): a NaN gives way to a number, −0 is less than +0, nothing is rounded. -/
def fMinMax (f : FFmt) (wantMax : Bool) (a b : Nat) : Nat × FFlags :=
  let x := f.decode a
  let y := f.decode b
  let fl := if x.isSNaN || y.isSNaN then fIO else fNone
  if x.isNaN && y.isNaN then (f.canonNaN, fl)
  else if x.isNaN then (b, fl)
  else if y.isNaN then (a, fl)
  else
    let less := fOrder x y < 0 || (decide (fOrder x y = 0) && x.neg && !y.neg)
    (if less != wantMax then a else b, fl)

/-- FCMP's condition (14 R385): 0 eq, 1 ne, 2 lt, 3 le, 4 gt, 5 ge, 6 un, 7 ord. -/
def fCompare (f : FFmt) (cond : Nat) (a b : Nat) : Bool × FFlags :=
  let x := f.decode a
  let y := f.decode b
  let un := x.isNaN || y.isNaN
  let o := fOrder x y
  let r : Bool := match cond with
    | 0 => !un && decide (o = 0)
    | 1 => un || decide (o ≠ 0)
    | 2 => !un && decide (o < 0)
    | 3 => !un && decide (o ≤ 0)
    | 4 => !un && decide (o > 0)
    | 5 => !un && decide (o ≥ 0)
    | 6 => un
    | _ => !un
  let io := x.isSNaN || y.isSNaN || (un && decide (2 ≤ cond ∧ cond ≤ 5))
  (r, if io then fIO else fNone)

/-- FCLASS's mask (14 R385). -/
def fClass (f : FFmt) (a : Nat) : Nat :=
  match f.decode a with
  | .nan s => if s then 1 else 2
  | .inf n => if n then 4 else 512
  | .fin n m e =>
    if m = 0 then (if n then 32 else 64)
    else
      let sub := m < 2 ^ f.mb && decide (e = f.minExp)
      if n then (if sub then 16 else 8) else (if sub then 128 else 256)

/-- FRND (14 R390): an integral value in the source's own format; only a signalling NaN raises a flag,
and the operand's sign is kept. -/
def fRound (f : FFmt) (rm : RMode) (a : Nat) : Nat × FFlags :=
  match f.decode a with
  | .nan s => (f.canonNaN, if s then fIO else fNone)
  | .inf _ => (a, fNone)
  | .fin n m e =>
    if m = 0 then (a, fNone)
    else
      let (p, q) := inUnits m 1 e 0
      let t := (roundQuot rm n p q).1
      if t = 0 then (f.signBit n, fNone)
      else ((f.roundNum .rne false n t 1 0).1, fNone)

/-! ### Special functions (14 R386, R387)

The exact value is enclosed by an integer approximation in units of 2^-K; a free value is accepted
when it lies within the spec's bound of it, and the rounded approximation stands otherwise. -/

/-- The fixed-point scale of the approximations. -/
def spK : Nat := 160

/-- The integer square root of `n`, rounded down, bit by bit from bit `k`. -/
def isqrtGo (n : Nat) : Nat → Nat → Nat
  | 0, r => r
  | k + 1, r => let r' := r + 2 ^ k; isqrtGo n k (if r' * r' ≤ n then r' else r)
def isqrt (n : Nat) : Nat := isqrtGo n (n.log2 / 2 + 1) 0

/-- 2^(x / 2^K) in units of 2^-K, for x below 2^K: the product of the roots of two that x selects. -/
def exp2Go (x : Nat) : Nat → Nat → Nat → Nat
  | 0, _, acc => acc
  | k + 1, root, acc =>
    -- root stands for 2^(2^-(K-k-1+1)) in units of 2^-K
    let acc' := if bit x k then acc * root / 2 ^ spK else acc
    exp2Go x k (isqrt (root * 2 ^ spK)) acc'
def exp2Frac (x : Nat) : Nat := exp2Go x spK (isqrt (2 * 2 ^ spK * 2 ^ spK)) (2 ^ spK)

/-- log2 of m / 2^K, which lies in [1, 2), in units of 2^-K: by squaring. -/
def log2Go : Nat → Nat → Nat → Nat
  | 0, _, acc => acc
  | k + 1, m, acc =>
    let s := m * m / 2 ^ spK
    if 2 * 2 ^ spK ≤ s then log2Go k (s / 2) (acc + 2 ^ k) else log2Go k s acc
def log2Frac (m : Nat) : Nat := log2Go spK m 0

/-- The arctangent of 1/n in units of 2^-K, by its series. -/
def atanGo (n : Nat) : Nat → Nat → Nat → Int → Bool → Int
  | 0, _, _, acc, _ => acc
  | k + 1, p, i, acc, neg =>
    atanGo n k (p / (n * n)) (i + 2) (if neg then acc - (p / i : Nat) else acc + (p / i : Nat)) (!neg)
/-- π in units of 2^-K, by Machin's formula. -/
def piFix : Nat :=
  (4 * (4 * atanGo 5 90 (2 ^ spK / 5) 1 0 false - atanGo 239 40 (2 ^ spK / 239) 1 0 false)).toNat

/-- The alternating Taylor series of sine or cosine in units of 2^-K. -/
def trigGo (x2 : Nat) : Nat → Nat → Nat → Int → Bool → Int
  | 0, _, _, acc, _ => acc
  | k + 1, term, i, acc, neg =>
    trigGo x2 k (term * x2 / 2 ^ spK / ((i + 1) * (i + 2))) (i + 2)
      (if neg then acc - (term : Int) else acc + (term : Int)) (!neg)
/-- sin(2π t) for t in units of 2^-K. -/
def sinRev (t : Nat) : Int :=
  let x := 2 * piFix * t / 2 ^ spK
  trigGo (x * x / 2 ^ spK) 60 x 1 0 false
/-- cos(2π t) for t in units of 2^-K. -/
def cosRev (t : Nat) : Int :=
  let x := 2 * piFix * t / 2 ^ spK
  trigGo (x * x / 2 ^ spK) 60 (2 ^ spK) 0 0 false

/-- The natural logarithm of 2 in units of 2^-K: the series of 1 / (i 2^i). -/
def ln2Fix : Nat := ((List.range (spK + 8)).map fun i => 2 ^ spK / ((i + 1) * 2 ^ (i + 1))).foldl (· + ·) 0

/-- A value in units of 2^-K, of non-negative exponent or not. -/
def fixOf (m : Nat) (e : Int) : Nat :=
  let k : Int := e + spK
  if 0 ≤ k then m * 2 ^ k.toNat else m / 2 ^ (-k).toNat

/-- An approximation `(-1)^neg * n / d * 2^e` of a special function at a finite non-zero input, and
whether the value is exact. -/
structure Approx where
  neg : Bool
  n : Nat
  d : Nat
  e : Int
  exact : Bool
  deriving DecidableEq, Repr

/-- 1/x. -/
def apRcp (neg : Bool) (m : Nat) (e : Int) : Approx := ⟨neg, 1, m, -e, false⟩
/-- The square root, with a sticky bit that keeps its rounding right. -/
def apSqrt (m : Nat) (e : Int) : Approx :=
  let (m, e) := if e % 2 = 0 then (m, e) else (2 * m, e - 1)
  let w := m * 2 ^ 128
  let r := isqrt w
  ⟨false, 2 * r + (if r * r = w then 0 else 1), 1, e / 2 - 65, decide (r * r = w)⟩
/-- 1/√x. -/
def apRsq (m : Nat) (e : Int) : Approx :=
  let (m, e) := if e % 2 = 0 then (m, e) else (2 * m, e - 1)
  let r := isqrt m
  if r * r = m && decide (r = 2 ^ r.log2) then ⟨false, 1, r, -(e / 2), true⟩
  else ⟨false, isqrt (2 ^ 256 / m), 1, -(e / 2) - 128, false⟩
/-- 2^x. The whole part is held below 2^16, beyond every format's range. -/
def apExp2 (neg : Bool) (m : Nat) (e : Int) : Approx :=
  let v : Int := if neg then -(fixOf m e : Int) else fixOf m e
  let whole := v / (2 ^ spK : Nat)
  let frac := (v % ((2 ^ spK : Nat) : Int)).toNat
  let isInt := decide (0 ≤ e) || decide (m % 2 ^ (-e).toNat = 0)
  let w := max (-65536) (min 65536 whole)
  if isInt then ⟨false, 1, 1, w, true⟩ else ⟨false, exp2Frac frac, 1, w - spK, false⟩
/-- log2 x. -/
def apLog2 (m : Nat) (e : Int) : Approx :=
  let k := m.log2
  let whole : Int := e + k
  if m = 2 ^ k then
    ⟨decide (whole < 0), whole.natAbs, 1, 0, true⟩
  else
    let v : Int := whole * (2 ^ spK : Nat) + (log2Frac (m * 2 ^ spK / 2 ^ k) : Int)
    ⟨decide (v < 0), v.natAbs, 1, -(spK : Int), false⟩
/-- The fraction of x in revolutions, from 0 up to 1, in units of 2^-K, of a finite value whose bits
all fit (every format's do, but for values too small to matter, which keep their leading part). -/
def revOf (neg : Bool) (m : Nat) (e : Int) : Nat :=
  let v : Int := if neg then -(fixOf m e : Int) else fixOf m e
  (v % ((2 ^ spK : Nat) : Int)).toNat
/-- sin(2πx) and cos(2πx); exact at multiples of 0.25 (the caller gives zeros their sign). -/
def apTrig (cosine neg : Bool) (m : Nat) (e : Int) : Approx :=
  let four := fixOf (4 * m) e
  let isQuarter := decide (0 ≤ e + 2) || decide (m % 2 ^ (-(e + 2)).toNat = 0)
  let t := revOf neg m e
  let v : Int :=
    if isQuarter then
      let q := ((if neg then -((four / 2 ^ spK : Nat) : Int) else (four / 2 ^ spK : Nat)) % 4).toNat
      let q := if cosine then (q + 1) % 4 else q
      if q = 1 then (2 ^ spK : Nat) else if q = 3 then -((2 ^ spK : Nat) : Int) else 0
    else if cosine then cosRev t else sinRev t
  ⟨decide (v < 0), v.natAbs, 1, -(spK : Int), isQuarter⟩
/-- tanh x: by its first terms where x is small, by exponentials elsewhere. -/
def apTanh (neg : Bool) (m : Nat) (e : Int) : Approx :=
  if floorLog2 m 1 e < -16 then
    -- x (1 - x²/3)
    let s := fixOf (m * m) (2 * e) / 3
    ⟨neg, m * (2 ^ spK - s), 1, e - spK, false⟩
  else if 5 < floorLog2 m 1 e then ⟨neg, 2 ^ spK - 1, 1, -(spK : Int), false⟩
  else
    let y := 2 * fixOf m e * 2 ^ spK / ln2Fix
    let whole := y / 2 ^ spK
    let ex := exp2Frac (y % 2 ^ spK) * 2 ^ whole
    ⟨neg, ex - 2 ^ spK, ex + 2 ^ spK, 0, false⟩

/-- The bound of 14 R386 as a quotient of naturals times a power of two: an absolute bound where the
table gives one, otherwise `k` spacings `2^q` of the format at the candidate result. -/
structure Bound where
  ulps : Nat
  absolute : Option Int
  deriving DecidableEq, Repr

/-- |c - a| ≤ bound, for a finite candidate `(-1)^neg m 2^e` and an approximation. -/
def withinBound (a : Approx) (neg : Bool) (m : Nat) (e q : Int) (b : Bound) : Bool :=
  let base := min (min a.e e) (match b.absolute with | some x => min x q | none => q)
  let av : Int := ((a.n * 2 ^ (a.e - base).toNat : Nat) : Int) * (if a.neg then -1 else 1)
  let cv : Int := ((m * 2 ^ (e - base).toNat * a.d : Nat) : Int) * (if neg then -1 else 1)
  let bv : Nat := (match b.absolute with
    | some x => 2 ^ (x - base).toNat
    | none => b.ulps * 2 ^ (q - base).toNat) * a.d
  decide ((cv - av).natAbs ≤ bv)

/-- The flags of an inexact delivered code: a tiny one that is not zero is an underflow too (10 R277). -/
def inexactFlags (f : FFmt) (c : Nat) : FFlags :=
  match f.decode c with
  | .fin _ m _ => if 0 < m ∧ m < 2 ^ f.mb then fNX ||| fUF else fNX
  | _ => fNX

/-- The code delivered for an approximation: exact values and the correctly rounded functions are
rounded; the others take the free value of Config where the bound admits it. NX is raised for every
result that is not exact. -/
def spDeliver (f : FFmt) (fn fmt x : Nat) (a : Approx) (b : Bound) (correct : Bool) : Nat × FFlags :=
  if a.n = 0 then (f.signBit a.neg, fNone)
  else
    let (c, fl) := f.roundNum .rne false a.neg a.n a.d a.e
    if a.exact || correct then (c, fl)
    else
      let free := Config.freeSpecial fn fmt x % 2 ^ f.width
      let nx := fl ||| fNX
      if fl &&& fOF ≠ 0#5 then (c, nx)
      else match f.decode free with
        | .fin neg m e =>
          if withinBound a neg m e e b then
            (free, inexactFlags f free ||| (if m = 0 then nx else fNone))
          else (c, nx ||| inexactFlags f c)
        | _ => (c, nx ||| inexactFlags f c)

/-- A special function of one element: `fn` 0 FRCP, 1 FRSQ, 2 FSQRT, 3 FEXP2, 4 FLOG2, 5 FSIN, 6 FCOS,
7 FTANH (14 R386), with the special inputs of 14 R387. -/
def fSpecial (f : FFmt) (fmt fn x : Nat) : Nat × FFlags :=
  let zero (n : Bool) := f.signBit n
  let inf (n : Bool) := f.signBit n + f.infCode
  let one (n : Bool) := f.signBit n + f.bias * 2 ^ f.mb
  let nan := f.canonNaN
  let absBound : Int := if fmt = 0 then -22 else -10
  match f.decode x with
  | .nan s => (nan, if s then fIO else fNone)
  | .inf neg =>
    match fn with
    | 0 => (zero neg, fNone)
    | 1 => if neg then (nan, fIO) else (zero false, fNone)
    | 2 => if neg then (nan, fIO) else (inf false, fNone)
    | 3 => (if neg then zero false else inf false, fNone)
    | 4 => if neg then (nan, fIO) else (inf false, fNone)
    | 5 => (nan, fIO)
    | 6 => (nan, fIO)
    | _ => (one neg, fNone)
  | .fin neg m e =>
    if m = 0 then
      match fn with
      | 0 => (inf neg, fDZ)
      | 1 => (inf neg, fDZ)
      | 2 => (zero neg, fNone)
      | 3 => (one false, fNone)
      | 4 => (inf true, fDZ)
      | 5 => (zero neg, fNone)
      | 6 => (one false, fNone)
      | _ => (zero neg, fNone)
    else
      match fn with
      | 0 => spDeliver f fn fmt x (apRcp neg m e) ⟨1, none⟩ true
      | 1 => if neg then (nan, fIO) else spDeliver f fn fmt x (apRsq m e) ⟨1, none⟩ false
      | 2 => if neg then (nan, fIO) else spDeliver f fn fmt x (apSqrt m e) ⟨1, none⟩ true
      | 3 => spDeliver f fn fmt x (apExp2 neg m e) ⟨2, none⟩ false
      | 4 =>
        if neg then (nan, fIO)
        else
          let near := decide (floorLog2 m 1 e = -1) || decide (floorLog2 m 1 e = 0)
          spDeliver f fn fmt x (apLog2 m e) ⟨2, if near then some absBound else none⟩ false
      | 5 => spDeliver f fn fmt x (apTrig false neg m e) ⟨0, some absBound⟩ false
      | 6 => spDeliver f fn fmt x (apTrig true neg m e) ⟨0, some absBound⟩ false
      | _ => spDeliver f fn fmt x (apTanh neg m e) ⟨2, none⟩ false

/-! ### Block scales and quantising (10 R280–R284, R288, R289) -/

/-- A scale: none, a NaN scale, a zero scale, or a value `m * 2^e`. -/
inductive Scale where
  | none
  | nan
  | zero
  | val (m : Nat) (e : Int)
  deriving DecidableEq, Repr

/-- The value of a scale code (10 R280): format 1 E8M0, 2 UE4M3. -/
def scaleOf (sfmt code : Nat) : Scale :=
  match sfmt with
  | 0 => .none
  | 1 => if code % 256 = 255 then .nan else .val 1 ((code % 256 : Nat) - (127 : Int))
  | _ =>
    let c := code % 256
    if 127 ≤ c then .nan
    else if c = 0 then .zero
    else .val (e4m3.magOf c).1 (e4m3.magOf c).2

/-- The exact value of a scaled element (10 R282). -/
def scaled (v : FVal) (sc : Scale) (off : Int) : FVal :=
  match sc, v with
  | .none, v => v
  | .nan, _ => .nan false
  | .zero, .nan s => .nan s
  | .zero, v => .fin v.neg 0 0
  | .val m e, .fin n m' e' => .fin n (m * m') (e + e' + off)
  | .val _ _, v => v

/-- The eight weights of a codebook index with its table entry (10 R284): sign and twice the
magnitude. -/
def cbDecode (x entry : Nat) : List (Bool × Nat) :=
  let half := x % 2
  let s := (List.range 7).map fun i => bit x (i + 1)
  let s7 := (s.filter id).length % 2 = 1
  (List.range 8).map fun i => (if i = 7 then s7 else s.getD i false, 2 * bits entry (4 * i + 3) (4 * i) + half)

/-- A decoded weight as a value. -/
def weightVal (w : Bool × Nat) : FVal := .fin w.1 w.2 (-1)

/-- The greatest magnitude among finite elements, as a significand at the least exponent of FP32. -/
def blockMax (vs : List FVal) : Nat :=
  vs.foldl (fun acc v => match v with
    | .fin _ m e => max acc (m * 2 ^ (e - fp32.minExp).toNat)
    | _ => acc) 0

/-- `maxf` of a quantisation target as significand and exponent (10 R288). -/
def quantMax (fmt : Nat) : Nat × Int :=
  match floatFmt fmt with
  | some f => f.magOf f.maxCode
  | none => match intFmt fmt with
    | some (_, _, hi) => (hi.toNat, 0)
    | none => (1, 0)

/-- The least integer E from a lower bound for which `amax <= maxf * 2^(E + OFF)`. -/
def leastE (amax : Nat) (mf : Nat × Int) (off : Int) : Nat → Int → Int
  | 0, e => e
  | k + 1, e =>
    let lhs := inUnits amax 1 fp32.minExp (mf.2 + e + off)
    if lhs.1 ≤ mf.1 * lhs.2 then e else leastE amax mf off k (e + 1)

/-- The scale code of a block (10 R288). -/
def chooseScale (fmt sfmt : Nat) (off : Int) (amax : Nat) : Nat :=
  if amax = 0 then (if sfmt = 1 then 0x7F else 0x38)
  else
    let mf := quantMax fmt
    if sfmt = 1 then
      (satInt (leastE amax mf off 700 (-420) + 127) 0 254).toNat
    else
      -- the least UE4M3 value >= amax / (maxf * 2^OFF)
      let ok (c : Nat) : Bool :=
        let (m, e) := e4m3.magOf c
        let (a, b) := inUnits amax 1 fp32.minExp (mf.2 + off + e)
        decide (a ≤ m * mf.1 * b)
      match (List.range 126).find? (fun i => ok (i + 1)) with
      | some i => i + 1
      | none => 0x7E

/-- One element of a block converted under its scale: rounded, and held to ±maxf with OF and NX where
it would round beyond (10 R288, R289). -/
def quantElem (fmt : Nat) (rm : RMode) (v : FVal) (sc : Scale) (off : Int) : Nat × FFlags :=
  let (sm, se) : Nat × Int := match sc with | .val m e => (m, e) | _ => (1, 0)
  let ex : Exact := match v with
    | .fin n m e => if m = 0 then .zero n else .num n m sm (e - se - off)
    | .inf n => .inf n false
    | .nan _ => .nan true
  match floatFmt fmt with
  | some f => f.deliver rm true ex
  | none =>
    let w := fmtWidth fmt
    let mx := (quantMax fmt).1
    match ex with
    | .inf n _ => (wrapInt w (if n then -(mx : Int) else mx), fOF ||| fNX)
    | .num n a d e =>
      let (p, q) := inUnits a d e 0
      let (t, inexact) := roundQuot rm n p q
      if mx < t then (wrapInt w (if n then -(mx : Int) else mx), fOF ||| fNX)
      else
        let tinyZero := decide (t = 0) && inexact
        (wrapInt w (if n then -(t : Int) else t), if tinyZero then fNX else if inexact then fNX else fNone)
    | _ => (0, fNone)

end Sys2Proof.Machine
end

