-- ==== Sys2Proof/Machine/Microcode.lean ====
section
/-! DEFINITION. The standard microcode of the intersection unit (17 R496, R499). -/
namespace Sys2Proof.Machine
open Sys2Proof

/-- A micro-step from its fields (17 R496). -/
def microWord (op dm am bm cm rotA rotB : Nat) (negC : Bool) (dc : Nat) (last : Bool) (aux : Nat) : Nat :=
  op * 2 ^ 59 + dm * 2 ^ 54 + am * 2 ^ 49 + bm * 2 ^ 44 + cm * 2 ^ 39 + rotA * 2 ^ 37 + rotB * 2 ^ 35
  + (if negC then 2 ^ 34 else 0) + dc * 2 ^ 32 + (if last then 2 ^ 31 else 0) + aux

/-- The box program of slot 0. -/
def boxProgram : List Nat :=
  [0x0310218000000000, 0x0352218000000000, 0x0B98D00000000000, 0x13D8D00000000000, 0x239C400000000000,
    0x501CF00080000002]

/-- The triangle program of slot 1. -/
def triangleProgram : List Nat :=
  [microWord 0 12 9 7 8 0 0 true 0 false 0, microWord 0 13 10 7 8 0 0 true 0 false 0,
   microWord 0 14 0 7 8 0 0 true 0 false 0,
   microWord 0 15 1 13 6 2 1 false 0 false 0, microWord 0 15 1 13 15 1 2 true 0 false 0,
   microWord 0 16 14 12 6 2 1 false 0 false 0, microWord 0 16 14 12 16 1 2 true 0 false 0,
   microWord 5 17 12 15 7 0 0 false 0 false 0,
   microWord 5 18 14 15 17 0 0 false 1 false 0, microWord 5 18 1 16 17 0 0 false 2 false 0,
   microWord 5 18 13 16 17 0 0 false 3 false 0,
   microWord 10 0 18 0 0 0 0 false 0 true 1]

/-- The bytes of a slot that holds a program. -/
def slotBytes (p : List Nat) : List Byte := (p ++ List.replicate (32 - p.length) 0).flatMap (leBytes 8)

end Sys2Proof.Machine
end

