-- ==== Sys2Proof/Machine/State.lean ====
section
/-! DEFINITION. The state of the device as plain data, its state after reset, and the two ways in which a
step can stop. Each field names the rule of the spec that gives it. -/
namespace Sys2Proof.Machine
open Sys2Proof

/-- Why the machine stops with a fault of the model. The faults the spec describes are no stops: they are
taken (11 R290 to R298). -/
inductive Fault where
  /-- Raised by the meaning of an SVJ instruction when no group is issuing: an instruction acts only for
  the group that issues it (07 R194). Safe: the hardware has no such event. -/
  | noIssuingGroup
  deriving DecidableEq, Repr

/-- Why an instruction is refused. -/
inductive Refusal where
  /-- An instruction that has no meaning yet. Safe: nothing is claimed of it. -/
  | notModelled (mnemonic : String)
  deriving DecidableEq, Repr

/-! ### Memory -/

/-- A byte store: the listed cells in rising address order; an unlisted address reads as zero. -/
abbrev Mem := List Host.Cell

/-- Where poison arose (05 R137): the store and the unit. -/
structure Poison where
  source : Nat
  unit : Nat
  deriving DecidableEq, Repr

/-- The poisoned 32-byte sectors of a store, by address (05 R130). -/
abbrev Poisons := List (Nat × Poison)

/-! ### Registers of a group -/

/-- The role of a group (06 R178). -/
inductive Role where
  | general
  | vector
  | hod
  | matrix
  deriving DecidableEq, Repr

/-- A vector register's value with its shape (08 R220). -/
inductive VVal where
  | uniform (b : Word)
  | affine (b s : Word)
  | general (l : List Word)
  deriving DecidableEq, Repr

/-- A vector register: its value, its format tag (08 R225; 0 while resident), and a poisoned register-file entry of it
(05 R130): which one of its shape's entries. -/
structure VReg where
  val : VVal
  tag : Nat
  poison : Option (Nat × Poison)
  deriving DecidableEq, Repr

/-- A mask-stack entry (13 R339). -/
inductive MaskEntry where
  | ifE (hasElse past : Bool) (elsePc endPc : DWord) (pend join : Lanes)
  | loopE (bodyPc exitPc : DWord) (cont out : Lanes)
  | callE (retPc : DWord)
  deriving DecidableEq, Repr

/-- A parked sub-group (11 R294, R295) and the depth at which it was parked. -/
structure Park where
  mask : Lanes
  pc : DWord
  info : DWord
  depth : Nat
  deriving DecidableEq, Repr

/-- Who of a group with parked lanes is running (11 R305, PSTATE). -/
inductive PState where
  | none
  | others
  | handler
  | resumed
  deriving DecidableEq, Repr

/-- A reconvergence point (11 R294): its depth, its pc at depth zero, and the lanes that stand there. -/
structure Reconv where
  depth : Nat
  pc : DWord
  waiting : Lanes
  /-- who was running when the point was set: the group is there again once its wait is over -/
  outer : PState
  deriving DecidableEq, Repr

/-- A subscription-table entry (13 R354): the object's offset, the subscribed lanes, and those of them
that have arrived in the current phase. -/
structure SubEntry where
  off : Nat
  lanes : Lanes
  arrived : Lanes
  deriving DecidableEq, Repr

/-- A fault (11 R290): its code, ADDR (none for the address of the instruction), DETAIL, and what its
record carries besides: the record's DETAIL bytes as one number, SOURCE, UNIT and PADDR, and whether
ADDR is a segment offset (08 R230). -/
structure FaultInfo where
  code : Nat
  addr : Option DWord
  detail : Nat
  bytes : Nat
  poison : Option Poison
  paddr : Nat
  /-- ADDR is an offset in the block's shared segment -/
  seg : Bool
  deriving DecidableEq, Repr

/-- The wake condition of a blocked group (06 R182). -/
inductive Wake where
  | slice
  /-- BAR or BAR.WAIT: until the block's phase passes this one. -/
  | bar (phase : Nat)
  /-- BOBJ.WAIT: until the object's phase bit leaves this value. -/
  | bobj (off : Nat) (phase : Bool)
  | sem (n : Nat) (v : Word)
  | waitc
  | ring (r : Nat)
  /-- TILE.GET: for a half of the pass of a descriptor -/
  | tile (desc : Nat)
  | msg (chan : Nat)
  /-- a GLD that misses: until the lines named are returned -/
  | fill (lines : List Nat)
  | cnt (cls n : Nat)
  /-- SLEEP.UNTIL, SLEEP.CYC: until the cell counter reaches this time. -/
  | sleep (t : Nat) (promises missed : Bool)
  | yield
  /-- a matrix-role group stopped at a K-step boundary with its sequencer stopped: until the scheduler restarts it -/
  | kstep
  deriving DecidableEq, Repr

/-- What a group is doing (06 R181, R182; 07 R204 to R208; 09 R250, held). -/
inductive Status where
  | ready
  | running
  | blocked (w : Wake)
  | held
  /-- saved with its block, with its wake condition if it waits (06 R187, R188) -/
  | evicted (w : Option Wake)
  | ended
  | endedTail
  | tracked
  | free
  deriving DecidableEq, Repr

/-- A fetched clause (12 R313, R326): its address, its header and body words, and the poison of each. -/
structure Clause where
  addr : DWord
  words : List Word
  poison : List (Option Poison)
  deriving DecidableEq, Repr

/-- What kind of register-targeted pending result this is (07 R205), and what it still waits for. -/
inductive PendKind where
  /-- data taken at issue; only the landing is to come -/
  | plain
  /-- an RSLOT.LD of a return slot (15 R424): 64 bits wide or not -/
  | rslot (slot : Nat) (wide : Bool)
  /-- a result of an operation of counter class 2 or 1 -/
  | op (id : Nat)
  deriving DecidableEq, Repr

/-- Poison that a pending result carries to its register, where it is consumed (05 R131; 15 R412): the poison, its
virtual and physical address. -/
structure PendPoison where
  poison : Poison
  addr : Nat
  paddr : Nat
  deriving DecidableEq, Repr

/-- A register-targeted pending result: destination registers with a value for each lane, the lanes it
writes, whether it is one uniform value, and poison met with the address consumed. -/
structure Pend where
  regs : List Nat
  vals : List (List Word)
  lanes : Lanes
  uniform : Bool
  ready : Bool
  kind : PendKind
  poison : Option PendPoison
  deriving DecidableEq, Repr

/-- An outstanding operation of a counter class (09 R259 to R263). -/
structure OpRec where
  id : Nat
  cls : Nat
  done : Bool
  promise : Nat
  bobj : Option Nat
  fault : Option FaultInfo
  deriving DecidableEq, Repr

/-- One level of a group's chain of gate calls (13 R343 to R348). -/
structure GateLevel where
  callerCtx : Nat
  callerSys : Bool
  idx : Nat
  frame : Nat
  start : Nat
  budget : Nat
  active : Lanes
  depth : Nat
  ns : Nat
  nv : Nat
  stackBase : Nat
  stack : Nat
  retPc : DWord
  /-- the caller's own retired operations whose fault is still to be raised (11 R291, 13 R349) -/
  deferred : List OpRec
  deriving DecidableEq, Repr

/-- Where a group stands (07 R193, 13 R337). -/
structure GLoc where
  cell : Nat
  sub : Nat
  quad : Nat
  slot : Nat
  abacus : Bool
  deriving DecidableEq, Repr

/-- What a group is (06 R178, 07 R190, R209). -/
structure GIdent where
  block : Nat
  seg : Nat
  role : Role
  vregs : Nat
  budget : Nat
  ctx : Nat
  sys : Bool
  quadMode : Bool
  relaunched : Bool
  pfail : Bool
  tidx : List Nat
  key : List Word
  pseq : List Word
  gen : List Word
  /-- the tile-ticket binding of each lane (17 R475): the ticket's number, the half and the lane of the half -/
  binds : List (Option Nat)
  deriving DecidableEq, Repr

/-- The registers of a group (08 R217). -/
structure GRegs where
  v : List VReg
  s : List Word
  k : List Lanes
  /-- vector registers by time of last write, the least recent first (08 R224) -/
  order : List Nat
  pend : List Pend
  deriving DecidableEq, Repr

/-- Control flow of a group (07 R194 to R197, 12 R318, 06 R181 to R184). -/
structure GCtl where
  pc : DWord
  clause : Option Clause
  live : Lanes
  act : Lanes
  helper : Lanes
  stack : List MaskEntry
  runCount : Nat
  /-- instructions executed, the model's own count for skids -/
  issued : Nat
  status : Status
  /-- the wake condition of the blocked instruction came true; it completes when it issues again -/
  wakeHit : Bool
  readyTime : Nat
  loss : Nat
  promoted : Bool
  sliceWait : Bool
  heldClocks : Nat
  /-- the held release or drain of the instruction in progress has been carried out -/
  drained : Bool
  /-- what an instruction held in place within a gate call has begun: the time a SLEEP.CYC waits for, or any
  number once a WAITC has armed its monitor (13 R347) -/
  begun : Option Nat
  /-- a promise missed at the end of a sleep whose PROMISE_MISSED is still to be raised, with its time -/
  missed : Option Nat
  deriving DecidableEq, Repr

/-- Trap handling of a group (11 R293 to R296, R301, R226). -/
structure GTrap where
  parked : List Park
  pstate : PState
  reconv : List Reconv
  hdepth : Nat
  /-- a fault raised of kind G at the group's next instruction (08 R226, 11 R306, R308; 13 R346) -/
  atNext : Option FaultInfo
  /-- UNCORRECTABLEs within their skids: the fault, and the counts of executed instructions at which the skid
  began and ends (05 R132) -/
  skid : List (FaultInfo × Nat × Nat)
  /-- a callee fault whose return still waits for the call's operations, with the PC and the skid of its record
  (13 R349) -/
  callee : Option (FaultInfo × DWord × Nat)
  deriving DecidableEq, Repr

/-- Special registers of a group (13 R336, R337). -/
structure GSpecial where
  gtimer : Nat
  gtcmp : Nat
  promise : Nat
  tvec : DWord
  fpctl : Word
  fpstat : Word
  seed : Word
  migrate : Word
  derivflag : Word
  gatestat : Word
  blockid : Word
  privbase : Nat
  privsize : Nat
  deriving DecidableEq, Repr

/-- Asynchronous state of a group (09 R259, 13 R354, R361, 15 R424, R437; 09 R267). -/
structure GAsync where
  /-- the four outstanding-operation counters -/
  cnt : List Nat
  ops : List OpRec
  nextOp : Nat
  /-- retired operations whose fault of kind D is still to be raised (11 R291, 15 R431) -/
  deferred : List OpRec
  subs : List SubEntry
  ringHeld : List Nat
  /-- return slots: lanes with a reply outstanding, and the scope of the acquiring ATOM that used the slot -/
  rsOut : List Lanes
  rsAcq : List (Option Nat)
  acq : Nat
  /-- the groups whose threads this group took over from continuation records: their writes are its own threads' (09 R269) -/
  heirs : List Nat
  gates : List GateLevel
  deriving DecidableEq, Repr

/-- A palette reservation record (16 R449), its fields decoded: V, BASE in bytes, LEN in 256-byte units,
SCALE, KCAP, and bits [30:0] as written. -/
structure PalRec where
  held : Bool
  base : Nat
  len : Nat
  scale : Nat
  kcap : Nat
  low : Nat
  deriving DecidableEq, Repr

/-- A matrix operand as its instruction named it at issue: a cell-store operand's 64 bits (16 R447), or a
palette reservation's record with the base of its lattice table (16 R449, R456). -/
inductive MatSrc where
  | cell (v : Nat)
  | pal (r : PalRec) (lut : Nat)
  deriving DecidableEq, Repr

/-- A matrix operation (16 R443), its operands as read at issue. -/
inductive MatOp where
  | mode (m : Nat)
  | mma (clear : Bool) (tile : Nat) (a b : MatSrc)
  | zero (tile : Nat)
  | sync (bobj : Nat)
  | scale (tile : Nat) (f : Nat)
  | fill (r : PalRec) (src first count bobj : Nat)
  | fillK (r : PalRec) (src n dst bobj : Nat)
  | release (base : Option Nat)
  | drain (tile dst ctl : Nat)
  | load (tile src : Nat)
  | clear (tile n : Nat)
  deriving DecidableEq, Repr

/-- A queue entry of a matrix group (16 R443, 11 R307): the operation, its number among the group's
outstanding operations, the instruction word, the operand pairs as read at issue, and the K-steps already
added. -/
structure MatEntry where
  op : MatOp
  id : Nat
  word : Nat
  av : Nat
  bv : Nat
  kdone : Nat
  deriving DecidableEq, Repr

/-- Matrix state of a group (16 R444, R449, R443): the mode the engine is in and the mode of the latest
BEAD.MODE issued, the reservation records, the matrix queue. -/
structure GMatrix where
  mode : Nat
  issueMode : Nat
  pal : List PalRec
  queue : List MatEntry
  deriving DecidableEq, Repr

/-- A WAITC monitor (09 R258, 13 R360, R361): the physical and virtual address, the width in bytes, the
condition, the comparison value, whether it has matched, and whether it is polled for want of a free
monitor. -/
structure Monitor where
  pa : Nat
  wide : Bool
  cond : Nat
  value : Nat
  matched : Bool
  polled : Bool
  deriving DecidableEq, Repr

/-- A candidate or hit of a traversal (17 R495): t, u, v and the primitive's index. -/
structure Hit where
  t : Word
  u : Word
  v : Word
  prim : Nat
  deriving DecidableEq, Repr

/-- The traversal of one lane (17 R493 to R495): the scene, the ray's eight words, the flags, the stack with
each entry's t, the best hit so far, the candidates of the run in progress still to be taken, the leaf's
slot, next primitive and primitives left, and the candidate that pauses it. -/
structure Trav where
  entries : Nat
  prims : Nat
  boxSlot : Nat
  ray : List Word
  any : Bool
  first : Bool
  stack : List (Nat × Word)
  tbest : Word
  best : Option Hit
  ems : List Hit
  slot : Nat
  prim : Nat
  left : Nat
  cand : Option Hit
  deriving DecidableEq, Repr

/-- An issue group (07 R193). -/
structure Group where
  loc : GLoc
  id : GIdent
  regs : GRegs
  ctl : GCtl
  trap : GTrap
  sr : GSpecial
  asy : GAsync
  mat : GMatrix
  mons : List Monitor
  /-- paused traversals by lane (17 R495) -/
  paused : List (Nat × Trav)
  deriving DecidableEq, Repr

/-! ### Blocks and regions -/

/-- A role segment of an RCB (06 R165). -/
structure Segment where
  en : Bool
  role : Role
  threads : Nat
  vregs : Nat
  budget : Nat
  pc : DWord
  deriving DecidableEq, Repr

/-- A ring declaration of an RCB (06 R166). -/
structure RingDecl where
  en : Bool
  prod : Nat
  cons : Nat
  depth : Nat
  deriving DecidableEq, Repr

/-- The fault domain of a region (06, FDOM; 05 R132, 11 R298). -/
inductive FDom where
  | report
  | terminate
  | rollback
  deriving DecidableEq, Repr

/-- The race tag of a 32-byte sector of a shared segment (09 R267): WRITER, WSEQ, and the publication of
the write once there is one; for a write by an operation, the operation's number in its group. -/
structure RaceTag where
  rank : Nat
  sector : Nat
  writer : Nat
  wseq : Nat
  pub : Option Nat
  op : Option Nat
  deriving DecidableEq, Repr

/-- An index entry of the regrouping unit (07 R211), with the state of its record. -/
structure IndexEntry where
  block : Nat
  seg : Nat
  tidx : Nat
  resume : DWord
  key : Word
  quad : Bool
  helper : Bool
  ticket : Option Nat
  pseq : Word
  ready : Bool
  cell : Nat
  /-- ACQ of the capturing group, and the groups whose writes are the thread's (09 R269) -/
  acq : Nat
  heirs : List Nat
  deriving DecidableEq, Repr

/-- A hardware ring (06 R175, 15 R436). -/
structure Ring where
  bound : Bool
  head : Nat
  tail : Nat
  phase : BitVec 8
  state : List Nat
  deriving DecidableEq, Repr

/-- A barrier interval's shadow (05 R138): each group and the shared segments as they were at the barrier, with
the rings that ring words mirror, the barrier's state, the threads then in records, and the release-sequence
counters. -/
structure Shadow where
  groups : List (Nat × Group)
  segs : List (Nat × Mem)
  segPoison : List (Nat × Poisons)
  rings : List Ring
  index : List IndexEntry
  barE : Nat
  dropped : List (Nat × Nat)
  lastphase : List ((Nat × Nat) × Nat)
  rs : List Nat
  deriving DecidableEq, Repr

/-- A palette reservation in a save image: its group, base, units of 256 bytes, bytes and poison. -/
structure PalSave where
  group : Nat
  base : Nat
  units : Nat
  bytes : Mem
  poison : Poisons
  deriving DecidableEq, Repr

/-- What a save image holds besides the saved groups, which keep their places in the list of groups (11 R303
to R308): the shared segments by cell rank with their poison, the index entries, and for each matrix-role
group its counting-board tiles with the poisoned elements of its window, and its palette reservations: base,
units, bytes and poison. -/
structure Image where
  segs : List Mem
  segPoison : List Poisons
  index : List IndexEntry
  tiles : List (Nat × Nat × List Word)
  tilePoison : List (Nat × Nat × Poison)
  pals : List PalSave
  /-- the model's own: the key of the image's opaque mask-stack bytes among the free values (assumption 4) -/
  mark : Nat
  deriving DecidableEq, Repr

/-- A block (07 R201, R202). -/
structure Block where
  region : Nat
  index : Nat
  ctx : Nat
  part : Nat
  resident : Bool
  placed : Bool
  retired : Bool
  terminated : Bool
  cells : List Nat
  barP : Nat
  barE : Nat
  barA : Nat
  arrived : List (Nat × Nat)
  dropped : List (Nat × Nat)
  lastphase : List ((Nat × Nat) × Nat)
  /-- the window offset of the shared segment on each cell, by rank (08 R230) -/
  segBase : List Nat
  shared : Nat
  /-- the window offset of the shadow area on each cell, by rank, under rollback (05 R138, 08 R230) -/
  shadowBase : List Nat
  ucap : Nat
  fdom : FDom
  rings : List RingDecl
  /-- hardware rings bound to the declarations (06 R175) -/
  ringHw : List Nat
  privBase : Nat
  privLen : Nat
  privw : Nat
  imageBase : Nat
  imageLen : Nat
  /-- release-sequence counters by rank (09 R267) -/
  rs : List Nat
  tags : List RaceTag
  shadow : Option Shadow
  early : Bool
  retries : Nat
  /-- a rollback is due: every group of the block is stopped (05 R142) -/
  rollPending : Bool
  image : Option Image
  deriving DecidableEq, Repr

/-- A region (06 R164 to R172). -/
structure Region where
  ctx : Nat
  part : Nat
  rcb : DWord
  cls : Nat
  prio : Nat
  depth : Nat
  parent : Option Nat
  /-- the block whose group launched it (13 R363) -/
  byBlock : Option Nat
  sys : Bool
  bwcap : Nat
  qset : List (Nat × Nat)
  grid : Nat
  segs : List Segment
  rings : List RingDecl
  shared : Nat
  privw : Nat
  ucap : Nat
  fdom : FDom
  gang : Bool
  slice : Nat
  doneAddr : DWord
  doneVal : Nat
  doneIrq : Bool
  coat : Option Nat
  mustSave : DWord
  ways : Nat
  /-- blocks not yet placed for the first time start at this index -/
  nextBlock : Nat
  order : Nat
  admitted : Bool
  waiting : Bool
  complete : Bool
  anyTerminated : Bool
  /-- charge by cell (06 R185) and the cells on which its slice has ended (06 R186) -/
  charge : List (Nat × Nat)
  sliceEnded : List Nat
  /-- by cell the clock charged last -/
  charged : List (Nat × Nat)
  /-- a gang that keeps its quadrants from regions ordered at or below it until it is placed (06 R176) -/
  barring : Bool
  privPool : Nat
  privPoolLen : Nat
  spillBase : Nat
  deriving DecidableEq, Repr

/-! ### Cells, quadrants, panes, partitions on a cell -/

/-- A cell-cache line (08 R231, R232): its line number, the bytes that are valid, dirty and uncommitted,
and the block whose uncommitted bytes it holds. -/
structure CLine where
  line : Nat
  valid : BitVec 128
  dirty : BitVec 128
  uncommitted : BitVec 128
  owner : Option Nat
  deriving DecidableEq, Repr

/-- An entry of the dirty-line FIFO (09 R249, R250): a line, or the marker of a group's release. -/
inductive FifoEntry where
  | line (l : Nat)
  | marker (g : Nat)
  deriving DecidableEq, Repr

/-- A message in a slot or on its way (15 R438, R439). -/
structure Msg where
  ctx : Nat
  chan : Nat
  tag : Word
  sender : Word
  payload : List Byte
  poison : Poisons
  deriving DecidableEq, Repr

/-- A message sent and not yet delivered (15 R439): the sending group and its operation. -/
structure MsgInFlight where
  group : Nat
  op : Nat
  dest : Nat
  msg : Msg
  /-- the sending cell's message endpoint has granted it (03 R76) -/
  granted : Bool
  deriving DecidableEq, Repr

/-- A 32-byte sector of the home copy held in a read-only cache: a quadrant's instruction cache (12 R326), or a cell's
texture cache (09 R251, R261). The key is the context that fetched it; a texture cache keys no sector by context. -/
structure CacheSector where
  key : Nat
  sector : Nat
  bytes : List Byte
  poison : Option Poison
  deriving DecidableEq, Repr

/-- What a partition holds on a cell (08 R229 to R232, R241; 09 R249): the bytes of its window with their
poison, the cell cache with its lines in order of use, the least recent first, its bytes by physical
address and their poison, the dirty-line FIFO, the allocations of the dynamic area, the waiting
messages. -/
structure Window where
  part : Nat
  cell : Nat
  mem : Mem
  poison : Poisons
  lines : List CLine
  cache : Mem
  cachePoison : Poisons
  fifo : List FifoEntry
  allocs : List (Nat × Nat)
  msgs : List Msg
  /-- uncommitted stores in the order they were performed (05 R141): block and line -/
  uorder : List (Nat × Nat)
  /-- the cell's texture-cache entries for the partition (09 R251, R261) -/
  tex : List CacheSector
  deriving DecidableEq, Repr

/-- A hod request queued or in progress (15 R426 to R432). -/
structure HodReq where
  group : Nat
  op : Nat
  fn : Nat
  desc : List Byte
  aux : Nat
  bobj : Option Nat
  bytes : Nat
  deriving DecidableEq, Repr

/-- A translation held in a TLB (08 R241): function, ASID, virtual page base, page size, physical base,
and the combined permissions and memory type. -/
structure TlbEntry where
  func : Nat
  asid : Nat
  va : Nat
  size : Nat
  pa : Nat
  w : Bool
  u : Bool
  xn : Bool
  mem : Nat
  /-- guest-physical base of the page, for stage-2 invalidation (03 R97) -/
  gpa : Nat
  /-- the level of the stage-1 leaf, which PERMISSION records (08 R239) -/
  level : Nat
  deriving DecidableEq, Repr

/-- A page walk asked for (08 R241): the quadrant that missed, the context and the address. -/
structure Walk where
  cell : Nat
  quad : Nat
  ctx : Nat
  va : Nat
  deriving DecidableEq, Repr

/-- A quadrant (05 R154, 06 R175, R189; 08 R241; 16 R449). -/
structure Quad where
  owned : Bool
  owner : Nat
  shrinkPending : Bool
  fenced : Bool
  /-- the first-level TLB of 64 entries (08 R241) -/
  tlb : List TlbEntry
  /-- the instruction cache (12 R326) -/
  icache : List CacheSector
  /-- counting-board tiles that are not all +0, 256 of 128 words, in rising order -/
  board : List (Nat × List Word)
  /-- poisoned elements: tile times 128 plus the element -/
  boardPoison : List (Nat × Poison)
  /-- the 64 KiB palette and the units taken (16 R451) -/
  palette : Mem
  palPoison : Poisons
  palUnits : List (Nat × Nat)
  /-- the abacus slot that the bead engine takes next, if its queue holds an operation (16 R458) -/
  beadNext : Nat
  rings : List Ring
  hod : List HodReq
  /-- the bead self-test (06 R189): one is in progress; an overdue one has been recorded; the time in C-ACT since the
  last that passed, in units of 1/2,882,880 µs; the clocks of the idle gap so far -/
  testing : Bool
  overdue : Bool
  testClock : Nat
  idleClocks : Nat
  deriving DecidableEq, Repr

/-- A cell's power state (02 R57). -/
inductive CellPower where
  | act
  | idle
  | ret
  | off
  deriving DecidableEq, Repr

/-- A pane's power state (02 R57). -/
inductive PanePower where
  | on
  | ret
  | off
  deriving DecidableEq, Repr

/-- An atomic request at its service sub-core (15 R422, R423; 09 R256); `reply` holds the old value once it
is performed, until it is written into its return slot. -/
structure AtomReq where
  group : Nat
  lane : Nat
  slot : Option Nat
  op : Nat
  wide : Bool
  pa : Nat
  v : Nat
  c : Nat
  serve : Nat
  reply : Option Nat
  /-- the service sub-core has granted it (03 R76) -/
  granted : Bool
  deriving DecidableEq, Repr

/-- An intersection-unit program slot (13 R366, 17 R496, R500): no program, 32 micro-steps of 8 bytes, or
the sphere or curve program of the standard microcode, whose steps the spec gives by their result. -/
inductive IxuSlot where
  | empty
  | prog (b : List Byte)
  | sphere
  | curve
  deriving DecidableEq, Repr

/-- Whose turn it is at a shared unit of a cell, and the grants left to it in that turn (03 R76). -/
structure UnitTurn where
  part : Nat
  left : Nat
  deriving DecidableEq, Repr

/-- A logical cell (02 R57, R60, R66; 03 R76; 11 R309; 13 R359, R366). -/
structure Cell where
  power : CellPower
  /-- a command takes it to C-IDLE: its run and K-step boundaries are awaited (02 R57) -/
  idling : Bool
  level : Nat
  effLevel : Nat
  counter : Nat
  sems : List Word
  /-- intersection-unit program slots (13 R366) -/
  ixu : List IxuSlot
  quads : List Quad
  index : List IndexEntry
  /-- the turns at the texture unit, the intersection unit, the regrouping unit, the message endpoint and the service
  sub-core -/
  turns : List UnitTurn
  deriving DecidableEq, Repr

/-- A pane (02 R57, 04 R121, 08 R241). -/
structure Pane where
  power : PanePower
  quarantined : Bool
  /-- the second-level TLB of 4,096 entries, eight ways to a set (08 R241) -/
  tlb : List TlbEntry
  /-- the walks asked for in order of arrival; the first 16 have a walker (08 R241) -/
  walks : List Walk
  deriving DecidableEq, Repr

/-! ### Contexts, functions, queues -/

/-- A context entry as committed, with its run state (03 R81, R103). -/
structure Context where
  func : Option Nat
  part : Nat
  asid : Nat
  s1root : Nat
  errq : Nat
  errqlog : Nat
  save : Nat
  bound : Nat
  state : Nat
  errHead : Nat
  errSeq : Nat
  /-- the bound table in force, 64 entries (05 R145, 13 R368) -/
  bounds : List Nat
  deriving DecidableEq, Repr

/-- A free context (03 R81). -/
def Context.free : Context := ⟨none, 0, 0, 0, 0, 6, 0, 0, 0, 0, 1, []⟩

/-- A function entry as committed (03 R79). -/
structure Func where
  en : Bool
  syscap : Bool
  apsize : Nat
  extents : List (Nat × Nat)
  deriving DecidableEq, Repr

--HUB-BEGIN
/-- What a layer shows in the current frame (04 R115). -/
inductive LayerShow where
  | nothing
  | frame (f : Nat)
  | tellTales
  deriving DecidableEq, Repr

/-- A layer of a pipe as the frame decision leaves it: what it shows, the last frame that passed or was
shown, the repeats in a row, and the signatures compared for the frame shown (04 R114 to R117). -/
structure Layer where
  shows : LayerShow
  last : Option Nat
  repeats : Nat
  sigs : List Nat
  deriving DecidableEq, Repr

/-- A display pipe (04 R105 to R110): its registers, the TIMING and PIXCLK in effect, the layer table in
force and its layers. -/
structure Pipe where
  en : Bool
  /-- EN has fallen and the frame is still scanned out -/
  ending : Bool
  pend : Bool
  /-- the layer table that the pending commit asks for -/
  pendBase : Nat
  rej : Bool
  depth : Nat
  ltBase : Nat
  timing : Nat
  timingNow : Nat
  khz : Nat
  khzNow : Nat
  lines : Nat
  tt : Nat
  rep : Nat
  /-- TT and REPEAT of the next frame, once they are decided -/
  ttNext : Nat
  repNext : Nat
  mismatch : Nat
  late : Nat
  diff : Nat
  bg : Nat
  table : List (List Byte)
  layers : List Layer
  /-- the layers of the next frame, once they are decided -/
  layersNext : List Layer
  /-- scan-outs ended so far: a coat belongs to the one that runs, or is to come, when its region is admitted -/
  run : Nat
  deriving DecidableEq, Repr

/-- A coat (04 R111 to R114). -/
structure Coat where
  pipe : Nat
  layer : Nat
  frame : Nat
  num : Nat
  /-- the pane that the layer entry in force at the region's admission names -/
  pane : Nat
  ctx : Nat
  region : Nat
  /-- the scan-out it belongs to -/
  run : Nat
  t1 : Option Nat
  done : Bool
  late : Bool
  signed : Bool
  sigs : List Nat
  deriving DecidableEq, Repr

/-- A seam link (01 R39; 05 R151). -/
structure Seam where
  state : Nat
  spares : Nat
  retry : Nat
  lane0 : Nat
  lane1 : Nat
  crc : Bool
  half : Bool
  /-- failed lanes that no spare covers -/
  lost : List Nat
  deriving DecidableEq, Repr

/-- One function's share of the host interface (02 R43 to R53): the latch of each POST register, its posting
queues with a context and an RCB address each, the results of the last commands, POST_REJ, the RESYNC window
and its count, the MSI-X table held against its reset bytes with the pending-bit array, and the PCIe power state. -/
structure HostFn where
  latch : List Nat
  queue : List (List (Nat × Nat))
  result : List Nat
  rej : Nat
  window : List Byte
  seq : Nat
  msix : Mem
  /-- vectors whose pending bit is set -/
  pending : List Nat
  hot : Bool
  deriving DecidableEq, Repr

/-- The command register pair of a unit that takes one command at a time (02 R59, 03 R89, 05 R148, R163): the
command in progress, DROPPED, RESULT and TAG. -/
structure CmdReg where
  cmd : Option Nat
  dropped : Bool
  result : Nat
  tag : Nat
  deriving DecidableEq, Repr

/-- A cause of the clamp in force: its kind, the panes it affects, the steps it has called for, and whether its condition is
present now. -/
structure ClampCause where
  kind : Nat
  panes : Nat
  steps : Nat
  active : Bool
  deriving DecidableEq, Repr

/-- The clamp (02 R64 to R66): its causes, the latest last, the level from which each pane's ceiling is counted down, and the
two fields of CLAMP_STAT that the causes do not give. -/
structure Clamp where
  causes : List ClampCause
  tops : List Nat
  tjpeak : Nat
  denied : Bool
  deriving DecidableEq, Repr

/-- A shrink, grow or fence of quadrants of a cell that waits for evictions (03 R91 to R93, R518; 05 R154), with the
blocks that leave. -/
structure Recarve where
  part : Nat
  cell : Nat
  qmask : Nat
  grow : Bool
  deferred : Bool
  fence : Bool
  blocks : List Nat
  /-- those of them that belong to a co-operative launch, and whether its eviction has begun (03 R92, R93) -/
  launch : List Nat
  began : Bool
  deriving DecidableEq, Repr

/-- A rung of the reset ladder that is running (03 R101): the rung and its target, the time it started, the
contexts it acts on, the rung that the command asked for, where a command waits for it, and whether it was
climbed to. -/
structure Rung where
  rung : Nat
  tgt : Nat
  start : Nat
  ctxs : List Nat
  asked : Option Nat
  climbed : Bool
  deriving DecidableEq, Repr

/-- Quarantine and self-test of a pane (04 R121, R122). -/
structure Quar where
  running : Bool
  passed : Bool
  failed : Bool
  deriving DecidableEq, Repr

/-- A camera stream (04 R127, R128): its registers, the number of the next frame, and the frame in progress with its
start, lines and flags. -/
structure CamStream where
  ctl : Nat
  base : Nat
  stride : Nat
  pitch : Nat
  sem : Nat
  next : Nat
  frames : Nat
  drops : Nat
  count : Nat
  frame : Option (Nat × Nat × Nat)
  refused : Bool
  deriving DecidableEq, Repr

/-- An entry of a must-save declaration (05 R155). -/
structure SaveItem where
  kind : Nat
  id : Nat
  cell : Nat
  len : Nat
  start : Nat
  deriving DecidableEq, Repr

/-- An admitted must-save declaration. -/
structure MustSave where
  region : Nat
  ctx : Nat
  sys : Bool
  addr : DWord
  prio : Nat
  hcell : Nat
  hpc : DWord
  items : List SaveItem
  deriving DecidableEq, Repr

/-- A power-fail handler (05 R157, R158): its context, its group and block, its deadline. -/
structure Handler where
  ctx : Nat
  group : Nat
  block : Nat
  deadline : Nat
  done : Bool
  expired : Bool
  deriving DecidableEq, Repr

/-- A region of the save in its keep-die order (05 R157, R160, R161): what its record holds, the data, none for
a region that is absent, and whether the rails fell while it was written (05 R159). -/
structure SaveRegion where
  ctx : Nat
  id : Nat
  kind : Nat
  prio : Nat
  source : Nat
  len : Nat
  data : Option Mem
  torn : Bool
  deriving DecidableEq, Repr

/-- The hold-up save that runs (05 R157): its event and time, the contexts with a group resident at it, its
handlers, and the regions once they have been captured. -/
structure Save where
  event : Nat
  time : Nat
  resident : List Nat
  /-- contexts saved as they stand, with KIND bit 7 set -/
  asIs : List Nat
  handlers : List Handler
  regions : Option (List SaveRegion)
  /-- the board holds the pane rails for 100 µs (05 R159) -/
  rails : Bool
  /-- the writes to the keep die have ended -/
  written : Bool
  deriving DecidableEq, Repr

/-- What RESYNC reports of a keep slot (02 R52, 05 R162): the state, the counts of whole, torn and absent regions,
and the generation. -/
structure KeepStat where
  state : Nat
  whole : Nat
  torn : Nat
  missing : Nat
  gen : Nat
  deriving DecidableEq, Repr

/-- What the device answers to a host request to a virtual function's configuration space or to an aperture
(03 R84, R85). -/
inductive Reply where
  | nothing
  | data (b : List Byte)
  | abort
  | unsupported
  deriving DecidableEq, Repr

/-- The registers of the hub and of the host interface, with what stands behind them. -/
structure Hub where
  /-- MSI-X vectors raised, function and vector, the latest last (02 R43) -/
  raised : List (Nat × Nat)
  devqBase : Nat
  devqEn : Bool
  devqLog : Nat
  devqLost : Nat
  devqHead : Nat
  devqSeq : Nat
  pipes : List Pipe
  coats : List Coat
  /-- the references run (01 R17) -/
  sysclk : Bool
  dclk : Bool
  /-- STRAP_SA and STRAP_BOOT as sampled (01 R20) -/
  strapSa : Nat
  strapBoot : Bool
  /-- the error status: SYSCLK and DCLK faults reported (01 R17) -/
  sysclkErr : Bool
  dclkErr : Bool
  /-- FAULT_N and THERMTRIP_N are asserted (01 R18, R19) -/
  faultN : Bool
  thermtrip : Bool
  /-- FAULT_CTL's two sticky causes (02 R69) -/
  lockstep : Bool
  coatfail : Bool
  /-- HOLDUP_RDY; the internal switch is open; supply loss has been declared (01 R22, R24) -/
  ready : Bool
  switch : Bool
  lost : Bool
  save : Option Save
  /-- DEV_STATUS.BOOT and DSTATE (02 R42) -/
  boot : Nat
  dstate : Nat
  /-- the boot buffer, and a firmware image is being checked (02 R72, R73) -/
  bootBuf : Mem
  fwGen : Nat
  fwBuild : Nat
  fwFloor : Nat
  /-- the PCIe link: L0, L1, L2, L1.1 or L1.2 as 0 to 4; the width; the rate as 1 to 6, from 2.5 to 64 GT/s (01 R25, 02 R62) -/
  link : Nat
  linkWidth : Nat
  linkRate : Nat
  seams : List Seam
  fns : List HostFn
  /-- NumVFs and the BAR 2 size chosen for each virtual function (03 R84) -/
  numVfs : Nat
  vfBar : List Nat
  /-- the memory writes sent to the host, function, address and data, the latest last (01 R26; 02 R67) -/
  sent : List (Nat × Nat × Nat)
  /-- log2 of the size chosen for the physical function's BAR 2, 0 before one is chosen (02 R40) -/
  pfBar : Nat
  power : CmdReg
  clamp : Clamp
  winBase : List Nat
  winLimit : List Nat
  winViol : Nat
  denied : Nat
  /-- ARM (02 R69): the I3C controller's bit and the two transmit ports' -/
  armI3c : Bool
  armTx : Nat
  /-- the I3C controller drives a transfer (01 R35, 02 R70) -/
  i3cBusy : Bool
  /-- the I3C target's dynamic address, and the address it answered to last (01 R34) -/
  i3cAddr : Option Nat
  i3cLast : Nat
  /-- the frames each transmit port has discarded (01 R32) -/
  txDrops : List Nat
  /-- the response to the last I3C command; the pending in-band interrupt; the forced mask (02 R54 to R56) -/
  i3cResp : Option (List Byte)
  i3cIbi : Option Nat
  forced : Nat
  /-- the bytes of the last I3C private read, and the answer to the last host request -/
  i3cOut : List Byte
  reply : Reply
  cfgBase : Nat
  pfApBase : Nat
  part : CmdReg
  detailGen : Nat
  detailOff : Nat
  recarves : List Recarve
  /-- the partitions of the SHRINK_DEFERRED notices that the hypervisor cores have received (03 R92) -/
  notices : List Nat
  /-- the contexts whose translated accesses the command in progress waits for (03 R97) -/
  inval : List Nat
  /-- the table is committed: function flags and sizes stand in State.funcs (03 R78) -/
  classWays : List Nat
  classBw : List Nat
  qosRej : Bool
  rungs : List Rung
  rung : Nat
  rungTgt : Nat
  quar : List Quar
  failCell : Nat
  quarRefused : Bool
  ttSrc : Nat
  ttCmd : Option (Nat × List Byte)
  ttResult : Nat
  hudEn : Bool
  latchLines : Nat
  hudCtxEn : Bool
  hudCtx : Nat
  meshBase : Nat
  mesh : Mem
  stale : Nat
  /-- the pending LATCH set, whether it is complete, and the set in use (04 R125) -/
  latch : List Word
  latchFull : Bool
  latchUse : List Word
  /-- the set taken for the next frame -/
  latchNext : List Word
  cams : List CamStream
  spare : CmdReg
  migrating : Option (Nat × Nat)
  migrateDone : Nat
  /-- the physical cell of each logical one; physical cells retired; those that failed a self-test stand in
  failCell (00 R6) -/
  cellMap : List (Option Nat)
  retired : List Nat
  /-- sub-cores whose spare lane is in use: physical cell and sub-core (05 R149) -/
  laneSpares : List (Nat × Nat)
  /-- the physical hub-cache way of each logical one, and the ways retired (03 R98) -/
  wayMap : List (Option Nat)
  waysGone : List Nat
  /-- the physical channel of each logical one, the channels trained, the channels out of service (01 R27) -/
  chanMap : List (Option Nat)
  trained : Nat
  chansGone : List Nat
  ceThresh : Nat
  ceChan : List (Bool × Nat)
  /-- corrected errors in the memories of each cell and of each hub-cache slice (05 R152) -/
  ceCell : List Nat
  ceSlice : List Nat
  /-- readings and alarms of the ageing monitors that have one: 16 times the physical cell plus the monitor -/
  age : List (Nat × Bool × Nat)
  must : List MustSave
  keepDst : Nat
  keepCmd : Option Nat
  keepResult : Nat
  keep : Mem
  keepStat : List KeepStat
  deriving DecidableEq, Repr
--HUB-END

/-! ### The hub cache and the channels (03 R99, R100) -/

/-- A line of the hub cache: its number, its way by logical number, the class that allocated it, the masks of its valid and
dirty 32-byte sectors, and the regions whose must-save declarations pin it (05 R155). -/
structure HubLine where
  line : Nat
  way : Nat
  cls : Nat
  valid : Nat
  dirty : Nat
  pins : List Nat
  deriving DecidableEq, Repr

/-- A request queued at a channel controller: its class, its region with BWCAP, the line, and whether it writes. -/
structure ChanReq where
  cls : Nat
  region : Option Nat
  bwcap : Nat
  line : Nat
  write : Bool
  deriving DecidableEq, Repr

/-- The controller of a logical channel: its queue, the slots granted in the round of 64, the own slots each class has used
in it and the slots each region has taken, the class next in rotation, and the shares in effect. -/
structure Channel where
  queue : List ChanReq
  granted : Nat
  used : List Nat
  taken : List (Nat × Nat)
  next : Nat
  shares : List Nat
  deriving DecidableEq, Repr

/-- The lines of the hub cache, the controllers, and the model's own count of accesses, which keys its free choices. -/
structure HubCache where
  lines : List HubLine
  chans : List Channel
  uses : Nat
  deriving DecidableEq, Repr

--GFX-BEGIN
/-! ### Passes, texture and trace requests (17) -/

/-- A primitive of a pass (17 R468, R469): its sequence number, |D|, each edge's value at the surface's
origin with its steps in x and y, z and reciprocal w of each vertex, USER, CCW, and the bins in which it
still holds an entry. -/
structure Prim where
  pseq : Nat
  absD : Nat
  edges : List (Int × Int × Int)
  z : List Word
  rw : List Word
  user : Word
  ccw : Bool
  bins : List Nat
  deriving DecidableEq, Repr

/-- A ticket that has been created and is not done (17 R470, R471): its number, its primitive and tile,
RELOAD and FIRST, and its halves: 0 none, 1 to be taken, 2 taken. -/
structure Ticket where
  id : Nat
  pseq : Nat
  reload : Bool
  first : Bool
  halves : List Nat
  deriving DecidableEq, Repr

/-- A tile of a pass (17 R471 to R474): primitives below `next` are dealt with; the ticket in progress, the
tile memory's cell and window offset; whether it is flushed, with the samples whose entries were not
written; whether it had a ticket; whether it is stored. -/
structure TileRec where
  tile : Nat
  next : Nat
  cur : Option Ticket
  mem : Option (Nat × Nat)
  flushed : Bool
  lost : List Nat
  touched : Bool
  stored : Bool
  deriving DecidableEq, Repr

/-- A pass (17 R467): the context and privilege it draws with, its descriptor's address and bytes, its
pane and region, its home cell and the offset of its bin space, the bound below which primitives are
marked for a forced render, and its tiles. -/
structure Pass where
  ctx : Nat
  sys : Bool
  desc : Nat
  raw : List Byte
  pane : Nat
  region : Nat
  home : Nat
  binOff : Nat
  closed : Bool
  discard : Bool
  nextPseq : Nat
  prims : List Prim
  render : Option Nat
  /-- an emission is held for want of room, and no forced render has begun (17 R473) -/
  starved : Bool
  tiles : List TileRec
  deriving DecidableEq, Repr

/-- The thread of a continuation record (07 R211): where its index entry is, the virtual address of its
record's first word, each later word 128 bytes on, the context, privilege and place it is reached with, the
registers its result goes to, and the capturing instruction with its group and operation. -/
structure ContRef where
  cell : Nat
  block : Nat
  seg : Nat
  tidx : Nat
  base : Nat
  regs : List Nat
  pc : DWord
  group : Nat
  op : Nat
  deriving DecidableEq, Repr

/-- A request outstanding at the texture unit (17 R488): the group and operation, the form, the lanes with
two coordinates and an operand each, the lanes active at issue, and for a .C form each lane's record. -/
structure TexReq where
  group : Nat
  op : Nat
  fn : Nat
  f16 : Bool
  comp : Nat
  lodm : Nat
  desc : Nat
  lanes : Lanes
  act : Lanes
  u : List Word
  v : List Word
  lod : List Word
  cont : List (Nat × ContRef)
  /-- the texture unit has granted it (03 R76) -/
  granted : Bool
  deriving DecidableEq, Repr

/-- A lane of a trace request: still traversing, or its result. -/
inductive TravLane where
  | run (t : Trav)
  | start (ray : List Word)
  | done (t u v info : Word)
  deriving DecidableEq, Repr

/-- A request outstanding at the intersection unit (17 R494): the lanes as they stand. -/
structure TraceReq where
  group : Nat
  op : Nat
  cell : Nat
  desc : Nat
  any : Bool
  first : Bool
  lanes : List (Nat × TravLane)
  fault : Option FaultInfo
  /-- the program slots at the request's issue (13 R366) -/
  slots : List IxuSlot
  cont : List (Nat × ContRef)
  /-- the intersection unit has granted it (03 R76) -/
  granted : Bool
  deriving DecidableEq, Repr

/-- A result on its way to a continuation record (07 R211). -/
structure ContWrite where
  ref : ContRef
  vals : List Word
  /-- the regrouping unit has granted it (03 R76) -/
  granted : Bool
  deriving DecidableEq, Repr
--GFX-END

/-- The whole machine. -/
structure State where
  /-- the issue groups, by a number that stays theirs while they hold a slot or a tracker entry -/
  groups : List Group
  blocks : List Block
  regions : List Region
  windows : List Window
  cells : List Cell
  panes : List Pane
  /-- the home copy of global memory (09 R242): hub cache and DRAM as one, with its poison -/
  mem : Mem
  memPoison : Poisons
  /-- where the home copy's lines stand in the hub cache, and what is asked of the channels -/
  hubc : HubCache
  ctxs : List Context
  funcs : List Func
  partOwner : List Nat
  atoms : List AtomReq
  msgs : List MsgInFlight
  passes : List Pass
  texs : List TexReq
  traces : List TraceReq
  contWrites : List ContWrite
  /-- the model's own: the number of the next ticket -/
  nextTicket : Nat
  /-- hypervisor core 0's counter (01 R517) -/
  hv : Nat
  hub : Hub
  /-- the model's own: the events and inputs that happen next, in order (assumption 5) -/
  agenda : List Instr
  /-- the model's own: the group whose instruction issues now -/
  turn : Option Nat
  /-- the model's own: how many free values have been taken (assumption 4) -/
  fresh : Nat
  deriving DecidableEq, Repr

/-! ### The state after reset -/

/-- An unbound hardware ring (06 R175). -/
def Ring.empty : Ring := ⟨false, 0, 0, 0#8, List.replicate 8 0⟩

/-- A quadrant that no partition holds, its storage zeroed (03 R90). -/
def Quad.reset : Quad :=
  { owned := false, owner := 0, shrinkPending := false, fenced := false, tlb := [], icache := [], board := [], boardPoison := []
    palette := [], palPoison := [], palUnits := [], beadNext := 0, rings := List.replicate 16 Ring.empty, hod := []
    testing := false, overdue := false, testClock := 0, idleClocks := 0 }

/-- The program slots of an intersection unit: the standard microcode in slots 0 to 3 (13 R366, 17 R499). -/
def ixuReset : List IxuSlot :=
  [.prog (slotBytes boxProgram), .prog (slotBytes triangleProgram), .sphere, .curve] ++ List.replicate 28 .empty

/-- A cell in C-OFF, its storage lost (02 R57, R61). -/
def Cell.reset : Cell :=
  { power := .off, idling := false, level := 0, effLevel := 0, counter := 0, sems := List.replicate 64 0#32, ixu := ixuReset
    quads := List.replicate 4 Quad.reset, index := [], turns := List.replicate 5 ⟨0, 0⟩ }

/-- A pane in P-OFF (02 R61). -/
def Pane.reset : Pane := ⟨.off, false, [], []⟩

/-- A display pipe: every register zero, no layer enabled (04 R106). -/
def Pipe.reset : Pipe :=
  { en := false, ending := false, pend := false, pendBase := 0, rej := false, depth := 0, ltBase := 0, timing := 0, timingNow := 0
    khz := 0, khzNow := 0, lines := 0, tt := 0, rep := 0, ttNext := 0, repNext := 0, mismatch := 0, late := 0, diff := 0, bg := 0
    table := List.replicate 16 (List.replicate 128 0#8), layers := List.replicate 16 ⟨.nothing, none, 0, []⟩
    layersNext := List.replicate 16 ⟨.nothing, none, 0, []⟩, run := 0 }

/-- A camera stream: every register zero (04 R127). -/
def CamStream.reset : CamStream :=
  { ctl := 0, base := 0, stride := 0, pitch := 0, sem := 0, next := 0, frames := 0, drops := 0, count := 0
    frame := none, refused := false }

/-- A function's share of the host interface (02 R44 to R53). -/
def HostFn.reset : HostFn :=
  { latch := [0, 0, 0, 0], queue := [[], [], [], []], result := [0, 0, 0, 0], rej := 0
    window := List.replicate 512 0#8, seq := 0, msix := [], pending := [], hot := false }

/-- A command register pair (02 R59, 03 R89, 05 R148). -/
def CmdReg.reset : CmdReg := ⟨none, false, 0, 0⟩

/-- An empty hub cache, every channel at the start of a round with no share (03 R98). -/
def HubCache.reset : HubCache :=
  { lines := [], chans := List.replicate 24 ⟨[], 0, [0, 0, 0, 0], [], 0, [0, 0, 0, 0]⟩, uses := 0 }

/-- The hub (01 R39; 02 R42 to R71; 03 R88, R89, R98; 04 R106, R120 to R127; 05 R136, R148 to R154, R163). -/
def Hub.reset : Hub :=
  { raised := [], devqBase := 0, devqEn := false, devqLog := 6, devqLost := 0, devqHead := 0, devqSeq := 1
    pipes := List.replicate 4 Pipe.reset, coats := []
    sysclk := true, dclk := true, sysclkErr := false, dclkErr := false, strapSa := 0, strapBoot := false, faultN := false, thermtrip := false
    lockstep := false, coatfail := false, ready := false, switch := false, lost := false, save := none
    boot := 0, dstate := 0, bootBuf := [], fwGen := 0, fwBuild := 0, fwFloor := 0
    link := 0, linkWidth := 0, linkRate := 0, seams := List.replicate 9 ⟨0, 0, 0, 0x7F, 0x7F, false, false, []⟩
    fns := List.replicate 17 HostFn.reset, numVfs := 0, vfBar := List.replicate 16 0, sent := [], pfBar := 0
    power := CmdReg.reset, clamp := ⟨[], [0, 0, 0, 0], 0, false⟩
    winBase := List.replicate 16 0, winLimit := List.replicate 16 0, winViol := 0, denied := 0
    armI3c := false, armTx := 0, i3cBusy := false, i3cAddr := none, i3cLast := 0, txDrops := [0, 0], i3cResp := none, i3cIbi := none, forced := 0
    i3cOut := [], reply := .nothing, cfgBase := 0, pfApBase := 0, part := CmdReg.reset, detailGen := 0, detailOff := 0
    recarves := [], notices := [], inval := [], classWays := [0, 0, 0, 0], classBw := [0, 0, 0, 0], qosRej := false, rungs := [], rung := 0, rungTgt := 0
    quar := List.replicate 4 ⟨false, false, false⟩, failCell := 0, quarRefused := false
    ttSrc := 0, ttCmd := none, ttResult := 0, hudEn := false, latchLines := 0, hudCtxEn := false, hudCtx := 0
    meshBase := 0, mesh := [], stale := 0, latch := List.replicate 8 0#32, latchFull := false
    latchUse := List.replicate 8 0#32, latchNext := List.replicate 8 0#32, cams := List.replicate 16 CamStream.reset
    spare := CmdReg.reset, migrating := none, migrateDone := 0
    cellMap := (List.range 32).map fun l => some (l / 8 * 9 + l % 8), retired := [], laneSpares := []
    wayMap := (List.range 16).map some, waysGone := [], chanMap := List.replicate 24 none, trained := 0, chansGone := []
    ceThresh := 0x100, ceChan := List.replicate 26 (false, 0), ceCell := List.replicate 32 0
    ceSlice := List.replicate 32 0, age := [], must := []
    keepDst := 0, keepCmd := none, keepResult := 0, keep := [], keepStat := List.replicate 2 ⟨0, 0, 0, 0, 0⟩ }

/-- The machine while POR_N holds it in reset (01 R16): every field at the value the spec gives for reset;
where it gives none, at the value that the assumption log names (assumption 7). -/
def State.reset : State :=
  { groups := [], blocks := [], regions := [], windows := [], cells := List.replicate 32 Cell.reset
    panes := List.replicate 4 Pane.reset, mem := [], memPoison := [], hubc := HubCache.reset, ctxs := List.replicate 64 Context.free
    funcs := ⟨true, true, 0, []⟩ :: List.replicate 16 ⟨false, false, 0, []⟩, partOwner := List.replicate 16 0xFF
    atoms := [], msgs := [], passes := [], texs := [], traces := [], contWrites := [], nextTicket := 0, hv := 0
    hub := Hub.reset, agenda := [], turn := none, fresh := 0 }

end Sys2Proof.Machine
end

