-- ==== Sys2Proof/Machine/Mem.lean ====
section
/-! DEFINITION. Byte stores in their one canonical form: addresses strictly rising, no listed byte zero. -/
namespace Sys2Proof.Machine
open Sys2Proof

/-- What an unlisted address of a byte store reads as (assumption 2). -/
def Mem.unlisted : Byte := 0#8

/-- The byte at an address. -/
def Mem.get : Mem → Nat → Byte
  | [], _ => Mem.unlisted
  | (x, b) :: r, a => if a = x then b else if a < x then Mem.unlisted else Mem.get r a

/-- The store with the byte at an address changed; a byte that equals what an unlisted address reads as
is not listed. -/
def Mem.set : Mem → Nat → Byte → Mem
  | [], a, v => if v = Mem.unlisted then [] else [(a, v)]
  | (x, b) :: r, a, v =>
    if a < x then (if v = Mem.unlisted then (x, b) :: r else (a, v) :: (x, b) :: r)
    else if a = x then (if v = Mem.unlisted then r else (a, v) :: r)
    else (x, b) :: Mem.set r a v

/-- Every listed address lies above `lo`, they rise strictly, and no listed byte is the unlisted one. -/
def Mem.wfFrom : Nat → Mem → Bool
  | _, [] => true
  | lo, (x, b) :: r => decide (lo ≤ x) && decide (b ≠ Mem.unlisted) && Mem.wfFrom (x + 1) r

/-- The canonical form. -/
def Mem.wf (m : Mem) : Bool := Mem.wfFrom 0 m

/-- `n` bytes from an address. -/
def Mem.bytes (m : Mem) (a n : Nat) : List Byte := (List.range n).map fun i => m.get (a + i)

/-- Bytes written from an address on. -/
def Mem.put : Mem → Nat → List Byte → Mem
  | m, _, [] => m
  | m, a, b :: r => Mem.put (m.set a b) (a + 1) r

/-- The little-endian value of `n` bytes. -/
def Mem.value (m : Mem) (a n : Nat) : Nat := leValue (m.bytes a n)

/-- The store with the bytes from `a` up to `a + n` unlisted: they read as zero. -/
def Mem.erase (m : Mem) (a n : Nat) : Mem := m.filter fun c => c.1 < a || a + n ≤ c.1

/-- The bytes from `a` up to `a + n`, moved to start at zero. -/
def Mem.slice (m : Mem) (a n : Nat) : Mem :=
  (m.filter fun c => decide (a ≤ c.1 ∧ c.1 < a + n)).map fun c => (c.1 - a, c.2)

/-- The store with the cells of another, moved up by `a`, put into it. -/
def Mem.paste (m : Mem) (a : Nat) (src : Mem) : Mem := src.foldl (fun acc c => acc.set (a + c.1) c.2) m

/-- The poison of the sectors that a range of bytes touches, the lowest first. -/
def Poisons.hit (p : Poisons) (a n : Nat) : Option (Nat × Poison) :=
  p.find? fun x => decide (x.1 < a + n ∧ a < x.1 + 32)

/-- The poison after `n` bytes were written from `a`: a sector wholly covered is clean (05 R130). -/
def Poisons.cleared (p : Poisons) (a n : Nat) : Poisons :=
  p.filter fun x => !decide (a ≤ x.1 ∧ x.1 + 32 ≤ a + n)

/-- The poison with a sector marked. -/
def Poisons.mark (p : Poisons) (a : Nat) (x : Poison) : Poisons :=
  if p.any (fun y => y.1 == a / 32 * 32) then p else (a / 32 * 32, x) :: p

end Sys2Proof.Machine
end

