-- ==== Sys2Proof/Machine/HubCache.lean ====
section
/-! DEFINITION. The physical data space, the lines of the hub cache and the channel controllers (01 R29; 03 R98 to R100;
06 R164, BWCAP and WAYLIM; 08 R236). The bytes themselves stand in `State.mem`: hub cache and DRAM act as one copy (09 R242). -/
namespace Sys2Proof.Machine
open Sys2Proof

/-! ### Addresses -/

/-- The first physical address without memory behind it (08 R236, 01 R29). -/
def dataEnd : Nat := 24 * (Config.dramGroups * 512)

/-- The logical channel of a physical address, its offset in the channel, and its hub-cache slice (08 R236). -/
def logicalChannel (p : Nat) : Nat := p / 256 % 24
def channelOffset (p : Nat) : Nat := p / 6144 * 256 + p % 256
def hubSlice (p : Nat) : Nat := p / 256 % 32

/-- The channel offset of the check bytes of the data line that holds a channel offset; the 64 bytes of the line and
these 8 form one codeword (01 R29). -/
def checkOffset (o : Nat) : Nat := Config.dramGroups * 512 + o / 64 / 8 * 64 + o / 64 % 8 * 8
/-- Symbol errors that the code of a codeword corrects, and the most that it is sure to detect (01 R29). -/
def correctableSymbols : Nat := 2
def detectedSymbols : Nat := 4

/-! ### Classes and regions -/

/-- Who makes a request: a class, 0 SAFETY to 3 BACKGROUND, and the region, none for a request of the device's own. -/
structure Requester where
  cls : Nat
  region : Option Nat
  waylim : Nat
  bwcap : Nat

/-- The requester of an access: the region of the group whose turn it is. Of an access made outside a turn the model keeps no
requester: a free class stands for it. -/
def State.requester (s : State) : Requester :=
  let k := ((s.turn.bind fun i => s.groups[i]?).bind fun g => s.blocks[g.id.block]?).map (·.region)
  match k.bind fun k => s.regions[k]? with
  | some r => ⟨r.cls, k, r.ways, r.bwcap⟩
  | none => ⟨Config.freeHub s.hubc.uses 0 % 4, none, 0, 64⟩

/-- A class is idle: no region of it is resident anywhere (03 R99). -/
def State.classIdle (s : State) (c : Nat) : Bool :=
  !(s.blocks.any fun b => b.resident && (match s.regions[b.region]? with | some r => r.cls == c | none => false))

/-- The in-service ways that a class owns. -/
def Hub.ownWays (h : Hub) (c : Nat) : List Nat :=
  (List.range 16).filter fun w => bit (h.classWays.getD c 0) w && (h.wayMap.getD w none).isSome

/-- The ways that an owner may fill besides its own: the common ones and those of idle classes (03 R99). -/
def State.otherWays (s : State) : List Nat :=
  (List.range 16).filter fun w => (s.hub.wayMap.getD w none).isSome
    && (List.range 4).all fun c => !bit (s.hub.classWays.getD c 0) w || s.classIdle c

/-- The ways into which a requester allocates: WAYLIM of its class's own, the lowest, and the others (03 R99, 06 R164). -/
def State.allocWays (s : State) (r : Requester) : List Nat :=
  let own := s.hub.ownWays r.cls
  (if r.waylim = 0 then own else own.take r.waylim) ++ s.otherWays.filter fun w => !own.contains w

/-! ### The channel controllers (03 R100) -/

/-- A request queued at the channel of its line. -/
def HubCache.queue (h : HubCache) (r : ChanReq) : HubCache :=
  { h with chans := modifyAt h.chans (logicalChannel (128 * r.line)) fun c => { c with queue := c.queue ++ [r] } }

/-- A class has a request queued. -/
def Channel.busy (c : Channel) (k : Nat) : Bool := c.queue.any fun r => r.cls == k

/-- The slots of the round still kept for the own grants of the classes that are not idle. -/
def Channel.reserved (c : Channel) : Nat :=
  (((List.range 4).filter c.busy).map fun k => c.shares.getD k 0 - c.used.getD k 0).foldl (· + ·) 0

/-- A request may be granted as far as its region's BWCAP goes. -/
def Channel.allowed (c : Channel) (r : ChanReq) : Bool :=
  match r.region with
  | some k => decide (((c.taken.find? fun x => x.1 == k).elim 0 (·.2)) < r.bwcap)
  | none => true

/-- A class may take a slot of its own. -/
def Channel.ownGrant (c : Channel) (k : Nat) : Bool :=
  decide (c.used.getD k 0 < c.shares.getD k 0) && c.queue.any fun r => r.cls == k && c.allowed r

/-- The class whose turn it is among those that have requests queued, from the one next in rotation on. A running migration
counts as one class more (05 R150). -/
def Channel.rotation (c : Channel) (migrates : Bool) : Option Nat :=
  ((List.range 5).map fun j => (c.next + j) % 5).find? fun k =>
    if k = 4 then migrates else c.queue.any fun r => r.cls == k && c.allowed r

/-- What a channel may grant next: for each class its own slot, and the common or idle slot that the rotation hands out. -/
inductive Grant where
  | own (cls : Nat)
  | rotated (cls : Nat)
  | pass
  deriving DecidableEq, Repr

def Channel.grants (c : Channel) (migrates : Bool) : List Grant :=
  let own := ((List.range 4).filter c.ownGrant).map Grant.own
  let spare := match c.rotation migrates with
    | some k => if c.granted + c.reserved < 64 then [Grant.rotated k] else []
    | none => []
  -- a slot that nothing may take goes by
  if (own ++ spare).isEmpty then [.pass] else own ++ spare

/-- The end of a round: the shares written since take effect (03 R100). -/
def Channel.roundEnd (c : Channel) (shares : List Nat) : Channel :=
  if 64 ≤ c.granted then { c with granted := 0, used := [0, 0, 0, 0], taken := [], next := 0, shares := shares } else c

/-- The channel after a grant. -/
def Channel.grant (c : Channel) (shares : List Nat) (g : Grant) : Channel :=
  let take (c : Channel) (k : Nat) : Channel :=
    match c.queue.find? fun r => r.cls == k && c.allowed r with
    | none => c
    | some r => { c with
        queue := c.queue.erase r
        taken := match r.region with
          | some j => (j, ((c.taken.find? fun x => x.1 == j).elim 0 (·.2)) + 1) :: c.taken.filter fun x => x.1 != j
          | none => c.taken }
  let c1 : Channel := { c with granted := c.granted + 1 }
  (match g with
    | .own k => take { c1 with used := modifyAt c1.used k (· + 1) } k
    | .rotated k => take { c1 with next := (k + 1) % 5 } k
    | .pass => c1).roundEnd shares

/-! ### Lines (03 R99) -/

/-- The set of a line in its slice; which bits of the address choose it is left open. -/
def hubSet (line : Nat) : Nat := hubSlice (128 * line) + 32 * (Config.hubSet line % 1024)

/-- The mask of the sectors of a line that a range of bytes touches. -/
def sectorMask (line pa n : Nat) : Nat :=
  ((List.range 4).filter fun k => decide (128 * line + 32 * k < pa + n ∧ pa < 128 * line + 32 * (k + 1))).map (2 ^ ·) |>.foldl (· + ·) 0

/-- The way for a line that misses, and the victim there: an empty allowed way, else the way of a line that may go: one that
others allocated in the class's own ways first. Pinned lines stay (05 R155). -/
def HubCache.pickWay (h : HubCache) (own allowed : List Nat) (cls set : Nat) : Option (Nat × Option HubLine) :=
  let here := h.lines.filter fun x => hubSet x.line == set
  let free := allowed.filter fun w => !(here.any fun x => x.way == w)
  let pick {α : Type} (l : List α) : Option α := l[Config.freeHub h.uses 1 % max 1 l.length]?
  match pick free with
  | some w => some (w, none)
  | none =>
    let may := here.filter fun x => allowed.contains x.way && x.pins.isEmpty
    let first := may.filter fun x => own.contains x.way && x.cls != cls
    (pick (if first.isEmpty then may else first)).map fun x => (x.way, some x)

/-- The hub cache after an access of some sectors of a line: a hit in whatever way, or a line allocated, its victim written
back; the channel is asked for what is fetched. -/
def HubCache.access (h : HubCache) (own allowed : List Nat) (r : Requester) (write whole : Bool) (line mask : Nat) : HubCache :=
  let req (l : Nat) (w : Bool) : ChanReq := ⟨r.cls, r.region, r.bwcap, l, w⟩
  let h1 : HubCache := { h with uses := h.uses + 1 }
  let used (x : HubLine) : HubLine :=
    { x with valid := x.valid ||| mask, dirty := if write then x.dirty ||| mask else x.dirty }
  match h.lines.find? fun x => x.line == line with
  | some x =>
    let h2 := { h1 with lines := h1.lines.map fun y => if y.line == line then used y else y }
    if x.valid &&& mask = mask || (write && whole) then h2 else h2.queue (req line false)
  | none =>
    match h.pickWay own allowed r.cls (hubSet line) with
    -- no way may be filled: the access goes to the channel
    | none => h1.queue (req line write)
    | some (w, victim) =>
      let h2 : HubCache := { h1 with
        lines := h1.lines.filter (fun y => some y != victim) ++ [used ⟨line, w, r.cls, 0, 0, []⟩] }
      let h3 := match victim with | some v => if v.dirty = 0 then h2 else h2.queue (req v.line true) | none => h2
      if write && whole then h3 else h3.queue (req line false)

/-- What an access to the home copy leaves in the hub cache and at the channels. -/
def State.hubUse (s : State) (write : Bool) (pa n : Nat) : State :=
  let r := s.requester
  let own := s.hub.ownWays r.cls
  let allowed := s.allocWays r
  let lines := if n = 0 then [] else (List.range ((pa + n - 1) / 128 - pa / 128 + 1)).map (pa / 128 + ·)
  { s with hubc := lines.foldl (fun h l =>
      h.access own allowed r write (decide (pa % 32 = 0 ∧ n % 32 = 0)) l (sectorMask l pa n)) s.hubc }

/-- The lines of a range that a region declares, loaded and pinned in the ways of its class (05 R155). -/
def State.hubPin (s : State) (region cls pa n : Nat) : State :=
  let own := s.hub.ownWays cls
  let r : Requester := ⟨cls, none, 0, 64⟩
  { s with hubc := ((List.range ((pa + n - 1) / 128 - pa / 128 + 1)).map (pa / 128 + ·)).foldl (fun (h : HubCache) l =>
      -- a line that stands in a way of another owner gives it up
      let h0 := { h with lines := h.lines.filter fun x => x.line != l || own.contains x.way }
      let h1 := h0.access own own r false false l 15
      { h1 with lines := h1.lines.map fun x => if x.line == l then { x with pins := region :: x.pins } else x }) s.hubc }

/-- The lines that only regions which satisfy a condition pin are pinned no longer. -/
def HubCache.unpin (h : HubCache) (p : Nat → Bool) : HubCache :=
  { h with lines := h.lines.map fun x => { x with pins := x.pins.filter fun r => !p r } }

/-- A way is emptied, its dirty lines written back (05 R149). -/
def State.hubRetireWay (s : State) (way : Nat) : State :=
  let gone := s.hubc.lines.filter fun x => x.way == way
  let h : HubCache := { s.hubc with lines := s.hubc.lines.filter fun x => x.way != way }
  { s with hubc := (gone.filter fun x => x.dirty != 0).foldl (fun h x => h.queue ⟨x.cls, none, 64, x.line, true⟩) h }

end Sys2Proof.Machine
end

