-- ==== Sys2Proof/Machine/Trans.lean ====
section
/-! DEFINITION. Contexts, the home copy and address translation (08 R235 to R241, 03 R94 to R97). -/
namespace Sys2Proof.Machine
open Sys2Proof

/-- One free value further (assumption 4). -/
def State.withFresh (s : State) : State := { s with fresh := s.fresh + 1 }
/-- A free value of the model and the state that has taken it (assumption 4). -/
def State.free (s : State) : Nat × State := (Config.freeNat s.fresh, { s with fresh := s.fresh + 1 })

/-! ### Bytes of the home copy -/

/-- Bytes of the home copy. -/
def State.homeRead (s : State) (pa n : Nat) : List Byte := s.mem.bytes pa n

/-- The monitored condition of a WAITC (13 R360): 0 eq, 1 ne, 2 geu, 3 ltu, 4 ges, 5 lts. -/
def monCond (cond w v x : Nat) : Bool :=
  match cond with
  | 0 => decide (x = v)
  | 1 => decide (x ≠ v)
  | 2 => decide (v ≤ x)
  | 3 => decide (x < v)
  | 4 => decide (signedOf w v ≤ signedOf w x)
  | _ => decide (signedOf w x < signedOf w v)

/-- A monitor after bytes from `pa` up to `pa + n` were written at the home copy (09 R258): it matches
when the write touches its bytes and leaves a value for which its condition holds. A polled monitor sees
only what the slice reads. -/
def Monitor.afterWrite (mem : Mem) (pa n : Nat) (m : Monitor) : Monitor :=
  let sz := if m.wide then 8 else 4
  if !m.polled && decide (m.pa < pa + n ∧ pa < m.pa + sz)
      && monCond m.cond (8 * sz) m.value (mem.value m.pa sz) then
    { m with matched := true }
  else m

/-- A write performed at the home copy: the bytes, the poison it clears, the monitors it matches. -/
def State.homeWrite (s : State) (pa : Nat) (b : List Byte) : State :=
  let mem := s.mem.put pa b
  { s with
    mem := mem
    memPoison := s.memPoison.cleared pa b.length
    hubc := (s.hubUse true pa b.length).hubc
    groups := if s.groups.any (fun g => !g.mons.isEmpty) then
        s.groups.map fun g => { g with mons := g.mons.map (Monitor.afterWrite mem pa b.length) }
      else s.groups }

/-! ### Contexts -/

def State.ctx (s : State) (c : Nat) : Context := s.ctxs.getD c Context.free
/-- The function that owns a context; the physical function for a context that is free. -/
def State.ctxFunc (s : State) (c : Nat) : Nat := (s.ctx c).func.getD 0
def State.modCtx (s : State) (c : Nat) (f : Context → Context) : State :=
  { s with ctxs := modifyAt s.ctxs c f }

/-! ### Stage 2 (03 R94): the extents of a function, mapped from guest-physical 0 upward -/

/-- Units of 2 MiB. -/
def unit2M : Nat := 0x200000
def unit1G : Nat := 0x40000000

/-- The extent that holds a guest-physical address: its guest base, physical base and length. -/
def findExtent (gpa : Nat) : Nat → List (Nat × Nat) → Option (Nat × Nat × Nat)
  | _, [] => none
  | g0, (base, len) :: r =>
    let l := len * unit2M
    if decide (g0 ≤ gpa) && decide (gpa < g0 + l) then some (g0, base * unit2M, l)
    else findExtent gpa (g0 + l) r

/-- The guest-physical size of a function's extents. -/
def guestSize (ext : List (Nat × Nat)) : Nat := (ext.map fun e => e.2 * unit2M).foldl (· + ·) 0

/-- The level at which the stage-2 walk of an address without mapping ends: the table above the extents
is built by the hypervisor cores with entries only where an extent lies (assumption 12). -/
def stage2MissLevel (ext : List (Nat × Nat)) (gpa : Nat) : Nat :=
  let top := guestSize ext
  if 2 ^ 46 ≤ gpa || top ≤ gpa / 2 ^ 39 * 2 ^ 39 then 0
  else if top ≤ gpa / unit1G * unit1G then 1 else 2

/-- Why a translation fails (08 R239): the stage and level. -/
inductive XFault where
  | translation (stage level : Nat)
  | permission (stage level : Nat)
  deriving DecidableEq, Repr

/-- Stage 2 of a function: the physical address and the page size. -/
def State.stage2 (s : State) (f gpa : Nat) : Except XFault (Nat × Nat) :=
  let ext := (s.funcs.getD f ⟨false, false, 0, []⟩).extents
  match findExtent gpa 0 ext with
  | none => .error (.translation 2 (stage2MissLevel ext gpa))
  | some (g0, p0, l) =>
    let g := gpa / unit1G * unit1G
    let big := decide (g0 ≤ g) && decide (g + unit1G ≤ g0 + l) && decide ((p0 + (g - g0)) % unit1G = 0)
    .ok (p0 + (gpa - g0), if big then unit1G else unit2M)

/-! ### Stage 1 -/

/-- The walk of the stage-1 table, from a level on: `fuel` levels are left (08 R237 to R240). -/
def State.walk1 (s : State) (f va : Nat) : Nat → Nat → Nat → Except XFault TlbEntry
  | 0, _, level => .error (.translation 1 level)
  | fuel + 1, table, level =>
    let sh := 39 - 9 * level
    match s.stage2 f (table + 8 * (va / 2 ^ sh % 512)) with
    | .error e => .error e
    | .ok (pa, _) =>
      let e := s.mem.value pa 8
      let out := bits e 45 12 * 4096
      let size := if level = 3 then (if bit e 58 then 65536 else 4096) else 2 ^ sh
      if !bit e 0 || bits e 63 60 ≠ 0 || bits e 57 46 ≠ 0 || bits e 11 7 ≠ 0 || bit e 4
          || 2 ≤ bits e 3 2 then .error (.translation 1 level)
      else if level < 3 && bit e 1 then s.walk1 f va fuel out (level + 1)
      else if level = 0 then .error (.translation 1 level)
      else if level < 3 && out % size ≠ 0 then .error (.translation 1 level)
      else
        let base := out / size * size
        let gpa := base + va % size
        match s.stage2 f gpa with
        | .error e => .error e
        | .ok (pa, size2) =>
          let sz := min size size2
          .ok { func := f, asid := 0, va := va / sz * sz, size := sz, pa := pa / sz * sz,
                w := bit e 5, u := bit e 6, xn := bit e 59, mem := bits e 3 2, gpa := gpa / sz * sz, level := level }

/-- An access for translation. -/
structure Acc where
  write : Bool
  fetch : Bool
  sys : Bool
  deriving DecidableEq, Repr

/-- The permission test of a translation (08 R239). -/
def TlbEntry.allows (e : TlbEntry) (a : Acc) : Bool :=
  !(a.write && !e.w) && (a.sys || e.u) && !(a.fetch && e.xn)

/-- An entry translates an address of a function and ASID. -/
def TlbEntry.covers (e : TlbEntry) (f asid va : Nat) : Bool :=
  decide (e.func = f ∧ e.asid = asid ∧ e.va ≤ va ∧ va < e.va + e.size)

/-- The entry of a quadrant's first-level TLB for an address (08 R241). -/
def State.tlb1 (s : State) (cell quad f asid va : Nat) : Option TlbEntry :=
  ((s.cells[cell]?).bind fun c => c.quads[quad]?).bind fun q => q.tlb.find? fun e => e.covers f asid va

/-- The entry of the second-level TLB of a cell's pane for an address (08 R241). -/
def State.tlb2 (s : State) (cell f asid va : Nat) : Option TlbEntry :=
  if s.cells.length ≤ cell then none
  else (s.panes[cell / Config.cellsPerPane]?).bind fun p => p.tlb.find? fun e => e.covers f asid va

/-- The TLB entry of a cell's quadrant or pane for an address. -/
def State.tlbLookup (s : State) (cell quad f asid va : Nat) : Option TlbEntry :=
  match s.tlb1 cell quad f asid va with
  | some e => some e
  | none => s.tlb2 cell f asid va

/-- The translation of a virtual address in a context, from a TLB of the place or by a walk. -/
def State.xlate (s : State) (cell quad c : Nat) (a : Acc) (va : Nat) : Except XFault TlbEntry :=
  if 2 ^ 48 ≤ va then .error (.translation 1 0)
  else
    let cx := s.ctx c
    let f := s.ctxFunc c
    let r : Except XFault TlbEntry := match s.tlbLookup cell quad f cx.asid va with
      | some e => .ok e
      | none => match s.walk1 f va 4 cx.s1root 0 with
        | .ok e => .ok { e with asid := cx.asid }
        | .error e => .error e
    match r with
    | .error e => .error e
    | .ok e => if e.allows a then .ok e else .error (.permission 1 e.level)

/-- The physical address of a virtual address through a translation. -/
def TlbEntry.phys (e : TlbEntry) (va : Nat) : Nat := e.pa + (va - e.va)

/-! ### The fills of the TLBs (08 R241) -/

/-- Entries of a first-level TLB, ways and sets of a second-level one, and walkers of a pane. -/
def tlb1Entries : Nat := 64
def tlb2Ways : Nat := 8
def tlb2Sets : Nat := 512
def walkers : Nat := 16

/-- The second-level set of an entry; which bits of the page choose it is left open. -/
def TlbEntry.set (e : TlbEntry) : Nat := Config.tlbSet e.va e.size % tlb2Sets

/-- The list with an entry added; with no room left the victim among `same` is the one that `pick` names. -/
def tlbAdd (l same : List TlbEntry) (cap pick : Nat) (e : TlbEntry) : List TlbEntry :=
  if same.length < cap then l ++ [e]
  else l.filter (fun x => some x != same[pick % max 1 same.length]?) ++ [e]

/-- An entry enters a quadrant's first-level TLB. -/
def State.fillTlb1 (s : State) (cell quad : Nat) (e : TlbEntry) : State :=
  let (k, s1) := s.free
  { s1 with cells := modifyAt s1.cells cell fun c => { c with quads := modifyAt c.quads quad fun q =>
      { q with tlb := tlbAdd q.tlb q.tlb tlb1Entries k e } } }

/-- An entry enters the second-level TLB of a cell's pane. -/
def State.fillTlb2 (s : State) (cell : Nat) (e : TlbEntry) : State :=
  let (k, s1) := s.free
  { s1 with panes := modifyAt s1.panes (cell / Config.cellsPerPane) fun p =>
      { p with tlb := tlbAdd p.tlb (p.tlb.filter fun x => x.set == e.set) tlb2Ways k e } }

/-- The walk for an address is asked for, unless one for its page is under way: two misses to one page share it. -/
def Pane.ask (p : Pane) (w : Walk) : Pane :=
  if p.walks.any fun x => x.ctx == w.ctx && x.va / 4096 == w.va / 4096 then p else { p with walks := p.walks ++ [w] }

/-- What an access to an address leaves in the TLBs: a first-level miss looks up the second level, whose entry fills the
first; a second-level miss asks for a walk. The access itself takes its translation from `State.xlate`. -/
def State.tlbUse (s : State) (cell quad c va : Nat) : State :=
  let f := s.ctxFunc c
  let asid := (s.ctx c).asid
  if 2 ^ 48 ≤ va then s
  else match s.tlb1 cell quad f asid va with
    | some _ => s
    | none => match s.tlb2 cell f asid va with
      | some e => s.fillTlb1 cell quad e
      | none =>
        if s.cells.length ≤ cell then s
        else { s with panes := modifyAt s.panes (cell / Config.cellsPerPane) fun p => p.ask ⟨cell, quad, c, va⟩ }

/-- The DETAIL of TRANSLATION and PERMISSION (11 R290). -/
def XFault.detail (x : XFault) (a : Acc) : Nat :=
  let (st, lv) := match x with | .translation st lv => (st, lv) | .permission st lv => (st, lv)
  st + 4 * lv + (if a.write then 16 else 0) + (if a.fetch then 32 else 0)

/-- The code of TRANSLATION or PERMISSION. -/
def XFault.code : XFault → Nat
  | .translation _ _ => 0x09
  | .permission _ _ => 0x0A

/-- A translation outside any place (records, completion words, completion of operations whose place no
TLB serves): by the table alone, with SYSTEM privilege. -/
def State.xlateSys (s : State) (c va : Nat) (write : Bool) : Except XFault Nat :=
  match s.xlate Config.cells 0 c ⟨write, false, true⟩ va with
  | .ok e => .ok (e.phys va)
  | .error e => .error e

/-- Read bytes of a context's space at the home copy, each 4 KiB page translated for itself: the bytes,
with the first poison met. -/
def State.readVaGo (s : State) (c : Nat) : Nat → Nat → Nat → Except XFault (List Byte)
  | 0, _, _ => .ok []
  | fuel + 1, va, n =>
    if n = 0 then .ok []
    else
      let k := min n (4096 - va % 4096)
      match s.xlateSys c va false with
      | .error e => .error e
      | .ok pa => match s.readVaGo c fuel (va + k) (n - k) with
        | .error e => .error e
        | .ok r => .ok (s.homeRead pa k ++ r)
def State.readVa (s : State) (c va n : Nat) : Except XFault (List Byte) :=
  s.readVaGo c (n / 4096 + 2) va n

/-- Whether a range of a context's space holds poison at the home copy. -/
def State.poisonVa (s : State) (c va n : Nat) : Bool :=
  if s.memPoison.isEmpty then false
  else (List.range (n / 32 + 2)).any fun i =>
    let a := va / 32 * 32 + 32 * i
    decide (a < va + n) && (match s.xlateSys c a false with
      | .ok pa => (s.memPoison.hit pa 1).isSome
      | .error _ => false)

/-- The physical places of a range of a context's space, each 4 KiB page translated for itself; a page that fails has none. -/
def State.vaPieces (s : State) (c va n : Nat) : List (Nat × Nat) :=
  (List.range ((va + n + 4095) / 4096 - va / 4096)).filterMap fun i =>
    let lo := max va ((va / 4096 + i) * 4096)
    let hi := min (va + n) ((va / 4096 + i + 1) * 4096)
    match s.xlateSys c lo false with
    | .ok pa => if lo < hi then some (pa, hi - lo) else none
    | .error _ => none

/-- Write bytes of a context's space at the home copy; nothing is written when a page fails. -/
def State.writeVaGo (s : State) (c : Nat) : Nat → Nat → List Byte → Except XFault State
  | 0, _, _ => .ok s
  | fuel + 1, va, b =>
    if b.isEmpty then .ok s
    else
      let k := 4096 - va % 4096
      match s.xlateSys c va true with
      | .error e => .error e
      | .ok pa => (s.homeWrite pa (b.take k)).writeVaGo c fuel (va + k) (b.drop k)
def State.writeVa (s : State) (c va : Nat) (b : List Byte) : Except XFault State :=
  s.writeVaGo c (b.length / 4096 + 2) va b

end Sys2Proof.Machine
end

