-- ==== Sys2Proof/Machine/Cache.lean ====
section
/-! DEFINITION. The partition's window on a cell, its cell cache and its dirty-line FIFO (08 R229 to
R232, 09 R249 to R253, 05 R139 to R141). -/
namespace Sys2Proof.Machine
open Sys2Proof

/-! ### Windows -/

/-- The quadrants of a cell that a partition holds, ascending (08 R229). -/
def State.heldQuads (s : State) (part cell : Nat) : List Nat :=
  match s.cells[cell]? with
  | none => []
  | some c => (List.range 4).filter fun q =>
      match c.quads[q]? with | some x => x.owned && x.owner == part | none => false

def Window.empty (part cell : Nat) : Window :=
  ⟨part, cell, [], [], [], [], [], [], [], [], [], []⟩

/-- A partition's window on a cell. -/
def State.window (s : State) (part cell : Nat) : Window :=
  (s.windows.find? fun w => w.part == part && w.cell == cell).getD (Window.empty part cell)

/-- The state with a window replaced, or added where the partition had none there. -/
def State.setWindow (s : State) (w : Window) : State :=
  if s.windows.any (fun x => x.part == w.part && x.cell == w.cell) then
    { s with windows := s.windows.map fun x => if x.part == w.part && x.cell == w.cell then w else x }
  else { s with windows := s.windows ++ [w] }

/-- A window changed by a function. -/
def State.modWindow (s : State) (part cell : Nat) (f : Window → Window) : State :=
  s.setWindow (f (s.window part cell))

/-- Bytes of a window's store. -/
def State.winRead (s : State) (part cell off n : Nat) : List Byte := (s.window part cell).mem.bytes off n

/-- Bytes written into a window's store at its bank, with the poison they clear. -/
def State.winWrite (s : State) (part cell off : Nat) (b : List Byte) : State :=
  s.modWindow part cell fun w =>
    { w with mem := w.mem.put off b, poison := w.poison.cleared off b.length }

/-! ### Cell-cache lines -/

/-- The mask of `n` bytes of a line from byte `o` on. -/
def byteMask (o n : Nat) : BitVec 128 := (BitVec.ofNat 128 (2 ^ n - 1)) <<< o

def Window.line? (w : Window) (l : Nat) : Option CLine := w.lines.find? fun x => x.line == l

/-- The window with a line made the most recently used one. -/
def Window.putLine (w : Window) (x : CLine) : Window :=
  { w with lines := (w.lines.filter fun y => y.line != x.line) ++ [x] }

/-- The window with the lines of a list that it holds made the most recently used (08 R231). -/
def Window.touch (w : Window) (ls : List Nat) : Window :=
  ls.foldl (fun w l => match w.line? l with | some x => w.putLine x | none => w) w

/-- The window without a line; its FIFO entry becomes a hole, which is dropped (09 R249). -/
def Window.dropLine (w : Window) (l : Nat) : Window :=
  { w with
    lines := w.lines.filter fun y => y.line != l
    fifo := w.fifo.filter fun e => e != .line l
    cache := w.cache.erase (l * 128) 128
    cachePoison := w.cachePoison.filter fun p => p.1 / 128 != l }

/-- Write bytes of a line home, run by run of the mask. -/
def homeRuns (s : State) (w : Window) (l : Nat) (m : BitVec 128) : State :=
  let step (acc : State × Nat × List Byte) (i : Nat) : State × Nat × List Byte :=
    let (st, start, run) := acc
    if i < 128 && m.getLsbD i && !(i % 32 == 0 && !run.isEmpty) then
      (st, if run.isEmpty then i else start, run ++ [w.cache.get (l * 128 + i)])
    else
      let st' := if run.isEmpty then st else st.homeWrite (l * 128 + start) run
      if i < 128 && m.getLsbD i then (st', i, [w.cache.get (l * 128 + i)]) else (st', i, [])
  ((List.range 129).foldl step (s, 0, [])).1

/-- Write back a line's dirty bytes (09 R249): it keeps its valid bytes and becomes clean, its FIFO entry
becomes a hole; poison goes with its sector (05 R130). A line that holds uncommitted bytes is not written back
(08 R232, 09 R253). -/
def State.writeBack (s : State) (part cell l : Nat) : State :=
  let w := s.window part cell
  match w.line? l with
  | none => s
  | some x =>
    let d := x.dirty
    if d = 0#128 || x.uncommitted != 0#128 then s
    else
      let s1 := homeRuns s w l d
      let marks : Poisons := w.cachePoison.filter fun p => p.1 / 128 == l && (d &&& byteMask (p.1 % 128) 32) != 0#128
      let s2 : State := { s1 with memPoison := marks.foldl (fun (acc : Poisons) p => acc.mark p.1 p.2) s1.memPoison }
      s2.modWindow part cell fun w =>
        { w with
          lines := w.lines.map fun y => if y.line == l then { y with dirty := 0#128 } else y
          fifo := w.fifo.filter fun e => e != .line l }

/-- A line made present: the victim of a full set is the least recently used line that is not
uncommitted; none is available when all sixteen are (08 R231, R232). -/
def State.allocLine (s : State) (part cell l : Nat) : Option State :=
  let w := s.window part cell
  match w.line? l with
  | some x => some (s.setWindow (w.putLine x))
  | none =>
    let sets := max 1 ((s.heldQuads part cell).length * 128)
    let inSet := w.lines.filter fun y => y.line % sets == l % sets
    let fresh (s : State) : State :=
      s.modWindow part cell fun w => w.putLine ⟨l, 0#128, 0#128, 0#128, none⟩
    if inSet.length < 16 then some (fresh s)
    else match inSet.find? fun y => y.uncommitted == 0#128 with
      | none => none
      | some v =>
        let s1 := s.writeBack part cell v.line
        some (fresh (s1.modWindow part cell fun w => w.dropLine v.line))

/-- The lines that a range touches. -/
def linesOf (pa n : Nat) : List Nat :=
  if n = 0 then [] else (List.range ((pa + n - 1) / 128 - pa / 128 + 1)).map fun i => pa / 128 + i

/-- Fill the bytes of a line that are not valid from the home copy (08 R231). -/
def State.fillLine (s : State) (part cell l : Nat) : Option State :=
  match s.allocLine part cell l with
  | none => none
  | some s1 =>
    let lacks := match (s1.window part cell).line? l with | some x => x.valid != BitVec.allOnes 128 | none => false
    some ((if lacks then s1.hubUse false (128 * l) 128 else s1).modWindow part cell fun w =>
      match w.line? l with
      | none => w
      | some x =>
        let missing := ~~~x.valid
        { w with
          cache := (List.range 128).foldl (fun c i =>
            if missing.getLsbD i then c.set (l * 128 + i) (s.mem.get (l * 128 + i)) else c) w.cache
          cachePoison := s.memPoison.foldl (fun (acc : Poisons) p =>
            if p.1 / 128 == l && (missing &&& byteMask (p.1 % 128) 32) != 0#128 then acc.mark p.1 p.2
            else acc) w.cachePoison
          lines := w.lines.map fun y => if y.line == l then { y with valid := BitVec.allOnes 128 } else y })

/-- All bytes of a range are valid in the cell cache. -/
def Window.holds (w : Window) (pa n : Nat) : Bool :=
  (List.range n).all fun i => match w.line? ((pa + i) / 128) with
    | some x => x.valid.getLsbD ((pa + i) % 128)
    | none => false

/-- A byte as a reader through the cell cache sees it: valid bytes there, the rest from home. -/
def State.cachedByte (s : State) (w : Window) (pa : Nat) : Byte :=
  match w.line? (pa / 128) with
  | some x => if x.valid.getLsbD (pa % 128) then w.cache.get pa else s.mem.get pa
  | none => s.mem.get pa
def State.cachedRead (s : State) (part cell pa n : Nat) : List Byte :=
  let w := s.window part cell
  (List.range n).map fun i => s.cachedByte w (pa + i)

/-- A byte as a wide acquire load takes it (09 R251): dirty bytes from the cell cache, the rest from
home. -/
def State.acquireRead (s : State) (part cell pa n : Nat) : List Byte :=
  let w := s.window part cell
  (List.range n).map fun i => match w.line? ((pa + i) / 128) with
    | some x => if x.dirty.getLsbD ((pa + i) % 128) then w.cache.get (pa + i) else s.mem.get (pa + i)
    | none => s.mem.get (pa + i)

/-- Bytes with those in a poisoned sector read as 0xFF (05 R131), `hit` telling the poisoned ones. -/
def poisonedBytes (hit : Nat → Bool) (b : List Byte) : List Byte :=
  b.zipIdx.map fun x => if hit x.2 then 0xFF#8 else x.1

/-- The poison a reader through the cell cache meets in a range. -/
def State.cachedPoison (s : State) (part cell pa n : Nat) : Option (Nat × Poison) :=
  let w := s.window part cell
  match w.cachePoison.hit pa n with
  | some p => some p
  | none => match s.memPoison.hit pa n with
    | some p => if w.holds pa n then none else some p
    | none => none

/-- How a write into the cell cache is held (09 R249, 05 R139). -/
inductive WriteKind where
  | committed
  | spill
  | uncommitted (block : Nat)
  deriving DecidableEq, Repr

/-- A line on which a first uncommitted byte is to be written gives up its committed bytes first, so that the undoing
of the interval finds them at the home copy (05 R139, R142). -/
def State.cleanFor (s : State) (part cell : Nat) (k : WriteKind) (l : Nat) : State :=
  match k with
  | .uncommitted _ => s.writeBack part cell l
  | _ => s

/-- A write of bytes of one line into the cell cache, allocating without fetching (08 R231). -/
def State.cacheWriteLine (s : State) (part cell : Nat) (k : WriteKind) (pa : Nat) (b : List Byte) :
    Option State :=
  let l := pa / 128
  match (s.cleanFor part cell k l).allocLine part cell l with
  | none => none
  | some s1 =>
    some (s1.modWindow part cell fun w =>
      let m := byteMask (pa % 128) b.length
      let w := { w with
        cache := w.cache.put pa b
        cachePoison := w.cachePoison.cleared pa b.length
        lines := w.lines.map fun y => if y.line == l then
            { y with
              valid := y.valid ||| m
              dirty := y.dirty ||| m
              uncommitted := match k with | .uncommitted _ => y.uncommitted ||| m | _ => y.uncommitted &&& ~~~m
              owner := match k with | .uncommitted o => some o | _ => y.owner }
          else y }
      match k with
      | .committed => if w.fifo.contains (.line l) then w else { w with fifo := w.fifo ++ [.line l] }
      | .spill => w
      | .uncommitted o =>
        if w.uorder.contains (o, l) then w else { w with uorder := w.uorder ++ [(o, l)] })

/-- A write of bytes through the cell cache, line by line; `none` where a line finds no way. -/
def State.cacheWriteGo (s : State) (part cell : Nat) (k : WriteKind) : Nat → Nat → List Byte → Option State
  | 0, _, _ => some s
  | fuel + 1, pa, b =>
    if b.isEmpty then some s
    else
      let n := 128 - pa % 128
      match s.cacheWriteLine part cell k pa (b.take n) with
      | none => none
      | some s1 => s1.cacheWriteGo part cell k fuel (pa + n) (b.drop n)
def State.cacheWrite (s : State) (part cell : Nat) (k : WriteKind) (pa : Nat) (b : List Byte) : Option State :=
  s.cacheWriteGo part cell k (b.length / 128 + 2) pa b

/-! ### Releases, acquires, drains -/

/-- Write back every line of a FIFO prefix. -/
def State.drainLines (s : State) (part cell : Nat) (ls : List Nat) : State :=
  ls.foldl (fun s l => s.writeBack part cell l) s

/-- The lines whose entries stand ahead of a group's marker (09 R250). -/
def linesAhead (g : Nat) : List FifoEntry → List Nat
  | [] => []
  | .marker m :: r => if m == g then [] else linesAhead g r
  | .line l :: r => l :: linesAhead g r

/-- The lines of every entry of the FIFO. -/
def allFifoLines (f : List FifoEntry) : List Nat :=
  f.filterMap fun e => match e with | .line l => some l | .marker _ => none

/-- The two steps of a wide acquire (09 R251): every byte of the cell cache that is valid and clean is dropped, dirty
bytes and the bytes of lines that hold uncommitted ones (R253) stay; the partition's texture-cache entries go. -/
def State.markStale (s : State) (part cell : Nat) : State :=
  s.modWindow part cell fun w =>
    let kept := w.lines.map fun y => if y.uncommitted = 0#128 then { y with valid := y.valid &&& y.dirty } else y
    { w with
      tex := []
      lines := kept.filter fun y => y.valid != 0#128
      cache := w.cache.filter fun c => kept.any fun y => y.line == c.1 / 128 && y.valid.getLsbD (c.1 % 128)
      cachePoison := w.cachePoison.filter fun p =>
        kept.any fun y => y.line == p.1 / 128 && (y.valid &&& byteMask (p.1 % 128) 32) != 0#128 }

/-- The issuing cell cache's part of an atomic or a HOD.REDUCE (09 R256, 15 R429): the dirty bytes of the
line go home and its copy becomes stale. -/
def State.sendLine (s : State) (part cell pa : Nat) : State :=
  let s1 := s.writeBack part cell (pa / 128)
  s1.modWindow part cell fun w =>
    match w.line? (pa / 128) with
    | some y => if y.uncommitted = 0#128 then w.dropLine (pa / 128) else w
    | none => w

/-! ### The read-only caches (09 R251, R261; 12 R326) -/

/-- The sector of a read-only cache that holds a byte. -/
def sectorAt (l : List CacheSector) (key pa : Nat) : Option CacheSector :=
  l.find? fun c => c.key == key && c.sector == pa / 32
/-- A byte through a read-only cache, and the poison of its sector: from the cache, or from the home copy. -/
def State.throughCache (s : State) (l : List CacheSector) (key pa : Nat) : Byte × Option Poison :=
  match sectorAt l key pa with
  | some c => (c.bytes.getD (pa % 32) 0#8, c.poison)
  | .none => (s.mem.get pa, (s.memPoison.hit pa 1).map (·.2))
/-- The list with the sectors of some addresses that it lacks, from the home copy; the bits of `keep` say which entries
stay, for which ones a cache replaces is left open. -/
def State.cacheFill (s : State) (l : List CacheSector) (key : Nat) (pas : List Nat) (keep : Nat) : List CacheSector :=
  let new := (dedupNat (pas.map (· / 32))).filter fun p => (sectorAt l key (32 * p)).isNone
  let all := l ++ new.map fun p => ⟨key, p, s.homeRead (32 * p) 32, (s.memPoison.hit (32 * p) 32).map (·.2)⟩
  (all.zipIdx.filter fun x => keep.testBit x.2).map (·.1)

/-! ### Rollback blocks -/

/-- Commit a block's uncommitted lines on every cell, in store order (05 R140, R141; 09 R253). -/
def State.commitLines (s : State) (b : Nat) : State :=
  { s with windows := s.windows.map fun w =>
      if w.uorder.any (fun o => o.1 == b) then
        let mine := (w.uorder.filter fun o => o.1 == b).map (·.2)
        { w with
          lines := w.lines.map fun y => if y.owner == some b then
              { y with uncommitted := 0#128, owner := none } else y
          uorder := w.uorder.filter fun o => o.1 != b
          fifo := mine.foldl (fun f l => if f.contains (.line l) then f else f ++ [.line l]) w.fifo }
      else w }

/-- Discard a block's uncommitted bytes (05 R142). -/
def State.discardLines (s : State) (b : Nat) : State :=
  { s with windows := s.windows.map fun w =>
      if w.uorder.any (fun o => o.1 == b) then
        { w with
          lines := (w.lines.map fun y => if y.owner == some b then
              { y with valid := y.valid &&& ~~~y.uncommitted, dirty := y.dirty &&& ~~~y.uncommitted,
                       uncommitted := 0#128, owner := none } else y).filter fun y => y.valid != 0#128
          cache := w.cache.filter fun c => !(w.lines.any fun y =>
            y.owner == some b && y.line == c.1 / 128 && y.uncommitted.getLsbD (c.1 % 128))
          cachePoison := w.cachePoison.filter fun p => !(w.lines.any fun y =>
            y.owner == some b && y.line == p.1 / 128
              && (y.valid &&& ~~~y.uncommitted &&& byteMask (p.1 % 128) 32) = 0#128)
          uorder := w.uorder.filter fun o => o.1 != b }
      else w }

/-- The blocks, other than this one, whose uncommitted bytes stand in the lines of a range (09 R253). -/
def Window.othersUncommitted (w : Window) (b : Option Nat) (pa n : Nat) : List Nat :=
  (w.lines.filter fun y => decide (pa / 128 ≤ y.line ∧ y.line ≤ (pa + n - 1) / 128) && y.uncommitted != 0#128
    && y.owner != b).filterMap (·.owner)

/-- The uncommitted lines that a region's blocks hold in a window (05 R139). -/
def Window.uncommittedLines (w : Window) (mine : Nat → Bool) : Nat :=
  (w.lines.filter fun y => y.uncommitted != 0#128 && (match y.owner with | some o => mine o | none => false)).length

end Sys2Proof.Machine
end

