-- ==== Sys2Proof/Machine/Regs.lean ====
section
/-! DEFINITION. The registers of a group: shapes, writes, the register-entry budget and the skim engine
(08 R217 to R226), and where a group's private words and spill slots lie. -/
namespace Sys2Proof.Machine
open Sys2Proof

/-! ### Groups of the machine -/

/-- A group number without a group. -/
def Group.none : Group :=
  { loc := ⟨0, 0, 0, 0, false⟩
    id := ⟨0, 0, .general, 0, 0, 0, false, false, false, false, [], [], [], [], []⟩
    regs := ⟨[], [], [], [], []⟩
    ctl := ⟨0#64, .none, 0#32, 0#32, 0#32, [], 0, 0, .free, false, 0, 0, false, false, 0, false, .none, .none⟩
    trap := ⟨[], .none, [], 0, .none, [], .none⟩
    sr := ⟨0, 0, 0, 0#64, 0#32, 0#32, 0#32, 0#32, 0#32, 0#32, 0#32, 0, 0⟩
    asy := ⟨[], [], 0, [], [], [], [], [], 0, [], []⟩
    mat := ⟨0, 0, [], []⟩
    mons := []
    paused := [] }

def State.group (s : State) (i : Nat) : Group := s.groups.getD i Group.none
def State.setGroup (s : State) (i : Nat) (g : Group) : State := { s with groups := s.groups.set i g }
def State.modGroup (s : State) (i : Nat) (f : Group → Group) : State := s.setGroup i (f (s.group i))

/-- The group whose instruction is issuing, with its number. -/
def State.issuer (s : State) : Option (Nat × Group) :=
  match s.turn with
  | .none => .none
  | some i => match s.groups[i]? with
    | .none => .none
    | some g => some (i, g)

def State.block (s : State) (b : Nat) : Block :=
  s.blocks.getD b ⟨0, 0, 0, 0, false, false, false, false, [], 0, 0, 0, [], [], [], [], 0, [], 0, .report,
    [], [], 0, 0, 0, 0, 0, [], [], .none, false, 0, false, .none⟩
def State.modBlock (s : State) (b : Nat) (f : Block → Block) : State :=
  { s with blocks := modifyAt s.blocks b f }
/-- The interval of a rollback block becomes committed-early (05 R140). -/
def State.commitEarly (s : State) (b : Nat) : State :=
  let bl := s.block b
  if bl.fdom == .rollback && !bl.early then (s.commitLines b).modBlock b fun x => { x with early := true } else s

/-- An access that reaches lines with uncommitted bytes of other blocks commits those blocks' intervals
first (09 R253). -/
def State.commitOthers (s : State) (part cell : Nat) (b : Nat) (pa n : Nat) : State :=
  (dedupNat ((s.window part cell).othersUncommitted (some b) pa n)).foldl (fun s o => s.commitEarly o) s

def State.modCell (s : State) (c : Nat) (f : Cell → Cell) : State := { s with cells := modifyAt s.cells c f }
def State.modQuad (s : State) (c q : Nat) (f : Quad → Quad) : State :=
  s.modCell c fun x => { x with quads := modifyAt x.quads q f }
/-- The cell counter (11 R309). -/
def State.cyc (s : State) (c : Nat) : Nat := match s.cells[c]? with | some x => x.counter | .none => 0

/-- Updates of a group's parts. -/
def Group.withCtl (g : Group) (f : GCtl → GCtl) : Group := { g with ctl := f g.ctl }
def Group.withRegs (g : Group) (f : GRegs → GRegs) : Group := { g with regs := f g.regs }
def Group.withTrap (g : Group) (f : GTrap → GTrap) : Group := { g with trap := f g.trap }
def Group.withSr (g : Group) (f : GSpecial → GSpecial) : Group := { g with sr := f g.sr }
def Group.withAsy (g : Group) (f : GAsync → GAsync) : Group := { g with asy := f g.asy }
def Group.withMat (g : Group) (f : GMatrix → GMatrix) : Group := { g with mat := f g.mat }

/-- sr.groupid (13 R337), which is also the slot index of 08 R226. -/
def GLoc.gid (l : GLoc) : Nat :=
  if l.abacus then 0xC000 + (l.cell * 4 + l.quad) * 4 + l.slot
  else (l.cell * 4 + l.quad) * 96 + (l.sub % 8) * 12 + l.slot

/-- Within a gate call (13 R347). -/
def Group.inGate (g : Group) : Bool := !g.asy.gates.isEmpty

/-! ### Scalar registers and lane masks -/

def Group.sreg (g : Group) (n : Nat) : Word := g.regs.s.getD n 0#32
/-- A scalar pair, the low word in the even register (08 R218). -/
def Group.spair (g : Group) (n : Nat) : DWord := mkPair (g.sreg (n + 1)) (g.sreg n)
def Group.setS (g : Group) (n : Nat) (x : Word) : Group := g.withRegs fun r => { r with s := putAt 0#32 r.s n x }
def Group.setPair (g : Group) (n : Nat) (x : DWord) : Group := (g.setS n (loWord x)).setS (n + 1) (hiWord x)
/-- A lane mask; k0 reads the active mask (08 R219). -/
def Group.kreg (g : Group) (n : Nat) : Lanes := if n = 0 then g.ctl.act else g.regs.k.getD n 0#32
def Group.setK (g : Group) (n : Nat) (m : Lanes) : Group := g.withRegs fun r => { r with k := putAt 0#32 r.k n m }

/-! ### Shapes -/

/-- The value of a register in lane L (08 R220). -/
def VVal.lane : VVal → Nat → Word
  | .uniform b, _ => b
  | .affine b s, l => b + BitVec.ofNat 32 l * s
  | .general v, l => v.getD l 0#32

/-- Register-file entries of a shape (08 R220). -/
def VVal.entries : VVal → Nat
  | .uniform _ => 1
  | .affine _ _ => 2
  | .general _ => 32

/-- An affine value, tagged uniform when its stride is zero (08 R220). -/
def VVal.mkAffine (b s : Word) : VVal := if s = 0#32 then .uniform b else .affine b s

/-- The base and stride of a uniform or affine value. -/
def VVal.line? : VVal → Option (Word × Word)
  | .uniform b => some (b, 0#32)
  | .affine b s => some (b, s)
  | .general _ => .none

/-- A row of the table of 08 R221. -/
inductive ShapeRule where
  /-- MOV: the source's shape -/
  | same
  | uniform
  | general
  /-- an instruction whose sources decide: uniform when all of them are -/
  | plain
  | add
  | sub
  | neg
  | mulLo
  | shl
  deriving DecidableEq, Repr

def VVal.isUniform : VVal → Bool
  | .uniform _ => true
  | _ => false

/-- The uniform or affine value that a full write takes, and none where the result is general; `f` gives
the result in each lane and `l` is a lane that is written. -/
def ShapeRule.value (r : ShapeRule) (srcs : List VVal) (l : Nat) (f : Nat → Word) : Option VVal :=
  match r with
  | .uniform => some (.uniform (f l))
  | .general => .none
  | .same => match srcs with
    | [a] => (a.line?).map fun p => VVal.mkAffine p.1 p.2
    | _ => .none
  | r =>
    if srcs.all VVal.isUniform then some (.uniform (f l))
    else match r, srcs with
      | .add, [a, b] => match a.line?, b.line? with
        | some p, some q => some (VVal.mkAffine (p.1 + q.1) (p.2 + q.2))
        | _, _ => .none
      | .sub, [a, b] => match a.line?, b.line? with
        | some p, some q => some (VVal.mkAffine (p.1 - q.1) (p.2 - q.2))
        | _, _ => .none
      | .neg, [a] => (a.line?).map fun p => VVal.mkAffine (0#32 - p.1) (0#32 - p.2)
      | .mulLo, [a, b] => match a, b with
        | .affine p q, .uniform c => some (VVal.mkAffine (p * c) (q * c))
        | .uniform c, .affine p q => some (VVal.mkAffine (p * c) (q * c))
        | _, _ => .none
      | .shl, [a, b] => match a, b with
        | .affine p q, .uniform n => some (VVal.mkAffine (p <<< n.toNat) (q <<< n.toNat))
        | _, _ => .none
      | _, _ => .none

/-! ### Vector registers -/

def VReg.zero : VReg := ⟨.uniform 0#32, 0, .none⟩
def Group.vreg (g : Group) (n : Nat) : VReg := g.regs.v.getD n VReg.zero
/-- A register's value in lane L; a lane without a live thread reads as zero (08 R222, 14 R370). -/
def Group.vlane (g : Group) (n l : Nat) : Word := if g.ctl.live.has l then (g.vreg n).val.lane l else 0#32

/-- The group's usage of register-file entries (08 R223). -/
def Group.usage (g : Group) : Nat :=
  (g.regs.v.map fun r => if r.tag = 0 then r.val.entries else 0).foldl (· + ·) 0
/-- The group's budget (08 R223). -/
def Group.entryBudget (g : Group) : Nat := if g.id.budget = 0 then g.id.vregs * 256 else g.id.budget

/-- A register moved to the end of the write order. -/
def GRegs.touch (r : GRegs) (n : Nat) : GRegs := { r with order := (r.order.filter fun x => x != n) ++ [n] }

/-- The value after a write of the lanes `m` (08 R222): a full write takes the shape, another becomes
general and keeps its inactive lanes; lanes without a live thread hold zero. -/
def writtenVal (live m : Lanes) (old : VVal) (shape : Option VVal) (f : Nat → Word) : VVal :=
  let gen := VVal.general ((List.range 32).map fun l =>
    if !live.has l then 0#32 else if m.has l then f l else old.lane l)
  if live &&& ~~~m = 0#32 then shape.getD gen else gen

/-- The poisoned entry that a write of the lanes `m` leaves (05 R130): none after a full write; of a general register the
entry of a lane that keeps its value; of another shape the entry of a lane that takes its value from the old one. -/
def VReg.poisonAfter (r : VReg) (live m : Lanes) : Option (Nat × Poison) :=
  match r.poison with
  | .none => .none
  | some (e, p) =>
    if live &&& ~~~m = 0#32 then .none
    else match r.val with
      | .general _ => if m.has e || !live.has e then .none else some (e, p)
      | _ => ((live &&& ~~~m).toList.head?).map fun l => (l, p)

/-- A write of a vector register for the lanes `m`; nothing is written for no lane. -/
def Group.writeLanes (g : Group) (m : Lanes) (n : Nat) (shape : Option VVal) (f : Nat → Word) : Group :=
  if m = 0#32 then g
  else g.withRegs fun r =>
    let old := g.vreg n
    ({ r with v := putAt VReg.zero r.v n ⟨writtenVal g.ctl.live m old.val shape f, 0, old.poisonAfter g.ctl.live m⟩ }).touch n

/-- A write of a vector register for the active lanes. -/
def Group.writeV (g : Group) (n : Nat) (shape : Option VVal) (f : Nat → Word) : Group :=
  g.writeLanes g.ctl.act n shape f

/-- The lowest active lane with a live thread; 0 where there is none. -/
def Group.firstAct (g : Group) : Nat := ((g.ctl.act &&& g.ctl.live).toList.head?).getD 0

/-- A result of an instruction written for the active lanes, in the shape of 08 R221. -/
def Group.put (g : Group) (n : Nat) (r : ShapeRule) (srcs : List VVal) (f : Nat → Word) : Group :=
  g.writeV n (r.value srcs g.firstAct f) f

/-! ### Packing (08 R225) -/

/-- The live lanes' values all lie in a signed range. -/
def laneRange (live : Lanes) (f : Nat → Word) (lo hi : Int) : Bool :=
  live.toList.all fun l => decide (lo ≤ (f l).toInt ∧ (f l).toInt ≤ hi)
def laneURange (live : Lanes) (f : Nat → Word) (hi : Nat) : Bool :=
  live.toList.all fun l => decide ((f l).toNat ≤ hi)

/-- The format tag and bytes of a register: the first format that holds it. -/
def packReg (live : Lanes) (v : VVal) : Nat × List Byte :=
  let f (l : Nat) : Word := if live.has l then v.lane l else 0#32
  let bytesOf (n : Nat) : List Byte := (List.range 32).flatMap fun l => leBytes n (f l).toNat
  match v with
  | .uniform b => (1, wordBytes b)
  | .affine b s => (2, wordBytes b ++ wordBytes s)
  | .general _ =>
    if laneRange live f (-128) 127 then (3, bytesOf 1)
    else if laneURange live f 255 then (4, bytesOf 1)
    else if laneRange live f (-32768) 32767 then (5, bytesOf 2)
    else if laneURange live f 65535 then (6, bytesOf 2)
    else (7, bytesOf 4)

/-- Bytes a packed register takes. -/
def packLen (tag : Nat) : Nat :=
  match tag with
  | 1 => 4
  | 2 => 8
  | 3 => 32
  | 4 => 32
  | 5 => 64
  | 6 => 64
  | 7 => 128
  | _ => 0

/-- The register of a tag and its bytes; lanes without a live thread refill as zero. -/
def unpackReg (live : Lanes) (tag : Nat) (b : List Byte) : VVal :=
  let at4 (i : Nat) : Word := bytesWord ((b.drop (4 * i)).take 4)
  let lanes (n : Nat) (signed : Bool) : VVal := .general ((List.range 32).map fun l =>
    if !live.has l then 0#32
    else
      let x := leValue ((b.drop (n * l)).take n)
      if signed then BitVec.ofInt 32 (signedOf (8 * n) x) else BitVec.ofNat 32 x)
  match tag with
  | 1 => .uniform (at4 0)
  | 2 => .affine (at4 0) (at4 1)
  | 3 => lanes 1 true
  | 4 => lanes 1 false
  | 5 => lanes 2 true
  | 6 => lanes 2 false
  | _ => lanes 4 false

/-! ### Places of a group -/

/-- The region of a group's block. -/
def State.regionOf (s : State) (g : Group) : Option Region := s.regions[(s.block g.id.block).region]?
def State.partOf (s : State) (g : Group) : Nat := (s.ctx g.id.ctx).part

/-- The spill base in force: the storage header's as read at the take, or within a gate call the callee
context's (08 R226, 13 R347). -/
def State.spillBase (s : State) (g : Group) : Nat :=
  if g.inGate then
    match s.readVa g.id.ctx ((s.ctx g.id.ctx).save + 0x10) 8 with
    | .ok b => leValue b
    | .error _ => 0
  else match s.regionOf g with
    | some r => r.spillBase
    | .none => 0

/-- The spill-slot address of a register (08 R226). -/
def State.slotAddr (s : State) (g : Group) (r : Nat) : Nat :=
  s.spillBase g + g.loc.gid * 0x3800 + r * 128

/-- A fault with its own address. -/
def FaultInfo.at (code : Nat) (addr : Nat) (detail : Nat) : FaultInfo :=
  ⟨code, some (BitVec.ofNat 64 addr), detail, 0, .none, 0, false⟩
/-- A fault at an offset of the block's shared segment. -/
def FaultInfo.atSeg (code : Nat) (off : Nat) : FaultInfo :=
  ⟨code, some (BitVec.ofNat 64 off), 0, 0, .none, 0, true⟩
/-- A fault at its instruction's address. -/
def FaultInfo.here (code detail : Nat) : FaultInfo := ⟨code, .none, detail, 0, .none, 0, false⟩

/-- The translation of a group's access, with the group's privilege. -/
def State.xlateG (s : State) (g : Group) (write : Bool) (va : Nat) : Except XFault TlbEntry :=
  s.xlate g.loc.cell g.loc.quad g.id.ctx ⟨write, false, g.id.sys⟩ va

/-- What a group's access to an address leaves in the TLBs. -/
def State.useG (s : State) (g : Group) (va : Nat) : State := s.tlbUse g.loc.cell g.loc.quad g.id.ctx va

/-- A fault of a group's access at an address. -/
def XFault.info (x : XFault) (write : Bool) (va : Nat) : FaultInfo :=
  .at x.code va (x.detail ⟨write, false, false⟩)

/-! ### The skim engine (08 R224, R226) -/

/-- The byte of its slot at which a poisoned entry of a register stands in a format. -/
def entryByte (tag e : Nat) : Nat :=
  match tag with
  | 1 => 0
  | 2 => 4 * e
  | 3 => e
  | 4 => e
  | 5 => 2 * e
  | 6 => 2 * e
  | _ => 4 * e

/-- Bytes written to a slot as a private access that is never held uncommitted (08 R226): into the cell cache, or home for
MEM 1; `none` where the cell cache has no way. -/
def State.slotWrite (s : State) (part cell b : Nat) (t : TlbEntry) (va : Nat) (bytes : List Byte) : Option State :=
  let s1 := s.commitOthers part cell b (t.phys va) bytes.length
  if t.mem = 1 then some (s1.homeWrite (t.phys va) bytes) else s1.cacheWrite part cell .spill (t.phys va) bytes

/-- The sector of a slot's byte is poisoned, where the write put it. -/
def State.slotMark (s : State) (part cell : Nat) (t : TlbEntry) (va : Nat) (p : Poison) : State :=
  if t.mem = 1 then { s with memPoison := s.memPoison.mark (t.phys va) p }
  else s.modWindow part cell fun w => { w with cachePoison := w.cachePoison.mark (t.phys va) p }

/-- Spill one register: its packed bytes go to its slot, poison with them (05 R130). The outcome `none` in the inner
position means that the cache has no way and the group waits. -/
def State.spillReg (s : State) (i r : Nat) : Except FaultInfo (Option State) :=
  let g := s.group i
  let va := s.slotAddr g r
  match s.xlateG g true va with
  | .error e => .error (e.info true va)
  | .ok t =>
    let (tag, b) := packReg g.ctl.live (g.vreg r).val
    let part := s.partOf g
    match (s.useG g va).slotWrite part g.loc.cell g.id.block t va b with
    | .none => .ok .none
    | some s1 =>
      let s2 := match (g.vreg r).poison with
        | some (e, p) => s1.slotMark part g.loc.cell t (va + entryByte tag e) p
        | .none => s1
      .ok (some (s2.modGroup i fun g => g.withRegs fun rs =>
        { rs with v := modifyAt rs.v r fun x => { x with tag := tag, poison := .none } }))

/-- The registers that may be spilled: resident, not named, without a pending result; the least recently
written first. -/
def Group.victims (g : Group) (named : List Nat) : List Nat :=
  g.regs.order.filter fun r =>
    decide ((g.vreg r).tag = 0) && !named.contains r && !(g.regs.pend.any fun p => p.regs.contains r)

/-- Spill until usage is within the budget, then, where no victim remains, the named destinations. -/
def State.skimGo (s : State) (i : Nat) (named dests : List Nat) : Nat → Except FaultInfo (Option State)
  | 0 => .ok (some s)
  | fuel + 1 =>
    let g := s.group i
    if g.usage ≤ g.entryBudget then .ok (some s)
    else
      let next := match (g.victims named).head? with
        | some r => some r
        | .none => dests.find? fun r => decide ((g.vreg r).tag = 0)
      match next with
      | .none => .ok (some s)
      | some r => match s.spillReg i r with
        | .error e => .error e
        | .ok .none => .ok .none
        | .ok (some s1) => s1.skimGo i named dests fuel
def State.skim (s : State) (i : Nat) (named dests : List Nat) : Except FaultInfo (Option State) :=
  s.skimGo i named dests 120

/-- Poison met at a virtual address: the address, its sector and the poison. -/
abbrev MetAt := Nat × Nat × Poison

/-- What a slot read comes to: the state it leaves, the register's value with poisoned bytes read as 0xFF, and the
poison met. -/
structure SlotRead where
  st : State
  val : VVal
  met : Option MetAt

/-- Read a spilled register's value from its slot as a private access (08 R226, R231): through the cell cache, which fetches
the bytes that are not valid, or at the home copy for MEM 1; `none` where the cell cache has no way. -/
def State.readSlot (s : State) (i r : Nat) : Except FaultInfo (Option SlotRead) :=
  let g := s.group i
  let va := s.slotAddr g r
  let n := packLen (g.vreg r).tag
  match s.xlateG g false va with
  | .error e => .error (e.info false va)
  | .ok t =>
    let pa := t.phys va
    let part := s.partOf g
    let s1 := (s.useG g va).commitOthers part g.loc.cell g.id.block pa n
    let out (st : State) (b : List Byte) (hit : Nat → Option (Nat × Poison)) : SlotRead :=
      { st := st
        val := unpackReg g.ctl.live (g.vreg r).tag (poisonedBytes (fun k => (hit (pa + k)).isSome) b)
        met := (List.range n).findSome? fun k => (hit (pa + k)).map fun q => (va + k, q.1, q.2) }
    if t.mem = 1 then .ok (some (out s1 (s1.homeRead pa n) fun a => s1.memPoison.hit a 1))
    else match s1.fillLine part g.loc.cell (pa / 128) with
      | .none => .ok .none
      | some s2 => .ok (some (out s2 (s2.cachedRead part g.loc.cell pa n) fun a => s2.cachedPoison part g.loc.cell a 1))

/-- What taking spilled registers comes to: the state, the poison that a refill consumed, and the poison in a register that
stays spilled, which its reader consumes. -/
structure Refill where
  st : State
  consumed : Option MetAt
  left : Option MetAt

/-- The first of two. -/
def first {α : Type} (a b : Option α) : Option α := match a with | some x => some x | .none => b

/-- Take the values of registers that are spilled from their slots; each is made resident again when the victims can
make room, and stays spilled otherwise (08 R224). -/
def State.refill (s : State) (i : Nat) (named : List Nat) : List Nat → Except FaultInfo (Option Refill)
  | [] => .ok (some ⟨s, .none, .none⟩)
  | r :: rest =>
    let g := s.group i
    if (g.vreg r).tag = 0 then s.refill i named rest
    else match s.readSlot i r with
      | .error e => .error e
      | .ok .none => .ok .none
      | .ok (some x) =>
        let keep (t : Nat) (s : State) : State := s.modGroup i fun g => g.withRegs fun rs =>
          { rs with v := modifyAt rs.v r fun y => { y with val := x.val, tag := t } }
        let room := x.val.entries + g.usage -
          ((g.victims named).map fun y => (g.vreg y).val.entries).foldl (· + ·) 0
        let fits := decide (room ≤ g.entryBudget)
        let next : Except FaultInfo (Option State) :=
          if fits then (keep 0 x.st).skim i named [] else .ok (some (keep (g.vreg r).tag x.st))
        match next with
        | .error e => .error e
        | .ok .none => .ok .none
        | .ok (some s1) => match s1.refill i named rest with
          | .ok (some y) => .ok (some { y with
              consumed := if fits then first x.met y.consumed else y.consumed
              left := if fits then y.left else first x.met y.left })
          | y => y

end Sys2Proof.Machine
end

