-- ==== Sys2Proof/Machine/Flags.lean ====
section
/-! DEFINITION. Every flag computation: the floating-point flags of the active lanes, ORed into sr.fpstat
and held against the trap enables of sr.fpctl (10 R277, 14 R374), and the masks that compares and carries
write. -/
namespace Sys2Proof.Machine
open Sys2Proof

/-- The lanes that raise flags: active, and no helper (10 R277). -/
def Group.flagLanes (g : Group) : Lanes := g.ctl.act &&& ~~~g.ctl.helper

/-- The OR of the flags of a set of lanes. -/
def orFlags (m : Lanes) (f : Nat → FFlags) : FFlags :=
  m.toList.foldl (fun acc l => acc ||| f l) fNone

/-- The trap enables of sr.fpctl. -/
def Group.trapEn (g : Group) : FFlags := g.sr.fpctl.setWidth 5

/-- The group with the flags of its active lanes ORed into sr.fpstat. -/
def Group.raiseFlags (g : Group) (f : Nat → FFlags) : Group :=
  g.withSr fun r => { r with fpstat := r.fpstat ||| (orFlags g.flagLanes f).setWidth 32 }

/-- The lanes that take FP_EXCEPTION: those with a raised flag whose enable is set (14 R374). -/
def Group.excLanes (g : Group) (f : Nat → FFlags) : Lanes :=
  Lanes.ofFn 32 fun l => g.flagLanes.has l && (f l &&& g.trapEn != 0#5)

/-- The DETAIL of FP_EXCEPTION: the OR of the lanes' raised and enabled flags. -/
def Group.excDetail (g : Group) (f : Nat → FFlags) : Nat :=
  (orFlags (g.excLanes f) f &&& g.trapEn).toNat

/-- A mask written for the active lanes only: bits of other lanes keep their values (14 R377, R380). -/
def Group.writeMaskLanes (g : Group) (k : Nat) (p : Nat → Bool) : Group :=
  g.setK k ((g.kreg k &&& ~~~g.ctl.act) ||| Lanes.ofFn 32 fun l => g.ctl.act.has l && p l)

/-- The rounding mode of a 2-bit field: 3 is DYN, the mode field of sr.fpctl, in which 3 is taken as 0
(10 R274). -/
def Group.rmodeCode (g : Group) (rm : Nat) : Nat :=
  let m := bits g.sr.fpctl.toNat 9 8
  if rm = 3 then (if m = 3 then 0 else m) else rm

/-- The mode of a code 0, 1 or 2, with a draw for stochastic rounding. -/
def rmodeOf (code draw : Nat) : RMode := if code = 1 then .rtz else if code = 2 then .sr draw else .rne

/-- The draws that each active lane takes under stochastic rounding, `n` of them (10 R279): the lanes'
next generator states, and the numbers drawn in order. -/
def drawMany : Nat → Word → Word × List Nat
  | 0, x => (x, [])
  | n + 1, x =>
    let (x1, r) := draw x
    let (x2, rs) := drawMany n x1
    (x2, r :: rs)

/-- The generator state of a lane. -/
def Group.genOf (g : Group) (l : Nat) : Word := g.id.gen.getD l 0#32

/-- The group after each lane of a set has taken `n` draws. -/
def Group.advanceGen (g : Group) (m : Lanes) (n : Nat) : Group :=
  let gen := (List.range 32).map fun l => if m.has l then (drawMany n (g.genOf l)).1 else g.genOf l
  { g with id := { g.id with gen := gen } }

end Sys2Proof.Machine
end

