-- ==== Sys2Proof/Machine/Operands.lean ====
section
/-! DEFINITION. Every operand form (12 R319 to R322): vector operand codes, what they read, and which
values raise ILLEGAL_OPERAND with which DETAIL. -/
namespace Sys2Proof.Machine
open Sys2Proof

/-- The value a vector operand code reads, with its shape (12 R321, 07 R191). -/
def Group.opVal (g : Group) (code : Nat) (lit : Word) : VVal :=
  if code < 112 then (g.vreg code).val
  else if code < 120 then .uniform (g.sreg (code - 112))
  else match code with
    | 120 => .uniform 0#32
    | 121 => .affine 0#32 1#32
    | 122 =>
      if g.id.relaunched then .general (g.id.tidx.map (BitVec.ofNat 32))
      else .affine (BitVec.ofNat 32 (g.id.tidx.getD 0 0)) 1#32
    | 123 => .general ((List.range 32).map fun l => BitVec.ofNat 32 (l % 4))
    | _ => .uniform lit

/-- The value of a vector operand code in lane L; a register's lane without a live thread reads as zero
(14 R370). -/
def Group.opLane (g : Group) (code : Nat) (lit : Word) (l : Nat) : Word :=
  if code < 112 && !g.ctl.live.has l then 0#32 else (g.opVal code lit).lane l

/-- A check of one field: the DETAIL of the ILLEGAL_OPERAND it raises, if any. -/
inductive Chk where
  /-- a vector source; code 124 is legal where the FN carries an EL word -/
  | vsrc (code : Nat) (lit : Bool)
  /-- a vector destination of `n` registers, the first a multiple of `al` -/
  | vdst (code n al : Nat)
  /-- a group of `n` source registers named directly -/
  | vgrp (code n al : Nat)
  /-- a scalar pair: an even number -/
  | pair (n : Nat)
  /-- a mask register as destination: not k0 -/
  | kdst (n : Nat)
  /-- a scalar whose value lies below a bound -/
  | slt (n bound : Nat)
  /-- another condition of the field, with its DETAIL -/
  | cond (ok : Bool) (detail : Nat)
  deriving DecidableEq, Repr

/-- The DETAIL of a check that fails (12 R320, R321; 08 R217 to R219; 15 R409). -/
def Chk.fails (g : Group) : Chk → Option Nat
  | .vsrc c lit =>
    if c < 112 then (if c < 8 * g.id.vregs then .none else some c)
    else if c < 124 then .none
    else if decide (c = 124) && lit then .none else some c
  | .vdst c n al => if c + n ≤ 112 && decide (c + n ≤ 8 * g.id.vregs) && decide (c % al = 0) then .none else some c
  | .vgrp c n al => if c + n ≤ 112 && decide (c + n ≤ 8 * g.id.vregs) && decide (c % al = 0) then .none else some c
  | .pair n => if n % 2 = 0 then .none else some n
  | .kdst n => if n = 0 then some 0 else .none
  | .slt n b => if (g.sreg n).toNat < b then .none else some n
  | .cond ok d => if ok then .none else some d

/-- The first failing check, the fields taken from the most significant bit down (12 R325). -/
def firstFail (g : Group) : List Chk → Option Nat
  | [] => .none
  | c :: r => match c.fails g with
    | some d => some d
    | .none => firstFail g r

/-- The registers that a check list names: vector sources and destinations. -/
def Chk.named : Chk → List Nat
  | .vsrc c _ => if c < 112 then [c] else []
  | .vdst c n _ => (List.range n).map fun i => c + i
  | .vgrp c n _ => (List.range n).map fun i => c + i
  | _ => []
/-- The registers it reads as sources. -/
def Chk.reads : Chk → List Nat
  | .vsrc c _ => if c < 112 then [c] else []
  | .vgrp c n _ => (List.range n).map fun i => c + i
  | _ => []
/-- The registers it writes. -/
def Chk.writes : Chk → List Nat
  | .vdst c n _ => (List.range n).map fun i => c + i
  | _ => []

end Sys2Proof.Machine
end

