-- ==== Sys2Proof/Machine/Ops.lean ====
section
/-! DEFINITION. The operations that the meanings share: error records, barrier objects and the block
barrier, the end of threads, the mask stack's Unwind, and TAKING A FAULT: parking for the handler, the
fault domains, the callee fault, with the return from the handler beside it (11 R290 to R300, 05 R130
to R143, 13 R339, R340, R349, 07 R202, R204). -/
namespace Sys2Proof.Machine
open Sys2Proof

/-! ### Error records (05 R133, R134, R137) -/

/-- An error record but for its SEQ, TIME and place in its queue. -/
structure ErrRec where
  kind : Nat
  flags : Nat
  ctx : Nat
  domain : Nat
  paddr : Nat
  vaddr : Nat
  pc : Nat
  cell : Nat
  sub : Nat
  group : Nat
  skid : Nat
  source : Nat
  unit : Nat
  detail : Nat
  deriving DecidableEq, Repr

/-- A record that concerns no group. -/
def ErrRec.plain (kind ctx : Nat) : ErrRec := ⟨kind, 0, ctx, 0xFF, 0, 0, 0, 0, 0, 0, 0, 0, 0, 0⟩

/-- The 64 bytes of a record. -/
def ErrRec.bytes (r : ErrRec) (seq time : Nat) : List Byte :=
  leBytes 4 seq ++ leBytes 1 r.kind ++ leBytes 1 r.flags ++ leBytes 1 r.ctx ++ leBytes 1 r.domain
  ++ leBytes 8 r.paddr ++ leBytes 8 r.vaddr ++ leBytes 8 r.pc ++ leBytes 1 r.cell ++ leBytes 1 r.sub
  ++ leBytes 2 r.group ++ leBytes 2 r.skid ++ leBytes 1 r.source ++ leBytes 1 r.unit
  ++ leBytes 16 r.detail ++ leBytes 4 time ++ leBytes 4 seq

/-- The sequence number after this one: it never takes 0. -/
def nextSeq (n : Nat) : Nat := if n ≥ 0xFFFFFFFF then 1 else n + 1

/-- A vector's mask bit in the MSI-X table, which is set at reset (02 R41, the standard PCIe layout). -/
def HostFn.masked (f : HostFn) (v : Nat) : Bool := !(f.msix.get (16 * v + 12)).toNat.testBit 0

/-- A vector raised while it is masked is pending. -/
def HostFn.pend (f : HostFn) (v : Nat) : HostFn :=
  if f.masked v && !f.pending.contains v then { f with pending := v :: f.pending } else f

/-- The clocks of the cells and of the hypervisor cores run: SYSCLK does, and the device is not in D-HOLD (01 R17, 02 R57). -/
def Hub.running (h : Hub) : Bool := h.sysclk && h.dstate != 2

/-- An enabled window holds the whole address range of an outbound request of a kind (02 R67). -/
def Hub.granted (h : Hub) (write : Bool) (a n : Nat) : Bool :=
  (h.winBase.zip h.winLimit).any fun w =>
    bit w.1 (if write then 1 else 0) && decide (w.1 / 4096 ≤ w.2 / 4096 ∧ w.1 / 4096 ≤ a / 4096 ∧ (a + n - 1) / 4096 ≤ w.2 / 4096)

/-- WIN_VIOL after a refused request: the first since the register was cleared is kept (02 R68). -/
def Hub.violated (h : Hub) (write : Bool) (a : Nat) : Hub :=
  if h.winViol.testBit 0 then h else { h with winViol := a / 4096 * 4096 + (if write then 2 else 0) + 1 }

/-- The memory write that a vector's message is: its address and data (02 R41, the standard PCIe layout). -/
def HostFn.message (f : HostFn) (v : Nat) : Nat × Nat := (f.msix.value (16 * v) 8, f.msix.value (16 * v + 8) 4)

/-- A vector of a function is raised: pending while it is masked, else its message is sent where a window holds it. Tells
whether it was refused. -/
def Hub.vector (h : Hub) (f v : Nat) : Hub × Bool :=
  let h1 := { h with raised := h.raised ++ [(f, v)], fns := modifyAt h.fns f fun x => x.pend v }
  match h.fns[f]? with
  | .none => (h1, false)
  | some x =>
    if x.masked v then (h1, false)
    else
      let m := x.message v
      if h.granted true m.1 4 then ({ h1 with sent := h1.sent ++ [(f, m.1, m.2)] }, false) else (h1.violated true m.1, true)

/-- Raise a vector of a function (02 R43). A message that no window holds raises the window-violation vector, whose own
message, where it is refused in turn, raises no more (02 R68). -/
def State.raise (s : State) (f v : Nat) : State :=
  let x := s.hub.vector f v
  { s with hub := if x.2 then (x.1.vector 0 5).1 else x.1 }

/-- Raise a vector for a context: one in the physical function, another in a virtual one (05 R134). -/
def State.raiseCtx (s : State) (c pf vf : Nat) : State :=
  let f := s.ctxFunc c
  s.raise f (if f = 0 then pf else vf)

/-- Write a record to the device queue, or count it lost. -/
def State.devRecord (s : State) (r : ErrRec) : State :=
  let h := s.hub
  let n := 2 ^ (if h.devqLog = 0 then 16 else h.devqLog)
  let pa := h.devqBase * 4096 + h.devqHead % n * 64
  -- no record is written while a hold-up save stands (05 R160)
  if h.save.isSome then s
  else if h.devqEn && decide (pa + 64 ≤ dataEnd) && (s.memPoison.hit pa 64).isNone then
    let s1 := s.homeWrite pa (r.bytes h.devqSeq (s.hv % 2 ^ 32))
    ({ s1 with hub := { s1.hub with devqHead := (h.devqHead + 1) % n, devqSeq := nextSeq h.devqSeq } }).raise 0 12
  else { s with hub := { h with devqLost := min 0xFFFF (h.devqLost + 1) } }

/-- Write a record to its context's queue; one that cannot be written there, for a failing translation or for poison at
the queue's entry, goes to the device queue. -/
def State.ctxRecord (s : State) (r : ErrRec) : State :=
  let c := s.ctx r.ctx
  let va := c.errq + c.errHead % 2 ^ c.errqlog * 64
  if s.hub.save.isSome then s
  else match (if s.poisonVa r.ctx va 64 then .error (.translation 1 3) else s.writeVa r.ctx va (r.bytes c.errSeq (s.hv % 2 ^ 32))) with
  | .error _ => s.devRecord { r with flags := r.flags ||| 2 }
  | .ok s1 =>
    (s1.modCtx r.ctx fun c => { c with errHead := (c.errHead + 1) % 2 ^ c.errqlog, errSeq := nextSeq c.errSeq }).raiseCtx
      r.ctx 14 7

/-- The rank of a cell among a block's cells. -/
def Block.rank (b : Block) (cell : Nat) : Nat := (findIdx' (· == cell) b.cells).getD 0
/-- The window offset of a block's segment on a cell. -/
def Block.seg (b : Block) (cell : Nat) : Nat := b.segBase.getD (b.rank cell) 0

/-- The classes whose ADDR is an address, so that their record's VADDR is valid: not a word index, a time
or a whole-barrier mark. -/
def addressed (f : FaultInfo) : Bool :=
  [0x03, 0x06, 0x07, 0x09, 0x0A, 0x0B, 0x0C, 0x0D, 0x11, 0x1A].contains f.code
    && f.addr.isSome && f.addr != some (BitVec.allOnes 64)

/-- The record of a fault of a group (11 R298); a segment offset becomes a window offset (08 R230). -/
def State.faultRecord (s : State) (g : Group) (f : FaultInfo) (domain pc skid : Nat) : State :=
  let base := if f.seg then (s.block g.id.block).seg g.loc.cell else 0
  s.ctxRecord
    { kind := f.code
      flags := if addressed f then 1 else 0
      ctx := g.id.ctx, domain := domain, paddr := f.paddr
      vaddr := if addressed f then base + (f.addr.getD 0#64).toNat else 0
      pc := pc
      cell := g.loc.cell, sub := if g.loc.abacus then 32 else g.loc.sub, group := g.loc.gid
      skid := skid
      source := match f.poison with | some p => p.source | .none => 0
      unit := match f.poison with | some p => p.unit | .none => 0
      detail := f.bytes }

/-! ### The shared segment -/

/-- A segment offset and length are reached by plain accesses of the block: within SHARED, and off the
ring words of a ring block (15 R416, R436). -/
def Block.segOk (b : Block) (off n : Nat) : Bool :=
  decide (off + n ≤ b.shared) && !(b.rings.any (·.en) && decide (off < 64))

def State.segRead (s : State) (b cell off n : Nat) : List Byte :=
  let bl := s.block b
  s.winRead bl.part cell (bl.seg cell + off) n
def State.segWrite (s : State) (b cell off : Nat) (x : List Byte) : State :=
  let bl := s.block b
  s.winWrite bl.part cell (bl.seg cell + off) x

/-! ### Publication for the race detector (09 R267) -/

/-- An engine arrival or a release of a group on a cell: it adds one to RS and publishes the writes. -/
def State.publish (s : State) (b cell : Nat) (sel : RaceTag → Bool) : State :=
  s.modBlock b fun bl =>
    let rk := bl.rank cell
    let n := bl.rs.getD rk 0 + 1
    { bl with
      rs := bl.rs.set rk n
      tags := bl.tags.map fun t => if t.rank == rk && t.pub.isNone && sel t then { t with pub := some n } else t }

/-- A publishing release of group `i`: its plain writes, and those of its operations without a barrier
object that have retired. -/
def State.publishGroup (s : State) (i : Nat) : State :=
  let g := s.group i
  let sel (t : RaceTag) : Bool := t.writer == i && (match t.op with
    | .none => true
    | some n => !(g.asy.ops.any fun o => o.id == n))
  let bl := s.block g.id.block
  -- writes of its operations on the block's other cells (HOD.SEND) are published there (09 R267)
  let away := bl.cells.filter fun c => c != g.loc.cell && bl.tags.any fun t => t.rank == bl.rank c && t.pub.isNone && sel t
  away.foldl (fun s c => s.publish g.id.block c sel) (s.publish g.id.block g.loc.cell sel)

/-- An acquire of scope .cell or wider of group `i`. -/
def State.acquireRace (s : State) (i : Nat) : State :=
  let g := s.group i
  let b := s.block g.id.block
  s.modGroup i fun g => g.withAsy fun a => { a with acq := b.rs.getD (b.rank g.loc.cell) 0 }

/-! ### Barrier objects (13 R351 to R357, 15 R433) -/

/-- A barrier object. -/
structure BObj where
  mode : Bool
  phase : Bool
  flight : Nat
  unarr : Nat
  subs : Nat
  got : Nat
  expect : Nat
  base : Nat
  deriving DecidableEq, Repr

def BObj.ofNat (x : Nat) : BObj :=
  ⟨bit x 121, bit x 120, bits x 119 104, bits x 103 88, bits x 87 72, bits x 71 48, bits x 47 24, bits x 23 0⟩
def BObj.toNat (o : BObj) : Nat :=
  (if o.mode then 2 ^ 121 else 0) + (if o.phase then 2 ^ 120 else 0) + o.flight % 2 ^ 16 * 2 ^ 104
  + o.unarr % 2 ^ 16 * 2 ^ 88 + o.subs % 2 ^ 16 * 2 ^ 72 + o.got % 2 ^ 24 * 2 ^ 48
  + o.expect % 2 ^ 24 * 2 ^ 24 + o.base % 2 ^ 24

def State.bobj (s : State) (b cell off : Nat) : BObj := .ofNat (leValue (s.segRead b cell off 16))
def State.setBobj (s : State) (b cell off : Nat) (o : BObj) : State := s.segWrite b cell off (leBytes 16 o.toNat)

/-- A phase is starved (13 R357). -/
def BObj.starved (o : BObj) : Bool :=
  decide (o.got < o.expect) &&
    (if o.mode then decide (o.unarr + o.flight = 0) else decide (o.unarr + o.flight < o.expect - o.got))

/-- Change every resident group of a block on a cell. -/
def State.mapGroups (s : State) (b cell : Nat) (f : Group → Group) : State :=
  { s with groups := s.groups.map fun g =>
      if g.id.block == b && g.loc.cell == cell && g.ctl.status != .free then f g else g }

/-- The wake condition of a blocked group has come true. -/
def Group.hit (g : Group) (w : Wake) : Group :=
  if g.ctl.status == .blocked w then g.withCtl fun c => { c with wakeHit := true } else g

/-- A slice wait that is due can be taken: within a gate call only after the outermost GRET (06 R186, 13 R347). -/
def Group.sliceDue (g : Group) : Bool := g.ctl.sliceWait && !g.inGate

/-- A group takes the slice wait (06 R182, R184). -/
def Group.waitSlice (g : Group) : Group :=
  g.withCtl fun c => { c with status := .blocked .slice, runCount := 0, loss := 0, promoted := false }

/-- A group in either wait that a slice end puts it into. -/
def Group.inSlice (g : Group) : Bool := g.ctl.status == .blocked .slice || g.ctl.status == .blocked .kstep

/-- A matrix-role group takes its slice wait at a K-step boundary of its bead engine, in the midst of a run (06 R182, R186). -/
def Group.waitKstep (g : Group) : Group :=
  g.withCtl fun c => { c with status := .blocked .kstep, runCount := 0, loss := 0, promoted := false }

/-- A group of a block that a slice end or an emptied quadrant calls out: one that is ready is blocked at once, another at
its next run boundary (06 R186, 03 R91). -/
def Group.callSlice (g : Group) : Group :=
  let g1 := g.withCtl fun c => { c with sliceWait := true }
  if g1.sliceDue && g.ctl.status == .ready then g1.waitSlice else g1

/-- The slice wait is lifted: a group in it becomes ready (06 R186). -/
def Group.liftSlice (g : Group) (now : Nat) : Group :=
  g.withCtl fun c => { c with sliceWait := false, status := if g.inSlice then .ready else c.status
                              readyTime := if g.inSlice then now else c.readyTime }

/-- A blocked group becomes ready, or takes the slice wait that is due without issuing (06 R182, R186). -/
def Group.wakeUp (g : Group) (now : Nat) : Group :=
  if g.sliceDue then g.waitSlice else g.withCtl fun c => { c with status := .ready, readyTime := now }

/-- Complete the phase when the count is reached (13 R351): the phase bit flips, the waiters' condition
comes true, no subscribed lane has arrived in the new phase. -/
def State.bobjComplete (s : State) (b cell off : Nat) : State :=
  let o := s.bobj b cell off
  if decide (o.got = o.expect) && decide (0 < o.expect) then
    let s1 := s.setBobj b cell off { o with phase := !o.phase, got := 0, expect := o.base, unarr := o.subs }
    s1.mapGroups b cell fun g =>
      (g.hit (.bobj off o.phase)).withAsy fun a =>
        { a with subs := a.subs.map fun e => if e.off == off then { e with arrived := 0#32 } else e }
  else s

/-- One arrival of an amount that does not exceed what is expected. -/
def State.bobjArrive (s : State) (b cell off amount : Nat) : State :=
  let o := s.bobj b cell off
  (s.setBobj b cell off { o with got := o.got + amount }).bobjComplete b cell off

/-- The waiters of a starved phase raise BOBJ_STARVED when they issue again (13 R357). -/
def State.bobjStarve (s : State) (b cell off : Nat) : State :=
  let o := s.bobj b cell off
  if o.starved then s.mapGroups b cell fun g =>
    if g.ctl.status == .blocked (.bobj off o.phase) then
      (g.hit (.bobj off o.phase)).withTrap fun t => { t with atNext := some (.atSeg 0x0D off) }
    else g
  else s

/-- Lanes of a group leave an object (13 R354). -/
def State.bobjLeave (s : State) (i off : Nat) (m : Lanes) : State :=
  let g := s.group i
  match g.asy.subs.find? fun e => e.off == off with
  | .none => s
  | some e =>
    let gone := e.lanes &&& m
    let o := s.bobj g.id.block g.loc.cell off
    let s1 := s.setBobj g.id.block g.loc.cell off
      { o with subs := o.subs - gone.count, unarr := o.unarr - (gone &&& ~~~e.arrived).count }
    let s2 := s1.modGroup i fun g => g.withAsy fun a =>
      let left := a.subs.map fun x => if x.off == off then
          { x with lanes := x.lanes &&& ~~~gone, arrived := x.arrived &&& ~~~gone } else x
      { a with subs := left.filter fun x => x.lanes != 0#32 }
    s2.bobjStarve g.id.block g.loc.cell off

/-! ### The block barrier (07 R202, R203; 09 R247, R269) -/

/-- The key of a lane's thread in its block: a matrix thread's index counts within its segment. -/
def Group.thread (g : Group) (l : Nat) : Nat × Nat :=
  (if g.id.role == .matrix then g.id.seg + 1 else 0, g.id.tidx.getD l 0)

/-- Discard a block's shadow and take a new one, at a barrier that begins an interval (05 R138). -/
def State.takeShadow (s : State) (b : Nat) : State :=
  let bl := s.block b
  if bl.fdom != .rollback then s
  else
    let gs := ((List.range s.groups.length).filter fun i =>
      (s.group i).id.block == b && (s.group i).ctl.live != 0#32).map fun i => (i, s.group i)
    let rings := match gs.head? with
      | some (_, g) => match (s.cells[g.loc.cell]?).bind fun c => c.quads[g.loc.quad]? with
        | some q => bl.ringHw.filterMap fun n => q.rings[n]?
        | .none => []
      | .none => []
    s.modBlock b fun x =>
      { x with
        shadow := some
          { groups := gs
            segs := bl.cells.map fun c => (c, ((s.window bl.part c).mem.slice (bl.seg c) bl.shared))
            segPoison := bl.cells.map fun c => (c, ((s.window bl.part c).poison.filter fun p =>
              decide (bl.seg c ≤ p.1 ∧ p.1 < bl.seg c + bl.shared)).map fun p => (p.1 - bl.seg c, p.2))
            rings := rings
            index := s.cells.flatMap fun c => c.index.filter fun e => e.block == b
            barE := x.barE, dropped := x.dropped, lastphase := x.lastphase, rs := x.rs }
        early := false
        retries := 0 }

/-- A group that completes a barrier restarts, on a rollback, at the instruction after it (05 R142): its part of
the shadow is the group as its instruction left it. -/
def State.shadowAfter (s : State) (i b phase : Nat) : State :=
  if (s.block b).barP = phase then s
  else s.modBlock b fun x => { x with shadow := x.shadow.map fun h =>
    { h with groups := h.groups.filterMap fun y =>
        if y.1 = i then (if (s.group i).ctl.live = 0#32 then .none else some (i, s.group i)) else some y } }

/-- The reads of a rollback block that its barrier waits for (05 R141): every one has returned, those of atomics
included, and no consumption is pending. -/
def State.readsDone (s : State) (b : Nat) : Bool :=
  (s.block b).fdom != .rollback || (!(s.block b).rollPending
    && (s.groups.all fun g => g.id.block != b || g.ctl.status == .free ||
      (g.regs.pend.isEmpty && g.trap.skid.isEmpty && g.asy.ops.all (·.done)))
    && s.atoms.all fun a => (s.group a.group).id.block != b || a.slot.isNone)

/-- The phase completes when every expected arrival is in. A completion publishes to every cell of the
block, clears the race tags and wakes the waiters; under rollback it commits the interval, in a block on more than one
cell sends its lines home, and begins the next. -/
def State.barComplete (s : State) (b : Nat) : State :=
  let bl := s.block b
  if decide (0 < bl.barE) && decide (bl.barA = bl.barE) && s.readsDone b then
    let s0 : State := if bl.fdom == .rollback then s.commitLines b else s
    -- the barrier's release of the lines that it has just committed (05 R141, 09 R250)
    let s1 := if bl.fdom == .rollback && decide (1 < bl.cells.length) then
      bl.cells.foldl (fun s c => s.drainLines bl.part c (allFifoLines (s.window bl.part c).fifo)) s0 else s0
    let s2 : State := s1.modBlock b fun x =>
      { x with barP := x.barP + 1, barA := 0, arrived := [], tags := [] }
    let s3 : State := { s2 with groups := s2.groups.map fun g => if g.id.block == b then g.hit (.bar bl.barP) else g }
    s3.takeShadow b
  else s

/-- A thread drops from the barrier. -/
def Block.drop (x : Block) (t : Nat × Nat) : Block :=
  if x.dropped.contains t then x
  else { x with
    barA := if x.arrived.contains t then x.barA - 1 else x.barA
    arrived := x.arrived.filter fun y => y != t
    dropped := t :: x.dropped
    barE := x.barE - 1 }

/-- Threads drop, and the completion test is made after all of them. -/
def State.barDrop (s : State) (b : Nat) (ts : List (Nat × Nat)) : State :=
  (s.modBlock b fun x => ts.foldl Block.drop x).barComplete b

/-! ### The mask stack (13 R339, R340) -/

/-- The lanes of all parked sub-groups. -/
def Group.parkedLanes (g : Group) : Lanes := g.trap.parked.foldl (fun m p => m ||| p.mask) 0#32
/-- The lanes of `m` whose threads are live and not parked. -/
def Group.liveOf (g : Group) (m : Lanes) : Lanes := m &&& g.ctl.live &&& ~~~g.parkedLanes

/-- The depth below which Unwind does not go while lanes are parked (11 R294, R295). -/
def Group.floor (g : Group) : Option Nat :=
  match g.trap.pstate with
  | .handler => some g.trap.hdepth
  | .none => .none
  | _ => match g.trap.reconv with
    | r :: _ => some r.depth
    | [] => .none

/-- Unwind over a stack: the lanes and pc to go on with and the stack left; no lane where the group has
ended or waits for its parked lanes. -/
def unwindGo (lv : Lanes → Lanes) (floor : Option Nat) : List MaskEntry → Lanes × Option DWord × List MaskEntry
  | [] => (0#32, .none, [])
  | e :: rest =>
    let stop := floor == some (rest.length + 1)
    match e with
    | .ifE he past ep np pend join =>
      if !past && lv pend != 0#32 then (lv pend, some ep, .ifE he true ep np 0#32 join :: rest)
      else if stop then (0#32, .none, e :: rest)
      else if lv join != 0#32 then (lv join, some np, rest)
      else unwindGo lv floor rest
    | .loopE bp xp cont out =>
      if stop then (0#32, .none, e :: rest)
      else if lv cont != 0#32 then (lv cont, some bp, .loopE bp xp 0#32 out :: rest)
      else if lv out != 0#32 then (lv out, some xp, rest)
      else unwindGo lv floor rest
    | .callE _ => if stop then (0#32, .none, e :: rest) else unwindGo lv floor rest

/-- The run ends and the group goes to arbitration, or takes the slice wait that is due (06 R181, R183, R186). Its last
instruction issued in the clock `now`, so that it became ready in the clock after it. -/
def Group.endRun (g : Group) (now : Nat) : Group :=
  let g1 := g.withCtl fun c => { c with status := .ready, readyTime := now + 1, runCount := 0, wakeHit := false,
                                        drained := false, begun := .none, missed := .none }
  if g.sliceDue then g1.waitSlice else g1

/-- The handler of the first parked sub-group of the innermost reconvergence point, or, with none left
there, the end of the reconvergence wait (11 R295). The group stands at the point with its active
lanes. -/
def Group.atReconv (g : Group) (now : Nat) : Group :=
  match g.trap.reconv with
  | [] => g
  | r :: rest =>
    let waiting := r.waiting ||| g.ctl.act
    let pc := if r.pc != 0#64 then r.pc else if g.ctl.act != 0#32 then g.ctl.pc else 0#64
    let here (p : Park) : Bool := p.depth == r.depth
    match g.trap.parked.find? here with
    | some p =>
      let g1 := g.withTrap fun t =>
        { t with pstate := .handler, hdepth := g.ctl.stack.length, reconv := { r with waiting := waiting, pc := pc } :: rest }
      (g1.withCtl fun c => { c with act := p.mask, pc := g.sr.tvec &&& 0x0000FFFFFFFFFFC0#64, clause := .none }).endRun now
    | .none =>
      let g1 := g.withTrap fun t =>
        { t with pstate := r.outer, reconv := rest, hdepth := 0 }
      let w := waiting &&& g.ctl.live
      (g1.withCtl fun c => { c with act := w, pc := pc, clause := .none }).endRun now

/-- Unwind (13 R340): a jump ends the run; with no lane left the group waits at its reconvergence point or
has ended. `fuel` bounds the reconvergence points passed. -/
def Group.unwind (now : Nat) : Nat → Group → Group
  | 0, g => g
  | fuel + 1, g =>
    if g.ctl.act != 0#32 then g
    else
      let (a, pc, st) := unwindGo g.liveOf g.floor g.ctl.stack
      let g1 := g.withCtl fun c => { c with act := a, stack := st, pc := pc.getD c.pc, clause := .none }
      if a != 0#32 then g1.endRun now
      else if g.trap.reconv.isEmpty then g1.endRun now
      else Group.unwind now fuel (g1.atReconv now)

/-! ### The end of threads (07 R204 to R207) -/

/-- Remove lanes from every entry of a stack. -/
def MaskEntry.without (m : Lanes) : MaskEntry → MaskEntry
  | .ifE he p ep np a b => .ifE he p ep np (a &&& ~~~m) (b &&& ~~~m)
  | .loopE bp xp a b => .loopE bp xp (a &&& ~~~m) (b &&& ~~~m)
  | .callE r => .callE r

/-- The group without some lanes, their threads gone from it with their ticket bindings (17 R475) and paused
traversals (17 R495). -/
def Group.loseLanes (g : Group) (m : Lanes) : Group :=
  let g0 : Group := { g with
    id := { g.id with binds := (List.range 32).map fun l => if m.has l then .none else g.id.binds.getD l .none }
    paused := g.paused.filter fun x => !m.has x.1 }
  let g1 := g0.withCtl fun c => { c with live := c.live &&& ~~~m, act := c.act &&& ~~~m, helper := c.helper &&& ~~~m,
                                         stack := c.stack.map (MaskEntry.without m) }
  g1.withTrap fun t =>
    { t with parked := (t.parked.map fun p => { p with mask := p.mask &&& ~~~m }).filter fun p => p.mask != 0#32
             reconv := t.reconv.map fun r => { r with waiting := r.waiting &&& ~~~m } }

/-- An ended matrix-role group whose queue is empty gives up its palette reservations (16 R453, R464). -/
def State.palEnd (s : State) (i : Nat) : State :=
  let g := s.group i
  let mine := g.mat.pal.filter (·.held)
  if g.ctl.live = 0#32 && g.mat.queue.isEmpty && !mine.isEmpty then
    (s.modQuad g.loc.cell g.loc.quad fun q =>
      { q with palUnits := q.palUnits.filter fun u => !(mine.any fun r => r.base == u.1) }).modGroup i fun g =>
        g.withMat fun m => { m with pal := m.pal.map fun r => { r with held := false } }
  else s

/-- Retirement-tracker entries of a sub-core, and those of a group's sub-core that are taken (07 R207). -/
def maxTracked : Nat := 16
def State.trackerUse (s : State) (g : Group) : Nat :=
  (s.groups.filter fun x => x.ctl.status == .tracked && x.loc.cell == g.loc.cell && x.loc.sub == g.loc.sub && !x.loc.abacus).length

/-- What the end of the last thread leaves (07 R204): the group has ended; it keeps its slot until it is
released. Its monitors are freed (13 R361). -/
def State.endGroup (s : State) (i : Nat) (tail : Bool) : State :=
  (s.modGroup i fun g =>
    { (g.withCtl fun c => { c with status := if tail && !(g.id.role == .matrix) && decide (s.trackerUse g < maxTracked) then .endedTail else .ended,
                                   clause := .none, runCount := 0 }) with mons := [] }).palEnd i

/-- The time of a cell for arbitration. -/
def State.now (s : State) (g : Group) : Nat := s.cyc g.loc.cell

/-- End the threads of some lanes, as EXIT does (07 R204): the barrier drop, the objects left, the lanes
gone from every entry; then Unwind, or the end of the group. `tail` tells how the slot is released. -/
def State.endThreads (s : State) (i : Nat) (m : Lanes) (tail : Bool) : State :=
  let g := s.group i
  let m := m &&& g.ctl.live
  let s1 := s.barDrop g.id.block (m.toList.map g.thread)
  let s2 := g.asy.subs.foldl (fun s e => s.bobjLeave i e.off m) s1
  let s3 := s2.modGroup i fun g => g.loseLanes m
  let g3 := s3.group i
  if g3.ctl.live = 0#32 then s3.endGroup i tail
  else s3.modGroup i (Group.unwind (s3.now g3) 34)

/-! ### Fault domains (11 R298, 05 R132, R142, R143) -/

/-- The palette units that a group's reservations hold: those of its records and those of its queued releases
(16 R453). -/
def Group.palBases (g : Group) : List Nat :=
  (g.mat.pal.filter (·.held)).map (·.base) ++ g.mat.queue.filterMap fun e => match e.op with | .release b => b | _ => .none

/-- A block's segments, shadow areas and rings are given up (06 R187, 08 R230). -/
def State.leavePlace (s : State) (b : Nat) : State :=
  let bl := s.block b
  let windows := s.windows.map fun w =>
    if w.part == bl.part && bl.cells.contains w.cell then
      let r := bl.rank w.cell
      let offs := (bl.segBase.drop r).take 1 ++ (bl.shadowBase.drop r).take 1
      { w with allocs := w.allocs.filter fun a => !offs.contains a.1 }
    else w
  let s1 : State := { s with windows := windows }
  match bl.ringHw, s.groups.find? fun g => g.id.block == b with
  | [], _ => s1
  | hw, some g => s1.modQuad g.loc.cell g.loc.quad fun q =>
      { q with rings := hw.foldl (fun l n => l.set n ⟨false, 0, 0, 0#8, List.replicate 8 0⟩) q.rings }
  | _, .none => s1

/-- Every block of a region has retired (06 R168). -/
def State.regionEnded (s : State) (k : Nat) : Bool :=
  match s.regions[k]? with
  | .none => false
  | some r => decide (r.grid ≤ r.nextBlock) && s.blocks.all fun b => b.region != k || b.retired

/-- The declarations of regions that have ended are withdrawn, and their lines pinned no longer (05 R155, R156). -/
def State.withdrawEnded (s : State) : State :=
  if s.hub.must.isEmpty then s
  else { s with
    hub := { s.hub with must := s.hub.must.filter fun m => !s.regionEnded m.region }
    hubc := s.hubc.unpin s.regionEnded }

/-- End a block without saving it (05 R132): its groups go, its outstanding operations are dropped, its
threads in records end. -/
def State.endBlock (s : State) (b : Nat) : State :=
  let gone (g : Group) : Bool := g.id.block == b && g.ctl.status != .free
  let s0 := (s.groups.filter gone).foldl (fun s g => s.modQuad g.loc.cell g.loc.quad fun q =>
    { q with palUnits := q.palUnits.filter fun u => !g.palBases.contains u.1 })
    (if (s.block b).resident then (s.discardLines b).leavePlace b else s.discardLines b)
  State.withdrawEnded { s0 with
    groups := s0.groups.map fun g => if gone g then
        { g with ctl := { g.ctl with status := .free, live := 0#32, act := 0#32, clause := .none, stack := [] }
                 regs := { g.regs with pend := [] }
                 trap := { g.trap with parked := [], pstate := .none, reconv := [], atNext := .none, skid := [], callee := .none }
                 asy := { g.asy with ops := [], cnt := [0, 0, 0, 0] }
                 mat := { g.mat with queue := [], pal := g.mat.pal.map fun r => { r with held := false } }
                 mons := [] }
      else g
    blocks := modifyAt s0.blocks b fun x =>
      { x with terminated := true, retired := true, resident := false, image := .none, rollPending := false,
               arrived := [], barA := 0, barE := 0 }
    atoms := s0.atoms.filter fun a => !(gone (s.group a.group))
    msgs := s0.msgs.filter fun a => !(gone (s.group a.group))
    texs := s0.texs.filter fun a => (s.group a.group).id.block != b
    traces := s0.traces.filter fun a => (s.group a.group).id.block != b
    contWrites := s0.contWrites.filter fun a => a.ref.block != b
    windows := s0.windows.map fun w => { w with fifo := w.fifo.filter fun e =>
      match e with | .marker m => !(gone (s.group m)) | .line _ => true }
    cells := s0.cells.map fun c =>
      { c with
        index := c.index.filter fun e => e.block != b
        quads := c.quads.map fun q => { q with hod := q.hod.filter fun r => !(gone (s.group r.group)) } }
    regions := modifyAt s0.regions (s.block b).region fun r => { r with anyTerminated := true } }

/-- The fault domain's action on a fault other than UNCORRECTABLE (11 R298): the record, then the end of
the stopped threads or of the block. -/
def State.domainFault (s : State) (i : Nat) (f : FaultInfo) (lanes : Lanes) (pc : DWord) : State :=
  let g := s.group i
  let b := s.block g.id.block
  let s1 := s.faultRecord g f (if b.fdom == .report then 0 else 1) pc.toNat 0
  if b.fdom == .report then (if lanes = 0#32 then s1 else s1.endThreads i lanes false) else s1.endBlock g.id.block

/-- A group occupies an issue-group slot. -/
def Group.holdsSlot (g : Group) : Bool := match g.ctl.status with
  | .free => false
  | .tracked => false
  | .evicted _ => false
  | _ => true

/-- The groups of a block's shadow can be restored: those that have since given up their slots (07 R206, R207) find them
free, with their register entries. -/
def State.restorable (s : State) (b : Nat) : Bool :=
  match (s.block b).shadow with
  | .none => false
  | some h =>
    let gone := h.groups.filter fun x => !(s.group x.1).holdsSlot
    gone.all fun x =>
      let at' (y : Group) : Bool := y.loc.cell == x.2.loc.cell && y.loc.abacus == x.2.loc.abacus
        && (if y.loc.abacus then y.loc.quad == x.2.loc.quad else y.loc.sub == x.2.loc.sub)
      let here := s.groups.filter fun y => y.holdsSlot && at' y
      here.all (fun y => y.loc.slot != x.2.loc.slot)
      && (x.2.loc.abacus || decide (((here ++ (gone.map (·.2)).filter at').map Group.entryBudget).foldl (· + ·) 0 ≤ Config.registerEntries))

/-- UNCORRECTABLE at the end of its skid (05 R132, R143). -/
def State.uncorrectable (s : State) (i : Nat) (fs : List (FaultInfo × Nat)) (pc : DWord) : State :=
  let g := s.group i
  let b := s.block g.id.block
  let canRoll := b.fdom == .rollback && !b.early && decide (b.retries < 2) && s.restorable g.id.block
  let dom := match b.fdom with
    | .report => 0
    | .terminate => 1
    | .rollback => if canRoll then 2 else 3
  let s1 := fs.foldl (fun s f => s.faultRecord g f.1 dom pc.toNat f.2) s
  match b.fdom with
  | .report => s1.barComplete g.id.block
  | .terminate => s1.endBlock g.id.block
  | .rollback =>
    if canRoll then s1.modBlock g.id.block fun x => { x with rollPending := true } else s1.endBlock g.id.block

/-! ### Taking a fault -/

/-- The classes that may go to a handler (11 R290). -/
def handlerClass (code : Nat) : Bool := [0x0E, 0x0F, 0x11, 0x1C, 0x1D, 0x1E].contains code

/-- Whether a fault goes to the group's handler (11 R292). BOUND_VIOLATION comes only from an entry whose
action is trap, FP_EXCEPTION only for enabled flags. -/
def Group.toHandler (g : Group) (f : FaultInfo) : Bool :=
  handlerClass f.code && decide (g.sr.tvec &&& 0x0000FFFFFFFFFFC0#64 ≠ 0#64)
  && (f.code != 0x0E || g.sr.tvec.getLsbD 0) && g.trap.pstate != .handler

/-- The value of sr.trapinfo for a fault (11 R293). -/
def FaultInfo.trapinfo (f : FaultInfo) (pc : DWord) : DWord :=
  ((f.addr.getD pc) <<< 16) ||| BitVec.ofNat 64 (f.detail % 256 * 256 + f.code)

/-- PARK lanes for the handler (11 R294): they leave the active set with their own sr.trappc and
sr.trapinfo, the run ends, and the others run on to the reconvergence point. `trappc` is where RESUME
sends them, `ipc` the faulting instruction's address, `next` the address after it, at which the other
lanes stand. -/
def Group.park (g : Group) (f : FaultInfo) (lanes : Lanes) (trappc ipc next : DWord) (now : Nat) : Group :=
  let d := g.ctl.stack.length
  let p : Park := ⟨lanes, trappc, f.trapinfo ipc, d⟩
  let rec' : List Reconv := match g.trap.reconv with
    | r :: rest => if r.depth = d then r :: rest else ⟨d, if d = 0 then next else 0#64, 0#32, g.trap.pstate⟩ :: r :: rest
    | [] => [⟨d, if d = 0 then next else 0#64, 0#32, .none⟩]
  let g1 := g.withTrap fun t =>
    { t with parked := t.parked ++ [p], reconv := rec',
             pstate := match t.pstate with | .none => .others | x => x }
  let g2 := (g1.withCtl fun c => { c with act := c.act &&& ~~~lanes }).endRun now
  -- lanes that resumed before their point and part with a lane that parks anew run on to it
  if g2.ctl.act = 0#32 then g2.unwind now 34
  else if d = 0 && (rec'.head?.map (·.pc)) == some g2.ctl.pc then g2.atReconv now
  else g2

/-- TAKE A FAULT of kind G, L, A, B or D for some lanes of a group (11 R291 to R298): within a gate call it
is a callee fault; else it goes to the handler or to the fault domain. -/
def State.takeFault (s : State) (i : Nat) (f : FaultInfo) (lanes : Lanes) (trappc ipc next : DWord) : State :=
  let g := s.group i
  if g.inGate then
    s.modGroup i fun g =>
      let g1 := (g.withTrap fun t => { t with callee := some (f, trappc, 0) }).withCtl fun c => { c with status := .held }
      if f.code = 0x1C then g1.withSr fun r => { r with gtcmp := 0 } else g1
  else if g.toHandler f then
    let s1 := s.modGroup i fun g => g.park f lanes trappc ipc next (s.now g)
    -- delivery of TIMER disarms it (11 R299)
    if f.code = 0x1C then s1.modGroup i fun g => g.withSr fun r => { r with gtcmp := 0 } else s1
  else
    let s1 := if f.code = 0x1C then s.modGroup i fun g => g.withSr fun r => { r with gtcmp := 0 } else s
    s1.domainFault i f lanes trappc

/-- RETURN FROM THE HANDLER (11 R296): the parked lanes of the handled entry leave the table and run on
from sr.trappc until they reach the reconvergence point. -/
def Group.resumeLanes (g : Group) (now : Nat) : Group :=
  match g.trap.parked.find? fun p => some p.depth == (g.trap.reconv.head?).map (·.depth) with
  | .none => g
  | some p =>
    let g1 := g.withTrap fun t =>
      { t with parked := t.parked.filter fun q => q != p, pstate := .resumed, hdepth := 0 }
    (g1.withCtl fun c => { c with act := p.mask, pc := p.pc, clause := .none }).endRun now

/-- The first parked entry that is being handled. -/
def Group.handled (g : Group) : Option Park :=
  if g.trap.pstate == .handler then
    g.trap.parked.find? fun p => some p.depth == (g.trap.reconv.head?).map (·.depth)
  else .none

end Sys2Proof.Machine
end

