-- ==== Sys2Proof/Machine/Run.lean ====
section
/-! DEFINITION. How an SVJ instruction runs: the checks every instruction meets in the order of 12 R325,
the scoreboard and the skim engine around it, and what its result does to its group: it completes, jumps,
blocks, is held, or takes a fault. -/
namespace Sys2Proof.Machine
open Sys2Proof

/-- The families of the opcode map (12 R323), as far as a rule tells them apart. -/
inductive Fam where
  | sys | resume | tail | ctl | gate | bar | bobj | order | sem | mon | launch | msg
  | gfx | edge | cont | cbk | vec | scalar
  | cellMem | private_ | global | latom | atom | rslot | hod | cc | ring | matrix | priv
  deriving DecidableEq, Repr

/-- The role may issue the family (06 R178; 16 R442; 14 R369; 15 R413; assumption 20). -/
def roleOk : Role → Fam → Bool
  | .general, .matrix => false
  | .general, _ => true
  | .vector, .matrix => false
  | .vector, .hod => false
  | .vector, _ => true
  | .hod, f => [Fam.sys, .resume, .tail, .ctl, .gate, .bar, .bobj, .order, .sem, .mon, .launch, .priv,
      .scalar, .hod, .ring].contains f
  | .matrix, f => [Fam.sys, .resume, .tail, .ctl, .bar, .bobj, .order, .sem, .mon, .scalar, .ring, .matrix].contains f

/-- The family may be issued within a gate call (13 R347). -/
def gateOk (f : Fam) : Bool :=
  [Fam.sys, .ctl, .gate, .order, .mon, .vec, .scalar, .private_, .global, .atom, .rslot, .cc].contains f

/-- What an instruction is before it acts: its family, its words, the checks of its fields from the most
significant bit down, and the further scalar and vector registers whose pending results it awaits. -/
structure Info where
  fam : Fam
  words : Nat
  chks : List Chk
  deriving DecidableEq, Repr

/-- How an instruction's action ends. -/
inductive Res where
  /-- it completes and the group goes on at the next word -/
  | done (s : State)
  /-- it completes; it has set the group's pc, masks and run itself -/
  | moved (s : State)
  /-- kind G: no effect, every active lane stops -/
  | trap (f : FaultInfo)
  /-- kind L: the lanes named performed nothing, the others completed -/
  | laneTrap (s : State) (f : FaultInfo) (m : Lanes)
  /-- kind A: it completed, and the lanes named take the fault before the next instruction -/
  | after (s : State) (f : FaultInfo) (m : Lanes)
  /-- kind L at an instruction at which the other lanes then wait -/
  | laneBlock (s : State) (f : FaultInfo) (m : Lanes) (w : Wake)
  /-- it blocks at a blocking point; the state may carry what it leaves behind -/
  | block (s : State) (w : Wake)
  /-- it holds the group in place; the state may carry what it leaves behind -/
  | hold (s : State)

/-- The address of the next word after an instruction of `n` words, and whether its clause ends there and
with RUNEND. -/
def Group.nextPc (g : Group) (n : Nat) : DWord × Bool × Bool :=
  match g.ctl.clause with
  | .none => (g.ctl.pc + BitVec.ofNat 64 (4 * n), false, false)
  | some c =>
    let hdr := (c.words.getD 0 0#32).toNat
    let idx := (g.ctl.pc - c.addr).toNat / 4
    if hdr % 16 < idx + n then (c.addr + 64#64, true, bit hdr 7)
    else (g.ctl.pc + BitVec.ofNat 64 (4 * n), false, false)

/-- The group after its instruction of `n` words has completed: it advances; at the end of a clause with
RUNEND its run ends (12 R314, R318). -/
def Group.advance (g : Group) (n : Nat) (now : Nat) : Group :=
  let (pc, ends, runEnd) := g.nextPc n
  let g1 := g.withCtl fun c =>
    { c with pc := pc, clause := if ends then .none else c.clause, runCount := c.runCount + n,
             status := .running, wakeHit := false, drained := false, begun := .none, missed := .none,
             heldClocks := 0 }
  if runEnd then g1.endRun now else g1

/-- The clause after the one that holds the instruction (13 R339, "next"). -/
def Group.nextClause (g : Group) : DWord := (g.ctl.pc &&& ~~~63#64) + 64#64

/-- The fault of a consumption; a register-file source has no address. -/
def uncorrectableInfo (p : Poison) (addr paddr : Nat) : FaultInfo :=
  ⟨0x1A, if p.source = 4 then .none else some (BitVec.ofNat 64 addr), 0, 0, some p, paddr, false⟩

/-- A consumption of poison by a group at a count of executed instructions (05 R131, R132): UNCORRECTABLE, with a skid
of at most 256 further instructions, a free number (assumption 4). -/
def State.consumeAt (s : State) (i start : Nat) (q : PendPoison) : State :=
  let (n, s1) := s.free
  s1.modGroup i fun g => g.withTrap fun t =>
    { t with skid := t.skid ++ [(uncorrectableInfo q.poison q.addr q.paddr, start, start + n % 257)] }
/-- A consumption between a group's instructions: by a landing result, a reply, a record. -/
def State.consumeNow (s : State) (i : Nat) (q : PendPoison) : State := s.consumeAt i (s.group i).ctl.issued q
/-- A consumption by the instruction that is issuing, which counts as executed before the skid begins. -/
def State.consume (s : State) (i : Nat) (p : Poison) (addr paddr : Nat) : State :=
  s.consumeAt i ((s.group i).ctl.issued + 1) ⟨p, addr, paddr⟩

/-- The end of a skid: the group stops and the domain acts (05 R132); within a gate call the fault is a
callee fault (13 R349). -/
def State.skidEnd (s : State) (i : Nat) : State :=
  let g := s.group i
  if g.trap.skid.any fun e => decide (e.2.2 ≤ g.ctl.issued) then
    let s1 := s.modGroup i fun g => g.withTrap fun t => { t with skid := [] }
    if g.inGate then
      s1.modGroup i fun x => (x.withTrap fun t =>
        { t with callee := (g.trap.skid.head?).map fun e => (e.1, g.ctl.pc, g.ctl.issued - e.2.1) }).withCtl fun c =>
        { c with status := .held }
    else s1.uncorrectable i (g.trap.skid.map fun e => (e.1, g.ctl.issued - e.2.1)) g.ctl.pc
  else s

/-- The checks of 12 R325 that no family decides for itself: PRIVILEGE for the privileged family, ROLE_VIOLATION,
ILLEGAL_OPERAND of the fields whose codes or scalars decide it. -/
def preFault (g : Group) (p : Info) : Option FaultInfo :=
  if p.fam == .priv && !g.id.sys then some (.here 0x04 0)
  else if !roleOk g.id.role p.fam then some (.here 0x17 0)
  else match firstFail g p.chks with
    | some d => some (.here 0x02 (d % 256))
    | .none => .none

/-- The family is barred for the group: it is within a gate call that does not permit it (13 R347). -/
def Group.barred (g : Group) (p : Info) : Bool := g.inGate && !gateOk p.fam

/-- A barred instruction takes PERMISSION, behind the ILLEGAL_OPERAND and STRUCTURE that it meets (12 R325). -/
def barredRes (r : Res) : Res :=
  match r with
  | .trap f => if f.code = 0x02 ∨ f.code = 0x05 then r else .trap (.here 0x0A 0)
  | _ => .trap (.here 0x0A 0)

/-- The vector registers that an instruction names. -/
def Info.named (p : Info) : List Nat := p.chks.flatMap Chk.named
def Info.reads (p : Info) : List Nat := p.chks.flatMap Chk.reads
def Info.writes (p : Info) : List Nat := p.chks.flatMap Chk.writes

/-- A register that the instruction names has a result that has not landed (14 R375, 07 R205). -/
def Group.scoreboard (g : Group) (p : Info) : Bool :=
  g.regs.pend.any fun r => r.regs.any fun n => p.named.contains n

/-- The group is held in place at its instruction (11 R300). -/
def Group.holdHere (g : Group) : Group := g.withCtl fun c => { c with status := .held }

/-- The group blocks at its instruction (06 R182, R184). -/
def Group.blockOn (g : Group) (w : Wake) : Group :=
  g.withCtl fun c => { c with status := .blocked w, runCount := 0, loss := 0, promoted := false }

/-- A result's state changed by a function, where the instruction was executed. -/
def Res.onDone (f : State → State) : Res → Res
  | .done s => .done (f s)
  | .moved s => .moved (f s)
  | .laneTrap s x m => .laneTrap (f s) x m
  | .after s x m => .after (f s) x m
  | r => r

/-- The spills that an instruction's writes call for, before it completes (08 R223, R224): one that faults makes the
instruction fault precisely (R226), one that finds no way makes the group wait (R232). -/
def spillWrites (s0 s : State) (i : Nat) (p : Info) (k : State → Res) : Res :=
  match s.skim i p.named p.writes with
  | .error f => .trap f
  | .ok .none => .hold s0
  | .ok (some s1) => k s1
def Res.spills (s0 : State) (i : Nat) (p : Info) : Res → Res
  | .done s => spillWrites s0 s i p .done
  | .laneTrap s f m => spillWrites s0 s i p fun s1 => .laneTrap s1 f m
  | .after s f m => spillWrites s0 s i p fun s1 => .after s1 f m
  | r => r

/-- What a result does to the state. -/
def settle (s0 : State) (i : Nat) (p : Info) : Res → State
  | .done s => s.modGroup i fun g => g.advance p.words (s.now g)
  | .moved s => s
  | .trap f =>
    let g := s0.group i
    s0.takeFault i f g.ctl.act g.ctl.pc g.ctl.pc (g.nextPc p.words).1
  | .laneTrap s f m =>
    let g := s0.group i
    let s1 := s.modGroup i fun g => g.advance p.words (s.now g)
    s1.takeFault i f m g.ctl.pc g.ctl.pc (g.nextPc p.words).1
  | .after s f m =>
    let g := s0.group i
    let next := (g.nextPc p.words).1
    (s.modGroup i fun g => g.advance p.words (s.now g)).takeFault i f m next g.ctl.pc next
  | .block s w => s.modGroup i fun g => if g.inGate then g.holdHere else g.blockOn w
  | .laneBlock s f m w =>
    let g := s0.group i
    let s1 := s.takeFault i f m g.ctl.pc g.ctl.pc (g.nextPc p.words).1
    s1.modGroup i fun x =>
      if x.ctl.status != .running then x
      else
        let passed := match w with | .bar ph => decide ((s1.block x.id.block).barP ≠ ph) | _ => false
        (x.blockOn w).withCtl fun c => { c with wakeHit := passed }
  | .hold s => s.modGroup i Group.holdHere

/-- The results of the family land later, so that its destinations are not written at issue (07 R205): the loads and
atomics, the drains, and the requests of the texture and intersection units. -/
def Info.later (p : Info) : Bool :=
  [Fam.cellMem, .private_, .global, .latom, .atom, .rslot, .cbk, .matrix].contains p.fam || (p.fam == .gfx && p.words == 2)

/-- The registers that an instruction takes from their slots (08 R224): those it reads and, where it writes at once with a
live lane inactive, those it writes, which keep their other lanes (R222). -/
def Info.taken (p : Info) (g : Group) : List Nat :=
  p.reads ++ (if p.later || g.ctl.live &&& ~~~g.ctl.act = 0#32 then [] else p.writes)

/-- A value one of whose register-file entries reads as ones (05 R131). -/
def VVal.spoil (e : Nat) : VVal → VVal
  | .uniform _ => .uniform (BitVec.allOnes 32)
  | .affine b s => if e = 0 then .affine (BitVec.allOnes 32) s else .affine b (BitVec.allOnes 32)
  | .general l => .general (l.set e (BitVec.allOnes 32))

/-- The group with the poisoned entries of some registers reading as ones. -/
def Group.spoiled (g : Group) (rs : List Nat) : Group :=
  g.withRegs fun x => { x with v := x.v.zipIdx.map fun y => match y.1.poison with
    | some (e, _) => if rs.contains y.2 then { y.1 with val := y.1.val.spoil e } else y.1
    | .none => y.1 }

/-- The body of an instruction once its checks have passed: the registers it names are awaited, the spilled ones it reads
are taken from their slots, then it acts (08 R224, 14 R375). Poison that a refill brings into the register file is
consumed there; poison in a source is consumed by the instruction when it is executed (05 R131). -/
def prepared (s : State) (i : Nat) (p : Info) (body : State → Nat → Group → Res) : Res :=
  let g := s.group i
  if g.scoreboard p then .hold s
  else match s.refill i p.named (p.taken g) with
    | .error f => .trap f
    | .ok .none => .hold s
    | .ok (some x) =>
      let s1 := match x.consumed with
        | some (va, pa, q) => x.st.consume i q va pa
        | .none => x.st
      let left := first x.left (p.reads.findSome? fun r => ((s1.group i).vreg r).poison.map fun q => (0, 0, q.2))
      match left with
      | .none => body s1 i (s1.group i)
      | some (va, pa, q) =>
        let s2 := s1.modGroup i fun g => g.spoiled p.reads
        (body s2 i (s2.group i)).onDone fun s => s.consume i q va pa

/-- The instruction was executed: it neither waits nor stopped before it had any effect. -/
def Res.executed : Res → Bool
  | .trap _ => false
  | .laneBlock _ _ _ _ => false
  | .block _ _ => false
  | .hold _ => false
  | _ => true

/-- RUN one instruction of the issuing group. -/
def runIsa (p : Info) (body : State → Nat → Group → Res) (s : State) : Host.Outcome State Fault Refusal :=
  match s.issuer with
  | .none => .fault .noIssuingGroup
  | some (i, g) => .next (
      let r := match preFault g p with
        | some f => Res.trap f
        | .none => if g.barred p then barredRes (prepared s i p body) else (prepared s i p body).spills s i p
      let s1 := settle s i p r
      let s2 := if r.executed then s1.modGroup i fun g => g.withCtl fun c => { c with issued := c.issued + 1 } else s1
      (s2.shadowAfter i g.id.block (s.block g.id.block).barP).skidEnd i)

/-- An instruction's action on its own group alone, which completes. -/
def own (f : Group → Group) : State → Nat → Group → Res :=
  fun s i g => .done (s.setGroup i (f g))

end Sys2Proof.Machine
end

