-- ==== Sys2Proof/Machine/Access.lean ====
section
/-! DEFINITION. What the memory families share: addresses, sizes, the choice of the fault among lanes, the
race detector, bound tables, releases and acquires, and early commits (15 R407 to R412; 09 R243, R250 to
R254, R267 to R269; 05 R139, R140, R145 to R147). -/
namespace Sys2Proof.Machine
open Sys2Proof

/-! ### Addresses and sizes (15 R407, R409) -/

/-- The bytes of a size code. -/
def sizeBytes (c : Nat) : Nat := [1, 1, 2, 2, 4, 8, 16].getD c 4
/-- The registers of a size code. -/
def sizeRegs (c : Nat) : Nat := if c = 5 then 2 else if c = 6 then 4 else 1

/-- The words a load of a size code delivers. -/
def loadWords (c : Nat) (b : List Byte) : List Word :=
  match c with
  | 0 => [BitVec.ofNat 32 (leValue b)]
  | 1 => [BitVec.ofInt 32 (signedOf 8 (leValue b))]
  | 2 => [BitVec.ofNat 32 (leValue b)]
  | 3 => [BitVec.ofInt 32 (signedOf 16 (leValue b))]
  | _ => (List.range (sizeRegs c)).map fun j => bytesWord ((b.drop (4 * j)).take 4)

/-- The bytes a store of a size code writes. -/
def storeBytes (c : Nat) (ws : List Word) : List Byte := (ws.flatMap wordBytes).take (sizeBytes c)

/-- The multiplier of an index. -/
def scaleBy (x : BitVec 1) (size : Nat) : Int := if x == 1#1 then (size : Int) else 1

/-- The segment offset of a lane. -/
def Group.segAddr (g : Group) (b i : Nat) (lit : Word) (m : Int) (l : Nat) : Nat :=
  wrapInt 32 ((g.sreg b).toNat + (g.opLane i lit l).toInt * m)
/-- The virtual address of a lane. -/
def Group.virtAddr (g : Group) (b i : Nat) (lit : Word) (m : Int) (l : Nat) : Nat :=
  wrapInt 64 ((g.spair b).toNat + (g.opLane i lit l).toInt * m)

/-- The checks of a register group of a size code in the data field: one register may be any source code,
more are named directly. -/
def dataSrc (s : BitVec 7) (size : Nat) (lit : Bool) : Chk :=
  if sizeRegs size = 1 then .vsrc s.toNat lit else .vgrp s.toNat (sizeRegs size) (sizeRegs size)
def dataDst (d : BitVec 7) (size : Nat) : Chk := .vdst d.toNat (sizeRegs size) (sizeRegs size)
/-- The words of a store's data in a lane. -/
def Group.dataWords (g : Group) (c size : Nat) (lit : Word) (l : Nat) : List Word :=
  if sizeRegs size = 1 then [g.opLane c lit l] else (List.range (sizeRegs size)).map fun j => g.vlane (c + j) l

/-! ### The fault of an instruction's lanes (15 R412) -/

/-- The class taken is the first that any lane meets; the classes of 15 R412 rise by their codes. Its ADDR
is the lowest lane's of that class; every lane that meets any fault is a faulting lane. -/
def pickFault (fs : List (Nat × FaultInfo)) : Option (FaultInfo × Lanes) :=
  (minBy (fun f => f.2.code * 64 + f.1) fs).map fun f => (f.2, Lanes.ofFn 32 fun l => fs.any fun x => x.1 == l)

/-- The end of an instruction some of whose lanes may have met faults. -/
def lanesEnd (s : State) (fs : List (Nat × FaultInfo)) : Res :=
  match pickFault fs with
  | .none => .done s
  | some (f, m) => .laneTrap s f m

/-- A fault of kind L for every active lane, before any effect. -/
def allLanes (s : State) (g : Group) (f : FaultInfo) : Res := .laneTrap s f g.ctl.act

/-- The lanes that perform stores and atomics: helper lanes perform none (15 R411). -/
def Group.storeLanes (g : Group) : List Nat := (g.ctl.act &&& ~~~g.ctl.helper).toList

/-! ### Pending results (07 R205) -/

/-- A pending result added to a group: the registers, the words of each lane, the lanes. -/
def Group.addPend (g : Group) (d n : Nat) (val : Nat → List Word) (m : Lanes) (uniform : Bool)
    (p : Option PendPoison) : Group :=
  if m = 0#32 then g
  else g.withRegs fun r => { r with pend := r.pend ++
    [{ regs := (List.range n).map fun j => d + j
       vals := (List.range 32).map fun l => if m.has l then val l else []
       lanes := m, uniform := uniform, ready := true, kind := .plain, poison := p }] }

/-- The bytes read, all ones where they are poisoned (05 R131). -/
def readBytes (p : Option (Nat × Poison)) (b : List Byte) : List Byte :=
  match p with
  | some _ => b.map fun _ => 0xFF#8
  | .none => b

/-! ### The race detector (09 R267, R268) -/

/-- The sectors a range of offsets touches. -/
def sectorsOf (off n : Nat) : List Nat := (List.range ((off + n - 1) / 32 - off / 32 + 1)).map fun i => off / 32 + i

/-- A plain access by group `i` passes on every sector it touches; what the groups wrote whose threads it took over is its
own threads' (R269: never an access that the write happens before). -/
def Block.raceFree (b : Block) (i : Nat) (heirs : List Nat) (acq cell off n : Nat) : Bool :=
  let rk := b.rank cell
  (sectorsOf off n).all fun sec =>
    match b.tags.find? fun t => t.rank == rk && t.sector == sec with
    | .none => true
    | some t => t.writer == i || heirs.contains t.writer || (match t.pub with | some p => decide (p ≤ acq) | .none => false)

/-- The tag of a plain write by group `i`, or by an operation it issued. -/
def Block.tagWrite (b : Block) (i : Nat) (op : Option Nat) (cell off n : Nat) : Block :=
  let rk := b.rank cell
  let secs := sectorsOf off n
  { b with tags := (b.tags.filter fun t => !(t.rank == rk && secs.contains t.sector)) ++
      secs.map fun sec => ⟨rk, sec, i, b.rs.getD rk 0, .none, op⟩ }

/-! ### Bound tables (05 R145 to R147) -/

/-- An entry that is in force. -/
structure BoundEntry where
  index : Nat
  base : Nat
  len : Nat
  action : Nat
  space : Bool
  typ : Nat
  lo : Nat
  hi : Nat
  deriving DecidableEq, Repr

/-- The size in bytes of an element type. -/
def boundSize (t : Nat) : Nat := [4, 2, 2, 4, 2, 1, 1, 2].getD t 4
/-- The format code of a float type. -/
def boundFloat (t : Nat) : Option Nat := if t < 3 then some t else .none
/-- The integer value of an element of an integer type, of `n` bits. -/
def boundInt (t n x : Nat) : Int := if 6 ≤ t then ((x % 2 ^ n : Nat) : Int) else signedOf n x

/-- `x ≤ y` for MIN, MAX and elements given as FP32 or 32-bit integers. -/
def boundLe (t x y : Nat) : Bool :=
  if t < 3 then
    let a := fp32.decode x
    let b := fp32.decode y
    !a.isNaN && !b.isNaN && decide (fOrder a b ≤ 0)
  else decide (boundInt t 32 x ≤ boundInt t 32 y)

/-- MIN or MAX is exactly representable in TYPE. -/
def boundRepresents (t x : Nat) : Bool :=
  match boundFloat t with
  | some f => !(fp32.decode x).isNaN && decide ((convert 0 f .rne false x).2 = fNone)
  | .none => decide (boundInt t 32 x = boundInt t (8 * boundSize t) x)

/-- The entry of a table's 128-bit word, if it is enabled. -/
def boundEntry (i w : Nat) : Option BoundEntry :=
  let t := bits w 4 2
  let e : BoundEntry := ⟨i, bits w 47 8 * 256, (bits w 63 48 + 1) * (if bit w 1 then 65536 else 256), bits w 7 6,
    bit w 5, t, bits w 95 64, bits w 127 96⟩
  if e.action ≠ 0 && !bit w 0 && boundLe t e.lo e.hi && boundRepresents t e.lo && boundRepresents t e.hi then some e
  else .none

/-- The enabled entries of a context. -/
def State.boundsOf (s : State) (c : Nat) : List BoundEntry :=
  let l := (s.ctx c).bounds
  (List.range l.length).filterMap fun i => boundEntry i (l.getD i 0)

/-- An element outside its range: the entry, the element's address and its bits. -/
structure BoundHit where
  entry : BoundEntry
  addr : Nat
  bits : Nat
  deriving DecidableEq, Repr

/-- The element's value as MIN and MAX are given. -/
def boundWiden (t x : Nat) : Nat :=
  match boundFloat t with
  | some f => (convert f 0 .rne false x).1
  | .none => wrapInt 32 (boundInt t (8 * boundSize t) x)
/-- The element as it is stored, of a MIN or MAX. -/
def boundNarrow (t x : Nat) : Nat :=
  match boundFloat t with
  | some f => (convert 0 f .rne false x).1
  | .none => x % 2 ^ (8 * boundSize t)

/-- The elements outside their ranges after a write of `b` at `a`; `rd` reads the bytes around it. -/
def boundHits (es : List BoundEntry) (space : Bool) (a : Nat) (b : List Byte) (rd : Nat → Byte) : List BoundHit :=
  let es := es.filter fun e => e.space == space && decide (a < e.base + e.len ∧ e.base < a + b.length)
  if es.isEmpty then []
  else
    let els := (List.range b.length).filterMap fun k =>
      (es.find? fun e => decide (e.base ≤ a + k ∧ a + k < e.base + e.len)).map fun e =>
        (e, e.base + (a + k - e.base) / boundSize e.typ * boundSize e.typ)
    let els := els.foldl (fun (acc : List (BoundEntry × Nat)) x => if acc.contains x then acc else acc ++ [x]) []
    els.filterMap fun (e, x) =>
      let v := leValue ((List.range (boundSize e.typ)).map fun j =>
        if a ≤ x + j ∧ x + j < a + b.length then b.getD (x + j - a) 0#8 else rd (x + j))
      let w := boundWiden e.typ v
      if boundLe e.typ e.lo w && boundLe e.typ w e.hi then .none else some ⟨e, x, v⟩

/-- The bytes that clamped elements take. -/
def BoundHit.clamp (h : BoundHit) : Nat × List Byte :=
  let w := boundWiden h.entry.typ h.bits
  let v := if boundLe h.entry.typ h.entry.hi w then h.entry.hi else h.entry.lo
  (h.addr, leBytes (boundSize h.entry.typ) (boundNarrow h.entry.typ v))

/-- BOUND_VIOLATION at an element. -/
def BoundHit.fault (h : BoundHit) : FaultInfo :=
  { code := 0x11, addr := some (BitVec.ofNat 64 h.addr), detail := h.entry.index
    bytes := h.entry.index + 256 * h.entry.action + 2 ^ 32 * h.bits, poison := .none, paddr := 0, seg := false }

/-- DOMAIN of a record of a group: its block's (05 R132, R137). -/
def FDom.code : FDom → Nat
  | .report => 0
  | .terminate => 1
  | .rollback => 2

/-- The records of flagged and clamped elements: one an entry (05 R147). -/
def State.boundRecords (s : State) (g : Group) (hs : List BoundHit) : State :=
  let one := hs.foldl (fun (acc : List BoundHit) h =>
    if h.entry.action = 3 || acc.any (fun x => x.entry.index == h.entry.index) then acc else acc ++ [h]) []
  one.foldl (fun s h => s.ctxRecord
    { kind := 0x11, flags := 5, ctx := g.id.ctx, domain := (s.block g.id.block).fdom.code, paddr := 0, vaddr := h.addr, pc := g.ctl.pc.toNat
      cell := g.loc.cell, sub := if g.loc.abacus then 32 else g.loc.sub, group := g.loc.gid, skid := 0, source := 0
      unit := 0, detail := h.fault.bytes }) s

/-! ### Poison of whole sectors -/

/-- The poison left when ranges of bytes were written together: a sector they cover whole is clean (05
R130; the lanes of one instruction form one access of a line, 08 R231). -/
def Poisons.clearedBy (p : Poisons) (ranges : List (Nat × Nat)) : Poisons :=
  if p.isEmpty then p
  else p.filter fun x => !((List.range 32).all fun k => ranges.any fun r => decide (r.1 ≤ x.1 + k ∧ x.1 + k < r.1 + r.2))

/-! ### Scopes, releases and acquires (09 R243, R250 to R254) -/

/-- A scope is wide: .pane, .dev, .sys, or .blk in a block on more than one cell. -/
def State.isWide (s : State) (g : Group) (scope : Nat) : Bool :=
  decide (3 ≤ scope) || (scope == 1 && decide (1 < (s.block g.id.block).cells.length))

/-- An operation of scope .blk or wider, in a block on one cell of scope .pane or wider, makes a rollback interval
committed-early (05 R140); scopes in the order of 09 R243. -/
def State.commitFor (s : State) (b scope : Nat) : State :=
  if decide (3 ≤ scope) || (decide (1 ≤ scope) && decide (1 < (s.block b).cells.length)) then s.commitEarly b else s

/-- A release of a scope, without the early commit: `error` where the group is held for the drain, with its marker
appended (09 R250), the state after the release's steps otherwise. It publishes the group's writes (09 R267). -/
def State.releaseOnly (s1 : State) (i scope : Nat) : Except State State :=
  let g := s1.group i
  if scope = 0 then .ok s1
  else if !s1.isWide g scope then .ok (s1.publishGroup i)
  else
    let part := s1.partOf g
    let w := s1.window part g.loc.cell
    let waits := !(allFifoLines w.fifo).isEmpty || s1.atoms.any fun a => a.group == i && a.reply.isNone
    if g.ctl.drained || !waits then .ok (s1.publishGroup i)
    else if w.fifo.contains (.marker i) then .error s1
    else .error (s1.modWindow part g.loc.cell fun w => { w with fifo := w.fifo ++ [.marker i] })

/-- A release of a scope by an operation that is no arrival at the block barrier: under rollback it commits early where 05
R140 says so. -/
def State.release (s : State) (i scope : Nat) : Except State State :=
  (s.commitFor (s.group i).id.block scope).releaseOnly i scope

/-- An acquire of a scope, after its value or wake was taken (09 R251, R267). -/
def State.acquire (s : State) (i scope : Nat) : State :=
  if scope = 0 then s
  else
    let s1 := s.acquireRace i
    let g := s.group i
    if s.isWide g scope then s1.markStale (s.partOf g) g.loc.cell else s1

/-- An instruction's action after a release, where it carries one; a release that waits holds the group. -/
def released (s : State) (i : Nat) (rel : Bool) (scope : Nat) (k : State → Res) : Res :=
  if rel then
    match s.release i scope with
    | .error s1 => .hold s1
    | .ok s1 => k s1
  else k s

/-! ### Draining windows (03 R97; 06 R172; 13 R365) -/

/-- Write the dirty lines of some windows home. -/
def State.drainWindows (s : State) (sel : Window → Bool) : State :=
  (s.windows.filter sel).foldl (fun s w => s.drainLines w.part w.cell (w.lines.map (·.line))) s

/-- Accesses of some contexts that are translated and not yet performed at the hub (03 R97): atomics on their way, fills in
progress, uncommitted stores. -/
def State.inFlight (s : State) (cs : List Nat) : Bool :=
  s.atoms.any (fun a => a.reply.isNone && cs.contains (s.group a.group).id.ctx)
  || s.groups.any (fun g => cs.contains g.id.ctx && (match g.ctl.status with | .blocked (.fill _) => true | _ => false))
  || s.windows.any fun w => cs.any (fun c => (s.ctx c).part == w.part) && w.lines.any fun y => y.uncommitted != 0#128

/-- The dirty lines of the partitions of some contexts written home. -/
def State.drainCtxs (s : State) (cs : List Nat) : State := s.drainWindows fun w => cs.any fun c => (s.ctx c).part == w.part

/-! ### Accesses to global memory through the cell cache -/

/-- How a group's plain store is held. -/
def State.writeKind (s : State) (b : Nat) : WriteKind :=
  let bl := s.block b
  if bl.fdom == .rollback && !bl.early then .uncommitted b else .committed

/-- The region of a block holds more uncommitted bytes on a cell than its UCAP (05 R139, 08 R232). -/
def State.overUcap (s : State) (part cell b : Nat) : Bool :=
  let bl := s.block b
  decide (bl.ucap * 1024 <
    128 * (s.window part cell).uncommittedLines fun o => (s.block o).region == bl.region)

end Sys2Proof.Machine
end

