-- ==== Sys2Proof/Machine/CellMem.lean ====
section
/-! DEFINITION. Cell-store loads, stores and atomics, and CBK.DEC: majors 0x30, 0x31, 0x34 and FN 25 of
0x1D (15 R414 to R416, R420, R421; 14 R395). -/
namespace Sys2Proof.Machine
open Sys2Proof

/-- The poison of a range of a block's segment. -/
def State.segPoison (s : State) (b cell off n : Nat) : Option (Nat × Poison) :=
  let bl := s.block b
  (s.window bl.part cell).poison.hit (bl.seg cell + off) n

/-- The first fault a plain access of a lane meets but for bounds: MISALIGNED, CELLSTORE_BOUNDS, RACE. -/
def State.segFault (s : State) (i off n : Nat) (race : Bool) : Option FaultInfo :=
  let g := s.group i
  let b := s.block g.id.block
  if off % n ≠ 0 then some (.atSeg 0x06 off)
  else if !b.segOk off n then some (.atSeg 0x07 off)
  else if race && !g.id.pfail && !b.raceFree i g.asy.heirs g.asy.acq g.loc.cell off n then some (.atSeg 0x0B off)
  else .none

/-- The loads of some lanes, at their offsets: the words of each lane, the faults, the first poison met. -/
def State.segLoads (s : State) (i code : Nat) (lanes : List Nat) (addr : Nat → Nat) :
    List (Nat × List Word) × List (Nat × FaultInfo) × Option (Nat × Poison) :=
  let g := s.group i
  let n := sizeBytes code
  lanes.foldl (fun (acc : List (Nat × List Word) × List (Nat × FaultInfo) × Option (Nat × Poison)) l =>
    match s.segFault i (addr l) n true with
    | some f => (acc.1, acc.2.1 ++ [(l, f)], acc.2.2)
    | .none =>
      let p := s.segPoison g.id.block g.loc.cell (addr l) n
      (acc.1 ++ [(l, loadWords code (readBytes p (s.segRead g.id.block g.loc.cell (addr l) n)))], acc.2.1,
        match acc.2.2 with | some x => some x | .none => p.map fun x => (x.1, x.2))) ([], [], .none)

/-- Poison met by an instruction, as its pending result carries it. -/
def metPoison (p : Option (Nat × Poison)) (addr paddr : Nat) : Option PendPoison := p.map fun x => ⟨x.2, addr, paddr⟩

/-- The words of a lane in a list of loaded lanes. -/
def laneWords (vs : List (Nat × List Word)) (l : Nat) : List Word :=
  match vs.find? fun x => x.1 == l with
  | some x => x.2
  | .none => []
def laneSet (vs : List (Nat × List Word)) : Lanes := Lanes.ofFn 32 fun l => vs.any fun x => x.1 == l

/-- A cell-store load: `order` 0 relaxed, 1 acquire, 2 sc. -/
def ldcRun (code words : Nat) (ext : Bool) (order scope : Nat) (d i : BitVec 7) (x : BitVec 1) (b : BitVec 8)
    (lit : Word) (s : State) : Host.Outcome State Fault Refusal :=
  runIsa ⟨.cellMem, words, [dataDst d code, .vsrc i.toNat ext]⟩ (fun s gi g =>
    released s gi (order == 2) scope fun s =>
      let addr := g.segAddr b.toNat i.toNat lit (scaleBy x (sizeBytes code))
      let (vs, fs, p) := s.segLoads gi code g.ctl.act.toList addr
      let pp := metPoison p (p.elim 0 (·.1)) 0
      let s1 := s.modGroup gi fun g => g.addPend d.toNat (sizeRegs code) (laneWords vs) (laneSet vs) false pp
      lanesEnd (if order = 0 then s1 else s1.acquire gi scope) fs) s
def litLen (i : BitVec 7) : Nat := if i = 124#7 then 2 else 1

def execLdcU8 (d i : BitVec 7) (x : BitVec 1) (b : BitVec 8) (lit : Word) (s : State) :
    Host.Outcome State Fault Refusal := ldcRun 0 (litLen i) true 0 0 d i x b lit s
def execLdcS8 (d i : BitVec 7) (x : BitVec 1) (b : BitVec 8) (lit : Word) (s : State) :
    Host.Outcome State Fault Refusal := ldcRun 1 (litLen i) true 0 0 d i x b lit s
def execLdcU16 (d i : BitVec 7) (x : BitVec 1) (b : BitVec 8) (lit : Word) (s : State) :
    Host.Outcome State Fault Refusal := ldcRun 2 (litLen i) true 0 0 d i x b lit s
def execLdcS16 (d i : BitVec 7) (x : BitVec 1) (b : BitVec 8) (lit : Word) (s : State) :
    Host.Outcome State Fault Refusal := ldcRun 3 (litLen i) true 0 0 d i x b lit s
def execLdc (d i : BitVec 7) (x : BitVec 1) (b : BitVec 8) (lit : Word) (s : State) :
    Host.Outcome State Fault Refusal := ldcRun 4 (litLen i) true 0 0 d i x b lit s
def execLdc64 (d i : BitVec 7) (x : BitVec 1) (b : BitVec 8) (lit : Word) (s : State) :
    Host.Outcome State Fault Refusal := ldcRun 5 (litLen i) true 0 0 d i x b lit s
def execLdcOrdered (d i : BitVec 7) (x : BitVec 1) (b : BitVec 8) (sc : BitVec 3) (od : BitVec 2) (sz : BitVec 3)
    (s : State) : Host.Outcome State Fault Refusal :=
  ldcRun sz.toNat 2 false od.toNat sc.toNat d i x b 0#32 s

/-- LDC.BC reads the word of the lowest active lane once, for all of them (15 R415). -/
def execLdcBc (d i : BitVec 7) (x : BitVec 1) (b : BitVec 8) (lit : Word) (s : State) :
    Host.Outcome State Fault Refusal :=
  runIsa ⟨.cellMem, litLen i, [.vdst d.toNat 1 1, .vsrc i.toNat true,
      .cond (decide (112 ≤ i.toNat ∧ i.toNat ≤ 120 ∨ i.toNat = 124)) i.toNat]⟩ (fun s gi g =>
    let addr := g.segAddr b.toNat i.toNat lit (scaleBy x 4)
    let (vs, fs, p) := s.segLoads gi 4 [g.firstAct] addr
    match fs with
    | f :: _ => allLanes s g f.2
    | [] =>
      let pp := metPoison p (p.elim 0 (·.1)) 0
      let w := laneWords vs g.firstAct
      .done (s.modGroup gi fun g => g.addPend d.toNat 1 (fun _ => w) g.ctl.act true pp)) s

/-! ### Stores -/

/-- What the lanes of a store have done so far: the state, the faults, the bytes outside their bounds that
were flagged or clamped, the ranges written. -/
structure StoreAcc where
  st : State
  faults : List (Nat × FaultInfo)
  hits : List BoundHit
  ranges : List (Nat × Nat)

/-- The store of one lane of bytes at a segment offset: checked, then written and tagged; elements out of
bounds are flagged, clamped, or keep the lane from storing. `op` is the operation that writes, if one
does. -/
def StoreAcc.seg (a : StoreAcc) (i : Nat) (op : Option Nat) (es : List BoundEntry) (l off : Nat) (b : List Byte) :
    StoreAcc :=
  let s := a.st
  let g := s.group i
  let bl := s.block g.id.block
  match s.segFault i off b.length true with
  | some f => { a with faults := a.faults ++ [(l, f)] }
  | .none =>
    let base := bl.seg g.loc.cell
    let hs := boundHits es true (base + off) b fun x => (s.window bl.part g.loc.cell).mem.get x
    match hs.find? fun h => h.entry.action == 3 with
    | some h => { a with faults := a.faults ++ [(l, h.fault)] }
    | .none =>
      let s1 := s.winWrite bl.part g.loc.cell (base + off) b
      let s2 := (hs.filter fun h => h.entry.action == 2).foldl (fun s h =>
        s.winWrite bl.part g.loc.cell h.clamp.1 h.clamp.2) s1
      { st := s2.modBlock g.id.block fun x => x.tagWrite i op g.loc.cell off b.length
        faults := a.faults, hits := a.hits ++ hs, ranges := a.ranges ++ [(base + off, b.length)] }

/-- The end of a cell-store store: sectors it covers whole are clean, flagged elements are recorded. -/
def StoreAcc.finishSeg (a : StoreAcc) (i : Nat) : State :=
  let s := a.st
  let g := s.group i
  let part := (s.block g.id.block).part
  let w := s.window part g.loc.cell
  let s1 := if w.poison.isEmpty then s else s.setWindow { w with poison := w.poison.clearedBy a.ranges }
  s1.boundRecords g a.hits

/-- A cell-store store: `order` 0 relaxed, 1 release, 2 sc. -/
def stcRun (code words : Nat) (ext : Bool) (order scope : Nat) (d i : BitVec 7) (x : BitVec 1) (b : BitVec 8)
    (lit : Word) (s : State) : Host.Outcome State Fault Refusal :=
  runIsa ⟨.cellMem, words, [dataSrc d code ext, .vsrc i.toNat ext]⟩ (fun s gi g =>
    released s gi (order != 0) scope fun s =>
      let addr := g.segAddr b.toNat i.toNat lit (scaleBy x (sizeBytes code))
      let es := s.boundsOf g.id.ctx
      let a := g.storeLanes.foldl (fun (a : StoreAcc) l =>
        a.seg gi .none es l (addr l) (storeBytes code (g.dataWords d.toNat code lit l))) ⟨s, [], [], []⟩
      let s1 := a.finishSeg gi
      lanesEnd (if order = 2 then s1.acquire gi scope else s1) a.faults) s
/-- The words of a store: its data and its index may both hold code 124. -/
def storeLen (d i : BitVec 7) : Nat := if d = 124#7 || i = 124#7 then 2 else 1

def execStc8 (d i : BitVec 7) (x : BitVec 1) (b : BitVec 8) (lit : Word) (s : State) :
    Host.Outcome State Fault Refusal := stcRun 0 (storeLen d i) true 0 0 d i x b lit s
def execStc16 (d i : BitVec 7) (x : BitVec 1) (b : BitVec 8) (lit : Word) (s : State) :
    Host.Outcome State Fault Refusal := stcRun 2 (storeLen d i) true 0 0 d i x b lit s
def execStc (d i : BitVec 7) (x : BitVec 1) (b : BitVec 8) (lit : Word) (s : State) :
    Host.Outcome State Fault Refusal := stcRun 4 (storeLen d i) true 0 0 d i x b lit s
def execStc64 (d i : BitVec 7) (x : BitVec 1) (b : BitVec 8) (lit : Word) (s : State) :
    Host.Outcome State Fault Refusal := stcRun 5 (storeLen d i) true 0 0 d i x b lit s
def execStcOrdered (d i : BitVec 7) (x : BitVec 1) (b : BitVec 8) (sc : BitVec 3) (od : BitVec 2) (sz : BitVec 3)
    (s : State) : Host.Outcome State Fault Refusal :=
  stcRun sz.toNat 2 false od.toNat sc.toNat d i x b 0#32 s

/-! ### Atomics (15 R420, R421) -/

/-- An operation acts on 8 bytes. -/
def atomWide (op : Nat) : Bool := decide (13 ≤ op)

/-- The new memory value of an atomic operation. -/
def atomNew (op m v c : Nat) : Nat :=
  match op with
  | 0 => (m + v) % 2 ^ 32
  | 1 => if signedOf 32 m ≤ signedOf 32 v then m else v
  | 2 => if signedOf 32 m ≤ signedOf 32 v then v else m
  | 3 => min m v
  | 4 => max m v
  | 5 => m &&& v
  | 6 => m ||| v
  | 7 => m ^^^ v
  | 8 => v
  | 9 => if m = c then v else m
  | 10 => (fAdd fp32 false m v).1
  | 11 => if v ≤ m then 0 else m + 1
  | 12 => if m = 0 ∨ v < m then v else m - 1
  | 13 => (m + v) % 2 ^ 64
  | 14 => v
  | _ => if m = c then v else m

/-- The check of the data operand: its registers by operation. -/
def atomData (op : Nat) (c : BitVec 7) : Chk :=
  match op with
  | 9 => .vgrp c.toNat 2 2
  | 13 => .vgrp c.toNat 2 2
  | 14 => .vgrp c.toNat 2 2
  | 15 => .vgrp c.toNat 4 4
  | _ => .vsrc c.toNat false
/-- The data and compare values of a lane. -/
def Group.atomOperands (g : Group) (op c l : Nat) : Nat × Nat :=
  let r (j : Nat) : Nat := (g.vlane (c + j) l).toNat
  match op with
  | 9 => (r 1, r 0)
  | 13 => (r 0 + 2 ^ 32 * r 1, 0)
  | 14 => (r 0 + 2 ^ 32 * r 1, 0)
  | 15 => (r 2 + 2 ^ 32 * r 3, r 0 + 2 ^ 32 * r 1)
  | _ => ((g.opLane c 0#32 l).toNat, 0)

/-- The orders of an atomic: 0 relaxed, 1 acquire, 2 release, 3 acq_rel, 4 sc. -/
def ordReleases (o : Nat) : Bool := decide (2 ≤ o)
def ordAcquires (o : Nat) : Bool := o == 1 || decide (3 ≤ o)

/-- LATOM: each lane's read-modify-write at the bank, in ascending lane order. -/
def execLatom (o : BitVec 3) (d i : BitVec 7) (x : BitVec 1) (b : BitVec 8) (sc : BitVec 3) (op : BitVec 4)
    (c : BitVec 7) (s : State) : Host.Outcome State Fault Refusal :=
  let n := if atomWide op.toNat then 8 else 4
  runIsa ⟨.latom, 2, [.vdst d.toNat (n / 4) (n / 4), .vsrc i.toNat false, atomData op.toNat c]⟩ (fun s gi g =>
    released s gi (ordReleases o.toNat) sc.toNat fun s =>
      let addr := g.segAddr b.toNat i.toNat 0#32 (scaleBy x n)
      let blk := g.id.block
      let step (acc : State × List (Nat × List Word) × List (Nat × FaultInfo) × Option (Nat × Poison)) (l : Nat) :=
        let (s, vs, fs, p) := acc
        match s.segFault gi (addr l) n false with
        | some f => (s, vs, fs ++ [(l, f)], p)
        | .none =>
          let q := s.segPoison blk g.loc.cell (addr l) n
          let m := leValue (readBytes q (s.segRead blk g.loc.cell (addr l) n))
          let (v, cmp) := g.atomOperands op.toNat c.toNat l
          (s.segWrite blk g.loc.cell (addr l) (leBytes n (atomNew op.toNat m v cmp)),
            vs ++ [(l, loadWords (if n = 8 then 5 else 4) (leBytes n m))], fs,
            match p with | some y => some y | .none => q)
      let (s1, vs, fs, p) := g.storeLanes.foldl step (s, [], [], .none)
      let pp := metPoison p (p.elim 0 (·.1)) 0
      let s2 := s1.modGroup gi fun g => g.addPend d.toNat (n / 4) (laneWords vs) (laneSet vs) false pp
      lanesEnd (if ordAcquires o.toNat then s2.acquire gi sc.toNat else s2) fs) s

/-! ### CBK.DEC (14 R395) -/

def execCbkDec (d a b : BitVec 7) (bf : BitVec 1) (p : BitVec 2) (s : State) : Host.Outcome State Fault Refusal :=
  runIsa ⟨.cbk, 2, [.vdst d.toNat 1 1, .vsrc a.toNat false,
      .cond (decide (112 ≤ b.toNat ∧ b.toNat < 120)) b.toNat]⟩ (fun s gi g =>
    let off := (g.opLane b.toNat 0#32 0).toNat
    if off % 4 ≠ 0 then allLanes s g (.atSeg 0x06 off)
    else if !(s.block g.id.block).segOk off 1024 then allLanes s g (.atSeg 0x07 off)
    else
      let idx (l : Nat) : Nat := (g.opLane a.toNat 0#32 l).toNat % 65536
      let (vs, fs, q) := s.segLoads gi 4 g.ctl.act.toList fun l => off + 4 * (idx l / 256)
      let fmt := if bf == 1#1 then bf16 else fp16
      let code (w : Bool × Nat) : Nat := (fmt.deliver .rne false (weightVal w).exact).1
      let dec (v : Nat × List Word) : Nat × List Word :=
        let ws := cbDecode (idx v.1) (v.2.headD 0#32).toNat
        (v.1, [BitVec.ofNat 32 (code (ws.getD (2 * p.toNat) (false, 0))
          + 65536 * code (ws.getD (2 * p.toNat + 1) (false, 0)))])
      let pp := metPoison q (q.elim 0 (·.1)) 0
      let out := vs.map dec
      lanesEnd (s.modGroup gi fun g => g.addPend d.toNat 1 (laneWords out) (laneSet out) false pp) fs) s

end Sys2Proof.Machine
end

