-- ==== Sys2Proof/Machine/Global.lean ====
section
/-! DEFINITION. Private and global loads and stores, and the cell-cache family: majors 0x32, 0x33 and 0x38
(15 R417 to R419, R434; 08 R231 to R234; 13 R347), with the return of a fill and the end of a drain. -/
namespace Sys2Proof.Machine
open Sys2Proof

/-! ### Private words (08 R234, 13 R347) -/

/-- sr.privbase: the block's private space, or within a gate call the callee's stack of this slot. -/
def Group.privBase (g : Group) : Nat :=
  match g.asy.gates with
  | l :: _ => l.stackBase + g.loc.gid * l.stack * 128
  | [] => g.sr.privbase
/-- sr.privsize: PRIVW, or within a gate call STACK. -/
def Group.privSize (g : Group) : Nat :=
  match g.asy.gates with
  | l :: _ => l.stack
  | [] => g.sr.privsize

/-- The virtual address of word `w` of lane `l`'s thread. -/
def Group.privAddr (g : Group) (l w : Nat) : Nat :=
  if g.inGate then g.privBase + (w * 32 + l) * 4
  else
    let t := g.id.tidx.getD l 0
    g.sr.privbase + t / 32 * (g.sr.privsize + 36) * 128 + (w * 32 + t % 32) * 4

/-- The index of a private access in a lane. -/
def Group.privIndex (g : Group) (b i : Nat) (lit : Word) (l : Nat) : Nat :=
  (g.sreg b).toNat + (g.opLane i lit l).toNat

/-! ### Loads through the cell cache -/

/-- Poison that a reader of the home copy, or of dirty bytes in its cell cache, meets. -/
def State.homePoison (s : State) (part cell pa n : Nat) : Option (Nat × Poison) :=
  let w := s.window part cell
  let dirty := (List.range n).any fun k => match w.line? ((pa + k) / 128) with
    | some x => x.dirty.getLsbD ((pa + k) % 128)
    | .none => false
  match (if dirty then w.cachePoison.hit pa n else .none) with
  | some p => some p
  | .none => s.memPoison.hit pa n

/-- Make every line of a list present with all its bytes; none where one finds no way (08 R231, R232). -/
def State.fillLines (s : State) (part cell : Nat) : List Nat → Option State
  | [] => some s
  | l :: r => match s.fillLine part cell l with
    | .none => .none
    | some s1 => s1.fillLines part cell r

/-- The lines of some accesses of `n` bytes that are not all valid in the cell cache. -/
def State.missing (s : State) (part cell n : Nat) (pas : List Nat) : List Nat :=
  let w := s.window part cell
  dedupNat ((pas.filter fun pa => !w.holds pa n).flatMap fun pa => linesOf pa n)

/-- A lane's access translated: its physical address and memory type, or its fault. -/
def State.laneXlate (s : State) (g : Group) (write : Bool) (n va : Nat) : Except FaultInfo (Nat × Nat) :=
  if va % n ≠ 0 then .error (.at 0x06 va 0)
  else match s.xlateG g write va with
    | .error e => .error (e.info write va)
    | .ok t => .ok (t.phys va, t.mem)

/-- The lanes' translations: those that pass, with physical address and type, and the faults. -/
def State.laneXlates (s : State) (g : Group) (n : Nat) (lanes : List Nat) (addr : Nat → Nat) :
    List (Nat × Nat × Nat) × List (Nat × FaultInfo) :=
  lanes.foldl (fun (acc : List (Nat × Nat × Nat) × List (Nat × FaultInfo)) l =>
    match s.laneXlate g false n (addr l) with
    | .error f => (acc.1, acc.2 ++ [(l, f)])
    | .ok (pa, m) => (acc.1 ++ [(l, pa, m)], acc.2)) ([], [])

/-- What the lanes' accesses leave behind before they are performed: in the TLBs, and the intervals of other blocks whose
uncommitted bytes they reach, committed (08 R241, 09 R253). -/
def State.reach (s : State) (g : Group) (n : Nat) (l : List (Nat × Nat)) : State :=
  l.foldl (fun s x => (s.useG g x.1).commitOthers (s.partOf g) g.loc.cell g.id.block x.2 n) s

/-- Reads of `n` bytes performed at the home copy. -/
def State.homeSeen (s : State) (n : Nat) (pas : List Nat) : State := pas.foldl (fun s pa => s.hubUse false pa n) s

/-- The lines of accesses of `n` bytes that hit in the cell cache, made the most recently used (08 R231). -/
def State.touchLines (s : State) (part cell n : Nat) (pas : List Nat) : State :=
  s.modWindow part cell fun w => w.touch (dedupNat (pas.flatMap fun pa => linesOf pa n))

/-- The poison that a load meets, and its bytes: `direct` at the home copy, as a wide acquire and a MEM 1 load take them
(09 R244, R251), else from the cell cache. -/
def State.loadPoison (s : State) (part cell : Nat) (direct : Bool) (pa n : Nat) : Option (Nat × Poison) :=
  if direct then s.homePoison part cell pa n else s.cachedPoison part cell pa n
def State.loadBytes (s : State) (part cell : Nat) (direct : Bool) (pa n : Nat) : List Byte :=
  readBytes (s.loadPoison part cell direct pa n)
    (if direct then s.acquireRead part cell pa n else s.cachedRead part cell pa n)

/-- LDP (15 R417). A miss does not block: the bytes not valid are fetched. -/
def execLdp (d i : BitVec 7) (b : BitVec 8) (lit : Word) (s : State) : Host.Outcome State Fault Refusal :=
  runIsa ⟨.private_, litLen i, [.vdst d.toNat 1 1, .vsrc i.toNat true]⟩ (fun s gi g =>
    let idx := g.privIndex b.toNat i.toNat lit
    let lanes := g.ctl.act.toList
    let past := (lanes.filter fun l => decide (g.privSize ≤ idx l)).map fun l => (l, FaultInfo.at 0x08 (idx l) 0)
    let (oks, fs) := s.laneXlates g 4 (lanes.filter fun l => decide (idx l < g.privSize)) fun l => g.privAddr l (idx l)
    let part := s.partOf g
    let cell := g.loc.cell
    let s0 := (s.reach g 4 (oks.map fun x => (g.privAddr x.1 (idx x.1), x.2.1))).homeSeen 4
      ((oks.filter fun x => x.2.2 == 1).map fun x => x.2.1)
    match s0.fillLines part cell (s0.missing part cell 4 ((oks.filter fun x => x.2.2 != 1).map fun x => x.2.1)) with
    | .none => .hold s0
    | some s1 =>
      let s2 := s1.touchLines part cell 4 ((oks.filter fun x => x.2.2 != 1).map fun x => x.2.1)
      let vs := oks.map fun x => (x.1, loadWords 4 (s2.loadBytes part cell (x.2.2 == 1) x.2.1 4))
      let p := oks.findSome? fun x => (s2.loadPoison part cell (x.2.2 == 1) x.2.1 4).map fun q => (g.privAddr x.1 (idx x.1), q)
      let pp := metPoison (p.map (·.2)) (p.elim 0 (·.1)) (p.elim 0 (·.2.1))
      lanesEnd (s2.modGroup gi fun g => g.addPend d.toNat 1 (laneWords vs) (laneSet vs) false pp) (past ++ fs)) s

/-! ### Stores through the cell cache -/

/-- What a store to global or private memory has come to: it goes on, waits for a way, or overflows the
uncommitted capacity. -/
inductive GStore where
  | on (a : StoreAcc)
  | wait
  | overflow

/-- The bytes of a lane put where its translation says: into the cell cache, or home for MEM 1. -/
def State.putGlobal (s : State) (g : Group) (mem pa : Nat) (b : List Byte) : Option State :=
  let part := s.partOf g
  match s.writeKind g.id.block with
  | .committed => if mem = 1 then some (s.homeWrite pa b) else s.cacheWrite part g.loc.cell .committed pa b
  | k => s.cacheWrite part g.loc.cell k pa b

/-- Poison that bytes carry, where `putGlobal` puts them (05 R130). -/
def State.putPoison (s : State) (g : Group) (mem pa : Nat) (q : Poison) : State :=
  match s.writeKind g.id.block with
  | .committed =>
    if mem = 1 then { s with memPoison := s.memPoison.mark pa q }
    else s.modWindow (s.partOf g) g.loc.cell fun w => { w with cachePoison := w.cachePoison.mark pa q }
  | _ => s.modWindow (s.partOf g) g.loc.cell fun w => { w with cachePoison := w.cachePoison.mark pa q }

/-- The store of one lane at a virtual address, with its translation, which every lane takes before any lane stores. -/
def GStore.lane (x : GStore) (i : Nat) (es : List BoundEntry) (home : Bool) (l va : Nat)
    (tr : Except FaultInfo (Nat × Nat)) (b : List Byte) : GStore :=
  match x with
  | .on a =>
    let g := a.st.group i
    match tr with
    | .error f => .on { a with faults := a.faults ++ [(l, f)] }
    | .ok (pa, mem) =>
      let s := a.st
      let part := s.partOf g
      let cell := g.loc.cell
      let w := s.window part cell
      let hs := boundHits es false va b fun y => s.cachedByte w (pa + y - va)
      match hs.find? fun h => h.entry.action == 3 with
      | some h => .on { a with faults := a.faults ++ [(l, h.fault)] }
      | .none =>
        let s := s.reach g b.length [(va, pa)]
        let parts := (pa, b) :: (hs.filter fun h => h.entry.action == 2).map fun h => (pa + h.clamp.1 - va, h.clamp.2)
        let put (s : Option State) (y : Nat × List Byte) : Option State :=
          match s with
          | .none => .none
          | some s =>
            if home then
              -- a wide release or sc store: at the home copy, then in the valid bytes of the cell cache (09 R250)
              let s1 := s.homeWrite y.1 y.2
              some (s1.modWindow part cell fun w =>
                { w with cache := (List.range y.2.length).foldl (fun c k =>
                    match w.line? ((y.1 + k) / 128) with
                    | some ln => if ln.valid.getLsbD ((y.1 + k) % 128) then c.set (y.1 + k) (y.2.getD k 0#8) else c
                    | .none => c) w.cache })
            else s.putGlobal g mem y.1 y.2
        match parts.foldl put (some s) with
        | .none => .wait
        | some s1 =>
          if s1.overUcap part cell g.id.block then .overflow
          else .on { st := s1, faults := a.faults, hits := a.hits ++ hs, ranges := a.ranges ++ [(pa, b.length)] }
  | y => y

/-- The end of such a store. -/
def GStore.finish (x : GStore) (s0 : State) (i : Nat) (k : State → State) (more : List (Nat × FaultInfo)) : Res :=
  match x with
  | .wait => .hold s0
  | .overflow => .trap (.here 0x15 0)
  | .on a =>
    let s := a.st
    let g := s.group i
    let w := s.window (s.partOf g) g.loc.cell
    let s1 := if w.cachePoison.isEmpty then s else s.setWindow { w with cachePoison := w.cachePoison.clearedBy a.ranges }
    lanesEnd (k (s1.boundRecords g a.hits)) (more ++ a.faults)

/-- STP (15 R417): neither race-checked nor bound-checked; held uncommitted under rollback. -/
def execStp (d i : BitVec 7) (b : BitVec 8) (lit : Word) (s : State) : Host.Outcome State Fault Refusal :=
  runIsa ⟨.private_, storeLen d i, [.vsrc d.toNat true, .vsrc i.toNat true]⟩ (fun s gi g =>
    let idx := g.privIndex b.toNat i.toNat lit
    let past := (g.storeLanes.filter fun l => decide (g.privSize ≤ idx l)).map fun l => (l, FaultInfo.at 0x08 (idx l) 0)
    let x := (g.storeLanes.filter fun l => decide (idx l < g.privSize)).foldl (fun (x : GStore) l =>
      x.lane gi [] false l (g.privAddr l (idx l)) (s.laneXlate g true 4 (g.privAddr l (idx l)))
        (wordBytes (g.opLane d.toNat lit l))) (.on ⟨s, [], [], []⟩)
    x.finish s gi (fun s => s) past) s

/-- A global load: `order` 0 relaxed, 1 acquire, 2 sc. -/
def gldRun (code words : Nat) (ext : Bool) (order scope : Nat) (d i : BitVec 7) (x : BitVec 1) (b : BitVec 8)
    (lit : Word) (s : State) : Host.Outcome State Fault Refusal :=
  runIsa ⟨.global, words, [dataDst d code, .vsrc i.toNat ext, .pair b.toNat]⟩ (fun s gi g =>
    released s gi (order == 2) scope fun s =>
      let n := sizeBytes code
      let addr := g.virtAddr b.toNat i.toNat lit (scaleBy x n)
      let part := s.partOf g
      let cell := g.loc.cell
      let (oks, fs) := s.laneXlates g n g.ctl.act.toList addr
      let wide := order != 0 && s.isWide g scope
      let direct (y : Nat × Nat × Nat) : Bool := wide || y.2.2 == 1
      let s := (s.reach g n (oks.map fun y => (addr y.1, y.2.1))).homeSeen n ((oks.filter direct).map fun y => y.2.1)
      let near := (oks.filter fun y => !direct y).map fun y => y.2.1
      let miss := s.missing part cell n near
      let waits := !miss.isEmpty || oks.any direct
      let go (s : State) : Res :=
        let s1 := s.touchLines part cell n near
        let vs := oks.map fun y => (y.1, loadWords code (s1.loadBytes part cell (direct y) y.2.1 n))
        let p := oks.findSome? fun y => (s1.loadPoison part cell (direct y) y.2.1 n).map fun q => (addr y.1, q)
        let pp := metPoison (p.map (·.2)) (p.elim 0 (·.1)) (p.elim 0 (·.2.1))
        let s2 := s1.modGroup gi fun g => g.addPend d.toNat (sizeRegs code) (laneWords vs) (laneSet vs) false pp
        lanesEnd (if order = 0 then s2 else s2.acquire gi scope) fs
      if !waits || g.ctl.wakeHit then go s
      else if g.inGate then
        match s.fillLines part cell miss with
        | .none => .hold s
        | some s1 => go s1
      else .block s (.fill miss)) s

def execGld (d i : BitVec 7) (x : BitVec 1) (b : BitVec 8) (lit : Word) (s : State) :
    Host.Outcome State Fault Refusal := gldRun 4 (litLen i) true 0 0 d i x b lit s
def execGld64 (d i : BitVec 7) (x : BitVec 1) (b : BitVec 8) (lit : Word) (s : State) :
    Host.Outcome State Fault Refusal := gldRun 5 (litLen i) true 0 0 d i x b lit s
def execGld128 (d i : BitVec 7) (x : BitVec 1) (b : BitVec 8) (lit : Word) (s : State) :
    Host.Outcome State Fault Refusal := gldRun 6 (litLen i) true 0 0 d i x b lit s
def execGldOrdered (d i : BitVec 7) (x : BitVec 1) (b : BitVec 8) (sc : BitVec 3) (od : BitVec 2) (sz : BitVec 3)
    (s : State) : Host.Outcome State Fault Refusal :=
  gldRun sz.toNat 2 false od.toNat sc.toNat d i x b 0#32 s

/-- A global store: `order` 0 relaxed, 1 release, 2 sc. -/
def gstRun (code words : Nat) (ext : Bool) (order scope : Nat) (d i : BitVec 7) (x : BitVec 1) (b : BitVec 8)
    (lit : Word) (s : State) : Host.Outcome State Fault Refusal :=
  runIsa ⟨.global, words, [dataSrc d code ext, .vsrc i.toNat ext, .pair b.toNat]⟩ (fun s gi g =>
    released s gi (order != 0) scope fun s1 =>
      let addr := g.virtAddr b.toNat i.toNat lit (scaleBy x (sizeBytes code))
      let es := s1.boundsOf g.id.ctx
      let home := order != 0 && s1.isWide g scope
      let r := g.storeLanes.foldl (fun (a : GStore) l =>
        a.lane gi es home l (addr l) (s1.laneXlate g true (sizeBytes code) (addr l))
          (storeBytes code (g.dataWords d.toNat code lit l))) (.on ⟨s1, [], [], []⟩)
      r.finish s gi (fun s => if order = 2 then s.acquire gi scope else s) []) s

def execGst (d i : BitVec 7) (x : BitVec 1) (b : BitVec 8) (lit : Word) (s : State) :
    Host.Outcome State Fault Refusal := gstRun 4 (storeLen d i) true 0 0 d i x b lit s
def execGst64 (d i : BitVec 7) (x : BitVec 1) (b : BitVec 8) (lit : Word) (s : State) :
    Host.Outcome State Fault Refusal := gstRun 5 (storeLen d i) true 0 0 d i x b lit s
def execGst128 (d i : BitVec 7) (x : BitVec 1) (b : BitVec 8) (lit : Word) (s : State) :
    Host.Outcome State Fault Refusal := gstRun 6 (storeLen d i) true 0 0 d i x b lit s
def execGstOrdered (d i : BitVec 7) (x : BitVec 1) (b : BitVec 8) (sc : BitVec 3) (od : BitVec 2) (sz : BitVec 3)
    (s : State) : Host.Outcome State Fault Refusal :=
  gstRun sz.toNat 2 false od.toNat sc.toNat d i x b 0#32 s

/-! ### The cell-cache family (15 R434) -/

/-- The pages that a range of virtual addresses touches, ascending: first byte and length in each. -/
def pagesGo : Nat → Nat → Nat → List (Nat × Nat)
  | 0, _, _ => []
  | fuel + 1, va, n =>
    if n = 0 then []
    else
      let k := min n (4096 - va % 4096)
      (va, k) :: pagesGo fuel (va + k) (n - k)
def pagesOf (va n : Nat) : List (Nat × Nat) := pagesGo (n / 4096 + 2) va n

/-- A cell-cache form: `act` is what it does to one line of a MEM 0 page, told whether the range covers it whole, and `near`
what it does to one of a MEM 1 page; `skip` passes over pages whose translation fails. The pages take their translations
before any line is written home. -/
def ccRun (skip : Bool) (act : State → Nat → Nat → Nat → Bool → State) (near : State → Nat → State) (a l : BitVec 8) (s : State) :
    Host.Outcome State Fault Refusal :=
  runIsa ⟨.cc, 1, [.pair a.toNat]⟩ (fun s _ g =>
    let va0 := (g.spair a.toNat).toNat
    let (va, n) := if l = 0xFF#8 then (va0 / 128 * 128, 128) else (va0, (g.sreg l.toNat).toNat)
    if n = 0 ∨ 0x100000 < n then .trap (.here 0x02 l.toNat)
    else
      let part := s.partOf g
      let cell := g.loc.cell
      let page (acc : State × Option FaultInfo) (p : Nat × Nat) : State × Option FaultInfo :=
        match acc.2 with
        | some _ => acc
        | .none => match s.xlateG g false p.1 with
          | .error e => if skip then acc else (acc.1, some (e.info false p.1))
          | .ok t =>
            let pa := t.phys p.1
            ((linesOf pa p.2).foldl (fun s ln =>
              if t.mem = 1 then near s ln
              else act s part cell ln (decide (pa ≤ ln * 128 ∧ ln * 128 + 128 ≤ pa + p.2))) (acc.1.useG g p.1), .none)
      let (s1, f) := (pagesOf va n).foldl page (s, .none)
      match f with
      | some f => allLanes s1 g f
      | .none => .done s1) s

/-- A line holds uncommitted bytes. -/
def State.lineUncommitted (s : State) (part cell l : Nat) : Bool :=
  match (s.window part cell).line? l with
  | some x => x.uncommitted != 0#128
  | .none => false

def execCcPrefetch (a l : BitVec 8) (s : State) : Host.Outcome State Fault Refusal :=
  ccRun true (fun s part cell ln _ => (s.fillLine part cell ln).getD s) (fun s ln => s.hubUse false (128 * ln) 128) a l s
def execCcWb (a l : BitVec 8) (s : State) : Host.Outcome State Fault Refusal :=
  ccRun false (fun s part cell ln _ => if s.lineUncommitted part cell ln then s else s.writeBack part cell ln)
    (fun s _ => s) a l s
def execCcDiscard (a l : BitVec 8) (s : State) : Host.Outcome State Fault Refusal :=
  ccRun false (fun s part cell ln whole =>
    if s.lineUncommitted part cell ln then s
    else if whole then s.modWindow part cell fun w => w.dropLine ln
    else s.writeBack part cell ln) (fun s _ => s) a l s

/-! ### Events -/

/-- LINE_FILL_RETURN: the lines of a blocked GLD are returned, and it completes when its group runs. -/
def execLineFillReturn (g : Nat) (s : State) : Host.Outcome State Fault Refusal :=
  let gr := s.group g
  .next (match gr.ctl.status with
    | .blocked (.fill ls) => match s.fillLines (s.partOf gr) gr.loc.cell ls with
      | .none => s
      | some s1 => s1.modGroup g fun x => (x.withCtl fun c => { c with wakeHit := true }).wakeUp (s1.now x)
    | _ => s)

/-- RELEASE_DRAIN_COMPLETE: the write-backs ahead of a group's marker are acknowledged, with every earlier
atomic of the group; its release goes on (09 R250). -/
def execReleaseDrainComplete (g : Nat) (s : State) : Host.Outcome State Fault Refusal :=
  let gr := s.group g
  let part := s.partOf gr
  let w := s.window part gr.loc.cell
  .next (if w.fifo.contains (.marker g) && !(s.atoms.any fun a => a.group == g && a.reply.isNone) then
      let s1 := s.drainLines part gr.loc.cell (linesAhead g w.fifo)
      let s2 := s1.modWindow part gr.loc.cell fun w => { w with fifo := w.fifo.filter fun e => e != .marker g }
      s2.modGroup g fun x => x.withCtl fun c => { c with drained := true }
    else s)

end Sys2Proof.Machine
end

