-- ==== Sys2Proof/Machine/Atomic.lean ====
section
/-! DEFINITION. Global atomics, the service sub-cores, and return slots: majors 0x35 and 0x36 (15 R420,
R422 to R425; 09 R256), with the performing of a request and its reply. -/
namespace Sys2Proof.Machine
open Sys2Proof

/-! ### Where an atomic is served (15 R423) -/

/-- The hash of a physical address. -/
def atomHash (p : Nat) : Nat :=
  bits p 12 8 ^^^ bits p 17 13 ^^^ bits p 22 18 ^^^ bits p 27 23 ^^^ bits p 32 28 ^^^ bits p 37 33 ^^^ bits p 39 38

/-- A cell may serve: it is in C-ACT or C-IDLE and its pane is on and not quarantined. -/
def State.serves (s : State) (c : Nat) : Bool :=
  match s.cells[c]?, s.panes[c / Config.cellsPerPane]? with
  | some x, some p => (x.power == .act || x.power == .idle) && p.power == .on && !p.quarantined
  | _, _ => false

/-- The serving cell of a hash. -/
def State.server (s : State) (h : Nat) : Option Nat :=
  if s.serves h then some h
  else
    let pane := h / Config.cellsPerPane
    match (List.range Config.cells).find? fun c => decide (c / Config.cellsPerPane = pane) && s.serves c with
    | some c => some c
    | .none => (List.range Config.cells).find? fun c => s.serves c

/-- Requests queued at a cell. -/
def State.queuedAt (s : State) (c : Nat) : Nat := (s.atoms.filter fun a => a.serve == c && a.reply.isNone).length

/-! ### Issue -/

/-- Send the requests of some lanes, each after its line's dirty bytes have gone home; none where a service
queue is full. -/
def State.sendAtoms (s : State) (part cell : Nat) : List AtomReq → Option State
  | [] => some s
  | r :: rest => match s.server (atomHash r.pa) with
    | .none => .none
    | some c =>
      if 1024 ≤ s.queuedAt c then .none
      else
        let s1 := s.sendLine part cell r.pa
        ({ s1 with atoms := s1.atoms ++ [{ r with serve := c }] }).sendAtoms part cell rest

/-- ATOM and ARED: `slot` is the return slot of an ATOM. -/
def atomRun (slot : Option Nat) (order : Nat) (z i : BitVec 7) (x : BitVec 1) (b : BitVec 8) (sc : BitVec 3)
    (op : BitVec 4) (c : BitVec 7) (s : State) : Host.Outcome State Fault Refusal :=
  let n := if atomWide op.toNat then 8 else 4
  runIsa ⟨.atom, 2, [.cond (slot.isSome || z == 0#7) z.toNat, .vsrc i.toNat false, .pair b.toNat, atomData op.toNat c]⟩
    (fun s gi g =>
      let busy := match slot with | some j => g.asy.rsOut.getD j 0#32 != 0#32 | .none => false
      if busy then .hold s
      else released (s.commitEarly g.id.block) gi (ordReleases order) sc.toNat fun s1 =>
        let addr := g.virtAddr b.toNat i.toNat 0#32 (scaleBy x n)
        let lanes := g.storeLanes
        let (oks, fs) := lanes.foldl (fun (acc : List (Nat × Nat) × List (Nat × FaultInfo)) l =>
          match s1.laneXlate g true n (addr l) with
          | .error f => (acc.1, acc.2 ++ [(l, f)])
          | .ok (pa, _) => (acc.1 ++ [(l, pa)], acc.2)) ([], [])
        let reqs := oks.map fun (l, pa) =>
          let (v, cmp) := g.atomOperands op.toNat c.toNat l
          (⟨gi, l, slot, op.toNat, n == 8, pa, v, cmp, 0, .none, false⟩ : AtomReq)
        let part := s1.partOf g
        let s0 := lanes.foldl (fun s l => s.useG g (addr l)) s1
        let s2 := oks.foldl (fun s (y : Nat × Nat) => s.commitOthers part g.loc.cell g.id.block y.2 n) s0
        match s2.sendAtoms part g.loc.cell reqs with
        | .none => .hold s1
        | some s3 =>
          let s4 := match slot with
            | .none => s3
            | some j => s3.modGroup gi fun g => g.withAsy fun a =>
                { a with rsOut := putAt 0#32 a.rsOut j (Lanes.ofFn 32 fun l => oks.any fun y => y.1 == l)
                         rsAcq := putAt .none a.rsAcq j (if ordAcquires order then some sc.toNat else .none) }
          lanesEnd s4 fs) s

def execAtom (o sl : BitVec 3) (i : BitVec 7) (x : BitVec 1) (b : BitVec 8) (sc : BitVec 3) (op : BitVec 4)
    (c : BitVec 7) (s : State) : Host.Outcome State Fault Refusal :=
  atomRun (some sl.toNat) o.toNat 0#7 i x b sc op c s
def execAred (z i : BitVec 7) (x : BitVec 1) (b : BitVec 8) (sc : BitVec 3) (op : BitVec 4) (c : BitVec 7)
    (s : State) : Host.Outcome State Fault Refusal := atomRun .none 0 z i x b sc op c s
def execAredRel (z i : BitVec 7) (x : BitVec 1) (b : BitVec 8) (sc : BitVec 3) (op : BitVec 4) (c : BitVec 7)
    (s : State) : Host.Outcome State Fault Refusal := atomRun .none 2 z i x b sc op c s

/-! ### Return slots (15 R424) -/

/-- The window offset of a lane's entry in a return slot (08 R229). -/
def State.rslotAddr (s : State) (g : Group) (slot l : Nat) : Nat :=
  let qs := s.heldQuads (s.partOf g) g.loc.cell
  let j := (findIdx' (· == g.loc.quad) qs).getD 0
  qs.length * 0x40000 + (j * 96 + (g.loc.sub % 8) * 12 + g.loc.slot) * 0x800 + slot * 0x100 + l * 8

/-- The words of a slot's entries: one or two of each lane. -/
def State.rslotVals (s : State) (g : Group) (slot : Nat) (wide : Bool) (l : Nat) : List Word :=
  let n := if wide then 8 else 4
  let a := s.rslotAddr g slot l
  let w := s.window (s.partOf g) g.loc.cell
  loadWords (if wide then 5 else 4) (readBytes (w.poison.hit a n) (w.mem.bytes a n))

/-- The poison that a load of some lanes' entries of a slot meets, as its pending result carries it. -/
def State.rslotPoison (s : State) (g : Group) (slot : Nat) (wide : Bool) (m : Lanes) : Option PendPoison :=
  let w := s.window (s.partOf g) g.loc.cell
  (m.toList.findSome? fun l => w.poison.hit (s.rslotAddr g slot l) (if wide then 8 else 4)).map fun x => ⟨x.2, x.1, 0⟩

/-- RSLOT.LD: its result is pending, and with replies outstanding not ready until they have come; after an acquiring ATOM
it holds the group instead until they have, and then acquires. -/
def rslotRun (wide : Bool) (d : BitVec 7) (slot : BitVec 3) (s : State) : Host.Outcome State Fault Refusal :=
  let n := if wide then 2 else 1
  runIsa ⟨.rslot, 1, [.vdst d.toNat n n]⟩ (fun s gi g =>
    let busy := g.asy.rsOut.getD slot.toNat 0#32 != 0#32
    let acq := g.asy.rsAcq.getD slot.toNat .none
    let s1 := s.modGroup gi fun g =>
      if busy then
        g.withRegs fun r => { r with pend := r.pend ++
          [{ regs := (List.range n).map fun j => d.toNat + j, vals := [], lanes := g.ctl.act, uniform := false
             ready := false, kind := .rslot slot.toNat wide, poison := .none }] }
      else g.addPend d.toNat n (s.rslotVals g slot.toNat wide) g.ctl.act false (s.rslotPoison g slot.toNat wide g.ctl.act)
    match acq with
    | some sc => if busy then .hold s else .done (s1.acquire gi sc)
    | .none => .done s1) s
def execRslotLd (d : BitVec 7) (slot : BitVec 3) (s : State) : Host.Outcome State Fault Refusal :=
  rslotRun false d slot s
def execRslotLd64 (d : BitVec 7) (slot : BitVec 3) (s : State) : Host.Outcome State Fault Refusal :=
  rslotRun true d slot s
def execRslotTest (k slot : BitVec 3) (s : State) : Host.Outcome State Fault Refusal :=
  runIsa ⟨.rslot, 1, [.kdst k.toNat]⟩ (own fun g => g.setK k.toNat (~~~(g.asy.rsOut.getD slot.toNat 0#32))) s

/-! ### Events -/

/-- A request may be performed: its server has granted it, and every earlier one to its chunks is performed. -/
def State.atomNext (s : State) (k : Nat) : Bool :=
  match s.atoms[k]? with
  | .none => false
  | some r => r.granted && r.reply.isNone && !((s.atoms.take k).any fun q => q.reply.isNone && atomHash q.pa == atomHash r.pa)

/-- A consumption by the service sub-core: in the group it acts for while that is there, else by a record
of its own (05 R131). -/
def State.consumeFor (s : State) (i : Nat) (p : Poison) (addr paddr : Nat) : State :=
  let g := s.group i
  if g.ctl.live != 0#32 then s.consumeNow i ⟨p, addr, paddr⟩
  else s.ctxRecord { ErrRec.plain 0x1A g.id.ctx with flags := 1, paddr := paddr, source := p.source, unit := p.unit }

/-- ATOMIC_PERFORM: the request is performed indivisibly at the home copy (09 R256). -/
def execAtomicPerform (k : Nat) (s : State) : Host.Outcome State Fault Refusal :=
  .next (match s.atoms[k]? with
    | .none => s
    | some r =>
      if !s.atomNext k then s
      else
        let n := if r.wide then 8 else 4
        let p := s.memPoison.hit r.pa n
        let m := leValue (readBytes p (s.homeRead r.pa n))
        let s1 := match p with | some x => s.consumeFor r.group x.2 r.pa x.1 | .none => s
        let s2 := s1.homeWrite r.pa (leBytes n (atomNew r.op m r.v r.c))
        { s2 with atoms := match r.slot with
            | some _ => modifyAt s2.atoms k fun r => { r with reply := some m }
            | .none => s2.atoms.eraseIdx k })

/-- ATOM_REPLY: the old value goes into the lane's entry; the last reply makes the loads that wait for the
slot ready to land. A reply for a group that has left its slot is dropped. -/
def execAtomReply (k : Nat) (s : State) : Host.Outcome State Fault Refusal :=
  .next (match s.atoms[k]? with
    | .none => s
    | some r => match r.slot, r.reply with
      | some slot, some m =>
        let g := s.group r.group
        let s1 : State := { s with atoms := s.atoms.eraseIdx k }
        if g.ctl.status == .free || g.ctl.status == .tracked then s1.barComplete g.id.block
        else
          let s2 := s1.winWrite (s.partOf g) g.loc.cell (s.rslotAddr g slot r.lane) (leBytes 8 m)
          let left := g.asy.rsOut.getD slot 0#32 &&& ~~~(1#32 <<< r.lane)
          -- the barrier of a rollback block may have waited for this reply (05 R141)
          let s3 := s2.modGroup r.group fun g =>
            let g1 := g.withAsy fun a => { a with rsOut := putAt 0#32 a.rsOut slot left }
            if left != 0#32 then g1
            else g1.withRegs fun rs => { rs with pend := rs.pend.map fun p =>
              match p.kind with
              | .rslot j wide => if j == slot && !p.ready then
                  { p with ready := true, poison := s2.rslotPoison g slot wide p.lanes
                           vals := (List.range 32).map fun l => if p.lanes.has l then s2.rslotVals g slot wide l else [] }
                else p
              | _ => p }
          s3.barComplete g.id.block
      | _, _ => s)

end Sys2Proof.Machine
end

