-- ==== Sys2Proof/Machine/Async.lean ====
section
/-! DEFINITION. Outstanding operations: their counters, completion and retirement, arrivals on barrier
objects, and faults of kind D (09 R259 to R263; 13 R355; 11 R291; 15 R431). -/
namespace Sys2Proof.Machine
open Sys2Proof

/-- The counter of a class. -/
def Group.count (g : Group) (cls : Nat) : Nat := g.asy.cnt.getD cls 0
/-- An operation of the class would take its counter above 63. -/
def Group.countFull (g : Group) (cls : Nat) : Bool := decide (63 ≤ g.count cls)

/-- Issue an operation: the counter rises and its record is kept. Its number is the group's next. -/
def Group.issueOp (g : Group) (cls promise : Nat) (bobj : Option Nat) : Group :=
  g.withAsy fun a =>
    { a with cnt := modifyAt a.cnt cls (· + 1), nextOp := a.nextOp + 1
             ops := a.ops ++ [⟨a.nextOp, cls, false, promise, bobj, .none⟩] }

/-- Retire the operations of a class that are complete together with every older one (09 R259). -/
def retireGo (cls : Nat) : List OpRec → List OpRec × List OpRec
  | [] => ([], [])
  | o :: r =>
    if o.cls ≠ cls then let (a, b) := retireGo cls r; (o :: a, b)
    else if o.done then let (a, b) := retireGo cls r; (a, o :: b)
    else (o :: r, [])

/-- An operation is complete: it is marked, and what can retire retires; the retired operations that found
a fault keep it for the first instruction that waits on them. -/
def Group.completeOp (g : Group) (id : Nat) (f : Option FaultInfo) : Group :=
  match g.asy.ops.find? fun o => o.id == id with
  | .none => g
  | some o =>
    g.withAsy fun a =>
      let marked := a.ops.map fun x => if x.id == id then { x with done := true, fault := f } else x
      let (left, gone) := retireGo o.cls marked
      { a with ops := left, cnt := modifyAt a.cnt o.cls (· - gone.length)
               deferred := a.deferred ++ gone.filter fun x => x.fault.isSome }

/-- A group blocked on a counter, on its sleep, or on an object that an operation in fault named, whose wait
is over. -/
def Group.cntHit (g : Group) : Group :=
  match g.ctl.status with
  | .blocked (.cnt c n) => if g.count c ≤ n then g.withCtl fun x => { x with wakeHit := true } else g
  | .blocked (.sleep t true true) =>
    if (g.asy.ops.any fun o => o.cls == 0 && decide (o.promise ≤ t) && !o.done) then g
    else g.withCtl fun x => { x with wakeHit := true }
  | .blocked (.bobj off _) =>
    if (g.asy.deferred ++ g.asy.ops).any fun o => o.fault.isSome && o.bobj == some off then
      g.withCtl fun x => { x with wakeHit := true }
    else g
  | _ => g

/-- A fault of kind D found after its group has ended: no instruction is left to raise it at. One of a
class that goes to the fault domain makes the domain act; one of a handler class writes its record with
DOMAIN 0xFF (15 R431, 07 R207). -/
def State.lateFault (s : State) (i : Nat) (f : FaultInfo) : State :=
  let g := s.group i
  if handlerClass f.code then s.faultRecord g f 0xFF g.ctl.pc.toNat 0
  else s.domainFault i f 0#32 g.ctl.pc

/-- An operation of group `i` is complete, with the fault it found. -/
def State.completeOp (s : State) (i id : Nat) (f : Option FaultInfo) : State :=
  -- the barrier of a rollback block may have waited for this operation's reads (05 R141)
  let s1 := (s.modGroup i fun g => (g.completeOp id f).cntHit).barComplete (s.group i).id.block
  match f with
  | .none => s1
  | some x =>
    if (s1.group i).ctl.live = 0#32 && !(s1.block (s1.group i).id.block).terminated then
      (s1.modGroup i fun g => g.withAsy fun a => { a with deferred := a.deferred.filter fun o => o.id != id }).lateFault i x
    else s1

/-! ### Barrier objects and operations (13 R355) -/

/-- FLIGHT of an object can take one more. -/
def State.flightFull (s : State) (b cell off : Nat) : Bool := decide (65535 ≤ (s.bobj b cell off).flight)
def State.flightUp (s : State) (b cell off : Nat) : State :=
  let o := s.bobj b cell off
  s.setBobj b cell off { o with flight := o.flight + 1 }
def State.flightDown (s : State) (b cell off : Nat) : State :=
  let o := s.bobj b cell off
  s.setBobj b cell off { o with flight := o.flight - 1 }

/-- An operation's arrival: one, or its bytes in MODE 1; what exceeds EXPECT is not counted, and whether
there was such an excess. The arrival publishes the operation's writes (09 R262, R267). -/
def State.opArrive (s : State) (b cell off bytes : Nat) (sel : RaceTag → Bool) : State × Bool :=
  let s1 := ((s.commitFor b 2).flightDown b cell off).publish b cell sel
  let o := s1.bobj b cell off
  let amount := if o.mode then bytes else 1
  let room := o.expect - o.got
  let s2 := s1.bobjArrive b cell off (min amount room)
  (s2.bobjStarve b cell off, decide (room < amount))

end Sys2Proof.Machine
end

