-- ==== Sys2Proof/Machine/Hod.lean ====
section
/-! DEFINITION. The hod engine: major 0x37 and the completion of its operations (15 R426 to R432; 09 R260,
R261). -/
namespace Sys2Proof.Machine
open Sys2Proof

/-! ### The descriptor (15 R427) -/

/-- A hod descriptor, its fields decoded; a dimension at or beyond DIMS counts one element. -/
structure HodDesc where
  src : Nat
  dst : Nat
  esize : Nat
  srcSeg : Bool
  dstSeg : Bool
  rank : Nat
  spaceHi : Nat
  xop : Nat
  dims : Nat
  n : List Nat
  pad : Nat
  ss : List Int
  ds1 : Int
  ds2 : Int
  deriving DecidableEq, Repr

/-- The field of `n` bytes at an offset. -/
def fieldAt (d : List Byte) (off n : Nat) : Nat := leValue ((d.drop off).take n)

def HodDesc.parse (d : List Byte) : HodDesc :=
  let sp := fieldAt d 0x11 1
  { src := fieldAt d 0 8, dst := fieldAt d 8 8, esize := fieldAt d 0x10 1
    srcSeg := bit sp 0, dstSeg := bit sp 1, rank := bits sp 3 2, spaceHi := bits sp 7 4
    xop := fieldAt d 0x12 1, dims := fieldAt d 0x13 1
    n := fieldAt d 0x14 4 :: (List.range 5).map fun k => fieldAt d (0x18 + 2 * k) 2
    pad := fieldAt d 0x22 2
    ss := (List.range 5).map fun k => signedOf 32 (fieldAt d (0x24 + 4 * k) 4)
    ds1 := signedOf 32 (fieldAt d 0x38 4), ds2 := signedOf 32 (fieldAt d 0x3C 4) }

/-- The element size in bytes. -/
def HodDesc.esz (d : HodDesc) : Nat := 2 ^ d.esize
/-- The counts of the six dimensions. -/
def HodDesc.counts (d : HodDesc) : List Nat := (List.range 6).map fun k => if k < d.dims then d.n.getD k 1 else 1
/-- The destination strides of dimensions 1 to 5. -/
def HodDesc.dsAll (d : HodDesc) : List Int :=
  let c (k : Nat) : Int := (d.counts.getD k 1 : Nat)
  let ds3 := c 2 * d.ds2
  let ds4 := c 3 * ds3
  [d.ds1, d.ds2, ds3, ds4, c 4 * ds4]

/-- The DETAIL of the first field that breaks R427 or R429, for form `fn`. -/
def HodDesc.bad (d : HodDesc) (fn : Nat) : Option Nat :=
  let nk (k : Nat) : List (Nat × Bool) :=
    [(0x18 + 2 * (k - 1), if k < d.dims then d.n.getD k 0 != 0 else d.n.getD k 0 == 0)]
  let sk (k : Nat) : List (Nat × Bool) := [(0x24 + 4 * (k - 1), k < d.dims || d.ss.getD (k - 1) 0 == 0)]
  let checks : List (Nat × Bool) :=
    [(0x00, fn == 3 || decide (d.src < 2 ^ 48)),
     (0x08, if fn = 6 then d.dst == 0 else decide (d.dst < 2 ^ 48)),
     (0x10, decide (d.esize ≤ (if fn = 3 then 3 else 4)) && (fn != 5 || d.esize == 2)),
     (0x11, d.spaceHi == 0 && (fn != 4 || d.dstSeg)),
     (0x12, if fn = 5 then decide (d.xop ≤ 10) else d.xop == 0),
     (0x13, decide (1 ≤ d.dims ∧ d.dims ≤ 6)),
     (0x14, decide (1 ≤ d.n.getD 0 0 ∧ d.n.getD 0 0 ≤ 2 ^ 24))]
    ++ [1, 2, 3, 4, 5].flatMap nk
    ++ [(0x22, d.pad == 0)] ++ [1, 2, 3, 4, 5].flatMap sk
    ++ [(0x38, decide (2 ≤ d.dims) || d.ds1 == 0), (0x3C, decide (3 ≤ d.dims) || d.ds2 == 0)]
  (checks.find? fun c => !c.2).map (·.1)

/-! ### The walk (15 R428) -/

/-- Every index vector, dimension 0 first in each and fastest in the order. -/
def indexVecs : List Nat → List (List Nat)
  | [] => [[]]
  | n :: r => (indexVecs r).flatMap fun t => (List.range n).map fun i => i :: t

/-- The sum of index times stride over the dimensions from 1 on, with dimension 1's index given. -/
def strideSum (v : List Nat) (st : List Int) (i1 : Int) : Int :=
  let rest := (List.range 4).map fun k => (v.getD (k + 2) 0 : Int) * st.getD (k + 1) 0
  i1 * st.getD 0 0 + rest.foldl (· + ·) 0

/-- The offsets of an element on both sides; `idx` is the index list. -/
def HodDesc.offsets (d : HodDesc) (fn : Nat) (idx : Nat → Int) (v : List Nat) : Int × Int :=
  let i0 : Int := (v.getD 0 0 * d.esz : Nat)
  let i1 := v.getD 1 0
  (i0 + strideSum v d.ss (if fn = 1 then idx i1 else i1), i0 + strideSum v d.dsAll (if fn = 2 then idx i1 else i1))

/-- The least and the last-but-one byte offset of a side over the walk without indices. -/
def HodDesc.extent (d : HodDesc) (st : List Int) : Int × Int :=
  let t (k : Nat) : Int := ((d.counts.getD (k + 1) 1 : Int) - 1) * st.getD k 0
  let terms := (List.range 5).map t
  ((terms.map fun x => min 0 x).foldl (· + ·) 0,
    (terms.map fun x => max 0 x).foldl (· + ·) 0 + (d.counts.getD 0 1 * d.esz : Nat))

/-- The displacement of each side: AUX for the forms that take it so. -/
def hodAdj (fn aux : Nat) : Int × Int :=
  let a := signedOf 32 aux
  if fn = 1 ∨ fn = 2 then (0, 0) else if fn = 3 then (0, a) else (a, 0)

/-- The number of elements. -/
def HodDesc.elems (d : HodDesc) : Nat := d.counts.foldl (· * ·) 1

/-- The bytes a request moves (15 R432): for PREFETCH those of the 128-byte lines it touches. -/
def HodDesc.moved (d : HodDesc) (fn aux : Nat) : Nat :=
  if fn = 6 then
    let base : Int := d.src + (hodAdj fn aux).1
    128 * (dedupNat ((indexVecs d.counts).flatMap fun v =>
      linesOf (wrapInt 48 (base + (d.offsets fn (fun _ => 0) v).1)) d.esz)).length
  else d.elems * d.esz

/-! ### Issue (15 R430, R432) -/

/-- The block's segment holds a range given by signed ends. -/
def Block.segRange (b : Block) (lo hi : Int) : Bool :=
  decide (0 ≤ lo ∧ hi ≤ b.shared) && b.segOk lo.toNat (hi - lo).toNat

/-- The fault found at issue, in the order of 15 R430. -/
def State.hodFault (s : State) (g : Group) (fn off aux : Nat) (bobj : Option Nat) : Option FaultInfo :=
  let b := s.block g.id.block
  if off % 64 ≠ 0 then some (.atSeg 0x06 off)
  else match bobj.filter fun o => o % 16 ≠ 0 with
    | some o => some (.atSeg 0x06 o)
    | .none =>
      if !b.segOk off 64 then some (.atSeg 0x07 off)
      else match bobj.filter fun o => !b.segOk o 16 with
        | some o => some (.atSeg 0x07 o)
        | .none =>
          let d := HodDesc.parse (s.segRead g.id.block g.loc.cell off 64)
          match d.bad fn with
          | some x => some (.here 0x02 x)
          | .none =>
            let (sa, da) := hodAdj fn aux
            let (sl, sh) := d.extent d.ss
            let (dl, dh) := d.extent d.dsAll
            let sb : Int := d.src + sa
            let db : Int := d.dst + da
            if (fn = 1 ∨ fn = 2) ∧ !b.segOk aux (4 * d.counts.getD 1 1) = true then some (.atSeg 0x07 aux)
            else if fn ≠ 3 ∧ d.srcSeg ∧ !b.segRange (sb + sl) (sb + sh) = true then
              some (.atSeg 0x07 (wrapInt 32 (sb + sl)))
            else if fn ≠ 6 ∧ d.dstSeg ∧ !b.segRange (db + dl) (db + dh) = true then
              some (.atSeg 0x07 (wrapInt 32 (db + dl)))
            else if fn = 4 ∧ b.cells.length ≤ d.rank then some (.here 0x18 0)
            else .none

/-- The clocks of the requests ahead. -/
def hodQueueTime (l : List HodReq) : Nat := (l.map fun r => (r.bytes + 63) / 64).foldl (· + ·) 0

/-- A hod request. -/
def hodRun (fn : Nat) (d b : BitVec 8) (s : State) : Host.Outcome State Fault Refusal :=
  runIsa ⟨.hod, 1, [.pair d.toNat]⟩ (fun s gi g =>
    let off := (g.sreg d.toNat).toNat
    let aux := (g.sreg (d.toNat + 1)).toNat
    let bobj := if b = 0xFF#8 then .none else some (g.sreg b.toNat).toNat
    match s.hodFault g fn off aux bobj with
    | some f => allLanes s g f
    | .none =>
      let blk := g.id.block
      let desc := s.segRead blk g.loc.cell off 64
      let h := HodDesc.parse desc
      let queue := match s.cells[g.loc.cell]? with
        | some c => (c.quads[g.loc.quad]?).elim [] (·.hod)
        | .none => []
      let bcell := if fn = 4 then (s.block blk).cells.getD h.rank g.loc.cell else g.loc.cell
      let full := match bobj with | some o => s.flightFull blk bcell o | .none => false
      if g.countFull 0 || decide (32 ≤ queue.length) || full then .hold s
      else
        let early := fn == 4 || (fn == 5 && !h.dstSeg)
        let s1 := if early then s.commitEarly blk else s
        let bytes := h.moved fn aux
        let t := if fn = 4 ∧ h.srcSeg then 192
          else if (h.srcSeg ∨ fn = 3) ∧ (h.dstSeg ∧ fn ≠ 6) ∧ fn ≠ 4 then 64 else 512
        let promise := max g.sr.promise (s1.cyc g.loc.cell + t + hodQueueTime queue + (bytes + 63) / 64)
        let s2 := match bobj with | some o => s1.flightUp blk bcell o | .none => s1
        let s3 := s2.modGroup gi fun g => (g.issueOp 0 promise bobj).withSr fun r => { r with promise := promise }
        .done (s3.modQuad g.loc.cell g.loc.quad fun q =>
          { q with hod := q.hod ++ [⟨gi, g.asy.nextOp, fn, desc, aux, bobj, bytes⟩] })) s

def execHodCopy (d b : BitVec 8) (s : State) : Host.Outcome State Fault Refusal := hodRun 0 d b s
def execHodGather (d b : BitVec 8) (s : State) : Host.Outcome State Fault Refusal := hodRun 1 d b s
def execHodScatter (d b : BitVec 8) (s : State) : Host.Outcome State Fault Refusal := hodRun 2 d b s
def execHodFill (d b : BitVec 8) (s : State) : Host.Outcome State Fault Refusal := hodRun 3 d b s
def execHodSend (d b : BitVec 8) (s : State) : Host.Outcome State Fault Refusal := hodRun 4 d b s
def execHodReduce (d b : BitVec 8) (s : State) : Host.Outcome State Fault Refusal := hodRun 5 d b s
def execHodPrefetch (d b : BitVec 8) (s : State) : Host.Outcome State Fault Refusal := hodRun 6 d b s

/-! ### The operation (15 R428, R429, R431) -/

/-- What an operation has come to: the state, the fault that ended it, the FP32 flags it raised, the
elements outside a bound, and whether a line found no way. -/
structure HodSt where
  st : State
  fault : Option FaultInfo
  flags : FFlags
  hits : List BoundHit
  wait : Bool

/-- REDUCE's operation on a destination and a source element. -/
def hodReduceOp (xop m v : Nat) : Nat × FFlags :=
  match xop with
  | 0 => ((m + v) % 2 ^ 32, fNone)
  | 1 => fAdd fp32 false m v
  | 2 => (if signedOf 32 m ≤ signedOf 32 v then m else v, fNone)
  | 3 => (if signedOf 32 m ≤ signedOf 32 v then v else m, fNone)
  | 4 => (min m v, fNone)
  | 5 => (max m v, fNone)
  | 6 => fMinMax fp32 false m v
  | 7 => fMinMax fp32 true m v
  | 8 => (m &&& v, fNone)
  | 9 => (m ||| v, fNone)
  | _ => (m ^^^ v, fNone)

/-- An element read on one side: its bytes with their poison, or the fault. -/
def State.hodRead (s : State) (g : Group) (seg : Bool) (a : Int) (n : Nat) :
    Except FaultInfo (List Byte × Option (Nat × Poison)) :=
  let b := s.block g.id.block
  if seg then
    if !b.segRange a (a + n) then .error (.atSeg 0x07 (wrapInt 32 a))
    else .ok (s.segRead g.id.block g.loc.cell a.toNat n, s.segPoison g.id.block g.loc.cell a.toNat n)
  else
    match s.laneXlate g false n (wrapInt 64 a) with
    | .error f => .error f
    | .ok (pa, mem) => .ok (if mem = 1 then (s.acquireRead (s.partOf g) g.loc.cell pa n, s.homePoison (s.partOf g) g.loc.cell pa n)
      else (s.cachedRead (s.partOf g) g.loc.cell pa n, s.cachedPoison (s.partOf g) g.loc.cell pa n))

/-- What a read on the global side leaves behind before it is performed (08 R241, 09 R253). -/
def State.hodReach (s : State) (g : Group) (seg write : Bool) (a : Int) (n : Nat) : State :=
  if seg then s
  else match s.laneXlate g write n (wrapInt 64 a) with
    | .error _ => s
    | .ok (pa, _) => (s.reach g n [(wrapInt 64 a, pa)]).homeSeen n
        (if (s.window (s.partOf g) g.loc.cell).holds pa n then [] else [pa])

/-- The runs of bytes written at `a` that no element out of a trapping bound holds (05 R147). -/
def keptRuns (a : Nat) (b : List Byte) (traps : List BoundHit) : List (Nat × List Byte) :=
  let out (x : Nat) : Bool := traps.any fun h => decide (h.addr ≤ x ∧ x < h.addr + boundSize h.entry.typ)
  b.zipIdx.foldl (fun (acc : List (Nat × List Byte)) y =>
    if out (a + y.2) then acc
    else match acc.getLast? with
      | some r => if r.1 + r.2.length = a + y.2 then acc.dropLast ++ [(r.1, r.2 ++ [y.1])] else acc ++ [(a + y.2, [y.1])]
      | .none => [(a + y.2, [y.1])]) []

/-- Bytes written into the segment copy of a cell, tagged as the group's, with the poison they carry. -/
def State.hodSegWrite (s : State) (i op cell off : Nat) (b : List Byte) (p : Option Poison) : State :=
  let g := s.group i
  let bl := s.block g.id.block
  let s1 := s.segWrite g.id.block cell off b
  let s2 := s1.modBlock g.id.block fun x => x.tagWrite i (some op) cell off b.length
  match p with
  | .none => s2
  | some q => s2.modWindow bl.part cell fun w => { w with poison := w.poison.mark (bl.seg cell + off) q }

/-- One element written on the destination side, without the bytes of elements out of a trapping bound. -/
def HodSt.write (h : HodSt) (i op cell : Nat) (es : List BoundEntry) (seg : Bool) (a : Int) (b : List Byte)
    (p : Option Poison) : HodSt :=
  let s := h.st
  let g := s.group i
  let bl := s.block g.id.block
  let n := b.length
  if seg then
    if !bl.segRange a (a + n) then { h with fault := some (.atSeg 0x07 (wrapInt 32 a)) }
    else
      let base := bl.seg cell
      let hs := boundHits es true (base + a.toNat) b fun x => (s.window bl.part cell).mem.get x
      let s1 := (keptRuns (base + a.toNat) b (hs.filter fun x => x.entry.action == 3)).foldl (fun s r =>
        s.hodSegWrite i op cell (r.1 - base) r.2 p) s
      let s2 := (hs.filter fun x => x.entry.action == 2).foldl (fun s x =>
        s.winWrite bl.part cell x.clamp.1 x.clamp.2) s1
      { h with st := s2, hits := h.hits ++ hs }
  else
    let va := wrapInt 64 a
    match s.laneXlate g true n va with
    | .error f => { h with fault := some f }
    | .ok (pa, mem) =>
      let part := s.partOf g
      let w := s.window part g.loc.cell
      let hs := boundHits es false va b fun y => s.cachedByte w (pa + y - va)
      let runs := (keptRuns va b (hs.filter fun x => x.entry.action == 3)).map fun r => (pa + r.1 - va, r.2)
      let parts := runs ++ (hs.filter fun x => x.entry.action == 2).map fun x => (pa + x.clamp.1 - va, x.clamp.2)
      match parts.foldl (fun (s : Option State) y => s.bind fun s => s.putGlobal g mem y.1 y.2)
          (some (s.reach g n [(va, pa)])) with
      | .none => { h with wait := true }
      | some s1 =>
        if s1.overUcap part g.loc.cell g.id.block then { h with fault := some (.here 0x15 0) }
        else
          let s2 := match p with
            | .none => s1
            | some q => if runs.isEmpty then s1 else s1.putPoison g mem pa q
          { h with st := s2, hits := h.hits ++ hs }

/-- One element of an operation. -/
def HodSt.elem (h : HodSt) (i op fn aux : Nat) (d : HodDesc) (es : List BoundEntry) (idx : Nat → Int)
    (v : List Nat) : HodSt :=
  if h.fault.isSome || h.wait then h
  else
    let g := h.st.group i
    let (so, dof) := d.offsets fn idx v
    let (sa, da) := hodAdj fn aux
    let n := d.esz
    let dcell := if fn = 4 then (h.st.block g.id.block).cells.getD d.rank g.loc.cell else g.loc.cell
    if fn = 6 then h
    else if fn = 3 then h.write i op dcell es d.dstSeg (d.dst + da + dof) (leBytes n d.src) .none
    else
      let h := { h with st := h.st.hodReach g d.srcSeg false (d.src + sa + so) n }
      match h.st.hodRead g d.srcSeg (d.src + sa + so) n with
      | .error f => { h with fault := some f }
      | .ok (b, p) =>
        if fn ≠ 5 then h.write i op dcell es d.dstSeg (d.dst + da + dof) b (p.map (·.2))
        else if d.dstSeg then
          match h.st.hodRead g true (d.dst + da + dof) n with
          | .error f => { h with fault := some f }
          | .ok (m, q) =>
            let (x, fl) := hodReduceOp d.xop (leValue m) (leValue b)
            let h1 : HodSt := { h with flags := h.flags ||| fl }
            let both : Option Poison := match p with
              | some y => some y.2
              | .none => q.map (·.2)
            h1.write i op dcell es true (d.dst + da + dof) (leBytes 4 x) both
        else
          -- a global destination: at the home copy, after the issuing cell cache has sent its line home
          let va := wrapInt 64 (d.dst + da + dof)
          match h.st.laneXlate g true 4 va with
          | .error f => { h with fault := some f }
          | .ok (pa, _) =>
            let part := h.st.partOf g
            let s1 := (h.st.reach g 4 [(va, pa)]).sendLine part g.loc.cell pa
            let (x, fl) := hodReduceOp d.xop (leValue (s1.homeRead pa 4)) (leValue b)
            let hs := boundHits es false va (leBytes 4 x) fun y => s1.mem.get (pa + y - va)
            let runs := keptRuns va (leBytes 4 x) (hs.filter fun y => y.entry.action == 3)
            let s2 := runs.foldl (fun s r => s.homeWrite (pa + r.1 - va) r.2) s1
            let s3 := (hs.filter fun y => y.entry.action == 2).foldl (fun s y =>
              s.homeWrite (pa + y.clamp.1 - va) y.clamp.2) s2
            let s4 := match p with
              | some q => if runs.isEmpty then s3 else { s3 with memPoison := s3.memPoison.mark pa q.2 }
              | .none => s3
            { h with st := s4, flags := h.flags ||| fl, hits := h.hits ++ hs }

/-- The index list: signed words of the segment. -/
def State.hodIndex (s : State) (g : Group) (aux i : Nat) : Int :=
  signedOf 32 (leValue (s.segRead g.id.block g.loc.cell (aux + 4 * i) 4))

/-- PREFETCH: every line that a source element touches is loaded into the hub cache; one whose translation fails is passed
over (15 R429). -/
def State.hodPrefetch (s : State) (g : Group) (aux : Nat) (d : HodDesc) : State :=
  let base : Int := d.src + (hodAdj 6 aux).1
  let lines := dedupNat ((indexVecs d.counts).flatMap fun v => linesOf (wrapInt 48 (base + (d.offsets 6 (fun _ => 0) v).1)) d.esz)
  lines.foldl (fun s l => match s.xlateG g false (128 * l) with
    | .error _ => s
    | .ok t => (s.useG g (128 * l)).hubUse false (t.phys (128 * l)) 128) s

/-- HOD_OP_COMPLETE: an operation among the four in progress is carried out whole and completes. Its
elements are taken in the walk's order, those out of a trapping bound after all others, so that every
element in range is written (05 R147) and none after the trap is found (15 R431). -/
def execHodOpComplete (cell quad k : Nat) (s : State) : Host.Outcome State Fault Refusal :=
  .next (
    let q := (s.cells[cell]?).bind fun c => c.quads[quad]?
    match q.bind fun q => q.hod[k]? with
    | .none => s
    | some r =>
      if 4 ≤ k then s
      else
        let g := s.group r.group
        let d := HodDesc.parse r.desc
        let es := s.boundsOf g.id.ctx
        let h0 : HodSt := ⟨s, .none, fNone, [], false⟩
        let idx := s.hodIndex g r.aux
        let h := if r.fn = 6 then { h0 with st := s.hodPrefetch g r.aux d }
          else (indexVecs d.counts).foldl (fun (h : HodSt) v => h.elem r.group r.op r.fn r.aux d es idx v) h0
        if h.wait then s
        else
          let trap := h.hits.find? fun x => x.entry.action == 3
          let fault := match h.fault with
            | some f => some f
            | .none => trap.map BoundHit.fault
          let s1 := (h.st.boundRecords g h.hits).modQuad cell quad fun q => { q with hod := q.hod.eraseIdx k }
          let s2 := s1.modGroup r.group fun g => g.withSr fun x => { x with fpstat := x.fpstat ||| h.flags.setWidth 32 }
          let blk := g.id.block
          let bcell := if r.fn = 4 then (s.block blk).cells.getD d.rank cell else cell
          match r.bobj with
          | .none => s2.completeOp r.group r.op fault
          | some o =>
            if fault.isSome then ((s2.flightDown blk bcell o).bobjStarve blk bcell o).completeOp r.group r.op fault
            else
              let (s3, more) := s2.opArrive blk bcell o r.bytes fun t => t.writer == r.group && t.op == some r.op
              s3.completeOp r.group r.op (if more then some (.atSeg 0x0C o) else .none))

end Sys2Proof.Machine
end

