-- ==== Sys2Proof/Machine/Ring.lean ====
section
/-! DEFINITION. Stage rings: major 0x39 (15 R435 to R437; 06 R166, R175, R179). -/
namespace Sys2Proof.Machine
open Sys2Proof

/-- The hardware ring of a group's ring index, and its number in the group's quadrant. -/
def State.ringAt (s : State) (g : Group) (r : Nat) : Nat × Ring :=
  let n := (s.block g.id.block).ringHw.getD r 0
  let ring := (s.cells[g.loc.cell]?).bind fun c => (c.quads[g.loc.quad]?).bind fun q => q.rings[n]?
  (n, ring.getD Ring.empty)
def State.setRing (s : State) (g : Group) (n : Nat) (x : Ring) : State :=
  s.modQuad g.loc.cell g.loc.quad fun q => { q with rings := q.rings.set n x }
/-- The ring's declaration. -/
def State.ringDecl (s : State) (g : Group) (r : Nat) : RingDecl :=
  (s.block g.id.block).rings.getD r ⟨false, 0, 0, 1⟩
/-- The 32 bits of a ring word (15 R436). -/
def Ring.word (x : Ring) : Nat :=
  x.head % 8 * 2 ^ 29 + x.tail % 8 * 2 ^ 26 + x.phase.toNat * 2 ^ 16
  + ((List.range 8).map fun i => x.state.getD i 0 % 4 * 4 ^ i).foldl (· + ·) 0
/-- The ring of a ring word. -/
def Ring.ofWord (w : Nat) : Ring :=
  ⟨true, bits w 31 29, bits w 28 26, BitVec.ofNat 8 (bits w 23 16), (List.range 8).map fun i => bits w (2 * i + 1) (2 * i)⟩

/-- A group's count of slots held of a ring. -/
def Group.held (g : Group) (r : Nat) : Nat := g.asy.ringHeld.getD r 0
def Group.holdRing (g : Group) (r : Nat) (f : Nat → Nat) : Group :=
  g.withAsy fun a => { a with ringHeld := modifyAt a.ringHeld r f }

/-- RING_PROTOCOL as it is raised before any effect (15 R437): `slot` is the slot of a COMMIT or FREE. -/
def State.ringBad (s : State) (g : Group) (producer : Bool) (slot : Option Nat) (r : Nat) : Bool :=
  let d := s.ringDecl g r
  !d.en || g.id.seg != (if producer then d.prod else d.cons)
  || (match slot with
      | some a => decide (d.depth ≤ a) || g.held r == 0
      | .none => (List.range 16).any fun j => decide (r < j) && g.held j != 0)
def ringFault (r : Nat) : FaultInfo := .here 0x16 r

/-- ACQ and WAIT: `want` is the state the next slot must have and `next` the one it takes. -/
def ringTake (producer : Bool) (want next : Nat) (d : BitVec 8) (r : BitVec 4) (s : State) :
    Host.Outcome State Fault Refusal :=
  runIsa ⟨.ring, 1, []⟩ (fun s gi g =>
    let r := r.toNat
    if s.ringBad g producer .none r then .trap (ringFault r)
    else
      let (n, x) := s.ringAt g r
      let depth := (s.ringDecl g r).depth
      let i := if producer then x.head else x.tail
      if x.state.getD i 0 ≠ want then .block s (.ring r)
      else
        let y : Ring := { x with state := x.state.set i next }
        let z : Ring := if producer then { y with head := (x.head + 1) % depth } else { y with tail := (x.tail + 1) % depth }
        let s1 := (s.setRing g n z).modGroup gi fun g => (g.setS d.toNat (BitVec.ofNat 32 i)).holdRing r (· + 1)
        .done (s1.acquire gi 2)) s

/-- COMMIT and FREE. -/
def ringGive (producer : Bool) (want next : Nat) (a : BitVec 8) (r : BitVec 4) (s : State) :
    Host.Outcome State Fault Refusal :=
  runIsa ⟨.ring, 1, []⟩ (fun s gi g =>
    let r := r.toNat
    let slot := (g.sreg a.toNat).toNat
    if s.ringBad g producer (some slot) r then .trap (ringFault r)
    else
      let (n, x) := s.ringAt g r
      if x.state.getD slot 0 ≠ want then .trap (ringFault r)
      else
        let s1 := (s.commitFor g.id.block 2).publishGroup gi
        let y : Ring := { x with
          state := x.state.set slot next
          phase := if producer then x.phase ^^^ (1#8 <<< slot) else x.phase }
        .done ((s1.setRing g n y).modGroup gi fun g => g.holdRing r (· - 1))) s

def execRingAcq (d : BitVec 8) (r : BitVec 4) (s : State) : Host.Outcome State Fault Refusal := ringTake true 0 1 d r s
def execRingWait (d : BitVec 8) (r : BitVec 4) (s : State) : Host.Outcome State Fault Refusal := ringTake false 2 3 d r s
def execRingCommit (a : BitVec 8) (r : BitVec 4) (s : State) : Host.Outcome State Fault Refusal := ringGive true 1 2 a r s
def execRingFree (a : BitVec 8) (r : BitVec 4) (s : State) : Host.Outcome State Fault Refusal := ringGive false 3 0 a r s

end Sys2Proof.Machine
end

