-- ==== Sys2Proof/Machine/Message.lean ====
section
/-! DEFINITION. Messages: major 0x09 (15 R438 to R440; 09 R247, R260, R265) and their delivery. -/
namespace Sys2Proof.Machine
open Sys2Proof

/-- The fault of a payload offset. -/
def State.payloadFault (s : State) (g : Group) (off : Nat) : Option FaultInfo :=
  if off % 64 ≠ 0 then some (.atSeg 0x06 off)
  else if !(s.block g.id.block).segOk off 64 then some (.atSeg 0x07 off)
  else .none

/-- The scope of a message between two cells. -/
def msgScope (a b : Nat) : Nat := if a / Config.cellsPerPane = b / Config.cellsPerPane then 3 else 4

def execMsgSend (r b : BitVec 8) (s : State) : Host.Outcome State Fault Refusal :=
  runIsa ⟨.msg, 1, [.pair r.toNat]⟩ (fun s gi g =>
    let route := (g.sreg r.toNat).toNat
    let tag := g.sreg (r.toNat + 1)
    let off := (g.sreg b.toNat).toNat
    let dest := bits route 4 0
    match s.payloadFault g off with
    | some f => allLanes s g f
    | .none =>
      if bits route 7 5 ≠ 0 ∨ bits route 31 12 ≠ 0 ∨ s.heldQuads (s.partOf g) dest = [] then .trap (.here 0x18 0)
      else if g.countFull 3 then .hold s
      else released s gi true (msgScope g.loc.cell dest) fun s =>
        let s1 := s.commitEarly g.id.block
        let bl := s1.block g.id.block
        let base := bl.seg g.loc.cell + off
        let w := s1.window bl.part g.loc.cell
        -- the two sectors' poison travels with the payload (05 R130)
        let p := w.poison.filter fun x => decide (base ≤ x.1 ∧ x.1 < base + 64)
        let m : Msg := { ctx := g.id.ctx, chan := bits route 11 8, tag := tag
                         sender := BitVec.ofNat 32 (g.loc.gid * 65536 + g.loc.cell)
                         payload := w.mem.bytes base 64
                         poison := p.map fun x => (x.1 - base, x.2) }
        let s2 := s1.modGroup gi fun g => g.issueOp 3 0 .none
        .done { s2 with msgs := s2.msgs ++ [⟨gi, g.asy.nextOp, dest, m, false⟩] }) s

/-- The oldest message that waits for a group on a channel, by its place. -/
def Window.msgFor (w : Window) (ctx chan : Nat) : Option (Nat × Msg) :=
  match findIdx' (fun m : Msg => m.ctx == ctx && m.chan == chan) w.msgs with
  | .none => .none
  | some i => (w.msgs[i]?).map fun m => (i, m)

/-- Take a message: the copy is a plain write, and the slot is freed in the same step. -/
def takeMsg (s : State) (gi : Nat) (r off k : Nat) (m : Msg) : Res :=
  let g := s.group gi
  let a := StoreAcc.seg ⟨s, [], [], []⟩ gi .none (s.boundsOf g.id.ctx) 0 off m.payload
  match a.faults with
  | f :: _ => allLanes s g f.2
  | [] =>
    let s1 := a.finishSeg gi
    let bl := s1.block g.id.block
    let base := bl.seg g.loc.cell + off
    let s2 := s1.modWindow bl.part g.loc.cell fun w =>
      { w with msgs := w.msgs.eraseIdx k
               poison := m.poison.foldl (fun (acc : Poisons) p => acc.mark (base + p.1) p.2) w.poison }
    let s3 := s2.modGroup gi fun g => (g.setS r m.tag).setS (r + 1) m.sender
    .done (s3.acquire gi (msgScope g.loc.cell (m.sender.toNat % 32)))

/-- RECV and POLL. -/
def msgTake (wait : Bool) (r b : BitVec 8) (c : BitVec 4) (s : State) : Host.Outcome State Fault Refusal :=
  runIsa ⟨.msg, 1, [.pair r.toNat]⟩ (fun s gi g =>
    let off := (g.sreg b.toNat).toNat
    match s.payloadFault g off with
    | some f => allLanes s g f
    | .none => match (s.window (s.partOf g) g.loc.cell).msgFor g.id.ctx c.toNat with
      | some (k, m) => takeMsg s gi r.toNat off k m
      | .none =>
        if wait then .block s (.msg c.toNat)
        -- the tag of no message is a value that the spec leaves open (assumption 44)
        else .done ((s.modGroup gi fun g =>
          (g.setS r.toNat (Config.freeWord s.fresh)).setS (r.toNat + 1) 0xFFFFFFFF#32).withFresh)) s
def execMsgRecv (r b : BitVec 8) (c : BitVec 4) (s : State) : Host.Outcome State Fault Refusal := msgTake true r b c s
def execMsgPoll (r b : BitVec 8) (c : BitVec 4) (s : State) : Host.Outcome State Fault Refusal := msgTake false r b c s

def execMsgFree (r : BitVec 8) (c : BitVec 4) (s : State) : Host.Outcome State Fault Refusal :=
  runIsa ⟨.msg, 1, [.pair r.toNat]⟩ (fun s gi g =>
    let part := s.partOf g
    match (s.window part g.loc.cell).msgFor g.id.ctx c.toNat with
    | some (k, _) =>
      .done ((s.modWindow part g.loc.cell fun w => { w with msgs := w.msgs.eraseIdx k }).modGroup gi fun g =>
        (g.setS r.toNat 1#32).setS (r.toNat + 1) 0#32)
    | .none => .done (s.modGroup gi fun g => (g.setS r.toNat 0#32).setS (r.toNat + 1) 0#32)) s

/-- MSG_DELIVER: message `k` on its way, which its endpoint has granted, goes into a free slot of its destination, after every earlier one
of its group to that cell (09 R265), and its operation is complete. With no slot free it waits. -/
def execMsgDeliver (k : Nat) (s : State) : Host.Outcome State Fault Refusal :=
  .next (match s.msgs[k]? with
    | .none => s
    | some x =>
      let part := (s.ctx x.msg.ctx).part
      let room := 64 * (s.heldQuads part x.dest).length
      if !x.granted || (s.msgs.take k).any (fun y => y.group == x.group && y.dest == x.dest) then s
      else if room ≤ (s.window part x.dest).msgs.length then s
      else
        let s1 : State := { s with msgs := s.msgs.eraseIdx k }
        (s1.modWindow part x.dest fun w => { w with msgs := w.msgs ++ [x.msg] }).completeOp x.group x.op .none)

end Sys2Proof.Machine
end

