-- ==== Sys2Proof/Machine/System.lean ====
section
/-! DEFINITION. SYS, major 0x00, but for PFAIL.DONE, and the special registers (13 R330 to R337; 11 R293,
R296; 09 R263; 07 R204 to R207), with the end of a sleep. -/
namespace Sys2Proof.Machine
open Sys2Proof

def execNop (s : State) : Host.Outcome State Fault Refusal := runIsa ⟨.sys, 1, []⟩ (own fun g => g) s

/-! ### The end of threads -/

/-- The faults of kind D that a group has not raised when its last thread ends (15 R431). -/
def State.lateFaults (s : State) (i : Nat) : State :=
  let g := s.group i
  if g.ctl.live ≠ 0#32 then s
  else
    let fs := (g.asy.deferred ++ g.asy.ops).filterMap (·.fault)
    let s1 := s.modGroup i fun g => g.withAsy fun a =>
      { a with deferred := [], ops := a.ops.map fun o => { o with fault := .none } }
    fs.foldl (fun s f => if (s.block g.id.block).terminated then s else s.lateFault i f) s1

def execExit (s : State) : Host.Outcome State Fault Refusal :=
  runIsa ⟨.tail, 1, []⟩ (fun s i g => .moved ((s.endThreads i g.ctl.act false).lateFaults i)) s
def execTail (s : State) : Host.Outcome State Fault Refusal :=
  runIsa ⟨.tail, 1, []⟩ (fun s i g => .moved ((s.endThreads i g.ctl.act true).lateFaults i)) s

/-! ### Software traps (13 R332) -/

def execTrap (n : BitVec 8) (s : State) : Host.Outcome State Fault Refusal :=
  runIsa ⟨.sys, 1, []⟩ (fun s _ g => .after s (.here 0x1E n.toNat) g.ctl.act) s
def execBrk (n : BitVec 8) (s : State) : Host.Outcome State Fault Refusal :=
  runIsa ⟨.sys, 1, []⟩ (fun s _ g => .after s (.here 0x1D n.toNat) g.ctl.act) s

/-! ### RESUME (11 R296) -/

/-- The word indices of a clause's body at which an instruction starts, from word `i` on. -/
def bodyStarts (words : List Word) (count : Nat) : Nat → Nat → List Nat
  | 0, _ => []
  | fuel + 1, i => if count < i then [] else i :: bodyStarts words count fuel (i + instrWords (words.getD i 0#32).toNat)

/-- The fault of a RESUME to an address: past the body, or an extension word. A clause that cannot be read
raises its fault when it is fetched. -/
def State.resumeFault (s : State) (g : Group) (a : Nat) : Option FaultInfo :=
  let c := a / 64 * 64
  match s.xlate g.loc.cell g.loc.quad g.id.ctx ⟨false, true, g.id.sys⟩ c with
  | .error _ => .none
  | .ok t =>
    let words := (List.range 16).map fun i => bytesWord (s.homeRead (t.phys c + 4 * i) 4)
    let count := (words.getD 0 0#32).toNat % 16
    let i := a % 64 / 4
    if count < i then some (.at 0x03 c 0)
    else if i ≠ 0 ∧ !(bodyStarts words count 16 1).contains i then some (.here 0x01 0)
    else .none

def execResume (s : State) : Host.Outcome State Fault Refusal :=
  runIsa ⟨.resume, 1, []⟩ (fun s i g =>
    let d := g.ctl.stack.length
    match g.handled with
    | .none => .trap (.here 0x05 d)
    | some p =>
      if d ≠ g.trap.hdepth then .trap (.here 0x05 d)
      else match s.resumeFault g p.pc.toNat with
        | some f => .trap f
        | .none => .moved (s.modGroup i fun g => g.resumeLanes (s.now g))) s

/-! ### Special registers (13 R335 to R337) -/

/-- The special registers of 64 bits. -/
def srWide (n : Nat) : Bool := decide (n ≤ 5) || n == 7 || n == 0x12
/-- The special registers that SWRITE may name. -/
def srWritable (n : Nat) : Bool := [0x02, 0x05, 0x07, 0x08, 0x09, 0x0A, 0x0B, 0x10].contains n
/-- The bits of a register that are reserved. -/
def srReserved (n : Nat) : Nat :=
  match n with
  | 0x05 => 0xFFFF000000000003
  | 0x07 => 0xFFFF00000000003E
  | 0x08 => 0xFFFFFCE0
  | 0x09 => 0xFFFFFFE0
  | 0x0B => 0x7F000000
  | 0x10 => 0xFFFFFFFE
  | _ => 0

/-- The value that SREAD takes. -/
def State.srRead (s : State) (g : Group) (n : Nat) : DWord :=
  let w (x : Nat) : DWord := BitVec.ofNat 64 x
  match n with
  | 0x00 => w (s.cyc g.loc.cell)
  | 0x01 => w g.sr.gtimer
  | 0x02 => w g.sr.gtcmp
  | 0x03 => w g.sr.promise
  | 0x04 => match g.handled with
    | some p => p.info
    | .none => if g.id.pfail then 0x1F#64 else 0#64
  | 0x05 => match g.handled with | some p => p.pc | .none => 0#64
  | 0x06 => match g.handled with | some p => p.mask.setWidth 64 | .none => 0#64
  | 0x07 => g.sr.tvec
  | 0x08 => g.sr.fpctl.setWidth 64
  | 0x09 => g.sr.fpstat.setWidth 64
  | 0x0A => g.sr.seed.setWidth 64
  | 0x0B => g.sr.migrate.setWidth 64
  | 0x0C => w ((if g.loc.abacus then 128 else g.loc.sub * 256) + g.loc.quad * 32 + g.loc.cell)
  | 0x0D => w g.loc.gid
  | 0x0E => g.sr.blockid.setWidth 64
  | 0x0F => w (if g.loc.abacus then 64 * g.loc.slot else 0)
  | 0x10 => g.sr.derivflag.setWidth 64
  | 0x11 => w (g.asy.gates.length * 2 ^ 24 + g.sr.gatestat.toNat % 2 ^ 24)
  | 0x12 => w g.privBase
  | _ => w g.privSize

/-- The group after a write of a special register. -/
def Group.srWrite (g : Group) (n : Nat) (x : DWord) : Group :=
  let w : Word := x.setWidth 32
  match n with
  | 0x02 => g.withSr fun r => { r with gtcmp := x.toNat }
  | 0x05 => match g.handled with
    | .none => g
    | some p => g.withTrap fun t => { t with parked := t.parked.map fun q => if q == p then { q with pc := x } else q }
  | 0x07 => g.withSr fun r => { r with tvec := x }
  | 0x08 => g.withSr fun r => { r with fpctl := w }
  | 0x09 => g.withSr fun r => { r with fpstat := w }
  | 0x0A =>
    let gen := (List.range 32).map fun l => if g.ctl.act.has l then seedState w (g.id.tidx.getD l 0) else g.genOf l
    { g.withSr (fun r => { r with seed := w }) with id := { g.id with gen := gen } }
  | 0x0B => g.withSr fun r => { r with migrate := (w &&& 0x8000FFFF#32) ||| (r.migrate &&& 0x00FF0000#32) }
  | _ => g.withSr fun r => { r with derivflag := r.derivflag &&& ~~~w }

def execSread (d n : BitVec 8) (s : State) : Host.Outcome State Fault Refusal :=
  let n := n.toNat
  runIsa ⟨.sys, 1, [.cond (decide (n ≤ 0x13) && !(srWide n && decide (d.toNat % 2 = 1))) n]⟩ (fun s i g =>
    let x := s.srRead g n
    .done (s.modGroup i fun g => if srWide n then g.setPair d.toNat x else g.setS d.toNat (loWord x))) s

def execSwrite (a n : BitVec 8) (s : State) : Host.Outcome State Fault Refusal :=
  let n := n.toNat
  runIsa ⟨.sys, 1, [.cond (srWritable n && !(srWide n && decide (a.toNat % 2 = 1))) n]⟩ (fun s i g =>
    let x : DWord := if srWide n then g.spair a.toNat else (g.sreg a.toNat).setWidth 64
    if x.toNat &&& srReserved n ≠ 0 then .trap (.here 0x02 n)
    else if g.inGate && !([0x08, 0x09, 0x0A].contains n) then .trap (.here 0x0A 0)
    else .done (s.modGroup i fun g => g.srWrite n x)) s

/-! ### Sleeping (13 R333, 09 R263) -/

/-- The first fault of kind D among some operations of a group, and the group that has raised it (11 R291). -/
def Group.takeDeferred (g : Group) (sel : OpRec → Bool) : Option (FaultInfo × Group) :=
  match (g.asy.deferred ++ g.asy.ops).find? fun o => o.fault.isSome && sel o with
  | .none => .none
  | some o => o.fault.map fun f => (f, g.withAsy fun a =>
      { a with deferred := a.deferred.filter fun x => x.id != o.id
               ops := a.ops.map fun x => if x.id == o.id then { x with fault := .none } else x })

/-- A wait that raises the faults of the operations it waits on first: the state carries their removal, and
the instruction itself has no effect. -/
def deferredOr (s : State) (i : Nat) (p : Info) (sel : OpRec → Bool) (k : Res) : Res :=
  match (s.group i).takeDeferred sel with
  | .none => k
  | some (f, g1) =>
    .moved ((s.setGroup i g1).takeFault i f g1.ctl.act g1.ctl.pc g1.ctl.pc (g1.nextPc p.words).1)

/-- The operations that a SLEEP.UNTIL checks are complete. -/
def Group.promiseKept (g : Group) (t : Nat) : Bool :=
  !(g.asy.ops.any fun o => o.cls == 0 && decide (o.promise ≤ t) && !o.done)

/-- A missed promise: the context's count rises at the home copy, and an increment that cannot be made is
recorded (11 R308). -/
def State.missPromise (s : State) (c : Nat) : State :=
  let va := (s.ctx c).save + 0x40
  let fail := s.ctxRecord { ErrRec.plain 0x0E c with flags := 1, vaddr := va }
  if s.poisonVa c va 8 then fail
  else match s.readVa c va 8 with
    | .error _ => fail
    | .ok b => match s.writeVa c va (leBytes 8 (leValue b + 1)) with
      | .error _ => fail
      | .ok s1 => s1

/-- The PROMISE_MISSED of a sleep. -/
def promiseFault (t : Nat) : FaultInfo := .at 0x0E t 0

/-- The end of a sleep's time: the promises are checked. -/
def sleepCheck (s : State) (i : Nat) (p : Info) (t : Nat) : Res :=
  let g := s.group i
  deferredOr s i p (fun o => o.cls == 0 && decide (o.promise ≤ t)) (
    if g.promiseKept t then .done s
    else
      let s1 := s.missPromise g.id.ctx
      if g.sr.tvec.getLsbD 0 then .after s1 (promiseFault t) g.ctl.act
      else .block s1 (.sleep t true true))

def execSleepUntil (a : BitVec 8) (s : State) : Host.Outcome State Fault Refusal :=
  let p : Info := ⟨.sys, 1, [.pair a.toNat]⟩
  runIsa p (fun s i g =>
    let t := (g.spair a.toNat).toNat
    match g.ctl.missed with
    | some t => deferredOr s i p (fun o => o.cls == 0 && decide (o.promise ≤ t)) (.after s (promiseFault t) g.ctl.act)
    | .none =>
      if g.ctl.wakeHit then deferredOr s i p (fun o => o.cls == 0 && decide (o.promise ≤ t)) (.done s)
      else if g.ctl.begun.isSome then
        -- held within a gate call after a miss: until the operations complete
        if g.promiseKept t then .done s else .hold s
      else if t ≤ s.cyc g.loc.cell then
        match sleepCheck s i p t with
        | .block s1 w =>
          if g.inGate then .hold (s1.modGroup i fun g => g.withCtl fun c => { c with begun := some t }) else .block s1 w
        | r => r
      else .block s (.sleep t true false)) s

def execSleepCyc (a : BitVec 8) (s : State) : Host.Outcome State Fault Refusal :=
  runIsa ⟨.sys, 1, []⟩ (fun s i g =>
    let n := (g.sreg a.toNat).toNat
    let now := s.cyc g.loc.cell
    if g.ctl.wakeHit || n = 0 then .done s
    else match g.ctl.begun with
      | some t => if t ≤ now then .done s else .hold s
      | .none =>
        if g.inGate then .hold (s.modGroup i fun g => g.withCtl fun c => { c with begun := some (now + n) })
        else .block s (.sleep (now + n) false false)) s

/-- YIELD's wake condition is true at once; within a gate call the group is therefore not held at all. -/
def execYield (s : State) : Host.Outcome State Fault Refusal :=
  runIsa ⟨.sys, 1, []⟩ (fun s _ g => if g.ctl.wakeHit || g.inGate then .done s else .block s .yield) s

/-- SLEEP_EXPIRY: the cell's counter has reached the time of a sleeping group. -/
def execSleepExpiry (i : Nat) (s : State) : Host.Outcome State Fault Refusal :=
  let g := s.group i
  let wake (s : State) (m : Option Nat) : State := s.modGroup i fun g =>
    (g.withCtl fun c => { c with wakeHit := true, missed := m }).wakeUp (s.now g)
  .next (match g.ctl.status with
    | .blocked (.sleep t promises false) =>
      if s.cyc g.loc.cell < t then s
      else if !promises || g.promiseKept t then wake s .none
      else
        let s1 := s.missPromise g.id.ctx
        if g.sr.tvec.getLsbD 0 then wake s1 (some t)
        else s1.modGroup i fun g => g.withCtl fun c => { c with status := .blocked (.sleep t true true) }
    | _ => s)

end Sys2Proof.Machine
end

