-- ==== Sys2Proof/Machine/Control.lean ====
section
/-! DEFINITION. Structured control, CTL, major 0x01 (07 R195 to R197; 13 R338 to R340; 12 R314). -/
namespace Sys2Proof.Machine
open Sys2Proof

/-- The target of a transfer instruction: clauses counted from its own (12 R314). -/
def Group.target (g : Group) (o : BitVec 13) : DWord := (g.ctl.pc &&& ~~~63#64) + (o.signExtend 64 <<< 6)

/-- The end of a control instruction: the active lanes, the stack and the place it goes on at; with no lane
left it unwinds, and a clause with RUNEND ends the run (13 R339, R340). -/
def Group.transfer (g : Group) (act : Lanes) (stack : List MaskEntry) (pc : DWord) (now : Nat) : Group :=
  let (_, _, runEnd) := g.nextPc 1
  let g1 := g.withCtl fun c =>
    { c with act := act, stack := stack, pc := pc, clause := .none, runCount := c.runCount + 1, status := .running,
             wakeHit := false, drained := false, begun := .none, missed := .none, heldClocks := 0 }
  if act = 0#32 then g1.unwind now 34
  else if runEnd then g1.endRun now
  else g1

/-- STRUCTURE, with the depth of the stack. -/
def structureFault (g : Group) : FaultInfo := .here 0x05 g.ctl.stack.length

/-- A control instruction: the masks, stack and place it leads to, or STRUCTURE. -/
def ctlRun (f : Group → Option (Lanes × List MaskEntry × DWord)) (s : State) : Host.Outcome State Fault Refusal :=
  runIsa ⟨.ctl, 1, []⟩ (fun s i g =>
    match f g with
    | .none => .trap (structureFault g)
    | some (a, st, pc) => .moved (s.setGroup i (g.transfer a st pc (s.now g)))) s

/-- The lanes that a condition selects. -/
def selK (k : BitVec 3) (g : Group) : Lanes := g.ctl.act &&& g.kreg k.toNat
def selNk (k : BitVec 3) (g : Group) : Lanes := g.ctl.act &&& ~~~(g.kreg k.toNat)
def selS (a : BitVec 8) (g : Group) : Lanes := if g.sreg a.toNat ≠ 0#32 then g.ctl.act else 0#32
def selNs (a : BitVec 8) (g : Group) : Lanes := if g.sreg a.toNat = 0#32 then g.ctl.act else 0#32

/-- An IF, with an ELSE or without. -/
def ifRun (hasElse : Bool) (sel : Group → Lanes) (o : BitVec 13) (s : State) : Host.Outcome State Fault Refusal :=
  ctlRun (fun g =>
    if 32 ≤ g.ctl.stack.length then .none
    else
      let t := sel g
      let f := g.ctl.act &&& ~~~t
      let e : MaskEntry := if hasElse then .ifE true false (g.target o) 0#64 f 0#32 else .ifE false false 0#64 (g.target o) 0#32 f
      some (t, e :: g.ctl.stack, g.nextClause)) s

def execIfKElse (k : BitVec 3) (o : BitVec 13) (s : State) : Host.Outcome State Fault Refusal := ifRun true (selK k) o s
def execIfNkElse (k : BitVec 3) (o : BitVec 13) (s : State) : Host.Outcome State Fault Refusal := ifRun true (selNk k) o s
def execIfSElse (a : BitVec 8) (o : BitVec 13) (s : State) : Host.Outcome State Fault Refusal := ifRun true (selS a) o s
def execIfNsElse (a : BitVec 8) (o : BitVec 13) (s : State) : Host.Outcome State Fault Refusal := ifRun true (selNs a) o s
def execIfK (k : BitVec 3) (o : BitVec 13) (s : State) : Host.Outcome State Fault Refusal := ifRun false (selK k) o s
def execIfNk (k : BitVec 3) (o : BitVec 13) (s : State) : Host.Outcome State Fault Refusal := ifRun false (selNk k) o s
def execIfS (a : BitVec 8) (o : BitVec 13) (s : State) : Host.Outcome State Fault Refusal := ifRun false (selS a) o s
def execIfNs (a : BitVec 8) (o : BitVec 13) (s : State) : Host.Outcome State Fault Refusal := ifRun false (selNs a) o s

/-- ELSE. Lanes that a handler has sent back into the IF arm after the group has passed its ELSE join the
lanes that wait for ENDIF (11 R295). -/
def execElseArm (o : BitVec 13) (s : State) : Host.Outcome State Fault Refusal :=
  ctlRun (fun g => match g.ctl.stack with
    | .ifE true false ep _ pend _ :: rest =>
      let a := g.liveOf pend
      some (a, .ifE true true ep (g.target o) 0#32 g.ctl.act :: rest, g.nextClause)
    | .ifE true true ep np pend join :: rest =>
      if g.trap.pstate == .resumed && (g.trap.reconv.head?).map (·.depth) == some (rest.length + 1) then
        some (0#32, .ifE true true ep np pend (join ||| g.ctl.act) :: rest, g.nextClause)
      else .none
    | _ => .none) s

def execEndif (s : State) : Host.Outcome State Fault Refusal :=
  ctlRun (fun g => match g.ctl.stack with
    | .ifE he past _ _ _ join :: rest =>
      if he && !past then .none else some (g.liveOf (g.ctl.act ||| join), rest, g.nextClause)
    | _ => .none) s

def execLoop (o : BitVec 13) (s : State) : Host.Outcome State Fault Refusal :=
  ctlRun (fun g =>
    if 32 ≤ g.ctl.stack.length then .none
    else some (g.ctl.act, .loopE g.nextClause (g.target o) 0#32 0#32 :: g.ctl.stack, g.nextClause)) s

def execEndloop (s : State) : Host.Outcome State Fault Refusal :=
  ctlRun (fun g => match g.ctl.stack with
    | .loopE bp xp cont out :: rest => some (g.liveOf (g.ctl.act ||| cont), .loopE bp xp 0#32 out :: rest, bp)
    | _ => .none) s

/-- The stack with lanes added to the nearest LOOP entry, with only IF entries above it. -/
def loopAdd (brk : Bool) (t : Lanes) : List MaskEntry → Option (List MaskEntry)
  | .ifE a b c d e f :: rest => (loopAdd brk t rest).map fun r => .ifE a b c d e f :: r
  | .loopE bp xp cont out :: rest =>
    some (if brk then .loopE bp xp cont (out ||| t) :: rest else .loopE bp xp (cont ||| t) out :: rest)
  | _ => .none

/-- BREAK and CONTINUE. -/
def leaveRun (brk : Bool) (sel : Group → Lanes) (s : State) : Host.Outcome State Fault Refusal :=
  ctlRun (fun g => (loopAdd brk (sel g) g.ctl.stack).map fun st => (g.ctl.act &&& ~~~(sel g), st, g.nextClause)) s
def execBreakK (k : BitVec 3) (s : State) : Host.Outcome State Fault Refusal := leaveRun true (selK k) s
def execBreakS (a : BitVec 8) (s : State) : Host.Outcome State Fault Refusal := leaveRun true (selS a) s
def execContinueK (k : BitVec 3) (s : State) : Host.Outcome State Fault Refusal := leaveRun false (selK k) s
def execContinueS (a : BitVec 8) (s : State) : Host.Outcome State Fault Refusal := leaveRun false (selS a) s

def execCall (o : BitVec 13) (s : State) : Host.Outcome State Fault Refusal :=
  ctlRun (fun g =>
    if 32 ≤ g.ctl.stack.length then .none
    else some (g.ctl.act, .callE g.nextClause :: g.ctl.stack, g.target o)) s
def execRet (s : State) : Host.Outcome State Fault Refusal :=
  ctlRun (fun g => match g.ctl.stack with
    | .callE r :: rest => some (g.ctl.act, rest, r)
    | _ => .none) s

end Sys2Proof.Machine
end

