-- ==== Sys2Proof/Machine/Gate.lean ====
section
/-! DEFINITION. Gate calls, GATE and GRET, major 0x02, and the return of a callee fault (13 R342 to R349). -/
namespace Sys2Proof.Machine
open Sys2Proof

/-! ### The gate table (13 R342, R343) -/

/-- A gate entry, its fields decoded. -/
structure GateEntry where
  flags : Nat
  ctx : Nat
  asid : Nat
  ns : Nat
  nv : Nat
  vmin : Nat
  pc : Nat
  stackBase : Nat
  stack : Nat
  budget : Nat
  zero : Nat
  deriving DecidableEq, Repr

def GateEntry.parse (b : List Byte) : GateEntry :=
  { flags := fieldAt b 0 1, ctx := fieldAt b 1 1, asid := fieldAt b 2 2, ns := fieldAt b 4 1, nv := fieldAt b 5 1
    vmin := fieldAt b 6 1, pc := fieldAt b 8 8, stackBase := fieldAt b 0x10 8, stack := fieldAt b 0x18 2
    budget := fieldAt b 0x1A 2, zero := fieldAt b 7 1 + fieldAt b 0x1C 4 }

/-- V is set, the zero fields are zero, and every field is in range. -/
def GateEntry.valid (e : GateEntry) : Bool :=
  bit e.flags 0 && decide (e.flags < 4) && e.zero == 0 && decide (e.ns ≤ 16) && decide (e.nv ≤ 16)
  && decide (e.vmin ≤ 14) && decide (e.pc % 64 = 0 ∧ e.pc < 2 ^ 48) && decide (e.stack ≤ 4096)
  && (if e.stack = 0 then e.stackBase == 0 else decide (e.stackBase % 65536 = 0 ∧ e.stackBase < 2 ^ 48))
  && decide (1 ≤ e.budget)

/-- The size of a gate frame. -/
def frameSize : Nat := 0x4000

/-- The physical addresses of a frame's four pages, reached with the permission of SYSTEM privilege. -/
def State.framePages (s : State) (g : Group) (va : Nat) (write : Bool) : Except XFault (List Nat) :=
  (List.range 4).foldl (fun (acc : Except XFault (List Nat)) i => match acc with
    | .error e => .error e
    | .ok l => match s.xlate g.loc.cell g.loc.quad g.id.ctx ⟨write, false, true⟩ (va + 4096 * i) with
      | .error e => .error e
      | .ok t => .ok (l ++ [t.phys (va + 4096 * i)])) (.ok [])

/-- What a GATE that passes its checks goes by. -/
structure GatePass where
  entry : GateEntry
  frame : Nat
  pages : List Nat

/-- The checks of a GATE (13 R344): none where GATE_ENTRY is raised. -/
def State.gateCheck (s : State) (g : Group) (idx : Nat) : Option GatePass :=
  let c := g.id.ctx
  let cx := s.ctx c
  match s.readVa c (cx.save + 0x80) 128, s.readVa c (cx.save + 0x100 + 32 * idx) 32 with
  | .ok h, .ok b =>
    let base := fieldAt h 8 8
    -- the description's own zero fields, 0x82 to 0x87 and 0x90 to 0xFF (13 R342)
    let gatesBad := fieldAt h 2 6 != 0 || fieldAt h 16 112 != 0
    let e := GateEntry.parse b
    let callee := s.ctx e.ctx
    let va := base + (g.loc.gid * 4 + g.asy.gates.length) * frameSize
    if s.poisonVa c (cx.save + 0x80) 128 || s.poisonVa c (cx.save + 0x100 + 32 * idx) 32
        || gatesBad || base == 0 || decide (base % 65536 ≠ 0 ∨ 2 ^ 48 ≤ base) || decide (fieldAt h 0 2 ≤ idx)
        || decide (256 < fieldAt h 0 2) || !e.valid
        || callee.func.isNone || callee.func != cx.func || callee.part != cx.part || callee.asid != e.asid
        || e.ctx == c || g.asy.gates.any (fun l => l.callerCtx == e.ctx)
        || decide (8 * g.id.vregs < e.nv) || decide (g.id.vregs < e.vmin)
        || (bit e.flags 1 && !(s.funcs.getD (s.ctxFunc c) ⟨false, false, 0, []⟩).syscap)
        || decide (4 ≤ g.asy.gates.length) || g.trap.pstate == .handler || !g.trap.parked.isEmpty then .none
    else match s.framePages g va true with
      | .error _ => .none
      | .ok ps => some ⟨e, va, ps⟩
  | _, _ => .none

/-! ### The frame (13 R346) -/

/-- Bytes padded with zeros to a length. -/
def padTo (n : Nat) (b : List Byte) : List Byte := b ++ List.replicate (n - b.length) 0#8

/-- The first 0x3FFC bytes of a frame, of a group whose registers are all resident. -/
def Group.frameBody (g : Group) (idx : Nat) (start : Nat) : List Byte :=
  let packed := (List.range 112).map fun r => packReg g.ctl.live (g.vreg r).val
  padTo 0x3FFC (
    (packed.flatMap fun p => padTo 128 p.2)
    ++ ((List.range 256).flatMap fun n => wordBytes (g.sreg n))
    ++ padTo 32 ((List.range 7).flatMap fun k => wordBytes (g.regs.k.getD (k + 1) 0#32))
    ++ (packed.map fun p => BitVec.ofNat 8 p.1)
    ++ wordBytes g.sr.fpctl ++ wordBytes g.sr.fpstat ++ wordBytes g.sr.seed ++ wordBytes g.ctl.act
    ++ leBytes 8 g.nextClause.toNat ++ leBytes 8 start
    ++ leBytes 1 g.id.ctx ++ leBytes 1 idx ++ leBytes 1 g.ctl.stack.length ++ leBytes 1 (if g.id.sys then 1 else 0)
    ++ List.replicate 76 0#8
    ++ (List.range 32).flatMap fun l => wordBytes (g.genOf l))

/-- The group's first `n` registers all resident, each spilled one with the value of its slot, and the first poison met in
a slot; `none` where the cell cache has no way for a slot. -/
def State.residentFirst (s : State) (i n : Nat) : Except FaultInfo (Option (State × Option MetAt)) :=
  (List.range n).foldl (fun (acc : Except FaultInfo (Option (State × Option MetAt))) r => match acc with
    | .error e => .error e
    | .ok .none => .ok .none
    | .ok (some (s, p)) =>
      if ((s.group i).vreg r).tag = 0 then .ok (some (s, p))
      else match s.readSlot i r with
        | .error e => .error e
        | .ok .none => .ok .none
        | .ok (some y) => .ok (some (y.st.modGroup i fun g => g.withRegs fun z =>
            { z with v := z.v.set r ⟨y.val, 0, .none⟩ }, first p y.met)))
    (.ok (some (s, .none)))

/-- The bytes of a frame written through the cell cache, page by page. -/
def State.writeFrame (s : State) (g : Group) (pages : List Nat) (b : List Byte) : Option State :=
  ((List.range 4).foldl (fun (acc : Option State) j => acc.bind fun s =>
    s.cacheWrite (s.partOf g) g.loc.cell .spill (pages.getD j 0) ((b.drop (4096 * j)).take 4096)) (some s))

/-- A frame read back; none where a page fails, poison is met, or CHECK does not match. -/
def State.readFrame (s : State) (g : Group) (va : Nat) : Option (List Byte) :=
  match s.framePages g va false with
  | .error _ => .none
  | .ok ps =>
    let b := ps.flatMap fun pa => s.cachedRead (s.partOf g) g.loc.cell pa 4096
    let bad := ps.any fun pa => (s.cachedPoison (s.partOf g) g.loc.cell pa 4096).isSome
    if bad || crc32c (b.take 0x3FFC) != fieldAt b 0x3FFC 4 then .none else some b

/-! ### The call -/

/-- Nothing of the group is outstanding (13 R345 step 1). -/
def Group.quiet (g : Group) : Bool := g.regs.pend.isEmpty && g.asy.cnt.all (· == 0)

/-- The callee's registers, from the caller's (13 R345 steps 3 to 5). -/
def Group.calleeRegs (g : Group) (e : GateEntry) : Group :=
  let v := (List.range (8 * g.id.vregs)).map fun r =>
    if r < e.nv then
      if g.ctl.live &&& ~~~g.ctl.act = 0#32 then (⟨(g.vreg r).val, 0, .none⟩ : VReg)
      else ⟨.general ((List.range 32).map fun l => if g.ctl.act.has l then g.vlane r l else 0#32), 0, .none⟩
    else VReg.zero
  let g1 := g.withRegs fun x =>
    { x with v := v, s := (List.range 256).map fun n => if n < e.ns then g.sreg n else 0#32
             k := List.replicate 8 0#32 }
  let g2 := g1.withSr fun r => { r with fpctl := 0#32, fpstat := 0#32, seed := 0#32 }
  { g2 with id := { g2.id with gen := (List.range 32).map fun l => seedState 0#32 (g.id.tidx.getD l 0) } }

/-- Spills that a change of every register calls for; those that find no way are made at a later
instruction, and a fault of one is left to the caller. -/
def State.settleBudget (s : State) (i : Nat) : State × Option FaultInfo :=
  match s.skim i [] [] with
  | .ok (some s1) => (s1, .none)
  | .ok .none => (s, .none)
  | .error f => (s, some f)

/-- Enter a call. -/
def State.gateEnter (s : State) (i idx : Nat) (p : GatePass) (start : Nat) : State :=
  let e := p.entry
  let s1 := (s.commitEarly (s.group i).id.block).modGroup i fun g =>
    let lv : GateLevel := ⟨g.id.ctx, g.id.sys, idx, p.frame, start, e.budget, g.ctl.act, g.ctl.stack.length, e.ns, e.nv,
      e.stackBase, e.stack, g.nextClause, g.asy.deferred⟩
    let g1 := (g.calleeRegs e).withAsy fun a => { a with gates := lv :: a.gates, deferred := [] }
    let g2 := { g1 with id := { g1.id with ctx := e.ctx, sys := bit e.flags 1 } }
    g2.transfer g.ctl.act g.ctl.stack (BitVec.ofNat 64 e.pc) (s.now g)
  match s1.settleBudget i with
  | (s2, .none) => s2
  | (s2, some f) => let g := s2.group i; s2.takeFault i f g.ctl.act g.ctl.pc g.ctl.pc g.ctl.pc

def execGate (n : BitVec 8) (s : State) : Host.Outcome State Fault Refusal :=
  let idx := n.toNat
  runIsa ⟨.gate, 1, []⟩ (fun s i g =>
    match s.gateCheck g idx with
    | .none => .trap (.here 0x13 idx)
    | some p =>
      if !g.quiet then .hold s
      else match s.residentFirst i 112 with
        | .error f => .trap f
        | .ok .none => .hold s
        | .ok (some (s0, met)) =>
          if met.isSome || (List.range 112).any fun r => (g.vreg r).poison.isSome then .trap (.here 0x13 idx)
          else
            let start := s.cyc g.loc.cell
            let body := (s0.group i).frameBody idx start
            match s0.writeFrame g p.pages (body ++ leBytes 4 (crc32c body)) with
            | .none => .hold s
            | some s1 => .moved (s1.gateEnter i idx p start)) s

/-! ### The return -/

/-- The caller's registers, from a frame: the passed ones keep the callee's values in the lanes that were
active, or are zeroed after a callee fault (13 R348, R349). -/
def Group.callerRegs (g : Group) (l : GateLevel) (b : List Byte) (fault : Bool) : Group :=
  let word (o : Nat) : Word := BitVec.ofNat 32 (fieldAt b o 4)
  let saved (r : Nat) : VVal := unpackReg g.ctl.live (fieldAt b (0x3C20 + r) 1) ((b.drop (128 * r)).take 128)
  let v := (List.range (8 * g.id.vregs)).map fun r =>
    if r < l.nv then
      if fault then VReg.zero
      else if g.ctl.live &&& ~~~l.active = 0#32 then ⟨(g.vreg r).val, 0, (g.vreg r).poison⟩
      else ⟨.general ((List.range 32).map fun j =>
        if !g.ctl.live.has j then 0#32 else if l.active.has j then g.vlane r j else (saved r).lane j), 0, (g.vreg r).poison⟩
    else (⟨saved r, 0, .none⟩ : VReg)
  let g1 := g.withRegs fun x =>
    { x with v := v
             s := (List.range 256).map fun n => if n < l.ns then (if fault then 0#32 else g.sreg n) else word (0x3800 + 4 * n)
             k := 0#32 :: (List.range 7).map fun k => word (0x3C00 + 4 * k) }
  let g2 := g1.withSr fun r => { r with fpctl := word 0x3C90, fpstat := word 0x3C94, seed := word 0x3C98 }
  { g2 with id := { g2.id with gen := (List.range 32).map fun j => word (0x3D00 + 4 * j) } }

/-- Leave the innermost call: the caller's space and privilege first, then its state from the frame, or
STRUCTURE in the caller where the frame does not stand (13 R346, R348, R349). -/
def State.gateLeave (s : State) (i : Nat) (fault : Option FaultInfo) : State :=
  match (s.group i).asy.gates with
  | [] => s
  | l :: rest =>
    let g0 := s.group i
    let act := l.active &&& g0.ctl.live
    let stack := g0.ctl.stack.drop (g0.ctl.stack.length - l.depth)
    let g1 : Group := { g0 with
      id := { g0.id with ctx := l.callerCtx, sys := l.callerSys }
      asy := { g0.asy with gates := rest, deferred := l.deferred }
      trap := { g0.trap with callee := .none } }
    let now := s.now g0
    match (s.setGroup i g1).readFrame g1 l.frame with
    | .none =>
      let g2 := g1.transfer act stack l.retPc now
      (s.setGroup i g2).takeFault i (structureFault g2) act l.retPc l.retPc l.retPc
    | some b =>
      let g2 := g1.callerRegs l b fault.isSome
      let code := match fault with | some f => f.code | .none => 0
      let st := if fault.isSome then 0x14 else 0
      let g3 := g2.withSr fun r => { r with gatestat := BitVec.ofNat 32 (l.idx * 2 ^ 16 + code * 256 + st) }
      let g4 := if fault.isSome then g3.setS 0 0x14#32 else g3
      match (s.setGroup i (g4.transfer act stack l.retPc now)).settleBudget i with
      | (s2, .none) => s2
      | (s2, some f) => s2.takeFault i f act l.retPc l.retPc l.retPc

/-- A consumption has ended the callee's run: the return of R349 follows once nothing of the call is outstanding. -/
def Group.calleeStops (g : Group) (f : FaultInfo) (skid : Nat) : Group :=
  (g.withTrap fun t => { t with skid := [], callee := some (f, g.ctl.pc, skid) }).withCtl fun c => { c with status := .held }

def execGret (s : State) : Host.Outcome State Fault Refusal :=
  runIsa ⟨.gate, 1, []⟩ (fun s i g =>
    match g.asy.gates with
    | [] => .trap (structureFault g)
    | l :: _ =>
      if !g.quiet then .hold s
      else if g.ctl.stack.length ≠ l.depth ∨ g.ctl.act ≠ l.active then .trap (structureFault g)
      -- a skid still open ends with the call: its fault is the callee's (13 R349)
      else match g.trap.skid with
        | e :: _ => .moved (s.modGroup i fun g => g.calleeStops e.1 (g.ctl.issued - e.2.1))
        | [] =>
          -- the spilled ones among the passed registers are taken from the callee's slots before its space is left
          match s.residentFirst i l.nv with
          | .error f => .trap f
          | .ok .none => .hold s
          | .ok (some (s0, .none)) => .moved (s0.gateLeave i .none)
          | .ok (some (s0, some (va, pa, q))) =>
            .moved (s0.modGroup i fun g => g.calleeStops (uncorrectableInfo q va pa) 0)) s

/-- The return of a callee fault, once nothing of the call is outstanding: its record, then the caller
(13 R349). -/
def State.calleeReturn (s : State) (i : Nat) (f : FaultInfo) (pc : DWord) (skid : Nat) : State :=
  let g := s.group i
  if !g.quiet then s.modGroup i Group.holdHere
  else
    ((s.faultRecord g f 0xFF pc.toNat skid).modGroup i fun g => g.withTrap fun t =>
      { t with atNext := .none, skid := [] }).gateLeave i (some f)

/-- GATE_BUDGET_EXPIRY: the budget of a call in progress has run out, and WATCHDOG is raised in the callee
that runs (13 R347). -/
def execGateBudgetExpiry (i : Nat) (s : State) : Host.Outcome State Fault Refusal :=
  let g := s.group i
  let due := g.asy.gates.any fun l => decide (l.start + 1024 * l.budget ≤ s.cyc g.loc.cell)
  .next (if due && g.trap.callee.isNone then s.takeFault i (.here 0x1B 0) g.ctl.act g.ctl.pc g.ctl.pc g.ctl.pc else s)

end Sys2Proof.Machine
end

