-- ==== Sys2Proof/Machine/Sync.lean ====
section
/-! DEFINITION. Block barriers, barrier objects, ordering instructions, semaphores and monitors: majors 0x03
to 0x07 (13 R350 to R361; 07 R202, R203; 09 R247, R257 to R259), with the matches of monitors. -/
namespace Sys2Proof.Machine
open Sys2Proof

/-! ### Block barriers (13 R350, 07 R202) -/

/-- The arrivals of the active lanes, applied before the completion test: the block after them, and the
lanes that have dropped or arrived already. -/
def Block.arrive (b : Block) (g : Group) (lanes : List Nat) : Block × List Nat :=
  lanes.foldl (fun (acc : Block × List Nat) l =>
    let (b, bad) := acc
    let t := g.thread l
    if b.dropped.contains t || b.arrived.contains t then (b, bad ++ [l])
    else ({ b with barA := b.barA + 1, arrived := t :: b.arrived
                   lastphase := (t, b.barP) :: b.lastphase.filter fun x => x.1 != t }, bad)) (b, [])

/-- BOBJ_OVERARRIVE of the block barrier. -/
def barFault : FaultInfo := ⟨0x0C, some (BitVec.allOnes 64), 0, 0, .none, 0, false⟩

/-- The arrivals of a BAR or BAR.ARRIVE, with the lanes at fault. -/
def State.barArrive (s : State) (_i : Nat) (g : Group) : State × Lanes :=
  let (b, bad) := (s.block g.id.block).arrive g g.ctl.act.toList
  ((s.modBlock g.id.block fun _ => b).barComplete g.id.block, Lanes.ofFn 32 fun l => bad.contains l)

/-- Some active lane waits for a phase; none does once every thread of the block has dropped. -/
def State.barWaits (s : State) (g : Group) : Bool :=
  let b := s.block g.id.block
  b.barE != 0 && g.ctl.act.toList.any fun l => b.lastphase.any fun x => x.1 == g.thread l && x.2 == b.barP

/-- The release of an arrival at the block barrier (09 R247): it leaves a rollback interval as it is, whose lines the
barrier commits as one step at its completion (05 R140, R141). -/
def barReleased (s : State) (i : Nat) (rel : Bool) (k : State → Res) : Res :=
  if rel then
    match s.releaseOnly i 1 with
    | .error s1 => .hold s1
    | .ok s1 => k s1
  else k s

def execBarArrive (s : State) : Host.Outcome State Fault Refusal :=
  runIsa ⟨.bar, 1, []⟩ (fun s i g =>
    barReleased s i true fun s =>
      let (s1, bad) := s.barArrive i g
      if bad = 0#32 then .done s1 else .laneTrap s1 barFault bad) s

def execBarDrop (s : State) : Host.Outcome State Fault Refusal :=
  runIsa ⟨.bar, 1, []⟩ (fun s i g =>
    let ts := g.ctl.act.toList.map g.thread
    let completes := (s.barDrop g.id.block ts |>.block g.id.block).barP ≠ (s.block g.id.block).barP
    barReleased s i (decide completes) fun s => .done (s.barDrop g.id.block ts)) s

def execBarWait (s : State) : Host.Outcome State Fault Refusal :=
  runIsa ⟨.bar, 1, []⟩ (fun s i g =>
    if g.ctl.wakeHit || !s.barWaits g then .done (s.acquire i 1)
    else .block s (.bar (s.block g.id.block).barP)) s

def execBar (s : State) : Host.Outcome State Fault Refusal :=
  runIsa ⟨.bar, 1, []⟩ (fun s i g =>
    if g.ctl.wakeHit then .done (s.acquire i 1)
    else barReleased s i true fun s =>
      let ph := (s.block g.id.block).barP
      let (s1, bad) := s.barArrive i g
      let passed := decide ((s1.block g.id.block).barP ≠ ph)
      if bad ≠ 0#32 then (if passed then .laneTrap (s1.acquire i 1) barFault bad else .laneBlock s1 barFault bad (.bar ph))
      else if passed then .done (s1.acquire i 1)
      else .block s1 (.bar ph)) s

/-! ### Barrier objects (13 R352 to R357) -/

/-- The checks every form makes of its object's offset. -/
def bobjOff (s : State) (g : Group) (off : Nat) (k : Res) : Res :=
  if off % 16 ≠ 0 then allLanes s g (.atSeg 0x06 off)
  else if !(s.block g.id.block).segOk off 16 then allLanes s g (.atSeg 0x07 off)
  else k

/-- A barrier-object form: `pair` is its scalar pair, if it names one. -/
def bobjRun (pair : Option (BitVec 8)) (b : BitVec 8) (f : State → Nat → Group → Nat → Res) (s : State) :
    Host.Outcome State Fault Refusal :=
  runIsa ⟨.bobj, 1, (match pair with | some p => [.pair p.toNat] | .none => []) ++ [.cond (b != 0xFF#8) 0xFF]⟩
    (fun s i g =>
      let off := (g.sreg b.toNat).toNat
      bobjOff s g off (f s i g off)) s

/-- The waiters of an object that is initialised take BOBJ_STARVED when they issue again (13 R353). -/
def State.bobjUpset (s : State) (b cell off : Nat) : State :=
  s.mapGroups b cell fun g => match g.ctl.status with
    | .blocked (.bobj o ph) =>
      if o = off then (g.hit (.bobj o ph)).withTrap fun t => { t with atNext := some (.atSeg 0x0D off) } else g
    | _ => g

def execBobjInit (p b : BitVec 8) (m : BitVec 1) (s : State) : Host.Outcome State Fault Refusal :=
  runIsa ⟨.bobj, 1, [.pair p.toNat, .slt p.toNat (2 ^ 24), .cond (b != 0xFF#8) 0xFF]⟩ (fun s _ g =>
    let off := (g.sreg b.toNat).toNat
    let base := (g.sreg p.toNat).toNat
    let subs := (g.sreg (p.toNat + 1)).toNat
    bobjOff s g off (
      if 65535 < subs then .hold s
      else .done ((s.setBobj g.id.block g.loc.cell off ⟨m == 1#1, false, 0, subs, subs, 0, base, base⟩).bobjUpset
        g.id.block g.loc.cell off))) s

def execBobjJoin (b : BitVec 8) (s : State) : Host.Outcome State Fault Refusal :=
  bobjRun .none b (fun s i g off =>
    let e := g.asy.subs.find? fun e => e.off == off
    let new := g.ctl.act &&& ~~~(match e with | some e => e.lanes | .none => 0#32)
    if e.isNone && decide (4 ≤ g.asy.subs.length) then .trap (.atSeg 0x0C off)
    else
      let o := s.bobj g.id.block g.loc.cell off
      if 65535 < o.subs + new.count ∨ 65535 < o.unarr + new.count then .hold s
      else
        let s1 := s.setBobj g.id.block g.loc.cell off { o with subs := o.subs + new.count, unarr := o.unarr + new.count }
        .done (s1.modGroup i fun g => g.withAsy fun a =>
          { a with subs := if e.isSome then a.subs.map fun x => if x.off == off then { x with lanes := x.lanes ||| new } else x
                           else a.subs ++ [⟨off, new, 0#32⟩] })) s

def execBobjLeave (b : BitVec 8) (s : State) : Host.Outcome State Fault Refusal :=
  bobjRun .none b (fun s i g off => .done (s.bobjLeave i off g.ctl.act)) s

/-- The arrival of one lane (13 R355): the state and the lanes at fault. -/
def State.bobjLane (i off amount : Nat) (acc : State × List Nat) (l : Nat) : State × List Nat :=
  let (s, bad) := acc
  let g := s.group i
  let o := s.bobj g.id.block g.loc.cell off
  if o.expect < o.got + amount then (s, bad ++ [l])
  else
    let first := g.asy.subs.any fun e => e.off == off && e.lanes.has l && !e.arrived.has l
    let s1 : State := if first then
        (s.setBobj g.id.block g.loc.cell off { o with unarr := o.unarr - 1 }).modGroup i fun g => g.withAsy fun a =>
          { a with subs := a.subs.map fun e => if e.off == off then { e with arrived := e.arrived ||| (1#32 <<< l) } else e }
      else s
    (s1.bobjArrive g.id.block g.loc.cell off amount, bad)

def execBobjArrive (p b : BitVec 8) (a : BitVec 1) (s : State) : Host.Outcome State Fault Refusal :=
  bobjRun (if a == 1#1 then some p else .none) b (fun s i g off =>
    let s1 := (s.commitFor g.id.block 2).publishGroup i
    let o := s.bobj g.id.block g.loc.cell off
    let amount := if o.mode && a == 1#1 then (g.sreg p.toNat).toNat else 1
    let (s2, bad) := g.ctl.act.toList.foldl (State.bobjLane i off amount) (s1, [])
    if bad.isEmpty then .done s2 else .laneTrap s2 (.atSeg 0x0C off) (Lanes.ofFn 32 fun l => bad.contains l)) s

def execBobjExpect (p b : BitVec 8) (s : State) : Host.Outcome State Fault Refusal :=
  bobjRun (some p) b (fun s _ g off =>
    let o := s.bobj g.id.block g.loc.cell off
    let n := o.expect + (g.sreg p.toNat).toNat
    if 2 ^ 24 ≤ n then .trap (.atSeg 0x0C off)
    else .done (s.setBobj g.id.block g.loc.cell off { o with expect := n })) s

def execBobjWait (p b : BitVec 8) (s : State) : Host.Outcome State Fault Refusal :=
  bobjRun (some p) b (fun s i g off =>
    let o := s.bobj g.id.block g.loc.cell off
    let want := (g.sreg p.toNat).getLsbD 0
    deferredOr s i ⟨.bobj, 1, []⟩ (fun r => r.bobj == some off) (
      if g.ctl.wakeHit || o.phase != want then .done (s.acquire i 2)
      else if o.starved then .trap (.atSeg 0x0D off)
      else .block s (.bobj off want))) s

def execBobjTest (p b : BitVec 8) (s : State) : Host.Outcome State Fault Refusal :=
  bobjRun (some p) b (fun s i g off =>
    let o := s.bobj g.id.block g.loc.cell off
    let want := (g.sreg p.toNat).getLsbD 0
    let r : Word := if o.phase != want then 1#32 else if o.starved then 2#32 else 0#32
    let s1 := s.modGroup i fun g => g.setS (p.toNat + 1) r
    .done (if r = 1#32 then s1.acquire i 2 else s1)) s

/-! ### Ordering instructions (13 R358) -/

def execWaitCnt (n : BitVec 6) (c : BitVec 2) (s : State) : Host.Outcome State Fault Refusal :=
  let p : Info := ⟨.order, 1, []⟩
  runIsa p (fun s i g =>
    -- the operations waited on: those of the class but the n youngest
    let young := ((g.asy.ops.filter fun o => o.cls == c.toNat).reverse.take n.toNat).map (·.id)
    deferredOr s i p (fun o => o.cls == c.toNat && !young.contains o.id) (
      if g.ctl.wakeHit || decide (g.count c.toNat ≤ n.toNat) then .done s
      else .block s (.cnt c.toNat n.toNat))) s

def execFence (sc : BitVec 3) (o : BitVec 3) (s : State) : Host.Outcome State Fault Refusal :=
  runIsa ⟨.order, 1, []⟩ (fun s i _ =>
    released s i (ordReleases o.toNat) sc.toNat fun s =>
      .done (if ordAcquires o.toNat then s.acquire i sc.toNat else s)) s

/-! ### Semaphores (13 R359) -/

/-- A semaphore of a cell. -/
def State.sem (s : State) (cell n : Nat) : Word := match s.cells[cell]? with
  | some c => c.sems.getD n 0#32
  | .none => 0#32
/-- A semaphore's new value: the groups of the cell that wait for it and find their condition true are
woken (06 R182). -/
def State.setSem (s : State) (cell n : Nat) (x : Word) : State :=
  let s1 := s.modCell cell fun c => { c with sems := putAt 0#32 c.sems n x }
  { s1 with groups := s1.groups.map fun g =>
      match g.ctl.status with
      | .blocked (.sem m v) => if g.loc.cell == cell && m == n && decide (v.toNat ≤ x.toNat) then
          g.withCtl fun c => { c with wakeHit := true } else g
      | _ => g }

/-- A semaphore form: its quadrant must be the partition's (08 R219). -/
def semRun (n : BitVec 8) (f : State → Nat → Group → Res) (s : State) : Host.Outcome State Fault Refusal :=
  runIsa ⟨.sem, 1, [.cond (decide (n.toNat < 64)) n.toNat]⟩ (fun s i g =>
    if !(s.heldQuads (s.partOf g) g.loc.cell).contains (n.toNat / 16) then allLanes s g (.here 0x0A 0)
    else f s i g) s
/-- SET and ADD: a release of scope .dev, then the operation. -/
def semUpdate (n a : BitVec 8) (op : Word → Word → Word) (s : State) : Host.Outcome State Fault Refusal :=
  semRun n (fun s i g => released s i true 4 fun s =>
    let s1 := s.commitEarly g.id.block
    .done (s1.setSem g.loc.cell n.toNat (op (s1.sem g.loc.cell n.toNat) (g.sreg a.toNat)))) s
def execSemSet (a n : BitVec 8) (s : State) : Host.Outcome State Fault Refusal := semUpdate n a (fun _ v => v) s
def execSemAdd (a n : BitVec 8) (s : State) : Host.Outcome State Fault Refusal := semUpdate n a (· + ·) s
def execSemWaitge (a n : BitVec 8) (s : State) : Host.Outcome State Fault Refusal :=
  semRun n (fun s i g =>
    let v := g.sreg a.toNat
    if g.ctl.wakeHit || decide (v.toNat ≤ (s.sem g.loc.cell n.toNat).toNat) then .done (s.acquire i 4)
    else .block s (.sem n.toNat v)) s
def execSemRead (d n : BitVec 8) (s : State) : Host.Outcome State Fault Refusal :=
  semRun n (fun s i g => .done ((s.modGroup i fun g' => g'.setS d.toNat (s.sem g.loc.cell n.toNat)).acquire i 4)) s

/-! ### Monitors (13 R360, R361; 09 R258) -/

/-- The monitors of the device; one that has matched is free again (09 R258). -/
def maxMonitors : Nat := 4096
def State.monitorsUsed (s : State) : Nat :=
  (s.groups.map fun g => (g.mons.filter fun m => !m.polled && !m.matched).length).foldl (· + ·) 0

/-- A monitor is armed for a group that holds sixteen at most: the oldest still armed gives way (13 R361). What has
matched is no monitor any more, but the wake it made true. -/
def Group.arm (g : Group) (mon : Monitor) : Group :=
  let old := g.mons.findIdx? fun m => !m.matched
  { g with mons := (if (g.mons.filter fun m => !m.matched).length < 16 then g.mons
      else match old with | some k => g.mons.eraseIdx k | .none => g.mons) ++ [mon] }

/-- WAITC completing on a match: every monitor of the group is freed, then the acquire of scope .dev. -/
def monDone (s : State) (i : Nat) : Res := .done ((s.modGroup i fun g => { g with mons := [] }).acquire i 4)

def execWaitc (r w : BitVec 1) (c : BitVec 3) (a b : BitVec 8) (s : State) : Host.Outcome State Fault Refusal :=
  let wide := w == 1#1
  runIsa ⟨.mon, 1, .pair a.toNat :: if wide then [.pair b.toNat] else []⟩ (fun s i g =>
    if g.ctl.wakeHit then monDone s i
    else if g.ctl.begun.isSome then (if g.mons.any (·.matched) then monDone s i else .hold s)
    else
      let va := (g.spair a.toNat).toNat
      let n := if wide then 8 else 4
      match s.laneXlate g false n va with
      | .error f => allLanes s g f
      | .ok (pa, _) =>
        let v := if wide then (g.spair b.toNat).toNat else (g.sreg b.toNat).toNat
        let q := s.memPoison.hit pa n
        let now := leValue (readBytes q (s.homeRead pa n))
        let s1 := match q with | some x => s.consume i x.2 va x.1 | .none => s
        let hit := monCond c.toNat (8 * n) v now
        let mon : Monitor := ⟨pa, wide, c.toNat, v, hit, decide (maxMonitors ≤ s1.monitorsUsed)⟩
        if r == 1#1 then .done ((s1.modGroup i fun g => g.arm mon).acquire i 4)
        else if hit || g.mons.any (·.matched) then monDone s1 i
        else
          let s2 := s1.modGroup i fun g => g.arm mon
          if g.inGate then .hold (s2.modGroup i fun g => g.withCtl fun c => { c with begun := some 0 })
          else .block s2 .waitc) s

def execMonCancel (s : State) : Host.Outcome State Fault Refusal :=
  runIsa ⟨.mon, 1, []⟩ (own fun g => { g with mons := [] }) s

/-- A blocked WAITC whose monitor has matched. While a hold-up save stands no monitor wakes a group but a power-fail
handler (05 R157). -/
def State.monWake (s : State) (i : Nat) : State :=
  s.modGroup i fun g =>
    if (s.hub.save.isNone || g.id.pfail) && g.ctl.status == .blocked .waitc && g.mons.any (·.matched) then
      ({ g.withCtl (fun c => { c with wakeHit := true }) with mons := [] }).wakeUp (s.now g)
    else g

/-- MONITOR_MATCH: a group's monitor has matched, and its wake condition is true (09 R258). -/
def execMonitorMatch (i : Nat) (s : State) : Host.Outcome State Fault Refusal := .next (s.monWake i)

/-- MONITOR_POLL: the slice reads the locations that a group without free monitors waits on. -/
def execMonitorPoll (i : Nat) (s : State) : Host.Outcome State Fault Refusal :=
  let read (m : Monitor) : Monitor :=
    let n := if m.wide then 8 else 4
    if m.polled && monCond m.cond (8 * n) m.value (s.mem.value m.pa n) then { m with matched := true } else m
  .next ((s.modGroup i fun g => { g with mons := g.mons.map read }).monWake i)

end Sys2Proof.Machine
end

