-- ==== Sys2Proof/Machine/Priv.lean ====
section
/-! DEFINITION. The privileged family, major 0x2A (13 R364 to R368; 03 R97), and the end of a page-table
walk (08 R241). -/
namespace Sys2Proof.Machine
open Sys2Proof

/-- Drop translations of every TLB of the device. -/
def State.dropTlb (s : State) (gone : TlbEntry → Bool) : State :=
  { s with
    cells := s.cells.map fun c => { c with quads := c.quads.map fun q => { q with tlb := q.tlb.filter fun e => !gone e } }
    panes := s.panes.map fun p => { p with tlb := p.tlb.filter fun e => !gone e } }

/-- TLB.INV: a release, the entries dropped, and the accesses translated through them performed before it completes
(03 R97). -/
def execTlbInv (a : BitVec 8) (l : BitVec 1) (s : State) : Host.Outcome State Fault Refusal :=
  runIsa ⟨.priv, 1, if l == 1#1 then [] else [.pair a.toNat]⟩ (fun s i g =>
    let va := (g.spair a.toNat).toNat
    let all := l == 1#1
    if !all && decide (2 ^ 48 ≤ va) then allLanes s g ((XFault.translation 1 0).info false va)
    else released s i true 4 fun s =>
      let f := s.ctxFunc g.id.ctx
      let asid := (s.ctx g.id.ctx).asid
      let sharers := (List.range 64).filter fun c => (s.ctx c).func == (s.ctx g.id.ctx).func && (s.ctx c).asid == asid
      let s1 := (s.drainCtxs sharers).dropTlb fun e =>
        e.func == f && e.asid == asid && (all || decide (e.va ≤ va ∧ va < e.va + e.size))
      if s1.inFlight sharers then .hold s1 else .done s1) s

/-- Bytes of a group's space read at the home copy for an engine, page by page, with the first poison met:
its virtual and physical address. -/
def State.engineRead (s : State) (g : Group) : Nat → Nat → Nat →
    Except FaultInfo (List Byte × Option (Nat × Nat × Poison))
  | 0, _, _ => .ok ([], .none)
  | fuel + 1, va, n =>
    if n = 0 then .ok ([], .none)
    else
      let k := min n (4096 - va % 4096)
      match s.xlateG g false va with
      | .error e => .error (e.info false va)
      | .ok t => match s.engineRead g fuel (va + k) (n - k) with
        | .error e => .error e
        | .ok (r, p) =>
          let pa := t.phys va
          let q := s.memPoison.hit pa k
          .ok (poisonedBytes (fun j => (s.memPoison.hit (pa + j) 1).isSome) (s.homeRead pa k) ++ r, match q with | some x => some (va, x.1, x.2) | .none => p)

/-- The consumption of poison met by such a read. -/
def State.consumeRead (s : State) (i : Nat) : Option (Nat × Nat × Poison) → State
  | .none => s
  | some (va, pa, p) => s.consume i p va pa

def execIxuLoad (a : BitVec 8) (n : BitVec 5) (s : State) : Host.Outcome State Fault Refusal :=
  runIsa ⟨.priv, 1, [.pair a.toNat]⟩ (fun s i g =>
    let va := (g.spair a.toNat).toNat
    if va % 256 ≠ 0 then allLanes s g (.at 0x06 va 0)
    else match s.engineRead g 2 va 256 with
      | .error f => allLanes s g f
      | .ok (b, p) =>
        .done ((s.consumeRead i p).modCell g.loc.cell fun c => { c with ixu := c.ixu.set n.toNat (.prog b) })) s

/-- The committed dirty lines of a window. -/
def Window.dirtyLines (w : Window) : List Nat :=
  (w.lines.filter fun y => y.dirty &&& ~~~y.uncommitted != 0#128).map (·.line)

def execCcFlush (s : State) : Host.Outcome State Fault Refusal :=
  runIsa ⟨.priv, 1, []⟩ (fun s _ g =>
    let part := s.partOf g
    .done (s.drainLines part g.loc.cell (s.window part g.loc.cell).dirtyLines)) s
def execCcInval (s : State) : Host.Outcome State Fault Refusal :=
  runIsa ⟨.priv, 1, []⟩ (fun s _ g =>
    let part := s.partOf g
    let cell := g.loc.cell
    let s1 := s.drainLines part cell (s.window part cell).dirtyLines
    .done (s1.modWindow part cell fun w =>
      ((w.lines.filter fun y => y.uncommitted == 0#128).map (·.line)).foldl (fun w l => w.dropLine l) w)) s

/-- The 64 entries of a bound table's bytes. -/
def boundWords (b : List Byte) : List Nat := (List.range 64).map fun i => fieldAt b (16 * i) 16

def execBndSet (a : BitVec 8) (s : State) : Host.Outcome State Fault Refusal :=
  runIsa ⟨.priv, 1, [.pair a.toNat]⟩ (fun s i g =>
    let va := (g.spair a.toNat).toNat
    if va = 0 then .done (s.modCtx g.id.ctx fun c => { c with bounds := [] })
    else match s.engineRead g 3 va 1024 with
      | .error f => allLanes s g f
      | .ok (b, p) => .done ((s.consumeRead i p).modCtx g.id.ctx fun c => { c with bounds := boundWords b })) s

/-- TLB_WALK_COMPLETE: a walk that has one of its pane's walkers returns. Its translation enters the first-level TLB of
the quadrant that asked and, where it is not held there, the second-level one (08 R241). A walk that fails enters
nothing: its access took the fault. -/
def execTlbWalkComplete (cell quad c va : Nat) (s : State) : Host.Outcome State Fault Refusal :=
  let w : Walk := ⟨cell, quad, c, va⟩
  let k := cell / Config.cellsPerPane
  .next (match s.panes[k]? with
    | .none => s
    | some p =>
      if !(p.walks.take walkers).contains w then s
      else
        let s1 : State := { s with panes := modifyAt s.panes k fun p => { p with walks := p.walks.erase w } }
        let cx := s.ctx c
        let f := s.ctxFunc c
        match s.tlb1 cell quad f cx.asid va, s.tlb2 cell f cx.asid va with
        | some _, _ => s1
        | .none, some e => s1.fillTlb1 cell quad e
        | .none, .none => match s.walk1 f va 4 cx.s1root 0 with
          | .error _ => s1
          | .ok e => (s1.fillTlb2 cell { e with asid := cx.asid }).fillTlb1 cell quad { e with asid := cx.asid })

end Sys2Proof.Machine
end

