-- ==== Sys2Proof/Machine/Screed.lean ====
section
/-! DEFINITION. The screed unit: passes, primitive set-up, tickets, tile memory, forced renders and stores
(17 R466 to R474, R478; 04 R112, R113; 08 R230). -/
namespace Sys2Proof.Machine
open Sys2Proof

/-! ### The dynamic area (08 R230) -/

/-- First fit from an offset, past allocations in rising order. -/
def fitGo (size : Nat) : Nat → List (Nat × Nat) → Nat
  | at', [] => at'
  | at', (o, n) :: r => if at' + size ≤ o then at' else fitGo size (max at' (o + n)) r

/-- Space taken in a partition's dynamic area on a cell, in units of 256 bytes: its window offset. -/
def State.dynAlloc (s : State) (part cell size : Nat) : Option (Nat × State) :=
  let k := (s.heldQuads part cell).length
  let n := max 256 (roundUp size 256)
  let w := s.window part cell
  let o := fitGo n (k * 0x79000) w.allocs
  if o + n ≤ k * 0x180000 then
    some (o, s.setWindow { w with allocs := insertBy (·.1) (o, n) w.allocs })
  else .none
/-- The space at an offset freed. -/
def State.dynFree (s : State) (part cell off : Nat) : State :=
  s.modWindow part cell fun w => { w with allocs := w.allocs.filter fun a => a.1 != off }

/-! ### Exact values -/

/-- An integer as an exact value. -/
def intV (x : Int) : FVal := .fin (decide (x < 0)) x.natAbs 0
/-- An exact sum or product as a value again. -/
def Exact.toVal : Exact → FVal
  | .nan io => .nan io
  | .inf n _ => .inf n
  | .zero n => .fin n 0 0
  | .num n m _ e => .fin n m e
/-- The exact sum of terms, and the exact product of two. -/
def vSum (l : List FVal) : FVal := (exactSum l).toVal
def vMul (a b : FVal) : FVal := productTerm a b
/-- The exact quotient; a zero divisor gives +0. -/
def vDiv (a b : FVal) : Exact :=
  match a, b with
  | .nan s, _ => .nan s
  | _, .nan s => .nan s
  | .inf n, y => if y.isInf then .nan true else .inf (n != y.neg) false
  | _, .inf _ => .zero false
  | .fin n m e, .fin n' m' e' => if m = 0 ∨ m' = 0 then .zero false else .num (n != n') m m' (e - e')
/-- One rounding to nearest even. -/
def rneTo (f : FFmt) (x : Exact) : Nat := (f.deliver .rne false x).1
def rne32 (x : Exact) : Word := BitVec.ofNat 32 (rneTo fp32 x)

/-! ### The pass descriptor (17 R466) -/

def Pass.field (p : Pass) (off n : Nat) : Nat := fieldAt p.raw off n
def Pass.w (p : Pass) : Nat := p.field 0 2
def Pass.h (p : Pass) : Nat := p.field 2 2
/-- Samples per pixel. -/
def Pass.samples (p : Pass) : Nat := 2 ^ p.field 4 1
def Pass.cfmt (p : Pass) : Nat := p.field 5 1
def Pass.flag (p : Pass) (i : Nat) : Bool := bit (p.field 6 1) i
def Pass.tw (p : Pass) : Nat := (p.w + 7) / 8
def Pass.th (p : Pass) : Nat := (p.h + 7) / 8
def Pass.bw (p : Pass) : Nat := (p.w + 63) / 64
def Pass.bh (p : Pass) : Nat := (p.h + 63) / 64
def Pass.maxPrim (p : Pass) : Nat := p.field 0x14 4
/-- Bin entries that the bin space holds. -/
def Pass.binRoom (p : Pass) : Nat := (p.field 8 4 - 8 * (p.bw * p.bh) - 4096) / 4
/-- Bytes of a stored pixel. -/
def Pass.pixBytes (p : Pass) : Nat := if p.cfmt = 2 then 8 else 4
/-- The partition that the pass draws in. -/
def State.passPart (s : State) (p : Pass) : Nat := (s.ctx p.ctx).part

/-- Every rule of R466 holds of a descriptor's bytes. -/
def passOk (raw : List Byte) : Bool :=
  let f := fieldAt raw
  let w := f 0 2
  let h := f 2 2
  let bins := (w + 63) / 64 * ((h + 63) / 64)
  let va48 (x : Nat) : Bool := decide (x < 2 ^ 48)
  decide (1 ≤ w ∧ w ≤ 4096) && decide (1 ≤ h ∧ h ≤ 4096) && decide (f 4 1 ≤ 3) && decide (f 5 1 ≤ 2)
  && decide (f 6 1 < 32) && f 7 1 == 0
  && decide (f 8 4 % 4096 = 0 ∧ 8 * bins + 4096 ≤ f 8 4 ∧ f 8 4 ≤ 512 * 1024)
  && decide (f 0xC 4 % 256 = 0) && decide (64 ≤ f 0x14 4 ∧ f 0x14 4 ≤ 2 ^ 24)
  && decide (f 0x20 8 % 256 = 0) && decide (f 0x28 8 % 256 = 0) && decide (f 0x30 8 % 32 = 0)
  && decide (f 0x38 8 % 256 = 0) && va48 (f 0x20 8) && va48 (f 0x28 8) && va48 (f 0x30 8) && va48 (f 0x38 8)
  && (f 6 1 / 2 % 4 != 0 || f 0x28 8 == 0)

/-! ### Set-up (17 R468) -/

/-- A coordinate in sixteenths, rounded to nearest even; none where it is not finite. -/
def snap (x : Word) : Option Int :=
  match fp32.decode x.toNat with
  | .fin n m e =>
    let (a, b) := inUnits m 1 (e + 4) 0
    let t := (roundQuot .rne n a b).1
    some (if n then -(t : Int) else t)
  | _ => .none

/-- The edges of a triangle with the sign of its area: each one's value at the origin and its steps. -/
def edgesOf (sg : Int) (xs ys : List Int) : List (Int × Int × Int) :=
  (List.range 3).map fun i =>
    let xj := xs.getD ((i + 1) % 3) 0
    let yj := ys.getD ((i + 1) % 3) 0
    let dx := xs.getD ((i + 2) % 3) 0 - xj
    let dy := ys.getD ((i + 2) % 3) 0 - yj
    (sg * (xj * dy - yj * dx), -(sg * dy), sg * dx)

/-- The bins that a bounding box in sixteenths touches within the surface. -/
def Pass.binsOf (p : Pass) (x0 x1 y0 y1 : Int) : List Nat :=
  let cl (v : Int) (hi : Nat) : Nat := min (hi - 1) (max 0 v).toNat
  let bx0 := cl x0 (16 * p.w) / 1024
  let bx1 := cl x1 (16 * p.w) / 1024
  let by0 := cl y0 (16 * p.h) / 1024
  let by1 := cl y1 (16 * p.h) / 1024
  (List.range (by1 + 1 - by0)).flatMap fun j => (List.range (bx1 + 1 - bx0)).map fun i => (by0 + j) * p.bw + bx0 + i

/-- The set-up of a primitive from its thirteen words; none where it is discarded. -/
def Pass.setup (p : Pass) (pseq : Nat) (v : List Word) : Option Prim :=
  let at4 (i k : Nat) : Word := v.getD (4 * i + k) 0#32
  let sx := (List.range 3).map fun i => snap (at4 i 0)
  let sy := (List.range 3).map fun i => snap (at4 i 1)
  if (sx ++ sy).any (·.isNone) then .none
  else
    let xs := sx.map fun o => o.getD 0
    let ys := sy.map fun o => o.getD 0
    let x (i : Nat) : Int := xs.getD i 0
    let y (i : Nat) : Int := ys.getD i 0
    let d := (x 1 - x 0) * (y 2 - y 0) - (x 2 - x 0) * (y 1 - y 0)
    let z := (List.range 3).map fun i => at4 i 2
    let rw' := (List.range 3).map fun i => at4 i 3
    let lo (l : List Int) : Int := l.foldl min (l.headD 0)
    let hi (l : List Int) : Int := l.foldl max (l.headD 0)
    let bad := (xs ++ ys).any (fun c => decide (c < -131072 ∨ 131071 < c))
      || decide (32000 < hi xs - lo xs ∨ 32000 < hi ys - lo ys) || d == 0
      || (decide (0 < d) && p.flag 3) || (decide (d < 0) && p.flag 4)
      || rw'.any (fun r => let f := fp32.decode r.toNat; f.isNaN || f.isInf || f.isZero || f.neg)
      || z.any (fun r => (fp32.decode r.toNat).isNaN)
      || decide (hi xs < 0 ∨ hi ys < 0 ∨ (16 * p.w : Nat) ≤ lo xs ∨ (16 * p.h : Nat) ≤ lo ys)
    if bad then .none
    else some
      { pseq := pseq, absD := d.natAbs, edges := edgesOf (if 0 < d then 1 else -1) xs ys, z := z, rw := rw'
        user := v.getD 12 0#32, ccw := decide (d < 0), bins := p.binsOf (lo xs) (hi xs) (lo ys) (hi ys) }

/-- The 32-byte primitive record (17 R469). -/
def Prim.record (q : Prim) : List Byte :=
  (q.z.flatMap wordBytes) ++ (q.rw.flatMap wordBytes) ++ wordBytes q.user ++ leBytes 4 (if q.ccw then 1 else 0)

/-! ### Coverage (17 R471, R476, R478, R479) -/

/-- The sample offsets in sixteenths. -/
def sampleOffs (n : Nat) : List (Nat × Nat) :=
  if n = 1 then [(8, 8)]
  else if n = 2 then [(4, 4), (12, 12)]
  else if n = 4 then [(5, 3), (13, 5), (3, 11), (11, 13)]
  else [(1, 10), (3, 2), (5, 14), (7, 6), (9, 12), (11, 4), (13, 8), (15, 0)]
/-- The offset of a point code: 0 the centre, 1 + s sample s. -/
def pointOff (n p : Nat) : Nat × Nat := if p = 0 then (8, 8) else (sampleOffs n).getD (p - 1) (8, 8)

/-- The edge values at a point given in sixteenths. -/
def Prim.edgesAt (q : Prim) (x y : Int) : List Int := q.edges.map fun (c, a, b) => c + a * x + b * y
/-- A point is inside every edge, an edge through it counted on one side. -/
def Prim.inside (q : Prim) (x y : Int) : Bool :=
  q.edges.all fun (c, a, b) =>
    let e := c + a * x + b * y
    decide (0 < e) || (e == 0 && (decide (0 < a) || (a == 0 && decide (0 < b))))
/-- The samples of a pixel that are inside. -/
def Prim.coverage (q : Prim) (n px py : Nat) : Nat :=
  ((List.range n).map fun s =>
    let (ox, oy) := (sampleOffs n).getD s (8, 8)
    if q.inside (16 * px + ox : Nat) (16 * py + oy : Nat) then 2 ^ s else 0).foldl (· + ·) 0

/-- The pixel of a lane of a half of a tile (17 R476). -/
def halfPixel (tx ty half l : Nat) : Nat × Nat :=
  let q := l / 4
  (8 * tx + q % 4 * 2 + l % 2, 8 * ty + 4 * half + q / 4 * 2 + l / 2 % 2)
/-- A primitive covers a sample of a half within the surface. -/
def Pass.halfCovered (p : Pass) (q : Prim) (t half : Nat) : Bool :=
  (List.range 32).any fun l =>
    let (x, y) := halfPixel (t % p.tw) (t / p.tw) half l
    decide (x < p.w ∧ y < p.h) && q.coverage p.samples x y != 0

/-! ### Tiles and tickets (17 R471) -/

/-- The order of `n` rows of `m`: row-major, or for coat 2 reverse serpentine (04 R112). -/
def gridOrder (serp : Bool) (n m : Nat) : List (Nat × Nat) :=
  if serp then (List.range n).flatMap fun k =>
    (List.range m).map fun j => (n - 1 - k, if k % 2 = 0 then m - 1 - j else j)
  else (List.range n).flatMap fun k => (List.range m).map fun j => (k, j)
/-- The tiles of a pass in the order in which they are taken. -/
def Pass.tileOrder (p : Pass) (serp : Bool) : List Nat :=
  (gridOrder serp p.bh p.bw).flatMap fun (by', bx) =>
    (gridOrder serp (min 8 (p.th - 8 * by')) (min 8 (p.tw - 8 * bx))).map fun (r, c) => (8 * by' + r) * p.tw + 8 * bx + c

def TileRec.fresh (t : Nat) : TileRec := ⟨t, 0, .none, .none, false, [], false, false⟩
def Pass.tile (p : Pass) (t : Nat) : TileRec := (p.tiles.find? fun r => r.tile == t).getD (TileRec.fresh t)
def Pass.setTile (p : Pass) (r : TileRec) : Pass :=
  { p with tiles := if p.tiles.any (fun x => x.tile == r.tile) then p.tiles.map fun x => if x.tile == r.tile then r else x
                    else p.tiles ++ [r] }
/-- The bin of a tile. -/
def Pass.binOf (p : Pass) (t : Nat) : Nat := t / p.tw / 8 * p.bw + t % p.tw / 8
/-- The next primitive of which a tile is to be given a ticket: its bin is marked for render, or the pass is
closed and its tickets are not discarded. -/
def Pass.nextPrim (p : Pass) (t : Nat) : Option Prim :=
  let r := p.tile t
  if p.discard || r.stored then .none
  else p.prims.find? fun q =>
    decide (r.next ≤ q.pseq) && q.bins.contains (p.binOf t)
    && (p.closed || (match p.render with | some b => decide (q.pseq < b) | .none => false))
    && (p.halfCovered q t 0 || p.halfCovered q t 1)

/-- Passes by context and descriptor on a pane. -/
def State.passIdx (s : State) (ctx desc pane : Nat) : Option Nat :=
  findIdx' (fun p => p.ctx == ctx && p.desc == desc && p.pane == pane) s.passes
def State.modPass (s : State) (k : Nat) (f : Pass → Pass) : State := { s with passes := modifyAt s.passes k f }

/-- The coat that a pass draws, if its region renders one. -/
def State.passCoat (s : State) (p : Pass) : Option (Nat × Coat) :=
  match (s.regions[p.region]?).bind (·.coat) with
  | .none => .none
  | some k => (s.hub.coats[k]?).map fun c => (k, c)
/-- OFFSET of a coat's layer in the table in force. -/
def State.coatOffset (s : State) (c : Coat) : Nat :=
  match s.hub.pipes[c.pipe]? with
  | some p => fieldAt (p.table.getD c.layer []) 0x14 2
  | .none => 0
/-- The lines that a pipe has begun. -/
def State.pipeLines (s : State) (n : Nat) : Nat := match s.hub.pipes[n]? with | some p => p.lines | .none => 0
/-- Tickets of a pass may be issued: those of coat 2 only after T1 and the delay (04 R113). -/
def State.coatOpen (s : State) (p : Pass) : Bool :=
  match s.passCoat p with
  | some (_, c) =>
    if c.num = 2 then
      match s.hub.coats.find? fun d => d.pipe == c.pipe && d.layer == c.layer && d.frame == c.frame && d.run == c.run && d.num == 1 with
      | some d => match d.t1 with
        | some t => decide (t + s.coatOffset c ≤ s.pipeLines c.pipe)
        | .none => false
      | .none => false
    else true
  | .none => true
def State.serpentine (s : State) (p : Pass) : Bool :=
  match s.passCoat p with | some (_, c) => c.num == 2 | .none => false

/-! ### Tile memory (17 R472) -/

/-- Bytes of a tile's memory. -/
def Pass.tileBytes (p : Pass) : Nat := roundUp (64 * p.samples * 12) 256
/-- A translation for the screed unit. -/
def State.screedX (s : State) (p : Pass) (write : Bool) (va : Nat) : Except (Nat × Nat) Nat :=
  match s.xlate Config.cells 0 p.ctx ⟨write, false, p.sys⟩ va with
  | .ok e => .ok (e.phys va)
  | .error e => .error (e.code, va)
/-- A read of at most a page at the home copy: the bytes with the poison met, or the code and address of the
first failure. -/
def State.screedRead (s : State) (p : Pass) (va n : Nat) : Except (Nat × Nat) (List Byte × Option (Nat × Poison)) :=
  let k := min n (4096 - va % 4096)
  match s.screedX p false va with
  | .error e => .error e
  | .ok pa =>
    let one (pa k : Nat) : List Byte × Option (Nat × Poison) := (s.homeRead pa k, s.memPoison.hit pa k)
    if k = n then .ok (one pa k)
    else match s.screedX p false (va + k) with
      | .error e => .error e
      | .ok pb =>
        let a := one pa k
        let b := one pb (n - k)
        .ok (a.1 ++ b.1, match a.2 with | some x => some x | .none => b.2)
/-- A write, piece by piece; a piece that fails is skipped. -/
def State.screedWrite (s : State) (p : Pass) (va : Nat) (b : List Byte) (q : Option Poison) :
    State × Option (Nat × Nat) :=
  let k := 4096 - va % 4096
  let one (s : State) (va : Nat) (b : List Byte) : State × Option (Nat × Nat) :=
    if b.isEmpty then (s, .none)
    else match s.screedX p true va with
      | .error e => (s, some e)
      | .ok pa =>
        let s1 := s.homeWrite pa b
        ({ s1 with memPoison := match q with | some x => s1.memPoison.mark pa x | .none => s1.memPoison }, .none)
  let (s1, e1) := one s va (b.take k)
  let (s2, e2) := one s1 (va + k) (b.drop k)
  (s2, match e1 with | some x => some x | .none => e2)

/-- The records of the failures at a tile, the first of each surface. -/
def State.screedRecords (s : State) (p : Pass) (es : List (Nat × Nat × Nat)) : State :=
  let firsts := es.foldl (fun (acc : List (Nat × Nat × Nat)) e => if acc.any (fun x => x.1 == e.1) then acc else acc ++ [e]) []
  firsts.foldl (fun s e => s.ctxRecord { ErrRec.plain e.2.1 p.ctx with flags := 1, vaddr := e.2.2 }) s

/-- The bit positions and widths of R, G, B and A in a packed pixel (04 R108). -/
def packedComps (cfmt : Nat) : List (Nat × Nat) :=
  if cfmt = 0 then [(16, 8), (8, 8), (0, 8), (24, 8)] else [(20, 10), (10, 10), (0, 10), (30, 2)]
/-- A component of n bits as a fraction of its greatest value. -/
def unormVal (k n : Nat) : Exact := if k = 0 then .zero false else .num false k (2 ^ n - 1) 0
/-- The four FP16 components of a stored pixel. -/
def pixelColour (cfmt : Nat) (b : List Byte) : List Nat :=
  if cfmt = 2 then (List.range 4).map fun i => fieldAt b (2 * i) 2
  else (packedComps cfmt).map fun (sh, n) => rneTo fp16 (unormVal (leValue b / 2 ^ sh % 2 ^ n) n)

/-- A sample's twelve bytes, with the poison it carries and the sector that holds it. -/
structure Sample where
  bytes : List Byte
  poison : Option (Nat × Poison)
  deriving DecidableEq, Repr

/-- The address of a sample in a surface of `n` bytes a sample. -/
def Pass.sampleVa (p : Pass) (base n t k : Nat) : Nat := base + (t * 64 * p.samples + k) * n
/-- The pixel of sample `k` of a tile. -/
def Pass.samplePixel (p : Pass) (t k : Nat) : Nat × Nat :=
  let j := k / p.samples
  (8 * (t % p.tw) + j % 8, 8 * (t / p.tw) + j / 8)

/-- The initial value of a sample, with the failures met. -/
def State.initSample (s : State) (p : Pass) (t k : Nat) : Sample × List (Nat × Nat × Nat) :=
  let (x, y) := p.samplePixel t k
  let inside := decide (x < p.w ∧ y < p.h)
  let z0 := leBytes 4 (p.field 0x10 4)
  let c0 := leBytes 8 (p.field 0x18 8)
  let z : Sample × List (Nat × Nat × Nat) :=
    if p.flag 1 && inside then
      match s.screedRead p (p.sampleVa (p.field 0x28 8) 4 t k) 4 with
      | .ok (b, q) => (⟨b, q⟩, [])
      | .error (c, a) => (⟨z0, .none⟩, [(1, c, a)])
    else (⟨z0, .none⟩, [])
  let c : Sample × List (Nat × Nat × Nat) :=
    if p.flag 0 && inside then
      match s.screedRead p (p.field 0x20 8 + y * p.field 0xC 4 + x * p.pixBytes) p.pixBytes with
      | .ok (b, q) => (⟨(pixelColour p.cfmt b).flatMap (leBytes 2), q⟩, [])
      | .error (c, a) => (⟨c0, .none⟩, [(0, c, a)])
    else (⟨c0, .none⟩, [])
  (⟨z.1.bytes ++ c.1.bytes, match z.1.poison with | some x => some x | .none => c.1.poison⟩, c.2 ++ z.2)

/-- A sample taken back from the flush area. -/
def State.flushedSample (s : State) (p : Pass) (r : TileRec) (k : Nat) : Sample × List (Nat × Nat × Nat) :=
  if r.lost.contains k then s.initSample p r.tile k
  else match s.screedRead p (p.sampleVa (p.field 0x38 8) 12 r.tile k) 12 with
    | .ok (b, q) => (⟨b, q⟩, [])
    | .error (c, a) =>
      let i := s.initSample p r.tile k
      (i.1, i.2 ++ [(2, c, a)])

/-- The contents of a tile: of its memory, of the flush area, or the initial ones. -/
def State.tileSamples (s : State) (p : Pass) (r : TileRec) : List Sample × List (Nat × Nat × Nat) :=
  let all : List (Sample × List (Nat × Nat × Nat)) := (List.range (64 * p.samples)).map fun k =>
    match r.mem with
    | some (cell, off) =>
      let w := s.window (s.passPart p) cell
      (⟨w.mem.bytes (off + 12 * k) 12, w.poison.hit (off + 12 * k) 12⟩, [])
    | .none => if r.flushed then s.flushedSample p r k else s.initSample p r.tile k
  (all.map (·.1), all.flatMap (·.2))

/-- Tile memory taken and set before a tile's first ticket since it was freed (17 R472). -/
def State.tileLoad (s : State) (k : Nat) (p : Pass) (t cell : Nat) : Option State :=
  let part := s.passPart p
  match s.dynAlloc part cell p.tileBytes with
  | .none => .none
  | some (off, s1) =>
    let r := p.tile t
    let (samples, es) := s.tileSamples p r
    let s2 := s1.modWindow part cell fun w =>
      let w1 := { w with mem := w.mem.put off (samples.flatMap fun (x : Sample) => x.bytes), poison := w.poison.cleared off p.tileBytes }
      { w1 with poison := (List.range samples.length).foldl (fun (acc : Poisons) j =>
          match (samples.getD j ⟨[], .none⟩).poison with
          | some q => acc.mark (off + 12 * j) q.2
          | .none => acc) w1.poison }
    some ((s2.screedRecords p es).modPass k fun p => p.setTile { p.tile t with mem := some (cell, off) })

/-! ### Taking a half -/

/-- The first ticket of a coat 1 is issued: T1 (04 R113). -/
def State.markT1 (s : State) (p : Pass) : State :=
  match s.passCoat p with
  | some (j, c) =>
    if c.num = 1 && c.t1.isNone then
      { s with hub := { s.hub with coats := modifyAt s.hub.coats j fun c => { c with t1 := some (s.pipeLines c.pipe) } } }
    else s
  | .none => s

/-- A new ticket of a tile for a group on a cell; none where its tile memory finds no room. -/
def State.newTicket (s : State) (k t cell : Nat) (q : Prim) : Option State :=
  match s.passes[k]? with
  | .none => .none
  | some p =>
    let r := p.tile t
    let loaded := if r.mem.isSome then some s else s.tileLoad k p t cell
    loaded.map fun s1 =>
      let s2 := (s1.markT1 p).modPass k fun p =>
        let r1 := p.tile t
        p.setTile { r1 with
          touched := true, flushed := false, lost := []
          cur := some ⟨s1.nextTicket, q.pseq, r.flushed && r.mem.isNone, !r.touched,
            [0, 1].map fun h => if p.halfCovered q t h then 1 else 0⟩ }
      { s2 with nextTicket := s2.nextTicket + 1 }

/-- A half that a group on a cell may take of a tile: the state with its ticket, and the half. -/
def State.takeTile (s : State) (k t cell : Nat) : Option (State × Nat) :=
  match s.passes[k]? with
  | .none => .none
  | some p =>
    let r := p.tile t
    let there := match r.mem with | some (c, _) => c == cell | .none => true
    if !there then .none
    else match r.cur with
      | some c => if p.discard then .none else (findIdx' (· == 1) c.halves).map fun h => (s, h)
      | .none => match p.nextPrim t with
        | .none => .none
        | some q => match s.newTicket k t cell q with
          | .none => .none
          | some s1 => (((s1.passes[k]?).bind fun p => (p.tile t).cur).bind fun c => findIdx' (· == 1) c.halves).map
              fun h => (s1, h)

/-- The first issuable half that a cell may take (17 R471): the state with its ticket, the tile and half. -/
def State.pickHalf (s : State) (k cell : Nat) : Option (State × Nat × Nat) :=
  match s.passes[k]? with
  | .none => .none
  | some p =>
    if !s.coatOpen p then .none
    else (p.tileOrder (s.serpentine p)).findSome? fun t => (s.takeTile k t cell).map fun (s1, h) => (s1, t, h)

/-! ### The end of tickets, flushes and stores (17 R471, R473, R474) -/

/-- A binding names a ticket. -/
def bindsTicket (id : Nat) (b : Option Nat) : Bool := match b with | some x => x / 64 == id | .none => false
/-- A thread remains bound to a ticket, in a group or in a continuation record. -/
def State.ticketBound (s : State) (id : Nat) : Bool :=
  s.groups.any (fun g => (List.range 32).any fun l => g.ctl.live.has l && bindsTicket id (g.id.binds.getD l .none))
  || s.cells.any (fun c => c.index.any fun e => bindsTicket id e.ticket)
  || s.blocks.any (fun b => match b.image with
      | some m => m.index.any fun e => bindsTicket id e.ticket
      | .none => false)

/-- The rendered bins' entries are freed once every marked primitive has been drawn and its tiles flushed. -/
def Pass.renderStep (p : Pass) : Pass :=
  match p.render with
  | .none => p
  | some b =>
    let busy := p.tiles.any fun r => r.cur.isSome || (r.mem.isSome && !p.closed)
    if busy || (p.tileOrder false).any fun t => (p.nextPrim t).isSome then p
    else { p with render := .none, prims := p.prims.filter fun q => decide (b ≤ q.pseq) }

/-- TICKET_DONE: a ticket of a tile of a pass is done (17 R471). -/
def execTicketDone (k t : Nat) (s : State) : Host.Outcome State Fault Refusal :=
  .next (match s.passes[k]? with
    | .none => s
    | some p =>
      let r := p.tile t
      match r.cur with
      | .none => s
      | some c =>
        if (c.halves.contains 1 && !p.discard) || s.ticketBound c.id then s
        else s.modPass k fun p => (p.setTile { r with cur := .none, next := c.pseq + 1 }).renderStep)

/-- FORCED_RENDER: an emission is held for want of room, and every bin that holds entries is marked for
render (17 R473). -/
def execForcedRender (k : Nat) (s : State) : Host.Outcome State Fault Refusal :=
  .next (s.modPass k fun p =>
    if p.starved && p.render.isNone && !p.closed then { p with starved := false, render := some p.nextPseq } else p)

/-- TILE_FLUSH: the memory of a tile whose tickets of a forced render are done goes to the flush area. -/
def execTileFlush (k t : Nat) (s : State) : Host.Outcome State Fault Refusal :=
  .next (match s.passes[k]? with
    | .none => s
    | some p =>
      let r := p.tile t
      match r.mem with
      | .none => s
      | some (cell, off) =>
        if p.render.isNone || p.closed || r.cur.isSome || (p.nextPrim t).isSome then s
        else
          let (samples, _) := s.tileSamples p r
          let (s1, es, lost) := (List.range samples.length).foldl
            (fun (acc : State × List (Nat × Nat × Nat) × List Nat) j =>
              let x := samples.getD j ⟨[], .none⟩
              match acc.1.screedWrite p (p.sampleVa (p.field 0x38 8) 12 t j) x.bytes (x.poison.map (·.2)) with
              | (s, .none) => (s, acc.2)
              | (s, some e) => (s, acc.2.1 ++ [(2, e.1, e.2)], acc.2.2 ++ [j])) (s, [], [])
          ((s1.screedRecords p es).dynFree (s.passPart p) cell off).modPass k fun p =>
            (p.setTile { r with mem := .none, flushed := true, lost := lost }).renderStep)

/-- The exact mean of FP16 values, of which there is a power of two. -/
def meanOf (n : Nat) (l : List Nat) : Exact :=
  match exactSum (l.map fp16.decode) with
  | .num s m d e => .num s m d (e - (n.log2 : Int))
  | x => x
/-- A component stored in n bits. -/
def unormStore (x : Exact) (n : Nat) : Nat :=
  let m : Int := (2 ^ n - 1 : Nat)
  (deliverInt .rne 32 0 m (vMul x.toVal (intV m)).exact).1
/-- The stored bytes of a pixel, from its samples' colours. -/
def Pass.pixelBytes (p : Pass) (cs : List (List Nat)) : List Byte :=
  let comp (i : Nat) : Exact := meanOf p.samples (cs.map fun c => c.getD i 0)
  if p.cfmt = 2 then (List.range 4).flatMap fun i => leBytes 2 (rneTo fp16 (comp i))
  else
    let cs := packedComps p.cfmt
    leBytes 4 (((List.range 4).map fun i =>
      let (sh, n) := cs.getD i (0, 8)
      unormStore (comp i) n * 2 ^ sh).foldl (· + ·) 0)

/-- The store of one pixel: one outside the surface has no place in it, so neither its colour nor its depth is
written (DEDUCED from R466 and R474, assumption 45). -/
def State.storePixel (s : State) (p : Pass) (t j : Nat) (colour : Bool) (xs : List Sample) :
    State × List (Nat × Nat × Nat) :=
  let n := p.samples
  let (x, y) := p.samplePixel t (j * n)
  if p.w ≤ x ∨ p.h ≤ y then (s, [])
  else
    let mine := (xs.drop (j * n)).take n
    let clean := mine.map fun m => match m.poison with | some _ => List.replicate 12 0xFF#8 | .none => m.bytes
    let (s1, e1) := if colour then
        s.screedWrite p (p.field 0x20 8 + y * p.field 0xC 4 + x * p.pixBytes)
          (p.pixelBytes (clean.map fun b => (List.range 4).map fun i => fieldAt b (4 + 2 * i) 2)) .none
      else (s, .none)
    let (s2, e2) := if p.flag 2 then
        s1.screedWrite p (p.sampleVa (p.field 0x28 8) 4 t (j * n)) (clean.flatMap fun b => b.take 4) .none
      else (s1, .none)
    (s2, (e1.toList.map fun e => (0, e.1, e.2)) ++ (e2.toList.map fun e => (1, e.1, e.2)))

/-- A closed pass ends when every tile is stored: its bin space and its place are released (17 R467). -/
def State.passEnd (s : State) (k : Nat) : State :=
  match s.passes[k]? with
  | .none => s
  | some p =>
    if p.closed && decide ((p.tiles.filter (·.stored)).length = p.tw * p.th) then
      let s1 := s.dynFree (s.passPart p) p.home p.binOff
      { s1 with passes := s1.passes.eraseIdx k }
    else s

/-- TILE_STORE: a closed pass stores a tile all of whose tickets are done (17 R474). The store consumes the poison
its samples carry, with one record for each sector that held it (05 R131). -/
def execTileStore (k t : Nat) (s : State) : Host.Outcome State Fault Refusal :=
  .next (match s.passes[k]? with
    | .none => s
    | some p =>
      let r := p.tile t
      if !p.closed || decide (p.tw * p.th ≤ t) || r.stored || r.cur.isSome || (p.nextPrim t).isSome then s
      else
        let (samples, es0) := s.tileSamples p r
        let colour := r.touched || !p.flag 0
        let (s1, es) := (List.range 64).foldl (fun (acc : State × List (Nat × Nat × Nat)) j =>
          let (s, e) := acc.1.storePixel p t j colour samples
          (s, acc.2 ++ e)) (s, es0)
        let stored (j : Nat) : Bool :=
          let (x, y) := p.samplePixel t j
          decide (x < p.w ∧ y < p.h) && (colour || p.flag 2)
        let met := (List.range samples.length).foldl (fun (acc : List (Nat × Poison)) j =>
          match (samples.getD j ⟨[], .none⟩).poison with
          | some q => if !stored j || acc.contains q then acc else acc ++ [q]
          | .none => acc) []
        let s2 := met.foldl (fun s q => s.ctxRecord
          { ErrRec.plain 0x1A p.ctx with flags := 1, paddr := q.1, source := q.2.source, unit := q.2.unit }) (s1.screedRecords p es)
        let s3 := match r.mem with
          | some (cell, off) => s2.dynFree (s.passPart p) cell off
          | .none => s2
        (s3.modPass k fun p => p.setTile { r with mem := .none, stored := true }).passEnd k)

/-- Close a pass; its tickets not yet taken are discarded where its region has ended (17 R467). -/
def State.passClose (s : State) (k : Nat) (discard : Bool) : State :=
  s.modPass k fun p => if p.closed then p else { p with closed := true, render := .none, starved := false, discard := discard }

end Sys2Proof.Machine
end

