-- ==== Sys2Proof/Machine/Tile.lean ====
section
/-! DEFINITION. TILE, EDGE and the tile-memory forms of OM: majors 0x0A, 0x0B and 0x3F (17 R475 to R481). -/
namespace Sys2Proof.Machine
open Sys2Proof

/-- A VB or VA code that names a scalar pair, and the pair (17 R475). -/
def spOk (c : BitVec 7) : Bool := [112#7, 114#7, 116#7, 118#7].contains c
def Group.spAddr (g : Group) (c : BitVec 7) : Nat := (g.spair (c.toNat - 112)).toNat
/-- The pane of a group. -/
def Group.pane (g : Group) : Nat := g.loc.cell / Config.cellsPerPane
/-- A pane is under quarantine. -/
def State.quarantined (s : State) (p : Nat) : Bool := match s.panes[p]? with | some x => x.quarantined | .none => false

/-! ### Emission (17 R467, R469, R475) -/

/-- What becomes of one lane's emission. -/
inductive Emit where
  | taken (s : State)
  | failed (f : FaultInfo)
  | wait (s : State)

/-- One emission into an open pass. -/
def State.emit (s : State) (k : Nat) (words : List Word) : Emit :=
  match s.passes[k]? with
  | .none => .wait s
  | some p =>
    let n := p.nextPseq
    match p.setup n words with
    | .none => .taken (s.modPass k fun p => { p with nextPseq := n + 1 })
    | some q =>
      let named (x : Prim) : Bool := !x.bins.isEmpty || p.tiles.any fun r => match r.cur with
        | some c => c.pseq == x.pseq
        | .none => false
      let clash := p.prims.any fun x => x.pseq % p.maxPrim == n % p.maxPrim && named x
      let used := (p.prims.map fun x => x.bins.length).foldl (· + ·) 0
      if clash || decide (p.binRoom < used + q.bins.length) then .wait (s.modPass k fun p => { p with starved := true })
      else
        let va := p.field 0x30 8 + n % p.maxPrim * 32
        match s.xlate Config.cells 0 p.ctx ⟨true, false, p.sys⟩ va with
        | .error e => .failed (e.info true va)
        | .ok t => .taken ((s.homeWrite (t.phys va) q.record).modPass k fun p =>
            { p with nextPseq := n + 1, starved := false, prims := p.prims ++ [q] })

/-- The pass that a PRIM.EMIT feeds: the one found, or a new one; an emission waits for a closed pass to end
and for a place, and a descriptor may be refused. -/
def State.openPass (s : State) (i : Nat) (g : Group) (b : BitVec 7) : Except Res (State × Nat) :=
  let va := g.spAddr b
  match s.passIdx g.id.ctx va g.pane with
  | some k => match s.passes[k]? with
    | some p => if p.closed then .error (.hold s) else .ok (s, k)
    | .none => .error (.hold s)
  | .none =>
    if va % 64 ≠ 0 then .error (.trap (.here 0x02 b.toNat))
    else match s.engineRead g 2 va 64 with
      | .error f => .error (allLanes s g f)
      | .ok (raw, q) =>
        if !passOk raw then .error (.trap (.here 0x02 b.toNat))
        else if 16 ≤ (s.passes.filter fun p => p.pane == g.pane).length then .error (.hold s)
        else match s.dynAlloc (s.partOf g) g.loc.cell (fieldAt raw 8 4) with
          | .none => .error (.hold s)
          | some (o, s1) =>
            let p : Pass :=
              { ctx := g.id.ctx, sys := g.id.sys, desc := va, raw := raw, pane := g.pane
                region := (s.block g.id.block).region, home := g.loc.cell, binOff := o, closed := false
                discard := false, nextPseq := 0, prims := [], render := .none, starved := false, tiles := [] }
            let s2 := s1.consumeRead i q
            .ok ({ s2 with passes := s2.passes ++ [p] }, s2.passes.length)

def execPrimEmit (a b : BitVec 7) (s : State) : Host.Outcome State Fault Refusal :=
  runIsa ⟨.gfx, 1, [.vgrp a.toNat 13 1, .cond (spOk b) b.toNat]⟩ (fun s i g =>
    let done := BitVec.ofNat 32 (g.ctl.begun.getD 0)
    let lanes := ((g.ctl.act &&& ~~~g.ctl.helper) &&& ~~~done).toList
    if lanes.isEmpty then .done s
    else if s.quarantined g.pane then .hold s
    else match (s.commitEarly g.id.block).openPass i g b with
      | .error r => r
      | .ok (s1, k) =>
        let words (l : Nat) : List Word := (List.range 13).map fun j => g.vlane (a.toNat + j) l
        let (s2, fs, waiting, mask) := lanes.foldl
          (fun (acc : State × List (Nat × FaultInfo) × Bool × Lanes) l =>
            if acc.2.2.1 then acc
            else match acc.1.emit k (words l) with
              | .taken s => (s, acc.2.1, false, acc.2.2.2 ||| (1#32 <<< l))
              | .failed f => (acc.1, acc.2.1 ++ [(l, f)], false, acc.2.2.2)
              | .wait s => (s, acc.2.1, true, acc.2.2.2)) (s1, [], false, done)
        if waiting then .hold (s2.modGroup i fun g => g.withCtl fun c => { c with begun := some mask.toNat })
        else lanesEnd s2 fs) s

def execPrimEmitClose (b : BitVec 7) (s : State) : Host.Outcome State Fault Refusal :=
  runIsa ⟨.gfx, 1, [.cond (spOk b) b.toNat]⟩ (fun s _ g =>
    let s1 := s.commitEarly g.id.block
    match s1.passIdx g.id.ctx (g.spAddr b) g.pane with
    | some k => .done (s1.passClose k false)
    | .none => .done s1) s

/-! ### Tickets (17 R475) -/

/-- Bind the threads of a group to a half: thread l of lane l. -/
def Group.bindHalf (g : Group) (p : Pass) (q : Prim) (id t half : Nat) (k : Nat) : Group :=
  let covered (l : Nat) : Bool :=
    let (x, y) := halfPixel (t % p.tw) (t / p.tw) half l
    decide (x < p.w ∧ y < p.h) && q.coverage p.samples x y != 0
  let m := Lanes.ofFn 32 covered
  let g1 : Group := { g with id := { g.id with
    binds := (List.range 32).map fun l => some ((id * 2 + half) * 32 + l)
    pseq := List.replicate 32 (BitVec.ofNat 32 q.pseq)
    quadMode := true } }
  (g1.withCtl fun c => { c with helper := ~~~m }).setK k m

def execTileGet (kd : BitVec 3) (b : BitVec 7) (s : State) : Host.Outcome State Fault Refusal :=
  runIsa ⟨.gfx, 1, [.kdst kd.toNat, .cond (spOk b) b.toNat]⟩ (fun s i g =>
    let va := g.spAddr b
    if !g.ctl.stack.isEmpty || g.ctl.live != BitVec.allOnes 32 || !g.trap.parked.isEmpty || g.id.quadMode then
      .trap (structureFault g)
    else match s.passIdx g.id.ctx va g.pane with
      | .none => .done (s.modGroup i fun g => g.setK kd.toNat 0#32)
      | some k => match s.pickHalf k g.loc.cell with
        | .none => .block s (.tile va)
        | some (s1, t, half) =>
          match (s1.passes[k]?).bind fun p => ((p.tile t).cur).bind fun c =>
              (p.prims.find? fun q => q.pseq == c.pseq).map fun q => (p, q, c) with
          | .none => .block s (.tile va)
          | some (p, q, c) =>
            let s2 := s1.modPass k fun p =>
              p.setTile { p.tile t with cur := some { c with halves := c.halves.set half 2 } }
            .done (s2.modGroup i fun g => g.bindHalf p q c.id t half kd.toNat)) s

/-- What a bound lane stands for. -/
structure Frag where
  pass : Pass
  tile : TileRec
  ticket : Ticket
  prim : Prim
  x : Nat
  y : Nat

/-- The ticket half of a lane, if it holds a binding. -/
def State.boundOf (s : State) (g : Group) (l : Nat) : Option Frag :=
  (g.id.binds.getD l .none).bind fun b =>
    s.passes.findSome? fun p => p.tiles.findSome? fun r => r.cur.bind fun c =>
      if c.id = b / 64 then
        (p.prims.find? fun q => q.pseq == c.pseq).map fun q =>
          let (x, y) := halfPixel (r.tile % p.tw) (r.tile / p.tw) (b / 32 % 2) (b % 32)
          ⟨p, r, c, q, x, y⟩
      else .none

/-- An instruction on bound lanes: ILLEGAL_OPERAND where an active lane holds no binding. -/
def boundRun (p : Info) (body : State → Nat → Group → (Nat → Option Frag) → Res) (s : State) :
    Host.Outcome State Fault Refusal :=
  runIsa p (fun s i g =>
    let bs := g.ctl.act.toList.map fun l => (l, s.boundOf g l)
    if bs.any fun b => b.2.isNone then .trap (.here 0x02 0x7F)
    else body s i g fun l => (bs.find? fun b => b.1 == l).bind (·.2)) s

def execTileDone (s : State) : Host.Outcome State Fault Refusal :=
  boundRun ⟨.gfx, 1, []⟩ (fun s i g _ => .done (s.setGroup i { g with id := { g.id with
    binds := (List.range 32).map fun l => if g.ctl.act.has l then .none else g.id.binds.getD l .none } })) s

/-- Word `w` of a lane's ticket (17 R470), or USER. -/
def Frag.attr (b : Frag) (w : Nat) : Word :=
  let tx := b.tile.tile % b.pass.tw
  let ty := b.tile.tile / b.pass.tw
  let e := b.prim.edges.getD (w / 2) (0, 0, 0)
  let bit' (c : Bool) (n : Nat) : Nat := if c then 2 ^ n else 0
  if w < 6 then
    if w % 2 = 0 then BitVec.ofInt 32 (e.1 + e.2.1 * (128 * tx : Nat) + e.2.2 * (128 * ty : Nat))
    else BitVec.ofNat 32 (wrapInt 16 e.2.1 + wrapInt 16 e.2.2 * 65536)
  else if w = 6 then BitVec.ofNat 32 b.ticket.pseq
  else if w = 7 then BitVec.ofNat 32 (tx + ty * 512 + bit' b.ticket.reload 18 + bit' b.ticket.first 19 + bit' b.prim.ccw 20)
  else b.prim.user

/-- A result in every active lane of a bound group. -/
def Group.putBound (g : Group) (d : Nat) (bs : Nat → Option Frag) (f : Frag → Word) : Group :=
  g.put d .general [] fun l => (bs l).elim 0#32 f

def execTileAttr (d : BitVec 7) (w : BitVec 4) (s : State) : Host.Outcome State Fault Refusal :=
  boundRun ⟨.gfx, 1, [.vdst d.toNat 1 1, .cond (decide (w.toNat ≤ 8)) w.toNat]⟩
    (fun s i g bs => .done (s.setGroup i (g.putBound d.toNat bs fun b => b.attr w.toNat))) s

/-! ### Coverage and interpolation (17 R479) -/

def execEdge (d : BitVec 7) (s : State) : Host.Outcome State Fault Refusal :=
  boundRun ⟨.edge, 1, [.vdst d.toNat 1 1]⟩
    (fun s i g bs => .done (s.setGroup i (g.putBound d.toNat bs fun b =>
      BitVec.ofNat 32 (b.prim.coverage b.pass.samples b.x b.y)))) s

/-- An interpolated quantity from the edge values at a point. -/
def Prim.quantity (q : Prim) (es : List Int) (f : Nat) : Word :=
  let e (j : Nat) : FVal := intV (es.getD j 0)
  let fp (l : List Word) (j : Nat) : FVal := fp32.decode (l.getD j 0#32).toNat
  let wsum := vSum ((List.range 3).map fun j => vMul (e j) (fp q.rw j))
  let d := intV q.absD
  rne32 (match f with
    | 0 => vDiv (vMul (e 1) (fp q.rw 1)) wsum
    | 1 => vDiv (vMul (e 2) (fp q.rw 2)) wsum
    | 2 => vDiv (vSum ((List.range 3).map fun j => vMul (e j) (fp q.z j))) d
    | 3 => vDiv (e 1) d
    | 4 => vDiv (e 2) d
    | _ => vDiv wsum d)
/-- A quantity at a point code of a lane's pixel. -/
def Frag.interp (b : Frag) (f p : Nat) : Word :=
  let (ox, oy) := pointOff b.pass.samples p
  b.prim.quantity (b.prim.edgesAt (16 * b.x + ox : Nat) (16 * b.y + oy : Nat)) f

/-- ILLEGAL_OPERAND where a point code or sample lies beyond the samples of an active lane's pass. -/
def sampleCheck (g : Group) (bs : Nat → Option Frag) (bad : Nat → Bool) (detail : Nat) (r : Res) : Res :=
  if g.ctl.act.toList.any fun l => match bs l with | some b => bad b.pass.samples | .none => false then
    .trap (.here 0x02 detail)
  else r

def execInterp (d : BitVec 7) (p : BitVec 4) (f : BitVec 3) (s : State) : Host.Outcome State Fault Refusal :=
  let vb := p.toNat * 8 + f.toNat
  boundRun ⟨.edge, 1, [.vdst d.toNat 1 1, .cond (decide (f.toNat ≤ 5)) vb]⟩ (fun s i g bs =>
    sampleCheck g bs (fun n => decide (n < p.toNat)) vb
      (.done (s.setGroup i (g.putBound d.toNat bs fun b => b.interp f.toNat p.toNat)))) s

def execSamplepos (d : BitVec 7) (p : BitVec 4) (s : State) : Host.Outcome State Fault Refusal :=
  let pos (k o : Nat) : Word := rne32 (FVal.fin false (16 * k + o) (-4)).exact
  boundRun ⟨.edge, 1, [.vdst d.toNat 2 1]⟩ (fun s i g bs =>
    sampleCheck g bs (fun n => decide (n < p.toNat)) p.toNat
      (.done (s.setGroup i ((g.putBound d.toNat bs fun b => pos b.x (pointOff b.pass.samples p.toNat).1).putBound
        (d.toNat + 1) bs fun b => pos b.y (pointOff b.pass.samples p.toNat).2)))) s

/-! ### The output merger (17 R480) -/

/-- The cell and window offset of a sample of a lane's pixel. -/
def Frag.sampleAt (b : Frag) (k : Nat) : Nat × Nat :=
  match b.tile.mem with
  | some (cell, off) => (cell, off + 12 * ((b.y % 8 * 8 + b.x % 8) * b.pass.samples + k))
  | .none => (0, 0)
/-- A sample's bytes and poison; poisoned bytes read as all ones. -/
def State.sampleRead (s : State) (part : Nat) (b : Frag) (k n : Nat) : List Byte × Option (Nat × Poison) :=
  let (cell, o) := b.sampleAt k
  let w := s.window part cell
  let p := w.poison.hit o n
  (readBytes p (w.mem.bytes o n), p)
/-- The comparisons of OM.DEPTH. -/
def depthTest (op : Nat) (z d : Word) : Bool :=
  let a := fp32.decode z.toNat
  let b := fp32.decode d.toNat
  let o := fOrder a b
  let num := !a.isNaN && !b.isNaN
  match op with
  | 0 => false
  | 1 => num && decide (o < 0)
  | 2 => num && decide (o = 0)
  | 3 => num && decide (o ≤ 0)
  | 4 => num && decide (0 < o)
  | 5 => num && decide (o ≠ 0)
  | 6 => num && decide (0 ≤ o)
  | _ => true
/-- The samples that a lane's mask selects. -/
def maskSamples (n : Nat) (m : Word) : List Nat := (List.range n).filter fun k => m.getLsbD k

def execOmDepth (d a : BitVec 7) (w : BitVec 1) (o : BitVec 3) (s : State) : Host.Outcome State Fault Refusal :=
  boundRun ⟨.gfx, 1, [.vdst d.toNat 1 1, .vsrc a.toNat false]⟩ (fun s i g bs =>
    let part := s.partOf g
    let (s1, res, met) := g.storeLanes.foldl
      (fun (acc : State × List (Nat × Nat) × Option (Nat × Poison)) l => match bs l with
        | .none => acc
        | some b => (maskSamples b.pass.samples (g.opLane a.toNat 0#32 l)).foldl
            (fun (acc : State × List (Nat × Nat) × Option (Nat × Poison)) k =>
              let z := b.interp 2 (k + 1)
              let (bytes, p) := acc.1.sampleRead part b k 4
              let met := match acc.2.2 with | some x => some x | .none => p
              if depthTest o.toNat z (bytesWord bytes) then
                let (cell, off) := b.sampleAt k
                (if w = 1#1 then acc.1.winWrite part cell off (wordBytes z) else acc.1, acc.2.1 ++ [(l, 2 ^ k)], met)
              else (acc.1, acc.2.1, met)) acc) (s, [], .none)
    let s2 := match met with | some x => s1.consume i x.2 x.1 0 | .none => s1
    let mask (l : Nat) : Word := BitVec.ofNat 32 (((res.filter fun x => x.1 == l).map (·.2)).foldl (· + ·) 0)
    .done (s2.modGroup i fun g => g.put d.toNat .general [] mask)) s

/-- A colour component's new value: replace, premultiplied over, or add. -/
def mergeComp (mode src dst srcA : Nat) : Nat :=
  match mode with
  | 0 => src
  | 1 => rneTo fp16 (exactSum [fp16.decode src,
      vMul (fp16.decode dst) (vSum [.fin false 1 0, (fp16.decode srcA).flip])])
  | _ => rneTo fp16 (exactSum [fp16.decode src, fp16.decode dst])

/-- The four FP16 components of a pair of registers in a lane. -/
def Group.colourOf (g : Group) (c l : Nat) : List Nat :=
  let a := (g.vlane c l).toNat
  let b := (g.vlane (c + 1) l).toNat
  [a % 65536, a / 65536, b % 65536, b / 65536]

def execOmWrite (m : BitVec 2) (a c : BitVec 7) (s : State) : Host.Outcome State Fault Refusal :=
  boundRun ⟨.gfx, 1, [.cond (m != 3#2) 3, .vsrc a.toNat false, .vgrp c.toNat 2 2]⟩ (fun s _ g bs =>
    let part := s.partOf g
    .done (g.storeLanes.foldl (fun (s : State) l => match bs l with
      | .none => s
      | some b => (maskSamples b.pass.samples (g.opLane a.toNat 0#32 l)).foldl (fun (s : State) k =>
          let (cell, off) := b.sampleAt k
          let dst := (s.window part cell).mem.bytes (off + 4) 8
          let src := g.colourOf c.toNat l
          let new := (List.range 4).map fun j => mergeComp m.toNat (src.getD j 0) (fieldAt dst (2 * j) 2) (src.getD 3 0)
          s.winWrite part cell (off + 4) (new.flatMap (leBytes 2))) s) s)) s

def execOmLoad (d : BitVec 7) (k : BitVec 3) (s : State) : Host.Outcome State Fault Refusal :=
  boundRun ⟨.gfx, 1, [.vdst d.toNat 3 1]⟩ (fun s i g bs =>
    sampleCheck g bs (fun n => decide (n ≤ k.toNat)) k.toNat (
      let part := s.partOf g
      let lanes := g.storeLanes
      let read (l : Nat) : List Byte × Option (Nat × Poison) := match bs l with
        | some b => s.sampleRead part b k.toNat 12
        | .none => ([], .none)
      let met := (lanes.filterMap fun l => (read l).2).head?
      let s1 := match met with | some x => s.consume i x.2 x.1 0 | .none => s
      let m := Lanes.ofFn 32 fun l => lanes.contains l
      .done (s1.modGroup i fun g => (List.range 3).foldl (fun (g : Group) j =>
        g.writeLanes m (d.toNat + j) .none fun l => BitVec.ofNat 32 (fieldAt (read l).1 (4 * j) 4)) g))) s

end Sys2Proof.Machine
end

