-- ==== Sys2Proof/Machine/Glaze.lean ====
section
/-! DEFINITION. Glaze targets, GLZ, major 0x0C (17 R482 to R486): each operation is performed at its issue,
as one step at the home copy. -/
namespace Sys2Proof.Machine
open Sys2Proof

/-! ### The descriptor (17 R482) -/

/-- A glaze descriptor's fields. -/
structure Glaze where
  alloc : Nat
  nodes : Nat
  w : Nat
  h : Nat
  limit : Nat
  rule : Nat
  heads : Nat
  pages : Nat
  deriving DecidableEq, Repr

def Glaze.parse (b : List Byte) : Glaze :=
  ⟨fieldAt b 0 4, fieldAt b 4 4, fieldAt b 8 2, fieldAt b 0xA 2, fieldAt b 0xC 1, fieldAt b 0xD 1, fieldAt b 0x10 8,
    fieldAt b 0x18 8⟩
/-- Every rule of R482 holds of a descriptor's bytes. -/
def glazeOk (b : List Byte) : Bool :=
  let d := Glaze.parse b
  decide (d.nodes % 4096 = 0 ∧ d.nodes ≤ 2 ^ 28) && decide (1 ≤ d.w ∧ d.w ≤ 4096) && decide (1 ≤ d.h ∧ d.h ≤ 4096)
  && decide (2 ≤ d.limit ∧ d.limit ≤ 16) && decide (d.rule ≤ 3) && fieldAt b 0xE 2 == 0 && fieldAt b 0x20 32 == 0

/-! ### Nodes (17 R483, R484) -/

/-- A layer: its node, depth and colour. -/
structure GLayer where
  node : Nat
  depth : Word
  colour : List Nat
  deriving DecidableEq, Repr

/-- No node. -/
def noNode : Nat := 0xFFFFFFFF
/-- The sixteen bytes of a node. -/
def nodeBytes (depth : Word) (colour : List Nat) (link : Nat) : List Byte :=
  wordBytes depth ++ (colour.flatMap (leBytes 2)) ++ leBytes 4 link

/-- The depth order: a stands at or before b. -/
def depthLe (a b : Word) : Bool :=
  let x := fp32.decode a.toNat
  let y := fp32.decode b.toNat
  y.isNaN || (!x.isNaN && decide (fOrder x y ≤ 0))
/-- The gap between two layers in order: 0 where the depths are equal, exact where both are finite, else
above every finite gap. -/
def depthGap (a b : Word) : FVal :=
  let x := fp32.decode a.toNat
  let y := fp32.decode b.toNat
  if depthLe b a then .fin false 0 0
  else if x.isNaN || y.isNaN || x.isInf || y.isInf then .inf false
  else vSum [y, x.flip]

/-- The least index of a least gap between neighbours. -/
def leastGap (ds : List Word) : Nat :=
  (((List.range (ds.length - 1)).map fun j => (j, depthGap (ds.getD j 0#32) (ds.getD (j + 1) 0#32))).foldl
    (fun (acc : Option (Nat × FVal)) x => match acc with
      | some y => if fOrder x.2 y.2 < 0 then some x else some y
      | .none => some x) .none).elim 0 (·.1)

/-- Merge a nearer and a farther layer (17 R484). -/
def mergeLayers (rule : Nat) (nn ff : Word × List Nat) : Word × List Nat :=
  let comp (mode : Nat) : List Nat := (List.range 4).map fun j =>
    mergeComp mode (nn.2.getD j 0) (ff.2.getD j 0) (nn.2.getD 3 0)
  match rule with
  | 0 => (nn.1, comp 1)
  | 1 => (nn.1, comp 2)
  | 2 => nn
  | _ => ff

/-! ### Reading a pixel -/

/-- What a lane's operation has read: the layers nearest first, the poison met. -/
structure GPixel where
  headVa : Nat
  layers : List GLayer
  poison : Option (Nat × Nat × Poison)
  deriving DecidableEq, Repr

/-- The address of a node, through the page table. -/
def State.nodeVa (s : State) (g : Group) (d : Glaze) (n : Nat) :
    Except FaultInfo (Nat × Option (Nat × Nat × Poison)) :=
  match s.engineRead g 2 (d.pages + 8 * (n / 4096)) 8 with
  | .error f => .error f
  | .ok (b, p) => .ok (leValue b + n % 4096 * 16, p)

/-- The nodes from one on; a walk stops after 16 (17 R486), and at a poisoned entry of the page table. -/
def State.walkNodes (s : State) (g : Group) (d : Glaze) :
    Nat → Nat → Except FaultInfo (List GLayer × Option (Nat × Nat × Poison))
  | 0, _ => .ok ([], .none)
  | fuel + 1, n =>
    if n = noNode then .ok ([], .none)
    else match s.nodeVa g d n with
      | .error f => .error f
      | .ok (_, some p) => .ok ([], some p)
      | .ok (va, .none) => match s.engineRead g 2 va 16 with
        | .error f => .error f
        | .ok (b, q) => match s.walkNodes g d fuel (fieldAt b 12 4) with
          | .error f => .error f
          | .ok (r, x) =>
            .ok (⟨n, BitVec.ofNat 32 (fieldAt b 0 4), (List.range 4).map fun j => fieldAt b (4 + 2 * j) 2⟩ :: r,
              match q with | some y => some y | .none => x)

/-- A lane's pixel of a glaze target. -/
def State.readPixel (s : State) (g : Group) (d : Glaze) (x y : Nat) : Except FaultInfo GPixel :=
  let va := d.heads + (y * d.w + x) * 4
  match s.engineRead g 2 va 4 with
  | .error f => .error f
  | .ok (b, p) => match s.walkNodes g d 16 (leValue b) with
    | .error f => .error f
    | .ok (l, q) => .ok ⟨va, l, match p with | some z => some z | .none => q⟩

/-! ### Writing a pixel -/

/-- The physical pieces of a write, page by page. -/
def State.writePieces (s : State) (g : Group) (va : Nat) (b : List Byte) : Except FaultInfo (List (Nat × List Byte)) :=
  let k := 4096 - va % 4096
  match s.xlateG g true va with
  | .error e => .error (e.info true va)
  | .ok t =>
    if b.length ≤ k then .ok [(t.phys va, b)]
    else match s.xlateG g true (va + k) with
      | .error e => .error (e.info true (va + k))
      | .ok t2 => .ok [(t.phys va, b.take k), (t2.phys (va + k), b.drop k)]
/-- All the writes of an operation, or none. -/
def State.writeAll (s : State) (g : Group) (ws : List (Nat × List Byte)) : Except FaultInfo State :=
  match ws.foldl (fun (acc : Except FaultInfo (List (Nat × List Byte))) w => match acc with
      | .error f => .error f
      | .ok l => match s.writePieces g w.1 w.2 with
        | .error f => .error f
        | .ok p => .ok (l ++ p)) (.ok []) with
  | .error f => .error f
  | .ok ps => .ok (ps.foldl (fun s p => s.homeWrite p.1 p.2) s)

/-- The writes of an operation, or the poison that it met instead. -/
abbrev GWrites := Except FaultInfo (List (Nat × List Byte) × Option (Nat × Nat × Poison))

/-- The writes that insert a fragment: a new node where the pixel has room, else the two nearest layers
merged in the nodes of the old list. -/
def State.insertWrites (s : State) (g : Group) (va : Nat) (d : Glaze) (px : GPixel) (z : Word) (c : List Nat) :
    GWrites :=
  let pos := px.layers.length - (px.layers.reverse.takeWhile fun l => !depthLe l.depth z).length
  let before := px.layers.take pos
  let after := px.layers.drop pos
  let place (l : GLayer) (link : Nat) (x : Word × List Nat) : Except FaultInfo (Nat × List Byte) :=
    match s.nodeVa g d l.node with
    | .error f => .error f
    | .ok (a, _) => .ok (a, nodeBytes x.1 x.2 link)
  if px.layers.length < d.limit then
    if d.nodes ≤ d.alloc then .error (.here 0x12 0)
    else
      let n := d.alloc
      let link := match after with | l :: _ => l.node | [] => noNode
      match s.nodeVa g d n with
      | .error f => .error f
      | .ok (a, q) =>
        let new := [(va, leBytes 4 (n + 1)), (a, nodeBytes z c link)]
        match before.getLast? with
        | .none => .ok (new ++ [(px.headVa, leBytes 4 n)], q)
        | some l => match place l n (l.depth, l.colour) with
          | .error f => .error f
          | .ok w => .ok (new ++ [w], q)
  else
    let all : List (Word × List Nat) := before.map (fun l => (l.depth, l.colour)) ++ [(z, c)] ++ after.map fun l => (l.depth, l.colour)
    let j := leastGap (all.map (·.1))
    let merged := mergeLayers d.rule (all.getD j (0#32, [])) (all.getD (j + 1) (0#32, []))
    let out := all.take j ++ [merged] ++ all.drop (j + 2)
    (List.range px.layers.length).foldl (fun (acc : GWrites) k => match acc with
      | .error f => .error f
      | .ok l =>
        let link := match px.layers[k + 1]? with | some m => m.node | .none => noNode
        match px.layers[k]? with
        | .none => .ok l
        | some m => match place m link (out.getD k (0#32, [])) with
          | .error f => .error f
          | .ok w => .ok (l.1 ++ [w], l.2)) (.ok ([], .none))

/-! ### The instructions (17 R485, R486) -/

/-- What a lane's operation leaves: the state, its words, and whether it is to write them. -/
structure GlzOut where
  state : State
  words : List Word
  poison : Option (Nat × Nat × Poison)

/-- A GLZ form: `op` acts for one lane, of a pixel inside the target; `empty` gives the words of a pixel
outside it, and of a lane that meets a poisoned descriptor, whose head then reads as none (DEDUCED from R131:
the bytes consumed read as 0xFF). -/
def glzRun (chks : List Chk) (sp : BitVec 7) (d n : Nat) (empty : Group → Nat → List Word)
    (op : State → Group → Nat → Glaze → GPixel → Nat → Except FaultInfo GlzOut) (s : State) :
    Host.Outcome State Fault Refusal :=
  boundRun ⟨.gfx, 1, chks⟩ (fun s i g bs =>
    let va := g.spAddr sp
    let s0 := s.commitEarly g.id.block
    let (s1, fs, res, met) := g.storeLanes.foldl
      (fun (acc : State × List (Nat × FaultInfo) × List (Nat × List Word) × Option (Except Unit (Nat × Nat × Poison))) l =>
        let (s, fs, res, met) := acc
        let fail (f : FaultInfo) := (s, fs ++ [(l, f)], res, met)
        match bs l, s.engineRead g 2 va 64 with
        | .none, _ => acc
        | _, .error f => fail f
        | some b, .ok (raw, p0) =>
          match p0 with
          | some x => (s, fs, res ++ [(l, empty g l)], match met with | some m => some m | .none => some (.ok x))
          | .none =>
          if !glazeOk raw then (s, fs, res, some (.error ()))
          else
            let gd := Glaze.parse raw
            if gd.w ≤ b.x ∨ gd.h ≤ b.y then (s, fs, res ++ [(l, empty g l)], met)
            else match s.readPixel g gd b.x b.y with
              | .error f => fail f
              | .ok px =>
                match op s g l gd px va with
                | .error f => fail f
                | .ok o => (o.state, fs, res ++ [(l, o.words)],
                    match met with | some m => some m | .none => o.poison.map fun x => .ok x)) (s0, [], [], .none)
    match met with
    | some (.error ()) => .trap (.here 0x02 sp.toNat)
    | _ =>
      let s2 := match met with | some (.ok x) => s1.consumeRead i (some x) | _ => s1
      let m := laneSet res
      let s3 := s2.modGroup i fun g => (List.range n).foldl (fun (g : Group) j =>
        g.writeLanes m (d + j) .none fun l => (laneWords res l).getD j 0#32) g
      lanesEnd s3 fs) s

/-- The service sub-core's line is sent home before it acts (09 R256). -/
def State.glzSend (s : State) (g : Group) (va : Nat) : State :=
  match s.xlateG g false va with
  | .ok t => s.sendLine (s.partOf g) g.loc.cell (t.phys va)
  | .error _ => s

/-- An operation that changes the pixel: nothing where poison was met. -/
def glzChange (s : State) (g : Group) (px : GPixel) (ws : List Word)
    (writes : GWrites) : Except FaultInfo GlzOut :=
  if px.poison.isSome then .ok ⟨s, ws, px.poison⟩
  else match writes with
    | .error f => .error f
    | .ok (_, some q) => .ok ⟨s, ws, some q⟩
    | .ok (l, .none) => match (s.glzSend g px.headVa).writeAll g l with
      | .error f => .error f
      | .ok s1 => .ok ⟨s1, ws, .none⟩

def execGlzInsert (z sp c : BitVec 7) (s : State) : Host.Outcome State Fault Refusal :=
  glzRun [.vgrp z.toNat 1 1, .cond (spOk sp) sp.toNat, .vgrp c.toNat 2 2] sp 0 0 (fun _ _ => [])
    (fun s g l d px va => glzChange s g px []
      (s.insertWrites g va d px (g.vlane z.toNat l) (g.colourOf c.toNat l))) s

def execGlzCount (d sp : BitVec 7) (s : State) : Host.Outcome State Fault Refusal :=
  glzRun [.vdst d.toNat 1 1, .cond (spOk sp) sp.toNat] sp d.toNat 1 (fun _ _ => [0#32])
    (fun s g _ _ px _ => .ok ⟨s.glzSend g px.headVa, [BitVec.ofNat 32 px.layers.length], px.poison⟩) s

/-- The three words of a layer: its depth and colour pairs; a missing one is at +∞ and zero. -/
def layerWords : Option GLayer → List Word
  | .none => [0x7F800000#32, 0#32, 0#32]
  | some l =>
    let c (j : Nat) : Nat := l.colour.getD j 0
    [l.depth, BitVec.ofNat 32 (c 0 + 65536 * c 1), BitVec.ofNat 32 (c 2 + 65536 * c 3)]

def execGlzRead (d sp i : BitVec 7) (s : State) : Host.Outcome State Fault Refusal :=
  glzRun [.vdst d.toNat 3 1, .cond (spOk sp) sp.toNat, .cond (decide (i.toNat ≤ 15)) i.toNat] sp d.toNat 3
    (fun _ _ => layerWords .none)
    (fun s g _ _ px _ => .ok ⟨s.glzSend g px.headVa, layerWords (px.layers[i.toNat]?), px.poison⟩) s

/-- The layers composed nearest first over a background (17 R485). -/
def resolve (layers : List (List Nat)) (back : List Nat) : List Word :=
  let one : FVal := .fin false 1 0
  let step (acc : List Nat) (l : List Nat) : List Nat :=
    let rest := vSum [one, (fp32.decode (acc.getD 3 0)).flip]
    (List.range 4).map fun j =>
      rneTo fp32 (exactSum [fp32.decode (acc.getD j 0), vMul (fp16.decode (l.getD j 0)) rest])
  let out := (step (layers.foldl step [0, 0, 0, 0]) back).map fun c => rneTo fp16 (fp32.decode c).exact
  [BitVec.ofNat 32 (out.getD 0 0 + 65536 * out.getD 1 0), BitVec.ofNat 32 (out.getD 2 0 + 65536 * out.getD 3 0)]

/-- RESOLVE, and the forms that clear the head. -/
def glzResolveRun (clear : Bool) (d sp b : BitVec 7) (s : State) : Host.Outcome State Fault Refusal :=
  glzRun [.vdst d.toNat 2 2, .cond (spOk sp) sp.toNat, .vgrp b.toNat 2 2] sp d.toNat 2
    (fun g l => resolve [] (g.colourOf b.toNat l))
    (fun s g l _ px _ =>
      let ws := resolve (px.layers.map (·.colour)) (g.colourOf b.toNat l)
      if clear then glzChange s g px ws (.ok ([(px.headVa, leBytes 4 noNode)], .none))
      else .ok ⟨s.glzSend g px.headVa, ws, px.poison⟩) s
def execGlzResolve (d sp b : BitVec 7) (s : State) : Host.Outcome State Fault Refusal := glzResolveRun false d sp b s
def execGlzResolveClr (d sp b : BitVec 7) (s : State) : Host.Outcome State Fault Refusal := glzResolveRun true d sp b s

def execGlzClear (sp : BitVec 7) (s : State) : Host.Outcome State Fault Refusal :=
  glzRun [.cond (spOk sp) sp.toNat] sp 0 0 (fun _ _ => [])
    (fun s g _ _ px _ => glzChange s g px [] (.ok ([(px.headVa, leBytes 4 noNode)], .none))) s

end Sys2Proof.Machine
end

