-- ==== Sys2Proof/Machine/Cont.lean ====
section
/-! DEFINITION. Captures into continuation records, CONT, major 0x0F, and the write of a result into a record
(07 R209 to R211, R216; 17 R491, R492). -/
namespace Sys2Proof.Machine
open Sys2Proof

/-- The address of word 0 of a lane's record: its record words follow the private words (07 R209). -/
def Group.recordBase (g : Group) (l : Nat) : Nat := g.privAddr l g.sr.privsize

/-- The registers that a LIVE word names. -/
def liveRegs (live : Word) : List Nat := Lanes.toList live

/-- The fault of a capture, before any effect (07 R210). -/
def State.captureFault (s : State) (g : Group) (live : Word) (res : List Nat) : Option FaultInfo :=
  let regs := liveRegs live ++ res
  let quadBroken := g.id.quadMode && (List.range 8).any fun q =>
    let n := ((List.range 4).filter fun j => g.ctl.act.has (4 * q + j)).length
    n != 0 && n != 4
  if g.trap.pstate == .handler || !g.ctl.stack.isEmpty || quadBroken || regs.any (fun r => decide (32 ≤ r ∨ 8 * g.id.vregs ≤ r))
      || decide (32 < (dedupNat regs).length) then some (.here 0x19 0)
  else
    let one (l : Nat) : Option FaultInfo := (List.range 36).findSome? fun w =>
      let va := g.recordBase l + 128 * w
      match s.xlateG g true va with
      | .error e => some (e.info true va)
      | .ok _ => .none
    g.ctl.act.toList.findSome? one

/-- A word of a record written at the home copy, with the poison that moves along. -/
def State.recordWord (s : State) (g : Group) (va : Nat) (x : Word) (p : Option Poison) : State :=
  match s.xlateG g true va with
  | .error _ => s
  | .ok t =>
    let s1 := s.homeWrite (t.phys va) (wordBytes x)
    match p with
    | some q => { s1 with memPoison := s1.memPoison.mark (t.phys va) q }
    | .none => s1

/-- The values of registers, the spilled ones from their slots, with the poison that moves along to their records; `none`
where the cell cache has no way for a slot. -/
def State.liveValues (s : State) (i : Nat) (regs : List Nat) :
    Except FaultInfo (Option (State × List (Nat × VVal × Option Poison))) :=
  regs.foldl (fun (acc : Except FaultInfo (Option (State × List (Nat × VVal × Option Poison)))) r => match acc with
    | .error f => .error f
    | .ok .none => .ok .none
    | .ok (some (s, l)) =>
      let x := (s.group i).vreg r
      if x.tag = 0 then .ok (some (s, l ++ [(r, x.val, x.poison.map (·.2))]))
      else match s.readSlot i r with
        | .error f => .error f
        | .ok .none => .ok .none
        | .ok (some y) => .ok (some (y.st, l ++ [(r, y.val, y.met.map (·.2.2))]))) (.ok (some (s, [])))

/-- A captured lane's record (07 R209): LIVE, KEY, the resume address with QUAD and HELPER, the thread
index, and the values. -/
def State.writeRecord (s : State) (g : Group) (live : Word) (vals : List (Nat × VVal × Option Poison)) (l : Nat) :
    State :=
  let base := g.recordBase l
  let resume := g.nextClause.toNat
  let flag (b : Bool) (n : Nat) : Nat := if b then n else 0
  let head : List Word :=
    [live, g.id.key.getD l 0#32,
     BitVec.ofNat 32 (resume % 2 ^ 32 + flag g.id.quadMode 2 + flag (g.ctl.helper.has l) 1),
     BitVec.ofNat 32 (g.id.tidx.getD l 0 * 65536 + resume / 2 ^ 32 % 65536)]
  let s1 := (List.range 4).foldl (fun s w => s.recordWord g (base + 128 * w) (head.getD w 0#32) .none) s
  (List.range vals.length).foldl (fun s j => match vals[j]? with
    | some (_, v, p) => s.recordWord g (base + 128 * (4 + j)) (v.lane l) p
    | .none => s) s1

/-- A captured lane's index entry. -/
def Group.indexEntry (g : Group) (heirs : List Nat) (ready : Bool) (l : Nat) : IndexEntry :=
  { block := g.id.block, seg := g.id.seg, tidx := g.id.tidx.getD l 0, resume := g.nextClause
    key := g.id.key.getD l 0#32, quad := g.id.quadMode, helper := g.ctl.helper.has l
    ticket := g.id.binds.getD l .none, pseq := g.id.pseq.getD l 0#32, ready := ready, cell := g.loc.cell
    acq := g.asy.acq, heirs := heirs }

/-- Threads leave their group for records and stay live: their barrier objects are left, and the group goes
on with what it has or ends as under TAIL (07 R207, R211; 13 R354). -/
def State.takeOut (s : State) (i : Nat) (m : Lanes) : State :=
  let g := s.group i
  let s1 := g.asy.subs.foldl (fun s e => s.bobjLeave i e.off m) s
  let s2 := s1.modGroup i fun g => g.loseLanes m
  let g2 := s2.group i
  if g2.ctl.live = 0#32 then (s2.endGroup i true).lateFaults i
  else s2.modGroup i (Group.unwind (s2.now g2) 34)

/-- A capture (07 R210, R211) of the active lanes into records of LIVE; `request` issues the request of a
continuation form, given each lane's record. -/
def captureRun (s : State) (i : Nat) (g : Group) (live : Word) (res : List Nat) (ready : Bool)
    (request : State → List (Nat × ContRef) → State) : Res :=
  match s.captureFault g live res with
  | some f => .trap f
  | .none =>
    if !g.regs.pend.isEmpty || (!ready && g.countFull 2) then .hold s
    else match s.liveValues i (liveRegs live) with
      | .error f => .trap f
      | .ok .none => .hold s
      | .ok (some (s, vals)) =>
        let lanes := g.ctl.act.toList
        let s1 := lanes.foldl (fun s l => s.writeRecord g live vals l) s
        let s2 := s1.modCell g.loc.cell fun c => { c with index := c.index ++ lanes.map (g.indexEntry (i :: g.asy.heirs) ready) }
        let refs := lanes.map fun l =>
          (l, (⟨g.loc.cell, g.id.block, g.id.seg, g.id.tidx.getD l 0, g.recordBase l, res, g.ctl.pc, i, g.asy.nextOp⟩ : ContRef))
        .moved ((request s2 refs).takeOut i g.ctl.act)

def execContKey (a : BitVec 7) (s : State) : Host.Outcome State Fault Refusal :=
  runIsa ⟨.cont, 1, [.vsrc a.toNat false]⟩ (fun s i g =>
    let key := (List.range 32).map fun l => if g.ctl.act.has l then g.opLane a.toNat 0#32 l else g.id.key.getD l 0#32
    .done (s.setGroup i { g with id := { g.id with key := key } })) s

def execRepack (c : BitVec 7) (s : State) : Host.Outcome State Fault Refusal :=
  runIsa ⟨.cont, 1, [.cond (decide (112 ≤ c.toNat ∧ c.toNat ≤ 119)) c.toNat]⟩ (fun s i g =>
    captureRun s i g (g.sreg (c.toNat - 112)) [] true fun s _ => s) s

/-! ### The write of a result (07 R211 step 5, R216) -/

/-- The index entry of a record becomes ready, on its cell or in its block's image. -/
def State.recordReady (s : State) (r : ContRef) : State :=
  let mark (l : List IndexEntry) : List IndexEntry := l.map fun e =>
    if e.block == r.block && e.seg == r.seg && e.tidx == r.tidx then { e with ready := true } else e
  let s1 : State := { s with cells := s.cells.map fun c => { c with index := mark c.index } }
  s1.modBlock r.block fun b => { b with image := b.image.map fun m => { m with index := mark m.index } }

/-- A thread is still held in its record. -/
def State.inRecord (s : State) (r : ContRef) : Bool :=
  let has (l : List IndexEntry) : Bool := l.any fun e => e.block == r.block && e.seg == r.seg && e.tidx == r.tidx
  s.cells.any (fun c => has c.index) || (match (s.block r.block).image with | some m => has m.index | .none => false)

/-- A record can no longer be written. -/
def State.recordGone (s : State) (g : Group) (base : Nat) : Bool :=
  (List.range 36).any fun j => match s.xlateG g true (base + 128 * j) with
    | .ok _ => false
    | .error _ => true

/-- CONT_RESULT_WRITE: once the regrouping unit has granted it, the result words go into the record as the values of the result registers, whose
LIVE bits are set, and the record is ready. One whose page is gone ends the block (07 R210). -/
def execContResultWrite (k : Nat) (s : State) : Host.Outcome State Fault Refusal :=
  .next (match s.contWrites[k]? with
    | .none => s
    | some w =>
      if !w.granted then s
      else
      let r := w.ref
      let s0 : State := { s with contWrites := s.contWrites.eraseIdx k }
      let g := s.group r.group
      let finish (s : State) : State :=
        if s.contWrites.any fun x => x.ref.group == r.group && x.ref.op == r.op then s
        else s.completeOp r.group r.op .none
      if !s.inRecord r then finish s0
      else if State.recordGone s g r.base then
        finish ((s0.faultRecord g (.here 0x19 0) 1 r.pc.toNat 0).endBlock r.block)
      else
        let at4 (j : Nat) : Word × Option Poison := match s.xlateG g false (r.base + 128 * j) with
          | .ok t =>
            let pa := t.phys (r.base + 128 * j)
            (bytesWord (s.homeRead pa 4), (s.memPoison.hit pa 4).map (·.2))
          | .error _ => (0#32, .none)
        let word (j : Nat) : Word := (at4 j).1
        let old := liveRegs (word 0)
        let value (n : Nat) : Word × Option Poison := match findIdx' (· == n) r.regs with
          | some j => (w.vals.getD j 0#32, .none)
          | .none => at4 (4 + (findIdx' (· == n) old).getD 0)
        let live := word 0 ||| Lanes.ofFn 32 fun n => r.regs.contains n
        let regs := liveRegs live
        let s1 := s0.recordWord g r.base live .none
        let s2 := (List.range regs.length).foldl (fun s j =>
          s.recordWord g (r.base + 128 * (4 + j)) (value (regs.getD j 0)).1 (value (regs.getD j 0)).2) s1
        finish (s2.recordReady r))

end Sys2Proof.Machine
end

