-- ==== Sys2Proof/Machine/Texture.lean ====
section
/-! DEFINITION. TEX, major 0x0D (17 R487 to R491): requests are taken at issue and performed by the texture
unit at TEX_COMPLETE. -/
namespace Sys2Proof.Machine
open Sys2Proof

/-! ### The descriptor (17 R487) -/

/-- A texture descriptor's fields. -/
structure Texture where
  base : Nat
  w : Nat
  h : Nat
  levels : Nat
  fmt : Nat
  filter : Nat
  wrap : Nat
  border : List Nat
  deriving DecidableEq, Repr

def Texture.parse (b : List Byte) : Texture :=
  ⟨fieldAt b 0 8, fieldAt b 8 2, fieldAt b 0xA 2, fieldAt b 0xC 1, fieldAt b 0xD 1, fieldAt b 0xE 1, fieldAt b 0xF 1,
    (List.range 4).map fun i => fieldAt b (0x10 + 2 * i) 2⟩
def textureOk (b : List Byte) : Bool :=
  let d := Texture.parse b
  decide (d.base % 256 = 0) && decide (1 ≤ d.w ∧ d.w ≤ 16384) && decide (1 ≤ d.h ∧ d.h ≤ 16384)
  && decide (1 ≤ d.levels ∧ d.levels ≤ 15) && decide (d.fmt ≤ 5) && decide (d.filter < 16) && decide (d.wrap < 16)
  && fieldAt b 0x18 8 == 0

def Texture.width (d : Texture) (l : Nat) : Nat := max 1 (d.w / 2 ^ l)
def Texture.height (d : Texture) (l : Nat) : Nat := max 1 (d.h / 2 ^ l)
def Texture.texelBytes (d : Texture) : Nat := [4, 4, 8, 4, 4, 1].getD d.fmt 4
def Texture.pitch (d : Texture) (l : Nat) : Nat := roundUp (d.width l * d.texelBytes) 256
/-- Where a level lies: after all the earlier ones. -/
def Texture.levelVa (d : Texture) (l : Nat) : Nat :=
  d.base + ((List.range l).map fun j => d.pitch j * d.height j).foldl (· + ·) 0

/-- The denominator of a format's components: they are kept as multiples of its reciprocal. -/
def Texture.denom (d : Texture) : Nat := if d.fmt = 0 ∨ d.fmt = 1 ∨ d.fmt = 5 then 255 else 1
/-- The components R, G, B, A of a texel's bytes, times the denominator. -/
def Texture.comps (d : Texture) (b : List Byte) : List FVal :=
  let int (n : Nat) : FVal := .fin false n 0
  let one := int d.denom
  let zero := int 0
  let h (i : Nat) : FVal := fp16.decode (fieldAt b (2 * i) 2)
  let u (i : Nat) : FVal := int (fieldAt b i 1)
  match d.fmt with
  | 0 => [u 0, u 1, u 2, u 3]
  | 1 => [u 2, u 1, u 0, u 3]
  | 2 => [h 0, h 1, h 2, h 3]
  | 3 => [h 0, h 1, zero, one]
  | 4 => [fp32.decode (leValue b), zero, zero, one]
  | _ => [u 0, zero, zero, one]
/-- BORDER in the same units. -/
def Texture.borderComps (d : Texture) : List FVal := d.border.map fun x => vMul (fp16.decode x) (intV d.denom)

/-! ### The texture cache (09 R251, R261) -/

/-- What reads through the texture cache have met: the first poison, with its virtual and physical address, and the
virtual and physical address of each piece read. -/
structure Met where
  poison : Option (Nat × Nat × Poison)
  seen : List (Nat × Nat)
  deriving DecidableEq, Repr
def Met.none : Met := ⟨Option.none, []⟩
def Met.isNone (m : Met) : Bool := m.poison.isNone
def Met.or (a b : Met) : Met := ⟨first a.poison b.poison, a.seen ++ b.seen⟩

/-- Bytes read by the texture or intersection unit for a group, page by page. -/
def State.texRead (s : State) (g : Group) : Nat → Nat → Nat → Except FaultInfo (List Byte × Met)
  | 0, _, _ => .ok ([], .none)
  | fuel + 1, va, n =>
    if n = 0 then .ok ([], .none)
    else
      let k := min n (4096 - va % 4096)
      match s.xlateG g false va with
      | .error e => .error (e.info false va)
      | .ok t => match s.texRead g fuel (va + k) (n - k) with
        | .error e => .error e
        | .ok (r, m) =>
          let pa := t.phys va
          let tex := (s.window (s.partOf g) g.loc.cell).tex
          let at' (j : Nat) : Byte × Option Poison := s.throughCache tex 0 (pa + j)
          let q := (List.range k).findSome? fun j => (at' j).2.map fun p => (va + j, pa + j, p)
          .ok (poisonedBytes (fun j => (at' j).2.isSome) ((List.range k).map fun j => (at' j).1) ++ r,
            Met.or ⟨q, ((List.range k).filter fun j => j == 0 || (pa + j) % 32 == 0).map fun j => (va + j, pa + j)⟩ m)

/-- What the unit's reads leave in the TLBs and in the cell's texture cache. -/
def State.texSeen (s : State) (g : Group) (m : Met) : State :=
  let (k, s1) := (m.seen.foldl (fun s x => (s.useG g x.1).hubUse false (x.2 / 32 * 32) 32) s).free
  s1.modWindow (s1.partOf g) g.loc.cell fun w => { w with tex := s1.cacheFill w.tex 0 (m.seen.map (·.2)) k }

/-! ### Texels -/

/-- What fetching texels has met: the first fault, and what the reads met. -/
structure TexSt where
  fault : Option FaultInfo
  met : Met
  deriving DecidableEq, Repr

/-- An index wrapped (17 R487): none is the border. -/
def wrapIndex (mode n : Nat) (i : Int) : Option Nat :=
  let k : Int := n
  match mode with
  | 0 => some (i % k).toNat
  | 1 => some (max 0 (min (k - 1) i)).toNat
  | 2 => let j := i % (2 * k); some (if j < k then j else 2 * k - 1 - j).toNat
  | _ => if 0 ≤ i ∧ i < k then some i.toNat else .none

/-- A texel of a level. -/
def State.texel (s : State) (g : Group) (d : Texture) (l x y : Nat) (st : TexSt) : List FVal × TexSt :=
  let va := d.levelVa l + y * d.pitch l + x * d.texelBytes
  match s.texRead g 2 va d.texelBytes with
  | .error f => (List.replicate 4 (.fin false 0 0), { st with fault := first st.fault (some f) })
  | .ok (b, m) => (d.comps b, { st with met := st.met.or m })
/-- A texel by its indices before wrapping. -/
def State.wrapped (s : State) (g : Group) (d : Texture) (l : Nat) (i j : Int) (st : TexSt) : List FVal × TexSt :=
  match wrapIndex (d.wrap % 4) (d.width l) i, wrapIndex (d.wrap / 4) (d.height l) j with
  | some x, some y => s.texel g d l x y st
  | _, _ => (d.borderComps, st)

/-! ### Coordinates and level of detail (17 R489) -/

/-- The floor of 256 times a value; the spec states none for a NaN or an infinity (assumption 21). -/
def floor256 (x : FVal) (seed : Nat) : Int :=
  match x with
  | .fin n m e =>
    let (a, b) := inUnits m 1 (e + 8) 0
    let v : Int := if n then -(a : Int) else a
    v.fdiv b
  | _ => signedOf 32 (Config.freeSpecial 100 0 seed)
/-- A coordinate times a size, in 1/256 of a texel. -/
def texCoord (u : Word) (n : Nat) : Int := floor256 (vMul (fp32.decode u.toNat) (intV n)) u.toNat

/-- The implicit level of detail of a lane, from its quad's coordinates. -/
def TexReq.implicit (r : TexReq) (d : Texture) (l : Nat) (bias : Word) : Word :=
  let sx (j : Nat) : FVal := vMul (fp32.decode (r.u.getD j 0#32).toNat) (intV d.w)
  let sy (j : Nat) : FVal := vMul (fp32.decode (r.v.getD j 0#32).toNat) (intV d.h)
  let diff (f : Nat → FVal) (m : Nat) : FVal :=
    let hi := l ||| m
    let lo := hi - m
    let there (j : Nat) : Bool := j == l || r.act.has j
    if there hi && there lo then vSum [f hi, (f lo).flip] else .fin false 0 0
  let sq (m : Nat) : FVal :=
    let a := diff sx m
    let b := diff sy m
    vSum [vMul a a, vMul b b]
  let p := sq 1
  let q := sq 2
  let m := if p.isNaN then p else if q.isNaN then q else if fOrder p q < 0 then q else p
  let log := (fSpecial fp32 0 4 (rneTo fp32 m.exact)).1
  rne32 (exactSum [vMul (.fin false 1 (-1)) (fp32.decode log), fp32.decode bias.toNat])

/-- λ limited to the levels, in 1/256. -/
def clampLod (d : Texture) (x : Word) : Nat :=
  let top := 256 * (d.levels - 1)
  match fp32.decode x.toNat with
  | .nan _ => Config.freeSpecial 101 0 x.toNat % (top + 1)
  | .inf n => if n then 0 else top
  | v => (max 0 (min (top : Int) (floor256 v 0))).toNat

/-- The levels to sample with their weights in 1/256. -/
def Texture.levelsAt (d : Texture) (lc : Nat) : List (Nat × Nat) :=
  if !bit d.filter 2 then [(0, 256)]
  else if !bit d.filter 3 then [((lc + 128) / 256, 256)]
  else
    let l := lc / 256
    let f := lc % 256
    if f = 0 ∨ d.levels ≤ l + 1 then [(l, 256)] else [(l, 256 - f), (l + 1, f)]

/-- The texels of one level with their weights in 1/65536, nearest or linear. -/
def texelsAt (linear : Bool) (x y : Int) : List (Int × Int × Nat) :=
  if linear then
    let x := x - 128
    let y := y - 128
    let fx := (x % 256).toNat
    let fy := (y % 256).toNat
    ([(0, 0, (256 - fx) * (256 - fy)), (1, 0, fx * (256 - fy)), (0, 1, (256 - fx) * fy), (1, 1, fx * fy)] :
      List (Int × Int × Nat)).filterMap fun (i, j, w) =>
        if w = 0 then .none else some (x.fdiv 256 + i, y.fdiv 256 + j, w)
  else [(x.fdiv 256, y.fdiv 256, 65536)]

/-- A component from its numerator, rounded once. -/
def Texture.deliver (d : Texture) (f16 : Bool) (x : FVal) : Word :=
  BitVec.ofNat 32 (rneTo (if f16 then fp16 else fp32) (vDiv x (intV d.denom)))
/-- Result words: four FP32 values or two FP16 pairs. -/
def packTexels (f16 : Bool) (w : List Word) : List Word :=
  let c (i : Nat) : Nat := (w.getD i 0#32).toNat
  if f16 then [BitVec.ofNat 32 (c 0 + 65536 * c 1), BitVec.ofNat 32 (c 2 + 65536 * c 3)] else w

/-- The result of a lane. -/
def State.texLane (s : State) (g : Group) (r : TexReq) (d : Texture) (l : Nat) : List Word × TexSt :=
  let u := r.u.getD l 0#32
  let v := r.v.getD l 0#32
  let op := r.lod.getD l 0#32
  let st0 : TexSt := ⟨.none, .none⟩
  if r.fn = 1 then
    if d.levels ≤ op.toNat || decide (u.toInt < 0 ∨ v.toInt < 0) || decide (d.width op.toNat ≤ u.toNat)
        || decide (d.height op.toNat ≤ v.toNat) then (packTexels r.f16 (List.replicate 4 0#32), st0)
    else
      let (c, st) := s.texel g d op.toNat u.toNat v.toNat st0
      (packTexels r.f16 (c.map (d.deliver r.f16)), st)
  else
    let lam := if r.lodm = 1 then op else r.implicit d l (if r.lodm = 2 then op else 0#32)
    let lc := clampLod d lam
    if r.fn = 3 then ([rne32 (FVal.fin false lc (-8)).exact, lam], st0)
    else if r.fn = 2 then
      let lv := if bit d.filter 2 then (lc + 128) / 256 else 0
      let i := (texCoord u (d.width lv) - 128).fdiv 256
      let j := (texCoord v (d.height lv) - 128).fdiv 256
      let (cs, st) := ([(0, 0), (1, 0), (0, 1), (1, 1)] : List (Int × Int)).foldl (fun (acc : List FVal × TexSt) o =>
        let (c, st) := s.wrapped g d lv (i + o.1) (j + o.2) acc.2
        (acc.1 ++ [c.getD r.comp (.fin false 0 0)], st)) ([], st0)
      (packTexels r.f16 (cs.map (d.deliver r.f16)), st)
    else
      let mag := match fp32.decode lam.toNat with
        | .nan _ => false
        | x => decide (fOrder x (.fin false 0 0) ≤ 0)
      let linear := bit d.filter (if mag then 0 else 1)
      let terms := (d.levelsAt lc).flatMap fun (lv, wl) =>
        (texelsAt linear (texCoord u (d.width lv)) (texCoord v (d.height lv))).map fun (i, j, w) => (lv, i, j, w * wl)
      let (ts, st) := terms.foldl (fun (acc : List (List FVal) × TexSt) (x : Nat × Int × Int × Nat) =>
        let (c, st) := s.wrapped g d x.1 x.2.1 x.2.2.1 acc.2
        (acc.1 ++ [c.map fun y => vMul y (.fin false x.2.2.2 (-24))], st)) ([], st0)
      let sum (k : Nat) : FVal := vSum (ts.map fun c => c.getD k (.fin false 0 0))
      (packTexels r.f16 ((List.range 4).map fun k => d.deliver r.f16 (sum k)), st)

/-! ### Requests -/

/-- The registers of a form's result. -/
def texRegs (fn : Nat) (f16 : Bool) : Nat := if f16 || fn == 3 then 2 else 4

/-- A pending result of an operation: the registers it will write in the active lanes. -/
def Group.addOpPend (g : Group) (d n op : Nat) : Group :=
  g.withRegs fun r => { r with pend := r.pend ++
    [{ regs := (List.range n).map fun j => d + j, vals := [], lanes := g.ctl.act, uniform := false, ready := false
       kind := .op op, poison := .none }] }

/-- A request at its issue. -/
def texReq (g : Group) (i fn : Nat) (f16 : Bool) (comp lodm desc : Nat) (a c : BitVec 7) (cont : List (Nat × ContRef)) :
    TexReq :=
  { group := i, op := g.asy.nextOp, fn := fn, f16 := f16, comp := comp, lodm := lodm, desc := desc, lanes := g.ctl.act
    act := g.ctl.act
    u := (List.range 32).map fun l => g.vlane a.toNat l
    v := (List.range 32).map fun l => g.vlane (a.toNat + 1) l
    lod := (List.range 32).map fun l => if lodm = 0 then 0#32 else g.opLane c.toNat 0#32 l, cont := cont, granted := false }

/-- A difference of the implicit level of detail lacks a neighbour: DERIV (14 R401). -/
def Group.markDeriv (g : Group) (implicit : Bool) : Group :=
  let lacks := g.ctl.act.toList.any fun l => !(g.ctl.act.has (l ^^^ 1)) || !(g.ctl.act.has (l ^^^ 2))
  if implicit && lacks then g.withSr fun r => { r with derivflag := r.derivflag ||| 1#32 } else g

/-- A TEX form: `fn` 0 to 3, with a capture in a .C form. -/
def texRun (fn : Nat) (capture : Bool) (d a : BitVec 7) (b : BitVec 8) (cm : BitVec 2) (f : BitVec 1) (lm : BitVec 2)
    (c : BitVec 7) (s : State) : Host.Outcome State Fault Refusal :=
  let n := texRegs fn (f == 1#1)
  let implicit := lm != 1#2
  runIsa ⟨.gfx, 2, [if capture then .cond (decide (d.toNat % n = 0 ∧ d.toNat < 112)) d.toNat else .vdst d.toNat n n,
      .vgrp a.toNat 2 1, .cond (decide (b.toNat % 2 = 0 ∧ b.toNat ≤ 252)) b.toNat]
      ++ if lm = 0#2 then [] else [.vsrc c.toNat false]⟩ (fun s i g =>
    let desc := (g.spair b.toNat).toNat
    let send (s : State) (cont : List (Nat × ContRef)) : State :=
      let s1 := s.modGroup i fun g => (g.issueOp 2 0 .none).markDeriv implicit
      { s1 with texs := s1.texs ++ [texReq g i fn (f == 1#1) cm.toNat lm.toNat desc a c cont] }
    if capture then
      captureRun s i g (g.sreg (b.toNat + 2)) ((List.range n).map fun j => d.toNat + j) false send
    else if g.countFull 2 then .hold s
    else .done ((send s []).modGroup i fun g => g.addOpPend d.toNat n (g.asy.nextOp - 1))) s

def execTexSample (d a : BitVec 7) (b : BitVec 8) (cm : BitVec 2) (f : BitVec 1) (lm : BitVec 2) (c : BitVec 7)
    (s : State) : Host.Outcome State Fault Refusal := texRun 0 false d a b cm f lm c s
def execTexLoad (d a : BitVec 7) (b : BitVec 8) (cm : BitVec 2) (f : BitVec 1) (lm : BitVec 2) (c : BitVec 7)
    (s : State) : Host.Outcome State Fault Refusal := texRun 1 false d a b cm f lm c s
def execTexGather4 (d a : BitVec 7) (b : BitVec 8) (cm : BitVec 2) (f : BitVec 1) (lm : BitVec 2) (c : BitVec 7)
    (s : State) : Host.Outcome State Fault Refusal := texRun 2 false d a b cm f lm c s
def execTexLod (d a : BitVec 7) (b : BitVec 8) (cm : BitVec 2) (f : BitVec 1) (lm : BitVec 2) (c : BitVec 7)
    (s : State) : Host.Outcome State Fault Refusal := texRun 3 false d a b cm f lm c s
def execTexSampleC (d a : BitVec 7) (b : BitVec 8) (cm : BitVec 2) (f : BitVec 1) (lm : BitVec 2) (c : BitVec 7)
    (s : State) : Host.Outcome State Fault Refusal := texRun 0 true d a b cm f lm c s
def execTexLoadC (d a : BitVec 7) (b : BitVec 8) (cm : BitVec 2) (f : BitVec 1) (lm : BitVec 2) (c : BitVec 7)
    (s : State) : Host.Outcome State Fault Refusal := texRun 1 true d a b cm f lm c s
def execTexGather4C (d a : BitVec 7) (b : BitVec 8) (cm : BitVec 2) (f : BitVec 1) (lm : BitVec 2) (c : BitVec 7)
    (s : State) : Host.Outcome State Fault Refusal := texRun 2 true d a b cm f lm c s
def execTexLodC (d a : BitVec 7) (b : BitVec 8) (cm : BitVec 2) (f : BitVec 1) (lm : BitVec 2) (c : BitVec 7)
    (s : State) : Host.Outcome State Fault Refusal := texRun 3 true d a b cm f lm c s

/-! ### Completion -/

/-- The result of an operation is ready to land in its group's registers, with the fault kept for the first
instruction that waits on the operation (17 R490). -/
def State.opResult (s : State) (i op : Nat) (vals : Nat → List Word) (f : Option FaultInfo)
    (q : Option (Nat × Nat × Poison)) : State :=
  let pp : Option PendPoison := q.map fun x => ⟨x.2.2, x.1, x.2.1⟩
  let fill (p : Pend) : Pend :=
    if p.kind == .op op then
      { p with ready := true, poison := pp, vals := (List.range 32).map fun l => if p.lanes.has l then vals l else [] }
    else p
  let note (o : OpRec) : OpRec := if o.id == op then { o with fault := f } else o
  s.modGroup i fun g =>
    (g.withRegs fun r => { r with pend := r.pend.map fill }).withAsy fun a => { a with ops := a.ops.map note }

/-- The results of a continuation form, on their way to their records; a fault goes to the domain of the
block with the capturing instruction's PC, and poison is consumed there (17 R490). -/
def State.contResult (s : State) (cont : List (Nat × ContRef)) (vals : Nat → List Word) (f : Option FaultInfo)
    (q : Option (Nat × Nat × Poison)) : State :=
  let s1 : State := { s with contWrites := s.contWrites ++ cont.map fun (l, r) => ⟨r, vals l, false⟩ }
  match cont with
  | [] => s1
  | (_, r) :: _ =>
    let g := s1.group r.group
    let s2 := match q with
      | some (va, pa, p) =>
        if (s1.block g.id.block).terminated then s1 else s1.uncorrectable r.group [(uncorrectableInfo p va pa, 0)] r.pc
      | .none => s1
    match f with
    | .none => s2
    | some x =>
      if (s2.block g.id.block).terminated then s2
      else if handlerClass x.code then s2.faultRecord g x 0xFF r.pc.toNat 0
      else s2.domainFault r.group x 0#32 r.pc

/-- TEX_COMPLETE: the texture unit performs a request that it has granted (17 R489). -/
def execTexComplete (k : Nat) (s : State) : Host.Outcome State Fault Refusal :=
  .next (match s.texs[k]? with
    | .none => s
    | some r =>
      if !r.granted then s
      else
      let g := s.group r.group
      let s0 : State := { s with texs := s.texs.eraseIdx k }
      let lanes := r.lanes.toList
      let zeros := List.replicate (texRegs r.fn r.f16) 0#32
      let (vals, fs, q) : List (Nat × List Word) × List (Nat × FaultInfo) × Met :=
        match s.texRead g 2 r.desc 32 with
        | .error f => (lanes.map fun l => (l, zeros), lanes.map fun l => (l, f), .none)
        | .ok (b, p0) =>
          if !p0.isNone then (lanes.map fun l => (l, zeros), [], p0)
          else if !textureOk b then (lanes.map fun l => (l, zeros), lanes.map fun l => (l, .here 0x02 0), .none)
          else lanes.foldl (fun (acc : List (Nat × List Word) × List (Nat × FaultInfo) × Met) l =>
            let (w, st) := s.texLane g r (Texture.parse b) l
            match st.fault with
            | some f => (acc.1 ++ [(l, zeros)], acc.2.1 ++ [(l, f)], ⟨acc.2.2.poison, acc.2.2.seen ++ st.met.seen⟩)
            | .none => (acc.1 ++ [(l, w)], acc.2.1, acc.2.2.or st.met)) ([], [], p0)
      let f := (pickFault fs).map (·.1)
      let s1 := s0.texSeen g q
      if r.cont.isEmpty then s1.opResult r.group r.op (laneWords vals) f q.poison
      else s1.contResult r.cont (laneWords vals) f q.poison)

end Sys2Proof.Machine
end

