-- ==== Sys2Proof/Machine/Trace.lean ====
section
/-! DEFINITION. TRACE, major 0x0E, and the intersection unit (17 R493 to R500). -/
namespace Sys2Proof.Machine
open Sys2Proof

/-! ### Micro-programs (17 R496 to R498) -/

/-- A triple register, as FP32 bit patterns. -/
abbrev Triple := Nat × Nat × Nat
def Triple.at (t : Triple) (i : Nat) : Nat := if i = 0 then t.1 else if i = 1 then t.2.1 else t.2.2
/-- A triple made component by component. -/
def triple (f : Nat → Nat) : Triple := (f 0, f 1, f 2)
/-- The components in a rotation: xyz, yzx or zxy. -/
def Triple.rot (t : Triple) (r : Nat) : Triple := triple fun i => t.at ((i + r) % 3)

def fpv (x : Nat) : FVal := fp32.decode x
/-- a ≤ b; false for a NaN. -/
def fLe (a b : FVal) : Bool := !a.isNaN && !b.isNaN && decide (fOrder a b ≤ 0)
/-- The quotient of a micro-operation, with the infinities and NaNs of division. -/
def quot (a b : FVal) : Exact :=
  if a.isNaN || b.isNaN || (a.isInf && b.isInf) || (a.isZero && b.isZero) then .nan true
  else if a.isInf || b.isZero then .inf (a.neg != b.neg) false
  else if b.isInf || a.isZero then .zero (a.neg != b.neg)
  else vDiv a b
/-- The square root of a positive finite value to 200 bits and a sticky bit. -/
def rootOf (m : Nat) (e : Int) : FVal :=
  let (m, e) := if e % 2 = 0 then (m, e) else (2 * m, e - 1)
  let w := m * 2 ^ 400
  let r := isqrt w
  .fin false (2 * r + if r * r = w then 0 else 1) (e / 2 - 201)
/-- 1 ÷ √x, rounded once. -/
def rsqRne (x : Nat) : Nat :=
  match fpv x with
  | .nan _ => fp32.canonNaN
  | .inf n => if n then fp32.canonNaN else 0
  | .fin n m e =>
    if m = 0 then fp32.signBit n + fp32.infCode
    else if n then fp32.canonNaN
    else match rootOf m e with
      | .fin _ r q => rneTo fp32 (.num false 1 r (-q))
      | _ => 0

/-- A micro-step's fields. -/
structure Micro where
  op : Nat
  dm : Nat
  am : Nat
  bm : Nat
  cm : Nat
  rotA : Nat
  rotB : Nat
  negC : Bool
  dc : Nat
  last : Bool
  rsv : Nat
  aux : Nat
  deriving DecidableEq, Repr

def Micro.parse (w : Nat) : Micro :=
  ⟨bits w 63 59, bits w 58 54, bits w 53 49, bits w 48 44, bits w 43 39, bits w 38 37, bits w 36 35, bit w 34, bits w 33 32,
    bit w 31, bits w 30 8, bits w 7 0⟩

/-- The steps of a program up to its last; none where no step is marked last. -/
def programGo : List Micro → Option (List Micro)
  | [] => .none
  | m :: r => if m.last then some [m] else (programGo r).map (m :: ·)
/-- A step that R496 allows, on items of `n` bytes. -/
def Micro.ok (n : Nat) (m : Micro) : Bool :=
  decide (m.op ≤ 10) && m.rsv == 0 && decide (m.rotA ≠ 3 ∧ m.rotB ≠ 3)
  && (m.op == 10 || decide (8 ≤ m.dm)) && (m.op != 10 || decide (m.aux ≤ 2))
  && (m.op != 9 || (decide (m.dm ≤ 28) && m.aux % 16 == 0 && decide (m.aux + 48 ≤ n)))

/-- Twelve bytes as a triple. -/
def tripleAt (b : List Byte) (i : Nat) : Triple := triple fun j => fieldAt b (12 * i + 4 * j) 4

/-- The registers at the start of a run (17 R497). -/
def microStart (ray : List Word) (tbest : Word) (item : List Byte) : List Triple :=
  let r (i : Nat) : Nat := (ray.getD i 0#32).toNat
  let o := triple fun i => r i
  let d := triple fun i => r (4 + i)
  let inv := triple fun i => (fSpecial fp32 0 0 (d.at i)).1
  let neg := triple fun i => rneTo fp32 (vMul (fpv (o.at i)) (fpv (inv.at i))).flip.exact
  let one := 0x3F800000
  [o, d, inv, neg, (r 3, tbest.toNat, 0), (0, 0, 0), (0, 0, 0), (one, one, one)]
  ++ ((List.range 4).map fun i => tripleAt item i) ++ List.replicate 20 (0, 0, 0)

/-- MIN or MAX of two elements (14 R384). -/
def microMinMax (big : Bool) (a b : Nat) : Nat := (fMinMax fp32 big a b).1

/-- One step: the registers after it and the emissions it makes (t, u, v). -/
def Micro.run (m : Micro) (item : List Byte) (regs : List Triple) : List Triple × List (Nat × Nat × Nat) :=
  let reg (i : Nat) : Triple := regs.getD i (0, 0, 0)
  let a := (reg m.am).rot m.rotA
  let b := (reg m.bm).rot m.rotB
  let c : Triple := if m.negC then triple fun i => (reg m.cm).at i ^^^ 0x80000000 else reg m.cm
  let write (v : Triple) : List Triple :=
    regs.set m.dm (triple fun i => if m.dc = 0 ∨ m.dc = i + 1 then v.at i else (reg m.dm).at i)
  let all (x : Nat) : Triple := triple fun _ => x
  let h (big : Bool) : Nat := [a.at 1, a.at 2, b.at 0].foldl (microMinMax big) (a.at 0)
  let one := 0x3F800000
  match m.op with
  | 0 => (write (triple fun i => rneTo fp32 (exactFma (fpv (a.at i)) (fpv (b.at i)) (fpv (c.at i)))), [])
  | 1 => (write (triple fun i => microMinMax false (a.at i) (b.at i)), [])
  | 2 => (write (triple fun i => microMinMax true (a.at i) (b.at i)), [])
  | 3 => (write (all (h false)), [])
  | 4 => (write (all (h true)), [])
  | 5 => (write (all (rneTo fp32 (quot (vSum ((List.range 3).map fun i => vMul (fpv (a.at i)) (fpv (b.at i))))
      (fpv (c.at 0))))), [])
  | 6 => (write (triple fun i => if bit m.aux 0 then rsqRne (a.at i) else (fSpecial fp32 0 0 (a.at i)).1), [])
  | 7 => (write (triple fun i => if (fpv (c.at i)).isZero then b.at i else a.at i), [])
  | 8 => (write (triple fun i => if fLe (fpv (a.at i)) (fpv (b.at i)) then one else 0), [])
  | 9 => ((List.range 4).foldl (fun (r : List Triple) i => r.set (m.dm + i) (tripleAt (item.drop m.aux) i)) regs, [])
  | _ =>
    let tm := reg 4
    let emits : List (Nat × Nat × Nat) := match m.aux with
      | 0 => if (fpv (a.at 0)).isZero then [] else [(b.at 0, b.at 1, b.at 2)]
      | 1 =>
        let u := fpv (a.at 0)
        let v := fpv (a.at 1)
        let t := fpv (a.at 2)
        let zero : FVal := .fin false 0 0
        if fLe zero u && fLe zero v && fLe (vSum [u, v]) (.fin false 1 0) && fLe (fpv (tm.at 0)) t
            && fLe t (fpv (tm.at 1)) then [(a.at 2, a.at 0, a.at 1)] else []
      | _ =>
        let far := [b.at 0, b.at 1, b.at 2].foldl (microMinMax false) (tm.at 1)
        if fLe (fpv (a.at 0)) (fpv far) then [(a.at 0, 0, 0)] else []
    (regs, emits)

/-! ### The sphere and curve programs (17 R500) -/

/-- A value rounded once to FP32. -/
def r32 (x : FVal) : FVal := fpv (rneTo fp32 x.exact)
/-- An exact dot product of vectors. -/
def dotV (a b : List FVal) : FVal := vSum ((List.range 3).map fun i => vMul (a.getD i (.fin false 0 0)) (b.getD i (.fin false 0 0)))
def subV (a b : List FVal) : List FVal :=
  (List.range 3).map fun i => r32 (vSum [a.getD i (.fin false 0 0), (b.getD i (.fin false 0 0)).flip])
/-- disc × rsq(disc) for disc ≥ 0, exact but for a sticky bit; the spec states no value at 0 (assumption 22). -/
def rootTerm (disc : FVal) (seed : Nat) : FVal :=
  match disc with
  | .fin _ m e => if m = 0 then fpv (Config.freeSpecial 104 0 seed) else rootOf m e
  | x => x
/-- A quotient rounded once, as an encoding. -/
def q32 (a b : FVal) : Nat := rneTo fp32 (quot a b)

def sphereRun (ray : List Word) (tbest : Word) (item : List Byte) : List (Nat × Nat × Nat) :=
  let w (i : Nat) : FVal := fpv (fieldAt item (4 * i) 4)
  let r (i : Nat) : FVal := fpv (ray.getD i 0#32).toNat
  let o := [r 0, r 1, r 2]
  let d := [r 4, r 5, r 6]
  let oc := subV o [w 0, w 1, w 2]
  let b := r32 (dotV oc d)
  let a := r32 (dotV d d)
  let k := r32 (vSum [dotV oc oc, (vMul (w 3) (w 3)).flip])
  let disc := r32 (vSum [vMul b b, (vMul a k).flip])
  let h := r32 (rootTerm disc (rneTo fp32 b.exact))
  let t := q32 (vSum [b.flip, h.flip]) a
  if fLe (.fin false 0 0) disc && fLe (r 3) (fpv t) && fLe (fpv t) (fpv tbest.toNat) then [(t, 0, 0)] else []

def curveRun (ray : List Word) (tbest : Word) (item : List Byte) : List (Nat × Nat × Nat) :=
  let w (i : Nat) : FVal := fpv (fieldAt item (4 * i) 4)
  let r (i : Nat) : FVal := fpv (ray.getD i 0#32).toNat
  let o := [r 0, r 1, r 2]
  let d := [r 4, r 5, r 6]
  let p0 := [w 0, w 1, w 2]
  let ax := subV [w 3, w 4, w 5] p0
  let oc := subV o p0
  let aa := r32 (dotV ax ax)
  let ad := r32 (dotV ax d)
  let ao := r32 (dotV ax oc)
  let qa := r32 (vSum [vMul aa (dotV d d), (vMul ad ad).flip])
  let qb := r32 (vSum [vMul aa (dotV oc d), (vMul ad ao).flip])
  let qc := r32 (vSum [vMul aa (dotV oc oc), (vMul ao ao).flip, (vMul aa (vMul (w 6) (w 6))).flip])
  let disc := r32 (vSum [vMul qb qb, (vMul qa qc).flip])
  let t := q32 (vSum [qb.flip, (rootTerm disc (rneTo fp32 qb.exact)).flip]) qa
  let y := r32 (vSum [ao, vMul (fpv t) ad])
  if fLe (.fin false 0 0) disc && fLe (.fin false 0 0) y && fLe y aa && fLe (r 3) (fpv t)
      && fLe (fpv t) (fpv tbest.toNat) then [(t, q32 y aa, 0)] else []

/-- A run of a slot's program on an item; none where the program is invalid. The sphere and curve programs of the
standard microcode run on any item, whose missing bytes read as zero (DEDUCED from R497 and R500, assumption 46). -/
def runProgram (slot : IxuSlot) (n : Nat) (ray : List Word) (tbest : Word) (item : List Byte) :
    Option (List (Nat × Nat × Nat)) :=
  match slot with
  | .empty => .none
  | .sphere => some (sphereRun ray tbest item)
  | .curve => some (curveRun ray tbest item)
  | .prog b =>
    match programGo ((List.range 32).map fun i => Micro.parse (fieldAt b (8 * i) 8)) with
    | .none => .none
    | some ms =>
      if ms.all (Micro.ok n) then
        some (ms.foldl (fun (acc : List Triple × List (Nat × Nat × Nat)) m =>
          let (r, e) := m.run item acc.1
          (r, acc.2 ++ e)) (microStart ray tbest item, [])).2
      else .none

/-! ### Traversal (17 R495) -/

/-- What stops a traversal early. -/
inductive TravStop where
  | status (n : Nat)
  | fault (f : FaultInfo)
  deriving DecidableEq, Repr

/-- The program of a slot run on an item in memory. -/
def State.runItem (s : State) (g : Group) (slots : List IxuSlot) (slot va n : Nat) (ray : List Word) (tbest : Word) :
    Except TravStop (List (Nat × Nat × Nat)) × Met :=
  let sl := slots.getD slot .empty
  match runProgram sl n ray tbest [] with
  | .none => (.error (.status 4), .none)
  | some _ => match s.texRead g 2 va n with
    | .error f => (.error (.fault f), .none)
    | .ok (b, p) => match runProgram sl n ray tbest b with
      | .none => (.error (.status 4), p)
      | some e => (.ok e, p)

/-- The t of a box run's first emission. -/
def State.boxTest (s : State) (g : Group) (slots : List IxuSlot) (t : Trav) (e : Nat) :
    Except TravStop (Option Word) × Met :=
  match s.runItem g slots t.boxSlot (t.entries + 32 * e) 32 t.ray t.tbest with
  | (.error x, p) => (.error x, p)
  | (.ok l, p) => (.ok ((l.head?).map fun x => BitVec.ofNat 32 x.1), p)

/-- How a traversal stands after a while. -/
inductive TravOut where
  | going (t : Trav)
  | paused (t : Trav)
  | ended (status : Nat) (best : Option Hit)
  | failed (f : FaultInfo)
  /-- The descriptor or an entry is poisoned: nothing of it is used. -/
  | poisoned
  deriving DecidableEq, Repr

/-- Accept a candidate. -/
def Trav.accept (t : Trav) (h : Hit) : TravOut :=
  if t.first then .ended 1 (some h) else .going { t with tbest := h.t, best := some h, cand := .none }

/-- The children that are hit, in the order in which they are pushed: the farther first, and LINK + 1 first on equal t.
A t that is a NaN counts as equal to any other (DESIGN CHOICE, assumption 47). -/
def pushOrder (a b : Option Word) (link : Nat) : List (Nat × Word) :=
  match a, b with
  | some x, some y =>
    if !(fpv x.toNat).isNaN && !(fpv y.toNat).isNaN && decide (fOrder (fpv y.toNat) (fpv x.toNat) < 0) then [(link, x), (link + 1, y)] else [(link + 1, y), (link, x)]
  | some x, .none => [(link, x)]
  | .none, some y => [(link + 1, y)]
  | .none, .none => []

/-- One step of a traversal. -/
def State.travStep (s : State) (g : Group) (slots : List IxuSlot) (t : Trav) : TravOut × Met :=
  match t.ems with
  | e :: rest =>
    let t1 := { t with ems := rest }
    if (fpv e.t.toNat).isNaN then (.going t1, .none)
    else if t.any then (.paused { t1 with cand := some e }, .none)
    else (t1.accept e, .none)
  | [] =>
    if 0 < t.left then
      match s.runItem g slots t.slot (t.prims + 48 * t.prim) 48 t.ray t.tbest with
      | (.error (.status n), p) => (.ended n .none, p)
      | (.error (.fault f), p) => (.failed f, p)
      | (.ok l, p) =>
        let hits := l.map fun x => (⟨BitVec.ofNat 32 x.1, BitVec.ofNat 32 x.2.1, BitVec.ofNat 32 x.2.2, t.prim % 2 ^ 24⟩ : Hit)
        (.going { t with ems := hits, prim := t.prim + 1, left := t.left - 1 }, p)
    else match t.stack with
      | [] => (.ended (if t.best.isSome then 1 else 0) t.best, .none)
      | (e, te) :: rest =>
        let t1 := { t with stack := rest }
        let far := decide (fOrder (fpv t.tbest.toNat) (fpv te.toNat) < 0) && !(fpv te.toNat).isNaN
        if far then (.going t1, .none)
        else match s.texRead g 2 (t.entries + 32 * e) 32 with
          | .error f => (.failed f, .none)
          | .ok (b, p) =>
            let link := fieldAt b 0x18 4
            let info := fieldAt b 0x1C 4
            if !p.isNone then (.poisoned, p)
            else if info % 2 ^ 20 ≠ 0 then (.failed (.here 0x02 0), p)
            else if bit info 31 then
              (.going { t1 with slot := bits info 30 26, prim := link, left := bits info 25 20 + 1 }, p)
            else match s.boxTest g slots t1 link, s.boxTest g slots t1 (link + 1) with
              | (.error (.status n), q), _ => (.ended n .none, p.or q)
              | (.error (.fault f), q), _ => (.failed f, p.or q)
              | (_, q), (.error (.status n), q2) => (.ended n .none, (p.or q).or q2)
              | (_, q), (.error (.fault f), q2) => (.failed f, (p.or q).or q2)
              | (.ok x, q), (.ok y, q2) =>
                let push := pushOrder x y link
                if 32 < rest.length + push.length then (.ended 3 t.best, (p.or q).or q2)
                else (.going { t1 with stack := push.reverse ++ rest }, (p.or q).or q2)

/-- Steps up to a bound. -/
def State.travGo (s : State) (g : Group) (slots : List IxuSlot) : Nat → Trav → Met → TravOut × Met
  | 0, t, p => (.going t, p)
  | fuel + 1, t, p => match s.travStep g slots t with
    | (.going t1, q) => s.travGo g slots fuel t1 (p.or q)
    | (o, q) => (o, p.or q)

/-- The start of a traversal from the scene's descriptor (17 R493). -/
def State.travStart (s : State) (g : Group) (slots : List IxuSlot) (desc : Nat) (any first : Bool) (ray : List Word) :
    TravOut × Met :=
  match s.texRead g 2 desc 32 with
  | .error f => (.failed f, .none)
  | .ok (b, p) =>
    if !p.isNone then (.poisoned, p)
    else if fieldAt b 0x15 11 ≠ 0 ∨ 31 < fieldAt b 0x14 1 then (.failed (.here 0x02 0), .none)
    else
      let root := fieldAt b 0x10 4
      let t : Trav :=
        { entries := fieldAt b 0 8, prims := fieldAt b 8 8, boxSlot := fieldAt b 0x14 1, ray := ray, any := any
          first := first, stack := [], tbest := ray.getD 7 0#32, best := .none, ems := [], slot := 0, prim := 0, left := 0
          cand := .none }
      match s.boxTest g slots t root with
      | (.error (.status n), q) => (.ended n .none, p.or q)
      | (.error (.fault f), q) => (.failed f, p.or q)
      | (.ok .none, q) => (.going t, p.or q)
      | (.ok (some x), q) => (.going { t with stack := [(root, x)] }, p.or q)

/-- The result words of a lane that has ended; the spec states none but STATUS for an invalid program
(assumption 23). -/
def endWords (ray0 status : Nat) (best : Option Hit) : Word × Word × Word × Word :=
  let info (n : Nat) : Word := BitVec.ofNat 32 (status * 2 ^ 28 + n)
  if status = 4 then
    let f (j : Nat) : Word := BitVec.ofNat 32 (Config.freeSpecial 102 j ray0)
    (f 0, f 1, f 2, info 0)
  else match best with
    | some h => (h.t, h.u, h.v, info h.prim)
    | .none => (0x7F800000#32, 0#32, 0#32, info 0)

/-! ### Requests -/

/-- A request of the lanes given. -/
def State.sendTrace (s : State) (i : Nat) (g : Group) (desc : Nat) (any first : Bool) (lanes : List (Nat × TravLane))
    (cont : List (Nat × ContRef)) : State :=
  let slots := match s.cells[g.loc.cell]? with | some c => c.ixu | .none => []
  let s1 := s.modGroup i fun g =>
    { g.issueOp 2 0 .none with paused := g.paused.filter fun x => !(lanes.any fun y => y.1 == x.1) }
  { s1 with traces := s1.traces ++ [⟨i, g.asy.nextOp, g.loc.cell, desc, any, first, lanes, .none, slots, cont, false⟩] }

/-- A TRACE, with a capture in its .C form. -/
def traceRun (capture : Bool) (d a : BitVec 7) (b : BitVec 8) (tf any : BitVec 1) (s : State) :
    Host.Outcome State Fault Refusal :=
  runIsa ⟨.gfx, 2, [if capture then .cond (decide (d.toNat % 4 = 0 ∧ d.toNat < 112)) d.toNat else .vdst d.toNat 4 4,
      .vgrp a.toNat 8 1, .cond (decide (b.toNat % 2 = 0 ∧ b.toNat ≤ 252)) b.toNat, .cond (!capture || any == 0#1) 1]⟩
    (fun s i g =>
      let desc := (g.spair b.toNat).toNat
      let lanes := g.ctl.act.toList.map fun l => (l, TravLane.start ((List.range 8).map fun j => g.vlane (a.toNat + j) l))
      let send (s : State) (cont : List (Nat × ContRef)) : State :=
        s.sendTrace i g desc (any == 1#1) (tf == 1#1) lanes cont
      if capture then
        captureRun s i g (g.sreg (b.toNat + 2)) ((List.range 4).map fun j => d.toNat + j) false send
      else if g.countFull 2 then .hold s
      else .done ((send s []).modGroup i fun g => g.addOpPend d.toNat 4 (g.asy.nextOp - 1))) s

def execTrace (d a : BitVec 7) (b : BitVec 8) (tf any : BitVec 1) (s : State) : Host.Outcome State Fault Refusal :=
  traceRun false d a b tf any s
def execTraceC (d a : BitVec 7) (b : BitVec 8) (tf any : BitVec 1) (s : State) : Host.Outcome State Fault Refusal :=
  traceRun true d a b tf any s

/-- The result of a HIT form in a lane without a paused traversal: STATUS 5, and no other value stated
(assumption 23). -/
def lostLane (l : Nat) : TravLane :=
  let f (j : Nat) : Word := BitVec.ofNat 32 (Config.freeSpecial 103 j l)
  .done (f 0) (f 1) (f 2) 0x50000000#32

/-- A traversal's outcome as a lane of a request. -/
def TravOut.lane : TravOut → Option TravLane
  | .going t => some (.run t)
  | .ended st best => let (t, u, v, i) := endWords 0 st best; some (.done t u v i)
  | _ => .none

/-- A HIT form: `decide'` says what becomes of the candidate. -/
def hitRun (d : BitVec 7) (more : List Chk) (decide' : Group → Nat → Trav → Hit → Option Hit) (s : State) :
    Host.Outcome State Fault Refusal :=
  runIsa ⟨.gfx, 1, .vdst d.toNat 4 4 :: more⟩ (fun s i g =>
    if g.countFull 2 then .hold s
    else
      let lanes := g.ctl.act.toList.map fun l =>
        (l, match g.paused.find? fun x => x.1 == l with
          | .none => lostLane l
          | some (_, t) => match t.cand with
            | .none => lostLane l
            | some c => ((match decide' g l t c with
              | some h => t.accept h
              | .none => .going { t with cand := .none }).lane).getD (lostLane l))
      .done ((s.sendTrace i g 0 true false lanes []).modGroup i fun g => g.addOpPend d.toNat 4 (g.asy.nextOp - 1))) s

def execHitReport (d a : BitVec 7) (s : State) : Host.Outcome State Fault Refusal :=
  hitRun d [.vgrp a.toNat 3 1] (fun g l t c =>
    let x := g.vlane a.toNat l
    if fLe (fpv (t.ray.getD 3 0#32).toNat) (fpv x.toNat) && fLe (fpv x.toNat) (fpv t.tbest.toNat) then
      some ⟨x, g.vlane (a.toNat + 1) l, g.vlane (a.toNat + 2) l, c.prim⟩
    else .none) s
def execHitAccept (d : BitVec 7) (s : State) : Host.Outcome State Fault Refusal :=
  hitRun d [] (fun _ _ _ c => some c) s
def execHitIgnore (d : BitVec 7) (s : State) : Host.Outcome State Fault Refusal :=
  hitRun d [] (fun _ _ _ _ => .none) s

/-! ### Completion -/

/-- The steps of one lane that one event performs. -/
def travFuel : Nat := 4096

/-- A lane of a request after the unit has worked on it: the lane, the traversal it leaves paused, a fault,
poison met. -/
def State.traceLane (s : State) (g : Group) (r : TraceReq) (x : TravLane) :
    TravLane × Option Trav × Option FaultInfo × Met :=
  let finish (o : TravOut) (p : Met) (ray0 : Nat) : TravLane × Option Trav × Option FaultInfo × Met :=
    match o with
    | .going t => (.run t, .none, .none, p)
    | .paused t => match t.cand with
      | some h => (.done h.t h.u h.v (BitVec.ofNat 32 (2 * 2 ^ 28 + h.prim)), some t, .none, p)
      | .none => (.run t, .none, .none, p)
    | .ended st best => let (t, u, v, i) := endWords ray0 st best; (.done t u v i, .none, .none, p)
    | .failed f => (.done 0#32 0#32 0#32 0x40000000#32, .none, some f, p)
    | .poisoned => (.done 0#32 0#32 0#32 0x40000000#32, .none, .none, p)
  match x with
  | .done t u v i => (.done t u v i, .none, .none, .none)
  | .start ray => match s.travStart g r.slots r.desc r.any r.first ray with
    | (.going t, p) => let (o, q) := s.travGo g r.slots travFuel t p; finish o q (ray.getD 0 0#32).toNat
    | (o, p) => finish o p (ray.getD 0 0#32).toNat
  | .run t => let (o, q) := s.travGo g r.slots travFuel t .none; finish o q (t.ray.getD 0 0#32).toNat

/-- TRACE_COMPLETE: the intersection unit works on a request that it has granted; when every lane has its result the request is
answered, and until then a later event goes on with it. -/
def execTraceComplete (k : Nat) (s : State) : Host.Outcome State Fault Refusal :=
  .next (match s.traces[k]? with
    | .none => s
    | some r =>
      if !r.granted then s
      else
      let g := s.group r.group
      let out := r.lanes.map fun (l, x) => (l, s.traceLane g r x)
      let met : Met := out.foldl (fun (m : Met) x => m.or x.2.2.2.2) .none
      let fs := out.filterMap fun x => x.2.2.2.1.map fun f => (x.1, f)
      let fault := match r.fault with | some f => some f | .none => (pickFault fs).map (·.1)
      let pauses := out.filterMap fun x => x.2.2.1.map fun t => (x.1, t)
      let s1 := (s.texSeen g met).modGroup r.group fun g => { g with paused := g.paused ++ pauses.filter fun x => g.ctl.live.has x.1 }
      let lanes := out.map fun x => (x.1, x.2.1)
      let words : List (Nat × List Word) := lanes.filterMap fun (l, x) => match x with
        | .done t u v i => some (l, [t, u, v, i])
        | _ => .none
      if words.length < lanes.length then
        let s2 := match met.poison with
          | some (va, pa, p) => if g.ctl.live = 0#32 then s1 else s1.consumeNow r.group ⟨p, va, pa⟩
          | .none => s1
        { s2 with traces := modifyAt s2.traces k fun r => { r with lanes := lanes, fault := fault } }
      else
        let s2 : State := { s1 with traces := s1.traces.eraseIdx k }
        if r.cont.isEmpty then s2.opResult r.group r.op (laneWords words) fault met.poison
        else s2.contResult r.cont (laneWords words) fault met.poison)

end Sys2Proof.Machine
end

