-- ==== Sys2Proof/Machine/Matrix.lean ====
section
/-! DEFINITION. The bead engine, the palette and the counting board: majors 0x3C to 0x3E, and the engine's
events KSTEP and MATRIX_OP_COMPLETE (16; 10 R280 to R287; 06 R175). -/
namespace Sys2Proof.Machine
open Sys2Proof

/-! ### The counting board (08 R219, 16 R455) -/

def zeroTile : List Word := List.replicate 128 0#32

/-- The quadrant of a group. -/
def State.quadOf (s : State) (g : Group) : Option Quad := (s.cells[g.loc.cell]?).bind fun c => c.quads[g.loc.quad]?
/-- The board tile that a group's cb names: its window starts at 64 times its abacus slot (06 R175). -/
def Group.boardTile (g : Group) (cb : Nat) : Nat := 64 * g.loc.slot + cb

def Quad.tile (q : Quad) (t : Nat) : List Word := ((q.board.find? fun x => x.1 == t).map (·.2)).getD zeroTile
/-- The board with a tile written; a tile of zeros is not listed. -/
def Quad.setTile (q : Quad) (t : Nat) (w : List Word) : Quad :=
  let rest := q.board.filter fun x => x.1 != t
  { q with board := if w == zeroTile then rest else insertBy (·.1) (t, w) rest }
/-- The poison of an element of a tile. -/
def Quad.elemPoison (q : Quad) (t e : Nat) : Option Poison :=
  (q.boardPoison.find? fun x => x.1 == 128 * t + e).map (·.2)
/-- The poison of some elements of a tile taken away. -/
def Quad.cleanElems (q : Quad) (t : Nat) (p : Nat → Bool) : Quad :=
  { q with boardPoison := q.boardPoison.filter fun x => !(x.1 / 128 == t && p (x.1 % 128)) }
/-- Tiles written with +0, their poison cleared. -/
def Quad.clearTiles (q : Quad) (t n : Nat) : Quad :=
  { q with board := q.board.filter fun x => !decide (t ≤ x.1 ∧ x.1 < t + n)
           boardPoison := q.boardPoison.filter fun x => !decide (t ≤ x.1 / 128 ∧ x.1 / 128 < t + n) }

def State.tile (s : State) (g : Group) (cb : Nat) : List Word :=
  match s.quadOf g with
  | some q => q.tile (g.boardTile cb)
  | .none => zeroTile
def State.tilePoison (s : State) (g : Group) (cb e : Nat) : Option Poison :=
  (s.quadOf g).bind fun q => q.elemPoison (g.boardTile cb) e
def State.setTile (s : State) (g : Group) (cb : Nat) (w : List Word) : State :=
  s.modQuad g.loc.cell g.loc.quad fun q => q.setTile (g.boardTile cb) w

/-! ### The mode (16 R444, R445) -/

/-- The mode that a group starts with: FP16 against FP16 into FP32, unscaled, one K-step. -/
def modeReset : Nat := 2 ^ 32 + 0x11

def modeBoff (m : Nat) : Int := signedOf 8 (bits m 63 56)
def modeAoff (m : Nat) : Int := signedOf 8 (bits m 55 48)
def modeKsteps (m : Nat) : Nat := bits m 47 32
def modeSfmt (m : Nat) (b : Bool) : Nat := if b then bits m 23 22 else bits m 21 20
def modeBlk (m : Nat) (b : Bool) : Nat := if b then bits m 18 16 else bits m 14 12
def modeFmt (m : Nat) (b : Bool) : Nat := if b then bits m 7 4 else bits m 3 0
def modeAcc (m : Nat) : Nat := bits m 11 8
def modeOff (m : Nat) (b : Bool) : Int := if b then modeBoff m else modeAoff m

/-- A scale format of none goes with block code 0, every other with another (10 R281). -/
def scalePairOk (sfmt blk : Nat) : Bool := if sfmt = 0 then blk == 0 else blk != 0
/-- The elements of a block (10 R281). -/
def blockLen (c : Nat) : Nat := [0, 16, 32, 64, 128].getD c 0

/-- Every field of a mode holds a value it may hold. -/
def modeLegal (m : Nat) : Bool :=
  bits m 31 24 == 0 && !bit m 19 && !bit m 15
  && [false, true].all (fun b => decide (1 ≤ modeFmt m b ∧ modeFmt m b ≤ 8) && decide (modeBlk m b ≤ 4)
    && modeSfmt m b != 3 && scalePairOk (modeSfmt m b) (modeBlk m b))
  && (modeAcc m == 0 || modeAcc m == 9) && modeKsteps m != 0

/-- K of a pair of formats with its scales and accumulator; none for a pair that is not implemented. -/
def modeK (m : Nat) : Option Nat :=
  let a := modeFmt m false
  let b := modeFmt m true
  let acc := modeAcc m
  let scaledSide := modeSfmt m false != 0 || modeSfmt m true != 0
  let e8 (f : Nat) : Bool := f == 3 || f == 4
  let ints := if scaledSide then acc == 0 else acc == 9
  if a = b ∧ (a = 1 ∨ a = 2) ∧ acc = 0 then some 32
  else if e8 a && (e8 b || b == 8) && acc == 0 then some 64
  else if a = 6 ∧ b = 6 ∧ ints = true then some 64
  else if a = 5 ∧ (b = 5 ∨ b = 8) ∧ acc = 0 then some 128
  else if a = 7 ∧ b = 7 ∧ ints = true then some 128
  else .none

/-- The bytes of one operand row per K-step (16 R445, R449): 64, or K ÷ 4 of CB2. -/
def rowBytes (fmt k : Nat) : Nat := if fmt = 8 then k / 4 else 64
/-- The rows of a side (16 R446). -/
def sideRows (b : Bool) : Nat := if b then 8 else 16

/-! ### Cell-store operands (16 R447) -/

def cellRot (v : Nat) : Nat := bits v 63 62
def cellTpitch (v : Nat) : Nat := 64 * bits v 61 46
def cellRpitch (v : Nat) : Nat := 16 * bits v 45 32
def cellBase (v : Nat) : Nat := 16 * bits v 21 0
/-- The segment offset of row `r` of K-step `s`. -/
def cellRow (v s r : Nat) : Nat := cellBase v + s * cellTpitch v + r * cellRpitch v + 64 * (r * cellRot v % 4)
/-- The reserved field is zero. -/
def cellLegal (v : Nat) : Bool := bits v 31 22 == 0

/-- A range of the segment that an operation reaches lies within it (16 R452, R456, R460; 15 R436): rows of `w`
bytes of `ks` K-steps from `s0` on. -/
def Block.rowsOk (b : Block) (v s0 ks rows w : Nat) : Bool :=
  (List.range rows).all fun r =>
    b.segOk (cellRow v s0 r) (cellRow v (s0 + ks - 1) r + w - cellRow v s0 r)

/-! ### Palette records (16 R449) -/

def PalRec.zero : PalRec := ⟨false, 0, 0, 0, 0, 0⟩
def PalRec.fmt (r : PalRec) : Nat := bits r.low 3 0
def PalRec.blk (r : PalRec) : Nat := bits r.low 6 4
def PalRec.sfmt (r : PalRec) : Nat := bits r.low 8 7
def PalRec.isB (r : PalRec) : Bool := bit r.low 9
def PalRec.lut (r : PalRec) : Nat := bits r.low 13 10
def PalRec.ksel (r : PalRec) : Nat := bits r.low 15 14
def PalRec.off (r : PalRec) : Int := signedOf 8 (bits r.low 23 16)
def PalRec.raw (r : PalRec) : Bool := r.fmt == 0xF
/-- The elements that a K-step of a format consumes of a row. -/
def fmtK (fmt ksel : Nat) : Nat :=
  if fmt = 1 ∨ fmt = 2 then 32 else if fmt = 5 ∨ fmt = 7 then 128
  else if fmt = 8 then (if ksel = 1 then 128 else 64) else 64
def PalRec.k (r : PalRec) : Nat := fmtK r.fmt r.ksel
def PalRec.rows (r : PalRec) : Nat := sideRows r.isB
def PalRec.w (r : PalRec) : Nat := rowBytes r.fmt r.k
/-- The 128 bits of the record. -/
def PalRec.value (r : PalRec) : Nat :=
  r.kcap % 65536 * 2 ^ 80 + r.scale % 65536 * 2 ^ 64 + r.len % 65536 * 2 ^ 48 + r.base % 65536 * 2 ^ 32
  + (if r.held then 2 ^ 31 else 0) + r.low % 2 ^ 31

def Group.palRec (g : Group) (n : Nat) : PalRec := g.mat.pal.getD n PalRec.zero
def Group.setPal (g : Group) (n : Nat) (r : PalRec) : Group := g.withMat fun m => { m with pal := putAt ⟨false, 0, 0, 0, 0, 0⟩ m.pal n r }

/-- The lowest run of `n` units of a palette that none of its reservations takes (16 R451). -/
def Quad.palFree (q : Quad) (n : Nat) : Option Nat :=
  (List.range 257).find? fun u => decide (u + n ≤ 256) &&
    !(q.palUnits.any fun x => decide (x.1 / 256 < u + n ∧ u < x.1 / 256 + x.2))
/-- Units taken at a base; their bytes read as zero. -/
def Quad.palTake (q : Quad) (base len : Nat) : Quad :=
  { q with palUnits := insertBy (·.1) (base, len) q.palUnits, palette := q.palette.erase base (256 * len)
           palPoison := q.palPoison.filter fun x => !decide (base ≤ x.1 ∧ x.1 < base + 256 * len) }
def Quad.palDrop (q : Quad) (base : Nat) : Quad := { q with palUnits := q.palUnits.filter fun x => x.1 != base }

/-! ### Issue (16 R443) -/

/-- The instruction word of the MX layout (12 R319), as a queue entry keeps it (11 R307). -/
def mxWord (maj fn c a b : Nat) : Nat := maj * 2 ^ 26 + fn * 2 ^ 22 + c * 2 ^ 16 + a * 2 ^ 8 + b

def pairAt (g : Group) (n : Nat) : Nat := (g.spair (2 * n)).toNat

/-- The checks of a barrier object that an operation names (16 R452). -/
def State.objFault (s : State) (g : Group) (obj : Nat) : Option FaultInfo :=
  if obj = 0xFFFFFFFF then .none
  else if obj % 16 ≠ 0 then some (.atSeg 0x06 obj)
  else if !(s.block g.id.block).segOk obj 16 then some (.atSeg 0x07 obj)
  else .none

/-- The object an operation names. -/
def objOf (obj : Nat) : Option Nat := if obj = 0xFFFFFFFF then .none else some obj

/-- A matrix operation enters its group's queue, or the group is held (16 R443, 13 R355). -/
def matIssue (s : State) (i : Nat) (op : MatOp) (word av bv : Nat) (obj : Option Nat) (f : Group → Group) : Res :=
  let g := s.group i
  let full := match obj with | some o => s.flightFull g.id.block g.loc.cell o | .none => false
  if g.countFull 1 || full then .hold s
  else
    let s1 := match obj with | some o => s.flightUp g.id.block g.loc.cell o | .none => s
    .done (s1.modGroup i fun g =>
      f ((g.issueOp 1 0 obj).withMat fun m => { m with queue := m.queue ++ [⟨op, g.asy.nextOp, word, av, bv, 0⟩] }))

/-- A field that names a scalar pair. -/
def matPair (n : BitVec 8) : Chk := .cond (decide (n.toNat < 128)) n.toNat
/-- A field that names a pair or a reservation. -/
def matEither (n : BitVec 8) : Chk := .cond (decide (n.toNat < 144)) n.toNat
/-- A CBD that names a reservation. -/
def matPal (p : BitVec 6) : Chk := .cond (decide (p.toNat < 16)) p.toNat

/-- ILLEGAL_OPERAND with a field's value. -/
def illegalField (n : Nat) : Res := .trap (.here 0x02 n)

/-- The fields of an operation from the most significant bit down, each with what its code and then its value must satisfy
(12 R325), before anything else of it. -/
def fieldsOk (g : Group) (l : List (Chk × Bool × Nat)) (k : Res) : Res :=
  match l with
  | [] => k
  | (c, ok, n) :: r => match c.fails g with
    | some d => illegalField d
    | .none => if ok then fieldsOk g r k else illegalField n

def execBeadMode (a : BitVec 8) (s : State) : Host.Outcome State Fault Refusal :=
  runIsa ⟨.matrix, 1, [matPair a]⟩ (fun s i g =>
    let m := pairAt g a.toNat
    if !modeLegal m then illegalField a.toNat
    else if (modeK m).isNone then .trap (.here 0x10 0)
    else matIssue s i (.mode m) (mxWord 0x3C 0 0 a.toNat 0) m 0 .none fun g => g.withMat fun x => { x with issueMode := m }) s

/-- The operand of a field. -/
def Group.matSrc (g : Group) (n : Nat) : MatSrc :=
  if n < 128 then .cell (pairAt g n)
  else
    let r := g.palRec (n - 128)
    .pal r (g.palRec r.lut).base

/-- An operand of an MMA satisfies the checks on itself (16 R447, R456). -/
def Group.matSrcOk (g : Group) (m n : Nat) (b : Bool) : Bool :=
  if n < 128 then modeFmt m b != 8 && cellLegal (pairAt g n)
  else
    let r := g.palRec (n - 128)
    let l := g.palRec r.lut
    r.held && !r.raw && r.isB == b && r.fmt == modeFmt m b && r.sfmt == modeSfmt m b && r.blk == modeBlk m b
    && decide (modeKsteps m ≤ r.kcap)
    && (r.fmt != 8 || (some r.k == modeK m && l.held && l.raw && decide (4 ≤ l.kcap)))

/-- The blocks of an operand of `n` elements. -/
def scaleBlocks (n len : Nat) : Nat := if len = 0 then 0 else (n + len - 1) / len

/-- A cell-store operand lies in the segment with its scale area (16 R456). -/
def Block.matCellOk (bl : Block) (m v : Nat) (b : Bool) : Bool :=
  let ks := modeKsteps m
  let area := cellBase v + ks * cellTpitch v
  bl.rowsOk v 0 ks (sideRows b) 64
  && (modeSfmt m b == 0 || bl.segOk area (16 * scaleBlocks (ks * (modeK m).getD 1) (blockLen (modeBlk m b))))

/-- The segment offset at which a cell-store operand of an MMA leaves the segment. -/
def matCellFault (v : Nat) : FaultInfo := .atSeg 0x07 (cellBase v)

def mmaRun (clear : Bool) (c : BitVec 6) (a b : BitVec 8) (s : State) : Host.Outcome State Fault Refusal :=
  runIsa ⟨.matrix, 1, []⟩ (fun s i g =>
    let m := g.mat.issueMode
    let bl := s.block g.id.block
    let far (n : Nat) (side : Bool) : Bool := decide (n < 128) && !bl.matCellOk m (pairAt g n) side
    let raw (n : Nat) : Nat := if n < 128 then pairAt g n else 0
    fieldsOk g [(matEither a, g.matSrcOk m a.toNat false, a.toNat), (matEither b, g.matSrcOk m b.toNat true, b.toNat)] (
      if far a.toNat false then allLanes s g (matCellFault (pairAt g a.toNat))
      else if far b.toNat true then allLanes s g (matCellFault (pairAt g b.toNat))
      else matIssue s i (.mma clear c.toNat (g.matSrc a.toNat) (g.matSrc b.toNat))
        (mxWord 0x3C (if clear then 2 else 1) c.toNat a.toNat b.toNat) (raw a.toNat) (raw b.toNat) .none id)) s
def execBeadMma (c : BitVec 6) (a b : BitVec 8) (s : State) : Host.Outcome State Fault Refusal := mmaRun false c a b s
def execBeadMmaz (c : BitVec 6) (a b : BitVec 8) (s : State) : Host.Outcome State Fault Refusal := mmaRun true c a b s

def execBeadZero (c : BitVec 6) (s : State) : Host.Outcome State Fault Refusal :=
  runIsa ⟨.matrix, 1, []⟩ (fun s i _ => matIssue s i (.zero c.toNat) (mxWord 0x3C 3 c.toNat 0 0) 0 0 .none id) s

/-- An operation that names a barrier object, once its own checks have passed. -/
def matObj (s : State) (g : Group) (obj : Nat) (k : Res) : Res :=
  match s.objFault g obj with
  | some f => allLanes s g f
  | .none => k

def execBeadSync (a : BitVec 8) (s : State) : Host.Outcome State Fault Refusal :=
  runIsa ⟨.matrix, 1, [matPair a]⟩ (fun s i g =>
    let obj := (g.sreg (2 * a.toNat)).toNat
    matObj s g obj (matIssue s i (.sync obj) (mxWord 0x3C 4 0 a.toNat 0) (pairAt g a.toNat) 0 (objOf obj) id)) s

def execBeadScale (c : BitVec 6) (a : BitVec 8) (s : State) : Host.Outcome State Fault Refusal :=
  runIsa ⟨.matrix, 1, [matPair a]⟩ (fun s i g =>
    matIssue s i (.scale c.toNat (g.sreg (2 * a.toNat)).toNat) (mxWord 0x3C 5 c.toNat a.toNat 0) (pairAt g a.toNat) 0
      .none id) s

/-! ### The palette family (16 R450 to R453) -/

/-- The fields of a reservation's record satisfy R451; `w` is s(2n). -/
def palLegal (n w : Nat) : Bool :=
  let fmt := bits w 3 0
  let blk := bits w 6 4
  let sfmt := bits w 8 7
  let lut := bits w 13 10
  let ksel := bits w 15 14
  bits w 31 24 == 0
  && (decide (1 ≤ fmt ∧ fmt ≤ 8) || (fmt == 0xF && bits w 13 4 == 0))
  && scalePairOk sfmt blk && sfmt != 3 && decide (blk ≤ 4)
  && decide (ksel < 2) && (fmt == 8 || ksel == 0)
  && (if fmt = 8 then lut != n else lut == 0)

/-- LEN of a reservation of a record word and a KCAP. -/
def palLen (w kcap : Nat) : Nat :=
  let r : PalRec := ⟨true, 0, 0, 0, kcap, w⟩
  if r.raw then kcap
  else
    let scales := if r.sfmt = 0 then 0 else 16 * scaleBlocks (kcap * r.k) (blockLen r.blk)
    (kcap * r.rows * r.w + scales + 255) / 256

def execPalReserve (p : BitVec 6) (a d : BitVec 8) (s : State) : Host.Outcome State Fault Refusal :=
  runIsa ⟨.matrix, 1, []⟩ (fun s i g =>
    let n := p.toNat
    let w := (g.sreg (2 * a.toNat)).toNat
    let k := (g.sreg (2 * a.toNat + 1)).toNat
    fieldsOk g [(matPal p, !(g.palRec n).held, n),
        (matPair a, palLegal n w && decide (0 < k ∧ k < 65536) && decide (palLen w k ≤ 256), a.toNat)] (
      let len := palLen w k
      match (s.quadOf g).bind fun q => q.palFree len with
      | .none => .done (s.modGroup i fun g => g.setS d.toNat 1#32)
      | some u =>
        let r0 : PalRec := ⟨true, 256 * u, len, 0, k, w % 2 ^ 31⟩
        let r : PalRec := { r0 with scale := if r0.raw then 0 else k * r0.rows * r0.w }
        .done ((s.modQuad g.loc.cell g.loc.quad fun q => q.palTake (256 * u) len).modGroup i fun g =>
          (g.setPal n r).setS d.toNat 0#32))) s

def execPalFill (p : BitVec 6) (a b : BitVec 8) (s : State) : Host.Outcome State Fault Refusal :=
  runIsa ⟨.matrix, 1, []⟩ (fun s i g =>
    let r := g.palRec p.toNat
    let v := pairAt g a.toNat
    let fc := (g.sreg (2 * b.toNat)).toNat
    let obj := (g.sreg (2 * b.toNat + 1)).toNat
    let first := fc % 65536
    let count := fc / 65536
    fieldsOk g [(matPal p, r.held && !r.raw, p.toNat), (matPair a, cellLegal v, a.toNat),
        (matPair b, decide (count ≠ 0 ∧ first + count ≤ r.kcap), b.toNat)] (
      if obj ≠ 0xFFFFFFFF ∧ obj % 16 ≠ 0 then allLanes s g (.atSeg 0x06 obj)
      else if !(s.block g.id.block).rowsOk v 0 count r.rows r.w then allLanes s g (matCellFault v)
      else matObj s g obj (matIssue s i (.fill r v first count obj) (mxWord 0x3D 1 p.toNat a.toNat b.toNat) v
        (pairAt g b.toNat) (objOf obj) id))) s

def execPalFillk (p : BitVec 6) (a b : BitVec 8) (s : State) : Host.Outcome State Fault Refusal :=
  runIsa ⟨.matrix, 1, []⟩ (fun s i g =>
    let r := g.palRec p.toNat
    let src := (g.sreg (2 * a.toNat)).toNat
    let n := (g.sreg (2 * a.toNat + 1)).toNat
    let dst := (g.sreg (2 * b.toNat)).toNat
    let obj := (g.sreg (2 * b.toNat + 1)).toNat
    fieldsOk g [(matPal p, r.held, p.toNat), (matPair a, decide (src % 16 = 0 ∧ n % 16 = 0 ∧ n ≠ 0), a.toNat),
        (matPair b, decide (dst % 16 = 0 ∧ dst + n ≤ r.len * 256), b.toNat)] (
      if obj ≠ 0xFFFFFFFF ∧ obj % 16 ≠ 0 then allLanes s g (.atSeg 0x06 obj)
      else if !(s.block g.id.block).segOk src n then allLanes s g (.atSeg 0x07 src)
      else matObj s g obj (matIssue s i (.fillK r src n dst obj) (mxWord 0x3D 2 p.toNat a.toNat b.toNat)
        (pairAt g a.toNat) (pairAt g b.toNat) (objOf obj) id))) s

def execPalRelease (p : BitVec 6) (s : State) : Host.Outcome State Fault Refusal :=
  runIsa ⟨.matrix, 1, [matPal p]⟩ (fun s i g =>
    let r := g.palRec p.toNat
    matIssue s i (.release (if r.held then some r.base else .none)) (mxWord 0x3D 3 p.toNat 0 0) 0 0 .none fun g =>
      if r.held then g.setPal p.toNat { r with held := false } else g) s

/-! ### The counting-board family at issue (16 R459, R460) -/

def ctlRow0 (c : Nat) : Nat := bits c 15 12
def ctlRows (c : Nat) : Nat := bits c 19 16 + 1
def ctlFmt (c : Nat) : Nat := bits c 3 0
def ctlAdd (c : Nat) : Bool := bit c 8
def ctlSrci (c : Nat) : Bool := bit c 7
def ctlObj (c : Nat) : Nat := bits c 63 32
/-- The bytes that a drained row takes: eight elements. -/
def ctlWidth (c : Nat) : Nat := fmtWidth (ctlFmt c)

/-- The control pair satisfies R460. -/
def ctlLegal (c : Nat) : Bool :=
  bits c 31 20 == 0 && bits c 11 10 == 0
  && (decide (ctlFmt c < 8) || ctlFmt c == 9)
  && decide (ctlRow0 c + ctlRows c ≤ 16)
  && (!ctlAdd c || ((ctlFmt c == if ctlSrci c then 9 else 0) && bits c 5 4 == 0 && !bit c 6))

/-- What a drain's rows come to: the state, the next generator state, the flags, the first poison consumed
with its element, the elements outside a bound, and the ranges written. -/
structure DrainSt where
  st : State
  gen : Word
  flags : FFlags
  poison : Option (Nat × Poison)
  hits : List BoundHit

/-- One drained element's code and what it leaves (16 R461): `old` is the destination's element. -/
def drainElem (rm : Nat) (c : Nat) (x : Nat) (old : Nat) (gen : Word) : Nat × Word × FFlags :=
  if ctlAdd c then
    if ctlSrci c then ((old + x) % 2 ^ 32, gen, fNone)
    else
      let r := fAdd fp32 false old x
      (r.1, gen, r.2)
  else
    let (gen1, d) := if rm = 2 then drawMany 1 gen else (gen, [])
    let r := convert (if ctlSrci c then 9 else 0) (ctlFmt c) (rmodeOf rm (d.headD 0)) (bit c 6) x
    (r.1, gen1, r.2)

/-- The bytes of eight elements of a width in bits. -/
def packRow (w : Nat) (l : List Nat) : List Byte :=
  leBytes w (l.foldr (fun x acc => x % 2 ^ w + 2 ^ w * acc) 0)

/-- One row of a drain: its eight elements, written as they stand, flagged or clamped where out of bounds. -/
def DrainSt.row (a : DrainSt) (i id cb dst ctl : Nat) (es : List BoundEntry) (d : Nat) : DrainSt :=
  let s := a.st
  let g := s.group i
  let bl := s.block g.id.block
  let w := ctlWidth ctl
  let off := cellRow dst 0 d
  let rm := g.rmodeCode (bits ctl 5 4)
  let moves := !ctlAdd ctl && (ctlFmt ctl == if ctlSrci ctl then 9 else 0)
  let tile := s.tile g cb
  let oldB := s.segRead g.id.block g.loc.cell off w
  let oldP := if ctlAdd ctl then s.segPoison g.id.block g.loc.cell off w else .none
  let step (acc : List Nat × Word × FFlags × Option (Nat × Poison)) (j : Nat) :
      List Nat × Word × FFlags × Option (Nat × Poison) :=
    let e := 8 * (ctlRow0 ctl + d) + j
    let p := s.tilePoison g cb e
    let x := if p.isSome && !moves then 0xFFFFFFFF else (tile.getD e 0#32).toNat
    let bad := ctlAdd ctl && (s.segPoison g.id.block g.loc.cell (off + 4 * j) 4).isSome
    let old := if bad then 0xFFFFFFFF else leValue ((oldB.drop (4 * j)).take 4)
    let r := drainElem rm ctl x old acc.2.1
    let met := match acc.2.2.2 with
      | some q => some q
      | .none => if moves then .none else p.map fun q => (512 * g.boardTile cb + 4 * e, q)
    (acc.1 ++ [r.1], r.2.1, acc.2.2.1 ||| r.2.2, met)
  let (codes, gen, fl, met) := (List.range 8).foldl step ([], a.gen, a.flags, a.poison)
  let b := packRow w codes
  let base := bl.seg g.loc.cell
  let hs := boundHits es true (base + off) b fun x => (s.window bl.part g.loc.cell).mem.get x
  let s1 := s.hodSegWrite i id g.loc.cell off b .none
  let s2 := (hs.filter fun h => h.entry.action == 2).foldl (fun s h => s.winWrite bl.part g.loc.cell h.clamp.1 h.clamp.2) s1
  -- poison that moves with its element
  let s3 := if moves then (List.range 8).foldl (fun s j =>
      match s.tilePoison g cb (8 * (ctlRow0 ctl + d) + j) with
      | some q => s.modWindow bl.part g.loc.cell fun w => { w with poison := w.poison.mark (base + off + 4 * j) q }
      | .none => s) s2 else s2
  { st := s3, gen := gen, flags := fl, hits := a.hits ++ hs
    poison := match met with
      | some q => some q
      | .none => oldP.map fun q => (q.1, q.2) }

/-- All rows of a drain. -/
def State.drainRows (s : State) (i id cb dst ctl : Nat) : DrainSt :=
  let g := s.group i
  let es := s.boundsOf g.id.ctx
  (List.range (ctlRows ctl)).foldl (fun a d => a.row i id cb dst ctl es d) ⟨s, g.genOf 0, fNone, .none, []⟩

/-- What an operation's flags and met poison leave in its group. -/
def State.matFlags (s : State) (i : Nat) (fl : FFlags) : State :=
  s.modGroup i fun g => g.withSr fun x => { x with fpstat := x.fpstat ||| fl.setWidth 32 }
def State.matPoison (s : State) (i : Nat) : Option (Nat × Poison) → State
  | .none => s
  | some (a, p) =>
    let g := s.group i
    -- a group that has ended runs on through no skid
    if g.ctl.live = 0#32 then
      (if (s.block g.id.block).terminated then s else s.uncorrectable i [(uncorrectableInfo p a 0, 0)] g.ctl.pc)
    else s.consumeNow i ⟨p, a, 0⟩

/-- The arrival of a matrix operation on the object it names (13 R355): an excess is recorded, and no fault is
raised. The writes published are those of the operation, and for BEAD.SYNC of every earlier one. -/
def State.matArrive (s : State) (i obj n : Nat) (sel : RaceTag → Bool) : State :=
  match objOf obj with
  | .none => s
  | some o =>
    let g := s.group i
    let (s1, more) := s.opArrive g.id.block g.loc.cell o n sel
    if more then s1.faultRecord (s1.group i) (.atSeg 0x0C o) 0xFF g.ctl.pc.toNat 0 else s1

/-- CB.DRAIN performed (16 R461, R462). -/
def State.drainDone (s : State) (i id cb dst ctl : Nat) : State :=
  let a := s.drainRows i id cb dst ctl
  let g := s.group i
  let s1 := (a.st.boundRecords g a.hits).modGroup i fun g =>
    { g with id := { g.id with gen := g.id.gen.set 0 a.gen } }
  let s2 := (s1.matFlags i a.flags).matPoison i a.poison
  let inRows (e : Nat) : Bool := decide (8 * ctlRow0 ctl ≤ e ∧ e < 8 * (ctlRow0 ctl + ctlRows ctl))
  let s3 : State := if bit ctl 9 then
      (s2.setTile g cb ((List.range 128).map fun e => if inRows e then 0#32 else (s2.tile g cb).getD e 0#32)).modQuad
        g.loc.cell g.loc.quad fun q => q.cleanElems (g.boardTile cb) inRows
    else s2
  s3.matArrive i (ctlObj ctl) (ctlRows ctl * ctlWidth ctl) fun t => t.writer == i && t.op == some id

/-- The destination overlaps an enabled entry whose action is trap (16 R462). -/
def State.drainTraps (s : State) (g : Group) (dst ctl : Nat) : Bool :=
  let base := (s.block g.id.block).seg g.loc.cell
  (s.boundsOf g.id.ctx).any fun e => e.action == 3 && e.space && (List.range (ctlRows ctl)).any fun d =>
    decide (base + cellRow dst 0 d < e.base + e.len ∧ e.base < base + cellRow dst 0 d + ctlWidth ctl)

def execCbDrain (c : BitVec 6) (a b : BitVec 8) (s : State) : Host.Outcome State Fault Refusal :=
  runIsa ⟨.matrix, 1, []⟩ (fun s i g =>
    let dst := pairAt g a.toNat
    let ctl := pairAt g b.toNat
    let obj := ctlObj ctl
    let rows := cellLegal dst && cellTpitch dst == 0 && !(decide (b.toNat < 128) && ctlLegal ctl && decide (cellRpitch dst < ctlWidth ctl))
    fieldsOk g [(matPair a, rows, a.toNat), (matPair b, ctlLegal ctl, b.toNat)] (
    if obj ≠ 0xFFFFFFFF ∧ obj % 16 ≠ 0 then allLanes s g (.atSeg 0x06 obj)
    else if !(s.block g.id.block).rowsOk dst 0 1 (ctlRows ctl) (ctlWidth ctl) then allLanes s g (matCellFault dst)
    else matObj s g obj (
      let op := matIssue s i (.drain c.toNat dst ctl) (mxWord 0x3E 0 c.toNat a.toNat b.toNat) dst ctl (objOf obj) id
      if s.drainTraps g dst ctl then
        -- held until every earlier operation is done; then performed at once, or trapped (16 R462)
        if !g.mat.queue.isEmpty then .hold s
        else
          let r := s.drainRows i g.asy.nextOp c.toNat dst ctl
          match r.hits.find? fun h => h.entry.action == 3 with
          | some h => allLanes s g h.fault
          | .none => match op with
            | .done s1 =>
              let s2 := (s1.modGroup i fun g => g.withMat fun m => { m with queue := [] }).drainDone i g.asy.nextOp c.toNat dst ctl
              .done (s2.completeOp i g.asy.nextOp .none)
            | x => x
      else op))) s

def execCbLoad (c : BitVec 6) (a : BitVec 8) (s : State) : Host.Outcome State Fault Refusal :=
  runIsa ⟨.matrix, 1, [matPair a]⟩ (fun s i g =>
    let v := pairAt g a.toNat
    if !cellLegal v || cellTpitch v != 0 then illegalField a.toNat
    else if !(s.block g.id.block).rowsOk v 0 1 16 32 then allLanes s g (matCellFault v)
    else matIssue s i (.load c.toNat v) (mxWord 0x3E 1 c.toNat a.toNat 0) v 0 .none id) s

def execCbClear (c : BitVec 6) (n : BitVec 8) (s : State) : Host.Outcome State Fault Refusal :=
  runIsa ⟨.matrix, 1, [.cond (decide (1 ≤ n.toNat ∧ c.toNat + n.toNat ≤ 64)) n.toNat]⟩ (fun s i _ =>
    matIssue s i (.clear c.toNat n.toNat) (mxWord 0x3E 2 c.toNat 0 n.toNat) 0 0 .none id) s

/-! ### K-steps (16 R446, R455; 10 R282 to R287) -/

/-- An operand's bytes at an offset: the bytes, all ones where poisoned, and the poison met with its place. -/
def State.matBytes (s : State) (g : Group) (pal : Bool) (off n : Nat) : List Byte × Option (Nat × Poison) :=
  if pal then
    match s.quadOf g with
    | .none => ([], .none)
    | some q =>
      let p := q.palPoison.hit off n
      (readBytes p (q.palette.bytes off n), p)
  else
    let p := s.segPoison g.id.block g.loc.cell off n
    (readBytes p (s.segRead g.id.block g.loc.cell off n), p)

/-- Where an operand lies: the start of a row of a K-step, and the scale byte of a block and row. -/
def MatSrc.row (x : MatSrc) (step r : Nat) : Nat :=
  match x with
  | .cell v => cellRow v step r
  | .pal p _ => p.base + (step * p.rows + r) * p.w
def MatSrc.scaleAt (x : MatSrc) (m blk r : Nat) : Nat :=
  match x with
  | .cell v => cellBase v + modeKsteps m * cellTpitch v + blk * 16 + r
  | .pal p _ => p.base + p.scale + blk * 16 + r
def MatSrc.isPal : MatSrc → Bool
  | .cell _ => false
  | .pal _ _ => true
/-- The scale offset in force for an operand. -/
def MatSrc.off (x : MatSrc) (m : Nat) (b : Bool) : Int :=
  match x with
  | .cell _ => modeOff m b
  | .pal p _ => p.off

/-- The unscaled elements of a row's bytes, in order (10 R273, R284). -/
def rowElems (fmt : Nat) (b : List Byte) (table : Nat → Nat) : List FVal :=
  if fmt = 8 then
    (List.range (b.length / 2)).flatMap fun q =>
      let x := leValue ((b.drop (2 * q)).take 2)
      (cbDecode x (table (x / 256))).map weightVal
  else
    let w := fmtWidth fmt
    let v := leValue b
    (List.range (8 * b.length / w)).map fun k => elemVal fmt (v / 2 ^ (w * k) % 2 ^ w)

/-- The values of one operand row at a K-step, with the poison met. -/
def State.matRow (s : State) (g : Group) (m : Nat) (side : Bool) (x : MatSrc) (step r : Nat) :
    List FVal × Option (Nat × Poison) :=
  let fmt := modeFmt m side
  let k := (modeK m).getD 1
  let (b, p) := s.matBytes g x.isPal (x.row step r) (rowBytes fmt k)
  let idx := (List.range (b.length / 2)).map fun q => (b.getD (2 * q + 1) 0#8).toNat
  let (entry, tp) : (Nat → Nat) × Option (Nat × Poison) := match x with
    | .pal _ lut =>
      if fmt = 8 then
        (fun e => leValue (s.matBytes g true (lut + 4 * e) 4).1, idx.findSome? fun e => (s.matBytes g true (lut + 4 * e) 4).2)
      else (fun _ => 0, .none)
    | .cell _ => (fun _ => 0, .none)
  let vals := rowElems fmt b entry
  let sfmt := modeSfmt m side
  let len := blockLen (modeBlk m side)
  let first (a b : Option (Nat × Poison)) : Option (Nat × Poison) := match a with | some y => some y | .none => b
  if sfmt = 0 then (vals, first p tp)
  else
    let sc (e : Nat) : List Byte × Option (Nat × Poison) := s.matBytes g x.isPal (x.scaleAt m (e / len) r) 1
    ((List.range k).map fun e => scaled (vals.getD e (.fin false 0 0)) (scaleOf sfmt (leValue (sc (step * k + e)).1)) (x.off m side),
      first p (first tp ((List.range k).findSome? fun e => (sc (step * k + e)).2)))

/-- The result of one element of a K-step (10 R285, R286). -/
def kstepElem (acc : Nat) (c : Nat) (clear : Bool) (as bs : List FVal) : Nat × FFlags :=
  let prods := as.zipWith productTerm bs
  if acc = 9 then
    let sum := match exactSum (intVal 32 (if clear then 0 else c) :: prods) with
      | .num n a _ e => let v : Int := (a * 2 ^ e.toNat : Nat); if n then -v else v
      | _ => 0
    (wrapInt 32 (satInt sum (-2147483648) 2147483647), if satInt sum (-2147483648) 2147483647 = sum then fNone else fOF)
  else roundNE fp32 false (exactSum ((if clear then .fin true 0 0 else fp32.decode c) :: prods))

/-- One K-step of the operation at the head of a group's queue. -/
def State.kstepGo (s : State) (i : Nat) (e : MatEntry) (clear : Bool) (cb : Nat) (a b : MatSrc) : State :=
  let g := s.group i
  let m := g.mat.mode
  let as := (List.range 16).map fun r => s.matRow g m false a e.kdone r
  let bs := (List.range 8).map fun r => s.matRow g m true b e.kdone r
  let fresh := clear && e.kdone == 0
  let tile := s.tile g cb
  let old (x : Nat) : Nat := if (s.tilePoison g cb x).isSome then 0xFFFFFFFF else (tile.getD x 0#32).toNat
  let out := (List.range 128).map fun x =>
    kstepElem (modeAcc m) (old x) fresh (as.getD (x / 8) ([], .none)).1 (bs.getD (x % 8) ([], .none)).1
  let met : Option (Nat × Poison) := match (as ++ bs).findSome? (·.2) with
    | some p => some p
    | .none => if fresh then .none else (List.range 128).findSome? fun x =>
        (s.tilePoison g cb x).map fun p => (512 * g.boardTile cb + 4 * x, p)
  let fl := out.foldl (fun (f : FFlags) x => f ||| x.2) fNone
  let s1 := (s.setTile g cb (out.map fun x => BitVec.ofNat 32 x.1)).modQuad g.loc.cell g.loc.quad fun q =>
    q.cleanElems (g.boardTile cb) fun _ => true
  ((s1.modGroup i fun g => g.withMat fun x =>
    { x with queue := modifyAt x.queue 0 fun y => { y with kdone := y.kdone + 1 } }).matFlags i fl).matPoison i met

/-- The engine of a group's quadrant works: its cell is clocked in C-ACT, no hold-up save has stopped it, and its group
does not stand at a K-step boundary with the sequencer stopped (02 R57, 05 R157, 06 R182). -/
def State.engineRuns (s : State) (i : Nat) : Bool :=
  s.hub.running && s.hub.save.isNone && (s.group i).ctl.status != .blocked .kstep && (match s.cells[(s.group i).loc.cell]? with | some c => c.power == .act && !c.idling | .none => false)

/-- It is a group's turn at its quadrant's engine: no group between the slot whose turn comes first and its own has an operation
to perform (16 R458). -/
def State.beadTurn (s : State) (i : Nat) : Bool :=
  let g := s.group i
  let first := match s.quadOf g with | some q => q.beadNext | .none => 0
  let after (x : Group) : Nat := (x.loc.slot + 4 - first % 4) % 4
  !(s.groups.any fun x => x.loc.cell == g.loc.cell && x.loc.quad == g.loc.quad && x.loc.abacus && !x.mat.queue.isEmpty
    && x.ctl.status != .blocked .kstep && decide (after x < after g))
/-- The engine has served a group: the next slot's turn comes first. -/
def State.beadServed (s : State) (i : Nat) : State :=
  let g := s.group i
  s.modQuad g.loc.cell g.loc.quad fun q => { q with beadNext := (g.loc.slot + 1) % 4 }

/-- KSTEP: the bead engine adds one K-step of the operation at the head of a group's queue. -/
def execKstep (i : Nat) (s : State) : Host.Outcome State Fault Refusal :=
  .next (if !s.engineRuns i then s else match (s.group i).mat.queue with
    | e :: _ => match e.op with
      | .mma clear cb a b => if e.kdone < modeKsteps (s.group i).mat.mode && s.beadTurn i then (s.kstepGo i e clear cb a b).beadServed i else s
      | _ => s
    | [] => s)

/-! ### The other operations as the engine performs them -/

/-- Copy bytes of the segment into the palette, their poison with them (16 R452). -/
def State.palCopy (s : State) (g : Group) (src dst n : Nat) : State :=
  let b := s.segRead g.id.block g.loc.cell src n
  let marks := (List.range ((n + 15) / 16)).filterMap fun j =>
    (s.segPoison g.id.block g.loc.cell (src + 16 * j) (min 16 (n - 16 * j))).map fun p => (dst + 16 * j, p.2)
  s.modQuad g.loc.cell g.loc.quad fun q =>
    { q with palette := q.palette.put dst b
             palPoison := marks.foldl (fun x p => x.mark p.1 p.2) (q.palPoison.cleared dst n) }

/-- CB.LOAD: sixteen rows of 32 bytes into a tile, exactly. -/
def State.tileFill (s : State) (i cb v : Nat) : State :=
  let g := s.group i
  let at' (e : Nat) : Nat := cellRow v 0 (e / 8) + 4 * (e % 8)
  let ws := (List.range 128).map fun e => bytesWord (s.segRead g.id.block g.loc.cell (at' e) 4)
  let ps := (List.range 128).filterMap fun e =>
    (s.segPoison g.id.block g.loc.cell (at' e) 4).map fun p => (128 * g.boardTile cb + e, p.2)
  s.modQuad g.loc.cell g.loc.quad fun q =>
    let q1 := (q.setTile (g.boardTile cb) ws).cleanElems (g.boardTile cb) fun _ => true
    { q1 with boardPoison := ps ++ q1.boardPoison }

/-- BEAD.SCALE: each element times the factor, as FMUL (16 R457). -/
def State.tileScale (s : State) (i cb f : Nat) : State :=
  let g := s.group i
  let tile := s.tile g cb
  let out := (List.range 128).map fun e =>
    fMul fp32 false (if (s.tilePoison g cb e).isSome then 0xFFFFFFFF else (tile.getD e 0#32).toNat) f
  let met := (List.range 128).findSome? fun e => (s.tilePoison g cb e).map fun p => (512 * g.boardTile cb + 4 * e, p)
  let s1 := (s.setTile g cb (out.map fun x => BitVec.ofNat 32 x.1)).modQuad g.loc.cell g.loc.quad fun q =>
    q.cleanElems (g.boardTile cb) fun _ => true
  (s1.matFlags i (out.foldl (fun (a : FFlags) x => a ||| x.2) fNone)).matPoison i met

/-- The effect of an operation other than the K-steps of an MMA. -/
def State.matPerform (s : State) (i : Nat) (e : MatEntry) : State :=
  let g := s.group i
  let mine (t : RaceTag) : Bool := t.writer == i && t.op == some e.id
  match e.op with
  | .mode m => s.modGroup i fun g => g.withMat fun x => { x with mode := m }
  | .mma _ _ _ _ => s
  | .zero cb => s.modQuad g.loc.cell g.loc.quad fun q => q.clearTiles (g.boardTile cb) 1
  | .sync obj => s.matArrive i obj 0 fun t => t.writer == i && t.op.isSome
  | .scale cb f => s.tileScale i cb f
  | .fill r v first count obj =>
    let one (s : State) (t row : Nat) : State :=
      s.palCopy g (cellRow v t row) (r.base + ((first + t) * r.rows + row) * r.w) r.w
    let s1 := (List.range count).foldl (fun s t => (List.range r.rows).foldl (fun s row => one s t row) s) s
    s1.matArrive i obj (count * r.rows * r.w) mine
  | .fillK r src n dst obj => (s.palCopy g src (r.base + dst) n).matArrive i obj n mine
  | .release base => match base with
    | .none => s
    | some b => s.modQuad g.loc.cell g.loc.quad fun q => q.palDrop b
  | .drain cb dst ctl => s.drainDone i e.id cb dst ctl
  | .load cb v => s.tileFill i cb v
  | .clear cb n => s.modQuad g.loc.cell g.loc.quad fun q => q.clearTiles (g.boardTile cb) n

/-- MATRIX_OP_COMPLETE: the operation at the head of a group's queue is performed in the group's turn, or is an MMA whose
K-steps have all been added, and completes. -/
def execMatrixOpComplete (i : Nat) (s : State) : Host.Outcome State Fault Refusal :=
  .next (if !s.engineRuns i then s else match (s.group i).mat.queue with
    | [] => s
    | e :: _ =>
      let ready := match e.op with
        | .mma _ _ _ _ => decide (modeKsteps (s.group i).mat.mode ≤ e.kdone)
        | _ => s.beadTurn i
      if !ready then s
      else
        let s1 := match e.op with
          | .mma _ _ _ _ => s
          | _ => (s.matPerform i e).beadServed i
        let s2 := s1.modGroup i fun g => g.withMat fun m => { m with queue := m.queue.drop 1 }
        (s2.completeOp i e.id .none).palEnd i)

end Sys2Proof.Machine
end

