-- ==== Sys2Proof/Machine/Rcb.lean ====
section
/-! DEFINITION. The region control block and admission at take: its fields, the checks in the order of their
reasons, must-save declarations, the completion word, and the regions taken (06 R164 to R172, R179; 05 R155,
R156; 08 R227, R228; 13 R341, R362, R363). -/
namespace Sys2Proof.Machine
open Sys2Proof

/-! ### The fields of an RCB (06 R164 to R166) -/

/-- Every quadrant of a mask over 128 quadrants. -/
def quadsOf (x : Nat) : List (Nat × Nat) :=
  ((List.range 128).filter fun i => bit x i).map fun i => (i / 4, i % 4)

/-- The role of a code. -/
def roleOf (n : Nat) : Role := [Role.general, .vector, .hod, .matrix].getD n .general

/-- The segment of 16 bytes; one that is unused has its fields ignored. -/
def Segment.parse (b : List Byte) : Segment :=
  { en := fieldAt b 0 1 != 0xFF, role := roleOf (fieldAt b 0 1), threads := fieldAt b 4 4, vregs := fieldAt b 1 1
    budget := fieldAt b 2 2, pc := BitVec.ofNat 64 (fieldAt b 8 8) }

/-- A segment's fields are in range. -/
def segmentOk (b : List Byte) : Bool :=
  let role := fieldAt b 0 1
  let v := fieldAt b 1 1
  let budget := fieldAt b 2 2
  let n := fieldAt b 4 4
  role == 0xFF || (decide (role < 4 ∧ fieldAt b 8 8 % 64 = 0 ∧ fieldAt b 8 8 < 2 ^ 48)
    && (if role = 3 then v == 0 && budget == 0 && decide (1 ≤ n ∧ n ≤ 4)
        else decide (1 ≤ v ∧ v ≤ 14 ∧ 1 ≤ n ∧ n ≤ 49152)
          && (budget == 0 || decide (max 32 (8 * v) ≤ budget ∧ budget ≤ 256 * v))))

def RingDecl.parse (x : Nat) : RingDecl := ⟨bit x 7, bits x 4 3, bits x 6 5, bits x 2 0 + 1⟩

/-- A region control block, its fields decoded. -/
structure Rcb where
  raw : List Byte
  ovr : Nat
  flags : Nat
  prio : Nat
  fdom : Nat
  waylim : Nat
  slice : Nat
  bwcap : Nat
  ucap : Nat
  qset : List (Nat × Nat)
  grid : Nat
  shared : Nat
  privw : Nat
  doneAddr : Nat
  doneVal : Nat
  segs : List Segment
  mustSave : Nat
  coat : Nat
  rings : List RingDecl

def Rcb.parse (b : List Byte) : Rcb :=
  let f := fieldAt b
  { raw := b, ovr := f 2 2, flags := f 4 1, prio := f 5 1, fdom := f 6 1, waylim := f 7 1, slice := f 8 4, bwcap := f 0xC 1
    ucap := f 0xE 2, qset := quadsOf (f 0x10 16), grid := f 0x20 4, shared := f 0x24 4, privw := f 0x28 4
    doneAddr := f 0x30 8, doneVal := f 0x38 4
    segs := (List.range 4).map fun i => Segment.parse ((b.drop (0x40 + 16 * i)).take 16)
    mustSave := f 0x80 8, coat := f 0x88 8
    rings := (List.range 16).map fun i => RingDecl.parse (f (0x90 + 2 * i) 1) }

def Rcb.gang (r : Rcb) : Bool := bit r.flags 0
def Rcb.isCoat (r : Rcb) : Bool := bit r.flags 1
def Rcb.sys (r : Rcb) : Bool := bit r.flags 2
/-- The field of an OVR bit is taken from this RCB. -/
def Rcb.own (r : Rcb) (i : Nat) : Bool := bit r.ovr i
def Rcb.ringBlock (r : Rcb) : Bool := r.rings.any (·.en)
def Rcb.coatPipe (r : Rcb) : Nat := bits r.coat 7 0
def Rcb.coatLayer (r : Rcb) : Nat := bits r.coat 15 8
def Rcb.coatNum (r : Rcb) : Nat := bits r.coat 23 16

/-- The segments that are used. -/
def usedSegs (l : List Segment) : List Segment := l.filter (·.en)
/-- The first thread index of each non-matrix segment, with one more than the highest index (06 R178, 08
R233). -/
def segStarts (l : List Segment) : List Nat × Nat :=
  l.foldl (fun (acc : List Nat × Nat) g =>
    if !g.en || g.role == .matrix then (acc.1 ++ [0], acc.2)
    else (acc.1 ++ [roundUp acc.2 32], roundUp acc.2 32 + g.threads)) ([], 0)

/-- Reason FORMAT does not apply to the RCB's own bytes. -/
def Rcb.formatOk (r : Rcb) : Bool :=
  let f := fieldAt r.raw
  let gap := (List.range 3).all fun i =>
    match r.segs[i]?, r.segs[i + 1]? with | some a, some b => a.en || !b.en | _, _ => true
  f 0 2 == 1 && decide (r.ovr < 128) && decide (r.flags < 16) && f 0xD 1 == 0 && f 0x2C 4 == 0 && f 0x3C 4 == 0
  && bits r.coat 31 24 == 0 && (r.raw.drop 0xB0).all (· == 0#8)
  && ((List.range 16).all fun i => f (0x91 + 2 * i) 1 == 0)
  && (!r.own 1 || decide (4096 ≤ r.slice)) && (!r.own 2 || decide (1 ≤ r.bwcap ∧ r.bwcap ≤ 64))
  && (!r.own 3 || decide (r.waylim ≤ 16)) && (!r.own 4 || decide (r.prio ≤ 7)) && (!r.own 5 || decide (r.fdom ≤ 2))
  && decide (1 ≤ r.grid ∧ r.grid ≤ 2 ^ 24) && decide (r.shared % 256 = 0) && decide (r.privw ≤ 65536)
  && decide (r.doneAddr % 8 = 0) && decide (r.mustSave % 16 = 0)
  && ((List.range 4).all fun i => segmentOk ((r.raw.drop (0x40 + 16 * i)).take 16))
  && gap && (match r.segs with | a :: _ => a.en | [] => false)
  && decide (((usedSegs r.segs).map (·.threads)).foldl (· + ·) 0 ≤ 49152)

/-- Reason RING does not apply (06 R166, R179, R436). -/
def Rcb.ringsOk (r : Rcb) : Bool :=
  let used (n : Nat) : Bool := match r.segs[n]? with | some g => g.en | .none => false
  ((List.range 15).all fun i => match r.rings[i]?, r.rings[i + 1]? with | some a, some b => a.en || !b.en | _, _ => true)
  && (r.rings.all fun d => !d.en || (decide (d.prod < d.cons) && used d.prod && used d.cons))
  && (!r.ringBlock || decide (64 ≤ r.shared))

/-! ### Places in the device -/

/-- The quadrants that a partition holds. -/
def State.partQuads (s : State) (p : Nat) : List (Nat × Nat) :=
  (List.range s.cells.length).flatMap fun c => (s.heldQuads p c).map fun q => (c, q)
/-- The pane of a cell. -/
def paneOf (cell : Nat) : Nat := cell / Config.cellsPerPane

/-- The layer table's entry in force. -/
def State.layerEntry (s : State) (pipe layer : Nat) : List Byte :=
  match s.hub.pipes[pipe]? with | some p => p.table.getD layer [] | .none => []
/-- The pane that a coat's layer names for it. -/
def State.coatPaneOf (s : State) (pipe layer num : Nat) : Nat := fieldAt (s.layerEntry pipe layer) (if num = 1 then 5 else 6) 1
/-- The coat fields name a pipe, an enabled layer and a coat. -/
def State.coatOk (s : State) (r : Rcb) : Bool :=
  decide (r.coatPipe < 4 ∧ r.coatLayer < 16 ∧ 1 ≤ r.coatNum ∧ r.coatNum ≤ 2)
  && bit (fieldAt (s.layerEntry r.coatPipe r.coatLayer) 0 4) 0
  && !(r.coatNum == 2 && bit (fieldAt (s.layerEntry r.coatPipe r.coatLayer) 0 4) 4)

/-! ### Needs of a block (06 R173, 08 R233, 11 R303) -/

/-- The groups of a block: segment, first thread index, threads. -/
def groupsOf (segs : List Segment) : List (Nat × Nat × Nat) :=
  let starts := (segStarts segs).1
  (List.range segs.length).flatMap fun i => match segs[i]? with
    | .none => []
    | some g =>
      if !g.en then []
      else if g.role == .matrix then (List.range g.threads).map fun t => (i, t, 1)
      else (List.range ((g.threads + 31) / 32)).map fun j => (i, starts.getD i 0 + 32 * j, min 32 (g.threads - 32 * j))
/-- The register entries of a segment's groups; matrix groups take none. -/
def Segment.entries (g : Segment) : Nat := if g.budget = 0 then 256 * g.vregs else g.budget
/-- The bytes of a block's private space. -/
def privBytes (segs : List Segment) (privw : Nat) : Nat :=
  roundUp (((segStarts segs).2 + 31) / 32 * (privw + 36) * 128) 65536
/-- The bytes of a block's save image on `c` cells. -/
def imageBytes (segs : List Segment) (shared c : Nat) : Nat :=
  let n := (segStarts segs).2
  let gv := min n (384 * c)
  let v := ((usedSegs segs).map (·.vregs)).foldl max 0
  let gm := (((usedSegs segs).filter fun g => g.role == .matrix).map (·.threads)).foldl (· + ·) 0
  roundUp (0x400 + 16 * n + c * shared + gv * (0x1000 + 1024 * v) + gm * 0x1A000) 65536

/-! ### Must-save declarations (05 R155, R156) -/

/-- The bytes of a hub-cache way, over the slices (03 R98). -/
def wayBytes : Nat := 4194304

/-- A declaration's 16-byte entry. -/
def SaveItem.parse (b : List Byte) : SaveItem := ⟨fieldAt b 0 1, fieldAt b 1 1, fieldAt b 2 1, fieldAt b 4 4, fieldAt b 8 8⟩

/-- The fields of an entry are in range, in a partition. -/
def saveItemOk (s : State) (part : Nat) (b : List Byte) : Bool :=
  let e := SaveItem.parse b
  decide (e.kind ≤ 2) && fieldAt b 3 1 == 0 && decide (e.len % 64 = 0 ∧ 0 < e.len)
  && (if e.kind = 0 then decide (e.cell < 32 ∧ e.start + e.len ≤ (s.heldQuads part e.cell).length * 0x180000)
      else if e.kind = 1 then decide (e.start + e.len ≤ 2 ^ 48)
      else e.len == 512 && e.start == 0)

/-- The bytes of the device's admitted declarations. -/
def mustBytes (l : List MustSave) : Nat := ((l.flatMap (·.items)).map (·.len)).foldl (· + ·) 0

/-- A declaration read and checked for a region of a context: none where a check fails. -/
def State.mustSaveOf (s : State) (c cls region : Nat) (sys : Bool) (addr : Nat) (h b : List Byte) : Option MustSave :=
  let part := (s.ctx c).part
  let n := fieldAt h 0 1
  let rows := (List.range n).map fun i => (b.drop (16 * i)).take 16
  let items := rows.map SaveItem.parse
  let m : MustSave := ⟨region, c, sys, BitVec.ofNat 64 addr, fieldAt h 1 1, fieldAt h 2 1, BitVec.ofNat 64 (fieldAt h 8 8), items⟩
  let mine := m :: s.hub.must.filter fun x => x.ctx == c
  let pinned := ((m :: s.hub.must).filter fun x => match s.regions[x.region]? with | some r => r.cls == cls | .none => x.region == region)
    |>.flatMap (·.items) |>.filter (·.kind == 1)
  let ways := (List.range 16).filter fun w => bit (s.hub.classWays.getD cls 0) w && (s.hub.wayMap.getD w .none).isSome
  if decide (1 ≤ n ∧ n ≤ 16) && fieldAt h 3 1 == 0 && fieldAt h 4 4 == 0 && decide (fieldAt h 2 1 < 32)
      && decide (fieldAt h 8 8 % 64 = 0 ∧ fieldAt h 8 8 < 2 ^ 48) && rows.all (saveItemOk s part)
      && decide ((mine.map fun x => x.items.length).foldl (· + ·) 0 ≤ 16) && decide (mustBytes mine ≤ 262144)
      && decide (mustBytes (m :: s.hub.must) ≤ 2097152)
      && decide (2 * (pinned.map (·.len)).foldl (· + ·) 0 ≤ ways.length * wayBytes) then some m
  else .none

/-! ### The completion word (06 R172) -/

/-- The vector of a context's region ends and failed admissions. -/
def State.doneVector (s : State) (c : Nat) : State := s.raiseCtx c 20 8

/-- The completion word written, or the record in its place; then the interrupt. -/
def State.doneWord (s : State) (c addr val status reason : Nat) (irq : Bool) : State :=
  let s1 := if addr = 0 then s
    else match s.writeVa c addr (leBytes 4 val ++ [BitVec.ofNat 8 status, BitVec.ofNat 8 reason, 0#8, 0#8]) with
      | .ok s1 => s1
      | .error e => s.ctxRecord { ErrRec.plain e.code c with flags := 1, vaddr := addr }
  if irq then s1.doneVector c else s1

/-! ### The checks at take (06 R169, R170) -/

/-- What a region inherits: from its parent, or the root's defaults (06 R167). -/
structure Inherit where
  qset : List (Nat × Nat)
  slice : Nat
  bwcap : Nat
  waylim : Nat
  prio : Nat
  fdom : Nat
  ucap : Nat

def fdomOf (n : Nat) : FDom := if n = 0 then .report else if n = 1 then .terminate else .rollback

def State.inherits (s : State) (c : Nat) (parent : Option Nat) : Inherit :=
  match parent.bind fun p => s.regions[p]? with
  | some r => ⟨r.qset, r.slice, r.bwcap, r.ways, r.prio, r.fdom.code, r.ucap⟩
  | .none => ⟨s.partQuads (s.ctx c).part, 65536, 64, 0, 0, 1, 0⟩

/-- The storage header, or reason ACCESS or FORMAT. -/
def State.storage (s : State) (c : Nat) : Except Nat (Nat × Nat × Nat) :=
  let va := (s.ctx c).save
  match s.readVa c va 64 with
  | .error _ => .error 1
  | .ok h =>
    if s.poisonVa c va 64 then .error 1
    else if fieldAt h 0 8 % 65536 ≠ 0 ∨ fieldAt h 8 8 % 65536 ≠ 0 ∨ fieldAt h 16 8 % 65536 ≠ 0
        ∨ (h.drop 24).any (· != 0#8) = true then .error 2
    else .ok (fieldAt h 0 8, fieldAt h 8 8, fieldAt h 16 8)

/-- The declaration that a root names: its header and entries, none for none, or reason ACCESS. -/
def State.declaration (s : State) (c addr : Nat) : Except Nat (Option (List Byte × List Byte)) :=
  if addr = 0 then .ok .none
  else match s.readVa c addr 16 with
    | .error _ => .error 1
    | .ok h =>
      let n := min 16 (fieldAt h 0 1)
      match s.readVa c (addr + 16) (16 * n) with
      | .error _ => .error 1
      | .ok b => if s.poisonVa c addr (16 + 16 * n) then .error 1 else .ok (some (h, b))

/-- A region built from an RCB that has passed, but for its place in the list. -/
def Rcb.region (r : Rcb) (inh : Inherit) (c part cls depth : Nat) (rcb : Nat) (parent byBlock coat : Option Nat)
    (pool : Nat × Nat × Nat) : Region :=
  { ctx := c, part := part, rcb := BitVec.ofNat 64 rcb, cls := cls
    prio := if r.own 4 then r.prio else inh.prio
    depth := depth, parent := parent, byBlock := byBlock, sys := r.sys
    bwcap := if r.own 2 then r.bwcap else inh.bwcap
    qset := if r.own 0 then r.qset else inh.qset
    grid := r.grid, segs := r.segs, rings := r.rings, shared := r.shared, privw := r.privw
    ucap := if r.own 6 then r.ucap else inh.ucap
    fdom := fdomOf (if r.own 5 then r.fdom else inh.fdom)
    gang := r.gang || r.ringBlock
    slice := if r.own 1 then r.slice else inh.slice
    doneAddr := BitVec.ofNat 64 r.doneAddr, doneVal := r.doneVal, doneIrq := bit r.flags 3
    coat := coat, mustSave := BitVec.ofNat 64 r.mustSave
    ways := if r.own 3 then r.waylim else inh.waylim
    nextBlock := 0, order := 0, admitted := false, waiting := true, complete := false, anyTerminated := false
    charge := [], sliceEnded := [], charged := [], barring := false, privPool := pool.1, privPoolLen := pool.2.1, spillBase := pool.2.2 }

end Sys2Proof.Machine
end

