-- ==== Sys2Proof/Machine/Place.lean ====
section
/-! DEFINITION. Where a block can stand: eligible quadrants, the choice of cells and sub-cores, window space,
rings, private space and image space (06 R173 to R175, 08 R228, R230, R233; 11 R302, R303). -/
namespace Sys2Proof.Machine
open Sys2Proof

/-! ### Eligible quadrants (06 R174) -/

/-- The coat pane of a region and its descendants, where they render a coat. -/
def State.coatPane (s : State) (r : Region) : Option Nat := (r.coat.bind fun k => s.hub.coats[k]?).map (·.pane)

/-- A quadrant may be used at all: in QSET, held by the partition, on the coat's pane. -/
def State.allowedQuad (s : State) (r : Region) (c q : Nat) : Bool :=
  r.qset.contains (c, q) && (s.heldQuads r.part c).contains q
  && (match s.coatPane r with | some p => p == paneOf c | .none => true)

/-- The cell failed its pane's self-test and stays quarantined until it is retired (04 R123). -/
def Hub.failed (h : Hub) (c : Nat) : Bool := match h.cellMap.getD c .none with | some p => bit h.failCell p | .none => false

/-- A quadrant is eligible now. -/
def State.eligible (s : State) (r : Region) (c q : Nat) : Bool :=
  s.allowedQuad r c q && !(s.hub.recarves.any fun x => !x.fence && x.part == r.part && x.cell == c) && (match s.cells[c]?, s.panes[paneOf c]? with
    | some x, some p => (x.power == .act || x.power == .idle) && !p.quarantined && !s.hub.failed c
        && (match x.quads[q]? with | some y => !y.fenced && !y.shrinkPending | .none => false)
    | _, _ => false)

/-! ### What is taken -/

/-- A group stands in its slot. -/
def Group.inSlot (g : Group) : Bool := match g.ctl.status with
  | .free => false
  | .tracked => false
  | .evicted _ => false
  | _ => true

/-- Slots taken with their register entries, and palette units taken in quadrants where the plan adds some. -/
structure Room where
  spots : List (GLoc × Nat)
  pal : List (Nat × Nat × List (Nat × Nat))

def State.room (s : State) : Room :=
  ⟨(s.groups.filter Group.inSlot).map fun g => (g.loc, if g.loc.abacus then 0 else g.entryBudget), []⟩

/-- A group to be placed: its register entries, whether it goes to an abacus slot, the cell it is bound to, and
the lengths of its palette reservations. -/
structure Want where
  entries : Nat
  matrix : Bool
  cell : Option Nat
  pals : List Nat

/-- The slots taken on a sub-core, or in a quadrant's sequencer. -/
def Room.slots (r : Room) (matrix : Bool) (c n : Nat) : List Nat :=
  (r.spots.filter fun x => x.1.cell == c && x.1.abacus == matrix && (if matrix then x.1.quad else x.1.sub) == n).map
    (·.1.slot)
/-- The entries taken on a sub-core. -/
def Room.entries (r : Room) (c sub : Nat) : Nat :=
  ((r.spots.filter fun x => x.1.cell == c && !x.1.abacus && x.1.sub == sub).map (·.2)).foldl (· + ·) 0
/-- The lowest number below `n` that is not in a list. -/
def lowestFree (n : Nat) (l : List Nat) : Option Nat := (List.range n).find? fun i => !l.contains i

/-- Contiguous runs in a palette for some reservations, taken one after another (11 R302). -/
def palRuns : Quad → List Nat → Option (List Nat × Quad)
  | q, [] => some ([], q)
  | q, n :: r => match q.palFree n with
    | .none => .none
    | some u => (palRuns (q.palTake (256 * u) n) r).map fun x => (256 * u :: x.1, x.2)

/-- The quadrant with the plan's palette units. -/
def State.planQuad (s : State) (r : Room) (c q : Nat) : Option Quad :=
  ((s.cells[c]?).bind fun x => x.quads[q]?).map fun y =>
    match r.pal.find? fun p => p.1 == c && p.2.1 == q with
    | some p => { y with palUnits := p.2.2 }
    | .none => y

/-- The place of one group among quadrants in ascending order (06 R174 step 2), with the bases of its palette
reservations. -/
def State.placeOne (s : State) (quads : List (Nat × Nat)) (r : Room) (w : Want) : Option ((GLoc × List Nat) × Room) :=
  let quads := quads.filter fun x => match w.cell with | some c => x.1 == c | .none => true
  if w.matrix then
    let ok (x : Nat × Nat) : Bool := decide ((r.slots true x.1 x.2).length < Config.abacusSlots) &&
      (match s.planQuad r x.1 x.2 with | some q => !q.testing && (palRuns q w.pals).isSome | .none => false)
    match minBy (fun x : Nat × Nat => (r.slots true x.1 x.2).length) (quads.filter ok) with
    | .none => .none
    | some (c, q) => match (s.planQuad r c q).bind fun y => palRuns y w.pals, lowestFree Config.abacusSlots (r.slots true c q) with
      | some (bases, y), some t =>
        let loc : GLoc := ⟨c, 0, q, t, true⟩
        some ((loc, bases), ⟨(loc, 0) :: r.spots, (c, q, y.palUnits) :: r.pal⟩)
      | _, _ => .none
  else
    let subs := quads.flatMap fun x => (List.range 8).map fun j => (x.1, 8 * x.2 + j)
    let ok (x : Nat × Nat) : Bool := decide ((r.slots false x.1 x.2).length < Config.slots)
      && decide (r.entries x.1 x.2 + w.entries ≤ Config.registerEntries)
    match minBy (fun x : Nat × Nat => (r.slots false x.1 x.2).length) (subs.filter ok) with
    | .none => .none
    | some (c, sub) => (lowestFree Config.slots (r.slots false c sub)).map fun t =>
        let loc : GLoc := ⟨c, sub, sub / 8, t, false⟩
        ((loc, []), ⟨(loc, w.entries) :: r.spots, r.pal⟩)

/-- The places of all groups, in order. -/
def State.placeAll (s : State) (quads : List (Nat × Nat)) : Room → List Want → Option (List (GLoc × List Nat) × Room)
  | r, [] => some ([], r)
  | r, w :: ws => match s.placeOne quads r w with
    | .none => .none
    | some (p, r1) => (s.placeAll quads r1 ws).map fun x => (p :: x.1, x.2)

/-! ### Window space, capacity and rings (06 R173) -/

/-- A region's blocks stand on a cell. -/
def State.regionOn (s : State) (k cell : Nat) : Bool :=
  s.blocks.any fun b => b.region == k && b.resident && b.cells.contains cell
/-- UCAP of the regions resident on a cell of a partition, but for one region. -/
def State.ucapOn (s : State) (part cell k : Nat) : Nat :=
  (((List.range s.regions.length).filter fun j => j != k && s.regionOn j cell).filterMap fun j =>
    (s.regions[j]?).bind fun r => if r.part = part then some r.ucap else .none).foldl (· + ·) 0

/-- The bytes of the shadow area on a cell for some groups' entries (05 R138). -/
def shadowBytes (shared : Nat) (entries : Nat) : Nat := roundUp (4 * entries + shared) 256

/-- Segment and shadow space on each cell: their offsets and the state with them taken. -/
def State.takeSpace (s : State) (part : Nat) (roll : Bool) (shared : Nat) :
    List (Nat × Nat) → Option (List Nat × List Nat × State)
  | [] => some ([], [], s)
  | (cell, entries) :: rest =>
    match (if shared = 0 then some (0, s) else s.dynAlloc part cell shared) with
    | .none => .none
    | some (o, s1) =>
      match (if roll then s1.dynAlloc part cell (shadowBytes shared entries) else some (0, s1)) with
      | .none => .none
      | some (h, s2) => (s2.takeSpace part roll shared rest).map fun x => (o :: x.1, (if roll then [h] else []) ++ x.2.1, x.2.2)

/-- The lowest free hardware rings of a quadrant. -/
def freeRings (q : Quad) (n : Nat) : Option (List Nat) :=
  let l := (List.range 16).filter fun i => !(q.rings.getD i ⟨false, 0, 0, 0#8, []⟩).bound
  if n ≤ l.length then some (l.take n) else .none

/-- What a placement comes to: the cells in rank order, each group's place with its palette bases, the offsets
of segments and shadows, the rings, and the state with the window space taken. -/
structure Plan where
  cells : List Nat
  locs : List (GLoc × List Nat)
  segs : List Nat
  shadows : List Nat
  rings : List Nat
  st : State
  room : Room

/-- What a block of a region asks for. -/
structure Ask where
  wants : List (Want × Option Nat)
  /-- the number of cells it must take, for a block that returns -/
  count : Option Nat
  /-- cells that must stand at a rank (17 R477) -/
  fixed : List (Nat × Nat)

/-- The rest of the needs once every group has a place. -/
def State.finishPlan (s : State) (k : Nat) (r : Region) (cells : List Nat) (p : List (GLoc × List Nat) × Room)
    (ask : Ask) : Option Plan :=
  let entries (c : Nat) : Nat := (((p.1.zip ask.wants).filter fun x => x.1.1.cell == c).map fun x => x.2.1.entries).foldl (· + ·) 0
  let roomy (c : Nat) : Bool :=
    decide (s.ucapOn r.part c k + r.ucap ≤ 256 * (s.heldQuads r.part c).length)
  let declared := (r.rings.filter (·.en)).length
  let quad := (p.1.head?).bind fun x => (s.cells[x.1.cell]?).bind fun y => y.quads[x.1.quad]?
  if !cells.all roomy then .none
  else match (if declared = 0 then some [] else quad.bind fun q => freeRings q declared) with
    | .none => .none
    | some hw => match s.takeSpace r.part (r.fdom == .rollback) r.shared (cells.map fun c => (c, entries c)) with
      | .none => .none
      | some (sg, sh, s1) => some ⟨cells, p.1, sg, sh, hw, s1, p.2⟩

/-- Sub-lists of a length, in lexicographic order. -/
def choose : Nat → List Nat → List (List Nat)
  | 0, _ => [[]]
  | _ + 1, [] => []
  | n + 1, a :: r => (choose n r).map (a :: ·) ++ choose (n + 1) r

/-- A placement on a given list of cells. -/
def State.planOn (s : State) (k : Nat) (r : Region) (ok : Nat → Nat → Bool) (room : Room) (ask : Ask) (cells : List Nat) :
    Option Plan :=
  let quads := cells.flatMap fun c => ((List.range 4).filter fun q => ok c q).map fun q => (c, q)
  let wants := ask.wants.map fun w => { w.1 with cell := match w.2 with | some j => cells[j]? | .none => .none }
  match s.placeAll quads room wants with
  | .none => .none
  | some p =>
    let used := match ask.count with
      | some _ => cells
      | .none => cells.filter fun c => p.1.any fun x => x.1.cell == c
    s.finishPlan k r used p ask

/-- The placement of a block under R174 on quadrants that `ok` allows. -/
def State.plan (s : State) (k : Nat) (r : Region) (ok : Nat → Nat → Bool) (room : Room) (ask : Ask) : Option Plan :=
  let cells := List.range s.cells.length
  if r.rings.any (·.en) then
    (cells.flatMap fun c => (List.range 4).map fun q => (c, q)).findSome? fun x =>
      if ok x.1 x.2 && (ask.fixed.all fun f => f.2 == x.1) then
        s.planOn k r (fun c q => c == x.1 && q == x.2 && ok c q) room ask [x.1]
      else .none
  else
    -- a free group slot on an eligible quadrant: a sub-core's, or a sequencer's for a block that asks for no other
    let seqOnly := ask.wants.all fun w => w.1.matrix
    let open' (c : Nat) : Bool := (List.range 4).any fun q => ok c q &&
      (if seqOnly then decide ((room.slots true c q).length < Config.abacusSlots)
       else (List.range 8).any fun j => decide ((room.slots false c (8 * q + j)).length < Config.slots))
    let counts := match ask.count with | some n => [n] | .none => [1, 2, 3, 4]
    counts.findSome? fun n => (List.range Config.panes).findSome? fun p =>
      let here := cells.filter fun c => paneOf c == p && open' c
      if here.length < n then .none
      else if ask.fixed.isEmpty then s.planOn k r ok room ask (here.take n)
      else (choose n here).findSome? fun l =>
        if ask.fixed.all fun f => l.getD f.1 Config.cells == f.2 then s.planOn k r ok room ask l else .none

/-- The groups of a region's new block. -/
def Region.ask (r : Region) : Ask :=
  { wants := (groupsOf r.segs).map fun x => match r.segs[x.1]? with
      | some g => (⟨g.entries, g.role == .matrix, .none, []⟩, .none)
      | .none => (⟨0, false, .none, []⟩, .none)
    count := .none, fixed := [] }

/-! ### Private space and image space (08 R233, 11 R303) -/

/-- The parts of a context's private pool that its blocks hold, in rising order. -/
def State.poolTaken (s : State) (c : Nat) : List (Nat × Nat) :=
  (s.blocks.filter fun b => b.ctx == c && b.placed && !b.retired).foldl (fun acc b =>
    let ins (a : List (Nat × Nat)) (o n : Nat) : List (Nat × Nat) := if n = 0 then a else insertBy (·.1) (o, n) a
    ins (ins acc b.privBase b.privLen) b.imageBase b.imageLen) []
/-- Bytes of the pool taken first fit. -/
def fitPool (base len need : Nat) (l : List (Nat × Nat)) : Option (Nat × List (Nat × Nat)) :=
  if need = 0 then some (0, l)
  else
    let o := fitGo need base l
    if o + need ≤ base + len then some (o, insertBy (·.1) (o, need) l) else .none
/-- A new block's private space and image on `c` cells. -/
def State.takePool (s : State) (r : Region) (c : Nat) : Option (Nat × Nat) :=
  match fitPool r.privPool r.privPoolLen (privBytes r.segs r.privw) (s.poolTaken r.ctx) with
  | .none => .none
  | some (a, l) => (fitPool r.privPool r.privPoolLen (imageBytes r.segs r.shared c) l).map fun x => (a, x.1)

/-! ### Static checks at take (06 R170: BLOCK, GANG) -/

/-- The machine with every quadrant of a region's QSET empty. -/
def State.emptied (s : State) (r : Region) : State :=
  { s with
    groups := s.groups.map fun g => if r.qset.contains (g.loc.cell, g.loc.quad) then { g with ctl := { g.ctl with status := .free } } else g
    blocks := s.blocks.map fun b => if b.cells.any fun c => r.qset.any fun x => x.1 == c then { b with resident := false } else b
    windows := s.windows.map fun w => if w.part == r.part && r.qset.any (fun x => x.1 == w.cell) then { w with allocs := [] } else w
    cells := (List.range s.cells.length).zip s.cells |>.map fun (c, x) => { x with
      quads := (List.range x.quads.length).zip x.quads |>.map fun (q, y) =>
        if r.qset.contains (c, q) then { y with palUnits := [], testing := false, rings := y.rings.map fun z => { z with bound := false } } else y } }

/-- The pool bytes of a block on a number of cells. -/
def Region.poolBytes (r : Region) (cells : Nat) : Nat := privBytes r.segs r.privw + imageBytes r.segs r.shared cells

/-- The region's blocks that can stand together, up to the grid, by the pool bytes that each takes: each keeps its slots,
its window space and its capacity. -/
def State.fitting (s : State) (k : Nat) (r : Region) : Nat → Room → List Nat
  | 0, _ => []
  | fuel + 1, room => match s.plan k r (s.allowedQuad r) room r.ask with
    | .none => []
    | some p =>
      let s1 := match p.locs.head?, p.rings with
        | some x, _ :: _ => p.st.modQuad x.1.cell x.1.quad fun q =>
            { q with rings := p.rings.foldl (fun l n => modifyAt l n fun z => { z with bound := true }) q.rings }
        | _, _ => p.st
      r.poolBytes p.cells.length :: s1.fitting k r fuel p.room

/-- No more blocks than issue slots can be resident. -/
def maxResident : Nat := Config.cells * (Config.subcores * Config.slots + 4 * Config.abacusSlots)

/-- Reason BLOCK: one block cannot be placed in the empty machine, or its pool space is too small. -/
def State.blockFits (s : State) (k : Nat) (r : Region) : Bool :=
  let s0 := s.emptied r
  match s0.plan k r (s0.allowedQuad r) s0.room r.ask with
  | .none => false
  | some p => decide (r.poolBytes p.cells.length ≤ r.privPoolLen)
/-- Reason GANG: the grid cannot be wholly resident in the empty machine. -/
def State.gangFits (s : State) (k : Nat) (r : Region) : Bool :=
  let s0 := s.emptied r
  !r.gang || (decide (r.grid ≤ maxResident) &&
    (let l := s0.fitting k r r.grid s0.room
     decide (r.grid ≤ l.length) && decide (l.foldl (· + ·) 0 ≤ r.privPoolLen)))

/-! ### Admission (06 R168 to R171) -/

/-- The coat record of a region that renders one. -/
def State.newCoat (s : State) (r : Rcb) (c : Nat) : State × Nat :=
  let x : Coat :=
    { pipe := r.coatPipe, layer := r.coatLayer, frame := bits r.coat 63 32, num := r.coatNum
      pane := s.coatPaneOf r.coatPipe r.coatLayer r.coatNum, ctx := c, region := s.regions.length
      run := match s.hub.pipes[r.coatPipe]? with | some p => p.run | .none => 0
      t1 := .none, done := false
      late := false, signed := false, sigs := [] }
  let same (y : Coat) : Bool := y.pipe == x.pipe && y.layer == x.layer && y.frame == x.frame && y.num == x.num
    && y.run == x.run
  match findIdx' same s.hub.coats with
  | some j => ({ s with hub := { s.hub with coats := s.hub.coats.set j x } }, j)
  | .none => ({ s with hub := { s.hub with coats := s.hub.coats ++ [x] } }, s.hub.coats.length)

/-- QSET bits that name a vacant cell select nothing (00 R6). -/
def Rcb.present (r : Rcb) (h : Hub) : Rcb := { r with qset := r.qset.filter fun x => (h.cellMap.getD x.1 .none).isSome }

/-- The reason that a region built from a legal RCB fails for, from PRIVILEGE on; 0 where it is taken. -/
def State.takeReason (s : State) (r : Rcb) (reg : Region) (inh : Inherit) (parent : Option Nat)
    (decl : Option (List Byte × List Byte)) : Nat :=
  let root := parent.isNone
  let sysOk := match parent.bind fun p => s.regions[p]? with
    | some p => p.sys
    | .none => s.ctxFunc reg.ctx == 0 || (s.funcs.getD (s.ctxFunc reg.ctx) ⟨false, false, 0, []⟩).syscap
  let subset := r.qset.all fun x => inh.qset.contains x
  let limits := (!r.own 0 || subset) && (!r.own 2 || decide (r.bwcap ≤ inh.bwcap))
    && (!r.own 3 || inh.waylim == 0 || decide (1 ≤ r.waylim ∧ r.waylim ≤ inh.waylim))
    && (!r.own 4 || root || decide (r.prio ≤ inh.prio))
  let coatRoot := r.isCoat && root
  let onPane (x : Nat × Nat) : Bool := !(coatRoot && s.coatOk r) || paneOf x.1 == s.coatPaneOf r.coatPipe r.coatLayer r.coatNum
  let (s1, reg) : State × Region := if coatRoot && s.coatOk r then
      ((s.newCoat r reg.ctx).1, { reg with coat := some (s.newCoat r reg.ctx).2 }) else (s, reg)
  let k := s.regions.length
  if r.sys && !sysOk then 3
  else if 8 ≤ reg.depth then 4
  else if !limits then 5
  else if !(reg.qset.any fun x => (s1.heldQuads reg.part x.1).contains x.2 && onPane x) then 6
  else if r.isCoat && !(root && s.coatOk r) then 7
  else if !r.ringsOk then 8
  else if !s1.blockFits k reg then 9
  else if !s1.gangFits k reg then 10
  else if r.mustSave ≠ 0 && !(root && (match decl with
      | some (h, b) => (s.mustSaveOf reg.ctx reg.cls k reg.sys r.mustSave h b).isSome
      | .none => false)) then 11
  else 0

/-- A failed admission: its record, then the completion word (06 R171). -/
def State.admissionFail (s : State) (c reason rcb : Nat) (launched : Bool) (word : Option Rcb) : State :=
  let s1 := s.ctxRecord { ErrRec.plain 0x47 c with
    detail := reason + (if launched then 256 else 0) + 2 ^ 64 * rcb }
  match word with
  | some r => s1.doneWord c r.doneAddr r.doneVal 1 reason (bit r.flags 3)
  | .none => s1

/-- A region that is taken waits: the context runs, a coat and a declaration stand, the bound table is loaded
(05 R145). -/
def State.admitRegion (s : State) (r : Rcb) (reg : Region) (decl : Option (List Byte × List Byte)) : State :=
  let (s1, coat) := if r.isCoat then let x := s.newCoat r reg.ctx; (x.1, some x.2) else (s, reg.coat)
  let must := match decl with
    | some (h, b) => (s.mustSaveOf reg.ctx reg.cls s.regions.length reg.sys r.mustSave h b).toList
    | .none => []
  let bound := (s.ctx reg.ctx).bound
  let table := if bound = 0 then some []
    else if s.poisonVa reg.ctx bound 1024 then .none
    else match s.readVa reg.ctx bound 1024 with
      | .ok b => some (boundWords b)
      | .error _ => .none
  let s2 : State := { s1 with
    regions := s1.regions ++ [{ reg with coat := coat, order := s1.regions.length }]
    hub := { s1.hub with must := s1.hub.must ++ must } }
  -- a KIND 1 range is loaded and pinned (05 R155)
  let ranges := (must.flatMap (·.items)).filter (·.kind == 1)
  let s3 := (ranges.flatMap fun e => s.vaPieces reg.ctx e.start e.len).foldl
    (fun s p => s.hubPin s1.regions.length reg.cls p.1 p.2) s2
  s3.modCtx reg.ctx fun x => { x with
    bounds := match table with | some t => t | .none => x.bounds }

/-- TAKE a region of a context (06 R168). Every field is read as it stands in memory at the take and none later: of an RCB that is
changed after its post the spec leaves open which fields take new values (DESIGN CHOICE, assumption 40). Its class, the RCB's address, and for a launched one its parent and
block. The reason is 0 where it waits. -/
def State.take (s : State) (c cls rcb : Nat) (parent byBlock : Option Nat) : State × Nat :=
  let launched := parent.isSome
  let fail (reason : Nat) (w : Option Rcb) : State × Nat := (s.admissionFail c reason rcb launched w, reason)
  match s.readVa c rcb 256 with
  | .error _ => fail 1 .none
  | .ok raw =>
    if s.poisonVa c rcb 256 then fail 1 .none
    else
      let r := (Rcb.parse raw).present s.hub
      let pd := parent.bind fun p => s.regions[p]?
      let decl : Except Nat (Option (List Byte × List Byte)) :=
        if launched then .ok .none else s.declaration c r.mustSave
      let pool : Except Nat (Nat × Nat × Nat) := match pd with
        | some p => .ok (p.privPool, p.privPoolLen, p.spillBase)
        | .none => s.storage c
      match decl, pool with
      | .error e, _ => fail e (some r)
      | .ok _, .error e => fail e (some r)
      | .ok d, .ok pool =>
        if !r.formatOk || decide (rcb % 256 ≠ 0) then fail 2 (some r)
        else
          let inh := s.inherits c parent
          let cls := match pd with | some p => p.cls | .none => if r.isCoat then 0 else cls
          let reg := r.region inh c (s.ctx c).part cls (match pd with | some p => p.depth + 1 | .none => 0) rcb parent byBlock
            (pd.bind (·.coat)) pool
          match s.takeReason r reg inh parent d with
          | 0 => (s.admitRegion r reg d, 0)
          | n => fail n (some r)

end Sys2Proof.Machine
end

