-- ==== Sys2Proof/Machine/Evict.lean ====
section
/-! DEFINITION. Eviction: when a block is drained, its save image, and the resources it gives up (06 R187, R188;
11 R301 to R308, R312; 05 R144; 09 R255). -/
namespace Sys2Proof.Machine
open Sys2Proof

/-! ### When a block can be saved -/

/-- The groups of a block that are to be saved: live and in a slot. -/
def State.savable (s : State) (b : Nat) : List Nat :=
  (List.range s.groups.length).filter fun i =>
    let g := s.group i
    g.id.block == b && g.inSlot && g.ctl.status != .ended && g.ctl.status != .endedTail

/-- Every group of a block is blocked (06 R187). -/
def State.allBlocked (s : State) (b : Nat) : Bool :=
  (s.savable b).all fun i => !(s.group i).inGate && (match (s.group i).ctl.status with | .blocked _ => true | _ => false)

/-- A bead engine works on a palette or counting-board operation, which it completes before the save; the rest
of the queue is kept. -/
def Group.midOperation (g : Group) : Bool := match g.mat.queue with
  | e :: _ => match e.op with
    | .fill _ _ _ _ _ => true
    | .fillK _ _ _ _ _ => true
    | .release _ => true
    | .drain _ _ _ => true
    | .load _ _ => true
    | .clear _ _ => true
    | _ => false
  | [] => false

/-- Nothing that the save waits for is outstanding (11 R301, 15 R425, 09 R255). -/
def State.drainedBlock (s : State) (b : Nat) : Bool :=
  s.groups.all (fun g => g.id.block != b || (match g.ctl.status with
    | .free => true
    | .ended => false
    | .endedTail => false
    | .tracked => false
    | _ => g.regs.pend.isEmpty && g.trap.skid.isEmpty && (g.asy.ops.all fun o => o.cls == 1) && !g.midOperation))
  && s.atoms.all fun a => (s.group a.group).id.block != b

/-- A block that was called out for a recarve still stands on the cell. -/
def State.leavesFor (s : State) (x : Recarve) (b : Nat) : Bool := (s.block b).resident && (s.block b).cells.contains x.cell

/-- A block is to leave a cell for a shrink, a recarve or a fence (03 R91, R518; 05 R154). -/
def State.mustLeave (s : State) (b : Nat) : Bool := s.hub.recarves.any fun x => x.blocks.contains b && s.leavesFor x b

/-- A block belongs to a co-operative launch whose eviction has begun: its groups wait to be saved and wake no more (03 R92). -/
def State.leaving (s : State) (b : Nat) : Bool := s.hub.recarves.any fun x => x.began && x.launch.contains b && s.leavesFor x b

/-- A block belongs to a co-operative launch: a gang, or groups on several quadrants (03 R92). -/
def State.coop (s : State) (b : Nat) : Bool :=
  (match s.regions[(s.block b).region]? with | some r => r.gang | .none => false)
  || decide (1 < (dedupNat ((s.groups.filter fun g => g.id.block == b && g.inSlot).map fun g => g.loc.cell * 4 + g.loc.quad)).length)

/-- A slice end or an emptied quadrant calls for a block's eviction. -/
def State.evictDue (s : State) (b : Nat) : Bool :=
  match s.regions[(s.block b).region]? with
  | .none => false
  | some r =>
    let called (x : Nat) : Bool := (s.block x).cells.any (fun c => r.sliceEnded.contains c) || s.mustLeave x
    if r.gang then (List.range s.blocks.length).any fun x => (s.block x).region == (s.block b).region && (s.block x).resident && called x
    else called b

/-- A slice wait is due in a block: a slice has ended on a cell of it, or of a block of its gang, or it is called out of
quadrants that are to be emptied, which a co-operative launch leaves without one (06 R186; 03 R91, R92). -/
def State.waitDue (s : State) (b : Nat) : Bool :=
  match s.regions[(s.block b).region]? with
  | .none => false
  | some r =>
    let called (x : Nat) : Bool := (s.block x).resident
      && ((s.block x).cells.any (fun c => r.sliceEnded.contains c) || (s.mustLeave x && !s.coop x))
    if r.gang then (List.range s.blocks.length).any fun x => (s.block x).region == (s.block b).region && called x
    else called b

/-- A group stands in a slot with a live thread or a wait, so that a slice wait concerns it. -/
def Group.standing (g : Group) : Bool := g.inSlot && g.ctl.status != .ended && g.ctl.status != .endedTail

/-- Every group takes the slice wait that is due to it. -/
def State.callSlices (s : State) : State :=
  { s with groups := s.groups.map fun g =>
      if g.standing && !g.ctl.sliceWait && s.waitDue g.id.block then g.callSlice else g }

/-- Every group whose slice wait nothing calls for any longer leaves it. -/
def State.liftSlices (s : State) : State :=
  { s with groups := s.groups.map fun g =>
      if g.standing && g.ctl.sliceWait && !s.waitDue g.id.block then g.liftSlice (s.now g) else g }

/-- The blocks that leave together with one: all of a gang region's. -/
def State.together (s : State) (b : Nat) : List Nat :=
  match s.regions[(s.block b).region]? with
  | .none => [b]
  | some r => if r.gang then (List.range s.blocks.length).filter fun x => (s.block x).region == (s.block b).region && (s.block x).resident
    else [b]

/-- The block can be evicted now. -/
def State.canEvict (s : State) (b : Nat) : Bool :=
  (s.block b).resident && s.evictDue b && (s.together b).all fun x => s.allBlocked x && s.drainedBlock x

/-! ### The records (11 R304 to R307) -/

/-- The code of a wake condition: 1 for the slice wait, else one more than its row in 06 R182 (11 R305). -/
def Wake.code : Wake → Nat
  | .slice => 1
  | .bar _ => 2
  | .bobj _ _ => 2
  | .sem _ _ => 3
  | .waitc => 4
  | .ring _ => 5
  | .tile _ => 6
  | .msg _ => 6
  | .fill _ => 7
  | .cnt _ _ => 8
  | .sleep _ _ _ => 9
  | .yield => 10
  | .kstep => 11
/-- The remaining clocks of a saved sleep. -/
def Wake.arg : Wake → Nat
  | .sleep t _ _ => t
  | _ => 0

/-- The bits of lanes for which a list of thread keys holds. -/
def Group.lanesIn (g : Group) (l : List (Nat × Nat)) : Nat :=
  (Lanes.ofFn 32 fun i => g.ctl.live.has i && l.contains (g.thread i)).toNat

/-- The state of the parked sub-groups as a code. -/
def PState.code : PState → Nat
  | .none => 0
  | .others => 1
  | .handler => 2
  | .resumed => 3

/-- The first 0xFFC bytes of a group's record: a vector-side one with its registers' tags, a matrix one with
them zero. `key` names the opaque mask-stack bytes. -/
def Group.saveHead (g : Group) (bl : Block) (key : Nat) : List Byte :=
  let m := g.id.role == .matrix
  let w := match g.ctl.status with | .evicted w => w | _ => .none
  let words (n : Nat) (f : Nat → Word) : List Byte := (List.range n).flatMap fun i => wordBytes (f i)
  let z (n : Nat) : List Byte := List.replicate n 0#8
  let pend := match g.asy.deferred.findSome? (·.fault) with
    | some f => [BitVec.ofNat 8 f.code, BitVec.ofNat 8 f.detail] ++ z 6 ++ leBytes 8 ((f.addr.getD g.ctl.pc).toNat)
    | .none => z 16
  let rankOf (r : Nat) : Nat := (findIdx' (· == r) g.regs.order).getD 0
  let nreg := 8 * g.id.vregs
  padTo 0xFFC (
    [1#8, BitVec.ofNat 8 (bl.rank g.loc.cell), BitVec.ofNat 8 g.id.seg,
      BitVec.ofNat 8 ((if g.id.quadMode then 1 else 0) + (if g.id.relaunched then 2 else 0))]
    ++ wordBytes g.ctl.live ++ leBytes 8 g.ctl.pc.toNat
    ++ leBytes 4 (g.lanesIn bl.arrived) ++ leBytes 4 (g.lanesIn bl.dropped)
    ++ (List.range 4).flatMap (fun c => leBytes 1 (g.count c))
    ++ [BitVec.ofNat 8 (w.elim 0 Wake.code), if g.ctl.wakeHit then 1#8 else 0#8] ++ z 2 ++ leBytes 8 (w.elim 0 Wake.arg)
    ++ leBytes 8 g.sr.gtimer ++ leBytes 8 g.sr.gtcmp ++ leBytes 8 g.sr.tvec.toNat ++ leBytes 8 g.sr.promise
    ++ wordBytes g.sr.fpctl ++ wordBytes g.sr.fpstat ++ wordBytes g.sr.seed ++ wordBytes g.sr.migrate
    ++ wordBytes g.sr.derivflag ++ wordBytes g.sr.gatestat ++ pend
    ++ (if m then z 28 else (List.range 7).flatMap fun k => wordBytes (g.regs.k.getD (k + 1) 0#32)) ++ z 4
    ++ wordBytes g.ctl.helper ++ leBytes 4 ((g.id.binds.findSome? fun b => b).elim 0 fun b => b / 32) ++ z 8
    ++ (List.range 32).flatMap (fun l => leBytes 2 (g.id.tidx.getD l 0))
    ++ words 32 g.genOf ++ words 32 (fun l => g.id.key.getD l 0#32) ++ words 32 (fun l => g.id.pseq.getD l 0#32)
    ++ [BitVec.ofNat 8 g.trap.parked.length, BitVec.ofNat 8 g.trap.pstate.code, BitVec.ofNat 8 g.trap.hdepth,
      BitVec.ofNat 8 g.asy.gates.length] ++ z 4
    ++ padTo (32 * 24) (g.trap.parked.flatMap fun p => wordBytes p.mask ++ z 4 ++ leBytes 8 p.pc.toNat ++ leBytes 8 p.info.toNat)
    ++ z 152 ++ (List.range 512).map (Config.freeStack key)
    ++ words 256 g.sreg
    ++ (if m then [] else
      padTo 112 ((List.range nreg).map fun r =>
        BitVec.ofNat 8 ((packReg g.ctl.live (g.vreg r).val).1 + (if (g.vreg r).tag = 0 then 128 else 0)))
      ++ padTo 112 ((List.range nreg).map fun r => BitVec.ofNat 8 (rankOf r))))
/-- A record's first 0x1000 bytes, with its CHECK. -/
def Group.saveRecord (g : Group) (bl : Block) (key : Nat) : List Byte :=
  let b := g.saveHead bl key
  b ++ leBytes 4 (crc32c b)
/-- The registers of a vector-side record. -/
def Group.saveRegs (g : Group) : List Byte :=
  (List.range (8 * g.id.vregs)).flatMap fun r => padTo 128 (packReg g.ctl.live (g.vreg r).val).2
/-- The rest of a matrix record. -/
def Group.saveMatrix (g : Group) (tiles : Nat → List Word) (pal : Nat → Mem) : List Byte :=
  let z (n : Nat) : List Byte := List.replicate n 0#8
  (List.range 64).flatMap (fun t => (tiles t).flatMap wordBytes)
  ++ leBytes 8 g.mat.mode ++ z 8
  ++ (List.range 16).flatMap (fun n => leBytes 16 (g.palRec n).value)
  ++ padTo (63 * 32) (g.mat.queue.flatMap fun e =>
      leBytes 4 e.word ++ z 4 ++ leBytes 8 e.av ++ leBytes 8 e.bv ++ leBytes 2 e.kdone ++ z 6)
  ++ z 1808
  ++ (List.range 16).flatMap fun n =>
      let r := g.palRec n
      if r.held then (pal r.base).bytes 0 (256 * r.len) else []

/-- An index entry's 16 bytes. -/
def IndexEntry.save (bl : Block) (e : IndexEntry) : List Byte :=
  let f (b : Bool) (n : Nat) : Nat := if b then n else 0
  leBytes 2 e.tidx ++ leBytes 1 e.seg
  ++ leBytes 1 (f e.quad 1 + f e.helper 2 + f e.ready 4 + f (bl.arrived.contains (0, e.tidx)) 8 + f (bl.dropped.contains (0, e.tidx)) 16)
  ++ wordBytes e.key ++ wordBytes e.pseq ++ leBytes 4 (e.ticket.elim 0 fun t => t / 32)

/-- The place of a group's record in its block's image: the place in its kind's array, and the address. -/
def Block.recordAt (bl : Block) (segs : List Segment) (matrix : Bool) (j : Nat) : Nat :=
  let n := (segStarts segs).2
  let c := bl.cells.length
  let v := ((usedSegs segs).map (·.vregs)).foldl max 0
  let size := 0x1000 + 1024 * v
  let base := bl.imageBase + 0x400 + 16 * n + c * bl.shared
  if matrix then base + min n (384 * c) * size + j * 0x1A000 else base + j * size

/-! ### Saving -/

/-- Bytes written for the device; a page that cannot be written is passed over. -/
def State.saveBytes (s : State) (c va : Nat) (b : List Byte) : State :=
  match s.writeVa c va b with
  | .ok s1 => s1
  | .error _ => s

/-- A spilled register's value in its slot as the save copies it, with its poison: the valid bytes of the cell cache and the
rest from the home copy. -/
def State.peekSlot (s : State) (i r : Nat) : Option (VVal × Option (Nat × Poison)) :=
  let g := s.group i
  let va := s.slotAddr g r
  let tag := (g.vreg r).tag
  let n := packLen tag
  match s.xlateG g false va with
  | .error _ => .none
  | .ok t =>
    let part := s.partOf g
    let hit (k : Nat) : Option Poison := (s.cachedPoison part g.loc.cell (t.phys va + k) 1).map (·.2)
    some (unpackReg g.ctl.live tag (s.cachedRead part g.loc.cell (t.phys va) n),
      (List.range 32).findSome? fun e => if entryByte tag e < n then (hit (entryByte tag e)).map fun p => (e, p) else .none)

/-- A group as it is saved: spilled values taken from their slots, times as remaining clocks, its wake
condition. -/
def State.saveGroup (s : State) (i : Nat) : Group :=
  let g := s.group i
  let now := s.now g
  let v := (List.range g.regs.v.length).map fun r =>
    let x := g.vreg r
    if x.tag = 0 then x
    else match s.peekSlot i r with
      | some (y, p) => { x with val := y, poison := p }
      | .none => x
  let w := match g.ctl.status with
    | .blocked (.sleep t p m) => some (.sleep (t - now) p m)
    | .blocked w => some w
    | _ => .none
  let g1 := g.withRegs fun r => { r with v := v }
  let g2 := g1.withCtl fun c => { c with status := .evicted w, clause := .none, sliceWait := false, loss := 0, promoted := false }
  { g2.withSr (fun r => { r with promise := r.promise - now }) with paused := [] }

/-- The image of a block whose groups have been drained, and its bytes at the home copy. -/
def State.writeImage (s : State) (b : Nat) (ids : List Nat) (img : Image) : State :=
  let bl := s.block b
  let segs := match s.regions[bl.region]? with | some r => r.segs | .none => []
  let vec := ids.filter fun i => (s.group i).id.role != .matrix
  let mat := ids.filter fun i => (s.group i).id.role == .matrix
  let head := leBytes 2 1 ++ leBytes 1 bl.cells.length ++ leBytes 1 0 ++ leBytes 2 vec.length ++ leBytes 2 mat.length
    ++ leBytes 4 img.index.length ++ leBytes 4 bl.barP ++ leBytes 4 bl.barE ++ leBytes 4 bl.barA
    ++ (List.range 4).flatMap (fun r => leBytes 8 (bl.rs.getD r 0)) ++ List.replicate 968 0#8
  let at4 := bl.imageBase
  let s1 := s.saveBytes bl.ctx at4 (head ++ img.index.flatMap (IndexEntry.save bl))
  let n := (segStarts segs).2
  let s2 := (List.range img.segs.length).foldl (fun s r =>
    s.saveBytes bl.ctx (at4 + 0x400 + 16 * n + r * bl.shared) ((img.segs.getD r []).bytes 0 bl.shared)) s1
  let s3 := (List.range vec.length).foldl (fun s j =>
    let g := s.group (vec.getD j 0)
    s.saveBytes bl.ctx (bl.recordAt segs false j) (g.saveRecord bl (img.mark + vec.getD j 0) ++ g.saveRegs)) s2
  (List.range mat.length).foldl (fun s j =>
    let i := mat.getD j 0
    let g := s.group i
    let tile (t : Nat) : List Word := ((img.tiles.find? fun x => x.1 == i && x.2.1 == t).map (·.2.2)).getD zeroTile
    let pal (o : Nat) : Mem := ((img.pals.find? fun x => x.group == i && x.base == o).map (·.bytes)).getD []
    s.saveBytes bl.ctx (bl.recordAt segs true j) (g.saveRecord bl (img.mark + i) ++ g.saveMatrix tile pal)) s3

/-- The rings of a block written into their words of its segment. -/
def State.ringsOut (s : State) (b : Nat) : State :=
  let bl := s.block b
  match s.groups.find? fun g => g.id.block == b && g.inSlot with
  | .none => s
  | some g => (List.range bl.ringHw.length).foldl (fun s r =>
      s.segWrite b g.loc.cell (4 * r) (leBytes 4 (s.ringAt g r).2.word)) s

/-- EVICT one block (06 R187): early commit, releases, the image, and what it held is freed. -/
def State.evictOne (s : State) (b : Nat) : State :=
  let ids := s.savable b
  let s0 := s.commitEarly b
  let bl := s0.block b
  -- a release of scope .dev for each group
  let s1 := (bl.cells.foldl (fun s c => s.drainLines bl.part c (allFifoLines (s.window bl.part c).fifo)) s0)
  let s2 := (ids.foldl (fun s i => s.publishGroup i) s1).ringsOut b
  let saved := ids.map fun i => (i, s2.saveGroup i)
  let mats := ids.filter fun i => (s2.group i).id.role == .matrix
  let quadAt (i : Nat) : Option Quad := s2.quadOf (s2.group i)
  let img : Image :=
    { segs := bl.cells.map fun c => (s2.window bl.part c).mem.slice (bl.seg c) bl.shared
      segPoison := bl.cells.map fun c => ((s2.window bl.part c).poison.filter fun p =>
        decide (bl.seg c ≤ p.1 ∧ p.1 < bl.seg c + bl.shared)).map fun p => (p.1 - bl.seg c, p.2)
      index := (bl.cells.flatMap fun c => match s2.cells[c]? with | some x => x.index.filter fun e => e.block == b | .none => [])
      tiles := mats.flatMap fun i => (List.range 64).filterMap fun t =>
        let w := s2.tile (s2.group i) t
        if w == zeroTile then .none else some (i, t, w)
      tilePoison := mats.flatMap fun i => match quadAt i with
        | .none => []
        | some q =>
          let o := 128 * (s2.group i).boardTile 0
          (q.boardPoison.filter fun p => decide (o ≤ p.1 ∧ p.1 < o + 8192)).map fun p => (i, p.1 - o, p.2)
      pals := mats.flatMap fun i => match quadAt i with
        | .none => []
        | some q => (q.palUnits.filter fun u => (s2.group i).palBases.contains u.1).map fun u =>
            ⟨i, u.1, u.2, q.palette.slice u.1 (256 * u.2),
              (q.palPoison.filter fun p => decide (u.1 ≤ p.1 ∧ p.1 < u.1 + 256 * u.2)).map fun p => (p.1 - u.1, p.2)⟩
      mark := s2.fresh }
  let s3 : State := { s2 with fresh := s2.fresh + s2.groups.length }
  let s4 := saved.foldl (fun s x => s.setGroup x.1 x.2) s3
  let s5 := s4.writeImage b ids img
  let bases := mats.flatMap fun i => (s2.group i).palBases.map fun x => (i, x)
  let s6 := bases.foldl (fun s x => s.modQuad (s2.group x.1).loc.cell (s2.group x.1).loc.quad fun q => q.palDrop x.2) s5
  let s7 := s6.leavePlace b
  let s8 : State := { s7 with cells := s7.cells.map fun c => { c with index := c.index.filter fun e => e.block != b } }
  s8.modBlock b fun x => { x with resident := false, image := some img, tags := [], segBase := [], shadowBase := [], ringHw := [], shadow := .none }

/-- BLOCK_EVICT: a block, or every block of its gang, is evicted once all of its groups are blocked and what
the save waits for is done. -/
def execBlockEvict (b : Nat) (s : State) : Host.Outcome State Fault Refusal :=
  .next (if s.canEvict b then (s.together b).foldl (fun s x => s.evictOne x) s else s)

end Sys2Proof.Machine
end

