-- ==== Sys2Proof/Machine/Sched.lean ====
section
/-! DEFINITION. Placement of new and of evicted blocks, slices, and the end of regions: POST takes, LAUNCH and
REGION.JOIN, major 0x08 (06 R168, R172, R175 to R177, R185, R186, R188; 07 R192, R208; 08 R230, R233; 09 R255;
11 R302, R306 to R308, R311, R312; 13 R341, R362, R363). -/
namespace Sys2Proof.Machine
open Sys2Proof

def State.modRegion (s : State) (k : Nat) (f : Region → Region) : State := { s with regions := modifyAt s.regions k f }

/-! ### A group's start (07 R192, 13 R341) -/

/-- The lanes below `n`. -/
def firstLanes (n : Nat) : Lanes := Lanes.ofFn 32 fun l => decide (l < n)

/-- A group as it starts, for lanes with their thread indices. -/
def Group.born (r : Region) (b blk seg : Nat) (g : Segment) (tidx : List Nat) (live : Lanes) (loc : GLoc) (pc : DWord)
    (relaunched : Bool) (privBase now : Nat) : Group :=
  let s4 : Word := if relaunched then 0xFFFFFFFF#32 else BitVec.ofNat 32 (tidx.headD 0)
  let s : List Word := [loWord r.rcb, hiWord r.rcb, BitVec.ofNat 32 blk, BitVec.ofNat 32 seg, s4, BitVec.ofNat 32 g.threads]
  { loc := loc
    id := { block := b, seg := seg, role := g.role, vregs := g.vregs, budget := g.budget, ctx := r.ctx, sys := r.sys
            quadMode := false, relaunched := relaunched, pfail := false, tidx := tidx
            key := List.replicate 32 0#32, pseq := List.replicate 32 0#32
            gen := (List.range 32).map fun l => seedState 0#32 (tidx.getD l 0), binds := List.replicate 32 .none }
    regs := { v := List.replicate (8 * g.vregs) VReg.zero, s := s ++ List.replicate 250 0#32, k := List.replicate 8 0#32
              order := List.range (8 * g.vregs), pend := [] }
    ctl := { pc := pc, clause := .none, live := live, act := live, helper := 0#32, stack := [], runCount := 0, issued := 0
             status := .ready, wakeHit := false, readyTime := now, loss := 0, promoted := false, sliceWait := false
             heldClocks := 0, drained := false, begun := .none, missed := .none }
    trap := ⟨[], .none, [], 0, .none, [], .none⟩
    sr := { gtimer := 0, gtcmp := 0, promise := 0, tvec := 0#64, fpctl := 0#32, fpstat := 0#32, seed := 0#32, migrate := 0#32
            derivflag := 0#32, gatestat := 0#32, blockid := BitVec.ofNat 32 blk, privbase := privBase, privsize := r.privw }
    asy := { cnt := [0, 0, 0, 0], ops := [], nextOp := 0, deferred := [], subs := [], ringHeld := List.replicate 16 0
             rsOut := List.replicate 8 0#32, rsAcq := List.replicate 8 .none, acq := 0, heirs := [], gates := [] }
    mat := ⟨modeReset, modeReset, List.replicate 16 PalRec.zero, []⟩
    mons := [], paused := [] }

/-- The return slots of a place read as zero (15 R425). -/
def State.clearSlots (s : State) (g : Group) : State :=
  if g.loc.abacus then s
  else
    let a := s.rslotAddr g 0 0
    s.modWindow (s.partOf g) g.loc.cell fun w =>
      { w with mem := w.mem.erase a 0x800, poison := w.poison.filter fun p => !decide (a ≤ p.1 ∧ p.1 < a + 0x800) }

/-! ### First placement -/

/-- Rings bound in a quadrant (06 R175). -/
def State.bindRings (s : State) (cell quad : Nat) (hw : List Nat) (x : Nat → Ring) : State :=
  s.modQuad cell quad fun q =>
    { q with rings := (List.range hw.length).foldl (fun l r => l.set (hw.getD r 0) { x r with bound := true }) q.rings }

/-- The cells of a placement take the acquire of scope .dev (09 R255), and the instruction caches of their quadrants drop
what they hold of the context (12 R326). -/
def State.openCells (s : State) (c part : Nat) (cells : List Nat) : State :=
  cells.foldl (fun s x => (s.markStale part x).modCell x fun y =>
    { y with quads := y.quads.map fun q => { q with icache := q.icache.filter fun e => e.key != c } }) s

/-- The charges of a region on cells where its block is placed again start at zero (06 R185). -/
def State.zeroCharge (s : State) (k : Nat) (cells : List Nat) : State :=
  s.modRegion k fun r => { r with charge := r.charge.filter fun x => !cells.contains x.1 }

/-- PLACE a region's next block for the first time. -/
def State.placeNew (s : State) (k : Nat) (r : Region) (p : Plan) (pool : Nat × Nat) : State :=
  let b := s.blocks.length
  let threads := ((usedSegs r.segs).map (·.threads)).foldl (· + ·) 0
  let bl : Block :=
    { region := k, index := r.nextBlock, ctx := r.ctx, part := r.part, resident := true, placed := true, retired := false
      terminated := false, cells := p.cells, barP := 0, barE := threads, barA := 0, arrived := [], dropped := [], lastphase := []
      segBase := p.segs, shared := r.shared, shadowBase := p.shadows, ucap := r.ucap, fdom := r.fdom, rings := r.rings
      ringHw := p.rings, privBase := pool.1, privLen := privBytes r.segs r.privw, privw := r.privw, imageBase := pool.2
      imageLen := imageBytes r.segs r.shared p.cells.length, rs := p.cells.map fun _ => 0, tags := [], shadow := .none
      early := false, retries := 0, rollPending := false, image := .none }
  let born (x : (Nat × Nat × Nat) × (GLoc × List Nat)) : Group :=
    let loc := x.2.1
    let g := r.segs.getD x.1.1 ⟨false, .general, 0, 0, 0, 0#64⟩
    Group.born r b r.nextBlock x.1.1 g ((List.range 32).map fun l => x.1.2.1 + l) (firstLanes x.1.2.2) loc g.pc false
      pool.1 (p.st.cyc loc.cell)
  let gs := ((groupsOf r.segs).zip p.locs).map born
  let s1 := p.st.openCells r.ctx r.part p.cells
  let s2 := (p.cells.zip p.segs).foldl (fun s x => s.modWindow r.part x.1 fun w =>
    { w with mem := w.mem.erase x.2 r.shared
             poison := w.poison.filter fun q => !decide (x.2 ≤ q.1 ∧ q.1 < x.2 + r.shared) }) s1
  let s3 := match p.locs.head?, p.rings with
    | some x, _ :: _ => s2.bindRings x.1.cell x.1.quad p.rings fun _ => Ring.empty
    | _, _ => s2
  let s4 := gs.foldl (fun s g => if g.loc.abacus then
      s.modQuad g.loc.cell g.loc.quad fun q => q.clearTiles (64 * g.loc.slot) 64 else s.clearSlots g) s3
  let s5 : State := { s4 with blocks := s4.blocks ++ [bl], groups := s4.groups ++ gs }
  ((s5.modRegion k fun r => { r with nextBlock := r.nextBlock + 1, admitted := true, waiting := decide (r.nextBlock + 1 < r.grid) }).takeShadow b).callSlices

/-! ### Placement of an evicted block (11 R302, R306 to R312) -/

/-- The saved groups of a block. -/
def State.savedGroups (s : State) (b : Nat) : List Nat :=
  (List.range s.groups.length).filter fun i =>
    (s.group i).id.block == b && (match (s.group i).ctl.status with | .evicted _ => true | _ => false)

/-- The cells of tiles that a block's threads are bound to, with their ranks (17 R477). -/
def State.tileCells (s : State) (b : Nat) : List (Nat × Nat) :=
  let bl := s.block b
  let ids := ((s.savedGroups b).flatMap fun i => (s.group i).id.binds.filterMap fun x => x.map (· / 64))
    ++ (match bl.image with | some m => m.index.filterMap fun e => e.ticket.map (· / 64) | .none => [])
  let cells := s.passes.flatMap fun p => p.tiles.filterMap fun t => match t.cur, t.mem with
    | some c, some m => if ids.contains c.id then some m.1 else .none
    | _, _ => .none
  (dedupNat cells).filterMap fun c => (findIdx' (· == c) bl.cells).map fun r => (r, c)

/-- What an evicted block asks for. -/
def State.returnAsk (s : State) (b : Nat) : Ask :=
  let bl := s.block b
  let pals (i : Nat) : List Nat := match bl.image with | some m => (m.pals.filter fun x => x.group == i).map (·.units) | .none => []
  { wants := (s.savedGroups b).map fun i =>
      let g := s.group i
      (⟨if g.loc.abacus then 0 else g.entryBudget, g.loc.abacus, .none, pals i⟩, some (bl.rank g.loc.cell))
    count := some bl.cells.length, fixed := s.tileCells b }

/-- A reservation record, and a queued operation, with reservations at their new bases. -/
def PalRec.moved (f : Nat → Nat) (r : PalRec) : PalRec := { r with base := f r.base }
def MatSrc.moved (f : Nat → Nat) : MatSrc → MatSrc
  | .cell v => .cell v
  | .pal r lut => .pal (r.moved f) (f lut)
def MatOp.moved (f : Nat → Nat) : MatOp → MatOp
  | .mode m => .mode m
  | .mma c t a b => .mma c t (a.moved f) (b.moved f)
  | .zero t => .zero t
  | .sync o => .sync o
  | .scale t x => .scale t x
  | .fill r a b c o => .fill (r.moved f) a b c o
  | .fillK r a n d o => .fillK (r.moved f) a n d o
  | .release b => .release (b.map f)
  | .drain t d c => .drain t d c
  | .load t a => .load t a
  | .clear t n => .clear t n

/-- A group's record in memory still carries its CHECK and its mask stack (11 R308, 07 R198). -/
def State.recordStands (s : State) (bl : Block) (segs : List Segment) (matrix : Bool) (j key : Nat) : Bool :=
  match s.readVa bl.ctx (bl.recordAt segs matrix j) 0x1000 with
  | .error _ => false
  | .ok b => crc32c (b.take 0xFFC) == fieldAt b 0xFFC 4
      && (b.drop 0x600).take 512 == (List.range 512).map (Config.freeStack key)

/-- A saved group in its new place, with the base of each reservation (11 R306, R307, R310 to R312). -/
def Group.placedBack (g : Group) (loc : GLoc) (f : Nat → Nat) (now rs : Nat) (semAt : Nat → Word) : Group :=
  let moved := g.loc.cell != loc.cell
  let mig : Word :=
    let n := min 0xFFFF (bits g.sr.migrate.toNat 15 0 + 1)
    BitVec.ofNat 32 (2 ^ 31 + g.loc.cell * 2 ^ 16 + n)
  let g1 : Group := { g with loc := loc }
  let g2 := g1.withSr fun x => { x with promise := now + x.promise, migrate := if moved then mig else x.migrate }
  let g3 := g2.withAsy fun a => { a with rsOut := List.replicate 8 0#32, rsAcq := List.replicate 8 .none, acq := rs }
  let g4 := g3.withMat fun m => { m with
    pal := m.pal.map fun x => if x.held then x.moved f else x
    queue := m.queue.map fun e => { e with op := e.op.moved f } }
  let saved := match g.ctl.status with | .evicted w => w | _ => .none
  let st : Status := match saved with
    | .none => .ready
    | some .slice => .ready
    | some .kstep => .ready
    | some (.sleep t p m) => if g.ctl.wakeHit then .ready else .blocked (.sleep (now + t) p m)
    | some w => if g.ctl.wakeHit then .ready else .blocked w
  let semHit := match saved with | some (.sem n v) => decide (v.toNat ≤ (semAt n).toNat) | _ => false
  g4.withCtl fun c => { c with status := st, wakeHit := c.wakeHit || semHit, readyTime := now }

/-- A slot written at the home copy: what a write through the cell cache and the line's replacement leave. -/
def State.spillHome (s : State) (i r : Nat) : State :=
  let g := s.group i
  let va := s.slotAddr g r
  match s.xlateG g true va with
  | .error _ => s
  | .ok t =>
    let (tag, b) := packReg g.ctl.live (g.vreg r).val
    (s.homeWrite (t.phys va) b).modGroup i fun g => g.withRegs fun rs => { rs with v := modifyAt rs.v r fun x => { x with tag := tag } }

/-- The spilled registers of a group written to its slots, at its placement or at a rollback; the first that fails is raised
at the group's next instruction (11 R306). -/
def State.respill (s : State) (i : Nat) : State :=
  let g := s.group i
  (List.range (8 * g.id.vregs)).foldl (fun s r =>
    let g := s.group i
    if (g.vreg r).tag = 0 then s
    else match s.spillReg i r with
      | .ok (some s1) => s1
      | .ok .none => s.spillHome i r
      | .error f => s.modGroup i fun g => g.withTrap fun t => { t with atNext := match t.atNext with | some x => some x | .none => some f }) s

/-- PLACE an evicted block again. -/
def State.placeBack (s : State) (b : Nat) (k : Nat) (r : Region) (p : Plan) : State :=
  let old := s.block b
  let img := (old.image).getD ⟨[], [], [], [], [], [], 0⟩
  let ids := s.savedGroups b
  let vec := ids.filter fun i => (s.group i).id.role != .matrix
  let mat := ids.filter fun i => (s.group i).id.role == .matrix
  let bad := (ids.filter fun i =>
    let m := (s.group i).id.role == .matrix
    let j := (findIdx' (· == i) (if m then mat else vec)).getD 0
    !s.recordStands old r.segs m j (img.mark + i))
  let s1 := ((p.st.openCells r.ctx r.part p.cells).zeroCharge k p.cells).modBlock b fun x =>
    { x with resident := true, image := .none, cells := p.cells, segBase := p.segs, shadowBase := p.shadows, ringHw := p.rings, tags := [] }
  -- shared segments and index entries return by cell rank
  let s2 := (List.range p.cells.length).foldl (fun s j =>
    let off := p.segs.getD j 0
    s.modWindow r.part (p.cells.getD j 0) fun w =>
      { w with
        mem := (w.mem.erase off old.shared).paste off (img.segs.getD j [])
        poison := ((img.segPoison.getD j []).map fun q => (off + q.1, q.2))
          ++ w.poison.filter fun q => !decide (off ≤ q.1 ∧ q.1 < off + old.shared) }) s1
  let s3 := img.index.foldl (fun s e =>
    let c := p.cells.getD (old.rank e.cell) 0
    s.modCell c fun x => { x with index := x.index ++ [{ e with cell := c }] }) s2
  let place (s : State) (x : Nat × (GLoc × List Nat)) : State :=
    let (i, loc, bases) := x
    let g := s.group i
    let pals := img.pals.filter fun y => y.group == i
    let f (o : Nat) : Nat := match findIdx' (fun y : PalSave => y.base == o) pals with
      | some j => bases.getD j o
      | .none => o
    let now := s.cyc loc.cell
    let g1 := g.placedBack loc f now ((s.block b).rs.getD (old.rank g.loc.cell) 0) fun n => s.sem loc.cell n
    let s1 := s.setGroup i g1
    let s2 := if bad.contains i then s1.modGroup i fun g => g.withTrap fun t => { t with atNext := some (structureFault g) } else s1
    if loc.abacus then
      let o := 64 * loc.slot
      s2.modQuad loc.cell loc.quad fun q =>
        let q1 := (img.tiles.filter fun y => y.1 == i).foldl (fun (q : Quad) y => q.setTile (o + y.2.1) y.2.2) (q.clearTiles o 64)
        let q2 := { q1 with boardPoison := ((img.tilePoison.filter fun y => y.1 == i).map fun y => (128 * o + y.2.1, y.2.2)) ++ q1.boardPoison }
        (List.range pals.length).foldl (fun (q : Quad) j => match pals[j]? with
          | .none => q
          | some y =>
            let base := bases.getD j 0
            let q3 := q.palTake base y.units
            { q3 with palette := q3.palette.paste base y.bytes
                      palPoison := (y.poison.map fun z => (base + z.1, z.2)) ++ q3.palPoison }) q2
    else (s2.clearSlots g1).respill i
  let s4 := (ids.zip p.locs).foldl place s3
  State.callSlices (match p.locs.head?, p.rings with
    | some x, _ :: _ => s4.bindRings x.1.cell x.1.quad p.rings fun n =>
        Ring.ofWord (leValue ((s4.winRead r.part x.1.cell (p.segs.headD 0 + 4 * n) 4)))
    | _, _ => s4)

/-! ### The waiting list (06 R176) -/

/-- Effective priority (06 R167). -/
def Region.effective (r : Region) : Nat := (3 - r.cls) * 8 + r.prio

/-- What waits: a region's next block, or one of its evicted blocks. -/
structure Item where
  region : Nat
  block : Option Nat
  deriving DecidableEq, Repr

/-- The waiting items of a partition, in order: by effective priority, then take order, evicted blocks ahead of
their region's new ones. A gang is one item. -/
def State.waitList (s : State) (part : Nat) : List Item :=
  let one (k : Nat) : List Item := match s.regions[k]? with
    | .none => []
    | some r =>
      if r.part ≠ part || r.complete then []
      else
        let back := (List.range s.blocks.length).filter fun b =>
          (s.block b).region == k && (s.block b).placed && !(s.block b).retired && !(s.block b).resident
        let backs : List Item := back.map fun b => ⟨k, some b⟩
        let fresh : List Item := if r.nextBlock < r.grid then [⟨k, .none⟩] else []
        if r.gang then (backs ++ fresh).take 1 else backs ++ fresh
  let ks := sortBy (fun k => match s.regions[k]? with | some r => (31 - r.effective) * 2 ^ 32 + r.order | .none => 0)
    (List.range s.regions.length)
  ks.flatMap one

/-- One block placed where it fits. -/
def State.placeOneItem (s : State) (it : Item) (barred : List (Nat × Nat)) : Option State :=
  match s.regions[it.region]? with
  | .none => .none
  | some r =>
    let ok (c q : Nat) : Bool := s.eligible r c q && !barred.contains (c, q)
    match it.block with
    | some b => (s.plan it.region r ok s.room (s.returnAsk b)).map fun p => s.placeBack b it.region r p
    | .none => match s.plan it.region r ok s.room r.ask with
      | .none => .none
      | some p => (s.takePool r p.cells.length).map fun pool => s.placeNew it.region r p pool

/-- A gang's blocks placed one after another. -/
def State.placeGang (k : Nat) (barred : List (Nat × Nat)) : Nat → State → Option State
  | 0, s => some s
  | fuel + 1, s => match s.regions[k]? with
    | .none => .none
    | some r =>
      let back := (List.range s.blocks.length).find? fun b =>
        (s.block b).region == k && (s.block b).placed && !(s.block b).retired && !(s.block b).resident
      match back with
      | some b => (s.placeOneItem ⟨k, some b⟩ barred).bind (State.placeGang k barred fuel)
      | .none => if r.nextBlock < r.grid then (s.placeOneItem ⟨k, .none⟩ barred).bind (State.placeGang k barred fuel) else some s

/-- An item placed: a gang wholly, in one step. -/
def State.placeItem (s : State) (it : Item) (barred : List (Nat × Nat)) : Option State :=
  match s.regions[it.region]? with
  | .none => .none
  | some r => if r.gang then State.placeGang it.region barred (maxResident + 1) s else s.placeOneItem it barred

/-- The quadrants that a gang which bars others keeps from the items after it. -/
def State.barsOf (s : State) (it : Item) : List (Nat × Nat) :=
  match s.regions[it.region]? with | some r => if r.barring then r.qset else [] | .none => []

/-- The first item of the list that fits is placed. A gang that is the first not to fit keeps its quadrants, from then
on until it is placed, from the items after it (06 R176). -/
def State.walkGo : Bool → List (Nat × Nat) → List Item → State → State
  | _, _, [], s => s
  | first, barred, it :: rest, s => match s.placeItem it barred with
    | some s1 => s1.modRegion it.region fun r => { r with barring := false }
    | .none =>
      let s1 := if first then s.modRegion it.region fun r => { r with barring := r.barring || r.gang } else s
      State.walkGo false (s1.barsOf it ++ barred) rest s1
def State.walkList (s : State) (part : Nat) : State := State.walkGo true [] (s.waitList part) s

/-- BLOCK_PLACE: the scheduler places the first block of a partition's waiting list that fits. -/
def execBlockPlace (p : Nat) (s : State) : Host.Outcome State Fault Refusal :=
  .next (if s.hub.save.isSome then s else s.walkList p)

/-- The waiting items of a partition, each with the quadrants that gangs ahead of it bar. -/
def State.barredItems (s : State) : List (Nat × Nat) → List Item → List (Item × List (Nat × Nat))
  | _, [] => []
  | barred, it :: rest => (it, barred) :: s.barredItems (s.barsOf it ++ barred) rest

/-! ### Slices (06 R185, R186) -/

def Region.chargeOn (r : Region) (c : Nat) : Nat := ((r.charge.find? fun x => x.1 == c).map (·.2)).getD 0

/-- The machine with what a region holds on the quadrants of a cell free. -/
def State.without (s : State) (k cell : Nat) : State :=
  let mine (b : Nat) : Bool := (s.block b).region == k
  let gone := s.groups.filter fun g => g.inSlot && g.loc.cell == cell && mine g.id.block
  let s1 := (dedupNat (gone.map (·.id.block))).foldl (fun s b => s.modWindow (s.block b).part cell fun w =>
    let bl := s.block b
    let offs := (bl.segBase.drop (bl.rank cell)).take 1 ++ (bl.shadowBase.drop (bl.rank cell)).take 1
    { w with allocs := w.allocs.filter fun a => !offs.contains a.1 }) s
  let s2 := gone.foldl (fun s g => s.modQuad g.loc.cell g.loc.quad fun q =>
    { q with palUnits := q.palUnits.filter fun u => !g.palBases.contains u.1
             rings := (s.block g.id.block).ringHw.foldl (fun l n => modifyAt l n fun x => { x with bound := false }) q.rings }) s1
  { s2 with
    groups := s2.groups.map fun g => if g.inSlot && g.loc.cell == cell && mine g.id.block then
      { g with ctl := { g.ctl with status := .free } } else g
    blocks := s2.blocks.map fun b => if b.region == k then { b with cells := b.cells.map fun c => if c = cell then Config.cells else c } else b }

/-- A waiting item cannot be placed because of a region's quadrants on a cell; with `above`, only items of higher
effective priority count. -/
def State.waitsFor (s : State) (k cell : Nat) (above : Bool) : Bool :=
  match s.regions[k]? with
  | .none => false
  | some r => (s.barredItems [] (s.waitList r.part)).any fun (it, barred) =>
      it.region != k && (!above || (match s.regions[it.region]? with | some x => decide (r.effective < x.effective) | .none => false))
      && (s.placeItem it barred).isNone && ((s.without k cell).placeItem it []).isSome

/-- A region's slice on a cell ends, with its charge at zero: the groups concerned take the slice wait. -/
def State.endSlice (s : State) (k cell : Nat) : State :=
  (s.modRegion k fun r =>
    { r with sliceEnded := cell :: r.sliceEnded, charge := r.charge.filter fun x => x.1 != cell }).callSlices

/-- The slice is renewed and its wait lifted, where no other cell's end still calls for it. -/
def State.liftSlice (s : State) (k cell : Nat) : State :=
  (s.modRegion k fun r =>
    { r with sliceEnded := r.sliceEnded.filter fun c => c != cell, charge := r.charge.filter fun x => x.1 != cell }).liftSlices

/-- SLICE_END: a region's slice on a cell ends, is renewed, or its end is lifted (06 R186). -/
def execSliceEnd (r c : Nat) (s : State) : Host.Outcome State Fault Refusal :=
  .next (match s.regions[r]? with
    | .none => s
    | some x =>
      let spent := decide (x.slice ≤ x.chargeOn c)
      if x.sliceEnded.contains c then (if s.waitsFor r c false then s else s.liftSlice r c)
      else if spent then
        (if s.waitsFor r c false then s.endSlice r c
         else s.modRegion r fun y => { y with charge := y.charge.filter fun z => z.1 != c })
      else if s.waitsFor r c true then s.endSlice r c else s)

/-! ### The end of blocks and regions (07 R208, 06 R168, R172) -/

/-- Threads of a block are held in records. -/
def State.inRecords (s : State) (b : Nat) : Bool := s.cells.any fun c => c.index.any fun e => e.block == b
/-- A block whose threads have all ended, with no slot, record or tracker entry left, retires (07 R208). -/
def State.retire (s : State) (b : Nat) : State :=
  let bl := s.block b
  if bl.resident && !bl.retired && s.groups.all (fun g => g.id.block != b || g.ctl.status == .free) && !s.inRecords b then
    ((s.leavePlace b).modBlock b fun x => { x with retired := true, resident := false, shadow := .none }).withdrawEnded
  else s

/-- The region of the group that made a request. -/
def State.regionIdx (s : State) (i : Nat) : Nat := (s.block (s.group i).id.block).region

/-- Every write of a region that its groups have sent is performed: no atomic of it is on its way (06 R172). -/
def State.writesDone (s : State) (k : Nat) : Bool := s.atoms.all fun a => s.regionIdx a.group != k

/-- What a region's blocks wrote is made visible at .sys scope: the cell caches that they wrote through are drained. -/
def State.drainRegion (s : State) (k : Nat) (r : Region) : State :=
  s.drainWindows fun w => w.part == r.part && s.blocks.any fun b => b.region == k && b.cells.contains w.cell

/-- REGION_COMPLETE: a region that has ended, with its passes stored and every region it launched complete, is
complete: its writes are made visible at .sys scope, then its coat is done (04 R111) and its completion word written
(06 R172). A region that has ended first closes the passes it left open, their tickets discarded. -/
def execRegionComplete (r : Nat) (s : State) : Host.Outcome State Fault Refusal :=
  .next (match s.regions[r]? with
    | .none => s
    | some x =>
      if x.complete || !s.regionEnded r then s
      else
        let mine := (List.range s.passes.length).filter fun k => match s.passes[k]? with | some p => p.region == r | .none => false
        let opened := mine.filter fun k => match s.passes[k]? with | some p => !p.closed | .none => false
        if !opened.isEmpty then opened.foldl (fun s k => s.passClose k true) s
        else if !mine.isEmpty || s.regions.any (fun y => y.parent == some r && !y.complete) || !s.writesDone r then s
        else
          let s1 := (s.drainRegion r x).modRegion r fun y => { y with complete := true, waiting := false }
          let s2 : State := { s1 with hub := { s1.hub with
            coats := s1.hub.coats.map fun c => if c.region == r && x.parent.isNone then { c with done := true } else c } }
          s2.doneWord x.ctx x.doneAddr.toNat x.doneVal (if x.anyTerminated then 2 else 0) 0 x.doneIrq)

/-! ### LAUNCH and REGION.JOIN (13 R362, R363) -/

def execLaunch (a b : BitVec 8) (s : State) : Host.Outcome State Fault Refusal :=
  runIsa ⟨.launch, 1, [.pair a.toNat]⟩ (fun s i g =>
    -- a hold-up save stops every launch (05 R157)
    if s.hub.save.isSome then .hold s
    else released s i true 4 fun s =>
      let s1 := s.commitEarly g.id.block
      let k := (s1.block g.id.block).region
      let (s2, reason) := s1.take g.id.ctx 0 (g.spair a.toNat).toNat (some k) (some g.id.block)
      .done (if b = 0xFF#8 then s2 else s2.modGroup i fun g => g.setS b.toNat (BitVec.ofNat 32 reason))) s

def execRegionJoin (b : BitVec 8) (s : State) : Host.Outcome State Fault Refusal :=
  runIsa ⟨.launch, 1, []⟩ (fun s i g =>
    let n := (s.regions.filter fun r => r.byBlock == some g.id.block && !r.complete).length
    let s1 := s.modGroup i fun g => g.setS b.toNat (BitVec.ofNat 32 (min n 0xFFFFFFFF))
    .done (if n = 0 then s1.acquire i 4 else s1)) s

end Sys2Proof.Machine
end

