-- ==== Sys2Proof/Machine/Hub.lean ====
section
/-! DEFINITION. What the hub's registers show and the operations that its events share: the status words of 02
R42 and R65, CTXSTATE (02 R52), FAULT_N and the in-band interrupt (01 R18, 02 R56), refusals counted in LK_DENY
(02 R71), the command register pair (02 R59). -/
namespace Sys2Proof.Machine
open Sys2Proof

def State.withHub (s : State) (f : Hub → Hub) : State := { s with hub := f s.hub }

def boolNat (b : Bool) : Nat := if b then 1 else 0

/-- One of several codes or cases of which the spec does not say which is taken: a free choice (assumption 4). -/
def State.pick (s : State) : List Nat → Nat × State
  | [] => (0, s)
  | [x] => (x, s)
  | l => (l.getD ((s.free).1 % l.length) 0, (s.free).2)

/-! ### Status words -/

/-- DEV_STATUS (02 R42). -/
def Hub.devStatus (h : Hub) : Nat :=
  h.boot * 2 ^ 28 + h.dstate * 2 ^ 26 + boolNat h.ready * 2 ^ 25 + boolNat h.faultN * 2 ^ 24 + 0x0740

/-- A clamp is in force; its condition is present; the latest cause; the panes affected. -/
def Clamp.on (k : Clamp) : Bool := !k.causes.isEmpty
def Clamp.active (k : Clamp) : Bool := k.causes.any (·.active)
def Clamp.kind (k : Clamp) : Nat := (k.causes.getLast?).elim 0 (·.kind)
def Clamp.panes (k : Clamp) : Nat := (k.causes.map (·.panes)).foldl (· ||| ·) 0

/-- The steps by which a pane is held down: the most that one of its causes has called for. -/
def Clamp.steps (k : Clamp) (pane : Nat) : Nat := ((k.causes.filter fun c => bit c.panes pane).map (·.steps)).foldl max 0
/-- A pane's ceiling. -/
def Clamp.ceilOf (k : Clamp) (pane : Nat) : Nat := k.tops.getD pane 0 - k.steps pane
/-- CEIL: the lowest ceiling of the panes affected. -/
def Clamp.ceil (k : Clamp) : Nat := match ((List.range 4).filter (bit k.panes)).map k.ceilOf with
  | [] => 0
  | x :: l => l.foldl min x
/-- The condition still holds at level 0: the issue duty limit is in force. -/
def Clamp.duty (k : Clamp) : Bool :=
  k.causes.any fun c => c.active && (List.range 4).any fun p => bit c.panes p && decide (k.tops.getD p 0 < c.steps)

/-- CLAMP_STAT (02 R65). -/
def Clamp.stat (c : Clamp) : Nat :=
  c.kind % 16 * 2 ^ 28 + c.panes % 16 * 2 ^ 24 + c.ceil % 8 * 2 ^ 21 + boolNat c.active * 2 ^ 20 + boolNat c.duty * 2 ^ 19
  + c.tjpeak * 2 ^ 11 + boolNat c.denied * 2 ^ 10

/-- A hold-up save is running (05 R163, HOLD_STAT). -/
def Hub.saving (h : Hub) : Bool := match h.save with | some v => !v.written | .none => false

/-- A status register of a unit that takes one command at a time: BUSY, DROPPED, RESULT of `w` bits from bit
`lo`, TAG from bit `tlo`. -/
def CmdReg.stat (r : CmdReg) (lo tlo : Nat) : Nat :=
  boolNat r.cmd.isSome * 2 ^ 31 + boolNat r.dropped * 2 ^ 30 + r.result * 2 ^ lo + r.tag * 2 ^ tlo

/-- A command written to a command register: taken, or dropped while another is in progress. -/
def CmdReg.write (r : CmdReg) (v tag : Nat) : CmdReg :=
  if r.cmd.isSome then { r with dropped := true } else { r with cmd := some v, tag := tag }

/-- The command in progress ends with a result. -/
def CmdReg.finish (r : CmdReg) (result : Nat) : CmdReg := { r with cmd := .none, result := result }

/-! ### Contexts (02 R52, 03 R83, R103) -/

/-- The context has an entry in a posting queue. -/
def State.hasPost (s : State) (c : Nat) : Bool := s.hub.fns.any fun f => f.queue.any fun q => q.any fun e => e.1 == c

/-- The state of CTXSTATE: 0 free, 1 idle, 2 running, 3 evicted, 4 faulted, 5 resetting (assumption 30). -/
def State.ctxCode (s : State) (c : Nat) : Nat :=
  let x := s.ctx c
  if x.func.isNone then 0
  else if x.state = 4 ∨ x.state = 5 then x.state
  else
    let live := s.regions.any fun r => r.ctx == c && !r.complete
    let placed := s.blocks.filter fun b => b.ctx == c && b.placed && !b.retired
    if !live && !s.hasPost c then 1
    else if !placed.isEmpty && placed.all (fun b => !b.resident) then 3
    else 2

/-- The context is in use (03 R83). -/
def State.inUse (s : State) (c : Nat) : Bool := decide (1 < s.ctxCode c)

/-- A function owns a context (03 R81). -/
def State.owns (s : State) (f c : Nat) : Bool := (s.ctx c).func == some f

/-- A function answers on the link: the physical one, or one that NumVFs and its entry enable (03 R84). -/
def State.present (s : State) (f : Nat) : Bool :=
  f == 0 || (decide (f ≤ s.hub.numVfs ∧ f ≤ 16) && (match s.funcs[f]? with | some x => x.en | .none => false))

/-! ### FAULT_N and the in-band interrupt (01 R18; 02 R43, R56) -/

/-- The I3C target raises its interrupt, if none is pending. -/
def State.ibi (s : State) (b : Nat) : State := s.withHub fun h => { h with i3cIbi := h.i3cIbi.orElse fun _ => some b }

/-- FAULT_N is asserted; a condition that arises while it is low does not pulse it. -/
def State.assertFault (s : State) : State :=
  if s.hub.faultN then s else ((s.withHub fun h => { h with faultN := true }).raise 0 4).ibi 1

/-- CLEAR of FAULT_CTL or FAULT_CLEAR over I3C (02 R70); `same` tells that a cause arises in the same clock. -/
def Hub.canClear (h : Hub) (same : Bool) : Bool := h.dclk && !h.lockstep && !h.coatfail && !same

/-- A refused request is counted in LK_DENY (02 R71). -/
def State.deny (s : State) : State := s.withHub fun h => { h with denied := min 0xFFFFFFFF (h.denied + 1) }

/-- A register write that firmware may not make: from firmware it is discarded and counted. -/
def State.guarded (s : State) (fw : Nat) (f : State → State) : State := if fw = 0 then f s else s.deny

/-- What a unit of the hub does: in D-HOLD only the always-on logic, the PCIe endpoint and the I3C target run (02 R57). -/
def State.onHub (s : State) (f : State → State) : State := if s.hub.dstate = 2 then s else f s

/-- The I3C target's static address, and the one it answers to (01 R20, R34). -/
def Hub.i3cStatic (h : Hub) : Nat := 0x68 + h.strapSa % 4
def Hub.i3cAddress (h : Hub) : Nat := h.i3cAddr.getD h.i3cStatic

/-- The I3C controller ends the transfer it drives, or starts one while it is armed (01 R35, 02 R70). -/
def State.i3cTransfer (s : State) : State := s.withHub fun h => { h with i3cBusy := !h.i3cBusy && h.armI3c }

/-! ### Cells, physical and logical (00 R6) -/

/-- The logical number of a physical cell in service. -/
def Hub.logical (h : Hub) (phys : Nat) : Option Nat := findIdx' (· == some phys) h.cellMap
/-- A logical cell stands for a cell in service. -/
def Hub.inService (h : Hub) (l : Nat) : Bool := (h.cellMap.getD l .none).isSome

/-- The in-service logical cells of a pane. -/
def Hub.paneCells (h : Hub) (p : Nat) : List Nat := ((List.range 8).map (8 * p + ·)).filter h.inService

def State.modPane (s : State) (p : Nat) (f : Pane → Pane) : State := { s with panes := modifyAt s.panes p f }

/-! ### Seam links (01 R37; 05 R151) -/

/-- Data lanes of a link. -/
def seamLanes (n : Nat) : Nat := if n < 4 then 64 else if n < 8 then 32 else 8

/-- A half of a link, 0 low and 1 high, has a failed lane that no spare covers. -/
def Seam.halfBad (x : Seam) (n half : Nat) : Bool := x.lost.any fun l => l / (seamLanes n / 2) == half

/-- Both halves of a link are bad: it has failed. -/
def Seam.failed (x : Seam) (n : Nat) : Bool := x.halfBad n 0 && x.halfBad n 1

/-- A cell has a group resident. -/
def State.occupied (s : State) (c : Nat) : Bool := s.groups.any fun g => g.loc.cell == c && g.inSlot

end Sys2Proof.Machine
end

