-- ==== Sys2Proof/Machine/HoldUp.lean ====
section
/-! DEFINITION. The hold-up sequence, the keep die and PFAIL.DONE (01 R22 to R24; 05 R157 to R163; 13 R334). -/
namespace Sys2Proof.Machine
open Sys2Proof

/-! ### The keep die (05 R161, R162) -/

/-- The offset of a keep slot. -/
def slotBase (slot : Nat) : Nat := if slot = 0 then 0 else 0x220000

/-- A field of a slot's header or records, by its offset in the slot. -/
def Hub.slotField (h : Hub) (slot off n : Nat) : Nat := h.keep.value (slotBase slot + off) n

/-- STATE of a slot: 0 for no valid header. -/
def Hub.slotState (h : Hub) (slot : Nat) : Nat :=
  let st := h.slotField slot 2 2
  if h.slotField slot 0 2 = 1 ∧ (st = 1 ∨ st = 2) then st else 0

/-- A region record's class: 1 whole, 2 torn, 3 absent. -/
def Hub.recordClass (h : Hub) (slot r : Nat) : Nat :=
  let o := 0x1000 + 32 * r
  let data := h.keep.bytes (slotBase slot + h.slotField slot (o + 0x10) 4) (h.slotField slot (o + 4) 4)
  if h.slotField slot (o + 0x1C) 4 = 0xA5C30F5A ∧ h.slotField slot (o + 0x18) 4 = crc32c data then 1
  else if h.slotField slot (o + 0x14) 4 = 0x5AC30001 then 2 else 3

/-- The state byte of a record for KEEP_CMD DIR: 0 for one not used. -/
def Hub.recordState (h : Hub) (slot r : Nat) : Nat :=
  if h.slotState slot ≠ 0 ∧ r < h.slotField slot 8 2 then h.recordClass slot r else 0

/-- What RESYNC reports of a slot: 0 empty, 1 complete, 2 partial, with its counts. -/
def Hub.slotStat (h : Hub) (slot : Nat) : KeepStat :=
  let st := h.slotState slot
  if st = 0 then ⟨0, 0, 0, 0, 0⟩
  else
    let cs := (List.range (min 1024 (h.slotField slot 8 2))).map (h.recordClass slot)
    let n (k : Nat) : Nat := min 255 (cs.filter (· == k)).length
    ⟨if st = 2 then 1 else 2, n 1, n 2, n 3, h.slotField slot 4 4⟩

/-- KEEP_SLOT_CLASSIFY. -/
def Hub.classify (h : Hub) : Hub := { h with keepStat := [h.slotStat 0, h.slotStat 1] }

/-- The slot that a save writes into: not the one of the newest complete save (05 R161). -/
def Hub.saveSlot (h : Hub) : Nat :=
  let a := h.slotState 0 == 2
  let b := h.slotState 1 == 2
  if a && (!b || decide (h.slotField 1 4 4 < h.slotField 0 4 4)) then 1 else 0

/-- One above the newest generation. -/
def Hub.saveGen (h : Hub) : Nat :=
  let g (k : Nat) : Nat := if h.slotState k = 0 then 0 else h.slotField k 4 4
  (max (g 0) (g 1) + 1) % 2 ^ 32

/-- A region's place among the records, with the offset of its data. -/
def dataOffsets : Nat → List SaveRegion → List (SaveRegion × Nat)
  | _, [] => []
  | o, r :: l => (r, o) :: dataOffsets (o + r.len) l

/-- The writes of a save to the keep die, in order (05 R161). -/
def Hub.saveWrites (h : Hub) (v : Save) (rs : List SaveRegion) : List (Nat × List Byte) :=
  let base := slotBase h.saveSlot
  let head (st : Nat) : List Byte :=
    leBytes 2 1 ++ leBytes 2 st ++ leBytes 4 h.saveGen ++ leBytes 2 rs.length ++ leBytes 1 v.event ++ leBytes 5 0 ++ leBytes 8 v.time
  let rows := (dataOffsets 0x20000 rs).zipIdx
  let rec1 (x : (SaveRegion × Nat) × Nat) : Nat × List Byte :=
    let r := x.1.1
    (base + 0x1000 + 32 * x.2,
      leBytes 1 r.ctx ++ leBytes 1 r.id ++ leBytes 1 r.kind ++ leBytes 1 r.prio ++ leBytes 4 r.len ++ leBytes 8 r.source
        ++ leBytes 4 x.1.2 ++ leBytes 12 0)
  let body (x : (SaveRegion × Nat) × Nat) : List (Nat × List Byte) :=
    let o := base + 0x1000 + 32 * x.2
    match x.1.1.data with
    | .none => []
    | some d =>
      let b := d.bytes 0 x.1.1.len
      [(o + 0x14, leBytes 4 0x5AC30001), (base + x.1.2, b)]
        ++ if x.1.1.torn then [] else [(o + 0x18, leBytes 4 (crc32c b)), (o + 0x1C, leBytes 4 0xA5C30F5A)]
  [(base, head 1)] ++ rows.map rec1 ++ rows.flatMap body ++ [(base + 2, leBytes 2 2)]

/-- Some of the writes carried out. -/
def Hub.keepWrites (h : Hub) (l : List (Nat × List Byte)) : Hub :=
  { h with keep := l.foldl (fun (m : Mem) w => m.put w.1 w.2) h.keep }

/-- A save that a reset or the end of its energy cuts off has made a free number of its writes, the last of them a free
number of its bytes. -/
def State.cutSave (s : State) : State :=
  match s.hub.save with
  | .none => s
  | some v => match v.written, v.regions with
    | false, some rs =>
      let l := s.hub.saveWrites v rs
      let (a, s1) := s.free
      let (b, s2) := s1.free
      let k := a % (l.length + 1)
      s2.withHub fun h => h.keepWrites (l.take k ++ ((l.drop k).take 1).map fun w => (w.1, w.2.take (b % (w.2.length + 1))))
    | _, _ => s

/-! ### Capture (05 R155, R157, R160) -/

/-- A free order of some places: the next is a free one of those left. -/
def freeOrder : Nat → List Nat → List Nat
  | 0, _ => []
  | n + 1, l =>
    let k := Config.controlPlace n % max 1 l.length
    l.getD k 0 :: freeOrder n (l.eraseIdx k)

/-- The 512 bytes of control state (05 R155): what they hold is listed, where each byte of it stands and what the others hold
is free. -/
def State.controlState (s : State) (c time : Nat) : Mem :=
  let f := s.ctxFunc c
  let occ : List Nat := match s.hub.fns[f]? with | some x => x.queue.map (fun q => q.length) | .none => []
  let admitted := (s.regions.filter fun r => r.ctx == c && r.parent.isNone && !r.complete).map fun r => r.rcb.toNat
  let queued := (s.hub.fns.flatMap fun x => x.queue.flatten).filterMap fun e => if e.1 = c then some e.2 else .none
  let known : List Byte := leBytes 1 (s.ctxCode c * 32 + f) ++ leBytes 2 (s.ctx c).errHead ++ occ.flatMap (leBytes 1)
    ++ ((admitted ++ queued).take 32).flatMap (leBytes 8) ++ leBytes 8 time
  let spots := freeOrder 512 (List.range 512)
  Mem.put [] 0 ((List.range 512).map fun p => match findIdx' (· == p) spots with
    | some i => known.getD i (Config.freeControl i c time)
    | .none => 0#8)

/-- The bytes of a declared item, none where its capture fails. -/
def State.itemData (s : State) (m : MustSave) (time : Nat) (e : SaveItem) : Option Mem :=
  if e.kind = 0 then
    let part := (s.ctx m.ctx).part
    let w := s.window part e.cell
    if s.hub.dstate = 1 ∨ (s.heldQuads part e.cell).length * 0x180000 < e.start + e.len
        ∨ (w.poison.hit e.start e.len).isSome = true then .none
    else some (w.mem.slice e.start e.len)
  else if e.kind = 1 then
    if s.poisonVa m.ctx e.start e.len then .none
    else match s.readVa m.ctx e.start e.len with
      | .ok b => some (Mem.put [] 0 b)
      | .error _ => .none
  else some (s.controlState m.ctx time)

/-- The items of the declarations, in the order of the keep die: PRIO, context, entry. -/
def State.saveRegions (s : State) (v : Save) : List SaveRegion :=
  let asIs (c : Nat) : Bool := v.asIs.contains c || v.handlers.any fun x => x.ctx == c && x.expired
  (sortBy (fun m => m.prio * 256 + m.ctx) s.hub.must).flatMap fun m => m.items.map fun e =>
    { ctx := m.ctx, id := e.id, kind := e.kind + (if asIs m.ctx then 128 else 0), prio := m.prio
      source := e.start + (if e.kind = 0 then e.cell * 2 ^ 56 else 0), len := e.len
      data := if v.resident.contains m.ctx then s.itemData m v.time e else .none, torn := false }

/-- Where the board does not hold the pane rails, a region of KIND 0 or 2 ends whole, torn or absent (05 R159). -/
def State.railLoss (s : State) : List SaveRegion → List SaveRegion × State
  | [] => ([], s)
  | r :: l =>
    let (out, s1) := if r.kind % 128 = 1 then (r, s) else
      let (n, s1) := s.free
      (if n % 3 = 0 then r else if n % 3 = 1 then { r with torn := true } else { r with data := .none }, s1)
    let (rest, s2) := s1.railLoss l
    (out :: rest, s2)

/-- A handler is counted as done: it executed PFAIL.DONE and its slot is released (13 R334). -/
def State.handlerDone (s : State) (x : Handler) : Bool := x.done && (s.group x.group).ctl.status == .free

/-- The handler phase has ended. -/
def State.phaseEnded (s : State) (v : Save) : Bool := v.handlers.all fun x => x.expired || s.handlerDone x

/-- HOLDUP_CAPTURE, once the handler phase has ended. -/
def State.capture (s : State) : State :=
  match s.hub.save with
  | some v =>
    if v.regions.isNone && s.phaseEnded v then
      let (rs, s1) := if v.rails then (s.saveRegions v, s) else s.railLoss (s.saveRegions v)
      s1.withHub fun h => { h with save := some { v with regions := some rs } }
    else s
  | .none => s

/-! ### Handlers (05 R157, R158) -/

/-- A quadrant qualifies for a handler of a partition. -/
def State.handlerQuad (s : State) (part c q : Nat) : Bool :=
  (s.heldQuads part c).contains q && (match s.cells[c]?, s.panes[paneOf c]? with
    | some x, some p => (x.power == .act || x.power == .idle) && !p.quarantined && !s.hub.failed c
        && (match x.quads[q]? with | some y => !y.fenced | .none => false)
    | _, _ => false)

/-- The place of a handler: its location, and the group whose slot it takes where none is free. -/
def State.handlerPlace (s : State) (part hcell : Nat) : Option (GLoc × Option Nat) :=
  let quadOn (c : Nat) : Option Nat := (List.range 4).find? (s.handlerQuad part c)
  let cell := if (quadOn hcell).isSome then some hcell else (List.range Config.cells).find? fun c => (quadOn c).isSome
  match cell with
  | .none => .none
  | some c => match quadOn c with
    | .none => .none
    | some q =>
      let room := s.room
      let freeOf (sub : Nat) : Nat := Config.slots - (room.slots false c sub).length
      let subs := ((List.range 8).map (8 * q + ·)).filter fun sub =>
        decide (0 < freeOf sub) && decide (room.entries c sub + 512 ≤ Config.registerEntries)
      match minBy (fun sub => Config.slots - freeOf sub) subs with
      | some sub => (lowestFree Config.slots (room.slots false c sub)).map fun k => (⟨c, sub, q, k, false⟩, .none)
      | .none =>
        let here := (List.range s.groups.length).filter fun i =>
          let g := s.group i
          g.inSlot && !g.loc.abacus && g.loc.cell == c && g.loc.quad == q && !g.id.pfail
        (minBy (fun i => 0x10000 - (s.group i).loc.gid) here).map fun i => ((s.group i).loc, some i)

/-- The power-fail handler of a declaration, in a block of its own. -/
def State.launchHandler (s : State) (m : MustSave) : Option (State × Handler) :=
  let part := (s.ctx m.ctx).part
  match s.handlerPlace part m.hcell, s.regions[m.region]? with
  | some (loc, victim), some r =>
    let s1 := match victim with
      | some i => s.modGroup i fun g => { (g.withCtl fun c => { c with status := .free, live := 0#32, clause := .none }) with mons := [] }
      | .none => s
    let b := s1.blocks.length
    let i := s1.groups.length
    let size := (s.heldQuads part loc.cell).length * 0x180000
    let bl : Block :=
      { region := m.region, index := 0, ctx := m.ctx, part := part, resident := true, placed := true, retired := false
        terminated := false, cells := [loc.cell], barP := 0, barE := 32, barA := 0, arrived := [], dropped := [], lastphase := []
        segBase := [0], shared := size, shadowBase := [], ucap := 0, fdom := r.fdom, rings := [], ringHw := []
        privBase := 0, privLen := 0, privw := 0, imageBase := 0, imageLen := 0, rs := [0], tags := [], shadow := .none
        early := true, retries := 0, rollPending := false, image := .none }
    let seg : Segment := ⟨true, .general, 32, 2, 0, m.hpc⟩
    let born := Group.born { r with sys := m.sys, rcb := m.addr, privw := 0 } b 0 0 seg (List.range 32) 0xFFFFFFFF#32 loc m.hpc false 0
      (s.cyc loc.cell)
    let g := { born with id := { born.id with pfail := true } }
    some ({ s1 with blocks := s1.blocks ++ [bl], groups := s1.groups ++ [g] },
      ⟨m.ctx, i, b, s.hv + 5000, false, false⟩)
  | _, _ => .none

/-- The handlers of the contexts with a group resident and a declaration: of each the declaration of least PRIO, the
first admitted of equals. -/
def State.launchHandlers (s : State) : List Nat → State × List Handler × List Nat
  | [] => (s, [], [])
  | c :: l => match minBy (fun m => m.prio * 2 ^ 32 + (match s.regions[m.region]? with | some r => r.order | .none => 0))
      (s.hub.must.filter fun m => m.ctx == c) with
    | .none => s.launchHandlers l
    | some m => match s.launchHandler m with
      | .none => let (s1, hs, as) := s.launchHandlers l; (s1, hs, c :: as)
      | some (s1, h) => let (s2, hs, as) := s1.launchHandlers l; (s2, h :: hs, as)

/-- The hold-up sequence begins (05 R157): launches, post takes, monitor wakes and groups stop, copies in progress are
abandoned, the handlers start; with none to wait for, the capture follows. -/
def State.startSave (s : State) (event : Nat) (rails : Bool) : State :=
  let resident := dedupNat ((s.groups.filter Group.inSlot).map (·.id.ctx))
  let (s1, hs, as) := s.launchHandlers resident
  (s1.withHub fun h =>
    { h with save := some { event := event, time := s.hv, resident := resident, asIs := as, handlers := hs, regions := .none
                            rails := rails, written := false }
             keepCmd := .none, ttCmd := .none }).capture

/-- A tell-tale copy that a save cuts off has made a free number of its writes (04 R120). -/
def State.cutCopy (s : State) : State :=
  match s.hub.ttCmd with
  | .none => s
  | some (slot, b) =>
    let (n, s1) := s.free
    s1.withHub fun h => { h with keep := h.keep.put (0x580000 + 0xA000 * slot) (b.take (n % (b.length + 1))) }

/-- SUPPLY_LOSS: declared once, and the reserve is drawn on, no longer ready; where it was not, no save starts and what was
being written to the keep die is cut off (01 R24). `rails` is 0 where the board lets the pane rails fall early. In D-HOLD it counts as
declared, and only opens the switch while the save runs. -/
def execSupplyLoss (rails : Nat) (s : State) : Host.Outcome State Fault Refusal :=
  .next (if s.hub.lost then
      if s.hub.saving then s.withHub fun h => { h with switch := true, ready := false } else s
    else
      let s1 := s.withHub fun h => { h with lost := true, switch := true, ready := false }
      if s.hub.ready then s1.cutCopy.startSave 0 (rails != 0)
      else s1.cutCopy.withHub fun h => { h with keepCmd := .none, ttCmd := .none })

/-- RESERVE_CHARGED: the reserve is at full charge. -/
def execReserveCharged (s : State) : Host.Outcome State Fault Refusal :=
  .next (s.withHub fun h => { h with ready := true })

/-- HANDLER_BUDGET_EXPIRY: handler `k` of the save has run 50 µs; it is stopped, and its context's regions are saved as
they stand. -/
def execHandlerBudgetExpiry (k : Nat) (s : State) : Host.Outcome State Fault Refusal :=
  .next (match s.hub.save with
    | .none => s
    | some v => match v.handlers[k]? with
      | .none => s
      | some x =>
        if x.expired || s.handlerDone x || decide (s.hv < x.deadline) then s
        else
          let s1 := s.withHub fun h => { h with save := some { v with handlers := modifyAt v.handlers k fun y => { y with expired := true } } }
          (s1.modGroup x.group fun g => g.withCtl fun c =>
            { c with status := if c.status == .free then .free else .ended, live := 0#32, act := 0#32, clause := .none }).capture)

/-- HOLDUP_SAVE_COMPLETE: the writes to the keep die end with STATE 2; the save of a D-HOLD command leaves the device
in D-HOLD. -/
def execHoldupSaveComplete (s : State) : Host.Outcome State Fault Refusal :=
  .next (
    let s1 := s.capture
    match s1.hub.save with
    | .none => s1
    | some v => match v.written, v.regions with
      | false, some rs => s1.withHub fun h =>
          { h.keepWrites (h.saveWrites v rs) with save := some { v with written := true }, dstate := if v.event = 1 then 2 else h.dstate }
      | _, _ => s1)

/-! ### PFAIL.DONE (13 R334) -/

def execPfailDone (s : State) : Host.Outcome State Fault Refusal :=
  runIsa ⟨.sys, 1, []⟩ (fun s i g =>
    if !g.id.pfail then .trap (.here 0x04 0)
    else if g.inGate then .trap (.here 0x0A 0)
    else
      let s1 := s.withHub fun h => { h with save := h.save.map fun v =>
        { v with handlers := v.handlers.map fun x => if x.group = i then { x with done := true } else x } }
      .moved (((s1.endThreads i g.ctl.live false).lateFaults i).capture)) s

/-! ### KEEP_CMD (05 R163) -/

/-- KEEP_CMD's fields. -/
def keepOp (v : Nat) : Nat := bits v 27 26
def keepSlot (v : Nat) : Nat := bits v 25 25
def keepRegion (v : Nat) : Nat := bits v 24 15

/-- A keep command written: while one is in progress it changes nothing. -/
def State.keepWrite (s : State) (fw op v : Nat) : State :=
  s.guarded fw fun s => s.onHub fun s => if s.hub.keepCmd.isSome then s else s.withHub fun h => { h with keepCmd := some (putBits v 27 26 op) }

/-- DIR, DATA and ERASE: the command starts. -/
def execKeepDir (v fw : Nat) (s : State) : Host.Outcome State Fault Refusal := .next (s.keepWrite fw 0 v)
def execKeepData (v fw : Nat) (s : State) : Host.Outcome State Fault Refusal := .next (s.keepWrite fw 1 v)
def execKeepErase (v fw : Nat) (s : State) : Host.Outcome State Fault Refusal := .next (s.keepWrite fw 2 v)

/-- The bytes that a command copies, or its result. -/
def Hub.keepBytes (h : Hub) (v : Nat) : Except Nat (List Byte) :=
  let slot := keepSlot v
  if keepOp v = 0 then
    .ok (h.keep.bytes (slotBase slot) 64 ++ h.keep.bytes (slotBase slot + 0x1000) 32768
      ++ (List.range 1024).map fun r => BitVec.ofNat 8 (h.recordState slot r))
  else
    let st := h.recordState slot (keepRegion v)
    if st = 0 then .error 1
    else if st = 3 then .error 3
    else
      let o := 0x1000 + 32 * keepRegion v
      .ok (h.keep.bytes (slotBase slot + h.slotField slot (o + 0x10) 4) (h.slotField slot (o + 4) 4))

/-- KEEP_CMD_COMPLETE: the command in progress takes effect and ends, and vector 15 is raised. -/
def execKeepCmdComplete (s : State) : Host.Outcome State Fault Refusal :=
  .next (match s.hub.keepCmd with
    | .none => s
    | some v =>
      let done (s : State) (r : Nat) : State := (s.withHub fun h => { h with keepCmd := .none, keepResult := r }).raise 0 15
      if keepOp v = 3 then done s 1
      else if s.hub.saving then done s 2
      else if keepOp v = 2 then
        done (s.withHub fun h =>
          let h1 := { h with keep := h.keep.erase (slotBase (keepSlot v)) 64 }
          { h1 with keepStat := h1.keepStat.set (keepSlot v) (h1.slotStat (keepSlot v)) }) 0
      else match s.hub.keepBytes v with
        | .error r => done s r
        | .ok b => if dataEnd < s.hub.keepDst * 64 + b.length then done s 1 else done (s.homeWrite (s.hub.keepDst * 64) b) 0)

end Sys2Proof.Machine
end

