-- ==== Sys2Proof/Machine/Runner.lean ====
section
/-! DEFINITION. What happens to placed groups between their instructions: arbitration, waking, landing results,
the release of slots and tracker entries, relaunch from continuation records, the watchdog, rollback, and the
take of posted regions (06 R181 to R184; 07 R205 to R207, R212 to R214; 08 R226; 11 R300; 05 R142; 02 R48). -/
namespace Sys2Proof.Machine
open Sys2Proof

/-! ### Arbitration (06 R183, R184) -/

/-- A group stands on an issue unit of a cell: a sub-core 0 to 31, or 32 plus a quadrant for its sequencer. -/
def Group.onUnit (g : Group) (cell unit : Nat) : Bool :=
  g.inSlot && g.loc.cell == cell && (if g.loc.abacus then 32 + g.loc.quad else g.loc.sub) == unit

/-- A group may issue: its cell is in C-ACT, and where it goes to C-IDLE the group is in the midst of a run (02 R57); and while a hold-up save stands it is a power-fail handler, whose cell may
be in C-IDLE, or it has not reached its run boundary (05 R157, R158). No rung of the reset ladder acts on its context (03 R101), and no
rollback of its block is due (05 R142). -/
def State.mayIssue (s : State) (g : Group) : Bool :=
  s.hub.running && (s.ctx g.id.ctx).state != 5 && !(s.block g.id.block).rollPending && (s.hub.save.isNone || g.id.pfail || decide (0 < g.ctl.runCount))
  && (match s.cells[g.loc.cell]? with | some c => (c.power == .act && (!c.idling || decide (0 < g.ctl.runCount))) || (g.id.pfail && c.power == .idle) | .none => false)

/-- The effective priority of a group's region. -/
def State.priorityOf (s : State) (g : Group) : Nat := match s.regionOf g with | some r => r.effective | .none => 0

/-- The first of two ready groups in the order of choice. -/
def State.before (s : State) (a b : Group) : Bool :=
  if a.ctl.promoted != b.ctl.promoted then a.ctl.promoted
  else if s.priorityOf a ≠ s.priorityOf b then decide (s.priorityOf b < s.priorityOf a)
  else if a.ctl.readyTime ≠ b.ctl.readyTime then decide (a.ctl.readyTime < b.ctl.readyTime)
  else decide (a.loc.slot < b.loc.slot)

/-- The group that a unit chooses. -/
def State.chosen (s : State) (cell unit : Nat) : Option Nat :=
  let here := (List.range s.groups.length).filter fun i => (s.group i).onUnit cell unit
  if here.any (fun i => (s.group i).ctl.status == .running || (s.group i).ctl.status == .held) then .none
  else (here.filter fun i => (s.group i).ctl.status == .ready && s.mayIssue (s.group i)).foldl
    (fun (best : Option Nat) i => match best with
      | .none => some i
      | some j => if s.before (s.group i) (s.group j) then some i else some j) .none

/-- A group after an arbitration that group `w` won. -/
def State.arbitrated (s : State) (cell unit w i : Nat) : Group :=
  let g := s.group i
  let lost := g.onUnit cell unit && g.ctl.status == .ready && s.mayIssue g
  if i = w then g.withCtl fun c => { c with status := .running, loss := 0, promoted := false, runCount := 0 }
  else if lost then g.withCtl fun c => { c with loss := c.loss + 1, promoted := c.promoted || decide (32 ≤ c.loss + 1) }
  else g

/-- ARBITRATION: a unit chooses among its ready groups; the others have lost. -/
def execArbitration (cell unit : Nat) (s : State) : Host.Outcome State Fault Refusal :=
  .next (match s.chosen cell unit with
    | .none => s
    | some w => { s with groups := (List.range s.groups.length).map (s.arbitrated cell unit w) })

/-! ### Waking (06 R182) -/

/-- The wake condition of a group that waits for a ring, a tile, a message or at a YIELD holds now. -/
def State.wakeNow (s : State) (g : Group) (w : Wake) : Bool :=
  match w with
  | .ring r =>
    let x := (s.ringAt g r).2
    if (s.ringDecl g r).prod == g.id.seg then x.state.getD x.head 0 == 0 else x.state.getD x.tail 0 == 2
  | .tile desc => match s.passIdx g.id.ctx desc g.pane with
    | .none => true
    | some k => (s.pickHalf k g.loc.cell).isSome
  | .msg c => ((s.window (s.partOf g) g.loc.cell).msgFor g.id.ctx c).isSome
  | .yield => true
  | _ => false

/-- A blocked group whose wake condition holds. -/
def State.canWake (s : State) (g : Group) : Bool := match g.ctl.status with
  | .blocked .slice => false
  | .blocked .kstep => false
  | .blocked w => g.ctl.wakeHit || s.wakeNow g w
  | _ => false

/-- GROUP_WAKE: a blocked group becomes ready. While a hold-up save stands no monitor wakes a group (05 R157). -/
def execGroupWake (i : Nat) (s : State) : Host.Outcome State Fault Refusal :=
  let g := s.group i
  .next (if s.hub.save.isSome && !g.id.pfail then s
    else if s.canWake g then s.modGroup i fun g =>
      (g.withCtl fun c => { c with wakeHit := c.wakeHit || c.status == .blocked .yield }).wakeUp (s.now g)
    -- a barrier that waited for its block's reads (05 R141)
    else match g.ctl.status with
      | .blocked (.bar _) => s.barComplete g.id.block
      | _ => s)

/-! ### Landing results (07 R205, 08 R224, R226) -/

/-- The group with a result's lanes written. -/
def Group.land (g : Group) (p : Pend) : Group :=
  (List.range p.regs.length).foldl (fun (g : Group) j =>
    let f (l : Nat) : Word := (p.vals.getD l []).getD j 0#32
    -- no write is full while a sub-group is parked (08 R222)
    let shape := if p.uniform && g.parkedLanes == 0#32 then some (VVal.uniform (f ((p.lanes.toList.head?).getD 0))) else .none
    g.writeLanes p.lanes (p.regs.getD j 0) shape f) g

/-- The registers that a partial write needs from their slots made resident first, with the poison that this refill
consumes; `none` where the cell cache has no way for a slot. -/
def State.landOld (s : State) (i : Nat) (p : Pend) : Except FaultInfo (Option (State × Option MetAt)) :=
  if (s.group i).ctl.live &&& ~~~p.lanes = 0#32 then .ok (some (s, .none))
  else p.regs.foldl (fun (acc : Except FaultInfo (Option (State × Option MetAt))) r => match acc with
    | .error f => .error f
    | .ok .none => .ok .none
    | .ok (some (s, m)) =>
      if ((s.group i).vreg r).tag = 0 then .ok (some (s, m))
      else match s.readSlot i r with
        | .error f => .error f
        | .ok .none => .ok .none
        | .ok (some y) => .ok (some (y.st.modGroup i fun g => g.withRegs fun x => { x with v := x.v.set r ⟨y.val, 0, .none⟩ },
            first m y.met))) (.ok (some (s, .none)))

/-- The group without its result `k`. -/
def Group.dropPend (g : Group) (k : Nat) : Group := g.withRegs fun r => { r with pend := r.pend.eraseIdx k }

/-- What else a landing does: its operation completes, poison it brings is consumed. -/
def State.landed (s : State) (i : Nat) (p : Pend) : State :=
  let s1 := match p.kind with
    | .op id => s.completeOp i id (((s.group i).asy.ops.find? fun o => o.id == id).bind (·.fault))
    | _ => s
  match p.poison with
  | some q => if (s1.group i).ctl.live = 0#32 then s1 else s1.consumeNow i q
  | .none => s1

/-- RESULT_LANDING: a pending result is written into its registers; one that lands in an ended group is
discarded. A spill that the landing calls for and that faults leaves everything as it was, and the fault is raised
at the group's next instruction. -/
def execResultLanding (i k : Nat) (s : State) : Host.Outcome State Fault Refusal :=
  let g := s.group i
  .next (match g.regs.pend[k]? with
    | .none => s
    | some p =>
      if !p.ready then s
      else if g.ctl.live = 0#32 then (s.modGroup i fun g => g.dropPend k).landed i p
      else
        let fail (f : FaultInfo) : State := s.modGroup i fun g => g.withTrap fun t =>
          { t with atNext := match t.atNext with | some x => some x | .none => some f }
        match s.landOld i p with
        | .error f => fail f
        | .ok .none => s
        | .ok (some (s1, met)) =>
          match (s1.modGroup i fun g => (g.dropPend k).land p).skim i p.regs p.regs with
          | .error f => fail f
          | .ok .none => s
          | .ok (some s2) =>
            let s3 := match met with | some (va, pa, q) => s2.consumeNow i ⟨q, va, pa⟩ | .none => s2
            (s3.landed i p).barComplete g.id.block)

/-! ### The end of groups (07 R205 to R207) -/

/-- A group's stores and operations are complete. -/
def State.groupQuiet (s : State) (i : Nat) : Bool :=
  let g := s.group i
  g.asy.ops.all (·.done) && g.mat.queue.isEmpty && !(s.atoms.any fun a => a.group == i) && g.trap.skid.isEmpty

/-- A group leaves the machine, and its block may have retired; a power-fail handler is then done (13 R334). -/
def State.freeGroup (s : State) (i : Nat) : State :=
  ((s.modGroup i fun g => g.withCtl fun c => { c with status := .free }).retire (s.group i).id.block).capture

/-- GROUP_SLOT_RELEASE: an ended group gives up its slot: at once after its results when it ended by TAIL or a capture while
its sub-core's tracker had an entry, which it takes for what is outstanding; else when everything it issued has completed. -/
def execGroupSlotRelease (i : Nat) (s : State) : Host.Outcome State Fault Refusal :=
  let g := s.group i
  .next (if !g.regs.pend.isEmpty then s
    else match g.ctl.status with
      | .ended => if s.groupQuiet i then s.freeGroup i else s
      | .endedTail =>
        if s.groupQuiet i then s.freeGroup i
        else if s.trackerUse g < maxTracked then s.modGroup i fun g => g.withCtl fun c => { c with status := .tracked }
        else s
      | _ => s)

/-- TRACKER_ENTRY_FREE: the operations that a tracker entry stands for have all completed. -/
def execTrackerEntryFree (i : Nat) (s : State) : Host.Outcome State Fault Refusal :=
  .next (if (s.group i).ctl.status == .tracked && s.groupQuiet i then s.freeGroup i else s)

/-! ### Relaunch (07 R212 to R214) -/

/-- A bucket of a cell's regrouping unit. -/
structure Bucket where
  block : Nat
  seg : Nat
  resume : DWord
  quad : Bool
  deriving DecidableEq, Repr

def IndexEntry.bucket (e : IndexEntry) : Bucket := ⟨e.block, e.seg, e.resume, e.quad⟩

/-- The entries of a bucket on a cell. -/
def Cell.inBucket (c : Cell) (b : Bucket) : List IndexEntry := c.index.filter fun e => e.bucket == b

/-- A bucket is due (07 R213). -/
def State.bucketDue (s : State) (cell : Nat) (es : List IndexEntry) (block : Nat) : Bool :=
  let ready := (es.filter (·.ready)).length
  let waiting := es.length - ready
  let busy := s.groups.any fun g => g.id.block == block && g.loc.cell == cell &&
    (g.ctl.status == .ready || g.ctl.status == .running || g.ctl.status == .held)
  (decide (32 ≤ ready) && waiting == 0) || decide (256 ≤ ready) || (decide (1 ≤ ready) && waiting == 0 && !busy)

/-- The ready units of a bucket in the order in which they are taken, each with the lanes' members; a quad's
members in order of TIDX mod 4. -/
def readyUnits (quad : Bool) (es : List IndexEntry) : List (List IndexEntry) :=
  let es := es.filter (·.ready)
  if quad then
    let qs := dedupNat (es.map fun e => e.tidx / 4)
    let full := (qs.map fun q => sortBy (·.tidx) (es.filter fun e => e.tidx / 4 == q)).filter fun l => l.length == 4
    sortBy (fun l => ((l.map fun e => e.key.toNat).foldl min (2 ^ 32)) * 65536 + ((l.head?).elim 0 (·.tidx))) full
  else (sortBy (fun e => e.key.toNat * 65536 + e.tidx) es).map fun e => [e]

/-- Buckets in the order of choice: the lowest resume address first, then block, segment and kind. -/
def bucketOrder (l : List Bucket) : List Bucket :=
  sortBy (fun b => (b.resume.toNat * 2 ^ 40 + b.block * 16 + b.seg * 2) + (if b.quad then 1 else 0)) l

/-- The registers and values of a record as a relaunched lane takes them, with the poison consumed (05 R131), or the fault
of reading them. -/
def State.readRecord (s : State) (g : Group) (base : Nat) : Except FaultInfo (List (Nat × Word) × Option MetAt) :=
  let at4 (w : Nat) : Except FaultInfo (Word × Option MetAt) :=
    let va := base + 128 * w
    match s.xlateG g false va with
    | .error e => .error (e.info false va)
    | .ok t =>
      let q := s.memPoison.hit (t.phys va) 4
      .ok (bytesWord (readBytes q (s.homeRead (t.phys va) 4)), q.map fun x => (va, x.1, x.2))
  match at4 0 with
  | .error f => .error f
  | .ok (live, m) =>
    let regs := (liveRegs live).filter fun r => decide (r < 8 * g.id.vregs)
    (List.range regs.length).foldl (fun (acc : Except FaultInfo (List (Nat × Word) × Option MetAt)) j => match acc with
      | .error f => .error f
      | .ok (l, m) => match at4 (4 + j) with
        | .error f => .error f
        | .ok x => .ok (l ++ [(regs.getD j 0, x.1)], first m x.2)) (.ok ([], m))

/-- The registers of a relaunched group, from its lanes' records (07 R214); a record that cannot be read is
raised at the group's first instruction. -/
def State.loadRecords (s : State) (i : Nat) : State :=
  let g := s.group i
  let recs := g.ctl.live.toList.map fun l => (l, s.readRecord g (g.recordBase l))
  let vals := recs.filterMap fun x => match x.2 with | .ok v => some (x.1, v.1) | .error _ => .none
  let bad := recs.findSome? fun x => match x.2 with | .error f => some f | .ok _ => .none
  let met := recs.findSome? fun x => match x.2 with | .ok v => v.2 | .error _ => .none
  let regs := dedupNat (vals.flatMap fun x => x.2.map (·.1))
  let s1 := s.modGroup i fun g =>
    let g1 := regs.foldl (fun (g : Group) r =>
      let at' (l : Nat) : Option (Nat × Word) := (vals.find? fun x => x.1 == l).bind fun x => x.2.find? fun y => y.1 == r
      let v := VVal.general ((List.range 32).map fun l => match at' l with | some y => y.2 | .none => 0#32)
      g.withRegs fun x => { x with v := x.v.set r ⟨v, 0, .none⟩ }) g
    g1.withTrap fun t => { t with atNext := first t.atNext bad }
  match met with
  | some (va, pa, q) => s1.consumeNow i ⟨q, va, pa⟩
  | .none => s1

/-- RELAUNCH the units chosen of a bucket as a new group on a cell. -/
def State.relaunch (s : State) (cell : Nat) (b : Bucket) (units : List (List IndexEntry)) (loc : GLoc) : State :=
  let bl := s.block b.block
  match s.regions[bl.region]? with
  | .none => s
  | some r =>
    let g := r.segs.getD b.seg ⟨false, .general, 0, 0, 0, 0#64⟩
    let es := units.flatten
    let at' (l : Nat) : IndexEntry := es.getD l ⟨0, 0, 0, 0#64, 0#32, false, false, .none, 0#32, false, 0, 0, []⟩
    let tidx := (List.range 32).map fun l => (at' l).tidx
    let live := firstLanes es.length
    let g0 := Group.born r b.block bl.index b.seg g tidx live loc b.resume true bl.privBase (s.cyc cell)
    let g1 : Group := { g0 with id := { g0.id with
      quadMode := b.quad
      key := (List.range 32).map fun l => (at' l).key
      pseq := (List.range 32).map fun l => (at' l).pseq
      binds := (List.range 32).map fun l => (at' l).ticket } }
    -- what its threads have acquired and written goes with them (09 R269)
    let g3 := g1.withAsy fun a => { a with
      acq := (es.map (·.acq)).foldl max 0, heirs := dedupNat (es.flatMap (·.heirs)) }
    let g2 := g3.withCtl fun c => { c with helper := Lanes.ofFn 32 fun l => (at' l).helper }
    let i := s.groups.length
    let s1 := s.modCell cell fun c => { c with index := c.index.filter fun e => !(es.any fun x =>
      x.block == e.block && x.seg == e.seg && x.tidx == e.tidx) }
    let s2 := ({ s1 with groups := s1.groups ++ [g2] } : State).clearSlots g2
    let s3 := s2.loadRecords i
    State.callSlices (match s3.skim i [] [] with
      | .ok (some s4) => s4
      | .ok .none => s3
      | .error f => s3.modGroup i fun g => g.withTrap fun t => { t with atNext := first t.atNext (some f) })

/-- REGROUP_RELAUNCH: the regrouping unit of a cell relaunches the due bucket with the lowest resume address where
a sub-core qualifies. -/
def execRegroupRelaunch (cell : Nat) (s : State) : Host.Outcome State Fault Refusal :=
  .next (match s.cells[cell]? with
    | .none => s
    | some c =>
      let buckets := c.index.foldl (fun (acc : List Bucket) e => if acc.contains e.bucket then acc else acc ++ [e.bucket]) []
      let due := (bucketOrder buckets).filter fun b => s.bucketDue cell (c.inBucket b) b.block && (s.block b.block).resident
      let try' (b : Bucket) : Option State :=
        let units := (readyUnits b.quad (c.inBucket b)).take (if b.quad then 8 else 32)
        match s.regions[(s.block b.block).region]? with
        | .none => .none
        | some r =>
          let quads := ((List.range 4).filter fun q => s.eligible r cell q).map fun q => (cell, q)
          let seg := r.segs.getD b.seg ⟨false, .general, 0, 0, 0, 0#64⟩
          if units.isEmpty then .none
          else (s.placeOne quads s.room ⟨seg.entries, false, some cell, []⟩).map fun p => s.relaunch cell b units p.1.1
      if s.hub.save.isSome then s else (due.findSome? try').getD s)

/-! ### The watchdog (11 R300) -/

def watchdogClocks : Nat := 67108864

/-- WATCHDOG_EXPIRY: a group held in place for 2^26 of its clocks takes WATCHDOG at the held instruction. -/
def execWatchdogExpiry (i : Nat) (s : State) : Host.Outcome State Fault Refusal :=
  let g := s.group i
  .next (if g.ctl.status == .held && decide (watchdogClocks ≤ g.ctl.heldClocks) && g.trap.callee.isNone then
      (s.modGroup i fun g => g.withCtl fun c => { c with heldClocks := 0 }).takeFault i (.here 0x1B 0) g.ctl.act g.ctl.pc g.ctl.pc g.ctl.pc
    else s)

/-! ### Rollback (05 R142) -/

/-- A group as a rollback restores it: nothing outstanding, ready where it ran. -/
def Group.rolledBack (g : Group) (now : Nat) : Group :=
  let g1 := g.withAsy fun a => { a with cnt := [0, 0, 0, 0], ops := [], deferred := [], rsOut := List.replicate 8 0#32 }
  let g2 := g1.withRegs fun r => { r with pend := [] }
  let g3 := g2.withMat fun m => { m with queue := [] }
  let g4 := g3.withTrap fun t => { t with skid := [], callee := .none }
  g4.withCtl fun c => { c with
    status := if c.status == .running || c.status == .held then .ready else c.status
    clause := .none, readyTime := now, runCount := 0, heldClocks := 0, drained := false, begun := .none }

/-- ROLLBACK: every group of a block goes back to its latest barrier. -/
def execRollback (b : Nat) (s : State) : Host.Outcome State Fault Refusal :=
  .next (match (s.block b).shadow with
    | .none => s
    | some h =>
      if !(s.block b).rollPending then s
      -- the place of a group that had ended in the interval is taken: the rollback is not possible (05 R132)
      else if !s.restorable b then s.endBlock b
      else
        let bl := s.block b
        let mine (i : Nat) : Bool := (s.group i).id.block == b
        let s0 := s.discardLines b
        let s1 : State := { s0 with
          groups := (List.range s0.groups.length).map fun i =>
            let g := s0.group i
            if !mine i then g
            else match h.groups.find? fun x => x.1 == i with
              | some x => x.2.rolledBack (s.now g)
              | .none => { g with ctl := { g.ctl with status := .free, live := 0#32, act := 0#32 } }
          atoms := s0.atoms.filter fun a => !mine a.group
          msgs := s0.msgs.filter fun a => !mine a.group
          texs := s0.texs.filter fun a => !mine a.group
          traces := s0.traces.filter fun a => !mine a.group
          contWrites := s0.contWrites.filter fun a => !mine a.ref.group
          windows := s0.windows.map fun w => { w with fifo := w.fifo.filter fun e => match e with | .marker m => !mine m | .line _ => true }
          cells := (List.range s0.cells.length).zip s0.cells |>.map fun (c, x) => { x with
            index := (x.index.filter fun e => e.block != b) ++ h.index.filter fun e => e.cell == c
            quads := x.quads.map fun q => { q with hod := q.hod.filter fun r => !mine r.group } } }
        let s2 := h.segs.foldl (fun (s : State) x => s.modWindow bl.part x.1 fun w =>
          let o := bl.seg x.1
          let old := ((h.segPoison.find? fun y => y.1 == x.1).map (·.2)).getD []
          -- a 256-byte chunk written in the interval takes its old contents from the shadow area, poison with them (05 R138)
          let same (a : Nat) : Bool := decide (w.mem.bytes (o + a / 256 * 256) 256 = x.2.bytes (a / 256 * 256) 256)
          let now := w.poison.filter fun q => decide (o ≤ q.1 ∧ q.1 < o + bl.shared) && same (q.1 - o)
          { w with mem := (w.mem.erase o bl.shared).paste o x.2
                   poison := old.foldl (fun (p : Poisons) q => p.mark (o + q.1) q.2)
                     (now ++ w.poison.filter fun q => !decide (o ≤ q.1 ∧ q.1 < o + bl.shared)) }) s1
        let s3 := match h.groups.head? with
          | some (_, g) => s2.bindRings g.loc.cell g.loc.quad bl.ringHw fun n => h.rings.getD n Ring.empty
          | .none => s2
        -- a spilled register has its old value in its slot again (08 R226)
        let s4 := h.groups.foldl (fun s x => s.respill x.1) s3
        s4.modBlock b fun x => { x with
          barA := 0, barE := h.barE, arrived := [], dropped := h.dropped, lastphase := h.lastphase, rs := h.rs, tags := []
          retries := x.retries + 1, rollPending := false })

/-! ### Posted regions (02 R48) -/

/-- POST_TAKE: the scheduler takes the oldest entry of one class of one function. -/
def execPostTake (f cls : Nat) (s : State) : Host.Outcome State Fault Refusal :=
  .next (match s.hub.fns[f]? with
    | .none => s
    | some x => match x.queue.getD cls [] with
      | [] => s
      | (c, rcb) :: rest =>
        if s.hub.save.isSome || (s.ctx c).state == 5 then s
        else
          let s1 : State := { s with hub := { s.hub with fns := modifyAt s.hub.fns f fun y => { y with queue := y.queue.set cls rest } } }
          (s1.take c cls rcb .none .none).1)

end Sys2Proof.Machine
end

