-- ==== Sys2Proof/Machine/Power.lean ====
section
/-! DEFINITION. Resets, boot, the references, the link, power commands and the clamp (01 R16 to R28; 02 R57 to R66,
R72, R73). -/
namespace Sys2Proof.Machine
open Sys2Proof

/-! ### Numbering of the part (00 R6, 01 R27, 03 R98) -/

/-- The in-service cells of the panes in ascending physical order; a pane with fewer leaves its last numbers vacant. -/
def renumberCells (inSvc : Nat → Bool) : List (Option Nat) :=
  (List.range 4).flatMap fun p =>
    let here := ((List.range 9).map (9 * p + ·)).filter inSvc
    (List.range 8).map fun k => here[k]?

/-- The first `n` of some units in ascending order. -/
def renumber (n : Nat) (l : List Nat) : List (Option Nat) := (List.range n).map fun k => l[k]?

/-- The in-service ways take their numbers in ascending order. -/
def Hub.renumberWays (h : Hub) : List (Option Nat) := renumber 16 ((List.range 18).filter fun w => h.wayMap.contains (some w))

/-- CHANNEL_TRAINING: the lowest 24 channels that trained go into service; with fewer, none does (01 R28). -/
def channelsOf (train : Nat) : List (Option Nat) :=
  let l := (List.range 26).filter fun c => bit train c
  if l.length < 24 then List.replicate 24 .none else renumber 24 l

/-! ### Seam links (01 R37, R39) -/

/-- A link has power on both sides. -/
def State.seamUp (s : State) (n : Nat) : Bool :=
  let on (p : Nat) : Bool := match s.panes[p]? with | some x => x.power == .on | .none => false
  if n = 8 then true else if n < 4 then on n else on (n - 4) && on ((n - 3) % 4)

/-- A pane goes to P-ON by the command in progress. -/
def State.comesUp (s : State) (p : Nat) : Bool := match s.hub.power.cmd with
  | some v => bits v 31 30 == 1 && bits v 23 20 == 0 && bits v 29 24 == p
  | .none => false

/-- A link has power on both sides, or has it with the pane that comes up: it trains (02 R60). -/
def State.seamTrains (s : State) (n : Nat) : Bool :=
  let on (p : Nat) : Bool := s.comesUp p || (match s.panes[p]? with | some x => x.power == .on | .none => false)
  if n = 8 then false else if n < 4 then on n else on (n - 4) && on ((n - 3) % 4)

/-- STATE of every link, as its panes and its lanes make it. -/
def State.refreshSeams (s : State) : State :=
  s.withHub fun h => { h with seams := h.seams.zipIdx.map fun x =>
    { x.1 with state :=
        if s.seamUp x.2 then (if x.1.failed x.2 then 4 else if x.1.spares = 0 then 2 else 3)
        else if s.seamTrains x.2 then 1 else 0 } }

/-! ### Resets (01 R16, 02 R61, 03 R101) -/

/-- What survives every reset: the keep die, the physical state of the part, what the fuses hold, the straps, and the
model's own lists. -/
def State.physical (s : State) : State :=
  let h := s.hub
  { State.reset with
    agenda := s.agenda, fresh := s.fresh, hv := s.hv
    hub := { Hub.reset with
      raised := h.raised, keep := h.keep, strapSa := h.strapSa, strapBoot := h.strapBoot, fwFloor := h.fwFloor
      retired := h.retired, laneSpares := h.laneSpares, waysGone := h.waysGone, i3cOut := h.i3cOut, reply := h.reply
      cellMap := renumberCells fun x => h.cellMap.contains (some x), wayMap := h.wayMap } }

/-- The boot begins: from the flash, or by waiting for the host's image (02 R42, R72). -/
def State.bootStart (s : State) : State := (s.withHub fun h => { h.classify with boot := if h.strapBoot then 2 else 1 }).refreshSeams

/-- The device is in D-HOLD, or saves for it (02 R61). -/
def Hub.inHold (h : Hub) : Bool := h.dstate == 2 || (match h.save with | some v => v.event == 1 | .none => false)

/-- The device rung, as PERST_N takes it: everything is reset but the clamp, the reserve and the keep die; DRAM and the
numbering of channels and ways stay (01 R16, R27; 03 R98). Out of D-HOLD the channels train again (02 R61). -/
def State.deviceRung (s : State) (train : Nat) : State :=
  let s0 := s.cutSave.cutCopy
  let h := s0.hub
  let s1 := s0.physical
  let s2 := s1.withHub fun x => { x with clamp := h.clamp, ready := h.ready, sysclk := h.sysclk, dclk := h.dclk, faultN := !h.dclk }
  let s3 : State := if h.inHold then
      s2.withHub fun x => { x with trained := train % 2 ^ 26, chanMap := channelsOf train, wayMap := x.renumberWays }
    else
      { s2 with mem := s0.mem, memPoison := s0.memPoison
                hub := { s2.hub with trained := h.trained, chanMap := h.chanMap, chansGone := h.chansGone } }
  (s3.withHub fun x => { x with rung := 5, rungTgt := 0xFF }).bootStart

/-- POR_RESET: POR_N falls and rises: every state takes its reset value, the straps are sampled, the counter starts at
zero, the channels train (`train` has a bit for each that does); the keep die stays. -/
def execPorReset (sa boot train : Nat) (s : State) : Host.Outcome State Fault Refusal :=
  let s0 := s.cutSave.cutCopy
  .next ((({ s0.physical with hv := 0 } : State).withHub fun h =>
    { h with strapSa := sa % 4, strapBoot := boot != 0, ready := s0.hub.inHold && s0.hub.ready
             trained := train % 2 ^ 26, chanMap := channelsOf train, wayMap := h.renumberWays }).bootStart)

/-- PERST_RESET: PERST_N falls and rises with POR_N high: the device rung. -/
def execPerstReset (train : Nat) (s : State) : Host.Outcome State Fault Refusal := .next (s.deviceRung train)

/-! ### The references and the balls (01 R17 to R19) -/

/-- SYSCLK_FAULT, reported in the error status: every cell stops and the counter holds; the pipes go on, their safety layers on
tell-tales. -/
def execSysclkFault (s : State) : Host.Outcome State Fault Refusal := .next (s.withHub fun h => { h with sysclk := false, sysclkErr := true })
/-- SYSCLK_RETURN: the counter resumes from its value. -/
def execSysclkReturn (s : State) : Host.Outcome State Fault Refusal := .next (s.withHub fun h => { h with sysclk := true })
/-- DCLK_FAULT, reported in the error status: scan-out stops on all four ports, FAULT_N is asserted. -/
def execDclkFault (s : State) : Host.Outcome State Fault Refusal :=
  .next (s.withHub fun h => { h with dclk := false, dclkErr := true }).assertFault
/-- DCLK_RETURN: DCLKFAIL falls; FAULT_N stays as it is. -/
def execDclkReturn (s : State) : Host.Outcome State Fault Refusal := .next (s.withHub fun h => { h with dclk := true })
/-- LOCKSTEP_MISMATCH between the hypervisor cores. -/
def execLockstepMismatch (s : State) : Host.Outcome State Fault Refusal := .next (s.withHub fun h => { h with lockstep := true }).assertFault
/-- THERMTRIP: a junction sensor reaches 140 °C. -/
def execThermtrip (s : State) : Host.Outcome State Fault Refusal := .next (s.withHub fun h => { h with thermtrip := true })

/-! ### Boot (02 R72, R73) -/

/-- BOOT_GO: with bit 0 set while the device waits for the host's image, its check starts. -/
def execBootGo (v : Nat) (s : State) : Host.Outcome State Fault Refusal :=
  .next (if s.hub.boot = 2 ∧ bit v 0 = true then s.withHub fun h => { h with boot := 3 } else s)

/-- FIRMWARE_IMAGE_CHECK: an image that fails both checks leaves code 5 (the model's choice among 5 and 6, assumption 41). The image of generation `gen` and number `build`, whose signature and key stand or not, is
checked; one that passes may raise the floor, and runs. With fewer than 24 channels trained the firmware brings no
memory into service. -/
def execFirmwareImageCheck (sig key gen build raise : Nat) (s : State) : Host.Outcome State Fault Refusal :=
  .next (if s.hub.boot ≠ 1 ∧ s.hub.boot ≠ 3 then s
    else s.withHub fun h =>
      if sig = 0 ∨ key = 0 then { h with boot := 5 }
      else if gen < max Config.fusedFloor h.fwFloor then { h with boot := 6 }
      else { h with fwGen := gen % 2 ^ 32, fwBuild := build % 2 ^ 32, fwFloor := if raise = 0 then h.fwFloor else max h.fwFloor gen
                    boot := if h.chanMap.any (·.isNone) then 7 else 4 })

/-! ### The link (01 R25, R26; 02 R62) -/

/-- The link takes only the states, widths and rates that R25 lists: L0, L1, L2, L1.1 and L1.2; x1, x2, x4 and x8; 2.5 to 64 GT/s
as 1 to 6. -/
def linkOk (st width rate : Nat) : Bool := decide (st ≤ 4) && [1, 2, 4, 8].contains width && decide (1 ≤ rate ∧ rate ≤ 6)

/-- PCIE_LINK_STATE_CHANGE: the L-state, the width and rate negotiated, and the functions in D3hot. -/
def execPcieLinkStateChange (st width rate hot : Nat) (s : State) : Host.Outcome State Fault Refusal :=
  .next (if !linkOk st width rate then s
    else s.withHub fun h => { h with link := st, linkWidth := width, linkRate := rate
                                     fns := h.fns.zipIdx.map fun x => { x.1 with hot := bit hot x.2 } })

/-! ### Power commands (02 R57 to R61) -/

def cellState (n : Nat) : CellPower := [CellPower.act, .idle, .ret, .off].getD n .off
def paneState (n : Nat) : PanePower := [PanePower.on, .ret, .off].getD n .off

/-- The cells that a command of kind cell names, or none where a field is bad (02 R58, 00 R6). -/
def State.powerCells (s : State) (v : Nat) : Option (List Nat) :=
  let st := bits v 23 20
  if 3 < st ∨ (st = 0 ∧ 5 < bits v 19 17) then .none
  else if bit v 16 then some (s.hub.paneCells (bits v 25 24))
  else if 31 < bits v 29 24 ∨ s.hub.inService (bits v 29 24) = false then .none
  else some [bits v 29 24]

/-- A block still has something on a cell: a group, or threads in the cell's records. -/
def State.holdsWork (s : State) (c : Nat) : Bool := s.occupied c || (match s.cells[c]? with | some x => !x.index.isEmpty | .none => false)

/-- A transition of one cell: 0 where it is allowed, 1 where it is not, 2 where only what is resident bars it. -/
def State.cellMove (s : State) (rail : Bool) (st c : Nat) : Nat :=
  match s.cells[c]?, s.panes[paneOf c]? with
  | some x, some p =>
    let empty := if s.holdsWork c then 2 else 0
    match x.power, cellState st with
    | .act, .act => if rail then 0 else 1
    | .act, .idle => 0
    | .idle, .act => 0
    | .idle, .ret => empty
    | .idle, .off => empty
    | .ret, .off => empty
    | .ret, .act => if p.power == .on then 0 else 1
    | .off, .act => if p.power == .on then 0 else 1
    | _, _ => 1
  | _, _ => 1

/-- A cell's storage lost or zeroed: cell store, cell caches, messages, counting boards, palettes, semaphores. -/
def State.zeroCell (s : State) (c : Nat) : State :=
  { s with
    windows := s.windows.map fun w => if w.cell == c then
        { w with mem := [], poison := [], lines := [], cache := [], cachePoison := [], fifo := [], msgs := [], uorder := [] } else w
    cells := modifyAt s.cells c fun x =>
      { x with sems := List.replicate 64 0#32, ixu := ixuReset, index := []
               quads := x.quads.map fun q => { q with tlb := [], board := [], boardPoison := [], palette := [], palPoison := []
                                                      palUnits := [], rings := List.replicate 16 Ring.empty, hod := [] } } }

/-- The dirty lines of a cell's caches written back and the caches left clean (02 R57). -/
def State.cleanCell (s : State) (c : Nat) : State :=
  (s.windows.filter fun w => w.cell == c).foldl (fun s w =>
    (s.drainLines w.part c (w.lines.map (·.line))).modWindow w.part c fun x => { x with fifo := [] }) s

/-- The clamp holds the cells of a pane below a level. -/
def Clamp.over (k : Clamp) (pane level : Nat) : Bool := bit k.panes pane && decide (k.ceilOf pane < level)

/-- A cell's transition carried out. -/
def State.setCellPower (s : State) (st level c : Nat) : State :=
  let k := s.hub.clamp
  let s1 : State := match s.cells[c]? with
    | some x =>
      if x.power == CellPower.off && st == 0 then (s.zeroCell c).modCell c fun x => { x with counter := 0 }
      else if st = 2 then s.cleanCell c
      else if st = 3 then s.zeroCell c
      else s
    | .none => s
  s1.modCell c fun x => { x with
    power := cellState st, idling := false
    level := if st = 0 then level else x.level
    effLevel := if st = 0 then (if k.over (paneOf c) level then k.ceilOf (paneOf c) else level) else x.effLevel }

/-- The condition of a pane's transition: 0 or 1. -/
def State.paneMove (s : State) (rail : Bool) (st p : Nat) : Nat :=
  let cells := (List.range 8).filterMap fun k => s.cells[8 * p + k]?
  match s.panes[p]? with
  | .none => 1
  | some x => match x.power, paneState st with
    | .on, .ret => if cells.all fun c => c.power == CellPower.ret || c.power == CellPower.off then 0 else 1
    | .on, .off => if cells.all fun c => c.power == CellPower.off then 0 else 1
    | .ret, .on => if rail then 0 else 1
    | .off, .on => if rail then 0 else 1
    | _, _ => 1

/-- The result of a power command, and the state it leads to. Where several results apply the spec orders none: a bad field is
told before a device that is not in D0, and that before a transition that is not allowed or an occupied target (DESIGN CHOICE,
assumption 31). -/
def State.powerRun (s : State) (rail : Bool) (v : Nat) : Nat × State :=
  let st := bits v 23 20
  let tgt := bits v 29 24
  match bits v 31 30 with
  | 0 => match s.powerCells v with
    | .none => (3, s)
    | some cs =>
      let r := cs.map (s.cellMove rail st)
      if s.hub.dstate ≠ 0 then (5, s)
      else if r.contains 1 then (1, s)
      else if r.contains 2 then (2, s)
      else
        let low := decide (st = 0) && cs.any fun c => s.hub.clamp.over (paneOf c) (bits v 19 17)
        (if low then 4 else 0, cs.foldl (fun s c => s.setCellPower st (bits v 19 17) c) s)
  | 1 =>
    if 3 < tgt ∨ 2 < st then (3, s)
    else if s.hub.dstate ≠ 0 then (5, s)
    else if s.paneMove rail st tgt ≠ 0 then (1, s)
    else (0, (s.modPane tgt fun p => { p with power := paneState st, tlb := if st = 2 then [] else p.tlb }).refreshSeams)
  | 2 =>
    if 0 < tgt ∨ 2 < st then (3, s)
    else match s.hub.dstate, st with
      | 0, 1 => if s.panes.all fun p => p.power != .on then (0, s.withHub fun h => { h with dstate := 1 }) else (1, s)
      | 1, 0 => (0, s.withHub fun h => { h with dstate := 0 })
      | 0, _ => (1, s)
      | _, _ => s.pick [1, 5]
  | _ => (3, s)

/-- The command asks for D-HOLD from D0. -/
def State.asksHold (s : State) (v : Nat) : Bool := bits v 31 20 == 0x802 && s.hub.dstate == 0

/-- The cells that a command takes to C-IDLE. -/
def State.idlingCells (s : State) (v : Nat) : List Nat :=
  if bits v 31 30 = 0 ∧ bits v 23 20 = 1 ∧ (s.powerRun true v).1 = 0 then (s.powerCells v).getD [] else []

/-- A group is in the midst of a run on a cell (02 R57). -/
def State.midRun (s : State) (c : Nat) : Bool := s.groups.any fun g =>
  g.loc.cell == c && (g.ctl.status == .running || g.ctl.status == .held) && decide (0 < g.ctl.runCount)

/-- POWER_CMD written. A command for D-HOLD begins the save at once, from board power; one for C-IDLE has the cells stop at
their run and K-step boundaries; one for P-ON has the links train. -/
def State.powerWrite (s : State) (kind v : Nat) : State :=
  let v := putBits v 31 30 kind
  let s1 := s.withHub fun h => { h with power := h.power.write v (bits v 15 8) }
  if s.hub.power.cmd.isSome then s1
  else if s.asksHold v && s.hub.save.isNone then
    (s1.withHub fun h => { h with lost := true }).cutCopy.startSave 1 true
  else ((s.idlingCells v).foldl (fun s c => s.modCell c fun x => { x with idling := true }) s1).refreshSeams

/-- POWER_CMD of kind cell. -/
def execPowerCmdCell (v : Nat) (s : State) : Host.Outcome State Fault Refusal := .next (s.powerWrite 0 v)
/-- POWER_CMD of kind pane. -/
def execPowerCmdPane (v : Nat) (s : State) : Host.Outcome State Fault Refusal := .next (s.powerWrite 1 v)
/-- POWER_CMD of kind device. -/
def execPowerCmdDevice (v : Nat) (s : State) : Host.Outcome State Fault Refusal := .next (s.powerWrite 2 v)
/-- POWER_CMD of kind device to D-HOLD: the hold-up sequence runs from board power. -/
def execDHold (v : Nat) (s : State) : Host.Outcome State Fault Refusal := .next (s.powerWrite 2 (putBits (putBits v 23 20 2) 29 24 0))

/-- POWER_CMD_COMPLETE: the transition finishes, BUSY falls and vector 3 is raised; `rail` tells whether the rail
concerned is at its set point and in tolerance. D-HOLD is reached when its save has been written, C-IDLE when every run on the
cells has ended. -/
def execPowerCmdComplete (rail : Nat) (s : State) : Host.Outcome State Fault Refusal :=
  .next (match s.hub.power.cmd with
    | .none => s
    | some v =>
      let (r, s1) := if bits v 31 20 = 0x802 ∧ s.hub.inHold = true then (0, s) else s.powerRun (rail != 0) v
      if bits v 31 20 = 0x802 ∧ s.hub.inHold = true ∧ s.hub.saving = true then s
      else if (s.idlingCells v).any s.midRun then s
      else
        let s2 : State := { s1 with cells := s1.cells.map fun c => { c with idling := false } }
        ((s2.withHub fun h => { h with power := h.power.finish r }).refreshSeams).raise 0 3)

/-! ### The clamp (02 R64 to R66) -/

/-- The panes that a cause affects: a sensor or current of the hub, pane 4 here, affects all. -/
def clampPanes (kind pane : Nat) : Nat := if kind = 3 ∨ pane = 4 then 15 else 2 ^ pane

/-- The in-service cells of some panes. -/
def Hub.cellsIn (h : Hub) (panes : Nat) : List Nat :=
  ((List.range 4).filter fun p => bit panes p).flatMap h.paneCells

/-- The level from which a pane's ceiling is counted down: the highest at which a cell of it runs. -/
def State.clampTop (s : State) (p : Nat) : Nat :=
  match (s.hub.paneCells p).filterMap fun c => (s.cells[c]?).bind fun x =>
      if x.power == .act || x.power == .idle then some x.effLevel else .none with
  | [] => 5
  | l => l.foldl max 0

/-- CLAMP_TRIGGER: a condition of kind 1 to 4 on a pane, or on the hub, with the junction temperature in °C plus 64:
the clamp is applied; vector 0 and the in-band interrupt are raised. -/
def execClampTrigger (kind pane temp : Nat) (s : State) : Host.Outcome State Fault Refusal :=
  let ps := clampPanes kind pane % 16
  let k := s.hub.clamp
  let old := (k.causes.find? fun c => c.kind == kind && c.panes == ps).getD ⟨kind, ps, 0, true⟩
  .next (((s.withHub fun h => { h with clamp := { k with
    causes := (k.causes.filter fun c => !(c.kind == kind && c.panes == ps)) ++ [{ old with active := true }]
    tops := (List.range 4).map fun p => if bit ps p && !bit k.panes p then s.clampTop p else k.tops.getD p 0
    tjpeak := if k.on then max k.tjpeak (temp % 256) else temp % 256 } }).raise 0 0).ibi 2)

/-- CLAMP_STEP: 20 µs have passed with the condition of the cause present: one step more, which lowers the cells of a pane
where no other cause has called for as many; past level 0 the issue duty limit. -/
def execClampStep (tick : ClampTick) (s : State) : Host.Outcome State Fault Refusal :=
  let old := s.hub.clamp
  .next (match old.causes[tick.cause]? with
    | .none => s
    | some c =>
      if !c.active then s
      else
        let new := { old with causes := modifyAt old.causes tick.cause fun c => { c with steps := c.steps + 1 }, tjpeak := max old.tjpeak (tick.temp % 256) }
        (s.hub.cellsIn c.panes).foldl (fun s x => s.modCell x fun y =>
            { y with effLevel := y.effLevel - (new.steps (paneOf x) - old.steps (paneOf x)) })
          (s.withHub fun h => { h with clamp := new }))

/-- The causes of the clamp whose condition is present, by their places. -/
def Clamp.present (k : Clamp) : List Nat := (List.range k.causes.length).filter fun i => (k.causes[i]?).any (·.active)

/-- CLAMP_CONDITION_CLEAR: the condition of one cause, whichever it is, is gone; the levels stay at the ceiling. The row
names no cause, so a free value picks it among those present. -/
def execClampConditionClear (s : State) : Host.Outcome State Fault Refusal :=
  .next (match s.hub.clamp.present with
    | [] => s
    | l =>
      let (w, s1) := s.free
      s1.withHub fun h => { h with clamp := { h.clamp with
        causes := modifyAt h.clamp.causes (l.getD (w % l.length) 0) fun c => { c with active := false } } })

/-- CLAMP_RELEASE: a write to CLAMP_REL; refused while the condition is present, or with a new trigger in the same
clock; otherwise the commanded levels return. -/
def execClampRelease (v fw same : Nat) (s : State) : Host.Outcome State Fault Refusal :=
  .next (s.guarded fw fun s =>
    let k := s.hub.clamp
    if !bit v 0 then s
    else if k.active || same != 0 then s.withHub fun h => { h with clamp := { k with denied := true } }
    else (s.hub.cellsIn k.panes).foldl (fun s c => s.modCell c fun x => { x with effLevel := x.level })
      (s.withHub fun h => { h with clamp := { k with causes := [] } }))

end Sys2Proof.Machine
end

