-- ==== Sys2Proof/Machine/PartCmd.lean ====
section
/-! DEFINITION. The configuration table, partition commands, recarving, the reset ladder, virtual functions and the
class registers (03 R74 to R104, R518). -/
namespace Sys2Proof.Machine
open Sys2Proof

/-! ### The configuration table (03 R78 to R83) -/

/-- The extents of a function entry's words: those of non-zero length. -/
def extentsOf (b : List Byte) : List (Nat × Nat) :=
  ((List.range 4).map fun i => (fieldAt b (8 + 8 * i) 4, fieldAt b (12 + 8 * i) 4)).filter fun e => e.2 != 0

/-- The bytes of a range are zero. -/
def zeroAt (b : List Byte) (o n : Nat) : Bool := ((b.drop o).take n).all (· == 0#8)

/-- A function entry as it would be committed. -/
def Func.parse (f : Nat) (b : List Byte) : Func :=
  { en := f == 0 || bit (fieldAt b 0 4) 0, syscap := f == 0 || bit (fieldAt b 0 4) 1, apsize := fieldAt b 4 1, extents := extentsOf b }

/-- Extents after the first empty one are empty. -/
def extentsPacked (b : List Byte) : Bool :=
  (List.range 3).all fun i => fieldAt b (12 + 8 * i) 4 != 0 || fieldAt b (20 + 8 * i) 4 == 0

/-- A function entry passes the checks on itself. -/
def funcOk (f : Nat) (b : List Byte) : Bool :=
  decide (fieldAt b 0 4 < 4) && zeroAt b 5 3 && zeroAt b 0x28 24
  && (!(Func.parse f b).en
      || (decide (30 ≤ fieldAt b 4 1 ∧ fieldAt b 4 1 ≤ (if f = 0 then 37 else 36)) && extentsPacked b
          && (extentsOf b).all fun e => decide ((e.1 + e.2) * unit2M ≤ dataEnd)))

/-- An extent of two functions overlaps. -/
def overlaps (x y : List (Nat × Nat)) : Bool := x.any fun a => y.any fun b => decide (a.1 < b.1 + b.2 ∧ b.1 < a.1 + a.2)

/-- A partition entry's owner, none for an unused partition. -/
def partOk (b : List Byte) : Bool := (decide (fieldAt b 0 1 ≤ 16) || fieldAt b 0 1 == 0xFF) && zeroAt b 1 31

/-- A context entry as it would be committed. -/
def Context.parse (b : List Byte) : Context :=
  if fieldAt b 0 1 = 0xFF then Context.free
  else { Context.free with
    func := some (fieldAt b 0 1), part := fieldAt b 1 1, asid := fieldAt b 2 2, s1root := fieldAt b 8 8, errq := fieldAt b 0x10 8
    errqlog := fieldAt b 0x18 1, save := fieldAt b 0x20 8, bound := fieldAt b 0x28 8 }

/-- A context entry passes the checks on itself, over the function and partition entries. -/
def ctxOk (fs : List Func) (owners : List Nat) (b : List Byte) : Bool :=
  zeroAt b 4 4 && zeroAt b 0x19 7 && zeroAt b 0x30 16
  && (fieldAt b 0 1 == 0xFF
      || (decide (fieldAt b 0 1 ≤ 16) && decide (fieldAt b 1 1 ≤ 15) && decide (6 ≤ fieldAt b 0x18 1 ∧ fieldAt b 0x18 1 ≤ 16)
          && decide (fieldAt b 8 8 % 4096 = 0)
          && (match fs[fieldAt b 0 1]? with | some f => f.en | .none => false)
          && owners.getD (fieldAt b 1 1) 0xFF == fieldAt b 0 1))

/-- The table at CFG_BASE: its entries as bytes. -/
structure Table where
  gen : Nat
  headOk : Bool
  fs : List (List Byte)
  ps : List (List Byte)
  cs : List (List Byte)

/-- The table as it stands in memory. One that would reach beyond the physical data space fails the check at offset 0 (the model's
choice: the spec gives no result, assumption 35). -/
def State.table (s : State) : Table :=
  let a := s.hub.cfgBase * 4096
  let h := s.homeRead a 64
  ⟨fieldAt h 2 2, fieldAt h 0 2 == 1 && zeroAt h 4 60 && decide (a + 0x1680 ≤ dataEnd),
    (List.range 17).map fun i => s.homeRead (a + 0x40 + 64 * i) 64,
    (List.range 16).map fun i => s.homeRead (a + 0x480 + 32 * i) 32,
    (List.range 64).map fun i => s.homeRead (a + 0x680 + 64 * i) 64⟩

def Table.funcs (t : Table) : List Func := t.fs.zipIdx.map fun x => Func.parse x.2 x.1
def Table.owners (t : Table) : List Nat := t.ps.map fun b => fieldAt b 0 1

/-- The table offset of the first entry that fails the check of R82; an entry that clashes with an earlier one
fails. -/
def Table.failing (t : Table) : Option Nat :=
  let fs := t.funcs
  let fBad (i : Nat) : Bool :=
    let x := fs.getD i ⟨false, false, 0, []⟩
    !funcOk i (t.fs.getD i []) || (x.en && (fs.take i).any fun y => y.en && overlaps x.extents y.extents)
  let cBad (i : Nat) : Bool :=
    let b := t.cs.getD i []
    !ctxOk fs t.owners b || (fieldAt b 0 1 != 0xFF && (t.cs.take i).any fun y => fieldAt y 0 1 == fieldAt b 0 1 && fieldAt y 2 2 == fieldAt b 2 2)
  if !t.headOk then some 0
  else match (List.range 17).find? fBad with
    | some i => some (0x40 + 64 * i)
    | .none => match (List.range 16).find? fun i => !partOk (t.ps.getD i []) with
      | some i => some (0x480 + 32 * i)
      | .none => ((List.range 64).find? cBad).map fun i => 0x680 + 64 * i

/-- The entry without what changes as the context runs. -/
def Context.entry (c : Context) : Context := { c with state := 1, errHead := 0, errSeq := 1, bounds := [] }

/-- A function in use changes only in its last non-empty extent, or has one added after it. -/
def extentsStep (old new : List (Nat × Nat)) : Bool :=
  new == old || new.take old.length == old && decide (new.length = old.length + 1)
  || (match old.getLast? with
      | .none => false
      | some (b, _) => new == old.dropLast || (decide (new.length = old.length) && new.dropLast == old.dropLast
          && (match new.getLast? with | some (b', _) => b' == b | .none => false)))

/-- A function is in use while any of its contexts is. -/
def State.funcInUse (s : State) (f : Nat) : Bool := (List.range 64).any fun c => s.owns f c && s.inUse c

/-- The table breaks a limit of R83. -/
def State.breaksUse (s : State) (t : Table) : Bool :=
  (List.range 64).any (fun c => s.inUse c && decide ((Context.parse (t.cs.getD c [])).entry ≠ (s.ctx c).entry))
  || (List.range 17).any (fun f => s.funcInUse f &&
      (let x := s.funcs.getD f ⟨false, false, 0, []⟩
       let y := t.funcs.getD f ⟨false, false, 0, []⟩
       x.en != y.en || x.syscap != y.syscap || x.apsize != y.apsize || !extentsStep x.extents y.extents))
  || (List.range 16).any (fun p => (s.cells.any fun c => c.quads.any fun q => q.owned && q.owner == p)
      && t.owners.getD p 0xFF != s.partOwner.getD p 0xFF)

/-- STAGE2_INVALIDATION: a function's entries over the guest-physical range that its new extents no longer map the
same way are dropped, its accesses performed. -/
def State.stage2Inv (s : State) (f : Nat) (new : List (Nat × Nat)) : State :=
  let old := (s.funcs.getD f ⟨false, false, 0, []⟩).extents
  if old == new then s
  else
    let gone (e : TlbEntry) : Bool := e.func == f && (match findExtent e.gpa 0 new, findExtent e.gpa 0 old with
      | some x, some y => decide (x.2.1 - x.1 ≠ y.2.1 - y.1) || decide (x.1 + x.2.2 < e.gpa + e.size)
      | _, _ => true)
    (s.drainWindows fun w => s.partOwner.getD w.part 0xFF == f).dropTlb gone

/-- A commit takes effect (03 R78, R83): contexts whose entry stays keep their state; a queue newly committed starts
its sequence anew. PART_DETAIL.OFFSET keeps what the last failed check left (the model's choice, assumption 36). -/
def State.commitTable (s : State) (t : Table) : State :=
  let fs := t.funcs
  let s1 := (List.range 17).foldl (fun s f => s.stage2Inv f (fs.getD f ⟨false, false, 0, []⟩).extents) s
  { s1 with
    funcs := fs, partOwner := t.owners
    ctxs := (List.range 64).map fun c =>
      let new := Context.parse (t.cs.getD c [])
      if new.entry = (s.ctx c).entry then s.ctx c else new
    hub := { s1.hub with detailGen := t.gen } }

/-! ### Commands (03 R89) -/

/-- The contexts of the functions whose extents a table changes: the invalidation concerns them (03 R97). -/
def State.invalidCtxs (s : State) (t : Table) : List Nat :=
  (List.range 64).filter fun c => match (s.ctx c).func with
    | some f => (t.funcs.getD f ⟨false, false, 0, []⟩).extents != (s.funcs.getD f ⟨false, false, 0, []⟩).extents
    | .none => false

/-- The command in progress ends, and vector 6 is raised. -/
def State.partEnd (s : State) (r : Nat) : State := (s.withHub fun h => { h with part := h.part.finish r }).raise 0 6

/-- PART_CMD written with an operation: dropped while one is in progress, else begun. -/
def State.partWrite (s : State) (fw op v : Nat) (run : Nat → State → State) : State :=
  s.guarded fw fun s =>
    let v := putBits v 31 28 op
    let s1 := s.withHub fun h => { h with part := h.part.write v (bits v 3 0) }
    if s.hub.dstate = 2 then s
    else if s.hub.part.cmd.isSome then s1
    else if op ≠ 3 ∧ op ≠ 4 ∧ s.hub.boot ≠ 4 then s1.partEnd 6
    else run v s1

/-- A command that invalidates ends at once, or waits for the accesses of some contexts that are in flight (03 R89, R97). -/
def State.invSettle (s : State) (cs : List Nat) : State :=
  if s.inFlight cs then s.withHub fun h => { h with inval := cs } else s.partEnd 0

/-- A command that waited for accesses in flight ends once they have been performed. -/
def State.invDone (s : State) : State :=
  let cs := s.hub.inval
  if cs.isEmpty || s.inFlight cs then s
  else ((s.drainCtxs cs).withHub fun h => { h with inval := [] }).partEnd 0

def cmdCell (v : Nat) : Nat := bits v 15 11
def cmdQuads (v : Nat) : List Nat := (List.range 4).filter fun q => bit v (7 + q)
def cmdPart (v : Nat) : Nat := bits v 27 24

/-- COMMIT checks the table and takes it, or fails with RESULT 3 or 5. -/
def execPartCommit (v fw : Nat) (s : State) : Host.Outcome State Fault Refusal :=
  .next (s.partWrite fw 0 v fun _ s =>
    let t := s.table
    match t.failing, s.breaksUse t with
    | .none, false => (s.commitTable t).invSettle (s.invalidCtxs t)
    | .none, true => s.partEnd 5
    | some o, u =>
      let (r, s1) := if u then s.pick [3, 5] else (3, s)
      (if r = 3 then s1.withHub fun h => { h with detailOff := o } else s1).partEnd r)

/-- INV_CTX drops every stage-1 entry of a context. -/
def execInvCtx (v fw : Nat) (s : State) : Host.Outcome State Fault Refusal :=
  .next (s.partWrite fw 5 v fun v s =>
    let k := bits v 21 16
    let c := s.ctx k
    ((s.drainCtxs [k]).dropTlb fun e => some e.func == c.func && e.asid == c.asid).invSettle [k])

/-! ### Quadrants that change hands (03 R90 to R93, R518) -/

/-- The bytes of a window under a new carve: each quadrant kept takes its six banks along (03 R75). -/
def rebank (old new : List Nat) (m : Mem) : Mem :=
  new.zipIdx.foldl (fun (acc : Mem) x => match findIdx' (· == x.1) old with
    | some i => acc.paste (x.2 * 0x180000) (m.slice (i * 0x180000) 0x180000)
    | .none => acc) []
def rebankPoison (old new : List Nat) (p : Poisons) : Poisons :=
  new.zipIdx.flatMap fun x => match findIdx' (· == x.1) old with
    | some i => (p.filter fun y => y.1 / 0x180000 == i).map fun y => (y.1 % 0x180000 + x.2 * 0x180000, y.2)
    | .none => []

/-- A quadrant's storage zeroed and its translations dropped. -/
def Quad.zeroed (q : Quad) : Quad :=
  { q with tlb := [], board := [], boardPoison := [], palette := [], palPoison := [], palUnits := []
           rings := List.replicate 16 Ring.empty, hod := [] }

/-- The cell cache of a partition on a cell written back and invalidated. -/
def State.flushWindow (s : State) (part cell : Nat) : State :=
  (s.drainWindows fun w => w.part == part && w.cell == cell).modWindow part cell fun w =>
    { w with lines := [], cache := [], cachePoison := [], fifo := [], uorder := [] }

/-- Quadrants of a cell handed to a partition, or taken from it. -/
def State.handOver (s : State) (part cell : Nat) (qs : List Nat) (give : Bool) : State :=
  let old := s.heldQuads part cell
  let s1 := s.flushWindow part cell
  let s2 := s1.modCell cell fun c =>
    { c with quads := c.quads.zipIdx.map fun x => if qs.contains x.2 then
               { x.1.zeroed with owned := give, owner := if give then part else 0, shrinkPending := false } else x.1
             sems := c.sems.zipIdx.map fun x => if qs.contains (x.2 / 16) then 0#32 else x.1 }
  let new := s2.heldQuads part cell
  if new = [] then { s2 with windows := s2.windows.filter fun w => !(w.part == part && w.cell == cell) }
  else s2.modWindow part cell fun w => { w with mem := rebank old new w.mem, poison := rebankPoison old new w.poison }

/-- The blocks of a partition that stand on a cell. -/
def State.blocksOn (s : State) (part cell : Nat) : List Nat :=
  (List.range s.blocks.length).filter fun b =>
    let x := s.block b
    x.part == part && x.resident && x.cells.contains cell

/-- A quadrant's state. -/
def State.quadAt (s : State) (cell q : Nat) : Quad := ((s.cells[cell]?).bind fun c => c.quads[q]?).getD Quad.reset

/-- Every block that is to leave has left, no group stays on the quadrants, and no self-test runs there (06 R189). -/
def State.left (s : State) (x : Recarve) : Bool :=
  x.blocks.all (fun b => !s.leavesFor x b)
  && !((List.range 4).any fun q => bit x.qmask q && (s.quadAt x.cell q).testing)
  && !(s.groups.any fun g => g.loc.cell == x.cell && bit x.qmask g.loc.quad && !x.grow && (g.inSlot || g.ctl.status == .tracked))

/-- A recarve whose evictions are done ends: the quadrants change hands; a deferred one raises vector 7 again; the last
that a command waits for ends the command. -/
def State.recarveEnd (s : State) (k : Nat) : State :=
  match s.hub.recarves[k]? with
  | .none => s
  | some x =>
    if !s.left x then s
    else
      let qs := (List.range 4).filter fun q => bit x.qmask q && (x.grow || (s.quadAt x.cell q).owner == x.part)
      let s1 := if x.fence then s else s.handOver x.part x.cell qs x.grow
      let s2 := s1.withHub fun h => { h with recarves := h.recarves.eraseIdx k }
      let s3 := if x.deferred then s2.raise 0 7 else s2
      match s3.hub.part.cmd with
      | some v =>
        if (bits v 31 28 == 1 || bits v 31 28 == 2) && !(s3.hub.recarves.any fun y => !y.deferred && !y.fence) then s3.partEnd 0 else s3
      | .none => s3

/-- Every recarve that waits for nothing ends. -/
def State.recarvesEnd (s : State) : State :=
  ((List.range s.hub.recarves.length).reverse).foldl (fun s k => s.recarveEnd k) s

/-- The quadrants of a command that are marked shrink-pending: where a shrink leaves the partition nothing on the cell and a
co-operative launch defers it, those that the launch uses (03 R92); else all of them (R518). -/
def State.marked (s : State) (part cell : Nat) (qs : List Nat) (grow : Bool) (launch : List Nat) : List Nat :=
  if grow || launch.isEmpty || (s.heldQuads part cell).any (fun q => !qs.contains q) then qs
  else qs.filter fun q => s.groups.any fun g => launch.contains g.id.block && g.inSlot && g.loc.cell == cell && g.loc.quad == q

/-- A recarve begins: its quadrants are marked, its blocks called out; with a co-operative launch among them it is deferred, and
the hypervisor cores are told. -/
def State.recarveBegin (s : State) (part cell : Nat) (qs : List Nat) (grow fence : Bool) (bs : List Nat) : State :=
  let launch := bs.filter s.coop
  let x : Recarve :=
    { part := part, cell := cell, qmask := (qs.map (2 ^ ·)).foldl (· + ·) 0, grow := grow, deferred := !launch.isEmpty
      fence := fence, blocks := bs, launch := launch, began := false }
  let marks := s.marked part cell qs grow launch
  let s1 := s.withHub fun h => { h with recarves := h.recarves ++ [x] }
  let s2 := if fence then s1 else s1.modCell cell fun c =>
    { c with quads := c.quads.zipIdx.map fun y => if marks.contains y.2 then
        { y.1 with shrinkPending := true, owner := part, owned := !grow } else y.1 }
  (if x.deferred then (s2.withHub fun h => { h with notices := h.notices ++ [part] }).raise 0 7 else s2).callSlices

/-- What bars a recarve: bin space or tile memory in the window, or more messages than the new carve holds. -/
def State.recarveBarred (s : State) (part cell k : Nat) : Bool :=
  s.passes.any (fun p => (s.ctx p.ctx).part == part && (p.home == cell || p.tiles.any fun t => (t.mem.map (·.1)) == some cell))
  || decide (64 * k < (s.window part cell).msgs.length)

/-- A reset of rung 3 or 4 runs on a quadrant (03 R104): rung 3 on a unit that the cell's quadrants share counts on all four (the
model's choice, assumption 39). -/
def State.underReset (s : State) (cell q : Nat) : Bool :=
  s.hub.rungs.any fun x => (x.rung == 3 && bits x.tgt 7 3 == cell && (bits x.tgt 2 0 == q || decide (4 ≤ bits x.tgt 2 0)))
    || (x.rung == 4 && (s.heldQuads x.tgt cell).contains q)

/-- The command has nothing more to wait for, or was deferred. -/
def State.partSettle (s : State) : State :=
  let s1 := s.recarvesEnd
  match s1.hub.part.cmd with
  | .none => s1
  | some _ =>
    if s1.hub.recarves.any (fun x => !x.deferred && !x.fence) then s1 else s1.partEnd 0

/-- GROW. -/
def execPartGrow (v fw : Nat) (s : State) : Host.Outcome State Fault Refusal :=
  .next (s.partWrite fw 1 v fun v s =>
    let cell := cmdCell v
    let part := cmdPart v
    let qs := cmdQuads v
    let held := s.heldQuads part cell
    if s.partOwner.getD part 0xFF = 0xFF ∨ s.hub.inService cell = false then s.partEnd 2
    else if qs.any (fun q => (s.quadAt cell q).owned || (s.quadAt cell q).shrinkPending || s.underReset cell q) then s.partEnd 4
    else if qs = [] then s.partEnd 0
    else if held = [] then (s.handOver part cell qs true).partEnd 0
    else if s.recarveBarred part cell 4 then s.partEnd 4
    else
      let s1 := s.recarveBegin part cell qs true false (s.blocksOn part cell)
      if (s.blocksOn part cell).any s.coop then s1.partEnd 1 else s1.partSettle)

/-- SHRINK. -/
def execPartShrink (v fw : Nat) (s : State) : Host.Outcome State Fault Refusal :=
  .next (s.partWrite fw 2 v fun v s =>
    let cell := cmdCell v
    let named := (cmdQuads v).filter fun q => (s.quadAt cell q).owned || (s.quadAt cell q).shrinkPending
    let parts := dedupNat (named.map fun q => (s.quadAt cell q).owner)
    let mine (p : Nat) : List Nat := named.filter fun q => (s.quadAt cell q).owner == p
    let kept (p : Nat) : List Nat := (s.heldQuads p cell).filter fun q => !named.contains q
    if named.any (fun q => (s.quadAt cell q).shrinkPending || s.underReset cell q) then s.partEnd 4
    else if parts.any (fun p => !(kept p).isEmpty && s.recarveBarred p cell (kept p).length) then s.partEnd 4
    else
      let s1 := parts.foldl (fun s p => s.recarveBegin p cell (mine p) false false (s.blocksOn p cell)) s
      if parts.any (fun p => (s.blocksOn p cell).any s.coop) then (s1.partEnd 1).recarvesEnd else s1.partSettle)

/-- SHRINK_COMPLETE: after the last eviction the quadrants of recarve `k` change hands. -/
def execShrinkComplete (k : Nat) (s : State) : Host.Outcome State Fault Refusal := .next (s.recarveEnd k)

/-- Every group of the co-operative launches that a deferred command waits for is at a blocking point: their eviction begins, if
it has not. -/
def State.launchBlocked (s : State) (x : Recarve) : Bool :=
  let bs := x.launch.filter (s.leavesFor x)
  x.deferred && !x.began && !bs.isEmpty && (bs.flatMap s.together).all s.allBlocked

/-- DEFERRED_LAUNCH_EVICTION: all the groups of a co-operative launch that a deferred command waits for are blocked: its eviction
begins, and once nothing of it is outstanding it is evicted whole, and the command's quadrants are released. -/
def execDeferredLaunchEviction (k : Nat) (s : State) : Host.Outcome State Fault Refusal :=
  .next (match s.hub.recarves[k]? with
    | .none => s
    | some x =>
      let s1 := if s.launchBlocked x then s.withHub fun h => { h with recarves := modifyAt h.recarves k fun y => { y with began := true } } else s
      let bs := x.blocks.filter (s.leavesFor x)
      if x.deferred && bs.all s1.canEvict then
        ((dedupNat (bs.flatMap s1.together)).foldl (fun s b => s.evictOne b) s1).recarveEnd k
      else s1)

/-- A deferred command after the withdrawal from some quadrants: none where it names no other. -/
def Recarve.without (x : Recarve) (qs : List Nat) : Option Recarve :=
  let left := ((List.range 4).filter fun q => bit x.qmask q && !qs.contains q).foldl (fun a q => a + 2 ^ q) 0
  if left = 0 then .none else some { x with qmask := left }

/-- CANCEL withdraws deferred commands from the quadrants it names that read shrink-pending. Its own RESULT is 8 where something
is withdrawn and 0 where nothing named is pending (the model's choice: R89 does not say which commands end with 8, assumption
38). -/
def execPartCancel (v fw : Nat) (s : State) : Host.Outcome State Fault Refusal :=
  .next (s.partWrite fw 3 v fun v s =>
    let cell := cmdCell v
    let qs := (cmdQuads v).filter fun q => (s.quadAt cell q).shrinkPending
    let isHit (x : Recarve) : Bool := x.deferred && !x.fence && x.cell == cell && qs.any (bit x.qmask)
    let hit := s.hub.recarves.filter isHit
    if hit.any (·.began) then s.partEnd 4
    else if hit.isEmpty then s.partEnd 0
    else
      let gone := qs.filter fun q => hit.any fun x => bit x.qmask q
      let s1 := s.withHub fun h => { h with recarves := h.recarves.filterMap fun x => if isHit x then x.without gone else some x }
      let stay (y : Quad × Nat) : Quad := if gone.contains y.2 then
        { y.1 with shrinkPending := false, owner := if y.1.owned then y.1.owner else 0 } else y.1
      let s2 := s1.modCell cell fun c => { c with quads := c.quads.zipIdx.map stay }
      s2.liftSlices.partEnd 8)

/-! ### The reset ladder (03 R101 to R104) -/

/-- A context ends by force: its blocks, regions, passes, requests, posted entries and declarations go, nothing is
saved. -/
def State.killCtx (s : State) (c : Nat) : State :=
  let bs := (List.range s.blocks.length).filter fun b => (s.block b).ctx == c && !(s.block b).retired
  let s1 := bs.foldl (fun s b => s.endBlock b) s
  let mine (g : Nat) : Bool := (s1.group g).id.ctx == c
  let s2 := (s1.passes.filter fun p => p.ctx == c).foldl (fun s p =>
    (p.tiles.filterMap (·.mem)).foldl (fun s m => s.dynFree (s.passPart p) m.1 m.2) (s.dynFree (s.passPart p) p.home p.binOff)) s1
  State.withdrawEnded { s2 with
    regions := s2.regions.map fun r => if r.ctx == c then { r with complete := true, waiting := false, nextBlock := r.grid } else r
    passes := s2.passes.filter fun p => p.ctx != c
    texs := s2.texs.filter fun x => !mine x.group
    traces := s2.traces.filter fun x => !mine x.group
    contWrites := s2.contWrites.filter fun x => !mine x.ref.group
    hub := { s2.hub with
      fns := s2.hub.fns.map fun f => { f with queue := f.queue.map fun q => q.filter fun e => e.1 != c } } }

/-- The contexts that hold a condition of their number and are not free. -/
def State.ctxsWhere (s : State) (p : Nat → Bool) : List Nat := (List.range 64).filter fun c => (s.ctx c).func.isSome && p c

/-- The contexts with work in a unit of a cell. -/
def State.unitCtxs (s : State) (cell u : Nat) : List Nat :=
  let ofGroup (i : Nat) : Nat := (s.group i).id.ctx
  let here (p : Group → Bool) : List Nat := (s.groups.filter fun g => g.loc.cell == cell && (g.inSlot || g.ctl.status == .tracked) && p g).map (·.id.ctx)
  let l := match u with
    | 4 => (s.texs.filter fun x => (s.group x.group).loc.cell == cell).map fun x => ofGroup x.group
    | 5 => (s.traces.filter fun x => x.cell == cell).map fun x => ofGroup x.group
    | 6 =>
      (match s.cells[cell]? with | some c => c.index.map fun e => (s.block e.block).ctx | .none => [])
      ++ (s.atoms.filter fun a => a.serve == cell).map (fun a => ofGroup a.group)
      ++ (s.msgs.filter fun m => m.dest == cell).map (fun m => ofGroup m.group)
    | q => here fun g => g.loc.quad == q
  dedupNat l

/-- The contexts that a rung acts on. -/
def State.rungCtxs (s : State) (rung tgt : Nat) : List Nat :=
  match rung with
  | 2 => s.ctxsWhere (· == bits tgt 5 0)
  | 3 => s.unitCtxs (bits tgt 7 3) (bits tgt 2 0)
  | 4 => s.ctxsWhere fun c => (s.ctx c).part == tgt
  | _ => []

/-- A unit of a cell at its reset state. -/
def State.resetUnit (s : State) (cell u : Nat) : State :=
  match u with
  | 4 => s
  | 5 => s.modCell cell fun c => { c with ixu := ixuReset }
  | 6 => { s.modCell cell (fun c => { c with index := [] }) with
             windows := s.windows.map fun w => if w.cell == cell then { w with msgs := [] } else w }
  | q => s.modQuad cell q fun x => { x.zeroed with tlb := x.tlb }

/-- A rung starts: RUNG and RUNGTGT, vector 8; its contexts read resetting, their virtual functions get vector 2. The
device rung is carried out at once. -/
def State.rungStart (s : State) (rung tgt : Nat) (asked : Option Nat) (climbed : Bool) : State :=
  let s0 := s.raise 0 8
  if rung = 5 then (if s.hub.inHold then s else s0.deviceRung s.hub.trained)
  else
    let cs := s.rungCtxs rung tgt
    let s1 := s0.withHub fun h => { h with rung := rung, rungTgt := tgt, rungs := h.rungs ++ [⟨rung, tgt, s.hv, cs, asked, climbed⟩] }
    cs.foldl (fun s c =>
      let s1 := s.modCtx c fun x => { x with state := 5 }
      let f := s.ctxFunc c
      if f = 0 then s1 else s1.raise f 2) s1

/-- The contexts that a rung acts on as it completes: those of its start and those that have come under it since (03 R101). -/
def State.rungCtxsNow (s : State) (x : Rung) : List Nat := dedupNat (x.ctxs ++ s.rungCtxs x.rung x.tgt)

/-- What a rung does to its target. -/
def State.rungAct (s : State) (x : Rung) : State :=
  let s1 := (s.rungCtxsNow x).foldl (fun s c => s.killCtx c) s
  match x.rung with
  | 1 => s1.withHub fun h => { h with fns := modifyAt h.fns (bits x.tgt 6 2) fun f => { f with queue := f.queue.set (bits x.tgt 1 0) [] } }
  | 3 => s1.resetUnit (bits x.tgt 7 3) (bits x.tgt 2 0)
  | 4 => (List.range Config.cells).foldl (fun s c =>
      let qs := s.heldQuads x.tgt c
      if qs = [] then s
      else
        let s2 := qs.foldl (fun s q => s.modQuad c q Quad.zeroed) s
        let s3 := s2.modCell c fun y => { y with sems := y.sems.zipIdx.map fun z => if qs.contains (z.2 / 16) then 0#32 else z.1 }
        s3.setWindow (Window.empty x.tgt c)) s1
  | _ => s1

/-- A context still under another rung. -/
def State.stillReset (s : State) (c : Nat) : Bool := s.hub.rungs.any fun x => x.ctxs.contains c

/-- The RESET command that waited for a rung ends, or starts the rung it asked for (03 R102, R104). -/
def State.resetSettle (s : State) (x : Rung) : State :=
  match x.asked, s.hub.part.cmd with
  | some a, some v =>
    if s.hub.rungs.any (fun y => y.asked.isSome) then s
    else if x.rung < a then s.rungStart a (if a = 4 then cmdPart v else bits v 23 16) (some a) false
    else s.partEnd (if x.climbed then 7 else 0)
  | _, _ => s

/-- A bead self-test runs on a quadrant that a rung resets, which waits for it (06 R189). -/
def State.rungWaits (s : State) (x : Rung) : Bool :=
  (x.rung == 3 && decide (bits x.tgt 2 0 < 4) && (s.quadAt (bits x.tgt 7 3) (bits x.tgt 2 0)).testing)
  || (x.rung == 4 && (List.range Config.cells).any fun c => (s.heldQuads x.tgt c).any fun q => (s.quadAt c q).testing)

/-- The escalation timeout of a rung, in counts of 100 MHz. -/
def rungLimit (rung : Nat) : Option Nat := [.none, some 200000, some 800000, some 3200000, some 12800000].getD rung .none

/-- A rung's timeout has expired. -/
def State.rungOver (s : State) (x : Rung) : Bool := match rungLimit x.rung with
  | some t => decide (x.start + t ≤ s.hv)
  | .none => false

/-- Rung `k` ends: its action is done, its contexts read faulted, and each has a record naming the rung. -/
def State.rungEnd (s : State) (k : Nat) (x : Rung) : State :=
  let cs := s.rungCtxsNow x
  let late := cs.filter fun c => !x.ctxs.contains c && s.ctxFunc c != 0
  let s1 := ((late.foldl (fun s c => s.raise (s.ctxFunc c) 2) s).rungAct x).withHub fun h => { h with rungs := h.rungs.eraseIdx k }
  let s2 := cs.foldl (fun s c =>
    (s.modCtx c fun y => { y with state := if s.stillReset c then 5 else 4 }).ctxRecord
      { ErrRec.plain 0x40 c with detail := x.rung + 256 * x.tgt }) s1
  s2.recarvesEnd.resetSettle x

/-- RUNG_COMPLETE: rung `k` completes, where its timeout has not expired. -/
def execRungComplete (k : Nat) (s : State) : Host.Outcome State Fault Refusal :=
  .next (match s.hub.rungs[k]? with
    | .none => s
    | some x => if s.rungWaits x || s.rungOver x then s else s.rungEnd k x)

/-- The rungs that follow one that is abandoned. -/
def State.climb (s : State) (x : Rung) : List (Nat × Nat) :=
  match x.rung with
  | 1 => match s.hub.fns[bits x.tgt 6 2]? with
    | some f => ((f.queue.getD (bits x.tgt 1 0) []).take 1).map fun e => (2, e.1)
    | .none => []
  | 2 => ((List.range Config.cells).flatMap fun c => ((List.range 7).filter fun u => (s.unitCtxs c u).any x.ctxs.contains).map fun u => (3, 8 * c + u))
  | 3 =>
    let c := bits x.tgt 7 3
    let u := bits x.tgt 2 0
    ((List.range 16).filter fun p => if u < 4 then (s.heldQuads p c).contains u else !(s.heldQuads p c).isEmpty).map fun p => (4, p)
  | _ => [(5, 0xFF)]

/-- RUNG_TIMEOUT: rung `k` is abandoned when its timeout has expired, and the next rung is started on each target that
still holds its work; with no such target nothing of it is left, and it ends. -/
def execRungTimeout (k : Nat) (s : State) : Host.Outcome State Fault Refusal :=
  .next (match s.hub.rungs[k]? with
    | .none => s
    | some x =>
      if !s.rungOver x then s
      else
        let next := s.climb x
        if next.isEmpty then s.rungEnd k x
        else next.foldl (fun s y => s.rungStart y.1 y.2 x.asked true) (s.withHub fun h => { h with rungs := h.rungs.eraseIdx k }))

/-- A rung's fields are good (03 R89, R101). -/
def State.rungOk (s : State) (rung tgt : Nat) : Bool :=
  match rung with
  | 1 => decide (bits tgt 6 2 ≤ 16)
  | 2 => true
  | 3 => bits tgt 2 0 != 7 && s.hub.inService (bits tgt 7 3)
  | 4 => true
  | 5 => true
  | _ => false

/-- A running rung has a target under it: the same one, or one that it contains; or it is a lower rung on part of it (03 R104). -/
def State.sameTarget (s : State) (rung tgt : Nat) (x : Rung) : Bool :=
  (x.rung == rung && x.tgt == tgt)
  || (rung == 2 && decide (2 < x.rung) && x.ctxs.contains tgt)
  || (rung == 3 && x.rung == 4 && decide (bits tgt 2 0 < 4) && (s.heldQuads x.tgt (bits tgt 7 3)).contains (bits tgt 2 0))
  || (decide (x.rung < rung) && (s.rungCtxs rung tgt).any x.ctxs.contains)

/-- RESET: a rung is started, or, on a target already under one, waits for it. In D-HOLD the device rung is not carried out: only
the two resets leave it (02 R61). -/
def execRungReset (v fw : Nat) (s : State) : Host.Outcome State Fault Refusal :=
  .next (s.partWrite fw 4 v fun v s =>
    let rung := bits v 6 4
    let tgt := if rung = 4 then cmdPart v else bits v 23 16
    if !s.rungOk rung tgt then s.partEnd 2
    else if rung = 5 then (if s.hub.inHold then s.partEnd 6 else s.rungStart 5 tgt .none false)
    else if s.hub.rungs.any (s.sameTarget rung tgt) then
      let asks (x : Rung) : Rung := if s.sameTarget rung tgt x then { x with asked := some rung, climbed := false } else x
      s.withHub fun h => { h with rungs := h.rungs.map asks }
    else s.rungStart rung tgt (some rung) false)

/-! ### Functions (03 R84 to R86) -/

/-- FUNCTION_LEVEL_RESET: of a virtual function, its queues are emptied and the context rung starts on each of its
contexts in use; of the physical function, the device rung, which D-HOLD bars (02 R61). -/
def execFunctionLevelReset (f : Nat) (s : State) : Host.Outcome State Fault Refusal :=
  .next (if f = 0 then s.rungStart 5 0xFF .none false
    else if !s.present f then s
    else
      let used := (List.range 64).filter fun c => s.owns f c && s.inUse c
      let s1 := s.withHub fun h => { h with fns := h.fns.set f HostFn.reset, vfBar := h.vfBar.set (f - 1) 0 }
      used.foldl (fun s c => if (s.ctx c).state = 5 then s else s.rungStart 2 c .none false) s1)

/-- log2 of the size of a function's BAR 2: the one chosen, or the one its entry gives, at least 1 GiB (02 R40, 03 R84). -/
def State.barLog (s : State) (f : Nat) : Nat :=
  let b := if f = 0 then s.hub.pfBar else s.hub.vfBar.getD (f - 1) 0
  if b = 0 then max 30 (s.funcs.getD f ⟨false, false, 0, []⟩).apsize else b
/-- log2 of the largest BAR 2 that a function may choose. -/
def State.barMax (s : State) (f : Nat) : Nat := if f = 0 then 37 else (s.funcs.getD f ⟨false, false, 0, []⟩).apsize

/-- A configuration item as it reads (02 R40, R41; 03 R84; 01 R25, R26), numbered by the model: 0 the device identifier; 1 the
class code; 2 the size of BAR 0; 3 log2 of the size of BAR 2; 4 the MSI-X vectors, table and pending array; 5 function level
reset supported; 6, of the physical function, TotalVFs and NumVFs; 7 the vendor, subsystem vendor and subsystem identifiers, the
same in every function; 8 the kinds of BAR 0 and BAR 2, bit 0 for 64-bit and bit 1 for prefetchable; 9, of the physical function,
the link status: the rate and, from bit 4, the width; 10 the largest payload and read request. -/
def State.configItem (s : State) (f item : Nat) : List Byte :=
  match item with
  | 0 => leBytes 2 (if f = 0 then 0x0740 else 0x0741)
  | 1 => leBytes 3 0x038000
  | 2 => leBytes 4 (if f = 0 then 0x2000000 else 0x10000)
  | 3 => leBytes 1 (s.barLog f)
  | 4 => if f = 0 then leBytes 4 2048 ++ leBytes 4 0x50000 ++ leBytes 4 0x58000 else leBytes 4 64 ++ leBytes 4 0x8000 ++ leBytes 4 0x9000
  | 5 => leBytes 1 1
  | 6 => if f = 0 then leBytes 2 16 ++ leBytes 2 s.hub.numVfs else []
  | 7 => leBytes 2 Config.vendorId ++ leBytes 2 Config.subVendorId ++ leBytes 2 Config.subsystemId
  | 8 => leBytes 1 1 ++ leBytes 1 3
  | 9 => if f = 0 then leBytes 2 (s.hub.linkRate + 16 * s.hub.linkWidth) else []
  | 10 => leBytes 2 512 ++ leBytes 2 4096
  | _ => []

/-- A write to a configuration item: BAR 2 is resizable from 1 GiB, NumVFs is the host's; any other item is read-only. A NumVFs
above TotalVFs is taken as TotalVFs (the model's choice, assumption 37). -/
def Hub.configWrite (h : Hub) (f item v most : Nat) : Hub :=
  if item = 3 ∧ 30 ≤ v ∧ v ≤ most then
    (if f = 0 then { h with pfBar := v } else { h with vfBar := h.vfBar.set (f - 1) v })
  else if item = 6 ∧ f = 0 then { h with numVfs := min 16 v }
  else h

/-- VF_CONFIG_REQUEST: a configuration read or write at an item of a function's configuration space, which the hypervisor cores
answer for a virtual function. -/
def execVfConfigRequest (f item wr v : Nat) (s : State) : Host.Outcome State Fault Refusal :=
  .next (if !s.present f then s.withHub fun h => { h with reply := .unsupported }
    else if wr = 0 then s.withHub fun h => { h with reply := .data (s.configItem f item) }
    else s.withHub fun h => { h.configWrite f item v (s.barMax f) with reply := .data [] })

/-- The physical address of an offset of a function's memory aperture, where memory stands behind it (03 R85). -/
def State.aperture (s : State) (f off : Nat) : Option Nat :=
  if 2 ^ s.barLog f ≤ off then .none
  else if f = 0 then
    let pa := s.hub.pfApBase * unit1G + off
    if pa < dataEnd then some pa else .none
  else match s.stage2 f off with
    | .ok (pa, _) => some pa
    | .error _ => .none

/-- APERTURE_REQUEST: a host read, or a write of `v`, of `n` bytes at an offset of BAR 2. A read with no memory behind
any byte completes as completer abort, a write there is discarded. No request is longer than the link carries (01 R25). -/
def execApertureRequest (f off n wr v : Nat) (s : State) : Host.Outcome State Fault Refusal :=
  let pas := (List.range n).map fun i => s.aperture f (off + i)
  .next (if (if wr = 0 then 4096 else 512) < n then s
    else if !s.present f then s.withHub fun h => { h with reply := .unsupported }
    else if wr = 0 then
      s.withHub fun h => { h with reply := if pas.contains .none then .abort else .data (pas.flatMap fun a => s.homeRead (a.getD 0) 1) }
    else if pas.contains .none then s
    else match pas.head?.join with
      | some a => if pas == (List.range n).map (fun i => some (a + i)) then s.homeWrite a (leBytes n v)
        else (pas.zip (leBytes n v)).foldl (fun s x => s.homeWrite (x.1.getD 0) [x.2]) s
      | .none => s)

/-! ### Class registers (03 R98) -/

/-- A way owned by a class stands for one in service. -/
def Hub.waysOf (h : Hub) (v : Nat) : Nat := ((List.range 16).filter fun w => bit v w && (h.wayMap.getD w .none).isSome).foldl (fun a w => a + 2 ^ w) 0

/-- CLASS_WAYS_WRITE: refused where it would give a way to two classes. -/
def execClassWaysWrite (cls v fw : Nat) (s : State) : Host.Outcome State Fault Refusal :=
  .next (s.guarded fw fun s => s.onHub fun s => s.withHub fun h =>
    let w := h.waysOf (v % 2 ^ 16)
    if 4 ≤ cls then h
    else if h.classWays.zipIdx.any (fun x => x.2 != cls && x.1 &&& w != 0) then { h with qosRej := true }
    else { h with classWays := h.classWays.set cls w })

/-- CLASS_BW_WRITE: refused where the four shares would sum above 64. -/
def execClassBwWrite (cls v fw : Nat) (s : State) : Host.Outcome State Fault Refusal :=
  .next (s.guarded fw fun s => s.onHub fun s => s.withHub fun h =>
    let l := h.classBw.set cls (v % 128)
    if 4 ≤ cls then h
    else if 64 < l.foldl (· + ·) 0 then { h with qosRej := true }
    else { h with classBw := l })

end Sys2Proof.Machine
end

