-- ==== Sys2Proof/Machine/Display.lean ====
section
/-! DEFINITION. Display pipes, layers, coats and their comparison, quarantine, tell-tales, the windscreen latch and the
camera ports (04 R105 to R129; 01 R31, R32; 17 R481). -/
namespace Sys2Proof.Machine
open Sys2Proof

/-! ### Pipes and layer entries (04 R106 to R108) -/

def Hub.pipe (h : Hub) (n : Nat) : Pipe := h.pipes.getD n Pipe.reset
def State.modPipe (s : State) (n : Nat) (f : Pipe → Pipe) : State := s.withHub fun h => { h with pipes := modifyAt h.pipes n f }

def Pipe.vtotal (p : Pipe) : Nat := bits p.timingNow 63 48
def Pipe.vactive (p : Pipe) : Nat := bits p.timingNow 47 32
def Pipe.htotal (p : Pipe) : Nat := bits p.timingNow 31 16
def Pipe.hactive (p : Pipe) : Nat := bits p.timingNow 15 0

/-- A layer entry's fields. -/
structure Entry where
  en : Bool
  level : Nat
  single : Bool
  blend : Bool
  slots : Nat
  maxrep : Nat
  fmt : Nat
  pane1 : Nat
  pane2 : Nat
  x : Nat
  y : Nat
  w : Nat
  h : Nat
  pitch : Nat
  offset : Nat
  base1 : Nat
  base2 : Nat
  stride : Nat
  fill : Nat
  place : List Nat
  deriving DecidableEq, Repr

def Entry.parse (b : List Byte) : Entry :=
  let f := fieldAt b 0 4
  { en := bit f 0, level := bits f 3 1, single := bit f 4, blend := bit f 5, slots := bits f 7 6, maxrep := bits f 9 8
    fmt := fieldAt b 4 1, pane1 := fieldAt b 5 1, pane2 := fieldAt b 6 1, x := fieldAt b 8 2, y := fieldAt b 10 2
    w := fieldAt b 12 2, h := fieldAt b 14 2, pitch := fieldAt b 16 4, offset := fieldAt b 20 2, base1 := fieldAt b 24 8
    base2 := fieldAt b 32 8, stride := fieldAt b 40 8, fill := fieldAt b 48 4
    place := (List.range 8).map fun k => fieldAt b (64 + 8 * k) 8 }

def Pipe.entry (p : Pipe) (i : Nat) : Entry := Entry.parse (p.table.getD i [])

/-- Bytes of a pixel. -/
def Entry.pixBytes (e : Entry) : Nat := if e.fmt = 2 then 2 else 4

/-- A safety layer: one with an integrity level. -/
def Entry.safety (e : Entry) : Bool := e.en && decide (1 ≤ e.level)

/-- The safety layers of a pipe are forced onto tell-tales (02 R55, 01 R17). -/
def Hub.forces (h : Hub) (n : Nat) : Bool := bit h.forced n || !h.sysclk

/-- LAYER_STAT.TT as it reads: the layers on tell-tales, those forced among them. -/
def Hub.ttNow (h : Hub) (n : Nat) : Nat :=
  let p := h.pipe n
  if h.forces n then p.tt ||| ((List.range 16).filter fun i => (p.entry i).safety).foldl (fun a i => a + 2 ^ i) 0 else p.tt

/-- The physical address of a row of a coat's buffer. -/
def Entry.row (e : Entry) (num frame y : Nat) : Nat :=
  (if num = 1 then e.base1 else e.base2) + (if e.slots = 0 then 0 else frame % e.slots) * e.stride + y * e.pitch

/-! ### PIPE_CTL (04 R106, R107) -/

/-- A layer as scan-out begins: in frame 0 a layer without SINGLE is on tell-tales, one with it is transparent. -/
def Pipe.firstLayers (p : Pipe) : List Layer :=
  (List.range 16).map fun i => ⟨if (p.entry i).en && !(p.entry i).single then .tellTales else .nothing, .none, 0, []⟩

/-- The bits of the layers that satisfy a condition. -/
def layerBits (f : Nat → Bool) : Nat := ((List.range 16).filter f).foldl (fun a i => a + 2 ^ i) 0

/-- Scan-out begins. -/
def Pipe.start (p : Pipe) : Pipe :=
  let tt := layerBits fun i => (p.entry i).en && !(p.entry i).single
  { p with en := true, ending := false, timingNow := p.timing, khzNow := p.khz, lines := 0, tt := tt, rep := 0
           ttNext := tt, repNext := 0, layers := p.firstLayers, layersNext := p.firstLayers }

/-- The lanes and the rates in kb/s per lane of a port's link (01 R33). -/
def edpLanes : List Nat := [1, 2, 4]
def edpRates : List Nat := [1620000, 2160000, 2430000, 2700000, 3240000, 4320000, 5400000, 8100000]

/-- Bits of a pixel at an output depth. -/
def pixelBits (depth : Nat) : Nat := if depth = 0 then 18 else if depth = 1 then 24 else 30

/-- A link trained to a number of lanes and a rate, both by their places in the lists, carries a mode: eight bits of ten are
data (PRESUMED, the 8b/10b coding of eDP, assumption 42). -/
def linkCarries (link khz depth : Nat) : Bool :=
  decide (10 * (khz * pixelBits depth) ≤ 8 * (edpLanes.getD (link % 3) 1 * edpRates.getD (link / 3 % 8) 1620000))

/-- A mode can be shown on a link as it is trained. -/
def Pipe.modeOk (p : Pipe) (link : Nat) : Bool :=
  linkCarries link p.khz p.depth && decide (p.khz ≤ 600000) && decide (bits p.timing 15 0 < bits p.timing 31 16)
  && decide (bits p.timing 47 32 < bits p.timing 63 48)

/-- A write to PIPE_CTL; `link` is what the port's link is trained to. EN written 1 again while the frame that it stopped is still
scanned out begins scan-out anew at once (the model's choice, assumption 43). -/
def Pipe.write (p : Pipe) (v link : Nat) : Pipe :=
  let p1 := { p with depth := bits v 27 26, rej := p.rej && !bit v 28
                     pend := p.pend || bit v 30, pendBase := if bit v 30 then p.ltBase else p.pendBase }
  if bit v 31 && !p.en then (if p1.modeOk link then p1.start else { p1 with rej := true })
  else if !bit v 31 && p.en then { p1 with en := false, ending := true, run := p.run + 1 }
  else p1

/-- A write to a pipe's PIPE_CTL. -/
def State.pipeWrite (s : State) (n v link : Nat) : State := s.onHub fun s => s.modPipe n fun p => p.write v link

/-- PIPE_ENABLE: PIPE_CTL written with EN rising. -/
def execPipeEnable (n v link fw : Nat) (s : State) : Host.Outcome State Fault Refusal :=
  .next (s.guarded fw fun s => s.pipeWrite n (putBits v 31 31 1) link)
/-- PIPE_DISABLE: PIPE_CTL written with EN falling. -/
def execPipeDisable (n v fw : Nat) (s : State) : Host.Outcome State Fault Refusal :=
  .next (s.guarded fw fun s => s.pipeWrite n (putBits v 31 31 0) 0)
/-- LAYER_TABLE_COMMIT: PIPE_CTL written with COMMIT, which replaces a pending request. -/
def execLayerTableCommit (n v link fw : Nat) (s : State) : Host.Outcome State Fault Refusal :=
  .next (s.guarded fw fun s => s.pipeWrite n (putBits v 30 30 1) link)

/-! ### Taking a layer table (04 R109) -/

/-- An enabled entry keeps the rules of R108 and R109 under a pipe's mode. -/
def entryOk (p : Pipe) (b : List Byte) : Bool :=
  let e := Entry.parse b
  let f := fieldAt b 0 4
  decide (f < 1024) && decide (e.level ≤ 4) && decide (1 ≤ e.slots) && decide (e.fmt ≤ 2) && decide (e.pane1 ≤ 3)
  && (e.single || decide (e.pane2 ≤ 3)) && zeroAt b 7 1 && zeroAt b 22 2 && zeroAt b 0x34 12 && decide (e.fill < 2 ^ 24)
  && decide (0 < e.w ∧ 0 < e.h ∧ e.x + e.w ≤ p.hactive ∧ e.y + e.h ≤ p.vactive)
  && decide (e.pitch % 256 = 0 ∧ e.w * e.pixBytes ≤ e.pitch) && decide (e.base1 % 256 = 0)
  && decide (e.base2 % 256 = 0) && decide (e.stride % 4096 = 0)
  && (e.single || e.pane1 != e.pane2)
  && e.place.all (fun x => bits x 15 8 == 0 && (decide (bits x 7 0 ≤ 63) || bits x 7 0 == 0xFF))
  && (e.single || decide (2 * p.khzNow ≤ e.offset * p.htotal))

/-- SINGLE with an integrity level switches off a comparison that no one may switch off (02 R71). -/
def entryDenied (b : List Byte) : Bool := let e := Entry.parse b; e.single && decide (1 ≤ e.level)

/-- The layers of the next frame under a table taken after the decision: one that the old table did not enable is as in a first
frame, since no decision was made for it (04 R115). -/
def Pipe.lateLayers (p : Pipe) (rows : List (List Byte)) : List Layer :=
  let q := { p with table := rows }
  (List.range 16).map fun i =>
    if (p.entry i).en || p.lines % max 1 p.vtotal ≤ p.vactive then p.layersNext.getD i ⟨.nothing, .none, 0, []⟩
    else q.firstLayers.getD i ⟨.nothing, .none, 0, []⟩

/-- LAYER_COMMIT_TAKE: at the first blank line after it a pending commit is checked and taken for the next frame, or refused; on
pipe 3 the mesh is read with it. -/
def execLayerCommitTake (n : Nat) (s : State) : Host.Outcome State Fault Refusal :=
  let p := s.hub.pipe n
  .next (if !p.pend then s
    else
      let rows := (List.range 16).map fun i => s.homeRead (p.pendBase * 2048 + 128 * i) 128
      let bad := rows.any fun b => (Entry.parse b).en && !entryOk p b
      let denied := rows.filter entryDenied
      let s1 := denied.foldl (fun s _ => s.deny) s
      if bad || !denied.isEmpty then s1.modPipe n fun p => { p with pend := false, rej := true }
      else
        let s2 := s1.modPipe n fun p => { p with
          pend := false, table := rows, layersNext := p.lateLayers rows
          ttNext := layerBits fun i => ((p.lateLayers rows).getD i ⟨.nothing, .none, 0, []⟩).shows == .tellTales }
        if n = 3 then s2.withHub fun h => { h with mesh := s2.mem.slice (h.meshBase * 256) 31416 } else s2)

/-! ### Signatures (04 R113, R114) -/

/-- The signature tiles of a layer in row-major order: column and row. -/
def Entry.tiles (e : Entry) : List (Nat × Nat) :=
  (List.range ((e.h + 63) / 64)).flatMap fun j => (List.range ((e.w + 63) / 64)).map fun i => (i, j)

/-- The rows of a signature tile in a coat's buffer: an address and a length each. -/
def Entry.tileRows (e : Entry) (num frame : Nat) (t : Nat × Nat) : List (Nat × Nat) :=
  (List.range (min 64 (e.h - 64 * t.2))).map fun r =>
    (e.row num frame (64 * t.2 + r) + 64 * t.1 * e.pixBytes, min 64 (e.w - 64 * t.1) * e.pixBytes)

/-- The signature of a tile as memory stands. -/
def State.signTile (s : State) (e : Entry) (num frame : Nat) (t : Nat × Nat) : Nat :=
  crc32c ((e.tileRows num frame t).flatMap fun r => s.homeRead r.1 r.2)

/-- The first poison among some rows. -/
def State.rowPoison (s : State) (rows : List (Nat × Nat)) : Option (Nat × Poison) :=
  if s.memPoison.isEmpty then .none else rows.findSome? fun r => s.memPoison.hit r.1 r.2

/-- A consumption by a display pipe (05 R131). -/
def State.pipePoison (s : State) (c : Option Nat) (x : Nat × Poison) : State :=
  let r := { ErrRec.plain 0x1A (c.getD 0xFF) with flags := 1, paddr := x.1, source := x.2.source, unit := x.2.unit }
  match c with
  | some _ => s.ctxRecord r
  | .none => s.devRecord r

/-- The decision point of a coat's frame has passed: in the scan-out the coat belongs to, or with that scan-out. -/
def Pipe.passed (p : Pipe) (c : Coat) : Bool :=
  decide (c.run < p.run) || (p.en && (c.frame == 0 || decide ((c.frame - 1) * p.vtotal + p.vactive ≤ p.lines)))

/-- COAT_SIGN: the checker signs a coat that is done; one whose decision point has passed is discarded and counted late;
one with poison counts as unsigned. -/
def execCoatSign (k : Nat) (s : State) : Host.Outcome State Fault Refusal :=
  .next (match s.hub.coats[k]? with
    | .none => s
    | some c =>
      let p := s.hub.pipe c.pipe
      let e := p.entry c.layer
      let set (s : State) (f : Coat → Coat) : State := s.withHub fun h => { h with coats := modifyAt h.coats k f }
      if !c.done || c.signed || c.late then s
      else if p.passed c then
        (set s fun c => { c with late := true }).modPipe c.pipe fun p => { p with late := p.late ||| 2 ^ c.layer }
      else match s.rowPoison (e.tiles.flatMap (e.tileRows c.num c.frame)) with
        | some x => (set s fun c => { c with late := true }).pipePoison (some c.ctx) x
        | .none => set s fun c => { c with signed := true, sigs := e.tiles.map (s.signTile e c.num c.frame) })

/-! ### Quarantine (04 R121 to R123) -/

/-- QUARANTINE of a pane: the engine rung runs on every unit of its cells, and nothing more is placed there. -/
def State.quarantine (s : State) (p : Nat) : State :=
  match s.panes[p]? with
  | .none => s
  | some x =>
    if x.quarantined then s
    else
      let s1 := (s.modPane p fun x => { x with quarantined := true }).withHub fun h =>
        { h with quar := modifyAt h.quar p fun _ => ⟨false, false, false⟩ }
      ((s1.hub.paneCells p).flatMap fun c => (List.range 7).map fun u => 8 * c + u).foldl
        (fun s t => s.rungStart 3 t .none false) s1

def Hub.quarOf (h : Hub) (p : Nat) : Quar := h.quar.getD p ⟨false, false, false⟩

/-- The pane's self-test has not ended since its quarantine began. -/
def Quar.pending (q : Quar) : Bool := !q.passed && !q.failed

/-- PANE_SELF_TEST_START: every rung on the pane has completed, and it is in P-ON. -/
def execPaneSelfTestStart (p : Nat) (s : State) : Host.Outcome State Fault Refusal :=
  let q := s.hub.quarOf p
  .next (match s.panes[p]? with
    | some x =>
      if x.quarantined && x.power == PanePower.on && q.pending && !q.running
          && !(s.hub.rungs.any fun r => r.rung == 3 && bits r.tgt 7 3 / 8 == p) then
        s.withHub fun h => { h with quar := modifyAt h.quar p fun q => { q with running := true } }
      else s
    | .none => s)

/-- PANE_SELF_TEST_END: `fail` has a bit for each physical cell of the pane that failed. -/
def execPaneSelfTestEnd (p fail : Nat) (s : State) : Host.Outcome State Fault Refusal :=
  .next (if (s.hub.quarOf p).running then
      let cells := (s.hub.paneCells p).filterMap fun c => s.hub.cellMap.getD c .none
      let bad := cells.filter fun x => bit fail (x % 9)
      (s.withHub fun h => { h with
        quar := modifyAt h.quar p fun _ => ⟨false, bad.isEmpty, !bad.isEmpty⟩
        failCell := cells.foldl (fun f x => putBits f x x (boolNat (bad.contains x))) h.failCell }).raise 0 11
    else s)

/-- READMIT: QUAR_CMD written. -/
def execReadmit (v fw : Nat) (s : State) : Host.Outcome State Fault Refusal :=
  .next (s.guarded fw fun s => s.onHub fun s =>
    let s0 := s.withHub fun h => { h with quarRefused := h.quarRefused && !bit v 31 }
    ((List.range 4).filter (bit v)).foldl (fun s p => match s.panes[p]? with
      | some x =>
        if !x.quarantined then s
        else if (s.hub.quarOf p).running || (s.hub.quarOf p).pending then s.withHub fun h => { h with quarRefused := true }
        else s.modPane p fun x => { x with quarantined := false }
      | .none => s) s0)

/-! ### The frame decision (04 R115, R116) -/

/-- A layer stays on tell-tales until a frame passes: no repeat is left to it. -/
def noRepeat : Nat := 4

/-- The outcome of a layer for a frame: what it shows, and whether it is late. -/
structure Decision where
  layer : Layer
  late : Bool
  repeated : Bool
  unequal : Option (Nat × Nat)

/-- The coat of a frame of the scan-out that runs, once it is signed. -/
def Hub.signedCoat (h : Hub) (pipe layer frame num : Nat) : Option Coat :=
  h.coats.find? fun c => c.pipe == pipe && c.layer == layer && c.frame == frame && c.num == num
    && c.run == (h.pipe pipe).run && c.signed

/-- The first tile with unequal signatures. -/
def firstUnequal (e : Entry) (a b : List Nat) : Option (Nat × Nat) :=
  (e.tiles.zipIdx.find? fun x => a.getD x.2 0 != b.getD x.2 0).map (·.1)

/-- The rows of R115 in their order. -/
def Hub.decideLayer (h : Hub) (n i frame : Nat) : Decision :=
  let e := (h.pipe n).entry i
  let l := (h.pipe n).layers.getD i ⟨.nothing, .none, 0, []⟩
  let c1 := h.signedCoat n i frame 1
  let tell (l : Layer) : Layer := { l with shows := .tellTales }
  if !e.en then ⟨⟨.nothing, .none, 0, []⟩, false, false, .none⟩
  else if e.single then
    match c1 with
    | some c => ⟨⟨.frame frame, some frame, 0, c.sigs⟩, false, false, .none⟩
    | .none => match l.last with
      | some f => ⟨{ l with shows := .frame f }, false, true, .none⟩
      | .none => ⟨{ l with shows := .nothing }, false, false, .none⟩
  else match c1, h.signedCoat n i frame 2 with
    | some a, some b => match firstUnequal e a.sigs b.sigs with
      | .none => ⟨⟨.frame frame, some frame, 0, a.sigs⟩, false, false, .none⟩
      | some t => ⟨{ tell l with repeats := noRepeat }, false, false, some t⟩
    | _, _ => match l.last with
      | some f =>
        if 2 ≤ e.slots ∧ l.repeats < e.maxrep then ⟨{ l with shows := .frame f, repeats := l.repeats + 1 }, true, true, .none⟩
        else ⟨tell { l with repeats := noRepeat }, true, false, .none⟩
      | .none => ⟨tell l, true, false, .none⟩

/-- COAT_MISMATCH: the actions of R116. -/
def State.mismatch (s : State) (n i frame : Nat) (t : Nat × Nat) : State :=
  let pane (k : Nat) : List Nat := ((s.hub.signedCoat n i frame k).map (·.pane)).toList
  let s1 := (s.modPipe n fun p => { p with mismatch := p.mismatch ||| 2 ^ i }).withHub fun h => { h with coatfail := true }
  let s2 := (s1.assertFault.raise 0 9).devRecord
    { ErrRec.plain 0x41 0xFF with source := 9, unit := n, detail := n + 256 * i + 65536 * t.1 + 2 ^ 32 * t.2 }
  (pane 1 ++ pane 2).foldl (fun s p => s.quarantine p) s2

/-- FRAME_DECISION of a pipe at the decision point of its next frame. -/
def execFrameDecision (n : Nat) (s : State) : Host.Outcome State Fault Refusal :=
  let p := s.hub.pipe n
  let frame := p.lines / max 1 p.vtotal + 1
  .next (if !p.en then s
    else
      let ds := (List.range 16).map fun i => s.hub.decideLayer n i frame
      let bitsOf (f : Decision → Bool) : Nat := layerBits fun i => match ds[i]? with | some d => f d | .none => false
      let s1 := s.modPipe n fun p => { p with
        layersNext := ds.map (·.layer), late := p.late ||| bitsOf (·.late), repNext := bitsOf (·.repeated)
        ttNext := bitsOf fun d => d.layer.shows == .tellTales }
      let s2 := if ds.any (·.late) then s1.raise 0 10 else s1
      ds.zipIdx.foldl (fun s x => match x.1.unequal with
        | some t => s.mismatch n x.2 frame t
        | .none => s) s2)

/-! ### Scan-out (04 R117) -/

/-- A layer after a scan difference in a frame: on tell-tales, with no repeat left; another frame that it is to show next stays. -/
def Layer.differs (l : Layer) (frame : Nat) : Layer :=
  if l.shows == .frame frame then { l with shows := .tellTales, repeats := noRepeat } else { l with repeats := noRepeat }

/-- The layers of the current and of the next frame after a scan difference on one of them: a next frame that passed is shown. -/
def Pipe.differs (p : Pipe) (i frame : Nat) : Pipe :=
  let next := p.layersNext.getD i ⟨.nothing, .none, 0, []⟩
  let stays := match next.shows with | .frame g => g != frame | _ => false
  { p with
    diff := p.diff ||| 2 ^ i, tt := p.tt ||| 2 ^ i, layers := modifyAt p.layers i fun l => l.differs frame
    layersNext := if stays then p.layersNext else modifyAt p.layersNext i fun l => l.differs frame
    ttNext := if stays || next.shows == .nothing then p.ttNext else p.ttNext ||| 2 ^ i
    repNext := if stays then p.repNext else p.repNext - (p.repNext &&& 2 ^ i) }

/-- SCANOUT_TILE_CHECK: tile `t` of layer `i` of pipe `n`, in row-major order, has been read for scan-out. -/
def execScanoutTileCheck (n i t : Nat) (s : State) : Host.Outcome State Fault Refusal :=
  let e := (s.hub.pipe n).entry i
  let l := (s.hub.pipe n).layers.getD i ⟨.nothing, .none, 0, []⟩
  .next (match l.shows, e.tiles[t]? with
    | .frame f, some tile =>
      let met := s.rowPoison (e.tileRows 1 f tile)
      let differs := met.isSome || (!e.single && s.signTile e 1 f tile != l.sigs.getD t 0)
      let s1 := match met with
        | some x => s.pipePoison ((s.hub.signedCoat n i f 1).map (·.ctx)) x
        | .none => s
      if !differs then s1
      else
        let s2 := (s1.modPipe n fun p => p.differs i f).withHub fun h => { h with coatfail := true }
        (s2.assertFault.raise 0 9).devRecord
          { ErrRec.plain 0x42 0xFF with source := 9, unit := n, detail := n + 256 * i + 65536 * tile.1 + 2 ^ 32 * tile.2 }
    | _, _ => s)

/-- The tiles of a pipe's layers whose last line has just been read as line `l` of the frame begins (04 R117). -/
def Pipe.readTiles (p : Pipe) (l : Nat) : List (Nat × Nat) :=
  (List.range 16).flatMap fun i =>
    let e := p.entry i
    match (p.layers.getD i ⟨.nothing, .none, 0, []⟩).shows with
    | .frame _ => (e.tiles.zipIdx.filter fun x => e.y + min e.h (64 * (x.1.2 + 1)) == l).map fun x => (i, x.2)
    | _ => []

/-! ### Tell-tales (04 R119, R120) -/

/-- The checks of a tell-tale image. -/
def imageOk (b : List Byte) : Bool :=
  let w := fieldAt b 2 2
  let h := fieldAt b 4 2
  fieldAt b 0 2 == 1 && decide (1 ≤ w ∧ w ≤ 256 ∧ 1 ≤ h ∧ h ≤ 256) && zeroAt b 6 54
  && fieldAt b 0x3C 4 == crc32c (b.take 0x3C ++ (b.drop 0x40).take (64 + (w + 1) / 2 * h))

/-- A slot is placed by a layer that is on tell-tales now. -/
def Hub.slotUsed (h : Hub) (slot : Nat) : Bool :=
  (List.range 4).any fun n => (List.range 16).any fun i =>
    bit (h.ttNow n) i && ((h.pipe n).entry i).place.any fun x => bits x 7 0 == slot

/-- TELLTALE_LOAD: TT_CMD written. -/
def execTelltaleLoad (v fw : Nat) (s : State) : Host.Outcome State Fault Refusal :=
  .next (s.guarded fw fun s => s.onHub fun s =>
    if s.hub.ttCmd.isSome then s
    else
      let slot := bits v 5 0
      let a := s.hub.ttSrc * 256
      let b := s.homeRead a 0xA000
      let why := (if s.hub.slotUsed slot then [1] else []) ++ (if s.hub.saving then [2] else [])
        ++ (if imageOk b && (s.memPoison.hit a 0xA000).isNone && decide (a + 0xA000 ≤ dataEnd) then [] else [3])
      if why.isEmpty then s.withHub fun h => { h with ttCmd := some (slot, b) }
      else
        let (r, s1) := s.pick why
        s1.withHub fun h => { h with ttResult := r })

/-- TELLTALE_COPY_COMPLETE. -/
def execTelltaleCopyComplete (s : State) : Host.Outcome State Fault Refusal :=
  .next (match s.hub.ttCmd with
    | some (slot, b) => s.withHub fun h => { h with keep := h.keep.put (0x580000 + 0xA000 * slot) b, ttCmd := .none, ttResult := 0 }
    | .none => s)

/-! ### The windscreen latch (04 R124, R125; 17 R481) -/

/-- A word of the pending set; LATCH 6 is reserved, LATCH 7 holds SEQ and closes the set. -/
def Hub.latchWord (h : Hub) (w : Nat) (x : Word) : Hub :=
  if w = 6 ∨ 7 < w then h
  else if w = 7 then { h with latch := h.latch.set 7 (x &&& 0xFFFF#32), latchFull := true }
  else { h with latch := h.latch.set w x }

/-- LATCH_WRITE by the host. -/
def execLatchWrite (w v fw : Nat) (s : State) : Host.Outcome State Fault Refusal :=
  .next (s.guarded fw fun s => s.onHub fun s => s.withHub fun h => h.latchWord w (BitVec.ofNat 32 v))

/-- HUD_LATCH_TAKE: the completed set is taken for the next frame, or the set in use is kept and counted stale. -/
def execHudLatchTake (s : State) : Host.Outcome State Fault Refusal :=
  .next (s.withHub fun h =>
    if h.latchFull then { h with latchNext := h.latch, latchFull := false }
    else { h with stale := min 0xFFFF (h.stale + 1) })

/-- OM.LATCH. -/
def execOmLatch (a : BitVec 7) (w : BitVec 3) (s : State) : Host.Outcome State Fault Refusal :=
  runIsa ⟨.gfx, 1, [.cond (w != 6#3) 6, .vsrc a.toNat false]⟩ (fun s _ g =>
    let s1 := s.commitEarly g.id.block
    .done (if s1.hub.hudCtxEn && s1.hub.hudCtx == g.id.ctx then
        s1.withHub fun h => h.latchWord w.toNat (g.opLane a.toNat 0#32 g.firstAct)
      else s1)) s

/-! ### What a port sends for a pixel (04 R110, R118, R126) -/

/-- A rational rounded to an integer, ties to even. -/
def roundRat (q : ℚ) : Int :=
  let f := q.floor
  if q - f < 1 / 2 then f else if 1 / 2 < q - f then f + 1 else if f % 2 = 0 then f else f + 1

/-- Rounded to 12 fraction bits. -/
def round12 (q : ℚ) : ℚ := roundRat (q * 4096) / 4096

/-- The components and alpha of a pixel's bytes as fractions. -/
def pixelOf (fmt x : Nat) : List ℚ × ℚ :=
  match fmt with
  | 0 => ([bits x 23 16, bits x 15 8, bits x 7 0].map fun (c : Nat) => (c : ℚ) / 255, (bits x 31 24 : ℚ) / 255)
  | 1 => ([bits x 29 20, bits x 19 10, bits x 9 0].map fun (c : Nat) => (c : ℚ) / 1023, (bits x 31 30 : ℚ) / 3)
  | _ => ([(bits x 15 11 : ℚ) / 31, (bits x 10 5 : ℚ) / 63, (bits x 4 0 : ℚ) / 31], 1)

/-- A 24-bit colour's components. -/
def rgbOf (x : Nat) : List Nat := [bits x 23 16, bits x 15 8, bits x 7 0]

/-- The largest component value of an output depth. -/
def depthMax (d : Nat) : Nat := if d = 0 then 63 else if d = 1 then 255 else 1023

/-- The pixel composed from the background and the layers, but for the tell-tales. -/
def State.composed (s : State) (n x y : Nat) : List ℚ :=
  let p := s.hub.pipe n
  (List.range 16).foldl (fun (c : List ℚ) i =>
    let e := p.entry i
    if !(e.en && decide (e.x ≤ x ∧ x < e.x + e.w ∧ e.y ≤ y ∧ y < e.y + e.h)) || bit (s.hub.ttNow n) i then c
    else match (p.layers.getD i ⟨.nothing, .none, 0, []⟩).shows with
      | .frame f =>
        let (q, a) := pixelOf e.fmt (leValue (s.homeRead (e.row 1 f (y - e.y) + (x - e.x) * e.pixBytes) e.pixBytes))
        if e.blend then (c.zip q).map fun z => round12 (z.2 + z.1 * (1 - a)) else q.map round12
      | _ => c) ((rgbOf p.bg).map fun v => (v : ℚ) / 255)

/-- A tell-tale image drawn over 8-bit components, at a pixel relative to the layer. -/
def Hub.drawPlace (h : Hub) (place x y : Nat) (under : List Nat) : List Nat :=
  let slot := bits place 7 0
  let dx := x - bits place 31 16
  let dy := y - bits place 47 32
  let b := h.keep.bytes (0x580000 + 0xA000 * slot) 0xA000
  if slot = 0xFF ∨ x < bits place 31 16 ∨ y < bits place 47 32 then under
  else if imageOk b then
    let w := fieldAt b 2 2
    if dx < w ∧ dy < fieldAt b 4 2 then
      let two := fieldAt b (0x80 + dy * ((w + 1) / 2) + dx / 2) 1
      let c := fieldAt b (0x40 + 4 * (if dx % 2 = 0 then two % 16 else two / 16)) 4
      let a := bits c 31 24
      ((rgbOf c).zip under).map fun z => (2 * (a * z.1 + (255 - a) * z.2) + 255) / 510
    else under
  else if dx < 32 ∧ dy < 32 then
    ((pixelOf 2 (bits place 63 48)).1).map fun (q : ℚ) => (roundRat (q * 255)).toNat
  else under

/-- The pixel with the tell-tales drawn, at the output depth. -/
def State.withTellTales (s : State) (n x y : Nat) : List Nat :=
  let p := s.hub.pipe n
  let m := depthMax p.depth
  let plain := (s.composed n x y).map fun q => (roundRat (q * m)).toNat
  (List.range 16).foldl (fun (c : List Nat) i =>
    let e := p.entry i
    if bit (s.hub.ttNow n) i && decide (e.x ≤ x ∧ x < e.x + e.w ∧ e.y ≤ y ∧ y < e.y + e.h) then
      (e.place.foldl (fun u k => s.hub.drawPlace k (x - e.x) (y - e.y) u) (rgbOf e.fill)).map fun (v : Nat) => (roundRat ((v : ℚ) * m / 255)).toNat
    else c) plain

/-- The value of a finite FP32 word. -/
def ratOf (w : Nat) : Option ℚ := match fp32.decode w with
  | .fin neg m e => some ((if neg then -1 else 1) * (m : ℚ) * (2 : ℚ) ^ e)
  | _ => .none

/-- A mesh point's coordinate, formed from the planes and the latched set (04 R126). -/
def Hub.meshPoint (h : Hub) (i j coord : Nat) : Nat :=
  let plane (k : Nat) : Nat := h.mesh.value ((k * 561 + j * 33 + i) * 8 + 4 * coord) 4
  (List.range 6).foldl (fun pt k => (fFma fp32 false (h.latchUse.getD k 0#32).toNat (plane (k + 1)) pt).1) (plane 0)

/-- A weighted mean of four values by two fractions. -/
def bilinear (a b c d fx fy : ℚ) : ℚ := (a * (1 - fx) + b * fx) * (1 - fy) + (c * (1 - fx) + d * fx) * fy

/-- The source position of an output pixel, rounded to FP32; none for black. -/
def Hub.source (h : Hub) (x y coord : Nat) : Option ℚ :=
  let p := h.pipe 3
  let u : ℚ := (x : ℚ) * 32 / max 1 (p.hactive - 1)
  let v : ℚ := (y : ℚ) * 16 / max 1 (p.vactive - 1)
  let i := min 31 u.floor.toNat
  let j := min 15 v.floor.toNat
  let at_ (a b : Nat) : Option ℚ := ratOf (h.meshPoint a b coord)
  match at_ i j, at_ (i + 1) j, at_ i (j + 1), at_ (i + 1) (j + 1) with
  | some a, some b, some c, some d =>
    let q := bilinear a b c d (u - i) (v - j)
    if q = 0 then some 0 else ratOf (fp32.roundNum .rne false (decide (q < 0)) q.num.natAbs q.den 0).1
  | _, _, _, _ => .none

/-- WHAT A PORT SENDS for a pixel of the current frame: on pipe 3 with the correction on, the composed image sampled at
the source position. -/
def State.pixelOut (s : State) (n x y : Nat) : List Nat :=
  let p := s.hub.pipe n
  if n ≠ 3 ∨ s.hub.hudEn = false then s.withTellTales n x y
  else match s.hub.source x y 0, s.hub.source x y 1 with
    | some u, some v =>
      if u < 0 ∨ v < 0 ∨ ((p.hactive : ℚ) - 1 < u) ∨ ((p.vactive : ℚ) - 1 < v) then [0, 0, 0]
      else
        let i := u.floor.toNat
        let j := v.floor.toNat
        let px (a b : Nat) : List Nat := s.withTellTales n (min a (p.hactive - 1)) (min b (p.vactive - 1))
        (List.range 3).map fun k =>
          let c (a b : Nat) : ℚ := ((px a b).getD k 0 : ℚ)
          (roundRat (bilinear (c i j) (c (i + 1) j) (c i (j + 1)) (c (i + 1) (j + 1)) (u - i) (v - j))).toNat
    | _, _ => [0, 0, 0]

/-! ### Cameras (04 R127 to R129; 01 R31, R32) -/

def Hub.cam (h : Hub) (i : Nat) : CamStream := h.cams.getD i CamStream.reset
def State.modCam (s : State) (i : Nat) (f : CamStream → CamStream) : State := s.withHub fun h => { h with cams := modifyAt h.cams i f }

def CamStream.en (c : CamStream) : Bool := bit c.ctl 31
def CamStream.owner (c : CamStream) : Nat := bits c.ctl 30 26
def CamStream.nbuf (c : CamStream) : Nat := bits c.ctl 15 12

/-- The CSI-2 codes of the data types that 01 R31 lists: embedded data, YUV422 8-bit, RGB888, RAW8, RAW10, RAW12. -/
def camTypes : List Nat := [0x12, 0x1E, 0x24, 0x2A, 0x2B, 0x2C]

/-- CAMERA_STREAM_WRITE: the control word of a stream, 4 times the port plus the stream. -/
def execCameraStreamWrite (i v fw : Nat) (s : State) : Host.Outcome State Fault Refusal :=
  .next (s.guarded fw fun s => s.onHub fun s => s.modCam i fun c =>
    let w := v % 2 ^ 32 / 4096 * 4096
    let bad := decide (bits w 15 12 < 2) || !camTypes.contains (bits w 21 16)
    let ctl := if bit w 31 && bad then w - 2 ^ 31 else w
    if bit ctl 31 then (if c.en then { c with ctl := ctl } else { c with ctl := ctl, count := 0, next := 0, frame := .none, refused := false })
    else { c with ctl := ctl, frame := .none })

/-- The guest-physical address of the buffer of the frame in progress. -/
def CamStream.buffer (c : CamStream) : Nat := c.base * 256 + (if c.nbuf = 0 then 0 else c.count % c.nbuf) * c.stride

/-- A port's write into its owner's space, byte pages by the stage-2 mapping; none where it is refused. -/
def State.camWrite (s : State) (owner gpa : Nat) (b : List Byte) : Option State :=
  let pas := (List.range b.length).map fun i => match s.stage2 owner (gpa + i) with
    | .ok (pa, _) => some pa
    | .error _ => .none
  if pas.contains .none then .none
  else match pas.head?.join with
    | .none => some s
    | some a => some (if pas == (List.range b.length).map (fun i => some (a + i)) then s.homeWrite a b
        else (pas.zip b).foldl (fun s x => s.homeWrite (x.1.getD 0) [x.2]) s)

/-- The streams of a receive port that take the packets of a virtual channel and, for a line, of a data type (04 R127); a packet
that none takes is discarded. -/
def Hub.takers (h : Hub) (ch : CamChannel) (dt : Option Nat) : List Nat :=
  ((List.range 4).map (4 * ch.port + ·)).filter fun i =>
    (h.cam i).en && bits (h.cam i).ctl 25 22 == ch.vc && (match dt with | some d => bits (h.cam i).ctl 21 16 == d | .none => true)

/-- A frame starts on a stream. -/
def State.camStart (s : State) (i : Nat) : State :=
  let c := s.hub.cam i
  match s.camWrite c.owner c.buffer (leBytes 4 0) with
  | some s1 => s1.modCam i fun c => { c with frame := some (s.hv, 0, 0), refused := false }
  | .none => s.modCam i fun c => { c with frame := some (s.hv, 0, 0), refused := true }

/-- CAMERA_FRAME_START: the frame-start packet of a virtual channel, for every stream of the port that takes it. -/
def execCameraFrameStart (ch : CamChannel) (s : State) : Host.Outcome State Fault Refusal :=
  .next ((s.hub.takers ch .none).foldl State.camStart s)

/-- A line of `n` bytes `v`, with a payload CRC error or not, lands in a stream's buffer. -/
def State.camLine (s : State) (n v crc i : Nat) : State :=
  let c := s.hub.cam i
  match c.frame with
  | .none => s
  | some (t, lines, flags) =>
    let off := 0x100 + lines * c.pitch
    let f1 := flags ||| (if crc = 0 then 0 else 1)
    let put (s : State) (f : Nat) (r : Bool) : State := s.modCam i fun c => { c with frame := some (t, lines + 1, f), refused := c.refused || r }
    if c.stride < off + c.pitch then put s (f1 ||| 4) false
    else
      let f2 := if c.pitch < n then f1 ||| 2 else f1
      match s.camWrite c.owner (c.buffer + off) (leBytes (min n c.pitch) v) with
      | some s1 => put s1 f2 false
      | .none => put s f2 true

/-- CAMERA_LINE: a long packet of a virtual channel and a data type. -/
def execCameraLine (pk : CamPacket) (n v crc : Nat) (s : State) : Host.Outcome State Fault Refusal :=
  .next ((s.hub.takers pk.channel (some pk.dt)).foldl (State.camLine · n v crc) s)

/-- The record of a frame; the bytes that R128 does not name are free. -/
def State.camRecord (s : State) (c : CamStream) (t lines flags : Nat) : List Byte × State :=
  let seq := (c.count + 1) % 2 ^ 32
  let (a, s1) := s.free
  let (b, s2) := s1.free
  (leBytes 4 seq ++ leBytes 4 lines ++ leBytes 4 flags ++ leBytes 4 a ++ leBytes 8 t ++ leBytes 8 s.hv ++ leBytes 28 b ++ leBytes 4 seq, s2)

/-- A frame ends on a stream: the record, then the semaphore, then the interrupt; a frame whose writes were refused is discarded
and counted. -/
def State.camEnd (s : State) (i : Nat) : State :=
  let c := s.hub.cam i
  let drop (s : State) : State := s.modCam i fun c => { c with frame := .none, refused := false, drops := min 0xFFFF (c.drops + 1) }
  match c.frame with
  | .none => s
  | some (t, lines, flags) =>
    if c.refused then drop s
    else
      let (b, s1) := s.camRecord c t lines flags
      match s1.camWrite c.owner c.buffer b with
      | .none => drop s
      | some s2 =>
        let s3 := s2.modCam i fun c =>
          { c with frame := .none, count := c.count + 1, frames := (c.frames + 1) % 4096
                   next := if c.nbuf = 0 then 0 else (c.count + 1) % c.nbuf }
        let cell := bits c.sem 30 26
        let n := bits c.sem 25 20
        let s4 := if bit c.sem 31 then s3.setSem cell n (s3.sem cell n + 1#32) else s3
        s4.raise c.owner (if c.owner = 0 then 16 + i / 4 else 3 + i / 4)

/-- CAMERA_FRAME_END: the frame-end packet of a virtual channel. -/
def execCameraFrameEnd (ch : CamChannel) (s : State) : Host.Outcome State Fault Refusal :=
  .next ((s.hub.takers ch .none).foldl State.camEnd s)

/-- CAMERA_TX_FRAME: sent where the port is armed, otherwise discarded and counted. -/
def execCameraTxFrame (port : Nat) (s : State) : Host.Outcome State Fault Refusal :=
  .next (if bit s.hub.armTx port then s else s.withHub fun h => { h with txDrops := modifyAt h.txDrops port (· + 1) })

end Sys2Proof.Machine
end

