-- ==== Sys2Proof/Machine/Reliab.lean ====
section
/-! DEFINITION. The device queue, spares, seam lanes, corrected errors, ageing monitors and bead self-tests (05 R136,
R148 to R154; 01 R37 to R39; 06 R189). -/
namespace Sys2Proof.Machine
open Sys2Proof

/-- DEVQ_ENABLE: DEVQ_CTL written; a rise of EN, which an illegal LOG bars, restarts SEQ and HEAD. -/
def Hub.devqWrite (h : Hub) (v : Nat) : Hub :=
  let log := bits v 19 16
  let en := bit v 31 && !decide (1 ≤ log ∧ log ≤ 5)
  let rise := en && !h.devqEn
  { h with devqEn := en, devqLog := log, devqLost := h.devqLost - (h.devqLost &&& v % 65536)
           devqHead := if rise then 0 else h.devqHead, devqSeq := if rise then 1 else h.devqSeq }
def execDevqEnable (v fw : Nat) (s : State) : Host.Outcome State Fault Refusal :=
  .next (s.guarded fw fun s => s.onHub fun s => s.withHub fun h => h.devqWrite (putBits v 31 31 1))

/-! ### Spares (05 R148 to R150) -/

/-- A spare-event record: its kind, the old and new numbers, sub-core and lane. -/
def State.spareRecord (s : State) (kind old new sub lane : Nat) : State :=
  s.devRecord { ErrRec.plain 0x44 0xFF with detail := kind + 256 * old + 2 ^ 16 * new + 2 ^ 24 * sub + 2 ^ 32 * lane }

/-- The command in progress ends, and vector 13 is raised. -/
def State.spareEnd (s : State) (r : Nat) : State := (s.withHub fun h => { h with spare := h.spare.finish r }).raise 0 13

/-- SPARE_CMD written with an operation. -/
def State.spareWrite (s : State) (fw op v : Nat) (run : Nat → State → State) : State :=
  s.guarded fw fun s =>
    let v := putBits v 31 28 op
    let s1 := s.withHub fun h => { h with spare := h.spare.write v (bits v 3 0) }
    if s.hub.dstate = 2 then s
    else if s.hub.spare.cmd.isSome then s1
    else if s.hub.boot ≠ 4 then s1.spareEnd 6
    else run v s1

def spareTarget (v : Nat) : Nat := bits v 27 20
def spareSub (v : Nat) : Nat := bits v 19 15
def spareLane (v : Nat) : Nat := bits v 14 11

/-- LANE: the command starts, where its cell is in service and the spare lane is free. -/
def execSpareLane (v fw : Nat) (s : State) : Host.Outcome State Fault Refusal :=
  .next (s.spareWrite fw 0 v fun v s =>
    if 36 ≤ spareTarget v then s.spareEnd 3
    else if (s.hub.logical (spareTarget v)).isNone then s.spareEnd 4
    else if s.hub.laneSpares.contains (spareTarget v, spareSub v) then s.spareEnd 1
    else s)

/-- A pane of a physical cell has a group resident. -/
def State.paneBusy (s : State) (phys : Nat) : Bool :=
  (s.hub.paneCells (phys / 9)).any fun c => s.occupied c || s.groups.any fun g => g.loc.cell == c && g.ctl.status == .tracked

/-- CELL: the command starts, where its cell is in service and the pane is quiet. -/
def execSpareCell (v fw : Nat) (s : State) : Host.Outcome State Fault Refusal :=
  .next (s.spareWrite fw 1 v fun v s =>
    if 36 ≤ spareTarget v then s.spareEnd 3
    else if (s.hub.logical (spareTarget v)).isNone then s.spareEnd 4
    else if s.paneBusy (spareTarget v) then s.spareEnd 2
    else s)

/-- WAY: the command starts, where its way is in service. -/
def execSpareWay (v fw : Nat) (s : State) : Host.Outcome State Fault Refusal :=
  .next (s.spareWrite fw 3 v fun v s =>
    if 18 ≤ spareTarget v then s.spareEnd 3
    else if !s.hub.wayMap.contains (some (spareTarget v)) then s.spareEnd 4
    else s)

/-- The trained channels that are neither in service nor retired. -/
def Hub.spareChannels (h : Hub) : List Nat :=
  (List.range 26).filter fun c => bit h.trained c && !h.chanMap.contains (some c) && !h.chansGone.contains c

/-- CHANNEL: the migration starts, to a trained spare. -/
def execSpareChannel (v fw : Nat) (s : State) : Host.Outcome State Fault Refusal :=
  .next (s.spareWrite fw 2 v fun v s =>
    let c := spareTarget v
    let common := 64 - s.hub.classBw.foldl (· + ·) 0
    let why := (if 26 ≤ c then [3] else if s.hub.chanMap.contains (some c) then [] else [4])
      ++ (if common < 4 then [3] else []) ++ (if s.hub.spareChannels.isEmpty then [1] else [])
    if why.isEmpty then
      let (x, s1) := s.pick s.hub.spareChannels
      s1.withHub fun h => { h with migrating := some (c, x), migrateDone := 0 }
    else
      let (r, s1) := s.pick (dedupNat why)
      s1.spareEnd r)

/-- CHANNEL_MIGRATION_COMPLETE: the logical channel is remapped to the spare in one step; the old one leaves service. -/
def execChannelMigrationComplete (s : State) : Host.Outcome State Fault Refusal :=
  .next (match s.hub.migrating with
    | .none => s
    | some (old, new) => (s.withHub fun h =>
        { h with chanMap := h.chanMap.map fun x => if x = some old then some new else x
                 chansGone := old :: h.chansGone, migrating := .none
                 migrateDone := Config.dramGroups * 512 / 65536 }).spareRecord 2 old new 0 0)

/-- UNFENCE: the self-tests are rerun, on the quadrants of a cell in service. -/
def execUnfence (v fw : Nat) (s : State) : Host.Outcome State Fault Refusal :=
  .next (s.spareWrite fw 4 v fun v s =>
    if 32 ≤ spareTarget v then s.spareEnd 3
    else if !s.hub.inService (spareTarget v) then s.spareEnd 4
    else s)

/-- A physical cell is retired (00 R6, 03 R77): the pane's cells take new numbers in ascending physical order, each
with its state; the spare, zeroed and in C-ACT at level 0, takes the retired cell's quadrants. -/
def State.retireCell (s : State) (phys : Nat) : State :=
  let p := phys / 9
  let h := s.hub
  let old := (h.logical phys).getD 0
  let s0 := s.cleanCell old
  let spare := ((List.range 9).map (9 * p + ·)).find? fun x => !h.cellMap.contains (some x) && !h.retired.contains x
  let map := renumberCells fun x => (h.cellMap.contains (some x) && x != phys) || spare == some x
  let gone := (s0.cells.getD old Cell.reset).quads
  let fresh : Cell := { Cell.reset with
    power := .act
    quads := gone.map fun q => { Quad.reset with owned := q.owned, owner := q.owner, shrinkPending := q.shrinkPending } }
  let cellAt (l : Nat) : Cell :=
    if l / 8 ≠ p then s0.cells.getD l Cell.reset
    else match map.getD l .none with
      | .none => Cell.reset
      | some x => if spare = some x then fresh else s0.cells.getD ((h.logical x).getD l) Cell.reset
  let newNum (l : Nat) : Option Nat := match h.cellMap.getD l .none with
    | some x => if x = phys then .none else findIdx' (· == some x) map
    | .none => .none
  { s0 with
    cells := (List.range 32).map cellAt
    windows := s0.windows.filterMap fun w => if w.cell / 8 ≠ p then some w else (newNum w.cell).map fun l => { w with cell := l }
    hub := { h with cellMap := map, retired := phys :: h.retired } }

/-- A self-test of a quadrant has failed: the record, and the quadrant fenced, its groups evicted as by a shrink (05 R154). -/
def State.fence (s : State) (c q : Nat) : State :=
  let bs := dedupNat ((s.groups.filter fun g => g.loc.cell == c && g.loc.quad == q && g.inSlot).map (·.id.block))
  let was := (s.quadAt c q).fenced
  let s1 := (s.modQuad c q fun x => { x with fenced := true }).devRecord { ErrRec.plain 0x46 0xFF with detail := c + 256 * q }
  if was || bs.isEmpty then s1 else s1.recarveBegin (s.quadAt c q).owner c [q] false true bs

/-- What a command that has run its time does; `fail` has a bit for each quadrant that fails its test. -/
def State.spareRun (s : State) (v fail : Nat) : Nat × State :=
  let t := spareTarget v
  match bits v 31 28 with
  | 0 =>
    let (new, s1) := s.pick [t, 0xFF]
    (0, (s1.withHub fun h => { h with laneSpares := (t, spareSub v) :: h.laneSpares }).spareRecord 0 t new (spareSub v) (spareLane v))
  | 1 =>
    if s.paneBusy t then (2, s)
    else
      let s1 := s.retireCell t
      match (s1.hub.cellMap.filterMap id).find? fun x => !s.hub.cellMap.contains (some x) with
      | some x => (0, s1.spareRecord 1 t x 0 0)
      | .none => (1, s1)
  | 3 =>
    let spare := (List.range 18).find? fun w => !s.hub.wayMap.contains (some w) && !s.hub.waysGone.contains w
    let s1 := (s.hubRetireWay ((findIdx' (· == some t) s.hub.wayMap).getD 16)).withHub fun h =>
      let m := h.wayMap.map fun x => if x = some t then spare else x
      let h1 := { h with wayMap := m, waysGone := t :: h.waysGone }
      { h1 with classWays := h1.classWays.map h1.waysOf }
    match spare with
    | some x => (0, s1.spareRecord 3 t x 0 0)
    | .none => (1, s1)
  | 4 =>
    let qs := (List.range 4).filter fun q => bit v (7 + q)
    let passed := qs.filter fun q => !bit fail q
    let s1 := passed.foldl (fun s q => s.modQuad t q fun x => { x with fenced := false, testClock := 0 }) s
    let s2 := s1.withHub fun h => { h with recarves := h.recarves.filter fun x => !(x.fence && x.cell == t && passed.any (bit x.qmask)) }
    let s3 := (qs.filter (bit fail)).foldl (fun s q => s.fence t q) s2
    (if qs.any (bit fail) then 5 else 0, s3)
  | _ => (0, s)

/-- SPARE_CMD_COMPLETE: the command finishes, BUSY falls and vector 13 is raised; a CHANNEL command finishes when its
migration has. -/
def execSpareCmdComplete (fail : Nat) (s : State) : Host.Outcome State Fault Refusal :=
  .next (match s.hub.spare.cmd with
    | .none => s
    | some v =>
      if bits v 31 28 == 2 && s.hub.migrating.isSome then s
      else
        let (r, s1) := s.spareRun v fail
        s1.spareEnd r)

/-! ### Seam lanes (05 R151; 01 R37 to R39) -/

def State.modSeam (s : State) (n : Nat) (f : Seam → Seam) : State := s.withHub fun h => { h with seams := modifyAt h.seams n f }

/-- SEAM_FLIT_REPLAY: counted, and CRC_SEEN set. -/
def execSeamFlitReplay (n : Nat) (s : State) : Host.Outcome State Fault Refusal :=
  .next (s.modSeam n fun x => { x with retry := min 255 (x.retry + 1), crc := true })

/-- The status register of a link written: CLEAR and CRC_SEEN; `same` tells that a CRC error comes in the same clock. -/
def Seam.write (x : Seam) (v : Nat) (same : Bool) : Seam :=
  { x with retry := if bit v 0 then 0 else x.retry, crc := if bit v 1 && !same then false else x.crc }

/-- SEAM_STATUS_CLEAR: the register written with CLEAR. -/
def execSeamStatusClear (n v same : Nat) (s : State) : Host.Outcome State Fault Refusal :=
  .next (s.modSeam n fun x => x.write (putBits v 0 0 1) (same != 0))

/-- A lane fails: a spare takes it, or the link retrains at half width, or fails. -/
def State.laneFail (s : State) (n lane : Nat) : State :=
  match s.hub.seams[n]? with
  | .none => s
  | some x =>
    if seamLanes n ≤ lane ∨ x.failed n = true ∨ x.lost.contains lane = true ∨ (1 ≤ x.spares ∧ x.lane0 = lane) ∨ (2 ≤ x.spares ∧ x.lane1 = lane) then s
    else if x.spares = 0 then
      ((s.modSeam n fun x => { x with spares := 1, lane0 := lane }).refreshSeams).spareRecord 4 n 0xFF 0 lane
    else if x.spares = 1 then
      ((s.modSeam n fun x => { x with spares := 2, lane1 := lane }).refreshSeams).spareRecord 4 n 0xFF 0 lane
    else
      let s1 := s.modSeam n fun x => { x with lost := lane :: x.lost }
      let y := { x with lost := lane :: x.lost }
      if y.halfBad n 0 && y.halfBad n 1 then
        let s2 := ((s1.modSeam n fun x => { x with half := false }).refreshSeams).spareRecord 6 n 0xFF 0 lane
        if n < 4 then s2.quarantine n else s2
      else if x.half then s1
      else (s1.modSeam n fun x => { x with half := true }).spareRecord 5 n 0xFF 0 lane

/-- SEAM_LANE_FAIL: 8 replays within 1 ms are attributed to a lane. -/
def execSeamLaneFail (n lane : Nat) (s : State) : Host.Outcome State Fault Refusal := .next (s.laneFail n lane)
/-- SEAM_EYE_CHECK: the eye margin of a lane is checked; one that fails is failing. -/
def execSeamEyeCheck (n lane fail : Nat) (s : State) : Host.Outcome State Fault Refusal :=
  .next (if fail = 0 then s else s.laneFail n lane)

/-! ### Corrected errors and ageing (05 R152, R153) -/

/-- A count reaches the alarm level with one more corrected error. -/
def Hub.fires (h : Hub) (n : Nat) : Bool := decide (n < 0xFFFF) && n + 1 == h.ceThresh

/-- The record of a threshold reached. -/
def State.threshRecord (s : State) (src unit cell n : Nat) : State :=
  s.devRecord { ErrRec.plain 0x43 0xFF with cell := cell, source := src, unit := unit, detail := src + 256 * unit + 65536 * (n + 1) }

/-- CORRECTED_ERROR in a store: source 0 a codeword of physical channel `unit`, counted in CE_CHAN; 1 a hub-cache slice
`place`, in physical way `unit`; any other a memory of quadrant `unit` of logical cell `place`. The step to
THRESH sets ALARM, at a channel, and writes a record. -/
def execCorrectedError (p : ErrPlace) (s : State) : Host.Outcome State Fault Refusal :=
  .next (match p.source with
    | 0 =>
      let n := (s.hub.ceChan.getD p.unit (false, 0)).2
      let s1 := s.withHub fun h => { h with ceChan := modifyAt h.ceChan p.unit fun x => (x.1 || h.fires n, min 0xFFFF (x.2 + 1)) }
      if s.hub.fires n && decide (p.unit < 26) then s1.threshRecord 0 p.unit 0 n else s1
    | 1 =>
      let n := s.hub.ceSlice.getD p.place 0
      let s1 := s.withHub fun h => { h with ceSlice := modifyAt h.ceSlice p.place fun x => min 0xFFFF (x + 1) }
      if s.hub.fires n && decide (p.place < 32) then s1.threshRecord 1 p.unit 0 n else s1
    | src =>
      let n := s.hub.ceCell.getD p.place 0
      let s1 := s.withHub fun h => { h with ceCell := modifyAt h.ceCell p.place fun x => min 0xFFFF (x + 1) }
      if s.hub.fires n && decide (p.place < 32) then s1.threshRecord src p.unit p.place n else s1)

/-- A monitor's ALARM and READING. -/
def Hub.ageOf (h : Hub) (phys m : Nat) : Bool × Nat := ((h.age.find? fun x => x.1 == 16 * phys + m).map (·.2)).getD (false, 0)
def Hub.setAge (h : Hub) (phys m : Nat) (x : Bool × Nat) : Hub :=
  { h with age := (16 * phys + m, x) :: h.age.filter fun y => y.1 != 16 * phys + m }

/-- A reading is below its threshold: 15 ps of slack for monitors 0 to 7, 90 % of BASELINE for the others. -/
def ageLow (phys m r : Nat) : Bool := if m < 8 then decide (r < 15) else decide (10 * r < 9 * Config.ageBaseline phys m)

/-- AGE_SAMPLE of a monitor of a physical cell in C-ACT. -/
def execAgeSample (phys m reading : Nat) (s : State) : Host.Outcome State Fault Refusal :=
  .next (match s.hub.logical phys with
    | .none => s
    | some c => match s.cells[c]? with
      | some x =>
        if x.power != CellPower.act || decide (16 ≤ m) then s
        else
          let r := reading % 2 ^ 14
          let low := ageLow phys m r
          let s1 := s.withHub fun h => h.setAge phys m ((h.ageOf phys m).1 || low, r)
          if low then s1.devRecord { ErrRec.plain 0x45 0xFF with detail := phys + 256 * m + 65536 * r } else s1
      | .none => s)

/-! ### Bead self-tests (05 R154, 06 R189) -/

/-- 50 ms and 1 s in units of 1/2,882,880 µs. -/
def testPeriod : Nat := 50000 * 2882880
def testOverdue : Nat := testPeriod + 1000000 * 2882880

/-- Every clock of the quadrant is idle: no matrix-role group stands there, and no waiting region could place one. -/
def State.quadIdle (s : State) (c q : Nat) : Bool :=
  let x := s.quadAt c q
  !x.owned || (!(s.groups.any fun g => g.loc.cell == c && g.loc.quad == q && g.loc.abacus && g.inSlot)
    && !((s.waitList x.owner).any fun it => match s.regions[it.region]? with
      | some r => (usedSegs r.segs).any (fun g => g.role == .matrix) && s.eligible r c q
      | .none => false))

/-- BEAD_SELF_TEST_START: a due test starts in the first idle gap. -/
def execBeadSelfTestStart (c q : Nat) (s : State) : Host.Outcome State Fault Refusal :=
  let x := s.quadAt c q
  .next (if decide (testPeriod ≤ x.testClock) && !x.testing && !x.fenced && decide (1024 ≤ x.idleClocks) && s.quadIdle c q then
      s.modQuad c q fun x => { x with testing := true, overdue := false }
    else s)

/-- BEAD_SELF_TEST_END: the test ends after 12 µs; a failure fences the quadrant. -/
def execBeadSelfTestEnd (c q fail : Nat) (s : State) : Host.Outcome State Fault Refusal :=
  .next (if (s.quadAt c q).testing then
      let s1 := s.modQuad c q fun x => { x with testing := false, testClock := if fail = 0 then 0 else x.testClock, idleClocks := 0 }
      if fail = 0 then s1 else s1.fence c q
    else s)

/-- BEAD_SELF_TEST_OVERDUE: no gap has come for 1 s; a record marked overdue is written, once for each test. -/
def execBeadSelfTestOverdue (c q : Nat) (s : State) : Host.Outcome State Fault Refusal :=
  let x := s.quadAt c q
  .next (if decide (testOverdue ≤ x.testClock) && !x.testing && !x.fenced && !x.overdue then
      (s.modQuad c q fun x => { x with overdue := true }).devRecord { ErrRec.plain 0x46 0xFF with detail := c + 256 * q + 65536 }
    else s)

end Sys2Proof.Machine
end

