-- ==== Sys2Proof/Machine/HostIf.lean ====
section
/-! DEFINITION. What the host and the board safety microcontroller do at the registers: posting, RESYNC, the I3C
commands, and every register as it reads and as a write changes it (00 R9; 01 R39; 02 R40 to R56, R63 to R72; 03 R87,
R88, R98; 04 R105, R106, R120, R122, R124, R127; 05 R135, R136, R148, R152 to R154, R163). -/
namespace Sys2Proof.Machine
open Sys2Proof

/-! ### The RESYNC summary (02 R52, R53) -/

/-- A bit for each number of a list. -/
def bitSet (l : List Nat) : Nat := (dedupNat l).foldl (fun a n => a + 2 ^ n) 0

def CellPower.code : CellPower → Nat
  | .act => 0
  | .idle => 1
  | .ret => 2
  | .off => 3
def PanePower.code : PanePower → Nat
  | .on => 0
  | .ret => 1
  | .off => 2

/-- The PANE byte of a pane. -/
def State.paneByte (s : State) (p : Nat) : Nat :=
  let x := s.panes.getD p Pane.reset
  x.power.code * 64 + boolNat x.quarantined * 32 + boolNat (s.hub.quarOf p).running * 16

/-- The CELL byte of a physical cell. Its clock level is the effective one, below a clamp's ceiling, and a cell without a logical
number reads not quarantined (the model's choices: R52 says neither, assumptions 33 and 34). -/
def State.cellByte (s : State) (phys : Nat) : Nat :=
  let r := boolNat (s.hub.retired.contains phys)
  match s.hub.logical phys with
  | .none => 192 + r
  | some l =>
    let c := s.cells.getD l Cell.reset
    let q := (s.panes.getD (paneOf l) Pane.reset).quarantined || bit s.hub.failCell phys
    c.power.code * 64 + c.effLevel % 8 * 8 + boolNat q * 4 + 2 + r

/-- A context is shown in the view of a function: all are in the physical function's. -/
def State.shown (s : State) (view c : Nat) : Bool := view == 0 || s.owns view c

/-- The CTXSTATE byte of a context in a function's view. -/
def State.ctxByte (s : State) (view c : Nat) : Nat :=
  if s.shown view c then s.ctxCode c * 32 + (s.ctx c).func.getD 0 else 7 * 32

/-- POSTOCC in a function's view, as one number of 34 bytes. -/
def State.postOcc (s : State) (view : Nat) : Nat :=
  ((List.range 17).map fun f =>
    if view = 0 ∨ view = f then
      ((List.range 4).map fun c => ((s.hub.fns.getD f HostFn.reset).queue.getD c []).length * 2 ^ ((f * 4 + c) * 4)).foldl (· + ·) 0
    else 0).foldl (· + ·) 0

/-- KEEPA or KEEPB. -/
def KeepStat.bytes (k : KeepStat) : List Byte :=
  [k.state, k.whole, k.torn, k.missing].map (BitVec.ofNat 8) ++ leBytes 4 k.gen

/-- The summary but for its CHECK. -/
def State.summaryHead (s : State) (view seq : Nat) : List Byte :=
  let h := s.hub
  leBytes 2 1 ++ leBytes 2 0x200 ++ leBytes 4 seq ++ leBytes 4 h.fwGen ++ leBytes 4 h.fwBuild
  ++ (List.range 4).map (fun p => BitVec.ofNat 8 (s.paneByte p))
  ++ (List.range 36).map (fun c => BitVec.ofNat 8 (s.cellByte c))
  ++ leBytes 8 (bitSet (h.cellMap.filterMap id)) ++ leBytes 4 (bitSet (h.chanMap.filterMap id)) ++ leBytes 4 h.trained
  ++ leBytes 4 (bitSet (h.wayMap.filterMap id))
  ++ leBytes 4 (h.seams.zipIdx.foldl (fun a x => a + x.1.spares % 4 * 4 ^ x.2) 0)
  ++ (List.range 64).map (fun c => BitVec.ofNat 8 (s.ctxByte view c))
  ++ leBytes 34 (s.postOcc view) ++ List.replicate 14 0#8
  ++ (List.range 64).flatMap (fun c => leBytes 2 (if s.shown view c then (s.ctx c).errHead else 0))
  ++ leBytes 1 h.rung ++ leBytes 1 h.rungTgt ++ List.replicate 6 0#8
  ++ (h.keepStat.getD 0 ⟨0, 0, 0, 0, 0⟩).bytes ++ (h.keepStat.getD 1 ⟨0, 0, 0, 0, 0⟩).bytes
  ++ leBytes 4 h.clamp.stat ++ leBytes 4 h.devStatus ++ List.replicate 152 0#8 ++ leBytes 4 seq

/-- The 512-byte summary. -/
def State.summary (s : State) (view seq : Nat) : List Byte :=
  let b := s.summaryHead view seq
  b ++ leBytes 4 (crc32c b)

/-! ### Posting (02 R44 to R48) -/

def Hub.fn (h : Hub) (f : Nat) : HostFn := h.fns.getD f HostFn.reset
def State.modFn (s : State) (f : Nat) (g : HostFn → HostFn) : State := s.withHub fun h => { h with fns := modifyAt h.fns f g }

/-- A function takes register requests: it is on the link, is not in D3hot, and the link is not in L2 (02 R62). -/
def State.answers (s : State) (f : Nat) : Bool := s.present f && !(s.hub.fn f).hot && s.hub.link != 2

/-- The result of a class's last command. -/
def State.postResult (s : State) (f cls r : Nat) : State := s.modFn f fun x => { x with result := x.result.set cls r }

/-- A command is rejected for one of the reasons that hold. -/
def State.postReject (s : State) (f cls : Nat) (why : List Nat) : State :=
  let (r, s1) := s.pick why
  ((s1.postResult f cls r).modFn f fun x => { x with rej := min 0xFFFFFFFF (x.rej + 1) }).raise f (if f = 0 then 1 else 0)

/-- RESYNC_CAPTURE: a summary for a function, its number advanced. -/
def State.resyncTake (s : State) (f : Nat) : List Byte × State :=
  let seq := ((s.hub.fn f).seq + 1) % 2 ^ 32
  (s.summary f seq, s.modFn f fun x => { x with seq := seq })

/-- The result vector of a function, RESYNC written. -/
def State.resyncDone (s : State) (f cls r : Nat) : State := (s.postResult f cls r).raise f (if f = 0 then 2 else 1)

/-- An entry that the walk of a virtual address reads in the stage-1 table is poisoned. -/
def State.walkPoison (s : State) (f va : Nat) : Nat → Nat → Nat → Bool
  | 0, _, _ => false
  | fuel + 1, table, level =>
    match s.stage2 f (table + 8 * (va / 2 ^ (39 - 9 * level) % 512)) with
    | .error _ => false
    | .ok (pa, _) =>
      (s.memPoison.hit pa 8).isSome
      || (let e := s.mem.value pa 8
          bit e 0 && bit e 1 && decide (level < 3) && s.walkPoison f va fuel (bits e 45 12 * 4096) (level + 1))

/-- The reasons that bar a command which names a context: 3, 4 and 5 of R47. -/
def State.postBars (s : State) (f w : Nat) : List Nat :=
  (if s.owns f (bits w 63 58) then [] else [3]) ++ (if bits w 57 48 = 0 then [] else [4])
  ++ (if s.hub.boot = 4 ∧ s.hub.dstate = 0 then [] else [5])

/-- CMD 0: post a root region. -/
def State.postRoot (s : State) (f cls w : Nat) : State :=
  let c := bits w 63 58
  let q := (s.hub.fn f).queue.getD cls []
  let why := (if 8 ≤ q.length then [1] else []) ++ s.postBars f w ++ (if (s.ctx c).state = 5 then [6] else [])
  if !why.isEmpty then s.postReject f cls why
  else
    ((s.modFn f fun x => { x with queue := x.queue.set cls (q ++ [(c, bits w 47 8 * 256)]) }).postResult f cls 0).modCtx c
      fun x => { x with state := if x.state = 4 then 1 else x.state }

/-- CMD 1: RESYNC to memory and to the window. -/
def State.resyncMemory (s : State) (f cls w : Nat) : State :=
  let c := bits w 63 58
  let a := bits w 47 8 * 256
  let why := s.postBars f w ++ (if bit w 8 then [2] else [])
  if !why.isEmpty then s.postReject f cls why
  else
    let (b, s1) := s.resyncTake f
    let s2 := s1.modFn f fun x => { x with window := b }
    if s2.walkPoison (s2.ctxFunc c) a 4 (s2.ctx c).s1root 0 then s2.resyncDone f cls 7
    else match s2.writeVa c a b with
      | .ok s3 => s3.resyncDone f cls 0
      | .error _ => s2.resyncDone f cls 7

/-- CMD 2: RESYNC to the window. -/
def State.resyncWindow (s : State) (f cls : Nat) : State :=
  let (b, s1) := s.resyncTake f
  (s1.modFn f fun x => { x with window := b }).resyncDone f cls 0

/-- The command of a POST word; other values of CMD are rejected. -/
def State.postCmd (s : State) (f cls w : Nat) : State :=
  match bits w 7 0 with
  | 0 => s.postRoot f cls w
  | 1 => s.resyncMemory f cls w
  | 2 => s.resyncWindow f cls
  | _ => s.postReject f cls [4]

/-- A 32-bit write to the high half of a POST register performs the command formed with the latched low half, and clears
the latch. -/
def State.postHigh (s : State) (f cls v : Nat) : State :=
  let w := v % 2 ^ 32 * 2 ^ 32 + (s.hub.fn f).latch.getD cls 0
  (s.modFn f fun x => { x with latch := x.latch.set cls 0 }).postCmd f cls w

/-- A POST register written so that a command is performed: by 64 bits of `v`, or, with `half` other than 0, by its
high half. -/
def State.postWrite (s : State) (f cls half v : Nat) : State :=
  if !s.answers f || decide (4 ≤ cls) then s
  else if half = 0 then s.postCmd f cls (v % 2 ^ 64)
  else s.postHigh f cls v

/-- POST_ROOT_REGION: a write whose CMD is 0. -/
def execPostRootRegion (f cls half v : Nat) (s : State) : Host.Outcome State Fault Refusal :=
  .next (s.postWrite f cls half (if half = 0 then putBits v 7 0 0 else v))
/-- POST_LOW_HALF_WRITE: latched; nothing is performed. -/
def execPostLowHalfWrite (f cls v : Nat) (s : State) : Host.Outcome State Fault Refusal :=
  .next (if !s.answers f || decide (4 ≤ cls) then s else s.modFn f fun x => { x with latch := x.latch.set cls (v % 2 ^ 32) })
/-- RESYNC_TO_MEMORY: a write whose CMD is 1. -/
def execResyncToMemory (f cls half v : Nat) (s : State) : Host.Outcome State Fault Refusal :=
  .next (s.postWrite f cls half (if half = 0 then putBits v 7 0 1 else v))
/-- RESYNC_TO_WINDOW: a write whose CMD is 2. -/
def execResyncToWindow (f cls half v : Nat) (s : State) : Host.Outcome State Fault Refusal :=
  .next (s.postWrite f cls half (if half = 0 then putBits v 7 0 2 else v))

/-! ### FAULT_CTL and ARM (02 R69, R70) -/

/-- FAULT_CTL written: the sticky causes cleared, then CLEAR; `same` tells that a cause arises in the same clock. -/
def Hub.faultCtl (h : Hub) (v : Nat) (same : Bool) : Hub :=
  let h1 := { h with lockstep := h.lockstep && !bit v 2, coatfail := h.coatfail && !bit v 1 }
  { h1 with faultN := if bit v 0 && h1.canClear same then false else h1.faultN }

/-- FAULT_CLEAR: FAULT_CTL written with CLEAR. -/
def execFaultClear (v fw same : Nat) (s : State) : Host.Outcome State Fault Refusal :=
  .next (s.guarded fw fun s => s.withHub fun h => h.faultCtl (putBits v 0 0 1) (same != 0))

/-- ARM_WRITE. -/
def execArmWrite (v fw : Nat) (s : State) : Host.Outcome State Fault Refusal :=
  .next (s.guarded fw fun s => s.withHub fun h => { h with armTx := v % 4, armI3c := bit v 2 })

/-! ### I3C (02 R54 to R56) -/

/-- The pending in-band interrupt may have been taken by the controller by the time of a transfer: a free choice. -/
def State.ibiTaken (s : State) : State :=
  if s.hub.i3cIbi.isNone then s
  else
    let (k, s1) := s.free
    if k % 2 = 0 then s1 else s1.withHub fun h => { h with i3cIbi := .none }

/-- A command's response, for the next private read. -/
def State.i3cAnswer (s : State) (b : List Byte) : State :=
  s.ibiTaken.withHub fun h => { h with i3cResp := some b, i3cLast := h.i3cAddress }
/-- A command that is ignored: the next read returns 0xEE. -/
def State.i3cIgnored (s : State) : State := s.ibiTaken.withHub fun h => { h with i3cResp := .none, i3cLast := h.i3cAddress }

/-- I3C_RESYNC: the physical function's view; the window is left. The summary counts in the physical function's SEQ (the model's
choice: R52 says only that SEQ is a per-function count, assumption 32). -/
def execI3cResync (s : State) : Host.Outcome State Fault Refusal :=
  let (b, s1) := s.resyncTake 0
  .next (s1.i3cAnswer b)
/-- I3C_STATUS: DEV_STATUS, then CLAMP_STAT. -/
def execI3cStatus (s : State) : Host.Outcome State Fault Refusal :=
  .next (s.i3cAnswer (leBytes 4 s.hub.devStatus ++ leBytes 4 s.hub.clamp.stat))
/-- I3C_FAULT_CLEAR: CLEAR alone. -/
def execI3cFaultClear (same : Nat) (s : State) : Host.Outcome State Fault Refusal :=
  .next (if s.hub.canClear (same != 0) then (s.withHub fun h => { h with faultN := false }).i3cAnswer [0#8] else s.i3cAnswer [1#8])
/-- FORCE_UNDERCOAT of a mask of pipes. -/
def execForceUndercoat (mask : Nat) (s : State) : Host.Outcome State Fault Refusal :=
  .next (if 16 ≤ mask then s.i3cIgnored
    else
      let m := s.hub.forced ||| mask
      (s.withHub fun h => { h with forced := m }).i3cAnswer [BitVec.ofNat 8 m])
/-- RELEASE_UNDERCOAT of a mask of pipes. -/
def execReleaseUndercoat (mask : Nat) (s : State) : Host.Outcome State Fault Refusal :=
  .next (if 16 ≤ mask then s.i3cIgnored
    else
      let m := s.hub.forced - (s.hub.forced &&& mask)
      (s.withHub fun h => { h with forced := m }).i3cAnswer [BitVec.ofNat 8 m])
/-- I3C_HOLDUP: the reserve state, then KEEPA bytes 3 to 0. -/
def execI3cHoldup (s : State) : Host.Outcome State Fault Refusal :=
  .next (s.i3cAnswer (BitVec.ofNat 8 (boolNat s.hub.ready + 2 * boolNat s.hub.saving) :: ((s.hub.keepStat.getD 0 ⟨0, 0, 0, 0, 0⟩).bytes.take 4)))
/-- I3C_UNKNOWN_COMMAND. -/
def execI3cUnknownCommand (s : State) : Host.Outcome State Fault Refusal := .next s.i3cIgnored
/-- I3C_PRIVATE_READ: the response, or 0xEE with no command before it. -/
def execI3cPrivateRead (s : State) : Host.Outcome State Fault Refusal :=
  .next (s.ibiTaken.withHub fun h => { h with i3cOut := h.i3cResp.getD [0xEE#8], i3cResp := .none, i3cLast := h.i3cAddress })

/-! ### The registers (02 R41; 03 R87; 04 R105; 05 R135) -/

/-- A register: its width in bits, what it reads as, what a write of a value of its width does, and what a 32-bit write to one
half of it leaves to the other: what it reads, but 0 in bits that act when they are written 1 (00 R9). -/
structure Reg where
  width : Nat
  read : State → Nat
  write : Nat → State → State
  other : State → Nat := read

/-- A register that a write does not change. -/
def Reg.ro (w : Nat) (r : State → Nat) : Reg := { width := w, read := r, write := fun _ s => s }
/-- A register held in the hub. -/
def Reg.hub (w : Nat) (r : Hub → Nat) (f : Nat → Hub → Hub) : Reg :=
  { width := w, read := fun s => r s.hub, write := fun v s => s.withHub (f v) }
/-- A register that reads as zero. -/
def Reg.wo (w : Nat) (f : Nat → State → State) : Reg := { width := w, read := fun _ => 0, write := f }
/-- A register read and written by functions of the whole machine. -/
def Reg.rw (w : Nat) (r : State → Nat) (f : Nat → State → State) : Reg := { width := w, read := r, write := f }

/-- What a host write that has a row of its own does. -/
def State.after (s : State) (o : State → Host.Outcome State Fault Refusal) : State := match o s with
  | .next t => t
  | _ => s

/-- The rail set point of a pane at a level: within 600 to 850 mV, and not falling with the level (02 R63). -/
def vset (p : Nat) : Nat → Nat
  | 0 => 600 + Config.vset p 0 % 251
  | l + 1 => max (vset p l) (600 + Config.vset p (l + 1) % 251)

/-- A 32-bit word of an MSI-X table: Vector Control reads 1 at reset (02 R41). -/
def HostFn.msixWord (f : HostFn) (o : Nat) : Nat := (f.msix.value o 4) ^^^ (if o % 16 = 12 then 1 else 0)
/-- A word of an MSI-X table written; a vector unmasked is no longer pending. -/
def HostFn.msixWrite (f : HostFn) (o v : Nat) : HostFn :=
  let x := if o % 16 = 12 then v % 2 else if o % 16 = 0 then v / 4 * 4 else v
  let g := { f with msix := f.msix.put o (leBytes 4 (x ^^^ (if o % 16 = 12 then 1 else 0))) }
  { g with pending := g.pending.filter g.masked }

/-- A word of a function's MSI-X table written: the messages of the pending vectors that it unmasks are sent. -/
def State.msixWrite (s : State) (f o v : Nat) : State :=
  let x := s.hub.fn f
  let freed := x.pending.filter fun n => !((x.msixWrite o v).masked n)
  freed.foldl (fun s n => s.raise f n) (s.modFn f fun x => x.msixWrite o v)
/-- A word of a pending-bit array. -/
def HostFn.pba (f : HostFn) (o : Nat) : Nat := bitSet ((f.pending.filter fun v => decide (8 * o ≤ v ∧ v < 8 * o + 32)).map fun v => v - 8 * o)

/-- POST_STAT (02 R47). -/
def HostFn.postStat (f : HostFn) : Nat :=
  ((List.range 4).map fun c => ((f.queue.getD c []).length * 16 + f.result.getD c 0) * 256 ^ c).foldl (· + ·) 0

/-- The registers of the host interface, the power and limit keeper registers (02). -/
def hostReg (f off : Nat) : Option Reg :=
  if off = 0 then some (.ro 32 fun s => s.hub.devStatus)
  else if off = 0x200 then some (.ro 32 fun s => (s.hub.fn f).postStat)
  else if off = 0x204 then some (.ro 32 fun s => (s.hub.fn f).rej)
  else if 0x3000 ≤ off ∧ off < 0x3200 then some (.ro 32 fun s => leValue (((s.hub.fn f).window.drop (off - 0x3000)).take 4))
  else .none

/-- The power and limit-keeper registers of the physical function (02 R41). -/
def powerReg (off : Nat) : Option Reg :=
  if off = 0x1000 then some (.wo 32 fun v s => s.powerWrite (bits v 31 30) v)
  else if off = 0x1004 then
    some (.hub 32 (fun h => h.power.stat 27 16) fun v h => { h with power := { h.power with dropped := h.power.dropped && !bit v 30 } })
  else if 0x1100 ≤ off ∧ off < 0x1160 then
    some (.ro 32 fun _ => vset ((off - 0x1100) / 24) ((off - 0x1100) % 24 / 4))
  else if off = 0x2000 then
    some (.hub 32 (fun h => h.clamp.stat) fun v h => { h with clamp := { h.clamp with denied := h.clamp.denied && !bit v 10 } })
  else if off = 0x2004 then some (.wo 32 fun v s => s.after (execClampRelease v 0 0))
  else if off = 0x2010 then
    some (.hub 32 (fun h => boolNat (!h.dclk) * 8 + boolNat h.lockstep * 4 + boolNat h.coatfail * 2) fun v h => h.faultCtl v false)
  else if off = 0x2020 then some (.rw 32 (fun s => boolNat s.hub.armI3c * 4 + s.hub.armTx) fun v s => s.after (execArmWrite v 0))
  else if 0x2100 ≤ off ∧ off < 0x2200 ∧ off % 16 = 0 then
    let n := (off - 0x2100) / 16
    some (.hub 64 (fun h => h.winBase.getD n 0) fun v h => { h with winBase := h.winBase.set n (v / 4096 * 4096 + v % 4) })
  else if 0x2100 ≤ off ∧ off < 0x2200 ∧ off % 16 = 8 then
    let n := (off - 0x2100) / 16
    some (.hub 64 (fun h => h.winLimit.getD n 0) fun v h => { h with winLimit := h.winLimit.set n (v / 4096 * 4096) })
  else if off = 0x2200 then
    some { Reg.hub 64 (fun h => h.winViol) (fun v h => { h with winViol := if bit v 0 then 0 else h.winViol }) with other := fun _ => 0 }
  else if off = 0x2208 then some (.ro 32 fun s => s.hub.denied)
  else if off = 0x2300 then some (.wo 32 fun v s => s.after (execBootGo v))
  else .none

/-- The status registers of the seam links (01 R39). -/
def seamReg (off : Nat) : Option Reg :=
  if 0x10000 ≤ off ∧ off < 0x10240 ∧ off % 64 = 0 then
    let n := (off - 0x10000) / 64
    some (.hub 32 (fun h => match h.seams[n]? with
        | some x => x.state * 2 ^ 28 + x.spares * 2 ^ 26 + x.retry * 2 ^ 16 + x.lane0 * 2 ^ 9 + x.lane1 * 4 + boolNat x.crc * 2
        | .none => 0)
      fun v h => { h with seams := modifyAt h.seams n fun x => x.write v false })
  else .none

/-- PART_CMD written, by its OP. -/
def State.partCmdWrite (s : State) (v : Nat) : State := match bits v 31 28 with
  | 0 => s.after (execPartCommit v 0)
  | 1 => s.after (execPartGrow v 0)
  | 2 => s.after (execPartShrink v 0)
  | 3 => s.after (execPartCancel v 0)
  | 4 => s.after (execRungReset v 0)
  | 5 => s.after (execInvCtx v 0)
  | op => s.partWrite 0 op v fun _ s => s.partEnd 2

/-- QOWN of a logical cell (03 R88). -/
def Cell.qown (c : Cell) : Nat :=
  c.quads.zipIdx.foldl (fun a x => a + (boolNat x.1.owned * 128 + boolNat x.1.shrinkPending * 64 + x.1.owner % 16) * 256 ^ x.2) 0

/-- The partition registers (03 R87, R88, R98). -/
def partReg (off : Nat) : Option Reg :=
  if off = 0x20000 then some (.hub 64 (fun h => h.cfgBase * 4096) fun v h => { h with cfgBase := bits v 39 12 })
  else if off = 0x20008 then some (.hub 64 (fun h => h.pfApBase * unit1G) fun v h => { h with pfApBase := bits v 39 30 })
  else if off = 0x20010 then some (.wo 32 fun v s => s.partCmdWrite v)
  else if off = 0x20014 then
    some (.hub 32 (fun h => h.part.stat 26 22) fun v h => { h with part := { h.part with dropped := h.part.dropped && !bit v 30 } })
  else if off = 0x20018 then some (.ro 32 fun s => s.hub.detailGen % 65536 * 65536 + s.hub.detailOff % 65536)
  else if off = 0x2001C then some (.ro 32 fun s => bitSet ((s.hub.recarves.filter fun x => x.deferred && !x.fence).map (·.part)))
  else if off = 0x20020 then some (.hub 32 (fun h => boolNat h.qosRej) fun v h => { h with qosRej := h.qosRej && !bit v 0 })
  else if 0x20040 ≤ off ∧ off < 0x20050 ∧ off % 4 = 0 then
    some (.rw 32 (fun s => s.hub.classWays.getD ((off - 0x20040) / 4) 0) fun v s => s.after (execClassWaysWrite ((off - 0x20040) / 4) v 0))
  else if 0x20050 ≤ off ∧ off < 0x20060 ∧ off % 4 = 0 then
    some (.rw 32 (fun s => s.hub.classBw.getD ((off - 0x20050) / 4) 0) fun v s => s.after (execClassBwWrite ((off - 0x20050) / 4) v 0))
  else if 0x20100 ≤ off ∧ off < 0x20180 ∧ off % 4 = 0 then
    some (.ro 32 fun s => (s.cells.getD ((off - 0x20100) / 4) Cell.reset).qown)
  else .none

/-- A register of a pipe, by its place in the block; what its port's link has been trained to is free (01 R33; 04 R106, R107). -/
def pipeReg (n o : Nat) : Option Reg :=
  let pipe (w : Nat) (r : Pipe → Nat) (f : Nat → Pipe → Pipe) : Option Reg := some (.rw w (fun s => r (s.hub.pipe n)) fun v s => s.modPipe n (f v))
  match o with
  | 0x000 => some (.rw 32 (fun s =>
      let p := s.hub.pipe n
      boolNat p.en * 2 ^ 31 + boolNat p.pend * 2 ^ 29 + boolNat p.rej * 2 ^ 28 + p.depth * 2 ^ 26)
      fun v s => ((s.free).2).pipeWrite n v (s.free).1)
  | 0x008 => pipe 64 (fun p => p.ltBase * 2048) fun v p => { p with ltBase := bits v 39 11 }
  | 0x010 => pipe 64 (·.timing) fun v p => { p with timing := v }
  | 0x018 => pipe 32 (·.khz) fun v p => { p with khz := bits v 19 0 }
  | 0x020 => pipe 64 (fun p => p.lines % 2 ^ 64) fun _ p => p
  | 0x028 => pipe 32 (fun p => p.lines / p.vtotal % 2 ^ 32) fun _ p => p
  | 0x030 => some (.ro 32 fun s => s.hub.ttNow n * 65536 + (s.hub.pipe n).rep)
  | 0x034 => pipe 32 (fun p => p.mismatch * 65536 + p.late) fun v p =>
      { p with mismatch := p.mismatch - (p.mismatch &&& bits v 31 16), late := p.late - (p.late &&& bits v 15 0) }
  | 0x038 => pipe 32 (·.diff) fun v p => { p with diff := p.diff - (p.diff &&& bits v 15 0) }
  | 0x040 => pipe 32 (·.bg) fun v p => { p with bg := bits v 23 0 }
  | _ => .none

/-- A register of a camera stream, by its place in the block (04 R127). -/
def camReg (i o : Nat) : Option Reg :=
  let cam (w : Nat) (r : CamStream → Nat) (f : Nat → CamStream → CamStream) : Option Reg := some (.rw w (fun s => r (s.hub.cam i)) fun v s => s.modCam i (f v))
  match o with
  | 0x00 => some (.rw 32 (fun s => (s.hub.cam i).ctl) fun v s => s.after (execCameraStreamWrite i v 0))
  | 0x08 => cam 64 (fun c => c.base * 256) fun v c => { c with base := bits v 45 8 }
  | 0x10 => cam 32 (·.stride) fun v c => { c with stride := v }
  | 0x14 => cam 32 (·.pitch) fun v c => { c with pitch := v }
  | 0x18 => cam 32 (·.sem) fun v c => { c with sem := v / 2 ^ 20 * 2 ^ 20 }
  | 0x1C => cam 32 (fun c => c.next % 16 * 2 ^ 28 + c.frames % 4096 * 2 ^ 16 + c.drops) fun _ c => c
  | _ => .none

/-- The display registers (04 R105, R106, R120, R122, R124, R127). -/
def displayReg (off : Nat) : Option Reg :=
  if off = 0x33100 then
    some (.hub 32 (fun h => boolNat h.hudEn * 2 ^ 31 + h.latchLines) fun v h => { h with hudEn := bit v 31, latchLines := bits v 9 0 })
  else if off = 0x33104 then
    some (.hub 32 (fun h => boolNat h.hudCtxEn * 2 ^ 31 + h.hudCtx) fun v h => { h with hudCtxEn := bit v 31, hudCtx := bits v 5 0 })
  else if off = 0x33108 then some (.hub 64 (fun h => h.meshBase * 256) fun v h => { h with meshBase := bits v 39 8 })
  else if off = 0x33110 then some (.ro 32 fun s => s.hub.stale * 65536 + (s.hub.latchUse.getD 7 0#32).toNat % 65536)
  else if 0x33200 ≤ off ∧ off < 0x33220 ∧ off % 4 = 0 then
    let w := (off - 0x33200) / 4
    some (.rw 32 (fun s => if w = 6 then 0 else (s.hub.latch.getD w 0#32).toNat) fun v s => s.after (execLatchWrite w v 0))
  else if off = 0x34000 then
    some (.ro 32 fun s => ((List.range 4).map fun p =>
      let q := s.hub.quarOf p
      (boolNat (s.panes.getD p Pane.reset).quarantined * 128 + boolNat q.running * 64 + boolNat q.passed * 32 + boolNat q.failed * 16) * 256 ^ p).foldl (· + ·) 0)
  else if off = 0x34008 then some (.ro 64 fun s => s.hub.failCell)
  else if off = 0x34010 then some (.rw 32 (fun s => boolNat s.hub.quarRefused * 2 ^ 31) fun v s => s.after (execReadmit v 0))
  else if off = 0x34100 then some (.hub 64 (fun h => h.ttSrc * 256) fun v h => { h with ttSrc := bits v 39 8 })
  else if off = 0x34108 then
    some (.rw 32 (fun s => boolNat s.hub.ttCmd.isSome * 2 ^ 31 + s.hub.ttResult * 2 ^ 28) fun v s => s.after (execTelltaleLoad v 0))
  else if 0x30000 ≤ off ∧ off < 0x34000 then pipeReg ((off - 0x30000) / 0x1000) (off % 0x1000)
  else if 0x35000 ≤ off ∧ off < 0x35400 then camReg ((off - 0x35000) / 0x40) (off % 0x40)
  else .none

/-- SPARE_CMD written, by its OP. -/
def State.spareCmdWrite (s : State) (v : Nat) : State := match bits v 31 28 with
  | 0 => s.after (execSpareLane v 0)
  | 1 => s.after (execSpareCell v 0)
  | 2 => s.after (execSpareChannel v 0)
  | 3 => s.after (execSpareWay v 0)
  | 4 => s.after (execUnfence v 0)
  | op => s.spareWrite 0 op v fun _ s => s.spareEnd 3

/-- The reliability and hold-up registers (05 R135, R136, R148, R151 to R154, R163). -/
def reliabReg (off : Nat) : Option Reg :=
  if off = 0x40000 then some (.hub 64 (fun h => h.devqBase * 4096) fun v h => { h with devqBase := bits v 39 12 })
  else if off = 0x40008 then
    some (.hub 32 (fun h => boolNat h.devqEn * 2 ^ 31 + h.devqLog * 2 ^ 16 + h.devqLost) fun v h => h.devqWrite v)
  else if off = 0x4000C then some (.ro 32 fun s => s.hub.devqHead)
  else if off = 0x40010 then some (.wo 32 fun v s => s.spareCmdWrite v)
  else if off = 0x40014 then
    some (.hub 32 (fun h => h.spare.stat 26 22) fun v h => { h with spare := { h.spare with dropped := h.spare.dropped && !bit v 30 } })
  else if off = 0x40018 then some (.ro 32 fun s => boolNat s.hub.migrating.isSome * 2 ^ 31 + s.hub.migrateDone % 2 ^ 31)
  else if off = 0x40020 then some (.ro 32 fun s => bitSet ((s.hub.seams.zipIdx.filter fun x => x.1.half).map (·.2)))
  else if off = 0x40024 then some (.hub 32 (fun h => h.ceThresh) fun v h => { h with ceThresh := v % 65536 })
  else if 0x40100 ≤ off ∧ off < 0x40168 ∧ off % 4 = 0 then
    let c := (off - 0x40100) / 4
    some (.hub 32 (fun h => match h.ceChan[c]? with | some x => boolNat x.1 * 2 ^ 31 + x.2 | .none => 0)
      fun v h => { h with ceChan := modifyAt h.ceChan c fun x => (x.1 && !bit v 31, v % 65536) })
  else if 0x40200 ≤ off ∧ off < 0x40210 ∧ off % 4 = 0 then
    let n := (off - 0x40200) / 4
    some (.ro 32 fun s => bitSet ((List.range 32).filter fun i =>
      match (s.cells.getD (8 * n + i / 4) Cell.reset).quads[i % 4]? with | some q => q.fenced | .none => false))
  else if 0x41000 ≤ off ∧ off < 0x41900 ∧ off % 4 = 0 then
    let c := (off - 0x41000) / 64
    let m := (off - 0x41000) % 64 / 4
    some (.hub 32 (fun h => boolNat (h.ageOf c m).1 * 2 ^ 31 + (if m < 8 then 0 else 2 ^ 30) + Config.ageBaseline c m % 2 ^ 14 * 2 ^ 16 + (h.ageOf c m).2 % 2 ^ 14)
      fun v h => h.setAge c m ((h.ageOf c m).1 && !bit v 31, (h.ageOf c m).2))
  else if off = 0x42000 then some (.ro 32 fun s => boolNat s.hub.ready * 2 ^ 31 + boolNat s.hub.saving * 2 ^ 30)
  else if off = 0x42008 then some (.hub 64 (fun h => h.keepDst * 64) fun v h => { h with keepDst := bits v 39 6 })
  else if off = 0x42010 then
    some (.rw 32 (fun s => boolNat s.hub.keepCmd.isSome * 2 ^ 31 + s.hub.keepResult * 2 ^ 28) fun v s => s.keepWrite 0 (bits v 27 26) v)
  else .none

/-- An MSI-X table or pending-bit array of a function (02 R41). -/
def msixReg (f off : Nat) : Option Reg :=
  let tab := if f = 0 then 0x50000 else 0x8000
  let len := if f = 0 then 0x8000 else 0x400
  let pba := if f = 0 then 0x58000 else 0x9000
  let plen := if f = 0 then 0x100 else 8
  if tab ≤ off ∧ off < tab + len ∧ off % 4 = 0 then
    some (.rw 32 (fun s => (s.hub.fn f).msixWord (off - tab)) fun v s => s.msixWrite f (off - tab) v)
  else if pba ≤ off ∧ off < pba + plen ∧ off % 4 = 0 then some (.ro 32 fun s => (s.hub.fn f).pba (off - pba))
  else .none

/-- The register at an offset of a function's BAR 0; every other offset is reserved. -/
def regAt (f off : Nat) : Option Reg :=
  ((hostReg f off).orElse fun _ => msixReg f off).orElse fun _ =>
    if f ≠ 0 then .none
    else ((((powerReg off).orElse fun _ => seamReg off).orElse fun _ => partReg off).orElse fun _ => displayReg off).orElse fun _ => reliabReg off

/-- A register that holds a 32-bit word: the register, and whether the word is its high half. -/
def wordAt (f off : Nat) : Option (Reg × Bool) :=
  match regAt f off with
  | some r => some (r, false)
  | .none => if off < 4 then .none else match regAt f (off - 4) with
    | some r => if r.width = 64 then some (r, true) else .none
    | .none => .none

/-- A 32-bit read of a function's BAR 0: POST registers, the boot buffer and reserved offsets read as zero. -/
def State.regRead (s : State) (f off : Nat) : Nat := match wordAt f off with
  | some (r, hi) => if hi then r.read s / 2 ^ 32 % 2 ^ 32 else r.read s % 2 ^ 32
  | .none => 0

/-- A 32-bit write to a function's BAR 0. A half of a 64-bit register keeps the other half. -/
def State.regWrite32 (s : State) (f off v : Nat) : State :=
  if 0x100 ≤ off ∧ off < 0x120 ∧ off % 8 = 4 then s.postHigh f ((off - 0x100) / 8) v
  else if 0x100 ≤ off ∧ off < 0x120 ∧ off % 8 = 0 then s.modFn f fun x => { x with latch := x.latch.set ((off - 0x100) / 8) v }
  else match wordAt f off with
    | some (r, hi) =>
      r.write (if r.width = 32 then v else if hi then v * 2 ^ 32 + r.other s % 2 ^ 32 else r.other s / 2 ^ 32 * 2 ^ 32 + v) s
    | .none => s

/-- A write of four or, with `n` 8, eight bytes. The eight bytes of a 64-bit register are written at once. -/
def State.regWrite (s : State) (f off n v : Nat) : State :=
  if n = 8 then
    if 0x100 ≤ off ∧ off < 0x120 ∧ off % 8 = 0 then s.postCmd f ((off - 0x100) / 8) (v % 2 ^ 64)
    else match wordAt f off with
      | some (r, false) => if r.width = 64 then r.write (v % 2 ^ 64) s else
          (r.write (v % 2 ^ 32) s).regWrite32 f (off + 4) (v / 2 ^ 32 % 2 ^ 32)
      | _ => (s.regWrite32 f off (v % 2 ^ 32)).regWrite32 f (off + 4) (v / 2 ^ 32 % 2 ^ 32)
  else s.regWrite32 f off (v % 2 ^ 32)

/-- The registers that firmware may not write: the limit keeper's, and those of chapters 03, 04 and 05 (02 R71; 03 R87;
04 R105; 05 R135). -/
def firmwareBarred (off : Nat) : Bool :=
  decide ((0x2000 ≤ off ∧ off < 0x2300) ∨ (0x20000 ≤ off ∧ off < 0x50000)) && (wordAt 0 off).isSome

/-- REGISTER_WRITE: a write of `n` bytes to an offset of a function's BAR 0, by the host or, with `fw` other than 0, by
hypervisor firmware. The boot buffer takes writes while DEV_STATUS.BOOT is 2 (02 R72). -/
def execRegisterWrite (f off n v fw : Nat) (s : State) : Host.Outcome State Fault Refusal :=
  .next (
    if !s.answers f then s
    else if f = 0 ∧ 0x1000000 ≤ off ∧ off < 0x2000000 then
      (if s.hub.boot = 2 then s.withHub fun h => { h with bootBuf := h.bootBuf.put (off - 0x1000000) (leBytes n v) } else s)
    else if fw ≠ 0 ∧ f = 0 ∧ firmwareBarred off = true then s.deny
    -- in D-HOLD the hub's units are off (02 R57)
    else if s.hub.dstate = 2 ∧ 0x10000 ≤ off ∧ off < 0x50000 then s
    else s.regWrite f off n v)

end Sys2Proof.Machine
end

