-- ==== Sys2Proof/Machine/Tick.lean ====
section
/-! DEFINITION. Time: what passes in every step at the cells, at hypervisor core 0, at the display pipes and in a
channel migration (01 R17, R517; 04 R106, R107, R125; 05 R132, R150, R154; 11 R300, R309, R310). How much passes is a
free number for each clock (assumption 3). -/
namespace Sys2Proof.Machine
open Sys2Proof

/-- How many free numbers a step's passing of time takes: one for each cell, hypervisor core 0, each pipe, and the
migration engine. -/
def tickDraws : Nat := 38

/-- The clocks of a cell that pass in this step: its clock runs in C-ACT, while the device's do. -/
def State.cellClocks (s : State) (c : Nat) : Nat := match s.cells[c]? with
  | some x => if s.hub.running && x.power == CellPower.act then Config.freeNat (s.fresh + c) else 0
  | .none => 0

/-- Units of 1/2,882,880 µs in a clock at a level: 320 MHz and 128 MHz more for each level. -/
def clockUnits (level : Nat) : Nat := 2882880 / (320 + 128 * level)

/-- A quadrant after `n` clocks of its cell, `idle` throughout or not (05 R154, 06 R189). -/
def Quad.ticked (q : Quad) (n level : Nat) (idle : Bool) : Quad :=
  { q with testClock := q.testClock + n * clockUnits level, idleClocks := if idle then q.idleClocks + n else 0 }

/-- A group after `n` clocks of its cell (11 R300, R310). -/
def Group.ticked (g : Group) (n : Nat) : Group :=
  if g.inSlot then
    (g.withSr fun r => { r with gtimer := (r.gtimer + n) % 2 ^ 64 }).withCtl fun c =>
      { c with heldClocks := if c.status == .held then c.heldClocks + n else c.heldClocks }
  else g

/-- A cell after the clocks of this step, its quadrants with it. -/
def State.tickCell (s : State) (x : Cell × Nat) : Cell :=
  if x.1.power == CellPower.act then
    { x.1 with
      counter := (x.1.counter + s.cellClocks x.2) % 2 ^ 64
      quads := x.1.quads.zipIdx.map fun y => y.1.ticked (s.cellClocks x.2) x.1.effLevel (s.quadIdle x.2 y.2) }
  else x.1

/-- A line of a pipe begins: a frame that starts takes what was decided for it; with EN down the end of the frame ends
the scan-out. -/
def Pipe.line (p : Pipe) : Pipe :=
  let l := p.lines + 1
  if l % max 1 p.vtotal = 0 then
    (if p.ending then { p with ending := false }
     else { p with lines := l, tt := p.ttNext, rep := p.repNext, layers := p.layersNext })
  else { p with lines := l }

/-- What happens at the start of a pipe's line: the checks of the tiles just read, a pending commit at a blank line, the frame
decision at the first, the latch of the windscreen stage (04 R109, R115, R117, R125). -/
def Hub.lineEvents (h : Hub) (n : Nat) (p : Pipe) : List Instr :=
  let l := p.lines % max 1 p.vtotal
  ((p.readTiles l).map fun x => Instr.scanoutTileCheck n x.1 x.2)
  ++ (if p.vactive ≤ l ∧ p.pend = true then [Instr.layerCommitTake n] else [])
  ++ (if l = p.vactive then [Instr.frameDecision n] else [])
  ++ (if n = 3 ∧ (p.lines + h.latchLines) % max 1 p.vtotal = 0 then [Instr.hudLatchTake] else [])

/-- What stands to happen at the start of a line of a pipe has yet to. -/
def startsLine (n : Nat) : Instr → Bool
  | .scanoutTileCheck m _ _ => m == n
  | .layerCommitTake m => m == n
  | .frameDecision m => m == n
  | .hudLatchTake => n == 3
  | _ => false

/-- A pipe scans out in this step's time, what its last line began with has happened, and the free number `f` has it begin a
line (01 R17, 02 R57). -/
def Hub.beginsLine (h : Hub) (agenda : List Instr) (f n : Nat) : Bool :=
  ((h.pipe n).en || (h.pipe n).ending) && h.dclk && h.dstate == 0 && Config.freeNat (f + 33 + n) % 2 == 1
    && !(agenda.any (startsLine n))

/-- The pipes after their lines. -/
def Hub.tickPipes (h : Hub) (agenda : List Instr) (f : Nat) : List Pipe :=
  h.pipes.zipIdx.map fun (p, n) => if h.beginsLine agenda f n then p.line else p

/-- A frame of the HUD pipe begins: the latched set comes into use (04 R125, R126). -/
def Hub.hudFrame (h : Hub) (agenda : List Instr) (f : Nat) : Bool :=
  h.beginsLine agenda f 3 && (h.pipe 3).line.lines % max 1 (h.pipe 3).vtotal == 0

/-- What happens at the starts of the lines that begin. -/
def Hub.tickEvents (h : Hub) (agenda : List Instr) (f : Nat) : List Instr :=
  (List.range 4).flatMap fun n =>
    if h.beginsLine agenda f n && (h.pipe n).line.lines != (h.pipe n).lines then h.lineEvents n (h.pipe n).line else []

/-- The display and the migration engine, which copies on (05 R150), as time passes. -/
def Hub.ticked (h : Hub) (agenda : List Instr) (f : Nat) : Hub :=
  { h with
    pipes := h.tickPipes agenda f
    latchUse := if h.hudFrame agenda f then h.latchNext else h.latchUse
    migrateDone := if h.migrating.isNone then h.migrateDone
      else min (Config.dramGroups * 512 / 65536) (h.migrateDone + Config.freeNat (f + 37) % 2) }

/-- A skid ends at its last instruction, or with its group; that of a blocked group ends at any time (05 R132). -/
def State.tickSkid (s : State) (i : Nat) : State :=
  let g := s.group i
  let cut (s : State) : State := (s.modGroup i fun g => g.withTrap fun t => { t with skid := t.skid.map fun e => (e.1, e.2.1, g.ctl.issued) }).skidEnd i
  if g.trap.skid.isEmpty || g.ctl.status == .free then s
  else if g.ctl.live = 0#32 then cut s
  else match g.ctl.status with
    | .blocked _ => if (s.free).1 % 2 = 0 then ((s.free).2).skidEnd i else cut (s.free).2
    | _ => s.skidEnd i

/-- TIME PASSES. -/
def State.tick (s : State) : State :=
  (List.range s.groups.length).foldl State.tickSkid
    { s with
      cells := s.cells.zipIdx.map s.tickCell
      groups := s.groups.map fun g => g.ticked (s.cellClocks g.loc.cell)
      hv := if s.hub.running then (s.hv + Config.freeNat (s.fresh + 32)) % 2 ^ 64 else s.hv
      hub := s.hub.ticked s.agenda s.fresh
      agenda := s.hub.tickEvents s.agenda s.fresh ++ s.agenda
      fresh := s.fresh + tickDraws }

end Sys2Proof.Machine
end

