-- ==== Sys2Proof/Machine/Issue.lean ====
section
/-! DEFINITION. How a group comes to its next instruction: the fetch of its clause, the checks and waits of the clause's
header, the reconvergence point, TIMER, and the decoding of the word (12 R313 to R318, R324 to R326; 11 R294, R295,
R299). -/
namespace Sys2Proof.Machine
open Sys2Proof

/-- What a turn comes to: an instruction to be run, or a state without one. -/
inductive Issue where
  | done (s : State)
  | run (i : Instr) (s : State)

/-! ### The clause (12 R313, R315, R317, R323) -/

/-- The engine class of a major; none for a neutral family and for a reserved one. -/
def engineClass (maj : Nat) : Option Nat :=
  if [0x00, 0x01, 0x02, 0x03, 0x04, 0x05, 0x06, 0x07, 0x08, 0x2A].contains maj then some 5
  else if maj = 0x09 then some 6
  else if [0x0A, 0x0C, 0x0D, 0x0E, 0x0F, 0x3F].contains maj then some 4
  else if maj = 0x0B ∨ (0x10 ≤ maj ∧ maj ≤ 0x1F) ∨ maj = 0x29 then some 0
  else if (0x30 ≤ maj ∧ maj ≤ 0x36) ∨ maj = 0x38 then some 1
  else if maj = 0x37 ∨ maj = 0x39 then some 2
  else if 0x3C ≤ maj ∧ maj ≤ 0x3E then some 3
  else .none

/-- A word is a defined instruction, as R315 tells them apart. -/
noncomputable def definedWord (w : Nat) : Bool :=
  (w == 0 || wordField w 31 21 != 0) && (match decodeWords w 0 with
    | .bad .reservedMajor => false
    | .bad .unassignedFn => false
    | _ => true)

/-- A transfer instruction (12 R314). R315 tells a defined instruction by its major and FN alone, so that RESUME is one
whatever its other fields hold. -/
def isTransfer (w : Nat) : Bool := wordField w 31 26 == 1 || wordField w 31 26 == 2 || wordField w 31 21 == 5

/-- Checks 1 to 4 of R315 on a clause. -/
noncomputable def Clause.sound (c : Clause) : Bool :=
  let h := (c.words.getD 0 0#32).toNat
  let count := h % 16
  let eng := bits h 6 4
  bits h 31 24 == 0xA5 && bits h 23 17 == 0
  && (bodyStarts c.words count 16 1).all fun i =>
    let w := (c.words.getD i 0#32).toNat
    !definedWord w
    || ((i + instrWords w ≤ count + 1) && (!isTransfer w || i == count)
        && (eng == 7 || w == 0 || (match engineClass (wordField w 31 26) with | some k => k == eng | .none => true)))

/-- The clause at an address as a quadrant's instruction cache gives it, its poisoned words read as ones (05 R131). -/
def State.clauseAt (s : State) (icache : List CacheSector) (ctx va pa : Nat) : Clause :=
  let bad (i : Nat) : Option Poison := (s.throughCache icache ctx (pa + 4 * i)).2
  let word (i : Nat) : Word := if (bad i).isSome then BitVec.allOnes 32
    else bytesWord ((List.range 4).map fun j => (s.throughCache icache ctx (pa + 4 * i + j)).1)
  let n := (word 0).toNat % 16 + 1
  { addr := BitVec.ofNat 64 va, words := (List.range n).map word, poison := (List.range n).map bad }

/-- The instruction cache of a group's quadrant. -/
def State.icacheOf (s : State) (g : Group) : List CacheSector := match s.quadOf g with | some q => q.icache | .none => []

/-- The start of the clause at which a group stands. -/
def Group.clauseStart (g : Group) : Nat := g.ctl.pc.toNat / 64 * 64

/-- FETCH the clause at which a group stands through its quadrant's instruction cache, which is filled from the home copy
(12 R326). -/
def State.fetchClause (s : State) (g : Group) : Except FaultInfo (Clause × State) :=
  let a : Acc := ⟨false, true, g.id.sys⟩
  match s.xlate g.loc.cell g.loc.quad g.id.ctx a g.clauseStart with
  | .error e => .error (.at e.code g.clauseStart (e.detail a))
  | .ok t =>
    let pa := t.phys g.clauseStart
    let c := s.clauseAt (s.icacheOf g) g.id.ctx g.clauseStart pa
    let (k, s1) := ((s.useG g g.clauseStart).hubUse false pa (4 * c.words.length)).free
    .ok (c, s1.modQuad g.loc.cell g.loc.quad fun q =>
      { q with icache := s1.cacheFill q.icache g.id.ctx ((List.range c.words.length).map fun i => pa + 4 * i) k })

/-! ### Before the instruction -/

/-- A fault of kind G at the place where a group stands. -/
def State.stopHere (s : State) (i : Nat) (f : FaultInfo) : State :=
  let g := s.group i
  s.takeFault i f g.ctl.act g.ctl.pc g.ctl.pc g.ctl.pc

/-- A group with parked lanes has reached its reconvergence point: the place at depth zero, or, about to run `ins`, the
end of the entry that was on top (11 R294). -/
def Group.reconverges (g : Group) (ends : Bool) : Bool :=
  (g.trap.pstate == .others || g.trap.pstate == .resumed) && (match g.trap.reconv with
    | [] => false
    | r :: _ => r.depth == g.ctl.stack.length && (if r.depth = 0 then g.ctl.pc == r.pc else ends))

/-- The instructions that close an entry of the mask stack. -/
def closesEntry : Instr → Bool
  | .endif => true
  | .endloop => true
  | .ret => true
  | _ => false

/-- A group stands at an instruction that has not begun before. -/
def State.atFresh (s : State) (i : Nat) (g : Group) : Bool :=
  !g.ctl.wakeHit && !g.ctl.drained && g.ctl.begun.isNone && !(s.window (s.partOf g) g.loc.cell).fifo.contains (.marker i)

/-- TIMER is due (11 R299), at an instruction that has not begun before. -/
def State.timerDue (s : State) (i : Nat) (g : Group) : Bool :=
  decide (g.sr.gtcmp ≠ 0) && decide (g.sr.gtcmp ≤ g.sr.gtimer) && s.atFresh i g

/-- A clock in which an instruction of a region issues on a cell is charged, once (06 R185). -/
def State.chargeIssue (s : State) (g : Group) : State :=
  let c := g.loc.cell
  s.modRegion (s.block g.id.block).region fun r =>
    if r.charged.contains (c, s.cyc c) then r
    else { r with charge := (c, r.chargeOn c + 1) :: r.charge.filter fun x => x.1 != c
                  charged := (c, s.cyc c) :: r.charged.filter fun x => x.1 != c }

/-- The end of a turn, from the state `s` before its instruction to the state `t` after it: an instruction that was
executed is charged, and the turn passes. -/
def State.endTurn (s t : State) (i : Nat) : State :=
  let t1 := if (t.group i).ctl.issued = (s.group i).ctl.issued then t else t.chargeIssue (s.group i)
  { t1 with turn := .none }

/-- The virtual and physical address of a word of a clause, for a record. -/
def State.wordAddr (s : State) (g : Group) (a : Nat) : Nat × Nat :=
  match s.xlate g.loc.cell g.loc.quad g.id.ctx ⟨false, true, g.id.sys⟩ a with
  | .ok t => (a, t.phys a)
  | .error _ => (a, 0)

/-- ISSUE the word at which a group stands in its clause. -/
noncomputable def State.issueWord (s : State) (i : Nat) (c : Clause) : Issue :=
  let g := s.group i
  let idx := (g.ctl.pc - c.addr).toNat / 4
  match g.trap.atNext with
  | some f => .done ((s.modGroup i fun g => g.withTrap fun t => { t with atNext := .none }).stopHere i f)
  | .none =>
    if s.timerDue i g then .done (s.stopHere i (.at 0x1C (g.sr.gtimer % 2 ^ 48) 0))
    else
      let w := (c.words.getD idx 0#32).toNat
      let n := instrWords w
      let a := g.ctl.pc.toNat
      -- an extension word past the body is not fetched: its value is open (12 R314)
      let (x, s0) : Nat × State := if n = 2 ∧ c.words.length ≤ idx + 1 then ((s.free).1 % 2 ^ 32, (s.free).2)
        else ((c.words.getD (idx + 1) 0#32).toNat, s)
      match c.poison.getD idx .none with
      | some p => .done ((s.consume i p a (s.wordAddr g a).2).stopHere i (.here 0x01 0))
      | .none => match decodeWords w x with
        | .bad _ => .done (s0.stopHere i (.here 0x01 0))
        | .instr ins _ =>
          if g.reconverges (closesEntry ins) then .done (s.modGroup i fun g => g.atReconv (s.now g))
          else match if n = 2 then c.poison.getD (idx + 1) .none else .none with
            -- a poisoned extension word is consumed, once, and read as ones
            | some p => .run ins ((s0.consume i p (a + 4) (s.wordAddr g (a + 4)).2).modGroup i fun g => g.withCtl fun x =>
                { x with clause := some { c with poison := c.poison.set (idx + 1) .none } })
            | .none => .run ins s0

/-- The header's waits (12 R316): the register results, the counters. -/
def Group.headerWaits (g : Group) (h : Nat) : Bool :=
  (bit h 16 && !g.regs.pend.isEmpty)
  || (List.range 4).any fun c => bit h (8 + c) && decide (bits h 15 12 < g.asy.cnt.getD c 0)

/-- ENTER a clause at its header, or go on in its body (12 R314 to R318). -/
noncomputable def State.issueClause (s : State) (i : Nat) (c : Clause) : Issue :=
  let g := s.group i
  if g.ctl.pc ≠ c.addr then s.issueWord i c
  else
    let h := (c.words.getD 0 0#32).toNat
    if !c.sound || decide (24 < g.ctl.runCount + h % 16) then
      let s0 := match c.poison.head?.join with
        | some p => s.consume i p c.addr.toNat (s.wordAddr g c.addr.toNat).2
        | .none => s
      .done (s0.stopHere i (.at 0x03 c.addr.toNat 0))
    else if g.headerWaits h then .done (s.modGroup i Group.holdHere)
    else if h % 16 = 0 then
      .done (s.modGroup i fun g =>
        let g1 := g.withCtl fun x => { x with pc := c.addr + 64#64, clause := .none, heldClocks := 0 }
        if bit h 7 then g1.endRun (s.now g) else g1)
    else (s.modGroup i fun g => g.withCtl fun x => { x with pc := c.addr + 4#64, heldClocks := 0 }).issueWord i c

/-- The turn of a group: what it does next. -/
noncomputable def State.issue (s : State) (i : Nat) : Issue :=
  let g := s.group i
  if !(g.ctl.status == .running || g.ctl.status == .held) || !s.mayIssue g then .done s
  else match g.trap.callee with
    | some (f, pc, skid) => .done (s.calleeReturn i f pc skid)
    | .none =>
      let s1 := s.modGroup i fun g => g.withCtl fun c => { c with status := .running }
      if g.reconverges false then .done (s1.modGroup i fun g => g.atReconv (s.now g))
      else if g.id.role == .matrix && g.sliceDue && s.atFresh i g then .done (s1.modGroup i Group.waitKstep)
      else match g.ctl.clause with
        | some c => s1.issueClause i c
        | .none => match s1.fetchClause g with
          | .error f => .done (s1.stopHere i f)
          | .ok (c, s2) => (s2.modGroup i fun g => g.withCtl fun x => { x with clause := some c }).issueClause i c

end Sys2Proof.Machine
end

