-- ==== Sys2Proof/Machine/Units.lean ====
section
/-! DEFINITION. Whose request goes next: the shared units of a cell (03 R76) and the channel controllers (03 R100). Uncorrectable
errors in the memories, as they arise (01 R30; 05 R130). -/
namespace Sys2Proof.Machine
open Sys2Proof

/-! ### The shared units of a cell (03 R76) -/

/-- A request that waits for a unit's grant: its place in its list, its partition, and the partition's weight. -/
structure Waiting where
  place : Nat
  part : Nat
  weight : Nat

/-- A group's request, weighted by what its partition holds in the group's cell. -/
def State.waiting (s : State) (k i : Nat) : Waiting :=
  let g := s.group i
  ⟨k, s.partOf g, (s.heldQuads (s.partOf g) g.loc.cell).length⟩

/-- The requests of a list that wait, as `f` tells the group of each that does. -/
def State.waitingIn {α : Type} (s : State) (l : List α) (f : α → Option Nat) : List Waiting :=
  l.zipIdx.filterMap fun x => (f x.1).map (s.waiting x.2)

/-- The requests that wait at a unit of a cell: 0 texture unit, 1 intersection unit, 2 regrouping unit, 3 message endpoint, 4
service sub-core. -/
def State.waitingAt (s : State) (u c : Nat) : List Waiting :=
  let at' (granted : Bool) (i cell : Nat) : Option Nat := if !granted && cell == c then some i else .none
  match u with
  | 0 => s.waitingIn s.texs fun x => at' x.granted x.group (s.group x.group).loc.cell
  | 1 => s.waitingIn s.traces fun x => at' x.granted x.group x.cell
  | 2 => s.waitingIn s.contWrites fun x => at' x.granted x.ref.group x.ref.cell
  | 3 => s.waitingIn s.msgs fun x => at' x.granted x.group (s.group x.group).loc.cell
  | _ => s.waitingIn s.atoms fun x => at' x.granted x.group x.serve

/-- The next grant in weighted round robin: the partition whose turn it is while it has a request and grants left, else the
next one that has a request, with a turn of its weight. -/
def UnitTurn.next (t : UnitTurn) (l : List Waiting) : Option (UnitTurn × Nat) :=
  let pass := ((List.range 16).map fun j => (t.part + 1 + j) % 16).findSome? fun p =>
    (l.find? fun w => w.part == p).map fun w => ((⟨p, w.weight - 1⟩ : UnitTurn), w.place)
  match l.find? fun w => w.part == t.part with
  | some w => if 0 < t.left then some (⟨t.part, t.left - 1⟩, w.place) else pass
  | .none => pass

/-- A request is granted. -/
def State.grantRequest (s : State) (u k : Nat) : State :=
  match u with
  | 0 => { s with texs := modifyAt s.texs k fun x => { x with granted := true } }
  | 1 => { s with traces := modifyAt s.traces k fun x => { x with granted := true } }
  | 2 => { s with contWrites := modifyAt s.contWrites k fun x => { x with granted := true } }
  | 3 => { s with msgs := modifyAt s.msgs k fun x => { x with granted := true } }
  | _ => { s with atoms := modifyAt s.atoms k fun x => { x with granted := true } }

/-- A unit of a cell grants its next request. -/
def State.grantUnit (s : State) (u c : Nat) : State :=
  match (((s.cells[c]?).bind fun x => x.turns[u]?).getD ⟨0, 0⟩).next (s.waitingAt u c) with
  | some (t, k) => (s.grantRequest u k).modCell c fun x => { x with turns := modifyAt x.turns u fun _ => t }
  | .none => s

/-! ### The channels (03 R100) -/

/-- A running migration takes slots of a logical channel (05 R150). -/
def Hub.migrates (h : Hub) (ch : Nat) : Bool := match h.migrating with
  | some (old, _) => h.chanMap.getD ch .none == some old
  | .none => false

/-- The channels that have something to grant. -/
def State.busyChannels (s : State) : List Nat :=
  (List.range 24).filter fun ch => !((s.hubc.chans[ch]?).map (·.queue) |>.getD []).isEmpty || s.hub.migrates ch

/-- A channel grants a slot: one of those it may grant next. -/
def State.grantSlot (s : State) (ch k : Nat) : State :=
  match s.hubc.chans[ch]? with
  | .none => s
  | some c =>
    let l := c.grants (s.hub.migrates ch)
    { s with hubc := { s.hubc with chans := modifyAt s.hubc.chans ch fun c => c.grant s.hub.classBw (l.getD (k % max 1 l.length) .pass) } }

/-! ### Uncorrectable errors as they arise (01 R30; 05 R130) -/

/-- An uncorrectable error in the home copy at an address: in its hub-cache line where it stands in one, else in the codeword
of the channel, both sectors of it. -/
def State.upsetHome (s : State) (pa : Nat) : State :=
  let mark (a : Nat) (p : Poison) (l : Poisons) : Poisons := (a, p) :: l.filter fun x => x.1 != a
  match s.hubc.lines.find? fun x => x.line == pa / 128 && bit x.valid (pa % 128 / 32) with
  | some x =>
    { s with memPoison := mark (pa / 32 * 32) ⟨1, (s.hub.wayMap.getD x.way .none).getD 0⟩ s.memPoison }
  | .none =>
    let p : Poison := ⟨0, (s.hub.chanMap.getD (logicalChannel pa) .none).getD 0⟩
    { s with memPoison := mark (pa / 64 * 64 + 32) p (mark (pa / 64 * 64) p s.memPoison) }

/-- An uncorrectable error in one of the memories, which one and where by free numbers: the home copy, a window of the cell
store, a cell cache, an entry of a register, a counting board, a palette, an instruction cache. -/
def State.upset (s : State) : State :=
  let (kind, s1) := s.free
  let (a, s2) := s1.free
  let (b, s3) := s2.free
  let window (f : Window → Window) : State := { s3 with windows := modifyAt s3.windows (b % max 1 s3.windows.length) f }
  let quad (f : Nat → Quad → Quad) : State := s3.modQuad (b / 4 % 32) (b % 4) (f (b % 4))
  let sector (p : Nat) (x : Nat) : Nat × Poison := (x / 32 * 32, ⟨p, b % 4⟩)
  match kind % 7 with
  | 0 => s3.upsetHome (a % dataEnd)
  | 1 => window fun w => { w with poison := sector 2 (a % 0x600000) :: w.poison.filter fun x => x.1 != a % 0x600000 / 32 * 32 }
  | 2 => window fun w => match w.lines[a % max 1 w.lines.length]? with
      | .none => w
      | some y =>
        let o := 128 * y.line + a % 4 * 32
        { w with cachePoison := (o, ⟨3, b % 4⟩) :: w.cachePoison.filter fun x => x.1 != o }
  | 3 =>
    let i := b % max 1 s3.groups.length
    if (s3.group i).inSlot then
      s3.modGroup i fun g => g.withRegs fun r => { r with v := modifyAt r.v (a / 32 % max 1 r.v.length) fun x =>
        { x with poison := some (a % 32, ⟨4, g.loc.quad⟩) } }
    else s3
  | 4 => quad fun q x => { x with boardPoison := (a % 32768, ⟨5, q⟩) :: x.boardPoison.filter fun y => y.1 != a % 32768 }
  | 5 => quad fun q x => { x with palPoison := (a % 65536 / 32 * 32, ⟨6, q⟩) :: x.palPoison.filter fun y => y.1 != a % 65536 / 32 * 32 }
  | _ => quad fun q x => { x with icache := modifyAt x.icache (a % max 1 x.icache.length) fun y => { y with poison := some ⟨10, q⟩ } }

end Sys2Proof.Machine
end

