-- ==== Sys2Proof/Machine/Choose.lean ====
section
/-! DEFINITION. What the device may do next of its own: the turns of its groups and the completions, waits, placements
and transitions that are under way. The spec orders few of them, so that the next one is a free choice among all
(assumption 5); what comes from the outside (the host, the board, the links, the sensors) stands in the agenda. -/
namespace Sys2Proof.Machine
open Sys2Proof

/-- One thing that may happen next. -/
inductive Choice where
  | turn (i : Nat)
  | event (i : Instr)
  /-- a shared unit of a cell grants a request (03 R76) -/
  | grant (u c : Nat)
  /-- a channel grants a slot, by a free number one of those it may grant (03 R100) -/
  | slot (ch k : Nat)
  /-- an uncorrectable error arises in a memory (01 R30) -/
  | upset
  /-- the I3C controller starts or ends a transfer (01 R35) -/
  | i3cController
  /-- the bus controller assigns the I3C target's dynamic address (01 R34) -/
  | i3cAddress (a : Nat)
  /-- a COMMIT or INV_CTX that waited for accesses in flight ends (03 R97) -/
  | invalidated
  deriving DecidableEq, Repr

/-- What a happening that is neither an event of the table nor a group's turn does. -/
def State.internal (s : State) : Choice → State
  | .grant u c => s.grantUnit u c
  | .slot ch k => s.grantSlot ch k
  | .upset => s.upset
  | .i3cController => s.i3cTransfer
  | .i3cAddress a => s.withHub fun h => { h with i3cAddr := some a }
  | .invalidated => s.invDone
  | .turn _ => s
  | .event _ => s

/-- The choices of a list of numbers. -/
def evs (l : List Nat) (f : Nat → Instr) : List Choice := l.map fun n => .event (f n)

/-- The numbers of the entries of a list that satisfy a condition. -/
def places {α : Type} (l : List α) (p : α → Bool) : List Nat := (l.zipIdx.filter fun x => p x.1).map (·.2)

/-- How a blocked group may be woken. -/
def State.wakeChoices (s : State) (i : Nat) : List Choice := match (s.group i).ctl.status with
  | .blocked (.fill _) => [.event (.lineFillReturn i)]
  | .blocked (.sleep _ _ _) => [.event (.sleepExpiry i), .event (.groupWake i)]
  | .blocked .waitc => [.event (.monitorMatch i), .event (.monitorPoll i), .event (.groupWake i)]
  | _ => [.event (.groupWake i)]

/-- What may happen to a group. -/
def State.groupChoices (s : State) (i : Nat) : List Choice :=
  let g := s.group i
  let st := g.ctl.status
  (if (st == .running || st == .held) && s.mayIssue g then [Choice.turn i] else [])
  ++ (match st with
    | .blocked _ => if s.leaving g.id.block then [] else s.wakeChoices i
    | .held => [.event (.releaseDrainComplete i), .event (.watchdogExpiry i)]
    | .ended => [.event (.groupSlotRelease i)]
    | .endedTail => [.event (.groupSlotRelease i)]
    | .tracked => [.event (.trackerEntryFree i)]
    | _ => [])
  ++ (if g.mons.any (·.polled) then [.event (.monitorPoll i)] else [])
  ++ (if g.asy.gates.isEmpty then [] else [.event (.gateBudgetExpiry i)])
  ++ (if g.mat.queue.isEmpty then [] else [.event (.kstep i), .event (.matrixOpComplete i)])
  ++ evs (places g.regs.pend (·.ready)) (.resultLanding i)

/-- What may happen on a cell: arbitration, relaunch, hod operations, self-tests. -/
def State.cellChoices (s : State) (k c : Nat) : List Choice :=
  match s.cells[c]? with
  | .none => []
  | some x =>
    ((List.range 36).filter fun u => (s.chosen c u).isSome).map (fun u => .event (.arbitration c u))
    ++ (if x.index.isEmpty then [] else [.event (.regroupRelaunch c)])
    ++ x.quads.zipIdx.flatMap fun (y, q) =>
      evs (List.range y.hod.length) (.hodOpComplete c q)
      ++ (if y.testing then [.event (.beadSelfTestEnd c q (k % 2))]
          else if x.power == CellPower.act && decide (testPeriod ≤ y.testClock) then [.event (.beadSelfTestStart c q), .event (.beadSelfTestOverdue c q)]
          else [])

/-- What may happen to a pass and its tiles. -/
def State.passChoices (k n : Nat) (p : Pass) : List Choice :=
  [.event (.forcedRender n)] ++ evs ((p.tiles.filter fun t => t.cur.isSome).map (·.tile)) (.ticketDone n)
  ++ (if p.render.isSome then evs ((p.tiles.filter fun t => t.mem.isSome).map (·.tile)) (.tileFlush n) else [])
  ++ (if p.closed then [.event (.tileStore n (k % max 1 (p.tw * p.th)))] else [])

/-- What may happen at the scheduler: placement, eviction, slices, the ends of regions, rollbacks, posted entries. -/
def State.schedChoices (s : State) : List Choice :=
  (s.hub.fns.zipIdx.flatMap fun (f, n) => evs (places f.queue fun q => !q.isEmpty) (.postTake n))
  ++ (if s.regions.any fun r => !r.complete then evs (List.range 16) .blockPlace else [])
  ++ evs (places s.blocks fun b => b.resident && !b.retired) .blockEvict
  ++ evs (places s.blocks (·.rollPending)) .rollback
  ++ evs (places s.regions fun r => !r.complete) .regionComplete
  ++ s.regions.zipIdx.flatMap fun (r, n) =>
    if r.complete then [] else evs ((List.range 32).filter fun c => s.regionOn n c || r.sliceEnded.contains c) (.sliceEnd n)

/-- What is outstanding at the memory and the units. -/
def State.unitChoices (s : State) (k : Nat) : List Choice :=
  evs (places s.atoms fun a => a.granted && a.reply.isNone) .atomicPerform ++ evs (places s.atoms (·.reply.isSome)) .atomReply
  ++ evs (places s.msgs (·.granted)) .msgDeliver ++ evs (places s.texs (·.granted)) .texComplete
  ++ evs (places s.traces (·.granted)) .traceComplete ++ evs (places s.contWrites (·.granted)) .contResultWrite
  ++ (List.range 32).flatMap (fun c => (List.range 5).filterMap fun u =>
      if (s.waitingAt u c).isEmpty then .none else some (.grant u c))
  ++ s.busyChannels.map (fun ch => .slot ch k)
  ++ s.passes.zipIdx.flatMap (fun (p, n) => State.passChoices k n p)

/-- A walk that has a walker may complete (08 R241). -/
def State.walkChoices (s : State) : List Choice :=
  s.panes.flatMap fun p => (p.walks.take walkers).map fun w => .event (.tlbWalkComplete w.cell w.quad w.ctx w.va)

/-- What may happen at the hub: commands, rungs, coats, quarantine, tell-tales, spares, the hold-up save. -/
def Hub.choices (h : Hub) (k : Nat) : List Choice :=
  (if h.i3cBusy || h.armI3c then [.i3cController] else [])
  ++ (if h.i3cAddr.isNone then [.i3cAddress (8 + k % 118)] else [])
  ++ (if h.inval.isEmpty then [] else [.invalidated])
  ++ (if h.power.cmd.isSome then [.event (.powerCmdComplete 0), .event (.powerCmdComplete 1)] else [])
  ++ evs (List.range h.recarves.length) .shrinkComplete ++ evs (List.range h.recarves.length) .deferredLaunchEviction
  ++ evs (List.range h.rungs.length) .rungComplete ++ evs (List.range h.rungs.length) .rungTimeout
  ++ evs (places h.coats fun c => c.done && !c.signed && !c.late) .coatSign
  ++ evs (List.range 4) .paneSelfTestStart ++ (evs (places h.quar (·.running)) fun p => .paneSelfTestEnd p (k % 512))
  ++ (if h.ttCmd.isSome then [.event .telltaleCopyComplete] else [])
  ++ (if h.spare.cmd.isSome then [.event (.spareCmdComplete (k % 16))] else [])
  ++ (if h.migrating.isSome then [.event .channelMigrationComplete] else [])
  ++ (if h.keepCmd.isSome then [.event .keepCmdComplete] else [])
  ++ (match h.save with
    | some v => evs (List.range v.handlers.length) .handlerBudgetExpiry ++ [.event .holdupSaveComplete]
    | .none => [])

/-- Everything that may happen next; `k` is a free number for what the spec leaves open in it. While SYSCLK is lost
only the hub's own logic runs (01 R17); in D-HOLD only the always-on logic (02 R57). -/
def State.choices (s : State) (k : Nat) : List Choice :=
  (if s.hub.running then
    (List.range s.groups.length).flatMap s.groupChoices ++ (List.range 32).flatMap (s.cellChoices k)
    ++ s.unitChoices k ++ s.walkChoices ++ s.schedChoices
  else [])
  ++ (if s.hub.dstate = 2 then [] else [.upset])
  ++ s.hub.choices k

/-- A choice of a list by a free number, one alone being taken as it is. -/
def State.choose (s : State) : List Choice → Option Choice × State
  | [] => (.none, s)
  | [x] => (some x, s)
  | l => (l[(s.free).1 % l.length]?, (s.free).2)

/-- The first deferred command whose launch is all at blocking points: its eviction begins at that instant (03 R92). -/
def State.dueEviction (s : State) : Option Nat := (places s.hub.recarves s.launchBlocked).head?

/-- WHAT HAPPENS NEXT where no turn is taken and nothing stands in the agenda. -/
def State.next (s : State) : Option Choice × State :=
  match s.dueEviction with
  | some k => (some (.event (.deferredLaunchEviction k)), s)
  | .none =>
    let (k, s1) := s.free
    s1.choose (s1.choices k)

end Sys2Proof.Machine
end

