-- ==== Sys2Proof/Machine/Vec.lean ====
section
/-! DEFINITION. What the vector families share: their checks, a result in each active lane, the masks that
compares write, floating-point results with their flags, and draws for stochastic rounding (14 R369 to
R374, 10 R277 to R279). -/
namespace Sys2Proof.Machine
open Sys2Proof

/-- The words of an instruction that carries an EL word exactly when a source holds code 124 (14 R371). -/
def litWords (codes : List (BitVec 7)) : Nat := if codes.contains 124#7 then 2 else 1

/-- A destination register and its source codes, EL marked. -/
def vecL (d : BitVec 7) (srcs : List (BitVec 7)) : Info :=
  ⟨.vec, litWords srcs, .vdst d.toNat 1 1 :: srcs.map fun c => .vsrc c.toNat true⟩
/-- The same with an EO word, further sources in it. -/
def vecE (d : BitVec 7) (srcs : List (BitVec 7)) (more : List Chk) : Info :=
  ⟨.vec, 2, .vdst d.toNat 1 1 :: (srcs.map fun c => .vsrc c.toNat false) ++ more⟩
/-- The same without an extension word. -/
def vecN (d : BitVec 7) (srcs : List (BitVec 7)) : Info :=
  ⟨.vec, 1, .vdst d.toNat 1 1 :: srcs.map fun c => .vsrc c.toNat false⟩

/-- One source. -/
def vec1 (r : ShapeRule) (op : Word → Word) (p : Info) (d a : BitVec 7) (lit : Word) (s : State) :
    Host.Outcome State Fault Refusal :=
  runIsa p (own fun g => g.put d.toNat r [g.opVal a.toNat lit] fun l => op (g.opLane a.toNat lit l)) s

/-- Two sources. -/
def vec2 (r : ShapeRule) (op : Word → Word → Word) (p : Info) (d a b : BitVec 7) (lit : Word) (s : State) :
    Host.Outcome State Fault Refusal :=
  runIsa p (own fun g => g.put d.toNat r [g.opVal a.toNat lit, g.opVal b.toNat lit] fun l =>
    op (g.opLane a.toNat lit l) (g.opLane b.toNat lit l)) s

/-- Three sources; none of them a literal. -/
def vec3 (r : ShapeRule) (op : Word → Word → Word → Word) (p : Info) (d a b c : BitVec 7) (s : State) :
    Host.Outcome State Fault Refusal :=
  runIsa p (own fun g =>
    g.put d.toNat r [g.opVal a.toNat 0#32, g.opVal b.toNat 0#32, g.opVal c.toNat 0#32] fun l =>
      op (g.opLane a.toNat 0#32 l) (g.opLane b.toNat 0#32 l) (g.opLane c.toNat 0#32 l)) s

/-- A compare: the mask's bits of the active lanes (14 R373, R380, R385). -/
def cmpInfo (k : BitVec 3) (a b : BitVec 7) : Info :=
  ⟨.vec, litWords [a, b], [.kdst k.toNat, .vsrc a.toNat true, .vsrc b.toNat true]⟩

/-- An integer as a word, modulo 2^32. -/
def wordOf (x : Int) : Word := BitVec.ofInt 32 x

/-! ### Floating-point results -/

/-- The end of an instruction that raises flags in its lanes: the flags go to sr.fpstat, and the lanes with
an enabled flag take FP_EXCEPTION after it (14 R374). -/
def fpEnd (s : State) (i : Nat) (g : Group) (fl : Nat → FFlags) : Res :=
  let s1 := s.setGroup i (g.raiseFlags fl)
  let m := g.excLanes fl
  if m = 0#32 then .done s1 else .after s1 (.here 0x0F (g.excDetail fl)) m

/-- The FP32 element of each operand word, or both its FP16 elements (10 R273, 14 R383). -/
def fpElems (packed : Bool) (op : FFmt → List Nat → Nat × FFlags) (xs : List Word) : Word × FFlags :=
  if packed then
    let lo := op fp16 (xs.map fun x => x.toNat % 65536)
    let hi := op fp16 (xs.map fun x => x.toNat / 65536)
    (BitVec.ofNat 32 (lo.1 % 65536 + 65536 * hi.1), lo.2 ||| hi.2)
  else
    let r := op fp32 (xs.map (·.toNat))
    (BitVec.ofNat 32 r.1, r.2)

/-- A floating-point instruction over operands given as a value and a function of the lane. -/
def fpRun (p : Info) (d : BitVec 7) (general : Bool) (srcs : Group → List (VVal × (Nat → Word)))
    (op : List Word → Word × FFlags) (s : State) : Host.Outcome State Fault Refusal :=
  runIsa p (fun s i g =>
    let xs := srcs g
    let res (l : Nat) : Word × FFlags := op (xs.map fun x => x.2 l)
    fpEnd s i (g.put d.toNat (if general then .general else .plain) (xs.map (·.1)) fun l => (res l).1)
      fun l => (res l).2) s

/-- A vector source as fpRun takes it. -/
def Group.src (g : Group) (c : BitVec 7) (lit : Word) : VVal × (Nat → Word) :=
  (g.opVal c.toNat lit, g.opLane c.toNat lit)
/-- A register as fpRun takes it. -/
def Group.srcReg (g : Group) (n : BitVec 7) : VVal × (Nat → Word) := ((g.vreg n.toNat).val, g.vlane n.toNat)

/-- A conversion whose rounding may draw (10 R274, R279; 14 R389): `n` draws a lane under SR, and the result
of a lane from its operand words, the rounding code and its draws. -/
def drawRun (p : Info) (d : BitVec 7) (rm : Group → Nat) (n : Nat) (sat : Bool)
    (srcs : Group → List (VVal × (Nat → Word)))
    (op : Nat → List Nat → List Word → Word × FFlags) (s : State) : Host.Outcome State Fault Refusal :=
  runIsa p (fun s i g =>
    let m := rm g
    let sr := m == 2
    let xs := srcs g
    let res (l : Nat) : Word × FFlags :=
      op m (if sr then (drawMany n (g.genOf l)).2 else []) (xs.map fun x => x.2 l)
    let g1 := g.put d.toNat (if sr || sat then .general else .plain) (xs.map (·.1)) fun l => (res l).1
    fpEnd s i (if sr then g1.advanceGen g.ctl.act n else g1) fun l => (res l).2) s

end Sys2Proof.Machine
end

