-- ==== Sys2Proof/Machine/Convert.lean ====
section
/-! DEFINITION. Conversions, rounding to integral values, packing and unpacking, and quantising: majors
0x1C and 0x1D (14 R388 to R394). -/
namespace Sys2Proof.Machine
open Sys2Proof

/-- Element `i` of a word, for elements of `w` bits (10 R273). -/
def elemOf (w : Nat) (x : Word) (i : Nat) : Nat := x.toNat / 2 ^ (w * i) % 2 ^ w

/-- The result of CVT in its register: INT8 and INT4 sign-extended, other narrow results zero-extended. -/
def widen (fmt code : Nat) : Word :=
  if fmt = 6 then wordOf (signedOf 8 code) else if fmt = 7 then wordOf (signedOf 4 code) else BitVec.ofNat 32 code

/-- CVT (14 R388, R389). -/
def execCvt (d a : BitVec 7) (el : BitVec 3) (sf : BitVec 4) (sat : BitVec 1) (rm : BitVec 2) (df : BitVec 4)
    (s : State) : Host.Outcome State Fault Refusal :=
  let w := fmtWidth sf.toNat
  drawRun ⟨.vec, 2, [.vdst d.toNat 1 1, .vsrc a.toNat false,
      .cond (decide (el.toNat * w + w ≤ 32)) (el.toNat * 16 + sf.toNat)]⟩
    d (fun g => g.rmodeCode rm.toNat) 1 (sat == 1#1) (fun g => [g.src a 0#32])
    (fun m ds xs =>
      let (c, fl) := convert sf.toNat df.toNat (rmodeOf m (ds.headD 0)) (sat == 1#1)
        (elemOf w (xs.headD 0#32) el.toNat)
      (widen df.toNat c, fl)) s

/-- The rounding direction of FRND's MODE after DYN is resolved, with a draw. -/
def frndMode (m draw : Nat) : RMode :=
  match m with
  | 1 => .rtz
  | 2 => .dn
  | 3 => .up
  | 4 => .sr draw
  | _ => .rne

/-- FRND (14 R390). MODE 5 takes the mode field of sr.fpctl, in which 2 is stochastic. -/
def execFrnd (d a : BitVec 7) (p : BitVec 1) (m : BitVec 3) (lit : Word) (s : State) :
    Host.Outcome State Fault Refusal :=
  -- code 2 of drawRun's rounding code is stochastic; 10 stands for toward minus infinity
  let code (g : Group) : Nat :=
    match m.toNat with
    | 2 => 10
    | 3 => 3
    | 4 => 2
    | 5 => g.rmodeCode 3
    | n => n
  let dir (c draw : Nat) : RMode := frndMode (if c = 10 then 2 else if c = 2 then 4 else c) draw
  drawRun (vecL d [a]) d code (if p == 1#1 then 2 else 1) false (fun g => [g.src a lit])
    (fun c ds xs =>
      let x := (xs.headD 0#32).toNat
      if p == 1#1 then
        let lo := fRound fp16 (dir c (ds.getD 0 0)) (x % 65536)
        let hi := fRound fp16 (dir c (ds.getD 1 0)) (x / 65536)
        (BitVec.ofNat 32 (lo.1 + 65536 * hi.1), lo.2 ||| hi.2)
      else
        let r := fRound fp32 (dir c (ds.getD 0 0)) x
        (BitVec.ofNat 32 r.1, r.2)) s

/-! ### Packing (14 R391 to R393) -/

/-- A word with elements `2p` and `2p + 1` of width `w` replaced. -/
def replacePair (w : Nat) (x : Word) (p e0 e1 : Nat) : Word :=
  BitVec.ofNat 32 (putBits (putBits x.toNat (2 * p * w + w - 1) (2 * p * w) e0)
    ((2 * p + 1) * w + w - 1) ((2 * p + 1) * w) e1)

/-- CVT.PKn: a word of `n` elements; the others of the old value are kept, so that it is a source where
there are others. -/
def packRun (n p : Nat) (d a b : BitVec 7) (sat : BitVec 1) (rm : BitVec 2) (df : BitVec 4) (s : State) :
    Host.Outcome State Fault Refusal :=
  let keeps := decide (n ≠ 2)
  drawRun ⟨.vec, 2, [.vdst d.toNat 1 1] ++ (if keeps then [.vgrp d.toNat 1 1] else [])
      ++ [.vsrc a.toNat false, .vsrc b.toNat false]⟩
    d (fun g => g.rmodeCode rm.toNat) 2 (sat == 1#1)
    (fun g => [g.src a 0#32, g.src b 0#32] ++ (if keeps then [g.srcReg d] else []))
    (fun m ds xs =>
      let e0 := convert 0 df.toNat (rmodeOf m (ds.getD 0 0)) (sat == 1#1) (xs.getD 0 0#32).toNat
      let e1 := convert 0 df.toNat (rmodeOf m (ds.getD 1 0)) (sat == 1#1) (xs.getD 1 0#32).toNat
      (replacePair (32 / n) (xs.getD 2 0#32) p e0.1 e1.1, e0.2 ||| e1.2)) s
def execCvtPk2 (d a b : BitVec 7) (sat : BitVec 1) (rm : BitVec 2) (df : BitVec 4) (s : State) :
    Host.Outcome State Fault Refusal := packRun 2 0 d a b sat rm df s
def execCvtPk4 (p : BitVec 1) (d a b : BitVec 7) (sat : BitVec 1) (rm : BitVec 2) (df : BitVec 4) (s : State) :
    Host.Outcome State Fault Refusal := packRun 4 p.toNat d a b sat rm df s
def execCvtPk8 (p : BitVec 2) (d a b : BitVec 7) (sat : BitVec 1) (rm : BitVec 2) (df : BitVec 4) (s : State) :
    Host.Outcome State Fault Refusal := packRun 8 p.toNat d a b sat rm df s

/-- CVT.UNPKn: one element times its scale, rounded to FP32 (14 R393, 10 R282). -/
def unpackRun (n e : Nat) (d a b : BitVec 7) (sc : BitVec 2) (sf : BitVec 4) (s : State) :
    Host.Outcome State Fault Refusal :=
  let srcs := if sc = 0#2 then [a] else [a, b]
  fpRun (vecE d srcs []) d false (fun g => srcs.map fun c => g.src c 0#32)
    (fun xs =>
      let v := elemVal sf.toNat (elemOf (32 / n) (xs.getD 0 0#32) e)
      let r := fp32.deliver .rne false (scaled v (scaleOf sc.toNat (xs.getD 1 0#32).toNat) 0).exact
      (BitVec.ofNat 32 r.1, r.2)) s
def execCvtUnpk2 (e : BitVec 1) (d a b : BitVec 7) (sc : BitVec 2) (sf : BitVec 4) (s : State) :
    Host.Outcome State Fault Refusal := unpackRun 2 e.toNat d a b sc sf s
def execCvtUnpk4 (e : BitVec 2) (d a b : BitVec 7) (sc : BitVec 2) (sf : BitVec 4) (s : State) :
    Host.Outcome State Fault Refusal := unpackRun 4 e.toNat d a b sc sf s
def execCvtUnpk8 (e : BitVec 3) (d a b : BitVec 7) (sc : BitVec 2) (sf : BitVec 4) (s : State) :
    Host.Outcome State Fault Refusal := unpackRun 8 e.toNat d a b sc sf s

/-! ### Quantising (14 R394; 10 R288, R289) -/

/-- The members of a lane's block: its active lanes. -/
def Group.blockLanes (g : Group) (b32 : Bool) (l : Nat) : List Nat :=
  g.ctl.act.toList.filter fun m => b32 || m / 16 == l / 16

def execQuantBlk (d a b : BitVec 7) (blk sm : BitVec 1) (rm : BitVec 2) (tf : BitVec 4) (s : State) :
    Host.Outcome State Fault Refusal :=
  runIsa ⟨.vec, 2, [.vdst d.toNat 1 1, .vsrc a.toNat false,
      .cond (decide (112 ≤ b.toNat ∧ b.toNat < 120)) b.toNat]⟩ (fun s i g =>
    let sfmt := if sm == 1#1 then 2 else 1
    let off := signedOf 8 (g.opLane b.toNat 0#32 0).toNat
    let m := g.rmodeCode rm.toNat
    let val (l : Nat) : FVal := fp32.decode (g.opLane a.toNat 0#32 l).toNat
    let hasNaN (l : Nat) : Bool := (g.blockLanes (blk == 1#1) l).any fun j => (val j).isNaN
    let res (l : Nat) : Word × FFlags :=
      if hasNaN l then (BitVec.ofNat 32 ((if sfmt = 1 then 0xFF else 0x7F) * 2 ^ 24), fIO)
      else
        let code := chooseScale tf.toNat sfmt off (blockMax ((g.blockLanes (blk == 1#1) l).map val))
        let draws := (drawMany 1 (g.genOf l)).2
        let (c, fl) := quantElem tf.toNat (rmodeOf m (draws.headD 0)) (val l) (scaleOf sfmt code) off
        (BitVec.ofNat 32 (code * 2 ^ 24 + c), fl)
    let g1 := g.put d.toNat (if m = 2 then .general else .plain) [g.opVal a.toNat 0#32] fun l => (res l).1
    let drawn := Lanes.ofFn 32 fun l => decide (m = 2) && g.ctl.act.has l && !hasNaN l
    fpEnd s i (g1.advanceGen drawn 1) fun l => (res l).2) s

end Sys2Proof.Machine
end

