-- ==== Sys2Proof/Machine/IntArith.lean ====
section
/-! DEFINITION. Integer arithmetic, logic, shifts, minima and maxima, compares, bit operations and
immediates: majors 0x10 to 0x17 (14 R376 to R382). -/
namespace Sys2Proof.Machine
open Sys2Proof

/-! ### The results of one lane -/

def satS (x : Int) : Word := wordOf (satInt x (-2147483648) 2147483647)
def satU (x : Int) : Word := wordOf (satInt x 0 4294967295)
def absS (a : Word) : Word := wordOf (a.toInt.natAbs : Int)
def absDiffS (a b : Word) : Word := wordOf ((a.toInt - b.toInt).natAbs : Int)
def absDiffU (a b : Word) : Word := wordOf (((a.toNat : Int) - b.toNat).natAbs : Int)
def mulHiS (a b : Word) : Word := wordOf ((a.toInt * b.toInt) / 4294967296)
def mulHiU (a b : Word) : Word := BitVec.ofNat 32 (a.toNat * b.toNat / 4294967296)

/-- Byte `i` of a word, unsigned or signed. -/
def byteVal (uns : Bool) (x : Word) (i : Nat) : Int :=
  let v := x.toNat / 2 ^ (8 * i) % 256
  if uns then (v : Int) else signedOf 8 v
/-- IDOT4 (14 R379). -/
def dot4 (au bu sat : Bool) (a b c : Word) : Word :=
  let t := c.toInt + ((List.range 4).map fun i => byteVal au a i * byteVal bu b i).foldl (· + ·) 0
  if sat then satS t else wordOf t

/-- Shifts by an unsigned amount (14 R380). -/
def shlW (a : Word) (n : Nat) : Word := if 32 ≤ n then 0#32 else a <<< n
def shrW (a : Word) (n : Nat) : Word := if 32 ≤ n then 0#32 else a >>> n
def sarW (a : Word) (n : Nat) : Word := a.sshiftRight (min n 31)
def rotlW (a : Word) (n : Nat) : Word := a.rotateLeft (n % 32)
def fshr (a b c : Word) : Word := BitVec.ofNat 32 ((b.toNat * 4294967296 + a.toNat) / 2 ^ (c.toNat % 64))

def minS (a b : Word) : Word := if a.toInt ≤ b.toInt then a else b
def minU (a b : Word) : Word := if a.toNat ≤ b.toNat then a else b
def maxS (a b : Word) : Word := if a.toInt ≤ b.toInt then b else a
def maxU (a b : Word) : Word := if a.toNat ≤ b.toNat then b else a

/-- The conditions of ICMP: 0 eq, 1 ne, 2 lt, 3 le, 4 gt, 5 ge, 6 ltu, 7 leu, 8 gtu, 9 geu. -/
def icmpCond (c : Nat) (a b : Word) : Bool :=
  match c with
  | 0 => a == b
  | 1 => a != b
  | 2 => decide (a.toInt < b.toInt)
  | 3 => decide (a.toInt ≤ b.toInt)
  | 4 => decide (a.toInt > b.toInt)
  | 5 => decide (a.toInt ≥ b.toInt)
  | 6 => decide (a.toNat < b.toNat)
  | 7 => decide (a.toNat ≤ b.toNat)
  | 8 => decide (a.toNat > b.toNat)
  | _ => decide (a.toNat ≥ b.toNat)

def popcW (a : Word) : Word := BitVec.ofNat 32 ((List.range 32).filter fun i => a.getLsbD i).length
def clzW (a : Word) : Word := BitVec.ofNat 32 (if a = 0#32 then 32 else 31 - a.toNat.log2)
def brevW (a : Word) : Word := a.reverse

/-- The offset and width of a field control (14 R381). -/
def fieldCtl (c : Word) : Nat × Nat :=
  let o := bits c.toNat 4 0
  (o, min (bits c.toNat 13 8) (32 - o))
def bfe (a c : Word) : Word :=
  let (o, w) := fieldCtl c
  BitVec.ofNat 32 (a.toNat / 2 ^ o % 2 ^ w)
def bfeS (a c : Word) : Word :=
  let (o, w) := fieldCtl c
  if w = 0 then 0#32 else wordOf (signedOf w (a.toNat / 2 ^ o))
def bfi (a b c : Word) : Word :=
  let (o, w) := fieldCtl c
  BitVec.ofNat 32 (a.toNat - a.toNat / 2 ^ o % 2 ^ w * 2 ^ o + b.toNat % 2 ^ w * 2 ^ o)

/-! ### Major 0x10 (14 R376, R377) -/

def execIadd (d a b : BitVec 7) (lit : Word) (s : State) : Host.Outcome State Fault Refusal :=
  vec2 .add (· + ·) (vecL d [a, b]) d a b lit s
def execIaddSat (d a b : BitVec 7) (lit : Word) (s : State) : Host.Outcome State Fault Refusal :=
  vec2 .general (fun x y => satS (x.toInt + y.toInt)) (vecL d [a, b]) d a b lit s
def execIaddSatU (d a b : BitVec 7) (lit : Word) (s : State) : Host.Outcome State Fault Refusal :=
  vec2 .general (fun x y => satU ((x.toNat : Int) + y.toNat)) (vecL d [a, b]) d a b lit s
def execIsub (d a b : BitVec 7) (lit : Word) (s : State) : Host.Outcome State Fault Refusal :=
  vec2 .sub (· - ·) (vecL d [a, b]) d a b lit s
def execIsubSat (d a b : BitVec 7) (lit : Word) (s : State) : Host.Outcome State Fault Refusal :=
  vec2 .general (fun x y => satS (x.toInt - y.toInt)) (vecL d [a, b]) d a b lit s
def execIsubSatU (d a b : BitVec 7) (lit : Word) (s : State) : Host.Outcome State Fault Refusal :=
  vec2 .general (fun x y => satU ((x.toNat : Int) - y.toNat)) (vecL d [a, b]) d a b lit s
def execIneg (d a : BitVec 7) (lit : Word) (s : State) : Host.Outcome State Fault Refusal :=
  vec1 .neg (fun x => 0#32 - x) (vecL d [a]) d a lit s
def execIabs (d a : BitVec 7) (lit : Word) (s : State) : Host.Outcome State Fault Refusal :=
  vec1 .plain absS (vecL d [a]) d a lit s
def execIabsd (d a b : BitVec 7) (lit : Word) (s : State) : Host.Outcome State Fault Refusal :=
  vec2 .plain absDiffS (vecL d [a, b]) d a b lit s
def execIabsdU (d a b : BitVec 7) (lit : Word) (s : State) : Host.Outcome State Fault Refusal :=
  vec2 .plain absDiffU (vecL d [a, b]) d a b lit s

/-- The shared action of IADD.cc and ISUB.cc: `t` gives the exact sum or difference, which lies outside
0 to 2^32 − 1 when it carries or borrows. -/
def carryRun (t : Int → Int → Int → Int) (d a b : BitVec 7) (ci : BitVec 1) (kc : BitVec 3) (s : State) :
    Host.Outcome State Fault Refusal :=
  runIsa (vecE d [a, b] [.kdst kc.toNat]) (own fun g =>
    let x (l : Nat) : Int := t (g.opLane a.toNat 0#32 l).toNat (g.opLane b.toNat 0#32 l).toNat
      (if ci == 1#1 && (g.kreg kc.toNat).has l then 1 else 0)
    (g.put d.toNat .general [] fun l => wordOf (x l)).writeMaskLanes kc.toNat fun l =>
      decide (x l < 0 ∨ 4294967296 ≤ x l)) s
def execIaddCc (d a b : BitVec 7) (ci : BitVec 1) (kc : BitVec 3) (s : State) : Host.Outcome State Fault Refusal :=
  carryRun (fun x y c => x + y + c) d a b ci kc s
def execIsubCc (d a b : BitVec 7) (ci : BitVec 1) (kc : BitVec 3) (s : State) : Host.Outcome State Fault Refusal :=
  carryRun (fun x y c => x - y - c) d a b ci kc s

/-! ### Major 0x11 (14 R378, R379) -/

def execImulLo (d a b : BitVec 7) (lit : Word) (s : State) : Host.Outcome State Fault Refusal :=
  vec2 .mulLo (· * ·) (vecL d [a, b]) d a b lit s
def execImulHi (d a b : BitVec 7) (lit : Word) (s : State) : Host.Outcome State Fault Refusal :=
  vec2 .plain mulHiS (vecL d [a, b]) d a b lit s
def execImulHiU (d a b : BitVec 7) (lit : Word) (s : State) : Host.Outcome State Fault Refusal :=
  vec2 .plain mulHiU (vecL d [a, b]) d a b lit s
def execImac (d a b c : BitVec 7) (s : State) : Host.Outcome State Fault Refusal :=
  vec3 .plain (fun x y z => x * y + z) (vecE d [a, b, c] []) d a b c s
def execIdot4 (d a b : BitVec 7) (sat bu au : BitVec 1) (c : BitVec 7) (s : State) :
    Host.Outcome State Fault Refusal :=
  vec3 (if sat == 1#1 then .general else .plain) (dot4 (au == 1#1) (bu == 1#1) (sat == 1#1))
    (vecE d [a, b, c] []) d a b c s

/-! ### Majors 0x12 to 0x15 (14 R380) -/

def execAnd (d a b : BitVec 7) (lit : Word) (s : State) : Host.Outcome State Fault Refusal :=
  vec2 .plain (· &&& ·) (vecL d [a, b]) d a b lit s
def execOr (d a b : BitVec 7) (lit : Word) (s : State) : Host.Outcome State Fault Refusal :=
  vec2 .plain (· ||| ·) (vecL d [a, b]) d a b lit s
def execXor (d a b : BitVec 7) (lit : Word) (s : State) : Host.Outcome State Fault Refusal :=
  vec2 .plain (· ^^^ ·) (vecL d [a, b]) d a b lit s
def execAndn (d a b : BitVec 7) (lit : Word) (s : State) : Host.Outcome State Fault Refusal :=
  vec2 .plain (fun x y => x &&& ~~~y) (vecL d [a, b]) d a b lit s
def execNot (d a : BitVec 7) (lit : Word) (s : State) : Host.Outcome State Fault Refusal :=
  vec1 .plain (fun x => ~~~x) (vecL d [a]) d a lit s
def execShl (d a b : BitVec 7) (lit : Word) (s : State) : Host.Outcome State Fault Refusal :=
  vec2 .shl (fun x y => shlW x y.toNat) (vecL d [a, b]) d a b lit s
def execShr (d a b : BitVec 7) (lit : Word) (s : State) : Host.Outcome State Fault Refusal :=
  vec2 .plain (fun x y => shrW x y.toNat) (vecL d [a, b]) d a b lit s
def execSar (d a b : BitVec 7) (lit : Word) (s : State) : Host.Outcome State Fault Refusal :=
  vec2 .plain (fun x y => sarW x y.toNat) (vecL d [a, b]) d a b lit s
def execRotl (d a b : BitVec 7) (lit : Word) (s : State) : Host.Outcome State Fault Refusal :=
  vec2 .plain (fun x y => rotlW x y.toNat) (vecL d [a, b]) d a b lit s
def execFshr (d a b c : BitVec 7) (s : State) : Host.Outcome State Fault Refusal :=
  vec3 .plain fshr (vecE d [a, b, c] []) d a b c s
def execImin (d a b : BitVec 7) (lit : Word) (s : State) : Host.Outcome State Fault Refusal :=
  vec2 .plain minS (vecL d [a, b]) d a b lit s
def execIminU (d a b : BitVec 7) (lit : Word) (s : State) : Host.Outcome State Fault Refusal :=
  vec2 .plain minU (vecL d [a, b]) d a b lit s
def execImax (d a b : BitVec 7) (lit : Word) (s : State) : Host.Outcome State Fault Refusal :=
  vec2 .plain maxS (vecL d [a, b]) d a b lit s
def execImaxU (d a b : BitVec 7) (lit : Word) (s : State) : Host.Outcome State Fault Refusal :=
  vec2 .plain maxU (vecL d [a, b]) d a b lit s
def execIcmp (c : BitVec 5) (k : BitVec 3) (a b : BitVec 7) (lit : Word) (s : State) :
    Host.Outcome State Fault Refusal :=
  runIsa (cmpInfo k a b) (own fun g => g.writeMaskLanes k.toNat fun l =>
    icmpCond c.toNat (g.opLane a.toNat lit l) (g.opLane b.toNat lit l)) s

/-! ### Major 0x16 (14 R381) -/

def execPopc (d a : BitVec 7) (lit : Word) (s : State) : Host.Outcome State Fault Refusal :=
  vec1 .plain popcW (vecL d [a]) d a lit s
def execClz (d a : BitVec 7) (lit : Word) (s : State) : Host.Outcome State Fault Refusal :=
  vec1 .plain clzW (vecL d [a]) d a lit s
def execBrev (d a : BitVec 7) (lit : Word) (s : State) : Host.Outcome State Fault Refusal :=
  vec1 .plain brevW (vecL d [a]) d a lit s
def execBfe (d a b : BitVec 7) (lit : Word) (s : State) : Host.Outcome State Fault Refusal :=
  vec2 .plain bfe (vecL d [a, b]) d a b lit s
def execBfeS (d a b : BitVec 7) (lit : Word) (s : State) : Host.Outcome State Fault Refusal :=
  vec2 .plain bfeS (vecL d [a, b]) d a b lit s
def execBfi (d a b c : BitVec 7) (s : State) : Host.Outcome State Fault Refusal :=
  vec3 .plain bfi (vecE d [a, b, c] []) d a b c s

/-! ### Major 0x17 (14 R382): the immediate stands as a uniform source -/

/-- An immediate form; a shift immediate of 32 or more raises ILLEGAL_OPERAND. -/
def immRun (r : ShapeRule) (op : Word → Word → Word) (imm : Word) (ok : Bool) (d a i : BitVec 7) (s : State) :
    Host.Outcome State Fault Refusal :=
  runIsa ⟨.vec, 1, [.vdst d.toNat 1 1, .vsrc a.toNat false, .cond ok i.toNat]⟩ (own fun g =>
    g.put d.toNat r [g.opVal a.toNat 0#32, .uniform imm] fun l => op (g.opLane a.toNat 0#32 l) imm) s
def execIaddi (d a i : BitVec 7) (s : State) : Host.Outcome State Fault Refusal :=
  immRun .add (· + ·) (i.signExtend 32) true d a i s
def execAndi (d a i : BitVec 7) (s : State) : Host.Outcome State Fault Refusal :=
  immRun .plain (· &&& ·) (i.signExtend 32) true d a i s
def execOri (d a i : BitVec 7) (s : State) : Host.Outcome State Fault Refusal :=
  immRun .plain (· ||| ·) (i.signExtend 32) true d a i s
def execXori (d a i : BitVec 7) (s : State) : Host.Outcome State Fault Refusal :=
  immRun .plain (· ^^^ ·) (i.signExtend 32) true d a i s
def execShli (d a i : BitVec 7) (s : State) : Host.Outcome State Fault Refusal :=
  immRun .shl (fun x y => shlW x y.toNat) (i.setWidth 32) (decide (i.toNat < 32)) d a i s
def execShri (d a i : BitVec 7) (s : State) : Host.Outcome State Fault Refusal :=
  immRun .plain (fun x y => shrW x y.toNat) (i.setWidth 32) (decide (i.toNat < 32)) d a i s
def execSari (d a i : BitVec 7) (s : State) : Host.Outcome State Fault Refusal :=
  immRun .plain (fun x y => sarW x y.toNat) (i.setWidth 32) (decide (i.toNat < 32)) d a i s

end Sys2Proof.Machine
end

