-- ==== Sys2Proof/Machine/Cross.lean ====
section
/-! DEFINITION. Moves, cross-lane operations, and quads with derivatives: majors 0x1E, 0x1F and 0x29
(14 R396 to R401). -/
namespace Sys2Proof.Machine
open Sys2Proof

/-! ### Major 0x1E (14 R396) -/

def execMov (d a : BitVec 7) (lit : Word) (s : State) : Host.Outcome State Fault Refusal :=
  vec1 .same (fun x => x) (vecL d [a]) d a lit s
def execSel (d a b : BitVec 7) (kn : BitVec 3) (s : State) : Host.Outcome State Fault Refusal :=
  runIsa (vecE d [a, b] []) (own fun g => g.put d.toNat .general [] fun l =>
    if (g.kreg kn.toNat).has l then g.opLane a.toNat 0#32 l else g.opLane b.toNat 0#32 l) s
/-- BCAST reads a lane whether or not it is active; one without a live thread reads as zero. -/
def execBcast (d a : BitVec 7) (l : BitVec 5) (s : State) : Host.Outcome State Fault Refusal :=
  runIsa (vecN d [a]) (own fun g =>
    let x := if g.ctl.live.has l.toNat then g.opLane a.toNat 0#32 l.toNat else 0#32
    g.put d.toNat .uniform [] fun _ => x) s
def execBcastFirst (d a : BitVec 7) (s : State) : Host.Outcome State Fault Refusal :=
  runIsa (vecN d [a]) (own fun g => g.put d.toNat .uniform [] fun _ => g.opLane a.toNat 0#32 g.firstAct) s

/-! ### Major 0x1F (14 R397 to R399) -/

def execBallot (k : BitVec 3) (a : BitVec 7) (s : State) : Host.Outcome State Fault Refusal :=
  runIsa ⟨.vec, 1, [.kdst k.toNat, .vsrc a.toNat false]⟩ (own fun g =>
    g.setK k.toNat (Lanes.ofFn 32 fun l => g.ctl.act.has l && g.opLane a.toNat 0#32 l != 0#32)) s

/-- A value taken from another lane: the lane's own where the source lane does not exist or is not
active (14 R398). -/
def Group.fromLane (g : Group) (a : BitVec 7) (lit : Word) (l : Nat) (j : Int) : Word :=
  if 0 ≤ j ∧ j < 32 ∧ (g.ctl.act &&& g.ctl.live).has j.toNat = true then g.opLane a.toNat lit j.toNat else g.opLane a.toNat lit l

def execShflIdx (d a b : BitVec 7) (lit : Word) (s : State) : Host.Outcome State Fault Refusal :=
  runIsa (vecL d [a, b]) (own fun g => g.put d.toNat .plain [g.opVal a.toNat lit, g.opVal b.toNat lit] fun l =>
    g.fromLane a lit l ((g.opLane b.toNat lit l).toNat % 32 : Nat)) s
/-- A shuffle by an immediate distance. -/
def shuffle (src : Nat → Int) (d a : BitVec 7) (s : State) : Host.Outcome State Fault Refusal :=
  runIsa (vecN d [a]) (own fun g => g.put d.toNat .plain [g.opVal a.toNat 0#32] fun l =>
    g.fromLane a 0#32 l (src l)) s
def execShflUp (d a : BitVec 7) (n : BitVec 5) (s : State) : Host.Outcome State Fault Refusal :=
  shuffle (fun l => (l : Int) - n.toNat) d a s
def execShflDn (d a : BitVec 7) (n : BitVec 5) (s : State) : Host.Outcome State Fault Refusal :=
  shuffle (fun l => (l : Int) + n.toNat) d a s
def execShflXor (d a : BitVec 7) (n : BitVec 5) (s : State) : Host.Outcome State Fault Refusal :=
  shuffle (fun l => ((l ^^^ n.toNat : Nat) : Int)) d a s

/-- The active lanes' values. -/
def Group.actVals (g : Group) (a : BitVec 7) (lit : Word) : List Word :=
  g.ctl.act.toList.map fun l => g.opLane a.toNat lit l
/-- A fold of a two-operand choice over a list that is not empty. -/
def foldFirst (f : Word → Word → Word) : List Word → Word
  | [] => 0#32
  | x :: r => r.foldl f x

/-- A reduction whose value is written to every active lane. -/
def reduce (f : List Word → Word) (d a : BitVec 7) (lit : Word) (s : State) : Host.Outcome State Fault Refusal :=
  runIsa (vecL d [a]) (own fun g =>
    let x := f (g.actVals a lit)
    g.put d.toNat .uniform [] fun _ => x) s
/-- A reduction that raises its flags in every active lane. -/
def reduceF (f : List Word → Word × FFlags) (d a : BitVec 7) (lit : Word) (s : State) :
    Host.Outcome State Fault Refusal :=
  runIsa (vecL d [a]) (fun s i g =>
    let r := f (g.actVals a lit)
    fpEnd s i (g.put d.toNat .uniform [] fun _ => r.1) fun _ => r.2) s

def sumW (l : List Word) : Word := l.foldl (· + ·) 0#32
/-- The exact FP32 sum, rounded once; an exact zero is −0 only when every term is (14 R399, 10 R286). -/
def sumF (l : List Word) : Word × FFlags :=
  let r := roundNE fp32 false (exactSum (l.map fun x => fp32.decode x.toNat))
  (BitVec.ofNat 32 r.1, r.2)
/-- FMIN or FMAX over a list (14 R384): a NaN only when all are, and then the canonical one. -/
def pickF (wantMax : Bool) (l : List Word) : Word × FFlags :=
  let x := foldFirst (fun a b => BitVec.ofNat 32 (fMinMax fp32 wantMax a.toNat b.toNat).1) l
  (if (fp32.decode x.toNat).isNaN then BitVec.ofNat 32 fp32.canonNaN else x,
    if l.any fun y => (fp32.decode y.toNat).isSNaN then fIO else fNone)

def execRedAdd (d a : BitVec 7) (lit : Word) (s : State) : Host.Outcome State Fault Refusal :=
  reduce sumW d a lit s
def execRedAddF32 (d a : BitVec 7) (lit : Word) (s : State) : Host.Outcome State Fault Refusal :=
  reduceF sumF d a lit s
def execRedMin (d a : BitVec 7) (lit : Word) (s : State) : Host.Outcome State Fault Refusal :=
  reduce (foldFirst minS) d a lit s
def execRedMinU (d a : BitVec 7) (lit : Word) (s : State) : Host.Outcome State Fault Refusal :=
  reduce (foldFirst minU) d a lit s
def execRedMinF32 (d a : BitVec 7) (lit : Word) (s : State) : Host.Outcome State Fault Refusal :=
  reduceF (pickF false) d a lit s
def execRedMax (d a : BitVec 7) (lit : Word) (s : State) : Host.Outcome State Fault Refusal :=
  reduce (foldFirst maxS) d a lit s
def execRedMaxU (d a : BitVec 7) (lit : Word) (s : State) : Host.Outcome State Fault Refusal :=
  reduce (foldFirst maxU) d a lit s
def execRedMaxF32 (d a : BitVec 7) (lit : Word) (s : State) : Host.Outcome State Fault Refusal :=
  reduceF (pickF true) d a lit s

/-- The active lanes' values up to lane L, or below it. -/
def Group.prefixVals (g : Group) (a : BitVec 7) (lit : Word) (incl : Bool) (l : Nat) : List Word :=
  (g.ctl.act.toList.filter fun j => decide (j < l) || (incl && j == l)).map fun j => g.opLane a.toNat lit j
/-- An integer prefix sum. -/
def scanInt (incl : Bool) (d a : BitVec 7) (lit : Word) (s : State) : Host.Outcome State Fault Refusal :=
  runIsa (vecL d [a]) (own fun g => g.put d.toNat .general [] fun l => sumW (g.prefixVals a lit incl l)) s
def execScanAdd (d a : BitVec 7) (lit : Word) (s : State) : Host.Outcome State Fault Refusal :=
  scanInt true d a lit s
def execScanAddEx (d a : BitVec 7) (lit : Word) (s : State) : Host.Outcome State Fault Refusal :=
  scanInt false d a lit s
def execScanAddF32 (d a : BitVec 7) (lit : Word) (s : State) : Host.Outcome State Fault Refusal :=
  runIsa (vecL d [a]) (fun s i g =>
    let r (l : Nat) : Word × FFlags := sumF (g.prefixVals a lit true l)
    fpEnd s i (g.put d.toNat .general [] fun l => (r l).1) fun l => (r l).2) s

/-! ### Major 0x29 (14 R400, R401) -/

/-- A derivative with the lanes h and g that lane L references. A lane other than L that is not active
gives +0 and sets DERIV. -/
def derivative (h g' : Nat → Nat) (d a : BitVec 7) (lit : Word) (s : State) : Host.Outcome State Fault Refusal :=
  runIsa (vecL d [a]) (fun s i g =>
    let bad (l : Nat) : Bool := [h l, g' l].any fun j => j != l && !(g.ctl.act &&& g.ctl.live).has j
    let r (l : Nat) : Nat × FFlags :=
      if bad l then (0, fNone)
      else fSub fp32 false (g.opLane a.toNat lit (h l)).toNat (g.opLane a.toNat lit (g' l)).toNat
    let anyBad := g.ctl.act.toList.any bad
    -- a uniform register cannot hold results that differ between lanes
    let mixed := anyBad && g.ctl.act.toList.any fun l => (r l).1 != (r g.firstAct).1
    let g1 := g.put d.toNat (if mixed then .general else .plain) [g.opVal a.toNat lit] fun l =>
      BitVec.ofNat 32 (r l).1
    fpEnd s i (if anyBad then g1.withSr fun x => { x with derivflag := x.derivflag ||| 1#32 } else g1)
      fun l => (r l).2) s
def execDdx (d a : BitVec 7) (lit : Word) (s : State) : Host.Outcome State Fault Refusal :=
  derivative (fun l => l ||| 1) (fun l => l - l % 2) d a lit s
def execDdxCoarse (d a : BitVec 7) (lit : Word) (s : State) : Host.Outcome State Fault Refusal :=
  derivative (fun l => l - l % 4 + 1) (fun l => l - l % 4) d a lit s
def execDdy (d a : BitVec 7) (lit : Word) (s : State) : Host.Outcome State Fault Refusal :=
  derivative (fun l => l ||| 2) (fun l => l &&& 29) d a lit s
def execDdyCoarse (d a : BitVec 7) (lit : Word) (s : State) : Host.Outcome State Fault Refusal :=
  derivative (fun l => l - l % 4 + 2) (fun l => l - l % 4) d a lit s
def execQswap (d a : BitVec 7) (m : BitVec 2) (s : State) : Host.Outcome State Fault Refusal :=
  runIsa ⟨.vec, 1, [.vdst d.toNat 1 1, .vsrc a.toNat false, .cond (decide (m ≠ 0#2)) 0]⟩ (own fun g =>
    g.put d.toNat .plain [g.opVal a.toNat 0#32] fun l => g.fromLane a 0#32 l ((l ^^^ m.toNat : Nat) : Int)) s

end Sys2Proof.Machine
end

