-- ==== Sys2Proof/Machine/Float.lean ====
section
/-! DEFINITION. Floating-point arithmetic, compares and special functions: majors 0x18 to 0x1B
(14 R383 to R387). -/
namespace Sys2Proof.Machine
open Sys2Proof

/-- A two-source element operation over its operand list. -/
def op2 (f : FFmt → Nat → Nat → Nat × FFlags) : FFmt → List Nat → Nat × FFlags
  | fm, [a, b] => f fm a b
  | _, _ => (0, fNone)
/-- A three-source element operation over its operand list. -/
def op3 (f : FFmt → Nat → Nat → Nat → Nat × FFlags) : FFmt → List Nat → Nat × FFlags
  | fm, [a, b, c] => f fm a b c
  | _, _ => (0, fNone)
/-- A one-source element operation over its operand list. -/
def op1 (f : FFmt → Nat → Nat × FFlags) : FFmt → List Nat → Nat × FFlags
  | fm, [a] => f fm a
  | _, _ => (0, fNone)

/-- FMIN and FMAX with the clamp of .sat. -/
def fMinMaxSat (wantMax sat : Bool) (f : FFmt) (a b : Nat) : Nat × FFlags :=
  let (c, fl) := fMinMax f wantMax a b
  (if sat then clampUnit f c else c, fl)

/-- A two-source form of major 0x18. -/
def float2 (f : FFmt → Nat → Nat → Nat × FFlags) (sat p : BitVec 1) (d a b : BitVec 7) (lit : Word) (s : State) :
    Host.Outcome State Fault Refusal :=
  fpRun (vecL d [a, b]) d (sat == 1#1) (fun g => [g.src a lit, g.src b lit]) (fpElems (p == 1#1) (op2 f)) s
def execFadd (sat p : BitVec 1) (d a b : BitVec 7) (lit : Word) (s : State) : Host.Outcome State Fault Refusal :=
  float2 (fun f => fAdd f (sat == 1#1)) sat p d a b lit s
def execFsub (sat p : BitVec 1) (d a b : BitVec 7) (lit : Word) (s : State) : Host.Outcome State Fault Refusal :=
  float2 (fun f => fSub f (sat == 1#1)) sat p d a b lit s
def execFmul (sat p : BitVec 1) (d a b : BitVec 7) (lit : Word) (s : State) : Host.Outcome State Fault Refusal :=
  float2 (fun f => fMul f (sat == 1#1)) sat p d a b lit s
def execFmin (sat p : BitVec 1) (d a b : BitVec 7) (lit : Word) (s : State) : Host.Outcome State Fault Refusal :=
  float2 (fMinMaxSat false (sat == 1#1)) sat p d a b lit s
def execFmax (sat p : BitVec 1) (d a b : BitVec 7) (lit : Word) (s : State) : Host.Outcome State Fault Refusal :=
  float2 (fMinMaxSat true (sat == 1#1)) sat p d a b lit s

/-- FMAC: the destination's old value is the addend. -/
def execFmac (sat p : BitVec 1) (d a b : BitVec 7) (lit : Word) (s : State) : Host.Outcome State Fault Refusal :=
  fpRun ⟨.vec, litWords [a, b], [.vdst d.toNat 1 1, .vgrp d.toNat 1 1, .vsrc a.toNat true, .vsrc b.toNat true]⟩ d
    (sat == 1#1) (fun g => [g.src a lit, g.src b lit, g.srcReg d])
    (fpElems (p == 1#1) (op3 fun f => fFma f (sat == 1#1))) s
/-- A three-source form of major 0x19. -/
def float3 (f : FFmt → Nat → Nat → Nat → Nat × FFlags) (sat p : BitVec 1) (d a b c : BitVec 7) (s : State) :
    Host.Outcome State Fault Refusal :=
  fpRun (vecE d [a, b, c] []) d (sat == 1#1) (fun g => [g.src a 0#32, g.src b 0#32, g.src c 0#32])
    (fpElems (p == 1#1) (op3 f)) s
def execFma (sat p : BitVec 1) (d a b c : BitVec 7) (s : State) : Host.Outcome State Fault Refusal :=
  float3 (fun f => fFma f (sat == 1#1)) sat p d a b c s
def execFlerp (sat p : BitVec 1) (d a b c : BitVec 7) (s : State) : Host.Outcome State Fault Refusal :=
  float3 (fun f => fLerp f (sat == 1#1)) sat p d a b c s

/-! ### Major 0x1A (14 R385) -/

def execFcmp (c k : BitVec 3) (a b : BitVec 7) (lit : Word) (s : State) : Host.Outcome State Fault Refusal :=
  runIsa (cmpInfo k a b) (fun s i g =>
    let r (l : Nat) : Bool × FFlags :=
      fCompare fp32 c.toNat (g.opLane a.toNat lit l).toNat (g.opLane b.toNat lit l).toNat
    fpEnd s i (g.writeMaskLanes k.toNat fun l => (r l).1) fun l => (r l).2) s
def execFclass (d a : BitVec 7) (lit : Word) (s : State) : Host.Outcome State Fault Refusal :=
  vec1 .plain (fun x => BitVec.ofNat 32 (fClass fp32 x.toNat)) (vecL d [a]) d a lit s

/-! ### Major 0x1B (14 R386, R387) -/

/-- A special function; the free value that stands for an approximate result depends on the function, the
format and the input (assumption 4). -/
def special (fn : Nat) (p : BitVec 1) (d a : BitVec 7) (lit : Word) (s : State) :
    Host.Outcome State Fault Refusal :=
  fpRun (vecL d [a]) d false (fun g => [g.src a lit])
    (fpElems (p == 1#1) (op1 fun f => fSpecial f p.toNat fn)) s
def execFrcp (p : BitVec 1) (d a : BitVec 7) (lit : Word) (s : State) : Host.Outcome State Fault Refusal :=
  special 0 p d a lit s
def execFrsq (p : BitVec 1) (d a : BitVec 7) (lit : Word) (s : State) : Host.Outcome State Fault Refusal :=
  special 1 p d a lit s
def execFsqrt (p : BitVec 1) (d a : BitVec 7) (lit : Word) (s : State) : Host.Outcome State Fault Refusal :=
  special 2 p d a lit s
def execFexp2 (p : BitVec 1) (d a : BitVec 7) (lit : Word) (s : State) : Host.Outcome State Fault Refusal :=
  special 3 p d a lit s
def execFlog2 (p : BitVec 1) (d a : BitVec 7) (lit : Word) (s : State) : Host.Outcome State Fault Refusal :=
  special 4 p d a lit s
def execFsin (p : BitVec 1) (d a : BitVec 7) (lit : Word) (s : State) : Host.Outcome State Fault Refusal :=
  special 5 p d a lit s
def execFcos (p : BitVec 1) (d a : BitVec 7) (lit : Word) (s : State) : Host.Outcome State Fault Refusal :=
  special 6 p d a lit s
def execFtanh (p : BitVec 1) (d a : BitVec 7) (lit : Word) (s : State) : Host.Outcome State Fault Refusal :=
  special 7 p d a lit s

end Sys2Proof.Machine
end

