-- ==== Sys2Proof/Machine/Scalar.lean ====
section
/-! DEFINITION. Scalar instructions, scalar-vector moves and mask operations: majors 0x20 to 0x28
(14 R402 to R406). -/
namespace Sys2Proof.Machine
open Sys2Proof

/-- A scalar operation on two registers. -/
def scalar2 (op : Word → Word → Word) (d a b : BitVec 8) (s : State) : Host.Outcome State Fault Refusal :=
  runIsa ⟨.scalar, 1, []⟩ (own fun g => g.setS d.toNat (op (g.sreg a.toNat) (g.sreg b.toNat))) s
/-- A condition as a scalar. -/
def flagW (b : Bool) : Word := if b then 1#32 else 0#32

def execSadd (d a b : BitVec 8) (s : State) : Host.Outcome State Fault Refusal := scalar2 (· + ·) d a b s
def execSsub (d a b : BitVec 8) (s : State) : Host.Outcome State Fault Refusal := scalar2 (· - ·) d a b s
def execSmul (d a b : BitVec 8) (s : State) : Host.Outcome State Fault Refusal := scalar2 (· * ·) d a b s
def execSmulh (d a b : BitVec 8) (s : State) : Host.Outcome State Fault Refusal := scalar2 mulHiS d a b s
def execSand (d a b : BitVec 8) (s : State) : Host.Outcome State Fault Refusal := scalar2 (· &&& ·) d a b s
def execSor (d a b : BitVec 8) (s : State) : Host.Outcome State Fault Refusal := scalar2 (· ||| ·) d a b s
def execSxor (d a b : BitVec 8) (s : State) : Host.Outcome State Fault Refusal := scalar2 (· ^^^ ·) d a b s
def execSandn (d a b : BitVec 8) (s : State) : Host.Outcome State Fault Refusal :=
  scalar2 (fun x y => x &&& ~~~y) d a b s
def execSshl (d a b : BitVec 8) (s : State) : Host.Outcome State Fault Refusal :=
  scalar2 (fun x y => shlW x y.toNat) d a b s
def execSshr (d a b : BitVec 8) (s : State) : Host.Outcome State Fault Refusal :=
  scalar2 (fun x y => shrW x y.toNat) d a b s
def execSsar (d a b : BitVec 8) (s : State) : Host.Outcome State Fault Refusal :=
  scalar2 (fun x y => sarW x y.toNat) d a b s
def execSrotl (d a b : BitVec 8) (s : State) : Host.Outcome State Fault Refusal :=
  scalar2 (fun x y => rotlW x y.toNat) d a b s
def execScmpEq (d a b : BitVec 8) (s : State) : Host.Outcome State Fault Refusal :=
  scalar2 (fun x y => flagW (x == y)) d a b s
def execScmpLt (d a b : BitVec 8) (s : State) : Host.Outcome State Fault Refusal :=
  scalar2 (fun x y => flagW (decide (x.toInt < y.toInt))) d a b s
def execScmpLtu (d a b : BitVec 8) (s : State) : Host.Outcome State Fault Refusal :=
  scalar2 (fun x y => flagW (decide (x.toNat < y.toNat))) d a b s
def execScmpLe (d a b : BitVec 8) (s : State) : Host.Outcome State Fault Refusal :=
  scalar2 (fun x y => flagW (decide (x.toInt ≤ y.toInt))) d a b s
def execSmin (d a b : BitVec 8) (s : State) : Host.Outcome State Fault Refusal := scalar2 minS d a b s
def execSmax (d a b : BitVec 8) (s : State) : Host.Outcome State Fault Refusal := scalar2 maxS d a b s
def execSpopc (d a : BitVec 8) (s : State) : Host.Outcome State Fault Refusal :=
  runIsa ⟨.scalar, 1, []⟩ (own fun g => g.setS d.toNat (popcW (g.sreg a.toNat))) s
def execSclz (d a : BitVec 8) (s : State) : Host.Outcome State Fault Refusal :=
  runIsa ⟨.scalar, 1, []⟩ (own fun g => g.setS d.toNat (clzW (g.sreg a.toNat))) s

/-! ### Major 0x24 (14 R403) -/

def execSmovi (d : BitVec 8) (i : BitVec 16) (s : State) : Host.Outcome State Fault Refusal :=
  runIsa ⟨.scalar, 1, []⟩ (own fun g => g.setS d.toNat (i.signExtend 32)) s
def execSmovhi (d : BitVec 8) (i : BitVec 16) (s : State) : Host.Outcome State Fault Refusal :=
  runIsa ⟨.scalar, 1, []⟩ (own fun g =>
    g.setS d.toNat ((g.sreg d.toNat &&& 0xFFFF#32) ||| (i.setWidth 32 <<< 16))) s
def execSaddi (d : BitVec 8) (i : BitVec 16) (s : State) : Host.Outcome State Fault Refusal :=
  runIsa ⟨.scalar, 1, []⟩ (own fun g => g.setS d.toNat (g.sreg d.toNat + i.signExtend 32)) s
def execScmpi (d a : BitVec 8) (c : BitVec 2) (i : BitVec 6) (s : State) : Host.Outcome State Fault Refusal :=
  runIsa ⟨.scalar, 1, []⟩ (own fun g =>
    let x := g.sreg a.toNat
    let y : Word := i.signExtend 32
    g.setS d.toNat (flagW (match c.toNat with
      | 0 => x == y
      | 1 => decide (x.toInt < y.toInt)
      | 2 => decide (x.toNat < y.toNat)
      | _ => decide (x.toInt ≤ y.toInt)))) s

/-! ### Major 0x25 (14 R404) -/

/-- A 64-bit operation on pairs. -/
def scalar64 (op : DWord → DWord → DWord) (d a b : BitVec 8) (s : State) : Host.Outcome State Fault Refusal :=
  runIsa ⟨.scalar, 1, [.pair d.toNat, .pair a.toNat, .pair b.toNat]⟩ (own fun g =>
    g.setPair d.toNat (op (g.spair a.toNat) (g.spair b.toNat))) s
def execSadd64 (d a b : BitVec 8) (s : State) : Host.Outcome State Fault Refusal := scalar64 (· + ·) d a b s
def execSsub64 (d a b : BitVec 8) (s : State) : Host.Outcome State Fault Refusal := scalar64 (· - ·) d a b s
def execSmul64 (d a b : BitVec 8) (s : State) : Host.Outcome State Fault Refusal := scalar64 (· * ·) d a b s
def execSshl64 (d a b : BitVec 8) (s : State) : Host.Outcome State Fault Refusal :=
  runIsa ⟨.scalar, 1, [.pair d.toNat, .pair a.toNat]⟩ (own fun g =>
    let n := (g.sreg b.toNat).toNat
    g.setPair d.toNat (if 64 ≤ n then 0#64 else g.spair a.toNat <<< n)) s

/-! ### Major 0x27 (14 R405) -/

def execVget (d a b : BitVec 8) (s : State) : Host.Outcome State Fault Refusal :=
  runIsa ⟨.vec, 1, [.vgrp a.toNat 1 1]⟩ (own fun g =>
    g.setS d.toNat (g.vlane a.toNat ((g.sreg b.toNat).toNat % 32))) s
def execVset (d a b : BitVec 8) (s : State) : Host.Outcome State Fault Refusal :=
  runIsa ⟨.vec, 1, [.vdst d.toNat 1 1]⟩ (own fun g =>
    let l := (g.sreg b.toNat).toNat % 32
    g.writeLanes (g.ctl.act &&& (1#32 <<< l)) d.toNat .none fun _ => g.sreg a.toNat) s
def execKtos (d : BitVec 8) (k : BitVec 3) (s : State) : Host.Outcome State Fault Refusal :=
  runIsa ⟨.vec, 1, []⟩ (own fun g => g.setS d.toNat (g.kreg k.toNat)) s
def execStok (k : BitVec 3) (a : BitVec 8) (s : State) : Host.Outcome State Fault Refusal :=
  runIsa ⟨.vec, 1, [.kdst k.toNat]⟩ (own fun g => g.setK k.toNat (g.sreg a.toNat)) s

/-! ### Major 0x28 (14 R406) -/

/-- An operation on whole masks. -/
def mask2 (op : Lanes → Lanes → Lanes) (d a b : BitVec 3) (s : State) : Host.Outcome State Fault Refusal :=
  runIsa ⟨.vec, 1, [.kdst d.toNat]⟩ (own fun g => g.setK d.toNat (op (g.kreg a.toNat) (g.kreg b.toNat))) s
def execKand (d a b : BitVec 3) (s : State) : Host.Outcome State Fault Refusal := mask2 (· &&& ·) d a b s
def execKor (d a b : BitVec 3) (s : State) : Host.Outcome State Fault Refusal := mask2 (· ||| ·) d a b s
def execKxor (d a b : BitVec 3) (s : State) : Host.Outcome State Fault Refusal := mask2 (· ^^^ ·) d a b s
def execKnot (d a : BitVec 3) (s : State) : Host.Outcome State Fault Refusal :=
  runIsa ⟨.vec, 1, [.kdst d.toNat]⟩ (own fun g => g.setK d.toNat (~~~(g.kreg a.toNat))) s
def execKmov (d a : BitVec 3) (s : State) : Host.Outcome State Fault Refusal :=
  runIsa ⟨.vec, 1, [.kdst d.toNat]⟩ (own fun g => g.setK d.toNat (g.kreg a.toNat)) s

end Sys2Proof.Machine
end

