-- ==== Sys2Proof/Machine/Dispatch.lean ====
section
/-! DEFINITION. The dispatch: one arm for each row of the opcode table, each one call of its meaning. -/
namespace Sys2Proof.Machine
open Sys2Proof

/-- What each row does to the state. -/
def exec (i : Instr) (s : State) : Host.Outcome State Fault Refusal :=
  match i with
  | .porReset sa boot train => Sys2Proof.Machine.execPorReset sa boot train s
  | .perstReset train => Sys2Proof.Machine.execPerstReset train s
  | .sysclkFault => Sys2Proof.Machine.execSysclkFault s
  | .sysclkReturn => Sys2Proof.Machine.execSysclkReturn s
  | .dclkFault => Sys2Proof.Machine.execDclkFault s
  | .lockstepMismatch => Sys2Proof.Machine.execLockstepMismatch s
  | .thermtrip => Sys2Proof.Machine.execThermtrip s
  | .supplyLoss rails => Sys2Proof.Machine.execSupplyLoss rails s
  | .handlerBudgetExpiry k => Sys2Proof.Machine.execHandlerBudgetExpiry k s
  | .holdupSaveComplete => Sys2Proof.Machine.execHoldupSaveComplete s
  | .reserveCharged => Sys2Proof.Machine.execReserveCharged s
  | .bootGo v => Sys2Proof.Machine.execBootGo v s
  | .firmwareImageCheck sig key gen build raise => Sys2Proof.Machine.execFirmwareImageCheck sig key gen build raise s
  | .postRootRegion f cls half v => Sys2Proof.Machine.execPostRootRegion f cls half v s
  | .postLowHalfWrite f cls v => Sys2Proof.Machine.execPostLowHalfWrite f cls v s
  | .resyncToMemory f cls half v => Sys2Proof.Machine.execResyncToMemory f cls half v s
  | .resyncToWindow f cls half v => Sys2Proof.Machine.execResyncToWindow f cls half v s
  | .powerCmdCell v => Sys2Proof.Machine.execPowerCmdCell v s
  | .powerCmdPane v => Sys2Proof.Machine.execPowerCmdPane v s
  | .powerCmdDevice v => Sys2Proof.Machine.execPowerCmdDevice v s
  | .dHold v => Sys2Proof.Machine.execDHold v s
  | .powerCmdComplete rail => Sys2Proof.Machine.execPowerCmdComplete rail s
  | .clampTrigger kind pane temp => Sys2Proof.Machine.execClampTrigger kind pane temp s
  | .clampStep tick => Sys2Proof.Machine.execClampStep tick s
  | .clampRelease v fw same => Sys2Proof.Machine.execClampRelease v fw same s
  | .faultClear v fw same => Sys2Proof.Machine.execFaultClear v fw same s
  | .armWrite v fw => Sys2Proof.Machine.execArmWrite v fw s
  | .seamStatusClear n v same => Sys2Proof.Machine.execSeamStatusClear n v same s
  | .registerWrite f off n v fw => Sys2Proof.Machine.execRegisterWrite f off n v fw s
  | .i3cResync => Sys2Proof.Machine.execI3cResync s
  | .i3cStatus => Sys2Proof.Machine.execI3cStatus s
  | .i3cFaultClear same => Sys2Proof.Machine.execI3cFaultClear same s
  | .forceUndercoat mask => Sys2Proof.Machine.execForceUndercoat mask s
  | .releaseUndercoat mask => Sys2Proof.Machine.execReleaseUndercoat mask s
  | .i3cHoldup => Sys2Proof.Machine.execI3cHoldup s
  | .i3cUnknownCommand => Sys2Proof.Machine.execI3cUnknownCommand s
  | .i3cPrivateRead => Sys2Proof.Machine.execI3cPrivateRead s
  | .vfConfigRequest f item wr v => Sys2Proof.Machine.execVfConfigRequest f item wr v s
  | .apertureRequest f off n wr v => Sys2Proof.Machine.execApertureRequest f off n wr v s
  | .functionLevelReset f => Sys2Proof.Machine.execFunctionLevelReset f s
  | .partCommit v fw => Sys2Proof.Machine.execPartCommit v fw s
  | .partGrow v fw => Sys2Proof.Machine.execPartGrow v fw s
  | .partShrink v fw => Sys2Proof.Machine.execPartShrink v fw s
  | .shrinkComplete k => Sys2Proof.Machine.execShrinkComplete k s
  | .deferredLaunchEviction k => Sys2Proof.Machine.execDeferredLaunchEviction k s
  | .partCancel v fw => Sys2Proof.Machine.execPartCancel v fw s
  | .rungReset v fw => Sys2Proof.Machine.execRungReset v fw s
  | .invCtx v fw => Sys2Proof.Machine.execInvCtx v fw s
  | .rungTimeout k => Sys2Proof.Machine.execRungTimeout k s
  | .rungComplete k => Sys2Proof.Machine.execRungComplete k s
  | .classWaysWrite cls v fw => Sys2Proof.Machine.execClassWaysWrite cls v fw s
  | .classBwWrite cls v fw => Sys2Proof.Machine.execClassBwWrite cls v fw s
  | .pipeEnable n v link fw => Sys2Proof.Machine.execPipeEnable n v link fw s
  | .pipeDisable n v fw => Sys2Proof.Machine.execPipeDisable n v fw s
  | .layerTableCommit n v link fw => Sys2Proof.Machine.execLayerTableCommit n v link fw s
  | .layerCommitTake n => Sys2Proof.Machine.execLayerCommitTake n s
  | .coatSign k => Sys2Proof.Machine.execCoatSign k s
  | .frameDecision n => Sys2Proof.Machine.execFrameDecision n s
  | .scanoutTileCheck n ix t => Sys2Proof.Machine.execScanoutTileCheck n ix t s
  | .paneSelfTestStart p => Sys2Proof.Machine.execPaneSelfTestStart p s
  | .paneSelfTestEnd p fail => Sys2Proof.Machine.execPaneSelfTestEnd p fail s
  | .readmit v fw => Sys2Proof.Machine.execReadmit v fw s
  | .telltaleLoad v fw => Sys2Proof.Machine.execTelltaleLoad v fw s
  | .telltaleCopyComplete => Sys2Proof.Machine.execTelltaleCopyComplete s
  | .latchWrite w v fw => Sys2Proof.Machine.execLatchWrite w v fw s
  | .hudLatchTake => Sys2Proof.Machine.execHudLatchTake s
  | .cameraStreamWrite ix v fw => Sys2Proof.Machine.execCameraStreamWrite ix v fw s
  | .cameraFrameStart ch => Sys2Proof.Machine.execCameraFrameStart ch s
  | .cameraLine pk n v crc => Sys2Proof.Machine.execCameraLine pk n v crc s
  | .cameraFrameEnd ch => Sys2Proof.Machine.execCameraFrameEnd ch s
  | .cameraTxFrame port => Sys2Proof.Machine.execCameraTxFrame port s
  | .devqEnable v fw => Sys2Proof.Machine.execDevqEnable v fw s
  | .spareLane v fw => Sys2Proof.Machine.execSpareLane v fw s
  | .spareCell v fw => Sys2Proof.Machine.execSpareCell v fw s
  | .spareWay v fw => Sys2Proof.Machine.execSpareWay v fw s
  | .spareChannel v fw => Sys2Proof.Machine.execSpareChannel v fw s
  | .unfence v fw => Sys2Proof.Machine.execUnfence v fw s
  | .spareCmdComplete fail => Sys2Proof.Machine.execSpareCmdComplete fail s
  | .channelMigrationComplete => Sys2Proof.Machine.execChannelMigrationComplete s
  | .seamFlitReplay n => Sys2Proof.Machine.execSeamFlitReplay n s
  | .seamEyeCheck n lane fail => Sys2Proof.Machine.execSeamEyeCheck n lane fail s
  | .seamLaneFail n lane => Sys2Proof.Machine.execSeamLaneFail n lane s
  | .correctedError p => Sys2Proof.Machine.execCorrectedError p s
  | .ageSample phys m reading => Sys2Proof.Machine.execAgeSample phys m reading s
  | .beadSelfTestStart c q => Sys2Proof.Machine.execBeadSelfTestStart c q s
  | .beadSelfTestEnd c q fail => Sys2Proof.Machine.execBeadSelfTestEnd c q fail s
  | .beadSelfTestOverdue c q => Sys2Proof.Machine.execBeadSelfTestOverdue c q s
  | .keepDir v fw => Sys2Proof.Machine.execKeepDir v fw s
  | .keepData v fw => Sys2Proof.Machine.execKeepData v fw s
  | .keepErase v fw => Sys2Proof.Machine.execKeepErase v fw s
  | .keepCmdComplete => Sys2Proof.Machine.execKeepCmdComplete s
  | .rollback b => Sys2Proof.Machine.execRollback b s
  | .postTake f cls => Sys2Proof.Machine.execPostTake f cls s
  | .blockPlace p => Sys2Proof.Machine.execBlockPlace p s
  | .arbitration cell unit => Sys2Proof.Machine.execArbitration cell unit s
  | .groupWake ix => Sys2Proof.Machine.execGroupWake ix s
  | .sliceEnd r c => Sys2Proof.Machine.execSliceEnd r c s
  | .blockEvict b => Sys2Proof.Machine.execBlockEvict b s
  | .regionComplete r => Sys2Proof.Machine.execRegionComplete r s
  | .resultLanding ix k => Sys2Proof.Machine.execResultLanding ix k s
  | .groupSlotRelease ix => Sys2Proof.Machine.execGroupSlotRelease ix s
  | .trackerEntryFree ix => Sys2Proof.Machine.execTrackerEntryFree ix s
  | .contResultWrite k => Sys2Proof.Machine.execContResultWrite k s
  | .regroupRelaunch cell => Sys2Proof.Machine.execRegroupRelaunch cell s
  | .watchdogExpiry ix => Sys2Proof.Machine.execWatchdogExpiry ix s
  | .gateBudgetExpiry ix => Sys2Proof.Machine.execGateBudgetExpiry ix s
  | .sleepExpiry ix => Sys2Proof.Machine.execSleepExpiry ix s
  | .lineFillReturn g => Sys2Proof.Machine.execLineFillReturn g s
  | .releaseDrainComplete g => Sys2Proof.Machine.execReleaseDrainComplete g s
  | .tlbWalkComplete cell quad c va => Sys2Proof.Machine.execTlbWalkComplete cell quad c va s
  | .atomicPerform k => Sys2Proof.Machine.execAtomicPerform k s
  | .atomReply k => Sys2Proof.Machine.execAtomReply k s
  | .hodOpComplete cell quad k => Sys2Proof.Machine.execHodOpComplete cell quad k s
  | .msgDeliver k => Sys2Proof.Machine.execMsgDeliver k s
  | .monitorMatch ix => Sys2Proof.Machine.execMonitorMatch ix s
  | .monitorPoll ix => Sys2Proof.Machine.execMonitorPoll ix s
  | .kstep ix => Sys2Proof.Machine.execKstep ix s
  | .matrixOpComplete ix => Sys2Proof.Machine.execMatrixOpComplete ix s
  | .texComplete k => Sys2Proof.Machine.execTexComplete k s
  | .traceComplete k => Sys2Proof.Machine.execTraceComplete k s
  | .forcedRender k => Sys2Proof.Machine.execForcedRender k s
  | .ticketDone k t => Sys2Proof.Machine.execTicketDone k t s
  | .tileFlush k t => Sys2Proof.Machine.execTileFlush k t s
  | .tileStore k t => Sys2Proof.Machine.execTileStore k t s
  | .nop => Sys2Proof.Machine.execNop s
  | .exit => Sys2Proof.Machine.execExit s
  | .tail => Sys2Proof.Machine.execTail s
  | .trap ix => Sys2Proof.Machine.execTrap ix s
  | .brk ix => Sys2Proof.Machine.execBrk ix s
  | .resume => Sys2Proof.Machine.execResume s
  | .sread d n => Sys2Proof.Machine.execSread d n s
  | .swrite sx n => Sys2Proof.Machine.execSwrite sx n s
  | .sleepUntil sx => Sys2Proof.Machine.execSleepUntil sx s
  | .sleepCyc sx => Sys2Proof.Machine.execSleepCyc sx s
  | .yield => Sys2Proof.Machine.execYield s
  | .pfailDone => Sys2Proof.Machine.execPfailDone s
  | .ifKElse k o => Sys2Proof.Machine.execIfKElse k o s
  | .ifNkElse k o => Sys2Proof.Machine.execIfNkElse k o s
  | .ifSElse sx o => Sys2Proof.Machine.execIfSElse sx o s
  | .ifNsElse sx o => Sys2Proof.Machine.execIfNsElse sx o s
  | .ifK k o => Sys2Proof.Machine.execIfK k o s
  | .ifNk k o => Sys2Proof.Machine.execIfNk k o s
  | .ifS sx o => Sys2Proof.Machine.execIfS sx o s
  | .ifNs sx o => Sys2Proof.Machine.execIfNs sx o s
  | .elseArm o => Sys2Proof.Machine.execElseArm o s
  | .endif => Sys2Proof.Machine.execEndif s
  | .loop o => Sys2Proof.Machine.execLoop o s
  | .endloop => Sys2Proof.Machine.execEndloop s
  | .breakK k => Sys2Proof.Machine.execBreakK k s
  | .breakS sx => Sys2Proof.Machine.execBreakS sx s
  | .continueK k => Sys2Proof.Machine.execContinueK k s
  | .continueS sx => Sys2Proof.Machine.execContinueS sx s
  | .call o => Sys2Proof.Machine.execCall o s
  | .ret => Sys2Proof.Machine.execRet s
  | .gate ix => Sys2Proof.Machine.execGate ix s
  | .gret => Sys2Proof.Machine.execGret s
  | .bar => Sys2Proof.Machine.execBar s
  | .barArrive => Sys2Proof.Machine.execBarArrive s
  | .barDrop => Sys2Proof.Machine.execBarDrop s
  | .barWait => Sys2Proof.Machine.execBarWait s
  | .bobjInit p b m => Sys2Proof.Machine.execBobjInit p b m s
  | .bobjJoin b => Sys2Proof.Machine.execBobjJoin b s
  | .bobjLeave b => Sys2Proof.Machine.execBobjLeave b s
  | .bobjArrive p b a => Sys2Proof.Machine.execBobjArrive p b a s
  | .bobjExpect p b => Sys2Proof.Machine.execBobjExpect p b s
  | .bobjWait p b => Sys2Proof.Machine.execBobjWait p b s
  | .bobjTest p b => Sys2Proof.Machine.execBobjTest p b s
  | .waitCnt n c => Sys2Proof.Machine.execWaitCnt n c s
  | .fence sx o => Sys2Proof.Machine.execFence sx o s
  | .semSet a n => Sys2Proof.Machine.execSemSet a n s
  | .semAdd a n => Sys2Proof.Machine.execSemAdd a n s
  | .semWaitge a n => Sys2Proof.Machine.execSemWaitge a n s
  | .semRead d n => Sys2Proof.Machine.execSemRead d n s
  | .waitc r w c a b => Sys2Proof.Machine.execWaitc r w c a b s
  | .monCancel => Sys2Proof.Machine.execMonCancel s
  | .launch r d => Sys2Proof.Machine.execLaunch r d s
  | .regionJoin d => Sys2Proof.Machine.execRegionJoin d s
  | .msgSend r b => Sys2Proof.Machine.execMsgSend r b s
  | .msgRecv r b c => Sys2Proof.Machine.execMsgRecv r b c s
  | .msgPoll r b c => Sys2Proof.Machine.execMsgPoll r b c s
  | .msgFree r c => Sys2Proof.Machine.execMsgFree r c s
  | .primEmit a b => Sys2Proof.Machine.execPrimEmit a b s
  | .primEmitClose b => Sys2Proof.Machine.execPrimEmitClose b s
  | .tileGet k b => Sys2Proof.Machine.execTileGet k b s
  | .tileDone => Sys2Proof.Machine.execTileDone s
  | .tileAttr d w => Sys2Proof.Machine.execTileAttr d w s
  | .edge d => Sys2Proof.Machine.execEdge d s
  | .interp d p f => Sys2Proof.Machine.execInterp d p f s
  | .samplepos d p => Sys2Proof.Machine.execSamplepos d p s
  | .glzInsert z sx c => Sys2Proof.Machine.execGlzInsert z sx c s
  | .glzCount d sx => Sys2Proof.Machine.execGlzCount d sx s
  | .glzRead d sx ix => Sys2Proof.Machine.execGlzRead d sx ix s
  | .glzResolve d sx b => Sys2Proof.Machine.execGlzResolve d sx b s
  | .glzResolveClr d sx b => Sys2Proof.Machine.execGlzResolveClr d sx b s
  | .glzClear sx => Sys2Proof.Machine.execGlzClear sx s
  | .texSample d a b cm f lm c => Sys2Proof.Machine.execTexSample d a b cm f lm c s
  | .texLoad d a b cm f lm c => Sys2Proof.Machine.execTexLoad d a b cm f lm c s
  | .texGather4 d a b cm f lm c => Sys2Proof.Machine.execTexGather4 d a b cm f lm c s
  | .texLod d a b cm f lm c => Sys2Proof.Machine.execTexLod d a b cm f lm c s
  | .texSampleC d a b cm f lm c => Sys2Proof.Machine.execTexSampleC d a b cm f lm c s
  | .texLoadC d a b cm f lm c => Sys2Proof.Machine.execTexLoadC d a b cm f lm c s
  | .texGather4C d a b cm f lm c => Sys2Proof.Machine.execTexGather4C d a b cm f lm c s
  | .texLodC d a b cm f lm c => Sys2Proof.Machine.execTexLodC d a b cm f lm c s
  | .trace d a b tf any => Sys2Proof.Machine.execTrace d a b tf any s
  | .traceC d a b tf any => Sys2Proof.Machine.execTraceC d a b tf any s
  | .hitReport d a => Sys2Proof.Machine.execHitReport d a s
  | .hitAccept d => Sys2Proof.Machine.execHitAccept d s
  | .hitIgnore d => Sys2Proof.Machine.execHitIgnore d s
  | .contKey a => Sys2Proof.Machine.execContKey a s
  | .repack sx => Sys2Proof.Machine.execRepack sx s
  | .iadd d a b lit => Sys2Proof.Machine.execIadd d a b lit s
  | .iaddSat d a b lit => Sys2Proof.Machine.execIaddSat d a b lit s
  | .iaddSatU d a b lit => Sys2Proof.Machine.execIaddSatU d a b lit s
  | .isub d a b lit => Sys2Proof.Machine.execIsub d a b lit s
  | .isubSat d a b lit => Sys2Proof.Machine.execIsubSat d a b lit s
  | .isubSatU d a b lit => Sys2Proof.Machine.execIsubSatU d a b lit s
  | .ineg d a lit => Sys2Proof.Machine.execIneg d a lit s
  | .iabs d a lit => Sys2Proof.Machine.execIabs d a lit s
  | .iabsd d a b lit => Sys2Proof.Machine.execIabsd d a b lit s
  | .iabsdU d a b lit => Sys2Proof.Machine.execIabsdU d a b lit s
  | .iaddCc d a b ci kc => Sys2Proof.Machine.execIaddCc d a b ci kc s
  | .isubCc d a b ci kc => Sys2Proof.Machine.execIsubCc d a b ci kc s
  | .imulLo d a b lit => Sys2Proof.Machine.execImulLo d a b lit s
  | .imulHi d a b lit => Sys2Proof.Machine.execImulHi d a b lit s
  | .imulHiU d a b lit => Sys2Proof.Machine.execImulHiU d a b lit s
  | .imac d a b c => Sys2Proof.Machine.execImac d a b c s
  | .idot4 d a b sat bu au c => Sys2Proof.Machine.execIdot4 d a b sat bu au c s
  | .and d a b lit => Sys2Proof.Machine.execAnd d a b lit s
  | .or d a b lit => Sys2Proof.Machine.execOr d a b lit s
  | .xor d a b lit => Sys2Proof.Machine.execXor d a b lit s
  | .andn d a b lit => Sys2Proof.Machine.execAndn d a b lit s
  | .not d a lit => Sys2Proof.Machine.execNot d a lit s
  | .shl d a b lit => Sys2Proof.Machine.execShl d a b lit s
  | .shr d a b lit => Sys2Proof.Machine.execShr d a b lit s
  | .sar d a b lit => Sys2Proof.Machine.execSar d a b lit s
  | .rotl d a b lit => Sys2Proof.Machine.execRotl d a b lit s
  | .fshr d a b c => Sys2Proof.Machine.execFshr d a b c s
  | .imin d a b lit => Sys2Proof.Machine.execImin d a b lit s
  | .iminU d a b lit => Sys2Proof.Machine.execIminU d a b lit s
  | .imax d a b lit => Sys2Proof.Machine.execImax d a b lit s
  | .imaxU d a b lit => Sys2Proof.Machine.execImaxU d a b lit s
  | .icmp c k a b lit => Sys2Proof.Machine.execIcmp c k a b lit s
  | .popc d a lit => Sys2Proof.Machine.execPopc d a lit s
  | .clz d a lit => Sys2Proof.Machine.execClz d a lit s
  | .brev d a lit => Sys2Proof.Machine.execBrev d a lit s
  | .bfe d a b lit => Sys2Proof.Machine.execBfe d a b lit s
  | .bfeS d a b lit => Sys2Proof.Machine.execBfeS d a b lit s
  | .bfi d a b c => Sys2Proof.Machine.execBfi d a b c s
  | .iaddi d a ix => Sys2Proof.Machine.execIaddi d a ix s
  | .andi d a ix => Sys2Proof.Machine.execAndi d a ix s
  | .ori d a ix => Sys2Proof.Machine.execOri d a ix s
  | .xori d a ix => Sys2Proof.Machine.execXori d a ix s
  | .shli d a ix => Sys2Proof.Machine.execShli d a ix s
  | .shri d a ix => Sys2Proof.Machine.execShri d a ix s
  | .sari d a ix => Sys2Proof.Machine.execSari d a ix s
  | .fadd sx p d a b lit => Sys2Proof.Machine.execFadd sx p d a b lit s
  | .fsub sx p d a b lit => Sys2Proof.Machine.execFsub sx p d a b lit s
  | .fmul sx p d a b lit => Sys2Proof.Machine.execFmul sx p d a b lit s
  | .fmin sx p d a b lit => Sys2Proof.Machine.execFmin sx p d a b lit s
  | .fmax sx p d a b lit => Sys2Proof.Machine.execFmax sx p d a b lit s
  | .fmac sx p d a b lit => Sys2Proof.Machine.execFmac sx p d a b lit s
  | .fma sx p d a b c => Sys2Proof.Machine.execFma sx p d a b c s
  | .flerp sx p d a b c => Sys2Proof.Machine.execFlerp sx p d a b c s
  | .fcmp c k a b lit => Sys2Proof.Machine.execFcmp c k a b lit s
  | .fclass d a lit => Sys2Proof.Machine.execFclass d a lit s
  | .frcp p d a lit => Sys2Proof.Machine.execFrcp p d a lit s
  | .frsq p d a lit => Sys2Proof.Machine.execFrsq p d a lit s
  | .fsqrt p d a lit => Sys2Proof.Machine.execFsqrt p d a lit s
  | .fexp2 p d a lit => Sys2Proof.Machine.execFexp2 p d a lit s
  | .flog2 p d a lit => Sys2Proof.Machine.execFlog2 p d a lit s
  | .fsin p d a lit => Sys2Proof.Machine.execFsin p d a lit s
  | .fcos p d a lit => Sys2Proof.Machine.execFcos p d a lit s
  | .ftanh p d a lit => Sys2Proof.Machine.execFtanh p d a lit s
  | .cvt d a el sf sat rm df => Sys2Proof.Machine.execCvt d a el sf sat rm df s
  | .frnd d a p m lit => Sys2Proof.Machine.execFrnd d a p m lit s
  | .cvtPk2 d a b sat rm df => Sys2Proof.Machine.execCvtPk2 d a b sat rm df s
  | .cvtPk4 p d a b sat rm df => Sys2Proof.Machine.execCvtPk4 p d a b sat rm df s
  | .cvtPk8 p d a b sat rm df => Sys2Proof.Machine.execCvtPk8 p d a b sat rm df s
  | .cvtUnpk2 e d a b sc sf => Sys2Proof.Machine.execCvtUnpk2 e d a b sc sf s
  | .cvtUnpk4 e d a b sc sf => Sys2Proof.Machine.execCvtUnpk4 e d a b sc sf s
  | .cvtUnpk8 e d a b sc sf => Sys2Proof.Machine.execCvtUnpk8 e d a b sc sf s
  | .quantBlk d a b blk sm rm tf => Sys2Proof.Machine.execQuantBlk d a b blk sm rm tf s
  | .cbkDec d a b bf p => Sys2Proof.Machine.execCbkDec d a b bf p s
  | .mov d a lit => Sys2Proof.Machine.execMov d a lit s
  | .sel d a b kn => Sys2Proof.Machine.execSel d a b kn s
  | .bcast d a l => Sys2Proof.Machine.execBcast d a l s
  | .bcastFirst d a => Sys2Proof.Machine.execBcastFirst d a s
  | .ballot k a => Sys2Proof.Machine.execBallot k a s
  | .shflIdx d a b lit => Sys2Proof.Machine.execShflIdx d a b lit s
  | .shflUp d a n => Sys2Proof.Machine.execShflUp d a n s
  | .shflDn d a n => Sys2Proof.Machine.execShflDn d a n s
  | .shflXor d a n => Sys2Proof.Machine.execShflXor d a n s
  | .redAdd d a lit => Sys2Proof.Machine.execRedAdd d a lit s
  | .redAddF32 d a lit => Sys2Proof.Machine.execRedAddF32 d a lit s
  | .redMin d a lit => Sys2Proof.Machine.execRedMin d a lit s
  | .redMinU d a lit => Sys2Proof.Machine.execRedMinU d a lit s
  | .redMinF32 d a lit => Sys2Proof.Machine.execRedMinF32 d a lit s
  | .redMax d a lit => Sys2Proof.Machine.execRedMax d a lit s
  | .redMaxU d a lit => Sys2Proof.Machine.execRedMaxU d a lit s
  | .redMaxF32 d a lit => Sys2Proof.Machine.execRedMaxF32 d a lit s
  | .scanAdd d a lit => Sys2Proof.Machine.execScanAdd d a lit s
  | .scanAddEx d a lit => Sys2Proof.Machine.execScanAddEx d a lit s
  | .scanAddF32 d a lit => Sys2Proof.Machine.execScanAddF32 d a lit s
  | .sadd d a b => Sys2Proof.Machine.execSadd d a b s
  | .ssub d a b => Sys2Proof.Machine.execSsub d a b s
  | .smul d a b => Sys2Proof.Machine.execSmul d a b s
  | .smulh d a b => Sys2Proof.Machine.execSmulh d a b s
  | .sand d a b => Sys2Proof.Machine.execSand d a b s
  | .sor d a b => Sys2Proof.Machine.execSor d a b s
  | .sxor d a b => Sys2Proof.Machine.execSxor d a b s
  | .sandn d a b => Sys2Proof.Machine.execSandn d a b s
  | .sshl d a b => Sys2Proof.Machine.execSshl d a b s
  | .sshr d a b => Sys2Proof.Machine.execSshr d a b s
  | .ssar d a b => Sys2Proof.Machine.execSsar d a b s
  | .srotl d a b => Sys2Proof.Machine.execSrotl d a b s
  | .scmpEq d a b => Sys2Proof.Machine.execScmpEq d a b s
  | .scmpLt d a b => Sys2Proof.Machine.execScmpLt d a b s
  | .scmpLtu d a b => Sys2Proof.Machine.execScmpLtu d a b s
  | .scmpLe d a b => Sys2Proof.Machine.execScmpLe d a b s
  | .smovi d ix => Sys2Proof.Machine.execSmovi d ix s
  | .smovhi d ix => Sys2Proof.Machine.execSmovhi d ix s
  | .saddi d ix => Sys2Proof.Machine.execSaddi d ix s
  | .scmpi d a c ix => Sys2Proof.Machine.execScmpi d a c ix s
  | .sadd64 d a b => Sys2Proof.Machine.execSadd64 d a b s
  | .ssub64 d a b => Sys2Proof.Machine.execSsub64 d a b s
  | .smul64 d a b => Sys2Proof.Machine.execSmul64 d a b s
  | .sshl64 d a b => Sys2Proof.Machine.execSshl64 d a b s
  | .smin d a b => Sys2Proof.Machine.execSmin d a b s
  | .smax d a b => Sys2Proof.Machine.execSmax d a b s
  | .spopc d a => Sys2Proof.Machine.execSpopc d a s
  | .sclz d a => Sys2Proof.Machine.execSclz d a s
  | .vget d a b => Sys2Proof.Machine.execVget d a b s
  | .vset d a b => Sys2Proof.Machine.execVset d a b s
  | .ktos d k => Sys2Proof.Machine.execKtos d k s
  | .stok k a => Sys2Proof.Machine.execStok k a s
  | .kand d a b => Sys2Proof.Machine.execKand d a b s
  | .kor d a b => Sys2Proof.Machine.execKor d a b s
  | .kxor d a b => Sys2Proof.Machine.execKxor d a b s
  | .knot d a => Sys2Proof.Machine.execKnot d a s
  | .kmov d a => Sys2Proof.Machine.execKmov d a s
  | .ddx d a lit => Sys2Proof.Machine.execDdx d a lit s
  | .ddxCoarse d a lit => Sys2Proof.Machine.execDdxCoarse d a lit s
  | .ddy d a lit => Sys2Proof.Machine.execDdy d a lit s
  | .ddyCoarse d a lit => Sys2Proof.Machine.execDdyCoarse d a lit s
  | .qswap d a m => Sys2Proof.Machine.execQswap d a m s
  | .tlbInv a l => Sys2Proof.Machine.execTlbInv a l s
  | .ixuLoad a sx => Sys2Proof.Machine.execIxuLoad a sx s
  | .ccFlush => Sys2Proof.Machine.execCcFlush s
  | .ccInval => Sys2Proof.Machine.execCcInval s
  | .bndSet a => Sys2Proof.Machine.execBndSet a s
  | .ldcU8 d ix x b lit => Sys2Proof.Machine.execLdcU8 d ix x b lit s
  | .ldcS8 d ix x b lit => Sys2Proof.Machine.execLdcS8 d ix x b lit s
  | .ldcU16 d ix x b lit => Sys2Proof.Machine.execLdcU16 d ix x b lit s
  | .ldcS16 d ix x b lit => Sys2Proof.Machine.execLdcS16 d ix x b lit s
  | .ldc d ix x b lit => Sys2Proof.Machine.execLdc d ix x b lit s
  | .ldc64 d ix x b lit => Sys2Proof.Machine.execLdc64 d ix x b lit s
  | .ldcBc d ix x b lit => Sys2Proof.Machine.execLdcBc d ix x b lit s
  | .ldcOrdered d ix x b sc od sz => Sys2Proof.Machine.execLdcOrdered d ix x b sc od sz s
  | .stc8 sx ix x b lit => Sys2Proof.Machine.execStc8 sx ix x b lit s
  | .stc16 sx ix x b lit => Sys2Proof.Machine.execStc16 sx ix x b lit s
  | .stc sx ix x b lit => Sys2Proof.Machine.execStc sx ix x b lit s
  | .stc64 sx ix x b lit => Sys2Proof.Machine.execStc64 sx ix x b lit s
  | .stcOrdered sx ix x b sc od sz => Sys2Proof.Machine.execStcOrdered sx ix x b sc od sz s
  | .ldp d ix b lit => Sys2Proof.Machine.execLdp d ix b lit s
  | .stp sx ix b lit => Sys2Proof.Machine.execStp sx ix b lit s
  | .gld d ix x b lit => Sys2Proof.Machine.execGld d ix x b lit s
  | .gld64 d ix x b lit => Sys2Proof.Machine.execGld64 d ix x b lit s
  | .gld128 d ix x b lit => Sys2Proof.Machine.execGld128 d ix x b lit s
  | .gldOrdered d ix x b sc od sz => Sys2Proof.Machine.execGldOrdered d ix x b sc od sz s
  | .gst sx ix x b lit => Sys2Proof.Machine.execGst sx ix x b lit s
  | .gst64 sx ix x b lit => Sys2Proof.Machine.execGst64 sx ix x b lit s
  | .gst128 sx ix x b lit => Sys2Proof.Machine.execGst128 sx ix x b lit s
  | .gstOrdered sx ix x b sc od sz => Sys2Proof.Machine.execGstOrdered sx ix x b sc od sz s
  | .latom o d ix x b sc op c => Sys2Proof.Machine.execLatom o d ix x b sc op c s
  | .atom o sl ix x b sc op c => Sys2Proof.Machine.execAtom o sl ix x b sc op c s
  | .ared z ix x b sc op c => Sys2Proof.Machine.execAred z ix x b sc op c s
  | .aredRel z ix x b sc op c => Sys2Proof.Machine.execAredRel z ix x b sc op c s
  | .rslotLd d sx => Sys2Proof.Machine.execRslotLd d sx s
  | .rslotLd64 d sx => Sys2Proof.Machine.execRslotLd64 d sx s
  | .rslotTest k sx => Sys2Proof.Machine.execRslotTest k sx s
  | .hodCopy d b => Sys2Proof.Machine.execHodCopy d b s
  | .hodGather d b => Sys2Proof.Machine.execHodGather d b s
  | .hodScatter d b => Sys2Proof.Machine.execHodScatter d b s
  | .hodFill d b => Sys2Proof.Machine.execHodFill d b s
  | .hodSend d b => Sys2Proof.Machine.execHodSend d b s
  | .hodReduce d b => Sys2Proof.Machine.execHodReduce d b s
  | .hodPrefetch d b => Sys2Proof.Machine.execHodPrefetch d b s
  | .ccPrefetch a l => Sys2Proof.Machine.execCcPrefetch a l s
  | .ccWb a l => Sys2Proof.Machine.execCcWb a l s
  | .ccDiscard a l => Sys2Proof.Machine.execCcDiscard a l s
  | .ringAcq d r => Sys2Proof.Machine.execRingAcq d r s
  | .ringCommit a r => Sys2Proof.Machine.execRingCommit a r s
  | .ringWait d r => Sys2Proof.Machine.execRingWait d r s
  | .ringFree a r => Sys2Proof.Machine.execRingFree a r s
  | .beadMode a => Sys2Proof.Machine.execBeadMode a s
  | .beadMma c a b => Sys2Proof.Machine.execBeadMma c a b s
  | .beadMmaz c a b => Sys2Proof.Machine.execBeadMmaz c a b s
  | .beadZero c => Sys2Proof.Machine.execBeadZero c s
  | .beadSync a => Sys2Proof.Machine.execBeadSync a s
  | .beadScale c a => Sys2Proof.Machine.execBeadScale c a s
  | .palReserve p a d => Sys2Proof.Machine.execPalReserve p a d s
  | .palFill p a b => Sys2Proof.Machine.execPalFill p a b s
  | .palFillk p a b => Sys2Proof.Machine.execPalFillk p a b s
  | .palRelease p => Sys2Proof.Machine.execPalRelease p s
  | .cbDrain c a b => Sys2Proof.Machine.execCbDrain c a b s
  | .cbLoad c a => Sys2Proof.Machine.execCbLoad c a s
  | .cbClear c n => Sys2Proof.Machine.execCbClear c n s
  | .omDepth d a w o => Sys2Proof.Machine.execOmDepth d a w o s
  | .omWrite m a c => Sys2Proof.Machine.execOmWrite m a c s
  | .omLoad d sx => Sys2Proof.Machine.execOmLoad d sx s
  | .omLatch a w => Sys2Proof.Machine.execOmLatch a w s
  | .dclkReturn => Sys2Proof.Machine.execDclkReturn s
  | .clampConditionClear => Sys2Proof.Machine.execClampConditionClear s
  | .pcieLinkStateChange st width rate hot => Sys2Proof.Machine.execPcieLinkStateChange st width rate hot s

end Sys2Proof.Machine
end

