-- ==== Sys2Proof/Machine/Step.lean ====
section
/-! DEFINITION. The step of the machine, and the placing of one instruction where the step fetches. -/
namespace Sys2Proof.Machine
open Sys2Proof

/-- An outcome with its next state changed. -/
def mapNext (f : State → State) : Host.Outcome State Fault Refusal → Host.Outcome State Fault Refusal
  | .next s => .next (f s)
  | .fault e => .fault e
  | .refused r => .refused r

/-- A group's turn: what it runs, or what happens instead. -/
noncomputable def State.takeTurn (s : State) (i : Nat) : Host.Outcome State Fault Refusal :=
  match s.issue i with
  | .done t => .next { t with turn := .none }
  | .run ins t => mapNext (fun u => t.endTurn u i) (exec ins t)

/-- What happens after time has passed: the head of the agenda, else the turn of a group, else a free choice. -/
noncomputable def State.act (s : State) : Host.Outcome State Fault Refusal :=
  match s.agenda with
  | e :: rest => exec e { s with agenda := rest }
  | [] => match s.turn with
    | some i => s.takeTurn i
    | .none => match s.next with
      | (.none, t) => .next t
      | (some (.event e), t) => exec e t
      | (some (.turn i), t) => { t with turn := some i }.takeTurn i
      | (some c, t) => .next (t.internal c)

/-- ONE STEP: time passes, then one thing happens. -/
noncomputable def step (s : State) : Host.Outcome State Fault Refusal := s.tick.act

/-! ### The placing of an instruction -/

/-- The virtual and physical address of the clause of `withFetchWord`. -/
def fetchAt : Nat := 0x10000

/-- The segment, region and block of a group that stands at that clause with SYSTEM privilege. -/
def fetchSeg (matrix : Bool) : Segment := ⟨true, if matrix then .matrix else .general, 32, 8, 0, BitVec.ofNat 64 fetchAt⟩

def fetchRegion (matrix : Bool) : Region :=
  { ctx := 0, part := 0, rcb := 0#64, cls := 2, prio := 0, depth := 0, parent := .none, byBlock := .none, sys := true
    bwcap := 0, qset := [(0, 0)], grid := 1, segs := [fetchSeg matrix], rings := [], shared := 0x1000
    privw := 0, ucap := 0, fdom := .report, gang := false, slice := 0, doneAddr := 0#64, doneVal := 0, doneIrq := false
    coat := .none, mustSave := 0#64, ways := 0, nextBlock := 1, order := 0, admitted := true, waiting := false, complete := false
    anyTerminated := false, charge := [], sliceEnded := [], charged := [], barring := false, privPool := 0, privPoolLen := 0, spillBase := 0 }

def fetchBlock : Block :=
  { region := 0, index := 0, ctx := 0, part := 0, resident := true, placed := true, retired := false, terminated := false
    cells := [0], barP := 0, barE := 32, barA := 0, arrived := [], dropped := [], lastphase := [], segBase := [0x50000]
    shared := 0x1000, shadowBase := [], ucap := 0, fdom := .report, rings := [], ringHw := [], privBase := 0, privLen := 0
    privw := 0, imageBase := 0, imageLen := 0, rs := [0], tags := [], shadow := .none, early := false, retries := 0
    rollPending := false, image := .none }

/-- The group. -/
def fetchGroup (matrix : Bool) : Group :=
  (Group.born (fetchRegion matrix) 0 0 0 (fetchSeg matrix) (List.range 32) (if matrix then 1#32 else BitVec.allOnes 32)
    ⟨0, 0, 0, 0, matrix⟩ (BitVec.ofNat 64 fetchAt) false 0 0).withCtl fun c => { c with status := .running }

/-- The clause that holds an instruction of `n` words: its header with COUNT n, ENG 7 and RUNEND, then the words. -/
def fetchClauseBytes (n v : Nat) : List Byte := leBytes 4 (0xA50000F0 + n) ++ leBytes 8 v

/-- The state with one instruction placed where the next step fetches: the words of the instruction in a clause in
memory, its page in the translation buffer of a cell in C-ACT, and a resident group that stands at the clause and
takes the next turn. -/
def State.withFetchWord (s : State) (nbits w : Nat) : State :=
  let v := w % 2 ^ nbits
  let maj := v % 2 ^ 32 / 2 ^ 26
  let matrix := decide (0x3C ≤ maj ∧ maj ≤ 0x3E)
  let e : TlbEntry := { func := 0, asid := 0, va := 0, size := unit2M, pa := 0, w := true, u := true, xn := false, mem := 0, gpa := 0, level := 2 }
  let quad (q : Quad) : Quad := { q with owned := true, owner := 0, tlb := [e] }
  let cell (c : Cell) : Cell := { c with power := .act, quads := modifyAt c.quads 0 quad }
  { s with
    groups := [fetchGroup matrix], blocks := [fetchBlock], regions := [fetchRegion matrix]
    mem := s.mem.put fetchAt (fetchClauseBytes (instrWords (v % 2 ^ 32)) v), memPoison := []
    cells := modifyAt s.cells 0 cell, panes := modifyAt s.panes 0 fun p => { p with power := .on }
    ctxs := s.ctxs.set 0 { Context.free with func := some 0, state := 1 }
    partOwner := s.partOwner.set 0 0
    hub := { s.hub with sysclk := true, dclk := false, save := .none }
    agenda := [], turn := some 0 }

end Sys2Proof.Machine
end

