-- ==== Sys2Proof/Safety.lean ====
section
/-! DEFINITION. The terms in which claims about the machine are stated: a step that goes on, the canonical form
of every byte store of the state, a group that can issue an instruction without a check, a wait or the skim
engine coming between, and what an instruction leaves as it was. -/
namespace Sys2Proof.Machine
open Sys2Proof

/-- A state from which the machine goes on. -/
def Safe (s : State) : Prop := ∃ t, step s = .next t

/-- Every byte store that a memory of the device is held in is in its canonical form. -/
def State.canonical (s : State) : Bool :=
  s.mem.wf
    && s.windows.all (fun w => w.mem.wf && w.cache.wf)
    && s.cells.all (fun c => c.quads.all fun q => q.palette.wf)
    && s.hub.bootBuf.wf && s.hub.mesh.wf && s.hub.keep.wf && s.hub.fns.all (fun f => f.msix.wf)

/-! ### A group that issues -/

/-- The group with the registers named written as general values: the most that they can take (08 R223). -/
def Group.widest (g : Group) (rs : List Nat) : Group :=
  rs.foldl (fun g r => g.withRegs fun x => { x with v := putAt VReg.zero x.v r ⟨.general [], 0, .none⟩ }) g

/-- Group `i`, which is `g`, issues an instruction with the checks and registers of `p`, and nothing comes
between: it has the turn (07 R194); no check of 12 R325 fails, and within a gate call the family is permitted there
(13 R347); no register that the instruction names awaits a
result (07 R205) or is spilled (08 R224), and none that it reads is poisoned (05 R131); no skid is in progress
(05 R132); and its results fit the group's budget, whatever shape they take (08 R223). The byte stores are in their
canonical form, which every step keeps. -/
structure Ready (s : State) (i : Nat) (g : Group) (p : Info) : Prop where
  canonical : s.canonical = true
  turn : s.issuer = some (i, g)
  legal : preFault g p = .none
  permitted : g.barred p = false
  landed : g.scoreboard p = false
  resident : ∀ r ∈ p.named, (g.vreg r).tag = 0
  clean : ∀ r ∈ p.reads, (g.vreg r).poison = .none
  steady : g.trap.skid = []
  room : (g.widest p.writes).usage ≤ g.entryBudget

/-- The group after an instruction of `n` words has completed with the group otherwise as `g`: it has advanced
(12 R314, R318), and it has executed one instruction more. -/
def Group.completed (g : Group) (n now : Nat) : Group :=
  (g.advance n now).withCtl fun c => { c with issued := c.issued + 1 }

/-- The state after group `i` has completed an instruction of `n` words that leaves it as `g` and everything else
as it was. -/
def State.completes (s : State) (i : Nat) (g : Group) (n : Nat) : State :=
  s.setGroup i (g.completed n (s.now g))

/-! ### Frames -/

/-- Nothing but group `i` has changed from `s` to `t`, and it is `g` now: no byte of the home copy, of a cell's
storage, of a cell cache or of a palette, no other group, no block, and no register of the device. -/
structure OnlyGroup (s t : State) (i : Nat) (g : Group) : Prop where
  same : t = s.setGroup i g
  mem : ∀ a, t.mem.get a = s.mem.get a
  store : ∀ p c a, (t.window p c).mem.get a = (s.window p c).mem.get a
  cache : ∀ p c a, (t.window p c).cache.get a = (s.window p c).cache.get a
  others : ∀ j, j ≠ i → t.group j = s.group j
  self : t.group i = g

/-- From `g` to `h` no register has changed but those named: the vector registers `vs`, the scalar registers `ss`
and the lane masks `ks`. -/
structure KeepsRegs (g h : Group) (vs ss ks : List Nat) : Prop where
  v : ∀ r, r ∉ vs → h.vreg r = g.vreg r
  s : ∀ r, r ∉ ss → h.sreg r = g.sreg r
  k : ∀ r, r ∉ ks → r ≠ 0 → h.kreg r = g.kreg r
  pend : h.regs.pend = g.regs.pend

/-- From `g` to `h` nothing has changed but the registers, the special registers, the group's identity and the place
in its code at which it stands: its place in the part, its masks and stack, its trap handling, its asynchronous and
matrix state. -/
structure KeepsRest (g h : Group) : Prop where
  loc : h.loc = g.loc
  trap : h.trap = g.trap
  asy : h.asy = g.asy
  mat : h.mat = g.mat
  mons : h.mons = g.mons
  paused : h.paused = g.paused
  act : h.ctl.act = g.ctl.act
  live : h.ctl.live = g.ctl.live
  helper : h.ctl.helper = g.ctl.helper
  stack : h.ctl.stack = g.ctl.stack

/-! ### What an instruction of a ready group does -/

/-- The instruction completes where `when_` holds; its group goes on at the next word; in each live lane that is
active, vector register `d` holds `f` of the group as it was, and in each other live lane what it held; the special
registers and the identity are as `sr` and `id` give them; and nothing else changes. -/
def WritesV (ins : Instr) (p : Info) (d : Nat) (f : Group → Nat → Word) (when_ : Group → Prop := fun _ => True)
    (sr : Group → GSpecial := fun g => g.sr) (id : Group → GIdent := fun g => g.id) : Prop :=
  ∀ (s : State) (i : Nat) (g : Group), Ready s i g p → when_ g → ∃ t h,
    exec ins s = .next t ∧ OnlyGroup s t i h ∧ KeepsRest g h ∧ KeepsRegs g h [d] [] [] ∧ h.sr = sr g ∧ h.id = id g ∧
    h.ctl.pc = (g.nextPc p.words).1 ∧
    ∀ l, l < 32 → g.ctl.live.has l = true →
      (h.vreg d).val.lane l = if g.ctl.act.has l then f g l else (g.vreg d).val.lane l

/-- The same for an instruction that writes lane mask `k`. -/
def WritesK (ins : Instr) (p : Info) (k : Nat) (f : Group → Lanes) (when_ : Group → Prop := fun _ => True)
    (sr : Group → GSpecial := fun g => g.sr) : Prop :=
  ∀ (s : State) (i : Nat) (g : Group), Ready s i g p → when_ g → ∃ t h,
    exec ins s = .next t ∧ OnlyGroup s t i h ∧ KeepsRest g h ∧ KeepsRegs g h [] [] [k] ∧ h.sr = sr g ∧ h.id = g.id ∧
    h.ctl.pc = (g.nextPc p.words).1 ∧ h.kreg k = f g

/-- The same for an instruction that writes scalar register `d`. -/
def WritesS (ins : Instr) (p : Info) (d : Nat) (f : Group → Word) : Prop :=
  ∀ (s : State) (i : Nat) (g : Group), Ready s i g p → ∃ t h,
    exec ins s = .next t ∧ OnlyGroup s t i h ∧ KeepsRest g h ∧ KeepsRegs g h [] [d] [] ∧ h.sr = g.sr ∧ h.id = g.id ∧
    h.ctl.pc = (g.nextPc p.words).1 ∧ h.sreg d = f g

/-- The same for an instruction that writes the scalar pair of register `d` (08 R218). -/
def WritesPair (ins : Instr) (p : Info) (d : Nat) (f : Group → DWord) : Prop :=
  ∀ (s : State) (i : Nat) (g : Group), Ready s i g p → ∃ t h,
    exec ins s = .next t ∧ OnlyGroup s t i h ∧ KeepsRest g h ∧ KeepsRegs g h [] [d, d + 1] [] ∧ h.sr = g.sr ∧
    h.id = g.id ∧ h.ctl.pc = (g.nextPc p.words).1 ∧ h.spair d = f g

/-- The lanes' flags raise no trap: none of them is enabled in sr.fpctl (14 R374). -/
def NoTrap (fl : Group → Nat → FFlags) (g : Group) : Prop := ∀ l, g.flagLanes.has l = true → fl g l &&& g.trapEn = 0#5

/-- The special registers with the flags of the lanes that raise them ORed into sr.fpstat (10 R277). -/
def flagged (fl : Group → Nat → FFlags) (g : Group) : GSpecial :=
  { g.sr with fpstat := g.sr.fpstat ||| (orFlags g.flagLanes (fl g)).setWidth 32 }

/-- An instruction whose result in a lane comes with flags, where `when_` holds and no flag traps. -/
def WritesF (ins : Instr) (p : Info) (d : Nat) (r : Group → Nat → Word × FFlags) (when_ : Group → Prop := fun _ => True)
    (id : Group → GIdent := fun g => g.id) : Prop :=
  WritesV ins p d (fun g l => (r g l).1) (fun g => when_ g ∧ NoTrap (fun g l => (r g l).2) g)
    (flagged fun g l => (r g l).2) id

/-! ### Forms of vector instructions, at every operand and literal -/

/-- One source, with an EL word where the source is code 124: each active lane gets `op` of its operand. -/
def Form1 (ins : BitVec 7 → BitVec 7 → Word → Instr) (op : Word → Word) : Prop :=
  ∀ d a lit, WritesV (ins d a lit) (vecL d [a]) d.toNat fun g l => op (g.opLane a.toNat lit l)
/-- Two sources, with an EL word where one of them is code 124. -/
def Form2 (ins : BitVec 7 → BitVec 7 → BitVec 7 → Word → Instr) (op : Word → Word → Word) : Prop :=
  ∀ d a b lit, WritesV (ins d a b lit) (vecL d [a, b]) d.toNat fun g l =>
    op (g.opLane a.toNat lit l) (g.opLane b.toNat lit l)
/-- Three sources, the third in an EO word. -/
def Form3 (ins : BitVec 7 → BitVec 7 → BitVec 7 → BitVec 7 → Instr) (op : Word → Word → Word → Word) : Prop :=
  ∀ d a b c, WritesV (ins d a b c) (vecE d [a, b, c] []) d.toNat fun g l =>
    op (g.opLane a.toNat 0#32 l) (g.opLane b.toNat 0#32 l) (g.opLane c.toNat 0#32 l)
/-- One source and an immediate of 7 bits, of which `ok` tells whether it is legal. -/
def FormI (ins : BitVec 7 → BitVec 7 → BitVec 7 → Instr) (ok : BitVec 7 → Bool) (op : Word → BitVec 7 → Word) : Prop :=
  ∀ d a i, WritesV (ins d a i) ⟨.vec, 1, [.vdst d.toNat 1 1, .vsrc a.toNat false, .cond (ok i) i.toNat]⟩ d.toNat
    fun g l => op (g.opLane a.toNat 0#32 l) i

/-- The result and flags of an operation on the FP32 element of each operand, or on both its FP16 elements
(10 R273, 14 R383). -/
def perElement (packed : BitVec 1) (op : FFmt → List Nat → Nat × FFlags) (xs : List Word) : Word × FFlags :=
  if packed = 1#1 then
    let lo := op fp16 (xs.map fun x => (x.extractLsb' 0 16).toNat)
    let hi := op fp16 (xs.map fun x => (x.extractLsb' 16 16).toNat)
    (BitVec.ofNat 32 (lo.1 % 65536 + 65536 * hi.1), lo.2 ||| hi.2)
  else ((BitVec.ofNat 32 (op fp32 (xs.map BitVec.toNat)).1), (op fp32 (xs.map BitVec.toNat)).2)

/-! ### Instructions with a wider effect -/

/-- Issued by a ready group where `when_` holds, the instruction completes, and the state after it is as `post` says
of the state and the group before it. -/
def Does (ins : Instr) (p : Info) (when_ : State → Nat → Group → Prop) (post : State → Nat → Group → State → Prop) : Prop :=
  ∀ (s : State) (i : Nat) (g : Group), Ready s i g p → when_ s i g → ∃ t, exec ins s = .next t ∧ post s i g t

/-- The same for an instruction that changes nothing but its group. -/
def Sets (ins : Instr) (p : Info) (when_ : State → Group → Prop) (post : State → Group → Group → Prop) : Prop :=
  Does ins p (fun s _ g => when_ s g) fun s i g t => ∃ h, OnlyGroup s t i h ∧ post s g h

/-- The group's registers of every kind, its special registers, its identity and its place in the part are as they
were. -/
structure SameRegs (g h : Group) : Prop where
  regs : h.regs = g.regs
  sr : h.sr = g.sr
  id : h.id = g.id
  loc : h.loc = g.loc

/-- The group has gone on to the next word with its masks and stack as they were. -/
structure GoesOn (g h : Group) (n : Nat) : Prop where
  pc : h.ctl.pc = (g.nextPc n).1
  act : h.ctl.act = g.ctl.act
  live : h.ctl.live = g.ctl.live
  stack : h.ctl.stack = g.ctl.stack

/-- No byte of the home copy or of a cell's storage has changed. -/
structure SameMem (s t : State) : Prop where
  home : ∀ a, t.mem.get a = s.mem.get a
  store : ∀ p c a, (t.window p c).mem.get a = (s.window p c).mem.get a

/-- The group's parked lanes and handler, if any: none is parked. -/
def Group.unparked (g : Group) : Prop := g.trap.parked = [] ∧ g.trap.reconv = [] ∧ g.trap.pstate = .none

/-- The state in which a group's instruction of `n` words has raised a fault of kind G: no lane has performed it, and
every active lane takes the fault at its address (11 R291). -/
def State.stopsAt (s : State) (i : Nat) (g : Group) (n : Nat) (f : FaultInfo) : State :=
  ((s.takeFault i f g.ctl.act g.ctl.pc g.ctl.pc (g.nextPc n).1).shadowAfter i g.id.block
    (s.block g.id.block).barP).skidEnd i

/-- A control instruction of group `g` whose masks, stack and place `r` gives (13 R339): with a lane left active the
group goes on there; with none left, and none parked, it unwinds the stack (13 R340); where `r` is nothing the
instruction raises STRUCTURE, with the depth of the stack. -/
def ControlsIn (ins : Instr) (g : Group) (r : Option (Lanes × List MaskEntry × DWord)) : Prop :=
  ∀ (s : State) (i : Nat), Ready s i g ⟨.ctl, 1, []⟩ →
    (r = none → exec ins s = .next (s.stopsAt i g 1 (.here 0x05 g.ctl.stack.length))) ∧
    ∀ act stack pc, r = some (act, stack, pc) → ∃ t h, exec ins s = .next t ∧ OnlyGroup s t i h ∧ SameRegs g h ∧
      h.ctl.live = g.ctl.live ∧
      (act ≠ 0#32 → h.ctl.act = act ∧ h.ctl.stack = stack ∧ h.ctl.pc = pc ∧ h.trap = g.trap) ∧
      (act = 0#32 → g.unparked →
        let u := unwindGo (fun m => m &&& g.ctl.live) none stack
        h.ctl.act = u.1 ∧ h.ctl.stack = u.2.2 ∧ h.ctl.pc = u.2.1.getD pc ∧ h.trap = g.trap)
def Controls (ins : Instr) (f : Group → Option (Lanes × List MaskEntry × DWord)) : Prop := ∀ g, ControlsIn ins g (f g)

/-- The group's registers and its place in its code as after an instruction of `n` words that leaves them be. -/
def Passes (g h : Group) (n : Nat) : Prop := SameRegs g h ∧ GoesOn g h n
/-- The group waits at its instruction for `w`. -/
def Waits (g h : Group) (w : Wake) : Prop :=
  SameRegs g h ∧ h.ctl.pc = g.ctl.pc ∧ h.ctl.act = g.ctl.act ∧ h.ctl.live = g.ctl.live ∧ h.ctl.stack = g.ctl.stack ∧
    h.ctl.status = .blocked w

/-- No byte of the home copy has changed, and none of a cell's storage but the `n` at `off` of the segment that block
`b` has on `cell`. -/
def StoresSeg (s t : State) (b cell off n : Nat) : Prop :=
  (∀ a, t.mem.get a = s.mem.get a) ∧ ∀ p c a, ¬(p = (s.block b).part ∧ c = cell ∧ (s.block b).seg cell + off ≤ a ∧
    a < (s.block b).seg cell + off + n) → (t.window p c).mem.get a = (s.window p c).mem.get a

/-! ### Memory accesses -/

/-- A load has been issued (07 R205): in front of the group stands one pending result more, of the `n` registers from
`d` on, which gives the lanes `m` the words `val`; nothing else of the group's registers has changed. -/
def Fetches (g h : Group) (d n : Nat) (m : Lanes) (val : Nat → List Word) : Prop :=
  (∀ r, h.vreg r = g.vreg r) ∧ (∀ r, h.sreg r = g.sreg r) ∧ (∀ k, h.kreg k = g.kreg k) ∧ h.sr = g.sr ∧ h.id = g.id ∧
  h.loc = g.loc ∧ ∃ p, h.regs.pend = g.regs.pend ++ [p] ∧ p.regs = (List.range n).map (fun j => d + j) ∧ p.lanes = m ∧
    p.ready = true ∧ p.poison = none ∧ ∀ l, l < 32 → m.has l = true → p.vals.getD l [] = val l

/-- A byte after some lanes have stored in ascending order: that of the last lane which stores to it. -/
def lastStore (lanes : List Nat) (addr : Nat → Nat) (data : Nat → List Byte) (old : Nat → Byte) (a : Nat) : Byte :=
  match lanes.reverse.find? fun l => decide (addr l ≤ a ∧ a < addr l + (data l).length) with
  | some l => (data l).getD (a - addr l) 0#8
  | none => old a

/-- A byte of global memory as plain accesses of a group see it: valid bytes of its cell cache, the rest from home. -/
def State.seen (s : State) (g : Group) (a : Nat) : Byte := s.cachedByte (s.window (s.partOf g) g.loc.cell) a
/-- A byte of global memory as a wide acquire takes it: dirty bytes of its cell cache, the rest from home (09 R251). -/
def State.acquired (s : State) (g : Group) (a : Nat) : Byte :=
  match (s.window (s.partOf g) g.loc.cell).line? (a / 128) with
  | some x => if x.dirty.getLsbD (a % 128) then (s.window (s.partOf g) g.loc.cell).cache.get a else s.mem.get a
  | none => s.mem.get a

/-- The lines of some addresses find ways beside those that the cell cache holds, and none is evicted (08 R231). -/
def State.hasWays (s : State) (g : Group) (pas : List Nat) : Prop :=
  let held := (s.window (s.partOf g) g.loc.cell).lines.map (·.line)
  let lines := held ++ (dedupNat (pas.map fun a => a / 128)).filter fun l => !held.contains l
  ∀ r, (lines.filter fun l => l % max 1 ((s.heldQuads (s.partOf g) g.loc.cell).length * 128) = r).length ≤ 16

/-- The instruction completes where `when_` holds of the state; its group goes on at the next word; in each live lane
that is active, register `d + j` of its `n` destinations holds `f` of the state and group as they were, and in each
other live lane what it held; nothing else changes. -/
def WritesAt (ins : Instr) (p : Info) (d n : Nat) (when_ : State → Group → Prop) (f : State → Group → Nat → Nat → Word) : Prop :=
  Sets ins p when_ fun s g h => KeepsRest g h ∧ KeepsRegs g h ((List.range n).map (d + ·)) [] [] ∧ h.sr = g.sr ∧ h.id = g.id ∧
    h.ctl.pc = (g.nextPc p.words).1 ∧ ∀ j l, j < n → l < 32 → g.ctl.live.has l = true →
      (h.vreg (d + j)).val.lane l = if g.ctl.act.has l then f s g j l else (g.vreg (d + j)).val.lane l

/-- In front of the group stands one pending result more, of operation `op`, for the `n` registers from `d` on in the
active lanes; it is not ready, and nothing else of the group's registers has changed. -/
def Awaits (g h : Group) (d n op : Nat) : Prop :=
  (∀ r, h.vreg r = g.vreg r) ∧ (∀ r, h.sreg r = g.sreg r) ∧ (∀ k, h.kreg k = g.kreg k) ∧ h.id = g.id ∧ h.loc = g.loc ∧
  ∃ p, h.regs.pend = g.regs.pend ++ [p] ∧ p.regs = (List.range n).map (d + ·) ∧ p.lanes = g.ctl.act ∧ p.ready = false ∧
    p.kind = .op op

/-- The group's counter of class 2 has room for an operation. -/
def Group.canOp (g : Group) (cls : Nat) : Prop := g.asy.cnt.length = 4 ∧ g.asy.cnt.getD cls 0 < 63

/-- The active lanes can be captured with the registers of `live` and the result registers `res` (07 R210). -/
def Group.canCapture (g : Group) (s : State) (live : Word) (res : List Nat) : Prop :=
  s.captureFault g live res = .none ∧ g.regs.pend = [] ∧ (∀ r, (g.vreg r).tag = 0) ∧
    (∀ o ∈ g.asy.deferred ++ g.asy.ops, o.fault = .none) ∧ g.loc.cell < s.cells.length

/-- The active lanes have left group `i` for records on its cell, each with its index entry (07 R210, R211). -/
def Captured (s t : State) (i : Nat) (g : Group) (ready : Bool) : Prop :=
  (t.group i).ctl.live = g.ctl.live &&& ~~~g.ctl.act ∧
  ∀ c, s.cells[g.loc.cell]? = some c → ∃ c', t.cells[g.loc.cell]? = some c' ∧ c'.index = c.index ++ g.ctl.act.toList.map fun l =>
    { block := g.id.block, seg := g.id.seg, tidx := g.id.tidx.getD l 0, resume := g.nextClause, key := g.id.key.getD l 0#32
      quad := g.id.quadMode, helper := g.ctl.helper.has l, ticket := g.id.binds.getD l none, pseq := g.id.pseq.getD l 0#32
      ready := ready, cell := g.loc.cell, acq := g.asy.acq, heirs := i :: g.asy.heirs }

/-! ### Steps of the part itself -/

/-- From every state with its byte stores in canonical form in which `when_` holds the step of the part happens, and the
state after it is as `post` says. -/
def Happens (e : Instr) (when_ : State → Prop) (post : State → State → Prop) : Prop :=
  ∀ s, s.canonical = true → when_ s → ∃ t, exec e s = .next t ∧ post s t

/-- The same for one that changes nothing but group `i`. -/
def HappensTo (e : Instr) (i : Nat) (when_ : State → Group → Prop) (post : State → Group → Group → Prop) : Prop :=
  Happens e (fun s => i < s.groups.length ∧ when_ s (s.group i)) fun s t => ∃ h, OnlyGroup s t i h ∧ post s (s.group i) h

/-- The group has become ready, or waits for its slice where that is due (06 R182, R186), with its registers, masks and
place as they were. -/
def Wakes (g h : Group) : Prop :=
  SameRegs g h ∧ h.ctl.status = (if g.sliceDue then .blocked .slice else .ready) ∧ h.ctl.pc = g.ctl.pc ∧ h.ctl.act = g.ctl.act ∧
    h.ctl.live = g.ctl.live ∧ h.ctl.stack = g.ctl.stack

end Sys2Proof.Machine
end

