-- ==== Sys2Proof/Certificates/Slice0/Obligations.lean ====
section
/-! DEFINITION. The statements for the provers. -/
open Sys2Proof Sys2Proof.Machine

/-! ### Vector integers (14 R376 to R382) -/

/-- 14 R376 to R379: the forms of majors 0x10 and 0x11, in every live lane that is active; the carry forms write the
mask's bits of the active lanes beside the sum or difference. -/
def Obligations.IntegerAddMultiplyForms : Prop :=
  Form2 .iadd (fun x y => BitVec.ofNat 32 (x.toNat + y.toNat)) ∧
  Form2 .iaddSat (fun x y => BitVec.ofInt 32 (max (-2 ^ 31) (min (2 ^ 31 - 1) (x.toInt + y.toInt)))) ∧
  Form2 .iaddSatU (fun x y => BitVec.ofNat 32 (min (2 ^ 32 - 1) (x.toNat + y.toNat))) ∧
  Form2 .isub (fun x y => BitVec.ofInt 32 ((x.toNat : Int) - y.toNat)) ∧
  Form2 .isubSat (fun x y => BitVec.ofInt 32 (max (-2 ^ 31) (min (2 ^ 31 - 1) (x.toInt - y.toInt)))) ∧
  Form2 .isubSatU (fun x y => BitVec.ofNat 32 (x.toNat - y.toNat)) ∧
  Form1 .ineg (fun x => BitVec.ofInt 32 (0 - (x.toNat : Int))) ∧
  Form1 .iabs (fun x => BitVec.ofInt 32 |x.toInt|) ∧
  Form2 .iabsd (fun x y => BitVec.ofInt 32 |x.toInt - y.toInt|) ∧
  Form2 .iabsdU (fun x y => BitVec.ofInt 32 |(x.toNat : Int) - y.toNat|) ∧
  Form2 .imulLo (fun x y => BitVec.ofNat 32 (x.toNat * y.toNat)) ∧
  Form2 .imulHi (fun x y => BitVec.ofInt 32 ((x.toInt * y.toInt).fdiv (2 ^ 32))) ∧
  Form2 .imulHiU (fun x y => BitVec.ofNat 32 (x.toNat * y.toNat / 2 ^ 32)) ∧
  Form3 .imac (fun x y z => BitVec.ofNat 32 (x.toNat * y.toNat + z.toNat)) ∧
  (∀ sat bu au, Form3 (fun d a b c => .idot4 d a b sat bu au c) fun x y z =>
    let byte (uns : BitVec 1) (w : Word) (i : Nat) : Int :=
      if uns = 1#1 then ((w.extractLsb' (8 * i) 8).toNat : Int) else (w.extractLsb' (8 * i) 8).toInt
    let sum := z.toInt + byte au x 0 * byte bu y 0 + byte au x 1 * byte bu y 1 + byte au x 2 * byte bu y 2
      + byte au x 3 * byte bu y 3
    BitVec.ofInt 32 (if sat = 1#1 then max (-2 ^ 31) (min (2 ^ 31 - 1) sum) else sum)) ∧
  (∀ (sub : Bool) (d a b : BitVec 7) (ci : BitVec 1) (k : BitVec 3) (s : State) (i : Nat) (g : Group),
    Ready s i g (vecE d [a, b] [.kdst k.toNat]) →
    let x (l : Nat) : Int := (g.opLane a.toNat 0#32 l).toNat
    let y (l : Nat) : Int := (g.opLane b.toNat 0#32 l).toNat
    let c (l : Nat) : Int := if ci = 1#1 ∧ (g.kreg k.toNat).has l = true then 1 else 0
    let sum (l : Nat) : Int := if sub then x l - y l - c l else x l + y l + c l
    ∃ t h, exec (if sub then .isubCc d a b ci k else .iaddCc d a b ci k) s = .next t ∧ OnlyGroup s t i h ∧
      KeepsRest g h ∧ KeepsRegs g h [d.toNat] [] [k.toNat] ∧ h.sr = g.sr ∧ h.id = g.id ∧ h.ctl.pc = (g.nextPc 2).1 ∧
      ∀ l, l < 32 → g.ctl.live.has l = true →
        (h.vreg d.toNat).val.lane l =
          (if g.ctl.act.has l then BitVec.ofInt 32 (sum l) else (g.vreg d.toNat).val.lane l) ∧
        (h.kreg k.toNat).has l =
          if g.ctl.act.has l then decide (sum l < 0 ∨ 2 ^ 32 ≤ sum l) else (g.kreg k.toNat).has l)

/-- 14 R380 to R382: logic, shifts, minima and maxima, compares, bit operations and immediates. -/
def Obligations.IntegerLogicForms : Prop :=
  Form2 .and (fun x y => x &&& y) ∧ Form2 .or (fun x y => x ||| y) ∧ Form2 .xor (fun x y => x ^^^ y) ∧
  Form2 .andn (fun x y => x &&& ~~~y) ∧ Form1 .not (fun x => ~~~x) ∧
  Form2 .shl (fun x y => BitVec.ofNat 32 (if 32 ≤ y.toNat then 0 else x.toNat * 2 ^ y.toNat)) ∧
  Form2 .shr (fun x y => BitVec.ofNat 32 (if 32 ≤ y.toNat then 0 else x.toNat / 2 ^ y.toNat)) ∧
  Form2 .sar (fun x y => BitVec.ofInt 32 (x.toInt.fdiv (2 ^ min y.toNat 31))) ∧
  Form2 .rotl (fun x y => (x <<< (y.toNat % 32)) ||| (x >>> (32 - y.toNat % 32))) ∧
  Form3 .fshr (fun x y z => BitVec.ofNat 32 ((y.toNat * 2 ^ 32 + x.toNat) / 2 ^ (z.toNat % 64))) ∧
  Form2 .imin (fun x y => if x.toInt ≤ y.toInt then x else y) ∧ Form2 .iminU (fun x y => if x.toNat ≤ y.toNat then x else y) ∧
  Form2 .imax (fun x y => if x.toInt ≤ y.toInt then y else x) ∧ Form2 .imaxU (fun x y => if x.toNat ≤ y.toNat then y else x) ∧
  (∀ (c : BitVec 5) (k : BitVec 3) (a b : BitVec 7) (lit : Word), c.toNat < 10 →
    WritesK (.icmp c k a b lit) (cmpInfo k a b) k.toNat fun g => (g.kreg k.toNat &&& ~~~g.ctl.act) |||
      Lanes.ofFn 32 fun l => g.ctl.act.has l && (
        let x := g.opLane a.toNat lit l
        let y := g.opLane b.toNat lit l
        [x == y, x != y, x.slt y, x.sle y, y.slt x, y.sle x, x.ult y, x.ule y, y.ult x, y.ule x].getD c.toNat false)) ∧
  Form1 .popc (fun x => BitVec.ofNat 32 ((List.range 32).countP fun i => x.getLsbD i)) ∧
  Form1 .clz (fun x => BitVec.ofNat 32 (((List.range 32).find? fun n => x.getLsbD (31 - n)).getD 32)) ∧
  Form1 .brev (fun x => Lanes.ofFn 32 fun i => x.getLsbD (31 - i)) ∧
  Form2 .bfe (fun x c =>
    let w := min (c.extractLsb' 8 6).toNat (32 - c.toNat % 32)
    BitVec.ofNat 32 (x.toNat / 2 ^ (c.toNat % 32) % 2 ^ w)) ∧
  Form2 .bfeS (fun x c =>
    let w := min (c.extractLsb' 8 6).toNat (32 - c.toNat % 32)
    Lanes.ofFn 32 fun i => decide (0 < w) && x.getLsbD (c.toNat % 32 + min i (w - 1))) ∧
  Form3 .bfi (fun x y c =>
    let o := c.toNat % 32
    let w := min (c.extractLsb' 8 6).toNat (32 - o)
    Lanes.ofFn 32 fun i => if o ≤ i ∧ i < o + w then y.getLsbD (i - o) else x.getLsbD i) ∧
  FormI .iaddi (fun _ => true) (fun x i => BitVec.ofInt 32 (x.toInt + i.toInt)) ∧
  FormI .andi (fun _ => true) (fun x i => x &&& i.signExtend 32) ∧
  FormI .ori (fun _ => true) (fun x i => x ||| i.signExtend 32) ∧
  FormI .xori (fun _ => true) (fun x i => x ^^^ i.signExtend 32) ∧
  FormI .shli (fun i => decide (i.toNat < 32)) (fun x i => BitVec.ofNat 32 (if 32 ≤ i.toNat then 0 else x.toNat * 2 ^ i.toNat)) ∧
  FormI .shri (fun i => decide (i.toNat < 32)) (fun x i => BitVec.ofNat 32 (if 32 ≤ i.toNat then 0 else x.toNat / 2 ^ i.toNat)) ∧
  FormI .sari (fun i => decide (i.toNat < 32)) (fun x i => BitVec.ofInt 32 (x.toInt.fdiv (2 ^ min i.toNat 31)))

/-! ### Floating point (14 R383 to R394) -/

/-- 14 R383 to R387: arithmetic, compares and special functions where no flag traps. The model's own readings and
choices that it rests on: log entry 77. -/
def Obligations.FloatForms : Prop :=
  (∀ (ins : BitVec 1 → BitVec 1 → BitVec 7 → BitVec 7 → BitVec 7 → Word → Instr) (op : FFmt → Bool → Nat → Nat → Nat × FFlags),
    (ins = .fadd ∧ op = fAdd) ∨ (ins = .fsub ∧ op = fSub) ∨ (ins = .fmul ∧ op = fMul) ∨
    (ins = .fmin ∧ op = fun f sat => fMinMaxSat false sat f) ∨ (ins = .fmax ∧ op = fun f sat => fMinMaxSat true sat f) →
    ∀ sat p d a b lit, WritesF (ins sat p d a b lit) (vecL d [a, b]) d.toNat fun g l =>
      perElement p (fun f xs => op f (sat == 1#1) (xs.getD 0 0) (xs.getD 1 0)) [g.opLane a.toNat lit l, g.opLane b.toNat lit l]) ∧
  (∀ sat p d a b lit, WritesF (.fmac sat p d a b lit)
    ⟨.vec, litWords [a, b], [.vdst d.toNat 1 1, .vgrp d.toNat 1 1, .vsrc a.toNat true, .vsrc b.toNat true]⟩ d.toNat fun g l =>
      perElement p (fun f xs => fFma f (sat == 1#1) (xs.getD 0 0) (xs.getD 1 0) (xs.getD 2 0))
        [g.opLane a.toNat lit l, g.opLane b.toNat lit l, g.vlane d.toNat l]) ∧
  (∀ (ins : BitVec 1 → BitVec 1 → BitVec 7 → BitVec 7 → BitVec 7 → BitVec 7 → Instr)
    (op : FFmt → Bool → Nat → Nat → Nat → Nat × FFlags), (ins = .fma ∧ op = fFma) ∨ (ins = .flerp ∧ op = fLerp) →
    ∀ sat p d a b c, WritesF (ins sat p d a b c) (vecE d [a, b, c] []) d.toNat fun g l =>
      perElement p (fun f xs => op f (sat == 1#1) (xs.getD 0 0) (xs.getD 1 0) (xs.getD 2 0))
        [g.opLane a.toNat 0#32 l, g.opLane b.toNat 0#32 l, g.opLane c.toNat 0#32 l]) ∧
  (∀ (c k : BitVec 3) (a b : BitVec 7) (lit : Word),
    let r (g : Group) (l : Nat) := fCompare fp32 c.toNat (g.opLane a.toNat lit l).toNat (g.opLane b.toNat lit l).toNat
    WritesK (.fcmp c k a b lit) (cmpInfo k a b) k.toNat
      (fun g => (g.kreg k.toNat &&& ~~~g.ctl.act) ||| Lanes.ofFn 32 fun l => g.ctl.act.has l && (r g l).1)
      (NoTrap fun g l => (r g l).2) (flagged fun g l => (r g l).2)) ∧
  Form1 .fclass (fun x => BitVec.ofNat 32 (fClass fp32 x.toNat)) ∧
  (∀ (ins : BitVec 1 → BitVec 7 → BitVec 7 → Word → Instr) (fn : Nat),
    (ins, fn) ∈ [(Instr.frcp, 0), (Instr.frsq, 1), (Instr.fsqrt, 2), (Instr.fexp2, 3), (Instr.flog2, 4), (Instr.fsin, 5),
      (Instr.fcos, 6), (Instr.ftanh, 7)] →
    ∀ p d a lit, WritesF (ins p d a lit) (vecL d [a]) d.toNat fun g l =>
      perElement p (fun f xs => fSpecial f p.toNat fn (xs.getD 0 0)) [g.opLane a.toNat lit l])

/-- The draws that lane `l` takes under stochastic rounding, and the identity of the group after `n` draws in each
active lane (10 R279). -/
def drawsOf (g : Group) (l n : Nat) : List Nat := (drawMany n (g.genOf l)).2
def drawn (n : Nat) (g : Group) : GIdent := (g.advanceGen g.ctl.act n).id

/-- 14 R388 to R394, 10 R288, R289: conversions, rounding to integral values, packing, unpacking and quantising, in every
rounding mode: code 2 is stochastic, and only then do the lanes draw. Quantising goes by blocks of the active lanes; a
block with a NaN gives every member the NaN scale and raises IO there, and its members do not draw. -/
def Obligations.ConversionForms : Prop :=
  ((∀ (d a : BitVec 7) (el : BitVec 3) (sf : BitVec 4) (sat : BitVec 1) (rm : BitVec 2) (df : BitVec 4) (sr : Bool),
    WritesF (.cvt d a el sf sat rm df)
      ⟨.vec, 2, [.vdst d.toNat 1 1, .vsrc a.toNat false,
        .cond (decide (el.toNat * fmtWidth sf.toNat + fmtWidth sf.toNat ≤ 32)) (el.toNat * 16 + sf.toNat)]⟩ d.toNat
      (fun g l =>
        let r := convert sf.toNat df.toNat (rmodeOf (g.rmodeCode rm.toNat) ((drawsOf g l 1).getD 0 0)) (sat == 1#1)
          (elemOf (fmtWidth sf.toNat) (g.opLane a.toNat 0#32 l) el.toNat)
        (widen df.toNat r.1, r.2))
      (fun g => g.rmodeCode rm.toNat = 2 ↔ sr = true) (if sr then drawn 1 else fun g => g.id)) ∧
  (∀ (d a : BitVec 7) (m : BitVec 3) (lit : Word), m.toNat ≠ 4 → m.toNat ≠ 5 →
    WritesF (.frnd d a 0#1 m lit) (vecL d [a]) d.toNat fun g l =>
      let r := fRound fp32 (frndMode m.toNat 0) (g.opLane a.toNat lit l).toNat
      (BitVec.ofNat 32 r.1, r.2)) ∧
  (∀ (d a : BitVec 7) (lit : Word), WritesF (.frnd d a 0#1 4#3 lit) (vecL d [a]) d.toNat (fun g l =>
      let r := fRound fp32 (.sr ((drawsOf g l 1).getD 0 0)) (g.opLane a.toNat lit l).toNat
      (BitVec.ofNat 32 r.1, r.2)) (fun _ => True) (drawn 1)) ∧
  (∀ (d a : BitVec 7) (lit : Word) (p : BitVec 1) (sr : Bool), WritesF (.frnd d a p 5#3 lit) (vecL d [a]) d.toNat (fun g l =>
      let n := if p = 1#1 then 2 else 1
      let mode (i : Nat) : RMode := rmodeOf (g.rmodeCode 3) ((drawsOf g l n).getD i 0)
      let x := (g.opLane a.toNat lit l).toNat
      if p = 1#1 then
        let lo := fRound fp16 (mode 0) (x % 2 ^ 16)
        let hi := fRound fp16 (mode 1) (x / 2 ^ 16)
        (BitVec.ofNat 32 (lo.1 + 2 ^ 16 * hi.1), lo.2 ||| hi.2)
      else
        let r := fRound fp32 (mode 0) x
        (BitVec.ofNat 32 r.1, r.2))
      (fun g => g.rmodeCode 3 = 2 ↔ sr = true) (if sr then drawn (if p = 1#1 then 2 else 1) else fun g => g.id)) ∧
  (∀ (d a : BitVec 7) (m : BitVec 3) (lit : Word) (sr : Bool), m.toNat < 5 →
    WritesF (.frnd d a 1#1 m lit) (vecL d [a]) d.toNat (fun g l =>
      let mode (i : Nat) : RMode := frndMode m.toNat ((drawsOf g l 2).getD i 0)
      let x := (g.opLane a.toNat lit l).toNat
      let lo := fRound fp16 (mode 0) (x % 2 ^ 16)
      let hi := fRound fp16 (mode 1) (x / 2 ^ 16)
      (BitVec.ofNat 32 (lo.1 + 2 ^ 16 * hi.1), lo.2 ||| hi.2))
      (fun _ => m = 4#3 ↔ sr = true) (if sr then drawn 2 else fun g => g.id)) ∧
  (∀ (n p : Nat) (ins : Instr) (d a b : BitVec 7) (sat : BitVec 1) (rm : BitVec 2) (df : BitVec 4) (sr : Bool),
    (n = 2 ∧ p = 0 ∧ ins = .cvtPk2 d a b sat rm df) ∨ (n = 4 ∧ ∃ q, p = q.toNat ∧ ins = .cvtPk4 q d a b sat rm df) ∨
      (n = 8 ∧ ∃ q, p = q.toNat ∧ ins = .cvtPk8 q d a b sat rm df) →
    WritesF ins ⟨.vec, 2, [.vdst d.toNat 1 1] ++ (if n = 2 then [] else [.vgrp d.toNat 1 1])
        ++ [.vsrc a.toNat false, .vsrc b.toNat false]⟩ d.toNat
      (fun g l =>
        let cv (x : Word) (i : Nat) := convert 0 df.toNat (rmodeOf (g.rmodeCode rm.toNat) ((drawsOf g l 2).getD i 0))
          (sat == 1#1) x.toNat
        let e0 := cv (g.opLane a.toNat 0#32 l) 0
        let e1 := cv (g.opLane b.toNat 0#32 l) 1
        (replacePair (32 / n) (if n = 2 then 0#32 else g.vlane d.toNat l) p e0.1 e1.1, e0.2 ||| e1.2))
      (fun g => g.rmodeCode rm.toNat = 2 ↔ sr = true) (if sr then drawn 2 else fun g => g.id)) ∧
  (∀ (n e : Nat) (ins : Instr) (d a b : BitVec 7) (sc : BitVec 2) (sf : BitVec 4),
    (n = 2 ∧ ∃ q, e = q.toNat ∧ ins = .cvtUnpk2 q d a b sc sf) ∨ (n = 4 ∧ ∃ q, e = q.toNat ∧ ins = .cvtUnpk4 q d a b sc sf) ∨
      (n = 8 ∧ ∃ q, e = q.toNat ∧ ins = .cvtUnpk8 q d a b sc sf) →
    WritesF ins (vecE d (if sc = 0#2 then [a] else [a, b]) []) d.toNat fun g l =>
      let scale := if sc = 0#2 then 0#32 else g.opLane b.toNat 0#32 l
      let r := fp32.deliver .rne false (scaled (elemVal sf.toNat (elemOf (32 / n) (g.opLane a.toNat 0#32 l) e))
        (scaleOf sc.toNat scale.toNat) 0).exact
      (BitVec.ofNat 32 r.1, r.2))) ∧
  ∀ (d a b : BitVec 7) (blk sm : BitVec 1) (rm : BitVec 2) (tf : BitVec 4),
    let block (g : Group) (l : Nat) : List Nat := g.ctl.act.toList.filter fun m => blk = 1#1 ∨ m / 16 = l / 16
    let val (g : Group) (l : Nat) : FVal := fp32.decode (g.opLane a.toNat 0#32 l).toNat
    let nan (g : Group) (l : Nat) : Bool := (block g l).any fun m => (val g m).isNaN
    let sfmt := if sm = 1#1 then 2 else 1
    let off (g : Group) : Int := signedOf 8 (g.opLane b.toNat 0#32 0).toNat
    WritesF (.quantBlk d a b blk sm rm tf) ⟨.vec, 2, [.vdst d.toNat 1 1, .vsrc a.toNat false,
        .cond (decide (112 ≤ b.toNat ∧ b.toNat < 120)) b.toNat]⟩ d.toNat
      (fun g l =>
        if nan g l then (BitVec.ofNat 32 ((if sfmt = 1 then 0xFF else 0x7F) * 2 ^ 24), fIO)
        else
          let code := chooseScale tf.toNat sfmt (off g) (blockMax ((block g l).map (val g)))
          let q := quantElem tf.toNat (rmodeOf (g.rmodeCode rm.toNat) ((drawsOf g l 1).getD 0 0)) (val g l)
            (scaleOf sfmt code) (off g)
          (BitVec.ofNat 32 (code * 2 ^ 24 + q.1), q.2))
      (fun _ => True)
      fun g => (g.advanceGen (Lanes.ofFn 32 fun l =>
        decide (g.rmodeCode rm.toNat = 2) && g.ctl.act.has l && !nan g l) 1).id


/-! ### Moves, lanes, quads and scalars (14 R396 to R406) -/

/-- The lane that lane `l` takes its value from, if lane `j` exists and is active, and its own if not. -/
def fromLaneOr (g : Group) (a : BitVec 7) (lit : Word) (l : Nat) (j : Int) : Word :=
  if 0 ≤ j ∧ j < 32 ∧ (g.ctl.act &&& g.ctl.live).has j.toNat = true then g.opLane a.toNat lit j.toNat
  else g.opLane a.toNat lit l

/-- 14 R396 to R401: moves, broadcasts, ballots, shuffles, reductions and scans; derivatives over the lanes that the table
names, +0 with DERIV set where a lane other than the reader's own is not active; and QSWAP. -/
def Obligations.CrossLaneForms : Prop :=
  (Form1 .mov (fun x => x) ∧
  (∀ d a b kn, WritesV (.sel d a b kn) (vecE d [a, b] []) d.toNat fun g l =>
    if (g.kreg kn.toNat).has l then g.opLane a.toNat 0#32 l else g.opLane b.toNat 0#32 l) ∧
  (∀ d a n, WritesV (.bcast d a n) (vecN d [a]) d.toNat fun g _ =>
    if g.ctl.live.has n.toNat then g.opLane a.toNat 0#32 n.toNat else 0#32) ∧
  (∀ d a, WritesV (.bcastFirst d a) (vecN d [a]) d.toNat fun g _ => g.opLane a.toNat 0#32 g.firstAct) ∧
  (∀ k a, WritesK (.ballot k a) ⟨.vec, 1, [.kdst k.toNat, .vsrc a.toNat false]⟩ k.toNat fun g =>
    Lanes.ofFn 32 fun l => g.ctl.act.has l && g.opLane a.toNat 0#32 l != 0#32) ∧
  (∀ d a b lit, WritesV (.shflIdx d a b lit) (vecL d [a, b]) d.toNat fun g l =>
    fromLaneOr g a lit l ((g.opLane b.toNat lit l).toNat % 32 : Nat)) ∧
  (∀ d a n, WritesV (.shflUp d a n) (vecN d [a]) d.toNat fun g l => fromLaneOr g a 0#32 l ((l : Int) - n.toNat)) ∧
  (∀ d a n, WritesV (.shflDn d a n) (vecN d [a]) d.toNat fun g l => fromLaneOr g a 0#32 l ((l : Int) + n.toNat)) ∧
  (∀ d a n, WritesV (.shflXor d a n) (vecN d [a]) d.toNat fun g l => fromLaneOr g a 0#32 l ((l ^^^ n.toNat : Nat) : Int)) ∧
  (∀ (ins : BitVec 7 → BitVec 7 → Word → Instr) (f : List Word → Word),
    (ins = .redAdd ∧ f = List.sum) ∨ (ins = .redMin ∧ f = foldFirst minS) ∨ (ins = .redMinU ∧ f = foldFirst minU) ∨
    (ins = .redMax ∧ f = foldFirst maxS) ∨ (ins = .redMaxU ∧ f = foldFirst maxU) →
    ∀ d a lit, WritesV (ins d a lit) (vecL d [a]) d.toNat fun g _ =>
      f (g.ctl.act.toList.map fun l => g.opLane a.toNat lit l)) ∧
  (∀ (ins : BitVec 7 → BitVec 7 → Word → Instr) (f : List Word → Word × FFlags),
    (ins = .redAddF32 ∧ f = sumF) ∨ (ins = .redMinF32 ∧ f = pickF false) ∨ (ins = .redMaxF32 ∧ f = pickF true) →
    ∀ d a lit, WritesF (ins d a lit) (vecL d [a]) d.toNat fun g _ =>
      f (g.ctl.act.toList.map fun l => g.opLane a.toNat lit l)) ∧
  (∀ d a lit, WritesV (.scanAdd d a lit) (vecL d [a]) d.toNat fun g l =>
    ((g.ctl.act.toList.filter fun j => j ≤ l).map fun j => g.opLane a.toNat lit j).sum) ∧
  (∀ d a lit, WritesV (.scanAddEx d a lit) (vecL d [a]) d.toNat fun g l =>
    ((g.ctl.act.toList.filter fun j => j < l).map fun j => g.opLane a.toNat lit j).sum) ∧
  (∀ d a lit, WritesF (.scanAddF32 d a lit) (vecL d [a]) d.toNat fun g l =>
    sumF ((g.ctl.act.toList.filter fun j => j ≤ l).map fun j => g.opLane a.toNat lit j))) ∧
  (∀ (ins : BitVec 7 → BitVec 7 → Word → Instr) (h k : Nat → Nat),
    (ins = .ddx ∧ h = (fun l => l ||| 1) ∧ k = fun l => l - l % 2) ∨
    (ins = .ddxCoarse ∧ h = (fun l => l - l % 4 + 1) ∧ k = fun l => l - l % 4) ∨
    (ins = .ddy ∧ h = (fun l => l ||| 2) ∧ k = fun l => l &&& 29) ∨
    (ins = .ddyCoarse ∧ h = (fun l => l - l % 4 + 2) ∧ k = fun l => l - l % 4) →
    ∀ d a lit,
      let here (g : Group) (l j : Nat) : Bool := j == l || (g.ctl.act &&& g.ctl.live).has j
      let r (g : Group) (l : Nat) : Word × FFlags :=
        if here g l (h l) && here g l (k l) then
          let x := fSub fp32 false (g.opLane a.toNat lit (h l)).toNat (g.opLane a.toNat lit (k l)).toNat
          (BitVec.ofNat 32 x.1, x.2)
        else (0#32, fNone)
      WritesV (ins d a lit) (vecL d [a]) d.toNat (fun g l => (r g l).1) (NoTrap fun g l => (r g l).2)
        fun g => { flagged (fun g l => (r g l).2) g with
          derivflag := if g.ctl.act.toList.all (fun l => here g l (h l) && here g l (k l)) then g.sr.derivflag
            else g.sr.derivflag ||| 1#32 }) ∧
  (∀ d a m, WritesV (.qswap d a m) ⟨.vec, 1, [.vdst d.toNat 1 1, .vsrc a.toNat false, .cond (decide (m ≠ 0#2)) 0]⟩ d.toNat
    fun g l => fromLaneOr g a 0#32 l ((l ^^^ m.toNat : Nat) : Int))


/-- A scalar instruction with two sources. -/
def ScalarForm (ins : BitVec 8 → BitVec 8 → BitVec 8 → Instr) (op : Word → Word → Word) : Prop :=
  ∀ d a b, WritesS (ins d a b) ⟨.scalar, 1, []⟩ d.toNat fun g => op (g.sreg a.toNat) (g.sreg b.toNat)
/-- A scalar instruction on pairs. -/
def PairForm (ins : BitVec 8 → BitVec 8 → BitVec 8 → Instr) (op : DWord → DWord → DWord) : Prop :=
  ∀ d a b, WritesPair (ins d a b) ⟨.scalar, 1, [.pair d.toNat, .pair a.toNat, .pair b.toNat]⟩ d.toNat fun g =>
    op (g.spair a.toNat) (g.spair b.toNat)
/-- A truth value as a scalar. -/
def oneIf (b : Bool) : Word := if b then 1#32 else 0#32

/-- 14 R402 to R404: the scalar families, each acting once per instruction. -/
def Obligations.ScalarForms : Prop :=
  ScalarForm .sadd (fun x y => BitVec.ofNat 32 (x.toNat + y.toNat)) ∧
  ScalarForm .ssub (fun x y => BitVec.ofInt 32 ((x.toNat : Int) - y.toNat)) ∧
  ScalarForm .smul (fun x y => BitVec.ofNat 32 (x.toNat * y.toNat)) ∧
  ScalarForm .smulh (fun x y => BitVec.ofInt 32 ((x.toInt * y.toInt).fdiv (2 ^ 32))) ∧
  ScalarForm .sand (fun x y => x &&& y) ∧ ScalarForm .sor (fun x y => x ||| y) ∧ ScalarForm .sxor (fun x y => x ^^^ y) ∧
  ScalarForm .sandn (fun x y => x &&& ~~~y) ∧
  ScalarForm .sshl (fun x y => BitVec.ofNat 32 (if 32 ≤ y.toNat then 0 else x.toNat * 2 ^ y.toNat)) ∧
  ScalarForm .sshr (fun x y => BitVec.ofNat 32 (if 32 ≤ y.toNat then 0 else x.toNat / 2 ^ y.toNat)) ∧
  ScalarForm .ssar (fun x y => BitVec.ofInt 32 (x.toInt.fdiv (2 ^ min y.toNat 31))) ∧
  ScalarForm .srotl (fun x y => (x <<< (y.toNat % 32)) ||| (x >>> (32 - y.toNat % 32))) ∧
  ScalarForm .scmpEq (fun x y => oneIf (x == y)) ∧ ScalarForm .scmpLt (fun x y => oneIf (x.slt y)) ∧
  ScalarForm .scmpLtu (fun x y => oneIf (x.ult y)) ∧ ScalarForm .scmpLe (fun x y => oneIf (x.sle y)) ∧
  ScalarForm .smin (fun x y => if x.toInt ≤ y.toInt then x else y) ∧
  ScalarForm .smax (fun x y => if x.toInt ≤ y.toInt then y else x) ∧
  (∀ d a, WritesS (.spopc d a) ⟨.scalar, 1, []⟩ d.toNat fun g =>
    BitVec.ofNat 32 ((List.range 32).countP fun i => (g.sreg a.toNat).getLsbD i)) ∧
  (∀ d a, WritesS (.sclz d a) ⟨.scalar, 1, []⟩ d.toNat fun g =>
    BitVec.ofNat 32 (((List.range 32).find? fun n => (g.sreg a.toNat).getLsbD (31 - n)).getD 32)) ∧
  (∀ d i, WritesS (.smovi d i) ⟨.scalar, 1, []⟩ d.toNat fun _ => i.signExtend 32) ∧
  (∀ d i, WritesS (.smovhi d i) ⟨.scalar, 1, []⟩ d.toNat fun g =>
    BitVec.ofNat 32 (i.toNat * 2 ^ 16 + (g.sreg d.toNat).toNat % 2 ^ 16)) ∧
  (∀ d i, WritesS (.saddi d i) ⟨.scalar, 1, []⟩ d.toNat fun g => BitVec.ofInt 32 ((g.sreg d.toNat).toInt + i.toInt)) ∧
  (∀ d a c i, WritesS (.scmpi d a c i) ⟨.scalar, 1, []⟩ d.toNat fun g =>
    let x := g.sreg a.toNat
    let y : Word := i.signExtend 32
    oneIf ([x == y, x.slt y, x.ult y, x.sle y].getD c.toNat false)) ∧
  PairForm .sadd64 (fun x y => BitVec.ofNat 64 (x.toNat + y.toNat)) ∧
  PairForm .ssub64 (fun x y => BitVec.ofInt 64 ((x.toNat : Int) - y.toNat)) ∧
  PairForm .smul64 (fun x y => BitVec.ofNat 64 (x.toNat * y.toNat)) ∧
  (∀ d a b, WritesPair (.sshl64 d a b) ⟨.scalar, 1, [.pair d.toNat, .pair a.toNat]⟩ d.toNat fun g =>
    let n := (g.sreg b.toNat).toNat
    BitVec.ofNat 64 (if 64 ≤ n then 0 else (g.spair a.toNat).toNat * 2 ^ n))

/-- 14 R405, R406: moves between scalars, lanes and masks, and operations on whole masks. -/
def Obligations.ScalarVectorAndMaskForms : Prop :=
  (∀ d a b, WritesS (.vget d a b) ⟨.vec, 1, [.vgrp a.toNat 1 1]⟩ d.toNat fun g =>
    let l := (g.sreg b.toNat).toNat % 32
    if g.ctl.live.has l then (g.vreg a.toNat).val.lane l else 0#32) ∧
  (∀ d a b, WritesV (.vset d a b) ⟨.vec, 1, [.vdst d.toNat 1 1]⟩ d.toNat fun g l =>
    if l = (g.sreg b.toNat).toNat % 32 then g.sreg a.toNat else (g.vreg d.toNat).val.lane l) ∧
  (∀ d k, WritesS (.ktos d k) ⟨.vec, 1, []⟩ d.toNat fun g => g.kreg k.toNat) ∧
  (∀ k a, WritesK (.stok k a) ⟨.vec, 1, [.kdst k.toNat]⟩ k.toNat fun g => g.sreg a.toNat) ∧
  (∀ (ins : BitVec 3 → BitVec 3 → BitVec 3 → Instr) (op : Lanes → Lanes → Lanes),
    (ins = .kand ∧ op = (· &&& ·)) ∨ (ins = .kor ∧ op = (· ||| ·)) ∨ (ins = .kxor ∧ op = (· ^^^ ·)) →
    ∀ d a b, WritesK (ins d a b) ⟨.vec, 1, [.kdst d.toNat]⟩ d.toNat fun g => op (g.kreg a.toNat) (g.kreg b.toNat)) ∧
  (∀ d a, WritesK (.knot d a) ⟨.vec, 1, [.kdst d.toNat]⟩ d.toNat fun g => ~~~(g.kreg a.toNat)) ∧
  (∀ d a, WritesK (.kmov d a) ⟨.vec, 1, [.kdst d.toNat]⟩ d.toNat fun g => g.kreg a.toNat)

/-! ### Control (13 R338 to R340) -/

/-- The lanes that a transfer's condition selects: true or false in a lane mask, or of a scalar. -/
def Selects (t : Group → Lanes) (k : BitVec 3) (a : BitVec 8) : Fin 4 → Prop
  | 0 => t = fun g => g.ctl.act &&& g.kreg k.toNat
  | 1 => t = fun g => g.ctl.act &&& ~~~(g.kreg k.toNat)
  | 2 => t = fun g => if g.sreg a.toNat ≠ 0#32 then g.ctl.act else 0#32
  | 3 => t = fun g => if g.sreg a.toNat = 0#32 then g.ctl.act else 0#32

/-- The stack with lanes added to the nearest loop's entry, which nothing but IF entries stands above. -/
def inLoop (f : Lanes → Lanes → Lanes × Lanes) : List MaskEntry → Option (List MaskEntry)
  | .ifE a b c d e h :: rest => (inLoop f rest).map fun r => .ifE a b c d e h :: r
  | .loopE bp xp cont out :: rest => some (.loopE bp xp (f cont out).1 (f cont out).2 :: rest)
  | _ => none

/-- 13 R338, R339: IF in its eight forms, ELSE, ENDIF, LOOP, ENDLOOP, BREAK, CONTINUE, CALL and RET. `Controls` says what
follows of the masks, stack and place given here, with Unwind where no lane is left active. The model's own readings
and choices that it rests on: log entry 15. -/
def Obligations.ControlFlow : Prop :=
  ((∀ (ins : Instr) (t : Group → Lanes) (k : BitVec 3) (a : BitVec 8) (o : BitVec 13),
    (ins = .ifKElse k o ∧ Selects t k a 0) ∨ (ins = .ifNkElse k o ∧ Selects t k a 1) ∨
    (ins = .ifSElse a o ∧ Selects t k a 2) ∨ (ins = .ifNsElse a o ∧ Selects t k a 3) →
    Controls ins fun g => if 32 ≤ g.ctl.stack.length then none else
      some (t g, .ifE true false (g.target o) 0#64 (g.ctl.act &&& ~~~(t g)) 0#32 :: g.ctl.stack, g.nextClause)) ∧
  (∀ (ins : Instr) (t : Group → Lanes) (k : BitVec 3) (a : BitVec 8) (o : BitVec 13),
    (ins = .ifK k o ∧ Selects t k a 0) ∨ (ins = .ifNk k o ∧ Selects t k a 1) ∨
    (ins = .ifS a o ∧ Selects t k a 2) ∨ (ins = .ifNs a o ∧ Selects t k a 3) →
    Controls ins fun g => if 32 ≤ g.ctl.stack.length then none else
      some (t g, .ifE false false 0#64 (g.target o) 0#32 (g.ctl.act &&& ~~~(t g)) :: g.ctl.stack, g.nextClause)) ∧
  (∀ (o : BitVec 13) (g : Group), g.trap.pstate ≠ .resumed → ControlsIn (.elseArm o) g
    (match g.ctl.stack with
      | .ifE true false ep _ pend _ :: rest =>
        some (g.liveOf pend, .ifE true true ep (g.target o) 0#32 g.ctl.act :: rest, g.nextClause)
      | _ => none)) ∧
  Controls .endif fun g => match g.ctl.stack with
    | .ifE he past _ _ _ join :: rest =>
      if he = true ∧ past = false then none else some (g.liveOf (g.ctl.act ||| join), rest, g.nextClause)
    | _ => none) ∧
  (∀ o, Controls (.loop o) fun g => if 32 ≤ g.ctl.stack.length then none else
    some (g.ctl.act, .loopE g.nextClause (g.target o) 0#32 0#32 :: g.ctl.stack, g.nextClause)) ∧
  (Controls .endloop fun g => match g.ctl.stack with
    | .loopE bp xp cont out :: rest => some (g.liveOf (g.ctl.act ||| cont), .loopE bp xp 0#32 out :: rest, bp)
    | _ => none) ∧
  (∀ (ins : Instr) (t : Group → Lanes) (k : BitVec 3) (a : BitVec 8),
    (ins = .breakK k ∧ Selects t k a 0) ∨ (ins = .breakS a ∧ Selects t k a 2) →
    Controls ins fun g => (inLoop (fun c o => (c, o ||| t g)) g.ctl.stack).map fun st =>
      (g.ctl.act &&& ~~~(t g), st, g.nextClause)) ∧
  (∀ (ins : Instr) (t : Group → Lanes) (k : BitVec 3) (a : BitVec 8),
    (ins = .continueK k ∧ Selects t k a 0) ∨ (ins = .continueS a ∧ Selects t k a 2) →
    Controls ins fun g => (inLoop (fun c o => (c ||| t g, o)) g.ctl.stack).map fun st =>
      (g.ctl.act &&& ~~~(t g), st, g.nextClause)) ∧
  (∀ o, Controls (.call o) fun g => if 32 ≤ g.ctl.stack.length then none else
    some (g.ctl.act, .callE g.nextClause :: g.ctl.stack, g.target o)) ∧
  Controls .ret fun g => match g.ctl.stack with
    | .callE r :: rest => some (g.ctl.act, rest, r)
    | _ => none

/-! ### SYS (13 R330 to R337; 11 R293 to R296) -/

/-- 13 R331 to R333, 09 R263: NOP, YIELD and the sleeps. A wait that is not over blocks the group at its
instruction. The model's own readings and choices that it rests on: log entry 19. -/
def Obligations.WaitingInstructions : Prop :=
  Sets .nop ⟨.sys, 1, []⟩ (fun _ _ => True) (fun _ g h => SameRegs g h ∧ GoesOn g h 1) ∧
  Sets .yield ⟨.sys, 1, []⟩ (fun _ g => g.ctl.wakeHit = true ∨ g.inGate = true)
    (fun _ g h => SameRegs g h ∧ GoesOn g h 1) ∧
  Sets .yield ⟨.sys, 1, []⟩ (fun _ g => g.ctl.wakeHit = false ∧ g.inGate = false)
    (fun _ g h => SameRegs g h ∧ h.ctl.pc = g.ctl.pc ∧ h.ctl.status = .blocked .yield) ∧
  (∀ a, Sets (.sleepCyc a) ⟨.sys, 1, []⟩ (fun _ g => g.ctl.wakeHit = true ∨ g.sreg a.toNat = 0#32)
    (fun _ g h => SameRegs g h ∧ GoesOn g h 1)) ∧
  (∀ a, Sets (.sleepCyc a) ⟨.sys, 1, []⟩
    (fun _ g => g.ctl.wakeHit = false ∧ g.sreg a.toNat ≠ 0#32 ∧ g.inGate = false ∧ g.ctl.begun = none)
    (fun s g h => SameRegs g h ∧ h.ctl.pc = g.ctl.pc ∧
      h.ctl.status = .blocked (.sleep (s.cyc g.loc.cell + (g.sreg a.toNat).toNat) false false))) ∧
  (∀ a, Sets (.sleepUntil a) ⟨.sys, 1, [.pair a.toNat]⟩
    (fun s g => g.ctl.missed = none ∧ g.ctl.begun = none ∧ (∀ o ∈ g.asy.deferred ++ g.asy.ops, o.fault = none) ∧
      (g.ctl.wakeHit = true ∨ ((g.spair a.toNat).toNat ≤ s.cyc g.loc.cell ∧
        ∀ o ∈ g.asy.ops, o.cls = 0 → o.promise ≤ (g.spair a.toNat).toNat → o.done = true)))
    (fun _ g h => SameRegs g h ∧ GoesOn g h 1)) ∧
  (∀ a, Sets (.sleepUntil a) ⟨.sys, 1, [.pair a.toNat]⟩
    (fun s g => g.ctl.missed = none ∧ g.ctl.begun = none ∧ g.ctl.wakeHit = false ∧ g.inGate = false ∧
      s.cyc g.loc.cell < (g.spair a.toNat).toNat)
    (fun _ g h => SameRegs g h ∧ h.ctl.pc = g.ctl.pc ∧
      h.ctl.status = .blocked (.sleep (g.spair a.toNat).toNat true false)))

/-- 13 R335 to R337: SREAD of every special register. -/
def Obligations.SpecialRegisterReads : Prop :=
  (∀ (d n : BitVec 8) (v : State → Group → Nat),
    (n = 0x01 ∧ v = fun _ g => g.sr.gtimer) ∨ (n = 0x00 ∧ v = fun s g => s.cyc g.loc.cell) ∨
    (n = 0x02 ∧ v = fun _ g => g.sr.gtcmp) ∨ (n = 0x03 ∧ v = fun _ g => g.sr.promise) ∨
    (n = 0x04 ∧ v = fun _ g => match g.handled with
      | some p => p.info.toNat
      | none => if g.id.pfail then 0x1F else 0) ∨
    (n = 0x05 ∧ v = fun _ g => match g.handled with | some p => p.pc.toNat | none => 0) ∨
    (n = 0x07 ∧ v = fun _ g => g.sr.tvec.toNat) ∨
    (n = 0x12 ∧ v = fun _ g => g.privBase) →
    Sets (.sread d n) ⟨.sys, 1, [.cond (decide (d.toNat % 2 = 0)) n.toNat]⟩ (fun _ _ => True) fun s g h =>
      h.spair d.toNat = BitVec.ofNat 64 (v s g) ∧ KeepsRegs g h [] [d.toNat, d.toNat + 1] [] ∧ KeepsRest g h ∧
      h.sr = g.sr ∧ h.id = g.id ∧ GoesOn g h 1) ∧
  (∀ (d n : BitVec 8) (v : Group → Nat),
    (n = 0x06 ∧ v = fun g => match g.handled with | some p => p.mask.toNat | none => 0) ∨
    (n = 0x08 ∧ v = fun g => g.sr.fpctl.toNat) ∨ (n = 0x09 ∧ v = fun g => g.sr.fpstat.toNat) ∨
    (n = 0x0A ∧ v = fun g => g.sr.seed.toNat) ∨ (n = 0x0B ∧ v = fun g => g.sr.migrate.toNat) ∨
    (n = 0x0C ∧ v = fun g => (if g.loc.abacus then 128 else g.loc.sub * 256) + g.loc.quad * 32 + g.loc.cell) ∨
    (n = 0x0D ∧ v = fun g => if g.loc.abacus then 0xC000 + g.loc.cell * 16 + g.loc.quad * 4 + g.loc.slot
      else (g.loc.cell * 4 + g.loc.quad) * 96 + (g.loc.sub % 8) * 12 + g.loc.slot) ∨
    (n = 0x0E ∧ v = fun g => g.sr.blockid.toNat) ∨
    (n = 0x0F ∧ v = fun g => if g.loc.abacus then 64 * g.loc.slot else 0) ∨
    (n = 0x10 ∧ v = fun g => g.sr.derivflag.toNat) ∨
    (n = 0x11 ∧ v = fun g => g.asy.gates.length * 2 ^ 24 + g.sr.gatestat.toNat % 2 ^ 24) ∨
    (n = 0x13 ∧ v = fun g => g.privSize) →
    Sets (.sread d n) ⟨.sys, 1, []⟩ (fun _ _ => True) fun _ g h =>
      h.sreg d.toNat = BitVec.ofNat 32 (v g) ∧ KeepsRegs g h [] [d.toNat] [] ∧ KeepsRest g h ∧
      h.sr = g.sr ∧ h.id = g.id ∧ GoesOn g h 1)

/-- 13 R335 to R337: SWRITE of every register that it may name, with its reserved bits zero; sr.trappc names the
handled lanes' own, and sr.seed restarts the generators of the active lanes (10 R278). -/
def Obligations.SpecialRegisterWrites : Prop :=
  (∀ (a n : BitVec 8) (rsv : Nat) (f : GSpecial → DWord → GSpecial),
    (n = 0x02 ∧ rsv = 0 ∧ f = fun r x => { r with gtcmp := x.toNat }) ∨
    (n = 0x07 ∧ rsv = 0xFFFF00000000003E ∧ f = fun r x => { r with tvec := x }) →
    Sets (.swrite a n) ⟨.sys, 1, [.cond (decide (a.toNat % 2 = 0)) n.toNat]⟩
      (fun _ g => g.inGate = false ∧ g.spair a.toNat &&& BitVec.ofNat 64 rsv = 0#64)
      fun _ g h => h.sr = f g.sr (g.spair a.toNat) ∧ h.regs = g.regs ∧ h.id = g.id ∧ KeepsRest g h ∧ GoesOn g h 1) ∧
  (∀ a, Sets (.swrite a 0x05#8) ⟨.sys, 1, [.cond (decide (a.toNat % 2 = 0)) 5]⟩
      (fun _ g => g.inGate = false ∧ g.spair a.toNat &&& 0xFFFF000000000003#64 = 0#64)
      fun _ g h => h.sr = g.sr ∧ h.regs = g.regs ∧ h.id = g.id ∧ GoesOn g h 1 ∧
        h.handled.map (·.mask) = g.handled.map (·.mask) ∧
        h.handled.map (·.pc) = g.handled.map fun _ => g.spair a.toNat) ∧
  (∀ (a n : BitVec 8) (rsv : Word) (f : GSpecial → Word → GSpecial),
    (n = 0x08 ∧ rsv = 0xFFFFFCE0#32 ∧ f = fun r x => { r with fpctl := x }) ∨
    (n = 0x09 ∧ rsv = 0xFFFFFFE0#32 ∧ f = fun r x => { r with fpstat := x }) ∨
    (n = 0x0B ∧ rsv = 0x7F000000#32 ∧
      f = fun r x => { r with migrate := (x &&& 0x8000FFFF#32) ||| (r.migrate &&& 0x00FF0000#32) }) ∨
    (n = 0x10 ∧ rsv = 0xFFFFFFFE#32 ∧ f = fun r x => { r with derivflag := r.derivflag &&& ~~~x }) →
    Sets (.swrite a n) ⟨.sys, 1, []⟩ (fun _ g => (g.inGate = true → n = 0x08#8 ∨ n = 0x09#8) ∧ g.sreg a.toNat &&& rsv = 0#32)
      fun _ g h => h.sr = f g.sr (g.sreg a.toNat) ∧ h.regs = g.regs ∧ h.id = g.id ∧ KeepsRest g h ∧ GoesOn g h 1) ∧
  (∀ a, Sets (.swrite a 0x0A#8) ⟨.sys, 1, []⟩ (fun _ _ => True) fun _ g h =>
      h.sr = { g.sr with seed := g.sreg a.toNat } ∧ h.regs = g.regs ∧ KeepsRest g h ∧ GoesOn g h 1 ∧
      ∀ l, l < 32 → h.genOf l =
        if g.ctl.act.has l then seedState (g.sreg a.toNat) (g.id.tidx.getD l 0) else g.genOf l) ∧
  (∀ (a n : BitVec 8) (s : State) (i : Nat) (g : Group), n ∉ [0x02#8, 0x05#8, 0x07#8, 0x08#8, 0x09#8, 0x0A#8, 0x0B#8, 0x10#8] →
    s.issuer = some (i, g) → exec (.swrite a n) s = .next (s.stopsAt i g 1 (.here 0x02 n.toNat)))

/-- 07 R204 to R207: EXIT and TAIL end the active lanes' threads, which drop from their block's barrier; the group with no
thread left has ended, by TAIL with a retirement-tracker entry to come where its sub-core has one free. 13 R334: PFAIL.DONE in a power-failure handler ends all the group's threads, and raises PRIVILEGE
in any other group. 17 R481, 04 R125: OM.LATCH writes word LATCH of the pending set where its context is the HUD context,
and otherwise writes nothing; LATCH 7 closes the set. The model's own readings and choices that it rests on: log
entries 27 and 70. -/
def Obligations.EndsOfThreadsAndLatch : Prop :=
  (∀ (ins : Instr) (tail : Bool), (ins = .exit ∧ tail = false) ∨ (ins = .tail ∧ tail = true) →
    Does ins ⟨.tail, 1, []⟩ (fun s _ g => g.id.block < s.blocks.length) fun s i g t =>
      (t.group i).ctl.live = g.ctl.live &&& ~~~g.ctl.act ∧
      (∀ l, l < 32 → (g.ctl.act &&& g.ctl.live).has l = true → g.thread l ∈ (t.block g.id.block).dropped) ∧
      (∀ th, th ∈ (s.block g.id.block).dropped → th ∈ (t.block g.id.block).dropped) ∧
      (g.ctl.live &&& ~~~g.ctl.act = 0#32 → g.asy.ops = [] → g.asy.deferred = [] →
        (t.group i).ctl.status =
          if tail = true ∧ g.id.role ≠ .matrix ∧ s.trackerUse g < maxTracked then .endedTail else .ended)) ∧
  (∀ (a : BitVec 7) (w : BitVec 3),
    Does (.omLatch a w) ⟨.gfx, 1, [.cond (w != 6#3) 6, .vsrc a.toNat false]⟩ (fun s _ _ => s.hub.latch.length = 8)
      fun s i g t => Passes g (t.group i) 1 ∧
        let mine : Bool := s.hub.hudCtxEn && s.hub.hudCtx == g.id.ctx
        t.hub.latchUse = s.hub.latchUse ∧ t.hub.latchFull = (s.hub.latchFull || mine && w == 7#3) ∧
        ∀ n, n < 8 → t.hub.latch.getD n 0#32 = if mine = true ∧ n = w.toNat then
          (if w = 7#3 then g.opLane a.toNat 0#32 g.firstAct &&& 0xFFFF#32 else g.opLane a.toNat 0#32 g.firstAct)
          else s.hub.latch.getD n 0#32) ∧
  Does .pfailDone ⟨.sys, 1, []⟩ (fun s _ g => g.id.pfail = true ∧ g.inGate = false ∧ g.id.block < s.blocks.length)
    (fun s i g t => (t.group i).ctl.live = 0#32 ∧
      (∀ l, l < 32 → g.ctl.live.has l = true → g.thread l ∈ (t.block g.id.block).dropped) ∧
      (∀ v, s.hub.save = some v → ∃ v', t.hub.save = some v' ∧
        ∀ x ∈ v'.handlers, x.group = i → x.done = true)) ∧
  Does .pfailDone ⟨.sys, 1, []⟩ (fun _ _ g => g.id.pfail = false) fun s i g t => t = s.stopsAt i g 1 (.here 0x04 0)


/-- 13 R332, 11 R293 to R296: TRAP and BRK take USER_TRAP and BREAKPOINT for the whole active set before the next
instruction. With a handler and nothing else parked the lanes are parked, to resume at the next word, and the handler
runs them at the address of sr.tvec; without one the fault domain ends their threads, or their block. RESUME in a
handler sends the handled lanes on from sr.trappc, and they leave the parked sub-groups; outside one, or at another
depth of the mask stack, it raises STRUCTURE. The model's own readings and choices that it rests on: log entry 15. -/
def Obligations.TrapsAndReturns : Prop :=
  (∀ (ins : Instr) (n : BitVec 8) (code : Nat), (ins = .trap n ∧ code = 0x1E) ∨ (ins = .brk n ∧ code = 0x1D) →
    Does ins ⟨.sys, 1, []⟩ (fun _ _ g => g.inGate = false ∧ g.sr.tvec &&& 0x0000FFFFFFFFFFC0#64 ≠ 0#64 ∧ g.unparked ∧
        g.ctl.stack = [] ∧ g.ctl.act ≠ 0#32)
      (fun s i g t => ∃ h, t = s.setGroup i h ∧ SameRegs g h ∧ h.ctl.live = g.ctl.live ∧ h.ctl.act = g.ctl.act ∧
        h.ctl.pc = g.sr.tvec &&& 0x0000FFFFFFFFFFC0#64 ∧ h.trap.pstate = .handler ∧
        h.trap.parked = [⟨g.ctl.act, (g.nextPc 1).1, (g.ctl.pc <<< 16) ||| BitVec.ofNat 64 (n.toNat * 256 + code), 0⟩]) ∧
    Does ins ⟨.sys, 1, []⟩ (fun s _ g => g.inGate = false ∧ g.sr.tvec &&& 0x0000FFFFFFFFFFC0#64 = 0#64 ∧
        g.id.block < s.blocks.length)
      fun s i g t => ((s.block g.id.block).fdom = .report → (t.group i).ctl.live = g.ctl.live &&& ~~~g.ctl.act) ∧
        ((s.block g.id.block).fdom ≠ .report → (t.block g.id.block).terminated = true)) ∧
  (∀ p : Park, Sets .resume ⟨.resume, 1, []⟩
    (fun s g => g.handled = some p ∧ g.ctl.stack.length = g.trap.hdepth ∧ s.resumeFault g p.pc.toNat = none)
    fun _ g h => SameRegs g h ∧ h.ctl.act = p.mask ∧ h.ctl.pc = p.pc ∧ h.ctl.live = g.ctl.live ∧
      h.ctl.stack = g.ctl.stack ∧ h.trap.pstate = .resumed ∧ (∀ q, q ∈ h.trap.parked ↔ q ∈ g.trap.parked ∧ q ≠ p)) ∧
  ∀ (s : State) (i : Nat) (g : Group), Ready s i g ⟨.resume, 1, []⟩ →
    g.handled = none ∨ g.ctl.stack.length ≠ g.trap.hdepth →
    exec .resume s = .next (s.stopsAt i g 1 (.here 0x05 g.ctl.stack.length))



/-! ### Barriers, ordering, semaphores and monitors (13 R350 to R361; 07 R202; 09 R247 to R258) -/

/-- The active lanes' threads can arrive: no two are one thread, and none has dropped or arrived. -/
def arrivals (s : State) (g : Group) : Prop :=
  g.id.block < s.blocks.length ∧ (g.ctl.act.toList.map g.thread).Nodup ∧ ∀ l ∈ g.ctl.act.toList,
    g.thread l ∉ (s.block g.id.block).dropped ∧ g.thread l ∉ (s.block g.id.block).arrived

/-- 07 R202, 13 R350: what the four forms of the block barrier do. Under rollback a completion in a block on more than one
cell writes its lines home (05 R141), and no byte of another line. The model's own readings and choices that it rests
on: log entry 58. -/
def Obligations.BlockBarrier : Prop :=
  (∀ (n : Nat),
    Does .barArrive ⟨.bar, 1, []⟩
      (fun s i g => (∃ r, s.releaseOnly i 1 = .ok r) ∧ arrivals s g ∧ n = g.ctl.act.toList.length ∧
        (s.block g.id.block).barA + n < (s.block g.id.block).barE)
      fun s i g t => Passes g (t.group i) 1 ∧ SameMem s t ∧ (t.block g.id.block).barP = (s.block g.id.block).barP ∧
        (t.block g.id.block).barA = (s.block g.id.block).barA + n ∧
        ∀ l ∈ g.ctl.act.toList, g.thread l ∈ (t.block g.id.block).arrived) ∧
  (∀ (ins : Instr), ins = .bar ∨ ins = .barArrive →
    Does ins ⟨.bar, 1, []⟩
      (fun s i g => (∃ r, s.releaseOnly i 1 = .ok r) ∧ arrivals s g ∧ g.ctl.wakeHit = false ∧ 0 < (s.block g.id.block).barE ∧
        (s.block g.id.block).barA + g.ctl.act.toList.length = (s.block g.id.block).barE ∧ s.readsDone g.id.block = true)
      fun s i g t => Passes g (t.group i) 1 ∧ (t.block g.id.block).barP = (s.block g.id.block).barP + 1 ∧
        (t.block g.id.block).barA = 0 ∧ (t.block g.id.block).arrived = [] ∧
        (∀ p c a, (t.window p c).mem.get a = (s.window p c).mem.get a) ∧
        ((s.block g.id.block).fdom ≠ .rollback ∨ (s.block g.id.block).cells.length ≤ 1 → SameMem s t) ∧
        ∀ a, (∀ c ∈ (s.block g.id.block).cells, ∀ x ∈ (s.window (s.block g.id.block).part c).lines, x.line ≠ a / 128) →
          t.mem.get a = s.mem.get a) ∧
  (Does .bar ⟨.bar, 1, []⟩
      (fun s i g => (∃ r, s.releaseOnly i 1 = .ok r) ∧ arrivals s g ∧ g.ctl.wakeHit = false ∧
        (s.block g.id.block).barA + g.ctl.act.toList.length < (s.block g.id.block).barE)
      fun s i g t => Waits g (t.group i) (.bar (s.block g.id.block).barP) ∧ SameMem s t ∧
        (t.block g.id.block).barA = (s.block g.id.block).barA + g.ctl.act.toList.length) ∧
  (Does .bar ⟨.bar, 1, []⟩ (fun _ _ g => g.ctl.wakeHit = true) fun s i g t => Passes g (t.group i) 1 ∧ SameMem s t) ∧
  (Does .barWait ⟨.bar, 1, []⟩
      (fun s _ g => g.ctl.wakeHit = true ∨ (s.block g.id.block).barE = 0 ∨ ∀ l ∈ g.ctl.act.toList,
        (g.thread l, (s.block g.id.block).barP) ∉ (s.block g.id.block).lastphase)
      fun s i g t => Passes g (t.group i) 1 ∧ SameMem s t) ∧
  (Does .barWait ⟨.bar, 1, []⟩
      (fun s _ g => g.ctl.wakeHit = false ∧ (s.block g.id.block).barE ≠ 0 ∧ ∃ l ∈ g.ctl.act.toList,
        (g.thread l, (s.block g.id.block).barP) ∈ (s.block g.id.block).lastphase)
      fun s i g t => Waits g (t.group i) (.bar (s.block g.id.block).barP) ∧ SameMem s t) ∧
  Does .barDrop ⟨.bar, 1, []⟩
      (fun s _ g => arrivals s g ∧
        (s.block g.id.block).barA + g.ctl.act.toList.length < (s.block g.id.block).barE)
      fun s i g t => Passes g (t.group i) 1 ∧ SameMem s t ∧ (t.block g.id.block).barP = (s.block g.id.block).barP ∧
        (t.block g.id.block).barA = (s.block g.id.block).barA ∧
        (t.block g.id.block).barE = (s.block g.id.block).barE - g.ctl.act.toList.length ∧
        ∀ l ∈ g.ctl.act.toList, g.thread l ∈ (t.block g.id.block).dropped

/-- The object that a barrier-object form names, at a legal offset of its block's segment. -/
def objAt (s : State) (g : Group) (b : BitVec 8) : BObj := s.bobj g.id.block g.loc.cell (g.sreg b.toNat).toNat
def objLegal (s : State) (g : Group) (b : BitVec 8) : Prop :=
  (g.sreg b.toNat).toNat % 16 = 0 ∧ (s.block g.id.block).segOk (g.sreg b.toNat).toNat 16 = true
/-- The checks of a form with the pair of `p`, and of one without. -/
def objInfo (p b : BitVec 8) : Info := ⟨.bobj, 1, [.pair p.toNat, .cond (b != 0xFF#8) 0xFF]⟩
def objInfo0 (b : BitVec 8) : Info := ⟨.bobj, 1, [.cond (b != 0xFF#8) 0xFF]⟩
/-- The group's subscribed lanes, and those of them that have arrived in the phase. -/
def subLanes (g : Group) (b : BitVec 8) : Lanes × Lanes :=
  match g.asy.subs.find? fun e => e.off == (g.sreg b.toNat).toNat with
  | some e => (e.lanes, e.arrived)
  | none => (0#32, 0#32)

/-- 13 R351 to R357: what the forms of BOBJ do to their object. The model's own readings and choices that it rests on:
log entry 78. -/
def Obligations.BarrierObjects : Prop :=
  (∀ p b m, Does (.bobjInit p b m) (objInfo p b)
    (fun s _ g => objLegal s g b ∧ (g.sreg p.toNat).toNat < 2 ^ 24 ∧ (g.sreg (p.toNat + 1)).toNat ≤ 65535)
    fun s i g t => Passes g (t.group i) 1 ∧ StoresSeg s t g.id.block g.loc.cell (g.sreg b.toNat).toNat 16 ∧
      objAt t g b = ⟨m == 1#1, false, 0, (g.sreg (p.toNat + 1)).toNat, (g.sreg (p.toNat + 1)).toNat, 0,
        (g.sreg p.toNat).toNat, (g.sreg p.toNat).toNat⟩) ∧
  (∀ b, Does (.bobjJoin b) (objInfo0 b)
    (fun s _ g => objLegal s g b ∧
      ((∃ e ∈ g.asy.subs, e.off = (g.sreg b.toNat).toNat) ∨ g.asy.subs.length < 4) ∧
      (objAt s g b).subs + (g.ctl.act &&& ~~~(subLanes g b).1).count ≤ 65535 ∧
      (objAt s g b).unarr + (g.ctl.act &&& ~~~(subLanes g b).1).count ≤ 65535)
    fun s i g t => Passes g (t.group i) 1 ∧ StoresSeg s t g.id.block g.loc.cell (g.sreg b.toNat).toNat 16 ∧
      objAt t g b = { objAt s g b with
        subs := (objAt s g b).subs + (g.ctl.act &&& ~~~(subLanes g b).1).count
        unarr := (objAt s g b).unarr + (g.ctl.act &&& ~~~(subLanes g b).1).count } ∧
      (subLanes (t.group i) b).1 = (subLanes g b).1 ||| g.ctl.act) ∧
  (∀ b, Does (.bobjLeave b) (objInfo0 b) (fun s _ g => objLegal s g b)
    fun s i g t => Passes g (t.group i) 1 ∧ StoresSeg s t g.id.block g.loc.cell (g.sreg b.toNat).toNat 16 ∧
      objAt t g b = { objAt s g b with
        subs := (objAt s g b).subs - ((subLanes g b).1 &&& g.ctl.act).count
        unarr := (objAt s g b).unarr - ((subLanes g b).1 &&& g.ctl.act &&& ~~~(subLanes g b).2).count }) ∧
  (∀ (p b : BitVec 8) (a : BitVec 1) (amount : Nat),
    Does (.bobjArrive p b a) (if a = 1#1 then objInfo p b else objInfo0 b)
    (fun s _ g => objLegal s g b ∧ (g.asy.subs.map (·.off)).Nodup ∧
      amount = (if (objAt s g b).mode = true ∧ a = 1#1 then (g.sreg p.toNat).toNat else 1) ∧
      (objAt s g b).got + g.ctl.act.toList.length * amount < (objAt s g b).expect)
    fun s i g t => Passes g (t.group i) 1 ∧ StoresSeg s t g.id.block g.loc.cell (g.sreg b.toNat).toNat 16 ∧
      objAt t g b = { objAt s g b with
        got := (objAt s g b).got + g.ctl.act.toList.length * amount
        unarr := (objAt s g b).unarr - (g.ctl.act &&& (subLanes g b).1 &&& ~~~(subLanes g b).2).count }) ∧
  (∀ (p b : BitVec 8) (a : BitVec 1) (amount : Nat),
    Does (.bobjArrive p b a) (if a = 1#1 then objInfo p b else objInfo0 b)
    (fun s _ g => objLegal s g b ∧ g.ctl.act ≠ 0#32 ∧ 0 < amount ∧
      amount = (if (objAt s g b).mode = true ∧ a = 1#1 then (g.sreg p.toNat).toNat else 1) ∧
      (objAt s g b).got + g.ctl.act.toList.length * amount = (objAt s g b).expect)
    fun s i g t => Passes g (t.group i) 1 ∧ (objAt t g b).phase = !(objAt s g b).phase ∧ (objAt t g b).got = 0 ∧
      (objAt t g b).expect = (objAt s g b).base ∧ (objAt t g b).unarr = (objAt s g b).subs) ∧
  (∀ p b, Does (.bobjExpect p b) (objInfo p b)
    (fun s _ g => objLegal s g b ∧ (objAt s g b).expect + (g.sreg p.toNat).toNat < 2 ^ 24)
    fun s i g t => Passes g (t.group i) 1 ∧ StoresSeg s t g.id.block g.loc.cell (g.sreg b.toNat).toNat 16 ∧
      objAt t g b = { objAt s g b with expect := (objAt s g b).expect + (g.sreg p.toNat).toNat }) ∧
  (∀ p b, Does (.bobjWait p b) (objInfo p b)
    (fun s _ g => objLegal s g b ∧ (∀ o ∈ g.asy.deferred ++ g.asy.ops, o.fault = none) ∧
      (g.ctl.wakeHit = true ∨ (objAt s g b).phase ≠ (g.sreg p.toNat).getLsbD 0))
    fun s i g t => Passes g (t.group i) 1 ∧ SameMem s t) ∧
  (∀ p b, Does (.bobjWait p b) (objInfo p b)
    (fun s _ g => objLegal s g b ∧ (∀ o ∈ g.asy.deferred ++ g.asy.ops, o.fault = none) ∧ g.ctl.wakeHit = false ∧
      (objAt s g b).phase = (g.sreg p.toNat).getLsbD 0 ∧ (objAt s g b).starved = false)
    fun s i g t => Waits g (t.group i) (.bobj (g.sreg b.toNat).toNat ((g.sreg p.toNat).getLsbD 0)) ∧ SameMem s t) ∧
  ∀ p b, Does (.bobjTest p b) (objInfo p b) (fun s _ g => objLegal s g b)
    fun s i g t => SameMem s t ∧ GoesOn g (t.group i) 1 ∧ KeepsRegs g (t.group i) [] [p.toNat + 1] [] ∧
      (t.group i).sreg (p.toNat + 1) = if (objAt s g b).phase ≠ (g.sreg p.toNat).getLsbD 0 then 1#32
        else if (objAt s g b).starved then 2#32 else 0#32

/-- The semaphore's quadrant belongs to the group's partition (08 R219). -/
def semHeld (s : State) (g : Group) (n : BitVec 8) : Prop := n.toNat / 16 ∈ s.heldQuads (s.partOf g) g.loc.cell
def semInfo (n : BitVec 8) : Info := ⟨.sem, 1, [.cond (decide (n.toNat < 64)) n.toNat]⟩

/-- 13 R358 to R361: WAIT.CNT, FENCE, the cell's semaphores and monitors. The model's own readings and choices that it
rests on: log entry 19. -/
def Obligations.OrderingAndWaiting : Prop :=
  (∀ n c, Does (.waitCnt n c) ⟨.order, 1, []⟩
    (fun _ _ g => (∀ o ∈ g.asy.deferred ++ g.asy.ops, o.fault = none) ∧
      (g.ctl.wakeHit = true ∨ g.asy.cnt.getD c.toNat 0 ≤ n.toNat))
    fun s i g t => Passes g (t.group i) 1 ∧ SameMem s t) ∧
  (∀ n c, Does (.waitCnt n c) ⟨.order, 1, []⟩
    (fun _ _ g => (∀ o ∈ g.asy.deferred ++ g.asy.ops, o.fault = none) ∧ g.ctl.wakeHit = false ∧ g.inGate = false ∧
      n.toNat < g.asy.cnt.getD c.toNat 0)
    fun s i g t => Waits g (t.group i) (.cnt c.toNat n.toNat) ∧ SameMem s t) ∧
  (∀ sc o, Does (.fence sc o) ⟨.order, 1, []⟩ (fun s i _ => 2 ≤ o.toNat → ∃ r, s.release i sc.toNat = .ok r)
    fun s i g t => Passes g (t.group i) 1 ∧ SameMem s t) ∧
  (∀ (ins : BitVec 8 → BitVec 8 → Instr) (op : Word → Word → Word),
    (ins = .semSet ∧ op = fun _ v => v) ∨ (ins = .semAdd ∧ op = fun x v => x + v) →
    ∀ a n, Does (ins a n) (semInfo n) (fun s i g => semHeld s g n ∧ ∃ r, s.release i 4 = .ok r)
      fun s i g t => Passes g (t.group i) 1 ∧ SameMem s t ∧
        (∀ c m, t.sem c m = if c = g.loc.cell ∧ m = n.toNat then op (s.sem c m) (g.sreg a.toNat) else s.sem c m) ∧
        ∀ j m v, (s.group j).ctl.status = .blocked (.sem m v) → (s.group j).loc.cell = g.loc.cell → m = n.toNat → j ≠ i →
          v.toNat ≤ (op (s.sem g.loc.cell m) (g.sreg a.toNat)).toNat → (t.group j).ctl.wakeHit = true) ∧
  (∀ a n, Does (.semWaitge a n) (semInfo n)
    (fun s _ g => semHeld s g n ∧ (g.ctl.wakeHit = true ∨ (g.sreg a.toNat).toNat ≤ (s.sem g.loc.cell n.toNat).toNat))
    fun s i g t => Passes g (t.group i) 1 ∧ SameMem s t) ∧
  (∀ a n, Does (.semWaitge a n) (semInfo n)
    (fun s _ g => semHeld s g n ∧ g.ctl.wakeHit = false ∧ (s.sem g.loc.cell n.toNat).toNat < (g.sreg a.toNat).toNat)
    fun s i g t => Waits g (t.group i) (.sem n.toNat (g.sreg a.toNat)) ∧ SameMem s t) ∧
  (∀ d n, Does (.semRead d n) (semInfo n) (fun s _ g => semHeld s g n)
    fun s i g t => GoesOn g (t.group i) 1 ∧ KeepsRegs g (t.group i) [] [d.toNat] [] ∧
      (t.group i).sreg d.toNat = s.sem g.loc.cell n.toNat ∧ SameMem s t) ∧
  (∀ (r w : BitVec 1) (c : BitVec 3) (a b : BitVec 8) (pa u : Nat),
    let wide := w == 1#1
    let n := if wide then 8 else 4
    let v (g : Group) : Nat := if wide then (g.spair b.toNat).toNat else (g.sreg b.toNat).toNat
    let holds (s : State) (g : Group) : Bool := monCond c.toNat (8 * n) (v g) (s.mem.value pa n)
    let p : Info := ⟨.mon, 1, .pair a.toNat :: if wide then [.pair b.toNat] else []⟩
    let can (s : State) (g : Group) : Prop := g.ctl.wakeHit = false ∧ g.ctl.begun = none ∧ g.inGate = false ∧
      s.laneXlate g false n (g.spair a.toNat).toNat = .ok (pa, u) ∧ s.memPoison.hit pa n = none
    (r = 1#1 → Does (.waitc r w c a b) p (fun s _ g => can s g) fun s i g t => Passes g (t.group i) 1 ∧ SameMem s t ∧
      ∃ m, (t.group i).mons = (if (g.mons.countP fun x => !x.matched) < 16 then g.mons
          else g.mons.eraseP fun x => !x.matched) ++ [m] ∧ m.pa = pa ∧ m.wide = wide ∧
        m.cond = c.toNat ∧ m.value = v g ∧ m.matched = holds s g) ∧
    (r = 0#1 → Does (.waitc r w c a b) p (fun s _ g => can s g ∧ holds s g = true)
      fun s i g t => Passes g (t.group i) 1 ∧ SameMem s t ∧ (t.group i).mons = []) ∧
    (r = 0#1 → Does (.waitc r w c a b) p (fun s _ g => can s g ∧ holds s g = false ∧ ∀ m ∈ g.mons, m.matched = false)
      fun s i g t => Waits g (t.group i) .waitc ∧ SameMem s t ∧ ∃ m, m ∈ (t.group i).mons ∧ m.pa = pa ∧ m.value = v g)) ∧
  (∀ r w c a b, Does (.waitc r w c a b) ⟨.mon, 1, .pair a.toNat :: if w == 1#1 then [.pair b.toNat] else []⟩
    (fun _ _ g => g.ctl.wakeHit = true) fun s i g t => Passes g (t.group i) 1 ∧ SameMem s t ∧ (t.group i).mons = []) ∧
  Sets .monCancel ⟨.mon, 1, []⟩ (fun _ _ => True) fun _ g h => Passes g h 1 ∧ h.mons = []

/-! ### The cell store (15 R414 to R416, R420, R421; 14 R395) -/

/-- The loads of the cell store by size code, and the stores. -/
def LdcForm (f : BitVec 7 → BitVec 7 → BitVec 1 → BitVec 8 → Word → Instr) (code : Nat) : Prop :=
  (f = .ldcU8 ∧ code = 0) ∨ (f = .ldcS8 ∧ code = 1) ∨ (f = .ldcU16 ∧ code = 2) ∨ (f = .ldcS16 ∧ code = 3) ∨
    (f = .ldc ∧ code = 4) ∨ (f = .ldc64 ∧ code = 5)
def StcForm (f : BitVec 7 → BitVec 7 → BitVec 1 → BitVec 8 → Word → Instr) (code : Nat) : Prop :=
  (f = .stc8 ∧ code = 0) ∨ (f = .stc16 ∧ code = 2) ∨ (f = .stc ∧ code = 4) ∨ (f = .stc64 ∧ code = 5)

/-- A lane's access of `n` bytes at a segment offset passes: aligned, in bounds, and without a race (15 R416). -/
def segOkFor (s : State) (i : Nat) (g : Group) (off n : Nat) : Prop :=
  off % n = 0 ∧ (s.block g.id.block).segOk off n = true ∧
    (g.id.pfail = true ∨ (s.block g.id.block).raceFree i g.asy.heirs g.asy.acq g.loc.cell off n = true)

/-- 15 R414, R415: the loads of the cell store, in every size and order: each active lane's result is the element at
base plus index, extended as the size code says; no byte of memory changes. The model's own readings and choices that
it rests on: log entry 18. -/
def Obligations.CellStoreLoads : Prop :=
  (∀ (ins : Instr) (p : Info) (code order scope : Nat) (d i : BitVec 7) (x : BitVec 1) (b : BitVec 8) (lit : Word),
    ((∃ f, LdcForm f code ∧ ins = f d i x b lit ∧ order = 0 ∧ scope = 0 ∧
        p = ⟨.cellMem, litLen i, [dataDst d code, .vsrc i.toNat true]⟩) ∨
      (∃ sc od sz, ins = .ldcOrdered d i x b sc od sz ∧ code = sz.toNat ∧ code < 6 ∧ order = od.toNat ∧ scope = sc.toNat ∧
        lit = 0#32 ∧ p = ⟨.cellMem, 2, [dataDst d code, .vsrc i.toNat false]⟩)) →
    let at_ (g : Group) := g.segAddr b.toNat i.toNat lit (scaleBy x (sizeBytes code))
    Does ins p
      (fun s gi g => g.ctl.act ≠ 0#32 ∧ (order = 2 → ∃ r, s.release gi scope = .ok r) ∧
        ∀ l ∈ g.ctl.act.toList, segOkFor s gi g (at_ g l) (sizeBytes code) ∧
          s.segPoison g.id.block g.loc.cell (at_ g l) (sizeBytes code) = none)
      fun s gi g t => GoesOn g (t.group gi) p.words ∧ SameMem s t ∧
        Fetches g (t.group gi) d.toNat (sizeRegs code) g.ctl.act fun l =>
          loadWords code (s.segRead g.id.block g.loc.cell (at_ g l) (sizeBytes code))) ∧
  ∀ d i x b lit,
    let at_ (g : Group) := g.segAddr b.toNat i.toNat lit (scaleBy x 4) g.firstAct
    Does (.ldcBc d i x b lit) ⟨.cellMem, litLen i, [.vdst d.toNat 1 1, .vsrc i.toNat true,
        .cond (decide (112 ≤ i.toNat ∧ i.toNat ≤ 120 ∨ i.toNat = 124)) i.toNat]⟩
      (fun s gi g => g.ctl.act ≠ 0#32 ∧ segOkFor s gi g (at_ g) 4 ∧ s.segPoison g.id.block g.loc.cell (at_ g) 4 = none)
      fun s gi g t => GoesOn g (t.group gi) (litLen i) ∧ SameMem s t ∧ Fetches g (t.group gi) d.toNat 1 g.ctl.act fun _ =>
        [bytesWord (s.segRead g.id.block g.loc.cell (at_ g) 4)]

/-- 15 R414 to R416: the stores of the cell store, in every size and order: each byte that a lane stores to holds the
last such lane's, and no other byte of memory changes. The model's own readings and choices that it rests on: log entry
53. -/
def Obligations.CellStoreStores : Prop :=
  ∀ (ins : Instr) (p : Info) (code order scope : Nat) (d i : BitVec 7) (x : BitVec 1) (b : BitVec 8) (lit : Word),
    ((∃ f, StcForm f code ∧ ins = f d i x b lit ∧ order = 0 ∧ scope = 0 ∧
        p = ⟨.cellMem, storeLen d i, [dataSrc d code true, .vsrc i.toNat true]⟩) ∨
      (∃ sc od sz, ins = .stcOrdered d i x b sc od sz ∧ code = sz.toNat ∧ code ∈ [0, 2, 4, 5] ∧ order = od.toNat ∧
        scope = sc.toNat ∧ lit = 0#32 ∧ p = ⟨.cellMem, 2, [dataSrc d code false, .vsrc i.toNat false]⟩)) →
    let at_ (g : Group) := g.segAddr b.toNat i.toNat lit (scaleBy x (sizeBytes code))
    Does ins p
      (fun s gi g => (order ≠ 0 → ∃ r, s.release gi scope = .ok r) ∧
        ∀ l ∈ g.storeLanes, segOkFor s gi g (at_ g l) (sizeBytes code) ∧
          ∀ rd, boundHits (s.boundsOf g.id.ctx) true ((s.block g.id.block).seg g.loc.cell + at_ g l) (storeBytes code (g.dataWords d.toNat code lit l)) rd = [])
      fun s gi g t => Passes g (t.group gi) p.words ∧ (∀ a, t.mem.get a = s.mem.get a) ∧
        ∀ pt c a, (t.window pt c).mem.get a =
          if pt = (s.block g.id.block).part ∧ c = g.loc.cell then
            lastStore g.storeLanes (fun l => (s.block g.id.block).seg c + at_ g l)
              (fun l => storeBytes code (g.dataWords d.toNat code lit l)) (s.window pt c).mem.get a
          else (s.window pt c).mem.get a

/-- 15 R420, R421: a cell-store atomic: each lane in ascending order takes the old value and leaves the new one; and
14 R395: CBK.DEC takes its codebook index from the cell store. The model's own readings and choices that it rests on:
log entry 53. -/
def Obligations.CellStoreAtomics : Prop :=
  (∀ (o : BitVec 3) (d i : BitVec 7) (x : BitVec 1) (b : BitVec 8) (sc : BitVec 3) (op : BitVec 4) (c : BitVec 7),
    let n := if atomWide op.toNat then 8 else 4
    let p : Info := ⟨.latom, 2, [.vdst d.toNat (n / 4) (n / 4), .vsrc i.toNat false, atomData op.toNat c]⟩
    let at_ (g : Group) := g.segAddr b.toNat i.toNat 0#32 (scaleBy x n)
    Does (.latom o d i x b sc op c) p
      (fun s gi g => (ordReleases o.toNat = true → ∃ r, s.release gi sc.toNat = .ok r) ∧
        g.ctl.act &&& ~~~g.ctl.helper ≠ 0#32 ∧
        ∀ l ∈ g.storeLanes, at_ g l % n = 0 ∧ (s.block g.id.block).segOk (at_ g l) n = true ∧
          s.segPoison g.id.block g.loc.cell (at_ g l) n = none)
      fun s gi g t =>
        let part := (s.block g.id.block).part
        let base := (s.block g.id.block).seg g.loc.cell
        let done := g.storeLanes.foldl (fun (acc : Mem × List (Nat × Nat)) l =>
          let m := acc.1.value (base + at_ g l) n
          let (v, cmp) := g.atomOperands op.toNat c.toNat l
          (acc.1.put (base + at_ g l) (leBytes n (atomNew op.toNat m v cmp)), acc.2 ++ [(l, m)]))
          ((s.window part g.loc.cell).mem, [])
        GoesOn g (t.group gi) 2 ∧ (∀ a, t.mem.get a = s.mem.get a) ∧
        (∀ pt ce a, (t.window pt ce).mem.get a =
          if pt = part ∧ ce = g.loc.cell then done.1.get a else (s.window pt ce).mem.get a) ∧
        Fetches g (t.group gi) d.toNat (n / 4) (g.ctl.act &&& ~~~g.ctl.helper) fun l =>
          let m := ((done.2.find? fun y => y.1 == l).map (·.2)).getD 0
          if n = 8 then [BitVec.ofNat 32 m, BitVec.ofNat 32 (m / 2 ^ 32)] else [BitVec.ofNat 32 m]) ∧
  ∀ (d a b : BitVec 7) (bf : BitVec 1) (q : BitVec 2),
    let off (g : Group) : Nat := (g.sreg (b.toNat - 112)).toNat
    let idx (g : Group) (l : Nat) : Nat := (g.opLane a.toNat 0#32 l).toNat % 65536
    Does (.cbkDec d a b bf q) ⟨.cbk, 2, [.vdst d.toNat 1 1, .vsrc a.toNat false,
        .cond (decide (112 ≤ b.toNat ∧ b.toNat < 120)) b.toNat]⟩
      (fun s gi g => g.ctl.act ≠ 0#32 ∧ off g % 4 = 0 ∧ (s.block g.id.block).segOk (off g) 1024 = true ∧
        ∀ l ∈ g.ctl.act.toList, segOkFor s gi g (off g + 4 * (idx g l / 256)) 4 ∧
          s.segPoison g.id.block g.loc.cell (off g + 4 * (idx g l / 256)) 4 = none)
      fun s gi g t => GoesOn g (t.group gi) 2 ∧ SameMem s t ∧ Fetches g (t.group gi) d.toNat 1 g.ctl.act fun l =>
        let ws := cbDecode (idx g l) (leValue (s.segRead g.id.block g.loc.cell (off g + 4 * (idx g l / 256)) 4))
        let fmt := if bf = 1#1 then bf16 else fp16
        let code (j : Nat) : Nat := (fmt.deliver .rne false (weightVal (ws.getD j (false, 0))).exact).1
        [BitVec.ofNat 32 (code (2 * q.toNat) + 65536 * code (2 * q.toNat + 1))]

/-! ### Global and private memory (15 R417 to R425; 08 R231 to R234; 09 R250 to R256) -/

/-- The translation of a lane's access, and none of its bytes poisoned. -/
def reaches (s : State) (g : Group) (write : Bool) (n va pa kind : Nat) : Prop :=
  s.laneXlate g write n va = .ok (pa, kind) ∧ s.memPoison.hit pa n = none ∧
    (s.window (s.partOf g) g.loc.cell).cachePoison.hit pa n = none

def GldForm (f : BitVec 7 → BitVec 7 → BitVec 1 → BitVec 8 → Word → Instr) (code : Nat) : Prop :=
  (f = .gld ∧ code = 4) ∨ (f = .gld64 ∧ code = 5) ∨ (f = .gld128 ∧ code = 6)
def GstForm (f : BitVec 7 → BitVec 7 → BitVec 1 → BitVec 8 → Word → Instr) (code : Nat) : Prop :=
  (f = .gst ∧ code = 4) ∨ (f = .gst64 ∧ code = 5) ∨ (f = .gst128 ∧ code = 6)

/-- 15 R418, R419; 09 R249 to R251: global loads and stores in every size and order. A load fetches at once where every
byte is valid in the cell cache, where its lines have returned, and within a gate call; otherwise it waits for the lines
that it misses. A plain store is seen through its cell's cache at once and leaves the home copy as it was; one of a wide
scope, or to memory of kind 1, is made at the home copy; one within a rollback interval is seen through the cell's cache,
the lines that it touches having first sent their dirty bytes home (05 R139). The model's own readings and choices that
it rests on: log entries 51 and 53. -/
def Obligations.GlobalMemory : Prop :=
  (∀ (ins : Instr) (p : Info) (code order scope : Nat) (d i : BitVec 7) (x : BitVec 1) (b : BitVec 8) (lit : Word)
    (pa kind : Nat → Nat),
    ((∃ f, GldForm f code ∧ ins = f d i x b lit ∧ order = 0 ∧ scope = 0 ∧
        p = ⟨.global, litLen i, [dataDst d code, .vsrc i.toNat true, .pair b.toNat]⟩) ∨
      (∃ sc od sz, ins = .gldOrdered d i x b sc od sz ∧ code = sz.toNat ∧ code < 7 ∧ order = od.toNat ∧
        scope = sc.toNat ∧ lit = 0#32 ∧ p = ⟨.global, 2, [dataDst d code, .vsrc i.toNat false, .pair b.toNat]⟩)) →
    let va (g : Group) := g.virtAddr b.toNat i.toNat lit (scaleBy x (sizeBytes code))
    let wide (s : State) (g : Group) : Prop := order ≠ 0 ∧ s.isWide g scope = true
    let hits (s : State) (g : Group) : Prop := ∀ l ∈ g.ctl.act.toList, ¬wide s g ∧ kind l ≠ 1 ∧
      (s.window (s.partOf g) g.loc.cell).holds (pa l) (sizeBytes code) = true
    let may (s : State) (gi : Nat) (g : Group) : Prop := g.ctl.act ≠ 0#32 ∧ (order = 2 → ∃ r, s.release gi scope = .ok r) ∧
      ∀ l ∈ g.ctl.act.toList, reaches s g false (sizeBytes code) (va g l) (pa l) (kind l)
    Does ins p
      (fun s gi g => may s gi g ∧ (g.ctl.wakeHit = true ∨ hits s g ∨ (g.inGate = true ∧ s.hasWays g (g.ctl.act.toList.map pa))))
      (fun s gi g t => GoesOn g (t.group gi) p.words ∧ SameMem s t ∧
        ∃ val, Fetches g (t.group gi) d.toNat (sizeRegs code) g.ctl.act val ∧ ∀ l ∈ g.ctl.act.toList,
          (¬wide s g → kind l ≠ 1 → val l = loadWords code ((List.range (sizeBytes code)).map fun k => s.seen g (pa l + k))) ∧
          (wide s g ∨ kind l = 1 → val l = loadWords code ((List.range (sizeBytes code)).map fun k => s.acquired g (pa l + k)))) ∧
    Does ins p
      (fun s gi g => may s gi g ∧ g.ctl.wakeHit = false ∧ g.inGate = false ∧ ¬hits s g)
      fun s gi g t => SameMem s t ∧ ∃ ls, Waits g (t.group gi) (.fill ls) ∧ ∀ l ∈ g.ctl.act.toList, ¬wide s g → kind l ≠ 1 →
        (s.window (s.partOf g) g.loc.cell).holds (pa l) (sizeBytes code) = false → pa l / 128 ∈ ls) ∧
  ∀ (ins : Instr) (p : Info) (code order scope : Nat) (d i : BitVec 7) (x : BitVec 1) (b : BitVec 8) (lit : Word)
    (pa : Nat → Nat) (kind : Nat),
    ((∃ f, GstForm f code ∧ ins = f d i x b lit ∧ order = 0 ∧ scope = 0 ∧
        p = ⟨.global, storeLen d i, [dataSrc d code true, .vsrc i.toNat true, .pair b.toNat]⟩) ∨
      (∃ sc od sz, ins = .gstOrdered d i x b sc od sz ∧ code = sz.toNat ∧ code ∈ [0, 2, 4, 5, 6] ∧ order = od.toNat ∧
        scope = sc.toNat ∧ lit = 0#32 ∧ p = ⟨.global, 2, [dataSrc d code false, .vsrc i.toNat false, .pair b.toNat]⟩)) →
    let va (g : Group) := g.virtAddr b.toNat i.toNat lit (scaleBy x (sizeBytes code))
    let data (g : Group) (l : Nat) := storeBytes code (g.dataWords d.toNat code lit l)
    let home (s : State) (g : Group) : Prop := kind = 1 ∨ (order ≠ 0 ∧ s.isWide g scope = true)
    let may (s : State) (gi : Nat) (g : Group) : Prop := (order ≠ 0 → ∃ r, s.release gi scope = .ok r) ∧
      (∀ y ∈ (s.window (s.partOf g) g.loc.cell).lines, y.uncommitted = 0#128) ∧ s.hasWays g (g.storeLanes.map pa) ∧
      ∀ l ∈ g.storeLanes, s.laneXlate g true (sizeBytes code) (va g l) = .ok (pa l, kind) ∧
        ∀ rd, boundHits (s.boundsOf g.id.ctx) false (va g l) (data g l) rd = []
    Does ins p
      (fun s gi g => may s gi g ∧ ((s.block g.id.block).fdom = .rollback → (s.block g.id.block).early = true))
      (fun s gi g t => Passes g (t.group gi) p.words ∧ (∀ q c a, (t.window q c).mem.get a = (s.window q c).mem.get a) ∧
        (home s g → ∀ a, t.mem.get a = lastStore g.storeLanes pa (data g) s.mem.get a) ∧
        (¬home s g → (∀ a, t.mem.get a = s.mem.get a) ∧
          ∀ a, t.seen g a = lastStore g.storeLanes pa (data g) (s.seen g) a)) ∧
    Does ins p
      (fun s gi g => may s gi g ∧ order = 0 ∧ (s.block g.id.block).fdom = .rollback ∧ (s.block g.id.block).early = false ∧
        4 ≤ (s.block g.id.block).ucap)
      fun s gi g t => Passes g (t.group gi) p.words ∧ (∀ q c a, (t.window q c).mem.get a = (s.window q c).mem.get a) ∧
        (∀ a, ((∃ l ∈ g.storeLanes, pa l / 128 = a / 128) → t.mem.get a = s.acquired g a) ∧
          ((∀ l ∈ g.storeLanes, pa l / 128 ≠ a / 128) → t.mem.get a = s.mem.get a)) ∧
        ∀ a, t.seen g a = lastStore g.storeLanes pa (data g) (s.seen g) a

/-- 15 R417, 08 R233, R234: private words, in the block's private space at the thread's word. The model's own readings
and choices that it rests on: log entries 51 and 53. -/
def Obligations.PrivateWords : Prop :=
  ∀ (d i : BitVec 7) (b : BitVec 8) (lit : Word) (pa kind : Nat → Nat),
    let idx (g : Group) (l : Nat) : Nat := (g.sreg b.toNat).toNat + (g.opLane i.toNat lit l).toNat
    let va (g : Group) (l : Nat) : Nat :=
      g.sr.privbase + g.id.tidx.getD l 0 / 32 * (g.sr.privsize + 36) * 128 + (idx g l * 32 + g.id.tidx.getD l 0 % 32) * 4
    Does (.ldp d i b lit) ⟨.private_, litLen i, [.vdst d.toNat 1 1, .vsrc i.toNat true]⟩
      (fun s _ g => g.ctl.act ≠ 0#32 ∧ g.inGate = false ∧ s.hasWays g (g.ctl.act.toList.map pa) ∧
        (∀ y ∈ (s.window (s.partOf g) g.loc.cell).lines, y.uncommitted = 0#128) ∧
        ∀ l ∈ g.ctl.act.toList, idx g l < g.sr.privsize ∧ reaches s g false 4 (va g l) (pa l) (kind l))
      (fun s gi g t => GoesOn g (t.group gi) (litLen i) ∧ SameMem s t ∧ Fetches g (t.group gi) d.toNat 1 g.ctl.act fun l =>
        [bytesWord ((List.range 4).map fun k => if kind l = 1 then s.acquired g (pa l + k) else s.seen g (pa l + k))]) ∧
    Does (.stp d i b lit) ⟨.private_, storeLen d i, [.vsrc d.toNat true, .vsrc i.toNat true]⟩
      (fun s _ g => g.inGate = false ∧ (s.block g.id.block).fdom ≠ .rollback ∧
        (∀ y ∈ (s.window (s.partOf g) g.loc.cell).lines, y.uncommitted = 0#128) ∧ s.hasWays g (g.storeLanes.map pa) ∧
        ∀ l ∈ g.storeLanes, idx g l < g.sr.privsize ∧ kind l ≠ 1 ∧ reaches s g true 4 (va g l) (pa l) (kind l))
      fun s gi g t => Passes g (t.group gi) (storeLen d i) ∧ SameMem s t ∧
        ∀ a, t.seen g a = lastStore g.storeLanes pa (fun l => wordBytes (g.opLane d.toNat lit l)) (s.seen g) a

/-- 15 R420, R422 to R425, 09 R256: an atomic of the lanes that perform it queues one request a lane at the cell that
serves its address, the dirty bytes of its line having gone home and its copy having been dropped; an ATOM's return slot
then has those lanes' replies outstanding. RSLOT.LD fetches a slot's entries where none is outstanding, with the acquire
of an acquiring ATOM behind it; with replies outstanding and no acquire its result is pending and not ready; RSLOT.TEST
gives the lanes that have no reply outstanding. The model's own readings and choices that it rests on: log entries 51
and 78. -/
def Obligations.GlobalAtomics : Prop :=
  (∀ (ins : Instr) (slot : Option Nat) (order : Nat) (z i : BitVec 7) (x : BitVec 1) (b : BitVec 8) (sc : BitVec 3)
    (op : BitVec 4) (c : BitVec 7) (pa kind : Nat → Nat),
    (∃ o sl, ins = .atom o sl i x b sc op c ∧ slot = some sl.toNat ∧ order = o.toNat ∧ z = 0#7) ∨
      (ins = .ared z i x b sc op c ∧ slot = none ∧ order = 0) ∨ (ins = .aredRel z i x b sc op c ∧ slot = none ∧ order = 2) →
    let n := if atomWide op.toNat then 8 else 4
    let va (g : Group) := g.virtAddr b.toNat i.toNat 0#32 (scaleBy x n)
    Does ins ⟨.atom, 2, [.cond (slot.isSome || z == 0#7) z.toNat, .vsrc i.toNat false, .pair b.toNat, atomData op.toNat c]⟩
      (fun s gi g => (∀ j, slot = some j → g.asy.rsOut.getD j 0#32 = 0#32) ∧
        (ordReleases order = true → ∃ r, (s.commitEarly g.id.block).release gi sc.toNat = .ok r) ∧
        (∀ y ∈ (s.window (s.partOf g) g.loc.cell).lines, y.uncommitted = 0#128) ∧
        (∃ cell, s.serves cell = true ∧ cell < 32) ∧ s.atoms.length + 32 < 1024 ∧
        ∀ l ∈ g.storeLanes, s.laneXlate g true n (va g l) = .ok (pa l, kind l))
      fun s gi g t => GoesOn g (t.group gi) 2 ∧ (t.group gi).regs = g.regs ∧
        (∃ srv : Nat → Nat, (∀ l ∈ g.storeLanes, s.server (atomHash (pa l)) = some (srv l)) ∧
          t.atoms = s.atoms ++ g.storeLanes.map fun l =>
            ⟨gi, l, slot, op.toNat, n == 8, pa l, (g.atomOperands op.toNat c.toNat l).1,
              (g.atomOperands op.toNat c.toNat l).2, srv l, none, false⟩) ∧
        (∀ q ce a, (t.window q ce).mem.get a = (s.window q ce).mem.get a) ∧
        (∀ a, ((∃ l ∈ g.storeLanes, pa l / 128 = a / 128) → t.mem.get a = s.acquired g a) ∧
          ((∀ l ∈ g.storeLanes, pa l / 128 ≠ a / 128) → t.mem.get a = s.mem.get a)) ∧
        (∀ l ∈ g.storeLanes, (t.window (s.partOf g) g.loc.cell).line? (pa l / 128) = none) ∧
        ∀ j, slot = some j → (t.group gi).asy.rsOut.getD j 0#32 = g.ctl.act &&& ~~~g.ctl.helper ∧
          (t.group gi).asy.rsAcq.getD j none = if ordAcquires order = true then some sc.toNat else none) ∧
  (∀ (ins : Instr) (d : BitVec 7) (sl : BitVec 3) (n : Nat), (ins = .rslotLd d sl ∧ n = 1) ∨ (ins = .rslotLd64 d sl ∧ n = 2) →
    Does ins ⟨.rslot, 1, [.vdst d.toNat n n]⟩
      (fun s _ g => g.ctl.act ≠ 0#32 ∧ g.asy.rsOut.getD sl.toNat 0#32 = 0#32 ∧
        (s.window (s.partOf g) g.loc.cell).poison = [])
      (fun s gi g t => GoesOn g (t.group gi) 1 ∧ SameMem s t ∧ Fetches g (t.group gi) d.toNat n g.ctl.act fun l =>
        (List.range n).map fun j => bytesWord (s.winRead (s.partOf g) g.loc.cell (s.rslotAddr g sl.toNat l + 4 * j) 4)) ∧
    Does ins ⟨.rslot, 1, [.vdst d.toNat n n]⟩
      (fun _ _ g => g.asy.rsOut.getD sl.toNat 0#32 ≠ 0#32 ∧ g.asy.rsAcq.getD sl.toNat none = none)
      fun s gi g t => GoesOn g (t.group gi) 1 ∧ SameMem s t ∧ (∀ r, (t.group gi).vreg r = g.vreg r) ∧
        ∃ p, (t.group gi).regs.pend = g.regs.pend ++ [p] ∧ p.regs = (List.range n).map (d.toNat + ·) ∧ p.lanes = g.ctl.act ∧
          p.ready = false ∧ p.kind = .rslot sl.toNat (n == 2)) ∧
  ∀ k sl, WritesK (.rslotTest k sl) ⟨.rslot, 1, [.kdst k.toNat]⟩ k.toNat fun g => ~~~(g.asy.rsOut.getD sl.toNat 0#32)

/-! ### Hods, the cell-cache family, rings and messages (15 R426 to R440) -/

/-- The requests that a quadrant's hod engine holds, and its rings. -/
def hodQueue (s : State) (cell quad : Nat) : List HodReq := ((s.cells[cell]?).bind fun c => c.quads[quad]?).elim [] (·.hod)
def hodForm (fn : Nat) (f : BitVec 8 → BitVec 8 → Instr) : Prop :=
  (fn = 0 ∧ f = .hodCopy) ∨ (fn = 1 ∧ f = .hodGather) ∨ (fn = 2 ∧ f = .hodScatter) ∨ (fn = 3 ∧ f = .hodFill) ∨
    (fn = 4 ∧ f = .hodSend) ∨ (fn = 5 ∧ f = .hodReduce) ∨ (fn = 6 ∧ f = .hodPrefetch)

/-- 15 R426, R430, R432: a hod instruction whose descriptor passes its checks queues a request, counts an outstanding
operation and sets the group's promise, which never falls. The model's own readings and choices that it rests on: log
entries 14 and 78. -/
def Obligations.HodRequests : Prop :=
  ∀ (fn : Nat) (f : BitVec 8 → BitVec 8 → Instr) (d b : BitVec 8), hodForm fn f →
    let aux (g : Group) : Nat := (g.sreg (d.toNat + 1)).toNat
    let obj (g : Group) : Option Nat := if b = 0xFF#8 then none else some (g.sreg b.toNat).toNat
    let raw (s : State) (g : Group) : List Byte := s.segRead g.id.block g.loc.cell (g.sreg d.toNat).toNat 64
    let desc (s : State) (g : Group) : HodDesc := HodDesc.parse (raw s g)
    let bytes (s : State) (g : Group) : Nat := (desc s g).moved fn (aux g)
    Does (f d b) ⟨.hod, 1, [.pair d.toNat]⟩
      (fun s _ g => s.hodFault g fn (g.sreg d.toNat).toNat (aux g) (obj g) = none ∧ g.asy.cnt.length = 4 ∧
        g.asy.cnt.getD 0 0 < 63 ∧ (hodQueue s g.loc.cell g.loc.quad).length < 32 ∧
        (∃ c, s.cells[g.loc.cell]? = some c ∧ g.loc.quad < c.quads.length) ∧
        ∀ o, obj g = some o → (s.bobj g.id.block (if fn = 4 then (s.block g.id.block).cells.getD (desc s g).rank g.loc.cell
          else g.loc.cell) o).flight < 65535)
      fun s i g t => GoesOn g (t.group i) 1 ∧ (t.group i).regs = g.regs ∧ (∀ a, t.mem.get a = s.mem.get a) ∧
        (t.group i).asy.cnt.getD 0 0 = g.asy.cnt.getD 0 0 + 1 ∧
        hodQueue t g.loc.cell g.loc.quad =
          hodQueue s g.loc.cell g.loc.quad ++ [⟨i, g.asy.nextOp, fn, raw s g, aux g, obj g, bytes s g⟩] ∧
        ((t.group i).asy.ops.getLast?).map (fun o => (o.cls, o.done, o.promise, o.bobj)) =
          some (0, false, (t.group i).sr.promise, obj g) ∧
        (t.group i).sr.promise = max g.sr.promise (s.cyc g.loc.cell +
          (if fn = 4 ∧ (desc s g).srcSeg = true then 192
            else if ((desc s g).srcSeg = true ∨ fn = 3) ∧ (desc s g).dstSeg = true ∧ fn ≠ 6 ∧ fn ≠ 4 then 64 else 512) +
          ((hodQueue s g.loc.cell g.loc.quad).map fun r => (r.bytes + 63) / 64).sum + (bytes s g + 63) / 64)

/-- The range that a cell-cache form names: its virtual address and length, of which a length is legal. -/
def ccNames (g : Group) (a l : BitVec 8) (va n : Nat) : Prop :=
  va = (if l = 0xFF#8 then (g.spair a.toNat).toNat / 128 * 128 else (g.spair a.toNat).toNat) ∧
    n = (if l = 0xFF#8 then 128 else (g.sreg l.toNat).toNat) ∧ 0 < n ∧ n ≤ 0x100000

/-- The pieces of a range, page by page, that lie in memory of kind 0: physical address and length. -/
def ccPieces (s : State) (g : Group) (va n : Nat) : List (Nat × Nat) :=
  (pagesOf va n).filterMap fun p => match s.xlateG g false p.1 with
    | .ok e => if e.mem = 1 then none else some (e.phys p.1, p.2)
    | .error _ => none

/-- A line that a piece touches, and one that a piece covers whole. -/
def ccTouched (ps : List (Nat × Nat)) (ln : Nat) : Prop := ∃ p ∈ ps, ln ∈ linesOf p.1 p.2
def ccWhole (ps : List (Nat × Nat)) (ln : Nat) : Prop := ∃ p ∈ ps, p.1 ≤ ln * 128 ∧ ln * 128 + 128 ≤ p.1 + p.2

/-- 15 R434, with no uncommitted byte in the cell cache: CC.PREFETCH makes the lines of its range valid, and passes over
pages whose translation fails; CC.WB sends the dirty bytes of its range's lines home; CC.DISCARD drops the lines that its
range covers whole and sends the dirty bytes of the others home. Outside the lines dropped, every byte that is seen
through the cell's cache stays. The model's own readings and choices that it rests on: log entry 53. -/
def Obligations.CellCacheForms : Prop :=
  ∀ (a l : BitVec 8) (va n : Nat),
    let w (s : State) (g : Group) : Window := s.window (s.partOf g) g.loc.cell
    let dirty (s : State) (g : Group) (ad : Nat) : Prop := ∃ y, (w s g).line? (ad / 128) = some y ∧ y.dirty.getLsbD (ad % 128) = true
    let clean (s : State) (g : Group) : Prop := ∀ y ∈ (w s g).lines, y.uncommitted = 0#128
    let lines (s : State) (g : Group) : List Nat := (ccPieces s g va n).flatMap fun p => linesOf p.1 p.2
    Does (.ccPrefetch a l) ⟨.cc, 1, [.pair a.toNat]⟩
      (fun s _ g => ccNames g a l va n ∧ clean s g ∧ s.hasWays g ((lines s g).map (128 * ·)))
      (fun s i g t => Passes g (t.group i) 1 ∧ SameMem s t ∧ (∀ ad, t.seen g ad = s.seen g ad) ∧
        ∀ ln, ccTouched (ccPieces s g va n) ln → (w t g).holds (128 * ln) 128 = true) ∧
    ∀ f : BitVec 8 → BitVec 8 → Instr, f = .ccWb ∨ f = .ccDiscard →
      Does (f a l) ⟨.cc, 1, [.pair a.toNat]⟩
        (fun s _ g => ccNames g a l va n ∧ clean s g ∧ ∀ p ∈ pagesOf va n, ∃ e, s.xlateG g false p.1 = .ok e)
        fun s i g t =>
          let touched := ccTouched (ccPieces s g va n)
          let dropped (ln : Nat) : Prop := f = .ccDiscard ∧ ccWhole (ccPieces s g va n) ln
          Passes g (t.group i) 1 ∧ (∀ q c ad, (t.window q c).mem.get ad = (s.window q c).mem.get ad) ∧
          (∀ ln, touched ln → dropped ln → (w t g).line? ln = none) ∧
          ∀ ad, (touched (ad / 128) → dirty s g ad → ¬dropped (ad / 128) → t.mem.get ad = (w s g).cache.get ad) ∧
            (¬(touched (ad / 128) ∧ dirty s g ad) → t.mem.get ad = s.mem.get ad) ∧
            (¬dropped (ad / 128) → t.seen g ad = s.seen g ad)

/-- The ring that a group's ring index names, of which its block has a declaration, in its quadrant. -/
def ringThere (s : State) (g : Group) (r : Nat) : Prop :=
  (s.ringDecl g r).en = true ∧ ∃ c q, s.cells[g.loc.cell]? = some c ∧ c.quads[g.loc.quad]? = some q ∧
    (s.ringAt g r).1 < q.rings.length

/-- 15 R435, R437: ring instructions of the declared segments take the next slot in the state they need, and give a
slot they hold. -/
def Obligations.StageRings : Prop :=
  (∀ (ins : BitVec 8 → BitVec 4 → Instr) (producer : Bool) (want next : Nat),
    (ins = .ringAcq ∧ producer = true ∧ want = 0 ∧ next = 1) ∨ (ins = .ringWait ∧ producer = false ∧ want = 2 ∧ next = 3) →
    ∀ d r,
      let ring (s : State) (g : Group) : Ring := (s.ringAt g r.toNat).2
      let at_ (s : State) (g : Group) : Nat := if producer then (ring s g).head else (ring s g).tail
      let mine (s : State) (g : Group) : Prop := ringThere s g r.toNat ∧
        g.id.seg = (if producer then (s.ringDecl g r.toNat).prod else (s.ringDecl g r.toNat).cons) ∧
        (∀ j, r.toNat < j → j < 16 → g.asy.ringHeld.getD j 0 = 0) ∧ g.asy.ringHeld.length = 16
      Does (ins d r) ⟨.ring, 1, []⟩
        (fun s _ g => mine s g ∧ (ring s g).state.getD (at_ s g) 0 = want ∧ at_ s g < (ring s g).state.length)
        (fun s i g t => GoesOn g (t.group i) 1 ∧ SameMem s t ∧ KeepsRegs g (t.group i) [] [d.toNat] [] ∧
          (t.group i).sreg d.toNat = BitVec.ofNat 32 (at_ s g) ∧
          (t.group i).asy.ringHeld.getD r.toNat 0 = g.asy.ringHeld.getD r.toNat 0 + 1 ∧
          ring t g = { ring s g with
            state := (ring s g).state.set (at_ s g) next
            head := if producer then ((ring s g).head + 1) % (s.ringDecl g r.toNat).depth else (ring s g).head
            tail := if producer then (ring s g).tail else ((ring s g).tail + 1) % (s.ringDecl g r.toNat).depth }) ∧
      Does (ins d r) ⟨.ring, 1, []⟩ (fun s _ g => mine s g ∧ (ring s g).state.getD (at_ s g) 0 ≠ want)
        fun s i g t => Waits g (t.group i) (.ring r.toNat) ∧ SameMem s t) ∧
  ∀ (ins : BitVec 8 → BitVec 4 → Instr) (producer : Bool) (want next : Nat),
    (ins = .ringCommit ∧ producer = true ∧ want = 1 ∧ next = 2) ∨ (ins = .ringFree ∧ producer = false ∧ want = 3 ∧ next = 0) →
    ∀ a r,
      let ring (s : State) (g : Group) : Ring := (s.ringAt g r.toNat).2
      let slot (g : Group) : Nat := (g.sreg a.toNat).toNat
      Does (ins a r) ⟨.ring, 1, []⟩
        (fun s _ g => ringThere s g r.toNat ∧
          g.id.seg = (if producer then (s.ringDecl g r.toNat).prod else (s.ringDecl g r.toNat).cons) ∧
          slot g < (s.ringDecl g r.toNat).depth ∧ g.asy.ringHeld.getD r.toNat 0 ≠ 0 ∧ (ring s g).state.getD (slot g) 0 = want)
        fun s i g t => Passes g (t.group i) 1 ∧ SameMem s t ∧
          (t.group i).asy.ringHeld.getD r.toNat 0 = g.asy.ringHeld.getD r.toNat 0 - 1 ∧
          ring t g = { ring s g with
            state := (ring s g).state.set (slot g) next
            phase := if producer then (ring s g).phase ^^^ (1#8 <<< slot g) else (ring s g).phase }

/-- 15 R438, R439: messages. SEND puts the payload on its way; RECV and POLL take the oldest message of their channel
into the segment, its tag and sender into their pair; with none RECV waits, and POLL gives the sender of no message;
FREE drops the oldest. The model's own readings and choices that it rests on: log entries 44 and 78. -/
def Obligations.Messages : Prop :=
  (∀ r b,
    let route (g : Group) : Nat := (g.sreg r.toNat).toNat
    let dest (g : Group) : Nat := route g % 32
    let off (g : Group) : Nat := (g.sreg b.toNat).toNat
    Does (.msgSend r b) ⟨.msg, 1, [.pair r.toNat]⟩
      (fun s i g => route g < 2 ^ 12 ∧ route g / 32 % 8 = 0 ∧ s.heldQuads (s.partOf g) (dest g) ≠ [] ∧ off g % 64 = 0 ∧
        (s.block g.id.block).segOk (off g) 64 = true ∧ g.asy.cnt.length = 4 ∧ g.asy.cnt.getD 3 0 < 63 ∧
        ∃ x, s.release i (if g.loc.cell / 8 = dest g / 8 then 3 else 4) = .ok x)
      fun s i g t => GoesOn g (t.group i) 1 ∧ (t.group i).regs = g.regs ∧ SameMem s t ∧
        (t.group i).asy.cnt.getD 3 0 = g.asy.cnt.getD 3 0 + 1 ∧
        ∃ m, t.msgs = s.msgs ++ [⟨i, g.asy.nextOp, dest g, m, false⟩] ∧ m.ctx = g.id.ctx ∧ m.chan = route g / 256 % 16 ∧
          m.tag = g.sreg (r.toNat + 1) ∧ m.sender = BitVec.ofNat 32 (g.loc.gid * 2 ^ 16 + g.loc.cell) ∧
          m.payload = s.segRead g.id.block g.loc.cell (off g) 64) ∧
  (∀ (ins : Instr) (r b : BitVec 8) (c : BitVec 4) (k : Nat) (m : Msg), ins = .msgRecv r b c ∨ ins = .msgPoll r b c →
    let off (g : Group) : Nat := (g.sreg b.toNat).toNat
    Does ins ⟨.msg, 1, [.pair r.toNat]⟩
      (fun s i g => off g % 64 = 0 ∧ segOkFor s i g (off g) 64 ∧
        (∀ rd, boundHits (s.boundsOf g.id.ctx) true ((s.block g.id.block).seg g.loc.cell + off g) m.payload rd = []) ∧
        (s.block g.id.block).part = s.partOf g ∧ m.payload.length = 64 ∧
        (s.window (s.partOf g) g.loc.cell).msgFor g.id.ctx c.toNat = some (k, m))
      fun s i g t => GoesOn g (t.group i) 1 ∧ KeepsRegs g (t.group i) [] [r.toNat, r.toNat + 1] [] ∧
        (t.group i).sreg r.toNat = m.tag ∧ (t.group i).sreg (r.toNat + 1) = m.sender ∧
        StoresSeg s t g.id.block g.loc.cell (off g) 64 ∧ t.segRead g.id.block g.loc.cell (off g) 64 = m.payload ∧
        (t.window (s.partOf g) g.loc.cell).msgs = (s.window (s.partOf g) g.loc.cell).msgs.eraseIdx k) ∧
  (∀ r b c, Does (.msgRecv r b c) ⟨.msg, 1, [.pair r.toNat]⟩
      (fun s _ g => (g.sreg b.toNat).toNat % 64 = 0 ∧ (s.block g.id.block).segOk (g.sreg b.toNat).toNat 64 = true ∧
        g.inGate = false ∧ (s.window (s.partOf g) g.loc.cell).msgFor g.id.ctx c.toNat = none)
      fun s i g t => Waits g (t.group i) (.msg c.toNat) ∧ SameMem s t) ∧
  (∀ r b c, Does (.msgPoll r b c) ⟨.msg, 1, [.pair r.toNat]⟩
      (fun s _ g => (g.sreg b.toNat).toNat % 64 = 0 ∧ (s.block g.id.block).segOk (g.sreg b.toNat).toNat 64 = true ∧
        (s.window (s.partOf g) g.loc.cell).msgFor g.id.ctx c.toNat = none)
      fun s i g t => GoesOn g (t.group i) 1 ∧ SameMem s t ∧ KeepsRegs g (t.group i) [] [r.toNat, r.toNat + 1] [] ∧
        (t.group i).sreg (r.toNat + 1) = 0xFFFFFFFF#32) ∧
  ∀ r c, Does (.msgFree r c) ⟨.msg, 1, [.pair r.toNat]⟩ (fun _ _ _ => True)
      fun s i g t => GoesOn g (t.group i) 1 ∧ SameMem s t ∧ KeepsRegs g (t.group i) [] [r.toNat, r.toNat + 1] [] ∧
        (t.group i).sreg (r.toNat + 1) = 0#32 ∧ (t.group i).sreg r.toNat =
          (if ((s.window (s.partOf g) g.loc.cell).msgFor g.id.ctx c.toNat).isSome = true then 1#32 else 0#32) ∧
        ∀ k m, (s.window (s.partOf g) g.loc.cell).msgFor g.id.ctx c.toNat = some (k, m) →
          (t.window (s.partOf g) g.loc.cell).msgs = (s.window (s.partOf g) g.loc.cell).msgs.eraseIdx k

/-! ### Launches, gates and privileged instructions (13 R342 to R348, R362 to R368) -/

/-- 13 R362, R363: LAUNCH takes a region as its block's child, and REGION.JOIN counts those not complete. The model's
own readings and choices that it rests on: log entry 25. -/
def Obligations.LaunchAndJoin : Prop :=
  (∀ (a b : BitVec 8) (s : State) (i : Nat) (g : Group) (r : State), Ready s i g ⟨.launch, 1, [.pair a.toNat]⟩ →
    s.release i 4 = .ok r → (s.block g.id.block).fdom ≠ .rollback → s.hub.save = none →
    let took := r.take g.id.ctx 0 (g.spair a.toNat).toNat (some (s.block g.id.block).region) (some g.id.block)
    ∃ t, exec (.launch a b) s = .next t ∧ GoesOn g (t.group i) 1 ∧
      KeepsRegs g (t.group i) [] (if b = 0xFF#8 then [] else [b.toNat]) [] ∧
      (b ≠ 0xFF#8 → (t.group i).sreg b.toNat = BitVec.ofNat 32 took.2) ∧
      (took.2 = 0 → ∃ x, t.regions = s.regions ++ [x] ∧ x.byBlock = some g.id.block ∧ x.ctx = g.id.ctx ∧
        x.parent = some (s.block g.id.block).region ∧ x.rcb = g.spair a.toNat)) ∧
  ∀ b, Does (.regionJoin b) ⟨.launch, 1, []⟩ (fun _ _ _ => True)
    fun s i g t => GoesOn g (t.group i) 1 ∧ SameMem s t ∧ KeepsRegs g (t.group i) [] [b.toNat] [] ∧
      (t.group i).sreg b.toNat = BitVec.ofNat 32
        (min ((s.regions.filter fun r => r.byBlock == some g.id.block && !r.complete).length) 0xFFFFFFFF)

/-- 13 R344, R345, R348: a GATE that passes its checks, with nothing of the group outstanding, enters the callee that its
table entry names, at the entry's pc, context and privilege, with only the registers passed and the active lanes' values
in them, the FP state and generators as at reset. A GRET whose depth and active lanes stand, with nothing of the callee
outstanding, returns to the clause after the GATE, in the caller's context and privilege, with every register as the
frame holds it but the passed ones, which keep the callee's values in the lanes that were active. The model's own
readings and choices that it rests on: log entry 24. -/
def Obligations.GateCalls : Prop :=
  (∀ (n : BitVec 8) (p : GatePass),
    Does (.gate n) ⟨.gate, 1, []⟩
      (fun s _ g => s.gateCheck g n.toNat = some p ∧ g.quiet = true ∧ g.ctl.act ≠ 0#32 ∧
        (∀ r, (g.vreg r).tag = 0 ∧ (g.vreg r).poison = none) ∧ (g.calleeRegs p.entry).usage ≤ g.entryBudget ∧
        ∀ y ∈ (s.window (s.partOf g) g.loc.cell).lines, y.uncommitted = 0#128)
      fun _ i g t => ∃ h, t.group i = h ∧ h.id.ctx = p.entry.ctx ∧ h.id.sys = bit p.entry.flags 1 ∧
        h.ctl.pc = BitVec.ofNat 64 p.entry.pc ∧ h.ctl.act = g.ctl.act ∧ h.ctl.live = g.ctl.live ∧ h.ctl.stack = g.ctl.stack ∧
        (∃ lv : GateLevel, h.asy.gates = lv :: g.asy.gates ∧ lv.callerCtx = g.id.ctx ∧ lv.callerSys = g.id.sys ∧
          lv.idx = n.toNat ∧ lv.active = g.ctl.act ∧ lv.depth = g.ctl.stack.length ∧ lv.retPc = g.nextClause) ∧
        (∀ r, r < 256 → h.sreg r = if r < p.entry.ns then g.sreg r else 0#32) ∧
        (∀ k, 0 < k → h.kreg k = 0#32) ∧ h.sr.fpctl = 0#32 ∧ h.sr.fpstat = 0#32 ∧ h.sr.seed = 0#32 ∧
        (∀ l, l < 32 → h.id.gen.getD l 0#32 = seedState 0#32 (g.id.tidx.getD l 0)) ∧
        (∀ r l, r < 112 → l < 32 → g.ctl.live.has l = true → (h.vreg r).val.lane l =
          if r < p.entry.nv ∧ g.ctl.act.has l = true then (g.vreg r).val.lane l else 0#32)) ∧
  ∀ (l : GateLevel) (rest : List GateLevel) (b : List Byte),
    Does .gret ⟨.gate, 1, []⟩
      (fun s i g =>
        let out : Group := { g with
          id := { g.id with ctx := l.callerCtx, sys := l.callerSys }
          asy := { g.asy with gates := rest, deferred := l.deferred }
          trap := { g.trap with callee := none } }
        g.asy.gates = l :: rest ∧ g.quiet = true ∧ g.ctl.stack.length = l.depth ∧ g.ctl.act = l.active ∧
        g.ctl.act &&& g.ctl.live ≠ 0#32 ∧ (∀ r, (g.vreg r).tag = 0) ∧
        (s.setGroup i out).readFrame out l.frame = some b ∧ (out.callerRegs l b false).usage ≤ g.entryBudget)
      fun s i g t =>
        let word (o : Nat) : Word := BitVec.ofNat 32 (fieldAt b o 4)
        ∃ h, t = s.setGroup i h ∧ h.id.ctx = l.callerCtx ∧ h.id.sys = l.callerSys ∧ h.ctl.pc = l.retPc ∧
        h.ctl.act = g.ctl.act &&& g.ctl.live ∧ h.ctl.live = g.ctl.live ∧ h.ctl.stack = g.ctl.stack ∧ h.asy.gates = rest ∧
        h.sr.gatestat = BitVec.ofNat 32 (l.idx * 2 ^ 16) ∧
        (∀ r, r < 256 → h.sreg r = if r < l.ns then g.sreg r else word (0x3800 + 4 * r)) ∧
        (∀ k, 0 < k → k < 8 → h.kreg k = word (0x3C00 + 4 * (k - 1))) ∧
        h.sr.fpctl = word 0x3C90 ∧ h.sr.fpstat = word 0x3C94 ∧ h.sr.seed = word 0x3C98 ∧
        (∀ j, j < 32 → h.id.gen.getD j 0#32 = word (0x3D00 + 4 * j)) ∧
        ∀ r j, r < 8 * g.id.vregs → j < 32 → g.ctl.live.has j = true → (h.vreg r).val.lane j =
          if r < l.nv ∧ g.ctl.act.has j = true then (g.vreg r).val.lane j
          else (unpackReg g.ctl.live (fieldAt b (0x3C20 + r) 1) ((b.drop (128 * r)).take 128)).lane j

/-- 13 R364 to R368, 03 R97: the privileged instructions in a group of SYSTEM privilege; in one of USER privilege each
raises PRIVILEGE. The model's own readings and choices that it rests on: log entries 51 and 66. -/
def Obligations.PrivilegedInstructions : Prop :=
  (∀ (ins : Instr) (s : State) (i : Nat) (g : Group), (∃ a l, ins = .tlbInv a l) ∨ (∃ a n, ins = .ixuLoad a n) ∨
      ins = .ccFlush ∨ ins = .ccInval ∨ (∃ a, ins = .bndSet a) →
    s.issuer = some (i, g) → g.id.sys = false → exec ins s = .next (s.stopsAt i g 1 (.here 0x04 0))) ∧
  (∀ (a : BitVec 8) (l : BitVec 1),
    let hits (s : State) (g : Group) (e : TlbEntry) : Prop := e.func = s.ctxFunc g.id.ctx ∧ e.asid = (s.ctx g.id.ctx).asid ∧
      (l = 1#1 ∨ (e.va ≤ (g.spair a.toNat).toNat ∧ (g.spair a.toNat).toNat < e.va + e.size))
    let sharers (s : State) (g : Group) : List Nat := (List.range 64).filter fun c =>
      (s.ctx c).func == (s.ctx g.id.ctx).func && (s.ctx c).asid == (s.ctx g.id.ctx).asid
    Does (.tlbInv a l) ⟨.priv, 1, if l == 1#1 then [] else [.pair a.toNat]⟩
      (fun s i g => (∃ x, s.release i 4 = .ok x ∧ x.inFlight (sharers s g) = false) ∧
        (l = 1#1 ∨ (g.spair a.toNat).toNat < 2 ^ 48))
      fun s i g t => Passes g (t.group i) 1 ∧ (∀ p c ad, (t.window p c).mem.get ad = (s.window p c).mem.get ad) ∧
        (∀ ad, t.mem.get ad = s.mem.get ad ∨ ∃ w ∈ s.windows, ∃ y ∈ w.lines, (∃ c ∈ sharers s g, (s.ctx c).part = w.part) ∧
          y.line = ad / 128 ∧ y.dirty.getLsbD (ad % 128) = true ∧ t.mem.get ad = w.cache.get ad) ∧
        (∀ (c q : Nat) (x : Cell) (y : Quad), t.cells[c]? = some x → x.quads[q]? = some y → ∃ x0 y0, s.cells[c]? = some x0 ∧
          x0.quads[q]? = some y0 ∧ ∀ e, e ∈ y.tlb ↔ e ∈ y0.tlb ∧ ¬hits s g e) ∧
        ∀ (k : Nat) (y : Pane), t.panes[k]? = some y → ∃ y0, s.panes[k]? = some y0 ∧ ∀ e, e ∈ y.tlb ↔ e ∈ y0.tlb ∧ ¬hits s g e) ∧
  (∀ (a : BitVec 8) (n : BitVec 5) (b : List Byte),
    Does (.ixuLoad a n) ⟨.priv, 1, [.pair a.toNat]⟩
      (fun s _ g => (g.spair a.toNat).toNat % 256 = 0 ∧ s.engineRead g 2 (g.spair a.toNat).toNat 256 = .ok (b, none))
      fun s i g t => Passes g (t.group i) 1 ∧ SameMem s t ∧
        ∀ x, s.cells[g.loc.cell]? = some x → t.cells[g.loc.cell]? = some { x with ixu := x.ixu.set n.toNat (.prog b) }) ∧
  (∀ (ins : Instr), ins = .ccFlush ∨ ins = .ccInval →
    Does ins ⟨.priv, 1, []⟩ (fun s _ g => ∀ y ∈ (s.window (s.partOf g) g.loc.cell).lines, y.uncommitted = 0#128)
      fun s i g t => Passes g (t.group i) 1 ∧
        (ins = .ccInval → (t.window (s.partOf g) g.loc.cell).lines = []) ∧
        ∀ ad, t.mem.get ad = match (s.window (s.partOf g) g.loc.cell).line? (ad / 128) with
          | some y => if y.dirty.getLsbD (ad % 128) then (s.window (s.partOf g) g.loc.cell).cache.get ad else s.mem.get ad
          | none => s.mem.get ad) ∧
  ∀ (a : BitVec 8) (b : List Byte),
    Does (.bndSet a) ⟨.priv, 1, [.pair a.toNat]⟩
      (fun s _ g => g.id.ctx < s.ctxs.length ∧ ((g.spair a.toNat).toNat = 0 ∧ b = [] ∨ (g.spair a.toNat).toNat ≠ 0 ∧
        s.engineRead g 3 (g.spair a.toNat).toNat 1024 = .ok (b, none)))
      fun s i g t => Passes g (t.group i) 1 ∧ SameMem s t ∧ (t.ctx g.id.ctx).bounds =
        if (g.spair a.toNat).toNat = 0 then [] else (List.range 64).map fun j => fieldAt b (16 * j) 16

/-! ### Screed, glaze, texture and trace (17 R466 to R499; 07 R209 to R211) -/

/-- The active lanes are bound to ticket halves, of which `b` tells. -/
def bound (b : Nat → Frag) (s : State) (g : Group) : Prop := ∀ l ∈ g.ctl.act.toList, s.boundOf g l = some (b l)

/-- 17 R467 to R469, R475: PRIM.EMIT sets a primitive up in the pass of its descriptor, with its record at the home copy;
one that the set-up discards only takes its number. PRIM.EMIT.CLOSE closes the pass. The model's own readings and
choices that it rests on: log entry 28. -/
def Obligations.PrimitiveEmission : Prop :=
  (∀ (a b : BitVec 7) (k l : Nat) (p : Pass),
    let words (g : Group) : List Word := (List.range 13).map fun j => g.vlane (a.toNat + j) l
    let open_ (s : State) (g : Group) : Prop := s.passIdx g.id.ctx (g.spAddr b) g.pane = some k ∧ s.passes[k]? = some p ∧
      p.closed = false ∧ s.quarantined g.pane = false ∧ g.ctl.begun = none ∧ g.storeLanes = [l] ∧
      (s.block g.id.block).fdom ≠ .rollback
    let info : Info := ⟨.gfx, 1, [.vgrp a.toNat 13 1, .cond (spOk b) b.toNat]⟩
    Does (.primEmit a b) info (fun s _ g => open_ s g ∧ p.setup p.nextPseq (words g) = none)
      (fun s i g t => Passes g (t.group i) 1 ∧ SameMem s t ∧ t.passes = s.passes.set k { p with nextPseq := p.nextPseq + 1 }) ∧
    ∀ (q : Prim) (tr : TlbEntry), Does (.primEmit a b) info
      (fun s _ g => open_ s g ∧ p.setup p.nextPseq (words g) = some q ∧
        (∀ x ∈ p.prims, x.pseq % p.maxPrim ≠ p.nextPseq % p.maxPrim) ∧
        (p.prims.map fun x => x.bins.length).sum + q.bins.length ≤ p.binRoom ∧
        s.xlate 32 0 p.ctx ⟨true, false, p.sys⟩ (p.field 0x30 8 + p.nextPseq % p.maxPrim * 32) = .ok tr)
      fun s i g t => Passes g (t.group i) 1 ∧
        t.passes = s.passes.set k { p with nextPseq := p.nextPseq + 1, starved := false, prims := p.prims ++ [q] } ∧
        ∀ ad, t.mem.get ad = (s.mem.put (tr.phys (p.field 0x30 8 + p.nextPseq % p.maxPrim * 32)) q.record).get ad) ∧
  ∀ (b : BitVec 7) (k : Nat) (p : Pass), Does (.primEmitClose b) ⟨.gfx, 1, [.cond (spOk b) b.toNat]⟩
    (fun s _ g => s.passIdx g.id.ctx (g.spAddr b) g.pane = some k ∧ s.passes[k]? = some p)
    fun s i g t => Passes g (t.group i) 1 ∧ SameMem s t ∧ ∃ p', t.passes[k]? = some p' ∧ p'.closed = true ∧ p'.prims = p.prims

/-- 17 R475 to R480: tickets are taken and given up, and bound lanes read their ticket's words, coverage and
interpolated quantities. The model's own readings and choices that it rests on: log entry 28. -/
def Obligations.TicketsAndInterpolation : Prop :=
  (∀ (k : BitVec 3) (b : BitVec 7),
    let info : Info := ⟨.gfx, 1, [.kdst k.toNat, .cond (spOk b) b.toNat]⟩
    let whole (g : Group) : Prop := g.ctl.stack = [] ∧ g.ctl.live = BitVec.allOnes 32 ∧ g.trap.parked = [] ∧ g.id.quadMode = false
    (Does (.tileGet k b) info (fun s _ g => whole g ∧ s.passIdx g.id.ctx (g.spAddr b) g.pane = none)
      fun s i g t => GoesOn g (t.group i) 1 ∧ SameMem s t ∧ KeepsRegs g (t.group i) [] [] [k.toNat] ∧
        (t.group i).kreg k.toNat = 0#32 ∧ (t.group i).id = g.id) ∧
    ∀ (n tile half : Nat) (r : State) (p : Pass) (c : Ticket) (q : Prim), Does (.tileGet k b) info
      (fun s _ g => whole g ∧ s.passIdx g.id.ctx (g.spAddr b) g.pane = some n ∧ s.pickHalf n g.loc.cell = some (r, tile, half) ∧
        r.passes[n]? = some p ∧ (p.tile tile).cur = some c ∧ p.prims.find? (fun x => x.pseq == c.pseq) = some q ∧
        r.groups = s.groups ∧ r.blocks = s.blocks)
      fun _ i g t =>
        let covered (l : Nat) : Bool :=
          let px := halfPixel (tile % p.tw) (tile / p.tw) half l
          decide (px.1 < p.w ∧ px.2 < p.h) && q.coverage p.samples px.1 px.2 != 0
        GoesOn g (t.group i) 1 ∧ KeepsRegs g (t.group i) [] [] [k.toNat] ∧
        (t.group i).kreg k.toNat = Lanes.ofFn 32 covered ∧ (t.group i).ctl.helper = ~~~(Lanes.ofFn 32 covered) ∧
        (t.group i).id.quadMode = true ∧ ∀ l, l < 32 →
          (t.group i).id.binds.getD l none = some ((c.id * 2 + half) * 32 + l) ∧
          (t.group i).id.pseq.getD l 0#32 = BitVec.ofNat 32 q.pseq) ∧
  (∀ b : Nat → Frag,
    (Sets .tileDone ⟨.gfx, 1, []⟩ (bound b) fun _ g h => KeepsRest g h ∧ h.regs = g.regs ∧ GoesOn g h 1 ∧
      ∀ l, l < 32 → h.id.binds.getD l none = if g.ctl.act.has l then none else g.id.binds.getD l none) ∧
    (∀ d w, WritesAt (.tileAttr d w) ⟨.gfx, 1, [.vdst d.toNat 1 1, .cond (decide (w.toNat ≤ 8)) w.toNat]⟩ d.toNat 1 (bound b)
      fun _ _ _ l =>
        let tx := (b l).tile.tile % (b l).pass.tw
        let ty := (b l).tile.tile / (b l).pass.tw
        let e := (b l).prim.edges.getD (w.toNat / 2) (0, 0, 0)
        if w.toNat < 6 then
          if w.toNat % 2 = 0 then BitVec.ofInt 32 (e.1 + e.2.1 * (128 * tx : Nat) + e.2.2 * (128 * ty : Nat))
          else BitVec.ofNat 32 (wrapInt 16 e.2.1 + wrapInt 16 e.2.2 * 65536)
        else if w.toNat = 6 then BitVec.ofNat 32 (b l).ticket.pseq
        else if w.toNat = 7 then BitVec.ofNat 32 (tx + ty * 512 + (if (b l).ticket.reload then 2 ^ 18 else 0)
          + (if (b l).ticket.first then 2 ^ 19 else 0) + if (b l).prim.ccw then 2 ^ 20 else 0)
        else (b l).prim.user) ∧
    (∀ d, WritesAt (.edge d) ⟨.edge, 1, [.vdst d.toNat 1 1]⟩ d.toNat 1 (bound b) fun _ _ _ l =>
      BitVec.ofNat 32 ((b l).prim.coverage (b l).pass.samples (b l).x (b l).y)) ∧
    (∀ d p f, WritesAt (.interp d p f) ⟨.edge, 1, [.vdst d.toNat 1 1, .cond (decide (f.toNat ≤ 5)) (p.toNat * 8 + f.toNat)]⟩
      d.toNat 1 (fun s g => bound b s g ∧ ∀ l ∈ g.ctl.act.toList, p.toNat ≤ (b l).pass.samples) fun _ _ _ l =>
      let o := pointOff (b l).pass.samples p.toNat
      (b l).prim.quantity ((b l).prim.edgesAt (16 * (b l).x + o.1 : Nat) (16 * (b l).y + o.2 : Nat)) f.toNat) ∧
    ∀ d p, WritesAt (.samplepos d p) ⟨.edge, 1, [.vdst d.toNat 2 1]⟩ d.toNat 2
      (fun s g => bound b s g ∧ ∀ l ∈ g.ctl.act.toList, p.toNat ≤ (b l).pass.samples) fun _ _ j l =>
      let o := pointOff (b l).pass.samples p.toNat
      rne32 (FVal.fin false (16 * (if j = 0 then (b l).x else (b l).y) + if j = 0 then o.1 else o.2) (-4)).exact)

/-- The samples that the store lanes' masks name lie apart in tile memory. -/
def samplesApart (b : Nat → Frag) (g : Group) : Prop :=
  ∀ l m k j, l ∈ g.storeLanes → m ∈ g.storeLanes → k < (b l).pass.samples → j < (b m).pass.samples → (l, k) ≠ (m, j) →
    ((b l).sampleAt k).1 ≠ ((b m).sampleAt j).1 ∨ ((b l).sampleAt k).2 + 12 ≤ ((b m).sampleAt j).2 ∨
      ((b m).sampleAt j).2 + 12 ≤ ((b l).sampleAt k).2

/-- 17 R480: the output merger. DEPTH tests the interpolated depth of each selected sample and stores it where it
passes; WRITE merges the colour into each selected sample; LOAD reads a sample. The model's own readings and choices
that it rests on: log entries 28 and 45. -/
def Obligations.OutputMerger : Prop :=
  ∀ b : Nat → Frag,
    (∀ (d a : BitVec 7) (w : BitVec 1) (o : BitVec 3),
      let passes (s : State) (g : Group) (l k : Nat) : Bool := (g.opLane a.toNat 0#32 l).getLsbD k && depthTest o.toNat
        ((b l).interp 2 (k + 1)) (bytesWord (s.winRead (s.partOf g) ((b l).sampleAt k).1 ((b l).sampleAt k).2 4))
      Does (.omDepth d a w o) ⟨.gfx, 1, [.vdst d.toNat 1 1, .vsrc a.toNat false]⟩
        (fun s _ g => bound b s g ∧ samplesApart b g ∧ (∀ l, (b l).pass.samples ≤ 8) ∧
          ∀ c, (s.window (s.partOf g) c).poison = [])
        fun s i g t => GoesOn g (t.group i) 1 ∧ KeepsRegs g (t.group i) [d.toNat] [] [] ∧
          (∀ ad, t.mem.get ad = s.mem.get ad) ∧
          (∀ l k, l < 32 → k < 32 → g.ctl.live.has l = true → g.ctl.act.has l = true →
            (((t.group i).vreg d.toNat).val.lane l).getLsbD k =
              (!g.ctl.helper.has l && decide (k < (b l).pass.samples) && passes s g l k)) ∧
          ∀ l ∈ g.storeLanes, ∀ k, k < (b l).pass.samples →
            t.winRead (s.partOf g) ((b l).sampleAt k).1 ((b l).sampleAt k).2 4 =
              if w = 1#1 ∧ passes s g l k = true then wordBytes ((b l).interp 2 (k + 1))
              else s.winRead (s.partOf g) ((b l).sampleAt k).1 ((b l).sampleAt k).2 4) ∧
    (∀ (m : BitVec 2) (a c : BitVec 7),
      Does (.omWrite m a c) ⟨.gfx, 1, [.cond (m != 3#2) 3, .vsrc a.toNat false, .vgrp c.toNat 2 2]⟩
        (fun s _ g => bound b s g ∧ samplesApart b g ∧ ∀ l, (b l).pass.samples ≤ 8)
        fun s i g t => Passes g (t.group i) 1 ∧ (∀ ad, t.mem.get ad = s.mem.get ad) ∧
          ∀ l ∈ g.storeLanes, ∀ k, k < (b l).pass.samples →
            let ce := ((b l).sampleAt k).1
            let off := ((b l).sampleAt k).2 + 4
            let dst := s.winRead (s.partOf g) ce off 8
            let src : List Nat := [(g.vlane c.toNat l).toNat % 65536, (g.vlane c.toNat l).toNat / 65536,
              (g.vlane (c.toNat + 1) l).toNat % 65536, (g.vlane (c.toNat + 1) l).toNat / 65536]
            t.winRead (s.partOf g) ce off 8 = if (g.opLane a.toNat 0#32 l).getLsbD k then
                (List.range 4).flatMap fun j => leBytes 2
                  (mergeComp m.toNat (src.getD j 0) (fieldAt dst (2 * j) 2) (src.getD 3 0))
              else dst) ∧
    ∀ (d : BitVec 7) (k : BitVec 3), Sets (.omLoad d k) ⟨.gfx, 1, [.vdst d.toNat 3 1]⟩
      (fun s g => bound b s g ∧ (∀ l ∈ g.ctl.act.toList, k.toNat < (b l).pass.samples) ∧
        ∀ c, (s.window (s.partOf g) c).poison = [])
      fun s g h => KeepsRest g h ∧ KeepsRegs g h [d.toNat, d.toNat + 1, d.toNat + 2] [] [] ∧ h.sr = g.sr ∧ h.id = g.id ∧
        GoesOn g h 1 ∧ ∀ j l, j < 3 → l < 32 → g.ctl.live.has l = true → (h.vreg (d.toNat + j)).val.lane l =
          if g.ctl.act.has l = true ∧ g.ctl.helper.has l = false then
            bytesWord (s.winRead (s.partOf g) ((b l).sampleAt k.toNat).1 (((b l).sampleAt k.toNat).2 + 4 * j) 4)
          else (g.vreg (d.toNat + j)).val.lane l

/-- The layers that a glaze target holds for a lane's pixel: none for a pixel outside it. -/
def glazed (s : State) (g : Group) (sp : BitVec 7) (b : Frag) (d : Glaze) (px : GPixel) : Prop :=
  ∃ raw, s.engineRead g 2 (g.spAddr sp) 64 = .ok (raw, none) ∧ glazeOk raw = true ∧ d = Glaze.parse raw ∧
    ((d.w ≤ b.x ∨ d.h ≤ b.y) ∧ px.layers = [] ∨
      b.x < d.w ∧ b.y < d.h ∧ s.readPixel g d b.x b.y = .ok px ∧ px.poison = none)

/-- 17 R482 to R486: GLZ.COUNT, GLZ.READ and GLZ.RESOLVE read each lane's pixel; GLZ.INSERT, GLZ.CLEAR and
GLZ.RESOLVE.CLR make one lane's writes at the home copy. The model's own readings and choices that it rests on: log
entry 28. -/
def Obligations.GlazeOperations : Prop :=
  ∀ (b : Nat → Frag) (gd : Glaze) (px : Nat → GPixel),
    let clean (s : State) (g : Group) : Prop := bound b s g ∧ (s.window (s.partOf g) g.loc.cell).lines = [] ∧
      s.setWindow (s.window (s.partOf g) g.loc.cell) = s ∧ (s.block g.id.block).fdom ≠ .rollback
    let reads (sp : BitVec 7) (s : State) (g : Group) : Prop := clean s g ∧ g.ctl.helper = 0#32 ∧
      ∀ l ∈ g.ctl.act.toList, glazed s g sp (b l) gd (px l)
    let one (sp : BitVec 7) (l : Nat) (s : State) (g : Group) : Prop := clean s g ∧ g.storeLanes = [l] ∧
      glazed s g sp (b l) gd (px l) ∧ (b l).x < gd.w ∧ (b l).y < gd.h
    (∀ d sp, WritesAt (.glzCount d sp) ⟨.gfx, 1, [.vdst d.toNat 1 1, .cond (spOk sp) sp.toNat]⟩ d.toNat 1 (reads sp)
      fun _ _ _ l => BitVec.ofNat 32 (px l).layers.length) ∧
    (∀ d sp i, WritesAt (.glzRead d sp i)
      ⟨.gfx, 1, [.vdst d.toNat 3 1, .cond (spOk sp) sp.toNat, .cond (decide (i.toNat ≤ 15)) i.toNat]⟩ d.toNat 3 (reads sp)
      fun _ _ j l => match (px l).layers[i.toNat]? with
        | none => if j = 0 then 0x7F800000#32 else 0#32
        | some x => if j = 0 then x.depth else
            BitVec.ofNat 32 (x.colour.getD (2 * j - 2) 0 + 65536 * x.colour.getD (2 * j - 1) 0)) ∧
    (∀ d sp c, WritesAt (.glzResolve d sp c) ⟨.gfx, 1, [.vdst d.toNat 2 2, .cond (spOk sp) sp.toNat, .vgrp c.toNat 2 2]⟩
      d.toNat 2 (reads sp) fun _ g j l => (resolve ((px l).layers.map (·.colour)) (g.colourOf c.toNat l)).getD j 0#32) ∧
    (∀ (z sp c : BitVec 7) (l : Nat) (r : State) (ws : List (Nat × List Byte)),
      Does (.glzInsert z sp c) ⟨.gfx, 1, [.vgrp z.toNat 1 1, .cond (spOk sp) sp.toNat, .vgrp c.toNat 2 2]⟩
        (fun s _ g => one sp l s g ∧ s.insertWrites g (g.spAddr sp) gd (px l) (g.vlane z.toNat l) (g.colourOf c.toNat l) = .ok (ws, none) ∧
          s.writeAll g ws = .ok r)
        fun _ i g t => Passes g (t.group i) 1 ∧ ∀ a, t.mem.get a = r.mem.get a) ∧
    ∀ (ins : Instr) (sp d c : BitVec 7) (l : Nat) (tr : TlbEntry) (info : Info),
      (ins = .glzClear sp ∧ info = ⟨.gfx, 1, [.cond (spOk sp) sp.toNat]⟩) ∨ (ins = .glzResolveClr d sp c ∧
        info = ⟨.gfx, 1, [.vdst d.toNat 2 2, .cond (spOk sp) sp.toNat, .vgrp c.toNat 2 2]⟩) →
      Does ins info (fun s _ g => one sp l s g ∧ g.ctl.live.has l = true ∧ (px l).headVa % 4096 ≤ 4092 ∧
          s.xlateG g true (px l).headVa = .ok tr)
        fun s i g t => GoesOn g (t.group i) 1 ∧
          (∀ a, t.mem.get a = (s.mem.put (tr.phys (px l).headVa) (leBytes 4 0xFFFFFFFF)).get a) ∧
          (ins = .glzClear sp → (t.group i).regs = g.regs) ∧
          ∀ j, j < 2 → ins = .glzResolveClr d sp c → ((t.group i).vreg (d.toNat + j)).val.lane l =
            (resolve ((px l).layers.map (·.colour)) (g.colourOf c.toNat l)).getD j 0#32

/-- The eight forms of TEX: FN, and whether it captures. -/
def TexForm (fn : Nat) (capture : Bool)
    (f : BitVec 7 → BitVec 7 → BitVec 8 → BitVec 2 → BitVec 1 → BitVec 2 → BitVec 7 → Instr) : Prop :=
  (fn = 0 ∧ f = if capture then .texSampleC else .texSample) ∨ (fn = 1 ∧ f = if capture then .texLoadC else .texLoad) ∨
    (fn = 2 ∧ f = if capture then .texGather4C else .texGather4) ∨ (fn = 3 ∧ f = if capture then .texLodC else .texLod)

/-- 17 R487 to R491, 07 R210: TEX sends a request of the active lanes' coordinates and counts an operation of class 2;
the result is awaited, or in a .C form the lanes leave for continuation records. The model's own readings and choices
that it rests on: log entries 21 and 28. -/
def Obligations.TextureRequests : Prop :=
  ∀ (fn : Nat) (capture : Bool) (f : BitVec 7 → BitVec 7 → BitVec 8 → BitVec 2 → BitVec 1 → BitVec 2 → BitVec 7 → Instr)
    (d a : BitVec 7) (b : BitVec 8) (cm : BitVec 2) (h16 : BitVec 1) (lm : BitVec 2) (c : BitVec 7), TexForm fn capture f →
    let n := if h16 = 1#1 ∨ fn = 3 then 2 else 4
    let res := (List.range n).map (d.toNat + ·)
    Does (f d a b cm h16 lm c) ⟨.gfx, 2, [if capture then .cond (decide (d.toNat % n = 0 ∧ d.toNat < 112)) d.toNat
        else .vdst d.toNat n n, .vgrp a.toNat 2 1, .cond (decide (b.toNat % 2 = 0 ∧ b.toNat ≤ 252)) b.toNat]
        ++ if lm = 0#2 then [] else [.vsrc c.toNat false]⟩
      (fun s _ g => g.canOp 2 ∧ (capture = true → g.canCapture s (g.sreg (b.toNat + 2)) res))
      fun s i g t => (∃ r, t.texs = s.texs ++ [r] ∧ r.group = i ∧ r.op = g.asy.nextOp ∧ r.fn = fn ∧ r.f16 = (h16 == 1#1) ∧
          r.comp = cm.toNat ∧ r.lodm = lm.toNat ∧ r.desc = (g.spair b.toNat).toNat ∧ r.lanes = g.ctl.act ∧
          ∀ l ∈ g.ctl.act.toList, r.u.getD l 0#32 = g.vlane a.toNat l ∧ r.v.getD l 0#32 = g.vlane (a.toNat + 1) l ∧
            (lm ≠ 0#2 → r.lod.getD l 0#32 = g.opLane c.toNat 0#32 l)) ∧
        (capture = false → SameMem s t ∧ GoesOn g (t.group i) 2 ∧ Awaits g (t.group i) d.toNat n g.asy.nextOp ∧
          (t.group i).asy.cnt.getD 2 0 = g.asy.cnt.getD 2 0 + 1 ∧
          (t.group i).sr = { g.sr with derivflag := if lm ≠ 1#2 ∧ (∃ l ∈ g.ctl.act.toList, g.ctl.act.has (l ^^^ 1) = false ∨
            g.ctl.act.has (l ^^^ 2) = false) then g.sr.derivflag ||| 1#32 else g.sr.derivflag }) ∧
        (capture = true → Captured s t i g false)

/-- 17 R493 to R495, 07 R210: TRACE and the HIT forms send a request of the active lanes. The model's own readings and
choices that it rests on: log entries 22, 23 and 48. -/
def Obligations.TraceRequests : Prop :=
  (∀ (d a : BitVec 7) (b : BitVec 8) (tf any : BitVec 1) (capture : Bool),
    Does (if capture then .traceC d a b tf any else .trace d a b tf any)
      ⟨.gfx, 2, [if capture then .cond (decide (d.toNat % 4 = 0 ∧ d.toNat < 112)) d.toNat else .vdst d.toNat 4 4,
        .vgrp a.toNat 8 1, .cond (decide (b.toNat % 2 = 0 ∧ b.toNat ≤ 252)) b.toNat, .cond (!capture || any == 0#1) 1]⟩
      (fun s _ g => g.canOp 2 ∧ (capture = true → g.canCapture s (g.sreg (b.toNat + 2)) ((List.range 4).map (d.toNat + ·))))
      fun s i g t => (∃ r, t.traces = s.traces ++ [r] ∧ r.group = i ∧ r.op = g.asy.nextOp ∧ r.cell = g.loc.cell ∧
          r.desc = (g.spair b.toNat).toNat ∧ r.any = (any == 1#1) ∧ r.first = (tf == 1#1) ∧
          r.lanes = g.ctl.act.toList.map fun l => (l, .start ((List.range 8).map fun j => g.vlane (a.toNat + j) l))) ∧
        (capture = false → SameMem s t ∧ GoesOn g (t.group i) 2 ∧ Awaits g (t.group i) d.toNat 4 g.asy.nextOp ∧
          (t.group i).sr = g.sr ∧ (t.group i).asy.cnt.getD 2 0 = g.asy.cnt.getD 2 0 + 1) ∧
        (capture = true → Captured s t i g false)) ∧
  ∀ (ins : Instr) (d a : BitVec 7) (more : List Chk) (act : Group → Nat → Trav → Hit → TravOut),
    (ins = .hitReport d a ∧ more = [.vgrp a.toNat 3 1] ∧ act = fun g l t c =>
        let x := g.vlane a.toNat l
        if fLe (fpv (t.ray.getD 3 0#32).toNat) (fpv x.toNat) && fLe (fpv x.toNat) (fpv t.tbest.toNat) then
          t.accept ⟨x, g.vlane (a.toNat + 1) l, g.vlane (a.toNat + 2) l, c.prim⟩
        else .going { t with cand := none }) ∨
      (ins = .hitAccept d ∧ more = [] ∧ act = fun _ _ t c => t.accept c) ∨
      (ins = .hitIgnore d ∧ more = [] ∧ act = fun _ _ t _ => .going { t with cand := none }) →
    Does ins ⟨.gfx, 1, .vdst d.toNat 4 4 :: more⟩ (fun _ _ g => g.canOp 2)
      fun s i g t => SameMem s t ∧ GoesOn g (t.group i) 1 ∧ Awaits g (t.group i) d.toNat 4 g.asy.nextOp ∧
        (∃ r, t.traces = s.traces ++ [r] ∧ r.group = i ∧ r.any = true ∧ r.lanes.map (·.1) = g.ctl.act.toList ∧
          ∀ l x tr c, (l, x) ∈ r.lanes → g.paused.find? (fun y => y.1 == l) = some (l, tr) → tr.cand = some c →
            (act g l tr c).lane = some x) ∧
        ∀ y ∈ (t.group i).paused, g.ctl.act.has y.1 = false ∨ 32 ≤ y.1

/-- 07 R209, R210, 17 R492: CONT.KEY sets the active lanes' keys, and REPACK captures them ready to run again. The
model's own readings and choices that it rests on: log entry 57. -/
def Obligations.Continuations : Prop :=
  (∀ a, Sets (.contKey a) ⟨.cont, 1, [.vsrc a.toNat false]⟩ (fun _ _ => True) fun _ g h =>
    KeepsRest g h ∧ h.regs = g.regs ∧ h.sr = g.sr ∧ GoesOn g h 1 ∧ h.id.tidx = g.id.tidx ∧
    ∀ l, l < 32 → h.id.key.getD l 0#32 = if g.ctl.act.has l then g.opLane a.toNat 0#32 l else g.id.key.getD l 0#32) ∧
  ∀ c, Does (.repack c) ⟨.cont, 1, [.cond (decide (112 ≤ c.toNat ∧ c.toNat ≤ 119)) c.toNat]⟩
    (fun s _ g => g.canCapture s (g.sreg (c.toNat - 112)) [])
    fun s i g t => Captured s t i g true

/-! ### The matrix complex (16 R443 to R460), the HUD latch (17 R481), and PFAIL.DONE (13 R334) -/

/-- A matrix operation that passes its checks enters its group's queue with the word and the operands as they are read
at issue, and counts an outstanding operation of class 1; one that names a barrier object is counted there as in
flight. -/
def Queues (ins : Instr) (p : Info) (ok : State → Group → Prop) (e : Group → MatEntry) (obj : Group → Nat)
    (post : Group → Group → Prop) : Prop :=
  Does ins p
    (fun s _ g => ok s g ∧ g.asy.cnt.length = 4 ∧ g.asy.cnt.getD 1 0 < 63 ∧
      (obj g ≠ 0xFFFFFFFF → obj g % 16 = 0 ∧ (s.block g.id.block).segOk (obj g) 16 = true ∧
        (s.bobj g.id.block g.loc.cell (obj g)).flight < 65535))
    fun s i g t => Passes g (t.group i) 1 ∧ post g (t.group i) ∧
      (t.group i).mat.queue = g.mat.queue ++ [e g] ∧ (t.group i).mat.mode = g.mat.mode ∧
      (t.group i).asy.cnt.getD 1 0 = g.asy.cnt.getD 1 0 + 1 ∧
      (obj g = 0xFFFFFFFF → SameMem s t) ∧
      (obj g ≠ 0xFFFFFFFF → StoresSeg s t g.id.block g.loc.cell (obj g) 16 ∧
        t.bobj g.id.block g.loc.cell (obj g) = { s.bobj g.id.block g.loc.cell (obj g) with
          flight := (s.bobj g.id.block g.loc.cell (obj g)).flight + 1 })

/-- The reservation records and the mode of the latest BEAD.MODE are as they were. -/
def sameRecords (g h : Group) : Prop := h.mat.pal = g.mat.pal ∧ h.mat.issueMode = g.mat.issueMode
/-- An operation that names no barrier object. -/
def noObj (_ : Group) : Nat := 0xFFFFFFFF

/-- 16 R443 to R448, R457: the bead family. BEAD.MODE is legal for a pair of formats that R448 implements. The model's
own readings and choices that it rests on: log entry 29. -/
def Obligations.BeadOperations : Prop :=
  (∀ a, Queues (.beadMode a) ⟨.matrix, 1, [matPair a]⟩
    (fun _ g => modeLegal (pairAt g a.toNat) = true ∧ modeK (pairAt g a.toNat) ≠ none)
    (fun g => ⟨.mode (pairAt g a.toNat), g.asy.nextOp, 0x3C * 2 ^ 26 + a.toNat * 2 ^ 8, pairAt g a.toNat, 0, 0⟩) noObj
    fun g h => h.mat.pal = g.mat.pal ∧ h.mat.issueMode = pairAt g a.toNat) ∧
  (∀ (c : BitVec 6) (a b : BitVec 8) (clear : Bool) (ins : Instr),
    (ins = .beadMma c a b ∧ clear = false) ∨ (ins = .beadMmaz c a b ∧ clear = true) →
    Queues ins ⟨.matrix, 1, [matEither a, matEither b]⟩
      (fun s g => g.matSrcOk g.mat.issueMode a.toNat false = true ∧ g.matSrcOk g.mat.issueMode b.toNat true = true ∧
        (a.toNat < 128 → (s.block g.id.block).matCellOk g.mat.issueMode (pairAt g a.toNat) false = true) ∧
        (b.toNat < 128 → (s.block g.id.block).matCellOk g.mat.issueMode (pairAt g b.toNat) true = true))
      (fun g => ⟨.mma clear c.toNat (g.matSrc a.toNat) (g.matSrc b.toNat), g.asy.nextOp,
        0x3C * 2 ^ 26 + (if clear then 2 else 1) * 2 ^ 22 + c.toNat * 2 ^ 16 + a.toNat * 2 ^ 8 + b.toNat,
        if a.toNat < 128 then pairAt g a.toNat else 0, if b.toNat < 128 then pairAt g b.toNat else 0, 0⟩)
      noObj sameRecords) ∧
  (∀ c, Queues (.beadZero c) ⟨.matrix, 1, []⟩ (fun _ _ => True)
    (fun g => ⟨.zero c.toNat, g.asy.nextOp, 0x3C * 2 ^ 26 + 3 * 2 ^ 22 + c.toNat * 2 ^ 16, 0, 0, 0⟩) noObj sameRecords) ∧
  (∀ a, Queues (.beadSync a) ⟨.matrix, 1, [matPair a]⟩ (fun _ _ => True)
    (fun g => ⟨.sync (g.sreg (2 * a.toNat)).toNat, g.asy.nextOp, 0x3C * 2 ^ 26 + 4 * 2 ^ 22 + a.toNat * 2 ^ 8,
      pairAt g a.toNat, 0, 0⟩) (fun g => (g.sreg (2 * a.toNat)).toNat) sameRecords) ∧
  ∀ c a, Queues (.beadScale c a) ⟨.matrix, 1, [matPair a]⟩ (fun _ _ => True)
    (fun g => ⟨.scale c.toNat (g.sreg (2 * a.toNat)).toNat, g.asy.nextOp,
      0x3C * 2 ^ 26 + 5 * 2 ^ 22 + c.toNat * 2 ^ 16 + a.toNat * 2 ^ 8, pairAt g a.toNat, 0, 0⟩) noObj sameRecords

/-- 16 R449 to R453: PAL.RESERVE takes the lowest run of units that is long enough, and tells in s[SDST] whether there
was one; fills enter the queue with the record as it stands; PAL.RELEASE gives the record up at once and its units
through the queue. 16 R459, R460: the counting-board family. The model's own readings and choices that it rests on: log
entries 14 and 29. -/
def Obligations.PaletteAndBoardOperations : Prop :=
  (∀ (p : BitVec 6) (a d : BitVec 8),
    let w (g : Group) : Nat := (g.sreg (2 * a.toNat)).toNat
    let k (g : Group) : Nat := (g.sreg (2 * a.toNat + 1)).toNat
    let ok (g : Group) : Prop := (g.palRec p.toNat).held = false ∧ g.mat.pal.length = 16 ∧ palLegal p.toNat (w g) = true ∧
      0 < k g ∧ k g < 65536 ∧ palLen (w g) (k g) ≤ 256
    let info : Info := ⟨.matrix, 1, [matPal p, matPair a]⟩
    Does (.palReserve p a d) info (fun s _ g => ok g ∧ ((s.quadOf g).bind fun q => q.palFree (palLen (w g) (k g))) = none)
      (fun s i g t => ∃ h, t = s.setGroup i h ∧ KeepsRest g h ∧ KeepsRegs g h [] [d.toNat] [] ∧ GoesOn g h 1 ∧
        h.sreg d.toNat = 1#32) ∧
    ∀ u q, Does (.palReserve p a d) info (fun s _ g => ok g ∧ s.quadOf g = some q ∧ q.palFree (palLen (w g) (k g)) = some u)
      fun s i g t => GoesOn g (t.group i) 1 ∧ KeepsRegs g (t.group i) [] [d.toNat] [] ∧ SameMem s t ∧
        (t.group i).sreg d.toNat = 0#32 ∧ (∀ n, n ≠ p.toNat → (t.group i).palRec n = g.palRec n) ∧
        ((t.group i).palRec p.toNat).held = true ∧ ((t.group i).palRec p.toNat).base = 256 * u ∧
        ((t.group i).palRec p.toNat).len = palLen (w g) (k g) ∧ ((t.group i).palRec p.toNat).kcap = k g ∧
        ((t.group i).palRec p.toNat).low = w g % 2 ^ 31 ∧
        ∃ q', t.quadOf g = some q' ∧ (256 * u, palLen (w g) (k g)) ∈ q'.palUnits ∧ (∀ x ∈ q.palUnits, x ∈ q'.palUnits) ∧
          ∀ ad, q'.palette.get ad =
            if 256 * u ≤ ad ∧ ad < 256 * (u + palLen (w g) (k g)) then 0#8 else q.palette.get ad) ∧
  (∀ (p : BitVec 6) (a b : BitVec 8),
    let info : Info := ⟨.matrix, 1, [matPal p, matPair a, matPair b]⟩
    let objOf (g : Group) : Nat := (g.sreg (2 * b.toNat + 1)).toNat
    let lo (g : Group) : Nat := (g.sreg (2 * b.toNat)).toNat
    Queues (.palFill p a b) info
      (fun s g =>
        let r := g.palRec p.toNat
        r.held = true ∧ r.raw = false ∧ cellLegal (pairAt g a.toNat) = true ∧ 0 < lo g / 65536 ∧
        lo g % 65536 + lo g / 65536 ≤ r.kcap ∧
        (s.block g.id.block).rowsOk (pairAt g a.toNat) 0 (lo g / 65536) r.rows r.w = true)
      (fun g => ⟨.fill (g.palRec p.toNat) (pairAt g a.toNat) (lo g % 65536) (lo g / 65536) (objOf g), g.asy.nextOp,
        0x3D * 2 ^ 26 + 2 ^ 22 + p.toNat * 2 ^ 16 + a.toNat * 2 ^ 8 + b.toNat, pairAt g a.toNat, pairAt g b.toNat, 0⟩)
      objOf sameRecords ∧
    Queues (.palFillk p a b) info
      (fun s g =>
        let r := g.palRec p.toNat
        let src := (g.sreg (2 * a.toNat)).toNat
        let n := (g.sreg (2 * a.toNat + 1)).toNat
        r.held = true ∧ src % 16 = 0 ∧ n % 16 = 0 ∧ 0 < n ∧ lo g % 16 = 0 ∧ lo g + n ≤ r.len * 256 ∧
        (s.block g.id.block).segOk src n = true)
      (fun g => ⟨.fillK (g.palRec p.toNat) (g.sreg (2 * a.toNat)).toNat (g.sreg (2 * a.toNat + 1)).toNat (lo g) (objOf g),
        g.asy.nextOp, 0x3D * 2 ^ 26 + 2 * 2 ^ 22 + p.toNat * 2 ^ 16 + a.toNat * 2 ^ 8 + b.toNat, pairAt g a.toNat,
        pairAt g b.toNat, 0⟩) objOf sameRecords) ∧
  (∀ p, Queues (.palRelease p) ⟨.matrix, 1, [matPal p]⟩ (fun _ g => g.mat.pal.length = 16)
    (fun g => ⟨.release (if (g.palRec p.toNat).held then some (g.palRec p.toNat).base else none), g.asy.nextOp,
      0x3D * 2 ^ 26 + 3 * 2 ^ 22 + p.toNat * 2 ^ 16, 0, 0, 0⟩) noObj
    fun g h => (h.palRec p.toNat).held = false ∧ (∀ n, n ≠ p.toNat → h.palRec n = g.palRec n) ∧
      h.mat.issueMode = g.mat.issueMode) ∧
  (∀ (c : BitVec 6) (a b : BitVec 8), Queues (.cbDrain c a b) ⟨.matrix, 1, [matPair a, matPair b]⟩
    (fun s g =>
      let dst := pairAt g a.toNat
      let ctl := pairAt g b.toNat
      cellLegal dst = true ∧ cellTpitch dst = 0 ∧ ctlWidth ctl ≤ cellRpitch dst ∧ ctlLegal ctl = true ∧
      (s.block g.id.block).rowsOk dst 0 1 (ctlRows ctl) (ctlWidth ctl) = true ∧ s.drainTraps g dst ctl = false)
    (fun g => ⟨.drain c.toNat (pairAt g a.toNat) (pairAt g b.toNat), g.asy.nextOp,
      0x3E * 2 ^ 26 + c.toNat * 2 ^ 16 + a.toNat * 2 ^ 8 + b.toNat, pairAt g a.toNat, pairAt g b.toNat, 0⟩)
    (fun g => ctlObj (pairAt g b.toNat)) sameRecords) ∧
  (∀ (c : BitVec 6) (a : BitVec 8), Queues (.cbLoad c a) ⟨.matrix, 1, [matPair a]⟩
    (fun s g => cellLegal (pairAt g a.toNat) = true ∧ cellTpitch (pairAt g a.toNat) = 0 ∧
      (s.block g.id.block).rowsOk (pairAt g a.toNat) 0 1 16 32 = true)
    (fun g => ⟨.load c.toNat (pairAt g a.toNat), g.asy.nextOp,
      0x3E * 2 ^ 26 + 2 ^ 22 + c.toNat * 2 ^ 16 + a.toNat * 2 ^ 8, pairAt g a.toNat, 0, 0⟩) noObj sameRecords) ∧
  ∀ (c : BitVec 6) (n : BitVec 8), Queues (.cbClear c n)
    ⟨.matrix, 1, [.cond (decide (1 ≤ n.toNat ∧ c.toNat + n.toNat ≤ 64)) n.toNat]⟩ (fun _ _ => True)
    (fun g => ⟨.clear c.toNat n.toNat, g.asy.nextOp, 0x3E * 2 ^ 26 + 2 * 2 ^ 22 + c.toNat * 2 ^ 16 + n.toNat, 0, 0, 0⟩)
    noObj sameRecords


/-! ## The steps of the part itself -/

/-- 11 R300, R309; 13 R347, R360; 06 R182 to R184: the watchdog, the budget of a gate call, a sleep, monitors, waking and
arbitration. The model's own readings and choices that it rests on: log entries 3, 5 and 50. -/
def Obligations.TimersWakesAndArbitration : Prop :=
  (∀ i, Happens (.watchdogExpiry i)
    (fun s => i < s.groups.length ∧ (s.group i).ctl.status = .held ∧ watchdogClocks ≤ (s.group i).ctl.heldClocks ∧
      (s.group i).trap.callee = none ∧ (s.group i).inGate = false ∧ (s.group i).id.block < s.blocks.length)
    fun s t => ((s.block (s.group i).id.block).fdom = .report →
        (t.group i).ctl.live = (s.group i).ctl.live &&& ~~~(s.group i).ctl.act) ∧
      ((s.block (s.group i).id.block).fdom ≠ .report → (t.block (s.group i).id.block).terminated = true)) ∧
  (∀ i l, HappensTo (.gateBudgetExpiry i) i
    (fun s g => l ∈ g.asy.gates ∧ l.start + 1024 * l.budget ≤ s.cyc g.loc.cell ∧ g.trap.callee = none)
    fun _ g h => SameRegs g h ∧ h.ctl.status = .held ∧ h.ctl.pc = g.ctl.pc ∧
      h.trap.callee = some (.here 0x1B 0, g.ctl.pc, 0)) ∧
  (∀ i t promises, HappensTo (.sleepExpiry i) i
    (fun s g => g.ctl.status = .blocked (.sleep t promises false) ∧ t ≤ s.cyc g.loc.cell ∧
      (promises = false ∨ ∀ o ∈ g.asy.ops, o.cls = 0 → o.promise ≤ t → o.done = true))
    fun _ g h => Wakes g h ∧ h.ctl.wakeHit = true ∧ h.ctl.missed = none) ∧
  (∀ i m, HappensTo (.monitorMatch i) i
    (fun s g => (s.hub.save = none ∨ g.id.pfail = true) ∧ g.ctl.status = .blocked .waitc ∧ m ∈ g.mons ∧ m.matched = true)
    fun _ g h => Wakes g h ∧ h.ctl.wakeHit = true ∧ h.mons = []) ∧
  (∀ i m, HappensTo (.monitorPoll i) i
    (fun s g => (s.hub.save = none ∨ g.id.pfail = true) ∧ g.ctl.status = .blocked .waitc ∧ m ∈ g.mons ∧ m.polled = true ∧
      monCond m.cond (if m.wide then 64 else 32) m.value (s.mem.value m.pa (if m.wide then 8 else 4)) = true)
    fun _ g h => Wakes g h ∧ h.ctl.wakeHit = true ∧ h.mons = []) ∧
  (∀ i w, HappensTo (.groupWake i) i
    (fun s g => (s.hub.save = none ∨ g.id.pfail = true) ∧ g.ctl.status = .blocked w ∧ w ≠ .slice ∧ w ≠ .kstep ∧
      (g.ctl.wakeHit = true ∨ w = .yield))
    fun _ g h => Wakes g h ∧ h.ctl.wakeHit = true) ∧
  ∀ cell unit w, Happens (.arbitration cell unit) (fun s => s.chosen cell unit = some w) fun s t =>
    let here (j : Nat) : Prop := j < s.groups.length ∧ (s.group j).onUnit cell unit = true ∧
      (s.group j).ctl.status = .ready ∧ s.mayIssue (s.group j) = true
    here w ∧ (t.group w).ctl.status = .running ∧ (t.group w).ctl.loss = 0 ∧ (t.group w).ctl.promoted = false ∧
    t.mem = s.mem ∧ t.groups.length = s.groups.length ∧
    (∀ j, j ≠ w → here j → s.before (s.group j) (s.group w) = false ∧ (t.group j).ctl.status = .ready ∧
      (t.group j).ctl.loss = (s.group j).ctl.loss + 1 ∧ (32 ≤ (s.group j).ctl.loss + 1 → (t.group j).ctl.promoted = true)) ∧
    ∀ j, j ≠ w → ¬ here j → t.group j = s.group j

/-- 07 R205 to R207; 08 R231; 09 R250; 03 R80; 15 R421: pending results land, lines fill, a release drains the entries
ahead of its marker, slots and tracker entries are given up, and a walk that has a walker fills the translation buffers
where they have room. The model's own readings and choices that it rests on: log entries 18 and 51. -/
def Obligations.LandingsFillsAndDrains : Prop :=
  (∀ i k p, Happens (.resultLanding i k)
    (fun s => i < s.groups.length ∧ (s.group i).regs.pend[k]? = some p ∧ p.ready = true ∧ (s.group i).ctl.live ≠ 0#32 ∧
      p.regs.Nodup ∧ (∀ r ∈ p.regs, ((s.group i).vreg r).tag = 0) ∧
      ((s.group i).widest p.regs).usage ≤ (s.group i).entryBudget ∧
      (p.uniform = true → ∀ l m, p.lanes.has l = true → p.lanes.has m = true → p.vals.getD l [] = p.vals.getD m []))
    fun s t => (t.group i).regs.pend = (s.group i).regs.pend.eraseIdx k ∧
      (∀ r, r ∉ p.regs → (t.group i).vreg r = (s.group i).vreg r) ∧
      ∀ j r l, p.regs[j]? = some r → l < 32 → (s.group i).ctl.live.has l = true →
        ((t.group i).vreg r).val.lane l =
          if p.lanes.has l then (p.vals.getD l []).getD j 0#32 else ((s.group i).vreg r).val.lane l) ∧
  (∀ i ls, Happens (.lineFillReturn i)
    (fun s => i < s.groups.length ∧ (s.group i).ctl.status = .blocked (.fill ls) ∧
      s.hasWays (s.group i) (ls.map (128 * ·)))
    fun s t => Wakes (s.group i) (t.group i) ∧ SameMem s t ∧ (∀ a, t.seen (s.group i) a = s.seen (s.group i) a) ∧
      ∀ l ∈ ls, (t.window (s.partOf (s.group i)) (s.group i).loc.cell).holds (128 * l) 128 = true) ∧
  (∀ i, Happens (.releaseDrainComplete i)
    (fun s => i < s.groups.length ∧
      FifoEntry.marker i ∈ (s.window (s.partOf (s.group i)) (s.group i).loc.cell).fifo ∧
      ∀ a ∈ s.atoms, a.group = i → a.reply ≠ none)
    fun s t =>
      let w := s.window (s.partOf (s.group i)) (s.group i).loc.cell
      (t.group i).ctl.drained = true ∧ SameRegs (s.group i) (t.group i) ∧
      FifoEntry.marker i ∉ (t.window (s.partOf (s.group i)) (s.group i).loc.cell).fifo ∧
      ∀ ln ∈ linesAhead i w.fifo, ∀ x, w.line? ln = some x → x.uncommitted = 0#128 → ∀ b, b < 128 →
        x.dirty.getLsbD b = true → t.mem.get (128 * ln + b) = w.cache.get (128 * ln + b)) ∧
  (∀ i, Happens (.groupSlotRelease i)
    (fun s => i < s.groups.length ∧ (s.group i).regs.pend = [] ∧
      ((s.group i).ctl.status = .ended ∨ (s.group i).ctl.status = .endedTail) ∧ s.groupQuiet i = true)
    fun _ t => (t.group i).ctl.status = .free) ∧
  (∀ i, Happens (.trackerEntryFree i)
    (fun s => i < s.groups.length ∧ (s.group i).ctl.status = .tracked ∧ s.groupQuiet i = true)
    fun _ t => (t.group i).ctl.status = .free) ∧
  ∀ cell quad c va e p, Happens (.tlbWalkComplete cell quad c va)
    (fun s => s.panes[cell / 8]? = some p ∧ (⟨cell, quad, c, va⟩ : Walk) ∈ p.walks.take 16 ∧
      s.tlb1 cell quad (s.ctxFunc c) (s.ctx c).asid va = none ∧ s.tlb2 cell (s.ctxFunc c) (s.ctx c).asid va = none ∧
      s.walk1 (s.ctxFunc c) va 4 (s.ctx c).s1root 0 = .ok e ∧ (∃ x, s.cells[cell]? = some x ∧ quad < x.quads.length) ∧
      (s.quadAt cell quad).tlb.length < 64 ∧
      (p.tlb.filter fun x => x.set == ({ e with asid := (s.ctx c).asid } : TlbEntry).set).length < 8)
    fun s t => (t.quadAt cell quad).tlb = (s.quadAt cell quad).tlb ++ [{ e with asid := (s.ctx c).asid }] ∧
      (t.panes[cell / 8]?).map (·.tlb) = some (p.tlb ++ [{ e with asid := (s.ctx c).asid }]) ∧
      (t.panes[cell / 8]?).map (·.walks) = some (p.walks.erase ⟨cell, quad, c, va⟩) ∧
      SameMem s t ∧ t.groups = s.groups

/-- 15 R422 to R425, R428, R431; 11 R303: an atomic is performed at the home copy and answered in its return slot; a hod
copy is carried out whole; a message goes to the queue of its cell. The model's own readings and choices that it rests
on: log entries 56 and 78. -/
def Obligations.RequestsCarriedOut : Prop :=
  (∀ k r, Happens (.atomicPerform k)
    (fun s => s.atoms[k]? = some r ∧ s.atomNext k = true ∧ s.memPoison.hit r.pa (if r.wide then 8 else 4) = none)
    fun s t =>
      let n := if r.wide then 8 else 4
      let m := leValue (s.mem.bytes r.pa n)
      (∀ a, t.mem.get a = (s.mem.put r.pa (leBytes n (atomNew r.op m r.v r.c))).get a) ∧
      (r.slot = none → t.atoms = s.atoms.eraseIdx k) ∧
      ∀ j, r.slot = some j → t.atoms = s.atoms.set k { r with reply := some m }) ∧
  (∀ k r slot m, Happens (.atomReply k)
    (fun s => s.atoms[k]? = some r ∧ r.slot = some slot ∧ r.reply = some m ∧ r.group < s.groups.length ∧
      (s.group r.group).ctl.status ≠ .free ∧ (s.group r.group).ctl.status ≠ .tracked)
    fun s t =>
      let g := s.group r.group
      t.atoms = s.atoms.eraseIdx k ∧
      t.winRead (s.partOf g) g.loc.cell (s.rslotAddr g slot r.lane) 8 = leBytes 8 m ∧
      (t.group r.group).asy.rsOut.getD slot 0#32 = g.asy.rsOut.getD slot 0#32 &&& ~~~(1#32 <<< r.lane) ∧
      ∀ p ∈ g.regs.pend, p.ready = false → (∃ w, p.kind = .rslot slot w) →
        g.asy.rsOut.getD slot 0#32 &&& ~~~(1#32 <<< r.lane) = 0#32 →
        ∃ q ∈ (t.group r.group).regs.pend, q.ready = true ∧ q.regs = p.regs ∧ q.lanes = p.lanes ∧ q.kind = p.kind) ∧
  (∀ cell quad k r, Happens (.hodOpComplete cell quad k)
    (fun s =>
      let g := s.group r.group
      let d := HodDesc.parse r.desc
      let bl := s.block g.id.block
      (hodQueue s cell quad)[k]? = some r ∧ k < 4 ∧ r.fn = 0 ∧ r.aux = 0 ∧ r.bobj = none ∧ s.boundsOf g.id.ctx = [] ∧
      bl.fdom ≠ .rollback ∧
      d.srcSeg = true ∧ d.dstSeg = true ∧ d.dims = 1 ∧
      bl.segOk d.src (d.n.getD 0 0 * d.esz) = true ∧ bl.segOk d.dst (d.n.getD 0 0 * d.esz) = true ∧
      (d.src + d.n.getD 0 0 * d.esz ≤ d.dst ∨ d.dst + d.n.getD 0 0 * d.esz ≤ d.src))
    fun s t =>
      let g := s.group r.group
      let d := HodDesc.parse r.desc
      hodQueue t cell quad = (hodQueue s cell quad).eraseIdx k ∧
      StoresSeg s t g.id.block g.loc.cell d.dst (d.n.getD 0 0 * d.esz) ∧
      t.segRead g.id.block g.loc.cell d.dst (d.n.getD 0 0 * d.esz) =
        s.segRead g.id.block g.loc.cell d.src (d.n.getD 0 0 * d.esz)) ∧
  ∀ k x, Happens (.msgDeliver k)
    (fun s => s.msgs[k]? = some x ∧ x.granted = true ∧ (∀ y ∈ s.msgs.take k, y.group = x.group → y.dest ≠ x.dest) ∧
      (s.block (s.group x.group).id.block).fdom ≠ .rollback ∧
      (s.window (s.ctx x.msg.ctx).part x.dest).msgs.length < 64 * (s.heldQuads (s.ctx x.msg.ctx).part x.dest).length)
    fun s t => t.msgs = s.msgs.eraseIdx k ∧ (∀ a, t.mem.get a = s.mem.get a) ∧
      (t.window (s.ctx x.msg.ctx).part x.dest).msgs = (s.window (s.ctx x.msg.ctx).part x.dest).msgs ++ [x.msg]

/-- 16 R443, R446, R452, R457, R459, R460; 10 R286: in its group's turn the matrix engine takes the operation at the head of its queue.
A K-step of INT8 operands adds the products of each row of A and of B to the accumulator, saturated; the other
operations are performed whole. The model's own readings and choices that it rests on: log entries 29 and 80. -/
def Obligations.MatrixEngine : Prop :=
  (∀ i, Happens (.kstep i)
    (fun s => i < s.groups.length ∧ s.engineRuns i = true ∧ s.beadTurn i = true ∧
      let g := s.group i
      ∃ e rest clear cb va vb q, g.mat.queue = e :: rest ∧ e.op = .mma clear cb (.cell va) (.cell vb) ∧
        e.kdone < modeKsteps g.mat.mode ∧ modeFmt g.mat.mode false = 6 ∧ modeFmt g.mat.mode true = 6 ∧
        modeAcc g.mat.mode = 9 ∧ modeSfmt g.mat.mode false = 0 ∧ modeSfmt g.mat.mode true = 0 ∧
        s.quadOf g = some q ∧ q.boardPoison = [] ∧ (s.window (s.block g.id.block).part g.loc.cell).poison = [])
    fun s t =>
      let g := s.group i
      ∀ e rest clear cb va vb, g.mat.queue = e :: rest → e.op = .mma clear cb (.cell va) (.cell vb) →
        (t.group i).mat.queue = { e with kdone := e.kdone + 1 } :: rest ∧ SameMem s t ∧
        ∀ x, x < 128 →
          let byte (v r k : Nat) : Int := ((s.segRead g.id.block g.loc.cell (cellRow v e.kdone r) 64).getD k 0#8).toInt
          let old : Int := if clear = true ∧ e.kdone = 0 then 0 else ((s.tile g cb).getD x 0#32).toInt
          let sum : Int := old + ((List.range 64).map fun k => byte va (x / 8) k * byte vb (x % 8) k).sum
          (t.tile g cb).getD x 0#32 = BitVec.ofInt 32 (max (-2147483648) (min 2147483647 sum))) ∧
  ∀ i e rest q, Happens (.matrixOpComplete i)
    (fun s => i < s.groups.length ∧ s.engineRuns i = true ∧ (s.group i).mat.queue = e :: rest ∧
      ((∃ clear cb a b, e.op = .mma clear cb a b) ∨ s.beadTurn i = true) ∧
      s.quadOf (s.group i) = some q ∧ q.boardPoison = [] ∧
      ∀ clear cb a b, e.op = .mma clear cb a b → modeKsteps (s.group i).mat.mode ≤ e.kdone)
    fun s t =>
      let g := s.group i
      (t.group i).mat.queue = rest ∧
      (∀ m, e.op = .mode m → (t.group i).mat.mode = m) ∧
      (∀ c n, (e.op = .zero c ∧ n = 1) ∨ e.op = .clear c n →
        ∀ b, (t.tile g b) = if c ≤ b ∧ b < c + n then zeroTile else s.tile g b) ∧
      (∀ c f, e.op = .scale c f → ∀ x, x < 128 → (t.tile g c).getD x 0#32 =
        BitVec.ofNat 32 (fMul fp32 false ((s.tile g c).getD x 0#32).toNat f).1) ∧
      (∀ c v, e.op = .load c v → ∀ x, x < 128 → (t.tile g c).getD x 0#32 =
        bytesWord (s.segRead g.id.block g.loc.cell (cellRow v 0 (x / 8) + 4 * (x % 8)) 4)) ∧
      (∀ r src n dst obj, e.op = .fillK r src n dst obj → ∃ q', t.quadOf g = some q' ∧
        q'.palette.bytes (r.base + dst) n = s.segRead g.id.block g.loc.cell src n ∧
        ∀ a, ¬(r.base + dst ≤ a ∧ a < r.base + dst + n) → q'.palette.get a = q.palette.get a) ∧
      ∀ b, e.op = .release (some b) → ∃ q', t.quadOf g = some q' ∧ ∀ x ∈ q'.palUnits, x.1 ≠ b

/-- 17 R471 to R474, R488 to R494; 07 R210, R213, R214: tickets, flushes and stores of tiles, forced renders, results of
texture and trace requests, results written into continuation records, and relaunch. The model's own readings and
choices that it rests on: log entries 28, 45, 52 and 56. -/
def Obligations.GraphicsUnits : Prop :=
  (∀ k p, Happens (.forcedRender k)
    (fun s => s.passes[k]? = some p ∧ p.starved = true ∧ p.render = none ∧ p.closed = false)
    fun s t => t.passes = s.passes.set k { p with starved := false, render := some p.nextPseq } ∧ SameMem s t) ∧
  (∀ k n p c, Happens (.ticketDone k n)
    (fun s => s.passes[k]? = some p ∧ (p.tile n).cur = some c ∧ (1 ∈ c.halves → p.discard = true) ∧
      s.ticketBound c.id = false)
    fun s t => SameMem s t ∧ ∃ p', t.passes[k]? = some p' ∧ (p'.tile n).cur = none ∧ (p'.tile n).next = c.pseq + 1) ∧
  (∀ k n p cell off, Happens (.tileFlush k n)
    (fun s => s.passes[k]? = some p ∧ (p.tile n).mem = some (cell, off) ∧ p.render ≠ none ∧ p.closed = false ∧
      (p.tile n).cur = none ∧ p.nextPrim n = none)
    fun s t => (∃ p', t.passes[k]? = some p' ∧ (p'.tile n).mem = none ∧ (p'.tile n).flushed = true) ∧
      (∀ a ∈ (t.window (s.passPart p) cell).allocs, a.1 ≠ off) ∧
      ∀ q c a, (t.window q c).mem.get a = (s.window q c).mem.get a) ∧
  (∀ k n p, Happens (.tileStore k n)
    (fun s => s.passes[k]? = some p ∧ p.closed = true ∧ n < p.tw * p.th ∧ (p.tile n).stored = false ∧
      (p.tile n).cur = none ∧ p.nextPrim n = none)
    fun _ t => (∃ m, m < p.tw * p.th ∧ m ≠ n ∧ (p.tile m).stored = false) → (p.tiles.map (·.tile)).Nodup →
      (∀ x ∈ p.tiles, x.tile < p.tw * p.th) →
      ∃ p', t.passes[k]? = some p' ∧ (p'.tile n).stored = true ∧ (p'.tile n).mem = none) ∧
  (∀ k p cell off pa, Happens (.tileStore k 0)
    (fun s => s.passes[k]? = some p ∧ p.closed = true ∧ p.w = 1 ∧ p.h = 1 ∧ p.samples = 1 ∧ 0 < p.tw * p.th ∧
      (p.tile 0).stored = false ∧ (p.tile 0).cur = none ∧ p.nextPrim 0 = none ∧ (p.tile 0).mem = some (cell, off) ∧
      (p.tile 0).touched = true ∧ p.flag 2 = false ∧ (s.window (s.passPart p) cell).poison = [] ∧
      p.field 0x20 8 % 4096 + p.pixBytes ≤ 4096 ∧ s.screedX p true (p.field 0x20 8) = .ok pa)
    fun s t => ∀ a, t.mem.get a = (s.mem.put pa (p.pixelBytes [(List.range 4).map fun j =>
      leValue ((s.window (s.passPart p) cell).mem.bytes (off + 4 + 2 * j) 2)])).get a) ∧
  (∀ k r b, Happens (.texComplete k)
    (fun s => s.texs[k]? = some r ∧ r.granted = true ∧ r.cont = [] ∧ r.group < s.groups.length ∧
      (s.block (s.group r.group).id.block).fdom ≠ .rollback ∧
      (∃ m, s.texRead (s.group r.group) 2 r.desc 32 = .ok (b, m) ∧ m.poison = none) ∧ textureOk b = true ∧
      ∀ l ∈ r.lanes.toList, (s.texLane (s.group r.group) r (Texture.parse b) l).2.fault = none ∧
        (s.texLane (s.group r.group) r (Texture.parse b) l).2.met.poison = none)
    fun s t => t.texs = s.texs.eraseIdx k ∧ SameMem s t ∧
      ∀ p ∈ (s.group r.group).regs.pend, p.kind = .op r.op → ∃ p' ∈ (t.group r.group).regs.pend,
        p'.regs = p.regs ∧ p'.lanes = p.lanes ∧ p'.ready = true ∧ p'.poison = none ∧
        ∀ l ∈ r.lanes.toList, p.lanes.has l = true →
          p'.vals.getD l [] = (s.texLane (s.group r.group) r (Texture.parse b) l).1) ∧
  (∀ k r, Happens (.traceComplete k)
    (fun s => s.traces[k]? = some r ∧ r.granted = true ∧ r.cont = [] ∧ r.group < s.groups.length ∧
      (s.block (s.group r.group).id.block).fdom ≠ .rollback ∧ (r.lanes.map (·.1)).Nodup ∧
      ∀ x ∈ r.lanes, ∃ a b c d m, s.traceLane (s.group r.group) r x.2 = (TravLane.done a b c d, none, none, m) ∧
        m.poison = none)
    fun s t => t.traces = s.traces.eraseIdx k ∧ SameMem s t ∧
      ∀ p ∈ (s.group r.group).regs.pend, p.kind = .op r.op → ∃ p' ∈ (t.group r.group).regs.pend,
        p'.regs = p.regs ∧ p'.lanes = p.lanes ∧ p'.ready = true ∧
        ∀ x ∈ r.lanes, x.1 < 32 → p.lanes.has x.1 = true → ∀ a b c d,
          (s.traceLane (s.group r.group) r x.2).1 = TravLane.done a b c d → p'.vals.getD x.1 [] = [a, b, c, d]) ∧
  (∀ k w e, Happens (.contResultWrite k)
    (fun s =>
      let r := w.ref
      let g := s.group r.group
      s.contWrites[k]? = some w ∧ w.granted = true ∧ s.inRecord r = true ∧ r.base + 128 * 36 ≤ 2 ^ 48 ∧ e.w = true ∧
      (g.id.sys = true ∨ e.u = true) ∧ ∀ j, j < 36 →
        s.tlbLookup g.loc.cell g.loc.quad (s.ctxFunc g.id.ctx) (s.ctx g.id.ctx).asid (r.base + 128 * j) = some e)
    fun s t =>
      let r := w.ref
      let live := bytesWord (s.mem.bytes (e.phys r.base) 4) ||| Lanes.ofFn 32 fun n => r.regs.contains n
      t.contWrites = s.contWrites.eraseIdx k ∧ bytesWord (t.mem.bytes (e.phys r.base) 4) = live ∧
      (∀ j m n, (liveRegs live)[j]? = some n → r.regs[m]? = some n → n ∉ r.regs.take m →
        bytesWord (t.mem.bytes (e.phys (r.base + 128 * (4 + j))) 4) = w.vals.getD m 0#32) ∧
      ∀ c ∈ t.cells, ∀ x ∈ c.index, x.block = r.block → x.seg = r.seg → x.tidx = r.tidx → x.ready = true) ∧
  ∀ cell c b r p, Happens (.regroupRelaunch cell)
    (fun s => s.hub.save = none ∧ s.cells[cell]? = some c ∧ c.index ≠ [] ∧ (∀ x ∈ c.index, x.bucket = b) ∧
      s.bucketDue cell c.index b.block = true ∧ (s.block b.block).resident = true ∧
      s.regions[(s.block b.block).region]? = some r ∧ readyUnits b.quad c.index ≠ [] ∧
      s.placeOne (((List.range 4).filter fun q => s.eligible r cell q).map fun q => (cell, q)) s.room
        ⟨(r.segs.getD b.seg ⟨false, .general, 0, 0, 0, 0#64⟩).entries, false, some cell, []⟩ = some p)
    fun s t =>
      let es := ((readyUnits b.quad c.index).take (if b.quad then 8 else 32)).flatten
      let h := t.group s.groups.length
      h.loc = p.1.1 ∧ h.id.block = b.block ∧ h.id.seg = b.seg ∧ h.id.relaunched = true ∧ h.ctl.pc = b.resume ∧
      h.ctl.live = firstLanes es.length ∧ h.ctl.act = firstLanes es.length ∧
      (∀ l, l < es.length → l < 32 → h.id.tidx.getD l 0 = (es.map (·.tidx)).getD l 0) ∧
      ∃ c', t.cells[cell]? = some c' ∧ ∀ x ∈ c'.index, ∀ y ∈ es, x.tidx ≠ y.tidx

/-- 06 R168, R172, R176, R185 to R187; 07 R208; 05 R142; 03 R91 to R93: a block is placed, slices end and are renewed, a
block is evicted, a region completes, a block goes back to its latest barrier, a posted region is taken, a recarve
ends. The model's own readings and choices that it rests on: log entries 26, 27 and 49. -/
def Obligations.SchedulerSteps : Prop :=
  (∀ part k rest r pl pool, Happens (.blockPlace part)
    (fun s => s.hub.save = none ∧ s.waitList part = ⟨k, none⟩ :: rest ∧ s.regions[k]? = some r ∧ r.gang = false ∧
      s.plan k r (fun c q => s.eligible r c q && !([] : List (Nat × Nat)).contains (c, q)) s.room r.ask = some pl ∧
      s.takePool r pl.cells.length = some pool)
    fun s t =>
      let b := s.blocks.length
      let gs := (groupsOf r.segs).zip pl.locs
      t.blocks.length = b + 1 ∧ (t.block b).region = k ∧ (t.block b).index = r.nextBlock ∧ (t.block b).cells = pl.cells ∧
      (t.block b).resident = true ∧ (t.block b).segBase = pl.segs ∧
      (∃ r', t.regions[k]? = some r' ∧ r'.nextBlock = r.nextBlock + 1) ∧
      t.groups.length = s.groups.length + gs.length ∧
      ∀ j x, gs[j]? = some x →
        let h := t.group (s.groups.length + j)
        h.loc = x.2.1 ∧ h.id.block = b ∧ h.id.seg = x.1.1 ∧ h.ctl.live = firstLanes x.1.2.2 ∧ h.id.ctx = r.ctx ∧
        h.ctl.pc = (r.segs.getD x.1.1 ⟨false, .general, 0, 0, 0, 0#64⟩).pc) ∧
  (∀ r c x, Happens (.sliceEnd r c)
    (fun s => s.regions[r]? = some x ∧ c ∈ x.sliceEnded ∧ s.waitsFor r c false = false)
    fun _ t => ∃ x', t.regions[r]? = some x' ∧ c ∉ x'.sliceEnded) ∧
  (∀ r c x, Happens (.sliceEnd r c)
    (fun s => s.regions[r]? = some x ∧ c ∉ x.sliceEnded ∧ x.slice ≤ x.chargeOn c ∧ s.waitsFor r c false = true)
    fun s t => (∃ x', t.regions[r]? = some x' ∧ c ∈ x'.sliceEnded) ∧
      ∀ i, i < s.groups.length → (s.group i).inSlot = true → (s.block (s.group i).id.block).region = r →
        (s.block (s.group i).id.block).resident = true → (s.group i).id.block < s.blocks.length →
        c ∈ (s.block (s.group i).id.block).cells → (s.group i).ctl.status ≠ .ended → (s.group i).ctl.status ≠ .endedTail →
        (t.group i).ctl.sliceWait = true ∧ (t.group i).regs = (s.group i).regs ∧
        ((s.group i).ctl.status = .ready → (s.group i).ctl.sliceWait = false → (s.group i).inGate = false →
          (t.group i).ctl.status = .blocked .slice)) ∧
  (∀ r c x, Happens (.sliceEnd r c)
    (fun s => s.regions[r]? = some x ∧ c ∉ x.sliceEnded ∧ x.slice ≤ x.chargeOn c ∧ s.waitsFor r c false = false)
    fun s t => t.groups = s.groups ∧ ∃ x', t.regions[r]? = some x' ∧ x'.chargeOn c = 0) ∧
  (∀ b, Happens (.blockEvict b) (fun s => s.canEvict b = true ∧ s.together b = [b] ∧ b < s.blocks.length)
    fun s t => (t.block b).resident = false ∧ (t.block b).image.isSome = true ∧
      (∀ c ∈ t.cells, ∀ e ∈ c.index, e.block ≠ b) ∧
      ∀ i ∈ s.savable b, ∃ w, (t.group i).ctl.status = .evicted w) ∧
  (∀ r x, Happens (.regionComplete r)
    (fun s => s.regions[r]? = some x ∧ x.complete = false ∧ s.regionEnded r = true ∧ (∀ p ∈ s.passes, p.region ≠ r) ∧
      (∀ y ∈ s.regions, y.parent = some r → y.complete = true) ∧ s.writesDone r = true ∧ x.doneAddr = 0#64 ∧
      x.doneIrq = false)
    fun s t => (∀ p c a, (t.window p c).mem.get a = (s.window p c).mem.get a) ∧
      (∀ i, SameRegs (s.group i) (t.group i) ∧ (t.group i).ctl = (s.group i).ctl) ∧
      (∀ b ∈ s.blocks, b.region = r → ∀ c ∈ b.cells, ∀ l y, (t.window x.part c).line? l = some y → y.uncommitted = 0#128 →
        y.dirty = 0#128) ∧
      ∃ x', t.regions[r]? = some x' ∧ x'.complete = true) ∧
  (∀ b h, Happens (.rollback b)
    (fun s => b < s.blocks.length ∧ (s.block b).shadow = some h ∧ (s.block b).rollPending = true ∧ s.restorable b = true)
    fun s t => (t.block b).retries = (s.block b).retries + 1 ∧ (t.block b).rollPending = false ∧
      (∀ x ∈ h.segs, (h.segs.map (·.1)).Nodup → x.2.wf = true → ∀ a, a < (s.block b).shared →
        (t.window (s.block b).part x.1).mem.get ((s.block b).seg x.1 + a) = x.2.get a) ∧
      ∀ x ∈ h.groups, (h.groups.map (·.1)).Nodup → x.1 < s.groups.length → (s.group x.1).id.block = b →
        (∀ r, (x.2.vreg r).tag = 0) →
        (t.group x.1).regs.v = x.2.regs.v ∧ (t.group x.1).regs.s = x.2.regs.s ∧ (t.group x.1).ctl.pc = x.2.ctl.pc ∧
        (t.group x.1).ctl.act = x.2.ctl.act ∧ (t.group x.1).ctl.live = x.2.ctl.live) ∧
  (∀ f cls fn c rcb rest, Happens (.postTake f cls)
    (fun s => s.hub.fns[f]? = some fn ∧ fn.queue.getD cls [] = (c, rcb) :: rest ∧ s.hub.save = none ∧ (s.ctx c).state ≠ 5 ∧
      cls < fn.queue.length)
    fun s t =>
      let s1 : State := { s with hub := { s.hub with fns := s.hub.fns.set f { fn with queue := fn.queue.set cls rest } } }
      (∃ fn', t.hub.fns[f]? = some fn' ∧ fn'.queue.getD cls [] = rest) ∧
      ((s1.take c cls rcb none none).2 = 0 → ∃ x, t.regions = s.regions ++ [x] ∧ x.ctx = c ∧ x.complete = false)) ∧
  (∀ k x, Happens (.shrinkComplete k)
    (fun s => s.hub.recarves[k]? = some x ∧ s.left x = true ∧ x.fence = false ∧ x.cell < s.cells.length)
    fun s t => t.hub.recarves = s.hub.recarves.eraseIdx k ∧ ∀ q, q < (s.cells.getD x.cell Cell.reset).quads.length →
      bit x.qmask q = true → q < 4 → (x.grow = true ∨ (s.quadAt x.cell q).owner = x.part) → (t.quadAt x.cell q).owned = x.grow ∧ (x.grow = true → (t.quadAt x.cell q).owner = x.part)) ∧
  ∀ k x, Happens (.deferredLaunchEviction k)
    (fun s => s.hub.recarves[k]? = some x ∧ x.deferred = true ∧ (∀ b ∈ x.blocks, b < s.blocks.length) ∧
      ∀ b ∈ x.blocks, s.leavesFor x b = true → s.canEvict b = true)
    fun s t => ∀ b ∈ x.blocks, s.leavesFor x b = true → (t.block b).resident = false

/-- 01 R16 to R19; 02 R42, R61, R72, R73; 05 R156 to R163: resets, the references, the boot, the hold-up save. The
model's own readings and choices that it rests on: log entries 41, 63 and 74. -/
def Obligations.ResetsBootAndHoldUp : Prop :=
  (∀ sa boot train, Happens (.porReset sa boot train) (fun s => s.hub.save = none ∧ s.hub.ttCmd = none) fun s t =>
    t.groups = [] ∧ t.blocks = [] ∧ t.regions = [] ∧ t.mem = [] ∧ t.windows = [] ∧ t.ctxs = State.reset.ctxs ∧
    t.cells = State.reset.cells ∧ t.panes = State.reset.panes ∧ t.hv = 0 ∧ t.hub.boot = (if boot = 0 then 1 else 2) ∧
    t.hub.strapSa = sa % 4 ∧ t.hub.keep = s.hub.keep ∧ t.hub.pipes = Hub.reset.pipes) ∧
  (∀ train, Happens (.perstReset train) (fun s => s.hub.save = none ∧ s.hub.ttCmd = none ∧ s.hub.dstate ≠ 2) fun s t =>
    t.groups = [] ∧ t.regions = [] ∧ t.cells = State.reset.cells ∧ t.mem = s.mem ∧ t.hv = s.hv ∧
    t.hub.clamp = s.hub.clamp ∧ t.hub.ready = s.hub.ready ∧ t.hub.keep = s.hub.keep ∧ t.hub.rung = 5 ∧
    t.hub.rungTgt = 0xFF ∧ t.hub.boot = (if s.hub.strapBoot then 2 else 1)) ∧
  Happens .sysclkFault (fun _ => True) (fun s t => t = { s with hub := { s.hub with sysclk := false, sysclkErr := true } }) ∧
  Happens .sysclkReturn (fun _ => True) (fun s t => t = { s with hub := { s.hub with sysclk := true } }) ∧
  Happens .dclkFault (fun _ => True) (fun s t => t.hub.dclk = false ∧ t.hub.dclkErr = true ∧ t.hub.faultN = true ∧
    t.groups = s.groups ∧ (s.hub.faultN = false → s.hub.i3cIbi = none → t.hub.i3cIbi = some 1)) ∧
  Happens .dclkReturn (fun _ => True) (fun s t => t = { s with hub := { s.hub with dclk := true } }) ∧
  Happens .lockstepMismatch (fun _ => True) (fun s t => t.hub.lockstep = true ∧ t.hub.faultN = true ∧ t.groups = s.groups) ∧
  Happens .thermtrip (fun _ => True) (fun s t => t = { s with hub := { s.hub with thermtrip := true } }) ∧
  (∀ rails, Happens (.supplyLoss rails) (fun s => s.hub.lost = false) fun s t =>
    t.hub.lost = true ∧ t.hub.switch = true ∧ t.hub.ready = false ∧ t.hub.keepCmd = none ∧ t.hv = s.hv ∧
    (s.hub.ready = false → s.hub.ttCmd = none →
      t = { s with hub := { s.hub with lost := true, switch := true, ready := false, keepCmd := none } }) ∧
    (s.hub.ready = true → ∃ v, t.hub.save = some v ∧ v.event = 0 ∧ v.time = s.hv ∧ v.written = false)) ∧
  (∀ k v x, Happens (.handlerBudgetExpiry k)
    (fun s => s.hub.save = some v ∧ v.handlers[k]? = some x ∧ x.expired = false ∧ s.handlerDone x = false ∧
      x.deadline ≤ s.hv ∧ x.group < s.groups.length)
    fun _ t => (t.group x.group).ctl.live = 0#32 ∧ ∃ v' x', t.hub.save = some v' ∧ v'.handlers[k]? = some x' ∧
      x'.expired = true ∧ x'.group = x.group) ∧
  (∀ v rs, Happens .holdupSaveComplete
    (fun s => s.hub.save = some v ∧ v.written = false ∧ v.regions = some rs)
    fun s t => t.hub.save = some { v with written := true } ∧ t.groups = s.groups ∧
      t.hub.keep.bytes (slotBase s.hub.saveSlot + 2) 2 = leBytes 2 2 ∧
      t.hub.dstate = if v.event = 1 then 2 else s.hub.dstate) ∧
  Happens .reserveCharged (fun _ => True) (fun s t => t = { s with hub := { s.hub with ready := true } }) ∧
  (∀ v, Happens (.bootGo v) (fun s => s.hub.boot = 2 ∧ bit v 0 = true) fun s t =>
    t = { s with hub := { s.hub with boot := 3 } }) ∧
  ∀ sig key gen build raise, Happens (.firmwareImageCheck sig key gen build raise)
    (fun s => s.hub.boot = 1 ∨ s.hub.boot = 3) fun s t =>
      (sig = 0 ∨ key = 0 → t.hub.boot = 5 ∧ t.hub.fwGen = s.hub.fwGen) ∧
      (sig ≠ 0 → key ≠ 0 → gen < max Config.fusedFloor s.hub.fwFloor → t.hub.boot = 6 ∧ t.hub.fwGen = s.hub.fwGen) ∧
      (sig ≠ 0 → key ≠ 0 → max Config.fusedFloor s.hub.fwFloor ≤ gen → t.hub.fwGen = gen % 2 ^ 32 ∧
        t.hub.fwBuild = build % 2 ^ 32 ∧ s.hub.fwFloor ≤ t.hub.fwFloor ∧
        ((∀ c ∈ s.hub.chanMap, c ≠ none) → t.hub.boot = 4))

/-- 02 R57 to R66; 01 R25: power commands wait for their end, one at a time; at the end the transition stands, or the
result tells why not; the clamp lowers the levels of the cells it affects a step at a time and gives them back; the
link's state. The model's own readings and choices that it rests on: log entries 31, 65 and 75. -/
def Obligations.PowerAndClamp : Prop :=
  (∀ (v : Nat) (e : Instr), e = .powerCmdCell v ∨ e = .powerCmdPane v →
    Happens e (fun s => s.hub.power.cmd = none) (fun s t => t.panes = s.panes ∧ t.groups = s.groups ∧
      (∀ (c : Nat) (x : Cell), s.cells[c]? = some x → t.cells[c]? = some { x with idling := x.idling ||
        (decide (e = .powerCmdCell v) && (s.idlingCells (putBits v 31 30 0)).contains c) }) ∧
      t.hub.power.cmd = some (putBits v 31 30 (if e = .powerCmdCell v then 0 else 1)) ∧
      t.hub.power.tag = bits v 15 8) ∧
    Happens e (fun s => s.hub.power.cmd ≠ none) fun s t =>
      t = { s with hub := { s.hub with power := { s.hub.power with dropped := true } } }) ∧
  (∀ v, Happens (.powerCmdDevice v) (fun s => s.hub.power.cmd = none ∧ bits v 23 20 ≠ 2) fun s t =>
    t.cells = s.cells ∧ t.panes = s.panes ∧ t.groups = s.groups ∧ t.hub.power.cmd = some (putBits v 31 30 2) ∧
    t.hub.power.tag = bits v 15 8) ∧
  (∀ v, Happens (.dHold v) (fun s => s.hub.power.cmd = none ∧ s.hub.dstate = 0 ∧ s.hub.save = none) fun s t =>
    t.hub.power.cmd.isSome = true ∧ t.hub.lost = true ∧ ∃ x, t.hub.save = some x ∧ x.event = 1 ∧ x.time = s.hv) ∧
  (∀ (rail v c : Nat) (x : Cell) (p : Pane), Happens (.powerCmdComplete rail)
    (fun s => s.hub.power.cmd = some v ∧ bits v 31 30 = 0 ∧ bit v 16 = false ∧ bits v 23 20 = 0 ∧ bits v 29 24 = c ∧
      bits v 19 17 ≤ 5 ∧ c < 32 ∧ s.hub.inService c = true ∧ s.cells[c]? = some x ∧ s.panes[paneOf c]? = some p ∧
      s.hub.dstate = 0 ∧ x.power = .off ∧ p.power = .on ∧ s.hub.clamp.on = false)
    fun s t => t.hub.power.cmd = none ∧ t.hub.power.result = 0 ∧
      (∃ x', t.cells[c]? = some x' ∧ x'.power = .act ∧ x'.level = bits v 19 17 ∧ x'.effLevel = bits v 19 17 ∧
        x'.counter = 0) ∧ ∀ (d : Nat) (y : Cell), d ≠ c → s.cells[d]? = some y → t.cells[d]? = some { y with idling := false }) ∧
  (∀ (rail v : Nat), Happens (.powerCmdComplete rail)
    (fun s => s.hub.power.cmd = some v ∧ bits v 31 30 = 1 ∧ bits v 29 24 < 4 ∧ bits v 23 20 ≤ 2 ∧ s.hub.dstate = 0)
    fun s t => t.hub.power.cmd = none ∧
      (s.paneMove (rail != 0) (bits v 23 20) (bits v 29 24) = 0 → bits v 29 24 < s.panes.length → t.hub.power.result = 0 ∧
        ∃ p, t.panes[bits v 29 24]? = some p ∧ p.power = paneState (bits v 23 20)) ∧
      (s.paneMove (rail != 0) (bits v 23 20) (bits v 29 24) ≠ 0 → t.hub.power.result = 1 ∧ t.panes = s.panes)) ∧
  (∀ kind pane temp, Happens (.clampTrigger kind pane temp) (fun s => s.hub.clamp.on = false) fun s t =>
    t.hub.clamp.on = true ∧ t.hub.clamp.kind = kind % 16 ∧ t.hub.clamp.active = true ∧
    t.hub.clamp.panes = (if kind = 3 ∨ pane = 4 then 15 else 2 ^ pane % 16) ∧ t.cells = s.cells) ∧
  (∀ k temp y, Happens (.clampStep ⟨k, temp⟩) (fun s => s.hub.clamp.causes[k]? = some y ∧ y.active = true) fun s t =>
    t.hub.clamp.causes = s.hub.clamp.causes.set k { y with steps := y.steps + 1 } ∧
    ∀ c x, s.cells[c]? = some x → ∃ x', t.cells[c]? = some x' ∧ x'.level = x.level ∧ x'.effLevel =
      if c ∈ s.hub.cellsIn y.panes then x.effLevel - (t.hub.clamp.steps (paneOf c) - s.hub.clamp.steps (paneOf c))
      else x.effLevel) ∧
  Happens .clampConditionClear (fun s => s.hub.clamp.active = true) (fun s t =>
    (∃ k y, s.hub.clamp.causes[k]? = some y ∧ y.active = true ∧
      t.hub.clamp.causes = s.hub.clamp.causes.set k { y with active := false }) ∧
    (s.hub.clamp.causes.length = 1 → t.hub.clamp.active = false) ∧ t.cells = s.cells ∧
    t.hub.clamp.on = s.hub.clamp.on) ∧
  Happens .clampConditionClear (fun s => s.hub.clamp.active = false) (fun s t => t = s) ∧
  (∀ (v same : Nat), Happens (.clampRelease v 0 same)
    (fun s => bit v 0 = true ∧ s.hub.clamp.active = false ∧ same = 0) fun s t => t.hub.clamp.on = false ∧
      ∀ c x, s.cells[c]? = some x → c ∈ s.hub.cellsIn s.hub.clamp.panes → ∃ x', t.cells[c]? = some x' ∧ x'.effLevel = x.level) ∧
  (∀ st width rate hot, Happens (.pcieLinkStateChange st width rate hot) (fun _ => linkOk st width rate = false)
    fun s t => t = s) ∧
  ∀ st width rate hot, Happens (.pcieLinkStateChange st width rate hot) (fun _ => linkOk st width rate = true) fun s t =>
    t.hub.link = st ∧ t.hub.linkWidth = width ∧ t.hub.linkRate = rate ∧ t.groups = s.groups ∧
    ∀ f x, s.hub.fns[f]? = some x → ∃ x', t.hub.fns[f]? = some x' ∧ x'.hot = bit hot f ∧ x'.queue = x.queue

/-- 02 R42 to R56, R69 to R71; 03 R84, R85: posts, RESYNC, the I3C target, register writes, and what virtual functions
ask. The model's own readings and choices that it rests on: log entries 30, 32, 61, 71 and 72. -/
def Obligations.HostRequests : Prop :=
  (∀ f cls v, Happens (.postRootRegion f cls 0 v)
    (fun s => s.answers f = true ∧ cls < 4 ∧ f < s.hub.fns.length ∧ (s.hub.fn f).queue.length = 4 ∧
      (s.hub.fn f).result.length = 4 ∧ ((s.hub.fn f).queue.getD cls []).length < 8 ∧ s.owns f (bits v 63 58) = true ∧
      bits v 57 48 = 0 ∧ s.hub.boot = 4 ∧ s.hub.dstate = 0 ∧ (s.ctx (bits v 63 58)).state ≠ 5)
    fun s t => t.groups = s.groups ∧ (t.hub.fn f).result.getD cls 1 = 0 ∧
      (t.hub.fn f).queue.getD cls [] = (s.hub.fn f).queue.getD cls [] ++ [(bits v 63 58, bits v 47 8 * 256)]) ∧
  (∀ f cls v, Happens (.postLowHalfWrite f cls v)
    (fun s => s.answers f = true ∧ cls < 4 ∧ f < s.hub.fns.length ∧ (s.hub.fn f).latch.length = 4)
    fun s t => (t.hub.fn f).latch.getD cls 0 = v % 2 ^ 32 ∧ (t.hub.fn f).queue = (s.hub.fn f).queue ∧ t.groups = s.groups) ∧
  (∀ f cls v, Happens (.resyncToWindow f cls 0 v)
    (fun s => s.answers f = true ∧ cls < 4 ∧ f < s.hub.fns.length ∧ (s.hub.fn f).result.length = 4)
    fun s t => (t.hub.fn f).window = s.summary f (((s.hub.fn f).seq + 1) % 2 ^ 32) ∧
      (t.hub.fn f).seq = ((s.hub.fn f).seq + 1) % 2 ^ 32 ∧ (t.hub.fn f).result.getD cls 1 = 0 ∧ t.mem = s.mem) ∧
  (∀ f cls v e, Happens (.resyncToMemory f cls 0 v)
    (fun s =>
      let c := bits v 63 58
      s.answers f = true ∧ cls < 4 ∧ f < s.hub.fns.length ∧ (s.hub.fn f).result.length = 4 ∧ s.owns f c = true ∧
      bits v 57 48 = 0 ∧ bit v 8 = false ∧ bits v 47 8 * 256 % 4096 ≤ 3584 ∧ s.hub.boot = 4 ∧ s.hub.dstate = 0 ∧
      s.walkPoison (s.ctxFunc c) (bits v 47 8 * 256) 4 (s.ctx c).s1root 0 = false ∧
      s.xlate Config.cells 0 c ⟨true, false, true⟩ (bits v 47 8 * 256) = .ok e)
    fun s t => (t.hub.fn f).result.getD cls 1 = 0 ∧ ∀ a, t.mem.get a =
      (s.mem.put (e.phys (bits v 47 8 * 256)) (s.summary f (((s.hub.fn f).seq + 1) % 2 ^ 32))).get a) ∧
  (∀ v same, Happens (.faultClear v 0 same)
    (fun s => s.hub.dclk = true ∧ same = 0 ∧ (s.hub.lockstep = true → bit v 2 = true) ∧ (s.hub.coatfail = true → bit v 1 = true))
    fun s t => t.hub.faultN = false ∧ t.hub.lockstep = false ∧ t.hub.coatfail = false ∧ t.groups = s.groups) ∧
  (∀ v, Happens (.armWrite v 0) (fun _ => True) fun s t =>
    t = { s with hub := { s.hub with armTx := v % 4, armI3c := bit v 2 } }) ∧
  (∀ v fw, Happens (.armWrite v (fw + 1)) (fun _ => True) fun s t =>
    t = { s with hub := { s.hub with denied := min 0xFFFFFFFF (s.hub.denied + 1) } }) ∧
  (∀ n v, Happens (.seamStatusClear n v 0) (fun s => n < s.hub.seams.length ∧ bit v 1 = true) fun s t =>
    ∃ x x', s.hub.seams[n]? = some x ∧ t.hub.seams[n]? = some x' ∧ x' = { x with retry := 0, crc := false }) ∧
  (∀ off n v, Happens (.registerWrite 0 off n v 0)
    (fun s => s.answers 0 = true ∧ 0x1000000 ≤ off ∧ off < 0x2000000 ∧ s.hub.boot = 2)
    fun s t => t.groups = s.groups ∧ ∀ a, t.hub.bootBuf.get a = (s.hub.bootBuf.put (off - 0x1000000) (leBytes n v)).get a) ∧
  Happens .i3cResync (fun _ => True) (fun s t => t.hub.i3cResp = some (s.summary 0 (((s.hub.fn 0).seq + 1) % 2 ^ 32))) ∧
  Happens .i3cStatus (fun _ => True) (fun s t => t.hub.i3cResp =
    some (leBytes 4 s.hub.devStatus ++ leBytes 4 s.hub.clamp.stat)) ∧
  (∀ same, Happens (.i3cFaultClear same) (fun _ => True) fun s t =>
    (s.hub.canClear (same != 0) = true → t.hub.faultN = false ∧ t.hub.i3cResp = some [0#8]) ∧
    (s.hub.canClear (same != 0) = false → t.hub.faultN = s.hub.faultN ∧ t.hub.i3cResp = some [1#8])) ∧
  (∀ m, Happens (.forceUndercoat m) (fun _ => m < 16) fun s t => t.hub.forced = s.hub.forced ||| m ∧
    t.hub.i3cResp = some [BitVec.ofNat 8 (s.hub.forced ||| m)]) ∧
  (∀ m, Happens (.releaseUndercoat m) (fun _ => m < 16) fun s t => ∀ b, b < 8 →
    t.hub.forced.testBit b = (s.hub.forced.testBit b && !m.testBit b)) ∧
  Happens .i3cHoldup (fun _ => True) (fun s t => ∃ r, t.hub.i3cResp = some r ∧ r.length = 5 ∧
    (r.headD 0#8).getLsbD 0 = s.hub.ready ∧ (r.headD 0#8).getLsbD 1 = s.hub.saving) ∧
  Happens .i3cUnknownCommand (fun _ => True) (fun s t => t.hub.i3cResp = none ∧ t.groups = s.groups) ∧
  Happens .i3cPrivateRead (fun _ => True) (fun s t => t.hub.i3cOut = s.hub.i3cResp.getD [0xEE#8] ∧ t.hub.i3cResp = none) ∧
  (∀ f item, Happens (.vfConfigRequest f item 0 0) (fun s => 0 < f ∧ s.present f = false) fun s t =>
    t = { s with hub := { s.hub with reply := .unsupported } }) ∧
  (∀ f, Happens (.vfConfigRequest f 0 0 0) (fun s => 0 < f ∧ s.present f = true) fun s t =>
    t = { s with hub := { s.hub with reply := .data (leBytes 2 0x0741) } }) ∧
  (∀ f item, Happens (.vfConfigRequest f item 0 0) (fun s => s.present f = true) fun s t =>
    t = { s with hub := { s.hub with reply := .data (s.configItem f item) } }) ∧
  (∀ f off n v a, Happens (.apertureRequest f off n 1 v)
    (fun s => s.present f = true ∧ 0 < n ∧ n ≤ 512 ∧ ∀ i, i < n → s.aperture f (off + i) = some (a + i))
    fun s t => ∀ x, t.mem.get x = (s.mem.put a (leBytes n v)).get x) ∧
  ∀ f, Happens (.functionLevelReset f) (fun s => 0 < f ∧ s.present f = true ∧ f < s.hub.fns.length) fun s t =>
    (t.hub.fn f).queue = HostFn.reset.queue ∧ t.mem = s.mem ∧
    ∀ c, c < 64 → s.owns f c = true → s.inUse c = true → (t.ctx c).state = 5

/-- 03 R82, R83, R89 to R104; 09 R265: partition commands, the reset ladder, the ways and bandwidth of the classes. The
model's own readings and choices that it rests on: log entries 35, 36, 38, 39, 66 and 67. -/
def Obligations.PartitionsAndResetLadder : Prop :=
  let free (s : State) : Prop := s.hub.part.cmd = none ∧ s.hub.boot = 4 ∧ s.hub.dstate ≠ 2
  let ended (t : State) (r : Nat) : Prop := t.hub.part.cmd = none ∧ t.hub.part.result = r
  (∀ v, Happens (.partCommit v 0) (fun s => free s ∧ s.breaksUse s.table = false) fun s t =>
    (s.table.failing = none → t.funcs = s.table.funcs ∧ t.partOwner = s.table.owners ∧ t.hub.detailGen = s.table.gen ∧
      ((s.commitTable s.table).inFlight (s.invalidCtxs s.table) = false → ended t 0) ∧
      ((s.commitTable s.table).inFlight (s.invalidCtxs s.table) = true →
        t.hub.part.cmd ≠ none ∧ t.hub.inval = s.invalidCtxs s.table)) ∧
    ∀ o, s.table.failing = some o → ended t 3 ∧ t.hub.detailOff = o ∧ t.funcs = s.funcs ∧ t.ctxs = s.ctxs ∧
      t.partOwner = s.partOwner) ∧
  (∀ v x, Happens (.partGrow v 0)
    (fun s => free s ∧ s.partOwner.getD (cmdPart v) 0xFF ≠ 0xFF ∧ s.hub.inService (cmdCell v) = true ∧ cmdQuads v ≠ [] ∧
      s.heldQuads (cmdPart v) (cmdCell v) = [] ∧ s.cells[cmdCell v]? = some x ∧ x.quads.length = 4 ∧
      ∀ q ∈ cmdQuads v, (s.quadAt (cmdCell v) q).owned = false ∧ (s.quadAt (cmdCell v) q).shrinkPending = false ∧
        s.underReset (cmdCell v) q = false)
    fun s t => ended t 0 ∧ (∀ q, q < 4 → (q ∈ cmdQuads v →
        (t.quadAt (cmdCell v) q).owned = true ∧ (t.quadAt (cmdCell v) q).owner = cmdPart v) ∧
      (q ∉ cmdQuads v → t.quadAt (cmdCell v) q = s.quadAt (cmdCell v) q))) ∧
  (∀ v p, Happens (.partShrink v 0)
    (fun s => free s ∧ cmdQuads v ≠ [] ∧ s.hub.recarves = [] ∧ s.blocksOn p (cmdCell v) = [] ∧
      (∀ g ∈ s.groups, g.loc.cell ≠ cmdCell v) ∧ (∀ q ∈ s.heldQuads p (cmdCell v), q ∈ cmdQuads v) ∧
      ∀ q ∈ cmdQuads v, (s.quadAt (cmdCell v) q).owned = true ∧ (s.quadAt (cmdCell v) q).owner = p ∧
        (s.quadAt (cmdCell v) q).shrinkPending = false ∧ (s.quadAt (cmdCell v) q).testing = false ∧
        s.underReset (cmdCell v) q = false)
    fun _ t => ended t 0 ∧ t.hub.recarves = [] ∧ ∀ q ∈ cmdQuads v, (t.quadAt (cmdCell v) q).owned = false ∧
      (t.quadAt (cmdCell v) q).tlb = [] ∧ (t.quadAt (cmdCell v) q).board = []) ∧
  (∀ v, Happens (.partCancel v 0)
    (fun s => s.hub.part.cmd = none ∧ s.hub.dstate ≠ 2 ∧ (∃ x ∈ s.hub.recarves, x.deferred = true ∧ x.fence = false ∧
      x.cell = cmdCell v ∧ ∃ q ∈ cmdQuads v, bit x.qmask q = true ∧ (s.quadAt (cmdCell v) q).shrinkPending = true) ∧
      ∀ y ∈ s.hub.recarves, y.began = false)
    fun s t => ended t 8 ∧
      (∀ x ∈ t.hub.recarves, ∃ y ∈ s.hub.recarves, x = { y with qmask := x.qmask } ∧
        ∀ q, q < 4 → bit x.qmask q = (bit y.qmask q && !(x.deferred && !x.fence && x.cell == cmdCell v &&
          (cmdQuads v).contains q && (s.quadAt (cmdCell v) q).shrinkPending))) ∧
      ∀ y ∈ s.hub.recarves, y.deferred = false ∨ y.fence = true ∨ y.cell ≠ cmdCell v → y ∈ t.hub.recarves) ∧
  (∀ v rung tgt, Happens (.rungReset v 0)
    (fun s => s.hub.part.cmd = none ∧ s.hub.dstate ≠ 2 ∧ rung = bits v 6 4 ∧ tgt = (if rung = 4 then cmdPart v else bits v 23 16) ∧
      s.rungOk rung tgt = true ∧ rung ≠ 5 ∧ s.hub.rungs.any (s.sameTarget rung tgt) = false)
    fun s t => t.hub.rung = rung ∧ t.hub.rungTgt = tgt ∧ t.hub.part.cmd ≠ none ∧
      t.hub.rungs = s.hub.rungs ++ [⟨rung, tgt, s.hv, s.rungCtxs rung tgt, some rung, false⟩] ∧
      ∀ c ∈ s.rungCtxs rung tgt, c < s.ctxs.length → (t.ctx c).state = 5) ∧
  (∀ v, Happens (.invCtx v 0) free fun s t =>
    ((s.drainCtxs [bits v 21 16]).inFlight [bits v 21 16] = false → ended t 0) ∧
    ((s.drainCtxs [bits v 21 16]).inFlight [bits v 21 16] = true → t.hub.part.cmd ≠ none ∧ t.hub.inval = [bits v 21 16]) ∧
    (∀ c ∈ t.cells, ∀ q ∈ c.quads, ∀ e ∈ q.tlb,
      ¬((s.ctx (bits v 21 16)).func = some e.func ∧ e.asid = (s.ctx (bits v 21 16)).asid)) ∧
    ∀ p ∈ t.panes, ∀ e ∈ p.tlb, ¬((s.ctx (bits v 21 16)).func = some e.func ∧ e.asid = (s.ctx (bits v 21 16)).asid)) ∧
  (∀ k x lim y, Happens (.rungTimeout k)
    (fun s => s.hub.rungs[k]? = some x ∧ rungLimit x.rung = some lim ∧ x.start + lim ≤ s.hv ∧ s.climb x = [y] ∧ y.1 ≠ 5)
    fun s t => t.hub.rung = y.1 ∧ t.hub.rungTgt = y.2 ∧ ∃ r, t.hub.rungs = s.hub.rungs.eraseIdx k ++ [r] ∧ r.rung = y.1 ∧
      r.tgt = y.2 ∧ r.start = s.hv ∧ r.climbed = true ∧ r.asked = x.asked) ∧
  (∀ x c, Happens (.rungComplete 0)
    (fun s => s.hub.rungs = [x] ∧ x.rung = 2 ∧ x.ctxs = [c] ∧ x.asked = none ∧ c < s.ctxs.length ∧ s.rungOver x = false)
    fun _ t => t.hub.rungs = [] ∧ (t.ctx c).state = 4 ∧ ∀ r ∈ t.regions, r.ctx = c → r.complete = true) ∧
  (∀ cls v, Happens (.classWaysWrite cls v 0) (fun s => cls < 4 ∧ s.hub.dstate ≠ 2 ∧ s.hub.classWays.length = 4) fun s t =>
    let w := s.hub.waysOf (v % 2 ^ 16)
    ((∀ k, k < 4 → k ≠ cls → s.hub.classWays.getD k 0 &&& w = 0) →
      t = { s with hub := { s.hub with classWays := s.hub.classWays.set cls w } }) ∧
    ((∃ k, k < 4 ∧ k ≠ cls ∧ s.hub.classWays.getD k 0 &&& w ≠ 0) →
      t = { s with hub := { s.hub with qosRej := true } })) ∧
  ∀ cls v, Happens (.classBwWrite cls v 0) (fun s => cls < 4 ∧ s.hub.dstate ≠ 2) fun s t =>
    ((s.hub.classBw.set cls (v % 128)).sum ≤ 64 →
      t = { s with hub := { s.hub with classBw := s.hub.classBw.set cls (v % 128) } }) ∧
    (64 < (s.hub.classBw.set cls (v % 128)).sum → t = { s with hub := { s.hub with qosRej := true } })

/-- 04 R105 to R129; 01 R31, R32: the pipes, the layers and coats, the quarantine, the tell-tales, the windscreen latch
and the camera ports. A commit is taken only where every enabled entry keeps the rules; a layer of two coats shows a
frame only where both are signed and equal, repeats its last one at most as often as its entry allows, and otherwise
gives way to its tell-tales. The model's own readings and choices that it rests on: log entries 42, 43, 68, 69 and 70. -/
def Obligations.DisplayAndCameras : Prop :=
  let late (p : Pipe) (c : Coat) : Prop :=
    c.run < p.run ∨ (p.en = true ∧ (c.frame = 0 ∨ (c.frame - 1) * p.vtotal + p.vactive ≤ p.lines))
  (∀ n v link, Happens (.pipeEnable n v link 0)
    (fun s => n < s.hub.pipes.length ∧ (s.hub.pipe n).en = false ∧ s.hub.dstate ≠ 2) fun s t =>
    let p := s.hub.pipe n
    let q := t.hub.pipe n
    let legal := linkCarries link p.khz (bits v 27 26) = true ∧ p.khz ≤ 600000 ∧ bits p.timing 15 0 < bits p.timing 31 16 ∧ bits p.timing 47 32 < bits p.timing 63 48
    t.groups = s.groups ∧ t.mem = s.mem ∧ q.table = p.table ∧
    (legal → q.en = true ∧ q.timingNow = p.timing ∧ q.khzNow = p.khz ∧ q.lines = 0 ∧ ∀ i, i < 16 → (p.entry i).en = true →
      (q.layers.map (·.shows))[i]? = some (if (p.entry i).single then .nothing else .tellTales)) ∧
    (¬legal → q.en = false ∧ q.rej = true ∧ q.timingNow = p.timingNow)) ∧
  (∀ n v, Happens (.pipeDisable n v 0)
    (fun s => n < s.hub.pipes.length ∧ (s.hub.pipe n).en = true ∧ s.hub.dstate ≠ 2) fun s t =>
    (t.hub.pipe n).en = false ∧ (t.hub.pipe n).ending = true ∧ (t.hub.pipe n).layers = (s.hub.pipe n).layers ∧
    (t.hub.pipe n).lines = (s.hub.pipe n).lines) ∧
  (∀ n v link, Happens (.layerTableCommit n v link 0)
    (fun s => n < s.hub.pipes.length ∧ bit v 31 = (s.hub.pipe n).en ∧ s.hub.dstate ≠ 2) fun s t =>
      t.hub.pipe n = { s.hub.pipe n with depth := bits v 27 26, rej := (s.hub.pipe n).rej && !bit v 28, pend := true
                                         pendBase := (s.hub.pipe n).ltBase }) ∧
  (∀ n, Happens (.layerCommitTake n) (fun s => n < s.hub.pipes.length) fun s t =>
    let p := s.hub.pipe n
    let rows := (List.range 16).map fun i => s.homeRead (p.pendBase * 2048 + 128 * i) 128
    (p.pend = false → t = s) ∧
    (p.pend = true → (∀ b ∈ rows, entryDenied b = false ∧ ((Entry.parse b).en = true → entryOk p b = true)) →
      (∃ tt, t.hub.pipe n = { p with pend := false, table := rows, layersNext := p.lateLayers rows, ttNext := tt } ∧
        ∀ i, i < 16 → bit tt i = (((p.lateLayers rows).map (·.shows))[i]? == some .tellTales)) ∧ t.mem = s.mem) ∧
    (p.pend = true → (∃ b ∈ rows, let e := Entry.parse b; (e.single = true ∧ 1 ≤ e.level) ∨ e.en = true ∧ (4 < e.level ∨ e.slots = 0 ∨ 3 < e.pane1 ∨
        e.w = 0 ∨ e.h = 0 ∨ p.hactive < e.x + e.w ∨ p.vactive < e.y + e.h ∨ e.pitch % 256 ≠ 0 ∨ e.stride % 4096 ≠ 0 ∨
        e.base1 % 256 ≠ 0 ∨ e.base2 % 256 ≠ 0 ∨ (e.single = false ∧ e.pane1 = e.pane2))) →
      t.hub.pipe n = { p with pend := false, rej := true })) ∧
  (∀ k c, Happens (.coatSign k)
    (fun s => s.hub.coats[k]? = some c ∧ c.pipe < s.hub.pipes.length ∧ c.done = true ∧ c.signed = false ∧ c.late = false ∧
      s.memPoison = []) fun s t =>
    let p := s.hub.pipe c.pipe
    let e := p.entry c.layer
    (¬late p c → t.hub.coats[k]? = some { c with signed := true, sigs := e.tiles.map (s.signTile e c.num c.frame) } ∧
      t.hub.pipes = s.hub.pipes) ∧
    (late p c → t.hub.coats[k]? = some { c with late := true } ∧ (t.hub.pipe c.pipe).late = p.late ||| 2 ^ c.layer)) ∧
  (∀ n i, Happens (.frameDecision n)
    (fun s => n < s.hub.pipes.length ∧ (s.hub.pipe n).en = true ∧ i < 16 ∧ ((s.hub.pipe n).entry i).en = true) fun s t =>
    let p := s.hub.pipe n
    let e := p.entry i
    let f := p.lines / max 1 p.vtotal + 1
    let l := p.layers.getD i ⟨.nothing, none, 0, []⟩
    let coat := s.hub.signedCoat n i f
    let shows (m : Layer) : Prop := (t.hub.pipe n).layersNext[i]? = some m
    (e.single = false → ∀ a b, coat 1 = some a → coat 2 = some b →
      (firstUnequal e a.sigs b.sigs = none → shows ⟨.frame f, some f, 0, a.sigs⟩) ∧
      (firstUnequal e a.sigs b.sigs ≠ none → shows { l with shows := .tellTales, repeats := noRepeat } ∧
        bit (t.hub.pipe n).mismatch i = true ∧ t.hub.coatfail = true ∧ t.hub.faultN = true)) ∧
    (e.single = false → (coat 1 = none ∨ coat 2 = none) →
      bit (t.hub.pipe n).late i = true ∧
      (∀ g, l.last = some g → 2 ≤ e.slots → l.repeats < e.maxrep →
        shows { l with shows := .frame g, repeats := l.repeats + 1 }) ∧
      (l.last = none ∨ e.slots < 2 ∨ e.maxrep ≤ l.repeats → ∃ m, shows m ∧ m.shows = .tellTales ∧ m.last = l.last)) ∧
    (e.single = true → (∀ a, coat 1 = some a → shows ⟨.frame f, some f, 0, a.sigs⟩) ∧
      (coat 1 = none → shows { l with shows := match l.last with | some g => .frame g | none => .nothing }))) ∧
  (∀ n i k f tile, Happens (.scanoutTileCheck n i k)
    (fun s => n < s.hub.pipes.length ∧ s.memPoison = [] ∧ ((s.hub.pipe n).entry i).single = false ∧
      ((s.hub.pipe n).layers.map (·.shows))[i]? = some (.frame f) ∧ ((s.hub.pipe n).entry i).tiles[k]? = some tile) fun s t =>
    let p := s.hub.pipe n
    let was := (p.layers.getD i ⟨.nothing, none, 0, []⟩).sigs.getD k 0
    (s.signTile (p.entry i) 1 f tile = was → t = s) ∧
    (s.signTile (p.entry i) 1 f tile ≠ was → bit (t.hub.pipe n).diff i = true ∧ bit (t.hub.pipe n).tt i = true ∧
      ((t.hub.pipe n).layers.map (·.shows))[i]? = some .tellTales ∧ t.hub.coatfail = true ∧ t.hub.faultN = true ∧
      t.groups = s.groups)) ∧
  (∀ p x, Happens (.paneSelfTestStart p)
    (fun s => s.panes[p]? = some x ∧ p < s.hub.quar.length ∧ s.hub.quarOf p = ⟨false, false, false⟩ ∧ s.hub.rungs = []) fun s t =>
    (x.quarantined = true → x.power = PanePower.on → t.hub.quarOf p = ⟨true, false, false⟩ ∧ t.groups = s.groups) ∧
    ((x.quarantined = false ∨ x.power ≠ PanePower.on) → t = s)) ∧
  (∀ p, Happens (.paneSelfTestEnd p 0) (fun s => p < s.hub.quar.length ∧ (s.hub.quarOf p).running = true) fun s t =>
    t.hub.quarOf p = ⟨false, true, false⟩ ∧ t.panes = s.panes ∧ t.groups = s.groups) ∧
  (∀ v p x, Happens (.readmit v 0) (fun s => p < 4 ∧ s.hub.dstate ≠ 2 ∧ bit v p = true ∧ s.panes[p]? = some x ∧ x.quarantined = true) fun s t =>
    ((s.hub.quarOf p).running = false → (s.hub.quarOf p).pending = false →
      t.panes[p]? = some { x with quarantined := false }) ∧
    ((s.hub.quarOf p).running = true ∨ (s.hub.quarOf p).pending = true → t.panes[p]? = some x ∧ t.hub.quarRefused = true)) ∧
  (∀ v, Happens (.telltaleLoad v 0)
    (fun s => s.hub.ttCmd = none ∧ s.hub.dstate ≠ 2 ∧ s.memPoison = [] ∧ s.hub.slotUsed (bits v 5 0) = false ∧
      s.hub.saving = false) fun s t =>
    let b := s.homeRead (s.hub.ttSrc * 256) 0xA000
    (imageOk b = true → s.hub.ttSrc * 256 + 0xA000 ≤ dataEnd →
      t = { s with hub := { s.hub with ttCmd := some (bits v 5 0, b) } }) ∧
    (imageOk b = false → t.hub.ttCmd = none ∧ t.hub.ttResult = 3 ∧ t.hub.keep = s.hub.keep)) ∧
  (∀ slot b, Happens .telltaleCopyComplete (fun s => s.hub.ttCmd = some (slot, b)) fun s t =>
    t.hub.ttCmd = none ∧ t.hub.ttResult = 0 ∧ t.hub.keep.bytes (0x580000 + 0xA000 * slot) b.length = b ∧
    ∀ a, ¬(0x580000 + 0xA000 * slot ≤ a ∧ a < 0x580000 + 0xA000 * slot + b.length) → t.hub.keep.get a = s.hub.keep.get a) ∧
  (∀ w v, Happens (.latchWrite w v 0) (fun s => w < 8 ∧ s.hub.dstate ≠ 2) fun s t =>
    (w < 6 → t = { s with hub := { s.hub with latch := s.hub.latch.set w (BitVec.ofNat 32 v) } }) ∧
    (w = 6 → t = s) ∧
    (w = 7 → t = { s with hub := { s.hub with latch := s.hub.latch.set 7 (BitVec.ofNat 32 v &&& 0xFFFF#32), latchFull := true } })) ∧
  Happens .hudLatchTake (fun _ => True) (fun s t =>
    (s.hub.latchFull = true → t = { s with hub := { s.hub with latchNext := s.hub.latch, latchFull := false } }) ∧
    (s.hub.latchFull = false → t = { s with hub := { s.hub with stale := min 0xFFFF (s.hub.stale + 1) } })) ∧
  (∀ i v, Happens (.cameraStreamWrite i v 0)
    (fun s => i < s.hub.cams.length ∧ (s.hub.cam i).en = false ∧ s.hub.dstate ≠ 2) fun _ t =>
    let legal := bit v 31 = true ∧ 2 ≤ bits v 15 12 ∧ bits v 21 16 ∈ camTypes
    (legal → (t.hub.cam i).en = true ∧ (t.hub.cam i).count = 0 ∧ (t.hub.cam i).next = 0 ∧ (t.hub.cam i).frame = none) ∧
    (¬legal → (t.hub.cam i).en = false)) ∧
  (∀ ch i, Happens (.cameraFrameStart ch) (fun s => i < s.hub.cams.length) fun s t =>
    (s.hub.takers ch none = [] → t = s) ∧
    (i ∈ s.hub.takers ch none → (t.hub.cam i).frame = some (s.hv, 0, 0)) ∧
    (s.hub.takers ch none = [i] → match s.camWrite (s.hub.cam i).owner (s.hub.cam i).buffer (leBytes 4 0) with
      | some u => t.mem = u.mem ∧ (t.hub.cam i).refused = false
      | none => t.mem = s.mem ∧ (t.hub.cam i).refused = true)) ∧
  (∀ pk i n v crc t0 l fl, Happens (.cameraLine pk n v crc)
    (fun s => i < s.hub.cams.length ∧ (s.hub.cam i).frame = some (t0, l, fl)) fun s t =>
    let c := s.hub.cam i
    let f1 := fl ||| (if crc = 0 then 0 else 1)
    let at_ := 0x100 + l * c.pitch
    (s.hub.takers pk.channel (some pk.dt) = [] → t = s) ∧
    (i ∈ s.hub.takers pk.channel (some pk.dt) → (t.hub.cam i).frame = some (t0, l + 1,
      if c.stride < at_ + c.pitch then f1 ||| 4 else if c.pitch < n then f1 ||| 2 else f1)) ∧
    (s.hub.takers pk.channel (some pk.dt) = [i] → c.stride < at_ + c.pitch → t.mem = s.mem) ∧
    (s.hub.takers pk.channel (some pk.dt) = [i] → at_ + c.pitch ≤ c.stride →
      match s.camWrite c.owner (c.buffer + at_) (leBytes (min n c.pitch) v) with
      | some u => t.mem = u.mem
      | none => t.mem = s.mem ∧ (t.hub.cam i).refused = true)) ∧
  (∀ ch i t0 l fl, Happens (.cameraFrameEnd ch)
    (fun s => i ∈ s.hub.takers ch none ∧ i < s.hub.cams.length ∧ (s.hub.cam i).frame = some (t0, l, fl)) fun s t =>
    let c := s.hub.cam i
    let d := t.hub.cam i
    (c.refused = true → d.drops = min 0xFFFF (c.drops + 1) ∧ d.frame = none ∧ d.count = c.count ∧
      (s.hub.takers ch none = [i] → t.mem = s.mem)) ∧
    (c.refused = false → (∀ k, k < 64 → ∃ x, s.stage2 c.owner (c.buffer + k) = .ok x) →
      d.count = c.count + 1 ∧ d.frames = (c.frames + 1) % 4096 ∧ d.drops = c.drops ∧ d.frame = none)) ∧
  ∀ port, Happens (.cameraTxFrame port) (fun s => port < s.hub.txDrops.length) fun s t =>
    (bit s.hub.armTx port = true → t = s) ∧
    (bit s.hub.armTx port = false →
      t = { s with hub := { s.hub with txDrops := s.hub.txDrops.set port (s.hub.txDrops.getD port 0 + 1) } })

/-- 05 R131, R136, R148 to R154, R161 to R163; 01 R37 to R39: the device queue's records, the spares, the migration of a
channel, the seam links' lanes, the corrected errors, the ageing monitors, the bead self-tests and the keep commands.
The model's own readings and choices that it rests on: log entries 59, 63, 64 and 73. -/
def Obligations.ReliabilityAndKeep : Prop :=
  let place (s : State) : Nat := s.hub.devqBase * 4096 + s.hub.devqHead % 2 ^ s.hub.devqLog * 64
  let queue (s : State) : Prop := s.hub.devqEn = true ∧ 6 ≤ s.hub.devqLog ∧ s.hub.devqLog < 16 ∧ place s + 64 ≤ dataEnd ∧
    s.memPoison.hit (place s) 64 = none ∧ s.hub.save = none
  let recorded (s t : State) (r : ErrRec) : Prop :=
    (queue s → t.mem.bytes (place s) 64 = r.bytes s.hub.devqSeq (s.hv % 2 ^ 32) ∧
      t.hub.devqHead = (s.hub.devqHead + 1) % 2 ^ s.hub.devqLog ∧ t.hub.devqLost = s.hub.devqLost ∧
      t.hub.devqSeq = (if 0xFFFFFFFF ≤ s.hub.devqSeq then 1 else s.hub.devqSeq + 1) ∧
      ∀ a, ¬(place s ≤ a ∧ a < place s + 64) → t.mem.get a = s.mem.get a) ∧
    (s.hub.devqEn = false → s.hub.save = none → t.mem = s.mem ∧ t.hub.devqLost = min 0xFFFF (s.hub.devqLost + 1))
  let spare (kind old new sub lane : Nat) : ErrRec :=
    { ErrRec.plain 0x44 0xFF with detail := kind + 256 * old + 2 ^ 16 * new + 2 ^ 24 * sub + 2 ^ 32 * lane }
  let ends (t : State) (r : Nat) : Prop := t.hub.spare.cmd = none ∧ t.hub.spare.result = r
  let starts (s t : State) (v : Nat) : Prop :=
    t = { s with hub := { s.hub with spare := { s.hub.spare with cmd := some v, tag := bits v 3 0 } } }
  let idle (s : State) : Prop := s.hub.spare.cmd = none ∧ s.hub.boot = 4 ∧ s.hub.dstate ≠ 2
  (∀ v, Happens (.devqEnable v 0) (fun s => s.hub.dstate ≠ 2) fun s t =>
    (bits v 19 16 = 0 ∨ 6 ≤ bits v 19 16 → t.hub.devqEn = true ∧ t.hub.devqLog = bits v 19 16 ∧
      (s.hub.devqEn = false → t.hub.devqHead = 0 ∧ t.hub.devqSeq = 1) ∧
      (s.hub.devqEn = true → t.hub.devqHead = s.hub.devqHead ∧ t.hub.devqSeq = s.hub.devqSeq)) ∧
    (1 ≤ bits v 19 16 → bits v 19 16 ≤ 5 → t.hub.devqEn = false) ∧ t.mem = s.mem ∧ t.groups = s.groups) ∧
  (∀ v (e : Instr), e ∈ [Instr.spareLane v 0, .spareCell v 0, .spareChannel v 0, .spareWay v 0, .unfence v 0] →
    Happens e (fun s => s.hub.spare.cmd ≠ none ∧ s.hub.dstate ≠ 2) (fun s t =>
      t = { s with hub := { s.hub with spare := { s.hub.spare with dropped := true } } }) ∧
    Happens e (fun s => s.hub.spare.cmd = none ∧ s.hub.boot ≠ 4 ∧ s.hub.dstate ≠ 2) fun s t => ends t 6 ∧ t.cells = s.cells) ∧
  (∀ v, Happens (.spareLane v 0) idle fun s t =>
    (36 ≤ spareTarget v → ends t 3) ∧
    (spareTarget v < 36 → s.hub.logical (spareTarget v) = none → ends t 4) ∧
    (spareTarget v < 36 → s.hub.logical (spareTarget v) ≠ none → (spareTarget v, spareSub v) ∈ s.hub.laneSpares → ends t 1) ∧
    (spareTarget v < 36 → s.hub.logical (spareTarget v) ≠ none → (spareTarget v, spareSub v) ∉ s.hub.laneSpares →
      starts s t (putBits v 31 28 0))) ∧
  (∀ v, Happens (.spareCell v 0) idle fun s t =>
    (36 ≤ spareTarget v → ends t 3) ∧
    (spareTarget v < 36 → s.hub.logical (spareTarget v) = none → ends t 4) ∧
    (spareTarget v < 36 → s.hub.logical (spareTarget v) ≠ none → s.paneBusy (spareTarget v) = true → ends t 2) ∧
    (spareTarget v < 36 → s.hub.logical (spareTarget v) ≠ none → s.paneBusy (spareTarget v) = false →
      starts s t (putBits v 31 28 1))) ∧
  (∀ v, Happens (.spareWay v 0) idle fun s t =>
    (18 ≤ spareTarget v → ends t 3) ∧ (spareTarget v < 18 → some (spareTarget v) ∉ s.hub.wayMap → ends t 4) ∧
    (spareTarget v < 18 → some (spareTarget v) ∈ s.hub.wayMap → starts s t (putBits v 31 28 3))) ∧
  (∀ v, Happens (.unfence v 0) idle fun s t =>
    (32 ≤ spareTarget v → ends t 3) ∧ (spareTarget v < 32 → s.hub.inService (spareTarget v) = false → ends t 4) ∧
    (spareTarget v < 32 → s.hub.inService (spareTarget v) = true → starts s t (putBits v 31 28 4))) ∧
  (∀ v, Happens (.spareChannel v 0) (fun s => idle s ∧ spareTarget v < 26 ∧ s.hub.classBw.sum ≤ 60) fun s t =>
    let c := spareTarget v
    (some c ∈ s.hub.chanMap → s.hub.spareChannels = [] → ends t 1 ∧ t.hub.migrating = s.hub.migrating) ∧
    (some c ∉ s.hub.chanMap → s.hub.spareChannels ≠ [] → ends t 4 ∧ t.hub.migrating = s.hub.migrating) ∧
    (some c ∈ s.hub.chanMap → s.hub.spareChannels ≠ [] → t.hub.spare.cmd = some (putBits v 31 28 2) ∧ t.hub.migrateDone = 0 ∧
      ∃ x ∈ s.hub.spareChannels, t.hub.migrating = some (c, x))) ∧
  (∀ old new, Happens .channelMigrationComplete (fun s => s.hub.migrating = some (old, new)) fun s t =>
    t.hub.migrating = none ∧ old ∈ t.hub.chansGone ∧ t.hub.chanMap.length = s.hub.chanMap.length ∧
    (∀ k : Nat, t.hub.chanMap[k]? = if s.hub.chanMap[k]? = some (some old) then some (some new) else s.hub.chanMap[k]?) ∧
    recorded s t (spare 2 old new 0 0)) ∧
  (∀ v fail, Happens (.spareCmdComplete fail) (fun s => s.hub.spare.cmd = some v) fun s t =>
    (bits v 31 28 = 0 → ends t 0 ∧ (spareTarget v, spareSub v) ∈ t.hub.laneSpares ∧
      ∃ new ∈ [spareTarget v, 0xFF], recorded s t (spare 0 (spareTarget v) new (spareSub v) (spareLane v))) ∧
    (bits v 31 28 = 1 → s.paneBusy (spareTarget v) = true → ends t 2 ∧ t.cells = s.cells ∧ t.hub.cellMap = s.hub.cellMap) ∧
    (bits v 31 28 = 2 → s.hub.migrating = none → ends t 0) ∧ (bits v 31 28 = 2 → s.hub.migrating ≠ none → t = s) ∧
    (bits v 31 28 = 3 → some (spareTarget v) ∈ s.hub.wayMap → t.hub.spare.cmd = none ∧ some (spareTarget v) ∉ t.hub.wayMap ∧
      spareTarget v ∈ t.hub.waysGone ∧ (ends t 0 ∨ (ends t 1 ∧ none ∈ t.hub.wayMap))) ∧
    (bits v 31 28 = 4 → ∀ q, q < 4 → spareTarget v < s.cells.length → q < (s.cells.getD (spareTarget v) Cell.reset).quads.length →
      (t.quadAt (spareTarget v) q).fenced = if bit v (7 + q) = true then bit fail q else (s.quadAt (spareTarget v) q).fenced)) ∧
  (∀ n x, Happens (.seamFlitReplay n) (fun s => s.hub.seams[n]? = some x) fun s t =>
    t = { s with hub := { s.hub with seams := s.hub.seams.set n { x with retry := min 255 (x.retry + 1), crc := true } } }) ∧
  (∀ n lane x (e : Instr), e = .seamLaneFail n lane ∨ (∃ f, f ≠ 0 ∧ e = .seamEyeCheck n lane f) → Happens e
    (fun s => s.hub.seams[n]? = some x ∧ lane < seamLanes n ∧ x.failed n = false ∧ lane ∉ x.lost ∧ ¬(1 ≤ x.spares ∧ x.lane0 = lane) ∧
      ¬(2 ≤ x.spares ∧ x.lane1 = lane))
    fun s t => ∃ y, t.hub.seams[n]? = some y ∧
      (x.spares = 0 → y.spares = 1 ∧ y.lane0 = lane ∧ y.half = x.half ∧ recorded s t (spare 4 n 0xFF 0 lane)) ∧
      (x.spares = 1 → y.spares = 2 ∧ y.lane0 = x.lane0 ∧ y.lane1 = lane ∧ y.half = x.half ∧ recorded s t (spare 4 n 0xFF 0 lane)) ∧
      (x.spares = 2 → x.lost = [] → x.half = false → y.half = true ∧ y.state = x.state ∧ recorded s t (spare 5 n 0xFF 0 lane)) ∧
      (x.spares = 2 → (∃ l ∈ x.lost, l / (seamLanes n / 2) + lane / (seamLanes n / 2) = 1) → y.half = false ∧
        (s.seamUp n = true → y.state = 4))) ∧
  (∀ n lane, Happens (.seamEyeCheck n lane 0) (fun _ => True) fun s t => t = s) ∧
  (∀ c p alarm n, Happens (.correctedError ⟨0, c, p⟩) (fun s => c < 26 ∧ s.hub.ceChan[c]? = some (alarm, n)) fun s t =>
    (n < 0xFFFF → n + 1 = s.hub.ceThresh → t.hub.ceChan[c]? = some (true, n + 1) ∧
      recorded s t { ErrRec.plain 0x43 0xFF with unit := c, detail := 256 * c + 65536 * (n + 1) }) ∧
    (¬(n < 0xFFFF ∧ n + 1 = s.hub.ceThresh) →
      t = { s with hub := { s.hub with ceChan := s.hub.ceChan.set c (alarm, min 0xFFFF (n + 1)) } })) ∧
  (∀ way k n, Happens (.correctedError ⟨1, way, k⟩) (fun s => k < 32 ∧ s.hub.ceSlice[k]? = some n) fun s t =>
    (n < 0xFFFF → n + 1 = s.hub.ceThresh → t.hub.ceSlice[k]? = some (n + 1) ∧
      recorded s t { ErrRec.plain 0x43 0xFF with source := 1, unit := way, detail := 1 + 256 * way + 65536 * (n + 1) }) ∧
    (¬(n < 0xFFFF ∧ n + 1 = s.hub.ceThresh) →
      t = { s with hub := { s.hub with ceSlice := s.hub.ceSlice.set k (min 0xFFFF (n + 1)) } })) ∧
  (∀ src unit k n, Happens (.correctedError ⟨src, unit, k⟩) (fun s => 2 ≤ src ∧ k < 32 ∧ s.hub.ceCell[k]? = some n) fun s t =>
    (n < 0xFFFF → n + 1 = s.hub.ceThresh → t.hub.ceCell[k]? = some (n + 1) ∧
      recorded s t { ErrRec.plain 0x43 0xFF with
        cell := k, source := src, unit := unit, detail := src + 256 * unit + 65536 * (n + 1) }) ∧
    (¬(n < 0xFFFF ∧ n + 1 = s.hub.ceThresh) →
      t = { s with hub := { s.hub with ceCell := s.hub.ceCell.set k (min 0xFFFF (n + 1)) } })) ∧
  (∀ phys m reading c x, Happens (.ageSample phys m reading)
    (fun s => s.hub.logical phys = some c ∧ s.cells[c]? = some x ∧ x.power = CellPower.act ∧ m < 16) fun s t =>
    let r := reading % 2 ^ 14
    (t.hub.ageOf phys m).2 = r ∧
    ((if m < 8 then r < 15 else 10 * r < 9 * Config.ageBaseline phys m) → (t.hub.ageOf phys m).1 = true ∧
      recorded s t { ErrRec.plain 0x45 0xFF with detail := phys + 256 * m + 65536 * r }) ∧
    (¬(if m < 8 then r < 15 else 10 * r < 9 * Config.ageBaseline phys m) →
      (t.hub.ageOf phys m).1 = (s.hub.ageOf phys m).1 ∧ t.mem = s.mem)) ∧
  (∀ c q, Happens (.beadSelfTestStart c q)
    (fun s => c < s.cells.length ∧ q < (s.cells.getD c Cell.reset).quads.length) fun s t =>
    let x := s.quadAt c q
    (50000 * 2882880 ≤ x.testClock → x.testing = false → x.fenced = false → 1024 ≤ x.idleClocks → s.quadIdle c q = true →
      t.quadAt c q = { x with testing := true, overdue := false }) ∧
    ((x.testClock < 50000 * 2882880 ∨ x.idleClocks < 1024 ∨ x.fenced = true) → t = s)) ∧
  (∀ c q, Happens (.beadSelfTestEnd c q 0)
    (fun s => c < s.cells.length ∧ q < (s.cells.getD c Cell.reset).quads.length ∧ (s.quadAt c q).testing = true) fun s t =>
      t.quadAt c q = { s.quadAt c q with testing := false, testClock := 0, idleClocks := 0 } ∧ t.groups = s.groups) ∧
  (∀ c q fail, Happens (.beadSelfTestEnd c q fail)
    (fun s => fail ≠ 0 ∧ c < s.cells.length ∧ q < (s.cells.getD c Cell.reset).quads.length ∧ (s.quadAt c q).testing = true ∧
      s.groups = []) fun s t =>
      (t.quadAt c q).fenced = true ∧ (t.quadAt c q).testing = false ∧
      recorded s t { ErrRec.plain 0x46 0xFF with detail := c + 256 * q }) ∧
  (∀ c q, Happens (.beadSelfTestOverdue c q)
    (fun s => c < s.cells.length ∧ q < (s.cells.getD c Cell.reset).quads.length ∧ 1050000 * 2882880 ≤ (s.quadAt c q).testClock ∧
      (s.quadAt c q).testing = false ∧ (s.quadAt c q).fenced = false ∧ (s.quadAt c q).overdue = false) fun s t =>
      t.quadAt c q = { s.quadAt c q with overdue := true } ∧
      recorded s t { ErrRec.plain 0x46 0xFF with detail := c + 256 * q + 65536 }) ∧
  (∀ v (e : Instr) op, (op, e) ∈ [(0, Instr.keepDir v 0), (1, .keepData v 0), (2, .keepErase v 0)] →
    Happens e (fun s => s.hub.dstate ≠ 2) fun s t =>
    (s.hub.keepCmd = none → t = { s with hub := { s.hub with keepCmd := some (putBits v 27 26 op) } }) ∧
    (s.hub.keepCmd ≠ none → t = s)) ∧
  ∀ v, Happens .keepCmdComplete (fun s => s.hub.keepCmd = some v) fun s t =>
    let slot := keepSlot v
    let st := s.hub.recordState slot (keepRegion v)
    let dst := s.hub.keepDst * 64
    let got (b : List Byte) : Prop := dst + b.length ≤ dataEnd → t.hub.keepResult = 0 ∧ t.mem.bytes dst b.length = b ∧
      ∀ a, ¬(dst ≤ a ∧ a < dst + b.length) → t.mem.get a = s.mem.get a
    t.hub.keepCmd = none ∧
    (s.hub.saving = true → keepOp v < 3 → t.hub.keepResult = 2 ∧ t.mem = s.mem ∧ t.hub.keep = s.hub.keep) ∧
    (s.hub.saving = false → keepOp v = 0 → t.hub.keep = s.hub.keep ∧
      got (s.hub.keep.bytes (slotBase slot) 64 ++ s.hub.keep.bytes (slotBase slot + 0x1000) 32768 ++
        (List.range 1024).map fun r => BitVec.ofNat 8 (s.hub.recordState slot r))) ∧
    (s.hub.saving = false → keepOp v = 1 → t.hub.keep = s.hub.keep ∧ (st = 3 → t.hub.keepResult = 3 ∧ t.mem = s.mem) ∧
      ((st = 1 ∨ st = 2) → let o := 0x1000 + 32 * keepRegion v
        got (s.hub.keep.bytes (slotBase slot + s.hub.slotField slot (o + 0x10) 4) (s.hub.slotField slot (o + 4) 4)))) ∧
    (s.hub.saving = false → keepOp v = 2 → t.hub.keepResult = 0 ∧ t.hub.slotState slot = 0 ∧ t.mem = s.mem ∧
      (∀ a, t.hub.keep.get a = if slotBase slot ≤ a ∧ a < slotBase slot + 64 then 0#8 else s.hub.keep.get a))

/-! ### Words, the step and the whole machine -/

/-- The FN field of a major's format and the FN codes that its families assign (12 R319, R323; 13 to 17). -/
def fnCodes : List (Nat × Nat × List Nat) :=
  [(0x00, 21, List.range 12), (0x01, 21, List.range 14 ++ [16, 17, 18, 19]), (0x02, 21, [0, 1]), (0x03, 24, List.range 4),
   (0x04, 21, List.range 7), (0x05, 24, [0, 1]), (0x06, 24, List.range 4), (0x07, 24, [0, 1]), (0x08, 21, [0, 1]),
   (0x09, 21, List.range 4), (0x0A, 21, List.range 5), (0x0B, 21, List.range 3), (0x0C, 21, List.range 6),
   (0x0D, 23, List.range 8), (0x0E, 23, List.range 5), (0x0F, 21, [0, 1]), (0x10, 21, List.range 12),
   (0x11, 21, List.range 5), (0x12, 21, List.range 5), (0x13, 21, List.range 5), (0x14, 21, List.range 4),
   (0x15, 21, List.range 32), (0x16, 21, List.range 6), (0x17, 21, List.range 7)] ++
  [(0x18, 21, [0, 1, 2, 3, 4, 8, 9, 10, 11, 12, 16, 17, 18, 19, 20, 24, 25, 26, 27, 28]),
   (0x19, 21, [0, 1, 2, 8, 9, 10, 16, 17, 18, 24, 25, 26]), (0x1A, 21, List.range 9), (0x1B, 21, List.range 16),
   (0x1C, 21, [0, 1]), (0x1D, 21, [0] ++ List.range' 2 8 ++ List.range' 12 14), (0x1E, 21, List.range 4),
   (0x1F, 21, List.range 16), (0x20, 24, List.range 4), (0x21, 24, List.range 4), (0x22, 24, List.range 4),
   (0x23, 24, List.range 4), (0x24, 24, List.range 4), (0x25, 24, List.range 4), (0x26, 24, List.range 4),
   (0x27, 24, List.range 4), (0x28, 21, List.range 5), (0x29, 21, List.range 5), (0x2A, 21, List.range 5),
   (0x30, 23, List.range 8), (0x31, 23, [0, 1, 2, 3, 7]), (0x32, 23, [0, 1]), (0x33, 23, List.range 8),
   (0x34, 23, List.range 5), (0x35, 23, List.range 7), (0x36, 23, List.range 3), (0x37, 21, List.range 7),
   (0x38, 21, List.range 3), (0x39, 24, List.range 4), (0x3C, 22, List.range 6), (0x3D, 22, List.range 4),
   (0x3E, 22, List.range 3), (0x3F, 21, List.range 4)]

/-- Some words written out from the spec's encodings. -/
noncomputable def sampleWords : List (Nat × Nat × Instr × Nat) :=
  [(0x00000000, 0, .nop, 1), (0x00200000, 0, .exit, 1), (0x04002002, 0, .ifK 1#3 2#13, 1), (0x04A00000, 0, .endif, 1),
   (0x4000407C, 0x12345678, .iadd 1#7 0#7 124#7 0x12345678#32, 2), (0x78008080, 0, .mov 2#7 1#7 0#32, 1),
   (0x54404278, 0, .icmp 2#5 1#3 4#7 120#7 0#32, 1), (0x7821FC06, 0x100, .sel 7#7 120#7 6#7 1#3, 2),
   (0x70018280, 0x2300, .cvt 6#7 5#7 0#3 0#4 0#1 2#2 3#4, 2), (0xDC014180, 0, .hodCopy 10#8 12#8, 1)]

/-- 12 R319, R321, R322 and the families' encodings: words written out bit by bit decode to the instructions they stand for. -/
def Obligations.SampleWordsDecode : Prop := ∀ x ∈ sampleWords, decodeWords x.1 x.2.1 = .instr x.2.2.1 x.2.2.2

/-- 12 R319 to R322: every well-formed instruction is encoded in one or two words of 32 bits, and the decoder reads it
back from them with the number of its words, whatever word follows where it has only one. The model's own readings and
choices that it rests on: log entry 16. -/
def Obligations.DecodeOfEncode : Prop :=
  ∀ i : Instr, i.isCode = true → i.wellFormed = true →
    ((encode i).length = 1 ∨ (encode i).length = 2) ∧ (∀ w ∈ encode i, w < 2 ^ 32) ∧
    ∀ x, decodeWords ((encode i).getD 0 0) ((encode i).getD 1 x) = .instr i (encode i).length

/-- 12 R324, R325, R291: the fates of a word. A word of a reserved major, of an FN that its family does not assign, or of
FN 0 of major 0 but for the all-zero word has no instruction; a group that comes to such a word raises ILLEGAL_ENCODING
there. The privileged family raises PRIVILEGE without SYSTEM privilege; otherwise a group of a role that may not issue
the family raises ROLE_VIOLATION, and a bad operand ILLEGAL_OPERAND: each stops every active lane at the word, before it
has any effect. The model's own readings and choices that it rests on: log entries 14 and 16. -/
def Obligations.FatesOfWords : Prop :=
  (∀ w x, wordField w 31 26 ∈ [0x2B, 0x2C, 0x2D, 0x2E, 0x2F, 0x3A, 0x3B] ↔ decodeWords w x = .bad .reservedMajor) ∧
  (∀ m ∈ fnCodes, ∀ w x, wordField w 31 26 = m.1 →
    (wordField w 25 m.2.1 ∉ m.2.2 ↔ decodeWords w x = .bad .unassignedFn)) ∧
  (∀ w x, wordField w 31 21 = 0 → decodeWords w x = if w % 2 ^ 21 = 0 then .instr .nop 1 else .bad .unusedField) ∧
  Sets .nop ⟨.sys, 1, []⟩ (fun _ _ => True) (fun _ g h => Passes g h 1) ∧
  (∀ (s : State) (i : Nat) (c : Clause) (r : BadWord),
    let g := s.group i
    let k := (g.ctl.pc - c.addr).toNat / 4
    g.trap.atNext = none → s.timerDue i g = false → k + instrWords (c.words.getD k 0#32).toNat ≤ c.words.length → (∀ p ∈ c.poison, p = none) →
    decodeWords (c.words.getD k 0#32).toNat (c.words.getD (k + 1) 0#32).toNat = .bad r →
    s.issueWord i c = .done (s.stopHere i (.here 0x01 0))) ∧
  (∀ (s : State) (i : Nat) (g : Group) (a : BitVec 8) (l : BitVec 1) (o : BitVec 5) (ins : Instr),
    ins ∈ [Instr.tlbInv a l, .ixuLoad a o, .ccFlush, .ccInval, .bndSet a] →
    s.issuer = some (i, g) → g.id.sys = false → exec ins s = .next (s.stopsAt i g 1 (.here 0x04 0))) ∧
  (∀ (s : State) (i : Nat) (g : Group) (d a b : BitVec 7) (lit : Word) (ins : Instr),
    ins ∈ [Instr.iadd d a b lit, .isub d a b lit, .imulLo d a b lit] → s.issuer = some (i, g) →
    let bad (c : BitVec 7) : Bool := if c.toNat < 112 then decide (8 * g.id.vregs ≤ c.toNat) else decide (125 ≤ c.toNat)
    (g.id.role ≠ .general → g.id.role ≠ .vector → exec ins s = .next (s.stopsAt i g (litWords [a, b]) (.here 0x17 0))) ∧
    ((g.id.role = .general ∨ g.id.role = .vector) →
      (112 ≤ d.toNat ∨ 8 * g.id.vregs ≤ d.toNat → exec ins s = .next (s.stopsAt i g (litWords [a, b]) (.here 0x02 d.toNat))) ∧
      (d.toNat < 112 → d.toNat < 8 * g.id.vregs → bad a = true →
        exec ins s = .next (s.stopsAt i g (litWords [a, b]) (.here 0x02 a.toNat))) ∧
      (d.toNat < 112 → d.toNat < 8 * g.id.vregs → bad a = false → bad b = true →
        exec ins s = .next (s.stopsAt i g (litWords [a, b]) (.here 0x02 b.toNat)))))

/-- 12 R314, R315, R318; 07 R194: a step runs the instruction that the word at a group's pc decodes to. When time has
passed and the turn is group `i`'s, which stands at a word of its clause, the step is exec of that instruction in that
state, and then the end of the turn; where the group comes to the clause, it takes its bytes, through the quadrant's
instruction cache, and its checks first. The next thing of the agenda goes before any turn. The model's own readings
and choices that it rests on: log entries 5 and 10. -/
def Obligations.StepRunsTheDecodedInstruction : Prop :=
  let runs (s u : State) (i : Nat) (c : Clause) (ins : Instr) : Prop :=
    let g := u.group i
    let k := (g.ctl.pc - c.addr).toNat / 4
    g.trap.atNext = none → u.timerDue i g = false → k + instrWords (c.words.getD k 0#32).toNat ≤ c.words.length → (∀ p ∈ c.poison, p = none) →
    (∃ n, decodeWords (c.words.getD k 0#32).toNat (c.words.getD (k + 1) 0#32).toNat = .instr ins n) →
    g.reconverges (closesEntry ins) = false → step s = mapNext (fun t => u.endTurn t i) (exec ins u)
  let stands (s : State) (i : Nat) : Prop :=
    let u := s.tick
    u.agenda = [] ∧ u.turn = some i ∧ i < u.groups.length ∧ (u.group i).ctl.status = .running ∧ u.mayIssue (u.group i) = true ∧
      (u.group i).trap.callee = none ∧ (u.group i).reconverges false = false ∧
      ((u.group i).id.role = .matrix → (u.group i).sliceDue = false)
  (∀ s e rest, s.tick.agenda = e :: rest → step s = exec e { s.tick with agenda := rest }) ∧
  (∀ s i c ins, stands s i → (s.tick.group i).ctl.clause = some c → (s.tick.group i).ctl.pc ≠ c.addr → runs s s.tick i c ins) ∧
  (∀ (u v : State) (g : Group) (c : Clause), u.fetchClause g = .ok (c, v) → v.groups = u.groups ∧ v.mem = u.mem ∧ v.hub = u.hub ∧
    ∃ t, u.xlate g.loc.cell g.loc.quad g.id.ctx ⟨false, true, g.id.sys⟩ g.clauseStart = .ok t ∧
      c = u.clauseAt (u.icacheOf g) g.id.ctx g.clauseStart (t.phys g.clauseStart)) ∧
  (∀ s u i c ins, stands s i →
    let g := s.tick.group i
    (g.ctl.clause = some c ∧ u = s.tick) ∨ (g.ctl.clause = none ∧ s.tick.fetchClause g = .ok (c, u)) →
    let h := (c.words.getD 0 0#32).toNat
    g.ctl.pc = c.addr → c.sound = true → g.ctl.runCount + h % 16 ≤ 24 → h % 16 ≠ 0 → g.headerWaits h = false →
    runs s (u.modGroup i fun g => g.withCtl fun x => { x with clause := some c, pc := c.addr + 4#64, heldClocks := 0 }) i c ins)

/-- The machine goes on (07 R194, 12 R324, 11 R290): where only steps of the part stand in the agenda, every step
answers a next state, and there again only steps of the part stand in it: neither data, a mode, an operand nor an
encoding ends a run. The model's own readings and choices that it rests on: log entries 3, 4 and 5. -/
def Obligations.TheMachineGoesOn : Prop :=
  ∀ s : State, (∀ e ∈ s.agenda, e.isCode = false) → ∃ t, step s = .next t ∧ ∀ e ∈ t.agenda, e.isCode = false

/-- Every step keeps the canonical form of the byte stores: the home copy, the cells' storage and cell caches, the
palettes, the boot buffer, the mesh, the keep die and the vector tables. The model's own readings and choices that it
rests on: log entry 2. -/
def Obligations.StepsKeepByteStoresCanonical : Prop :=
  ∀ s t : State, s.canonical = true → step s = .next t → t.canonical = true

/-- 01 R16; 02 R44, R67, R71; 03 R74, R80, R99; 04 R106, R121, R127; 05 R153, R163; 07 R192: what reset leaves at the
values that the spec gives, with every byte store in its canonical form; and the state in which a group starts. The
model's own readings and choices that it rests on: log entries 2 and 7. -/
def Obligations.ResetAndGroupStart : Prop :=
  let h := State.reset.hub
  (State.reset.canonical = true ∧ State.reset.groups = [] ∧ State.reset.regions = [] ∧ State.reset.agenda = [] ∧
    (∀ p ∈ State.reset.partOwner, p = 0xFF) ∧ (∀ c ∈ State.reset.cells, c.power = .off ∧ ∀ q ∈ c.quads, q.owned = false) ∧
    (∀ p ∈ State.reset.panes, p.power = .off ∧ p.quarantined = false)) ∧
  (h.denied = 0 ∧ h.armTx = 0 ∧ h.armI3c = false ∧ (∀ w ∈ h.winBase ++ h.winLimit, w = 0) ∧ h.winViol = 0 ∧
    h.faultN = false ∧ h.thermtrip = false ∧ h.ready = false ∧ h.forced = 0 ∧ h.boot = 0) ∧
  ((∀ f ∈ h.fns, f.latch = [0, 0, 0, 0] ∧ f.queue = [[], [], [], []] ∧ f.rej = 0) ∧ h.power.cmd = none ∧ h.part.cmd = none ∧
    h.spare.cmd = none ∧ h.keepCmd = none ∧ h.keepDst = 0 ∧ h.ttCmd = none ∧ h.ceThresh = 0x100) ∧
  (∀ p ∈ h.pipes, p.en = false ∧ p.rej = false ∧ p.tt = 0 ∧ p.mismatch = 0 ∧ p.late = 0 ∧ p.diff = 0) ∧
  (∀ c ∈ h.cams, c.ctl = 0 ∧ c.count = 0 ∧ c.drops = 0) ∧
  ∀ (r : Region) (b blk seg : Nat) (x : Segment) (tidx : List Nat) (live : Lanes) (loc : GLoc) (pc : DWord) (again : Bool) (pb now : Nat),
    let g := Group.born r b blk seg x tidx live loc pc again pb now
    g.ctl.pc = pc ∧ g.ctl.live = live ∧ g.ctl.act = live ∧ g.ctl.stack = [] ∧ g.asy.cnt = [0, 0, 0, 0] ∧ g.regs.pend = [] ∧
    (∀ n, (g.vreg n).val = .uniform 0#32) ∧ (∀ n, 1 ≤ n → g.kreg n = 0#32) ∧ g.kreg 0 = live ∧
    g.sr.tvec = 0#64 ∧ g.sr.gtcmp = 0 ∧ g.sr.gtimer = 0 ∧ g.sr.fpctl = 0#32 ∧ g.sr.fpstat = 0#32 ∧ g.trap.parked = [] ∧
    ∀ l, l < 32 → g.genOf l = seedState 0#32 (tidx.getD l 0)

/-- 11 R291 to R295, R298, R299; 05 R137: the taking of a fault outside a gate call. One for the handler parks the lanes
it names with their address and their record, and the first parked sub-group is handled once no other lane runs before
the reconvergence point; while others do, they go on. One for the domain writes the record, with the domain and the
address, and then ends the stopped threads, or the block. TIMER is due only at an instruction that has not begun, while
its threshold is set and reached, and its delivery clears the threshold. The model's own readings and choices that it
rests on: log entries 15 and 50. -/
def Obligations.FaultsTaken : Prop :=
  let entry (g : Group) : DWord := g.sr.tvec &&& 0x0000FFFFFFFFFFC0#64
  let handlerFor (g : Group) (code : Nat) : Prop := code ∈ [0x0E, 0x0F, 0x11, 0x1C, 0x1D, 0x1E] ∧ entry g ≠ 0#64 ∧
    (code = 0x0E → g.sr.tvec.getLsbD 0 = true) ∧ g.trap.pstate ≠ .handler
  (∀ (s : State) (i : Nat) (f : FaultInfo) (lanes : Lanes) (pc ipc next : DWord),
    let g := s.group i
    let t := s.takeFault i f lanes pc ipc next
    let p : Park := ⟨lanes, pc, ((f.addr.getD ipc) <<< 16) ||| BitVec.ofNat 64 (f.detail % 256 * 256 + f.code), g.ctl.stack.length⟩
    i < s.groups.length → g.inGate = false → handlerFor g f.code →
      (∃ h, t = s.setGroup i h ∧ (t.group i).ctl.live = g.ctl.live ∧ (t.group i).regs = g.regs ∧ (t.group i).trap.parked = g.trap.parked ++ [p] ∧
        (t.group i).sr = (if f.code = 0x1C then { g.sr with gtcmp := 0 } else g.sr)) ∧
      (g.unparked → g.ctl.stack = [] → g.ctl.act &&& ~~~lanes = 0#32 ∨ next = g.ctl.pc → (t.group i).ctl.act = lanes ∧ (t.group i).ctl.pc = entry g ∧ (t.group i).trap.pstate = .handler) ∧
      (g.unparked → g.ctl.stack ≠ [] ∨ next ≠ g.ctl.pc → g.ctl.act &&& ~~~lanes ≠ 0#32 →
        (t.group i).ctl.act = g.ctl.act &&& ~~~lanes ∧ (t.group i).ctl.pc = g.ctl.pc ∧ (t.group i).trap.pstate = .others)) ∧
  (∀ (s : State) (i : Nat) (f : FaultInfo) (lanes : Lanes) (pc ipc next : DWord),
    let g := s.group i
    let b := s.block g.id.block
    let u := if f.code = 0x1C then s.modGroup i fun g => g.withSr fun r => { r with gtcmp := 0 } else s
    i < s.groups.length → g.inGate = false → ¬handlerFor g f.code →
      (b.fdom = .report → lanes ≠ 0#32 →
        s.takeFault i f lanes pc ipc next = (u.faultRecord (u.group i) f 0 pc.toNat 0).endThreads i lanes false) ∧
      (b.fdom ≠ .report →
        s.takeFault i f lanes pc ipc next = (u.faultRecord (u.group i) f 1 pc.toNat 0).endBlock g.id.block)) ∧
  (∀ (s u : State) (r : ErrRec), s.hub.save = none →
    let c := s.ctx r.ctx
    s.poisonVa r.ctx (c.errq + c.errHead % 2 ^ c.errqlog * 64) 64 = false →
    s.writeVa r.ctx (c.errq + c.errHead % 2 ^ c.errqlog * 64) (r.bytes c.errSeq (s.hv % 2 ^ 32)) = .ok u →
      (s.ctxRecord r).mem = u.mem ∧
      (r.ctx < s.ctxs.length → ((s.ctxRecord r).ctx r.ctx).errHead = (c.errHead + 1) % 2 ^ c.errqlog ∧
        ((s.ctxRecord r).ctx r.ctx).errSeq = (if 0xFFFFFFFF ≤ c.errSeq then 1 else c.errSeq + 1))) ∧
  ∀ (s : State) (i : Nat) (g : Group), s.timerDue i g = true →
    g.sr.gtcmp ≠ 0 ∧ g.sr.gtcmp ≤ g.sr.gtimer ∧ g.ctl.begun = none

/-! ### Numbers (10 R270 to R279; 14 R383, R384) -/

/-- 14 R384: FMIN and FMAX return the lesser or the greater operand, with −0 taken as less than +0. If exactly one
operand is a NaN, the other is returned; if both are, the canonical NaN. A signalling NaN raises IO, and nothing raises
another flag. The operand returned is not rounded. -/
def Obligations.MinimaAndMaxima : Prop :=
  let value (f : FFmt) (x : Nat) : ℚ := match f.decode x with
    | .fin neg m e => (if neg then -1 else 1) * (m : ℚ) * (2 : ℚ) ^ e
    | _ => 0
  (∀ f ∈ [fp32, fp16], ∀ (wantMax : Bool) (a b : Nat), a < 2 ^ f.width → b < 2 ^ f.width →
    let x := f.decode a
    let y := f.decode b
    let r := fMinMax f wantMax a b
    r.2 = (if x.isSNaN || y.isSNaN then fIO else fNone) ∧
    (x.isNaN = true → y.isNaN = true → r.1 = if f = fp32 then 0x7FC00000 else 0x7E00) ∧
    (x.isNaN = true → y.isNaN = false → r.1 = b) ∧ (x.isNaN = false → y.isNaN = true → r.1 = a) ∧
    (x.isNaN = false → y.isNaN = false → (r.1 = a ∨ r.1 = b) ∧
      (∀ n, (x = .inf n → r.1 = if n = wantMax then b else a) ∧ (y = .inf n → x ≠ .inf n → r.1 = if n = wantMax then a else b)) ∧
      (∀ n m e n' m' e', x = .fin n m e → y = .fin n' m' e' →
        (value f a < value f b → r.1 = if wantMax then b else a) ∧ (value f b < value f a → r.1 = if wantMax then a else b) ∧
        (m = 0 → m' = 0 → n ≠ n' → f.decode r.1 = .fin (!wantMax) 0 f.minExp)))) ∧
  ∀ (wantMax : Bool) (p : BitVec 1) (d a b : BitVec 7) (lit : Word),
    WritesF (if wantMax then .fmax 0#1 p d a b lit else .fmin 0#1 p d a b lit) (vecL d [a, b]) d.toNat fun g l =>
      perElement p (fun f xs => fMinMax f wantMax (xs.getD 0 0) (xs.getD 1 0)) [g.opLane a.toNat lit l, g.opLane b.toNat lit l]

/-- 10 R271, R274 to R276, R278; 14 R383: a finite sum, difference or product is rounded once, to the nearest value of
its format, and a tie to the even code; a value that the target holds is returned unchanged in every mode without a flag;
E4M3 has no infinity, and 464 is the last magnitude that rounds to 448 without overflow; conversions do not pass through
another format; the generator's state is never zero. -/
def Obligations.RoundingIsToNearest : Prop :=
  let value (f : FFmt) (x : Nat) : Option ℚ := match f.decode x with
    | .fin neg m e => some ((if neg then -1 else 1) * (m : ℚ) * (2 : ℚ) ^ e)
    | _ => none
  let nearest (f : FFmt) (v : ℚ) (r : Nat) (fl : FFlags) : Prop :=
    r < 2 ^ f.width ∧ ∀ z, value f r = some z → (∀ y u, y < 2 ^ f.width → value f y = some u → |v - z| ≤ |v - u| ∧
      (|v - z| = |v - u| → z ≠ u → r % 2 = 0)) ∧ (z = v → fl = fNone) ∧ (z ≠ v → fl &&& fNX = fNX)
  (∀ f ∈ [fp32, fp16], ∀ a b x y, a < 2 ^ f.width → b < 2 ^ f.width → value f a = some x → value f b = some y →
    nearest f (x + y) (fAdd f false a b).1 (fAdd f false a b).2 ∧ nearest f (x - y) (fSub f false a b).1 (fSub f false a b).2 ∧
    nearest f (x * y) (fMul f false a b).1 (fMul f false a b).2 ∧
    ∀ c z, c < 2 ^ f.width → value f c = some z → nearest f (x * y + z) (fFma f false a b c).1 (fFma f false a b c).2) ∧
  (∀ c f rm sat x v, floatFmt c = some f → x < 2 ^ f.width → value f x = some v → convert c c rm sat x = (x, fNone)) ∧
  (∀ (rm : RMode) (sat neg : Bool), deliverCode 3 rm sat (.inf neg false) = ((if neg then 0xFE else 0x7E), fOF ||| fNX)) ∧
  (∀ (neg : Bool) (n d : Nat), 0 < d → (464 * d < n → e4m3.deliver .rne false (.num neg n d 0) = ((if neg then 0xFE else 0x7E), fOF ||| fNX)) ∧
    (448 * d < n → n ≤ 464 * d → e4m3.deliver .rne false (.num neg n d 0) = ((if neg then 0xFE else 0x7E), fNX))) ∧
  (convert 0 3 .rne false 0x3F880008 = (0x39, fNX) ∧ convert 0 1 .rne false 0x3F880008 = (0x3C40, fNX) ∧
    convert 1 3 .rne false 0x3C40 = (0x38, fNX)) ∧
  (∀ s t, seedState s t ≠ 0#32) ∧ ∀ x, x ≠ 0#32 → (draw x).1 ≠ 0#32 ∧ (draw x).2 = (draw x).1.toNat / 256 ∧ (draw x).2 < 2 ^ 24
end

