-- ==== Sys2Proof/Laws/Mem.lean ====
section
/-! SUPPORT. Byte stores: every operation keeps the canonical form, a read after a write to the same place gives
the value written, a write leaves every other place alone, and canonical stores that read alike are equal. -/
namespace Sys2Proof.Machine
open Sys2Proof

theorem Mem.wfFrom_cons {lo x : Nat} {b : Byte} {r : Mem} :
    Mem.wfFrom lo ((x, b) :: r) = true ↔ lo ≤ x ∧ b ≠ Mem.unlisted ∧ Mem.wfFrom (x + 1) r = true := by
  simp [Mem.wfFrom, and_assoc]

theorem Mem.wfFrom_mono {lo hi : Nat} {m : Mem} (h : Mem.wfFrom hi m = true) (hl : lo ≤ hi) :
    Mem.wfFrom lo m = true := by
  cases m with
  | nil => rfl
  | cons c r =>
    obtain ⟨h1, h2, h3⟩ := Mem.wfFrom_cons.mp h
    exact Mem.wfFrom_cons.mpr ⟨by omega, h2, h3⟩

/-- An address below every listed one reads as unlisted. -/
theorem Mem.get_below {lo a : Nat} {m : Mem} (h : Mem.wfFrom lo m = true) (ha : a < lo) :
    m.get a = Mem.unlisted := by
  cases m with
  | nil => rfl
  | cons c r =>
    obtain ⟨h1, -, -⟩ := Mem.wfFrom_cons.mp h
    have : a ≠ c.1 := by omega
    have : a < c.1 := by omega
    simp [Mem.get, *]

theorem Mem.wfFrom_set {lo a : Nat} {v : Byte} : ∀ {m : Mem}, Mem.wfFrom lo m = true → lo ≤ a →
    Mem.wfFrom lo (m.set a v) = true := by
  intro m
  induction m generalizing lo with
  | nil =>
    intro _ ha
    unfold Mem.set
    split
    · rfl
    · exact Mem.wfFrom_cons.mpr ⟨ha, ‹_›, rfl⟩
  | cons c r ih =>
    intro h ha
    obtain ⟨h1, h2, h3⟩ := Mem.wfFrom_cons.mp h
    unfold Mem.set
    split
    · split
      · exact h
      · exact Mem.wfFrom_cons.mpr ⟨ha, ‹_›, Mem.wfFrom_cons.mpr ⟨by omega, h2, h3⟩⟩
    · split
      · split
        · exact Mem.wfFrom_mono h3 (by omega)
        · exact Mem.wfFrom_cons.mpr ⟨ha, ‹_›, by subst_vars; exact h3⟩
      · exact Mem.wfFrom_cons.mpr ⟨h1, h2, ih h3 (by omega)⟩

/-- A write keeps the canonical form. -/
theorem Mem.wf_set {m : Mem} (h : m.wf = true) (a : Nat) (v : Byte) : (m.set a v).wf = true :=
  Mem.wfFrom_set h (Nat.zero_le a)

theorem Mem.wf_put {m : Mem} (h : m.wf = true) (a : Nat) (b : List Byte) : (m.put a b).wf = true := by
  induction b generalizing m a with
  | nil => exact h
  | cons x r ih => exact ih (Mem.wf_set h a x) (a + 1)

theorem Mem.wfFrom_filter {lo : Nat} {m : Mem} (p : Host.Cell → Bool) (h : Mem.wfFrom lo m = true) :
    Mem.wfFrom lo (m.filter p) = true := by
  induction m generalizing lo with
  | nil => rfl
  | cons c r ih =>
    obtain ⟨h1, h2, h3⟩ := Mem.wfFrom_cons.mp h
    rw [List.filter_cons]
    split
    · exact Mem.wfFrom_cons.mpr ⟨h1, h2, ih h3⟩
    · exact Mem.wfFrom_mono (ih h3) (by omega)

theorem Mem.wf_erase {m : Mem} (h : m.wf = true) (a n : Nat) : (m.erase a n).wf = true :=
  Mem.wfFrom_filter _ h

theorem Mem.wfFrom_shift {lo a : Nat} {m : Mem} (h : Mem.wfFrom lo m = true) (ha : ∀ c ∈ m, a ≤ c.1) :
    Mem.wfFrom (lo - a) (m.map fun c => (c.1 - a, c.2)) = true := by
  induction m generalizing lo with
  | nil => rfl
  | cons c r ih =>
    obtain ⟨h1, h2, h3⟩ := Mem.wfFrom_cons.mp h
    have hc : a ≤ c.1 := ha c (by simp)
    have hr : Mem.wfFrom (c.1 + 1 - a) (r.map fun c => (c.1 - a, c.2)) = true :=
      ih h3 fun d hd => ha d (by simp [hd])
    exact Mem.wfFrom_cons.mpr ⟨by omega, h2, by rwa [show c.1 - a + 1 = c.1 + 1 - a by omega]⟩

theorem Mem.wf_slice {m : Mem} (h : m.wf = true) (a n : Nat) : (m.slice a n).wf = true := by
  have := Mem.wfFrom_shift (a := a) (Mem.wfFrom_filter (fun c => decide (a ≤ c.1 ∧ c.1 < a + n)) h)
    (by intro c hc; simp at hc; exact hc.2.1)
  simpa [Mem.wf, Mem.slice] using this

theorem Mem.wf_paste {m : Mem} (h : m.wf = true) (a : Nat) (src : Mem) : (m.paste a src).wf = true := by
  unfold Mem.paste
  induction src generalizing m with
  | nil => exact h
  | cons c r ih => exact ih (Mem.wf_set h _ _)

/-- A read after a write, at any address. -/
theorem Mem.get_set_from {lo : Nat} {m : Mem} (h : Mem.wfFrom lo m = true) (a x : Nat) (v : Byte) :
    (m.set a v).get x = if x = a then v else m.get x := by
  induction m generalizing lo with
  | nil =>
    unfold Mem.set
    split
    · simp_all [Mem.get]
    · simp only [Mem.get]; split_ifs <;> rfl
  | cons c r ih =>
    obtain ⟨h1, h2, h3⟩ := Mem.wfFrom_cons.mp h
    have hb := Mem.get_below (a := c.1) h3 (by omega)
    obtain ⟨y, b⟩ := c
    unfold Mem.set
    by_cases h4 : a < y
    · rw [if_pos h4]
      by_cases hv : v = Mem.unlisted
      · rw [if_pos hv]
        by_cases hx : x = a
        · subst hx
          have : x ≠ y := by omega
          simp [Mem.get, this, h4, hv]
        · rw [if_neg hx]
      · rw [if_neg hv]
        by_cases hx : x = a
        · simp [Mem.get, hx]
        · rw [if_neg hx]
          simp only [Mem.get, if_neg hx]
          by_cases h5 : x < a
          · have : x ≠ y := by omega
            have : x < y := by omega
            simp [*]
          · simp [h5]
    · rw [if_neg h4]
      by_cases h5 : a = y
      · subst h5
        rw [if_pos rfl]
        by_cases hv : v = Mem.unlisted
        · rw [if_pos hv]
          by_cases hx : x = a
          · subst hx; simpa [hv] using hb
          · rw [if_neg hx]
            simp only [Mem.get, if_neg hx]
            by_cases h6 : x < a
            · simp [h6, Mem.get_below h3 (show x < a + 1 by omega)]
            · simp [h6]
        · rw [if_neg hv]
          by_cases hx : x = a
          · simp [Mem.get, hx]
          · simp [Mem.get, hx]
      · rw [if_neg h5]
        simp only [Mem.get, ih h3]
        by_cases hx : x = y
        · have : x ≠ a := by omega
          simp [hx, Ne.symm h5]
        · rw [if_neg hx]
          by_cases h6 : x < y
          · have : x ≠ a := by omega
            simp [h6, this, hx]
          · simp [h6, hx]

theorem Mem.get_set {m : Mem} (h : m.wf = true) (a x : Nat) (v : Byte) :
    (m.set a v).get x = if x = a then v else m.get x := Mem.get_set_from h a x v

theorem Mem.get_put {m : Mem} (h : m.wf = true) (a x : Nat) (b : List Byte) :
    (m.put a b).get x = if a ≤ x ∧ x < a + b.length then b.getD (x - a) 0#8 else m.get x := by
  induction b generalizing m a with
  | nil => simp [Mem.put]
  | cons y r ih =>
    rw [Mem.put, ih (Mem.wf_set h a y), Mem.get_set h]
    simp only [List.length_cons]
    by_cases h1 : x = a
    · subst h1; simp
    · by_cases h2 : a + 1 ≤ x ∧ x < a + 1 + r.length
      · rw [if_pos h2, if_pos (by omega), show x - a = (x - (a + 1)) + 1 by omega, List.getD_cons_succ]
      · rw [if_neg h2, if_neg h1, if_neg (by omega)]

/-- Two canonical stores that read alike are the same store. -/
theorem Mem.ext_get {lo : Nat} {m n : Mem} (hm : Mem.wfFrom lo m = true) (hn : Mem.wfFrom lo n = true)
    (h : ∀ a, m.get a = n.get a) : m = n := by
  induction m generalizing lo n with
  | nil =>
    cases n with
    | nil => rfl
    | cons d t =>
      obtain ⟨-, h2, -⟩ := Mem.wfFrom_cons.mp hn
      have := h d.1
      simp [Mem.get] at this
      exact absurd this.symm h2
  | cons c r ih =>
    obtain ⟨a1, a2, a3⟩ := Mem.wfFrom_cons.mp hm
    cases n with
    | nil =>
      have := h c.1
      simp [Mem.get] at this
      exact absurd this a2
    | cons d t =>
      obtain ⟨b1, b2, b3⟩ := Mem.wfFrom_cons.mp hn
      have hc := h c.1
      have hd := h d.1
      obtain ⟨x, u⟩ := c
      obtain ⟨y, w⟩ := d
      simp only [Mem.get] at hc hd
      have hxy : x = y := by
        by_contra hne
        rcases Nat.lt_or_gt_of_ne hne with hlt | hgt
        · simp [hlt, hne] at hc; exact a2 hc
        · simp [show y < x by omega, Ne.symm hne] at hd; exact b2 hd.symm
      subst hxy
      simp at hc
      subst hc
      congr 1
      refine ih a3 b3 fun a => ?_
      by_cases ha : a ≤ x
      · rw [Mem.get_below a3 (by omega), Mem.get_below b3 (by omega)]
      · have := h a
        simpa [Mem.get, show a ≠ x by omega, show ¬ a < x by omega] using this

end Sys2Proof.Machine
end

