-- ==== Sys2Proof/Laws/PerInstr.lean ====
section
/-! SUPPORT. Decoding the encoder's words gives the instruction back: one lemma for each constructor. A row that
is a step of the part has no words, and its lemma says nothing. -/
section
set_option Elab.async false
set_option linter.unusedSimpArgs false

namespace Sys2Proof.Laws

theorem withLit_first (w : Nat) (codes : List (BitVec 7)) (lit : BitVec 32) : (withLit w codes lit).getD 0 0 = w := by
  unfold withLit; split <;> rfl

theorem contains_iff_any (codes : List (BitVec 7)) :
    (codes.map BitVec.toNat).contains 124 = codes.any (fun c => c == 124#7) := by
  induction codes with
  | nil => rfl
  | cons c r ih =>
    have h : (124 == c.toNat) = (c == 124#7) := by
      rw [Bool.eq_iff_iff]; simp only [beq_iff_eq, BitVec.toNat_eq, BitVec.toNat_ofNat]; omega
    simp only [List.map_cons, List.contains_cons, List.any_cons, ih, h]

theorem litWord_withLit (w x : Nat) (codes : List (BitVec 7)) (lit : BitVec 32) (h : litOk codes lit = true) :
    litWord (codes.map BitVec.toNat) ((withLit w codes lit).getD 1 x) = lit := by
  unfold litWord withLit litOk at *
  rw [contains_iff_any]
  cases hc : codes.any (fun c => c == 124#7)
  · rw [hc] at h; simpa using (by simpa using h : lit = 0#32).symm
  · simp

theorem litWords_withLit (w : Nat) (codes : List (BitVec 7)) (lit : BitVec 32) :
    litWords (codes.map BitVec.toNat) = (withLit w codes lit).length := by
  unfold litWords withLit
  rw [contains_iff_any]
  cases codes.any (fun c => c == 124#7) <;> rfl

theorem decodedIf_good (i : Instr) (n : Nat) (h : i.wellFormed = true) : decodedIf 0 i n = .instr i n := by
  simp [decodedIf, h]

/-! ### Fields of a word written from its lowest field up -/

theorem above (n k x b hi lo : Nat) (hn : n = 2 ^ k) (hb : b < n)
    (hl : k ≤ lo ∧ lo ≤ hi := by decide) :
    wordField (x * n + b) hi lo = wordField x (hi - k) (lo - k) := by
  subst hn
  unfold wordField
  obtain ⟨hl, hh⟩ := hl
  have h1 : hi - k + 1 - (lo - k) = hi + 1 - lo := by omega
  have h2 : (2 : Nat) ^ lo = 2 ^ k * 2 ^ (lo - k) := by rw [← Nat.pow_add]; congr 1; omega
  rw [h1, h2, ← Nat.div_div_eq_div_mul, Nat.mul_comm x, Nat.mul_add_div (Nat.two_pow_pos k), Nat.div_eq_of_lt hb, Nat.add_zero]

theorem above_zeros (n k x hi lo : Nat) (hn : n = 2 ^ k) (hl : k ≤ lo ∧ lo ≤ hi := by decide) :
    wordField (x * n) hi lo = wordField x (hi - k) (lo - k) :=
  above n k x 0 hi lo hn (hn ▸ Nat.two_pow_pos k) hl

theorem lowest_zeros (n x hi : Nat) (hn : n = 2 ^ (hi + 1)) : wordField (x * n) hi 0 = 0 := by
  subst hn; simp [wordField]

theorem lowest (n x b hi : Nat) (hn : n = 2 ^ (hi + 1)) (hb : b < n) : wordField (x * n + b) hi 0 = b := by
  subst hn
  unfold wordField
  simp only [Nat.pow_zero, Nat.div_one, Nat.sub_zero]
  rw [Nat.mul_comm, Nat.mul_add_mod, Nat.mod_eq_of_lt hb]

theorem whole (n b hi : Nat) (hn : n = 2 ^ (hi + 1)) (hb : b < n) : wordField b hi 0 = b := by
  subst hn; unfold wordField
  simp only [Nat.pow_zero, Nat.div_one, Nat.sub_zero]
  exact Nat.mod_eq_of_lt hb

/-- What the family of lemmas says of an instruction: its first word with its second, or with any word after it
where it has no second, decodes to it and to the number of its words. -/
def RoundTrip.Statement (i : Instr) : Prop :=
  i.isCode = true → i.wellFormed = true → ∀ x : Nat,
    decodeWords ((encode i).getD 0 0) ((encode i).getD 1 x) = .instr i (encode i).length

namespace RoundTrip


theorem major00 {w x : Nat} (h : wordField w 31 26 = 0) : decodeWords w x = decodeMajor00 w x := by
  simp only [decodeWords, h]

theorem major01 {w x : Nat} (h : wordField w 31 26 = 1) : decodeWords w x = decodeMajor01 w x := by
  simp only [decodeWords, h]

theorem major02 {w x : Nat} (h : wordField w 31 26 = 2) : decodeWords w x = decodeMajor02 w x := by
  simp only [decodeWords, h]

theorem major03 {w x : Nat} (h : wordField w 31 26 = 3) : decodeWords w x = decodeMajor03 w x := by
  simp only [decodeWords, h]

theorem major04 {w x : Nat} (h : wordField w 31 26 = 4) : decodeWords w x = decodeMajor04 w x := by
  simp only [decodeWords, h]

theorem major05 {w x : Nat} (h : wordField w 31 26 = 5) : decodeWords w x = decodeMajor05 w x := by
  simp only [decodeWords, h]

theorem major06 {w x : Nat} (h : wordField w 31 26 = 6) : decodeWords w x = decodeMajor06 w x := by
  simp only [decodeWords, h]

theorem major07 {w x : Nat} (h : wordField w 31 26 = 7) : decodeWords w x = decodeMajor07 w x := by
  simp only [decodeWords, h]

theorem major08 {w x : Nat} (h : wordField w 31 26 = 8) : decodeWords w x = decodeMajor08 w x := by
  simp only [decodeWords, h]

theorem major09 {w x : Nat} (h : wordField w 31 26 = 9) : decodeWords w x = decodeMajor09 w x := by
  simp only [decodeWords, h]

theorem major0A {w x : Nat} (h : wordField w 31 26 = 10) : decodeWords w x = decodeMajor0A w x := by
  simp only [decodeWords, h]

theorem major0B {w x : Nat} (h : wordField w 31 26 = 11) : decodeWords w x = decodeMajor0B w x := by
  simp only [decodeWords, h]

theorem major0C {w x : Nat} (h : wordField w 31 26 = 12) : decodeWords w x = decodeMajor0C w x := by
  simp only [decodeWords, h]

theorem major0D {w x : Nat} (h : wordField w 31 26 = 13) : decodeWords w x = decodeMajor0D w x := by
  simp only [decodeWords, h]

theorem major0E {w x : Nat} (h : wordField w 31 26 = 14) : decodeWords w x = decodeMajor0E w x := by
  simp only [decodeWords, h]

theorem major0F {w x : Nat} (h : wordField w 31 26 = 15) : decodeWords w x = decodeMajor0F w x := by
  simp only [decodeWords, h]

theorem major10 {w x : Nat} (h : wordField w 31 26 = 16) : decodeWords w x = decodeMajor10 w x := by
  simp only [decodeWords, h]

theorem major11 {w x : Nat} (h : wordField w 31 26 = 17) : decodeWords w x = decodeMajor11 w x := by
  simp only [decodeWords, h]

theorem major12 {w x : Nat} (h : wordField w 31 26 = 18) : decodeWords w x = decodeMajor12 w x := by
  simp only [decodeWords, h]

theorem major13 {w x : Nat} (h : wordField w 31 26 = 19) : decodeWords w x = decodeMajor13 w x := by
  simp only [decodeWords, h]

theorem major14 {w x : Nat} (h : wordField w 31 26 = 20) : decodeWords w x = decodeMajor14 w x := by
  simp only [decodeWords, h]

theorem major15 {w x : Nat} (h : wordField w 31 26 = 21) : decodeWords w x = decodeMajor15 w x := by
  simp only [decodeWords, h]

theorem major16 {w x : Nat} (h : wordField w 31 26 = 22) : decodeWords w x = decodeMajor16 w x := by
  simp only [decodeWords, h]

theorem major17 {w x : Nat} (h : wordField w 31 26 = 23) : decodeWords w x = decodeMajor17 w x := by
  simp only [decodeWords, h]

theorem major18 {w x : Nat} (h : wordField w 31 26 = 24) : decodeWords w x = decodeMajor18 w x := by
  simp only [decodeWords, h]

theorem major19 {w x : Nat} (h : wordField w 31 26 = 25) : decodeWords w x = decodeMajor19 w x := by
  simp only [decodeWords, h]

theorem major1A {w x : Nat} (h : wordField w 31 26 = 26) : decodeWords w x = decodeMajor1A w x := by
  simp only [decodeWords, h]

theorem major1B {w x : Nat} (h : wordField w 31 26 = 27) : decodeWords w x = decodeMajor1B w x := by
  simp only [decodeWords, h]

theorem major1C {w x : Nat} (h : wordField w 31 26 = 28) : decodeWords w x = decodeMajor1C w x := by
  simp only [decodeWords, h]

theorem major1D {w x : Nat} (h : wordField w 31 26 = 29) : decodeWords w x = decodeMajor1D w x := by
  simp only [decodeWords, h]

theorem major1E {w x : Nat} (h : wordField w 31 26 = 30) : decodeWords w x = decodeMajor1E w x := by
  simp only [decodeWords, h]

theorem major1F {w x : Nat} (h : wordField w 31 26 = 31) : decodeWords w x = decodeMajor1F w x := by
  simp only [decodeWords, h]

theorem major20 {w x : Nat} (h : wordField w 31 26 = 32) : decodeWords w x = decodeMajor20 w x := by
  simp only [decodeWords, h]

theorem major21 {w x : Nat} (h : wordField w 31 26 = 33) : decodeWords w x = decodeMajor21 w x := by
  simp only [decodeWords, h]

theorem major22 {w x : Nat} (h : wordField w 31 26 = 34) : decodeWords w x = decodeMajor22 w x := by
  simp only [decodeWords, h]

theorem major23 {w x : Nat} (h : wordField w 31 26 = 35) : decodeWords w x = decodeMajor23 w x := by
  simp only [decodeWords, h]

theorem major24 {w x : Nat} (h : wordField w 31 26 = 36) : decodeWords w x = decodeMajor24 w x := by
  simp only [decodeWords, h]

theorem major25 {w x : Nat} (h : wordField w 31 26 = 37) : decodeWords w x = decodeMajor25 w x := by
  simp only [decodeWords, h]

theorem major26 {w x : Nat} (h : wordField w 31 26 = 38) : decodeWords w x = decodeMajor26 w x := by
  simp only [decodeWords, h]

theorem major27 {w x : Nat} (h : wordField w 31 26 = 39) : decodeWords w x = decodeMajor27 w x := by
  simp only [decodeWords, h]

theorem major28 {w x : Nat} (h : wordField w 31 26 = 40) : decodeWords w x = decodeMajor28 w x := by
  simp only [decodeWords, h]

theorem major29 {w x : Nat} (h : wordField w 31 26 = 41) : decodeWords w x = decodeMajor29 w x := by
  simp only [decodeWords, h]

theorem major2A {w x : Nat} (h : wordField w 31 26 = 42) : decodeWords w x = decodeMajor2A w x := by
  simp only [decodeWords, h]

theorem major30 {w x : Nat} (h : wordField w 31 26 = 48) : decodeWords w x = decodeMajor30 w x := by
  simp only [decodeWords, h]

theorem major31 {w x : Nat} (h : wordField w 31 26 = 49) : decodeWords w x = decodeMajor31 w x := by
  simp only [decodeWords, h]

theorem major32 {w x : Nat} (h : wordField w 31 26 = 50) : decodeWords w x = decodeMajor32 w x := by
  simp only [decodeWords, h]

theorem major33 {w x : Nat} (h : wordField w 31 26 = 51) : decodeWords w x = decodeMajor33 w x := by
  simp only [decodeWords, h]

theorem major34 {w x : Nat} (h : wordField w 31 26 = 52) : decodeWords w x = decodeMajor34 w x := by
  simp only [decodeWords, h]

theorem major35 {w x : Nat} (h : wordField w 31 26 = 53) : decodeWords w x = decodeMajor35 w x := by
  simp only [decodeWords, h]

theorem major36 {w x : Nat} (h : wordField w 31 26 = 54) : decodeWords w x = decodeMajor36 w x := by
  simp only [decodeWords, h]

theorem major37 {w x : Nat} (h : wordField w 31 26 = 55) : decodeWords w x = decodeMajor37 w x := by
  simp only [decodeWords, h]

theorem major38 {w x : Nat} (h : wordField w 31 26 = 56) : decodeWords w x = decodeMajor38 w x := by
  simp only [decodeWords, h]

theorem major39 {w x : Nat} (h : wordField w 31 26 = 57) : decodeWords w x = decodeMajor39 w x := by
  simp only [decodeWords, h]

theorem major3C {w x : Nat} (h : wordField w 31 26 = 60) : decodeWords w x = decodeMajor3C w x := by
  simp only [decodeWords, h]

theorem major3D {w x : Nat} (h : wordField w 31 26 = 61) : decodeWords w x = decodeMajor3D w x := by
  simp only [decodeWords, h]

theorem major3E {w x : Nat} (h : wordField w 31 26 = 62) : decodeWords w x = decodeMajor3E w x := by
  simp only [decodeWords, h]

theorem major3F {w x : Nat} (h : wordField w 31 26 = 63) : decodeWords w x = decodeMajor3F w x := by
  simp only [decodeWords, h]

theorem porReset (a0 : Nat) (a1 : Nat) (a2 : Nat) : Statement (.porReset a0 a1 a2) := fun h => nomatch h

theorem perstReset (a0 : Nat) : Statement (.perstReset a0) := fun h => nomatch h

theorem sysclkFault : Statement (.sysclkFault) := fun h => nomatch h

theorem sysclkReturn : Statement (.sysclkReturn) := fun h => nomatch h

theorem dclkFault : Statement (.dclkFault) := fun h => nomatch h

theorem lockstepMismatch : Statement (.lockstepMismatch) := fun h => nomatch h

theorem thermtrip : Statement (.thermtrip) := fun h => nomatch h

theorem supplyLoss (a0 : Nat) : Statement (.supplyLoss a0) := fun h => nomatch h

theorem handlerBudgetExpiry (a0 : Nat) : Statement (.handlerBudgetExpiry a0) := fun h => nomatch h

theorem holdupSaveComplete : Statement (.holdupSaveComplete) := fun h => nomatch h

theorem reserveCharged : Statement (.reserveCharged) := fun h => nomatch h

theorem bootGo (a0 : Nat) : Statement (.bootGo a0) := fun h => nomatch h

theorem firmwareImageCheck (a0 : Nat) (a1 : Nat) (a2 : Nat) (a3 : Nat) (a4 : Nat) : Statement (.firmwareImageCheck a0 a1 a2 a3 a4) := fun h => nomatch h

theorem postRootRegion (a0 : Nat) (a1 : Nat) (a2 : Nat) (a3 : Nat) : Statement (.postRootRegion a0 a1 a2 a3) := fun h => nomatch h

theorem postLowHalfWrite (a0 : Nat) (a1 : Nat) (a2 : Nat) : Statement (.postLowHalfWrite a0 a1 a2) := fun h => nomatch h

theorem resyncToMemory (a0 : Nat) (a1 : Nat) (a2 : Nat) (a3 : Nat) : Statement (.resyncToMemory a0 a1 a2 a3) := fun h => nomatch h

theorem resyncToWindow (a0 : Nat) (a1 : Nat) (a2 : Nat) (a3 : Nat) : Statement (.resyncToWindow a0 a1 a2 a3) := fun h => nomatch h

theorem powerCmdCell (a0 : Nat) : Statement (.powerCmdCell a0) := fun h => nomatch h

theorem powerCmdPane (a0 : Nat) : Statement (.powerCmdPane a0) := fun h => nomatch h

theorem powerCmdDevice (a0 : Nat) : Statement (.powerCmdDevice a0) := fun h => nomatch h

theorem dHold (a0 : Nat) : Statement (.dHold a0) := fun h => nomatch h

theorem powerCmdComplete (a0 : Nat) : Statement (.powerCmdComplete a0) := fun h => nomatch h

theorem clampTrigger (a0 : Nat) (a1 : Nat) (a2 : Nat) : Statement (.clampTrigger a0 a1 a2) := fun h => nomatch h

theorem clampStep (a0 : ClampTick) : Statement (.clampStep a0) := fun h => nomatch h

theorem clampRelease (a0 : Nat) (a1 : Nat) (a2 : Nat) : Statement (.clampRelease a0 a1 a2) := fun h => nomatch h

theorem faultClear (a0 : Nat) (a1 : Nat) (a2 : Nat) : Statement (.faultClear a0 a1 a2) := fun h => nomatch h

theorem armWrite (a0 : Nat) (a1 : Nat) : Statement (.armWrite a0 a1) := fun h => nomatch h

theorem seamStatusClear (a0 : Nat) (a1 : Nat) (a2 : Nat) : Statement (.seamStatusClear a0 a1 a2) := fun h => nomatch h

theorem registerWrite (a0 : Nat) (a1 : Nat) (a2 : Nat) (a3 : Nat) (a4 : Nat) : Statement (.registerWrite a0 a1 a2 a3 a4) := fun h => nomatch h

theorem i3cResync : Statement (.i3cResync) := fun h => nomatch h

theorem i3cStatus : Statement (.i3cStatus) := fun h => nomatch h

theorem i3cFaultClear (a0 : Nat) : Statement (.i3cFaultClear a0) := fun h => nomatch h

theorem forceUndercoat (a0 : Nat) : Statement (.forceUndercoat a0) := fun h => nomatch h

theorem releaseUndercoat (a0 : Nat) : Statement (.releaseUndercoat a0) := fun h => nomatch h

theorem i3cHoldup : Statement (.i3cHoldup) := fun h => nomatch h

theorem i3cUnknownCommand : Statement (.i3cUnknownCommand) := fun h => nomatch h

theorem i3cPrivateRead : Statement (.i3cPrivateRead) := fun h => nomatch h

theorem vfConfigRequest (a0 : Nat) (a1 : Nat) (a2 : Nat) (a3 : Nat) : Statement (.vfConfigRequest a0 a1 a2 a3) := fun h => nomatch h

theorem apertureRequest (a0 : Nat) (a1 : Nat) (a2 : Nat) (a3 : Nat) (a4 : Nat) : Statement (.apertureRequest a0 a1 a2 a3 a4) := fun h => nomatch h

theorem functionLevelReset (a0 : Nat) : Statement (.functionLevelReset a0) := fun h => nomatch h

theorem partCommit (a0 : Nat) (a1 : Nat) : Statement (.partCommit a0 a1) := fun h => nomatch h

theorem partGrow (a0 : Nat) (a1 : Nat) : Statement (.partGrow a0 a1) := fun h => nomatch h

theorem partShrink (a0 : Nat) (a1 : Nat) : Statement (.partShrink a0 a1) := fun h => nomatch h

theorem shrinkComplete (a0 : Nat) : Statement (.shrinkComplete a0) := fun h => nomatch h

theorem deferredLaunchEviction (a0 : Nat) : Statement (.deferredLaunchEviction a0) := fun h => nomatch h

theorem partCancel (a0 : Nat) (a1 : Nat) : Statement (.partCancel a0 a1) := fun h => nomatch h

theorem rungReset (a0 : Nat) (a1 : Nat) : Statement (.rungReset a0 a1) := fun h => nomatch h

theorem invCtx (a0 : Nat) (a1 : Nat) : Statement (.invCtx a0 a1) := fun h => nomatch h

theorem rungTimeout (a0 : Nat) : Statement (.rungTimeout a0) := fun h => nomatch h

theorem rungComplete (a0 : Nat) : Statement (.rungComplete a0) := fun h => nomatch h

theorem classWaysWrite (a0 : Nat) (a1 : Nat) (a2 : Nat) : Statement (.classWaysWrite a0 a1 a2) := fun h => nomatch h

theorem classBwWrite (a0 : Nat) (a1 : Nat) (a2 : Nat) : Statement (.classBwWrite a0 a1 a2) := fun h => nomatch h

theorem pipeEnable (a0 : Nat) (a1 : Nat) (a2 : Nat) (a3 : Nat) : Statement (.pipeEnable a0 a1 a2 a3) := fun h => nomatch h

theorem pipeDisable (a0 : Nat) (a1 : Nat) (a2 : Nat) : Statement (.pipeDisable a0 a1 a2) := fun h => nomatch h

theorem layerTableCommit (a0 : Nat) (a1 : Nat) (a2 : Nat) (a3 : Nat) : Statement (.layerTableCommit a0 a1 a2 a3) := fun h => nomatch h

theorem layerCommitTake (a0 : Nat) : Statement (.layerCommitTake a0) := fun h => nomatch h

theorem coatSign (a0 : Nat) : Statement (.coatSign a0) := fun h => nomatch h

theorem frameDecision (a0 : Nat) : Statement (.frameDecision a0) := fun h => nomatch h

theorem scanoutTileCheck (a0 : Nat) (a1 : Nat) (a2 : Nat) : Statement (.scanoutTileCheck a0 a1 a2) := fun h => nomatch h

theorem paneSelfTestStart (a0 : Nat) : Statement (.paneSelfTestStart a0) := fun h => nomatch h

theorem paneSelfTestEnd (a0 : Nat) (a1 : Nat) : Statement (.paneSelfTestEnd a0 a1) := fun h => nomatch h

theorem readmit (a0 : Nat) (a1 : Nat) : Statement (.readmit a0 a1) := fun h => nomatch h

theorem telltaleLoad (a0 : Nat) (a1 : Nat) : Statement (.telltaleLoad a0 a1) := fun h => nomatch h

theorem telltaleCopyComplete : Statement (.telltaleCopyComplete) := fun h => nomatch h

theorem latchWrite (a0 : Nat) (a1 : Nat) (a2 : Nat) : Statement (.latchWrite a0 a1 a2) := fun h => nomatch h

theorem hudLatchTake : Statement (.hudLatchTake) := fun h => nomatch h

theorem cameraStreamWrite (a0 : Nat) (a1 : Nat) (a2 : Nat) : Statement (.cameraStreamWrite a0 a1 a2) := fun h => nomatch h

theorem cameraFrameStart (a0 : CamChannel) : Statement (.cameraFrameStart a0) := fun h => nomatch h

theorem cameraLine (a0 : CamPacket) (a1 : Nat) (a2 : Nat) (a3 : Nat) : Statement (.cameraLine a0 a1 a2 a3) := fun h => nomatch h

theorem cameraFrameEnd (a0 : CamChannel) : Statement (.cameraFrameEnd a0) := fun h => nomatch h

theorem cameraTxFrame (a0 : Nat) : Statement (.cameraTxFrame a0) := fun h => nomatch h

theorem devqEnable (a0 : Nat) (a1 : Nat) : Statement (.devqEnable a0 a1) := fun h => nomatch h

theorem spareLane (a0 : Nat) (a1 : Nat) : Statement (.spareLane a0 a1) := fun h => nomatch h

theorem spareCell (a0 : Nat) (a1 : Nat) : Statement (.spareCell a0 a1) := fun h => nomatch h

theorem spareWay (a0 : Nat) (a1 : Nat) : Statement (.spareWay a0 a1) := fun h => nomatch h

theorem spareChannel (a0 : Nat) (a1 : Nat) : Statement (.spareChannel a0 a1) := fun h => nomatch h

theorem unfence (a0 : Nat) (a1 : Nat) : Statement (.unfence a0 a1) := fun h => nomatch h

theorem spareCmdComplete (a0 : Nat) : Statement (.spareCmdComplete a0) := fun h => nomatch h

theorem channelMigrationComplete : Statement (.channelMigrationComplete) := fun h => nomatch h

theorem seamFlitReplay (a0 : Nat) : Statement (.seamFlitReplay a0) := fun h => nomatch h

theorem seamEyeCheck (a0 : Nat) (a1 : Nat) (a2 : Nat) : Statement (.seamEyeCheck a0 a1 a2) := fun h => nomatch h

theorem seamLaneFail (a0 : Nat) (a1 : Nat) : Statement (.seamLaneFail a0 a1) := fun h => nomatch h

theorem correctedError (a0 : ErrPlace) : Statement (.correctedError a0) := fun h => nomatch h

theorem ageSample (a0 : Nat) (a1 : Nat) (a2 : Nat) : Statement (.ageSample a0 a1 a2) := fun h => nomatch h

theorem beadSelfTestStart (a0 : Nat) (a1 : Nat) : Statement (.beadSelfTestStart a0 a1) := fun h => nomatch h

theorem beadSelfTestEnd (a0 : Nat) (a1 : Nat) (a2 : Nat) : Statement (.beadSelfTestEnd a0 a1 a2) := fun h => nomatch h

theorem beadSelfTestOverdue (a0 : Nat) (a1 : Nat) : Statement (.beadSelfTestOverdue a0 a1) := fun h => nomatch h

theorem keepDir (a0 : Nat) (a1 : Nat) : Statement (.keepDir a0 a1) := fun h => nomatch h

theorem keepData (a0 : Nat) (a1 : Nat) : Statement (.keepData a0 a1) := fun h => nomatch h

theorem keepErase (a0 : Nat) (a1 : Nat) : Statement (.keepErase a0 a1) := fun h => nomatch h

theorem keepCmdComplete : Statement (.keepCmdComplete) := fun h => nomatch h

theorem rollback (a0 : Nat) : Statement (.rollback a0) := fun h => nomatch h

theorem postTake (a0 : Nat) (a1 : Nat) : Statement (.postTake a0 a1) := fun h => nomatch h

theorem blockPlace (a0 : Nat) : Statement (.blockPlace a0) := fun h => nomatch h

theorem arbitration (a0 : Nat) (a1 : Nat) : Statement (.arbitration a0 a1) := fun h => nomatch h

theorem groupWake (a0 : Nat) : Statement (.groupWake a0) := fun h => nomatch h

theorem sliceEnd (a0 : Nat) (a1 : Nat) : Statement (.sliceEnd a0 a1) := fun h => nomatch h

theorem blockEvict (a0 : Nat) : Statement (.blockEvict a0) := fun h => nomatch h

theorem regionComplete (a0 : Nat) : Statement (.regionComplete a0) := fun h => nomatch h

theorem resultLanding (a0 : Nat) (a1 : Nat) : Statement (.resultLanding a0 a1) := fun h => nomatch h

theorem groupSlotRelease (a0 : Nat) : Statement (.groupSlotRelease a0) := fun h => nomatch h

theorem trackerEntryFree (a0 : Nat) : Statement (.trackerEntryFree a0) := fun h => nomatch h

theorem contResultWrite (a0 : Nat) : Statement (.contResultWrite a0) := fun h => nomatch h

theorem regroupRelaunch (a0 : Nat) : Statement (.regroupRelaunch a0) := fun h => nomatch h

theorem watchdogExpiry (a0 : Nat) : Statement (.watchdogExpiry a0) := fun h => nomatch h

theorem gateBudgetExpiry (a0 : Nat) : Statement (.gateBudgetExpiry a0) := fun h => nomatch h

theorem sleepExpiry (a0 : Nat) : Statement (.sleepExpiry a0) := fun h => nomatch h

theorem lineFillReturn (a0 : Nat) : Statement (.lineFillReturn a0) := fun h => nomatch h

theorem releaseDrainComplete (a0 : Nat) : Statement (.releaseDrainComplete a0) := fun h => nomatch h

theorem tlbWalkComplete (a0 : Nat) (a1 : Nat) (a2 : Nat) (a3 : Nat) : Statement (.tlbWalkComplete a0 a1 a2 a3) := fun h => nomatch h

theorem atomicPerform (a0 : Nat) : Statement (.atomicPerform a0) := fun h => nomatch h

theorem atomReply (a0 : Nat) : Statement (.atomReply a0) := fun h => nomatch h

theorem hodOpComplete (a0 : Nat) (a1 : Nat) (a2 : Nat) : Statement (.hodOpComplete a0 a1 a2) := fun h => nomatch h

theorem msgDeliver (a0 : Nat) : Statement (.msgDeliver a0) := fun h => nomatch h

theorem monitorMatch (a0 : Nat) : Statement (.monitorMatch a0) := fun h => nomatch h

theorem monitorPoll (a0 : Nat) : Statement (.monitorPoll a0) := fun h => nomatch h

theorem kstep (a0 : Nat) : Statement (.kstep a0) := fun h => nomatch h

theorem matrixOpComplete (a0 : Nat) : Statement (.matrixOpComplete a0) := fun h => nomatch h

theorem texComplete (a0 : Nat) : Statement (.texComplete a0) := fun h => nomatch h

theorem traceComplete (a0 : Nat) : Statement (.traceComplete a0) := fun h => nomatch h

theorem forcedRender (a0 : Nat) : Statement (.forcedRender a0) := fun h => nomatch h

theorem ticketDone (a0 : Nat) (a1 : Nat) : Statement (.ticketDone a0 a1) := fun h => nomatch h

theorem tileFlush (a0 : Nat) (a1 : Nat) : Statement (.tileFlush a0 a1) := fun h => nomatch h

theorem tileStore (a0 : Nat) (a1 : Nat) : Statement (.tileStore a0 a1) := fun h => nomatch h

theorem nop : Statement .nop := by
  intro hcode hwf x
  clear hcode
  obtain ⟨w0, ew⟩ : ∃ w0, w0 = 0 := ⟨_, rfl⟩
  have f0 : wordField w0 31 26 = 0 := by subst ew; decide
  have f1 : wordField w0 25 21 = 0 := by subst ew; decide
  have f2 : wordField w0 20 0 = 0 := by subst ew; decide
  have he : encode (.nop) = [w0] := by subst ew; exact rfl
  rw [he]
  refine (major00 f0).trans ?_
  show decodeMajor00 w0 x = _
  simp only [decodeMajor00, f1, f2, BitVec.ofNat_toNat, BitVec.setWidth_eq]
  exact decodedIf_good _ _ hwf

theorem exit : Statement .exit := by
  intro hcode hwf x
  clear hcode
  obtain ⟨w0, ew⟩ : ∃ w0, w0 = 0x00200000 := ⟨_, rfl⟩
  have f0 : wordField w0 31 26 = 0 := by subst ew; decide
  have f1 : wordField w0 25 21 = 1 := by subst ew; decide
  have f2 : wordField w0 20 0 = 0 := by subst ew; decide
  have he : encode (.exit) = [w0] := by subst ew; exact rfl
  rw [he]
  refine (major00 f0).trans ?_
  show decodeMajor00 w0 x = _
  simp only [decodeMajor00, f1, f2, BitVec.ofNat_toNat, BitVec.setWidth_eq]
  exact decodedIf_good _ _ hwf

theorem tail : Statement .tail := by
  intro hcode hwf x
  clear hcode
  obtain ⟨w0, ew⟩ : ∃ w0, w0 = 0x00400000 := ⟨_, rfl⟩
  have f0 : wordField w0 31 26 = 0 := by subst ew; decide
  have f1 : wordField w0 25 21 = 2 := by subst ew; decide
  have f2 : wordField w0 20 0 = 0 := by subst ew; decide
  have he : encode (.tail) = [w0] := by subst ew; exact rfl
  rw [he]
  refine (major00 f0).trans ?_
  show decodeMajor00 w0 x = _
  simp only [decodeMajor00, f1, f2, BitVec.ofNat_toNat, BitVec.setWidth_eq]
  exact decodedIf_good _ _ hwf

theorem trap (i : BitVec 8) : Statement (.trap i) := by
  intro hcode hwf x
  clear hcode
  have b0 := i.isLt
  obtain ⟨w0, ew⟩ : ∃ w0, w0 = 0x00600000 + i.toNat := ⟨_, rfl⟩
  have hw : w0 = ((0 * 32 + 3) * 8192) * 256 + i.toNat := ew.trans (by clear ew; omega)
  have f0 : wordField w0 31 26 = 0 := by rw [hw]; exact (above 256 8 _ (i.toNat) 31 26 rfl i.isLt).trans ((above_zeros 8192 13 _ 23 18 rfl).trans ((above 32 5 _ (3) 10 5 rfl (by decide)).trans (whole 64 (0) 5 rfl (by decide))))
  have f1 : wordField w0 25 21 = 3 := by rw [hw]; exact (above 256 8 _ (i.toNat) 25 21 rfl i.isLt).trans ((above_zeros 8192 13 _ 17 13 rfl).trans (lowest 32 _ (3) 4 rfl (by decide)))
  have f2 : wordField w0 20 8 = 0 := by rw [hw]; exact (above 256 8 _ (i.toNat) 20 8 rfl i.isLt).trans (lowest_zeros 8192 _ 12 rfl)
  have f3 : wordField w0 7 0 = i.toNat := by rw [hw]; exact lowest 256 _ (i.toNat) 7 rfl i.isLt
  have he : encode (.trap i) = [w0] := by subst ew; exact rfl
  rw [he]
  refine (major00 f0).trans ?_
  show decodeMajor00 w0 x = _
  simp only [decodeMajor00, f1, f2, f3, BitVec.ofNat_toNat, BitVec.setWidth_eq]
  exact decodedIf_good _ _ hwf

theorem brk (i : BitVec 8) : Statement (.brk i) := by
  intro hcode hwf x
  clear hcode
  have b0 := i.isLt
  obtain ⟨w0, ew⟩ : ∃ w0, w0 = 0x00800000 + i.toNat := ⟨_, rfl⟩
  have hw : w0 = ((0 * 32 + 4) * 8192) * 256 + i.toNat := ew.trans (by clear ew; omega)
  have f0 : wordField w0 31 26 = 0 := by rw [hw]; exact (above 256 8 _ (i.toNat) 31 26 rfl i.isLt).trans ((above_zeros 8192 13 _ 23 18 rfl).trans ((above 32 5 _ (4) 10 5 rfl (by decide)).trans (whole 64 (0) 5 rfl (by decide))))
  have f1 : wordField w0 25 21 = 4 := by rw [hw]; exact (above 256 8 _ (i.toNat) 25 21 rfl i.isLt).trans ((above_zeros 8192 13 _ 17 13 rfl).trans (lowest 32 _ (4) 4 rfl (by decide)))
  have f2 : wordField w0 20 8 = 0 := by rw [hw]; exact (above 256 8 _ (i.toNat) 20 8 rfl i.isLt).trans (lowest_zeros 8192 _ 12 rfl)
  have f3 : wordField w0 7 0 = i.toNat := by rw [hw]; exact lowest 256 _ (i.toNat) 7 rfl i.isLt
  have he : encode (.brk i) = [w0] := by subst ew; exact rfl
  rw [he]
  refine (major00 f0).trans ?_
  show decodeMajor00 w0 x = _
  simp only [decodeMajor00, f1, f2, f3, BitVec.ofNat_toNat, BitVec.setWidth_eq]
  exact decodedIf_good _ _ hwf

theorem resume : Statement .resume := by
  intro hcode hwf x
  clear hcode
  obtain ⟨w0, ew⟩ : ∃ w0, w0 = 0x00A00000 := ⟨_, rfl⟩
  have f0 : wordField w0 31 26 = 0 := by subst ew; decide
  have f1 : wordField w0 25 21 = 5 := by subst ew; decide
  have f2 : wordField w0 20 0 = 0 := by subst ew; decide
  have he : encode (.resume) = [w0] := by subst ew; exact rfl
  rw [he]
  refine (major00 f0).trans ?_
  show decodeMajor00 w0 x = _
  simp only [decodeMajor00, f1, f2, BitVec.ofNat_toNat, BitVec.setWidth_eq]
  exact decodedIf_good _ _ hwf

theorem sread (d : BitVec 8) (n : BitVec 8) : Statement (.sread d n) := by
  intro hcode hwf x
  clear hcode
  have b0 := d.isLt
  have b1 := n.isLt
  obtain ⟨w0, ew⟩ : ∃ w0, w0 = 0x00C00000 + d.toNat * 0x2000 + n.toNat := ⟨_, rfl⟩
  have hw : w0 = (((0 * 32 + 6) * 256 + d.toNat) * 32) * 256 + n.toNat := ew.trans (by clear ew; omega)
  have f0 : wordField w0 31 26 = 0 := by rw [hw]; exact (above 256 8 _ (n.toNat) 31 26 rfl n.isLt).trans ((above_zeros 32 5 _ 23 18 rfl).trans ((above 256 8 _ (d.toNat) 18 13 rfl d.isLt).trans ((above 32 5 _ (6) 10 5 rfl (by decide)).trans (whole 64 (0) 5 rfl (by decide)))))
  have f1 : wordField w0 25 21 = 6 := by rw [hw]; exact (above 256 8 _ (n.toNat) 25 21 rfl n.isLt).trans ((above_zeros 32 5 _ 17 13 rfl).trans ((above 256 8 _ (d.toNat) 12 8 rfl d.isLt).trans (lowest 32 _ (6) 4 rfl (by decide))))
  have f2 : wordField w0 20 13 = d.toNat := by rw [hw]; exact (above 256 8 _ (n.toNat) 20 13 rfl n.isLt).trans ((above_zeros 32 5 _ 12 5 rfl).trans (lowest 256 _ (d.toNat) 7 rfl d.isLt))
  have f3 : wordField w0 12 8 = 0 := by rw [hw]; exact (above 256 8 _ (n.toNat) 12 8 rfl n.isLt).trans (lowest_zeros 32 _ 4 rfl)
  have f4 : wordField w0 7 0 = n.toNat := by rw [hw]; exact lowest 256 _ (n.toNat) 7 rfl n.isLt
  have he : encode (.sread d n) = [w0] := by subst ew; exact rfl
  rw [he]
  refine (major00 f0).trans ?_
  show decodeMajor00 w0 x = _
  simp only [decodeMajor00, f1, f2, f3, f4, BitVec.ofNat_toNat, BitVec.setWidth_eq]
  exact decodedIf_good _ _ hwf

theorem swrite (s : BitVec 8) (n : BitVec 8) : Statement (.swrite s n) := by
  intro hcode hwf x
  clear hcode
  have b0 := s.isLt
  have b1 := n.isLt
  obtain ⟨w0, ew⟩ : ∃ w0, w0 = 0x00E00000 + s.toNat * 0x2000 + n.toNat := ⟨_, rfl⟩
  have hw : w0 = (((0 * 32 + 7) * 256 + s.toNat) * 32) * 256 + n.toNat := ew.trans (by clear ew; omega)
  have f0 : wordField w0 31 26 = 0 := by rw [hw]; exact (above 256 8 _ (n.toNat) 31 26 rfl n.isLt).trans ((above_zeros 32 5 _ 23 18 rfl).trans ((above 256 8 _ (s.toNat) 18 13 rfl s.isLt).trans ((above 32 5 _ (7) 10 5 rfl (by decide)).trans (whole 64 (0) 5 rfl (by decide)))))
  have f1 : wordField w0 25 21 = 7 := by rw [hw]; exact (above 256 8 _ (n.toNat) 25 21 rfl n.isLt).trans ((above_zeros 32 5 _ 17 13 rfl).trans ((above 256 8 _ (s.toNat) 12 8 rfl s.isLt).trans (lowest 32 _ (7) 4 rfl (by decide))))
  have f2 : wordField w0 20 13 = s.toNat := by rw [hw]; exact (above 256 8 _ (n.toNat) 20 13 rfl n.isLt).trans ((above_zeros 32 5 _ 12 5 rfl).trans (lowest 256 _ (s.toNat) 7 rfl s.isLt))
  have f3 : wordField w0 12 8 = 0 := by rw [hw]; exact (above 256 8 _ (n.toNat) 12 8 rfl n.isLt).trans (lowest_zeros 32 _ 4 rfl)
  have f4 : wordField w0 7 0 = n.toNat := by rw [hw]; exact lowest 256 _ (n.toNat) 7 rfl n.isLt
  have he : encode (.swrite s n) = [w0] := by subst ew; exact rfl
  rw [he]
  refine (major00 f0).trans ?_
  show decodeMajor00 w0 x = _
  simp only [decodeMajor00, f1, f2, f3, f4, BitVec.ofNat_toNat, BitVec.setWidth_eq]
  exact decodedIf_good _ _ hwf

theorem sleepUntil (s : BitVec 8) : Statement (.sleepUntil s) := by
  intro hcode hwf x
  clear hcode
  have b0 := s.isLt
  obtain ⟨w0, ew⟩ : ∃ w0, w0 = 0x01000000 + s.toNat * 0x2000 := ⟨_, rfl⟩
  have hw : w0 = ((0 * 32 + 8) * 256 + s.toNat) * 8192 := ew.trans (by clear ew; omega)
  have f0 : wordField w0 31 26 = 0 := by rw [hw]; exact (above_zeros 8192 13 _ 31 26 rfl).trans ((above 256 8 _ (s.toNat) 18 13 rfl s.isLt).trans ((above 32 5 _ (8) 10 5 rfl (by decide)).trans (whole 64 (0) 5 rfl (by decide))))
  have f1 : wordField w0 25 21 = 8 := by rw [hw]; exact (above_zeros 8192 13 _ 25 21 rfl).trans ((above 256 8 _ (s.toNat) 12 8 rfl s.isLt).trans (lowest 32 _ (8) 4 rfl (by decide)))
  have f2 : wordField w0 20 13 = s.toNat := by rw [hw]; exact (above_zeros 8192 13 _ 20 13 rfl).trans (lowest 256 _ (s.toNat) 7 rfl s.isLt)
  have f3 : wordField w0 12 0 = 0 := by rw [hw]; exact lowest_zeros 8192 _ 12 rfl
  have he : encode (.sleepUntil s) = [w0] := by subst ew; exact rfl
  rw [he]
  refine (major00 f0).trans ?_
  show decodeMajor00 w0 x = _
  simp only [decodeMajor00, f1, f2, f3, BitVec.ofNat_toNat, BitVec.setWidth_eq]
  exact decodedIf_good _ _ hwf

theorem sleepCyc (s : BitVec 8) : Statement (.sleepCyc s) := by
  intro hcode hwf x
  clear hcode
  have b0 := s.isLt
  obtain ⟨w0, ew⟩ : ∃ w0, w0 = 0x01200000 + s.toNat * 0x2000 := ⟨_, rfl⟩
  have hw : w0 = ((0 * 32 + 9) * 256 + s.toNat) * 8192 := ew.trans (by clear ew; omega)
  have f0 : wordField w0 31 26 = 0 := by rw [hw]; exact (above_zeros 8192 13 _ 31 26 rfl).trans ((above 256 8 _ (s.toNat) 18 13 rfl s.isLt).trans ((above 32 5 _ (9) 10 5 rfl (by decide)).trans (whole 64 (0) 5 rfl (by decide))))
  have f1 : wordField w0 25 21 = 9 := by rw [hw]; exact (above_zeros 8192 13 _ 25 21 rfl).trans ((above 256 8 _ (s.toNat) 12 8 rfl s.isLt).trans (lowest 32 _ (9) 4 rfl (by decide)))
  have f2 : wordField w0 20 13 = s.toNat := by rw [hw]; exact (above_zeros 8192 13 _ 20 13 rfl).trans (lowest 256 _ (s.toNat) 7 rfl s.isLt)
  have f3 : wordField w0 12 0 = 0 := by rw [hw]; exact lowest_zeros 8192 _ 12 rfl
  have he : encode (.sleepCyc s) = [w0] := by subst ew; exact rfl
  rw [he]
  refine (major00 f0).trans ?_
  show decodeMajor00 w0 x = _
  simp only [decodeMajor00, f1, f2, f3, BitVec.ofNat_toNat, BitVec.setWidth_eq]
  exact decodedIf_good _ _ hwf

theorem yield : Statement .yield := by
  intro hcode hwf x
  clear hcode
  obtain ⟨w0, ew⟩ : ∃ w0, w0 = 0x01400000 := ⟨_, rfl⟩
  have f0 : wordField w0 31 26 = 0 := by subst ew; decide
  have f1 : wordField w0 25 21 = 10 := by subst ew; decide
  have f2 : wordField w0 20 0 = 0 := by subst ew; decide
  have he : encode (.yield) = [w0] := by subst ew; exact rfl
  rw [he]
  refine (major00 f0).trans ?_
  show decodeMajor00 w0 x = _
  simp only [decodeMajor00, f1, f2, BitVec.ofNat_toNat, BitVec.setWidth_eq]
  exact decodedIf_good _ _ hwf

theorem pfailDone : Statement .pfailDone := by
  intro hcode hwf x
  clear hcode
  obtain ⟨w0, ew⟩ : ∃ w0, w0 = 0x01600000 := ⟨_, rfl⟩
  have f0 : wordField w0 31 26 = 0 := by subst ew; decide
  have f1 : wordField w0 25 21 = 11 := by subst ew; decide
  have f2 : wordField w0 20 0 = 0 := by subst ew; decide
  have he : encode (.pfailDone) = [w0] := by subst ew; exact rfl
  rw [he]
  refine (major00 f0).trans ?_
  show decodeMajor00 w0 x = _
  simp only [decodeMajor00, f1, f2, BitVec.ofNat_toNat, BitVec.setWidth_eq]
  exact decodedIf_good _ _ hwf

theorem ifKElse (k : BitVec 3) (o : BitVec 13) : Statement (.ifKElse k o) := by
  intro hcode hwf x
  clear hcode
  have b0 := k.isLt
  have b1 := o.isLt
  obtain ⟨w0, ew⟩ : ∃ w0, w0 = 0x04000000 + k.toNat * 0x2000 + o.toNat := ⟨_, rfl⟩
  have hw : w0 = (((1 * 32) * 32) * 8 + k.toNat) * 8192 + o.toNat := ew.trans (by clear ew; omega)
  have f0 : wordField w0 31 26 = 1 := by rw [hw]; exact (above 8192 13 _ (o.toNat) 31 26 rfl o.isLt).trans ((above 8 3 _ (k.toNat) 18 13 rfl k.isLt).trans ((above_zeros 32 5 _ 15 10 rfl).trans ((above_zeros 32 5 _ 10 5 rfl).trans (whole 64 (1) 5 rfl (by decide)))))
  have f1 : wordField w0 25 21 = 0 := by rw [hw]; exact (above 8192 13 _ (o.toNat) 25 21 rfl o.isLt).trans ((above 8 3 _ (k.toNat) 12 8 rfl k.isLt).trans ((above_zeros 32 5 _ 9 5 rfl).trans (lowest_zeros 32 _ 4 rfl)))
  have f2 : wordField w0 20 16 = 0 := by rw [hw]; exact (above 8192 13 _ (o.toNat) 20 16 rfl o.isLt).trans ((above 8 3 _ (k.toNat) 7 3 rfl k.isLt).trans (lowest_zeros 32 _ 4 rfl))
  have f3 : wordField w0 15 13 = k.toNat := by rw [hw]; exact (above 8192 13 _ (o.toNat) 15 13 rfl o.isLt).trans (lowest 8 _ (k.toNat) 2 rfl k.isLt)
  have f4 : wordField w0 12 0 = o.toNat := by rw [hw]; exact lowest 8192 _ (o.toNat) 12 rfl o.isLt
  have he : encode (.ifKElse k o) = [w0] := by subst ew; exact rfl
  rw [he]
  refine (major01 f0).trans ?_
  show decodeMajor01 w0 x = _
  simp only [decodeMajor01, f1, f2, f3, f4, BitVec.ofNat_toNat, BitVec.setWidth_eq]
  exact decodedIf_good _ _ hwf

theorem ifNkElse (k : BitVec 3) (o : BitVec 13) : Statement (.ifNkElse k o) := by
  intro hcode hwf x
  clear hcode
  have b0 := k.isLt
  have b1 := o.isLt
  obtain ⟨w0, ew⟩ : ∃ w0, w0 = 0x04200000 + k.toNat * 0x2000 + o.toNat := ⟨_, rfl⟩
  have hw : w0 = (((1 * 32 + 1) * 32) * 8 + k.toNat) * 8192 + o.toNat := ew.trans (by clear ew; omega)
  have f0 : wordField w0 31 26 = 1 := by rw [hw]; exact (above 8192 13 _ (o.toNat) 31 26 rfl o.isLt).trans ((above 8 3 _ (k.toNat) 18 13 rfl k.isLt).trans ((above_zeros 32 5 _ 15 10 rfl).trans ((above 32 5 _ (1) 10 5 rfl (by decide)).trans (whole 64 (1) 5 rfl (by decide)))))
  have f1 : wordField w0 25 21 = 1 := by rw [hw]; exact (above 8192 13 _ (o.toNat) 25 21 rfl o.isLt).trans ((above 8 3 _ (k.toNat) 12 8 rfl k.isLt).trans ((above_zeros 32 5 _ 9 5 rfl).trans (lowest 32 _ (1) 4 rfl (by decide))))
  have f2 : wordField w0 20 16 = 0 := by rw [hw]; exact (above 8192 13 _ (o.toNat) 20 16 rfl o.isLt).trans ((above 8 3 _ (k.toNat) 7 3 rfl k.isLt).trans (lowest_zeros 32 _ 4 rfl))
  have f3 : wordField w0 15 13 = k.toNat := by rw [hw]; exact (above 8192 13 _ (o.toNat) 15 13 rfl o.isLt).trans (lowest 8 _ (k.toNat) 2 rfl k.isLt)
  have f4 : wordField w0 12 0 = o.toNat := by rw [hw]; exact lowest 8192 _ (o.toNat) 12 rfl o.isLt
  have he : encode (.ifNkElse k o) = [w0] := by subst ew; exact rfl
  rw [he]
  refine (major01 f0).trans ?_
  show decodeMajor01 w0 x = _
  simp only [decodeMajor01, f1, f2, f3, f4, BitVec.ofNat_toNat, BitVec.setWidth_eq]
  exact decodedIf_good _ _ hwf

theorem ifSElse (s : BitVec 8) (o : BitVec 13) : Statement (.ifSElse s o) := by
  intro hcode hwf x
  clear hcode
  have b0 := s.isLt
  have b1 := o.isLt
  obtain ⟨w0, ew⟩ : ∃ w0, w0 = 0x04400000 + s.toNat * 0x2000 + o.toNat := ⟨_, rfl⟩
  have hw : w0 = ((1 * 32 + 2) * 256 + s.toNat) * 8192 + o.toNat := ew.trans (by clear ew; omega)
  have f0 : wordField w0 31 26 = 1 := by rw [hw]; exact (above 8192 13 _ (o.toNat) 31 26 rfl o.isLt).trans ((above 256 8 _ (s.toNat) 18 13 rfl s.isLt).trans ((above 32 5 _ (2) 10 5 rfl (by decide)).trans (whole 64 (1) 5 rfl (by decide))))
  have f1 : wordField w0 25 21 = 2 := by rw [hw]; exact (above 8192 13 _ (o.toNat) 25 21 rfl o.isLt).trans ((above 256 8 _ (s.toNat) 12 8 rfl s.isLt).trans (lowest 32 _ (2) 4 rfl (by decide)))
  have f2 : wordField w0 20 13 = s.toNat := by rw [hw]; exact (above 8192 13 _ (o.toNat) 20 13 rfl o.isLt).trans (lowest 256 _ (s.toNat) 7 rfl s.isLt)
  have f3 : wordField w0 12 0 = o.toNat := by rw [hw]; exact lowest 8192 _ (o.toNat) 12 rfl o.isLt
  have he : encode (.ifSElse s o) = [w0] := by subst ew; exact rfl
  rw [he]
  refine (major01 f0).trans ?_
  show decodeMajor01 w0 x = _
  simp only [decodeMajor01, f1, f2, f3, BitVec.ofNat_toNat, BitVec.setWidth_eq]
  exact decodedIf_good _ _ hwf

theorem ifNsElse (s : BitVec 8) (o : BitVec 13) : Statement (.ifNsElse s o) := by
  intro hcode hwf x
  clear hcode
  have b0 := s.isLt
  have b1 := o.isLt
  obtain ⟨w0, ew⟩ : ∃ w0, w0 = 0x04600000 + s.toNat * 0x2000 + o.toNat := ⟨_, rfl⟩
  have hw : w0 = ((1 * 32 + 3) * 256 + s.toNat) * 8192 + o.toNat := ew.trans (by clear ew; omega)
  have f0 : wordField w0 31 26 = 1 := by rw [hw]; exact (above 8192 13 _ (o.toNat) 31 26 rfl o.isLt).trans ((above 256 8 _ (s.toNat) 18 13 rfl s.isLt).trans ((above 32 5 _ (3) 10 5 rfl (by decide)).trans (whole 64 (1) 5 rfl (by decide))))
  have f1 : wordField w0 25 21 = 3 := by rw [hw]; exact (above 8192 13 _ (o.toNat) 25 21 rfl o.isLt).trans ((above 256 8 _ (s.toNat) 12 8 rfl s.isLt).trans (lowest 32 _ (3) 4 rfl (by decide)))
  have f2 : wordField w0 20 13 = s.toNat := by rw [hw]; exact (above 8192 13 _ (o.toNat) 20 13 rfl o.isLt).trans (lowest 256 _ (s.toNat) 7 rfl s.isLt)
  have f3 : wordField w0 12 0 = o.toNat := by rw [hw]; exact lowest 8192 _ (o.toNat) 12 rfl o.isLt
  have he : encode (.ifNsElse s o) = [w0] := by subst ew; exact rfl
  rw [he]
  refine (major01 f0).trans ?_
  show decodeMajor01 w0 x = _
  simp only [decodeMajor01, f1, f2, f3, BitVec.ofNat_toNat, BitVec.setWidth_eq]
  exact decodedIf_good _ _ hwf

theorem ifK (k : BitVec 3) (o : BitVec 13) : Statement (.ifK k o) := by
  intro hcode hwf x
  clear hcode
  have b0 := k.isLt
  have b1 := o.isLt
  obtain ⟨w0, ew⟩ : ∃ w0, w0 = 0x06000000 + k.toNat * 0x2000 + o.toNat := ⟨_, rfl⟩
  have hw : w0 = (((1 * 32 + 16) * 32) * 8 + k.toNat) * 8192 + o.toNat := ew.trans (by clear ew; omega)
  have f0 : wordField w0 31 26 = 1 := by rw [hw]; exact (above 8192 13 _ (o.toNat) 31 26 rfl o.isLt).trans ((above 8 3 _ (k.toNat) 18 13 rfl k.isLt).trans ((above_zeros 32 5 _ 15 10 rfl).trans ((above 32 5 _ (16) 10 5 rfl (by decide)).trans (whole 64 (1) 5 rfl (by decide)))))
  have f1 : wordField w0 25 21 = 16 := by rw [hw]; exact (above 8192 13 _ (o.toNat) 25 21 rfl o.isLt).trans ((above 8 3 _ (k.toNat) 12 8 rfl k.isLt).trans ((above_zeros 32 5 _ 9 5 rfl).trans (lowest 32 _ (16) 4 rfl (by decide))))
  have f2 : wordField w0 20 16 = 0 := by rw [hw]; exact (above 8192 13 _ (o.toNat) 20 16 rfl o.isLt).trans ((above 8 3 _ (k.toNat) 7 3 rfl k.isLt).trans (lowest_zeros 32 _ 4 rfl))
  have f3 : wordField w0 15 13 = k.toNat := by rw [hw]; exact (above 8192 13 _ (o.toNat) 15 13 rfl o.isLt).trans (lowest 8 _ (k.toNat) 2 rfl k.isLt)
  have f4 : wordField w0 12 0 = o.toNat := by rw [hw]; exact lowest 8192 _ (o.toNat) 12 rfl o.isLt
  have he : encode (.ifK k o) = [w0] := by subst ew; exact rfl
  rw [he]
  refine (major01 f0).trans ?_
  show decodeMajor01 w0 x = _
  simp only [decodeMajor01, f1, f2, f3, f4, BitVec.ofNat_toNat, BitVec.setWidth_eq]
  exact decodedIf_good _ _ hwf

theorem ifNk (k : BitVec 3) (o : BitVec 13) : Statement (.ifNk k o) := by
  intro hcode hwf x
  clear hcode
  have b0 := k.isLt
  have b1 := o.isLt
  obtain ⟨w0, ew⟩ : ∃ w0, w0 = 0x06200000 + k.toNat * 0x2000 + o.toNat := ⟨_, rfl⟩
  have hw : w0 = (((1 * 32 + 17) * 32) * 8 + k.toNat) * 8192 + o.toNat := ew.trans (by clear ew; omega)
  have f0 : wordField w0 31 26 = 1 := by rw [hw]; exact (above 8192 13 _ (o.toNat) 31 26 rfl o.isLt).trans ((above 8 3 _ (k.toNat) 18 13 rfl k.isLt).trans ((above_zeros 32 5 _ 15 10 rfl).trans ((above 32 5 _ (17) 10 5 rfl (by decide)).trans (whole 64 (1) 5 rfl (by decide)))))
  have f1 : wordField w0 25 21 = 17 := by rw [hw]; exact (above 8192 13 _ (o.toNat) 25 21 rfl o.isLt).trans ((above 8 3 _ (k.toNat) 12 8 rfl k.isLt).trans ((above_zeros 32 5 _ 9 5 rfl).trans (lowest 32 _ (17) 4 rfl (by decide))))
  have f2 : wordField w0 20 16 = 0 := by rw [hw]; exact (above 8192 13 _ (o.toNat) 20 16 rfl o.isLt).trans ((above 8 3 _ (k.toNat) 7 3 rfl k.isLt).trans (lowest_zeros 32 _ 4 rfl))
  have f3 : wordField w0 15 13 = k.toNat := by rw [hw]; exact (above 8192 13 _ (o.toNat) 15 13 rfl o.isLt).trans (lowest 8 _ (k.toNat) 2 rfl k.isLt)
  have f4 : wordField w0 12 0 = o.toNat := by rw [hw]; exact lowest 8192 _ (o.toNat) 12 rfl o.isLt
  have he : encode (.ifNk k o) = [w0] := by subst ew; exact rfl
  rw [he]
  refine (major01 f0).trans ?_
  show decodeMajor01 w0 x = _
  simp only [decodeMajor01, f1, f2, f3, f4, BitVec.ofNat_toNat, BitVec.setWidth_eq]
  exact decodedIf_good _ _ hwf

theorem ifS (s : BitVec 8) (o : BitVec 13) : Statement (.ifS s o) := by
  intro hcode hwf x
  clear hcode
  have b0 := s.isLt
  have b1 := o.isLt
  obtain ⟨w0, ew⟩ : ∃ w0, w0 = 0x06400000 + s.toNat * 0x2000 + o.toNat := ⟨_, rfl⟩
  have hw : w0 = ((1 * 32 + 18) * 256 + s.toNat) * 8192 + o.toNat := ew.trans (by clear ew; omega)
  have f0 : wordField w0 31 26 = 1 := by rw [hw]; exact (above 8192 13 _ (o.toNat) 31 26 rfl o.isLt).trans ((above 256 8 _ (s.toNat) 18 13 rfl s.isLt).trans ((above 32 5 _ (18) 10 5 rfl (by decide)).trans (whole 64 (1) 5 rfl (by decide))))
  have f1 : wordField w0 25 21 = 18 := by rw [hw]; exact (above 8192 13 _ (o.toNat) 25 21 rfl o.isLt).trans ((above 256 8 _ (s.toNat) 12 8 rfl s.isLt).trans (lowest 32 _ (18) 4 rfl (by decide)))
  have f2 : wordField w0 20 13 = s.toNat := by rw [hw]; exact (above 8192 13 _ (o.toNat) 20 13 rfl o.isLt).trans (lowest 256 _ (s.toNat) 7 rfl s.isLt)
  have f3 : wordField w0 12 0 = o.toNat := by rw [hw]; exact lowest 8192 _ (o.toNat) 12 rfl o.isLt
  have he : encode (.ifS s o) = [w0] := by subst ew; exact rfl
  rw [he]
  refine (major01 f0).trans ?_
  show decodeMajor01 w0 x = _
  simp only [decodeMajor01, f1, f2, f3, BitVec.ofNat_toNat, BitVec.setWidth_eq]
  exact decodedIf_good _ _ hwf

theorem ifNs (s : BitVec 8) (o : BitVec 13) : Statement (.ifNs s o) := by
  intro hcode hwf x
  clear hcode
  have b0 := s.isLt
  have b1 := o.isLt
  obtain ⟨w0, ew⟩ : ∃ w0, w0 = 0x06600000 + s.toNat * 0x2000 + o.toNat := ⟨_, rfl⟩
  have hw : w0 = ((1 * 32 + 19) * 256 + s.toNat) * 8192 + o.toNat := ew.trans (by clear ew; omega)
  have f0 : wordField w0 31 26 = 1 := by rw [hw]; exact (above 8192 13 _ (o.toNat) 31 26 rfl o.isLt).trans ((above 256 8 _ (s.toNat) 18 13 rfl s.isLt).trans ((above 32 5 _ (19) 10 5 rfl (by decide)).trans (whole 64 (1) 5 rfl (by decide))))
  have f1 : wordField w0 25 21 = 19 := by rw [hw]; exact (above 8192 13 _ (o.toNat) 25 21 rfl o.isLt).trans ((above 256 8 _ (s.toNat) 12 8 rfl s.isLt).trans (lowest 32 _ (19) 4 rfl (by decide)))
  have f2 : wordField w0 20 13 = s.toNat := by rw [hw]; exact (above 8192 13 _ (o.toNat) 20 13 rfl o.isLt).trans (lowest 256 _ (s.toNat) 7 rfl s.isLt)
  have f3 : wordField w0 12 0 = o.toNat := by rw [hw]; exact lowest 8192 _ (o.toNat) 12 rfl o.isLt
  have he : encode (.ifNs s o) = [w0] := by subst ew; exact rfl
  rw [he]
  refine (major01 f0).trans ?_
  show decodeMajor01 w0 x = _
  simp only [decodeMajor01, f1, f2, f3, BitVec.ofNat_toNat, BitVec.setWidth_eq]
  exact decodedIf_good _ _ hwf

theorem elseArm (o : BitVec 13) : Statement (.elseArm o) := by
  intro hcode hwf x
  clear hcode
  have b0 := o.isLt
  obtain ⟨w0, ew⟩ : ∃ w0, w0 = 0x04800000 + o.toNat := ⟨_, rfl⟩
  have hw : w0 = ((1 * 32 + 4) * 256) * 8192 + o.toNat := ew.trans (by clear ew; omega)
  have f0 : wordField w0 31 26 = 1 := by rw [hw]; exact (above 8192 13 _ (o.toNat) 31 26 rfl o.isLt).trans ((above_zeros 256 8 _ 18 13 rfl).trans ((above 32 5 _ (4) 10 5 rfl (by decide)).trans (whole 64 (1) 5 rfl (by decide))))
  have f1 : wordField w0 25 21 = 4 := by rw [hw]; exact (above 8192 13 _ (o.toNat) 25 21 rfl o.isLt).trans ((above_zeros 256 8 _ 12 8 rfl).trans (lowest 32 _ (4) 4 rfl (by decide)))
  have f2 : wordField w0 20 13 = 0 := by rw [hw]; exact (above 8192 13 _ (o.toNat) 20 13 rfl o.isLt).trans (lowest_zeros 256 _ 7 rfl)
  have f3 : wordField w0 12 0 = o.toNat := by rw [hw]; exact lowest 8192 _ (o.toNat) 12 rfl o.isLt
  have he : encode (.elseArm o) = [w0] := by subst ew; exact rfl
  rw [he]
  refine (major01 f0).trans ?_
  show decodeMajor01 w0 x = _
  simp only [decodeMajor01, f1, f2, f3, BitVec.ofNat_toNat, BitVec.setWidth_eq]
  exact decodedIf_good _ _ hwf

theorem endif : Statement .endif := by
  intro hcode hwf x
  clear hcode
  obtain ⟨w0, ew⟩ : ∃ w0, w0 = 0x04A00000 := ⟨_, rfl⟩
  have f0 : wordField w0 31 26 = 1 := by subst ew; decide
  have f1 : wordField w0 25 21 = 5 := by subst ew; decide
  have f2 : wordField w0 20 0 = 0 := by subst ew; decide
  have he : encode (.endif) = [w0] := by subst ew; exact rfl
  rw [he]
  refine (major01 f0).trans ?_
  show decodeMajor01 w0 x = _
  simp only [decodeMajor01, f1, f2, BitVec.ofNat_toNat, BitVec.setWidth_eq]
  exact decodedIf_good _ _ hwf

theorem loop (o : BitVec 13) : Statement (.loop o) := by
  intro hcode hwf x
  clear hcode
  have b0 := o.isLt
  obtain ⟨w0, ew⟩ : ∃ w0, w0 = 0x04C00000 + o.toNat := ⟨_, rfl⟩
  have hw : w0 = ((1 * 32 + 6) * 256) * 8192 + o.toNat := ew.trans (by clear ew; omega)
  have f0 : wordField w0 31 26 = 1 := by rw [hw]; exact (above 8192 13 _ (o.toNat) 31 26 rfl o.isLt).trans ((above_zeros 256 8 _ 18 13 rfl).trans ((above 32 5 _ (6) 10 5 rfl (by decide)).trans (whole 64 (1) 5 rfl (by decide))))
  have f1 : wordField w0 25 21 = 6 := by rw [hw]; exact (above 8192 13 _ (o.toNat) 25 21 rfl o.isLt).trans ((above_zeros 256 8 _ 12 8 rfl).trans (lowest 32 _ (6) 4 rfl (by decide)))
  have f2 : wordField w0 20 13 = 0 := by rw [hw]; exact (above 8192 13 _ (o.toNat) 20 13 rfl o.isLt).trans (lowest_zeros 256 _ 7 rfl)
  have f3 : wordField w0 12 0 = o.toNat := by rw [hw]; exact lowest 8192 _ (o.toNat) 12 rfl o.isLt
  have he : encode (.loop o) = [w0] := by subst ew; exact rfl
  rw [he]
  refine (major01 f0).trans ?_
  show decodeMajor01 w0 x = _
  simp only [decodeMajor01, f1, f2, f3, BitVec.ofNat_toNat, BitVec.setWidth_eq]
  exact decodedIf_good _ _ hwf

theorem endloop : Statement .endloop := by
  intro hcode hwf x
  clear hcode
  obtain ⟨w0, ew⟩ : ∃ w0, w0 = 0x04E00000 := ⟨_, rfl⟩
  have f0 : wordField w0 31 26 = 1 := by subst ew; decide
  have f1 : wordField w0 25 21 = 7 := by subst ew; decide
  have f2 : wordField w0 20 0 = 0 := by subst ew; decide
  have he : encode (.endloop) = [w0] := by subst ew; exact rfl
  rw [he]
  refine (major01 f0).trans ?_
  show decodeMajor01 w0 x = _
  simp only [decodeMajor01, f1, f2, BitVec.ofNat_toNat, BitVec.setWidth_eq]
  exact decodedIf_good _ _ hwf

theorem breakK (k : BitVec 3) : Statement (.breakK k) := by
  intro hcode hwf x
  clear hcode
  have b0 := k.isLt
  obtain ⟨w0, ew⟩ : ∃ w0, w0 = 0x05000000 + k.toNat * 0x2000 := ⟨_, rfl⟩
  have hw : w0 = (((1 * 32 + 8) * 32) * 8 + k.toNat) * 8192 := ew.trans (by clear ew; omega)
  have f0 : wordField w0 31 26 = 1 := by rw [hw]; exact (above_zeros 8192 13 _ 31 26 rfl).trans ((above 8 3 _ (k.toNat) 18 13 rfl k.isLt).trans ((above_zeros 32 5 _ 15 10 rfl).trans ((above 32 5 _ (8) 10 5 rfl (by decide)).trans (whole 64 (1) 5 rfl (by decide)))))
  have f1 : wordField w0 25 21 = 8 := by rw [hw]; exact (above_zeros 8192 13 _ 25 21 rfl).trans ((above 8 3 _ (k.toNat) 12 8 rfl k.isLt).trans ((above_zeros 32 5 _ 9 5 rfl).trans (lowest 32 _ (8) 4 rfl (by decide))))
  have f2 : wordField w0 20 16 = 0 := by rw [hw]; exact (above_zeros 8192 13 _ 20 16 rfl).trans ((above 8 3 _ (k.toNat) 7 3 rfl k.isLt).trans (lowest_zeros 32 _ 4 rfl))
  have f3 : wordField w0 15 13 = k.toNat := by rw [hw]; exact (above_zeros 8192 13 _ 15 13 rfl).trans (lowest 8 _ (k.toNat) 2 rfl k.isLt)
  have f4 : wordField w0 12 0 = 0 := by rw [hw]; exact lowest_zeros 8192 _ 12 rfl
  have he : encode (.breakK k) = [w0] := by subst ew; exact rfl
  rw [he]
  refine (major01 f0).trans ?_
  show decodeMajor01 w0 x = _
  simp only [decodeMajor01, f1, f2, f3, f4, BitVec.ofNat_toNat, BitVec.setWidth_eq]
  exact decodedIf_good _ _ hwf

theorem breakS (s : BitVec 8) : Statement (.breakS s) := by
  intro hcode hwf x
  clear hcode
  have b0 := s.isLt
  obtain ⟨w0, ew⟩ : ∃ w0, w0 = 0x05200000 + s.toNat * 0x2000 := ⟨_, rfl⟩
  have hw : w0 = ((1 * 32 + 9) * 256 + s.toNat) * 8192 := ew.trans (by clear ew; omega)
  have f0 : wordField w0 31 26 = 1 := by rw [hw]; exact (above_zeros 8192 13 _ 31 26 rfl).trans ((above 256 8 _ (s.toNat) 18 13 rfl s.isLt).trans ((above 32 5 _ (9) 10 5 rfl (by decide)).trans (whole 64 (1) 5 rfl (by decide))))
  have f1 : wordField w0 25 21 = 9 := by rw [hw]; exact (above_zeros 8192 13 _ 25 21 rfl).trans ((above 256 8 _ (s.toNat) 12 8 rfl s.isLt).trans (lowest 32 _ (9) 4 rfl (by decide)))
  have f2 : wordField w0 20 13 = s.toNat := by rw [hw]; exact (above_zeros 8192 13 _ 20 13 rfl).trans (lowest 256 _ (s.toNat) 7 rfl s.isLt)
  have f3 : wordField w0 12 0 = 0 := by rw [hw]; exact lowest_zeros 8192 _ 12 rfl
  have he : encode (.breakS s) = [w0] := by subst ew; exact rfl
  rw [he]
  refine (major01 f0).trans ?_
  show decodeMajor01 w0 x = _
  simp only [decodeMajor01, f1, f2, f3, BitVec.ofNat_toNat, BitVec.setWidth_eq]
  exact decodedIf_good _ _ hwf

theorem continueK (k : BitVec 3) : Statement (.continueK k) := by
  intro hcode hwf x
  clear hcode
  have b0 := k.isLt
  obtain ⟨w0, ew⟩ : ∃ w0, w0 = 0x05400000 + k.toNat * 0x2000 := ⟨_, rfl⟩
  have hw : w0 = (((1 * 32 + 10) * 32) * 8 + k.toNat) * 8192 := ew.trans (by clear ew; omega)
  have f0 : wordField w0 31 26 = 1 := by rw [hw]; exact (above_zeros 8192 13 _ 31 26 rfl).trans ((above 8 3 _ (k.toNat) 18 13 rfl k.isLt).trans ((above_zeros 32 5 _ 15 10 rfl).trans ((above 32 5 _ (10) 10 5 rfl (by decide)).trans (whole 64 (1) 5 rfl (by decide)))))
  have f1 : wordField w0 25 21 = 10 := by rw [hw]; exact (above_zeros 8192 13 _ 25 21 rfl).trans ((above 8 3 _ (k.toNat) 12 8 rfl k.isLt).trans ((above_zeros 32 5 _ 9 5 rfl).trans (lowest 32 _ (10) 4 rfl (by decide))))
  have f2 : wordField w0 20 16 = 0 := by rw [hw]; exact (above_zeros 8192 13 _ 20 16 rfl).trans ((above 8 3 _ (k.toNat) 7 3 rfl k.isLt).trans (lowest_zeros 32 _ 4 rfl))
  have f3 : wordField w0 15 13 = k.toNat := by rw [hw]; exact (above_zeros 8192 13 _ 15 13 rfl).trans (lowest 8 _ (k.toNat) 2 rfl k.isLt)
  have f4 : wordField w0 12 0 = 0 := by rw [hw]; exact lowest_zeros 8192 _ 12 rfl
  have he : encode (.continueK k) = [w0] := by subst ew; exact rfl
  rw [he]
  refine (major01 f0).trans ?_
  show decodeMajor01 w0 x = _
  simp only [decodeMajor01, f1, f2, f3, f4, BitVec.ofNat_toNat, BitVec.setWidth_eq]
  exact decodedIf_good _ _ hwf

theorem continueS (s : BitVec 8) : Statement (.continueS s) := by
  intro hcode hwf x
  clear hcode
  have b0 := s.isLt
  obtain ⟨w0, ew⟩ : ∃ w0, w0 = 0x05600000 + s.toNat * 0x2000 := ⟨_, rfl⟩
  have hw : w0 = ((1 * 32 + 11) * 256 + s.toNat) * 8192 := ew.trans (by clear ew; omega)
  have f0 : wordField w0 31 26 = 1 := by rw [hw]; exact (above_zeros 8192 13 _ 31 26 rfl).trans ((above 256 8 _ (s.toNat) 18 13 rfl s.isLt).trans ((above 32 5 _ (11) 10 5 rfl (by decide)).trans (whole 64 (1) 5 rfl (by decide))))
  have f1 : wordField w0 25 21 = 11 := by rw [hw]; exact (above_zeros 8192 13 _ 25 21 rfl).trans ((above 256 8 _ (s.toNat) 12 8 rfl s.isLt).trans (lowest 32 _ (11) 4 rfl (by decide)))
  have f2 : wordField w0 20 13 = s.toNat := by rw [hw]; exact (above_zeros 8192 13 _ 20 13 rfl).trans (lowest 256 _ (s.toNat) 7 rfl s.isLt)
  have f3 : wordField w0 12 0 = 0 := by rw [hw]; exact lowest_zeros 8192 _ 12 rfl
  have he : encode (.continueS s) = [w0] := by subst ew; exact rfl
  rw [he]
  refine (major01 f0).trans ?_
  show decodeMajor01 w0 x = _
  simp only [decodeMajor01, f1, f2, f3, BitVec.ofNat_toNat, BitVec.setWidth_eq]
  exact decodedIf_good _ _ hwf

theorem call (o : BitVec 13) : Statement (.call o) := by
  intro hcode hwf x
  clear hcode
  have b0 := o.isLt
  obtain ⟨w0, ew⟩ : ∃ w0, w0 = 0x05800000 + o.toNat := ⟨_, rfl⟩
  have hw : w0 = ((1 * 32 + 12) * 256) * 8192 + o.toNat := ew.trans (by clear ew; omega)
  have f0 : wordField w0 31 26 = 1 := by rw [hw]; exact (above 8192 13 _ (o.toNat) 31 26 rfl o.isLt).trans ((above_zeros 256 8 _ 18 13 rfl).trans ((above 32 5 _ (12) 10 5 rfl (by decide)).trans (whole 64 (1) 5 rfl (by decide))))
  have f1 : wordField w0 25 21 = 12 := by rw [hw]; exact (above 8192 13 _ (o.toNat) 25 21 rfl o.isLt).trans ((above_zeros 256 8 _ 12 8 rfl).trans (lowest 32 _ (12) 4 rfl (by decide)))
  have f2 : wordField w0 20 13 = 0 := by rw [hw]; exact (above 8192 13 _ (o.toNat) 20 13 rfl o.isLt).trans (lowest_zeros 256 _ 7 rfl)
  have f3 : wordField w0 12 0 = o.toNat := by rw [hw]; exact lowest 8192 _ (o.toNat) 12 rfl o.isLt
  have he : encode (.call o) = [w0] := by subst ew; exact rfl
  rw [he]
  refine (major01 f0).trans ?_
  show decodeMajor01 w0 x = _
  simp only [decodeMajor01, f1, f2, f3, BitVec.ofNat_toNat, BitVec.setWidth_eq]
  exact decodedIf_good _ _ hwf

theorem ret : Statement .ret := by
  intro hcode hwf x
  clear hcode
  obtain ⟨w0, ew⟩ : ∃ w0, w0 = 0x05A00000 := ⟨_, rfl⟩
  have f0 : wordField w0 31 26 = 1 := by subst ew; decide
  have f1 : wordField w0 25 21 = 13 := by subst ew; decide
  have f2 : wordField w0 20 0 = 0 := by subst ew; decide
  have he : encode (.ret) = [w0] := by subst ew; exact rfl
  rw [he]
  refine (major01 f0).trans ?_
  show decodeMajor01 w0 x = _
  simp only [decodeMajor01, f1, f2, BitVec.ofNat_toNat, BitVec.setWidth_eq]
  exact decodedIf_good _ _ hwf

theorem gate (i : BitVec 8) : Statement (.gate i) := by
  intro hcode hwf x
  clear hcode
  have b0 := i.isLt
  obtain ⟨w0, ew⟩ : ∃ w0, w0 = 0x08000000 + i.toNat := ⟨_, rfl⟩
  have hw : w0 = ((2 * 32) * 8192) * 256 + i.toNat := ew.trans (by clear ew; omega)
  have f0 : wordField w0 31 26 = 2 := by rw [hw]; exact (above 256 8 _ (i.toNat) 31 26 rfl i.isLt).trans ((above_zeros 8192 13 _ 23 18 rfl).trans ((above_zeros 32 5 _ 10 5 rfl).trans (whole 64 (2) 5 rfl (by decide))))
  have f1 : wordField w0 25 21 = 0 := by rw [hw]; exact (above 256 8 _ (i.toNat) 25 21 rfl i.isLt).trans ((above_zeros 8192 13 _ 17 13 rfl).trans (lowest_zeros 32 _ 4 rfl))
  have f2 : wordField w0 20 8 = 0 := by rw [hw]; exact (above 256 8 _ (i.toNat) 20 8 rfl i.isLt).trans (lowest_zeros 8192 _ 12 rfl)
  have f3 : wordField w0 7 0 = i.toNat := by rw [hw]; exact lowest 256 _ (i.toNat) 7 rfl i.isLt
  have he : encode (.gate i) = [w0] := by subst ew; exact rfl
  rw [he]
  refine (major02 f0).trans ?_
  show decodeMajor02 w0 x = _
  simp only [decodeMajor02, f1, f2, f3, BitVec.ofNat_toNat, BitVec.setWidth_eq]
  exact decodedIf_good _ _ hwf

theorem gret : Statement .gret := by
  intro hcode hwf x
  clear hcode
  obtain ⟨w0, ew⟩ : ∃ w0, w0 = 0x08200000 := ⟨_, rfl⟩
  have f0 : wordField w0 31 26 = 2 := by subst ew; decide
  have f1 : wordField w0 25 21 = 1 := by subst ew; decide
  have f2 : wordField w0 20 0 = 0 := by subst ew; decide
  have he : encode (.gret) = [w0] := by subst ew; exact rfl
  rw [he]
  refine (major02 f0).trans ?_
  show decodeMajor02 w0 x = _
  simp only [decodeMajor02, f1, f2, BitVec.ofNat_toNat, BitVec.setWidth_eq]
  exact decodedIf_good _ _ hwf

theorem bar : Statement .bar := by
  intro hcode hwf x
  clear hcode
  obtain ⟨w0, ew⟩ : ∃ w0, w0 = 0x0C000000 := ⟨_, rfl⟩
  have f0 : wordField w0 31 26 = 3 := by subst ew; decide
  have f1 : wordField w0 25 24 = 0 := by subst ew; decide
  have f2 : wordField w0 23 0 = 0 := by subst ew; decide
  have he : encode (.bar) = [w0] := by subst ew; exact rfl
  rw [he]
  refine (major03 f0).trans ?_
  show decodeMajor03 w0 x = _
  simp only [decodeMajor03, f1, f2, BitVec.ofNat_toNat, BitVec.setWidth_eq]
  exact decodedIf_good _ _ hwf

theorem barArrive : Statement .barArrive := by
  intro hcode hwf x
  clear hcode
  obtain ⟨w0, ew⟩ : ∃ w0, w0 = 0x0D000000 := ⟨_, rfl⟩
  have f0 : wordField w0 31 26 = 3 := by subst ew; decide
  have f1 : wordField w0 25 24 = 1 := by subst ew; decide
  have f2 : wordField w0 23 0 = 0 := by subst ew; decide
  have he : encode (.barArrive) = [w0] := by subst ew; exact rfl
  rw [he]
  refine (major03 f0).trans ?_
  show decodeMajor03 w0 x = _
  simp only [decodeMajor03, f1, f2, BitVec.ofNat_toNat, BitVec.setWidth_eq]
  exact decodedIf_good _ _ hwf

theorem barDrop : Statement .barDrop := by
  intro hcode hwf x
  clear hcode
  obtain ⟨w0, ew⟩ : ∃ w0, w0 = 0x0E000000 := ⟨_, rfl⟩
  have f0 : wordField w0 31 26 = 3 := by subst ew; decide
  have f1 : wordField w0 25 24 = 2 := by subst ew; decide
  have f2 : wordField w0 23 0 = 0 := by subst ew; decide
  have he : encode (.barDrop) = [w0] := by subst ew; exact rfl
  rw [he]
  refine (major03 f0).trans ?_
  show decodeMajor03 w0 x = _
  simp only [decodeMajor03, f1, f2, BitVec.ofNat_toNat, BitVec.setWidth_eq]
  exact decodedIf_good _ _ hwf

theorem barWait : Statement .barWait := by
  intro hcode hwf x
  clear hcode
  obtain ⟨w0, ew⟩ : ∃ w0, w0 = 0x0F000000 := ⟨_, rfl⟩
  have f0 : wordField w0 31 26 = 3 := by subst ew; decide
  have f1 : wordField w0 25 24 = 3 := by subst ew; decide
  have f2 : wordField w0 23 0 = 0 := by subst ew; decide
  have he : encode (.barWait) = [w0] := by subst ew; exact rfl
  rw [he]
  refine (major03 f0).trans ?_
  show decodeMajor03 w0 x = _
  simp only [decodeMajor03, f1, f2, BitVec.ofNat_toNat, BitVec.setWidth_eq]
  exact decodedIf_good _ _ hwf

theorem bobjInit (p : BitVec 8) (b : BitVec 8) (m : BitVec 1) : Statement (.bobjInit p b m) := by
  intro hcode hwf x
  clear hcode
  have b0 := p.isLt
  have b1 := b.isLt
  have b2 := m.isLt
  obtain ⟨w0, ew⟩ : ∃ w0, w0 = 0x10000000 + p.toNat * 0x2000 + b.toNat * 0x20 + m.toNat := ⟨_, rfl⟩
  have hw : w0 = ((((4 * 32) * 256 + p.toNat) * 256 + b.toNat) * 16) * 2 + m.toNat := ew.trans (by clear ew; omega)
  have f0 : wordField w0 31 26 = 4 := by rw [hw]; exact (above 2 1 _ (m.toNat) 31 26 rfl m.isLt).trans ((above_zeros 16 4 _ 30 25 rfl).trans ((above 256 8 _ (b.toNat) 26 21 rfl b.isLt).trans ((above 256 8 _ (p.toNat) 18 13 rfl p.isLt).trans ((above_zeros 32 5 _ 10 5 rfl).trans (whole 64 (4) 5 rfl (by decide))))))
  have f1 : wordField w0 25 21 = 0 := by rw [hw]; exact (above 2 1 _ (m.toNat) 25 21 rfl m.isLt).trans ((above_zeros 16 4 _ 24 20 rfl).trans ((above 256 8 _ (b.toNat) 20 16 rfl b.isLt).trans ((above 256 8 _ (p.toNat) 12 8 rfl p.isLt).trans (lowest_zeros 32 _ 4 rfl))))
  have f2 : wordField w0 20 13 = p.toNat := by rw [hw]; exact (above 2 1 _ (m.toNat) 20 13 rfl m.isLt).trans ((above_zeros 16 4 _ 19 12 rfl).trans ((above 256 8 _ (b.toNat) 15 8 rfl b.isLt).trans (lowest 256 _ (p.toNat) 7 rfl p.isLt)))
  have f3 : wordField w0 12 5 = b.toNat := by rw [hw]; exact (above 2 1 _ (m.toNat) 12 5 rfl m.isLt).trans ((above_zeros 16 4 _ 11 4 rfl).trans (lowest 256 _ (b.toNat) 7 rfl b.isLt))
  have f4 : wordField w0 4 1 = 0 := by rw [hw]; exact (above 2 1 _ (m.toNat) 4 1 rfl m.isLt).trans (lowest_zeros 16 _ 3 rfl)
  have f5 : wordField w0 0 0 = m.toNat := by rw [hw]; exact lowest 2 _ (m.toNat) 0 rfl m.isLt
  have he : encode (.bobjInit p b m) = [w0] := by subst ew; exact rfl
  rw [he]
  refine (major04 f0).trans ?_
  show decodeMajor04 w0 x = _
  simp only [decodeMajor04, f1, f2, f3, f4, f5, BitVec.ofNat_toNat, BitVec.setWidth_eq]
  exact decodedIf_good _ _ hwf

theorem bobjJoin (b : BitVec 8) : Statement (.bobjJoin b) := by
  intro hcode hwf x
  clear hcode
  have b0 := b.isLt
  obtain ⟨w0, ew⟩ : ∃ w0, w0 = 0x10200000 + b.toNat * 0x20 := ⟨_, rfl⟩
  have hw : w0 = (((4 * 32 + 1) * 256) * 256 + b.toNat) * 32 := ew.trans (by clear ew; omega)
  have f0 : wordField w0 31 26 = 4 := by rw [hw]; exact (above_zeros 32 5 _ 31 26 rfl).trans ((above 256 8 _ (b.toNat) 26 21 rfl b.isLt).trans ((above_zeros 256 8 _ 18 13 rfl).trans ((above 32 5 _ (1) 10 5 rfl (by decide)).trans (whole 64 (4) 5 rfl (by decide)))))
  have f1 : wordField w0 25 21 = 1 := by rw [hw]; exact (above_zeros 32 5 _ 25 21 rfl).trans ((above 256 8 _ (b.toNat) 20 16 rfl b.isLt).trans ((above_zeros 256 8 _ 12 8 rfl).trans (lowest 32 _ (1) 4 rfl (by decide))))
  have f2 : wordField w0 20 13 = 0 := by rw [hw]; exact (above_zeros 32 5 _ 20 13 rfl).trans ((above 256 8 _ (b.toNat) 15 8 rfl b.isLt).trans (lowest_zeros 256 _ 7 rfl))
  have f3 : wordField w0 12 5 = b.toNat := by rw [hw]; exact (above_zeros 32 5 _ 12 5 rfl).trans (lowest 256 _ (b.toNat) 7 rfl b.isLt)
  have f4 : wordField w0 4 0 = 0 := by rw [hw]; exact lowest_zeros 32 _ 4 rfl
  have he : encode (.bobjJoin b) = [w0] := by subst ew; exact rfl
  rw [he]
  refine (major04 f0).trans ?_
  show decodeMajor04 w0 x = _
  simp only [decodeMajor04, f1, f2, f3, f4, BitVec.ofNat_toNat, BitVec.setWidth_eq]
  exact decodedIf_good _ _ hwf

theorem bobjLeave (b : BitVec 8) : Statement (.bobjLeave b) := by
  intro hcode hwf x
  clear hcode
  have b0 := b.isLt
  obtain ⟨w0, ew⟩ : ∃ w0, w0 = 0x10400000 + b.toNat * 0x20 := ⟨_, rfl⟩
  have hw : w0 = (((4 * 32 + 2) * 256) * 256 + b.toNat) * 32 := ew.trans (by clear ew; omega)
  have f0 : wordField w0 31 26 = 4 := by rw [hw]; exact (above_zeros 32 5 _ 31 26 rfl).trans ((above 256 8 _ (b.toNat) 26 21 rfl b.isLt).trans ((above_zeros 256 8 _ 18 13 rfl).trans ((above 32 5 _ (2) 10 5 rfl (by decide)).trans (whole 64 (4) 5 rfl (by decide)))))
  have f1 : wordField w0 25 21 = 2 := by rw [hw]; exact (above_zeros 32 5 _ 25 21 rfl).trans ((above 256 8 _ (b.toNat) 20 16 rfl b.isLt).trans ((above_zeros 256 8 _ 12 8 rfl).trans (lowest 32 _ (2) 4 rfl (by decide))))
  have f2 : wordField w0 20 13 = 0 := by rw [hw]; exact (above_zeros 32 5 _ 20 13 rfl).trans ((above 256 8 _ (b.toNat) 15 8 rfl b.isLt).trans (lowest_zeros 256 _ 7 rfl))
  have f3 : wordField w0 12 5 = b.toNat := by rw [hw]; exact (above_zeros 32 5 _ 12 5 rfl).trans (lowest 256 _ (b.toNat) 7 rfl b.isLt)
  have f4 : wordField w0 4 0 = 0 := by rw [hw]; exact lowest_zeros 32 _ 4 rfl
  have he : encode (.bobjLeave b) = [w0] := by subst ew; exact rfl
  rw [he]
  refine (major04 f0).trans ?_
  show decodeMajor04 w0 x = _
  simp only [decodeMajor04, f1, f2, f3, f4, BitVec.ofNat_toNat, BitVec.setWidth_eq]
  exact decodedIf_good _ _ hwf

theorem bobjArrive (p : BitVec 8) (b : BitVec 8) (a : BitVec 1) : Statement (.bobjArrive p b a) := by
  intro hcode hwf x
  clear hcode
  have b0 := p.isLt
  have b1 := b.isLt
  have b2 := a.isLt
  obtain ⟨w0, ew⟩ : ∃ w0, w0 = 0x10600000 + p.toNat * 0x2000 + b.toNat * 0x20 + a.toNat := ⟨_, rfl⟩
  have hw : w0 = ((((4 * 32 + 3) * 256 + p.toNat) * 256 + b.toNat) * 16) * 2 + a.toNat := ew.trans (by clear ew; omega)
  have f0 : wordField w0 31 26 = 4 := by rw [hw]; exact (above 2 1 _ (a.toNat) 31 26 rfl a.isLt).trans ((above_zeros 16 4 _ 30 25 rfl).trans ((above 256 8 _ (b.toNat) 26 21 rfl b.isLt).trans ((above 256 8 _ (p.toNat) 18 13 rfl p.isLt).trans ((above 32 5 _ (3) 10 5 rfl (by decide)).trans (whole 64 (4) 5 rfl (by decide))))))
  have f1 : wordField w0 25 21 = 3 := by rw [hw]; exact (above 2 1 _ (a.toNat) 25 21 rfl a.isLt).trans ((above_zeros 16 4 _ 24 20 rfl).trans ((above 256 8 _ (b.toNat) 20 16 rfl b.isLt).trans ((above 256 8 _ (p.toNat) 12 8 rfl p.isLt).trans (lowest 32 _ (3) 4 rfl (by decide)))))
  have f2 : wordField w0 20 13 = p.toNat := by rw [hw]; exact (above 2 1 _ (a.toNat) 20 13 rfl a.isLt).trans ((above_zeros 16 4 _ 19 12 rfl).trans ((above 256 8 _ (b.toNat) 15 8 rfl b.isLt).trans (lowest 256 _ (p.toNat) 7 rfl p.isLt)))
  have f3 : wordField w0 12 5 = b.toNat := by rw [hw]; exact (above 2 1 _ (a.toNat) 12 5 rfl a.isLt).trans ((above_zeros 16 4 _ 11 4 rfl).trans (lowest 256 _ (b.toNat) 7 rfl b.isLt))
  have f4 : wordField w0 4 1 = 0 := by rw [hw]; exact (above 2 1 _ (a.toNat) 4 1 rfl a.isLt).trans (lowest_zeros 16 _ 3 rfl)
  have f5 : wordField w0 0 0 = a.toNat := by rw [hw]; exact lowest 2 _ (a.toNat) 0 rfl a.isLt
  have he : encode (.bobjArrive p b a) = [w0] := by subst ew; exact rfl
  rw [he]
  refine (major04 f0).trans ?_
  show decodeMajor04 w0 x = _
  simp only [decodeMajor04, f1, f2, f3, f4, f5, BitVec.ofNat_toNat, BitVec.setWidth_eq]
  exact decodedIf_good _ _ hwf

theorem bobjExpect (p : BitVec 8) (b : BitVec 8) : Statement (.bobjExpect p b) := by
  intro hcode hwf x
  clear hcode
  have b0 := p.isLt
  have b1 := b.isLt
  obtain ⟨w0, ew⟩ : ∃ w0, w0 = 0x10800000 + p.toNat * 0x2000 + b.toNat * 0x20 := ⟨_, rfl⟩
  have hw : w0 = (((4 * 32 + 4) * 256 + p.toNat) * 256 + b.toNat) * 32 := ew.trans (by clear ew; omega)
  have f0 : wordField w0 31 26 = 4 := by rw [hw]; exact (above_zeros 32 5 _ 31 26 rfl).trans ((above 256 8 _ (b.toNat) 26 21 rfl b.isLt).trans ((above 256 8 _ (p.toNat) 18 13 rfl p.isLt).trans ((above 32 5 _ (4) 10 5 rfl (by decide)).trans (whole 64 (4) 5 rfl (by decide)))))
  have f1 : wordField w0 25 21 = 4 := by rw [hw]; exact (above_zeros 32 5 _ 25 21 rfl).trans ((above 256 8 _ (b.toNat) 20 16 rfl b.isLt).trans ((above 256 8 _ (p.toNat) 12 8 rfl p.isLt).trans (lowest 32 _ (4) 4 rfl (by decide))))
  have f2 : wordField w0 20 13 = p.toNat := by rw [hw]; exact (above_zeros 32 5 _ 20 13 rfl).trans ((above 256 8 _ (b.toNat) 15 8 rfl b.isLt).trans (lowest 256 _ (p.toNat) 7 rfl p.isLt))
  have f3 : wordField w0 12 5 = b.toNat := by rw [hw]; exact (above_zeros 32 5 _ 12 5 rfl).trans (lowest 256 _ (b.toNat) 7 rfl b.isLt)
  have f4 : wordField w0 4 0 = 0 := by rw [hw]; exact lowest_zeros 32 _ 4 rfl
  have he : encode (.bobjExpect p b) = [w0] := by subst ew; exact rfl
  rw [he]
  refine (major04 f0).trans ?_
  show decodeMajor04 w0 x = _
  simp only [decodeMajor04, f1, f2, f3, f4, BitVec.ofNat_toNat, BitVec.setWidth_eq]
  exact decodedIf_good _ _ hwf

theorem bobjWait (p : BitVec 8) (b : BitVec 8) : Statement (.bobjWait p b) := by
  intro hcode hwf x
  clear hcode
  have b0 := p.isLt
  have b1 := b.isLt
  obtain ⟨w0, ew⟩ : ∃ w0, w0 = 0x10A00000 + p.toNat * 0x2000 + b.toNat * 0x20 := ⟨_, rfl⟩
  have hw : w0 = (((4 * 32 + 5) * 256 + p.toNat) * 256 + b.toNat) * 32 := ew.trans (by clear ew; omega)
  have f0 : wordField w0 31 26 = 4 := by rw [hw]; exact (above_zeros 32 5 _ 31 26 rfl).trans ((above 256 8 _ (b.toNat) 26 21 rfl b.isLt).trans ((above 256 8 _ (p.toNat) 18 13 rfl p.isLt).trans ((above 32 5 _ (5) 10 5 rfl (by decide)).trans (whole 64 (4) 5 rfl (by decide)))))
  have f1 : wordField w0 25 21 = 5 := by rw [hw]; exact (above_zeros 32 5 _ 25 21 rfl).trans ((above 256 8 _ (b.toNat) 20 16 rfl b.isLt).trans ((above 256 8 _ (p.toNat) 12 8 rfl p.isLt).trans (lowest 32 _ (5) 4 rfl (by decide))))
  have f2 : wordField w0 20 13 = p.toNat := by rw [hw]; exact (above_zeros 32 5 _ 20 13 rfl).trans ((above 256 8 _ (b.toNat) 15 8 rfl b.isLt).trans (lowest 256 _ (p.toNat) 7 rfl p.isLt))
  have f3 : wordField w0 12 5 = b.toNat := by rw [hw]; exact (above_zeros 32 5 _ 12 5 rfl).trans (lowest 256 _ (b.toNat) 7 rfl b.isLt)
  have f4 : wordField w0 4 0 = 0 := by rw [hw]; exact lowest_zeros 32 _ 4 rfl
  have he : encode (.bobjWait p b) = [w0] := by subst ew; exact rfl
  rw [he]
  refine (major04 f0).trans ?_
  show decodeMajor04 w0 x = _
  simp only [decodeMajor04, f1, f2, f3, f4, BitVec.ofNat_toNat, BitVec.setWidth_eq]
  exact decodedIf_good _ _ hwf

theorem bobjTest (p : BitVec 8) (b : BitVec 8) : Statement (.bobjTest p b) := by
  intro hcode hwf x
  clear hcode
  have b0 := p.isLt
  have b1 := b.isLt
  obtain ⟨w0, ew⟩ : ∃ w0, w0 = 0x10C00000 + p.toNat * 0x2000 + b.toNat * 0x20 := ⟨_, rfl⟩
  have hw : w0 = (((4 * 32 + 6) * 256 + p.toNat) * 256 + b.toNat) * 32 := ew.trans (by clear ew; omega)
  have f0 : wordField w0 31 26 = 4 := by rw [hw]; exact (above_zeros 32 5 _ 31 26 rfl).trans ((above 256 8 _ (b.toNat) 26 21 rfl b.isLt).trans ((above 256 8 _ (p.toNat) 18 13 rfl p.isLt).trans ((above 32 5 _ (6) 10 5 rfl (by decide)).trans (whole 64 (4) 5 rfl (by decide)))))
  have f1 : wordField w0 25 21 = 6 := by rw [hw]; exact (above_zeros 32 5 _ 25 21 rfl).trans ((above 256 8 _ (b.toNat) 20 16 rfl b.isLt).trans ((above 256 8 _ (p.toNat) 12 8 rfl p.isLt).trans (lowest 32 _ (6) 4 rfl (by decide))))
  have f2 : wordField w0 20 13 = p.toNat := by rw [hw]; exact (above_zeros 32 5 _ 20 13 rfl).trans ((above 256 8 _ (b.toNat) 15 8 rfl b.isLt).trans (lowest 256 _ (p.toNat) 7 rfl p.isLt))
  have f3 : wordField w0 12 5 = b.toNat := by rw [hw]; exact (above_zeros 32 5 _ 12 5 rfl).trans (lowest 256 _ (b.toNat) 7 rfl b.isLt)
  have f4 : wordField w0 4 0 = 0 := by rw [hw]; exact lowest_zeros 32 _ 4 rfl
  have he : encode (.bobjTest p b) = [w0] := by subst ew; exact rfl
  rw [he]
  refine (major04 f0).trans ?_
  show decodeMajor04 w0 x = _
  simp only [decodeMajor04, f1, f2, f3, f4, BitVec.ofNat_toNat, BitVec.setWidth_eq]
  exact decodedIf_good _ _ hwf

theorem waitCnt (n : BitVec 6) (c : BitVec 2) : Statement (.waitCnt n c) := by
  intro hcode hwf x
  clear hcode
  have b0 := n.isLt
  have b1 := c.isLt
  obtain ⟨w0, ew⟩ : ∃ w0, w0 = 0x14000000 + n.toNat * 0x100 + c.toNat := ⟨_, rfl⟩
  have hw : w0 = ((((5 * 4) * 1024) * 64 + n.toNat) * 64) * 4 + c.toNat := ew.trans (by clear ew; omega)
  have f0 : wordField w0 31 26 = 5 := by rw [hw]; exact (above 4 2 _ (c.toNat) 31 26 rfl c.isLt).trans ((above_zeros 64 6 _ 29 24 rfl).trans ((above 64 6 _ (n.toNat) 23 18 rfl n.isLt).trans ((above_zeros 1024 10 _ 17 12 rfl).trans ((above_zeros 4 2 _ 7 2 rfl).trans (whole 64 (5) 5 rfl (by decide))))))
  have f1 : wordField w0 25 24 = 0 := by rw [hw]; exact (above 4 2 _ (c.toNat) 25 24 rfl c.isLt).trans ((above_zeros 64 6 _ 23 22 rfl).trans ((above 64 6 _ (n.toNat) 17 16 rfl n.isLt).trans ((above_zeros 1024 10 _ 11 10 rfl).trans (lowest_zeros 4 _ 1 rfl))))
  have f2 : wordField w0 23 14 = 0 := by rw [hw]; exact (above 4 2 _ (c.toNat) 23 14 rfl c.isLt).trans ((above_zeros 64 6 _ 21 12 rfl).trans ((above 64 6 _ (n.toNat) 15 6 rfl n.isLt).trans (lowest_zeros 1024 _ 9 rfl)))
  have f3 : wordField w0 13 8 = n.toNat := by rw [hw]; exact (above 4 2 _ (c.toNat) 13 8 rfl c.isLt).trans ((above_zeros 64 6 _ 11 6 rfl).trans (lowest 64 _ (n.toNat) 5 rfl n.isLt))
  have f4 : wordField w0 7 2 = 0 := by rw [hw]; exact (above 4 2 _ (c.toNat) 7 2 rfl c.isLt).trans (lowest_zeros 64 _ 5 rfl)
  have f5 : wordField w0 1 0 = c.toNat := by rw [hw]; exact lowest 4 _ (c.toNat) 1 rfl c.isLt
  have he : encode (.waitCnt n c) = [w0] := by subst ew; exact rfl
  rw [he]
  refine (major05 f0).trans ?_
  show decodeMajor05 w0 x = _
  simp only [decodeMajor05, f1, f2, f3, f4, f5, BitVec.ofNat_toNat, BitVec.setWidth_eq]
  exact decodedIf_good _ _ hwf

theorem fence (s : BitVec 3) (o : BitVec 3) : Statement (.fence s o) := by
  intro hcode hwf x
  clear hcode
  have b0 := s.isLt
  have b1 := o.isLt
  obtain ⟨w0, ew⟩ : ∃ w0, w0 = 0x15000000 + s.toNat * 0x10 + o.toNat := ⟨_, rfl⟩
  have hw : w0 = ((((5 * 4 + 1) * 131072) * 8 + s.toNat) * 2) * 8 + o.toNat := ew.trans (by clear ew; omega)
  have f0 : wordField w0 31 26 = 5 := by rw [hw]; exact (above 8 3 _ (o.toNat) 31 26 rfl o.isLt).trans ((above_zeros 2 1 _ 28 23 rfl).trans ((above 8 3 _ (s.toNat) 27 22 rfl s.isLt).trans ((above_zeros 131072 17 _ 24 19 rfl).trans ((above 4 2 _ (1) 7 2 rfl (by decide)).trans (whole 64 (5) 5 rfl (by decide))))))
  have f1 : wordField w0 25 24 = 1 := by rw [hw]; exact (above 8 3 _ (o.toNat) 25 24 rfl o.isLt).trans ((above_zeros 2 1 _ 22 21 rfl).trans ((above 8 3 _ (s.toNat) 21 20 rfl s.isLt).trans ((above_zeros 131072 17 _ 18 17 rfl).trans (lowest 4 _ (1) 1 rfl (by decide)))))
  have f2 : wordField w0 23 7 = 0 := by rw [hw]; exact (above 8 3 _ (o.toNat) 23 7 rfl o.isLt).trans ((above_zeros 2 1 _ 20 4 rfl).trans ((above 8 3 _ (s.toNat) 19 3 rfl s.isLt).trans (lowest_zeros 131072 _ 16 rfl)))
  have f3 : wordField w0 6 4 = s.toNat := by rw [hw]; exact (above 8 3 _ (o.toNat) 6 4 rfl o.isLt).trans ((above_zeros 2 1 _ 3 1 rfl).trans (lowest 8 _ (s.toNat) 2 rfl s.isLt))
  have f4 : wordField w0 3 3 = 0 := by rw [hw]; exact (above 8 3 _ (o.toNat) 3 3 rfl o.isLt).trans (lowest_zeros 2 _ 0 rfl)
  have f5 : wordField w0 2 0 = o.toNat := by rw [hw]; exact lowest 8 _ (o.toNat) 2 rfl o.isLt
  have he : encode (.fence s o) = [w0] := by subst ew; exact rfl
  rw [he]
  refine (major05 f0).trans ?_
  show decodeMajor05 w0 x = _
  simp only [decodeMajor05, f1, f2, f3, f4, f5, BitVec.ofNat_toNat, BitVec.setWidth_eq]
  exact decodedIf_good _ _ hwf

theorem semSet (a : BitVec 8) (n : BitVec 8) : Statement (.semSet a n) := by
  intro hcode hwf x
  clear hcode
  have b0 := a.isLt
  have b1 := n.isLt
  obtain ⟨w0, ew⟩ : ∃ w0, w0 = 0x18000000 + a.toNat * 0x100 + n.toNat := ⟨_, rfl⟩
  have hw : w0 = (((6 * 4) * 256) * 256 + a.toNat) * 256 + n.toNat := ew.trans (by clear ew; omega)
  have f0 : wordField w0 31 26 = 6 := by rw [hw]; exact (above 256 8 _ (n.toNat) 31 26 rfl n.isLt).trans ((above 256 8 _ (a.toNat) 23 18 rfl a.isLt).trans ((above_zeros 256 8 _ 15 10 rfl).trans ((above_zeros 4 2 _ 7 2 rfl).trans (whole 64 (6) 5 rfl (by decide)))))
  have f1 : wordField w0 25 24 = 0 := by rw [hw]; exact (above 256 8 _ (n.toNat) 25 24 rfl n.isLt).trans ((above 256 8 _ (a.toNat) 17 16 rfl a.isLt).trans ((above_zeros 256 8 _ 9 8 rfl).trans (lowest_zeros 4 _ 1 rfl)))
  have f2 : wordField w0 23 16 = 0 := by rw [hw]; exact (above 256 8 _ (n.toNat) 23 16 rfl n.isLt).trans ((above 256 8 _ (a.toNat) 15 8 rfl a.isLt).trans (lowest_zeros 256 _ 7 rfl))
  have f3 : wordField w0 15 8 = a.toNat := by rw [hw]; exact (above 256 8 _ (n.toNat) 15 8 rfl n.isLt).trans (lowest 256 _ (a.toNat) 7 rfl a.isLt)
  have f4 : wordField w0 7 0 = n.toNat := by rw [hw]; exact lowest 256 _ (n.toNat) 7 rfl n.isLt
  have he : encode (.semSet a n) = [w0] := by subst ew; exact rfl
  rw [he]
  refine (major06 f0).trans ?_
  show decodeMajor06 w0 x = _
  simp only [decodeMajor06, f1, f2, f3, f4, BitVec.ofNat_toNat, BitVec.setWidth_eq]
  exact decodedIf_good _ _ hwf

theorem semAdd (a : BitVec 8) (n : BitVec 8) : Statement (.semAdd a n) := by
  intro hcode hwf x
  clear hcode
  have b0 := a.isLt
  have b1 := n.isLt
  obtain ⟨w0, ew⟩ : ∃ w0, w0 = 0x19000000 + a.toNat * 0x100 + n.toNat := ⟨_, rfl⟩
  have hw : w0 = (((6 * 4 + 1) * 256) * 256 + a.toNat) * 256 + n.toNat := ew.trans (by clear ew; omega)
  have f0 : wordField w0 31 26 = 6 := by rw [hw]; exact (above 256 8 _ (n.toNat) 31 26 rfl n.isLt).trans ((above 256 8 _ (a.toNat) 23 18 rfl a.isLt).trans ((above_zeros 256 8 _ 15 10 rfl).trans ((above 4 2 _ (1) 7 2 rfl (by decide)).trans (whole 64 (6) 5 rfl (by decide)))))
  have f1 : wordField w0 25 24 = 1 := by rw [hw]; exact (above 256 8 _ (n.toNat) 25 24 rfl n.isLt).trans ((above 256 8 _ (a.toNat) 17 16 rfl a.isLt).trans ((above_zeros 256 8 _ 9 8 rfl).trans (lowest 4 _ (1) 1 rfl (by decide))))
  have f2 : wordField w0 23 16 = 0 := by rw [hw]; exact (above 256 8 _ (n.toNat) 23 16 rfl n.isLt).trans ((above 256 8 _ (a.toNat) 15 8 rfl a.isLt).trans (lowest_zeros 256 _ 7 rfl))
  have f3 : wordField w0 15 8 = a.toNat := by rw [hw]; exact (above 256 8 _ (n.toNat) 15 8 rfl n.isLt).trans (lowest 256 _ (a.toNat) 7 rfl a.isLt)
  have f4 : wordField w0 7 0 = n.toNat := by rw [hw]; exact lowest 256 _ (n.toNat) 7 rfl n.isLt
  have he : encode (.semAdd a n) = [w0] := by subst ew; exact rfl
  rw [he]
  refine (major06 f0).trans ?_
  show decodeMajor06 w0 x = _
  simp only [decodeMajor06, f1, f2, f3, f4, BitVec.ofNat_toNat, BitVec.setWidth_eq]
  exact decodedIf_good _ _ hwf

theorem semWaitge (a : BitVec 8) (n : BitVec 8) : Statement (.semWaitge a n) := by
  intro hcode hwf x
  clear hcode
  have b0 := a.isLt
  have b1 := n.isLt
  obtain ⟨w0, ew⟩ : ∃ w0, w0 = 0x1A000000 + a.toNat * 0x100 + n.toNat := ⟨_, rfl⟩
  have hw : w0 = (((6 * 4 + 2) * 256) * 256 + a.toNat) * 256 + n.toNat := ew.trans (by clear ew; omega)
  have f0 : wordField w0 31 26 = 6 := by rw [hw]; exact (above 256 8 _ (n.toNat) 31 26 rfl n.isLt).trans ((above 256 8 _ (a.toNat) 23 18 rfl a.isLt).trans ((above_zeros 256 8 _ 15 10 rfl).trans ((above 4 2 _ (2) 7 2 rfl (by decide)).trans (whole 64 (6) 5 rfl (by decide)))))
  have f1 : wordField w0 25 24 = 2 := by rw [hw]; exact (above 256 8 _ (n.toNat) 25 24 rfl n.isLt).trans ((above 256 8 _ (a.toNat) 17 16 rfl a.isLt).trans ((above_zeros 256 8 _ 9 8 rfl).trans (lowest 4 _ (2) 1 rfl (by decide))))
  have f2 : wordField w0 23 16 = 0 := by rw [hw]; exact (above 256 8 _ (n.toNat) 23 16 rfl n.isLt).trans ((above 256 8 _ (a.toNat) 15 8 rfl a.isLt).trans (lowest_zeros 256 _ 7 rfl))
  have f3 : wordField w0 15 8 = a.toNat := by rw [hw]; exact (above 256 8 _ (n.toNat) 15 8 rfl n.isLt).trans (lowest 256 _ (a.toNat) 7 rfl a.isLt)
  have f4 : wordField w0 7 0 = n.toNat := by rw [hw]; exact lowest 256 _ (n.toNat) 7 rfl n.isLt
  have he : encode (.semWaitge a n) = [w0] := by subst ew; exact rfl
  rw [he]
  refine (major06 f0).trans ?_
  show decodeMajor06 w0 x = _
  simp only [decodeMajor06, f1, f2, f3, f4, BitVec.ofNat_toNat, BitVec.setWidth_eq]
  exact decodedIf_good _ _ hwf

theorem semRead (d : BitVec 8) (n : BitVec 8) : Statement (.semRead d n) := by
  intro hcode hwf x
  clear hcode
  have b0 := d.isLt
  have b1 := n.isLt
  obtain ⟨w0, ew⟩ : ∃ w0, w0 = 0x1B000000 + d.toNat * 0x10000 + n.toNat := ⟨_, rfl⟩
  have hw : w0 = (((6 * 4 + 3) * 256 + d.toNat) * 256) * 256 + n.toNat := ew.trans (by clear ew; omega)
  have f0 : wordField w0 31 26 = 6 := by rw [hw]; exact (above 256 8 _ (n.toNat) 31 26 rfl n.isLt).trans ((above_zeros 256 8 _ 23 18 rfl).trans ((above 256 8 _ (d.toNat) 15 10 rfl d.isLt).trans ((above 4 2 _ (3) 7 2 rfl (by decide)).trans (whole 64 (6) 5 rfl (by decide)))))
  have f1 : wordField w0 25 24 = 3 := by rw [hw]; exact (above 256 8 _ (n.toNat) 25 24 rfl n.isLt).trans ((above_zeros 256 8 _ 17 16 rfl).trans ((above 256 8 _ (d.toNat) 9 8 rfl d.isLt).trans (lowest 4 _ (3) 1 rfl (by decide))))
  have f2 : wordField w0 23 16 = d.toNat := by rw [hw]; exact (above 256 8 _ (n.toNat) 23 16 rfl n.isLt).trans ((above_zeros 256 8 _ 15 8 rfl).trans (lowest 256 _ (d.toNat) 7 rfl d.isLt))
  have f3 : wordField w0 15 8 = 0 := by rw [hw]; exact (above 256 8 _ (n.toNat) 15 8 rfl n.isLt).trans (lowest_zeros 256 _ 7 rfl)
  have f4 : wordField w0 7 0 = n.toNat := by rw [hw]; exact lowest 256 _ (n.toNat) 7 rfl n.isLt
  have he : encode (.semRead d n) = [w0] := by subst ew; exact rfl
  rw [he]
  refine (major06 f0).trans ?_
  show decodeMajor06 w0 x = _
  simp only [decodeMajor06, f1, f2, f3, f4, BitVec.ofNat_toNat, BitVec.setWidth_eq]
  exact decodedIf_good _ _ hwf

theorem waitc (r : BitVec 1) (w : BitVec 1) (c : BitVec 3) (a : BitVec 8) (b : BitVec 8) : Statement (.waitc r w c a b) := by
  intro hcode hwf x
  clear hcode
  have b0 := r.isLt
  have b1 := w.isLt
  have b2 := c.isLt
  have b3 := a.isLt
  have b4 := b.isLt
  obtain ⟨w0, ew⟩ : ∃ w0, w0 = 0x1C000000 + r.toNat * 0x100000 + w.toNat * 0x80000 + c.toNat * 0x10000 + a.toNat * 0x100 + b.toNat := ⟨_, rfl⟩
  have hw : w0 = ((((((7 * 4) * 8) * 2 + r.toNat) * 2 + w.toNat) * 8 + c.toNat) * 256 + a.toNat) * 256 + b.toNat := ew.trans (by clear ew; omega)
  have f0 : wordField w0 31 26 = 7 := by rw [hw]; exact (above 256 8 _ (b.toNat) 31 26 rfl b.isLt).trans ((above 256 8 _ (a.toNat) 23 18 rfl a.isLt).trans ((above 8 3 _ (c.toNat) 15 10 rfl c.isLt).trans ((above 2 1 _ (w.toNat) 12 7 rfl w.isLt).trans ((above 2 1 _ (r.toNat) 11 6 rfl r.isLt).trans ((above_zeros 8 3 _ 10 5 rfl).trans ((above_zeros 4 2 _ 7 2 rfl).trans (whole 64 (7) 5 rfl (by decide))))))))
  have f1 : wordField w0 25 24 = 0 := by rw [hw]; exact (above 256 8 _ (b.toNat) 25 24 rfl b.isLt).trans ((above 256 8 _ (a.toNat) 17 16 rfl a.isLt).trans ((above 8 3 _ (c.toNat) 9 8 rfl c.isLt).trans ((above 2 1 _ (w.toNat) 6 5 rfl w.isLt).trans ((above 2 1 _ (r.toNat) 5 4 rfl r.isLt).trans ((above_zeros 8 3 _ 4 3 rfl).trans (lowest_zeros 4 _ 1 rfl))))))
  have f2 : wordField w0 23 21 = 0 := by rw [hw]; exact (above 256 8 _ (b.toNat) 23 21 rfl b.isLt).trans ((above 256 8 _ (a.toNat) 15 13 rfl a.isLt).trans ((above 8 3 _ (c.toNat) 7 5 rfl c.isLt).trans ((above 2 1 _ (w.toNat) 4 2 rfl w.isLt).trans ((above 2 1 _ (r.toNat) 3 1 rfl r.isLt).trans (lowest_zeros 8 _ 2 rfl)))))
  have f3 : wordField w0 20 20 = r.toNat := by rw [hw]; exact (above 256 8 _ (b.toNat) 20 20 rfl b.isLt).trans ((above 256 8 _ (a.toNat) 12 12 rfl a.isLt).trans ((above 8 3 _ (c.toNat) 4 4 rfl c.isLt).trans ((above 2 1 _ (w.toNat) 1 1 rfl w.isLt).trans (lowest 2 _ (r.toNat) 0 rfl r.isLt))))
  have f4 : wordField w0 19 19 = w.toNat := by rw [hw]; exact (above 256 8 _ (b.toNat) 19 19 rfl b.isLt).trans ((above 256 8 _ (a.toNat) 11 11 rfl a.isLt).trans ((above 8 3 _ (c.toNat) 3 3 rfl c.isLt).trans (lowest 2 _ (w.toNat) 0 rfl w.isLt)))
  have f5 : wordField w0 18 16 = c.toNat := by rw [hw]; exact (above 256 8 _ (b.toNat) 18 16 rfl b.isLt).trans ((above 256 8 _ (a.toNat) 10 8 rfl a.isLt).trans (lowest 8 _ (c.toNat) 2 rfl c.isLt))
  have f6 : wordField w0 15 8 = a.toNat := by rw [hw]; exact (above 256 8 _ (b.toNat) 15 8 rfl b.isLt).trans (lowest 256 _ (a.toNat) 7 rfl a.isLt)
  have f7 : wordField w0 7 0 = b.toNat := by rw [hw]; exact lowest 256 _ (b.toNat) 7 rfl b.isLt
  have he : encode (.waitc r w c a b) = [w0] := by subst ew; exact rfl
  rw [he]
  refine (major07 f0).trans ?_
  show decodeMajor07 w0 x = _
  simp only [decodeMajor07, f1, f2, f3, f4, f5, f6, f7, BitVec.ofNat_toNat, BitVec.setWidth_eq]
  exact decodedIf_good _ _ hwf

theorem monCancel : Statement .monCancel := by
  intro hcode hwf x
  clear hcode
  obtain ⟨w0, ew⟩ : ∃ w0, w0 = 0x1D000000 := ⟨_, rfl⟩
  have f0 : wordField w0 31 26 = 7 := by subst ew; decide
  have f1 : wordField w0 25 24 = 1 := by subst ew; decide
  have f2 : wordField w0 23 0 = 0 := by subst ew; decide
  have he : encode (.monCancel) = [w0] := by subst ew; exact rfl
  rw [he]
  refine (major07 f0).trans ?_
  show decodeMajor07 w0 x = _
  simp only [decodeMajor07, f1, f2, BitVec.ofNat_toNat, BitVec.setWidth_eq]
  exact decodedIf_good _ _ hwf

theorem launch (r : BitVec 8) (d : BitVec 8) : Statement (.launch r d) := by
  intro hcode hwf x
  clear hcode
  have b0 := r.isLt
  have b1 := d.isLt
  obtain ⟨w0, ew⟩ : ∃ w0, w0 = 0x20000000 + r.toNat * 0x2000 + d.toNat * 0x20 := ⟨_, rfl⟩
  have hw : w0 = (((8 * 32) * 256 + r.toNat) * 256 + d.toNat) * 32 := ew.trans (by clear ew; omega)
  have f0 : wordField w0 31 26 = 8 := by rw [hw]; exact (above_zeros 32 5 _ 31 26 rfl).trans ((above 256 8 _ (d.toNat) 26 21 rfl d.isLt).trans ((above 256 8 _ (r.toNat) 18 13 rfl r.isLt).trans ((above_zeros 32 5 _ 10 5 rfl).trans (whole 64 (8) 5 rfl (by decide)))))
  have f1 : wordField w0 25 21 = 0 := by rw [hw]; exact (above_zeros 32 5 _ 25 21 rfl).trans ((above 256 8 _ (d.toNat) 20 16 rfl d.isLt).trans ((above 256 8 _ (r.toNat) 12 8 rfl r.isLt).trans (lowest_zeros 32 _ 4 rfl)))
  have f2 : wordField w0 20 13 = r.toNat := by rw [hw]; exact (above_zeros 32 5 _ 20 13 rfl).trans ((above 256 8 _ (d.toNat) 15 8 rfl d.isLt).trans (lowest 256 _ (r.toNat) 7 rfl r.isLt))
  have f3 : wordField w0 12 5 = d.toNat := by rw [hw]; exact (above_zeros 32 5 _ 12 5 rfl).trans (lowest 256 _ (d.toNat) 7 rfl d.isLt)
  have f4 : wordField w0 4 0 = 0 := by rw [hw]; exact lowest_zeros 32 _ 4 rfl
  have he : encode (.launch r d) = [w0] := by subst ew; exact rfl
  rw [he]
  refine (major08 f0).trans ?_
  show decodeMajor08 w0 x = _
  simp only [decodeMajor08, f1, f2, f3, f4, BitVec.ofNat_toNat, BitVec.setWidth_eq]
  exact decodedIf_good _ _ hwf

theorem regionJoin (d : BitVec 8) : Statement (.regionJoin d) := by
  intro hcode hwf x
  clear hcode
  have b0 := d.isLt
  obtain ⟨w0, ew⟩ : ∃ w0, w0 = 0x20200000 + d.toNat * 0x20 := ⟨_, rfl⟩
  have hw : w0 = (((8 * 32 + 1) * 256) * 256 + d.toNat) * 32 := ew.trans (by clear ew; omega)
  have f0 : wordField w0 31 26 = 8 := by rw [hw]; exact (above_zeros 32 5 _ 31 26 rfl).trans ((above 256 8 _ (d.toNat) 26 21 rfl d.isLt).trans ((above_zeros 256 8 _ 18 13 rfl).trans ((above 32 5 _ (1) 10 5 rfl (by decide)).trans (whole 64 (8) 5 rfl (by decide)))))
  have f1 : wordField w0 25 21 = 1 := by rw [hw]; exact (above_zeros 32 5 _ 25 21 rfl).trans ((above 256 8 _ (d.toNat) 20 16 rfl d.isLt).trans ((above_zeros 256 8 _ 12 8 rfl).trans (lowest 32 _ (1) 4 rfl (by decide))))
  have f2 : wordField w0 20 13 = 0 := by rw [hw]; exact (above_zeros 32 5 _ 20 13 rfl).trans ((above 256 8 _ (d.toNat) 15 8 rfl d.isLt).trans (lowest_zeros 256 _ 7 rfl))
  have f3 : wordField w0 12 5 = d.toNat := by rw [hw]; exact (above_zeros 32 5 _ 12 5 rfl).trans (lowest 256 _ (d.toNat) 7 rfl d.isLt)
  have f4 : wordField w0 4 0 = 0 := by rw [hw]; exact lowest_zeros 32 _ 4 rfl
  have he : encode (.regionJoin d) = [w0] := by subst ew; exact rfl
  rw [he]
  refine (major08 f0).trans ?_
  show decodeMajor08 w0 x = _
  simp only [decodeMajor08, f1, f2, f3, f4, BitVec.ofNat_toNat, BitVec.setWidth_eq]
  exact decodedIf_good _ _ hwf

theorem msgSend (r : BitVec 8) (b : BitVec 8) : Statement (.msgSend r b) := by
  intro hcode hwf x
  clear hcode
  have b0 := r.isLt
  have b1 := b.isLt
  obtain ⟨w0, ew⟩ : ∃ w0, w0 = 0x24000000 + r.toNat * 0x2000 + b.toNat * 0x20 := ⟨_, rfl⟩
  have hw : w0 = (((9 * 32) * 256 + r.toNat) * 256 + b.toNat) * 32 := ew.trans (by clear ew; omega)
  have f0 : wordField w0 31 26 = 9 := by rw [hw]; exact (above_zeros 32 5 _ 31 26 rfl).trans ((above 256 8 _ (b.toNat) 26 21 rfl b.isLt).trans ((above 256 8 _ (r.toNat) 18 13 rfl r.isLt).trans ((above_zeros 32 5 _ 10 5 rfl).trans (whole 64 (9) 5 rfl (by decide)))))
  have f1 : wordField w0 25 21 = 0 := by rw [hw]; exact (above_zeros 32 5 _ 25 21 rfl).trans ((above 256 8 _ (b.toNat) 20 16 rfl b.isLt).trans ((above 256 8 _ (r.toNat) 12 8 rfl r.isLt).trans (lowest_zeros 32 _ 4 rfl)))
  have f2 : wordField w0 20 13 = r.toNat := by rw [hw]; exact (above_zeros 32 5 _ 20 13 rfl).trans ((above 256 8 _ (b.toNat) 15 8 rfl b.isLt).trans (lowest 256 _ (r.toNat) 7 rfl r.isLt))
  have f3 : wordField w0 12 5 = b.toNat := by rw [hw]; exact (above_zeros 32 5 _ 12 5 rfl).trans (lowest 256 _ (b.toNat) 7 rfl b.isLt)
  have f4 : wordField w0 4 0 = 0 := by rw [hw]; exact lowest_zeros 32 _ 4 rfl
  have he : encode (.msgSend r b) = [w0] := by subst ew; exact rfl
  rw [he]
  refine (major09 f0).trans ?_
  show decodeMajor09 w0 x = _
  simp only [decodeMajor09, f1, f2, f3, f4, BitVec.ofNat_toNat, BitVec.setWidth_eq]
  exact decodedIf_good _ _ hwf

theorem msgRecv (r : BitVec 8) (b : BitVec 8) (c : BitVec 4) : Statement (.msgRecv r b c) := by
  intro hcode hwf x
  clear hcode
  have b0 := r.isLt
  have b1 := b.isLt
  have b2 := c.isLt
  obtain ⟨w0, ew⟩ : ∃ w0, w0 = 0x24200000 + r.toNat * 0x2000 + b.toNat * 0x20 + c.toNat := ⟨_, rfl⟩
  have hw : w0 = ((((9 * 32 + 1) * 256 + r.toNat) * 256 + b.toNat) * 2) * 16 + c.toNat := ew.trans (by clear ew; omega)
  have f0 : wordField w0 31 26 = 9 := by rw [hw]; exact (above 16 4 _ (c.toNat) 31 26 rfl c.isLt).trans ((above_zeros 2 1 _ 27 22 rfl).trans ((above 256 8 _ (b.toNat) 26 21 rfl b.isLt).trans ((above 256 8 _ (r.toNat) 18 13 rfl r.isLt).trans ((above 32 5 _ (1) 10 5 rfl (by decide)).trans (whole 64 (9) 5 rfl (by decide))))))
  have f1 : wordField w0 25 21 = 1 := by rw [hw]; exact (above 16 4 _ (c.toNat) 25 21 rfl c.isLt).trans ((above_zeros 2 1 _ 21 17 rfl).trans ((above 256 8 _ (b.toNat) 20 16 rfl b.isLt).trans ((above 256 8 _ (r.toNat) 12 8 rfl r.isLt).trans (lowest 32 _ (1) 4 rfl (by decide)))))
  have f2 : wordField w0 20 13 = r.toNat := by rw [hw]; exact (above 16 4 _ (c.toNat) 20 13 rfl c.isLt).trans ((above_zeros 2 1 _ 16 9 rfl).trans ((above 256 8 _ (b.toNat) 15 8 rfl b.isLt).trans (lowest 256 _ (r.toNat) 7 rfl r.isLt)))
  have f3 : wordField w0 12 5 = b.toNat := by rw [hw]; exact (above 16 4 _ (c.toNat) 12 5 rfl c.isLt).trans ((above_zeros 2 1 _ 8 1 rfl).trans (lowest 256 _ (b.toNat) 7 rfl b.isLt))
  have f4 : wordField w0 4 4 = 0 := by rw [hw]; exact (above 16 4 _ (c.toNat) 4 4 rfl c.isLt).trans (lowest_zeros 2 _ 0 rfl)
  have f5 : wordField w0 3 0 = c.toNat := by rw [hw]; exact lowest 16 _ (c.toNat) 3 rfl c.isLt
  have he : encode (.msgRecv r b c) = [w0] := by subst ew; exact rfl
  rw [he]
  refine (major09 f0).trans ?_
  show decodeMajor09 w0 x = _
  simp only [decodeMajor09, f1, f2, f3, f4, f5, BitVec.ofNat_toNat, BitVec.setWidth_eq]
  exact decodedIf_good _ _ hwf

theorem msgPoll (r : BitVec 8) (b : BitVec 8) (c : BitVec 4) : Statement (.msgPoll r b c) := by
  intro hcode hwf x
  clear hcode
  have b0 := r.isLt
  have b1 := b.isLt
  have b2 := c.isLt
  obtain ⟨w0, ew⟩ : ∃ w0, w0 = 0x24400000 + r.toNat * 0x2000 + b.toNat * 0x20 + c.toNat := ⟨_, rfl⟩
  have hw : w0 = ((((9 * 32 + 2) * 256 + r.toNat) * 256 + b.toNat) * 2) * 16 + c.toNat := ew.trans (by clear ew; omega)
  have f0 : wordField w0 31 26 = 9 := by rw [hw]; exact (above 16 4 _ (c.toNat) 31 26 rfl c.isLt).trans ((above_zeros 2 1 _ 27 22 rfl).trans ((above 256 8 _ (b.toNat) 26 21 rfl b.isLt).trans ((above 256 8 _ (r.toNat) 18 13 rfl r.isLt).trans ((above 32 5 _ (2) 10 5 rfl (by decide)).trans (whole 64 (9) 5 rfl (by decide))))))
  have f1 : wordField w0 25 21 = 2 := by rw [hw]; exact (above 16 4 _ (c.toNat) 25 21 rfl c.isLt).trans ((above_zeros 2 1 _ 21 17 rfl).trans ((above 256 8 _ (b.toNat) 20 16 rfl b.isLt).trans ((above 256 8 _ (r.toNat) 12 8 rfl r.isLt).trans (lowest 32 _ (2) 4 rfl (by decide)))))
  have f2 : wordField w0 20 13 = r.toNat := by rw [hw]; exact (above 16 4 _ (c.toNat) 20 13 rfl c.isLt).trans ((above_zeros 2 1 _ 16 9 rfl).trans ((above 256 8 _ (b.toNat) 15 8 rfl b.isLt).trans (lowest 256 _ (r.toNat) 7 rfl r.isLt)))
  have f3 : wordField w0 12 5 = b.toNat := by rw [hw]; exact (above 16 4 _ (c.toNat) 12 5 rfl c.isLt).trans ((above_zeros 2 1 _ 8 1 rfl).trans (lowest 256 _ (b.toNat) 7 rfl b.isLt))
  have f4 : wordField w0 4 4 = 0 := by rw [hw]; exact (above 16 4 _ (c.toNat) 4 4 rfl c.isLt).trans (lowest_zeros 2 _ 0 rfl)
  have f5 : wordField w0 3 0 = c.toNat := by rw [hw]; exact lowest 16 _ (c.toNat) 3 rfl c.isLt
  have he : encode (.msgPoll r b c) = [w0] := by subst ew; exact rfl
  rw [he]
  refine (major09 f0).trans ?_
  show decodeMajor09 w0 x = _
  simp only [decodeMajor09, f1, f2, f3, f4, f5, BitVec.ofNat_toNat, BitVec.setWidth_eq]
  exact decodedIf_good _ _ hwf

theorem msgFree (r : BitVec 8) (c : BitVec 4) : Statement (.msgFree r c) := by
  intro hcode hwf x
  clear hcode
  have b0 := r.isLt
  have b1 := c.isLt
  obtain ⟨w0, ew⟩ : ∃ w0, w0 = 0x24600000 + r.toNat * 0x2000 + c.toNat := ⟨_, rfl⟩
  have hw : w0 = (((9 * 32 + 3) * 256 + r.toNat) * 512) * 16 + c.toNat := ew.trans (by clear ew; omega)
  have f0 : wordField w0 31 26 = 9 := by rw [hw]; exact (above 16 4 _ (c.toNat) 31 26 rfl c.isLt).trans ((above_zeros 512 9 _ 27 22 rfl).trans ((above 256 8 _ (r.toNat) 18 13 rfl r.isLt).trans ((above 32 5 _ (3) 10 5 rfl (by decide)).trans (whole 64 (9) 5 rfl (by decide)))))
  have f1 : wordField w0 25 21 = 3 := by rw [hw]; exact (above 16 4 _ (c.toNat) 25 21 rfl c.isLt).trans ((above_zeros 512 9 _ 21 17 rfl).trans ((above 256 8 _ (r.toNat) 12 8 rfl r.isLt).trans (lowest 32 _ (3) 4 rfl (by decide))))
  have f2 : wordField w0 20 13 = r.toNat := by rw [hw]; exact (above 16 4 _ (c.toNat) 20 13 rfl c.isLt).trans ((above_zeros 512 9 _ 16 9 rfl).trans (lowest 256 _ (r.toNat) 7 rfl r.isLt))
  have f3 : wordField w0 12 4 = 0 := by rw [hw]; exact (above 16 4 _ (c.toNat) 12 4 rfl c.isLt).trans (lowest_zeros 512 _ 8 rfl)
  have f4 : wordField w0 3 0 = c.toNat := by rw [hw]; exact lowest 16 _ (c.toNat) 3 rfl c.isLt
  have he : encode (.msgFree r c) = [w0] := by subst ew; exact rfl
  rw [he]
  refine (major09 f0).trans ?_
  show decodeMajor09 w0 x = _
  simp only [decodeMajor09, f1, f2, f3, f4, BitVec.ofNat_toNat, BitVec.setWidth_eq]
  exact decodedIf_good _ _ hwf

theorem primEmit (a : BitVec 7) (b : BitVec 7) : Statement (.primEmit a b) := by
  intro hcode hwf x
  clear hcode
  have b0 := a.isLt
  have b1 := b.isLt
  obtain ⟨w0, ew⟩ : ∃ w0, w0 = 0x28000000 + a.toNat * 0x80 + b.toNat := ⟨_, rfl⟩
  have hw : w0 = (((10 * 32) * 128) * 128 + a.toNat) * 128 + b.toNat := ew.trans (by clear ew; omega)
  have f0 : wordField w0 31 26 = 10 := by rw [hw]; exact (above 128 7 _ (b.toNat) 31 26 rfl b.isLt).trans ((above 128 7 _ (a.toNat) 24 19 rfl a.isLt).trans ((above_zeros 128 7 _ 17 12 rfl).trans ((above_zeros 32 5 _ 10 5 rfl).trans (whole 64 (10) 5 rfl (by decide)))))
  have f1 : wordField w0 25 21 = 0 := by rw [hw]; exact (above 128 7 _ (b.toNat) 25 21 rfl b.isLt).trans ((above 128 7 _ (a.toNat) 18 14 rfl a.isLt).trans ((above_zeros 128 7 _ 11 7 rfl).trans (lowest_zeros 32 _ 4 rfl)))
  have f2 : wordField w0 20 14 = 0 := by rw [hw]; exact (above 128 7 _ (b.toNat) 20 14 rfl b.isLt).trans ((above 128 7 _ (a.toNat) 13 7 rfl a.isLt).trans (lowest_zeros 128 _ 6 rfl))
  have f3 : wordField w0 13 7 = a.toNat := by rw [hw]; exact (above 128 7 _ (b.toNat) 13 7 rfl b.isLt).trans (lowest 128 _ (a.toNat) 6 rfl a.isLt)
  have f4 : wordField w0 6 0 = b.toNat := by rw [hw]; exact lowest 128 _ (b.toNat) 6 rfl b.isLt
  have he : encode (.primEmit a b) = [w0] := by subst ew; exact rfl
  rw [he]
  refine (major0A f0).trans ?_
  show decodeMajor0A w0 x = _
  simp only [decodeMajor0A, f1, f2, f3, f4, BitVec.ofNat_toNat, BitVec.setWidth_eq]
  exact decodedIf_good _ _ hwf

theorem primEmitClose (b : BitVec 7) : Statement (.primEmitClose b) := by
  intro hcode hwf x
  clear hcode
  have b0 := b.isLt
  obtain ⟨w0, ew⟩ : ∃ w0, w0 = 0x28200000 + b.toNat := ⟨_, rfl⟩
  have hw : w0 = ((10 * 32 + 1) * 16384) * 128 + b.toNat := ew.trans (by clear ew; omega)
  have f0 : wordField w0 31 26 = 10 := by rw [hw]; exact (above 128 7 _ (b.toNat) 31 26 rfl b.isLt).trans ((above_zeros 16384 14 _ 24 19 rfl).trans ((above 32 5 _ (1) 10 5 rfl (by decide)).trans (whole 64 (10) 5 rfl (by decide))))
  have f1 : wordField w0 25 21 = 1 := by rw [hw]; exact (above 128 7 _ (b.toNat) 25 21 rfl b.isLt).trans ((above_zeros 16384 14 _ 18 14 rfl).trans (lowest 32 _ (1) 4 rfl (by decide)))
  have f2 : wordField w0 20 7 = 0 := by rw [hw]; exact (above 128 7 _ (b.toNat) 20 7 rfl b.isLt).trans (lowest_zeros 16384 _ 13 rfl)
  have f3 : wordField w0 6 0 = b.toNat := by rw [hw]; exact lowest 128 _ (b.toNat) 6 rfl b.isLt
  have he : encode (.primEmitClose b) = [w0] := by subst ew; exact rfl
  rw [he]
  refine (major0A f0).trans ?_
  show decodeMajor0A w0 x = _
  simp only [decodeMajor0A, f1, f2, f3, BitVec.ofNat_toNat, BitVec.setWidth_eq]
  exact decodedIf_good _ _ hwf

theorem tileGet (k : BitVec 3) (b : BitVec 7) : Statement (.tileGet k b) := by
  intro hcode hwf x
  clear hcode
  have b0 := k.isLt
  have b1 := b.isLt
  obtain ⟨w0, ew⟩ : ∃ w0, w0 = 0x28400000 + k.toNat * 0x4000 + b.toNat := ⟨_, rfl⟩
  have hw : w0 = ((((10 * 32 + 2) * 16) * 8 + k.toNat) * 128) * 128 + b.toNat := ew.trans (by clear ew; omega)
  have f0 : wordField w0 31 26 = 10 := by rw [hw]; exact (above 128 7 _ (b.toNat) 31 26 rfl b.isLt).trans ((above_zeros 128 7 _ 24 19 rfl).trans ((above 8 3 _ (k.toNat) 17 12 rfl k.isLt).trans ((above_zeros 16 4 _ 14 9 rfl).trans ((above 32 5 _ (2) 10 5 rfl (by decide)).trans (whole 64 (10) 5 rfl (by decide))))))
  have f1 : wordField w0 25 21 = 2 := by rw [hw]; exact (above 128 7 _ (b.toNat) 25 21 rfl b.isLt).trans ((above_zeros 128 7 _ 18 14 rfl).trans ((above 8 3 _ (k.toNat) 11 7 rfl k.isLt).trans ((above_zeros 16 4 _ 8 4 rfl).trans (lowest 32 _ (2) 4 rfl (by decide)))))
  have f2 : wordField w0 20 17 = 0 := by rw [hw]; exact (above 128 7 _ (b.toNat) 20 17 rfl b.isLt).trans ((above_zeros 128 7 _ 13 10 rfl).trans ((above 8 3 _ (k.toNat) 6 3 rfl k.isLt).trans (lowest_zeros 16 _ 3 rfl)))
  have f3 : wordField w0 16 14 = k.toNat := by rw [hw]; exact (above 128 7 _ (b.toNat) 16 14 rfl b.isLt).trans ((above_zeros 128 7 _ 9 7 rfl).trans (lowest 8 _ (k.toNat) 2 rfl k.isLt))
  have f4 : wordField w0 13 7 = 0 := by rw [hw]; exact (above 128 7 _ (b.toNat) 13 7 rfl b.isLt).trans (lowest_zeros 128 _ 6 rfl)
  have f5 : wordField w0 6 0 = b.toNat := by rw [hw]; exact lowest 128 _ (b.toNat) 6 rfl b.isLt
  have he : encode (.tileGet k b) = [w0] := by subst ew; exact rfl
  rw [he]
  refine (major0A f0).trans ?_
  show decodeMajor0A w0 x = _
  simp only [decodeMajor0A, f1, f2, f3, f4, f5, BitVec.ofNat_toNat, BitVec.setWidth_eq]
  exact decodedIf_good _ _ hwf

theorem tileDone : Statement .tileDone := by
  intro hcode hwf x
  clear hcode
  obtain ⟨w0, ew⟩ : ∃ w0, w0 = 0x28600000 := ⟨_, rfl⟩
  have f0 : wordField w0 31 26 = 10 := by subst ew; decide
  have f1 : wordField w0 25 21 = 3 := by subst ew; decide
  have f2 : wordField w0 20 0 = 0 := by subst ew; decide
  have he : encode (.tileDone) = [w0] := by subst ew; exact rfl
  rw [he]
  refine (major0A f0).trans ?_
  show decodeMajor0A w0 x = _
  simp only [decodeMajor0A, f1, f2, BitVec.ofNat_toNat, BitVec.setWidth_eq]
  exact decodedIf_good _ _ hwf

theorem tileAttr (d : BitVec 7) (w : BitVec 4) : Statement (.tileAttr d w) := by
  intro hcode hwf x
  clear hcode
  have b0 := d.isLt
  have b1 := w.isLt
  obtain ⟨w0, ew⟩ : ∃ w0, w0 = 0x28800000 + d.toNat * 0x4000 + w.toNat := ⟨_, rfl⟩
  have hw : w0 = (((10 * 32 + 4) * 128 + d.toNat) * 1024) * 16 + w.toNat := ew.trans (by clear ew; omega)
  have f0 : wordField w0 31 26 = 10 := by rw [hw]; exact (above 16 4 _ (w.toNat) 31 26 rfl w.isLt).trans ((above_zeros 1024 10 _ 27 22 rfl).trans ((above 128 7 _ (d.toNat) 17 12 rfl d.isLt).trans ((above 32 5 _ (4) 10 5 rfl (by decide)).trans (whole 64 (10) 5 rfl (by decide)))))
  have f1 : wordField w0 25 21 = 4 := by rw [hw]; exact (above 16 4 _ (w.toNat) 25 21 rfl w.isLt).trans ((above_zeros 1024 10 _ 21 17 rfl).trans ((above 128 7 _ (d.toNat) 11 7 rfl d.isLt).trans (lowest 32 _ (4) 4 rfl (by decide))))
  have f2 : wordField w0 20 14 = d.toNat := by rw [hw]; exact (above 16 4 _ (w.toNat) 20 14 rfl w.isLt).trans ((above_zeros 1024 10 _ 16 10 rfl).trans (lowest 128 _ (d.toNat) 6 rfl d.isLt))
  have f3 : wordField w0 13 4 = 0 := by rw [hw]; exact (above 16 4 _ (w.toNat) 13 4 rfl w.isLt).trans (lowest_zeros 1024 _ 9 rfl)
  have f4 : wordField w0 3 0 = w.toNat := by rw [hw]; exact lowest 16 _ (w.toNat) 3 rfl w.isLt
  have he : encode (.tileAttr d w) = [w0] := by subst ew; exact rfl
  rw [he]
  refine (major0A f0).trans ?_
  show decodeMajor0A w0 x = _
  simp only [decodeMajor0A, f1, f2, f3, f4, BitVec.ofNat_toNat, BitVec.setWidth_eq]
  exact decodedIf_good _ _ hwf

theorem edge (d : BitVec 7) : Statement (.edge d) := by
  intro hcode hwf x
  clear hcode
  have b0 := d.isLt
  obtain ⟨w0, ew⟩ : ∃ w0, w0 = 0x2C000000 + d.toNat * 0x4000 := ⟨_, rfl⟩
  have hw : w0 = ((11 * 32) * 128 + d.toNat) * 16384 := ew.trans (by clear ew; omega)
  have f0 : wordField w0 31 26 = 11 := by rw [hw]; exact (above_zeros 16384 14 _ 31 26 rfl).trans ((above 128 7 _ (d.toNat) 17 12 rfl d.isLt).trans ((above_zeros 32 5 _ 10 5 rfl).trans (whole 64 (11) 5 rfl (by decide))))
  have f1 : wordField w0 25 21 = 0 := by rw [hw]; exact (above_zeros 16384 14 _ 25 21 rfl).trans ((above 128 7 _ (d.toNat) 11 7 rfl d.isLt).trans (lowest_zeros 32 _ 4 rfl))
  have f2 : wordField w0 20 14 = d.toNat := by rw [hw]; exact (above_zeros 16384 14 _ 20 14 rfl).trans (lowest 128 _ (d.toNat) 6 rfl d.isLt)
  have f3 : wordField w0 13 0 = 0 := by rw [hw]; exact lowest_zeros 16384 _ 13 rfl
  have he : encode (.edge d) = [w0] := by subst ew; exact rfl
  rw [he]
  refine (major0B f0).trans ?_
  show decodeMajor0B w0 x = _
  simp only [decodeMajor0B, f1, f2, f3, BitVec.ofNat_toNat, BitVec.setWidth_eq]
  exact decodedIf_good _ _ hwf

theorem interp (d : BitVec 7) (p : BitVec 4) (f : BitVec 3) : Statement (.interp d p f) := by
  intro hcode hwf x
  clear hcode
  have b0 := d.isLt
  have b1 := p.isLt
  have b2 := f.isLt
  obtain ⟨w0, ew⟩ : ∃ w0, w0 = 0x2C200000 + d.toNat * 0x4000 + p.toNat * 0x8 + f.toNat := ⟨_, rfl⟩
  have hw : w0 = ((((11 * 32 + 1) * 128 + d.toNat) * 128) * 16 + p.toNat) * 8 + f.toNat := ew.trans (by clear ew; omega)
  have f0 : wordField w0 31 26 = 11 := by rw [hw]; exact (above 8 3 _ (f.toNat) 31 26 rfl f.isLt).trans ((above 16 4 _ (p.toNat) 28 23 rfl p.isLt).trans ((above_zeros 128 7 _ 24 19 rfl).trans ((above 128 7 _ (d.toNat) 17 12 rfl d.isLt).trans ((above 32 5 _ (1) 10 5 rfl (by decide)).trans (whole 64 (11) 5 rfl (by decide))))))
  have f1 : wordField w0 25 21 = 1 := by rw [hw]; exact (above 8 3 _ (f.toNat) 25 21 rfl f.isLt).trans ((above 16 4 _ (p.toNat) 22 18 rfl p.isLt).trans ((above_zeros 128 7 _ 18 14 rfl).trans ((above 128 7 _ (d.toNat) 11 7 rfl d.isLt).trans (lowest 32 _ (1) 4 rfl (by decide)))))
  have f2 : wordField w0 20 14 = d.toNat := by rw [hw]; exact (above 8 3 _ (f.toNat) 20 14 rfl f.isLt).trans ((above 16 4 _ (p.toNat) 17 11 rfl p.isLt).trans ((above_zeros 128 7 _ 13 7 rfl).trans (lowest 128 _ (d.toNat) 6 rfl d.isLt)))
  have f3 : wordField w0 13 7 = 0 := by rw [hw]; exact (above 8 3 _ (f.toNat) 13 7 rfl f.isLt).trans ((above 16 4 _ (p.toNat) 10 4 rfl p.isLt).trans (lowest_zeros 128 _ 6 rfl))
  have f4 : wordField w0 6 3 = p.toNat := by rw [hw]; exact (above 8 3 _ (f.toNat) 6 3 rfl f.isLt).trans (lowest 16 _ (p.toNat) 3 rfl p.isLt)
  have f5 : wordField w0 2 0 = f.toNat := by rw [hw]; exact lowest 8 _ (f.toNat) 2 rfl f.isLt
  have he : encode (.interp d p f) = [w0] := by subst ew; exact rfl
  rw [he]
  refine (major0B f0).trans ?_
  show decodeMajor0B w0 x = _
  simp only [decodeMajor0B, f1, f2, f3, f4, f5, BitVec.ofNat_toNat, BitVec.setWidth_eq]
  exact decodedIf_good _ _ hwf

theorem samplepos (d : BitVec 7) (p : BitVec 4) : Statement (.samplepos d p) := by
  intro hcode hwf x
  clear hcode
  have b0 := d.isLt
  have b1 := p.isLt
  obtain ⟨w0, ew⟩ : ∃ w0, w0 = 0x2C400000 + d.toNat * 0x4000 + p.toNat := ⟨_, rfl⟩
  have hw : w0 = (((11 * 32 + 2) * 128 + d.toNat) * 1024) * 16 + p.toNat := ew.trans (by clear ew; omega)
  have f0 : wordField w0 31 26 = 11 := by rw [hw]; exact (above 16 4 _ (p.toNat) 31 26 rfl p.isLt).trans ((above_zeros 1024 10 _ 27 22 rfl).trans ((above 128 7 _ (d.toNat) 17 12 rfl d.isLt).trans ((above 32 5 _ (2) 10 5 rfl (by decide)).trans (whole 64 (11) 5 rfl (by decide)))))
  have f1 : wordField w0 25 21 = 2 := by rw [hw]; exact (above 16 4 _ (p.toNat) 25 21 rfl p.isLt).trans ((above_zeros 1024 10 _ 21 17 rfl).trans ((above 128 7 _ (d.toNat) 11 7 rfl d.isLt).trans (lowest 32 _ (2) 4 rfl (by decide))))
  have f2 : wordField w0 20 14 = d.toNat := by rw [hw]; exact (above 16 4 _ (p.toNat) 20 14 rfl p.isLt).trans ((above_zeros 1024 10 _ 16 10 rfl).trans (lowest 128 _ (d.toNat) 6 rfl d.isLt))
  have f3 : wordField w0 13 4 = 0 := by rw [hw]; exact (above 16 4 _ (p.toNat) 13 4 rfl p.isLt).trans (lowest_zeros 1024 _ 9 rfl)
  have f4 : wordField w0 3 0 = p.toNat := by rw [hw]; exact lowest 16 _ (p.toNat) 3 rfl p.isLt
  have he : encode (.samplepos d p) = [w0] := by subst ew; exact rfl
  rw [he]
  refine (major0B f0).trans ?_
  show decodeMajor0B w0 x = _
  simp only [decodeMajor0B, f1, f2, f3, f4, BitVec.ofNat_toNat, BitVec.setWidth_eq]
  exact decodedIf_good _ _ hwf

theorem glzInsert (z : BitVec 7) (s : BitVec 7) (c : BitVec 7) : Statement (.glzInsert z s c) := by
  intro hcode hwf x
  clear hcode
  have b0 := z.isLt
  have b1 := s.isLt
  have b2 := c.isLt
  obtain ⟨w0, ew⟩ : ∃ w0, w0 = 0x30000000 + z.toNat * 0x4000 + s.toNat * 0x80 + c.toNat := ⟨_, rfl⟩
  have hw : w0 = (((12 * 32) * 128 + z.toNat) * 128 + s.toNat) * 128 + c.toNat := ew.trans (by clear ew; omega)
  have f0 : wordField w0 31 26 = 12 := by rw [hw]; exact (above 128 7 _ (c.toNat) 31 26 rfl c.isLt).trans ((above 128 7 _ (s.toNat) 24 19 rfl s.isLt).trans ((above 128 7 _ (z.toNat) 17 12 rfl z.isLt).trans ((above_zeros 32 5 _ 10 5 rfl).trans (whole 64 (12) 5 rfl (by decide)))))
  have f1 : wordField w0 25 21 = 0 := by rw [hw]; exact (above 128 7 _ (c.toNat) 25 21 rfl c.isLt).trans ((above 128 7 _ (s.toNat) 18 14 rfl s.isLt).trans ((above 128 7 _ (z.toNat) 11 7 rfl z.isLt).trans (lowest_zeros 32 _ 4 rfl)))
  have f2 : wordField w0 20 14 = z.toNat := by rw [hw]; exact (above 128 7 _ (c.toNat) 20 14 rfl c.isLt).trans ((above 128 7 _ (s.toNat) 13 7 rfl s.isLt).trans (lowest 128 _ (z.toNat) 6 rfl z.isLt))
  have f3 : wordField w0 13 7 = s.toNat := by rw [hw]; exact (above 128 7 _ (c.toNat) 13 7 rfl c.isLt).trans (lowest 128 _ (s.toNat) 6 rfl s.isLt)
  have f4 : wordField w0 6 0 = c.toNat := by rw [hw]; exact lowest 128 _ (c.toNat) 6 rfl c.isLt
  have he : encode (.glzInsert z s c) = [w0] := by subst ew; exact rfl
  rw [he]
  refine (major0C f0).trans ?_
  show decodeMajor0C w0 x = _
  simp only [decodeMajor0C, f1, f2, f3, f4, BitVec.ofNat_toNat, BitVec.setWidth_eq]
  exact decodedIf_good _ _ hwf

theorem glzCount (d : BitVec 7) (s : BitVec 7) : Statement (.glzCount d s) := by
  intro hcode hwf x
  clear hcode
  have b0 := d.isLt
  have b1 := s.isLt
  obtain ⟨w0, ew⟩ : ∃ w0, w0 = 0x30200000 + d.toNat * 0x4000 + s.toNat * 0x80 := ⟨_, rfl⟩
  have hw : w0 = (((12 * 32 + 1) * 128 + d.toNat) * 128 + s.toNat) * 128 := ew.trans (by clear ew; omega)
  have f0 : wordField w0 31 26 = 12 := by rw [hw]; exact (above_zeros 128 7 _ 31 26 rfl).trans ((above 128 7 _ (s.toNat) 24 19 rfl s.isLt).trans ((above 128 7 _ (d.toNat) 17 12 rfl d.isLt).trans ((above 32 5 _ (1) 10 5 rfl (by decide)).trans (whole 64 (12) 5 rfl (by decide)))))
  have f1 : wordField w0 25 21 = 1 := by rw [hw]; exact (above_zeros 128 7 _ 25 21 rfl).trans ((above 128 7 _ (s.toNat) 18 14 rfl s.isLt).trans ((above 128 7 _ (d.toNat) 11 7 rfl d.isLt).trans (lowest 32 _ (1) 4 rfl (by decide))))
  have f2 : wordField w0 20 14 = d.toNat := by rw [hw]; exact (above_zeros 128 7 _ 20 14 rfl).trans ((above 128 7 _ (s.toNat) 13 7 rfl s.isLt).trans (lowest 128 _ (d.toNat) 6 rfl d.isLt))
  have f3 : wordField w0 13 7 = s.toNat := by rw [hw]; exact (above_zeros 128 7 _ 13 7 rfl).trans (lowest 128 _ (s.toNat) 6 rfl s.isLt)
  have f4 : wordField w0 6 0 = 0 := by rw [hw]; exact lowest_zeros 128 _ 6 rfl
  have he : encode (.glzCount d s) = [w0] := by subst ew; exact rfl
  rw [he]
  refine (major0C f0).trans ?_
  show decodeMajor0C w0 x = _
  simp only [decodeMajor0C, f1, f2, f3, f4, BitVec.ofNat_toNat, BitVec.setWidth_eq]
  exact decodedIf_good _ _ hwf

theorem glzRead (d : BitVec 7) (s : BitVec 7) (i : BitVec 7) : Statement (.glzRead d s i) := by
  intro hcode hwf x
  clear hcode
  have b0 := d.isLt
  have b1 := s.isLt
  have b2 := i.isLt
  obtain ⟨w0, ew⟩ : ∃ w0, w0 = 0x30400000 + d.toNat * 0x4000 + s.toNat * 0x80 + i.toNat := ⟨_, rfl⟩
  have hw : w0 = (((12 * 32 + 2) * 128 + d.toNat) * 128 + s.toNat) * 128 + i.toNat := ew.trans (by clear ew; omega)
  have f0 : wordField w0 31 26 = 12 := by rw [hw]; exact (above 128 7 _ (i.toNat) 31 26 rfl i.isLt).trans ((above 128 7 _ (s.toNat) 24 19 rfl s.isLt).trans ((above 128 7 _ (d.toNat) 17 12 rfl d.isLt).trans ((above 32 5 _ (2) 10 5 rfl (by decide)).trans (whole 64 (12) 5 rfl (by decide)))))
  have f1 : wordField w0 25 21 = 2 := by rw [hw]; exact (above 128 7 _ (i.toNat) 25 21 rfl i.isLt).trans ((above 128 7 _ (s.toNat) 18 14 rfl s.isLt).trans ((above 128 7 _ (d.toNat) 11 7 rfl d.isLt).trans (lowest 32 _ (2) 4 rfl (by decide))))
  have f2 : wordField w0 20 14 = d.toNat := by rw [hw]; exact (above 128 7 _ (i.toNat) 20 14 rfl i.isLt).trans ((above 128 7 _ (s.toNat) 13 7 rfl s.isLt).trans (lowest 128 _ (d.toNat) 6 rfl d.isLt))
  have f3 : wordField w0 13 7 = s.toNat := by rw [hw]; exact (above 128 7 _ (i.toNat) 13 7 rfl i.isLt).trans (lowest 128 _ (s.toNat) 6 rfl s.isLt)
  have f4 : wordField w0 6 0 = i.toNat := by rw [hw]; exact lowest 128 _ (i.toNat) 6 rfl i.isLt
  have he : encode (.glzRead d s i) = [w0] := by subst ew; exact rfl
  rw [he]
  refine (major0C f0).trans ?_
  show decodeMajor0C w0 x = _
  simp only [decodeMajor0C, f1, f2, f3, f4, BitVec.ofNat_toNat, BitVec.setWidth_eq]
  exact decodedIf_good _ _ hwf

theorem glzResolve (d : BitVec 7) (s : BitVec 7) (b : BitVec 7) : Statement (.glzResolve d s b) := by
  intro hcode hwf x
  clear hcode
  have b0 := d.isLt
  have b1 := s.isLt
  have b2 := b.isLt
  obtain ⟨w0, ew⟩ : ∃ w0, w0 = 0x30600000 + d.toNat * 0x4000 + s.toNat * 0x80 + b.toNat := ⟨_, rfl⟩
  have hw : w0 = (((12 * 32 + 3) * 128 + d.toNat) * 128 + s.toNat) * 128 + b.toNat := ew.trans (by clear ew; omega)
  have f0 : wordField w0 31 26 = 12 := by rw [hw]; exact (above 128 7 _ (b.toNat) 31 26 rfl b.isLt).trans ((above 128 7 _ (s.toNat) 24 19 rfl s.isLt).trans ((above 128 7 _ (d.toNat) 17 12 rfl d.isLt).trans ((above 32 5 _ (3) 10 5 rfl (by decide)).trans (whole 64 (12) 5 rfl (by decide)))))
  have f1 : wordField w0 25 21 = 3 := by rw [hw]; exact (above 128 7 _ (b.toNat) 25 21 rfl b.isLt).trans ((above 128 7 _ (s.toNat) 18 14 rfl s.isLt).trans ((above 128 7 _ (d.toNat) 11 7 rfl d.isLt).trans (lowest 32 _ (3) 4 rfl (by decide))))
  have f2 : wordField w0 20 14 = d.toNat := by rw [hw]; exact (above 128 7 _ (b.toNat) 20 14 rfl b.isLt).trans ((above 128 7 _ (s.toNat) 13 7 rfl s.isLt).trans (lowest 128 _ (d.toNat) 6 rfl d.isLt))
  have f3 : wordField w0 13 7 = s.toNat := by rw [hw]; exact (above 128 7 _ (b.toNat) 13 7 rfl b.isLt).trans (lowest 128 _ (s.toNat) 6 rfl s.isLt)
  have f4 : wordField w0 6 0 = b.toNat := by rw [hw]; exact lowest 128 _ (b.toNat) 6 rfl b.isLt
  have he : encode (.glzResolve d s b) = [w0] := by subst ew; exact rfl
  rw [he]
  refine (major0C f0).trans ?_
  show decodeMajor0C w0 x = _
  simp only [decodeMajor0C, f1, f2, f3, f4, BitVec.ofNat_toNat, BitVec.setWidth_eq]
  exact decodedIf_good _ _ hwf

theorem glzResolveClr (d : BitVec 7) (s : BitVec 7) (b : BitVec 7) : Statement (.glzResolveClr d s b) := by
  intro hcode hwf x
  clear hcode
  have b0 := d.isLt
  have b1 := s.isLt
  have b2 := b.isLt
  obtain ⟨w0, ew⟩ : ∃ w0, w0 = 0x30800000 + d.toNat * 0x4000 + s.toNat * 0x80 + b.toNat := ⟨_, rfl⟩
  have hw : w0 = (((12 * 32 + 4) * 128 + d.toNat) * 128 + s.toNat) * 128 + b.toNat := ew.trans (by clear ew; omega)
  have f0 : wordField w0 31 26 = 12 := by rw [hw]; exact (above 128 7 _ (b.toNat) 31 26 rfl b.isLt).trans ((above 128 7 _ (s.toNat) 24 19 rfl s.isLt).trans ((above 128 7 _ (d.toNat) 17 12 rfl d.isLt).trans ((above 32 5 _ (4) 10 5 rfl (by decide)).trans (whole 64 (12) 5 rfl (by decide)))))
  have f1 : wordField w0 25 21 = 4 := by rw [hw]; exact (above 128 7 _ (b.toNat) 25 21 rfl b.isLt).trans ((above 128 7 _ (s.toNat) 18 14 rfl s.isLt).trans ((above 128 7 _ (d.toNat) 11 7 rfl d.isLt).trans (lowest 32 _ (4) 4 rfl (by decide))))
  have f2 : wordField w0 20 14 = d.toNat := by rw [hw]; exact (above 128 7 _ (b.toNat) 20 14 rfl b.isLt).trans ((above 128 7 _ (s.toNat) 13 7 rfl s.isLt).trans (lowest 128 _ (d.toNat) 6 rfl d.isLt))
  have f3 : wordField w0 13 7 = s.toNat := by rw [hw]; exact (above 128 7 _ (b.toNat) 13 7 rfl b.isLt).trans (lowest 128 _ (s.toNat) 6 rfl s.isLt)
  have f4 : wordField w0 6 0 = b.toNat := by rw [hw]; exact lowest 128 _ (b.toNat) 6 rfl b.isLt
  have he : encode (.glzResolveClr d s b) = [w0] := by subst ew; exact rfl
  rw [he]
  refine (major0C f0).trans ?_
  show decodeMajor0C w0 x = _
  simp only [decodeMajor0C, f1, f2, f3, f4, BitVec.ofNat_toNat, BitVec.setWidth_eq]
  exact decodedIf_good _ _ hwf

theorem glzClear (s : BitVec 7) : Statement (.glzClear s) := by
  intro hcode hwf x
  clear hcode
  have b0 := s.isLt
  obtain ⟨w0, ew⟩ : ∃ w0, w0 = 0x30A00000 + s.toNat * 0x80 := ⟨_, rfl⟩
  have hw : w0 = (((12 * 32 + 5) * 128) * 128 + s.toNat) * 128 := ew.trans (by clear ew; omega)
  have f0 : wordField w0 31 26 = 12 := by rw [hw]; exact (above_zeros 128 7 _ 31 26 rfl).trans ((above 128 7 _ (s.toNat) 24 19 rfl s.isLt).trans ((above_zeros 128 7 _ 17 12 rfl).trans ((above 32 5 _ (5) 10 5 rfl (by decide)).trans (whole 64 (12) 5 rfl (by decide)))))
  have f1 : wordField w0 25 21 = 5 := by rw [hw]; exact (above_zeros 128 7 _ 25 21 rfl).trans ((above 128 7 _ (s.toNat) 18 14 rfl s.isLt).trans ((above_zeros 128 7 _ 11 7 rfl).trans (lowest 32 _ (5) 4 rfl (by decide))))
  have f2 : wordField w0 20 14 = 0 := by rw [hw]; exact (above_zeros 128 7 _ 20 14 rfl).trans ((above 128 7 _ (s.toNat) 13 7 rfl s.isLt).trans (lowest_zeros 128 _ 6 rfl))
  have f3 : wordField w0 13 7 = s.toNat := by rw [hw]; exact (above_zeros 128 7 _ 13 7 rfl).trans (lowest 128 _ (s.toNat) 6 rfl s.isLt)
  have f4 : wordField w0 6 0 = 0 := by rw [hw]; exact lowest_zeros 128 _ 6 rfl
  have he : encode (.glzClear s) = [w0] := by subst ew; exact rfl
  rw [he]
  refine (major0C f0).trans ?_
  show decodeMajor0C w0 x = _
  simp only [decodeMajor0C, f1, f2, f3, f4, BitVec.ofNat_toNat, BitVec.setWidth_eq]
  exact decodedIf_good _ _ hwf

theorem texSample (d : BitVec 7) (a : BitVec 7) (b : BitVec 8) (cm : BitVec 2) (f : BitVec 1) (lm : BitVec 2) (c : BitVec 7) : Statement (.texSample d a b cm f lm c) := by
  intro hcode hwf x
  clear hcode
  have b0 := d.isLt
  have b1 := a.isLt
  have b2 := b.isLt
  have b3 := cm.isLt
  have b4 := f.isLt
  have b5 := lm.isLt
  have b6 := c.isLt
  obtain ⟨w0, ew⟩ : ∃ w0, w0 = 0x34000000 + d.toNat * 0x10000 + a.toNat * 0x200 + b.toNat := ⟨_, rfl⟩
  have hw : w0 = ((((13 * 8) * 128 + d.toNat) * 128 + a.toNat) * 2) * 256 + b.toNat := ew.trans (by clear ew; omega)
  obtain ⟨w1, ev⟩ : ∃ w1, w1 = cm.toNat * 0x800 + f.toNat * 0x400 + lm.toNat * 0x100 + c.toNat := ⟨_, rfl⟩
  have hv : w1 = ((((0 * 4 + cm.toNat) * 2 + f.toNat) * 4 + lm.toNat) * 2) * 128 + c.toNat := ev.trans (by clear ew ev; omega)
  have f0 : wordField w0 31 26 = 13 := by rw [hw]; exact (above 256 8 _ (b.toNat) 31 26 rfl b.isLt).trans ((above_zeros 2 1 _ 23 18 rfl).trans ((above 128 7 _ (a.toNat) 22 17 rfl a.isLt).trans ((above 128 7 _ (d.toNat) 15 10 rfl d.isLt).trans ((above_zeros 8 3 _ 8 3 rfl).trans (whole 64 (13) 5 rfl (by decide))))))
  have f1 : wordField w0 25 23 = 0 := by rw [hw]; exact (above 256 8 _ (b.toNat) 25 23 rfl b.isLt).trans ((above_zeros 2 1 _ 17 15 rfl).trans ((above 128 7 _ (a.toNat) 16 14 rfl a.isLt).trans ((above 128 7 _ (d.toNat) 9 7 rfl d.isLt).trans (lowest_zeros 8 _ 2 rfl))))
  have f2 : wordField w0 22 16 = d.toNat := by rw [hw]; exact (above 256 8 _ (b.toNat) 22 16 rfl b.isLt).trans ((above_zeros 2 1 _ 14 8 rfl).trans ((above 128 7 _ (a.toNat) 13 7 rfl a.isLt).trans (lowest 128 _ (d.toNat) 6 rfl d.isLt)))
  have f3 : wordField w0 15 9 = a.toNat := by rw [hw]; exact (above 256 8 _ (b.toNat) 15 9 rfl b.isLt).trans ((above_zeros 2 1 _ 7 1 rfl).trans (lowest 128 _ (a.toNat) 6 rfl a.isLt))
  have f4 : wordField w0 8 8 = 0 := by rw [hw]; exact (above 256 8 _ (b.toNat) 8 8 rfl b.isLt).trans (lowest_zeros 2 _ 0 rfl)
  have f5 : wordField w0 7 0 = b.toNat := by rw [hw]; exact lowest 256 _ (b.toNat) 7 rfl b.isLt
  have f6 : wordField w1 31 13 = 0 := by rw [hv]; exact (above 128 7 _ (c.toNat) 31 13 rfl c.isLt).trans ((above_zeros 2 1 _ 24 6 rfl).trans ((above 4 2 _ (lm.toNat) 23 5 rfl lm.isLt).trans ((above 2 1 _ (f.toNat) 21 3 rfl f.isLt).trans ((above 4 2 _ (cm.toNat) 20 2 rfl cm.isLt).trans (whole 524288 (0) 18 rfl (by decide))))))
  have f7 : wordField w1 12 11 = cm.toNat := by rw [hv]; exact (above 128 7 _ (c.toNat) 12 11 rfl c.isLt).trans ((above_zeros 2 1 _ 5 4 rfl).trans ((above 4 2 _ (lm.toNat) 4 3 rfl lm.isLt).trans ((above 2 1 _ (f.toNat) 2 1 rfl f.isLt).trans (lowest 4 _ (cm.toNat) 1 rfl cm.isLt))))
  have f8 : wordField w1 10 10 = f.toNat := by rw [hv]; exact (above 128 7 _ (c.toNat) 10 10 rfl c.isLt).trans ((above_zeros 2 1 _ 3 3 rfl).trans ((above 4 2 _ (lm.toNat) 2 2 rfl lm.isLt).trans (lowest 2 _ (f.toNat) 0 rfl f.isLt)))
  have f9 : wordField w1 9 8 = lm.toNat := by rw [hv]; exact (above 128 7 _ (c.toNat) 9 8 rfl c.isLt).trans ((above_zeros 2 1 _ 2 1 rfl).trans (lowest 4 _ (lm.toNat) 1 rfl lm.isLt))
  have f10 : wordField w1 7 7 = 0 := by rw [hv]; exact (above 128 7 _ (c.toNat) 7 7 rfl c.isLt).trans (lowest_zeros 2 _ 0 rfl)
  have f11 : wordField w1 6 0 = c.toNat := by rw [hv]; exact lowest 128 _ (c.toNat) 6 rfl c.isLt
  have he : encode (.texSample d a b cm f lm c) = [w0, w1] := by subst ew ev; exact rfl
  rw [he]
  refine (major0D f0).trans ?_
  show decodeMajor0D w0 w1 = _
  simp only [decodeMajor0D, f1, f2, f3, f4, f5, f6, f7, f8, f9, f10, f11, BitVec.ofNat_toNat, BitVec.setWidth_eq]
  exact decodedIf_good _ _ hwf

theorem texLoad (d : BitVec 7) (a : BitVec 7) (b : BitVec 8) (cm : BitVec 2) (f : BitVec 1) (lm : BitVec 2) (c : BitVec 7) : Statement (.texLoad d a b cm f lm c) := by
  intro hcode hwf x
  clear hcode
  have b0 := d.isLt
  have b1 := a.isLt
  have b2 := b.isLt
  have b3 := cm.isLt
  have b4 := f.isLt
  have b5 := lm.isLt
  have b6 := c.isLt
  obtain ⟨w0, ew⟩ : ∃ w0, w0 = 0x34800000 + d.toNat * 0x10000 + a.toNat * 0x200 + b.toNat := ⟨_, rfl⟩
  have hw : w0 = ((((13 * 8 + 1) * 128 + d.toNat) * 128 + a.toNat) * 2) * 256 + b.toNat := ew.trans (by clear ew; omega)
  obtain ⟨w1, ev⟩ : ∃ w1, w1 = cm.toNat * 0x800 + f.toNat * 0x400 + lm.toNat * 0x100 + c.toNat := ⟨_, rfl⟩
  have hv : w1 = ((((0 * 4 + cm.toNat) * 2 + f.toNat) * 4 + lm.toNat) * 2) * 128 + c.toNat := ev.trans (by clear ew ev; omega)
  have f0 : wordField w0 31 26 = 13 := by rw [hw]; exact (above 256 8 _ (b.toNat) 31 26 rfl b.isLt).trans ((above_zeros 2 1 _ 23 18 rfl).trans ((above 128 7 _ (a.toNat) 22 17 rfl a.isLt).trans ((above 128 7 _ (d.toNat) 15 10 rfl d.isLt).trans ((above 8 3 _ (1) 8 3 rfl (by decide)).trans (whole 64 (13) 5 rfl (by decide))))))
  have f1 : wordField w0 25 23 = 1 := by rw [hw]; exact (above 256 8 _ (b.toNat) 25 23 rfl b.isLt).trans ((above_zeros 2 1 _ 17 15 rfl).trans ((above 128 7 _ (a.toNat) 16 14 rfl a.isLt).trans ((above 128 7 _ (d.toNat) 9 7 rfl d.isLt).trans (lowest 8 _ (1) 2 rfl (by decide)))))
  have f2 : wordField w0 22 16 = d.toNat := by rw [hw]; exact (above 256 8 _ (b.toNat) 22 16 rfl b.isLt).trans ((above_zeros 2 1 _ 14 8 rfl).trans ((above 128 7 _ (a.toNat) 13 7 rfl a.isLt).trans (lowest 128 _ (d.toNat) 6 rfl d.isLt)))
  have f3 : wordField w0 15 9 = a.toNat := by rw [hw]; exact (above 256 8 _ (b.toNat) 15 9 rfl b.isLt).trans ((above_zeros 2 1 _ 7 1 rfl).trans (lowest 128 _ (a.toNat) 6 rfl a.isLt))
  have f4 : wordField w0 8 8 = 0 := by rw [hw]; exact (above 256 8 _ (b.toNat) 8 8 rfl b.isLt).trans (lowest_zeros 2 _ 0 rfl)
  have f5 : wordField w0 7 0 = b.toNat := by rw [hw]; exact lowest 256 _ (b.toNat) 7 rfl b.isLt
  have f6 : wordField w1 31 13 = 0 := by rw [hv]; exact (above 128 7 _ (c.toNat) 31 13 rfl c.isLt).trans ((above_zeros 2 1 _ 24 6 rfl).trans ((above 4 2 _ (lm.toNat) 23 5 rfl lm.isLt).trans ((above 2 1 _ (f.toNat) 21 3 rfl f.isLt).trans ((above 4 2 _ (cm.toNat) 20 2 rfl cm.isLt).trans (whole 524288 (0) 18 rfl (by decide))))))
  have f7 : wordField w1 12 11 = cm.toNat := by rw [hv]; exact (above 128 7 _ (c.toNat) 12 11 rfl c.isLt).trans ((above_zeros 2 1 _ 5 4 rfl).trans ((above 4 2 _ (lm.toNat) 4 3 rfl lm.isLt).trans ((above 2 1 _ (f.toNat) 2 1 rfl f.isLt).trans (lowest 4 _ (cm.toNat) 1 rfl cm.isLt))))
  have f8 : wordField w1 10 10 = f.toNat := by rw [hv]; exact (above 128 7 _ (c.toNat) 10 10 rfl c.isLt).trans ((above_zeros 2 1 _ 3 3 rfl).trans ((above 4 2 _ (lm.toNat) 2 2 rfl lm.isLt).trans (lowest 2 _ (f.toNat) 0 rfl f.isLt)))
  have f9 : wordField w1 9 8 = lm.toNat := by rw [hv]; exact (above 128 7 _ (c.toNat) 9 8 rfl c.isLt).trans ((above_zeros 2 1 _ 2 1 rfl).trans (lowest 4 _ (lm.toNat) 1 rfl lm.isLt))
  have f10 : wordField w1 7 7 = 0 := by rw [hv]; exact (above 128 7 _ (c.toNat) 7 7 rfl c.isLt).trans (lowest_zeros 2 _ 0 rfl)
  have f11 : wordField w1 6 0 = c.toNat := by rw [hv]; exact lowest 128 _ (c.toNat) 6 rfl c.isLt
  have he : encode (.texLoad d a b cm f lm c) = [w0, w1] := by subst ew ev; exact rfl
  rw [he]
  refine (major0D f0).trans ?_
  show decodeMajor0D w0 w1 = _
  simp only [decodeMajor0D, f1, f2, f3, f4, f5, f6, f7, f8, f9, f10, f11, BitVec.ofNat_toNat, BitVec.setWidth_eq]
  exact decodedIf_good _ _ hwf

theorem texGather4 (d : BitVec 7) (a : BitVec 7) (b : BitVec 8) (cm : BitVec 2) (f : BitVec 1) (lm : BitVec 2) (c : BitVec 7) : Statement (.texGather4 d a b cm f lm c) := by
  intro hcode hwf x
  clear hcode
  have b0 := d.isLt
  have b1 := a.isLt
  have b2 := b.isLt
  have b3 := cm.isLt
  have b4 := f.isLt
  have b5 := lm.isLt
  have b6 := c.isLt
  obtain ⟨w0, ew⟩ : ∃ w0, w0 = 0x35000000 + d.toNat * 0x10000 + a.toNat * 0x200 + b.toNat := ⟨_, rfl⟩
  have hw : w0 = ((((13 * 8 + 2) * 128 + d.toNat) * 128 + a.toNat) * 2) * 256 + b.toNat := ew.trans (by clear ew; omega)
  obtain ⟨w1, ev⟩ : ∃ w1, w1 = cm.toNat * 0x800 + f.toNat * 0x400 + lm.toNat * 0x100 + c.toNat := ⟨_, rfl⟩
  have hv : w1 = ((((0 * 4 + cm.toNat) * 2 + f.toNat) * 4 + lm.toNat) * 2) * 128 + c.toNat := ev.trans (by clear ew ev; omega)
  have f0 : wordField w0 31 26 = 13 := by rw [hw]; exact (above 256 8 _ (b.toNat) 31 26 rfl b.isLt).trans ((above_zeros 2 1 _ 23 18 rfl).trans ((above 128 7 _ (a.toNat) 22 17 rfl a.isLt).trans ((above 128 7 _ (d.toNat) 15 10 rfl d.isLt).trans ((above 8 3 _ (2) 8 3 rfl (by decide)).trans (whole 64 (13) 5 rfl (by decide))))))
  have f1 : wordField w0 25 23 = 2 := by rw [hw]; exact (above 256 8 _ (b.toNat) 25 23 rfl b.isLt).trans ((above_zeros 2 1 _ 17 15 rfl).trans ((above 128 7 _ (a.toNat) 16 14 rfl a.isLt).trans ((above 128 7 _ (d.toNat) 9 7 rfl d.isLt).trans (lowest 8 _ (2) 2 rfl (by decide)))))
  have f2 : wordField w0 22 16 = d.toNat := by rw [hw]; exact (above 256 8 _ (b.toNat) 22 16 rfl b.isLt).trans ((above_zeros 2 1 _ 14 8 rfl).trans ((above 128 7 _ (a.toNat) 13 7 rfl a.isLt).trans (lowest 128 _ (d.toNat) 6 rfl d.isLt)))
  have f3 : wordField w0 15 9 = a.toNat := by rw [hw]; exact (above 256 8 _ (b.toNat) 15 9 rfl b.isLt).trans ((above_zeros 2 1 _ 7 1 rfl).trans (lowest 128 _ (a.toNat) 6 rfl a.isLt))
  have f4 : wordField w0 8 8 = 0 := by rw [hw]; exact (above 256 8 _ (b.toNat) 8 8 rfl b.isLt).trans (lowest_zeros 2 _ 0 rfl)
  have f5 : wordField w0 7 0 = b.toNat := by rw [hw]; exact lowest 256 _ (b.toNat) 7 rfl b.isLt
  have f6 : wordField w1 31 13 = 0 := by rw [hv]; exact (above 128 7 _ (c.toNat) 31 13 rfl c.isLt).trans ((above_zeros 2 1 _ 24 6 rfl).trans ((above 4 2 _ (lm.toNat) 23 5 rfl lm.isLt).trans ((above 2 1 _ (f.toNat) 21 3 rfl f.isLt).trans ((above 4 2 _ (cm.toNat) 20 2 rfl cm.isLt).trans (whole 524288 (0) 18 rfl (by decide))))))
  have f7 : wordField w1 12 11 = cm.toNat := by rw [hv]; exact (above 128 7 _ (c.toNat) 12 11 rfl c.isLt).trans ((above_zeros 2 1 _ 5 4 rfl).trans ((above 4 2 _ (lm.toNat) 4 3 rfl lm.isLt).trans ((above 2 1 _ (f.toNat) 2 1 rfl f.isLt).trans (lowest 4 _ (cm.toNat) 1 rfl cm.isLt))))
  have f8 : wordField w1 10 10 = f.toNat := by rw [hv]; exact (above 128 7 _ (c.toNat) 10 10 rfl c.isLt).trans ((above_zeros 2 1 _ 3 3 rfl).trans ((above 4 2 _ (lm.toNat) 2 2 rfl lm.isLt).trans (lowest 2 _ (f.toNat) 0 rfl f.isLt)))
  have f9 : wordField w1 9 8 = lm.toNat := by rw [hv]; exact (above 128 7 _ (c.toNat) 9 8 rfl c.isLt).trans ((above_zeros 2 1 _ 2 1 rfl).trans (lowest 4 _ (lm.toNat) 1 rfl lm.isLt))
  have f10 : wordField w1 7 7 = 0 := by rw [hv]; exact (above 128 7 _ (c.toNat) 7 7 rfl c.isLt).trans (lowest_zeros 2 _ 0 rfl)
  have f11 : wordField w1 6 0 = c.toNat := by rw [hv]; exact lowest 128 _ (c.toNat) 6 rfl c.isLt
  have he : encode (.texGather4 d a b cm f lm c) = [w0, w1] := by subst ew ev; exact rfl
  rw [he]
  refine (major0D f0).trans ?_
  show decodeMajor0D w0 w1 = _
  simp only [decodeMajor0D, f1, f2, f3, f4, f5, f6, f7, f8, f9, f10, f11, BitVec.ofNat_toNat, BitVec.setWidth_eq]
  exact decodedIf_good _ _ hwf

theorem texLod (d : BitVec 7) (a : BitVec 7) (b : BitVec 8) (cm : BitVec 2) (f : BitVec 1) (lm : BitVec 2) (c : BitVec 7) : Statement (.texLod d a b cm f lm c) := by
  intro hcode hwf x
  clear hcode
  have b0 := d.isLt
  have b1 := a.isLt
  have b2 := b.isLt
  have b3 := cm.isLt
  have b4 := f.isLt
  have b5 := lm.isLt
  have b6 := c.isLt
  obtain ⟨w0, ew⟩ : ∃ w0, w0 = 0x35800000 + d.toNat * 0x10000 + a.toNat * 0x200 + b.toNat := ⟨_, rfl⟩
  have hw : w0 = ((((13 * 8 + 3) * 128 + d.toNat) * 128 + a.toNat) * 2) * 256 + b.toNat := ew.trans (by clear ew; omega)
  obtain ⟨w1, ev⟩ : ∃ w1, w1 = cm.toNat * 0x800 + f.toNat * 0x400 + lm.toNat * 0x100 + c.toNat := ⟨_, rfl⟩
  have hv : w1 = ((((0 * 4 + cm.toNat) * 2 + f.toNat) * 4 + lm.toNat) * 2) * 128 + c.toNat := ev.trans (by clear ew ev; omega)
  have f0 : wordField w0 31 26 = 13 := by rw [hw]; exact (above 256 8 _ (b.toNat) 31 26 rfl b.isLt).trans ((above_zeros 2 1 _ 23 18 rfl).trans ((above 128 7 _ (a.toNat) 22 17 rfl a.isLt).trans ((above 128 7 _ (d.toNat) 15 10 rfl d.isLt).trans ((above 8 3 _ (3) 8 3 rfl (by decide)).trans (whole 64 (13) 5 rfl (by decide))))))
  have f1 : wordField w0 25 23 = 3 := by rw [hw]; exact (above 256 8 _ (b.toNat) 25 23 rfl b.isLt).trans ((above_zeros 2 1 _ 17 15 rfl).trans ((above 128 7 _ (a.toNat) 16 14 rfl a.isLt).trans ((above 128 7 _ (d.toNat) 9 7 rfl d.isLt).trans (lowest 8 _ (3) 2 rfl (by decide)))))
  have f2 : wordField w0 22 16 = d.toNat := by rw [hw]; exact (above 256 8 _ (b.toNat) 22 16 rfl b.isLt).trans ((above_zeros 2 1 _ 14 8 rfl).trans ((above 128 7 _ (a.toNat) 13 7 rfl a.isLt).trans (lowest 128 _ (d.toNat) 6 rfl d.isLt)))
  have f3 : wordField w0 15 9 = a.toNat := by rw [hw]; exact (above 256 8 _ (b.toNat) 15 9 rfl b.isLt).trans ((above_zeros 2 1 _ 7 1 rfl).trans (lowest 128 _ (a.toNat) 6 rfl a.isLt))
  have f4 : wordField w0 8 8 = 0 := by rw [hw]; exact (above 256 8 _ (b.toNat) 8 8 rfl b.isLt).trans (lowest_zeros 2 _ 0 rfl)
  have f5 : wordField w0 7 0 = b.toNat := by rw [hw]; exact lowest 256 _ (b.toNat) 7 rfl b.isLt
  have f6 : wordField w1 31 13 = 0 := by rw [hv]; exact (above 128 7 _ (c.toNat) 31 13 rfl c.isLt).trans ((above_zeros 2 1 _ 24 6 rfl).trans ((above 4 2 _ (lm.toNat) 23 5 rfl lm.isLt).trans ((above 2 1 _ (f.toNat) 21 3 rfl f.isLt).trans ((above 4 2 _ (cm.toNat) 20 2 rfl cm.isLt).trans (whole 524288 (0) 18 rfl (by decide))))))
  have f7 : wordField w1 12 11 = cm.toNat := by rw [hv]; exact (above 128 7 _ (c.toNat) 12 11 rfl c.isLt).trans ((above_zeros 2 1 _ 5 4 rfl).trans ((above 4 2 _ (lm.toNat) 4 3 rfl lm.isLt).trans ((above 2 1 _ (f.toNat) 2 1 rfl f.isLt).trans (lowest 4 _ (cm.toNat) 1 rfl cm.isLt))))
  have f8 : wordField w1 10 10 = f.toNat := by rw [hv]; exact (above 128 7 _ (c.toNat) 10 10 rfl c.isLt).trans ((above_zeros 2 1 _ 3 3 rfl).trans ((above 4 2 _ (lm.toNat) 2 2 rfl lm.isLt).trans (lowest 2 _ (f.toNat) 0 rfl f.isLt)))
  have f9 : wordField w1 9 8 = lm.toNat := by rw [hv]; exact (above 128 7 _ (c.toNat) 9 8 rfl c.isLt).trans ((above_zeros 2 1 _ 2 1 rfl).trans (lowest 4 _ (lm.toNat) 1 rfl lm.isLt))
  have f10 : wordField w1 7 7 = 0 := by rw [hv]; exact (above 128 7 _ (c.toNat) 7 7 rfl c.isLt).trans (lowest_zeros 2 _ 0 rfl)
  have f11 : wordField w1 6 0 = c.toNat := by rw [hv]; exact lowest 128 _ (c.toNat) 6 rfl c.isLt
  have he : encode (.texLod d a b cm f lm c) = [w0, w1] := by subst ew ev; exact rfl
  rw [he]
  refine (major0D f0).trans ?_
  show decodeMajor0D w0 w1 = _
  simp only [decodeMajor0D, f1, f2, f3, f4, f5, f6, f7, f8, f9, f10, f11, BitVec.ofNat_toNat, BitVec.setWidth_eq]
  exact decodedIf_good _ _ hwf

theorem texSampleC (d : BitVec 7) (a : BitVec 7) (b : BitVec 8) (cm : BitVec 2) (f : BitVec 1) (lm : BitVec 2) (c : BitVec 7) : Statement (.texSampleC d a b cm f lm c) := by
  intro hcode hwf x
  clear hcode
  have b0 := d.isLt
  have b1 := a.isLt
  have b2 := b.isLt
  have b3 := cm.isLt
  have b4 := f.isLt
  have b5 := lm.isLt
  have b6 := c.isLt
  obtain ⟨w0, ew⟩ : ∃ w0, w0 = 0x36000000 + d.toNat * 0x10000 + a.toNat * 0x200 + b.toNat := ⟨_, rfl⟩
  have hw : w0 = ((((13 * 8 + 4) * 128 + d.toNat) * 128 + a.toNat) * 2) * 256 + b.toNat := ew.trans (by clear ew; omega)
  obtain ⟨w1, ev⟩ : ∃ w1, w1 = cm.toNat * 0x800 + f.toNat * 0x400 + lm.toNat * 0x100 + c.toNat := ⟨_, rfl⟩
  have hv : w1 = ((((0 * 4 + cm.toNat) * 2 + f.toNat) * 4 + lm.toNat) * 2) * 128 + c.toNat := ev.trans (by clear ew ev; omega)
  have f0 : wordField w0 31 26 = 13 := by rw [hw]; exact (above 256 8 _ (b.toNat) 31 26 rfl b.isLt).trans ((above_zeros 2 1 _ 23 18 rfl).trans ((above 128 7 _ (a.toNat) 22 17 rfl a.isLt).trans ((above 128 7 _ (d.toNat) 15 10 rfl d.isLt).trans ((above 8 3 _ (4) 8 3 rfl (by decide)).trans (whole 64 (13) 5 rfl (by decide))))))
  have f1 : wordField w0 25 23 = 4 := by rw [hw]; exact (above 256 8 _ (b.toNat) 25 23 rfl b.isLt).trans ((above_zeros 2 1 _ 17 15 rfl).trans ((above 128 7 _ (a.toNat) 16 14 rfl a.isLt).trans ((above 128 7 _ (d.toNat) 9 7 rfl d.isLt).trans (lowest 8 _ (4) 2 rfl (by decide)))))
  have f2 : wordField w0 22 16 = d.toNat := by rw [hw]; exact (above 256 8 _ (b.toNat) 22 16 rfl b.isLt).trans ((above_zeros 2 1 _ 14 8 rfl).trans ((above 128 7 _ (a.toNat) 13 7 rfl a.isLt).trans (lowest 128 _ (d.toNat) 6 rfl d.isLt)))
  have f3 : wordField w0 15 9 = a.toNat := by rw [hw]; exact (above 256 8 _ (b.toNat) 15 9 rfl b.isLt).trans ((above_zeros 2 1 _ 7 1 rfl).trans (lowest 128 _ (a.toNat) 6 rfl a.isLt))
  have f4 : wordField w0 8 8 = 0 := by rw [hw]; exact (above 256 8 _ (b.toNat) 8 8 rfl b.isLt).trans (lowest_zeros 2 _ 0 rfl)
  have f5 : wordField w0 7 0 = b.toNat := by rw [hw]; exact lowest 256 _ (b.toNat) 7 rfl b.isLt
  have f6 : wordField w1 31 13 = 0 := by rw [hv]; exact (above 128 7 _ (c.toNat) 31 13 rfl c.isLt).trans ((above_zeros 2 1 _ 24 6 rfl).trans ((above 4 2 _ (lm.toNat) 23 5 rfl lm.isLt).trans ((above 2 1 _ (f.toNat) 21 3 rfl f.isLt).trans ((above 4 2 _ (cm.toNat) 20 2 rfl cm.isLt).trans (whole 524288 (0) 18 rfl (by decide))))))
  have f7 : wordField w1 12 11 = cm.toNat := by rw [hv]; exact (above 128 7 _ (c.toNat) 12 11 rfl c.isLt).trans ((above_zeros 2 1 _ 5 4 rfl).trans ((above 4 2 _ (lm.toNat) 4 3 rfl lm.isLt).trans ((above 2 1 _ (f.toNat) 2 1 rfl f.isLt).trans (lowest 4 _ (cm.toNat) 1 rfl cm.isLt))))
  have f8 : wordField w1 10 10 = f.toNat := by rw [hv]; exact (above 128 7 _ (c.toNat) 10 10 rfl c.isLt).trans ((above_zeros 2 1 _ 3 3 rfl).trans ((above 4 2 _ (lm.toNat) 2 2 rfl lm.isLt).trans (lowest 2 _ (f.toNat) 0 rfl f.isLt)))
  have f9 : wordField w1 9 8 = lm.toNat := by rw [hv]; exact (above 128 7 _ (c.toNat) 9 8 rfl c.isLt).trans ((above_zeros 2 1 _ 2 1 rfl).trans (lowest 4 _ (lm.toNat) 1 rfl lm.isLt))
  have f10 : wordField w1 7 7 = 0 := by rw [hv]; exact (above 128 7 _ (c.toNat) 7 7 rfl c.isLt).trans (lowest_zeros 2 _ 0 rfl)
  have f11 : wordField w1 6 0 = c.toNat := by rw [hv]; exact lowest 128 _ (c.toNat) 6 rfl c.isLt
  have he : encode (.texSampleC d a b cm f lm c) = [w0, w1] := by subst ew ev; exact rfl
  rw [he]
  refine (major0D f0).trans ?_
  show decodeMajor0D w0 w1 = _
  simp only [decodeMajor0D, f1, f2, f3, f4, f5, f6, f7, f8, f9, f10, f11, BitVec.ofNat_toNat, BitVec.setWidth_eq]
  exact decodedIf_good _ _ hwf

theorem texLoadC (d : BitVec 7) (a : BitVec 7) (b : BitVec 8) (cm : BitVec 2) (f : BitVec 1) (lm : BitVec 2) (c : BitVec 7) : Statement (.texLoadC d a b cm f lm c) := by
  intro hcode hwf x
  clear hcode
  have b0 := d.isLt
  have b1 := a.isLt
  have b2 := b.isLt
  have b3 := cm.isLt
  have b4 := f.isLt
  have b5 := lm.isLt
  have b6 := c.isLt
  obtain ⟨w0, ew⟩ : ∃ w0, w0 = 0x36800000 + d.toNat * 0x10000 + a.toNat * 0x200 + b.toNat := ⟨_, rfl⟩
  have hw : w0 = ((((13 * 8 + 5) * 128 + d.toNat) * 128 + a.toNat) * 2) * 256 + b.toNat := ew.trans (by clear ew; omega)
  obtain ⟨w1, ev⟩ : ∃ w1, w1 = cm.toNat * 0x800 + f.toNat * 0x400 + lm.toNat * 0x100 + c.toNat := ⟨_, rfl⟩
  have hv : w1 = ((((0 * 4 + cm.toNat) * 2 + f.toNat) * 4 + lm.toNat) * 2) * 128 + c.toNat := ev.trans (by clear ew ev; omega)
  have f0 : wordField w0 31 26 = 13 := by rw [hw]; exact (above 256 8 _ (b.toNat) 31 26 rfl b.isLt).trans ((above_zeros 2 1 _ 23 18 rfl).trans ((above 128 7 _ (a.toNat) 22 17 rfl a.isLt).trans ((above 128 7 _ (d.toNat) 15 10 rfl d.isLt).trans ((above 8 3 _ (5) 8 3 rfl (by decide)).trans (whole 64 (13) 5 rfl (by decide))))))
  have f1 : wordField w0 25 23 = 5 := by rw [hw]; exact (above 256 8 _ (b.toNat) 25 23 rfl b.isLt).trans ((above_zeros 2 1 _ 17 15 rfl).trans ((above 128 7 _ (a.toNat) 16 14 rfl a.isLt).trans ((above 128 7 _ (d.toNat) 9 7 rfl d.isLt).trans (lowest 8 _ (5) 2 rfl (by decide)))))
  have f2 : wordField w0 22 16 = d.toNat := by rw [hw]; exact (above 256 8 _ (b.toNat) 22 16 rfl b.isLt).trans ((above_zeros 2 1 _ 14 8 rfl).trans ((above 128 7 _ (a.toNat) 13 7 rfl a.isLt).trans (lowest 128 _ (d.toNat) 6 rfl d.isLt)))
  have f3 : wordField w0 15 9 = a.toNat := by rw [hw]; exact (above 256 8 _ (b.toNat) 15 9 rfl b.isLt).trans ((above_zeros 2 1 _ 7 1 rfl).trans (lowest 128 _ (a.toNat) 6 rfl a.isLt))
  have f4 : wordField w0 8 8 = 0 := by rw [hw]; exact (above 256 8 _ (b.toNat) 8 8 rfl b.isLt).trans (lowest_zeros 2 _ 0 rfl)
  have f5 : wordField w0 7 0 = b.toNat := by rw [hw]; exact lowest 256 _ (b.toNat) 7 rfl b.isLt
  have f6 : wordField w1 31 13 = 0 := by rw [hv]; exact (above 128 7 _ (c.toNat) 31 13 rfl c.isLt).trans ((above_zeros 2 1 _ 24 6 rfl).trans ((above 4 2 _ (lm.toNat) 23 5 rfl lm.isLt).trans ((above 2 1 _ (f.toNat) 21 3 rfl f.isLt).trans ((above 4 2 _ (cm.toNat) 20 2 rfl cm.isLt).trans (whole 524288 (0) 18 rfl (by decide))))))
  have f7 : wordField w1 12 11 = cm.toNat := by rw [hv]; exact (above 128 7 _ (c.toNat) 12 11 rfl c.isLt).trans ((above_zeros 2 1 _ 5 4 rfl).trans ((above 4 2 _ (lm.toNat) 4 3 rfl lm.isLt).trans ((above 2 1 _ (f.toNat) 2 1 rfl f.isLt).trans (lowest 4 _ (cm.toNat) 1 rfl cm.isLt))))
  have f8 : wordField w1 10 10 = f.toNat := by rw [hv]; exact (above 128 7 _ (c.toNat) 10 10 rfl c.isLt).trans ((above_zeros 2 1 _ 3 3 rfl).trans ((above 4 2 _ (lm.toNat) 2 2 rfl lm.isLt).trans (lowest 2 _ (f.toNat) 0 rfl f.isLt)))
  have f9 : wordField w1 9 8 = lm.toNat := by rw [hv]; exact (above 128 7 _ (c.toNat) 9 8 rfl c.isLt).trans ((above_zeros 2 1 _ 2 1 rfl).trans (lowest 4 _ (lm.toNat) 1 rfl lm.isLt))
  have f10 : wordField w1 7 7 = 0 := by rw [hv]; exact (above 128 7 _ (c.toNat) 7 7 rfl c.isLt).trans (lowest_zeros 2 _ 0 rfl)
  have f11 : wordField w1 6 0 = c.toNat := by rw [hv]; exact lowest 128 _ (c.toNat) 6 rfl c.isLt
  have he : encode (.texLoadC d a b cm f lm c) = [w0, w1] := by subst ew ev; exact rfl
  rw [he]
  refine (major0D f0).trans ?_
  show decodeMajor0D w0 w1 = _
  simp only [decodeMajor0D, f1, f2, f3, f4, f5, f6, f7, f8, f9, f10, f11, BitVec.ofNat_toNat, BitVec.setWidth_eq]
  exact decodedIf_good _ _ hwf

theorem texGather4C (d : BitVec 7) (a : BitVec 7) (b : BitVec 8) (cm : BitVec 2) (f : BitVec 1) (lm : BitVec 2) (c : BitVec 7) : Statement (.texGather4C d a b cm f lm c) := by
  intro hcode hwf x
  clear hcode
  have b0 := d.isLt
  have b1 := a.isLt
  have b2 := b.isLt
  have b3 := cm.isLt
  have b4 := f.isLt
  have b5 := lm.isLt
  have b6 := c.isLt
  obtain ⟨w0, ew⟩ : ∃ w0, w0 = 0x37000000 + d.toNat * 0x10000 + a.toNat * 0x200 + b.toNat := ⟨_, rfl⟩
  have hw : w0 = ((((13 * 8 + 6) * 128 + d.toNat) * 128 + a.toNat) * 2) * 256 + b.toNat := ew.trans (by clear ew; omega)
  obtain ⟨w1, ev⟩ : ∃ w1, w1 = cm.toNat * 0x800 + f.toNat * 0x400 + lm.toNat * 0x100 + c.toNat := ⟨_, rfl⟩
  have hv : w1 = ((((0 * 4 + cm.toNat) * 2 + f.toNat) * 4 + lm.toNat) * 2) * 128 + c.toNat := ev.trans (by clear ew ev; omega)
  have f0 : wordField w0 31 26 = 13 := by rw [hw]; exact (above 256 8 _ (b.toNat) 31 26 rfl b.isLt).trans ((above_zeros 2 1 _ 23 18 rfl).trans ((above 128 7 _ (a.toNat) 22 17 rfl a.isLt).trans ((above 128 7 _ (d.toNat) 15 10 rfl d.isLt).trans ((above 8 3 _ (6) 8 3 rfl (by decide)).trans (whole 64 (13) 5 rfl (by decide))))))
  have f1 : wordField w0 25 23 = 6 := by rw [hw]; exact (above 256 8 _ (b.toNat) 25 23 rfl b.isLt).trans ((above_zeros 2 1 _ 17 15 rfl).trans ((above 128 7 _ (a.toNat) 16 14 rfl a.isLt).trans ((above 128 7 _ (d.toNat) 9 7 rfl d.isLt).trans (lowest 8 _ (6) 2 rfl (by decide)))))
  have f2 : wordField w0 22 16 = d.toNat := by rw [hw]; exact (above 256 8 _ (b.toNat) 22 16 rfl b.isLt).trans ((above_zeros 2 1 _ 14 8 rfl).trans ((above 128 7 _ (a.toNat) 13 7 rfl a.isLt).trans (lowest 128 _ (d.toNat) 6 rfl d.isLt)))
  have f3 : wordField w0 15 9 = a.toNat := by rw [hw]; exact (above 256 8 _ (b.toNat) 15 9 rfl b.isLt).trans ((above_zeros 2 1 _ 7 1 rfl).trans (lowest 128 _ (a.toNat) 6 rfl a.isLt))
  have f4 : wordField w0 8 8 = 0 := by rw [hw]; exact (above 256 8 _ (b.toNat) 8 8 rfl b.isLt).trans (lowest_zeros 2 _ 0 rfl)
  have f5 : wordField w0 7 0 = b.toNat := by rw [hw]; exact lowest 256 _ (b.toNat) 7 rfl b.isLt
  have f6 : wordField w1 31 13 = 0 := by rw [hv]; exact (above 128 7 _ (c.toNat) 31 13 rfl c.isLt).trans ((above_zeros 2 1 _ 24 6 rfl).trans ((above 4 2 _ (lm.toNat) 23 5 rfl lm.isLt).trans ((above 2 1 _ (f.toNat) 21 3 rfl f.isLt).trans ((above 4 2 _ (cm.toNat) 20 2 rfl cm.isLt).trans (whole 524288 (0) 18 rfl (by decide))))))
  have f7 : wordField w1 12 11 = cm.toNat := by rw [hv]; exact (above 128 7 _ (c.toNat) 12 11 rfl c.isLt).trans ((above_zeros 2 1 _ 5 4 rfl).trans ((above 4 2 _ (lm.toNat) 4 3 rfl lm.isLt).trans ((above 2 1 _ (f.toNat) 2 1 rfl f.isLt).trans (lowest 4 _ (cm.toNat) 1 rfl cm.isLt))))
  have f8 : wordField w1 10 10 = f.toNat := by rw [hv]; exact (above 128 7 _ (c.toNat) 10 10 rfl c.isLt).trans ((above_zeros 2 1 _ 3 3 rfl).trans ((above 4 2 _ (lm.toNat) 2 2 rfl lm.isLt).trans (lowest 2 _ (f.toNat) 0 rfl f.isLt)))
  have f9 : wordField w1 9 8 = lm.toNat := by rw [hv]; exact (above 128 7 _ (c.toNat) 9 8 rfl c.isLt).trans ((above_zeros 2 1 _ 2 1 rfl).trans (lowest 4 _ (lm.toNat) 1 rfl lm.isLt))
  have f10 : wordField w1 7 7 = 0 := by rw [hv]; exact (above 128 7 _ (c.toNat) 7 7 rfl c.isLt).trans (lowest_zeros 2 _ 0 rfl)
  have f11 : wordField w1 6 0 = c.toNat := by rw [hv]; exact lowest 128 _ (c.toNat) 6 rfl c.isLt
  have he : encode (.texGather4C d a b cm f lm c) = [w0, w1] := by subst ew ev; exact rfl
  rw [he]
  refine (major0D f0).trans ?_
  show decodeMajor0D w0 w1 = _
  simp only [decodeMajor0D, f1, f2, f3, f4, f5, f6, f7, f8, f9, f10, f11, BitVec.ofNat_toNat, BitVec.setWidth_eq]
  exact decodedIf_good _ _ hwf

theorem texLodC (d : BitVec 7) (a : BitVec 7) (b : BitVec 8) (cm : BitVec 2) (f : BitVec 1) (lm : BitVec 2) (c : BitVec 7) : Statement (.texLodC d a b cm f lm c) := by
  intro hcode hwf x
  clear hcode
  have b0 := d.isLt
  have b1 := a.isLt
  have b2 := b.isLt
  have b3 := cm.isLt
  have b4 := f.isLt
  have b5 := lm.isLt
  have b6 := c.isLt
  obtain ⟨w0, ew⟩ : ∃ w0, w0 = 0x37800000 + d.toNat * 0x10000 + a.toNat * 0x200 + b.toNat := ⟨_, rfl⟩
  have hw : w0 = ((((13 * 8 + 7) * 128 + d.toNat) * 128 + a.toNat) * 2) * 256 + b.toNat := ew.trans (by clear ew; omega)
  obtain ⟨w1, ev⟩ : ∃ w1, w1 = cm.toNat * 0x800 + f.toNat * 0x400 + lm.toNat * 0x100 + c.toNat := ⟨_, rfl⟩
  have hv : w1 = ((((0 * 4 + cm.toNat) * 2 + f.toNat) * 4 + lm.toNat) * 2) * 128 + c.toNat := ev.trans (by clear ew ev; omega)
  have f0 : wordField w0 31 26 = 13 := by rw [hw]; exact (above 256 8 _ (b.toNat) 31 26 rfl b.isLt).trans ((above_zeros 2 1 _ 23 18 rfl).trans ((above 128 7 _ (a.toNat) 22 17 rfl a.isLt).trans ((above 128 7 _ (d.toNat) 15 10 rfl d.isLt).trans ((above 8 3 _ (7) 8 3 rfl (by decide)).trans (whole 64 (13) 5 rfl (by decide))))))
  have f1 : wordField w0 25 23 = 7 := by rw [hw]; exact (above 256 8 _ (b.toNat) 25 23 rfl b.isLt).trans ((above_zeros 2 1 _ 17 15 rfl).trans ((above 128 7 _ (a.toNat) 16 14 rfl a.isLt).trans ((above 128 7 _ (d.toNat) 9 7 rfl d.isLt).trans (lowest 8 _ (7) 2 rfl (by decide)))))
  have f2 : wordField w0 22 16 = d.toNat := by rw [hw]; exact (above 256 8 _ (b.toNat) 22 16 rfl b.isLt).trans ((above_zeros 2 1 _ 14 8 rfl).trans ((above 128 7 _ (a.toNat) 13 7 rfl a.isLt).trans (lowest 128 _ (d.toNat) 6 rfl d.isLt)))
  have f3 : wordField w0 15 9 = a.toNat := by rw [hw]; exact (above 256 8 _ (b.toNat) 15 9 rfl b.isLt).trans ((above_zeros 2 1 _ 7 1 rfl).trans (lowest 128 _ (a.toNat) 6 rfl a.isLt))
  have f4 : wordField w0 8 8 = 0 := by rw [hw]; exact (above 256 8 _ (b.toNat) 8 8 rfl b.isLt).trans (lowest_zeros 2 _ 0 rfl)
  have f5 : wordField w0 7 0 = b.toNat := by rw [hw]; exact lowest 256 _ (b.toNat) 7 rfl b.isLt
  have f6 : wordField w1 31 13 = 0 := by rw [hv]; exact (above 128 7 _ (c.toNat) 31 13 rfl c.isLt).trans ((above_zeros 2 1 _ 24 6 rfl).trans ((above 4 2 _ (lm.toNat) 23 5 rfl lm.isLt).trans ((above 2 1 _ (f.toNat) 21 3 rfl f.isLt).trans ((above 4 2 _ (cm.toNat) 20 2 rfl cm.isLt).trans (whole 524288 (0) 18 rfl (by decide))))))
  have f7 : wordField w1 12 11 = cm.toNat := by rw [hv]; exact (above 128 7 _ (c.toNat) 12 11 rfl c.isLt).trans ((above_zeros 2 1 _ 5 4 rfl).trans ((above 4 2 _ (lm.toNat) 4 3 rfl lm.isLt).trans ((above 2 1 _ (f.toNat) 2 1 rfl f.isLt).trans (lowest 4 _ (cm.toNat) 1 rfl cm.isLt))))
  have f8 : wordField w1 10 10 = f.toNat := by rw [hv]; exact (above 128 7 _ (c.toNat) 10 10 rfl c.isLt).trans ((above_zeros 2 1 _ 3 3 rfl).trans ((above 4 2 _ (lm.toNat) 2 2 rfl lm.isLt).trans (lowest 2 _ (f.toNat) 0 rfl f.isLt)))
  have f9 : wordField w1 9 8 = lm.toNat := by rw [hv]; exact (above 128 7 _ (c.toNat) 9 8 rfl c.isLt).trans ((above_zeros 2 1 _ 2 1 rfl).trans (lowest 4 _ (lm.toNat) 1 rfl lm.isLt))
  have f10 : wordField w1 7 7 = 0 := by rw [hv]; exact (above 128 7 _ (c.toNat) 7 7 rfl c.isLt).trans (lowest_zeros 2 _ 0 rfl)
  have f11 : wordField w1 6 0 = c.toNat := by rw [hv]; exact lowest 128 _ (c.toNat) 6 rfl c.isLt
  have he : encode (.texLodC d a b cm f lm c) = [w0, w1] := by subst ew ev; exact rfl
  rw [he]
  refine (major0D f0).trans ?_
  show decodeMajor0D w0 w1 = _
  simp only [decodeMajor0D, f1, f2, f3, f4, f5, f6, f7, f8, f9, f10, f11, BitVec.ofNat_toNat, BitVec.setWidth_eq]
  exact decodedIf_good _ _ hwf

theorem trace (d : BitVec 7) (a : BitVec 7) (b : BitVec 8) (tf : BitVec 1) (any : BitVec 1) : Statement (.trace d a b tf any) := by
  intro hcode hwf x
  clear hcode
  have b0 := d.isLt
  have b1 := a.isLt
  have b2 := b.isLt
  have b3 := tf.isLt
  have b4 := any.isLt
  obtain ⟨w0, ew⟩ : ∃ w0, w0 = 0x38000000 + d.toNat * 0x10000 + a.toNat * 0x200 + b.toNat := ⟨_, rfl⟩
  have hw : w0 = ((((14 * 8) * 128 + d.toNat) * 128 + a.toNat) * 2) * 256 + b.toNat := ew.trans (by clear ew; omega)
  obtain ⟨w1, ev⟩ : ∃ w1, w1 = tf.toNat * 0x200 + any.toNat * 0x100 := ⟨_, rfl⟩
  have hv : w1 = ((0 * 2 + tf.toNat) * 2 + any.toNat) * 256 := ev.trans (by clear ew ev; omega)
  have f0 : wordField w0 31 26 = 14 := by rw [hw]; exact (above 256 8 _ (b.toNat) 31 26 rfl b.isLt).trans ((above_zeros 2 1 _ 23 18 rfl).trans ((above 128 7 _ (a.toNat) 22 17 rfl a.isLt).trans ((above 128 7 _ (d.toNat) 15 10 rfl d.isLt).trans ((above_zeros 8 3 _ 8 3 rfl).trans (whole 64 (14) 5 rfl (by decide))))))
  have f1 : wordField w0 25 23 = 0 := by rw [hw]; exact (above 256 8 _ (b.toNat) 25 23 rfl b.isLt).trans ((above_zeros 2 1 _ 17 15 rfl).trans ((above 128 7 _ (a.toNat) 16 14 rfl a.isLt).trans ((above 128 7 _ (d.toNat) 9 7 rfl d.isLt).trans (lowest_zeros 8 _ 2 rfl))))
  have f2 : wordField w0 22 16 = d.toNat := by rw [hw]; exact (above 256 8 _ (b.toNat) 22 16 rfl b.isLt).trans ((above_zeros 2 1 _ 14 8 rfl).trans ((above 128 7 _ (a.toNat) 13 7 rfl a.isLt).trans (lowest 128 _ (d.toNat) 6 rfl d.isLt)))
  have f3 : wordField w0 15 9 = a.toNat := by rw [hw]; exact (above 256 8 _ (b.toNat) 15 9 rfl b.isLt).trans ((above_zeros 2 1 _ 7 1 rfl).trans (lowest 128 _ (a.toNat) 6 rfl a.isLt))
  have f4 : wordField w0 8 8 = 0 := by rw [hw]; exact (above 256 8 _ (b.toNat) 8 8 rfl b.isLt).trans (lowest_zeros 2 _ 0 rfl)
  have f5 : wordField w0 7 0 = b.toNat := by rw [hw]; exact lowest 256 _ (b.toNat) 7 rfl b.isLt
  have f6 : wordField w1 31 10 = 0 := by rw [hv]; exact (above_zeros 256 8 _ 31 10 rfl).trans ((above 2 1 _ (any.toNat) 23 2 rfl any.isLt).trans ((above 2 1 _ (tf.toNat) 22 1 rfl tf.isLt).trans (whole 4194304 (0) 21 rfl (by decide))))
  have f7 : wordField w1 9 9 = tf.toNat := by rw [hv]; exact (above_zeros 256 8 _ 9 9 rfl).trans ((above 2 1 _ (any.toNat) 1 1 rfl any.isLt).trans (lowest 2 _ (tf.toNat) 0 rfl tf.isLt))
  have f8 : wordField w1 8 8 = any.toNat := by rw [hv]; exact (above_zeros 256 8 _ 8 8 rfl).trans (lowest 2 _ (any.toNat) 0 rfl any.isLt)
  have f9 : wordField w1 7 0 = 0 := by rw [hv]; exact lowest_zeros 256 _ 7 rfl
  have he : encode (.trace d a b tf any) = [w0, w1] := by subst ew ev; exact rfl
  rw [he]
  refine (major0E f0).trans ?_
  show decodeMajor0E w0 w1 = _
  simp only [decodeMajor0E, f1, f2, f3, f4, f5, f6, f7, f8, f9, BitVec.ofNat_toNat, BitVec.setWidth_eq]
  exact decodedIf_good _ _ hwf

theorem traceC (d : BitVec 7) (a : BitVec 7) (b : BitVec 8) (tf : BitVec 1) (any : BitVec 1) : Statement (.traceC d a b tf any) := by
  intro hcode hwf x
  clear hcode
  have b0 := d.isLt
  have b1 := a.isLt
  have b2 := b.isLt
  have b3 := tf.isLt
  have b4 := any.isLt
  obtain ⟨w0, ew⟩ : ∃ w0, w0 = 0x38800000 + d.toNat * 0x10000 + a.toNat * 0x200 + b.toNat := ⟨_, rfl⟩
  have hw : w0 = ((((14 * 8 + 1) * 128 + d.toNat) * 128 + a.toNat) * 2) * 256 + b.toNat := ew.trans (by clear ew; omega)
  obtain ⟨w1, ev⟩ : ∃ w1, w1 = tf.toNat * 0x200 + any.toNat * 0x100 := ⟨_, rfl⟩
  have hv : w1 = ((0 * 2 + tf.toNat) * 2 + any.toNat) * 256 := ev.trans (by clear ew ev; omega)
  have f0 : wordField w0 31 26 = 14 := by rw [hw]; exact (above 256 8 _ (b.toNat) 31 26 rfl b.isLt).trans ((above_zeros 2 1 _ 23 18 rfl).trans ((above 128 7 _ (a.toNat) 22 17 rfl a.isLt).trans ((above 128 7 _ (d.toNat) 15 10 rfl d.isLt).trans ((above 8 3 _ (1) 8 3 rfl (by decide)).trans (whole 64 (14) 5 rfl (by decide))))))
  have f1 : wordField w0 25 23 = 1 := by rw [hw]; exact (above 256 8 _ (b.toNat) 25 23 rfl b.isLt).trans ((above_zeros 2 1 _ 17 15 rfl).trans ((above 128 7 _ (a.toNat) 16 14 rfl a.isLt).trans ((above 128 7 _ (d.toNat) 9 7 rfl d.isLt).trans (lowest 8 _ (1) 2 rfl (by decide)))))
  have f2 : wordField w0 22 16 = d.toNat := by rw [hw]; exact (above 256 8 _ (b.toNat) 22 16 rfl b.isLt).trans ((above_zeros 2 1 _ 14 8 rfl).trans ((above 128 7 _ (a.toNat) 13 7 rfl a.isLt).trans (lowest 128 _ (d.toNat) 6 rfl d.isLt)))
  have f3 : wordField w0 15 9 = a.toNat := by rw [hw]; exact (above 256 8 _ (b.toNat) 15 9 rfl b.isLt).trans ((above_zeros 2 1 _ 7 1 rfl).trans (lowest 128 _ (a.toNat) 6 rfl a.isLt))
  have f4 : wordField w0 8 8 = 0 := by rw [hw]; exact (above 256 8 _ (b.toNat) 8 8 rfl b.isLt).trans (lowest_zeros 2 _ 0 rfl)
  have f5 : wordField w0 7 0 = b.toNat := by rw [hw]; exact lowest 256 _ (b.toNat) 7 rfl b.isLt
  have f6 : wordField w1 31 10 = 0 := by rw [hv]; exact (above_zeros 256 8 _ 31 10 rfl).trans ((above 2 1 _ (any.toNat) 23 2 rfl any.isLt).trans ((above 2 1 _ (tf.toNat) 22 1 rfl tf.isLt).trans (whole 4194304 (0) 21 rfl (by decide))))
  have f7 : wordField w1 9 9 = tf.toNat := by rw [hv]; exact (above_zeros 256 8 _ 9 9 rfl).trans ((above 2 1 _ (any.toNat) 1 1 rfl any.isLt).trans (lowest 2 _ (tf.toNat) 0 rfl tf.isLt))
  have f8 : wordField w1 8 8 = any.toNat := by rw [hv]; exact (above_zeros 256 8 _ 8 8 rfl).trans (lowest 2 _ (any.toNat) 0 rfl any.isLt)
  have f9 : wordField w1 7 0 = 0 := by rw [hv]; exact lowest_zeros 256 _ 7 rfl
  have he : encode (.traceC d a b tf any) = [w0, w1] := by subst ew ev; exact rfl
  rw [he]
  refine (major0E f0).trans ?_
  show decodeMajor0E w0 w1 = _
  simp only [decodeMajor0E, f1, f2, f3, f4, f5, f6, f7, f8, f9, BitVec.ofNat_toNat, BitVec.setWidth_eq]
  exact decodedIf_good _ _ hwf

theorem hitReport (d : BitVec 7) (a : BitVec 7) : Statement (.hitReport d a) := by
  intro hcode hwf x
  clear hcode
  have b0 := d.isLt
  have b1 := a.isLt
  obtain ⟨w0, ew⟩ : ∃ w0, w0 = 0x39000000 + d.toNat * 0x10000 + a.toNat * 0x200 := ⟨_, rfl⟩
  have hw : w0 = (((14 * 8 + 2) * 128 + d.toNat) * 128 + a.toNat) * 512 := ew.trans (by clear ew; omega)
  have f0 : wordField w0 31 26 = 14 := by rw [hw]; exact (above_zeros 512 9 _ 31 26 rfl).trans ((above 128 7 _ (a.toNat) 22 17 rfl a.isLt).trans ((above 128 7 _ (d.toNat) 15 10 rfl d.isLt).trans ((above 8 3 _ (2) 8 3 rfl (by decide)).trans (whole 64 (14) 5 rfl (by decide)))))
  have f1 : wordField w0 25 23 = 2 := by rw [hw]; exact (above_zeros 512 9 _ 25 23 rfl).trans ((above 128 7 _ (a.toNat) 16 14 rfl a.isLt).trans ((above 128 7 _ (d.toNat) 9 7 rfl d.isLt).trans (lowest 8 _ (2) 2 rfl (by decide))))
  have f2 : wordField w0 22 16 = d.toNat := by rw [hw]; exact (above_zeros 512 9 _ 22 16 rfl).trans ((above 128 7 _ (a.toNat) 13 7 rfl a.isLt).trans (lowest 128 _ (d.toNat) 6 rfl d.isLt))
  have f3 : wordField w0 15 9 = a.toNat := by rw [hw]; exact (above_zeros 512 9 _ 15 9 rfl).trans (lowest 128 _ (a.toNat) 6 rfl a.isLt)
  have f4 : wordField w0 8 0 = 0 := by rw [hw]; exact lowest_zeros 512 _ 8 rfl
  have he : encode (.hitReport d a) = [w0] := by subst ew; exact rfl
  rw [he]
  refine (major0E f0).trans ?_
  show decodeMajor0E w0 x = _
  simp only [decodeMajor0E, f1, f2, f3, f4, BitVec.ofNat_toNat, BitVec.setWidth_eq]
  exact decodedIf_good _ _ hwf

theorem hitAccept (d : BitVec 7) : Statement (.hitAccept d) := by
  intro hcode hwf x
  clear hcode
  have b0 := d.isLt
  obtain ⟨w0, ew⟩ : ∃ w0, w0 = 0x39800000 + d.toNat * 0x10000 := ⟨_, rfl⟩
  have hw : w0 = ((14 * 8 + 3) * 128 + d.toNat) * 65536 := ew.trans (by clear ew; omega)
  have f0 : wordField w0 31 26 = 14 := by rw [hw]; exact (above_zeros 65536 16 _ 31 26 rfl).trans ((above 128 7 _ (d.toNat) 15 10 rfl d.isLt).trans ((above 8 3 _ (3) 8 3 rfl (by decide)).trans (whole 64 (14) 5 rfl (by decide))))
  have f1 : wordField w0 25 23 = 3 := by rw [hw]; exact (above_zeros 65536 16 _ 25 23 rfl).trans ((above 128 7 _ (d.toNat) 9 7 rfl d.isLt).trans (lowest 8 _ (3) 2 rfl (by decide)))
  have f2 : wordField w0 22 16 = d.toNat := by rw [hw]; exact (above_zeros 65536 16 _ 22 16 rfl).trans (lowest 128 _ (d.toNat) 6 rfl d.isLt)
  have f3 : wordField w0 15 0 = 0 := by rw [hw]; exact lowest_zeros 65536 _ 15 rfl
  have he : encode (.hitAccept d) = [w0] := by subst ew; exact rfl
  rw [he]
  refine (major0E f0).trans ?_
  show decodeMajor0E w0 x = _
  simp only [decodeMajor0E, f1, f2, f3, BitVec.ofNat_toNat, BitVec.setWidth_eq]
  exact decodedIf_good _ _ hwf

theorem hitIgnore (d : BitVec 7) : Statement (.hitIgnore d) := by
  intro hcode hwf x
  clear hcode
  have b0 := d.isLt
  obtain ⟨w0, ew⟩ : ∃ w0, w0 = 0x3A000000 + d.toNat * 0x10000 := ⟨_, rfl⟩
  have hw : w0 = ((14 * 8 + 4) * 128 + d.toNat) * 65536 := ew.trans (by clear ew; omega)
  have f0 : wordField w0 31 26 = 14 := by rw [hw]; exact (above_zeros 65536 16 _ 31 26 rfl).trans ((above 128 7 _ (d.toNat) 15 10 rfl d.isLt).trans ((above 8 3 _ (4) 8 3 rfl (by decide)).trans (whole 64 (14) 5 rfl (by decide))))
  have f1 : wordField w0 25 23 = 4 := by rw [hw]; exact (above_zeros 65536 16 _ 25 23 rfl).trans ((above 128 7 _ (d.toNat) 9 7 rfl d.isLt).trans (lowest 8 _ (4) 2 rfl (by decide)))
  have f2 : wordField w0 22 16 = d.toNat := by rw [hw]; exact (above_zeros 65536 16 _ 22 16 rfl).trans (lowest 128 _ (d.toNat) 6 rfl d.isLt)
  have f3 : wordField w0 15 0 = 0 := by rw [hw]; exact lowest_zeros 65536 _ 15 rfl
  have he : encode (.hitIgnore d) = [w0] := by subst ew; exact rfl
  rw [he]
  refine (major0E f0).trans ?_
  show decodeMajor0E w0 x = _
  simp only [decodeMajor0E, f1, f2, f3, BitVec.ofNat_toNat, BitVec.setWidth_eq]
  exact decodedIf_good _ _ hwf

theorem contKey (a : BitVec 7) : Statement (.contKey a) := by
  intro hcode hwf x
  clear hcode
  have b0 := a.isLt
  obtain ⟨w0, ew⟩ : ∃ w0, w0 = 0x3C000000 + a.toNat * 0x80 := ⟨_, rfl⟩
  have hw : w0 = (((15 * 32) * 128) * 128 + a.toNat) * 128 := ew.trans (by clear ew; omega)
  have f0 : wordField w0 31 26 = 15 := by rw [hw]; exact (above_zeros 128 7 _ 31 26 rfl).trans ((above 128 7 _ (a.toNat) 24 19 rfl a.isLt).trans ((above_zeros 128 7 _ 17 12 rfl).trans ((above_zeros 32 5 _ 10 5 rfl).trans (whole 64 (15) 5 rfl (by decide)))))
  have f1 : wordField w0 25 21 = 0 := by rw [hw]; exact (above_zeros 128 7 _ 25 21 rfl).trans ((above 128 7 _ (a.toNat) 18 14 rfl a.isLt).trans ((above_zeros 128 7 _ 11 7 rfl).trans (lowest_zeros 32 _ 4 rfl)))
  have f2 : wordField w0 20 14 = 0 := by rw [hw]; exact (above_zeros 128 7 _ 20 14 rfl).trans ((above 128 7 _ (a.toNat) 13 7 rfl a.isLt).trans (lowest_zeros 128 _ 6 rfl))
  have f3 : wordField w0 13 7 = a.toNat := by rw [hw]; exact (above_zeros 128 7 _ 13 7 rfl).trans (lowest 128 _ (a.toNat) 6 rfl a.isLt)
  have f4 : wordField w0 6 0 = 0 := by rw [hw]; exact lowest_zeros 128 _ 6 rfl
  have he : encode (.contKey a) = [w0] := by subst ew; exact rfl
  rw [he]
  refine (major0F f0).trans ?_
  show decodeMajor0F w0 x = _
  simp only [decodeMajor0F, f1, f2, f3, f4, BitVec.ofNat_toNat, BitVec.setWidth_eq]
  exact decodedIf_good _ _ hwf

theorem repack (s : BitVec 7) : Statement (.repack s) := by
  intro hcode hwf x
  clear hcode
  have b0 := s.isLt
  obtain ⟨w0, ew⟩ : ∃ w0, w0 = 0x3C200000 + s.toNat := ⟨_, rfl⟩
  have hw : w0 = ((15 * 32 + 1) * 16384) * 128 + s.toNat := ew.trans (by clear ew; omega)
  have f0 : wordField w0 31 26 = 15 := by rw [hw]; exact (above 128 7 _ (s.toNat) 31 26 rfl s.isLt).trans ((above_zeros 16384 14 _ 24 19 rfl).trans ((above 32 5 _ (1) 10 5 rfl (by decide)).trans (whole 64 (15) 5 rfl (by decide))))
  have f1 : wordField w0 25 21 = 1 := by rw [hw]; exact (above 128 7 _ (s.toNat) 25 21 rfl s.isLt).trans ((above_zeros 16384 14 _ 18 14 rfl).trans (lowest 32 _ (1) 4 rfl (by decide)))
  have f2 : wordField w0 20 7 = 0 := by rw [hw]; exact (above 128 7 _ (s.toNat) 20 7 rfl s.isLt).trans (lowest_zeros 16384 _ 13 rfl)
  have f3 : wordField w0 6 0 = s.toNat := by rw [hw]; exact lowest 128 _ (s.toNat) 6 rfl s.isLt
  have he : encode (.repack s) = [w0] := by subst ew; exact rfl
  rw [he]
  refine (major0F f0).trans ?_
  show decodeMajor0F w0 x = _
  simp only [decodeMajor0F, f1, f2, f3, BitVec.ofNat_toNat, BitVec.setWidth_eq]
  exact decodedIf_good _ _ hwf

theorem iadd (d : BitVec 7) (a : BitVec 7) (b : BitVec 7) (lit : BitVec 32) : Statement (.iadd d a b lit) := by
  intro hcode hwf x
  clear hcode
  have hl : litOk [a, b] lit = true := by
    simp only [Instr.wellFormed, Bool.and_eq_true] at hwf
    exact hwf
  have b0 := d.isLt
  have b1 := a.isLt
  have b2 := b.isLt
  obtain ⟨w0, ew⟩ : ∃ w0, w0 = 0x40000000 + d.toNat * 0x4000 + a.toNat * 0x80 + b.toNat := ⟨_, rfl⟩
  have hw : w0 = (((16 * 32) * 128 + d.toNat) * 128 + a.toNat) * 128 + b.toNat := ew.trans (by clear ew; omega)
  have f0 : wordField w0 31 26 = 16 := by rw [hw]; exact (above 128 7 _ (b.toNat) 31 26 rfl b.isLt).trans ((above 128 7 _ (a.toNat) 24 19 rfl a.isLt).trans ((above 128 7 _ (d.toNat) 17 12 rfl d.isLt).trans ((above_zeros 32 5 _ 10 5 rfl).trans (whole 64 (16) 5 rfl (by decide)))))
  have f1 : wordField w0 25 21 = 0 := by rw [hw]; exact (above 128 7 _ (b.toNat) 25 21 rfl b.isLt).trans ((above 128 7 _ (a.toNat) 18 14 rfl a.isLt).trans ((above 128 7 _ (d.toNat) 11 7 rfl d.isLt).trans (lowest_zeros 32 _ 4 rfl)))
  have f2 : wordField w0 20 14 = d.toNat := by rw [hw]; exact (above 128 7 _ (b.toNat) 20 14 rfl b.isLt).trans ((above 128 7 _ (a.toNat) 13 7 rfl a.isLt).trans (lowest 128 _ (d.toNat) 6 rfl d.isLt))
  have f3 : wordField w0 13 7 = a.toNat := by rw [hw]; exact (above 128 7 _ (b.toNat) 13 7 rfl b.isLt).trans (lowest 128 _ (a.toNat) 6 rfl a.isLt)
  have f4 : wordField w0 6 0 = b.toNat := by rw [hw]; exact lowest 128 _ (b.toNat) 6 rfl b.isLt
  rw [show encode (.iadd d a b lit) = withLit w0 [a, b] lit from ew ▸ rfl, withLit_first]
  rw [major10 f0]
  simp only [decodeMajor10, f1, f2, f3, f4, BitVec.ofNat_toNat, BitVec.setWidth_eq]
  rw [show [a.toNat, b.toNat] = [a, b].map BitVec.toNat from rfl, litWord_withLit _ _ _ _ hl, litWords_withLit w0 _ lit]
  exact decodedIf_good _ _ hwf

theorem iaddSat (d : BitVec 7) (a : BitVec 7) (b : BitVec 7) (lit : BitVec 32) : Statement (.iaddSat d a b lit) := by
  intro hcode hwf x
  clear hcode
  have hl : litOk [a, b] lit = true := by
    simp only [Instr.wellFormed, Bool.and_eq_true] at hwf
    exact hwf
  have b0 := d.isLt
  have b1 := a.isLt
  have b2 := b.isLt
  obtain ⟨w0, ew⟩ : ∃ w0, w0 = 0x40200000 + d.toNat * 0x4000 + a.toNat * 0x80 + b.toNat := ⟨_, rfl⟩
  have hw : w0 = (((16 * 32 + 1) * 128 + d.toNat) * 128 + a.toNat) * 128 + b.toNat := ew.trans (by clear ew; omega)
  have f0 : wordField w0 31 26 = 16 := by rw [hw]; exact (above 128 7 _ (b.toNat) 31 26 rfl b.isLt).trans ((above 128 7 _ (a.toNat) 24 19 rfl a.isLt).trans ((above 128 7 _ (d.toNat) 17 12 rfl d.isLt).trans ((above 32 5 _ (1) 10 5 rfl (by decide)).trans (whole 64 (16) 5 rfl (by decide)))))
  have f1 : wordField w0 25 21 = 1 := by rw [hw]; exact (above 128 7 _ (b.toNat) 25 21 rfl b.isLt).trans ((above 128 7 _ (a.toNat) 18 14 rfl a.isLt).trans ((above 128 7 _ (d.toNat) 11 7 rfl d.isLt).trans (lowest 32 _ (1) 4 rfl (by decide))))
  have f2 : wordField w0 20 14 = d.toNat := by rw [hw]; exact (above 128 7 _ (b.toNat) 20 14 rfl b.isLt).trans ((above 128 7 _ (a.toNat) 13 7 rfl a.isLt).trans (lowest 128 _ (d.toNat) 6 rfl d.isLt))
  have f3 : wordField w0 13 7 = a.toNat := by rw [hw]; exact (above 128 7 _ (b.toNat) 13 7 rfl b.isLt).trans (lowest 128 _ (a.toNat) 6 rfl a.isLt)
  have f4 : wordField w0 6 0 = b.toNat := by rw [hw]; exact lowest 128 _ (b.toNat) 6 rfl b.isLt
  rw [show encode (.iaddSat d a b lit) = withLit w0 [a, b] lit from ew ▸ rfl, withLit_first]
  rw [major10 f0]
  simp only [decodeMajor10, f1, f2, f3, f4, BitVec.ofNat_toNat, BitVec.setWidth_eq]
  rw [show [a.toNat, b.toNat] = [a, b].map BitVec.toNat from rfl, litWord_withLit _ _ _ _ hl, litWords_withLit w0 _ lit]
  exact decodedIf_good _ _ hwf

theorem iaddSatU (d : BitVec 7) (a : BitVec 7) (b : BitVec 7) (lit : BitVec 32) : Statement (.iaddSatU d a b lit) := by
  intro hcode hwf x
  clear hcode
  have hl : litOk [a, b] lit = true := by
    simp only [Instr.wellFormed, Bool.and_eq_true] at hwf
    exact hwf
  have b0 := d.isLt
  have b1 := a.isLt
  have b2 := b.isLt
  obtain ⟨w0, ew⟩ : ∃ w0, w0 = 0x40400000 + d.toNat * 0x4000 + a.toNat * 0x80 + b.toNat := ⟨_, rfl⟩
  have hw : w0 = (((16 * 32 + 2) * 128 + d.toNat) * 128 + a.toNat) * 128 + b.toNat := ew.trans (by clear ew; omega)
  have f0 : wordField w0 31 26 = 16 := by rw [hw]; exact (above 128 7 _ (b.toNat) 31 26 rfl b.isLt).trans ((above 128 7 _ (a.toNat) 24 19 rfl a.isLt).trans ((above 128 7 _ (d.toNat) 17 12 rfl d.isLt).trans ((above 32 5 _ (2) 10 5 rfl (by decide)).trans (whole 64 (16) 5 rfl (by decide)))))
  have f1 : wordField w0 25 21 = 2 := by rw [hw]; exact (above 128 7 _ (b.toNat) 25 21 rfl b.isLt).trans ((above 128 7 _ (a.toNat) 18 14 rfl a.isLt).trans ((above 128 7 _ (d.toNat) 11 7 rfl d.isLt).trans (lowest 32 _ (2) 4 rfl (by decide))))
  have f2 : wordField w0 20 14 = d.toNat := by rw [hw]; exact (above 128 7 _ (b.toNat) 20 14 rfl b.isLt).trans ((above 128 7 _ (a.toNat) 13 7 rfl a.isLt).trans (lowest 128 _ (d.toNat) 6 rfl d.isLt))
  have f3 : wordField w0 13 7 = a.toNat := by rw [hw]; exact (above 128 7 _ (b.toNat) 13 7 rfl b.isLt).trans (lowest 128 _ (a.toNat) 6 rfl a.isLt)
  have f4 : wordField w0 6 0 = b.toNat := by rw [hw]; exact lowest 128 _ (b.toNat) 6 rfl b.isLt
  rw [show encode (.iaddSatU d a b lit) = withLit w0 [a, b] lit from ew ▸ rfl, withLit_first]
  rw [major10 f0]
  simp only [decodeMajor10, f1, f2, f3, f4, BitVec.ofNat_toNat, BitVec.setWidth_eq]
  rw [show [a.toNat, b.toNat] = [a, b].map BitVec.toNat from rfl, litWord_withLit _ _ _ _ hl, litWords_withLit w0 _ lit]
  exact decodedIf_good _ _ hwf

theorem isub (d : BitVec 7) (a : BitVec 7) (b : BitVec 7) (lit : BitVec 32) : Statement (.isub d a b lit) := by
  intro hcode hwf x
  clear hcode
  have hl : litOk [a, b] lit = true := by
    simp only [Instr.wellFormed, Bool.and_eq_true] at hwf
    exact hwf
  have b0 := d.isLt
  have b1 := a.isLt
  have b2 := b.isLt
  obtain ⟨w0, ew⟩ : ∃ w0, w0 = 0x40600000 + d.toNat * 0x4000 + a.toNat * 0x80 + b.toNat := ⟨_, rfl⟩
  have hw : w0 = (((16 * 32 + 3) * 128 + d.toNat) * 128 + a.toNat) * 128 + b.toNat := ew.trans (by clear ew; omega)
  have f0 : wordField w0 31 26 = 16 := by rw [hw]; exact (above 128 7 _ (b.toNat) 31 26 rfl b.isLt).trans ((above 128 7 _ (a.toNat) 24 19 rfl a.isLt).trans ((above 128 7 _ (d.toNat) 17 12 rfl d.isLt).trans ((above 32 5 _ (3) 10 5 rfl (by decide)).trans (whole 64 (16) 5 rfl (by decide)))))
  have f1 : wordField w0 25 21 = 3 := by rw [hw]; exact (above 128 7 _ (b.toNat) 25 21 rfl b.isLt).trans ((above 128 7 _ (a.toNat) 18 14 rfl a.isLt).trans ((above 128 7 _ (d.toNat) 11 7 rfl d.isLt).trans (lowest 32 _ (3) 4 rfl (by decide))))
  have f2 : wordField w0 20 14 = d.toNat := by rw [hw]; exact (above 128 7 _ (b.toNat) 20 14 rfl b.isLt).trans ((above 128 7 _ (a.toNat) 13 7 rfl a.isLt).trans (lowest 128 _ (d.toNat) 6 rfl d.isLt))
  have f3 : wordField w0 13 7 = a.toNat := by rw [hw]; exact (above 128 7 _ (b.toNat) 13 7 rfl b.isLt).trans (lowest 128 _ (a.toNat) 6 rfl a.isLt)
  have f4 : wordField w0 6 0 = b.toNat := by rw [hw]; exact lowest 128 _ (b.toNat) 6 rfl b.isLt
  rw [show encode (.isub d a b lit) = withLit w0 [a, b] lit from ew ▸ rfl, withLit_first]
  rw [major10 f0]
  simp only [decodeMajor10, f1, f2, f3, f4, BitVec.ofNat_toNat, BitVec.setWidth_eq]
  rw [show [a.toNat, b.toNat] = [a, b].map BitVec.toNat from rfl, litWord_withLit _ _ _ _ hl, litWords_withLit w0 _ lit]
  exact decodedIf_good _ _ hwf

theorem isubSat (d : BitVec 7) (a : BitVec 7) (b : BitVec 7) (lit : BitVec 32) : Statement (.isubSat d a b lit) := by
  intro hcode hwf x
  clear hcode
  have hl : litOk [a, b] lit = true := by
    simp only [Instr.wellFormed, Bool.and_eq_true] at hwf
    exact hwf
  have b0 := d.isLt
  have b1 := a.isLt
  have b2 := b.isLt
  obtain ⟨w0, ew⟩ : ∃ w0, w0 = 0x40800000 + d.toNat * 0x4000 + a.toNat * 0x80 + b.toNat := ⟨_, rfl⟩
  have hw : w0 = (((16 * 32 + 4) * 128 + d.toNat) * 128 + a.toNat) * 128 + b.toNat := ew.trans (by clear ew; omega)
  have f0 : wordField w0 31 26 = 16 := by rw [hw]; exact (above 128 7 _ (b.toNat) 31 26 rfl b.isLt).trans ((above 128 7 _ (a.toNat) 24 19 rfl a.isLt).trans ((above 128 7 _ (d.toNat) 17 12 rfl d.isLt).trans ((above 32 5 _ (4) 10 5 rfl (by decide)).trans (whole 64 (16) 5 rfl (by decide)))))
  have f1 : wordField w0 25 21 = 4 := by rw [hw]; exact (above 128 7 _ (b.toNat) 25 21 rfl b.isLt).trans ((above 128 7 _ (a.toNat) 18 14 rfl a.isLt).trans ((above 128 7 _ (d.toNat) 11 7 rfl d.isLt).trans (lowest 32 _ (4) 4 rfl (by decide))))
  have f2 : wordField w0 20 14 = d.toNat := by rw [hw]; exact (above 128 7 _ (b.toNat) 20 14 rfl b.isLt).trans ((above 128 7 _ (a.toNat) 13 7 rfl a.isLt).trans (lowest 128 _ (d.toNat) 6 rfl d.isLt))
  have f3 : wordField w0 13 7 = a.toNat := by rw [hw]; exact (above 128 7 _ (b.toNat) 13 7 rfl b.isLt).trans (lowest 128 _ (a.toNat) 6 rfl a.isLt)
  have f4 : wordField w0 6 0 = b.toNat := by rw [hw]; exact lowest 128 _ (b.toNat) 6 rfl b.isLt
  rw [show encode (.isubSat d a b lit) = withLit w0 [a, b] lit from ew ▸ rfl, withLit_first]
  rw [major10 f0]
  simp only [decodeMajor10, f1, f2, f3, f4, BitVec.ofNat_toNat, BitVec.setWidth_eq]
  rw [show [a.toNat, b.toNat] = [a, b].map BitVec.toNat from rfl, litWord_withLit _ _ _ _ hl, litWords_withLit w0 _ lit]
  exact decodedIf_good _ _ hwf

theorem isubSatU (d : BitVec 7) (a : BitVec 7) (b : BitVec 7) (lit : BitVec 32) : Statement (.isubSatU d a b lit) := by
  intro hcode hwf x
  clear hcode
  have hl : litOk [a, b] lit = true := by
    simp only [Instr.wellFormed, Bool.and_eq_true] at hwf
    exact hwf
  have b0 := d.isLt
  have b1 := a.isLt
  have b2 := b.isLt
  obtain ⟨w0, ew⟩ : ∃ w0, w0 = 0x40A00000 + d.toNat * 0x4000 + a.toNat * 0x80 + b.toNat := ⟨_, rfl⟩
  have hw : w0 = (((16 * 32 + 5) * 128 + d.toNat) * 128 + a.toNat) * 128 + b.toNat := ew.trans (by clear ew; omega)
  have f0 : wordField w0 31 26 = 16 := by rw [hw]; exact (above 128 7 _ (b.toNat) 31 26 rfl b.isLt).trans ((above 128 7 _ (a.toNat) 24 19 rfl a.isLt).trans ((above 128 7 _ (d.toNat) 17 12 rfl d.isLt).trans ((above 32 5 _ (5) 10 5 rfl (by decide)).trans (whole 64 (16) 5 rfl (by decide)))))
  have f1 : wordField w0 25 21 = 5 := by rw [hw]; exact (above 128 7 _ (b.toNat) 25 21 rfl b.isLt).trans ((above 128 7 _ (a.toNat) 18 14 rfl a.isLt).trans ((above 128 7 _ (d.toNat) 11 7 rfl d.isLt).trans (lowest 32 _ (5) 4 rfl (by decide))))
  have f2 : wordField w0 20 14 = d.toNat := by rw [hw]; exact (above 128 7 _ (b.toNat) 20 14 rfl b.isLt).trans ((above 128 7 _ (a.toNat) 13 7 rfl a.isLt).trans (lowest 128 _ (d.toNat) 6 rfl d.isLt))
  have f3 : wordField w0 13 7 = a.toNat := by rw [hw]; exact (above 128 7 _ (b.toNat) 13 7 rfl b.isLt).trans (lowest 128 _ (a.toNat) 6 rfl a.isLt)
  have f4 : wordField w0 6 0 = b.toNat := by rw [hw]; exact lowest 128 _ (b.toNat) 6 rfl b.isLt
  rw [show encode (.isubSatU d a b lit) = withLit w0 [a, b] lit from ew ▸ rfl, withLit_first]
  rw [major10 f0]
  simp only [decodeMajor10, f1, f2, f3, f4, BitVec.ofNat_toNat, BitVec.setWidth_eq]
  rw [show [a.toNat, b.toNat] = [a, b].map BitVec.toNat from rfl, litWord_withLit _ _ _ _ hl, litWords_withLit w0 _ lit]
  exact decodedIf_good _ _ hwf

theorem ineg (d : BitVec 7) (a : BitVec 7) (lit : BitVec 32) : Statement (.ineg d a lit) := by
  intro hcode hwf x
  clear hcode
  have hl : litOk [a] lit = true := by
    simp only [Instr.wellFormed, Bool.and_eq_true] at hwf
    exact hwf
  have b0 := d.isLt
  have b1 := a.isLt
  obtain ⟨w0, ew⟩ : ∃ w0, w0 = 0x40C00000 + d.toNat * 0x4000 + a.toNat * 0x80 := ⟨_, rfl⟩
  have hw : w0 = (((16 * 32 + 6) * 128 + d.toNat) * 128 + a.toNat) * 128 := ew.trans (by clear ew; omega)
  have f0 : wordField w0 31 26 = 16 := by rw [hw]; exact (above_zeros 128 7 _ 31 26 rfl).trans ((above 128 7 _ (a.toNat) 24 19 rfl a.isLt).trans ((above 128 7 _ (d.toNat) 17 12 rfl d.isLt).trans ((above 32 5 _ (6) 10 5 rfl (by decide)).trans (whole 64 (16) 5 rfl (by decide)))))
  have f1 : wordField w0 25 21 = 6 := by rw [hw]; exact (above_zeros 128 7 _ 25 21 rfl).trans ((above 128 7 _ (a.toNat) 18 14 rfl a.isLt).trans ((above 128 7 _ (d.toNat) 11 7 rfl d.isLt).trans (lowest 32 _ (6) 4 rfl (by decide))))
  have f2 : wordField w0 20 14 = d.toNat := by rw [hw]; exact (above_zeros 128 7 _ 20 14 rfl).trans ((above 128 7 _ (a.toNat) 13 7 rfl a.isLt).trans (lowest 128 _ (d.toNat) 6 rfl d.isLt))
  have f3 : wordField w0 13 7 = a.toNat := by rw [hw]; exact (above_zeros 128 7 _ 13 7 rfl).trans (lowest 128 _ (a.toNat) 6 rfl a.isLt)
  have f4 : wordField w0 6 0 = 0 := by rw [hw]; exact lowest_zeros 128 _ 6 rfl
  rw [show encode (.ineg d a lit) = withLit w0 [a] lit from ew ▸ rfl, withLit_first]
  rw [major10 f0]
  simp only [decodeMajor10, f1, f2, f3, f4, BitVec.ofNat_toNat, BitVec.setWidth_eq]
  rw [show [a.toNat] = [a].map BitVec.toNat from rfl, litWord_withLit _ _ _ _ hl, litWords_withLit w0 _ lit]
  exact decodedIf_good _ _ hwf

theorem iabs (d : BitVec 7) (a : BitVec 7) (lit : BitVec 32) : Statement (.iabs d a lit) := by
  intro hcode hwf x
  clear hcode
  have hl : litOk [a] lit = true := by
    simp only [Instr.wellFormed, Bool.and_eq_true] at hwf
    exact hwf
  have b0 := d.isLt
  have b1 := a.isLt
  obtain ⟨w0, ew⟩ : ∃ w0, w0 = 0x40E00000 + d.toNat * 0x4000 + a.toNat * 0x80 := ⟨_, rfl⟩
  have hw : w0 = (((16 * 32 + 7) * 128 + d.toNat) * 128 + a.toNat) * 128 := ew.trans (by clear ew; omega)
  have f0 : wordField w0 31 26 = 16 := by rw [hw]; exact (above_zeros 128 7 _ 31 26 rfl).trans ((above 128 7 _ (a.toNat) 24 19 rfl a.isLt).trans ((above 128 7 _ (d.toNat) 17 12 rfl d.isLt).trans ((above 32 5 _ (7) 10 5 rfl (by decide)).trans (whole 64 (16) 5 rfl (by decide)))))
  have f1 : wordField w0 25 21 = 7 := by rw [hw]; exact (above_zeros 128 7 _ 25 21 rfl).trans ((above 128 7 _ (a.toNat) 18 14 rfl a.isLt).trans ((above 128 7 _ (d.toNat) 11 7 rfl d.isLt).trans (lowest 32 _ (7) 4 rfl (by decide))))
  have f2 : wordField w0 20 14 = d.toNat := by rw [hw]; exact (above_zeros 128 7 _ 20 14 rfl).trans ((above 128 7 _ (a.toNat) 13 7 rfl a.isLt).trans (lowest 128 _ (d.toNat) 6 rfl d.isLt))
  have f3 : wordField w0 13 7 = a.toNat := by rw [hw]; exact (above_zeros 128 7 _ 13 7 rfl).trans (lowest 128 _ (a.toNat) 6 rfl a.isLt)
  have f4 : wordField w0 6 0 = 0 := by rw [hw]; exact lowest_zeros 128 _ 6 rfl
  rw [show encode (.iabs d a lit) = withLit w0 [a] lit from ew ▸ rfl, withLit_first]
  rw [major10 f0]
  simp only [decodeMajor10, f1, f2, f3, f4, BitVec.ofNat_toNat, BitVec.setWidth_eq]
  rw [show [a.toNat] = [a].map BitVec.toNat from rfl, litWord_withLit _ _ _ _ hl, litWords_withLit w0 _ lit]
  exact decodedIf_good _ _ hwf

theorem iabsd (d : BitVec 7) (a : BitVec 7) (b : BitVec 7) (lit : BitVec 32) : Statement (.iabsd d a b lit) := by
  intro hcode hwf x
  clear hcode
  have hl : litOk [a, b] lit = true := by
    simp only [Instr.wellFormed, Bool.and_eq_true] at hwf
    exact hwf
  have b0 := d.isLt
  have b1 := a.isLt
  have b2 := b.isLt
  obtain ⟨w0, ew⟩ : ∃ w0, w0 = 0x41000000 + d.toNat * 0x4000 + a.toNat * 0x80 + b.toNat := ⟨_, rfl⟩
  have hw : w0 = (((16 * 32 + 8) * 128 + d.toNat) * 128 + a.toNat) * 128 + b.toNat := ew.trans (by clear ew; omega)
  have f0 : wordField w0 31 26 = 16 := by rw [hw]; exact (above 128 7 _ (b.toNat) 31 26 rfl b.isLt).trans ((above 128 7 _ (a.toNat) 24 19 rfl a.isLt).trans ((above 128 7 _ (d.toNat) 17 12 rfl d.isLt).trans ((above 32 5 _ (8) 10 5 rfl (by decide)).trans (whole 64 (16) 5 rfl (by decide)))))
  have f1 : wordField w0 25 21 = 8 := by rw [hw]; exact (above 128 7 _ (b.toNat) 25 21 rfl b.isLt).trans ((above 128 7 _ (a.toNat) 18 14 rfl a.isLt).trans ((above 128 7 _ (d.toNat) 11 7 rfl d.isLt).trans (lowest 32 _ (8) 4 rfl (by decide))))
  have f2 : wordField w0 20 14 = d.toNat := by rw [hw]; exact (above 128 7 _ (b.toNat) 20 14 rfl b.isLt).trans ((above 128 7 _ (a.toNat) 13 7 rfl a.isLt).trans (lowest 128 _ (d.toNat) 6 rfl d.isLt))
  have f3 : wordField w0 13 7 = a.toNat := by rw [hw]; exact (above 128 7 _ (b.toNat) 13 7 rfl b.isLt).trans (lowest 128 _ (a.toNat) 6 rfl a.isLt)
  have f4 : wordField w0 6 0 = b.toNat := by rw [hw]; exact lowest 128 _ (b.toNat) 6 rfl b.isLt
  rw [show encode (.iabsd d a b lit) = withLit w0 [a, b] lit from ew ▸ rfl, withLit_first]
  rw [major10 f0]
  simp only [decodeMajor10, f1, f2, f3, f4, BitVec.ofNat_toNat, BitVec.setWidth_eq]
  rw [show [a.toNat, b.toNat] = [a, b].map BitVec.toNat from rfl, litWord_withLit _ _ _ _ hl, litWords_withLit w0 _ lit]
  exact decodedIf_good _ _ hwf

theorem iabsdU (d : BitVec 7) (a : BitVec 7) (b : BitVec 7) (lit : BitVec 32) : Statement (.iabsdU d a b lit) := by
  intro hcode hwf x
  clear hcode
  have hl : litOk [a, b] lit = true := by
    simp only [Instr.wellFormed, Bool.and_eq_true] at hwf
    exact hwf
  have b0 := d.isLt
  have b1 := a.isLt
  have b2 := b.isLt
  obtain ⟨w0, ew⟩ : ∃ w0, w0 = 0x41200000 + d.toNat * 0x4000 + a.toNat * 0x80 + b.toNat := ⟨_, rfl⟩
  have hw : w0 = (((16 * 32 + 9) * 128 + d.toNat) * 128 + a.toNat) * 128 + b.toNat := ew.trans (by clear ew; omega)
  have f0 : wordField w0 31 26 = 16 := by rw [hw]; exact (above 128 7 _ (b.toNat) 31 26 rfl b.isLt).trans ((above 128 7 _ (a.toNat) 24 19 rfl a.isLt).trans ((above 128 7 _ (d.toNat) 17 12 rfl d.isLt).trans ((above 32 5 _ (9) 10 5 rfl (by decide)).trans (whole 64 (16) 5 rfl (by decide)))))
  have f1 : wordField w0 25 21 = 9 := by rw [hw]; exact (above 128 7 _ (b.toNat) 25 21 rfl b.isLt).trans ((above 128 7 _ (a.toNat) 18 14 rfl a.isLt).trans ((above 128 7 _ (d.toNat) 11 7 rfl d.isLt).trans (lowest 32 _ (9) 4 rfl (by decide))))
  have f2 : wordField w0 20 14 = d.toNat := by rw [hw]; exact (above 128 7 _ (b.toNat) 20 14 rfl b.isLt).trans ((above 128 7 _ (a.toNat) 13 7 rfl a.isLt).trans (lowest 128 _ (d.toNat) 6 rfl d.isLt))
  have f3 : wordField w0 13 7 = a.toNat := by rw [hw]; exact (above 128 7 _ (b.toNat) 13 7 rfl b.isLt).trans (lowest 128 _ (a.toNat) 6 rfl a.isLt)
  have f4 : wordField w0 6 0 = b.toNat := by rw [hw]; exact lowest 128 _ (b.toNat) 6 rfl b.isLt
  rw [show encode (.iabsdU d a b lit) = withLit w0 [a, b] lit from ew ▸ rfl, withLit_first]
  rw [major10 f0]
  simp only [decodeMajor10, f1, f2, f3, f4, BitVec.ofNat_toNat, BitVec.setWidth_eq]
  rw [show [a.toNat, b.toNat] = [a, b].map BitVec.toNat from rfl, litWord_withLit _ _ _ _ hl, litWords_withLit w0 _ lit]
  exact decodedIf_good _ _ hwf

theorem iaddCc (d : BitVec 7) (a : BitVec 7) (b : BitVec 7) (ci : BitVec 1) (kc : BitVec 3) : Statement (.iaddCc d a b ci kc) := by
  intro hcode hwf x
  clear hcode
  have b0 := d.isLt
  have b1 := a.isLt
  have b2 := b.isLt
  have b3 := ci.isLt
  have b4 := kc.isLt
  obtain ⟨w0, ew⟩ : ∃ w0, w0 = 0x41400000 + d.toNat * 0x4000 + a.toNat * 0x80 + b.toNat := ⟨_, rfl⟩
  have hw : w0 = (((16 * 32 + 10) * 128 + d.toNat) * 128 + a.toNat) * 128 + b.toNat := ew.trans (by clear ew; omega)
  obtain ⟨w1, ev⟩ : ∃ w1, w1 = ci.toNat * 0x800 + kc.toNat * 0x100 := ⟨_, rfl⟩
  have hv : w1 = ((0 * 2 + ci.toNat) * 8 + kc.toNat) * 256 := ev.trans (by clear ew ev; omega)
  have f0 : wordField w0 31 26 = 16 := by rw [hw]; exact (above 128 7 _ (b.toNat) 31 26 rfl b.isLt).trans ((above 128 7 _ (a.toNat) 24 19 rfl a.isLt).trans ((above 128 7 _ (d.toNat) 17 12 rfl d.isLt).trans ((above 32 5 _ (10) 10 5 rfl (by decide)).trans (whole 64 (16) 5 rfl (by decide)))))
  have f1 : wordField w0 25 21 = 10 := by rw [hw]; exact (above 128 7 _ (b.toNat) 25 21 rfl b.isLt).trans ((above 128 7 _ (a.toNat) 18 14 rfl a.isLt).trans ((above 128 7 _ (d.toNat) 11 7 rfl d.isLt).trans (lowest 32 _ (10) 4 rfl (by decide))))
  have f2 : wordField w0 20 14 = d.toNat := by rw [hw]; exact (above 128 7 _ (b.toNat) 20 14 rfl b.isLt).trans ((above 128 7 _ (a.toNat) 13 7 rfl a.isLt).trans (lowest 128 _ (d.toNat) 6 rfl d.isLt))
  have f3 : wordField w0 13 7 = a.toNat := by rw [hw]; exact (above 128 7 _ (b.toNat) 13 7 rfl b.isLt).trans (lowest 128 _ (a.toNat) 6 rfl a.isLt)
  have f4 : wordField w0 6 0 = b.toNat := by rw [hw]; exact lowest 128 _ (b.toNat) 6 rfl b.isLt
  have f5 : wordField w1 31 12 = 0 := by rw [hv]; exact (above_zeros 256 8 _ 31 12 rfl).trans ((above 8 3 _ (kc.toNat) 23 4 rfl kc.isLt).trans ((above 2 1 _ (ci.toNat) 20 1 rfl ci.isLt).trans (whole 1048576 (0) 19 rfl (by decide))))
  have f6 : wordField w1 11 11 = ci.toNat := by rw [hv]; exact (above_zeros 256 8 _ 11 11 rfl).trans ((above 8 3 _ (kc.toNat) 3 3 rfl kc.isLt).trans (lowest 2 _ (ci.toNat) 0 rfl ci.isLt))
  have f7 : wordField w1 10 8 = kc.toNat := by rw [hv]; exact (above_zeros 256 8 _ 10 8 rfl).trans (lowest 8 _ (kc.toNat) 2 rfl kc.isLt)
  have f8 : wordField w1 7 0 = 0 := by rw [hv]; exact lowest_zeros 256 _ 7 rfl
  have he : encode (.iaddCc d a b ci kc) = [w0, w1] := by subst ew ev; exact rfl
  rw [he]
  refine (major10 f0).trans ?_
  show decodeMajor10 w0 w1 = _
  simp only [decodeMajor10, f1, f2, f3, f4, f5, f6, f7, f8, BitVec.ofNat_toNat, BitVec.setWidth_eq]
  exact decodedIf_good _ _ hwf

theorem isubCc (d : BitVec 7) (a : BitVec 7) (b : BitVec 7) (ci : BitVec 1) (kc : BitVec 3) : Statement (.isubCc d a b ci kc) := by
  intro hcode hwf x
  clear hcode
  have b0 := d.isLt
  have b1 := a.isLt
  have b2 := b.isLt
  have b3 := ci.isLt
  have b4 := kc.isLt
  obtain ⟨w0, ew⟩ : ∃ w0, w0 = 0x41600000 + d.toNat * 0x4000 + a.toNat * 0x80 + b.toNat := ⟨_, rfl⟩
  have hw : w0 = (((16 * 32 + 11) * 128 + d.toNat) * 128 + a.toNat) * 128 + b.toNat := ew.trans (by clear ew; omega)
  obtain ⟨w1, ev⟩ : ∃ w1, w1 = ci.toNat * 0x800 + kc.toNat * 0x100 := ⟨_, rfl⟩
  have hv : w1 = ((0 * 2 + ci.toNat) * 8 + kc.toNat) * 256 := ev.trans (by clear ew ev; omega)
  have f0 : wordField w0 31 26 = 16 := by rw [hw]; exact (above 128 7 _ (b.toNat) 31 26 rfl b.isLt).trans ((above 128 7 _ (a.toNat) 24 19 rfl a.isLt).trans ((above 128 7 _ (d.toNat) 17 12 rfl d.isLt).trans ((above 32 5 _ (11) 10 5 rfl (by decide)).trans (whole 64 (16) 5 rfl (by decide)))))
  have f1 : wordField w0 25 21 = 11 := by rw [hw]; exact (above 128 7 _ (b.toNat) 25 21 rfl b.isLt).trans ((above 128 7 _ (a.toNat) 18 14 rfl a.isLt).trans ((above 128 7 _ (d.toNat) 11 7 rfl d.isLt).trans (lowest 32 _ (11) 4 rfl (by decide))))
  have f2 : wordField w0 20 14 = d.toNat := by rw [hw]; exact (above 128 7 _ (b.toNat) 20 14 rfl b.isLt).trans ((above 128 7 _ (a.toNat) 13 7 rfl a.isLt).trans (lowest 128 _ (d.toNat) 6 rfl d.isLt))
  have f3 : wordField w0 13 7 = a.toNat := by rw [hw]; exact (above 128 7 _ (b.toNat) 13 7 rfl b.isLt).trans (lowest 128 _ (a.toNat) 6 rfl a.isLt)
  have f4 : wordField w0 6 0 = b.toNat := by rw [hw]; exact lowest 128 _ (b.toNat) 6 rfl b.isLt
  have f5 : wordField w1 31 12 = 0 := by rw [hv]; exact (above_zeros 256 8 _ 31 12 rfl).trans ((above 8 3 _ (kc.toNat) 23 4 rfl kc.isLt).trans ((above 2 1 _ (ci.toNat) 20 1 rfl ci.isLt).trans (whole 1048576 (0) 19 rfl (by decide))))
  have f6 : wordField w1 11 11 = ci.toNat := by rw [hv]; exact (above_zeros 256 8 _ 11 11 rfl).trans ((above 8 3 _ (kc.toNat) 3 3 rfl kc.isLt).trans (lowest 2 _ (ci.toNat) 0 rfl ci.isLt))
  have f7 : wordField w1 10 8 = kc.toNat := by rw [hv]; exact (above_zeros 256 8 _ 10 8 rfl).trans (lowest 8 _ (kc.toNat) 2 rfl kc.isLt)
  have f8 : wordField w1 7 0 = 0 := by rw [hv]; exact lowest_zeros 256 _ 7 rfl
  have he : encode (.isubCc d a b ci kc) = [w0, w1] := by subst ew ev; exact rfl
  rw [he]
  refine (major10 f0).trans ?_
  show decodeMajor10 w0 w1 = _
  simp only [decodeMajor10, f1, f2, f3, f4, f5, f6, f7, f8, BitVec.ofNat_toNat, BitVec.setWidth_eq]
  exact decodedIf_good _ _ hwf

theorem imulLo (d : BitVec 7) (a : BitVec 7) (b : BitVec 7) (lit : BitVec 32) : Statement (.imulLo d a b lit) := by
  intro hcode hwf x
  clear hcode
  have hl : litOk [a, b] lit = true := by
    simp only [Instr.wellFormed, Bool.and_eq_true] at hwf
    exact hwf
  have b0 := d.isLt
  have b1 := a.isLt
  have b2 := b.isLt
  obtain ⟨w0, ew⟩ : ∃ w0, w0 = 0x44000000 + d.toNat * 0x4000 + a.toNat * 0x80 + b.toNat := ⟨_, rfl⟩
  have hw : w0 = (((17 * 32) * 128 + d.toNat) * 128 + a.toNat) * 128 + b.toNat := ew.trans (by clear ew; omega)
  have f0 : wordField w0 31 26 = 17 := by rw [hw]; exact (above 128 7 _ (b.toNat) 31 26 rfl b.isLt).trans ((above 128 7 _ (a.toNat) 24 19 rfl a.isLt).trans ((above 128 7 _ (d.toNat) 17 12 rfl d.isLt).trans ((above_zeros 32 5 _ 10 5 rfl).trans (whole 64 (17) 5 rfl (by decide)))))
  have f1 : wordField w0 25 21 = 0 := by rw [hw]; exact (above 128 7 _ (b.toNat) 25 21 rfl b.isLt).trans ((above 128 7 _ (a.toNat) 18 14 rfl a.isLt).trans ((above 128 7 _ (d.toNat) 11 7 rfl d.isLt).trans (lowest_zeros 32 _ 4 rfl)))
  have f2 : wordField w0 20 14 = d.toNat := by rw [hw]; exact (above 128 7 _ (b.toNat) 20 14 rfl b.isLt).trans ((above 128 7 _ (a.toNat) 13 7 rfl a.isLt).trans (lowest 128 _ (d.toNat) 6 rfl d.isLt))
  have f3 : wordField w0 13 7 = a.toNat := by rw [hw]; exact (above 128 7 _ (b.toNat) 13 7 rfl b.isLt).trans (lowest 128 _ (a.toNat) 6 rfl a.isLt)
  have f4 : wordField w0 6 0 = b.toNat := by rw [hw]; exact lowest 128 _ (b.toNat) 6 rfl b.isLt
  rw [show encode (.imulLo d a b lit) = withLit w0 [a, b] lit from ew ▸ rfl, withLit_first]
  rw [major11 f0]
  simp only [decodeMajor11, f1, f2, f3, f4, BitVec.ofNat_toNat, BitVec.setWidth_eq]
  rw [show [a.toNat, b.toNat] = [a, b].map BitVec.toNat from rfl, litWord_withLit _ _ _ _ hl, litWords_withLit w0 _ lit]
  exact decodedIf_good _ _ hwf

theorem imulHi (d : BitVec 7) (a : BitVec 7) (b : BitVec 7) (lit : BitVec 32) : Statement (.imulHi d a b lit) := by
  intro hcode hwf x
  clear hcode
  have hl : litOk [a, b] lit = true := by
    simp only [Instr.wellFormed, Bool.and_eq_true] at hwf
    exact hwf
  have b0 := d.isLt
  have b1 := a.isLt
  have b2 := b.isLt
  obtain ⟨w0, ew⟩ : ∃ w0, w0 = 0x44200000 + d.toNat * 0x4000 + a.toNat * 0x80 + b.toNat := ⟨_, rfl⟩
  have hw : w0 = (((17 * 32 + 1) * 128 + d.toNat) * 128 + a.toNat) * 128 + b.toNat := ew.trans (by clear ew; omega)
  have f0 : wordField w0 31 26 = 17 := by rw [hw]; exact (above 128 7 _ (b.toNat) 31 26 rfl b.isLt).trans ((above 128 7 _ (a.toNat) 24 19 rfl a.isLt).trans ((above 128 7 _ (d.toNat) 17 12 rfl d.isLt).trans ((above 32 5 _ (1) 10 5 rfl (by decide)).trans (whole 64 (17) 5 rfl (by decide)))))
  have f1 : wordField w0 25 21 = 1 := by rw [hw]; exact (above 128 7 _ (b.toNat) 25 21 rfl b.isLt).trans ((above 128 7 _ (a.toNat) 18 14 rfl a.isLt).trans ((above 128 7 _ (d.toNat) 11 7 rfl d.isLt).trans (lowest 32 _ (1) 4 rfl (by decide))))
  have f2 : wordField w0 20 14 = d.toNat := by rw [hw]; exact (above 128 7 _ (b.toNat) 20 14 rfl b.isLt).trans ((above 128 7 _ (a.toNat) 13 7 rfl a.isLt).trans (lowest 128 _ (d.toNat) 6 rfl d.isLt))
  have f3 : wordField w0 13 7 = a.toNat := by rw [hw]; exact (above 128 7 _ (b.toNat) 13 7 rfl b.isLt).trans (lowest 128 _ (a.toNat) 6 rfl a.isLt)
  have f4 : wordField w0 6 0 = b.toNat := by rw [hw]; exact lowest 128 _ (b.toNat) 6 rfl b.isLt
  rw [show encode (.imulHi d a b lit) = withLit w0 [a, b] lit from ew ▸ rfl, withLit_first]
  rw [major11 f0]
  simp only [decodeMajor11, f1, f2, f3, f4, BitVec.ofNat_toNat, BitVec.setWidth_eq]
  rw [show [a.toNat, b.toNat] = [a, b].map BitVec.toNat from rfl, litWord_withLit _ _ _ _ hl, litWords_withLit w0 _ lit]
  exact decodedIf_good _ _ hwf

theorem imulHiU (d : BitVec 7) (a : BitVec 7) (b : BitVec 7) (lit : BitVec 32) : Statement (.imulHiU d a b lit) := by
  intro hcode hwf x
  clear hcode
  have hl : litOk [a, b] lit = true := by
    simp only [Instr.wellFormed, Bool.and_eq_true] at hwf
    exact hwf
  have b0 := d.isLt
  have b1 := a.isLt
  have b2 := b.isLt
  obtain ⟨w0, ew⟩ : ∃ w0, w0 = 0x44400000 + d.toNat * 0x4000 + a.toNat * 0x80 + b.toNat := ⟨_, rfl⟩
  have hw : w0 = (((17 * 32 + 2) * 128 + d.toNat) * 128 + a.toNat) * 128 + b.toNat := ew.trans (by clear ew; omega)
  have f0 : wordField w0 31 26 = 17 := by rw [hw]; exact (above 128 7 _ (b.toNat) 31 26 rfl b.isLt).trans ((above 128 7 _ (a.toNat) 24 19 rfl a.isLt).trans ((above 128 7 _ (d.toNat) 17 12 rfl d.isLt).trans ((above 32 5 _ (2) 10 5 rfl (by decide)).trans (whole 64 (17) 5 rfl (by decide)))))
  have f1 : wordField w0 25 21 = 2 := by rw [hw]; exact (above 128 7 _ (b.toNat) 25 21 rfl b.isLt).trans ((above 128 7 _ (a.toNat) 18 14 rfl a.isLt).trans ((above 128 7 _ (d.toNat) 11 7 rfl d.isLt).trans (lowest 32 _ (2) 4 rfl (by decide))))
  have f2 : wordField w0 20 14 = d.toNat := by rw [hw]; exact (above 128 7 _ (b.toNat) 20 14 rfl b.isLt).trans ((above 128 7 _ (a.toNat) 13 7 rfl a.isLt).trans (lowest 128 _ (d.toNat) 6 rfl d.isLt))
  have f3 : wordField w0 13 7 = a.toNat := by rw [hw]; exact (above 128 7 _ (b.toNat) 13 7 rfl b.isLt).trans (lowest 128 _ (a.toNat) 6 rfl a.isLt)
  have f4 : wordField w0 6 0 = b.toNat := by rw [hw]; exact lowest 128 _ (b.toNat) 6 rfl b.isLt
  rw [show encode (.imulHiU d a b lit) = withLit w0 [a, b] lit from ew ▸ rfl, withLit_first]
  rw [major11 f0]
  simp only [decodeMajor11, f1, f2, f3, f4, BitVec.ofNat_toNat, BitVec.setWidth_eq]
  rw [show [a.toNat, b.toNat] = [a, b].map BitVec.toNat from rfl, litWord_withLit _ _ _ _ hl, litWords_withLit w0 _ lit]
  exact decodedIf_good _ _ hwf

theorem imac (d : BitVec 7) (a : BitVec 7) (b : BitVec 7) (c : BitVec 7) : Statement (.imac d a b c) := by
  intro hcode hwf x
  clear hcode
  have b0 := d.isLt
  have b1 := a.isLt
  have b2 := b.isLt
  have b3 := c.isLt
  obtain ⟨w0, ew⟩ : ∃ w0, w0 = 0x44600000 + d.toNat * 0x4000 + a.toNat * 0x80 + b.toNat := ⟨_, rfl⟩
  have hw : w0 = (((17 * 32 + 3) * 128 + d.toNat) * 128 + a.toNat) * 128 + b.toNat := ew.trans (by clear ew; omega)
  obtain ⟨w1, ev⟩ : ∃ w1, w1 = c.toNat := ⟨_, rfl⟩
  have hv : w1 = 0 * 128 + c.toNat := ev.trans (by clear ew ev; omega)
  have f0 : wordField w0 31 26 = 17 := by rw [hw]; exact (above 128 7 _ (b.toNat) 31 26 rfl b.isLt).trans ((above 128 7 _ (a.toNat) 24 19 rfl a.isLt).trans ((above 128 7 _ (d.toNat) 17 12 rfl d.isLt).trans ((above 32 5 _ (3) 10 5 rfl (by decide)).trans (whole 64 (17) 5 rfl (by decide)))))
  have f1 : wordField w0 25 21 = 3 := by rw [hw]; exact (above 128 7 _ (b.toNat) 25 21 rfl b.isLt).trans ((above 128 7 _ (a.toNat) 18 14 rfl a.isLt).trans ((above 128 7 _ (d.toNat) 11 7 rfl d.isLt).trans (lowest 32 _ (3) 4 rfl (by decide))))
  have f2 : wordField w0 20 14 = d.toNat := by rw [hw]; exact (above 128 7 _ (b.toNat) 20 14 rfl b.isLt).trans ((above 128 7 _ (a.toNat) 13 7 rfl a.isLt).trans (lowest 128 _ (d.toNat) 6 rfl d.isLt))
  have f3 : wordField w0 13 7 = a.toNat := by rw [hw]; exact (above 128 7 _ (b.toNat) 13 7 rfl b.isLt).trans (lowest 128 _ (a.toNat) 6 rfl a.isLt)
  have f4 : wordField w0 6 0 = b.toNat := by rw [hw]; exact lowest 128 _ (b.toNat) 6 rfl b.isLt
  have f5 : wordField w1 31 7 = 0 := by rw [hv]; exact (above 128 7 _ (c.toNat) 31 7 rfl c.isLt).trans (whole 33554432 (0) 24 rfl (by decide))
  have f6 : wordField w1 6 0 = c.toNat := by rw [hv]; exact lowest 128 _ (c.toNat) 6 rfl c.isLt
  have he : encode (.imac d a b c) = [w0, w1] := by subst ew ev; exact rfl
  rw [he]
  refine (major11 f0).trans ?_
  show decodeMajor11 w0 w1 = _
  simp only [decodeMajor11, f1, f2, f3, f4, f5, f6, BitVec.ofNat_toNat, BitVec.setWidth_eq]
  exact decodedIf_good _ _ hwf

theorem idot4 (d : BitVec 7) (a : BitVec 7) (b : BitVec 7) (sat : BitVec 1) (bu : BitVec 1) (au : BitVec 1) (c : BitVec 7) : Statement (.idot4 d a b sat bu au c) := by
  intro hcode hwf x
  clear hcode
  have b0 := d.isLt
  have b1 := a.isLt
  have b2 := b.isLt
  have b3 := sat.isLt
  have b4 := bu.isLt
  have b5 := au.isLt
  have b6 := c.isLt
  obtain ⟨w0, ew⟩ : ∃ w0, w0 = 0x44800000 + d.toNat * 0x4000 + a.toNat * 0x80 + b.toNat := ⟨_, rfl⟩
  have hw : w0 = (((17 * 32 + 4) * 128 + d.toNat) * 128 + a.toNat) * 128 + b.toNat := ew.trans (by clear ew; omega)
  obtain ⟨w1, ev⟩ : ∃ w1, w1 = sat.toNat * 0x400 + bu.toNat * 0x200 + au.toNat * 0x100 + c.toNat := ⟨_, rfl⟩
  have hv : w1 = ((((0 * 2 + sat.toNat) * 2 + bu.toNat) * 2 + au.toNat) * 2) * 128 + c.toNat := ev.trans (by clear ew ev; omega)
  have f0 : wordField w0 31 26 = 17 := by rw [hw]; exact (above 128 7 _ (b.toNat) 31 26 rfl b.isLt).trans ((above 128 7 _ (a.toNat) 24 19 rfl a.isLt).trans ((above 128 7 _ (d.toNat) 17 12 rfl d.isLt).trans ((above 32 5 _ (4) 10 5 rfl (by decide)).trans (whole 64 (17) 5 rfl (by decide)))))
  have f1 : wordField w0 25 21 = 4 := by rw [hw]; exact (above 128 7 _ (b.toNat) 25 21 rfl b.isLt).trans ((above 128 7 _ (a.toNat) 18 14 rfl a.isLt).trans ((above 128 7 _ (d.toNat) 11 7 rfl d.isLt).trans (lowest 32 _ (4) 4 rfl (by decide))))
  have f2 : wordField w0 20 14 = d.toNat := by rw [hw]; exact (above 128 7 _ (b.toNat) 20 14 rfl b.isLt).trans ((above 128 7 _ (a.toNat) 13 7 rfl a.isLt).trans (lowest 128 _ (d.toNat) 6 rfl d.isLt))
  have f3 : wordField w0 13 7 = a.toNat := by rw [hw]; exact (above 128 7 _ (b.toNat) 13 7 rfl b.isLt).trans (lowest 128 _ (a.toNat) 6 rfl a.isLt)
  have f4 : wordField w0 6 0 = b.toNat := by rw [hw]; exact lowest 128 _ (b.toNat) 6 rfl b.isLt
  have f5 : wordField w1 31 11 = 0 := by rw [hv]; exact (above 128 7 _ (c.toNat) 31 11 rfl c.isLt).trans ((above_zeros 2 1 _ 24 4 rfl).trans ((above 2 1 _ (au.toNat) 23 3 rfl au.isLt).trans ((above 2 1 _ (bu.toNat) 22 2 rfl bu.isLt).trans ((above 2 1 _ (sat.toNat) 21 1 rfl sat.isLt).trans (whole 2097152 (0) 20 rfl (by decide))))))
  have f6 : wordField w1 10 10 = sat.toNat := by rw [hv]; exact (above 128 7 _ (c.toNat) 10 10 rfl c.isLt).trans ((above_zeros 2 1 _ 3 3 rfl).trans ((above 2 1 _ (au.toNat) 2 2 rfl au.isLt).trans ((above 2 1 _ (bu.toNat) 1 1 rfl bu.isLt).trans (lowest 2 _ (sat.toNat) 0 rfl sat.isLt))))
  have f7 : wordField w1 9 9 = bu.toNat := by rw [hv]; exact (above 128 7 _ (c.toNat) 9 9 rfl c.isLt).trans ((above_zeros 2 1 _ 2 2 rfl).trans ((above 2 1 _ (au.toNat) 1 1 rfl au.isLt).trans (lowest 2 _ (bu.toNat) 0 rfl bu.isLt)))
  have f8 : wordField w1 8 8 = au.toNat := by rw [hv]; exact (above 128 7 _ (c.toNat) 8 8 rfl c.isLt).trans ((above_zeros 2 1 _ 1 1 rfl).trans (lowest 2 _ (au.toNat) 0 rfl au.isLt))
  have f9 : wordField w1 7 7 = 0 := by rw [hv]; exact (above 128 7 _ (c.toNat) 7 7 rfl c.isLt).trans (lowest_zeros 2 _ 0 rfl)
  have f10 : wordField w1 6 0 = c.toNat := by rw [hv]; exact lowest 128 _ (c.toNat) 6 rfl c.isLt
  have he : encode (.idot4 d a b sat bu au c) = [w0, w1] := by subst ew ev; exact rfl
  rw [he]
  refine (major11 f0).trans ?_
  show decodeMajor11 w0 w1 = _
  simp only [decodeMajor11, f1, f2, f3, f4, f5, f6, f7, f8, f9, f10, BitVec.ofNat_toNat, BitVec.setWidth_eq]
  exact decodedIf_good _ _ hwf

theorem and (d : BitVec 7) (a : BitVec 7) (b : BitVec 7) (lit : BitVec 32) : Statement (.and d a b lit) := by
  intro hcode hwf x
  clear hcode
  have hl : litOk [a, b] lit = true := by
    simp only [Instr.wellFormed, Bool.and_eq_true] at hwf
    exact hwf
  have b0 := d.isLt
  have b1 := a.isLt
  have b2 := b.isLt
  obtain ⟨w0, ew⟩ : ∃ w0, w0 = 0x48000000 + d.toNat * 0x4000 + a.toNat * 0x80 + b.toNat := ⟨_, rfl⟩
  have hw : w0 = (((18 * 32) * 128 + d.toNat) * 128 + a.toNat) * 128 + b.toNat := ew.trans (by clear ew; omega)
  have f0 : wordField w0 31 26 = 18 := by rw [hw]; exact (above 128 7 _ (b.toNat) 31 26 rfl b.isLt).trans ((above 128 7 _ (a.toNat) 24 19 rfl a.isLt).trans ((above 128 7 _ (d.toNat) 17 12 rfl d.isLt).trans ((above_zeros 32 5 _ 10 5 rfl).trans (whole 64 (18) 5 rfl (by decide)))))
  have f1 : wordField w0 25 21 = 0 := by rw [hw]; exact (above 128 7 _ (b.toNat) 25 21 rfl b.isLt).trans ((above 128 7 _ (a.toNat) 18 14 rfl a.isLt).trans ((above 128 7 _ (d.toNat) 11 7 rfl d.isLt).trans (lowest_zeros 32 _ 4 rfl)))
  have f2 : wordField w0 20 14 = d.toNat := by rw [hw]; exact (above 128 7 _ (b.toNat) 20 14 rfl b.isLt).trans ((above 128 7 _ (a.toNat) 13 7 rfl a.isLt).trans (lowest 128 _ (d.toNat) 6 rfl d.isLt))
  have f3 : wordField w0 13 7 = a.toNat := by rw [hw]; exact (above 128 7 _ (b.toNat) 13 7 rfl b.isLt).trans (lowest 128 _ (a.toNat) 6 rfl a.isLt)
  have f4 : wordField w0 6 0 = b.toNat := by rw [hw]; exact lowest 128 _ (b.toNat) 6 rfl b.isLt
  rw [show encode (.and d a b lit) = withLit w0 [a, b] lit from ew ▸ rfl, withLit_first]
  rw [major12 f0]
  simp only [decodeMajor12, f1, f2, f3, f4, BitVec.ofNat_toNat, BitVec.setWidth_eq]
  rw [show [a.toNat, b.toNat] = [a, b].map BitVec.toNat from rfl, litWord_withLit _ _ _ _ hl, litWords_withLit w0 _ lit]
  exact decodedIf_good _ _ hwf

theorem or (d : BitVec 7) (a : BitVec 7) (b : BitVec 7) (lit : BitVec 32) : Statement (.or d a b lit) := by
  intro hcode hwf x
  clear hcode
  have hl : litOk [a, b] lit = true := by
    simp only [Instr.wellFormed, Bool.and_eq_true] at hwf
    exact hwf
  have b0 := d.isLt
  have b1 := a.isLt
  have b2 := b.isLt
  obtain ⟨w0, ew⟩ : ∃ w0, w0 = 0x48200000 + d.toNat * 0x4000 + a.toNat * 0x80 + b.toNat := ⟨_, rfl⟩
  have hw : w0 = (((18 * 32 + 1) * 128 + d.toNat) * 128 + a.toNat) * 128 + b.toNat := ew.trans (by clear ew; omega)
  have f0 : wordField w0 31 26 = 18 := by rw [hw]; exact (above 128 7 _ (b.toNat) 31 26 rfl b.isLt).trans ((above 128 7 _ (a.toNat) 24 19 rfl a.isLt).trans ((above 128 7 _ (d.toNat) 17 12 rfl d.isLt).trans ((above 32 5 _ (1) 10 5 rfl (by decide)).trans (whole 64 (18) 5 rfl (by decide)))))
  have f1 : wordField w0 25 21 = 1 := by rw [hw]; exact (above 128 7 _ (b.toNat) 25 21 rfl b.isLt).trans ((above 128 7 _ (a.toNat) 18 14 rfl a.isLt).trans ((above 128 7 _ (d.toNat) 11 7 rfl d.isLt).trans (lowest 32 _ (1) 4 rfl (by decide))))
  have f2 : wordField w0 20 14 = d.toNat := by rw [hw]; exact (above 128 7 _ (b.toNat) 20 14 rfl b.isLt).trans ((above 128 7 _ (a.toNat) 13 7 rfl a.isLt).trans (lowest 128 _ (d.toNat) 6 rfl d.isLt))
  have f3 : wordField w0 13 7 = a.toNat := by rw [hw]; exact (above 128 7 _ (b.toNat) 13 7 rfl b.isLt).trans (lowest 128 _ (a.toNat) 6 rfl a.isLt)
  have f4 : wordField w0 6 0 = b.toNat := by rw [hw]; exact lowest 128 _ (b.toNat) 6 rfl b.isLt
  rw [show encode (.or d a b lit) = withLit w0 [a, b] lit from ew ▸ rfl, withLit_first]
  rw [major12 f0]
  simp only [decodeMajor12, f1, f2, f3, f4, BitVec.ofNat_toNat, BitVec.setWidth_eq]
  rw [show [a.toNat, b.toNat] = [a, b].map BitVec.toNat from rfl, litWord_withLit _ _ _ _ hl, litWords_withLit w0 _ lit]
  exact decodedIf_good _ _ hwf

theorem xor (d : BitVec 7) (a : BitVec 7) (b : BitVec 7) (lit : BitVec 32) : Statement (.xor d a b lit) := by
  intro hcode hwf x
  clear hcode
  have hl : litOk [a, b] lit = true := by
    simp only [Instr.wellFormed, Bool.and_eq_true] at hwf
    exact hwf
  have b0 := d.isLt
  have b1 := a.isLt
  have b2 := b.isLt
  obtain ⟨w0, ew⟩ : ∃ w0, w0 = 0x48400000 + d.toNat * 0x4000 + a.toNat * 0x80 + b.toNat := ⟨_, rfl⟩
  have hw : w0 = (((18 * 32 + 2) * 128 + d.toNat) * 128 + a.toNat) * 128 + b.toNat := ew.trans (by clear ew; omega)
  have f0 : wordField w0 31 26 = 18 := by rw [hw]; exact (above 128 7 _ (b.toNat) 31 26 rfl b.isLt).trans ((above 128 7 _ (a.toNat) 24 19 rfl a.isLt).trans ((above 128 7 _ (d.toNat) 17 12 rfl d.isLt).trans ((above 32 5 _ (2) 10 5 rfl (by decide)).trans (whole 64 (18) 5 rfl (by decide)))))
  have f1 : wordField w0 25 21 = 2 := by rw [hw]; exact (above 128 7 _ (b.toNat) 25 21 rfl b.isLt).trans ((above 128 7 _ (a.toNat) 18 14 rfl a.isLt).trans ((above 128 7 _ (d.toNat) 11 7 rfl d.isLt).trans (lowest 32 _ (2) 4 rfl (by decide))))
  have f2 : wordField w0 20 14 = d.toNat := by rw [hw]; exact (above 128 7 _ (b.toNat) 20 14 rfl b.isLt).trans ((above 128 7 _ (a.toNat) 13 7 rfl a.isLt).trans (lowest 128 _ (d.toNat) 6 rfl d.isLt))
  have f3 : wordField w0 13 7 = a.toNat := by rw [hw]; exact (above 128 7 _ (b.toNat) 13 7 rfl b.isLt).trans (lowest 128 _ (a.toNat) 6 rfl a.isLt)
  have f4 : wordField w0 6 0 = b.toNat := by rw [hw]; exact lowest 128 _ (b.toNat) 6 rfl b.isLt
  rw [show encode (.xor d a b lit) = withLit w0 [a, b] lit from ew ▸ rfl, withLit_first]
  rw [major12 f0]
  simp only [decodeMajor12, f1, f2, f3, f4, BitVec.ofNat_toNat, BitVec.setWidth_eq]
  rw [show [a.toNat, b.toNat] = [a, b].map BitVec.toNat from rfl, litWord_withLit _ _ _ _ hl, litWords_withLit w0 _ lit]
  exact decodedIf_good _ _ hwf

theorem andn (d : BitVec 7) (a : BitVec 7) (b : BitVec 7) (lit : BitVec 32) : Statement (.andn d a b lit) := by
  intro hcode hwf x
  clear hcode
  have hl : litOk [a, b] lit = true := by
    simp only [Instr.wellFormed, Bool.and_eq_true] at hwf
    exact hwf
  have b0 := d.isLt
  have b1 := a.isLt
  have b2 := b.isLt
  obtain ⟨w0, ew⟩ : ∃ w0, w0 = 0x48600000 + d.toNat * 0x4000 + a.toNat * 0x80 + b.toNat := ⟨_, rfl⟩
  have hw : w0 = (((18 * 32 + 3) * 128 + d.toNat) * 128 + a.toNat) * 128 + b.toNat := ew.trans (by clear ew; omega)
  have f0 : wordField w0 31 26 = 18 := by rw [hw]; exact (above 128 7 _ (b.toNat) 31 26 rfl b.isLt).trans ((above 128 7 _ (a.toNat) 24 19 rfl a.isLt).trans ((above 128 7 _ (d.toNat) 17 12 rfl d.isLt).trans ((above 32 5 _ (3) 10 5 rfl (by decide)).trans (whole 64 (18) 5 rfl (by decide)))))
  have f1 : wordField w0 25 21 = 3 := by rw [hw]; exact (above 128 7 _ (b.toNat) 25 21 rfl b.isLt).trans ((above 128 7 _ (a.toNat) 18 14 rfl a.isLt).trans ((above 128 7 _ (d.toNat) 11 7 rfl d.isLt).trans (lowest 32 _ (3) 4 rfl (by decide))))
  have f2 : wordField w0 20 14 = d.toNat := by rw [hw]; exact (above 128 7 _ (b.toNat) 20 14 rfl b.isLt).trans ((above 128 7 _ (a.toNat) 13 7 rfl a.isLt).trans (lowest 128 _ (d.toNat) 6 rfl d.isLt))
  have f3 : wordField w0 13 7 = a.toNat := by rw [hw]; exact (above 128 7 _ (b.toNat) 13 7 rfl b.isLt).trans (lowest 128 _ (a.toNat) 6 rfl a.isLt)
  have f4 : wordField w0 6 0 = b.toNat := by rw [hw]; exact lowest 128 _ (b.toNat) 6 rfl b.isLt
  rw [show encode (.andn d a b lit) = withLit w0 [a, b] lit from ew ▸ rfl, withLit_first]
  rw [major12 f0]
  simp only [decodeMajor12, f1, f2, f3, f4, BitVec.ofNat_toNat, BitVec.setWidth_eq]
  rw [show [a.toNat, b.toNat] = [a, b].map BitVec.toNat from rfl, litWord_withLit _ _ _ _ hl, litWords_withLit w0 _ lit]
  exact decodedIf_good _ _ hwf

theorem not (d : BitVec 7) (a : BitVec 7) (lit : BitVec 32) : Statement (.not d a lit) := by
  intro hcode hwf x
  clear hcode
  have hl : litOk [a] lit = true := by
    simp only [Instr.wellFormed, Bool.and_eq_true] at hwf
    exact hwf
  have b0 := d.isLt
  have b1 := a.isLt
  obtain ⟨w0, ew⟩ : ∃ w0, w0 = 0x48800000 + d.toNat * 0x4000 + a.toNat * 0x80 := ⟨_, rfl⟩
  have hw : w0 = (((18 * 32 + 4) * 128 + d.toNat) * 128 + a.toNat) * 128 := ew.trans (by clear ew; omega)
  have f0 : wordField w0 31 26 = 18 := by rw [hw]; exact (above_zeros 128 7 _ 31 26 rfl).trans ((above 128 7 _ (a.toNat) 24 19 rfl a.isLt).trans ((above 128 7 _ (d.toNat) 17 12 rfl d.isLt).trans ((above 32 5 _ (4) 10 5 rfl (by decide)).trans (whole 64 (18) 5 rfl (by decide)))))
  have f1 : wordField w0 25 21 = 4 := by rw [hw]; exact (above_zeros 128 7 _ 25 21 rfl).trans ((above 128 7 _ (a.toNat) 18 14 rfl a.isLt).trans ((above 128 7 _ (d.toNat) 11 7 rfl d.isLt).trans (lowest 32 _ (4) 4 rfl (by decide))))
  have f2 : wordField w0 20 14 = d.toNat := by rw [hw]; exact (above_zeros 128 7 _ 20 14 rfl).trans ((above 128 7 _ (a.toNat) 13 7 rfl a.isLt).trans (lowest 128 _ (d.toNat) 6 rfl d.isLt))
  have f3 : wordField w0 13 7 = a.toNat := by rw [hw]; exact (above_zeros 128 7 _ 13 7 rfl).trans (lowest 128 _ (a.toNat) 6 rfl a.isLt)
  have f4 : wordField w0 6 0 = 0 := by rw [hw]; exact lowest_zeros 128 _ 6 rfl
  rw [show encode (.not d a lit) = withLit w0 [a] lit from ew ▸ rfl, withLit_first]
  rw [major12 f0]
  simp only [decodeMajor12, f1, f2, f3, f4, BitVec.ofNat_toNat, BitVec.setWidth_eq]
  rw [show [a.toNat] = [a].map BitVec.toNat from rfl, litWord_withLit _ _ _ _ hl, litWords_withLit w0 _ lit]
  exact decodedIf_good _ _ hwf

theorem shl (d : BitVec 7) (a : BitVec 7) (b : BitVec 7) (lit : BitVec 32) : Statement (.shl d a b lit) := by
  intro hcode hwf x
  clear hcode
  have hl : litOk [a, b] lit = true := by
    simp only [Instr.wellFormed, Bool.and_eq_true] at hwf
    exact hwf
  have b0 := d.isLt
  have b1 := a.isLt
  have b2 := b.isLt
  obtain ⟨w0, ew⟩ : ∃ w0, w0 = 0x4C000000 + d.toNat * 0x4000 + a.toNat * 0x80 + b.toNat := ⟨_, rfl⟩
  have hw : w0 = (((19 * 32) * 128 + d.toNat) * 128 + a.toNat) * 128 + b.toNat := ew.trans (by clear ew; omega)
  have f0 : wordField w0 31 26 = 19 := by rw [hw]; exact (above 128 7 _ (b.toNat) 31 26 rfl b.isLt).trans ((above 128 7 _ (a.toNat) 24 19 rfl a.isLt).trans ((above 128 7 _ (d.toNat) 17 12 rfl d.isLt).trans ((above_zeros 32 5 _ 10 5 rfl).trans (whole 64 (19) 5 rfl (by decide)))))
  have f1 : wordField w0 25 21 = 0 := by rw [hw]; exact (above 128 7 _ (b.toNat) 25 21 rfl b.isLt).trans ((above 128 7 _ (a.toNat) 18 14 rfl a.isLt).trans ((above 128 7 _ (d.toNat) 11 7 rfl d.isLt).trans (lowest_zeros 32 _ 4 rfl)))
  have f2 : wordField w0 20 14 = d.toNat := by rw [hw]; exact (above 128 7 _ (b.toNat) 20 14 rfl b.isLt).trans ((above 128 7 _ (a.toNat) 13 7 rfl a.isLt).trans (lowest 128 _ (d.toNat) 6 rfl d.isLt))
  have f3 : wordField w0 13 7 = a.toNat := by rw [hw]; exact (above 128 7 _ (b.toNat) 13 7 rfl b.isLt).trans (lowest 128 _ (a.toNat) 6 rfl a.isLt)
  have f4 : wordField w0 6 0 = b.toNat := by rw [hw]; exact lowest 128 _ (b.toNat) 6 rfl b.isLt
  rw [show encode (.shl d a b lit) = withLit w0 [a, b] lit from ew ▸ rfl, withLit_first]
  rw [major13 f0]
  simp only [decodeMajor13, f1, f2, f3, f4, BitVec.ofNat_toNat, BitVec.setWidth_eq]
  rw [show [a.toNat, b.toNat] = [a, b].map BitVec.toNat from rfl, litWord_withLit _ _ _ _ hl, litWords_withLit w0 _ lit]
  exact decodedIf_good _ _ hwf

theorem shr (d : BitVec 7) (a : BitVec 7) (b : BitVec 7) (lit : BitVec 32) : Statement (.shr d a b lit) := by
  intro hcode hwf x
  clear hcode
  have hl : litOk [a, b] lit = true := by
    simp only [Instr.wellFormed, Bool.and_eq_true] at hwf
    exact hwf
  have b0 := d.isLt
  have b1 := a.isLt
  have b2 := b.isLt
  obtain ⟨w0, ew⟩ : ∃ w0, w0 = 0x4C200000 + d.toNat * 0x4000 + a.toNat * 0x80 + b.toNat := ⟨_, rfl⟩
  have hw : w0 = (((19 * 32 + 1) * 128 + d.toNat) * 128 + a.toNat) * 128 + b.toNat := ew.trans (by clear ew; omega)
  have f0 : wordField w0 31 26 = 19 := by rw [hw]; exact (above 128 7 _ (b.toNat) 31 26 rfl b.isLt).trans ((above 128 7 _ (a.toNat) 24 19 rfl a.isLt).trans ((above 128 7 _ (d.toNat) 17 12 rfl d.isLt).trans ((above 32 5 _ (1) 10 5 rfl (by decide)).trans (whole 64 (19) 5 rfl (by decide)))))
  have f1 : wordField w0 25 21 = 1 := by rw [hw]; exact (above 128 7 _ (b.toNat) 25 21 rfl b.isLt).trans ((above 128 7 _ (a.toNat) 18 14 rfl a.isLt).trans ((above 128 7 _ (d.toNat) 11 7 rfl d.isLt).trans (lowest 32 _ (1) 4 rfl (by decide))))
  have f2 : wordField w0 20 14 = d.toNat := by rw [hw]; exact (above 128 7 _ (b.toNat) 20 14 rfl b.isLt).trans ((above 128 7 _ (a.toNat) 13 7 rfl a.isLt).trans (lowest 128 _ (d.toNat) 6 rfl d.isLt))
  have f3 : wordField w0 13 7 = a.toNat := by rw [hw]; exact (above 128 7 _ (b.toNat) 13 7 rfl b.isLt).trans (lowest 128 _ (a.toNat) 6 rfl a.isLt)
  have f4 : wordField w0 6 0 = b.toNat := by rw [hw]; exact lowest 128 _ (b.toNat) 6 rfl b.isLt
  rw [show encode (.shr d a b lit) = withLit w0 [a, b] lit from ew ▸ rfl, withLit_first]
  rw [major13 f0]
  simp only [decodeMajor13, f1, f2, f3, f4, BitVec.ofNat_toNat, BitVec.setWidth_eq]
  rw [show [a.toNat, b.toNat] = [a, b].map BitVec.toNat from rfl, litWord_withLit _ _ _ _ hl, litWords_withLit w0 _ lit]
  exact decodedIf_good _ _ hwf

theorem sar (d : BitVec 7) (a : BitVec 7) (b : BitVec 7) (lit : BitVec 32) : Statement (.sar d a b lit) := by
  intro hcode hwf x
  clear hcode
  have hl : litOk [a, b] lit = true := by
    simp only [Instr.wellFormed, Bool.and_eq_true] at hwf
    exact hwf
  have b0 := d.isLt
  have b1 := a.isLt
  have b2 := b.isLt
  obtain ⟨w0, ew⟩ : ∃ w0, w0 = 0x4C400000 + d.toNat * 0x4000 + a.toNat * 0x80 + b.toNat := ⟨_, rfl⟩
  have hw : w0 = (((19 * 32 + 2) * 128 + d.toNat) * 128 + a.toNat) * 128 + b.toNat := ew.trans (by clear ew; omega)
  have f0 : wordField w0 31 26 = 19 := by rw [hw]; exact (above 128 7 _ (b.toNat) 31 26 rfl b.isLt).trans ((above 128 7 _ (a.toNat) 24 19 rfl a.isLt).trans ((above 128 7 _ (d.toNat) 17 12 rfl d.isLt).trans ((above 32 5 _ (2) 10 5 rfl (by decide)).trans (whole 64 (19) 5 rfl (by decide)))))
  have f1 : wordField w0 25 21 = 2 := by rw [hw]; exact (above 128 7 _ (b.toNat) 25 21 rfl b.isLt).trans ((above 128 7 _ (a.toNat) 18 14 rfl a.isLt).trans ((above 128 7 _ (d.toNat) 11 7 rfl d.isLt).trans (lowest 32 _ (2) 4 rfl (by decide))))
  have f2 : wordField w0 20 14 = d.toNat := by rw [hw]; exact (above 128 7 _ (b.toNat) 20 14 rfl b.isLt).trans ((above 128 7 _ (a.toNat) 13 7 rfl a.isLt).trans (lowest 128 _ (d.toNat) 6 rfl d.isLt))
  have f3 : wordField w0 13 7 = a.toNat := by rw [hw]; exact (above 128 7 _ (b.toNat) 13 7 rfl b.isLt).trans (lowest 128 _ (a.toNat) 6 rfl a.isLt)
  have f4 : wordField w0 6 0 = b.toNat := by rw [hw]; exact lowest 128 _ (b.toNat) 6 rfl b.isLt
  rw [show encode (.sar d a b lit) = withLit w0 [a, b] lit from ew ▸ rfl, withLit_first]
  rw [major13 f0]
  simp only [decodeMajor13, f1, f2, f3, f4, BitVec.ofNat_toNat, BitVec.setWidth_eq]
  rw [show [a.toNat, b.toNat] = [a, b].map BitVec.toNat from rfl, litWord_withLit _ _ _ _ hl, litWords_withLit w0 _ lit]
  exact decodedIf_good _ _ hwf

theorem rotl (d : BitVec 7) (a : BitVec 7) (b : BitVec 7) (lit : BitVec 32) : Statement (.rotl d a b lit) := by
  intro hcode hwf x
  clear hcode
  have hl : litOk [a, b] lit = true := by
    simp only [Instr.wellFormed, Bool.and_eq_true] at hwf
    exact hwf
  have b0 := d.isLt
  have b1 := a.isLt
  have b2 := b.isLt
  obtain ⟨w0, ew⟩ : ∃ w0, w0 = 0x4C600000 + d.toNat * 0x4000 + a.toNat * 0x80 + b.toNat := ⟨_, rfl⟩
  have hw : w0 = (((19 * 32 + 3) * 128 + d.toNat) * 128 + a.toNat) * 128 + b.toNat := ew.trans (by clear ew; omega)
  have f0 : wordField w0 31 26 = 19 := by rw [hw]; exact (above 128 7 _ (b.toNat) 31 26 rfl b.isLt).trans ((above 128 7 _ (a.toNat) 24 19 rfl a.isLt).trans ((above 128 7 _ (d.toNat) 17 12 rfl d.isLt).trans ((above 32 5 _ (3) 10 5 rfl (by decide)).trans (whole 64 (19) 5 rfl (by decide)))))
  have f1 : wordField w0 25 21 = 3 := by rw [hw]; exact (above 128 7 _ (b.toNat) 25 21 rfl b.isLt).trans ((above 128 7 _ (a.toNat) 18 14 rfl a.isLt).trans ((above 128 7 _ (d.toNat) 11 7 rfl d.isLt).trans (lowest 32 _ (3) 4 rfl (by decide))))
  have f2 : wordField w0 20 14 = d.toNat := by rw [hw]; exact (above 128 7 _ (b.toNat) 20 14 rfl b.isLt).trans ((above 128 7 _ (a.toNat) 13 7 rfl a.isLt).trans (lowest 128 _ (d.toNat) 6 rfl d.isLt))
  have f3 : wordField w0 13 7 = a.toNat := by rw [hw]; exact (above 128 7 _ (b.toNat) 13 7 rfl b.isLt).trans (lowest 128 _ (a.toNat) 6 rfl a.isLt)
  have f4 : wordField w0 6 0 = b.toNat := by rw [hw]; exact lowest 128 _ (b.toNat) 6 rfl b.isLt
  rw [show encode (.rotl d a b lit) = withLit w0 [a, b] lit from ew ▸ rfl, withLit_first]
  rw [major13 f0]
  simp only [decodeMajor13, f1, f2, f3, f4, BitVec.ofNat_toNat, BitVec.setWidth_eq]
  rw [show [a.toNat, b.toNat] = [a, b].map BitVec.toNat from rfl, litWord_withLit _ _ _ _ hl, litWords_withLit w0 _ lit]
  exact decodedIf_good _ _ hwf

theorem fshr (d : BitVec 7) (a : BitVec 7) (b : BitVec 7) (c : BitVec 7) : Statement (.fshr d a b c) := by
  intro hcode hwf x
  clear hcode
  have b0 := d.isLt
  have b1 := a.isLt
  have b2 := b.isLt
  have b3 := c.isLt
  obtain ⟨w0, ew⟩ : ∃ w0, w0 = 0x4C800000 + d.toNat * 0x4000 + a.toNat * 0x80 + b.toNat := ⟨_, rfl⟩
  have hw : w0 = (((19 * 32 + 4) * 128 + d.toNat) * 128 + a.toNat) * 128 + b.toNat := ew.trans (by clear ew; omega)
  obtain ⟨w1, ev⟩ : ∃ w1, w1 = c.toNat := ⟨_, rfl⟩
  have hv : w1 = 0 * 128 + c.toNat := ev.trans (by clear ew ev; omega)
  have f0 : wordField w0 31 26 = 19 := by rw [hw]; exact (above 128 7 _ (b.toNat) 31 26 rfl b.isLt).trans ((above 128 7 _ (a.toNat) 24 19 rfl a.isLt).trans ((above 128 7 _ (d.toNat) 17 12 rfl d.isLt).trans ((above 32 5 _ (4) 10 5 rfl (by decide)).trans (whole 64 (19) 5 rfl (by decide)))))
  have f1 : wordField w0 25 21 = 4 := by rw [hw]; exact (above 128 7 _ (b.toNat) 25 21 rfl b.isLt).trans ((above 128 7 _ (a.toNat) 18 14 rfl a.isLt).trans ((above 128 7 _ (d.toNat) 11 7 rfl d.isLt).trans (lowest 32 _ (4) 4 rfl (by decide))))
  have f2 : wordField w0 20 14 = d.toNat := by rw [hw]; exact (above 128 7 _ (b.toNat) 20 14 rfl b.isLt).trans ((above 128 7 _ (a.toNat) 13 7 rfl a.isLt).trans (lowest 128 _ (d.toNat) 6 rfl d.isLt))
  have f3 : wordField w0 13 7 = a.toNat := by rw [hw]; exact (above 128 7 _ (b.toNat) 13 7 rfl b.isLt).trans (lowest 128 _ (a.toNat) 6 rfl a.isLt)
  have f4 : wordField w0 6 0 = b.toNat := by rw [hw]; exact lowest 128 _ (b.toNat) 6 rfl b.isLt
  have f5 : wordField w1 31 7 = 0 := by rw [hv]; exact (above 128 7 _ (c.toNat) 31 7 rfl c.isLt).trans (whole 33554432 (0) 24 rfl (by decide))
  have f6 : wordField w1 6 0 = c.toNat := by rw [hv]; exact lowest 128 _ (c.toNat) 6 rfl c.isLt
  have he : encode (.fshr d a b c) = [w0, w1] := by subst ew ev; exact rfl
  rw [he]
  refine (major13 f0).trans ?_
  show decodeMajor13 w0 w1 = _
  simp only [decodeMajor13, f1, f2, f3, f4, f5, f6, BitVec.ofNat_toNat, BitVec.setWidth_eq]
  exact decodedIf_good _ _ hwf

theorem imin (d : BitVec 7) (a : BitVec 7) (b : BitVec 7) (lit : BitVec 32) : Statement (.imin d a b lit) := by
  intro hcode hwf x
  clear hcode
  have hl : litOk [a, b] lit = true := by
    simp only [Instr.wellFormed, Bool.and_eq_true] at hwf
    exact hwf
  have b0 := d.isLt
  have b1 := a.isLt
  have b2 := b.isLt
  obtain ⟨w0, ew⟩ : ∃ w0, w0 = 0x50000000 + d.toNat * 0x4000 + a.toNat * 0x80 + b.toNat := ⟨_, rfl⟩
  have hw : w0 = (((20 * 32) * 128 + d.toNat) * 128 + a.toNat) * 128 + b.toNat := ew.trans (by clear ew; omega)
  have f0 : wordField w0 31 26 = 20 := by rw [hw]; exact (above 128 7 _ (b.toNat) 31 26 rfl b.isLt).trans ((above 128 7 _ (a.toNat) 24 19 rfl a.isLt).trans ((above 128 7 _ (d.toNat) 17 12 rfl d.isLt).trans ((above_zeros 32 5 _ 10 5 rfl).trans (whole 64 (20) 5 rfl (by decide)))))
  have f1 : wordField w0 25 21 = 0 := by rw [hw]; exact (above 128 7 _ (b.toNat) 25 21 rfl b.isLt).trans ((above 128 7 _ (a.toNat) 18 14 rfl a.isLt).trans ((above 128 7 _ (d.toNat) 11 7 rfl d.isLt).trans (lowest_zeros 32 _ 4 rfl)))
  have f2 : wordField w0 20 14 = d.toNat := by rw [hw]; exact (above 128 7 _ (b.toNat) 20 14 rfl b.isLt).trans ((above 128 7 _ (a.toNat) 13 7 rfl a.isLt).trans (lowest 128 _ (d.toNat) 6 rfl d.isLt))
  have f3 : wordField w0 13 7 = a.toNat := by rw [hw]; exact (above 128 7 _ (b.toNat) 13 7 rfl b.isLt).trans (lowest 128 _ (a.toNat) 6 rfl a.isLt)
  have f4 : wordField w0 6 0 = b.toNat := by rw [hw]; exact lowest 128 _ (b.toNat) 6 rfl b.isLt
  rw [show encode (.imin d a b lit) = withLit w0 [a, b] lit from ew ▸ rfl, withLit_first]
  rw [major14 f0]
  simp only [decodeMajor14, f1, f2, f3, f4, BitVec.ofNat_toNat, BitVec.setWidth_eq]
  rw [show [a.toNat, b.toNat] = [a, b].map BitVec.toNat from rfl, litWord_withLit _ _ _ _ hl, litWords_withLit w0 _ lit]
  exact decodedIf_good _ _ hwf

theorem iminU (d : BitVec 7) (a : BitVec 7) (b : BitVec 7) (lit : BitVec 32) : Statement (.iminU d a b lit) := by
  intro hcode hwf x
  clear hcode
  have hl : litOk [a, b] lit = true := by
    simp only [Instr.wellFormed, Bool.and_eq_true] at hwf
    exact hwf
  have b0 := d.isLt
  have b1 := a.isLt
  have b2 := b.isLt
  obtain ⟨w0, ew⟩ : ∃ w0, w0 = 0x50200000 + d.toNat * 0x4000 + a.toNat * 0x80 + b.toNat := ⟨_, rfl⟩
  have hw : w0 = (((20 * 32 + 1) * 128 + d.toNat) * 128 + a.toNat) * 128 + b.toNat := ew.trans (by clear ew; omega)
  have f0 : wordField w0 31 26 = 20 := by rw [hw]; exact (above 128 7 _ (b.toNat) 31 26 rfl b.isLt).trans ((above 128 7 _ (a.toNat) 24 19 rfl a.isLt).trans ((above 128 7 _ (d.toNat) 17 12 rfl d.isLt).trans ((above 32 5 _ (1) 10 5 rfl (by decide)).trans (whole 64 (20) 5 rfl (by decide)))))
  have f1 : wordField w0 25 21 = 1 := by rw [hw]; exact (above 128 7 _ (b.toNat) 25 21 rfl b.isLt).trans ((above 128 7 _ (a.toNat) 18 14 rfl a.isLt).trans ((above 128 7 _ (d.toNat) 11 7 rfl d.isLt).trans (lowest 32 _ (1) 4 rfl (by decide))))
  have f2 : wordField w0 20 14 = d.toNat := by rw [hw]; exact (above 128 7 _ (b.toNat) 20 14 rfl b.isLt).trans ((above 128 7 _ (a.toNat) 13 7 rfl a.isLt).trans (lowest 128 _ (d.toNat) 6 rfl d.isLt))
  have f3 : wordField w0 13 7 = a.toNat := by rw [hw]; exact (above 128 7 _ (b.toNat) 13 7 rfl b.isLt).trans (lowest 128 _ (a.toNat) 6 rfl a.isLt)
  have f4 : wordField w0 6 0 = b.toNat := by rw [hw]; exact lowest 128 _ (b.toNat) 6 rfl b.isLt
  rw [show encode (.iminU d a b lit) = withLit w0 [a, b] lit from ew ▸ rfl, withLit_first]
  rw [major14 f0]
  simp only [decodeMajor14, f1, f2, f3, f4, BitVec.ofNat_toNat, BitVec.setWidth_eq]
  rw [show [a.toNat, b.toNat] = [a, b].map BitVec.toNat from rfl, litWord_withLit _ _ _ _ hl, litWords_withLit w0 _ lit]
  exact decodedIf_good _ _ hwf

theorem imax (d : BitVec 7) (a : BitVec 7) (b : BitVec 7) (lit : BitVec 32) : Statement (.imax d a b lit) := by
  intro hcode hwf x
  clear hcode
  have hl : litOk [a, b] lit = true := by
    simp only [Instr.wellFormed, Bool.and_eq_true] at hwf
    exact hwf
  have b0 := d.isLt
  have b1 := a.isLt
  have b2 := b.isLt
  obtain ⟨w0, ew⟩ : ∃ w0, w0 = 0x50400000 + d.toNat * 0x4000 + a.toNat * 0x80 + b.toNat := ⟨_, rfl⟩
  have hw : w0 = (((20 * 32 + 2) * 128 + d.toNat) * 128 + a.toNat) * 128 + b.toNat := ew.trans (by clear ew; omega)
  have f0 : wordField w0 31 26 = 20 := by rw [hw]; exact (above 128 7 _ (b.toNat) 31 26 rfl b.isLt).trans ((above 128 7 _ (a.toNat) 24 19 rfl a.isLt).trans ((above 128 7 _ (d.toNat) 17 12 rfl d.isLt).trans ((above 32 5 _ (2) 10 5 rfl (by decide)).trans (whole 64 (20) 5 rfl (by decide)))))
  have f1 : wordField w0 25 21 = 2 := by rw [hw]; exact (above 128 7 _ (b.toNat) 25 21 rfl b.isLt).trans ((above 128 7 _ (a.toNat) 18 14 rfl a.isLt).trans ((above 128 7 _ (d.toNat) 11 7 rfl d.isLt).trans (lowest 32 _ (2) 4 rfl (by decide))))
  have f2 : wordField w0 20 14 = d.toNat := by rw [hw]; exact (above 128 7 _ (b.toNat) 20 14 rfl b.isLt).trans ((above 128 7 _ (a.toNat) 13 7 rfl a.isLt).trans (lowest 128 _ (d.toNat) 6 rfl d.isLt))
  have f3 : wordField w0 13 7 = a.toNat := by rw [hw]; exact (above 128 7 _ (b.toNat) 13 7 rfl b.isLt).trans (lowest 128 _ (a.toNat) 6 rfl a.isLt)
  have f4 : wordField w0 6 0 = b.toNat := by rw [hw]; exact lowest 128 _ (b.toNat) 6 rfl b.isLt
  rw [show encode (.imax d a b lit) = withLit w0 [a, b] lit from ew ▸ rfl, withLit_first]
  rw [major14 f0]
  simp only [decodeMajor14, f1, f2, f3, f4, BitVec.ofNat_toNat, BitVec.setWidth_eq]
  rw [show [a.toNat, b.toNat] = [a, b].map BitVec.toNat from rfl, litWord_withLit _ _ _ _ hl, litWords_withLit w0 _ lit]
  exact decodedIf_good _ _ hwf

theorem imaxU (d : BitVec 7) (a : BitVec 7) (b : BitVec 7) (lit : BitVec 32) : Statement (.imaxU d a b lit) := by
  intro hcode hwf x
  clear hcode
  have hl : litOk [a, b] lit = true := by
    simp only [Instr.wellFormed, Bool.and_eq_true] at hwf
    exact hwf
  have b0 := d.isLt
  have b1 := a.isLt
  have b2 := b.isLt
  obtain ⟨w0, ew⟩ : ∃ w0, w0 = 0x50600000 + d.toNat * 0x4000 + a.toNat * 0x80 + b.toNat := ⟨_, rfl⟩
  have hw : w0 = (((20 * 32 + 3) * 128 + d.toNat) * 128 + a.toNat) * 128 + b.toNat := ew.trans (by clear ew; omega)
  have f0 : wordField w0 31 26 = 20 := by rw [hw]; exact (above 128 7 _ (b.toNat) 31 26 rfl b.isLt).trans ((above 128 7 _ (a.toNat) 24 19 rfl a.isLt).trans ((above 128 7 _ (d.toNat) 17 12 rfl d.isLt).trans ((above 32 5 _ (3) 10 5 rfl (by decide)).trans (whole 64 (20) 5 rfl (by decide)))))
  have f1 : wordField w0 25 21 = 3 := by rw [hw]; exact (above 128 7 _ (b.toNat) 25 21 rfl b.isLt).trans ((above 128 7 _ (a.toNat) 18 14 rfl a.isLt).trans ((above 128 7 _ (d.toNat) 11 7 rfl d.isLt).trans (lowest 32 _ (3) 4 rfl (by decide))))
  have f2 : wordField w0 20 14 = d.toNat := by rw [hw]; exact (above 128 7 _ (b.toNat) 20 14 rfl b.isLt).trans ((above 128 7 _ (a.toNat) 13 7 rfl a.isLt).trans (lowest 128 _ (d.toNat) 6 rfl d.isLt))
  have f3 : wordField w0 13 7 = a.toNat := by rw [hw]; exact (above 128 7 _ (b.toNat) 13 7 rfl b.isLt).trans (lowest 128 _ (a.toNat) 6 rfl a.isLt)
  have f4 : wordField w0 6 0 = b.toNat := by rw [hw]; exact lowest 128 _ (b.toNat) 6 rfl b.isLt
  rw [show encode (.imaxU d a b lit) = withLit w0 [a, b] lit from ew ▸ rfl, withLit_first]
  rw [major14 f0]
  simp only [decodeMajor14, f1, f2, f3, f4, BitVec.ofNat_toNat, BitVec.setWidth_eq]
  rw [show [a.toNat, b.toNat] = [a, b].map BitVec.toNat from rfl, litWord_withLit _ _ _ _ hl, litWords_withLit w0 _ lit]
  exact decodedIf_good _ _ hwf

theorem icmp (c : BitVec 5) (k : BitVec 3) (a : BitVec 7) (b : BitVec 7) (lit : BitVec 32) : Statement (.icmp c k a b lit) := by
  intro hcode hwf x
  clear hcode
  have hl : litOk [a, b] lit = true := by
    simp only [Instr.wellFormed, Bool.and_eq_true] at hwf
    exact hwf.1
  have s_c : c = 0#5 ∨ c = 1#5 ∨ c = 2#5 ∨ c = 3#5 ∨ c = 4#5 ∨ c = 5#5 ∨ c = 6#5 ∨ c = 7#5 ∨ c = 8#5 ∨ c = 9#5 ∨ c = 10#5 ∨ c = 11#5 ∨ c = 12#5 ∨ c = 13#5 ∨ c = 14#5 ∨ c = 15#5 ∨ c = 16#5 ∨ c = 17#5 ∨ c = 18#5 ∨ c = 19#5 ∨ c = 20#5 ∨ c = 21#5 ∨ c = 22#5 ∨ c = 23#5 ∨ c = 24#5 ∨ c = 25#5 ∨ c = 26#5 ∨ c = 27#5 ∨ c = 28#5 ∨ c = 29#5 ∨ c = 30#5 ∨ c = 31#5 := by clear hwf hl; revert c; decide
  rcases s_c with rfl | rfl | rfl | rfl | rfl | rfl | rfl | rfl | rfl | rfl | rfl | rfl | rfl | rfl | rfl | rfl | rfl | rfl | rfl | rfl | rfl | rfl | rfl | rfl | rfl | rfl | rfl | rfl | rfl | rfl | rfl | rfl
  · have b0 := k.isLt
    have b1 := a.isLt
    have b2 := b.isLt
    obtain ⟨w0, ew⟩ : ∃ w0, w0 = 0x54000000 + 0 * 0x200000 + k.toNat * 0x4000 + a.toNat * 0x80 + b.toNat := ⟨_, rfl⟩
    have hw : w0 = ((((21 * 32) * 16) * 8 + k.toNat) * 128 + a.toNat) * 128 + b.toNat := ew.trans (by clear ew; omega)
    have f0 : wordField w0 31 26 = 21 := by rw [hw]; exact (above 128 7 _ (b.toNat) 31 26 rfl b.isLt).trans ((above 128 7 _ (a.toNat) 24 19 rfl a.isLt).trans ((above 8 3 _ (k.toNat) 17 12 rfl k.isLt).trans ((above_zeros 16 4 _ 14 9 rfl).trans ((above_zeros 32 5 _ 10 5 rfl).trans (whole 64 (21) 5 rfl (by decide))))))
    have f1 : wordField w0 25 21 = 0 := by rw [hw]; exact (above 128 7 _ (b.toNat) 25 21 rfl b.isLt).trans ((above 128 7 _ (a.toNat) 18 14 rfl a.isLt).trans ((above 8 3 _ (k.toNat) 11 7 rfl k.isLt).trans ((above_zeros 16 4 _ 8 4 rfl).trans (lowest_zeros 32 _ 4 rfl))))
    have f2 : wordField w0 20 17 = 0 := by rw [hw]; exact (above 128 7 _ (b.toNat) 20 17 rfl b.isLt).trans ((above 128 7 _ (a.toNat) 13 10 rfl a.isLt).trans ((above 8 3 _ (k.toNat) 6 3 rfl k.isLt).trans (lowest_zeros 16 _ 3 rfl)))
    have f3 : wordField w0 16 14 = k.toNat := by rw [hw]; exact (above 128 7 _ (b.toNat) 16 14 rfl b.isLt).trans ((above 128 7 _ (a.toNat) 9 7 rfl a.isLt).trans (lowest 8 _ (k.toNat) 2 rfl k.isLt))
    have f4 : wordField w0 13 7 = a.toNat := by rw [hw]; exact (above 128 7 _ (b.toNat) 13 7 rfl b.isLt).trans (lowest 128 _ (a.toNat) 6 rfl a.isLt)
    have f5 : wordField w0 6 0 = b.toNat := by rw [hw]; exact lowest 128 _ (b.toNat) 6 rfl b.isLt
    rw [show encode (.icmp 0#5 k a b lit) = withLit w0 [a, b] lit from ew ▸ rfl, withLit_first]
    rw [major15 f0]
    simp only [decodeMajor15, f1, f2, f3, f4, f5, BitVec.ofNat_toNat, BitVec.setWidth_eq]
    rw [show [a.toNat, b.toNat] = [a, b].map BitVec.toNat from rfl, litWord_withLit _ _ _ _ hl, litWords_withLit w0 _ lit]
    exact decodedIf_good _ _ hwf
  · have b0 := k.isLt
    have b1 := a.isLt
    have b2 := b.isLt
    obtain ⟨w0, ew⟩ : ∃ w0, w0 = 0x54000000 + 1 * 0x200000 + k.toNat * 0x4000 + a.toNat * 0x80 + b.toNat := ⟨_, rfl⟩
    have hw : w0 = ((((21 * 32 + 1) * 16) * 8 + k.toNat) * 128 + a.toNat) * 128 + b.toNat := ew.trans (by clear ew; omega)
    have f0 : wordField w0 31 26 = 21 := by rw [hw]; exact (above 128 7 _ (b.toNat) 31 26 rfl b.isLt).trans ((above 128 7 _ (a.toNat) 24 19 rfl a.isLt).trans ((above 8 3 _ (k.toNat) 17 12 rfl k.isLt).trans ((above_zeros 16 4 _ 14 9 rfl).trans ((above 32 5 _ (1) 10 5 rfl (by decide)).trans (whole 64 (21) 5 rfl (by decide))))))
    have f1 : wordField w0 25 21 = 1 := by rw [hw]; exact (above 128 7 _ (b.toNat) 25 21 rfl b.isLt).trans ((above 128 7 _ (a.toNat) 18 14 rfl a.isLt).trans ((above 8 3 _ (k.toNat) 11 7 rfl k.isLt).trans ((above_zeros 16 4 _ 8 4 rfl).trans (lowest 32 _ (1) 4 rfl (by decide)))))
    have f2 : wordField w0 20 17 = 0 := by rw [hw]; exact (above 128 7 _ (b.toNat) 20 17 rfl b.isLt).trans ((above 128 7 _ (a.toNat) 13 10 rfl a.isLt).trans ((above 8 3 _ (k.toNat) 6 3 rfl k.isLt).trans (lowest_zeros 16 _ 3 rfl)))
    have f3 : wordField w0 16 14 = k.toNat := by rw [hw]; exact (above 128 7 _ (b.toNat) 16 14 rfl b.isLt).trans ((above 128 7 _ (a.toNat) 9 7 rfl a.isLt).trans (lowest 8 _ (k.toNat) 2 rfl k.isLt))
    have f4 : wordField w0 13 7 = a.toNat := by rw [hw]; exact (above 128 7 _ (b.toNat) 13 7 rfl b.isLt).trans (lowest 128 _ (a.toNat) 6 rfl a.isLt)
    have f5 : wordField w0 6 0 = b.toNat := by rw [hw]; exact lowest 128 _ (b.toNat) 6 rfl b.isLt
    rw [show encode (.icmp 1#5 k a b lit) = withLit w0 [a, b] lit from ew ▸ rfl, withLit_first]
    rw [major15 f0]
    simp only [decodeMajor15, f1, f2, f3, f4, f5, BitVec.ofNat_toNat, BitVec.setWidth_eq]
    rw [show [a.toNat, b.toNat] = [a, b].map BitVec.toNat from rfl, litWord_withLit _ _ _ _ hl, litWords_withLit w0 _ lit]
    exact decodedIf_good _ _ hwf
  · have b0 := k.isLt
    have b1 := a.isLt
    have b2 := b.isLt
    obtain ⟨w0, ew⟩ : ∃ w0, w0 = 0x54000000 + 2 * 0x200000 + k.toNat * 0x4000 + a.toNat * 0x80 + b.toNat := ⟨_, rfl⟩
    have hw : w0 = ((((21 * 32 + 2) * 16) * 8 + k.toNat) * 128 + a.toNat) * 128 + b.toNat := ew.trans (by clear ew; omega)
    have f0 : wordField w0 31 26 = 21 := by rw [hw]; exact (above 128 7 _ (b.toNat) 31 26 rfl b.isLt).trans ((above 128 7 _ (a.toNat) 24 19 rfl a.isLt).trans ((above 8 3 _ (k.toNat) 17 12 rfl k.isLt).trans ((above_zeros 16 4 _ 14 9 rfl).trans ((above 32 5 _ (2) 10 5 rfl (by decide)).trans (whole 64 (21) 5 rfl (by decide))))))
    have f1 : wordField w0 25 21 = 2 := by rw [hw]; exact (above 128 7 _ (b.toNat) 25 21 rfl b.isLt).trans ((above 128 7 _ (a.toNat) 18 14 rfl a.isLt).trans ((above 8 3 _ (k.toNat) 11 7 rfl k.isLt).trans ((above_zeros 16 4 _ 8 4 rfl).trans (lowest 32 _ (2) 4 rfl (by decide)))))
    have f2 : wordField w0 20 17 = 0 := by rw [hw]; exact (above 128 7 _ (b.toNat) 20 17 rfl b.isLt).trans ((above 128 7 _ (a.toNat) 13 10 rfl a.isLt).trans ((above 8 3 _ (k.toNat) 6 3 rfl k.isLt).trans (lowest_zeros 16 _ 3 rfl)))
    have f3 : wordField w0 16 14 = k.toNat := by rw [hw]; exact (above 128 7 _ (b.toNat) 16 14 rfl b.isLt).trans ((above 128 7 _ (a.toNat) 9 7 rfl a.isLt).trans (lowest 8 _ (k.toNat) 2 rfl k.isLt))
    have f4 : wordField w0 13 7 = a.toNat := by rw [hw]; exact (above 128 7 _ (b.toNat) 13 7 rfl b.isLt).trans (lowest 128 _ (a.toNat) 6 rfl a.isLt)
    have f5 : wordField w0 6 0 = b.toNat := by rw [hw]; exact lowest 128 _ (b.toNat) 6 rfl b.isLt
    rw [show encode (.icmp 2#5 k a b lit) = withLit w0 [a, b] lit from ew ▸ rfl, withLit_first]
    rw [major15 f0]
    simp only [decodeMajor15, f1, f2, f3, f4, f5, BitVec.ofNat_toNat, BitVec.setWidth_eq]
    rw [show [a.toNat, b.toNat] = [a, b].map BitVec.toNat from rfl, litWord_withLit _ _ _ _ hl, litWords_withLit w0 _ lit]
    exact decodedIf_good _ _ hwf
  · have b0 := k.isLt
    have b1 := a.isLt
    have b2 := b.isLt
    obtain ⟨w0, ew⟩ : ∃ w0, w0 = 0x54000000 + 3 * 0x200000 + k.toNat * 0x4000 + a.toNat * 0x80 + b.toNat := ⟨_, rfl⟩
    have hw : w0 = ((((21 * 32 + 3) * 16) * 8 + k.toNat) * 128 + a.toNat) * 128 + b.toNat := ew.trans (by clear ew; omega)
    have f0 : wordField w0 31 26 = 21 := by rw [hw]; exact (above 128 7 _ (b.toNat) 31 26 rfl b.isLt).trans ((above 128 7 _ (a.toNat) 24 19 rfl a.isLt).trans ((above 8 3 _ (k.toNat) 17 12 rfl k.isLt).trans ((above_zeros 16 4 _ 14 9 rfl).trans ((above 32 5 _ (3) 10 5 rfl (by decide)).trans (whole 64 (21) 5 rfl (by decide))))))
    have f1 : wordField w0 25 21 = 3 := by rw [hw]; exact (above 128 7 _ (b.toNat) 25 21 rfl b.isLt).trans ((above 128 7 _ (a.toNat) 18 14 rfl a.isLt).trans ((above 8 3 _ (k.toNat) 11 7 rfl k.isLt).trans ((above_zeros 16 4 _ 8 4 rfl).trans (lowest 32 _ (3) 4 rfl (by decide)))))
    have f2 : wordField w0 20 17 = 0 := by rw [hw]; exact (above 128 7 _ (b.toNat) 20 17 rfl b.isLt).trans ((above 128 7 _ (a.toNat) 13 10 rfl a.isLt).trans ((above 8 3 _ (k.toNat) 6 3 rfl k.isLt).trans (lowest_zeros 16 _ 3 rfl)))
    have f3 : wordField w0 16 14 = k.toNat := by rw [hw]; exact (above 128 7 _ (b.toNat) 16 14 rfl b.isLt).trans ((above 128 7 _ (a.toNat) 9 7 rfl a.isLt).trans (lowest 8 _ (k.toNat) 2 rfl k.isLt))
    have f4 : wordField w0 13 7 = a.toNat := by rw [hw]; exact (above 128 7 _ (b.toNat) 13 7 rfl b.isLt).trans (lowest 128 _ (a.toNat) 6 rfl a.isLt)
    have f5 : wordField w0 6 0 = b.toNat := by rw [hw]; exact lowest 128 _ (b.toNat) 6 rfl b.isLt
    rw [show encode (.icmp 3#5 k a b lit) = withLit w0 [a, b] lit from ew ▸ rfl, withLit_first]
    rw [major15 f0]
    simp only [decodeMajor15, f1, f2, f3, f4, f5, BitVec.ofNat_toNat, BitVec.setWidth_eq]
    rw [show [a.toNat, b.toNat] = [a, b].map BitVec.toNat from rfl, litWord_withLit _ _ _ _ hl, litWords_withLit w0 _ lit]
    exact decodedIf_good _ _ hwf
  · have b0 := k.isLt
    have b1 := a.isLt
    have b2 := b.isLt
    obtain ⟨w0, ew⟩ : ∃ w0, w0 = 0x54000000 + 4 * 0x200000 + k.toNat * 0x4000 + a.toNat * 0x80 + b.toNat := ⟨_, rfl⟩
    have hw : w0 = ((((21 * 32 + 4) * 16) * 8 + k.toNat) * 128 + a.toNat) * 128 + b.toNat := ew.trans (by clear ew; omega)
    have f0 : wordField w0 31 26 = 21 := by rw [hw]; exact (above 128 7 _ (b.toNat) 31 26 rfl b.isLt).trans ((above 128 7 _ (a.toNat) 24 19 rfl a.isLt).trans ((above 8 3 _ (k.toNat) 17 12 rfl k.isLt).trans ((above_zeros 16 4 _ 14 9 rfl).trans ((above 32 5 _ (4) 10 5 rfl (by decide)).trans (whole 64 (21) 5 rfl (by decide))))))
    have f1 : wordField w0 25 21 = 4 := by rw [hw]; exact (above 128 7 _ (b.toNat) 25 21 rfl b.isLt).trans ((above 128 7 _ (a.toNat) 18 14 rfl a.isLt).trans ((above 8 3 _ (k.toNat) 11 7 rfl k.isLt).trans ((above_zeros 16 4 _ 8 4 rfl).trans (lowest 32 _ (4) 4 rfl (by decide)))))
    have f2 : wordField w0 20 17 = 0 := by rw [hw]; exact (above 128 7 _ (b.toNat) 20 17 rfl b.isLt).trans ((above 128 7 _ (a.toNat) 13 10 rfl a.isLt).trans ((above 8 3 _ (k.toNat) 6 3 rfl k.isLt).trans (lowest_zeros 16 _ 3 rfl)))
    have f3 : wordField w0 16 14 = k.toNat := by rw [hw]; exact (above 128 7 _ (b.toNat) 16 14 rfl b.isLt).trans ((above 128 7 _ (a.toNat) 9 7 rfl a.isLt).trans (lowest 8 _ (k.toNat) 2 rfl k.isLt))
    have f4 : wordField w0 13 7 = a.toNat := by rw [hw]; exact (above 128 7 _ (b.toNat) 13 7 rfl b.isLt).trans (lowest 128 _ (a.toNat) 6 rfl a.isLt)
    have f5 : wordField w0 6 0 = b.toNat := by rw [hw]; exact lowest 128 _ (b.toNat) 6 rfl b.isLt
    rw [show encode (.icmp 4#5 k a b lit) = withLit w0 [a, b] lit from ew ▸ rfl, withLit_first]
    rw [major15 f0]
    simp only [decodeMajor15, f1, f2, f3, f4, f5, BitVec.ofNat_toNat, BitVec.setWidth_eq]
    rw [show [a.toNat, b.toNat] = [a, b].map BitVec.toNat from rfl, litWord_withLit _ _ _ _ hl, litWords_withLit w0 _ lit]
    exact decodedIf_good _ _ hwf
  · have b0 := k.isLt
    have b1 := a.isLt
    have b2 := b.isLt
    obtain ⟨w0, ew⟩ : ∃ w0, w0 = 0x54000000 + 5 * 0x200000 + k.toNat * 0x4000 + a.toNat * 0x80 + b.toNat := ⟨_, rfl⟩
    have hw : w0 = ((((21 * 32 + 5) * 16) * 8 + k.toNat) * 128 + a.toNat) * 128 + b.toNat := ew.trans (by clear ew; omega)
    have f0 : wordField w0 31 26 = 21 := by rw [hw]; exact (above 128 7 _ (b.toNat) 31 26 rfl b.isLt).trans ((above 128 7 _ (a.toNat) 24 19 rfl a.isLt).trans ((above 8 3 _ (k.toNat) 17 12 rfl k.isLt).trans ((above_zeros 16 4 _ 14 9 rfl).trans ((above 32 5 _ (5) 10 5 rfl (by decide)).trans (whole 64 (21) 5 rfl (by decide))))))
    have f1 : wordField w0 25 21 = 5 := by rw [hw]; exact (above 128 7 _ (b.toNat) 25 21 rfl b.isLt).trans ((above 128 7 _ (a.toNat) 18 14 rfl a.isLt).trans ((above 8 3 _ (k.toNat) 11 7 rfl k.isLt).trans ((above_zeros 16 4 _ 8 4 rfl).trans (lowest 32 _ (5) 4 rfl (by decide)))))
    have f2 : wordField w0 20 17 = 0 := by rw [hw]; exact (above 128 7 _ (b.toNat) 20 17 rfl b.isLt).trans ((above 128 7 _ (a.toNat) 13 10 rfl a.isLt).trans ((above 8 3 _ (k.toNat) 6 3 rfl k.isLt).trans (lowest_zeros 16 _ 3 rfl)))
    have f3 : wordField w0 16 14 = k.toNat := by rw [hw]; exact (above 128 7 _ (b.toNat) 16 14 rfl b.isLt).trans ((above 128 7 _ (a.toNat) 9 7 rfl a.isLt).trans (lowest 8 _ (k.toNat) 2 rfl k.isLt))
    have f4 : wordField w0 13 7 = a.toNat := by rw [hw]; exact (above 128 7 _ (b.toNat) 13 7 rfl b.isLt).trans (lowest 128 _ (a.toNat) 6 rfl a.isLt)
    have f5 : wordField w0 6 0 = b.toNat := by rw [hw]; exact lowest 128 _ (b.toNat) 6 rfl b.isLt
    rw [show encode (.icmp 5#5 k a b lit) = withLit w0 [a, b] lit from ew ▸ rfl, withLit_first]
    rw [major15 f0]
    simp only [decodeMajor15, f1, f2, f3, f4, f5, BitVec.ofNat_toNat, BitVec.setWidth_eq]
    rw [show [a.toNat, b.toNat] = [a, b].map BitVec.toNat from rfl, litWord_withLit _ _ _ _ hl, litWords_withLit w0 _ lit]
    exact decodedIf_good _ _ hwf
  · have b0 := k.isLt
    have b1 := a.isLt
    have b2 := b.isLt
    obtain ⟨w0, ew⟩ : ∃ w0, w0 = 0x54000000 + 6 * 0x200000 + k.toNat * 0x4000 + a.toNat * 0x80 + b.toNat := ⟨_, rfl⟩
    have hw : w0 = ((((21 * 32 + 6) * 16) * 8 + k.toNat) * 128 + a.toNat) * 128 + b.toNat := ew.trans (by clear ew; omega)
    have f0 : wordField w0 31 26 = 21 := by rw [hw]; exact (above 128 7 _ (b.toNat) 31 26 rfl b.isLt).trans ((above 128 7 _ (a.toNat) 24 19 rfl a.isLt).trans ((above 8 3 _ (k.toNat) 17 12 rfl k.isLt).trans ((above_zeros 16 4 _ 14 9 rfl).trans ((above 32 5 _ (6) 10 5 rfl (by decide)).trans (whole 64 (21) 5 rfl (by decide))))))
    have f1 : wordField w0 25 21 = 6 := by rw [hw]; exact (above 128 7 _ (b.toNat) 25 21 rfl b.isLt).trans ((above 128 7 _ (a.toNat) 18 14 rfl a.isLt).trans ((above 8 3 _ (k.toNat) 11 7 rfl k.isLt).trans ((above_zeros 16 4 _ 8 4 rfl).trans (lowest 32 _ (6) 4 rfl (by decide)))))
    have f2 : wordField w0 20 17 = 0 := by rw [hw]; exact (above 128 7 _ (b.toNat) 20 17 rfl b.isLt).trans ((above 128 7 _ (a.toNat) 13 10 rfl a.isLt).trans ((above 8 3 _ (k.toNat) 6 3 rfl k.isLt).trans (lowest_zeros 16 _ 3 rfl)))
    have f3 : wordField w0 16 14 = k.toNat := by rw [hw]; exact (above 128 7 _ (b.toNat) 16 14 rfl b.isLt).trans ((above 128 7 _ (a.toNat) 9 7 rfl a.isLt).trans (lowest 8 _ (k.toNat) 2 rfl k.isLt))
    have f4 : wordField w0 13 7 = a.toNat := by rw [hw]; exact (above 128 7 _ (b.toNat) 13 7 rfl b.isLt).trans (lowest 128 _ (a.toNat) 6 rfl a.isLt)
    have f5 : wordField w0 6 0 = b.toNat := by rw [hw]; exact lowest 128 _ (b.toNat) 6 rfl b.isLt
    rw [show encode (.icmp 6#5 k a b lit) = withLit w0 [a, b] lit from ew ▸ rfl, withLit_first]
    rw [major15 f0]
    simp only [decodeMajor15, f1, f2, f3, f4, f5, BitVec.ofNat_toNat, BitVec.setWidth_eq]
    rw [show [a.toNat, b.toNat] = [a, b].map BitVec.toNat from rfl, litWord_withLit _ _ _ _ hl, litWords_withLit w0 _ lit]
    exact decodedIf_good _ _ hwf
  · have b0 := k.isLt
    have b1 := a.isLt
    have b2 := b.isLt
    obtain ⟨w0, ew⟩ : ∃ w0, w0 = 0x54000000 + 7 * 0x200000 + k.toNat * 0x4000 + a.toNat * 0x80 + b.toNat := ⟨_, rfl⟩
    have hw : w0 = ((((21 * 32 + 7) * 16) * 8 + k.toNat) * 128 + a.toNat) * 128 + b.toNat := ew.trans (by clear ew; omega)
    have f0 : wordField w0 31 26 = 21 := by rw [hw]; exact (above 128 7 _ (b.toNat) 31 26 rfl b.isLt).trans ((above 128 7 _ (a.toNat) 24 19 rfl a.isLt).trans ((above 8 3 _ (k.toNat) 17 12 rfl k.isLt).trans ((above_zeros 16 4 _ 14 9 rfl).trans ((above 32 5 _ (7) 10 5 rfl (by decide)).trans (whole 64 (21) 5 rfl (by decide))))))
    have f1 : wordField w0 25 21 = 7 := by rw [hw]; exact (above 128 7 _ (b.toNat) 25 21 rfl b.isLt).trans ((above 128 7 _ (a.toNat) 18 14 rfl a.isLt).trans ((above 8 3 _ (k.toNat) 11 7 rfl k.isLt).trans ((above_zeros 16 4 _ 8 4 rfl).trans (lowest 32 _ (7) 4 rfl (by decide)))))
    have f2 : wordField w0 20 17 = 0 := by rw [hw]; exact (above 128 7 _ (b.toNat) 20 17 rfl b.isLt).trans ((above 128 7 _ (a.toNat) 13 10 rfl a.isLt).trans ((above 8 3 _ (k.toNat) 6 3 rfl k.isLt).trans (lowest_zeros 16 _ 3 rfl)))
    have f3 : wordField w0 16 14 = k.toNat := by rw [hw]; exact (above 128 7 _ (b.toNat) 16 14 rfl b.isLt).trans ((above 128 7 _ (a.toNat) 9 7 rfl a.isLt).trans (lowest 8 _ (k.toNat) 2 rfl k.isLt))
    have f4 : wordField w0 13 7 = a.toNat := by rw [hw]; exact (above 128 7 _ (b.toNat) 13 7 rfl b.isLt).trans (lowest 128 _ (a.toNat) 6 rfl a.isLt)
    have f5 : wordField w0 6 0 = b.toNat := by rw [hw]; exact lowest 128 _ (b.toNat) 6 rfl b.isLt
    rw [show encode (.icmp 7#5 k a b lit) = withLit w0 [a, b] lit from ew ▸ rfl, withLit_first]
    rw [major15 f0]
    simp only [decodeMajor15, f1, f2, f3, f4, f5, BitVec.ofNat_toNat, BitVec.setWidth_eq]
    rw [show [a.toNat, b.toNat] = [a, b].map BitVec.toNat from rfl, litWord_withLit _ _ _ _ hl, litWords_withLit w0 _ lit]
    exact decodedIf_good _ _ hwf
  · have b0 := k.isLt
    have b1 := a.isLt
    have b2 := b.isLt
    obtain ⟨w0, ew⟩ : ∃ w0, w0 = 0x54000000 + 8 * 0x200000 + k.toNat * 0x4000 + a.toNat * 0x80 + b.toNat := ⟨_, rfl⟩
    have hw : w0 = ((((21 * 32 + 8) * 16) * 8 + k.toNat) * 128 + a.toNat) * 128 + b.toNat := ew.trans (by clear ew; omega)
    have f0 : wordField w0 31 26 = 21 := by rw [hw]; exact (above 128 7 _ (b.toNat) 31 26 rfl b.isLt).trans ((above 128 7 _ (a.toNat) 24 19 rfl a.isLt).trans ((above 8 3 _ (k.toNat) 17 12 rfl k.isLt).trans ((above_zeros 16 4 _ 14 9 rfl).trans ((above 32 5 _ (8) 10 5 rfl (by decide)).trans (whole 64 (21) 5 rfl (by decide))))))
    have f1 : wordField w0 25 21 = 8 := by rw [hw]; exact (above 128 7 _ (b.toNat) 25 21 rfl b.isLt).trans ((above 128 7 _ (a.toNat) 18 14 rfl a.isLt).trans ((above 8 3 _ (k.toNat) 11 7 rfl k.isLt).trans ((above_zeros 16 4 _ 8 4 rfl).trans (lowest 32 _ (8) 4 rfl (by decide)))))
    have f2 : wordField w0 20 17 = 0 := by rw [hw]; exact (above 128 7 _ (b.toNat) 20 17 rfl b.isLt).trans ((above 128 7 _ (a.toNat) 13 10 rfl a.isLt).trans ((above 8 3 _ (k.toNat) 6 3 rfl k.isLt).trans (lowest_zeros 16 _ 3 rfl)))
    have f3 : wordField w0 16 14 = k.toNat := by rw [hw]; exact (above 128 7 _ (b.toNat) 16 14 rfl b.isLt).trans ((above 128 7 _ (a.toNat) 9 7 rfl a.isLt).trans (lowest 8 _ (k.toNat) 2 rfl k.isLt))
    have f4 : wordField w0 13 7 = a.toNat := by rw [hw]; exact (above 128 7 _ (b.toNat) 13 7 rfl b.isLt).trans (lowest 128 _ (a.toNat) 6 rfl a.isLt)
    have f5 : wordField w0 6 0 = b.toNat := by rw [hw]; exact lowest 128 _ (b.toNat) 6 rfl b.isLt
    rw [show encode (.icmp 8#5 k a b lit) = withLit w0 [a, b] lit from ew ▸ rfl, withLit_first]
    rw [major15 f0]
    simp only [decodeMajor15, f1, f2, f3, f4, f5, BitVec.ofNat_toNat, BitVec.setWidth_eq]
    rw [show [a.toNat, b.toNat] = [a, b].map BitVec.toNat from rfl, litWord_withLit _ _ _ _ hl, litWords_withLit w0 _ lit]
    exact decodedIf_good _ _ hwf
  · have b0 := k.isLt
    have b1 := a.isLt
    have b2 := b.isLt
    obtain ⟨w0, ew⟩ : ∃ w0, w0 = 0x54000000 + 9 * 0x200000 + k.toNat * 0x4000 + a.toNat * 0x80 + b.toNat := ⟨_, rfl⟩
    have hw : w0 = ((((21 * 32 + 9) * 16) * 8 + k.toNat) * 128 + a.toNat) * 128 + b.toNat := ew.trans (by clear ew; omega)
    have f0 : wordField w0 31 26 = 21 := by rw [hw]; exact (above 128 7 _ (b.toNat) 31 26 rfl b.isLt).trans ((above 128 7 _ (a.toNat) 24 19 rfl a.isLt).trans ((above 8 3 _ (k.toNat) 17 12 rfl k.isLt).trans ((above_zeros 16 4 _ 14 9 rfl).trans ((above 32 5 _ (9) 10 5 rfl (by decide)).trans (whole 64 (21) 5 rfl (by decide))))))
    have f1 : wordField w0 25 21 = 9 := by rw [hw]; exact (above 128 7 _ (b.toNat) 25 21 rfl b.isLt).trans ((above 128 7 _ (a.toNat) 18 14 rfl a.isLt).trans ((above 8 3 _ (k.toNat) 11 7 rfl k.isLt).trans ((above_zeros 16 4 _ 8 4 rfl).trans (lowest 32 _ (9) 4 rfl (by decide)))))
    have f2 : wordField w0 20 17 = 0 := by rw [hw]; exact (above 128 7 _ (b.toNat) 20 17 rfl b.isLt).trans ((above 128 7 _ (a.toNat) 13 10 rfl a.isLt).trans ((above 8 3 _ (k.toNat) 6 3 rfl k.isLt).trans (lowest_zeros 16 _ 3 rfl)))
    have f3 : wordField w0 16 14 = k.toNat := by rw [hw]; exact (above 128 7 _ (b.toNat) 16 14 rfl b.isLt).trans ((above 128 7 _ (a.toNat) 9 7 rfl a.isLt).trans (lowest 8 _ (k.toNat) 2 rfl k.isLt))
    have f4 : wordField w0 13 7 = a.toNat := by rw [hw]; exact (above 128 7 _ (b.toNat) 13 7 rfl b.isLt).trans (lowest 128 _ (a.toNat) 6 rfl a.isLt)
    have f5 : wordField w0 6 0 = b.toNat := by rw [hw]; exact lowest 128 _ (b.toNat) 6 rfl b.isLt
    rw [show encode (.icmp 9#5 k a b lit) = withLit w0 [a, b] lit from ew ▸ rfl, withLit_first]
    rw [major15 f0]
    simp only [decodeMajor15, f1, f2, f3, f4, f5, BitVec.ofNat_toNat, BitVec.setWidth_eq]
    rw [show [a.toNat, b.toNat] = [a, b].map BitVec.toNat from rfl, litWord_withLit _ _ _ _ hl, litWords_withLit w0 _ lit]
    exact decodedIf_good _ _ hwf
  · exact absurd hwf (by simp [Instr.wellFormed])
  · exact absurd hwf (by simp [Instr.wellFormed])
  · exact absurd hwf (by simp [Instr.wellFormed])
  · exact absurd hwf (by simp [Instr.wellFormed])
  · exact absurd hwf (by simp [Instr.wellFormed])
  · exact absurd hwf (by simp [Instr.wellFormed])
  · exact absurd hwf (by simp [Instr.wellFormed])
  · exact absurd hwf (by simp [Instr.wellFormed])
  · exact absurd hwf (by simp [Instr.wellFormed])
  · exact absurd hwf (by simp [Instr.wellFormed])
  · exact absurd hwf (by simp [Instr.wellFormed])
  · exact absurd hwf (by simp [Instr.wellFormed])
  · exact absurd hwf (by simp [Instr.wellFormed])
  · exact absurd hwf (by simp [Instr.wellFormed])
  · exact absurd hwf (by simp [Instr.wellFormed])
  · exact absurd hwf (by simp [Instr.wellFormed])
  · exact absurd hwf (by simp [Instr.wellFormed])
  · exact absurd hwf (by simp [Instr.wellFormed])
  · exact absurd hwf (by simp [Instr.wellFormed])
  · exact absurd hwf (by simp [Instr.wellFormed])
  · exact absurd hwf (by simp [Instr.wellFormed])
  · exact absurd hwf (by simp [Instr.wellFormed])

theorem popc (d : BitVec 7) (a : BitVec 7) (lit : BitVec 32) : Statement (.popc d a lit) := by
  intro hcode hwf x
  clear hcode
  have hl : litOk [a] lit = true := by
    simp only [Instr.wellFormed, Bool.and_eq_true] at hwf
    exact hwf
  have b0 := d.isLt
  have b1 := a.isLt
  obtain ⟨w0, ew⟩ : ∃ w0, w0 = 0x58000000 + d.toNat * 0x4000 + a.toNat * 0x80 := ⟨_, rfl⟩
  have hw : w0 = (((22 * 32) * 128 + d.toNat) * 128 + a.toNat) * 128 := ew.trans (by clear ew; omega)
  have f0 : wordField w0 31 26 = 22 := by rw [hw]; exact (above_zeros 128 7 _ 31 26 rfl).trans ((above 128 7 _ (a.toNat) 24 19 rfl a.isLt).trans ((above 128 7 _ (d.toNat) 17 12 rfl d.isLt).trans ((above_zeros 32 5 _ 10 5 rfl).trans (whole 64 (22) 5 rfl (by decide)))))
  have f1 : wordField w0 25 21 = 0 := by rw [hw]; exact (above_zeros 128 7 _ 25 21 rfl).trans ((above 128 7 _ (a.toNat) 18 14 rfl a.isLt).trans ((above 128 7 _ (d.toNat) 11 7 rfl d.isLt).trans (lowest_zeros 32 _ 4 rfl)))
  have f2 : wordField w0 20 14 = d.toNat := by rw [hw]; exact (above_zeros 128 7 _ 20 14 rfl).trans ((above 128 7 _ (a.toNat) 13 7 rfl a.isLt).trans (lowest 128 _ (d.toNat) 6 rfl d.isLt))
  have f3 : wordField w0 13 7 = a.toNat := by rw [hw]; exact (above_zeros 128 7 _ 13 7 rfl).trans (lowest 128 _ (a.toNat) 6 rfl a.isLt)
  have f4 : wordField w0 6 0 = 0 := by rw [hw]; exact lowest_zeros 128 _ 6 rfl
  rw [show encode (.popc d a lit) = withLit w0 [a] lit from ew ▸ rfl, withLit_first]
  rw [major16 f0]
  simp only [decodeMajor16, f1, f2, f3, f4, BitVec.ofNat_toNat, BitVec.setWidth_eq]
  rw [show [a.toNat] = [a].map BitVec.toNat from rfl, litWord_withLit _ _ _ _ hl, litWords_withLit w0 _ lit]
  exact decodedIf_good _ _ hwf

theorem clz (d : BitVec 7) (a : BitVec 7) (lit : BitVec 32) : Statement (.clz d a lit) := by
  intro hcode hwf x
  clear hcode
  have hl : litOk [a] lit = true := by
    simp only [Instr.wellFormed, Bool.and_eq_true] at hwf
    exact hwf
  have b0 := d.isLt
  have b1 := a.isLt
  obtain ⟨w0, ew⟩ : ∃ w0, w0 = 0x58200000 + d.toNat * 0x4000 + a.toNat * 0x80 := ⟨_, rfl⟩
  have hw : w0 = (((22 * 32 + 1) * 128 + d.toNat) * 128 + a.toNat) * 128 := ew.trans (by clear ew; omega)
  have f0 : wordField w0 31 26 = 22 := by rw [hw]; exact (above_zeros 128 7 _ 31 26 rfl).trans ((above 128 7 _ (a.toNat) 24 19 rfl a.isLt).trans ((above 128 7 _ (d.toNat) 17 12 rfl d.isLt).trans ((above 32 5 _ (1) 10 5 rfl (by decide)).trans (whole 64 (22) 5 rfl (by decide)))))
  have f1 : wordField w0 25 21 = 1 := by rw [hw]; exact (above_zeros 128 7 _ 25 21 rfl).trans ((above 128 7 _ (a.toNat) 18 14 rfl a.isLt).trans ((above 128 7 _ (d.toNat) 11 7 rfl d.isLt).trans (lowest 32 _ (1) 4 rfl (by decide))))
  have f2 : wordField w0 20 14 = d.toNat := by rw [hw]; exact (above_zeros 128 7 _ 20 14 rfl).trans ((above 128 7 _ (a.toNat) 13 7 rfl a.isLt).trans (lowest 128 _ (d.toNat) 6 rfl d.isLt))
  have f3 : wordField w0 13 7 = a.toNat := by rw [hw]; exact (above_zeros 128 7 _ 13 7 rfl).trans (lowest 128 _ (a.toNat) 6 rfl a.isLt)
  have f4 : wordField w0 6 0 = 0 := by rw [hw]; exact lowest_zeros 128 _ 6 rfl
  rw [show encode (.clz d a lit) = withLit w0 [a] lit from ew ▸ rfl, withLit_first]
  rw [major16 f0]
  simp only [decodeMajor16, f1, f2, f3, f4, BitVec.ofNat_toNat, BitVec.setWidth_eq]
  rw [show [a.toNat] = [a].map BitVec.toNat from rfl, litWord_withLit _ _ _ _ hl, litWords_withLit w0 _ lit]
  exact decodedIf_good _ _ hwf

theorem brev (d : BitVec 7) (a : BitVec 7) (lit : BitVec 32) : Statement (.brev d a lit) := by
  intro hcode hwf x
  clear hcode
  have hl : litOk [a] lit = true := by
    simp only [Instr.wellFormed, Bool.and_eq_true] at hwf
    exact hwf
  have b0 := d.isLt
  have b1 := a.isLt
  obtain ⟨w0, ew⟩ : ∃ w0, w0 = 0x58400000 + d.toNat * 0x4000 + a.toNat * 0x80 := ⟨_, rfl⟩
  have hw : w0 = (((22 * 32 + 2) * 128 + d.toNat) * 128 + a.toNat) * 128 := ew.trans (by clear ew; omega)
  have f0 : wordField w0 31 26 = 22 := by rw [hw]; exact (above_zeros 128 7 _ 31 26 rfl).trans ((above 128 7 _ (a.toNat) 24 19 rfl a.isLt).trans ((above 128 7 _ (d.toNat) 17 12 rfl d.isLt).trans ((above 32 5 _ (2) 10 5 rfl (by decide)).trans (whole 64 (22) 5 rfl (by decide)))))
  have f1 : wordField w0 25 21 = 2 := by rw [hw]; exact (above_zeros 128 7 _ 25 21 rfl).trans ((above 128 7 _ (a.toNat) 18 14 rfl a.isLt).trans ((above 128 7 _ (d.toNat) 11 7 rfl d.isLt).trans (lowest 32 _ (2) 4 rfl (by decide))))
  have f2 : wordField w0 20 14 = d.toNat := by rw [hw]; exact (above_zeros 128 7 _ 20 14 rfl).trans ((above 128 7 _ (a.toNat) 13 7 rfl a.isLt).trans (lowest 128 _ (d.toNat) 6 rfl d.isLt))
  have f3 : wordField w0 13 7 = a.toNat := by rw [hw]; exact (above_zeros 128 7 _ 13 7 rfl).trans (lowest 128 _ (a.toNat) 6 rfl a.isLt)
  have f4 : wordField w0 6 0 = 0 := by rw [hw]; exact lowest_zeros 128 _ 6 rfl
  rw [show encode (.brev d a lit) = withLit w0 [a] lit from ew ▸ rfl, withLit_first]
  rw [major16 f0]
  simp only [decodeMajor16, f1, f2, f3, f4, BitVec.ofNat_toNat, BitVec.setWidth_eq]
  rw [show [a.toNat] = [a].map BitVec.toNat from rfl, litWord_withLit _ _ _ _ hl, litWords_withLit w0 _ lit]
  exact decodedIf_good _ _ hwf

theorem bfe (d : BitVec 7) (a : BitVec 7) (b : BitVec 7) (lit : BitVec 32) : Statement (.bfe d a b lit) := by
  intro hcode hwf x
  clear hcode
  have hl : litOk [a, b] lit = true := by
    simp only [Instr.wellFormed, Bool.and_eq_true] at hwf
    exact hwf
  have b0 := d.isLt
  have b1 := a.isLt
  have b2 := b.isLt
  obtain ⟨w0, ew⟩ : ∃ w0, w0 = 0x58600000 + d.toNat * 0x4000 + a.toNat * 0x80 + b.toNat := ⟨_, rfl⟩
  have hw : w0 = (((22 * 32 + 3) * 128 + d.toNat) * 128 + a.toNat) * 128 + b.toNat := ew.trans (by clear ew; omega)
  have f0 : wordField w0 31 26 = 22 := by rw [hw]; exact (above 128 7 _ (b.toNat) 31 26 rfl b.isLt).trans ((above 128 7 _ (a.toNat) 24 19 rfl a.isLt).trans ((above 128 7 _ (d.toNat) 17 12 rfl d.isLt).trans ((above 32 5 _ (3) 10 5 rfl (by decide)).trans (whole 64 (22) 5 rfl (by decide)))))
  have f1 : wordField w0 25 21 = 3 := by rw [hw]; exact (above 128 7 _ (b.toNat) 25 21 rfl b.isLt).trans ((above 128 7 _ (a.toNat) 18 14 rfl a.isLt).trans ((above 128 7 _ (d.toNat) 11 7 rfl d.isLt).trans (lowest 32 _ (3) 4 rfl (by decide))))
  have f2 : wordField w0 20 14 = d.toNat := by rw [hw]; exact (above 128 7 _ (b.toNat) 20 14 rfl b.isLt).trans ((above 128 7 _ (a.toNat) 13 7 rfl a.isLt).trans (lowest 128 _ (d.toNat) 6 rfl d.isLt))
  have f3 : wordField w0 13 7 = a.toNat := by rw [hw]; exact (above 128 7 _ (b.toNat) 13 7 rfl b.isLt).trans (lowest 128 _ (a.toNat) 6 rfl a.isLt)
  have f4 : wordField w0 6 0 = b.toNat := by rw [hw]; exact lowest 128 _ (b.toNat) 6 rfl b.isLt
  rw [show encode (.bfe d a b lit) = withLit w0 [a, b] lit from ew ▸ rfl, withLit_first]
  rw [major16 f0]
  simp only [decodeMajor16, f1, f2, f3, f4, BitVec.ofNat_toNat, BitVec.setWidth_eq]
  rw [show [a.toNat, b.toNat] = [a, b].map BitVec.toNat from rfl, litWord_withLit _ _ _ _ hl, litWords_withLit w0 _ lit]
  exact decodedIf_good _ _ hwf

theorem bfeS (d : BitVec 7) (a : BitVec 7) (b : BitVec 7) (lit : BitVec 32) : Statement (.bfeS d a b lit) := by
  intro hcode hwf x
  clear hcode
  have hl : litOk [a, b] lit = true := by
    simp only [Instr.wellFormed, Bool.and_eq_true] at hwf
    exact hwf
  have b0 := d.isLt
  have b1 := a.isLt
  have b2 := b.isLt
  obtain ⟨w0, ew⟩ : ∃ w0, w0 = 0x58800000 + d.toNat * 0x4000 + a.toNat * 0x80 + b.toNat := ⟨_, rfl⟩
  have hw : w0 = (((22 * 32 + 4) * 128 + d.toNat) * 128 + a.toNat) * 128 + b.toNat := ew.trans (by clear ew; omega)
  have f0 : wordField w0 31 26 = 22 := by rw [hw]; exact (above 128 7 _ (b.toNat) 31 26 rfl b.isLt).trans ((above 128 7 _ (a.toNat) 24 19 rfl a.isLt).trans ((above 128 7 _ (d.toNat) 17 12 rfl d.isLt).trans ((above 32 5 _ (4) 10 5 rfl (by decide)).trans (whole 64 (22) 5 rfl (by decide)))))
  have f1 : wordField w0 25 21 = 4 := by rw [hw]; exact (above 128 7 _ (b.toNat) 25 21 rfl b.isLt).trans ((above 128 7 _ (a.toNat) 18 14 rfl a.isLt).trans ((above 128 7 _ (d.toNat) 11 7 rfl d.isLt).trans (lowest 32 _ (4) 4 rfl (by decide))))
  have f2 : wordField w0 20 14 = d.toNat := by rw [hw]; exact (above 128 7 _ (b.toNat) 20 14 rfl b.isLt).trans ((above 128 7 _ (a.toNat) 13 7 rfl a.isLt).trans (lowest 128 _ (d.toNat) 6 rfl d.isLt))
  have f3 : wordField w0 13 7 = a.toNat := by rw [hw]; exact (above 128 7 _ (b.toNat) 13 7 rfl b.isLt).trans (lowest 128 _ (a.toNat) 6 rfl a.isLt)
  have f4 : wordField w0 6 0 = b.toNat := by rw [hw]; exact lowest 128 _ (b.toNat) 6 rfl b.isLt
  rw [show encode (.bfeS d a b lit) = withLit w0 [a, b] lit from ew ▸ rfl, withLit_first]
  rw [major16 f0]
  simp only [decodeMajor16, f1, f2, f3, f4, BitVec.ofNat_toNat, BitVec.setWidth_eq]
  rw [show [a.toNat, b.toNat] = [a, b].map BitVec.toNat from rfl, litWord_withLit _ _ _ _ hl, litWords_withLit w0 _ lit]
  exact decodedIf_good _ _ hwf

theorem bfi (d : BitVec 7) (a : BitVec 7) (b : BitVec 7) (c : BitVec 7) : Statement (.bfi d a b c) := by
  intro hcode hwf x
  clear hcode
  have b0 := d.isLt
  have b1 := a.isLt
  have b2 := b.isLt
  have b3 := c.isLt
  obtain ⟨w0, ew⟩ : ∃ w0, w0 = 0x58A00000 + d.toNat * 0x4000 + a.toNat * 0x80 + b.toNat := ⟨_, rfl⟩
  have hw : w0 = (((22 * 32 + 5) * 128 + d.toNat) * 128 + a.toNat) * 128 + b.toNat := ew.trans (by clear ew; omega)
  obtain ⟨w1, ev⟩ : ∃ w1, w1 = c.toNat := ⟨_, rfl⟩
  have hv : w1 = 0 * 128 + c.toNat := ev.trans (by clear ew ev; omega)
  have f0 : wordField w0 31 26 = 22 := by rw [hw]; exact (above 128 7 _ (b.toNat) 31 26 rfl b.isLt).trans ((above 128 7 _ (a.toNat) 24 19 rfl a.isLt).trans ((above 128 7 _ (d.toNat) 17 12 rfl d.isLt).trans ((above 32 5 _ (5) 10 5 rfl (by decide)).trans (whole 64 (22) 5 rfl (by decide)))))
  have f1 : wordField w0 25 21 = 5 := by rw [hw]; exact (above 128 7 _ (b.toNat) 25 21 rfl b.isLt).trans ((above 128 7 _ (a.toNat) 18 14 rfl a.isLt).trans ((above 128 7 _ (d.toNat) 11 7 rfl d.isLt).trans (lowest 32 _ (5) 4 rfl (by decide))))
  have f2 : wordField w0 20 14 = d.toNat := by rw [hw]; exact (above 128 7 _ (b.toNat) 20 14 rfl b.isLt).trans ((above 128 7 _ (a.toNat) 13 7 rfl a.isLt).trans (lowest 128 _ (d.toNat) 6 rfl d.isLt))
  have f3 : wordField w0 13 7 = a.toNat := by rw [hw]; exact (above 128 7 _ (b.toNat) 13 7 rfl b.isLt).trans (lowest 128 _ (a.toNat) 6 rfl a.isLt)
  have f4 : wordField w0 6 0 = b.toNat := by rw [hw]; exact lowest 128 _ (b.toNat) 6 rfl b.isLt
  have f5 : wordField w1 31 7 = 0 := by rw [hv]; exact (above 128 7 _ (c.toNat) 31 7 rfl c.isLt).trans (whole 33554432 (0) 24 rfl (by decide))
  have f6 : wordField w1 6 0 = c.toNat := by rw [hv]; exact lowest 128 _ (c.toNat) 6 rfl c.isLt
  have he : encode (.bfi d a b c) = [w0, w1] := by subst ew ev; exact rfl
  rw [he]
  refine (major16 f0).trans ?_
  show decodeMajor16 w0 w1 = _
  simp only [decodeMajor16, f1, f2, f3, f4, f5, f6, BitVec.ofNat_toNat, BitVec.setWidth_eq]
  exact decodedIf_good _ _ hwf

theorem iaddi (d : BitVec 7) (a : BitVec 7) (i : BitVec 7) : Statement (.iaddi d a i) := by
  intro hcode hwf x
  clear hcode
  have b0 := d.isLt
  have b1 := a.isLt
  have b2 := i.isLt
  obtain ⟨w0, ew⟩ : ∃ w0, w0 = 0x5C000000 + d.toNat * 0x4000 + a.toNat * 0x80 + i.toNat := ⟨_, rfl⟩
  have hw : w0 = (((23 * 32) * 128 + d.toNat) * 128 + a.toNat) * 128 + i.toNat := ew.trans (by clear ew; omega)
  have f0 : wordField w0 31 26 = 23 := by rw [hw]; exact (above 128 7 _ (i.toNat) 31 26 rfl i.isLt).trans ((above 128 7 _ (a.toNat) 24 19 rfl a.isLt).trans ((above 128 7 _ (d.toNat) 17 12 rfl d.isLt).trans ((above_zeros 32 5 _ 10 5 rfl).trans (whole 64 (23) 5 rfl (by decide)))))
  have f1 : wordField w0 25 21 = 0 := by rw [hw]; exact (above 128 7 _ (i.toNat) 25 21 rfl i.isLt).trans ((above 128 7 _ (a.toNat) 18 14 rfl a.isLt).trans ((above 128 7 _ (d.toNat) 11 7 rfl d.isLt).trans (lowest_zeros 32 _ 4 rfl)))
  have f2 : wordField w0 20 14 = d.toNat := by rw [hw]; exact (above 128 7 _ (i.toNat) 20 14 rfl i.isLt).trans ((above 128 7 _ (a.toNat) 13 7 rfl a.isLt).trans (lowest 128 _ (d.toNat) 6 rfl d.isLt))
  have f3 : wordField w0 13 7 = a.toNat := by rw [hw]; exact (above 128 7 _ (i.toNat) 13 7 rfl i.isLt).trans (lowest 128 _ (a.toNat) 6 rfl a.isLt)
  have f4 : wordField w0 6 0 = i.toNat := by rw [hw]; exact lowest 128 _ (i.toNat) 6 rfl i.isLt
  have he : encode (.iaddi d a i) = [w0] := by subst ew; exact rfl
  rw [he]
  refine (major17 f0).trans ?_
  show decodeMajor17 w0 x = _
  simp only [decodeMajor17, f1, f2, f3, f4, BitVec.ofNat_toNat, BitVec.setWidth_eq]
  exact decodedIf_good _ _ hwf

theorem andi (d : BitVec 7) (a : BitVec 7) (i : BitVec 7) : Statement (.andi d a i) := by
  intro hcode hwf x
  clear hcode
  have b0 := d.isLt
  have b1 := a.isLt
  have b2 := i.isLt
  obtain ⟨w0, ew⟩ : ∃ w0, w0 = 0x5C200000 + d.toNat * 0x4000 + a.toNat * 0x80 + i.toNat := ⟨_, rfl⟩
  have hw : w0 = (((23 * 32 + 1) * 128 + d.toNat) * 128 + a.toNat) * 128 + i.toNat := ew.trans (by clear ew; omega)
  have f0 : wordField w0 31 26 = 23 := by rw [hw]; exact (above 128 7 _ (i.toNat) 31 26 rfl i.isLt).trans ((above 128 7 _ (a.toNat) 24 19 rfl a.isLt).trans ((above 128 7 _ (d.toNat) 17 12 rfl d.isLt).trans ((above 32 5 _ (1) 10 5 rfl (by decide)).trans (whole 64 (23) 5 rfl (by decide)))))
  have f1 : wordField w0 25 21 = 1 := by rw [hw]; exact (above 128 7 _ (i.toNat) 25 21 rfl i.isLt).trans ((above 128 7 _ (a.toNat) 18 14 rfl a.isLt).trans ((above 128 7 _ (d.toNat) 11 7 rfl d.isLt).trans (lowest 32 _ (1) 4 rfl (by decide))))
  have f2 : wordField w0 20 14 = d.toNat := by rw [hw]; exact (above 128 7 _ (i.toNat) 20 14 rfl i.isLt).trans ((above 128 7 _ (a.toNat) 13 7 rfl a.isLt).trans (lowest 128 _ (d.toNat) 6 rfl d.isLt))
  have f3 : wordField w0 13 7 = a.toNat := by rw [hw]; exact (above 128 7 _ (i.toNat) 13 7 rfl i.isLt).trans (lowest 128 _ (a.toNat) 6 rfl a.isLt)
  have f4 : wordField w0 6 0 = i.toNat := by rw [hw]; exact lowest 128 _ (i.toNat) 6 rfl i.isLt
  have he : encode (.andi d a i) = [w0] := by subst ew; exact rfl
  rw [he]
  refine (major17 f0).trans ?_
  show decodeMajor17 w0 x = _
  simp only [decodeMajor17, f1, f2, f3, f4, BitVec.ofNat_toNat, BitVec.setWidth_eq]
  exact decodedIf_good _ _ hwf

theorem ori (d : BitVec 7) (a : BitVec 7) (i : BitVec 7) : Statement (.ori d a i) := by
  intro hcode hwf x
  clear hcode
  have b0 := d.isLt
  have b1 := a.isLt
  have b2 := i.isLt
  obtain ⟨w0, ew⟩ : ∃ w0, w0 = 0x5C400000 + d.toNat * 0x4000 + a.toNat * 0x80 + i.toNat := ⟨_, rfl⟩
  have hw : w0 = (((23 * 32 + 2) * 128 + d.toNat) * 128 + a.toNat) * 128 + i.toNat := ew.trans (by clear ew; omega)
  have f0 : wordField w0 31 26 = 23 := by rw [hw]; exact (above 128 7 _ (i.toNat) 31 26 rfl i.isLt).trans ((above 128 7 _ (a.toNat) 24 19 rfl a.isLt).trans ((above 128 7 _ (d.toNat) 17 12 rfl d.isLt).trans ((above 32 5 _ (2) 10 5 rfl (by decide)).trans (whole 64 (23) 5 rfl (by decide)))))
  have f1 : wordField w0 25 21 = 2 := by rw [hw]; exact (above 128 7 _ (i.toNat) 25 21 rfl i.isLt).trans ((above 128 7 _ (a.toNat) 18 14 rfl a.isLt).trans ((above 128 7 _ (d.toNat) 11 7 rfl d.isLt).trans (lowest 32 _ (2) 4 rfl (by decide))))
  have f2 : wordField w0 20 14 = d.toNat := by rw [hw]; exact (above 128 7 _ (i.toNat) 20 14 rfl i.isLt).trans ((above 128 7 _ (a.toNat) 13 7 rfl a.isLt).trans (lowest 128 _ (d.toNat) 6 rfl d.isLt))
  have f3 : wordField w0 13 7 = a.toNat := by rw [hw]; exact (above 128 7 _ (i.toNat) 13 7 rfl i.isLt).trans (lowest 128 _ (a.toNat) 6 rfl a.isLt)
  have f4 : wordField w0 6 0 = i.toNat := by rw [hw]; exact lowest 128 _ (i.toNat) 6 rfl i.isLt
  have he : encode (.ori d a i) = [w0] := by subst ew; exact rfl
  rw [he]
  refine (major17 f0).trans ?_
  show decodeMajor17 w0 x = _
  simp only [decodeMajor17, f1, f2, f3, f4, BitVec.ofNat_toNat, BitVec.setWidth_eq]
  exact decodedIf_good _ _ hwf

theorem xori (d : BitVec 7) (a : BitVec 7) (i : BitVec 7) : Statement (.xori d a i) := by
  intro hcode hwf x
  clear hcode
  have b0 := d.isLt
  have b1 := a.isLt
  have b2 := i.isLt
  obtain ⟨w0, ew⟩ : ∃ w0, w0 = 0x5C600000 + d.toNat * 0x4000 + a.toNat * 0x80 + i.toNat := ⟨_, rfl⟩
  have hw : w0 = (((23 * 32 + 3) * 128 + d.toNat) * 128 + a.toNat) * 128 + i.toNat := ew.trans (by clear ew; omega)
  have f0 : wordField w0 31 26 = 23 := by rw [hw]; exact (above 128 7 _ (i.toNat) 31 26 rfl i.isLt).trans ((above 128 7 _ (a.toNat) 24 19 rfl a.isLt).trans ((above 128 7 _ (d.toNat) 17 12 rfl d.isLt).trans ((above 32 5 _ (3) 10 5 rfl (by decide)).trans (whole 64 (23) 5 rfl (by decide)))))
  have f1 : wordField w0 25 21 = 3 := by rw [hw]; exact (above 128 7 _ (i.toNat) 25 21 rfl i.isLt).trans ((above 128 7 _ (a.toNat) 18 14 rfl a.isLt).trans ((above 128 7 _ (d.toNat) 11 7 rfl d.isLt).trans (lowest 32 _ (3) 4 rfl (by decide))))
  have f2 : wordField w0 20 14 = d.toNat := by rw [hw]; exact (above 128 7 _ (i.toNat) 20 14 rfl i.isLt).trans ((above 128 7 _ (a.toNat) 13 7 rfl a.isLt).trans (lowest 128 _ (d.toNat) 6 rfl d.isLt))
  have f3 : wordField w0 13 7 = a.toNat := by rw [hw]; exact (above 128 7 _ (i.toNat) 13 7 rfl i.isLt).trans (lowest 128 _ (a.toNat) 6 rfl a.isLt)
  have f4 : wordField w0 6 0 = i.toNat := by rw [hw]; exact lowest 128 _ (i.toNat) 6 rfl i.isLt
  have he : encode (.xori d a i) = [w0] := by subst ew; exact rfl
  rw [he]
  refine (major17 f0).trans ?_
  show decodeMajor17 w0 x = _
  simp only [decodeMajor17, f1, f2, f3, f4, BitVec.ofNat_toNat, BitVec.setWidth_eq]
  exact decodedIf_good _ _ hwf

theorem shli (d : BitVec 7) (a : BitVec 7) (i : BitVec 7) : Statement (.shli d a i) := by
  intro hcode hwf x
  clear hcode
  have b0 := d.isLt
  have b1 := a.isLt
  have b2 := i.isLt
  obtain ⟨w0, ew⟩ : ∃ w0, w0 = 0x5C800000 + d.toNat * 0x4000 + a.toNat * 0x80 + i.toNat := ⟨_, rfl⟩
  have hw : w0 = (((23 * 32 + 4) * 128 + d.toNat) * 128 + a.toNat) * 128 + i.toNat := ew.trans (by clear ew; omega)
  have f0 : wordField w0 31 26 = 23 := by rw [hw]; exact (above 128 7 _ (i.toNat) 31 26 rfl i.isLt).trans ((above 128 7 _ (a.toNat) 24 19 rfl a.isLt).trans ((above 128 7 _ (d.toNat) 17 12 rfl d.isLt).trans ((above 32 5 _ (4) 10 5 rfl (by decide)).trans (whole 64 (23) 5 rfl (by decide)))))
  have f1 : wordField w0 25 21 = 4 := by rw [hw]; exact (above 128 7 _ (i.toNat) 25 21 rfl i.isLt).trans ((above 128 7 _ (a.toNat) 18 14 rfl a.isLt).trans ((above 128 7 _ (d.toNat) 11 7 rfl d.isLt).trans (lowest 32 _ (4) 4 rfl (by decide))))
  have f2 : wordField w0 20 14 = d.toNat := by rw [hw]; exact (above 128 7 _ (i.toNat) 20 14 rfl i.isLt).trans ((above 128 7 _ (a.toNat) 13 7 rfl a.isLt).trans (lowest 128 _ (d.toNat) 6 rfl d.isLt))
  have f3 : wordField w0 13 7 = a.toNat := by rw [hw]; exact (above 128 7 _ (i.toNat) 13 7 rfl i.isLt).trans (lowest 128 _ (a.toNat) 6 rfl a.isLt)
  have f4 : wordField w0 6 0 = i.toNat := by rw [hw]; exact lowest 128 _ (i.toNat) 6 rfl i.isLt
  have he : encode (.shli d a i) = [w0] := by subst ew; exact rfl
  rw [he]
  refine (major17 f0).trans ?_
  show decodeMajor17 w0 x = _
  simp only [decodeMajor17, f1, f2, f3, f4, BitVec.ofNat_toNat, BitVec.setWidth_eq]
  exact decodedIf_good _ _ hwf

theorem shri (d : BitVec 7) (a : BitVec 7) (i : BitVec 7) : Statement (.shri d a i) := by
  intro hcode hwf x
  clear hcode
  have b0 := d.isLt
  have b1 := a.isLt
  have b2 := i.isLt
  obtain ⟨w0, ew⟩ : ∃ w0, w0 = 0x5CA00000 + d.toNat * 0x4000 + a.toNat * 0x80 + i.toNat := ⟨_, rfl⟩
  have hw : w0 = (((23 * 32 + 5) * 128 + d.toNat) * 128 + a.toNat) * 128 + i.toNat := ew.trans (by clear ew; omega)
  have f0 : wordField w0 31 26 = 23 := by rw [hw]; exact (above 128 7 _ (i.toNat) 31 26 rfl i.isLt).trans ((above 128 7 _ (a.toNat) 24 19 rfl a.isLt).trans ((above 128 7 _ (d.toNat) 17 12 rfl d.isLt).trans ((above 32 5 _ (5) 10 5 rfl (by decide)).trans (whole 64 (23) 5 rfl (by decide)))))
  have f1 : wordField w0 25 21 = 5 := by rw [hw]; exact (above 128 7 _ (i.toNat) 25 21 rfl i.isLt).trans ((above 128 7 _ (a.toNat) 18 14 rfl a.isLt).trans ((above 128 7 _ (d.toNat) 11 7 rfl d.isLt).trans (lowest 32 _ (5) 4 rfl (by decide))))
  have f2 : wordField w0 20 14 = d.toNat := by rw [hw]; exact (above 128 7 _ (i.toNat) 20 14 rfl i.isLt).trans ((above 128 7 _ (a.toNat) 13 7 rfl a.isLt).trans (lowest 128 _ (d.toNat) 6 rfl d.isLt))
  have f3 : wordField w0 13 7 = a.toNat := by rw [hw]; exact (above 128 7 _ (i.toNat) 13 7 rfl i.isLt).trans (lowest 128 _ (a.toNat) 6 rfl a.isLt)
  have f4 : wordField w0 6 0 = i.toNat := by rw [hw]; exact lowest 128 _ (i.toNat) 6 rfl i.isLt
  have he : encode (.shri d a i) = [w0] := by subst ew; exact rfl
  rw [he]
  refine (major17 f0).trans ?_
  show decodeMajor17 w0 x = _
  simp only [decodeMajor17, f1, f2, f3, f4, BitVec.ofNat_toNat, BitVec.setWidth_eq]
  exact decodedIf_good _ _ hwf

theorem sari (d : BitVec 7) (a : BitVec 7) (i : BitVec 7) : Statement (.sari d a i) := by
  intro hcode hwf x
  clear hcode
  have b0 := d.isLt
  have b1 := a.isLt
  have b2 := i.isLt
  obtain ⟨w0, ew⟩ : ∃ w0, w0 = 0x5CC00000 + d.toNat * 0x4000 + a.toNat * 0x80 + i.toNat := ⟨_, rfl⟩
  have hw : w0 = (((23 * 32 + 6) * 128 + d.toNat) * 128 + a.toNat) * 128 + i.toNat := ew.trans (by clear ew; omega)
  have f0 : wordField w0 31 26 = 23 := by rw [hw]; exact (above 128 7 _ (i.toNat) 31 26 rfl i.isLt).trans ((above 128 7 _ (a.toNat) 24 19 rfl a.isLt).trans ((above 128 7 _ (d.toNat) 17 12 rfl d.isLt).trans ((above 32 5 _ (6) 10 5 rfl (by decide)).trans (whole 64 (23) 5 rfl (by decide)))))
  have f1 : wordField w0 25 21 = 6 := by rw [hw]; exact (above 128 7 _ (i.toNat) 25 21 rfl i.isLt).trans ((above 128 7 _ (a.toNat) 18 14 rfl a.isLt).trans ((above 128 7 _ (d.toNat) 11 7 rfl d.isLt).trans (lowest 32 _ (6) 4 rfl (by decide))))
  have f2 : wordField w0 20 14 = d.toNat := by rw [hw]; exact (above 128 7 _ (i.toNat) 20 14 rfl i.isLt).trans ((above 128 7 _ (a.toNat) 13 7 rfl a.isLt).trans (lowest 128 _ (d.toNat) 6 rfl d.isLt))
  have f3 : wordField w0 13 7 = a.toNat := by rw [hw]; exact (above 128 7 _ (i.toNat) 13 7 rfl i.isLt).trans (lowest 128 _ (a.toNat) 6 rfl a.isLt)
  have f4 : wordField w0 6 0 = i.toNat := by rw [hw]; exact lowest 128 _ (i.toNat) 6 rfl i.isLt
  have he : encode (.sari d a i) = [w0] := by subst ew; exact rfl
  rw [he]
  refine (major17 f0).trans ?_
  show decodeMajor17 w0 x = _
  simp only [decodeMajor17, f1, f2, f3, f4, BitVec.ofNat_toNat, BitVec.setWidth_eq]
  exact decodedIf_good _ _ hwf

theorem fadd (s : BitVec 1) (p : BitVec 1) (d : BitVec 7) (a : BitVec 7) (b : BitVec 7) (lit : BitVec 32) : Statement (.fadd s p d a b lit) := by
  intro hcode hwf x
  clear hcode
  have hl : litOk [a, b] lit = true := by
    simp only [Instr.wellFormed, Bool.and_eq_true] at hwf
    exact hwf
  have s_p : p = 0#1 ∨ p = 1#1 := by clear hwf hl; revert p; decide
  have s_s : s = 0#1 ∨ s = 1#1 := by clear hwf hl; revert s; decide
  rcases s_p with rfl | rfl <;> rcases s_s with rfl | rfl
  · have b0 := d.isLt
    have b1 := a.isLt
    have b2 := b.isLt
    obtain ⟨w0, ew⟩ : ∃ w0, w0 = 0x60000000 + 0 * 0x2000000 + 0 * 0x1000000 + d.toNat * 0x4000 + a.toNat * 0x80 + b.toNat := ⟨_, rfl⟩
    have hw : w0 = (((((24 * 2) * 2) * 8) * 128 + d.toNat) * 128 + a.toNat) * 128 + b.toNat := ew.trans (by clear ew; omega)
    have f0 : wordField w0 31 26 = 24 := by rw [hw]; exact (above 128 7 _ (b.toNat) 31 26 rfl b.isLt).trans ((above 128 7 _ (a.toNat) 24 19 rfl a.isLt).trans ((above 128 7 _ (d.toNat) 17 12 rfl d.isLt).trans ((above_zeros 8 3 _ 10 5 rfl).trans ((above_zeros 2 1 _ 7 2 rfl).trans ((above_zeros 2 1 _ 6 1 rfl).trans (whole 64 (24) 5 rfl (by decide)))))))
    have f1 : wordField w0 25 25 = 0 := by rw [hw]; exact (above 128 7 _ (b.toNat) 25 25 rfl b.isLt).trans ((above 128 7 _ (a.toNat) 18 18 rfl a.isLt).trans ((above 128 7 _ (d.toNat) 11 11 rfl d.isLt).trans ((above_zeros 8 3 _ 4 4 rfl).trans ((above_zeros 2 1 _ 1 1 rfl).trans (lowest_zeros 2 _ 0 rfl)))))
    have f2 : wordField w0 25 21 = 0 := by unfold wordField; omega
    have f3 : wordField w0 24 24 = 0 := by rw [hw]; exact (above 128 7 _ (b.toNat) 24 24 rfl b.isLt).trans ((above 128 7 _ (a.toNat) 17 17 rfl a.isLt).trans ((above 128 7 _ (d.toNat) 10 10 rfl d.isLt).trans ((above_zeros 8 3 _ 3 3 rfl).trans (lowest_zeros 2 _ 0 rfl))))
    have f4 : wordField w0 20 14 = d.toNat := by rw [hw]; exact (above 128 7 _ (b.toNat) 20 14 rfl b.isLt).trans ((above 128 7 _ (a.toNat) 13 7 rfl a.isLt).trans (lowest 128 _ (d.toNat) 6 rfl d.isLt))
    have f5 : wordField w0 13 7 = a.toNat := by rw [hw]; exact (above 128 7 _ (b.toNat) 13 7 rfl b.isLt).trans (lowest 128 _ (a.toNat) 6 rfl a.isLt)
    have f6 : wordField w0 6 0 = b.toNat := by rw [hw]; exact lowest 128 _ (b.toNat) 6 rfl b.isLt
    rw [show encode (.fadd 0#1 0#1 d a b lit) = withLit w0 [a, b] lit from ew ▸ rfl, withLit_first]
    rw [major18 f0]
    simp only [decodeMajor18, f1, f2, f3, f4, f5, f6, BitVec.ofNat_toNat, BitVec.setWidth_eq]
    rw [show [a.toNat, b.toNat] = [a, b].map BitVec.toNat from rfl, litWord_withLit _ _ _ _ hl, litWords_withLit w0 _ lit]
    exact decodedIf_good _ _ hwf
  · have b0 := d.isLt
    have b1 := a.isLt
    have b2 := b.isLt
    obtain ⟨w0, ew⟩ : ∃ w0, w0 = 0x60000000 + 1 * 0x2000000 + 0 * 0x1000000 + d.toNat * 0x4000 + a.toNat * 0x80 + b.toNat := ⟨_, rfl⟩
    have hw : w0 = (((((24 * 2 + 1) * 2) * 8) * 128 + d.toNat) * 128 + a.toNat) * 128 + b.toNat := ew.trans (by clear ew; omega)
    have f0 : wordField w0 31 26 = 24 := by rw [hw]; exact (above 128 7 _ (b.toNat) 31 26 rfl b.isLt).trans ((above 128 7 _ (a.toNat) 24 19 rfl a.isLt).trans ((above 128 7 _ (d.toNat) 17 12 rfl d.isLt).trans ((above_zeros 8 3 _ 10 5 rfl).trans ((above_zeros 2 1 _ 7 2 rfl).trans ((above 2 1 _ (1) 6 1 rfl (by decide)).trans (whole 64 (24) 5 rfl (by decide)))))))
    have f1 : wordField w0 25 25 = 1 := by rw [hw]; exact (above 128 7 _ (b.toNat) 25 25 rfl b.isLt).trans ((above 128 7 _ (a.toNat) 18 18 rfl a.isLt).trans ((above 128 7 _ (d.toNat) 11 11 rfl d.isLt).trans ((above_zeros 8 3 _ 4 4 rfl).trans ((above_zeros 2 1 _ 1 1 rfl).trans (lowest 2 _ (1) 0 rfl (by decide))))))
    have f2 : wordField w0 25 21 = 16 := by unfold wordField; omega
    have f3 : wordField w0 24 24 = 0 := by rw [hw]; exact (above 128 7 _ (b.toNat) 24 24 rfl b.isLt).trans ((above 128 7 _ (a.toNat) 17 17 rfl a.isLt).trans ((above 128 7 _ (d.toNat) 10 10 rfl d.isLt).trans ((above_zeros 8 3 _ 3 3 rfl).trans (lowest_zeros 2 _ 0 rfl))))
    have f4 : wordField w0 20 14 = d.toNat := by rw [hw]; exact (above 128 7 _ (b.toNat) 20 14 rfl b.isLt).trans ((above 128 7 _ (a.toNat) 13 7 rfl a.isLt).trans (lowest 128 _ (d.toNat) 6 rfl d.isLt))
    have f5 : wordField w0 13 7 = a.toNat := by rw [hw]; exact (above 128 7 _ (b.toNat) 13 7 rfl b.isLt).trans (lowest 128 _ (a.toNat) 6 rfl a.isLt)
    have f6 : wordField w0 6 0 = b.toNat := by rw [hw]; exact lowest 128 _ (b.toNat) 6 rfl b.isLt
    rw [show encode (.fadd 1#1 0#1 d a b lit) = withLit w0 [a, b] lit from ew ▸ rfl, withLit_first]
    rw [major18 f0]
    simp only [decodeMajor18, f1, f2, f3, f4, f5, f6, BitVec.ofNat_toNat, BitVec.setWidth_eq]
    rw [show [a.toNat, b.toNat] = [a, b].map BitVec.toNat from rfl, litWord_withLit _ _ _ _ hl, litWords_withLit w0 _ lit]
    exact decodedIf_good _ _ hwf
  · have b0 := d.isLt
    have b1 := a.isLt
    have b2 := b.isLt
    obtain ⟨w0, ew⟩ : ∃ w0, w0 = 0x60000000 + 0 * 0x2000000 + 1 * 0x1000000 + d.toNat * 0x4000 + a.toNat * 0x80 + b.toNat := ⟨_, rfl⟩
    have hw : w0 = (((((24 * 2) * 2 + 1) * 8) * 128 + d.toNat) * 128 + a.toNat) * 128 + b.toNat := ew.trans (by clear ew; omega)
    have f0 : wordField w0 31 26 = 24 := by rw [hw]; exact (above 128 7 _ (b.toNat) 31 26 rfl b.isLt).trans ((above 128 7 _ (a.toNat) 24 19 rfl a.isLt).trans ((above 128 7 _ (d.toNat) 17 12 rfl d.isLt).trans ((above_zeros 8 3 _ 10 5 rfl).trans ((above 2 1 _ (1) 7 2 rfl (by decide)).trans ((above_zeros 2 1 _ 6 1 rfl).trans (whole 64 (24) 5 rfl (by decide)))))))
    have f1 : wordField w0 25 25 = 0 := by rw [hw]; exact (above 128 7 _ (b.toNat) 25 25 rfl b.isLt).trans ((above 128 7 _ (a.toNat) 18 18 rfl a.isLt).trans ((above 128 7 _ (d.toNat) 11 11 rfl d.isLt).trans ((above_zeros 8 3 _ 4 4 rfl).trans ((above 2 1 _ (1) 1 1 rfl (by decide)).trans (lowest_zeros 2 _ 0 rfl)))))
    have f2 : wordField w0 25 21 = 8 := by unfold wordField; omega
    have f3 : wordField w0 24 24 = 1 := by rw [hw]; exact (above 128 7 _ (b.toNat) 24 24 rfl b.isLt).trans ((above 128 7 _ (a.toNat) 17 17 rfl a.isLt).trans ((above 128 7 _ (d.toNat) 10 10 rfl d.isLt).trans ((above_zeros 8 3 _ 3 3 rfl).trans (lowest 2 _ (1) 0 rfl (by decide)))))
    have f4 : wordField w0 20 14 = d.toNat := by rw [hw]; exact (above 128 7 _ (b.toNat) 20 14 rfl b.isLt).trans ((above 128 7 _ (a.toNat) 13 7 rfl a.isLt).trans (lowest 128 _ (d.toNat) 6 rfl d.isLt))
    have f5 : wordField w0 13 7 = a.toNat := by rw [hw]; exact (above 128 7 _ (b.toNat) 13 7 rfl b.isLt).trans (lowest 128 _ (a.toNat) 6 rfl a.isLt)
    have f6 : wordField w0 6 0 = b.toNat := by rw [hw]; exact lowest 128 _ (b.toNat) 6 rfl b.isLt
    rw [show encode (.fadd 0#1 1#1 d a b lit) = withLit w0 [a, b] lit from ew ▸ rfl, withLit_first]
    rw [major18 f0]
    simp only [decodeMajor18, f1, f2, f3, f4, f5, f6, BitVec.ofNat_toNat, BitVec.setWidth_eq]
    rw [show [a.toNat, b.toNat] = [a, b].map BitVec.toNat from rfl, litWord_withLit _ _ _ _ hl, litWords_withLit w0 _ lit]
    exact decodedIf_good _ _ hwf
  · have b0 := d.isLt
    have b1 := a.isLt
    have b2 := b.isLt
    obtain ⟨w0, ew⟩ : ∃ w0, w0 = 0x60000000 + 1 * 0x2000000 + 1 * 0x1000000 + d.toNat * 0x4000 + a.toNat * 0x80 + b.toNat := ⟨_, rfl⟩
    have hw : w0 = (((((24 * 2 + 1) * 2 + 1) * 8) * 128 + d.toNat) * 128 + a.toNat) * 128 + b.toNat := ew.trans (by clear ew; omega)
    have f0 : wordField w0 31 26 = 24 := by rw [hw]; exact (above 128 7 _ (b.toNat) 31 26 rfl b.isLt).trans ((above 128 7 _ (a.toNat) 24 19 rfl a.isLt).trans ((above 128 7 _ (d.toNat) 17 12 rfl d.isLt).trans ((above_zeros 8 3 _ 10 5 rfl).trans ((above 2 1 _ (1) 7 2 rfl (by decide)).trans ((above 2 1 _ (1) 6 1 rfl (by decide)).trans (whole 64 (24) 5 rfl (by decide)))))))
    have f1 : wordField w0 25 25 = 1 := by rw [hw]; exact (above 128 7 _ (b.toNat) 25 25 rfl b.isLt).trans ((above 128 7 _ (a.toNat) 18 18 rfl a.isLt).trans ((above 128 7 _ (d.toNat) 11 11 rfl d.isLt).trans ((above_zeros 8 3 _ 4 4 rfl).trans ((above 2 1 _ (1) 1 1 rfl (by decide)).trans (lowest 2 _ (1) 0 rfl (by decide))))))
    have f2 : wordField w0 25 21 = 24 := by unfold wordField; omega
    have f3 : wordField w0 24 24 = 1 := by rw [hw]; exact (above 128 7 _ (b.toNat) 24 24 rfl b.isLt).trans ((above 128 7 _ (a.toNat) 17 17 rfl a.isLt).trans ((above 128 7 _ (d.toNat) 10 10 rfl d.isLt).trans ((above_zeros 8 3 _ 3 3 rfl).trans (lowest 2 _ (1) 0 rfl (by decide)))))
    have f4 : wordField w0 20 14 = d.toNat := by rw [hw]; exact (above 128 7 _ (b.toNat) 20 14 rfl b.isLt).trans ((above 128 7 _ (a.toNat) 13 7 rfl a.isLt).trans (lowest 128 _ (d.toNat) 6 rfl d.isLt))
    have f5 : wordField w0 13 7 = a.toNat := by rw [hw]; exact (above 128 7 _ (b.toNat) 13 7 rfl b.isLt).trans (lowest 128 _ (a.toNat) 6 rfl a.isLt)
    have f6 : wordField w0 6 0 = b.toNat := by rw [hw]; exact lowest 128 _ (b.toNat) 6 rfl b.isLt
    rw [show encode (.fadd 1#1 1#1 d a b lit) = withLit w0 [a, b] lit from ew ▸ rfl, withLit_first]
    rw [major18 f0]
    simp only [decodeMajor18, f1, f2, f3, f4, f5, f6, BitVec.ofNat_toNat, BitVec.setWidth_eq]
    rw [show [a.toNat, b.toNat] = [a, b].map BitVec.toNat from rfl, litWord_withLit _ _ _ _ hl, litWords_withLit w0 _ lit]
    exact decodedIf_good _ _ hwf

theorem fsub (s : BitVec 1) (p : BitVec 1) (d : BitVec 7) (a : BitVec 7) (b : BitVec 7) (lit : BitVec 32) : Statement (.fsub s p d a b lit) := by
  intro hcode hwf x
  clear hcode
  have hl : litOk [a, b] lit = true := by
    simp only [Instr.wellFormed, Bool.and_eq_true] at hwf
    exact hwf
  have s_p : p = 0#1 ∨ p = 1#1 := by clear hwf hl; revert p; decide
  have s_s : s = 0#1 ∨ s = 1#1 := by clear hwf hl; revert s; decide
  rcases s_p with rfl | rfl <;> rcases s_s with rfl | rfl
  · have b0 := d.isLt
    have b1 := a.isLt
    have b2 := b.isLt
    obtain ⟨w0, ew⟩ : ∃ w0, w0 = 0x60200000 + 0 * 0x2000000 + 0 * 0x1000000 + d.toNat * 0x4000 + a.toNat * 0x80 + b.toNat := ⟨_, rfl⟩
    have hw : w0 = (((((24 * 2) * 2) * 8 + 1) * 128 + d.toNat) * 128 + a.toNat) * 128 + b.toNat := ew.trans (by clear ew; omega)
    have f0 : wordField w0 31 26 = 24 := by rw [hw]; exact (above 128 7 _ (b.toNat) 31 26 rfl b.isLt).trans ((above 128 7 _ (a.toNat) 24 19 rfl a.isLt).trans ((above 128 7 _ (d.toNat) 17 12 rfl d.isLt).trans ((above 8 3 _ (1) 10 5 rfl (by decide)).trans ((above_zeros 2 1 _ 7 2 rfl).trans ((above_zeros 2 1 _ 6 1 rfl).trans (whole 64 (24) 5 rfl (by decide)))))))
    have f1 : wordField w0 25 25 = 0 := by rw [hw]; exact (above 128 7 _ (b.toNat) 25 25 rfl b.isLt).trans ((above 128 7 _ (a.toNat) 18 18 rfl a.isLt).trans ((above 128 7 _ (d.toNat) 11 11 rfl d.isLt).trans ((above 8 3 _ (1) 4 4 rfl (by decide)).trans ((above_zeros 2 1 _ 1 1 rfl).trans (lowest_zeros 2 _ 0 rfl)))))
    have f2 : wordField w0 25 21 = 1 := by unfold wordField; omega
    have f3 : wordField w0 24 24 = 0 := by rw [hw]; exact (above 128 7 _ (b.toNat) 24 24 rfl b.isLt).trans ((above 128 7 _ (a.toNat) 17 17 rfl a.isLt).trans ((above 128 7 _ (d.toNat) 10 10 rfl d.isLt).trans ((above 8 3 _ (1) 3 3 rfl (by decide)).trans (lowest_zeros 2 _ 0 rfl))))
    have f4 : wordField w0 20 14 = d.toNat := by rw [hw]; exact (above 128 7 _ (b.toNat) 20 14 rfl b.isLt).trans ((above 128 7 _ (a.toNat) 13 7 rfl a.isLt).trans (lowest 128 _ (d.toNat) 6 rfl d.isLt))
    have f5 : wordField w0 13 7 = a.toNat := by rw [hw]; exact (above 128 7 _ (b.toNat) 13 7 rfl b.isLt).trans (lowest 128 _ (a.toNat) 6 rfl a.isLt)
    have f6 : wordField w0 6 0 = b.toNat := by rw [hw]; exact lowest 128 _ (b.toNat) 6 rfl b.isLt
    rw [show encode (.fsub 0#1 0#1 d a b lit) = withLit w0 [a, b] lit from ew ▸ rfl, withLit_first]
    rw [major18 f0]
    simp only [decodeMajor18, f1, f2, f3, f4, f5, f6, BitVec.ofNat_toNat, BitVec.setWidth_eq]
    rw [show [a.toNat, b.toNat] = [a, b].map BitVec.toNat from rfl, litWord_withLit _ _ _ _ hl, litWords_withLit w0 _ lit]
    exact decodedIf_good _ _ hwf
  · have b0 := d.isLt
    have b1 := a.isLt
    have b2 := b.isLt
    obtain ⟨w0, ew⟩ : ∃ w0, w0 = 0x60200000 + 1 * 0x2000000 + 0 * 0x1000000 + d.toNat * 0x4000 + a.toNat * 0x80 + b.toNat := ⟨_, rfl⟩
    have hw : w0 = (((((24 * 2 + 1) * 2) * 8 + 1) * 128 + d.toNat) * 128 + a.toNat) * 128 + b.toNat := ew.trans (by clear ew; omega)
    have f0 : wordField w0 31 26 = 24 := by rw [hw]; exact (above 128 7 _ (b.toNat) 31 26 rfl b.isLt).trans ((above 128 7 _ (a.toNat) 24 19 rfl a.isLt).trans ((above 128 7 _ (d.toNat) 17 12 rfl d.isLt).trans ((above 8 3 _ (1) 10 5 rfl (by decide)).trans ((above_zeros 2 1 _ 7 2 rfl).trans ((above 2 1 _ (1) 6 1 rfl (by decide)).trans (whole 64 (24) 5 rfl (by decide)))))))
    have f1 : wordField w0 25 25 = 1 := by rw [hw]; exact (above 128 7 _ (b.toNat) 25 25 rfl b.isLt).trans ((above 128 7 _ (a.toNat) 18 18 rfl a.isLt).trans ((above 128 7 _ (d.toNat) 11 11 rfl d.isLt).trans ((above 8 3 _ (1) 4 4 rfl (by decide)).trans ((above_zeros 2 1 _ 1 1 rfl).trans (lowest 2 _ (1) 0 rfl (by decide))))))
    have f2 : wordField w0 25 21 = 17 := by unfold wordField; omega
    have f3 : wordField w0 24 24 = 0 := by rw [hw]; exact (above 128 7 _ (b.toNat) 24 24 rfl b.isLt).trans ((above 128 7 _ (a.toNat) 17 17 rfl a.isLt).trans ((above 128 7 _ (d.toNat) 10 10 rfl d.isLt).trans ((above 8 3 _ (1) 3 3 rfl (by decide)).trans (lowest_zeros 2 _ 0 rfl))))
    have f4 : wordField w0 20 14 = d.toNat := by rw [hw]; exact (above 128 7 _ (b.toNat) 20 14 rfl b.isLt).trans ((above 128 7 _ (a.toNat) 13 7 rfl a.isLt).trans (lowest 128 _ (d.toNat) 6 rfl d.isLt))
    have f5 : wordField w0 13 7 = a.toNat := by rw [hw]; exact (above 128 7 _ (b.toNat) 13 7 rfl b.isLt).trans (lowest 128 _ (a.toNat) 6 rfl a.isLt)
    have f6 : wordField w0 6 0 = b.toNat := by rw [hw]; exact lowest 128 _ (b.toNat) 6 rfl b.isLt
    rw [show encode (.fsub 1#1 0#1 d a b lit) = withLit w0 [a, b] lit from ew ▸ rfl, withLit_first]
    rw [major18 f0]
    simp only [decodeMajor18, f1, f2, f3, f4, f5, f6, BitVec.ofNat_toNat, BitVec.setWidth_eq]
    rw [show [a.toNat, b.toNat] = [a, b].map BitVec.toNat from rfl, litWord_withLit _ _ _ _ hl, litWords_withLit w0 _ lit]
    exact decodedIf_good _ _ hwf
  · have b0 := d.isLt
    have b1 := a.isLt
    have b2 := b.isLt
    obtain ⟨w0, ew⟩ : ∃ w0, w0 = 0x60200000 + 0 * 0x2000000 + 1 * 0x1000000 + d.toNat * 0x4000 + a.toNat * 0x80 + b.toNat := ⟨_, rfl⟩
    have hw : w0 = (((((24 * 2) * 2 + 1) * 8 + 1) * 128 + d.toNat) * 128 + a.toNat) * 128 + b.toNat := ew.trans (by clear ew; omega)
    have f0 : wordField w0 31 26 = 24 := by rw [hw]; exact (above 128 7 _ (b.toNat) 31 26 rfl b.isLt).trans ((above 128 7 _ (a.toNat) 24 19 rfl a.isLt).trans ((above 128 7 _ (d.toNat) 17 12 rfl d.isLt).trans ((above 8 3 _ (1) 10 5 rfl (by decide)).trans ((above 2 1 _ (1) 7 2 rfl (by decide)).trans ((above_zeros 2 1 _ 6 1 rfl).trans (whole 64 (24) 5 rfl (by decide)))))))
    have f1 : wordField w0 25 25 = 0 := by rw [hw]; exact (above 128 7 _ (b.toNat) 25 25 rfl b.isLt).trans ((above 128 7 _ (a.toNat) 18 18 rfl a.isLt).trans ((above 128 7 _ (d.toNat) 11 11 rfl d.isLt).trans ((above 8 3 _ (1) 4 4 rfl (by decide)).trans ((above 2 1 _ (1) 1 1 rfl (by decide)).trans (lowest_zeros 2 _ 0 rfl)))))
    have f2 : wordField w0 25 21 = 9 := by unfold wordField; omega
    have f3 : wordField w0 24 24 = 1 := by rw [hw]; exact (above 128 7 _ (b.toNat) 24 24 rfl b.isLt).trans ((above 128 7 _ (a.toNat) 17 17 rfl a.isLt).trans ((above 128 7 _ (d.toNat) 10 10 rfl d.isLt).trans ((above 8 3 _ (1) 3 3 rfl (by decide)).trans (lowest 2 _ (1) 0 rfl (by decide)))))
    have f4 : wordField w0 20 14 = d.toNat := by rw [hw]; exact (above 128 7 _ (b.toNat) 20 14 rfl b.isLt).trans ((above 128 7 _ (a.toNat) 13 7 rfl a.isLt).trans (lowest 128 _ (d.toNat) 6 rfl d.isLt))
    have f5 : wordField w0 13 7 = a.toNat := by rw [hw]; exact (above 128 7 _ (b.toNat) 13 7 rfl b.isLt).trans (lowest 128 _ (a.toNat) 6 rfl a.isLt)
    have f6 : wordField w0 6 0 = b.toNat := by rw [hw]; exact lowest 128 _ (b.toNat) 6 rfl b.isLt
    rw [show encode (.fsub 0#1 1#1 d a b lit) = withLit w0 [a, b] lit from ew ▸ rfl, withLit_first]
    rw [major18 f0]
    simp only [decodeMajor18, f1, f2, f3, f4, f5, f6, BitVec.ofNat_toNat, BitVec.setWidth_eq]
    rw [show [a.toNat, b.toNat] = [a, b].map BitVec.toNat from rfl, litWord_withLit _ _ _ _ hl, litWords_withLit w0 _ lit]
    exact decodedIf_good _ _ hwf
  · have b0 := d.isLt
    have b1 := a.isLt
    have b2 := b.isLt
    obtain ⟨w0, ew⟩ : ∃ w0, w0 = 0x60200000 + 1 * 0x2000000 + 1 * 0x1000000 + d.toNat * 0x4000 + a.toNat * 0x80 + b.toNat := ⟨_, rfl⟩
    have hw : w0 = (((((24 * 2 + 1) * 2 + 1) * 8 + 1) * 128 + d.toNat) * 128 + a.toNat) * 128 + b.toNat := ew.trans (by clear ew; omega)
    have f0 : wordField w0 31 26 = 24 := by rw [hw]; exact (above 128 7 _ (b.toNat) 31 26 rfl b.isLt).trans ((above 128 7 _ (a.toNat) 24 19 rfl a.isLt).trans ((above 128 7 _ (d.toNat) 17 12 rfl d.isLt).trans ((above 8 3 _ (1) 10 5 rfl (by decide)).trans ((above 2 1 _ (1) 7 2 rfl (by decide)).trans ((above 2 1 _ (1) 6 1 rfl (by decide)).trans (whole 64 (24) 5 rfl (by decide)))))))
    have f1 : wordField w0 25 25 = 1 := by rw [hw]; exact (above 128 7 _ (b.toNat) 25 25 rfl b.isLt).trans ((above 128 7 _ (a.toNat) 18 18 rfl a.isLt).trans ((above 128 7 _ (d.toNat) 11 11 rfl d.isLt).trans ((above 8 3 _ (1) 4 4 rfl (by decide)).trans ((above 2 1 _ (1) 1 1 rfl (by decide)).trans (lowest 2 _ (1) 0 rfl (by decide))))))
    have f2 : wordField w0 25 21 = 25 := by unfold wordField; omega
    have f3 : wordField w0 24 24 = 1 := by rw [hw]; exact (above 128 7 _ (b.toNat) 24 24 rfl b.isLt).trans ((above 128 7 _ (a.toNat) 17 17 rfl a.isLt).trans ((above 128 7 _ (d.toNat) 10 10 rfl d.isLt).trans ((above 8 3 _ (1) 3 3 rfl (by decide)).trans (lowest 2 _ (1) 0 rfl (by decide)))))
    have f4 : wordField w0 20 14 = d.toNat := by rw [hw]; exact (above 128 7 _ (b.toNat) 20 14 rfl b.isLt).trans ((above 128 7 _ (a.toNat) 13 7 rfl a.isLt).trans (lowest 128 _ (d.toNat) 6 rfl d.isLt))
    have f5 : wordField w0 13 7 = a.toNat := by rw [hw]; exact (above 128 7 _ (b.toNat) 13 7 rfl b.isLt).trans (lowest 128 _ (a.toNat) 6 rfl a.isLt)
    have f6 : wordField w0 6 0 = b.toNat := by rw [hw]; exact lowest 128 _ (b.toNat) 6 rfl b.isLt
    rw [show encode (.fsub 1#1 1#1 d a b lit) = withLit w0 [a, b] lit from ew ▸ rfl, withLit_first]
    rw [major18 f0]
    simp only [decodeMajor18, f1, f2, f3, f4, f5, f6, BitVec.ofNat_toNat, BitVec.setWidth_eq]
    rw [show [a.toNat, b.toNat] = [a, b].map BitVec.toNat from rfl, litWord_withLit _ _ _ _ hl, litWords_withLit w0 _ lit]
    exact decodedIf_good _ _ hwf

theorem fmul (s : BitVec 1) (p : BitVec 1) (d : BitVec 7) (a : BitVec 7) (b : BitVec 7) (lit : BitVec 32) : Statement (.fmul s p d a b lit) := by
  intro hcode hwf x
  clear hcode
  have hl : litOk [a, b] lit = true := by
    simp only [Instr.wellFormed, Bool.and_eq_true] at hwf
    exact hwf
  have s_p : p = 0#1 ∨ p = 1#1 := by clear hwf hl; revert p; decide
  have s_s : s = 0#1 ∨ s = 1#1 := by clear hwf hl; revert s; decide
  rcases s_p with rfl | rfl <;> rcases s_s with rfl | rfl
  · have b0 := d.isLt
    have b1 := a.isLt
    have b2 := b.isLt
    obtain ⟨w0, ew⟩ : ∃ w0, w0 = 0x60400000 + 0 * 0x2000000 + 0 * 0x1000000 + d.toNat * 0x4000 + a.toNat * 0x80 + b.toNat := ⟨_, rfl⟩
    have hw : w0 = (((((24 * 2) * 2) * 8 + 2) * 128 + d.toNat) * 128 + a.toNat) * 128 + b.toNat := ew.trans (by clear ew; omega)
    have f0 : wordField w0 31 26 = 24 := by rw [hw]; exact (above 128 7 _ (b.toNat) 31 26 rfl b.isLt).trans ((above 128 7 _ (a.toNat) 24 19 rfl a.isLt).trans ((above 128 7 _ (d.toNat) 17 12 rfl d.isLt).trans ((above 8 3 _ (2) 10 5 rfl (by decide)).trans ((above_zeros 2 1 _ 7 2 rfl).trans ((above_zeros 2 1 _ 6 1 rfl).trans (whole 64 (24) 5 rfl (by decide)))))))
    have f1 : wordField w0 25 25 = 0 := by rw [hw]; exact (above 128 7 _ (b.toNat) 25 25 rfl b.isLt).trans ((above 128 7 _ (a.toNat) 18 18 rfl a.isLt).trans ((above 128 7 _ (d.toNat) 11 11 rfl d.isLt).trans ((above 8 3 _ (2) 4 4 rfl (by decide)).trans ((above_zeros 2 1 _ 1 1 rfl).trans (lowest_zeros 2 _ 0 rfl)))))
    have f2 : wordField w0 25 21 = 2 := by unfold wordField; omega
    have f3 : wordField w0 24 24 = 0 := by rw [hw]; exact (above 128 7 _ (b.toNat) 24 24 rfl b.isLt).trans ((above 128 7 _ (a.toNat) 17 17 rfl a.isLt).trans ((above 128 7 _ (d.toNat) 10 10 rfl d.isLt).trans ((above 8 3 _ (2) 3 3 rfl (by decide)).trans (lowest_zeros 2 _ 0 rfl))))
    have f4 : wordField w0 20 14 = d.toNat := by rw [hw]; exact (above 128 7 _ (b.toNat) 20 14 rfl b.isLt).trans ((above 128 7 _ (a.toNat) 13 7 rfl a.isLt).trans (lowest 128 _ (d.toNat) 6 rfl d.isLt))
    have f5 : wordField w0 13 7 = a.toNat := by rw [hw]; exact (above 128 7 _ (b.toNat) 13 7 rfl b.isLt).trans (lowest 128 _ (a.toNat) 6 rfl a.isLt)
    have f6 : wordField w0 6 0 = b.toNat := by rw [hw]; exact lowest 128 _ (b.toNat) 6 rfl b.isLt
    rw [show encode (.fmul 0#1 0#1 d a b lit) = withLit w0 [a, b] lit from ew ▸ rfl, withLit_first]
    rw [major18 f0]
    simp only [decodeMajor18, f1, f2, f3, f4, f5, f6, BitVec.ofNat_toNat, BitVec.setWidth_eq]
    rw [show [a.toNat, b.toNat] = [a, b].map BitVec.toNat from rfl, litWord_withLit _ _ _ _ hl, litWords_withLit w0 _ lit]
    exact decodedIf_good _ _ hwf
  · have b0 := d.isLt
    have b1 := a.isLt
    have b2 := b.isLt
    obtain ⟨w0, ew⟩ : ∃ w0, w0 = 0x60400000 + 1 * 0x2000000 + 0 * 0x1000000 + d.toNat * 0x4000 + a.toNat * 0x80 + b.toNat := ⟨_, rfl⟩
    have hw : w0 = (((((24 * 2 + 1) * 2) * 8 + 2) * 128 + d.toNat) * 128 + a.toNat) * 128 + b.toNat := ew.trans (by clear ew; omega)
    have f0 : wordField w0 31 26 = 24 := by rw [hw]; exact (above 128 7 _ (b.toNat) 31 26 rfl b.isLt).trans ((above 128 7 _ (a.toNat) 24 19 rfl a.isLt).trans ((above 128 7 _ (d.toNat) 17 12 rfl d.isLt).trans ((above 8 3 _ (2) 10 5 rfl (by decide)).trans ((above_zeros 2 1 _ 7 2 rfl).trans ((above 2 1 _ (1) 6 1 rfl (by decide)).trans (whole 64 (24) 5 rfl (by decide)))))))
    have f1 : wordField w0 25 25 = 1 := by rw [hw]; exact (above 128 7 _ (b.toNat) 25 25 rfl b.isLt).trans ((above 128 7 _ (a.toNat) 18 18 rfl a.isLt).trans ((above 128 7 _ (d.toNat) 11 11 rfl d.isLt).trans ((above 8 3 _ (2) 4 4 rfl (by decide)).trans ((above_zeros 2 1 _ 1 1 rfl).trans (lowest 2 _ (1) 0 rfl (by decide))))))
    have f2 : wordField w0 25 21 = 18 := by unfold wordField; omega
    have f3 : wordField w0 24 24 = 0 := by rw [hw]; exact (above 128 7 _ (b.toNat) 24 24 rfl b.isLt).trans ((above 128 7 _ (a.toNat) 17 17 rfl a.isLt).trans ((above 128 7 _ (d.toNat) 10 10 rfl d.isLt).trans ((above 8 3 _ (2) 3 3 rfl (by decide)).trans (lowest_zeros 2 _ 0 rfl))))
    have f4 : wordField w0 20 14 = d.toNat := by rw [hw]; exact (above 128 7 _ (b.toNat) 20 14 rfl b.isLt).trans ((above 128 7 _ (a.toNat) 13 7 rfl a.isLt).trans (lowest 128 _ (d.toNat) 6 rfl d.isLt))
    have f5 : wordField w0 13 7 = a.toNat := by rw [hw]; exact (above 128 7 _ (b.toNat) 13 7 rfl b.isLt).trans (lowest 128 _ (a.toNat) 6 rfl a.isLt)
    have f6 : wordField w0 6 0 = b.toNat := by rw [hw]; exact lowest 128 _ (b.toNat) 6 rfl b.isLt
    rw [show encode (.fmul 1#1 0#1 d a b lit) = withLit w0 [a, b] lit from ew ▸ rfl, withLit_first]
    rw [major18 f0]
    simp only [decodeMajor18, f1, f2, f3, f4, f5, f6, BitVec.ofNat_toNat, BitVec.setWidth_eq]
    rw [show [a.toNat, b.toNat] = [a, b].map BitVec.toNat from rfl, litWord_withLit _ _ _ _ hl, litWords_withLit w0 _ lit]
    exact decodedIf_good _ _ hwf
  · have b0 := d.isLt
    have b1 := a.isLt
    have b2 := b.isLt
    obtain ⟨w0, ew⟩ : ∃ w0, w0 = 0x60400000 + 0 * 0x2000000 + 1 * 0x1000000 + d.toNat * 0x4000 + a.toNat * 0x80 + b.toNat := ⟨_, rfl⟩
    have hw : w0 = (((((24 * 2) * 2 + 1) * 8 + 2) * 128 + d.toNat) * 128 + a.toNat) * 128 + b.toNat := ew.trans (by clear ew; omega)
    have f0 : wordField w0 31 26 = 24 := by rw [hw]; exact (above 128 7 _ (b.toNat) 31 26 rfl b.isLt).trans ((above 128 7 _ (a.toNat) 24 19 rfl a.isLt).trans ((above 128 7 _ (d.toNat) 17 12 rfl d.isLt).trans ((above 8 3 _ (2) 10 5 rfl (by decide)).trans ((above 2 1 _ (1) 7 2 rfl (by decide)).trans ((above_zeros 2 1 _ 6 1 rfl).trans (whole 64 (24) 5 rfl (by decide)))))))
    have f1 : wordField w0 25 25 = 0 := by rw [hw]; exact (above 128 7 _ (b.toNat) 25 25 rfl b.isLt).trans ((above 128 7 _ (a.toNat) 18 18 rfl a.isLt).trans ((above 128 7 _ (d.toNat) 11 11 rfl d.isLt).trans ((above 8 3 _ (2) 4 4 rfl (by decide)).trans ((above 2 1 _ (1) 1 1 rfl (by decide)).trans (lowest_zeros 2 _ 0 rfl)))))
    have f2 : wordField w0 25 21 = 10 := by unfold wordField; omega
    have f3 : wordField w0 24 24 = 1 := by rw [hw]; exact (above 128 7 _ (b.toNat) 24 24 rfl b.isLt).trans ((above 128 7 _ (a.toNat) 17 17 rfl a.isLt).trans ((above 128 7 _ (d.toNat) 10 10 rfl d.isLt).trans ((above 8 3 _ (2) 3 3 rfl (by decide)).trans (lowest 2 _ (1) 0 rfl (by decide)))))
    have f4 : wordField w0 20 14 = d.toNat := by rw [hw]; exact (above 128 7 _ (b.toNat) 20 14 rfl b.isLt).trans ((above 128 7 _ (a.toNat) 13 7 rfl a.isLt).trans (lowest 128 _ (d.toNat) 6 rfl d.isLt))
    have f5 : wordField w0 13 7 = a.toNat := by rw [hw]; exact (above 128 7 _ (b.toNat) 13 7 rfl b.isLt).trans (lowest 128 _ (a.toNat) 6 rfl a.isLt)
    have f6 : wordField w0 6 0 = b.toNat := by rw [hw]; exact lowest 128 _ (b.toNat) 6 rfl b.isLt
    rw [show encode (.fmul 0#1 1#1 d a b lit) = withLit w0 [a, b] lit from ew ▸ rfl, withLit_first]
    rw [major18 f0]
    simp only [decodeMajor18, f1, f2, f3, f4, f5, f6, BitVec.ofNat_toNat, BitVec.setWidth_eq]
    rw [show [a.toNat, b.toNat] = [a, b].map BitVec.toNat from rfl, litWord_withLit _ _ _ _ hl, litWords_withLit w0 _ lit]
    exact decodedIf_good _ _ hwf
  · have b0 := d.isLt
    have b1 := a.isLt
    have b2 := b.isLt
    obtain ⟨w0, ew⟩ : ∃ w0, w0 = 0x60400000 + 1 * 0x2000000 + 1 * 0x1000000 + d.toNat * 0x4000 + a.toNat * 0x80 + b.toNat := ⟨_, rfl⟩
    have hw : w0 = (((((24 * 2 + 1) * 2 + 1) * 8 + 2) * 128 + d.toNat) * 128 + a.toNat) * 128 + b.toNat := ew.trans (by clear ew; omega)
    have f0 : wordField w0 31 26 = 24 := by rw [hw]; exact (above 128 7 _ (b.toNat) 31 26 rfl b.isLt).trans ((above 128 7 _ (a.toNat) 24 19 rfl a.isLt).trans ((above 128 7 _ (d.toNat) 17 12 rfl d.isLt).trans ((above 8 3 _ (2) 10 5 rfl (by decide)).trans ((above 2 1 _ (1) 7 2 rfl (by decide)).trans ((above 2 1 _ (1) 6 1 rfl (by decide)).trans (whole 64 (24) 5 rfl (by decide)))))))
    have f1 : wordField w0 25 25 = 1 := by rw [hw]; exact (above 128 7 _ (b.toNat) 25 25 rfl b.isLt).trans ((above 128 7 _ (a.toNat) 18 18 rfl a.isLt).trans ((above 128 7 _ (d.toNat) 11 11 rfl d.isLt).trans ((above 8 3 _ (2) 4 4 rfl (by decide)).trans ((above 2 1 _ (1) 1 1 rfl (by decide)).trans (lowest 2 _ (1) 0 rfl (by decide))))))
    have f2 : wordField w0 25 21 = 26 := by unfold wordField; omega
    have f3 : wordField w0 24 24 = 1 := by rw [hw]; exact (above 128 7 _ (b.toNat) 24 24 rfl b.isLt).trans ((above 128 7 _ (a.toNat) 17 17 rfl a.isLt).trans ((above 128 7 _ (d.toNat) 10 10 rfl d.isLt).trans ((above 8 3 _ (2) 3 3 rfl (by decide)).trans (lowest 2 _ (1) 0 rfl (by decide)))))
    have f4 : wordField w0 20 14 = d.toNat := by rw [hw]; exact (above 128 7 _ (b.toNat) 20 14 rfl b.isLt).trans ((above 128 7 _ (a.toNat) 13 7 rfl a.isLt).trans (lowest 128 _ (d.toNat) 6 rfl d.isLt))
    have f5 : wordField w0 13 7 = a.toNat := by rw [hw]; exact (above 128 7 _ (b.toNat) 13 7 rfl b.isLt).trans (lowest 128 _ (a.toNat) 6 rfl a.isLt)
    have f6 : wordField w0 6 0 = b.toNat := by rw [hw]; exact lowest 128 _ (b.toNat) 6 rfl b.isLt
    rw [show encode (.fmul 1#1 1#1 d a b lit) = withLit w0 [a, b] lit from ew ▸ rfl, withLit_first]
    rw [major18 f0]
    simp only [decodeMajor18, f1, f2, f3, f4, f5, f6, BitVec.ofNat_toNat, BitVec.setWidth_eq]
    rw [show [a.toNat, b.toNat] = [a, b].map BitVec.toNat from rfl, litWord_withLit _ _ _ _ hl, litWords_withLit w0 _ lit]
    exact decodedIf_good _ _ hwf

theorem fmin (s : BitVec 1) (p : BitVec 1) (d : BitVec 7) (a : BitVec 7) (b : BitVec 7) (lit : BitVec 32) : Statement (.fmin s p d a b lit) := by
  intro hcode hwf x
  clear hcode
  have hl : litOk [a, b] lit = true := by
    simp only [Instr.wellFormed, Bool.and_eq_true] at hwf
    exact hwf
  have s_p : p = 0#1 ∨ p = 1#1 := by clear hwf hl; revert p; decide
  have s_s : s = 0#1 ∨ s = 1#1 := by clear hwf hl; revert s; decide
  rcases s_p with rfl | rfl <;> rcases s_s with rfl | rfl
  · have b0 := d.isLt
    have b1 := a.isLt
    have b2 := b.isLt
    obtain ⟨w0, ew⟩ : ∃ w0, w0 = 0x60600000 + 0 * 0x2000000 + 0 * 0x1000000 + d.toNat * 0x4000 + a.toNat * 0x80 + b.toNat := ⟨_, rfl⟩
    have hw : w0 = (((((24 * 2) * 2) * 8 + 3) * 128 + d.toNat) * 128 + a.toNat) * 128 + b.toNat := ew.trans (by clear ew; omega)
    have f0 : wordField w0 31 26 = 24 := by rw [hw]; exact (above 128 7 _ (b.toNat) 31 26 rfl b.isLt).trans ((above 128 7 _ (a.toNat) 24 19 rfl a.isLt).trans ((above 128 7 _ (d.toNat) 17 12 rfl d.isLt).trans ((above 8 3 _ (3) 10 5 rfl (by decide)).trans ((above_zeros 2 1 _ 7 2 rfl).trans ((above_zeros 2 1 _ 6 1 rfl).trans (whole 64 (24) 5 rfl (by decide)))))))
    have f1 : wordField w0 25 25 = 0 := by rw [hw]; exact (above 128 7 _ (b.toNat) 25 25 rfl b.isLt).trans ((above 128 7 _ (a.toNat) 18 18 rfl a.isLt).trans ((above 128 7 _ (d.toNat) 11 11 rfl d.isLt).trans ((above 8 3 _ (3) 4 4 rfl (by decide)).trans ((above_zeros 2 1 _ 1 1 rfl).trans (lowest_zeros 2 _ 0 rfl)))))
    have f2 : wordField w0 25 21 = 3 := by unfold wordField; omega
    have f3 : wordField w0 24 24 = 0 := by rw [hw]; exact (above 128 7 _ (b.toNat) 24 24 rfl b.isLt).trans ((above 128 7 _ (a.toNat) 17 17 rfl a.isLt).trans ((above 128 7 _ (d.toNat) 10 10 rfl d.isLt).trans ((above 8 3 _ (3) 3 3 rfl (by decide)).trans (lowest_zeros 2 _ 0 rfl))))
    have f4 : wordField w0 20 14 = d.toNat := by rw [hw]; exact (above 128 7 _ (b.toNat) 20 14 rfl b.isLt).trans ((above 128 7 _ (a.toNat) 13 7 rfl a.isLt).trans (lowest 128 _ (d.toNat) 6 rfl d.isLt))
    have f5 : wordField w0 13 7 = a.toNat := by rw [hw]; exact (above 128 7 _ (b.toNat) 13 7 rfl b.isLt).trans (lowest 128 _ (a.toNat) 6 rfl a.isLt)
    have f6 : wordField w0 6 0 = b.toNat := by rw [hw]; exact lowest 128 _ (b.toNat) 6 rfl b.isLt
    rw [show encode (.fmin 0#1 0#1 d a b lit) = withLit w0 [a, b] lit from ew ▸ rfl, withLit_first]
    rw [major18 f0]
    simp only [decodeMajor18, f1, f2, f3, f4, f5, f6, BitVec.ofNat_toNat, BitVec.setWidth_eq]
    rw [show [a.toNat, b.toNat] = [a, b].map BitVec.toNat from rfl, litWord_withLit _ _ _ _ hl, litWords_withLit w0 _ lit]
    exact decodedIf_good _ _ hwf
  · have b0 := d.isLt
    have b1 := a.isLt
    have b2 := b.isLt
    obtain ⟨w0, ew⟩ : ∃ w0, w0 = 0x60600000 + 1 * 0x2000000 + 0 * 0x1000000 + d.toNat * 0x4000 + a.toNat * 0x80 + b.toNat := ⟨_, rfl⟩
    have hw : w0 = (((((24 * 2 + 1) * 2) * 8 + 3) * 128 + d.toNat) * 128 + a.toNat) * 128 + b.toNat := ew.trans (by clear ew; omega)
    have f0 : wordField w0 31 26 = 24 := by rw [hw]; exact (above 128 7 _ (b.toNat) 31 26 rfl b.isLt).trans ((above 128 7 _ (a.toNat) 24 19 rfl a.isLt).trans ((above 128 7 _ (d.toNat) 17 12 rfl d.isLt).trans ((above 8 3 _ (3) 10 5 rfl (by decide)).trans ((above_zeros 2 1 _ 7 2 rfl).trans ((above 2 1 _ (1) 6 1 rfl (by decide)).trans (whole 64 (24) 5 rfl (by decide)))))))
    have f1 : wordField w0 25 25 = 1 := by rw [hw]; exact (above 128 7 _ (b.toNat) 25 25 rfl b.isLt).trans ((above 128 7 _ (a.toNat) 18 18 rfl a.isLt).trans ((above 128 7 _ (d.toNat) 11 11 rfl d.isLt).trans ((above 8 3 _ (3) 4 4 rfl (by decide)).trans ((above_zeros 2 1 _ 1 1 rfl).trans (lowest 2 _ (1) 0 rfl (by decide))))))
    have f2 : wordField w0 25 21 = 19 := by unfold wordField; omega
    have f3 : wordField w0 24 24 = 0 := by rw [hw]; exact (above 128 7 _ (b.toNat) 24 24 rfl b.isLt).trans ((above 128 7 _ (a.toNat) 17 17 rfl a.isLt).trans ((above 128 7 _ (d.toNat) 10 10 rfl d.isLt).trans ((above 8 3 _ (3) 3 3 rfl (by decide)).trans (lowest_zeros 2 _ 0 rfl))))
    have f4 : wordField w0 20 14 = d.toNat := by rw [hw]; exact (above 128 7 _ (b.toNat) 20 14 rfl b.isLt).trans ((above 128 7 _ (a.toNat) 13 7 rfl a.isLt).trans (lowest 128 _ (d.toNat) 6 rfl d.isLt))
    have f5 : wordField w0 13 7 = a.toNat := by rw [hw]; exact (above 128 7 _ (b.toNat) 13 7 rfl b.isLt).trans (lowest 128 _ (a.toNat) 6 rfl a.isLt)
    have f6 : wordField w0 6 0 = b.toNat := by rw [hw]; exact lowest 128 _ (b.toNat) 6 rfl b.isLt
    rw [show encode (.fmin 1#1 0#1 d a b lit) = withLit w0 [a, b] lit from ew ▸ rfl, withLit_first]
    rw [major18 f0]
    simp only [decodeMajor18, f1, f2, f3, f4, f5, f6, BitVec.ofNat_toNat, BitVec.setWidth_eq]
    rw [show [a.toNat, b.toNat] = [a, b].map BitVec.toNat from rfl, litWord_withLit _ _ _ _ hl, litWords_withLit w0 _ lit]
    exact decodedIf_good _ _ hwf
  · have b0 := d.isLt
    have b1 := a.isLt
    have b2 := b.isLt
    obtain ⟨w0, ew⟩ : ∃ w0, w0 = 0x60600000 + 0 * 0x2000000 + 1 * 0x1000000 + d.toNat * 0x4000 + a.toNat * 0x80 + b.toNat := ⟨_, rfl⟩
    have hw : w0 = (((((24 * 2) * 2 + 1) * 8 + 3) * 128 + d.toNat) * 128 + a.toNat) * 128 + b.toNat := ew.trans (by clear ew; omega)
    have f0 : wordField w0 31 26 = 24 := by rw [hw]; exact (above 128 7 _ (b.toNat) 31 26 rfl b.isLt).trans ((above 128 7 _ (a.toNat) 24 19 rfl a.isLt).trans ((above 128 7 _ (d.toNat) 17 12 rfl d.isLt).trans ((above 8 3 _ (3) 10 5 rfl (by decide)).trans ((above 2 1 _ (1) 7 2 rfl (by decide)).trans ((above_zeros 2 1 _ 6 1 rfl).trans (whole 64 (24) 5 rfl (by decide)))))))
    have f1 : wordField w0 25 25 = 0 := by rw [hw]; exact (above 128 7 _ (b.toNat) 25 25 rfl b.isLt).trans ((above 128 7 _ (a.toNat) 18 18 rfl a.isLt).trans ((above 128 7 _ (d.toNat) 11 11 rfl d.isLt).trans ((above 8 3 _ (3) 4 4 rfl (by decide)).trans ((above 2 1 _ (1) 1 1 rfl (by decide)).trans (lowest_zeros 2 _ 0 rfl)))))
    have f2 : wordField w0 25 21 = 11 := by unfold wordField; omega
    have f3 : wordField w0 24 24 = 1 := by rw [hw]; exact (above 128 7 _ (b.toNat) 24 24 rfl b.isLt).trans ((above 128 7 _ (a.toNat) 17 17 rfl a.isLt).trans ((above 128 7 _ (d.toNat) 10 10 rfl d.isLt).trans ((above 8 3 _ (3) 3 3 rfl (by decide)).trans (lowest 2 _ (1) 0 rfl (by decide)))))
    have f4 : wordField w0 20 14 = d.toNat := by rw [hw]; exact (above 128 7 _ (b.toNat) 20 14 rfl b.isLt).trans ((above 128 7 _ (a.toNat) 13 7 rfl a.isLt).trans (lowest 128 _ (d.toNat) 6 rfl d.isLt))
    have f5 : wordField w0 13 7 = a.toNat := by rw [hw]; exact (above 128 7 _ (b.toNat) 13 7 rfl b.isLt).trans (lowest 128 _ (a.toNat) 6 rfl a.isLt)
    have f6 : wordField w0 6 0 = b.toNat := by rw [hw]; exact lowest 128 _ (b.toNat) 6 rfl b.isLt
    rw [show encode (.fmin 0#1 1#1 d a b lit) = withLit w0 [a, b] lit from ew ▸ rfl, withLit_first]
    rw [major18 f0]
    simp only [decodeMajor18, f1, f2, f3, f4, f5, f6, BitVec.ofNat_toNat, BitVec.setWidth_eq]
    rw [show [a.toNat, b.toNat] = [a, b].map BitVec.toNat from rfl, litWord_withLit _ _ _ _ hl, litWords_withLit w0 _ lit]
    exact decodedIf_good _ _ hwf
  · have b0 := d.isLt
    have b1 := a.isLt
    have b2 := b.isLt
    obtain ⟨w0, ew⟩ : ∃ w0, w0 = 0x60600000 + 1 * 0x2000000 + 1 * 0x1000000 + d.toNat * 0x4000 + a.toNat * 0x80 + b.toNat := ⟨_, rfl⟩
    have hw : w0 = (((((24 * 2 + 1) * 2 + 1) * 8 + 3) * 128 + d.toNat) * 128 + a.toNat) * 128 + b.toNat := ew.trans (by clear ew; omega)
    have f0 : wordField w0 31 26 = 24 := by rw [hw]; exact (above 128 7 _ (b.toNat) 31 26 rfl b.isLt).trans ((above 128 7 _ (a.toNat) 24 19 rfl a.isLt).trans ((above 128 7 _ (d.toNat) 17 12 rfl d.isLt).trans ((above 8 3 _ (3) 10 5 rfl (by decide)).trans ((above 2 1 _ (1) 7 2 rfl (by decide)).trans ((above 2 1 _ (1) 6 1 rfl (by decide)).trans (whole 64 (24) 5 rfl (by decide)))))))
    have f1 : wordField w0 25 25 = 1 := by rw [hw]; exact (above 128 7 _ (b.toNat) 25 25 rfl b.isLt).trans ((above 128 7 _ (a.toNat) 18 18 rfl a.isLt).trans ((above 128 7 _ (d.toNat) 11 11 rfl d.isLt).trans ((above 8 3 _ (3) 4 4 rfl (by decide)).trans ((above 2 1 _ (1) 1 1 rfl (by decide)).trans (lowest 2 _ (1) 0 rfl (by decide))))))
    have f2 : wordField w0 25 21 = 27 := by unfold wordField; omega
    have f3 : wordField w0 24 24 = 1 := by rw [hw]; exact (above 128 7 _ (b.toNat) 24 24 rfl b.isLt).trans ((above 128 7 _ (a.toNat) 17 17 rfl a.isLt).trans ((above 128 7 _ (d.toNat) 10 10 rfl d.isLt).trans ((above 8 3 _ (3) 3 3 rfl (by decide)).trans (lowest 2 _ (1) 0 rfl (by decide)))))
    have f4 : wordField w0 20 14 = d.toNat := by rw [hw]; exact (above 128 7 _ (b.toNat) 20 14 rfl b.isLt).trans ((above 128 7 _ (a.toNat) 13 7 rfl a.isLt).trans (lowest 128 _ (d.toNat) 6 rfl d.isLt))
    have f5 : wordField w0 13 7 = a.toNat := by rw [hw]; exact (above 128 7 _ (b.toNat) 13 7 rfl b.isLt).trans (lowest 128 _ (a.toNat) 6 rfl a.isLt)
    have f6 : wordField w0 6 0 = b.toNat := by rw [hw]; exact lowest 128 _ (b.toNat) 6 rfl b.isLt
    rw [show encode (.fmin 1#1 1#1 d a b lit) = withLit w0 [a, b] lit from ew ▸ rfl, withLit_first]
    rw [major18 f0]
    simp only [decodeMajor18, f1, f2, f3, f4, f5, f6, BitVec.ofNat_toNat, BitVec.setWidth_eq]
    rw [show [a.toNat, b.toNat] = [a, b].map BitVec.toNat from rfl, litWord_withLit _ _ _ _ hl, litWords_withLit w0 _ lit]
    exact decodedIf_good _ _ hwf

theorem fmax (s : BitVec 1) (p : BitVec 1) (d : BitVec 7) (a : BitVec 7) (b : BitVec 7) (lit : BitVec 32) : Statement (.fmax s p d a b lit) := by
  intro hcode hwf x
  clear hcode
  have hl : litOk [a, b] lit = true := by
    simp only [Instr.wellFormed, Bool.and_eq_true] at hwf
    exact hwf
  have s_p : p = 0#1 ∨ p = 1#1 := by clear hwf hl; revert p; decide
  have s_s : s = 0#1 ∨ s = 1#1 := by clear hwf hl; revert s; decide
  rcases s_p with rfl | rfl <;> rcases s_s with rfl | rfl
  · have b0 := d.isLt
    have b1 := a.isLt
    have b2 := b.isLt
    obtain ⟨w0, ew⟩ : ∃ w0, w0 = 0x60800000 + 0 * 0x2000000 + 0 * 0x1000000 + d.toNat * 0x4000 + a.toNat * 0x80 + b.toNat := ⟨_, rfl⟩
    have hw : w0 = (((((24 * 2) * 2) * 8 + 4) * 128 + d.toNat) * 128 + a.toNat) * 128 + b.toNat := ew.trans (by clear ew; omega)
    have f0 : wordField w0 31 26 = 24 := by rw [hw]; exact (above 128 7 _ (b.toNat) 31 26 rfl b.isLt).trans ((above 128 7 _ (a.toNat) 24 19 rfl a.isLt).trans ((above 128 7 _ (d.toNat) 17 12 rfl d.isLt).trans ((above 8 3 _ (4) 10 5 rfl (by decide)).trans ((above_zeros 2 1 _ 7 2 rfl).trans ((above_zeros 2 1 _ 6 1 rfl).trans (whole 64 (24) 5 rfl (by decide)))))))
    have f1 : wordField w0 25 25 = 0 := by rw [hw]; exact (above 128 7 _ (b.toNat) 25 25 rfl b.isLt).trans ((above 128 7 _ (a.toNat) 18 18 rfl a.isLt).trans ((above 128 7 _ (d.toNat) 11 11 rfl d.isLt).trans ((above 8 3 _ (4) 4 4 rfl (by decide)).trans ((above_zeros 2 1 _ 1 1 rfl).trans (lowest_zeros 2 _ 0 rfl)))))
    have f2 : wordField w0 25 21 = 4 := by unfold wordField; omega
    have f3 : wordField w0 24 24 = 0 := by rw [hw]; exact (above 128 7 _ (b.toNat) 24 24 rfl b.isLt).trans ((above 128 7 _ (a.toNat) 17 17 rfl a.isLt).trans ((above 128 7 _ (d.toNat) 10 10 rfl d.isLt).trans ((above 8 3 _ (4) 3 3 rfl (by decide)).trans (lowest_zeros 2 _ 0 rfl))))
    have f4 : wordField w0 20 14 = d.toNat := by rw [hw]; exact (above 128 7 _ (b.toNat) 20 14 rfl b.isLt).trans ((above 128 7 _ (a.toNat) 13 7 rfl a.isLt).trans (lowest 128 _ (d.toNat) 6 rfl d.isLt))
    have f5 : wordField w0 13 7 = a.toNat := by rw [hw]; exact (above 128 7 _ (b.toNat) 13 7 rfl b.isLt).trans (lowest 128 _ (a.toNat) 6 rfl a.isLt)
    have f6 : wordField w0 6 0 = b.toNat := by rw [hw]; exact lowest 128 _ (b.toNat) 6 rfl b.isLt
    rw [show encode (.fmax 0#1 0#1 d a b lit) = withLit w0 [a, b] lit from ew ▸ rfl, withLit_first]
    rw [major18 f0]
    simp only [decodeMajor18, f1, f2, f3, f4, f5, f6, BitVec.ofNat_toNat, BitVec.setWidth_eq]
    rw [show [a.toNat, b.toNat] = [a, b].map BitVec.toNat from rfl, litWord_withLit _ _ _ _ hl, litWords_withLit w0 _ lit]
    exact decodedIf_good _ _ hwf
  · have b0 := d.isLt
    have b1 := a.isLt
    have b2 := b.isLt
    obtain ⟨w0, ew⟩ : ∃ w0, w0 = 0x60800000 + 1 * 0x2000000 + 0 * 0x1000000 + d.toNat * 0x4000 + a.toNat * 0x80 + b.toNat := ⟨_, rfl⟩
    have hw : w0 = (((((24 * 2 + 1) * 2) * 8 + 4) * 128 + d.toNat) * 128 + a.toNat) * 128 + b.toNat := ew.trans (by clear ew; omega)
    have f0 : wordField w0 31 26 = 24 := by rw [hw]; exact (above 128 7 _ (b.toNat) 31 26 rfl b.isLt).trans ((above 128 7 _ (a.toNat) 24 19 rfl a.isLt).trans ((above 128 7 _ (d.toNat) 17 12 rfl d.isLt).trans ((above 8 3 _ (4) 10 5 rfl (by decide)).trans ((above_zeros 2 1 _ 7 2 rfl).trans ((above 2 1 _ (1) 6 1 rfl (by decide)).trans (whole 64 (24) 5 rfl (by decide)))))))
    have f1 : wordField w0 25 25 = 1 := by rw [hw]; exact (above 128 7 _ (b.toNat) 25 25 rfl b.isLt).trans ((above 128 7 _ (a.toNat) 18 18 rfl a.isLt).trans ((above 128 7 _ (d.toNat) 11 11 rfl d.isLt).trans ((above 8 3 _ (4) 4 4 rfl (by decide)).trans ((above_zeros 2 1 _ 1 1 rfl).trans (lowest 2 _ (1) 0 rfl (by decide))))))
    have f2 : wordField w0 25 21 = 20 := by unfold wordField; omega
    have f3 : wordField w0 24 24 = 0 := by rw [hw]; exact (above 128 7 _ (b.toNat) 24 24 rfl b.isLt).trans ((above 128 7 _ (a.toNat) 17 17 rfl a.isLt).trans ((above 128 7 _ (d.toNat) 10 10 rfl d.isLt).trans ((above 8 3 _ (4) 3 3 rfl (by decide)).trans (lowest_zeros 2 _ 0 rfl))))
    have f4 : wordField w0 20 14 = d.toNat := by rw [hw]; exact (above 128 7 _ (b.toNat) 20 14 rfl b.isLt).trans ((above 128 7 _ (a.toNat) 13 7 rfl a.isLt).trans (lowest 128 _ (d.toNat) 6 rfl d.isLt))
    have f5 : wordField w0 13 7 = a.toNat := by rw [hw]; exact (above 128 7 _ (b.toNat) 13 7 rfl b.isLt).trans (lowest 128 _ (a.toNat) 6 rfl a.isLt)
    have f6 : wordField w0 6 0 = b.toNat := by rw [hw]; exact lowest 128 _ (b.toNat) 6 rfl b.isLt
    rw [show encode (.fmax 1#1 0#1 d a b lit) = withLit w0 [a, b] lit from ew ▸ rfl, withLit_first]
    rw [major18 f0]
    simp only [decodeMajor18, f1, f2, f3, f4, f5, f6, BitVec.ofNat_toNat, BitVec.setWidth_eq]
    rw [show [a.toNat, b.toNat] = [a, b].map BitVec.toNat from rfl, litWord_withLit _ _ _ _ hl, litWords_withLit w0 _ lit]
    exact decodedIf_good _ _ hwf
  · have b0 := d.isLt
    have b1 := a.isLt
    have b2 := b.isLt
    obtain ⟨w0, ew⟩ : ∃ w0, w0 = 0x60800000 + 0 * 0x2000000 + 1 * 0x1000000 + d.toNat * 0x4000 + a.toNat * 0x80 + b.toNat := ⟨_, rfl⟩
    have hw : w0 = (((((24 * 2) * 2 + 1) * 8 + 4) * 128 + d.toNat) * 128 + a.toNat) * 128 + b.toNat := ew.trans (by clear ew; omega)
    have f0 : wordField w0 31 26 = 24 := by rw [hw]; exact (above 128 7 _ (b.toNat) 31 26 rfl b.isLt).trans ((above 128 7 _ (a.toNat) 24 19 rfl a.isLt).trans ((above 128 7 _ (d.toNat) 17 12 rfl d.isLt).trans ((above 8 3 _ (4) 10 5 rfl (by decide)).trans ((above 2 1 _ (1) 7 2 rfl (by decide)).trans ((above_zeros 2 1 _ 6 1 rfl).trans (whole 64 (24) 5 rfl (by decide)))))))
    have f1 : wordField w0 25 25 = 0 := by rw [hw]; exact (above 128 7 _ (b.toNat) 25 25 rfl b.isLt).trans ((above 128 7 _ (a.toNat) 18 18 rfl a.isLt).trans ((above 128 7 _ (d.toNat) 11 11 rfl d.isLt).trans ((above 8 3 _ (4) 4 4 rfl (by decide)).trans ((above 2 1 _ (1) 1 1 rfl (by decide)).trans (lowest_zeros 2 _ 0 rfl)))))
    have f2 : wordField w0 25 21 = 12 := by unfold wordField; omega
    have f3 : wordField w0 24 24 = 1 := by rw [hw]; exact (above 128 7 _ (b.toNat) 24 24 rfl b.isLt).trans ((above 128 7 _ (a.toNat) 17 17 rfl a.isLt).trans ((above 128 7 _ (d.toNat) 10 10 rfl d.isLt).trans ((above 8 3 _ (4) 3 3 rfl (by decide)).trans (lowest 2 _ (1) 0 rfl (by decide)))))
    have f4 : wordField w0 20 14 = d.toNat := by rw [hw]; exact (above 128 7 _ (b.toNat) 20 14 rfl b.isLt).trans ((above 128 7 _ (a.toNat) 13 7 rfl a.isLt).trans (lowest 128 _ (d.toNat) 6 rfl d.isLt))
    have f5 : wordField w0 13 7 = a.toNat := by rw [hw]; exact (above 128 7 _ (b.toNat) 13 7 rfl b.isLt).trans (lowest 128 _ (a.toNat) 6 rfl a.isLt)
    have f6 : wordField w0 6 0 = b.toNat := by rw [hw]; exact lowest 128 _ (b.toNat) 6 rfl b.isLt
    rw [show encode (.fmax 0#1 1#1 d a b lit) = withLit w0 [a, b] lit from ew ▸ rfl, withLit_first]
    rw [major18 f0]
    simp only [decodeMajor18, f1, f2, f3, f4, f5, f6, BitVec.ofNat_toNat, BitVec.setWidth_eq]
    rw [show [a.toNat, b.toNat] = [a, b].map BitVec.toNat from rfl, litWord_withLit _ _ _ _ hl, litWords_withLit w0 _ lit]
    exact decodedIf_good _ _ hwf
  · have b0 := d.isLt
    have b1 := a.isLt
    have b2 := b.isLt
    obtain ⟨w0, ew⟩ : ∃ w0, w0 = 0x60800000 + 1 * 0x2000000 + 1 * 0x1000000 + d.toNat * 0x4000 + a.toNat * 0x80 + b.toNat := ⟨_, rfl⟩
    have hw : w0 = (((((24 * 2 + 1) * 2 + 1) * 8 + 4) * 128 + d.toNat) * 128 + a.toNat) * 128 + b.toNat := ew.trans (by clear ew; omega)
    have f0 : wordField w0 31 26 = 24 := by rw [hw]; exact (above 128 7 _ (b.toNat) 31 26 rfl b.isLt).trans ((above 128 7 _ (a.toNat) 24 19 rfl a.isLt).trans ((above 128 7 _ (d.toNat) 17 12 rfl d.isLt).trans ((above 8 3 _ (4) 10 5 rfl (by decide)).trans ((above 2 1 _ (1) 7 2 rfl (by decide)).trans ((above 2 1 _ (1) 6 1 rfl (by decide)).trans (whole 64 (24) 5 rfl (by decide)))))))
    have f1 : wordField w0 25 25 = 1 := by rw [hw]; exact (above 128 7 _ (b.toNat) 25 25 rfl b.isLt).trans ((above 128 7 _ (a.toNat) 18 18 rfl a.isLt).trans ((above 128 7 _ (d.toNat) 11 11 rfl d.isLt).trans ((above 8 3 _ (4) 4 4 rfl (by decide)).trans ((above 2 1 _ (1) 1 1 rfl (by decide)).trans (lowest 2 _ (1) 0 rfl (by decide))))))
    have f2 : wordField w0 25 21 = 28 := by unfold wordField; omega
    have f3 : wordField w0 24 24 = 1 := by rw [hw]; exact (above 128 7 _ (b.toNat) 24 24 rfl b.isLt).trans ((above 128 7 _ (a.toNat) 17 17 rfl a.isLt).trans ((above 128 7 _ (d.toNat) 10 10 rfl d.isLt).trans ((above 8 3 _ (4) 3 3 rfl (by decide)).trans (lowest 2 _ (1) 0 rfl (by decide)))))
    have f4 : wordField w0 20 14 = d.toNat := by rw [hw]; exact (above 128 7 _ (b.toNat) 20 14 rfl b.isLt).trans ((above 128 7 _ (a.toNat) 13 7 rfl a.isLt).trans (lowest 128 _ (d.toNat) 6 rfl d.isLt))
    have f5 : wordField w0 13 7 = a.toNat := by rw [hw]; exact (above 128 7 _ (b.toNat) 13 7 rfl b.isLt).trans (lowest 128 _ (a.toNat) 6 rfl a.isLt)
    have f6 : wordField w0 6 0 = b.toNat := by rw [hw]; exact lowest 128 _ (b.toNat) 6 rfl b.isLt
    rw [show encode (.fmax 1#1 1#1 d a b lit) = withLit w0 [a, b] lit from ew ▸ rfl, withLit_first]
    rw [major18 f0]
    simp only [decodeMajor18, f1, f2, f3, f4, f5, f6, BitVec.ofNat_toNat, BitVec.setWidth_eq]
    rw [show [a.toNat, b.toNat] = [a, b].map BitVec.toNat from rfl, litWord_withLit _ _ _ _ hl, litWords_withLit w0 _ lit]
    exact decodedIf_good _ _ hwf

theorem fmac (s : BitVec 1) (p : BitVec 1) (d : BitVec 7) (a : BitVec 7) (b : BitVec 7) (lit : BitVec 32) : Statement (.fmac s p d a b lit) := by
  intro hcode hwf x
  clear hcode
  have hl : litOk [a, b] lit = true := by
    simp only [Instr.wellFormed, Bool.and_eq_true] at hwf
    exact hwf
  have s_p : p = 0#1 ∨ p = 1#1 := by clear hwf hl; revert p; decide
  have s_s : s = 0#1 ∨ s = 1#1 := by clear hwf hl; revert s; decide
  rcases s_p with rfl | rfl <;> rcases s_s with rfl | rfl
  · have b0 := d.isLt
    have b1 := a.isLt
    have b2 := b.isLt
    obtain ⟨w0, ew⟩ : ∃ w0, w0 = 0x64000000 + 0 * 0x2000000 + 0 * 0x1000000 + d.toNat * 0x4000 + a.toNat * 0x80 + b.toNat := ⟨_, rfl⟩
    have hw : w0 = (((((25 * 2) * 2) * 8) * 128 + d.toNat) * 128 + a.toNat) * 128 + b.toNat := ew.trans (by clear ew; omega)
    have f0 : wordField w0 31 26 = 25 := by rw [hw]; exact (above 128 7 _ (b.toNat) 31 26 rfl b.isLt).trans ((above 128 7 _ (a.toNat) 24 19 rfl a.isLt).trans ((above 128 7 _ (d.toNat) 17 12 rfl d.isLt).trans ((above_zeros 8 3 _ 10 5 rfl).trans ((above_zeros 2 1 _ 7 2 rfl).trans ((above_zeros 2 1 _ 6 1 rfl).trans (whole 64 (25) 5 rfl (by decide)))))))
    have f1 : wordField w0 25 25 = 0 := by rw [hw]; exact (above 128 7 _ (b.toNat) 25 25 rfl b.isLt).trans ((above 128 7 _ (a.toNat) 18 18 rfl a.isLt).trans ((above 128 7 _ (d.toNat) 11 11 rfl d.isLt).trans ((above_zeros 8 3 _ 4 4 rfl).trans ((above_zeros 2 1 _ 1 1 rfl).trans (lowest_zeros 2 _ 0 rfl)))))
    have f2 : wordField w0 25 21 = 0 := by unfold wordField; omega
    have f3 : wordField w0 24 24 = 0 := by rw [hw]; exact (above 128 7 _ (b.toNat) 24 24 rfl b.isLt).trans ((above 128 7 _ (a.toNat) 17 17 rfl a.isLt).trans ((above 128 7 _ (d.toNat) 10 10 rfl d.isLt).trans ((above_zeros 8 3 _ 3 3 rfl).trans (lowest_zeros 2 _ 0 rfl))))
    have f4 : wordField w0 20 14 = d.toNat := by rw [hw]; exact (above 128 7 _ (b.toNat) 20 14 rfl b.isLt).trans ((above 128 7 _ (a.toNat) 13 7 rfl a.isLt).trans (lowest 128 _ (d.toNat) 6 rfl d.isLt))
    have f5 : wordField w0 13 7 = a.toNat := by rw [hw]; exact (above 128 7 _ (b.toNat) 13 7 rfl b.isLt).trans (lowest 128 _ (a.toNat) 6 rfl a.isLt)
    have f6 : wordField w0 6 0 = b.toNat := by rw [hw]; exact lowest 128 _ (b.toNat) 6 rfl b.isLt
    rw [show encode (.fmac 0#1 0#1 d a b lit) = withLit w0 [a, b] lit from ew ▸ rfl, withLit_first]
    rw [major19 f0]
    simp only [decodeMajor19, f1, f2, f3, f4, f5, f6, BitVec.ofNat_toNat, BitVec.setWidth_eq]
    rw [show [a.toNat, b.toNat] = [a, b].map BitVec.toNat from rfl, litWord_withLit _ _ _ _ hl, litWords_withLit w0 _ lit]
    exact decodedIf_good _ _ hwf
  · have b0 := d.isLt
    have b1 := a.isLt
    have b2 := b.isLt
    obtain ⟨w0, ew⟩ : ∃ w0, w0 = 0x64000000 + 1 * 0x2000000 + 0 * 0x1000000 + d.toNat * 0x4000 + a.toNat * 0x80 + b.toNat := ⟨_, rfl⟩
    have hw : w0 = (((((25 * 2 + 1) * 2) * 8) * 128 + d.toNat) * 128 + a.toNat) * 128 + b.toNat := ew.trans (by clear ew; omega)
    have f0 : wordField w0 31 26 = 25 := by rw [hw]; exact (above 128 7 _ (b.toNat) 31 26 rfl b.isLt).trans ((above 128 7 _ (a.toNat) 24 19 rfl a.isLt).trans ((above 128 7 _ (d.toNat) 17 12 rfl d.isLt).trans ((above_zeros 8 3 _ 10 5 rfl).trans ((above_zeros 2 1 _ 7 2 rfl).trans ((above 2 1 _ (1) 6 1 rfl (by decide)).trans (whole 64 (25) 5 rfl (by decide)))))))
    have f1 : wordField w0 25 25 = 1 := by rw [hw]; exact (above 128 7 _ (b.toNat) 25 25 rfl b.isLt).trans ((above 128 7 _ (a.toNat) 18 18 rfl a.isLt).trans ((above 128 7 _ (d.toNat) 11 11 rfl d.isLt).trans ((above_zeros 8 3 _ 4 4 rfl).trans ((above_zeros 2 1 _ 1 1 rfl).trans (lowest 2 _ (1) 0 rfl (by decide))))))
    have f2 : wordField w0 25 21 = 16 := by unfold wordField; omega
    have f3 : wordField w0 24 24 = 0 := by rw [hw]; exact (above 128 7 _ (b.toNat) 24 24 rfl b.isLt).trans ((above 128 7 _ (a.toNat) 17 17 rfl a.isLt).trans ((above 128 7 _ (d.toNat) 10 10 rfl d.isLt).trans ((above_zeros 8 3 _ 3 3 rfl).trans (lowest_zeros 2 _ 0 rfl))))
    have f4 : wordField w0 20 14 = d.toNat := by rw [hw]; exact (above 128 7 _ (b.toNat) 20 14 rfl b.isLt).trans ((above 128 7 _ (a.toNat) 13 7 rfl a.isLt).trans (lowest 128 _ (d.toNat) 6 rfl d.isLt))
    have f5 : wordField w0 13 7 = a.toNat := by rw [hw]; exact (above 128 7 _ (b.toNat) 13 7 rfl b.isLt).trans (lowest 128 _ (a.toNat) 6 rfl a.isLt)
    have f6 : wordField w0 6 0 = b.toNat := by rw [hw]; exact lowest 128 _ (b.toNat) 6 rfl b.isLt
    rw [show encode (.fmac 1#1 0#1 d a b lit) = withLit w0 [a, b] lit from ew ▸ rfl, withLit_first]
    rw [major19 f0]
    simp only [decodeMajor19, f1, f2, f3, f4, f5, f6, BitVec.ofNat_toNat, BitVec.setWidth_eq]
    rw [show [a.toNat, b.toNat] = [a, b].map BitVec.toNat from rfl, litWord_withLit _ _ _ _ hl, litWords_withLit w0 _ lit]
    exact decodedIf_good _ _ hwf
  · have b0 := d.isLt
    have b1 := a.isLt
    have b2 := b.isLt
    obtain ⟨w0, ew⟩ : ∃ w0, w0 = 0x64000000 + 0 * 0x2000000 + 1 * 0x1000000 + d.toNat * 0x4000 + a.toNat * 0x80 + b.toNat := ⟨_, rfl⟩
    have hw : w0 = (((((25 * 2) * 2 + 1) * 8) * 128 + d.toNat) * 128 + a.toNat) * 128 + b.toNat := ew.trans (by clear ew; omega)
    have f0 : wordField w0 31 26 = 25 := by rw [hw]; exact (above 128 7 _ (b.toNat) 31 26 rfl b.isLt).trans ((above 128 7 _ (a.toNat) 24 19 rfl a.isLt).trans ((above 128 7 _ (d.toNat) 17 12 rfl d.isLt).trans ((above_zeros 8 3 _ 10 5 rfl).trans ((above 2 1 _ (1) 7 2 rfl (by decide)).trans ((above_zeros 2 1 _ 6 1 rfl).trans (whole 64 (25) 5 rfl (by decide)))))))
    have f1 : wordField w0 25 25 = 0 := by rw [hw]; exact (above 128 7 _ (b.toNat) 25 25 rfl b.isLt).trans ((above 128 7 _ (a.toNat) 18 18 rfl a.isLt).trans ((above 128 7 _ (d.toNat) 11 11 rfl d.isLt).trans ((above_zeros 8 3 _ 4 4 rfl).trans ((above 2 1 _ (1) 1 1 rfl (by decide)).trans (lowest_zeros 2 _ 0 rfl)))))
    have f2 : wordField w0 25 21 = 8 := by unfold wordField; omega
    have f3 : wordField w0 24 24 = 1 := by rw [hw]; exact (above 128 7 _ (b.toNat) 24 24 rfl b.isLt).trans ((above 128 7 _ (a.toNat) 17 17 rfl a.isLt).trans ((above 128 7 _ (d.toNat) 10 10 rfl d.isLt).trans ((above_zeros 8 3 _ 3 3 rfl).trans (lowest 2 _ (1) 0 rfl (by decide)))))
    have f4 : wordField w0 20 14 = d.toNat := by rw [hw]; exact (above 128 7 _ (b.toNat) 20 14 rfl b.isLt).trans ((above 128 7 _ (a.toNat) 13 7 rfl a.isLt).trans (lowest 128 _ (d.toNat) 6 rfl d.isLt))
    have f5 : wordField w0 13 7 = a.toNat := by rw [hw]; exact (above 128 7 _ (b.toNat) 13 7 rfl b.isLt).trans (lowest 128 _ (a.toNat) 6 rfl a.isLt)
    have f6 : wordField w0 6 0 = b.toNat := by rw [hw]; exact lowest 128 _ (b.toNat) 6 rfl b.isLt
    rw [show encode (.fmac 0#1 1#1 d a b lit) = withLit w0 [a, b] lit from ew ▸ rfl, withLit_first]
    rw [major19 f0]
    simp only [decodeMajor19, f1, f2, f3, f4, f5, f6, BitVec.ofNat_toNat, BitVec.setWidth_eq]
    rw [show [a.toNat, b.toNat] = [a, b].map BitVec.toNat from rfl, litWord_withLit _ _ _ _ hl, litWords_withLit w0 _ lit]
    exact decodedIf_good _ _ hwf
  · have b0 := d.isLt
    have b1 := a.isLt
    have b2 := b.isLt
    obtain ⟨w0, ew⟩ : ∃ w0, w0 = 0x64000000 + 1 * 0x2000000 + 1 * 0x1000000 + d.toNat * 0x4000 + a.toNat * 0x80 + b.toNat := ⟨_, rfl⟩
    have hw : w0 = (((((25 * 2 + 1) * 2 + 1) * 8) * 128 + d.toNat) * 128 + a.toNat) * 128 + b.toNat := ew.trans (by clear ew; omega)
    have f0 : wordField w0 31 26 = 25 := by rw [hw]; exact (above 128 7 _ (b.toNat) 31 26 rfl b.isLt).trans ((above 128 7 _ (a.toNat) 24 19 rfl a.isLt).trans ((above 128 7 _ (d.toNat) 17 12 rfl d.isLt).trans ((above_zeros 8 3 _ 10 5 rfl).trans ((above 2 1 _ (1) 7 2 rfl (by decide)).trans ((above 2 1 _ (1) 6 1 rfl (by decide)).trans (whole 64 (25) 5 rfl (by decide)))))))
    have f1 : wordField w0 25 25 = 1 := by rw [hw]; exact (above 128 7 _ (b.toNat) 25 25 rfl b.isLt).trans ((above 128 7 _ (a.toNat) 18 18 rfl a.isLt).trans ((above 128 7 _ (d.toNat) 11 11 rfl d.isLt).trans ((above_zeros 8 3 _ 4 4 rfl).trans ((above 2 1 _ (1) 1 1 rfl (by decide)).trans (lowest 2 _ (1) 0 rfl (by decide))))))
    have f2 : wordField w0 25 21 = 24 := by unfold wordField; omega
    have f3 : wordField w0 24 24 = 1 := by rw [hw]; exact (above 128 7 _ (b.toNat) 24 24 rfl b.isLt).trans ((above 128 7 _ (a.toNat) 17 17 rfl a.isLt).trans ((above 128 7 _ (d.toNat) 10 10 rfl d.isLt).trans ((above_zeros 8 3 _ 3 3 rfl).trans (lowest 2 _ (1) 0 rfl (by decide)))))
    have f4 : wordField w0 20 14 = d.toNat := by rw [hw]; exact (above 128 7 _ (b.toNat) 20 14 rfl b.isLt).trans ((above 128 7 _ (a.toNat) 13 7 rfl a.isLt).trans (lowest 128 _ (d.toNat) 6 rfl d.isLt))
    have f5 : wordField w0 13 7 = a.toNat := by rw [hw]; exact (above 128 7 _ (b.toNat) 13 7 rfl b.isLt).trans (lowest 128 _ (a.toNat) 6 rfl a.isLt)
    have f6 : wordField w0 6 0 = b.toNat := by rw [hw]; exact lowest 128 _ (b.toNat) 6 rfl b.isLt
    rw [show encode (.fmac 1#1 1#1 d a b lit) = withLit w0 [a, b] lit from ew ▸ rfl, withLit_first]
    rw [major19 f0]
    simp only [decodeMajor19, f1, f2, f3, f4, f5, f6, BitVec.ofNat_toNat, BitVec.setWidth_eq]
    rw [show [a.toNat, b.toNat] = [a, b].map BitVec.toNat from rfl, litWord_withLit _ _ _ _ hl, litWords_withLit w0 _ lit]
    exact decodedIf_good _ _ hwf

theorem fma (s : BitVec 1) (p : BitVec 1) (d : BitVec 7) (a : BitVec 7) (b : BitVec 7) (c : BitVec 7) : Statement (.fma s p d a b c) := by
  intro hcode hwf x
  clear hcode
  have s_p : p = 0#1 ∨ p = 1#1 := by clear hwf; revert p; decide
  have s_s : s = 0#1 ∨ s = 1#1 := by clear hwf; revert s; decide
  rcases s_p with rfl | rfl <;> rcases s_s with rfl | rfl
  · have b0 := d.isLt
    have b1 := a.isLt
    have b2 := b.isLt
    have b3 := c.isLt
    obtain ⟨w0, ew⟩ : ∃ w0, w0 = 0x64200000 + 0 * 0x2000000 + 0 * 0x1000000 + d.toNat * 0x4000 + a.toNat * 0x80 + b.toNat := ⟨_, rfl⟩
    have hw : w0 = (((((25 * 2) * 2) * 8 + 1) * 128 + d.toNat) * 128 + a.toNat) * 128 + b.toNat := ew.trans (by clear ew; omega)
    obtain ⟨w1, ev⟩ : ∃ w1, w1 = c.toNat := ⟨_, rfl⟩
    have hv : w1 = 0 * 128 + c.toNat := ev.trans (by clear ew ev; omega)
    have f0 : wordField w0 31 26 = 25 := by rw [hw]; exact (above 128 7 _ (b.toNat) 31 26 rfl b.isLt).trans ((above 128 7 _ (a.toNat) 24 19 rfl a.isLt).trans ((above 128 7 _ (d.toNat) 17 12 rfl d.isLt).trans ((above 8 3 _ (1) 10 5 rfl (by decide)).trans ((above_zeros 2 1 _ 7 2 rfl).trans ((above_zeros 2 1 _ 6 1 rfl).trans (whole 64 (25) 5 rfl (by decide)))))))
    have f1 : wordField w0 25 25 = 0 := by rw [hw]; exact (above 128 7 _ (b.toNat) 25 25 rfl b.isLt).trans ((above 128 7 _ (a.toNat) 18 18 rfl a.isLt).trans ((above 128 7 _ (d.toNat) 11 11 rfl d.isLt).trans ((above 8 3 _ (1) 4 4 rfl (by decide)).trans ((above_zeros 2 1 _ 1 1 rfl).trans (lowest_zeros 2 _ 0 rfl)))))
    have f2 : wordField w0 25 21 = 1 := by unfold wordField; omega
    have f3 : wordField w0 24 24 = 0 := by rw [hw]; exact (above 128 7 _ (b.toNat) 24 24 rfl b.isLt).trans ((above 128 7 _ (a.toNat) 17 17 rfl a.isLt).trans ((above 128 7 _ (d.toNat) 10 10 rfl d.isLt).trans ((above 8 3 _ (1) 3 3 rfl (by decide)).trans (lowest_zeros 2 _ 0 rfl))))
    have f4 : wordField w0 20 14 = d.toNat := by rw [hw]; exact (above 128 7 _ (b.toNat) 20 14 rfl b.isLt).trans ((above 128 7 _ (a.toNat) 13 7 rfl a.isLt).trans (lowest 128 _ (d.toNat) 6 rfl d.isLt))
    have f5 : wordField w0 13 7 = a.toNat := by rw [hw]; exact (above 128 7 _ (b.toNat) 13 7 rfl b.isLt).trans (lowest 128 _ (a.toNat) 6 rfl a.isLt)
    have f6 : wordField w0 6 0 = b.toNat := by rw [hw]; exact lowest 128 _ (b.toNat) 6 rfl b.isLt
    have f7 : wordField w1 31 7 = 0 := by rw [hv]; exact (above 128 7 _ (c.toNat) 31 7 rfl c.isLt).trans (whole 33554432 (0) 24 rfl (by decide))
    have f8 : wordField w1 6 0 = c.toNat := by rw [hv]; exact lowest 128 _ (c.toNat) 6 rfl c.isLt
    have he : encode (.fma 0#1 0#1 d a b c) = [w0, w1] := by subst ew ev; exact rfl
    rw [he]
    refine (major19 f0).trans ?_
    show decodeMajor19 w0 w1 = _
    simp only [decodeMajor19, f1, f2, f3, f4, f5, f6, f7, f8, BitVec.ofNat_toNat, BitVec.setWidth_eq]
    exact decodedIf_good _ _ hwf
  · have b0 := d.isLt
    have b1 := a.isLt
    have b2 := b.isLt
    have b3 := c.isLt
    obtain ⟨w0, ew⟩ : ∃ w0, w0 = 0x64200000 + 1 * 0x2000000 + 0 * 0x1000000 + d.toNat * 0x4000 + a.toNat * 0x80 + b.toNat := ⟨_, rfl⟩
    have hw : w0 = (((((25 * 2 + 1) * 2) * 8 + 1) * 128 + d.toNat) * 128 + a.toNat) * 128 + b.toNat := ew.trans (by clear ew; omega)
    obtain ⟨w1, ev⟩ : ∃ w1, w1 = c.toNat := ⟨_, rfl⟩
    have hv : w1 = 0 * 128 + c.toNat := ev.trans (by clear ew ev; omega)
    have f0 : wordField w0 31 26 = 25 := by rw [hw]; exact (above 128 7 _ (b.toNat) 31 26 rfl b.isLt).trans ((above 128 7 _ (a.toNat) 24 19 rfl a.isLt).trans ((above 128 7 _ (d.toNat) 17 12 rfl d.isLt).trans ((above 8 3 _ (1) 10 5 rfl (by decide)).trans ((above_zeros 2 1 _ 7 2 rfl).trans ((above 2 1 _ (1) 6 1 rfl (by decide)).trans (whole 64 (25) 5 rfl (by decide)))))))
    have f1 : wordField w0 25 25 = 1 := by rw [hw]; exact (above 128 7 _ (b.toNat) 25 25 rfl b.isLt).trans ((above 128 7 _ (a.toNat) 18 18 rfl a.isLt).trans ((above 128 7 _ (d.toNat) 11 11 rfl d.isLt).trans ((above 8 3 _ (1) 4 4 rfl (by decide)).trans ((above_zeros 2 1 _ 1 1 rfl).trans (lowest 2 _ (1) 0 rfl (by decide))))))
    have f2 : wordField w0 25 21 = 17 := by unfold wordField; omega
    have f3 : wordField w0 24 24 = 0 := by rw [hw]; exact (above 128 7 _ (b.toNat) 24 24 rfl b.isLt).trans ((above 128 7 _ (a.toNat) 17 17 rfl a.isLt).trans ((above 128 7 _ (d.toNat) 10 10 rfl d.isLt).trans ((above 8 3 _ (1) 3 3 rfl (by decide)).trans (lowest_zeros 2 _ 0 rfl))))
    have f4 : wordField w0 20 14 = d.toNat := by rw [hw]; exact (above 128 7 _ (b.toNat) 20 14 rfl b.isLt).trans ((above 128 7 _ (a.toNat) 13 7 rfl a.isLt).trans (lowest 128 _ (d.toNat) 6 rfl d.isLt))
    have f5 : wordField w0 13 7 = a.toNat := by rw [hw]; exact (above 128 7 _ (b.toNat) 13 7 rfl b.isLt).trans (lowest 128 _ (a.toNat) 6 rfl a.isLt)
    have f6 : wordField w0 6 0 = b.toNat := by rw [hw]; exact lowest 128 _ (b.toNat) 6 rfl b.isLt
    have f7 : wordField w1 31 7 = 0 := by rw [hv]; exact (above 128 7 _ (c.toNat) 31 7 rfl c.isLt).trans (whole 33554432 (0) 24 rfl (by decide))
    have f8 : wordField w1 6 0 = c.toNat := by rw [hv]; exact lowest 128 _ (c.toNat) 6 rfl c.isLt
    have he : encode (.fma 1#1 0#1 d a b c) = [w0, w1] := by subst ew ev; exact rfl
    rw [he]
    refine (major19 f0).trans ?_
    show decodeMajor19 w0 w1 = _
    simp only [decodeMajor19, f1, f2, f3, f4, f5, f6, f7, f8, BitVec.ofNat_toNat, BitVec.setWidth_eq]
    exact decodedIf_good _ _ hwf
  · have b0 := d.isLt
    have b1 := a.isLt
    have b2 := b.isLt
    have b3 := c.isLt
    obtain ⟨w0, ew⟩ : ∃ w0, w0 = 0x64200000 + 0 * 0x2000000 + 1 * 0x1000000 + d.toNat * 0x4000 + a.toNat * 0x80 + b.toNat := ⟨_, rfl⟩
    have hw : w0 = (((((25 * 2) * 2 + 1) * 8 + 1) * 128 + d.toNat) * 128 + a.toNat) * 128 + b.toNat := ew.trans (by clear ew; omega)
    obtain ⟨w1, ev⟩ : ∃ w1, w1 = c.toNat := ⟨_, rfl⟩
    have hv : w1 = 0 * 128 + c.toNat := ev.trans (by clear ew ev; omega)
    have f0 : wordField w0 31 26 = 25 := by rw [hw]; exact (above 128 7 _ (b.toNat) 31 26 rfl b.isLt).trans ((above 128 7 _ (a.toNat) 24 19 rfl a.isLt).trans ((above 128 7 _ (d.toNat) 17 12 rfl d.isLt).trans ((above 8 3 _ (1) 10 5 rfl (by decide)).trans ((above 2 1 _ (1) 7 2 rfl (by decide)).trans ((above_zeros 2 1 _ 6 1 rfl).trans (whole 64 (25) 5 rfl (by decide)))))))
    have f1 : wordField w0 25 25 = 0 := by rw [hw]; exact (above 128 7 _ (b.toNat) 25 25 rfl b.isLt).trans ((above 128 7 _ (a.toNat) 18 18 rfl a.isLt).trans ((above 128 7 _ (d.toNat) 11 11 rfl d.isLt).trans ((above 8 3 _ (1) 4 4 rfl (by decide)).trans ((above 2 1 _ (1) 1 1 rfl (by decide)).trans (lowest_zeros 2 _ 0 rfl)))))
    have f2 : wordField w0 25 21 = 9 := by unfold wordField; omega
    have f3 : wordField w0 24 24 = 1 := by rw [hw]; exact (above 128 7 _ (b.toNat) 24 24 rfl b.isLt).trans ((above 128 7 _ (a.toNat) 17 17 rfl a.isLt).trans ((above 128 7 _ (d.toNat) 10 10 rfl d.isLt).trans ((above 8 3 _ (1) 3 3 rfl (by decide)).trans (lowest 2 _ (1) 0 rfl (by decide)))))
    have f4 : wordField w0 20 14 = d.toNat := by rw [hw]; exact (above 128 7 _ (b.toNat) 20 14 rfl b.isLt).trans ((above 128 7 _ (a.toNat) 13 7 rfl a.isLt).trans (lowest 128 _ (d.toNat) 6 rfl d.isLt))
    have f5 : wordField w0 13 7 = a.toNat := by rw [hw]; exact (above 128 7 _ (b.toNat) 13 7 rfl b.isLt).trans (lowest 128 _ (a.toNat) 6 rfl a.isLt)
    have f6 : wordField w0 6 0 = b.toNat := by rw [hw]; exact lowest 128 _ (b.toNat) 6 rfl b.isLt
    have f7 : wordField w1 31 7 = 0 := by rw [hv]; exact (above 128 7 _ (c.toNat) 31 7 rfl c.isLt).trans (whole 33554432 (0) 24 rfl (by decide))
    have f8 : wordField w1 6 0 = c.toNat := by rw [hv]; exact lowest 128 _ (c.toNat) 6 rfl c.isLt
    have he : encode (.fma 0#1 1#1 d a b c) = [w0, w1] := by subst ew ev; exact rfl
    rw [he]
    refine (major19 f0).trans ?_
    show decodeMajor19 w0 w1 = _
    simp only [decodeMajor19, f1, f2, f3, f4, f5, f6, f7, f8, BitVec.ofNat_toNat, BitVec.setWidth_eq]
    exact decodedIf_good _ _ hwf
  · have b0 := d.isLt
    have b1 := a.isLt
    have b2 := b.isLt
    have b3 := c.isLt
    obtain ⟨w0, ew⟩ : ∃ w0, w0 = 0x64200000 + 1 * 0x2000000 + 1 * 0x1000000 + d.toNat * 0x4000 + a.toNat * 0x80 + b.toNat := ⟨_, rfl⟩
    have hw : w0 = (((((25 * 2 + 1) * 2 + 1) * 8 + 1) * 128 + d.toNat) * 128 + a.toNat) * 128 + b.toNat := ew.trans (by clear ew; omega)
    obtain ⟨w1, ev⟩ : ∃ w1, w1 = c.toNat := ⟨_, rfl⟩
    have hv : w1 = 0 * 128 + c.toNat := ev.trans (by clear ew ev; omega)
    have f0 : wordField w0 31 26 = 25 := by rw [hw]; exact (above 128 7 _ (b.toNat) 31 26 rfl b.isLt).trans ((above 128 7 _ (a.toNat) 24 19 rfl a.isLt).trans ((above 128 7 _ (d.toNat) 17 12 rfl d.isLt).trans ((above 8 3 _ (1) 10 5 rfl (by decide)).trans ((above 2 1 _ (1) 7 2 rfl (by decide)).trans ((above 2 1 _ (1) 6 1 rfl (by decide)).trans (whole 64 (25) 5 rfl (by decide)))))))
    have f1 : wordField w0 25 25 = 1 := by rw [hw]; exact (above 128 7 _ (b.toNat) 25 25 rfl b.isLt).trans ((above 128 7 _ (a.toNat) 18 18 rfl a.isLt).trans ((above 128 7 _ (d.toNat) 11 11 rfl d.isLt).trans ((above 8 3 _ (1) 4 4 rfl (by decide)).trans ((above 2 1 _ (1) 1 1 rfl (by decide)).trans (lowest 2 _ (1) 0 rfl (by decide))))))
    have f2 : wordField w0 25 21 = 25 := by unfold wordField; omega
    have f3 : wordField w0 24 24 = 1 := by rw [hw]; exact (above 128 7 _ (b.toNat) 24 24 rfl b.isLt).trans ((above 128 7 _ (a.toNat) 17 17 rfl a.isLt).trans ((above 128 7 _ (d.toNat) 10 10 rfl d.isLt).trans ((above 8 3 _ (1) 3 3 rfl (by decide)).trans (lowest 2 _ (1) 0 rfl (by decide)))))
    have f4 : wordField w0 20 14 = d.toNat := by rw [hw]; exact (above 128 7 _ (b.toNat) 20 14 rfl b.isLt).trans ((above 128 7 _ (a.toNat) 13 7 rfl a.isLt).trans (lowest 128 _ (d.toNat) 6 rfl d.isLt))
    have f5 : wordField w0 13 7 = a.toNat := by rw [hw]; exact (above 128 7 _ (b.toNat) 13 7 rfl b.isLt).trans (lowest 128 _ (a.toNat) 6 rfl a.isLt)
    have f6 : wordField w0 6 0 = b.toNat := by rw [hw]; exact lowest 128 _ (b.toNat) 6 rfl b.isLt
    have f7 : wordField w1 31 7 = 0 := by rw [hv]; exact (above 128 7 _ (c.toNat) 31 7 rfl c.isLt).trans (whole 33554432 (0) 24 rfl (by decide))
    have f8 : wordField w1 6 0 = c.toNat := by rw [hv]; exact lowest 128 _ (c.toNat) 6 rfl c.isLt
    have he : encode (.fma 1#1 1#1 d a b c) = [w0, w1] := by subst ew ev; exact rfl
    rw [he]
    refine (major19 f0).trans ?_
    show decodeMajor19 w0 w1 = _
    simp only [decodeMajor19, f1, f2, f3, f4, f5, f6, f7, f8, BitVec.ofNat_toNat, BitVec.setWidth_eq]
    exact decodedIf_good _ _ hwf

theorem flerp (s : BitVec 1) (p : BitVec 1) (d : BitVec 7) (a : BitVec 7) (b : BitVec 7) (c : BitVec 7) : Statement (.flerp s p d a b c) := by
  intro hcode hwf x
  clear hcode
  have s_p : p = 0#1 ∨ p = 1#1 := by clear hwf; revert p; decide
  have s_s : s = 0#1 ∨ s = 1#1 := by clear hwf; revert s; decide
  rcases s_p with rfl | rfl <;> rcases s_s with rfl | rfl
  · have b0 := d.isLt
    have b1 := a.isLt
    have b2 := b.isLt
    have b3 := c.isLt
    obtain ⟨w0, ew⟩ : ∃ w0, w0 = 0x64400000 + 0 * 0x2000000 + 0 * 0x1000000 + d.toNat * 0x4000 + a.toNat * 0x80 + b.toNat := ⟨_, rfl⟩
    have hw : w0 = (((((25 * 2) * 2) * 8 + 2) * 128 + d.toNat) * 128 + a.toNat) * 128 + b.toNat := ew.trans (by clear ew; omega)
    obtain ⟨w1, ev⟩ : ∃ w1, w1 = c.toNat := ⟨_, rfl⟩
    have hv : w1 = 0 * 128 + c.toNat := ev.trans (by clear ew ev; omega)
    have f0 : wordField w0 31 26 = 25 := by rw [hw]; exact (above 128 7 _ (b.toNat) 31 26 rfl b.isLt).trans ((above 128 7 _ (a.toNat) 24 19 rfl a.isLt).trans ((above 128 7 _ (d.toNat) 17 12 rfl d.isLt).trans ((above 8 3 _ (2) 10 5 rfl (by decide)).trans ((above_zeros 2 1 _ 7 2 rfl).trans ((above_zeros 2 1 _ 6 1 rfl).trans (whole 64 (25) 5 rfl (by decide)))))))
    have f1 : wordField w0 25 25 = 0 := by rw [hw]; exact (above 128 7 _ (b.toNat) 25 25 rfl b.isLt).trans ((above 128 7 _ (a.toNat) 18 18 rfl a.isLt).trans ((above 128 7 _ (d.toNat) 11 11 rfl d.isLt).trans ((above 8 3 _ (2) 4 4 rfl (by decide)).trans ((above_zeros 2 1 _ 1 1 rfl).trans (lowest_zeros 2 _ 0 rfl)))))
    have f2 : wordField w0 25 21 = 2 := by unfold wordField; omega
    have f3 : wordField w0 24 24 = 0 := by rw [hw]; exact (above 128 7 _ (b.toNat) 24 24 rfl b.isLt).trans ((above 128 7 _ (a.toNat) 17 17 rfl a.isLt).trans ((above 128 7 _ (d.toNat) 10 10 rfl d.isLt).trans ((above 8 3 _ (2) 3 3 rfl (by decide)).trans (lowest_zeros 2 _ 0 rfl))))
    have f4 : wordField w0 20 14 = d.toNat := by rw [hw]; exact (above 128 7 _ (b.toNat) 20 14 rfl b.isLt).trans ((above 128 7 _ (a.toNat) 13 7 rfl a.isLt).trans (lowest 128 _ (d.toNat) 6 rfl d.isLt))
    have f5 : wordField w0 13 7 = a.toNat := by rw [hw]; exact (above 128 7 _ (b.toNat) 13 7 rfl b.isLt).trans (lowest 128 _ (a.toNat) 6 rfl a.isLt)
    have f6 : wordField w0 6 0 = b.toNat := by rw [hw]; exact lowest 128 _ (b.toNat) 6 rfl b.isLt
    have f7 : wordField w1 31 7 = 0 := by rw [hv]; exact (above 128 7 _ (c.toNat) 31 7 rfl c.isLt).trans (whole 33554432 (0) 24 rfl (by decide))
    have f8 : wordField w1 6 0 = c.toNat := by rw [hv]; exact lowest 128 _ (c.toNat) 6 rfl c.isLt
    have he : encode (.flerp 0#1 0#1 d a b c) = [w0, w1] := by subst ew ev; exact rfl
    rw [he]
    refine (major19 f0).trans ?_
    show decodeMajor19 w0 w1 = _
    simp only [decodeMajor19, f1, f2, f3, f4, f5, f6, f7, f8, BitVec.ofNat_toNat, BitVec.setWidth_eq]
    exact decodedIf_good _ _ hwf
  · have b0 := d.isLt
    have b1 := a.isLt
    have b2 := b.isLt
    have b3 := c.isLt
    obtain ⟨w0, ew⟩ : ∃ w0, w0 = 0x64400000 + 1 * 0x2000000 + 0 * 0x1000000 + d.toNat * 0x4000 + a.toNat * 0x80 + b.toNat := ⟨_, rfl⟩
    have hw : w0 = (((((25 * 2 + 1) * 2) * 8 + 2) * 128 + d.toNat) * 128 + a.toNat) * 128 + b.toNat := ew.trans (by clear ew; omega)
    obtain ⟨w1, ev⟩ : ∃ w1, w1 = c.toNat := ⟨_, rfl⟩
    have hv : w1 = 0 * 128 + c.toNat := ev.trans (by clear ew ev; omega)
    have f0 : wordField w0 31 26 = 25 := by rw [hw]; exact (above 128 7 _ (b.toNat) 31 26 rfl b.isLt).trans ((above 128 7 _ (a.toNat) 24 19 rfl a.isLt).trans ((above 128 7 _ (d.toNat) 17 12 rfl d.isLt).trans ((above 8 3 _ (2) 10 5 rfl (by decide)).trans ((above_zeros 2 1 _ 7 2 rfl).trans ((above 2 1 _ (1) 6 1 rfl (by decide)).trans (whole 64 (25) 5 rfl (by decide)))))))
    have f1 : wordField w0 25 25 = 1 := by rw [hw]; exact (above 128 7 _ (b.toNat) 25 25 rfl b.isLt).trans ((above 128 7 _ (a.toNat) 18 18 rfl a.isLt).trans ((above 128 7 _ (d.toNat) 11 11 rfl d.isLt).trans ((above 8 3 _ (2) 4 4 rfl (by decide)).trans ((above_zeros 2 1 _ 1 1 rfl).trans (lowest 2 _ (1) 0 rfl (by decide))))))
    have f2 : wordField w0 25 21 = 18 := by unfold wordField; omega
    have f3 : wordField w0 24 24 = 0 := by rw [hw]; exact (above 128 7 _ (b.toNat) 24 24 rfl b.isLt).trans ((above 128 7 _ (a.toNat) 17 17 rfl a.isLt).trans ((above 128 7 _ (d.toNat) 10 10 rfl d.isLt).trans ((above 8 3 _ (2) 3 3 rfl (by decide)).trans (lowest_zeros 2 _ 0 rfl))))
    have f4 : wordField w0 20 14 = d.toNat := by rw [hw]; exact (above 128 7 _ (b.toNat) 20 14 rfl b.isLt).trans ((above 128 7 _ (a.toNat) 13 7 rfl a.isLt).trans (lowest 128 _ (d.toNat) 6 rfl d.isLt))
    have f5 : wordField w0 13 7 = a.toNat := by rw [hw]; exact (above 128 7 _ (b.toNat) 13 7 rfl b.isLt).trans (lowest 128 _ (a.toNat) 6 rfl a.isLt)
    have f6 : wordField w0 6 0 = b.toNat := by rw [hw]; exact lowest 128 _ (b.toNat) 6 rfl b.isLt
    have f7 : wordField w1 31 7 = 0 := by rw [hv]; exact (above 128 7 _ (c.toNat) 31 7 rfl c.isLt).trans (whole 33554432 (0) 24 rfl (by decide))
    have f8 : wordField w1 6 0 = c.toNat := by rw [hv]; exact lowest 128 _ (c.toNat) 6 rfl c.isLt
    have he : encode (.flerp 1#1 0#1 d a b c) = [w0, w1] := by subst ew ev; exact rfl
    rw [he]
    refine (major19 f0).trans ?_
    show decodeMajor19 w0 w1 = _
    simp only [decodeMajor19, f1, f2, f3, f4, f5, f6, f7, f8, BitVec.ofNat_toNat, BitVec.setWidth_eq]
    exact decodedIf_good _ _ hwf
  · have b0 := d.isLt
    have b1 := a.isLt
    have b2 := b.isLt
    have b3 := c.isLt
    obtain ⟨w0, ew⟩ : ∃ w0, w0 = 0x64400000 + 0 * 0x2000000 + 1 * 0x1000000 + d.toNat * 0x4000 + a.toNat * 0x80 + b.toNat := ⟨_, rfl⟩
    have hw : w0 = (((((25 * 2) * 2 + 1) * 8 + 2) * 128 + d.toNat) * 128 + a.toNat) * 128 + b.toNat := ew.trans (by clear ew; omega)
    obtain ⟨w1, ev⟩ : ∃ w1, w1 = c.toNat := ⟨_, rfl⟩
    have hv : w1 = 0 * 128 + c.toNat := ev.trans (by clear ew ev; omega)
    have f0 : wordField w0 31 26 = 25 := by rw [hw]; exact (above 128 7 _ (b.toNat) 31 26 rfl b.isLt).trans ((above 128 7 _ (a.toNat) 24 19 rfl a.isLt).trans ((above 128 7 _ (d.toNat) 17 12 rfl d.isLt).trans ((above 8 3 _ (2) 10 5 rfl (by decide)).trans ((above 2 1 _ (1) 7 2 rfl (by decide)).trans ((above_zeros 2 1 _ 6 1 rfl).trans (whole 64 (25) 5 rfl (by decide)))))))
    have f1 : wordField w0 25 25 = 0 := by rw [hw]; exact (above 128 7 _ (b.toNat) 25 25 rfl b.isLt).trans ((above 128 7 _ (a.toNat) 18 18 rfl a.isLt).trans ((above 128 7 _ (d.toNat) 11 11 rfl d.isLt).trans ((above 8 3 _ (2) 4 4 rfl (by decide)).trans ((above 2 1 _ (1) 1 1 rfl (by decide)).trans (lowest_zeros 2 _ 0 rfl)))))
    have f2 : wordField w0 25 21 = 10 := by unfold wordField; omega
    have f3 : wordField w0 24 24 = 1 := by rw [hw]; exact (above 128 7 _ (b.toNat) 24 24 rfl b.isLt).trans ((above 128 7 _ (a.toNat) 17 17 rfl a.isLt).trans ((above 128 7 _ (d.toNat) 10 10 rfl d.isLt).trans ((above 8 3 _ (2) 3 3 rfl (by decide)).trans (lowest 2 _ (1) 0 rfl (by decide)))))
    have f4 : wordField w0 20 14 = d.toNat := by rw [hw]; exact (above 128 7 _ (b.toNat) 20 14 rfl b.isLt).trans ((above 128 7 _ (a.toNat) 13 7 rfl a.isLt).trans (lowest 128 _ (d.toNat) 6 rfl d.isLt))
    have f5 : wordField w0 13 7 = a.toNat := by rw [hw]; exact (above 128 7 _ (b.toNat) 13 7 rfl b.isLt).trans (lowest 128 _ (a.toNat) 6 rfl a.isLt)
    have f6 : wordField w0 6 0 = b.toNat := by rw [hw]; exact lowest 128 _ (b.toNat) 6 rfl b.isLt
    have f7 : wordField w1 31 7 = 0 := by rw [hv]; exact (above 128 7 _ (c.toNat) 31 7 rfl c.isLt).trans (whole 33554432 (0) 24 rfl (by decide))
    have f8 : wordField w1 6 0 = c.toNat := by rw [hv]; exact lowest 128 _ (c.toNat) 6 rfl c.isLt
    have he : encode (.flerp 0#1 1#1 d a b c) = [w0, w1] := by subst ew ev; exact rfl
    rw [he]
    refine (major19 f0).trans ?_
    show decodeMajor19 w0 w1 = _
    simp only [decodeMajor19, f1, f2, f3, f4, f5, f6, f7, f8, BitVec.ofNat_toNat, BitVec.setWidth_eq]
    exact decodedIf_good _ _ hwf
  · have b0 := d.isLt
    have b1 := a.isLt
    have b2 := b.isLt
    have b3 := c.isLt
    obtain ⟨w0, ew⟩ : ∃ w0, w0 = 0x64400000 + 1 * 0x2000000 + 1 * 0x1000000 + d.toNat * 0x4000 + a.toNat * 0x80 + b.toNat := ⟨_, rfl⟩
    have hw : w0 = (((((25 * 2 + 1) * 2 + 1) * 8 + 2) * 128 + d.toNat) * 128 + a.toNat) * 128 + b.toNat := ew.trans (by clear ew; omega)
    obtain ⟨w1, ev⟩ : ∃ w1, w1 = c.toNat := ⟨_, rfl⟩
    have hv : w1 = 0 * 128 + c.toNat := ev.trans (by clear ew ev; omega)
    have f0 : wordField w0 31 26 = 25 := by rw [hw]; exact (above 128 7 _ (b.toNat) 31 26 rfl b.isLt).trans ((above 128 7 _ (a.toNat) 24 19 rfl a.isLt).trans ((above 128 7 _ (d.toNat) 17 12 rfl d.isLt).trans ((above 8 3 _ (2) 10 5 rfl (by decide)).trans ((above 2 1 _ (1) 7 2 rfl (by decide)).trans ((above 2 1 _ (1) 6 1 rfl (by decide)).trans (whole 64 (25) 5 rfl (by decide)))))))
    have f1 : wordField w0 25 25 = 1 := by rw [hw]; exact (above 128 7 _ (b.toNat) 25 25 rfl b.isLt).trans ((above 128 7 _ (a.toNat) 18 18 rfl a.isLt).trans ((above 128 7 _ (d.toNat) 11 11 rfl d.isLt).trans ((above 8 3 _ (2) 4 4 rfl (by decide)).trans ((above 2 1 _ (1) 1 1 rfl (by decide)).trans (lowest 2 _ (1) 0 rfl (by decide))))))
    have f2 : wordField w0 25 21 = 26 := by unfold wordField; omega
    have f3 : wordField w0 24 24 = 1 := by rw [hw]; exact (above 128 7 _ (b.toNat) 24 24 rfl b.isLt).trans ((above 128 7 _ (a.toNat) 17 17 rfl a.isLt).trans ((above 128 7 _ (d.toNat) 10 10 rfl d.isLt).trans ((above 8 3 _ (2) 3 3 rfl (by decide)).trans (lowest 2 _ (1) 0 rfl (by decide)))))
    have f4 : wordField w0 20 14 = d.toNat := by rw [hw]; exact (above 128 7 _ (b.toNat) 20 14 rfl b.isLt).trans ((above 128 7 _ (a.toNat) 13 7 rfl a.isLt).trans (lowest 128 _ (d.toNat) 6 rfl d.isLt))
    have f5 : wordField w0 13 7 = a.toNat := by rw [hw]; exact (above 128 7 _ (b.toNat) 13 7 rfl b.isLt).trans (lowest 128 _ (a.toNat) 6 rfl a.isLt)
    have f6 : wordField w0 6 0 = b.toNat := by rw [hw]; exact lowest 128 _ (b.toNat) 6 rfl b.isLt
    have f7 : wordField w1 31 7 = 0 := by rw [hv]; exact (above 128 7 _ (c.toNat) 31 7 rfl c.isLt).trans (whole 33554432 (0) 24 rfl (by decide))
    have f8 : wordField w1 6 0 = c.toNat := by rw [hv]; exact lowest 128 _ (c.toNat) 6 rfl c.isLt
    have he : encode (.flerp 1#1 1#1 d a b c) = [w0, w1] := by subst ew ev; exact rfl
    rw [he]
    refine (major19 f0).trans ?_
    show decodeMajor19 w0 w1 = _
    simp only [decodeMajor19, f1, f2, f3, f4, f5, f6, f7, f8, BitVec.ofNat_toNat, BitVec.setWidth_eq]
    exact decodedIf_good _ _ hwf

theorem fcmp (c : BitVec 3) (k : BitVec 3) (a : BitVec 7) (b : BitVec 7) (lit : BitVec 32) : Statement (.fcmp c k a b lit) := by
  intro hcode hwf x
  clear hcode
  have hl : litOk [a, b] lit = true := by
    simp only [Instr.wellFormed, Bool.and_eq_true] at hwf
    exact hwf
  have s_c : c = 0#3 ∨ c = 1#3 ∨ c = 2#3 ∨ c = 3#3 ∨ c = 4#3 ∨ c = 5#3 ∨ c = 6#3 ∨ c = 7#3 := by clear hwf hl; revert c; decide
  rcases s_c with rfl | rfl | rfl | rfl | rfl | rfl | rfl | rfl
  · have b0 := k.isLt
    have b1 := a.isLt
    have b2 := b.isLt
    obtain ⟨w0, ew⟩ : ∃ w0, w0 = 0x68000000 + 0 * 0x200000 + k.toNat * 0x4000 + a.toNat * 0x80 + b.toNat := ⟨_, rfl⟩
    have hw : w0 = (((((26 * 4) * 8) * 16) * 8 + k.toNat) * 128 + a.toNat) * 128 + b.toNat := ew.trans (by clear ew; omega)
    have f0 : wordField w0 31 26 = 26 := by rw [hw]; exact (above 128 7 _ (b.toNat) 31 26 rfl b.isLt).trans ((above 128 7 _ (a.toNat) 24 19 rfl a.isLt).trans ((above 8 3 _ (k.toNat) 17 12 rfl k.isLt).trans ((above_zeros 16 4 _ 14 9 rfl).trans ((above_zeros 8 3 _ 10 5 rfl).trans ((above_zeros 4 2 _ 7 2 rfl).trans (whole 64 (26) 5 rfl (by decide)))))))
    have f1 : wordField w0 25 21 = 0 := by unfold wordField; omega
    have f2 : wordField w0 23 21 = 0 := by rw [hw]; exact (above 128 7 _ (b.toNat) 23 21 rfl b.isLt).trans ((above 128 7 _ (a.toNat) 16 14 rfl a.isLt).trans ((above 8 3 _ (k.toNat) 9 7 rfl k.isLt).trans ((above_zeros 16 4 _ 6 4 rfl).trans (lowest_zeros 8 _ 2 rfl))))
    have f3 : wordField w0 20 17 = 0 := by rw [hw]; exact (above 128 7 _ (b.toNat) 20 17 rfl b.isLt).trans ((above 128 7 _ (a.toNat) 13 10 rfl a.isLt).trans ((above 8 3 _ (k.toNat) 6 3 rfl k.isLt).trans (lowest_zeros 16 _ 3 rfl)))
    have f4 : wordField w0 16 14 = k.toNat := by rw [hw]; exact (above 128 7 _ (b.toNat) 16 14 rfl b.isLt).trans ((above 128 7 _ (a.toNat) 9 7 rfl a.isLt).trans (lowest 8 _ (k.toNat) 2 rfl k.isLt))
    have f5 : wordField w0 13 7 = a.toNat := by rw [hw]; exact (above 128 7 _ (b.toNat) 13 7 rfl b.isLt).trans (lowest 128 _ (a.toNat) 6 rfl a.isLt)
    have f6 : wordField w0 6 0 = b.toNat := by rw [hw]; exact lowest 128 _ (b.toNat) 6 rfl b.isLt
    rw [show encode (.fcmp 0#3 k a b lit) = withLit w0 [a, b] lit from ew ▸ rfl, withLit_first]
    rw [major1A f0]
    simp only [decodeMajor1A, f1, f2, f3, f4, f5, f6, BitVec.ofNat_toNat, BitVec.setWidth_eq]
    rw [show [a.toNat, b.toNat] = [a, b].map BitVec.toNat from rfl, litWord_withLit _ _ _ _ hl, litWords_withLit w0 _ lit]
    exact decodedIf_good _ _ hwf
  · have b0 := k.isLt
    have b1 := a.isLt
    have b2 := b.isLt
    obtain ⟨w0, ew⟩ : ∃ w0, w0 = 0x68000000 + 1 * 0x200000 + k.toNat * 0x4000 + a.toNat * 0x80 + b.toNat := ⟨_, rfl⟩
    have hw : w0 = (((((26 * 4) * 8 + 1) * 16) * 8 + k.toNat) * 128 + a.toNat) * 128 + b.toNat := ew.trans (by clear ew; omega)
    have f0 : wordField w0 31 26 = 26 := by rw [hw]; exact (above 128 7 _ (b.toNat) 31 26 rfl b.isLt).trans ((above 128 7 _ (a.toNat) 24 19 rfl a.isLt).trans ((above 8 3 _ (k.toNat) 17 12 rfl k.isLt).trans ((above_zeros 16 4 _ 14 9 rfl).trans ((above 8 3 _ (1) 10 5 rfl (by decide)).trans ((above_zeros 4 2 _ 7 2 rfl).trans (whole 64 (26) 5 rfl (by decide)))))))
    have f1 : wordField w0 25 21 = 1 := by unfold wordField; omega
    have f2 : wordField w0 23 21 = 1 := by rw [hw]; exact (above 128 7 _ (b.toNat) 23 21 rfl b.isLt).trans ((above 128 7 _ (a.toNat) 16 14 rfl a.isLt).trans ((above 8 3 _ (k.toNat) 9 7 rfl k.isLt).trans ((above_zeros 16 4 _ 6 4 rfl).trans (lowest 8 _ (1) 2 rfl (by decide)))))
    have f3 : wordField w0 20 17 = 0 := by rw [hw]; exact (above 128 7 _ (b.toNat) 20 17 rfl b.isLt).trans ((above 128 7 _ (a.toNat) 13 10 rfl a.isLt).trans ((above 8 3 _ (k.toNat) 6 3 rfl k.isLt).trans (lowest_zeros 16 _ 3 rfl)))
    have f4 : wordField w0 16 14 = k.toNat := by rw [hw]; exact (above 128 7 _ (b.toNat) 16 14 rfl b.isLt).trans ((above 128 7 _ (a.toNat) 9 7 rfl a.isLt).trans (lowest 8 _ (k.toNat) 2 rfl k.isLt))
    have f5 : wordField w0 13 7 = a.toNat := by rw [hw]; exact (above 128 7 _ (b.toNat) 13 7 rfl b.isLt).trans (lowest 128 _ (a.toNat) 6 rfl a.isLt)
    have f6 : wordField w0 6 0 = b.toNat := by rw [hw]; exact lowest 128 _ (b.toNat) 6 rfl b.isLt
    rw [show encode (.fcmp 1#3 k a b lit) = withLit w0 [a, b] lit from ew ▸ rfl, withLit_first]
    rw [major1A f0]
    simp only [decodeMajor1A, f1, f2, f3, f4, f5, f6, BitVec.ofNat_toNat, BitVec.setWidth_eq]
    rw [show [a.toNat, b.toNat] = [a, b].map BitVec.toNat from rfl, litWord_withLit _ _ _ _ hl, litWords_withLit w0 _ lit]
    exact decodedIf_good _ _ hwf
  · have b0 := k.isLt
    have b1 := a.isLt
    have b2 := b.isLt
    obtain ⟨w0, ew⟩ : ∃ w0, w0 = 0x68000000 + 2 * 0x200000 + k.toNat * 0x4000 + a.toNat * 0x80 + b.toNat := ⟨_, rfl⟩
    have hw : w0 = (((((26 * 4) * 8 + 2) * 16) * 8 + k.toNat) * 128 + a.toNat) * 128 + b.toNat := ew.trans (by clear ew; omega)
    have f0 : wordField w0 31 26 = 26 := by rw [hw]; exact (above 128 7 _ (b.toNat) 31 26 rfl b.isLt).trans ((above 128 7 _ (a.toNat) 24 19 rfl a.isLt).trans ((above 8 3 _ (k.toNat) 17 12 rfl k.isLt).trans ((above_zeros 16 4 _ 14 9 rfl).trans ((above 8 3 _ (2) 10 5 rfl (by decide)).trans ((above_zeros 4 2 _ 7 2 rfl).trans (whole 64 (26) 5 rfl (by decide)))))))
    have f1 : wordField w0 25 21 = 2 := by unfold wordField; omega
    have f2 : wordField w0 23 21 = 2 := by rw [hw]; exact (above 128 7 _ (b.toNat) 23 21 rfl b.isLt).trans ((above 128 7 _ (a.toNat) 16 14 rfl a.isLt).trans ((above 8 3 _ (k.toNat) 9 7 rfl k.isLt).trans ((above_zeros 16 4 _ 6 4 rfl).trans (lowest 8 _ (2) 2 rfl (by decide)))))
    have f3 : wordField w0 20 17 = 0 := by rw [hw]; exact (above 128 7 _ (b.toNat) 20 17 rfl b.isLt).trans ((above 128 7 _ (a.toNat) 13 10 rfl a.isLt).trans ((above 8 3 _ (k.toNat) 6 3 rfl k.isLt).trans (lowest_zeros 16 _ 3 rfl)))
    have f4 : wordField w0 16 14 = k.toNat := by rw [hw]; exact (above 128 7 _ (b.toNat) 16 14 rfl b.isLt).trans ((above 128 7 _ (a.toNat) 9 7 rfl a.isLt).trans (lowest 8 _ (k.toNat) 2 rfl k.isLt))
    have f5 : wordField w0 13 7 = a.toNat := by rw [hw]; exact (above 128 7 _ (b.toNat) 13 7 rfl b.isLt).trans (lowest 128 _ (a.toNat) 6 rfl a.isLt)
    have f6 : wordField w0 6 0 = b.toNat := by rw [hw]; exact lowest 128 _ (b.toNat) 6 rfl b.isLt
    rw [show encode (.fcmp 2#3 k a b lit) = withLit w0 [a, b] lit from ew ▸ rfl, withLit_first]
    rw [major1A f0]
    simp only [decodeMajor1A, f1, f2, f3, f4, f5, f6, BitVec.ofNat_toNat, BitVec.setWidth_eq]
    rw [show [a.toNat, b.toNat] = [a, b].map BitVec.toNat from rfl, litWord_withLit _ _ _ _ hl, litWords_withLit w0 _ lit]
    exact decodedIf_good _ _ hwf
  · have b0 := k.isLt
    have b1 := a.isLt
    have b2 := b.isLt
    obtain ⟨w0, ew⟩ : ∃ w0, w0 = 0x68000000 + 3 * 0x200000 + k.toNat * 0x4000 + a.toNat * 0x80 + b.toNat := ⟨_, rfl⟩
    have hw : w0 = (((((26 * 4) * 8 + 3) * 16) * 8 + k.toNat) * 128 + a.toNat) * 128 + b.toNat := ew.trans (by clear ew; omega)
    have f0 : wordField w0 31 26 = 26 := by rw [hw]; exact (above 128 7 _ (b.toNat) 31 26 rfl b.isLt).trans ((above 128 7 _ (a.toNat) 24 19 rfl a.isLt).trans ((above 8 3 _ (k.toNat) 17 12 rfl k.isLt).trans ((above_zeros 16 4 _ 14 9 rfl).trans ((above 8 3 _ (3) 10 5 rfl (by decide)).trans ((above_zeros 4 2 _ 7 2 rfl).trans (whole 64 (26) 5 rfl (by decide)))))))
    have f1 : wordField w0 25 21 = 3 := by unfold wordField; omega
    have f2 : wordField w0 23 21 = 3 := by rw [hw]; exact (above 128 7 _ (b.toNat) 23 21 rfl b.isLt).trans ((above 128 7 _ (a.toNat) 16 14 rfl a.isLt).trans ((above 8 3 _ (k.toNat) 9 7 rfl k.isLt).trans ((above_zeros 16 4 _ 6 4 rfl).trans (lowest 8 _ (3) 2 rfl (by decide)))))
    have f3 : wordField w0 20 17 = 0 := by rw [hw]; exact (above 128 7 _ (b.toNat) 20 17 rfl b.isLt).trans ((above 128 7 _ (a.toNat) 13 10 rfl a.isLt).trans ((above 8 3 _ (k.toNat) 6 3 rfl k.isLt).trans (lowest_zeros 16 _ 3 rfl)))
    have f4 : wordField w0 16 14 = k.toNat := by rw [hw]; exact (above 128 7 _ (b.toNat) 16 14 rfl b.isLt).trans ((above 128 7 _ (a.toNat) 9 7 rfl a.isLt).trans (lowest 8 _ (k.toNat) 2 rfl k.isLt))
    have f5 : wordField w0 13 7 = a.toNat := by rw [hw]; exact (above 128 7 _ (b.toNat) 13 7 rfl b.isLt).trans (lowest 128 _ (a.toNat) 6 rfl a.isLt)
    have f6 : wordField w0 6 0 = b.toNat := by rw [hw]; exact lowest 128 _ (b.toNat) 6 rfl b.isLt
    rw [show encode (.fcmp 3#3 k a b lit) = withLit w0 [a, b] lit from ew ▸ rfl, withLit_first]
    rw [major1A f0]
    simp only [decodeMajor1A, f1, f2, f3, f4, f5, f6, BitVec.ofNat_toNat, BitVec.setWidth_eq]
    rw [show [a.toNat, b.toNat] = [a, b].map BitVec.toNat from rfl, litWord_withLit _ _ _ _ hl, litWords_withLit w0 _ lit]
    exact decodedIf_good _ _ hwf
  · have b0 := k.isLt
    have b1 := a.isLt
    have b2 := b.isLt
    obtain ⟨w0, ew⟩ : ∃ w0, w0 = 0x68000000 + 4 * 0x200000 + k.toNat * 0x4000 + a.toNat * 0x80 + b.toNat := ⟨_, rfl⟩
    have hw : w0 = (((((26 * 4) * 8 + 4) * 16) * 8 + k.toNat) * 128 + a.toNat) * 128 + b.toNat := ew.trans (by clear ew; omega)
    have f0 : wordField w0 31 26 = 26 := by rw [hw]; exact (above 128 7 _ (b.toNat) 31 26 rfl b.isLt).trans ((above 128 7 _ (a.toNat) 24 19 rfl a.isLt).trans ((above 8 3 _ (k.toNat) 17 12 rfl k.isLt).trans ((above_zeros 16 4 _ 14 9 rfl).trans ((above 8 3 _ (4) 10 5 rfl (by decide)).trans ((above_zeros 4 2 _ 7 2 rfl).trans (whole 64 (26) 5 rfl (by decide)))))))
    have f1 : wordField w0 25 21 = 4 := by unfold wordField; omega
    have f2 : wordField w0 23 21 = 4 := by rw [hw]; exact (above 128 7 _ (b.toNat) 23 21 rfl b.isLt).trans ((above 128 7 _ (a.toNat) 16 14 rfl a.isLt).trans ((above 8 3 _ (k.toNat) 9 7 rfl k.isLt).trans ((above_zeros 16 4 _ 6 4 rfl).trans (lowest 8 _ (4) 2 rfl (by decide)))))
    have f3 : wordField w0 20 17 = 0 := by rw [hw]; exact (above 128 7 _ (b.toNat) 20 17 rfl b.isLt).trans ((above 128 7 _ (a.toNat) 13 10 rfl a.isLt).trans ((above 8 3 _ (k.toNat) 6 3 rfl k.isLt).trans (lowest_zeros 16 _ 3 rfl)))
    have f4 : wordField w0 16 14 = k.toNat := by rw [hw]; exact (above 128 7 _ (b.toNat) 16 14 rfl b.isLt).trans ((above 128 7 _ (a.toNat) 9 7 rfl a.isLt).trans (lowest 8 _ (k.toNat) 2 rfl k.isLt))
    have f5 : wordField w0 13 7 = a.toNat := by rw [hw]; exact (above 128 7 _ (b.toNat) 13 7 rfl b.isLt).trans (lowest 128 _ (a.toNat) 6 rfl a.isLt)
    have f6 : wordField w0 6 0 = b.toNat := by rw [hw]; exact lowest 128 _ (b.toNat) 6 rfl b.isLt
    rw [show encode (.fcmp 4#3 k a b lit) = withLit w0 [a, b] lit from ew ▸ rfl, withLit_first]
    rw [major1A f0]
    simp only [decodeMajor1A, f1, f2, f3, f4, f5, f6, BitVec.ofNat_toNat, BitVec.setWidth_eq]
    rw [show [a.toNat, b.toNat] = [a, b].map BitVec.toNat from rfl, litWord_withLit _ _ _ _ hl, litWords_withLit w0 _ lit]
    exact decodedIf_good _ _ hwf
  · have b0 := k.isLt
    have b1 := a.isLt
    have b2 := b.isLt
    obtain ⟨w0, ew⟩ : ∃ w0, w0 = 0x68000000 + 5 * 0x200000 + k.toNat * 0x4000 + a.toNat * 0x80 + b.toNat := ⟨_, rfl⟩
    have hw : w0 = (((((26 * 4) * 8 + 5) * 16) * 8 + k.toNat) * 128 + a.toNat) * 128 + b.toNat := ew.trans (by clear ew; omega)
    have f0 : wordField w0 31 26 = 26 := by rw [hw]; exact (above 128 7 _ (b.toNat) 31 26 rfl b.isLt).trans ((above 128 7 _ (a.toNat) 24 19 rfl a.isLt).trans ((above 8 3 _ (k.toNat) 17 12 rfl k.isLt).trans ((above_zeros 16 4 _ 14 9 rfl).trans ((above 8 3 _ (5) 10 5 rfl (by decide)).trans ((above_zeros 4 2 _ 7 2 rfl).trans (whole 64 (26) 5 rfl (by decide)))))))
    have f1 : wordField w0 25 21 = 5 := by unfold wordField; omega
    have f2 : wordField w0 23 21 = 5 := by rw [hw]; exact (above 128 7 _ (b.toNat) 23 21 rfl b.isLt).trans ((above 128 7 _ (a.toNat) 16 14 rfl a.isLt).trans ((above 8 3 _ (k.toNat) 9 7 rfl k.isLt).trans ((above_zeros 16 4 _ 6 4 rfl).trans (lowest 8 _ (5) 2 rfl (by decide)))))
    have f3 : wordField w0 20 17 = 0 := by rw [hw]; exact (above 128 7 _ (b.toNat) 20 17 rfl b.isLt).trans ((above 128 7 _ (a.toNat) 13 10 rfl a.isLt).trans ((above 8 3 _ (k.toNat) 6 3 rfl k.isLt).trans (lowest_zeros 16 _ 3 rfl)))
    have f4 : wordField w0 16 14 = k.toNat := by rw [hw]; exact (above 128 7 _ (b.toNat) 16 14 rfl b.isLt).trans ((above 128 7 _ (a.toNat) 9 7 rfl a.isLt).trans (lowest 8 _ (k.toNat) 2 rfl k.isLt))
    have f5 : wordField w0 13 7 = a.toNat := by rw [hw]; exact (above 128 7 _ (b.toNat) 13 7 rfl b.isLt).trans (lowest 128 _ (a.toNat) 6 rfl a.isLt)
    have f6 : wordField w0 6 0 = b.toNat := by rw [hw]; exact lowest 128 _ (b.toNat) 6 rfl b.isLt
    rw [show encode (.fcmp 5#3 k a b lit) = withLit w0 [a, b] lit from ew ▸ rfl, withLit_first]
    rw [major1A f0]
    simp only [decodeMajor1A, f1, f2, f3, f4, f5, f6, BitVec.ofNat_toNat, BitVec.setWidth_eq]
    rw [show [a.toNat, b.toNat] = [a, b].map BitVec.toNat from rfl, litWord_withLit _ _ _ _ hl, litWords_withLit w0 _ lit]
    exact decodedIf_good _ _ hwf
  · have b0 := k.isLt
    have b1 := a.isLt
    have b2 := b.isLt
    obtain ⟨w0, ew⟩ : ∃ w0, w0 = 0x68000000 + 6 * 0x200000 + k.toNat * 0x4000 + a.toNat * 0x80 + b.toNat := ⟨_, rfl⟩
    have hw : w0 = (((((26 * 4) * 8 + 6) * 16) * 8 + k.toNat) * 128 + a.toNat) * 128 + b.toNat := ew.trans (by clear ew; omega)
    have f0 : wordField w0 31 26 = 26 := by rw [hw]; exact (above 128 7 _ (b.toNat) 31 26 rfl b.isLt).trans ((above 128 7 _ (a.toNat) 24 19 rfl a.isLt).trans ((above 8 3 _ (k.toNat) 17 12 rfl k.isLt).trans ((above_zeros 16 4 _ 14 9 rfl).trans ((above 8 3 _ (6) 10 5 rfl (by decide)).trans ((above_zeros 4 2 _ 7 2 rfl).trans (whole 64 (26) 5 rfl (by decide)))))))
    have f1 : wordField w0 25 21 = 6 := by unfold wordField; omega
    have f2 : wordField w0 23 21 = 6 := by rw [hw]; exact (above 128 7 _ (b.toNat) 23 21 rfl b.isLt).trans ((above 128 7 _ (a.toNat) 16 14 rfl a.isLt).trans ((above 8 3 _ (k.toNat) 9 7 rfl k.isLt).trans ((above_zeros 16 4 _ 6 4 rfl).trans (lowest 8 _ (6) 2 rfl (by decide)))))
    have f3 : wordField w0 20 17 = 0 := by rw [hw]; exact (above 128 7 _ (b.toNat) 20 17 rfl b.isLt).trans ((above 128 7 _ (a.toNat) 13 10 rfl a.isLt).trans ((above 8 3 _ (k.toNat) 6 3 rfl k.isLt).trans (lowest_zeros 16 _ 3 rfl)))
    have f4 : wordField w0 16 14 = k.toNat := by rw [hw]; exact (above 128 7 _ (b.toNat) 16 14 rfl b.isLt).trans ((above 128 7 _ (a.toNat) 9 7 rfl a.isLt).trans (lowest 8 _ (k.toNat) 2 rfl k.isLt))
    have f5 : wordField w0 13 7 = a.toNat := by rw [hw]; exact (above 128 7 _ (b.toNat) 13 7 rfl b.isLt).trans (lowest 128 _ (a.toNat) 6 rfl a.isLt)
    have f6 : wordField w0 6 0 = b.toNat := by rw [hw]; exact lowest 128 _ (b.toNat) 6 rfl b.isLt
    rw [show encode (.fcmp 6#3 k a b lit) = withLit w0 [a, b] lit from ew ▸ rfl, withLit_first]
    rw [major1A f0]
    simp only [decodeMajor1A, f1, f2, f3, f4, f5, f6, BitVec.ofNat_toNat, BitVec.setWidth_eq]
    rw [show [a.toNat, b.toNat] = [a, b].map BitVec.toNat from rfl, litWord_withLit _ _ _ _ hl, litWords_withLit w0 _ lit]
    exact decodedIf_good _ _ hwf
  · have b0 := k.isLt
    have b1 := a.isLt
    have b2 := b.isLt
    obtain ⟨w0, ew⟩ : ∃ w0, w0 = 0x68000000 + 7 * 0x200000 + k.toNat * 0x4000 + a.toNat * 0x80 + b.toNat := ⟨_, rfl⟩
    have hw : w0 = (((((26 * 4) * 8 + 7) * 16) * 8 + k.toNat) * 128 + a.toNat) * 128 + b.toNat := ew.trans (by clear ew; omega)
    have f0 : wordField w0 31 26 = 26 := by rw [hw]; exact (above 128 7 _ (b.toNat) 31 26 rfl b.isLt).trans ((above 128 7 _ (a.toNat) 24 19 rfl a.isLt).trans ((above 8 3 _ (k.toNat) 17 12 rfl k.isLt).trans ((above_zeros 16 4 _ 14 9 rfl).trans ((above 8 3 _ (7) 10 5 rfl (by decide)).trans ((above_zeros 4 2 _ 7 2 rfl).trans (whole 64 (26) 5 rfl (by decide)))))))
    have f1 : wordField w0 25 21 = 7 := by unfold wordField; omega
    have f2 : wordField w0 23 21 = 7 := by rw [hw]; exact (above 128 7 _ (b.toNat) 23 21 rfl b.isLt).trans ((above 128 7 _ (a.toNat) 16 14 rfl a.isLt).trans ((above 8 3 _ (k.toNat) 9 7 rfl k.isLt).trans ((above_zeros 16 4 _ 6 4 rfl).trans (lowest 8 _ (7) 2 rfl (by decide)))))
    have f3 : wordField w0 20 17 = 0 := by rw [hw]; exact (above 128 7 _ (b.toNat) 20 17 rfl b.isLt).trans ((above 128 7 _ (a.toNat) 13 10 rfl a.isLt).trans ((above 8 3 _ (k.toNat) 6 3 rfl k.isLt).trans (lowest_zeros 16 _ 3 rfl)))
    have f4 : wordField w0 16 14 = k.toNat := by rw [hw]; exact (above 128 7 _ (b.toNat) 16 14 rfl b.isLt).trans ((above 128 7 _ (a.toNat) 9 7 rfl a.isLt).trans (lowest 8 _ (k.toNat) 2 rfl k.isLt))
    have f5 : wordField w0 13 7 = a.toNat := by rw [hw]; exact (above 128 7 _ (b.toNat) 13 7 rfl b.isLt).trans (lowest 128 _ (a.toNat) 6 rfl a.isLt)
    have f6 : wordField w0 6 0 = b.toNat := by rw [hw]; exact lowest 128 _ (b.toNat) 6 rfl b.isLt
    rw [show encode (.fcmp 7#3 k a b lit) = withLit w0 [a, b] lit from ew ▸ rfl, withLit_first]
    rw [major1A f0]
    simp only [decodeMajor1A, f1, f2, f3, f4, f5, f6, BitVec.ofNat_toNat, BitVec.setWidth_eq]
    rw [show [a.toNat, b.toNat] = [a, b].map BitVec.toNat from rfl, litWord_withLit _ _ _ _ hl, litWords_withLit w0 _ lit]
    exact decodedIf_good _ _ hwf

theorem fclass (d : BitVec 7) (a : BitVec 7) (lit : BitVec 32) : Statement (.fclass d a lit) := by
  intro hcode hwf x
  clear hcode
  have hl : litOk [a] lit = true := by
    simp only [Instr.wellFormed, Bool.and_eq_true] at hwf
    exact hwf
  have b0 := d.isLt
  have b1 := a.isLt
  obtain ⟨w0, ew⟩ : ∃ w0, w0 = 0x69000000 + d.toNat * 0x4000 + a.toNat * 0x80 := ⟨_, rfl⟩
  have hw : w0 = (((26 * 32 + 8) * 128 + d.toNat) * 128 + a.toNat) * 128 := ew.trans (by clear ew; omega)
  have f0 : wordField w0 31 26 = 26 := by rw [hw]; exact (above_zeros 128 7 _ 31 26 rfl).trans ((above 128 7 _ (a.toNat) 24 19 rfl a.isLt).trans ((above 128 7 _ (d.toNat) 17 12 rfl d.isLt).trans ((above 32 5 _ (8) 10 5 rfl (by decide)).trans (whole 64 (26) 5 rfl (by decide)))))
  have f1 : wordField w0 25 21 = 8 := by rw [hw]; exact (above_zeros 128 7 _ 25 21 rfl).trans ((above 128 7 _ (a.toNat) 18 14 rfl a.isLt).trans ((above 128 7 _ (d.toNat) 11 7 rfl d.isLt).trans (lowest 32 _ (8) 4 rfl (by decide))))
  have f2 : wordField w0 20 14 = d.toNat := by rw [hw]; exact (above_zeros 128 7 _ 20 14 rfl).trans ((above 128 7 _ (a.toNat) 13 7 rfl a.isLt).trans (lowest 128 _ (d.toNat) 6 rfl d.isLt))
  have f3 : wordField w0 13 7 = a.toNat := by rw [hw]; exact (above_zeros 128 7 _ 13 7 rfl).trans (lowest 128 _ (a.toNat) 6 rfl a.isLt)
  have f4 : wordField w0 6 0 = 0 := by rw [hw]; exact lowest_zeros 128 _ 6 rfl
  rw [show encode (.fclass d a lit) = withLit w0 [a] lit from ew ▸ rfl, withLit_first]
  rw [major1A f0]
  simp only [decodeMajor1A, f1, f2, f3, f4, BitVec.ofNat_toNat, BitVec.setWidth_eq]
  rw [show [a.toNat] = [a].map BitVec.toNat from rfl, litWord_withLit _ _ _ _ hl, litWords_withLit w0 _ lit]
  exact decodedIf_good _ _ hwf

theorem frcp (p : BitVec 1) (d : BitVec 7) (a : BitVec 7) (lit : BitVec 32) : Statement (.frcp p d a lit) := by
  intro hcode hwf x
  clear hcode
  have hl : litOk [a] lit = true := by
    simp only [Instr.wellFormed, Bool.and_eq_true] at hwf
    exact hwf
  have s_p : p = 0#1 ∨ p = 1#1 := by clear hwf hl; revert p; decide
  rcases s_p with rfl | rfl
  · have b0 := d.isLt
    have b1 := a.isLt
    obtain ⟨w0, ew⟩ : ∃ w0, w0 = 0x6C000000 + 0 * 0x1000000 + d.toNat * 0x4000 + a.toNat * 0x80 := ⟨_, rfl⟩
    have hw : w0 = (((((27 * 2) * 2) * 8) * 128 + d.toNat) * 128 + a.toNat) * 128 := ew.trans (by clear ew; omega)
    have f0 : wordField w0 31 26 = 27 := by rw [hw]; exact (above_zeros 128 7 _ 31 26 rfl).trans ((above 128 7 _ (a.toNat) 24 19 rfl a.isLt).trans ((above 128 7 _ (d.toNat) 17 12 rfl d.isLt).trans ((above_zeros 8 3 _ 10 5 rfl).trans ((above_zeros 2 1 _ 7 2 rfl).trans ((above_zeros 2 1 _ 6 1 rfl).trans (whole 64 (27) 5 rfl (by decide)))))))
    have f1 : wordField w0 25 21 = 0 := by unfold wordField; omega
    have f2 : wordField w0 24 24 = 0 := by rw [hw]; exact (above_zeros 128 7 _ 24 24 rfl).trans ((above 128 7 _ (a.toNat) 17 17 rfl a.isLt).trans ((above 128 7 _ (d.toNat) 10 10 rfl d.isLt).trans ((above_zeros 8 3 _ 3 3 rfl).trans (lowest_zeros 2 _ 0 rfl))))
    have f3 : wordField w0 20 14 = d.toNat := by rw [hw]; exact (above_zeros 128 7 _ 20 14 rfl).trans ((above 128 7 _ (a.toNat) 13 7 rfl a.isLt).trans (lowest 128 _ (d.toNat) 6 rfl d.isLt))
    have f4 : wordField w0 13 7 = a.toNat := by rw [hw]; exact (above_zeros 128 7 _ 13 7 rfl).trans (lowest 128 _ (a.toNat) 6 rfl a.isLt)
    have f5 : wordField w0 6 0 = 0 := by rw [hw]; exact lowest_zeros 128 _ 6 rfl
    rw [show encode (.frcp 0#1 d a lit) = withLit w0 [a] lit from ew ▸ rfl, withLit_first]
    rw [major1B f0]
    simp only [decodeMajor1B, f1, f2, f3, f4, f5, BitVec.ofNat_toNat, BitVec.setWidth_eq]
    rw [show [a.toNat] = [a].map BitVec.toNat from rfl, litWord_withLit _ _ _ _ hl, litWords_withLit w0 _ lit]
    exact decodedIf_good _ _ hwf
  · have b0 := d.isLt
    have b1 := a.isLt
    obtain ⟨w0, ew⟩ : ∃ w0, w0 = 0x6C000000 + 1 * 0x1000000 + d.toNat * 0x4000 + a.toNat * 0x80 := ⟨_, rfl⟩
    have hw : w0 = (((((27 * 2) * 2 + 1) * 8) * 128 + d.toNat) * 128 + a.toNat) * 128 := ew.trans (by clear ew; omega)
    have f0 : wordField w0 31 26 = 27 := by rw [hw]; exact (above_zeros 128 7 _ 31 26 rfl).trans ((above 128 7 _ (a.toNat) 24 19 rfl a.isLt).trans ((above 128 7 _ (d.toNat) 17 12 rfl d.isLt).trans ((above_zeros 8 3 _ 10 5 rfl).trans ((above 2 1 _ (1) 7 2 rfl (by decide)).trans ((above_zeros 2 1 _ 6 1 rfl).trans (whole 64 (27) 5 rfl (by decide)))))))
    have f1 : wordField w0 25 21 = 8 := by unfold wordField; omega
    have f2 : wordField w0 24 24 = 1 := by rw [hw]; exact (above_zeros 128 7 _ 24 24 rfl).trans ((above 128 7 _ (a.toNat) 17 17 rfl a.isLt).trans ((above 128 7 _ (d.toNat) 10 10 rfl d.isLt).trans ((above_zeros 8 3 _ 3 3 rfl).trans (lowest 2 _ (1) 0 rfl (by decide)))))
    have f3 : wordField w0 20 14 = d.toNat := by rw [hw]; exact (above_zeros 128 7 _ 20 14 rfl).trans ((above 128 7 _ (a.toNat) 13 7 rfl a.isLt).trans (lowest 128 _ (d.toNat) 6 rfl d.isLt))
    have f4 : wordField w0 13 7 = a.toNat := by rw [hw]; exact (above_zeros 128 7 _ 13 7 rfl).trans (lowest 128 _ (a.toNat) 6 rfl a.isLt)
    have f5 : wordField w0 6 0 = 0 := by rw [hw]; exact lowest_zeros 128 _ 6 rfl
    rw [show encode (.frcp 1#1 d a lit) = withLit w0 [a] lit from ew ▸ rfl, withLit_first]
    rw [major1B f0]
    simp only [decodeMajor1B, f1, f2, f3, f4, f5, BitVec.ofNat_toNat, BitVec.setWidth_eq]
    rw [show [a.toNat] = [a].map BitVec.toNat from rfl, litWord_withLit _ _ _ _ hl, litWords_withLit w0 _ lit]
    exact decodedIf_good _ _ hwf

theorem frsq (p : BitVec 1) (d : BitVec 7) (a : BitVec 7) (lit : BitVec 32) : Statement (.frsq p d a lit) := by
  intro hcode hwf x
  clear hcode
  have hl : litOk [a] lit = true := by
    simp only [Instr.wellFormed, Bool.and_eq_true] at hwf
    exact hwf
  have s_p : p = 0#1 ∨ p = 1#1 := by clear hwf hl; revert p; decide
  rcases s_p with rfl | rfl
  · have b0 := d.isLt
    have b1 := a.isLt
    obtain ⟨w0, ew⟩ : ∃ w0, w0 = 0x6C200000 + 0 * 0x1000000 + d.toNat * 0x4000 + a.toNat * 0x80 := ⟨_, rfl⟩
    have hw : w0 = (((((27 * 2) * 2) * 8 + 1) * 128 + d.toNat) * 128 + a.toNat) * 128 := ew.trans (by clear ew; omega)
    have f0 : wordField w0 31 26 = 27 := by rw [hw]; exact (above_zeros 128 7 _ 31 26 rfl).trans ((above 128 7 _ (a.toNat) 24 19 rfl a.isLt).trans ((above 128 7 _ (d.toNat) 17 12 rfl d.isLt).trans ((above 8 3 _ (1) 10 5 rfl (by decide)).trans ((above_zeros 2 1 _ 7 2 rfl).trans ((above_zeros 2 1 _ 6 1 rfl).trans (whole 64 (27) 5 rfl (by decide)))))))
    have f1 : wordField w0 25 21 = 1 := by unfold wordField; omega
    have f2 : wordField w0 24 24 = 0 := by rw [hw]; exact (above_zeros 128 7 _ 24 24 rfl).trans ((above 128 7 _ (a.toNat) 17 17 rfl a.isLt).trans ((above 128 7 _ (d.toNat) 10 10 rfl d.isLt).trans ((above 8 3 _ (1) 3 3 rfl (by decide)).trans (lowest_zeros 2 _ 0 rfl))))
    have f3 : wordField w0 20 14 = d.toNat := by rw [hw]; exact (above_zeros 128 7 _ 20 14 rfl).trans ((above 128 7 _ (a.toNat) 13 7 rfl a.isLt).trans (lowest 128 _ (d.toNat) 6 rfl d.isLt))
    have f4 : wordField w0 13 7 = a.toNat := by rw [hw]; exact (above_zeros 128 7 _ 13 7 rfl).trans (lowest 128 _ (a.toNat) 6 rfl a.isLt)
    have f5 : wordField w0 6 0 = 0 := by rw [hw]; exact lowest_zeros 128 _ 6 rfl
    rw [show encode (.frsq 0#1 d a lit) = withLit w0 [a] lit from ew ▸ rfl, withLit_first]
    rw [major1B f0]
    simp only [decodeMajor1B, f1, f2, f3, f4, f5, BitVec.ofNat_toNat, BitVec.setWidth_eq]
    rw [show [a.toNat] = [a].map BitVec.toNat from rfl, litWord_withLit _ _ _ _ hl, litWords_withLit w0 _ lit]
    exact decodedIf_good _ _ hwf
  · have b0 := d.isLt
    have b1 := a.isLt
    obtain ⟨w0, ew⟩ : ∃ w0, w0 = 0x6C200000 + 1 * 0x1000000 + d.toNat * 0x4000 + a.toNat * 0x80 := ⟨_, rfl⟩
    have hw : w0 = (((((27 * 2) * 2 + 1) * 8 + 1) * 128 + d.toNat) * 128 + a.toNat) * 128 := ew.trans (by clear ew; omega)
    have f0 : wordField w0 31 26 = 27 := by rw [hw]; exact (above_zeros 128 7 _ 31 26 rfl).trans ((above 128 7 _ (a.toNat) 24 19 rfl a.isLt).trans ((above 128 7 _ (d.toNat) 17 12 rfl d.isLt).trans ((above 8 3 _ (1) 10 5 rfl (by decide)).trans ((above 2 1 _ (1) 7 2 rfl (by decide)).trans ((above_zeros 2 1 _ 6 1 rfl).trans (whole 64 (27) 5 rfl (by decide)))))))
    have f1 : wordField w0 25 21 = 9 := by unfold wordField; omega
    have f2 : wordField w0 24 24 = 1 := by rw [hw]; exact (above_zeros 128 7 _ 24 24 rfl).trans ((above 128 7 _ (a.toNat) 17 17 rfl a.isLt).trans ((above 128 7 _ (d.toNat) 10 10 rfl d.isLt).trans ((above 8 3 _ (1) 3 3 rfl (by decide)).trans (lowest 2 _ (1) 0 rfl (by decide)))))
    have f3 : wordField w0 20 14 = d.toNat := by rw [hw]; exact (above_zeros 128 7 _ 20 14 rfl).trans ((above 128 7 _ (a.toNat) 13 7 rfl a.isLt).trans (lowest 128 _ (d.toNat) 6 rfl d.isLt))
    have f4 : wordField w0 13 7 = a.toNat := by rw [hw]; exact (above_zeros 128 7 _ 13 7 rfl).trans (lowest 128 _ (a.toNat) 6 rfl a.isLt)
    have f5 : wordField w0 6 0 = 0 := by rw [hw]; exact lowest_zeros 128 _ 6 rfl
    rw [show encode (.frsq 1#1 d a lit) = withLit w0 [a] lit from ew ▸ rfl, withLit_first]
    rw [major1B f0]
    simp only [decodeMajor1B, f1, f2, f3, f4, f5, BitVec.ofNat_toNat, BitVec.setWidth_eq]
    rw [show [a.toNat] = [a].map BitVec.toNat from rfl, litWord_withLit _ _ _ _ hl, litWords_withLit w0 _ lit]
    exact decodedIf_good _ _ hwf

theorem fsqrt (p : BitVec 1) (d : BitVec 7) (a : BitVec 7) (lit : BitVec 32) : Statement (.fsqrt p d a lit) := by
  intro hcode hwf x
  clear hcode
  have hl : litOk [a] lit = true := by
    simp only [Instr.wellFormed, Bool.and_eq_true] at hwf
    exact hwf
  have s_p : p = 0#1 ∨ p = 1#1 := by clear hwf hl; revert p; decide
  rcases s_p with rfl | rfl
  · have b0 := d.isLt
    have b1 := a.isLt
    obtain ⟨w0, ew⟩ : ∃ w0, w0 = 0x6C400000 + 0 * 0x1000000 + d.toNat * 0x4000 + a.toNat * 0x80 := ⟨_, rfl⟩
    have hw : w0 = (((((27 * 2) * 2) * 8 + 2) * 128 + d.toNat) * 128 + a.toNat) * 128 := ew.trans (by clear ew; omega)
    have f0 : wordField w0 31 26 = 27 := by rw [hw]; exact (above_zeros 128 7 _ 31 26 rfl).trans ((above 128 7 _ (a.toNat) 24 19 rfl a.isLt).trans ((above 128 7 _ (d.toNat) 17 12 rfl d.isLt).trans ((above 8 3 _ (2) 10 5 rfl (by decide)).trans ((above_zeros 2 1 _ 7 2 rfl).trans ((above_zeros 2 1 _ 6 1 rfl).trans (whole 64 (27) 5 rfl (by decide)))))))
    have f1 : wordField w0 25 21 = 2 := by unfold wordField; omega
    have f2 : wordField w0 24 24 = 0 := by rw [hw]; exact (above_zeros 128 7 _ 24 24 rfl).trans ((above 128 7 _ (a.toNat) 17 17 rfl a.isLt).trans ((above 128 7 _ (d.toNat) 10 10 rfl d.isLt).trans ((above 8 3 _ (2) 3 3 rfl (by decide)).trans (lowest_zeros 2 _ 0 rfl))))
    have f3 : wordField w0 20 14 = d.toNat := by rw [hw]; exact (above_zeros 128 7 _ 20 14 rfl).trans ((above 128 7 _ (a.toNat) 13 7 rfl a.isLt).trans (lowest 128 _ (d.toNat) 6 rfl d.isLt))
    have f4 : wordField w0 13 7 = a.toNat := by rw [hw]; exact (above_zeros 128 7 _ 13 7 rfl).trans (lowest 128 _ (a.toNat) 6 rfl a.isLt)
    have f5 : wordField w0 6 0 = 0 := by rw [hw]; exact lowest_zeros 128 _ 6 rfl
    rw [show encode (.fsqrt 0#1 d a lit) = withLit w0 [a] lit from ew ▸ rfl, withLit_first]
    rw [major1B f0]
    simp only [decodeMajor1B, f1, f2, f3, f4, f5, BitVec.ofNat_toNat, BitVec.setWidth_eq]
    rw [show [a.toNat] = [a].map BitVec.toNat from rfl, litWord_withLit _ _ _ _ hl, litWords_withLit w0 _ lit]
    exact decodedIf_good _ _ hwf
  · have b0 := d.isLt
    have b1 := a.isLt
    obtain ⟨w0, ew⟩ : ∃ w0, w0 = 0x6C400000 + 1 * 0x1000000 + d.toNat * 0x4000 + a.toNat * 0x80 := ⟨_, rfl⟩
    have hw : w0 = (((((27 * 2) * 2 + 1) * 8 + 2) * 128 + d.toNat) * 128 + a.toNat) * 128 := ew.trans (by clear ew; omega)
    have f0 : wordField w0 31 26 = 27 := by rw [hw]; exact (above_zeros 128 7 _ 31 26 rfl).trans ((above 128 7 _ (a.toNat) 24 19 rfl a.isLt).trans ((above 128 7 _ (d.toNat) 17 12 rfl d.isLt).trans ((above 8 3 _ (2) 10 5 rfl (by decide)).trans ((above 2 1 _ (1) 7 2 rfl (by decide)).trans ((above_zeros 2 1 _ 6 1 rfl).trans (whole 64 (27) 5 rfl (by decide)))))))
    have f1 : wordField w0 25 21 = 10 := by unfold wordField; omega
    have f2 : wordField w0 24 24 = 1 := by rw [hw]; exact (above_zeros 128 7 _ 24 24 rfl).trans ((above 128 7 _ (a.toNat) 17 17 rfl a.isLt).trans ((above 128 7 _ (d.toNat) 10 10 rfl d.isLt).trans ((above 8 3 _ (2) 3 3 rfl (by decide)).trans (lowest 2 _ (1) 0 rfl (by decide)))))
    have f3 : wordField w0 20 14 = d.toNat := by rw [hw]; exact (above_zeros 128 7 _ 20 14 rfl).trans ((above 128 7 _ (a.toNat) 13 7 rfl a.isLt).trans (lowest 128 _ (d.toNat) 6 rfl d.isLt))
    have f4 : wordField w0 13 7 = a.toNat := by rw [hw]; exact (above_zeros 128 7 _ 13 7 rfl).trans (lowest 128 _ (a.toNat) 6 rfl a.isLt)
    have f5 : wordField w0 6 0 = 0 := by rw [hw]; exact lowest_zeros 128 _ 6 rfl
    rw [show encode (.fsqrt 1#1 d a lit) = withLit w0 [a] lit from ew ▸ rfl, withLit_first]
    rw [major1B f0]
    simp only [decodeMajor1B, f1, f2, f3, f4, f5, BitVec.ofNat_toNat, BitVec.setWidth_eq]
    rw [show [a.toNat] = [a].map BitVec.toNat from rfl, litWord_withLit _ _ _ _ hl, litWords_withLit w0 _ lit]
    exact decodedIf_good _ _ hwf

theorem fexp2 (p : BitVec 1) (d : BitVec 7) (a : BitVec 7) (lit : BitVec 32) : Statement (.fexp2 p d a lit) := by
  intro hcode hwf x
  clear hcode
  have hl : litOk [a] lit = true := by
    simp only [Instr.wellFormed, Bool.and_eq_true] at hwf
    exact hwf
  have s_p : p = 0#1 ∨ p = 1#1 := by clear hwf hl; revert p; decide
  rcases s_p with rfl | rfl
  · have b0 := d.isLt
    have b1 := a.isLt
    obtain ⟨w0, ew⟩ : ∃ w0, w0 = 0x6C600000 + 0 * 0x1000000 + d.toNat * 0x4000 + a.toNat * 0x80 := ⟨_, rfl⟩
    have hw : w0 = (((((27 * 2) * 2) * 8 + 3) * 128 + d.toNat) * 128 + a.toNat) * 128 := ew.trans (by clear ew; omega)
    have f0 : wordField w0 31 26 = 27 := by rw [hw]; exact (above_zeros 128 7 _ 31 26 rfl).trans ((above 128 7 _ (a.toNat) 24 19 rfl a.isLt).trans ((above 128 7 _ (d.toNat) 17 12 rfl d.isLt).trans ((above 8 3 _ (3) 10 5 rfl (by decide)).trans ((above_zeros 2 1 _ 7 2 rfl).trans ((above_zeros 2 1 _ 6 1 rfl).trans (whole 64 (27) 5 rfl (by decide)))))))
    have f1 : wordField w0 25 21 = 3 := by unfold wordField; omega
    have f2 : wordField w0 24 24 = 0 := by rw [hw]; exact (above_zeros 128 7 _ 24 24 rfl).trans ((above 128 7 _ (a.toNat) 17 17 rfl a.isLt).trans ((above 128 7 _ (d.toNat) 10 10 rfl d.isLt).trans ((above 8 3 _ (3) 3 3 rfl (by decide)).trans (lowest_zeros 2 _ 0 rfl))))
    have f3 : wordField w0 20 14 = d.toNat := by rw [hw]; exact (above_zeros 128 7 _ 20 14 rfl).trans ((above 128 7 _ (a.toNat) 13 7 rfl a.isLt).trans (lowest 128 _ (d.toNat) 6 rfl d.isLt))
    have f4 : wordField w0 13 7 = a.toNat := by rw [hw]; exact (above_zeros 128 7 _ 13 7 rfl).trans (lowest 128 _ (a.toNat) 6 rfl a.isLt)
    have f5 : wordField w0 6 0 = 0 := by rw [hw]; exact lowest_zeros 128 _ 6 rfl
    rw [show encode (.fexp2 0#1 d a lit) = withLit w0 [a] lit from ew ▸ rfl, withLit_first]
    rw [major1B f0]
    simp only [decodeMajor1B, f1, f2, f3, f4, f5, BitVec.ofNat_toNat, BitVec.setWidth_eq]
    rw [show [a.toNat] = [a].map BitVec.toNat from rfl, litWord_withLit _ _ _ _ hl, litWords_withLit w0 _ lit]
    exact decodedIf_good _ _ hwf
  · have b0 := d.isLt
    have b1 := a.isLt
    obtain ⟨w0, ew⟩ : ∃ w0, w0 = 0x6C600000 + 1 * 0x1000000 + d.toNat * 0x4000 + a.toNat * 0x80 := ⟨_, rfl⟩
    have hw : w0 = (((((27 * 2) * 2 + 1) * 8 + 3) * 128 + d.toNat) * 128 + a.toNat) * 128 := ew.trans (by clear ew; omega)
    have f0 : wordField w0 31 26 = 27 := by rw [hw]; exact (above_zeros 128 7 _ 31 26 rfl).trans ((above 128 7 _ (a.toNat) 24 19 rfl a.isLt).trans ((above 128 7 _ (d.toNat) 17 12 rfl d.isLt).trans ((above 8 3 _ (3) 10 5 rfl (by decide)).trans ((above 2 1 _ (1) 7 2 rfl (by decide)).trans ((above_zeros 2 1 _ 6 1 rfl).trans (whole 64 (27) 5 rfl (by decide)))))))
    have f1 : wordField w0 25 21 = 11 := by unfold wordField; omega
    have f2 : wordField w0 24 24 = 1 := by rw [hw]; exact (above_zeros 128 7 _ 24 24 rfl).trans ((above 128 7 _ (a.toNat) 17 17 rfl a.isLt).trans ((above 128 7 _ (d.toNat) 10 10 rfl d.isLt).trans ((above 8 3 _ (3) 3 3 rfl (by decide)).trans (lowest 2 _ (1) 0 rfl (by decide)))))
    have f3 : wordField w0 20 14 = d.toNat := by rw [hw]; exact (above_zeros 128 7 _ 20 14 rfl).trans ((above 128 7 _ (a.toNat) 13 7 rfl a.isLt).trans (lowest 128 _ (d.toNat) 6 rfl d.isLt))
    have f4 : wordField w0 13 7 = a.toNat := by rw [hw]; exact (above_zeros 128 7 _ 13 7 rfl).trans (lowest 128 _ (a.toNat) 6 rfl a.isLt)
    have f5 : wordField w0 6 0 = 0 := by rw [hw]; exact lowest_zeros 128 _ 6 rfl
    rw [show encode (.fexp2 1#1 d a lit) = withLit w0 [a] lit from ew ▸ rfl, withLit_first]
    rw [major1B f0]
    simp only [decodeMajor1B, f1, f2, f3, f4, f5, BitVec.ofNat_toNat, BitVec.setWidth_eq]
    rw [show [a.toNat] = [a].map BitVec.toNat from rfl, litWord_withLit _ _ _ _ hl, litWords_withLit w0 _ lit]
    exact decodedIf_good _ _ hwf

theorem flog2 (p : BitVec 1) (d : BitVec 7) (a : BitVec 7) (lit : BitVec 32) : Statement (.flog2 p d a lit) := by
  intro hcode hwf x
  clear hcode
  have hl : litOk [a] lit = true := by
    simp only [Instr.wellFormed, Bool.and_eq_true] at hwf
    exact hwf
  have s_p : p = 0#1 ∨ p = 1#1 := by clear hwf hl; revert p; decide
  rcases s_p with rfl | rfl
  · have b0 := d.isLt
    have b1 := a.isLt
    obtain ⟨w0, ew⟩ : ∃ w0, w0 = 0x6C800000 + 0 * 0x1000000 + d.toNat * 0x4000 + a.toNat * 0x80 := ⟨_, rfl⟩
    have hw : w0 = (((((27 * 2) * 2) * 8 + 4) * 128 + d.toNat) * 128 + a.toNat) * 128 := ew.trans (by clear ew; omega)
    have f0 : wordField w0 31 26 = 27 := by rw [hw]; exact (above_zeros 128 7 _ 31 26 rfl).trans ((above 128 7 _ (a.toNat) 24 19 rfl a.isLt).trans ((above 128 7 _ (d.toNat) 17 12 rfl d.isLt).trans ((above 8 3 _ (4) 10 5 rfl (by decide)).trans ((above_zeros 2 1 _ 7 2 rfl).trans ((above_zeros 2 1 _ 6 1 rfl).trans (whole 64 (27) 5 rfl (by decide)))))))
    have f1 : wordField w0 25 21 = 4 := by unfold wordField; omega
    have f2 : wordField w0 24 24 = 0 := by rw [hw]; exact (above_zeros 128 7 _ 24 24 rfl).trans ((above 128 7 _ (a.toNat) 17 17 rfl a.isLt).trans ((above 128 7 _ (d.toNat) 10 10 rfl d.isLt).trans ((above 8 3 _ (4) 3 3 rfl (by decide)).trans (lowest_zeros 2 _ 0 rfl))))
    have f3 : wordField w0 20 14 = d.toNat := by rw [hw]; exact (above_zeros 128 7 _ 20 14 rfl).trans ((above 128 7 _ (a.toNat) 13 7 rfl a.isLt).trans (lowest 128 _ (d.toNat) 6 rfl d.isLt))
    have f4 : wordField w0 13 7 = a.toNat := by rw [hw]; exact (above_zeros 128 7 _ 13 7 rfl).trans (lowest 128 _ (a.toNat) 6 rfl a.isLt)
    have f5 : wordField w0 6 0 = 0 := by rw [hw]; exact lowest_zeros 128 _ 6 rfl
    rw [show encode (.flog2 0#1 d a lit) = withLit w0 [a] lit from ew ▸ rfl, withLit_first]
    rw [major1B f0]
    simp only [decodeMajor1B, f1, f2, f3, f4, f5, BitVec.ofNat_toNat, BitVec.setWidth_eq]
    rw [show [a.toNat] = [a].map BitVec.toNat from rfl, litWord_withLit _ _ _ _ hl, litWords_withLit w0 _ lit]
    exact decodedIf_good _ _ hwf
  · have b0 := d.isLt
    have b1 := a.isLt
    obtain ⟨w0, ew⟩ : ∃ w0, w0 = 0x6C800000 + 1 * 0x1000000 + d.toNat * 0x4000 + a.toNat * 0x80 := ⟨_, rfl⟩
    have hw : w0 = (((((27 * 2) * 2 + 1) * 8 + 4) * 128 + d.toNat) * 128 + a.toNat) * 128 := ew.trans (by clear ew; omega)
    have f0 : wordField w0 31 26 = 27 := by rw [hw]; exact (above_zeros 128 7 _ 31 26 rfl).trans ((above 128 7 _ (a.toNat) 24 19 rfl a.isLt).trans ((above 128 7 _ (d.toNat) 17 12 rfl d.isLt).trans ((above 8 3 _ (4) 10 5 rfl (by decide)).trans ((above 2 1 _ (1) 7 2 rfl (by decide)).trans ((above_zeros 2 1 _ 6 1 rfl).trans (whole 64 (27) 5 rfl (by decide)))))))
    have f1 : wordField w0 25 21 = 12 := by unfold wordField; omega
    have f2 : wordField w0 24 24 = 1 := by rw [hw]; exact (above_zeros 128 7 _ 24 24 rfl).trans ((above 128 7 _ (a.toNat) 17 17 rfl a.isLt).trans ((above 128 7 _ (d.toNat) 10 10 rfl d.isLt).trans ((above 8 3 _ (4) 3 3 rfl (by decide)).trans (lowest 2 _ (1) 0 rfl (by decide)))))
    have f3 : wordField w0 20 14 = d.toNat := by rw [hw]; exact (above_zeros 128 7 _ 20 14 rfl).trans ((above 128 7 _ (a.toNat) 13 7 rfl a.isLt).trans (lowest 128 _ (d.toNat) 6 rfl d.isLt))
    have f4 : wordField w0 13 7 = a.toNat := by rw [hw]; exact (above_zeros 128 7 _ 13 7 rfl).trans (lowest 128 _ (a.toNat) 6 rfl a.isLt)
    have f5 : wordField w0 6 0 = 0 := by rw [hw]; exact lowest_zeros 128 _ 6 rfl
    rw [show encode (.flog2 1#1 d a lit) = withLit w0 [a] lit from ew ▸ rfl, withLit_first]
    rw [major1B f0]
    simp only [decodeMajor1B, f1, f2, f3, f4, f5, BitVec.ofNat_toNat, BitVec.setWidth_eq]
    rw [show [a.toNat] = [a].map BitVec.toNat from rfl, litWord_withLit _ _ _ _ hl, litWords_withLit w0 _ lit]
    exact decodedIf_good _ _ hwf

theorem fsin (p : BitVec 1) (d : BitVec 7) (a : BitVec 7) (lit : BitVec 32) : Statement (.fsin p d a lit) := by
  intro hcode hwf x
  clear hcode
  have hl : litOk [a] lit = true := by
    simp only [Instr.wellFormed, Bool.and_eq_true] at hwf
    exact hwf
  have s_p : p = 0#1 ∨ p = 1#1 := by clear hwf hl; revert p; decide
  rcases s_p with rfl | rfl
  · have b0 := d.isLt
    have b1 := a.isLt
    obtain ⟨w0, ew⟩ : ∃ w0, w0 = 0x6CA00000 + 0 * 0x1000000 + d.toNat * 0x4000 + a.toNat * 0x80 := ⟨_, rfl⟩
    have hw : w0 = (((((27 * 2) * 2) * 8 + 5) * 128 + d.toNat) * 128 + a.toNat) * 128 := ew.trans (by clear ew; omega)
    have f0 : wordField w0 31 26 = 27 := by rw [hw]; exact (above_zeros 128 7 _ 31 26 rfl).trans ((above 128 7 _ (a.toNat) 24 19 rfl a.isLt).trans ((above 128 7 _ (d.toNat) 17 12 rfl d.isLt).trans ((above 8 3 _ (5) 10 5 rfl (by decide)).trans ((above_zeros 2 1 _ 7 2 rfl).trans ((above_zeros 2 1 _ 6 1 rfl).trans (whole 64 (27) 5 rfl (by decide)))))))
    have f1 : wordField w0 25 21 = 5 := by unfold wordField; omega
    have f2 : wordField w0 24 24 = 0 := by rw [hw]; exact (above_zeros 128 7 _ 24 24 rfl).trans ((above 128 7 _ (a.toNat) 17 17 rfl a.isLt).trans ((above 128 7 _ (d.toNat) 10 10 rfl d.isLt).trans ((above 8 3 _ (5) 3 3 rfl (by decide)).trans (lowest_zeros 2 _ 0 rfl))))
    have f3 : wordField w0 20 14 = d.toNat := by rw [hw]; exact (above_zeros 128 7 _ 20 14 rfl).trans ((above 128 7 _ (a.toNat) 13 7 rfl a.isLt).trans (lowest 128 _ (d.toNat) 6 rfl d.isLt))
    have f4 : wordField w0 13 7 = a.toNat := by rw [hw]; exact (above_zeros 128 7 _ 13 7 rfl).trans (lowest 128 _ (a.toNat) 6 rfl a.isLt)
    have f5 : wordField w0 6 0 = 0 := by rw [hw]; exact lowest_zeros 128 _ 6 rfl
    rw [show encode (.fsin 0#1 d a lit) = withLit w0 [a] lit from ew ▸ rfl, withLit_first]
    rw [major1B f0]
    simp only [decodeMajor1B, f1, f2, f3, f4, f5, BitVec.ofNat_toNat, BitVec.setWidth_eq]
    rw [show [a.toNat] = [a].map BitVec.toNat from rfl, litWord_withLit _ _ _ _ hl, litWords_withLit w0 _ lit]
    exact decodedIf_good _ _ hwf
  · have b0 := d.isLt
    have b1 := a.isLt
    obtain ⟨w0, ew⟩ : ∃ w0, w0 = 0x6CA00000 + 1 * 0x1000000 + d.toNat * 0x4000 + a.toNat * 0x80 := ⟨_, rfl⟩
    have hw : w0 = (((((27 * 2) * 2 + 1) * 8 + 5) * 128 + d.toNat) * 128 + a.toNat) * 128 := ew.trans (by clear ew; omega)
    have f0 : wordField w0 31 26 = 27 := by rw [hw]; exact (above_zeros 128 7 _ 31 26 rfl).trans ((above 128 7 _ (a.toNat) 24 19 rfl a.isLt).trans ((above 128 7 _ (d.toNat) 17 12 rfl d.isLt).trans ((above 8 3 _ (5) 10 5 rfl (by decide)).trans ((above 2 1 _ (1) 7 2 rfl (by decide)).trans ((above_zeros 2 1 _ 6 1 rfl).trans (whole 64 (27) 5 rfl (by decide)))))))
    have f1 : wordField w0 25 21 = 13 := by unfold wordField; omega
    have f2 : wordField w0 24 24 = 1 := by rw [hw]; exact (above_zeros 128 7 _ 24 24 rfl).trans ((above 128 7 _ (a.toNat) 17 17 rfl a.isLt).trans ((above 128 7 _ (d.toNat) 10 10 rfl d.isLt).trans ((above 8 3 _ (5) 3 3 rfl (by decide)).trans (lowest 2 _ (1) 0 rfl (by decide)))))
    have f3 : wordField w0 20 14 = d.toNat := by rw [hw]; exact (above_zeros 128 7 _ 20 14 rfl).trans ((above 128 7 _ (a.toNat) 13 7 rfl a.isLt).trans (lowest 128 _ (d.toNat) 6 rfl d.isLt))
    have f4 : wordField w0 13 7 = a.toNat := by rw [hw]; exact (above_zeros 128 7 _ 13 7 rfl).trans (lowest 128 _ (a.toNat) 6 rfl a.isLt)
    have f5 : wordField w0 6 0 = 0 := by rw [hw]; exact lowest_zeros 128 _ 6 rfl
    rw [show encode (.fsin 1#1 d a lit) = withLit w0 [a] lit from ew ▸ rfl, withLit_first]
    rw [major1B f0]
    simp only [decodeMajor1B, f1, f2, f3, f4, f5, BitVec.ofNat_toNat, BitVec.setWidth_eq]
    rw [show [a.toNat] = [a].map BitVec.toNat from rfl, litWord_withLit _ _ _ _ hl, litWords_withLit w0 _ lit]
    exact decodedIf_good _ _ hwf

theorem fcos (p : BitVec 1) (d : BitVec 7) (a : BitVec 7) (lit : BitVec 32) : Statement (.fcos p d a lit) := by
  intro hcode hwf x
  clear hcode
  have hl : litOk [a] lit = true := by
    simp only [Instr.wellFormed, Bool.and_eq_true] at hwf
    exact hwf
  have s_p : p = 0#1 ∨ p = 1#1 := by clear hwf hl; revert p; decide
  rcases s_p with rfl | rfl
  · have b0 := d.isLt
    have b1 := a.isLt
    obtain ⟨w0, ew⟩ : ∃ w0, w0 = 0x6CC00000 + 0 * 0x1000000 + d.toNat * 0x4000 + a.toNat * 0x80 := ⟨_, rfl⟩
    have hw : w0 = (((((27 * 2) * 2) * 8 + 6) * 128 + d.toNat) * 128 + a.toNat) * 128 := ew.trans (by clear ew; omega)
    have f0 : wordField w0 31 26 = 27 := by rw [hw]; exact (above_zeros 128 7 _ 31 26 rfl).trans ((above 128 7 _ (a.toNat) 24 19 rfl a.isLt).trans ((above 128 7 _ (d.toNat) 17 12 rfl d.isLt).trans ((above 8 3 _ (6) 10 5 rfl (by decide)).trans ((above_zeros 2 1 _ 7 2 rfl).trans ((above_zeros 2 1 _ 6 1 rfl).trans (whole 64 (27) 5 rfl (by decide)))))))
    have f1 : wordField w0 25 21 = 6 := by unfold wordField; omega
    have f2 : wordField w0 24 24 = 0 := by rw [hw]; exact (above_zeros 128 7 _ 24 24 rfl).trans ((above 128 7 _ (a.toNat) 17 17 rfl a.isLt).trans ((above 128 7 _ (d.toNat) 10 10 rfl d.isLt).trans ((above 8 3 _ (6) 3 3 rfl (by decide)).trans (lowest_zeros 2 _ 0 rfl))))
    have f3 : wordField w0 20 14 = d.toNat := by rw [hw]; exact (above_zeros 128 7 _ 20 14 rfl).trans ((above 128 7 _ (a.toNat) 13 7 rfl a.isLt).trans (lowest 128 _ (d.toNat) 6 rfl d.isLt))
    have f4 : wordField w0 13 7 = a.toNat := by rw [hw]; exact (above_zeros 128 7 _ 13 7 rfl).trans (lowest 128 _ (a.toNat) 6 rfl a.isLt)
    have f5 : wordField w0 6 0 = 0 := by rw [hw]; exact lowest_zeros 128 _ 6 rfl
    rw [show encode (.fcos 0#1 d a lit) = withLit w0 [a] lit from ew ▸ rfl, withLit_first]
    rw [major1B f0]
    simp only [decodeMajor1B, f1, f2, f3, f4, f5, BitVec.ofNat_toNat, BitVec.setWidth_eq]
    rw [show [a.toNat] = [a].map BitVec.toNat from rfl, litWord_withLit _ _ _ _ hl, litWords_withLit w0 _ lit]
    exact decodedIf_good _ _ hwf
  · have b0 := d.isLt
    have b1 := a.isLt
    obtain ⟨w0, ew⟩ : ∃ w0, w0 = 0x6CC00000 + 1 * 0x1000000 + d.toNat * 0x4000 + a.toNat * 0x80 := ⟨_, rfl⟩
    have hw : w0 = (((((27 * 2) * 2 + 1) * 8 + 6) * 128 + d.toNat) * 128 + a.toNat) * 128 := ew.trans (by clear ew; omega)
    have f0 : wordField w0 31 26 = 27 := by rw [hw]; exact (above_zeros 128 7 _ 31 26 rfl).trans ((above 128 7 _ (a.toNat) 24 19 rfl a.isLt).trans ((above 128 7 _ (d.toNat) 17 12 rfl d.isLt).trans ((above 8 3 _ (6) 10 5 rfl (by decide)).trans ((above 2 1 _ (1) 7 2 rfl (by decide)).trans ((above_zeros 2 1 _ 6 1 rfl).trans (whole 64 (27) 5 rfl (by decide)))))))
    have f1 : wordField w0 25 21 = 14 := by unfold wordField; omega
    have f2 : wordField w0 24 24 = 1 := by rw [hw]; exact (above_zeros 128 7 _ 24 24 rfl).trans ((above 128 7 _ (a.toNat) 17 17 rfl a.isLt).trans ((above 128 7 _ (d.toNat) 10 10 rfl d.isLt).trans ((above 8 3 _ (6) 3 3 rfl (by decide)).trans (lowest 2 _ (1) 0 rfl (by decide)))))
    have f3 : wordField w0 20 14 = d.toNat := by rw [hw]; exact (above_zeros 128 7 _ 20 14 rfl).trans ((above 128 7 _ (a.toNat) 13 7 rfl a.isLt).trans (lowest 128 _ (d.toNat) 6 rfl d.isLt))
    have f4 : wordField w0 13 7 = a.toNat := by rw [hw]; exact (above_zeros 128 7 _ 13 7 rfl).trans (lowest 128 _ (a.toNat) 6 rfl a.isLt)
    have f5 : wordField w0 6 0 = 0 := by rw [hw]; exact lowest_zeros 128 _ 6 rfl
    rw [show encode (.fcos 1#1 d a lit) = withLit w0 [a] lit from ew ▸ rfl, withLit_first]
    rw [major1B f0]
    simp only [decodeMajor1B, f1, f2, f3, f4, f5, BitVec.ofNat_toNat, BitVec.setWidth_eq]
    rw [show [a.toNat] = [a].map BitVec.toNat from rfl, litWord_withLit _ _ _ _ hl, litWords_withLit w0 _ lit]
    exact decodedIf_good _ _ hwf

theorem ftanh (p : BitVec 1) (d : BitVec 7) (a : BitVec 7) (lit : BitVec 32) : Statement (.ftanh p d a lit) := by
  intro hcode hwf x
  clear hcode
  have hl : litOk [a] lit = true := by
    simp only [Instr.wellFormed, Bool.and_eq_true] at hwf
    exact hwf
  have s_p : p = 0#1 ∨ p = 1#1 := by clear hwf hl; revert p; decide
  rcases s_p with rfl | rfl
  · have b0 := d.isLt
    have b1 := a.isLt
    obtain ⟨w0, ew⟩ : ∃ w0, w0 = 0x6CE00000 + 0 * 0x1000000 + d.toNat * 0x4000 + a.toNat * 0x80 := ⟨_, rfl⟩
    have hw : w0 = (((((27 * 2) * 2) * 8 + 7) * 128 + d.toNat) * 128 + a.toNat) * 128 := ew.trans (by clear ew; omega)
    have f0 : wordField w0 31 26 = 27 := by rw [hw]; exact (above_zeros 128 7 _ 31 26 rfl).trans ((above 128 7 _ (a.toNat) 24 19 rfl a.isLt).trans ((above 128 7 _ (d.toNat) 17 12 rfl d.isLt).trans ((above 8 3 _ (7) 10 5 rfl (by decide)).trans ((above_zeros 2 1 _ 7 2 rfl).trans ((above_zeros 2 1 _ 6 1 rfl).trans (whole 64 (27) 5 rfl (by decide)))))))
    have f1 : wordField w0 25 21 = 7 := by unfold wordField; omega
    have f2 : wordField w0 24 24 = 0 := by rw [hw]; exact (above_zeros 128 7 _ 24 24 rfl).trans ((above 128 7 _ (a.toNat) 17 17 rfl a.isLt).trans ((above 128 7 _ (d.toNat) 10 10 rfl d.isLt).trans ((above 8 3 _ (7) 3 3 rfl (by decide)).trans (lowest_zeros 2 _ 0 rfl))))
    have f3 : wordField w0 20 14 = d.toNat := by rw [hw]; exact (above_zeros 128 7 _ 20 14 rfl).trans ((above 128 7 _ (a.toNat) 13 7 rfl a.isLt).trans (lowest 128 _ (d.toNat) 6 rfl d.isLt))
    have f4 : wordField w0 13 7 = a.toNat := by rw [hw]; exact (above_zeros 128 7 _ 13 7 rfl).trans (lowest 128 _ (a.toNat) 6 rfl a.isLt)
    have f5 : wordField w0 6 0 = 0 := by rw [hw]; exact lowest_zeros 128 _ 6 rfl
    rw [show encode (.ftanh 0#1 d a lit) = withLit w0 [a] lit from ew ▸ rfl, withLit_first]
    rw [major1B f0]
    simp only [decodeMajor1B, f1, f2, f3, f4, f5, BitVec.ofNat_toNat, BitVec.setWidth_eq]
    rw [show [a.toNat] = [a].map BitVec.toNat from rfl, litWord_withLit _ _ _ _ hl, litWords_withLit w0 _ lit]
    exact decodedIf_good _ _ hwf
  · have b0 := d.isLt
    have b1 := a.isLt
    obtain ⟨w0, ew⟩ : ∃ w0, w0 = 0x6CE00000 + 1 * 0x1000000 + d.toNat * 0x4000 + a.toNat * 0x80 := ⟨_, rfl⟩
    have hw : w0 = (((((27 * 2) * 2 + 1) * 8 + 7) * 128 + d.toNat) * 128 + a.toNat) * 128 := ew.trans (by clear ew; omega)
    have f0 : wordField w0 31 26 = 27 := by rw [hw]; exact (above_zeros 128 7 _ 31 26 rfl).trans ((above 128 7 _ (a.toNat) 24 19 rfl a.isLt).trans ((above 128 7 _ (d.toNat) 17 12 rfl d.isLt).trans ((above 8 3 _ (7) 10 5 rfl (by decide)).trans ((above 2 1 _ (1) 7 2 rfl (by decide)).trans ((above_zeros 2 1 _ 6 1 rfl).trans (whole 64 (27) 5 rfl (by decide)))))))
    have f1 : wordField w0 25 21 = 15 := by unfold wordField; omega
    have f2 : wordField w0 24 24 = 1 := by rw [hw]; exact (above_zeros 128 7 _ 24 24 rfl).trans ((above 128 7 _ (a.toNat) 17 17 rfl a.isLt).trans ((above 128 7 _ (d.toNat) 10 10 rfl d.isLt).trans ((above 8 3 _ (7) 3 3 rfl (by decide)).trans (lowest 2 _ (1) 0 rfl (by decide)))))
    have f3 : wordField w0 20 14 = d.toNat := by rw [hw]; exact (above_zeros 128 7 _ 20 14 rfl).trans ((above 128 7 _ (a.toNat) 13 7 rfl a.isLt).trans (lowest 128 _ (d.toNat) 6 rfl d.isLt))
    have f4 : wordField w0 13 7 = a.toNat := by rw [hw]; exact (above_zeros 128 7 _ 13 7 rfl).trans (lowest 128 _ (a.toNat) 6 rfl a.isLt)
    have f5 : wordField w0 6 0 = 0 := by rw [hw]; exact lowest_zeros 128 _ 6 rfl
    rw [show encode (.ftanh 1#1 d a lit) = withLit w0 [a] lit from ew ▸ rfl, withLit_first]
    rw [major1B f0]
    simp only [decodeMajor1B, f1, f2, f3, f4, f5, BitVec.ofNat_toNat, BitVec.setWidth_eq]
    rw [show [a.toNat] = [a].map BitVec.toNat from rfl, litWord_withLit _ _ _ _ hl, litWords_withLit w0 _ lit]
    exact decodedIf_good _ _ hwf

theorem cvt (d : BitVec 7) (a : BitVec 7) (el : BitVec 3) (sf : BitVec 4) (sat : BitVec 1) (rm : BitVec 2) (df : BitVec 4) : Statement (.cvt d a el sf sat rm df) := by
  intro hcode hwf x
  clear hcode
  have b0 := d.isLt
  have b1 := a.isLt
  have b2 := el.isLt
  have b3 := sf.isLt
  have b4 := sat.isLt
  have b5 := rm.isLt
  have b6 := df.isLt
  obtain ⟨w0, ew⟩ : ∃ w0, w0 = 0x70000000 + d.toNat * 0x4000 + a.toNat * 0x80 + el.toNat * 0x10 + sf.toNat := ⟨_, rfl⟩
  have hw : w0 = ((((28 * 32) * 128 + d.toNat) * 128 + a.toNat) * 8 + el.toNat) * 16 + sf.toNat := ew.trans (by clear ew; omega)
  obtain ⟨w1, ev⟩ : ∃ w1, w1 = sat.toNat * 0x4000 + rm.toNat * 0x1000 + df.toNat * 0x100 := ⟨_, rfl⟩
  have hv : w1 = (((0 * 2 + sat.toNat) * 4 + rm.toNat) * 16 + df.toNat) * 256 := ev.trans (by clear ew ev; omega)
  have f0 : wordField w0 31 26 = 28 := by rw [hw]; exact (above 16 4 _ (sf.toNat) 31 26 rfl sf.isLt).trans ((above 8 3 _ (el.toNat) 27 22 rfl el.isLt).trans ((above 128 7 _ (a.toNat) 24 19 rfl a.isLt).trans ((above 128 7 _ (d.toNat) 17 12 rfl d.isLt).trans ((above_zeros 32 5 _ 10 5 rfl).trans (whole 64 (28) 5 rfl (by decide))))))
  have f1 : wordField w0 25 21 = 0 := by rw [hw]; exact (above 16 4 _ (sf.toNat) 25 21 rfl sf.isLt).trans ((above 8 3 _ (el.toNat) 21 17 rfl el.isLt).trans ((above 128 7 _ (a.toNat) 18 14 rfl a.isLt).trans ((above 128 7 _ (d.toNat) 11 7 rfl d.isLt).trans (lowest_zeros 32 _ 4 rfl))))
  have f2 : wordField w0 20 14 = d.toNat := by rw [hw]; exact (above 16 4 _ (sf.toNat) 20 14 rfl sf.isLt).trans ((above 8 3 _ (el.toNat) 16 10 rfl el.isLt).trans ((above 128 7 _ (a.toNat) 13 7 rfl a.isLt).trans (lowest 128 _ (d.toNat) 6 rfl d.isLt)))
  have f3 : wordField w0 13 7 = a.toNat := by rw [hw]; exact (above 16 4 _ (sf.toNat) 13 7 rfl sf.isLt).trans ((above 8 3 _ (el.toNat) 9 3 rfl el.isLt).trans (lowest 128 _ (a.toNat) 6 rfl a.isLt))
  have f4 : wordField w0 6 4 = el.toNat := by rw [hw]; exact (above 16 4 _ (sf.toNat) 6 4 rfl sf.isLt).trans (lowest 8 _ (el.toNat) 2 rfl el.isLt)
  have f5 : wordField w0 3 0 = sf.toNat := by rw [hw]; exact lowest 16 _ (sf.toNat) 3 rfl sf.isLt
  have f6 : wordField w1 31 15 = 0 := by rw [hv]; exact (above_zeros 256 8 _ 31 15 rfl).trans ((above 16 4 _ (df.toNat) 23 7 rfl df.isLt).trans ((above 4 2 _ (rm.toNat) 19 3 rfl rm.isLt).trans ((above 2 1 _ (sat.toNat) 17 1 rfl sat.isLt).trans (whole 131072 (0) 16 rfl (by decide)))))
  have f7 : wordField w1 14 14 = sat.toNat := by rw [hv]; exact (above_zeros 256 8 _ 14 14 rfl).trans ((above 16 4 _ (df.toNat) 6 6 rfl df.isLt).trans ((above 4 2 _ (rm.toNat) 2 2 rfl rm.isLt).trans (lowest 2 _ (sat.toNat) 0 rfl sat.isLt)))
  have f8 : wordField w1 13 12 = rm.toNat := by rw [hv]; exact (above_zeros 256 8 _ 13 12 rfl).trans ((above 16 4 _ (df.toNat) 5 4 rfl df.isLt).trans (lowest 4 _ (rm.toNat) 1 rfl rm.isLt))
  have f9 : wordField w1 11 8 = df.toNat := by rw [hv]; exact (above_zeros 256 8 _ 11 8 rfl).trans (lowest 16 _ (df.toNat) 3 rfl df.isLt)
  have f10 : wordField w1 7 0 = 0 := by rw [hv]; exact lowest_zeros 256 _ 7 rfl
  have he : encode (.cvt d a el sf sat rm df) = [w0, w1] := by subst ew ev; exact rfl
  rw [he]
  refine (major1C f0).trans ?_
  show decodeMajor1C w0 w1 = _
  simp only [decodeMajor1C, f1, f2, f3, f4, f5, f6, f7, f8, f9, f10, BitVec.ofNat_toNat, BitVec.setWidth_eq]
  exact decodedIf_good _ _ hwf

theorem frnd (d : BitVec 7) (a : BitVec 7) (p : BitVec 1) (m : BitVec 3) (lit : BitVec 32) : Statement (.frnd d a p m lit) := by
  intro hcode hwf x
  clear hcode
  have hl : litOk [a] lit = true := by
    simp only [Instr.wellFormed, Bool.and_eq_true] at hwf
    exact hwf.1
  have b0 := d.isLt
  have b1 := a.isLt
  have b2 := p.isLt
  have b3 := m.isLt
  obtain ⟨w0, ew⟩ : ∃ w0, w0 = 0x70200000 + d.toNat * 0x4000 + a.toNat * 0x80 + p.toNat * 0x8 + m.toNat := ⟨_, rfl⟩
  have hw : w0 = (((((28 * 32 + 1) * 128 + d.toNat) * 128 + a.toNat) * 8) * 2 + p.toNat) * 8 + m.toNat := ew.trans (by clear ew; omega)
  have f0 : wordField w0 31 26 = 28 := by rw [hw]; exact (above 8 3 _ (m.toNat) 31 26 rfl m.isLt).trans ((above 2 1 _ (p.toNat) 28 23 rfl p.isLt).trans ((above_zeros 8 3 _ 27 22 rfl).trans ((above 128 7 _ (a.toNat) 24 19 rfl a.isLt).trans ((above 128 7 _ (d.toNat) 17 12 rfl d.isLt).trans ((above 32 5 _ (1) 10 5 rfl (by decide)).trans (whole 64 (28) 5 rfl (by decide)))))))
  have f1 : wordField w0 25 21 = 1 := by rw [hw]; exact (above 8 3 _ (m.toNat) 25 21 rfl m.isLt).trans ((above 2 1 _ (p.toNat) 22 18 rfl p.isLt).trans ((above_zeros 8 3 _ 21 17 rfl).trans ((above 128 7 _ (a.toNat) 18 14 rfl a.isLt).trans ((above 128 7 _ (d.toNat) 11 7 rfl d.isLt).trans (lowest 32 _ (1) 4 rfl (by decide))))))
  have f2 : wordField w0 20 14 = d.toNat := by rw [hw]; exact (above 8 3 _ (m.toNat) 20 14 rfl m.isLt).trans ((above 2 1 _ (p.toNat) 17 11 rfl p.isLt).trans ((above_zeros 8 3 _ 16 10 rfl).trans ((above 128 7 _ (a.toNat) 13 7 rfl a.isLt).trans (lowest 128 _ (d.toNat) 6 rfl d.isLt))))
  have f3 : wordField w0 13 7 = a.toNat := by rw [hw]; exact (above 8 3 _ (m.toNat) 13 7 rfl m.isLt).trans ((above 2 1 _ (p.toNat) 10 4 rfl p.isLt).trans ((above_zeros 8 3 _ 9 3 rfl).trans (lowest 128 _ (a.toNat) 6 rfl a.isLt)))
  have f4 : wordField w0 6 4 = 0 := by rw [hw]; exact (above 8 3 _ (m.toNat) 6 4 rfl m.isLt).trans ((above 2 1 _ (p.toNat) 3 1 rfl p.isLt).trans (lowest_zeros 8 _ 2 rfl))
  have f5 : wordField w0 3 3 = p.toNat := by rw [hw]; exact (above 8 3 _ (m.toNat) 3 3 rfl m.isLt).trans (lowest 2 _ (p.toNat) 0 rfl p.isLt)
  have f6 : wordField w0 2 0 = m.toNat := by rw [hw]; exact lowest 8 _ (m.toNat) 2 rfl m.isLt
  rw [show encode (.frnd d a p m lit) = withLit w0 [a] lit from ew ▸ rfl, withLit_first]
  rw [major1C f0]
  simp only [decodeMajor1C, f1, f2, f3, f4, f5, f6, BitVec.ofNat_toNat, BitVec.setWidth_eq]
  rw [show [a.toNat] = [a].map BitVec.toNat from rfl, litWord_withLit _ _ _ _ hl, litWords_withLit w0 _ lit]
  exact decodedIf_good _ _ hwf

theorem cvtPk2 (d : BitVec 7) (a : BitVec 7) (b : BitVec 7) (sat : BitVec 1) (rm : BitVec 2) (df : BitVec 4) : Statement (.cvtPk2 d a b sat rm df) := by
  intro hcode hwf x
  clear hcode
  have b0 := d.isLt
  have b1 := a.isLt
  have b2 := b.isLt
  have b3 := sat.isLt
  have b4 := rm.isLt
  have b5 := df.isLt
  obtain ⟨w0, ew⟩ : ∃ w0, w0 = 0x74000000 + d.toNat * 0x4000 + a.toNat * 0x80 + b.toNat := ⟨_, rfl⟩
  have hw : w0 = (((29 * 32) * 128 + d.toNat) * 128 + a.toNat) * 128 + b.toNat := ew.trans (by clear ew; omega)
  obtain ⟨w1, ev⟩ : ∃ w1, w1 = sat.toNat * 0x4000 + rm.toNat * 0x1000 + df.toNat * 0x100 := ⟨_, rfl⟩
  have hv : w1 = (((0 * 2 + sat.toNat) * 4 + rm.toNat) * 16 + df.toNat) * 256 := ev.trans (by clear ew ev; omega)
  have f0 : wordField w0 31 26 = 29 := by rw [hw]; exact (above 128 7 _ (b.toNat) 31 26 rfl b.isLt).trans ((above 128 7 _ (a.toNat) 24 19 rfl a.isLt).trans ((above 128 7 _ (d.toNat) 17 12 rfl d.isLt).trans ((above_zeros 32 5 _ 10 5 rfl).trans (whole 64 (29) 5 rfl (by decide)))))
  have f1 : wordField w0 25 21 = 0 := by rw [hw]; exact (above 128 7 _ (b.toNat) 25 21 rfl b.isLt).trans ((above 128 7 _ (a.toNat) 18 14 rfl a.isLt).trans ((above 128 7 _ (d.toNat) 11 7 rfl d.isLt).trans (lowest_zeros 32 _ 4 rfl)))
  have f2 : wordField w0 20 14 = d.toNat := by rw [hw]; exact (above 128 7 _ (b.toNat) 20 14 rfl b.isLt).trans ((above 128 7 _ (a.toNat) 13 7 rfl a.isLt).trans (lowest 128 _ (d.toNat) 6 rfl d.isLt))
  have f3 : wordField w0 13 7 = a.toNat := by rw [hw]; exact (above 128 7 _ (b.toNat) 13 7 rfl b.isLt).trans (lowest 128 _ (a.toNat) 6 rfl a.isLt)
  have f4 : wordField w0 6 0 = b.toNat := by rw [hw]; exact lowest 128 _ (b.toNat) 6 rfl b.isLt
  have f5 : wordField w1 31 15 = 0 := by rw [hv]; exact (above_zeros 256 8 _ 31 15 rfl).trans ((above 16 4 _ (df.toNat) 23 7 rfl df.isLt).trans ((above 4 2 _ (rm.toNat) 19 3 rfl rm.isLt).trans ((above 2 1 _ (sat.toNat) 17 1 rfl sat.isLt).trans (whole 131072 (0) 16 rfl (by decide)))))
  have f6 : wordField w1 14 14 = sat.toNat := by rw [hv]; exact (above_zeros 256 8 _ 14 14 rfl).trans ((above 16 4 _ (df.toNat) 6 6 rfl df.isLt).trans ((above 4 2 _ (rm.toNat) 2 2 rfl rm.isLt).trans (lowest 2 _ (sat.toNat) 0 rfl sat.isLt)))
  have f7 : wordField w1 13 12 = rm.toNat := by rw [hv]; exact (above_zeros 256 8 _ 13 12 rfl).trans ((above 16 4 _ (df.toNat) 5 4 rfl df.isLt).trans (lowest 4 _ (rm.toNat) 1 rfl rm.isLt))
  have f8 : wordField w1 11 8 = df.toNat := by rw [hv]; exact (above_zeros 256 8 _ 11 8 rfl).trans (lowest 16 _ (df.toNat) 3 rfl df.isLt)
  have f9 : wordField w1 7 0 = 0 := by rw [hv]; exact lowest_zeros 256 _ 7 rfl
  have he : encode (.cvtPk2 d a b sat rm df) = [w0, w1] := by subst ew ev; exact rfl
  rw [he]
  refine (major1D f0).trans ?_
  show decodeMajor1D w0 w1 = _
  simp only [decodeMajor1D, f1, f2, f3, f4, f5, f6, f7, f8, f9, BitVec.ofNat_toNat, BitVec.setWidth_eq]
  exact decodedIf_good _ _ hwf

theorem cvtPk4 (p : BitVec 1) (d : BitVec 7) (a : BitVec 7) (b : BitVec 7) (sat : BitVec 1) (rm : BitVec 2) (df : BitVec 4) : Statement (.cvtPk4 p d a b sat rm df) := by
  intro hcode hwf x
  clear hcode
  have s_p : p = 0#1 ∨ p = 1#1 := by clear hwf; revert p; decide
  rcases s_p with rfl | rfl
  · have b0 := d.isLt
    have b1 := a.isLt
    have b2 := b.isLt
    have b3 := sat.isLt
    have b4 := rm.isLt
    have b5 := df.isLt
    obtain ⟨w0, ew⟩ : ∃ w0, w0 = 0x74400000 + 0 * 0x200000 + d.toNat * 0x4000 + a.toNat * 0x80 + b.toNat := ⟨_, rfl⟩
    have hw : w0 = ((((29 * 16 + 1) * 2) * 128 + d.toNat) * 128 + a.toNat) * 128 + b.toNat := ew.trans (by clear ew; omega)
    obtain ⟨w1, ev⟩ : ∃ w1, w1 = sat.toNat * 0x4000 + rm.toNat * 0x1000 + df.toNat * 0x100 := ⟨_, rfl⟩
    have hv : w1 = (((0 * 2 + sat.toNat) * 4 + rm.toNat) * 16 + df.toNat) * 256 := ev.trans (by clear ew ev; omega)
    have f0 : wordField w0 31 26 = 29 := by rw [hw]; exact (above 128 7 _ (b.toNat) 31 26 rfl b.isLt).trans ((above 128 7 _ (a.toNat) 24 19 rfl a.isLt).trans ((above 128 7 _ (d.toNat) 17 12 rfl d.isLt).trans ((above_zeros 2 1 _ 10 5 rfl).trans ((above 16 4 _ (1) 9 4 rfl (by decide)).trans (whole 64 (29) 5 rfl (by decide))))))
    have f1 : wordField w0 25 21 = 2 := by unfold wordField; omega
    have f2 : wordField w0 21 21 = 0 := by rw [hw]; exact (above 128 7 _ (b.toNat) 21 21 rfl b.isLt).trans ((above 128 7 _ (a.toNat) 14 14 rfl a.isLt).trans ((above 128 7 _ (d.toNat) 7 7 rfl d.isLt).trans (lowest_zeros 2 _ 0 rfl)))
    have f3 : wordField w0 20 14 = d.toNat := by rw [hw]; exact (above 128 7 _ (b.toNat) 20 14 rfl b.isLt).trans ((above 128 7 _ (a.toNat) 13 7 rfl a.isLt).trans (lowest 128 _ (d.toNat) 6 rfl d.isLt))
    have f4 : wordField w0 13 7 = a.toNat := by rw [hw]; exact (above 128 7 _ (b.toNat) 13 7 rfl b.isLt).trans (lowest 128 _ (a.toNat) 6 rfl a.isLt)
    have f5 : wordField w0 6 0 = b.toNat := by rw [hw]; exact lowest 128 _ (b.toNat) 6 rfl b.isLt
    have f6 : wordField w1 31 15 = 0 := by rw [hv]; exact (above_zeros 256 8 _ 31 15 rfl).trans ((above 16 4 _ (df.toNat) 23 7 rfl df.isLt).trans ((above 4 2 _ (rm.toNat) 19 3 rfl rm.isLt).trans ((above 2 1 _ (sat.toNat) 17 1 rfl sat.isLt).trans (whole 131072 (0) 16 rfl (by decide)))))
    have f7 : wordField w1 14 14 = sat.toNat := by rw [hv]; exact (above_zeros 256 8 _ 14 14 rfl).trans ((above 16 4 _ (df.toNat) 6 6 rfl df.isLt).trans ((above 4 2 _ (rm.toNat) 2 2 rfl rm.isLt).trans (lowest 2 _ (sat.toNat) 0 rfl sat.isLt)))
    have f8 : wordField w1 13 12 = rm.toNat := by rw [hv]; exact (above_zeros 256 8 _ 13 12 rfl).trans ((above 16 4 _ (df.toNat) 5 4 rfl df.isLt).trans (lowest 4 _ (rm.toNat) 1 rfl rm.isLt))
    have f9 : wordField w1 11 8 = df.toNat := by rw [hv]; exact (above_zeros 256 8 _ 11 8 rfl).trans (lowest 16 _ (df.toNat) 3 rfl df.isLt)
    have f10 : wordField w1 7 0 = 0 := by rw [hv]; exact lowest_zeros 256 _ 7 rfl
    have he : encode (.cvtPk4 0#1 d a b sat rm df) = [w0, w1] := by subst ew ev; exact rfl
    rw [he]
    refine (major1D f0).trans ?_
    show decodeMajor1D w0 w1 = _
    simp only [decodeMajor1D, f1, f2, f3, f4, f5, f6, f7, f8, f9, f10, BitVec.ofNat_toNat, BitVec.setWidth_eq]
    exact decodedIf_good _ _ hwf
  · have b0 := d.isLt
    have b1 := a.isLt
    have b2 := b.isLt
    have b3 := sat.isLt
    have b4 := rm.isLt
    have b5 := df.isLt
    obtain ⟨w0, ew⟩ : ∃ w0, w0 = 0x74400000 + 1 * 0x200000 + d.toNat * 0x4000 + a.toNat * 0x80 + b.toNat := ⟨_, rfl⟩
    have hw : w0 = ((((29 * 16 + 1) * 2 + 1) * 128 + d.toNat) * 128 + a.toNat) * 128 + b.toNat := ew.trans (by clear ew; omega)
    obtain ⟨w1, ev⟩ : ∃ w1, w1 = sat.toNat * 0x4000 + rm.toNat * 0x1000 + df.toNat * 0x100 := ⟨_, rfl⟩
    have hv : w1 = (((0 * 2 + sat.toNat) * 4 + rm.toNat) * 16 + df.toNat) * 256 := ev.trans (by clear ew ev; omega)
    have f0 : wordField w0 31 26 = 29 := by rw [hw]; exact (above 128 7 _ (b.toNat) 31 26 rfl b.isLt).trans ((above 128 7 _ (a.toNat) 24 19 rfl a.isLt).trans ((above 128 7 _ (d.toNat) 17 12 rfl d.isLt).trans ((above 2 1 _ (1) 10 5 rfl (by decide)).trans ((above 16 4 _ (1) 9 4 rfl (by decide)).trans (whole 64 (29) 5 rfl (by decide))))))
    have f1 : wordField w0 25 21 = 3 := by unfold wordField; omega
    have f2 : wordField w0 21 21 = 1 := by rw [hw]; exact (above 128 7 _ (b.toNat) 21 21 rfl b.isLt).trans ((above 128 7 _ (a.toNat) 14 14 rfl a.isLt).trans ((above 128 7 _ (d.toNat) 7 7 rfl d.isLt).trans (lowest 2 _ (1) 0 rfl (by decide))))
    have f3 : wordField w0 20 14 = d.toNat := by rw [hw]; exact (above 128 7 _ (b.toNat) 20 14 rfl b.isLt).trans ((above 128 7 _ (a.toNat) 13 7 rfl a.isLt).trans (lowest 128 _ (d.toNat) 6 rfl d.isLt))
    have f4 : wordField w0 13 7 = a.toNat := by rw [hw]; exact (above 128 7 _ (b.toNat) 13 7 rfl b.isLt).trans (lowest 128 _ (a.toNat) 6 rfl a.isLt)
    have f5 : wordField w0 6 0 = b.toNat := by rw [hw]; exact lowest 128 _ (b.toNat) 6 rfl b.isLt
    have f6 : wordField w1 31 15 = 0 := by rw [hv]; exact (above_zeros 256 8 _ 31 15 rfl).trans ((above 16 4 _ (df.toNat) 23 7 rfl df.isLt).trans ((above 4 2 _ (rm.toNat) 19 3 rfl rm.isLt).trans ((above 2 1 _ (sat.toNat) 17 1 rfl sat.isLt).trans (whole 131072 (0) 16 rfl (by decide)))))
    have f7 : wordField w1 14 14 = sat.toNat := by rw [hv]; exact (above_zeros 256 8 _ 14 14 rfl).trans ((above 16 4 _ (df.toNat) 6 6 rfl df.isLt).trans ((above 4 2 _ (rm.toNat) 2 2 rfl rm.isLt).trans (lowest 2 _ (sat.toNat) 0 rfl sat.isLt)))
    have f8 : wordField w1 13 12 = rm.toNat := by rw [hv]; exact (above_zeros 256 8 _ 13 12 rfl).trans ((above 16 4 _ (df.toNat) 5 4 rfl df.isLt).trans (lowest 4 _ (rm.toNat) 1 rfl rm.isLt))
    have f9 : wordField w1 11 8 = df.toNat := by rw [hv]; exact (above_zeros 256 8 _ 11 8 rfl).trans (lowest 16 _ (df.toNat) 3 rfl df.isLt)
    have f10 : wordField w1 7 0 = 0 := by rw [hv]; exact lowest_zeros 256 _ 7 rfl
    have he : encode (.cvtPk4 1#1 d a b sat rm df) = [w0, w1] := by subst ew ev; exact rfl
    rw [he]
    refine (major1D f0).trans ?_
    show decodeMajor1D w0 w1 = _
    simp only [decodeMajor1D, f1, f2, f3, f4, f5, f6, f7, f8, f9, f10, BitVec.ofNat_toNat, BitVec.setWidth_eq]
    exact decodedIf_good _ _ hwf

theorem cvtPk8 (p : BitVec 2) (d : BitVec 7) (a : BitVec 7) (b : BitVec 7) (sat : BitVec 1) (rm : BitVec 2) (df : BitVec 4) : Statement (.cvtPk8 p d a b sat rm df) := by
  intro hcode hwf x
  clear hcode
  have s_p : p = 0#2 ∨ p = 1#2 ∨ p = 2#2 ∨ p = 3#2 := by clear hwf; revert p; decide
  rcases s_p with rfl | rfl | rfl | rfl
  · have b0 := d.isLt
    have b1 := a.isLt
    have b2 := b.isLt
    have b3 := sat.isLt
    have b4 := rm.isLt
    have b5 := df.isLt
    obtain ⟨w0, ew⟩ : ∃ w0, w0 = 0x74800000 + 0 * 0x200000 + d.toNat * 0x4000 + a.toNat * 0x80 + b.toNat := ⟨_, rfl⟩
    have hw : w0 = ((((29 * 8 + 1) * 4) * 128 + d.toNat) * 128 + a.toNat) * 128 + b.toNat := ew.trans (by clear ew; omega)
    obtain ⟨w1, ev⟩ : ∃ w1, w1 = sat.toNat * 0x4000 + rm.toNat * 0x1000 + df.toNat * 0x100 := ⟨_, rfl⟩
    have hv : w1 = (((0 * 2 + sat.toNat) * 4 + rm.toNat) * 16 + df.toNat) * 256 := ev.trans (by clear ew ev; omega)
    have f0 : wordField w0 31 26 = 29 := by rw [hw]; exact (above 128 7 _ (b.toNat) 31 26 rfl b.isLt).trans ((above 128 7 _ (a.toNat) 24 19 rfl a.isLt).trans ((above 128 7 _ (d.toNat) 17 12 rfl d.isLt).trans ((above_zeros 4 2 _ 10 5 rfl).trans ((above 8 3 _ (1) 8 3 rfl (by decide)).trans (whole 64 (29) 5 rfl (by decide))))))
    have f1 : wordField w0 25 21 = 4 := by unfold wordField; omega
    have f2 : wordField w0 22 21 = 0 := by rw [hw]; exact (above 128 7 _ (b.toNat) 22 21 rfl b.isLt).trans ((above 128 7 _ (a.toNat) 15 14 rfl a.isLt).trans ((above 128 7 _ (d.toNat) 8 7 rfl d.isLt).trans (lowest_zeros 4 _ 1 rfl)))
    have f3 : wordField w0 20 14 = d.toNat := by rw [hw]; exact (above 128 7 _ (b.toNat) 20 14 rfl b.isLt).trans ((above 128 7 _ (a.toNat) 13 7 rfl a.isLt).trans (lowest 128 _ (d.toNat) 6 rfl d.isLt))
    have f4 : wordField w0 13 7 = a.toNat := by rw [hw]; exact (above 128 7 _ (b.toNat) 13 7 rfl b.isLt).trans (lowest 128 _ (a.toNat) 6 rfl a.isLt)
    have f5 : wordField w0 6 0 = b.toNat := by rw [hw]; exact lowest 128 _ (b.toNat) 6 rfl b.isLt
    have f6 : wordField w1 31 15 = 0 := by rw [hv]; exact (above_zeros 256 8 _ 31 15 rfl).trans ((above 16 4 _ (df.toNat) 23 7 rfl df.isLt).trans ((above 4 2 _ (rm.toNat) 19 3 rfl rm.isLt).trans ((above 2 1 _ (sat.toNat) 17 1 rfl sat.isLt).trans (whole 131072 (0) 16 rfl (by decide)))))
    have f7 : wordField w1 14 14 = sat.toNat := by rw [hv]; exact (above_zeros 256 8 _ 14 14 rfl).trans ((above 16 4 _ (df.toNat) 6 6 rfl df.isLt).trans ((above 4 2 _ (rm.toNat) 2 2 rfl rm.isLt).trans (lowest 2 _ (sat.toNat) 0 rfl sat.isLt)))
    have f8 : wordField w1 13 12 = rm.toNat := by rw [hv]; exact (above_zeros 256 8 _ 13 12 rfl).trans ((above 16 4 _ (df.toNat) 5 4 rfl df.isLt).trans (lowest 4 _ (rm.toNat) 1 rfl rm.isLt))
    have f9 : wordField w1 11 8 = df.toNat := by rw [hv]; exact (above_zeros 256 8 _ 11 8 rfl).trans (lowest 16 _ (df.toNat) 3 rfl df.isLt)
    have f10 : wordField w1 7 0 = 0 := by rw [hv]; exact lowest_zeros 256 _ 7 rfl
    have he : encode (.cvtPk8 0#2 d a b sat rm df) = [w0, w1] := by subst ew ev; exact rfl
    rw [he]
    refine (major1D f0).trans ?_
    show decodeMajor1D w0 w1 = _
    simp only [decodeMajor1D, f1, f2, f3, f4, f5, f6, f7, f8, f9, f10, BitVec.ofNat_toNat, BitVec.setWidth_eq]
    exact decodedIf_good _ _ hwf
  · have b0 := d.isLt
    have b1 := a.isLt
    have b2 := b.isLt
    have b3 := sat.isLt
    have b4 := rm.isLt
    have b5 := df.isLt
    obtain ⟨w0, ew⟩ : ∃ w0, w0 = 0x74800000 + 1 * 0x200000 + d.toNat * 0x4000 + a.toNat * 0x80 + b.toNat := ⟨_, rfl⟩
    have hw : w0 = ((((29 * 8 + 1) * 4 + 1) * 128 + d.toNat) * 128 + a.toNat) * 128 + b.toNat := ew.trans (by clear ew; omega)
    obtain ⟨w1, ev⟩ : ∃ w1, w1 = sat.toNat * 0x4000 + rm.toNat * 0x1000 + df.toNat * 0x100 := ⟨_, rfl⟩
    have hv : w1 = (((0 * 2 + sat.toNat) * 4 + rm.toNat) * 16 + df.toNat) * 256 := ev.trans (by clear ew ev; omega)
    have f0 : wordField w0 31 26 = 29 := by rw [hw]; exact (above 128 7 _ (b.toNat) 31 26 rfl b.isLt).trans ((above 128 7 _ (a.toNat) 24 19 rfl a.isLt).trans ((above 128 7 _ (d.toNat) 17 12 rfl d.isLt).trans ((above 4 2 _ (1) 10 5 rfl (by decide)).trans ((above 8 3 _ (1) 8 3 rfl (by decide)).trans (whole 64 (29) 5 rfl (by decide))))))
    have f1 : wordField w0 25 21 = 5 := by unfold wordField; omega
    have f2 : wordField w0 22 21 = 1 := by rw [hw]; exact (above 128 7 _ (b.toNat) 22 21 rfl b.isLt).trans ((above 128 7 _ (a.toNat) 15 14 rfl a.isLt).trans ((above 128 7 _ (d.toNat) 8 7 rfl d.isLt).trans (lowest 4 _ (1) 1 rfl (by decide))))
    have f3 : wordField w0 20 14 = d.toNat := by rw [hw]; exact (above 128 7 _ (b.toNat) 20 14 rfl b.isLt).trans ((above 128 7 _ (a.toNat) 13 7 rfl a.isLt).trans (lowest 128 _ (d.toNat) 6 rfl d.isLt))
    have f4 : wordField w0 13 7 = a.toNat := by rw [hw]; exact (above 128 7 _ (b.toNat) 13 7 rfl b.isLt).trans (lowest 128 _ (a.toNat) 6 rfl a.isLt)
    have f5 : wordField w0 6 0 = b.toNat := by rw [hw]; exact lowest 128 _ (b.toNat) 6 rfl b.isLt
    have f6 : wordField w1 31 15 = 0 := by rw [hv]; exact (above_zeros 256 8 _ 31 15 rfl).trans ((above 16 4 _ (df.toNat) 23 7 rfl df.isLt).trans ((above 4 2 _ (rm.toNat) 19 3 rfl rm.isLt).trans ((above 2 1 _ (sat.toNat) 17 1 rfl sat.isLt).trans (whole 131072 (0) 16 rfl (by decide)))))
    have f7 : wordField w1 14 14 = sat.toNat := by rw [hv]; exact (above_zeros 256 8 _ 14 14 rfl).trans ((above 16 4 _ (df.toNat) 6 6 rfl df.isLt).trans ((above 4 2 _ (rm.toNat) 2 2 rfl rm.isLt).trans (lowest 2 _ (sat.toNat) 0 rfl sat.isLt)))
    have f8 : wordField w1 13 12 = rm.toNat := by rw [hv]; exact (above_zeros 256 8 _ 13 12 rfl).trans ((above 16 4 _ (df.toNat) 5 4 rfl df.isLt).trans (lowest 4 _ (rm.toNat) 1 rfl rm.isLt))
    have f9 : wordField w1 11 8 = df.toNat := by rw [hv]; exact (above_zeros 256 8 _ 11 8 rfl).trans (lowest 16 _ (df.toNat) 3 rfl df.isLt)
    have f10 : wordField w1 7 0 = 0 := by rw [hv]; exact lowest_zeros 256 _ 7 rfl
    have he : encode (.cvtPk8 1#2 d a b sat rm df) = [w0, w1] := by subst ew ev; exact rfl
    rw [he]
    refine (major1D f0).trans ?_
    show decodeMajor1D w0 w1 = _
    simp only [decodeMajor1D, f1, f2, f3, f4, f5, f6, f7, f8, f9, f10, BitVec.ofNat_toNat, BitVec.setWidth_eq]
    exact decodedIf_good _ _ hwf
  · have b0 := d.isLt
    have b1 := a.isLt
    have b2 := b.isLt
    have b3 := sat.isLt
    have b4 := rm.isLt
    have b5 := df.isLt
    obtain ⟨w0, ew⟩ : ∃ w0, w0 = 0x74800000 + 2 * 0x200000 + d.toNat * 0x4000 + a.toNat * 0x80 + b.toNat := ⟨_, rfl⟩
    have hw : w0 = ((((29 * 8 + 1) * 4 + 2) * 128 + d.toNat) * 128 + a.toNat) * 128 + b.toNat := ew.trans (by clear ew; omega)
    obtain ⟨w1, ev⟩ : ∃ w1, w1 = sat.toNat * 0x4000 + rm.toNat * 0x1000 + df.toNat * 0x100 := ⟨_, rfl⟩
    have hv : w1 = (((0 * 2 + sat.toNat) * 4 + rm.toNat) * 16 + df.toNat) * 256 := ev.trans (by clear ew ev; omega)
    have f0 : wordField w0 31 26 = 29 := by rw [hw]; exact (above 128 7 _ (b.toNat) 31 26 rfl b.isLt).trans ((above 128 7 _ (a.toNat) 24 19 rfl a.isLt).trans ((above 128 7 _ (d.toNat) 17 12 rfl d.isLt).trans ((above 4 2 _ (2) 10 5 rfl (by decide)).trans ((above 8 3 _ (1) 8 3 rfl (by decide)).trans (whole 64 (29) 5 rfl (by decide))))))
    have f1 : wordField w0 25 21 = 6 := by unfold wordField; omega
    have f2 : wordField w0 22 21 = 2 := by rw [hw]; exact (above 128 7 _ (b.toNat) 22 21 rfl b.isLt).trans ((above 128 7 _ (a.toNat) 15 14 rfl a.isLt).trans ((above 128 7 _ (d.toNat) 8 7 rfl d.isLt).trans (lowest 4 _ (2) 1 rfl (by decide))))
    have f3 : wordField w0 20 14 = d.toNat := by rw [hw]; exact (above 128 7 _ (b.toNat) 20 14 rfl b.isLt).trans ((above 128 7 _ (a.toNat) 13 7 rfl a.isLt).trans (lowest 128 _ (d.toNat) 6 rfl d.isLt))
    have f4 : wordField w0 13 7 = a.toNat := by rw [hw]; exact (above 128 7 _ (b.toNat) 13 7 rfl b.isLt).trans (lowest 128 _ (a.toNat) 6 rfl a.isLt)
    have f5 : wordField w0 6 0 = b.toNat := by rw [hw]; exact lowest 128 _ (b.toNat) 6 rfl b.isLt
    have f6 : wordField w1 31 15 = 0 := by rw [hv]; exact (above_zeros 256 8 _ 31 15 rfl).trans ((above 16 4 _ (df.toNat) 23 7 rfl df.isLt).trans ((above 4 2 _ (rm.toNat) 19 3 rfl rm.isLt).trans ((above 2 1 _ (sat.toNat) 17 1 rfl sat.isLt).trans (whole 131072 (0) 16 rfl (by decide)))))
    have f7 : wordField w1 14 14 = sat.toNat := by rw [hv]; exact (above_zeros 256 8 _ 14 14 rfl).trans ((above 16 4 _ (df.toNat) 6 6 rfl df.isLt).trans ((above 4 2 _ (rm.toNat) 2 2 rfl rm.isLt).trans (lowest 2 _ (sat.toNat) 0 rfl sat.isLt)))
    have f8 : wordField w1 13 12 = rm.toNat := by rw [hv]; exact (above_zeros 256 8 _ 13 12 rfl).trans ((above 16 4 _ (df.toNat) 5 4 rfl df.isLt).trans (lowest 4 _ (rm.toNat) 1 rfl rm.isLt))
    have f9 : wordField w1 11 8 = df.toNat := by rw [hv]; exact (above_zeros 256 8 _ 11 8 rfl).trans (lowest 16 _ (df.toNat) 3 rfl df.isLt)
    have f10 : wordField w1 7 0 = 0 := by rw [hv]; exact lowest_zeros 256 _ 7 rfl
    have he : encode (.cvtPk8 2#2 d a b sat rm df) = [w0, w1] := by subst ew ev; exact rfl
    rw [he]
    refine (major1D f0).trans ?_
    show decodeMajor1D w0 w1 = _
    simp only [decodeMajor1D, f1, f2, f3, f4, f5, f6, f7, f8, f9, f10, BitVec.ofNat_toNat, BitVec.setWidth_eq]
    exact decodedIf_good _ _ hwf
  · have b0 := d.isLt
    have b1 := a.isLt
    have b2 := b.isLt
    have b3 := sat.isLt
    have b4 := rm.isLt
    have b5 := df.isLt
    obtain ⟨w0, ew⟩ : ∃ w0, w0 = 0x74800000 + 3 * 0x200000 + d.toNat * 0x4000 + a.toNat * 0x80 + b.toNat := ⟨_, rfl⟩
    have hw : w0 = ((((29 * 8 + 1) * 4 + 3) * 128 + d.toNat) * 128 + a.toNat) * 128 + b.toNat := ew.trans (by clear ew; omega)
    obtain ⟨w1, ev⟩ : ∃ w1, w1 = sat.toNat * 0x4000 + rm.toNat * 0x1000 + df.toNat * 0x100 := ⟨_, rfl⟩
    have hv : w1 = (((0 * 2 + sat.toNat) * 4 + rm.toNat) * 16 + df.toNat) * 256 := ev.trans (by clear ew ev; omega)
    have f0 : wordField w0 31 26 = 29 := by rw [hw]; exact (above 128 7 _ (b.toNat) 31 26 rfl b.isLt).trans ((above 128 7 _ (a.toNat) 24 19 rfl a.isLt).trans ((above 128 7 _ (d.toNat) 17 12 rfl d.isLt).trans ((above 4 2 _ (3) 10 5 rfl (by decide)).trans ((above 8 3 _ (1) 8 3 rfl (by decide)).trans (whole 64 (29) 5 rfl (by decide))))))
    have f1 : wordField w0 25 21 = 7 := by unfold wordField; omega
    have f2 : wordField w0 22 21 = 3 := by rw [hw]; exact (above 128 7 _ (b.toNat) 22 21 rfl b.isLt).trans ((above 128 7 _ (a.toNat) 15 14 rfl a.isLt).trans ((above 128 7 _ (d.toNat) 8 7 rfl d.isLt).trans (lowest 4 _ (3) 1 rfl (by decide))))
    have f3 : wordField w0 20 14 = d.toNat := by rw [hw]; exact (above 128 7 _ (b.toNat) 20 14 rfl b.isLt).trans ((above 128 7 _ (a.toNat) 13 7 rfl a.isLt).trans (lowest 128 _ (d.toNat) 6 rfl d.isLt))
    have f4 : wordField w0 13 7 = a.toNat := by rw [hw]; exact (above 128 7 _ (b.toNat) 13 7 rfl b.isLt).trans (lowest 128 _ (a.toNat) 6 rfl a.isLt)
    have f5 : wordField w0 6 0 = b.toNat := by rw [hw]; exact lowest 128 _ (b.toNat) 6 rfl b.isLt
    have f6 : wordField w1 31 15 = 0 := by rw [hv]; exact (above_zeros 256 8 _ 31 15 rfl).trans ((above 16 4 _ (df.toNat) 23 7 rfl df.isLt).trans ((above 4 2 _ (rm.toNat) 19 3 rfl rm.isLt).trans ((above 2 1 _ (sat.toNat) 17 1 rfl sat.isLt).trans (whole 131072 (0) 16 rfl (by decide)))))
    have f7 : wordField w1 14 14 = sat.toNat := by rw [hv]; exact (above_zeros 256 8 _ 14 14 rfl).trans ((above 16 4 _ (df.toNat) 6 6 rfl df.isLt).trans ((above 4 2 _ (rm.toNat) 2 2 rfl rm.isLt).trans (lowest 2 _ (sat.toNat) 0 rfl sat.isLt)))
    have f8 : wordField w1 13 12 = rm.toNat := by rw [hv]; exact (above_zeros 256 8 _ 13 12 rfl).trans ((above 16 4 _ (df.toNat) 5 4 rfl df.isLt).trans (lowest 4 _ (rm.toNat) 1 rfl rm.isLt))
    have f9 : wordField w1 11 8 = df.toNat := by rw [hv]; exact (above_zeros 256 8 _ 11 8 rfl).trans (lowest 16 _ (df.toNat) 3 rfl df.isLt)
    have f10 : wordField w1 7 0 = 0 := by rw [hv]; exact lowest_zeros 256 _ 7 rfl
    have he : encode (.cvtPk8 3#2 d a b sat rm df) = [w0, w1] := by subst ew ev; exact rfl
    rw [he]
    refine (major1D f0).trans ?_
    show decodeMajor1D w0 w1 = _
    simp only [decodeMajor1D, f1, f2, f3, f4, f5, f6, f7, f8, f9, f10, BitVec.ofNat_toNat, BitVec.setWidth_eq]
    exact decodedIf_good _ _ hwf

theorem cvtUnpk2 (e : BitVec 1) (d : BitVec 7) (a : BitVec 7) (b : BitVec 7) (sc : BitVec 2) (sf : BitVec 4) : Statement (.cvtUnpk2 e d a b sc sf) := by
  intro hcode hwf x
  clear hcode
  have s_e : e = 0#1 ∨ e = 1#1 := by clear hwf; revert e; decide
  rcases s_e with rfl | rfl
  · have b0 := d.isLt
    have b1 := a.isLt
    have b2 := b.isLt
    have b3 := sc.isLt
    have b4 := sf.isLt
    obtain ⟨w0, ew⟩ : ∃ w0, w0 = 0x75000000 + 0 * 0x200000 + d.toNat * 0x4000 + a.toNat * 0x80 + b.toNat := ⟨_, rfl⟩
    have hw : w0 = ((((29 * 16 + 4) * 2) * 128 + d.toNat) * 128 + a.toNat) * 128 + b.toNat := ew.trans (by clear ew; omega)
    obtain ⟨w1, ev⟩ : ∃ w1, w1 = sc.toNat * 0x1000 + sf.toNat * 0x100 := ⟨_, rfl⟩
    have hv : w1 = ((0 * 4 + sc.toNat) * 16 + sf.toNat) * 256 := ev.trans (by clear ew ev; omega)
    have f0 : wordField w0 31 26 = 29 := by rw [hw]; exact (above 128 7 _ (b.toNat) 31 26 rfl b.isLt).trans ((above 128 7 _ (a.toNat) 24 19 rfl a.isLt).trans ((above 128 7 _ (d.toNat) 17 12 rfl d.isLt).trans ((above_zeros 2 1 _ 10 5 rfl).trans ((above 16 4 _ (4) 9 4 rfl (by decide)).trans (whole 64 (29) 5 rfl (by decide))))))
    have f1 : wordField w0 25 21 = 8 := by unfold wordField; omega
    have f2 : wordField w0 21 21 = 0 := by rw [hw]; exact (above 128 7 _ (b.toNat) 21 21 rfl b.isLt).trans ((above 128 7 _ (a.toNat) 14 14 rfl a.isLt).trans ((above 128 7 _ (d.toNat) 7 7 rfl d.isLt).trans (lowest_zeros 2 _ 0 rfl)))
    have f3 : wordField w0 20 14 = d.toNat := by rw [hw]; exact (above 128 7 _ (b.toNat) 20 14 rfl b.isLt).trans ((above 128 7 _ (a.toNat) 13 7 rfl a.isLt).trans (lowest 128 _ (d.toNat) 6 rfl d.isLt))
    have f4 : wordField w0 13 7 = a.toNat := by rw [hw]; exact (above 128 7 _ (b.toNat) 13 7 rfl b.isLt).trans (lowest 128 _ (a.toNat) 6 rfl a.isLt)
    have f5 : wordField w0 6 0 = b.toNat := by rw [hw]; exact lowest 128 _ (b.toNat) 6 rfl b.isLt
    have f6 : wordField w1 31 14 = 0 := by rw [hv]; exact (above_zeros 256 8 _ 31 14 rfl).trans ((above 16 4 _ (sf.toNat) 23 6 rfl sf.isLt).trans ((above 4 2 _ (sc.toNat) 19 2 rfl sc.isLt).trans (whole 262144 (0) 17 rfl (by decide))))
    have f7 : wordField w1 13 12 = sc.toNat := by rw [hv]; exact (above_zeros 256 8 _ 13 12 rfl).trans ((above 16 4 _ (sf.toNat) 5 4 rfl sf.isLt).trans (lowest 4 _ (sc.toNat) 1 rfl sc.isLt))
    have f8 : wordField w1 11 8 = sf.toNat := by rw [hv]; exact (above_zeros 256 8 _ 11 8 rfl).trans (lowest 16 _ (sf.toNat) 3 rfl sf.isLt)
    have f9 : wordField w1 7 0 = 0 := by rw [hv]; exact lowest_zeros 256 _ 7 rfl
    have he : encode (.cvtUnpk2 0#1 d a b sc sf) = [w0, w1] := by subst ew ev; exact rfl
    rw [he]
    refine (major1D f0).trans ?_
    show decodeMajor1D w0 w1 = _
    simp only [decodeMajor1D, f1, f2, f3, f4, f5, f6, f7, f8, f9, BitVec.ofNat_toNat, BitVec.setWidth_eq]
    exact decodedIf_good _ _ hwf
  · have b0 := d.isLt
    have b1 := a.isLt
    have b2 := b.isLt
    have b3 := sc.isLt
    have b4 := sf.isLt
    obtain ⟨w0, ew⟩ : ∃ w0, w0 = 0x75000000 + 1 * 0x200000 + d.toNat * 0x4000 + a.toNat * 0x80 + b.toNat := ⟨_, rfl⟩
    have hw : w0 = ((((29 * 16 + 4) * 2 + 1) * 128 + d.toNat) * 128 + a.toNat) * 128 + b.toNat := ew.trans (by clear ew; omega)
    obtain ⟨w1, ev⟩ : ∃ w1, w1 = sc.toNat * 0x1000 + sf.toNat * 0x100 := ⟨_, rfl⟩
    have hv : w1 = ((0 * 4 + sc.toNat) * 16 + sf.toNat) * 256 := ev.trans (by clear ew ev; omega)
    have f0 : wordField w0 31 26 = 29 := by rw [hw]; exact (above 128 7 _ (b.toNat) 31 26 rfl b.isLt).trans ((above 128 7 _ (a.toNat) 24 19 rfl a.isLt).trans ((above 128 7 _ (d.toNat) 17 12 rfl d.isLt).trans ((above 2 1 _ (1) 10 5 rfl (by decide)).trans ((above 16 4 _ (4) 9 4 rfl (by decide)).trans (whole 64 (29) 5 rfl (by decide))))))
    have f1 : wordField w0 25 21 = 9 := by unfold wordField; omega
    have f2 : wordField w0 21 21 = 1 := by rw [hw]; exact (above 128 7 _ (b.toNat) 21 21 rfl b.isLt).trans ((above 128 7 _ (a.toNat) 14 14 rfl a.isLt).trans ((above 128 7 _ (d.toNat) 7 7 rfl d.isLt).trans (lowest 2 _ (1) 0 rfl (by decide))))
    have f3 : wordField w0 20 14 = d.toNat := by rw [hw]; exact (above 128 7 _ (b.toNat) 20 14 rfl b.isLt).trans ((above 128 7 _ (a.toNat) 13 7 rfl a.isLt).trans (lowest 128 _ (d.toNat) 6 rfl d.isLt))
    have f4 : wordField w0 13 7 = a.toNat := by rw [hw]; exact (above 128 7 _ (b.toNat) 13 7 rfl b.isLt).trans (lowest 128 _ (a.toNat) 6 rfl a.isLt)
    have f5 : wordField w0 6 0 = b.toNat := by rw [hw]; exact lowest 128 _ (b.toNat) 6 rfl b.isLt
    have f6 : wordField w1 31 14 = 0 := by rw [hv]; exact (above_zeros 256 8 _ 31 14 rfl).trans ((above 16 4 _ (sf.toNat) 23 6 rfl sf.isLt).trans ((above 4 2 _ (sc.toNat) 19 2 rfl sc.isLt).trans (whole 262144 (0) 17 rfl (by decide))))
    have f7 : wordField w1 13 12 = sc.toNat := by rw [hv]; exact (above_zeros 256 8 _ 13 12 rfl).trans ((above 16 4 _ (sf.toNat) 5 4 rfl sf.isLt).trans (lowest 4 _ (sc.toNat) 1 rfl sc.isLt))
    have f8 : wordField w1 11 8 = sf.toNat := by rw [hv]; exact (above_zeros 256 8 _ 11 8 rfl).trans (lowest 16 _ (sf.toNat) 3 rfl sf.isLt)
    have f9 : wordField w1 7 0 = 0 := by rw [hv]; exact lowest_zeros 256 _ 7 rfl
    have he : encode (.cvtUnpk2 1#1 d a b sc sf) = [w0, w1] := by subst ew ev; exact rfl
    rw [he]
    refine (major1D f0).trans ?_
    show decodeMajor1D w0 w1 = _
    simp only [decodeMajor1D, f1, f2, f3, f4, f5, f6, f7, f8, f9, BitVec.ofNat_toNat, BitVec.setWidth_eq]
    exact decodedIf_good _ _ hwf

theorem cvtUnpk4 (e : BitVec 2) (d : BitVec 7) (a : BitVec 7) (b : BitVec 7) (sc : BitVec 2) (sf : BitVec 4) : Statement (.cvtUnpk4 e d a b sc sf) := by
  intro hcode hwf x
  clear hcode
  have s_e : e = 0#2 ∨ e = 1#2 ∨ e = 2#2 ∨ e = 3#2 := by clear hwf; revert e; decide
  rcases s_e with rfl | rfl | rfl | rfl
  · have b0 := d.isLt
    have b1 := a.isLt
    have b2 := b.isLt
    have b3 := sc.isLt
    have b4 := sf.isLt
    obtain ⟨w0, ew⟩ : ∃ w0, w0 = 0x75800000 + 0 * 0x200000 + d.toNat * 0x4000 + a.toNat * 0x80 + b.toNat := ⟨_, rfl⟩
    have hw : w0 = ((((29 * 8 + 3) * 4) * 128 + d.toNat) * 128 + a.toNat) * 128 + b.toNat := ew.trans (by clear ew; omega)
    obtain ⟨w1, ev⟩ : ∃ w1, w1 = sc.toNat * 0x1000 + sf.toNat * 0x100 := ⟨_, rfl⟩
    have hv : w1 = ((0 * 4 + sc.toNat) * 16 + sf.toNat) * 256 := ev.trans (by clear ew ev; omega)
    have f0 : wordField w0 31 26 = 29 := by rw [hw]; exact (above 128 7 _ (b.toNat) 31 26 rfl b.isLt).trans ((above 128 7 _ (a.toNat) 24 19 rfl a.isLt).trans ((above 128 7 _ (d.toNat) 17 12 rfl d.isLt).trans ((above_zeros 4 2 _ 10 5 rfl).trans ((above 8 3 _ (3) 8 3 rfl (by decide)).trans (whole 64 (29) 5 rfl (by decide))))))
    have f1 : wordField w0 25 21 = 12 := by unfold wordField; omega
    have f2 : wordField w0 22 21 = 0 := by rw [hw]; exact (above 128 7 _ (b.toNat) 22 21 rfl b.isLt).trans ((above 128 7 _ (a.toNat) 15 14 rfl a.isLt).trans ((above 128 7 _ (d.toNat) 8 7 rfl d.isLt).trans (lowest_zeros 4 _ 1 rfl)))
    have f3 : wordField w0 20 14 = d.toNat := by rw [hw]; exact (above 128 7 _ (b.toNat) 20 14 rfl b.isLt).trans ((above 128 7 _ (a.toNat) 13 7 rfl a.isLt).trans (lowest 128 _ (d.toNat) 6 rfl d.isLt))
    have f4 : wordField w0 13 7 = a.toNat := by rw [hw]; exact (above 128 7 _ (b.toNat) 13 7 rfl b.isLt).trans (lowest 128 _ (a.toNat) 6 rfl a.isLt)
    have f5 : wordField w0 6 0 = b.toNat := by rw [hw]; exact lowest 128 _ (b.toNat) 6 rfl b.isLt
    have f6 : wordField w1 31 14 = 0 := by rw [hv]; exact (above_zeros 256 8 _ 31 14 rfl).trans ((above 16 4 _ (sf.toNat) 23 6 rfl sf.isLt).trans ((above 4 2 _ (sc.toNat) 19 2 rfl sc.isLt).trans (whole 262144 (0) 17 rfl (by decide))))
    have f7 : wordField w1 13 12 = sc.toNat := by rw [hv]; exact (above_zeros 256 8 _ 13 12 rfl).trans ((above 16 4 _ (sf.toNat) 5 4 rfl sf.isLt).trans (lowest 4 _ (sc.toNat) 1 rfl sc.isLt))
    have f8 : wordField w1 11 8 = sf.toNat := by rw [hv]; exact (above_zeros 256 8 _ 11 8 rfl).trans (lowest 16 _ (sf.toNat) 3 rfl sf.isLt)
    have f9 : wordField w1 7 0 = 0 := by rw [hv]; exact lowest_zeros 256 _ 7 rfl
    have he : encode (.cvtUnpk4 0#2 d a b sc sf) = [w0, w1] := by subst ew ev; exact rfl
    rw [he]
    refine (major1D f0).trans ?_
    show decodeMajor1D w0 w1 = _
    simp only [decodeMajor1D, f1, f2, f3, f4, f5, f6, f7, f8, f9, BitVec.ofNat_toNat, BitVec.setWidth_eq]
    exact decodedIf_good _ _ hwf
  · have b0 := d.isLt
    have b1 := a.isLt
    have b2 := b.isLt
    have b3 := sc.isLt
    have b4 := sf.isLt
    obtain ⟨w0, ew⟩ : ∃ w0, w0 = 0x75800000 + 1 * 0x200000 + d.toNat * 0x4000 + a.toNat * 0x80 + b.toNat := ⟨_, rfl⟩
    have hw : w0 = ((((29 * 8 + 3) * 4 + 1) * 128 + d.toNat) * 128 + a.toNat) * 128 + b.toNat := ew.trans (by clear ew; omega)
    obtain ⟨w1, ev⟩ : ∃ w1, w1 = sc.toNat * 0x1000 + sf.toNat * 0x100 := ⟨_, rfl⟩
    have hv : w1 = ((0 * 4 + sc.toNat) * 16 + sf.toNat) * 256 := ev.trans (by clear ew ev; omega)
    have f0 : wordField w0 31 26 = 29 := by rw [hw]; exact (above 128 7 _ (b.toNat) 31 26 rfl b.isLt).trans ((above 128 7 _ (a.toNat) 24 19 rfl a.isLt).trans ((above 128 7 _ (d.toNat) 17 12 rfl d.isLt).trans ((above 4 2 _ (1) 10 5 rfl (by decide)).trans ((above 8 3 _ (3) 8 3 rfl (by decide)).trans (whole 64 (29) 5 rfl (by decide))))))
    have f1 : wordField w0 25 21 = 13 := by unfold wordField; omega
    have f2 : wordField w0 22 21 = 1 := by rw [hw]; exact (above 128 7 _ (b.toNat) 22 21 rfl b.isLt).trans ((above 128 7 _ (a.toNat) 15 14 rfl a.isLt).trans ((above 128 7 _ (d.toNat) 8 7 rfl d.isLt).trans (lowest 4 _ (1) 1 rfl (by decide))))
    have f3 : wordField w0 20 14 = d.toNat := by rw [hw]; exact (above 128 7 _ (b.toNat) 20 14 rfl b.isLt).trans ((above 128 7 _ (a.toNat) 13 7 rfl a.isLt).trans (lowest 128 _ (d.toNat) 6 rfl d.isLt))
    have f4 : wordField w0 13 7 = a.toNat := by rw [hw]; exact (above 128 7 _ (b.toNat) 13 7 rfl b.isLt).trans (lowest 128 _ (a.toNat) 6 rfl a.isLt)
    have f5 : wordField w0 6 0 = b.toNat := by rw [hw]; exact lowest 128 _ (b.toNat) 6 rfl b.isLt
    have f6 : wordField w1 31 14 = 0 := by rw [hv]; exact (above_zeros 256 8 _ 31 14 rfl).trans ((above 16 4 _ (sf.toNat) 23 6 rfl sf.isLt).trans ((above 4 2 _ (sc.toNat) 19 2 rfl sc.isLt).trans (whole 262144 (0) 17 rfl (by decide))))
    have f7 : wordField w1 13 12 = sc.toNat := by rw [hv]; exact (above_zeros 256 8 _ 13 12 rfl).trans ((above 16 4 _ (sf.toNat) 5 4 rfl sf.isLt).trans (lowest 4 _ (sc.toNat) 1 rfl sc.isLt))
    have f8 : wordField w1 11 8 = sf.toNat := by rw [hv]; exact (above_zeros 256 8 _ 11 8 rfl).trans (lowest 16 _ (sf.toNat) 3 rfl sf.isLt)
    have f9 : wordField w1 7 0 = 0 := by rw [hv]; exact lowest_zeros 256 _ 7 rfl
    have he : encode (.cvtUnpk4 1#2 d a b sc sf) = [w0, w1] := by subst ew ev; exact rfl
    rw [he]
    refine (major1D f0).trans ?_
    show decodeMajor1D w0 w1 = _
    simp only [decodeMajor1D, f1, f2, f3, f4, f5, f6, f7, f8, f9, BitVec.ofNat_toNat, BitVec.setWidth_eq]
    exact decodedIf_good _ _ hwf
  · have b0 := d.isLt
    have b1 := a.isLt
    have b2 := b.isLt
    have b3 := sc.isLt
    have b4 := sf.isLt
    obtain ⟨w0, ew⟩ : ∃ w0, w0 = 0x75800000 + 2 * 0x200000 + d.toNat * 0x4000 + a.toNat * 0x80 + b.toNat := ⟨_, rfl⟩
    have hw : w0 = ((((29 * 8 + 3) * 4 + 2) * 128 + d.toNat) * 128 + a.toNat) * 128 + b.toNat := ew.trans (by clear ew; omega)
    obtain ⟨w1, ev⟩ : ∃ w1, w1 = sc.toNat * 0x1000 + sf.toNat * 0x100 := ⟨_, rfl⟩
    have hv : w1 = ((0 * 4 + sc.toNat) * 16 + sf.toNat) * 256 := ev.trans (by clear ew ev; omega)
    have f0 : wordField w0 31 26 = 29 := by rw [hw]; exact (above 128 7 _ (b.toNat) 31 26 rfl b.isLt).trans ((above 128 7 _ (a.toNat) 24 19 rfl a.isLt).trans ((above 128 7 _ (d.toNat) 17 12 rfl d.isLt).trans ((above 4 2 _ (2) 10 5 rfl (by decide)).trans ((above 8 3 _ (3) 8 3 rfl (by decide)).trans (whole 64 (29) 5 rfl (by decide))))))
    have f1 : wordField w0 25 21 = 14 := by unfold wordField; omega
    have f2 : wordField w0 22 21 = 2 := by rw [hw]; exact (above 128 7 _ (b.toNat) 22 21 rfl b.isLt).trans ((above 128 7 _ (a.toNat) 15 14 rfl a.isLt).trans ((above 128 7 _ (d.toNat) 8 7 rfl d.isLt).trans (lowest 4 _ (2) 1 rfl (by decide))))
    have f3 : wordField w0 20 14 = d.toNat := by rw [hw]; exact (above 128 7 _ (b.toNat) 20 14 rfl b.isLt).trans ((above 128 7 _ (a.toNat) 13 7 rfl a.isLt).trans (lowest 128 _ (d.toNat) 6 rfl d.isLt))
    have f4 : wordField w0 13 7 = a.toNat := by rw [hw]; exact (above 128 7 _ (b.toNat) 13 7 rfl b.isLt).trans (lowest 128 _ (a.toNat) 6 rfl a.isLt)
    have f5 : wordField w0 6 0 = b.toNat := by rw [hw]; exact lowest 128 _ (b.toNat) 6 rfl b.isLt
    have f6 : wordField w1 31 14 = 0 := by rw [hv]; exact (above_zeros 256 8 _ 31 14 rfl).trans ((above 16 4 _ (sf.toNat) 23 6 rfl sf.isLt).trans ((above 4 2 _ (sc.toNat) 19 2 rfl sc.isLt).trans (whole 262144 (0) 17 rfl (by decide))))
    have f7 : wordField w1 13 12 = sc.toNat := by rw [hv]; exact (above_zeros 256 8 _ 13 12 rfl).trans ((above 16 4 _ (sf.toNat) 5 4 rfl sf.isLt).trans (lowest 4 _ (sc.toNat) 1 rfl sc.isLt))
    have f8 : wordField w1 11 8 = sf.toNat := by rw [hv]; exact (above_zeros 256 8 _ 11 8 rfl).trans (lowest 16 _ (sf.toNat) 3 rfl sf.isLt)
    have f9 : wordField w1 7 0 = 0 := by rw [hv]; exact lowest_zeros 256 _ 7 rfl
    have he : encode (.cvtUnpk4 2#2 d a b sc sf) = [w0, w1] := by subst ew ev; exact rfl
    rw [he]
    refine (major1D f0).trans ?_
    show decodeMajor1D w0 w1 = _
    simp only [decodeMajor1D, f1, f2, f3, f4, f5, f6, f7, f8, f9, BitVec.ofNat_toNat, BitVec.setWidth_eq]
    exact decodedIf_good _ _ hwf
  · have b0 := d.isLt
    have b1 := a.isLt
    have b2 := b.isLt
    have b3 := sc.isLt
    have b4 := sf.isLt
    obtain ⟨w0, ew⟩ : ∃ w0, w0 = 0x75800000 + 3 * 0x200000 + d.toNat * 0x4000 + a.toNat * 0x80 + b.toNat := ⟨_, rfl⟩
    have hw : w0 = ((((29 * 8 + 3) * 4 + 3) * 128 + d.toNat) * 128 + a.toNat) * 128 + b.toNat := ew.trans (by clear ew; omega)
    obtain ⟨w1, ev⟩ : ∃ w1, w1 = sc.toNat * 0x1000 + sf.toNat * 0x100 := ⟨_, rfl⟩
    have hv : w1 = ((0 * 4 + sc.toNat) * 16 + sf.toNat) * 256 := ev.trans (by clear ew ev; omega)
    have f0 : wordField w0 31 26 = 29 := by rw [hw]; exact (above 128 7 _ (b.toNat) 31 26 rfl b.isLt).trans ((above 128 7 _ (a.toNat) 24 19 rfl a.isLt).trans ((above 128 7 _ (d.toNat) 17 12 rfl d.isLt).trans ((above 4 2 _ (3) 10 5 rfl (by decide)).trans ((above 8 3 _ (3) 8 3 rfl (by decide)).trans (whole 64 (29) 5 rfl (by decide))))))
    have f1 : wordField w0 25 21 = 15 := by unfold wordField; omega
    have f2 : wordField w0 22 21 = 3 := by rw [hw]; exact (above 128 7 _ (b.toNat) 22 21 rfl b.isLt).trans ((above 128 7 _ (a.toNat) 15 14 rfl a.isLt).trans ((above 128 7 _ (d.toNat) 8 7 rfl d.isLt).trans (lowest 4 _ (3) 1 rfl (by decide))))
    have f3 : wordField w0 20 14 = d.toNat := by rw [hw]; exact (above 128 7 _ (b.toNat) 20 14 rfl b.isLt).trans ((above 128 7 _ (a.toNat) 13 7 rfl a.isLt).trans (lowest 128 _ (d.toNat) 6 rfl d.isLt))
    have f4 : wordField w0 13 7 = a.toNat := by rw [hw]; exact (above 128 7 _ (b.toNat) 13 7 rfl b.isLt).trans (lowest 128 _ (a.toNat) 6 rfl a.isLt)
    have f5 : wordField w0 6 0 = b.toNat := by rw [hw]; exact lowest 128 _ (b.toNat) 6 rfl b.isLt
    have f6 : wordField w1 31 14 = 0 := by rw [hv]; exact (above_zeros 256 8 _ 31 14 rfl).trans ((above 16 4 _ (sf.toNat) 23 6 rfl sf.isLt).trans ((above 4 2 _ (sc.toNat) 19 2 rfl sc.isLt).trans (whole 262144 (0) 17 rfl (by decide))))
    have f7 : wordField w1 13 12 = sc.toNat := by rw [hv]; exact (above_zeros 256 8 _ 13 12 rfl).trans ((above 16 4 _ (sf.toNat) 5 4 rfl sf.isLt).trans (lowest 4 _ (sc.toNat) 1 rfl sc.isLt))
    have f8 : wordField w1 11 8 = sf.toNat := by rw [hv]; exact (above_zeros 256 8 _ 11 8 rfl).trans (lowest 16 _ (sf.toNat) 3 rfl sf.isLt)
    have f9 : wordField w1 7 0 = 0 := by rw [hv]; exact lowest_zeros 256 _ 7 rfl
    have he : encode (.cvtUnpk4 3#2 d a b sc sf) = [w0, w1] := by subst ew ev; exact rfl
    rw [he]
    refine (major1D f0).trans ?_
    show decodeMajor1D w0 w1 = _
    simp only [decodeMajor1D, f1, f2, f3, f4, f5, f6, f7, f8, f9, BitVec.ofNat_toNat, BitVec.setWidth_eq]
    exact decodedIf_good _ _ hwf

theorem cvtUnpk8 (e : BitVec 3) (d : BitVec 7) (a : BitVec 7) (b : BitVec 7) (sc : BitVec 2) (sf : BitVec 4) : Statement (.cvtUnpk8 e d a b sc sf) := by
  intro hcode hwf x
  clear hcode
  have s_e : e = 0#3 ∨ e = 1#3 ∨ e = 2#3 ∨ e = 3#3 ∨ e = 4#3 ∨ e = 5#3 ∨ e = 6#3 ∨ e = 7#3 := by clear hwf; revert e; decide
  rcases s_e with rfl | rfl | rfl | rfl | rfl | rfl | rfl | rfl
  · have b0 := d.isLt
    have b1 := a.isLt
    have b2 := b.isLt
    have b3 := sc.isLt
    have b4 := sf.isLt
    obtain ⟨w0, ew⟩ : ∃ w0, w0 = 0x76000000 + 0 * 0x200000 + d.toNat * 0x4000 + a.toNat * 0x80 + b.toNat := ⟨_, rfl⟩
    have hw : w0 = ((((29 * 4 + 2) * 8) * 128 + d.toNat) * 128 + a.toNat) * 128 + b.toNat := ew.trans (by clear ew; omega)
    obtain ⟨w1, ev⟩ : ∃ w1, w1 = sc.toNat * 0x1000 + sf.toNat * 0x100 := ⟨_, rfl⟩
    have hv : w1 = ((0 * 4 + sc.toNat) * 16 + sf.toNat) * 256 := ev.trans (by clear ew ev; omega)
    have f0 : wordField w0 31 26 = 29 := by rw [hw]; exact (above 128 7 _ (b.toNat) 31 26 rfl b.isLt).trans ((above 128 7 _ (a.toNat) 24 19 rfl a.isLt).trans ((above 128 7 _ (d.toNat) 17 12 rfl d.isLt).trans ((above_zeros 8 3 _ 10 5 rfl).trans ((above 4 2 _ (2) 7 2 rfl (by decide)).trans (whole 64 (29) 5 rfl (by decide))))))
    have f1 : wordField w0 25 21 = 16 := by unfold wordField; omega
    have f2 : wordField w0 23 21 = 0 := by rw [hw]; exact (above 128 7 _ (b.toNat) 23 21 rfl b.isLt).trans ((above 128 7 _ (a.toNat) 16 14 rfl a.isLt).trans ((above 128 7 _ (d.toNat) 9 7 rfl d.isLt).trans (lowest_zeros 8 _ 2 rfl)))
    have f3 : wordField w0 20 14 = d.toNat := by rw [hw]; exact (above 128 7 _ (b.toNat) 20 14 rfl b.isLt).trans ((above 128 7 _ (a.toNat) 13 7 rfl a.isLt).trans (lowest 128 _ (d.toNat) 6 rfl d.isLt))
    have f4 : wordField w0 13 7 = a.toNat := by rw [hw]; exact (above 128 7 _ (b.toNat) 13 7 rfl b.isLt).trans (lowest 128 _ (a.toNat) 6 rfl a.isLt)
    have f5 : wordField w0 6 0 = b.toNat := by rw [hw]; exact lowest 128 _ (b.toNat) 6 rfl b.isLt
    have f6 : wordField w1 31 14 = 0 := by rw [hv]; exact (above_zeros 256 8 _ 31 14 rfl).trans ((above 16 4 _ (sf.toNat) 23 6 rfl sf.isLt).trans ((above 4 2 _ (sc.toNat) 19 2 rfl sc.isLt).trans (whole 262144 (0) 17 rfl (by decide))))
    have f7 : wordField w1 13 12 = sc.toNat := by rw [hv]; exact (above_zeros 256 8 _ 13 12 rfl).trans ((above 16 4 _ (sf.toNat) 5 4 rfl sf.isLt).trans (lowest 4 _ (sc.toNat) 1 rfl sc.isLt))
    have f8 : wordField w1 11 8 = sf.toNat := by rw [hv]; exact (above_zeros 256 8 _ 11 8 rfl).trans (lowest 16 _ (sf.toNat) 3 rfl sf.isLt)
    have f9 : wordField w1 7 0 = 0 := by rw [hv]; exact lowest_zeros 256 _ 7 rfl
    have he : encode (.cvtUnpk8 0#3 d a b sc sf) = [w0, w1] := by subst ew ev; exact rfl
    rw [he]
    refine (major1D f0).trans ?_
    show decodeMajor1D w0 w1 = _
    simp only [decodeMajor1D, f1, f2, f3, f4, f5, f6, f7, f8, f9, BitVec.ofNat_toNat, BitVec.setWidth_eq]
    exact decodedIf_good _ _ hwf
  · have b0 := d.isLt
    have b1 := a.isLt
    have b2 := b.isLt
    have b3 := sc.isLt
    have b4 := sf.isLt
    obtain ⟨w0, ew⟩ : ∃ w0, w0 = 0x76000000 + 1 * 0x200000 + d.toNat * 0x4000 + a.toNat * 0x80 + b.toNat := ⟨_, rfl⟩
    have hw : w0 = ((((29 * 4 + 2) * 8 + 1) * 128 + d.toNat) * 128 + a.toNat) * 128 + b.toNat := ew.trans (by clear ew; omega)
    obtain ⟨w1, ev⟩ : ∃ w1, w1 = sc.toNat * 0x1000 + sf.toNat * 0x100 := ⟨_, rfl⟩
    have hv : w1 = ((0 * 4 + sc.toNat) * 16 + sf.toNat) * 256 := ev.trans (by clear ew ev; omega)
    have f0 : wordField w0 31 26 = 29 := by rw [hw]; exact (above 128 7 _ (b.toNat) 31 26 rfl b.isLt).trans ((above 128 7 _ (a.toNat) 24 19 rfl a.isLt).trans ((above 128 7 _ (d.toNat) 17 12 rfl d.isLt).trans ((above 8 3 _ (1) 10 5 rfl (by decide)).trans ((above 4 2 _ (2) 7 2 rfl (by decide)).trans (whole 64 (29) 5 rfl (by decide))))))
    have f1 : wordField w0 25 21 = 17 := by unfold wordField; omega
    have f2 : wordField w0 23 21 = 1 := by rw [hw]; exact (above 128 7 _ (b.toNat) 23 21 rfl b.isLt).trans ((above 128 7 _ (a.toNat) 16 14 rfl a.isLt).trans ((above 128 7 _ (d.toNat) 9 7 rfl d.isLt).trans (lowest 8 _ (1) 2 rfl (by decide))))
    have f3 : wordField w0 20 14 = d.toNat := by rw [hw]; exact (above 128 7 _ (b.toNat) 20 14 rfl b.isLt).trans ((above 128 7 _ (a.toNat) 13 7 rfl a.isLt).trans (lowest 128 _ (d.toNat) 6 rfl d.isLt))
    have f4 : wordField w0 13 7 = a.toNat := by rw [hw]; exact (above 128 7 _ (b.toNat) 13 7 rfl b.isLt).trans (lowest 128 _ (a.toNat) 6 rfl a.isLt)
    have f5 : wordField w0 6 0 = b.toNat := by rw [hw]; exact lowest 128 _ (b.toNat) 6 rfl b.isLt
    have f6 : wordField w1 31 14 = 0 := by rw [hv]; exact (above_zeros 256 8 _ 31 14 rfl).trans ((above 16 4 _ (sf.toNat) 23 6 rfl sf.isLt).trans ((above 4 2 _ (sc.toNat) 19 2 rfl sc.isLt).trans (whole 262144 (0) 17 rfl (by decide))))
    have f7 : wordField w1 13 12 = sc.toNat := by rw [hv]; exact (above_zeros 256 8 _ 13 12 rfl).trans ((above 16 4 _ (sf.toNat) 5 4 rfl sf.isLt).trans (lowest 4 _ (sc.toNat) 1 rfl sc.isLt))
    have f8 : wordField w1 11 8 = sf.toNat := by rw [hv]; exact (above_zeros 256 8 _ 11 8 rfl).trans (lowest 16 _ (sf.toNat) 3 rfl sf.isLt)
    have f9 : wordField w1 7 0 = 0 := by rw [hv]; exact lowest_zeros 256 _ 7 rfl
    have he : encode (.cvtUnpk8 1#3 d a b sc sf) = [w0, w1] := by subst ew ev; exact rfl
    rw [he]
    refine (major1D f0).trans ?_
    show decodeMajor1D w0 w1 = _
    simp only [decodeMajor1D, f1, f2, f3, f4, f5, f6, f7, f8, f9, BitVec.ofNat_toNat, BitVec.setWidth_eq]
    exact decodedIf_good _ _ hwf
  · have b0 := d.isLt
    have b1 := a.isLt
    have b2 := b.isLt
    have b3 := sc.isLt
    have b4 := sf.isLt
    obtain ⟨w0, ew⟩ : ∃ w0, w0 = 0x76000000 + 2 * 0x200000 + d.toNat * 0x4000 + a.toNat * 0x80 + b.toNat := ⟨_, rfl⟩
    have hw : w0 = ((((29 * 4 + 2) * 8 + 2) * 128 + d.toNat) * 128 + a.toNat) * 128 + b.toNat := ew.trans (by clear ew; omega)
    obtain ⟨w1, ev⟩ : ∃ w1, w1 = sc.toNat * 0x1000 + sf.toNat * 0x100 := ⟨_, rfl⟩
    have hv : w1 = ((0 * 4 + sc.toNat) * 16 + sf.toNat) * 256 := ev.trans (by clear ew ev; omega)
    have f0 : wordField w0 31 26 = 29 := by rw [hw]; exact (above 128 7 _ (b.toNat) 31 26 rfl b.isLt).trans ((above 128 7 _ (a.toNat) 24 19 rfl a.isLt).trans ((above 128 7 _ (d.toNat) 17 12 rfl d.isLt).trans ((above 8 3 _ (2) 10 5 rfl (by decide)).trans ((above 4 2 _ (2) 7 2 rfl (by decide)).trans (whole 64 (29) 5 rfl (by decide))))))
    have f1 : wordField w0 25 21 = 18 := by unfold wordField; omega
    have f2 : wordField w0 23 21 = 2 := by rw [hw]; exact (above 128 7 _ (b.toNat) 23 21 rfl b.isLt).trans ((above 128 7 _ (a.toNat) 16 14 rfl a.isLt).trans ((above 128 7 _ (d.toNat) 9 7 rfl d.isLt).trans (lowest 8 _ (2) 2 rfl (by decide))))
    have f3 : wordField w0 20 14 = d.toNat := by rw [hw]; exact (above 128 7 _ (b.toNat) 20 14 rfl b.isLt).trans ((above 128 7 _ (a.toNat) 13 7 rfl a.isLt).trans (lowest 128 _ (d.toNat) 6 rfl d.isLt))
    have f4 : wordField w0 13 7 = a.toNat := by rw [hw]; exact (above 128 7 _ (b.toNat) 13 7 rfl b.isLt).trans (lowest 128 _ (a.toNat) 6 rfl a.isLt)
    have f5 : wordField w0 6 0 = b.toNat := by rw [hw]; exact lowest 128 _ (b.toNat) 6 rfl b.isLt
    have f6 : wordField w1 31 14 = 0 := by rw [hv]; exact (above_zeros 256 8 _ 31 14 rfl).trans ((above 16 4 _ (sf.toNat) 23 6 rfl sf.isLt).trans ((above 4 2 _ (sc.toNat) 19 2 rfl sc.isLt).trans (whole 262144 (0) 17 rfl (by decide))))
    have f7 : wordField w1 13 12 = sc.toNat := by rw [hv]; exact (above_zeros 256 8 _ 13 12 rfl).trans ((above 16 4 _ (sf.toNat) 5 4 rfl sf.isLt).trans (lowest 4 _ (sc.toNat) 1 rfl sc.isLt))
    have f8 : wordField w1 11 8 = sf.toNat := by rw [hv]; exact (above_zeros 256 8 _ 11 8 rfl).trans (lowest 16 _ (sf.toNat) 3 rfl sf.isLt)
    have f9 : wordField w1 7 0 = 0 := by rw [hv]; exact lowest_zeros 256 _ 7 rfl
    have he : encode (.cvtUnpk8 2#3 d a b sc sf) = [w0, w1] := by subst ew ev; exact rfl
    rw [he]
    refine (major1D f0).trans ?_
    show decodeMajor1D w0 w1 = _
    simp only [decodeMajor1D, f1, f2, f3, f4, f5, f6, f7, f8, f9, BitVec.ofNat_toNat, BitVec.setWidth_eq]
    exact decodedIf_good _ _ hwf
  · have b0 := d.isLt
    have b1 := a.isLt
    have b2 := b.isLt
    have b3 := sc.isLt
    have b4 := sf.isLt
    obtain ⟨w0, ew⟩ : ∃ w0, w0 = 0x76000000 + 3 * 0x200000 + d.toNat * 0x4000 + a.toNat * 0x80 + b.toNat := ⟨_, rfl⟩
    have hw : w0 = ((((29 * 4 + 2) * 8 + 3) * 128 + d.toNat) * 128 + a.toNat) * 128 + b.toNat := ew.trans (by clear ew; omega)
    obtain ⟨w1, ev⟩ : ∃ w1, w1 = sc.toNat * 0x1000 + sf.toNat * 0x100 := ⟨_, rfl⟩
    have hv : w1 = ((0 * 4 + sc.toNat) * 16 + sf.toNat) * 256 := ev.trans (by clear ew ev; omega)
    have f0 : wordField w0 31 26 = 29 := by rw [hw]; exact (above 128 7 _ (b.toNat) 31 26 rfl b.isLt).trans ((above 128 7 _ (a.toNat) 24 19 rfl a.isLt).trans ((above 128 7 _ (d.toNat) 17 12 rfl d.isLt).trans ((above 8 3 _ (3) 10 5 rfl (by decide)).trans ((above 4 2 _ (2) 7 2 rfl (by decide)).trans (whole 64 (29) 5 rfl (by decide))))))
    have f1 : wordField w0 25 21 = 19 := by unfold wordField; omega
    have f2 : wordField w0 23 21 = 3 := by rw [hw]; exact (above 128 7 _ (b.toNat) 23 21 rfl b.isLt).trans ((above 128 7 _ (a.toNat) 16 14 rfl a.isLt).trans ((above 128 7 _ (d.toNat) 9 7 rfl d.isLt).trans (lowest 8 _ (3) 2 rfl (by decide))))
    have f3 : wordField w0 20 14 = d.toNat := by rw [hw]; exact (above 128 7 _ (b.toNat) 20 14 rfl b.isLt).trans ((above 128 7 _ (a.toNat) 13 7 rfl a.isLt).trans (lowest 128 _ (d.toNat) 6 rfl d.isLt))
    have f4 : wordField w0 13 7 = a.toNat := by rw [hw]; exact (above 128 7 _ (b.toNat) 13 7 rfl b.isLt).trans (lowest 128 _ (a.toNat) 6 rfl a.isLt)
    have f5 : wordField w0 6 0 = b.toNat := by rw [hw]; exact lowest 128 _ (b.toNat) 6 rfl b.isLt
    have f6 : wordField w1 31 14 = 0 := by rw [hv]; exact (above_zeros 256 8 _ 31 14 rfl).trans ((above 16 4 _ (sf.toNat) 23 6 rfl sf.isLt).trans ((above 4 2 _ (sc.toNat) 19 2 rfl sc.isLt).trans (whole 262144 (0) 17 rfl (by decide))))
    have f7 : wordField w1 13 12 = sc.toNat := by rw [hv]; exact (above_zeros 256 8 _ 13 12 rfl).trans ((above 16 4 _ (sf.toNat) 5 4 rfl sf.isLt).trans (lowest 4 _ (sc.toNat) 1 rfl sc.isLt))
    have f8 : wordField w1 11 8 = sf.toNat := by rw [hv]; exact (above_zeros 256 8 _ 11 8 rfl).trans (lowest 16 _ (sf.toNat) 3 rfl sf.isLt)
    have f9 : wordField w1 7 0 = 0 := by rw [hv]; exact lowest_zeros 256 _ 7 rfl
    have he : encode (.cvtUnpk8 3#3 d a b sc sf) = [w0, w1] := by subst ew ev; exact rfl
    rw [he]
    refine (major1D f0).trans ?_
    show decodeMajor1D w0 w1 = _
    simp only [decodeMajor1D, f1, f2, f3, f4, f5, f6, f7, f8, f9, BitVec.ofNat_toNat, BitVec.setWidth_eq]
    exact decodedIf_good _ _ hwf
  · have b0 := d.isLt
    have b1 := a.isLt
    have b2 := b.isLt
    have b3 := sc.isLt
    have b4 := sf.isLt
    obtain ⟨w0, ew⟩ : ∃ w0, w0 = 0x76000000 + 4 * 0x200000 + d.toNat * 0x4000 + a.toNat * 0x80 + b.toNat := ⟨_, rfl⟩
    have hw : w0 = ((((29 * 4 + 2) * 8 + 4) * 128 + d.toNat) * 128 + a.toNat) * 128 + b.toNat := ew.trans (by clear ew; omega)
    obtain ⟨w1, ev⟩ : ∃ w1, w1 = sc.toNat * 0x1000 + sf.toNat * 0x100 := ⟨_, rfl⟩
    have hv : w1 = ((0 * 4 + sc.toNat) * 16 + sf.toNat) * 256 := ev.trans (by clear ew ev; omega)
    have f0 : wordField w0 31 26 = 29 := by rw [hw]; exact (above 128 7 _ (b.toNat) 31 26 rfl b.isLt).trans ((above 128 7 _ (a.toNat) 24 19 rfl a.isLt).trans ((above 128 7 _ (d.toNat) 17 12 rfl d.isLt).trans ((above 8 3 _ (4) 10 5 rfl (by decide)).trans ((above 4 2 _ (2) 7 2 rfl (by decide)).trans (whole 64 (29) 5 rfl (by decide))))))
    have f1 : wordField w0 25 21 = 20 := by unfold wordField; omega
    have f2 : wordField w0 23 21 = 4 := by rw [hw]; exact (above 128 7 _ (b.toNat) 23 21 rfl b.isLt).trans ((above 128 7 _ (a.toNat) 16 14 rfl a.isLt).trans ((above 128 7 _ (d.toNat) 9 7 rfl d.isLt).trans (lowest 8 _ (4) 2 rfl (by decide))))
    have f3 : wordField w0 20 14 = d.toNat := by rw [hw]; exact (above 128 7 _ (b.toNat) 20 14 rfl b.isLt).trans ((above 128 7 _ (a.toNat) 13 7 rfl a.isLt).trans (lowest 128 _ (d.toNat) 6 rfl d.isLt))
    have f4 : wordField w0 13 7 = a.toNat := by rw [hw]; exact (above 128 7 _ (b.toNat) 13 7 rfl b.isLt).trans (lowest 128 _ (a.toNat) 6 rfl a.isLt)
    have f5 : wordField w0 6 0 = b.toNat := by rw [hw]; exact lowest 128 _ (b.toNat) 6 rfl b.isLt
    have f6 : wordField w1 31 14 = 0 := by rw [hv]; exact (above_zeros 256 8 _ 31 14 rfl).trans ((above 16 4 _ (sf.toNat) 23 6 rfl sf.isLt).trans ((above 4 2 _ (sc.toNat) 19 2 rfl sc.isLt).trans (whole 262144 (0) 17 rfl (by decide))))
    have f7 : wordField w1 13 12 = sc.toNat := by rw [hv]; exact (above_zeros 256 8 _ 13 12 rfl).trans ((above 16 4 _ (sf.toNat) 5 4 rfl sf.isLt).trans (lowest 4 _ (sc.toNat) 1 rfl sc.isLt))
    have f8 : wordField w1 11 8 = sf.toNat := by rw [hv]; exact (above_zeros 256 8 _ 11 8 rfl).trans (lowest 16 _ (sf.toNat) 3 rfl sf.isLt)
    have f9 : wordField w1 7 0 = 0 := by rw [hv]; exact lowest_zeros 256 _ 7 rfl
    have he : encode (.cvtUnpk8 4#3 d a b sc sf) = [w0, w1] := by subst ew ev; exact rfl
    rw [he]
    refine (major1D f0).trans ?_
    show decodeMajor1D w0 w1 = _
    simp only [decodeMajor1D, f1, f2, f3, f4, f5, f6, f7, f8, f9, BitVec.ofNat_toNat, BitVec.setWidth_eq]
    exact decodedIf_good _ _ hwf
  · have b0 := d.isLt
    have b1 := a.isLt
    have b2 := b.isLt
    have b3 := sc.isLt
    have b4 := sf.isLt
    obtain ⟨w0, ew⟩ : ∃ w0, w0 = 0x76000000 + 5 * 0x200000 + d.toNat * 0x4000 + a.toNat * 0x80 + b.toNat := ⟨_, rfl⟩
    have hw : w0 = ((((29 * 4 + 2) * 8 + 5) * 128 + d.toNat) * 128 + a.toNat) * 128 + b.toNat := ew.trans (by clear ew; omega)
    obtain ⟨w1, ev⟩ : ∃ w1, w1 = sc.toNat * 0x1000 + sf.toNat * 0x100 := ⟨_, rfl⟩
    have hv : w1 = ((0 * 4 + sc.toNat) * 16 + sf.toNat) * 256 := ev.trans (by clear ew ev; omega)
    have f0 : wordField w0 31 26 = 29 := by rw [hw]; exact (above 128 7 _ (b.toNat) 31 26 rfl b.isLt).trans ((above 128 7 _ (a.toNat) 24 19 rfl a.isLt).trans ((above 128 7 _ (d.toNat) 17 12 rfl d.isLt).trans ((above 8 3 _ (5) 10 5 rfl (by decide)).trans ((above 4 2 _ (2) 7 2 rfl (by decide)).trans (whole 64 (29) 5 rfl (by decide))))))
    have f1 : wordField w0 25 21 = 21 := by unfold wordField; omega
    have f2 : wordField w0 23 21 = 5 := by rw [hw]; exact (above 128 7 _ (b.toNat) 23 21 rfl b.isLt).trans ((above 128 7 _ (a.toNat) 16 14 rfl a.isLt).trans ((above 128 7 _ (d.toNat) 9 7 rfl d.isLt).trans (lowest 8 _ (5) 2 rfl (by decide))))
    have f3 : wordField w0 20 14 = d.toNat := by rw [hw]; exact (above 128 7 _ (b.toNat) 20 14 rfl b.isLt).trans ((above 128 7 _ (a.toNat) 13 7 rfl a.isLt).trans (lowest 128 _ (d.toNat) 6 rfl d.isLt))
    have f4 : wordField w0 13 7 = a.toNat := by rw [hw]; exact (above 128 7 _ (b.toNat) 13 7 rfl b.isLt).trans (lowest 128 _ (a.toNat) 6 rfl a.isLt)
    have f5 : wordField w0 6 0 = b.toNat := by rw [hw]; exact lowest 128 _ (b.toNat) 6 rfl b.isLt
    have f6 : wordField w1 31 14 = 0 := by rw [hv]; exact (above_zeros 256 8 _ 31 14 rfl).trans ((above 16 4 _ (sf.toNat) 23 6 rfl sf.isLt).trans ((above 4 2 _ (sc.toNat) 19 2 rfl sc.isLt).trans (whole 262144 (0) 17 rfl (by decide))))
    have f7 : wordField w1 13 12 = sc.toNat := by rw [hv]; exact (above_zeros 256 8 _ 13 12 rfl).trans ((above 16 4 _ (sf.toNat) 5 4 rfl sf.isLt).trans (lowest 4 _ (sc.toNat) 1 rfl sc.isLt))
    have f8 : wordField w1 11 8 = sf.toNat := by rw [hv]; exact (above_zeros 256 8 _ 11 8 rfl).trans (lowest 16 _ (sf.toNat) 3 rfl sf.isLt)
    have f9 : wordField w1 7 0 = 0 := by rw [hv]; exact lowest_zeros 256 _ 7 rfl
    have he : encode (.cvtUnpk8 5#3 d a b sc sf) = [w0, w1] := by subst ew ev; exact rfl
    rw [he]
    refine (major1D f0).trans ?_
    show decodeMajor1D w0 w1 = _
    simp only [decodeMajor1D, f1, f2, f3, f4, f5, f6, f7, f8, f9, BitVec.ofNat_toNat, BitVec.setWidth_eq]
    exact decodedIf_good _ _ hwf
  · have b0 := d.isLt
    have b1 := a.isLt
    have b2 := b.isLt
    have b3 := sc.isLt
    have b4 := sf.isLt
    obtain ⟨w0, ew⟩ : ∃ w0, w0 = 0x76000000 + 6 * 0x200000 + d.toNat * 0x4000 + a.toNat * 0x80 + b.toNat := ⟨_, rfl⟩
    have hw : w0 = ((((29 * 4 + 2) * 8 + 6) * 128 + d.toNat) * 128 + a.toNat) * 128 + b.toNat := ew.trans (by clear ew; omega)
    obtain ⟨w1, ev⟩ : ∃ w1, w1 = sc.toNat * 0x1000 + sf.toNat * 0x100 := ⟨_, rfl⟩
    have hv : w1 = ((0 * 4 + sc.toNat) * 16 + sf.toNat) * 256 := ev.trans (by clear ew ev; omega)
    have f0 : wordField w0 31 26 = 29 := by rw [hw]; exact (above 128 7 _ (b.toNat) 31 26 rfl b.isLt).trans ((above 128 7 _ (a.toNat) 24 19 rfl a.isLt).trans ((above 128 7 _ (d.toNat) 17 12 rfl d.isLt).trans ((above 8 3 _ (6) 10 5 rfl (by decide)).trans ((above 4 2 _ (2) 7 2 rfl (by decide)).trans (whole 64 (29) 5 rfl (by decide))))))
    have f1 : wordField w0 25 21 = 22 := by unfold wordField; omega
    have f2 : wordField w0 23 21 = 6 := by rw [hw]; exact (above 128 7 _ (b.toNat) 23 21 rfl b.isLt).trans ((above 128 7 _ (a.toNat) 16 14 rfl a.isLt).trans ((above 128 7 _ (d.toNat) 9 7 rfl d.isLt).trans (lowest 8 _ (6) 2 rfl (by decide))))
    have f3 : wordField w0 20 14 = d.toNat := by rw [hw]; exact (above 128 7 _ (b.toNat) 20 14 rfl b.isLt).trans ((above 128 7 _ (a.toNat) 13 7 rfl a.isLt).trans (lowest 128 _ (d.toNat) 6 rfl d.isLt))
    have f4 : wordField w0 13 7 = a.toNat := by rw [hw]; exact (above 128 7 _ (b.toNat) 13 7 rfl b.isLt).trans (lowest 128 _ (a.toNat) 6 rfl a.isLt)
    have f5 : wordField w0 6 0 = b.toNat := by rw [hw]; exact lowest 128 _ (b.toNat) 6 rfl b.isLt
    have f6 : wordField w1 31 14 = 0 := by rw [hv]; exact (above_zeros 256 8 _ 31 14 rfl).trans ((above 16 4 _ (sf.toNat) 23 6 rfl sf.isLt).trans ((above 4 2 _ (sc.toNat) 19 2 rfl sc.isLt).trans (whole 262144 (0) 17 rfl (by decide))))
    have f7 : wordField w1 13 12 = sc.toNat := by rw [hv]; exact (above_zeros 256 8 _ 13 12 rfl).trans ((above 16 4 _ (sf.toNat) 5 4 rfl sf.isLt).trans (lowest 4 _ (sc.toNat) 1 rfl sc.isLt))
    have f8 : wordField w1 11 8 = sf.toNat := by rw [hv]; exact (above_zeros 256 8 _ 11 8 rfl).trans (lowest 16 _ (sf.toNat) 3 rfl sf.isLt)
    have f9 : wordField w1 7 0 = 0 := by rw [hv]; exact lowest_zeros 256 _ 7 rfl
    have he : encode (.cvtUnpk8 6#3 d a b sc sf) = [w0, w1] := by subst ew ev; exact rfl
    rw [he]
    refine (major1D f0).trans ?_
    show decodeMajor1D w0 w1 = _
    simp only [decodeMajor1D, f1, f2, f3, f4, f5, f6, f7, f8, f9, BitVec.ofNat_toNat, BitVec.setWidth_eq]
    exact decodedIf_good _ _ hwf
  · have b0 := d.isLt
    have b1 := a.isLt
    have b2 := b.isLt
    have b3 := sc.isLt
    have b4 := sf.isLt
    obtain ⟨w0, ew⟩ : ∃ w0, w0 = 0x76000000 + 7 * 0x200000 + d.toNat * 0x4000 + a.toNat * 0x80 + b.toNat := ⟨_, rfl⟩
    have hw : w0 = ((((29 * 4 + 2) * 8 + 7) * 128 + d.toNat) * 128 + a.toNat) * 128 + b.toNat := ew.trans (by clear ew; omega)
    obtain ⟨w1, ev⟩ : ∃ w1, w1 = sc.toNat * 0x1000 + sf.toNat * 0x100 := ⟨_, rfl⟩
    have hv : w1 = ((0 * 4 + sc.toNat) * 16 + sf.toNat) * 256 := ev.trans (by clear ew ev; omega)
    have f0 : wordField w0 31 26 = 29 := by rw [hw]; exact (above 128 7 _ (b.toNat) 31 26 rfl b.isLt).trans ((above 128 7 _ (a.toNat) 24 19 rfl a.isLt).trans ((above 128 7 _ (d.toNat) 17 12 rfl d.isLt).trans ((above 8 3 _ (7) 10 5 rfl (by decide)).trans ((above 4 2 _ (2) 7 2 rfl (by decide)).trans (whole 64 (29) 5 rfl (by decide))))))
    have f1 : wordField w0 25 21 = 23 := by unfold wordField; omega
    have f2 : wordField w0 23 21 = 7 := by rw [hw]; exact (above 128 7 _ (b.toNat) 23 21 rfl b.isLt).trans ((above 128 7 _ (a.toNat) 16 14 rfl a.isLt).trans ((above 128 7 _ (d.toNat) 9 7 rfl d.isLt).trans (lowest 8 _ (7) 2 rfl (by decide))))
    have f3 : wordField w0 20 14 = d.toNat := by rw [hw]; exact (above 128 7 _ (b.toNat) 20 14 rfl b.isLt).trans ((above 128 7 _ (a.toNat) 13 7 rfl a.isLt).trans (lowest 128 _ (d.toNat) 6 rfl d.isLt))
    have f4 : wordField w0 13 7 = a.toNat := by rw [hw]; exact (above 128 7 _ (b.toNat) 13 7 rfl b.isLt).trans (lowest 128 _ (a.toNat) 6 rfl a.isLt)
    have f5 : wordField w0 6 0 = b.toNat := by rw [hw]; exact lowest 128 _ (b.toNat) 6 rfl b.isLt
    have f6 : wordField w1 31 14 = 0 := by rw [hv]; exact (above_zeros 256 8 _ 31 14 rfl).trans ((above 16 4 _ (sf.toNat) 23 6 rfl sf.isLt).trans ((above 4 2 _ (sc.toNat) 19 2 rfl sc.isLt).trans (whole 262144 (0) 17 rfl (by decide))))
    have f7 : wordField w1 13 12 = sc.toNat := by rw [hv]; exact (above_zeros 256 8 _ 13 12 rfl).trans ((above 16 4 _ (sf.toNat) 5 4 rfl sf.isLt).trans (lowest 4 _ (sc.toNat) 1 rfl sc.isLt))
    have f8 : wordField w1 11 8 = sf.toNat := by rw [hv]; exact (above_zeros 256 8 _ 11 8 rfl).trans (lowest 16 _ (sf.toNat) 3 rfl sf.isLt)
    have f9 : wordField w1 7 0 = 0 := by rw [hv]; exact lowest_zeros 256 _ 7 rfl
    have he : encode (.cvtUnpk8 7#3 d a b sc sf) = [w0, w1] := by subst ew ev; exact rfl
    rw [he]
    refine (major1D f0).trans ?_
    show decodeMajor1D w0 w1 = _
    simp only [decodeMajor1D, f1, f2, f3, f4, f5, f6, f7, f8, f9, BitVec.ofNat_toNat, BitVec.setWidth_eq]
    exact decodedIf_good _ _ hwf

theorem quantBlk (d : BitVec 7) (a : BitVec 7) (b : BitVec 7) (blk : BitVec 1) (sm : BitVec 1) (rm : BitVec 2) (tf : BitVec 4) : Statement (.quantBlk d a b blk sm rm tf) := by
  intro hcode hwf x
  clear hcode
  have b0 := d.isLt
  have b1 := a.isLt
  have b2 := b.isLt
  have b3 := blk.isLt
  have b4 := sm.isLt
  have b5 := rm.isLt
  have b6 := tf.isLt
  obtain ⟨w0, ew⟩ : ∃ w0, w0 = 0x77000000 + d.toNat * 0x4000 + a.toNat * 0x80 + b.toNat := ⟨_, rfl⟩
  have hw : w0 = (((29 * 32 + 24) * 128 + d.toNat) * 128 + a.toNat) * 128 + b.toNat := ew.trans (by clear ew; omega)
  obtain ⟨w1, ev⟩ : ∃ w1, w1 = blk.toNat * 0x8000 + sm.toNat * 0x4000 + rm.toNat * 0x1000 + tf.toNat * 0x100 := ⟨_, rfl⟩
  have hv : w1 = ((((0 * 2 + blk.toNat) * 2 + sm.toNat) * 4 + rm.toNat) * 16 + tf.toNat) * 256 := ev.trans (by clear ew ev; omega)
  have f0 : wordField w0 31 26 = 29 := by rw [hw]; exact (above 128 7 _ (b.toNat) 31 26 rfl b.isLt).trans ((above 128 7 _ (a.toNat) 24 19 rfl a.isLt).trans ((above 128 7 _ (d.toNat) 17 12 rfl d.isLt).trans ((above 32 5 _ (24) 10 5 rfl (by decide)).trans (whole 64 (29) 5 rfl (by decide)))))
  have f1 : wordField w0 25 21 = 24 := by rw [hw]; exact (above 128 7 _ (b.toNat) 25 21 rfl b.isLt).trans ((above 128 7 _ (a.toNat) 18 14 rfl a.isLt).trans ((above 128 7 _ (d.toNat) 11 7 rfl d.isLt).trans (lowest 32 _ (24) 4 rfl (by decide))))
  have f2 : wordField w0 20 14 = d.toNat := by rw [hw]; exact (above 128 7 _ (b.toNat) 20 14 rfl b.isLt).trans ((above 128 7 _ (a.toNat) 13 7 rfl a.isLt).trans (lowest 128 _ (d.toNat) 6 rfl d.isLt))
  have f3 : wordField w0 13 7 = a.toNat := by rw [hw]; exact (above 128 7 _ (b.toNat) 13 7 rfl b.isLt).trans (lowest 128 _ (a.toNat) 6 rfl a.isLt)
  have f4 : wordField w0 6 0 = b.toNat := by rw [hw]; exact lowest 128 _ (b.toNat) 6 rfl b.isLt
  have f5 : wordField w1 31 16 = 0 := by rw [hv]; exact (above_zeros 256 8 _ 31 16 rfl).trans ((above 16 4 _ (tf.toNat) 23 8 rfl tf.isLt).trans ((above 4 2 _ (rm.toNat) 19 4 rfl rm.isLt).trans ((above 2 1 _ (sm.toNat) 17 2 rfl sm.isLt).trans ((above 2 1 _ (blk.toNat) 16 1 rfl blk.isLt).trans (whole 65536 (0) 15 rfl (by decide))))))
  have f6 : wordField w1 15 15 = blk.toNat := by rw [hv]; exact (above_zeros 256 8 _ 15 15 rfl).trans ((above 16 4 _ (tf.toNat) 7 7 rfl tf.isLt).trans ((above 4 2 _ (rm.toNat) 3 3 rfl rm.isLt).trans ((above 2 1 _ (sm.toNat) 1 1 rfl sm.isLt).trans (lowest 2 _ (blk.toNat) 0 rfl blk.isLt))))
  have f7 : wordField w1 14 14 = sm.toNat := by rw [hv]; exact (above_zeros 256 8 _ 14 14 rfl).trans ((above 16 4 _ (tf.toNat) 6 6 rfl tf.isLt).trans ((above 4 2 _ (rm.toNat) 2 2 rfl rm.isLt).trans (lowest 2 _ (sm.toNat) 0 rfl sm.isLt)))
  have f8 : wordField w1 13 12 = rm.toNat := by rw [hv]; exact (above_zeros 256 8 _ 13 12 rfl).trans ((above 16 4 _ (tf.toNat) 5 4 rfl tf.isLt).trans (lowest 4 _ (rm.toNat) 1 rfl rm.isLt))
  have f9 : wordField w1 11 8 = tf.toNat := by rw [hv]; exact (above_zeros 256 8 _ 11 8 rfl).trans (lowest 16 _ (tf.toNat) 3 rfl tf.isLt)
  have f10 : wordField w1 7 0 = 0 := by rw [hv]; exact lowest_zeros 256 _ 7 rfl
  have he : encode (.quantBlk d a b blk sm rm tf) = [w0, w1] := by subst ew ev; exact rfl
  rw [he]
  refine (major1D f0).trans ?_
  show decodeMajor1D w0 w1 = _
  simp only [decodeMajor1D, f1, f2, f3, f4, f5, f6, f7, f8, f9, f10, BitVec.ofNat_toNat, BitVec.setWidth_eq]
  exact decodedIf_good _ _ hwf

theorem cbkDec (d : BitVec 7) (a : BitVec 7) (b : BitVec 7) (bf : BitVec 1) (p : BitVec 2) : Statement (.cbkDec d a b bf p) := by
  intro hcode hwf x
  clear hcode
  have b0 := d.isLt
  have b1 := a.isLt
  have b2 := b.isLt
  have b3 := bf.isLt
  have b4 := p.isLt
  obtain ⟨w0, ew⟩ : ∃ w0, w0 = 0x77200000 + d.toNat * 0x4000 + a.toNat * 0x80 + b.toNat := ⟨_, rfl⟩
  have hw : w0 = (((29 * 32 + 25) * 128 + d.toNat) * 128 + a.toNat) * 128 + b.toNat := ew.trans (by clear ew; omega)
  obtain ⟨w1, ev⟩ : ∃ w1, w1 = bf.toNat * 0x400 + p.toNat * 0x100 := ⟨_, rfl⟩
  have hv : w1 = ((0 * 2 + bf.toNat) * 4 + p.toNat) * 256 := ev.trans (by clear ew ev; omega)
  have f0 : wordField w0 31 26 = 29 := by rw [hw]; exact (above 128 7 _ (b.toNat) 31 26 rfl b.isLt).trans ((above 128 7 _ (a.toNat) 24 19 rfl a.isLt).trans ((above 128 7 _ (d.toNat) 17 12 rfl d.isLt).trans ((above 32 5 _ (25) 10 5 rfl (by decide)).trans (whole 64 (29) 5 rfl (by decide)))))
  have f1 : wordField w0 25 21 = 25 := by rw [hw]; exact (above 128 7 _ (b.toNat) 25 21 rfl b.isLt).trans ((above 128 7 _ (a.toNat) 18 14 rfl a.isLt).trans ((above 128 7 _ (d.toNat) 11 7 rfl d.isLt).trans (lowest 32 _ (25) 4 rfl (by decide))))
  have f2 : wordField w0 20 14 = d.toNat := by rw [hw]; exact (above 128 7 _ (b.toNat) 20 14 rfl b.isLt).trans ((above 128 7 _ (a.toNat) 13 7 rfl a.isLt).trans (lowest 128 _ (d.toNat) 6 rfl d.isLt))
  have f3 : wordField w0 13 7 = a.toNat := by rw [hw]; exact (above 128 7 _ (b.toNat) 13 7 rfl b.isLt).trans (lowest 128 _ (a.toNat) 6 rfl a.isLt)
  have f4 : wordField w0 6 0 = b.toNat := by rw [hw]; exact lowest 128 _ (b.toNat) 6 rfl b.isLt
  have f5 : wordField w1 31 11 = 0 := by rw [hv]; exact (above_zeros 256 8 _ 31 11 rfl).trans ((above 4 2 _ (p.toNat) 23 3 rfl p.isLt).trans ((above 2 1 _ (bf.toNat) 21 1 rfl bf.isLt).trans (whole 2097152 (0) 20 rfl (by decide))))
  have f6 : wordField w1 10 10 = bf.toNat := by rw [hv]; exact (above_zeros 256 8 _ 10 10 rfl).trans ((above 4 2 _ (p.toNat) 2 2 rfl p.isLt).trans (lowest 2 _ (bf.toNat) 0 rfl bf.isLt))
  have f7 : wordField w1 9 8 = p.toNat := by rw [hv]; exact (above_zeros 256 8 _ 9 8 rfl).trans (lowest 4 _ (p.toNat) 1 rfl p.isLt)
  have f8 : wordField w1 7 0 = 0 := by rw [hv]; exact lowest_zeros 256 _ 7 rfl
  have he : encode (.cbkDec d a b bf p) = [w0, w1] := by subst ew ev; exact rfl
  rw [he]
  refine (major1D f0).trans ?_
  show decodeMajor1D w0 w1 = _
  simp only [decodeMajor1D, f1, f2, f3, f4, f5, f6, f7, f8, BitVec.ofNat_toNat, BitVec.setWidth_eq]
  exact decodedIf_good _ _ hwf

theorem mov (d : BitVec 7) (a : BitVec 7) (lit : BitVec 32) : Statement (.mov d a lit) := by
  intro hcode hwf x
  clear hcode
  have hl : litOk [a] lit = true := by
    simp only [Instr.wellFormed, Bool.and_eq_true] at hwf
    exact hwf
  have b0 := d.isLt
  have b1 := a.isLt
  obtain ⟨w0, ew⟩ : ∃ w0, w0 = 0x78000000 + d.toNat * 0x4000 + a.toNat * 0x80 := ⟨_, rfl⟩
  have hw : w0 = (((30 * 32) * 128 + d.toNat) * 128 + a.toNat) * 128 := ew.trans (by clear ew; omega)
  have f0 : wordField w0 31 26 = 30 := by rw [hw]; exact (above_zeros 128 7 _ 31 26 rfl).trans ((above 128 7 _ (a.toNat) 24 19 rfl a.isLt).trans ((above 128 7 _ (d.toNat) 17 12 rfl d.isLt).trans ((above_zeros 32 5 _ 10 5 rfl).trans (whole 64 (30) 5 rfl (by decide)))))
  have f1 : wordField w0 25 21 = 0 := by rw [hw]; exact (above_zeros 128 7 _ 25 21 rfl).trans ((above 128 7 _ (a.toNat) 18 14 rfl a.isLt).trans ((above 128 7 _ (d.toNat) 11 7 rfl d.isLt).trans (lowest_zeros 32 _ 4 rfl)))
  have f2 : wordField w0 20 14 = d.toNat := by rw [hw]; exact (above_zeros 128 7 _ 20 14 rfl).trans ((above 128 7 _ (a.toNat) 13 7 rfl a.isLt).trans (lowest 128 _ (d.toNat) 6 rfl d.isLt))
  have f3 : wordField w0 13 7 = a.toNat := by rw [hw]; exact (above_zeros 128 7 _ 13 7 rfl).trans (lowest 128 _ (a.toNat) 6 rfl a.isLt)
  have f4 : wordField w0 6 0 = 0 := by rw [hw]; exact lowest_zeros 128 _ 6 rfl
  rw [show encode (.mov d a lit) = withLit w0 [a] lit from ew ▸ rfl, withLit_first]
  rw [major1E f0]
  simp only [decodeMajor1E, f1, f2, f3, f4, BitVec.ofNat_toNat, BitVec.setWidth_eq]
  rw [show [a.toNat] = [a].map BitVec.toNat from rfl, litWord_withLit _ _ _ _ hl, litWords_withLit w0 _ lit]
  exact decodedIf_good _ _ hwf

theorem sel (d : BitVec 7) (a : BitVec 7) (b : BitVec 7) (kn : BitVec 3) : Statement (.sel d a b kn) := by
  intro hcode hwf x
  clear hcode
  have b0 := d.isLt
  have b1 := a.isLt
  have b2 := b.isLt
  have b3 := kn.isLt
  obtain ⟨w0, ew⟩ : ∃ w0, w0 = 0x78200000 + d.toNat * 0x4000 + a.toNat * 0x80 + b.toNat := ⟨_, rfl⟩
  have hw : w0 = (((30 * 32 + 1) * 128 + d.toNat) * 128 + a.toNat) * 128 + b.toNat := ew.trans (by clear ew; omega)
  obtain ⟨w1, ev⟩ : ∃ w1, w1 = kn.toNat * 0x100 := ⟨_, rfl⟩
  have hv : w1 = (0 * 8 + kn.toNat) * 256 := ev.trans (by clear ew ev; omega)
  have f0 : wordField w0 31 26 = 30 := by rw [hw]; exact (above 128 7 _ (b.toNat) 31 26 rfl b.isLt).trans ((above 128 7 _ (a.toNat) 24 19 rfl a.isLt).trans ((above 128 7 _ (d.toNat) 17 12 rfl d.isLt).trans ((above 32 5 _ (1) 10 5 rfl (by decide)).trans (whole 64 (30) 5 rfl (by decide)))))
  have f1 : wordField w0 25 21 = 1 := by rw [hw]; exact (above 128 7 _ (b.toNat) 25 21 rfl b.isLt).trans ((above 128 7 _ (a.toNat) 18 14 rfl a.isLt).trans ((above 128 7 _ (d.toNat) 11 7 rfl d.isLt).trans (lowest 32 _ (1) 4 rfl (by decide))))
  have f2 : wordField w0 20 14 = d.toNat := by rw [hw]; exact (above 128 7 _ (b.toNat) 20 14 rfl b.isLt).trans ((above 128 7 _ (a.toNat) 13 7 rfl a.isLt).trans (lowest 128 _ (d.toNat) 6 rfl d.isLt))
  have f3 : wordField w0 13 7 = a.toNat := by rw [hw]; exact (above 128 7 _ (b.toNat) 13 7 rfl b.isLt).trans (lowest 128 _ (a.toNat) 6 rfl a.isLt)
  have f4 : wordField w0 6 0 = b.toNat := by rw [hw]; exact lowest 128 _ (b.toNat) 6 rfl b.isLt
  have f5 : wordField w1 31 11 = 0 := by rw [hv]; exact (above_zeros 256 8 _ 31 11 rfl).trans ((above 8 3 _ (kn.toNat) 23 3 rfl kn.isLt).trans (whole 2097152 (0) 20 rfl (by decide)))
  have f6 : wordField w1 10 8 = kn.toNat := by rw [hv]; exact (above_zeros 256 8 _ 10 8 rfl).trans (lowest 8 _ (kn.toNat) 2 rfl kn.isLt)
  have f7 : wordField w1 7 0 = 0 := by rw [hv]; exact lowest_zeros 256 _ 7 rfl
  have he : encode (.sel d a b kn) = [w0, w1] := by subst ew ev; exact rfl
  rw [he]
  refine (major1E f0).trans ?_
  show decodeMajor1E w0 w1 = _
  simp only [decodeMajor1E, f1, f2, f3, f4, f5, f6, f7, BitVec.ofNat_toNat, BitVec.setWidth_eq]
  exact decodedIf_good _ _ hwf

theorem bcast (d : BitVec 7) (a : BitVec 7) (l : BitVec 5) : Statement (.bcast d a l) := by
  intro hcode hwf x
  clear hcode
  have b0 := d.isLt
  have b1 := a.isLt
  have b2 := l.isLt
  obtain ⟨w0, ew⟩ : ∃ w0, w0 = 0x78400000 + d.toNat * 0x4000 + a.toNat * 0x80 + l.toNat := ⟨_, rfl⟩
  have hw : w0 = ((((30 * 32 + 2) * 128 + d.toNat) * 128 + a.toNat) * 4) * 32 + l.toNat := ew.trans (by clear ew; omega)
  have f0 : wordField w0 31 26 = 30 := by rw [hw]; exact (above 32 5 _ (l.toNat) 31 26 rfl l.isLt).trans ((above_zeros 4 2 _ 26 21 rfl).trans ((above 128 7 _ (a.toNat) 24 19 rfl a.isLt).trans ((above 128 7 _ (d.toNat) 17 12 rfl d.isLt).trans ((above 32 5 _ (2) 10 5 rfl (by decide)).trans (whole 64 (30) 5 rfl (by decide))))))
  have f1 : wordField w0 25 21 = 2 := by rw [hw]; exact (above 32 5 _ (l.toNat) 25 21 rfl l.isLt).trans ((above_zeros 4 2 _ 20 16 rfl).trans ((above 128 7 _ (a.toNat) 18 14 rfl a.isLt).trans ((above 128 7 _ (d.toNat) 11 7 rfl d.isLt).trans (lowest 32 _ (2) 4 rfl (by decide)))))
  have f2 : wordField w0 20 14 = d.toNat := by rw [hw]; exact (above 32 5 _ (l.toNat) 20 14 rfl l.isLt).trans ((above_zeros 4 2 _ 15 9 rfl).trans ((above 128 7 _ (a.toNat) 13 7 rfl a.isLt).trans (lowest 128 _ (d.toNat) 6 rfl d.isLt)))
  have f3 : wordField w0 13 7 = a.toNat := by rw [hw]; exact (above 32 5 _ (l.toNat) 13 7 rfl l.isLt).trans ((above_zeros 4 2 _ 8 2 rfl).trans (lowest 128 _ (a.toNat) 6 rfl a.isLt))
  have f4 : wordField w0 6 5 = 0 := by rw [hw]; exact (above 32 5 _ (l.toNat) 6 5 rfl l.isLt).trans (lowest_zeros 4 _ 1 rfl)
  have f5 : wordField w0 4 0 = l.toNat := by rw [hw]; exact lowest 32 _ (l.toNat) 4 rfl l.isLt
  have he : encode (.bcast d a l) = [w0] := by subst ew; exact rfl
  rw [he]
  refine (major1E f0).trans ?_
  show decodeMajor1E w0 x = _
  simp only [decodeMajor1E, f1, f2, f3, f4, f5, BitVec.ofNat_toNat, BitVec.setWidth_eq]
  exact decodedIf_good _ _ hwf

theorem bcastFirst (d : BitVec 7) (a : BitVec 7) : Statement (.bcastFirst d a) := by
  intro hcode hwf x
  clear hcode
  have b0 := d.isLt
  have b1 := a.isLt
  obtain ⟨w0, ew⟩ : ∃ w0, w0 = 0x78600000 + d.toNat * 0x4000 + a.toNat * 0x80 := ⟨_, rfl⟩
  have hw : w0 = (((30 * 32 + 3) * 128 + d.toNat) * 128 + a.toNat) * 128 := ew.trans (by clear ew; omega)
  have f0 : wordField w0 31 26 = 30 := by rw [hw]; exact (above_zeros 128 7 _ 31 26 rfl).trans ((above 128 7 _ (a.toNat) 24 19 rfl a.isLt).trans ((above 128 7 _ (d.toNat) 17 12 rfl d.isLt).trans ((above 32 5 _ (3) 10 5 rfl (by decide)).trans (whole 64 (30) 5 rfl (by decide)))))
  have f1 : wordField w0 25 21 = 3 := by rw [hw]; exact (above_zeros 128 7 _ 25 21 rfl).trans ((above 128 7 _ (a.toNat) 18 14 rfl a.isLt).trans ((above 128 7 _ (d.toNat) 11 7 rfl d.isLt).trans (lowest 32 _ (3) 4 rfl (by decide))))
  have f2 : wordField w0 20 14 = d.toNat := by rw [hw]; exact (above_zeros 128 7 _ 20 14 rfl).trans ((above 128 7 _ (a.toNat) 13 7 rfl a.isLt).trans (lowest 128 _ (d.toNat) 6 rfl d.isLt))
  have f3 : wordField w0 13 7 = a.toNat := by rw [hw]; exact (above_zeros 128 7 _ 13 7 rfl).trans (lowest 128 _ (a.toNat) 6 rfl a.isLt)
  have f4 : wordField w0 6 0 = 0 := by rw [hw]; exact lowest_zeros 128 _ 6 rfl
  have he : encode (.bcastFirst d a) = [w0] := by subst ew; exact rfl
  rw [he]
  refine (major1E f0).trans ?_
  show decodeMajor1E w0 x = _
  simp only [decodeMajor1E, f1, f2, f3, f4, BitVec.ofNat_toNat, BitVec.setWidth_eq]
  exact decodedIf_good _ _ hwf

theorem ballot (k : BitVec 3) (a : BitVec 7) : Statement (.ballot k a) := by
  intro hcode hwf x
  clear hcode
  have b0 := k.isLt
  have b1 := a.isLt
  obtain ⟨w0, ew⟩ : ∃ w0, w0 = 0x7C000000 + k.toNat * 0x4000 + a.toNat * 0x80 := ⟨_, rfl⟩
  have hw : w0 = ((((31 * 32) * 16) * 8 + k.toNat) * 128 + a.toNat) * 128 := ew.trans (by clear ew; omega)
  have f0 : wordField w0 31 26 = 31 := by rw [hw]; exact (above_zeros 128 7 _ 31 26 rfl).trans ((above 128 7 _ (a.toNat) 24 19 rfl a.isLt).trans ((above 8 3 _ (k.toNat) 17 12 rfl k.isLt).trans ((above_zeros 16 4 _ 14 9 rfl).trans ((above_zeros 32 5 _ 10 5 rfl).trans (whole 64 (31) 5 rfl (by decide))))))
  have f1 : wordField w0 25 21 = 0 := by rw [hw]; exact (above_zeros 128 7 _ 25 21 rfl).trans ((above 128 7 _ (a.toNat) 18 14 rfl a.isLt).trans ((above 8 3 _ (k.toNat) 11 7 rfl k.isLt).trans ((above_zeros 16 4 _ 8 4 rfl).trans (lowest_zeros 32 _ 4 rfl))))
  have f2 : wordField w0 20 17 = 0 := by rw [hw]; exact (above_zeros 128 7 _ 20 17 rfl).trans ((above 128 7 _ (a.toNat) 13 10 rfl a.isLt).trans ((above 8 3 _ (k.toNat) 6 3 rfl k.isLt).trans (lowest_zeros 16 _ 3 rfl)))
  have f3 : wordField w0 16 14 = k.toNat := by rw [hw]; exact (above_zeros 128 7 _ 16 14 rfl).trans ((above 128 7 _ (a.toNat) 9 7 rfl a.isLt).trans (lowest 8 _ (k.toNat) 2 rfl k.isLt))
  have f4 : wordField w0 13 7 = a.toNat := by rw [hw]; exact (above_zeros 128 7 _ 13 7 rfl).trans (lowest 128 _ (a.toNat) 6 rfl a.isLt)
  have f5 : wordField w0 6 0 = 0 := by rw [hw]; exact lowest_zeros 128 _ 6 rfl
  have he : encode (.ballot k a) = [w0] := by subst ew; exact rfl
  rw [he]
  refine (major1F f0).trans ?_
  show decodeMajor1F w0 x = _
  simp only [decodeMajor1F, f1, f2, f3, f4, f5, BitVec.ofNat_toNat, BitVec.setWidth_eq]
  exact decodedIf_good _ _ hwf

theorem shflIdx (d : BitVec 7) (a : BitVec 7) (b : BitVec 7) (lit : BitVec 32) : Statement (.shflIdx d a b lit) := by
  intro hcode hwf x
  clear hcode
  have hl : litOk [a, b] lit = true := by
    simp only [Instr.wellFormed, Bool.and_eq_true] at hwf
    exact hwf
  have b0 := d.isLt
  have b1 := a.isLt
  have b2 := b.isLt
  obtain ⟨w0, ew⟩ : ∃ w0, w0 = 0x7C200000 + d.toNat * 0x4000 + a.toNat * 0x80 + b.toNat := ⟨_, rfl⟩
  have hw : w0 = (((31 * 32 + 1) * 128 + d.toNat) * 128 + a.toNat) * 128 + b.toNat := ew.trans (by clear ew; omega)
  have f0 : wordField w0 31 26 = 31 := by rw [hw]; exact (above 128 7 _ (b.toNat) 31 26 rfl b.isLt).trans ((above 128 7 _ (a.toNat) 24 19 rfl a.isLt).trans ((above 128 7 _ (d.toNat) 17 12 rfl d.isLt).trans ((above 32 5 _ (1) 10 5 rfl (by decide)).trans (whole 64 (31) 5 rfl (by decide)))))
  have f1 : wordField w0 25 21 = 1 := by rw [hw]; exact (above 128 7 _ (b.toNat) 25 21 rfl b.isLt).trans ((above 128 7 _ (a.toNat) 18 14 rfl a.isLt).trans ((above 128 7 _ (d.toNat) 11 7 rfl d.isLt).trans (lowest 32 _ (1) 4 rfl (by decide))))
  have f2 : wordField w0 20 14 = d.toNat := by rw [hw]; exact (above 128 7 _ (b.toNat) 20 14 rfl b.isLt).trans ((above 128 7 _ (a.toNat) 13 7 rfl a.isLt).trans (lowest 128 _ (d.toNat) 6 rfl d.isLt))
  have f3 : wordField w0 13 7 = a.toNat := by rw [hw]; exact (above 128 7 _ (b.toNat) 13 7 rfl b.isLt).trans (lowest 128 _ (a.toNat) 6 rfl a.isLt)
  have f4 : wordField w0 6 0 = b.toNat := by rw [hw]; exact lowest 128 _ (b.toNat) 6 rfl b.isLt
  rw [show encode (.shflIdx d a b lit) = withLit w0 [a, b] lit from ew ▸ rfl, withLit_first]
  rw [major1F f0]
  simp only [decodeMajor1F, f1, f2, f3, f4, BitVec.ofNat_toNat, BitVec.setWidth_eq]
  rw [show [a.toNat, b.toNat] = [a, b].map BitVec.toNat from rfl, litWord_withLit _ _ _ _ hl, litWords_withLit w0 _ lit]
  exact decodedIf_good _ _ hwf

theorem shflUp (d : BitVec 7) (a : BitVec 7) (n : BitVec 5) : Statement (.shflUp d a n) := by
  intro hcode hwf x
  clear hcode
  have b0 := d.isLt
  have b1 := a.isLt
  have b2 := n.isLt
  obtain ⟨w0, ew⟩ : ∃ w0, w0 = 0x7C400000 + d.toNat * 0x4000 + a.toNat * 0x80 + n.toNat := ⟨_, rfl⟩
  have hw : w0 = ((((31 * 32 + 2) * 128 + d.toNat) * 128 + a.toNat) * 4) * 32 + n.toNat := ew.trans (by clear ew; omega)
  have f0 : wordField w0 31 26 = 31 := by rw [hw]; exact (above 32 5 _ (n.toNat) 31 26 rfl n.isLt).trans ((above_zeros 4 2 _ 26 21 rfl).trans ((above 128 7 _ (a.toNat) 24 19 rfl a.isLt).trans ((above 128 7 _ (d.toNat) 17 12 rfl d.isLt).trans ((above 32 5 _ (2) 10 5 rfl (by decide)).trans (whole 64 (31) 5 rfl (by decide))))))
  have f1 : wordField w0 25 21 = 2 := by rw [hw]; exact (above 32 5 _ (n.toNat) 25 21 rfl n.isLt).trans ((above_zeros 4 2 _ 20 16 rfl).trans ((above 128 7 _ (a.toNat) 18 14 rfl a.isLt).trans ((above 128 7 _ (d.toNat) 11 7 rfl d.isLt).trans (lowest 32 _ (2) 4 rfl (by decide)))))
  have f2 : wordField w0 20 14 = d.toNat := by rw [hw]; exact (above 32 5 _ (n.toNat) 20 14 rfl n.isLt).trans ((above_zeros 4 2 _ 15 9 rfl).trans ((above 128 7 _ (a.toNat) 13 7 rfl a.isLt).trans (lowest 128 _ (d.toNat) 6 rfl d.isLt)))
  have f3 : wordField w0 13 7 = a.toNat := by rw [hw]; exact (above 32 5 _ (n.toNat) 13 7 rfl n.isLt).trans ((above_zeros 4 2 _ 8 2 rfl).trans (lowest 128 _ (a.toNat) 6 rfl a.isLt))
  have f4 : wordField w0 6 5 = 0 := by rw [hw]; exact (above 32 5 _ (n.toNat) 6 5 rfl n.isLt).trans (lowest_zeros 4 _ 1 rfl)
  have f5 : wordField w0 4 0 = n.toNat := by rw [hw]; exact lowest 32 _ (n.toNat) 4 rfl n.isLt
  have he : encode (.shflUp d a n) = [w0] := by subst ew; exact rfl
  rw [he]
  refine (major1F f0).trans ?_
  show decodeMajor1F w0 x = _
  simp only [decodeMajor1F, f1, f2, f3, f4, f5, BitVec.ofNat_toNat, BitVec.setWidth_eq]
  exact decodedIf_good _ _ hwf

theorem shflDn (d : BitVec 7) (a : BitVec 7) (n : BitVec 5) : Statement (.shflDn d a n) := by
  intro hcode hwf x
  clear hcode
  have b0 := d.isLt
  have b1 := a.isLt
  have b2 := n.isLt
  obtain ⟨w0, ew⟩ : ∃ w0, w0 = 0x7C600000 + d.toNat * 0x4000 + a.toNat * 0x80 + n.toNat := ⟨_, rfl⟩
  have hw : w0 = ((((31 * 32 + 3) * 128 + d.toNat) * 128 + a.toNat) * 4) * 32 + n.toNat := ew.trans (by clear ew; omega)
  have f0 : wordField w0 31 26 = 31 := by rw [hw]; exact (above 32 5 _ (n.toNat) 31 26 rfl n.isLt).trans ((above_zeros 4 2 _ 26 21 rfl).trans ((above 128 7 _ (a.toNat) 24 19 rfl a.isLt).trans ((above 128 7 _ (d.toNat) 17 12 rfl d.isLt).trans ((above 32 5 _ (3) 10 5 rfl (by decide)).trans (whole 64 (31) 5 rfl (by decide))))))
  have f1 : wordField w0 25 21 = 3 := by rw [hw]; exact (above 32 5 _ (n.toNat) 25 21 rfl n.isLt).trans ((above_zeros 4 2 _ 20 16 rfl).trans ((above 128 7 _ (a.toNat) 18 14 rfl a.isLt).trans ((above 128 7 _ (d.toNat) 11 7 rfl d.isLt).trans (lowest 32 _ (3) 4 rfl (by decide)))))
  have f2 : wordField w0 20 14 = d.toNat := by rw [hw]; exact (above 32 5 _ (n.toNat) 20 14 rfl n.isLt).trans ((above_zeros 4 2 _ 15 9 rfl).trans ((above 128 7 _ (a.toNat) 13 7 rfl a.isLt).trans (lowest 128 _ (d.toNat) 6 rfl d.isLt)))
  have f3 : wordField w0 13 7 = a.toNat := by rw [hw]; exact (above 32 5 _ (n.toNat) 13 7 rfl n.isLt).trans ((above_zeros 4 2 _ 8 2 rfl).trans (lowest 128 _ (a.toNat) 6 rfl a.isLt))
  have f4 : wordField w0 6 5 = 0 := by rw [hw]; exact (above 32 5 _ (n.toNat) 6 5 rfl n.isLt).trans (lowest_zeros 4 _ 1 rfl)
  have f5 : wordField w0 4 0 = n.toNat := by rw [hw]; exact lowest 32 _ (n.toNat) 4 rfl n.isLt
  have he : encode (.shflDn d a n) = [w0] := by subst ew; exact rfl
  rw [he]
  refine (major1F f0).trans ?_
  show decodeMajor1F w0 x = _
  simp only [decodeMajor1F, f1, f2, f3, f4, f5, BitVec.ofNat_toNat, BitVec.setWidth_eq]
  exact decodedIf_good _ _ hwf

theorem shflXor (d : BitVec 7) (a : BitVec 7) (n : BitVec 5) : Statement (.shflXor d a n) := by
  intro hcode hwf x
  clear hcode
  have b0 := d.isLt
  have b1 := a.isLt
  have b2 := n.isLt
  obtain ⟨w0, ew⟩ : ∃ w0, w0 = 0x7C800000 + d.toNat * 0x4000 + a.toNat * 0x80 + n.toNat := ⟨_, rfl⟩
  have hw : w0 = ((((31 * 32 + 4) * 128 + d.toNat) * 128 + a.toNat) * 4) * 32 + n.toNat := ew.trans (by clear ew; omega)
  have f0 : wordField w0 31 26 = 31 := by rw [hw]; exact (above 32 5 _ (n.toNat) 31 26 rfl n.isLt).trans ((above_zeros 4 2 _ 26 21 rfl).trans ((above 128 7 _ (a.toNat) 24 19 rfl a.isLt).trans ((above 128 7 _ (d.toNat) 17 12 rfl d.isLt).trans ((above 32 5 _ (4) 10 5 rfl (by decide)).trans (whole 64 (31) 5 rfl (by decide))))))
  have f1 : wordField w0 25 21 = 4 := by rw [hw]; exact (above 32 5 _ (n.toNat) 25 21 rfl n.isLt).trans ((above_zeros 4 2 _ 20 16 rfl).trans ((above 128 7 _ (a.toNat) 18 14 rfl a.isLt).trans ((above 128 7 _ (d.toNat) 11 7 rfl d.isLt).trans (lowest 32 _ (4) 4 rfl (by decide)))))
  have f2 : wordField w0 20 14 = d.toNat := by rw [hw]; exact (above 32 5 _ (n.toNat) 20 14 rfl n.isLt).trans ((above_zeros 4 2 _ 15 9 rfl).trans ((above 128 7 _ (a.toNat) 13 7 rfl a.isLt).trans (lowest 128 _ (d.toNat) 6 rfl d.isLt)))
  have f3 : wordField w0 13 7 = a.toNat := by rw [hw]; exact (above 32 5 _ (n.toNat) 13 7 rfl n.isLt).trans ((above_zeros 4 2 _ 8 2 rfl).trans (lowest 128 _ (a.toNat) 6 rfl a.isLt))
  have f4 : wordField w0 6 5 = 0 := by rw [hw]; exact (above 32 5 _ (n.toNat) 6 5 rfl n.isLt).trans (lowest_zeros 4 _ 1 rfl)
  have f5 : wordField w0 4 0 = n.toNat := by rw [hw]; exact lowest 32 _ (n.toNat) 4 rfl n.isLt
  have he : encode (.shflXor d a n) = [w0] := by subst ew; exact rfl
  rw [he]
  refine (major1F f0).trans ?_
  show decodeMajor1F w0 x = _
  simp only [decodeMajor1F, f1, f2, f3, f4, f5, BitVec.ofNat_toNat, BitVec.setWidth_eq]
  exact decodedIf_good _ _ hwf

theorem redAdd (d : BitVec 7) (a : BitVec 7) (lit : BitVec 32) : Statement (.redAdd d a lit) := by
  intro hcode hwf x
  clear hcode
  have hl : litOk [a] lit = true := by
    simp only [Instr.wellFormed, Bool.and_eq_true] at hwf
    exact hwf
  have b0 := d.isLt
  have b1 := a.isLt
  obtain ⟨w0, ew⟩ : ∃ w0, w0 = 0x7CA00000 + d.toNat * 0x4000 + a.toNat * 0x80 := ⟨_, rfl⟩
  have hw : w0 = (((31 * 32 + 5) * 128 + d.toNat) * 128 + a.toNat) * 128 := ew.trans (by clear ew; omega)
  have f0 : wordField w0 31 26 = 31 := by rw [hw]; exact (above_zeros 128 7 _ 31 26 rfl).trans ((above 128 7 _ (a.toNat) 24 19 rfl a.isLt).trans ((above 128 7 _ (d.toNat) 17 12 rfl d.isLt).trans ((above 32 5 _ (5) 10 5 rfl (by decide)).trans (whole 64 (31) 5 rfl (by decide)))))
  have f1 : wordField w0 25 21 = 5 := by rw [hw]; exact (above_zeros 128 7 _ 25 21 rfl).trans ((above 128 7 _ (a.toNat) 18 14 rfl a.isLt).trans ((above 128 7 _ (d.toNat) 11 7 rfl d.isLt).trans (lowest 32 _ (5) 4 rfl (by decide))))
  have f2 : wordField w0 20 14 = d.toNat := by rw [hw]; exact (above_zeros 128 7 _ 20 14 rfl).trans ((above 128 7 _ (a.toNat) 13 7 rfl a.isLt).trans (lowest 128 _ (d.toNat) 6 rfl d.isLt))
  have f3 : wordField w0 13 7 = a.toNat := by rw [hw]; exact (above_zeros 128 7 _ 13 7 rfl).trans (lowest 128 _ (a.toNat) 6 rfl a.isLt)
  have f4 : wordField w0 6 0 = 0 := by rw [hw]; exact lowest_zeros 128 _ 6 rfl
  rw [show encode (.redAdd d a lit) = withLit w0 [a] lit from ew ▸ rfl, withLit_first]
  rw [major1F f0]
  simp only [decodeMajor1F, f1, f2, f3, f4, BitVec.ofNat_toNat, BitVec.setWidth_eq]
  rw [show [a.toNat] = [a].map BitVec.toNat from rfl, litWord_withLit _ _ _ _ hl, litWords_withLit w0 _ lit]
  exact decodedIf_good _ _ hwf

theorem redAddF32 (d : BitVec 7) (a : BitVec 7) (lit : BitVec 32) : Statement (.redAddF32 d a lit) := by
  intro hcode hwf x
  clear hcode
  have hl : litOk [a] lit = true := by
    simp only [Instr.wellFormed, Bool.and_eq_true] at hwf
    exact hwf
  have b0 := d.isLt
  have b1 := a.isLt
  obtain ⟨w0, ew⟩ : ∃ w0, w0 = 0x7CC00000 + d.toNat * 0x4000 + a.toNat * 0x80 := ⟨_, rfl⟩
  have hw : w0 = (((31 * 32 + 6) * 128 + d.toNat) * 128 + a.toNat) * 128 := ew.trans (by clear ew; omega)
  have f0 : wordField w0 31 26 = 31 := by rw [hw]; exact (above_zeros 128 7 _ 31 26 rfl).trans ((above 128 7 _ (a.toNat) 24 19 rfl a.isLt).trans ((above 128 7 _ (d.toNat) 17 12 rfl d.isLt).trans ((above 32 5 _ (6) 10 5 rfl (by decide)).trans (whole 64 (31) 5 rfl (by decide)))))
  have f1 : wordField w0 25 21 = 6 := by rw [hw]; exact (above_zeros 128 7 _ 25 21 rfl).trans ((above 128 7 _ (a.toNat) 18 14 rfl a.isLt).trans ((above 128 7 _ (d.toNat) 11 7 rfl d.isLt).trans (lowest 32 _ (6) 4 rfl (by decide))))
  have f2 : wordField w0 20 14 = d.toNat := by rw [hw]; exact (above_zeros 128 7 _ 20 14 rfl).trans ((above 128 7 _ (a.toNat) 13 7 rfl a.isLt).trans (lowest 128 _ (d.toNat) 6 rfl d.isLt))
  have f3 : wordField w0 13 7 = a.toNat := by rw [hw]; exact (above_zeros 128 7 _ 13 7 rfl).trans (lowest 128 _ (a.toNat) 6 rfl a.isLt)
  have f4 : wordField w0 6 0 = 0 := by rw [hw]; exact lowest_zeros 128 _ 6 rfl
  rw [show encode (.redAddF32 d a lit) = withLit w0 [a] lit from ew ▸ rfl, withLit_first]
  rw [major1F f0]
  simp only [decodeMajor1F, f1, f2, f3, f4, BitVec.ofNat_toNat, BitVec.setWidth_eq]
  rw [show [a.toNat] = [a].map BitVec.toNat from rfl, litWord_withLit _ _ _ _ hl, litWords_withLit w0 _ lit]
  exact decodedIf_good _ _ hwf

theorem redMin (d : BitVec 7) (a : BitVec 7) (lit : BitVec 32) : Statement (.redMin d a lit) := by
  intro hcode hwf x
  clear hcode
  have hl : litOk [a] lit = true := by
    simp only [Instr.wellFormed, Bool.and_eq_true] at hwf
    exact hwf
  have b0 := d.isLt
  have b1 := a.isLt
  obtain ⟨w0, ew⟩ : ∃ w0, w0 = 0x7CE00000 + d.toNat * 0x4000 + a.toNat * 0x80 := ⟨_, rfl⟩
  have hw : w0 = (((31 * 32 + 7) * 128 + d.toNat) * 128 + a.toNat) * 128 := ew.trans (by clear ew; omega)
  have f0 : wordField w0 31 26 = 31 := by rw [hw]; exact (above_zeros 128 7 _ 31 26 rfl).trans ((above 128 7 _ (a.toNat) 24 19 rfl a.isLt).trans ((above 128 7 _ (d.toNat) 17 12 rfl d.isLt).trans ((above 32 5 _ (7) 10 5 rfl (by decide)).trans (whole 64 (31) 5 rfl (by decide)))))
  have f1 : wordField w0 25 21 = 7 := by rw [hw]; exact (above_zeros 128 7 _ 25 21 rfl).trans ((above 128 7 _ (a.toNat) 18 14 rfl a.isLt).trans ((above 128 7 _ (d.toNat) 11 7 rfl d.isLt).trans (lowest 32 _ (7) 4 rfl (by decide))))
  have f2 : wordField w0 20 14 = d.toNat := by rw [hw]; exact (above_zeros 128 7 _ 20 14 rfl).trans ((above 128 7 _ (a.toNat) 13 7 rfl a.isLt).trans (lowest 128 _ (d.toNat) 6 rfl d.isLt))
  have f3 : wordField w0 13 7 = a.toNat := by rw [hw]; exact (above_zeros 128 7 _ 13 7 rfl).trans (lowest 128 _ (a.toNat) 6 rfl a.isLt)
  have f4 : wordField w0 6 0 = 0 := by rw [hw]; exact lowest_zeros 128 _ 6 rfl
  rw [show encode (.redMin d a lit) = withLit w0 [a] lit from ew ▸ rfl, withLit_first]
  rw [major1F f0]
  simp only [decodeMajor1F, f1, f2, f3, f4, BitVec.ofNat_toNat, BitVec.setWidth_eq]
  rw [show [a.toNat] = [a].map BitVec.toNat from rfl, litWord_withLit _ _ _ _ hl, litWords_withLit w0 _ lit]
  exact decodedIf_good _ _ hwf

theorem redMinU (d : BitVec 7) (a : BitVec 7) (lit : BitVec 32) : Statement (.redMinU d a lit) := by
  intro hcode hwf x
  clear hcode
  have hl : litOk [a] lit = true := by
    simp only [Instr.wellFormed, Bool.and_eq_true] at hwf
    exact hwf
  have b0 := d.isLt
  have b1 := a.isLt
  obtain ⟨w0, ew⟩ : ∃ w0, w0 = 0x7D000000 + d.toNat * 0x4000 + a.toNat * 0x80 := ⟨_, rfl⟩
  have hw : w0 = (((31 * 32 + 8) * 128 + d.toNat) * 128 + a.toNat) * 128 := ew.trans (by clear ew; omega)
  have f0 : wordField w0 31 26 = 31 := by rw [hw]; exact (above_zeros 128 7 _ 31 26 rfl).trans ((above 128 7 _ (a.toNat) 24 19 rfl a.isLt).trans ((above 128 7 _ (d.toNat) 17 12 rfl d.isLt).trans ((above 32 5 _ (8) 10 5 rfl (by decide)).trans (whole 64 (31) 5 rfl (by decide)))))
  have f1 : wordField w0 25 21 = 8 := by rw [hw]; exact (above_zeros 128 7 _ 25 21 rfl).trans ((above 128 7 _ (a.toNat) 18 14 rfl a.isLt).trans ((above 128 7 _ (d.toNat) 11 7 rfl d.isLt).trans (lowest 32 _ (8) 4 rfl (by decide))))
  have f2 : wordField w0 20 14 = d.toNat := by rw [hw]; exact (above_zeros 128 7 _ 20 14 rfl).trans ((above 128 7 _ (a.toNat) 13 7 rfl a.isLt).trans (lowest 128 _ (d.toNat) 6 rfl d.isLt))
  have f3 : wordField w0 13 7 = a.toNat := by rw [hw]; exact (above_zeros 128 7 _ 13 7 rfl).trans (lowest 128 _ (a.toNat) 6 rfl a.isLt)
  have f4 : wordField w0 6 0 = 0 := by rw [hw]; exact lowest_zeros 128 _ 6 rfl
  rw [show encode (.redMinU d a lit) = withLit w0 [a] lit from ew ▸ rfl, withLit_first]
  rw [major1F f0]
  simp only [decodeMajor1F, f1, f2, f3, f4, BitVec.ofNat_toNat, BitVec.setWidth_eq]
  rw [show [a.toNat] = [a].map BitVec.toNat from rfl, litWord_withLit _ _ _ _ hl, litWords_withLit w0 _ lit]
  exact decodedIf_good _ _ hwf

theorem redMinF32 (d : BitVec 7) (a : BitVec 7) (lit : BitVec 32) : Statement (.redMinF32 d a lit) := by
  intro hcode hwf x
  clear hcode
  have hl : litOk [a] lit = true := by
    simp only [Instr.wellFormed, Bool.and_eq_true] at hwf
    exact hwf
  have b0 := d.isLt
  have b1 := a.isLt
  obtain ⟨w0, ew⟩ : ∃ w0, w0 = 0x7D200000 + d.toNat * 0x4000 + a.toNat * 0x80 := ⟨_, rfl⟩
  have hw : w0 = (((31 * 32 + 9) * 128 + d.toNat) * 128 + a.toNat) * 128 := ew.trans (by clear ew; omega)
  have f0 : wordField w0 31 26 = 31 := by rw [hw]; exact (above_zeros 128 7 _ 31 26 rfl).trans ((above 128 7 _ (a.toNat) 24 19 rfl a.isLt).trans ((above 128 7 _ (d.toNat) 17 12 rfl d.isLt).trans ((above 32 5 _ (9) 10 5 rfl (by decide)).trans (whole 64 (31) 5 rfl (by decide)))))
  have f1 : wordField w0 25 21 = 9 := by rw [hw]; exact (above_zeros 128 7 _ 25 21 rfl).trans ((above 128 7 _ (a.toNat) 18 14 rfl a.isLt).trans ((above 128 7 _ (d.toNat) 11 7 rfl d.isLt).trans (lowest 32 _ (9) 4 rfl (by decide))))
  have f2 : wordField w0 20 14 = d.toNat := by rw [hw]; exact (above_zeros 128 7 _ 20 14 rfl).trans ((above 128 7 _ (a.toNat) 13 7 rfl a.isLt).trans (lowest 128 _ (d.toNat) 6 rfl d.isLt))
  have f3 : wordField w0 13 7 = a.toNat := by rw [hw]; exact (above_zeros 128 7 _ 13 7 rfl).trans (lowest 128 _ (a.toNat) 6 rfl a.isLt)
  have f4 : wordField w0 6 0 = 0 := by rw [hw]; exact lowest_zeros 128 _ 6 rfl
  rw [show encode (.redMinF32 d a lit) = withLit w0 [a] lit from ew ▸ rfl, withLit_first]
  rw [major1F f0]
  simp only [decodeMajor1F, f1, f2, f3, f4, BitVec.ofNat_toNat, BitVec.setWidth_eq]
  rw [show [a.toNat] = [a].map BitVec.toNat from rfl, litWord_withLit _ _ _ _ hl, litWords_withLit w0 _ lit]
  exact decodedIf_good _ _ hwf

theorem redMax (d : BitVec 7) (a : BitVec 7) (lit : BitVec 32) : Statement (.redMax d a lit) := by
  intro hcode hwf x
  clear hcode
  have hl : litOk [a] lit = true := by
    simp only [Instr.wellFormed, Bool.and_eq_true] at hwf
    exact hwf
  have b0 := d.isLt
  have b1 := a.isLt
  obtain ⟨w0, ew⟩ : ∃ w0, w0 = 0x7D400000 + d.toNat * 0x4000 + a.toNat * 0x80 := ⟨_, rfl⟩
  have hw : w0 = (((31 * 32 + 10) * 128 + d.toNat) * 128 + a.toNat) * 128 := ew.trans (by clear ew; omega)
  have f0 : wordField w0 31 26 = 31 := by rw [hw]; exact (above_zeros 128 7 _ 31 26 rfl).trans ((above 128 7 _ (a.toNat) 24 19 rfl a.isLt).trans ((above 128 7 _ (d.toNat) 17 12 rfl d.isLt).trans ((above 32 5 _ (10) 10 5 rfl (by decide)).trans (whole 64 (31) 5 rfl (by decide)))))
  have f1 : wordField w0 25 21 = 10 := by rw [hw]; exact (above_zeros 128 7 _ 25 21 rfl).trans ((above 128 7 _ (a.toNat) 18 14 rfl a.isLt).trans ((above 128 7 _ (d.toNat) 11 7 rfl d.isLt).trans (lowest 32 _ (10) 4 rfl (by decide))))
  have f2 : wordField w0 20 14 = d.toNat := by rw [hw]; exact (above_zeros 128 7 _ 20 14 rfl).trans ((above 128 7 _ (a.toNat) 13 7 rfl a.isLt).trans (lowest 128 _ (d.toNat) 6 rfl d.isLt))
  have f3 : wordField w0 13 7 = a.toNat := by rw [hw]; exact (above_zeros 128 7 _ 13 7 rfl).trans (lowest 128 _ (a.toNat) 6 rfl a.isLt)
  have f4 : wordField w0 6 0 = 0 := by rw [hw]; exact lowest_zeros 128 _ 6 rfl
  rw [show encode (.redMax d a lit) = withLit w0 [a] lit from ew ▸ rfl, withLit_first]
  rw [major1F f0]
  simp only [decodeMajor1F, f1, f2, f3, f4, BitVec.ofNat_toNat, BitVec.setWidth_eq]
  rw [show [a.toNat] = [a].map BitVec.toNat from rfl, litWord_withLit _ _ _ _ hl, litWords_withLit w0 _ lit]
  exact decodedIf_good _ _ hwf

theorem redMaxU (d : BitVec 7) (a : BitVec 7) (lit : BitVec 32) : Statement (.redMaxU d a lit) := by
  intro hcode hwf x
  clear hcode
  have hl : litOk [a] lit = true := by
    simp only [Instr.wellFormed, Bool.and_eq_true] at hwf
    exact hwf
  have b0 := d.isLt
  have b1 := a.isLt
  obtain ⟨w0, ew⟩ : ∃ w0, w0 = 0x7D600000 + d.toNat * 0x4000 + a.toNat * 0x80 := ⟨_, rfl⟩
  have hw : w0 = (((31 * 32 + 11) * 128 + d.toNat) * 128 + a.toNat) * 128 := ew.trans (by clear ew; omega)
  have f0 : wordField w0 31 26 = 31 := by rw [hw]; exact (above_zeros 128 7 _ 31 26 rfl).trans ((above 128 7 _ (a.toNat) 24 19 rfl a.isLt).trans ((above 128 7 _ (d.toNat) 17 12 rfl d.isLt).trans ((above 32 5 _ (11) 10 5 rfl (by decide)).trans (whole 64 (31) 5 rfl (by decide)))))
  have f1 : wordField w0 25 21 = 11 := by rw [hw]; exact (above_zeros 128 7 _ 25 21 rfl).trans ((above 128 7 _ (a.toNat) 18 14 rfl a.isLt).trans ((above 128 7 _ (d.toNat) 11 7 rfl d.isLt).trans (lowest 32 _ (11) 4 rfl (by decide))))
  have f2 : wordField w0 20 14 = d.toNat := by rw [hw]; exact (above_zeros 128 7 _ 20 14 rfl).trans ((above 128 7 _ (a.toNat) 13 7 rfl a.isLt).trans (lowest 128 _ (d.toNat) 6 rfl d.isLt))
  have f3 : wordField w0 13 7 = a.toNat := by rw [hw]; exact (above_zeros 128 7 _ 13 7 rfl).trans (lowest 128 _ (a.toNat) 6 rfl a.isLt)
  have f4 : wordField w0 6 0 = 0 := by rw [hw]; exact lowest_zeros 128 _ 6 rfl
  rw [show encode (.redMaxU d a lit) = withLit w0 [a] lit from ew ▸ rfl, withLit_first]
  rw [major1F f0]
  simp only [decodeMajor1F, f1, f2, f3, f4, BitVec.ofNat_toNat, BitVec.setWidth_eq]
  rw [show [a.toNat] = [a].map BitVec.toNat from rfl, litWord_withLit _ _ _ _ hl, litWords_withLit w0 _ lit]
  exact decodedIf_good _ _ hwf

theorem redMaxF32 (d : BitVec 7) (a : BitVec 7) (lit : BitVec 32) : Statement (.redMaxF32 d a lit) := by
  intro hcode hwf x
  clear hcode
  have hl : litOk [a] lit = true := by
    simp only [Instr.wellFormed, Bool.and_eq_true] at hwf
    exact hwf
  have b0 := d.isLt
  have b1 := a.isLt
  obtain ⟨w0, ew⟩ : ∃ w0, w0 = 0x7D800000 + d.toNat * 0x4000 + a.toNat * 0x80 := ⟨_, rfl⟩
  have hw : w0 = (((31 * 32 + 12) * 128 + d.toNat) * 128 + a.toNat) * 128 := ew.trans (by clear ew; omega)
  have f0 : wordField w0 31 26 = 31 := by rw [hw]; exact (above_zeros 128 7 _ 31 26 rfl).trans ((above 128 7 _ (a.toNat) 24 19 rfl a.isLt).trans ((above 128 7 _ (d.toNat) 17 12 rfl d.isLt).trans ((above 32 5 _ (12) 10 5 rfl (by decide)).trans (whole 64 (31) 5 rfl (by decide)))))
  have f1 : wordField w0 25 21 = 12 := by rw [hw]; exact (above_zeros 128 7 _ 25 21 rfl).trans ((above 128 7 _ (a.toNat) 18 14 rfl a.isLt).trans ((above 128 7 _ (d.toNat) 11 7 rfl d.isLt).trans (lowest 32 _ (12) 4 rfl (by decide))))
  have f2 : wordField w0 20 14 = d.toNat := by rw [hw]; exact (above_zeros 128 7 _ 20 14 rfl).trans ((above 128 7 _ (a.toNat) 13 7 rfl a.isLt).trans (lowest 128 _ (d.toNat) 6 rfl d.isLt))
  have f3 : wordField w0 13 7 = a.toNat := by rw [hw]; exact (above_zeros 128 7 _ 13 7 rfl).trans (lowest 128 _ (a.toNat) 6 rfl a.isLt)
  have f4 : wordField w0 6 0 = 0 := by rw [hw]; exact lowest_zeros 128 _ 6 rfl
  rw [show encode (.redMaxF32 d a lit) = withLit w0 [a] lit from ew ▸ rfl, withLit_first]
  rw [major1F f0]
  simp only [decodeMajor1F, f1, f2, f3, f4, BitVec.ofNat_toNat, BitVec.setWidth_eq]
  rw [show [a.toNat] = [a].map BitVec.toNat from rfl, litWord_withLit _ _ _ _ hl, litWords_withLit w0 _ lit]
  exact decodedIf_good _ _ hwf

theorem scanAdd (d : BitVec 7) (a : BitVec 7) (lit : BitVec 32) : Statement (.scanAdd d a lit) := by
  intro hcode hwf x
  clear hcode
  have hl : litOk [a] lit = true := by
    simp only [Instr.wellFormed, Bool.and_eq_true] at hwf
    exact hwf
  have b0 := d.isLt
  have b1 := a.isLt
  obtain ⟨w0, ew⟩ : ∃ w0, w0 = 0x7DA00000 + d.toNat * 0x4000 + a.toNat * 0x80 := ⟨_, rfl⟩
  have hw : w0 = (((31 * 32 + 13) * 128 + d.toNat) * 128 + a.toNat) * 128 := ew.trans (by clear ew; omega)
  have f0 : wordField w0 31 26 = 31 := by rw [hw]; exact (above_zeros 128 7 _ 31 26 rfl).trans ((above 128 7 _ (a.toNat) 24 19 rfl a.isLt).trans ((above 128 7 _ (d.toNat) 17 12 rfl d.isLt).trans ((above 32 5 _ (13) 10 5 rfl (by decide)).trans (whole 64 (31) 5 rfl (by decide)))))
  have f1 : wordField w0 25 21 = 13 := by rw [hw]; exact (above_zeros 128 7 _ 25 21 rfl).trans ((above 128 7 _ (a.toNat) 18 14 rfl a.isLt).trans ((above 128 7 _ (d.toNat) 11 7 rfl d.isLt).trans (lowest 32 _ (13) 4 rfl (by decide))))
  have f2 : wordField w0 20 14 = d.toNat := by rw [hw]; exact (above_zeros 128 7 _ 20 14 rfl).trans ((above 128 7 _ (a.toNat) 13 7 rfl a.isLt).trans (lowest 128 _ (d.toNat) 6 rfl d.isLt))
  have f3 : wordField w0 13 7 = a.toNat := by rw [hw]; exact (above_zeros 128 7 _ 13 7 rfl).trans (lowest 128 _ (a.toNat) 6 rfl a.isLt)
  have f4 : wordField w0 6 0 = 0 := by rw [hw]; exact lowest_zeros 128 _ 6 rfl
  rw [show encode (.scanAdd d a lit) = withLit w0 [a] lit from ew ▸ rfl, withLit_first]
  rw [major1F f0]
  simp only [decodeMajor1F, f1, f2, f3, f4, BitVec.ofNat_toNat, BitVec.setWidth_eq]
  rw [show [a.toNat] = [a].map BitVec.toNat from rfl, litWord_withLit _ _ _ _ hl, litWords_withLit w0 _ lit]
  exact decodedIf_good _ _ hwf

theorem scanAddEx (d : BitVec 7) (a : BitVec 7) (lit : BitVec 32) : Statement (.scanAddEx d a lit) := by
  intro hcode hwf x
  clear hcode
  have hl : litOk [a] lit = true := by
    simp only [Instr.wellFormed, Bool.and_eq_true] at hwf
    exact hwf
  have b0 := d.isLt
  have b1 := a.isLt
  obtain ⟨w0, ew⟩ : ∃ w0, w0 = 0x7DC00000 + d.toNat * 0x4000 + a.toNat * 0x80 := ⟨_, rfl⟩
  have hw : w0 = (((31 * 32 + 14) * 128 + d.toNat) * 128 + a.toNat) * 128 := ew.trans (by clear ew; omega)
  have f0 : wordField w0 31 26 = 31 := by rw [hw]; exact (above_zeros 128 7 _ 31 26 rfl).trans ((above 128 7 _ (a.toNat) 24 19 rfl a.isLt).trans ((above 128 7 _ (d.toNat) 17 12 rfl d.isLt).trans ((above 32 5 _ (14) 10 5 rfl (by decide)).trans (whole 64 (31) 5 rfl (by decide)))))
  have f1 : wordField w0 25 21 = 14 := by rw [hw]; exact (above_zeros 128 7 _ 25 21 rfl).trans ((above 128 7 _ (a.toNat) 18 14 rfl a.isLt).trans ((above 128 7 _ (d.toNat) 11 7 rfl d.isLt).trans (lowest 32 _ (14) 4 rfl (by decide))))
  have f2 : wordField w0 20 14 = d.toNat := by rw [hw]; exact (above_zeros 128 7 _ 20 14 rfl).trans ((above 128 7 _ (a.toNat) 13 7 rfl a.isLt).trans (lowest 128 _ (d.toNat) 6 rfl d.isLt))
  have f3 : wordField w0 13 7 = a.toNat := by rw [hw]; exact (above_zeros 128 7 _ 13 7 rfl).trans (lowest 128 _ (a.toNat) 6 rfl a.isLt)
  have f4 : wordField w0 6 0 = 0 := by rw [hw]; exact lowest_zeros 128 _ 6 rfl
  rw [show encode (.scanAddEx d a lit) = withLit w0 [a] lit from ew ▸ rfl, withLit_first]
  rw [major1F f0]
  simp only [decodeMajor1F, f1, f2, f3, f4, BitVec.ofNat_toNat, BitVec.setWidth_eq]
  rw [show [a.toNat] = [a].map BitVec.toNat from rfl, litWord_withLit _ _ _ _ hl, litWords_withLit w0 _ lit]
  exact decodedIf_good _ _ hwf

theorem scanAddF32 (d : BitVec 7) (a : BitVec 7) (lit : BitVec 32) : Statement (.scanAddF32 d a lit) := by
  intro hcode hwf x
  clear hcode
  have hl : litOk [a] lit = true := by
    simp only [Instr.wellFormed, Bool.and_eq_true] at hwf
    exact hwf
  have b0 := d.isLt
  have b1 := a.isLt
  obtain ⟨w0, ew⟩ : ∃ w0, w0 = 0x7DE00000 + d.toNat * 0x4000 + a.toNat * 0x80 := ⟨_, rfl⟩
  have hw : w0 = (((31 * 32 + 15) * 128 + d.toNat) * 128 + a.toNat) * 128 := ew.trans (by clear ew; omega)
  have f0 : wordField w0 31 26 = 31 := by rw [hw]; exact (above_zeros 128 7 _ 31 26 rfl).trans ((above 128 7 _ (a.toNat) 24 19 rfl a.isLt).trans ((above 128 7 _ (d.toNat) 17 12 rfl d.isLt).trans ((above 32 5 _ (15) 10 5 rfl (by decide)).trans (whole 64 (31) 5 rfl (by decide)))))
  have f1 : wordField w0 25 21 = 15 := by rw [hw]; exact (above_zeros 128 7 _ 25 21 rfl).trans ((above 128 7 _ (a.toNat) 18 14 rfl a.isLt).trans ((above 128 7 _ (d.toNat) 11 7 rfl d.isLt).trans (lowest 32 _ (15) 4 rfl (by decide))))
  have f2 : wordField w0 20 14 = d.toNat := by rw [hw]; exact (above_zeros 128 7 _ 20 14 rfl).trans ((above 128 7 _ (a.toNat) 13 7 rfl a.isLt).trans (lowest 128 _ (d.toNat) 6 rfl d.isLt))
  have f3 : wordField w0 13 7 = a.toNat := by rw [hw]; exact (above_zeros 128 7 _ 13 7 rfl).trans (lowest 128 _ (a.toNat) 6 rfl a.isLt)
  have f4 : wordField w0 6 0 = 0 := by rw [hw]; exact lowest_zeros 128 _ 6 rfl
  rw [show encode (.scanAddF32 d a lit) = withLit w0 [a] lit from ew ▸ rfl, withLit_first]
  rw [major1F f0]
  simp only [decodeMajor1F, f1, f2, f3, f4, BitVec.ofNat_toNat, BitVec.setWidth_eq]
  rw [show [a.toNat] = [a].map BitVec.toNat from rfl, litWord_withLit _ _ _ _ hl, litWords_withLit w0 _ lit]
  exact decodedIf_good _ _ hwf

theorem sadd (d : BitVec 8) (a : BitVec 8) (b : BitVec 8) : Statement (.sadd d a b) := by
  intro hcode hwf x
  clear hcode
  have b0 := d.isLt
  have b1 := a.isLt
  have b2 := b.isLt
  obtain ⟨w0, ew⟩ : ∃ w0, w0 = 0x80000000 + d.toNat * 0x10000 + a.toNat * 0x100 + b.toNat := ⟨_, rfl⟩
  have hw : w0 = (((32 * 4) * 256 + d.toNat) * 256 + a.toNat) * 256 + b.toNat := ew.trans (by clear ew; omega)
  have f0 : wordField w0 31 26 = 32 := by rw [hw]; exact (above 256 8 _ (b.toNat) 31 26 rfl b.isLt).trans ((above 256 8 _ (a.toNat) 23 18 rfl a.isLt).trans ((above 256 8 _ (d.toNat) 15 10 rfl d.isLt).trans ((above_zeros 4 2 _ 7 2 rfl).trans (whole 64 (32) 5 rfl (by decide)))))
  have f1 : wordField w0 25 24 = 0 := by rw [hw]; exact (above 256 8 _ (b.toNat) 25 24 rfl b.isLt).trans ((above 256 8 _ (a.toNat) 17 16 rfl a.isLt).trans ((above 256 8 _ (d.toNat) 9 8 rfl d.isLt).trans (lowest_zeros 4 _ 1 rfl)))
  have f2 : wordField w0 23 16 = d.toNat := by rw [hw]; exact (above 256 8 _ (b.toNat) 23 16 rfl b.isLt).trans ((above 256 8 _ (a.toNat) 15 8 rfl a.isLt).trans (lowest 256 _ (d.toNat) 7 rfl d.isLt))
  have f3 : wordField w0 15 8 = a.toNat := by rw [hw]; exact (above 256 8 _ (b.toNat) 15 8 rfl b.isLt).trans (lowest 256 _ (a.toNat) 7 rfl a.isLt)
  have f4 : wordField w0 7 0 = b.toNat := by rw [hw]; exact lowest 256 _ (b.toNat) 7 rfl b.isLt
  have he : encode (.sadd d a b) = [w0] := by subst ew; exact rfl
  rw [he]
  refine (major20 f0).trans ?_
  show decodeMajor20 w0 x = _
  simp only [decodeMajor20, f1, f2, f3, f4, BitVec.ofNat_toNat, BitVec.setWidth_eq]
  exact decodedIf_good _ _ hwf

theorem ssub (d : BitVec 8) (a : BitVec 8) (b : BitVec 8) : Statement (.ssub d a b) := by
  intro hcode hwf x
  clear hcode
  have b0 := d.isLt
  have b1 := a.isLt
  have b2 := b.isLt
  obtain ⟨w0, ew⟩ : ∃ w0, w0 = 0x81000000 + d.toNat * 0x10000 + a.toNat * 0x100 + b.toNat := ⟨_, rfl⟩
  have hw : w0 = (((32 * 4 + 1) * 256 + d.toNat) * 256 + a.toNat) * 256 + b.toNat := ew.trans (by clear ew; omega)
  have f0 : wordField w0 31 26 = 32 := by rw [hw]; exact (above 256 8 _ (b.toNat) 31 26 rfl b.isLt).trans ((above 256 8 _ (a.toNat) 23 18 rfl a.isLt).trans ((above 256 8 _ (d.toNat) 15 10 rfl d.isLt).trans ((above 4 2 _ (1) 7 2 rfl (by decide)).trans (whole 64 (32) 5 rfl (by decide)))))
  have f1 : wordField w0 25 24 = 1 := by rw [hw]; exact (above 256 8 _ (b.toNat) 25 24 rfl b.isLt).trans ((above 256 8 _ (a.toNat) 17 16 rfl a.isLt).trans ((above 256 8 _ (d.toNat) 9 8 rfl d.isLt).trans (lowest 4 _ (1) 1 rfl (by decide))))
  have f2 : wordField w0 23 16 = d.toNat := by rw [hw]; exact (above 256 8 _ (b.toNat) 23 16 rfl b.isLt).trans ((above 256 8 _ (a.toNat) 15 8 rfl a.isLt).trans (lowest 256 _ (d.toNat) 7 rfl d.isLt))
  have f3 : wordField w0 15 8 = a.toNat := by rw [hw]; exact (above 256 8 _ (b.toNat) 15 8 rfl b.isLt).trans (lowest 256 _ (a.toNat) 7 rfl a.isLt)
  have f4 : wordField w0 7 0 = b.toNat := by rw [hw]; exact lowest 256 _ (b.toNat) 7 rfl b.isLt
  have he : encode (.ssub d a b) = [w0] := by subst ew; exact rfl
  rw [he]
  refine (major20 f0).trans ?_
  show decodeMajor20 w0 x = _
  simp only [decodeMajor20, f1, f2, f3, f4, BitVec.ofNat_toNat, BitVec.setWidth_eq]
  exact decodedIf_good _ _ hwf

theorem smul (d : BitVec 8) (a : BitVec 8) (b : BitVec 8) : Statement (.smul d a b) := by
  intro hcode hwf x
  clear hcode
  have b0 := d.isLt
  have b1 := a.isLt
  have b2 := b.isLt
  obtain ⟨w0, ew⟩ : ∃ w0, w0 = 0x82000000 + d.toNat * 0x10000 + a.toNat * 0x100 + b.toNat := ⟨_, rfl⟩
  have hw : w0 = (((32 * 4 + 2) * 256 + d.toNat) * 256 + a.toNat) * 256 + b.toNat := ew.trans (by clear ew; omega)
  have f0 : wordField w0 31 26 = 32 := by rw [hw]; exact (above 256 8 _ (b.toNat) 31 26 rfl b.isLt).trans ((above 256 8 _ (a.toNat) 23 18 rfl a.isLt).trans ((above 256 8 _ (d.toNat) 15 10 rfl d.isLt).trans ((above 4 2 _ (2) 7 2 rfl (by decide)).trans (whole 64 (32) 5 rfl (by decide)))))
  have f1 : wordField w0 25 24 = 2 := by rw [hw]; exact (above 256 8 _ (b.toNat) 25 24 rfl b.isLt).trans ((above 256 8 _ (a.toNat) 17 16 rfl a.isLt).trans ((above 256 8 _ (d.toNat) 9 8 rfl d.isLt).trans (lowest 4 _ (2) 1 rfl (by decide))))
  have f2 : wordField w0 23 16 = d.toNat := by rw [hw]; exact (above 256 8 _ (b.toNat) 23 16 rfl b.isLt).trans ((above 256 8 _ (a.toNat) 15 8 rfl a.isLt).trans (lowest 256 _ (d.toNat) 7 rfl d.isLt))
  have f3 : wordField w0 15 8 = a.toNat := by rw [hw]; exact (above 256 8 _ (b.toNat) 15 8 rfl b.isLt).trans (lowest 256 _ (a.toNat) 7 rfl a.isLt)
  have f4 : wordField w0 7 0 = b.toNat := by rw [hw]; exact lowest 256 _ (b.toNat) 7 rfl b.isLt
  have he : encode (.smul d a b) = [w0] := by subst ew; exact rfl
  rw [he]
  refine (major20 f0).trans ?_
  show decodeMajor20 w0 x = _
  simp only [decodeMajor20, f1, f2, f3, f4, BitVec.ofNat_toNat, BitVec.setWidth_eq]
  exact decodedIf_good _ _ hwf

theorem smulh (d : BitVec 8) (a : BitVec 8) (b : BitVec 8) : Statement (.smulh d a b) := by
  intro hcode hwf x
  clear hcode
  have b0 := d.isLt
  have b1 := a.isLt
  have b2 := b.isLt
  obtain ⟨w0, ew⟩ : ∃ w0, w0 = 0x83000000 + d.toNat * 0x10000 + a.toNat * 0x100 + b.toNat := ⟨_, rfl⟩
  have hw : w0 = (((32 * 4 + 3) * 256 + d.toNat) * 256 + a.toNat) * 256 + b.toNat := ew.trans (by clear ew; omega)
  have f0 : wordField w0 31 26 = 32 := by rw [hw]; exact (above 256 8 _ (b.toNat) 31 26 rfl b.isLt).trans ((above 256 8 _ (a.toNat) 23 18 rfl a.isLt).trans ((above 256 8 _ (d.toNat) 15 10 rfl d.isLt).trans ((above 4 2 _ (3) 7 2 rfl (by decide)).trans (whole 64 (32) 5 rfl (by decide)))))
  have f1 : wordField w0 25 24 = 3 := by rw [hw]; exact (above 256 8 _ (b.toNat) 25 24 rfl b.isLt).trans ((above 256 8 _ (a.toNat) 17 16 rfl a.isLt).trans ((above 256 8 _ (d.toNat) 9 8 rfl d.isLt).trans (lowest 4 _ (3) 1 rfl (by decide))))
  have f2 : wordField w0 23 16 = d.toNat := by rw [hw]; exact (above 256 8 _ (b.toNat) 23 16 rfl b.isLt).trans ((above 256 8 _ (a.toNat) 15 8 rfl a.isLt).trans (lowest 256 _ (d.toNat) 7 rfl d.isLt))
  have f3 : wordField w0 15 8 = a.toNat := by rw [hw]; exact (above 256 8 _ (b.toNat) 15 8 rfl b.isLt).trans (lowest 256 _ (a.toNat) 7 rfl a.isLt)
  have f4 : wordField w0 7 0 = b.toNat := by rw [hw]; exact lowest 256 _ (b.toNat) 7 rfl b.isLt
  have he : encode (.smulh d a b) = [w0] := by subst ew; exact rfl
  rw [he]
  refine (major20 f0).trans ?_
  show decodeMajor20 w0 x = _
  simp only [decodeMajor20, f1, f2, f3, f4, BitVec.ofNat_toNat, BitVec.setWidth_eq]
  exact decodedIf_good _ _ hwf

theorem sand (d : BitVec 8) (a : BitVec 8) (b : BitVec 8) : Statement (.sand d a b) := by
  intro hcode hwf x
  clear hcode
  have b0 := d.isLt
  have b1 := a.isLt
  have b2 := b.isLt
  obtain ⟨w0, ew⟩ : ∃ w0, w0 = 0x84000000 + d.toNat * 0x10000 + a.toNat * 0x100 + b.toNat := ⟨_, rfl⟩
  have hw : w0 = (((33 * 4) * 256 + d.toNat) * 256 + a.toNat) * 256 + b.toNat := ew.trans (by clear ew; omega)
  have f0 : wordField w0 31 26 = 33 := by rw [hw]; exact (above 256 8 _ (b.toNat) 31 26 rfl b.isLt).trans ((above 256 8 _ (a.toNat) 23 18 rfl a.isLt).trans ((above 256 8 _ (d.toNat) 15 10 rfl d.isLt).trans ((above_zeros 4 2 _ 7 2 rfl).trans (whole 64 (33) 5 rfl (by decide)))))
  have f1 : wordField w0 25 24 = 0 := by rw [hw]; exact (above 256 8 _ (b.toNat) 25 24 rfl b.isLt).trans ((above 256 8 _ (a.toNat) 17 16 rfl a.isLt).trans ((above 256 8 _ (d.toNat) 9 8 rfl d.isLt).trans (lowest_zeros 4 _ 1 rfl)))
  have f2 : wordField w0 23 16 = d.toNat := by rw [hw]; exact (above 256 8 _ (b.toNat) 23 16 rfl b.isLt).trans ((above 256 8 _ (a.toNat) 15 8 rfl a.isLt).trans (lowest 256 _ (d.toNat) 7 rfl d.isLt))
  have f3 : wordField w0 15 8 = a.toNat := by rw [hw]; exact (above 256 8 _ (b.toNat) 15 8 rfl b.isLt).trans (lowest 256 _ (a.toNat) 7 rfl a.isLt)
  have f4 : wordField w0 7 0 = b.toNat := by rw [hw]; exact lowest 256 _ (b.toNat) 7 rfl b.isLt
  have he : encode (.sand d a b) = [w0] := by subst ew; exact rfl
  rw [he]
  refine (major21 f0).trans ?_
  show decodeMajor21 w0 x = _
  simp only [decodeMajor21, f1, f2, f3, f4, BitVec.ofNat_toNat, BitVec.setWidth_eq]
  exact decodedIf_good _ _ hwf

theorem sor (d : BitVec 8) (a : BitVec 8) (b : BitVec 8) : Statement (.sor d a b) := by
  intro hcode hwf x
  clear hcode
  have b0 := d.isLt
  have b1 := a.isLt
  have b2 := b.isLt
  obtain ⟨w0, ew⟩ : ∃ w0, w0 = 0x85000000 + d.toNat * 0x10000 + a.toNat * 0x100 + b.toNat := ⟨_, rfl⟩
  have hw : w0 = (((33 * 4 + 1) * 256 + d.toNat) * 256 + a.toNat) * 256 + b.toNat := ew.trans (by clear ew; omega)
  have f0 : wordField w0 31 26 = 33 := by rw [hw]; exact (above 256 8 _ (b.toNat) 31 26 rfl b.isLt).trans ((above 256 8 _ (a.toNat) 23 18 rfl a.isLt).trans ((above 256 8 _ (d.toNat) 15 10 rfl d.isLt).trans ((above 4 2 _ (1) 7 2 rfl (by decide)).trans (whole 64 (33) 5 rfl (by decide)))))
  have f1 : wordField w0 25 24 = 1 := by rw [hw]; exact (above 256 8 _ (b.toNat) 25 24 rfl b.isLt).trans ((above 256 8 _ (a.toNat) 17 16 rfl a.isLt).trans ((above 256 8 _ (d.toNat) 9 8 rfl d.isLt).trans (lowest 4 _ (1) 1 rfl (by decide))))
  have f2 : wordField w0 23 16 = d.toNat := by rw [hw]; exact (above 256 8 _ (b.toNat) 23 16 rfl b.isLt).trans ((above 256 8 _ (a.toNat) 15 8 rfl a.isLt).trans (lowest 256 _ (d.toNat) 7 rfl d.isLt))
  have f3 : wordField w0 15 8 = a.toNat := by rw [hw]; exact (above 256 8 _ (b.toNat) 15 8 rfl b.isLt).trans (lowest 256 _ (a.toNat) 7 rfl a.isLt)
  have f4 : wordField w0 7 0 = b.toNat := by rw [hw]; exact lowest 256 _ (b.toNat) 7 rfl b.isLt
  have he : encode (.sor d a b) = [w0] := by subst ew; exact rfl
  rw [he]
  refine (major21 f0).trans ?_
  show decodeMajor21 w0 x = _
  simp only [decodeMajor21, f1, f2, f3, f4, BitVec.ofNat_toNat, BitVec.setWidth_eq]
  exact decodedIf_good _ _ hwf

theorem sxor (d : BitVec 8) (a : BitVec 8) (b : BitVec 8) : Statement (.sxor d a b) := by
  intro hcode hwf x
  clear hcode
  have b0 := d.isLt
  have b1 := a.isLt
  have b2 := b.isLt
  obtain ⟨w0, ew⟩ : ∃ w0, w0 = 0x86000000 + d.toNat * 0x10000 + a.toNat * 0x100 + b.toNat := ⟨_, rfl⟩
  have hw : w0 = (((33 * 4 + 2) * 256 + d.toNat) * 256 + a.toNat) * 256 + b.toNat := ew.trans (by clear ew; omega)
  have f0 : wordField w0 31 26 = 33 := by rw [hw]; exact (above 256 8 _ (b.toNat) 31 26 rfl b.isLt).trans ((above 256 8 _ (a.toNat) 23 18 rfl a.isLt).trans ((above 256 8 _ (d.toNat) 15 10 rfl d.isLt).trans ((above 4 2 _ (2) 7 2 rfl (by decide)).trans (whole 64 (33) 5 rfl (by decide)))))
  have f1 : wordField w0 25 24 = 2 := by rw [hw]; exact (above 256 8 _ (b.toNat) 25 24 rfl b.isLt).trans ((above 256 8 _ (a.toNat) 17 16 rfl a.isLt).trans ((above 256 8 _ (d.toNat) 9 8 rfl d.isLt).trans (lowest 4 _ (2) 1 rfl (by decide))))
  have f2 : wordField w0 23 16 = d.toNat := by rw [hw]; exact (above 256 8 _ (b.toNat) 23 16 rfl b.isLt).trans ((above 256 8 _ (a.toNat) 15 8 rfl a.isLt).trans (lowest 256 _ (d.toNat) 7 rfl d.isLt))
  have f3 : wordField w0 15 8 = a.toNat := by rw [hw]; exact (above 256 8 _ (b.toNat) 15 8 rfl b.isLt).trans (lowest 256 _ (a.toNat) 7 rfl a.isLt)
  have f4 : wordField w0 7 0 = b.toNat := by rw [hw]; exact lowest 256 _ (b.toNat) 7 rfl b.isLt
  have he : encode (.sxor d a b) = [w0] := by subst ew; exact rfl
  rw [he]
  refine (major21 f0).trans ?_
  show decodeMajor21 w0 x = _
  simp only [decodeMajor21, f1, f2, f3, f4, BitVec.ofNat_toNat, BitVec.setWidth_eq]
  exact decodedIf_good _ _ hwf

theorem sandn (d : BitVec 8) (a : BitVec 8) (b : BitVec 8) : Statement (.sandn d a b) := by
  intro hcode hwf x
  clear hcode
  have b0 := d.isLt
  have b1 := a.isLt
  have b2 := b.isLt
  obtain ⟨w0, ew⟩ : ∃ w0, w0 = 0x87000000 + d.toNat * 0x10000 + a.toNat * 0x100 + b.toNat := ⟨_, rfl⟩
  have hw : w0 = (((33 * 4 + 3) * 256 + d.toNat) * 256 + a.toNat) * 256 + b.toNat := ew.trans (by clear ew; omega)
  have f0 : wordField w0 31 26 = 33 := by rw [hw]; exact (above 256 8 _ (b.toNat) 31 26 rfl b.isLt).trans ((above 256 8 _ (a.toNat) 23 18 rfl a.isLt).trans ((above 256 8 _ (d.toNat) 15 10 rfl d.isLt).trans ((above 4 2 _ (3) 7 2 rfl (by decide)).trans (whole 64 (33) 5 rfl (by decide)))))
  have f1 : wordField w0 25 24 = 3 := by rw [hw]; exact (above 256 8 _ (b.toNat) 25 24 rfl b.isLt).trans ((above 256 8 _ (a.toNat) 17 16 rfl a.isLt).trans ((above 256 8 _ (d.toNat) 9 8 rfl d.isLt).trans (lowest 4 _ (3) 1 rfl (by decide))))
  have f2 : wordField w0 23 16 = d.toNat := by rw [hw]; exact (above 256 8 _ (b.toNat) 23 16 rfl b.isLt).trans ((above 256 8 _ (a.toNat) 15 8 rfl a.isLt).trans (lowest 256 _ (d.toNat) 7 rfl d.isLt))
  have f3 : wordField w0 15 8 = a.toNat := by rw [hw]; exact (above 256 8 _ (b.toNat) 15 8 rfl b.isLt).trans (lowest 256 _ (a.toNat) 7 rfl a.isLt)
  have f4 : wordField w0 7 0 = b.toNat := by rw [hw]; exact lowest 256 _ (b.toNat) 7 rfl b.isLt
  have he : encode (.sandn d a b) = [w0] := by subst ew; exact rfl
  rw [he]
  refine (major21 f0).trans ?_
  show decodeMajor21 w0 x = _
  simp only [decodeMajor21, f1, f2, f3, f4, BitVec.ofNat_toNat, BitVec.setWidth_eq]
  exact decodedIf_good _ _ hwf

theorem sshl (d : BitVec 8) (a : BitVec 8) (b : BitVec 8) : Statement (.sshl d a b) := by
  intro hcode hwf x
  clear hcode
  have b0 := d.isLt
  have b1 := a.isLt
  have b2 := b.isLt
  obtain ⟨w0, ew⟩ : ∃ w0, w0 = 0x88000000 + d.toNat * 0x10000 + a.toNat * 0x100 + b.toNat := ⟨_, rfl⟩
  have hw : w0 = (((34 * 4) * 256 + d.toNat) * 256 + a.toNat) * 256 + b.toNat := ew.trans (by clear ew; omega)
  have f0 : wordField w0 31 26 = 34 := by rw [hw]; exact (above 256 8 _ (b.toNat) 31 26 rfl b.isLt).trans ((above 256 8 _ (a.toNat) 23 18 rfl a.isLt).trans ((above 256 8 _ (d.toNat) 15 10 rfl d.isLt).trans ((above_zeros 4 2 _ 7 2 rfl).trans (whole 64 (34) 5 rfl (by decide)))))
  have f1 : wordField w0 25 24 = 0 := by rw [hw]; exact (above 256 8 _ (b.toNat) 25 24 rfl b.isLt).trans ((above 256 8 _ (a.toNat) 17 16 rfl a.isLt).trans ((above 256 8 _ (d.toNat) 9 8 rfl d.isLt).trans (lowest_zeros 4 _ 1 rfl)))
  have f2 : wordField w0 23 16 = d.toNat := by rw [hw]; exact (above 256 8 _ (b.toNat) 23 16 rfl b.isLt).trans ((above 256 8 _ (a.toNat) 15 8 rfl a.isLt).trans (lowest 256 _ (d.toNat) 7 rfl d.isLt))
  have f3 : wordField w0 15 8 = a.toNat := by rw [hw]; exact (above 256 8 _ (b.toNat) 15 8 rfl b.isLt).trans (lowest 256 _ (a.toNat) 7 rfl a.isLt)
  have f4 : wordField w0 7 0 = b.toNat := by rw [hw]; exact lowest 256 _ (b.toNat) 7 rfl b.isLt
  have he : encode (.sshl d a b) = [w0] := by subst ew; exact rfl
  rw [he]
  refine (major22 f0).trans ?_
  show decodeMajor22 w0 x = _
  simp only [decodeMajor22, f1, f2, f3, f4, BitVec.ofNat_toNat, BitVec.setWidth_eq]
  exact decodedIf_good _ _ hwf

theorem sshr (d : BitVec 8) (a : BitVec 8) (b : BitVec 8) : Statement (.sshr d a b) := by
  intro hcode hwf x
  clear hcode
  have b0 := d.isLt
  have b1 := a.isLt
  have b2 := b.isLt
  obtain ⟨w0, ew⟩ : ∃ w0, w0 = 0x89000000 + d.toNat * 0x10000 + a.toNat * 0x100 + b.toNat := ⟨_, rfl⟩
  have hw : w0 = (((34 * 4 + 1) * 256 + d.toNat) * 256 + a.toNat) * 256 + b.toNat := ew.trans (by clear ew; omega)
  have f0 : wordField w0 31 26 = 34 := by rw [hw]; exact (above 256 8 _ (b.toNat) 31 26 rfl b.isLt).trans ((above 256 8 _ (a.toNat) 23 18 rfl a.isLt).trans ((above 256 8 _ (d.toNat) 15 10 rfl d.isLt).trans ((above 4 2 _ (1) 7 2 rfl (by decide)).trans (whole 64 (34) 5 rfl (by decide)))))
  have f1 : wordField w0 25 24 = 1 := by rw [hw]; exact (above 256 8 _ (b.toNat) 25 24 rfl b.isLt).trans ((above 256 8 _ (a.toNat) 17 16 rfl a.isLt).trans ((above 256 8 _ (d.toNat) 9 8 rfl d.isLt).trans (lowest 4 _ (1) 1 rfl (by decide))))
  have f2 : wordField w0 23 16 = d.toNat := by rw [hw]; exact (above 256 8 _ (b.toNat) 23 16 rfl b.isLt).trans ((above 256 8 _ (a.toNat) 15 8 rfl a.isLt).trans (lowest 256 _ (d.toNat) 7 rfl d.isLt))
  have f3 : wordField w0 15 8 = a.toNat := by rw [hw]; exact (above 256 8 _ (b.toNat) 15 8 rfl b.isLt).trans (lowest 256 _ (a.toNat) 7 rfl a.isLt)
  have f4 : wordField w0 7 0 = b.toNat := by rw [hw]; exact lowest 256 _ (b.toNat) 7 rfl b.isLt
  have he : encode (.sshr d a b) = [w0] := by subst ew; exact rfl
  rw [he]
  refine (major22 f0).trans ?_
  show decodeMajor22 w0 x = _
  simp only [decodeMajor22, f1, f2, f3, f4, BitVec.ofNat_toNat, BitVec.setWidth_eq]
  exact decodedIf_good _ _ hwf

theorem ssar (d : BitVec 8) (a : BitVec 8) (b : BitVec 8) : Statement (.ssar d a b) := by
  intro hcode hwf x
  clear hcode
  have b0 := d.isLt
  have b1 := a.isLt
  have b2 := b.isLt
  obtain ⟨w0, ew⟩ : ∃ w0, w0 = 0x8A000000 + d.toNat * 0x10000 + a.toNat * 0x100 + b.toNat := ⟨_, rfl⟩
  have hw : w0 = (((34 * 4 + 2) * 256 + d.toNat) * 256 + a.toNat) * 256 + b.toNat := ew.trans (by clear ew; omega)
  have f0 : wordField w0 31 26 = 34 := by rw [hw]; exact (above 256 8 _ (b.toNat) 31 26 rfl b.isLt).trans ((above 256 8 _ (a.toNat) 23 18 rfl a.isLt).trans ((above 256 8 _ (d.toNat) 15 10 rfl d.isLt).trans ((above 4 2 _ (2) 7 2 rfl (by decide)).trans (whole 64 (34) 5 rfl (by decide)))))
  have f1 : wordField w0 25 24 = 2 := by rw [hw]; exact (above 256 8 _ (b.toNat) 25 24 rfl b.isLt).trans ((above 256 8 _ (a.toNat) 17 16 rfl a.isLt).trans ((above 256 8 _ (d.toNat) 9 8 rfl d.isLt).trans (lowest 4 _ (2) 1 rfl (by decide))))
  have f2 : wordField w0 23 16 = d.toNat := by rw [hw]; exact (above 256 8 _ (b.toNat) 23 16 rfl b.isLt).trans ((above 256 8 _ (a.toNat) 15 8 rfl a.isLt).trans (lowest 256 _ (d.toNat) 7 rfl d.isLt))
  have f3 : wordField w0 15 8 = a.toNat := by rw [hw]; exact (above 256 8 _ (b.toNat) 15 8 rfl b.isLt).trans (lowest 256 _ (a.toNat) 7 rfl a.isLt)
  have f4 : wordField w0 7 0 = b.toNat := by rw [hw]; exact lowest 256 _ (b.toNat) 7 rfl b.isLt
  have he : encode (.ssar d a b) = [w0] := by subst ew; exact rfl
  rw [he]
  refine (major22 f0).trans ?_
  show decodeMajor22 w0 x = _
  simp only [decodeMajor22, f1, f2, f3, f4, BitVec.ofNat_toNat, BitVec.setWidth_eq]
  exact decodedIf_good _ _ hwf

theorem srotl (d : BitVec 8) (a : BitVec 8) (b : BitVec 8) : Statement (.srotl d a b) := by
  intro hcode hwf x
  clear hcode
  have b0 := d.isLt
  have b1 := a.isLt
  have b2 := b.isLt
  obtain ⟨w0, ew⟩ : ∃ w0, w0 = 0x8B000000 + d.toNat * 0x10000 + a.toNat * 0x100 + b.toNat := ⟨_, rfl⟩
  have hw : w0 = (((34 * 4 + 3) * 256 + d.toNat) * 256 + a.toNat) * 256 + b.toNat := ew.trans (by clear ew; omega)
  have f0 : wordField w0 31 26 = 34 := by rw [hw]; exact (above 256 8 _ (b.toNat) 31 26 rfl b.isLt).trans ((above 256 8 _ (a.toNat) 23 18 rfl a.isLt).trans ((above 256 8 _ (d.toNat) 15 10 rfl d.isLt).trans ((above 4 2 _ (3) 7 2 rfl (by decide)).trans (whole 64 (34) 5 rfl (by decide)))))
  have f1 : wordField w0 25 24 = 3 := by rw [hw]; exact (above 256 8 _ (b.toNat) 25 24 rfl b.isLt).trans ((above 256 8 _ (a.toNat) 17 16 rfl a.isLt).trans ((above 256 8 _ (d.toNat) 9 8 rfl d.isLt).trans (lowest 4 _ (3) 1 rfl (by decide))))
  have f2 : wordField w0 23 16 = d.toNat := by rw [hw]; exact (above 256 8 _ (b.toNat) 23 16 rfl b.isLt).trans ((above 256 8 _ (a.toNat) 15 8 rfl a.isLt).trans (lowest 256 _ (d.toNat) 7 rfl d.isLt))
  have f3 : wordField w0 15 8 = a.toNat := by rw [hw]; exact (above 256 8 _ (b.toNat) 15 8 rfl b.isLt).trans (lowest 256 _ (a.toNat) 7 rfl a.isLt)
  have f4 : wordField w0 7 0 = b.toNat := by rw [hw]; exact lowest 256 _ (b.toNat) 7 rfl b.isLt
  have he : encode (.srotl d a b) = [w0] := by subst ew; exact rfl
  rw [he]
  refine (major22 f0).trans ?_
  show decodeMajor22 w0 x = _
  simp only [decodeMajor22, f1, f2, f3, f4, BitVec.ofNat_toNat, BitVec.setWidth_eq]
  exact decodedIf_good _ _ hwf

theorem scmpEq (d : BitVec 8) (a : BitVec 8) (b : BitVec 8) : Statement (.scmpEq d a b) := by
  intro hcode hwf x
  clear hcode
  have b0 := d.isLt
  have b1 := a.isLt
  have b2 := b.isLt
  obtain ⟨w0, ew⟩ : ∃ w0, w0 = 0x8C000000 + d.toNat * 0x10000 + a.toNat * 0x100 + b.toNat := ⟨_, rfl⟩
  have hw : w0 = (((35 * 4) * 256 + d.toNat) * 256 + a.toNat) * 256 + b.toNat := ew.trans (by clear ew; omega)
  have f0 : wordField w0 31 26 = 35 := by rw [hw]; exact (above 256 8 _ (b.toNat) 31 26 rfl b.isLt).trans ((above 256 8 _ (a.toNat) 23 18 rfl a.isLt).trans ((above 256 8 _ (d.toNat) 15 10 rfl d.isLt).trans ((above_zeros 4 2 _ 7 2 rfl).trans (whole 64 (35) 5 rfl (by decide)))))
  have f1 : wordField w0 25 24 = 0 := by rw [hw]; exact (above 256 8 _ (b.toNat) 25 24 rfl b.isLt).trans ((above 256 8 _ (a.toNat) 17 16 rfl a.isLt).trans ((above 256 8 _ (d.toNat) 9 8 rfl d.isLt).trans (lowest_zeros 4 _ 1 rfl)))
  have f2 : wordField w0 23 16 = d.toNat := by rw [hw]; exact (above 256 8 _ (b.toNat) 23 16 rfl b.isLt).trans ((above 256 8 _ (a.toNat) 15 8 rfl a.isLt).trans (lowest 256 _ (d.toNat) 7 rfl d.isLt))
  have f3 : wordField w0 15 8 = a.toNat := by rw [hw]; exact (above 256 8 _ (b.toNat) 15 8 rfl b.isLt).trans (lowest 256 _ (a.toNat) 7 rfl a.isLt)
  have f4 : wordField w0 7 0 = b.toNat := by rw [hw]; exact lowest 256 _ (b.toNat) 7 rfl b.isLt
  have he : encode (.scmpEq d a b) = [w0] := by subst ew; exact rfl
  rw [he]
  refine (major23 f0).trans ?_
  show decodeMajor23 w0 x = _
  simp only [decodeMajor23, f1, f2, f3, f4, BitVec.ofNat_toNat, BitVec.setWidth_eq]
  exact decodedIf_good _ _ hwf

theorem scmpLt (d : BitVec 8) (a : BitVec 8) (b : BitVec 8) : Statement (.scmpLt d a b) := by
  intro hcode hwf x
  clear hcode
  have b0 := d.isLt
  have b1 := a.isLt
  have b2 := b.isLt
  obtain ⟨w0, ew⟩ : ∃ w0, w0 = 0x8D000000 + d.toNat * 0x10000 + a.toNat * 0x100 + b.toNat := ⟨_, rfl⟩
  have hw : w0 = (((35 * 4 + 1) * 256 + d.toNat) * 256 + a.toNat) * 256 + b.toNat := ew.trans (by clear ew; omega)
  have f0 : wordField w0 31 26 = 35 := by rw [hw]; exact (above 256 8 _ (b.toNat) 31 26 rfl b.isLt).trans ((above 256 8 _ (a.toNat) 23 18 rfl a.isLt).trans ((above 256 8 _ (d.toNat) 15 10 rfl d.isLt).trans ((above 4 2 _ (1) 7 2 rfl (by decide)).trans (whole 64 (35) 5 rfl (by decide)))))
  have f1 : wordField w0 25 24 = 1 := by rw [hw]; exact (above 256 8 _ (b.toNat) 25 24 rfl b.isLt).trans ((above 256 8 _ (a.toNat) 17 16 rfl a.isLt).trans ((above 256 8 _ (d.toNat) 9 8 rfl d.isLt).trans (lowest 4 _ (1) 1 rfl (by decide))))
  have f2 : wordField w0 23 16 = d.toNat := by rw [hw]; exact (above 256 8 _ (b.toNat) 23 16 rfl b.isLt).trans ((above 256 8 _ (a.toNat) 15 8 rfl a.isLt).trans (lowest 256 _ (d.toNat) 7 rfl d.isLt))
  have f3 : wordField w0 15 8 = a.toNat := by rw [hw]; exact (above 256 8 _ (b.toNat) 15 8 rfl b.isLt).trans (lowest 256 _ (a.toNat) 7 rfl a.isLt)
  have f4 : wordField w0 7 0 = b.toNat := by rw [hw]; exact lowest 256 _ (b.toNat) 7 rfl b.isLt
  have he : encode (.scmpLt d a b) = [w0] := by subst ew; exact rfl
  rw [he]
  refine (major23 f0).trans ?_
  show decodeMajor23 w0 x = _
  simp only [decodeMajor23, f1, f2, f3, f4, BitVec.ofNat_toNat, BitVec.setWidth_eq]
  exact decodedIf_good _ _ hwf

theorem scmpLtu (d : BitVec 8) (a : BitVec 8) (b : BitVec 8) : Statement (.scmpLtu d a b) := by
  intro hcode hwf x
  clear hcode
  have b0 := d.isLt
  have b1 := a.isLt
  have b2 := b.isLt
  obtain ⟨w0, ew⟩ : ∃ w0, w0 = 0x8E000000 + d.toNat * 0x10000 + a.toNat * 0x100 + b.toNat := ⟨_, rfl⟩
  have hw : w0 = (((35 * 4 + 2) * 256 + d.toNat) * 256 + a.toNat) * 256 + b.toNat := ew.trans (by clear ew; omega)
  have f0 : wordField w0 31 26 = 35 := by rw [hw]; exact (above 256 8 _ (b.toNat) 31 26 rfl b.isLt).trans ((above 256 8 _ (a.toNat) 23 18 rfl a.isLt).trans ((above 256 8 _ (d.toNat) 15 10 rfl d.isLt).trans ((above 4 2 _ (2) 7 2 rfl (by decide)).trans (whole 64 (35) 5 rfl (by decide)))))
  have f1 : wordField w0 25 24 = 2 := by rw [hw]; exact (above 256 8 _ (b.toNat) 25 24 rfl b.isLt).trans ((above 256 8 _ (a.toNat) 17 16 rfl a.isLt).trans ((above 256 8 _ (d.toNat) 9 8 rfl d.isLt).trans (lowest 4 _ (2) 1 rfl (by decide))))
  have f2 : wordField w0 23 16 = d.toNat := by rw [hw]; exact (above 256 8 _ (b.toNat) 23 16 rfl b.isLt).trans ((above 256 8 _ (a.toNat) 15 8 rfl a.isLt).trans (lowest 256 _ (d.toNat) 7 rfl d.isLt))
  have f3 : wordField w0 15 8 = a.toNat := by rw [hw]; exact (above 256 8 _ (b.toNat) 15 8 rfl b.isLt).trans (lowest 256 _ (a.toNat) 7 rfl a.isLt)
  have f4 : wordField w0 7 0 = b.toNat := by rw [hw]; exact lowest 256 _ (b.toNat) 7 rfl b.isLt
  have he : encode (.scmpLtu d a b) = [w0] := by subst ew; exact rfl
  rw [he]
  refine (major23 f0).trans ?_
  show decodeMajor23 w0 x = _
  simp only [decodeMajor23, f1, f2, f3, f4, BitVec.ofNat_toNat, BitVec.setWidth_eq]
  exact decodedIf_good _ _ hwf

theorem scmpLe (d : BitVec 8) (a : BitVec 8) (b : BitVec 8) : Statement (.scmpLe d a b) := by
  intro hcode hwf x
  clear hcode
  have b0 := d.isLt
  have b1 := a.isLt
  have b2 := b.isLt
  obtain ⟨w0, ew⟩ : ∃ w0, w0 = 0x8F000000 + d.toNat * 0x10000 + a.toNat * 0x100 + b.toNat := ⟨_, rfl⟩
  have hw : w0 = (((35 * 4 + 3) * 256 + d.toNat) * 256 + a.toNat) * 256 + b.toNat := ew.trans (by clear ew; omega)
  have f0 : wordField w0 31 26 = 35 := by rw [hw]; exact (above 256 8 _ (b.toNat) 31 26 rfl b.isLt).trans ((above 256 8 _ (a.toNat) 23 18 rfl a.isLt).trans ((above 256 8 _ (d.toNat) 15 10 rfl d.isLt).trans ((above 4 2 _ (3) 7 2 rfl (by decide)).trans (whole 64 (35) 5 rfl (by decide)))))
  have f1 : wordField w0 25 24 = 3 := by rw [hw]; exact (above 256 8 _ (b.toNat) 25 24 rfl b.isLt).trans ((above 256 8 _ (a.toNat) 17 16 rfl a.isLt).trans ((above 256 8 _ (d.toNat) 9 8 rfl d.isLt).trans (lowest 4 _ (3) 1 rfl (by decide))))
  have f2 : wordField w0 23 16 = d.toNat := by rw [hw]; exact (above 256 8 _ (b.toNat) 23 16 rfl b.isLt).trans ((above 256 8 _ (a.toNat) 15 8 rfl a.isLt).trans (lowest 256 _ (d.toNat) 7 rfl d.isLt))
  have f3 : wordField w0 15 8 = a.toNat := by rw [hw]; exact (above 256 8 _ (b.toNat) 15 8 rfl b.isLt).trans (lowest 256 _ (a.toNat) 7 rfl a.isLt)
  have f4 : wordField w0 7 0 = b.toNat := by rw [hw]; exact lowest 256 _ (b.toNat) 7 rfl b.isLt
  have he : encode (.scmpLe d a b) = [w0] := by subst ew; exact rfl
  rw [he]
  refine (major23 f0).trans ?_
  show decodeMajor23 w0 x = _
  simp only [decodeMajor23, f1, f2, f3, f4, BitVec.ofNat_toNat, BitVec.setWidth_eq]
  exact decodedIf_good _ _ hwf

theorem smovi (d : BitVec 8) (i : BitVec 16) : Statement (.smovi d i) := by
  intro hcode hwf x
  clear hcode
  have b0 := d.isLt
  have b1 := i.isLt
  obtain ⟨w0, ew⟩ : ∃ w0, w0 = 0x90000000 + d.toNat * 0x10000 + i.toNat := ⟨_, rfl⟩
  have hw : w0 = ((36 * 4) * 256 + d.toNat) * 65536 + i.toNat := ew.trans (by clear ew; omega)
  have f0 : wordField w0 31 26 = 36 := by rw [hw]; exact (above 65536 16 _ (i.toNat) 31 26 rfl i.isLt).trans ((above 256 8 _ (d.toNat) 15 10 rfl d.isLt).trans ((above_zeros 4 2 _ 7 2 rfl).trans (whole 64 (36) 5 rfl (by decide))))
  have f1 : wordField w0 25 24 = 0 := by rw [hw]; exact (above 65536 16 _ (i.toNat) 25 24 rfl i.isLt).trans ((above 256 8 _ (d.toNat) 9 8 rfl d.isLt).trans (lowest_zeros 4 _ 1 rfl))
  have f2 : wordField w0 23 16 = d.toNat := by rw [hw]; exact (above 65536 16 _ (i.toNat) 23 16 rfl i.isLt).trans (lowest 256 _ (d.toNat) 7 rfl d.isLt)
  have f3 : wordField w0 15 0 = i.toNat := by rw [hw]; exact lowest 65536 _ (i.toNat) 15 rfl i.isLt
  have he : encode (.smovi d i) = [w0] := by subst ew; exact rfl
  rw [he]
  refine (major24 f0).trans ?_
  show decodeMajor24 w0 x = _
  simp only [decodeMajor24, f1, f2, f3, BitVec.ofNat_toNat, BitVec.setWidth_eq]
  exact decodedIf_good _ _ hwf

theorem smovhi (d : BitVec 8) (i : BitVec 16) : Statement (.smovhi d i) := by
  intro hcode hwf x
  clear hcode
  have b0 := d.isLt
  have b1 := i.isLt
  obtain ⟨w0, ew⟩ : ∃ w0, w0 = 0x91000000 + d.toNat * 0x10000 + i.toNat := ⟨_, rfl⟩
  have hw : w0 = ((36 * 4 + 1) * 256 + d.toNat) * 65536 + i.toNat := ew.trans (by clear ew; omega)
  have f0 : wordField w0 31 26 = 36 := by rw [hw]; exact (above 65536 16 _ (i.toNat) 31 26 rfl i.isLt).trans ((above 256 8 _ (d.toNat) 15 10 rfl d.isLt).trans ((above 4 2 _ (1) 7 2 rfl (by decide)).trans (whole 64 (36) 5 rfl (by decide))))
  have f1 : wordField w0 25 24 = 1 := by rw [hw]; exact (above 65536 16 _ (i.toNat) 25 24 rfl i.isLt).trans ((above 256 8 _ (d.toNat) 9 8 rfl d.isLt).trans (lowest 4 _ (1) 1 rfl (by decide)))
  have f2 : wordField w0 23 16 = d.toNat := by rw [hw]; exact (above 65536 16 _ (i.toNat) 23 16 rfl i.isLt).trans (lowest 256 _ (d.toNat) 7 rfl d.isLt)
  have f3 : wordField w0 15 0 = i.toNat := by rw [hw]; exact lowest 65536 _ (i.toNat) 15 rfl i.isLt
  have he : encode (.smovhi d i) = [w0] := by subst ew; exact rfl
  rw [he]
  refine (major24 f0).trans ?_
  show decodeMajor24 w0 x = _
  simp only [decodeMajor24, f1, f2, f3, BitVec.ofNat_toNat, BitVec.setWidth_eq]
  exact decodedIf_good _ _ hwf

theorem saddi (d : BitVec 8) (i : BitVec 16) : Statement (.saddi d i) := by
  intro hcode hwf x
  clear hcode
  have b0 := d.isLt
  have b1 := i.isLt
  obtain ⟨w0, ew⟩ : ∃ w0, w0 = 0x92000000 + d.toNat * 0x10000 + i.toNat := ⟨_, rfl⟩
  have hw : w0 = ((36 * 4 + 2) * 256 + d.toNat) * 65536 + i.toNat := ew.trans (by clear ew; omega)
  have f0 : wordField w0 31 26 = 36 := by rw [hw]; exact (above 65536 16 _ (i.toNat) 31 26 rfl i.isLt).trans ((above 256 8 _ (d.toNat) 15 10 rfl d.isLt).trans ((above 4 2 _ (2) 7 2 rfl (by decide)).trans (whole 64 (36) 5 rfl (by decide))))
  have f1 : wordField w0 25 24 = 2 := by rw [hw]; exact (above 65536 16 _ (i.toNat) 25 24 rfl i.isLt).trans ((above 256 8 _ (d.toNat) 9 8 rfl d.isLt).trans (lowest 4 _ (2) 1 rfl (by decide)))
  have f2 : wordField w0 23 16 = d.toNat := by rw [hw]; exact (above 65536 16 _ (i.toNat) 23 16 rfl i.isLt).trans (lowest 256 _ (d.toNat) 7 rfl d.isLt)
  have f3 : wordField w0 15 0 = i.toNat := by rw [hw]; exact lowest 65536 _ (i.toNat) 15 rfl i.isLt
  have he : encode (.saddi d i) = [w0] := by subst ew; exact rfl
  rw [he]
  refine (major24 f0).trans ?_
  show decodeMajor24 w0 x = _
  simp only [decodeMajor24, f1, f2, f3, BitVec.ofNat_toNat, BitVec.setWidth_eq]
  exact decodedIf_good _ _ hwf

theorem scmpi (d : BitVec 8) (a : BitVec 8) (c : BitVec 2) (i : BitVec 6) : Statement (.scmpi d a c i) := by
  intro hcode hwf x
  clear hcode
  have b0 := d.isLt
  have b1 := a.isLt
  have b2 := c.isLt
  have b3 := i.isLt
  obtain ⟨w0, ew⟩ : ∃ w0, w0 = 0x93000000 + d.toNat * 0x10000 + a.toNat * 0x100 + c.toNat * 0x40 + i.toNat := ⟨_, rfl⟩
  have hw : w0 = ((((36 * 4 + 3) * 256 + d.toNat) * 256 + a.toNat) * 4 + c.toNat) * 64 + i.toNat := ew.trans (by clear ew; omega)
  have f0 : wordField w0 31 26 = 36 := by rw [hw]; exact (above 64 6 _ (i.toNat) 31 26 rfl i.isLt).trans ((above 4 2 _ (c.toNat) 25 20 rfl c.isLt).trans ((above 256 8 _ (a.toNat) 23 18 rfl a.isLt).trans ((above 256 8 _ (d.toNat) 15 10 rfl d.isLt).trans ((above 4 2 _ (3) 7 2 rfl (by decide)).trans (whole 64 (36) 5 rfl (by decide))))))
  have f1 : wordField w0 25 24 = 3 := by rw [hw]; exact (above 64 6 _ (i.toNat) 25 24 rfl i.isLt).trans ((above 4 2 _ (c.toNat) 19 18 rfl c.isLt).trans ((above 256 8 _ (a.toNat) 17 16 rfl a.isLt).trans ((above 256 8 _ (d.toNat) 9 8 rfl d.isLt).trans (lowest 4 _ (3) 1 rfl (by decide)))))
  have f2 : wordField w0 23 16 = d.toNat := by rw [hw]; exact (above 64 6 _ (i.toNat) 23 16 rfl i.isLt).trans ((above 4 2 _ (c.toNat) 17 10 rfl c.isLt).trans ((above 256 8 _ (a.toNat) 15 8 rfl a.isLt).trans (lowest 256 _ (d.toNat) 7 rfl d.isLt)))
  have f3 : wordField w0 15 8 = a.toNat := by rw [hw]; exact (above 64 6 _ (i.toNat) 15 8 rfl i.isLt).trans ((above 4 2 _ (c.toNat) 9 2 rfl c.isLt).trans (lowest 256 _ (a.toNat) 7 rfl a.isLt))
  have f4 : wordField w0 7 6 = c.toNat := by rw [hw]; exact (above 64 6 _ (i.toNat) 7 6 rfl i.isLt).trans (lowest 4 _ (c.toNat) 1 rfl c.isLt)
  have f5 : wordField w0 5 0 = i.toNat := by rw [hw]; exact lowest 64 _ (i.toNat) 5 rfl i.isLt
  have he : encode (.scmpi d a c i) = [w0] := by subst ew; exact rfl
  rw [he]
  refine (major24 f0).trans ?_
  show decodeMajor24 w0 x = _
  simp only [decodeMajor24, f1, f2, f3, f4, f5, BitVec.ofNat_toNat, BitVec.setWidth_eq]
  exact decodedIf_good _ _ hwf

theorem sadd64 (d : BitVec 8) (a : BitVec 8) (b : BitVec 8) : Statement (.sadd64 d a b) := by
  intro hcode hwf x
  clear hcode
  have b0 := d.isLt
  have b1 := a.isLt
  have b2 := b.isLt
  obtain ⟨w0, ew⟩ : ∃ w0, w0 = 0x94000000 + d.toNat * 0x10000 + a.toNat * 0x100 + b.toNat := ⟨_, rfl⟩
  have hw : w0 = (((37 * 4) * 256 + d.toNat) * 256 + a.toNat) * 256 + b.toNat := ew.trans (by clear ew; omega)
  have f0 : wordField w0 31 26 = 37 := by rw [hw]; exact (above 256 8 _ (b.toNat) 31 26 rfl b.isLt).trans ((above 256 8 _ (a.toNat) 23 18 rfl a.isLt).trans ((above 256 8 _ (d.toNat) 15 10 rfl d.isLt).trans ((above_zeros 4 2 _ 7 2 rfl).trans (whole 64 (37) 5 rfl (by decide)))))
  have f1 : wordField w0 25 24 = 0 := by rw [hw]; exact (above 256 8 _ (b.toNat) 25 24 rfl b.isLt).trans ((above 256 8 _ (a.toNat) 17 16 rfl a.isLt).trans ((above 256 8 _ (d.toNat) 9 8 rfl d.isLt).trans (lowest_zeros 4 _ 1 rfl)))
  have f2 : wordField w0 23 16 = d.toNat := by rw [hw]; exact (above 256 8 _ (b.toNat) 23 16 rfl b.isLt).trans ((above 256 8 _ (a.toNat) 15 8 rfl a.isLt).trans (lowest 256 _ (d.toNat) 7 rfl d.isLt))
  have f3 : wordField w0 15 8 = a.toNat := by rw [hw]; exact (above 256 8 _ (b.toNat) 15 8 rfl b.isLt).trans (lowest 256 _ (a.toNat) 7 rfl a.isLt)
  have f4 : wordField w0 7 0 = b.toNat := by rw [hw]; exact lowest 256 _ (b.toNat) 7 rfl b.isLt
  have he : encode (.sadd64 d a b) = [w0] := by subst ew; exact rfl
  rw [he]
  refine (major25 f0).trans ?_
  show decodeMajor25 w0 x = _
  simp only [decodeMajor25, f1, f2, f3, f4, BitVec.ofNat_toNat, BitVec.setWidth_eq]
  exact decodedIf_good _ _ hwf

theorem ssub64 (d : BitVec 8) (a : BitVec 8) (b : BitVec 8) : Statement (.ssub64 d a b) := by
  intro hcode hwf x
  clear hcode
  have b0 := d.isLt
  have b1 := a.isLt
  have b2 := b.isLt
  obtain ⟨w0, ew⟩ : ∃ w0, w0 = 0x95000000 + d.toNat * 0x10000 + a.toNat * 0x100 + b.toNat := ⟨_, rfl⟩
  have hw : w0 = (((37 * 4 + 1) * 256 + d.toNat) * 256 + a.toNat) * 256 + b.toNat := ew.trans (by clear ew; omega)
  have f0 : wordField w0 31 26 = 37 := by rw [hw]; exact (above 256 8 _ (b.toNat) 31 26 rfl b.isLt).trans ((above 256 8 _ (a.toNat) 23 18 rfl a.isLt).trans ((above 256 8 _ (d.toNat) 15 10 rfl d.isLt).trans ((above 4 2 _ (1) 7 2 rfl (by decide)).trans (whole 64 (37) 5 rfl (by decide)))))
  have f1 : wordField w0 25 24 = 1 := by rw [hw]; exact (above 256 8 _ (b.toNat) 25 24 rfl b.isLt).trans ((above 256 8 _ (a.toNat) 17 16 rfl a.isLt).trans ((above 256 8 _ (d.toNat) 9 8 rfl d.isLt).trans (lowest 4 _ (1) 1 rfl (by decide))))
  have f2 : wordField w0 23 16 = d.toNat := by rw [hw]; exact (above 256 8 _ (b.toNat) 23 16 rfl b.isLt).trans ((above 256 8 _ (a.toNat) 15 8 rfl a.isLt).trans (lowest 256 _ (d.toNat) 7 rfl d.isLt))
  have f3 : wordField w0 15 8 = a.toNat := by rw [hw]; exact (above 256 8 _ (b.toNat) 15 8 rfl b.isLt).trans (lowest 256 _ (a.toNat) 7 rfl a.isLt)
  have f4 : wordField w0 7 0 = b.toNat := by rw [hw]; exact lowest 256 _ (b.toNat) 7 rfl b.isLt
  have he : encode (.ssub64 d a b) = [w0] := by subst ew; exact rfl
  rw [he]
  refine (major25 f0).trans ?_
  show decodeMajor25 w0 x = _
  simp only [decodeMajor25, f1, f2, f3, f4, BitVec.ofNat_toNat, BitVec.setWidth_eq]
  exact decodedIf_good _ _ hwf

theorem smul64 (d : BitVec 8) (a : BitVec 8) (b : BitVec 8) : Statement (.smul64 d a b) := by
  intro hcode hwf x
  clear hcode
  have b0 := d.isLt
  have b1 := a.isLt
  have b2 := b.isLt
  obtain ⟨w0, ew⟩ : ∃ w0, w0 = 0x96000000 + d.toNat * 0x10000 + a.toNat * 0x100 + b.toNat := ⟨_, rfl⟩
  have hw : w0 = (((37 * 4 + 2) * 256 + d.toNat) * 256 + a.toNat) * 256 + b.toNat := ew.trans (by clear ew; omega)
  have f0 : wordField w0 31 26 = 37 := by rw [hw]; exact (above 256 8 _ (b.toNat) 31 26 rfl b.isLt).trans ((above 256 8 _ (a.toNat) 23 18 rfl a.isLt).trans ((above 256 8 _ (d.toNat) 15 10 rfl d.isLt).trans ((above 4 2 _ (2) 7 2 rfl (by decide)).trans (whole 64 (37) 5 rfl (by decide)))))
  have f1 : wordField w0 25 24 = 2 := by rw [hw]; exact (above 256 8 _ (b.toNat) 25 24 rfl b.isLt).trans ((above 256 8 _ (a.toNat) 17 16 rfl a.isLt).trans ((above 256 8 _ (d.toNat) 9 8 rfl d.isLt).trans (lowest 4 _ (2) 1 rfl (by decide))))
  have f2 : wordField w0 23 16 = d.toNat := by rw [hw]; exact (above 256 8 _ (b.toNat) 23 16 rfl b.isLt).trans ((above 256 8 _ (a.toNat) 15 8 rfl a.isLt).trans (lowest 256 _ (d.toNat) 7 rfl d.isLt))
  have f3 : wordField w0 15 8 = a.toNat := by rw [hw]; exact (above 256 8 _ (b.toNat) 15 8 rfl b.isLt).trans (lowest 256 _ (a.toNat) 7 rfl a.isLt)
  have f4 : wordField w0 7 0 = b.toNat := by rw [hw]; exact lowest 256 _ (b.toNat) 7 rfl b.isLt
  have he : encode (.smul64 d a b) = [w0] := by subst ew; exact rfl
  rw [he]
  refine (major25 f0).trans ?_
  show decodeMajor25 w0 x = _
  simp only [decodeMajor25, f1, f2, f3, f4, BitVec.ofNat_toNat, BitVec.setWidth_eq]
  exact decodedIf_good _ _ hwf

theorem sshl64 (d : BitVec 8) (a : BitVec 8) (b : BitVec 8) : Statement (.sshl64 d a b) := by
  intro hcode hwf x
  clear hcode
  have b0 := d.isLt
  have b1 := a.isLt
  have b2 := b.isLt
  obtain ⟨w0, ew⟩ : ∃ w0, w0 = 0x97000000 + d.toNat * 0x10000 + a.toNat * 0x100 + b.toNat := ⟨_, rfl⟩
  have hw : w0 = (((37 * 4 + 3) * 256 + d.toNat) * 256 + a.toNat) * 256 + b.toNat := ew.trans (by clear ew; omega)
  have f0 : wordField w0 31 26 = 37 := by rw [hw]; exact (above 256 8 _ (b.toNat) 31 26 rfl b.isLt).trans ((above 256 8 _ (a.toNat) 23 18 rfl a.isLt).trans ((above 256 8 _ (d.toNat) 15 10 rfl d.isLt).trans ((above 4 2 _ (3) 7 2 rfl (by decide)).trans (whole 64 (37) 5 rfl (by decide)))))
  have f1 : wordField w0 25 24 = 3 := by rw [hw]; exact (above 256 8 _ (b.toNat) 25 24 rfl b.isLt).trans ((above 256 8 _ (a.toNat) 17 16 rfl a.isLt).trans ((above 256 8 _ (d.toNat) 9 8 rfl d.isLt).trans (lowest 4 _ (3) 1 rfl (by decide))))
  have f2 : wordField w0 23 16 = d.toNat := by rw [hw]; exact (above 256 8 _ (b.toNat) 23 16 rfl b.isLt).trans ((above 256 8 _ (a.toNat) 15 8 rfl a.isLt).trans (lowest 256 _ (d.toNat) 7 rfl d.isLt))
  have f3 : wordField w0 15 8 = a.toNat := by rw [hw]; exact (above 256 8 _ (b.toNat) 15 8 rfl b.isLt).trans (lowest 256 _ (a.toNat) 7 rfl a.isLt)
  have f4 : wordField w0 7 0 = b.toNat := by rw [hw]; exact lowest 256 _ (b.toNat) 7 rfl b.isLt
  have he : encode (.sshl64 d a b) = [w0] := by subst ew; exact rfl
  rw [he]
  refine (major25 f0).trans ?_
  show decodeMajor25 w0 x = _
  simp only [decodeMajor25, f1, f2, f3, f4, BitVec.ofNat_toNat, BitVec.setWidth_eq]
  exact decodedIf_good _ _ hwf

theorem smin (d : BitVec 8) (a : BitVec 8) (b : BitVec 8) : Statement (.smin d a b) := by
  intro hcode hwf x
  clear hcode
  have b0 := d.isLt
  have b1 := a.isLt
  have b2 := b.isLt
  obtain ⟨w0, ew⟩ : ∃ w0, w0 = 0x98000000 + d.toNat * 0x10000 + a.toNat * 0x100 + b.toNat := ⟨_, rfl⟩
  have hw : w0 = (((38 * 4) * 256 + d.toNat) * 256 + a.toNat) * 256 + b.toNat := ew.trans (by clear ew; omega)
  have f0 : wordField w0 31 26 = 38 := by rw [hw]; exact (above 256 8 _ (b.toNat) 31 26 rfl b.isLt).trans ((above 256 8 _ (a.toNat) 23 18 rfl a.isLt).trans ((above 256 8 _ (d.toNat) 15 10 rfl d.isLt).trans ((above_zeros 4 2 _ 7 2 rfl).trans (whole 64 (38) 5 rfl (by decide)))))
  have f1 : wordField w0 25 24 = 0 := by rw [hw]; exact (above 256 8 _ (b.toNat) 25 24 rfl b.isLt).trans ((above 256 8 _ (a.toNat) 17 16 rfl a.isLt).trans ((above 256 8 _ (d.toNat) 9 8 rfl d.isLt).trans (lowest_zeros 4 _ 1 rfl)))
  have f2 : wordField w0 23 16 = d.toNat := by rw [hw]; exact (above 256 8 _ (b.toNat) 23 16 rfl b.isLt).trans ((above 256 8 _ (a.toNat) 15 8 rfl a.isLt).trans (lowest 256 _ (d.toNat) 7 rfl d.isLt))
  have f3 : wordField w0 15 8 = a.toNat := by rw [hw]; exact (above 256 8 _ (b.toNat) 15 8 rfl b.isLt).trans (lowest 256 _ (a.toNat) 7 rfl a.isLt)
  have f4 : wordField w0 7 0 = b.toNat := by rw [hw]; exact lowest 256 _ (b.toNat) 7 rfl b.isLt
  have he : encode (.smin d a b) = [w0] := by subst ew; exact rfl
  rw [he]
  refine (major26 f0).trans ?_
  show decodeMajor26 w0 x = _
  simp only [decodeMajor26, f1, f2, f3, f4, BitVec.ofNat_toNat, BitVec.setWidth_eq]
  exact decodedIf_good _ _ hwf

theorem smax (d : BitVec 8) (a : BitVec 8) (b : BitVec 8) : Statement (.smax d a b) := by
  intro hcode hwf x
  clear hcode
  have b0 := d.isLt
  have b1 := a.isLt
  have b2 := b.isLt
  obtain ⟨w0, ew⟩ : ∃ w0, w0 = 0x99000000 + d.toNat * 0x10000 + a.toNat * 0x100 + b.toNat := ⟨_, rfl⟩
  have hw : w0 = (((38 * 4 + 1) * 256 + d.toNat) * 256 + a.toNat) * 256 + b.toNat := ew.trans (by clear ew; omega)
  have f0 : wordField w0 31 26 = 38 := by rw [hw]; exact (above 256 8 _ (b.toNat) 31 26 rfl b.isLt).trans ((above 256 8 _ (a.toNat) 23 18 rfl a.isLt).trans ((above 256 8 _ (d.toNat) 15 10 rfl d.isLt).trans ((above 4 2 _ (1) 7 2 rfl (by decide)).trans (whole 64 (38) 5 rfl (by decide)))))
  have f1 : wordField w0 25 24 = 1 := by rw [hw]; exact (above 256 8 _ (b.toNat) 25 24 rfl b.isLt).trans ((above 256 8 _ (a.toNat) 17 16 rfl a.isLt).trans ((above 256 8 _ (d.toNat) 9 8 rfl d.isLt).trans (lowest 4 _ (1) 1 rfl (by decide))))
  have f2 : wordField w0 23 16 = d.toNat := by rw [hw]; exact (above 256 8 _ (b.toNat) 23 16 rfl b.isLt).trans ((above 256 8 _ (a.toNat) 15 8 rfl a.isLt).trans (lowest 256 _ (d.toNat) 7 rfl d.isLt))
  have f3 : wordField w0 15 8 = a.toNat := by rw [hw]; exact (above 256 8 _ (b.toNat) 15 8 rfl b.isLt).trans (lowest 256 _ (a.toNat) 7 rfl a.isLt)
  have f4 : wordField w0 7 0 = b.toNat := by rw [hw]; exact lowest 256 _ (b.toNat) 7 rfl b.isLt
  have he : encode (.smax d a b) = [w0] := by subst ew; exact rfl
  rw [he]
  refine (major26 f0).trans ?_
  show decodeMajor26 w0 x = _
  simp only [decodeMajor26, f1, f2, f3, f4, BitVec.ofNat_toNat, BitVec.setWidth_eq]
  exact decodedIf_good _ _ hwf

theorem spopc (d : BitVec 8) (a : BitVec 8) : Statement (.spopc d a) := by
  intro hcode hwf x
  clear hcode
  have b0 := d.isLt
  have b1 := a.isLt
  obtain ⟨w0, ew⟩ : ∃ w0, w0 = 0x9A000000 + d.toNat * 0x10000 + a.toNat * 0x100 := ⟨_, rfl⟩
  have hw : w0 = (((38 * 4 + 2) * 256 + d.toNat) * 256 + a.toNat) * 256 := ew.trans (by clear ew; omega)
  have f0 : wordField w0 31 26 = 38 := by rw [hw]; exact (above_zeros 256 8 _ 31 26 rfl).trans ((above 256 8 _ (a.toNat) 23 18 rfl a.isLt).trans ((above 256 8 _ (d.toNat) 15 10 rfl d.isLt).trans ((above 4 2 _ (2) 7 2 rfl (by decide)).trans (whole 64 (38) 5 rfl (by decide)))))
  have f1 : wordField w0 25 24 = 2 := by rw [hw]; exact (above_zeros 256 8 _ 25 24 rfl).trans ((above 256 8 _ (a.toNat) 17 16 rfl a.isLt).trans ((above 256 8 _ (d.toNat) 9 8 rfl d.isLt).trans (lowest 4 _ (2) 1 rfl (by decide))))
  have f2 : wordField w0 23 16 = d.toNat := by rw [hw]; exact (above_zeros 256 8 _ 23 16 rfl).trans ((above 256 8 _ (a.toNat) 15 8 rfl a.isLt).trans (lowest 256 _ (d.toNat) 7 rfl d.isLt))
  have f3 : wordField w0 15 8 = a.toNat := by rw [hw]; exact (above_zeros 256 8 _ 15 8 rfl).trans (lowest 256 _ (a.toNat) 7 rfl a.isLt)
  have f4 : wordField w0 7 0 = 0 := by rw [hw]; exact lowest_zeros 256 _ 7 rfl
  have he : encode (.spopc d a) = [w0] := by subst ew; exact rfl
  rw [he]
  refine (major26 f0).trans ?_
  show decodeMajor26 w0 x = _
  simp only [decodeMajor26, f1, f2, f3, f4, BitVec.ofNat_toNat, BitVec.setWidth_eq]
  exact decodedIf_good _ _ hwf

theorem sclz (d : BitVec 8) (a : BitVec 8) : Statement (.sclz d a) := by
  intro hcode hwf x
  clear hcode
  have b0 := d.isLt
  have b1 := a.isLt
  obtain ⟨w0, ew⟩ : ∃ w0, w0 = 0x9B000000 + d.toNat * 0x10000 + a.toNat * 0x100 := ⟨_, rfl⟩
  have hw : w0 = (((38 * 4 + 3) * 256 + d.toNat) * 256 + a.toNat) * 256 := ew.trans (by clear ew; omega)
  have f0 : wordField w0 31 26 = 38 := by rw [hw]; exact (above_zeros 256 8 _ 31 26 rfl).trans ((above 256 8 _ (a.toNat) 23 18 rfl a.isLt).trans ((above 256 8 _ (d.toNat) 15 10 rfl d.isLt).trans ((above 4 2 _ (3) 7 2 rfl (by decide)).trans (whole 64 (38) 5 rfl (by decide)))))
  have f1 : wordField w0 25 24 = 3 := by rw [hw]; exact (above_zeros 256 8 _ 25 24 rfl).trans ((above 256 8 _ (a.toNat) 17 16 rfl a.isLt).trans ((above 256 8 _ (d.toNat) 9 8 rfl d.isLt).trans (lowest 4 _ (3) 1 rfl (by decide))))
  have f2 : wordField w0 23 16 = d.toNat := by rw [hw]; exact (above_zeros 256 8 _ 23 16 rfl).trans ((above 256 8 _ (a.toNat) 15 8 rfl a.isLt).trans (lowest 256 _ (d.toNat) 7 rfl d.isLt))
  have f3 : wordField w0 15 8 = a.toNat := by rw [hw]; exact (above_zeros 256 8 _ 15 8 rfl).trans (lowest 256 _ (a.toNat) 7 rfl a.isLt)
  have f4 : wordField w0 7 0 = 0 := by rw [hw]; exact lowest_zeros 256 _ 7 rfl
  have he : encode (.sclz d a) = [w0] := by subst ew; exact rfl
  rw [he]
  refine (major26 f0).trans ?_
  show decodeMajor26 w0 x = _
  simp only [decodeMajor26, f1, f2, f3, f4, BitVec.ofNat_toNat, BitVec.setWidth_eq]
  exact decodedIf_good _ _ hwf

theorem vget (d : BitVec 8) (a : BitVec 8) (b : BitVec 8) : Statement (.vget d a b) := by
  intro hcode hwf x
  clear hcode
  have b0 := d.isLt
  have b1 := a.isLt
  have b2 := b.isLt
  obtain ⟨w0, ew⟩ : ∃ w0, w0 = 0x9C000000 + d.toNat * 0x10000 + a.toNat * 0x100 + b.toNat := ⟨_, rfl⟩
  have hw : w0 = (((39 * 4) * 256 + d.toNat) * 256 + a.toNat) * 256 + b.toNat := ew.trans (by clear ew; omega)
  have f0 : wordField w0 31 26 = 39 := by rw [hw]; exact (above 256 8 _ (b.toNat) 31 26 rfl b.isLt).trans ((above 256 8 _ (a.toNat) 23 18 rfl a.isLt).trans ((above 256 8 _ (d.toNat) 15 10 rfl d.isLt).trans ((above_zeros 4 2 _ 7 2 rfl).trans (whole 64 (39) 5 rfl (by decide)))))
  have f1 : wordField w0 25 24 = 0 := by rw [hw]; exact (above 256 8 _ (b.toNat) 25 24 rfl b.isLt).trans ((above 256 8 _ (a.toNat) 17 16 rfl a.isLt).trans ((above 256 8 _ (d.toNat) 9 8 rfl d.isLt).trans (lowest_zeros 4 _ 1 rfl)))
  have f2 : wordField w0 23 16 = d.toNat := by rw [hw]; exact (above 256 8 _ (b.toNat) 23 16 rfl b.isLt).trans ((above 256 8 _ (a.toNat) 15 8 rfl a.isLt).trans (lowest 256 _ (d.toNat) 7 rfl d.isLt))
  have f3 : wordField w0 15 8 = a.toNat := by rw [hw]; exact (above 256 8 _ (b.toNat) 15 8 rfl b.isLt).trans (lowest 256 _ (a.toNat) 7 rfl a.isLt)
  have f4 : wordField w0 7 0 = b.toNat := by rw [hw]; exact lowest 256 _ (b.toNat) 7 rfl b.isLt
  have he : encode (.vget d a b) = [w0] := by subst ew; exact rfl
  rw [he]
  refine (major27 f0).trans ?_
  show decodeMajor27 w0 x = _
  simp only [decodeMajor27, f1, f2, f3, f4, BitVec.ofNat_toNat, BitVec.setWidth_eq]
  exact decodedIf_good _ _ hwf

theorem vset (d : BitVec 8) (a : BitVec 8) (b : BitVec 8) : Statement (.vset d a b) := by
  intro hcode hwf x
  clear hcode
  have b0 := d.isLt
  have b1 := a.isLt
  have b2 := b.isLt
  obtain ⟨w0, ew⟩ : ∃ w0, w0 = 0x9D000000 + d.toNat * 0x10000 + a.toNat * 0x100 + b.toNat := ⟨_, rfl⟩
  have hw : w0 = (((39 * 4 + 1) * 256 + d.toNat) * 256 + a.toNat) * 256 + b.toNat := ew.trans (by clear ew; omega)
  have f0 : wordField w0 31 26 = 39 := by rw [hw]; exact (above 256 8 _ (b.toNat) 31 26 rfl b.isLt).trans ((above 256 8 _ (a.toNat) 23 18 rfl a.isLt).trans ((above 256 8 _ (d.toNat) 15 10 rfl d.isLt).trans ((above 4 2 _ (1) 7 2 rfl (by decide)).trans (whole 64 (39) 5 rfl (by decide)))))
  have f1 : wordField w0 25 24 = 1 := by rw [hw]; exact (above 256 8 _ (b.toNat) 25 24 rfl b.isLt).trans ((above 256 8 _ (a.toNat) 17 16 rfl a.isLt).trans ((above 256 8 _ (d.toNat) 9 8 rfl d.isLt).trans (lowest 4 _ (1) 1 rfl (by decide))))
  have f2 : wordField w0 23 16 = d.toNat := by rw [hw]; exact (above 256 8 _ (b.toNat) 23 16 rfl b.isLt).trans ((above 256 8 _ (a.toNat) 15 8 rfl a.isLt).trans (lowest 256 _ (d.toNat) 7 rfl d.isLt))
  have f3 : wordField w0 15 8 = a.toNat := by rw [hw]; exact (above 256 8 _ (b.toNat) 15 8 rfl b.isLt).trans (lowest 256 _ (a.toNat) 7 rfl a.isLt)
  have f4 : wordField w0 7 0 = b.toNat := by rw [hw]; exact lowest 256 _ (b.toNat) 7 rfl b.isLt
  have he : encode (.vset d a b) = [w0] := by subst ew; exact rfl
  rw [he]
  refine (major27 f0).trans ?_
  show decodeMajor27 w0 x = _
  simp only [decodeMajor27, f1, f2, f3, f4, BitVec.ofNat_toNat, BitVec.setWidth_eq]
  exact decodedIf_good _ _ hwf

theorem ktos (d : BitVec 8) (k : BitVec 3) : Statement (.ktos d k) := by
  intro hcode hwf x
  clear hcode
  have b0 := d.isLt
  have b1 := k.isLt
  obtain ⟨w0, ew⟩ : ∃ w0, w0 = 0x9E000000 + d.toNat * 0x10000 + k.toNat * 0x100 := ⟨_, rfl⟩
  have hw : w0 = ((((39 * 4 + 2) * 256 + d.toNat) * 32) * 8 + k.toNat) * 256 := ew.trans (by clear ew; omega)
  have f0 : wordField w0 31 26 = 39 := by rw [hw]; exact (above_zeros 256 8 _ 31 26 rfl).trans ((above 8 3 _ (k.toNat) 23 18 rfl k.isLt).trans ((above_zeros 32 5 _ 20 15 rfl).trans ((above 256 8 _ (d.toNat) 15 10 rfl d.isLt).trans ((above 4 2 _ (2) 7 2 rfl (by decide)).trans (whole 64 (39) 5 rfl (by decide))))))
  have f1 : wordField w0 25 24 = 2 := by rw [hw]; exact (above_zeros 256 8 _ 25 24 rfl).trans ((above 8 3 _ (k.toNat) 17 16 rfl k.isLt).trans ((above_zeros 32 5 _ 14 13 rfl).trans ((above 256 8 _ (d.toNat) 9 8 rfl d.isLt).trans (lowest 4 _ (2) 1 rfl (by decide)))))
  have f2 : wordField w0 23 16 = d.toNat := by rw [hw]; exact (above_zeros 256 8 _ 23 16 rfl).trans ((above 8 3 _ (k.toNat) 15 8 rfl k.isLt).trans ((above_zeros 32 5 _ 12 5 rfl).trans (lowest 256 _ (d.toNat) 7 rfl d.isLt)))
  have f3 : wordField w0 15 11 = 0 := by rw [hw]; exact (above_zeros 256 8 _ 15 11 rfl).trans ((above 8 3 _ (k.toNat) 7 3 rfl k.isLt).trans (lowest_zeros 32 _ 4 rfl))
  have f4 : wordField w0 10 8 = k.toNat := by rw [hw]; exact (above_zeros 256 8 _ 10 8 rfl).trans (lowest 8 _ (k.toNat) 2 rfl k.isLt)
  have f5 : wordField w0 7 0 = 0 := by rw [hw]; exact lowest_zeros 256 _ 7 rfl
  have he : encode (.ktos d k) = [w0] := by subst ew; exact rfl
  rw [he]
  refine (major27 f0).trans ?_
  show decodeMajor27 w0 x = _
  simp only [decodeMajor27, f1, f2, f3, f4, f5, BitVec.ofNat_toNat, BitVec.setWidth_eq]
  exact decodedIf_good _ _ hwf

theorem stok (k : BitVec 3) (a : BitVec 8) : Statement (.stok k a) := by
  intro hcode hwf x
  clear hcode
  have b0 := k.isLt
  have b1 := a.isLt
  obtain ⟨w0, ew⟩ : ∃ w0, w0 = 0x9F000000 + k.toNat * 0x10000 + a.toNat * 0x100 := ⟨_, rfl⟩
  have hw : w0 = ((((39 * 4 + 3) * 32) * 8 + k.toNat) * 256 + a.toNat) * 256 := ew.trans (by clear ew; omega)
  have f0 : wordField w0 31 26 = 39 := by rw [hw]; exact (above_zeros 256 8 _ 31 26 rfl).trans ((above 256 8 _ (a.toNat) 23 18 rfl a.isLt).trans ((above 8 3 _ (k.toNat) 15 10 rfl k.isLt).trans ((above_zeros 32 5 _ 12 7 rfl).trans ((above 4 2 _ (3) 7 2 rfl (by decide)).trans (whole 64 (39) 5 rfl (by decide))))))
  have f1 : wordField w0 25 24 = 3 := by rw [hw]; exact (above_zeros 256 8 _ 25 24 rfl).trans ((above 256 8 _ (a.toNat) 17 16 rfl a.isLt).trans ((above 8 3 _ (k.toNat) 9 8 rfl k.isLt).trans ((above_zeros 32 5 _ 6 5 rfl).trans (lowest 4 _ (3) 1 rfl (by decide)))))
  have f2 : wordField w0 23 19 = 0 := by rw [hw]; exact (above_zeros 256 8 _ 23 19 rfl).trans ((above 256 8 _ (a.toNat) 15 11 rfl a.isLt).trans ((above 8 3 _ (k.toNat) 7 3 rfl k.isLt).trans (lowest_zeros 32 _ 4 rfl)))
  have f3 : wordField w0 18 16 = k.toNat := by rw [hw]; exact (above_zeros 256 8 _ 18 16 rfl).trans ((above 256 8 _ (a.toNat) 10 8 rfl a.isLt).trans (lowest 8 _ (k.toNat) 2 rfl k.isLt))
  have f4 : wordField w0 15 8 = a.toNat := by rw [hw]; exact (above_zeros 256 8 _ 15 8 rfl).trans (lowest 256 _ (a.toNat) 7 rfl a.isLt)
  have f5 : wordField w0 7 0 = 0 := by rw [hw]; exact lowest_zeros 256 _ 7 rfl
  have he : encode (.stok k a) = [w0] := by subst ew; exact rfl
  rw [he]
  refine (major27 f0).trans ?_
  show decodeMajor27 w0 x = _
  simp only [decodeMajor27, f1, f2, f3, f4, f5, BitVec.ofNat_toNat, BitVec.setWidth_eq]
  exact decodedIf_good _ _ hwf

theorem kand (d : BitVec 3) (a : BitVec 3) (b : BitVec 3) : Statement (.kand d a b) := by
  intro hcode hwf x
  clear hcode
  have b0 := d.isLt
  have b1 := a.isLt
  have b2 := b.isLt
  obtain ⟨w0, ew⟩ : ∃ w0, w0 = 0xA0000000 + d.toNat * 0x4000 + a.toNat * 0x80 + b.toNat := ⟨_, rfl⟩
  have hw : w0 = ((((((40 * 32) * 16) * 8 + d.toNat) * 16) * 8 + a.toNat) * 16) * 8 + b.toNat := ew.trans (by clear ew; omega)
  have f0 : wordField w0 31 26 = 40 := by rw [hw]; exact (above 8 3 _ (b.toNat) 31 26 rfl b.isLt).trans ((above_zeros 16 4 _ 28 23 rfl).trans ((above 8 3 _ (a.toNat) 24 19 rfl a.isLt).trans ((above_zeros 16 4 _ 21 16 rfl).trans ((above 8 3 _ (d.toNat) 17 12 rfl d.isLt).trans ((above_zeros 16 4 _ 14 9 rfl).trans ((above_zeros 32 5 _ 10 5 rfl).trans (whole 64 (40) 5 rfl (by decide))))))))
  have f1 : wordField w0 25 21 = 0 := by rw [hw]; exact (above 8 3 _ (b.toNat) 25 21 rfl b.isLt).trans ((above_zeros 16 4 _ 22 18 rfl).trans ((above 8 3 _ (a.toNat) 18 14 rfl a.isLt).trans ((above_zeros 16 4 _ 15 11 rfl).trans ((above 8 3 _ (d.toNat) 11 7 rfl d.isLt).trans ((above_zeros 16 4 _ 8 4 rfl).trans (lowest_zeros 32 _ 4 rfl))))))
  have f2 : wordField w0 20 17 = 0 := by rw [hw]; exact (above 8 3 _ (b.toNat) 20 17 rfl b.isLt).trans ((above_zeros 16 4 _ 17 14 rfl).trans ((above 8 3 _ (a.toNat) 13 10 rfl a.isLt).trans ((above_zeros 16 4 _ 10 7 rfl).trans ((above 8 3 _ (d.toNat) 6 3 rfl d.isLt).trans (lowest_zeros 16 _ 3 rfl)))))
  have f3 : wordField w0 16 14 = d.toNat := by rw [hw]; exact (above 8 3 _ (b.toNat) 16 14 rfl b.isLt).trans ((above_zeros 16 4 _ 13 11 rfl).trans ((above 8 3 _ (a.toNat) 9 7 rfl a.isLt).trans ((above_zeros 16 4 _ 6 4 rfl).trans (lowest 8 _ (d.toNat) 2 rfl d.isLt))))
  have f4 : wordField w0 13 10 = 0 := by rw [hw]; exact (above 8 3 _ (b.toNat) 13 10 rfl b.isLt).trans ((above_zeros 16 4 _ 10 7 rfl).trans ((above 8 3 _ (a.toNat) 6 3 rfl a.isLt).trans (lowest_zeros 16 _ 3 rfl)))
  have f5 : wordField w0 9 7 = a.toNat := by rw [hw]; exact (above 8 3 _ (b.toNat) 9 7 rfl b.isLt).trans ((above_zeros 16 4 _ 6 4 rfl).trans (lowest 8 _ (a.toNat) 2 rfl a.isLt))
  have f6 : wordField w0 6 3 = 0 := by rw [hw]; exact (above 8 3 _ (b.toNat) 6 3 rfl b.isLt).trans (lowest_zeros 16 _ 3 rfl)
  have f7 : wordField w0 2 0 = b.toNat := by rw [hw]; exact lowest 8 _ (b.toNat) 2 rfl b.isLt
  have he : encode (.kand d a b) = [w0] := by subst ew; exact rfl
  rw [he]
  refine (major28 f0).trans ?_
  show decodeMajor28 w0 x = _
  simp only [decodeMajor28, f1, f2, f3, f4, f5, f6, f7, BitVec.ofNat_toNat, BitVec.setWidth_eq]
  exact decodedIf_good _ _ hwf

theorem kor (d : BitVec 3) (a : BitVec 3) (b : BitVec 3) : Statement (.kor d a b) := by
  intro hcode hwf x
  clear hcode
  have b0 := d.isLt
  have b1 := a.isLt
  have b2 := b.isLt
  obtain ⟨w0, ew⟩ : ∃ w0, w0 = 0xA0200000 + d.toNat * 0x4000 + a.toNat * 0x80 + b.toNat := ⟨_, rfl⟩
  have hw : w0 = ((((((40 * 32 + 1) * 16) * 8 + d.toNat) * 16) * 8 + a.toNat) * 16) * 8 + b.toNat := ew.trans (by clear ew; omega)
  have f0 : wordField w0 31 26 = 40 := by rw [hw]; exact (above 8 3 _ (b.toNat) 31 26 rfl b.isLt).trans ((above_zeros 16 4 _ 28 23 rfl).trans ((above 8 3 _ (a.toNat) 24 19 rfl a.isLt).trans ((above_zeros 16 4 _ 21 16 rfl).trans ((above 8 3 _ (d.toNat) 17 12 rfl d.isLt).trans ((above_zeros 16 4 _ 14 9 rfl).trans ((above 32 5 _ (1) 10 5 rfl (by decide)).trans (whole 64 (40) 5 rfl (by decide))))))))
  have f1 : wordField w0 25 21 = 1 := by rw [hw]; exact (above 8 3 _ (b.toNat) 25 21 rfl b.isLt).trans ((above_zeros 16 4 _ 22 18 rfl).trans ((above 8 3 _ (a.toNat) 18 14 rfl a.isLt).trans ((above_zeros 16 4 _ 15 11 rfl).trans ((above 8 3 _ (d.toNat) 11 7 rfl d.isLt).trans ((above_zeros 16 4 _ 8 4 rfl).trans (lowest 32 _ (1) 4 rfl (by decide)))))))
  have f2 : wordField w0 20 17 = 0 := by rw [hw]; exact (above 8 3 _ (b.toNat) 20 17 rfl b.isLt).trans ((above_zeros 16 4 _ 17 14 rfl).trans ((above 8 3 _ (a.toNat) 13 10 rfl a.isLt).trans ((above_zeros 16 4 _ 10 7 rfl).trans ((above 8 3 _ (d.toNat) 6 3 rfl d.isLt).trans (lowest_zeros 16 _ 3 rfl)))))
  have f3 : wordField w0 16 14 = d.toNat := by rw [hw]; exact (above 8 3 _ (b.toNat) 16 14 rfl b.isLt).trans ((above_zeros 16 4 _ 13 11 rfl).trans ((above 8 3 _ (a.toNat) 9 7 rfl a.isLt).trans ((above_zeros 16 4 _ 6 4 rfl).trans (lowest 8 _ (d.toNat) 2 rfl d.isLt))))
  have f4 : wordField w0 13 10 = 0 := by rw [hw]; exact (above 8 3 _ (b.toNat) 13 10 rfl b.isLt).trans ((above_zeros 16 4 _ 10 7 rfl).trans ((above 8 3 _ (a.toNat) 6 3 rfl a.isLt).trans (lowest_zeros 16 _ 3 rfl)))
  have f5 : wordField w0 9 7 = a.toNat := by rw [hw]; exact (above 8 3 _ (b.toNat) 9 7 rfl b.isLt).trans ((above_zeros 16 4 _ 6 4 rfl).trans (lowest 8 _ (a.toNat) 2 rfl a.isLt))
  have f6 : wordField w0 6 3 = 0 := by rw [hw]; exact (above 8 3 _ (b.toNat) 6 3 rfl b.isLt).trans (lowest_zeros 16 _ 3 rfl)
  have f7 : wordField w0 2 0 = b.toNat := by rw [hw]; exact lowest 8 _ (b.toNat) 2 rfl b.isLt
  have he : encode (.kor d a b) = [w0] := by subst ew; exact rfl
  rw [he]
  refine (major28 f0).trans ?_
  show decodeMajor28 w0 x = _
  simp only [decodeMajor28, f1, f2, f3, f4, f5, f6, f7, BitVec.ofNat_toNat, BitVec.setWidth_eq]
  exact decodedIf_good _ _ hwf

theorem kxor (d : BitVec 3) (a : BitVec 3) (b : BitVec 3) : Statement (.kxor d a b) := by
  intro hcode hwf x
  clear hcode
  have b0 := d.isLt
  have b1 := a.isLt
  have b2 := b.isLt
  obtain ⟨w0, ew⟩ : ∃ w0, w0 = 0xA0400000 + d.toNat * 0x4000 + a.toNat * 0x80 + b.toNat := ⟨_, rfl⟩
  have hw : w0 = ((((((40 * 32 + 2) * 16) * 8 + d.toNat) * 16) * 8 + a.toNat) * 16) * 8 + b.toNat := ew.trans (by clear ew; omega)
  have f0 : wordField w0 31 26 = 40 := by rw [hw]; exact (above 8 3 _ (b.toNat) 31 26 rfl b.isLt).trans ((above_zeros 16 4 _ 28 23 rfl).trans ((above 8 3 _ (a.toNat) 24 19 rfl a.isLt).trans ((above_zeros 16 4 _ 21 16 rfl).trans ((above 8 3 _ (d.toNat) 17 12 rfl d.isLt).trans ((above_zeros 16 4 _ 14 9 rfl).trans ((above 32 5 _ (2) 10 5 rfl (by decide)).trans (whole 64 (40) 5 rfl (by decide))))))))
  have f1 : wordField w0 25 21 = 2 := by rw [hw]; exact (above 8 3 _ (b.toNat) 25 21 rfl b.isLt).trans ((above_zeros 16 4 _ 22 18 rfl).trans ((above 8 3 _ (a.toNat) 18 14 rfl a.isLt).trans ((above_zeros 16 4 _ 15 11 rfl).trans ((above 8 3 _ (d.toNat) 11 7 rfl d.isLt).trans ((above_zeros 16 4 _ 8 4 rfl).trans (lowest 32 _ (2) 4 rfl (by decide)))))))
  have f2 : wordField w0 20 17 = 0 := by rw [hw]; exact (above 8 3 _ (b.toNat) 20 17 rfl b.isLt).trans ((above_zeros 16 4 _ 17 14 rfl).trans ((above 8 3 _ (a.toNat) 13 10 rfl a.isLt).trans ((above_zeros 16 4 _ 10 7 rfl).trans ((above 8 3 _ (d.toNat) 6 3 rfl d.isLt).trans (lowest_zeros 16 _ 3 rfl)))))
  have f3 : wordField w0 16 14 = d.toNat := by rw [hw]; exact (above 8 3 _ (b.toNat) 16 14 rfl b.isLt).trans ((above_zeros 16 4 _ 13 11 rfl).trans ((above 8 3 _ (a.toNat) 9 7 rfl a.isLt).trans ((above_zeros 16 4 _ 6 4 rfl).trans (lowest 8 _ (d.toNat) 2 rfl d.isLt))))
  have f4 : wordField w0 13 10 = 0 := by rw [hw]; exact (above 8 3 _ (b.toNat) 13 10 rfl b.isLt).trans ((above_zeros 16 4 _ 10 7 rfl).trans ((above 8 3 _ (a.toNat) 6 3 rfl a.isLt).trans (lowest_zeros 16 _ 3 rfl)))
  have f5 : wordField w0 9 7 = a.toNat := by rw [hw]; exact (above 8 3 _ (b.toNat) 9 7 rfl b.isLt).trans ((above_zeros 16 4 _ 6 4 rfl).trans (lowest 8 _ (a.toNat) 2 rfl a.isLt))
  have f6 : wordField w0 6 3 = 0 := by rw [hw]; exact (above 8 3 _ (b.toNat) 6 3 rfl b.isLt).trans (lowest_zeros 16 _ 3 rfl)
  have f7 : wordField w0 2 0 = b.toNat := by rw [hw]; exact lowest 8 _ (b.toNat) 2 rfl b.isLt
  have he : encode (.kxor d a b) = [w0] := by subst ew; exact rfl
  rw [he]
  refine (major28 f0).trans ?_
  show decodeMajor28 w0 x = _
  simp only [decodeMajor28, f1, f2, f3, f4, f5, f6, f7, BitVec.ofNat_toNat, BitVec.setWidth_eq]
  exact decodedIf_good _ _ hwf

theorem knot (d : BitVec 3) (a : BitVec 3) : Statement (.knot d a) := by
  intro hcode hwf x
  clear hcode
  have b0 := d.isLt
  have b1 := a.isLt
  obtain ⟨w0, ew⟩ : ∃ w0, w0 = 0xA0600000 + d.toNat * 0x4000 + a.toNat * 0x80 := ⟨_, rfl⟩
  have hw : w0 = (((((40 * 32 + 3) * 16) * 8 + d.toNat) * 16) * 8 + a.toNat) * 128 := ew.trans (by clear ew; omega)
  have f0 : wordField w0 31 26 = 40 := by rw [hw]; exact (above_zeros 128 7 _ 31 26 rfl).trans ((above 8 3 _ (a.toNat) 24 19 rfl a.isLt).trans ((above_zeros 16 4 _ 21 16 rfl).trans ((above 8 3 _ (d.toNat) 17 12 rfl d.isLt).trans ((above_zeros 16 4 _ 14 9 rfl).trans ((above 32 5 _ (3) 10 5 rfl (by decide)).trans (whole 64 (40) 5 rfl (by decide)))))))
  have f1 : wordField w0 25 21 = 3 := by rw [hw]; exact (above_zeros 128 7 _ 25 21 rfl).trans ((above 8 3 _ (a.toNat) 18 14 rfl a.isLt).trans ((above_zeros 16 4 _ 15 11 rfl).trans ((above 8 3 _ (d.toNat) 11 7 rfl d.isLt).trans ((above_zeros 16 4 _ 8 4 rfl).trans (lowest 32 _ (3) 4 rfl (by decide))))))
  have f2 : wordField w0 20 17 = 0 := by rw [hw]; exact (above_zeros 128 7 _ 20 17 rfl).trans ((above 8 3 _ (a.toNat) 13 10 rfl a.isLt).trans ((above_zeros 16 4 _ 10 7 rfl).trans ((above 8 3 _ (d.toNat) 6 3 rfl d.isLt).trans (lowest_zeros 16 _ 3 rfl))))
  have f3 : wordField w0 16 14 = d.toNat := by rw [hw]; exact (above_zeros 128 7 _ 16 14 rfl).trans ((above 8 3 _ (a.toNat) 9 7 rfl a.isLt).trans ((above_zeros 16 4 _ 6 4 rfl).trans (lowest 8 _ (d.toNat) 2 rfl d.isLt)))
  have f4 : wordField w0 13 10 = 0 := by rw [hw]; exact (above_zeros 128 7 _ 13 10 rfl).trans ((above 8 3 _ (a.toNat) 6 3 rfl a.isLt).trans (lowest_zeros 16 _ 3 rfl))
  have f5 : wordField w0 9 7 = a.toNat := by rw [hw]; exact (above_zeros 128 7 _ 9 7 rfl).trans (lowest 8 _ (a.toNat) 2 rfl a.isLt)
  have f6 : wordField w0 6 0 = 0 := by rw [hw]; exact lowest_zeros 128 _ 6 rfl
  have he : encode (.knot d a) = [w0] := by subst ew; exact rfl
  rw [he]
  refine (major28 f0).trans ?_
  show decodeMajor28 w0 x = _
  simp only [decodeMajor28, f1, f2, f3, f4, f5, f6, BitVec.ofNat_toNat, BitVec.setWidth_eq]
  exact decodedIf_good _ _ hwf

theorem kmov (d : BitVec 3) (a : BitVec 3) : Statement (.kmov d a) := by
  intro hcode hwf x
  clear hcode
  have b0 := d.isLt
  have b1 := a.isLt
  obtain ⟨w0, ew⟩ : ∃ w0, w0 = 0xA0800000 + d.toNat * 0x4000 + a.toNat * 0x80 := ⟨_, rfl⟩
  have hw : w0 = (((((40 * 32 + 4) * 16) * 8 + d.toNat) * 16) * 8 + a.toNat) * 128 := ew.trans (by clear ew; omega)
  have f0 : wordField w0 31 26 = 40 := by rw [hw]; exact (above_zeros 128 7 _ 31 26 rfl).trans ((above 8 3 _ (a.toNat) 24 19 rfl a.isLt).trans ((above_zeros 16 4 _ 21 16 rfl).trans ((above 8 3 _ (d.toNat) 17 12 rfl d.isLt).trans ((above_zeros 16 4 _ 14 9 rfl).trans ((above 32 5 _ (4) 10 5 rfl (by decide)).trans (whole 64 (40) 5 rfl (by decide)))))))
  have f1 : wordField w0 25 21 = 4 := by rw [hw]; exact (above_zeros 128 7 _ 25 21 rfl).trans ((above 8 3 _ (a.toNat) 18 14 rfl a.isLt).trans ((above_zeros 16 4 _ 15 11 rfl).trans ((above 8 3 _ (d.toNat) 11 7 rfl d.isLt).trans ((above_zeros 16 4 _ 8 4 rfl).trans (lowest 32 _ (4) 4 rfl (by decide))))))
  have f2 : wordField w0 20 17 = 0 := by rw [hw]; exact (above_zeros 128 7 _ 20 17 rfl).trans ((above 8 3 _ (a.toNat) 13 10 rfl a.isLt).trans ((above_zeros 16 4 _ 10 7 rfl).trans ((above 8 3 _ (d.toNat) 6 3 rfl d.isLt).trans (lowest_zeros 16 _ 3 rfl))))
  have f3 : wordField w0 16 14 = d.toNat := by rw [hw]; exact (above_zeros 128 7 _ 16 14 rfl).trans ((above 8 3 _ (a.toNat) 9 7 rfl a.isLt).trans ((above_zeros 16 4 _ 6 4 rfl).trans (lowest 8 _ (d.toNat) 2 rfl d.isLt)))
  have f4 : wordField w0 13 10 = 0 := by rw [hw]; exact (above_zeros 128 7 _ 13 10 rfl).trans ((above 8 3 _ (a.toNat) 6 3 rfl a.isLt).trans (lowest_zeros 16 _ 3 rfl))
  have f5 : wordField w0 9 7 = a.toNat := by rw [hw]; exact (above_zeros 128 7 _ 9 7 rfl).trans (lowest 8 _ (a.toNat) 2 rfl a.isLt)
  have f6 : wordField w0 6 0 = 0 := by rw [hw]; exact lowest_zeros 128 _ 6 rfl
  have he : encode (.kmov d a) = [w0] := by subst ew; exact rfl
  rw [he]
  refine (major28 f0).trans ?_
  show decodeMajor28 w0 x = _
  simp only [decodeMajor28, f1, f2, f3, f4, f5, f6, BitVec.ofNat_toNat, BitVec.setWidth_eq]
  exact decodedIf_good _ _ hwf

theorem ddx (d : BitVec 7) (a : BitVec 7) (lit : BitVec 32) : Statement (.ddx d a lit) := by
  intro hcode hwf x
  clear hcode
  have hl : litOk [a] lit = true := by
    simp only [Instr.wellFormed, Bool.and_eq_true] at hwf
    exact hwf
  have b0 := d.isLt
  have b1 := a.isLt
  obtain ⟨w0, ew⟩ : ∃ w0, w0 = 0xA4000000 + d.toNat * 0x4000 + a.toNat * 0x80 := ⟨_, rfl⟩
  have hw : w0 = (((41 * 32) * 128 + d.toNat) * 128 + a.toNat) * 128 := ew.trans (by clear ew; omega)
  have f0 : wordField w0 31 26 = 41 := by rw [hw]; exact (above_zeros 128 7 _ 31 26 rfl).trans ((above 128 7 _ (a.toNat) 24 19 rfl a.isLt).trans ((above 128 7 _ (d.toNat) 17 12 rfl d.isLt).trans ((above_zeros 32 5 _ 10 5 rfl).trans (whole 64 (41) 5 rfl (by decide)))))
  have f1 : wordField w0 25 21 = 0 := by rw [hw]; exact (above_zeros 128 7 _ 25 21 rfl).trans ((above 128 7 _ (a.toNat) 18 14 rfl a.isLt).trans ((above 128 7 _ (d.toNat) 11 7 rfl d.isLt).trans (lowest_zeros 32 _ 4 rfl)))
  have f2 : wordField w0 20 14 = d.toNat := by rw [hw]; exact (above_zeros 128 7 _ 20 14 rfl).trans ((above 128 7 _ (a.toNat) 13 7 rfl a.isLt).trans (lowest 128 _ (d.toNat) 6 rfl d.isLt))
  have f3 : wordField w0 13 7 = a.toNat := by rw [hw]; exact (above_zeros 128 7 _ 13 7 rfl).trans (lowest 128 _ (a.toNat) 6 rfl a.isLt)
  have f4 : wordField w0 6 0 = 0 := by rw [hw]; exact lowest_zeros 128 _ 6 rfl
  rw [show encode (.ddx d a lit) = withLit w0 [a] lit from ew ▸ rfl, withLit_first]
  rw [major29 f0]
  simp only [decodeMajor29, f1, f2, f3, f4, BitVec.ofNat_toNat, BitVec.setWidth_eq]
  rw [show [a.toNat] = [a].map BitVec.toNat from rfl, litWord_withLit _ _ _ _ hl, litWords_withLit w0 _ lit]
  exact decodedIf_good _ _ hwf

theorem ddxCoarse (d : BitVec 7) (a : BitVec 7) (lit : BitVec 32) : Statement (.ddxCoarse d a lit) := by
  intro hcode hwf x
  clear hcode
  have hl : litOk [a] lit = true := by
    simp only [Instr.wellFormed, Bool.and_eq_true] at hwf
    exact hwf
  have b0 := d.isLt
  have b1 := a.isLt
  obtain ⟨w0, ew⟩ : ∃ w0, w0 = 0xA4200000 + d.toNat * 0x4000 + a.toNat * 0x80 := ⟨_, rfl⟩
  have hw : w0 = (((41 * 32 + 1) * 128 + d.toNat) * 128 + a.toNat) * 128 := ew.trans (by clear ew; omega)
  have f0 : wordField w0 31 26 = 41 := by rw [hw]; exact (above_zeros 128 7 _ 31 26 rfl).trans ((above 128 7 _ (a.toNat) 24 19 rfl a.isLt).trans ((above 128 7 _ (d.toNat) 17 12 rfl d.isLt).trans ((above 32 5 _ (1) 10 5 rfl (by decide)).trans (whole 64 (41) 5 rfl (by decide)))))
  have f1 : wordField w0 25 21 = 1 := by rw [hw]; exact (above_zeros 128 7 _ 25 21 rfl).trans ((above 128 7 _ (a.toNat) 18 14 rfl a.isLt).trans ((above 128 7 _ (d.toNat) 11 7 rfl d.isLt).trans (lowest 32 _ (1) 4 rfl (by decide))))
  have f2 : wordField w0 20 14 = d.toNat := by rw [hw]; exact (above_zeros 128 7 _ 20 14 rfl).trans ((above 128 7 _ (a.toNat) 13 7 rfl a.isLt).trans (lowest 128 _ (d.toNat) 6 rfl d.isLt))
  have f3 : wordField w0 13 7 = a.toNat := by rw [hw]; exact (above_zeros 128 7 _ 13 7 rfl).trans (lowest 128 _ (a.toNat) 6 rfl a.isLt)
  have f4 : wordField w0 6 0 = 0 := by rw [hw]; exact lowest_zeros 128 _ 6 rfl
  rw [show encode (.ddxCoarse d a lit) = withLit w0 [a] lit from ew ▸ rfl, withLit_first]
  rw [major29 f0]
  simp only [decodeMajor29, f1, f2, f3, f4, BitVec.ofNat_toNat, BitVec.setWidth_eq]
  rw [show [a.toNat] = [a].map BitVec.toNat from rfl, litWord_withLit _ _ _ _ hl, litWords_withLit w0 _ lit]
  exact decodedIf_good _ _ hwf

theorem ddy (d : BitVec 7) (a : BitVec 7) (lit : BitVec 32) : Statement (.ddy d a lit) := by
  intro hcode hwf x
  clear hcode
  have hl : litOk [a] lit = true := by
    simp only [Instr.wellFormed, Bool.and_eq_true] at hwf
    exact hwf
  have b0 := d.isLt
  have b1 := a.isLt
  obtain ⟨w0, ew⟩ : ∃ w0, w0 = 0xA4400000 + d.toNat * 0x4000 + a.toNat * 0x80 := ⟨_, rfl⟩
  have hw : w0 = (((41 * 32 + 2) * 128 + d.toNat) * 128 + a.toNat) * 128 := ew.trans (by clear ew; omega)
  have f0 : wordField w0 31 26 = 41 := by rw [hw]; exact (above_zeros 128 7 _ 31 26 rfl).trans ((above 128 7 _ (a.toNat) 24 19 rfl a.isLt).trans ((above 128 7 _ (d.toNat) 17 12 rfl d.isLt).trans ((above 32 5 _ (2) 10 5 rfl (by decide)).trans (whole 64 (41) 5 rfl (by decide)))))
  have f1 : wordField w0 25 21 = 2 := by rw [hw]; exact (above_zeros 128 7 _ 25 21 rfl).trans ((above 128 7 _ (a.toNat) 18 14 rfl a.isLt).trans ((above 128 7 _ (d.toNat) 11 7 rfl d.isLt).trans (lowest 32 _ (2) 4 rfl (by decide))))
  have f2 : wordField w0 20 14 = d.toNat := by rw [hw]; exact (above_zeros 128 7 _ 20 14 rfl).trans ((above 128 7 _ (a.toNat) 13 7 rfl a.isLt).trans (lowest 128 _ (d.toNat) 6 rfl d.isLt))
  have f3 : wordField w0 13 7 = a.toNat := by rw [hw]; exact (above_zeros 128 7 _ 13 7 rfl).trans (lowest 128 _ (a.toNat) 6 rfl a.isLt)
  have f4 : wordField w0 6 0 = 0 := by rw [hw]; exact lowest_zeros 128 _ 6 rfl
  rw [show encode (.ddy d a lit) = withLit w0 [a] lit from ew ▸ rfl, withLit_first]
  rw [major29 f0]
  simp only [decodeMajor29, f1, f2, f3, f4, BitVec.ofNat_toNat, BitVec.setWidth_eq]
  rw [show [a.toNat] = [a].map BitVec.toNat from rfl, litWord_withLit _ _ _ _ hl, litWords_withLit w0 _ lit]
  exact decodedIf_good _ _ hwf

theorem ddyCoarse (d : BitVec 7) (a : BitVec 7) (lit : BitVec 32) : Statement (.ddyCoarse d a lit) := by
  intro hcode hwf x
  clear hcode
  have hl : litOk [a] lit = true := by
    simp only [Instr.wellFormed, Bool.and_eq_true] at hwf
    exact hwf
  have b0 := d.isLt
  have b1 := a.isLt
  obtain ⟨w0, ew⟩ : ∃ w0, w0 = 0xA4600000 + d.toNat * 0x4000 + a.toNat * 0x80 := ⟨_, rfl⟩
  have hw : w0 = (((41 * 32 + 3) * 128 + d.toNat) * 128 + a.toNat) * 128 := ew.trans (by clear ew; omega)
  have f0 : wordField w0 31 26 = 41 := by rw [hw]; exact (above_zeros 128 7 _ 31 26 rfl).trans ((above 128 7 _ (a.toNat) 24 19 rfl a.isLt).trans ((above 128 7 _ (d.toNat) 17 12 rfl d.isLt).trans ((above 32 5 _ (3) 10 5 rfl (by decide)).trans (whole 64 (41) 5 rfl (by decide)))))
  have f1 : wordField w0 25 21 = 3 := by rw [hw]; exact (above_zeros 128 7 _ 25 21 rfl).trans ((above 128 7 _ (a.toNat) 18 14 rfl a.isLt).trans ((above 128 7 _ (d.toNat) 11 7 rfl d.isLt).trans (lowest 32 _ (3) 4 rfl (by decide))))
  have f2 : wordField w0 20 14 = d.toNat := by rw [hw]; exact (above_zeros 128 7 _ 20 14 rfl).trans ((above 128 7 _ (a.toNat) 13 7 rfl a.isLt).trans (lowest 128 _ (d.toNat) 6 rfl d.isLt))
  have f3 : wordField w0 13 7 = a.toNat := by rw [hw]; exact (above_zeros 128 7 _ 13 7 rfl).trans (lowest 128 _ (a.toNat) 6 rfl a.isLt)
  have f4 : wordField w0 6 0 = 0 := by rw [hw]; exact lowest_zeros 128 _ 6 rfl
  rw [show encode (.ddyCoarse d a lit) = withLit w0 [a] lit from ew ▸ rfl, withLit_first]
  rw [major29 f0]
  simp only [decodeMajor29, f1, f2, f3, f4, BitVec.ofNat_toNat, BitVec.setWidth_eq]
  rw [show [a.toNat] = [a].map BitVec.toNat from rfl, litWord_withLit _ _ _ _ hl, litWords_withLit w0 _ lit]
  exact decodedIf_good _ _ hwf

theorem qswap (d : BitVec 7) (a : BitVec 7) (m : BitVec 2) : Statement (.qswap d a m) := by
  intro hcode hwf x
  clear hcode
  have b0 := d.isLt
  have b1 := a.isLt
  have b2 := m.isLt
  obtain ⟨w0, ew⟩ : ∃ w0, w0 = 0xA4800000 + d.toNat * 0x4000 + a.toNat * 0x80 + m.toNat := ⟨_, rfl⟩
  have hw : w0 = ((((41 * 32 + 4) * 128 + d.toNat) * 128 + a.toNat) * 32) * 4 + m.toNat := ew.trans (by clear ew; omega)
  have f0 : wordField w0 31 26 = 41 := by rw [hw]; exact (above 4 2 _ (m.toNat) 31 26 rfl m.isLt).trans ((above_zeros 32 5 _ 29 24 rfl).trans ((above 128 7 _ (a.toNat) 24 19 rfl a.isLt).trans ((above 128 7 _ (d.toNat) 17 12 rfl d.isLt).trans ((above 32 5 _ (4) 10 5 rfl (by decide)).trans (whole 64 (41) 5 rfl (by decide))))))
  have f1 : wordField w0 25 21 = 4 := by rw [hw]; exact (above 4 2 _ (m.toNat) 25 21 rfl m.isLt).trans ((above_zeros 32 5 _ 23 19 rfl).trans ((above 128 7 _ (a.toNat) 18 14 rfl a.isLt).trans ((above 128 7 _ (d.toNat) 11 7 rfl d.isLt).trans (lowest 32 _ (4) 4 rfl (by decide)))))
  have f2 : wordField w0 20 14 = d.toNat := by rw [hw]; exact (above 4 2 _ (m.toNat) 20 14 rfl m.isLt).trans ((above_zeros 32 5 _ 18 12 rfl).trans ((above 128 7 _ (a.toNat) 13 7 rfl a.isLt).trans (lowest 128 _ (d.toNat) 6 rfl d.isLt)))
  have f3 : wordField w0 13 7 = a.toNat := by rw [hw]; exact (above 4 2 _ (m.toNat) 13 7 rfl m.isLt).trans ((above_zeros 32 5 _ 11 5 rfl).trans (lowest 128 _ (a.toNat) 6 rfl a.isLt))
  have f4 : wordField w0 6 2 = 0 := by rw [hw]; exact (above 4 2 _ (m.toNat) 6 2 rfl m.isLt).trans (lowest_zeros 32 _ 4 rfl)
  have f5 : wordField w0 1 0 = m.toNat := by rw [hw]; exact lowest 4 _ (m.toNat) 1 rfl m.isLt
  have he : encode (.qswap d a m) = [w0] := by subst ew; exact rfl
  rw [he]
  refine (major29 f0).trans ?_
  show decodeMajor29 w0 x = _
  simp only [decodeMajor29, f1, f2, f3, f4, f5, BitVec.ofNat_toNat, BitVec.setWidth_eq]
  exact decodedIf_good _ _ hwf

theorem tlbInv (a : BitVec 8) (l : BitVec 1) : Statement (.tlbInv a l) := by
  intro hcode hwf x
  clear hcode
  have b0 := a.isLt
  have b1 := l.isLt
  obtain ⟨w0, ew⟩ : ∃ w0, w0 = 0xA8000000 + a.toNat * 0x2000 + l.toNat := ⟨_, rfl⟩
  have hw : w0 = (((42 * 32) * 256 + a.toNat) * 4096) * 2 + l.toNat := ew.trans (by clear ew; omega)
  have f0 : wordField w0 31 26 = 42 := by rw [hw]; exact (above 2 1 _ (l.toNat) 31 26 rfl l.isLt).trans ((above_zeros 4096 12 _ 30 25 rfl).trans ((above 256 8 _ (a.toNat) 18 13 rfl a.isLt).trans ((above_zeros 32 5 _ 10 5 rfl).trans (whole 64 (42) 5 rfl (by decide)))))
  have f1 : wordField w0 25 21 = 0 := by rw [hw]; exact (above 2 1 _ (l.toNat) 25 21 rfl l.isLt).trans ((above_zeros 4096 12 _ 24 20 rfl).trans ((above 256 8 _ (a.toNat) 12 8 rfl a.isLt).trans (lowest_zeros 32 _ 4 rfl)))
  have f2 : wordField w0 20 13 = a.toNat := by rw [hw]; exact (above 2 1 _ (l.toNat) 20 13 rfl l.isLt).trans ((above_zeros 4096 12 _ 19 12 rfl).trans (lowest 256 _ (a.toNat) 7 rfl a.isLt))
  have f3 : wordField w0 12 1 = 0 := by rw [hw]; exact (above 2 1 _ (l.toNat) 12 1 rfl l.isLt).trans (lowest_zeros 4096 _ 11 rfl)
  have f4 : wordField w0 0 0 = l.toNat := by rw [hw]; exact lowest 2 _ (l.toNat) 0 rfl l.isLt
  have he : encode (.tlbInv a l) = [w0] := by subst ew; exact rfl
  rw [he]
  refine (major2A f0).trans ?_
  show decodeMajor2A w0 x = _
  simp only [decodeMajor2A, f1, f2, f3, f4, BitVec.ofNat_toNat, BitVec.setWidth_eq]
  exact decodedIf_good _ _ hwf

theorem ixuLoad (a : BitVec 8) (s : BitVec 5) : Statement (.ixuLoad a s) := by
  intro hcode hwf x
  clear hcode
  have b0 := a.isLt
  have b1 := s.isLt
  obtain ⟨w0, ew⟩ : ∃ w0, w0 = 0xA8200000 + a.toNat * 0x2000 + s.toNat := ⟨_, rfl⟩
  have hw : w0 = (((42 * 32 + 1) * 256 + a.toNat) * 256) * 32 + s.toNat := ew.trans (by clear ew; omega)
  have f0 : wordField w0 31 26 = 42 := by rw [hw]; exact (above 32 5 _ (s.toNat) 31 26 rfl s.isLt).trans ((above_zeros 256 8 _ 26 21 rfl).trans ((above 256 8 _ (a.toNat) 18 13 rfl a.isLt).trans ((above 32 5 _ (1) 10 5 rfl (by decide)).trans (whole 64 (42) 5 rfl (by decide)))))
  have f1 : wordField w0 25 21 = 1 := by rw [hw]; exact (above 32 5 _ (s.toNat) 25 21 rfl s.isLt).trans ((above_zeros 256 8 _ 20 16 rfl).trans ((above 256 8 _ (a.toNat) 12 8 rfl a.isLt).trans (lowest 32 _ (1) 4 rfl (by decide))))
  have f2 : wordField w0 20 13 = a.toNat := by rw [hw]; exact (above 32 5 _ (s.toNat) 20 13 rfl s.isLt).trans ((above_zeros 256 8 _ 15 8 rfl).trans (lowest 256 _ (a.toNat) 7 rfl a.isLt))
  have f3 : wordField w0 12 5 = 0 := by rw [hw]; exact (above 32 5 _ (s.toNat) 12 5 rfl s.isLt).trans (lowest_zeros 256 _ 7 rfl)
  have f4 : wordField w0 4 0 = s.toNat := by rw [hw]; exact lowest 32 _ (s.toNat) 4 rfl s.isLt
  have he : encode (.ixuLoad a s) = [w0] := by subst ew; exact rfl
  rw [he]
  refine (major2A f0).trans ?_
  show decodeMajor2A w0 x = _
  simp only [decodeMajor2A, f1, f2, f3, f4, BitVec.ofNat_toNat, BitVec.setWidth_eq]
  exact decodedIf_good _ _ hwf

theorem ccFlush : Statement .ccFlush := by
  intro hcode hwf x
  clear hcode
  obtain ⟨w0, ew⟩ : ∃ w0, w0 = 0xA8400000 := ⟨_, rfl⟩
  have f0 : wordField w0 31 26 = 42 := by subst ew; decide
  have f1 : wordField w0 25 21 = 2 := by subst ew; decide
  have f2 : wordField w0 20 0 = 0 := by subst ew; decide
  have he : encode (.ccFlush) = [w0] := by subst ew; exact rfl
  rw [he]
  refine (major2A f0).trans ?_
  show decodeMajor2A w0 x = _
  simp only [decodeMajor2A, f1, f2, BitVec.ofNat_toNat, BitVec.setWidth_eq]
  exact decodedIf_good _ _ hwf

theorem ccInval : Statement .ccInval := by
  intro hcode hwf x
  clear hcode
  obtain ⟨w0, ew⟩ : ∃ w0, w0 = 0xA8600000 := ⟨_, rfl⟩
  have f0 : wordField w0 31 26 = 42 := by subst ew; decide
  have f1 : wordField w0 25 21 = 3 := by subst ew; decide
  have f2 : wordField w0 20 0 = 0 := by subst ew; decide
  have he : encode (.ccInval) = [w0] := by subst ew; exact rfl
  rw [he]
  refine (major2A f0).trans ?_
  show decodeMajor2A w0 x = _
  simp only [decodeMajor2A, f1, f2, BitVec.ofNat_toNat, BitVec.setWidth_eq]
  exact decodedIf_good _ _ hwf

theorem bndSet (a : BitVec 8) : Statement (.bndSet a) := by
  intro hcode hwf x
  clear hcode
  have b0 := a.isLt
  obtain ⟨w0, ew⟩ : ∃ w0, w0 = 0xA8800000 + a.toNat * 0x2000 := ⟨_, rfl⟩
  have hw : w0 = ((42 * 32 + 4) * 256 + a.toNat) * 8192 := ew.trans (by clear ew; omega)
  have f0 : wordField w0 31 26 = 42 := by rw [hw]; exact (above_zeros 8192 13 _ 31 26 rfl).trans ((above 256 8 _ (a.toNat) 18 13 rfl a.isLt).trans ((above 32 5 _ (4) 10 5 rfl (by decide)).trans (whole 64 (42) 5 rfl (by decide))))
  have f1 : wordField w0 25 21 = 4 := by rw [hw]; exact (above_zeros 8192 13 _ 25 21 rfl).trans ((above 256 8 _ (a.toNat) 12 8 rfl a.isLt).trans (lowest 32 _ (4) 4 rfl (by decide)))
  have f2 : wordField w0 20 13 = a.toNat := by rw [hw]; exact (above_zeros 8192 13 _ 20 13 rfl).trans (lowest 256 _ (a.toNat) 7 rfl a.isLt)
  have f3 : wordField w0 12 0 = 0 := by rw [hw]; exact lowest_zeros 8192 _ 12 rfl
  have he : encode (.bndSet a) = [w0] := by subst ew; exact rfl
  rw [he]
  refine (major2A f0).trans ?_
  show decodeMajor2A w0 x = _
  simp only [decodeMajor2A, f1, f2, f3, BitVec.ofNat_toNat, BitVec.setWidth_eq]
  exact decodedIf_good _ _ hwf

theorem ldcU8 (d : BitVec 7) (i : BitVec 7) (x : BitVec 1) (b : BitVec 8) (lit : BitVec 32) : Statement (.ldcU8 d i x b lit) := by
  intro hcode hwf nx
  clear hcode
  have hl : litOk [i] lit = true := by
    simp only [Instr.wellFormed, Bool.and_eq_true] at hwf
    exact hwf
  have b0 := d.isLt
  have b1 := i.isLt
  have b2 := x.isLt
  have b3 := b.isLt
  obtain ⟨w0, ew⟩ : ∃ w0, w0 = 0xC0000000 + d.toNat * 0x10000 + i.toNat * 0x200 + x.toNat * 0x100 + b.toNat := ⟨_, rfl⟩
  have hw : w0 = ((((48 * 8) * 128 + d.toNat) * 128 + i.toNat) * 2 + x.toNat) * 256 + b.toNat := ew.trans (by clear ew; omega)
  have f0 : wordField w0 31 26 = 48 := by rw [hw]; exact (above 256 8 _ (b.toNat) 31 26 rfl b.isLt).trans ((above 2 1 _ (x.toNat) 23 18 rfl x.isLt).trans ((above 128 7 _ (i.toNat) 22 17 rfl i.isLt).trans ((above 128 7 _ (d.toNat) 15 10 rfl d.isLt).trans ((above_zeros 8 3 _ 8 3 rfl).trans (whole 64 (48) 5 rfl (by decide))))))
  have f1 : wordField w0 25 23 = 0 := by rw [hw]; exact (above 256 8 _ (b.toNat) 25 23 rfl b.isLt).trans ((above 2 1 _ (x.toNat) 17 15 rfl x.isLt).trans ((above 128 7 _ (i.toNat) 16 14 rfl i.isLt).trans ((above 128 7 _ (d.toNat) 9 7 rfl d.isLt).trans (lowest_zeros 8 _ 2 rfl))))
  have f2 : wordField w0 22 16 = d.toNat := by rw [hw]; exact (above 256 8 _ (b.toNat) 22 16 rfl b.isLt).trans ((above 2 1 _ (x.toNat) 14 8 rfl x.isLt).trans ((above 128 7 _ (i.toNat) 13 7 rfl i.isLt).trans (lowest 128 _ (d.toNat) 6 rfl d.isLt)))
  have f3 : wordField w0 15 9 = i.toNat := by rw [hw]; exact (above 256 8 _ (b.toNat) 15 9 rfl b.isLt).trans ((above 2 1 _ (x.toNat) 7 1 rfl x.isLt).trans (lowest 128 _ (i.toNat) 6 rfl i.isLt))
  have f4 : wordField w0 8 8 = x.toNat := by rw [hw]; exact (above 256 8 _ (b.toNat) 8 8 rfl b.isLt).trans (lowest 2 _ (x.toNat) 0 rfl x.isLt)
  have f5 : wordField w0 7 0 = b.toNat := by rw [hw]; exact lowest 256 _ (b.toNat) 7 rfl b.isLt
  rw [show encode (.ldcU8 d i x b lit) = withLit w0 [i] lit from ew ▸ rfl, withLit_first]
  rw [major30 f0]
  simp only [decodeMajor30, f1, f2, f3, f4, f5, BitVec.ofNat_toNat, BitVec.setWidth_eq]
  rw [show [i.toNat] = [i].map BitVec.toNat from rfl, litWord_withLit _ _ _ _ hl, litWords_withLit w0 _ lit]
  exact decodedIf_good _ _ hwf

theorem ldcS8 (d : BitVec 7) (i : BitVec 7) (x : BitVec 1) (b : BitVec 8) (lit : BitVec 32) : Statement (.ldcS8 d i x b lit) := by
  intro hcode hwf nx
  clear hcode
  have hl : litOk [i] lit = true := by
    simp only [Instr.wellFormed, Bool.and_eq_true] at hwf
    exact hwf
  have b0 := d.isLt
  have b1 := i.isLt
  have b2 := x.isLt
  have b3 := b.isLt
  obtain ⟨w0, ew⟩ : ∃ w0, w0 = 0xC0800000 + d.toNat * 0x10000 + i.toNat * 0x200 + x.toNat * 0x100 + b.toNat := ⟨_, rfl⟩
  have hw : w0 = ((((48 * 8 + 1) * 128 + d.toNat) * 128 + i.toNat) * 2 + x.toNat) * 256 + b.toNat := ew.trans (by clear ew; omega)
  have f0 : wordField w0 31 26 = 48 := by rw [hw]; exact (above 256 8 _ (b.toNat) 31 26 rfl b.isLt).trans ((above 2 1 _ (x.toNat) 23 18 rfl x.isLt).trans ((above 128 7 _ (i.toNat) 22 17 rfl i.isLt).trans ((above 128 7 _ (d.toNat) 15 10 rfl d.isLt).trans ((above 8 3 _ (1) 8 3 rfl (by decide)).trans (whole 64 (48) 5 rfl (by decide))))))
  have f1 : wordField w0 25 23 = 1 := by rw [hw]; exact (above 256 8 _ (b.toNat) 25 23 rfl b.isLt).trans ((above 2 1 _ (x.toNat) 17 15 rfl x.isLt).trans ((above 128 7 _ (i.toNat) 16 14 rfl i.isLt).trans ((above 128 7 _ (d.toNat) 9 7 rfl d.isLt).trans (lowest 8 _ (1) 2 rfl (by decide)))))
  have f2 : wordField w0 22 16 = d.toNat := by rw [hw]; exact (above 256 8 _ (b.toNat) 22 16 rfl b.isLt).trans ((above 2 1 _ (x.toNat) 14 8 rfl x.isLt).trans ((above 128 7 _ (i.toNat) 13 7 rfl i.isLt).trans (lowest 128 _ (d.toNat) 6 rfl d.isLt)))
  have f3 : wordField w0 15 9 = i.toNat := by rw [hw]; exact (above 256 8 _ (b.toNat) 15 9 rfl b.isLt).trans ((above 2 1 _ (x.toNat) 7 1 rfl x.isLt).trans (lowest 128 _ (i.toNat) 6 rfl i.isLt))
  have f4 : wordField w0 8 8 = x.toNat := by rw [hw]; exact (above 256 8 _ (b.toNat) 8 8 rfl b.isLt).trans (lowest 2 _ (x.toNat) 0 rfl x.isLt)
  have f5 : wordField w0 7 0 = b.toNat := by rw [hw]; exact lowest 256 _ (b.toNat) 7 rfl b.isLt
  rw [show encode (.ldcS8 d i x b lit) = withLit w0 [i] lit from ew ▸ rfl, withLit_first]
  rw [major30 f0]
  simp only [decodeMajor30, f1, f2, f3, f4, f5, BitVec.ofNat_toNat, BitVec.setWidth_eq]
  rw [show [i.toNat] = [i].map BitVec.toNat from rfl, litWord_withLit _ _ _ _ hl, litWords_withLit w0 _ lit]
  exact decodedIf_good _ _ hwf

theorem ldcU16 (d : BitVec 7) (i : BitVec 7) (x : BitVec 1) (b : BitVec 8) (lit : BitVec 32) : Statement (.ldcU16 d i x b lit) := by
  intro hcode hwf nx
  clear hcode
  have hl : litOk [i] lit = true := by
    simp only [Instr.wellFormed, Bool.and_eq_true] at hwf
    exact hwf
  have b0 := d.isLt
  have b1 := i.isLt
  have b2 := x.isLt
  have b3 := b.isLt
  obtain ⟨w0, ew⟩ : ∃ w0, w0 = 0xC1000000 + d.toNat * 0x10000 + i.toNat * 0x200 + x.toNat * 0x100 + b.toNat := ⟨_, rfl⟩
  have hw : w0 = ((((48 * 8 + 2) * 128 + d.toNat) * 128 + i.toNat) * 2 + x.toNat) * 256 + b.toNat := ew.trans (by clear ew; omega)
  have f0 : wordField w0 31 26 = 48 := by rw [hw]; exact (above 256 8 _ (b.toNat) 31 26 rfl b.isLt).trans ((above 2 1 _ (x.toNat) 23 18 rfl x.isLt).trans ((above 128 7 _ (i.toNat) 22 17 rfl i.isLt).trans ((above 128 7 _ (d.toNat) 15 10 rfl d.isLt).trans ((above 8 3 _ (2) 8 3 rfl (by decide)).trans (whole 64 (48) 5 rfl (by decide))))))
  have f1 : wordField w0 25 23 = 2 := by rw [hw]; exact (above 256 8 _ (b.toNat) 25 23 rfl b.isLt).trans ((above 2 1 _ (x.toNat) 17 15 rfl x.isLt).trans ((above 128 7 _ (i.toNat) 16 14 rfl i.isLt).trans ((above 128 7 _ (d.toNat) 9 7 rfl d.isLt).trans (lowest 8 _ (2) 2 rfl (by decide)))))
  have f2 : wordField w0 22 16 = d.toNat := by rw [hw]; exact (above 256 8 _ (b.toNat) 22 16 rfl b.isLt).trans ((above 2 1 _ (x.toNat) 14 8 rfl x.isLt).trans ((above 128 7 _ (i.toNat) 13 7 rfl i.isLt).trans (lowest 128 _ (d.toNat) 6 rfl d.isLt)))
  have f3 : wordField w0 15 9 = i.toNat := by rw [hw]; exact (above 256 8 _ (b.toNat) 15 9 rfl b.isLt).trans ((above 2 1 _ (x.toNat) 7 1 rfl x.isLt).trans (lowest 128 _ (i.toNat) 6 rfl i.isLt))
  have f4 : wordField w0 8 8 = x.toNat := by rw [hw]; exact (above 256 8 _ (b.toNat) 8 8 rfl b.isLt).trans (lowest 2 _ (x.toNat) 0 rfl x.isLt)
  have f5 : wordField w0 7 0 = b.toNat := by rw [hw]; exact lowest 256 _ (b.toNat) 7 rfl b.isLt
  rw [show encode (.ldcU16 d i x b lit) = withLit w0 [i] lit from ew ▸ rfl, withLit_first]
  rw [major30 f0]
  simp only [decodeMajor30, f1, f2, f3, f4, f5, BitVec.ofNat_toNat, BitVec.setWidth_eq]
  rw [show [i.toNat] = [i].map BitVec.toNat from rfl, litWord_withLit _ _ _ _ hl, litWords_withLit w0 _ lit]
  exact decodedIf_good _ _ hwf

theorem ldcS16 (d : BitVec 7) (i : BitVec 7) (x : BitVec 1) (b : BitVec 8) (lit : BitVec 32) : Statement (.ldcS16 d i x b lit) := by
  intro hcode hwf nx
  clear hcode
  have hl : litOk [i] lit = true := by
    simp only [Instr.wellFormed, Bool.and_eq_true] at hwf
    exact hwf
  have b0 := d.isLt
  have b1 := i.isLt
  have b2 := x.isLt
  have b3 := b.isLt
  obtain ⟨w0, ew⟩ : ∃ w0, w0 = 0xC1800000 + d.toNat * 0x10000 + i.toNat * 0x200 + x.toNat * 0x100 + b.toNat := ⟨_, rfl⟩
  have hw : w0 = ((((48 * 8 + 3) * 128 + d.toNat) * 128 + i.toNat) * 2 + x.toNat) * 256 + b.toNat := ew.trans (by clear ew; omega)
  have f0 : wordField w0 31 26 = 48 := by rw [hw]; exact (above 256 8 _ (b.toNat) 31 26 rfl b.isLt).trans ((above 2 1 _ (x.toNat) 23 18 rfl x.isLt).trans ((above 128 7 _ (i.toNat) 22 17 rfl i.isLt).trans ((above 128 7 _ (d.toNat) 15 10 rfl d.isLt).trans ((above 8 3 _ (3) 8 3 rfl (by decide)).trans (whole 64 (48) 5 rfl (by decide))))))
  have f1 : wordField w0 25 23 = 3 := by rw [hw]; exact (above 256 8 _ (b.toNat) 25 23 rfl b.isLt).trans ((above 2 1 _ (x.toNat) 17 15 rfl x.isLt).trans ((above 128 7 _ (i.toNat) 16 14 rfl i.isLt).trans ((above 128 7 _ (d.toNat) 9 7 rfl d.isLt).trans (lowest 8 _ (3) 2 rfl (by decide)))))
  have f2 : wordField w0 22 16 = d.toNat := by rw [hw]; exact (above 256 8 _ (b.toNat) 22 16 rfl b.isLt).trans ((above 2 1 _ (x.toNat) 14 8 rfl x.isLt).trans ((above 128 7 _ (i.toNat) 13 7 rfl i.isLt).trans (lowest 128 _ (d.toNat) 6 rfl d.isLt)))
  have f3 : wordField w0 15 9 = i.toNat := by rw [hw]; exact (above 256 8 _ (b.toNat) 15 9 rfl b.isLt).trans ((above 2 1 _ (x.toNat) 7 1 rfl x.isLt).trans (lowest 128 _ (i.toNat) 6 rfl i.isLt))
  have f4 : wordField w0 8 8 = x.toNat := by rw [hw]; exact (above 256 8 _ (b.toNat) 8 8 rfl b.isLt).trans (lowest 2 _ (x.toNat) 0 rfl x.isLt)
  have f5 : wordField w0 7 0 = b.toNat := by rw [hw]; exact lowest 256 _ (b.toNat) 7 rfl b.isLt
  rw [show encode (.ldcS16 d i x b lit) = withLit w0 [i] lit from ew ▸ rfl, withLit_first]
  rw [major30 f0]
  simp only [decodeMajor30, f1, f2, f3, f4, f5, BitVec.ofNat_toNat, BitVec.setWidth_eq]
  rw [show [i.toNat] = [i].map BitVec.toNat from rfl, litWord_withLit _ _ _ _ hl, litWords_withLit w0 _ lit]
  exact decodedIf_good _ _ hwf

theorem ldc (d : BitVec 7) (i : BitVec 7) (x : BitVec 1) (b : BitVec 8) (lit : BitVec 32) : Statement (.ldc d i x b lit) := by
  intro hcode hwf nx
  clear hcode
  have hl : litOk [i] lit = true := by
    simp only [Instr.wellFormed, Bool.and_eq_true] at hwf
    exact hwf
  have b0 := d.isLt
  have b1 := i.isLt
  have b2 := x.isLt
  have b3 := b.isLt
  obtain ⟨w0, ew⟩ : ∃ w0, w0 = 0xC2000000 + d.toNat * 0x10000 + i.toNat * 0x200 + x.toNat * 0x100 + b.toNat := ⟨_, rfl⟩
  have hw : w0 = ((((48 * 8 + 4) * 128 + d.toNat) * 128 + i.toNat) * 2 + x.toNat) * 256 + b.toNat := ew.trans (by clear ew; omega)
  have f0 : wordField w0 31 26 = 48 := by rw [hw]; exact (above 256 8 _ (b.toNat) 31 26 rfl b.isLt).trans ((above 2 1 _ (x.toNat) 23 18 rfl x.isLt).trans ((above 128 7 _ (i.toNat) 22 17 rfl i.isLt).trans ((above 128 7 _ (d.toNat) 15 10 rfl d.isLt).trans ((above 8 3 _ (4) 8 3 rfl (by decide)).trans (whole 64 (48) 5 rfl (by decide))))))
  have f1 : wordField w0 25 23 = 4 := by rw [hw]; exact (above 256 8 _ (b.toNat) 25 23 rfl b.isLt).trans ((above 2 1 _ (x.toNat) 17 15 rfl x.isLt).trans ((above 128 7 _ (i.toNat) 16 14 rfl i.isLt).trans ((above 128 7 _ (d.toNat) 9 7 rfl d.isLt).trans (lowest 8 _ (4) 2 rfl (by decide)))))
  have f2 : wordField w0 22 16 = d.toNat := by rw [hw]; exact (above 256 8 _ (b.toNat) 22 16 rfl b.isLt).trans ((above 2 1 _ (x.toNat) 14 8 rfl x.isLt).trans ((above 128 7 _ (i.toNat) 13 7 rfl i.isLt).trans (lowest 128 _ (d.toNat) 6 rfl d.isLt)))
  have f3 : wordField w0 15 9 = i.toNat := by rw [hw]; exact (above 256 8 _ (b.toNat) 15 9 rfl b.isLt).trans ((above 2 1 _ (x.toNat) 7 1 rfl x.isLt).trans (lowest 128 _ (i.toNat) 6 rfl i.isLt))
  have f4 : wordField w0 8 8 = x.toNat := by rw [hw]; exact (above 256 8 _ (b.toNat) 8 8 rfl b.isLt).trans (lowest 2 _ (x.toNat) 0 rfl x.isLt)
  have f5 : wordField w0 7 0 = b.toNat := by rw [hw]; exact lowest 256 _ (b.toNat) 7 rfl b.isLt
  rw [show encode (.ldc d i x b lit) = withLit w0 [i] lit from ew ▸ rfl, withLit_first]
  rw [major30 f0]
  simp only [decodeMajor30, f1, f2, f3, f4, f5, BitVec.ofNat_toNat, BitVec.setWidth_eq]
  rw [show [i.toNat] = [i].map BitVec.toNat from rfl, litWord_withLit _ _ _ _ hl, litWords_withLit w0 _ lit]
  exact decodedIf_good _ _ hwf

theorem ldc64 (d : BitVec 7) (i : BitVec 7) (x : BitVec 1) (b : BitVec 8) (lit : BitVec 32) : Statement (.ldc64 d i x b lit) := by
  intro hcode hwf nx
  clear hcode
  have hl : litOk [i] lit = true := by
    simp only [Instr.wellFormed, Bool.and_eq_true] at hwf
    exact hwf
  have b0 := d.isLt
  have b1 := i.isLt
  have b2 := x.isLt
  have b3 := b.isLt
  obtain ⟨w0, ew⟩ : ∃ w0, w0 = 0xC2800000 + d.toNat * 0x10000 + i.toNat * 0x200 + x.toNat * 0x100 + b.toNat := ⟨_, rfl⟩
  have hw : w0 = ((((48 * 8 + 5) * 128 + d.toNat) * 128 + i.toNat) * 2 + x.toNat) * 256 + b.toNat := ew.trans (by clear ew; omega)
  have f0 : wordField w0 31 26 = 48 := by rw [hw]; exact (above 256 8 _ (b.toNat) 31 26 rfl b.isLt).trans ((above 2 1 _ (x.toNat) 23 18 rfl x.isLt).trans ((above 128 7 _ (i.toNat) 22 17 rfl i.isLt).trans ((above 128 7 _ (d.toNat) 15 10 rfl d.isLt).trans ((above 8 3 _ (5) 8 3 rfl (by decide)).trans (whole 64 (48) 5 rfl (by decide))))))
  have f1 : wordField w0 25 23 = 5 := by rw [hw]; exact (above 256 8 _ (b.toNat) 25 23 rfl b.isLt).trans ((above 2 1 _ (x.toNat) 17 15 rfl x.isLt).trans ((above 128 7 _ (i.toNat) 16 14 rfl i.isLt).trans ((above 128 7 _ (d.toNat) 9 7 rfl d.isLt).trans (lowest 8 _ (5) 2 rfl (by decide)))))
  have f2 : wordField w0 22 16 = d.toNat := by rw [hw]; exact (above 256 8 _ (b.toNat) 22 16 rfl b.isLt).trans ((above 2 1 _ (x.toNat) 14 8 rfl x.isLt).trans ((above 128 7 _ (i.toNat) 13 7 rfl i.isLt).trans (lowest 128 _ (d.toNat) 6 rfl d.isLt)))
  have f3 : wordField w0 15 9 = i.toNat := by rw [hw]; exact (above 256 8 _ (b.toNat) 15 9 rfl b.isLt).trans ((above 2 1 _ (x.toNat) 7 1 rfl x.isLt).trans (lowest 128 _ (i.toNat) 6 rfl i.isLt))
  have f4 : wordField w0 8 8 = x.toNat := by rw [hw]; exact (above 256 8 _ (b.toNat) 8 8 rfl b.isLt).trans (lowest 2 _ (x.toNat) 0 rfl x.isLt)
  have f5 : wordField w0 7 0 = b.toNat := by rw [hw]; exact lowest 256 _ (b.toNat) 7 rfl b.isLt
  rw [show encode (.ldc64 d i x b lit) = withLit w0 [i] lit from ew ▸ rfl, withLit_first]
  rw [major30 f0]
  simp only [decodeMajor30, f1, f2, f3, f4, f5, BitVec.ofNat_toNat, BitVec.setWidth_eq]
  rw [show [i.toNat] = [i].map BitVec.toNat from rfl, litWord_withLit _ _ _ _ hl, litWords_withLit w0 _ lit]
  exact decodedIf_good _ _ hwf

theorem ldcBc (d : BitVec 7) (i : BitVec 7) (x : BitVec 1) (b : BitVec 8) (lit : BitVec 32) : Statement (.ldcBc d i x b lit) := by
  intro hcode hwf nx
  clear hcode
  have hl : litOk [i] lit = true := by
    simp only [Instr.wellFormed, Bool.and_eq_true] at hwf
    exact hwf
  have b0 := d.isLt
  have b1 := i.isLt
  have b2 := x.isLt
  have b3 := b.isLt
  obtain ⟨w0, ew⟩ : ∃ w0, w0 = 0xC3000000 + d.toNat * 0x10000 + i.toNat * 0x200 + x.toNat * 0x100 + b.toNat := ⟨_, rfl⟩
  have hw : w0 = ((((48 * 8 + 6) * 128 + d.toNat) * 128 + i.toNat) * 2 + x.toNat) * 256 + b.toNat := ew.trans (by clear ew; omega)
  have f0 : wordField w0 31 26 = 48 := by rw [hw]; exact (above 256 8 _ (b.toNat) 31 26 rfl b.isLt).trans ((above 2 1 _ (x.toNat) 23 18 rfl x.isLt).trans ((above 128 7 _ (i.toNat) 22 17 rfl i.isLt).trans ((above 128 7 _ (d.toNat) 15 10 rfl d.isLt).trans ((above 8 3 _ (6) 8 3 rfl (by decide)).trans (whole 64 (48) 5 rfl (by decide))))))
  have f1 : wordField w0 25 23 = 6 := by rw [hw]; exact (above 256 8 _ (b.toNat) 25 23 rfl b.isLt).trans ((above 2 1 _ (x.toNat) 17 15 rfl x.isLt).trans ((above 128 7 _ (i.toNat) 16 14 rfl i.isLt).trans ((above 128 7 _ (d.toNat) 9 7 rfl d.isLt).trans (lowest 8 _ (6) 2 rfl (by decide)))))
  have f2 : wordField w0 22 16 = d.toNat := by rw [hw]; exact (above 256 8 _ (b.toNat) 22 16 rfl b.isLt).trans ((above 2 1 _ (x.toNat) 14 8 rfl x.isLt).trans ((above 128 7 _ (i.toNat) 13 7 rfl i.isLt).trans (lowest 128 _ (d.toNat) 6 rfl d.isLt)))
  have f3 : wordField w0 15 9 = i.toNat := by rw [hw]; exact (above 256 8 _ (b.toNat) 15 9 rfl b.isLt).trans ((above 2 1 _ (x.toNat) 7 1 rfl x.isLt).trans (lowest 128 _ (i.toNat) 6 rfl i.isLt))
  have f4 : wordField w0 8 8 = x.toNat := by rw [hw]; exact (above 256 8 _ (b.toNat) 8 8 rfl b.isLt).trans (lowest 2 _ (x.toNat) 0 rfl x.isLt)
  have f5 : wordField w0 7 0 = b.toNat := by rw [hw]; exact lowest 256 _ (b.toNat) 7 rfl b.isLt
  rw [show encode (.ldcBc d i x b lit) = withLit w0 [i] lit from ew ▸ rfl, withLit_first]
  rw [major30 f0]
  simp only [decodeMajor30, f1, f2, f3, f4, f5, BitVec.ofNat_toNat, BitVec.setWidth_eq]
  rw [show [i.toNat] = [i].map BitVec.toNat from rfl, litWord_withLit _ _ _ _ hl, litWords_withLit w0 _ lit]
  exact decodedIf_good _ _ hwf

theorem ldcOrdered (d : BitVec 7) (i : BitVec 7) (x : BitVec 1) (b : BitVec 8) (sc : BitVec 3) (od : BitVec 2) (sz : BitVec 3) : Statement (.ldcOrdered d i x b sc od sz) := by
  intro hcode hwf nx
  clear hcode
  have b0 := d.isLt
  have b1 := i.isLt
  have b2 := x.isLt
  have b3 := b.isLt
  have b4 := sc.isLt
  have b5 := od.isLt
  have b6 := sz.isLt
  obtain ⟨w0, ew⟩ : ∃ w0, w0 = 0xC3800000 + d.toNat * 0x10000 + i.toNat * 0x200 + x.toNat * 0x100 + b.toNat := ⟨_, rfl⟩
  have hw : w0 = ((((48 * 8 + 7) * 128 + d.toNat) * 128 + i.toNat) * 2 + x.toNat) * 256 + b.toNat := ew.trans (by clear ew; omega)
  obtain ⟨w1, ev⟩ : ∃ w1, w1 = sc.toNat * 0x2000 + od.toNat * 0x800 + sz.toNat * 0x100 := ⟨_, rfl⟩
  have hv : w1 = (((0 * 8 + sc.toNat) * 4 + od.toNat) * 8 + sz.toNat) * 256 := ev.trans (by clear ew ev; omega)
  have f0 : wordField w0 31 26 = 48 := by rw [hw]; exact (above 256 8 _ (b.toNat) 31 26 rfl b.isLt).trans ((above 2 1 _ (x.toNat) 23 18 rfl x.isLt).trans ((above 128 7 _ (i.toNat) 22 17 rfl i.isLt).trans ((above 128 7 _ (d.toNat) 15 10 rfl d.isLt).trans ((above 8 3 _ (7) 8 3 rfl (by decide)).trans (whole 64 (48) 5 rfl (by decide))))))
  have f1 : wordField w0 25 23 = 7 := by rw [hw]; exact (above 256 8 _ (b.toNat) 25 23 rfl b.isLt).trans ((above 2 1 _ (x.toNat) 17 15 rfl x.isLt).trans ((above 128 7 _ (i.toNat) 16 14 rfl i.isLt).trans ((above 128 7 _ (d.toNat) 9 7 rfl d.isLt).trans (lowest 8 _ (7) 2 rfl (by decide)))))
  have f2 : wordField w0 22 16 = d.toNat := by rw [hw]; exact (above 256 8 _ (b.toNat) 22 16 rfl b.isLt).trans ((above 2 1 _ (x.toNat) 14 8 rfl x.isLt).trans ((above 128 7 _ (i.toNat) 13 7 rfl i.isLt).trans (lowest 128 _ (d.toNat) 6 rfl d.isLt)))
  have f3 : wordField w0 15 9 = i.toNat := by rw [hw]; exact (above 256 8 _ (b.toNat) 15 9 rfl b.isLt).trans ((above 2 1 _ (x.toNat) 7 1 rfl x.isLt).trans (lowest 128 _ (i.toNat) 6 rfl i.isLt))
  have f4 : wordField w0 8 8 = x.toNat := by rw [hw]; exact (above 256 8 _ (b.toNat) 8 8 rfl b.isLt).trans (lowest 2 _ (x.toNat) 0 rfl x.isLt)
  have f5 : wordField w0 7 0 = b.toNat := by rw [hw]; exact lowest 256 _ (b.toNat) 7 rfl b.isLt
  have f6 : wordField w1 31 16 = 0 := by rw [hv]; exact (above_zeros 256 8 _ 31 16 rfl).trans ((above 8 3 _ (sz.toNat) 23 8 rfl sz.isLt).trans ((above 4 2 _ (od.toNat) 20 5 rfl od.isLt).trans ((above 8 3 _ (sc.toNat) 18 3 rfl sc.isLt).trans (whole 65536 (0) 15 rfl (by decide)))))
  have f7 : wordField w1 15 13 = sc.toNat := by rw [hv]; exact (above_zeros 256 8 _ 15 13 rfl).trans ((above 8 3 _ (sz.toNat) 7 5 rfl sz.isLt).trans ((above 4 2 _ (od.toNat) 4 2 rfl od.isLt).trans (lowest 8 _ (sc.toNat) 2 rfl sc.isLt)))
  have f8 : wordField w1 12 11 = od.toNat := by rw [hv]; exact (above_zeros 256 8 _ 12 11 rfl).trans ((above 8 3 _ (sz.toNat) 4 3 rfl sz.isLt).trans (lowest 4 _ (od.toNat) 1 rfl od.isLt))
  have f9 : wordField w1 10 8 = sz.toNat := by rw [hv]; exact (above_zeros 256 8 _ 10 8 rfl).trans (lowest 8 _ (sz.toNat) 2 rfl sz.isLt)
  have f10 : wordField w1 7 0 = 0 := by rw [hv]; exact lowest_zeros 256 _ 7 rfl
  have he : encode (.ldcOrdered d i x b sc od sz) = [w0, w1] := by subst ew ev; exact rfl
  rw [he]
  refine (major30 f0).trans ?_
  show decodeMajor30 w0 w1 = _
  simp only [decodeMajor30, f1, f2, f3, f4, f5, f6, f7, f8, f9, f10, BitVec.ofNat_toNat, BitVec.setWidth_eq]
  exact decodedIf_good _ _ hwf

theorem stc8 (s : BitVec 7) (i : BitVec 7) (x : BitVec 1) (b : BitVec 8) (lit : BitVec 32) : Statement (.stc8 s i x b lit) := by
  intro hcode hwf nx
  clear hcode
  have hl : litOk [s, i] lit = true := by
    simp only [Instr.wellFormed, Bool.and_eq_true] at hwf
    exact hwf
  have b0 := s.isLt
  have b1 := i.isLt
  have b2 := x.isLt
  have b3 := b.isLt
  obtain ⟨w0, ew⟩ : ∃ w0, w0 = 0xC4000000 + s.toNat * 0x10000 + i.toNat * 0x200 + x.toNat * 0x100 + b.toNat := ⟨_, rfl⟩
  have hw : w0 = ((((49 * 8) * 128 + s.toNat) * 128 + i.toNat) * 2 + x.toNat) * 256 + b.toNat := ew.trans (by clear ew; omega)
  have f0 : wordField w0 31 26 = 49 := by rw [hw]; exact (above 256 8 _ (b.toNat) 31 26 rfl b.isLt).trans ((above 2 1 _ (x.toNat) 23 18 rfl x.isLt).trans ((above 128 7 _ (i.toNat) 22 17 rfl i.isLt).trans ((above 128 7 _ (s.toNat) 15 10 rfl s.isLt).trans ((above_zeros 8 3 _ 8 3 rfl).trans (whole 64 (49) 5 rfl (by decide))))))
  have f1 : wordField w0 25 23 = 0 := by rw [hw]; exact (above 256 8 _ (b.toNat) 25 23 rfl b.isLt).trans ((above 2 1 _ (x.toNat) 17 15 rfl x.isLt).trans ((above 128 7 _ (i.toNat) 16 14 rfl i.isLt).trans ((above 128 7 _ (s.toNat) 9 7 rfl s.isLt).trans (lowest_zeros 8 _ 2 rfl))))
  have f2 : wordField w0 22 16 = s.toNat := by rw [hw]; exact (above 256 8 _ (b.toNat) 22 16 rfl b.isLt).trans ((above 2 1 _ (x.toNat) 14 8 rfl x.isLt).trans ((above 128 7 _ (i.toNat) 13 7 rfl i.isLt).trans (lowest 128 _ (s.toNat) 6 rfl s.isLt)))
  have f3 : wordField w0 15 9 = i.toNat := by rw [hw]; exact (above 256 8 _ (b.toNat) 15 9 rfl b.isLt).trans ((above 2 1 _ (x.toNat) 7 1 rfl x.isLt).trans (lowest 128 _ (i.toNat) 6 rfl i.isLt))
  have f4 : wordField w0 8 8 = x.toNat := by rw [hw]; exact (above 256 8 _ (b.toNat) 8 8 rfl b.isLt).trans (lowest 2 _ (x.toNat) 0 rfl x.isLt)
  have f5 : wordField w0 7 0 = b.toNat := by rw [hw]; exact lowest 256 _ (b.toNat) 7 rfl b.isLt
  rw [show encode (.stc8 s i x b lit) = withLit w0 [s, i] lit from ew ▸ rfl, withLit_first]
  rw [major31 f0]
  simp only [decodeMajor31, f1, f2, f3, f4, f5, BitVec.ofNat_toNat, BitVec.setWidth_eq]
  rw [show [s.toNat, i.toNat] = [s, i].map BitVec.toNat from rfl, litWord_withLit _ _ _ _ hl, litWords_withLit w0 _ lit]
  exact decodedIf_good _ _ hwf

theorem stc16 (s : BitVec 7) (i : BitVec 7) (x : BitVec 1) (b : BitVec 8) (lit : BitVec 32) : Statement (.stc16 s i x b lit) := by
  intro hcode hwf nx
  clear hcode
  have hl : litOk [s, i] lit = true := by
    simp only [Instr.wellFormed, Bool.and_eq_true] at hwf
    exact hwf
  have b0 := s.isLt
  have b1 := i.isLt
  have b2 := x.isLt
  have b3 := b.isLt
  obtain ⟨w0, ew⟩ : ∃ w0, w0 = 0xC4800000 + s.toNat * 0x10000 + i.toNat * 0x200 + x.toNat * 0x100 + b.toNat := ⟨_, rfl⟩
  have hw : w0 = ((((49 * 8 + 1) * 128 + s.toNat) * 128 + i.toNat) * 2 + x.toNat) * 256 + b.toNat := ew.trans (by clear ew; omega)
  have f0 : wordField w0 31 26 = 49 := by rw [hw]; exact (above 256 8 _ (b.toNat) 31 26 rfl b.isLt).trans ((above 2 1 _ (x.toNat) 23 18 rfl x.isLt).trans ((above 128 7 _ (i.toNat) 22 17 rfl i.isLt).trans ((above 128 7 _ (s.toNat) 15 10 rfl s.isLt).trans ((above 8 3 _ (1) 8 3 rfl (by decide)).trans (whole 64 (49) 5 rfl (by decide))))))
  have f1 : wordField w0 25 23 = 1 := by rw [hw]; exact (above 256 8 _ (b.toNat) 25 23 rfl b.isLt).trans ((above 2 1 _ (x.toNat) 17 15 rfl x.isLt).trans ((above 128 7 _ (i.toNat) 16 14 rfl i.isLt).trans ((above 128 7 _ (s.toNat) 9 7 rfl s.isLt).trans (lowest 8 _ (1) 2 rfl (by decide)))))
  have f2 : wordField w0 22 16 = s.toNat := by rw [hw]; exact (above 256 8 _ (b.toNat) 22 16 rfl b.isLt).trans ((above 2 1 _ (x.toNat) 14 8 rfl x.isLt).trans ((above 128 7 _ (i.toNat) 13 7 rfl i.isLt).trans (lowest 128 _ (s.toNat) 6 rfl s.isLt)))
  have f3 : wordField w0 15 9 = i.toNat := by rw [hw]; exact (above 256 8 _ (b.toNat) 15 9 rfl b.isLt).trans ((above 2 1 _ (x.toNat) 7 1 rfl x.isLt).trans (lowest 128 _ (i.toNat) 6 rfl i.isLt))
  have f4 : wordField w0 8 8 = x.toNat := by rw [hw]; exact (above 256 8 _ (b.toNat) 8 8 rfl b.isLt).trans (lowest 2 _ (x.toNat) 0 rfl x.isLt)
  have f5 : wordField w0 7 0 = b.toNat := by rw [hw]; exact lowest 256 _ (b.toNat) 7 rfl b.isLt
  rw [show encode (.stc16 s i x b lit) = withLit w0 [s, i] lit from ew ▸ rfl, withLit_first]
  rw [major31 f0]
  simp only [decodeMajor31, f1, f2, f3, f4, f5, BitVec.ofNat_toNat, BitVec.setWidth_eq]
  rw [show [s.toNat, i.toNat] = [s, i].map BitVec.toNat from rfl, litWord_withLit _ _ _ _ hl, litWords_withLit w0 _ lit]
  exact decodedIf_good _ _ hwf

theorem stc (s : BitVec 7) (i : BitVec 7) (x : BitVec 1) (b : BitVec 8) (lit : BitVec 32) : Statement (.stc s i x b lit) := by
  intro hcode hwf nx
  clear hcode
  have hl : litOk [s, i] lit = true := by
    simp only [Instr.wellFormed, Bool.and_eq_true] at hwf
    exact hwf
  have b0 := s.isLt
  have b1 := i.isLt
  have b2 := x.isLt
  have b3 := b.isLt
  obtain ⟨w0, ew⟩ : ∃ w0, w0 = 0xC5000000 + s.toNat * 0x10000 + i.toNat * 0x200 + x.toNat * 0x100 + b.toNat := ⟨_, rfl⟩
  have hw : w0 = ((((49 * 8 + 2) * 128 + s.toNat) * 128 + i.toNat) * 2 + x.toNat) * 256 + b.toNat := ew.trans (by clear ew; omega)
  have f0 : wordField w0 31 26 = 49 := by rw [hw]; exact (above 256 8 _ (b.toNat) 31 26 rfl b.isLt).trans ((above 2 1 _ (x.toNat) 23 18 rfl x.isLt).trans ((above 128 7 _ (i.toNat) 22 17 rfl i.isLt).trans ((above 128 7 _ (s.toNat) 15 10 rfl s.isLt).trans ((above 8 3 _ (2) 8 3 rfl (by decide)).trans (whole 64 (49) 5 rfl (by decide))))))
  have f1 : wordField w0 25 23 = 2 := by rw [hw]; exact (above 256 8 _ (b.toNat) 25 23 rfl b.isLt).trans ((above 2 1 _ (x.toNat) 17 15 rfl x.isLt).trans ((above 128 7 _ (i.toNat) 16 14 rfl i.isLt).trans ((above 128 7 _ (s.toNat) 9 7 rfl s.isLt).trans (lowest 8 _ (2) 2 rfl (by decide)))))
  have f2 : wordField w0 22 16 = s.toNat := by rw [hw]; exact (above 256 8 _ (b.toNat) 22 16 rfl b.isLt).trans ((above 2 1 _ (x.toNat) 14 8 rfl x.isLt).trans ((above 128 7 _ (i.toNat) 13 7 rfl i.isLt).trans (lowest 128 _ (s.toNat) 6 rfl s.isLt)))
  have f3 : wordField w0 15 9 = i.toNat := by rw [hw]; exact (above 256 8 _ (b.toNat) 15 9 rfl b.isLt).trans ((above 2 1 _ (x.toNat) 7 1 rfl x.isLt).trans (lowest 128 _ (i.toNat) 6 rfl i.isLt))
  have f4 : wordField w0 8 8 = x.toNat := by rw [hw]; exact (above 256 8 _ (b.toNat) 8 8 rfl b.isLt).trans (lowest 2 _ (x.toNat) 0 rfl x.isLt)
  have f5 : wordField w0 7 0 = b.toNat := by rw [hw]; exact lowest 256 _ (b.toNat) 7 rfl b.isLt
  rw [show encode (.stc s i x b lit) = withLit w0 [s, i] lit from ew ▸ rfl, withLit_first]
  rw [major31 f0]
  simp only [decodeMajor31, f1, f2, f3, f4, f5, BitVec.ofNat_toNat, BitVec.setWidth_eq]
  rw [show [s.toNat, i.toNat] = [s, i].map BitVec.toNat from rfl, litWord_withLit _ _ _ _ hl, litWords_withLit w0 _ lit]
  exact decodedIf_good _ _ hwf

theorem stc64 (s : BitVec 7) (i : BitVec 7) (x : BitVec 1) (b : BitVec 8) (lit : BitVec 32) : Statement (.stc64 s i x b lit) := by
  intro hcode hwf nx
  clear hcode
  have hl : litOk [s, i] lit = true := by
    simp only [Instr.wellFormed, Bool.and_eq_true] at hwf
    exact hwf
  have b0 := s.isLt
  have b1 := i.isLt
  have b2 := x.isLt
  have b3 := b.isLt
  obtain ⟨w0, ew⟩ : ∃ w0, w0 = 0xC5800000 + s.toNat * 0x10000 + i.toNat * 0x200 + x.toNat * 0x100 + b.toNat := ⟨_, rfl⟩
  have hw : w0 = ((((49 * 8 + 3) * 128 + s.toNat) * 128 + i.toNat) * 2 + x.toNat) * 256 + b.toNat := ew.trans (by clear ew; omega)
  have f0 : wordField w0 31 26 = 49 := by rw [hw]; exact (above 256 8 _ (b.toNat) 31 26 rfl b.isLt).trans ((above 2 1 _ (x.toNat) 23 18 rfl x.isLt).trans ((above 128 7 _ (i.toNat) 22 17 rfl i.isLt).trans ((above 128 7 _ (s.toNat) 15 10 rfl s.isLt).trans ((above 8 3 _ (3) 8 3 rfl (by decide)).trans (whole 64 (49) 5 rfl (by decide))))))
  have f1 : wordField w0 25 23 = 3 := by rw [hw]; exact (above 256 8 _ (b.toNat) 25 23 rfl b.isLt).trans ((above 2 1 _ (x.toNat) 17 15 rfl x.isLt).trans ((above 128 7 _ (i.toNat) 16 14 rfl i.isLt).trans ((above 128 7 _ (s.toNat) 9 7 rfl s.isLt).trans (lowest 8 _ (3) 2 rfl (by decide)))))
  have f2 : wordField w0 22 16 = s.toNat := by rw [hw]; exact (above 256 8 _ (b.toNat) 22 16 rfl b.isLt).trans ((above 2 1 _ (x.toNat) 14 8 rfl x.isLt).trans ((above 128 7 _ (i.toNat) 13 7 rfl i.isLt).trans (lowest 128 _ (s.toNat) 6 rfl s.isLt)))
  have f3 : wordField w0 15 9 = i.toNat := by rw [hw]; exact (above 256 8 _ (b.toNat) 15 9 rfl b.isLt).trans ((above 2 1 _ (x.toNat) 7 1 rfl x.isLt).trans (lowest 128 _ (i.toNat) 6 rfl i.isLt))
  have f4 : wordField w0 8 8 = x.toNat := by rw [hw]; exact (above 256 8 _ (b.toNat) 8 8 rfl b.isLt).trans (lowest 2 _ (x.toNat) 0 rfl x.isLt)
  have f5 : wordField w0 7 0 = b.toNat := by rw [hw]; exact lowest 256 _ (b.toNat) 7 rfl b.isLt
  rw [show encode (.stc64 s i x b lit) = withLit w0 [s, i] lit from ew ▸ rfl, withLit_first]
  rw [major31 f0]
  simp only [decodeMajor31, f1, f2, f3, f4, f5, BitVec.ofNat_toNat, BitVec.setWidth_eq]
  rw [show [s.toNat, i.toNat] = [s, i].map BitVec.toNat from rfl, litWord_withLit _ _ _ _ hl, litWords_withLit w0 _ lit]
  exact decodedIf_good _ _ hwf

theorem stcOrdered (s : BitVec 7) (i : BitVec 7) (x : BitVec 1) (b : BitVec 8) (sc : BitVec 3) (od : BitVec 2) (sz : BitVec 3) : Statement (.stcOrdered s i x b sc od sz) := by
  intro hcode hwf nx
  clear hcode
  have b0 := s.isLt
  have b1 := i.isLt
  have b2 := x.isLt
  have b3 := b.isLt
  have b4 := sc.isLt
  have b5 := od.isLt
  have b6 := sz.isLt
  obtain ⟨w0, ew⟩ : ∃ w0, w0 = 0xC7800000 + s.toNat * 0x10000 + i.toNat * 0x200 + x.toNat * 0x100 + b.toNat := ⟨_, rfl⟩
  have hw : w0 = ((((49 * 8 + 7) * 128 + s.toNat) * 128 + i.toNat) * 2 + x.toNat) * 256 + b.toNat := ew.trans (by clear ew; omega)
  obtain ⟨w1, ev⟩ : ∃ w1, w1 = sc.toNat * 0x2000 + od.toNat * 0x800 + sz.toNat * 0x100 := ⟨_, rfl⟩
  have hv : w1 = (((0 * 8 + sc.toNat) * 4 + od.toNat) * 8 + sz.toNat) * 256 := ev.trans (by clear ew ev; omega)
  have f0 : wordField w0 31 26 = 49 := by rw [hw]; exact (above 256 8 _ (b.toNat) 31 26 rfl b.isLt).trans ((above 2 1 _ (x.toNat) 23 18 rfl x.isLt).trans ((above 128 7 _ (i.toNat) 22 17 rfl i.isLt).trans ((above 128 7 _ (s.toNat) 15 10 rfl s.isLt).trans ((above 8 3 _ (7) 8 3 rfl (by decide)).trans (whole 64 (49) 5 rfl (by decide))))))
  have f1 : wordField w0 25 23 = 7 := by rw [hw]; exact (above 256 8 _ (b.toNat) 25 23 rfl b.isLt).trans ((above 2 1 _ (x.toNat) 17 15 rfl x.isLt).trans ((above 128 7 _ (i.toNat) 16 14 rfl i.isLt).trans ((above 128 7 _ (s.toNat) 9 7 rfl s.isLt).trans (lowest 8 _ (7) 2 rfl (by decide)))))
  have f2 : wordField w0 22 16 = s.toNat := by rw [hw]; exact (above 256 8 _ (b.toNat) 22 16 rfl b.isLt).trans ((above 2 1 _ (x.toNat) 14 8 rfl x.isLt).trans ((above 128 7 _ (i.toNat) 13 7 rfl i.isLt).trans (lowest 128 _ (s.toNat) 6 rfl s.isLt)))
  have f3 : wordField w0 15 9 = i.toNat := by rw [hw]; exact (above 256 8 _ (b.toNat) 15 9 rfl b.isLt).trans ((above 2 1 _ (x.toNat) 7 1 rfl x.isLt).trans (lowest 128 _ (i.toNat) 6 rfl i.isLt))
  have f4 : wordField w0 8 8 = x.toNat := by rw [hw]; exact (above 256 8 _ (b.toNat) 8 8 rfl b.isLt).trans (lowest 2 _ (x.toNat) 0 rfl x.isLt)
  have f5 : wordField w0 7 0 = b.toNat := by rw [hw]; exact lowest 256 _ (b.toNat) 7 rfl b.isLt
  have f6 : wordField w1 31 16 = 0 := by rw [hv]; exact (above_zeros 256 8 _ 31 16 rfl).trans ((above 8 3 _ (sz.toNat) 23 8 rfl sz.isLt).trans ((above 4 2 _ (od.toNat) 20 5 rfl od.isLt).trans ((above 8 3 _ (sc.toNat) 18 3 rfl sc.isLt).trans (whole 65536 (0) 15 rfl (by decide)))))
  have f7 : wordField w1 15 13 = sc.toNat := by rw [hv]; exact (above_zeros 256 8 _ 15 13 rfl).trans ((above 8 3 _ (sz.toNat) 7 5 rfl sz.isLt).trans ((above 4 2 _ (od.toNat) 4 2 rfl od.isLt).trans (lowest 8 _ (sc.toNat) 2 rfl sc.isLt)))
  have f8 : wordField w1 12 11 = od.toNat := by rw [hv]; exact (above_zeros 256 8 _ 12 11 rfl).trans ((above 8 3 _ (sz.toNat) 4 3 rfl sz.isLt).trans (lowest 4 _ (od.toNat) 1 rfl od.isLt))
  have f9 : wordField w1 10 8 = sz.toNat := by rw [hv]; exact (above_zeros 256 8 _ 10 8 rfl).trans (lowest 8 _ (sz.toNat) 2 rfl sz.isLt)
  have f10 : wordField w1 7 0 = 0 := by rw [hv]; exact lowest_zeros 256 _ 7 rfl
  have he : encode (.stcOrdered s i x b sc od sz) = [w0, w1] := by subst ew ev; exact rfl
  rw [he]
  refine (major31 f0).trans ?_
  show decodeMajor31 w0 w1 = _
  simp only [decodeMajor31, f1, f2, f3, f4, f5, f6, f7, f8, f9, f10, BitVec.ofNat_toNat, BitVec.setWidth_eq]
  exact decodedIf_good _ _ hwf

theorem ldp (d : BitVec 7) (i : BitVec 7) (b : BitVec 8) (lit : BitVec 32) : Statement (.ldp d i b lit) := by
  intro hcode hwf x
  clear hcode
  have hl : litOk [i] lit = true := by
    simp only [Instr.wellFormed, Bool.and_eq_true] at hwf
    exact hwf
  have b0 := d.isLt
  have b1 := i.isLt
  have b2 := b.isLt
  obtain ⟨w0, ew⟩ : ∃ w0, w0 = 0xC8000000 + d.toNat * 0x10000 + i.toNat * 0x200 + b.toNat := ⟨_, rfl⟩
  have hw : w0 = ((((50 * 8) * 128 + d.toNat) * 128 + i.toNat) * 2) * 256 + b.toNat := ew.trans (by clear ew; omega)
  have f0 : wordField w0 31 26 = 50 := by rw [hw]; exact (above 256 8 _ (b.toNat) 31 26 rfl b.isLt).trans ((above_zeros 2 1 _ 23 18 rfl).trans ((above 128 7 _ (i.toNat) 22 17 rfl i.isLt).trans ((above 128 7 _ (d.toNat) 15 10 rfl d.isLt).trans ((above_zeros 8 3 _ 8 3 rfl).trans (whole 64 (50) 5 rfl (by decide))))))
  have f1 : wordField w0 25 23 = 0 := by rw [hw]; exact (above 256 8 _ (b.toNat) 25 23 rfl b.isLt).trans ((above_zeros 2 1 _ 17 15 rfl).trans ((above 128 7 _ (i.toNat) 16 14 rfl i.isLt).trans ((above 128 7 _ (d.toNat) 9 7 rfl d.isLt).trans (lowest_zeros 8 _ 2 rfl))))
  have f2 : wordField w0 22 16 = d.toNat := by rw [hw]; exact (above 256 8 _ (b.toNat) 22 16 rfl b.isLt).trans ((above_zeros 2 1 _ 14 8 rfl).trans ((above 128 7 _ (i.toNat) 13 7 rfl i.isLt).trans (lowest 128 _ (d.toNat) 6 rfl d.isLt)))
  have f3 : wordField w0 15 9 = i.toNat := by rw [hw]; exact (above 256 8 _ (b.toNat) 15 9 rfl b.isLt).trans ((above_zeros 2 1 _ 7 1 rfl).trans (lowest 128 _ (i.toNat) 6 rfl i.isLt))
  have f4 : wordField w0 8 8 = 0 := by rw [hw]; exact (above 256 8 _ (b.toNat) 8 8 rfl b.isLt).trans (lowest_zeros 2 _ 0 rfl)
  have f5 : wordField w0 7 0 = b.toNat := by rw [hw]; exact lowest 256 _ (b.toNat) 7 rfl b.isLt
  rw [show encode (.ldp d i b lit) = withLit w0 [i] lit from ew ▸ rfl, withLit_first]
  rw [major32 f0]
  simp only [decodeMajor32, f1, f2, f3, f4, f5, BitVec.ofNat_toNat, BitVec.setWidth_eq]
  rw [show [i.toNat] = [i].map BitVec.toNat from rfl, litWord_withLit _ _ _ _ hl, litWords_withLit w0 _ lit]
  exact decodedIf_good _ _ hwf

theorem stp (s : BitVec 7) (i : BitVec 7) (b : BitVec 8) (lit : BitVec 32) : Statement (.stp s i b lit) := by
  intro hcode hwf x
  clear hcode
  have hl : litOk [s, i] lit = true := by
    simp only [Instr.wellFormed, Bool.and_eq_true] at hwf
    exact hwf
  have b0 := s.isLt
  have b1 := i.isLt
  have b2 := b.isLt
  obtain ⟨w0, ew⟩ : ∃ w0, w0 = 0xC8800000 + s.toNat * 0x10000 + i.toNat * 0x200 + b.toNat := ⟨_, rfl⟩
  have hw : w0 = ((((50 * 8 + 1) * 128 + s.toNat) * 128 + i.toNat) * 2) * 256 + b.toNat := ew.trans (by clear ew; omega)
  have f0 : wordField w0 31 26 = 50 := by rw [hw]; exact (above 256 8 _ (b.toNat) 31 26 rfl b.isLt).trans ((above_zeros 2 1 _ 23 18 rfl).trans ((above 128 7 _ (i.toNat) 22 17 rfl i.isLt).trans ((above 128 7 _ (s.toNat) 15 10 rfl s.isLt).trans ((above 8 3 _ (1) 8 3 rfl (by decide)).trans (whole 64 (50) 5 rfl (by decide))))))
  have f1 : wordField w0 25 23 = 1 := by rw [hw]; exact (above 256 8 _ (b.toNat) 25 23 rfl b.isLt).trans ((above_zeros 2 1 _ 17 15 rfl).trans ((above 128 7 _ (i.toNat) 16 14 rfl i.isLt).trans ((above 128 7 _ (s.toNat) 9 7 rfl s.isLt).trans (lowest 8 _ (1) 2 rfl (by decide)))))
  have f2 : wordField w0 22 16 = s.toNat := by rw [hw]; exact (above 256 8 _ (b.toNat) 22 16 rfl b.isLt).trans ((above_zeros 2 1 _ 14 8 rfl).trans ((above 128 7 _ (i.toNat) 13 7 rfl i.isLt).trans (lowest 128 _ (s.toNat) 6 rfl s.isLt)))
  have f3 : wordField w0 15 9 = i.toNat := by rw [hw]; exact (above 256 8 _ (b.toNat) 15 9 rfl b.isLt).trans ((above_zeros 2 1 _ 7 1 rfl).trans (lowest 128 _ (i.toNat) 6 rfl i.isLt))
  have f4 : wordField w0 8 8 = 0 := by rw [hw]; exact (above 256 8 _ (b.toNat) 8 8 rfl b.isLt).trans (lowest_zeros 2 _ 0 rfl)
  have f5 : wordField w0 7 0 = b.toNat := by rw [hw]; exact lowest 256 _ (b.toNat) 7 rfl b.isLt
  rw [show encode (.stp s i b lit) = withLit w0 [s, i] lit from ew ▸ rfl, withLit_first]
  rw [major32 f0]
  simp only [decodeMajor32, f1, f2, f3, f4, f5, BitVec.ofNat_toNat, BitVec.setWidth_eq]
  rw [show [s.toNat, i.toNat] = [s, i].map BitVec.toNat from rfl, litWord_withLit _ _ _ _ hl, litWords_withLit w0 _ lit]
  exact decodedIf_good _ _ hwf

theorem gld (d : BitVec 7) (i : BitVec 7) (x : BitVec 1) (b : BitVec 8) (lit : BitVec 32) : Statement (.gld d i x b lit) := by
  intro hcode hwf nx
  clear hcode
  have hl : litOk [i] lit = true := by
    simp only [Instr.wellFormed, Bool.and_eq_true] at hwf
    exact hwf
  have b0 := d.isLt
  have b1 := i.isLt
  have b2 := x.isLt
  have b3 := b.isLt
  obtain ⟨w0, ew⟩ : ∃ w0, w0 = 0xCC000000 + d.toNat * 0x10000 + i.toNat * 0x200 + x.toNat * 0x100 + b.toNat := ⟨_, rfl⟩
  have hw : w0 = ((((51 * 8) * 128 + d.toNat) * 128 + i.toNat) * 2 + x.toNat) * 256 + b.toNat := ew.trans (by clear ew; omega)
  have f0 : wordField w0 31 26 = 51 := by rw [hw]; exact (above 256 8 _ (b.toNat) 31 26 rfl b.isLt).trans ((above 2 1 _ (x.toNat) 23 18 rfl x.isLt).trans ((above 128 7 _ (i.toNat) 22 17 rfl i.isLt).trans ((above 128 7 _ (d.toNat) 15 10 rfl d.isLt).trans ((above_zeros 8 3 _ 8 3 rfl).trans (whole 64 (51) 5 rfl (by decide))))))
  have f1 : wordField w0 25 23 = 0 := by rw [hw]; exact (above 256 8 _ (b.toNat) 25 23 rfl b.isLt).trans ((above 2 1 _ (x.toNat) 17 15 rfl x.isLt).trans ((above 128 7 _ (i.toNat) 16 14 rfl i.isLt).trans ((above 128 7 _ (d.toNat) 9 7 rfl d.isLt).trans (lowest_zeros 8 _ 2 rfl))))
  have f2 : wordField w0 22 16 = d.toNat := by rw [hw]; exact (above 256 8 _ (b.toNat) 22 16 rfl b.isLt).trans ((above 2 1 _ (x.toNat) 14 8 rfl x.isLt).trans ((above 128 7 _ (i.toNat) 13 7 rfl i.isLt).trans (lowest 128 _ (d.toNat) 6 rfl d.isLt)))
  have f3 : wordField w0 15 9 = i.toNat := by rw [hw]; exact (above 256 8 _ (b.toNat) 15 9 rfl b.isLt).trans ((above 2 1 _ (x.toNat) 7 1 rfl x.isLt).trans (lowest 128 _ (i.toNat) 6 rfl i.isLt))
  have f4 : wordField w0 8 8 = x.toNat := by rw [hw]; exact (above 256 8 _ (b.toNat) 8 8 rfl b.isLt).trans (lowest 2 _ (x.toNat) 0 rfl x.isLt)
  have f5 : wordField w0 7 0 = b.toNat := by rw [hw]; exact lowest 256 _ (b.toNat) 7 rfl b.isLt
  rw [show encode (.gld d i x b lit) = withLit w0 [i] lit from ew ▸ rfl, withLit_first]
  rw [major33 f0]
  simp only [decodeMajor33, f1, f2, f3, f4, f5, BitVec.ofNat_toNat, BitVec.setWidth_eq]
  rw [show [i.toNat] = [i].map BitVec.toNat from rfl, litWord_withLit _ _ _ _ hl, litWords_withLit w0 _ lit]
  exact decodedIf_good _ _ hwf

theorem gld64 (d : BitVec 7) (i : BitVec 7) (x : BitVec 1) (b : BitVec 8) (lit : BitVec 32) : Statement (.gld64 d i x b lit) := by
  intro hcode hwf nx
  clear hcode
  have hl : litOk [i] lit = true := by
    simp only [Instr.wellFormed, Bool.and_eq_true] at hwf
    exact hwf
  have b0 := d.isLt
  have b1 := i.isLt
  have b2 := x.isLt
  have b3 := b.isLt
  obtain ⟨w0, ew⟩ : ∃ w0, w0 = 0xCC800000 + d.toNat * 0x10000 + i.toNat * 0x200 + x.toNat * 0x100 + b.toNat := ⟨_, rfl⟩
  have hw : w0 = ((((51 * 8 + 1) * 128 + d.toNat) * 128 + i.toNat) * 2 + x.toNat) * 256 + b.toNat := ew.trans (by clear ew; omega)
  have f0 : wordField w0 31 26 = 51 := by rw [hw]; exact (above 256 8 _ (b.toNat) 31 26 rfl b.isLt).trans ((above 2 1 _ (x.toNat) 23 18 rfl x.isLt).trans ((above 128 7 _ (i.toNat) 22 17 rfl i.isLt).trans ((above 128 7 _ (d.toNat) 15 10 rfl d.isLt).trans ((above 8 3 _ (1) 8 3 rfl (by decide)).trans (whole 64 (51) 5 rfl (by decide))))))
  have f1 : wordField w0 25 23 = 1 := by rw [hw]; exact (above 256 8 _ (b.toNat) 25 23 rfl b.isLt).trans ((above 2 1 _ (x.toNat) 17 15 rfl x.isLt).trans ((above 128 7 _ (i.toNat) 16 14 rfl i.isLt).trans ((above 128 7 _ (d.toNat) 9 7 rfl d.isLt).trans (lowest 8 _ (1) 2 rfl (by decide)))))
  have f2 : wordField w0 22 16 = d.toNat := by rw [hw]; exact (above 256 8 _ (b.toNat) 22 16 rfl b.isLt).trans ((above 2 1 _ (x.toNat) 14 8 rfl x.isLt).trans ((above 128 7 _ (i.toNat) 13 7 rfl i.isLt).trans (lowest 128 _ (d.toNat) 6 rfl d.isLt)))
  have f3 : wordField w0 15 9 = i.toNat := by rw [hw]; exact (above 256 8 _ (b.toNat) 15 9 rfl b.isLt).trans ((above 2 1 _ (x.toNat) 7 1 rfl x.isLt).trans (lowest 128 _ (i.toNat) 6 rfl i.isLt))
  have f4 : wordField w0 8 8 = x.toNat := by rw [hw]; exact (above 256 8 _ (b.toNat) 8 8 rfl b.isLt).trans (lowest 2 _ (x.toNat) 0 rfl x.isLt)
  have f5 : wordField w0 7 0 = b.toNat := by rw [hw]; exact lowest 256 _ (b.toNat) 7 rfl b.isLt
  rw [show encode (.gld64 d i x b lit) = withLit w0 [i] lit from ew ▸ rfl, withLit_first]
  rw [major33 f0]
  simp only [decodeMajor33, f1, f2, f3, f4, f5, BitVec.ofNat_toNat, BitVec.setWidth_eq]
  rw [show [i.toNat] = [i].map BitVec.toNat from rfl, litWord_withLit _ _ _ _ hl, litWords_withLit w0 _ lit]
  exact decodedIf_good _ _ hwf

theorem gld128 (d : BitVec 7) (i : BitVec 7) (x : BitVec 1) (b : BitVec 8) (lit : BitVec 32) : Statement (.gld128 d i x b lit) := by
  intro hcode hwf nx
  clear hcode
  have hl : litOk [i] lit = true := by
    simp only [Instr.wellFormed, Bool.and_eq_true] at hwf
    exact hwf
  have b0 := d.isLt
  have b1 := i.isLt
  have b2 := x.isLt
  have b3 := b.isLt
  obtain ⟨w0, ew⟩ : ∃ w0, w0 = 0xCD000000 + d.toNat * 0x10000 + i.toNat * 0x200 + x.toNat * 0x100 + b.toNat := ⟨_, rfl⟩
  have hw : w0 = ((((51 * 8 + 2) * 128 + d.toNat) * 128 + i.toNat) * 2 + x.toNat) * 256 + b.toNat := ew.trans (by clear ew; omega)
  have f0 : wordField w0 31 26 = 51 := by rw [hw]; exact (above 256 8 _ (b.toNat) 31 26 rfl b.isLt).trans ((above 2 1 _ (x.toNat) 23 18 rfl x.isLt).trans ((above 128 7 _ (i.toNat) 22 17 rfl i.isLt).trans ((above 128 7 _ (d.toNat) 15 10 rfl d.isLt).trans ((above 8 3 _ (2) 8 3 rfl (by decide)).trans (whole 64 (51) 5 rfl (by decide))))))
  have f1 : wordField w0 25 23 = 2 := by rw [hw]; exact (above 256 8 _ (b.toNat) 25 23 rfl b.isLt).trans ((above 2 1 _ (x.toNat) 17 15 rfl x.isLt).trans ((above 128 7 _ (i.toNat) 16 14 rfl i.isLt).trans ((above 128 7 _ (d.toNat) 9 7 rfl d.isLt).trans (lowest 8 _ (2) 2 rfl (by decide)))))
  have f2 : wordField w0 22 16 = d.toNat := by rw [hw]; exact (above 256 8 _ (b.toNat) 22 16 rfl b.isLt).trans ((above 2 1 _ (x.toNat) 14 8 rfl x.isLt).trans ((above 128 7 _ (i.toNat) 13 7 rfl i.isLt).trans (lowest 128 _ (d.toNat) 6 rfl d.isLt)))
  have f3 : wordField w0 15 9 = i.toNat := by rw [hw]; exact (above 256 8 _ (b.toNat) 15 9 rfl b.isLt).trans ((above 2 1 _ (x.toNat) 7 1 rfl x.isLt).trans (lowest 128 _ (i.toNat) 6 rfl i.isLt))
  have f4 : wordField w0 8 8 = x.toNat := by rw [hw]; exact (above 256 8 _ (b.toNat) 8 8 rfl b.isLt).trans (lowest 2 _ (x.toNat) 0 rfl x.isLt)
  have f5 : wordField w0 7 0 = b.toNat := by rw [hw]; exact lowest 256 _ (b.toNat) 7 rfl b.isLt
  rw [show encode (.gld128 d i x b lit) = withLit w0 [i] lit from ew ▸ rfl, withLit_first]
  rw [major33 f0]
  simp only [decodeMajor33, f1, f2, f3, f4, f5, BitVec.ofNat_toNat, BitVec.setWidth_eq]
  rw [show [i.toNat] = [i].map BitVec.toNat from rfl, litWord_withLit _ _ _ _ hl, litWords_withLit w0 _ lit]
  exact decodedIf_good _ _ hwf

theorem gldOrdered (d : BitVec 7) (i : BitVec 7) (x : BitVec 1) (b : BitVec 8) (sc : BitVec 3) (od : BitVec 2) (sz : BitVec 3) : Statement (.gldOrdered d i x b sc od sz) := by
  intro hcode hwf nx
  clear hcode
  have b0 := d.isLt
  have b1 := i.isLt
  have b2 := x.isLt
  have b3 := b.isLt
  have b4 := sc.isLt
  have b5 := od.isLt
  have b6 := sz.isLt
  obtain ⟨w0, ew⟩ : ∃ w0, w0 = 0xCD800000 + d.toNat * 0x10000 + i.toNat * 0x200 + x.toNat * 0x100 + b.toNat := ⟨_, rfl⟩
  have hw : w0 = ((((51 * 8 + 3) * 128 + d.toNat) * 128 + i.toNat) * 2 + x.toNat) * 256 + b.toNat := ew.trans (by clear ew; omega)
  obtain ⟨w1, ev⟩ : ∃ w1, w1 = sc.toNat * 0x2000 + od.toNat * 0x800 + sz.toNat * 0x100 := ⟨_, rfl⟩
  have hv : w1 = (((0 * 8 + sc.toNat) * 4 + od.toNat) * 8 + sz.toNat) * 256 := ev.trans (by clear ew ev; omega)
  have f0 : wordField w0 31 26 = 51 := by rw [hw]; exact (above 256 8 _ (b.toNat) 31 26 rfl b.isLt).trans ((above 2 1 _ (x.toNat) 23 18 rfl x.isLt).trans ((above 128 7 _ (i.toNat) 22 17 rfl i.isLt).trans ((above 128 7 _ (d.toNat) 15 10 rfl d.isLt).trans ((above 8 3 _ (3) 8 3 rfl (by decide)).trans (whole 64 (51) 5 rfl (by decide))))))
  have f1 : wordField w0 25 23 = 3 := by rw [hw]; exact (above 256 8 _ (b.toNat) 25 23 rfl b.isLt).trans ((above 2 1 _ (x.toNat) 17 15 rfl x.isLt).trans ((above 128 7 _ (i.toNat) 16 14 rfl i.isLt).trans ((above 128 7 _ (d.toNat) 9 7 rfl d.isLt).trans (lowest 8 _ (3) 2 rfl (by decide)))))
  have f2 : wordField w0 22 16 = d.toNat := by rw [hw]; exact (above 256 8 _ (b.toNat) 22 16 rfl b.isLt).trans ((above 2 1 _ (x.toNat) 14 8 rfl x.isLt).trans ((above 128 7 _ (i.toNat) 13 7 rfl i.isLt).trans (lowest 128 _ (d.toNat) 6 rfl d.isLt)))
  have f3 : wordField w0 15 9 = i.toNat := by rw [hw]; exact (above 256 8 _ (b.toNat) 15 9 rfl b.isLt).trans ((above 2 1 _ (x.toNat) 7 1 rfl x.isLt).trans (lowest 128 _ (i.toNat) 6 rfl i.isLt))
  have f4 : wordField w0 8 8 = x.toNat := by rw [hw]; exact (above 256 8 _ (b.toNat) 8 8 rfl b.isLt).trans (lowest 2 _ (x.toNat) 0 rfl x.isLt)
  have f5 : wordField w0 7 0 = b.toNat := by rw [hw]; exact lowest 256 _ (b.toNat) 7 rfl b.isLt
  have f6 : wordField w1 31 16 = 0 := by rw [hv]; exact (above_zeros 256 8 _ 31 16 rfl).trans ((above 8 3 _ (sz.toNat) 23 8 rfl sz.isLt).trans ((above 4 2 _ (od.toNat) 20 5 rfl od.isLt).trans ((above 8 3 _ (sc.toNat) 18 3 rfl sc.isLt).trans (whole 65536 (0) 15 rfl (by decide)))))
  have f7 : wordField w1 15 13 = sc.toNat := by rw [hv]; exact (above_zeros 256 8 _ 15 13 rfl).trans ((above 8 3 _ (sz.toNat) 7 5 rfl sz.isLt).trans ((above 4 2 _ (od.toNat) 4 2 rfl od.isLt).trans (lowest 8 _ (sc.toNat) 2 rfl sc.isLt)))
  have f8 : wordField w1 12 11 = od.toNat := by rw [hv]; exact (above_zeros 256 8 _ 12 11 rfl).trans ((above 8 3 _ (sz.toNat) 4 3 rfl sz.isLt).trans (lowest 4 _ (od.toNat) 1 rfl od.isLt))
  have f9 : wordField w1 10 8 = sz.toNat := by rw [hv]; exact (above_zeros 256 8 _ 10 8 rfl).trans (lowest 8 _ (sz.toNat) 2 rfl sz.isLt)
  have f10 : wordField w1 7 0 = 0 := by rw [hv]; exact lowest_zeros 256 _ 7 rfl
  have he : encode (.gldOrdered d i x b sc od sz) = [w0, w1] := by subst ew ev; exact rfl
  rw [he]
  refine (major33 f0).trans ?_
  show decodeMajor33 w0 w1 = _
  simp only [decodeMajor33, f1, f2, f3, f4, f5, f6, f7, f8, f9, f10, BitVec.ofNat_toNat, BitVec.setWidth_eq]
  exact decodedIf_good _ _ hwf

theorem gst (s : BitVec 7) (i : BitVec 7) (x : BitVec 1) (b : BitVec 8) (lit : BitVec 32) : Statement (.gst s i x b lit) := by
  intro hcode hwf nx
  clear hcode
  have hl : litOk [s, i] lit = true := by
    simp only [Instr.wellFormed, Bool.and_eq_true] at hwf
    exact hwf
  have b0 := s.isLt
  have b1 := i.isLt
  have b2 := x.isLt
  have b3 := b.isLt
  obtain ⟨w0, ew⟩ : ∃ w0, w0 = 0xCE000000 + s.toNat * 0x10000 + i.toNat * 0x200 + x.toNat * 0x100 + b.toNat := ⟨_, rfl⟩
  have hw : w0 = ((((51 * 8 + 4) * 128 + s.toNat) * 128 + i.toNat) * 2 + x.toNat) * 256 + b.toNat := ew.trans (by clear ew; omega)
  have f0 : wordField w0 31 26 = 51 := by rw [hw]; exact (above 256 8 _ (b.toNat) 31 26 rfl b.isLt).trans ((above 2 1 _ (x.toNat) 23 18 rfl x.isLt).trans ((above 128 7 _ (i.toNat) 22 17 rfl i.isLt).trans ((above 128 7 _ (s.toNat) 15 10 rfl s.isLt).trans ((above 8 3 _ (4) 8 3 rfl (by decide)).trans (whole 64 (51) 5 rfl (by decide))))))
  have f1 : wordField w0 25 23 = 4 := by rw [hw]; exact (above 256 8 _ (b.toNat) 25 23 rfl b.isLt).trans ((above 2 1 _ (x.toNat) 17 15 rfl x.isLt).trans ((above 128 7 _ (i.toNat) 16 14 rfl i.isLt).trans ((above 128 7 _ (s.toNat) 9 7 rfl s.isLt).trans (lowest 8 _ (4) 2 rfl (by decide)))))
  have f2 : wordField w0 22 16 = s.toNat := by rw [hw]; exact (above 256 8 _ (b.toNat) 22 16 rfl b.isLt).trans ((above 2 1 _ (x.toNat) 14 8 rfl x.isLt).trans ((above 128 7 _ (i.toNat) 13 7 rfl i.isLt).trans (lowest 128 _ (s.toNat) 6 rfl s.isLt)))
  have f3 : wordField w0 15 9 = i.toNat := by rw [hw]; exact (above 256 8 _ (b.toNat) 15 9 rfl b.isLt).trans ((above 2 1 _ (x.toNat) 7 1 rfl x.isLt).trans (lowest 128 _ (i.toNat) 6 rfl i.isLt))
  have f4 : wordField w0 8 8 = x.toNat := by rw [hw]; exact (above 256 8 _ (b.toNat) 8 8 rfl b.isLt).trans (lowest 2 _ (x.toNat) 0 rfl x.isLt)
  have f5 : wordField w0 7 0 = b.toNat := by rw [hw]; exact lowest 256 _ (b.toNat) 7 rfl b.isLt
  rw [show encode (.gst s i x b lit) = withLit w0 [s, i] lit from ew ▸ rfl, withLit_first]
  rw [major33 f0]
  simp only [decodeMajor33, f1, f2, f3, f4, f5, BitVec.ofNat_toNat, BitVec.setWidth_eq]
  rw [show [s.toNat, i.toNat] = [s, i].map BitVec.toNat from rfl, litWord_withLit _ _ _ _ hl, litWords_withLit w0 _ lit]
  exact decodedIf_good _ _ hwf

theorem gst64 (s : BitVec 7) (i : BitVec 7) (x : BitVec 1) (b : BitVec 8) (lit : BitVec 32) : Statement (.gst64 s i x b lit) := by
  intro hcode hwf nx
  clear hcode
  have hl : litOk [s, i] lit = true := by
    simp only [Instr.wellFormed, Bool.and_eq_true] at hwf
    exact hwf
  have b0 := s.isLt
  have b1 := i.isLt
  have b2 := x.isLt
  have b3 := b.isLt
  obtain ⟨w0, ew⟩ : ∃ w0, w0 = 0xCE800000 + s.toNat * 0x10000 + i.toNat * 0x200 + x.toNat * 0x100 + b.toNat := ⟨_, rfl⟩
  have hw : w0 = ((((51 * 8 + 5) * 128 + s.toNat) * 128 + i.toNat) * 2 + x.toNat) * 256 + b.toNat := ew.trans (by clear ew; omega)
  have f0 : wordField w0 31 26 = 51 := by rw [hw]; exact (above 256 8 _ (b.toNat) 31 26 rfl b.isLt).trans ((above 2 1 _ (x.toNat) 23 18 rfl x.isLt).trans ((above 128 7 _ (i.toNat) 22 17 rfl i.isLt).trans ((above 128 7 _ (s.toNat) 15 10 rfl s.isLt).trans ((above 8 3 _ (5) 8 3 rfl (by decide)).trans (whole 64 (51) 5 rfl (by decide))))))
  have f1 : wordField w0 25 23 = 5 := by rw [hw]; exact (above 256 8 _ (b.toNat) 25 23 rfl b.isLt).trans ((above 2 1 _ (x.toNat) 17 15 rfl x.isLt).trans ((above 128 7 _ (i.toNat) 16 14 rfl i.isLt).trans ((above 128 7 _ (s.toNat) 9 7 rfl s.isLt).trans (lowest 8 _ (5) 2 rfl (by decide)))))
  have f2 : wordField w0 22 16 = s.toNat := by rw [hw]; exact (above 256 8 _ (b.toNat) 22 16 rfl b.isLt).trans ((above 2 1 _ (x.toNat) 14 8 rfl x.isLt).trans ((above 128 7 _ (i.toNat) 13 7 rfl i.isLt).trans (lowest 128 _ (s.toNat) 6 rfl s.isLt)))
  have f3 : wordField w0 15 9 = i.toNat := by rw [hw]; exact (above 256 8 _ (b.toNat) 15 9 rfl b.isLt).trans ((above 2 1 _ (x.toNat) 7 1 rfl x.isLt).trans (lowest 128 _ (i.toNat) 6 rfl i.isLt))
  have f4 : wordField w0 8 8 = x.toNat := by rw [hw]; exact (above 256 8 _ (b.toNat) 8 8 rfl b.isLt).trans (lowest 2 _ (x.toNat) 0 rfl x.isLt)
  have f5 : wordField w0 7 0 = b.toNat := by rw [hw]; exact lowest 256 _ (b.toNat) 7 rfl b.isLt
  rw [show encode (.gst64 s i x b lit) = withLit w0 [s, i] lit from ew ▸ rfl, withLit_first]
  rw [major33 f0]
  simp only [decodeMajor33, f1, f2, f3, f4, f5, BitVec.ofNat_toNat, BitVec.setWidth_eq]
  rw [show [s.toNat, i.toNat] = [s, i].map BitVec.toNat from rfl, litWord_withLit _ _ _ _ hl, litWords_withLit w0 _ lit]
  exact decodedIf_good _ _ hwf

theorem gst128 (s : BitVec 7) (i : BitVec 7) (x : BitVec 1) (b : BitVec 8) (lit : BitVec 32) : Statement (.gst128 s i x b lit) := by
  intro hcode hwf nx
  clear hcode
  have hl : litOk [s, i] lit = true := by
    simp only [Instr.wellFormed, Bool.and_eq_true] at hwf
    exact hwf
  have b0 := s.isLt
  have b1 := i.isLt
  have b2 := x.isLt
  have b3 := b.isLt
  obtain ⟨w0, ew⟩ : ∃ w0, w0 = 0xCF000000 + s.toNat * 0x10000 + i.toNat * 0x200 + x.toNat * 0x100 + b.toNat := ⟨_, rfl⟩
  have hw : w0 = ((((51 * 8 + 6) * 128 + s.toNat) * 128 + i.toNat) * 2 + x.toNat) * 256 + b.toNat := ew.trans (by clear ew; omega)
  have f0 : wordField w0 31 26 = 51 := by rw [hw]; exact (above 256 8 _ (b.toNat) 31 26 rfl b.isLt).trans ((above 2 1 _ (x.toNat) 23 18 rfl x.isLt).trans ((above 128 7 _ (i.toNat) 22 17 rfl i.isLt).trans ((above 128 7 _ (s.toNat) 15 10 rfl s.isLt).trans ((above 8 3 _ (6) 8 3 rfl (by decide)).trans (whole 64 (51) 5 rfl (by decide))))))
  have f1 : wordField w0 25 23 = 6 := by rw [hw]; exact (above 256 8 _ (b.toNat) 25 23 rfl b.isLt).trans ((above 2 1 _ (x.toNat) 17 15 rfl x.isLt).trans ((above 128 7 _ (i.toNat) 16 14 rfl i.isLt).trans ((above 128 7 _ (s.toNat) 9 7 rfl s.isLt).trans (lowest 8 _ (6) 2 rfl (by decide)))))
  have f2 : wordField w0 22 16 = s.toNat := by rw [hw]; exact (above 256 8 _ (b.toNat) 22 16 rfl b.isLt).trans ((above 2 1 _ (x.toNat) 14 8 rfl x.isLt).trans ((above 128 7 _ (i.toNat) 13 7 rfl i.isLt).trans (lowest 128 _ (s.toNat) 6 rfl s.isLt)))
  have f3 : wordField w0 15 9 = i.toNat := by rw [hw]; exact (above 256 8 _ (b.toNat) 15 9 rfl b.isLt).trans ((above 2 1 _ (x.toNat) 7 1 rfl x.isLt).trans (lowest 128 _ (i.toNat) 6 rfl i.isLt))
  have f4 : wordField w0 8 8 = x.toNat := by rw [hw]; exact (above 256 8 _ (b.toNat) 8 8 rfl b.isLt).trans (lowest 2 _ (x.toNat) 0 rfl x.isLt)
  have f5 : wordField w0 7 0 = b.toNat := by rw [hw]; exact lowest 256 _ (b.toNat) 7 rfl b.isLt
  rw [show encode (.gst128 s i x b lit) = withLit w0 [s, i] lit from ew ▸ rfl, withLit_first]
  rw [major33 f0]
  simp only [decodeMajor33, f1, f2, f3, f4, f5, BitVec.ofNat_toNat, BitVec.setWidth_eq]
  rw [show [s.toNat, i.toNat] = [s, i].map BitVec.toNat from rfl, litWord_withLit _ _ _ _ hl, litWords_withLit w0 _ lit]
  exact decodedIf_good _ _ hwf

theorem gstOrdered (s : BitVec 7) (i : BitVec 7) (x : BitVec 1) (b : BitVec 8) (sc : BitVec 3) (od : BitVec 2) (sz : BitVec 3) : Statement (.gstOrdered s i x b sc od sz) := by
  intro hcode hwf nx
  clear hcode
  have b0 := s.isLt
  have b1 := i.isLt
  have b2 := x.isLt
  have b3 := b.isLt
  have b4 := sc.isLt
  have b5 := od.isLt
  have b6 := sz.isLt
  obtain ⟨w0, ew⟩ : ∃ w0, w0 = 0xCF800000 + s.toNat * 0x10000 + i.toNat * 0x200 + x.toNat * 0x100 + b.toNat := ⟨_, rfl⟩
  have hw : w0 = ((((51 * 8 + 7) * 128 + s.toNat) * 128 + i.toNat) * 2 + x.toNat) * 256 + b.toNat := ew.trans (by clear ew; omega)
  obtain ⟨w1, ev⟩ : ∃ w1, w1 = sc.toNat * 0x2000 + od.toNat * 0x800 + sz.toNat * 0x100 := ⟨_, rfl⟩
  have hv : w1 = (((0 * 8 + sc.toNat) * 4 + od.toNat) * 8 + sz.toNat) * 256 := ev.trans (by clear ew ev; omega)
  have f0 : wordField w0 31 26 = 51 := by rw [hw]; exact (above 256 8 _ (b.toNat) 31 26 rfl b.isLt).trans ((above 2 1 _ (x.toNat) 23 18 rfl x.isLt).trans ((above 128 7 _ (i.toNat) 22 17 rfl i.isLt).trans ((above 128 7 _ (s.toNat) 15 10 rfl s.isLt).trans ((above 8 3 _ (7) 8 3 rfl (by decide)).trans (whole 64 (51) 5 rfl (by decide))))))
  have f1 : wordField w0 25 23 = 7 := by rw [hw]; exact (above 256 8 _ (b.toNat) 25 23 rfl b.isLt).trans ((above 2 1 _ (x.toNat) 17 15 rfl x.isLt).trans ((above 128 7 _ (i.toNat) 16 14 rfl i.isLt).trans ((above 128 7 _ (s.toNat) 9 7 rfl s.isLt).trans (lowest 8 _ (7) 2 rfl (by decide)))))
  have f2 : wordField w0 22 16 = s.toNat := by rw [hw]; exact (above 256 8 _ (b.toNat) 22 16 rfl b.isLt).trans ((above 2 1 _ (x.toNat) 14 8 rfl x.isLt).trans ((above 128 7 _ (i.toNat) 13 7 rfl i.isLt).trans (lowest 128 _ (s.toNat) 6 rfl s.isLt)))
  have f3 : wordField w0 15 9 = i.toNat := by rw [hw]; exact (above 256 8 _ (b.toNat) 15 9 rfl b.isLt).trans ((above 2 1 _ (x.toNat) 7 1 rfl x.isLt).trans (lowest 128 _ (i.toNat) 6 rfl i.isLt))
  have f4 : wordField w0 8 8 = x.toNat := by rw [hw]; exact (above 256 8 _ (b.toNat) 8 8 rfl b.isLt).trans (lowest 2 _ (x.toNat) 0 rfl x.isLt)
  have f5 : wordField w0 7 0 = b.toNat := by rw [hw]; exact lowest 256 _ (b.toNat) 7 rfl b.isLt
  have f6 : wordField w1 31 16 = 0 := by rw [hv]; exact (above_zeros 256 8 _ 31 16 rfl).trans ((above 8 3 _ (sz.toNat) 23 8 rfl sz.isLt).trans ((above 4 2 _ (od.toNat) 20 5 rfl od.isLt).trans ((above 8 3 _ (sc.toNat) 18 3 rfl sc.isLt).trans (whole 65536 (0) 15 rfl (by decide)))))
  have f7 : wordField w1 15 13 = sc.toNat := by rw [hv]; exact (above_zeros 256 8 _ 15 13 rfl).trans ((above 8 3 _ (sz.toNat) 7 5 rfl sz.isLt).trans ((above 4 2 _ (od.toNat) 4 2 rfl od.isLt).trans (lowest 8 _ (sc.toNat) 2 rfl sc.isLt)))
  have f8 : wordField w1 12 11 = od.toNat := by rw [hv]; exact (above_zeros 256 8 _ 12 11 rfl).trans ((above 8 3 _ (sz.toNat) 4 3 rfl sz.isLt).trans (lowest 4 _ (od.toNat) 1 rfl od.isLt))
  have f9 : wordField w1 10 8 = sz.toNat := by rw [hv]; exact (above_zeros 256 8 _ 10 8 rfl).trans (lowest 8 _ (sz.toNat) 2 rfl sz.isLt)
  have f10 : wordField w1 7 0 = 0 := by rw [hv]; exact lowest_zeros 256 _ 7 rfl
  have he : encode (.gstOrdered s i x b sc od sz) = [w0, w1] := by subst ew ev; exact rfl
  rw [he]
  refine (major33 f0).trans ?_
  show decodeMajor33 w0 w1 = _
  simp only [decodeMajor33, f1, f2, f3, f4, f5, f6, f7, f8, f9, f10, BitVec.ofNat_toNat, BitVec.setWidth_eq]
  exact decodedIf_good _ _ hwf

theorem latom (o : BitVec 3) (d : BitVec 7) (i : BitVec 7) (x : BitVec 1) (b : BitVec 8) (sc : BitVec 3) (op : BitVec 4) (c : BitVec 7) : Statement (.latom o d i x b sc op c) := by
  intro hcode hwf nx
  clear hcode
  have s_o : o = 0#3 ∨ o = 1#3 ∨ o = 2#3 ∨ o = 3#3 ∨ o = 4#3 ∨ o = 5#3 ∨ o = 6#3 ∨ o = 7#3 := by clear hwf; revert o; decide
  rcases s_o with rfl | rfl | rfl | rfl | rfl | rfl | rfl | rfl
  · have b0 := d.isLt
    have b1 := i.isLt
    have b2 := x.isLt
    have b3 := b.isLt
    have b4 := sc.isLt
    have b5 := op.isLt
    have b6 := c.isLt
    obtain ⟨w0, ew⟩ : ∃ w0, w0 = 0xD0000000 + 0 * 0x800000 + d.toNat * 0x10000 + i.toNat * 0x200 + x.toNat * 0x100 + b.toNat := ⟨_, rfl⟩
    have hw : w0 = ((((52 * 8) * 128 + d.toNat) * 128 + i.toNat) * 2 + x.toNat) * 256 + b.toNat := ew.trans (by clear ew; omega)
    obtain ⟨w1, ev⟩ : ∃ w1, w1 = sc.toNat * 0x1000 + op.toNat * 0x100 + c.toNat := ⟨_, rfl⟩
    have hv : w1 = (((0 * 8 + sc.toNat) * 16 + op.toNat) * 2) * 128 + c.toNat := ev.trans (by clear ew ev; omega)
    have f0 : wordField w0 31 26 = 52 := by rw [hw]; exact (above 256 8 _ (b.toNat) 31 26 rfl b.isLt).trans ((above 2 1 _ (x.toNat) 23 18 rfl x.isLt).trans ((above 128 7 _ (i.toNat) 22 17 rfl i.isLt).trans ((above 128 7 _ (d.toNat) 15 10 rfl d.isLt).trans ((above_zeros 8 3 _ 8 3 rfl).trans (whole 64 (52) 5 rfl (by decide))))))
    have f1 : wordField w0 25 23 = 0 := by rw [hw]; exact (above 256 8 _ (b.toNat) 25 23 rfl b.isLt).trans ((above 2 1 _ (x.toNat) 17 15 rfl x.isLt).trans ((above 128 7 _ (i.toNat) 16 14 rfl i.isLt).trans ((above 128 7 _ (d.toNat) 9 7 rfl d.isLt).trans (lowest_zeros 8 _ 2 rfl))))
    have f2 : wordField w0 22 16 = d.toNat := by rw [hw]; exact (above 256 8 _ (b.toNat) 22 16 rfl b.isLt).trans ((above 2 1 _ (x.toNat) 14 8 rfl x.isLt).trans ((above 128 7 _ (i.toNat) 13 7 rfl i.isLt).trans (lowest 128 _ (d.toNat) 6 rfl d.isLt)))
    have f3 : wordField w0 15 9 = i.toNat := by rw [hw]; exact (above 256 8 _ (b.toNat) 15 9 rfl b.isLt).trans ((above 2 1 _ (x.toNat) 7 1 rfl x.isLt).trans (lowest 128 _ (i.toNat) 6 rfl i.isLt))
    have f4 : wordField w0 8 8 = x.toNat := by rw [hw]; exact (above 256 8 _ (b.toNat) 8 8 rfl b.isLt).trans (lowest 2 _ (x.toNat) 0 rfl x.isLt)
    have f5 : wordField w0 7 0 = b.toNat := by rw [hw]; exact lowest 256 _ (b.toNat) 7 rfl b.isLt
    have f6 : wordField w1 31 15 = 0 := by rw [hv]; exact (above 128 7 _ (c.toNat) 31 15 rfl c.isLt).trans ((above_zeros 2 1 _ 24 8 rfl).trans ((above 16 4 _ (op.toNat) 23 7 rfl op.isLt).trans ((above 8 3 _ (sc.toNat) 19 3 rfl sc.isLt).trans (whole 131072 (0) 16 rfl (by decide)))))
    have f7 : wordField w1 14 12 = sc.toNat := by rw [hv]; exact (above 128 7 _ (c.toNat) 14 12 rfl c.isLt).trans ((above_zeros 2 1 _ 7 5 rfl).trans ((above 16 4 _ (op.toNat) 6 4 rfl op.isLt).trans (lowest 8 _ (sc.toNat) 2 rfl sc.isLt)))
    have f8 : wordField w1 11 8 = op.toNat := by rw [hv]; exact (above 128 7 _ (c.toNat) 11 8 rfl c.isLt).trans ((above_zeros 2 1 _ 4 1 rfl).trans (lowest 16 _ (op.toNat) 3 rfl op.isLt))
    have f9 : wordField w1 7 7 = 0 := by rw [hv]; exact (above 128 7 _ (c.toNat) 7 7 rfl c.isLt).trans (lowest_zeros 2 _ 0 rfl)
    have f10 : wordField w1 6 0 = c.toNat := by rw [hv]; exact lowest 128 _ (c.toNat) 6 rfl c.isLt
    have he : encode (.latom 0#3 d i x b sc op c) = [w0, w1] := by subst ew ev; exact rfl
    rw [he]
    refine (major34 f0).trans ?_
    show decodeMajor34 w0 w1 = _
    simp only [decodeMajor34, f1, f2, f3, f4, f5, f6, f7, f8, f9, f10, BitVec.ofNat_toNat, BitVec.setWidth_eq]
    exact decodedIf_good _ _ hwf
  · have b0 := d.isLt
    have b1 := i.isLt
    have b2 := x.isLt
    have b3 := b.isLt
    have b4 := sc.isLt
    have b5 := op.isLt
    have b6 := c.isLt
    obtain ⟨w0, ew⟩ : ∃ w0, w0 = 0xD0000000 + 1 * 0x800000 + d.toNat * 0x10000 + i.toNat * 0x200 + x.toNat * 0x100 + b.toNat := ⟨_, rfl⟩
    have hw : w0 = ((((52 * 8 + 1) * 128 + d.toNat) * 128 + i.toNat) * 2 + x.toNat) * 256 + b.toNat := ew.trans (by clear ew; omega)
    obtain ⟨w1, ev⟩ : ∃ w1, w1 = sc.toNat * 0x1000 + op.toNat * 0x100 + c.toNat := ⟨_, rfl⟩
    have hv : w1 = (((0 * 8 + sc.toNat) * 16 + op.toNat) * 2) * 128 + c.toNat := ev.trans (by clear ew ev; omega)
    have f0 : wordField w0 31 26 = 52 := by rw [hw]; exact (above 256 8 _ (b.toNat) 31 26 rfl b.isLt).trans ((above 2 1 _ (x.toNat) 23 18 rfl x.isLt).trans ((above 128 7 _ (i.toNat) 22 17 rfl i.isLt).trans ((above 128 7 _ (d.toNat) 15 10 rfl d.isLt).trans ((above 8 3 _ (1) 8 3 rfl (by decide)).trans (whole 64 (52) 5 rfl (by decide))))))
    have f1 : wordField w0 25 23 = 1 := by rw [hw]; exact (above 256 8 _ (b.toNat) 25 23 rfl b.isLt).trans ((above 2 1 _ (x.toNat) 17 15 rfl x.isLt).trans ((above 128 7 _ (i.toNat) 16 14 rfl i.isLt).trans ((above 128 7 _ (d.toNat) 9 7 rfl d.isLt).trans (lowest 8 _ (1) 2 rfl (by decide)))))
    have f2 : wordField w0 22 16 = d.toNat := by rw [hw]; exact (above 256 8 _ (b.toNat) 22 16 rfl b.isLt).trans ((above 2 1 _ (x.toNat) 14 8 rfl x.isLt).trans ((above 128 7 _ (i.toNat) 13 7 rfl i.isLt).trans (lowest 128 _ (d.toNat) 6 rfl d.isLt)))
    have f3 : wordField w0 15 9 = i.toNat := by rw [hw]; exact (above 256 8 _ (b.toNat) 15 9 rfl b.isLt).trans ((above 2 1 _ (x.toNat) 7 1 rfl x.isLt).trans (lowest 128 _ (i.toNat) 6 rfl i.isLt))
    have f4 : wordField w0 8 8 = x.toNat := by rw [hw]; exact (above 256 8 _ (b.toNat) 8 8 rfl b.isLt).trans (lowest 2 _ (x.toNat) 0 rfl x.isLt)
    have f5 : wordField w0 7 0 = b.toNat := by rw [hw]; exact lowest 256 _ (b.toNat) 7 rfl b.isLt
    have f6 : wordField w1 31 15 = 0 := by rw [hv]; exact (above 128 7 _ (c.toNat) 31 15 rfl c.isLt).trans ((above_zeros 2 1 _ 24 8 rfl).trans ((above 16 4 _ (op.toNat) 23 7 rfl op.isLt).trans ((above 8 3 _ (sc.toNat) 19 3 rfl sc.isLt).trans (whole 131072 (0) 16 rfl (by decide)))))
    have f7 : wordField w1 14 12 = sc.toNat := by rw [hv]; exact (above 128 7 _ (c.toNat) 14 12 rfl c.isLt).trans ((above_zeros 2 1 _ 7 5 rfl).trans ((above 16 4 _ (op.toNat) 6 4 rfl op.isLt).trans (lowest 8 _ (sc.toNat) 2 rfl sc.isLt)))
    have f8 : wordField w1 11 8 = op.toNat := by rw [hv]; exact (above 128 7 _ (c.toNat) 11 8 rfl c.isLt).trans ((above_zeros 2 1 _ 4 1 rfl).trans (lowest 16 _ (op.toNat) 3 rfl op.isLt))
    have f9 : wordField w1 7 7 = 0 := by rw [hv]; exact (above 128 7 _ (c.toNat) 7 7 rfl c.isLt).trans (lowest_zeros 2 _ 0 rfl)
    have f10 : wordField w1 6 0 = c.toNat := by rw [hv]; exact lowest 128 _ (c.toNat) 6 rfl c.isLt
    have he : encode (.latom 1#3 d i x b sc op c) = [w0, w1] := by subst ew ev; exact rfl
    rw [he]
    refine (major34 f0).trans ?_
    show decodeMajor34 w0 w1 = _
    simp only [decodeMajor34, f1, f2, f3, f4, f5, f6, f7, f8, f9, f10, BitVec.ofNat_toNat, BitVec.setWidth_eq]
    exact decodedIf_good _ _ hwf
  · have b0 := d.isLt
    have b1 := i.isLt
    have b2 := x.isLt
    have b3 := b.isLt
    have b4 := sc.isLt
    have b5 := op.isLt
    have b6 := c.isLt
    obtain ⟨w0, ew⟩ : ∃ w0, w0 = 0xD0000000 + 2 * 0x800000 + d.toNat * 0x10000 + i.toNat * 0x200 + x.toNat * 0x100 + b.toNat := ⟨_, rfl⟩
    have hw : w0 = ((((52 * 8 + 2) * 128 + d.toNat) * 128 + i.toNat) * 2 + x.toNat) * 256 + b.toNat := ew.trans (by clear ew; omega)
    obtain ⟨w1, ev⟩ : ∃ w1, w1 = sc.toNat * 0x1000 + op.toNat * 0x100 + c.toNat := ⟨_, rfl⟩
    have hv : w1 = (((0 * 8 + sc.toNat) * 16 + op.toNat) * 2) * 128 + c.toNat := ev.trans (by clear ew ev; omega)
    have f0 : wordField w0 31 26 = 52 := by rw [hw]; exact (above 256 8 _ (b.toNat) 31 26 rfl b.isLt).trans ((above 2 1 _ (x.toNat) 23 18 rfl x.isLt).trans ((above 128 7 _ (i.toNat) 22 17 rfl i.isLt).trans ((above 128 7 _ (d.toNat) 15 10 rfl d.isLt).trans ((above 8 3 _ (2) 8 3 rfl (by decide)).trans (whole 64 (52) 5 rfl (by decide))))))
    have f1 : wordField w0 25 23 = 2 := by rw [hw]; exact (above 256 8 _ (b.toNat) 25 23 rfl b.isLt).trans ((above 2 1 _ (x.toNat) 17 15 rfl x.isLt).trans ((above 128 7 _ (i.toNat) 16 14 rfl i.isLt).trans ((above 128 7 _ (d.toNat) 9 7 rfl d.isLt).trans (lowest 8 _ (2) 2 rfl (by decide)))))
    have f2 : wordField w0 22 16 = d.toNat := by rw [hw]; exact (above 256 8 _ (b.toNat) 22 16 rfl b.isLt).trans ((above 2 1 _ (x.toNat) 14 8 rfl x.isLt).trans ((above 128 7 _ (i.toNat) 13 7 rfl i.isLt).trans (lowest 128 _ (d.toNat) 6 rfl d.isLt)))
    have f3 : wordField w0 15 9 = i.toNat := by rw [hw]; exact (above 256 8 _ (b.toNat) 15 9 rfl b.isLt).trans ((above 2 1 _ (x.toNat) 7 1 rfl x.isLt).trans (lowest 128 _ (i.toNat) 6 rfl i.isLt))
    have f4 : wordField w0 8 8 = x.toNat := by rw [hw]; exact (above 256 8 _ (b.toNat) 8 8 rfl b.isLt).trans (lowest 2 _ (x.toNat) 0 rfl x.isLt)
    have f5 : wordField w0 7 0 = b.toNat := by rw [hw]; exact lowest 256 _ (b.toNat) 7 rfl b.isLt
    have f6 : wordField w1 31 15 = 0 := by rw [hv]; exact (above 128 7 _ (c.toNat) 31 15 rfl c.isLt).trans ((above_zeros 2 1 _ 24 8 rfl).trans ((above 16 4 _ (op.toNat) 23 7 rfl op.isLt).trans ((above 8 3 _ (sc.toNat) 19 3 rfl sc.isLt).trans (whole 131072 (0) 16 rfl (by decide)))))
    have f7 : wordField w1 14 12 = sc.toNat := by rw [hv]; exact (above 128 7 _ (c.toNat) 14 12 rfl c.isLt).trans ((above_zeros 2 1 _ 7 5 rfl).trans ((above 16 4 _ (op.toNat) 6 4 rfl op.isLt).trans (lowest 8 _ (sc.toNat) 2 rfl sc.isLt)))
    have f8 : wordField w1 11 8 = op.toNat := by rw [hv]; exact (above 128 7 _ (c.toNat) 11 8 rfl c.isLt).trans ((above_zeros 2 1 _ 4 1 rfl).trans (lowest 16 _ (op.toNat) 3 rfl op.isLt))
    have f9 : wordField w1 7 7 = 0 := by rw [hv]; exact (above 128 7 _ (c.toNat) 7 7 rfl c.isLt).trans (lowest_zeros 2 _ 0 rfl)
    have f10 : wordField w1 6 0 = c.toNat := by rw [hv]; exact lowest 128 _ (c.toNat) 6 rfl c.isLt
    have he : encode (.latom 2#3 d i x b sc op c) = [w0, w1] := by subst ew ev; exact rfl
    rw [he]
    refine (major34 f0).trans ?_
    show decodeMajor34 w0 w1 = _
    simp only [decodeMajor34, f1, f2, f3, f4, f5, f6, f7, f8, f9, f10, BitVec.ofNat_toNat, BitVec.setWidth_eq]
    exact decodedIf_good _ _ hwf
  · have b0 := d.isLt
    have b1 := i.isLt
    have b2 := x.isLt
    have b3 := b.isLt
    have b4 := sc.isLt
    have b5 := op.isLt
    have b6 := c.isLt
    obtain ⟨w0, ew⟩ : ∃ w0, w0 = 0xD0000000 + 3 * 0x800000 + d.toNat * 0x10000 + i.toNat * 0x200 + x.toNat * 0x100 + b.toNat := ⟨_, rfl⟩
    have hw : w0 = ((((52 * 8 + 3) * 128 + d.toNat) * 128 + i.toNat) * 2 + x.toNat) * 256 + b.toNat := ew.trans (by clear ew; omega)
    obtain ⟨w1, ev⟩ : ∃ w1, w1 = sc.toNat * 0x1000 + op.toNat * 0x100 + c.toNat := ⟨_, rfl⟩
    have hv : w1 = (((0 * 8 + sc.toNat) * 16 + op.toNat) * 2) * 128 + c.toNat := ev.trans (by clear ew ev; omega)
    have f0 : wordField w0 31 26 = 52 := by rw [hw]; exact (above 256 8 _ (b.toNat) 31 26 rfl b.isLt).trans ((above 2 1 _ (x.toNat) 23 18 rfl x.isLt).trans ((above 128 7 _ (i.toNat) 22 17 rfl i.isLt).trans ((above 128 7 _ (d.toNat) 15 10 rfl d.isLt).trans ((above 8 3 _ (3) 8 3 rfl (by decide)).trans (whole 64 (52) 5 rfl (by decide))))))
    have f1 : wordField w0 25 23 = 3 := by rw [hw]; exact (above 256 8 _ (b.toNat) 25 23 rfl b.isLt).trans ((above 2 1 _ (x.toNat) 17 15 rfl x.isLt).trans ((above 128 7 _ (i.toNat) 16 14 rfl i.isLt).trans ((above 128 7 _ (d.toNat) 9 7 rfl d.isLt).trans (lowest 8 _ (3) 2 rfl (by decide)))))
    have f2 : wordField w0 22 16 = d.toNat := by rw [hw]; exact (above 256 8 _ (b.toNat) 22 16 rfl b.isLt).trans ((above 2 1 _ (x.toNat) 14 8 rfl x.isLt).trans ((above 128 7 _ (i.toNat) 13 7 rfl i.isLt).trans (lowest 128 _ (d.toNat) 6 rfl d.isLt)))
    have f3 : wordField w0 15 9 = i.toNat := by rw [hw]; exact (above 256 8 _ (b.toNat) 15 9 rfl b.isLt).trans ((above 2 1 _ (x.toNat) 7 1 rfl x.isLt).trans (lowest 128 _ (i.toNat) 6 rfl i.isLt))
    have f4 : wordField w0 8 8 = x.toNat := by rw [hw]; exact (above 256 8 _ (b.toNat) 8 8 rfl b.isLt).trans (lowest 2 _ (x.toNat) 0 rfl x.isLt)
    have f5 : wordField w0 7 0 = b.toNat := by rw [hw]; exact lowest 256 _ (b.toNat) 7 rfl b.isLt
    have f6 : wordField w1 31 15 = 0 := by rw [hv]; exact (above 128 7 _ (c.toNat) 31 15 rfl c.isLt).trans ((above_zeros 2 1 _ 24 8 rfl).trans ((above 16 4 _ (op.toNat) 23 7 rfl op.isLt).trans ((above 8 3 _ (sc.toNat) 19 3 rfl sc.isLt).trans (whole 131072 (0) 16 rfl (by decide)))))
    have f7 : wordField w1 14 12 = sc.toNat := by rw [hv]; exact (above 128 7 _ (c.toNat) 14 12 rfl c.isLt).trans ((above_zeros 2 1 _ 7 5 rfl).trans ((above 16 4 _ (op.toNat) 6 4 rfl op.isLt).trans (lowest 8 _ (sc.toNat) 2 rfl sc.isLt)))
    have f8 : wordField w1 11 8 = op.toNat := by rw [hv]; exact (above 128 7 _ (c.toNat) 11 8 rfl c.isLt).trans ((above_zeros 2 1 _ 4 1 rfl).trans (lowest 16 _ (op.toNat) 3 rfl op.isLt))
    have f9 : wordField w1 7 7 = 0 := by rw [hv]; exact (above 128 7 _ (c.toNat) 7 7 rfl c.isLt).trans (lowest_zeros 2 _ 0 rfl)
    have f10 : wordField w1 6 0 = c.toNat := by rw [hv]; exact lowest 128 _ (c.toNat) 6 rfl c.isLt
    have he : encode (.latom 3#3 d i x b sc op c) = [w0, w1] := by subst ew ev; exact rfl
    rw [he]
    refine (major34 f0).trans ?_
    show decodeMajor34 w0 w1 = _
    simp only [decodeMajor34, f1, f2, f3, f4, f5, f6, f7, f8, f9, f10, BitVec.ofNat_toNat, BitVec.setWidth_eq]
    exact decodedIf_good _ _ hwf
  · have b0 := d.isLt
    have b1 := i.isLt
    have b2 := x.isLt
    have b3 := b.isLt
    have b4 := sc.isLt
    have b5 := op.isLt
    have b6 := c.isLt
    obtain ⟨w0, ew⟩ : ∃ w0, w0 = 0xD0000000 + 4 * 0x800000 + d.toNat * 0x10000 + i.toNat * 0x200 + x.toNat * 0x100 + b.toNat := ⟨_, rfl⟩
    have hw : w0 = ((((52 * 8 + 4) * 128 + d.toNat) * 128 + i.toNat) * 2 + x.toNat) * 256 + b.toNat := ew.trans (by clear ew; omega)
    obtain ⟨w1, ev⟩ : ∃ w1, w1 = sc.toNat * 0x1000 + op.toNat * 0x100 + c.toNat := ⟨_, rfl⟩
    have hv : w1 = (((0 * 8 + sc.toNat) * 16 + op.toNat) * 2) * 128 + c.toNat := ev.trans (by clear ew ev; omega)
    have f0 : wordField w0 31 26 = 52 := by rw [hw]; exact (above 256 8 _ (b.toNat) 31 26 rfl b.isLt).trans ((above 2 1 _ (x.toNat) 23 18 rfl x.isLt).trans ((above 128 7 _ (i.toNat) 22 17 rfl i.isLt).trans ((above 128 7 _ (d.toNat) 15 10 rfl d.isLt).trans ((above 8 3 _ (4) 8 3 rfl (by decide)).trans (whole 64 (52) 5 rfl (by decide))))))
    have f1 : wordField w0 25 23 = 4 := by rw [hw]; exact (above 256 8 _ (b.toNat) 25 23 rfl b.isLt).trans ((above 2 1 _ (x.toNat) 17 15 rfl x.isLt).trans ((above 128 7 _ (i.toNat) 16 14 rfl i.isLt).trans ((above 128 7 _ (d.toNat) 9 7 rfl d.isLt).trans (lowest 8 _ (4) 2 rfl (by decide)))))
    have f2 : wordField w0 22 16 = d.toNat := by rw [hw]; exact (above 256 8 _ (b.toNat) 22 16 rfl b.isLt).trans ((above 2 1 _ (x.toNat) 14 8 rfl x.isLt).trans ((above 128 7 _ (i.toNat) 13 7 rfl i.isLt).trans (lowest 128 _ (d.toNat) 6 rfl d.isLt)))
    have f3 : wordField w0 15 9 = i.toNat := by rw [hw]; exact (above 256 8 _ (b.toNat) 15 9 rfl b.isLt).trans ((above 2 1 _ (x.toNat) 7 1 rfl x.isLt).trans (lowest 128 _ (i.toNat) 6 rfl i.isLt))
    have f4 : wordField w0 8 8 = x.toNat := by rw [hw]; exact (above 256 8 _ (b.toNat) 8 8 rfl b.isLt).trans (lowest 2 _ (x.toNat) 0 rfl x.isLt)
    have f5 : wordField w0 7 0 = b.toNat := by rw [hw]; exact lowest 256 _ (b.toNat) 7 rfl b.isLt
    have f6 : wordField w1 31 15 = 0 := by rw [hv]; exact (above 128 7 _ (c.toNat) 31 15 rfl c.isLt).trans ((above_zeros 2 1 _ 24 8 rfl).trans ((above 16 4 _ (op.toNat) 23 7 rfl op.isLt).trans ((above 8 3 _ (sc.toNat) 19 3 rfl sc.isLt).trans (whole 131072 (0) 16 rfl (by decide)))))
    have f7 : wordField w1 14 12 = sc.toNat := by rw [hv]; exact (above 128 7 _ (c.toNat) 14 12 rfl c.isLt).trans ((above_zeros 2 1 _ 7 5 rfl).trans ((above 16 4 _ (op.toNat) 6 4 rfl op.isLt).trans (lowest 8 _ (sc.toNat) 2 rfl sc.isLt)))
    have f8 : wordField w1 11 8 = op.toNat := by rw [hv]; exact (above 128 7 _ (c.toNat) 11 8 rfl c.isLt).trans ((above_zeros 2 1 _ 4 1 rfl).trans (lowest 16 _ (op.toNat) 3 rfl op.isLt))
    have f9 : wordField w1 7 7 = 0 := by rw [hv]; exact (above 128 7 _ (c.toNat) 7 7 rfl c.isLt).trans (lowest_zeros 2 _ 0 rfl)
    have f10 : wordField w1 6 0 = c.toNat := by rw [hv]; exact lowest 128 _ (c.toNat) 6 rfl c.isLt
    have he : encode (.latom 4#3 d i x b sc op c) = [w0, w1] := by subst ew ev; exact rfl
    rw [he]
    refine (major34 f0).trans ?_
    show decodeMajor34 w0 w1 = _
    simp only [decodeMajor34, f1, f2, f3, f4, f5, f6, f7, f8, f9, f10, BitVec.ofNat_toNat, BitVec.setWidth_eq]
    exact decodedIf_good _ _ hwf
  · exact absurd hwf (by simp [Instr.wellFormed])
  · exact absurd hwf (by simp [Instr.wellFormed])
  · exact absurd hwf (by simp [Instr.wellFormed])

theorem atom (o : BitVec 3) (sl : BitVec 3) (i : BitVec 7) (x : BitVec 1) (b : BitVec 8) (sc : BitVec 3) (op : BitVec 4) (c : BitVec 7) : Statement (.atom o sl i x b sc op c) := by
  intro hcode hwf nx
  clear hcode
  have s_o : o = 0#3 ∨ o = 1#3 ∨ o = 2#3 ∨ o = 3#3 ∨ o = 4#3 ∨ o = 5#3 ∨ o = 6#3 ∨ o = 7#3 := by clear hwf; revert o; decide
  rcases s_o with rfl | rfl | rfl | rfl | rfl | rfl | rfl | rfl
  · have b0 := sl.isLt
    have b1 := i.isLt
    have b2 := x.isLt
    have b3 := b.isLt
    have b4 := sc.isLt
    have b5 := op.isLt
    have b6 := c.isLt
    obtain ⟨w0, ew⟩ : ∃ w0, w0 = 0xD4000000 + 0 * 0x800000 + sl.toNat * 0x10000 + i.toNat * 0x200 + x.toNat * 0x100 + b.toNat := ⟨_, rfl⟩
    have hw : w0 = (((((53 * 8) * 16) * 8 + sl.toNat) * 128 + i.toNat) * 2 + x.toNat) * 256 + b.toNat := ew.trans (by clear ew; omega)
    obtain ⟨w1, ev⟩ : ∃ w1, w1 = sc.toNat * 0x1000 + op.toNat * 0x100 + c.toNat := ⟨_, rfl⟩
    have hv : w1 = (((0 * 8 + sc.toNat) * 16 + op.toNat) * 2) * 128 + c.toNat := ev.trans (by clear ew ev; omega)
    have f0 : wordField w0 31 26 = 53 := by rw [hw]; exact (above 256 8 _ (b.toNat) 31 26 rfl b.isLt).trans ((above 2 1 _ (x.toNat) 23 18 rfl x.isLt).trans ((above 128 7 _ (i.toNat) 22 17 rfl i.isLt).trans ((above 8 3 _ (sl.toNat) 15 10 rfl sl.isLt).trans ((above_zeros 16 4 _ 12 7 rfl).trans ((above_zeros 8 3 _ 8 3 rfl).trans (whole 64 (53) 5 rfl (by decide)))))))
    have f1 : wordField w0 25 23 = 0 := by rw [hw]; exact (above 256 8 _ (b.toNat) 25 23 rfl b.isLt).trans ((above 2 1 _ (x.toNat) 17 15 rfl x.isLt).trans ((above 128 7 _ (i.toNat) 16 14 rfl i.isLt).trans ((above 8 3 _ (sl.toNat) 9 7 rfl sl.isLt).trans ((above_zeros 16 4 _ 6 4 rfl).trans (lowest_zeros 8 _ 2 rfl)))))
    have f2 : wordField w0 22 19 = 0 := by rw [hw]; exact (above 256 8 _ (b.toNat) 22 19 rfl b.isLt).trans ((above 2 1 _ (x.toNat) 14 11 rfl x.isLt).trans ((above 128 7 _ (i.toNat) 13 10 rfl i.isLt).trans ((above 8 3 _ (sl.toNat) 6 3 rfl sl.isLt).trans (lowest_zeros 16 _ 3 rfl))))
    have f3 : wordField w0 18 16 = sl.toNat := by rw [hw]; exact (above 256 8 _ (b.toNat) 18 16 rfl b.isLt).trans ((above 2 1 _ (x.toNat) 10 8 rfl x.isLt).trans ((above 128 7 _ (i.toNat) 9 7 rfl i.isLt).trans (lowest 8 _ (sl.toNat) 2 rfl sl.isLt)))
    have f4 : wordField w0 15 9 = i.toNat := by rw [hw]; exact (above 256 8 _ (b.toNat) 15 9 rfl b.isLt).trans ((above 2 1 _ (x.toNat) 7 1 rfl x.isLt).trans (lowest 128 _ (i.toNat) 6 rfl i.isLt))
    have f5 : wordField w0 8 8 = x.toNat := by rw [hw]; exact (above 256 8 _ (b.toNat) 8 8 rfl b.isLt).trans (lowest 2 _ (x.toNat) 0 rfl x.isLt)
    have f6 : wordField w0 7 0 = b.toNat := by rw [hw]; exact lowest 256 _ (b.toNat) 7 rfl b.isLt
    have f7 : wordField w1 31 15 = 0 := by rw [hv]; exact (above 128 7 _ (c.toNat) 31 15 rfl c.isLt).trans ((above_zeros 2 1 _ 24 8 rfl).trans ((above 16 4 _ (op.toNat) 23 7 rfl op.isLt).trans ((above 8 3 _ (sc.toNat) 19 3 rfl sc.isLt).trans (whole 131072 (0) 16 rfl (by decide)))))
    have f8 : wordField w1 14 12 = sc.toNat := by rw [hv]; exact (above 128 7 _ (c.toNat) 14 12 rfl c.isLt).trans ((above_zeros 2 1 _ 7 5 rfl).trans ((above 16 4 _ (op.toNat) 6 4 rfl op.isLt).trans (lowest 8 _ (sc.toNat) 2 rfl sc.isLt)))
    have f9 : wordField w1 11 8 = op.toNat := by rw [hv]; exact (above 128 7 _ (c.toNat) 11 8 rfl c.isLt).trans ((above_zeros 2 1 _ 4 1 rfl).trans (lowest 16 _ (op.toNat) 3 rfl op.isLt))
    have f10 : wordField w1 7 7 = 0 := by rw [hv]; exact (above 128 7 _ (c.toNat) 7 7 rfl c.isLt).trans (lowest_zeros 2 _ 0 rfl)
    have f11 : wordField w1 6 0 = c.toNat := by rw [hv]; exact lowest 128 _ (c.toNat) 6 rfl c.isLt
    have he : encode (.atom 0#3 sl i x b sc op c) = [w0, w1] := by subst ew ev; exact rfl
    rw [he]
    refine (major35 f0).trans ?_
    show decodeMajor35 w0 w1 = _
    simp only [decodeMajor35, f1, f2, f3, f4, f5, f6, f7, f8, f9, f10, f11, BitVec.ofNat_toNat, BitVec.setWidth_eq]
    exact decodedIf_good _ _ hwf
  · have b0 := sl.isLt
    have b1 := i.isLt
    have b2 := x.isLt
    have b3 := b.isLt
    have b4 := sc.isLt
    have b5 := op.isLt
    have b6 := c.isLt
    obtain ⟨w0, ew⟩ : ∃ w0, w0 = 0xD4000000 + 1 * 0x800000 + sl.toNat * 0x10000 + i.toNat * 0x200 + x.toNat * 0x100 + b.toNat := ⟨_, rfl⟩
    have hw : w0 = (((((53 * 8 + 1) * 16) * 8 + sl.toNat) * 128 + i.toNat) * 2 + x.toNat) * 256 + b.toNat := ew.trans (by clear ew; omega)
    obtain ⟨w1, ev⟩ : ∃ w1, w1 = sc.toNat * 0x1000 + op.toNat * 0x100 + c.toNat := ⟨_, rfl⟩
    have hv : w1 = (((0 * 8 + sc.toNat) * 16 + op.toNat) * 2) * 128 + c.toNat := ev.trans (by clear ew ev; omega)
    have f0 : wordField w0 31 26 = 53 := by rw [hw]; exact (above 256 8 _ (b.toNat) 31 26 rfl b.isLt).trans ((above 2 1 _ (x.toNat) 23 18 rfl x.isLt).trans ((above 128 7 _ (i.toNat) 22 17 rfl i.isLt).trans ((above 8 3 _ (sl.toNat) 15 10 rfl sl.isLt).trans ((above_zeros 16 4 _ 12 7 rfl).trans ((above 8 3 _ (1) 8 3 rfl (by decide)).trans (whole 64 (53) 5 rfl (by decide)))))))
    have f1 : wordField w0 25 23 = 1 := by rw [hw]; exact (above 256 8 _ (b.toNat) 25 23 rfl b.isLt).trans ((above 2 1 _ (x.toNat) 17 15 rfl x.isLt).trans ((above 128 7 _ (i.toNat) 16 14 rfl i.isLt).trans ((above 8 3 _ (sl.toNat) 9 7 rfl sl.isLt).trans ((above_zeros 16 4 _ 6 4 rfl).trans (lowest 8 _ (1) 2 rfl (by decide))))))
    have f2 : wordField w0 22 19 = 0 := by rw [hw]; exact (above 256 8 _ (b.toNat) 22 19 rfl b.isLt).trans ((above 2 1 _ (x.toNat) 14 11 rfl x.isLt).trans ((above 128 7 _ (i.toNat) 13 10 rfl i.isLt).trans ((above 8 3 _ (sl.toNat) 6 3 rfl sl.isLt).trans (lowest_zeros 16 _ 3 rfl))))
    have f3 : wordField w0 18 16 = sl.toNat := by rw [hw]; exact (above 256 8 _ (b.toNat) 18 16 rfl b.isLt).trans ((above 2 1 _ (x.toNat) 10 8 rfl x.isLt).trans ((above 128 7 _ (i.toNat) 9 7 rfl i.isLt).trans (lowest 8 _ (sl.toNat) 2 rfl sl.isLt)))
    have f4 : wordField w0 15 9 = i.toNat := by rw [hw]; exact (above 256 8 _ (b.toNat) 15 9 rfl b.isLt).trans ((above 2 1 _ (x.toNat) 7 1 rfl x.isLt).trans (lowest 128 _ (i.toNat) 6 rfl i.isLt))
    have f5 : wordField w0 8 8 = x.toNat := by rw [hw]; exact (above 256 8 _ (b.toNat) 8 8 rfl b.isLt).trans (lowest 2 _ (x.toNat) 0 rfl x.isLt)
    have f6 : wordField w0 7 0 = b.toNat := by rw [hw]; exact lowest 256 _ (b.toNat) 7 rfl b.isLt
    have f7 : wordField w1 31 15 = 0 := by rw [hv]; exact (above 128 7 _ (c.toNat) 31 15 rfl c.isLt).trans ((above_zeros 2 1 _ 24 8 rfl).trans ((above 16 4 _ (op.toNat) 23 7 rfl op.isLt).trans ((above 8 3 _ (sc.toNat) 19 3 rfl sc.isLt).trans (whole 131072 (0) 16 rfl (by decide)))))
    have f8 : wordField w1 14 12 = sc.toNat := by rw [hv]; exact (above 128 7 _ (c.toNat) 14 12 rfl c.isLt).trans ((above_zeros 2 1 _ 7 5 rfl).trans ((above 16 4 _ (op.toNat) 6 4 rfl op.isLt).trans (lowest 8 _ (sc.toNat) 2 rfl sc.isLt)))
    have f9 : wordField w1 11 8 = op.toNat := by rw [hv]; exact (above 128 7 _ (c.toNat) 11 8 rfl c.isLt).trans ((above_zeros 2 1 _ 4 1 rfl).trans (lowest 16 _ (op.toNat) 3 rfl op.isLt))
    have f10 : wordField w1 7 7 = 0 := by rw [hv]; exact (above 128 7 _ (c.toNat) 7 7 rfl c.isLt).trans (lowest_zeros 2 _ 0 rfl)
    have f11 : wordField w1 6 0 = c.toNat := by rw [hv]; exact lowest 128 _ (c.toNat) 6 rfl c.isLt
    have he : encode (.atom 1#3 sl i x b sc op c) = [w0, w1] := by subst ew ev; exact rfl
    rw [he]
    refine (major35 f0).trans ?_
    show decodeMajor35 w0 w1 = _
    simp only [decodeMajor35, f1, f2, f3, f4, f5, f6, f7, f8, f9, f10, f11, BitVec.ofNat_toNat, BitVec.setWidth_eq]
    exact decodedIf_good _ _ hwf
  · have b0 := sl.isLt
    have b1 := i.isLt
    have b2 := x.isLt
    have b3 := b.isLt
    have b4 := sc.isLt
    have b5 := op.isLt
    have b6 := c.isLt
    obtain ⟨w0, ew⟩ : ∃ w0, w0 = 0xD4000000 + 2 * 0x800000 + sl.toNat * 0x10000 + i.toNat * 0x200 + x.toNat * 0x100 + b.toNat := ⟨_, rfl⟩
    have hw : w0 = (((((53 * 8 + 2) * 16) * 8 + sl.toNat) * 128 + i.toNat) * 2 + x.toNat) * 256 + b.toNat := ew.trans (by clear ew; omega)
    obtain ⟨w1, ev⟩ : ∃ w1, w1 = sc.toNat * 0x1000 + op.toNat * 0x100 + c.toNat := ⟨_, rfl⟩
    have hv : w1 = (((0 * 8 + sc.toNat) * 16 + op.toNat) * 2) * 128 + c.toNat := ev.trans (by clear ew ev; omega)
    have f0 : wordField w0 31 26 = 53 := by rw [hw]; exact (above 256 8 _ (b.toNat) 31 26 rfl b.isLt).trans ((above 2 1 _ (x.toNat) 23 18 rfl x.isLt).trans ((above 128 7 _ (i.toNat) 22 17 rfl i.isLt).trans ((above 8 3 _ (sl.toNat) 15 10 rfl sl.isLt).trans ((above_zeros 16 4 _ 12 7 rfl).trans ((above 8 3 _ (2) 8 3 rfl (by decide)).trans (whole 64 (53) 5 rfl (by decide)))))))
    have f1 : wordField w0 25 23 = 2 := by rw [hw]; exact (above 256 8 _ (b.toNat) 25 23 rfl b.isLt).trans ((above 2 1 _ (x.toNat) 17 15 rfl x.isLt).trans ((above 128 7 _ (i.toNat) 16 14 rfl i.isLt).trans ((above 8 3 _ (sl.toNat) 9 7 rfl sl.isLt).trans ((above_zeros 16 4 _ 6 4 rfl).trans (lowest 8 _ (2) 2 rfl (by decide))))))
    have f2 : wordField w0 22 19 = 0 := by rw [hw]; exact (above 256 8 _ (b.toNat) 22 19 rfl b.isLt).trans ((above 2 1 _ (x.toNat) 14 11 rfl x.isLt).trans ((above 128 7 _ (i.toNat) 13 10 rfl i.isLt).trans ((above 8 3 _ (sl.toNat) 6 3 rfl sl.isLt).trans (lowest_zeros 16 _ 3 rfl))))
    have f3 : wordField w0 18 16 = sl.toNat := by rw [hw]; exact (above 256 8 _ (b.toNat) 18 16 rfl b.isLt).trans ((above 2 1 _ (x.toNat) 10 8 rfl x.isLt).trans ((above 128 7 _ (i.toNat) 9 7 rfl i.isLt).trans (lowest 8 _ (sl.toNat) 2 rfl sl.isLt)))
    have f4 : wordField w0 15 9 = i.toNat := by rw [hw]; exact (above 256 8 _ (b.toNat) 15 9 rfl b.isLt).trans ((above 2 1 _ (x.toNat) 7 1 rfl x.isLt).trans (lowest 128 _ (i.toNat) 6 rfl i.isLt))
    have f5 : wordField w0 8 8 = x.toNat := by rw [hw]; exact (above 256 8 _ (b.toNat) 8 8 rfl b.isLt).trans (lowest 2 _ (x.toNat) 0 rfl x.isLt)
    have f6 : wordField w0 7 0 = b.toNat := by rw [hw]; exact lowest 256 _ (b.toNat) 7 rfl b.isLt
    have f7 : wordField w1 31 15 = 0 := by rw [hv]; exact (above 128 7 _ (c.toNat) 31 15 rfl c.isLt).trans ((above_zeros 2 1 _ 24 8 rfl).trans ((above 16 4 _ (op.toNat) 23 7 rfl op.isLt).trans ((above 8 3 _ (sc.toNat) 19 3 rfl sc.isLt).trans (whole 131072 (0) 16 rfl (by decide)))))
    have f8 : wordField w1 14 12 = sc.toNat := by rw [hv]; exact (above 128 7 _ (c.toNat) 14 12 rfl c.isLt).trans ((above_zeros 2 1 _ 7 5 rfl).trans ((above 16 4 _ (op.toNat) 6 4 rfl op.isLt).trans (lowest 8 _ (sc.toNat) 2 rfl sc.isLt)))
    have f9 : wordField w1 11 8 = op.toNat := by rw [hv]; exact (above 128 7 _ (c.toNat) 11 8 rfl c.isLt).trans ((above_zeros 2 1 _ 4 1 rfl).trans (lowest 16 _ (op.toNat) 3 rfl op.isLt))
    have f10 : wordField w1 7 7 = 0 := by rw [hv]; exact (above 128 7 _ (c.toNat) 7 7 rfl c.isLt).trans (lowest_zeros 2 _ 0 rfl)
    have f11 : wordField w1 6 0 = c.toNat := by rw [hv]; exact lowest 128 _ (c.toNat) 6 rfl c.isLt
    have he : encode (.atom 2#3 sl i x b sc op c) = [w0, w1] := by subst ew ev; exact rfl
    rw [he]
    refine (major35 f0).trans ?_
    show decodeMajor35 w0 w1 = _
    simp only [decodeMajor35, f1, f2, f3, f4, f5, f6, f7, f8, f9, f10, f11, BitVec.ofNat_toNat, BitVec.setWidth_eq]
    exact decodedIf_good _ _ hwf
  · have b0 := sl.isLt
    have b1 := i.isLt
    have b2 := x.isLt
    have b3 := b.isLt
    have b4 := sc.isLt
    have b5 := op.isLt
    have b6 := c.isLt
    obtain ⟨w0, ew⟩ : ∃ w0, w0 = 0xD4000000 + 3 * 0x800000 + sl.toNat * 0x10000 + i.toNat * 0x200 + x.toNat * 0x100 + b.toNat := ⟨_, rfl⟩
    have hw : w0 = (((((53 * 8 + 3) * 16) * 8 + sl.toNat) * 128 + i.toNat) * 2 + x.toNat) * 256 + b.toNat := ew.trans (by clear ew; omega)
    obtain ⟨w1, ev⟩ : ∃ w1, w1 = sc.toNat * 0x1000 + op.toNat * 0x100 + c.toNat := ⟨_, rfl⟩
    have hv : w1 = (((0 * 8 + sc.toNat) * 16 + op.toNat) * 2) * 128 + c.toNat := ev.trans (by clear ew ev; omega)
    have f0 : wordField w0 31 26 = 53 := by rw [hw]; exact (above 256 8 _ (b.toNat) 31 26 rfl b.isLt).trans ((above 2 1 _ (x.toNat) 23 18 rfl x.isLt).trans ((above 128 7 _ (i.toNat) 22 17 rfl i.isLt).trans ((above 8 3 _ (sl.toNat) 15 10 rfl sl.isLt).trans ((above_zeros 16 4 _ 12 7 rfl).trans ((above 8 3 _ (3) 8 3 rfl (by decide)).trans (whole 64 (53) 5 rfl (by decide)))))))
    have f1 : wordField w0 25 23 = 3 := by rw [hw]; exact (above 256 8 _ (b.toNat) 25 23 rfl b.isLt).trans ((above 2 1 _ (x.toNat) 17 15 rfl x.isLt).trans ((above 128 7 _ (i.toNat) 16 14 rfl i.isLt).trans ((above 8 3 _ (sl.toNat) 9 7 rfl sl.isLt).trans ((above_zeros 16 4 _ 6 4 rfl).trans (lowest 8 _ (3) 2 rfl (by decide))))))
    have f2 : wordField w0 22 19 = 0 := by rw [hw]; exact (above 256 8 _ (b.toNat) 22 19 rfl b.isLt).trans ((above 2 1 _ (x.toNat) 14 11 rfl x.isLt).trans ((above 128 7 _ (i.toNat) 13 10 rfl i.isLt).trans ((above 8 3 _ (sl.toNat) 6 3 rfl sl.isLt).trans (lowest_zeros 16 _ 3 rfl))))
    have f3 : wordField w0 18 16 = sl.toNat := by rw [hw]; exact (above 256 8 _ (b.toNat) 18 16 rfl b.isLt).trans ((above 2 1 _ (x.toNat) 10 8 rfl x.isLt).trans ((above 128 7 _ (i.toNat) 9 7 rfl i.isLt).trans (lowest 8 _ (sl.toNat) 2 rfl sl.isLt)))
    have f4 : wordField w0 15 9 = i.toNat := by rw [hw]; exact (above 256 8 _ (b.toNat) 15 9 rfl b.isLt).trans ((above 2 1 _ (x.toNat) 7 1 rfl x.isLt).trans (lowest 128 _ (i.toNat) 6 rfl i.isLt))
    have f5 : wordField w0 8 8 = x.toNat := by rw [hw]; exact (above 256 8 _ (b.toNat) 8 8 rfl b.isLt).trans (lowest 2 _ (x.toNat) 0 rfl x.isLt)
    have f6 : wordField w0 7 0 = b.toNat := by rw [hw]; exact lowest 256 _ (b.toNat) 7 rfl b.isLt
    have f7 : wordField w1 31 15 = 0 := by rw [hv]; exact (above 128 7 _ (c.toNat) 31 15 rfl c.isLt).trans ((above_zeros 2 1 _ 24 8 rfl).trans ((above 16 4 _ (op.toNat) 23 7 rfl op.isLt).trans ((above 8 3 _ (sc.toNat) 19 3 rfl sc.isLt).trans (whole 131072 (0) 16 rfl (by decide)))))
    have f8 : wordField w1 14 12 = sc.toNat := by rw [hv]; exact (above 128 7 _ (c.toNat) 14 12 rfl c.isLt).trans ((above_zeros 2 1 _ 7 5 rfl).trans ((above 16 4 _ (op.toNat) 6 4 rfl op.isLt).trans (lowest 8 _ (sc.toNat) 2 rfl sc.isLt)))
    have f9 : wordField w1 11 8 = op.toNat := by rw [hv]; exact (above 128 7 _ (c.toNat) 11 8 rfl c.isLt).trans ((above_zeros 2 1 _ 4 1 rfl).trans (lowest 16 _ (op.toNat) 3 rfl op.isLt))
    have f10 : wordField w1 7 7 = 0 := by rw [hv]; exact (above 128 7 _ (c.toNat) 7 7 rfl c.isLt).trans (lowest_zeros 2 _ 0 rfl)
    have f11 : wordField w1 6 0 = c.toNat := by rw [hv]; exact lowest 128 _ (c.toNat) 6 rfl c.isLt
    have he : encode (.atom 3#3 sl i x b sc op c) = [w0, w1] := by subst ew ev; exact rfl
    rw [he]
    refine (major35 f0).trans ?_
    show decodeMajor35 w0 w1 = _
    simp only [decodeMajor35, f1, f2, f3, f4, f5, f6, f7, f8, f9, f10, f11, BitVec.ofNat_toNat, BitVec.setWidth_eq]
    exact decodedIf_good _ _ hwf
  · have b0 := sl.isLt
    have b1 := i.isLt
    have b2 := x.isLt
    have b3 := b.isLt
    have b4 := sc.isLt
    have b5 := op.isLt
    have b6 := c.isLt
    obtain ⟨w0, ew⟩ : ∃ w0, w0 = 0xD4000000 + 4 * 0x800000 + sl.toNat * 0x10000 + i.toNat * 0x200 + x.toNat * 0x100 + b.toNat := ⟨_, rfl⟩
    have hw : w0 = (((((53 * 8 + 4) * 16) * 8 + sl.toNat) * 128 + i.toNat) * 2 + x.toNat) * 256 + b.toNat := ew.trans (by clear ew; omega)
    obtain ⟨w1, ev⟩ : ∃ w1, w1 = sc.toNat * 0x1000 + op.toNat * 0x100 + c.toNat := ⟨_, rfl⟩
    have hv : w1 = (((0 * 8 + sc.toNat) * 16 + op.toNat) * 2) * 128 + c.toNat := ev.trans (by clear ew ev; omega)
    have f0 : wordField w0 31 26 = 53 := by rw [hw]; exact (above 256 8 _ (b.toNat) 31 26 rfl b.isLt).trans ((above 2 1 _ (x.toNat) 23 18 rfl x.isLt).trans ((above 128 7 _ (i.toNat) 22 17 rfl i.isLt).trans ((above 8 3 _ (sl.toNat) 15 10 rfl sl.isLt).trans ((above_zeros 16 4 _ 12 7 rfl).trans ((above 8 3 _ (4) 8 3 rfl (by decide)).trans (whole 64 (53) 5 rfl (by decide)))))))
    have f1 : wordField w0 25 23 = 4 := by rw [hw]; exact (above 256 8 _ (b.toNat) 25 23 rfl b.isLt).trans ((above 2 1 _ (x.toNat) 17 15 rfl x.isLt).trans ((above 128 7 _ (i.toNat) 16 14 rfl i.isLt).trans ((above 8 3 _ (sl.toNat) 9 7 rfl sl.isLt).trans ((above_zeros 16 4 _ 6 4 rfl).trans (lowest 8 _ (4) 2 rfl (by decide))))))
    have f2 : wordField w0 22 19 = 0 := by rw [hw]; exact (above 256 8 _ (b.toNat) 22 19 rfl b.isLt).trans ((above 2 1 _ (x.toNat) 14 11 rfl x.isLt).trans ((above 128 7 _ (i.toNat) 13 10 rfl i.isLt).trans ((above 8 3 _ (sl.toNat) 6 3 rfl sl.isLt).trans (lowest_zeros 16 _ 3 rfl))))
    have f3 : wordField w0 18 16 = sl.toNat := by rw [hw]; exact (above 256 8 _ (b.toNat) 18 16 rfl b.isLt).trans ((above 2 1 _ (x.toNat) 10 8 rfl x.isLt).trans ((above 128 7 _ (i.toNat) 9 7 rfl i.isLt).trans (lowest 8 _ (sl.toNat) 2 rfl sl.isLt)))
    have f4 : wordField w0 15 9 = i.toNat := by rw [hw]; exact (above 256 8 _ (b.toNat) 15 9 rfl b.isLt).trans ((above 2 1 _ (x.toNat) 7 1 rfl x.isLt).trans (lowest 128 _ (i.toNat) 6 rfl i.isLt))
    have f5 : wordField w0 8 8 = x.toNat := by rw [hw]; exact (above 256 8 _ (b.toNat) 8 8 rfl b.isLt).trans (lowest 2 _ (x.toNat) 0 rfl x.isLt)
    have f6 : wordField w0 7 0 = b.toNat := by rw [hw]; exact lowest 256 _ (b.toNat) 7 rfl b.isLt
    have f7 : wordField w1 31 15 = 0 := by rw [hv]; exact (above 128 7 _ (c.toNat) 31 15 rfl c.isLt).trans ((above_zeros 2 1 _ 24 8 rfl).trans ((above 16 4 _ (op.toNat) 23 7 rfl op.isLt).trans ((above 8 3 _ (sc.toNat) 19 3 rfl sc.isLt).trans (whole 131072 (0) 16 rfl (by decide)))))
    have f8 : wordField w1 14 12 = sc.toNat := by rw [hv]; exact (above 128 7 _ (c.toNat) 14 12 rfl c.isLt).trans ((above_zeros 2 1 _ 7 5 rfl).trans ((above 16 4 _ (op.toNat) 6 4 rfl op.isLt).trans (lowest 8 _ (sc.toNat) 2 rfl sc.isLt)))
    have f9 : wordField w1 11 8 = op.toNat := by rw [hv]; exact (above 128 7 _ (c.toNat) 11 8 rfl c.isLt).trans ((above_zeros 2 1 _ 4 1 rfl).trans (lowest 16 _ (op.toNat) 3 rfl op.isLt))
    have f10 : wordField w1 7 7 = 0 := by rw [hv]; exact (above 128 7 _ (c.toNat) 7 7 rfl c.isLt).trans (lowest_zeros 2 _ 0 rfl)
    have f11 : wordField w1 6 0 = c.toNat := by rw [hv]; exact lowest 128 _ (c.toNat) 6 rfl c.isLt
    have he : encode (.atom 4#3 sl i x b sc op c) = [w0, w1] := by subst ew ev; exact rfl
    rw [he]
    refine (major35 f0).trans ?_
    show decodeMajor35 w0 w1 = _
    simp only [decodeMajor35, f1, f2, f3, f4, f5, f6, f7, f8, f9, f10, f11, BitVec.ofNat_toNat, BitVec.setWidth_eq]
    exact decodedIf_good _ _ hwf
  · exact absurd hwf (by simp [Instr.wellFormed])
  · exact absurd hwf (by simp [Instr.wellFormed])
  · exact absurd hwf (by simp [Instr.wellFormed])

theorem ared (z : BitVec 7) (i : BitVec 7) (x : BitVec 1) (b : BitVec 8) (sc : BitVec 3) (op : BitVec 4) (c : BitVec 7) : Statement (.ared z i x b sc op c) := by
  intro hcode hwf nx
  clear hcode
  have b0 := z.isLt
  have b1 := i.isLt
  have b2 := x.isLt
  have b3 := b.isLt
  have b4 := sc.isLt
  have b5 := op.isLt
  have b6 := c.isLt
  obtain ⟨w0, ew⟩ : ∃ w0, w0 = 0xD6800000 + z.toNat * 0x10000 + i.toNat * 0x200 + x.toNat * 0x100 + b.toNat := ⟨_, rfl⟩
  have hw : w0 = ((((53 * 8 + 5) * 128 + z.toNat) * 128 + i.toNat) * 2 + x.toNat) * 256 + b.toNat := ew.trans (by clear ew; omega)
  obtain ⟨w1, ev⟩ : ∃ w1, w1 = sc.toNat * 0x1000 + op.toNat * 0x100 + c.toNat := ⟨_, rfl⟩
  have hv : w1 = (((0 * 8 + sc.toNat) * 16 + op.toNat) * 2) * 128 + c.toNat := ev.trans (by clear ew ev; omega)
  have f0 : wordField w0 31 26 = 53 := by rw [hw]; exact (above 256 8 _ (b.toNat) 31 26 rfl b.isLt).trans ((above 2 1 _ (x.toNat) 23 18 rfl x.isLt).trans ((above 128 7 _ (i.toNat) 22 17 rfl i.isLt).trans ((above 128 7 _ (z.toNat) 15 10 rfl z.isLt).trans ((above 8 3 _ (5) 8 3 rfl (by decide)).trans (whole 64 (53) 5 rfl (by decide))))))
  have f1 : wordField w0 25 23 = 5 := by rw [hw]; exact (above 256 8 _ (b.toNat) 25 23 rfl b.isLt).trans ((above 2 1 _ (x.toNat) 17 15 rfl x.isLt).trans ((above 128 7 _ (i.toNat) 16 14 rfl i.isLt).trans ((above 128 7 _ (z.toNat) 9 7 rfl z.isLt).trans (lowest 8 _ (5) 2 rfl (by decide)))))
  have f2 : wordField w0 22 16 = z.toNat := by rw [hw]; exact (above 256 8 _ (b.toNat) 22 16 rfl b.isLt).trans ((above 2 1 _ (x.toNat) 14 8 rfl x.isLt).trans ((above 128 7 _ (i.toNat) 13 7 rfl i.isLt).trans (lowest 128 _ (z.toNat) 6 rfl z.isLt)))
  have f3 : wordField w0 15 9 = i.toNat := by rw [hw]; exact (above 256 8 _ (b.toNat) 15 9 rfl b.isLt).trans ((above 2 1 _ (x.toNat) 7 1 rfl x.isLt).trans (lowest 128 _ (i.toNat) 6 rfl i.isLt))
  have f4 : wordField w0 8 8 = x.toNat := by rw [hw]; exact (above 256 8 _ (b.toNat) 8 8 rfl b.isLt).trans (lowest 2 _ (x.toNat) 0 rfl x.isLt)
  have f5 : wordField w0 7 0 = b.toNat := by rw [hw]; exact lowest 256 _ (b.toNat) 7 rfl b.isLt
  have f6 : wordField w1 31 15 = 0 := by rw [hv]; exact (above 128 7 _ (c.toNat) 31 15 rfl c.isLt).trans ((above_zeros 2 1 _ 24 8 rfl).trans ((above 16 4 _ (op.toNat) 23 7 rfl op.isLt).trans ((above 8 3 _ (sc.toNat) 19 3 rfl sc.isLt).trans (whole 131072 (0) 16 rfl (by decide)))))
  have f7 : wordField w1 14 12 = sc.toNat := by rw [hv]; exact (above 128 7 _ (c.toNat) 14 12 rfl c.isLt).trans ((above_zeros 2 1 _ 7 5 rfl).trans ((above 16 4 _ (op.toNat) 6 4 rfl op.isLt).trans (lowest 8 _ (sc.toNat) 2 rfl sc.isLt)))
  have f8 : wordField w1 11 8 = op.toNat := by rw [hv]; exact (above 128 7 _ (c.toNat) 11 8 rfl c.isLt).trans ((above_zeros 2 1 _ 4 1 rfl).trans (lowest 16 _ (op.toNat) 3 rfl op.isLt))
  have f9 : wordField w1 7 7 = 0 := by rw [hv]; exact (above 128 7 _ (c.toNat) 7 7 rfl c.isLt).trans (lowest_zeros 2 _ 0 rfl)
  have f10 : wordField w1 6 0 = c.toNat := by rw [hv]; exact lowest 128 _ (c.toNat) 6 rfl c.isLt
  have he : encode (.ared z i x b sc op c) = [w0, w1] := by subst ew ev; exact rfl
  rw [he]
  refine (major35 f0).trans ?_
  show decodeMajor35 w0 w1 = _
  simp only [decodeMajor35, f1, f2, f3, f4, f5, f6, f7, f8, f9, f10, BitVec.ofNat_toNat, BitVec.setWidth_eq]
  exact decodedIf_good _ _ hwf

theorem aredRel (z : BitVec 7) (i : BitVec 7) (x : BitVec 1) (b : BitVec 8) (sc : BitVec 3) (op : BitVec 4) (c : BitVec 7) : Statement (.aredRel z i x b sc op c) := by
  intro hcode hwf nx
  clear hcode
  have b0 := z.isLt
  have b1 := i.isLt
  have b2 := x.isLt
  have b3 := b.isLt
  have b4 := sc.isLt
  have b5 := op.isLt
  have b6 := c.isLt
  obtain ⟨w0, ew⟩ : ∃ w0, w0 = 0xD7000000 + z.toNat * 0x10000 + i.toNat * 0x200 + x.toNat * 0x100 + b.toNat := ⟨_, rfl⟩
  have hw : w0 = ((((53 * 8 + 6) * 128 + z.toNat) * 128 + i.toNat) * 2 + x.toNat) * 256 + b.toNat := ew.trans (by clear ew; omega)
  obtain ⟨w1, ev⟩ : ∃ w1, w1 = sc.toNat * 0x1000 + op.toNat * 0x100 + c.toNat := ⟨_, rfl⟩
  have hv : w1 = (((0 * 8 + sc.toNat) * 16 + op.toNat) * 2) * 128 + c.toNat := ev.trans (by clear ew ev; omega)
  have f0 : wordField w0 31 26 = 53 := by rw [hw]; exact (above 256 8 _ (b.toNat) 31 26 rfl b.isLt).trans ((above 2 1 _ (x.toNat) 23 18 rfl x.isLt).trans ((above 128 7 _ (i.toNat) 22 17 rfl i.isLt).trans ((above 128 7 _ (z.toNat) 15 10 rfl z.isLt).trans ((above 8 3 _ (6) 8 3 rfl (by decide)).trans (whole 64 (53) 5 rfl (by decide))))))
  have f1 : wordField w0 25 23 = 6 := by rw [hw]; exact (above 256 8 _ (b.toNat) 25 23 rfl b.isLt).trans ((above 2 1 _ (x.toNat) 17 15 rfl x.isLt).trans ((above 128 7 _ (i.toNat) 16 14 rfl i.isLt).trans ((above 128 7 _ (z.toNat) 9 7 rfl z.isLt).trans (lowest 8 _ (6) 2 rfl (by decide)))))
  have f2 : wordField w0 22 16 = z.toNat := by rw [hw]; exact (above 256 8 _ (b.toNat) 22 16 rfl b.isLt).trans ((above 2 1 _ (x.toNat) 14 8 rfl x.isLt).trans ((above 128 7 _ (i.toNat) 13 7 rfl i.isLt).trans (lowest 128 _ (z.toNat) 6 rfl z.isLt)))
  have f3 : wordField w0 15 9 = i.toNat := by rw [hw]; exact (above 256 8 _ (b.toNat) 15 9 rfl b.isLt).trans ((above 2 1 _ (x.toNat) 7 1 rfl x.isLt).trans (lowest 128 _ (i.toNat) 6 rfl i.isLt))
  have f4 : wordField w0 8 8 = x.toNat := by rw [hw]; exact (above 256 8 _ (b.toNat) 8 8 rfl b.isLt).trans (lowest 2 _ (x.toNat) 0 rfl x.isLt)
  have f5 : wordField w0 7 0 = b.toNat := by rw [hw]; exact lowest 256 _ (b.toNat) 7 rfl b.isLt
  have f6 : wordField w1 31 15 = 0 := by rw [hv]; exact (above 128 7 _ (c.toNat) 31 15 rfl c.isLt).trans ((above_zeros 2 1 _ 24 8 rfl).trans ((above 16 4 _ (op.toNat) 23 7 rfl op.isLt).trans ((above 8 3 _ (sc.toNat) 19 3 rfl sc.isLt).trans (whole 131072 (0) 16 rfl (by decide)))))
  have f7 : wordField w1 14 12 = sc.toNat := by rw [hv]; exact (above 128 7 _ (c.toNat) 14 12 rfl c.isLt).trans ((above_zeros 2 1 _ 7 5 rfl).trans ((above 16 4 _ (op.toNat) 6 4 rfl op.isLt).trans (lowest 8 _ (sc.toNat) 2 rfl sc.isLt)))
  have f8 : wordField w1 11 8 = op.toNat := by rw [hv]; exact (above 128 7 _ (c.toNat) 11 8 rfl c.isLt).trans ((above_zeros 2 1 _ 4 1 rfl).trans (lowest 16 _ (op.toNat) 3 rfl op.isLt))
  have f9 : wordField w1 7 7 = 0 := by rw [hv]; exact (above 128 7 _ (c.toNat) 7 7 rfl c.isLt).trans (lowest_zeros 2 _ 0 rfl)
  have f10 : wordField w1 6 0 = c.toNat := by rw [hv]; exact lowest 128 _ (c.toNat) 6 rfl c.isLt
  have he : encode (.aredRel z i x b sc op c) = [w0, w1] := by subst ew ev; exact rfl
  rw [he]
  refine (major35 f0).trans ?_
  show decodeMajor35 w0 w1 = _
  simp only [decodeMajor35, f1, f2, f3, f4, f5, f6, f7, f8, f9, f10, BitVec.ofNat_toNat, BitVec.setWidth_eq]
  exact decodedIf_good _ _ hwf

theorem rslotLd (d : BitVec 7) (s : BitVec 3) : Statement (.rslotLd d s) := by
  intro hcode hwf x
  clear hcode
  have b0 := d.isLt
  have b1 := s.isLt
  obtain ⟨w0, ew⟩ : ∃ w0, w0 = 0xD8000000 + d.toNat * 0x10000 + s.toNat * 0x200 := ⟨_, rfl⟩
  have hw : w0 = ((((54 * 8) * 128 + d.toNat) * 16) * 8 + s.toNat) * 512 := ew.trans (by clear ew; omega)
  have f0 : wordField w0 31 26 = 54 := by rw [hw]; exact (above_zeros 512 9 _ 31 26 rfl).trans ((above 8 3 _ (s.toNat) 22 17 rfl s.isLt).trans ((above_zeros 16 4 _ 19 14 rfl).trans ((above 128 7 _ (d.toNat) 15 10 rfl d.isLt).trans ((above_zeros 8 3 _ 8 3 rfl).trans (whole 64 (54) 5 rfl (by decide))))))
  have f1 : wordField w0 25 23 = 0 := by rw [hw]; exact (above_zeros 512 9 _ 25 23 rfl).trans ((above 8 3 _ (s.toNat) 16 14 rfl s.isLt).trans ((above_zeros 16 4 _ 13 11 rfl).trans ((above 128 7 _ (d.toNat) 9 7 rfl d.isLt).trans (lowest_zeros 8 _ 2 rfl))))
  have f2 : wordField w0 22 16 = d.toNat := by rw [hw]; exact (above_zeros 512 9 _ 22 16 rfl).trans ((above 8 3 _ (s.toNat) 13 7 rfl s.isLt).trans ((above_zeros 16 4 _ 10 4 rfl).trans (lowest 128 _ (d.toNat) 6 rfl d.isLt)))
  have f3 : wordField w0 15 12 = 0 := by rw [hw]; exact (above_zeros 512 9 _ 15 12 rfl).trans ((above 8 3 _ (s.toNat) 6 3 rfl s.isLt).trans (lowest_zeros 16 _ 3 rfl))
  have f4 : wordField w0 11 9 = s.toNat := by rw [hw]; exact (above_zeros 512 9 _ 11 9 rfl).trans (lowest 8 _ (s.toNat) 2 rfl s.isLt)
  have f5 : wordField w0 8 0 = 0 := by rw [hw]; exact lowest_zeros 512 _ 8 rfl
  have he : encode (.rslotLd d s) = [w0] := by subst ew; exact rfl
  rw [he]
  refine (major36 f0).trans ?_
  show decodeMajor36 w0 x = _
  simp only [decodeMajor36, f1, f2, f3, f4, f5, BitVec.ofNat_toNat, BitVec.setWidth_eq]
  exact decodedIf_good _ _ hwf

theorem rslotLd64 (d : BitVec 7) (s : BitVec 3) : Statement (.rslotLd64 d s) := by
  intro hcode hwf x
  clear hcode
  have b0 := d.isLt
  have b1 := s.isLt
  obtain ⟨w0, ew⟩ : ∃ w0, w0 = 0xD8800000 + d.toNat * 0x10000 + s.toNat * 0x200 := ⟨_, rfl⟩
  have hw : w0 = ((((54 * 8 + 1) * 128 + d.toNat) * 16) * 8 + s.toNat) * 512 := ew.trans (by clear ew; omega)
  have f0 : wordField w0 31 26 = 54 := by rw [hw]; exact (above_zeros 512 9 _ 31 26 rfl).trans ((above 8 3 _ (s.toNat) 22 17 rfl s.isLt).trans ((above_zeros 16 4 _ 19 14 rfl).trans ((above 128 7 _ (d.toNat) 15 10 rfl d.isLt).trans ((above 8 3 _ (1) 8 3 rfl (by decide)).trans (whole 64 (54) 5 rfl (by decide))))))
  have f1 : wordField w0 25 23 = 1 := by rw [hw]; exact (above_zeros 512 9 _ 25 23 rfl).trans ((above 8 3 _ (s.toNat) 16 14 rfl s.isLt).trans ((above_zeros 16 4 _ 13 11 rfl).trans ((above 128 7 _ (d.toNat) 9 7 rfl d.isLt).trans (lowest 8 _ (1) 2 rfl (by decide)))))
  have f2 : wordField w0 22 16 = d.toNat := by rw [hw]; exact (above_zeros 512 9 _ 22 16 rfl).trans ((above 8 3 _ (s.toNat) 13 7 rfl s.isLt).trans ((above_zeros 16 4 _ 10 4 rfl).trans (lowest 128 _ (d.toNat) 6 rfl d.isLt)))
  have f3 : wordField w0 15 12 = 0 := by rw [hw]; exact (above_zeros 512 9 _ 15 12 rfl).trans ((above 8 3 _ (s.toNat) 6 3 rfl s.isLt).trans (lowest_zeros 16 _ 3 rfl))
  have f4 : wordField w0 11 9 = s.toNat := by rw [hw]; exact (above_zeros 512 9 _ 11 9 rfl).trans (lowest 8 _ (s.toNat) 2 rfl s.isLt)
  have f5 : wordField w0 8 0 = 0 := by rw [hw]; exact lowest_zeros 512 _ 8 rfl
  have he : encode (.rslotLd64 d s) = [w0] := by subst ew; exact rfl
  rw [he]
  refine (major36 f0).trans ?_
  show decodeMajor36 w0 x = _
  simp only [decodeMajor36, f1, f2, f3, f4, f5, BitVec.ofNat_toNat, BitVec.setWidth_eq]
  exact decodedIf_good _ _ hwf

theorem rslotTest (k : BitVec 3) (s : BitVec 3) : Statement (.rslotTest k s) := by
  intro hcode hwf x
  clear hcode
  have b0 := k.isLt
  have b1 := s.isLt
  obtain ⟨w0, ew⟩ : ∃ w0, w0 = 0xD9000000 + k.toNat * 0x10000 + s.toNat * 0x200 := ⟨_, rfl⟩
  have hw : w0 = (((((54 * 8 + 2) * 16) * 8 + k.toNat) * 16) * 8 + s.toNat) * 512 := ew.trans (by clear ew; omega)
  have f0 : wordField w0 31 26 = 54 := by rw [hw]; exact (above_zeros 512 9 _ 31 26 rfl).trans ((above 8 3 _ (s.toNat) 22 17 rfl s.isLt).trans ((above_zeros 16 4 _ 19 14 rfl).trans ((above 8 3 _ (k.toNat) 15 10 rfl k.isLt).trans ((above_zeros 16 4 _ 12 7 rfl).trans ((above 8 3 _ (2) 8 3 rfl (by decide)).trans (whole 64 (54) 5 rfl (by decide)))))))
  have f1 : wordField w0 25 23 = 2 := by rw [hw]; exact (above_zeros 512 9 _ 25 23 rfl).trans ((above 8 3 _ (s.toNat) 16 14 rfl s.isLt).trans ((above_zeros 16 4 _ 13 11 rfl).trans ((above 8 3 _ (k.toNat) 9 7 rfl k.isLt).trans ((above_zeros 16 4 _ 6 4 rfl).trans (lowest 8 _ (2) 2 rfl (by decide))))))
  have f2 : wordField w0 22 19 = 0 := by rw [hw]; exact (above_zeros 512 9 _ 22 19 rfl).trans ((above 8 3 _ (s.toNat) 13 10 rfl s.isLt).trans ((above_zeros 16 4 _ 10 7 rfl).trans ((above 8 3 _ (k.toNat) 6 3 rfl k.isLt).trans (lowest_zeros 16 _ 3 rfl))))
  have f3 : wordField w0 18 16 = k.toNat := by rw [hw]; exact (above_zeros 512 9 _ 18 16 rfl).trans ((above 8 3 _ (s.toNat) 9 7 rfl s.isLt).trans ((above_zeros 16 4 _ 6 4 rfl).trans (lowest 8 _ (k.toNat) 2 rfl k.isLt)))
  have f4 : wordField w0 15 12 = 0 := by rw [hw]; exact (above_zeros 512 9 _ 15 12 rfl).trans ((above 8 3 _ (s.toNat) 6 3 rfl s.isLt).trans (lowest_zeros 16 _ 3 rfl))
  have f5 : wordField w0 11 9 = s.toNat := by rw [hw]; exact (above_zeros 512 9 _ 11 9 rfl).trans (lowest 8 _ (s.toNat) 2 rfl s.isLt)
  have f6 : wordField w0 8 0 = 0 := by rw [hw]; exact lowest_zeros 512 _ 8 rfl
  have he : encode (.rslotTest k s) = [w0] := by subst ew; exact rfl
  rw [he]
  refine (major36 f0).trans ?_
  show decodeMajor36 w0 x = _
  simp only [decodeMajor36, f1, f2, f3, f4, f5, f6, BitVec.ofNat_toNat, BitVec.setWidth_eq]
  exact decodedIf_good _ _ hwf

theorem hodCopy (d : BitVec 8) (b : BitVec 8) : Statement (.hodCopy d b) := by
  intro hcode hwf x
  clear hcode
  have b0 := d.isLt
  have b1 := b.isLt
  obtain ⟨w0, ew⟩ : ∃ w0, w0 = 0xDC000000 + d.toNat * 0x2000 + b.toNat * 0x20 := ⟨_, rfl⟩
  have hw : w0 = (((55 * 32) * 256 + d.toNat) * 256 + b.toNat) * 32 := ew.trans (by clear ew; omega)
  have f0 : wordField w0 31 26 = 55 := by rw [hw]; exact (above_zeros 32 5 _ 31 26 rfl).trans ((above 256 8 _ (b.toNat) 26 21 rfl b.isLt).trans ((above 256 8 _ (d.toNat) 18 13 rfl d.isLt).trans ((above_zeros 32 5 _ 10 5 rfl).trans (whole 64 (55) 5 rfl (by decide)))))
  have f1 : wordField w0 25 21 = 0 := by rw [hw]; exact (above_zeros 32 5 _ 25 21 rfl).trans ((above 256 8 _ (b.toNat) 20 16 rfl b.isLt).trans ((above 256 8 _ (d.toNat) 12 8 rfl d.isLt).trans (lowest_zeros 32 _ 4 rfl)))
  have f2 : wordField w0 20 13 = d.toNat := by rw [hw]; exact (above_zeros 32 5 _ 20 13 rfl).trans ((above 256 8 _ (b.toNat) 15 8 rfl b.isLt).trans (lowest 256 _ (d.toNat) 7 rfl d.isLt))
  have f3 : wordField w0 12 5 = b.toNat := by rw [hw]; exact (above_zeros 32 5 _ 12 5 rfl).trans (lowest 256 _ (b.toNat) 7 rfl b.isLt)
  have f4 : wordField w0 4 0 = 0 := by rw [hw]; exact lowest_zeros 32 _ 4 rfl
  have he : encode (.hodCopy d b) = [w0] := by subst ew; exact rfl
  rw [he]
  refine (major37 f0).trans ?_
  show decodeMajor37 w0 x = _
  simp only [decodeMajor37, f1, f2, f3, f4, BitVec.ofNat_toNat, BitVec.setWidth_eq]
  exact decodedIf_good _ _ hwf

theorem hodGather (d : BitVec 8) (b : BitVec 8) : Statement (.hodGather d b) := by
  intro hcode hwf x
  clear hcode
  have b0 := d.isLt
  have b1 := b.isLt
  obtain ⟨w0, ew⟩ : ∃ w0, w0 = 0xDC200000 + d.toNat * 0x2000 + b.toNat * 0x20 := ⟨_, rfl⟩
  have hw : w0 = (((55 * 32 + 1) * 256 + d.toNat) * 256 + b.toNat) * 32 := ew.trans (by clear ew; omega)
  have f0 : wordField w0 31 26 = 55 := by rw [hw]; exact (above_zeros 32 5 _ 31 26 rfl).trans ((above 256 8 _ (b.toNat) 26 21 rfl b.isLt).trans ((above 256 8 _ (d.toNat) 18 13 rfl d.isLt).trans ((above 32 5 _ (1) 10 5 rfl (by decide)).trans (whole 64 (55) 5 rfl (by decide)))))
  have f1 : wordField w0 25 21 = 1 := by rw [hw]; exact (above_zeros 32 5 _ 25 21 rfl).trans ((above 256 8 _ (b.toNat) 20 16 rfl b.isLt).trans ((above 256 8 _ (d.toNat) 12 8 rfl d.isLt).trans (lowest 32 _ (1) 4 rfl (by decide))))
  have f2 : wordField w0 20 13 = d.toNat := by rw [hw]; exact (above_zeros 32 5 _ 20 13 rfl).trans ((above 256 8 _ (b.toNat) 15 8 rfl b.isLt).trans (lowest 256 _ (d.toNat) 7 rfl d.isLt))
  have f3 : wordField w0 12 5 = b.toNat := by rw [hw]; exact (above_zeros 32 5 _ 12 5 rfl).trans (lowest 256 _ (b.toNat) 7 rfl b.isLt)
  have f4 : wordField w0 4 0 = 0 := by rw [hw]; exact lowest_zeros 32 _ 4 rfl
  have he : encode (.hodGather d b) = [w0] := by subst ew; exact rfl
  rw [he]
  refine (major37 f0).trans ?_
  show decodeMajor37 w0 x = _
  simp only [decodeMajor37, f1, f2, f3, f4, BitVec.ofNat_toNat, BitVec.setWidth_eq]
  exact decodedIf_good _ _ hwf

theorem hodScatter (d : BitVec 8) (b : BitVec 8) : Statement (.hodScatter d b) := by
  intro hcode hwf x
  clear hcode
  have b0 := d.isLt
  have b1 := b.isLt
  obtain ⟨w0, ew⟩ : ∃ w0, w0 = 0xDC400000 + d.toNat * 0x2000 + b.toNat * 0x20 := ⟨_, rfl⟩
  have hw : w0 = (((55 * 32 + 2) * 256 + d.toNat) * 256 + b.toNat) * 32 := ew.trans (by clear ew; omega)
  have f0 : wordField w0 31 26 = 55 := by rw [hw]; exact (above_zeros 32 5 _ 31 26 rfl).trans ((above 256 8 _ (b.toNat) 26 21 rfl b.isLt).trans ((above 256 8 _ (d.toNat) 18 13 rfl d.isLt).trans ((above 32 5 _ (2) 10 5 rfl (by decide)).trans (whole 64 (55) 5 rfl (by decide)))))
  have f1 : wordField w0 25 21 = 2 := by rw [hw]; exact (above_zeros 32 5 _ 25 21 rfl).trans ((above 256 8 _ (b.toNat) 20 16 rfl b.isLt).trans ((above 256 8 _ (d.toNat) 12 8 rfl d.isLt).trans (lowest 32 _ (2) 4 rfl (by decide))))
  have f2 : wordField w0 20 13 = d.toNat := by rw [hw]; exact (above_zeros 32 5 _ 20 13 rfl).trans ((above 256 8 _ (b.toNat) 15 8 rfl b.isLt).trans (lowest 256 _ (d.toNat) 7 rfl d.isLt))
  have f3 : wordField w0 12 5 = b.toNat := by rw [hw]; exact (above_zeros 32 5 _ 12 5 rfl).trans (lowest 256 _ (b.toNat) 7 rfl b.isLt)
  have f4 : wordField w0 4 0 = 0 := by rw [hw]; exact lowest_zeros 32 _ 4 rfl
  have he : encode (.hodScatter d b) = [w0] := by subst ew; exact rfl
  rw [he]
  refine (major37 f0).trans ?_
  show decodeMajor37 w0 x = _
  simp only [decodeMajor37, f1, f2, f3, f4, BitVec.ofNat_toNat, BitVec.setWidth_eq]
  exact decodedIf_good _ _ hwf

theorem hodFill (d : BitVec 8) (b : BitVec 8) : Statement (.hodFill d b) := by
  intro hcode hwf x
  clear hcode
  have b0 := d.isLt
  have b1 := b.isLt
  obtain ⟨w0, ew⟩ : ∃ w0, w0 = 0xDC600000 + d.toNat * 0x2000 + b.toNat * 0x20 := ⟨_, rfl⟩
  have hw : w0 = (((55 * 32 + 3) * 256 + d.toNat) * 256 + b.toNat) * 32 := ew.trans (by clear ew; omega)
  have f0 : wordField w0 31 26 = 55 := by rw [hw]; exact (above_zeros 32 5 _ 31 26 rfl).trans ((above 256 8 _ (b.toNat) 26 21 rfl b.isLt).trans ((above 256 8 _ (d.toNat) 18 13 rfl d.isLt).trans ((above 32 5 _ (3) 10 5 rfl (by decide)).trans (whole 64 (55) 5 rfl (by decide)))))
  have f1 : wordField w0 25 21 = 3 := by rw [hw]; exact (above_zeros 32 5 _ 25 21 rfl).trans ((above 256 8 _ (b.toNat) 20 16 rfl b.isLt).trans ((above 256 8 _ (d.toNat) 12 8 rfl d.isLt).trans (lowest 32 _ (3) 4 rfl (by decide))))
  have f2 : wordField w0 20 13 = d.toNat := by rw [hw]; exact (above_zeros 32 5 _ 20 13 rfl).trans ((above 256 8 _ (b.toNat) 15 8 rfl b.isLt).trans (lowest 256 _ (d.toNat) 7 rfl d.isLt))
  have f3 : wordField w0 12 5 = b.toNat := by rw [hw]; exact (above_zeros 32 5 _ 12 5 rfl).trans (lowest 256 _ (b.toNat) 7 rfl b.isLt)
  have f4 : wordField w0 4 0 = 0 := by rw [hw]; exact lowest_zeros 32 _ 4 rfl
  have he : encode (.hodFill d b) = [w0] := by subst ew; exact rfl
  rw [he]
  refine (major37 f0).trans ?_
  show decodeMajor37 w0 x = _
  simp only [decodeMajor37, f1, f2, f3, f4, BitVec.ofNat_toNat, BitVec.setWidth_eq]
  exact decodedIf_good _ _ hwf

theorem hodSend (d : BitVec 8) (b : BitVec 8) : Statement (.hodSend d b) := by
  intro hcode hwf x
  clear hcode
  have b0 := d.isLt
  have b1 := b.isLt
  obtain ⟨w0, ew⟩ : ∃ w0, w0 = 0xDC800000 + d.toNat * 0x2000 + b.toNat * 0x20 := ⟨_, rfl⟩
  have hw : w0 = (((55 * 32 + 4) * 256 + d.toNat) * 256 + b.toNat) * 32 := ew.trans (by clear ew; omega)
  have f0 : wordField w0 31 26 = 55 := by rw [hw]; exact (above_zeros 32 5 _ 31 26 rfl).trans ((above 256 8 _ (b.toNat) 26 21 rfl b.isLt).trans ((above 256 8 _ (d.toNat) 18 13 rfl d.isLt).trans ((above 32 5 _ (4) 10 5 rfl (by decide)).trans (whole 64 (55) 5 rfl (by decide)))))
  have f1 : wordField w0 25 21 = 4 := by rw [hw]; exact (above_zeros 32 5 _ 25 21 rfl).trans ((above 256 8 _ (b.toNat) 20 16 rfl b.isLt).trans ((above 256 8 _ (d.toNat) 12 8 rfl d.isLt).trans (lowest 32 _ (4) 4 rfl (by decide))))
  have f2 : wordField w0 20 13 = d.toNat := by rw [hw]; exact (above_zeros 32 5 _ 20 13 rfl).trans ((above 256 8 _ (b.toNat) 15 8 rfl b.isLt).trans (lowest 256 _ (d.toNat) 7 rfl d.isLt))
  have f3 : wordField w0 12 5 = b.toNat := by rw [hw]; exact (above_zeros 32 5 _ 12 5 rfl).trans (lowest 256 _ (b.toNat) 7 rfl b.isLt)
  have f4 : wordField w0 4 0 = 0 := by rw [hw]; exact lowest_zeros 32 _ 4 rfl
  have he : encode (.hodSend d b) = [w0] := by subst ew; exact rfl
  rw [he]
  refine (major37 f0).trans ?_
  show decodeMajor37 w0 x = _
  simp only [decodeMajor37, f1, f2, f3, f4, BitVec.ofNat_toNat, BitVec.setWidth_eq]
  exact decodedIf_good _ _ hwf

theorem hodReduce (d : BitVec 8) (b : BitVec 8) : Statement (.hodReduce d b) := by
  intro hcode hwf x
  clear hcode
  have b0 := d.isLt
  have b1 := b.isLt
  obtain ⟨w0, ew⟩ : ∃ w0, w0 = 0xDCA00000 + d.toNat * 0x2000 + b.toNat * 0x20 := ⟨_, rfl⟩
  have hw : w0 = (((55 * 32 + 5) * 256 + d.toNat) * 256 + b.toNat) * 32 := ew.trans (by clear ew; omega)
  have f0 : wordField w0 31 26 = 55 := by rw [hw]; exact (above_zeros 32 5 _ 31 26 rfl).trans ((above 256 8 _ (b.toNat) 26 21 rfl b.isLt).trans ((above 256 8 _ (d.toNat) 18 13 rfl d.isLt).trans ((above 32 5 _ (5) 10 5 rfl (by decide)).trans (whole 64 (55) 5 rfl (by decide)))))
  have f1 : wordField w0 25 21 = 5 := by rw [hw]; exact (above_zeros 32 5 _ 25 21 rfl).trans ((above 256 8 _ (b.toNat) 20 16 rfl b.isLt).trans ((above 256 8 _ (d.toNat) 12 8 rfl d.isLt).trans (lowest 32 _ (5) 4 rfl (by decide))))
  have f2 : wordField w0 20 13 = d.toNat := by rw [hw]; exact (above_zeros 32 5 _ 20 13 rfl).trans ((above 256 8 _ (b.toNat) 15 8 rfl b.isLt).trans (lowest 256 _ (d.toNat) 7 rfl d.isLt))
  have f3 : wordField w0 12 5 = b.toNat := by rw [hw]; exact (above_zeros 32 5 _ 12 5 rfl).trans (lowest 256 _ (b.toNat) 7 rfl b.isLt)
  have f4 : wordField w0 4 0 = 0 := by rw [hw]; exact lowest_zeros 32 _ 4 rfl
  have he : encode (.hodReduce d b) = [w0] := by subst ew; exact rfl
  rw [he]
  refine (major37 f0).trans ?_
  show decodeMajor37 w0 x = _
  simp only [decodeMajor37, f1, f2, f3, f4, BitVec.ofNat_toNat, BitVec.setWidth_eq]
  exact decodedIf_good _ _ hwf

theorem hodPrefetch (d : BitVec 8) (b : BitVec 8) : Statement (.hodPrefetch d b) := by
  intro hcode hwf x
  clear hcode
  have b0 := d.isLt
  have b1 := b.isLt
  obtain ⟨w0, ew⟩ : ∃ w0, w0 = 0xDCC00000 + d.toNat * 0x2000 + b.toNat * 0x20 := ⟨_, rfl⟩
  have hw : w0 = (((55 * 32 + 6) * 256 + d.toNat) * 256 + b.toNat) * 32 := ew.trans (by clear ew; omega)
  have f0 : wordField w0 31 26 = 55 := by rw [hw]; exact (above_zeros 32 5 _ 31 26 rfl).trans ((above 256 8 _ (b.toNat) 26 21 rfl b.isLt).trans ((above 256 8 _ (d.toNat) 18 13 rfl d.isLt).trans ((above 32 5 _ (6) 10 5 rfl (by decide)).trans (whole 64 (55) 5 rfl (by decide)))))
  have f1 : wordField w0 25 21 = 6 := by rw [hw]; exact (above_zeros 32 5 _ 25 21 rfl).trans ((above 256 8 _ (b.toNat) 20 16 rfl b.isLt).trans ((above 256 8 _ (d.toNat) 12 8 rfl d.isLt).trans (lowest 32 _ (6) 4 rfl (by decide))))
  have f2 : wordField w0 20 13 = d.toNat := by rw [hw]; exact (above_zeros 32 5 _ 20 13 rfl).trans ((above 256 8 _ (b.toNat) 15 8 rfl b.isLt).trans (lowest 256 _ (d.toNat) 7 rfl d.isLt))
  have f3 : wordField w0 12 5 = b.toNat := by rw [hw]; exact (above_zeros 32 5 _ 12 5 rfl).trans (lowest 256 _ (b.toNat) 7 rfl b.isLt)
  have f4 : wordField w0 4 0 = 0 := by rw [hw]; exact lowest_zeros 32 _ 4 rfl
  have he : encode (.hodPrefetch d b) = [w0] := by subst ew; exact rfl
  rw [he]
  refine (major37 f0).trans ?_
  show decodeMajor37 w0 x = _
  simp only [decodeMajor37, f1, f2, f3, f4, BitVec.ofNat_toNat, BitVec.setWidth_eq]
  exact decodedIf_good _ _ hwf

theorem ccPrefetch (a : BitVec 8) (l : BitVec 8) : Statement (.ccPrefetch a l) := by
  intro hcode hwf x
  clear hcode
  have b0 := a.isLt
  have b1 := l.isLt
  obtain ⟨w0, ew⟩ : ∃ w0, w0 = 0xE0000000 + a.toNat * 0x2000 + l.toNat * 0x20 := ⟨_, rfl⟩
  have hw : w0 = (((56 * 32) * 256 + a.toNat) * 256 + l.toNat) * 32 := ew.trans (by clear ew; omega)
  have f0 : wordField w0 31 26 = 56 := by rw [hw]; exact (above_zeros 32 5 _ 31 26 rfl).trans ((above 256 8 _ (l.toNat) 26 21 rfl l.isLt).trans ((above 256 8 _ (a.toNat) 18 13 rfl a.isLt).trans ((above_zeros 32 5 _ 10 5 rfl).trans (whole 64 (56) 5 rfl (by decide)))))
  have f1 : wordField w0 25 21 = 0 := by rw [hw]; exact (above_zeros 32 5 _ 25 21 rfl).trans ((above 256 8 _ (l.toNat) 20 16 rfl l.isLt).trans ((above 256 8 _ (a.toNat) 12 8 rfl a.isLt).trans (lowest_zeros 32 _ 4 rfl)))
  have f2 : wordField w0 20 13 = a.toNat := by rw [hw]; exact (above_zeros 32 5 _ 20 13 rfl).trans ((above 256 8 _ (l.toNat) 15 8 rfl l.isLt).trans (lowest 256 _ (a.toNat) 7 rfl a.isLt))
  have f3 : wordField w0 12 5 = l.toNat := by rw [hw]; exact (above_zeros 32 5 _ 12 5 rfl).trans (lowest 256 _ (l.toNat) 7 rfl l.isLt)
  have f4 : wordField w0 4 0 = 0 := by rw [hw]; exact lowest_zeros 32 _ 4 rfl
  have he : encode (.ccPrefetch a l) = [w0] := by subst ew; exact rfl
  rw [he]
  refine (major38 f0).trans ?_
  show decodeMajor38 w0 x = _
  simp only [decodeMajor38, f1, f2, f3, f4, BitVec.ofNat_toNat, BitVec.setWidth_eq]
  exact decodedIf_good _ _ hwf

theorem ccWb (a : BitVec 8) (l : BitVec 8) : Statement (.ccWb a l) := by
  intro hcode hwf x
  clear hcode
  have b0 := a.isLt
  have b1 := l.isLt
  obtain ⟨w0, ew⟩ : ∃ w0, w0 = 0xE0200000 + a.toNat * 0x2000 + l.toNat * 0x20 := ⟨_, rfl⟩
  have hw : w0 = (((56 * 32 + 1) * 256 + a.toNat) * 256 + l.toNat) * 32 := ew.trans (by clear ew; omega)
  have f0 : wordField w0 31 26 = 56 := by rw [hw]; exact (above_zeros 32 5 _ 31 26 rfl).trans ((above 256 8 _ (l.toNat) 26 21 rfl l.isLt).trans ((above 256 8 _ (a.toNat) 18 13 rfl a.isLt).trans ((above 32 5 _ (1) 10 5 rfl (by decide)).trans (whole 64 (56) 5 rfl (by decide)))))
  have f1 : wordField w0 25 21 = 1 := by rw [hw]; exact (above_zeros 32 5 _ 25 21 rfl).trans ((above 256 8 _ (l.toNat) 20 16 rfl l.isLt).trans ((above 256 8 _ (a.toNat) 12 8 rfl a.isLt).trans (lowest 32 _ (1) 4 rfl (by decide))))
  have f2 : wordField w0 20 13 = a.toNat := by rw [hw]; exact (above_zeros 32 5 _ 20 13 rfl).trans ((above 256 8 _ (l.toNat) 15 8 rfl l.isLt).trans (lowest 256 _ (a.toNat) 7 rfl a.isLt))
  have f3 : wordField w0 12 5 = l.toNat := by rw [hw]; exact (above_zeros 32 5 _ 12 5 rfl).trans (lowest 256 _ (l.toNat) 7 rfl l.isLt)
  have f4 : wordField w0 4 0 = 0 := by rw [hw]; exact lowest_zeros 32 _ 4 rfl
  have he : encode (.ccWb a l) = [w0] := by subst ew; exact rfl
  rw [he]
  refine (major38 f0).trans ?_
  show decodeMajor38 w0 x = _
  simp only [decodeMajor38, f1, f2, f3, f4, BitVec.ofNat_toNat, BitVec.setWidth_eq]
  exact decodedIf_good _ _ hwf

theorem ccDiscard (a : BitVec 8) (l : BitVec 8) : Statement (.ccDiscard a l) := by
  intro hcode hwf x
  clear hcode
  have b0 := a.isLt
  have b1 := l.isLt
  obtain ⟨w0, ew⟩ : ∃ w0, w0 = 0xE0400000 + a.toNat * 0x2000 + l.toNat * 0x20 := ⟨_, rfl⟩
  have hw : w0 = (((56 * 32 + 2) * 256 + a.toNat) * 256 + l.toNat) * 32 := ew.trans (by clear ew; omega)
  have f0 : wordField w0 31 26 = 56 := by rw [hw]; exact (above_zeros 32 5 _ 31 26 rfl).trans ((above 256 8 _ (l.toNat) 26 21 rfl l.isLt).trans ((above 256 8 _ (a.toNat) 18 13 rfl a.isLt).trans ((above 32 5 _ (2) 10 5 rfl (by decide)).trans (whole 64 (56) 5 rfl (by decide)))))
  have f1 : wordField w0 25 21 = 2 := by rw [hw]; exact (above_zeros 32 5 _ 25 21 rfl).trans ((above 256 8 _ (l.toNat) 20 16 rfl l.isLt).trans ((above 256 8 _ (a.toNat) 12 8 rfl a.isLt).trans (lowest 32 _ (2) 4 rfl (by decide))))
  have f2 : wordField w0 20 13 = a.toNat := by rw [hw]; exact (above_zeros 32 5 _ 20 13 rfl).trans ((above 256 8 _ (l.toNat) 15 8 rfl l.isLt).trans (lowest 256 _ (a.toNat) 7 rfl a.isLt))
  have f3 : wordField w0 12 5 = l.toNat := by rw [hw]; exact (above_zeros 32 5 _ 12 5 rfl).trans (lowest 256 _ (l.toNat) 7 rfl l.isLt)
  have f4 : wordField w0 4 0 = 0 := by rw [hw]; exact lowest_zeros 32 _ 4 rfl
  have he : encode (.ccDiscard a l) = [w0] := by subst ew; exact rfl
  rw [he]
  refine (major38 f0).trans ?_
  show decodeMajor38 w0 x = _
  simp only [decodeMajor38, f1, f2, f3, f4, BitVec.ofNat_toNat, BitVec.setWidth_eq]
  exact decodedIf_good _ _ hwf

theorem ringAcq (d : BitVec 8) (r : BitVec 4) : Statement (.ringAcq d r) := by
  intro hcode hwf x
  clear hcode
  have b0 := d.isLt
  have b1 := r.isLt
  obtain ⟨w0, ew⟩ : ∃ w0, w0 = 0xE4000000 + d.toNat * 0x10000 + r.toNat := ⟨_, rfl⟩
  have hw : w0 = (((57 * 4) * 256 + d.toNat) * 4096) * 16 + r.toNat := ew.trans (by clear ew; omega)
  have f0 : wordField w0 31 26 = 57 := by rw [hw]; exact (above 16 4 _ (r.toNat) 31 26 rfl r.isLt).trans ((above_zeros 4096 12 _ 27 22 rfl).trans ((above 256 8 _ (d.toNat) 15 10 rfl d.isLt).trans ((above_zeros 4 2 _ 7 2 rfl).trans (whole 64 (57) 5 rfl (by decide)))))
  have f1 : wordField w0 25 24 = 0 := by rw [hw]; exact (above 16 4 _ (r.toNat) 25 24 rfl r.isLt).trans ((above_zeros 4096 12 _ 21 20 rfl).trans ((above 256 8 _ (d.toNat) 9 8 rfl d.isLt).trans (lowest_zeros 4 _ 1 rfl)))
  have f2 : wordField w0 23 16 = d.toNat := by rw [hw]; exact (above 16 4 _ (r.toNat) 23 16 rfl r.isLt).trans ((above_zeros 4096 12 _ 19 12 rfl).trans (lowest 256 _ (d.toNat) 7 rfl d.isLt))
  have f3 : wordField w0 15 4 = 0 := by rw [hw]; exact (above 16 4 _ (r.toNat) 15 4 rfl r.isLt).trans (lowest_zeros 4096 _ 11 rfl)
  have f4 : wordField w0 3 0 = r.toNat := by rw [hw]; exact lowest 16 _ (r.toNat) 3 rfl r.isLt
  have he : encode (.ringAcq d r) = [w0] := by subst ew; exact rfl
  rw [he]
  refine (major39 f0).trans ?_
  show decodeMajor39 w0 x = _
  simp only [decodeMajor39, f1, f2, f3, f4, BitVec.ofNat_toNat, BitVec.setWidth_eq]
  exact decodedIf_good _ _ hwf

theorem ringCommit (a : BitVec 8) (r : BitVec 4) : Statement (.ringCommit a r) := by
  intro hcode hwf x
  clear hcode
  have b0 := a.isLt
  have b1 := r.isLt
  obtain ⟨w0, ew⟩ : ∃ w0, w0 = 0xE5000000 + a.toNat * 0x100 + r.toNat := ⟨_, rfl⟩
  have hw : w0 = ((((57 * 4 + 1) * 256) * 256 + a.toNat) * 16) * 16 + r.toNat := ew.trans (by clear ew; omega)
  have f0 : wordField w0 31 26 = 57 := by rw [hw]; exact (above 16 4 _ (r.toNat) 31 26 rfl r.isLt).trans ((above_zeros 16 4 _ 27 22 rfl).trans ((above 256 8 _ (a.toNat) 23 18 rfl a.isLt).trans ((above_zeros 256 8 _ 15 10 rfl).trans ((above 4 2 _ (1) 7 2 rfl (by decide)).trans (whole 64 (57) 5 rfl (by decide))))))
  have f1 : wordField w0 25 24 = 1 := by rw [hw]; exact (above 16 4 _ (r.toNat) 25 24 rfl r.isLt).trans ((above_zeros 16 4 _ 21 20 rfl).trans ((above 256 8 _ (a.toNat) 17 16 rfl a.isLt).trans ((above_zeros 256 8 _ 9 8 rfl).trans (lowest 4 _ (1) 1 rfl (by decide)))))
  have f2 : wordField w0 23 16 = 0 := by rw [hw]; exact (above 16 4 _ (r.toNat) 23 16 rfl r.isLt).trans ((above_zeros 16 4 _ 19 12 rfl).trans ((above 256 8 _ (a.toNat) 15 8 rfl a.isLt).trans (lowest_zeros 256 _ 7 rfl)))
  have f3 : wordField w0 15 8 = a.toNat := by rw [hw]; exact (above 16 4 _ (r.toNat) 15 8 rfl r.isLt).trans ((above_zeros 16 4 _ 11 4 rfl).trans (lowest 256 _ (a.toNat) 7 rfl a.isLt))
  have f4 : wordField w0 7 4 = 0 := by rw [hw]; exact (above 16 4 _ (r.toNat) 7 4 rfl r.isLt).trans (lowest_zeros 16 _ 3 rfl)
  have f5 : wordField w0 3 0 = r.toNat := by rw [hw]; exact lowest 16 _ (r.toNat) 3 rfl r.isLt
  have he : encode (.ringCommit a r) = [w0] := by subst ew; exact rfl
  rw [he]
  refine (major39 f0).trans ?_
  show decodeMajor39 w0 x = _
  simp only [decodeMajor39, f1, f2, f3, f4, f5, BitVec.ofNat_toNat, BitVec.setWidth_eq]
  exact decodedIf_good _ _ hwf

theorem ringWait (d : BitVec 8) (r : BitVec 4) : Statement (.ringWait d r) := by
  intro hcode hwf x
  clear hcode
  have b0 := d.isLt
  have b1 := r.isLt
  obtain ⟨w0, ew⟩ : ∃ w0, w0 = 0xE6000000 + d.toNat * 0x10000 + r.toNat := ⟨_, rfl⟩
  have hw : w0 = (((57 * 4 + 2) * 256 + d.toNat) * 4096) * 16 + r.toNat := ew.trans (by clear ew; omega)
  have f0 : wordField w0 31 26 = 57 := by rw [hw]; exact (above 16 4 _ (r.toNat) 31 26 rfl r.isLt).trans ((above_zeros 4096 12 _ 27 22 rfl).trans ((above 256 8 _ (d.toNat) 15 10 rfl d.isLt).trans ((above 4 2 _ (2) 7 2 rfl (by decide)).trans (whole 64 (57) 5 rfl (by decide)))))
  have f1 : wordField w0 25 24 = 2 := by rw [hw]; exact (above 16 4 _ (r.toNat) 25 24 rfl r.isLt).trans ((above_zeros 4096 12 _ 21 20 rfl).trans ((above 256 8 _ (d.toNat) 9 8 rfl d.isLt).trans (lowest 4 _ (2) 1 rfl (by decide))))
  have f2 : wordField w0 23 16 = d.toNat := by rw [hw]; exact (above 16 4 _ (r.toNat) 23 16 rfl r.isLt).trans ((above_zeros 4096 12 _ 19 12 rfl).trans (lowest 256 _ (d.toNat) 7 rfl d.isLt))
  have f3 : wordField w0 15 4 = 0 := by rw [hw]; exact (above 16 4 _ (r.toNat) 15 4 rfl r.isLt).trans (lowest_zeros 4096 _ 11 rfl)
  have f4 : wordField w0 3 0 = r.toNat := by rw [hw]; exact lowest 16 _ (r.toNat) 3 rfl r.isLt
  have he : encode (.ringWait d r) = [w0] := by subst ew; exact rfl
  rw [he]
  refine (major39 f0).trans ?_
  show decodeMajor39 w0 x = _
  simp only [decodeMajor39, f1, f2, f3, f4, BitVec.ofNat_toNat, BitVec.setWidth_eq]
  exact decodedIf_good _ _ hwf

theorem ringFree (a : BitVec 8) (r : BitVec 4) : Statement (.ringFree a r) := by
  intro hcode hwf x
  clear hcode
  have b0 := a.isLt
  have b1 := r.isLt
  obtain ⟨w0, ew⟩ : ∃ w0, w0 = 0xE7000000 + a.toNat * 0x100 + r.toNat := ⟨_, rfl⟩
  have hw : w0 = ((((57 * 4 + 3) * 256) * 256 + a.toNat) * 16) * 16 + r.toNat := ew.trans (by clear ew; omega)
  have f0 : wordField w0 31 26 = 57 := by rw [hw]; exact (above 16 4 _ (r.toNat) 31 26 rfl r.isLt).trans ((above_zeros 16 4 _ 27 22 rfl).trans ((above 256 8 _ (a.toNat) 23 18 rfl a.isLt).trans ((above_zeros 256 8 _ 15 10 rfl).trans ((above 4 2 _ (3) 7 2 rfl (by decide)).trans (whole 64 (57) 5 rfl (by decide))))))
  have f1 : wordField w0 25 24 = 3 := by rw [hw]; exact (above 16 4 _ (r.toNat) 25 24 rfl r.isLt).trans ((above_zeros 16 4 _ 21 20 rfl).trans ((above 256 8 _ (a.toNat) 17 16 rfl a.isLt).trans ((above_zeros 256 8 _ 9 8 rfl).trans (lowest 4 _ (3) 1 rfl (by decide)))))
  have f2 : wordField w0 23 16 = 0 := by rw [hw]; exact (above 16 4 _ (r.toNat) 23 16 rfl r.isLt).trans ((above_zeros 16 4 _ 19 12 rfl).trans ((above 256 8 _ (a.toNat) 15 8 rfl a.isLt).trans (lowest_zeros 256 _ 7 rfl)))
  have f3 : wordField w0 15 8 = a.toNat := by rw [hw]; exact (above 16 4 _ (r.toNat) 15 8 rfl r.isLt).trans ((above_zeros 16 4 _ 11 4 rfl).trans (lowest 256 _ (a.toNat) 7 rfl a.isLt))
  have f4 : wordField w0 7 4 = 0 := by rw [hw]; exact (above 16 4 _ (r.toNat) 7 4 rfl r.isLt).trans (lowest_zeros 16 _ 3 rfl)
  have f5 : wordField w0 3 0 = r.toNat := by rw [hw]; exact lowest 16 _ (r.toNat) 3 rfl r.isLt
  have he : encode (.ringFree a r) = [w0] := by subst ew; exact rfl
  rw [he]
  refine (major39 f0).trans ?_
  show decodeMajor39 w0 x = _
  simp only [decodeMajor39, f1, f2, f3, f4, f5, BitVec.ofNat_toNat, BitVec.setWidth_eq]
  exact decodedIf_good _ _ hwf

theorem beadMode (a : BitVec 8) : Statement (.beadMode a) := by
  intro hcode hwf x
  clear hcode
  have b0 := a.isLt
  obtain ⟨w0, ew⟩ : ∃ w0, w0 = 0xF0000000 + a.toNat * 0x100 := ⟨_, rfl⟩
  have hw : w0 = (((60 * 16) * 64) * 256 + a.toNat) * 256 := ew.trans (by clear ew; omega)
  have f0 : wordField w0 31 26 = 60 := by rw [hw]; exact (above_zeros 256 8 _ 31 26 rfl).trans ((above 256 8 _ (a.toNat) 23 18 rfl a.isLt).trans ((above_zeros 64 6 _ 15 10 rfl).trans ((above_zeros 16 4 _ 9 4 rfl).trans (whole 64 (60) 5 rfl (by decide)))))
  have f1 : wordField w0 25 22 = 0 := by rw [hw]; exact (above_zeros 256 8 _ 25 22 rfl).trans ((above 256 8 _ (a.toNat) 17 14 rfl a.isLt).trans ((above_zeros 64 6 _ 9 6 rfl).trans (lowest_zeros 16 _ 3 rfl)))
  have f2 : wordField w0 21 16 = 0 := by rw [hw]; exact (above_zeros 256 8 _ 21 16 rfl).trans ((above 256 8 _ (a.toNat) 13 8 rfl a.isLt).trans (lowest_zeros 64 _ 5 rfl))
  have f3 : wordField w0 15 8 = a.toNat := by rw [hw]; exact (above_zeros 256 8 _ 15 8 rfl).trans (lowest 256 _ (a.toNat) 7 rfl a.isLt)
  have f4 : wordField w0 7 0 = 0 := by rw [hw]; exact lowest_zeros 256 _ 7 rfl
  have he : encode (.beadMode a) = [w0] := by subst ew; exact rfl
  rw [he]
  refine (major3C f0).trans ?_
  show decodeMajor3C w0 x = _
  simp only [decodeMajor3C, f1, f2, f3, f4, BitVec.ofNat_toNat, BitVec.setWidth_eq]
  exact decodedIf_good _ _ hwf

theorem beadMma (c : BitVec 6) (a : BitVec 8) (b : BitVec 8) : Statement (.beadMma c a b) := by
  intro hcode hwf x
  clear hcode
  have b0 := c.isLt
  have b1 := a.isLt
  have b2 := b.isLt
  obtain ⟨w0, ew⟩ : ∃ w0, w0 = 0xF0400000 + c.toNat * 0x10000 + a.toNat * 0x100 + b.toNat := ⟨_, rfl⟩
  have hw : w0 = (((60 * 16 + 1) * 64 + c.toNat) * 256 + a.toNat) * 256 + b.toNat := ew.trans (by clear ew; omega)
  have f0 : wordField w0 31 26 = 60 := by rw [hw]; exact (above 256 8 _ (b.toNat) 31 26 rfl b.isLt).trans ((above 256 8 _ (a.toNat) 23 18 rfl a.isLt).trans ((above 64 6 _ (c.toNat) 15 10 rfl c.isLt).trans ((above 16 4 _ (1) 9 4 rfl (by decide)).trans (whole 64 (60) 5 rfl (by decide)))))
  have f1 : wordField w0 25 22 = 1 := by rw [hw]; exact (above 256 8 _ (b.toNat) 25 22 rfl b.isLt).trans ((above 256 8 _ (a.toNat) 17 14 rfl a.isLt).trans ((above 64 6 _ (c.toNat) 9 6 rfl c.isLt).trans (lowest 16 _ (1) 3 rfl (by decide))))
  have f2 : wordField w0 21 16 = c.toNat := by rw [hw]; exact (above 256 8 _ (b.toNat) 21 16 rfl b.isLt).trans ((above 256 8 _ (a.toNat) 13 8 rfl a.isLt).trans (lowest 64 _ (c.toNat) 5 rfl c.isLt))
  have f3 : wordField w0 15 8 = a.toNat := by rw [hw]; exact (above 256 8 _ (b.toNat) 15 8 rfl b.isLt).trans (lowest 256 _ (a.toNat) 7 rfl a.isLt)
  have f4 : wordField w0 7 0 = b.toNat := by rw [hw]; exact lowest 256 _ (b.toNat) 7 rfl b.isLt
  have he : encode (.beadMma c a b) = [w0] := by subst ew; exact rfl
  rw [he]
  refine (major3C f0).trans ?_
  show decodeMajor3C w0 x = _
  simp only [decodeMajor3C, f1, f2, f3, f4, BitVec.ofNat_toNat, BitVec.setWidth_eq]
  exact decodedIf_good _ _ hwf

theorem beadMmaz (c : BitVec 6) (a : BitVec 8) (b : BitVec 8) : Statement (.beadMmaz c a b) := by
  intro hcode hwf x
  clear hcode
  have b0 := c.isLt
  have b1 := a.isLt
  have b2 := b.isLt
  obtain ⟨w0, ew⟩ : ∃ w0, w0 = 0xF0800000 + c.toNat * 0x10000 + a.toNat * 0x100 + b.toNat := ⟨_, rfl⟩
  have hw : w0 = (((60 * 16 + 2) * 64 + c.toNat) * 256 + a.toNat) * 256 + b.toNat := ew.trans (by clear ew; omega)
  have f0 : wordField w0 31 26 = 60 := by rw [hw]; exact (above 256 8 _ (b.toNat) 31 26 rfl b.isLt).trans ((above 256 8 _ (a.toNat) 23 18 rfl a.isLt).trans ((above 64 6 _ (c.toNat) 15 10 rfl c.isLt).trans ((above 16 4 _ (2) 9 4 rfl (by decide)).trans (whole 64 (60) 5 rfl (by decide)))))
  have f1 : wordField w0 25 22 = 2 := by rw [hw]; exact (above 256 8 _ (b.toNat) 25 22 rfl b.isLt).trans ((above 256 8 _ (a.toNat) 17 14 rfl a.isLt).trans ((above 64 6 _ (c.toNat) 9 6 rfl c.isLt).trans (lowest 16 _ (2) 3 rfl (by decide))))
  have f2 : wordField w0 21 16 = c.toNat := by rw [hw]; exact (above 256 8 _ (b.toNat) 21 16 rfl b.isLt).trans ((above 256 8 _ (a.toNat) 13 8 rfl a.isLt).trans (lowest 64 _ (c.toNat) 5 rfl c.isLt))
  have f3 : wordField w0 15 8 = a.toNat := by rw [hw]; exact (above 256 8 _ (b.toNat) 15 8 rfl b.isLt).trans (lowest 256 _ (a.toNat) 7 rfl a.isLt)
  have f4 : wordField w0 7 0 = b.toNat := by rw [hw]; exact lowest 256 _ (b.toNat) 7 rfl b.isLt
  have he : encode (.beadMmaz c a b) = [w0] := by subst ew; exact rfl
  rw [he]
  refine (major3C f0).trans ?_
  show decodeMajor3C w0 x = _
  simp only [decodeMajor3C, f1, f2, f3, f4, BitVec.ofNat_toNat, BitVec.setWidth_eq]
  exact decodedIf_good _ _ hwf

theorem beadZero (c : BitVec 6) : Statement (.beadZero c) := by
  intro hcode hwf x
  clear hcode
  have b0 := c.isLt
  obtain ⟨w0, ew⟩ : ∃ w0, w0 = 0xF0C00000 + c.toNat * 0x10000 := ⟨_, rfl⟩
  have hw : w0 = ((60 * 16 + 3) * 64 + c.toNat) * 65536 := ew.trans (by clear ew; omega)
  have f0 : wordField w0 31 26 = 60 := by rw [hw]; exact (above_zeros 65536 16 _ 31 26 rfl).trans ((above 64 6 _ (c.toNat) 15 10 rfl c.isLt).trans ((above 16 4 _ (3) 9 4 rfl (by decide)).trans (whole 64 (60) 5 rfl (by decide))))
  have f1 : wordField w0 25 22 = 3 := by rw [hw]; exact (above_zeros 65536 16 _ 25 22 rfl).trans ((above 64 6 _ (c.toNat) 9 6 rfl c.isLt).trans (lowest 16 _ (3) 3 rfl (by decide)))
  have f2 : wordField w0 21 16 = c.toNat := by rw [hw]; exact (above_zeros 65536 16 _ 21 16 rfl).trans (lowest 64 _ (c.toNat) 5 rfl c.isLt)
  have f3 : wordField w0 15 0 = 0 := by rw [hw]; exact lowest_zeros 65536 _ 15 rfl
  have he : encode (.beadZero c) = [w0] := by subst ew; exact rfl
  rw [he]
  refine (major3C f0).trans ?_
  show decodeMajor3C w0 x = _
  simp only [decodeMajor3C, f1, f2, f3, BitVec.ofNat_toNat, BitVec.setWidth_eq]
  exact decodedIf_good _ _ hwf

theorem beadSync (a : BitVec 8) : Statement (.beadSync a) := by
  intro hcode hwf x
  clear hcode
  have b0 := a.isLt
  obtain ⟨w0, ew⟩ : ∃ w0, w0 = 0xF1000000 + a.toNat * 0x100 := ⟨_, rfl⟩
  have hw : w0 = (((60 * 16 + 4) * 64) * 256 + a.toNat) * 256 := ew.trans (by clear ew; omega)
  have f0 : wordField w0 31 26 = 60 := by rw [hw]; exact (above_zeros 256 8 _ 31 26 rfl).trans ((above 256 8 _ (a.toNat) 23 18 rfl a.isLt).trans ((above_zeros 64 6 _ 15 10 rfl).trans ((above 16 4 _ (4) 9 4 rfl (by decide)).trans (whole 64 (60) 5 rfl (by decide)))))
  have f1 : wordField w0 25 22 = 4 := by rw [hw]; exact (above_zeros 256 8 _ 25 22 rfl).trans ((above 256 8 _ (a.toNat) 17 14 rfl a.isLt).trans ((above_zeros 64 6 _ 9 6 rfl).trans (lowest 16 _ (4) 3 rfl (by decide))))
  have f2 : wordField w0 21 16 = 0 := by rw [hw]; exact (above_zeros 256 8 _ 21 16 rfl).trans ((above 256 8 _ (a.toNat) 13 8 rfl a.isLt).trans (lowest_zeros 64 _ 5 rfl))
  have f3 : wordField w0 15 8 = a.toNat := by rw [hw]; exact (above_zeros 256 8 _ 15 8 rfl).trans (lowest 256 _ (a.toNat) 7 rfl a.isLt)
  have f4 : wordField w0 7 0 = 0 := by rw [hw]; exact lowest_zeros 256 _ 7 rfl
  have he : encode (.beadSync a) = [w0] := by subst ew; exact rfl
  rw [he]
  refine (major3C f0).trans ?_
  show decodeMajor3C w0 x = _
  simp only [decodeMajor3C, f1, f2, f3, f4, BitVec.ofNat_toNat, BitVec.setWidth_eq]
  exact decodedIf_good _ _ hwf

theorem beadScale (c : BitVec 6) (a : BitVec 8) : Statement (.beadScale c a) := by
  intro hcode hwf x
  clear hcode
  have b0 := c.isLt
  have b1 := a.isLt
  obtain ⟨w0, ew⟩ : ∃ w0, w0 = 0xF1400000 + c.toNat * 0x10000 + a.toNat * 0x100 := ⟨_, rfl⟩
  have hw : w0 = (((60 * 16 + 5) * 64 + c.toNat) * 256 + a.toNat) * 256 := ew.trans (by clear ew; omega)
  have f0 : wordField w0 31 26 = 60 := by rw [hw]; exact (above_zeros 256 8 _ 31 26 rfl).trans ((above 256 8 _ (a.toNat) 23 18 rfl a.isLt).trans ((above 64 6 _ (c.toNat) 15 10 rfl c.isLt).trans ((above 16 4 _ (5) 9 4 rfl (by decide)).trans (whole 64 (60) 5 rfl (by decide)))))
  have f1 : wordField w0 25 22 = 5 := by rw [hw]; exact (above_zeros 256 8 _ 25 22 rfl).trans ((above 256 8 _ (a.toNat) 17 14 rfl a.isLt).trans ((above 64 6 _ (c.toNat) 9 6 rfl c.isLt).trans (lowest 16 _ (5) 3 rfl (by decide))))
  have f2 : wordField w0 21 16 = c.toNat := by rw [hw]; exact (above_zeros 256 8 _ 21 16 rfl).trans ((above 256 8 _ (a.toNat) 13 8 rfl a.isLt).trans (lowest 64 _ (c.toNat) 5 rfl c.isLt))
  have f3 : wordField w0 15 8 = a.toNat := by rw [hw]; exact (above_zeros 256 8 _ 15 8 rfl).trans (lowest 256 _ (a.toNat) 7 rfl a.isLt)
  have f4 : wordField w0 7 0 = 0 := by rw [hw]; exact lowest_zeros 256 _ 7 rfl
  have he : encode (.beadScale c a) = [w0] := by subst ew; exact rfl
  rw [he]
  refine (major3C f0).trans ?_
  show decodeMajor3C w0 x = _
  simp only [decodeMajor3C, f1, f2, f3, f4, BitVec.ofNat_toNat, BitVec.setWidth_eq]
  exact decodedIf_good _ _ hwf

theorem palReserve (p : BitVec 6) (a : BitVec 8) (d : BitVec 8) : Statement (.palReserve p a d) := by
  intro hcode hwf x
  clear hcode
  have b0 := p.isLt
  have b1 := a.isLt
  have b2 := d.isLt
  obtain ⟨w0, ew⟩ : ∃ w0, w0 = 0xF4000000 + p.toNat * 0x10000 + a.toNat * 0x100 + d.toNat := ⟨_, rfl⟩
  have hw : w0 = (((61 * 16) * 64 + p.toNat) * 256 + a.toNat) * 256 + d.toNat := ew.trans (by clear ew; omega)
  have f0 : wordField w0 31 26 = 61 := by rw [hw]; exact (above 256 8 _ (d.toNat) 31 26 rfl d.isLt).trans ((above 256 8 _ (a.toNat) 23 18 rfl a.isLt).trans ((above 64 6 _ (p.toNat) 15 10 rfl p.isLt).trans ((above_zeros 16 4 _ 9 4 rfl).trans (whole 64 (61) 5 rfl (by decide)))))
  have f1 : wordField w0 25 22 = 0 := by rw [hw]; exact (above 256 8 _ (d.toNat) 25 22 rfl d.isLt).trans ((above 256 8 _ (a.toNat) 17 14 rfl a.isLt).trans ((above 64 6 _ (p.toNat) 9 6 rfl p.isLt).trans (lowest_zeros 16 _ 3 rfl)))
  have f2 : wordField w0 21 16 = p.toNat := by rw [hw]; exact (above 256 8 _ (d.toNat) 21 16 rfl d.isLt).trans ((above 256 8 _ (a.toNat) 13 8 rfl a.isLt).trans (lowest 64 _ (p.toNat) 5 rfl p.isLt))
  have f3 : wordField w0 15 8 = a.toNat := by rw [hw]; exact (above 256 8 _ (d.toNat) 15 8 rfl d.isLt).trans (lowest 256 _ (a.toNat) 7 rfl a.isLt)
  have f4 : wordField w0 7 0 = d.toNat := by rw [hw]; exact lowest 256 _ (d.toNat) 7 rfl d.isLt
  have he : encode (.palReserve p a d) = [w0] := by subst ew; exact rfl
  rw [he]
  refine (major3D f0).trans ?_
  show decodeMajor3D w0 x = _
  simp only [decodeMajor3D, f1, f2, f3, f4, BitVec.ofNat_toNat, BitVec.setWidth_eq]
  exact decodedIf_good _ _ hwf

theorem palFill (p : BitVec 6) (a : BitVec 8) (b : BitVec 8) : Statement (.palFill p a b) := by
  intro hcode hwf x
  clear hcode
  have b0 := p.isLt
  have b1 := a.isLt
  have b2 := b.isLt
  obtain ⟨w0, ew⟩ : ∃ w0, w0 = 0xF4400000 + p.toNat * 0x10000 + a.toNat * 0x100 + b.toNat := ⟨_, rfl⟩
  have hw : w0 = (((61 * 16 + 1) * 64 + p.toNat) * 256 + a.toNat) * 256 + b.toNat := ew.trans (by clear ew; omega)
  have f0 : wordField w0 31 26 = 61 := by rw [hw]; exact (above 256 8 _ (b.toNat) 31 26 rfl b.isLt).trans ((above 256 8 _ (a.toNat) 23 18 rfl a.isLt).trans ((above 64 6 _ (p.toNat) 15 10 rfl p.isLt).trans ((above 16 4 _ (1) 9 4 rfl (by decide)).trans (whole 64 (61) 5 rfl (by decide)))))
  have f1 : wordField w0 25 22 = 1 := by rw [hw]; exact (above 256 8 _ (b.toNat) 25 22 rfl b.isLt).trans ((above 256 8 _ (a.toNat) 17 14 rfl a.isLt).trans ((above 64 6 _ (p.toNat) 9 6 rfl p.isLt).trans (lowest 16 _ (1) 3 rfl (by decide))))
  have f2 : wordField w0 21 16 = p.toNat := by rw [hw]; exact (above 256 8 _ (b.toNat) 21 16 rfl b.isLt).trans ((above 256 8 _ (a.toNat) 13 8 rfl a.isLt).trans (lowest 64 _ (p.toNat) 5 rfl p.isLt))
  have f3 : wordField w0 15 8 = a.toNat := by rw [hw]; exact (above 256 8 _ (b.toNat) 15 8 rfl b.isLt).trans (lowest 256 _ (a.toNat) 7 rfl a.isLt)
  have f4 : wordField w0 7 0 = b.toNat := by rw [hw]; exact lowest 256 _ (b.toNat) 7 rfl b.isLt
  have he : encode (.palFill p a b) = [w0] := by subst ew; exact rfl
  rw [he]
  refine (major3D f0).trans ?_
  show decodeMajor3D w0 x = _
  simp only [decodeMajor3D, f1, f2, f3, f4, BitVec.ofNat_toNat, BitVec.setWidth_eq]
  exact decodedIf_good _ _ hwf

theorem palFillk (p : BitVec 6) (a : BitVec 8) (b : BitVec 8) : Statement (.palFillk p a b) := by
  intro hcode hwf x
  clear hcode
  have b0 := p.isLt
  have b1 := a.isLt
  have b2 := b.isLt
  obtain ⟨w0, ew⟩ : ∃ w0, w0 = 0xF4800000 + p.toNat * 0x10000 + a.toNat * 0x100 + b.toNat := ⟨_, rfl⟩
  have hw : w0 = (((61 * 16 + 2) * 64 + p.toNat) * 256 + a.toNat) * 256 + b.toNat := ew.trans (by clear ew; omega)
  have f0 : wordField w0 31 26 = 61 := by rw [hw]; exact (above 256 8 _ (b.toNat) 31 26 rfl b.isLt).trans ((above 256 8 _ (a.toNat) 23 18 rfl a.isLt).trans ((above 64 6 _ (p.toNat) 15 10 rfl p.isLt).trans ((above 16 4 _ (2) 9 4 rfl (by decide)).trans (whole 64 (61) 5 rfl (by decide)))))
  have f1 : wordField w0 25 22 = 2 := by rw [hw]; exact (above 256 8 _ (b.toNat) 25 22 rfl b.isLt).trans ((above 256 8 _ (a.toNat) 17 14 rfl a.isLt).trans ((above 64 6 _ (p.toNat) 9 6 rfl p.isLt).trans (lowest 16 _ (2) 3 rfl (by decide))))
  have f2 : wordField w0 21 16 = p.toNat := by rw [hw]; exact (above 256 8 _ (b.toNat) 21 16 rfl b.isLt).trans ((above 256 8 _ (a.toNat) 13 8 rfl a.isLt).trans (lowest 64 _ (p.toNat) 5 rfl p.isLt))
  have f3 : wordField w0 15 8 = a.toNat := by rw [hw]; exact (above 256 8 _ (b.toNat) 15 8 rfl b.isLt).trans (lowest 256 _ (a.toNat) 7 rfl a.isLt)
  have f4 : wordField w0 7 0 = b.toNat := by rw [hw]; exact lowest 256 _ (b.toNat) 7 rfl b.isLt
  have he : encode (.palFillk p a b) = [w0] := by subst ew; exact rfl
  rw [he]
  refine (major3D f0).trans ?_
  show decodeMajor3D w0 x = _
  simp only [decodeMajor3D, f1, f2, f3, f4, BitVec.ofNat_toNat, BitVec.setWidth_eq]
  exact decodedIf_good _ _ hwf

theorem palRelease (p : BitVec 6) : Statement (.palRelease p) := by
  intro hcode hwf x
  clear hcode
  have b0 := p.isLt
  obtain ⟨w0, ew⟩ : ∃ w0, w0 = 0xF4C00000 + p.toNat * 0x10000 := ⟨_, rfl⟩
  have hw : w0 = ((61 * 16 + 3) * 64 + p.toNat) * 65536 := ew.trans (by clear ew; omega)
  have f0 : wordField w0 31 26 = 61 := by rw [hw]; exact (above_zeros 65536 16 _ 31 26 rfl).trans ((above 64 6 _ (p.toNat) 15 10 rfl p.isLt).trans ((above 16 4 _ (3) 9 4 rfl (by decide)).trans (whole 64 (61) 5 rfl (by decide))))
  have f1 : wordField w0 25 22 = 3 := by rw [hw]; exact (above_zeros 65536 16 _ 25 22 rfl).trans ((above 64 6 _ (p.toNat) 9 6 rfl p.isLt).trans (lowest 16 _ (3) 3 rfl (by decide)))
  have f2 : wordField w0 21 16 = p.toNat := by rw [hw]; exact (above_zeros 65536 16 _ 21 16 rfl).trans (lowest 64 _ (p.toNat) 5 rfl p.isLt)
  have f3 : wordField w0 15 0 = 0 := by rw [hw]; exact lowest_zeros 65536 _ 15 rfl
  have he : encode (.palRelease p) = [w0] := by subst ew; exact rfl
  rw [he]
  refine (major3D f0).trans ?_
  show decodeMajor3D w0 x = _
  simp only [decodeMajor3D, f1, f2, f3, BitVec.ofNat_toNat, BitVec.setWidth_eq]
  exact decodedIf_good _ _ hwf

theorem cbDrain (c : BitVec 6) (a : BitVec 8) (b : BitVec 8) : Statement (.cbDrain c a b) := by
  intro hcode hwf x
  clear hcode
  have b0 := c.isLt
  have b1 := a.isLt
  have b2 := b.isLt
  obtain ⟨w0, ew⟩ : ∃ w0, w0 = 0xF8000000 + c.toNat * 0x10000 + a.toNat * 0x100 + b.toNat := ⟨_, rfl⟩
  have hw : w0 = (((62 * 16) * 64 + c.toNat) * 256 + a.toNat) * 256 + b.toNat := ew.trans (by clear ew; omega)
  have f0 : wordField w0 31 26 = 62 := by rw [hw]; exact (above 256 8 _ (b.toNat) 31 26 rfl b.isLt).trans ((above 256 8 _ (a.toNat) 23 18 rfl a.isLt).trans ((above 64 6 _ (c.toNat) 15 10 rfl c.isLt).trans ((above_zeros 16 4 _ 9 4 rfl).trans (whole 64 (62) 5 rfl (by decide)))))
  have f1 : wordField w0 25 22 = 0 := by rw [hw]; exact (above 256 8 _ (b.toNat) 25 22 rfl b.isLt).trans ((above 256 8 _ (a.toNat) 17 14 rfl a.isLt).trans ((above 64 6 _ (c.toNat) 9 6 rfl c.isLt).trans (lowest_zeros 16 _ 3 rfl)))
  have f2 : wordField w0 21 16 = c.toNat := by rw [hw]; exact (above 256 8 _ (b.toNat) 21 16 rfl b.isLt).trans ((above 256 8 _ (a.toNat) 13 8 rfl a.isLt).trans (lowest 64 _ (c.toNat) 5 rfl c.isLt))
  have f3 : wordField w0 15 8 = a.toNat := by rw [hw]; exact (above 256 8 _ (b.toNat) 15 8 rfl b.isLt).trans (lowest 256 _ (a.toNat) 7 rfl a.isLt)
  have f4 : wordField w0 7 0 = b.toNat := by rw [hw]; exact lowest 256 _ (b.toNat) 7 rfl b.isLt
  have he : encode (.cbDrain c a b) = [w0] := by subst ew; exact rfl
  rw [he]
  refine (major3E f0).trans ?_
  show decodeMajor3E w0 x = _
  simp only [decodeMajor3E, f1, f2, f3, f4, BitVec.ofNat_toNat, BitVec.setWidth_eq]
  exact decodedIf_good _ _ hwf

theorem cbLoad (c : BitVec 6) (a : BitVec 8) : Statement (.cbLoad c a) := by
  intro hcode hwf x
  clear hcode
  have b0 := c.isLt
  have b1 := a.isLt
  obtain ⟨w0, ew⟩ : ∃ w0, w0 = 0xF8400000 + c.toNat * 0x10000 + a.toNat * 0x100 := ⟨_, rfl⟩
  have hw : w0 = (((62 * 16 + 1) * 64 + c.toNat) * 256 + a.toNat) * 256 := ew.trans (by clear ew; omega)
  have f0 : wordField w0 31 26 = 62 := by rw [hw]; exact (above_zeros 256 8 _ 31 26 rfl).trans ((above 256 8 _ (a.toNat) 23 18 rfl a.isLt).trans ((above 64 6 _ (c.toNat) 15 10 rfl c.isLt).trans ((above 16 4 _ (1) 9 4 rfl (by decide)).trans (whole 64 (62) 5 rfl (by decide)))))
  have f1 : wordField w0 25 22 = 1 := by rw [hw]; exact (above_zeros 256 8 _ 25 22 rfl).trans ((above 256 8 _ (a.toNat) 17 14 rfl a.isLt).trans ((above 64 6 _ (c.toNat) 9 6 rfl c.isLt).trans (lowest 16 _ (1) 3 rfl (by decide))))
  have f2 : wordField w0 21 16 = c.toNat := by rw [hw]; exact (above_zeros 256 8 _ 21 16 rfl).trans ((above 256 8 _ (a.toNat) 13 8 rfl a.isLt).trans (lowest 64 _ (c.toNat) 5 rfl c.isLt))
  have f3 : wordField w0 15 8 = a.toNat := by rw [hw]; exact (above_zeros 256 8 _ 15 8 rfl).trans (lowest 256 _ (a.toNat) 7 rfl a.isLt)
  have f4 : wordField w0 7 0 = 0 := by rw [hw]; exact lowest_zeros 256 _ 7 rfl
  have he : encode (.cbLoad c a) = [w0] := by subst ew; exact rfl
  rw [he]
  refine (major3E f0).trans ?_
  show decodeMajor3E w0 x = _
  simp only [decodeMajor3E, f1, f2, f3, f4, BitVec.ofNat_toNat, BitVec.setWidth_eq]
  exact decodedIf_good _ _ hwf

theorem cbClear (c : BitVec 6) (n : BitVec 8) : Statement (.cbClear c n) := by
  intro hcode hwf x
  clear hcode
  have b0 := c.isLt
  have b1 := n.isLt
  obtain ⟨w0, ew⟩ : ∃ w0, w0 = 0xF8800000 + c.toNat * 0x10000 + n.toNat := ⟨_, rfl⟩
  have hw : w0 = (((62 * 16 + 2) * 64 + c.toNat) * 256) * 256 + n.toNat := ew.trans (by clear ew; omega)
  have f0 : wordField w0 31 26 = 62 := by rw [hw]; exact (above 256 8 _ (n.toNat) 31 26 rfl n.isLt).trans ((above_zeros 256 8 _ 23 18 rfl).trans ((above 64 6 _ (c.toNat) 15 10 rfl c.isLt).trans ((above 16 4 _ (2) 9 4 rfl (by decide)).trans (whole 64 (62) 5 rfl (by decide)))))
  have f1 : wordField w0 25 22 = 2 := by rw [hw]; exact (above 256 8 _ (n.toNat) 25 22 rfl n.isLt).trans ((above_zeros 256 8 _ 17 14 rfl).trans ((above 64 6 _ (c.toNat) 9 6 rfl c.isLt).trans (lowest 16 _ (2) 3 rfl (by decide))))
  have f2 : wordField w0 21 16 = c.toNat := by rw [hw]; exact (above 256 8 _ (n.toNat) 21 16 rfl n.isLt).trans ((above_zeros 256 8 _ 13 8 rfl).trans (lowest 64 _ (c.toNat) 5 rfl c.isLt))
  have f3 : wordField w0 15 8 = 0 := by rw [hw]; exact (above 256 8 _ (n.toNat) 15 8 rfl n.isLt).trans (lowest_zeros 256 _ 7 rfl)
  have f4 : wordField w0 7 0 = n.toNat := by rw [hw]; exact lowest 256 _ (n.toNat) 7 rfl n.isLt
  have he : encode (.cbClear c n) = [w0] := by subst ew; exact rfl
  rw [he]
  refine (major3E f0).trans ?_
  show decodeMajor3E w0 x = _
  simp only [decodeMajor3E, f1, f2, f3, f4, BitVec.ofNat_toNat, BitVec.setWidth_eq]
  exact decodedIf_good _ _ hwf

theorem omDepth (d : BitVec 7) (a : BitVec 7) (w : BitVec 1) (o : BitVec 3) : Statement (.omDepth d a w o) := by
  intro hcode hwf x
  clear hcode
  have b0 := d.isLt
  have b1 := a.isLt
  have b2 := w.isLt
  have b3 := o.isLt
  obtain ⟨w0, ew⟩ : ∃ w0, w0 = 0xFC000000 + d.toNat * 0x4000 + a.toNat * 0x80 + w.toNat * 0x8 + o.toNat := ⟨_, rfl⟩
  have hw : w0 = (((((63 * 32) * 128 + d.toNat) * 128 + a.toNat) * 8) * 2 + w.toNat) * 8 + o.toNat := ew.trans (by clear ew; omega)
  have f0 : wordField w0 31 26 = 63 := by rw [hw]; exact (above 8 3 _ (o.toNat) 31 26 rfl o.isLt).trans ((above 2 1 _ (w.toNat) 28 23 rfl w.isLt).trans ((above_zeros 8 3 _ 27 22 rfl).trans ((above 128 7 _ (a.toNat) 24 19 rfl a.isLt).trans ((above 128 7 _ (d.toNat) 17 12 rfl d.isLt).trans ((above_zeros 32 5 _ 10 5 rfl).trans (whole 64 (63) 5 rfl (by decide)))))))
  have f1 : wordField w0 25 21 = 0 := by rw [hw]; exact (above 8 3 _ (o.toNat) 25 21 rfl o.isLt).trans ((above 2 1 _ (w.toNat) 22 18 rfl w.isLt).trans ((above_zeros 8 3 _ 21 17 rfl).trans ((above 128 7 _ (a.toNat) 18 14 rfl a.isLt).trans ((above 128 7 _ (d.toNat) 11 7 rfl d.isLt).trans (lowest_zeros 32 _ 4 rfl)))))
  have f2 : wordField w0 20 14 = d.toNat := by rw [hw]; exact (above 8 3 _ (o.toNat) 20 14 rfl o.isLt).trans ((above 2 1 _ (w.toNat) 17 11 rfl w.isLt).trans ((above_zeros 8 3 _ 16 10 rfl).trans ((above 128 7 _ (a.toNat) 13 7 rfl a.isLt).trans (lowest 128 _ (d.toNat) 6 rfl d.isLt))))
  have f3 : wordField w0 13 7 = a.toNat := by rw [hw]; exact (above 8 3 _ (o.toNat) 13 7 rfl o.isLt).trans ((above 2 1 _ (w.toNat) 10 4 rfl w.isLt).trans ((above_zeros 8 3 _ 9 3 rfl).trans (lowest 128 _ (a.toNat) 6 rfl a.isLt)))
  have f4 : wordField w0 6 4 = 0 := by rw [hw]; exact (above 8 3 _ (o.toNat) 6 4 rfl o.isLt).trans ((above 2 1 _ (w.toNat) 3 1 rfl w.isLt).trans (lowest_zeros 8 _ 2 rfl))
  have f5 : wordField w0 3 3 = w.toNat := by rw [hw]; exact (above 8 3 _ (o.toNat) 3 3 rfl o.isLt).trans (lowest 2 _ (w.toNat) 0 rfl w.isLt)
  have f6 : wordField w0 2 0 = o.toNat := by rw [hw]; exact lowest 8 _ (o.toNat) 2 rfl o.isLt
  have he : encode (.omDepth d a w o) = [w0] := by subst ew; exact rfl
  rw [he]
  refine (major3F f0).trans ?_
  show decodeMajor3F w0 x = _
  simp only [decodeMajor3F, f1, f2, f3, f4, f5, f6, BitVec.ofNat_toNat, BitVec.setWidth_eq]
  exact decodedIf_good _ _ hwf

theorem omWrite (m : BitVec 2) (a : BitVec 7) (c : BitVec 7) : Statement (.omWrite m a c) := by
  intro hcode hwf x
  clear hcode
  have b0 := m.isLt
  have b1 := a.isLt
  have b2 := c.isLt
  obtain ⟨w0, ew⟩ : ∃ w0, w0 = 0xFC200000 + m.toNat * 0x4000 + a.toNat * 0x80 + c.toNat := ⟨_, rfl⟩
  have hw : w0 = ((((63 * 32 + 1) * 32) * 4 + m.toNat) * 128 + a.toNat) * 128 + c.toNat := ew.trans (by clear ew; omega)
  have f0 : wordField w0 31 26 = 63 := by rw [hw]; exact (above 128 7 _ (c.toNat) 31 26 rfl c.isLt).trans ((above 128 7 _ (a.toNat) 24 19 rfl a.isLt).trans ((above 4 2 _ (m.toNat) 17 12 rfl m.isLt).trans ((above_zeros 32 5 _ 15 10 rfl).trans ((above 32 5 _ (1) 10 5 rfl (by decide)).trans (whole 64 (63) 5 rfl (by decide))))))
  have f1 : wordField w0 25 21 = 1 := by rw [hw]; exact (above 128 7 _ (c.toNat) 25 21 rfl c.isLt).trans ((above 128 7 _ (a.toNat) 18 14 rfl a.isLt).trans ((above 4 2 _ (m.toNat) 11 7 rfl m.isLt).trans ((above_zeros 32 5 _ 9 5 rfl).trans (lowest 32 _ (1) 4 rfl (by decide)))))
  have f2 : wordField w0 20 16 = 0 := by rw [hw]; exact (above 128 7 _ (c.toNat) 20 16 rfl c.isLt).trans ((above 128 7 _ (a.toNat) 13 9 rfl a.isLt).trans ((above 4 2 _ (m.toNat) 6 2 rfl m.isLt).trans (lowest_zeros 32 _ 4 rfl)))
  have f3 : wordField w0 15 14 = m.toNat := by rw [hw]; exact (above 128 7 _ (c.toNat) 15 14 rfl c.isLt).trans ((above 128 7 _ (a.toNat) 8 7 rfl a.isLt).trans (lowest 4 _ (m.toNat) 1 rfl m.isLt))
  have f4 : wordField w0 13 7 = a.toNat := by rw [hw]; exact (above 128 7 _ (c.toNat) 13 7 rfl c.isLt).trans (lowest 128 _ (a.toNat) 6 rfl a.isLt)
  have f5 : wordField w0 6 0 = c.toNat := by rw [hw]; exact lowest 128 _ (c.toNat) 6 rfl c.isLt
  have he : encode (.omWrite m a c) = [w0] := by subst ew; exact rfl
  rw [he]
  refine (major3F f0).trans ?_
  show decodeMajor3F w0 x = _
  simp only [decodeMajor3F, f1, f2, f3, f4, f5, BitVec.ofNat_toNat, BitVec.setWidth_eq]
  exact decodedIf_good _ _ hwf

theorem omLoad (d : BitVec 7) (s : BitVec 3) : Statement (.omLoad d s) := by
  intro hcode hwf x
  clear hcode
  have b0 := d.isLt
  have b1 := s.isLt
  obtain ⟨w0, ew⟩ : ∃ w0, w0 = 0xFC400000 + d.toNat * 0x4000 + s.toNat := ⟨_, rfl⟩
  have hw : w0 = (((63 * 32 + 2) * 128 + d.toNat) * 2048) * 8 + s.toNat := ew.trans (by clear ew; omega)
  have f0 : wordField w0 31 26 = 63 := by rw [hw]; exact (above 8 3 _ (s.toNat) 31 26 rfl s.isLt).trans ((above_zeros 2048 11 _ 28 23 rfl).trans ((above 128 7 _ (d.toNat) 17 12 rfl d.isLt).trans ((above 32 5 _ (2) 10 5 rfl (by decide)).trans (whole 64 (63) 5 rfl (by decide)))))
  have f1 : wordField w0 25 21 = 2 := by rw [hw]; exact (above 8 3 _ (s.toNat) 25 21 rfl s.isLt).trans ((above_zeros 2048 11 _ 22 18 rfl).trans ((above 128 7 _ (d.toNat) 11 7 rfl d.isLt).trans (lowest 32 _ (2) 4 rfl (by decide))))
  have f2 : wordField w0 20 14 = d.toNat := by rw [hw]; exact (above 8 3 _ (s.toNat) 20 14 rfl s.isLt).trans ((above_zeros 2048 11 _ 17 11 rfl).trans (lowest 128 _ (d.toNat) 6 rfl d.isLt))
  have f3 : wordField w0 13 3 = 0 := by rw [hw]; exact (above 8 3 _ (s.toNat) 13 3 rfl s.isLt).trans (lowest_zeros 2048 _ 10 rfl)
  have f4 : wordField w0 2 0 = s.toNat := by rw [hw]; exact lowest 8 _ (s.toNat) 2 rfl s.isLt
  have he : encode (.omLoad d s) = [w0] := by subst ew; exact rfl
  rw [he]
  refine (major3F f0).trans ?_
  show decodeMajor3F w0 x = _
  simp only [decodeMajor3F, f1, f2, f3, f4, BitVec.ofNat_toNat, BitVec.setWidth_eq]
  exact decodedIf_good _ _ hwf

theorem omLatch (a : BitVec 7) (w : BitVec 3) : Statement (.omLatch a w) := by
  intro hcode hwf x
  clear hcode
  have b0 := a.isLt
  have b1 := w.isLt
  obtain ⟨w0, ew⟩ : ∃ w0, w0 = 0xFC600000 + a.toNat * 0x80 + w.toNat := ⟨_, rfl⟩
  have hw : w0 = ((((63 * 32 + 3) * 128) * 128 + a.toNat) * 16) * 8 + w.toNat := ew.trans (by clear ew; omega)
  have f0 : wordField w0 31 26 = 63 := by rw [hw]; exact (above 8 3 _ (w.toNat) 31 26 rfl w.isLt).trans ((above_zeros 16 4 _ 28 23 rfl).trans ((above 128 7 _ (a.toNat) 24 19 rfl a.isLt).trans ((above_zeros 128 7 _ 17 12 rfl).trans ((above 32 5 _ (3) 10 5 rfl (by decide)).trans (whole 64 (63) 5 rfl (by decide))))))
  have f1 : wordField w0 25 21 = 3 := by rw [hw]; exact (above 8 3 _ (w.toNat) 25 21 rfl w.isLt).trans ((above_zeros 16 4 _ 22 18 rfl).trans ((above 128 7 _ (a.toNat) 18 14 rfl a.isLt).trans ((above_zeros 128 7 _ 11 7 rfl).trans (lowest 32 _ (3) 4 rfl (by decide)))))
  have f2 : wordField w0 20 14 = 0 := by rw [hw]; exact (above 8 3 _ (w.toNat) 20 14 rfl w.isLt).trans ((above_zeros 16 4 _ 17 11 rfl).trans ((above 128 7 _ (a.toNat) 13 7 rfl a.isLt).trans (lowest_zeros 128 _ 6 rfl)))
  have f3 : wordField w0 13 7 = a.toNat := by rw [hw]; exact (above 8 3 _ (w.toNat) 13 7 rfl w.isLt).trans ((above_zeros 16 4 _ 10 4 rfl).trans (lowest 128 _ (a.toNat) 6 rfl a.isLt))
  have f4 : wordField w0 6 3 = 0 := by rw [hw]; exact (above 8 3 _ (w.toNat) 6 3 rfl w.isLt).trans (lowest_zeros 16 _ 3 rfl)
  have f5 : wordField w0 2 0 = w.toNat := by rw [hw]; exact lowest 8 _ (w.toNat) 2 rfl w.isLt
  have he : encode (.omLatch a w) = [w0] := by subst ew; exact rfl
  rw [he]
  refine (major3F f0).trans ?_
  show decodeMajor3F w0 x = _
  simp only [decodeMajor3F, f1, f2, f3, f4, f5, BitVec.ofNat_toNat, BitVec.setWidth_eq]
  exact decodedIf_good _ _ hwf

theorem dclkReturn : Statement (.dclkReturn) := fun h => nomatch h

theorem clampConditionClear : Statement .clampConditionClear := fun h => nomatch h

theorem pcieLinkStateChange (a0 : Nat) (a1 : Nat) (a2 : Nat) (a3 : Nat) : Statement (.pcieLinkStateChange a0 a1 a2 a3) := fun h => nomatch h


end RoundTrip
end Sys2Proof.Laws
end
end

