-- ==== Sys2Proof/Laws/State.lean ====
section
/-! SUPPORT. One lemma for each field and each update of the state and of a group: what the update sets, and what
it leaves. -/
namespace Sys2Proof.Machine
open Sys2Proof

/-! ### Lists indexed by number -/

theorem getD_putAt {α : Type} (d x : α) (l : List α) (i j : Nat) :
    (putAt d l i x)[j]?.getD d = if j = i then x else l[j]?.getD d := by
  induction i generalizing l j with
  | zero => cases l <;> cases j <;> simp [putAt]
  | succ i ih =>
    cases l with
    | nil =>
      cases j with
      | zero => simp [putAt]
      | succ j => simpa [putAt] using ih [] j
    | cons a r =>
      cases j with
      | zero => simp [putAt]
      | succ j => simpa [putAt] using ih r j

theorem getD_modifyAt {α : Type} (d : α) (l : List α) (i j : Nat) (f : α → α) :
    (modifyAt l i f)[j]?.getD d = if j = i ∧ i < l.length then f (l[j]?.getD d) else l[j]?.getD d := by
  induction l generalizing i j with
  | nil => simp [modifyAt]
  | cons a r ih =>
    cases i with
    | zero => cases j <;> simp [modifyAt]
    | succ i =>
      cases j with
      | zero => simp [modifyAt]
      | succ j => simpa [modifyAt] using ih i j

@[simp] theorem length_modifyAt {α : Type} (l : List α) (i : Nat) (f : α → α) : (modifyAt l i f).length = l.length := by
  induction l generalizing i with
  | nil => rfl
  | cons a r ih => cases i <;> simp [modifyAt, ih]

theorem getElem?_modifyAt {α : Type} (l : List α) (i j : Nat) (f : α → α) :
    (modifyAt l i f)[j]? = if j = i then (l[j]?).map f else l[j]? := by
  induction l generalizing i j with
  | nil => simp [modifyAt]
  | cons a r ih =>
    cases i with
    | zero => cases j <;> simp [modifyAt]
    | succ i => cases j <;> simp [modifyAt, ih]

/-! ### Groups in the state -/

theorem issuer_some {s : State} {i : Nat} {g : Group} (h : s.issuer = some (i, g)) :
    s.turn = some i ∧ s.groups[i]? = some g := by
  unfold State.issuer at h
  split at h
  · simp at h
  · split at h
    · simp at h
    · simp only [Option.some.injEq, Prod.mk.injEq] at h
      obtain ⟨rfl, rfl⟩ := h
      exact ⟨‹_›, ‹_›⟩

theorem issuer_lt {s : State} {i : Nat} {g : Group} (h : s.issuer = some (i, g)) : i < s.groups.length :=
  (List.getElem?_eq_some_iff.mp (issuer_some h).2).1

theorem issuer_group {s : State} {i : Nat} {g : Group} (h : s.issuer = some (i, g)) : s.group i = g := by
  simp [State.group, (issuer_some h).2]

theorem group_setGroup {s : State} {i : Nat} (h : i < s.groups.length) (g : Group) : (s.setGroup i g).group i = g := by
  simp [State.group, State.setGroup, h]

theorem group_setGroup_ne {s : State} {i j : Nat} (h : j ≠ i) (g : Group) : (s.setGroup i g).group j = s.group j := by
  simp [State.group, State.setGroup, List.getElem?_set_ne (Ne.symm h)]

@[simp] theorem setGroup_setGroup (s : State) (i : Nat) (g h : Group) :
    (s.setGroup i g).setGroup i h = s.setGroup i h := by simp [State.setGroup]

theorem modGroup_setGroup {s : State} {i : Nat} (hi : i < s.groups.length) (g : Group) (f : Group → Group) :
    (s.setGroup i g).modGroup i f = s.setGroup i (f g) := by
  simp [State.modGroup, group_setGroup hi]

@[simp] theorem setGroup_mem (s : State) (i : Nat) (g : Group) : (s.setGroup i g).mem = s.mem := rfl
@[simp] theorem setGroup_windows (s : State) (i : Nat) (g : Group) : (s.setGroup i g).windows = s.windows := rfl
@[simp] theorem setGroup_blocks (s : State) (i : Nat) (g : Group) : (s.setGroup i g).blocks = s.blocks := rfl
@[simp] theorem setGroup_cells (s : State) (i : Nat) (g : Group) : (s.setGroup i g).cells = s.cells := rfl
@[simp] theorem setGroup_panes (s : State) (i : Nat) (g : Group) : (s.setGroup i g).panes = s.panes := rfl
@[simp] theorem setGroup_hub (s : State) (i : Nat) (g : Group) : (s.setGroup i g).hub = s.hub := rfl
@[simp] theorem setGroup_regions (s : State) (i : Nat) (g : Group) : (s.setGroup i g).regions = s.regions := rfl
@[simp] theorem setGroup_ctxs (s : State) (i : Nat) (g : Group) : (s.setGroup i g).ctxs = s.ctxs := rfl
@[simp] theorem setGroup_turn (s : State) (i : Nat) (g : Group) : (s.setGroup i g).turn = s.turn := rfl
@[simp] theorem setGroup_fresh (s : State) (i : Nat) (g : Group) : (s.setGroup i g).fresh = s.fresh := rfl
@[simp] theorem setGroup_agenda (s : State) (i : Nat) (g : Group) : (s.setGroup i g).agenda = s.agenda := rfl
@[simp] theorem setGroup_length (s : State) (i : Nat) (g : Group) : (s.setGroup i g).groups.length = s.groups.length := by
  simp [State.setGroup]
@[simp] theorem setGroup_block (s : State) (i : Nat) (g : Group) (b : Nat) : (s.setGroup i g).block b = s.block b := rfl
@[simp] theorem setGroup_now (s : State) (i : Nat) (g h : Group) : (s.setGroup i g).now h = s.now h := rfl
@[simp] theorem setGroup_cyc (s : State) (i : Nat) (g : Group) (c : Nat) : (s.setGroup i g).cyc c = s.cyc c := rfl

/-- A group's change is a change of that group only. -/
theorem onlyGroup_setGroup {s : State} {i : Nat} (h : i < s.groups.length) (g : Group) :
    OnlyGroup s (s.setGroup i g) i g :=
  ⟨rfl, fun _ => rfl, fun _ _ _ => rfl, fun _ _ _ => rfl, fun _ hj => group_setGroup_ne hj g, group_setGroup h g⟩

/-! ### Each field of the state after each update -/

@[simp] theorem setGroup_groups (s : State) (i : Nat) (g : Group) : (s.setGroup i g).groups = s.groups.set i g := rfl
@[simp] theorem setGroup_memPoison (s : State) (i : Nat) (g : Group) : (s.setGroup i g).memPoison = s.memPoison := rfl
@[simp] theorem setGroup_hubc (s : State) (i : Nat) (g : Group) : (s.setGroup i g).hubc = s.hubc := rfl
@[simp] theorem setGroup_funcs (s : State) (i : Nat) (g : Group) : (s.setGroup i g).funcs = s.funcs := rfl
@[simp] theorem setGroup_partOwner (s : State) (i : Nat) (g : Group) : (s.setGroup i g).partOwner = s.partOwner := rfl
@[simp] theorem setGroup_atoms (s : State) (i : Nat) (g : Group) : (s.setGroup i g).atoms = s.atoms := rfl
@[simp] theorem setGroup_msgs (s : State) (i : Nat) (g : Group) : (s.setGroup i g).msgs = s.msgs := rfl
@[simp] theorem setGroup_passes (s : State) (i : Nat) (g : Group) : (s.setGroup i g).passes = s.passes := rfl
@[simp] theorem setGroup_texs (s : State) (i : Nat) (g : Group) : (s.setGroup i g).texs = s.texs := rfl
@[simp] theorem setGroup_traces (s : State) (i : Nat) (g : Group) : (s.setGroup i g).traces = s.traces := rfl
@[simp] theorem setGroup_contWrites (s : State) (i : Nat) (g : Group) : (s.setGroup i g).contWrites = s.contWrites := rfl
@[simp] theorem setGroup_nextTicket (s : State) (i : Nat) (g : Group) : (s.setGroup i g).nextTicket = s.nextTicket := rfl
@[simp] theorem setGroup_hv (s : State) (i : Nat) (g : Group) : (s.setGroup i g).hv = s.hv := rfl

@[simp] theorem modCell_groups (s : State) (c : Nat) (f : Cell → Cell) : (s.modCell c f).groups = s.groups := rfl
@[simp] theorem modCell_blocks (s : State) (c : Nat) (f : Cell → Cell) : (s.modCell c f).blocks = s.blocks := rfl
@[simp] theorem modCell_regions (s : State) (c : Nat) (f : Cell → Cell) : (s.modCell c f).regions = s.regions := rfl
@[simp] theorem modCell_windows (s : State) (c : Nat) (f : Cell → Cell) : (s.modCell c f).windows = s.windows := rfl
@[simp] theorem modCell_cells (s : State) (c : Nat) (f : Cell → Cell) : (s.modCell c f).cells = modifyAt s.cells c f := rfl
@[simp] theorem modCell_panes (s : State) (c : Nat) (f : Cell → Cell) : (s.modCell c f).panes = s.panes := rfl
@[simp] theorem modCell_mem (s : State) (c : Nat) (f : Cell → Cell) : (s.modCell c f).mem = s.mem := rfl
@[simp] theorem modCell_memPoison (s : State) (c : Nat) (f : Cell → Cell) : (s.modCell c f).memPoison = s.memPoison := rfl
@[simp] theorem modCell_hubc (s : State) (c : Nat) (f : Cell → Cell) : (s.modCell c f).hubc = s.hubc := rfl
@[simp] theorem modCell_ctxs (s : State) (c : Nat) (f : Cell → Cell) : (s.modCell c f).ctxs = s.ctxs := rfl
@[simp] theorem modCell_funcs (s : State) (c : Nat) (f : Cell → Cell) : (s.modCell c f).funcs = s.funcs := rfl
@[simp] theorem modCell_partOwner (s : State) (c : Nat) (f : Cell → Cell) : (s.modCell c f).partOwner = s.partOwner := rfl
@[simp] theorem modCell_atoms (s : State) (c : Nat) (f : Cell → Cell) : (s.modCell c f).atoms = s.atoms := rfl
@[simp] theorem modCell_msgs (s : State) (c : Nat) (f : Cell → Cell) : (s.modCell c f).msgs = s.msgs := rfl
@[simp] theorem modCell_passes (s : State) (c : Nat) (f : Cell → Cell) : (s.modCell c f).passes = s.passes := rfl
@[simp] theorem modCell_texs (s : State) (c : Nat) (f : Cell → Cell) : (s.modCell c f).texs = s.texs := rfl
@[simp] theorem modCell_traces (s : State) (c : Nat) (f : Cell → Cell) : (s.modCell c f).traces = s.traces := rfl
@[simp] theorem modCell_contWrites (s : State) (c : Nat) (f : Cell → Cell) : (s.modCell c f).contWrites = s.contWrites := rfl
@[simp] theorem modCell_nextTicket (s : State) (c : Nat) (f : Cell → Cell) : (s.modCell c f).nextTicket = s.nextTicket := rfl
@[simp] theorem modCell_hv (s : State) (c : Nat) (f : Cell → Cell) : (s.modCell c f).hv = s.hv := rfl
@[simp] theorem modCell_hub (s : State) (c : Nat) (f : Cell → Cell) : (s.modCell c f).hub = s.hub := rfl
@[simp] theorem modCell_agenda (s : State) (c : Nat) (f : Cell → Cell) : (s.modCell c f).agenda = s.agenda := rfl
@[simp] theorem modCell_turn (s : State) (c : Nat) (f : Cell → Cell) : (s.modCell c f).turn = s.turn := rfl
@[simp] theorem modCell_fresh (s : State) (c : Nat) (f : Cell → Cell) : (s.modCell c f).fresh = s.fresh := rfl

@[simp] theorem modPane_groups (s : State) (p : Nat) (f : Pane → Pane) : (s.modPane p f).groups = s.groups := rfl
@[simp] theorem modPane_blocks (s : State) (p : Nat) (f : Pane → Pane) : (s.modPane p f).blocks = s.blocks := rfl
@[simp] theorem modPane_regions (s : State) (p : Nat) (f : Pane → Pane) : (s.modPane p f).regions = s.regions := rfl
@[simp] theorem modPane_windows (s : State) (p : Nat) (f : Pane → Pane) : (s.modPane p f).windows = s.windows := rfl
@[simp] theorem modPane_cells (s : State) (p : Nat) (f : Pane → Pane) : (s.modPane p f).cells = s.cells := rfl
@[simp] theorem modPane_panes (s : State) (p : Nat) (f : Pane → Pane) : (s.modPane p f).panes = modifyAt s.panes p f := rfl
@[simp] theorem modPane_mem (s : State) (p : Nat) (f : Pane → Pane) : (s.modPane p f).mem = s.mem := rfl
@[simp] theorem modPane_memPoison (s : State) (p : Nat) (f : Pane → Pane) : (s.modPane p f).memPoison = s.memPoison := rfl
@[simp] theorem modPane_hubc (s : State) (p : Nat) (f : Pane → Pane) : (s.modPane p f).hubc = s.hubc := rfl
@[simp] theorem modPane_ctxs (s : State) (p : Nat) (f : Pane → Pane) : (s.modPane p f).ctxs = s.ctxs := rfl
@[simp] theorem modPane_funcs (s : State) (p : Nat) (f : Pane → Pane) : (s.modPane p f).funcs = s.funcs := rfl
@[simp] theorem modPane_partOwner (s : State) (p : Nat) (f : Pane → Pane) : (s.modPane p f).partOwner = s.partOwner := rfl
@[simp] theorem modPane_atoms (s : State) (p : Nat) (f : Pane → Pane) : (s.modPane p f).atoms = s.atoms := rfl
@[simp] theorem modPane_msgs (s : State) (p : Nat) (f : Pane → Pane) : (s.modPane p f).msgs = s.msgs := rfl
@[simp] theorem modPane_passes (s : State) (p : Nat) (f : Pane → Pane) : (s.modPane p f).passes = s.passes := rfl
@[simp] theorem modPane_texs (s : State) (p : Nat) (f : Pane → Pane) : (s.modPane p f).texs = s.texs := rfl
@[simp] theorem modPane_traces (s : State) (p : Nat) (f : Pane → Pane) : (s.modPane p f).traces = s.traces := rfl
@[simp] theorem modPane_contWrites (s : State) (p : Nat) (f : Pane → Pane) : (s.modPane p f).contWrites = s.contWrites := rfl
@[simp] theorem modPane_nextTicket (s : State) (p : Nat) (f : Pane → Pane) : (s.modPane p f).nextTicket = s.nextTicket := rfl
@[simp] theorem modPane_hv (s : State) (p : Nat) (f : Pane → Pane) : (s.modPane p f).hv = s.hv := rfl
@[simp] theorem modPane_hub (s : State) (p : Nat) (f : Pane → Pane) : (s.modPane p f).hub = s.hub := rfl
@[simp] theorem modPane_agenda (s : State) (p : Nat) (f : Pane → Pane) : (s.modPane p f).agenda = s.agenda := rfl
@[simp] theorem modPane_turn (s : State) (p : Nat) (f : Pane → Pane) : (s.modPane p f).turn = s.turn := rfl
@[simp] theorem modPane_fresh (s : State) (p : Nat) (f : Pane → Pane) : (s.modPane p f).fresh = s.fresh := rfl

@[simp] theorem modBlock_groups (s : State) (b : Nat) (f : Block → Block) : (s.modBlock b f).groups = s.groups := rfl
@[simp] theorem modBlock_blocks (s : State) (b : Nat) (f : Block → Block) : (s.modBlock b f).blocks = modifyAt s.blocks b f := rfl
@[simp] theorem modBlock_regions (s : State) (b : Nat) (f : Block → Block) : (s.modBlock b f).regions = s.regions := rfl
@[simp] theorem modBlock_windows (s : State) (b : Nat) (f : Block → Block) : (s.modBlock b f).windows = s.windows := rfl
@[simp] theorem modBlock_cells (s : State) (b : Nat) (f : Block → Block) : (s.modBlock b f).cells = s.cells := rfl
@[simp] theorem modBlock_panes (s : State) (b : Nat) (f : Block → Block) : (s.modBlock b f).panes = s.panes := rfl
@[simp] theorem modBlock_mem (s : State) (b : Nat) (f : Block → Block) : (s.modBlock b f).mem = s.mem := rfl
@[simp] theorem modBlock_memPoison (s : State) (b : Nat) (f : Block → Block) : (s.modBlock b f).memPoison = s.memPoison := rfl
@[simp] theorem modBlock_hubc (s : State) (b : Nat) (f : Block → Block) : (s.modBlock b f).hubc = s.hubc := rfl
@[simp] theorem modBlock_ctxs (s : State) (b : Nat) (f : Block → Block) : (s.modBlock b f).ctxs = s.ctxs := rfl
@[simp] theorem modBlock_funcs (s : State) (b : Nat) (f : Block → Block) : (s.modBlock b f).funcs = s.funcs := rfl
@[simp] theorem modBlock_partOwner (s : State) (b : Nat) (f : Block → Block) : (s.modBlock b f).partOwner = s.partOwner := rfl
@[simp] theorem modBlock_atoms (s : State) (b : Nat) (f : Block → Block) : (s.modBlock b f).atoms = s.atoms := rfl
@[simp] theorem modBlock_msgs (s : State) (b : Nat) (f : Block → Block) : (s.modBlock b f).msgs = s.msgs := rfl
@[simp] theorem modBlock_passes (s : State) (b : Nat) (f : Block → Block) : (s.modBlock b f).passes = s.passes := rfl
@[simp] theorem modBlock_texs (s : State) (b : Nat) (f : Block → Block) : (s.modBlock b f).texs = s.texs := rfl
@[simp] theorem modBlock_traces (s : State) (b : Nat) (f : Block → Block) : (s.modBlock b f).traces = s.traces := rfl
@[simp] theorem modBlock_contWrites (s : State) (b : Nat) (f : Block → Block) : (s.modBlock b f).contWrites = s.contWrites := rfl
@[simp] theorem modBlock_nextTicket (s : State) (b : Nat) (f : Block → Block) : (s.modBlock b f).nextTicket = s.nextTicket := rfl
@[simp] theorem modBlock_hv (s : State) (b : Nat) (f : Block → Block) : (s.modBlock b f).hv = s.hv := rfl
@[simp] theorem modBlock_hub (s : State) (b : Nat) (f : Block → Block) : (s.modBlock b f).hub = s.hub := rfl
@[simp] theorem modBlock_agenda (s : State) (b : Nat) (f : Block → Block) : (s.modBlock b f).agenda = s.agenda := rfl
@[simp] theorem modBlock_turn (s : State) (b : Nat) (f : Block → Block) : (s.modBlock b f).turn = s.turn := rfl
@[simp] theorem modBlock_fresh (s : State) (b : Nat) (f : Block → Block) : (s.modBlock b f).fresh = s.fresh := rfl

@[simp] theorem modRegion_groups (s : State) (k : Nat) (f : Region → Region) : (s.modRegion k f).groups = s.groups := rfl
@[simp] theorem modRegion_blocks (s : State) (k : Nat) (f : Region → Region) : (s.modRegion k f).blocks = s.blocks := rfl
@[simp] theorem modRegion_regions (s : State) (k : Nat) (f : Region → Region) : (s.modRegion k f).regions = modifyAt s.regions k f := rfl
@[simp] theorem modRegion_windows (s : State) (k : Nat) (f : Region → Region) : (s.modRegion k f).windows = s.windows := rfl
@[simp] theorem modRegion_cells (s : State) (k : Nat) (f : Region → Region) : (s.modRegion k f).cells = s.cells := rfl
@[simp] theorem modRegion_panes (s : State) (k : Nat) (f : Region → Region) : (s.modRegion k f).panes = s.panes := rfl
@[simp] theorem modRegion_mem (s : State) (k : Nat) (f : Region → Region) : (s.modRegion k f).mem = s.mem := rfl
@[simp] theorem modRegion_memPoison (s : State) (k : Nat) (f : Region → Region) : (s.modRegion k f).memPoison = s.memPoison := rfl
@[simp] theorem modRegion_hubc (s : State) (k : Nat) (f : Region → Region) : (s.modRegion k f).hubc = s.hubc := rfl
@[simp] theorem modRegion_ctxs (s : State) (k : Nat) (f : Region → Region) : (s.modRegion k f).ctxs = s.ctxs := rfl
@[simp] theorem modRegion_funcs (s : State) (k : Nat) (f : Region → Region) : (s.modRegion k f).funcs = s.funcs := rfl
@[simp] theorem modRegion_partOwner (s : State) (k : Nat) (f : Region → Region) : (s.modRegion k f).partOwner = s.partOwner := rfl
@[simp] theorem modRegion_atoms (s : State) (k : Nat) (f : Region → Region) : (s.modRegion k f).atoms = s.atoms := rfl
@[simp] theorem modRegion_msgs (s : State) (k : Nat) (f : Region → Region) : (s.modRegion k f).msgs = s.msgs := rfl
@[simp] theorem modRegion_passes (s : State) (k : Nat) (f : Region → Region) : (s.modRegion k f).passes = s.passes := rfl
@[simp] theorem modRegion_texs (s : State) (k : Nat) (f : Region → Region) : (s.modRegion k f).texs = s.texs := rfl
@[simp] theorem modRegion_traces (s : State) (k : Nat) (f : Region → Region) : (s.modRegion k f).traces = s.traces := rfl
@[simp] theorem modRegion_contWrites (s : State) (k : Nat) (f : Region → Region) : (s.modRegion k f).contWrites = s.contWrites := rfl
@[simp] theorem modRegion_nextTicket (s : State) (k : Nat) (f : Region → Region) : (s.modRegion k f).nextTicket = s.nextTicket := rfl
@[simp] theorem modRegion_hv (s : State) (k : Nat) (f : Region → Region) : (s.modRegion k f).hv = s.hv := rfl
@[simp] theorem modRegion_hub (s : State) (k : Nat) (f : Region → Region) : (s.modRegion k f).hub = s.hub := rfl
@[simp] theorem modRegion_agenda (s : State) (k : Nat) (f : Region → Region) : (s.modRegion k f).agenda = s.agenda := rfl
@[simp] theorem modRegion_turn (s : State) (k : Nat) (f : Region → Region) : (s.modRegion k f).turn = s.turn := rfl
@[simp] theorem modRegion_fresh (s : State) (k : Nat) (f : Region → Region) : (s.modRegion k f).fresh = s.fresh := rfl

@[simp] theorem modCtx_groups (s : State) (c : Nat) (f : Context → Context) : (s.modCtx c f).groups = s.groups := rfl
@[simp] theorem modCtx_blocks (s : State) (c : Nat) (f : Context → Context) : (s.modCtx c f).blocks = s.blocks := rfl
@[simp] theorem modCtx_regions (s : State) (c : Nat) (f : Context → Context) : (s.modCtx c f).regions = s.regions := rfl
@[simp] theorem modCtx_windows (s : State) (c : Nat) (f : Context → Context) : (s.modCtx c f).windows = s.windows := rfl
@[simp] theorem modCtx_cells (s : State) (c : Nat) (f : Context → Context) : (s.modCtx c f).cells = s.cells := rfl
@[simp] theorem modCtx_panes (s : State) (c : Nat) (f : Context → Context) : (s.modCtx c f).panes = s.panes := rfl
@[simp] theorem modCtx_mem (s : State) (c : Nat) (f : Context → Context) : (s.modCtx c f).mem = s.mem := rfl
@[simp] theorem modCtx_memPoison (s : State) (c : Nat) (f : Context → Context) : (s.modCtx c f).memPoison = s.memPoison := rfl
@[simp] theorem modCtx_hubc (s : State) (c : Nat) (f : Context → Context) : (s.modCtx c f).hubc = s.hubc := rfl
@[simp] theorem modCtx_ctxs (s : State) (c : Nat) (f : Context → Context) : (s.modCtx c f).ctxs = modifyAt s.ctxs c f := rfl
@[simp] theorem modCtx_funcs (s : State) (c : Nat) (f : Context → Context) : (s.modCtx c f).funcs = s.funcs := rfl
@[simp] theorem modCtx_partOwner (s : State) (c : Nat) (f : Context → Context) : (s.modCtx c f).partOwner = s.partOwner := rfl
@[simp] theorem modCtx_atoms (s : State) (c : Nat) (f : Context → Context) : (s.modCtx c f).atoms = s.atoms := rfl
@[simp] theorem modCtx_msgs (s : State) (c : Nat) (f : Context → Context) : (s.modCtx c f).msgs = s.msgs := rfl
@[simp] theorem modCtx_passes (s : State) (c : Nat) (f : Context → Context) : (s.modCtx c f).passes = s.passes := rfl
@[simp] theorem modCtx_texs (s : State) (c : Nat) (f : Context → Context) : (s.modCtx c f).texs = s.texs := rfl
@[simp] theorem modCtx_traces (s : State) (c : Nat) (f : Context → Context) : (s.modCtx c f).traces = s.traces := rfl
@[simp] theorem modCtx_contWrites (s : State) (c : Nat) (f : Context → Context) : (s.modCtx c f).contWrites = s.contWrites := rfl
@[simp] theorem modCtx_nextTicket (s : State) (c : Nat) (f : Context → Context) : (s.modCtx c f).nextTicket = s.nextTicket := rfl
@[simp] theorem modCtx_hv (s : State) (c : Nat) (f : Context → Context) : (s.modCtx c f).hv = s.hv := rfl
@[simp] theorem modCtx_hub (s : State) (c : Nat) (f : Context → Context) : (s.modCtx c f).hub = s.hub := rfl
@[simp] theorem modCtx_agenda (s : State) (c : Nat) (f : Context → Context) : (s.modCtx c f).agenda = s.agenda := rfl
@[simp] theorem modCtx_turn (s : State) (c : Nat) (f : Context → Context) : (s.modCtx c f).turn = s.turn := rfl
@[simp] theorem modCtx_fresh (s : State) (c : Nat) (f : Context → Context) : (s.modCtx c f).fresh = s.fresh := rfl

@[simp] theorem withHub_groups (s : State) (f : Hub → Hub) : (s.withHub f).groups = s.groups := rfl
@[simp] theorem withHub_blocks (s : State) (f : Hub → Hub) : (s.withHub f).blocks = s.blocks := rfl
@[simp] theorem withHub_regions (s : State) (f : Hub → Hub) : (s.withHub f).regions = s.regions := rfl
@[simp] theorem withHub_windows (s : State) (f : Hub → Hub) : (s.withHub f).windows = s.windows := rfl
@[simp] theorem withHub_cells (s : State) (f : Hub → Hub) : (s.withHub f).cells = s.cells := rfl
@[simp] theorem withHub_panes (s : State) (f : Hub → Hub) : (s.withHub f).panes = s.panes := rfl
@[simp] theorem withHub_mem (s : State) (f : Hub → Hub) : (s.withHub f).mem = s.mem := rfl
@[simp] theorem withHub_memPoison (s : State) (f : Hub → Hub) : (s.withHub f).memPoison = s.memPoison := rfl
@[simp] theorem withHub_hubc (s : State) (f : Hub → Hub) : (s.withHub f).hubc = s.hubc := rfl
@[simp] theorem withHub_ctxs (s : State) (f : Hub → Hub) : (s.withHub f).ctxs = s.ctxs := rfl
@[simp] theorem withHub_funcs (s : State) (f : Hub → Hub) : (s.withHub f).funcs = s.funcs := rfl
@[simp] theorem withHub_partOwner (s : State) (f : Hub → Hub) : (s.withHub f).partOwner = s.partOwner := rfl
@[simp] theorem withHub_atoms (s : State) (f : Hub → Hub) : (s.withHub f).atoms = s.atoms := rfl
@[simp] theorem withHub_msgs (s : State) (f : Hub → Hub) : (s.withHub f).msgs = s.msgs := rfl
@[simp] theorem withHub_passes (s : State) (f : Hub → Hub) : (s.withHub f).passes = s.passes := rfl
@[simp] theorem withHub_texs (s : State) (f : Hub → Hub) : (s.withHub f).texs = s.texs := rfl
@[simp] theorem withHub_traces (s : State) (f : Hub → Hub) : (s.withHub f).traces = s.traces := rfl
@[simp] theorem withHub_contWrites (s : State) (f : Hub → Hub) : (s.withHub f).contWrites = s.contWrites := rfl
@[simp] theorem withHub_nextTicket (s : State) (f : Hub → Hub) : (s.withHub f).nextTicket = s.nextTicket := rfl
@[simp] theorem withHub_hv (s : State) (f : Hub → Hub) : (s.withHub f).hv = s.hv := rfl
@[simp] theorem withHub_hub (s : State) (f : Hub → Hub) : (s.withHub f).hub = f s.hub := rfl
@[simp] theorem withHub_agenda (s : State) (f : Hub → Hub) : (s.withHub f).agenda = s.agenda := rfl
@[simp] theorem withHub_turn (s : State) (f : Hub → Hub) : (s.withHub f).turn = s.turn := rfl
@[simp] theorem withHub_fresh (s : State) (f : Hub → Hub) : (s.withHub f).fresh = s.fresh := rfl

@[simp] theorem setWindow_groups (s : State) (w : Window) : (s.setWindow w).groups = s.groups := by unfold State.setWindow; split <;> rfl
@[simp] theorem modWindow_groups (s : State) (p c : Nat) (f : Window → Window) : (s.modWindow p c f).groups = s.groups := setWindow_groups _ _
@[simp] theorem setWindow_blocks (s : State) (w : Window) : (s.setWindow w).blocks = s.blocks := by unfold State.setWindow; split <;> rfl
@[simp] theorem modWindow_blocks (s : State) (p c : Nat) (f : Window → Window) : (s.modWindow p c f).blocks = s.blocks := setWindow_blocks _ _
@[simp] theorem setWindow_regions (s : State) (w : Window) : (s.setWindow w).regions = s.regions := by unfold State.setWindow; split <;> rfl
@[simp] theorem modWindow_regions (s : State) (p c : Nat) (f : Window → Window) : (s.modWindow p c f).regions = s.regions := setWindow_regions _ _
@[simp] theorem setWindow_cells (s : State) (w : Window) : (s.setWindow w).cells = s.cells := by unfold State.setWindow; split <;> rfl
@[simp] theorem modWindow_cells (s : State) (p c : Nat) (f : Window → Window) : (s.modWindow p c f).cells = s.cells := setWindow_cells _ _
@[simp] theorem setWindow_panes (s : State) (w : Window) : (s.setWindow w).panes = s.panes := by unfold State.setWindow; split <;> rfl
@[simp] theorem modWindow_panes (s : State) (p c : Nat) (f : Window → Window) : (s.modWindow p c f).panes = s.panes := setWindow_panes _ _
@[simp] theorem setWindow_mem (s : State) (w : Window) : (s.setWindow w).mem = s.mem := by unfold State.setWindow; split <;> rfl
@[simp] theorem modWindow_mem (s : State) (p c : Nat) (f : Window → Window) : (s.modWindow p c f).mem = s.mem := setWindow_mem _ _
@[simp] theorem setWindow_memPoison (s : State) (w : Window) : (s.setWindow w).memPoison = s.memPoison := by unfold State.setWindow; split <;> rfl
@[simp] theorem modWindow_memPoison (s : State) (p c : Nat) (f : Window → Window) : (s.modWindow p c f).memPoison = s.memPoison := setWindow_memPoison _ _
@[simp] theorem setWindow_hubc (s : State) (w : Window) : (s.setWindow w).hubc = s.hubc := by unfold State.setWindow; split <;> rfl
@[simp] theorem modWindow_hubc (s : State) (p c : Nat) (f : Window → Window) : (s.modWindow p c f).hubc = s.hubc := setWindow_hubc _ _
@[simp] theorem setWindow_ctxs (s : State) (w : Window) : (s.setWindow w).ctxs = s.ctxs := by unfold State.setWindow; split <;> rfl
@[simp] theorem modWindow_ctxs (s : State) (p c : Nat) (f : Window → Window) : (s.modWindow p c f).ctxs = s.ctxs := setWindow_ctxs _ _
@[simp] theorem setWindow_funcs (s : State) (w : Window) : (s.setWindow w).funcs = s.funcs := by unfold State.setWindow; split <;> rfl
@[simp] theorem modWindow_funcs (s : State) (p c : Nat) (f : Window → Window) : (s.modWindow p c f).funcs = s.funcs := setWindow_funcs _ _
@[simp] theorem setWindow_partOwner (s : State) (w : Window) : (s.setWindow w).partOwner = s.partOwner := by unfold State.setWindow; split <;> rfl
@[simp] theorem modWindow_partOwner (s : State) (p c : Nat) (f : Window → Window) : (s.modWindow p c f).partOwner = s.partOwner := setWindow_partOwner _ _
@[simp] theorem setWindow_atoms (s : State) (w : Window) : (s.setWindow w).atoms = s.atoms := by unfold State.setWindow; split <;> rfl
@[simp] theorem modWindow_atoms (s : State) (p c : Nat) (f : Window → Window) : (s.modWindow p c f).atoms = s.atoms := setWindow_atoms _ _
@[simp] theorem setWindow_msgs (s : State) (w : Window) : (s.setWindow w).msgs = s.msgs := by unfold State.setWindow; split <;> rfl
@[simp] theorem modWindow_msgs (s : State) (p c : Nat) (f : Window → Window) : (s.modWindow p c f).msgs = s.msgs := setWindow_msgs _ _
@[simp] theorem setWindow_passes (s : State) (w : Window) : (s.setWindow w).passes = s.passes := by unfold State.setWindow; split <;> rfl
@[simp] theorem modWindow_passes (s : State) (p c : Nat) (f : Window → Window) : (s.modWindow p c f).passes = s.passes := setWindow_passes _ _
@[simp] theorem setWindow_texs (s : State) (w : Window) : (s.setWindow w).texs = s.texs := by unfold State.setWindow; split <;> rfl
@[simp] theorem modWindow_texs (s : State) (p c : Nat) (f : Window → Window) : (s.modWindow p c f).texs = s.texs := setWindow_texs _ _
@[simp] theorem setWindow_traces (s : State) (w : Window) : (s.setWindow w).traces = s.traces := by unfold State.setWindow; split <;> rfl
@[simp] theorem modWindow_traces (s : State) (p c : Nat) (f : Window → Window) : (s.modWindow p c f).traces = s.traces := setWindow_traces _ _
@[simp] theorem setWindow_contWrites (s : State) (w : Window) : (s.setWindow w).contWrites = s.contWrites := by unfold State.setWindow; split <;> rfl
@[simp] theorem modWindow_contWrites (s : State) (p c : Nat) (f : Window → Window) : (s.modWindow p c f).contWrites = s.contWrites := setWindow_contWrites _ _
@[simp] theorem setWindow_nextTicket (s : State) (w : Window) : (s.setWindow w).nextTicket = s.nextTicket := by unfold State.setWindow; split <;> rfl
@[simp] theorem modWindow_nextTicket (s : State) (p c : Nat) (f : Window → Window) : (s.modWindow p c f).nextTicket = s.nextTicket := setWindow_nextTicket _ _
@[simp] theorem setWindow_hv (s : State) (w : Window) : (s.setWindow w).hv = s.hv := by unfold State.setWindow; split <;> rfl
@[simp] theorem modWindow_hv (s : State) (p c : Nat) (f : Window → Window) : (s.modWindow p c f).hv = s.hv := setWindow_hv _ _
@[simp] theorem setWindow_hub (s : State) (w : Window) : (s.setWindow w).hub = s.hub := by unfold State.setWindow; split <;> rfl
@[simp] theorem modWindow_hub (s : State) (p c : Nat) (f : Window → Window) : (s.modWindow p c f).hub = s.hub := setWindow_hub _ _
@[simp] theorem setWindow_agenda (s : State) (w : Window) : (s.setWindow w).agenda = s.agenda := by unfold State.setWindow; split <;> rfl
@[simp] theorem modWindow_agenda (s : State) (p c : Nat) (f : Window → Window) : (s.modWindow p c f).agenda = s.agenda := setWindow_agenda _ _
@[simp] theorem setWindow_turn (s : State) (w : Window) : (s.setWindow w).turn = s.turn := by unfold State.setWindow; split <;> rfl
@[simp] theorem modWindow_turn (s : State) (p c : Nat) (f : Window → Window) : (s.modWindow p c f).turn = s.turn := setWindow_turn _ _
@[simp] theorem setWindow_fresh (s : State) (w : Window) : (s.setWindow w).fresh = s.fresh := by unfold State.setWindow; split <;> rfl
@[simp] theorem modWindow_fresh (s : State) (p c : Nat) (f : Window → Window) : (s.modWindow p c f).fresh = s.fresh := setWindow_fresh _ _

@[simp] theorem free_groups (s : State) : (s.free).2.groups = s.groups := rfl
@[simp] theorem free_blocks (s : State) : (s.free).2.blocks = s.blocks := rfl
@[simp] theorem free_regions (s : State) : (s.free).2.regions = s.regions := rfl
@[simp] theorem free_windows (s : State) : (s.free).2.windows = s.windows := rfl
@[simp] theorem free_cells (s : State) : (s.free).2.cells = s.cells := rfl
@[simp] theorem free_panes (s : State) : (s.free).2.panes = s.panes := rfl
@[simp] theorem free_mem (s : State) : (s.free).2.mem = s.mem := rfl
@[simp] theorem free_memPoison (s : State) : (s.free).2.memPoison = s.memPoison := rfl
@[simp] theorem free_hubc (s : State) : (s.free).2.hubc = s.hubc := rfl
@[simp] theorem free_ctxs (s : State) : (s.free).2.ctxs = s.ctxs := rfl
@[simp] theorem free_funcs (s : State) : (s.free).2.funcs = s.funcs := rfl
@[simp] theorem free_partOwner (s : State) : (s.free).2.partOwner = s.partOwner := rfl
@[simp] theorem free_atoms (s : State) : (s.free).2.atoms = s.atoms := rfl
@[simp] theorem free_msgs (s : State) : (s.free).2.msgs = s.msgs := rfl
@[simp] theorem free_passes (s : State) : (s.free).2.passes = s.passes := rfl
@[simp] theorem free_texs (s : State) : (s.free).2.texs = s.texs := rfl
@[simp] theorem free_traces (s : State) : (s.free).2.traces = s.traces := rfl
@[simp] theorem free_contWrites (s : State) : (s.free).2.contWrites = s.contWrites := rfl
@[simp] theorem free_nextTicket (s : State) : (s.free).2.nextTicket = s.nextTicket := rfl
@[simp] theorem free_hv (s : State) : (s.free).2.hv = s.hv := rfl
@[simp] theorem free_hub (s : State) : (s.free).2.hub = s.hub := rfl
@[simp] theorem free_agenda (s : State) : (s.free).2.agenda = s.agenda := rfl
@[simp] theorem free_turn (s : State) : (s.free).2.turn = s.turn := rfl
@[simp] theorem free_fresh (s : State) : (s.free).2.fresh = s.fresh + 1 := rfl

/-! ### The parts of a group -/

@[simp] theorem withCtl_ctl (g : Group) (f : GCtl → GCtl) : (g.withCtl f).ctl = f g.ctl := rfl
@[simp] theorem withCtl_regs (g : Group) (f : GCtl → GCtl) : (g.withCtl f).regs = g.regs := rfl
@[simp] theorem withCtl_trap (g : Group) (f : GCtl → GCtl) : (g.withCtl f).trap = g.trap := rfl
@[simp] theorem withCtl_sr (g : Group) (f : GCtl → GCtl) : (g.withCtl f).sr = g.sr := rfl
@[simp] theorem withCtl_asy (g : Group) (f : GCtl → GCtl) : (g.withCtl f).asy = g.asy := rfl
@[simp] theorem withCtl_mat (g : Group) (f : GCtl → GCtl) : (g.withCtl f).mat = g.mat := rfl
@[simp] theorem withCtl_id (g : Group) (f : GCtl → GCtl) : (g.withCtl f).id = g.id := rfl
@[simp] theorem withCtl_loc (g : Group) (f : GCtl → GCtl) : (g.withCtl f).loc = g.loc := rfl
@[simp] theorem withCtl_mons (g : Group) (f : GCtl → GCtl) : (g.withCtl f).mons = g.mons := rfl
@[simp] theorem withCtl_paused (g : Group) (f : GCtl → GCtl) : (g.withCtl f).paused = g.paused := rfl
@[simp] theorem withRegs_ctl (g : Group) (f : GRegs → GRegs) : (g.withRegs f).ctl = g.ctl := rfl
@[simp] theorem withRegs_regs (g : Group) (f : GRegs → GRegs) : (g.withRegs f).regs = f g.regs := rfl
@[simp] theorem withRegs_trap (g : Group) (f : GRegs → GRegs) : (g.withRegs f).trap = g.trap := rfl
@[simp] theorem withRegs_sr (g : Group) (f : GRegs → GRegs) : (g.withRegs f).sr = g.sr := rfl
@[simp] theorem withRegs_asy (g : Group) (f : GRegs → GRegs) : (g.withRegs f).asy = g.asy := rfl
@[simp] theorem withRegs_mat (g : Group) (f : GRegs → GRegs) : (g.withRegs f).mat = g.mat := rfl
@[simp] theorem withRegs_id (g : Group) (f : GRegs → GRegs) : (g.withRegs f).id = g.id := rfl
@[simp] theorem withRegs_loc (g : Group) (f : GRegs → GRegs) : (g.withRegs f).loc = g.loc := rfl
@[simp] theorem withRegs_mons (g : Group) (f : GRegs → GRegs) : (g.withRegs f).mons = g.mons := rfl
@[simp] theorem withRegs_paused (g : Group) (f : GRegs → GRegs) : (g.withRegs f).paused = g.paused := rfl
@[simp] theorem withSr_ctl (g : Group) (f : GSpecial → GSpecial) : (g.withSr f).ctl = g.ctl := rfl
@[simp] theorem withSr_regs (g : Group) (f : GSpecial → GSpecial) : (g.withSr f).regs = g.regs := rfl
@[simp] theorem withSr_sr (g : Group) (f : GSpecial → GSpecial) : (g.withSr f).sr = f g.sr := rfl
@[simp] theorem withSr_trap (g : Group) (f : GSpecial → GSpecial) : (g.withSr f).trap = g.trap := rfl
@[simp] theorem withSr_asy (g : Group) (f : GSpecial → GSpecial) : (g.withSr f).asy = g.asy := rfl
@[simp] theorem withSr_mat (g : Group) (f : GSpecial → GSpecial) : (g.withSr f).mat = g.mat := rfl
@[simp] theorem withSr_id (g : Group) (f : GSpecial → GSpecial) : (g.withSr f).id = g.id := rfl
@[simp] theorem withSr_loc (g : Group) (f : GSpecial → GSpecial) : (g.withSr f).loc = g.loc := rfl
@[simp] theorem withTrap_ctl (g : Group) (f : GTrap → GTrap) : (g.withTrap f).ctl = g.ctl := rfl
@[simp] theorem withTrap_regs (g : Group) (f : GTrap → GTrap) : (g.withTrap f).regs = g.regs := rfl
@[simp] theorem withTrap_trap (g : Group) (f : GTrap → GTrap) : (g.withTrap f).trap = f g.trap := rfl
@[simp] theorem withTrap_sr (g : Group) (f : GTrap → GTrap) : (g.withTrap f).sr = g.sr := rfl
@[simp] theorem withTrap_id (g : Group) (f : GTrap → GTrap) : (g.withTrap f).id = g.id := rfl
@[simp] theorem withTrap_loc (g : Group) (f : GTrap → GTrap) : (g.withTrap f).loc = g.loc := rfl
@[simp] theorem withAsy_ctl (g : Group) (f : GAsync → GAsync) : (g.withAsy f).ctl = g.ctl := rfl
@[simp] theorem withAsy_regs (g : Group) (f : GAsync → GAsync) : (g.withAsy f).regs = g.regs := rfl
@[simp] theorem withAsy_asy (g : Group) (f : GAsync → GAsync) : (g.withAsy f).asy = f g.asy := rfl
@[simp] theorem withAsy_trap (g : Group) (f : GAsync → GAsync) : (g.withAsy f).trap = g.trap := rfl
@[simp] theorem withAsy_sr (g : Group) (f : GAsync → GAsync) : (g.withAsy f).sr = g.sr := rfl
@[simp] theorem withAsy_id (g : Group) (f : GAsync → GAsync) : (g.withAsy f).id = g.id := rfl
@[simp] theorem withAsy_loc (g : Group) (f : GAsync → GAsync) : (g.withAsy f).loc = g.loc := rfl
@[simp] theorem withMat_ctl (g : Group) (f : GMatrix → GMatrix) : (g.withMat f).ctl = g.ctl := rfl
@[simp] theorem withMat_regs (g : Group) (f : GMatrix → GMatrix) : (g.withMat f).regs = g.regs := rfl
@[simp] theorem withMat_mat (g : Group) (f : GMatrix → GMatrix) : (g.withMat f).mat = f g.mat := rfl
@[simp] theorem withMat_trap (g : Group) (f : GMatrix → GMatrix) : (g.withMat f).trap = g.trap := rfl
@[simp] theorem withMat_id (g : Group) (f : GMatrix → GMatrix) : (g.withMat f).id = g.id := rfl
@[simp] theorem withMat_loc (g : Group) (f : GMatrix → GMatrix) : (g.withMat f).loc = g.loc := rfl

@[simp] theorem withSr_mons (g : Group) (f : GSpecial → GSpecial) : (g.withSr f).mons = g.mons := rfl
@[simp] theorem withSr_paused (g : Group) (f : GSpecial → GSpecial) : (g.withSr f).paused = g.paused := rfl
@[simp] theorem withTrap_asy (g : Group) (f : GTrap → GTrap) : (g.withTrap f).asy = g.asy := rfl
@[simp] theorem withTrap_mat (g : Group) (f : GTrap → GTrap) : (g.withTrap f).mat = g.mat := rfl
@[simp] theorem withTrap_mons (g : Group) (f : GTrap → GTrap) : (g.withTrap f).mons = g.mons := rfl
@[simp] theorem withTrap_paused (g : Group) (f : GTrap → GTrap) : (g.withTrap f).paused = g.paused := rfl
@[simp] theorem withAsy_mat (g : Group) (f : GAsync → GAsync) : (g.withAsy f).mat = g.mat := rfl
@[simp] theorem withAsy_mons (g : Group) (f : GAsync → GAsync) : (g.withAsy f).mons = g.mons := rfl
@[simp] theorem withAsy_paused (g : Group) (f : GAsync → GAsync) : (g.withAsy f).paused = g.paused := rfl
@[simp] theorem withMat_sr (g : Group) (f : GMatrix → GMatrix) : (g.withMat f).sr = g.sr := rfl
@[simp] theorem withMat_asy (g : Group) (f : GMatrix → GMatrix) : (g.withMat f).asy = g.asy := rfl
@[simp] theorem withMat_mons (g : Group) (f : GMatrix → GMatrix) : (g.withMat f).mons = g.mons := rfl
@[simp] theorem withMat_paused (g : Group) (f : GMatrix → GMatrix) : (g.withMat f).paused = g.paused := rfl

/-! ### Scalar registers and lane masks -/

theorem sreg_setS (g : Group) (n r : Nat) (x : Word) : (g.setS n x).sreg r = if r = n then x else g.sreg r := by
  simp [Group.setS, Group.sreg, getD_putAt]

theorem kreg_setK (g : Group) (n r : Nat) (m : Lanes) (h : n ≠ 0) :
    (g.setK n m).kreg r = if r = n then m else g.kreg r := by
  unfold Group.kreg Group.setK
  by_cases hr : r = 0
  · subst hr; simp [Ne.symm h]
  · simp [hr, getD_putAt]

@[simp] theorem vreg_setS (g : Group) (n r : Nat) (x : Word) : (g.setS n x).vreg r = g.vreg r := rfl
@[simp] theorem kreg_setS (g : Group) (n r : Nat) (x : Word) : (g.setS n x).kreg r = g.kreg r := rfl
@[simp] theorem vreg_setK (g : Group) (n r : Nat) (m : Lanes) : (g.setK n m).vreg r = g.vreg r := rfl
@[simp] theorem sreg_setK (g : Group) (n r : Nat) (m : Lanes) : (g.setK n m).sreg r = g.sreg r := rfl

theorem spair_setPair (g : Group) (n : Nat) (x : DWord) : (g.setPair n x).spair n = x := by
  have h1 : (g.setPair n x).sreg n = loWord x := by simp [Group.setPair, sreg_setS]
  have h2 : (g.setPair n x).sreg (n + 1) = hiWord x := by simp [Group.setPair, sreg_setS]
  unfold Group.spair
  rw [h1, h2]
  apply BitVec.eq_of_getLsbD_eq
  intro j hj
  simp only [mkPair, loWord, hiWord, BitVec.getLsbD_cast, BitVec.getLsbD_append, BitVec.getLsbD_setWidth,
    BitVec.getLsbD_ushiftRight]
  by_cases h : j < 32
  · simp [h]
  · simp [h, show j - 32 < 32 by omega, show 32 + (j - 32) = j by omega]

end Sys2Proof.Machine
end

