-- ==== Sys2Proof/Laws/Run.lean ====
section
/-! SUPPORT. How an instruction of a ready group runs: nothing comes before its own action, the skim engine has
nothing to spill after it, and the group advances. One lemma for each way in which an action ends. -/
namespace Sys2Proof.Machine
open Sys2Proof

/-! ### Register-file entries -/

theorem entries_le (v : VVal) : v.entries ≤ 32 := by cases v <;> simp [VVal.entries]

/-- The entries that a register takes. -/
theorem foldl_add_shift (l : List Nat) (n : Nat) : l.foldl (· + ·) n = n + l.foldl (· + ·) 0 := by
  induction l generalizing n with
  | nil => simp
  | cons a r ih => simp only [List.foldl_cons]; rw [ih, ih (0 + a)]; omega

theorem usage_putAt (v : List VReg) (n : Nat) (x y : VReg)
    (h : (if x.tag = 0 then x.val.entries else 0) ≤ (if y.tag = 0 then y.val.entries else 0)) :
    ((putAt VReg.zero v n x).map fun r => if r.tag = 0 then r.val.entries else 0).foldl (· + ·) 0 ≤
      ((putAt VReg.zero v n y).map fun r => if r.tag = 0 then r.val.entries else 0).foldl (· + ·) 0 := by
  induction n generalizing v with
  | zero =>
    cases v with
    | nil => simpa [putAt] using h
    | cons a r =>
      simp only [putAt, List.map_cons, List.foldl_cons]
      rw [foldl_add_shift, foldl_add_shift _ (0 + _)]
      omega
  | succ n ih =>
    cases v with
    | nil =>
      have := ih []
      simp only [putAt, List.map_cons, List.foldl_cons]
      rw [foldl_add_shift, foldl_add_shift _ (0 + _)]
      omega
    | cons a r =>
      have := ih r
      simp only [putAt, List.map_cons, List.foldl_cons]
      rw [foldl_add_shift, foldl_add_shift _ (0 + _)]
      omega

theorem usage_le_putAt (v : List VReg) (n : Nat) (y : VReg) (h : y.tag = 0) (h2 : y.val.entries = 32) :
    (v.map fun r => if r.tag = 0 then r.val.entries else 0).foldl (· + ·) 0 ≤
      ((putAt VReg.zero v n y).map fun r => if r.tag = 0 then r.val.entries else 0).foldl (· + ·) 0 := by
  induction n generalizing v with
  | zero =>
    cases v with
    | nil => simp
    | cons a r =>
      simp only [putAt, List.map_cons, List.foldl_cons, h, h2, if_true]
      rw [foldl_add_shift, foldl_add_shift _ (0 + _)]
      have := entries_le a.val
      split <;> omega
  | succ n ih =>
    cases v with
    | nil => simp
    | cons a r =>
      have := ih r
      simp only [putAt, List.map_cons, List.foldl_cons]
      rw [foldl_add_shift, foldl_add_shift _ (0 + _)]
      omega

theorem entryBudget_widest (g : Group) (rs : List Nat) : (g.widest rs).entryBudget = g.entryBudget := by
  unfold Group.widest
  induction rs generalizing g with
  | nil => rfl
  | cons r rest ih => exact ih _

theorem usage_le_widest (g : Group) (rs : List Nat) : g.usage ≤ (g.widest rs).usage := by
  unfold Group.widest
  induction rs generalizing g with
  | nil => exact le_rfl
  | cons r rest ih =>
    exact le_trans (usage_le_putAt g.regs.v r ⟨.general [], 0, .none⟩ rfl rfl)
      (ih (g.withRegs fun x => { x with v := putAt VReg.zero x.v r ⟨.general [], 0, .none⟩ }))

theorem Ready.usage {s : State} {i : Nat} {g : Group} {p : Info} (h : Ready s i g p) : g.usage ≤ g.entryBudget :=
  le_trans (usage_le_widest g _) h.room

/-- A register write takes no more entries than the register written as a general value. -/
theorem usage_writeLanes (g : Group) (m : Lanes) (n : Nat) (sh : Option VVal) (f : Nat → Word)
    (h : (g.widest [n]).usage ≤ g.entryBudget) :
    (g.writeLanes m n sh f).usage ≤ (g.writeLanes m n sh f).entryBudget := by
  unfold Group.writeLanes
  split
  · exact le_trans (usage_le_widest g _) h
  · refine le_trans ?_ h
    exact usage_putAt g.regs.v n _ ⟨.general [], 0, .none⟩ (by simpa [VVal.entries] using entries_le _)

/-! ### Before and after the action -/

theorem skim_done {s : State} {i : Nat} (h : (s.group i).usage ≤ (s.group i).entryBudget) (named dests : List Nat) :
    s.skim i named dests = .ok (some s) := by
  simp [State.skim, State.skimGo, h]

theorem refill_done {s : State} {i : Nat} (named l : List Nat) (h : ∀ r ∈ l, ((s.group i).vreg r).tag = 0) :
    s.refill i named l = .ok (some ⟨s, .none, .none⟩) := by
  induction l with
  | nil => rfl
  | cons r rest ih =>
    simp only [State.refill, h r (by simp), if_true]
    exact ih fun x hx => h x (by simp [hx])

/-- The group that is ready is the group that holds the number. -/
theorem Ready.group {s : State} {i : Nat} {g : Group} {p : Info} (h : Ready s i g p) : s.group i = g :=
  issuer_group h.turn
theorem Ready.lt {s : State} {i : Nat} {g : Group} {p : Info} (h : Ready s i g p) : i < s.groups.length :=
  issuer_lt h.turn

/-- An instruction takes only registers that it names from their slots. -/
theorem taken_named (p : Info) (g : Group) : ∀ r ∈ p.taken g, r ∈ p.named := by
  intro r hr
  have hc : ∀ c : Chk, ∀ r, r ∈ c.reads ∨ r ∈ c.writes → r ∈ c.named := by
    intro c r h
    cases c <;> simp_all [Chk.reads, Chk.writes, Chk.named]
  have hin : r ∈ p.reads ∨ r ∈ p.writes := by
    unfold Info.taken at hr
    rcases List.mem_append.mp hr with h | h
    · exact .inl h
    · split at h
      · simp at h
      · exact .inr h
  rcases hin with h | h <;>
  · obtain ⟨c, hc1, hc2⟩ := List.mem_flatMap.mp h
    exact List.mem_flatMap.mpr ⟨c, hc1, hc c r (by simp [hc2])⟩

theorem prepared_ready {s : State} {i : Nat} {g : Group} {p : Info} (h : Ready s i g p)
    (body : State → Nat → Group → Res) : prepared s i p body = body s i g := by
  have hp : (p.reads.findSome? fun r => (g.vreg r).poison.map fun q => (0, 0, q.2)) = (none : Option MetAt) :=
    List.findSome?_eq_none_iff.mpr fun r hr => by simp [h.clean r hr]
  have hr := refill_done (s := s) (i := i) p.named (p.taken g)
    (by rw [h.group]; exact fun r hr => h.resident r (taken_named p g r hr))
  simp only [prepared, h.group, h.landed, hr, hp, first, Bool.false_eq_true, if_false]

/-- A group without a skid in progress ends none. -/
theorem skidEnd_steady {s : State} {i : Nat} (h : (s.group i).trap.skid = []) : s.skidEnd i = s := by
  simp [State.skidEnd, h]

theorem shadowAfter_same {s : State} {i b ph : Nat} (h : (s.block b).barP = ph) : s.shadowAfter i b ph = s := by
  simp [State.shadowAfter, h]

/-! The end of a run leaves the group as it was but for its place in arbitration. -/
@[simp] theorem endRun_trap (g : Group) (now : Nat) : (g.endRun now).trap = g.trap := by
  unfold Group.endRun; simp only; split <;> rfl
@[simp] theorem endRun_id (g : Group) (now : Nat) : (g.endRun now).id = g.id := by
  unfold Group.endRun; simp only; split <;> rfl
@[simp] theorem endRun_loc (g : Group) (now : Nat) : (g.endRun now).loc = g.loc := by
  unfold Group.endRun; simp only; split <;> rfl
@[simp] theorem endRun_regs (g : Group) (now : Nat) : (g.endRun now).regs = g.regs := by
  unfold Group.endRun; simp only; split <;> rfl
@[simp] theorem endRun_sr (g : Group) (now : Nat) : (g.endRun now).sr = g.sr := by
  unfold Group.endRun; simp only; split <;> rfl
@[simp] theorem endRun_asy (g : Group) (now : Nat) : (g.endRun now).asy = g.asy := by
  unfold Group.endRun; simp only; split <;> rfl
@[simp] theorem endRun_mat (g : Group) (now : Nat) : (g.endRun now).mat = g.mat := by
  unfold Group.endRun; simp only; split <;> rfl
@[simp] theorem endRun_mons (g : Group) (now : Nat) : (g.endRun now).mons = g.mons := by
  unfold Group.endRun; simp only; split <;> rfl
@[simp] theorem endRun_paused (g : Group) (now : Nat) : (g.endRun now).paused = g.paused := by
  unfold Group.endRun; simp only; split <;> rfl
@[simp] theorem endRun_act (g : Group) (now : Nat) : (g.endRun now).ctl.act = g.ctl.act := by
  unfold Group.endRun; simp only; split <;> rfl
@[simp] theorem endRun_live (g : Group) (now : Nat) : (g.endRun now).ctl.live = g.ctl.live := by
  unfold Group.endRun; simp only; split <;> rfl
@[simp] theorem endRun_helper (g : Group) (now : Nat) : (g.endRun now).ctl.helper = g.ctl.helper := by
  unfold Group.endRun; simp only; split <;> rfl
@[simp] theorem endRun_stack (g : Group) (now : Nat) : (g.endRun now).ctl.stack = g.ctl.stack := by
  unfold Group.endRun; simp only; split <;> rfl
@[simp] theorem endRun_pc (g : Group) (now : Nat) : (g.endRun now).ctl.pc = g.ctl.pc := by
  unfold Group.endRun; simp only; split <;> rfl

@[simp] theorem advance_trap (g : Group) (n now : Nat) : (g.advance n now).trap = g.trap := by
  unfold Group.advance; simp only; split <;> simp
@[simp] theorem advance_id (g : Group) (n now : Nat) : (g.advance n now).id = g.id := by
  unfold Group.advance; simp only; split <;> simp
@[simp] theorem advance_loc (g : Group) (n now : Nat) : (g.advance n now).loc = g.loc := by
  unfold Group.advance; simp only; split <;> simp
@[simp] theorem advance_regs (g : Group) (n now : Nat) : (g.advance n now).regs = g.regs := by
  unfold Group.advance; simp only; split <;> simp
@[simp] theorem advance_sr (g : Group) (n now : Nat) : (g.advance n now).sr = g.sr := by
  unfold Group.advance; simp only; split <;> simp
@[simp] theorem advance_asy (g : Group) (n now : Nat) : (g.advance n now).asy = g.asy := by
  unfold Group.advance; simp only; split <;> simp
@[simp] theorem advance_mat (g : Group) (n now : Nat) : (g.advance n now).mat = g.mat := by
  unfold Group.advance; simp only; split <;> simp
@[simp] theorem advance_mons (g : Group) (n now : Nat) : (g.advance n now).mons = g.mons := by
  unfold Group.advance; simp only; split <;> simp
@[simp] theorem advance_paused (g : Group) (n now : Nat) : (g.advance n now).paused = g.paused := by
  unfold Group.advance; simp only; split <;> simp
@[simp] theorem advance_act (g : Group) (n now : Nat) : (g.advance n now).ctl.act = g.ctl.act := by
  unfold Group.advance; simp only; split <;> simp
@[simp] theorem advance_live (g : Group) (n now : Nat) : (g.advance n now).ctl.live = g.ctl.live := by
  unfold Group.advance; simp only; split <;> simp
@[simp] theorem advance_helper (g : Group) (n now : Nat) : (g.advance n now).ctl.helper = g.ctl.helper := by
  unfold Group.advance; simp only; split <;> simp
@[simp] theorem advance_stack (g : Group) (n now : Nat) : (g.advance n now).ctl.stack = g.ctl.stack := by
  unfold Group.advance; simp only; split <;> simp

@[simp] theorem completed_regs (g : Group) (n now : Nat) : (g.completed n now).regs = g.regs := by simp [Group.completed]
@[simp] theorem completed_id (g : Group) (n now : Nat) : (g.completed n now).id = g.id := by simp [Group.completed]
@[simp] theorem completed_loc (g : Group) (n now : Nat) : (g.completed n now).loc = g.loc := by simp [Group.completed]
@[simp] theorem completed_sr (g : Group) (n now : Nat) : (g.completed n now).sr = g.sr := by simp [Group.completed]
@[simp] theorem completed_trap (g : Group) (n now : Nat) : (g.completed n now).trap = g.trap := by simp [Group.completed]
@[simp] theorem completed_asy (g : Group) (n now : Nat) : (g.completed n now).asy = g.asy := by simp [Group.completed]
@[simp] theorem completed_mat (g : Group) (n now : Nat) : (g.completed n now).mat = g.mat := by simp [Group.completed]
@[simp] theorem completed_mons (g : Group) (n now : Nat) : (g.completed n now).mons = g.mons := by simp [Group.completed]
@[simp] theorem completed_paused (g : Group) (n now : Nat) : (g.completed n now).paused = g.paused := by
  simp [Group.completed]
@[simp] theorem completed_act (g : Group) (n now : Nat) : (g.completed n now).ctl.act = g.ctl.act := by
  simp [Group.completed]
@[simp] theorem completed_live (g : Group) (n now : Nat) : (g.completed n now).ctl.live = g.ctl.live := by
  simp [Group.completed]
@[simp] theorem completed_helper (g : Group) (n now : Nat) : (g.completed n now).ctl.helper = g.ctl.helper := by
  simp [Group.completed]
@[simp] theorem completed_stack (g : Group) (n now : Nat) : (g.completed n now).ctl.stack = g.ctl.stack := by
  simp [Group.completed]
@[simp] theorem completed_vreg (g : Group) (n now r : Nat) : (g.completed n now).vreg r = g.vreg r := by
  simp [Group.vreg]
@[simp] theorem completed_sreg (g : Group) (n now r : Nat) : (g.completed n now).sreg r = g.sreg r := by
  simp [Group.sreg]
@[simp] theorem completed_kreg (g : Group) (n now r : Nat) : (g.completed n now).kreg r = g.kreg r := by
  simp [Group.kreg]

/-! ### How an action ends -/

/-- The action completes with the state `t`: the group advances and has executed one instruction more. -/
theorem runIsa_done {s t : State} {i : Nat} {g : Group} {p : Info} {body : State → Nat → Group → Res}
    (h : Ready s i g p) (hb : body s i g = .done t) (hi : i < t.groups.length)
    (hroom : (t.group i).usage ≤ (t.group i).entryBudget) (hskid : (t.group i).trap.skid = [])
    (hbar : (t.block g.id.block).barP = (s.block g.id.block).barP) :
    runIsa p body s = .next (t.completes i (t.group i) p.words) := by
  have hs := skim_done hroom p.named p.writes
  unfold runIsa
  simp only [h.turn, h.legal, h.permitted, prepared_ready h, hb, Res.spills, spillWrites, settle, hs, Res.executed, if_true,
    Bool.false_eq_true, if_false]
  simp only [State.modGroup, setGroup_setGroup, group_setGroup hi]
  rw [shadowAfter_same (by simpa using hbar), skidEnd_steady (by rw [group_setGroup hi]; simpa using hskid)]
  rfl

/-- An action on the group alone. -/
theorem runIsa_own {s : State} {i : Nat} {g : Group} {p : Info} {f : Group → Group} (h : Ready s i g p)
    (hroom : (f g).usage ≤ (f g).entryBudget) (htrap : (f g).trap = g.trap) :
    runIsa p (own f) s = .next (s.completes i (f g) p.words) := by
  have hg : (s.setGroup i (f g)).group i = f g := group_setGroup h.lt _
  rw [runIsa_done h (t := s.setGroup i (f g)) rfl (by simpa using h.lt) (by rw [hg]; exact hroom)
    (by rw [hg, htrap]; exact h.steady) (by simp), hg]
  simp [State.completes]

/-- The action changes the group's place itself. -/
theorem runIsa_moved {s t : State} {i : Nat} {g : Group} {p : Info} {body : State → Nat → Group → Res}
    (h : Ready s i g p) (hb : body s i g = .moved t) (hi : i < t.groups.length)
    (hskid : (t.group i).trap.skid = []) (hbar : (t.block g.id.block).barP = (s.block g.id.block).barP) :
    runIsa p body s = .next (t.modGroup i fun g => g.withCtl fun c => { c with issued := c.issued + 1 }) := by
  unfold runIsa
  simp only [h.turn, h.legal, h.permitted, prepared_ready h, hb, Res.spills, settle, Res.executed, if_true,
    Bool.false_eq_true, if_false]
  rw [shadowAfter_same (by simpa [State.modGroup] using hbar), skidEnd_steady]
  simp only [State.modGroup]
  rw [group_setGroup hi]
  simpa using hskid

end Sys2Proof.Machine
end

