-- ==== Sys2Proof/Laws/Vec.lean ====
section
/-! SUPPORT. Writes of vector registers, lane masks and scalars: the value in every lane, whatever shape the
register takes (08 R220 to R222), and the frame. -/
namespace Sys2Proof.Machine
open Sys2Proof

/-! ### Sets of lanes -/

theorem has_toList {m : Lanes} {l : Nat} : l ∈ m.toList ↔ l < 32 ∧ m.has l = true := by
  simp [Lanes.toList]

theorem has_and (a b : Lanes) (l : Nat) : (a &&& b).has l = (a.has l && b.has l) := by simp [Lanes.has]

theorem has_lt {m : Lanes} {l : Nat} (h : m.has l = true) : l < 32 := by
  by_contra hl
  simp [Lanes.has, BitVec.getLsbD_of_ge m l (by omega)] at h

theorem eq_zero_iff {m : Lanes} : m = 0#32 ↔ ∀ l, l < 32 → m.has l = false := by
  constructor
  · rintro rfl l -; simp [Lanes.has]
  · intro h; apply BitVec.eq_of_getLsbD_eq; intro l hl; simpa [Lanes.has] using h l hl

/-- A set of lanes that holds one lane has a lowest lane, and holds it. -/
theorem firstAct_mem {g : Group} {l : Nat} (h : (g.ctl.act &&& g.ctl.live).has l = true) :
    (g.ctl.act &&& g.ctl.live).has g.firstAct = true := by
  unfold Group.firstAct
  cases hl : (g.ctl.act &&& g.ctl.live).toList with
  | nil => exact absurd (has_toList.mpr ⟨has_lt h, h⟩) (by simp [hl])
  | cons a r =>
    have : a ∈ (g.ctl.act &&& g.ctl.live).toList := by simp [hl]
    simpa using (has_toList.mp this).2

/-! ### Shapes -/

theorem lane_mkAffine (b s : Word) (l : Nat) : (VVal.mkAffine b s).lane l = b + BitVec.ofNat 32 l * s := by
  unfold VVal.mkAffine
  split
  · subst_vars; simp [VVal.lane]
  · rfl

theorem lane_line {v : VVal} {b s : Word} (h : v.line? = some (b, s)) (l : Nat) : v.lane l = b + BitVec.ofNat 32 l * s := by
  cases v <;> simp_all [VVal.line?, VVal.lane]
  obtain ⟨rfl, rfl⟩ := h; simp

theorem lane_uniform {v : VVal} (h : v.isUniform = true) (l k : Nat) : v.lane l = v.lane k := by
  cases v <;> simp_all [VVal.isUniform, VVal.lane]

@[simp] theorem lane_const (b : Word) (l : Nat) : (VVal.uniform b).lane l = b := rfl

/-- The shape's value holds the result in each live active lane. -/
def ShapeRule.Sound (r : ShapeRule) (srcs : List VVal) (g : Group) (f : Nat → Word) : Prop :=
  ∀ v, r.value srcs g.firstAct f = some v → ∀ l, (g.ctl.act &&& g.ctl.live).has l = true → v.lane l = f l

/-- The result depends on the lane through the sources only. -/
def ByLane (srcs : List VVal) (g : Group) (f : Nat → Word) : Prop :=
  srcs.all VVal.isUniform = true →
    ∀ l k, (g.ctl.act &&& g.ctl.live).has l = true → (g.ctl.act &&& g.ctl.live).has k = true → f l = f k

theorem sound_general (srcs : List VVal) (g : Group) (f : Nat → Word) : ShapeRule.Sound .general srcs g f := by
  intro v h; simp [ShapeRule.value] at h

theorem sound_plain {srcs : List VVal} {g : Group} {f : Nat → Word} (h : ByLane srcs g f) :
    ShapeRule.Sound .plain srcs g f := by
  intro v hv l hl
  simp only [ShapeRule.value] at hv
  split at hv
  · simp only [Option.some.injEq] at hv
    subst hv
    exact h ‹_› _ _ (firstAct_mem hl) hl
  · simp at hv

theorem sound_uniform {srcs : List VVal} {g : Group} {f : Nat → Word}
    (h : ∀ l k, (g.ctl.act &&& g.ctl.live).has l = true → (g.ctl.act &&& g.ctl.live).has k = true → f l = f k) :
    ShapeRule.Sound .uniform srcs g f := by
  intro v hv l hl
  simp only [ShapeRule.value, Option.some.injEq] at hv
  subst hv
  exact h _ _ (firstAct_mem hl) hl

/-! ### Operands -/

/-- A live lane reads its operand's value. -/
theorem opLane_live {g : Group} {l : Nat} (h : g.ctl.live.has l = true) (c : Nat) (lit : Word) :
    g.opLane c lit l = (g.opVal c lit).lane l := by simp [Group.opLane, h]

theorem live_of_and {g : Group} {l : Nat} (h : (g.ctl.act &&& g.ctl.live).has l = true) : g.ctl.live.has l = true := by
  rw [has_and] at h; simp_all
theorem act_of_and {g : Group} {l : Nat} (h : (g.ctl.act &&& g.ctl.live).has l = true) : g.ctl.act.has l = true := by
  rw [has_and] at h; simp_all

theorem opLane_uniform {g : Group} {c : Nat} {lit : Word} (h : (g.opVal c lit).isUniform = true) {l k : Nat}
    (hl : (g.ctl.act &&& g.ctl.live).has l = true) (hk : (g.ctl.act &&& g.ctl.live).has k = true) :
    g.opLane c lit l = g.opLane c lit k := by
  rw [opLane_live (live_of_and hl), opLane_live (live_of_and hk)]
  exact lane_uniform h l k

theorem byLane1 (g : Group) (a : Nat) (lit : Word) (op : Word → Word) :
    ByLane [g.opVal a lit] g fun l => op (g.opLane a lit l) := by
  intro h l k hl hk
  simp only [List.all_cons, List.all_nil, Bool.and_true] at h
  simp only [opLane_uniform h hl hk]

theorem byLane2 (g : Group) (a b : Nat) (lit : Word) (op : Word → Word → Word) :
    ByLane [g.opVal a lit, g.opVal b lit] g fun l => op (g.opLane a lit l) (g.opLane b lit l) := by
  intro h l k hl hk
  simp only [List.all_cons, List.all_nil, Bool.and_true, Bool.and_eq_true] at h
  simp only [opLane_uniform h.1 hl hk, opLane_uniform h.2 hl hk]

theorem byLane3 (g : Group) (a b c : Nat) (lit : Word) (op : Word → Word → Word → Word) :
    ByLane [g.opVal a lit, g.opVal b lit, g.opVal c lit] g
      fun l => op (g.opLane a lit l) (g.opLane b lit l) (g.opLane c lit l) := by
  intro h l k hl hk
  simp only [List.all_cons, List.all_nil, Bool.and_true, Bool.and_eq_true] at h
  simp only [opLane_uniform h.1 hl hk, opLane_uniform h.2.1 hl hk, opLane_uniform h.2.2 hl hk]

/-! ### Each row of the table of 08 R221 keeps the results -/

theorem sound_same (g : Group) (a : Nat) (lit : Word) :
    ShapeRule.Sound .same [g.opVal a lit] g fun l => g.opLane a lit l := by
  intro v hv l hl
  simp only [ShapeRule.value, Option.map_eq_some_iff] at hv
  obtain ⟨⟨b, s⟩, h1, rfl⟩ := hv
  beta_reduce
  rw [lane_mkAffine, opLane_live (live_of_and hl), lane_line h1]

theorem sound_add (g : Group) (x y : VVal) (f h : Nat → Word)
    (hf : ∀ l, (g.ctl.act &&& g.ctl.live).has l = true → f l = x.lane l)
    (hh : ∀ l, (g.ctl.act &&& g.ctl.live).has l = true → h l = y.lane l) :
    ShapeRule.Sound .add [x, y] g fun l => f l + h l := by
  intro v hv l hl
  simp only [ShapeRule.value] at hv
  split at hv
  · rename_i hu
    simp only [List.all_cons, List.all_nil, Bool.and_true, Bool.and_eq_true] at hu
    simp only [Option.some.injEq] at hv
    subst hv
    simp only [lane_const, hf _ hl, hh _ hl, hf _ (firstAct_mem hl), hh _ (firstAct_mem hl),
      lane_uniform hu.1 l g.firstAct, lane_uniform hu.2 l g.firstAct]
  · split at hv
    · rename_i p q h1 h2
      simp only [Option.some.injEq] at hv
      subst hv
      beta_reduce
      rw [lane_mkAffine, hf _ hl, hh _ hl, lane_line (b := p.1) (s := p.2) h1, lane_line (b := q.1) (s := q.2) h2,
        BitVec.mul_add]
      ac_rfl
    · simp at hv

theorem sound_sub (g : Group) (x y : VVal) (f h : Nat → Word)
    (hf : ∀ l, (g.ctl.act &&& g.ctl.live).has l = true → f l = x.lane l)
    (hh : ∀ l, (g.ctl.act &&& g.ctl.live).has l = true → h l = y.lane l) :
    ShapeRule.Sound .sub [x, y] g fun l => f l - h l := by
  intro v hv l hl
  simp only [ShapeRule.value] at hv
  split at hv
  · rename_i hu
    simp only [List.all_cons, List.all_nil, Bool.and_true, Bool.and_eq_true] at hu
    simp only [Option.some.injEq] at hv
    subst hv
    simp only [lane_const, hf _ hl, hh _ hl, hf _ (firstAct_mem hl), hh _ (firstAct_mem hl),
      lane_uniform hu.1 l g.firstAct, lane_uniform hu.2 l g.firstAct]
  · split at hv
    · rename_i p q h1 h2
      simp only [Option.some.injEq] at hv
      subst hv
      beta_reduce
      rw [lane_mkAffine, hf _ hl, hh _ hl, lane_line (b := p.1) (s := p.2) h1, lane_line (b := q.1) (s := q.2) h2]
      ring
    · simp at hv

theorem sound_neg (g : Group) (x : VVal) (f : Nat → Word)
    (hf : ∀ l, (g.ctl.act &&& g.ctl.live).has l = true → f l = x.lane l) :
    ShapeRule.Sound .neg [x] g fun l => 0#32 - f l := by
  intro v hv l hl
  simp only [ShapeRule.value] at hv
  split at hv
  · rename_i hu
    simp only [List.all_cons, List.all_nil, Bool.and_true] at hu
    simp only [Option.some.injEq] at hv
    subst hv
    simp only [lane_const, hf _ hl, hf _ (firstAct_mem hl), lane_uniform hu l g.firstAct]
  · simp only [Option.map_eq_some_iff] at hv
    obtain ⟨⟨b, s⟩, h1, rfl⟩ := hv
    beta_reduce
    rw [lane_mkAffine, hf _ hl, lane_line h1]
    have z : (0#32 : Word) = 0 := rfl
    rw [z]
    ring

theorem sound_mulLo (g : Group) (x y : VVal) (f h : Nat → Word)
    (hf : ∀ l, (g.ctl.act &&& g.ctl.live).has l = true → f l = x.lane l)
    (hh : ∀ l, (g.ctl.act &&& g.ctl.live).has l = true → h l = y.lane l) :
    ShapeRule.Sound .mulLo [x, y] g fun l => f l * h l := by
  intro v hv l hl
  simp only [ShapeRule.value] at hv
  split at hv
  · rename_i hu
    simp only [List.all_cons, List.all_nil, Bool.and_true, Bool.and_eq_true] at hu
    simp only [Option.some.injEq] at hv
    subst hv
    simp only [lane_const, hf _ hl, hh _ hl, hf _ (firstAct_mem hl), hh _ (firstAct_mem hl),
      lane_uniform hu.1 l g.firstAct, lane_uniform hu.2 l g.firstAct]
  · split at hv
    · simp only [Option.some.injEq] at hv
      subst hv
      beta_reduce
      rw [lane_mkAffine, hf _ hl, hh _ hl]
      simp only [VVal.lane]
      ring
    · simp only [Option.some.injEq] at hv
      subst hv
      beta_reduce
      rw [lane_mkAffine, hf _ hl, hh _ hl]
      simp only [VVal.lane]
      ring
    · simp at hv

theorem shiftLeft_mul (x : Word) (n : Nat) : x <<< n = x * BitVec.ofNat 32 (2 ^ n) := by
  apply BitVec.eq_of_toNat_eq
  simp [BitVec.toNat_shiftLeft, Nat.shiftLeft_eq]

theorem shlW_eq (x : Word) (n : Nat) : shlW x n = x <<< n := by
  unfold shlW
  split
  · exact (BitVec.shiftLeft_eq_zero ‹_›).symm
  · rfl

theorem sound_shl (g : Group) (x y : VVal) (f h : Nat → Word)
    (hf : ∀ l, (g.ctl.act &&& g.ctl.live).has l = true → f l = x.lane l)
    (hh : ∀ l, (g.ctl.act &&& g.ctl.live).has l = true → h l = y.lane l) :
    ShapeRule.Sound .shl [x, y] g fun l => shlW (f l) (h l).toNat := by
  intro v hv l hl
  simp only [ShapeRule.value] at hv
  split at hv
  · rename_i hu
    simp only [List.all_cons, List.all_nil, Bool.and_true, Bool.and_eq_true] at hu
    simp only [Option.some.injEq] at hv
    subst hv
    simp only [lane_const, hf _ hl, hh _ hl, hf _ (firstAct_mem hl), hh _ (firstAct_mem hl),
      lane_uniform hu.1 l g.firstAct, lane_uniform hu.2 l g.firstAct]
  · split at hv
    · simp only [Option.some.injEq] at hv
      subst hv
      beta_reduce
      rw [lane_mkAffine, hf _ hl, hh _ hl, shlW_eq]
      simp only [VVal.lane, shiftLeft_mul]
      ring
    · simp at hv

/-! ### A write of a vector register -/

theorem vreg_writeLanes (g : Group) (m : Lanes) (n r : Nat) (sh : Option VVal) (f : Nat → Word) (h : r ≠ n) :
    (g.writeLanes m n sh f).vreg r = g.vreg r := by
  unfold Group.writeLanes
  split
  · rfl
  · simp [Group.vreg, GRegs.touch, getD_putAt, h]

theorem lane_writeLanes (g : Group) (m : Lanes) (n l : Nat) (sh : Option VVal) (f : Nat → Word) (hl : l < 32)
    (hv : g.ctl.live.has l = true)
    (hs : ∀ v, sh = some v → ∀ l, (m &&& g.ctl.live).has l = true → v.lane l = f l) :
    ((g.writeLanes m n sh f).vreg n).val.lane l = if m.has l then f l else (g.vreg n).val.lane l := by
  unfold Group.writeLanes
  split
  · subst_vars; simp [Lanes.has]
  · have e : ((g.withRegs fun r =>
        ({ r with v := putAt VReg.zero r.v n ⟨writtenVal g.ctl.live m (g.vreg n).val sh f, 0,
          (g.vreg n).poisonAfter g.ctl.live m⟩ }).touch n).vreg n).val
        = writtenVal g.ctl.live m (g.vreg n).val sh f := by
      simp [Group.vreg, GRegs.touch, getD_putAt]
    have hgen : (VVal.general ((List.range 32).map fun l =>
        if !g.ctl.live.has l then 0#32 else if m.has l then f l else (g.vreg n).val.lane l)).lane l
        = if m.has l then f l else (g.vreg n).val.lane l := by
      simp [VVal.lane, hl, hv]
    show VVal.lane (VReg.val _) l = _
    rw [e]
    unfold writtenVal
    simp only
    split
    · rename_i hfull
      have hm : m.has l = true := by
        have := eq_zero_iff.mp hfull l hl
        simp only [has_and, hv, Bool.true_and] at this
        simpa [Lanes.has, hl] using this
      cases sh with
      | none => exact hgen
      | some v => simp only [Option.getD_some, hm, if_true]; exact hs v rfl l (by simp [has_and, hm, hv])
    · exact hgen

@[simp] theorem writeLanes_sr (g : Group) (m : Lanes) (n : Nat) (sh : Option VVal) (f : Nat → Word) :
    (g.writeLanes m n sh f).sr = g.sr := by unfold Group.writeLanes; split <;> rfl
@[simp] theorem writeLanes_trap (g : Group) (m : Lanes) (n : Nat) (sh : Option VVal) (f : Nat → Word) :
    (g.writeLanes m n sh f).trap = g.trap := by unfold Group.writeLanes; split <;> rfl
@[simp] theorem writeLanes_ctl (g : Group) (m : Lanes) (n : Nat) (sh : Option VVal) (f : Nat → Word) :
    (g.writeLanes m n sh f).ctl = g.ctl := by unfold Group.writeLanes; split <;> rfl
@[simp] theorem writeLanes_id (g : Group) (m : Lanes) (n : Nat) (sh : Option VVal) (f : Nat → Word) :
    (g.writeLanes m n sh f).id = g.id := by unfold Group.writeLanes; split <;> rfl
@[simp] theorem writeLanes_loc (g : Group) (m : Lanes) (n : Nat) (sh : Option VVal) (f : Nat → Word) :
    (g.writeLanes m n sh f).loc = g.loc := by unfold Group.writeLanes; split <;> rfl
@[simp] theorem writeLanes_asy (g : Group) (m : Lanes) (n : Nat) (sh : Option VVal) (f : Nat → Word) :
    (g.writeLanes m n sh f).asy = g.asy := by unfold Group.writeLanes; split <;> rfl
@[simp] theorem writeLanes_mat (g : Group) (m : Lanes) (n : Nat) (sh : Option VVal) (f : Nat → Word) :
    (g.writeLanes m n sh f).mat = g.mat := by unfold Group.writeLanes; split <;> rfl
@[simp] theorem writeLanes_mons (g : Group) (m : Lanes) (n : Nat) (sh : Option VVal) (f : Nat → Word) :
    (g.writeLanes m n sh f).mons = g.mons := by unfold Group.writeLanes; split <;> rfl
@[simp] theorem writeLanes_paused (g : Group) (m : Lanes) (n : Nat) (sh : Option VVal) (f : Nat → Word) :
    (g.writeLanes m n sh f).paused = g.paused := by unfold Group.writeLanes; split <;> rfl
@[simp] theorem writeLanes_sreg (g : Group) (m : Lanes) (n r : Nat) (sh : Option VVal) (f : Nat → Word) :
    (g.writeLanes m n sh f).sreg r = g.sreg r := by unfold Group.writeLanes; split <;> rfl
@[simp] theorem writeLanes_kreg (g : Group) (m : Lanes) (n r : Nat) (sh : Option VVal) (f : Nat → Word) :
    (g.writeLanes m n sh f).kreg r = g.kreg r := by unfold Group.writeLanes; split <;> rfl
@[simp] theorem writeLanes_pend (g : Group) (m : Lanes) (n : Nat) (sh : Option VVal) (f : Nat → Word) :
    (g.writeLanes m n sh f).regs.pend = g.regs.pend := by unfold Group.writeLanes; split <;> rfl

/-- Where an instruction that has completed goes on. -/
theorem completed_pc (g h : Group) (n now : Nat) (hc : h.ctl = g.ctl) :
    (h.completed n now).ctl.pc = (g.nextPc n).1 := by
  have e : h.nextPc n = g.nextPc n := by simp [Group.nextPc, hc]
  unfold Group.completed Group.advance
  simp only [e, withCtl_ctl]
  split <;> simp

/-- An instruction whose action writes one vector register. -/
theorem writesV_own {ins : Instr} {p : Info} {d : Nat} {r : Group → ShapeRule} {srcs : Group → List VVal}
    {f : Group → Nat → Word}
    (hx : ∀ s, exec ins s = runIsa p (own fun g => g.put d (r g) (srcs g) (f g)) s)
    (hw : p.writes = [d]) (hs : ∀ g, ShapeRule.Sound (r g) (srcs g) g (f g)) : WritesV ins p d f := by
  intro s i g h _
  have hroom := usage_writeLanes g g.ctl.act d ((r g).value (srcs g) g.firstAct (f g)) (f g) (by rw [← hw]; exact h.room)
  refine ⟨_, _, (hx s).trans (runIsa_own h hroom (by simp [Group.put, Group.writeV])), onlyGroup_setGroup h.lt _, ?_, ?_, ?_, ?_, ?_, ?_⟩
  · constructor <;> simp [Group.put, Group.writeV]
  · constructor
    · intro x hx'; simp only [completed_vreg]
      exact vreg_writeLanes g _ d x _ _ (by simpa using hx')
    · intro x _; simp [Group.put, Group.writeV]
    · intro x _ _; simp [Group.put, Group.writeV]
    · simp [Group.put, Group.writeV]
  · simp [Group.put, Group.writeV]
  · simp [Group.put, Group.writeV]
  · exact completed_pc g _ _ _ (by simp [Group.put, Group.writeV])
  · intro l hl hv
    simp only [completed_vreg]
    exact lane_writeLanes g _ d l _ _ hl hv (hs g)

/-- An instruction whose action writes one lane mask. -/
theorem writesK_own {ins : Instr} {p : Info} {k : Nat} {f : Group → Lanes} (hk : k ≠ 0)
    (hx : ∀ s, exec ins s = runIsa p (own fun g => g.setK k (f g)) s) : WritesK ins p k f := by
  intro s i g h _
  refine ⟨_, _, (hx s).trans (runIsa_own h h.usage rfl), onlyGroup_setGroup h.lt _, ?_, ?_, ?_, ?_, ?_, ?_⟩
  · constructor <;> simp [Group.setK]
  · constructor <;> intros <;> simp_all [kreg_setK]
    simp [Group.setK]
  · simp [Group.setK]
  · simp [Group.setK]
  · exact completed_pc g _ _ _ rfl
  · simp [kreg_setK _ _ _ _ hk]

/-- An instruction whose action writes one scalar register. -/
theorem writesS_own {ins : Instr} {p : Info} {d : Nat} {f : Group → Word}
    (hx : ∀ s, exec ins s = runIsa p (own fun g => g.setS d (f g)) s) : WritesS ins p d f := by
  intro s i g h
  refine ⟨_, _, (hx s).trans (runIsa_own h h.usage rfl), onlyGroup_setGroup h.lt _, ?_, ?_, ?_, ?_, ?_, ?_⟩
  · constructor <;> simp [Group.setS]
  · constructor <;> intros <;> simp_all [sreg_setS]
    simp [Group.setS]
  · simp [Group.setS]
  · simp [Group.setS]
  · exact completed_pc g _ _ _ rfl
  · simp [sreg_setS]

/-- An instruction whose action writes a scalar pair. -/
theorem writesPair_own {ins : Instr} {p : Info} {d : Nat} {f : Group → DWord}
    (hx : ∀ s, exec ins s = runIsa p (own fun g => g.setPair d (f g)) s) : WritesPair ins p d f := by
  intro s i g h
  refine ⟨_, _, (hx s).trans (runIsa_own h h.usage rfl), onlyGroup_setGroup h.lt _, ?_, ?_, ?_, ?_, ?_, ?_⟩
  · constructor <;> simp [Group.setPair, Group.setS]
  · constructor <;> intros <;> simp_all [sreg_setS, Group.setPair]
    simp [Group.setS]
  · simp [Group.setPair, Group.setS]
  · simp [Group.setPair, Group.setS]
  · exact completed_pc g _ _ _ rfl
  · have := spair_setPair g d (f g)
    simpa [Group.spair] using this

/-! ### Results with flags -/

theorem excLanes_none {g : Group} {fl : Nat → FFlags}
    (h : ∀ l, g.flagLanes.has l = true → fl l &&& g.trapEn = 0#5) : g.excLanes fl = 0#32 := by
  have key : ∀ (ls : List Nat) (acc : Lanes), acc = 0#32 →
      ls.foldl (fun acc l => if (g.flagLanes.has l && (fl l &&& g.trapEn != 0#5)) = true then acc ||| (1#32 <<< l) else acc)
        acc = 0#32 := by
    intro ls
    induction ls with
    | nil => intro acc h0; exact h0
    | cons l r ih =>
      intro acc h0
      rw [List.foldl_cons]
      refine ih _ ?_
      by_cases hl : g.flagLanes.has l = true
      · simp [hl, h l hl, h0]
      · simp [hl, h0]
  exact key (List.range 32) 0#32 rfl

/-- An instruction whose action writes one vector register with flags, no flag of which traps, and may change the
group's identity. -/
theorem writesF_end {ins : Instr} {p : Info} {d : Nat} {sh : Group → ShapeRule} {srcs : Group → List VVal}
    {r : Group → Nat → Word × FFlags} {when_ : Group → Prop} {id : Group → GIdent}
    (hx : ∀ s, exec ins s = runIsa p (fun s i g => fpEnd s i
      { g.put d (sh g) (srcs g) (fun l => (r g l).1) with id := id g } (fun l => (r g l).2)) s)
    (hw : p.writes = [d]) (hid : ∀ g, (id g).budget = g.id.budget ∧ (id g).vregs = g.id.vregs)
    (hs : ∀ g, ShapeRule.Sound (sh g) (srcs g) g (fun l => (r g l).1)) : WritesF ins p d r when_ id := by
  intro s i g h hn
  obtain ⟨-, hn⟩ := hn
  let g1 : Group := { g.put d (sh g) (srcs g) (fun l => (r g l).1) with id := id g }
  have hg1 : g1.flagLanes = g.flagLanes := by simp [g1, Group.flagLanes, Group.put, Group.writeV]
  have hg2 : g1.trapEn = g.trapEn := by simp [g1, Group.trapEn, Group.put, Group.writeV]
  have hexc : g1.excLanes (fun l => (r g l).2) = 0#32 :=
    excLanes_none (by rw [hg1, hg2]; exact hn)
  have hroom := usage_writeLanes g g.ctl.act d ((sh g).value (srcs g) g.firstAct (fun l => (r g l).1))
    (fun l => (r g l).1) (by rw [← hw]; exact h.room)
  have hrun : exec ins s = .next (s.completes i (g1.raiseFlags fun l => (r g l).2) p.words) := by
    refine (hx s).trans (?_ : _ = _)
    have hb : (fun s i g => fpEnd s i
      ({ g.put d (sh g) (srcs g) (fun l => (r g l).1) with id := id g } : Group) (fun l => (r g l).2)) s i g
        = .done (s.setGroup i (g1.raiseFlags fun l => (r g l).2)) := by
      simp only [fpEnd]
      exact if_pos hexc
    have hgrp := group_setGroup h.lt (g1.raiseFlags fun l => (r g l).2)
    rw [runIsa_done h hb (by simpa using h.lt) ?_ ?_ (by simp), hgrp]
    · simp [State.completes]
    · rw [hgrp]
      refine le_trans hroom (le_of_eq ?_)
      simp [g1, Group.entryBudget, Group.raiseFlags, (hid g).1, (hid g).2, Group.put, Group.writeV]
    · rw [hgrp]
      simpa [g1, Group.raiseFlags, Group.put, Group.writeV] using h.steady
  refine ⟨_, _, hrun, onlyGroup_setGroup h.lt _, ?_, ?_, ?_, ?_, ?_, ?_⟩
  · constructor <;> simp [g1, Group.raiseFlags, Group.put, Group.writeV]
  · constructor
    · intro x hx'; simp only [completed_vreg]
      exact vreg_writeLanes g _ d x _ _ (by simpa using hx')
    · intro x _; simp only [completed_sreg]; exact writeLanes_sreg g _ d x _ _
    · intro x _ _; simp only [completed_kreg]; exact writeLanes_kreg g _ d x _ _
    · simp only [completed_regs]; exact writeLanes_pend g _ d _ _
  · simp only [completed_sr, Group.raiseFlags, withSr_sr, hg1, flagged]
    simp [g1, Group.put, Group.writeV]
  · simp [g1, Group.raiseFlags]
  · exact completed_pc g _ _ _ (by simp [g1, Group.raiseFlags, Group.put, Group.writeV])
  · intro l hl hv
    simp only [completed_vreg]
    exact lane_writeLanes g _ d l _ _ hl hv (hs g)

/-- A floating-point instruction over sources. -/
theorem writesF_run {ins : Instr} {p : Info} {d : BitVec 7} {general : Bool}
    {srcs : Group → List (VVal × (Nat → Word))} {op : List Word → Word × FFlags} {when_ : Group → Prop}
    (hx : ∀ s, exec ins s = fpRun p d general srcs op s) (hw : p.writes = [d.toNat])
    (hs : ∀ g, ∀ x ∈ srcs g, x.1.isUniform = true → ∀ l k, (g.ctl.act &&& g.ctl.live).has l = true →
      (g.ctl.act &&& g.ctl.live).has k = true → x.2 l = x.2 k) :
    WritesF ins p d.toNat (fun g l => op ((srcs g).map fun x => x.2 l)) when_ := by
  refine writesF_end (sh := fun _ => if general then .general else .plain) (srcs := fun g => (srcs g).map (·.1))
    (id := fun g => g.id) (fun s => (hx s).trans ?_) hw (fun _ => ⟨rfl, rfl⟩) (fun g => ?_)
  · unfold fpRun
    congr 1
    funext s i g
    simp only [Group.put, Group.writeV]
    unfold Group.writeLanes
    split <;> rfl
  · cases general
    · refine sound_plain fun hu l k hl hk => ?_
      have : ((srcs g).map fun x => x.2 l) = (srcs g).map fun x => x.2 k := by
        apply List.map_congr_left
        intro x hxm
        refine hs g x hxm ?_ l k hl hk
        rw [List.all_map, List.all_eq_true] at hu
        exact hu x hxm
      simp only [this]
    · exact sound_general _ _ _

theorem src_uniform (g : Group) (c : BitVec 7) (lit : Word) (h : (g.src c lit).1.isUniform = true) (l k : Nat)
    (hl : (g.ctl.act &&& g.ctl.live).has l = true) (hk : (g.ctl.act &&& g.ctl.live).has k = true) :
    (g.src c lit).2 l = (g.src c lit).2 k := opLane_uniform h hl hk

theorem srcReg_uniform (g : Group) (n : BitVec 7) (h : (g.srcReg n).1.isUniform = true) (l k : Nat)
    (hl : (g.ctl.act &&& g.ctl.live).has l = true) (hk : (g.ctl.act &&& g.ctl.live).has k = true) :
    (g.srcReg n).2 l = (g.srcReg n).2 k := by
  simp only [Group.srcReg, Group.vlane, live_of_and hl, live_of_and hk, if_true]
  exact lane_uniform h l k

end Sys2Proof.Machine
end

