-- ==== Sys2Proof/Tests/Slice0.lean ====
section
/-! SUPPORT. Tests: ill-formed instructions that the check of well-formedness refuses, words written out bit by bit,
single steps with results worked out from the spec by hand, and for each obligation states and operands that meet its
hypotheses. -/
open Sys2Proof Sys2Proof.Machine

set_option Elab.async false
namespace Sys2Proof.Tests

/-! ### States -/

/-- A state with one ready SYSTEM group of 112 vector registers at a fetched clause. -/
def base : State := (State.reset.withFetchWord 32 0).modGroup 0 fun g => { g with id := { g.id with vregs := 14, budget := 5000 } }
/-- That state with its group changed. -/
def grp (f : Group → Group) (s : State := base) : State := s.modGroup 0 f
def withS (l : List (Nat × Word)) (g : Group) : Group := l.foldl (fun g x => g.withRegs fun r => { r with s := r.s.set x.1 x.2 }) g
def withK (k : Nat) (m : Lanes) (g : Group) : Group := g.withRegs fun r => { r with k := r.k.set k m }
def withV (r : Nat) (x : VVal) (g : Group) : Group := g.withRegs fun y => { y with v := putAt VReg.zero y.v r ⟨x, 0, .none⟩ }
def lanesOf (m : Lanes) (g : Group) : Group := g.withCtl fun c => { c with act := m }
def blk (f : Block → Block) (s : State := base) : State := s.modBlock 0 f

/-! ### What a witness shows -/

/-- Ready's conditions on group `i`, evaluated. -/
def readyB (s : State) (i : Nat) (p : Info) : Bool :=
  s.canonical && decide (s.issuer = some (i, s.group i)) && decide (preFault (s.group i) p = .none)
    && !(s.group i).barred p && decide ((s.group i).scoreboard p = false) && p.named.all (fun r => ((s.group i).vreg r).tag == 0)
    && p.reads.all (fun r => decide (((s.group i).vreg r).poison = .none)) && (s.group i).trap.skid.isEmpty
    && decide (((s.group i).widest p.writes).usage ≤ (s.group i).entryBudget)

theorem ready_of_readyB {s : State} {i : Nat} {p : Info} (h : readyB s i p = true) : Ready s i (s.group i) p := by
  simp only [readyB, Bool.and_eq_true, decide_eq_true_eq, List.all_eq_true, beq_iff_eq, List.isEmpty_iff, Bool.not_eq_true'] at h
  obtain ⟨⟨⟨⟨⟨⟨⟨⟨a, b⟩, c⟩, d⟩, e⟩, f⟩, x⟩, y⟩, z⟩ := h
  exact ⟨a, b, c, d, e, f, x, y, z⟩

/-- Some state has a group that is ready to issue an instruction of `p` and meets `w`. -/
def Meets (p : Info) (w : State → Nat → Group → Prop) : Prop := ∃ s i g, Ready s i g p ∧ w s i g
theorem meets {p : Info} {w : State → Nat → Group → Prop} (s : State) (h : readyB s 0 p = true) (hw : w s 0 (s.group 0)) :
    Meets p w := ⟨s, 0, s.group 0, ready_of_readyB h, hw⟩

/-- Some state has its byte stores in canonical form and meets `w`. -/
def MeetsE (w : State → Prop) : Prop := ∃ s, s.canonical = true ∧ w s
theorem meetsE {w : State → Prop} (s : State) (h : s.canonical = true) (hw : w s) : MeetsE w := ⟨s, h, hw⟩

def okB {ε α : Type} : Except ε α → Bool
  | .ok _ => true
  | .error _ => false
theorem ok_of_okB {ε α : Type} {x : Except ε α} (h : okB x = true) : ∃ r, x = .ok r := by
  cases x with
  | ok r => exact ⟨r, rfl⟩
  | error e => cases h
theorem noTrap_of {g : Group} (fl : Group → Nat → FFlags) (h : g.trapEn = 0#5) : NoTrap fl g := fun l _ => by
  rw [h, BitVec.and_zero]

/-- The group of `s` is ready for instructions of each of `ps`, where `w` holds. -/
theorem all_meet {w : State → Nat → Group → Prop} (s : State) {ps : List Info} (h : ps.all (readyB s 0) = true) (hw : w s 0 (s.group 0)) :
    ∀ p ∈ ps, Meets p w := fun p hp => meets s (List.all_eq_true.mp h p hp) hw

/-! ### Witnesses: arithmetic, moves and control -/

theorem witness_IntegerAddMultiplyForms : ∀ p ∈ [vecL 1#7 [124#7, 2#7], vecL 0#7 [120#7], vecE 111#7 [2#7, 3#7, 111#7] [],
    vecE 1#7 [2#7, 3#7] [.kdst 7], vecE 1#7 [2#7, 3#7] [.kdst 1]], Meets p (fun _ _ _ => True) :=
  all_meet base (by decide +kernel) trivial

theorem witness_IntegerLogicForms : ∀ p ∈ [vecL 1#7 [2#7, 3#7], vecL 1#7 [124#7], vecE 1#7 [2#7, 3#7, 4#7] [], cmpInfo 7#3 0#7 124#7,
    ⟨.vec, 1, [.vdst 1 1 1, .vsrc 2 false, .cond (decide ((31#7).toNat < 32)) 31]⟩], Meets p (fun _ _ _ => (9#5).toNat < 10) :=
  all_meet base (by decide +kernel) (by decide)

theorem witness_FloatForms (fl : Group → Nat → FFlags) : ∀ p ∈ [vecL 1#7 [2#7, 3#7],
    ⟨.vec, Machine.litWords [2#7, 124#7], [.vdst 1 1 1, .vgrp 1 1 1, .vsrc 2 true, .vsrc 124 true]⟩, vecE 1#7 [2#7, 3#7, 4#7] [], cmpInfo 1#3 2#7 3#7,
    vecL 1#7 [124#7]], Meets p (fun _ _ g => NoTrap fl g) :=
  all_meet base (by decide +kernel) (noTrap_of fl (by decide +kernel))

/-- A group whose rounding mode is stochastic, and draws with lane 31 off. -/
def stoch : State := grp fun g => lanesOf 0x7FFFFFFF#32 (g.withSr fun r => { r with fpctl := 0x200#32 })
theorem witness_ConversionForms (fl : Group → Nat → FFlags) :
    let ps : List Info := [⟨.vec, 2, [.vdst 1 1 1, .vsrc 2 false, .cond (decide ((1#3).toNat * fmtWidth 1 + fmtWidth 1 ≤ 32)) 17]⟩,
        ⟨.vec, 2, [.vdst 1 1 1, .vsrc 2 false, .vsrc 3 false]⟩, ⟨.vec, 2, [.vdst 1 1 1, .vgrp 1 1 1, .vsrc 2 false, .vsrc 3 false]⟩,
        vecL 1#7 [124#7], vecE 1#7 [2#7, 3#7] [], ⟨.vec, 2, [.vdst 1 1 1, .vsrc 2 false, .cond (decide (112 ≤ 113 ∧ 113 < 120)) 113]⟩]
    (∀ p ∈ ps, Meets p (fun _ _ g => (g.rmodeCode 0 = 2 ↔ false = true) ∧ NoTrap fl g)) ∧
    ∀ p ∈ ps, Meets p (fun _ _ g => (g.rmodeCode 3 = 2 ↔ true = true) ∧ NoTrap fl g) :=
  ⟨all_meet base (by decide +kernel) ⟨by decide +kernel, noTrap_of fl (by decide +kernel)⟩,
    all_meet stoch (by decide +kernel) ⟨by decide +kernel, noTrap_of fl (by decide +kernel)⟩⟩

theorem witness_CrossLaneForms (fl : Group → Nat → FFlags) : ∀ p ∈ [vecL 1#7 [124#7, 2#7], vecE 1#7 [2#7, 3#7] [], vecN 1#7 [2#7],
    ⟨.vec, 1, [.kdst 7, .vsrc 2 false]⟩, vecL 1#7 [2#7], ⟨.vec, 1, [.vdst 1 1 1, .vsrc 2 false, .cond (decide (3#2 ≠ 0#2)) 0]⟩],
    Meets p (fun _ _ g => NoTrap fl g) :=
  all_meet stoch (by decide +kernel) (noTrap_of fl (by decide +kernel))

theorem witness_ScalarForms : ∀ p ∈ [⟨.scalar, 1, []⟩, ⟨.scalar, 1, [.pair 254, .pair 0, .pair 2]⟩, ⟨.scalar, 1, [.pair 0, .pair 254]⟩],
    Meets p (fun _ _ _ => True) :=
  all_meet base (by decide +kernel) trivial

theorem witness_ScalarVectorAndMaskForms : ∀ p ∈ [⟨.vec, 1, [.vgrp 111 1 1]⟩, ⟨.vec, 1, [.vdst 111 1 1]⟩, ⟨.vec, 1, []⟩, ⟨.vec, 1, [.kdst 1]⟩],
    Meets p (fun _ _ _ => True) :=
  all_meet base (by decide +kernel) trivial

/-- Groups with entries of each kind on their mask stacks, and one with a full stack. -/
def stacked (l : List MaskEntry) : State := grp fun g => lanesOf 0xFF#32 (withK 1 0xF#32 (g.withCtl fun c => { c with stack := l }))
theorem witness_ControlFlow :
    (∀ l ∈ [[], [.ifE true false 64#64 0#64 0xFF00#32 0#32], [.ifE true true 64#64 64#64 0#32 0xFF00#32], [.ifE false false 0#64 64#64 0#32 0xFF00#32],
        [.loopE 64#64 128#64 0#32 0xFF00#32], [.ifE false false 0#64 64#64 0#32 0#32, .loopE 64#64 128#64 0#32 0#32], [.callE 64#64],
        List.replicate 32 (.callE 64#64)],
      Ready (stacked l) 0 ((stacked l).group 0) ⟨.ctl, 1, []⟩ ∧ ((stacked l).group 0).trap.pstate ≠ .resumed ∧ ((stacked l).group 0).unparked) ∧
    ((stacked []).group 0).ctl.act &&& ((stacked []).group 0).kreg 1 ≠ 0#32 ∧ ((stacked []).group 0).ctl.act &&& ((stacked []).group 0).kreg 2 = 0#32 := by
  refine ⟨?_, by decide +kernel⟩
  have h : ∀ l ∈ [[], [MaskEntry.ifE true false 64#64 0#64 0xFF00#32 0#32], [.ifE true true 64#64 64#64 0#32 0xFF00#32], [.ifE false false 0#64 64#64 0#32 0xFF00#32],
        [.loopE 64#64 128#64 0#32 0xFF00#32], [.ifE false false 0#64 64#64 0#32 0#32, .loopE 64#64 128#64 0#32 0#32], [.callE 64#64],
        List.replicate 32 (.callE 64#64)], readyB (stacked l) 0 ⟨.ctl, 1, []⟩ = true ∧ ((stacked l).group 0).trap.pstate ≠ .resumed ∧
      ((stacked l).group 0).trap.parked = [] ∧ ((stacked l).group 0).trap.reconv = [] ∧ ((stacked l).group 0).trap.pstate = .none := by decide +kernel
  exact fun l hl => ⟨ready_of_readyB (h l hl).1, (h l hl).2.1, (h l hl).2.2⟩

/-- A group whose instruction has been waiting. -/
def woken : State := grp fun g => g.withCtl fun c => { c with wakeHit := true }
theorem witness_WaitingInstructions : let p : Info := ⟨.sys, 1, []⟩
    Meets p (fun _ _ g => g.ctl.wakeHit = true) ∧ Meets p (fun _ _ g => g.ctl.wakeHit = false ∧ g.inGate = false) ∧
    Meets p (fun _ _ g => g.sreg 255 = 0#32) ∧
    Meets p (fun _ _ g => g.ctl.wakeHit = false ∧ g.sreg 255 ≠ 0#32 ∧ g.inGate = false ∧ g.ctl.begun = none) ∧
    Meets ⟨.sys, 1, [.pair 254]⟩ (fun s _ g => g.ctl.missed = none ∧ g.ctl.begun = none ∧ (∀ o ∈ g.asy.deferred ++ g.asy.ops, o.fault = none) ∧
      ((g.spair 254).toNat ≤ s.cyc g.loc.cell ∧ ∀ o ∈ g.asy.ops, o.cls = 0 → o.promise ≤ (g.spair 254).toNat → o.done = true)) ∧
    Meets ⟨.sys, 1, [.pair 254]⟩ (fun s _ g => g.ctl.missed = none ∧ g.ctl.begun = none ∧ g.ctl.wakeHit = false ∧ g.inGate = false ∧
      s.cyc g.loc.cell < (g.spair 254).toNat) :=
  ⟨meets woken (by decide +kernel) (by decide +kernel), meets base (by decide +kernel) (by decide +kernel),
    meets base (by decide +kernel) (by decide +kernel), meets (grp (withS [(255, 1#32)])) (by decide +kernel) (by decide +kernel),
    meets base (by decide +kernel) (by decide +kernel), meets (grp (withS [(255, 1#32)])) (by decide +kernel) (by decide +kernel)⟩

/-- A group that handles a trap of its lower lanes. -/
def handling : State := grp fun g => { lanesOf 0xFFFF#32 g with trap := { g.trap with
  pstate := .handler, reconv := [⟨0, 0#64, 0#32, .none⟩], parked := [⟨0xFFFF#32, 0x1040#64, 0x10001E#64, 0⟩] } }
theorem witness_SpecialRegisterReads : let ps : List Info := [⟨.sys, 1, [.cond (decide ((254#8).toNat % 2 = 0)) 0x07]⟩, ⟨.sys, 1, []⟩]
    (∀ p ∈ ps, Meets p (fun _ _ g => g.handled = none)) ∧ ∀ p ∈ ps, Meets p (fun _ _ g => g.handled ≠ none) :=
  ⟨all_meet base (by decide +kernel) (by decide +kernel), all_meet handling (by decide +kernel) (by decide +kernel)⟩

theorem witness_SpecialRegisterWrites :
    Meets ⟨.sys, 1, [.cond (decide ((254#8).toNat % 2 = 0)) 7]⟩ (fun _ _ g => g.inGate = false ∧ g.spair 254 &&& BitVec.ofNat 64 0xFFFF00000000003E = 0#64 ∧ g.spair 254 ≠ 0#64) ∧
    Meets ⟨.sys, 1, [.cond (decide ((254#8).toNat % 2 = 0)) 5]⟩ (fun _ _ g => g.inGate = false ∧ g.spair 254 &&& 0xFFFF000000000003#64 = 0#64 ∧ g.handled ≠ none) ∧
    Meets ⟨.sys, 1, []⟩ (fun _ _ g => (g.inGate = true → (0x0B#8 = 0x08#8 ∨ 0x0B#8 = 0x09#8)) ∧ g.sreg 255 &&& 0x7F000000#32 = 0#32 ∧ g.sreg 255 ≠ 0#32) ∧
    ∃ (s : State) (i : Nat) (g : Group), s.issuer = some (i, g) ∧ (0x00#8) ∉ [0x02#8, 0x05#8, 0x07#8, 0x08#8, 0x09#8, 0x0A#8, 0x0B#8, 0x10#8] :=
  ⟨meets (grp (withS [(254, 0x1041#32)])) (by decide +kernel) (by decide +kernel), meets handling (by decide +kernel) (by decide +kernel),
    meets (grp (withS [(255, 0x80000001#32)])) (by decide +kernel) (by decide +kernel), base, 0, base.group 0, by decide +kernel, by decide⟩

theorem witness_EndsOfThreadsAndLatch :
    Meets ⟨.tail, 1, []⟩ (fun s _ g => g.id.block < s.blocks.length ∧ g.ctl.live &&& ~~~g.ctl.act = 0#32 ∧ g.asy.ops = [] ∧ g.asy.deferred = []) ∧
    Meets ⟨.tail, 1, []⟩ (fun s _ g => g.id.block < s.blocks.length ∧ g.ctl.live &&& ~~~g.ctl.act ≠ 0#32) ∧
    Meets ⟨.gfx, 1, [.cond ((7#3) != 6#3) 6, .vsrc 0 false]⟩ (fun s _ g => s.hub.latch.length = 8 ∧ (s.hub.hudCtxEn && s.hub.hudCtx == g.id.ctx) = true) ∧
    Meets ⟨.gfx, 1, [.cond ((7#3) != 6#3) 6, .vsrc 0 false]⟩ (fun s _ g => s.hub.latch.length = 8 ∧ (s.hub.hudCtxEn && s.hub.hudCtx == g.id.ctx) = false) ∧
    Meets ⟨.sys, 1, []⟩ (fun s _ g => g.id.pfail = true ∧ g.inGate = false ∧ g.id.block < s.blocks.length) ∧
    Meets ⟨.sys, 1, []⟩ (fun _ _ g => g.id.pfail = false) :=
  ⟨meets base (by decide +kernel) (by decide +kernel), meets stoch (by decide +kernel) (by decide +kernel),
    meets { base with hub := { base.hub with hudCtxEn := true } } (by decide +kernel) (by decide +kernel),
    meets base (by decide +kernel) (by decide +kernel), meets (grp fun g => { g with id := { g.id with pfail := true } }) (by decide +kernel) (by decide +kernel),
    meets base (by decide +kernel) (by decide +kernel)⟩

def trapping : State := grp fun g => g.withSr fun r => { r with tvec := 0x1040#64 }
theorem witness_TrapsAndReturns :
    Meets ⟨.sys, 1, []⟩ (fun _ _ g => g.inGate = false ∧ g.sr.tvec &&& 0x0000FFFFFFFFFFC0#64 ≠ 0#64 ∧ g.unparked ∧ g.ctl.stack = [] ∧ g.ctl.act ≠ 0#32) ∧
    Meets ⟨.sys, 1, []⟩ (fun s _ g => g.inGate = false ∧ g.sr.tvec &&& 0x0000FFFFFFFFFFC0#64 = 0#64 ∧ g.id.block < s.blocks.length ∧ (s.block g.id.block).fdom = .report) ∧
    Meets ⟨.sys, 1, []⟩ (fun s _ g => g.inGate = false ∧ g.sr.tvec &&& 0x0000FFFFFFFFFFC0#64 = 0#64 ∧ g.id.block < s.blocks.length ∧ (s.block g.id.block).fdom ≠ .report) ∧
    (∃ p, Meets ⟨.resume, 1, []⟩ (fun s _ g => g.handled = some p ∧ g.ctl.stack.length = g.trap.hdepth ∧ s.resumeFault g p.pc.toNat = none)) ∧
    Meets ⟨.resume, 1, []⟩ (fun _ _ g => g.handled = none) ∧ Meets ⟨.resume, 1, []⟩ (fun _ _ g => g.ctl.stack.length ≠ g.trap.hdepth) :=
  ⟨meets trapping (by decide +kernel) (by unfold Group.unparked; decide +kernel),
    meets (blk fun b => { b with fdom := .report }) (by decide +kernel) (by decide +kernel),
    meets (blk fun b => { b with fdom := .terminate }) (by decide +kernel) (by decide +kernel),
    ⟨⟨0xFFFF#32, 0x10040#64, 0x10001E#64, 0⟩, meets (handling.modGroup 0 fun g => { g with trap := { g.trap with parked := [⟨0xFFFF#32, 0x10040#64, 0x10001E#64, 0⟩] } })
      (by decide +kernel) (by decide +kernel)⟩,
    meets base (by decide +kernel) (by decide +kernel), meets (handling.modGroup 0 fun g => { g with trap := { g.trap with hdepth := 1 } }) (by decide +kernel) (by decide +kernel)⟩

/-! ### Witnesses: barriers, ordering and memory -/

def atBar (e : Nat) : State := blk fun b => { b with barE := e }
theorem witness_BlockBarrier : let p : Info := ⟨.bar, 1, []⟩
    Meets p (fun s i g => (∃ r, s.releaseOnly i 1 = .ok r) ∧ arrivals s g ∧ g.ctl.wakeHit = false ∧
      (s.block g.id.block).barA + g.ctl.act.toList.length < (s.block g.id.block).barE) ∧
    Meets p (fun s i g => (∃ r, s.releaseOnly i 1 = .ok r) ∧ arrivals s g ∧ g.ctl.wakeHit = false ∧ 0 < (s.block g.id.block).barE ∧
      (s.block g.id.block).barA + g.ctl.act.toList.length = (s.block g.id.block).barE ∧ s.readsDone g.id.block = true) ∧
    Meets p (fun _ _ g => g.ctl.wakeHit = true) ∧
    Meets p (fun s _ g => ∀ l ∈ g.ctl.act.toList, (g.thread l, (s.block g.id.block).barP) ∉ (s.block g.id.block).lastphase) ∧
    Meets p (fun s _ g => (s.block g.id.block).barE = 0) ∧
    Meets p (fun s _ g => g.ctl.wakeHit = false ∧ (s.block g.id.block).barE ≠ 0 ∧ ∃ l ∈ g.ctl.act.toList, (g.thread l, (s.block g.id.block).barP) ∈ (s.block g.id.block).lastphase) :=
  ⟨meets (atBar 64) (by decide +kernel) ⟨ok_of_okB (by decide +kernel), by unfold arrivals; decide +kernel, by decide +kernel⟩,
    meets (atBar 32) (by decide +kernel) ⟨ok_of_okB (by decide +kernel), by unfold arrivals; decide +kernel, by decide +kernel⟩,
    meets woken (by decide +kernel) (by decide +kernel), meets base (by decide +kernel) (by decide +kernel),
    meets (atBar 0) (by decide +kernel) (by decide +kernel),
    meets (blk fun b => { b with lastphase := [(base.group 0 |>.thread 31, 0)] }) (by decide +kernel) (by decide +kernel)⟩

/-- A state whose group names the object `o` at offset 16, subscribed to in the lanes `m`; its pair is `x` and `y`. -/
def withObj (o : BObj) (m : Lanes) (x y : Word) (wake : Bool := false) : State :=
  (grp fun g => withS [(254, x), (255, y), (1, 16#32)] { g with
    asy := { g.asy with subs := if m = 0#32 then [] else [⟨16, m, 0#32⟩] }, ctl := { g.ctl with wakeHit := wake } }).setBobj 0 0 16 o
theorem witness_BarrierObjects : let p := objInfo 254#8 1#8
    Meets p (fun s _ g => objLegal s g 1#8 ∧ (g.sreg 254).toNat < 2 ^ 24 ∧ (g.sreg 255).toNat ≤ 65535) ∧
    Meets (objInfo0 1#8) (fun s _ g => objLegal s g 1#8 ∧ g.asy.subs.length < 4 ∧
      (objAt s g 1#8).subs + (g.ctl.act &&& ~~~(subLanes g 1#8).1).count ≤ 65535 ∧ (objAt s g 1#8).unarr + (g.ctl.act &&& ~~~(subLanes g 1#8).1).count ≤ 65535) ∧
    Meets (objInfo0 1#8) (fun s _ g => objLegal s g 1#8 ∧ (subLanes g 1#8).1 ≠ 0#32) ∧
    Meets (objInfo0 1#8) (fun s _ g => objLegal s g 1#8 ∧ (g.asy.subs.map (·.off)).Nodup ∧ (objAt s g 1#8).mode = false ∧
      (objAt s g 1#8).got + g.ctl.act.toList.length * 1 < (objAt s g 1#8).expect) ∧
    Meets p (fun s _ g => objLegal s g 1#8 ∧ g.ctl.act ≠ 0#32 ∧ (objAt s g 1#8).mode = true ∧ 0 < (g.sreg 254).toNat ∧
      (objAt s g 1#8).got + g.ctl.act.toList.length * (g.sreg 254).toNat = (objAt s g 1#8).expect) ∧
    Meets p (fun s _ g => objLegal s g 1#8 ∧ (objAt s g 1#8).expect + (g.sreg 254).toNat = 2 ^ 24 - 1) ∧
    Meets p (fun s _ g => objLegal s g 1#8 ∧ (∀ o ∈ g.asy.deferred ++ g.asy.ops, o.fault = none) ∧ (objAt s g 1#8).phase ≠ (g.sreg 254).getLsbD 0) ∧
    Meets p (fun s _ g => objLegal s g 1#8 ∧ (∀ o ∈ g.asy.deferred ++ g.asy.ops, o.fault = none) ∧ g.ctl.wakeHit = false ∧
      (objAt s g 1#8).phase = (g.sreg 254).getLsbD 0 ∧ (objAt s g 1#8).starved = false) := by
  unfold objLegal
  exact ⟨meets (withObj ⟨false, false, 0, 0, 0, 0, 0, 0⟩ 0#32 0xFFFFFF#32 0xFFFF#32) (by decide +kernel) (by decide +kernel),
    meets (withObj ⟨false, false, 0, 65503, 65503, 0, 0, 0⟩ 0#32 0#32 0#32) (by decide +kernel) (by decide +kernel),
    meets (withObj ⟨false, false, 0, 32, 32, 0, 32, 32⟩ 0xFFFFFFFF#32 0#32 0#32) (by decide +kernel) (by decide +kernel),
    meets (withObj ⟨false, false, 0, 32, 32, 0, 33, 33⟩ 0xFFFFFFFF#32 0#32 0#32) (by decide +kernel) (by decide +kernel),
    meets (withObj ⟨true, false, 0, 32, 32, 0, 64, 64⟩ 0xFFFFFFFF#32 2#32 0#32) (by decide +kernel) (by decide +kernel),
    meets (withObj ⟨true, false, 0, 0, 0, 0, 0xFFFFFE, 64⟩ 0#32 1#32 0#32) (by decide +kernel) (by decide +kernel),
    meets (withObj ⟨false, true, 0, 0, 0, 0, 1, 1⟩ 0#32 0#32 0#32) (by decide +kernel) (by decide +kernel),
    meets (withObj ⟨false, true, 0, 1, 1, 0, 1, 1⟩ 0#32 1#32 0#32) (by decide +kernel) (by decide +kernel)⟩

def pending (n : Nat) : State := grp fun g => { g with asy := { g.asy with cnt := [n, 0, 0, n] } }
/-- Scalar registers that name addresses of the identity page, a word to compare with, and a count. -/
def regs1 : List (Nat × Word) := [(2, 0x20000#32), (3, 0#32), (4, 5#32), (5, 0#32), (6, 2#32)]
theorem witness_OrderingAndWaiting : let p : Info := ⟨.order, 1, []⟩
    Meets p (fun _ _ g => (∀ o ∈ g.asy.deferred ++ g.asy.ops, o.fault = none) ∧ g.asy.cnt.getD 3 0 ≤ 63) ∧
    Meets p (fun _ _ g => (∀ o ∈ g.asy.deferred ++ g.asy.ops, o.fault = none) ∧ g.ctl.wakeHit = false ∧ g.inGate = false ∧ 62 < g.asy.cnt.getD 3 0) ∧
    Meets p (fun s i _ => ∃ r, s.release i 4 = .ok r) ∧
    Meets (semInfo 15#8) (fun s i g => semHeld s g 15#8 ∧ ∃ r, s.release i 4 = .ok r) ∧
    Meets (semInfo 15#8) (fun s _ g => semHeld s g 15#8 ∧ (g.sreg 3).toNat ≤ (s.sem g.loc.cell 15).toNat) ∧
    Meets (semInfo 15#8) (fun s _ g => semHeld s g 15#8 ∧ g.ctl.wakeHit = false ∧ (s.sem g.loc.cell 15).toNat < (g.sreg 4).toNat) ∧
    Meets ⟨.mon, 1, [.pair 2]⟩ (fun s _ g => (g.ctl.wakeHit = false ∧ g.ctl.begun = none ∧ g.inGate = false ∧
      s.laneXlate g false 4 (g.spair 2).toNat = .ok (0x20000, 0) ∧ s.memPoison.hit 0x20000 4 = none) ∧ monCond 0 32 (g.sreg 4).toNat (s.mem.value 0x20000 4) = false ∧
      ∀ m ∈ g.mons, m.matched = false) ∧
    Meets ⟨.mon, 1, [.pair 2, .pair 4]⟩ (fun s _ g => (g.ctl.wakeHit = false ∧ g.ctl.begun = none ∧ g.inGate = false ∧
      s.laneXlate g false 8 (g.spair 2).toNat = .ok (0x20000, 0) ∧ s.memPoison.hit 0x20000 8 = none) ∧ monCond 1 64 (g.spair 4).toNat (s.mem.value 0x20000 8) = true) ∧
    Meets ⟨.mon, 1, [.pair 2, .pair 4]⟩ (fun _ _ g => g.ctl.wakeHit = true) ∧ Meets ⟨.mon, 1, []⟩ (fun _ _ _ => True) := by
  unfold semHeld
  exact ⟨meets (pending 63) (by decide +kernel) (by decide +kernel), meets (pending 63) (by decide +kernel) (by decide +kernel),
    meets base (by decide +kernel) (ok_of_okB (by decide +kernel)), meets base (by decide +kernel) ⟨by decide +kernel, ok_of_okB (by decide +kernel)⟩,
    meets (grp (withS regs1)) (by decide +kernel) (by decide +kernel), meets (grp (withS regs1)) (by decide +kernel) (by decide +kernel),
    meets (grp (withS regs1)) (by decide +kernel) ⟨⟨by decide +kernel, by decide +kernel, by decide +kernel, by rfl, by decide +kernel⟩, by decide +kernel⟩,
    meets (grp (withS regs1)) (by decide +kernel) ⟨⟨by decide +kernel, by decide +kernel, by decide +kernel, by rfl, by decide +kernel⟩, by decide +kernel⟩,
    meets woken (by decide +kernel) (by decide +kernel), meets base (by decide +kernel) trivial⟩

/-- Register 7 holds each lane's number times four, up to the last word of the segment; the others zero. -/
def lanesV : VVal := .general ((List.range 32).map fun l => BitVec.ofNat 32 (4 * l))
def mems (m : Lanes := 0xFFFFFFFF#32) : State := grp fun g => lanesOf m (withV 7 lanesV (withS ((8, 3968#32) :: regs1) g))
theorem witness_CellStoreLoads : let at_ (g : Group) := g.segAddr 8 7 0#32 1
    Meets ⟨.cellMem, 1, [dataDst 1#7 4, .vsrc 7 true]⟩ (fun s gi g => g.ctl.act ≠ 0#32 ∧ ∀ l ∈ g.ctl.act.toList, segOkFor s gi g (at_ g l) 4 ∧
      s.segPoison g.id.block g.loc.cell (at_ g l) 4 = none) ∧
    Meets ⟨.cellMem, 2, [dataDst 1#7 4, .vsrc 7 false]⟩ (fun s gi g => g.ctl.act ≠ 0#32 ∧ (∃ r, s.release gi 4 = .ok r) ∧
      ∀ l ∈ g.ctl.act.toList, segOkFor s gi g (at_ g l) 4 ∧ s.segPoison g.id.block g.loc.cell (at_ g l) 4 = none) ∧
    Meets ⟨.cellMem, 1, [.vdst 1 1 1, .vsrc 120 true, .cond (decide (112 ≤ 120 ∧ 120 ≤ 120 ∨ 120 = 124)) 120]⟩ (fun s gi g => g.ctl.act ≠ 0#32 ∧
      segOkFor s gi g (g.segAddr 8 120 0#32 1 g.firstAct) 4 ∧ s.segPoison g.id.block g.loc.cell (g.segAddr 8 120 0#32 1 g.firstAct) 4 = none) := by
  unfold segOkFor
  exact ⟨meets mems (by decide +kernel) (by decide +kernel), meets mems (by decide +kernel) ⟨by decide +kernel, ok_of_okB (by decide +kernel), by decide +kernel⟩,
    meets mems (by decide +kernel) (by decide +kernel)⟩

theorem hits_nil {es : List BoundEntry} (h : es = []) (space : Bool) (a : Nat) (b : List Byte) (rd : Nat → Byte) : boundHits es space a b rd = [] := by
  subst h; rfl

theorem witness_CellStoreStores : let at_ (g : Group) := g.segAddr 8 7 0#32 1
    let may (s : State) (gi : Nat) (g : Group) : Prop := ∀ l ∈ g.storeLanes, segOkFor s gi g (at_ g l) 4 ∧
      ∀ rd, boundHits (s.boundsOf g.id.ctx) true ((s.block g.id.block).seg g.loc.cell + at_ g l) (storeBytes 4 (g.dataWords 1 4 0#32 l)) rd = []
    Meets ⟨.cellMem, 1, [dataSrc 1#7 4 true, .vsrc 7 true]⟩ (fun s gi g => g.storeLanes ≠ [] ∧ may s gi g) ∧
    Meets ⟨.cellMem, 2, [dataSrc 1#7 4 false, .vsrc 7 false]⟩ (fun s gi g => (∃ r, s.release gi 4 = .ok r) ∧ g.storeLanes ≠ [] ∧ may s gi g) := by
  have h : ∀ l ∈ ((mems).group 0).storeLanes, segOkFor mems 0 ((mems).group 0) (((mems).group 0).segAddr 8 7 0#32 1 l) 4 := by
    unfold segOkFor; decide +kernel
  have hb : mems.boundsOf ((mems).group 0).id.ctx = [] := by decide +kernel
  exact ⟨meets mems (by decide +kernel) ⟨by decide +kernel, fun l hl => ⟨h l hl, fun rd => hits_nil hb _ _ _ rd⟩⟩,
    meets mems (by decide +kernel) ⟨ok_of_okB (by decide +kernel), by decide +kernel, fun l hl => ⟨h l hl, fun rd => hits_nil hb _ _ _ rd⟩⟩⟩

theorem witness_CellStoreAtomics :
    Meets ⟨.latom, 2, [.vdst 2 2 2, .vsrc 7 false, atomData 15 4#7]⟩ (fun s gi g => (∃ r, s.release gi 4 = .ok r) ∧ g.ctl.act &&& ~~~g.ctl.helper ≠ 0#32 ∧
      ∀ l ∈ g.storeLanes, g.segAddr 8 7 0#32 2 l % 8 = 0 ∧ (s.block g.id.block).segOk (g.segAddr 8 7 0#32 2 l) 8 = true ∧
        s.segPoison g.id.block g.loc.cell (g.segAddr 8 7 0#32 2 l) 8 = none) ∧
    Meets ⟨.cbk, 2, [.vdst 1 1 1, .vsrc 7 false, .cond (decide (112 ≤ 115 ∧ 115 < 120)) 115]⟩ (fun s gi g => g.ctl.act ≠ 0#32 ∧ (g.sreg 3).toNat % 4 = 0 ∧
      (s.block g.id.block).segOk (g.sreg 3).toNat 1024 = true ∧ ∀ l ∈ g.ctl.act.toList,
        segOkFor s gi g ((g.sreg 3).toNat + 4 * ((g.opLane 7 0#32 l).toNat % 65536 / 256)) 4 ∧
          s.segPoison g.id.block g.loc.cell ((g.sreg 3).toNat + 4 * ((g.opLane 7 0#32 l).toNat % 65536 / 256)) 4 = none) := by
  unfold segOkFor
  exact ⟨meets (mems.modGroup 0 (withV 7 (.general ((List.range 32).map fun l => BitVec.ofNat 32 (l % 4 * 4))) ∘ withS [(8, 0#32)])) (by decide +kernel)
      ⟨ok_of_okB (by decide +kernel), by decide +kernel, by decide +kernel⟩,
    meets mems (by decide +kernel) (by decide +kernel)⟩

def glob : State := grp fun g => withV 7 lanesV (withS regs1 g)
/-- The entry of the translation buffer in those states. -/
def page : TlbEntry := { func := 0, asid := 0, va := 0, size := unit2M, pa := 0, w := true, u := true, xn := false, mem := 0, gpa := 0, level := 2 }
/-- A cell cache that holds the line of 0x20000, its lower half dirty. -/
def lined (s : State) : State := s.setWindow { s.window 0 0 with part := 0, cell := 0, lines := [⟨1024, BitVec.allOnes 128, BitVec.allOnes 64 |>.setWidth 128, 0#128, none⟩] }
theorem hasWays_of {s : State} {g : Group} {pas : List Nat}
    (h : (let held := (s.window (s.partOf g) g.loc.cell).lines.map (·.line)
      held ++ (dedupNat (pas.map fun a => a / 128)).filter fun l => !held.contains l).length ≤ 16) : s.hasWays g pas :=
  fun _ => le_trans (List.length_filter_le _ _) h

/-- That state within a gate call, with 32 lanes' words in their lines. -/
def calledIn (s : State) : State := s.modGroup 0 fun g => { g with
  asy := { g.asy with gates := [⟨0, true, 0, 0x180000, 0, 1, g.ctl.act, 0, 2, 1, 0, 0, 0x10040#64, []⟩] } }
/-- That state in a block of a rollback domain. -/
def rolling (early : Bool) (s : State) : State := blk (fun b => { b with fdom := .rollback, early := early, ucap := 16 }) s

theorem witness_GlobalMemory : let va (g : Group) := g.virtAddr 2 7 0#32 1
    let p : Info := ⟨.global, 1, [dataDst 1#7 4, .vsrc 7 true, .pair 2]⟩
    let may (s : State) (g : Group) : Prop := g.ctl.act ≠ 0#32 ∧ ∀ l ∈ g.ctl.act.toList, reaches s g false 4 (va g l) (0x20000 + 4 * l) 0
    let hits (s : State) (g : Group) : Prop := ∀ l ∈ g.ctl.act.toList, (s.window (s.partOf g) g.loc.cell).holds (0x20000 + 4 * l) 4 = true
    let maySt (s : State) (g : Group) : Prop := g.storeLanes ≠ [] ∧ (∀ y ∈ (s.window (s.partOf g) g.loc.cell).lines, y.uncommitted = 0#128) ∧
      s.hasWays g (g.storeLanes.map fun l => 0x20000 + 4 * l) ∧ ∀ l ∈ g.storeLanes, s.laneXlate g true 4 (va g l) = .ok (0x20000 + 4 * l, 0) ∧
        ∀ rd, boundHits (s.boundsOf g.id.ctx) false (va g l) (storeBytes 4 (g.dataWords 1 4 0#32 l)) rd = []
    Meets p (fun s _ g => may s g ∧ g.ctl.wakeHit = true) ∧ Meets p (fun s _ g => may s g ∧ hits s g) ∧
    Meets p (fun s _ g => may s g ∧ g.inGate = true ∧ s.hasWays g (g.ctl.act.toList.map fun l => 0x20000 + 4 * l)) ∧
    Meets p (fun s _ g => may s g ∧ g.ctl.wakeHit = false ∧ g.inGate = false ∧ ¬hits s g) ∧
    Meets ⟨.global, 2, [dataDst 1#7 4, .vsrc 7 false, .pair 2]⟩ (fun s gi g => may s g ∧ g.ctl.wakeHit = true ∧ s.isWide g 4 = true ∧ ∃ r, s.release gi 4 = .ok r) ∧
    Meets ⟨.global, 1, [dataSrc 1#7 4 true, .vsrc 7 true, .pair 2]⟩ (fun s _ g => maySt s g ∧ (s.block g.id.block).fdom ≠ .rollback) ∧
    Meets ⟨.global, 2, [dataSrc 1#7 4 false, .vsrc 7 false, .pair 2]⟩ (fun s gi g => (∃ r, s.release gi 4 = .ok r) ∧ s.isWide g 4 = true ∧ maySt s g ∧
      (s.block g.id.block).fdom ≠ .rollback) ∧
    Meets ⟨.global, 1, [dataSrc 1#7 4 true, .vsrc 7 true, .pair 2]⟩ (fun s _ g => maySt s g ∧ (s.block g.id.block).fdom = .rollback ∧
      (s.block g.id.block).early = true) ∧
    Meets ⟨.global, 1, [dataSrc 1#7 4 true, .vsrc 7 true, .pair 2]⟩ (fun s _ g => maySt s g ∧ (s.block g.id.block).fdom = .rollback ∧
      (s.block g.id.block).early = false ∧ 4 ≤ (s.block g.id.block).ucap) := by
  unfold reaches
  have hs : ∀ s : State, s.boundsOf (s.group 0).id.ctx = [] → (∀ l ∈ (s.group 0).storeLanes, s.laneXlate (s.group 0) true 4
      ((s.group 0).virtAddr 2 7 0#32 1 l) = .ok (0x20000 + 4 * l, 0)) → ∀ l ∈ (s.group 0).storeLanes, s.laneXlate (s.group 0) true 4
      ((s.group 0).virtAddr 2 7 0#32 1 l) = .ok (0x20000 + 4 * l, 0) ∧ ∀ rd, boundHits (s.boundsOf (s.group 0).id.ctx) false
        ((s.group 0).virtAddr 2 7 0#32 1 l) (storeBytes 4 ((s.group 0).dataWords 1 4 0#32 l)) rd = [] :=
    fun s hb h l hl => ⟨h l hl, fun rd => hits_nil hb _ _ _ rd⟩
  refine ⟨meets (grp (fun g => g.withCtl fun c => { c with wakeHit := true }) glob) (by decide +kernel) (by decide +kernel),
    meets (lined glob) (by decide +kernel) (by decide +kernel),
    meets (calledIn glob) (by decide +kernel) ⟨by decide +kernel, by decide +kernel, hasWays_of (by decide +kernel)⟩,
    meets glob (by decide +kernel) (by decide +kernel),
    meets (grp (fun g => g.withCtl fun c => { c with wakeHit := true }) glob) (by decide +kernel)
      ⟨by decide +kernel, by decide +kernel, by decide +kernel, ok_of_okB (by decide +kernel)⟩,
    meets (lined glob) (by decide +kernel) ⟨⟨by decide +kernel, by decide +kernel, hasWays_of (by decide +kernel), hs _ (by decide +kernel) (by decide +kernel)⟩,
      by decide +kernel⟩,
    meets glob (by decide +kernel) ⟨ok_of_okB (by decide +kernel), by decide +kernel, ⟨by decide +kernel, by decide +kernel,
      hasWays_of (by decide +kernel), hs _ (by decide +kernel) (by decide +kernel)⟩, by decide +kernel⟩,
    meets (rolling true (lined glob)) (by decide +kernel) ⟨⟨by decide +kernel, by decide +kernel, hasWays_of (by decide +kernel),
      hs _ (by decide +kernel) (by decide +kernel)⟩, by decide +kernel⟩,
    meets (rolling false (lined glob)) (by decide +kernel) ⟨⟨by decide +kernel, by decide +kernel, hasWays_of (by decide +kernel),
      hs _ (by decide +kernel) (by decide +kernel)⟩, by decide +kernel⟩⟩

def priv : State := grp fun g => (withS regs1 g).withSr fun r => { r with privbase := 0x20000, privsize := 3 }
theorem witness_PrivateWords : let idx (g : Group) (l : Nat) : Nat := (g.sreg 6).toNat + (g.opLane 120 0#32 l).toNat
    let va (g : Group) (l : Nat) : Nat :=
      g.sr.privbase + g.id.tidx.getD l 0 / 32 * (g.sr.privsize + 36) * 128 + (idx g l * 32 + g.id.tidx.getD l 0 % 32) * 4
    Meets ⟨.private_, 1, [.vdst 1 1 1, .vsrc 120 true]⟩ (fun s _ g => g.ctl.act ≠ 0#32 ∧ g.inGate = false ∧
      s.hasWays g (g.ctl.act.toList.map fun l => 0x20100 + 4 * l) ∧ (∀ y ∈ (s.window (s.partOf g) g.loc.cell).lines, y.uncommitted = 0#128) ∧
      ∀ l ∈ g.ctl.act.toList, idx g l < g.sr.privsize ∧ reaches s g false 4 (va g l) (0x20100 + 4 * l) 0) ∧
    Meets ⟨.private_, 1, [.vsrc 1 true, .vsrc 120 true]⟩ (fun s _ g => g.inGate = false ∧ (s.block g.id.block).fdom ≠ .rollback ∧
      (∀ y ∈ (s.window (s.partOf g) g.loc.cell).lines, y.uncommitted = 0#128) ∧ s.hasWays g (g.storeLanes.map fun l => 0x20100 + 4 * l) ∧
      g.storeLanes ≠ [] ∧ ∀ l ∈ g.storeLanes, idx g l < g.sr.privsize ∧ reaches s g true 4 (va g l) (0x20100 + 4 * l) 0) := by
  unfold reaches
  exact ⟨meets priv (by decide +kernel) ⟨by decide +kernel, by decide +kernel, hasWays_of (by decide +kernel), by decide +kernel, by decide +kernel⟩,
    meets priv (by decide +kernel) ⟨by decide +kernel, by decide +kernel, by decide +kernel, hasWays_of (by decide +kernel), by decide +kernel, by decide +kernel⟩⟩

def slot (acq : Option Nat) : State := grp fun g => { g with asy := { g.asy with rsAcq := g.asy.rsAcq.set 7 acq } }
/-- The group with a reply outstanding in its return slot 7. -/
def awaited : State := grp fun g => { g with asy := { g.asy with rsOut := g.asy.rsOut.set 7 1#32 } }
theorem witness_GlobalAtomics :
    Meets ⟨.atom, 2, [.cond (true || 0#7 == 0#7) 0, .vsrc 7 false, .pair 2, atomData 1 2#7]⟩ (fun s gi g => g.asy.rsOut.getD 7 0#32 = 0#32 ∧
      (∃ r, (s.commitEarly g.id.block).release gi 4 = .ok r) ∧ (∀ y ∈ (s.window (s.partOf g) g.loc.cell).lines, y.uncommitted = 0#128) ∧
      (∃ cell, s.serves cell = true ∧ cell < 32) ∧ s.atoms.length + 32 < 1024 ∧ g.storeLanes ≠ [] ∧
      ∀ l ∈ g.storeLanes, s.laneXlate g true 4 (g.virtAddr 2 7 0#32 1 l) = .ok (0x20000 + 4 * l, 0)) ∧
    (∀ q ∈ [none, some 4], Meets ⟨.rslot, 1, [.vdst 2 2 2]⟩ (fun s _ g => g.ctl.act ≠ 0#32 ∧ g.asy.rsOut.getD 7 0#32 = 0#32 ∧
      g.asy.rsAcq.getD 7 none = q ∧ (s.window (s.partOf g) g.loc.cell).poison = [])) ∧
    Meets ⟨.rslot, 1, [.vdst 2 2 2]⟩ (fun _ _ g => g.asy.rsOut.getD 7 0#32 ≠ 0#32 ∧ g.asy.rsAcq.getD 7 none = none) ∧
    Meets ⟨.rslot, 1, [.kdst 7]⟩ (fun _ _ _ => True) := by
  refine ⟨meets glob (by decide +kernel) ⟨by decide +kernel, ok_of_okB (by decide +kernel), by decide +kernel, ⟨0, by decide +kernel⟩, by decide +kernel, by decide +kernel⟩,
    ?_, meets awaited (by decide +kernel) (by decide +kernel), meets base (by decide +kernel) trivial⟩
  simp only [List.forall_mem_cons, List.not_mem_nil, false_implies, implies_true, and_true]
  exact ⟨meets (slot none) (by decide +kernel) (by decide +kernel), meets (slot (some 4)) (by decide +kernel) (by decide +kernel)⟩

/-- A descriptor of a copy of 16 words from the start of the segment to offset 2048, at offset 512. -/
def hodBytes : List Byte := leBytes 8 0 ++ leBytes 8 2048 ++ [2#8, 3#8, 0#8, 1#8] ++ leBytes 4 16 ++ List.replicate 40 0#8
def hodState : State := (grp (withS [(2, 512#32), (5, 16#32)])).segWrite 0 0 512 hodBytes
theorem witness_HodRequests :
    let fit (s : State) (g : Group) (o : Option Nat) : Prop :=
      s.hodFault g 0 (g.sreg 2).toNat (g.sreg 3).toNat o = none ∧ g.asy.cnt.length = 4 ∧ g.asy.cnt.getD 0 0 < 63 ∧
      (hodQueue s g.loc.cell g.loc.quad).length < 32 ∧ ∃ c, s.cells[g.loc.cell]? = some c ∧ g.loc.quad < c.quads.length
    Meets ⟨.hod, 1, [.pair 2]⟩ (fun s _ g => fit s g none) ∧
    Meets ⟨.hod, 1, [.pair 2]⟩ (fun s _ g => fit s g (some 16) ∧ (s.bobj g.id.block g.loc.cell 16).flight < 65535) :=
  have h : ∀ o ∈ [none, some 16], hodState.hodFault (hodState.group 0) 0 ((hodState.group 0).sreg 2).toNat ((hodState.group 0).sreg 3).toNat o = none := by
    decide +kernel
  have hc : ∃ c, hodState.cells[(hodState.group 0).loc.cell]? = some c ∧ (hodState.group 0).loc.quad < c.quads.length :=
    ⟨hodState.cells.getD 0 Cell.reset, by decide +kernel⟩
  ⟨meets hodState (by decide +kernel) ⟨h _ (by decide), by decide +kernel, by decide +kernel, by decide +kernel, hc⟩,
    meets hodState (by decide +kernel) ⟨⟨h _ (by decide), by decide +kernel, by decide +kernel, by decide +kernel, hc⟩, by decide +kernel⟩⟩

theorem witness_CellCacheForms :
    let clean (s : State) (g : Group) : Prop := ∀ y ∈ (s.window (s.partOf g) g.loc.cell).lines, y.uncommitted = 0#128
    let lines (s : State) (g : Group) (va n : Nat) : List Nat := (ccPieces s g va n).flatMap fun p => linesOf p.1 p.2
    Meets ⟨.cc, 1, [.pair 2]⟩ (fun s _ g => ccNames g 2#8 6#8 0x20000 2 ∧ clean s g ∧ ccTouched (ccPieces s g 0x20000 2) 1024 ∧
      s.hasWays g ((lines s g 0x20000 2).map (128 * ·))) ∧
    Meets ⟨.cc, 1, [.pair 2]⟩ (fun s _ g => ccNames g 2#8 0xFF#8 0x20000 128 ∧ clean s g ∧ ccWhole (ccPieces s g 0x20000 128) 1024 ∧
      (∃ y, (s.window (s.partOf g) g.loc.cell).line? 1024 = some y ∧ y.dirty.getLsbD 0 = true) ∧
      ∀ p ∈ pagesOf 0x20000 128, ∃ e, s.xlateG g false p.1 = .ok e) := by
  have h0 : ccPieces glob (glob.group 0) 0x20000 2 = [(0x20000, 2)] := by decide +kernel
  have h1 : ccPieces (lined glob) ((lined glob).group 0) 0x20000 128 = [(0x20000, 128)] := by decide +kernel
  refine ⟨meets glob (by decide +kernel) ⟨by unfold ccNames; decide +kernel, by decide +kernel, ?_, hasWays_of (by decide +kernel)⟩,
    meets (lined glob) (by decide +kernel) ⟨by unfold ccNames; decide +kernel, by decide +kernel, ?_, ⟨_, by rfl, by decide +kernel⟩, ?_⟩⟩
  · rw [h0]; exact ⟨_, List.mem_singleton.mpr rfl, by decide⟩
  · rw [h1]; exact ⟨_, List.mem_singleton.mpr rfl, by decide⟩
  · have hp : pagesOf 0x20000 128 = [(0x20000, 128)] := by decide
    rw [hp]
    exact fun p hp => ok_of_okB (by rw [List.mem_singleton.mp hp]; decide +kernel)

def ringed (st : Nat) (held : Nat) : State :=
  ((blk fun b => { b with rings := [⟨true, 0, 0, 8⟩], ringHw := [0] }).modGroup 0 fun g =>
    { g with asy := { g.asy with ringHeld := g.asy.ringHeld.set 0 held } }).modQuad 0 0 fun q =>
      { q with rings := ⟨true, 7, 7, 0#8, [st, st, st, st, st, st, st, st]⟩ :: q.rings.drop 1 }
theorem witness_StageRings :
    let ring (s : State) (g : Group) : Ring := (s.ringAt g 0).2
    let there (s : State) (g : Group) : Prop := ringThere s g 0 ∧ g.id.seg = (s.ringDecl g 0).prod ∧ g.id.seg = (s.ringDecl g 0).cons
    let alone (g : Group) : Prop := (∀ j, 0 < j → j < 16 → g.asy.ringHeld.getD j 0 = 0) ∧ g.asy.ringHeld.length = 16
    Meets ⟨.ring, 1, []⟩ (fun s _ g => there s g ∧ alone g ∧ (ring s g).state.getD (ring s g).head 0 = 0 ∧ (ring s g).head < (ring s g).state.length) ∧
    Meets ⟨.ring, 1, []⟩ (fun s _ g => there s g ∧ alone g ∧ (ring s g).state.getD (ring s g).tail 0 = 2 ∧ (ring s g).tail < (ring s g).state.length) ∧
    Meets ⟨.ring, 1, []⟩ (fun s _ g => there s g ∧ alone g ∧ (ring s g).state.getD (ring s g).head 0 ≠ 0 ∧ (ring s g).state.getD (ring s g).tail 0 ≠ 2) ∧
    ∀ want ∈ [1, 3], Meets ⟨.ring, 1, []⟩ (fun s _ g => there s g ∧ (g.sreg 0).toNat < (s.ringDecl g 0).depth ∧ g.asy.ringHeld.getD 0 0 ≠ 0 ∧
      (ring s g).state.getD (g.sreg 0).toNat 0 = want) := by
  have ht : ∀ x ∈ [(0, 0), (2, 0), (1, 0), (1, 1), (3, 1)], ringThere (ringed x.1 x.2) ((ringed x.1 x.2).group 0) 0 ∧
      ((ringed x.1 x.2).group 0).id.seg = ((ringed x.1 x.2).ringDecl ((ringed x.1 x.2).group 0) 0).prod ∧
      ((ringed x.1 x.2).group 0).id.seg = ((ringed x.1 x.2).ringDecl ((ringed x.1 x.2).group 0) 0).cons := by
    have : ∀ x ∈ [(0, 0), (2, 0), (1, 0), (1, 1), (3, 1)], (((ringed x.1 x.2).ringDecl ((ringed x.1 x.2).group 0) 0).en = true ∧
        ((ringed x.1 x.2).cells[((ringed x.1 x.2).group 0).loc.cell]? = some ((ringed x.1 x.2).cells.getD 0 Cell.reset) ∧
        ((ringed x.1 x.2).cells.getD 0 Cell.reset).quads[((ringed x.1 x.2).group 0).loc.quad]? = some ((ringed x.1 x.2).quadAt 0 0) ∧
        ((ringed x.1 x.2).ringAt ((ringed x.1 x.2).group 0) 0).1 < ((ringed x.1 x.2).quadAt 0 0).rings.length)) ∧
        ((ringed x.1 x.2).group 0).id.seg = ((ringed x.1 x.2).ringDecl ((ringed x.1 x.2).group 0) 0).prod ∧
        ((ringed x.1 x.2).group 0).id.seg = ((ringed x.1 x.2).ringDecl ((ringed x.1 x.2).group 0) 0).cons := by decide +kernel
    exact fun x hx => ⟨⟨(this x hx).1.1, _, _, (this x hx).1.2⟩, (this x hx).2⟩
  have ha : ∀ st ∈ [0, 1, 2], (∀ j, 0 < j → j < 16 → ((ringed st 0).group 0).asy.ringHeld.getD j 0 = 0) ∧
      ((ringed st 0).group 0).asy.ringHeld.length = 16 := by
    have : ∀ st ∈ [0, 1, 2], (∀ j < 16, 0 < j → ((ringed st 0).group 0).asy.ringHeld.getD j 0 = 0) ∧
      ((ringed st 0).group 0).asy.ringHeld.length = 16 := by decide +kernel
    exact fun st h => ⟨fun j h0 h1 => (this st h).1 j h1 h0, (this st h).2⟩
  refine ⟨meets (ringed 0 0) (by decide +kernel) ⟨ht (0, 0) (by decide), ha 0 (by decide), by decide +kernel⟩,
    meets (ringed 2 0) (by decide +kernel) ⟨ht (2, 0) (by decide), ha 2 (by decide), by decide +kernel⟩,
    meets (ringed 1 0) (by decide +kernel) ⟨ht (1, 0) (by decide), ha 1 (by decide), by decide +kernel⟩, ?_⟩
  simp only [List.forall_mem_cons, List.not_mem_nil, false_implies, implies_true, and_true]
  exact ⟨meets (ringed 1 1) (by decide +kernel) ⟨ht (1, 1) (by decide), by decide +kernel⟩,
    meets (ringed 3 1) (by decide +kernel) ⟨ht (3, 1) (by decide), by decide +kernel⟩⟩

def message : Msg := ⟨0, 15, 0x55#32, 0x10000#32, List.replicate 64 0xA5#8, []⟩
def mailed : State := let s := grp (withS ((4, 0xF00#32) :: (9, 4032#32) :: regs1.take 2)); s.setWindow { s.window 0 0 with part := 0, cell := 0, msgs := [message] }
theorem witness_Messages :
    Meets ⟨.msg, 1, [.pair 4]⟩ (fun s i g => (g.sreg 4).toNat < 2 ^ 12 ∧ (g.sreg 4).toNat / 32 % 8 = 0 ∧ s.heldQuads (s.partOf g) ((g.sreg 4).toNat % 32) ≠ [] ∧
      (g.sreg 9).toNat % 64 = 0 ∧ (s.block g.id.block).segOk (g.sreg 9).toNat 64 = true ∧ g.loc.cell / 8 = (g.sreg 4).toNat % 32 / 8 ∧ g.asy.cnt.length = 4 ∧ g.asy.cnt.getD 3 0 < 63 ∧
      ∃ x, s.release i 3 = .ok x) ∧
    Meets ⟨.msg, 1, [.pair 4]⟩ (fun s i g => (g.sreg 9).toNat % 64 = 0 ∧ segOkFor s i g (g.sreg 9).toNat 64 ∧
      (∀ rd, boundHits (s.boundsOf g.id.ctx) true ((s.block g.id.block).seg g.loc.cell + (g.sreg 9).toNat) message.payload rd = []) ∧
      (s.block g.id.block).part = s.partOf g ∧ message.payload.length = 64 ∧ (s.window (s.partOf g) g.loc.cell).msgFor g.id.ctx 15 = some (0, message)) ∧
    Meets ⟨.msg, 1, [.pair 4]⟩ (fun s _ g => (g.sreg 9).toNat % 64 = 0 ∧ (s.block g.id.block).segOk (g.sreg 9).toNat 64 = true ∧ g.inGate = false ∧
      (s.window (s.partOf g) g.loc.cell).msgFor g.id.ctx 14 = none) := by
  unfold segOkFor
  exact ⟨meets mailed (by decide +kernel) ⟨by decide +kernel, by decide +kernel, by decide +kernel, by decide +kernel, by decide +kernel, by decide +kernel,
      by decide +kernel, by decide +kernel, ok_of_okB (by decide +kernel)⟩,
    meets mailed (by decide +kernel) ⟨by decide +kernel, by decide +kernel, fun rd => hits_nil (by decide +kernel) _ _ _ rd, by decide +kernel⟩, meets mailed (by decide +kernel) (by decide +kernel)⟩

/-! ### Witnesses: launches, gates, privileged instructions and graphics -/

theorem some_of_isSome {α : Type} {o : Option α} (h : o.isSome = true) : ∃ x, o = some x := Option.isSome_iff_exists.mp h
theorem tags_of {g : Group} (h : g.regs.v.all (fun v => v.tag == 0 && v.poison.isNone) = true) (r : Nat) :
    (g.vreg r).tag = 0 ∧ (g.vreg r).poison = none := by
  simp only [Group.vreg, List.getD_eq_getElem?_getD]
  cases hv : g.regs.v[r]? with
  | none => exact ⟨rfl, rfl⟩
  | some v =>
    have := List.all_eq_true.mp h v (List.mem_of_getElem? hv)
    simpa using this
def readB {α β γ : Type} : Except α (β × Option γ) → Bool
  | .ok (_, none) => true
  | _ => false
theorem read_of_readB {α β γ : Type} {x : Except α (β × Option γ)} (h : readB x = true) : ∃ b, x = .ok (b, none) := by
  cases x with
  | error e => cases h
  | ok p => obtain ⟨b, o⟩ := p; cases o with
    | none => exact ⟨b, rfl⟩
    | some y => cases h

theorem witness_LaunchAndJoin :
    Meets ⟨.launch, 1, [.pair 2]⟩ (fun s i g => (∃ r, s.release i 4 = .ok r) ∧ (s.block g.id.block).fdom ≠ .rollback ∧ s.hub.save = none) ∧
    Meets ⟨.launch, 1, []⟩ (fun _ _ _ => True) :=
  ⟨meets base (by decide +kernel) ⟨ok_of_okB (by decide +kernel), by decide +kernel⟩, meets base (by decide +kernel) trivial⟩

/-- The gate table of context 0 names context 1, with frames from 0x180000 on. -/
def gated : State :=
  let entry := [1#8, 1#8] ++ leBytes 2 9 ++ [2#8, 1#8, 1#8, 0#8] ++ leBytes 8 0x20040 ++ leBytes 8 0 ++ leBytes 2 0 ++ leBytes 2 1 ++ leBytes 4 0
  let s := { base with funcs := base.funcs.set 0 ⟨true, true, 0, [(0, 512)]⟩ }
  let s := { s with ctxs := (s.ctxs.set 0 { s.ctx 0 with save := 0x120000, s1root := 0x100000 }).set 1 { s.ctx 0 with asid := 9, s1root := 0x100000 } }
  { s with mem := (((s.mem.put 0x100000 (leBytes 8 0x101003)).put 0x101000 (leBytes 8 0x61)).put 0x120080 (leBytes 8 1 ++ leBytes 8 0x180000)).put 0x120100 entry }
def gatePass : GatePass := ((gated.gateCheck (gated.group 0) 0).getD ⟨GateEntry.parse [], 0, []⟩)
theorem pass_of {s : State} {g : Group} {n : Nat} {p : GatePass} (h : (s.gateCheck g n).isSome = true)
    (hp : p = (s.gateCheck g n).getD ⟨GateEntry.parse [], 0, []⟩) : s.gateCheck g n = some p := by
  subst hp
  cases h' : s.gateCheck g n with
  | none => rw [h'] at h; cases h
  | some x => rfl
theorem witness_GateCalls :
    Meets ⟨.gate, 1, []⟩ (fun s _ g => s.gateCheck g 0 = some gatePass ∧ g.quiet = true ∧ g.ctl.act ≠ 0#32 ∧
        (∀ r, (g.vreg r).tag = 0 ∧ (g.vreg r).poison = none) ∧ (g.calleeRegs gatePass.entry).usage ≤ g.entryBudget ∧
        ∀ y ∈ (s.window (s.partOf g) g.loc.cell).lines, y.uncommitted = 0#128) :=
  meets gated (by decide +kernel) ⟨pass_of (by decide +kernel) rfl, by decide +kernel, by decide +kernel, tags_of (by decide +kernel), by decide +kernel,
    by decide +kernel⟩

/-- A frame at 0x180000 whose bytes are zero but the first and the last four; the check is that of its bytes. -/
def frameByte (i : Nat) : Byte := if i < 4 ∨ 16380 ≤ i then 0xFF#8 else 0#8
def frameBytes : List Byte := (List.range 16384).map frameByte
def inCall : State :=
  let s := { gated with mem := (gated.mem.put 0x180000 (List.replicate 4 0xFF#8)).put 0x183FFC (List.replicate 4 0xFF#8) }
  s.modGroup 0 fun g => { g with
    id := { g.id with ctx := 1, sys := false, vregs := 0 }, regs := { g.regs with v := [] }
    asy := { g.asy with gates := [⟨0, true, 0, 0x180000, 0, 1, g.ctl.act, 0, 2, 1, 0, 0, 0x10040#64, []⟩] } }
def outOf (g : Group) : Group := { g with
  id := { g.id with ctx := 0, sys := true }, asy := { g.asy with gates := [], deferred := [] }, trap := { g.trap with callee := none } }

theorem crc_frame : crc32c (frameBytes.take 0x3FFC) = fieldAt frameBytes 0x3FFC 4 := by
  have h0 : ∀ n, (List.replicate n 0#8).foldl (fun c (x : Byte) => (List.range 8).foldl (fun c _ => crcBit c) (c ^^^ x.toNat)) 0 = 0 := by
    intro n
    induction n with
    | zero => rfl
    | succ n ih => rw [List.replicate_succ, List.foldl_cons, show (List.range 8).foldl (fun c _ => crcBit c) (0 ^^^ (0#8).toNat) = 0 by decide, ih]
  have h1 : frameBytes.take 0x3FFC = [0xFF#8, 0xFF#8, 0xFF#8, 0xFF#8] ++ List.replicate 16376 0#8 := by
    apply List.ext_getElem
    · rw [List.length_take, List.length_append, List.length_replicate, frameBytes, List.length_map, List.length_range]; rfl
    · intro i h2 h3
      simp only [frameBytes, List.length_take, List.length_map, List.length_range] at h2
      rw [List.getElem_take, List.getElem_append]
      simp only [frameBytes, List.getElem_map, List.getElem_range, frameByte, List.getElem_replicate]
      by_cases h : i < 4
      · interval_cases i <;> rfl
      · rw [if_neg (by omega), dif_neg (by simpa using h)]
  have h2 : frameBytes.drop 0x3FFC = [0xFF#8, 0xFF#8, 0xFF#8, 0xFF#8] := by
    apply List.ext_getElem
    · rw [List.length_drop, frameBytes, List.length_map, List.length_range]; rfl
    · intro i h2 h3
      simp only [List.length_cons, List.length_nil] at h3
      rw [List.getElem_drop]
      simp only [frameBytes, List.getElem_map, List.getElem_range, frameByte]
      rw [if_pos (by omega)]
      interval_cases i <;> rfl
  rw [h1, crc32c, List.foldl_append, show [0xFF#8, 0xFF#8, 0xFF#8, 0xFF#8].foldl
    (fun c (x : Byte) => (List.range 8).foldl (fun c _ => crcBit c) (c ^^^ x.toNat)) 0xFFFFFFFF = 0 by decide +kernel, h0, fieldAt, h2]
  rfl

theorem Mem.get_above {m : Mem} {a : Nat} (h : ∀ c ∈ m, c.1 < a) : m.get a = 0#8 := by
  induction m with
  | nil => rfl
  | cons c r ih =>
    have := h c (List.mem_cons_self ..)
    rw [Machine.Mem.get, if_neg (by omega), if_neg (by omega), ih fun c hc => h c (List.mem_cons_of_mem _ hc)]

theorem frame_read : (inCall.setGroup 0 (outOf (inCall.group 0))).readFrame (outOf (inCall.group 0)) 0x180000 = some frameBytes := by
  have hw : (gated.mem.put 0x180000 (List.replicate 4 0xFF#8)).wf = true := by decide +kernel
  have hg : gated.mem.wf = true := by decide +kernel
  have hm : (inCall.setGroup 0 (outOf (inCall.group 0))).mem =
      (gated.mem.put 0x180000 (List.replicate 4 0xFF#8)).put 0x183FFC (List.replicate 4 0xFF#8) := rfl
  have hi : ∀ i, i < 16384 → (inCall.setGroup 0 (outOf (inCall.group 0))).mem.get (0x180000 + i) = frameByte i := by
    intro i h
    rw [hm, Machine.Mem.get_put hw, Machine.Mem.get_put hg, Mem.get_above (m := gated.mem) (a := 0x180000 + i)
      (fun c hc => lt_of_lt_of_le (b := 0x180000) ((by decide +kernel : ∀ c ∈ gated.mem, c.1 < 0x180000) c hc) (by omega))]
    simp only [List.length_replicate, frameByte]
    by_cases h1 : i < 4
    · rw [if_neg (by omega), if_pos (by omega), if_pos (by omega)]
      interval_cases i <;> rfl
    · by_cases h2 : 16380 ≤ i
      · rw [if_pos (by omega), if_pos (by omega)]
        interval_cases i <;> rfl
      · rw [if_neg (by omega), if_neg (by omega), if_neg (by omega)]
  have hp : (inCall.setGroup 0 (outOf (inCall.group 0))).framePages (outOf (inCall.group 0)) 0x180000 false =
      .ok [0x180000, 0x181000, 0x182000, 0x183000] := by decide +kernel
  have hl : ((inCall.setGroup 0 (outOf (inCall.group 0))).window 0 0).lines = [] := by decide +kernel
  have hr : ∀ pa o, pa = 0x180000 + o → o ≤ 0x3000 → (inCall.setGroup 0 (outOf (inCall.group 0))).cachedRead 0 0 pa 4096 =
      (List.range 4096).map fun i => frameByte (o + i) := by
    intro pa o hpa ho
    simp only [State.cachedRead]
    refine List.map_congr_left fun i hi' => ?_
    rw [State.cachedByte, Window.line?, hl, List.find?_nil, hpa, Nat.add_assoc]
    exact hi _ (by have := List.mem_range.mp hi'; omega)
  have hb : [0x180000, 0x181000, 0x182000, 0x183000].flatMap (fun pa => (inCall.setGroup 0 (outOf (inCall.group 0))).cachedRead 0 0 pa 4096)
      = frameBytes := by
    simp only [List.flatMap_cons, List.flatMap_nil, List.append_nil]
    rw [hr 0x180000 0 rfl (by omega), hr 0x181000 0x1000 rfl (by omega), hr 0x182000 0x2000 rfl (by omega), hr 0x183000 0x3000 rfl (by omega)]
    apply List.ext_getElem
    · simp only [List.length_append, List.length_map, List.length_range, frameBytes]
    · intro i h1 h2
      simp only [List.getElem_append, List.length_map, List.length_range, List.getElem_map, List.getElem_range, frameBytes]
      split
      · exact congrArg frameByte (by omega)
      · split
        · exact congrArg frameByte (by omega)
        · split <;> exact congrArg frameByte (by omega)
  have hq : (inCall.setGroup 0 (outOf (inCall.group 0))).partOf (outOf (inCall.group 0)) = 0 := by decide +kernel
  have hc : (outOf (inCall.group 0)).loc.cell = 0 := by decide +kernel
  have hz : [0x180000, 0x181000, 0x182000, 0x183000].any (fun pa =>
      ((inCall.setGroup 0 (outOf (inCall.group 0))).cachedPoison 0 0 pa 4096).isSome) = false := by decide +kernel
  simp only [State.readFrame, hp, hq, hc, hb, hz, crc_frame, bne_self_eq_false, Bool.or_false, Bool.false_eq_true, if_false]

theorem witness_GateCalls_return : ∃ l rest b, Meets ⟨.gate, 1, []⟩ (fun s i g => g.asy.gates = l :: rest ∧ g.quiet = true ∧
    g.ctl.stack.length = l.depth ∧ g.ctl.act = l.active ∧ g.ctl.act &&& g.ctl.live ≠ 0#32 ∧ (∀ r, (g.vreg r).tag = 0) ∧
    (s.setGroup i (outOf g)).readFrame (outOf g) l.frame = some b ∧ ((outOf g).callerRegs l b false).usage ≤ g.entryBudget) :=
  ⟨_, _, frameBytes, meets inCall (by decide +kernel) ⟨rfl, by decide +kernel, by decide +kernel, by decide +kernel, by decide +kernel,
    fun r => (tags_of (by decide +kernel) r).1, frame_read, by decide +kernel⟩⟩

theorem witness_PrivilegedInstructions :
    let sharers (s : State) (g : Group) : List Nat := (List.range 64).filter fun c =>
      (s.ctx c).func == (s.ctx g.id.ctx).func && (s.ctx c).asid == (s.ctx g.id.ctx).asid
    (∃ s i g, State.issuer s = some (i, g) ∧ g.id.sys = false) ∧
    Meets ⟨.priv, 1, [.pair 2]⟩ (fun s i g => (∃ x, s.release i 4 = .ok x ∧ x.inFlight (sharers s g) = false) ∧ (g.spair 2).toNat < 2 ^ 48) ∧
    Meets ⟨.priv, 1, []⟩ (fun s _ g => (∃ y, y ∈ (s.window (s.partOf g) g.loc.cell).lines) ∧ ∀ y ∈ (s.window (s.partOf g) g.loc.cell).lines, y.uncommitted = 0#128) ∧
    Meets ⟨.priv, 1, [.pair 2]⟩ (fun s _ g => (g.spair 2).toNat % 256 = 0 ∧ ∃ b, s.engineRead g 2 (g.spair 2).toNat 256 = .ok (b, none)) ∧
    Meets ⟨.priv, 1, [.pair 2]⟩ (fun s _ g => g.id.ctx < s.ctxs.length ∧ (g.spair 2).toNat ≠ 0 ∧ ∃ b, s.engineRead g 3 (g.spair 2).toNat 1024 = .ok (b, none)) := by
  refine ⟨⟨grp fun g => { g with id := { g.id with sys := false } }, 0, _, rfl, by decide +kernel⟩,
    meets glob (by decide +kernel) ⟨?_, by decide +kernel⟩,
    meets (lined glob) (by decide +kernel) ⟨⟨_, List.mem_cons_self ..⟩, by decide +kernel⟩,
    meets glob (by decide +kernel) ⟨by decide +kernel, read_of_readB (by decide +kernel)⟩,
    meets glob (by decide +kernel) ⟨by decide +kernel, by decide +kernel, read_of_readB (by decide +kernel)⟩⟩
  have h : ∀ x, glob.release 0 4 = .ok x → x.inFlight ((List.range 64).filter fun c =>
      (glob.ctx c).func == (glob.ctx (glob.group 0).id.ctx).func && (glob.ctx c).asid == (glob.ctx (glob.group 0).id.ctx).asid) = false := by
    intro x hx
    have : (match glob.release 0 4 with
      | .ok x => x.inFlight ((List.range 64).filter fun c =>
          (glob.ctx c).func == (glob.ctx (glob.group 0).id.ctx).func && (glob.ctx c).asid == (glob.ctx (glob.group 0).id.ctx).asid)
      | .error _ => true) = false := by decide +kernel
    rw [hx] at this; exact this
  obtain ⟨x, hx⟩ := ok_of_okB (x := glob.release 0 4) (by decide +kernel)
  exact ⟨x, hx, h x hx⟩

/-- A pass of a surface of 16 by 16 pixels with two samples, a triangle that covers its lower left half, a tile with
a ticket in progress, and a group whose lanes are bound to its first half. -/
def passRaw : List Byte := leBytes 2 16 ++ leBytes 2 16 ++ [1#8, 2#8, 0#8, 0#8] ++ leBytes 4 8192 ++ leBytes 4 256 ++ leBytes 4 0x3F800000 ++ leBytes 4 64 ++
  leBytes 8 0 ++ leBytes 8 0x30000 ++ leBytes 8 0 ++ leBytes 8 0x31000 ++ leBytes 8 0x32000
def corner : List Word := [0#32, 0#32, 0#32, 0x3F800000#32, 0x41800000#32, 0#32, 0#32, 0x3F800000#32, 0#32, 0x41800000#32, 0#32, 0x3F800000#32, 7#32]
def pass0 : Pass := ⟨0, true, 0x33000, passRaw, 0, 0, 0, 0, false, false, 0, [], none, false, []⟩
def tri : Prim := (pass0.setup 0 corner).getD ⟨0, 0, [], [], [], 0#32, false, []⟩
def ticket (halves : List Nat) : Ticket := ⟨5, 0, false, true, halves⟩
def tile0 (halves : List Nat) : TileRec := ⟨0, 0, some (ticket halves), some (0, 4096), false, [], true, false⟩
def pass1 (halves : List Nat) : Pass := { pass0 with nextPseq := 1, prims := [tri], tiles := [tile0 halves] }
def drawing (p : Pass) (m : Lanes) : State := { (grp fun g => { lanesOf m (withS [(0, 0x33000#32), (1, 0#32)] g) with
  id := { g.id with binds := (List.range 32).map fun l => some (320 + l) } }) with passes := [p] }
def frag (l : Nat) : Frag := ⟨pass1 [2, 1], tile0 [2, 1], ticket [2, 1], tri, (halfPixel 0 0 0 l).1, (halfPixel 0 0 0 l).2⟩
def bound0 : State := drawing (pass1 [2, 1]) 0x80000001#32
def Frag.key (f : Frag) : Pass × TileRec × Ticket × Prim × Nat × Nat := (f.pass, f.tile, f.ticket, f.prim, f.x, f.y)
theorem bound_of {b : Nat → Frag} {s : State} {g : Group}
    (h : ∀ l ∈ g.ctl.act.toList, (s.boundOf g l).map Frag.key = some (Frag.key (b l))) : bound b s g := fun l hl => by
  have := h l hl
  cases hb : s.boundOf g l with
  | none => rw [hb] at this; cases this
  | some f =>
    rw [hb] at this
    simp only [Option.map_some, Option.some.injEq, Frag.key, Prod.mk.injEq] at this
    obtain ⟨h1, h2, h3, h4, h5, h6⟩ := this
    cases f; cases hx : b l; simp_all

def emitting (words : List Word) : State := State.modGroup { drawing pass0 1#32 with funcs := gated.funcs, ctxs := gated.ctxs, mem := gated.mem } 0 fun (g : Group) =>
  words.zipIdx.foldl (fun (g : Group) (x : Word × Nat) => withV (8 + x.2) (.uniform x.1) g) g
def ident : TlbEntry := match (emitting []).xlate 32 0 0 ⟨true, false, true⟩ 0x31000 with
  | .ok e => e
  | .error _ => page
theorem witness_PrimitiveEmission : let info : Info := ⟨.gfx, 1, [.vgrp 8 13 1, .cond (spOk 112#7) 112]⟩
    let words (g : Group) : List Word := (List.range 13).map fun j => g.vlane (8 + j) 0
    let open_ (s : State) (g : Group) : Prop := s.passIdx g.id.ctx (g.spAddr 112#7) g.pane = some 0 ∧ s.passes[0]? = some pass0 ∧
      pass0.closed = false ∧ s.quarantined g.pane = false ∧ g.ctl.begun = none ∧ g.storeLanes = [0] ∧ (s.block g.id.block).fdom ≠ .rollback
    Meets info (fun s _ g => open_ s g ∧ pass0.setup pass0.nextPseq (words g) = none) ∧
    Meets info (fun s _ g => open_ s g ∧ pass0.setup pass0.nextPseq (words g) = some tri ∧
        (∀ x ∈ pass0.prims, x.pseq % pass0.maxPrim ≠ pass0.nextPseq % pass0.maxPrim) ∧
        (pass0.prims.map fun x => x.bins.length).sum + tri.bins.length ≤ pass0.binRoom ∧
        s.xlate 32 0 pass0.ctx ⟨true, false, pass0.sys⟩ (pass0.field 0x30 8 + pass0.nextPseq % pass0.maxPrim * 32) = .ok ident) ∧
    Meets ⟨.gfx, 1, [.cond (spOk 112#7) 112]⟩ (fun s _ g => s.passIdx g.id.ctx (g.spAddr 112#7) g.pane = some 0 ∧ s.passes[0]? = some pass0) :=
  ⟨meets (emitting []) (by decide +kernel) (by decide +kernel), meets (emitting corner) (by decide +kernel) (by decide +kernel),
    meets (drawing pass0 1#32) (by decide +kernel) (by decide +kernel)⟩

theorem witness_TicketsAndInterpolation :
    let whole (g : Group) : Prop := g.ctl.stack = [] ∧ g.ctl.live = BitVec.allOnes 32 ∧ g.trap.parked = [] ∧ g.id.quadMode = false
    Meets ⟨.gfx, 1, [.kdst 7, .cond (spOk 112#7) 112]⟩ (fun s _ g => whole g ∧ s.passIdx g.id.ctx (g.spAddr 112#7) g.pane = none) ∧
    (∃ r, Meets ⟨.gfx, 1, [.kdst 7, .cond (spOk 112#7) 112]⟩ (fun s _ g => whole g ∧ s.passIdx g.id.ctx (g.spAddr 112#7) g.pane = some 0 ∧
      s.pickHalf 0 g.loc.cell = some (r, 0, 1) ∧ r.passes[0]? = some (pass1 [2, 1]) ∧ ((pass1 [2, 1]).tile 0).cur = some (ticket [2, 1]) ∧
      (pass1 [2, 1]).prims.find? (fun x => x.pseq == (ticket [2, 1]).pseq) = some tri ∧ r.groups = s.groups ∧ r.blocks = s.blocks)) ∧
    Meets ⟨.gfx, 1, []⟩ (fun s _ g => bound frag s g) ∧
    Meets ⟨.gfx, 1, [.vdst 111 1 1, .cond (decide (8 ≤ 8)) 8]⟩ (fun s _ g => bound frag s g) ∧
    Meets ⟨.edge, 1, [.vdst 1 1 1]⟩ (fun s _ g => bound frag s g) ∧
    Meets ⟨.edge, 1, [.vdst 1 1 1, .cond (decide (5 ≤ 5)) 21]⟩ (fun s _ g => bound frag s g ∧ ∀ l ∈ g.ctl.act.toList, 2 ≤ (frag l).pass.samples) ∧
    Meets ⟨.edge, 1, [.vdst 110 2 1]⟩ (fun s _ g => bound frag s g ∧ ∀ l ∈ g.ctl.act.toList, 2 ≤ (frag l).pass.samples) :=
  ⟨meets base (by decide +kernel) (by decide +kernel),
    ⟨_, meets bound0 (by decide +kernel) ⟨by decide +kernel, by decide +kernel, by rfl, by decide +kernel, by decide +kernel, by decide +kernel, rfl, rfl⟩⟩,
    meets bound0 (by decide +kernel) (bound_of (by decide +kernel)), meets bound0 (by decide +kernel) (bound_of (by decide +kernel)),
    meets bound0 (by decide +kernel) (bound_of (by decide +kernel)),
    meets bound0 (by decide +kernel) ⟨bound_of (by decide +kernel), by decide +kernel⟩,
    meets bound0 (by decide +kernel) ⟨bound_of (by decide +kernel), by decide +kernel⟩⟩

theorem clean_of {s : State} {p : Nat} (h : s.windows.all (fun w => w.poison.isEmpty) = true) (c : Nat) : (s.window p c).poison = [] := by
  unfold State.window
  cases hf : s.windows.find? fun w => w.part == p && w.cell == c with
  | none => rfl
  | some w => exact List.isEmpty_iff.mp (List.all_eq_true.mp h w (List.mem_of_find?_eq_some hf))
theorem witness_OutputMerger :
    Meets ⟨.gfx, 1, [.vdst 1 1 1, .vsrc 2 false]⟩ (fun s _ g => bound frag s g ∧ samplesApart frag g ∧ (∀ l, (frag l).pass.samples ≤ 8) ∧
      ∀ c, (s.window (s.partOf g) c).poison = []) ∧
    Meets ⟨.gfx, 1, [.cond (2#2 != 3#2) 3, .vsrc 2 false, .vgrp 4 2 2]⟩ (fun s _ g => bound frag s g ∧ samplesApart frag g ∧ ∀ l, (frag l).pass.samples ≤ 8) ∧
    Meets ⟨.gfx, 1, [.vdst 1 3 1]⟩ (fun s _ g => bound frag s g ∧ (∀ l ∈ g.ctl.act.toList, 1 < (frag l).pass.samples) ∧
      ∀ c, (s.window (s.partOf g) c).poison = []) := by
  have hs : ∀ l, (frag l).pass.samples = 2 := fun _ => by show (pass1 [2, 1]).samples = 2; decide +kernel
  have ha : samplesApart frag (bound0.group 0) := by
    have : ∀ l ∈ (bound0.group 0).storeLanes, ∀ m ∈ (bound0.group 0).storeLanes, ∀ k < 2, ∀ j < 2, (l, k) ≠ (m, j) →
      ((frag l).sampleAt k).1 ≠ ((frag m).sampleAt j).1 ∨ ((frag l).sampleAt k).2 + 12 ≤ ((frag m).sampleAt j).2 ∨
        ((frag m).sampleAt j).2 + 12 ≤ ((frag l).sampleAt k).2 := by decide +kernel
    exact fun l m k j hl hm hk hj => this l hl m hm k (hs l ▸ hk) j (hs m ▸ hj)
  have hb : bound frag bound0 (bound0.group 0) := bound_of (by decide +kernel)
  exact ⟨meets bound0 (by decide +kernel) ⟨hb, ha, fun l => by rw [hs]; decide, clean_of (by decide +kernel)⟩,
    meets bound0 (by decide +kernel) ⟨hb, ha, fun l => by rw [hs]; decide⟩,
    meets bound0 (by decide +kernel) ⟨hb, fun l _ => by rw [hs]; decide, clean_of (by decide +kernel)⟩⟩

/-- A glaze target of 16 by 16 pixels at 0x34000, with no layer at its first pixel. -/
def glazeRaw : List Byte := leBytes 4 0 ++ leBytes 4 4096 ++ leBytes 2 16 ++ leBytes 2 16 ++ [4#8, 3#8, 0#8, 0#8] ++ leBytes 8 0x35000 ++ leBytes 8 0x36000 ++ List.replicate 32 0#8
def glazing : State :=
  let s := (drawing (pass1 [2, 1]) 1#32).modGroup 0 (withS [(2, 0x34000#32), (3, 0#32)])
  { s with mem := ((s.mem.put 0x34000 glazeRaw).put 0x35000 (leBytes 4 0xFFFFFFFF)).put 0x36000 (leBytes 8 0x40000), windows := [s.window 0 0] }
def pixel : GPixel := ⟨0x35000, [], none⟩
theorem witness_GlazeOperations :
    let clean (s : State) (g : Group) : Prop := bound frag s g ∧ (s.window (s.partOf g) g.loc.cell).lines = [] ∧
      s.setWindow (s.window (s.partOf g) g.loc.cell) = s ∧ (s.block g.id.block).fdom ≠ .rollback
    let inPixel (s : State) (g : Group) : Prop := glazed s g 114#7 (frag 0) (Glaze.parse glazeRaw) pixel ∧ (frag 0).x < 16 ∧ (frag 0).y < 16
    (∀ p ∈ [⟨.gfx, 1, [.vdst 1 1 1, .cond (spOk 114#7) 114]⟩, ⟨.gfx, 1, [.vdst 1 3 1, .cond (spOk 114#7) 114, .cond (decide (15 ≤ 15)) 15]⟩,
        ⟨.gfx, 1, [.vdst 2 2 2, .cond (spOk 114#7) 114, .vgrp 4 2 2]⟩],
      Meets p (fun s _ g => clean s g ∧ g.ctl.helper = 0#32 ∧ ∀ l ∈ g.ctl.act.toList, glazed s g 114#7 (frag l) (Glaze.parse glazeRaw) pixel)) ∧
    (∃ ws r, Meets ⟨.gfx, 1, [.vgrp 1 1 1, .cond (spOk 114#7) 114, .vgrp 4 2 2]⟩ (fun s _ g => clean s g ∧ g.storeLanes = [0] ∧ inPixel s g ∧
      s.insertWrites g (g.spAddr 114#7) (Glaze.parse glazeRaw) pixel (g.vlane 1 0) (g.colourOf 4 0) = .ok (ws, none) ∧ s.writeAll g ws = .ok r)) ∧
    Meets ⟨.gfx, 1, [.cond (spOk 114#7) 114]⟩ (fun s _ g => clean s g ∧ g.storeLanes = [0] ∧ inPixel s g ∧ g.ctl.live.has 0 = true ∧ pixel.headVa % 4096 ≤ 4092 ∧
      s.xlateG g true pixel.headVa = .ok page) := by
  have hb : bound frag glazing (glazing.group 0) := bound_of (by decide +kernel)
  have hg : glazed glazing (glazing.group 0) 114#7 (frag 0) (Glaze.parse glazeRaw) pixel := by
    unfold glazed; exact ⟨glazeRaw, by decide +kernel, by decide +kernel, rfl, by decide +kernel⟩
  have hc : bound frag glazing (glazing.group 0) ∧ (glazing.window (glazing.partOf (glazing.group 0)) (glazing.group 0).loc.cell).lines = [] ∧
      glazing.setWindow (glazing.window (glazing.partOf (glazing.group 0)) (glazing.group 0).loc.cell) = glazing ∧
      (glazing.block (glazing.group 0).id.block).fdom ≠ .rollback := ⟨hb, by decide +kernel, by rfl, by decide +kernel⟩
  have ha : (glazing.group 0).ctl.act.toList = [0] := by decide +kernel
  refine ⟨all_meet glazing (by decide +kernel) ⟨hc, by decide +kernel, ?_⟩,
    ⟨((glazing.insertWrites (glazing.group 0) 0x34000 (Glaze.parse glazeRaw) pixel 0#32 ((glazing.group 0).colourOf 4 0)).toOption.map Prod.fst).getD [], _,
      meets glazing (by decide +kernel) ⟨hc, by decide +kernel, ⟨hg, by decide +kernel⟩, by decide +kernel, rfl⟩⟩,
    meets glazing (by decide +kernel) ⟨hc, by decide +kernel, ⟨hg, by decide +kernel⟩, by decide +kernel⟩⟩
  rw [ha]
  exact fun l hl => by rw [List.mem_singleton.mp hl]; exact hg

/-- A group with records of its own at 0x20000, and eight words of a ray. -/
def tracing (paused : List (Nat × Trav) := []) : State := grp fun g => { lanesOf 0xFF#32 (withS [(2, 0x30000#32), (3, 0#32), (4, 1#32)] g) with
  sr := { g.sr with privbase := 0x20000, privsize := 0 }, paused := paused }
theorem capture_of {s : State} {g : Group} {live : Word} {res : List Nat} (h : s.captureFault g live res = .none) (hp : g.regs.pend = [])
    (ht : g.regs.v.all (fun v => v.tag == 0 && v.poison.isNone) = true) (ho : ∀ o ∈ g.asy.deferred ++ g.asy.ops, o.fault = .none)
    (hc : g.loc.cell < s.cells.length) : g.canCapture s live res := ⟨h, hp, fun r => (tags_of ht r).1, ho, hc⟩
theorem tracing_captures (res : List Nat) (h : (tracing).captureFault ((tracing).group 0) 1#32 res = .none) :
    ((tracing).group 0).canCapture tracing (((tracing).group 0).sreg 4) res := by
  have h4 : ((tracing).group 0).sreg 4 = 1#32 := by decide +kernel
  exact h4 ▸ capture_of h (by decide +kernel) (by decide +kernel) (by decide +kernel) (by decide +kernel)

theorem witness_TextureRequests :
    Meets ⟨.gfx, 2, [.vdst 4 4 4, .vgrp 8 2 1, .cond (decide (2 % 2 = 0 ∧ 2 ≤ 252)) 2]⟩ (fun _ _ g => g.canOp 2) ∧
    Meets ⟨.gfx, 2, [.cond (decide (4 % 4 = 0 ∧ 4 < 112)) 4, .vgrp 8 2 1, .cond (decide (2 % 2 = 0 ∧ 2 ≤ 252)) 2, .vsrc 9 false]⟩
      (fun s _ g => g.canOp 2 ∧ g.canCapture s (g.sreg 4) [4, 5, 6, 7]) := by
  unfold Group.canOp
  exact ⟨meets tracing (by decide +kernel) (by decide +kernel), meets tracing (by decide +kernel) ⟨by decide +kernel, tracing_captures _ (by decide +kernel)⟩⟩

theorem witness_TraceRequests :
    Meets ⟨.gfx, 2, [.vdst 4 4 4, .vgrp 8 8 1, .cond (decide (2 % 2 = 0 ∧ 2 ≤ 252)) 2, .cond (!false || 1#1 == 0#1) 1]⟩ (fun _ _ g => g.canOp 2) ∧
    Meets ⟨.gfx, 2, [.cond (decide (28 % 4 = 0 ∧ 28 < 112)) 28, .vgrp 8 8 1, .cond (decide (2 % 2 = 0 ∧ 2 ≤ 252)) 2, .cond (!true || 0#1 == 0#1) 1]⟩
      (fun s _ g => g.canOp 2 ∧ g.canCapture s (g.sreg 4) [28, 29, 30, 31]) ∧
    Meets ⟨.gfx, 1, [.vdst 4 4 4, .vgrp 8 3 1]⟩ (fun _ _ g => g.canOp 2) ∧ Meets ⟨.gfx, 1, [.vdst 4 4 4]⟩ (fun _ _ g => g.canOp 2) := by
  unfold Group.canOp
  exact ⟨meets tracing (by decide +kernel) (by decide +kernel), meets tracing (by decide +kernel) ⟨by decide +kernel, tracing_captures _ (by decide +kernel)⟩,
    meets tracing (by decide +kernel) (by decide +kernel), meets tracing (by decide +kernel) (by decide +kernel)⟩

theorem witness_Continuations : Meets ⟨.cont, 1, [.vsrc 0 false]⟩ (fun _ _ _ => True) ∧
    Meets ⟨.cont, 1, [.cond (decide (112 ≤ 116 ∧ 116 ≤ 119)) 116]⟩ (fun s _ g => g.canCapture s (g.sreg 4) []) :=
  ⟨meets base (by decide +kernel) trivial, meets tracing (by decide +kernel) (tracing_captures _ (by decide +kernel))⟩

/-! ### Witnesses: the matrix complex and the steps of the part -/

/-- A matrix group with pairs that give a mode, operands and control words, and a reservation held. -/
def matPairs : List (Nat × Word) := [(0, 0x966#32), (1, 1#32), (2, 0#32), (3, 4#32), (4, 64#32), (5, 4#32), (6, 0x10000#32), (7, 0xFFFFFFFF#32),
  (8, 0#32), (9, 16#32), (10, 0xFFFFFFFF#32), (11, 0#32), (12, 16#32), (13, 0#32), (14, 6#32), (15, 1#32), (16, 0#32), (17, 0xFFFFFFFF#32)]
def modeWord : Nat := 0x100000966
def matrix : State := (State.reset.withFetchWord 32 (0x3C * 2 ^ 26)).modGroup 0 fun g =>
  withS matPairs { g with mat := { g.mat with mode := modeWord, issueMode := modeWord, pal := (g.mat.pal.set 1 ⟨true, 0, 4, 0, 1, 6⟩) } }
def queued (q : List MatEntry) : State := matrix.modGroup 0 fun g => { g with mat := { g.mat with queue := q } }
theorem witness_BeadOperations : let room (g : Group) : Prop := g.asy.cnt.length = 4 ∧ g.asy.cnt.getD 1 0 < 63
    Meets ⟨.matrix, 1, [matPair 0#8]⟩ (fun _ _ g => modeLegal (pairAt g 0) = true ∧ modeK (pairAt g 0) ≠ none ∧ room g) ∧
    Meets ⟨.matrix, 1, [matEither 1#8, matEither 2#8]⟩ (fun s _ g => (g.matSrcOk g.mat.issueMode 1 false = true ∧ g.matSrcOk g.mat.issueMode 2 true = true ∧
      (s.block g.id.block).matCellOk g.mat.issueMode (pairAt g 1) false = true ∧ (s.block g.id.block).matCellOk g.mat.issueMode (pairAt g 2) true = true) ∧ room g) ∧
    Meets ⟨.matrix, 1, []⟩ (fun _ _ g => room g) ∧
    Meets ⟨.matrix, 1, [matPair 5#8]⟩ (fun _ _ g => room g ∧ (g.sreg 10).toNat = 0xFFFFFFFF) ∧
    Meets ⟨.matrix, 1, [matPair 6#8]⟩ (fun s _ g => room g ∧ (g.sreg 12).toNat ≠ 0xFFFFFFFF ∧ (g.sreg 12).toNat % 16 = 0 ∧
      (s.block g.id.block).segOk (g.sreg 12).toNat 16 = true ∧ (s.bobj g.id.block g.loc.cell (g.sreg 12).toNat).flight < 65535) :=
  ⟨meets matrix (by decide +kernel) (by decide +kernel), meets matrix (by decide +kernel) (by decide +kernel), meets matrix (by decide +kernel) (by decide +kernel),
    meets matrix (by decide +kernel) (by decide +kernel), meets matrix (by decide +kernel) (by decide +kernel)⟩

theorem witness_PaletteAndBoardOperations : let room (g : Group) : Prop := g.asy.cnt.length = 4 ∧ g.asy.cnt.getD 1 0 < 63
    let fit (g : Group) : Prop := (g.palRec 0).held = false ∧ g.mat.pal.length = 16 ∧ palLegal 0 6 = true ∧ palLen 6 1 ≤ 256 ∧ (g.sreg 14).toNat = 6 ∧ (g.sreg 15).toNat = 1
    Meets ⟨.matrix, 1, [matPal 0#6, matPair 7#8]⟩ (fun s _ g => fit g ∧ ((s.quadOf g).bind fun q => q.palFree (palLen 6 1)) = none) ∧
    (∃ u q, Meets ⟨.matrix, 1, [matPal 0#6, matPair 7#8]⟩ (fun s _ g => fit g ∧ s.quadOf g = some q ∧ q.palFree (palLen 6 1) = some u)) ∧
    Meets ⟨.matrix, 1, [matPal 1#6, matPair 1#8, matPair 3#8]⟩ (fun s _ g => (g.palRec 1).held = true ∧ (g.palRec 1).raw = false ∧ cellLegal (pairAt g 1) = true ∧
      0 < (g.sreg 6).toNat / 65536 ∧ (g.sreg 6).toNat % 65536 + (g.sreg 6).toNat / 65536 ≤ (g.palRec 1).kcap ∧
      (s.block g.id.block).rowsOk (pairAt g 1) 0 ((g.sreg 6).toNat / 65536) (g.palRec 1).rows (g.palRec 1).w = true ∧ (g.sreg 7).toNat = 0xFFFFFFFF ∧ room g) ∧
    Meets ⟨.matrix, 1, [matPal 1#6, matPair 4#8, matPair 8#8]⟩ (fun s _ g => (g.palRec 1).held = true ∧ (g.sreg 8).toNat % 16 = 0 ∧ (g.sreg 9).toNat % 16 = 0 ∧ 0 < (g.sreg 9).toNat ∧
      (g.sreg 16).toNat % 16 = 0 ∧ (g.sreg 16).toNat + (g.sreg 9).toNat ≤ (g.palRec 1).len * 256 ∧ (s.block g.id.block).segOk (g.sreg 8).toNat (g.sreg 9).toNat = true ∧
      (g.sreg 17).toNat = 0xFFFFFFFF ∧ room g) ∧
    Meets ⟨.matrix, 1, [matPal 15#6]⟩ (fun _ _ g => g.mat.pal.length = 16 ∧ room g) ∧
    Meets ⟨.matrix, 1, [matPair 1#8, matPair 8#8]⟩ (fun s _ g => cellLegal (pairAt g 1) = true ∧ cellTpitch (pairAt g 1) = 0 ∧ ctlWidth (pairAt g 8) ≤ cellRpitch (pairAt g 1) ∧
      ctlLegal (pairAt g 8) = true ∧ (s.block g.id.block).rowsOk (pairAt g 1) 0 1 (ctlRows (pairAt g 8)) (ctlWidth (pairAt g 8)) = true ∧
      s.drainTraps g (pairAt g 1) (pairAt g 8) = false ∧ ctlObj (pairAt g 8) = 0xFFFFFFFF ∧ room g) ∧
    Meets ⟨.matrix, 1, [matPair 1#8]⟩ (fun s _ g => cellLegal (pairAt g 1) = true ∧ cellTpitch (pairAt g 1) = 0 ∧ (s.block g.id.block).rowsOk (pairAt g 1) 0 1 16 32 = true ∧ room g) ∧
    Meets ⟨.matrix, 1, [.cond (decide (1 ≤ 1 ∧ 63 + 1 ≤ 64)) 1]⟩ (fun _ _ g => room g) :=
  ⟨meets (matrix.modQuad 0 0 fun q => { q with palUnits := [(0, 256)] }) (by decide +kernel) (by decide +kernel),
    ⟨0, matrix.quadAt 0 0, meets matrix (by decide +kernel) (by decide +kernel)⟩, meets matrix (by decide +kernel) (by decide +kernel),
    meets matrix (by decide +kernel) (by decide +kernel), meets matrix (by decide +kernel) (by decide +kernel), meets matrix (by decide +kernel) (by decide +kernel),
    meets matrix (by decide +kernel) (by decide +kernel), meets matrix (by decide +kernel) (by decide +kernel)⟩

/-- The base state with its group's status and place in a wait set. -/
def ctl (f : GCtl → GCtl) (s : State := base) : State := s.modGroup 0 fun g => g.withCtl f
theorem witness_TimersWakesAndArbitration : let here (s : State) : Prop := 0 < s.groups.length
    MeetsE (fun s => here s ∧ (s.group 0).ctl.status = .held ∧ watchdogClocks ≤ (s.group 0).ctl.heldClocks ∧ (s.group 0).trap.callee = none ∧
      (s.group 0).inGate = false ∧ (s.group 0).id.block < s.blocks.length) ∧
    (∃ l, MeetsE (fun s => here s ∧ l ∈ (s.group 0).asy.gates ∧ l.start + 1024 * l.budget ≤ s.cyc (s.group 0).loc.cell ∧ (s.group 0).trap.callee = none)) ∧
    MeetsE (fun s => here s ∧ (s.group 0).ctl.status = .blocked (.sleep 0 true false) ∧ 0 ≤ s.cyc (s.group 0).loc.cell ∧
      ∀ o ∈ (s.group 0).asy.ops, o.cls = 0 → o.promise ≤ 0 → o.done = true) ∧
    (∃ m, MeetsE (fun s => here s ∧ s.hub.save = none ∧ (s.group 0).ctl.status = .blocked .waitc ∧ m ∈ (s.group 0).mons ∧ m.matched = true)) ∧
    (∃ m, MeetsE (fun s => here s ∧ s.hub.save = none ∧ (s.group 0).ctl.status = .blocked .waitc ∧ m ∈ (s.group 0).mons ∧ m.polled = true ∧
      monCond m.cond (if m.wide then 64 else 32) m.value (s.mem.value m.pa (if m.wide then 8 else 4)) = true)) ∧
    MeetsE (fun s => here s ∧ s.hub.save = none ∧ (s.group 0).ctl.status = .blocked .yield) ∧
    MeetsE (fun s => here s ∧ s.hub.save = none ∧ (s.group 0).ctl.status = .blocked (.cnt 0 0) ∧ (s.group 0).ctl.wakeHit = true) ∧
    (∃ w, MeetsE (fun s => s.chosen 0 0 = some w)) :=
  ⟨meetsE (ctl fun c => { c with status := .held, heldClocks := watchdogClocks }) (by decide +kernel) (by decide +kernel),
    ⟨⟨0, true, 0, 0, 0, 0, 0#32, 0, 0, 0, 0, 0, 0#64, []⟩, meetsE (grp fun g => { g with asy := { g.asy with gates := [⟨0, true, 0, 0, 0, 0, 0#32, 0, 0, 0, 0, 0, 0#64, []⟩] } })
      (by decide +kernel) (by decide +kernel)⟩,
    meetsE (ctl fun c => { c with status := .blocked (.sleep 0 true false) }) (by decide +kernel) (by decide +kernel),
    ⟨⟨0x20000, false, 0, 0, true, false⟩, meetsE (grp (fun g => { g with mons := [⟨0x20000, false, 0, 0, true, false⟩] }) (ctl fun c => { c with status := .blocked .waitc }))
      (by decide +kernel) (by decide +kernel)⟩,
    ⟨⟨0x20000, true, 0, 0, false, true⟩, meetsE (grp (fun g => { g with mons := [⟨0x20000, true, 0, 0, false, true⟩] }) (ctl fun c => { c with status := .blocked .waitc }))
      (by decide +kernel) (by decide +kernel)⟩,
    meetsE (ctl fun c => { c with status := .blocked .yield }) (by decide +kernel) (by decide +kernel),
    meetsE (ctl fun c => { c with status := .blocked (.cnt 0 0), wakeHit := true }) (by decide +kernel) (by decide +kernel),
    ⟨0, meetsE (ctl fun c => { c with status := .ready }) (by decide +kernel) (by decide +kernel)⟩⟩
theorem witness_LandingsFillsAndDrains_1 :
    let here (s : State) : Prop := 0 < s.groups.length
    (∃ p, MeetsE (fun s => here s ∧ (s.group 0).regs.pend[0]? = some p ∧ p.ready = true ∧ (s.group 0).ctl.live ≠ 0#32 ∧ p.regs.Nodup ∧
      (∀ r ∈ p.regs, ((s.group 0).vreg r).tag = 0) ∧ ((s.group 0).widest p.regs).usage ≤ (s.group 0).entryBudget ∧
      (p.uniform = true → ∀ l m, p.lanes.has l = true → p.lanes.has m = true → p.vals.getD l [] = p.vals.getD m []))) :=
  ⟨⟨[111], List.replicate 32 [5#32], 0xFFFFFFFF#32, false, true, .plain, none⟩, meetsE (grp fun g => g.withRegs fun r => { r with
      pend := [⟨[111], List.replicate 32 [5#32], 0xFFFFFFFF#32, false, true, .plain, none⟩] }) (by decide +kernel)
      ⟨by decide +kernel, by decide +kernel, by decide +kernel, by decide +kernel, by decide +kernel, by decide +kernel, by decide +kernel, fun h => by cases h⟩⟩
theorem witness_LandingsFillsAndDrains_2 :
    let here (s : State) : Prop := 0 < s.groups.length
    MeetsE (fun s => here s ∧ (s.group 0).ctl.status = .blocked (.fill [1024]) ∧ s.hasWays (s.group 0) ([1024].map (128 * ·))) :=
  meetsE (ctl fun c => { c with status := .blocked (.fill [1024]) }) (by decide +kernel) ⟨by decide +kernel, by decide +kernel, hasWays_of (by decide +kernel)⟩
theorem witness_LandingsFillsAndDrains_3 :
    let here (s : State) : Prop := 0 < s.groups.length
    MeetsE (fun s => here s ∧ FifoEntry.marker 0 ∈ (s.window (s.partOf (s.group 0)) (s.group 0).loc.cell).fifo ∧
      linesAhead 0 (s.window (s.partOf (s.group 0)) (s.group 0).loc.cell).fifo = [1024] ∧ ∀ a ∈ s.atoms, a.group = 0 → a.reply ≠ none) :=
  meetsE (let s := lined base; s.setWindow { s.window 0 0 with fifo := [.line 1024, .marker 0] }) (by decide +kernel) (by decide +kernel)
theorem witness_LandingsFillsAndDrains_4 :
    let here (s : State) : Prop := 0 < s.groups.length
    MeetsE (fun s => here s ∧ (s.group 0).regs.pend = [] ∧ (s.group 0).ctl.status = .endedTail ∧ s.groupQuiet 0 = true) :=
  meetsE (ctl fun c => { c with status := .endedTail }) (by decide +kernel) (by decide +kernel)
theorem witness_LandingsFillsAndDrains_5 :
    let here (s : State) : Prop := 0 < s.groups.length
    MeetsE (fun s => here s ∧ (s.group 0).ctl.status = .tracked ∧ s.groupQuiet 0 = true) :=
  meetsE (ctl fun c => { c with status := .tracked }) (by decide +kernel) (by decide +kernel)
/-- A miss of context 0 that has its pane's first walker. -/
def walking : State := gated.modPane 0 fun p => { p with walks := [⟨0, 0, 0, 0x200000⟩] }
theorem witness_LandingsFillsAndDrains_6 :
    (∃ e p, MeetsE (fun s => s.panes[0]? = some p ∧ (⟨0, 0, 0, 0x200000⟩ : Walk) ∈ p.walks.take 16 ∧
      s.tlb1 0 0 (s.ctxFunc 0) (s.ctx 0).asid 0x200000 = none ∧ s.tlb2 0 (s.ctxFunc 0) (s.ctx 0).asid 0x200000 = none ∧
      s.walk1 (s.ctxFunc 0) 0x200000 4 (s.ctx 0).s1root 0 = .ok e ∧ (∃ x, s.cells[0]? = some x ∧ 0 < x.quads.length) ∧
      (s.quadAt 0 0).tlb.length < 64 ∧ (p.tlb.filter fun x => x.set == ({ e with asid := (s.ctx 0).asid } : TlbEntry).set).length < 8)) :=
  ⟨(walking.walk1 0 0x200000 4 0x100000 0).toOption.getD page, walking.panes.getD 0 Pane.reset, meetsE walking (by decide +kernel)
    ⟨by decide +kernel, by decide +kernel, by decide +kernel, by decide +kernel, by decide +kernel,
      ⟨walking.cells.getD 0 Cell.reset, by decide +kernel⟩, by decide +kernel, by decide +kernel⟩⟩

def sent (r : AtomReq) : State := { base with atoms := [r] }
def hodReq : HodReq := ⟨0, 0, 0, hodBytes, 0, none, 64⟩
theorem witness_RequestsCarriedOut_1 :
    (∃ r, MeetsE (fun s => s.atoms[0]? = some r ∧ s.atomNext 0 = true ∧ s.memPoison.hit r.pa (if r.wide then 8 else 4) = none)) :=
  ⟨⟨0, 0, none, 1, true, 0x20000, 5, 0, 0, none, true⟩, meetsE (sent ⟨0, 0, none, 1, true, 0x20000, 5, 0, 0, none, true⟩) (by decide +kernel) (by decide +kernel)⟩
theorem witness_RequestsCarriedOut_2 :
    (∃ r, MeetsE (fun s => s.atoms[0]? = some r ∧ r.slot = some 7 ∧ r.reply = some 9 ∧ r.group < s.groups.length ∧
      (s.group r.group).ctl.status ≠ .free ∧ (s.group r.group).ctl.status ≠ .tracked)) :=
  ⟨⟨0, 31, some 7, 1, true, 0x20000, 5, 0, 0, some 9, true⟩, meetsE (sent ⟨0, 31, some 7, 1, true, 0x20000, 5, 0, 0, some 9, true⟩) (by decide +kernel) (by decide +kernel)⟩
theorem witness_RequestsCarriedOut_3 :
    MeetsE (fun s => let g := s.group 0; let d := HodDesc.parse hodBytes; let bl := s.block g.id.block
      (hodQueue s 0 0)[0]? = some hodReq ∧ s.boundsOf g.id.ctx = [] ∧ bl.fdom ≠ .rollback ∧ d.srcSeg = true ∧ d.dstSeg = true ∧ d.dims = 1 ∧
      bl.segOk d.src (d.n.getD 0 0 * d.esz) = true ∧ bl.segOk d.dst (d.n.getD 0 0 * d.esz) = true ∧
      (d.src + d.n.getD 0 0 * d.esz ≤ d.dst ∨ d.dst + d.n.getD 0 0 * d.esz ≤ d.src)) :=
  meetsE (hodState.modQuad 0 0 fun q => { q with hod := [hodReq] }) (by decide +kernel) (by decide +kernel)
theorem witness_RequestsCarriedOut_4 :
    (∃ x, MeetsE (fun s => s.msgs[0]? = some x ∧ x.granted = true ∧ (s.block (s.group x.group).id.block).fdom ≠ .rollback ∧ (∀ y ∈ s.msgs.take 0, y.group = x.group → y.dest ≠ x.dest) ∧
      (s.window (s.ctx x.msg.ctx).part x.dest).msgs.length < 64 * (s.heldQuads (s.ctx x.msg.ctx).part x.dest).length)) :=
  ⟨⟨0, 0, 0, message, true⟩, meetsE { base with msgs := [⟨0, 0, 0, message, true⟩] } (by decide +kernel) (by decide +kernel)⟩

def entryOf (op : MatOp) (k : Nat := 0) : MatEntry := ⟨op, 0, 0, 0, 0, k⟩
def mma : MatEntry := entryOf (.mma true 63 (.cell (2 ^ 34)) (.cell (2 ^ 34 + 64)))
theorem witness_MatrixEngine_1 : MeetsE (fun s => 0 < s.groups.length ∧ s.engineRuns 0 = true ∧ s.beadTurn 0 = true ∧ (s.group 0).mat.queue = [mma] ∧
    mma.kdone < modeKsteps (s.group 0).mat.mode ∧ (s.group 0).mat.mode = modeWord ∧ s.quadOf (s.group 0) = some (matrix.quadAt 0 0) ∧
    (matrix.quadAt 0 0).boardPoison = [] ∧ (s.window (s.block (s.group 0).id.block).part (s.group 0).loc.cell).poison = []) :=
  meetsE (queued [mma]) (by decide +kernel) (by decide +kernel)
theorem witness_MatrixEngine_2 : modeFmt modeWord false = 6 ∧ modeFmt modeWord true = 6 ∧ modeAcc modeWord = 9 ∧ modeSfmt modeWord false = 0 ∧
    modeSfmt modeWord true = 0 := by decide +kernel
def matOps : List MatOp := [.mode modeWord, .zero 63, .clear 0 64, .scale 1 0x40000000, .load 2 (2 ^ 34), .fillK ⟨true, 0, 4, 0, 1, 6⟩ 0 16 0 0xFFFFFFFF,
  .release (some 0)]
theorem witness_MatrixEngine_3 : ∀ op ∈ matOps, MeetsE (fun s => 0 < s.groups.length ∧ s.engineRuns 0 = true ∧ s.beadTurn 0 = true ∧ (s.group 0).mat.queue = [entryOf op] ∧
    s.quadOf (s.group 0) = some (matrix.quadAt 0 0) ∧ (matrix.quadAt 0 0).boardPoison = []) := by
  have h : ∀ op ∈ matOps, (queued [entryOf op]).canonical = true ∧ 0 < (queued [entryOf op]).groups.length ∧ (queued [entryOf op]).engineRuns 0 = true ∧
      (queued [entryOf op]).beadTurn 0 = true ∧
      ((queued [entryOf op]).group 0).mat.queue = [entryOf op] ∧ (queued [entryOf op]).quadOf ((queued [entryOf op]).group 0) = some (matrix.quadAt 0 0) ∧
      (matrix.quadAt 0 0).boardPoison = [] := by decide +kernel
  exact fun op hop => ⟨queued [entryOf op], (h op hop).1, (h op hop).2⟩

def passed (p : Pass) : State := { base with passes := [p] }
def flushing : Pass := { pass0 with render := some 1, tiles := [⟨0, 1, none, some (0, 4096), false, [], true, false⟩] }
def closing : Pass := { pass0 with closed := true }
def small : Pass := { pass0 with raw := leBytes 2 1 ++ leBytes 2 1 ++ [0#8, 2#8, 0#8, 0#8] ++ passRaw.drop 8, closed := true, tiles := [⟨0, 0, none, some (0, 4096), false, [], true, false⟩] }
def texReq : TexReq := ⟨0, 0, 1, false, 0, 1, 0x30000, 1#32, 1#32, List.replicate 32 0#32, List.replicate 32 0#32, List.replicate 32 0#32, [], true⟩
def texBytes : List Byte := leBytes 8 0x31000 ++ leBytes 2 1 ++ leBytes 2 1 ++ [1#8, 5#8, 0#8, 0#8] ++ List.replicate 16 0#8
def textured : State := { base with texs := [texReq], mem := base.mem.put 0x30000 texBytes }
def traceReq : TraceReq := ⟨0, 0, 0, 0x30000, false, false, [(31, .done 1#32 2#32 3#32 4#32)], none, [], [], true⟩
def ref0 : ContRef := ⟨0, 0, 0, 3, 0x20000, [4, 5], 0#64, 0, 0⟩
def entry0 (t : Nat) (rdy : Bool) : IndexEntry := ⟨0, 0, t, 0x10040#64, 0#32, false, false, none, 0#32, rdy, 0, 0, []⟩
def indexed (es : List IndexEntry) (s : State := base) : State := s.modCell 0 fun c => { c with index := es }
theorem witness_GraphicsUnits_1 :
    MeetsE (fun s => s.passes[0]? = some { pass0 with starved := true } ∧ pass0.render = none ∧ pass0.closed = false) :=
  meetsE (passed { pass0 with starved := true }) (by decide +kernel) (by decide +kernel)
theorem witness_GraphicsUnits_2 :
    (∃ p c, MeetsE (fun s => s.passes[0]? = some p ∧ (p.tile 0).cur = some c ∧ (1 ∈ c.halves → p.discard = true) ∧ s.ticketBound c.id = false)) :=
  ⟨pass1 [2, 2], ticket [2, 2], meetsE (passed (pass1 [2, 2])) (by decide +kernel) (by decide +kernel)⟩
theorem witness_GraphicsUnits_3 :
    (∃ p, MeetsE (fun s => s.passes[0]? = some p ∧ (p.tile 0).mem = some (0, 4096) ∧ p.render ≠ none ∧ p.closed = false ∧ (p.tile 0).cur = none ∧ p.nextPrim 0 = none)) :=
  ⟨flushing, meetsE (passed flushing) (by decide +kernel) (by decide +kernel)⟩
theorem witness_GraphicsUnits_4 :
    (∃ p, MeetsE (fun s => s.passes[0]? = some p ∧ p.closed = true ∧ 3 < p.tw * p.th ∧ (p.tile 3).stored = false ∧ (p.tile 3).cur = none ∧ p.nextPrim 3 = none)) :=
  ⟨closing, meetsE (passed closing) (by decide +kernel) (by decide +kernel)⟩
theorem witness_GraphicsUnits_5 :
    (∃ pa, MeetsE (fun s => let p := small
      s.passes[0]? = some p ∧ p.closed = true ∧ p.w = 1 ∧ p.h = 1 ∧ p.samples = 1 ∧ 0 < p.tw * p.th ∧ (p.tile 0).stored = false ∧ (p.tile 0).cur = none ∧
      p.nextPrim 0 = none ∧ (p.tile 0).mem = some (0, 4096) ∧ (p.tile 0).touched = true ∧ p.flag 2 = false ∧ (s.window (s.passPart p) 0).poison = [] ∧
      p.field 0x20 8 % 4096 + p.pixBytes ≤ 4096 ∧ s.screedX p true (p.field 0x20 8) = .ok pa)) :=
  ⟨0x30000, meetsE { gated with passes := [small] } (by decide +kernel) (by decide +kernel)⟩
theorem witness_GraphicsUnits_6 :
    MeetsE (fun s => s.texs[0]? = some texReq ∧ texReq.granted = true ∧ texReq.cont = [] ∧ texReq.group < s.groups.length ∧
      (s.block (s.group texReq.group).id.block).fdom ≠ .rollback ∧
      (∃ m, s.texRead (s.group texReq.group) 2 texReq.desc 32 = .ok (texBytes, m) ∧ m.poison = none) ∧ textureOk texBytes = true ∧
      ∀ l ∈ texReq.lanes.toList, (s.texLane (s.group texReq.group) texReq (Texture.parse texBytes) l).2.fault = none ∧
        (s.texLane (s.group texReq.group) texReq (Texture.parse texBytes) l).2.met.poison = none) :=
  meetsE textured (by decide +kernel) ⟨by decide +kernel, by decide +kernel, by decide +kernel, by decide +kernel, by decide +kernel,
    ⟨_, by rfl, by decide +kernel⟩, by decide +kernel, by decide +kernel⟩
theorem witness_GraphicsUnits_7 :
    (∃ r, MeetsE (fun s => s.traces[0]? = some r ∧ r.granted = true ∧ r.cont = [] ∧ r.group < s.groups.length ∧ (s.block (s.group r.group).id.block).fdom ≠ .rollback ∧ (r.lanes.map (·.1)).Nodup ∧ r.lanes ≠ [] ∧
      ∀ x ∈ r.lanes, ∃ a b c d m, s.traceLane (s.group r.group) r x.2 = (TravLane.done a b c d, none, none, m) ∧ m.poison = none)) :=
  ⟨traceReq, meetsE { base with traces := [traceReq] } (by decide +kernel)
      ⟨by decide +kernel, by decide +kernel, by decide +kernel, by decide +kernel, by decide +kernel, by decide +kernel, by decide +kernel,
        fun x hx => ⟨1#32, 2#32, 3#32, 4#32, .none, by rw [List.mem_singleton.mp hx]; rfl, rfl⟩⟩⟩
theorem witness_GraphicsUnits_8 :
    MeetsE (fun s => let g := s.group ref0.group
      s.contWrites[0]? = some ⟨ref0, [1#32, 2#32], true⟩ ∧ s.inRecord ref0 = true ∧ ref0.base + 128 * 36 ≤ 2 ^ 48 ∧ page.w = true ∧ (g.id.sys = true ∨ page.u = true) ∧
      ∀ j, j < 36 → s.tlbLookup g.loc.cell g.loc.quad (s.ctxFunc g.id.ctx) (s.ctx g.id.ctx).asid (ref0.base + 128 * j) = some page) :=
  meetsE { indexed [entry0 3 false] with contWrites := [⟨ref0, [1#32, 2#32], true⟩] } (by decide +kernel) (by decide +kernel)
theorem witness_GraphicsUnits_9 :
    (∃ c b r, MeetsE (fun s => s.hub.save = none ∧ s.cells[0]? = some c ∧ c.index ≠ [] ∧ (∀ x ∈ c.index, x.bucket = b) ∧
      s.bucketDue 0 c.index b.block = true ∧ (s.block b.block).resident = true ∧ s.regions[(s.block b.block).region]? = some r ∧ readyUnits b.quad c.index ≠ [] ∧
      ∃ p, s.placeOne (((List.range 4).filter fun q => s.eligible r 0 q).map fun q => (0, q)) s.room
        ⟨(r.segs.getD b.seg ⟨false, .general, 0, 0, 0, 0#64⟩).entries, false, some 0, []⟩ = some p)) :=
  ⟨(indexed [entry0 3 true, entry0 31 true]).cells.getD 0 Cell.reset, (entry0 3 true).bucket, (base.regions.getD 0 (fetchRegion false)),
      meetsE (ctl (fun c => { c with status := .blocked .waitc }) (indexed [entry0 3 true, entry0 31 true])) (by decide +kernel)
        ⟨by decide +kernel, by decide +kernel, by decide +kernel, by decide +kernel, by decide +kernel, by decide +kernel, by decide +kernel, by decide +kernel,
          some_of_isSome (by decide +kernel)⟩⟩

/-! ### Witnesses: the scheduler, the hub and the host -/

theorem two_of_isSome {α β : Type} {x : Option α} {f : α → Option β} (h : (x.bind f).isSome = true) : ∃ a b, x = some a ∧ f a = some b := by
  cases x with
  | none => cases h
  | some a => obtain ⟨b, hb⟩ := Option.isSome_iff_exists.mp h; exact ⟨a, b, rfl, hb⟩

/-- Memory stands behind every address of the first 16 GiB, whichever channels are fitted. -/
theorem dataEnd_ge : 2 ^ 34 ≤ dataEnd := by
  unfold dataEnd Config.dramGroups Config.channelBytes
  split_ifs <;> norm_num

def reg (f : Region → Region) (s : State := base) : State := s.modRegion 0 f
def hub (f : Hub → Hub) (s : State := base) : State := s.withHub f
def region0 : Region := fetchRegion false
def wider : Region := { region0 with grid := 2, privPool := 0x100000, privPoolLen := 0x100000 }
theorem witness_SchedulerSteps_place : MeetsE (fun s => ∃ pl pool, s.hub.save = none ∧ s.waitList 0 = ⟨0, none⟩ :: [] ∧ s.regions[0]? = some wider ∧
    wider.gang = false ∧ s.plan 0 wider (fun c q => s.eligible wider c q && !([] : List (Nat × Nat)).contains (c, q)) s.room wider.ask = some pl ∧
    s.takePool wider pl.cells.length = some pool) :=
  meetsE (reg fun _ => wider) (by decide +kernel) (by
    obtain ⟨a, b, h1, h2⟩ := two_of_isSome (show ((State.plan (reg fun _ => wider) 0 wider (fun c q => State.eligible (reg fun _ => wider) wider c q &&
      !([] : List (Nat × Nat)).contains (c, q)) (State.room (reg fun _ => wider)) wider.ask).bind fun pl =>
        State.takePool (reg fun _ => wider) wider pl.cells.length).isSome = true by decide +kernel)
    exact ⟨a, b, by decide +kernel, by decide +kernel, by decide +kernel, by decide +kernel, h1, h2⟩)
theorem witness_SchedulerSteps_renew : MeetsE (fun s => s.regions[0]? = some { region0 with sliceEnded := [0] } ∧ s.waitsFor 0 0 false = false) :=
  meetsE (reg fun r => { r with sliceEnded := [0] }) (by decide +kernel) (by decide +kernel)
/-- A second region waits, with nothing free in the storage of the cell but what the first one's block holds. -/
def crowded : State := let s := blk fun b => { b with segBase := [0] }
  { s.setWindow { s.window 0 0 with allocs := [(0, 2 ^ 22)] } with
    regions := [region0, { region0 with nextBlock := 0, privPool := 0x100000, privPoolLen := 0x100000 }] }
theorem witness_SchedulerSteps_slice : MeetsE (fun s => s.regions[0]? = some region0 ∧ 0 ∉ region0.sliceEnded ∧ region0.slice ≤ region0.chargeOn 0 ∧
    s.waitsFor 0 0 false = true ∧ (s.group 0).inSlot = true ∧ (s.block (s.group 0).id.block).region = 0 ∧ (s.block (s.group 0).id.block).resident = true ∧
    (s.group 0).id.block < s.blocks.length ∧ 0 ∈ (s.block (s.group 0).id.block).cells ∧ (s.group 0).ctl.status = .ready ∧ (s.group 0).ctl.sliceWait = false ∧
    (s.group 0).inGate = false) :=
  meetsE (crowded.modGroup 0 fun g => g.withCtl fun c => { c with status := .ready }) (by decide +kernel) (by decide +kernel)
theorem witness_SchedulerSteps_alone : MeetsE (fun s => s.regions[0]? = some region0 ∧ 0 ∉ region0.sliceEnded ∧ region0.slice ≤ region0.chargeOn 0 ∧
    s.waitsFor 0 0 false = false) := meetsE base (by decide +kernel) (by decide +kernel)
def leaving : State := (grp fun g => g.withCtl fun c => { c with status := .blocked .slice, sliceWait := true }).modRegion 0 fun r => { r with sliceEnded := [0] }
theorem witness_SchedulerSteps_evict : MeetsE (fun s => s.canEvict 0 = true ∧ s.together 0 = [0] ∧ 0 < s.blocks.length) :=
  meetsE leaving (by decide +kernel) (by decide +kernel)
theorem witness_SchedulerSteps_complete : MeetsE (fun s => s.regions[0]? = some region0 ∧ region0.complete = false ∧ s.regionEnded 0 = true ∧
    (∀ p ∈ s.passes, p.region ≠ 0) ∧ (∀ y ∈ s.regions, y.parent = some 0 → y.complete = true) ∧ s.writesDone 0 = true ∧ region0.doneAddr = 0#64 ∧ region0.doneIrq = false) :=
  meetsE (blk fun b => { b with retired := true }) (by decide +kernel) (by decide +kernel)
def kept : Shadow := ⟨[(0, base.group 0)], [(0, [(4, 5#8)])], [], [], [], 32, [], [], [0]⟩
theorem witness_SchedulerSteps_rollback : MeetsE (fun s => 0 < s.blocks.length ∧ (s.block 0).shadow = some kept ∧ (s.block 0).rollPending = true ∧ s.restorable 0 = true ∧
    (kept.segs.map (·.1)).Nodup ∧ (∀ x ∈ kept.segs, x.2.wf = true) ∧ (kept.groups.map (·.1)).Nodup ∧
    (∀ x ∈ kept.groups, x.1 < s.groups.length ∧ (s.group x.1).id.block = 0 ∧ ∀ v ∈ x.2.regs.v, v.tag = 0)) :=
  meetsE (blk fun b => { b with shadow := some kept, rollPending := true }) (by decide +kernel) (by decide +kernel)
def posted : HostFn := { base.hub.fn 0 with queue := [[], [(0, 0x31000)], [], []] }
theorem witness_SchedulerSteps_take : MeetsE (fun s => s.hub.fns[0]? = some posted ∧ posted.queue.getD 1 [] = (0, 0x31000) :: [] ∧ s.hub.save = none ∧
    (s.ctx 0).state ≠ 5 ∧ 1 < posted.queue.length) :=
  meetsE (hub fun h => { h with fns := h.fns.set 0 posted }) (by decide +kernel) (by decide +kernel)
def recarve (grow : Bool) (blocks : List Nat) : Recarve := ⟨0, 0, 2, grow, true, false, blocks, [], false⟩
theorem witness_SchedulerSteps_shrink : ∀ grow, MeetsE (fun s => s.hub.recarves[0]? = some (recarve grow []) ∧ s.left (recarve grow []) = true ∧
    (recarve grow []).fence = false ∧ (recarve grow []).cell < s.cells.length) := by
  intro grow
  exact meetsE (hub fun h => { h with recarves := [recarve grow []] }) (by cases grow <;> decide +kernel) (by cases grow <;> decide +kernel)
theorem witness_SchedulerSteps_deferred : MeetsE (fun s => s.hub.recarves[0]? = some (recarve true [0]) ∧ (recarve true [0]).deferred = true ∧
    (∀ b ∈ (recarve true [0]).blocks, b < s.blocks.length) ∧ (∃ b ∈ (recarve true [0]).blocks, s.leavesFor (recarve true [0]) b = true) ∧
    ∀ b ∈ (recarve true [0]).blocks, s.leavesFor (recarve true [0]) b = true → s.canEvict b = true) :=
  meetsE (hub (fun h => { h with recarves := [recarve true [0]] }) leaving) (by decide +kernel) (by decide +kernel)

theorem witness_ResetsBootAndHoldUp_resets : MeetsE (fun s => s.hub.save = none ∧ s.hub.ttCmd = none ∧ s.hub.dstate ≠ 2 ∧ s.hub.lost = false) :=
  meetsE base (by decide +kernel) (by decide +kernel)
theorem witness_ResetsBootAndHoldUp_loss : ∀ ready, MeetsE (fun s => s.hub.lost = false ∧ s.hub.ttCmd = none ∧ s.hub.ready = ready) := fun r =>
  meetsE (hub fun h => { h with ready := r }) (by cases r <;> decide +kernel) (by cases r <;> decide +kernel)
def saving (written : Bool) : Save := ⟨1, 5, [0], [], [⟨0, 0, 0, 0, false, false⟩], some [], true, written⟩
theorem witness_ResetsBootAndHoldUp_budget : MeetsE (fun s => s.hub.save = some (saving false) ∧ (saving false).handlers[0]? = some ⟨0, 0, 0, 0, false, false⟩ ∧
    s.handlerDone ⟨0, 0, 0, 0, false, false⟩ = false ∧ 0 ≤ s.hv ∧ 0 < s.groups.length) :=
  meetsE (hub fun h => { h with save := some (saving false) }) (by decide +kernel) (by decide +kernel)
theorem witness_ResetsBootAndHoldUp_saved : MeetsE (fun s => s.hub.save = some (saving false) ∧ (saving false).written = false ∧ (saving false).regions = some []) :=
  meetsE (hub fun h => { h with save := some (saving false) }) (by decide +kernel) (by decide +kernel)
theorem witness_ResetsBootAndHoldUp_boot : MeetsE (fun s => s.hub.boot = 2 ∧ bit 1 0 = true) ∧ MeetsE (fun s => s.hub.boot = 1 ∨ s.hub.boot = 3) :=
  ⟨meetsE (hub fun h => { h with boot := 2 }) (by decide +kernel) (by decide +kernel), meetsE (hub fun h => { h with boot := 3 }) (by decide +kernel) (by decide +kernel)⟩

theorem witness_PowerAndClamp_commands : MeetsE (fun s => s.hub.power.cmd = none ∧ s.hub.dstate = 0 ∧ s.hub.save = none ∧ bits 0 23 20 ≠ 2) ∧
    MeetsE (fun s => s.hub.power.cmd ≠ none) :=
  ⟨meetsE base (by decide +kernel) (by decide +kernel), meetsE (hub fun h => { h with power := ⟨some 0, false, 0, 0⟩ }) (by decide +kernel) (by decide +kernel)⟩
/-- POWER_CMD's word for logical cell 31 or pane 3 with a target and a level. -/
def powerWord (kind n tgt lvl : Nat) : Nat := kind * 2 ^ 30 + n * 2 ^ 24 + tgt * 2 ^ 20 + lvl * 2 ^ 17
theorem witness_PowerAndClamp_cell : MeetsE (fun s => let v := powerWord 0 31 0 5
    s.hub.power.cmd = some v ∧ bits v 31 30 = 0 ∧ bit v 16 = false ∧ bits v 23 20 = 0 ∧ bits v 29 24 = 31 ∧ bits v 19 17 ≤ 5 ∧
    s.hub.inService 31 = true ∧ s.cells[31]? = some Cell.reset ∧ s.panes[3]? = some { Pane.reset with power := .on } ∧ paneOf 31 = 3 ∧ s.hub.dstate = 0 ∧
    Cell.reset.power = .off ∧ s.hub.clamp.on = false) :=
  meetsE (hub (fun h => { h with power := ⟨some (powerWord 0 31 0 5), false, 0, 0⟩ }) (base.modPane 3 fun p => { p with power := .on })) (by decide +kernel) (by decide +kernel)
theorem witness_PowerAndClamp_pane : MeetsE (fun s => let v := powerWord 1 3 0 0
    s.hub.power.cmd = some v ∧ bits v 31 30 = 1 ∧ bits v 29 24 < 4 ∧ bits v 23 20 ≤ 2 ∧ s.hub.dstate = 0 ∧ s.paneMove true 0 3 = 0 ∧ 3 < s.panes.length) ∧
    MeetsE (fun s => let v := powerWord 1 0 2 0
    s.hub.power.cmd = some v ∧ bits v 31 30 = 1 ∧ bits v 29 24 < 4 ∧ bits v 23 20 ≤ 2 ∧ s.hub.dstate = 0 ∧ s.paneMove true 2 0 ≠ 0) :=
  ⟨meetsE (hub fun h => { h with power := ⟨some (powerWord 1 3 0 0), false, 0, 0⟩ }) (by decide +kernel) (by decide +kernel),
    meetsE (hub fun h => { h with power := ⟨some (powerWord 1 0 2 0), false, 0, 0⟩ }) (by decide +kernel) (by decide +kernel)⟩
def clamped (causes : List ClampCause) : State := hub fun h => { h with clamp := { h.clamp with causes := causes, tops := [5, 5, 5, 5] } }
/-- Two causes on pane 0: one that holds, and one whose condition has cleared. -/
def twoCauses : List ClampCause := [⟨0, 1, 5, true⟩, ⟨1, 1, 6, false⟩]
theorem witness_PowerAndClamp_clamp : MeetsE (fun s => s.hub.clamp.on = false) ∧
    MeetsE (fun s => s.hub.clamp.causes[0]? = some ⟨0, 1, 5, true⟩ ∧ 0 ∈ s.hub.cellsIn 1) ∧
    MeetsE (fun s => s.hub.clamp.causes[0]? = some ⟨0, 1, 0, true⟩ ∧ s.hub.clamp.steps 0 = 0 ∧ 0 ∈ s.hub.cellsIn 1) ∧
    MeetsE (fun s => s.hub.clamp.active = true ∧ s.hub.clamp.causes.length = 1) ∧
    MeetsE (fun s => s.hub.clamp.active = false) ∧
    MeetsE (fun s => bit 1 0 = true ∧ s.hub.clamp.active = false ∧ 0 ∈ s.hub.cellsIn s.hub.clamp.panes) :=
  ⟨meetsE base (by decide +kernel) (by decide +kernel), meetsE (clamped twoCauses) (by decide +kernel) (by decide +kernel),
    meetsE (clamped [⟨0, 1, 0, true⟩]) (by decide +kernel) (by decide +kernel),
    meetsE (clamped [⟨0, 1, 0, true⟩]) (by decide +kernel) (by decide +kernel),
    meetsE base (by decide +kernel) (by decide +kernel),
    meetsE (clamped [⟨1, 1, 6, false⟩]) (by decide +kernel) (by decide +kernel)⟩
theorem witness_PowerAndClamp_link : linkOk 4 8 6 = true ∧ linkOk 0 1 1 = true ∧ linkOk 5 8 6 = false ∧ linkOk 0 3 6 = false ∧ linkOk 0 8 0 = false := by decide

/-- A POST value: the context, then the RCB's address in units of 256 bytes. -/
def postWord (c a : Nat) : Nat := c * 2 ^ 58 + a
def running : State := hub fun h => { h with boot := 4 }
theorem witness_HostRequests_post : MeetsE (fun s => let v := postWord 0 0x31000
    s.answers 0 = true ∧ 3 < 4 ∧ 0 < s.hub.fns.length ∧ (s.hub.fn 0).queue.length = 4 ∧ (s.hub.fn 0).result.length = 4 ∧ ((s.hub.fn 0).queue.getD 3 []).length < 8 ∧
    s.owns 0 (bits v 63 58) = true ∧ bits v 57 48 = 0 ∧ s.hub.boot = 4 ∧ s.hub.dstate = 0 ∧ (s.ctx (bits v 63 58)).state ≠ 5 ∧ (s.hub.fn 0).latch.length = 4) :=
  meetsE running (by decide +kernel) (by decide +kernel)
def reached : TlbEntry := match (hub (fun h => { h with boot := 4 }) { gated with ctxs := gated.ctxs.set 1 { gated.ctx 1 with func := some 0 } }).xlate Config.cells 0 1 ⟨true, false, true⟩ 0x31000 with
  | .ok e => e
  | .error _ => page
theorem witness_HostRequests_resync : MeetsE (fun s => let v := postWord 1 0x31000
    s.answers 0 = true ∧ 3 < 4 ∧ 0 < s.hub.fns.length ∧ (s.hub.fn 0).result.length = 4 ∧ s.owns 0 (bits v 63 58) = true ∧
    bits v 57 48 = 0 ∧ bit v 8 = false ∧ bits v 47 8 * 256 % 4096 ≤ 3584 ∧ s.hub.boot = 4 ∧ s.hub.dstate = 0 ∧
    s.walkPoison (s.ctxFunc 1) (bits v 47 8 * 256) 4 (s.ctx 1).s1root 0 = false ∧
    s.xlate Config.cells 0 1 ⟨true, false, true⟩ (bits v 47 8 * 256) = .ok reached) :=
  meetsE (hub (fun h => { h with boot := 4 }) { gated with ctxs := gated.ctxs.set 1 { gated.ctx 1 with func := some 0 } }) (by decide +kernel) (by decide +kernel)
theorem witness_HostRequests_faultClear : ∀ a b : Bool, MeetsE (fun s => let v := 6
    s.hub.dclk = true ∧ (s.hub.lockstep = true → bit v 2 = true) ∧ (s.hub.coatfail = true → bit v 1 = true) ∧ s.hub.lockstep = a ∧ s.hub.coatfail = b) := fun a b =>
  meetsE (hub fun h => { h with dclk := true, lockstep := a, coatfail := b, faultN := true }) (by cases a <;> cases b <;> decide +kernel) (by cases a <;> cases b <;> decide +kernel)
theorem witness_HostRequests_rest : MeetsE (fun s => 8 < s.hub.seams.length ∧ bit 2 1 = true) ∧
    MeetsE (fun s => s.answers 0 = true ∧ s.hub.boot = 2) ∧ MeetsE (fun s => s.present 16 = false) ∧ MeetsE (fun s => s.hub.canClear false = true) ∧
    MeetsE (fun s => s.hub.canClear true = false) :=
  ⟨meetsE base (by decide +kernel) (by decide +kernel), meetsE (hub fun h => { h with boot := 2 }) (by decide +kernel) (by decide +kernel),
    meetsE base (by decide +kernel) (by decide +kernel), meetsE (hub fun h => { h with dclk := true }) (by decide +kernel) (by decide +kernel),
    meetsE (hub fun h => { h with lockstep := true }) (by decide +kernel) (by decide +kernel)⟩
def virtual : State := hub (fun h => { h with numVfs := 16 }) { base with funcs := base.funcs.set 16 ⟨true, false, 0, []⟩, ctxs := base.ctxs.set 63 { base.ctx 0 with func := some 16 } }
theorem witness_HostRequests_virtual : MeetsE (fun s => s.present 16 = true ∧ 16 < s.hub.fns.length ∧ s.owns 16 63 = true ∧ s.inUse 63 = true) ∧
    MeetsE (fun s => s.present 0 = true ∧ ∀ i, i < 4 → s.aperture 0 (0x30000 + i) = some (0x30000 + i)) :=
  ⟨meetsE { virtual with regions := [{ region0 with ctx := 63 }] } (by decide +kernel) (by decide +kernel), meetsE base (by decide +kernel) ⟨by decide +kernel, fun i hi => by
      have hb : ¬2 ^ base.barLog 0 ≤ 0x30000 + i := by
        rw [show base.barLog 0 = 30 by decide +kernel]; omega
      have hp : base.hub.pfApBase = 0 := by decide +kernel
      have h : 0x30000 + i < dataEnd := by have := dataEnd_ge; omega
      simp only [State.aperture, if_neg hb, if_true, hp, Nat.zero_mul, Nat.zero_add, if_pos h]⟩⟩
/-! ### Witnesses: partitions, displays, cameras and reliability -/

/-- A state with no partition, whose configuration table stands at 0x20000 in memory. -/
def configured : State := { State.reset with
  hub := { State.reset.hub with boot := 4, cfgBase := 0x20 }
  mem := ((List.range 64).foldl (fun m i => m.put (0x20680 + 64 * i) [0xFF#8]) (Mem.put (Mem.put [] 0x20000 [1#8]) 0x20044 [30#8])) }
theorem headOk_of {s : State} (h : fieldAt (s.homeRead (s.hub.cfgBase * 4096) 64) 0 2 = 1 ∧ zeroAt (s.homeRead (s.hub.cfgBase * 4096) 64) 4 60 = true)
    (ha : s.hub.cfgBase * 4096 + 0x1680 ≤ 2 ^ 34) : s.table = { s.table with headOk := true } := by
  have h2 : decide (s.hub.cfgBase * 4096 + 0x1680 ≤ dataEnd) = true := decide_eq_true (le_trans ha dataEnd_ge)
  simp only [State.table, h.1, h.2, h2, beq_self_eq_true, Bool.and_self]
theorem witness_PartitionsAndResetLadder_commit : MeetsE (fun s => (s.hub.part.cmd = none ∧ s.hub.boot = 4 ∧ s.hub.dstate ≠ 2) ∧ s.table.failing = none ∧ s.breaksUse s.table = false) :=
  meetsE configured (by decide +kernel) (by rw [headOk_of (by decide +kernel) (by decide +kernel)]; decide +kernel)
theorem witness_PartitionsAndResetLadder_fail : MeetsE (fun s => (s.hub.part.cmd = none ∧ s.hub.boot = 4 ∧ s.hub.dstate ≠ 2) ∧ s.table.failing = some 0 ∧ s.breaksUse s.table = false) :=
  meetsE { configured with mem := [] } (by decide +kernel) (by decide +kernel)
/-- PART_CMD's word: quadrants and cell. -/
def partWord (cell qmask : Nat) : Nat := cell * 2 ^ 11 + qmask * 2 ^ 7
theorem witness_PartitionsAndResetLadder_grow : MeetsE (fun s => let v := partWord 31 15
    (s.hub.part.cmd = none ∧ s.hub.boot = 4 ∧ s.hub.dstate ≠ 2) ∧ s.partOwner.getD (cmdPart v) 0xFF ≠ 0xFF ∧ s.hub.inService (cmdCell v) = true ∧ cmdQuads v ≠ [] ∧
      s.heldQuads (cmdPart v) (cmdCell v) = [] ∧ s.cells[cmdCell v]? = some Cell.reset ∧ Cell.reset.quads.length = 4 ∧
      ∀ q ∈ cmdQuads v, (s.quadAt (cmdCell v) q).owned = false ∧ (s.quadAt (cmdCell v) q).shrinkPending = false ∧ s.underReset (cmdCell v) q = false) :=
  meetsE running (by decide +kernel) (by decide +kernel)
theorem witness_PartitionsAndResetLadder_shrink : MeetsE (fun s => let v := partWord 0 1
    (s.hub.part.cmd = none ∧ s.hub.boot = 4 ∧ s.hub.dstate ≠ 2) ∧ cmdQuads v ≠ [] ∧ s.hub.recarves = [] ∧ s.blocksOn 0 (cmdCell v) = [] ∧
      (∀ g ∈ s.groups, g.loc.cell ≠ cmdCell v) ∧ (∀ q ∈ s.heldQuads 0 (cmdCell v), q ∈ cmdQuads v) ∧
      ∀ q ∈ cmdQuads v, (s.quadAt (cmdCell v) q).owned = true ∧ (s.quadAt (cmdCell v) q).owner = 0 ∧
        (s.quadAt (cmdCell v) q).shrinkPending = false ∧ (s.quadAt (cmdCell v) q).testing = false ∧ s.underReset (cmdCell v) q = false) :=
  meetsE { running with groups := [], blocks := [], regions := [] } (by decide +kernel) (by decide +kernel)
theorem witness_PartitionsAndResetLadder_cancel : MeetsE (fun s => let v := partWord 0 2
    s.hub.part.cmd = none ∧ s.hub.dstate ≠ 2 ∧ (∃ x ∈ s.hub.recarves, x.deferred = true ∧ x.fence = false ∧ x.cell = cmdCell v ∧
        ∃ q ∈ cmdQuads v, bit x.qmask q = true ∧ (s.quadAt (cmdCell v) q).shrinkPending = true) ∧
      ∀ y ∈ s.hub.recarves, y.began = false) :=
  meetsE ((hub (fun h => { h with recarves := [recarve true [0]] }) running).modQuad 0 1 fun q => { q with shrinkPending := true }) (by decide +kernel) (by decide +kernel)
theorem witness_PartitionsAndResetLadder_reset : ∀ x ∈ [(1, 0), (2, 63), (3, 0xFE), (4, 15)], MeetsE (fun s =>
    let v := x.1 * 2 ^ 4 + (if x.1 = 4 then x.2 * 2 ^ 24 else x.2 * 2 ^ 16)
    s.hub.part.cmd = none ∧ s.hub.dstate ≠ 2 ∧ x.1 = bits v 6 4 ∧ x.2 = (if x.1 = 4 then cmdPart v else bits v 23 16) ∧ s.rungOk x.1 x.2 = true ∧ x.1 ≠ 5 ∧
      s.hub.rungs.any (s.sameTarget x.1 x.2) = false) := by
  intro x hx
  exact ⟨running, by decide +kernel, by revert x; decide +kernel⟩
theorem witness_PartitionsAndResetLadder_climb : MeetsE (fun s => let x : Rung := ⟨2, 0, 0, [0], none, false⟩
    s.hub.rungs[0]? = some x ∧ rungLimit x.rung = some 800000 ∧ x.start + 800000 ≤ s.hv ∧ s.climb x = [(3, 0)] ∧ (3 : Nat) ≠ 5) :=
  meetsE (hub (fun h => { h with rungs := [⟨2, 0, 0, [0], none, false⟩] }) { base with hv := 800000 }) (by decide +kernel) (by decide +kernel)
theorem witness_PartitionsAndResetLadder_rungComplete : MeetsE (fun s => let x : Rung := ⟨2, 63, 0, [63], none, false⟩
    s.hub.rungs = [x] ∧ x.rung = 2 ∧ x.ctxs = [63] ∧ x.asked = none ∧ 63 < s.ctxs.length ∧ s.rungOver x = false) :=
  meetsE (hub fun h => { h with rungs := [⟨2, 63, 0, [63], none, false⟩] }) (by decide +kernel) (by decide +kernel)
theorem witness_PartitionsAndResetLadder_classes : MeetsE (fun s => 3 < 4 ∧ s.hub.dstate ≠ 2 ∧ s.hub.classWays.length = 4 ∧
      (∀ k, k < 4 → k ≠ 3 → s.hub.classWays.getD k 0 &&& s.hub.waysOf (0 % 2 ^ 16) = 0)) ∧
    MeetsE (fun s => s.hub.classWays.length = 4 ∧ ∃ k, k < 4 ∧ k ≠ 3 ∧ s.hub.classWays.getD k 0 &&& s.hub.waysOf (1 % 2 ^ 16) ≠ 0) ∧
    MeetsE (fun s => (s.hub.classBw.set 3 (64 % 128)).sum ≤ 64) ∧ MeetsE (fun s => 64 < (s.hub.classBw.set 3 (65 % 128)).sum) :=
  ⟨meetsE base (by decide +kernel) (by decide +kernel), meetsE (hub fun h => { h with classWays := [1, 0, 0, 0] }) (by decide +kernel) (by decide +kernel),
    meetsE base (by decide +kernel) (by decide +kernel), meetsE base (by decide +kernel) (by decide +kernel)⟩

/-- A layer of one pixel, at the last column and row of a surface of 640 by 480. -/
def layerRow (single level slots maxrep : Nat) : List Byte :=
  leBytes 4 (1 + 2 * level + 16 * single + 64 * slots + 256 * maxrep) ++ [0#8, 0#8, 1#8, 0#8] ++ leBytes 2 639 ++ leBytes 2 479 ++ leBytes 2 1 ++ leBytes 2 1 ++
  leBytes 4 256 ++ leBytes 4 1500 ++ leBytes 8 0x40000 ++ leBytes 8 0x44000 ++ leBytes 8 4096 ++ leBytes 4 0 ++ List.replicate 12 0#8 ++
  (List.replicate 8 (leBytes 8 0xFF)).flatten
def mode0 : Nat := 640 + 800 * 2 ^ 16 + 480 * 2 ^ 32 + 525 * 2 ^ 48
def layered (row : List Byte) (l : Layer := ⟨.nothing, none, 0, []⟩) : Pipe :=
  { Pipe.reset with en := true, timing := mode0, timingNow := mode0, khz := 600000, khzNow := 600000, table := Pipe.reset.table.set 15 row, layers := Pipe.reset.layers.set 15 l }
def showing (p : Pipe) (coats : List Coat := []) : State := hub fun h => { h with pipes := h.pipes.set 3 p, coats := coats }
theorem witness_DisplayAndCameras_enable : MeetsE (fun s => 3 < s.hub.pipes.length ∧ (s.hub.pipe 3).en = false ∧ s.hub.dstate ≠ 2 ∧ (let p := s.hub.pipe 3
      linkCarries 23 p.khz 1 = true ∧ p.khz ≤ 600000 ∧ bits p.timing 15 0 < bits p.timing 31 16 ∧ bits p.timing 47 32 < bits p.timing 63 48) ∧ ((s.hub.pipe 3).entry 15).en = true) ∧
    MeetsE (fun s => 3 < s.hub.pipes.length ∧ (s.hub.pipe 3).en = false ∧ linkCarries 0 (s.hub.pipe 3).khz 2 = false) ∧
    MeetsE (fun s => 3 < s.hub.pipes.length ∧ (s.hub.pipe 3).en = false ∧ ¬bits (s.hub.pipe 3).timing 15 0 < bits (s.hub.pipe 3).timing 31 16) :=
  ⟨meetsE (showing { layered (layerRow 0 1 2 3) with en := false }) (by decide +kernel) (by decide +kernel),
    meetsE (showing { layered (layerRow 0 1 2 3) with en := false }) (by decide +kernel) (by decide +kernel), meetsE base (by decide +kernel) (by decide +kernel)⟩
theorem witness_DisplayAndCameras_disable : MeetsE (fun s => 3 < s.hub.pipes.length ∧ (s.hub.pipe 3).en = true ∧ bit (2 ^ 31) 31 = (s.hub.pipe 3).en) :=
  meetsE (showing (layered (layerRow 0 1 2 3))) (by decide +kernel) (by decide +kernel)
/-- A commit is pending of a table at 0x20000 whose last entry is `row`. -/
def committing (row : List Byte) : State :=
  { showing { layered [] with pend := true, pendBase := 0x40 } with mem := base.mem.put (0x20000 + 128 * 15) row }
def rowsOf (s : State) : List (List Byte) := (List.range 16).map fun i => s.homeRead ((s.hub.pipe 3).pendBase * 2048 + 128 * i) 128
theorem witness_DisplayAndCameras_take : MeetsE (fun s => (s.hub.pipe 3).pend = true ∧ (∃ b ∈ rowsOf s, (Entry.parse b).en = true) ∧
      ∀ b ∈ rowsOf s, entryDenied b = false ∧ ((Entry.parse b).en = true → entryOk (s.hub.pipe 3) b = true)) ∧
    MeetsE (fun s => (s.hub.pipe 3).pend = true ∧ ∃ b ∈ rowsOf s, (Entry.parse b).en = true ∧ 4 < (Entry.parse b).level) ∧
    MeetsE (fun s => (s.hub.pipe 3).pend = true ∧ ∃ b ∈ rowsOf s, (Entry.parse b).single = true ∧ 1 ≤ (Entry.parse b).level) :=
  ⟨meetsE (committing (layerRow 0 4 3 3)) (by decide +kernel) (by decide +kernel), meetsE (committing (layerRow 0 5 3 3)) (by decide +kernel) (by decide +kernel),
    meetsE (committing (layerRow 1 1 3 3)) (by decide +kernel) (by decide +kernel)⟩
def coat0 (num frame : Nat) (signed : Bool) (sigs : List Nat) : Coat := ⟨3, 15, frame, num, 0, 0, 0, 0, none, true, false, signed, sigs⟩
/-- Line 479 is shown, of a frame of 480; the pipe's next lines are blank. -/
def atLine (n run : Nat) : State := showing { layered (layerRow 0 1 2 3) with lines := n, run := run } [coat0 1 1 false []]
theorem witness_DisplayAndCameras_sign : ∀ x ∈ [(479, 0), (480, 0), (479, 1)], MeetsE (fun s => s.hub.coats[0]? = some (coat0 1 1 false []) ∧ 3 < s.hub.pipes.length ∧
      s.memPoison = [] ∧ let p := s.hub.pipe 3
      (0 < p.run ∨ (p.en = true ∧ ((1 : Nat) = 0 ∨ (1 - 1) * p.vtotal + p.vactive ≤ p.lines)) ↔ x ≠ (479, 0))) := by
  intro x hx
  refine ⟨atLine x.1 x.2, ?_⟩
  revert x; decide +kernel
def decides (s : State) : Prop := 3 < s.hub.pipes.length ∧ (s.hub.pipe 3).en = true ∧ ((s.hub.pipe 3).entry 15).en = true
theorem witness_DisplayAndCameras_coats : ∀ b ∈ [[5], [6]], MeetsE (fun s => decides s ∧ ((s.hub.pipe 3).entry 15).single = false ∧
      s.hub.signedCoat 3 15 1 1 = some (coat0 1 1 true [5]) ∧ s.hub.signedCoat 3 15 1 2 = some (coat0 2 1 true b) ∧
      (firstUnequal ((s.hub.pipe 3).entry 15) [5] b = none ↔ b = [5])) := by
  intro b hb
  refine ⟨showing (layered (layerRow 0 1 2 3)) [coat0 1 1 true [5], coat0 2 1 true b], ?_⟩
  unfold decides
  revert b; decide +kernel
theorem witness_DisplayAndCameras_repeat : ∀ r ∈ [2, 3], MeetsE (fun s => decides s ∧ ((s.hub.pipe 3).entry 15).single = false ∧ s.hub.signedCoat 3 15 1 1 = none ∧
      ((s.hub.pipe 3).layers.getD 15 ⟨.nothing, none, 0, []⟩).last = some 7 ∧ 2 ≤ ((s.hub.pipe 3).entry 15).slots ∧
      (((s.hub.pipe 3).layers.getD 15 ⟨.nothing, none, 0, []⟩).repeats < ((s.hub.pipe 3).entry 15).maxrep ↔ r = 2)) := by
  intro r hr
  refine ⟨showing (layered (layerRow 0 1 2 3) ⟨.frame 7, some 7, r, []⟩), ?_⟩
  unfold decides
  revert r; decide +kernel
theorem witness_DisplayAndCameras_single : MeetsE (fun s => decides s ∧ ((s.hub.pipe 3).entry 15).single = true ∧ s.hub.signedCoat 3 15 1 1 = some (coat0 1 1 true [5])) ∧
    MeetsE (fun s => decides s ∧ ((s.hub.pipe 3).entry 15).single = true ∧ s.hub.signedCoat 3 15 1 1 = none) := by
  unfold decides
  exact ⟨meetsE (showing (layered (layerRow 1 0 1 0)) [coat0 1 1 true [5]]) (by decide +kernel) (by decide +kernel),
    meetsE (showing (layered (layerRow 1 0 1 0))) (by decide +kernel) (by decide +kernel)⟩
theorem witness_DisplayAndCameras_tile : ∀ x ∈ [crc32c [0#8, 0#8, 0#8, 0#8], 1], MeetsE (fun s => 3 < s.hub.pipes.length ∧ s.memPoison = [] ∧
      ((s.hub.pipe 3).entry 15).single = false ∧ ((s.hub.pipe 3).layers.map (·.shows))[15]? = some (.frame 7) ∧ ((s.hub.pipe 3).entry 15).tiles[0]? = some (0, 0) ∧
      (s.signTile ((s.hub.pipe 3).entry 15) 1 7 (0, 0) = ((s.hub.pipe 3).layers.getD 15 ⟨.nothing, none, 0, []⟩).sigs.getD 0 0 ↔ x ≠ 1)) := by
  intro x hx
  refine ⟨showing (layered (layerRow 0 1 2 3) ⟨.frame 7, some 7, 0, [x]⟩), ?_⟩
  revert x; decide +kernel
def quar0 (p : Pane) (q : Quar) : State := hub (fun h => { h with quar := h.quar.set 3 q }) { base with panes := base.panes.set 3 p }
theorem witness_DisplayAndCameras_quarantine :
    (∀ quarantined, MeetsE (fun s => s.panes[3]? = some { Pane.reset with quarantined := quarantined, power := .on } ∧ 3 < s.hub.quar.length ∧ s.hub.quarOf 3 = ⟨false, false, false⟩ ∧ s.hub.rungs = [])) ∧
    MeetsE (fun s => 3 < s.hub.quar.length ∧ (s.hub.quarOf 3).running = true) ∧
    ∀ running, MeetsE (fun s => bit 8 3 = true ∧ s.panes[3]? = some { Pane.reset with quarantined := true } ∧ (s.hub.quarOf 3).running = running ∧ (s.hub.quarOf 3).pending = false) :=
  ⟨fun b => meetsE (quar0 { Pane.reset with quarantined := b, power := .on } ⟨false, false, false⟩) (by cases b <;> decide +kernel) (by cases b <;> decide +kernel),
    meetsE (quar0 Pane.reset ⟨true, false, false⟩) (by decide +kernel) (by decide +kernel),
    fun b => meetsE (quar0 { Pane.reset with quarantined := true } ⟨b, true, false⟩) (by cases b <;> decide +kernel) (by cases b <;> decide +kernel)⟩
theorem witness_DisplayAndCameras_latch : ∀ full, MeetsE (fun s => s.hub.latchFull = full) := fun b =>
  meetsE (hub fun h => { h with latchFull := b }) (by cases b <;> decide +kernel) (by cases b <;> decide +kernel)
def filming (c : CamStream) : State := hub (fun h => { h with cams := h.cams.set 15 c }) gated
def cam0 : CamStream := { CamStream.reset with ctl := 2 ^ 31 + 0x1E * 2 ^ 16 + 2 * 2 ^ 12, base := 0x300, stride := 0x4000, pitch := 64 }
theorem witness_DisplayAndCameras_stream : MeetsE (fun s => 15 < s.hub.cams.length ∧ (s.hub.cam 15).en = false) ∧
    MeetsE (fun s => 15 < s.hub.cams.length ∧ (s.hub.cam 15).en = true ∧ (s.camWrite (s.hub.cam 15).owner (s.hub.cam 15).buffer (leBytes 4 0)).isSome = true) ∧
    (bit cam0.ctl 31 = true ∧ 2 ≤ bits cam0.ctl 15 12 ∧ bits cam0.ctl 21 16 ∈ camTypes) :=
  ⟨meetsE base (by decide +kernel) (by decide +kernel), meetsE (filming cam0) (by decide +kernel) (by decide +kernel), by decide +kernel⟩
theorem witness_DisplayAndCameras_line : ∀ l ∈ [251, 252], MeetsE (fun s => let c := s.hub.cam 15
    15 < s.hub.cams.length ∧ c.frame = some (9, l, 0) ∧ (0x100 + l * c.pitch + c.pitch ≤ c.stride ↔ l = 251)) := by
  intro l hl
  refine ⟨filming { cam0 with frame := some (9, l, 0) }, ?_⟩
  revert l; decide +kernel
theorem witness_DisplayAndCameras_frameEnd : ∀ refused, MeetsE (fun s => let c := s.hub.cam 15
    15 < s.hub.cams.length ∧ c.frame = some (9, 1, 0) ∧ c.refused = refused ∧ ∀ k, k < 64 → ∃ x, s.stage2 c.owner (c.buffer + k) = .ok x) := fun b =>
  meetsE (filming { cam0 with frame := some (9, 1, 0), refused := b }) (by cases b <;> decide +kernel)
    ⟨by cases b <;> decide +kernel, by cases b <;> decide +kernel, by cases b <;> decide +kernel, fun k hk => ok_of_okB (by cases b <;> (revert k; decide +kernel))⟩
theorem witness_DisplayAndCameras_transmit : ∀ armed ∈ [0, 2], MeetsE (fun s => 1 < s.hub.txDrops.length ∧ s.hub.armTx = armed) := by
  intro a ha
  refine ⟨hub fun h => { h with armTx := a }, ?_⟩
  revert a; decide +kernel
theorem witness_ReliabilityAndKeep_queue : MeetsE (fun s => s.hub.devqEn = true ∧ 6 ≤ s.hub.devqLog ∧ s.hub.devqLog < 16 ∧
      s.hub.devqBase * 4096 + s.hub.devqHead % 2 ^ s.hub.devqLog * 64 + 64 ≤ dataEnd ∧ s.memPoison.hit (s.hub.devqBase * 4096 + s.hub.devqHead % 2 ^ s.hub.devqLog * 64) 64 = none ∧ s.hub.save = none) ∧ MeetsE (fun s => s.hub.devqEn = false ∧ s.hub.save = none) :=
  ⟨meetsE (hub fun h => { h with devqEn := true, devqLog := 6, devqHead := 63, devqBase := 0x30 }) (by decide +kernel)
      ⟨by decide +kernel, by decide +kernel, by decide +kernel, le_trans (by decide +kernel) dataEnd_ge, by decide +kernel, by decide +kernel⟩,
    meetsE base (by decide +kernel) (by decide +kernel)⟩
/-- SPARE_CMD's word: the unit, the sub-core and the lane. -/
def spareWord (n sub lane : Nat) : Nat := n * 2 ^ 20 + sub * 2 ^ 15 + lane * 2 ^ 11
theorem witness_ReliabilityAndKeep_busy : MeetsE (fun s => s.hub.spare.cmd ≠ none ∧ s.hub.dstate ≠ 2) ∧ MeetsE (fun s => s.hub.spare.cmd = none ∧ s.hub.boot ≠ 4 ∧ s.hub.dstate ≠ 2) :=
  ⟨meetsE (hub fun h => { h with spare := ⟨some 0, false, 0, 0⟩ }) (by decide +kernel) (by decide +kernel), meetsE base (by decide +kernel) (by decide +kernel)⟩
theorem witness_ReliabilityAndKeep_lane : ∀ used ∈ [[], [(34, 31)]], MeetsE (fun s => (s.hub.spare.cmd = none ∧ s.hub.boot = 4 ∧ s.hub.dstate ≠ 2) ∧ 36 ≤ spareTarget (spareWord 36 0 0) ∧
    spareTarget (spareWord 35 0 0) < 36 ∧ s.hub.logical 35 = none ∧ spareTarget (spareWord 34 31 15) = 34 ∧ spareSub (spareWord 34 31 15) = 31 ∧ s.hub.logical 34 ≠ none ∧
    s.hub.laneSpares = used) := by
  intro l hl
  refine ⟨hub (fun h => { h with laneSpares := l }) running, ?_⟩
  revert l; decide +kernel
theorem witness_ReliabilityAndKeep_cell : MeetsE (fun s => (s.hub.spare.cmd = none ∧ s.hub.boot = 4 ∧ s.hub.dstate ≠ 2) ∧ s.hub.logical (spareTarget (spareWord 0 0 0)) ≠ none ∧
    s.paneBusy (spareTarget (spareWord 0 0 0)) = true ∧ s.hub.logical (spareTarget (spareWord 34 0 0)) ≠ none ∧ s.paneBusy (spareTarget (spareWord 34 0 0)) = false) :=
  meetsE running (by decide +kernel) (by decide +kernel)
theorem witness_ReliabilityAndKeep_way : MeetsE (fun s => (s.hub.spare.cmd = none ∧ s.hub.boot = 4 ∧ s.hub.dstate ≠ 2) ∧ 18 ≤ spareTarget (spareWord 18 0 0) ∧
    some (spareTarget (spareWord 17 0 0)) ∉ s.hub.wayMap ∧ some (spareTarget (spareWord 15 0 0)) ∈ s.hub.wayMap ∧ 32 ≤ spareTarget (spareWord 32 0 0) ∧
    s.hub.inService (spareTarget (spareWord 31 0 0)) = true) ∧ MeetsE (fun s => (s.hub.spare.cmd = none ∧ s.hub.boot = 4 ∧ s.hub.dstate ≠ 2) ∧ s.hub.inService (spareTarget (spareWord 31 0 0)) = false) :=
  ⟨meetsE running (by decide +kernel) (by decide +kernel), meetsE (hub (fun h => { h with cellMap := h.cellMap.set 31 none }) running) (by decide +kernel) (by decide +kernel)⟩
def channels (trained : Nat) : State := hub (fun h => { h with chanMap := (List.range 24).map some, trained := trained }) running
theorem witness_ReliabilityAndKeep_channel : ∀ x ∈ [(2 ^ 24 - 1, 23), (2 ^ 26 - 1, 25), (2 ^ 26 - 1, 23)], MeetsE (fun s => (s.hub.spare.cmd = none ∧ s.hub.boot = 4 ∧ s.hub.dstate ≠ 2) ∧
    spareTarget (spareWord x.2 0 0) = x.2 ∧ x.2 < 26 ∧ s.hub.classBw.sum ≤ 60 ∧ (some x.2 ∈ s.hub.chanMap ↔ x.2 = 23) ∧ (s.hub.spareChannels = [] ↔ x.1 = 2 ^ 24 - 1)) := by
  intro x hx
  refine ⟨channels x.1, ?_⟩
  revert x; decide +kernel
theorem witness_ReliabilityAndKeep_migration : MeetsE (fun s => s.hub.migrating = some (23, 25)) :=
  meetsE (hub (fun h => { h with migrating := some (23, 25) }) (channels (2 ^ 26 - 1))) (by decide +kernel) (by decide +kernel)
def sparing (op n : Nat) : State := hub (fun h => { h with spare := ⟨some (op * 2 ^ 28 + spareWord n 0 0), false, 0, 0⟩ }) running
theorem witness_ReliabilityAndKeep_spareEnds : ∀ op < 5, MeetsE (fun s => let v := op * 2 ^ 28 + spareWord 0 0 0
    s.hub.spare.cmd = some v ∧ bits v 31 28 = op ∧ s.paneBusy (spareTarget v) = true ∧ s.hub.migrating = none ∧ some (spareTarget v) ∈ s.hub.wayMap ∧ spareTarget v < s.cells.length ∧
    (s.cells.getD (spareTarget v) Cell.reset).quads.length = 4) := by
  intro op h
  refine ⟨sparing op 0, ?_⟩
  revert op; decide +kernel
def seamed (x : Seam) : State := hub fun h => { h with seams := h.seams.set 8 x }
theorem witness_ReliabilityAndKeep_seam : ∀ x ∈ [Seam.mk 1 0 0 0 0 false false [], ⟨1, 1, 0, 0, 0, false, false, []⟩, ⟨1, 2, 0, 0, 1, false, false, []⟩, ⟨1, 2, 0, 0, 1, false, true, [2]⟩],
    MeetsE (fun s => s.hub.seams[8]? = some x ∧ 7 < seamLanes 8 ∧ x.failed 8 = false ∧ 7 ∉ x.lost ∧ ¬(1 ≤ x.spares ∧ x.lane0 = 7) ∧ ¬(2 ≤ x.spares ∧ x.lane1 = 7) ∧
      (∀ l ∈ x.lost, l / (seamLanes 8 / 2) + 7 / (seamLanes 8 / 2) = 1)) := by
  intro x hx
  refine ⟨seamed x, ?_⟩
  revert x; decide +kernel
theorem witness_ReliabilityAndKeep_errors : ∀ n ∈ [0xFE, 0xFF, 0xFFFF], MeetsE (fun s => 25 < 26 ∧ s.hub.ceChan[25]? = some (false, n) ∧ (n < 0xFFFF ∧ n + 1 = s.hub.ceThresh ↔ n = 0xFF)) := by
  intro n hn
  refine ⟨hub fun h => { h with ceChan := h.ceChan.set 25 (false, n) }, ?_⟩
  revert n; decide +kernel
theorem witness_ReliabilityAndKeep_ageing : MeetsE (fun s => s.hub.logical 0 = some 0 ∧ s.cells[0]? = some (base.cells.getD 0 Cell.reset) ∧
      (base.cells.getD 0 Cell.reset).power = CellPower.act ∧ (7 < 8 ∧ 14 % 2 ^ 14 < 15) ∧ ¬(15 % 2 ^ 14 < 15)) :=
  meetsE base (by decide +kernel) (by decide +kernel)
def tested (f : Quad → Quad) (s : State := base) : State := s.modQuad 31 3 f
theorem witness_ReliabilityAndKeep_beads : ∀ x ∈ [(50000 * 2882880, 1024), (50000 * 2882880 - 1, 1024), (50000 * 2882880, 1023)], MeetsE (fun s => 31 < s.cells.length ∧
    3 < (s.cells.getD 31 Cell.reset).quads.length ∧ (s.quadAt 31 3).testClock = x.1 ∧ (s.quadAt 31 3).idleClocks = x.2 ∧ (s.quadAt 31 3).testing = false ∧
    (s.quadAt 31 3).fenced = false ∧ s.quadIdle 31 3 = true) := by
  intro x hx
  refine ⟨tested fun q => { q with testClock := x.1, idleClocks := x.2 }, ?_⟩
  revert x; decide +kernel
theorem witness_ReliabilityAndKeep_beadEnds : MeetsE (fun s => 31 < s.cells.length ∧ 3 < (s.cells.getD 31 Cell.reset).quads.length ∧ (s.quadAt 31 3).testing = true ∧ s.groups = []) ∧
    MeetsE (fun s => 31 < s.cells.length ∧ 3 < (s.cells.getD 31 Cell.reset).quads.length ∧ 1050000 * 2882880 ≤ (s.quadAt 31 3).testClock ∧ (s.quadAt 31 3).testing = false ∧
      (s.quadAt 31 3).fenced = false ∧ (s.quadAt 31 3).overdue = false) :=
  ⟨meetsE (tested (fun q => { q with testing := true }) { base with groups := [] }) (by decide +kernel) (by decide +kernel),
    meetsE (tested fun q => { q with testClock := 1050000 * 2882880 }) (by decide +kernel) (by decide +kernel)⟩
/-- A keep die whose second slot holds one record of four bytes: whole for its own check word, torn otherwise. -/
def keepDie (crc : Nat) : Mem :=
  Mem.put (Mem.put (Mem.put [] 0x220000 (leBytes 2 1 ++ leBytes 2 2 ++ leBytes 4 0 ++ leBytes 2 1)) 0x221000
    (leBytes 4 0 ++ leBytes 4 4 ++ leBytes 8 0 ++ leBytes 4 0x20000 ++ leBytes 4 0x5AC30001 ++ leBytes 4 crc ++ leBytes 4 0xA5C30F5A)) 0x240000 [1#8, 2#8, 3#8, 4#8]
/-- A command of the kind `op` on region 0 of that slot is in progress, during a save or not. -/
def keeping (op crc : Nat) (saves : Bool) : State := hub fun h => { h with
  keepCmd := some (op * 2 ^ 26 + 2 ^ 25), keepDst := 1, save := if saves then some (saving false) else none, keep := keepDie crc }
theorem witness_ReliabilityAndKeep_keep : ∀ op < 3, ∀ saves, MeetsE (fun s => ∃ v, s.hub.keepCmd = some v ∧ keepOp v = op ∧ keepSlot v = 1 ∧ keepRegion v = 0 ∧ s.hub.saving = saves) := by
  intro op h saves
  refine ⟨keeping op 0 saves, ?_, op * 2 ^ 26 + 2 ^ 25, ?_⟩ <;> revert op <;> cases saves <;> decide +kernel
theorem witness_ReliabilityAndKeep_record : ∀ x ∈ [(crc32c [1#8, 2#8, 3#8, 4#8], 1), (0, 2)], MeetsE (fun s => s.hub.recordState 1 0 = x.2 ∧ s.hub.keepDst * 64 + 4 ≤ 2 ^ 34) ∧ 2 ^ 34 ≤ dataEnd := by
  intro x hx
  refine ⟨⟨keeping 1 x.1 false, ?_⟩, dataEnd_ge⟩
  revert x; decide +kernel

/-! ### Witnesses: words, the step, faults and numbers -/

theorem witness_DecodeOfEncode : (Instr.iadd 1#7 2#7 124#7 5#32).isCode = true ∧ (Instr.iadd 1#7 2#7 124#7 5#32).wellFormed = true := by decide +kernel
/-- Words of each fate: a reserved major, an FN that its family does not assign, a field of major 0 that is not used. -/
theorem witness_FatesOfWords_words : wordField 0xAC000000 31 26 = 0x2B ∧ wordField 0x01800000 31 26 = 0x00 ∧ wordField 0x01800000 25 21 ∉ List.range 12 ∧
    wordField 1 31 21 = 0 ∧ 1 % 2 ^ 21 ≠ 0 := by decide +kernel
def bad0 : Clause := ((State.reset.withFetchWord 32 0xAC000000).clauseAt [] 0 0x10000 0x10000)
theorem witness_FatesOfWords_bad : let g := State.group (grp fun g => g.withCtl fun c => { c with pc := bad0.addr + 4#64 }) 0
    g.trap.atNext = none ∧ base.timerDue 0 g = false ∧ (g.ctl.pc - bad0.addr).toNat / 4 + instrWords (bad0.words.getD ((g.ctl.pc - bad0.addr).toNat / 4) 0#32).toNat ≤ bad0.words.length ∧ (∀ p ∈ bad0.poison, p = none) ∧
    decodeWords (bad0.words.getD ((g.ctl.pc - bad0.addr).toNat / 4) 0#32).toNat (bad0.words.getD ((g.ctl.pc - bad0.addr).toNat / 4 + 1) 0#32).toNat = .bad .reservedMajor := by
  decide +kernel
theorem witness_FatesOfWords_checks : (∃ s i g, State.issuer s = some (i, g) ∧ g.id.sys = false) ∧ (∃ s i g, State.issuer s = some (i, g) ∧ g.id.role = .hod) ∧
    (∃ s i g, State.issuer s = some (i, g) ∧ g.id.role = .general ∧ 8 * g.id.vregs ≤ 112) :=
  ⟨⟨grp fun g => { g with id := { g.id with sys := false } }, 0, _, rfl, by decide +kernel⟩, ⟨grp fun g => { g with id := { g.id with role := .hod } }, 0, _, rfl, by decide +kernel⟩,
    ⟨base, 0, _, rfl, by decide +kernel⟩⟩
/-- A group stands at a word of its clause, before any time has passed. -/
def atWord (first : Bool) : State := grp fun g => g.withCtl fun c =>
  let x := base.clauseAt [] 0 0x10000 0x10000
  if first then { c with clause := some x } else { c with clause := some x, pc := c.pc + 4#64 }
theorem witness_StepRunsTheDecodedInstruction : ∀ first, let s := atWord first
    let u := s.tick
    let g := u.group 0
    u.agenda = [] ∧ u.turn = some 0 ∧ 0 < u.groups.length ∧ g.ctl.status = .running ∧ u.mayIssue g = true ∧ (g.id.role = .matrix → g.sliceDue = false) ∧ g.trap.callee = none ∧ g.reconverges false = false ∧
      ∃ c, g.ctl.clause = some c ∧ (g.ctl.pc = c.addr ↔ first = true) ∧ c.sound = true ∧ g.ctl.runCount + (c.words.getD 0 0#32).toNat % 16 ≤ 24 ∧
        (c.words.getD 0 0#32).toNat % 16 ≠ 0 ∧ g.headerWaits (c.words.getD 0 0#32).toNat = false ∧ g.trap.atNext = none ∧ u.timerDue 0 g = false := by
  intro first
  refine ⟨?_, ?_, ?_, ?_, ?_, ?_, ?_, ?_, base.clauseAt [] 0 0x10000 0x10000, ?_⟩ <;> cases first <;> decide +kernel
/-- The step of a state with an event in its agenda, and one with none. -/
theorem witness_TheMachineGoesOn : (∀ e ∈ ({ base with agenda := [Instr.thermtrip] } : State).agenda, e.isCode = false) ∧ ∀ e ∈ base.agenda, e.isCode = false := by decide +kernel
theorem witness_StepsKeepByteStoresCanonical : MeetsE (fun s => ∃ t, step s = .next t) :=
  meetsE { base with agenda := [Instr.thermtrip] } (by decide +kernel) ⟨_, rfl⟩
/-- A group whose handler stands where TVEC says, in a block with the fault domain `dom`. -/
def handler (dom : FDom) (tvec : DWord) (stack : List MaskEntry) : State :=
  (grp fun g => (g.withSr fun r => { r with tvec := tvec, gtcmp := 5, gtimer := 5 }).withCtl fun c => { c with stack := stack }).modBlock 0 fun b => { b with fdom := dom }
theorem witness_FaultsTaken_handler : ∀ st ∈ [[], [MaskEntry.callE 0x10004#64]], let s := handler .report 0x10041#64 st
    0 < s.groups.length ∧ (s.group 0).inGate = false ∧ (s.group 0).sr.tvec &&& 0x0000FFFFFFFFFFC0#64 ≠ 0#64 ∧ (s.group 0).sr.tvec.getLsbD 0 = true ∧
      (s.group 0).trap.pstate ≠ .handler ∧ (s.group 0).trap.parked = [] ∧ (s.group 0).trap.reconv = [] ∧ (s.group 0).trap.pstate = .none ∧
      ((s.group 0).ctl.stack = [] ↔ st = []) ∧ (s.group 0).ctl.act &&& ~~~1#32 ≠ 0#32 := by decide +kernel
theorem witness_FaultsTaken_domain : ∀ d ∈ [FDom.report, .terminate, .rollback], let s := handler d 0#64 []
    0 < s.groups.length ∧ (s.group 0).inGate = false ∧ (s.group 0).sr.tvec &&& 0x0000FFFFFFFFFFC0#64 = 0#64 ∧ (s.block (s.group 0).id.block).fdom = d ∧
      (s.group 0).ctl.act ≠ 0#32 := by decide +kernel
def noting : State := { gated with ctxs := gated.ctxs.set 1 { gated.ctx 1 with errq := 0x31000, errqlog := 6, errHead := 63 } }
theorem witness_FaultsTaken_record : noting.hub.save = none ∧ 1 < noting.ctxs.length ∧
    noting.poisonVa 1 ((noting.ctx 1).errq + (noting.ctx 1).errHead % 2 ^ (noting.ctx 1).errqlog * 64) 64 = false ∧
    ∃ u, noting.writeVa 1 ((noting.ctx 1).errq + (noting.ctx 1).errHead % 2 ^ (noting.ctx 1).errqlog * 64) (({ ErrRec.plain 0x1A 1 with detail := 5 }).bytes (noting.ctx 1).errSeq (noting.hv % 2 ^ 32)) = .ok u :=
  ⟨by decide +kernel, by decide +kernel, by decide +kernel, ok_of_okB (by decide +kernel)⟩
theorem witness_FaultsTaken_timer : let s := handler .report 0x10041#64 []
    s.timerDue 0 (s.group 0) = true := by decide +kernel
/-- Operands of each kind in FP32 and FP16: numbers, zeros of both signs, an infinity, quiet and signalling NaNs. -/
theorem witness_MinimaAndMaxima : fp32.decode 0x3F800000 = .fin false 0x800000 (-23) ∧ fp32.decode 0x80000000 = .fin true 0 fp32.minExp ∧ fp32.decode 0x7F800000 = .inf false ∧
    (fp32.decode 0x7FC00000).isNaN = true ∧ (fp32.decode 0x7F800001).isSNaN = true ∧ (fp16.decode 0x7E00).isNaN = true ∧ (fp16.decode 0x7C01).isSNaN = true := by decide +kernel
theorem witness_RoundingIsToNearest : fp32.decode 0x3F800000 = .fin false 0x800000 (-23) ∧ fp32.decode 0x33800000 = .fin false 0x800000 (-47) ∧ floatFmt 0 = some fp32 ∧
    0x3F800000 < 2 ^ fp32.width ∧ 464 * 1 < 465 ∧ 448 * 1 < 464 ∧ 464 ≤ 464 * 1 := by decide +kernel
/-! ### Ill-formed instructions: one for each check of the fields -/

theorem test_illFormed_order : [Instr.fence 6#3 0#3, .fence 0#3 5#3, .waitc 0#1 0#1 6#3 0#8 0#8].all (fun i => !i.wellFormed) = true := by decide
theorem test_illFormed_literal : [Instr.iadd 1#7 2#7 3#7 1#32, .mov 1#7 2#7 1#32, .stp 1#7 2#7 0#8 1#32].all (fun i => !i.wellFormed) = true := by decide
theorem test_illFormed_codes : [Instr.icmp 10#5 0#3 0#7 0#7 0#32, .frnd 0#7 0#7 0#1 6#3 0#32, .cvt 0#7 0#7 0#3 8#4 0#1 0#2 0#4, .cvt 0#7 0#7 0#3 0#4 0#1 0#2 11#4,
    .cvtPk2 0#7 0#7 0#7 0#1 0#2 3#4].all (fun i => !i.wellFormed) = true := by decide
theorem test_illFormed_packs : [Instr.cvtPk4 0#1 0#7 0#7 0#7 0#1 0#2 5#4, .cvtPk8 0#2 0#7 0#7 0#7 0#1 0#2 4#4, .cvtUnpk2 0#1 0#7 0#7 0#7 3#2 1#4,
    .cvtUnpk2 0#1 0#7 0#7 1#7 0#2 1#4, .quantBlk 0#7 0#7 0#7 0#1 0#1 0#2 8#4].all (fun i => !i.wellFormed) = true := by decide
theorem test_illFormed_access : [Instr.gldOrdered 0#7 0#7 0#1 0#8 6#3 1#2 4#3, .gldOrdered 0#7 0#7 0#1 0#8 0#3 3#2 4#3, .gldOrdered 0#7 0#7 0#1 0#8 4#3 0#2 4#3,
    .gldOrdered 0#7 0#7 0#1 0#8 0#3 0#2 7#3, .gstOrdered 0#7 0#7 0#1 0#8 0#3 0#2 1#3, .ldcOrdered 0#7 0#7 0#1 0#8 0#3 0#2 6#3].all (fun i => !i.wellFormed) = true := by decide
theorem test_illFormed_atomics : [Instr.atom 5#3 0#3 0#7 0#1 0#8 0#3 0#4 0#7, .atom 0#3 0#3 0#7 0#1 0#8 4#3 0#4 0#7, .latom 1#3 0#7 0#7 0#1 0#8 6#3 0#4 0#7,
    .ared 0#7 0#7 0#1 0#8 4#3 0#4 0#7, .aredRel 0#7 0#7 0#1 0#8 6#3 0#4 0#7].all (fun i => !i.wellFormed) = true := by decide
theorem test_illFormed_textures : [Instr.texSample 0#7 0#7 0#8 0#2 0#1 3#2 0#7, .texSample 0#7 0#7 0#8 1#2 0#1 0#2 0#7, .texSample 0#7 0#7 0#8 0#2 0#1 0#2 1#7,
    .texLoad 0#7 0#7 0#8 0#2 0#1 0#2 0#7].all (fun i => !i.wellFormed) = true := by decide

/-! ### Words written out field by field, each field's value with its lowest bit (12 R319 to R322, R325; the families of 13 to 17) -/

def word (l : List (Nat × Nat)) : Nat := (l.map fun x => x.1 * 2 ^ x.2).sum
/-- Words of `l` decode to their instructions. -/
def Read (l : List (List (Nat × Nat) × Nat × Instr × Nat)) : Prop := ∀ x ∈ l, decodeWords (word x.1) x.2.1 = .instr x.2.2.1 x.2.2.2

theorem test_decode_worked : decodeWords 0xCD840508 0x00008C00 = .instr (.gldOrdered 4#7 2#7 1#1 8#8 4#3 1#2 4#3) 2 ∧
    decodeWords 0x38100008 0x00000300 = .instr (.trace 16#7 0#7 8#8 1#1 1#1) 2 := by decide +kernel
theorem test_decode_control : Read
    [([(6, 21), (10, 13), (0x12, 0)], 0, .sread 10#8 0x12#8, 1), ([(7, 21), (255, 13), (8, 0)], 0, .swrite 255#8 8#8, 1), ([(3, 21), (255, 0)], 0, .trap 255#8, 1),
      ([(1, 26), (17, 21), (7, 13), (0x1FFF, 0)], 0, .ifNk 7#3 0x1FFF#13, 1), ([(1, 26), (4, 21), (0x1000, 0)], 0, .elseArm 0x1000#13, 1),
      ([(2, 26), (255, 0)], 0, .gate 255#8, 1), ([(2, 26), (1, 21)], 0, .gret, 1)] := by unfold Read; decide +kernel
theorem test_decode_waiting : Read
    [([(3, 26), (2, 24)], 0, .barDrop, 1), ([(4, 26), (0, 21), (254, 13), (3, 5), (1, 0)], 0, .bobjInit 254#8 3#8 1#1, 1),
      ([(4, 26), (3, 21), (2, 13), (255, 5), (1, 0)], 0, .bobjArrive 2#8 255#8 1#1, 1), ([(5, 26), (0, 24), (63, 8), (2, 0)], 0, .waitCnt 63#6 2#2, 1),
      ([(5, 26), (1, 24), (5, 4), (4, 0)], 0, .fence 5#3 4#3, 1), ([(6, 26), (1, 24), (7, 8), (63, 0)], 0, .semAdd 7#8 63#8, 1),
      ([(7, 26), (1, 20), (1, 19), (5, 16), (2, 8), (4, 0)], 0, .waitc 1#1 1#1 5#3 2#8 4#8, 1)] := by unfold Read; decide +kernel
theorem test_decode_launches : Read
    [([(8, 26), (0, 21), (2, 13), (255, 5)], 0, .launch 2#8 255#8, 1), ([(9, 26), (1, 21), (4, 13), (9, 5), (15, 0)], 0, .msgRecv 4#8 9#8 15#4, 1),
      ([(10, 26), (0, 21), (8, 7), (112, 0)], 0, .primEmit 8#7 112#7, 1), ([(10, 26), (4, 21), (111, 14), (8, 0)], 0, .tileAttr 111#7 8#4, 1),
      ([(11, 26), (1, 21), (1, 14), (5, 3), (4, 0)], 0, .interp 1#7 5#4 4#3, 1), ([(12, 26), (2, 21), (1, 14), (114, 7), (15, 0)], 0, .glzRead 1#7 114#7 15#7, 1),
      ([(13, 26), (5, 23), (4, 16), (8, 9), (2, 0)], 0x500, .texLoadC 4#7 8#7 2#8 0#2 1#1 1#2 0#7, 2), ([(14, 26), (2, 23), (4, 16), (8, 9)], 0, .hitReport 4#7 8#7, 1),
      ([(15, 26), (1, 21), (116, 0)], 0, .repack 116#7, 1)] := by unfold Read; decide +kernel
theorem test_decode_integers : Read
    [([(0x10, 26), (10, 21), (1, 14), (2, 7), (3, 0)], 0xF00, .iaddCc 1#7 2#7 3#7 1#1 7#3, 2), ([(0x11, 26), (4, 21), (1, 14), (2, 7), (3, 0)], 0x704, .idot4 1#7 2#7 3#7 1#1 1#1 1#1 4#7, 2),
      ([(0x12, 26), (3, 21), (1, 14), (2, 7), (3, 0)], 0, .andn 1#7 2#7 3#7 0#32, 1), ([(0x13, 26), (4, 21), (1, 14), (2, 7), (3, 0)], 4, .fshr 1#7 2#7 3#7 4#7, 2),
      ([(0x14, 26), (0, 21), (1, 14), (124, 7), (3, 0)], 0x80000000, .imin 1#7 124#7 3#7 0x80000000#32, 2), ([(0x15, 26), (9, 21), (7, 14), (2, 7), (3, 0)], 0, .icmp 9#5 7#3 2#7 3#7 0#32, 1),
      ([(0x16, 26), (5, 21), (1, 14), (2, 7), (3, 0)], 4, .bfi 1#7 2#7 3#7 4#7, 2), ([(0x17, 26), (3, 21), (1, 14), (2, 7), (127, 0)], 0, .xori 1#7 2#7 127#7, 1)] := by
  unfold Read; decide +kernel
theorem test_decode_floats : Read
    [([(0x18, 26), (18, 21), (1, 14), (2, 7), (3, 0)], 0, .fmul 1#1 0#1 1#7 2#7 3#7 0#32, 1), ([(0x19, 26), (10, 21), (1, 14), (2, 7), (3, 0)], 4, .flerp 0#1 1#1 1#7 2#7 3#7 4#7, 2),
      ([(0x1A, 26), (7, 21), (5, 14), (2, 7), (3, 0)], 0, .fcmp 7#3 5#3 2#7 3#7 0#32, 1), ([(0x1B, 26), (15, 21), (1, 14), (2, 7)], 0, .ftanh 1#1 1#7 2#7 0#32, 1),
      ([(0x1C, 26), (1, 21), (1, 14), (2, 7), (1, 3), (5, 0)], 0, .frnd 1#7 2#7 1#1 5#3 0#32, 1), ([(0x1D, 26), (6, 21), (1, 14), (2, 7), (3, 0)], 0x6500, .cvtPk8 2#2 1#7 2#7 3#7 1#1 2#2 5#4, 2)] := by
  unfold Read; decide +kernel
theorem test_decode_lanes : Read
    [([(0x1E, 26), (1, 21), (1, 14), (2, 7), (3, 0)], 0x500, .sel 1#7 2#7 3#7 5#3, 2), ([(0x1F, 26), (0, 21), (7, 14), (2, 7)], 0, .ballot 7#3 2#7, 1),
      ([(0x1F, 26), (2, 21), (1, 14), (2, 7), (31, 0)], 0, .shflUp 1#7 2#7 31#5, 1), ([(0x20, 26), (2, 24), (255, 16), (1, 8), (2, 0)], 0, .smul 255#8 1#8 2#8, 1),
      ([(0x21, 26), (1, 24), (255, 16), (1, 8), (2, 0)], 0, .sor 255#8 1#8 2#8, 1), ([(0x22, 26), (3, 24), (255, 16), (1, 8), (2, 0)], 0, .srotl 255#8 1#8 2#8, 1),
      ([(0x23, 26), (2, 24), (255, 16), (1, 8), (2, 0)], 0, .scmpLtu 255#8 1#8 2#8, 1), ([(0x24, 26), (1, 24), (9, 16), (0xFFFF, 0)], 0, .smovhi 9#8 0xFFFF#16, 1),
      ([(0x24, 26), (3, 24), (9, 16), (1, 8), (3, 6), (63, 0)], 0, .scmpi 9#8 1#8 3#2 63#6, 1), ([(0x25, 26), (3, 24), (254, 16), (2, 8), (1, 0)], 0, .sshl64 254#8 2#8 1#8, 1),
      ([(0x26, 26), (2, 24), (9, 16), (1, 8)], 0, .spopc 9#8 1#8, 1)] := by unfold Read; decide +kernel
theorem test_decode_masks : Read
    [([(0x27, 26), (0, 24), (255, 16), (1, 8), (2, 0)], 0, .vget 255#8 1#8 2#8, 1), ([(0x28, 26), (2, 21), (7, 14), (1, 7), (2, 0)], 0, .kxor 7#3 1#3 2#3, 1),
      ([(0x29, 26), (4, 21), (1, 14), (2, 7), (3, 0)], 0, .qswap 1#7 2#7 3#2, 1), ([(0x2A, 26), (1, 21), (254, 13), (31, 0)], 0, .ixuLoad 254#8 31#5, 1)] := by unfold Read; decide +kernel
theorem test_decode_memory : Read
    [([(0x30, 26), (6, 23), (1, 16), (120, 9), (1, 8), (8, 0)], 0, .ldcBc 1#7 120#7 1#1 8#8 0#32, 1), ([(0x31, 26), (7, 23), (1, 16), (2, 9), (1, 8), (8, 0)], 0xB500, .stcOrdered 1#7 2#7 1#1 8#8 5#3 2#2 5#3, 2),
      ([(0x32, 26), (1, 23), (1, 16), (124, 9), (8, 0)], 5, .stp 1#7 124#7 8#8 5#32, 2), ([(0x33, 26), (6, 23), (4, 16), (2, 9), (0, 8), (8, 0)], 0, .gst128 4#7 2#7 0#1 8#8 0#32, 1),
      ([(0x34, 26), (4, 23), (1, 16), (2, 9), (1, 8), (8, 0)], 0x4F03, .latom 4#3 1#7 2#7 1#1 8#8 4#3 15#4 3#7, 2), ([(0x35, 26), (3, 23), (7, 16), (2, 9), (1, 8), (8, 0)], 0x5003, .atom 3#3 7#3 2#7 1#1 8#8 5#3 0#4 3#7, 2),
      ([(0x36, 26), (2, 23), (7, 16), (5, 9)], 0, .rslotTest 7#3 5#3, 1), ([(0x37, 26), (5, 21), (2, 13), (255, 5)], 0, .hodReduce 2#8 255#8, 1),
      ([(0x38, 26), (2, 21), (2, 13), (6, 5)], 0, .ccDiscard 2#8 6#8, 1), ([(0x39, 26), (2, 24), (9, 16), (15, 0)], 0, .ringWait 9#8 15#4, 1)] := by unfold Read; decide +kernel
theorem test_decode_matrix : Read
    [([(0x3C, 26), (1, 22), (63, 16), (128, 8), (1, 0)], 0, .beadMma 63#6 128#8 1#8, 1), ([(0x3D, 26), (1, 22), (15, 16), (127, 8), (3, 0)], 0, .palFill 15#6 127#8 3#8, 1),
      ([(0x3E, 26), (2, 22), (1, 16), (63, 0)], 0, .cbClear 1#6 63#8, 1), ([(0x3F, 26), (0, 21), (1, 14), (2, 7), (1, 3), (7, 0)], 0, .omDepth 1#7 2#7 1#1 7#3, 1)] := by unfold Read; decide +kernel
/-! ### Witnesses of further clauses -/

theorem witness_DisplayAndCameras_takers : (filming cam0).hub.takers ⟨3, 0⟩ none = [15] ∧ (filming cam0).hub.takers ⟨3, 0⟩ (some 0x1E) = [15] ∧
    (filming cam0).hub.takers ⟨3, 0⟩ (some 0x22) = [] ∧ (filming cam0).hub.takers ⟨3, 1⟩ none = [] ∧ base.hub.takers ⟨3, 0⟩ none = [] := by decide +kernel
theorem witness_DisplayAndCameras_load : MeetsE fun s => s.hub.ttCmd = none ∧ s.hub.dstate ≠ 2 ∧ s.memPoison = [] ∧ s.hub.slotUsed 63 = false ∧ s.hub.saving = false :=
  meetsE base (by decide +kernel) (by decide +kernel)
/-- An image of one pixel in colour 1, and the same with its width 0. -/
def image (w : Nat) : List Byte :=
  let head := leBytes 2 1 ++ leBytes 2 w ++ leBytes 2 1 ++ leBytes 54 0
  let body := leBytes 64 0 ++ leBytes 1 1
  head ++ leBytes 4 (crc32c (head ++ body)) ++ body
theorem witness_DisplayAndCameras_images : imageOk (image 1) = true ∧ imageOk (image 0) = false := by decide +kernel
theorem witness_ReliabilityAndKeep_sram : ∀ n ∈ [0xFE, 0xFF, 0xFFFF], MeetsE (fun s => 31 < 32 ∧ s.hub.ceSlice[31]? = some n ∧ s.hub.ceCell[31]? = some n ∧ (n < 0xFFFF ∧ n + 1 = s.hub.ceThresh ↔ n = 0xFF)) := by
  intro n hn
  refine ⟨hub fun h => { h with ceSlice := h.ceSlice.set 31 n, ceCell := h.ceCell.set 31 n }, ?_⟩
  revert n; decide +kernel
theorem witness_ReliabilityAndKeep_enable : MeetsE (fun s => s.hub.devqEn = false ∧ s.hub.dstate ≠ 2) ∧ MeetsE (fun s => s.hub.devqEn = true ∧ s.hub.dstate ≠ 2) :=
  ⟨meetsE base (by decide +kernel) (by decide +kernel), meetsE (hub fun h => { h with devqEn := true }) (by decide +kernel) (by decide +kernel)⟩
/-- An atomic of context 0 is under way, or none. -/
def inAtomic (on : Bool) : State := { running with atoms := if on then [⟨0, 0, none, 0, false, 0x30000, 1, 0, 0, none, false⟩] else [] }
theorem witness_PartitionsAndResetLadder_inFlight : ∀ on, MeetsE fun s => (s.hub.part.cmd = none ∧ s.hub.boot = 4 ∧ s.hub.dstate ≠ 2) ∧
    (s.drainCtxs [0]).inFlight [0] = on := fun on =>
  meetsE (inAtomic on) (by cases on <;> decide +kernel) (by cases on <;> decide +kernel)
theorem witness_PowerAndClamp_hold : MeetsE fun s => s.hub.power.cmd = none ∧ s.hub.dstate = 0 ∧ s.hub.save = none :=
  meetsE base (by decide +kernel) (by decide +kernel)

/-! ### Single steps, each result worked out by hand from the rule named -/

/-- `i` completes in `s` and leaves what `f` says. -/
def after (i : Instr) (s : State) (f : State → Bool) : Bool := match exec i s with | .next t => f t | _ => false
/-- v1 holds `x` and v2 holds `y` in every lane, two of which are active: 0 and 31. -/
def two (x y : Word) : State := grp fun g => lanesOf 0x80000001#32 (withV 2 (.uniform y) (withV 1 (.uniform x) g))
def lane31 (t : State) : Word := (t.group 0).vlane 0 31

/-- R376: the sum is modulo 2^32. -/
theorem test_iadd_wraps : after (.iadd 0#7 1#7 2#7 0#32) (two 0xFFFFFFFF#32 2#32) (fun t => lane31 t == 1#32) = true := by decide +kernel
/-- R376: −2^31 − 1 saturates. -/
theorem test_isub_saturates : after (.isubSat 0#7 1#7 2#7 0#32) (two 0x80000000#32 1#32) (fun t => lane31 t == 0x80000000#32) = true := by decide +kernel
/-- R377: 0 − 1 borrows in the active lanes; the others keep their bits of the mask. -/
theorem test_isub_borrows : after (.isubCc 0#7 1#7 2#7 0#1 3#3) ((two 0#32 1#32).modGroup 0 (withK 3 2#32))
    (fun t => lane31 t == 0xFFFFFFFF#32 && (t.group 0).kreg 3 == 0x80000003#32) = true := by decide +kernel
/-- R378: the high half of (−1) × 1 is all ones. -/
theorem test_imul_high_is_signed : after (.imulHi 0#7 1#7 2#7 0#32) (two 0xFFFFFFFF#32 1#32) (fun t => lane31 t == 0xFFFFFFFF#32) = true := by decide +kernel
/-- R380: a shift by 32 gives 0. -/
theorem test_shl_by_width : after (.shl 0#7 1#7 2#7 0#32) (two 0xFFFFFFFF#32 32#32) (fun t => lane31 t == 0#32) = true := by decide +kernel
/-- R380: an arithmetic shift by 32 or more is one by 31. -/
theorem test_sar_by_width : after (.sar 0#7 1#7 2#7 0#32) (two 0x80000000#32 40#32) (fun t => lane31 t == 0xFFFFFFFF#32) = true := by decide +kernel
/-- R380: FSHR shifts vb:va right. -/
theorem test_fshr : after (.fshr 0#7 1#7 2#7 2#7) (two 0x12345678#32 0x24#32) (fun t => lane31 t == 0x2#32) = true := by decide +kernel
/-- R384: −0 is less than +0. -/
theorem test_fmin_of_zeros : after (.fmin 0#1 0#1 0#7 1#7 2#7 0#32) (two 0#32 0x80000000#32) (fun t => lane31 t == 0x80000000#32) = true := by decide +kernel
/-- R383: 2^24 + 1 is a tie that RoundNE takes to 2^24, and a flag is raised. -/
theorem test_fadd_tie : after (.fadd 0#1 0#1 0#7 1#7 2#7 0#32) (two 0x4B800000#32 0x3F800000#32)
    (fun t => lane31 t == 0x4B800000#32 && (t.group 0).sr.fpstat != 0#32) = true := by decide +kernel
/-- R397: BALLOT names the active lanes whose source is not 0. -/
theorem test_ballot : after (.ballot 2#3 1#7) (two 5#32 0#32) (fun t => (t.group 0).kreg 2 == 0x80000001#32) = true := by decide +kernel
/-- R402: SSUB is modulo 2^32 and its destination may be a source. -/
theorem test_ssub_wraps : after (.ssub 9#8 8#8 9#8) (grp (withS [(8, 1#32), (9, 2#32)])) (fun t => (t.group 0).sreg 9 == 0xFFFFFFFF#32) = true := by decide +kernel
/-- R17: the loss of SYSCLK is reported. -/
theorem test_sysclk_fault : after .sysclkFault base (fun t => t.hub.sysclkErr && !t.hub.sysclk) = true := by decide +kernel
/-- R9, R68: a write of the high half of WIN_VIOL leaves the register as it was. -/
theorem test_winViol_high_half : after (.registerWrite 0 0x2204 4 0xFFFFFFFF 0) (hub fun h => { h with winViol := 0x5003 }) (fun t => t.hub.winViol == 0x5003) = true := by decide +kernel
end Sys2Proof.Tests
end

section
/-! PROOFS. Resets, references, boot and the hold-up save (01 R16 to R24; 02 R42, R61, R72, R73; 05 R156 to R163), and
what reset and the start of a group leave (01 R16; 07 R192). First the rules of the operations that the steps share:
an interrupt, FAULT_N, what a reset cuts off, the capture and the start of a save, the writes to the keep die. -/
namespace Sys2Proof.Machine
open Sys2Proof

/-! ### Steps of the part that always happen -/

/-- A step that answers a next state everywhere happens as soon as that state is as it should be. -/
theorem Happens.of_next {e : Instr} {f : State → State} {when_ : State → Prop} {post : State → State → Prop}
    (he : ∀ s, exec e s = .next (f s)) (hp : ∀ s, s.canonical = true → when_ s → post s (f s)) : Happens e when_ post :=
  fun s hc hw => ⟨f s, he s, hp s hc hw⟩

/-- A step that changes a state only through its hub leaves exactly that state. -/
theorem Happens.of_next_eq {e : Instr} {f : State → State} {when_ : State → Prop}
    (he : ∀ s, exec e s = .next (f s)) : Happens e when_ fun s t => t = f s :=
  .of_next he fun _ _ _ => rfl

theorem canonical_keep {s : State} (h : s.canonical = true) : s.hub.keep.wf = true := by
  simp only [State.canonical, Bool.and_eq_true] at h
  exact h.1.2

/-! ### Interrupts and FAULT_N (01 R18; 02 R43, R56) -/

/-- A vector changes what was raised and sent, the functions' pending bits and WIN_VIOL, and nothing else of the hub. -/
theorem vector_frame (h : Hub) (f v : Nat) : ∃ raised fns sent viol,
    (h.vector f v).1 = { h with raised := raised, fns := fns, sent := sent, winViol := viol } := by
  unfold Hub.vector
  split
  · exact ⟨_, _, h.sent, h.winViol, rfl⟩
  · dsimp only
    split
    · exact ⟨_, _, h.sent, h.winViol, rfl⟩
    · split
      · exact ⟨_, _, _, h.winViol, rfl⟩
      · unfold Hub.violated
        split
        · exact ⟨_, _, h.sent, h.winViol, rfl⟩
        · exact ⟨_, _, h.sent, _, rfl⟩

theorem raise_frame (s : State) (f v : Nat) : ∃ raised fns sent viol,
    s.raise f v = s.withHub fun h => { h with raised := raised, fns := fns, sent := sent, winViol := viol } := by
  obtain ⟨r1, f1, s1, w1, h1⟩ := vector_frame s.hub f v
  obtain ⟨r2, f2, s2, w2, h2⟩ := vector_frame (s.hub.vector f v).1 0 5
  unfold State.raise
  dsimp only
  split
  · exact ⟨r2, f2, s2, w2, by rw [h2, h1]; rfl⟩
  · exact ⟨r1, f1, s1, w1, by rw [h1]; rfl⟩

/-- What FAULT_N's assertion can change: the signal, the pending interrupt of the I3C target, and what an interrupt
changes. Where the signal was high and no interrupt pended, the target raises its own. -/
theorem assertFault_frame (s : State) : ∃ raised fns sent viol ibi,
    s.assertFault = (s.withHub fun h =>
      { h with faultN := true, raised := raised, fns := fns, sent := sent, winViol := viol, i3cIbi := ibi }) ∧
    (s.hub.faultN = false → s.hub.i3cIbi = none → ibi = some 1) := by
  unfold State.assertFault
  cases hf : s.hub.faultN
  · obtain ⟨r, f, m, w, h⟩ := raise_frame (s.withHub fun h => { h with faultN := true }) 0 4
    refine ⟨r, f, m, w, s.hub.i3cIbi.orElse fun _ => some 1, ?_, fun _ hi => by rw [hi]; rfl⟩
    rw [if_neg Bool.false_ne_true, h]
    rfl
  · refine ⟨s.hub.raised, s.hub.fns, s.hub.sent, s.hub.winViol, s.hub.i3cIbi, ?_, fun h => absurd h (by decide)⟩
    rw [if_pos rfl]
    unfold State.withHub
    rw [← hf]

/-! ### What a reset or a supply loss cuts off (01 R24; 04 R120; 05 R161) -/

theorem cutSave_of_none {s : State} (h : s.hub.save = none) : s.cutSave = s := by
  unfold State.cutSave
  rw [h]

theorem cutCopy_of_none {s : State} (h : s.hub.ttCmd = none) : s.cutCopy = s := by
  unfold State.cutCopy
  rw [h]

/-- With no save running and no tell-tale copy in progress a reset cuts nothing off. -/
theorem cut_of_none {s : State} (hs : s.hub.save = none) (ht : s.hub.ttCmd = none) : s.cutSave.cutCopy = s := by
  rw [cutSave_of_none hs, cutCopy_of_none ht]

theorem cutCopy_frame (s : State) : ∃ n keep,
    s.cutCopy = { s with fresh := n, hub := { s.hub with keep := keep } } := by
  unfold State.cutCopy
  split
  · exact ⟨s.fresh, s.hub.keep, rfl⟩
  · exact ⟨_, _, rfl⟩

/-! ### Capture and the start of a save (05 R157, R159, R160) -/

theorem railLoss_frame (s : State) (l : List SaveRegion) : ∃ n, (s.railLoss l).2 = { s with fresh := n } := by
  induction l generalizing s with
  | nil => exact ⟨s.fresh, rfl⟩
  | cons r l ih =>
    unfold State.railLoss
    by_cases hk : r.kind % 128 = 1
    · simpa [hk] using ih s
    · simpa [hk] using ih (s.free).2

/-- The capture takes free values and sets the save's regions, and nothing else. -/
theorem capture_frame (s : State) : ∃ n rs,
    s.capture = { s with fresh := n, hub := { s.hub with save := s.hub.save.map fun v => { v with regions := rs } } } := by
  unfold State.capture
  split
  case h_1 v hv =>
    split
    · by_cases hr : v.rails = true
      · exact ⟨s.fresh, some (s.saveRegions v), by rw [if_pos hr, hv]; rfl⟩
      · obtain ⟨n, hn⟩ := railLoss_frame s (s.saveRegions v)
        exact ⟨n, some (s.railLoss (s.saveRegions v)).1, by rw [if_neg hr, hv]; dsimp only; rw [hn]; rfl⟩
    · exact ⟨s.fresh, v.regions, by rw [hv, Option.map_some, ← hv]⟩
  case h_2 hv => exact ⟨s.fresh, none, by rw [hv, Option.map_none, ← hv]⟩

/-- What has been captured is not captured again. -/
theorem capture_of_captured {s : State} {v : Save} {rs : List SaveRegion} (hv : s.hub.save = some v)
    (hr : v.regions = some rs) : s.capture = s := by
  unfold State.capture
  simp [hv, hr]

theorem launchHandler_hub_hv {s t : State} {m : MustSave} {x : Handler} (h : s.launchHandler m = some (t, x)) :
    t.hub = s.hub ∧ t.hv = s.hv := by
  unfold State.launchHandler at h
  dsimp only at h
  split at h
  case h_1 loc victim r _ _ =>
    simp only [Option.some.injEq, Prod.mk.injEq] at h
    obtain ⟨rfl, -⟩ := h
    cases victim <;> exact ⟨rfl, rfl⟩
  case h_2 => cases h

theorem launchHandlers_hub_hv (s : State) (l : List Nat) :
    (s.launchHandlers l).1.hub = s.hub ∧ (s.launchHandlers l).1.hv = s.hv := by
  induction l generalizing s with
  | nil => exact ⟨rfl, rfl⟩
  | cons c l ih =>
    unfold State.launchHandlers
    split
    · exact ih s
    · split
      · exact ih s
      · next s1 x h1 =>
        obtain ⟨hh, ht⟩ := launchHandler_hub_hv h1
        exact ⟨(ih s1).1.trans hh, (ih s1).2.trans ht⟩

/-- A save has begun: it has its cause and the time, nothing of it is written, the copies to the keep die are
abandoned, and the rest of the hub is as it was. -/
theorem startSave_hub (s : State) (event : Nat) (rails : Bool) : ∃ v,
    (s.startSave event rails).hub = { s.hub with save := some v, keepCmd := none, ttCmd := none } ∧
    (s.startSave event rails).hv = s.hv ∧ v.event = event ∧ v.time = s.hv ∧ v.written = false := by
  unfold State.startSave
  dsimp only
  obtain ⟨hh, ht⟩ := launchHandlers_hub_hv s (dedupNat ((s.groups.filter Group.inSlot).map (·.id.ctx)))
  obtain ⟨n, rs, hc⟩ := capture_frame _
  rw [hc]
  exact ⟨_, by rw [withHub_hub, hh]; rfl, ht, rfl, rfl, rfl⟩

/-! ### The writes to the keep die (05 R161) -/

theorem Mem.wf_foldl_put {m : Mem} (h : m.wf = true) (l : List (Nat × List Byte)) :
    (l.foldl (fun (m : Mem) w => m.put w.1 w.2) m).wf = true := by
  induction l generalizing m with
  | nil => exact h
  | cons w l ih => exact ih (Mem.wf_put h w.1 w.2)

theorem Mem.bytes_put_same {m : Mem} (h : m.wf = true) (a : Nat) (b : List Byte) :
    (m.put a b).bytes a b.length = b := by
  refine List.ext_getElem (by simp [Mem.bytes]) fun i _ hi => ?_
  simp [Mem.bytes, Mem.get_put h, hi]

/-- The last of a save's writes is STATE 2, whole, in the header of its slot. -/
theorem keepWrites_saveWrites_state {h : Hub} (hk : h.keep.wf = true) (v : Save) (rs : List SaveRegion) :
    (h.keepWrites (h.saveWrites v rs)).keep.bytes (slotBase h.saveSlot + 2) 2 = leBytes 2 2 := by
  unfold Hub.keepWrites Hub.saveWrites
  rw [List.foldl_append]
  exact Mem.bytes_put_same (Mem.wf_foldl_put hk _) _ (leBytes 2 2)

/-! ### The resets (01 R16; 02 R42, R61, R72) -/

theorem refreshSeams_frame (s : State) : ∃ seams, s.refreshSeams = s.withHub fun h => { h with seams := seams } :=
  ⟨_, rfl⟩

theorem classify_frame (h : Hub) : ∃ stat, h.classify = { h with keepStat := stat } := ⟨_, rfl⟩

/-- The start of the boot sets DEV_STATUS.BOOT by the strap, the keep die's classes and the links' states. -/
theorem bootStart_frame (s : State) : ∃ stat seams,
    s.bootStart = s.withHub fun h => { h with keepStat := stat, seams := seams, boot := if h.strapBoot then 2 else 1 } := by
  unfold State.bootStart
  obtain ⟨seams, hs⟩ := refreshSeams_frame (s.withHub fun h => { h.classify with boot := if h.strapBoot then 2 else 1 })
  obtain ⟨stat, hc⟩ := classify_frame s.hub
  rw [hs]
  exact ⟨stat, seams, by unfold State.withHub; dsimp only; rw [hc]⟩

theorem inHold_eq_false {h : Hub} (hd : h.dstate ≠ 2) (hs : h.save = none) : h.inHold = false := by
  simp [Hub.inHold, hd, hs]

theorem porReset_happens (sa boot train : Nat) :
    Happens (.porReset sa boot train) (fun s => s.hub.save = none ∧ s.hub.ttCmd = none) fun s t =>
      t.groups = [] ∧ t.blocks = [] ∧ t.regions = [] ∧ t.mem = [] ∧ t.windows = [] ∧ t.ctxs = State.reset.ctxs ∧
      t.cells = State.reset.cells ∧ t.panes = State.reset.panes ∧ t.hv = 0 ∧ t.hub.boot = (if boot = 0 then 1 else 2) ∧
      t.hub.strapSa = sa % 4 ∧ t.hub.keep = s.hub.keep ∧ t.hub.pipes = Hub.reset.pipes := by
  refine .of_next (fun s => rfl) fun s _ ⟨hs, ht⟩ => ?_
  rw [cut_of_none hs ht]
  obtain ⟨stat, seams, hb⟩ := bootStart_frame _
  rw [hb]
  refine ⟨rfl, rfl, rfl, rfl, rfl, rfl, rfl, rfl, rfl, ?_, rfl, rfl, rfl⟩
  by_cases h : boot = 0 <;> simp [h]

theorem perstReset_happens (train : Nat) :
    Happens (.perstReset train) (fun s => s.hub.save = none ∧ s.hub.ttCmd = none ∧ s.hub.dstate ≠ 2) fun s t =>
      t.groups = [] ∧ t.regions = [] ∧ t.cells = State.reset.cells ∧ t.mem = s.mem ∧ t.hv = s.hv ∧
      t.hub.clamp = s.hub.clamp ∧ t.hub.ready = s.hub.ready ∧ t.hub.keep = s.hub.keep ∧ t.hub.rung = 5 ∧
      t.hub.rungTgt = 0xFF ∧ t.hub.boot = (if s.hub.strapBoot then 2 else 1) := by
  refine .of_next (fun s => rfl) fun s _ ⟨hs, ht, hd⟩ => ?_
  unfold State.deviceRung
  rw [cut_of_none hs ht]
  dsimp only
  rw [inHold_eq_false hd hs, if_neg Bool.false_ne_true]
  obtain ⟨stat, seams, hb⟩ := bootStart_frame _
  rw [hb]
  exact ⟨rfl, rfl, rfl, rfl, rfl, rfl, rfl, rfl, rfl, rfl, rfl⟩

/-! ### The references (01 R17, R18) -/

theorem dclkFault_happens : Happens .dclkFault (fun _ => True) fun s t =>
    t.hub.dclk = false ∧ t.hub.dclkErr = true ∧ t.hub.faultN = true ∧ t.groups = s.groups ∧
    (s.hub.faultN = false → s.hub.i3cIbi = none → t.hub.i3cIbi = some 1) := by
  refine .of_next (fun s => rfl) fun s _ _ => ?_
  obtain ⟨r, f, m, w, ibi, h, hi⟩ := assertFault_frame (s.withHub fun h => { h with dclk := false, dclkErr := true })
  rw [h]
  exact ⟨rfl, rfl, rfl, rfl, hi⟩

theorem lockstepMismatch_happens : Happens .lockstepMismatch (fun _ => True) fun s t =>
    t.hub.lockstep = true ∧ t.hub.faultN = true ∧ t.groups = s.groups := by
  refine .of_next (fun s => rfl) fun s _ _ => ?_
  obtain ⟨r, f, m, w, ibi, h, -⟩ := assertFault_frame (s.withHub fun h => { h with lockstep := true })
  rw [h]
  exact ⟨rfl, rfl, rfl⟩

/-! ### The hold-up save (01 R22 to R24; 05 R157, R158, R161) -/

/-- The state in which a supply loss has been declared: the switch is open and the reserve is drawn on. -/
def State.lossDeclared (s : State) : State := s.withHub fun h => { h with lost := true, switch := true, ready := false }

/-- A supply loss that had not been declared: with the reserve ready a save starts, else the copies to the keep die end. -/
theorem execSupplyLoss_of_not_lost {s : State} (hl : s.hub.lost = false) (rails : Nat) :
    execSupplyLoss rails s = .next (if s.hub.ready then s.lossDeclared.cutCopy.startSave 0 (rails != 0)
      else s.lossDeclared.cutCopy.withHub fun h => { h with keepCmd := none, ttCmd := none }) := by
  unfold execSupplyLoss
  rw [hl, if_neg Bool.false_ne_true]
  rfl

theorem supplyLoss_happens (rails : Nat) : Happens (.supplyLoss rails) (fun s => s.hub.lost = false) fun s t =>
    t.hub.lost = true ∧ t.hub.switch = true ∧ t.hub.ready = false ∧ t.hub.keepCmd = none ∧ t.hv = s.hv ∧
    (s.hub.ready = false → s.hub.ttCmd = none →
      t = { s with hub := { s.hub with lost := true, switch := true, ready := false, keepCmd := none } }) ∧
    (s.hub.ready = true → ∃ v, t.hub.save = some v ∧ v.event = 0 ∧ v.time = s.hv ∧ v.written = false) := by
  intro s _ hl
  refine ⟨_, execSupplyLoss_of_not_lost hl rails, ?_⟩
  obtain ⟨n, keep, hcut⟩ := cutCopy_frame s.lossDeclared
  cases hr : s.hub.ready
  case false =>
    rw [if_neg Bool.false_ne_true]
    refine ⟨by rw [hcut]; rfl, by rw [hcut]; rfl, by rw [hcut]; rfl, rfl, by rw [hcut]; rfl, fun _ ht => ?_,
      fun h => absurd h Bool.false_ne_true⟩
    rw [cutCopy_of_none (s := s.lossDeclared) ht]
    simp [State.lossDeclared, State.withHub, ← ht]
  case true =>
    rw [if_pos rfl]
    obtain ⟨v, hhub, hhv, hev, htime, hw⟩ := startSave_hub s.lossDeclared.cutCopy 0 (rails != 0)
    rw [hhub, hhv]
    rw [hcut] at htime ⊢
    exact ⟨rfl, rfl, rfl, rfl, rfl, fun h => absurd h.symm Bool.false_ne_true, fun _ => ⟨v, rfl, hev, htime, hw⟩⟩

theorem handlerBudgetExpiry_happens (k : Nat) (v : Save) (x : Handler) : Happens (.handlerBudgetExpiry k)
    (fun s => s.hub.save = some v ∧ v.handlers[k]? = some x ∧ x.expired = false ∧ s.handlerDone x = false ∧
      x.deadline ≤ s.hv ∧ x.group < s.groups.length)
    fun _ t => (t.group x.group).ctl.live = 0#32 ∧ ∃ v' x', t.hub.save = some v' ∧ v'.handlers[k]? = some x' ∧
      x'.expired = true ∧ x'.group = x.group := by
  refine .of_next (fun s => rfl) fun s _ ⟨hv, hk, he, hd, hle, hi⟩ => ?_
  simp only [hv, hk, he, hd, Nat.not_lt.mpr hle, decide_false, Bool.or_self, Bool.false_eq_true, if_false]
  obtain ⟨n, rs, hc⟩ := capture_frame _
  rw [hc]
  refine ⟨?_, _, { x with expired := true }, rfl, ?_, rfl, rfl⟩
  · exact congrArg (fun g : Group => g.ctl.live) (group_setGroup hi _)
  · simp [getElem?_modifyAt, hk]

theorem holdupSaveComplete_happens (v : Save) (rs : List SaveRegion) : Happens .holdupSaveComplete
    (fun s => s.hub.save = some v ∧ v.written = false ∧ v.regions = some rs)
    fun s t => t.hub.save = some { v with written := true } ∧ t.groups = s.groups ∧
      t.hub.keep.bytes (slotBase s.hub.saveSlot + 2) 2 = leBytes 2 2 ∧
      t.hub.dstate = if v.event = 1 then 2 else s.hub.dstate := by
  refine .of_next (fun s => rfl) fun s hcan ⟨hv, hw, hr⟩ => ?_
  simp only [capture_of_captured hv hr, hv, hw, hr, withHub_hub, withHub_groups, true_and, and_true]
  exact keepWrites_saveWrites_state (canonical_keep hcan) v rs

/-! ### Boot (02 R42, R72, R73) -/

theorem bootGo_happens (v : Nat) : Happens (.bootGo v) (fun s => s.hub.boot = 2 ∧ bit v 0 = true) fun s t =>
    t = { s with hub := { s.hub with boot := 3 } } :=
  .of_next (fun _ => rfl) fun _ _ h => if_pos h

theorem firmwareImageCheck_happens (sig key gen build raise : Nat) :
    Happens (.firmwareImageCheck sig key gen build raise) (fun s => s.hub.boot = 1 ∨ s.hub.boot = 3) fun s t =>
      (sig = 0 ∨ key = 0 → t.hub.boot = 5 ∧ t.hub.fwGen = s.hub.fwGen) ∧
      (sig ≠ 0 → key ≠ 0 → gen < max Config.fusedFloor s.hub.fwFloor → t.hub.boot = 6 ∧ t.hub.fwGen = s.hub.fwGen) ∧
      (sig ≠ 0 → key ≠ 0 → max Config.fusedFloor s.hub.fwFloor ≤ gen → t.hub.fwGen = gen % 2 ^ 32 ∧
        t.hub.fwBuild = build % 2 ^ 32 ∧ s.hub.fwFloor ≤ t.hub.fwFloor ∧
        ((∀ c ∈ s.hub.chanMap, c ≠ none) → t.hub.boot = 4)) := by
  refine .of_next (fun s => rfl) fun s _ hb => ?_
  rw [if_neg (by omega)]
  by_cases hk : sig = 0 ∨ key = 0
  · rw [withHub_hub, if_pos hk]
    exact ⟨fun _ => ⟨rfl, rfl⟩, fun h1 h2 => absurd hk (by omega), fun h1 h2 => absurd hk (by omega)⟩
  · rw [withHub_hub, if_neg hk]
    refine ⟨fun h => absurd h hk, fun _ _ hg => ?_, fun _ _ hg => ?_⟩
    · rw [if_pos hg]
      exact ⟨rfl, rfl⟩
    · rw [if_neg (Nat.not_lt.mpr hg)]
      refine ⟨rfl, rfl, ?_, fun hc => ?_⟩
      · dsimp only
        split
        · exact le_rfl
        · exact le_max_left _ _
      · have : s.hub.chanMap.any (·.isNone) = false := by simpa [Option.isSome_iff_ne_none] using hc
        simp [this]

/-- Settles O45, one rule for each step: the resets, the references, the hold-up save and the boot. -/
theorem resetsBootAndHoldUp : Obligations.ResetsBootAndHoldUp :=
  ⟨porReset_happens, perstReset_happens, .of_next_eq fun _ => rfl, .of_next_eq fun _ => rfl, dclkFault_happens,
    .of_next_eq fun _ => rfl, lockstepMismatch_happens, .of_next_eq fun _ => rfl, supplyLoss_happens,
    handlerBudgetExpiry_happens, holdupSaveComplete_happens, .of_next_eq fun _ => rfl, bootGo_happens,
    firmwareImageCheck_happens⟩

/-! ### What reset leaves (01 R16; 02 R44, R67, R71; 03 R74, R80; 04 R106, R121, R127; 05 R153, R163) -/

theorem reset_canonical : State.reset.canonical = true := rfl

theorem reset_machine : State.reset.canonical = true ∧ State.reset.groups = [] ∧ State.reset.regions = [] ∧
    State.reset.agenda = [] ∧ (∀ p ∈ State.reset.partOwner, p = 0xFF) ∧
    (∀ c ∈ State.reset.cells, c.power = .off ∧ ∀ q ∈ c.quads, q.owned = false) ∧
    (∀ p ∈ State.reset.panes, p.power = .off ∧ p.quarantined = false) := by
  refine ⟨reset_canonical, rfl, rfl, rfl, fun p hp => List.eq_of_mem_replicate hp, fun c hc => ?_, fun p hp => ?_⟩
  · obtain rfl := List.eq_of_mem_replicate hc
    exact ⟨rfl, fun q hq => by rw [List.eq_of_mem_replicate hq]; rfl⟩
  · obtain rfl := List.eq_of_mem_replicate hp
    exact ⟨rfl, rfl⟩

theorem reset_windows : ∀ w ∈ Hub.reset.winBase ++ Hub.reset.winLimit, w = 0 := fun _ hw =>
  (List.mem_append.mp hw).elim List.eq_of_mem_replicate List.eq_of_mem_replicate

theorem reset_fns : ∀ f ∈ Hub.reset.fns, f.latch = [0, 0, 0, 0] ∧ f.queue = [[], [], [], []] ∧ f.rej = 0 :=
    fun f hf => by
  obtain rfl := List.eq_of_mem_replicate hf
  exact ⟨rfl, rfl, rfl⟩

theorem reset_pipes : ∀ p ∈ Hub.reset.pipes,
    p.en = false ∧ p.rej = false ∧ p.tt = 0 ∧ p.mismatch = 0 ∧ p.late = 0 ∧ p.diff = 0 := fun p hp => by
  obtain rfl := List.eq_of_mem_replicate hp
  exact ⟨rfl, rfl, rfl, rfl, rfl, rfl⟩

theorem reset_cams : ∀ c ∈ Hub.reset.cams, c.ctl = 0 ∧ c.count = 0 ∧ c.drops = 0 := fun c hc => by
  obtain rfl := List.eq_of_mem_replicate hc
  exact ⟨rfl, rfl, rfl⟩

/-! ### The start of a group (07 R192) -/

section
variable {r : Region} {b blk seg : Nat} {x : Segment} {tidx : List Nat} {live : Lanes} {loc : GLoc} {pc : DWord}
  {again : Bool} {pb now : Nat}

theorem born_vreg (n : Nat) : (Group.born r b blk seg x tidx live loc pc again pb now).vreg n = VReg.zero :=
  List.getElem?_getD_replicate_default_eq _ _ _

theorem born_kreg {n : Nat} (hn : 1 ≤ n) : (Group.born r b blk seg x tidx live loc pc again pb now).kreg n = 0#32 := by
  unfold Group.kreg
  rw [if_neg (by omega)]
  exact List.getElem?_getD_replicate_default_eq _ _ _

theorem born_gen : (Group.born r b blk seg x tidx live loc pc again pb now).id.gen =
    (List.range 32).map fun l => seedState 0#32 (tidx.getD l 0) := rfl

theorem born_genOf {l : Nat} (hl : l < 32) :
    (Group.born r b blk seg x tidx live loc pc again pb now).genOf l = seedState 0#32 (tidx.getD l 0) := by
  rw [Group.genOf, born_gen, List.getD_eq_getElem?_getD, List.getElem?_map, List.getElem?_range hl, Option.map_some,
    Option.getD_some]

end

/-- Settles O57: each part of the reset state and of the group's start by its own lemma, the rest by definition. -/
theorem resetAndGroupStart : Obligations.ResetAndGroupStart :=
  ⟨reset_machine, ⟨rfl, rfl, rfl, reset_windows, rfl, rfl, rfl, rfl, rfl, rfl⟩,
    ⟨reset_fns, rfl, rfl, rfl, rfl, rfl, rfl, rfl⟩, reset_pipes, reset_cams,
    fun _ _ _ _ _ _ _ _ _ _ _ _ => ⟨rfl, rfl, rfl, rfl, rfl, rfl, fun n => congrArg VReg.val (born_vreg n),
      fun _ => born_kreg, rfl, rfl, rfl, rfl, rfl, rfl, rfl, fun _ => born_genOf⟩⟩

end Sys2Proof.Machine
end

section
/-! PROOFS. The clamp's trigger (02 R64, R65) and the host's requests (02 R42 to R56, R69 to R72; 01 R39; 03 R84 to
R86), each after the rules of what it shares with others: the fields of a number, a function's share of the host
interface, what an interrupt and an I3C transfer leave, translation under a change of the hub, a write within one page,
the start of the context rung. -/
namespace Sys2Proof.Machine
open Sys2Proof

/-! ### The clamp (02 R64, R65) -/

@[simp] theorem ibi_clamp (s : State) (b : Nat) : (s.ibi b).hub.clamp = s.hub.clamp := rfl

theorem raise_clamp (s : State) (f v : Nat) : (s.raise f v).hub.clamp = s.hub.clamp := by
  obtain ⟨r, fns, m, w, h⟩ := raise_frame s f v
  rw [h]
  rfl

/-- The first trigger's cause is the only one, and it holds the kind of the condition as the event gives it. -/
theorem clampTrigger_causes {s : State} (h : s.hub.clamp.causes = []) (kind pane temp : Nat) :
    ∃ t, exec (.clampTrigger kind pane temp) s = .next t ∧
      t.hub.clamp.causes = [⟨kind, clampPanes kind pane % 16, 0, true⟩] := by
  refine ⟨_, rfl, ?_⟩
  rw [ibi_clamp, raise_clamp]
  simp [h]

/-- Refutes O46 by its clause on CLAMP_TRIGGER, which speaks of every number as the kind: from reset, where no clamp is in
force, kind 16 leaves a clamp of kind 16, and the clause says `16 % 16`. The model keeps the kind whole and takes its low
four bits only in CLAMP_STAT (R65); the causes of R64 are the kinds 1 to 4. -/
theorem not_powerAndClamp : ¬ Obligations.PowerAndClamp := by
  unfold Obligations.PowerAndClamp
  rintro ⟨-, -, -, -, -, trigger, -⟩
  obtain ⟨t, ht, -, hkind, -⟩ := trigger 16 0 0 State.reset reset_canonical rfl
  obtain ⟨t', ht', hcauses⟩ := clampTrigger_causes (s := State.reset) rfl 16 0 0
  obtain rfl : t' = t := by simpa [ht] using ht'.symm
  have h16 : t'.hub.clamp.kind = 16 := by
    unfold Clamp.kind
    rw [hcauses]
    rfl
  exact absurd (h16.symm.trans hkind) (by decide)

/-! ### Fields of a number (00 R8) -/

theorem testBit_bits (x hi lo i : Nat) :
    (bits x hi lo).testBit i = (decide (i < hi + 1 - lo) && x.testBit (lo + i)) := by
  simp [bits, Nat.testBit_mod_two_pow, Nat.testBit_div_two_pow, Nat.add_comm]

/-- A number with a field put into it, from the bits above the field, the field and the bits below. -/
theorem putBits_eq (x hi lo v : Nat) : putBits x hi lo v =
    2 ^ lo * (2 ^ (hi + 1 - lo) * (x / 2 ^ lo / 2 ^ (hi + 1 - lo)) + v % 2 ^ (hi + 1 - lo)) + x % 2 ^ lo := by
  have hx : x =
      2 ^ lo * (2 ^ (hi + 1 - lo) * (x / 2 ^ lo / 2 ^ (hi + 1 - lo))) + x % 2 ^ lo + bits x hi lo * 2 ^ lo := by
    unfold bits
    conv_lhs => rw [← Nat.div_add_mod x (2 ^ lo), ← Nat.div_add_mod (x / 2 ^ lo) (2 ^ (hi + 1 - lo))]
    ring
  unfold putBits
  rw [Nat.sub_eq_of_eq_add hx]
  ring

/-- A field put into a number stands there, and every other bit is as it was. -/
theorem testBit_putBits (x v j : Nat) {hi lo : Nat} (h : lo ≤ hi) :
    (putBits x hi lo v).testBit j = if lo ≤ j ∧ j ≤ hi then v.testBit (j - lo) else x.testBit j := by
  rw [putBits_eq, Nat.testBit_two_pow_mul_add _ (Nat.mod_lt _ (Nat.two_pow_pos lo)),
    Nat.testBit_two_pow_mul_add _ (Nat.mod_lt _ (Nat.two_pow_pos _))]
  simp only [Nat.testBit_mod_two_pow, Nat.testBit_div_two_pow]
  by_cases hl : j < lo
  · simp [hl, Nat.not_le.mpr hl]
  · by_cases hh : j ≤ hi
    · simp [hl, hh, Nat.not_lt.mp hl, show j - lo < hi + 1 - lo by omega]
    · simp [hl, hh, show ¬ j - lo < hi + 1 - lo by omega,
        show j - lo - (hi + 1 - lo) + (hi + 1 - lo) + lo = j by omega]

theorem bits_putBits_same (x v : Nat) {hi lo : Nat} (h : lo ≤ hi) :
    bits (putBits x hi lo v) hi lo = v % 2 ^ (hi + 1 - lo) := by
  refine Nat.eq_of_testBit_eq fun i => ?_
  rw [testBit_bits, testBit_putBits _ _ _ h, Nat.testBit_mod_two_pow]
  by_cases hi' : i < hi + 1 - lo
  · simp [hi', show lo + i ≤ hi by omega]
  · simp [hi']

theorem bits_putBits_above (x v : Nat) {hi lo hi' lo' : Nat} (h : lo ≤ hi) (hlo : hi < lo') :
    bits (putBits x hi lo v) hi' lo' = bits x hi' lo' := by
  refine Nat.eq_of_testBit_eq fun i => ?_
  simp [testBit_bits, testBit_putBits _ _ _ h, show ¬ lo' + i ≤ hi by omega]

theorem bits_mod_two_pow (x : Nat) {hi lo n : Nat} (h : hi < n) : bits (x % 2 ^ n) hi lo = bits x hi lo := by
  refine Nat.eq_of_testBit_eq fun i => ?_
  rw [testBit_bits, testBit_bits, Nat.testBit_mod_two_pow]
  by_cases hi' : i < hi + 1 - lo
  · simp [hi', show lo + i < n by omega]
  · simp [hi']

theorem bit_putBits (x v j : Nat) {hi lo : Nat} (h : lo ≤ hi) :
    bit (putBits x hi lo v) j = if lo ≤ j ∧ j ≤ hi then bit v (j - lo) else bit x j := testBit_putBits x v j h

/-- Taking from a number the bits that it shares with a mask clears them. -/
theorem testBit_sub_and (x m b : Nat) : (x - (x &&& m)).testBit b = (x.testBit b && !m.testBit b) := by
  induction b generalizing x m with
  | zero =>
    have hodd : (x &&& m) % 2 = 1 ↔ x % 2 = 1 ∧ m % 2 = 1 := Nat.and_mod_two_eq_one
    have hle : x &&& m ≤ x := Nat.and_le_left
    rw [Bool.eq_iff_iff]
    simp only [Nat.testBit_zero, Bool.and_eq_true, Bool.not_eq_true', decide_eq_true_eq, decide_eq_false_iff_not]
    omega
  | succ b ih =>
    have hdiv : (x &&& m) / 2 = x / 2 &&& m / 2 := Nat.and_div_two
    have hodd : (x &&& m) % 2 = 1 ↔ x % 2 = 1 ∧ m % 2 = 1 := Nat.and_mod_two_eq_one
    have hle : x / 2 &&& m / 2 ≤ x / 2 := Nat.and_le_left
    have hhalf : (x - (x &&& m)) / 2 = x / 2 - (x / 2 &&& m / 2) := by omega
    rw [Nat.testBit_add_one, Nat.testBit_add_one, Nat.testBit_add_one, hhalf, ih]

/-! ### A function's share of the host interface (02 R41, R44, R53) -/

theorem fn_of_modifyAt {h h' : Hub} {f : Nat} {p : HostFn → HostFn} (hf : h'.fns = modifyAt h.fns f p) (g : Nat) :
    h'.fn g = if g = f ∧ f < h.fns.length then p (h.fn g) else h.fn g := by
  simp only [Hub.fn, List.getD_eq_getElem?_getD, hf, getD_modifyAt]

theorem fn_modFn {s : State} {f : Nat} (hf : f < s.hub.fns.length) (p : HostFn → HostFn) :
    (s.modFn f p).hub.fn f = p (s.hub.fn f) :=
  (fn_of_modifyAt rfl f).trans (if_pos ⟨rfl, hf⟩)

@[simp] theorem modFn_length (s : State) (f : Nat) (p : HostFn → HostFn) :
    (s.modFn f p).hub.fns.length = s.hub.fns.length := length_modifyAt ..

theorem pend_frame (x : HostFn) (v : Nat) : ∃ l, x.pend v = { x with pending := l } := by
  unfold HostFn.pend
  split
  · exact ⟨_, rfl⟩
  · exact ⟨x.pending, rfl⟩

theorem vector_fns (h : Hub) (f v : Nat) : (h.vector f v).1.fns = modifyAt h.fns f fun x => x.pend v := by
  unfold Hub.vector
  split
  · rfl
  · dsimp only
    split
    · rfl
    · split
      · rfl
      · unfold Hub.violated
        split <;> rfl

theorem vector_fn (h : Hub) (f v g : Nat) : ∃ l, (h.vector f v).1.fn g = { h.fn g with pending := l } := by
  rw [fn_of_modifyAt (vector_fns h f v)]
  split
  · exact pend_frame _ v
  · exact ⟨(h.fn g).pending, rfl⟩

/-- Of a function's share an interrupt changes only which vectors are pending. -/
theorem raise_fn (s : State) (f v g : Nat) : ∃ l, (s.raise f v).hub.fn g = { s.hub.fn g with pending := l } := by
  obtain ⟨l, h⟩ := vector_fn s.hub f v g
  unfold State.raise
  dsimp only
  split
  · obtain ⟨l', h'⟩ := vector_fn (s.hub.vector f v).1 0 5 g
    exact ⟨l', h'.trans (by rw [h])⟩
  · exact ⟨l, h⟩

/-! ### Posts (02 R44 to R48) -/

/-- The word of a POST write of 64 bits with a command of its own. -/
def postWordOf (v cmd : Nat) : Nat := putBits v 7 0 cmd % 2 ^ 64

theorem bits_postWordOf_cmd (v cmd : Nat) : bits (postWordOf v cmd) 7 0 = cmd % 2 ^ 8 :=
  (bits_mod_two_pow _ (by decide)).trans (bits_putBits_same v cmd (Nat.zero_le 7))

theorem bits_postWordOf (v cmd : Nat) {hi lo : Nat} (hlo : 7 < lo) (hhi : hi < 64) :
    bits (postWordOf v cmd) hi lo = bits v hi lo :=
  (bits_mod_two_pow _ hhi).trans (bits_putBits_above v cmd (Nat.zero_le 7) hlo)

theorem bit_postWordOf_8 (v cmd : Nat) : bit (postWordOf v cmd) 8 = bit v 8 := by
  unfold postWordOf bit
  rw [Nat.testBit_mod_two_pow, testBit_putBits _ _ _ (Nat.zero_le 7)]
  rfl

theorem postWrite_word {s : State} {f cls : Nat} (ha : s.answers f = true) (hc : cls < 4) (v cmd : Nat) :
    s.postWrite f cls 0 (putBits v 7 0 cmd) = s.postCmd f cls (postWordOf v cmd) := by
  simp [State.postWrite, ha, Nat.not_le.mpr hc, postWordOf]

theorem postCmd_root (s : State) (f cls v : Nat) :
    s.postCmd f cls (postWordOf v 0) = s.postRoot f cls (postWordOf v 0) := by
  unfold State.postCmd
  rw [bits_postWordOf_cmd]
  rfl

theorem postCmd_resyncMemory (s : State) (f cls v : Nat) :
    s.postCmd f cls (postWordOf v 1) = s.resyncMemory f cls (postWordOf v 1) := by
  unfold State.postCmd
  rw [bits_postWordOf_cmd]
  rfl

theorem postCmd_resyncWindow (s : State) (f cls v : Nat) :
    s.postCmd f cls (postWordOf v 2) = s.resyncWindow f cls := by
  unfold State.postCmd
  rw [bits_postWordOf_cmd]
  rfl

/-- Nothing bars a command that names a context of the function's own in a device that is up. -/
theorem postBars_of_ok {s : State} {f v : Nat} (cmd : Nat) (ho : s.owns f (bits v 63 58) = true)
    (hz : bits v 57 48 = 0) (hb : s.hub.boot = 4) (hd : s.hub.dstate = 0) : s.postBars f (postWordOf v cmd) = [] := by
  simp [State.postBars, bits_postWordOf, ho, hz, hb, hd]

theorem postRootRegion_happens (f cls v : Nat) : Happens (.postRootRegion f cls 0 v)
    (fun s => s.answers f = true ∧ cls < 4 ∧ f < s.hub.fns.length ∧ (s.hub.fn f).queue.length = 4 ∧
      (s.hub.fn f).result.length = 4 ∧ ((s.hub.fn f).queue.getD cls []).length < 8 ∧ s.owns f (bits v 63 58) = true ∧
      bits v 57 48 = 0 ∧ s.hub.boot = 4 ∧ s.hub.dstate = 0 ∧ (s.ctx (bits v 63 58)).state ≠ 5)
    fun s t => t.groups = s.groups ∧ (t.hub.fn f).result.getD cls 1 = 0 ∧
      (t.hub.fn f).queue.getD cls [] = (s.hub.fn f).queue.getD cls [] ++ [(bits v 63 58, bits v 47 8 * 256)] := by
  refine .of_next (fun s => rfl) fun s _ ⟨ha, hc, hf, hq, hr, hroom, ho, hz, hb, hd, hst⟩ => ?_
  rw [if_pos rfl, postWrite_word ha hc, postCmd_root]
  unfold State.postRoot
  simp only [postBars_of_ok 0 ho hz hb hd, bits_postWordOf, Nat.not_le.mpr hroom, hst, Nat.reduceLT, if_false,
    List.append_nil, List.isEmpty_nil, Bool.not_true, Bool.false_eq_true, modCtx_groups, modCtx_hub]
  unfold State.postResult
  rw [fn_modFn (by rw [modFn_length]; exact hf), fn_modFn hf]
  exact ⟨rfl, by simp [hr, hc], by simp [hq, hc]⟩

theorem postLowHalfWrite_happens (f cls v : Nat) : Happens (.postLowHalfWrite f cls v)
    (fun s => s.answers f = true ∧ cls < 4 ∧ f < s.hub.fns.length ∧ (s.hub.fn f).latch.length = 4)
    fun s t => (t.hub.fn f).latch.getD cls 0 = v % 2 ^ 32 ∧ (t.hub.fn f).queue = (s.hub.fn f).queue ∧
      t.groups = s.groups := by
  refine .of_next (fun s => rfl) fun s _ ⟨ha, hc, hf, hl⟩ => ?_
  rw [if_neg (by simp [ha, hc]), fn_modFn hf]
  exact ⟨by simp [hl, hc], rfl, rfl⟩

/-! ### RESYNC (02 R49 to R53) -/

/-- The number of a function's next summary. -/
def State.summarySeq (s : State) (f : Nat) : Nat := ((s.hub.fn f).seq + 1) % 2 ^ 32

/-- A summary taken: the count has advanced, and the window holds `b`. -/
def State.resynced (s : State) (f : Nat) (b : List Byte) : State :=
  (s.modFn f fun x => { x with seq := s.summarySeq f }).modFn f fun x => { x with window := b }

theorem resyncTake_eq (s : State) (f : Nat) :
    s.resyncTake f = (s.summary f (s.summarySeq f), s.modFn f fun x => { x with seq := s.summarySeq f }) := rfl

@[simp] theorem resynced_length (s : State) (f : Nat) (b : List Byte) :
    (s.resynced f b).hub.fns.length = s.hub.fns.length := by
  simp [State.resynced]

@[simp] theorem resynced_mem (s : State) (f : Nat) (b : List Byte) : (s.resynced f b).mem = s.mem := rfl

theorem fn_resynced {s : State} {f : Nat} (hf : f < s.hub.fns.length) (b : List Byte) :
    (s.resynced f b).hub.fn f = { s.hub.fn f with seq := s.summarySeq f, window := b } := by
  unfold State.resynced
  rw [fn_modFn (by rw [modFn_length]; exact hf), fn_modFn hf]

@[simp] theorem resyncDone_mem (s : State) (f cls r : Nat) : (s.resyncDone f cls r).mem = s.mem := rfl

theorem fn_resyncDone {s : State} {f : Nat} (hf : f < s.hub.fns.length) (cls r : Nat) : ∃ l,
    (s.resyncDone f cls r).hub.fn f =
      { s.hub.fn f with result := (s.hub.fn f).result.set cls r, pending := l } := by
  obtain ⟨l, h⟩ := raise_fn (s.postResult f cls r) f (if f = 0 then 2 else 1) f
  refine ⟨l, h.trans ?_⟩
  unfold State.postResult
  rw [fn_modFn hf]

theorem result_resyncDone {s : State} {f cls r : Nat} (hf : f < s.hub.fns.length)
    (hc : cls < (s.hub.fn f).result.length) : ((s.resyncDone f cls r).hub.fn f).result.getD cls 1 = r := by
  obtain ⟨l, h⟩ := fn_resyncDone hf cls r
  simp [h, hc]

theorem resyncWindow_eq (s : State) (f cls : Nat) :
    s.resyncWindow f cls = (s.resynced f (s.summary f (s.summarySeq f))).resyncDone f cls 0 := by
  unfold State.resyncWindow
  rw [resyncTake_eq]
  rfl

theorem resyncToWindow_happens (f cls v : Nat) : Happens (.resyncToWindow f cls 0 v)
    (fun s => s.answers f = true ∧ cls < 4 ∧ f < s.hub.fns.length ∧ (s.hub.fn f).result.length = 4)
    fun s t => (t.hub.fn f).window = s.summary f (((s.hub.fn f).seq + 1) % 2 ^ 32) ∧
      (t.hub.fn f).seq = ((s.hub.fn f).seq + 1) % 2 ^ 32 ∧ (t.hub.fn f).result.getD cls 1 = 0 ∧ t.mem = s.mem := by
  refine .of_next (fun s => rfl) fun s _ ⟨ha, hc, hf, hr⟩ => ?_
  rw [if_pos rfl, postWrite_word ha hc, postCmd_resyncWindow, resyncWindow_eq]
  obtain ⟨l, h⟩ := fn_resyncDone (s := s.resynced f (s.summary f (s.summarySeq f))) (by rw [resynced_length]; exact hf) cls 0
  rw [h, fn_resynced hf, resyncDone_mem, resynced_mem]
  exact ⟨rfl, rfl, by simp [hr, hc], rfl⟩

/-! ### Translation and memory (08 R237 to R241): the hub has no part in them -/

theorem walk1_withHub (s : State) (p : Hub → Hub) (f va fuel table level : Nat) :
    (s.withHub p).walk1 f va fuel table level = s.walk1 f va fuel table level := by
  induction fuel generalizing table level with
  | zero => rfl
  | succ n ih =>
    unfold State.walk1
    simp only [ih]
    rfl

theorem xlate_withHub (s : State) (p : Hub → Hub) (cell quad c : Nat) (a : Acc) (va : Nat) :
    (s.withHub p).xlate cell quad c a va = s.xlate cell quad c a va := by
  unfold State.xlate
  simp only [walk1_withHub]
  rfl

theorem walkPoison_withHub (s : State) (p : Hub → Hub) (f va fuel table level : Nat) :
    (s.withHub p).walkPoison f va fuel table level = s.walkPoison f va fuel table level := by
  induction fuel generalizing table level with
  | zero => rfl
  | succ n ih =>
    unfold State.walkPoison
    simp only [ih]
    rfl

/-- Bytes within one page of a context's space go to the place that its translation gives. -/
theorem writeVa_page {s : State} {c va : Nat} {b : List Byte} {e : TlbEntry}
    (hx : s.xlate Config.cells 0 c ⟨true, false, true⟩ va = .ok e) (hne : b ≠ []) (hb : va % 4096 + b.length ≤ 4096) :
    s.writeVa c va b = .ok (s.homeWrite (e.phys va) b) := by
  have hsys : s.xlateSys c va true = .ok (e.phys va) := by
    unfold State.xlateSys
    rw [hx]
  have htake : b.take (4096 - va % 4096) = b := List.take_of_length_le (by omega)
  have hdrop : b.drop (4096 - va % 4096) = [] := List.drop_eq_nil_of_le (by omega)
  simp [State.writeVa, State.writeVaGo, hne, hsys, htake, hdrop]

theorem length_leBytes (n v : Nat) : (leBytes n v).length = n := by
  induction n generalizing v with
  | zero => rfl
  | succ n ih => simp [leBytes, ih]

theorem length_keepBytes (k : KeepStat) : k.bytes.length = 8 := by
  simp [KeepStat.bytes, length_leBytes]

theorem length_summaryHead (s : State) (view seq : Nat) : (s.summaryHead view seq).length = 508 := by
  unfold State.summaryHead
  simp only [List.length_append, List.length_map, List.length_range, List.length_replicate, List.length_flatMap,
    length_leBytes, length_keepBytes, List.map_const', List.sum_replicate]
  rfl

/-- The summary is 512 bytes long (02 R52). -/
theorem length_summary (s : State) (view seq : Nat) : (s.summary view seq).length = 512 := by
  unfold State.summary
  dsimp only
  rw [List.length_append, length_leBytes, length_summaryHead]

@[simp] theorem homeWrite_hub (s : State) (a : Nat) (b : List Byte) : (s.homeWrite a b).hub = s.hub := rfl
@[simp] theorem homeWrite_mem (s : State) (a : Nat) (b : List Byte) : (s.homeWrite a b).mem = s.mem.put a b := rfl

/-- RESYNC to memory where nothing bars it and the address translates. -/
theorem resyncMemory_of_ok {s : State} {f cls v : Nat} {e : TlbEntry} (ho : s.owns f (bits v 63 58) = true)
    (hz : bits v 57 48 = 0) (h8 : bit v 8 = false) (hpage : bits v 47 8 * 256 % 4096 ≤ 3584) (hb : s.hub.boot = 4)
    (hd : s.hub.dstate = 0)
    (hp : s.walkPoison (s.ctxFunc (bits v 63 58)) (bits v 47 8 * 256) 4 (s.ctx (bits v 63 58)).s1root 0 = false)
    (hx : s.xlate Config.cells 0 (bits v 63 58) ⟨true, false, true⟩ (bits v 47 8 * 256) = .ok e) :
    s.resyncMemory f cls (postWordOf v 1) =
      ((s.resynced f (s.summary f (s.summarySeq f))).homeWrite (e.phys (bits v 47 8 * 256))
        (s.summary f (s.summarySeq f))).resyncDone f cls 0 := by
  unfold State.resyncMemory
  have hlen := length_summary s f (s.summarySeq f)
  rw [resyncTake_eq]
  generalize s.summary f (s.summarySeq f) = b at hlen
  have hwrite : (s.resynced f b).writeVa (bits v 63 58) (bits v 47 8 * 256) b =
      .ok ((s.resynced f b).homeWrite (e.phys (bits v 47 8 * 256)) b) :=
    writeVa_page ((xlate_withHub ..).trans ((xlate_withHub ..).trans hx)) (List.ne_nil_of_length_pos (by omega)) (by omega)
  have hpoison : (s.resynced f b).walkPoison (s.ctxFunc (bits v 63 58)) (bits v 47 8 * 256) 4
      (s.ctx (bits v 63 58)).s1root 0 = false :=
    (walkPoison_withHub ..).trans ((walkPoison_withHub ..).trans hp)
  simp only [postBars_of_ok 1 ho hz hb hd, bits_postWordOf, bit_postWordOf_8, h8, Nat.reduceLT, List.append_nil,
    List.isEmpty_nil, Bool.not_true, Bool.false_eq_true, if_false]
  unfold State.resynced at hwrite hpoison ⊢
  refine (if_neg (by rw [Bool.not_eq_true]; exact hpoison)).trans ?_
  rw [hwrite]

theorem resyncToMemory_happens (f cls v : Nat) (e : TlbEntry) : Happens (.resyncToMemory f cls 0 v)
    (fun s =>
      let c := bits v 63 58
      s.answers f = true ∧ cls < 4 ∧ f < s.hub.fns.length ∧ (s.hub.fn f).result.length = 4 ∧ s.owns f c = true ∧
      bits v 57 48 = 0 ∧ bit v 8 = false ∧ bits v 47 8 * 256 % 4096 ≤ 3584 ∧ s.hub.boot = 4 ∧ s.hub.dstate = 0 ∧
      s.walkPoison (s.ctxFunc c) (bits v 47 8 * 256) 4 (s.ctx c).s1root 0 = false ∧
      s.xlate Config.cells 0 c ⟨true, false, true⟩ (bits v 47 8 * 256) = .ok e)
    fun s t => (t.hub.fn f).result.getD cls 1 = 0 ∧ ∀ a, t.mem.get a =
      (s.mem.put (e.phys (bits v 47 8 * 256)) (s.summary f (((s.hub.fn f).seq + 1) % 2 ^ 32))).get a := by
  refine .of_next (fun s => rfl) fun s _ ⟨ha, hc, hf, hr, ho, hz, h8, hpage, hb, hd, hp, hx⟩ => ?_
  rw [if_pos rfl, postWrite_word ha hc, postCmd_resyncMemory, resyncMemory_of_ok ho hz h8 hpage hb hd hp hx]
  refine ⟨?_, fun a => ?_⟩
  · refine result_resyncDone ?_ ?_
    · rw [homeWrite_hub, resynced_length]
      exact hf
    · rw [homeWrite_hub, fn_resynced hf]
      exact hr.symm ▸ hc
  · rw [resyncDone_mem, homeWrite_mem, resynced_mem, State.summarySeq]

/-! ### FAULT_CTL, the links' status and the boot buffer (01 R39; 02 R70, R72) -/

theorem faultClear_happens (v same : Nat) : Happens (.faultClear v 0 same)
    (fun s => s.hub.dclk = true ∧ same = 0 ∧ (s.hub.lockstep = true → bit v 2 = true) ∧
      (s.hub.coatfail = true → bit v 1 = true))
    fun s t => t.hub.faultN = false ∧ t.hub.lockstep = false ∧ t.hub.coatfail = false ∧ t.groups = s.groups := by
  refine .of_next (fun s => rfl) fun s _ ⟨hdclk, hsame, hlock, hcoat⟩ => ?_
  have hl : (s.hub.lockstep && !bit v 2) = false := by simpa using hlock
  have hc : (s.hub.coatfail && !bit v 1) = false := by simpa using hcoat
  have h0 : bit 1 0 = true := rfl
  simp [State.guarded, Hub.faultCtl, Hub.canClear, bit_putBits, hdclk, hsame, hl, hc, h0]

theorem seamStatusClear_happens (n v : Nat) : Happens (.seamStatusClear n v 0)
    (fun s => n < s.hub.seams.length ∧ bit v 1 = true)
    fun s t => ∃ x x', s.hub.seams[n]? = some x ∧ t.hub.seams[n]? = some x' ∧ x' = { x with retry := 0, crc := false } := by
  refine .of_next (fun s => rfl) fun s _ ⟨hn, h1⟩ => ?_
  have hx := List.getElem?_eq_getElem hn
  have h0 : bit 1 0 = true := rfl
  refine ⟨s.hub.seams[n], _, hx, ?_, rfl⟩
  rw [State.modSeam, withHub_hub, getElem?_modifyAt, if_pos rfl, hx]
  simp [Seam.write, bit_putBits, h1, h0]

theorem registerWrite_bootBuf_happens (off n v : Nat) : Happens (.registerWrite 0 off n v 0)
    (fun s => s.answers 0 = true ∧ 0x1000000 ≤ off ∧ off < 0x2000000 ∧ s.hub.boot = 2)
    fun s t => t.groups = s.groups ∧
      ∀ a, t.hub.bootBuf.get a = (s.hub.bootBuf.put (off - 0x1000000) (leBytes n v)).get a := by
  refine .of_next (fun s => rfl) fun s _ ⟨ha, hlo, hhi, hb⟩ => ?_
  rw [if_neg (by simp [ha]), if_pos ⟨rfl, hlo, hhi⟩, if_pos hb]
  exact ⟨rfl, fun _ => rfl⟩

/-! ### I3C (02 R54 to R56) -/

/-- A transfer may have taken the pending interrupt; nothing else has changed. -/
theorem ibiTaken_frame (s : State) : ∃ n ibi,
    s.ibiTaken = { s with fresh := n, hub := { s.hub with i3cIbi := ibi } } := by
  unfold State.ibiTaken
  split
  · exact ⟨s.fresh, s.hub.i3cIbi, rfl⟩
  · dsimp only
    split
    · exact ⟨s.fresh + 1, s.hub.i3cIbi, rfl⟩
    · exact ⟨s.fresh + 1, none, rfl⟩

/-- A command's answer stands for the next read; FAULT_N and the forced pipes are as they were. -/
theorem i3cAnswer_hub (s : State) (b : List Byte) : (s.i3cAnswer b).hub.i3cResp = some b ∧
    (s.i3cAnswer b).hub.faultN = s.hub.faultN ∧ (s.i3cAnswer b).hub.forced = s.hub.forced := by
  obtain ⟨n, ibi, h⟩ := ibiTaken_frame s
  unfold State.i3cAnswer
  rw [h]
  exact ⟨rfl, rfl, rfl⟩

theorem i3cFaultClear_happens (same : Nat) : Happens (.i3cFaultClear same) (fun _ => True) fun s t =>
    (s.hub.canClear (same != 0) = true → t.hub.faultN = false ∧ t.hub.i3cResp = some [0#8]) ∧
    (s.hub.canClear (same != 0) = false → t.hub.faultN = s.hub.faultN ∧ t.hub.i3cResp = some [1#8]) := by
  refine .of_next (fun s => rfl) fun s _ _ => ?_
  cases hclear : s.hub.canClear (same != 0)
  case true =>
    obtain ⟨hresp, hfault, -⟩ := i3cAnswer_hub (s.withHub fun h => { h with faultN := false }) [0#8]
    exact ⟨fun _ => ⟨hfault, hresp⟩, fun h => absurd h (by decide)⟩
  case false =>
    obtain ⟨hresp, hfault, -⟩ := i3cAnswer_hub s [1#8]
    exact ⟨fun h => absurd h (by decide), fun _ => ⟨hfault, hresp⟩⟩

theorem forceUndercoat_happens (m : Nat) : Happens (.forceUndercoat m) (fun _ => m < 16) fun s t =>
    t.hub.forced = s.hub.forced ||| m ∧ t.hub.i3cResp = some [BitVec.ofNat 8 (s.hub.forced ||| m)] := by
  refine .of_next (fun s => rfl) fun s _ hm => ?_
  rw [if_neg (Nat.not_le.mpr hm)]
  obtain ⟨hresp, -, hforced⟩ := i3cAnswer_hub (s.withHub fun h => { h with forced := s.hub.forced ||| m })
    [BitVec.ofNat 8 (s.hub.forced ||| m)]
  exact ⟨hforced, hresp⟩

theorem releaseUndercoat_happens (m : Nat) : Happens (.releaseUndercoat m) (fun _ => m < 16) fun s t =>
    ∀ b, b < 8 → t.hub.forced.testBit b = (s.hub.forced.testBit b && !m.testBit b) := by
  refine .of_next (fun s => rfl) fun s _ hm b _ => ?_
  rw [if_neg (Nat.not_le.mpr hm)]
  obtain ⟨-, -, hforced⟩ := i3cAnswer_hub (s.withHub fun h => { h with forced := s.hub.forced - (s.hub.forced &&& m) })
    [BitVec.ofNat 8 (s.hub.forced - (s.hub.forced &&& m))]
  exact (congrArg (·.testBit b) hforced).trans (testBit_sub_and s.hub.forced m b)

theorem i3cHoldup_happens : Happens .i3cHoldup (fun _ => True) fun s t => ∃ r, t.hub.i3cResp = some r ∧ r.length = 5 ∧
    (r.headD 0#8).getLsbD 0 = s.hub.ready ∧ (r.headD 0#8).getLsbD 1 = s.hub.saving := by
  refine .of_next (fun s => rfl) fun s _ _ => ⟨_, rfl, by simp [KeepStat.bytes], ?_⟩
  rw [List.headD_cons]
  cases s.hub.ready <;> cases s.hub.saving <;> decide

theorem i3cUnknownCommand_happens : Happens .i3cUnknownCommand (fun _ => True) fun s t =>
    t.hub.i3cResp = none ∧ t.groups = s.groups := by
  refine .of_next (fun s => rfl) fun s _ _ => ?_
  obtain ⟨n, ibi, h⟩ := ibiTaken_frame s
  unfold State.i3cIgnored
  rw [h]
  exact ⟨rfl, rfl⟩

theorem i3cPrivateRead_happens : Happens .i3cPrivateRead (fun _ => True) fun s t =>
    t.hub.i3cOut = s.hub.i3cResp.getD [0xEE#8] ∧ t.hub.i3cResp = none := by
  refine .of_next (fun s => rfl) fun s _ _ => ?_
  obtain ⟨n, ibi, h⟩ := ibiTaken_frame s
  rw [h]
  exact ⟨rfl, rfl⟩

/-! ### What virtual functions ask (03 R84, R85) -/

theorem vfConfigRequest_absent_happens (f item : Nat) :
    Happens (.vfConfigRequest f item 0 0) (fun s => 0 < f ∧ s.present f = false) fun s t =>
      t = { s with hub := { s.hub with reply := .unsupported } } :=
  .of_next (fun _ => rfl) fun _ _ ⟨_, hp⟩ => if_pos (by simp [hp])

theorem vfConfigRequest_read_happens (f item : Nat) :
    Happens (.vfConfigRequest f item 0 0) (fun s => s.present f = true) fun s t =>
      t = { s with hub := { s.hub with reply := .data (s.configItem f item) } } :=
  .of_next (fun _ => rfl) fun _ _ hp => (if_neg (by simp [hp])).trans (if_pos rfl)

/-- A virtual function's device identifier is 0x0741. -/
theorem vfConfigRequest_device_happens (f : Nat) :
    Happens (.vfConfigRequest f 0 0 0) (fun s => 0 < f ∧ s.present f = true) fun s t =>
      t = { s with hub := { s.hub with reply := .data (leBytes 2 0x0741) } } := fun s hs ⟨hf, hp⟩ => by
  obtain ⟨t, ht, h⟩ := vfConfigRequest_read_happens f 0 s hs hp
  have hid : s.configItem f 0 = leBytes 2 0x0741 := by simp [State.configItem, Nat.ne_of_gt hf]
  exact ⟨t, ht, hid ▸ h⟩

theorem apertureRequest_write_happens (f off n v a : Nat) : Happens (.apertureRequest f off n 1 v)
    (fun s => s.present f = true ∧ 0 < n ∧ n ≤ 512 ∧ ∀ i, i < n → s.aperture f (off + i) = some (a + i))
    fun s t => ∀ x, t.mem.get x = (s.mem.put a (leBytes n v)).get x := by
  refine .of_next (fun s => rfl) fun s _ ⟨hp, h0, hn, hap⟩ => ?_
  have hpas : (List.range n).map (fun i => s.aperture f (off + i)) = (List.range n).map fun i => some (a + i) :=
    List.map_congr_left fun i hi => hap i (List.mem_range.mp hi)
  have hall : ((List.range n).map fun i => some (a + i)).contains none = false := by simp
  have hhead : ((List.range n).map fun i => some (a + i)).head?.join = some a := by
    simp [List.head?_range, Nat.ne_of_gt h0]
  rw [if_neg (by simpa using hn), if_neg (by simp [hp]), if_neg Nat.one_ne_zero, hpas, hall, if_neg Bool.false_ne_true]
  simp only [hhead, beq_self_eq_true, if_true]
  exact fun _ => by rw [homeWrite_mem]

/-! ### Function level reset (03 R86, R101) -/

/-- What an interrupt and the start of a context rung keep: memory, the posting queues, the owners of the contexts, and
that a context is resetting. -/
structure KeepsOwners (s t : State) : Prop where
  mem : t.mem = s.mem
  queue : ∀ f, (t.hub.fn f).queue = (s.hub.fn f).queue
  func : ∀ c, (t.ctx c).func = (s.ctx c).func
  resetting : ∀ c, (s.ctx c).state = 5 → (t.ctx c).state = 5

theorem KeepsOwners.refl (s : State) : KeepsOwners s s := ⟨rfl, fun _ => rfl, fun _ => rfl, fun _ h => h⟩

theorem KeepsOwners.trans {s t u : State} (h : KeepsOwners s t) (k : KeepsOwners t u) : KeepsOwners s u :=
  ⟨k.mem.trans h.mem, fun f => (k.queue f).trans (h.queue f), fun c => (k.func c).trans (h.func c),
    fun c hc => k.resetting c (h.resetting c hc)⟩

theorem keepsOwners_raise (s : State) (f v : Nat) : KeepsOwners s (s.raise f v) :=
  ⟨rfl, fun g => by obtain ⟨l, h⟩ := raise_fn s f v g; rw [h], fun _ => rfl, fun _ h => h⟩

theorem ctx_modCtx (s : State) (c d : Nat) (p : Context → Context) :
    (s.modCtx c p).ctx d = if d = c ∧ c < s.ctxs.length then p (s.ctx d) else s.ctx d := by
  simp only [State.ctx, List.getD_eq_getElem?_getD, modCtx_ctxs, getD_modifyAt]

/-- A context that a function owns stands in the list of contexts. -/
theorem ctx_lt_of_owned {s : State} {c : Nat} (h : (s.ctx c).func.isSome = true) : c < s.ctxs.length := by
  by_contra hc
  rw [State.ctx, List.getD_eq_default _ _ (Nat.not_lt.mp hc)] at h
  exact absurd h (by decide)

/-- A rung marks a context resetting and tells the virtual function that owns it. -/
def State.markResetting (s : State) (c : Nat) : State :=
  let s1 := s.modCtx c fun x => { x with state := 5 }
  if s.ctxFunc c = 0 then s1 else s1.raise (s.ctxFunc c) 2

theorem keepsOwners_modCtx_resetting (s : State) (c : Nat) :
    KeepsOwners s (s.modCtx c fun x => { x with state := 5 }) := by
  refine ⟨rfl, fun _ => rfl, fun d => ?_, fun d hd => ?_⟩
  · rw [ctx_modCtx]
    split <;> rfl
  · rw [ctx_modCtx]
    split
    · rfl
    · exact hd

theorem keepsOwners_markResetting (s : State) (c : Nat) : KeepsOwners s (s.markResetting c) := by
  unfold State.markResetting
  dsimp only
  split
  · exact keepsOwners_modCtx_resetting s c
  · exact (keepsOwners_modCtx_resetting s c).trans (keepsOwners_raise _ _ 2)

theorem markResetting_state {s : State} {c : Nat} (h : (s.ctx c).func.isSome = true) :
    ((s.markResetting c).ctx c).state = 5 := by
  have hmod : ((s.modCtx c fun x => { x with state := 5 }).ctx c).state = 5 := by
    rw [ctx_modCtx, if_pos ⟨rfl, ctx_lt_of_owned h⟩]
  unfold State.markResetting
  dsimp only
  split
  · exact hmod
  · exact hmod

/-- A run over contexts in which each step keeps the owners and leaves its own context resetting does so for all. -/
theorem foldl_resetting {step : State → Nat → State} (hkeep : ∀ s c, KeepsOwners s (step s c)) {ok : Nat → Prop}
    (hstep : ∀ s c, ok c → (s.ctx c).func.isSome = true → ((step s c).ctx c).state = 5) (l : List Nat) (s : State) :
    KeepsOwners s (l.foldl step s) ∧
      ∀ c ∈ l, ok c → (s.ctx c).func.isSome = true → ((l.foldl step s).ctx c).state = 5 := by
  induction l generalizing s with
  | nil => exact ⟨.refl s, fun _ h => absurd h List.not_mem_nil⟩
  | cons d l ih =>
    obtain ⟨hrest, hall⟩ := ih (step s d)
    refine ⟨(hkeep s d).trans hrest, fun c hc ho hf => ?_⟩
    obtain rfl | hc := List.mem_cons.mp hc
    · exact hrest.resetting c (hstep s c ho hf)
    · exact hall c hc ho (by rw [(hkeep s d).func c]; exact hf)

/-- The state in which the context rung on a target stands in RUNG and in the list of rungs. -/
def State.rungBegun (s : State) (tgt : Nat) (asked : Option Nat) (climbed : Bool) : State :=
  (s.raise 0 8).withHub fun h =>
    { h with rung := 2, rungTgt := tgt, rungs := h.rungs ++ [⟨2, tgt, s.hv, s.rungCtxs 2 tgt, asked, climbed⟩] }

theorem rungStart_context (s : State) (tgt : Nat) (asked : Option Nat) (climbed : Bool) :
    s.rungStart 2 tgt asked climbed = (s.rungCtxs 2 tgt).foldl State.markResetting (s.rungBegun tgt asked climbed) := rfl

theorem keepsOwners_rungBegun (s : State) (tgt : Nat) (asked : Option Nat) (climbed : Bool) :
    KeepsOwners s (s.rungBegun tgt asked climbed) :=
  (keepsOwners_raise s 0 8).trans ⟨rfl, fun _ => rfl, fun _ => rfl, fun _ h => h⟩

theorem mem_rungCtxs_context {s : State} {c : Nat} (hc : c < 64) (hf : (s.ctx c).func.isSome = true) :
    c ∈ s.rungCtxs 2 c := by
  simp only [State.rungCtxs, State.ctxsWhere, List.mem_filter, List.mem_range, bits]
  simp [hc, hf, Nat.mod_eq_of_lt hc]

/-- The context rung leaves its context resetting. -/
theorem rungStart_context_resetting (s : State) (tgt : Nat) (asked : Option Nat) (climbed : Bool) :
    KeepsOwners s (s.rungStart 2 tgt asked climbed) ∧
      (tgt < 64 → (s.ctx tgt).func.isSome = true → ((s.rungStart 2 tgt asked climbed).ctx tgt).state = 5) := by
  have hbegun := keepsOwners_rungBegun s tgt asked climbed
  obtain ⟨hkeep, hall⟩ := foldl_resetting keepsOwners_markResetting (ok := fun _ => True)
    (fun _ _ _ => markResetting_state) (s.rungCtxs 2 tgt) (s.rungBegun tgt asked climbed)
  rw [rungStart_context]
  exact ⟨hbegun.trans hkeep, fun ht hf => hall tgt (mem_rungCtxs_context ht hf) trivial (by rw [hbegun.func tgt]; exact hf)⟩

/-- The context rung starts on a context that is not resetting already. -/
def State.startContextRung (s : State) (c : Nat) : State := if (s.ctx c).state = 5 then s else s.rungStart 2 c none false

theorem keepsOwners_startContextRung (s : State) (c : Nat) : KeepsOwners s (s.startContextRung c) := by
  unfold State.startContextRung
  split
  · exact .refl s
  · exact (rungStart_context_resetting s c none false).1

theorem startContextRung_state (s : State) (c : Nat) (hc : c < 64) (hf : (s.ctx c).func.isSome = true) :
    ((s.startContextRung c).ctx c).state = 5 := by
  unfold State.startContextRung
  split
  · assumption
  · exact (rungStart_context_resetting s c none false).2 hc hf

/-- The contexts in use of a function. -/
def State.usedBy (s : State) (f : Nat) : List Nat := (List.range 64).filter fun c => s.owns f c && s.inUse c

/-- A virtual function's share of the host interface and its BAR at their reset values. -/
def State.shareReset (s : State) (f : Nat) : State :=
  s.withHub fun h => { h with fns := h.fns.set f HostFn.reset, vfBar := h.vfBar.set (f - 1) 0 }

theorem execFunctionLevelReset_of_virtual {s : State} {f : Nat} (hf : f ≠ 0) (hp : s.present f = true) :
    execFunctionLevelReset f s = .next ((s.usedBy f).foldl State.startContextRung (s.shareReset f)) := by
  unfold execFunctionLevelReset
  rw [if_neg hf, if_neg (by simp [hp])]
  rfl

theorem functionLevelReset_happens (f : Nat) :
    Happens (.functionLevelReset f) (fun s => 0 < f ∧ s.present f = true ∧ f < s.hub.fns.length) fun s t =>
      (t.hub.fn f).queue = HostFn.reset.queue ∧ t.mem = s.mem ∧
      ∀ c, c < 64 → s.owns f c = true → s.inUse c = true → (t.ctx c).state = 5 := by
  intro s _ ⟨hf, hp, hlen⟩
  refine ⟨_, execFunctionLevelReset_of_virtual (Nat.ne_of_gt hf) hp, ?_⟩
  obtain ⟨hkeep, hall⟩ := foldl_resetting keepsOwners_startContextRung startContextRung_state (s.usedBy f) (s.shareReset f)
  refine ⟨?_, hkeep.mem, fun c hc ho hu => hall c ?_ hc ?_⟩
  · rw [hkeep.queue]
    simp [State.shareReset, Hub.fn, hlen]
  · simp [State.usedBy, hc, ho, hu]
  · have hown : (s.ctx c).func = some f := by simpa [State.owns] using ho
    exact Option.isSome_of_eq_some hown

/-- Settles O47, one rule for each request: posts, RESYNC, FAULT_CTL and ARM, the links' status, the boot buffer, the
I3C target's commands, and what virtual functions ask. -/
theorem hostRequests : Obligations.HostRequests :=
  ⟨postRootRegion_happens, postLowHalfWrite_happens, resyncToWindow_happens, resyncToMemory_happens, faultClear_happens,
    fun _ => .of_next_eq fun _ => rfl, fun _ _ => .of_next_eq fun _ => rfl, seamStatusClear_happens,
    registerWrite_bootBuf_happens, .of_next (fun _ => rfl) fun _ _ _ => rfl, .of_next (fun _ => rfl) fun _ _ _ => rfl,
    i3cFaultClear_happens, forceUndercoat_happens, releaseUndercoat_happens, i3cHoldup_happens,
    i3cUnknownCommand_happens, i3cPrivateRead_happens, vfConfigRequest_absent_happens, vfConfigRequest_device_happens,
    vfConfigRequest_read_happens, apertureRequest_write_happens, functionLevelReset_happens⟩

end Sys2Proof.Machine
end

section
/-! PROOFS. The partition commands (03 R82, R83, R89 to R93, R97): COMMIT and INV_CTX, GROW of the first quadrants of a
cell, SHRINK with nothing to evict, CANCEL. First PART_CMD's word and register, and what write-backs leave: the
register has no part in them. -/
namespace Sys2Proof.Machine
open Sys2Proof

/-! ### PART_CMD (03 R89) -/

theorem bits_putBits_below (x v : Nat) {hi lo hi' lo' : Nat} (h : lo ≤ hi) (hhi : hi' < lo) :
    bits (putBits x hi lo v) hi' lo' = bits x hi' lo' := by
  refine Nat.eq_of_testBit_eq fun i => ?_
  rw [testBit_bits, testBit_bits, testBit_putBits _ _ _ h]
  by_cases hi : i < hi' + 1 - lo'
  · rw [if_neg (by omega)]
  · simp [hi]

/-- PART_CMD's word with the operation that its writer has named (R89). -/
def partWordOf (op v : Nat) : Nat := putBits v 31 28 op

theorem bits_partWordOf (op v : Nat) {hi lo : Nat} (h : hi < 28) : bits (partWordOf op v) hi lo = bits v hi lo :=
  bits_putBits_below v op (by decide) h

theorem bits_partWordOf_op (op v : Nat) : bits (partWordOf op v) 31 28 = op % 16 :=
  bits_putBits_same v op (by decide)

@[simp] theorem cmdCell_partWordOf (op v : Nat) : cmdCell (partWordOf op v) = cmdCell v :=
  bits_partWordOf op v (by decide)

@[simp] theorem cmdPart_partWordOf (op v : Nat) : cmdPart (partWordOf op v) = cmdPart v :=
  bits_partWordOf op v (by decide)

theorem mem_cmdQuads {v q : Nat} : q ∈ cmdQuads v ↔ q < 4 ∧ bit v (7 + q) = true := by
  simp [cmdQuads]

@[simp] theorem cmdQuads_partWordOf (op v : Nat) : cmdQuads (partWordOf op v) = cmdQuads v := by
  refine List.filter_congr fun q hq => ?_
  have hq4 : q < 4 := List.mem_range.mp hq
  rw [partWordOf, bit_putBits _ _ _ (by decide), if_neg (by omega)]

/-- The state with another command register of partitions. -/
def State.withPart (s : State) (p : CmdReg) : State := s.withHub fun h => { h with part := p }

/-- A partition command has begun. -/
def State.partBegun (s : State) (op v : Nat) : State :=
  s.withPart ⟨some (partWordOf op v), s.hub.part.dropped, s.hub.part.result, bits (partWordOf op v) 3 0⟩

theorem partWrite_of_free {s : State} {op : Nat} (v : Nat) (run : Nat → State → State) (hc : s.hub.part.cmd = none)
    (hd : s.hub.dstate ≠ 2) (hb : op = 3 ∨ op = 4 ∨ s.hub.boot = 4) :
    s.partWrite 0 op v run = run (partWordOf op v) (s.partBegun op v) := by
  have hw : s.hub.part.write (partWordOf op v) (bits (partWordOf op v) 3 0) =
      ⟨some (partWordOf op v), s.hub.part.dropped, s.hub.part.result, bits (partWordOf op v) 3 0⟩ := by
    simp [CmdReg.write, hc]
  have hboot : ¬ (op ≠ 3 ∧ op ≠ 4 ∧ s.hub.boot ≠ 4) := by omega
  unfold State.partWrite State.guarded
  simp only [hd, hc, hboot, if_true, if_false, Option.isSome_none, Bool.false_eq_true]
  rw [State.partBegun, ← hw]
  rfl

/-- A partition command that is taken runs at once, in the state in which it has begun. -/
theorem partCommand_happens {e : Instr} {op v : Nat} {run : Nat → State → State} {when_ : State → Prop}
    {post : State → State → Prop} (he : ∀ s, exec e s = .next (s.partWrite 0 op v run))
    (hfree : ∀ s, when_ s → s.hub.part.cmd = none ∧ s.hub.dstate ≠ 2 ∧ (op = 3 ∨ op = 4 ∨ s.hub.boot = 4))
    (hp : ∀ s t, when_ s → t = run (partWordOf op v) (s.partBegun op v) → post s t) : Happens e when_ post := by
  intro s _ hw
  obtain ⟨hc, hd, hb⟩ := hfree s hw
  exact ⟨_, he s, hp s _ hw (partWrite_of_free v run hc hd hb)⟩

/-- The end of a command: its register has the result, and what an interrupt changes may have changed. -/
theorem partEnd_frame (s : State) (r : Nat) : ∃ raised fns sent viol, s.partEnd r = s.withHub fun h =>
    { h with part := h.part.finish r, raised := raised, fns := fns, sent := sent, winViol := viol } := by
  obtain ⟨raised, fns, sent, viol, h⟩ := raise_frame (s.withHub fun h => { h with part := h.part.finish r }) 0 6
  exact ⟨raised, fns, sent, viol, h⟩

theorem partEnd_part (s : State) (r : Nat) : (s.partEnd r).hub.part = s.hub.part.finish r := by
  obtain ⟨_, _, _, _, h⟩ := partEnd_frame s r
  rw [h]
  rfl

@[simp] theorem partEnd_cmd (s : State) (r : Nat) : (s.partEnd r).hub.part.cmd = none := by rw [partEnd_part]; rfl

@[simp] theorem partEnd_result (s : State) (r : Nat) : (s.partEnd r).hub.part.result = r := by rw [partEnd_part]; rfl

@[simp] theorem partEnd_recarves (s : State) (r : Nat) : (s.partEnd r).hub.recarves = s.hub.recarves := by
  obtain ⟨_, _, _, _, h⟩ := partEnd_frame s r
  rw [h]
  rfl

/-! ### Write-backs: what they leave, and that PART_CMD's register has no part in them (09 R249; 03 R97) -/

/-- Bytes have gone home: memory with its poison, the hub cache, the groups' monitors and the windows may have
changed. -/
def WritesHome (s t : State) : Prop := ∃ groups windows mem poison hubc,
  t = { s with groups := groups, windows := windows, mem := mem, memPoison := poison, hubc := hubc }

theorem WritesHome.refl (s : State) : WritesHome s s := ⟨_, _, _, _, _, rfl⟩

theorem WritesHome.trans {s t u : State} : WritesHome s t → WritesHome t u → WritesHome s u := by
  rintro ⟨_, _, _, _, _, rfl⟩ ⟨_, _, _, _, _, rfl⟩
  exact ⟨_, _, _, _, _, rfl⟩

theorem WritesHome.foldl {α : Type} {step : State → α → State} (h : ∀ s a, WritesHome s (step s a)) (l : List α)
    (s : State) : WritesHome s (l.foldl step s) :=
  List.foldlRecOn l step (.refl s) fun t ht a _ => ht.trans (h t a)

theorem writesHome_homeWrite (s : State) (a : Nat) (b : List Byte) : WritesHome s (s.homeWrite a b) :=
  ⟨_, _, _, _, _, rfl⟩

theorem writesHome_setWindow (s : State) (w : Window) : WritesHome s (s.setWindow w) := by
  unfold State.setWindow
  split <;> exact ⟨_, _, _, _, _, rfl⟩

/-- One byte of the run-by-run write of a line home (09 R249). -/
def homeRunStep (w : Window) (l : Nat) (m : BitVec 128) (x : State × Nat × List Byte) (i : Nat) :
    State × Nat × List Byte :=
  if i < 128 && m.getLsbD i && !(i % 32 == 0 && !x.2.2.isEmpty) then
    (x.1, if x.2.2.isEmpty then i else x.2.1, x.2.2 ++ [w.cache.get (l * 128 + i)])
  else if i < 128 && m.getLsbD i then
    (if x.2.2.isEmpty then x.1 else x.1.homeWrite (l * 128 + x.2.1) x.2.2, i, [w.cache.get (l * 128 + i)])
  else (if x.2.2.isEmpty then x.1 else x.1.homeWrite (l * 128 + x.2.1) x.2.2, i, [])

theorem homeRuns_eq (s : State) (w : Window) (l : Nat) (m : BitVec 128) :
    homeRuns s w l m = ((List.range 129).foldl (homeRunStep w l m) (s, 0, [])).1 := rfl

theorem writesHome_homeRunStep (w : Window) (l : Nat) (m : BitVec 128) (x : State × Nat × List Byte) (i : Nat) :
    WritesHome x.1 (homeRunStep w l m x i).1 := by
  have hrun : WritesHome x.1 (if x.2.2.isEmpty then x.1 else x.1.homeWrite (l * 128 + x.2.1) x.2.2) := by
    split
    · exact .refl _
    · exact writesHome_homeWrite _ _ _
  unfold homeRunStep
  split
  · exact .refl _
  · split <;> exact hrun

theorem writesHome_homeRuns (s : State) (w : Window) (l : Nat) (m : BitVec 128) : WritesHome s (homeRuns s w l m) :=
  List.foldlRecOn (motive := fun x : State × Nat × List Byte => WritesHome s x.1) (List.range 129) (homeRunStep w l m)
    (.refl s) fun x hx i _ => hx.trans (writesHome_homeRunStep w l m x i)

theorem writesHome_writeBack (s : State) (part cell l : Nat) : WritesHome s (s.writeBack part cell l) := by
  unfold State.writeBack
  dsimp only
  split
  · exact .refl s
  · split
    · exact .refl s
    · exact ((writesHome_homeRuns s _ l _).trans ⟨_, _, _, _, _, rfl⟩).trans (writesHome_setWindow _ _)

theorem writesHome_drainLines (s : State) (part cell : Nat) (ls : List Nat) :
    WritesHome s (s.drainLines part cell ls) :=
  .foldl (fun s l => writesHome_writeBack s part cell l) ls s

theorem writesHome_drainWindows (s : State) (sel : Window → Bool) : WritesHome s (s.drainWindows sel) := by
  unfold State.drainWindows
  exact .foldl (fun s (w : Window) => writesHome_drainLines s w.part w.cell _) _ s

theorem homeWrite_withPart (s : State) (p : CmdReg) (a : Nat) (b : List Byte) :
    (s.withPart p).homeWrite a b = (s.homeWrite a b).withPart p := rfl

theorem setWindow_withPart (s : State) (p : CmdReg) (w : Window) :
    (s.withPart p).setWindow w = (s.setWindow w).withPart p := by
  unfold State.setWindow
  rw [apply_ite (State.withPart · p)]
  rfl

theorem foldl_withPart {α : Type} {step : State → α → State} {p : CmdReg}
    (h : ∀ s a, step (s.withPart p) a = (step s a).withPart p) (l : List α) (s : State) :
    l.foldl step (s.withPart p) = (l.foldl step s).withPart p :=
  List.foldl_hom (State.withPart · p) h

theorem homeRunStep_withPart (w : Window) (l : Nat) (m : BitVec 128) (p : CmdReg) (x : State × Nat × List Byte)
    (i : Nat) : homeRunStep w l m (x.1.withPart p, x.2) i =
      ((homeRunStep w l m x i).1.withPart p, (homeRunStep w l m x i).2) := by
  simp only [homeRunStep, homeWrite_withPart, ← apply_ite (State.withPart · p)]
  split
  · rfl
  · split <;> rfl

theorem homeRuns_withPart (s : State) (p : CmdReg) (w : Window) (l : Nat) (m : BitVec 128) :
    homeRuns (s.withPart p) w l m = (homeRuns s w l m).withPart p := by
  rw [homeRuns_eq, homeRuns_eq]
  exact congrArg Prod.fst (List.foldl_hom (l := List.range 129) (init := (s, 0, []))
    (fun x : State × Nat × List Byte => (x.1.withPart p, x.2)) fun x i => homeRunStep_withPart w l m p x i)

theorem modWindow_withPart (s : State) (p : CmdReg) (part cell : Nat) (f : Window → Window) :
    (s.withPart p).modWindow part cell f = (s.modWindow part cell f).withPart p :=
  setWindow_withPart s p _

theorem writeBack_withPart (s : State) (p : CmdReg) (part cell l : Nat) :
    (s.withPart p).writeBack part cell l = (s.writeBack part cell l).withPart p := by
  have hw : (s.withPart p).window part cell = s.window part cell := rfl
  unfold State.writeBack
  rw [hw]
  dsimp only
  split
  · rfl
  · split
    · rfl
    · rw [homeRuns_withPart]
      generalize homeRuns s _ l _ = t
      exact modWindow_withPart { t with memPoison := _ } p part cell _

theorem drainWindows_withPart (s : State) (p : CmdReg) (sel : Window → Bool) :
    (s.withPart p).drainWindows sel = (s.drainWindows sel).withPart p := by
  unfold State.drainWindows State.drainLines
  exact foldl_withPart (fun s (w : Window) =>
    foldl_withPart (fun s l => writeBack_withPart s p w.part w.cell l) _ s) _ s

theorem drainCtxs_withPart (s : State) (p : CmdReg) (cs : List Nat) :
    (s.withPart p).drainCtxs cs = (s.drainCtxs cs).withPart p := drainWindows_withPart s p _

theorem stage2Inv_withPart (s : State) (p : CmdReg) (f : Nat) (new : List (Nat × Nat)) :
    (s.withPart p).stage2Inv f new = (s.stage2Inv f new).withPart p := by
  unfold State.stage2Inv
  dsimp only
  rw [drainWindows_withPart, apply_ite (State.withPart · p)]
  rfl

theorem commitTable_withPart (s : State) (p : CmdReg) (t : Table) :
    (s.withPart p).commitTable t = (s.commitTable t).withPart p := by
  unfold State.commitTable
  dsimp only
  rw [foldl_withPart fun s f => stage2Inv_withPart s p f _]
  rfl

/-! ### COMMIT and INV_CTX (03 R82, R83, R97) -/

/-- How a command that invalidates goes on: it ends, or waits for accesses in flight. -/
theorem invSettle_hub (s : State) (cs : List Nat) :
    (s.inFlight cs = false → (s.invSettle cs).hub.part.cmd = none ∧ (s.invSettle cs).hub.part.result = 0) ∧
    (s.inFlight cs = true → (s.invSettle cs).hub.part = s.hub.part ∧ (s.invSettle cs).hub.inval = cs) ∧
    (s.invSettle cs).hub.detailGen = s.hub.detailGen := by
  unfold State.invSettle
  cases s.inFlight cs
  case false =>
    rw [if_neg Bool.false_ne_true]
    refine ⟨fun _ => ⟨partEnd_cmd s 0, partEnd_result s 0⟩, fun h => absurd h Bool.false_ne_true, ?_⟩
    obtain ⟨_, _, _, _, h⟩ := partEnd_frame s 0
    rw [h]
    rfl
  case true => exact ⟨fun h => absurd h.symm Bool.false_ne_true, fun _ => ⟨rfl, rfl⟩, rfl⟩

/-- Of the state only the hub changes with it. -/
theorem invSettle_frame (s : State) (cs : List Nat) : ∃ hub, s.invSettle cs = { s with hub := hub } := by
  unfold State.invSettle
  split <;> exact ⟨_, rfl⟩

theorem withPart_partBegun (s : State) (op v : Nat) : s.withPart (s.partBegun op v).hub.part = s.partBegun op v := rfl

theorem partBegun_cmd (s : State) (op v : Nat) : (s.partBegun op v).hub.part.cmd = some (partWordOf op v) := rfl

theorem partBegun_cmd_ne_none (s : State) (op v : Nat) : (s.partBegun op v).hub.part.cmd ≠ none :=
  partBegun_cmd s op v ▸ Option.some_ne_none _

/-- The state that a table taken leaves, before the command settles. -/
theorem commitTable_taken (s : State) (t : Table) : (s.commitTable t).funcs = t.funcs ∧
    (s.commitTable t).partOwner = t.owners ∧ (s.commitTable t).hub.detailGen = t.gen := ⟨rfl, rfl, rfl⟩

/-- A commit that the table passes takes it, and settles as the accesses in flight have it. -/
theorem commitSettle_taken (s : State) (p : CmdReg) (t : Table) :
    let u := ((s.withPart p).commitTable t).invSettle ((s.withPart p).invalidCtxs t)
    u.funcs = t.funcs ∧ u.partOwner = t.owners ∧ u.hub.detailGen = t.gen ∧
      ((s.commitTable t).inFlight (s.invalidCtxs t) = false → u.hub.part.cmd = none ∧ u.hub.part.result = 0) ∧
      ((s.commitTable t).inFlight (s.invalidCtxs t) = true → u.hub.part = p ∧ u.hub.inval = s.invalidCtxs t) := by
  have hinval : (s.withPart p).invalidCtxs t = s.invalidCtxs t := rfl
  obtain ⟨hfuncs, howners, hgen⟩ := commitTable_taken s t
  dsimp only
  rw [commitTable_withPart, hinval]
  generalize s.commitTable t = w at *
  generalize s.invalidCtxs t = cs
  obtain ⟨hub, hframe⟩ := invSettle_frame (w.withPart p) cs
  obtain ⟨hend, hwait, hdetail⟩ := invSettle_hub (w.withPart p) cs
  refine ⟨?_, ?_, hdetail.trans hgen, hend, hwait⟩
  · rw [hframe]
    exact hfuncs
  · rw [hframe]
    exact howners

/-- COMMIT, once it is taken. -/
def State.commit (s : State) (t : Table) : State :=
  match t.failing, s.breaksUse t with
  | .none, false => (s.commitTable t).invSettle (s.invalidCtxs t)
  | .none, true => s.partEnd 5
  | some o, u =>
    let (r, s1) := if u then s.pick [3, 5] else (3, s)
    (if r = 3 then s1.withHub fun h => { h with detailOff := o } else s1).partEnd r

theorem exec_partCommit (v : Nat) (s : State) : exec (.partCommit v 0) s =
    .next (s.partWrite 0 0 v fun _ s => s.commit s.table) := rfl

theorem commit_taken {s : State} {t : Table} (ht : t.failing = none) (hu : s.breaksUse t = false) :
    s.commit t = (s.commitTable t).invSettle (s.invalidCtxs t) := by
  unfold State.commit
  rw [ht, hu]

theorem commit_refused {s : State} {t : Table} {o : Nat} (ht : t.failing = some o) (hu : s.breaksUse t = false) :
    s.commit t = (s.withHub fun h => { h with detailOff := o }).partEnd 3 := by
  unfold State.commit
  rw [ht, hu]
  rfl

/-- A commit that the table fails ends with RESULT 3, which names the entry (R82). -/
theorem partEnd_detailOff (s : State) (o : Nat) :
    let t := (s.withHub fun h => { h with detailOff := o }).partEnd 3
    (t.hub.part.cmd = none ∧ t.hub.part.result = 3) ∧ t.hub.detailOff = o ∧
      t.funcs = s.funcs ∧ t.ctxs = s.ctxs ∧ t.partOwner = s.partOwner := by
  obtain ⟨_, _, _, _, h⟩ := partEnd_frame (s.withHub fun h => { h with detailOff := o }) 3
  dsimp only
  rw [h]
  exact ⟨⟨rfl, rfl⟩, rfl, rfl, rfl, rfl⟩

theorem partCommit_happens (v : Nat) : Happens (.partCommit v 0)
    (fun s => (s.hub.part.cmd = none ∧ s.hub.boot = 4 ∧ s.hub.dstate ≠ 2) ∧ s.breaksUse s.table = false) fun s t =>
    (s.table.failing = none → t.funcs = s.table.funcs ∧ t.partOwner = s.table.owners ∧ t.hub.detailGen = s.table.gen ∧
      ((s.commitTable s.table).inFlight (s.invalidCtxs s.table) = false →
        t.hub.part.cmd = none ∧ t.hub.part.result = 0) ∧
      ((s.commitTable s.table).inFlight (s.invalidCtxs s.table) = true →
        t.hub.part.cmd ≠ none ∧ t.hub.inval = s.invalidCtxs s.table)) ∧
    ∀ o, s.table.failing = some o → (t.hub.part.cmd = none ∧ t.hub.part.result = 3) ∧ t.hub.detailOff = o ∧
      t.funcs = s.funcs ∧ t.ctxs = s.ctxs ∧ t.partOwner = s.partOwner := by
  refine partCommand_happens (exec_partCommit v) (fun s ⟨⟨hc, hb, hd⟩, _⟩ => ⟨hc, hd, .inr (.inr hb)⟩) ?_
  rintro s t ⟨-, hu⟩ ht
  have htable : (s.partBegun 0 v).table = s.table := rfl
  have huse : (s.partBegun 0 v).breaksUse s.table = false := hu
  rw [htable] at ht
  generalize s.table = tab at *
  refine ⟨fun hok => ?_, fun o ho => ?_⟩
  · have htaken := commitSettle_taken s (s.partBegun 0 v).hub.part tab
    rw [withPart_partBegun, ← commit_taken hok huse, ← ht] at htaken
    obtain ⟨hfuncs, howners, hgen, hend, hwait⟩ := htaken
    refine ⟨hfuncs, howners, hgen, hend, fun h => ?_⟩
    obtain ⟨hp, hi⟩ := hwait h
    exact ⟨hp ▸ partBegun_cmd_ne_none s 0 v, hi⟩
  · rw [commit_refused ho huse] at ht
    have hrefused := partEnd_detailOff (s.partBegun 0 v) o
    rw [← ht] at hrefused
    exact hrefused

/-- Of the entries dropped none is left in a TLB of a quadrant or of a pane. -/
theorem dropTlb_gone {s : State} {gone : TlbEntry → Bool} :
    (∀ c ∈ (s.dropTlb gone).cells, ∀ q ∈ c.quads, ∀ e ∈ q.tlb, gone e = false) ∧
    ∀ p ∈ (s.dropTlb gone).panes, ∀ e ∈ p.tlb, gone e = false := by
  simp [State.dropTlb]

/-- The entries that INV_CTX drops: those of the context's function and address-space identifier (03 R97). -/
def Context.holds (c : Context) (e : TlbEntry) : Bool := some e.func == c.func && e.asid == c.asid

theorem not_of_holds_false {c : Context} {e : TlbEntry} (h : c.holds e = false) :
    ¬(c.func = some e.func ∧ e.asid = c.asid) := fun ⟨hf, ha⟩ => by
  simp [Context.holds, hf, ha] at h

/-- The state in which INV_CTX settles. -/
def State.ctxDropped (s : State) (k : Nat) : State := (s.drainCtxs [k]).dropTlb (s.ctx k).holds

theorem exec_invCtx (v : Nat) (s : State) : exec (.invCtx v 0) s =
    .next (s.partWrite 0 5 v fun v s => (s.ctxDropped (bits v 21 16)).invSettle [bits v 21 16]) := rfl

theorem invCtx_happens (v : Nat) : Happens (.invCtx v 0)
    (fun s => s.hub.part.cmd = none ∧ s.hub.boot = 4 ∧ s.hub.dstate ≠ 2) fun s t =>
    ((s.drainCtxs [bits v 21 16]).inFlight [bits v 21 16] = false → t.hub.part.cmd = none ∧ t.hub.part.result = 0) ∧
    ((s.drainCtxs [bits v 21 16]).inFlight [bits v 21 16] = true →
      t.hub.part.cmd ≠ none ∧ t.hub.inval = [bits v 21 16]) ∧
    (∀ c ∈ t.cells, ∀ q ∈ c.quads, ∀ e ∈ q.tlb,
      ¬((s.ctx (bits v 21 16)).func = some e.func ∧ e.asid = (s.ctx (bits v 21 16)).asid)) ∧
    ∀ p ∈ t.panes, ∀ e ∈ p.tlb,
      ¬((s.ctx (bits v 21 16)).func = some e.func ∧ e.asid = (s.ctx (bits v 21 16)).asid) := by
  refine partCommand_happens (exec_invCtx v) (fun s ⟨hc, hb, hd⟩ => ⟨hc, hd, .inr (.inr hb)⟩) fun s t _ ht => ?_
  rw [bits_partWordOf 5 v (by decide)] at ht
  generalize bits v 21 16 = k at *
  have hdrop : (s.partBegun 5 v).ctxDropped k = (s.ctxDropped k).withPart (s.partBegun 5 v).hub.part :=
    congrArg (State.dropTlb · (s.ctx k).holds) (drainCtxs_withPart s _ [k])
  rw [hdrop] at ht
  subst ht
  obtain ⟨hend, hwait, -⟩ := invSettle_hub ((s.ctxDropped k).withPart (s.partBegun 5 v).hub.part) [k]
  obtain ⟨hub, hframe⟩ := invSettle_frame ((s.ctxDropped k).withPart (s.partBegun 5 v).hub.part) [k]
  refine ⟨hend, fun h => ?_, ?_⟩
  · obtain ⟨hp, hi⟩ := hwait h
    exact ⟨fun hnone => partBegun_cmd_ne_none s 5 v ((congrArg CmdReg.cmd hp).symm.trans hnone), hi⟩
  · obtain ⟨hcells, hpanes⟩ := dropTlb_gone (s := s.drainCtxs [k]) (gone := (s.ctx k).holds)
    rw [hframe]
    exact ⟨fun c hc q hq e he => not_of_holds_false (hcells c hc q hq e he),
      fun p hp e he => not_of_holds_false (hpanes p hp e he)⟩

/-! ### Quadrants that change hands (03 R90, R91) -/

/-- A quadrant, where the state has it. -/
def State.quad? (s : State) (cell q : Nat) : Option Quad := (s.cells[cell]?).bind fun c => c.quads[q]?

theorem quadAt_eq (s : State) (cell q : Nat) : s.quadAt cell q = (s.quad? cell q).getD Quad.reset := rfl

/-- A quadrant that a partition owns stands in the state. -/
theorem quad?_of_owned {s : State} {cell q : Nat} (h : (s.quadAt cell q).owned = true) :
    s.quad? cell q = some (s.quadAt cell q) := by
  rw [quadAt_eq] at h ⊢
  cases hq : s.quad? cell q with
  | none =>
    rw [hq] at h
    exact absurd h (by decide)
  | some x => rfl

/-- A change of a cell that maps its numbered quadrants maps each of them. -/
theorem quad?_modCell {f : Cell → Cell} {g : Quad × Nat → Quad} (hf : ∀ c, (f c).quads = c.quads.zipIdx.map g)
    (s : State) (cell q : Nat) : (s.modCell cell f).quad? cell q = (s.quad? cell q).map fun x => g (x, q) := by
  unfold State.quad?
  rw [modCell_cells, getElem?_modifyAt, if_pos rfl]
  cases s.cells[cell]? with
  | none => rfl
  | some c => simp [hf, Function.comp_def]

/-- A quadrant as it is handed to a partition or taken from it: zeroed. -/
def Quad.handed (give : Bool) (part : Nat) (x : Quad) : Quad :=
  { x.zeroed with owned := give, owner := if give then part else 0, shrinkPending := false }

/-- A cell with its numbered quadrants changed. -/
def Cell.mapQuads (g : Quad × Nat → Quad) (c : Cell) : Cell := { c with quads := c.quads.zipIdx.map g }

/-- What a hand-over does to a cell: the quadrants named and their semaphores. -/
def Cell.handOver (part : Nat) (qs : List Nat) (give : Bool) (c : Cell) : Cell :=
  { c.mapQuads (fun x => if qs.contains x.2 then x.1.handed give part else x.1) with
    sems := c.sems.zipIdx.map fun x => if qs.contains (x.2 / 16) then 0#32 else x.1 }

theorem writesHome_flushWindow (s : State) (part cell : Nat) : WritesHome s (s.flushWindow part cell) :=
  (writesHome_drainWindows s _).trans (writesHome_setWindow _ _)

/-- The cell flushed and changed, before the partition's window there follows. -/
def State.carved (s : State) (part cell : Nat) (qs : List Nat) (give : Bool) : State :=
  (s.flushWindow part cell).modCell cell (Cell.handOver part qs give)

theorem handOver_eq (s : State) (part cell : Nat) (qs : List Nat) (give : Bool) : s.handOver part cell qs give =
    let t := s.carved part cell qs give
    if t.heldQuads part cell = [] then
      { t with windows := t.windows.filter fun w => !(w.part == part && w.cell == cell) }
    else t.modWindow part cell fun w =>
      { w with mem := rebank (s.heldQuads part cell) (t.heldQuads part cell) w.mem
               poison := rebankPoison (s.heldQuads part cell) (t.heldQuads part cell) w.poison } := rfl

/-- After the hand-over the cell is changed, and bytes have gone home. -/
theorem handOver_frame (s : State) (part cell : Nat) (qs : List Nat) (give : Bool) :
    WritesHome (s.modCell cell (Cell.handOver part qs give)) (s.handOver part cell qs give) := by
  have hcarved : WritesHome (s.modCell cell (Cell.handOver part qs give)) (s.carved part cell qs give) := by
    obtain ⟨_, _, _, _, _, h⟩ := writesHome_flushWindow s part cell
    rw [State.carved, h]
    exact ⟨_, _, _, _, _, rfl⟩
  refine hcarved.trans ?_
  rw [handOver_eq]
  generalize s.carved part cell qs give = t
  dsimp only
  split
  · exact ⟨_, _, _, _, _, rfl⟩
  · exact writesHome_setWindow _ _

theorem quad?_handOver (s : State) (part cell : Nat) (qs : List Nat) (give : Bool) (q : Nat) :
    (s.handOver part cell qs give).quad? cell q =
      (s.quad? cell q).map fun x => if qs.contains q then x.handed give part else x := by
  obtain ⟨_, _, _, _, _, h⟩ := handOver_frame s part cell qs give
  rw [h]
  exact quad?_modCell (f := Cell.handOver part qs give) (fun _ => rfl) s cell q

@[simp] theorem handOver_hub (s : State) (part cell : Nat) (qs : List Nat) (give : Bool) :
    (s.handOver part cell qs give).hub = s.hub := by
  obtain ⟨_, _, _, _, _, h⟩ := handOver_frame s part cell qs give
  rw [h]
  rfl

theorem quadAt_handOver_of_mem {s : State} {part cell q : Nat} {qs : List Nat} {give : Bool} {x : Quad}
    (hx : s.quad? cell q = some x) (hq : q ∈ qs) :
    (s.handOver part cell qs give).quadAt cell q = x.handed give part := by
  rw [quadAt_eq, quad?_handOver, hx]
  simp [hq]

theorem quadAt_handOver_of_not_mem {s : State} {part cell q : Nat} {qs : List Nat} {give : Bool} (hq : q ∉ qs) :
    (s.handOver part cell qs give).quadAt cell q = s.quadAt cell q := by
  rw [quadAt_eq, quad?_handOver]
  simp [hq, quadAt_eq]

theorem quadAt_partEnd (s : State) (r cell q : Nat) : (s.partEnd r).quadAt cell q = s.quadAt cell q := rfl

/-! ### GROW of the first quadrants of a cell (03 R90) -/

/-- GROW, once it is taken. -/
def State.grow (s : State) (part cell : Nat) (qs : List Nat) : State :=
  if s.partOwner.getD part 0xFF = 0xFF ∨ s.hub.inService cell = false then s.partEnd 2
  else if qs.any (fun q => (s.quadAt cell q).owned || (s.quadAt cell q).shrinkPending || s.underReset cell q) then
    s.partEnd 4
  else if qs = [] then s.partEnd 0
  else if s.heldQuads part cell = [] then (s.handOver part cell qs true).partEnd 0
  else if s.recarveBarred part cell 4 then s.partEnd 4
  else
    let t := s.recarveBegin part cell qs true false (s.blocksOn part cell)
    if (s.blocksOn part cell).any s.coop then t.partEnd 1 else t.partSettle

theorem exec_partGrow (v : Nat) (s : State) : exec (.partGrow v 0) s =
    .next (s.partWrite 0 1 v fun v s => s.grow (cmdPart v) (cmdCell v) (cmdQuads v)) := rfl

/-- A partition that holds nothing on a cell is handed the quadrants at once. -/
theorem grow_first {s : State} {part cell : Nat} {qs : List Nat} (howner : s.partOwner.getD part 0xFF ≠ 0xFF)
    (hserv : s.hub.inService cell = true) (hne : qs ≠ []) (hheld : s.heldQuads part cell = [])
    (hfree : ∀ q ∈ qs, (s.quadAt cell q).owned = false ∧ (s.quadAt cell q).shrinkPending = false ∧
      s.underReset cell q = false) : s.grow part cell qs = (s.handOver part cell qs true).partEnd 0 := by
  have hbad : ¬ (s.partOwner.getD part 0xFF = 0xFF ∨ s.hub.inService cell = false) :=
    not_or.mpr ⟨howner, by simp [hserv]⟩
  have hany : ¬ (qs.any fun q => (s.quadAt cell q).owned || (s.quadAt cell q).shrinkPending ||
      s.underReset cell q) = true := by
    simpa [and_assoc] using hfree
  rw [State.grow, if_neg hbad, if_neg hany, if_neg hne, if_pos hheld]

theorem partGrow_happens (v : Nat) (x : Cell) : Happens (.partGrow v 0)
    (fun s => (s.hub.part.cmd = none ∧ s.hub.boot = 4 ∧ s.hub.dstate ≠ 2) ∧
      s.partOwner.getD (cmdPart v) 0xFF ≠ 0xFF ∧ s.hub.inService (cmdCell v) = true ∧ cmdQuads v ≠ [] ∧
      s.heldQuads (cmdPart v) (cmdCell v) = [] ∧ s.cells[cmdCell v]? = some x ∧ x.quads.length = 4 ∧
      ∀ q ∈ cmdQuads v, (s.quadAt (cmdCell v) q).owned = false ∧ (s.quadAt (cmdCell v) q).shrinkPending = false ∧
        s.underReset (cmdCell v) q = false)
    fun s t => (t.hub.part.cmd = none ∧ t.hub.part.result = 0) ∧ (∀ q, q < 4 → (q ∈ cmdQuads v →
        (t.quadAt (cmdCell v) q).owned = true ∧ (t.quadAt (cmdCell v) q).owner = cmdPart v) ∧
      (q ∉ cmdQuads v → t.quadAt (cmdCell v) q = s.quadAt (cmdCell v) q)) := by
  refine partCommand_happens (exec_partGrow v) (fun s ⟨⟨hc, hb, hd⟩, _⟩ => ⟨hc, hd, .inr (.inr hb)⟩) ?_
  rintro s t ⟨-, howner, hserv, hne, hheld, hcell, hlen, hfree⟩ ht
  have hrun : (s.partBegun 1 v).grow (cmdPart v) (cmdCell v) (cmdQuads v) = _ :=
    grow_first (s := s.partBegun 1 v) howner hserv hne hheld hfree
  rw [cmdCell_partWordOf, cmdPart_partWordOf, cmdQuads_partWordOf, hrun] at ht
  subst ht
  refine ⟨⟨partEnd_cmd _ 0, partEnd_result _ 0⟩, fun q hq4 => ⟨fun hq => ?_, fun hq => ?_⟩⟩
  · have hx : s.quad? (cmdCell v) q = some (x.quads[q]'(by omega)) := by
      rw [State.quad?, hcell, Option.bind_some, List.getElem?_eq_getElem]
    rw [quadAt_partEnd, quadAt_handOver_of_mem (s := s.partBegun 1 v) hx hq]
    exact ⟨rfl, rfl⟩
  · rw [quadAt_partEnd, quadAt_handOver_of_not_mem hq]
    rfl

/-! ### SHRINK of all that a partition holds on a cell, with nothing to evict (03 R91) -/

/-- A mask made of the numbers that satisfy a condition has just their bits. -/
theorem testBit_mask (p : Nat → Bool) (n i : Nat) :
    (((List.range n).filter p).foldl (fun a q => a + 2 ^ q) 0).testBit i = (decide (i < n) && p i) := by
  suffices h : ((List.range n).filter p).foldl (fun a q => a + 2 ^ q) 0 < 2 ^ n ∧
      (((List.range n).filter p).foldl (fun a q => a + 2 ^ q) 0).testBit i = (decide (i < n) && p i) from h.2
  induction n with
  | zero => simp
  | succ n ih =>
    obtain ⟨hlt, hbit⟩ := ih
    rw [List.range_succ, List.filter_append, List.foldl_append]
    generalize ((List.range n).filter p).foldl (fun a q => a + 2 ^ q) 0 = m at *
    have hstep : ([n].filter p).foldl (fun a q => a + 2 ^ q) m = 2 ^ n * (p n).toNat + m := by
      cases hp : p n <;> simp [hp, Nat.add_comm]
    rw [hstep]
    refine ⟨?_, ?_⟩
    · have := Bool.toNat_le (p n)
      rw [Nat.pow_succ]
      nlinarith
    · rw [Nat.testBit_two_pow_mul_add _ hlt, hbit]
      rcases Nat.lt_trichotomy i n with h | rfl | h
      · simp [h, Nat.lt_succ_of_lt h]
      · cases p i <;> simp
      · simp [Nat.not_lt.mpr (Nat.le_of_lt h), Nat.not_lt.mpr (Nat.succ_le_of_lt h), show i - n ≠ 0 by omega,
          Nat.testBit_bool_toNat]

theorem dedupNat_of_forall_eq {l : List Nat} {p : Nat} (hne : l ≠ []) (h : ∀ x ∈ l, x = p) : dedupNat l = [p] := by
  obtain ⟨a, l, rfl⟩ := List.exists_cons_of_ne_nil hne
  obtain rfl : a = p := h a List.mem_cons_self
  refine List.foldlRecOn (motive := (· = [a])) l _ rfl fun acc hacc x hx => ?_
  obtain rfl : x = a := h x (List.mem_cons_of_mem _ hx)
  simp [hacc]

/-- SHRINK, once it is taken. -/
def State.shrink (s : State) (cell : Nat) (qs : List Nat) : State :=
  let named := qs.filter fun q => (s.quadAt cell q).owned || (s.quadAt cell q).shrinkPending
  let parts := dedupNat (named.map fun q => (s.quadAt cell q).owner)
  let mine (p : Nat) : List Nat := named.filter fun q => (s.quadAt cell q).owner == p
  let kept (p : Nat) : List Nat := (s.heldQuads p cell).filter fun q => !named.contains q
  if named.any (fun q => (s.quadAt cell q).shrinkPending || s.underReset cell q) then s.partEnd 4
  else if parts.any (fun p => !(kept p).isEmpty && s.recarveBarred p cell (kept p).length) then s.partEnd 4
  else
    let t := parts.foldl (fun s p => s.recarveBegin p cell (mine p) false false (s.blocksOn p cell)) s
    if parts.any (fun p => (s.blocksOn p cell).any s.coop) then (t.partEnd 1).recarvesEnd else t.partSettle

theorem exec_partShrink (v : Nat) (s : State) : exec (.partShrink v 0) s =
    .next (s.partWrite 0 2 v fun v s => s.shrink (cmdCell v) (cmdQuads v)) := rfl

/-- Quadrants of one partition, which keeps none of the cell and has no block there, are recarved. -/
theorem shrink_whole {s : State} {cell p : Nat} {qs : List Nat} (hne : qs ≠ []) (hblocks : s.blocksOn p cell = [])
    (hheld : ∀ q ∈ s.heldQuads p cell, q ∈ qs)
    (hq : ∀ q ∈ qs, (s.quadAt cell q).owned = true ∧ (s.quadAt cell q).owner = p ∧
      (s.quadAt cell q).shrinkPending = false ∧ s.underReset cell q = false) :
    s.shrink cell qs = (s.recarveBegin p cell qs false false []).partSettle := by
  have howned : ∀ q ∈ qs, (s.quadAt cell q).owned = true := fun q h => (hq q h).1
  have howner : ∀ q ∈ qs, (s.quadAt cell q).owner = p := fun q h => (hq q h).2.1
  have hnamed : (qs.filter fun q => (s.quadAt cell q).owned || (s.quadAt cell q).shrinkPending) = qs :=
    List.filter_eq_self.mpr fun q h => by simp [howned q h]
  have hmine : (qs.filter fun q => (s.quadAt cell q).owner == p) = qs :=
    List.filter_eq_self.mpr fun q h => by simp [howner q h]
  have hparts : dedupNat (qs.map fun q => (s.quadAt cell q).owner) = [p] :=
    dedupNat_of_forall_eq (by simpa using hne) (by simpa using howner)
  have hfree : (qs.any fun q => (s.quadAt cell q).shrinkPending || s.underReset cell q) = false := by
    simpa using fun q h => (hq q h).2.2
  have hkept : ((s.heldQuads p cell).filter fun q => !qs.contains q) = [] :=
    List.filter_eq_nil_iff.mpr fun q h => by simp [hheld q h]
  simp only [State.shrink, hnamed, hparts, hfree, hkept, hmine, hblocks, List.any_cons, List.any_nil, List.foldl_cons,
    List.foldl_nil, List.isEmpty_nil, Bool.not_true, Bool.false_and, Bool.or_false, Bool.false_eq_true, if_false]

/-- The recarve of a shrink that waits for no block. -/
def Recarve.idleShrink (part cell : Nat) (qs : List Nat) : Recarve :=
  { part := part, cell := cell, qmask := (qs.map (2 ^ ·)).foldl (· + ·) 0, grow := false, deferred := false
    fence := false, blocks := [], launch := [], began := false }

/-- A quadrant that is to leave a partition. -/
def Quad.leaving (part : Nat) (x : Quad) : Quad := { x with shrinkPending := true, owner := part, owned := true }

theorem recarveBegin_idle (s : State) (part cell : Nat) (qs : List Nat) :
    s.recarveBegin part cell qs false false [] =
      ((s.withHub fun h => { h with recarves := h.recarves ++ [.idleShrink part cell qs] }).modCell cell
        (Cell.mapQuads fun x => if qs.contains x.2 then x.1.leaving part else x.1)).callSlices := rfl

@[simp] theorem callSlice_loc (g : Group) : g.callSlice.loc = g.loc := by
  unfold Group.callSlice
  dsimp only
  split <;> rfl

/-- The slice waits that are called for move no group. -/
theorem callSlices_loc {s : State} {p : GLoc → Prop} (h : ∀ g ∈ s.groups, p g.loc) :
    ∀ g ∈ s.callSlices.groups, p g.loc := by
  intro g hg
  obtain ⟨x, hx, rfl⟩ := List.mem_map.mp hg
  split
  · rw [callSlice_loc]
    exact h x hx
  · exact h x hx

/-- The quadrants of a recarve that change hands. -/
def State.changing (s : State) (x : Recarve) : List Nat :=
  (List.range 4).filter fun q => bit x.qmask q && (x.grow || (s.quadAt x.cell q).owner == x.part)

/-- The state after a recarve's quadrants have changed hands, before the command that may wait for it. -/
def State.recarved (s : State) (k : Nat) (x : Recarve) : State :=
  let s1 := if x.fence then s else s.handOver x.part x.cell (s.changing x) x.grow
  let s2 := s1.withHub fun h => { h with recarves := h.recarves.eraseIdx k }
  if x.deferred then s2.raise 0 7 else s2

/-- A GROW or a SHRINK ends when no recarve is left that it waits for. -/
def State.recarveSettle (s : State) : State :=
  match s.hub.part.cmd with
  | some v =>
    if (bits v 31 28 == 1 || bits v 31 28 == 2) && !(s.hub.recarves.any fun y => !y.deferred && !y.fence) then
      s.partEnd 0
    else s
  | .none => s

theorem recarveEnd_eq (s : State) (k : Nat) : s.recarveEnd k = match s.hub.recarves[k]? with
    | .none => s
    | some x => if !s.left x then s else (s.recarved k x).recarveSettle := rfl

theorem recarveEnd_of_some {s : State} {k : Nat} {x : Recarve} (h : s.hub.recarves[k]? = some x) :
    s.recarveEnd k = if !s.left x then s else (s.recarved k x).recarveSettle := by
  rw [recarveEnd_eq, h]

theorem recarveEnd_of_none {s : State} {k : Nat} (h : s.hub.recarves[k]? = none) : s.recarveEnd k = s := by
  rw [recarveEnd_eq, h]

theorem recarveSettle_last {s : State} {v : Nat} (hr : s.hub.recarves = []) (hcmd : s.hub.part.cmd = some v)
    (hop : bits v 31 28 = 2) : s.recarveSettle = s.partEnd 0 := by
  simp [State.recarveSettle, hr, hcmd, hop]

theorem recarved_now {s : State} {x : Recarve} (hdef : x.deferred = false) (hfence : x.fence = false) (k : Nat) :
    s.recarved k x = (s.handOver x.part x.cell (s.changing x) x.grow).withHub fun h =>
      { h with recarves := h.recarves.eraseIdx k } := by
  simp only [State.recarved, hdef, hfence, Bool.false_eq_true, if_false]

/-- The only recarve, for which all is ready and a SHRINK waits, ends and ends the command. -/
theorem recarveEnd_only {s : State} {x : Recarve} {v : Nat} (hr : s.hub.recarves = [x]) (hleft : s.left x = true)
    (hdef : x.deferred = false) (hfence : x.fence = false) (hcmd : s.hub.part.cmd = some v) (hop : bits v 31 28 = 2) :
    s.recarveEnd 0 = (s.recarved 0 x).partEnd 0 := by
  have hrecs : (s.recarved 0 x).hub.recarves = [] := by
    rw [recarved_now hdef hfence, withHub_hub, handOver_hub, hr]
    rfl
  have hsame : (s.recarved 0 x).hub.part.cmd = some v := by
    rw [recarved_now hdef hfence, withHub_hub, handOver_hub]
    exact hcmd
  rw [recarveEnd_of_some (x := x) (by rw [hr]; rfl), hleft, recarveSettle_last hrecs hsame hop]
  rfl

/-- A command that waits for one recarve, for which all is ready, settles with it. -/
theorem partSettle_only {s : State} {x : Recarve} {v : Nat} (hr : s.hub.recarves = [x]) (hleft : s.left x = true)
    (hdef : x.deferred = false) (hfence : x.fence = false) (hcmd : s.hub.part.cmd = some v) (hop : bits v 31 28 = 2) :
    s.partSettle = (s.recarved 0 x).partEnd 0 := by
  have hend : s.recarvesEnd = s.recarveEnd 0 := by
    rw [State.recarvesEnd, hr]
    rfl
  unfold State.partSettle
  dsimp only
  rw [hend, recarveEnd_only hr hleft hdef hfence hcmd hop, partEnd_cmd]

theorem bit_idleShrink_qmask (part cell v q : Nat) :
    bit (Recarve.idleShrink part cell (cmdQuads v)).qmask q = decide (q ∈ cmdQuads v) := by
  unfold Recarve.idleShrink
  dsimp only
  rw [List.foldl_map, bit, cmdQuads, testBit_mask]
  simp

/-- The state in which a SHRINK with nothing to evict has marked its quadrants. -/
def State.shrinkMarked (s : State) (part cell : Nat) (qs : List Nat) : State :=
  s.recarveBegin part cell qs false false []

theorem quad?_shrinkMarked (s : State) (part cell : Nat) (qs : List Nat) (q : Nat) :
    (s.shrinkMarked part cell qs).quad? cell q =
      (s.quad? cell q).map fun x => if qs.contains q then x.leaving part else x := by
  rw [State.shrinkMarked, recarveBegin_idle]
  exact quad?_modCell (f := Cell.mapQuads _) (fun _ => rfl)
    (s.withHub fun h => { h with recarves := h.recarves ++ [.idleShrink part cell qs] }) cell q

theorem quad?_shrinkMarked_of_owned {s : State} {part cell q : Nat} {qs : List Nat} (hq : q ∈ qs)
    (ho : (s.quadAt cell q).owned = true) :
    (s.shrinkMarked part cell qs).quad? cell q = some ((s.quadAt cell q).leaving part) := by
  rw [quad?_shrinkMarked, quad?_of_owned ho]
  simp [hq]

/-- With no group on the cell and no self-test on its quadrants, nothing holds such a SHRINK up. -/
theorem left_shrinkMarked {s : State} {part cell v : Nat} (hg : ∀ g ∈ s.groups, g.loc.cell ≠ cell)
    (hq : ∀ q ∈ cmdQuads v, (s.quadAt cell q).owned = true ∧ (s.quadAt cell q).testing = false) :
    (s.shrinkMarked part cell (cmdQuads v)).left (.idleShrink part cell (cmdQuads v)) = true := by
  have htest : ∀ q, q ∈ cmdQuads v → ((s.shrinkMarked part cell (cmdQuads v)).quadAt cell q).testing = false := by
    intro q h
    rw [quadAt_eq, quad?_shrinkMarked_of_owned h (hq q h).1]
    exact (hq q h).2
  have hgroups : ∀ g ∈ (s.shrinkMarked part cell (cmdQuads v)).groups, g.loc.cell ≠ cell := by
    rw [State.shrinkMarked, recarveBegin_idle]
    exact callSlices_loc (p := fun l => l.cell ≠ cell) hg
  unfold State.left
  simp only [bit_idleShrink_qmask]
  generalize s.shrinkMarked part cell (cmdQuads v) = u at *
  rw [Bool.and_eq_true, Bool.and_eq_true, Bool.not_eq_true', Bool.not_eq_true', List.any_eq_false, List.any_eq_false]
  refine ⟨⟨rfl, fun q _ => ?_⟩, fun g hmem => ?_⟩
  · by_cases h : q ∈ cmdQuads v
    · simp [Recarve.idleShrink, htest q h]
    · simp [h]
  · simp [Recarve.idleShrink, hgroups g hmem]

theorem changing_shrinkMarked {s : State} {part cell v : Nat}
    (hq : ∀ q ∈ cmdQuads v, (s.quadAt cell q).owned = true) :
    (s.shrinkMarked part cell (cmdQuads v)).changing (.idleShrink part cell (cmdQuads v)) = cmdQuads v := by
  unfold State.changing
  conv_rhs => rw [cmdQuads]
  refine List.filter_congr fun q hq4 => ?_
  rw [bit_idleShrink_qmask]
  by_cases h : q ∈ cmdQuads v
  · have howner : (s.shrinkMarked part cell (cmdQuads v)).quadAt cell q = (s.quadAt cell q).leaving part := by
      rw [quadAt_eq, quad?_shrinkMarked_of_owned h (hq q h)]
      rfl
    simp [Recarve.idleShrink, howner, Quad.leaving, h, (mem_cmdQuads.mp h).2]
  · have hbit : bit v (7 + q) = false := by
      simpa [mem_cmdQuads, List.mem_range.mp hq4] using h
    simp [h, hbit]

theorem quadAt_withHub (s : State) (f : Hub → Hub) (cell q : Nat) : (s.withHub f).quadAt cell q = s.quadAt cell q := rfl

theorem shrinkMarked_part (s : State) (part cell : Nat) (qs : List Nat) :
    (s.shrinkMarked part cell qs).hub.part = s.hub.part := rfl

theorem shrinkMarked_recarves (s : State) (part cell : Nat) (qs : List Nat) :
    (s.shrinkMarked part cell qs).hub.recarves = s.hub.recarves ++ [.idleShrink part cell qs] := rfl

/-- A SHRINK with nothing to evict ends, and its quadrants are handed back (03 R91). -/
theorem shrinkMarked_settles {s : State} {part cell v w : Nat} (hrec : s.hub.recarves = [])
    (hcmd : s.hub.part.cmd = some w) (hop : bits w 31 28 = 2) (hg : ∀ g ∈ s.groups, g.loc.cell ≠ cell)
    (hq : ∀ q ∈ cmdQuads v, (s.quadAt cell q).owned = true ∧ (s.quadAt cell q).testing = false) :
    let t := (s.shrinkMarked part cell (cmdQuads v)).partSettle
    (t.hub.part.cmd = none ∧ t.hub.part.result = 0) ∧ t.hub.recarves = [] ∧
      ∀ q ∈ cmdQuads v, t.quadAt cell q = ((s.quadAt cell q).leaving part).handed false part := by
  have hrecs : (s.shrinkMarked part cell (cmdQuads v)).hub.recarves = [.idleShrink part cell (cmdQuads v)] := by
    rw [shrinkMarked_recarves, hrec, List.nil_append]
  have hmarked := fun q h => quad?_shrinkMarked_of_owned (part := part) h (hq q h).1
  rw [partSettle_only hrecs (left_shrinkMarked hg hq) rfl rfl ((shrinkMarked_part ..).symm ▸ hcmd) hop,
    recarved_now rfl rfl, changing_shrinkMarked fun q h => (hq q h).1]
  generalize s.shrinkMarked part cell (cmdQuads v) = u at *
  refine ⟨⟨partEnd_cmd _ 0, partEnd_result _ 0⟩, ?_, fun q h => ?_⟩
  · rw [partEnd_recarves, withHub_hub, handOver_hub, hrecs]
    rfl
  · rw [quadAt_partEnd, quadAt_withHub]
    exact quadAt_handOver_of_mem (hmarked q h) h

theorem partShrink_happens (v p : Nat) : Happens (.partShrink v 0)
    (fun s => (s.hub.part.cmd = none ∧ s.hub.boot = 4 ∧ s.hub.dstate ≠ 2) ∧ cmdQuads v ≠ [] ∧ s.hub.recarves = [] ∧
      s.blocksOn p (cmdCell v) = [] ∧ (∀ g ∈ s.groups, g.loc.cell ≠ cmdCell v) ∧
      (∀ q ∈ s.heldQuads p (cmdCell v), q ∈ cmdQuads v) ∧
      ∀ q ∈ cmdQuads v, (s.quadAt (cmdCell v) q).owned = true ∧ (s.quadAt (cmdCell v) q).owner = p ∧
        (s.quadAt (cmdCell v) q).shrinkPending = false ∧ (s.quadAt (cmdCell v) q).testing = false ∧
        s.underReset (cmdCell v) q = false)
    fun _ t => (t.hub.part.cmd = none ∧ t.hub.part.result = 0) ∧ t.hub.recarves = [] ∧
      ∀ q ∈ cmdQuads v, (t.quadAt (cmdCell v) q).owned = false ∧ (t.quadAt (cmdCell v) q).tlb = [] ∧
        (t.quadAt (cmdCell v) q).board = [] := by
  refine partCommand_happens (exec_partShrink v) (fun s ⟨⟨hc, hb, hd⟩, _⟩ => ⟨hc, hd, .inr (.inr hb)⟩) ?_
  rintro s t ⟨-, hne, hrec, hblocks, hgroups, hheld, hq⟩ ht
  have hrun : (s.partBegun 2 v).shrink (cmdCell v) (cmdQuads v) =
      ((s.partBegun 2 v).shrinkMarked p (cmdCell v) (cmdQuads v)).partSettle :=
    shrink_whole (s := s.partBegun 2 v) hne hblocks hheld fun q h =>
      have ⟨howned, howner, hpend, _, hreset⟩ := hq q h
      ⟨howned, howner, hpend, hreset⟩
  obtain ⟨hend, hrecs, hquads⟩ := shrinkMarked_settles (s := s.partBegun 2 v) (part := p) hrec (partBegun_cmd s 2 v)
    (bits_partWordOf_op 2 v) hgroups fun q h =>
    have ⟨howned, _, _, htest, _⟩ := hq q h
    ⟨howned, htest⟩
  rw [cmdCell_partWordOf, cmdQuads_partWordOf, hrun] at ht
  subst ht
  refine ⟨hend, hrecs, fun q h => ?_⟩
  rw [hquads q h]
  exact ⟨rfl, rfl, rfl⟩

/-! ### CANCEL (03 R93) -/

/-- The deferred commands that a withdrawal from quadrants of a cell concerns. -/
def Recarve.hit (cell : Nat) (qs : List Nat) (x : Recarve) : Bool :=
  x.deferred && !x.fence && x.cell == cell && qs.any (bit x.qmask)

/-- CANCEL, once it is taken, of the quadrants `qs`, which read shrink-pending. -/
def State.cancel (s : State) (cell : Nat) (qs : List Nat) : State :=
  let hit := s.hub.recarves.filter (Recarve.hit cell qs)
  if hit.any (·.began) then s.partEnd 4
  else if hit.isEmpty then s.partEnd 0
  else
    let gone := qs.filter fun q => hit.any fun x => bit x.qmask q
    let s1 := s.withHub fun h =>
      { h with recarves := h.recarves.filterMap fun x => if x.hit cell qs then x.without gone else some x }
    let stay (y : Quad × Nat) : Quad := if gone.contains y.2 then
      { y.1 with shrinkPending := false, owner := if y.1.owned then y.1.owner else 0 } else y.1
    ((s1.modCell cell fun c => { c with quads := c.quads.zipIdx.map stay }).liftSlices).partEnd 8

/-- The quadrants named that read shrink-pending. -/
def State.pendingOf (s : State) (cell : Nat) (qs : List Nat) : List Nat :=
  qs.filter fun q => (s.quadAt cell q).shrinkPending

theorem exec_partCancel (v : Nat) (s : State) : exec (.partCancel v 0) s =
    .next (s.partWrite 0 3 v fun v s => s.cancel (cmdCell v) (s.pendingOf (cmdCell v) (cmdQuads v))) := rfl

/-- The recarves after a withdrawal. -/
def withdrawn (cell : Nat) (qs : List Nat) (l : List Recarve) : List Recarve :=
  let gone := qs.filter fun q => (l.filter (Recarve.hit cell qs)).any fun x => bit x.qmask q
  l.filterMap fun x => if x.hit cell qs then x.without gone else some x

/-- With a deferred command to withdraw from, and none whose eviction has begun, CANCEL ends with RESULT 8. -/
theorem cancel_hit {s : State} {cell : Nat} {qs : List Nat} (hhit : ∃ x ∈ s.hub.recarves, x.hit cell qs = true)
    (hbegan : ∀ x ∈ s.hub.recarves, x.began = false) :
    ((s.cancel cell qs).hub.part.cmd = none ∧ (s.cancel cell qs).hub.part.result = 8) ∧
      (s.cancel cell qs).hub.recarves = withdrawn cell qs s.hub.recarves := by
  have hany : (s.hub.recarves.filter (Recarve.hit cell qs)).any (·.began) = false :=
    List.any_eq_false.mpr fun x hx => ne_true_of_eq_false (hbegan x (List.mem_of_mem_filter hx))
  have hne : (s.hub.recarves.filter (Recarve.hit cell qs)).isEmpty = false := by
    obtain ⟨x, hx, hh⟩ := hhit
    exact List.isEmpty_eq_false_iff_exists_mem.mpr ⟨x, List.mem_filter.mpr ⟨hx, hh⟩⟩
  simp only [State.cancel, hany, hne, Bool.false_eq_true, if_false]
  exact ⟨⟨partEnd_cmd _ 8, partEnd_result _ 8⟩, partEnd_recarves _ 8⟩

/-- A command keeps the quadrants that it is not withdrawn from, where there are any. -/
theorem without_some {x y : Recarve} {qs : List Nat} (h : y.without qs = some x) :
    x = { y with qmask := x.qmask } ∧ ∀ q, q < 4 → bit x.qmask q = (bit y.qmask q && !qs.contains q) := by
  unfold Recarve.without at h
  dsimp only at h
  split at h
  · exact absurd h.symm (Option.some_ne_none x)
  · obtain rfl := Option.some.inj h
    refine ⟨rfl, fun q hq => ?_⟩
    rw [bit, testBit_mask]
    simp [hq]

/-- What a withdrawal leaves of a command. -/
theorem mem_withdrawn {cell : Nat} {qs : List Nat} {l : List Recarve} {x : Recarve} (h : x ∈ withdrawn cell qs l) :
    ∃ y ∈ l, x = { y with qmask := x.qmask } ∧ ∀ q, q < 4 → bit x.qmask q =
      (bit y.qmask q && !(y.deferred && !y.fence && y.cell == cell && qs.contains q)) := by
  obtain ⟨y, hy, hx⟩ := List.mem_filterMap.mp h
  refine ⟨y, hy, ?_⟩
  cases hhit : y.hit cell qs
  case false =>
    rw [hhit, if_neg Bool.false_ne_true] at hx
    obtain rfl := Option.some.inj hx
    refine ⟨rfl, fun q _ => ?_⟩
    by_cases hq : q ∈ qs
    · by_cases hbit : bit y.qmask q = true
      · have hany : qs.any (bit y.qmask) = true := List.any_eq_true.mpr ⟨q, hq, hbit⟩
        have : (y.deferred && !y.fence && y.cell == cell) = false := by simpa [Recarve.hit, hany] using hhit
        simp [this]
      · simp [hbit]
    · simp [hq]
  case true =>
    rw [hhit, if_pos rfl] at hx
    obtain ⟨heq, hbits⟩ := without_some hx
    refine ⟨heq, fun q hq => ?_⟩
    have hmine : (y.deferred && !y.fence && y.cell == cell) = true := by
      rw [Recarve.hit, Bool.and_eq_true] at hhit
      exact hhit.1
    rw [hbits q hq, hmine, Bool.true_and]
    by_cases hbit : bit y.qmask q = true
    · have hex : ∃ x ∈ l, x.hit cell qs = true ∧ bit x.qmask q = true := ⟨y, hy, hhit, hbit⟩
      simp [hex]
    · simp [hbit]

/-- A withdrawal leaves what it does not concern. -/
theorem mem_withdrawn_of_not_hit {cell : Nat} {qs : List Nat} {l : List Recarve} {y : Recarve} (hy : y ∈ l)
    (hn : y.hit cell qs = false) : y ∈ withdrawn cell qs l :=
  List.mem_filterMap.mpr ⟨y, hy, by rw [hn, if_neg Bool.false_ne_true]⟩

theorem contains_pendingOf (s : State) (cell : Nat) (qs : List Nat) (q : Nat) :
    (s.pendingOf cell qs).contains q = (qs.contains q && (s.quadAt cell q).shrinkPending) := by
  simp [State.pendingOf]

theorem partCancel_happens (v : Nat) : Happens (.partCancel v 0)
    (fun s => s.hub.part.cmd = none ∧ s.hub.dstate ≠ 2 ∧ (∃ x ∈ s.hub.recarves, x.deferred = true ∧ x.fence = false ∧
      x.cell = cmdCell v ∧ ∃ q ∈ cmdQuads v, bit x.qmask q = true ∧ (s.quadAt (cmdCell v) q).shrinkPending = true) ∧
      ∀ y ∈ s.hub.recarves, y.began = false)
    fun s t => (t.hub.part.cmd = none ∧ t.hub.part.result = 8) ∧
      (∀ x ∈ t.hub.recarves, ∃ y ∈ s.hub.recarves, x = { y with qmask := x.qmask } ∧
        ∀ q, q < 4 → bit x.qmask q = (bit y.qmask q && !(x.deferred && !x.fence && x.cell == cmdCell v &&
          (cmdQuads v).contains q && (s.quadAt (cmdCell v) q).shrinkPending))) ∧
      ∀ y ∈ s.hub.recarves, y.deferred = false ∨ y.fence = true ∨ y.cell ≠ cmdCell v → y ∈ t.hub.recarves := by
  refine partCommand_happens (exec_partCancel v) (fun s ⟨hc, hd, _⟩ => ⟨hc, hd, .inl rfl⟩) ?_
  rintro s t ⟨-, -, ⟨x, hx, hdef, hfence, hcell, q, hq, hbit, hpend⟩, hbegan⟩ ht
  have hhit : x.hit (cmdCell v) (s.pendingOf (cmdCell v) (cmdQuads v)) = true := by
    have hany : (s.pendingOf (cmdCell v) (cmdQuads v)).any (bit x.qmask) = true :=
      List.any_eq_true.mpr ⟨q, List.mem_filter.mpr ⟨hq, hpend⟩, hbit⟩
    simp [Recarve.hit, hdef, hfence, hcell, hany]
  have hpending : (s.partBegun 3 v).pendingOf (cmdCell v) (cmdQuads v) = s.pendingOf (cmdCell v) (cmdQuads v) := rfl
  obtain ⟨hend, hrecs⟩ := cancel_hit (s := s.partBegun 3 v) ⟨x, hx, hhit⟩ hbegan
  rw [cmdCell_partWordOf, cmdQuads_partWordOf, hpending] at ht
  rw [← ht] at hend hrecs
  refine ⟨hend, fun z hz => ?_, fun y hy hno => ?_⟩
  · obtain ⟨y, hy, heq, hbits⟩ := mem_withdrawn (hrecs ▸ hz)
    refine ⟨y, hy, heq, fun q hq => ?_⟩
    rw [hbits q hq, contains_pendingOf, heq]
    simp only [Bool.and_assoc]
  · rw [hrecs]
    refine mem_withdrawn_of_not_hit hy ?_
    rcases hno with h | h | h <;> simp [Recarve.hit, h]

end Sys2Proof.Machine
end

section
/-! PROOFS. The reset ladder (03 R101 to R104): the start of a rung, its escalation, its end, in which each part keeps
the rungs that run, the contexts' states and that a context's regions are complete; and the class registers (03 R98;
09 R265). -/
namespace Sys2Proof.Machine
open Sys2Proof

/-! ### The start of a rung (03 R101, R102) -/

/-- What the marking of contexts keeps: RUNG, RUNGTGT, the rungs that run, PART_CMD's register, the number of contexts,
and that one is resetting. -/
structure KeepsLadder (s t : State) : Prop where
  rung : t.hub.rung = s.hub.rung
  rungTgt : t.hub.rungTgt = s.hub.rungTgt
  rungs : t.hub.rungs = s.hub.rungs
  part : t.hub.part = s.hub.part
  length : t.ctxs.length = s.ctxs.length
  resetting : ∀ c, (s.ctx c).state = 5 → (t.ctx c).state = 5

theorem KeepsLadder.refl (s : State) : KeepsLadder s s := ⟨rfl, rfl, rfl, rfl, rfl, fun _ h => h⟩

theorem KeepsLadder.trans {s t u : State} (h : KeepsLadder s t) (k : KeepsLadder t u) : KeepsLadder s u :=
  ⟨k.rung.trans h.rung, k.rungTgt.trans h.rungTgt, k.rungs.trans h.rungs, k.part.trans h.part, k.length.trans h.length,
    fun c hc => k.resetting c (h.resetting c hc)⟩

theorem keepsLadder_raise (s : State) (f v : Nat) : KeepsLadder s (s.raise f v) := by
  obtain ⟨_, _, _, _, h⟩ := raise_frame s f v
  rw [h]
  exact ⟨rfl, rfl, rfl, rfl, rfl, fun _ h => h⟩

theorem keepsLadder_modCtx_resetting (s : State) (c : Nat) :
    KeepsLadder s (s.modCtx c fun x => { x with state := 5 }) :=
  ⟨rfl, rfl, rfl, rfl, length_modifyAt .., (keepsOwners_modCtx_resetting s c).resetting⟩

theorem keepsLadder_markResetting (s : State) (c : Nat) : KeepsLadder s (s.markResetting c) := by
  unfold State.markResetting
  dsimp only
  split
  · exact keepsLadder_modCtx_resetting s c
  · exact (keepsLadder_modCtx_resetting s c).trans (keepsLadder_raise _ _ 2)

theorem markResetting_state_of_lt {s : State} {c : Nat} (h : c < s.ctxs.length) :
    ((s.markResetting c).ctx c).state = 5 := by
  have hmod : ((s.modCtx c fun x => { x with state := 5 }).ctx c).state = 5 := by
    rw [ctx_modCtx, if_pos ⟨rfl, h⟩]
  unfold State.markResetting
  dsimp only
  split
  · exact hmod
  · exact (keepsLadder_raise _ _ 2).resetting c hmod

theorem foldl_markResetting (l : List Nat) (s : State) : KeepsLadder s (l.foldl State.markResetting s) ∧
    ∀ c ∈ l, c < s.ctxs.length → ((l.foldl State.markResetting s).ctx c).state = 5 := by
  induction l generalizing s with
  | nil => exact ⟨.refl s, fun _ h => absurd h List.not_mem_nil⟩
  | cons d l ih =>
    have hmark := keepsLadder_markResetting s d
    obtain ⟨hrest, hall⟩ := ih (s.markResetting d)
    refine ⟨hmark.trans hrest, fun c hc hlt => ?_⟩
    obtain rfl | hc := List.mem_cons.mp hc
    · exact hrest.resetting c (markResetting_state_of_lt hlt)
    · exact hall c hc (hmark.length.symm ▸ hlt)

/-- The state in which a rung stands in RUNG and in the list of rungs. -/
def State.ladderBegun (s : State) (x : Rung) : State :=
  (s.raise 0 8).withHub fun h => { h with rung := x.rung, rungTgt := x.tgt, rungs := h.rungs ++ [x] }

theorem rungStart_of_ne {s : State} {rung : Nat} (h : rung ≠ 5) (tgt : Nat) (asked : Option Nat) (climbed : Bool) :
    s.rungStart rung tgt asked climbed = (s.rungCtxs rung tgt).foldl State.markResetting
      (s.ladderBegun ⟨rung, tgt, s.hv, s.rungCtxs rung tgt, asked, climbed⟩) := by
  unfold State.rungStart
  rw [if_neg h]
  rfl

theorem ladderBegun_hub (s : State) (x : Rung) : (s.ladderBegun x).hub.rung = x.rung ∧
    (s.ladderBegun x).hub.rungTgt = x.tgt ∧ (s.ladderBegun x).hub.rungs = s.hub.rungs ++ [x] ∧
    (s.ladderBegun x).hub.part = s.hub.part := by
  have h := keepsLadder_raise s 0 8
  exact ⟨rfl, rfl, congrArg (· ++ [x]) h.rungs, h.part⟩

/-- A rung but the device's starts: it is the last of those that run, and the contexts it acts on read resetting. -/
theorem rungStart_hub {s : State} {rung : Nat} (h : rung ≠ 5) (tgt : Nat) (asked : Option Nat) (climbed : Bool) :
    let t := s.rungStart rung tgt asked climbed
    t.hub.rung = rung ∧ t.hub.rungTgt = tgt ∧ t.hub.part = s.hub.part ∧
      t.hub.rungs = s.hub.rungs ++ [⟨rung, tgt, s.hv, s.rungCtxs rung tgt, asked, climbed⟩] ∧
      ∀ c ∈ s.rungCtxs rung tgt, c < s.ctxs.length → (t.ctx c).state = 5 := by
  dsimp only
  rw [rungStart_of_ne h]
  obtain ⟨hrung, htgt, hrungs, hpart⟩ :=
    ladderBegun_hub s ⟨rung, tgt, s.hv, s.rungCtxs rung tgt, asked, climbed⟩
  obtain ⟨hkeep, hall⟩ := foldl_markResetting (s.rungCtxs rung tgt)
    (s.ladderBegun ⟨rung, tgt, s.hv, s.rungCtxs rung tgt, asked, climbed⟩)
  exact ⟨hkeep.rung.trans hrung, hkeep.rungTgt.trans htgt, hkeep.part.trans hpart, hkeep.rungs.trans hrungs, hall⟩

/-- RESET, once it is taken. -/
def State.rungCommand (s : State) (rung tgt : Nat) : State :=
  if !s.rungOk rung tgt then s.partEnd 2
  else if rung = 5 then (if s.hub.inHold then s.partEnd 6 else s.rungStart 5 tgt .none false)
  else if s.hub.rungs.any (s.sameTarget rung tgt) then
    let asks (x : Rung) : Rung := if s.sameTarget rung tgt x then { x with asked := some rung, climbed := false } else x
    s.withHub fun h => { h with rungs := h.rungs.map asks }
  else s.rungStart rung tgt (some rung) false

theorem exec_rungReset (v : Nat) (s : State) : exec (.rungReset v 0) s = .next (s.partWrite 0 4 v fun v s =>
    s.rungCommand (bits v 6 4) (if bits v 6 4 = 4 then cmdPart v else bits v 23 16)) := rfl

theorem rungCommand_starts {s : State} {rung tgt : Nat} (hok : s.rungOk rung tgt = true) (h5 : rung ≠ 5)
    (hno : s.hub.rungs.any (s.sameTarget rung tgt) = false) :
    s.rungCommand rung tgt = s.rungStart rung tgt (some rung) false := by
  unfold State.rungCommand
  rw [hok, if_neg (by decide), if_neg h5, if_neg (ne_true_of_eq_false hno)]

theorem rungReset_happens (v rung tgt : Nat) : Happens (.rungReset v 0)
    (fun s => s.hub.part.cmd = none ∧ s.hub.dstate ≠ 2 ∧ rung = bits v 6 4 ∧
      tgt = (if rung = 4 then cmdPart v else bits v 23 16) ∧ s.rungOk rung tgt = true ∧ rung ≠ 5 ∧
      s.hub.rungs.any (s.sameTarget rung tgt) = false)
    fun s t => t.hub.rung = rung ∧ t.hub.rungTgt = tgt ∧ t.hub.part.cmd ≠ none ∧
      t.hub.rungs = s.hub.rungs ++ [⟨rung, tgt, s.hv, s.rungCtxs rung tgt, some rung, false⟩] ∧
      ∀ c ∈ s.rungCtxs rung tgt, c < s.ctxs.length → (t.ctx c).state = 5 := by
  refine partCommand_happens (exec_rungReset v) (fun s ⟨hc, hd, _⟩ => ⟨hc, hd, .inr (.inl rfl)⟩) ?_
  rintro s t ⟨-, -, hrung, htgt, hok, h5, hno⟩ ht
  have hstart : (s.partBegun 4 v).rungCommand rung tgt = _ := rungCommand_starts (s := s.partBegun 4 v) hok h5 hno
  obtain ⟨h1, h2, hpart, hrungs, hctxs⟩ := rungStart_hub (s := s.partBegun 4 v) h5 tgt (some rung) false
  rw [bits_partWordOf 4 v (by decide), bits_partWordOf 4 v (by decide), cmdPart_partWordOf, ← hrung, ← htgt,
    hstart] at ht
  rw [← ht] at h1 h2 hpart hrungs hctxs
  exact ⟨h1, h2, hpart ▸ partBegun_cmd_ne_none s 4 v, hrungs, hctxs⟩

/-! ### Escalation (03 R101) -/

theorem rungTimeout_happens (k : Nat) (x : Rung) (lim : Nat) (y : Nat × Nat) : Happens (.rungTimeout k)
    (fun s => s.hub.rungs[k]? = some x ∧ rungLimit x.rung = some lim ∧ x.start + lim ≤ s.hv ∧ s.climb x = [y] ∧ y.1 ≠ 5)
    fun s t => t.hub.rung = y.1 ∧ t.hub.rungTgt = y.2 ∧ ∃ r, t.hub.rungs = s.hub.rungs.eraseIdx k ++ [r] ∧
      r.rung = y.1 ∧ r.tgt = y.2 ∧ r.start = s.hv ∧ r.climbed = true ∧ r.asked = x.asked := by
  refine .of_next (fun s => rfl) fun s _ ⟨hk, hlim, hle, hclimb, h5⟩ => ?_
  have hover : s.rungOver x = true := by simp [State.rungOver, hlim, hle]
  obtain ⟨hrung, htgt, -, hrungs, -⟩ := rungStart_hub
    (s := s.withHub fun h => { h with rungs := h.rungs.eraseIdx k }) h5 y.2 x.asked true
  simp only [hk, hover, hclimb, Bool.not_true, Bool.false_eq_true, if_false, List.isEmpty_cons, List.foldl_cons,
    List.foldl_nil]
  exact ⟨hrung, htgt, _, hrungs, rfl, rfl, rfl, rfl, rfl⟩

/-! ### The end of a rung (03 R101, R103) -/

/-- Every region of a context is complete. -/
def State.regionsComplete (s : State) (c : Nat) : Prop := ∀ r ∈ s.regions, r.ctx = c → r.complete = true

/-- What the parts of a rung's end keep: the rungs that run, the contexts' states, and that a context's regions are
complete. -/
structure KeepsRungs (s t : State) : Prop where
  rungs : t.hub.rungs = s.hub.rungs
  length : t.ctxs.length = s.ctxs.length
  state : ∀ c, (t.ctx c).state = (s.ctx c).state
  complete : ∀ c, s.regionsComplete c → t.regionsComplete c

theorem KeepsRungs.refl (s : State) : KeepsRungs s s := ⟨rfl, rfl, fun _ => rfl, fun _ h => h⟩

theorem KeepsRungs.trans {s t u : State} (h : KeepsRungs s t) (k : KeepsRungs t u) : KeepsRungs s u :=
  ⟨k.rungs.trans h.rungs, k.length.trans h.length, fun c => (k.state c).trans (h.state c),
    fun c hc => k.complete c (h.complete c hc)⟩

/-- A change of neither the contexts nor the regions nor the rungs. -/
theorem KeepsRungs.of_eq {s t : State} (hr : t.hub.rungs = s.hub.rungs) (hc : t.ctxs = s.ctxs)
    (hreg : t.regions = s.regions) : KeepsRungs s t :=
  ⟨hr, by rw [hc], fun c => by rw [State.ctx, hc]; rfl, fun c h => by rw [State.regionsComplete, hreg]; exact h⟩

theorem KeepsRungs.foldl {α : Type} {step : State → α → State} (h : ∀ s a, KeepsRungs s (step s a)) (l : List α)
    (s : State) : KeepsRungs s (l.foldl step s) :=
  List.foldlRecOn l step (.refl s) fun t ht a _ => ht.trans (h t a)

theorem WritesHome.keepsRungs {s t : State} : WritesHome s t → KeepsRungs s t := by
  rintro ⟨_, _, _, _, _, rfl⟩
  exact .of_eq rfl rfl rfl

theorem keepsRungs_raise (s : State) (f v : Nat) : KeepsRungs s (s.raise f v) :=
  .of_eq (keepsLadder_raise s f v).rungs rfl rfl

theorem keepsRungs_partEnd (s : State) (r : Nat) : KeepsRungs s (s.partEnd r) :=
  .trans (t := s.withHub fun h => { h with part := h.part.finish r }) (.of_eq rfl rfl rfl) (keepsRungs_raise _ 0 6)

theorem keepsRungs_modQuad (s : State) (c q : Nat) (f : Quad → Quad) : KeepsRungs s (s.modQuad c q f) :=
  .of_eq rfl rfl rfl

/-! The end of a context's blocks (05 R132). -/

theorem withdrawEnded_frame (s : State) : ∃ must hubc,
    s.withdrawEnded = { s with hub := { s.hub with must := must }, hubc := hubc } := by
  unfold State.withdrawEnded
  split
  · exact ⟨_, _, rfl⟩
  · exact ⟨_, _, rfl⟩

theorem keepsRungs_withdrawEnded (s : State) : KeepsRungs s s.withdrawEnded := by
  obtain ⟨_, _, h⟩ := withdrawEnded_frame s
  rw [h]
  exact .of_eq rfl rfl rfl

theorem keepsRungs_leavePlace (s : State) (b : Nat) : KeepsRungs s (s.leavePlace b) := by
  unfold State.leavePlace
  dsimp only
  split <;> exact .of_eq rfl rfl rfl

/-- What becomes of a block's own place when it ends: its lines and its place, and its groups' palette units. -/
def State.blockGone (s : State) (b : Nat) : State :=
  (s.groups.filter fun g => g.id.block == b && g.ctl.status != .free).foldl (fun s g =>
      s.modQuad g.loc.cell g.loc.quad fun q =>
        { q with palUnits := q.palUnits.filter fun u => !g.palBases.contains u.1 })
    (if (s.block b).resident then (s.discardLines b).leavePlace b else s.discardLines b)

theorem keepsRungs_blockGone (s : State) (b : Nat) : KeepsRungs s (s.blockGone b) := by
  have hlines : KeepsRungs s (s.discardLines b) := .of_eq rfl rfl rfl
  have hplace : KeepsRungs s (if (s.block b).resident then (s.discardLines b).leavePlace b else s.discardLines b) := by
    split
    · exact hlines.trans (keepsRungs_leavePlace _ b)
    · exact hlines
  unfold State.blockGone
  exact hplace.trans (.foldl (fun s g => keepsRungs_modQuad s _ _ _) _ _)

/-- The mark that a region has had a block terminated completes and opens none. -/
theorem regionsComplete_anyTerminated {s : State} {c : Nat} (h : s.regionsComplete c) (k : Nat) :
    ∀ r ∈ modifyAt s.regions k (fun r => { r with anyTerminated := true }), r.ctx = c → r.complete = true := by
  intro r hr hc
  obtain ⟨i, hi⟩ := List.mem_iff_getElem?.mp hr
  rw [getElem?_modifyAt] at hi
  split at hi
  · obtain ⟨x, hx, rfl⟩ := Option.map_eq_some_iff.mp hi
    exact h x (List.mem_of_getElem? hx) hc
  · exact h r (List.mem_of_getElem? hi) hc

theorem keepsRungs_endBlock (s : State) (b : Nat) : KeepsRungs s (s.endBlock b) := by
  refine .trans (t := s.blockGone b) (keepsRungs_blockGone s b) ?_
  refine .trans ?_ (keepsRungs_withdrawEnded _)
  exact ⟨rfl, rfl, fun _ => rfl, fun c h => regionsComplete_anyTerminated h _⟩

theorem keepsRungs_dynFree (s : State) (part cell off : Nat) : KeepsRungs s (s.dynFree part cell off) :=
  (writesHome_setWindow s _).keepsRungs

/-- The regions of a context that ends read complete. -/
def Region.ended (c : Nat) (r : Region) : Region :=
  if r.ctx == c then { r with complete := true, waiting := false, nextBlock := r.grid } else r

theorem ended_of_ctx_eq {c : Nat} {r : Region} (h : (r.ended c).ctx = c) : (r.ended c).complete = true := by
  unfold Region.ended at *
  split
  · rfl
  · next hne =>
    rw [if_neg hne] at h
    exact absurd (beq_iff_eq.mpr h) hne

theorem ended_ctx (c : Nat) (r : Region) : (r.ended c).ctx = r.ctx := by
  unfold Region.ended
  split <;> rfl

theorem ended_complete {c : Nat} {r : Region} (h : r.complete = true) : (r.ended c).complete = true := by
  unfold Region.ended
  split
  · rfl
  · exact h

/-- The blocks of a context ended, and what its passes held given back. -/
def State.ctxGone (s : State) (c : Nat) : State :=
  let s1 := ((List.range s.blocks.length).filter fun b => (s.block b).ctx == c && !(s.block b).retired).foldl
    (fun s b => s.endBlock b) s
  (s1.passes.filter fun p => p.ctx == c).foldl (fun s p =>
    (p.tiles.filterMap (·.mem)).foldl (fun s m => s.dynFree (s.passPart p) m.1 m.2)
      (s.dynFree (s.passPart p) p.home p.binOff)) s1

theorem keepsRungs_ctxGone (s : State) (c : Nat) : KeepsRungs s (s.ctxGone c) := by
  unfold State.ctxGone
  refine .trans (.foldl keepsRungs_endBlock _ s) (.foldl (fun s p => ?_) _ _)
  exact .trans (keepsRungs_dynFree s _ _ _) (.foldl (fun s m => keepsRungs_dynFree s _ _ _) _ _)

theorem regionsComplete_map_ended {s : State} {c d : Nat} (h : d = c ∨ s.regionsComplete d) :
    ∀ r ∈ s.regions.map (Region.ended c), r.ctx = d → r.complete = true := by
  rintro r hr rfl
  obtain ⟨x, hx, rfl⟩ := List.mem_map.mp hr
  rcases h with h | h
  · exact ended_of_ctx_eq h
  · exact ended_complete (h x hx (ended_ctx c x).symm)

/-- A context that ends by force keeps what a rung's end relies on, and its regions are complete (03 R101). -/
theorem killCtx_rungs (s : State) (c : Nat) : KeepsRungs s (s.killCtx c) ∧ (s.killCtx c).regionsComplete c := by
  refine ⟨.trans (keepsRungs_ctxGone s c) (.trans ?_ (keepsRungs_withdrawEnded _)),
    (keepsRungs_withdrawEnded _).complete c ?_⟩
  · exact ⟨rfl, rfl, fun _ => rfl, fun d h => regionsComplete_map_ended (.inr h)⟩
  · exact regionsComplete_map_ended (s := s.ctxGone c) (.inl rfl)

/-! The records (11 R304 to R307). -/

theorem keepsRungs_writeVaGo {s t : State} {c fuel va : Nat} {b : List Byte} (h : s.writeVaGo c fuel va b = .ok t) :
    KeepsRungs s t := by
  induction fuel generalizing s va b with
  | zero =>
    obtain rfl := Except.ok.inj h
    exact .refl _
  | succ n ih =>
    unfold State.writeVaGo at h
    split at h
    · obtain rfl := Except.ok.inj h
      exact .refl _
    · dsimp only at h
      split at h
      · cases h
      · exact (writesHome_homeWrite s _ _).keepsRungs.trans (ih h)

theorem keepsRungs_devRecord (s : State) (r : ErrRec) : KeepsRungs s (s.devRecord r) := by
  unfold State.devRecord
  dsimp only
  generalize 2 ^ (if s.hub.devqLog = 0 then 16 else s.hub.devqLog) = n
  split
  · exact .refl s
  · split
    · refine .trans ?_ (keepsRungs_raise _ 0 12)
      exact .of_eq rfl rfl rfl
    · exact .of_eq rfl rfl rfl

theorem keepsRungs_ctxRecord (s : State) (r : ErrRec) : KeepsRungs s (s.ctxRecord r) := by
  unfold State.ctxRecord
  dsimp only
  split
  · exact .refl s
  · split
    · exact keepsRungs_devRecord s _
    · next t ht =>
      have hw : KeepsRungs s t := by
        split at ht
        · cases ht
        · exact keepsRungs_writeVaGo ht
      refine hw.trans (.trans ?_ (keepsRungs_raise _ _ _))
      refine ⟨rfl, length_modifyAt .., fun c => ?_, fun _ h => h⟩
      rw [ctx_modCtx]
      split <;> rfl

/-! Recarves that were waiting for the rung (03 R104). -/

theorem keepsRungs_handOver (s : State) (part cell : Nat) (qs : List Nat) (give : Bool) :
    KeepsRungs s (s.handOver part cell qs give) :=
  .trans (t := s.modCell cell (Cell.handOver part qs give)) (.of_eq rfl rfl rfl)
    (handOver_frame s part cell qs give).keepsRungs

theorem keepsRungs_recarved (s : State) (k : Nat) (x : Recarve) : KeepsRungs s (s.recarved k x) := by
  have hhand : KeepsRungs s (if x.fence then s else s.handOver x.part x.cell (s.changing x) x.grow) := by
    split
    · exact .refl s
    · exact keepsRungs_handOver s _ _ _ _
  refine hhand.trans ?_
  unfold State.recarved
  generalize (if x.fence then s else s.handOver x.part x.cell (s.changing x) x.grow) = s1
  have herase : KeepsRungs s1 (s1.withHub fun h => { h with recarves := h.recarves.eraseIdx k }) := .of_eq rfl rfl rfl
  dsimp only
  split
  · exact herase.trans (keepsRungs_raise _ 0 7)
  · exact herase

theorem keepsRungs_recarveSettle (s : State) : KeepsRungs s s.recarveSettle := by
  unfold State.recarveSettle
  split
  · split
    · exact keepsRungs_partEnd s 0
    · exact .refl s
  · exact .refl s

theorem keepsRungs_recarveEnd (s : State) (k : Nat) : KeepsRungs s (s.recarveEnd k) := by
  cases h : s.hub.recarves[k]? with
  | none =>
    rw [recarveEnd_of_none h]
    exact .refl s
  | some x =>
    rw [recarveEnd_of_some h]
    split
    · exact .refl s
    · exact (keepsRungs_recarved s k x).trans (keepsRungs_recarveSettle _)

theorem keepsRungs_recarvesEnd (s : State) : KeepsRungs s s.recarvesEnd := .foldl keepsRungs_recarveEnd _ s

/-! The end itself. -/

/-- A context whose rung has ended reads faulted, and has its record (03 R103). -/
def State.faultedBy (x : Rung) (s : State) (c : Nat) : State :=
  (s.modCtx c fun y => { y with state := if s.stillReset c then 5 else 4 }).ctxRecord
    { ErrRec.plain 0x40 c with detail := x.rung + 256 * x.tgt }

/-- With no rung left each context comes to read faulted, and the others' states and all regions stay. -/
structure FaultsOne (s t : State) (c : Nat) : Prop where
  rungs : t.hub.rungs = s.hub.rungs
  length : t.ctxs.length = s.ctxs.length
  state : c < s.ctxs.length → (t.ctx c).state = 4
  others : ∀ d, (s.ctx d).state = 4 → (t.ctx d).state = 4
  complete : ∀ d, s.regionsComplete d → t.regionsComplete d

theorem faultsOne_faultedBy {s : State} (x : Rung) (c : Nat) (h : s.hub.rungs = []) :
    FaultsOne s (s.faultedBy x c) c := by
  have hstill : s.stillReset c = false := by rw [State.stillReset, h]; rfl
  have hrec := keepsRungs_ctxRecord (s.modCtx c fun y => { y with state := if s.stillReset c then 5 else 4 })
    { ErrRec.plain 0x40 c with detail := x.rung + 256 * x.tgt }
  refine ⟨hrec.rungs, hrec.length.trans (length_modifyAt ..), fun hc => ?_, fun d hd => ?_, hrec.complete⟩
  · rw [State.faultedBy, hrec.state, ctx_modCtx, if_pos ⟨rfl, hc⟩, hstill]
    rfl
  · rw [State.faultedBy, hrec.state, ctx_modCtx, hstill]
    split
    · rfl
    · exact hd

theorem foldl_faultedBy (x : Rung) (l : List Nat) {s : State} (h : s.hub.rungs = []) :
    (l.foldl (State.faultedBy x) s).hub.rungs = [] ∧
    (∀ c, s.regionsComplete c → (l.foldl (State.faultedBy x) s).regionsComplete c) ∧
    (∀ c, (s.ctx c).state = 4 → ((l.foldl (State.faultedBy x) s).ctx c).state = 4) ∧
    ∀ c ∈ l, c < s.ctxs.length → ((l.foldl (State.faultedBy x) s).ctx c).state = 4 := by
  induction l generalizing s with
  | nil => exact ⟨h, fun _ h => h, fun _ h => h, fun _ h => absurd h List.not_mem_nil⟩
  | cons d l ih =>
    have hone := faultsOne_faultedBy x d h
    obtain ⟨hrungs, hreg, hstate, hall⟩ := ih (hone.rungs.trans h)
    refine ⟨hrungs, fun c hc => hreg c (hone.complete c hc), fun c hc => hstate c (hone.others c hc),
      fun c hc hlt => ?_⟩
    obtain rfl | hc := List.mem_cons.mp hc
    · exact hstate c (hone.state hlt)
    · exact hall c hc (hone.length.symm ▸ hlt)

/-- The contexts of a rung all end by force. -/
theorem foldl_killCtx (l : List Nat) (s : State) : KeepsRungs s (l.foldl State.killCtx s) ∧
    ∀ c ∈ l, (l.foldl State.killCtx s).regionsComplete c := by
  induction l generalizing s with
  | nil => exact ⟨.refl s, fun _ h => absurd h List.not_mem_nil⟩
  | cons d l ih =>
    obtain ⟨hkeep, hdone⟩ := killCtx_rungs s d
    obtain ⟨hrest, hall⟩ := ih (s.killCtx d)
    refine ⟨hkeep.trans hrest, fun c hc => ?_⟩
    obtain rfl | hc := List.mem_cons.mp hc
    · exact hrest.complete c hdone
    · exact hall c hc

theorem mem_dedupNat_of_mem {l : List Nat} {x : Nat} (h : x ∈ l) : x ∈ dedupNat l := by
  induction l using List.reverseRecOn with
  | nil => exact absurd h List.not_mem_nil
  | append_singleton l y ih =>
    have hlast : dedupNat (l ++ [y]) = if (dedupNat l).contains y then dedupNat l else dedupNat l ++ [y] := by
      rw [dedupNat, List.foldl_append]
      rfl
    rw [hlast]
    rw [List.mem_append, List.mem_singleton] at h
    split
    · next hy =>
      rcases h with h | rfl
      · exact ih h
      · exact List.contains_iff_mem.mp hy
    · rcases h with h | rfl
      · exact List.mem_append_left _ (ih h)
      · exact List.mem_append_right _ List.mem_cons_self

/-- The contexts of a context rung that have come under it since its start, told as they come (03 R101). -/
def State.lateTold (s : State) (x : Rung) : State :=
  ((s.rungCtxsNow x).filter fun c => !x.ctxs.contains c && s.ctxFunc c != 0).foldl
    (fun s c => s.raise (s.ctxFunc c) 2) s

/-- The state after the contexts of a context rung have ended by force. -/
def State.rungKilled (s : State) (x : Rung) : State :=
  ((s.lateTold x).rungCtxsNow x).foldl State.killCtx (s.lateTold x)

/-- The end of a context rung that no command waits for. -/
theorem rungEnd_context {s : State} {k : Nat} {x : Rung} (hr : x.rung = 2) (ha : x.asked = none) : s.rungEnd k x =
    ((s.rungCtxsNow x).foldl (State.faultedBy x)
      ((s.rungKilled x).withHub fun h => { h with rungs := h.rungs.eraseIdx k })).recarvesEnd := by
  obtain ⟨rung, tgt, start, ctxs, asked, climbed⟩ := x
  obtain rfl : rung = 2 := hr
  obtain rfl : asked = none := ha
  rfl

theorem mem_rungCtxsNow {s : State} {x : Rung} {c : Nat} (h : c ∈ x.ctxs) : c ∈ s.rungCtxsNow x :=
  mem_dedupNat_of_mem (List.mem_append_left _ h)

theorem keepsRungs_lateTold (s : State) (x : Rung) : KeepsRungs s (s.lateTold x) :=
  .foldl (fun s c => keepsRungs_raise s (s.ctxFunc c) 2) _ s

/-- The only rung, one of contexts that no command waits for, ends: its contexts read faulted, and their regions are
complete. -/
theorem rungEnd_context_only {s : State} {x : Rung} {c : Nat} (hs : s.hub.rungs = [x]) (hr : x.rung = 2)
    (ha : x.asked = none) (hc : c ∈ x.ctxs) (hlt : c < s.ctxs.length) :
    (s.rungEnd 0 x).hub.rungs = [] ∧ ((s.rungEnd 0 x).ctx c).state = 4 ∧ (s.rungEnd 0 x).regionsComplete c := by
  have hlate := keepsRungs_lateTold s x
  obtain ⟨hkill, hdone⟩ := foldl_killCtx ((s.lateTold x).rungCtxsNow x) (s.lateTold x)
  have hcomplete := hdone c (mem_rungCtxsNow hc)
  have hrungs := (hkill.rungs.trans hlate.rungs).trans hs
  have hlength := hkill.length.trans hlate.length
  rw [rungEnd_context hr ha, State.rungKilled]
  generalize ((s.lateTold x).rungCtxsNow x).foldl State.killCtx (s.lateTold x) = u at *
  have hnone : (u.withHub fun h => { h with rungs := h.rungs.eraseIdx 0 }).hub.rungs = [] := by
    rw [withHub_hub, hrungs]
    rfl
  obtain ⟨hfrungs, hfreg, -, hfstate⟩ := foldl_faultedBy x (s.rungCtxsNow x) hnone
  have hend := keepsRungs_recarvesEnd ((s.rungCtxsNow x).foldl (State.faultedBy x)
    (u.withHub fun h => { h with rungs := h.rungs.eraseIdx 0 }))
  exact ⟨hend.rungs.trans hfrungs, (hend.state c).trans (hfstate c (mem_rungCtxsNow hc) (hlength.symm ▸ hlt)),
    hend.complete c (hfreg c hcomplete)⟩

theorem rungComplete_happens (x : Rung) (c : Nat) : Happens (.rungComplete 0)
    (fun s => s.hub.rungs = [x] ∧ x.rung = 2 ∧ x.ctxs = [c] ∧ x.asked = none ∧ c < s.ctxs.length ∧ s.rungOver x = false)
    fun _ t => t.hub.rungs = [] ∧ (t.ctx c).state = 4 ∧ ∀ r ∈ t.regions, r.ctx = c → r.complete = true := by
  refine .of_next (fun s => rfl) fun s _ ⟨hs, hr, hctxs, ha, hlt, hover⟩ => ?_
  have hget : s.hub.rungs[0]? = some x := by rw [hs]; rfl
  have hwaits : s.rungWaits x = false := by simp [State.rungWaits, hr]
  simp only [hget, hwaits, hover, Bool.or_self, Bool.false_eq_true, if_false]
  exact rungEnd_context_only hs hr ha (by rw [hctxs]; exact List.mem_cons_self) hlt

/-! ### Class registers (03 R98; 09 R265) -/

/-- Another class owns one of the ways. -/
theorem any_other_owner {l : List Nat} {cls w : Nat} (hl : l.length = 4) :
    l.zipIdx.any (fun x => x.2 != cls && x.1 &&& w != 0) = true ↔ ∃ k, k < 4 ∧ k ≠ cls ∧ l.getD k 0 &&& w ≠ 0 := by
  rw [List.any_eq_true]
  constructor
  · rintro ⟨⟨a, k⟩, hmem, h⟩
    obtain ⟨hk, rfl⟩ := List.getElem?_eq_some_iff.mp (List.mk_mem_zipIdx_iff_getElem?.mp hmem)
    exact ⟨k, hl ▸ hk, by simpa [hk] using h⟩
  · rintro ⟨k, hk, hne, h⟩
    have hk' : k < l.length := hl.symm ▸ hk
    refine ⟨(l[k], k), List.mk_mem_zipIdx_iff_getElem?.mpr (List.getElem?_eq_getElem hk'), ?_⟩
    simpa [hk', hne] using h

theorem classWaysWrite_happens (cls v : Nat) : Happens (.classWaysWrite cls v 0)
    (fun s => cls < 4 ∧ s.hub.dstate ≠ 2 ∧ s.hub.classWays.length = 4) fun s t =>
    let w := s.hub.waysOf (v % 2 ^ 16)
    ((∀ k, k < 4 → k ≠ cls → s.hub.classWays.getD k 0 &&& w = 0) →
      t = { s with hub := { s.hub with classWays := s.hub.classWays.set cls w } }) ∧
    ((∃ k, k < 4 ∧ k ≠ cls ∧ s.hub.classWays.getD k 0 &&& w ≠ 0) →
      t = { s with hub := { s.hub with qosRej := true } }) := by
  refine .of_next (fun s => rfl) fun s _ ⟨hcls, hd, hlen⟩ => ?_
  simp only [State.guarded, State.onHub, hd, if_true, if_false, State.withHub, Nat.not_le.mpr hcls]
  have hown := any_other_owner (cls := cls) (w := s.hub.waysOf (v % 2 ^ 16)) hlen
  refine ⟨fun hfree => ?_, fun htaken => ?_⟩
  · rw [if_neg]
    rw [hown]
    rintro ⟨k, hk, hne, h⟩
    exact h (hfree k hk hne)
  · rw [if_pos (hown.mpr htaken)]

theorem classBwWrite_happens (cls v : Nat) : Happens (.classBwWrite cls v 0) (fun s => cls < 4 ∧ s.hub.dstate ≠ 2)
    fun s t =>
    ((s.hub.classBw.set cls (v % 128)).sum ≤ 64 →
      t = { s with hub := { s.hub with classBw := s.hub.classBw.set cls (v % 128) } }) ∧
    (64 < (s.hub.classBw.set cls (v % 128)).sum → t = { s with hub := { s.hub with qosRej := true } }) := by
  refine .of_next (fun s => rfl) fun s _ ⟨hcls, hd⟩ => ?_
  simp only [State.guarded, State.onHub, hd, if_true, if_false, State.withHub, Nat.not_le.mpr hcls,
    ← List.sum_eq_foldl]
  exact ⟨fun h => by rw [if_neg (Nat.not_lt.mpr h)], fun h => by rw [if_pos h]⟩

/-- Settles O48, one rule for each step: COMMIT, GROW, SHRINK, CANCEL, RESET and INV_CTX, the end of a rung by its
timeout and by its completion, and the two class registers. -/
theorem partitionsAndResetLadder : Obligations.PartitionsAndResetLadder :=
  ⟨partCommit_happens, partGrow_happens, partShrink_happens, partCancel_happens, rungReset_happens, invCtx_happens,
    rungTimeout_happens, rungComplete_happens, classWaysWrite_happens, classBwWrite_happens⟩

end Sys2Proof.Machine
end

section
/-! PROOFS. A scan difference and what its record leaves (04 R117; 05 R133, R137): the record is a write at the home copy,
so that a monitor on the device queue matches with it (09 R258). -/
namespace Sys2Proof.Machine
open Sys2Proof

/-! ### A record of the device queue (05 R133) -/

/-- The place of the next record of the device queue. -/
def State.devqPlace (s : State) : Nat :=
  s.hub.devqBase * 4096 + s.hub.devqHead % 2 ^ (if s.hub.devqLog = 0 then 16 else s.hub.devqLog) * 64

/-- The next record has its place in memory without poison, in a queue that is enabled, and no save stands. -/
structure TakesRecord (s : State) : Prop where
  enabled : s.hub.devqEn = true
  noSave : s.hub.save = none
  inMemory : s.devqPlace + 64 ≤ dataEnd
  clean : s.memPoison = []

/-- The bytes of a record as the device queue takes it next. -/
def State.devqBytes (s : State) (r : ErrRec) : List Byte := r.bytes s.hub.devqSeq (s.hv % 2 ^ 32)

theorem devRecord_groups {s : State} (h : TakesRecord s) (r : ErrRec) :
    (s.devRecord r).groups = (s.homeWrite s.devqPlace (s.devqBytes r)).groups := by
  have htakes : (s.hub.devqEn && decide (s.devqPlace + 64 ≤ dataEnd) && (s.memPoison.hit s.devqPlace 64).isNone) = true := by
    rw [h.enabled, h.clean, decide_eq_true h.inMemory]
    rfl
  unfold State.devqPlace at htakes
  unfold State.devRecord
  simp only [h.noSave, htakes, Option.isSome_none, Bool.false_eq_true, if_false, if_true]
  rfl

/-- What the device queue and its next record depend on is as it was, and so are the groups. -/
structure KeepsRecord (s t : State) : Prop where
  groups : t.groups = s.groups
  mem : t.mem = s.mem
  memPoison : t.memPoison = s.memPoison
  hv : t.hv = s.hv
  save : t.hub.save = s.hub.save
  en : t.hub.devqEn = s.hub.devqEn
  base : t.hub.devqBase = s.hub.devqBase
  log : t.hub.devqLog = s.hub.devqLog
  head : t.hub.devqHead = s.hub.devqHead
  seq : t.hub.devqSeq = s.hub.devqSeq

theorem KeepsRecord.trans {s t u : State} (h : KeepsRecord s t) (k : KeepsRecord t u) : KeepsRecord s u :=
  ⟨k.groups.trans h.groups, k.mem.trans h.mem, k.memPoison.trans h.memPoison, k.hv.trans h.hv, k.save.trans h.save,
    k.en.trans h.en, k.base.trans h.base, k.log.trans h.log, k.head.trans h.head, k.seq.trans h.seq⟩

theorem keepsRecord_raise (s : State) (f v : Nat) : KeepsRecord s (s.raise f v) := by
  obtain ⟨_, _, _, _, h⟩ := raise_frame s f v
  rw [h]
  exact ⟨rfl, rfl, rfl, rfl, rfl, rfl, rfl, rfl, rfl, rfl⟩

theorem keepsRecord_assertFault (s : State) : KeepsRecord s s.assertFault := by
  obtain ⟨_, _, _, _, _, h, -⟩ := assertFault_frame s
  rw [h]
  exact ⟨rfl, rfl, rfl, rfl, rfl, rfl, rfl, rfl, rfl, rfl⟩

theorem KeepsRecord.devqPlace {s t : State} (h : KeepsRecord s t) : t.devqPlace = s.devqPlace := by
  rw [State.devqPlace, h.base, h.head, h.log]
  rfl

theorem KeepsRecord.devqBytes {s t : State} (h : KeepsRecord s t) (r : ErrRec) : t.devqBytes r = s.devqBytes r := by
  rw [State.devqBytes, h.seq, h.hv]
  rfl

theorem KeepsRecord.takesRecord {s t : State} (h : KeepsRecord s t) (hs : TakesRecord s) : TakesRecord t :=
  ⟨h.en.trans hs.enabled, h.save.trans hs.noSave, h.devqPlace.symm ▸ hs.inMemory, h.memPoison.trans hs.clean⟩

/-- A write at the home copy shows itself to the monitor of the only group (09 R258). -/
theorem homeWrite_groups_watched {s : State} {g : Group} {m : Monitor} (hs : s.groups = [g]) (hg : g.mons = [m])
    (a : Nat) (b : List Byte) : (s.homeWrite a b).groups = [{ g with mons := [m.afterWrite (s.mem.put a b) a b.length] }] := by
  simp [State.homeWrite, hs, hg]

/-! ### A scan difference (04 R117) -/

/-- The record of a scan difference. -/
def scanRecord (n i : Nat) (tile : Nat × Nat) : ErrRec :=
  { ErrRec.plain 0x42 0xFF with source := 9, unit := n, detail := n + 256 * i + 65536 * tile.1 + 2 ^ 32 * tile.2 }

/-- The state after a scan difference but for its record: the layer on tell-tales, COATFAIL, FAULT_N and the interrupt. -/
def State.scanMarked (s : State) (n i frame : Nat) : State :=
  ((s.modPipe n fun p => p.differs i frame).withHub fun h => { h with coatfail := true }).assertFault.raise 0 9

/-- A tile of a layer of two coats that was read with another signature than it was signed with is a scan difference. -/
theorem exec_scanoutTileCheck_of_ne {s : State} {n i k f : Nat} {tile : Nat × Nat} (hclean : s.memPoison = [])
    (hshows : ((s.hub.pipe n).layers.getD i ⟨.nothing, none, 0, []⟩).shows = .frame f)
    (htile : ((s.hub.pipe n).entry i).tiles[k]? = some tile) (hcoats : ((s.hub.pipe n).entry i).single = false)
    (hne : s.signTile ((s.hub.pipe n).entry i) 1 f tile ≠
      ((s.hub.pipe n).layers.getD i ⟨.nothing, none, 0, []⟩).sigs.getD k 0) :
    exec (.scanoutTileCheck n i k) s = .next ((s.scanMarked n i f).devRecord (scanRecord n i tile)) := by
  have hpoison (rows : List (Nat × Nat)) : s.rowPoison rows = none := by rw [State.rowPoison, hclean]; rfl
  show execScanoutTileCheck n i k s = _
  unfold execScanoutTileCheck
  simp only [hshows, htile, hpoison, hcoats, bne_iff_ne.mpr hne]
  rfl

/-- What precedes the record changes the pipe, COATFAIL and what FAULT_N and an interrupt change. -/
theorem keepsRecord_scanMarked (s : State) (n i frame : Nat) : KeepsRecord s (s.scanMarked n i frame) :=
  .trans (t := (s.modPipe n fun p => p.differs i frame).withHub fun h => { h with coatfail := true })
    ⟨rfl, rfl, rfl, rfl, rfl, rfl, rfl, rfl, rfl, rfl⟩
    ((keepsRecord_assertFault _).trans (keepsRecord_raise _ 0 9))

/-! ### A group that watches the device queue -/

/-- A monitor on the first word of memory, which waits for it to be other than 0. -/
def seqMonitor : Monitor := ⟨0, false, 1, 0, false, false⟩

/-- The group of the fetch state with that monitor armed. -/
def watcher : Group := { fetchGroup false with mons := [seqMonitor] }

/-- An enabled entry of a layer of two coats on panes 0 and 1, of one pixel, with its buffers at 0. -/
def pixelEntry : List Byte :=
  leBytes 4 (1 + 64) ++ [0#8, 0#8, 1#8, 0#8] ++ leBytes 4 0 ++ leBytes 2 1 ++ leBytes 2 1 ++ leBytes 4 256 ++
    List.replicate 108 0#8

/-- A pipe that shows frame 1 of that layer, for whose one tile the signature 0 was compared. -/
def pixelPipe : Pipe :=
  { Pipe.reset with
    en := true, table := Pipe.reset.table.set 0 pixelEntry
    layers := Pipe.reset.layers.set 0 ⟨.frame 1, some 1, 0, [0]⟩ }

/-- The device queue stands enabled at address 0, pipe 0 is shown, and one group watches the queue's first record. -/
def watchedState : State :=
  { State.reset.withFetchWord 32 0 with
    groups := [watcher], hub := { State.reset.hub with devqEn := true, pipes := State.reset.hub.pipes.set 0 pixelPipe } }

/-- Memory stands behind the first record's place, whichever channels are fitted. -/
theorem recordSize_le_dataEnd : 64 ≤ dataEnd := by
  unfold dataEnd Config.dramGroups Config.channelBytes
  split_ifs <;> norm_num

theorem watchedState_takesRecord : TakesRecord watchedState := ⟨rfl, rfl, recordSize_le_dataEnd, rfl⟩

theorem watchedState_canonical : watchedState.canonical = true := by decide +kernel

/-- The state meets the clause's hypotheses: memory is clean, and layer 0 of pipe 0, of two coats and one tile, shows frame 1. -/
theorem watchedState_shows : 0 < watchedState.hub.pipes.length ∧ watchedState.memPoison = [] ∧
    ((watchedState.hub.pipe 0).entry 0).single = false ∧
    ((watchedState.hub.pipe 0).layers.map (·.shows))[0]? = some (.frame 1) ∧
    ((watchedState.hub.pipe 0).entry 0).tiles[0]? = some (0, 0) := by decide +kernel

/-- The four zero bytes of the pixel have another signature than the one compared. -/
theorem watchedState_signTile_ne : watchedState.signTile ((watchedState.hub.pipe 0).entry 0) 1 1 (0, 0) ≠
    ((watchedState.hub.pipe 0).layers.getD 0 ⟨.nothing, none, 0, []⟩).sigs.getD 0 0 := by decide +kernel

theorem exec_watchedState : exec (.scanoutTileCheck 0 0 0) watchedState =
    .next ((watchedState.scanMarked 0 0 1).devRecord (scanRecord 0 0 (0, 0))) := by
  obtain ⟨-, hclean, hcoats, -, htile⟩ := watchedState_shows
  exact exec_scanoutTileCheck_of_ne hclean rfl htile hcoats watchedState_signTile_ne

/-- The record's SEQ is not 0, so that its write makes the monitor match. -/
theorem seqMonitor_afterWrite_record : (seqMonitor.afterWrite
    (watchedState.mem.put 0 (watchedState.devqBytes (scanRecord 0 0 (0, 0)))) 0
    (watchedState.devqBytes (scanRecord 0 0 (0, 0))).length).matched = true := by decide +kernel

/-- The scan difference of that state leaves other groups than it found: the monitor has matched. -/
theorem watchedState_groups_ne :
    ((watchedState.scanMarked 0 0 1).devRecord (scanRecord 0 0 (0, 0))).groups ≠ watchedState.groups := by
  have hkeep := keepsRecord_scanMarked watchedState 0 0 1
  rw [devRecord_groups (hkeep.takesRecord watchedState_takesRecord),
    homeWrite_groups_watched (hkeep.groups.trans (rfl : watchedState.groups = [watcher])) rfl, hkeep.mem, hkeep.devqPlace,
    hkeep.devqBytes]
  intro hsame
  have hmons := congrArg (fun l => l.map fun g : Group => g.mons.map (·.matched)) hsame
  have hmatched : [[true]] = [[false]] := (congrArg (fun b => [[b]]) seqMonitor_afterWrite_record).symm.trans hmons
  exact absurd hmatched (by decide)

/-- Refutes O49 by its clause on SCANOUT_TILE_CHECK, which says that a scan difference leaves the groups as they are: it writes
its record (05 R137, kind 0x42) to the device queue (R133), a write at the home copy, and a group's monitor on the record's place matches with it
(09 R258). In `watchedState` a group waits for the record's SEQ to be other than 0. -/
theorem not_displayAndCameras : ¬ Obligations.DisplayAndCameras := by
  unfold Obligations.DisplayAndCameras
  rintro ⟨-, -, -, -, -, -, scanned, -⟩
  obtain ⟨t, ht, -, differs⟩ := scanned 0 0 0 1 (0, 0) watchedState watchedState_canonical watchedState_shows
  obtain ⟨-, -, -, -, -, hgroups⟩ := differs watchedState_signTile_ne
  obtain rfl := Host.Outcome.next.inj (exec_watchedState.symm.trans ht)
  exact watchedState_groups_ne hgroups

end Sys2Proof.Machine
end

section
/-! PROOFS. A record of the device queue (05 R133, R136): what it writes where the queue takes it, that it is counted
where the queue is not enabled, and what no record and no interrupt changes. -/
namespace Sys2Proof.Machine
open Sys2Proof

/-! ### What neither a record nor an interrupt changes -/

/-- The hub but for what records and interrupts change: the queue's HEAD, SEQ and LOST, what was raised and sent, the
functions' pending bits and WIN_VIOL. -/
def Hub.withoutNews (h : Hub) : Hub :=
  { h with devqHead := 0, devqSeq := 0, devqLost := 0, raised := [], fns := [], sent := [], winViol := 0 }

@[simp] theorem raise_withoutNews (s : State) (f v : Nat) : (s.raise f v).hub.withoutNews = s.hub.withoutNews := by
  obtain ⟨_, _, _, _, h⟩ := raise_frame s f v
  rw [h]
  rfl

/-- The state after a record that the device queue takes, before its interrupt. -/
def State.queued (s : State) (r : ErrRec) : State :=
  let n := 2 ^ (if s.hub.devqLog = 0 then 16 else s.hub.devqLog)
  (s.homeWrite s.devqPlace (s.devqBytes r)).withHub fun h =>
    { h with devqHead := (s.hub.devqHead + 1) % n, devqSeq := nextSeq s.hub.devqSeq }

theorem queued_mem (s : State) (r : ErrRec) : (s.queued r).mem = s.mem.put s.devqPlace (s.devqBytes r) := by
  rw [State.queued, withHub_mem, homeWrite_mem]

theorem queued_hub (s : State) (r : ErrRec) : (s.queued r).hub =
    { s.hub with
      devqHead := (s.hub.devqHead + 1) % 2 ^ (if s.hub.devqLog = 0 then 16 else s.hub.devqLog)
      devqSeq := nextSeq s.hub.devqSeq } := rfl

/-- A record is written to the device queue, or counted lost; none is while a save stands (05 R133, R160). -/
theorem devRecord_eq (s : State) (r : ErrRec) : s.devRecord r =
    if s.hub.save.isSome then s
    else if s.hub.devqEn && decide (s.devqPlace + 64 ≤ dataEnd) && (s.memPoison.hit s.devqPlace 64).isNone then
      (s.queued r).raise 0 12
    else s.withHub fun h => { h with devqLost := min 0xFFFF (h.devqLost + 1) } := rfl

@[simp] theorem devRecord_withoutNews (s : State) (r : ErrRec) : (s.devRecord r).hub.withoutNews = s.hub.withoutNews := by
  rw [devRecord_eq]
  split
  · rfl
  · split
    · rw [raise_withoutNews]
      rfl
    · rfl

@[simp] theorem devRecord_cells (s : State) (r : ErrRec) : (s.devRecord r).cells = s.cells := by
  rw [devRecord_eq]
  split
  · rfl
  · split <;> rfl

/-! ### A record written, and one lost -/

/-- The place of the next record in a queue whose LOG is not 0. -/
def State.recordPlace (s : State) : Nat := s.hub.devqBase * 4096 + s.hub.devqHead % 2 ^ s.hub.devqLog * 64

/-- The device queue stands enabled, its next record's place in memory without poison, and no save stands. -/
def State.queueOpen (s : State) : Prop :=
  s.hub.devqEn = true ∧ 6 ≤ s.hub.devqLog ∧ s.hub.devqLog < 16 ∧ s.recordPlace + 64 ≤ dataEnd ∧
    s.memPoison.hit s.recordPlace 64 = none ∧ s.hub.save = none

/-- The record `r` has been written to the open queue, or counted lost by one that is not enabled. -/
def Recorded (s t : State) (r : ErrRec) : Prop :=
  (s.queueOpen → t.mem.bytes s.recordPlace 64 = r.bytes s.hub.devqSeq (s.hv % 2 ^ 32) ∧
    t.hub.devqHead = (s.hub.devqHead + 1) % 2 ^ s.hub.devqLog ∧ t.hub.devqLost = s.hub.devqLost ∧
    t.hub.devqSeq = (if 0xFFFFFFFF ≤ s.hub.devqSeq then 1 else s.hub.devqSeq + 1) ∧
    ∀ a, ¬(s.recordPlace ≤ a ∧ a < s.recordPlace + 64) → t.mem.get a = s.mem.get a) ∧
  (s.hub.devqEn = false → s.hub.save = none → t.mem = s.mem ∧ t.hub.devqLost = min 0xFFFF (s.hub.devqLost + 1))

theorem devqPlace_of_queueOpen {s : State} (h : s.queueOpen) : s.devqPlace = s.recordPlace := by
  obtain ⟨-, hlog, -⟩ := h
  rw [State.devqPlace, if_neg (by omega)]
  rfl

theorem length_devqBytes (s : State) (r : ErrRec) : (s.devqBytes r).length = 64 := by
  simp [State.devqBytes, ErrRec.bytes, length_leBytes]

/-- The next record and its fate depend on nothing that has changed, and no record was written or lost. -/
structure KeepsQueue (s t : State) : Prop extends KeepsRecord s t where
  lost : t.hub.devqLost = s.hub.devqLost

theorem keepsQueue_raise (s : State) (f v : Nat) : KeepsQueue s (s.raise f v) := by
  obtain ⟨_, _, _, _, h⟩ := raise_frame s f v
  exact ⟨keepsRecord_raise s f v, by rw [h]; rfl⟩

theorem KeepsQueue.refl (s : State) : KeepsQueue s s := ⟨⟨rfl, rfl, rfl, rfl, rfl, rfl, rfl, rfl, rfl, rfl⟩, rfl⟩

/-- The registers of the hub that a record's fate depends on. -/
def Hub.queueRegs (h : Hub) : Option Save × Bool × Nat × Nat × Nat × Nat × Nat :=
  (h.save, h.devqEn, h.devqBase, h.devqLog, h.devqHead, h.devqSeq, h.devqLost)

theorem keepsQueue_withHub {s : State} {f : Hub → Hub} (h : (f s.hub).queueRegs = s.hub.queueRegs) :
    KeepsQueue s (s.withHub f) := by
  simp only [Hub.queueRegs, Prod.mk.injEq] at h
  obtain ⟨hsave, hen, hbase, hlog, hhead, hseq, hlost⟩ := h
  exact ⟨⟨rfl, rfl, rfl, rfl, hsave, hen, hbase, hlog, hhead, hseq⟩, hlost⟩

theorem KeepsQueue.trans {s t u : State} (h : KeepsQueue s t) (k : KeepsQueue t u) : KeepsQueue s u :=
  ⟨h.toKeepsRecord.trans k.toKeepsRecord, k.lost.trans h.lost⟩

/-- A queue that is open takes the record. -/
theorem devRecord_of_queueOpen {s : State} (h : s.queueOpen) (r : ErrRec) :
    s.devRecord r = (s.queued r).raise 0 12 := by
  have hplace := devqPlace_of_queueOpen h
  obtain ⟨hen, -, -, hmem, hclean, hsave⟩ := h
  rw [devRecord_eq, hplace, hsave, hen, hclean, decide_eq_true hmem]
  rfl

/-- A queue that is not enabled counts the record lost. -/
theorem devRecord_of_not_enabled {s : State} (hen : s.hub.devqEn = false) (hsave : s.hub.save = none) (r : ErrRec) :
    s.devRecord r = s.withHub fun h => { h with devqLost := min 0xFFFF (h.devqLost + 1) } := by
  rw [devRecord_eq, hsave, hen]
  rfl

theorem recorded_devRecord {s : State} (hwf : s.mem.wf = true) (r : ErrRec) : Recorded s (s.devRecord r) r := by
  refine ⟨fun hopen => ?_, fun hen hsave => ?_⟩
  · have hplace := devqPlace_of_queueOpen hopen
    have hlen := length_devqBytes s r
    rw [devRecord_of_queueOpen hopen]
    obtain ⟨-, hlog, -⟩ := hopen
    have hkeep := keepsQueue_raise (s.queued r) 0 12
    rw [hkeep.mem, hkeep.head, hkeep.lost, hkeep.seq, queued_mem, queued_hub, if_neg (by omega), hplace]
    refine ⟨?_, rfl, rfl, nextSeq.eq_1 _, fun a ha => ?_⟩
    · have hread := Mem.bytes_put_same hwf s.recordPlace (s.devqBytes r)
      rwa [hlen] at hread
    · rw [Mem.get_put hwf, hlen, if_neg ha]
  · rw [devRecord_of_not_enabled hen hsave]
    exact ⟨rfl, rfl⟩

/-- A step that writes one record: what comes before and after it leaves the queue as it is. -/
theorem Recorded.of_keeps {s u v t : State} {r : ErrRec} (hsu : KeepsQueue s u) (h : Recorded u v r)
    (hvt : KeepsQueue v t) : Recorded s t r := by
  have hplace : u.recordPlace = s.recordPlace := by rw [State.recordPlace, hsu.base, hsu.head, hsu.log]; rfl
  have hopen : s.queueOpen ↔ u.queueOpen := by
    rw [State.queueOpen, State.queueOpen, hplace, hsu.en, hsu.log, hsu.memPoison, hsu.save]
  unfold Recorded at *
  rw [hopen, hvt.mem, hvt.head, hvt.lost, hvt.seq]
  rwa [hplace, hsu.seq, hsu.hv, hsu.head, hsu.log, hsu.lost, hsu.mem, hsu.en, hsu.save] at h

theorem canonical_mem {s : State} (h : s.canonical = true) : s.mem.wf = true := by
  simp only [State.canonical, Bool.and_eq_true] at h
  obtain ⟨⟨⟨⟨⟨⟨hmem, -⟩, -⟩, -⟩, -⟩, -⟩, -⟩ := h
  exact hmem

/-- The record is the last thing that the step does. -/
theorem recorded_after {s u : State} (hwf : s.mem.wf = true) (hsu : KeepsQueue s u) (r : ErrRec) :
    Recorded s (u.devRecord r) r :=
  .of_keeps hsu (recorded_devRecord (hsu.mem ▸ hwf) r) (.refl _)

end Sys2Proof.Machine
end

section
/-! PROOFS. DEVQ_ENABLE and the start of the spare commands (05 R131, R148 to R150). First what a command written does
while another is in progress, before READY, and where it is taken; then each command's checks. -/
namespace Sys2Proof.Machine
open Sys2Proof

/-! ### DEVQ_ENABLE (05 R131) -/

/-- Outside D-HOLD the host's write reaches its unit. -/
theorem guarded_onHub {s : State} (hd : s.hub.dstate ≠ 2) (f : State → State) :
    s.guarded 0 (fun s => s.onHub f) = f s := by
  rw [State.guarded, if_pos rfl, State.onHub, if_neg hd]

theorem devqEnable_happens (v : Nat) : Happens (.devqEnable v 0) (fun s => s.hub.dstate ≠ 2) fun s t =>
    (bits v 19 16 = 0 ∨ 6 ≤ bits v 19 16 → t.hub.devqEn = true ∧ t.hub.devqLog = bits v 19 16 ∧
      (s.hub.devqEn = false → t.hub.devqHead = 0 ∧ t.hub.devqSeq = 1) ∧
      (s.hub.devqEn = true → t.hub.devqHead = s.hub.devqHead ∧ t.hub.devqSeq = s.hub.devqSeq)) ∧
    (1 ≤ bits v 19 16 → bits v 19 16 ≤ 5 → t.hub.devqEn = false) ∧ t.mem = s.mem ∧ t.groups = s.groups := by
  refine .of_next (fun s => rfl) fun s _ hd => ?_
  rw [guarded_onHub hd]
  have hlog : bits (putBits v 31 31 1) 19 16 = bits v 19 16 := bits_putBits_below v 1 (by decide) (by decide)
  have hen : bit (putBits v 31 31 1) 31 = true := by rw [bit_putBits _ _ _ (by decide), if_pos (by decide)]; rfl
  simp only [withHub_hub, withHub_mem, withHub_groups, Hub.devqWrite, hlog, hen, Bool.true_and, and_self, and_true]
  refine ⟨fun hlegal => ?_, fun h1 h5 => by simp [h1, h5]⟩
  have hok : decide (1 ≤ bits v 19 16 ∧ bits v 19 16 ≤ 5) = false := by
    rw [decide_eq_false_iff_not]
    omega
  rw [hok]
  exact ⟨rfl, trivial, fun h => by simp [h], fun h => by simp [h]⟩

/-! ### SPARE_CMD (05 R148) -/

/-- The state with another command register of spares. -/
def State.withSpare (s : State) (p : CmdReg) : State := s.withHub fun h => { h with spare := p }

/-- A command ends with a result, and vector 13 is raised. -/
theorem spareEnd_withoutNews (s : State) (r : Nat) :
    (s.spareEnd r).hub.withoutNews = (s.withSpare (s.hub.spare.finish r)).hub.withoutNews :=
  raise_withoutNews _ 0 13

theorem spareEnd_spare (s : State) (r : Nat) : (s.spareEnd r).hub.spare = s.hub.spare.finish r :=
  congrArg Hub.spare (spareEnd_withoutNews s r)

/-- No command is in progress, and the last one's result is `r`. -/
def State.spareEnded (t : State) (r : Nat) : Prop := t.hub.spare.cmd = none ∧ t.hub.spare.result = r

theorem spareEnd_ends (s : State) (r : Nat) : (s.spareEnd r).spareEnded r := by
  rw [State.spareEnded, spareEnd_spare]
  exact ⟨rfl, rfl⟩

theorem spareEnd_migrating (s : State) (r : Nat) : (s.spareEnd r).hub.migrating = s.hub.migrating :=
  (congrArg Hub.migrating (spareEnd_withoutNews s r) :)

theorem spareEnd_cells (s : State) (r : Nat) : (s.spareEnd r).cells = s.cells := rfl

theorem keepsQueue_spareEnd (s : State) (r : Nat) : KeepsQueue s (s.spareEnd r) :=
  .trans (t := s.withSpare (s.hub.spare.finish r)) (keepsQueue_withHub rfl) (keepsQueue_raise _ 0 13)

/-- A spare command has begun. -/
def State.spareBegun (s : State) (v : Nat) : State := s.withSpare { s.hub.spare with cmd := some v, tag := bits v 3 0 }

/-- A command may be taken: none is in progress, the device is ready and not in D-HOLD. -/
def State.spareIdle (s : State) : Prop := s.hub.spare.cmd = none ∧ s.hub.boot = 4 ∧ s.hub.dstate ≠ 2

/-- Outside D-HOLD a command written goes to the register, and is taken where no other is in progress. -/
theorem spareWrite_eq {s : State} (hd : s.hub.dstate ≠ 2) (op v : Nat) (run : Nat → State → State) :
    s.spareWrite 0 op v run =
      let w := putBits v 31 28 op
      let t := s.withSpare (s.hub.spare.write w (bits w 3 0))
      if s.hub.spare.cmd.isSome then t else if s.hub.boot ≠ 4 then t.spareEnd 6 else run w t := by
  rw [State.spareWrite, State.guarded, if_pos rfl, if_neg hd]
  rfl

theorem spareWrite_busy {s : State} (hc : s.hub.spare.cmd ≠ none) (hd : s.hub.dstate ≠ 2) (op v : Nat)
    (run : Nat → State → State) :
    s.spareWrite 0 op v run = s.withSpare { s.hub.spare with dropped := true } := by
  have hsome : s.hub.spare.cmd.isSome = true := Option.isSome_iff_ne_none.mpr hc
  rw [spareWrite_eq hd]
  dsimp only
  rw [if_pos hsome, CmdReg.write, if_pos hsome]

/-- A command written while none is in progress: before READY it ends at once, else it runs its checks. -/
theorem spareWrite_of_free {s : State} (hc : s.hub.spare.cmd = none) (hd : s.hub.dstate ≠ 2) (op v : Nat)
    (run : Nat → State → State) : s.spareWrite 0 op v run =
      if s.hub.boot ≠ 4 then (s.spareBegun (putBits v 31 28 op)).spareEnd 6
      else run (putBits v 31 28 op) (s.spareBegun (putBits v 31 28 op)) := by
  have hnone : ¬ s.hub.spare.cmd.isSome = true := by simp [hc]
  rw [spareWrite_eq hd]
  dsimp only
  rw [if_neg hnone, CmdReg.write, if_neg hnone]
  rfl

/-- The steps that write SPARE_CMD. -/
theorem exec_spareCommand {v : Nat} {e : Instr}
    (he : e ∈ [Instr.spareLane v 0, .spareCell v 0, .spareChannel v 0, .spareWay v 0, .unfence v 0]) :
    ∃ op run, ∀ s, exec e s = .next (s.spareWrite 0 op v run) := by
  simp only [List.mem_cons, List.not_mem_nil, or_false] at he
  obtain rfl | rfl | rfl | rfl | rfl := he
  · exact ⟨0, _, fun _ => rfl⟩
  · exact ⟨1, _, fun _ => rfl⟩
  · exact ⟨2, _, fun _ => rfl⟩
  · exact ⟨3, _, fun _ => rfl⟩
  · exact ⟨4, _, fun _ => rfl⟩

theorem spareCommand_refused (v : Nat) (e : Instr)
    (he : e ∈ [Instr.spareLane v 0, .spareCell v 0, .spareChannel v 0, .spareWay v 0, .unfence v 0]) :
    Happens e (fun s => s.hub.spare.cmd ≠ none ∧ s.hub.dstate ≠ 2) (fun s t =>
      t = { s with hub := { s.hub with spare := { s.hub.spare with dropped := true } } }) ∧
    Happens e (fun s => s.hub.spare.cmd = none ∧ s.hub.boot ≠ 4 ∧ s.hub.dstate ≠ 2) fun s t =>
      t.spareEnded 6 ∧ t.cells = s.cells := by
  obtain ⟨op, run, hexec⟩ := exec_spareCommand he
  refine ⟨.of_next hexec fun s _ ⟨hc, hd⟩ => spareWrite_busy hc hd op v run,
    .of_next hexec fun s _ ⟨hc, hb, hd⟩ => ?_⟩
  rw [spareWrite_of_free hc hd, if_pos hb]
  exact ⟨spareEnd_ends _ 6, spareEnd_cells _ 6⟩

/-- A command that is taken runs its checks in the state in which it has begun. -/
theorem spareCommand_happens {e : Instr} {op v : Nat} {run : Nat → State → State} {when_ : State → Prop}
    {post : State → State → Prop} (he : ∀ s, exec e s = .next (s.spareWrite 0 op v run))
    (hidle : ∀ s, when_ s → s.spareIdle)
    (hp : ∀ s t, when_ s → t = run (putBits v 31 28 op) (s.spareBegun (putBits v 31 28 op)) → post s t) :
    Happens e when_ post := by
  intro s _ hw
  obtain ⟨hc, hb, hd⟩ := hidle s hw
  have hrun := spareWrite_of_free hc hd op v run
  rw [if_neg (not_not.mpr hb)] at hrun
  exact ⟨_, he s, hp s _ hw hrun⟩

/-! ### LANE, CELL, WAY and UNFENCE (05 R148, R149, R154) -/

@[simp] theorem spareTarget_putBits (v op : Nat) : spareTarget (putBits v 31 28 op) = spareTarget v :=
  bits_putBits_below v op (by decide) (by decide)

@[simp] theorem spareSub_putBits (v op : Nat) : spareSub (putBits v 31 28 op) = spareSub v :=
  bits_putBits_below v op (by decide) (by decide)

@[simp] theorem paneBusy_spareBegun (s : State) (v phys : Nat) : (s.spareBegun v).paneBusy phys = s.paneBusy phys := rfl

theorem spareLane_happens (v : Nat) : Happens (.spareLane v 0) State.spareIdle fun s t =>
    (36 ≤ spareTarget v → t.spareEnded 3) ∧
    (spareTarget v < 36 → s.hub.logical (spareTarget v) = none → t.spareEnded 4) ∧
    (spareTarget v < 36 → s.hub.logical (spareTarget v) ≠ none → (spareTarget v, spareSub v) ∈ s.hub.laneSpares →
      t.spareEnded 1) ∧
    (spareTarget v < 36 → s.hub.logical (spareTarget v) ≠ none → (spareTarget v, spareSub v) ∉ s.hub.laneSpares →
      t = s.spareBegun (putBits v 31 28 0)) := by
  refine spareCommand_happens (fun s => rfl) (fun _ => id) fun s t _ ht => ?_
  have hlog : (s.spareBegun (putBits v 31 28 0)).hub.logical = s.hub.logical := rfl
  have hused : (s.spareBegun (putBits v 31 28 0)).hub.laneSpares = s.hub.laneSpares := rfl
  simp only [spareTarget_putBits, spareSub_putBits, hlog, hused, Option.isNone_iff_eq_none, List.contains_iff_mem] at ht
  subst ht
  refine ⟨fun h => ?_, fun hlt h => ?_, fun hlt hs h => ?_, fun hlt hs h => ?_⟩
  · rw [if_pos h]
    exact spareEnd_ends _ 3
  · rw [if_neg (Nat.not_le.mpr hlt), if_pos h]
    exact spareEnd_ends _ 4
  · rw [if_neg (Nat.not_le.mpr hlt), if_neg hs, if_pos h]
    exact spareEnd_ends _ 1
  · rw [if_neg (Nat.not_le.mpr hlt), if_neg hs, if_neg h]

theorem spareCell_happens (v : Nat) : Happens (.spareCell v 0) State.spareIdle fun s t =>
    (36 ≤ spareTarget v → t.spareEnded 3) ∧
    (spareTarget v < 36 → s.hub.logical (spareTarget v) = none → t.spareEnded 4) ∧
    (spareTarget v < 36 → s.hub.logical (spareTarget v) ≠ none → s.paneBusy (spareTarget v) = true →
      t.spareEnded 2) ∧
    (spareTarget v < 36 → s.hub.logical (spareTarget v) ≠ none → s.paneBusy (spareTarget v) = false →
      t = s.spareBegun (putBits v 31 28 1)) := by
  refine spareCommand_happens (fun s => rfl) (fun _ => id) fun s t _ ht => ?_
  have hlog : (s.spareBegun (putBits v 31 28 1)).hub.logical = s.hub.logical := rfl
  simp only [spareTarget_putBits, hlog, Option.isNone_iff_eq_none, paneBusy_spareBegun] at ht
  subst ht
  refine ⟨fun h => ?_, fun hlt h => ?_, fun hlt hs h => ?_, fun hlt hs h => ?_⟩
  · rw [if_pos h]
    exact spareEnd_ends _ 3
  · rw [if_neg (Nat.not_le.mpr hlt), if_pos h]
    exact spareEnd_ends _ 4
  · rw [if_neg (Nat.not_le.mpr hlt), if_neg hs, if_pos h]
    exact spareEnd_ends _ 2
  · rw [if_neg (Nat.not_le.mpr hlt), if_neg hs, if_neg (ne_true_of_eq_false h)]

theorem spareWay_happens (v : Nat) : Happens (.spareWay v 0) State.spareIdle fun s t =>
    (18 ≤ spareTarget v → t.spareEnded 3) ∧
    (spareTarget v < 18 → some (spareTarget v) ∉ s.hub.wayMap → t.spareEnded 4) ∧
    (spareTarget v < 18 → some (spareTarget v) ∈ s.hub.wayMap → t = s.spareBegun (putBits v 31 28 3)) := by
  refine spareCommand_happens (fun s => rfl) (fun _ => id) fun s t _ ht => ?_
  have hmap : (s.spareBegun (putBits v 31 28 3)).hub.wayMap = s.hub.wayMap := rfl
  simp only [spareTarget_putBits, hmap, Bool.not_eq_true', ← Bool.not_eq_true, List.contains_iff_mem] at ht
  subst ht
  refine ⟨fun h => ?_, fun hlt h => ?_, fun hlt h => ?_⟩
  · rw [if_pos h]
    exact spareEnd_ends _ 3
  · rw [if_neg (Nat.not_le.mpr hlt), if_pos h]
    exact spareEnd_ends _ 4
  · rw [if_neg (Nat.not_le.mpr hlt), if_neg (not_not.mpr h)]

theorem unfence_happens (v : Nat) : Happens (.unfence v 0) State.spareIdle fun s t =>
    (32 ≤ spareTarget v → t.spareEnded 3) ∧
    (spareTarget v < 32 → s.hub.inService (spareTarget v) = false → t.spareEnded 4) ∧
    (spareTarget v < 32 → s.hub.inService (spareTarget v) = true → t = s.spareBegun (putBits v 31 28 4)) := by
  refine spareCommand_happens (fun s => rfl) (fun _ => id) fun s t _ ht => ?_
  have hserv : (s.spareBegun (putBits v 31 28 4)).hub.inService = s.hub.inService := rfl
  simp only [spareTarget_putBits, hserv, Bool.not_eq_true'] at ht
  subst ht
  refine ⟨fun h => ?_, fun hlt h => ?_, fun hlt h => ?_⟩
  · rw [if_pos h]
    exact spareEnd_ends _ 3
  · rw [if_neg (Nat.not_le.mpr hlt), if_pos h]
    exact spareEnd_ends _ 4
  · rw [if_neg (Nat.not_le.mpr hlt), if_neg (by simp [h])]

/-! ### CHANNEL and its migration (05 R150) -/

theorem pick_mem (s : State) {l : List Nat} (h : l ≠ []) : (s.pick l).1 ∈ l := by
  unfold State.pick
  split
  · exact absurd rfl h
  · exact List.mem_singleton_self _
  · have hlt : (s.free).1 % l.length < l.length := Nat.mod_lt _ (List.length_pos_iff.mpr h)
    simp only [List.getD_eq_getElem?_getD, List.getElem?_eq_getElem hlt, Option.getD_some]
    exact List.getElem_mem hlt

/-- A choice takes at most free values. -/
theorem pick_frame (s : State) (l : List Nat) : ∃ n, (s.pick l).2 = { s with fresh := n } := by
  unfold State.pick
  split
  · exact ⟨s.fresh, rfl⟩
  · exact ⟨s.fresh, rfl⟩
  · exact ⟨_, rfl⟩

/-- Why a CHANNEL command is refused: its number, the classes' shares, no spare. -/
def Hub.channelRefusals (h : Hub) (c : Nat) : List Nat :=
  (if 26 ≤ c then [3] else if h.chanMap.contains (some c) then [] else [4])
    ++ (if 64 - h.classBw.foldl (· + ·) 0 < 4 then [3] else []) ++ (if h.spareChannels.isEmpty then [1] else [])

/-- CHANNEL, once it is taken. -/
def State.channelCommand (s : State) (c : Nat) : State :=
  if (s.hub.channelRefusals c).isEmpty then
    (s.pick s.hub.spareChannels).2.withHub fun h =>
      { h with migrating := some (c, (s.pick s.hub.spareChannels).1), migrateDone := 0 }
  else (s.pick (dedupNat (s.hub.channelRefusals c))).2.spareEnd (s.pick (dedupNat (s.hub.channelRefusals c))).1

theorem exec_spareChannel (v : Nat) (s : State) : exec (.spareChannel v 0) s =
    .next (s.spareWrite 0 2 v fun v s => s.channelCommand (spareTarget v)) := rfl

/-- Of a channel's number in range, with room between the classes' shares, only service and spares remain. -/
theorem channelRefusals_eq {h : Hub} {c : Nat} (hc : c < 26) (hbw : h.classBw.sum ≤ 60) : h.channelRefusals c =
    (if some c ∈ h.chanMap then [] else [4]) ++ (if h.spareChannels = [] then [1] else []) := by
  unfold Hub.channelRefusals
  simp only [← List.sum_eq_foldl, List.contains_iff_mem, List.isEmpty_iff]
  rw [if_neg (Nat.not_le.mpr hc), if_neg (show ¬ 64 - h.classBw.sum < 4 by omega), List.append_nil]

/-- A CHANNEL command refused for one reason ends with it. -/
theorem channelCommand_refused {s : State} {c r : Nat} (h : s.hub.channelRefusals c = [r]) :
    s.channelCommand c = s.spareEnd r := by
  rw [State.channelCommand, h]
  rfl

theorem spareChannel_happens (v : Nat) : Happens (.spareChannel v 0)
    (fun s => s.spareIdle ∧ spareTarget v < 26 ∧ s.hub.classBw.sum ≤ 60) fun s t =>
    (some (spareTarget v) ∈ s.hub.chanMap → s.hub.spareChannels = [] →
      t.spareEnded 1 ∧ t.hub.migrating = s.hub.migrating) ∧
    (some (spareTarget v) ∉ s.hub.chanMap → s.hub.spareChannels ≠ [] →
      t.spareEnded 4 ∧ t.hub.migrating = s.hub.migrating) ∧
    (some (spareTarget v) ∈ s.hub.chanMap → s.hub.spareChannels ≠ [] →
      t.hub.spare.cmd = some (putBits v 31 28 2) ∧ t.hub.migrateDone = 0 ∧
      ∃ x ∈ s.hub.spareChannels, t.hub.migrating = some (spareTarget v, x)) := by
  refine spareCommand_happens (exec_spareChannel v) (fun _ h => h.1) fun s t ⟨_, hlt, hbw⟩ ht => ?_
  rw [spareTarget_putBits] at ht
  subst ht
  have hwhy : (s.spareBegun (putBits v 31 28 2)).hub.channelRefusals (spareTarget v) =
    (if some (spareTarget v) ∈ s.hub.chanMap then [] else [4]) ++ (if s.hub.spareChannels = [] then [1] else []) :=
      channelRefusals_eq hlt hbw
  refine ⟨fun hin hno => ?_, fun hout hsp => ?_, fun hin hsp => ?_⟩
  · rw [if_pos hin, if_pos hno] at hwhy
    rw [channelCommand_refused hwhy]
    exact ⟨spareEnd_ends _ 1, spareEnd_migrating _ 1⟩
  · rw [if_neg hout, if_neg hsp] at hwhy
    rw [channelCommand_refused hwhy]
    exact ⟨spareEnd_ends _ 4, spareEnd_migrating _ 4⟩
  · rw [if_pos hin, if_neg hsp] at hwhy
    obtain ⟨n, hn⟩ := pick_frame (s.spareBegun (putBits v 31 28 2)) s.hub.spareChannels
    have hspares : (s.spareBegun (putBits v 31 28 2)).hub.spareChannels = s.hub.spareChannels := rfl
    rw [State.channelCommand, hwhy, hspares, hn]
    exact ⟨rfl, rfl, _, pick_mem _ hsp, rfl⟩

/-- A spare-event record. -/
def spareEvent (kind old new sub lane : Nat) : ErrRec :=
  { ErrRec.plain 0x44 0xFF with detail := kind + 256 * old + 2 ^ 16 * new + 2 ^ 24 * sub + 2 ^ 32 * lane }

@[simp] theorem spareRecord_withoutNews (s : State) (kind old new sub lane : Nat) :
    (s.spareRecord kind old new sub lane).hub.withoutNews = s.hub.withoutNews := devRecord_withoutNews s _

/-- The logical channels of `old` have gone to `new`. -/
def State.migrated (s : State) (old new : Nat) : State := s.withHub fun h =>
  { h with chanMap := h.chanMap.map fun x => if x = some old then some new else x
           chansGone := old :: h.chansGone, migrating := none
           migrateDone := Config.dramGroups * 512 / 65536 }

theorem exec_channelMigrationComplete {s : State} {old new : Nat} (h : s.hub.migrating = some (old, new)) :
    exec .channelMigrationComplete s = .next ((s.migrated old new).spareRecord 2 old new 0 0) := by
  show execChannelMigrationComplete s = _
  rw [execChannelMigrationComplete, h]
  rfl

theorem channelMigrationComplete_happens (old new : Nat) : Happens .channelMigrationComplete
    (fun s => s.hub.migrating = some (old, new)) fun s t =>
    t.hub.migrating = none ∧ old ∈ t.hub.chansGone ∧ t.hub.chanMap.length = s.hub.chanMap.length ∧
    (∀ k : Nat, t.hub.chanMap[k]? =
      if s.hub.chanMap[k]? = some (some old) then some (some new) else s.hub.chanMap[k]?) ∧
    Recorded s t (spareEvent 2 old new 0 0) := by
  intro s hcan hm
  have hnews := spareRecord_withoutNews (s.migrated old new) 2 old new 0 0
  have hmap : ((s.migrated old new).spareRecord 2 old new 0 0).hub.chanMap =
      s.hub.chanMap.map fun x => if x = some old then some new else x := (congrArg Hub.chanMap hnews :)
  have hgone : ((s.migrated old new).spareRecord 2 old new 0 0).hub.chansGone = old :: s.hub.chansGone :=
    (congrArg Hub.chansGone hnews :)
  refine ⟨_, exec_channelMigrationComplete hm, (congrArg Hub.migrating hnews :), ?_, ?_, fun k => ?_, ?_⟩
  · rw [hgone]
    exact List.mem_cons_self
  · rw [hmap, List.length_map]
  · rw [hmap, List.getElem?_map]
    cases s.hub.chanMap[k]? with
    | none => rfl
    | some x => by_cases hx : x = some old <;> simp [hx]
  · exact recorded_after (canonical_mem hcan) (keepsQueue_withHub rfl : KeepsQueue s (s.migrated old new)) _

end Sys2Proof.Machine
end

section
/-! PROOFS. The end of a spare command (05 R148, R149, R150, R154): LANE, CELL on a pane that is not quiet, CHANNEL, WAY,
and UNFENCE, after how a quadrant's fence follows the tests of its cell. -/
namespace Sys2Proof.Machine
open Sys2Proof

/-- The state after a spare command that has run its time. -/
def State.spareCompleted (s : State) (v fail : Nat) : State := (s.spareRun v fail).2.spareEnd (s.spareRun v fail).1

/-- The command in progress runs and ends, but for a CHANNEL command whose migration goes on. -/
theorem exec_spareCmdComplete {s : State} {v : Nat} (hv : s.hub.spare.cmd = some v) (fail : Nat) :
    exec (.spareCmdComplete fail) s =
      .next (if (bits v 31 28 == 2 && s.hub.migrating.isSome) = true then s else s.spareCompleted v fail) := by
  show execSpareCmdComplete fail s = _
  rw [execSpareCmdComplete, hv]
  rfl

theorem spareEnd_laneSpares (s : State) (r : Nat) : (s.spareEnd r).hub.laneSpares = s.hub.laneSpares :=
  (congrArg Hub.laneSpares (spareEnd_withoutNews s r) :)

theorem spareEnd_wayMap (s : State) (r : Nat) : (s.spareEnd r).hub.wayMap = s.hub.wayMap :=
  (congrArg Hub.wayMap (spareEnd_withoutNews s r) :)

theorem spareEnd_waysGone (s : State) (r : Nat) : (s.spareEnd r).hub.waysGone = s.hub.waysGone :=
  (congrArg Hub.waysGone (spareEnd_withoutNews s r) :)

theorem spareEnd_cellMap (s : State) (r : Nat) : (s.spareEnd r).hub.cellMap = s.hub.cellMap :=
  (congrArg Hub.cellMap (spareEnd_withoutNews s r) :)

theorem spareRecord_laneSpares (s : State) (kind old new sub lane : Nat) :
    (s.spareRecord kind old new sub lane).hub.laneSpares = s.hub.laneSpares :=
  (congrArg Hub.laneSpares (spareRecord_withoutNews s kind old new sub lane) :)

theorem spareRecord_wayMap (s : State) (kind old new sub lane : Nat) :
    (s.spareRecord kind old new sub lane).hub.wayMap = s.hub.wayMap :=
  (congrArg Hub.wayMap (spareRecord_withoutNews s kind old new sub lane) :)

theorem spareRecord_waysGone (s : State) (kind old new sub lane : Nat) :
    (s.spareRecord kind old new sub lane).hub.waysGone = s.hub.waysGone :=
  (congrArg Hub.waysGone (spareRecord_withoutNews s kind old new sub lane) :)

/-! ### LANE, CELL and CHANNEL -/

/-- The spare lane of a sub-core is in use. -/
def State.laneSpared (s : State) (cell sub : Nat) : State :=
  s.withHub fun h => { h with laneSpares := (cell, sub) :: h.laneSpares }

theorem spareRun_lane {s : State} {v : Nat} (h : bits v 31 28 = 0) (fail : Nat) : s.spareRun v fail =
    (0, ((s.pick [spareTarget v, 0xFF]).2.laneSpared (spareTarget v) (spareSub v)).spareRecord 0 (spareTarget v)
      (s.pick [spareTarget v, 0xFF]).1 (spareSub v) (spareLane v)) := by
  rw [State.spareRun, h]
  rfl

theorem spareCompleted_lane {s : State} (hwf : s.mem.wf = true) {v : Nat} (h : bits v 31 28 = 0) (fail : Nat) :
    let t := s.spareCompleted v fail
    t.spareEnded 0 ∧ (spareTarget v, spareSub v) ∈ t.hub.laneSpares ∧
      ∃ new ∈ [spareTarget v, 0xFF], Recorded s t (spareEvent 0 (spareTarget v) new (spareSub v) (spareLane v)) := by
  obtain ⟨n, hn⟩ := pick_frame s [spareTarget v, 0xFF]
  have hmem := pick_mem s (l := [spareTarget v, 0xFF]) (List.cons_ne_nil _ _)
  have hkeep : KeepsQueue s (({ s with fresh := n } : State).laneSpared (spareTarget v) (spareSub v)) :=
    .trans (t := { s with fresh := n }) ⟨⟨rfl, rfl, rfl, rfl, rfl, rfl, rfl, rfl, rfl, rfl⟩, rfl⟩ (keepsQueue_withHub rfl)
  dsimp only
  rw [State.spareCompleted, spareRun_lane h, hn]
  refine ⟨spareEnd_ends _ 0, ?_, _, hmem, .of_keeps hkeep (recorded_devRecord (hkeep.mem ▸ hwf) _)
    (keepsQueue_spareEnd _ 0)⟩
  rw [spareEnd_laneSpares, spareRecord_laneSpares]
  exact List.mem_cons_self

theorem spareCompleted_cell_busy {s : State} {v : Nat} (h : bits v 31 28 = 1)
    (hbusy : s.paneBusy (spareTarget v) = true) (fail : Nat) : s.spareCompleted v fail = s.spareEnd 2 := by
  have hrun : s.spareRun v fail = (2, s) := by
    rw [State.spareRun, h]
    exact if_pos hbusy
  rw [State.spareCompleted, hrun]

theorem spareCompleted_channel {s : State} {v : Nat} (h : bits v 31 28 = 2) (fail : Nat) :
    s.spareCompleted v fail = s.spareEnd 0 := by
  have hrun : s.spareRun v fail = (0, s) := by
    rw [State.spareRun, h]
    rfl
  rw [State.spareCompleted, hrun]

/-! ### WAY -/

/-- The way of the hub cache that a spare way stands in for: one neither in service nor gone. -/
def Hub.spareWay (h : Hub) : Option Nat :=
  (List.range 18).find? fun w => !h.wayMap.contains (some w) && !h.waysGone.contains w

/-- The ways in service with `w` replaced. -/
def Hub.waysWithout (h : Hub) (w : Nat) : List (Option Nat) := h.wayMap.map fun x => if x = some w then h.spareWay else x

/-- A physical way is retired. -/
def State.wayRetired (s : State) (w : Nat) : State :=
  (s.hubRetireWay ((findIdx' (· == some w) s.hub.wayMap).getD 16)).withHub fun h =>
    let h1 := { h with wayMap := s.hub.waysWithout w, waysGone := w :: h.waysGone }
    { h1 with classWays := h1.classWays.map h1.waysOf }

theorem wayRetired_wayMap (s : State) (w : Nat) : (s.wayRetired w).hub.wayMap = s.hub.waysWithout w := rfl

theorem wayRetired_waysGone (s : State) (w : Nat) : (s.wayRetired w).hub.waysGone = w :: s.hub.waysGone := rfl

theorem spareRun_way {s : State} {v : Nat} (h : bits v 31 28 = 3) (fail : Nat) : s.spareRun v fail =
    match s.hub.spareWay with
    | some x => (0, (s.wayRetired (spareTarget v)).spareRecord 3 (spareTarget v) x 0 0)
    | none => (1, s.wayRetired (spareTarget v)) := by
  rw [State.spareRun, h]
  rfl

theorem spareWay_not_mem {h : Hub} {w : Nat} (hw : h.spareWay = some w) : some w ∉ h.wayMap := by
  have hfound := List.find?_some hw
  rw [Bool.and_eq_true, Bool.not_eq_true', Bool.not_eq_true', List.contains_eq_mem, decide_eq_false_iff_not] at hfound
  exact hfound.1

/-- A way that was in service is not after its retirement: what replaces it was not. -/
theorem not_mem_waysWithout {h : Hub} {w : Nat} (hw : some w ∈ h.wayMap) : some w ∉ h.waysWithout w := by
  intro hmem
  obtain ⟨x, -, hx⟩ := List.mem_map.mp hmem
  split at hx
  · exact spareWay_not_mem hx hw
  · next hne => exact hne hx

theorem none_mem_waysWithout {h : Hub} {w : Nat} (hw : some w ∈ h.wayMap) (hno : h.spareWay = none) :
    none ∈ h.waysWithout w :=
  List.mem_map.mpr ⟨some w, hw, (if_pos rfl).trans hno⟩

theorem spareCompleted_way {s : State} {v : Nat} (h : bits v 31 28 = 3) (hin : some (spareTarget v) ∈ s.hub.wayMap)
    (fail : Nat) :
    let t := s.spareCompleted v fail
    t.hub.spare.cmd = none ∧ some (spareTarget v) ∉ t.hub.wayMap ∧ spareTarget v ∈ t.hub.waysGone ∧
      (t.spareEnded 0 ∨
        (t.spareEnded 1 ∧ none ∈ t.hub.wayMap)) := by
  dsimp only
  rw [State.spareCompleted, spareRun_way h, spareEnd_wayMap, spareEnd_waysGone]
  cases hw : s.hub.spareWay with
  | some x =>
    dsimp only
    rw [spareRecord_wayMap, spareRecord_waysGone, wayRetired_wayMap, wayRetired_waysGone]
    exact ⟨(spareEnd_ends _ 0).1, not_mem_waysWithout hin, List.mem_cons_self, .inl (spareEnd_ends _ 0)⟩
  | none =>
    dsimp only
    rw [wayRetired_wayMap, wayRetired_waysGone]
    exact ⟨(spareEnd_ends _ 1).1, not_mem_waysWithout hin, List.mem_cons_self,
      .inr ⟨spareEnd_ends _ 1, none_mem_waysWithout hin hw⟩⟩

/-! ### Quadrants and their fences (05 R154) -/

/-- A quadrant changed: it alone, where the state has it. -/
theorem quad?_modQuad (s : State) (c q p : Nat) (f : Quad → Quad) :
    (s.modQuad c q f).quad? c p = if p = q then (s.quad? c p).map f else s.quad? c p := by
  unfold State.quad? State.modQuad
  rw [modCell_cells, getElem?_modifyAt, if_pos rfl]
  cases s.cells[c]? with
  | none => simp
  | some x => exact getElem?_modifyAt x.quads q p f

/-- The state has a quadrant of that number. -/
theorem quad?_of_lt {s : State} {c q : Nat} (hc : c < s.cells.length) (hq : q < (s.cells.getD c Cell.reset).quads.length) :
    s.quad? c q = some (s.quadAt c q) := by
  have hcell : s.cells[c]? = some (s.cells.getD c Cell.reset) := by simp [hc]
  rw [quadAt_eq, State.quad?, hcell, Option.bind_some, List.getElem?_eq_getElem hq, Option.getD_some]

theorem quadAt_modQuad {s : State} {c q : Nat} (hc : c < s.cells.length)
    (hq : q < (s.cells.getD c Cell.reset).quads.length) (f : Quad → Quad) :
    (s.modQuad c q f).quadAt c q = f (s.quadAt c q) := by
  rw [quadAt_eq, quad?_modQuad, if_pos rfl, quad?_of_lt hc hq, Option.map_some, Option.getD_some]

theorem quad?_of_cells {s t : State} (h : t.cells = s.cells) (c q : Nat) : t.quad? c q = s.quad? c q := by
  rw [State.quad?, h]
  rfl

/-- Whether a quadrant is fenced, where the state has it. -/
def State.fenced? (s : State) (c q : Nat) : Option Bool := (s.quad? c q).map (·.fenced)

theorem quadAt_fenced_of_fenced? {s : State} {c q : Nat} {b : Bool} (h : s.fenced? c q = some b) :
    (s.quadAt c q).fenced = b := by
  obtain ⟨x, hx, rfl⟩ := Option.map_eq_some_iff.mp h
  rw [quadAt_eq, hx, Option.getD_some]

/-- The fences of a cell that the quadrants of a list have come to one value at. -/
def SetsFence (b : Bool) (c : Nat) (s t : State) (l : List Nat) : Prop :=
  ∀ q, t.fenced? c q = if q ∈ l then (s.fenced? c q).map fun _ => b else s.fenced? c q

theorem setsFence_modQuad (s : State) (c q : Nat) {b : Bool} {f : Quad → Quad} (hf : ∀ x, (f x).fenced = b) :
    SetsFence b c s (s.modQuad c q f) [q] := by
  intro p
  rw [State.fenced?, quad?_modQuad, State.fenced?]
  by_cases hp : p = q
  · simp [hp, Function.comp_def, hf]
  · simp [hp]

/-- A step that sets the fence of one quadrant, taken for each of a list, sets them all. -/
theorem setsFence_foldl {b : Bool} {c : Nat} {step : State → Nat → State} (hstep : ∀ s q, SetsFence b c s (step s q) [q])
    (l : List Nat) (s : State) : SetsFence b c s (l.foldl step s) l := by
  induction l generalizing s with
  | nil => exact fun q => rfl
  | cons p l ih =>
    intro q
    rw [List.foldl_cons, ih (step s p) q, hstep s p q]
    by_cases hp : q = p <;> by_cases hl : q ∈ l <;> simp [hp, hl, Function.comp_def]

/-- A recarve for a fence marks no quadrant. -/
theorem recarveBegin_fence_cells (s : State) (part c : Nat) (qs bs : List Nat) :
    (s.recarveBegin part c qs false true bs).cells = s.cells := by
  unfold State.recarveBegin
  dsimp only
  split <;> rfl

/-- The failed self-test of a quadrant leaves the cells as they are but for its fence. -/
theorem fence_cells (s : State) (c q : Nat) :
    (s.fence c q).cells = (s.modQuad c q fun x => { x with fenced := true }).cells := by
  unfold State.fence
  dsimp only
  split
  · exact devRecord_cells _ _
  · rw [recarveBegin_fence_cells, devRecord_cells]

theorem setsFence_fence (s : State) (c q : Nat) : SetsFence true c s (s.fence c q) [q] := by
  intro p
  rw [State.fenced?, quad?_of_cells (fence_cells s c q)]
  exact setsFence_modQuad s c q (f := fun x => { x with fenced := true }) (fun _ => rfl) p

/-- The quadrants that an UNFENCE command names. -/
def unfenceQuads (v : Nat) : List Nat := (List.range 4).filter fun q => bit v (7 + q)

/-- A quadrant that passes its test. -/
def Quad.passed (x : Quad) : Quad := { x with fenced := false, testClock := 0 }

/-- The quadrants of a cell that pass their tests: no longer fenced, nor recarves of their fences. -/
def State.unfenced (s : State) (c : Nat) (passed : List Nat) : State :=
  (passed.foldl (fun s q => s.modQuad c q Quad.passed) s).withHub fun h =>
    { h with recarves := h.recarves.filter fun x => !(x.fence && x.cell == c && passed.any (bit x.qmask)) }

theorem setsFence_unfenced (s : State) (c : Nat) (passed : List Nat) : SetsFence false c s (s.unfenced c passed) passed :=
  setsFence_foldl (fun s q => setsFence_modQuad s c q (f := Quad.passed) fun _ => rfl) passed s

theorem spareRun_unfence {s : State} {v : Nat} (h : bits v 31 28 = 4) (fail : Nat) : (s.spareRun v fail).2 =
    ((unfenceQuads v).filter (bit fail)).foldl (fun s q => s.fence (spareTarget v) q)
      (s.unfenced (spareTarget v) ((unfenceQuads v).filter fun q => !bit fail q)) := by
  rw [State.spareRun, h]
  rfl

/-- After UNFENCE a quadrant that it names is fenced where its test failed, and any other as it was. -/
theorem spareCompleted_unfence {s : State} {v : Nat} (h : bits v 31 28 = 4) (fail : Nat) {q : Nat} (hq4 : q < 4)
    (hc : spareTarget v < s.cells.length) (hq : q < (s.cells.getD (spareTarget v) Cell.reset).quads.length) :
    ((s.spareCompleted v fail).quadAt (spareTarget v) q).fenced =
      if bit v (7 + q) = true then bit fail q else (s.quadAt (spareTarget v) q).fenced := by
  have hpass := setsFence_unfenced s (spareTarget v) ((unfenceQuads v).filter fun q => !bit fail q) q
  have hfail := setsFence_foldl (fun s q => setsFence_fence s (spareTarget v) q) ((unfenceQuads v).filter (bit fail))
    (s.unfenced (spareTarget v) ((unfenceQuads v).filter fun q => !bit fail q)) q
  have hend : (s.spareCompleted v fail).quad? (spareTarget v) q = (s.spareRun v fail).2.quad? (spareTarget v) q :=
    quad?_of_cells (spareEnd_cells _ _) _ _
  refine quadAt_fenced_of_fenced? ?_
  rw [State.fenced?, hend, spareRun_unfence h, ← State.fenced?, hfail, hpass, State.fenced?, quad?_of_lt hc hq]
  cases hbit : bit v (7 + q) <;> cases hf : bit fail q <;> simp [unfenceQuads, hq4, hbit, hf]

theorem spareCmdComplete_happens (v fail : Nat) : Happens (.spareCmdComplete fail) (fun s => s.hub.spare.cmd = some v)
    fun s t =>
    (bits v 31 28 = 0 → t.spareEnded 0 ∧
      (spareTarget v, spareSub v) ∈ t.hub.laneSpares ∧
      ∃ new ∈ [spareTarget v, 0xFF], Recorded s t (spareEvent 0 (spareTarget v) new (spareSub v) (spareLane v))) ∧
    (bits v 31 28 = 1 → s.paneBusy (spareTarget v) = true →
      t.spareEnded 2 ∧ t.cells = s.cells ∧ t.hub.cellMap = s.hub.cellMap) ∧
    (bits v 31 28 = 2 → s.hub.migrating = none → t.spareEnded 0) ∧
    (bits v 31 28 = 2 → s.hub.migrating ≠ none → t = s) ∧
    (bits v 31 28 = 3 → some (spareTarget v) ∈ s.hub.wayMap → t.hub.spare.cmd = none ∧
      some (spareTarget v) ∉ t.hub.wayMap ∧ spareTarget v ∈ t.hub.waysGone ∧
      (t.spareEnded 0 ∨
        (t.spareEnded 1 ∧ none ∈ t.hub.wayMap))) ∧
    (bits v 31 28 = 4 → ∀ q, q < 4 → spareTarget v < s.cells.length →
      q < (s.cells.getD (spareTarget v) Cell.reset).quads.length →
      (t.quadAt (spareTarget v) q).fenced =
        if bit v (7 + q) = true then bit fail q else (s.quadAt (spareTarget v) q).fenced) := by
  intro s hcan hv
  have hexec := exec_spareCmdComplete hv fail
  by_cases hwait : (bits v 31 28 == 2 && s.hub.migrating.isSome) = true
  · rw [if_pos hwait] at hexec
    rw [Bool.and_eq_true, beq_iff_eq, Option.isSome_iff_ne_none] at hwait
    obtain ⟨hop, hmig⟩ := hwait
    exact ⟨s, hexec, fun h => by omega, fun h => by omega, fun _ h => absurd h hmig, fun _ _ => rfl,
      fun h => by omega, fun h => by omega⟩
  · rw [if_neg hwait] at hexec
    refine ⟨_, hexec, fun h => spareCompleted_lane (canonical_mem hcan) h fail, fun h hbusy => ?_, fun h _ => ?_,
      fun h hmig => ?_, fun h hin => spareCompleted_way h hin fail, fun h q hq4 hc hq => spareCompleted_unfence h fail hq4 hc hq⟩
    · rw [spareCompleted_cell_busy h hbusy]
      exact ⟨spareEnd_ends s 2, spareEnd_cells s 2, spareEnd_cellMap s 2⟩
    · rw [spareCompleted_channel h]
      exact spareEnd_ends s 0
    · exact absurd (by simp [h, Option.isSome_iff_ne_none, hmig]) hwait

end Sys2Proof.Machine
end

section
/-! PROOFS. The seam links' lanes (05 R151; 01 R37 to R39), the corrected errors (05 R152) and the ageing monitors
(05 R153). First a list with one element changed, and the links' states. -/
namespace Sys2Proof.Machine
open Sys2Proof

/-- A change of the element that stands at a place is the replacement of it. -/
theorem modifyAt_eq_set {α : Type} {l : List α} {i : Nat} {a : α} (h : l[i]? = some a) (f : α → α) :
    modifyAt l i f = l.set i (f a) := by
  refine List.ext_getElem? fun j => ?_
  obtain ⟨hi, -⟩ := List.getElem?_eq_some_iff.mp h
  rw [getElem?_modifyAt, List.getElem?_set]
  by_cases hj : j = i
  · rw [if_pos hj, if_pos hj.symm, if_pos hi, hj, h, Option.map_some]
  · rw [if_neg hj, if_neg (Ne.symm hj)]

/-! ### Replays and lanes that fail -/

theorem seamFlitReplay_happens (n : Nat) (x : Seam) : Happens (.seamFlitReplay n) (fun s => s.hub.seams[n]? = some x)
    fun s t => t = { s with hub := { s.hub with
      seams := s.hub.seams.set n { x with retry := min 255 (x.retry + 1), crc := true } } } := by
  refine .of_next (fun s => rfl) fun s _ hx => ?_
  rw [State.modSeam, State.withHub, modifyAt_eq_set hx]

/-- A lane of a link that has not failed fails, which was neither lost nor replaced before. -/
structure FailsAnew (s : State) (n lane : Nat) (x : Seam) : Prop where
  link : s.hub.seams[n]? = some x
  inLink : lane < seamLanes n
  working : x.failed n = false
  notLost : lane ∉ x.lost
  notFirst : ¬(1 ≤ x.spares ∧ x.lane0 = lane)
  notSecond : ¬(2 ≤ x.spares ∧ x.lane1 = lane)

/-- A lane lost for which no spare is left: both halves of the link are bad, or one is, now or already. -/
def State.laneLost (s : State) (n lane : Nat) (x : Seam) : State :=
  let y := { x with lost := lane :: x.lost }
  let s1 := s.modSeam n fun x => { x with lost := lane :: x.lost }
  if y.failed n then
    let s2 := ((s1.modSeam n fun x => { x with half := false }).refreshSeams).spareRecord 6 n 0xFF 0 lane
    if n < 4 then s2.quarantine n else s2
  else if x.half then s1
  else (s1.modSeam n fun x => { x with half := true }).spareRecord 5 n 0xFF 0 lane

/-- A lane that fails anew takes the first spare or the second, or is lost. -/
theorem laneFail_eq {s : State} {n lane : Nat} {x : Seam} (h : FailsAnew s n lane x) : s.laneFail n lane =
    if x.spares = 0 then
      ((s.modSeam n fun x => { x with spares := 1, lane0 := lane }).refreshSeams).spareRecord 4 n 0xFF 0 lane
    else if x.spares = 1 then
      ((s.modSeam n fun x => { x with spares := 2, lane1 := lane }).refreshSeams).spareRecord 4 n 0xFF 0 lane
    else s.laneLost n lane x := by
  have hnew : ¬(seamLanes n ≤ lane ∨ x.failed n = true ∨ x.lost.contains lane = true ∨
      (1 ≤ x.spares ∧ x.lane0 = lane) ∨ (2 ≤ x.spares ∧ x.lane1 = lane)) := by
    simp [Nat.not_le.mpr h.inLink, h.working, h.notLost, h.notFirst, h.notSecond]
  rw [State.laneFail, h.link]
  dsimp only
  rw [if_neg hnew]
  rfl

/-- STATE of a link. -/
def State.linkState (s : State) (n : Nat) (x : Seam) : Nat :=
  if s.seamUp n then (if x.failed n then 4 else if x.spares = 0 then 2 else 3) else if s.seamTrains n then 1 else 0

theorem refreshSeams_seam (s : State) (n : Nat) : s.refreshSeams.hub.seams[n]? =
    (s.hub.seams[n]?).map fun x => { x with state := s.linkState n x } := by
  simp [State.refreshSeams, State.linkState, Function.comp_def]

theorem modSeam_seam {s : State} {n : Nat} {x : Seam} (h : s.hub.seams[n]? = some x) (f : Seam → Seam) :
    (s.modSeam n f).hub.seams[n]? = some (f x) := by
  rw [State.modSeam, withHub_hub, getElem?_modifyAt, if_pos rfl, h, Option.map_some]

/-- A link changed, and the states of all links after it. -/
theorem refreshed_seam {s : State} {n : Nat} {x : Seam} (h : s.hub.seams[n]? = some x) (f : Seam → Seam) :
    ((s.modSeam n f).refreshSeams).hub.seams[n]? = some { f x with state := s.linkState n (f x) } := by
  rw [refreshSeams_seam, modSeam_seam h, Option.map_some]
  rfl

theorem spareRecord_seams (s : State) (kind old new sub lane : Nat) :
    (s.spareRecord kind old new sub lane).hub.seams = s.hub.seams :=
  (congrArg Hub.seams (spareRecord_withoutNews s kind old new sub lane) :)

theorem keepsQueue_modSeam (s : State) (n : Nat) (f : Seam → Seam) : KeepsQueue s (s.modSeam n f) :=
  keepsQueue_withHub rfl

theorem keepsQueue_refreshSeams (s : State) : KeepsQueue s s.refreshSeams := keepsQueue_withHub rfl

/-- A link whose state is set anew, with the record of its lane. -/
theorem recorded_refreshed {s : State} (hwf : s.mem.wf = true) (n : Nat) (f : Seam → Seam) (kind lane : Nat) :
    Recorded s (((s.modSeam n f).refreshSeams).spareRecord kind n 0xFF 0 lane) (spareEvent kind n 0xFF 0 lane) :=
  recorded_after hwf ((keepsQueue_modSeam s n f).trans (keepsQueue_refreshSeams _)) _

theorem foldl_seams {α : Type} {step : State → α → State} (h : ∀ s a, (step s a).hub.seams = s.hub.seams) (l : List α)
    (s : State) : (l.foldl step s).hub.seams = s.hub.seams :=
  List.foldlRecOn (motive := fun t => t.hub.seams = s.hub.seams) l step rfl fun t ht a _ => (h t a).trans ht

theorem raise_seams (s : State) (f v : Nat) : (s.raise f v).hub.seams = s.hub.seams :=
  (congrArg Hub.seams (raise_withoutNews s f v) :)

theorem markResetting_seams (s : State) (c : Nat) : (s.markResetting c).hub.seams = s.hub.seams := by
  unfold State.markResetting
  dsimp only
  split
  · rfl
  · exact raise_seams _ _ 2

theorem rungStart_seams (s : State) {rung : Nat} (h : rung ≠ 5) (tgt : Nat) (asked : Option Nat) (climbed : Bool) :
    (s.rungStart rung tgt asked climbed).hub.seams = s.hub.seams := by
  rw [rungStart_of_ne h, foldl_seams markResetting_seams]
  exact raise_seams s 0 8

/-- The quarantine of a pane changes no link. -/
theorem quarantine_seams (s : State) (p : Nat) : (s.quarantine p).hub.seams = s.hub.seams := by
  unfold State.quarantine
  split
  · rfl
  · split
    · rfl
    · exact foldl_seams (fun s t => rungStart_seams s (by decide) t none false) _ _

theorem not_failed_of_one_lost (x : Seam) (n lane : Nat) : ({ x with lost := [lane] } : Seam).failed n = false := by
  simp only [Seam.failed, Seam.halfBad, List.any_cons, List.any_nil, Bool.or_false]
  generalize lane / (seamLanes n / 2) = half
  by_cases h : half = 0 <;> simp [h]

/-- With a lost lane in the other half both halves of the link are bad. -/
theorem failed_of_lost_in_other_half {x : Seam} {n lane l : Nat} (hl : l ∈ x.lost)
    (hother : l / (seamLanes n / 2) + lane / (seamLanes n / 2) = 1) :
    ({ x with lost := lane :: x.lost } : Seam).failed n = true := by
  have hhalves : (lane / (seamLanes n / 2) = 0 ∧ l / (seamLanes n / 2) = 1) ∨
      (lane / (seamLanes n / 2) = 1 ∧ l / (seamLanes n / 2) = 0) := by
    generalize lane / (seamLanes n / 2) = a at *
    generalize l / (seamLanes n / 2) = b at *
    omega
  simp only [Seam.failed, Seam.halfBad, List.any_cons, Bool.and_eq_true, Bool.or_eq_true, beq_iff_eq, List.any_eq_true]
  obtain ⟨h0, h1⟩ | ⟨h1, h0⟩ := hhalves
  · exact ⟨.inl h0, .inr ⟨l, hl, h1⟩⟩
  · exact ⟨.inr ⟨l, hl, h0⟩, .inl h1⟩

/-- A lane lost in each half: the link has failed, and its state says so where it has power. -/
theorem laneLost_failed {s : State} {n lane : Nat} {x : Seam} (h : s.hub.seams[n]? = some x)
    (hfailed : ({ x with lost := lane :: x.lost } : Seam).failed n = true) :
    ∃ y, (s.laneLost n lane x).hub.seams[n]? = some y ∧ y.half = false ∧ (s.seamUp n = true → y.state = 4) := by
  have hlost : (s.modSeam n fun x => { x with lost := lane :: x.lost }).hub.seams[n]? =
      some { x with lost := lane :: x.lost } := modSeam_seam h _
  have hseam := refreshed_seam hlost fun x => { x with half := false }
  have hseams : (s.laneLost n lane x).hub.seams = (((s.modSeam n fun x => { x with lost := lane :: x.lost }).modSeam n
      fun x => { x with half := false }).refreshSeams).hub.seams := by
    rw [State.laneLost]
    dsimp only
    rw [if_pos hfailed]
    split
    · rw [quarantine_seams, spareRecord_seams]
    · exact spareRecord_seams _ 6 n 0xFF 0 lane
  refine ⟨_, (congrArg (·[n]?) hseams).trans hseam, rfl, fun hup => ?_⟩
  exact (if_pos hup).trans (if_pos hfailed)

/-- A lane lost: the first halves its link, and one in the other half ends it. -/
theorem laneLost_seam {s : State} (hwf : s.mem.wf = true) {n lane : Nat} {x : Seam} (h : s.hub.seams[n]? = some x) :
    ∃ y, (s.laneLost n lane x).hub.seams[n]? = some y ∧
      (x.lost = [] → x.half = false → y.half = true ∧ y.state = x.state ∧
        Recorded s (s.laneLost n lane x) (spareEvent 5 n 0xFF 0 lane)) ∧
      ((∃ l ∈ x.lost, l / (seamLanes n / 2) + lane / (seamLanes n / 2) = 1) → y.half = false ∧
        (s.seamUp n = true → y.state = 4)) := by
  by_cases hfailed : ({ x with lost := lane :: x.lost } : Seam).failed n = true
  · obtain ⟨y, hy, hhalf, hstate⟩ := laneLost_failed h hfailed
    refine ⟨y, hy, fun hlost _ => ?_, fun _ => ⟨hhalf, hstate⟩⟩
    rw [hlost, not_failed_of_one_lost] at hfailed
    exact absurd hfailed Bool.false_ne_true
  · have hlost : (s.modSeam n fun x => { x with lost := lane :: x.lost }).hub.seams[n]? =
        some { x with lost := lane :: x.lost } := modSeam_seam h _
    have hother : ¬∃ l ∈ x.lost, l / (seamLanes n / 2) + lane / (seamLanes n / 2) = 1 :=
      fun ⟨_, hl, hhalves⟩ => hfailed (failed_of_lost_in_other_half hl hhalves)
    rw [State.laneLost]
    dsimp only
    rw [if_neg hfailed]
    cases hhalf : x.half with
    | true => exact ⟨_, hlost, fun _ hno => absurd hno (by simp), fun h => absurd h hother⟩
    | false =>
      rw [if_neg Bool.false_ne_true, spareRecord_seams]
      exact ⟨_, modSeam_seam hlost _, fun _ _ => ⟨rfl, rfl, recorded_after hwf
        ((keepsQueue_modSeam s n _).trans (keepsQueue_modSeam _ n _)) _⟩, fun h => absurd h hother⟩

theorem laneFail_seam {s : State} (hwf : s.mem.wf = true) {n lane : Nat} {x : Seam} (h : FailsAnew s n lane x) :
    ∃ y, (s.laneFail n lane).hub.seams[n]? = some y ∧
      (x.spares = 0 → y.spares = 1 ∧ y.lane0 = lane ∧ y.half = x.half ∧
        Recorded s (s.laneFail n lane) (spareEvent 4 n 0xFF 0 lane)) ∧
      (x.spares = 1 → y.spares = 2 ∧ y.lane0 = x.lane0 ∧ y.lane1 = lane ∧ y.half = x.half ∧
        Recorded s (s.laneFail n lane) (spareEvent 4 n 0xFF 0 lane)) ∧
      (x.spares = 2 → x.lost = [] → x.half = false → y.half = true ∧ y.state = x.state ∧
        Recorded s (s.laneFail n lane) (spareEvent 5 n 0xFF 0 lane)) ∧
      (x.spares = 2 → (∃ l ∈ x.lost, l / (seamLanes n / 2) + lane / (seamLanes n / 2) = 1) → y.half = false ∧
        (s.seamUp n = true → y.state = 4)) := by
  rw [laneFail_eq h]
  by_cases h0 : x.spares = 0
  · rw [if_pos h0, spareRecord_seams]
    exact ⟨_, refreshed_seam h.link _, fun _ => ⟨rfl, rfl, rfl, recorded_refreshed hwf n _ 4 lane⟩,
      fun h1 => by omega, fun h2 => by omega, fun h2 => by omega⟩
  · rw [if_neg h0]
    by_cases h1 : x.spares = 1
    · rw [if_pos h1, spareRecord_seams]
      exact ⟨_, refreshed_seam h.link _, fun h0' => absurd h0' h0,
        fun _ => ⟨rfl, rfl, rfl, rfl, recorded_refreshed hwf n _ 4 lane⟩, fun h2 => by omega, fun h2 => by omega⟩
    · rw [if_neg h1]
      obtain ⟨y, hy, hfirst, hsecond⟩ := laneLost_seam (lane := lane) hwf h.link
      exact ⟨y, hy, fun h0' => absurd h0' h0, fun h1' => absurd h1' h1, fun _ => hfirst, fun _ => hsecond⟩

/-- A lane found failing by its replays or by its eye margin fails alike. -/
theorem seamLane_happens (n lane : Nat) (x : Seam) (e : Instr)
    (he : e = .seamLaneFail n lane ∨ ∃ f, f ≠ 0 ∧ e = .seamEyeCheck n lane f) : Happens e
    (fun s => s.hub.seams[n]? = some x ∧ lane < seamLanes n ∧ x.failed n = false ∧ lane ∉ x.lost ∧
      ¬(1 ≤ x.spares ∧ x.lane0 = lane) ∧ ¬(2 ≤ x.spares ∧ x.lane1 = lane))
    fun s t => ∃ y, t.hub.seams[n]? = some y ∧
      (x.spares = 0 → y.spares = 1 ∧ y.lane0 = lane ∧ y.half = x.half ∧ Recorded s t (spareEvent 4 n 0xFF 0 lane)) ∧
      (x.spares = 1 → y.spares = 2 ∧ y.lane0 = x.lane0 ∧ y.lane1 = lane ∧ y.half = x.half ∧
        Recorded s t (spareEvent 4 n 0xFF 0 lane)) ∧
      (x.spares = 2 → x.lost = [] → x.half = false → y.half = true ∧ y.state = x.state ∧
        Recorded s t (spareEvent 5 n 0xFF 0 lane)) ∧
      (x.spares = 2 → (∃ l ∈ x.lost, l / (seamLanes n / 2) + lane / (seamLanes n / 2) = 1) → y.half = false ∧
        (s.seamUp n = true → y.state = 4)) := by
  intro s hcan ⟨hlink, hin, hworks, hlost, hfirst, hsecond⟩
  have hexec : exec e s = .next (s.laneFail n lane) := by
    obtain rfl | ⟨f, hf, rfl⟩ := he
    · rfl
    · exact congrArg Host.Outcome.next (if_neg hf)
  exact ⟨_, hexec, laneFail_seam (canonical_mem hcan) ⟨hlink, hin, hworks, hlost, hfirst, hsecond⟩⟩

theorem seamEyeCheck_passes (n lane : Nat) : Happens (.seamEyeCheck n lane 0) (fun _ => True) fun s t => t = s :=
  .of_next_eq (f := fun s => s) fun _ => rfl

/-! ### Corrected errors -/

/-- The record of a count that has reached the alarm level. -/
def threshEvent (src unit cell n : Nat) : ErrRec :=
  { ErrRec.plain 0x43 0xFF with cell := cell, source := src, unit := unit, detail := src + 256 * unit + 65536 * (n + 1) }

theorem threshRecord_eq (s : State) (src unit cell n : Nat) :
    s.threshRecord src unit cell n = s.devRecord (threshEvent src unit cell n) := rfl

theorem fires_iff {h : Hub} {n : Nat} : h.fires n = true ↔ n < 0xFFFF ∧ n + 1 = h.ceThresh := by
  simp [Hub.fires]

theorem fires_eq_false {h : Hub} {n : Nat} (hn : ¬(n < 0xFFFF ∧ n + 1 = h.ceThresh)) : h.fires n = false :=
  Bool.eq_false_iff.mpr fun hf => hn (fires_iff.mp hf)

/-- A corrected error counted by `f` where `n` stood, with the record of the alarm level reached (05 R152). -/
def State.counted (s : State) (src unit cell n : Nat) (f : Hub → Hub) : State :=
  if s.hub.fires n then (s.withHub f).threshRecord src unit cell n else s.withHub f

theorem counted_of_fires {s : State} (hwf : s.mem.wf = true) {n : Nat} (hlt : n < 0xFFFF) (hth : n + 1 = s.hub.ceThresh)
    (src unit cell : Nat) {f : Hub → Hub} (hf : (f s.hub).queueRegs = s.hub.queueRegs) :
    (s.counted src unit cell n f).hub.withoutNews = (f s.hub).withoutNews ∧
      Recorded s (s.counted src unit cell n f) (threshEvent src unit cell n) := by
  rw [State.counted, if_pos (fires_iff.mpr ⟨hlt, hth⟩), threshRecord_eq]
  exact ⟨devRecord_withoutNews _ _, recorded_after hwf (keepsQueue_withHub hf) _⟩

theorem counted_of_not_fires {s : State} {n : Nat} (h : ¬(n < 0xFFFF ∧ n + 1 = s.hub.ceThresh)) (src unit cell : Nat)
    (f : Hub → Hub) : s.counted src unit cell n f = s.withHub f := by
  rw [State.counted, fires_eq_false h, if_neg Bool.false_ne_true]

theorem exec_correctedChannel {s : State} {c n : Nat} {alarm : Bool} (hc : c < 26)
    (hn : s.hub.ceChan[c]? = some (alarm, n)) (p : Nat) : exec (.correctedError ⟨0, c, p⟩) s =
      .next (s.counted 0 c 0 n fun h =>
        { h with ceChan := s.hub.ceChan.set c (alarm || s.hub.fires n, min 0xFFFF (n + 1)) }) := by
  show execCorrectedError ⟨0, c, p⟩ s = _
  simp only [execCorrectedError, State.withHub, List.getD_eq_getElem?_getD, hn, Option.getD_some, hc, decide_true,
    Bool.and_true, modifyAt_eq_set hn]
  rfl

theorem exec_correctedSlice {s : State} {k n : Nat} (hk : k < 32) (hn : s.hub.ceSlice[k]? = some n) (way : Nat) :
    exec (.correctedError ⟨1, way, k⟩) s =
      .next (s.counted 1 way 0 n fun h => { h with ceSlice := s.hub.ceSlice.set k (min 0xFFFF (n + 1)) }) := by
  show execCorrectedError ⟨1, way, k⟩ s = _
  simp only [execCorrectedError, State.withHub, List.getD_eq_getElem?_getD, hn, Option.getD_some, hk, decide_true,
    Bool.and_true, modifyAt_eq_set hn]
  rfl

theorem exec_correctedCell {s : State} {k n : Nat} (hk : k < 32) (hn : s.hub.ceCell[k]? = some n) (src unit : Nat) :
    exec (.correctedError ⟨src + 2, unit, k⟩) s =
      .next (s.counted (src + 2) unit k n fun h => { h with ceCell := s.hub.ceCell.set k (min 0xFFFF (n + 1)) }) := by
  show execCorrectedError ⟨src + 2, unit, k⟩ s = _
  simp only [execCorrectedError, State.withHub, List.getD_eq_getElem?_getD, hn, Option.getD_some, hk, decide_true,
    Bool.and_true, modifyAt_eq_set hn]
  rfl

theorem correctedChannel_happens (c p : Nat) (alarm : Bool) (n : Nat) : Happens (.correctedError ⟨0, c, p⟩)
    (fun s => c < 26 ∧ s.hub.ceChan[c]? = some (alarm, n)) fun s t =>
    (n < 0xFFFF → n + 1 = s.hub.ceThresh → t.hub.ceChan[c]? = some (true, n + 1) ∧
      Recorded s t { ErrRec.plain 0x43 0xFF with unit := c, detail := 256 * c + 65536 * (n + 1) }) ∧
    (¬(n < 0xFFFF ∧ n + 1 = s.hub.ceThresh) →
      t = { s with hub := { s.hub with ceChan := s.hub.ceChan.set c (alarm, min 0xFFFF (n + 1)) } }) := by
  intro s hcan ⟨hc, hn⟩
  obtain ⟨hin, -⟩ := List.getElem?_eq_some_iff.mp hn
  refine ⟨_, exec_correctedChannel hc hn p, fun hlt hth => ?_, fun hno => ?_⟩
  · obtain ⟨hhub, hrec⟩ := counted_of_fires (canonical_mem hcan) hlt hth 0 c 0 (f := fun h =>
      { h with ceChan := s.hub.ceChan.set c (alarm || s.hub.fires n, min 0xFFFF (n + 1)) }) rfl
    refine ⟨(congrArg (fun h : Hub => h.ceChan[c]?) hhub).trans ?_, ?_⟩
    · refine (List.getElem?_set_self hin).trans ?_
      rw [fires_iff.mpr ⟨hlt, hth⟩, Bool.or_true, Nat.min_eq_right hlt]
    · rwa [threshEvent, Nat.zero_add] at hrec
  · rw [counted_of_not_fires hno, fires_eq_false hno, Bool.or_false]
    rfl

theorem correctedSlice_happens (way k n : Nat) : Happens (.correctedError ⟨1, way, k⟩)
    (fun s => k < 32 ∧ s.hub.ceSlice[k]? = some n) fun s t =>
    (n < 0xFFFF → n + 1 = s.hub.ceThresh → t.hub.ceSlice[k]? = some (n + 1) ∧
      Recorded s t (threshEvent 1 way 0 n)) ∧
    (¬(n < 0xFFFF ∧ n + 1 = s.hub.ceThresh) →
      t = { s with hub := { s.hub with ceSlice := s.hub.ceSlice.set k (min 0xFFFF (n + 1)) } }) := by
  intro s hcan ⟨hk, hn⟩
  obtain ⟨hin, -⟩ := List.getElem?_eq_some_iff.mp hn
  refine ⟨_, exec_correctedSlice hk hn way, fun hlt hth => ?_, fun hno => counted_of_not_fires hno 1 way 0 _⟩
  obtain ⟨hhub, hrec⟩ := counted_of_fires (canonical_mem hcan) hlt hth 1 way 0 (f := fun h =>
    { h with ceSlice := s.hub.ceSlice.set k (min 0xFFFF (n + 1)) }) rfl
  refine ⟨(congrArg (fun h : Hub => h.ceSlice[k]?) hhub).trans ?_, hrec⟩
  exact (List.getElem?_set_self hin).trans (congrArg some (Nat.min_eq_right hlt))

theorem correctedCell_happens (src unit k n : Nat) : Happens (.correctedError ⟨src, unit, k⟩)
    (fun s => 2 ≤ src ∧ k < 32 ∧ s.hub.ceCell[k]? = some n) fun s t =>
    (n < 0xFFFF → n + 1 = s.hub.ceThresh → t.hub.ceCell[k]? = some (n + 1) ∧
      Recorded s t (threshEvent src unit k n)) ∧
    (¬(n < 0xFFFF ∧ n + 1 = s.hub.ceThresh) →
      t = { s with hub := { s.hub with ceCell := s.hub.ceCell.set k (min 0xFFFF (n + 1)) } }) := by
  intro s hcan ⟨hsrc, hk, hn⟩
  obtain ⟨m, rfl⟩ := Nat.exists_eq_add_of_le' hsrc
  obtain ⟨hin, -⟩ := List.getElem?_eq_some_iff.mp hn
  refine ⟨_, exec_correctedCell hk hn m unit, fun hlt hth => ?_, fun hno => counted_of_not_fires hno (m + 2) unit k _⟩
  obtain ⟨hhub, hrec⟩ := counted_of_fires (canonical_mem hcan) hlt hth (m + 2) unit k (f := fun h =>
    { h with ceCell := s.hub.ceCell.set k (min 0xFFFF (n + 1)) }) rfl
  refine ⟨(congrArg (fun h : Hub => h.ceCell[k]?) hhub).trans ?_, hrec⟩
  exact (List.getElem?_set_self hin).trans (congrArg some (Nat.min_eq_right hlt))

/-! ### Ageing monitors -/

/-- The record of a reading below its threshold. -/
def ageEvent (phys m r : Nat) : ErrRec := { ErrRec.plain 0x45 0xFF with detail := phys + 256 * m + 65536 * r }

/-- The monitor's reading taken, with ALARM where it is low. -/
def State.aged (s : State) (phys m r : Nat) : State :=
  s.withHub fun h => h.setAge phys m ((h.ageOf phys m).1 || ageLow phys m r, r)

theorem exec_ageSample {s : State} {phys m c : Nat} {x : Cell} (hc : s.hub.logical phys = some c)
    (hx : s.cells[c]? = some x) (hact : x.power = CellPower.act) (hm : m < 16) (reading : Nat) :
    exec (.ageSample phys m reading) s =
      .next (if ageLow phys m (reading % 2 ^ 14) then
          (s.aged phys m (reading % 2 ^ 14)).devRecord (ageEvent phys m (reading % 2 ^ 14))
        else s.aged phys m (reading % 2 ^ 14)) := by
  have hon : ¬(x.power != CellPower.act || decide (16 ≤ m)) = true := by simp [hact, hm]
  show execAgeSample phys m reading s = _
  rw [execAgeSample, hc]
  dsimp only
  rw [hx]
  dsimp only
  rw [if_neg hon]
  rfl

theorem ageOf_setAge (h : Hub) (phys m : Nat) (x : Bool × Nat) : (h.setAge phys m x).ageOf phys m = x := by
  simp [Hub.setAge, Hub.ageOf]

theorem ageOf_devRecord (s : State) (r : ErrRec) (phys m : Nat) :
    (s.devRecord r).hub.ageOf phys m = s.hub.ageOf phys m :=
  (congrArg (Hub.ageOf · phys m) (devRecord_withoutNews s r) :)

theorem ageLow_iff (phys m r : Nat) :
    ageLow phys m r = true ↔ if m < 8 then r < 15 else 10 * r < 9 * Config.ageBaseline phys m := by
  unfold ageLow
  split <;> exact decide_eq_true_iff

theorem ageSample_happens (phys m reading c : Nat) (x : Cell) : Happens (.ageSample phys m reading)
    (fun s => s.hub.logical phys = some c ∧ s.cells[c]? = some x ∧ x.power = CellPower.act ∧ m < 16) fun s t =>
    let r := reading % 2 ^ 14
    (t.hub.ageOf phys m).2 = r ∧
    ((if m < 8 then r < 15 else 10 * r < 9 * Config.ageBaseline phys m) → (t.hub.ageOf phys m).1 = true ∧
      Recorded s t (ageEvent phys m r)) ∧
    (¬(if m < 8 then r < 15 else 10 * r < 9 * Config.ageBaseline phys m) →
      (t.hub.ageOf phys m).1 = (s.hub.ageOf phys m).1 ∧ t.mem = s.mem) := by
  intro s hcan ⟨hc, hx, hact, hm⟩
  refine ⟨_, exec_ageSample hc hx hact hm reading, ?_⟩
  generalize reading % 2 ^ 14 = r
  dsimp only
  have hage : (s.aged phys m r).hub.ageOf phys m = ((s.hub.ageOf phys m).1 || ageLow phys m r, r) := ageOf_setAge _ _ _ _
  rw [← ageLow_iff]
  cases hlow : ageLow phys m r with
  | true =>
    rw [if_pos rfl, ageOf_devRecord, hage, hlow, Bool.or_true]
    exact ⟨rfl, fun _ => ⟨rfl, recorded_after (canonical_mem hcan) (keepsQueue_withHub rfl) _⟩, fun h => absurd rfl h⟩
  | false =>
    rw [if_neg Bool.false_ne_true, hage, hlow, Bool.or_false]
    exact ⟨rfl, fun h => absurd h Bool.false_ne_true, fun _ => ⟨rfl, rfl⟩⟩

end Sys2Proof.Machine
end

section
/-! PROOFS. The bead self-tests (05 R154; 06 R189) and the keep commands (05 R161 to R163); with them every clause of the
family. -/
namespace Sys2Proof.Machine
open Sys2Proof

/-! ### Bead self-tests -/

theorem keepsQueue_modQuad (s : State) (c q : Nat) (f : Quad → Quad) : KeepsQueue s (s.modQuad c q f) :=
  ⟨⟨rfl, rfl, rfl, rfl, rfl, rfl, rfl, rfl, rfl, rfl⟩, rfl⟩

theorem quadAt_devRecord (s : State) (r : ErrRec) (c q : Nat) : (s.devRecord r).quadAt c q = s.quadAt c q := by
  rw [quadAt_eq, quad?_of_cells (devRecord_cells s r), quadAt_eq]

/-- A test starts where it is due, in a gap, on a quadrant neither under test nor fenced. -/
def State.testStarts (s : State) (c q : Nat) : Bool :=
  let x := s.quadAt c q
  decide (testPeriod ≤ x.testClock) && !x.testing && !x.fenced && decide (1024 ≤ x.idleClocks) && s.quadIdle c q

theorem exec_beadSelfTestStart (c q : Nat) (s : State) : exec (.beadSelfTestStart c q) s =
    .next (if s.testStarts c q then s.modQuad c q fun x => { x with testing := true, overdue := false } else s) := rfl

theorem beadSelfTestStart_happens (c q : Nat) : Happens (.beadSelfTestStart c q)
    (fun s => c < s.cells.length ∧ q < (s.cells.getD c Cell.reset).quads.length) fun s t =>
    let x := s.quadAt c q
    (50000 * 2882880 ≤ x.testClock → x.testing = false → x.fenced = false → 1024 ≤ x.idleClocks →
      s.quadIdle c q = true → t.quadAt c q = { x with testing := true, overdue := false }) ∧
    ((x.testClock < 50000 * 2882880 ∨ x.idleClocks < 1024 ∨ x.fenced = true) → t = s) := by
  intro s _ ⟨hc, hq⟩
  refine ⟨_, exec_beadSelfTestStart c q s, fun hdue htest hfence hgap hidle => ?_, fun hno => ?_⟩
  · have hstarts : s.testStarts c q = true := by
      simp [State.testStarts, testPeriod, hdue, htest, hfence, hgap, hidle]
    rw [if_pos hstarts, quadAt_modQuad hc hq]
  · refine if_neg fun hstarts => ?_
    simp only [State.testStarts, Bool.and_eq_true, Bool.not_eq_true', decide_eq_true_eq] at hstarts
    obtain ⟨⟨⟨⟨hdue, -⟩, hfence⟩, hgap⟩, -⟩ := hstarts
    rw [testPeriod] at hdue
    simp only [hfence, Bool.false_eq_true, or_false] at hno
    omega

/-- A quadrant whose test has ended. -/
def Quad.tested (fail : Nat) (x : Quad) : Quad :=
  { x with testing := false, testClock := if fail = 0 then 0 else x.testClock, idleClocks := 0 }

theorem exec_beadSelfTestEnd {s : State} {c q : Nat} (h : (s.quadAt c q).testing = true) (fail : Nat) :
    exec (.beadSelfTestEnd c q fail) s =
      .next (if fail = 0 then s.modQuad c q (.tested fail) else (s.modQuad c q (.tested fail)).fence c q) :=
  congrArg Host.Outcome.next (if_pos h)

theorem beadSelfTestEnd_passes (c q : Nat) : Happens (.beadSelfTestEnd c q 0)
    (fun s => c < s.cells.length ∧ q < (s.cells.getD c Cell.reset).quads.length ∧ (s.quadAt c q).testing = true)
    fun s t => t.quadAt c q = { s.quadAt c q with testing := false, testClock := 0, idleClocks := 0 } ∧
      t.groups = s.groups := fun _ _ ⟨hc, hq, htest⟩ =>
  ⟨_, exec_beadSelfTestEnd htest 0, quadAt_modQuad hc hq _, rfl⟩

/-- The record of a quadrant's test. -/
def beadEvent (detail : Nat) : ErrRec := { ErrRec.plain 0x46 0xFF with detail := detail }

/-- A quadrant without groups is fenced with its record alone. -/
theorem fence_of_no_groups {s : State} (h : s.groups = []) (c q : Nat) :
    s.fence c q = (s.modQuad c q fun x => { x with fenced := true }).devRecord (beadEvent (c + 256 * q)) := by
  rw [State.fence, h]
  exact if_pos (Bool.or_true _)

theorem beadSelfTestEnd_fails (c q fail : Nat) : Happens (.beadSelfTestEnd c q fail)
    (fun s => fail ≠ 0 ∧ c < s.cells.length ∧ q < (s.cells.getD c Cell.reset).quads.length ∧
      (s.quadAt c q).testing = true ∧ s.groups = []) fun s t =>
      (t.quadAt c q).fenced = true ∧ (t.quadAt c q).testing = false ∧ Recorded s t (beadEvent (c + 256 * q)) := by
  intro s hcan ⟨hfail, hc, hq, htest, hgroups⟩
  refine ⟨_, exec_beadSelfTestEnd htest fail, ?_⟩
  have hquad : ((s.modQuad c q (.tested fail)).modQuad c q fun x => { x with fenced := true }).quadAt c q =
      { (s.quadAt c q).tested fail with fenced := true } := by
    rw [quadAt_eq, quad?_modQuad, quad?_modQuad, if_pos rfl, if_pos rfl, quad?_of_lt hc hq]
    rfl
  beta_reduce
  have hnone : (s.modQuad c q (.tested fail)).groups = [] := hgroups
  rw [if_neg hfail, fence_of_no_groups hnone, quadAt_devRecord, hquad]
  exact ⟨rfl, rfl, recorded_after (canonical_mem hcan) ((keepsQueue_modQuad s c q _).trans (keepsQueue_modQuad _ c q _)) _⟩

/-- A test is overdue that has not been told yet. -/
def Quad.testLate (x : Quad) : Bool := decide (testOverdue ≤ x.testClock) && !x.testing && !x.fenced && !x.overdue

theorem exec_beadSelfTestOverdue (c q : Nat) (s : State) : exec (.beadSelfTestOverdue c q) s =
    .next (if (s.quadAt c q).testLate then
      (s.modQuad c q fun x => { x with overdue := true }).devRecord (beadEvent (c + 256 * q + 65536)) else s) := rfl

theorem beadSelfTestOverdue_happens (c q : Nat) : Happens (.beadSelfTestOverdue c q)
    (fun s => c < s.cells.length ∧ q < (s.cells.getD c Cell.reset).quads.length ∧
      1050000 * 2882880 ≤ (s.quadAt c q).testClock ∧ (s.quadAt c q).testing = false ∧ (s.quadAt c q).fenced = false ∧
      (s.quadAt c q).overdue = false) fun s t =>
      t.quadAt c q = { s.quadAt c q with overdue := true } ∧ Recorded s t (beadEvent (c + 256 * q + 65536)) := by
  intro s hcan ⟨hc, hq, hlate, htest, hfence, hover⟩
  have htold : (s.quadAt c q).testLate = true := by
    rw [Quad.testLate, show testOverdue = 1050000 * 2882880 from rfl, decide_eq_true hlate, htest, hfence, hover]
    rfl
  refine ⟨_, exec_beadSelfTestOverdue c q s, ?_⟩
  beta_reduce
  rw [if_pos htold, quadAt_devRecord, quadAt_modQuad hc hq]
  exact ⟨rfl, recorded_after (canonical_mem hcan) (keepsQueue_modQuad s c q _) _⟩

/-! ### KEEP_CMD written -/

theorem keepCommand_happens (v : Nat) (e : Instr) (op : Nat)
    (he : (op, e) ∈ [(0, Instr.keepDir v 0), (1, .keepData v 0), (2, .keepErase v 0)]) :
    Happens e (fun s => s.hub.dstate ≠ 2) fun s t =>
    (s.hub.keepCmd = none → t = { s with hub := { s.hub with keepCmd := some (putBits v 27 26 op) } }) ∧
    (s.hub.keepCmd ≠ none → t = s) := by
  have hexec (s : State) : exec e s = .next (s.keepWrite 0 op v) := by
    simp only [List.mem_cons, List.not_mem_nil, or_false, Prod.mk.injEq] at he
    obtain ⟨rfl, rfl⟩ | ⟨rfl, rfl⟩ | ⟨rfl, rfl⟩ := he <;> rfl
  refine .of_next hexec fun s _ hd => ?_
  rw [State.keepWrite, guarded_onHub hd]
  refine ⟨fun hfree => ?_, fun hbusy => if_pos (Option.isSome_iff_ne_none.mpr hbusy)⟩
  rw [hfree]
  rfl

/-! ### Keep commands that complete -/

/-- A keep command ends with its result, and vector 15 is raised. -/
def State.keepDone (s : State) (r : Nat) : State :=
  (s.withHub fun h => { h with keepCmd := none, keepResult := r }).raise 0 15

/-- A slot erased. -/
def State.keepErased (s : State) (slot : Nat) : State := s.withHub fun h =>
  let h1 := { h with keep := h.keep.erase (slotBase slot) 64 }
  { h1 with keepStat := h1.keepStat.set slot (h1.slotStat slot) }

/-- What a keep command copies goes home, where it fits. -/
def State.keepCopy (s : State) (v : Nat) : State :=
  match s.hub.keepBytes v with
  | .error r => s.keepDone r
  | .ok b =>
    if dataEnd < s.hub.keepDst * 64 + b.length then s.keepDone 1
    else (s.homeWrite (s.hub.keepDst * 64) b).keepDone 0

theorem exec_keepCmdComplete {s : State} {v : Nat} (h : s.hub.keepCmd = some v) : exec .keepCmdComplete s =
    .next (if keepOp v = 3 then s.keepDone 1 else if s.hub.saving then s.keepDone 2
      else if keepOp v = 2 then (s.keepErased (keepSlot v)).keepDone 0 else s.keepCopy v) := by
  show execKeepCmdComplete s = _
  rw [execKeepCmdComplete, h]
  rfl

theorem keepDone_withoutNews (s : State) (r : Nat) : (s.keepDone r).hub.withoutNews =
    (s.withHub fun h => { h with keepCmd := none, keepResult := r }).hub.withoutNews := raise_withoutNews _ 0 15

theorem keepDone_cmd (s : State) (r : Nat) : (s.keepDone r).hub.keepCmd = none :=
  (congrArg Hub.keepCmd (keepDone_withoutNews s r) :)

theorem keepDone_result (s : State) (r : Nat) : (s.keepDone r).hub.keepResult = r :=
  (congrArg Hub.keepResult (keepDone_withoutNews s r) :)

theorem keepDone_keep (s : State) (r : Nat) : (s.keepDone r).hub.keep = s.hub.keep :=
  (congrArg Hub.keep (keepDone_withoutNews s r) :)

theorem keepDone_mem (s : State) (r : Nat) : (s.keepDone r).mem = s.mem := rfl

/-- The bytes `b` have been copied to the command's place in memory, where they fit. -/
def KeepGot (s t : State) (b : List Byte) : Prop :=
  s.hub.keepDst * 64 + b.length ≤ dataEnd → t.hub.keepResult = 0 ∧ t.mem.bytes (s.hub.keepDst * 64) b.length = b ∧
    ∀ a, ¬(s.hub.keepDst * 64 ≤ a ∧ a < s.hub.keepDst * 64 + b.length) → t.mem.get a = s.mem.get a

theorem keepGot_keepCopy {s : State} (hwf : s.mem.wf = true) {v : Nat} {b : List Byte}
    (hb : s.hub.keepBytes v = .ok b) : KeepGot s (s.keepCopy v) b := by
  intro hfits
  rw [State.keepCopy, hb]
  dsimp only
  rw [if_neg (Nat.not_lt.mpr hfits), keepDone_result, keepDone_mem, homeWrite_mem]
  refine ⟨rfl, Mem.bytes_put_same hwf _ b, fun a ha => ?_⟩
  rw [Mem.get_put hwf, if_neg ha]

/-- A copy ends the command, and changes nothing of the keep die. -/
theorem keepCopy_ends (s : State) (v : Nat) :
    (s.keepCopy v).hub.keepCmd = none ∧ (s.keepCopy v).hub.keep = s.hub.keep := by
  unfold State.keepCopy
  split
  · exact ⟨keepDone_cmd s _, keepDone_keep s _⟩
  · split
    · exact ⟨keepDone_cmd s 1, keepDone_keep s 1⟩
    · exact ⟨keepDone_cmd _ 0, keepDone_keep _ 0⟩

theorem keepBytes_dir (h : Hub) {v : Nat} (hop : keepOp v = 0) : h.keepBytes v =
    .ok (h.keep.bytes (slotBase (keepSlot v)) 64 ++ h.keep.bytes (slotBase (keepSlot v) + 0x1000) 32768 ++
      (List.range 1024).map fun r => BitVec.ofNat 8 (h.recordState (keepSlot v) r)) := by
  rw [Hub.keepBytes, if_pos hop]

theorem keepBytes_torn {h : Hub} {v : Nat} (hop : keepOp v = 1) (hst : h.recordState (keepSlot v) (keepRegion v) = 3) :
    h.keepBytes v = .error 3 := by
  simp [Hub.keepBytes, hop, hst]

theorem keepBytes_data {h : Hub} {v : Nat} (hop : keepOp v = 1)
    (hst : h.recordState (keepSlot v) (keepRegion v) = 1 ∨ h.recordState (keepSlot v) (keepRegion v) = 2) :
    h.keepBytes v = .ok (h.keep.bytes (slotBase (keepSlot v) +
        h.slotField (keepSlot v) (0x1000 + 32 * keepRegion v + 0x10) 4)
      (h.slotField (keepSlot v) (0x1000 + 32 * keepRegion v + 4) 4)) := by
  rw [Hub.keepBytes, if_neg (by omega)]
  dsimp only
  rw [if_neg (by omega), if_neg (by omega)]

/-! ERASE. -/

theorem Mem.get_filter_from {lo : Nat} {m : Mem} (h : Mem.wfFrom lo m = true) (p : Nat → Bool) (x : Nat) :
    Mem.get (m.filter fun c => p c.1) x = if p x then m.get x else Mem.unlisted := by
  induction m generalizing lo with
  | nil => simp [Mem.get]
  | cons c m ih =>
    obtain ⟨-, -, hrest⟩ := Mem.wfFrom_cons.mp h
    obtain ⟨y, b⟩ := c
    have hbelow (hx : x < y) : Mem.get m x = Mem.unlisted := Mem.get_below hrest (Nat.lt_succ_of_lt hx)
    rw [List.filter_cons]
    by_cases hx : x = y
    · subst hx
      cases hp : p x
      · simp [ih hrest, hp]
      · simp [Mem.get]
    · by_cases hlt : x < y
      · cases hp : p y <;> simp [Mem.get, ih hrest, hx, hlt, hbelow hlt]
      · cases hp : p y <;> simp [Mem.get, ih hrest, hx, hlt]

theorem Mem.get_erase {m : Mem} (h : m.wf = true) (a n x : Nat) :
    (m.erase a n).get x = if a ≤ x ∧ x < a + n then 0#8 else m.get x := by
  have hget := Mem.get_filter_from h (fun y => y < a || a + n ≤ y) x
  rw [Mem.erase, hget]
  by_cases hx : a ≤ x ∧ x < a + n
  · rw [if_pos hx, if_neg (by simp; omega)]
    rfl
  · rw [if_neg hx, if_pos (by simp; omega)]

/-- A slot whose header reads as zero holds nothing. -/
theorem slotState_of_zero {h : Hub} {slot : Nat} (hz : ∀ i < 2, h.keep.get (slotBase slot + i) = 0#8) :
    h.slotState slot = 0 := by
  have h0 : h.keep.get (slotBase slot) = 0#8 := hz 0 (by decide)
  have hver : h.slotField slot 0 2 = 0 := by
    simp [Hub.slotField, Mem.value, Mem.bytes, List.range_succ, leValue, h0, hz 1]
  rw [Hub.slotState, hver]
  rfl

theorem keepErased_done {s : State} (hwf : s.hub.keep.wf = true) (slot : Nat) :
    let t := (s.keepErased slot).keepDone 0
    t.hub.keepResult = 0 ∧ t.hub.slotState slot = 0 ∧ t.mem = s.mem ∧
      ∀ a, t.hub.keep.get a = if slotBase slot ≤ a ∧ a < slotBase slot + 64 then 0#8 else s.hub.keep.get a := by
  have hkeep : ((s.keepErased slot).keepDone 0).hub.keep = s.hub.keep.erase (slotBase slot) 64 := keepDone_keep _ 0
  have hget (a : Nat) : ((s.keepErased slot).keepDone 0).hub.keep.get a =
      if slotBase slot ≤ a ∧ a < slotBase slot + 64 then 0#8 else s.hub.keep.get a := by
    rw [hkeep, Mem.get_erase hwf]
  refine ⟨keepDone_result _ 0, slotState_of_zero fun i hi => ?_, keepDone_mem _ 0, hget⟩
  rw [hget, if_pos (by omega)]

theorem keepCmdComplete_happens (v : Nat) : Happens .keepCmdComplete (fun s => s.hub.keepCmd = some v) fun s t =>
    let slot := keepSlot v
    let st := s.hub.recordState slot (keepRegion v)
    t.hub.keepCmd = none ∧
    (s.hub.saving = true → keepOp v < 3 → t.hub.keepResult = 2 ∧ t.mem = s.mem ∧ t.hub.keep = s.hub.keep) ∧
    (s.hub.saving = false → keepOp v = 0 → t.hub.keep = s.hub.keep ∧
      KeepGot s t (s.hub.keep.bytes (slotBase slot) 64 ++ s.hub.keep.bytes (slotBase slot + 0x1000) 32768 ++
        (List.range 1024).map fun r => BitVec.ofNat 8 (s.hub.recordState slot r))) ∧
    (s.hub.saving = false → keepOp v = 1 → t.hub.keep = s.hub.keep ∧ (st = 3 → t.hub.keepResult = 3 ∧ t.mem = s.mem) ∧
      ((st = 1 ∨ st = 2) → let o := 0x1000 + 32 * keepRegion v
        KeepGot s t (s.hub.keep.bytes (slotBase slot + s.hub.slotField slot (o + 0x10) 4)
          (s.hub.slotField slot (o + 4) 4)))) ∧
    (s.hub.saving = false → keepOp v = 2 → t.hub.keepResult = 0 ∧ t.hub.slotState slot = 0 ∧ t.mem = s.mem ∧
      (∀ a, t.hub.keep.get a = if slotBase slot ≤ a ∧ a < slotBase slot + 64 then 0#8 else s.hub.keep.get a)) := by
  intro s hcan hv
  refine ⟨_, exec_keepCmdComplete hv, ?_⟩
  dsimp only
  have hwf := canonical_mem hcan
  by_cases h3 : keepOp v = 3
  · rw [if_pos h3]
    exact ⟨keepDone_cmd s 1, fun _ h => by omega, fun _ h => by omega, fun _ h => by omega, fun _ h => by omega⟩
  rw [if_neg h3]
  cases hsave : s.hub.saving with
  | true =>
    rw [if_pos rfl]
    exact ⟨keepDone_cmd s 2, fun _ _ => ⟨keepDone_result s 2, keepDone_mem s 2, keepDone_keep s 2⟩,
      fun h => absurd h (by decide), fun h => absurd h (by decide), fun h => absurd h (by decide)⟩
  | false =>
    rw [if_neg Bool.false_ne_true]
    by_cases h2 : keepOp v = 2
    · rw [if_pos h2]
      exact ⟨keepDone_cmd _ 0, fun h => absurd h (by decide), fun _ h => by omega, fun _ h => by omega,
        fun _ _ => keepErased_done (canonical_keep hcan) (keepSlot v)⟩
    · rw [if_neg h2]
      obtain ⟨hcmd, hkeep⟩ := keepCopy_ends s v
      refine ⟨hcmd, fun h => absurd h (by decide), fun _ h0 => ⟨hkeep, keepGot_keepCopy hwf (keepBytes_dir s.hub h0)⟩,
        fun _ h1 => ⟨hkeep, fun htorn => ?_, fun hwhole => keepGot_keepCopy hwf (keepBytes_data h1 hwhole)⟩,
        fun _ h => absurd h h2⟩
      rw [State.keepCopy, keepBytes_torn h1 htorn]
      exact ⟨keepDone_result s 3, keepDone_mem s 3⟩

/-- Settles O50, one rule for each step: DEVQ_ENABLE, the spare commands as they are written and as they end, the
migration, the seam links' lanes, the corrected errors, the ageing monitors, the bead self-tests and the keep commands. -/
theorem reliabilityAndKeep : Obligations.ReliabilityAndKeep :=
  ⟨devqEnable_happens, spareCommand_refused, spareLane_happens, spareCell_happens, spareWay_happens, unfence_happens,
    spareChannel_happens, channelMigrationComplete_happens, spareCmdComplete_happens, seamFlitReplay_happens,
    seamLane_happens, seamEyeCheck_passes, correctedChannel_happens, correctedSlice_happens, correctedCell_happens,
    ageSample_happens, beadSelfTestStart_happens, beadSelfTestEnd_passes, beadSelfTestEnd_fails,
    beadSelfTestOverdue_happens, keepCommand_happens, keepCmdComplete_happens⟩

end Sys2Proof.Machine
end

section
/-! PROOFS. What housekeeping leaves as it was: the write-backs of the cell caches, the records of faults, the marks of
the blocks' intervals and the spills of registers (05 R133, R137, R140; 08 R226, R231; 09 R249 to R253). Of the groups a
write at the home copy changes only which monitors have matched (09 R258); regions, blocks, the bytes of the windows and
the functions' queues stay. -/
namespace Sys2Proof.Machine
open Sys2Proof

/-! ### Windows by their partition and cell (08 R229) -/

/-- The window's key: whose it is, and where. -/
def Window.isOf (part cell : Nat) (w : Window) : Bool := w.part == part && w.cell == cell

theorem window_eq (s : State) (part cell : Nat) :
    s.window part cell = (s.windows.find? (Window.isOf part cell)).getD (Window.empty part cell) := rfl

theorem window_key (s : State) (part cell : Nat) : (s.window part cell).part = part ∧ (s.window part cell).cell = cell := by
  rw [window_eq]
  cases h : s.windows.find? (Window.isOf part cell) with
  | none => exact ⟨rfl, rfl⟩
  | some w => simpa [Window.isOf] using List.find?_some h

@[simp] theorem window_part (s : State) (part cell : Nat) : (s.window part cell).part = part := (window_key s part cell).1
@[simp] theorem window_cell (s : State) (part cell : Nat) : (s.window part cell).cell = cell := (window_key s part cell).2

theorem window_congr {s t : State} (h : t.windows = s.windows) (part cell : Nat) : t.window part cell = s.window part cell := by
  rw [window_eq, window_eq, h]

/-- A change of every window that leaves each its key. -/
theorem find?_map_isOf {f : Window → Window} (hf : ∀ w, (f w).part = w.part ∧ (f w).cell = w.cell) (l : List Window)
    (part cell : Nat) : (l.map f).find? (Window.isOf part cell) = (l.find? (Window.isOf part cell)).map f := by
  rw [List.find?_map]
  congr 2
  funext w
  simp [Window.isOf, hf w]

theorem window_setWindow (s : State) (w : Window) (part cell : Nat) :
    (s.setWindow w).window part cell = if w.part = part ∧ w.cell = cell then w else s.window part cell := by
  have hself : Window.isOf part cell w = true ↔ w.part = part ∧ w.cell = cell := by simp [Window.isOf]
  unfold State.setWindow
  split
  · next hany =>
    rw [window_eq, find?_map_isOf (f := fun x => if x.part == w.part && x.cell == w.cell then w else x), window_eq]
    · cases hx : s.windows.find? (Window.isOf part cell) with
      | none =>
        rw [if_neg]
        · rfl
        · rintro ⟨rfl, rfl⟩
          obtain ⟨x, hmem, hkey⟩ := List.any_eq_true.mp hany
          exact absurd hkey (by simpa [Window.isOf] using List.find?_eq_none.mp hx x hmem)
      | some x =>
        obtain ⟨hp, hc⟩ : x.part = part ∧ x.cell = cell := by simpa [Window.isOf] using List.find?_some hx
        by_cases h : w.part = part ∧ w.cell = cell
        · simp [hp, hc, h]
        · rw [if_neg h]
          have : ¬(part = w.part ∧ cell = w.cell) := fun ⟨h1, h2⟩ => h ⟨h1.symm, h2.symm⟩
          simp [hp, hc, this]
    · intro x
      split
      · next hk => simp only [Bool.and_eq_true, beq_iff_eq] at hk; exact ⟨hk.1.symm, hk.2.symm⟩
      · exact ⟨rfl, rfl⟩
  · next hany =>
    rw [window_eq, window_eq, List.find?_append]
    by_cases h : w.part = part ∧ w.cell = cell
    · obtain ⟨rfl, rfl⟩ := h
      have hnone : s.windows.find? (Window.isOf w.part w.cell) = none :=
        List.find?_eq_none.mpr fun x hx hk => hany (List.any_eq_true.mpr ⟨x, hx, hk⟩)
      rw [hnone, if_pos ⟨rfl, rfl⟩]
      simp [hself]
    · rw [if_neg h]
      have hf : Window.isOf part cell w = false := Bool.eq_false_iff.mpr (mt hself.mp h)
      cases s.windows.find? (Window.isOf part cell) <;> simp [hf]

theorem window_modWindow {f : Window → Window} (hf : ∀ w, (f w).part = w.part ∧ (f w).cell = w.cell) (s : State)
    (p c part cell : Nat) : (s.modWindow p c f).window part cell =
      if p = part ∧ c = cell then f (s.window part cell) else s.window part cell := by
  obtain ⟨hp, hc⟩ := hf (s.window p c)
  rw [State.modWindow, window_setWindow, hp, hc, window_part, window_cell]
  split
  · next h => rw [h.1, h.2]
  · rfl

/-! ### Groups changed all at once -/

theorem group_congr {s t : State} (h : t.groups = s.groups) (i : Nat) : t.group i = s.group i := by
  rw [State.group, State.group, h]

theorem block_congr {s t : State} (h : t.blocks = s.blocks) (b : Nat) : t.block b = s.block b := by
  rw [State.block, State.block, h]

/-- A group number beyond the list of groups has no group. -/
theorem group_of_ge {s : State} {i : Nat} (h : s.groups.length ≤ i) : s.group i = Group.none :=
  List.getD_eq_default _ _ h

theorem group_map {s t : State} {f : Group → Group} (h : t.groups = s.groups.map f) {i : Nat} (hi : i < s.groups.length) :
    t.group i = f (s.group i) := by
  rw [State.group, State.group, h, List.getD_eq_getElem _ _ (by simpa using hi), List.getD_eq_getElem _ _ hi, List.getElem_map]

theorem block_modBlock (s : State) (b x : Nat) (f : Block → Block) :
    (s.modBlock b f).block x = if x = b ∧ b < s.blocks.length then f (s.block x) else s.block x := by
  simp only [State.block, List.getD_eq_getElem?_getD, modBlock_blocks, getD_modifyAt]

theorem block_modBlock_same {s : State} {b : Nat} (hb : b < s.blocks.length) (f : Block → Block) :
    (s.modBlock b f).block b = f (s.block b) := by rw [block_modBlock, if_pos ⟨rfl, hb⟩]

/-! ### Regions, blocks and the bytes of the windows -/

/-- Regions, the numbers of groups and blocks, and the functions' queues are as they were; of a block only the marks of its
interval and of its publications may have changed; and every window's bytes are the same. -/
structure KeepsBlocks (s t : State) : Prop where
  regions : t.regions = s.regions
  groupCount : t.groups.length = s.groups.length
  blockCount : t.blocks.length = s.blocks.length
  block : ∀ b, ∃ early rs tags, t.block b = { s.block b with early := early, rs := rs, tags := tags }
  store : ∀ p c, (t.window p c).mem = (s.window p c).mem
  queues : ∀ f : Nat, (t.hub.fns[f]?).map (·.queue) = (s.hub.fns[f]?).map (·.queue)

theorem KeepsBlocks.refl (s : State) : KeepsBlocks s s :=
  ⟨rfl, rfl, rfl, fun _ => ⟨_, _, _, rfl⟩, fun _ _ => rfl, fun _ => rfl⟩

theorem KeepsBlocks.trans {s t u : State} (h : KeepsBlocks s t) (k : KeepsBlocks t u) : KeepsBlocks s u where
  regions := k.regions.trans h.regions
  groupCount := k.groupCount.trans h.groupCount
  blockCount := k.blockCount.trans h.blockCount
  block b := by
    obtain ⟨_, _, _, h1⟩ := h.block b
    obtain ⟨_, _, _, h2⟩ := k.block b
    exact ⟨_, _, _, by rw [h2, h1]⟩
  store p c := (k.store p c).trans (h.store p c)
  queues f := (k.queues f).trans (h.queues f)

/-- The same with the groups: of each only which of its monitors have matched may have changed. -/
structure Housekeeping (s t : State) : Prop extends KeepsBlocks s t where
  group : ∀ i, ∃ mons, t.group i = { s.group i with mons := mons }

theorem Housekeeping.refl (s : State) : Housekeeping s s := ⟨.refl s, fun _ => ⟨_, rfl⟩⟩

theorem Housekeeping.trans {s t u : State} (h : Housekeeping s t) (k : Housekeeping t u) : Housekeeping s u :=
  ⟨h.toKeepsBlocks.trans k.toKeepsBlocks, fun i => by
    obtain ⟨_, h1⟩ := h.group i
    obtain ⟨_, h2⟩ := k.group i
    exact ⟨_, by rw [h2, h1]⟩⟩

theorem Housekeeping.foldl {α : Type} {step : State → α → State} (h : ∀ s a, Housekeeping s (step s a)) (l : List α)
    (s : State) : Housekeeping s (l.foldl step s) :=
  List.foldlRecOn l step (.refl s) fun t ht a _ => ht.trans (h t a)

/-- What a change leaves that touches neither groups nor blocks nor regions nor queues nor a window's bytes. -/
theorem Housekeeping.of_store {s t : State} (hg : t.groups = s.groups) (hb : t.blocks = s.blocks) (hr : t.regions = s.regions)
    (hf : t.hub.fns = s.hub.fns) (hw : ∀ p c, (t.window p c).mem = (s.window p c).mem) : Housekeeping s t :=
  ⟨⟨hr, by rw [hg], by rw [hb], fun b => ⟨_, _, _, block_congr hb b⟩, hw, fun _ => by rw [hf]⟩, fun i => ⟨_, group_congr hg i⟩⟩

theorem Housekeeping.of_eq {s t : State} (hg : t.groups = s.groups) (hb : t.blocks = s.blocks) (hr : t.regions = s.regions)
    (hf : t.hub.fns = s.hub.fns) (hw : t.windows = s.windows) : Housekeeping s t :=
  .of_store hg hb hr hf fun p c => by rw [window_congr hw]

/-- A change of windows that leaves each its key and its bytes. -/
def KeepsStore (f : Window → Window) : Prop := ∀ w, (f w).part = w.part ∧ (f w).cell = w.cell ∧ (f w).mem = w.mem

theorem mem_window_map {f : Window → Window} (hf : KeepsStore f) {s t : State} (h : t.windows = s.windows.map f) (p c : Nat) :
    (t.window p c).mem = (s.window p c).mem := by
  rw [window_eq, window_eq, h, find?_map_isOf fun w => ⟨(hf w).1, (hf w).2.1⟩]
  cases s.windows.find? (Window.isOf p c) with
  | none => rfl
  | some w => exact (hf w).2.2

theorem housekeeping_mapWindows {f : Window → Window} (hf : KeepsStore f) (s : State) :
    Housekeeping s { s with windows := s.windows.map f } :=
  .of_store rfl rfl rfl rfl fun p c => mem_window_map hf rfl p c

theorem housekeeping_setWindow {s : State} {w : Window} (h : w.mem = (s.window w.part w.cell).mem) :
    Housekeeping s (s.setWindow w) := by
  refine .of_store (setWindow_groups s w) (setWindow_blocks s w) (setWindow_regions s w) (by rw [setWindow_hub]) fun p c => ?_
  rw [window_setWindow]
  split
  · next hk => rw [h, hk.1, hk.2]
  · rfl

theorem housekeeping_modWindow {f : Window → Window} (hf : KeepsStore f) (s : State) (p c : Nat) :
    Housekeeping s (s.modWindow p c f) := by
  obtain ⟨hp, hc, hm⟩ := hf (s.window p c)
  exact housekeeping_setWindow (by rw [hm, hp, hc, window_part, window_cell])

theorem housekeeping_modQuad (s : State) (c q : Nat) (f : Quad → Quad) : Housekeeping s (s.modQuad c q f) :=
  .of_eq rfl rfl rfl rfl rfl
theorem housekeeping_modCtx (s : State) (c : Nat) (f : Context → Context) : Housekeeping s (s.modCtx c f) :=
  .of_eq rfl rfl rfl rfl rfl

theorem housekeeping_withHub {s : State} {f : Hub → Hub} (hf : (f s.hub).fns = s.hub.fns) : Housekeeping s (s.withHub f) :=
  .of_eq rfl rfl rfl hf rfl
theorem housekeeping_memPoison (s : State) (p : Poisons) : Housekeeping s { s with memPoison := p } :=
  .of_eq rfl rfl rfl rfl rfl

/-- A change of a block's marks. -/
theorem housekeeping_modBlock {f : Block → Block}
    (hf : ∀ x, ∃ early rs tags, f x = { x with early := early, rs := rs, tags := tags }) (s : State) (b : Nat) :
    Housekeeping s (s.modBlock b f) := by
  refine ⟨⟨rfl, rfl, length_modifyAt .., fun x => ?_, fun _ _ => rfl, fun _ => rfl⟩, fun _ => ⟨_, rfl⟩⟩
  rw [block_modBlock]
  split
  · exact hf _
  · exact ⟨_, _, _, rfl⟩

/-! ### Writes at the home copy (09 R258) -/

theorem housekeeping_homeWrite (s : State) (a : Nat) (b : List Byte) : Housekeeping s (s.homeWrite a b) := by
  have hgroups : (s.homeWrite a b).groups = s.groups ∨ (s.homeWrite a b).groups =
      s.groups.map fun g => { g with mons := g.mons.map (Monitor.afterWrite (s.mem.put a b) a b.length) } := by
    unfold State.homeWrite
    dsimp only
    split
    · exact .inr rfl
    · exact .inl rfl
  refine ⟨⟨rfl, ?_, rfl, fun _ => ⟨_, _, _, rfl⟩, fun _ _ => rfl, fun _ => by rw [homeWrite_hub]⟩, fun i => ?_⟩
  · rcases hgroups with h | h <;> simp [h]
  · rcases hgroups with h | h
    · exact ⟨_, group_congr h i⟩
    · by_cases hi : i < s.groups.length
      · exact ⟨_, group_map h hi⟩
      · exact ⟨_, by rw [group_of_ge (by simpa [h] using hi), group_of_ge (Nat.le_of_not_lt hi)]⟩

theorem housekeeping_homeRunStep (w : Window) (l : Nat) (m : BitVec 128) (x : State × Nat × List Byte) (i : Nat) :
    Housekeeping x.1 (homeRunStep w l m x i).1 := by
  have hrun : Housekeeping x.1 (if x.2.2.isEmpty then x.1 else x.1.homeWrite (l * 128 + x.2.1) x.2.2) := by
    split
    · exact .refl _
    · exact housekeeping_homeWrite _ _ _
  unfold homeRunStep
  split
  · exact .refl _
  · split <;> exact hrun

theorem housekeeping_homeRuns (s : State) (w : Window) (l : Nat) (m : BitVec 128) : Housekeeping s (homeRuns s w l m) :=
  List.foldlRecOn (motive := fun x : State × Nat × List Byte => Housekeeping s x.1) (List.range 129) (homeRunStep w l m)
    (.refl s) fun x hx i _ => hx.trans (housekeeping_homeRunStep w l m x i)

/-- A window with a line written back: the line is clean, and its entry in the FIFO a hole. -/
def Window.cleaned (l : Nat) (w : Window) : Window :=
  { w with
    lines := w.lines.map fun y => if y.line == l then { y with dirty := 0#128 } else y
    fifo := w.fifo.filter fun e => e != .line l }

theorem keepsStore_cleaned (l : Nat) : KeepsStore (Window.cleaned l) := fun _ => ⟨rfl, rfl, rfl⟩

/-- A line that is clean, or holds uncommitted bytes, is not written back. -/
theorem writeBack_of_not {s : State} {part cell l : Nat}
    (h : ∀ x, (s.window part cell).line? l = some x → x.dirty = 0#128 ∨ x.uncommitted ≠ 0#128) :
    s.writeBack part cell l = s := by
  unfold State.writeBack
  dsimp only
  split
  · rfl
  · next x hx => rw [if_pos (by simpa using h x hx)]

/-- A dirty line without uncommitted bytes goes home, run by run, with the poison of its sectors. -/
theorem writeBack_of_dirty {s : State} {part cell l : Nat} {x : CLine} (hx : (s.window part cell).line? l = some x)
    (hd : x.dirty ≠ 0#128) (hu : x.uncommitted = 0#128) : ∃ poison, s.writeBack part cell l =
      State.modWindow { homeRuns s (s.window part cell) l x.dirty with memPoison := poison } part cell (Window.cleaned l) := by
  unfold State.writeBack
  dsimp only
  rw [hx]
  dsimp only
  rw [if_neg (by simp [hd, hu])]
  exact ⟨_, rfl⟩

theorem housekeeping_writeBack (s : State) (part cell l : Nat) : Housekeeping s (s.writeBack part cell l) := by
  by_cases h : ∀ x, (s.window part cell).line? l = some x → x.dirty = 0#128 ∨ x.uncommitted ≠ 0#128
  · rw [writeBack_of_not h]
    exact .refl s
  · push Not at h
    obtain ⟨x, hx, hd, hu⟩ := h
    obtain ⟨poison, hw⟩ := writeBack_of_dirty hx hd hu
    rw [hw]
    exact ((housekeeping_homeRuns s _ l _).trans (housekeeping_memPoison _ poison)).trans
      (housekeeping_modWindow (keepsStore_cleaned l) _ part cell)

theorem housekeeping_drainLines (s : State) (part cell : Nat) (ls : List Nat) : Housekeeping s (s.drainLines part cell ls) :=
  .foldl (fun s l => housekeeping_writeBack s part cell l) ls s

theorem housekeeping_drainWindows (s : State) (sel : Window → Bool) : Housekeeping s (s.drainWindows sel) := by
  unfold State.drainWindows
  exact .foldl (fun s (w : Window) => housekeeping_drainLines s w.part w.cell _) _ s

theorem housekeeping_writeVaGo {s t : State} {c fuel va : Nat} {b : List Byte} (h : s.writeVaGo c fuel va b = .ok t) :
    Housekeeping s t := by
  induction fuel generalizing s va b with
  | zero =>
    obtain rfl := Except.ok.inj h
    exact .refl _
  | succ n ih =>
    unfold State.writeVaGo at h
    split at h
    · obtain rfl := Except.ok.inj h
      exact .refl _
    · dsimp only at h
      split at h
      · cases h
      · exact (housekeeping_homeWrite s _ _).trans (ih h)

theorem housekeeping_writeVa {s t : State} {c va : Nat} {b : List Byte} (h : s.writeVa c va b = .ok t) : Housekeeping s t :=
  housekeeping_writeVaGo h

/-! ### Interrupts and records (02 R43; 05 R133, R137) -/

theorem queue_vector (h : Hub) (f v g : Nat) :
    ((h.vector f v).1.fns[g]?).map (·.queue) = (h.fns[g]?).map (·.queue) := by
  have hq (x : HostFn) : (x.pend v).queue = x.queue := by
    obtain ⟨l, hl⟩ := pend_frame x v
    rw [hl]
  rw [vector_fns, getElem?_modifyAt]
  split
  · rw [Option.map_map]
    exact congrArg (Option.map · _) (funext hq)
  · rfl

theorem housekeeping_raise (s : State) (f v : Nat) : Housekeeping s (s.raise f v) := by
  refine ⟨⟨rfl, rfl, rfl, fun _ => ⟨_, _, _, rfl⟩, fun _ _ => rfl, fun g => ?_⟩, fun _ => ⟨_, rfl⟩⟩
  unfold State.raise
  dsimp only
  split
  · exact (queue_vector _ 0 5 g).trans (queue_vector _ f v g)
  · exact queue_vector _ f v g

theorem housekeeping_queued (s : State) (r : ErrRec) : Housekeeping s (s.queued r) := by
  unfold State.queued
  exact (housekeeping_homeWrite s _ _).trans (housekeeping_withHub rfl)

theorem housekeeping_devRecord (s : State) (r : ErrRec) : Housekeeping s (s.devRecord r) := by
  rw [devRecord_eq]
  split
  · exact .refl s
  · split
    · exact (housekeeping_queued s r).trans (housekeeping_raise _ 0 12)
    · exact housekeeping_withHub rfl

theorem housekeeping_ctxRecord (s : State) (r : ErrRec) : Housekeeping s (s.ctxRecord r) := by
  unfold State.ctxRecord
  dsimp only
  split
  · exact .refl s
  · split
    · exact housekeeping_devRecord s _
    · next t ht =>
      have hw : Housekeeping s t := by
        split at ht
        · cases ht
        · exact housekeeping_writeVa ht
      exact (hw.trans (housekeeping_modCtx _ _ _)).trans (housekeeping_raise _ _ _)

theorem housekeeping_faultRecord (s : State) (g : Group) (f : FaultInfo) (domain pc skid : Nat) :
    Housekeeping s (s.faultRecord g f domain pc skid) := housekeeping_ctxRecord s _

/-! ### The marks of intervals and publications (05 R140; 09 R253, R267) -/

theorem housekeeping_commitLines (s : State) (b : Nat) : Housekeeping s (s.commitLines b) := by
  refine housekeeping_mapWindows (fun w => ?_) s
  split <;> exact ⟨rfl, rfl, rfl⟩

theorem housekeeping_discardLines (s : State) (b : Nat) : Housekeeping s (s.discardLines b) := by
  refine housekeeping_mapWindows (fun w => ?_) s
  split <;> exact ⟨rfl, rfl, rfl⟩

theorem housekeeping_commitEarly (s : State) (b : Nat) : Housekeeping s (s.commitEarly b) := by
  unfold State.commitEarly
  dsimp only
  split
  · exact (housekeeping_commitLines s b).trans (housekeeping_modBlock (fun x => ⟨true, x.rs, x.tags, rfl⟩) _ _)
  · exact .refl s

theorem housekeeping_commitOthers (s : State) (part cell b pa n : Nat) : Housekeeping s (s.commitOthers part cell b pa n) :=
  .foldl housekeeping_commitEarly _ s

theorem housekeeping_publish (s : State) (b cell : Nat) (sel : RaceTag → Bool) : Housekeeping s (s.publish b cell sel) :=
  housekeeping_modBlock (fun x => ⟨x.early, _, _, rfl⟩) s b

theorem housekeeping_publishGroup (s : State) (i : Nat) : Housekeeping s (s.publishGroup i) := by
  unfold State.publishGroup
  exact (housekeeping_publish s _ _ _).trans (.foldl (fun s c => housekeeping_publish s _ c _) _ _)

/-! ### The place of a block that it gives up (06 R187; 08 R230) -/

theorem housekeeping_leavePlace (s : State) (b : Nat) : Housekeeping s (s.leavePlace b) := by
  have hwin : Housekeeping s { s with windows := s.windows.map fun w =>
      if w.part == (s.block b).part && (s.block b).cells.contains w.cell then
        let r := (s.block b).rank w.cell
        let offs := ((s.block b).segBase.drop r).take 1 ++ ((s.block b).shadowBase.drop r).take 1
        { w with allocs := w.allocs.filter fun a => !offs.contains a.1 }
      else w } := by
    refine housekeeping_mapWindows (fun w => ?_) s
    dsimp only
    split <;> exact ⟨rfl, rfl, rfl⟩
  unfold State.leavePlace
  dsimp only
  split
  · exact hwin
  · exact hwin.trans (housekeeping_modQuad _ _ _ _)
  · exact hwin

end Sys2Proof.Machine
end

section
/-! PROOFS. The watchdog, the budget of a gate call, sleeps, monitors, waking and arbitration (06 R182 to R184; 11 R300,
R309; 13 R347, R360). First what ends threads: of every other group the live lanes stay (07 R204), and a block that its
domain ends is terminated (05 R132). -/
namespace Sys2Proof.Machine
open Sys2Proof

/-! ### Live lanes -/

/-- Every group keeps its live lanes. -/
structure KeepsLive (s t : State) : Prop where
  count : t.groups.length = s.groups.length
  live : ∀ i, (t.group i).ctl.live = (s.group i).ctl.live

theorem KeepsLive.refl (s : State) : KeepsLive s s := ⟨rfl, fun _ => rfl⟩

theorem KeepsLive.trans {s t u : State} (h : KeepsLive s t) (k : KeepsLive t u) : KeepsLive s u :=
  ⟨k.count.trans h.count, fun i => (k.live i).trans (h.live i)⟩

theorem KeepsLive.foldl {α : Type} {step : State → α → State} (h : ∀ s a, KeepsLive s (step s a)) (l : List α) (s : State) :
    KeepsLive s (l.foldl step s) :=
  List.foldlRecOn l step (.refl s) fun t ht a _ => ht.trans (h t a)

theorem KeepsLive.of_eq {s t : State} (h : t.groups = s.groups) : KeepsLive s t :=
  ⟨by rw [h], fun i => by rw [group_congr h]⟩

theorem Housekeeping.keepsLive {s t : State} (h : Housekeeping s t) : KeepsLive s t :=
  ⟨h.groupCount, fun i => by obtain ⟨_, hi⟩ := h.group i; rw [hi]⟩

theorem keepsLive_mapGroups {f : Group → Group} (hf : ∀ g, (f g).ctl.live = g.ctl.live) (s : State) :
    KeepsLive s { s with groups := s.groups.map f } := by
  refine ⟨by simp, fun i => ?_⟩
  by_cases hi : i < s.groups.length
  · rw [group_map rfl hi, hf]
  · rw [group_of_ge (by simpa using hi), group_of_ge (Nat.le_of_not_lt hi)]

/-- A change of one group's state. -/
theorem group_modGroup (s : State) (i j : Nat) (f : Group → Group) :
    (s.modGroup i f).group j = if j = i ∧ i < s.groups.length then f (s.group i) else s.group j := by
  unfold State.modGroup
  by_cases hj : j = i
  · subst hj
    by_cases hi : j < s.groups.length
    · rw [group_setGroup hi, if_pos ⟨rfl, hi⟩]
    · rw [if_neg (fun h => hi h.2), group_of_ge (by simpa using hi), group_of_ge (Nat.le_of_not_lt hi)]
  · rw [group_setGroup_ne hj, if_neg fun h => hj h.1]

theorem group_modGroup_same {s : State} {i : Nat} (hi : i < s.groups.length) (f : Group → Group) :
    (s.modGroup i f).group i = f (s.group i) := group_setGroup hi _

theorem group_modGroup_ne {s : State} {i j : Nat} (h : j ≠ i) (f : Group → Group) : (s.modGroup i f).group j = s.group j :=
  group_setGroup_ne h _

@[simp] theorem modGroup_length (s : State) (i : Nat) (f : Group → Group) :
    (s.modGroup i f).groups.length = s.groups.length := setGroup_length s i _

theorem keepsLive_modGroup {f : Group → Group} (hf : ∀ g, (f g).ctl.live = g.ctl.live) (s : State) (i : Nat) :
    KeepsLive s (s.modGroup i f) := by
  refine ⟨modGroup_length s i f, fun j => ?_⟩
  rw [group_modGroup]
  split
  · next h => rw [hf, h.1]
  · rfl

theorem hit_live (g : Group) (w : Wake) : (g.hit w).ctl.live = g.ctl.live := by
  unfold Group.hit
  split <;> rfl

/-! ### The block barrier and barrier objects that threads leave (07 R203; 13 R354) -/

theorem keepsLive_takeShadow (s : State) (b : Nat) : KeepsLive s (s.takeShadow b) := by
  unfold State.takeShadow
  dsimp only
  split <;> exact .of_eq rfl

theorem keepsLive_barComplete (s : State) (b : Nat) : KeepsLive s (s.barComplete b) := by
  have hcommit (u : State) : KeepsLive u (if (s.block b).fdom == .rollback then u.commitLines b else u) := by
    split
    · exact (housekeeping_commitLines u b).keepsLive
    · exact .refl u
  have hdrain (u : State) : KeepsLive u (if (s.block b).fdom == .rollback && decide (1 < (s.block b).cells.length) then
      (s.block b).cells.foldl (fun s' c => s'.drainLines (s.block b).part c
        (allFifoLines (s'.window (s.block b).part c).fifo)) u else u) := by
    split
    · exact .foldl (fun s c => (housekeeping_drainLines s _ c _).keepsLive) _ u
    · exact .refl u
  unfold State.barComplete
  dsimp only
  split
  · refine ((hcommit s).trans (hdrain _)).trans (.trans (.trans ?_ (keepsLive_mapGroups ?_ _)) (keepsLive_takeShadow _ b))
    · exact .of_eq rfl
    · intro g
      split
      · exact hit_live g _
      · rfl
  · exact .refl s

theorem keepsLive_barDrop (s : State) (b : Nat) (ts : List (Nat × Nat)) : KeepsLive s (s.barDrop b ts) :=
  .trans (t := s.modBlock b fun x => ts.foldl Block.drop x) (.of_eq rfl) (keepsLive_barComplete _ b)

theorem keepsLive_setBobj (s : State) (b cell off : Nat) (o : BObj) : KeepsLive s (s.setBobj b cell off o) :=
  .of_eq (modWindow_groups ..)

theorem keepsLive_bobjStarve (s : State) (b cell off : Nat) : KeepsLive s (s.bobjStarve b cell off) := by
  unfold State.bobjStarve
  dsimp only
  split
  · refine keepsLive_mapGroups (fun g => ?_) s
    split
    · dsimp only
      split
      · exact hit_live g _
      · rfl
    · rfl
  · exact .refl s

theorem keepsLive_bobjLeave (s : State) (i off : Nat) (m : Lanes) : KeepsLive s (s.bobjLeave i off m) := by
  unfold State.bobjLeave
  dsimp only
  split
  · exact .refl s
  · refine ((keepsLive_setBobj s _ _ _ _).trans (keepsLive_modGroup ?_ _ i)).trans (keepsLive_bobjStarve _ _ _ _)
    exact fun _ => rfl

/-! ### The end of threads (07 R204; 13 R340) -/

theorem atReconv_live (g : Group) (now : Nat) : (g.atReconv now).ctl.live = g.ctl.live := by
  unfold Group.atReconv
  split
  · rfl
  · dsimp only
    split <;> simp

theorem unwind_live (now n : Nat) (g : Group) : (Group.unwind now n g).ctl.live = g.ctl.live := by
  induction n generalizing g with
  | zero => rfl
  | succ n ih =>
    unfold Group.unwind
    dsimp only
    split
    · rfl
    · split
      · simp
      · split
        · simp
        · rw [ih, atReconv_live]
          rfl

theorem keepsLive_palEnd (s : State) (i : Nat) : KeepsLive s (s.palEnd i) := by
  unfold State.palEnd
  dsimp only
  split
  · refine (housekeeping_modQuad s _ _ _).keepsLive.trans (keepsLive_modGroup ?_ _ i)
    exact fun _ => rfl
  · exact .refl s

theorem keepsLive_endGroup (s : State) (i : Nat) (tail : Bool) : KeepsLive s (s.endGroup i tail) := by
  unfold State.endGroup
  refine (keepsLive_modGroup ?_ s i).trans (keepsLive_palEnd _ i)
  exact fun _ => rfl

/-- The lanes that are left when those of `m` have lost their threads. -/
theorem and_not_and_self (live m : Lanes) : live &&& ~~~(m &&& live) = live &&& ~~~m := by
  apply BitVec.eq_of_getLsbD_eq
  intro j hj
  simp only [BitVec.getLsbD_and, BitVec.getLsbD_not, hj, decide_true, Bool.true_and]
  cases live.getLsbD j <;> cases m.getLsbD j <;> rfl

/-- EXIT of some lanes takes them, and no others, from the group's live lanes. -/
theorem endThreads_live {s : State} {i : Nat} (hi : i < s.groups.length) (m : Lanes) (tail : Bool) :
    ((s.endThreads i m tail).group i).ctl.live = (s.group i).ctl.live &&& ~~~m := by
  have hleft : KeepsLive s ((s.group i).asy.subs.foldl
      (fun (s' : State) (e : SubEntry) => s'.bobjLeave i e.off (m &&& (s.group i).ctl.live))
      (s.barDrop (s.group i).id.block ((m &&& (s.group i).ctl.live).toList.map (s.group i).thread))) :=
    (keepsLive_barDrop s _ _).trans (.foldl (fun s (e : SubEntry) => keepsLive_bobjLeave s i e.off _) _ _)
  unfold State.endThreads
  dsimp only
  revert hleft
  generalize (s.group i).asy.subs.foldl _ _ = u
  intro hleft
  have hu : i < u.groups.length := by rw [hleft.count]; exact hi
  have hlost : ((u.modGroup i fun g => g.loseLanes (m &&& (s.group i).ctl.live)).group i).ctl.live =
      (s.group i).ctl.live &&& ~~~m := by
    rw [group_modGroup_same hu, ← and_not_and_self, ← hleft.live i]
    rfl
  split
  · rw [(keepsLive_endGroup _ i tail).live, hlost]
  · rw [(keepsLive_modGroup (unwind_live _ 34) _ i).live, hlost]

/-! ### Faults that no handler takes (05 R132; 11 R292, R298) -/

/-- A class that no handler takes goes to the fault domain, outside gate calls. -/
theorem takeFault_of_domain {s : State} {i : Nat} {f : FaultInfo} (hgate : (s.group i).inGate = false)
    (hclass : handlerClass f.code = false) (lanes : Lanes) (trappc ipc next : DWord) :
    s.takeFault i f lanes trappc ipc next = s.domainFault i f lanes trappc := by
  have hcode : f.code ≠ 0x1C := by
    intro h
    rw [h] at hclass
    exact absurd hclass (by decide)
  have hto : (s.group i).toHandler f = false := by simp [Group.toHandler, hclass]
  unfold State.takeFault
  dsimp only
  rw [hgate, hto, if_neg Bool.false_ne_true, if_neg Bool.false_ne_true, if_neg hcode]

theorem housekeeping_blockGone (s : State) (b : Nat) : Housekeeping s (s.blockGone b) := by
  have hplace : Housekeeping s (if (s.block b).resident then (s.discardLines b).leavePlace b else s.discardLines b) := by
    split
    · exact (housekeeping_discardLines s b).trans (housekeeping_leavePlace _ b)
    · exact housekeeping_discardLines s b
  exact hplace.trans (.foldl (fun s g => housekeeping_modQuad s _ _ _) _ _)

theorem endBlock_terminated {s : State} {b : Nat} (hb : b < s.blocks.length) : ((s.endBlock b).block b).terminated = true := by
  have hcount : b < (s.blockGone b).blocks.length := by rw [(housekeeping_blockGone s b).blockCount]; exact hb
  unfold State.endBlock
  obtain ⟨must, hubc, hend⟩ := withdrawEnded_frame _
  rw [hend]
  exact congrArg Block.terminated (block_modBlock_same (s := s.blockGone b) hcount fun x =>
    { x with terminated := true, retired := true, resident := false, image := .none, rollPending := false,
             arrived := [], barA := 0, barE := 0 })

/-- In a report domain the stopped lanes end and the others live on; in another the block ends. -/
theorem domainFault_ends {s : State} {i : Nat} (hi : i < s.groups.length) (hb : (s.group i).id.block < s.blocks.length)
    (f : FaultInfo) (lanes : Lanes) (pc : DWord) :
    let t := s.domainFault i f lanes pc
    ((s.block (s.group i).id.block).fdom = .report → (t.group i).ctl.live = (s.group i).ctl.live &&& ~~~lanes) ∧
    ((s.block (s.group i).id.block).fdom ≠ .report → (t.block (s.group i).id.block).terminated = true) := by
  have hrec (dom : Nat) := housekeeping_faultRecord s (s.group i) f dom pc.toNat 0
  unfold State.domainFault
  dsimp only
  refine ⟨fun hrep => ?_, fun hrep => ?_⟩
  · have hr := hrec (if (s.block (s.group i).id.block).fdom == .report then 0 else 1)
    rw [if_pos (c := ((s.block (s.group i).id.block).fdom == .report) = true) (by rw [hrep]; rfl)]
    split
    · next h0 =>
      rw [hr.keepsLive.live, h0]
      exact (BitVec.and_allOnes).symm
    · rw [endThreads_live (by rw [hr.groupCount]; exact hi), hr.keepsLive.live]
  · have hne : ¬((s.block (s.group i).id.block).fdom == FDom.report) = true := by simpa using hrep
    rw [if_neg hne, if_neg hne]
    exact endBlock_terminated (by rw [(hrec 1).blockCount]; exact hb)

/-! ### The watchdog and the budget of a gate call (11 R300; 13 R347) -/

theorem watchdogExpiry_happens (i : Nat) : Happens (.watchdogExpiry i)
    (fun s => i < s.groups.length ∧ (s.group i).ctl.status = .held ∧ watchdogClocks ≤ (s.group i).ctl.heldClocks ∧
      (s.group i).trap.callee = none ∧ (s.group i).inGate = false ∧ (s.group i).id.block < s.blocks.length)
    fun s t => ((s.block (s.group i).id.block).fdom = .report →
        (t.group i).ctl.live = (s.group i).ctl.live &&& ~~~(s.group i).ctl.act) ∧
      ((s.block (s.group i).id.block).fdom ≠ .report → (t.block (s.group i).id.block).terminated = true) := by
  refine .of_next (fun s => rfl) fun s _ ⟨hi, hheld, hclocks, hcallee, hgate, hb⟩ => ?_
  let u : State := s.modGroup i fun g => g.withCtl fun c => { c with heldClocks := 0 }
  have hgroup : u.group i = (s.group i).withCtl fun c => { c with heldClocks := 0 } := group_modGroup_same hi _
  have hends := domainFault_ends (s := u) (i := i) (by simpa [u] using hi) (by rw [hgroup]; exact hb) (.here 0x1B 0)
    (s.group i).ctl.act (s.group i).ctl.pc
  have hdue : ((s.group i).ctl.status == .held && decide (watchdogClocks ≤ (s.group i).ctl.heldClocks) &&
      (s.group i).trap.callee.isNone) = true := by simp [hheld, hclocks, hcallee]
  rw [if_pos hdue, takeFault_of_domain (by rw [hgroup]; exact hgate) rfl]
  rw [hgroup] at hends
  exact hends

theorem gateBudgetExpiry_happens (i : Nat) (l : GateLevel) : HappensTo (.gateBudgetExpiry i) i
    (fun s g => l ∈ g.asy.gates ∧ l.start + 1024 * l.budget ≤ s.cyc g.loc.cell ∧ g.trap.callee = none)
    fun _ g h => SameRegs g h ∧ h.ctl.status = .held ∧ h.ctl.pc = g.ctl.pc ∧
      h.trap.callee = some (.here 0x1B 0, g.ctl.pc, 0) := by
  refine .of_next (fun s => rfl) fun s _ ⟨hi, hl, hspent, hcallee⟩ => ?_
  have hdue : ((s.group i).asy.gates.any (fun l => decide (l.start + 1024 * l.budget ≤ s.cyc (s.group i).loc.cell)) &&
      (s.group i).trap.callee.isNone) = true := by
    simp only [hcallee, Option.isNone_none, Bool.and_true]
    exact List.any_eq_true.mpr ⟨l, hl, decide_eq_true hspent⟩
  have hgate : (s.group i).inGate = true := by
    unfold Group.inGate
    cases hg : (s.group i).asy.gates with
    | nil => rw [hg] at hl; cases hl
    | cons => rfl
  rw [if_pos hdue]
  unfold State.takeFault
  dsimp only
  rw [if_pos hgate]
  exact ⟨_, onlyGroup_setGroup hi _, ⟨rfl, rfl, rfl, rfl⟩, rfl, rfl, rfl⟩

/-! ### Waking (06 R182, R186) -/

@[simp] theorem wakeUp_wakeHit (g : Group) (now : Nat) : (g.wakeUp now).ctl.wakeHit = g.ctl.wakeHit := by
  unfold Group.wakeUp; split <;> rfl
@[simp] theorem wakeUp_missed (g : Group) (now : Nat) : (g.wakeUp now).ctl.missed = g.ctl.missed := by
  unfold Group.wakeUp; split <;> rfl
@[simp] theorem wakeUp_mons (g : Group) (now : Nat) : (g.wakeUp now).mons = g.mons := by
  unfold Group.wakeUp; split <;> rfl

theorem wakes_wakeUp_self (g : Group) (now : Nat) : Wakes g (g.wakeUp now) := by
  unfold Group.wakeUp
  split
  · next h => exact ⟨⟨rfl, rfl, rfl, rfl⟩, by rw [if_pos h]; rfl, rfl, rfl, rfl, rfl⟩
  · next h => exact ⟨⟨rfl, rfl, rfl, rfl⟩, by rw [if_neg h]; rfl, rfl, rfl, rfl, rfl⟩

/-- A group whose wake condition has been noted, and its monitors with it, wakes as it does without that. -/
theorem wakes_wakeUp (g : Group) (hit : Bool) (missed : Option Nat) (mons : List Monitor) (now : Nat) :
    Wakes g (({ g.withCtl fun c => { c with wakeHit := hit, missed := missed } with mons := mons } : Group).wakeUp now) := by
  obtain ⟨⟨hregs, hsr, hid, hloc⟩, hrest⟩ :=
    wakes_wakeUp_self ({ g.withCtl fun c => { c with wakeHit := hit, missed := missed } with mons := mons } : Group) now
  exact ⟨⟨hregs, hsr, hid, hloc⟩, hrest⟩

theorem promiseKept_of_done {g : Group} {t : Nat} (h : ∀ o ∈ g.asy.ops, o.cls = 0 → o.promise ≤ t → o.done = true) :
    g.promiseKept t = true := by
  simpa [Group.promiseKept] using h

theorem sleepExpiry_happens (i t : Nat) (promises : Bool) : HappensTo (.sleepExpiry i) i
    (fun s g => g.ctl.status = .blocked (.sleep t promises false) ∧ t ≤ s.cyc g.loc.cell ∧
      (promises = false ∨ ∀ o ∈ g.asy.ops, o.cls = 0 → o.promise ≤ t → o.done = true))
    fun _ g h => Wakes g h ∧ h.ctl.wakeHit = true ∧ h.ctl.missed = none := by
  refine .of_next (fun s => rfl) fun s _ ⟨hi, hst, hle, hkept⟩ => ?_
  have hok : (!promises || (s.group i).promiseKept t) = true := by
    rcases hkept with rfl | hops
    · rfl
    · rw [promiseKept_of_done hops, Bool.or_true]
  rw [hst]
  dsimp only
  rw [if_neg (Nat.not_lt.mpr hle), if_pos hok]
  exact ⟨_, onlyGroup_setGroup hi _, wakes_wakeUp (s.group i) true none (s.group i).mons _, wakeUp_wakeHit _ _,
    wakeUp_missed _ _⟩

/-! ### Monitors (13 R360; 09 R258) -/

/-- A group blocked at WAITC one of whose monitors has matched, and which no hold-up save keeps from waking. -/
theorem monWake_of_matched {s : State} {i : Nat} {m : Monitor} (hi : i < s.groups.length)
    (hsave : s.hub.save = none ∨ (s.group i).id.pfail = true) (hst : (s.group i).ctl.status = .blocked .waitc)
    (hm : m ∈ (s.group i).mons) (hmatch : m.matched = true) : ∃ h, OnlyGroup s (s.monWake i) i h ∧
      Wakes (s.group i) h ∧ h.ctl.wakeHit = true ∧ h.mons = [] := by
  have hcond : ((s.hub.save.isNone || (s.group i).id.pfail) && (s.group i).ctl.status == .blocked .waitc &&
      (s.group i).mons.any (·.matched)) = true := by
    have hany : (s.group i).mons.any (·.matched) = true := List.any_eq_true.mpr ⟨m, hm, hmatch⟩
    rcases hsave with h | h <;> simp [h, hst, hany]
  unfold State.monWake
  refine ⟨_, onlyGroup_setGroup hi _, ?_⟩
  dsimp only
  rw [if_pos hcond]
  exact ⟨wakes_wakeUp (s.group i) true (s.group i).ctl.missed [] _, wakeUp_wakeHit _ _, wakeUp_mons _ _⟩

theorem monitorMatch_happens (i : Nat) (m : Monitor) : HappensTo (.monitorMatch i) i
    (fun s g => (s.hub.save = none ∨ g.id.pfail = true) ∧ g.ctl.status = .blocked .waitc ∧ m ∈ g.mons ∧ m.matched = true)
    fun _ g h => Wakes g h ∧ h.ctl.wakeHit = true ∧ h.mons = [] :=
  .of_next (fun _ => rfl) fun _ _ ⟨hi, hsave, hst, hm, hmatch⟩ => monWake_of_matched hi hsave hst hm hmatch

/-- A change of one group and then of that group alone is a change of that group alone. -/
theorem OnlyGroup.after_modGroup {s t : State} {i : Nat} {f : Group → Group} {h : Group} (hi : i < s.groups.length)
    (ht : OnlyGroup (s.modGroup i f) t i h) : OnlyGroup s t i h := by
  have hsame : t = s.setGroup i h := ht.same.trans (setGroup_setGroup s i _ h)
  rw [hsame]
  exact onlyGroup_setGroup hi h

theorem monitorPoll_happens (i : Nat) (m : Monitor) : HappensTo (.monitorPoll i) i
    (fun s g => (s.hub.save = none ∨ g.id.pfail = true) ∧ g.ctl.status = .blocked .waitc ∧ m ∈ g.mons ∧ m.polled = true ∧
      monCond m.cond (if m.wide then 64 else 32) m.value (s.mem.value m.pa (if m.wide then 8 else 4)) = true)
    fun _ g h => Wakes g h ∧ h.ctl.wakeHit = true ∧ h.mons = [] := by
  refine .of_next (fun _ => rfl) fun s _ ⟨hi, hsave, hst, hm, hpolled, hcond⟩ => ?_
  have hwidth : 8 * (if m.wide then 8 else 4) = if m.wide then 64 else 32 := by split <;> rfl
  dsimp only
  generalize hread : (fun m : Monitor => if m.polled && monCond m.cond (8 * (if m.wide then 8 else 4)) m.value
    (s.mem.value m.pa (if m.wide then 8 else 4)) then { m with matched := true } else m) = read
  have hmatch : (read m).matched = true := by
    rw [← hread]
    dsimp only
    rw [hwidth, hpolled, hcond]
    rfl
  have hgroup : (s.modGroup i fun g => { g with mons := g.mons.map read }).group i =
      { s.group i with mons := (s.group i).mons.map read } := group_modGroup_same hi _
  obtain ⟨h, honly, ⟨⟨hregs, hsr, hid, hloc⟩, hrest⟩, hhit⟩ := monWake_of_matched
    (s := s.modGroup i fun g => { g with mons := g.mons.map read }) (i := i) (m := read m) (by simpa using hi)
    (by rw [hgroup]; exact hsave) (by rw [hgroup]; exact hst) (by rw [hgroup]; exact List.mem_map_of_mem hm) hmatch
  rw [hgroup] at hregs hsr hid hloc hrest
  exact ⟨h, honly.after_modGroup hi, ⟨⟨hregs, hsr, hid, hloc⟩, hrest⟩, hhit⟩

theorem groupWake_happens (i : Nat) (w : Wake) : HappensTo (.groupWake i) i
    (fun s g => (s.hub.save = none ∨ g.id.pfail = true) ∧ g.ctl.status = .blocked w ∧ w ≠ .slice ∧ w ≠ .kstep ∧
      (g.ctl.wakeHit = true ∨ w = .yield))
    fun _ g h => Wakes g h ∧ h.ctl.wakeHit = true := by
  refine .of_next (fun _ => rfl) fun s _ ⟨hi, hsave, hst, hslice, hkstep, hhit⟩ => ?_
  have hawake : ¬((s.hub.save.isSome && !(s.group i).id.pfail) = true) := by
    rcases hsave with h | h <;> simp [h]
  have hcan : s.canWake (s.group i) = true := by
    unfold State.canWake
    rw [hst]
    split
    · next h => exact absurd (Status.blocked.inj h) hslice
    · next h => exact absurd (Status.blocked.inj h) hkstep
    · next v _ _ h =>
      obtain rfl := Status.blocked.inj h
      rcases hhit with h | rfl
      · rw [h, Bool.true_or]
      · exact Bool.or_true _
    · next h => exact absurd rfl (h w)
  rw [if_neg hawake, if_pos hcan]
  refine ⟨_, onlyGroup_setGroup hi _, wakes_wakeUp (s.group i) _ (s.group i).ctl.missed (s.group i).mons _, ?_⟩
  rw [wakeUp_wakeHit, withCtl_ctl, hst]
  rcases hhit with h | rfl
  · rw [h, Bool.true_or]
  · exact Bool.or_true _

/-! ### The choice among ready groups (06 R183, R184) -/

/-- The order of choice: promoted groups first, then by priority, by the time of becoming ready, by slot. -/
theorem before_iff (s : State) (a b : Group) : s.before a b = true ↔
    (a.ctl.promoted = true ∧ b.ctl.promoted = false) ∨ (a.ctl.promoted = b.ctl.promoted ∧
      (s.priorityOf b < s.priorityOf a ∨ (s.priorityOf a = s.priorityOf b ∧
        (a.ctl.readyTime < b.ctl.readyTime ∨ (a.ctl.readyTime = b.ctl.readyTime ∧ a.loc.slot < b.loc.slot))))) := by
  unfold State.before
  by_cases hp : a.ctl.promoted = b.ctl.promoted
  · rw [if_neg (by simpa using hp)]
    split
    · simp [hp]; omega
    · split
      · simp [hp]; omega
      · simp [hp]; omega
  · rw [if_pos (by simpa using hp)]
    cases ha : a.ctl.promoted <;> cases hb : b.ctl.promoted <;> simp_all

theorem before_asymm {s : State} {a b : Group} (h : s.before a b = true) : s.before b a = false := by
  rw [Bool.eq_false_iff, Ne, before_iff]
  rw [before_iff] at h
  rcases h with ⟨ha, hb⟩ | ⟨hp, h⟩
  · simp [ha, hb]
  · rintro (⟨hb, ha⟩ | ⟨-, h'⟩)
    · rw [ha, hb] at hp; cases hp
    · omega

theorem before_irrefl (s : State) (g : Group) : s.before g g = false := by
  by_contra h
  exact h (before_asymm (Bool.eq_true_of_not_eq_false h))

/-- A group that none of two in a chain comes behind comes behind neither end. -/
theorem not_before_trans {s : State} {a b c : Group} (h : s.before a b = false) (k : s.before b c = false) :
    s.before a c = false := by
  rw [Bool.eq_false_iff, Ne, before_iff] at *
  cases ha : a.ctl.promoted <;> cases hb : b.ctl.promoted <;> cases hc : c.ctl.promoted <;> simp_all <;> omega

/-- The group with number `i` or the one chosen so far: the earlier of the two, the one chosen so far where they are equal. -/
def State.better (s : State) (best : Option Nat) (i : Nat) : Option Nat :=
  match best with
  | .none => some i
  | some j => if s.before (s.group i) (s.group j) then some i else some j

/-- Once one is chosen, one stays chosen. -/
theorem foldl_better_some (s : State) (l : List Nat) (a : Nat) : ∃ x, l.foldl s.better (some a) = some x := by
  induction l generalizing a with
  | nil => exact ⟨a, rfl⟩
  | cons y l ih =>
    rw [List.foldl_cons, State.better]
    split
    · exact ih y
    · exact ih a

/-- Nothing in a list comes before what is chosen from it. -/
theorem foldl_better {s : State} (l : List Nat) : ∀ {w : Nat}, l.foldl s.better none = some w →
    w ∈ l ∧ ∀ j ∈ l, s.before (s.group j) (s.group w) = false := by
  induction l using List.reverseRecOn with
  | nil => intro w h; cases h
  | append_singleton l i ih =>
    intro w h
    rw [List.foldl_append, List.foldl_cons, List.foldl_nil] at h
    cases hbest : l.foldl s.better none with
    | none =>
      rw [hbest] at h
      obtain rfl := Option.some.inj h
      cases l with
      | nil => simp [before_irrefl]
      | cons a l =>
        obtain ⟨x, hx⟩ := foldl_better_some s l a
        rw [List.foldl_cons, State.better, hx] at hbest
        cases hbest
    | some j =>
      obtain ⟨hj, hmin⟩ := ih hbest
      rw [hbest, State.better] at h
      split at h
      · next hlt =>
        obtain rfl := Option.some.inj h
        refine ⟨by simp, fun x hx => ?_⟩
        rcases List.mem_append.mp hx with hx | hx
        · exact not_before_trans (hmin x hx) (before_asymm hlt)
        · rw [List.mem_singleton.mp hx]
          exact before_irrefl s _
      · next hge =>
        obtain rfl := Option.some.inj h
        refine ⟨by simp [hj], fun x hx => ?_⟩
        rcases List.mem_append.mp hx with hx | hx
        · exact hmin x hx
        · rw [List.mem_singleton.mp hx]
          exact Bool.eq_false_iff.mpr hge

/-- A group that contends for a unit: it stands there, is ready and may issue. -/
def State.contends (s : State) (cell unit j : Nat) : Prop :=
  j < s.groups.length ∧ (s.group j).onUnit cell unit = true ∧ (s.group j).ctl.status = .ready ∧ s.mayIssue (s.group j) = true

theorem contends_of_chosen {s : State} {cell unit w : Nat} (h : s.chosen cell unit = some w) : s.contends cell unit w ∧
    ∀ j, s.contends cell unit j → s.before (s.group j) (s.group w) = false := by
  unfold State.chosen at h
  dsimp only at h
  split at h
  · cases h
  · obtain ⟨hw, hmin⟩ := foldl_better _ h
    have hmem (j : Nat) : j ∈ ((List.range s.groups.length).filter fun i => (s.group i).onUnit cell unit).filter
        (fun i => (s.group i).ctl.status == .ready && s.mayIssue (s.group i)) ↔ s.contends cell unit j := by
      simp [State.contends, and_left_comm, and_comm]
    exact ⟨(hmem w).mp hw, fun j hj => hmin j ((hmem j).mpr hj)⟩

theorem arbitration_happens (cell unit w : Nat) :
    Happens (.arbitration cell unit) (fun s => s.chosen cell unit = some w) fun s t =>
    let here (j : Nat) : Prop := j < s.groups.length ∧ (s.group j).onUnit cell unit = true ∧
      (s.group j).ctl.status = .ready ∧ s.mayIssue (s.group j) = true
    here w ∧ (t.group w).ctl.status = .running ∧ (t.group w).ctl.loss = 0 ∧ (t.group w).ctl.promoted = false ∧
    t.mem = s.mem ∧ t.groups.length = s.groups.length ∧
    (∀ j, j ≠ w → here j → s.before (s.group j) (s.group w) = false ∧ (t.group j).ctl.status = .ready ∧
      (t.group j).ctl.loss = (s.group j).ctl.loss + 1 ∧ (32 ≤ (s.group j).ctl.loss + 1 → (t.group j).ctl.promoted = true)) ∧
    ∀ j, j ≠ w → ¬ here j → t.group j = s.group j := by
  refine .of_next (fun _ => rfl) fun s _ hw => ?_
  obtain ⟨hhere, hmin⟩ := contends_of_chosen hw
  rw [hw]
  have hgroup {j : Nat} (hj : j < s.groups.length) : State.group { s with
      groups := (List.range s.groups.length).map (s.arbitrated cell unit w) } j = s.arbitrated cell unit w j := by
    simp [State.group, hj]
  have hwon : s.arbitrated cell unit w w = (s.group w).withCtl fun c =>
      { c with status := .running, loss := 0, promoted := false, runCount := 0 } := by simp [State.arbitrated]
  refine ⟨hhere, ?_, ?_, ?_, rfl, by simp, fun j hne hj => ⟨hmin j hj, ?_⟩, fun j hne hj => ?_⟩
  · rw [hgroup hhere.1, hwon]; rfl
  · rw [hgroup hhere.1, hwon]; rfl
  · rw [hgroup hhere.1, hwon]; rfl
  · obtain ⟨hlt, hunit, hready, hissue⟩ := hj
    have hlost : s.arbitrated cell unit w j = (s.group j).withCtl fun c =>
        { c with loss := c.loss + 1, promoted := c.promoted || decide (32 ≤ c.loss + 1) } := by
      simp [State.arbitrated, hne, hunit, hready, hissue]
    rw [hgroup hlt, hlost]
    exact ⟨hready, rfl, fun h => by rw [withCtl_ctl, decide_eq_true h, Bool.or_true]⟩
  · by_cases hlt : j < s.groups.length
    · have hnot : ((s.group j).onUnit cell unit && (s.group j).ctl.status == .ready && s.mayIssue (s.group j)) = false := by
        rw [Bool.eq_false_iff]
        intro h
        simp only [Bool.and_eq_true, beq_iff_eq] at h
        exact hj ⟨hlt, h.1.1, h.1.2, h.2⟩
      rw [hgroup hlt]
      simp [State.arbitrated, hne, hnot]
    · rw [group_of_ge (by simpa using hlt), group_of_ge (Nat.le_of_not_lt hlt)]

/-- Settles O39, one rule for each step: the watchdog, the budget of a gate call, the sleep, the monitors, waking and
arbitration. -/
theorem timersWakesAndArbitration : Obligations.TimersWakesAndArbitration :=
  ⟨watchdogExpiry_happens, gateBudgetExpiry_happens, sleepExpiry_happens, monitorMatch_happens, monitorPoll_happens,
    groupWake_happens, arbitration_happens⟩

end Sys2Proof.Machine
end

section
/-! PROOFS. Slices and the first placement of a block (06 R173 to R176, R185, R186; 07 R192). First the slice wait that is
called for, and what a plan and the ground that it prepares leave: groups, blocks and regions. -/
namespace Sys2Proof.Machine
open Sys2Proof

/-! ### The slice wait that is called for (06 R186) -/

theorem callSlice_frame (g : Group) : ∃ ctl, g.callSlice = { g with ctl := ctl } ∧ ctl.sliceWait = true ∧
    ctl.live = g.ctl.live ∧ ctl.pc = g.ctl.pc := by
  unfold Group.callSlice
  dsimp only
  split <;> exact ⟨_, rfl, rfl, rfl, rfl⟩

/-- A ready group outside gate calls takes the wait at once. -/
theorem callSlice_of_ready {g : Group} (hready : g.ctl.status = .ready) (hgate : g.inGate = false) :
    g.callSlice.ctl.status = .blocked .slice := by
  unfold Group.callSlice
  dsimp only
  have hnow : ((g.withCtl fun c => { c with sliceWait := true }).sliceDue && g.ctl.status == .ready) = true := by
    have hdue : (g.withCtl fun c => { c with sliceWait := true }).sliceDue = !g.inGate := Bool.true_and _
    rw [hdue, hgate, hready]
    rfl
  rw [if_pos hnow]
  rfl

theorem group_callSlices {s : State} {i : Nat} (hi : i < s.groups.length) : s.callSlices.group i =
    if (s.group i).standing && !(s.group i).ctl.sliceWait && s.waitDue (s.group i).id.block then (s.group i).callSlice
    else s.group i :=
  group_map (f := fun g => if g.standing && !g.ctl.sliceWait && s.waitDue g.id.block then g.callSlice else g) rfl hi

theorem callSlices_frame (s : State) (i : Nat) : ∃ ctl, s.callSlices.group i = { s.group i with ctl := ctl } ∧
    ctl.live = (s.group i).ctl.live ∧ ctl.pc = (s.group i).ctl.pc := by
  by_cases hi : i < s.groups.length
  · rw [group_callSlices hi]
    split
    · obtain ⟨ctl, h, -, hlive, hpc⟩ := callSlice_frame (s.group i)
      exact ⟨ctl, h, hlive, hpc⟩
    · exact ⟨_, rfl, rfl, rfl⟩
  · have hlen : s.callSlices.groups.length = s.groups.length := List.length_map ..
    exact ⟨_, by rw [group_of_ge (by omega), group_of_ge (by omega)], rfl, rfl⟩

/-- A resident block on a cell on which its region's slice has ended is called out, in a gang as well. -/
theorem waitDue_of_ended {s : State} {b c : Nat} {x : Region} (hr : s.regions[(s.block b).region]? = some x)
    (hb : b < s.blocks.length) (hres : (s.block b).resident = true) (hc : c ∈ (s.block b).cells) (he : c ∈ x.sliceEnded) :
    s.waitDue b = true := by
  have hall : ∃ c ∈ (s.block b).cells, c ∈ x.sliceEnded := ⟨c, hc, he⟩
  unfold State.waitDue
  rw [hr]
  dsimp only
  split
  · exact List.any_eq_true.mpr ⟨b, by simpa using hb, by simp [hres, hall]⟩
  · simp [hres, hall]

/-! ### Slices that end and are renewed (06 R185, R186) -/

theorem region_modRegion {s : State} {r : Nat} {x : Region} (h : s.regions[r]? = some x) (f : Region → Region) :
    (s.modRegion r f).regions[r]? = some (f x) := by
  rw [modRegion_regions, getElem?_modifyAt, if_pos rfl, h]
  rfl

theorem sliceEnd_renews (r c : Nat) (x : Region) : Happens (.sliceEnd r c)
    (fun s => s.regions[r]? = some x ∧ c ∈ x.sliceEnded ∧ s.waitsFor r c false = false)
    fun _ t => ∃ x', t.regions[r]? = some x' ∧ c ∉ x'.sliceEnded := by
  refine .of_next (fun _ => rfl) fun s _ ⟨hx, hc, hwait⟩ => ?_
  rw [hx]
  dsimp only
  rw [if_pos (by simpa using hc), hwait, if_neg Bool.false_ne_true]
  exact ⟨_, region_modRegion hx _, by simp⟩

theorem sliceEnd_ends (r c : Nat) (x : Region) : Happens (.sliceEnd r c)
    (fun s => s.regions[r]? = some x ∧ c ∉ x.sliceEnded ∧ x.slice ≤ x.chargeOn c ∧ s.waitsFor r c false = true)
    fun s t => (∃ x', t.regions[r]? = some x' ∧ c ∈ x'.sliceEnded) ∧
      ∀ i, i < s.groups.length → (s.group i).inSlot = true → (s.block (s.group i).id.block).region = r →
        (s.block (s.group i).id.block).resident = true → (s.group i).id.block < s.blocks.length →
        c ∈ (s.block (s.group i).id.block).cells → (s.group i).ctl.status ≠ .ended → (s.group i).ctl.status ≠ .endedTail →
        (t.group i).ctl.sliceWait = true ∧ (t.group i).regs = (s.group i).regs ∧
        ((s.group i).ctl.status = .ready → (s.group i).ctl.sliceWait = false → (s.group i).inGate = false →
          (t.group i).ctl.status = .blocked .slice) := by
  refine .of_next (fun _ => rfl) fun s _ ⟨hx, hc, hspent, hwait⟩ => ?_
  rw [hx]
  dsimp only
  rw [if_neg (by simpa using hc), if_pos (decide_eq_true hspent), hwait, if_pos rfl]
  unfold State.endSlice
  generalize hu : (s.modRegion r fun r =>
    { r with sliceEnded := c :: r.sliceEnded, charge := r.charge.filter fun x => x.1 != c }) = u
  have hended : ∃ x', u.regions[r]? = some x' ∧ c ∈ x'.sliceEnded := by
    rw [← hu]
    exact ⟨_, region_modRegion hx _, List.mem_cons_self⟩
  have hgroup (i : Nat) : u.group i = s.group i := by rw [← hu]; rfl
  have hblock (b : Nat) : u.block b = s.block b := by rw [← hu]; rfl
  refine ⟨hended, fun i hi hslot hreg hres hb hcell hne hnet => ?_⟩
  obtain ⟨x', hx', hin⟩ := hended
  have hdue : u.waitDue (s.group i).id.block = true :=
    waitDue_of_ended (x := x') (by rw [hblock, hreg]; exact hx') (by rw [← hu]; exact hb) (by rw [hblock]; exact hres)
      (by rw [hblock]; exact hcell) hin
  have hstand : (s.group i).standing = true := by simp [Group.standing, hslot, hne, hnet]
  rw [group_callSlices (by rw [← hu]; exact hi), hgroup, hstand, hdue]
  obtain ⟨ctl, hcall, hset, -, -⟩ := callSlice_frame (s.group i)
  cases hsw : (s.group i).ctl.sliceWait
  · rw [if_pos (by rfl)]
    exact ⟨by rw [hcall]; exact hset, by rw [hcall], fun hready _ hgate => callSlice_of_ready hready hgate⟩
  · rw [if_neg (by decide)]
    exact ⟨hsw, rfl, fun _ h => absurd h (by decide)⟩

theorem chargeOn_filter (x : Region) (c : Nat) :
    ({ x with charge := x.charge.filter fun z => z.1 != c } : Region).chargeOn c = 0 := by
  have hnone : (x.charge.filter fun z => z.1 != c).find? (fun z => z.1 == c) = none :=
    List.find?_eq_none.mpr fun z hz => by simpa using (List.mem_filter.mp hz).2
  unfold Region.chargeOn
  dsimp only
  rw [hnone]
  rfl

theorem sliceEnd_alone (r c : Nat) (x : Region) : Happens (.sliceEnd r c)
    (fun s => s.regions[r]? = some x ∧ c ∉ x.sliceEnded ∧ x.slice ≤ x.chargeOn c ∧ s.waitsFor r c false = false)
    fun s t => t.groups = s.groups ∧ ∃ x', t.regions[r]? = some x' ∧ x'.chargeOn c = 0 := by
  refine .of_next (fun _ => rfl) fun s _ ⟨hx, hc, hspent, hwait⟩ => ?_
  rw [hx]
  dsimp only
  rw [if_neg (by simpa using hc), if_pos (decide_eq_true hspent), hwait, if_neg Bool.false_ne_true]
  exact ⟨rfl, _, region_modRegion hx _, chargeOn_filter x c⟩

/-! ### What a plan takes (06 R173, R174) -/

/-- Groups, blocks and regions are as they were. -/
structure KeepsPlaced (s t : State) : Prop where
  groups : t.groups = s.groups
  blocks : t.blocks = s.blocks
  regions : t.regions = s.regions

theorem KeepsPlaced.refl (s : State) : KeepsPlaced s s := ⟨rfl, rfl, rfl⟩

theorem KeepsPlaced.trans {s t u : State} (h : KeepsPlaced s t) (k : KeepsPlaced t u) : KeepsPlaced s u :=
  ⟨k.groups.trans h.groups, k.blocks.trans h.blocks, k.regions.trans h.regions⟩

theorem KeepsPlaced.foldl {α : Type} {step : State → α → State} (h : ∀ s a, KeepsPlaced s (step s a)) (l : List α)
    (s : State) : KeepsPlaced s (l.foldl step s) :=
  List.foldlRecOn l step (.refl s) fun t ht a _ => ht.trans (h t a)

theorem keepsPlaced_setWindow (s : State) (w : Window) : KeepsPlaced s (s.setWindow w) :=
  ⟨setWindow_groups s w, setWindow_blocks s w, setWindow_regions s w⟩

theorem keepsPlaced_modWindow (s : State) (p c : Nat) (f : Window → Window) : KeepsPlaced s (s.modWindow p c f) :=
  keepsPlaced_setWindow s _

theorem keepsPlaced_modCell (s : State) (c : Nat) (f : Cell → Cell) : KeepsPlaced s (s.modCell c f) := ⟨rfl, rfl, rfl⟩

theorem keepsPlaced_modQuad (s : State) (c q : Nat) (f : Quad → Quad) : KeepsPlaced s (s.modQuad c q f) := ⟨rfl, rfl, rfl⟩

theorem keepsPlaced_dynAlloc {s t : State} {part cell size o : Nat} (h : s.dynAlloc part cell size = some (o, t)) :
    KeepsPlaced s t := by
  unfold State.dynAlloc at h
  dsimp only at h
  split at h
  · obtain ⟨-, rfl⟩ := Prod.mk.inj (Option.some.inj h)
    exact keepsPlaced_setWindow s _
  · cases h

theorem keepsPlaced_takeSpace {part shared : Nat} {roll : Bool} (l : List (Nat × Nat)) {s t : State} {segs shadows : List Nat}
    (h : s.takeSpace part roll shared l = some (segs, shadows, t)) : KeepsPlaced s t := by
  induction l generalizing s segs shadows with
  | nil =>
    obtain ⟨-, -, rfl⟩ : [] = segs ∧ [] = shadows ∧ s = t := by simpa [State.takeSpace] using h
    exact .refl s
  | cons x l ih =>
    unfold State.takeSpace at h
    split at h
    · cases h
    · next o s1 hseg =>
      have h1 : KeepsPlaced s s1 := by
        split at hseg
        · obtain ⟨-, rfl⟩ := Prod.mk.inj (Option.some.inj hseg)
          exact .refl s
        · exact keepsPlaced_dynAlloc hseg
      split at h
      · cases h
      · next o' s2 hshadow =>
        have h2 : KeepsPlaced s1 s2 := by
          split at hshadow
          · exact keepsPlaced_dynAlloc hshadow
          · obtain ⟨-, rfl⟩ := Prod.mk.inj (Option.some.inj hshadow)
            exact .refl s1
        obtain ⟨⟨segs', shadows', t'⟩, hrest, heq⟩ := Option.map_eq_some_iff.mp h
        obtain ⟨-, -, rfl⟩ : _ ∧ _ ∧ t' = t := by simpa using heq
        exact (h1.trans h2).trans (ih hrest)

theorem keepsPlaced_finishPlan {s : State} {k : Nat} {r : Region} {cells : List Nat} {p : List (GLoc × List Nat) × Room}
    {ask : Ask} {pl : Plan} (h : s.finishPlan k r cells p ask = some pl) : KeepsPlaced s pl.st := by
  unfold State.finishPlan at h
  dsimp only at h
  split at h
  · cases h
  · split at h
    · cases h
    · split at h
      · cases h
      · next htake =>
        obtain rfl := Option.some.inj h
        exact keepsPlaced_takeSpace _ htake

theorem keepsPlaced_planOn {s : State} {k : Nat} {r : Region} {ok : Nat → Nat → Bool} {room : Room} {ask : Ask}
    {cells : List Nat} {pl : Plan} (h : s.planOn k r ok room ask cells = some pl) : KeepsPlaced s pl.st := by
  unfold State.planOn at h
  dsimp only at h
  generalize s.placeAll _ room _ = placed at h
  cases placed with
  | none => cases h
  | some p => exact keepsPlaced_finishPlan h

/-- Whatever cells a plan settles on, it takes window space and nothing else. -/
theorem keepsPlaced_plan {s : State} {k : Nat} {r : Region} {ok : Nat → Nat → Bool} {room : Room} {ask : Ask} {pl : Plan}
    (h : s.plan k r ok room ask = some pl) : KeepsPlaced s pl.st := by
  unfold State.plan at h
  dsimp only at h
  split at h
  · obtain ⟨x, -, hx⟩ := List.exists_of_findSome?_eq_some h
    split at hx
    · exact keepsPlaced_planOn hx
    · cases hx
  · obtain ⟨n, -, hn⟩ := List.exists_of_findSome?_eq_some h
    obtain ⟨p, -, hp⟩ := List.exists_of_findSome?_eq_some hn
    generalize List.filter _ _ = open' at hp
    split at hp
    · cases hp
    · split at hp
      · exact keepsPlaced_planOn hp
      · obtain ⟨l, -, hl⟩ := List.exists_of_findSome?_eq_some hp
        split at hl
        · exact keepsPlaced_planOn hl
        · cases hl

/-! ### A new block and its groups (06 R175, R176; 07 R192) -/

theorem keepsPlaced_openCells (s : State) (c part : Nat) (cells : List Nat) : KeepsPlaced s (s.openCells c part cells) :=
  .foldl (fun s _ => (keepsPlaced_modWindow s part _ _).trans (keepsPlaced_modCell _ _ _)) cells s

theorem keepsPlaced_foldWindows {α : Type} (p c : α → Nat) (f : α → Window → Window) (l : List α) (s : State) :
    KeepsPlaced s (l.foldl (fun s x => s.modWindow (p x) (c x) (f x)) s) :=
  .foldl (fun s x => keepsPlaced_modWindow s (p x) (c x) (f x)) l s

theorem keepsPlaced_clearSlots (s : State) (g : Group) : KeepsPlaced s (s.clearSlots g) := by
  unfold State.clearSlots
  split
  · exact .refl s
  · exact keepsPlaced_modWindow s _ _ _

/-- What a shadow taken changes: of its block the shadow, and what counts its interval's attempts. -/
theorem takeShadow_frame (s : State) (b : Nat) : (s.takeShadow b).groups = s.groups ∧ (s.takeShadow b).regions = s.regions ∧
    (s.takeShadow b).blocks.length = s.blocks.length ∧ ∀ x, ∃ shadow early retries,
      (s.takeShadow b).block x = { s.block x with shadow := shadow, early := early, retries := retries } := by
  unfold State.takeShadow
  dsimp only
  split
  · exact ⟨rfl, rfl, rfl, fun _ => ⟨_, _, _, rfl⟩⟩
  · refine ⟨rfl, rfl, length_modifyAt .., fun x => ?_⟩
    rw [block_modBlock]
    split
    · exact ⟨_, _, _, rfl⟩
    · exact ⟨_, _, _, rfl⟩

/-- The block that stands in its place. -/
structure PlacedAt (bl : Block) (k : Nat) (r : Region) (p : Plan) : Prop where
  region : bl.region = k
  index : bl.index = r.nextBlock
  cells : bl.cells = p.cells
  resident : bl.resident = true
  segBase : bl.segBase = p.segs

/-- The group that starts at its place, for its segment, first thread and threads. -/
structure StartsAt (h : Group) (b : Nat) (r : Region) (x : (Nat × Nat × Nat) × (GLoc × List Nat)) : Prop where
  loc : h.loc = x.2.1
  block : h.id.block = b
  seg : h.id.seg = x.1.1
  live : h.ctl.live = firstLanes x.1.2.2
  ctx : h.id.ctx = r.ctx
  pc : h.ctl.pc = (r.segs.getD x.1.1 ⟨false, .general, 0, 0, 0, 0#64⟩).pc

/-- The machine `u` with a region's next block and its groups entered. -/
def State.entered (u : State) (k b : Nat) (bl : Block) (gs : List Group) : State :=
  (State.takeShadow (State.modRegion { u with blocks := u.blocks ++ [bl], groups := u.groups ++ gs } k fun r =>
    { r with nextBlock := r.nextBlock + 1, admitted := true, waiting := decide (r.nextBlock + 1 < r.grid) }) b).callSlices

/-- The ground is prepared, then the block and its groups enter. -/
theorem placeNew_enters (s : State) (k : Nat) (r : Region) (p : Plan) (pool : Nat × Nat) : ∃ u bl born,
    s.placeNew k r p pool = u.entered k s.blocks.length bl (((groupsOf r.segs).zip p.locs).map born) ∧
    KeepsPlaced p.st u ∧ PlacedAt bl k r p ∧ ∀ x, StartsAt (born x) s.blocks.length r x := by
  refine ⟨_, _, _, rfl, ?_, ⟨rfl, rfl, rfl, rfl, rfl⟩, fun x => ⟨rfl, rfl, rfl, rfl, rfl, rfl⟩⟩
  refine .trans ?_ (.foldl (fun s g => ?_) _ _)
  · split
    · exact .trans ((keepsPlaced_openCells _ _ _ _).trans (keepsPlaced_foldWindows _ _ _ _ _)) (keepsPlaced_modQuad _ _ _ _)
    · exact (keepsPlaced_openCells _ _ _ _).trans (keepsPlaced_foldWindows _ _ _ _ _)
  · split
    · exact keepsPlaced_modQuad s _ _ _
    · exact keepsPlaced_clearSlots s g

/-- What has entered stands there: the block after the others, the groups after the others. -/
theorem entered_stands {u : State} {k : Nat} {r : Region} (hr : u.regions[k]? = some r) (bl : Block) (gs : List Group) :
    let t := u.entered k u.blocks.length bl gs
    t.blocks.length = u.blocks.length + 1 ∧
    (∃ shadow early retries, t.block u.blocks.length = { bl with shadow := shadow, early := early, retries := retries }) ∧
    (∃ r', t.regions[k]? = some r' ∧ r'.nextBlock = r.nextBlock + 1) ∧
    t.groups.length = u.groups.length + gs.length ∧
    ∀ j h, gs[j]? = some h → ∃ ctl, t.group (u.groups.length + j) = { h with ctl := ctl } ∧ ctl.live = h.ctl.live ∧
      ctl.pc = h.ctl.pc := by
  dsimp only
  unfold State.entered
  generalize hv : State.modRegion { u with blocks := u.blocks ++ [bl], groups := u.groups ++ gs } k _ = v
  have hblocks : v.blocks = u.blocks ++ [bl] := by rw [← hv]; rfl
  have hgroups : v.groups = u.groups ++ gs := by rw [← hv]; rfl
  have hregion : ∃ r', v.regions[k]? = some r' ∧ r'.nextBlock = r.nextBlock + 1 := by
    rw [← hv]
    exact ⟨_, region_modRegion hr _, rfl⟩
  obtain ⟨hsg, hsr, hsb, hblock⟩ := takeShadow_frame v u.blocks.length
  refine ⟨?_, ?_, ?_, ?_, fun j h hj => ?_⟩
  · exact hsb.trans (by simp [hblocks])
  · obtain ⟨shadow, early, retries, hb⟩ := hblock u.blocks.length
    have hbl : v.block u.blocks.length = bl := by simp [State.block, hblocks]
    exact ⟨shadow, early, retries, by rw [← hbl, ← hb]; rfl⟩
  · obtain ⟨r', hr', hn⟩ := hregion
    exact ⟨r', by rw [← hr', ← hsr]; rfl, hn⟩
  · have hcalled : (v.takeShadow u.blocks.length).callSlices.groups.length = v.groups.length :=
      (List.length_map ..).trans (by rw [hsg])
    rw [hcalled, hgroups, List.length_append]
  · obtain ⟨ctl, hcall, hlive, hpc⟩ := callSlices_frame (v.takeShadow u.blocks.length) (u.groups.length + j)
    have hgroup : (v.takeShadow u.blocks.length).group (u.groups.length + j) = h := by
      rw [group_congr hsg, State.group, hgroups, List.getD_eq_getElem?_getD, List.getElem?_append_right (by omega)]
      simp [hj]
    rw [hgroup] at hcall hlive hpc
    exact ⟨ctl, hcall, hlive, hpc⟩

/-! ### The waiting list (06 R176) -/

/-- The first item of the list is placed where it fits, and bars nothing any longer. -/
theorem walkList_first {s t : State} {part : Nat} {it : Item} {rest : List Item} (hw : s.waitList part = it :: rest)
    (ht : s.placeItem it [] = some t) : s.walkList part = t.modRegion it.region fun r => { r with barring := false } := by
  unfold State.walkList State.walkGo
  rw [hw]
  dsimp only
  rw [ht]

/-- The next block of a region that is no gang, with a plan for it and room in its pool. -/
theorem placeItem_new {s : State} {k : Nat} {r : Region} {pl : Plan} {pool : Nat × Nat} (hr : s.regions[k]? = some r)
    (hg : r.gang = false)
    (hplan : s.plan k r (fun c q => s.eligible r c q && !([] : List (Nat × Nat)).contains (c, q)) s.room r.ask = some pl)
    (hpool : s.takePool r pl.cells.length = some pool) : s.placeItem ⟨k, none⟩ [] = some (s.placeNew k r pl pool) := by
  unfold State.placeItem State.placeOneItem
  simp only [hr, hg, Bool.false_eq_true, if_false, hplan, hpool, Option.map_some]

theorem blockPlace_happens (part k : Nat) (rest : List Item) (r : Region) (pl : Plan) (pool : Nat × Nat) :
    Happens (.blockPlace part)
    (fun s => s.hub.save = none ∧ s.waitList part = ⟨k, none⟩ :: rest ∧ s.regions[k]? = some r ∧ r.gang = false ∧
      s.plan k r (fun c q => s.eligible r c q && !([] : List (Nat × Nat)).contains (c, q)) s.room r.ask = some pl ∧
      s.takePool r pl.cells.length = some pool)
    fun s t =>
      let b := s.blocks.length
      let gs := (groupsOf r.segs).zip pl.locs
      t.blocks.length = b + 1 ∧ (t.block b).region = k ∧ (t.block b).index = r.nextBlock ∧ (t.block b).cells = pl.cells ∧
      (t.block b).resident = true ∧ (t.block b).segBase = pl.segs ∧
      (∃ r', t.regions[k]? = some r' ∧ r'.nextBlock = r.nextBlock + 1) ∧
      t.groups.length = s.groups.length + gs.length ∧
      ∀ j x, gs[j]? = some x →
        let h := t.group (s.groups.length + j)
        h.loc = x.2.1 ∧ h.id.block = b ∧ h.id.seg = x.1.1 ∧ h.ctl.live = firstLanes x.1.2.2 ∧ h.id.ctx = r.ctx ∧
        h.ctl.pc = (r.segs.getD x.1.1 ⟨false, .general, 0, 0, 0, 0#64⟩).pc := by
  refine .of_next (fun _ => rfl) fun s _ ⟨hsave, hlist, hr, hgang, hplan, hpool⟩ => ?_
  rw [hsave, if_neg (by decide), walkList_first hlist (placeItem_new hr hgang hplan hpool)]
  obtain ⟨u, bl, born, hnew, hground, hbl, hborn⟩ := placeNew_enters s k r pl pool
  have hkeep : KeepsPlaced s u := (keepsPlaced_plan hplan).trans hground
  have hstands := entered_stands (u := u) (k := k) (r := r) (by rw [hkeep.regions]; exact hr) bl
    (((groupsOf r.segs).zip pl.locs).map born)
  rw [hnew]
  rw [hkeep.blocks, hkeep.groups] at hstands
  dsimp only at hstands ⊢
  generalize u.entered k s.blocks.length bl _ = t at *
  obtain ⟨hcount, ⟨_, _, _, hblock⟩, ⟨r', hr', hnext⟩, hgroups, hgroup⟩ := hstands
  have hb : (t.modRegion k fun r => { r with barring := false }).block s.blocks.length = _ := hblock
  refine ⟨hcount, by rw [hb]; exact hbl.region, by rw [hb]; exact hbl.index, by rw [hb]; exact hbl.cells,
    by rw [hb]; exact hbl.resident, by rw [hb]; exact hbl.segBase, ⟨_, region_modRegion hr' _, hnext⟩,
    hgroups.trans (by rw [List.length_map]), fun j x hj => ?_⟩
  obtain ⟨ctl, hctl, hlive, hpc⟩ := hgroup j (born x) (by rw [List.getElem?_map, hj]; rfl)
  obtain ⟨hloc, hblk, hseg, hl, hctx, hp⟩ := hborn x
  have hg : (t.modRegion k fun r => { r with barring := false }).group (s.groups.length + j) = _ := hctl
  rw [hg]
  exact ⟨hloc, hblk, hseg, hlive.trans hl, hctx, hpc.trans hp⟩

end Sys2Proof.Machine
end

section
/-! PROOFS. Blocks that are evicted, and recarves that end (03 R91 to R93; 06 R187; 11 R301 to R308). An eviction saves
the block's groups, gives up its place and leaves every other block where it is. -/
namespace Sys2Proof.Machine
open Sys2Proof

/-! ### Blocks and groups that stand as they stood -/

/-- The same groups with the same status, and the same blocks resident. -/
structure KeepsStanding (s t : State) : Prop where
  groupCount : t.groups.length = s.groups.length
  blockCount : t.blocks.length = s.blocks.length
  status : ∀ i, (t.group i).ctl.status = (s.group i).ctl.status
  resident : ∀ b, (t.block b).resident = (s.block b).resident

theorem KeepsStanding.refl (s : State) : KeepsStanding s s := ⟨rfl, rfl, fun _ => rfl, fun _ => rfl⟩

theorem KeepsStanding.trans {s t u : State} (h : KeepsStanding s t) (k : KeepsStanding t u) : KeepsStanding s u :=
  ⟨k.groupCount.trans h.groupCount, k.blockCount.trans h.blockCount, fun i => (k.status i).trans (h.status i),
    fun b => (k.resident b).trans (h.resident b)⟩

theorem KeepsStanding.foldl {α : Type} {step : State → α → State} (h : ∀ s a, KeepsStanding s (step s a)) (l : List α)
    (s : State) : KeepsStanding s (l.foldl step s) :=
  List.foldlRecOn l step (.refl s) fun t ht a _ => ht.trans (h t a)

theorem KeepsStanding.of_eq {s t : State} (hg : t.groups = s.groups) (hb : t.blocks = s.blocks) : KeepsStanding s t :=
  ⟨by rw [hg], by rw [hb], fun i => by rw [group_congr hg], fun b => by rw [block_congr hb]⟩

theorem Housekeeping.keepsStanding {s t : State} (h : Housekeeping s t) : KeepsStanding s t :=
  ⟨h.groupCount, h.blockCount, fun i => by obtain ⟨_, hi⟩ := h.group i; rw [hi],
    fun b => by obtain ⟨_, _, _, hb⟩ := h.block b; rw [hb]⟩

theorem keepsStanding_modQuad (s : State) (c q : Nat) (f : Quad → Quad) : KeepsStanding s (s.modQuad c q f) :=
  .of_eq rfl rfl

theorem keepsStanding_segWrite (s : State) (b cell off : Nat) (x : List Byte) : KeepsStanding s (s.segWrite b cell off x) :=
  .of_eq (modWindow_groups ..) (setWindow_blocks ..)

theorem keepsStanding_ringsOut (s : State) (b : Nat) : KeepsStanding s (s.ringsOut b) := by
  unfold State.ringsOut
  dsimp only
  split
  · exact .refl s
  · exact .foldl (fun s r => keepsStanding_segWrite s b _ _ _) _ s

theorem housekeeping_saveBytes (s : State) (c va : Nat) (b : List Byte) : Housekeeping s (s.saveBytes c va b) := by
  unfold State.saveBytes
  split
  · next h => exact housekeeping_writeVa h
  · exact .refl s

theorem housekeeping_writeImage (s : State) (b : Nat) (ids : List Nat) (img : Image) :
    Housekeeping s (s.writeImage b ids img) := by
  unfold State.writeImage
  refine .trans (.trans (.trans (housekeeping_saveBytes _ _ _ _) (.foldl (fun s r => ?_) _ _)) (.foldl (fun s j => ?_) _ _))
    (.foldl (fun s j => ?_) _ _)
  all_goals exact housekeeping_saveBytes s _ _ _

/-! ### The groups saved (11 R305, R306) -/

theorem saveGroup_status (s : State) (i : Nat) : ∃ w, (s.saveGroup i).ctl.status = .evicted w := ⟨_, rfl⟩

/-- The groups of a list entered in their places. -/
def State.setGroups (s : State) (l : List (Nat × Group)) : State := l.foldl (fun s x => s.setGroup x.1 x.2) s

@[simp] theorem setGroups_length (s : State) (l : List (Nat × Group)) : (s.setGroups l).groups.length = s.groups.length :=
  List.foldlRecOn (motive := fun t : State => t.groups.length = s.groups.length) l _ rfl fun t ht x _ => by
    rw [setGroup_length, ht]

@[simp] theorem setGroups_blocks (s : State) (l : List (Nat × Group)) : (s.setGroups l).blocks = s.blocks :=
  List.foldlRecOn (motive := fun t : State => t.blocks = s.blocks) l _ rfl fun _ ht _ _ => ht

/-- A group that is among those entered is one of them, whatever was there before. -/
theorem group_setGroups {P : Group → Prop} (save : Nat → Group) (hsave : ∀ i, P (save i)) {ids : List Nat} {i : Nat}
    (hi : i ∈ ids) {s : State} (hlen : i < s.groups.length) : P ((s.setGroups (ids.map fun i => (i, save i))).group i) := by
  induction ids using List.reverseRecOn with
  | nil => exact absurd hi List.not_mem_nil
  | append_singleton l j ih =>
    have hlast : s.setGroups ((l ++ [j]).map fun i => (i, save i)) =
        (s.setGroups (l.map fun i => (i, save i))).setGroup j (save j) := by
      rw [State.setGroups, List.map_append, List.foldl_append]
      rfl
    rw [hlast]
    by_cases hj : i = j
    · subst hj
      rw [group_setGroup (by simpa using hlen)]
      exact hsave i
    · rw [group_setGroup_ne hj]
      exact ih ((List.mem_append.mp hi).resolve_right fun h => hj (List.mem_singleton.mp h))

theorem savable_lt {s : State} {b i : Nat} (h : i ∈ s.savable b) : i < s.groups.length :=
  List.mem_range.mp (List.mem_filter.mp h).1

/-! ### One block evicted (06 R187) -/

/-- Block `b` is out: its savable groups are saved, it has an image and no index entries; the other blocks stay. -/
structure Evicts (b : Nat) (s t : State) : Prop where
  blockCount : t.blocks.length = s.blocks.length
  block : b < s.blocks.length → (t.block b).resident = false ∧ (t.block b).image.isSome = true
  others : ∀ x, x ≠ b → (t.block x).resident = (s.block x).resident
  index : ∀ c ∈ t.cells, ∀ e ∈ c.index, e.block ≠ b
  groups : ∀ i ∈ s.savable b, ∃ w, (t.group i).ctl.status = .evicted w

/-- A block set aside with its image, its index entries dropped. -/
def State.setAside (s : State) (b : Nat) (img : Image) : State :=
  State.modBlock { s with cells := s.cells.map fun c => { c with index := c.index.filter fun e => e.block != b } } b fun x =>
    { x with resident := false, image := some img, tags := [], segBase := [], shadowBase := [], ringHw := [], shadow := .none }

/-- What the save waits for is done: an early commit, a release of every group, and the rings in their words. -/
def State.readyToSave (s : State) (b : Nat) : State :=
  let s0 := s.commitEarly b
  let bl := s0.block b
  let s1 := bl.cells.foldl (fun s c => s.drainLines bl.part c (allFifoLines (s.window bl.part c).fifo)) s0
  ((s.savable b).foldl (fun s i => s.publishGroup i) s1).ringsOut b

theorem keepsStanding_readyToSave (s : State) (b : Nat) : KeepsStanding s (s.readyToSave b) := by
  have hdrain (t : State) (p : Nat) (cells : List Nat) :
      Housekeeping t (cells.foldl (fun s c => s.drainLines p c (allFifoLines (s.window p c).fifo)) t) :=
    .foldl (fun s c => housekeeping_drainLines s p c _) cells t
  have hout (t : State) : Housekeeping t ((s.savable b).foldl (fun s i => s.publishGroup i) t) :=
    .foldl housekeeping_publishGroup _ t
  exact (((housekeeping_commitEarly s b).trans (hdrain _ _ _)).trans (hout _)).keepsStanding.trans (keepsStanding_ringsOut _ b)

/-- The groups of a block saved in their places. -/
def State.groupsSaved (s : State) (b : Nat) : State :=
  let u := s.readyToSave b
  State.setGroups { u with fresh := u.fresh + u.groups.length } ((s.savable b).map fun i => (i, u.saveGroup i))

/-- An eviction: the groups are saved, the image is written, and the block gives up its place and is set aside. -/
theorem evictOne_stages (s : State) (b : Nat) :
    ∃ v img, KeepsStanding (s.groupsSaved b) v ∧ s.evictOne b = v.setAside b img := by
  refine ⟨_, _, ?_, rfl⟩
  have hdrop (t u : State) (l : List (Nat × Nat)) : KeepsStanding t (l.foldl (fun s x =>
      s.modQuad (u.group x.1).loc.cell (u.group x.1).loc.quad fun q => q.palDrop x.2) t) :=
    .foldl (fun s x => keepsStanding_modQuad s _ _ _) l t
  exact .trans (.trans (housekeeping_writeImage (s.groupsSaved b) b (s.savable b) _).keepsStanding
    (hdrop _ (s.readyToSave b) _)) (housekeeping_leavePlace _ b).keepsStanding

theorem evictOne_evicts (s : State) (b : Nat) : Evicts b s (s.evictOne b) := by
  obtain ⟨v, img, hv, h⟩ := evictOne_stages s b
  have hu := keepsStanding_readyToSave s b
  have hsaved : (s.groupsSaved b).blocks = (s.readyToSave b).blocks := setGroups_blocks _ _
  have hblocks : v.blocks.length = s.blocks.length := by rw [hv.blockCount, hsaved, hu.blockCount]
  have hself (hb : b < s.blocks.length) : (v.setAside b img).block b = _ :=
    block_modBlock_same (by rw [← hblocks] at hb; exact hb) _
  rw [h]
  refine ⟨?_, fun hb => ?_, fun x hx => ?_, fun c hc e he => ?_, fun i hi => ?_⟩
  · exact (length_modifyAt ..).trans hblocks
  · rw [hself hb]
    exact ⟨rfl, rfl⟩
  · have hother : (v.setAside b img).block x = v.block x := (block_modBlock _ b x _).trans (if_neg fun h => hx h.1)
    rw [hother, hv.resident, block_congr hsaved, hu.resident]
  · obtain ⟨c', -, rfl⟩ := List.mem_map.mp hc
    simpa using (List.mem_filter.mp he).2
  · obtain ⟨w, hw⟩ := group_setGroups (P := fun g => ∃ w, g.ctl.status = .evicted w) _ (saveGroup_status (s.readyToSave b)) hi
      (s := { s.readyToSave b with fresh := (s.readyToSave b).fresh + (s.readyToSave b).groups.length })
      (hu.groupCount.symm ▸ savable_lt hi)
    exact ⟨w, (hv.status i).trans hw⟩

theorem blockEvict_happens (b : Nat) : Happens (.blockEvict b)
    (fun s => s.canEvict b = true ∧ s.together b = [b] ∧ b < s.blocks.length)
    fun s t => (t.block b).resident = false ∧ (t.block b).image.isSome = true ∧
      (∀ c ∈ t.cells, ∀ e ∈ c.index, e.block ≠ b) ∧
      ∀ i ∈ s.savable b, ∃ w, (t.group i).ctl.status = .evicted w := by
  refine .of_next (fun _ => rfl) fun s _ ⟨hcan, halone, hb⟩ => ?_
  rw [if_pos hcan, halone]
  have h := evictOne_evicts s b
  obtain ⟨hres, himg⟩ := h.block hb
  exact ⟨hres, himg, h.index, h.groups⟩

/-! ### Recarves (03 R91 to R93) -/

theorem blocks_handOver (s : State) (part cell : Nat) (qs : List Nat) (give : Bool) :
    (s.handOver part cell qs give).blocks = s.blocks := by
  obtain ⟨_, _, _, _, _, h⟩ := handOver_frame s part cell qs give
  rw [h]
  rfl

theorem blocks_recarved (s : State) (k : Nat) (x : Recarve) : (s.recarved k x).blocks = s.blocks := by
  have hhand : (if x.fence then s else s.handOver x.part x.cell (s.changing x) x.grow).blocks = s.blocks := by
    split
    · rfl
    · exact blocks_handOver s _ _ _ _
  unfold State.recarved
  dsimp only
  split <;> exact hhand

theorem blocks_recarveSettle (s : State) : s.recarveSettle.blocks = s.blocks := by
  unfold State.recarveSettle
  split
  · split <;> rfl
  · rfl

theorem blocks_recarveEnd (s : State) (k : Nat) : (s.recarveEnd k).blocks = s.blocks := by
  cases h : s.hub.recarves[k]? with
  | none => rw [recarveEnd_of_none h]
  | some x =>
    rw [recarveEnd_of_some h]
    split
    · rfl
    · rw [blocks_recarveSettle, blocks_recarved]

/-- A command that settles touches neither the recarves nor the quadrants. -/
theorem recarveSettle_keeps (s : State) : s.recarveSettle.hub.recarves = s.hub.recarves ∧
    ∀ c q, s.recarveSettle.quadAt c q = s.quadAt c q := by
  unfold State.recarveSettle
  split
  · split
    · exact ⟨partEnd_recarves s 0, fun _ _ => rfl⟩
    · exact ⟨rfl, fun _ _ => rfl⟩
  · exact ⟨rfl, fun _ _ => rfl⟩

/-- A recarve that is no fence is struck from the list, and its quadrants change hands. -/
theorem recarved_keeps {s : State} {x : Recarve} (hfence : x.fence = false) (k : Nat) :
    (s.recarved k x).hub.recarves = s.hub.recarves.eraseIdx k ∧
    ∀ c q, (s.recarved k x).quadAt c q = (s.handOver x.part x.cell (s.changing x) x.grow).quadAt c q := by
  have hhub := handOver_hub s x.part x.cell (s.changing x) x.grow
  unfold State.recarved
  dsimp only
  rw [hfence, if_neg Bool.false_ne_true]
  generalize s.handOver x.part x.cell (s.changing x) x.grow = u at hhub ⊢
  have herase : (u.withHub fun h => { h with recarves := h.recarves.eraseIdx k }).hub.recarves = s.hub.recarves.eraseIdx k := by
    rw [withHub_hub, hhub]
  split
  · obtain ⟨_, _, _, _, h⟩ := raise_frame (u.withHub fun h => { h with recarves := h.recarves.eraseIdx k }) 0 7
    rw [h]
    exact ⟨herase, fun _ _ => rfl⟩
  · exact ⟨herase, fun _ _ => rfl⟩

theorem mem_changing {s : State} {x : Recarve} {q : Nat} (hbit : bit x.qmask q = true) (hq : q < 4)
    (hown : x.grow = true ∨ (s.quadAt x.cell q).owner = x.part) : q ∈ s.changing x :=
  List.mem_filter.mpr ⟨List.mem_range.mpr hq, by simpa [hbit] using hown⟩

theorem shrinkComplete_happens (k : Nat) (x : Recarve) : Happens (.shrinkComplete k)
    (fun s => s.hub.recarves[k]? = some x ∧ s.left x = true ∧ x.fence = false ∧ x.cell < s.cells.length)
    fun s t => t.hub.recarves = s.hub.recarves.eraseIdx k ∧ ∀ q, q < (s.cells.getD x.cell Cell.reset).quads.length →
      bit x.qmask q = true → q < 4 → (x.grow = true ∨ (s.quadAt x.cell q).owner = x.part) →
        (t.quadAt x.cell q).owned = x.grow ∧ (x.grow = true → (t.quadAt x.cell q).owner = x.part) := by
  refine .of_next (fun _ => rfl) fun s _ ⟨hx, hleft, hfence, hcell⟩ => ?_
  obtain ⟨hrec, hquad⟩ := recarved_keeps (s := s) hfence k
  obtain ⟨hsrec, hsquad⟩ := recarveSettle_keeps (s.recarved k x)
  rw [recarveEnd_of_some hx, hleft, if_neg (by decide)]
  refine ⟨hsrec.trans hrec, fun q hlen hbit hq hown => ?_⟩
  rw [hsquad, hquad, quadAt_handOver_of_mem (quad?_of_lt hcell hlen) (mem_changing hbit hq hown)]
  exact ⟨rfl, fun hgrow => by rw [Quad.handed, hgrow]; rfl⟩

/-! ### A deferred recarve for which every launch has come to a blocking point (03 R92) -/

theorem canEvict_congr {s t : State} (hb : t.blocks = s.blocks) (hg : t.groups = s.groups) (hr : t.regions = s.regions)
    (ha : t.atoms = s.atoms) (hmust : ∀ x, t.mustLeave x = s.mustLeave x) (b : Nat) : t.canEvict b = s.canEvict b := by
  simp only [State.canEvict, State.evictDue, State.together, State.allBlocked, State.savable, State.drainedBlock, State.block,
    State.group, hb, hg, hr, ha, hmust]

theorem any_modifyAt {α : Type} {p : α → Bool} {f : α → α} (h : ∀ a, p (f a) = p a) (l : List α) (i : Nat) :
    (modifyAt l i f).any p = l.any p := by
  induction l generalizing i with
  | nil => rfl
  | cons a l ih => cases i with
    | zero => simp [modifyAt, h]
    | succ i => simp [modifyAt, ih]

/-- A deferred recarve's launches whose eviction has begun, where they all have come to a blocking point. -/
def State.launchBegun (s : State) (k : Nat) (x : Recarve) : State :=
  if s.launchBlocked x then s.withHub fun h => { h with recarves := modifyAt h.recarves k fun y => { y with began := true } }
  else s

theorem blocks_launchBegun (s : State) (k : Nat) (x : Recarve) : (s.launchBegun k x).blocks = s.blocks := by
  unfold State.launchBegun
  split <;> rfl

theorem canEvict_launchBegun (s : State) (k : Nat) (x : Recarve) (b : Nat) : (s.launchBegun k x).canEvict b = s.canEvict b := by
  have hmust (c : Nat) : (s.launchBegun k x).mustLeave c = s.mustLeave c := by
    unfold State.launchBegun
    split
    · exact any_modifyAt (p := fun y => y.blocks.contains c && s.leavesFor y c) (f := fun y => { y with began := true })
        (fun _ => rfl) s.hub.recarves k
    · rfl
  have hsame : (s.launchBegun k x).groups = s.groups ∧ (s.launchBegun k x).regions = s.regions ∧
      (s.launchBegun k x).atoms = s.atoms := by
    unfold State.launchBegun
    split <;> exact ⟨rfl, rfl, rfl⟩
  obtain ⟨hg, hr, ha⟩ := hsame
  exact canEvict_congr (blocks_launchBegun s k x) hg hr ha hmust b

/-- A resident block leaves with itself. -/
theorem mem_together {s : State} {b : Nat} (hb : b < s.blocks.length) (hres : (s.block b).resident = true) :
    b ∈ s.together b := by
  unfold State.together
  split
  · exact List.mem_singleton.mpr rfl
  · split
    · exact List.mem_filter.mpr ⟨List.mem_range.mpr hb, by simp [hres]⟩
    · exact List.mem_singleton.mpr rfl

/-- Of blocks evicted one after another each is out in the end. -/
theorem resident_evictAll {b : Nat} {l : List Nat} {s : State} (hb : b < s.blocks.length)
    (h : b ∈ l ∨ (s.block b).resident = false) : ((l.foldl (fun s b => s.evictOne b) s).block b).resident = false := by
  induction l generalizing s with
  | nil => exact h.resolve_left List.not_mem_nil
  | cons c l ih =>
    have hev := evictOne_evicts s c
    refine ih (by rw [hev.blockCount]; exact hb) ?_
    by_cases hc : b = c
    · subst hc
      exact .inr (hev.block hb).1
    · rw [hev.others b hc]
      exact h.imp_left fun hmem => (List.mem_cons.mp hmem).resolve_left hc

theorem deferredLaunchEviction_happens (k : Nat) (x : Recarve) : Happens (.deferredLaunchEviction k)
    (fun s => s.hub.recarves[k]? = some x ∧ x.deferred = true ∧ (∀ b ∈ x.blocks, b < s.blocks.length) ∧
      ∀ b ∈ x.blocks, s.leavesFor x b = true → s.canEvict b = true)
    fun s t => ∀ b ∈ x.blocks, s.leavesFor x b = true → (t.block b).resident = false := by
  refine .of_next (fun _ => rfl) fun s _ ⟨hx, hdef, hlen, hcan⟩ => ?_
  intro b hmem hleaves
  have hall : (x.blocks.filter (s.leavesFor x)).all (s.launchBegun k x).canEvict = true :=
    List.all_eq_true.mpr fun c hc => by
      obtain ⟨hin, hlv⟩ := List.mem_filter.mp hc
      rw [canEvict_launchBegun, hcan c hin hlv]
  obtain ⟨hres, -⟩ : (s.block b).resident = true ∧ _ := by simpa [State.leavesFor] using hleaves
  have hb : b < (s.launchBegun k x).blocks.length := by rw [blocks_launchBegun]; exact hlen b hmem
  have htog : b ∈ (x.blocks.filter (s.leavesFor x)).flatMap (s.launchBegun k x).together :=
    List.mem_flatMap.mpr ⟨b, List.mem_filter.mpr ⟨hmem, hleaves⟩,
      mem_together hb (by rw [block_congr (blocks_launchBegun s k x)]; exact hres)⟩
  rw [hx]
  change ((if x.deferred && (x.blocks.filter (s.leavesFor x)).all (s.launchBegun k x).canEvict then
    ((dedupNat ((x.blocks.filter (s.leavesFor x)).flatMap (s.launchBegun k x).together)).foldl (fun s b => s.evictOne b)
      (s.launchBegun k x)).recarveEnd k else s.launchBegun k x).block b).resident = false
  rw [hdef, hall, if_pos (by rfl), block_congr (blocks_recarveEnd _ k)]
  exact resident_evictAll hb (.inl (mem_dedupNat_of_mem htog))

end Sys2Proof.Machine
end

section
/-! PROOFS. A region completes (06 R172): the dirty lines that its blocks wrote through go home, so that none is left but
those with uncommitted bytes (09 R249, R253), and nothing else of the machine is touched. -/
namespace Sys2Proof.Machine
open Sys2Proof

/-! ### The lines of a window after a write-back (09 R249) -/

theorem windows_homeRuns (s : State) (w : Window) (l : Nat) (m : BitVec 128) : (homeRuns s w l m).windows = s.windows := by
  have hstep (x : State × Nat × List Byte) (i : Nat) : (homeRunStep w l m x i).1.windows = x.1.windows := by
    have hrun : (if x.2.2.isEmpty then x.1 else x.1.homeWrite (l * 128 + x.2.1) x.2.2).windows = x.1.windows := by
      split <;> rfl
    unfold homeRunStep
    split
    · rfl
    · split <;> exact hrun
  rw [homeRuns_eq]
  generalize List.range 129 = bytes
  exact List.foldlRecOn (motive := fun x : State × Nat × List Byte => x.1.windows = s.windows) bytes
    (homeRunStep w l m) rfl fun x hx i _ => (hstep x i).trans hx

theorem line?_cleaned (w : Window) (k l : Nat) :
    (w.cleaned k).line? l = (w.line? l).map fun y => if y.line == k then { y with dirty := 0#128 } else y := by
  unfold Window.line? Window.cleaned
  rw [List.find?_map]
  congr 2
  funext y
  dsimp only [Function.comp]
  split <;> rfl

/-- A line is clean in a window of the state, unless it holds uncommitted bytes. -/
def State.lineClean (s : State) (part cell l : Nat) : Prop :=
  ∀ y, (s.window part cell).line? l = some y → y.uncommitted = 0#128 → y.dirty = 0#128

/-- Of a line that is written back, its window is cleaned, and no other window changes. -/
theorem window_writeBack_of_dirty {s : State} {p c k : Nat} {x : CLine} (hx : (s.window p c).line? k = some x)
    (hd : x.dirty ≠ 0#128) (hu : x.uncommitted = 0#128) (part cell : Nat) : (s.writeBack p c k).window part cell =
      if p = part ∧ c = cell then (s.window part cell).cleaned k else s.window part cell := by
  obtain ⟨poison, hw⟩ := writeBack_of_dirty hx hd hu
  have hruns := windows_homeRuns s (s.window p c) k x.dirty
  rw [hw]
  generalize homeRuns s (s.window p c) k x.dirty = u at hruns ⊢
  have hsame : State.window { u with memPoison := poison } part cell = s.window part cell := window_congr hruns part cell
  rw [window_modWindow (f := Window.cleaned k) (fun _ => ⟨rfl, rfl⟩), hsame]

/-- A write-back leaves no clean line dirty. -/
theorem lineClean_writeBack {s : State} {part cell l : Nat} (h : s.lineClean part cell l) (p c k : Nat) :
    (s.writeBack p c k).lineClean part cell l := by
  by_cases hno : ∀ x, (s.window p c).line? k = some x → x.dirty = 0#128 ∨ x.uncommitted ≠ 0#128
  · rw [writeBack_of_not hno]
    exact h
  · push Not at hno
    obtain ⟨x, hx, hd, hu⟩ := hno
    unfold State.lineClean
    rw [window_writeBack_of_dirty hx hd hu]
    split
    · rw [line?_cleaned]
      intro y hy hun
      obtain ⟨z, hz, rfl⟩ := Option.map_eq_some_iff.mp hy
      split
      · rfl
      · next hne =>
        rw [if_neg hne] at hun
        exact h z hz hun
    · exact h

/-- The line that is written back is clean. -/
theorem lineClean_writeBack_self (s : State) (part cell l : Nat) : (s.writeBack part cell l).lineClean part cell l := by
  by_cases hno : ∀ x, (s.window part cell).line? l = some x → x.dirty = 0#128 ∨ x.uncommitted ≠ 0#128
  · rw [writeBack_of_not hno]
    exact fun y hy hun => (hno y hy).resolve_right (absurd hun)
  · push Not at hno
    obtain ⟨x, hx, hd, hu⟩ := hno
    unfold State.lineClean
    rw [window_writeBack_of_dirty hx hd hu, if_pos ⟨rfl, rfl⟩, line?_cleaned, hx]
    intro y hy _
    have hl : (x.line == l) = true := List.find?_some (p := fun y : CLine => y.line == l) hx
    rw [Option.map_some, if_pos hl] at hy
    obtain rfl := Option.some.inj hy
    rfl

/-! ### Windows drained (09 R249) -/

/-- What every step of a fold keeps, and one of them reaches, holds at the end. -/
theorem foldl_reaches {α : Type} {P : State → Prop} {step : State → α → State} (hkeep : ∀ s a, P s → P (step s a)) {a : α}
    {l : List α} (ha : a ∈ l) (hreach : ∀ s, P (step s a)) (s : State) : P (l.foldl step s) := by
  obtain ⟨l1, l2, rfl⟩ := List.append_of_mem ha
  rw [List.foldl_append, List.foldl_cons]
  exact List.foldlRecOn l2 step (hreach _) fun t ht b _ => hkeep t b ht

theorem lineClean_drainLines {s : State} {part cell l : Nat} (h : s.lineClean part cell l) (p c : Nat) (ls : List Nat) :
    (s.drainLines p c ls).lineClean part cell l :=
  List.foldlRecOn (motive := fun t : State => t.lineClean part cell l) ls _ h fun _ ht k _ => lineClean_writeBack ht p c k

/-- Every line of the windows that are drained is clean. -/
theorem lineClean_drainWindows {s : State} {sel : Window → Bool} {part cell : Nat}
    (hsel : ∀ w, w.part = part → w.cell = cell → sel w = true) (l : Nat) : (s.drainWindows sel).lineClean part cell l := by
  have hkeep (t : State) (w : Window) (h : t.lineClean part cell l) :
      (t.drainLines w.part w.cell (w.lines.map (·.line))).lineClean part cell l := lineClean_drainLines h _ _ _
  have hnone (h : (s.window part cell).line? l = none) : (s.drainWindows sel).lineClean part cell l :=
    List.foldlRecOn (motive := fun t : State => t.lineClean part cell l) (s.windows.filter sel) _
      (fun y hy => by rw [h] at hy; cases hy) fun t ht w _ => hkeep t w ht
  cases hfind : s.windows.find? (Window.isOf part cell) with
  | none => exact hnone (by rw [window_eq, hfind]; rfl)
  | some w =>
    obtain ⟨rfl, rfl⟩ : w.part = part ∧ w.cell = cell := by simpa [Window.isOf] using List.find?_some hfind
    have hw : s.window w.part w.cell = w := by rw [window_eq, hfind]; rfl
    have hmem : w ∈ s.windows.filter sel := List.mem_filter.mpr ⟨List.mem_of_find?_eq_some hfind, hsel w rfl rfl⟩
    cases hl : w.line? l with
    | none => exact hnone (by rw [hw, hl])
    | some y =>
      have hline : l ∈ w.lines.map (·.line) :=
        List.mem_map.mpr ⟨y, List.mem_of_find?_eq_some hl, by simpa using List.find?_some hl⟩
      exact foldl_reaches hkeep hmem (fun t => foldl_reaches (P := fun t => t.lineClean w.part w.cell l)
        (fun t k h => lineClean_writeBack h _ _ k) hline (fun t => lineClean_writeBack_self t _ _ l) t) s

/-! ### The completion of a region (06 R172) -/

theorem housekeeping_drainRegion (s : State) (k : Nat) (x : Region) : Housekeeping s (s.drainRegion k x) :=
  housekeeping_drainWindows s _

theorem ctl_drainRegion (s : State) (k : Nat) (x : Region) (i : Nat) :
    SameRegs (s.group i) ((s.drainRegion k x).group i) ∧ ((s.drainRegion k x).group i).ctl = (s.group i).ctl := by
  obtain ⟨_, h⟩ := (housekeeping_drainRegion s k x).group i
  rw [h]
  exact ⟨⟨rfl, rfl, rfl, rfl⟩, rfl⟩

/-- What a block of the region wrote through is clean. -/
theorem lineClean_drainRegion {s : State} {k : Nat} {b : Block} (hb : b ∈ s.blocks) (hk : b.region = k) {c : Nat}
    (hc : c ∈ b.cells) (x : Region) (l : Nat) : (s.drainRegion k x).lineClean x.part c l := by
  refine lineClean_drainWindows (fun w hp hcell => ?_) l
  simp only [Bool.and_eq_true, beq_iff_eq, List.any_eq_true]
  exact ⟨hp, b, hb, hk, by rw [hcell]; simpa using hc⟩

theorem regionComplete_happens (r : Nat) (x : Region) : Happens (.regionComplete r)
    (fun s => s.regions[r]? = some x ∧ x.complete = false ∧ s.regionEnded r = true ∧ (∀ p ∈ s.passes, p.region ≠ r) ∧
      (∀ y ∈ s.regions, y.parent = some r → y.complete = true) ∧ s.writesDone r = true ∧ x.doneAddr = 0#64 ∧
      x.doneIrq = false)
    fun s t => (∀ p c a, (t.window p c).mem.get a = (s.window p c).mem.get a) ∧
      (∀ i, SameRegs (s.group i) (t.group i) ∧ (t.group i).ctl = (s.group i).ctl) ∧
      (∀ b ∈ s.blocks, b.region = r → ∀ c ∈ b.cells, ∀ l y, (t.window x.part c).line? l = some y → y.uncommitted = 0#128 →
        y.dirty = 0#128) ∧
      ∃ x', t.regions[r]? = some x' ∧ x'.complete = true := by
  refine .of_next (fun _ => rfl) fun s _ ⟨hx, hnot, hended, hpass, hkids, hdone, haddr, hirq⟩ => ?_
  have hopen : s.regions.any (fun y => y.parent == some r && !y.complete) = false :=
    List.any_eq_false.mpr fun y hy h => by
      obtain ⟨hp, hc⟩ : y.parent = some r ∧ y.complete = false := by simpa using h
      exact absurd (hkids y hy hp) (by rw [hc]; decide)
  rw [hx]
  dsimp only
  generalize hm : (List.range s.passes.length).filter _ = mine
  have hmine : mine = [] := by
    rw [← hm]
    refine List.filter_eq_nil_iff.mpr fun k _ => ?_
    cases hk : s.passes[k]? with
    | none => simp
    | some p => simpa using hpass p (List.mem_of_getElem? hk)
  rw [hnot, hended, hmine, hopen, hdone, haddr, hirq]
  have hreg : (s.drainRegion r x).regions[r]? = some x := by rw [(housekeeping_drainRegion s r x).regions, hx]
  exact ⟨fun p c a => congrArg (Mem.get · a) ((housekeeping_drainRegion s r x).store p c), ctl_drainRegion s r x,
    fun b hb hk c hc l => lineClean_drainRegion hb hk hc x l, _, region_modRegion hreg _, rfl⟩

end Sys2Proof.Machine
end

section
/-! PROOFS. A posted region is taken (06 R168 to R171): it either waits in the list of regions, or its admission fails
with a reason, a record and its completion word. -/
namespace Sys2Proof.Machine
open Sys2Proof

/-! ### An admission that fails (06 R171, R172) -/

theorem housekeeping_doneWord (s : State) (c addr val status reason : Nat) (irq : Bool) :
    Housekeeping s (s.doneWord c addr val status reason irq) := by
  have hword : Housekeeping s (if addr = 0 then s
      else match s.writeVa c addr (leBytes 4 val ++ [BitVec.ofNat 8 status, BitVec.ofNat 8 reason, 0#8, 0#8]) with
        | .ok s1 => s1
        | .error e => s.ctxRecord { ErrRec.plain e.code c with flags := 1, vaddr := addr }) := by
    split
    · exact .refl s
    · split
      · next h => exact housekeeping_writeVa h
      · exact housekeeping_ctxRecord s _
  cases irq
  · exact hword
  · exact hword.trans (housekeeping_raise _ _ _)

theorem housekeeping_admissionFail (s : State) (c reason rcb : Nat) (launched : Bool) (word : Option Rcb) :
    Housekeeping s (s.admissionFail c reason rcb launched word) := by
  unfold State.admissionFail
  dsimp only
  split
  · exact (housekeeping_ctxRecord s _).trans (housekeeping_doneWord _ _ _ _ _ _ _)
  · exact housekeeping_ctxRecord s _

/-! ### A region admitted (06 R168) -/

/-- The functions' queues are as they were, and one region has come, at the end of the list. -/
structure Admits (reg : Region) (s t : State) : Prop where
  fns : t.hub.fns = s.hub.fns
  regions : ∃ coat order, t.regions = s.regions ++ [{ reg with coat := coat, order := order }]

theorem newCoat_keeps (s : State) (r : Rcb) (c : Nat) :
    (s.newCoat r c).1.regions = s.regions ∧ (s.newCoat r c).1.hub.fns = s.hub.fns := by
  unfold State.newCoat
  dsimp only
  split <;> exact ⟨rfl, rfl⟩

theorem foldl_hubPin_keeps (region cls : Nat) (l : List (Nat × Nat)) (s : State) :
    (l.foldl (fun s p => s.hubPin region cls p.1 p.2) s).regions = s.regions ∧
    (l.foldl (fun s p => s.hubPin region cls p.1 p.2) s).hub = s.hub :=
  List.foldlRecOn (motive := fun t : State => t.regions = s.regions ∧ t.hub = s.hub) l _ ⟨rfl, rfl⟩ fun _ ht _ _ => ht

theorem admitRegion_admits (s : State) (r : Rcb) (reg : Region) (decl : Option (List Byte × List Byte)) :
    Admits reg s (s.admitRegion r reg decl) := by
  unfold State.admitRegion
  generalize hc : (if r.isCoat then let x := s.newCoat r reg.ctx; (x.1, some x.2) else (s, reg.coat)) = p
  have hp : p.1.regions = s.regions ∧ p.1.hub.fns = s.hub.fns := by
    rw [← hc]
    split
    · exact newCoat_keeps s r reg.ctx
    · exact ⟨rfl, rfl⟩
  obtain ⟨s1, coat⟩ := p
  obtain ⟨hreg, hfns⟩ := hp
  dsimp only at hreg hfns ⊢
  constructor
  · rw [modCtx_hub, (foldl_hubPin_keeps _ _ _ _).2]
    exact hfns
  · rw [modCtx_regions, (foldl_hubPin_keeps _ _ _ _).1, ← hreg]
    exact ⟨coat, _, rfl⟩

/-! ### The take (06 R168 to R170) -/

theorem declaration_error {s : State} {c addr e : Nat} (h : s.declaration c addr = .error e) : e ≠ 0 := by
  unfold State.declaration at h
  split at h
  · cases h
  · split at h
    · cases h; decide
    · dsimp only at h
      split at h
      · cases h; decide
      · split at h
        · cases h; decide
        · cases h

theorem storage_error {s : State} {c e : Nat} (h : s.storage c = .error e) : e ≠ 0 := by
  unfold State.storage at h
  dsimp only at h
  split at h
  · cases h; decide
  · split at h
    · cases h; decide
    · split at h
      · cases h; decide
      · cases h

/-- A root's take fails with a reason other than 0, or admits a region of the context that is not complete. -/
theorem take_cases (s : State) (c cls rcb : Nat) :
    (∃ reason word, reason ≠ 0 ∧ s.take c cls rcb none none = (s.admissionFail c reason rcb false word, reason)) ∨
    ∃ r reg d, reg.ctx = c ∧ reg.complete = false ∧ s.take c cls rcb none none = (s.admitRegion r reg d, 0) := by
  unfold State.take
  dsimp only [Option.isSome_none, Option.bind_none]
  split
  · exact .inl ⟨1, none, by decide, rfl⟩
  · next raw _ =>
    split
    · exact .inl ⟨1, none, by decide, rfl⟩
    · generalize (Rcb.parse raw).present s.hub = r
      rw [if_neg Bool.false_ne_true]
      cases hdecl : s.declaration c r.mustSave with
      | error e => exact .inl ⟨e, some r, declaration_error hdecl, rfl⟩
      | ok d =>
        cases hpool : s.storage c with
        | error e => exact .inl ⟨e, some r, storage_error hpool, rfl⟩
        | ok pool =>
          dsimp only
          split
          · exact .inl ⟨2, some r, by decide, rfl⟩
          · split
            · exact .inr ⟨r, _, d, rfl, rfl, rfl⟩
            · next n hn => exact .inl ⟨_, some r, hn, rfl⟩

theorem postTake_happens (f cls : Nat) (fn : HostFn) (c rcb : Nat) (rest : List (Nat × Nat)) : Happens (.postTake f cls)
    (fun s => s.hub.fns[f]? = some fn ∧ fn.queue.getD cls [] = (c, rcb) :: rest ∧ s.hub.save = none ∧ (s.ctx c).state ≠ 5 ∧
      cls < fn.queue.length)
    fun s t =>
      let s1 : State := { s with hub := { s.hub with fns := s.hub.fns.set f { fn with queue := fn.queue.set cls rest } } }
      (∃ fn', t.hub.fns[f]? = some fn' ∧ fn'.queue.getD cls [] = rest) ∧
      ((s1.take c cls rcb none none).2 = 0 → ∃ x, t.regions = s.regions ++ [x] ∧ x.ctx = c ∧ x.complete = false) := by
  refine .of_next (fun _ => rfl) fun s _ ⟨hfn, hqueue, hsave, hctx, hcls⟩ => ?_
  rw [hfn]
  dsimp only
  rw [hqueue]
  dsimp only
  have hfree : (s.hub.save.isSome || (s.ctx c).state == 5) = false := by simp [hsave, hctx]
  rw [hfree, if_neg Bool.false_ne_true, modifyAt_eq_set hfn]
  generalize hs1 : ({ s with hub := { s.hub with
    fns := s.hub.fns.set f { fn with queue := fn.queue.set cls rest } } } : State) = s1
  have hreg : s1.regions = s.regions := by rw [← hs1]
  have hf : s1.hub.fns[f]? = some { fn with queue := fn.queue.set cls rest } := by
    rw [← hs1]
    exact List.getElem?_set_self (List.getElem?_eq_some_iff.mp hfn).1
  have hrest : (fn.queue.set cls rest).getD cls [] = rest := by simp [hcls]
  rcases take_cases s1 c cls rcb with ⟨reason, word, hne, htake⟩ | ⟨r, reg, d, hc, hcomplete, htake⟩
  · rw [htake]
    refine ⟨?_, fun h => absurd h hne⟩
    have hq := (housekeeping_admissionFail s1 c reason rcb false word).queues f
    rw [hf, Option.map_some] at hq
    obtain ⟨fn', hfn', hq'⟩ := Option.map_eq_some_iff.mp hq
    exact ⟨fn', hfn', by rw [hq']; exact hrest⟩
  · rw [htake]
    obtain ⟨hfns, coat, order, hregs⟩ := admitRegion_admits s1 r reg d
    exact ⟨⟨_, by rw [hfns]; exact hf, hrest⟩, fun _ => ⟨{ reg with coat := coat, order := order }, by rw [hregs, hreg], hc,
      hcomplete⟩⟩

end Sys2Proof.Machine
end

section
/-! PROOFS. A block goes back to its latest barrier (05 R138, R142; 08 R226). First what a spill of a register leaves:
the other groups, the blocks, and the bytes of the windows. -/
namespace Sys2Proof.Machine
open Sys2Proof

/-! ### Spills of a group's registers (08 R224, R226) -/

/-- As housekeeping, but for one group, which may have changed. -/
structure KeepsOthers (i : Nat) (s t : State) : Prop extends KeepsBlocks s t where
  others : ∀ j, j ≠ i → ∃ mons, t.group j = { s.group j with mons := mons }

theorem Housekeeping.keepsOthers {s t : State} (h : Housekeeping s t) (i : Nat) : KeepsOthers i s t :=
  ⟨h.toKeepsBlocks, fun j _ => h.group j⟩

theorem KeepsOthers.trans {i : Nat} {s t u : State} (h : KeepsOthers i s t) (k : KeepsOthers i t u) : KeepsOthers i s u :=
  ⟨h.toKeepsBlocks.trans k.toKeepsBlocks, fun j hj => by
    obtain ⟨_, h1⟩ := h.others j hj
    obtain ⟨_, h2⟩ := k.others j hj
    exact ⟨_, by rw [h2, h1]⟩⟩

theorem keepsOthers_modGroup (s : State) (i : Nat) (f : Group → Group) : KeepsOthers i s (s.modGroup i f) :=
  ⟨⟨rfl, modGroup_length s i f, rfl, fun _ => ⟨_, _, _, rfl⟩, fun _ _ => rfl, fun _ => rfl⟩,
    fun _ hj => ⟨_, group_modGroup_ne hj f⟩⟩

theorem housekeeping_tlbUse (s : State) (cell quad c va : Nat) : Housekeeping s (s.tlbUse cell quad c va) := by
  unfold State.tlbUse
  dsimp only
  split
  · exact .refl s
  · split
    · exact .refl s
    · split
      · exact .of_eq rfl rfl rfl rfl rfl
      · split
        · exact .refl s
        · exact .of_eq rfl rfl rfl rfl rfl

theorem keepsStore_putLine (x : CLine) : KeepsStore fun w => w.putLine x := fun _ => ⟨rfl, rfl, rfl⟩
theorem keepsStore_dropLine (l : Nat) : KeepsStore fun w => w.dropLine l := fun _ => ⟨rfl, rfl, rfl⟩

theorem housekeeping_allocLine {s t : State} {part cell l : Nat} (h : s.allocLine part cell l = some t) : Housekeeping s t := by
  unfold State.allocLine at h
  dsimp only at h
  split at h
  · next x _ =>
    obtain rfl := Option.some.inj h
    exact housekeeping_modWindow (keepsStore_putLine x) s part cell
  · split at h
    · obtain rfl := Option.some.inj h
      exact housekeeping_modWindow (keepsStore_putLine _) s part cell
    · split at h
      · cases h
      · next v _ =>
        obtain rfl := Option.some.inj h
        exact ((housekeeping_writeBack s part cell v.line).trans
          (housekeeping_modWindow (keepsStore_dropLine v.line) _ part cell)).trans
          (housekeeping_modWindow (keepsStore_putLine _) _ part cell)

theorem housekeeping_cleanFor (s : State) (part cell : Nat) (k : WriteKind) (l : Nat) :
    Housekeeping s (s.cleanFor part cell k l) := by
  cases k with
  | uncommitted o => exact housekeeping_writeBack s part cell l
  | committed => exact .refl s
  | spill => exact .refl s

theorem housekeeping_cacheWriteLine {s t : State} {part cell : Nat} {k : WriteKind} {pa : Nat} {b : List Byte}
    (h : s.cacheWriteLine part cell k pa b = some t) : Housekeeping s t := by
  unfold State.cacheWriteLine at h
  dsimp only at h
  split at h
  · cases h
  · next s1 halloc =>
    obtain rfl := Option.some.inj h
    refine ((housekeeping_cleanFor s part cell k (pa / 128)).trans (housekeeping_allocLine halloc)).trans
      (housekeeping_modWindow (fun w => ?_) s1 part cell)
    cases k with
    | spill => exact ⟨rfl, rfl, rfl⟩
    | committed =>
      dsimp only
      split <;> exact ⟨rfl, rfl, rfl⟩
    | uncommitted o =>
      dsimp only
      split <;> exact ⟨rfl, rfl, rfl⟩

theorem housekeeping_cacheWriteGo {s t : State} {part cell : Nat} {k : WriteKind} {fuel pa : Nat} {b : List Byte}
    (h : s.cacheWriteGo part cell k fuel pa b = some t) : Housekeeping s t := by
  induction fuel generalizing s pa b with
  | zero =>
    obtain rfl := Option.some.inj h
    exact .refl _
  | succ n ih =>
    unfold State.cacheWriteGo at h
    split at h
    · obtain rfl := Option.some.inj h
      exact .refl _
    · dsimp only at h
      split at h
      · cases h
      · next hline => exact (housekeeping_cacheWriteLine hline).trans (ih h)

theorem housekeeping_slotWrite {s t : State} {part cell b : Nat} {e : TlbEntry} {va : Nat} {bytes : List Byte}
    (h : s.slotWrite part cell b e va bytes = some t) : Housekeeping s t := by
  have hothers := housekeeping_commitOthers s part cell b (e.phys va) bytes.length
  unfold State.slotWrite at h
  dsimp only at h
  split at h
  · obtain rfl := Option.some.inj h
    exact hothers.trans (housekeeping_homeWrite _ _ _)
  · exact hothers.trans (housekeeping_cacheWriteGo h)

theorem housekeeping_slotMark (s : State) (part cell : Nat) (e : TlbEntry) (va : Nat) (p : Poison) :
    Housekeeping s (s.slotMark part cell e va p) := by
  unfold State.slotMark
  split
  · exact housekeeping_memPoison s _
  · exact housekeeping_modWindow (f := fun w => { w with cachePoison := w.cachePoison.mark (e.phys va) p })
      (fun _ => ⟨rfl, rfl, rfl⟩) s part cell

theorem keepsOthers_spillReg {s t : State} {i r : Nat} (h : s.spillReg i r = .ok (some t)) : KeepsOthers i s t := by
  unfold State.spillReg at h
  dsimp only at h
  split at h
  · cases h
  · split at h
    · cases h
    · next s1 hwrite =>
      obtain rfl := Option.some.inj (Except.ok.inj h)
      refine (Housekeeping.keepsOthers ?_ i).trans (keepsOthers_modGroup _ i _)
      have h1 : Housekeeping s s1 := (housekeeping_tlbUse s _ _ _ _).trans (housekeeping_slotWrite hwrite)
      split
      · exact h1.trans (housekeeping_slotMark s1 _ _ _ _ _)
      · exact h1

theorem keepsOthers_spillHome (s : State) (i r : Nat) : KeepsOthers i s (s.spillHome i r) := by
  unfold State.spillHome
  dsimp only
  split
  · exact (Housekeeping.refl s).keepsOthers i
  · exact ((housekeeping_homeWrite s _ _).keepsOthers i).trans (keepsOthers_modGroup _ i _)

/-- One register of a group written to its slot again. -/
def State.respillReg (i : Nat) (s : State) (r : Nat) : State :=
  let g := s.group i
  if (g.vreg r).tag = 0 then s
  else match s.spillReg i r with
    | .ok (some s1) => s1
    | .ok .none => s.spillHome i r
    | .error f => s.modGroup i fun g => g.withTrap fun t =>
        { t with atNext := match t.atNext with | some x => some x | .none => some f }

theorem respill_eq (s : State) (i : Nat) :
    s.respill i = (List.range (8 * (s.group i).id.vregs)).foldl (State.respillReg i) s := rfl

theorem keepsOthers_respillReg (i : Nat) (s : State) (r : Nat) : KeepsOthers i s (s.respillReg i r) := by
  unfold State.respillReg
  dsimp only
  split
  · exact (Housekeeping.refl s).keepsOthers i
  · split
    · next h => exact keepsOthers_spillReg h
    · exact keepsOthers_spillHome s i r
    · exact keepsOthers_modGroup s i _

theorem keepsOthers_respill (s : State) (i : Nat) : KeepsOthers i s (s.respill i) := by
  rw [respill_eq]
  exact List.foldlRecOn _ (State.respillReg i) ((Housekeeping.refl s).keepsOthers i) fun t ht r _ =>
    ht.trans (keepsOthers_respillReg i t r)

/-- A group none of whose registers is spilled has nothing to write. -/
theorem respill_of_resident {s : State} {i : Nat} (h : ∀ r, ((s.group i).vreg r).tag = 0) : s.respill i = s := by
  rw [respill_eq]
  exact List.foldlRecOn (motive := fun t : State => t = s) _ (State.respillReg i) rfl fun t ht r _ => by
    rw [ht]
    exact if_pos (h r)

/-- Spilled registers of several groups written again leave blocks and windows, and a group without any. -/
theorem respillAll_keeps (l : List (Nat × Group)) (s : State) : KeepsBlocks s (l.foldl (fun s x => s.respill x.1) s) ∧
    ∀ i, (∀ r, ((s.group i).vreg r).tag = 0) →
      ∃ mons, (l.foldl (fun s x => s.respill x.1) s).group i = { s.group i with mons := mons } := by
  refine ⟨List.foldlRecOn l _ (.refl s) fun t ht x _ => ht.trans (keepsOthers_respill t x.1).toKeepsBlocks, fun i hi => ?_⟩
  refine List.foldlRecOn (motive := fun t : State => ∃ mons, t.group i = { s.group i with mons := mons }) l _ ⟨_, rfl⟩
    fun t ⟨mons, ht⟩ x _ => ?_
  by_cases hx : i = x.1
  · have hres : ∀ r, ((t.group x.1).vreg r).tag = 0 := by
      rw [← hx, ht]
      exact hi
    rw [respill_of_resident hres]
    exact ⟨mons, ht⟩
  · obtain ⟨mons', h⟩ := (keepsOthers_respill t x.1).others i hx
    exact ⟨mons', by rw [h, ht]⟩

/-! ### A segment pasted over the place that it left (05 R138) -/

theorem Mem.get_paste_below {lo a x : Nat} {m src : Mem} (hm : m.wf = true) (hsrc : Mem.wfFrom lo src = true) (hx : x < lo) :
    (m.paste a src).get (a + x) = m.get (a + x) := by
  induction src generalizing m lo with
  | nil => rfl
  | cons c r ih =>
    obtain ⟨hlo, -, hr⟩ := Mem.wfFrom_cons.mp hsrc
    have hstep : (m.paste a (c :: r)).get (a + x) = ((m.set (a + c.1) c.2).paste a r).get (a + x) := rfl
    rw [hstep, ih (Mem.wf_set hm _ _) hr (by omega), Mem.get_set hm, if_neg (by omega)]

/-- Where nothing was listed, the pasted bytes are read. -/
theorem Mem.get_paste_of_blank {lo a x : Nat} {m src : Mem} (hm : m.wf = true) (hsrc : Mem.wfFrom lo src = true)
    (hblank : m.get (a + x) = 0#8) : (m.paste a src).get (a + x) = src.get x := by
  induction src generalizing m lo with
  | nil => exact hblank
  | cons c r ih =>
    obtain ⟨y, v⟩ := c
    obtain ⟨-, -, hr⟩ := Mem.wfFrom_cons.mp hsrc
    have hset := Mem.wf_set hm (a + y) v
    have hstep : (m.paste a ((y, v) :: r)).get (a + x) = ((m.set (a + y) v).paste a r).get (a + x) := rfl
    rw [hstep]
    rcases Nat.lt_trichotomy x y with hlt | rfl | hgt
    · rw [Mem.get_paste_below hset hr (by omega), Mem.get_set hm, if_neg (by omega), hblank]
      simp [Mem.get, hlt, Nat.ne_of_lt hlt, Mem.unlisted]
    · rw [Mem.get_paste_below hset hr (by omega), Mem.get_set hm, if_pos rfl]
      simp [Mem.get]
    · rw [ih hset hr (by rw [Mem.get_set hm, if_neg (by omega), hblank])]
      simp [Mem.get, Nat.ne_of_gt hgt, Nat.not_lt_of_gt hgt]

/-- A block's segment in its window as the shadow holds it, with its poison. -/
def Window.segBack (bl : Block) (h : Shadow) (x : Nat × Mem) (w : Window) : Window :=
  let o := bl.seg x.1
  let old := ((h.segPoison.find? fun y => y.1 == x.1).map (·.2)).getD []
  let same (a : Nat) : Bool := decide (w.mem.bytes (o + a / 256 * 256) 256 = x.2.bytes (a / 256 * 256) 256)
  let now := w.poison.filter fun q => decide (o ≤ q.1 ∧ q.1 < o + bl.shared) && same (q.1 - o)
  { w with mem := (w.mem.erase o bl.shared).paste o x.2
           poison := old.foldl (fun (p : Poisons) q => p.mark (o + q.1) q.2)
             (now ++ w.poison.filter fun q => !decide (o ≤ q.1 ∧ q.1 < o + bl.shared)) }

/-- The segments of a block in their windows as the shadow holds them. -/
def State.segsBack (s : State) (bl : Block) (h : Shadow) (l : List (Nat × Mem)) : State :=
  l.foldl (fun s x => s.modWindow bl.part x.1 (Window.segBack bl h x)) s

theorem keepsPlaced_segsBack (s : State) (bl : Block) (h : Shadow) (l : List (Nat × Mem)) : KeepsPlaced s (s.segsBack bl h l) :=
  keepsPlaced_foldWindows (fun _ => bl.part) (fun x : Nat × Mem => x.1) (Window.segBack bl h) l s

theorem window_segsBack_of_not_mem {bl : Block} {l : List (Nat × Mem)} {c : Nat} (hc : c ∉ l.map (·.1)) (s : State)
    (h : Shadow) : (s.segsBack bl h l).window bl.part c = s.window bl.part c := by
  refine List.foldlRecOn (motive := fun t : State => t.window bl.part c = s.window bl.part c) l _ rfl fun t ht x hx => ?_
  rw [window_modWindow (f := Window.segBack bl h x) fun _ => ⟨rfl, rfl⟩, if_neg, ht]
  rintro ⟨-, rfl⟩
  exact hc (List.mem_map_of_mem hx)

/-- With one segment to a cell each stands in its window. -/
theorem mem_segsBack {bl : Block} {l : List (Nat × Mem)} (hn : (l.map (·.1)).Nodup) {x : Nat × Mem} (hx : x ∈ l) (s : State)
    (h : Shadow) : ((s.segsBack bl h l).window bl.part x.1).mem =
      ((s.window bl.part x.1).mem.erase (bl.seg x.1) bl.shared).paste (bl.seg x.1) x.2 := by
  obtain ⟨l1, l2, rfl⟩ := List.append_of_mem hx
  rw [List.map_append, List.map_cons] at hn
  have hbefore : x.1 ∉ l1.map (·.1) := fun hmem => List.disjoint_of_nodup_append hn hmem List.mem_cons_self
  have hafter : x.1 ∉ l2.map (·.1) := (List.nodup_cons.mp (List.nodup_append.mp hn).2.1).1
  have hsplit : s.segsBack bl h (l1 ++ x :: l2) =
      ((s.segsBack bl h l1).modWindow bl.part x.1 (Window.segBack bl h x)).segsBack bl h l2 := by
    rw [State.segsBack, List.foldl_append]
    rfl
  rw [hsplit, window_segsBack_of_not_mem hafter, window_modWindow (f := Window.segBack bl h x) fun _ => ⟨rfl, rfl⟩,
    if_pos ⟨rfl, rfl⟩, ← window_segsBack_of_not_mem hbefore s h]
  rfl

theorem canonical_window {s : State} (h : s.canonical = true) (p c : Nat) : (s.window p c).mem.wf = true := by
  simp only [State.canonical, Bool.and_eq_true] at h
  obtain ⟨⟨⟨⟨⟨⟨-, hwin⟩, -⟩, -⟩, -⟩, -⟩, -⟩ := h
  rw [window_eq]
  cases hfind : s.windows.find? (Window.isOf p c) with
  | none => rfl
  | some w =>
    have hw := List.all_eq_true.mp hwin w (List.mem_of_find?_eq_some hfind)
    rw [Bool.and_eq_true] at hw
    exact hw.1

/-! ### The rollback (05 R142) -/

/-- A group after the rollback of a block: as the shadow holds it, or gone; another block's stays. -/
def State.groupBack (s : State) (b : Nat) (h : Shadow) (i : Nat) : Group :=
  if !((s.group i).id.block == b) then s.group i
  else match h.groups.find? fun x => x.1 == i with
    | some x => x.2.rolledBack (s.now (s.group i))
    | .none => { s.group i with ctl := { (s.group i).ctl with status := .free, live := 0#32, act := 0#32 } }

/-- A block back at its latest barrier, one attempt further. -/
def Block.atBarrier (h : Shadow) (x : Block) : Block :=
  { x with
    barA := 0, barE := h.barE, arrived := [], dropped := h.dropped, lastphase := h.lastphase, rs := h.rs, tags := []
    retries := x.retries + 1, rollPending := false }

/-- A window without the FIFO markers of some groups. -/
def Window.dropMarkers (gone : Nat → Bool) (w : Window) : Window :=
  { w with fifo := w.fifo.filter fun e => match e with | .marker m => !gone m | .line _ => true }

theorem keepsStore_dropMarkers (gone : Nat → Bool) : KeepsStore (Window.dropMarkers gone) := fun _ => ⟨rfl, rfl, rfl⟩

/-- The groups go back first, then the segments and the rings, then spilled registers into their slots. -/
theorem rollback_stages {s : State} {b : Nat} {h : Shadow} (hsh : (s.block b).shadow = some h)
    (hpend : (s.block b).rollPending = true) (hcan : s.restorable b = true) : ∃ u v : State,
    u.groups = (List.range s.groups.length).map (s.groupBack b h) ∧ u.blocks = s.blocks ∧
    (∀ p c, (u.window p c).mem = (s.window p c).mem) ∧ Housekeeping (u.segsBack (s.block b) h h.segs) v ∧
    execRollback b s = .next ((h.groups.foldl (fun s x => s.respill x.1) v).modBlock b (Block.atBarrier h)) := by
  unfold execRollback
  rw [hsh]
  dsimp only
  rw [hpend, hcan, if_neg (by decide), if_neg (by decide)]
  generalize hu : ({ s.discardLines b with groups := _, atoms := _, msgs := _, texs := _, traces := _, contWrites := _,
                                           windows := _, cells := _ } : State) = u
  refine ⟨u, _, ?_, ?_, fun p c => ?_, ?_, rfl⟩
  · subst hu
    rfl
  · subst hu
    rfl
  · have hmarks : u.windows = (s.discardLines b).windows.map (Window.dropMarkers fun i => (s.group i).id.block == b) := by
      subst hu
      rfl
    exact (mem_window_map (keepsStore_dropMarkers _) hmarks p c).trans ((housekeeping_discardLines s b).store p c)
  · split
    · exact .trans (.refl _) (housekeeping_modQuad _ _ _ _)
    · exact .refl _

/-- With one entry to a key, an entry is the one that is found. -/
theorem find?_key_of_mem {α : Type} {l : List (Nat × α)} (hn : (l.map (·.1)).Nodup) {x : Nat × α} (hx : x ∈ l) :
    l.find? (fun y => y.1 == x.1) = some x := by
  induction l with
  | nil => exact absurd hx List.not_mem_nil
  | cons y l ih =>
    obtain ⟨hy, hl⟩ := List.nodup_cons.mp hn
    rcases List.mem_cons.mp hx with rfl | hmem
    · simp
    · have hne : y.1 ≠ x.1 := fun h => hy (List.mem_map.mpr ⟨x, hmem, h.symm⟩)
      rw [List.find?_cons_of_neg (by simpa using hne), ih hl hmem]

theorem groupBack_of_mem {s : State} {b : Nat} {h : Shadow} {x : Nat × Group} (hx : x ∈ h.groups)
    (hn : (h.groups.map (·.1)).Nodup) (hb : (s.group x.1).id.block = b) : s.groupBack b h x.1 = x.2.rolledBack (s.now (s.group x.1)) := by
  unfold State.groupBack
  rw [hb, find?_key_of_mem hn hx, if_neg (by simp)]

theorem rollback_happens (b : Nat) (h : Shadow) : Happens (.rollback b)
    (fun s => b < s.blocks.length ∧ (s.block b).shadow = some h ∧ (s.block b).rollPending = true ∧ s.restorable b = true)
    fun s t => (t.block b).retries = (s.block b).retries + 1 ∧ (t.block b).rollPending = false ∧
      (∀ x ∈ h.segs, (h.segs.map (·.1)).Nodup → x.2.wf = true → ∀ a, a < (s.block b).shared →
        (t.window (s.block b).part x.1).mem.get ((s.block b).seg x.1 + a) = x.2.get a) ∧
      ∀ x ∈ h.groups, (h.groups.map (·.1)).Nodup → x.1 < s.groups.length → (s.group x.1).id.block = b →
        (∀ r, (x.2.vreg r).tag = 0) →
        (t.group x.1).regs.v = x.2.regs.v ∧ (t.group x.1).regs.s = x.2.regs.s ∧ (t.group x.1).ctl.pc = x.2.ctl.pc ∧
        (t.group x.1).ctl.act = x.2.ctl.act ∧ (t.group x.1).ctl.live = x.2.ctl.live := by
  intro s hcanon ⟨hb, hsh, hpend, hcan⟩
  obtain ⟨u, v, hgroups, hblocks, hwin, hhouse, hexec⟩ := rollback_stages hsh hpend hcan
  refine ⟨_, hexec, ?_⟩
  obtain ⟨hkeep, hgroup⟩ := respillAll_keeps h.groups v
  have hsegs := keepsPlaced_segsBack u (s.block b) h h.segs
  have hall : KeepsBlocks (u.segsBack (s.block b) h h.segs) (h.groups.foldl (fun s x => s.respill x.1) v) :=
    hhouse.toKeepsBlocks.trans hkeep
  generalize h.groups.foldl (fun s x => s.respill x.1) v = w at *
  have hseg : ((u.segsBack (s.block b) h h.segs).block b) = s.block b := block_congr (hsegs.blocks.trans hblocks) b
  have hself : (w.modBlock b (Block.atBarrier h)).block b = (w.block b).atBarrier h :=
    block_modBlock_same (by rw [hall.blockCount, hsegs.blocks, hblocks]; exact hb) _
  obtain ⟨_, _, _, hw⟩ := hall.block b
  refine ⟨?_, ?_, fun x hx hn hwf a ha => ?_, fun x hx hn hlt hmine hres => ?_⟩
  · rw [hself, hw, hseg]
    rfl
  · rw [hself]
    rfl
  · have hwu := canonical_window hcanon (s.block b).part x.1
    have hmem : ((w.modBlock b (Block.atBarrier h)).window (s.block b).part x.1).mem = _ :=
      (hall.store (s.block b).part x.1).trans (mem_segsBack hn hx u h)
    rw [hmem, hwin]
    refine Mem.get_paste_of_blank (Mem.wf_erase hwu _ _) hwf ?_
    rw [Mem.get_erase hwu, if_pos (by omega)]
  · have hback : (u.segsBack (s.block b) h h.segs).group x.1 = x.2.rolledBack (s.now (s.group x.1)) := by
      rw [group_congr hsegs.groups, State.group, hgroups, ← groupBack_of_mem hx hn hmine]
      simp [hlt]
    obtain ⟨_, hv⟩ := hhouse.group x.1
    rw [hback] at hv
    obtain ⟨_, ht⟩ := hgroup x.1 (by rw [hv]; exact hres)
    rw [hv] at ht
    have hg : (w.modBlock b (Block.atBarrier h)).group x.1 = _ := ht
    rw [hg]
    exact ⟨rfl, rfl, rfl, rfl, rfl⟩

/-! ### The obligation -/

/-- Settles O44: each step of the scheduler is followed through what it changes, and the rest of the machine through what
placements, evictions and housekeeping leave as it was. -/
theorem schedulerSteps : Obligations.SchedulerSteps :=
  ⟨blockPlace_happens, sliceEnd_renews, sliceEnd_ends, sliceEnd_alone, blockEvict_happens, regionComplete_happens,
    rollback_happens, postTake_happens, shrinkComplete_happens, deferredLaunchEviction_happens⟩

end Sys2Proof.Machine
end

section
/-! PROOFS. What the operations of the state leave in the agenda (07 R194), from the folds and branches that they are made of
to the faults that a group takes: none adds an event and none takes one out. -/
namespace Sys2Proof.Machine
open Sys2Proof

/-! ### Folds and branches -/

/-- A fold keeps what each of its steps keeps. -/
theorem foldl_keeps {σ α β : Type} (φ : σ → β) {f : σ → α → σ} (h : ∀ x a, φ (f x a) = φ x) (l : List α) (x : σ) :
    φ (l.foldl f x) = φ x :=
  List.foldlRecOn (motive := fun y => φ y = φ x) l f rfl fun y hy a _ => (h y a).trans hy

@[simp] theorem foldl_agenda {α : Type} {f : State → α → State} (h : ∀ s a, (f s a).agenda = s.agenda) (l : List α)
    (s : State) : (l.foldl f s).agenda = s.agenda := foldl_keeps State.agenda h l s
@[simp] theorem foldl_fst_agenda {α β : Type} {f : State × β → α → State × β}
    (h : ∀ x a, (f x a).1.agenda = x.1.agenda) (l : List α) (x : State × β) : (l.foldl f x).1.agenda = x.1.agenda :=
  foldl_keeps (fun x => x.1.agenda) h l x
@[simp] theorem foldl_snd_agenda {α β : Type} {f : β × State → α → β × State}
    (h : ∀ x a, (f x a).2.agenda = x.2.agenda) (l : List α) (x : β × State) : (l.foldl f x).2.agenda = x.2.agenda :=
  foldl_keeps (fun x => x.2.agenda) h l x
@[simp] theorem ite_agenda (c : Prop) [Decidable c] (s t : State) :
    (if c then s else t).agenda = if c then s.agenda else t.agenda := apply_ite _ _ _ _
@[simp] theorem modGroup_agenda (s : State) (i : Nat) (f : Group → Group) : (s.modGroup i f).agenda = s.agenda := (rfl)
theorem if_agenda {a : List Instr} {c : Prop} [Decidable c] {s t : State} (hs : s.agenda = a) (ht : t.agenda = a) :
    (if c then s else t).agenda = a := by split <;> assumption
theorem WritesHome.agenda {s t : State} (h : WritesHome s t) : t.agenda = s.agenda := by
  obtain ⟨_, _, _, _, _, rfl⟩ := h
  rfl

/-- A fold that may fail keeps the agenda where each of its steps does. -/
theorem foldl_some_agenda {α : Type} {f : Option State → α → Option State} (h0 : ∀ a, f none a = none)
    (h : ∀ s a t, f (some s) a = some t → t.agenda = s.agenda) (l : List α) {s t : State}
    (ht : l.foldl f (some s) = some t) : t.agenda = s.agenda := by
  induction l generalizing s with
  | nil => cases ht; rfl
  | cons a l ih =>
    rw [List.foldl_cons] at ht
    cases hs : f (some s) a with
    | none =>
      rw [hs, List.foldlRecOn (motive := fun o => o = none) l f rfl fun o ho a _ => ho ▸ h0 a] at ht
      cases ht
    | some u => exact (ih (hs ▸ ht)).trans (h s a u hs)

/-! ### Memory, the cell caches and the registers -/

@[simp] theorem hubUse_agenda (s : State) (write : Bool) (pa n : Nat) :
    (s.hubUse write pa n).agenda = s.agenda := (rfl)
@[simp] theorem hubPin_agenda (s : State) (region cls pa n : Nat) :
    (s.hubPin region cls pa n).agenda = s.agenda := (rfl)
@[simp] theorem hubRetireWay_agenda (s : State) (way : Nat) : (s.hubRetireWay way).agenda = s.agenda := (rfl)
@[simp] theorem withFresh_agenda (s : State) : (s.withFresh).agenda = s.agenda := (rfl)
@[simp] theorem homeWrite_agenda (s : State) (pa : Nat) (b : List Byte) :
    (s.homeWrite pa b).agenda = s.agenda := (rfl)
@[simp] theorem fillTlb1_agenda (s : State) (cell quad : Nat) (e : TlbEntry) :
    (s.fillTlb1 cell quad e).agenda = s.agenda := (rfl)
@[simp] theorem fillTlb2_agenda (s : State) (cell : Nat) (e : TlbEntry) :
    (s.fillTlb2 cell e).agenda = s.agenda := (rfl)
@[simp] theorem tlbUse_agenda (s : State) (cell quad c va : Nat) : (s.tlbUse cell quad c va).agenda = s.agenda := by
  unfold State.tlbUse
  dsimp only
  (repeat' split) <;> simp
theorem writeVaGo_agenda {s t : State} {c fuel va : Nat} {b : List Byte} (h : s.writeVaGo c fuel va b = .ok t) :
    t.agenda = s.agenda := by
  induction fuel generalizing s va b with
  | zero => cases h; rfl
  | succ n ih =>
    unfold State.writeVaGo at h
    dsimp only at h
    split at h
    · cases h; rfl
    · split at h
      · cases h
      · exact (ih h).trans (homeWrite_agenda ..)
theorem writeVa_agenda {s : State} {c va : Nat} {b : List Byte} {t : State} (h : s.writeVa c va b = .ok t) :
    t.agenda = s.agenda := by
  unfold State.writeVa at h
  grind [writeVaGo_agenda]
@[simp] theorem winWrite_agenda (s : State) (part cell off : Nat) (b : List Byte) :
    (s.winWrite part cell off b).agenda = s.agenda := by simp [State.winWrite]
@[simp] theorem homeRuns_agenda (s : State) (w : Window) (l : Nat) (m : BitVec 128) :
    (homeRuns s w l m).agenda = s.agenda := (writesHome_homeRuns s w l m).agenda
@[simp] theorem writeBack_agenda (s : State) (part cell l : Nat) : (s.writeBack part cell l).agenda = s.agenda := by
  unfold State.writeBack
  dsimp only
  split <;> simp
theorem allocLine_agenda {s : State} {part cell l : Nat} {t : State} (h : s.allocLine part cell l = some t) :
    t.agenda = s.agenda := by
  unfold State.allocLine at h
  grind [setWindow_agenda, modWindow_agenda, writeBack_agenda]
theorem fillLine_agenda {s : State} {part cell l : Nat} {t : State} (h : s.fillLine part cell l = some t) :
    t.agenda = s.agenda := by
  unfold State.fillLine at h
  grind [allocLine_agenda, modWindow_agenda, hubUse_agenda]
@[simp] theorem cleanFor_agenda (s : State) (part cell : Nat) (k : WriteKind) (l : Nat) :
    (s.cleanFor part cell k l).agenda = s.agenda := by
  unfold State.cleanFor
  split <;> simp
theorem cacheWriteLine_agenda {s : State} {part cell : Nat} {k : WriteKind} {pa : Nat} {b : List Byte} {t : State}
    (h : s.cacheWriteLine part cell k pa b = some t) :
    t.agenda = s.agenda := by
  unfold State.cacheWriteLine at h
  grind [allocLine_agenda, cleanFor_agenda, modWindow_agenda]
theorem cacheWriteGo_agenda {s t : State} {part cell : Nat} {k : WriteKind} {fuel pa : Nat} {b : List Byte}
    (h : s.cacheWriteGo part cell k fuel pa b = some t) : t.agenda = s.agenda := by
  induction fuel generalizing s pa b with
  | zero => cases h; rfl
  | succ n ih =>
    unfold State.cacheWriteGo at h
    dsimp only at h
    split at h
    · cases h; rfl
    · split at h
      · cases h
      · exact (ih h).trans (cacheWriteLine_agenda ‹_›)
theorem cacheWrite_agenda {s : State} {part cell : Nat} {k : WriteKind} {pa : Nat} {b : List Byte} {t : State}
    (h : s.cacheWrite part cell k pa b = some t) :
    t.agenda = s.agenda := by
  unfold State.cacheWrite at h
  grind [cacheWriteGo_agenda]
@[simp] theorem drainLines_agenda (s : State) (part cell : Nat) (ls : List Nat) :
    (s.drainLines part cell ls).agenda = s.agenda := by simp [State.drainLines]
@[simp] theorem markStale_agenda (s : State) (part cell : Nat) :
    (s.markStale part cell).agenda = s.agenda := by simp [State.markStale]
@[simp] theorem sendLine_agenda (s : State) (part cell pa : Nat) :
    (s.sendLine part cell pa).agenda = s.agenda := by simp [State.sendLine]
@[simp] theorem commitLines_agenda (s : State) (b : Nat) : (s.commitLines b).agenda = s.agenda := (rfl)
@[simp] theorem discardLines_agenda (s : State) (b : Nat) : (s.discardLines b).agenda = s.agenda := (rfl)
@[simp] theorem commitEarly_agenda (s : State) (b : Nat) :
    (s.commitEarly b).agenda = s.agenda := by simp [State.commitEarly]
@[simp] theorem commitOthers_agenda (s : State) (part cell b pa n : Nat) :
    (s.commitOthers part cell b pa n).agenda = s.agenda := by simp [State.commitOthers]
@[simp] theorem modQuad_agenda (s : State) (c q : Nat) (f : Quad → Quad) :
    (s.modQuad c q f).agenda = s.agenda := (rfl)
@[simp] theorem useG_agenda (s : State) (g : Group) (va : Nat) :
    (s.useG g va).agenda = s.agenda := by simp [State.useG]
theorem slotWrite_agenda {s : State} {part cell b : Nat} {e : TlbEntry} {va : Nat} {bytes : List Byte} {t : State}
    (h : s.slotWrite part cell b e va bytes = some t) :
    t.agenda = s.agenda := by
  unfold State.slotWrite at h
  grind [commitOthers_agenda, homeWrite_agenda, cacheWrite_agenda]
@[simp] theorem slotMark_agenda (s : State) (part cell : Nat) (t : TlbEntry) (va : Nat) (p : Poison) :
    (s.slotMark part cell t va p).agenda = s.agenda := by simp [State.slotMark]
theorem spillReg_agenda {s t : State} {i r : Nat} (h : s.spillReg i r = .ok (some t)) : t.agenda = s.agenda := by
  unfold State.spillReg at h
  dsimp only at h
  split at h
  · cases h
  · split at h
    · cases h
    · next s1 hs =>
      have h1 := slotWrite_agenda hs
      cases h
      split <;> simp [h1]
theorem skimGo_agenda {s t : State} {i : Nat} {named dests : List Nat} {fuel : Nat}
    (h : s.skimGo i named dests fuel = .ok (some t)) : t.agenda = s.agenda := by
  induction fuel generalizing s with
  | zero => cases h; rfl
  | succ n ih =>
    unfold State.skimGo at h
    dsimp only at h
    split at h
    · cases h; rfl
    · split at h
      · cases h; rfl
      · split at h
        · cases h
        · cases h
        · exact (ih h).trans (spillReg_agenda ‹_›)
theorem skim_agenda {s t : State} {i : Nat} {named dests : List Nat} (h : s.skim i named dests = .ok (some t)) :
    t.agenda = s.agenda := skimGo_agenda h
theorem readSlot_agenda {s : State} {i r : Nat} {t : SlotRead} (h : s.readSlot i r = .ok (some t)) :
    t.st.agenda = s.agenda := by
  unfold State.readSlot at h
  grind [commitOthers_agenda, useG_agenda, fillLine_agenda]
theorem refill_agenda {s : State} {i : Nat} {named l : List Nat} {x : Refill} (h : s.refill i named l = .ok (some x)) :
    x.st.agenda = s.agenda := by
  induction l generalizing s x with
  | nil => cases h; rfl
  | cons r rest ih =>
    unfold State.refill at h
    dsimp only at h
    split at h
    · exact ih h
    · split at h
      · cases h
      · cases h
      · next y hy =>
        have hr := readSlot_agenda hy
        split at h
        · cases h
        · cases h
        · next s1 hs =>
          have h1 : s1.agenda = s.agenda := by
            split at hs
            · exact (skim_agenda hs).trans hr
            · cases hs; exact hr
          split at h
          · next z hz => cases h; exact (ih hz).trans h1
          · exact (ih h).trans h1

/-! ### Records, barriers, faults and the ends of threads -/

@[simp] theorem raise_agenda (s : State) (f v : Nat) : (s.raise f v).agenda = s.agenda := (rfl)
@[simp] theorem raiseCtx_agenda (s : State) (c pf vf : Nat) : (s.raiseCtx c pf vf).agenda = s.agenda := (rfl)
@[simp] theorem devRecord_agenda (s : State) (r : ErrRec) :
    (s.devRecord r).agenda = s.agenda := by simp [State.devRecord]
@[simp] theorem ctxRecord_agenda (s : State) (r : ErrRec) : (s.ctxRecord r).agenda = s.agenda := by
  unfold State.ctxRecord
  grind [writeVa_agenda, devRecord_agenda, raiseCtx_agenda, modCtx_agenda]
@[simp] theorem faultRecord_agenda (s : State) (g : Group) (f : FaultInfo) (domain pc skid : Nat) :
    (s.faultRecord g f domain pc skid).agenda = s.agenda := by simp [State.faultRecord]
@[simp] theorem segWrite_agenda (s : State) (b cell off : Nat) (v : List Byte) :
    (s.segWrite b cell off v).agenda = s.agenda := by simp [State.segWrite]
@[simp] theorem publish_agenda (s : State) (b cell : Nat) (sel : RaceTag → Bool) :
    (s.publish b cell sel).agenda = s.agenda := (rfl)
@[simp] theorem publishGroup_agenda (s : State) (i : Nat) :
    (s.publishGroup i).agenda = s.agenda := by simp [State.publishGroup]
@[simp] theorem acquireRace_agenda (s : State) (i : Nat) : (s.acquireRace i).agenda = s.agenda := (rfl)
@[simp] theorem setBobj_agenda (s : State) (b cell off : Nat) (o : BObj) :
    (s.setBobj b cell off o).agenda = s.agenda := by simp [State.setBobj]
@[simp] theorem mapGroups_agenda (s : State) (b cell : Nat) (f : Group → Group) :
    (s.mapGroups b cell f).agenda = s.agenda := (rfl)
@[simp] theorem bobjComplete_agenda (s : State) (b cell off : Nat) :
    (s.bobjComplete b cell off).agenda = s.agenda := by simp [State.bobjComplete]
@[simp] theorem bobjArrive_agenda (s : State) (b cell off amount : Nat) :
    (s.bobjArrive b cell off amount).agenda = s.agenda := by simp [State.bobjArrive]
@[simp] theorem bobjStarve_agenda (s : State) (b cell off : Nat) :
    (s.bobjStarve b cell off).agenda = s.agenda := by simp [State.bobjStarve]
@[simp] theorem bobjLeave_agenda (s : State) (i off : Nat) (m : Lanes) : (s.bobjLeave i off m).agenda = s.agenda := by
  unfold State.bobjLeave
  dsimp only
  split <;> simp
@[simp] theorem takeShadow_agenda (s : State) (b : Nat) :
    (s.takeShadow b).agenda = s.agenda := by simp [State.takeShadow]
@[simp] theorem shadowAfter_agenda (s : State) (i b phase : Nat) :
    (s.shadowAfter i b phase).agenda = s.agenda := by simp [State.shadowAfter]
@[simp] theorem barComplete_agenda (s : State) (b : Nat) :
    (s.barComplete b).agenda = s.agenda := by simp [State.barComplete]
@[simp] theorem barDrop_agenda (s : State) (b : Nat) (ts : List (Nat × Nat)) :
    (s.barDrop b ts).agenda = s.agenda := by simp [State.barDrop]
@[simp] theorem palEnd_agenda (s : State) (i : Nat) : (s.palEnd i).agenda = s.agenda := by simp [State.palEnd]
@[simp] theorem endGroup_agenda (s : State) (i : Nat) (tail : Bool) :
    (s.endGroup i tail).agenda = s.agenda := by simp [State.endGroup]
@[simp] theorem endThreads_agenda (s : State) (i : Nat) (m : Lanes) (tail : Bool) :
    (s.endThreads i m tail).agenda = s.agenda := by simp [State.endThreads]
@[simp] theorem leavePlace_agenda (s : State) (b : Nat) : (s.leavePlace b).agenda = s.agenda := by
  unfold State.leavePlace
  dsimp only
  split <;> simp
@[simp] theorem withdrawEnded_agenda (s : State) :
    (s.withdrawEnded).agenda = s.agenda := by simp [State.withdrawEnded]
@[simp] theorem endBlock_agenda (s : State) (b : Nat) : (s.endBlock b).agenda = s.agenda := by simp [State.endBlock]
@[simp] theorem domainFault_agenda (s : State) (i : Nat) (f : FaultInfo) (lanes : Lanes) (pc : DWord) :
    (s.domainFault i f lanes pc).agenda = s.agenda := by simp [State.domainFault]
@[simp] theorem uncorrectable_agenda (s : State) (i : Nat) (fs : List (FaultInfo × Nat)) (pc : DWord) :
    (s.uncorrectable i fs pc).agenda = s.agenda := by
  unfold State.uncorrectable
  dsimp only
  split <;> simp
@[simp] theorem takeFault_agenda (s : State) (i : Nat) (f : FaultInfo) (lanes : Lanes) (trappc ipc next : DWord) :
    (s.takeFault i f lanes trappc ipc next).agenda = s.agenda := by simp [State.takeFault]
@[simp] theorem consumeAt_agenda (s : State) (i start : Nat) (q : PendPoison) :
    (s.consumeAt i start q).agenda = s.agenda := (rfl)
@[simp] theorem consumeNow_agenda (s : State) (i : Nat) (q : PendPoison) :
    (s.consumeNow i q).agenda = s.agenda := (rfl)
@[simp] theorem consume_agenda (s : State) (i : Nat) (p : Poison) (addr paddr : Nat) :
    (s.consume i p addr paddr).agenda = s.agenda := (rfl)
@[simp] theorem skidEnd_agenda (s : State) (i : Nat) : (s.skidEnd i).agenda = s.agenda := by simp [State.skidEnd]

/-! ### What a result of a meaning keeps -/

/-- Every state that the end of an action carries has the agenda `a`. -/
def Res.Keeps (a : List Instr) : Res → Prop
  | .done s => s.agenda = a
  | .moved s => s.agenda = a
  | .trap _ => True
  | .laneTrap s _ _ => s.agenda = a
  | .after s _ _ => s.agenda = a
  | .laneBlock s _ _ _ => s.agenda = a
  | .block s _ => s.agenda = a
  | .hold s => s.agenda = a

@[simp] theorem Res.keeps_done {a : List Instr} {s : State} : (Res.done s).Keeps a ↔ s.agenda = a := Iff.rfl
@[simp] theorem Res.keeps_moved {a : List Instr} {s : State} : (Res.moved s).Keeps a ↔ s.agenda = a := Iff.rfl
@[simp] theorem Res.keeps_trap {a : List Instr} {f : FaultInfo} : (Res.trap f).Keeps a := trivial
@[simp] theorem Res.keeps_laneTrap {a : List Instr} {s : State} {f : FaultInfo} {m : Lanes} :
    (Res.laneTrap s f m).Keeps a ↔ s.agenda = a := Iff.rfl
@[simp] theorem Res.keeps_after {a : List Instr} {s : State} {f : FaultInfo} {m : Lanes} :
    (Res.after s f m).Keeps a ↔ s.agenda = a := Iff.rfl
@[simp] theorem Res.keeps_laneBlock {a : List Instr} {s : State} {f : FaultInfo} {m : Lanes} {w : Wake} :
    (Res.laneBlock s f m w).Keeps a ↔ s.agenda = a := Iff.rfl
@[simp] theorem Res.keeps_block {a : List Instr} {s : State} {w : Wake} : (Res.block s w).Keeps a ↔ s.agenda = a :=
  Iff.rfl
@[simp] theorem Res.keeps_hold {a : List Instr} {s : State} : (Res.hold s).Keeps a ↔ s.agenda = a := Iff.rfl

@[simp] theorem ite_keeps {a : List Instr} (c : Prop) [Decidable c] (r q : Res) :
    (if c then r else q).Keeps a ↔ if c then r.Keeps a else q.Keeps a := by split <;> rfl

theorem keeps_ite {a : List Instr} {c : Prop} [Decidable c] {r q : Res} (hr : r.Keeps a) (hq : q.Keeps a) :
    (if c then r else q).Keeps a := by split <;> assumption

theorem barredRes_keeps (a : List Instr) (r : Res) : (barredRes r).Keeps a := by
  unfold barredRes
  (repeat' split) <;> trivial
theorem onDone_keeps {a : List Instr} {f : State → State} (hf : ∀ s, (f s).agenda = s.agenda) {r : Res}
    (h : r.Keeps a) : (r.onDone f).Keeps a := by
  cases r <;> simp_all [Res.onDone]
theorem spillWrites_keeps {a : List Instr} {s0 s : State} {i : Nat} {p : Info} {k : State → Res} (h0 : s0.agenda = a)
    (hs : s.agenda = a) (hk : ∀ t, t.agenda = a → (k t).Keeps a) : (spillWrites s0 s i p k).Keeps a := by
  unfold spillWrites
  split
  · trivial
  · exact h0
  · exact hk _ ((skim_agenda ‹_›).trans hs)
theorem spills_keeps {a : List Instr} {s0 : State} {i : Nat} {p : Info} {r : Res} (h0 : s0.agenda = a)
    (h : r.Keeps a) : (r.spills s0 i p).Keeps a := by
  cases r with
  | done s => exact spillWrites_keeps h0 h fun _ ht => ht
  | laneTrap s f m => exact spillWrites_keeps h0 h fun _ ht => ht
  | after s f m => exact spillWrites_keeps h0 h fun _ ht => ht
  | moved s => exact h
  | trap f => trivial
  | laneBlock s f m w => exact h
  | block s w => exact h
  | hold s => exact h
theorem settle_agenda {a : List Instr} {s0 : State} {i : Nat} {p : Info} {r : Res} (h0 : s0.agenda = a)
    (h : r.Keeps a) : (settle s0 i p r).agenda = a := by
  cases r <;> simp_all [settle]
theorem prepared_keeps {s : State} {i : Nat} {p : Info} {body : State → Nat → Group → Res}
    (hb : ∀ t i g, (body t i g).Keeps t.agenda) : (prepared s i p body).Keeps s.agenda := by
  unfold prepared
  dsimp only
  split
  · rfl
  · split
    · trivial
    · rfl
    · next x hx =>
      have h1 : (match x.consumed with
          | some (va, pa, q) => x.st.consume i q va pa
          | .none => x.st).agenda = s.agenda := by
        split <;> simp [refill_agenda hx]
      split
      · exact h1 ▸ hb _ _ _
      · refine onDone_keeps (fun t => consume_agenda ..) ?_
        exact h1 ▸ hb _ _ _

end Sys2Proof.Machine
end

section
/-! PROOFS. The instructions of a program (12 R324): each answers where a group issues it, whatever stands in the state, and
keeps the agenda. -/
namespace Sys2Proof.Machine
open Sys2Proof

/-! ### Meanings that answer -/

/-- The meaning answers a next state, with the agenda as it was, from every state. -/
def Answers (f : State → Host.Outcome State Fault Refusal) : Prop :=
  ∀ s, ∃ t, f s = .next t ∧ t.agenda = s.agenda
/-- The same from every state in which a group issues. -/
def AnswersIssuer (f : State → Host.Outcome State Fault Refusal) : Prop :=
  ∀ s, s.issuer.isSome = true → ∃ t, f s = .next t ∧ t.agenda = s.agenda

theorem Answers.of_next {f : State → Host.Outcome State Fault Refusal} {g : State → State} (hf : ∀ s, f s = .next (g s))
    (hg : ∀ s, (g s).agenda = s.agenda) : Answers f := fun s => ⟨g s, hf s, hg s⟩

/-- An instruction answers where a group issues and its action keeps the agenda. -/
theorem runIsa_answers {p : Info} {body : State → Nat → Group → Res} (hb : ∀ s i g, (body s i g).Keeps s.agenda) :
    AnswersIssuer (runIsa p body) := by
  intro s hs
  obtain ⟨⟨i, g⟩, hi⟩ := Option.isSome_iff_exists.mp hs
  unfold runIsa
  rw [hi]
  refine ⟨_, rfl, ?_⟩
  dsimp only
  rw [skidEnd_agenda, shadowAfter_agenda]
  suffices h : Res.Keeps s.agenda _ from
    if_agenda ((modGroup_agenda ..).trans (settle_agenda rfl h)) (settle_agenda rfl h)
  split
  · trivial
  · split
    · exact barredRes_keeps _ _
    · exact spills_keeps rfl (prepared_keeps hb)
theorem own_answers {p : Info} {f : Group → Group} : AnswersIssuer (runIsa p (own f)) := runIsa_answers fun _ _ _ => rfl
@[simp] theorem lanesEnd_keeps {a : List Instr} (s : State) (fs : List (Nat × FaultInfo)) :
    (lanesEnd s fs).Keeps a ↔ s.agenda = a := by
  unfold lanesEnd
  split <;> rfl
@[simp] theorem allLanes_keeps {a : List Instr} (s : State) (g : Group) (f : FaultInfo) :
    (allLanes s g f).Keeps a ↔ s.agenda = a := Iff.rfl

/-! ### Local, global and remote memory (15) -/

@[simp] theorem boundRecords_agenda (s : State) (g : Group) (hs : List BoundHit) :
    (s.boundRecords g hs).agenda = s.agenda := by simp [State.boundRecords]
@[simp] theorem commitFor_agenda (s : State) (b scope : Nat) :
    (s.commitFor b scope).agenda = s.agenda := by simp [State.commitFor]
/-- A release leaves the agenda, whether the group goes on after it or is held for the drain. -/
theorem releaseOnly_agenda (s : State) (i scope : Nat) :
    (∀ t, s.releaseOnly i scope = .ok t → t.agenda = s.agenda) ∧
      ∀ t, s.releaseOnly i scope = .error t → t.agenda = s.agenda := by
  unfold State.releaseOnly
  dsimp only
  (repeat' split) <;> constructor <;> intro t ht <;> cases ht <;> simp
theorem release_agenda (s : State) (i scope : Nat) :
    (∀ t, s.release i scope = .ok t → t.agenda = s.agenda) ∧ ∀ t, s.release i scope = .error t → t.agenda = s.agenda := by
  simpa [State.release] using releaseOnly_agenda (s.commitFor (s.group i).id.block scope) i scope
@[simp] theorem acquire_agenda (s : State) (i scope : Nat) :
    (s.acquire i scope).agenda = s.agenda := by simp [State.acquire]
theorem released_keeps {s : State} {i : Nat} {rel : Bool} {scope : Nat} {k : State → Res}
    (hk : ∀ t, t.agenda = s.agenda → (k t).Keeps s.agenda) : (released s i rel scope k).Keeps s.agenda := by
  unfold released
  split
  · split
    · exact (release_agenda s i scope).2 _ ‹_›
    · exact hk _ ((release_agenda s i scope).1 _ ‹_›)
  · exact hk s rfl
@[simp] theorem drainWindows_agenda (s : State) (sel : Window → Bool) :
    (s.drainWindows sel).agenda = s.agenda := by simp [State.drainWindows]
@[simp] theorem drainCtxs_agenda (s : State) (cs : List Nat) :
    (s.drainCtxs cs).agenda = s.agenda := by simp [State.drainCtxs]
theorem ldcRun_answers {code words order scope : Nat} {ext : Bool} {d i : BitVec 7} {x : BitVec 1} {b : BitVec 8}
    {lit : Word} : AnswersIssuer (ldcRun code words ext order scope d i x b lit) := by
  refine runIsa_answers fun s gi g => released_keeps fun t ht => ?_
  dsimp only
  split <;> simp [ht]
theorem execLdcBc_answers {d i : BitVec 7} {x : BitVec 1} {b : BitVec 8} {lit : Word} : AnswersIssuer
    (execLdcBc d i x b lit) := by
  refine runIsa_answers fun s i g => ?_
  dsimp only
  split <;> simp
@[simp] theorem StoreAcc_seg_agenda (a : StoreAcc) (i : Nat) (op : Option Nat) (es : List BoundEntry) (l off : Nat)
    (b : List Byte) :
    (a.seg i op es l off b).st.agenda = a.st.agenda := by
  unfold StoreAcc.seg
  dsimp only
  (repeat' split) <;> simp
@[simp] theorem StoreAcc_finishSeg_agenda (a : StoreAcc) (i : Nat) :
    (a.finishSeg i).agenda = a.st.agenda := by simp [StoreAcc.finishSeg]
/-- The lanes of a cell-store store, one after the other, keep the agenda. -/
@[simp] theorem foldl_seg_agenda {f : StoreAcc → Nat → StoreAcc} (hf : ∀ a l, (f a l).st.agenda = a.st.agenda)
    (l : List Nat) (a : StoreAcc) : (l.foldl f a).st.agenda = a.st.agenda := foldl_keeps (fun a => a.st.agenda) hf l a
theorem stcRun_answers {code words order scope : Nat} {ext : Bool} {d i : BitVec 7} {x : BitVec 1} {b : BitVec 8}
    {lit : Word} : AnswersIssuer (stcRun code words ext order scope d i x b lit) := by
  refine runIsa_answers fun s gi g => released_keeps fun t ht => ?_
  dsimp only
  split <;> simp [ht]
theorem execLatom_answers {o : BitVec 3} {d i : BitVec 7} {x : BitVec 1} {b : BitVec 8} {sc : BitVec 3} {op : BitVec 4}
    {c : BitVec 7} : AnswersIssuer (execLatom o d i x b sc op c) := by
  refine runIsa_answers fun s gi g => released_keeps fun t ht => ?_
  rw [lanesEnd_keeps]
  refine (if_agenda (acquire_agenda ..) rfl).trans ((modGroup_agenda ..).trans ?_)
  refine (foldl_fst_agenda (fun acc l => ?_) _ _).trans ht
  obtain ⟨u, vs, fs, p⟩ := acc
  dsimp only
  split
  · rfl
  · exact segWrite_agenda ..
theorem execCbkDec_answers {d a b : BitVec 7} {bf : BitVec 1} {p : BitVec 2} : AnswersIssuer
    (execCbkDec d a b bf p) := by
  refine runIsa_answers fun s i g => ?_
  simp
theorem fillLines_agenda {s t : State} {part cell : Nat} {l : List Nat} (h : s.fillLines part cell l = some t) :
    t.agenda = s.agenda := by
  induction l generalizing s with
  | nil => cases h; rfl
  | cons x l ih =>
    unfold State.fillLines at h
    split at h
    · cases h
    · exact (ih h).trans (fillLine_agenda ‹_›)
@[simp] theorem reach_agenda (s : State) (g : Group) (n : Nat) (l : List (Nat × Nat)) :
    (s.reach g n l).agenda = s.agenda := by simp [State.reach]
@[simp] theorem homeSeen_agenda (s : State) (n : Nat) (pas : List Nat) :
    (s.homeSeen n pas).agenda = s.agenda := by simp [State.homeSeen]
@[simp] theorem touchLines_agenda (s : State) (part cell n : Nat) (pas : List Nat) :
    (s.touchLines part cell n pas).agenda = s.agenda := by simp [State.touchLines]
theorem execLdp_answers {d i : BitVec 7} {b : BitVec 8} {lit : Word} : AnswersIssuer (execLdp d i b lit) := by
  refine runIsa_answers fun s gi g => ?_
  dsimp only
  split
  · simp
  · next u hu => simp [fillLines_agenda hu]
theorem putGlobal_agenda {s : State} {g : Group} {mem pa : Nat} {b : List Byte} {t : State}
    (h : s.putGlobal g mem pa b = some t) :
    t.agenda = s.agenda := by
  unfold State.putGlobal at h
  grind [homeWrite_agenda, cacheWrite_agenda]
@[simp] theorem putPoison_agenda (s : State) (g : Group) (mem pa : Nat) (q : Poison) :
    (s.putPoison g mem pa q).agenda = s.agenda := by
  unfold State.putPoison
  split <;> simp
/-- The state that a store has come to, where it goes on, has the agenda `a`. -/
def GStore.Keeps (a : List Instr) : GStore → Prop
  | .on x => x.st.agenda = a
  | _ => True

theorem GStore.lane_keeps {a : List Instr} {x : GStore} (hx : x.Keeps a) (i : Nat) (es : List BoundEntry) (home : Bool)
    (l va : Nat) (tr : Except FaultInfo (Nat × Nat)) (b : List Byte) : (x.lane i es home l va tr b).Keeps a := by
  cases x with
  | wait => trivial
  | overflow => trivial
  | on y =>
    unfold GStore.lane
    dsimp only
    split
    · exact hx
    · split
      · exact hx
      · split
        · trivial
        · next u hu =>
          have h1 : u.agenda = a := by
            refine (foldl_some_agenda (fun _ => rfl) (fun s z t h => ?_) _ hu).trans ((reach_agenda ..).trans hx)
            dsimp only at h
            split at h
            · cases h; simp
            · exact putGlobal_agenda h
          split
          · trivial
          · exact h1

/-- The lanes of a store, one after the other, keep the agenda. -/
theorem GStore.lanes_keeps {a : List Instr} {x : GStore} (hx : x.Keeps a) {f : GStore → Nat → GStore}
    (hf : ∀ y l, y.Keeps a → (f y l).Keeps a) (l : List Nat) : (l.foldl f x).Keeps a :=
  List.foldlRecOn (motive := fun y => y.Keeps a) l f hx fun y hy k _ => hf y k hy
theorem GStore.finish_keeps {a : List Instr} {x : GStore} {s0 : State} (h0 : s0.agenda = a) (hx : x.Keeps a) (i : Nat)
    {k : State → State} (hk : ∀ s, (k s).agenda = s.agenda) (more : List (Nat × FaultInfo)) :
    (x.finish s0 i k more).Keeps a := by
  cases x with
  | wait => exact h0
  | overflow => trivial
  | on y =>
    have hy : y.st.agenda = a := hx
    unfold GStore.finish
    dsimp only
    split <;> simp [hk, hy]
theorem execStp_answers {d i : BitVec 7} {b : BitVec 8} {lit : Word} : AnswersIssuer (execStp d i b lit) :=
  runIsa_answers fun s _ _ => GStore.finish_keeps rfl
    (GStore.lanes_keeps (x := .on ⟨s, [], [], []⟩) rfl (fun _ _ hy => GStore.lane_keeps hy ..) _) _ (fun _ => rfl) _
theorem gldRun_answers {code words order scope : Nat} {ext : Bool} {d i : BitVec 7} {x : BitVec 1} {b : BitVec 8}
    {lit : Word} : AnswersIssuer (gldRun code words ext order scope d i x b lit) := by
  refine runIsa_answers fun s gi g => released_keeps fun t ht => ?_
  dsimp only
  split
  · split <;> simp [ht]
  · split
    · split
      · simp [ht]
      · next u hu =>
        have h1 := fillLines_agenda hu
        split <;> simp_all
    · exact (homeSeen_agenda ..).trans ((reach_agenda ..).trans ht)
theorem gstRun_answers {code words order scope : Nat} {ext : Bool} {d i : BitVec 7} {x : BitVec 1} {b : BitVec 8}
    {lit : Word} : AnswersIssuer (gstRun code words ext order scope d i x b lit) := by
  refine runIsa_answers fun s gi g => released_keeps fun t ht => ?_
  refine GStore.finish_keeps rfl
    (GStore.lanes_keeps (x := .on ⟨t, [], [], []⟩) ht (fun y l hy => GStore.lane_keeps hy ..) _) _ (fun u => ?_) _
  split <;> simp
theorem ccRun_answers {skip : Bool} {act : State → Nat → Nat → Nat → Bool → State} {near : State → Nat → State}
    {a l : BitVec 8} (ha : ∀ s j k n b, (act s j k n b).agenda = s.agenda) (hn : ∀ s k, (near s k).agenda = s.agenda) :
    AnswersIssuer (ccRun skip act near a l) := by
  refine runIsa_answers fun s gi g => ?_
  dsimp only
  generalize (if l = 0xFF#8 then _ else _ : Nat × Nat) = q
  refine keeps_ite trivial ?_
  split
  all_goals
    refine foldl_fst_agenda (fun acc p => ?_) _ _
    split
    · rfl
    · split
      · split <;> rfl
      · refine (foldl_agenda (fun u ln => ?_) _ _).trans (useG_agenda ..)
        split <;> simp [ha, hn]
theorem execCcPrefetch_answers {a l : BitVec 8} : AnswersIssuer (execCcPrefetch a l) := by
  delta execCcPrefetch
  refine ccRun_answers (fun s j k n _ => ?_) fun s k => hubUse_agenda ..
  cases h : s.fillLine j k n with
  | none => rfl
  | some t => exact fillLine_agenda h
theorem execCcWb_answers {a l : BitVec 8} : AnswersIssuer (execCcWb a l) := by
  delta execCcWb
  exact ccRun_answers (fun _ _ _ _ _ => if_agenda rfl (writeBack_agenda ..)) fun _ _ => rfl
theorem execCcDiscard_answers {a l : BitVec 8} : AnswersIssuer (execCcDiscard a l) := by
  delta execCcDiscard
  exact ccRun_answers (fun _ _ _ _ _ => if_agenda rfl (if_agenda (modWindow_agenda ..) (writeBack_agenda ..))) fun _ _ => rfl
theorem execLineFillReturn_answers {g : Nat} : Answers (execLineFillReturn g) := by
  refine .of_next (fun _ => rfl) fun s => ?_
  grind [fillLines_agenda, modGroup_agenda]
theorem execReleaseDrainComplete_answers {g : Nat} : Answers (execReleaseDrainComplete g) := by
  refine .of_next (fun _ => rfl) fun s => ?_
  simp
theorem sendAtoms_agenda {s t : State} {part cell : Nat} {l : List AtomReq} (h : s.sendAtoms part cell l = some t) :
    t.agenda = s.agenda := by
  induction l generalizing s with
  | nil => cases h; rfl
  | cons r l ih =>
    unfold State.sendAtoms at h
    split at h
    · cases h
    · dsimp only at h
      split at h
      · cases h
      · exact (ih h).trans (sendLine_agenda ..)
theorem atomRun_answers {slot : Option Nat} {order : Nat} {z i : BitVec 7} {x : BitVec 1} {b : BitVec 8} {sc : BitVec 3}
    {op : BitVec 4} {c : BitVec 7} : AnswersIssuer (atomRun slot order z i x b sc op c) := by
  refine runIsa_answers fun s gi g => keeps_ite rfl ?_
  rw [← commitEarly_agenda s g.id.block]
  refine released_keeps fun t ht => ?_
  dsimp only
  split
  · exact ht
  · next u hu =>
    have h1 : u.agenda = (s.commitEarly g.id.block).agenda := (sendAtoms_agenda hu).trans (by simp [ht])
    split <;> simp [h1]
theorem rslotRun_answers {wide : Bool} {d : BitVec 7} {slot : BitVec 3} : AnswersIssuer (rslotRun wide d slot) := by
  refine runIsa_answers fun s gi g => ?_
  dsimp only
  split
  · split <;> simp
  · simp
@[simp] theorem consumeFor_agenda (s : State) (i : Nat) (p : Poison) (addr paddr : Nat) :
    (s.consumeFor i p addr paddr).agenda = s.agenda := by simp [State.consumeFor]
theorem execAtomicPerform_answers {k : Nat} : Answers (execAtomicPerform k) := by
  refine .of_next (fun _ => rfl) fun s => ?_
  dsimp only
  (repeat' split) <;> simp
theorem execAtomReply_answers {k : Nat} : Answers (execAtomReply k) := by
  refine .of_next (fun _ => rfl) fun s => ?_
  dsimp only
  (repeat' split) <;> simp
@[simp] theorem lateFault_agenda (s : State) (i : Nat) (f : FaultInfo) :
    (s.lateFault i f).agenda = s.agenda := by simp [State.lateFault]
@[simp] theorem completeOp_agenda (s : State) (i id : Nat) (f : Option FaultInfo) :
    (s.completeOp i id f).agenda = s.agenda := by
  unfold State.completeOp
  split <;> simp
@[simp] theorem flightUp_agenda (s : State) (b cell off : Nat) :
    (s.flightUp b cell off).agenda = s.agenda := by simp [State.flightUp]
@[simp] theorem flightDown_agenda (s : State) (b cell off : Nat) :
    (s.flightDown b cell off).agenda = s.agenda := by simp [State.flightDown]
@[simp] theorem opArrive_agenda (s : State) (b cell off bytes : Nat) (sel : RaceTag → Bool) :
    (s.opArrive b cell off bytes sel).1.agenda = s.agenda := by simp [State.opArrive]
theorem hodRun_answers {fn : Nat} {d b : BitVec 8} : AnswersIssuer (hodRun fn d b) := by
  refine runIsa_answers fun s gi g => ?_
  dsimp only
  split
  · rfl
  · refine keeps_ite rfl ?_
    rw [Res.keeps_done, modQuad_agenda, modGroup_agenda]
    split <;> simp
@[simp] theorem hodReach_agenda (s : State) (g : Group) (seg write : Bool) (a : Int) (n : Nat) :
    (s.hodReach g seg write a n).agenda = s.agenda := by
  unfold State.hodReach
  grind [homeSeen_agenda, reach_agenda]
@[simp] theorem hodSegWrite_agenda (s : State) (i op cell off : Nat) (b : List Byte) (p : Option Poison) :
    (s.hodSegWrite i op cell off b p).agenda = s.agenda := by
  unfold State.hodSegWrite
  split <;> simp
@[simp] theorem HodSt_write_agenda (h : HodSt) (i op cell : Nat) (es : List BoundEntry) (seg : Bool) (a : Int)
    (b : List Byte) (p : Option Poison) : (h.write i op cell es seg a b p).st.agenda = h.st.agenda := by
  unfold HodSt.write
  dsimp only
  split
  · split <;> simp
  · split
    · rfl
    · split
      · rfl
      · next u hu =>
        have h1 : u.agenda = h.st.agenda :=
          (foldl_some_agenda (fun _ => rfl) (fun s z t h => putGlobal_agenda h) _ hu).trans (by simp)
        split
        · rfl
        · dsimp only
          split
          · exact h1
          · split <;> simp [h1]
@[simp] theorem HodSt_elem_agenda (h : HodSt) (i op fn aux : Nat) (d : HodDesc) (es : List BoundEntry) (idx : Nat → Int)
    (v : List Nat) : (h.elem i op fn aux d es idx v).st.agenda = h.st.agenda := by
  unfold HodSt.elem
  dsimp only
  split
  · rfl
  split
  · rfl
  split
  · simp
  split
  · simp
  split
  · simp
  split
  · split <;> simp
  split
  · simp
  · dsimp only
    (repeat' split) <;> simp
/-- The elements of an operation, one after the other, keep the agenda. -/
theorem foldl_elem_agenda (l : List (List Nat)) (h : HodSt) (i op fn aux : Nat) (d : HodDesc) (es : List BoundEntry)
    (idx : Nat → Int) : (l.foldl (fun (h : HodSt) v => h.elem i op fn aux d es idx v) h).st.agenda = h.st.agenda :=
  foldl_keeps (fun h => h.st.agenda) (fun _ _ => HodSt_elem_agenda ..) l h
@[simp] theorem hodPrefetch_agenda (s : State) (g : Group) (aux : Nat) (d : HodDesc) :
    (s.hodPrefetch g aux d).agenda = s.agenda := by
  unfold State.hodPrefetch
  refine foldl_agenda (fun t l => ?_) _ _
  split <;> simp
theorem execHodOpComplete_answers {cell quad k : Nat} : Answers (execHodOpComplete cell quad k) := by
  refine .of_next (fun _ => rfl) fun s => ?_
  dsimp only
  split
  · rfl
  · next r _ =>
    refine if_agenda rfl ?_
    generalize hh : (if r.fn = 6 then _ else _ : HodSt) = h
    have hs : h.st.agenda = s.agenda := by
      subst hh
      split
      · simp
      · exact foldl_elem_agenda ..
    refine if_agenda rfl ?_
    split
    · simp [hs]
    · refine if_agenda ?_ ?_ <;> simp [hs]

/-! ### Rings and messages (15) -/

@[simp] theorem setRing_agenda (s : State) (g : Group) (n : Nat) (u : Ring) :
    (s.setRing g n u).agenda = s.agenda := (rfl)
theorem ringTake_answers {producer : Bool} {want next : Nat} {d : BitVec 8} {r : BitVec 4} :
    AnswersIssuer (ringTake producer want next d r) := by
  refine runIsa_answers fun s gi g => keeps_ite trivial (keeps_ite rfl ?_)
  simp
theorem ringGive_answers {producer : Bool} {want next : Nat} {a : BitVec 8} {r : BitVec 4} :
    AnswersIssuer (ringGive producer want next a r) := by
  refine runIsa_answers fun s gi g => keeps_ite trivial (keeps_ite trivial ?_)
  simp
theorem execMsgSend_answers {r b : BitVec 8} : AnswersIssuer (execMsgSend r b) := by
  refine runIsa_answers fun s i g => ?_
  dsimp only
  split
  · rfl
  · refine keeps_ite trivial (keeps_ite rfl (released_keeps fun t ht => ?_))
    simp [ht]
theorem takeMsg_keeps (s : State) (gi r off k : Nat) (m : Msg) : (takeMsg s gi r off k m).Keeps s.agenda := by
  unfold takeMsg
  dsimp only
  split <;> simp
theorem msgTake_answers {wait : Bool} {r b : BitVec 8} {c : BitVec 4} : AnswersIssuer (msgTake wait r b c) := by
  refine runIsa_answers fun s gi g => ?_
  dsimp only
  split
  · rfl
  · split
    · exact takeMsg_keeps ..
    · split <;> simp
theorem execMsgFree_answers {r : BitVec 8} {c : BitVec 4} : AnswersIssuer (execMsgFree r c) := by
  refine runIsa_answers fun s i g => ?_
  dsimp only
  split <;> simp
theorem execMsgDeliver_answers {k : Nat} : Answers (execMsgDeliver k) := by
  refine .of_next (fun _ => rfl) fun s => ?_
  split <;> simp

/-! ### Ends, traps, sleeps and gates (07; 13) -/

@[simp] theorem lateFaults_agenda (s : State) (i : Nat) :
    (s.lateFaults i).agenda = s.agenda := by simp [State.lateFaults]
theorem execExit_answers : AnswersIssuer execExit := by
  refine runIsa_answers fun s i g => ?_
  simp
theorem execTail_answers : AnswersIssuer execTail := by
  refine runIsa_answers fun s i g => ?_
  simp
theorem execTrap_answers {n : BitVec 8} : AnswersIssuer (execTrap n) :=
  runIsa_answers fun _ _ _ => rfl
theorem execBrk_answers {n : BitVec 8} : AnswersIssuer (execBrk n) :=
  runIsa_answers fun _ _ _ => rfl
theorem execResume_answers : AnswersIssuer execResume := by
  refine runIsa_answers fun s i g => ?_
  dsimp only
  (repeat' split) <;> simp
theorem execSread_answers {d n : BitVec 8} : AnswersIssuer (execSread d n) :=
  runIsa_answers fun _ _ _ => rfl
theorem execSwrite_answers {a n : BitVec 8} : AnswersIssuer (execSwrite a n) := by
  refine runIsa_answers fun s i g => ?_
  simp
theorem deferredOr_keeps {a : List Instr} {s : State} {i : Nat} {p : Info} {sel : OpRec → Bool} {k : Res}
    (hs : s.agenda = a) (hk : k.Keeps a) : (deferredOr s i p sel k).Keeps a := by
  unfold deferredOr
  split
  · exact hk
  · simp [hs]
@[simp] theorem missPromise_agenda (s : State) (c : Nat) : (s.missPromise c).agenda = s.agenda := by
  unfold State.missPromise
  grind [ctxRecord_agenda, writeVa_agenda]
theorem sleepCheck_keeps (s : State) (i : Nat) (p : Info) (t : Nat) : (sleepCheck s i p t).Keeps s.agenda := by
  refine deferredOr_keeps rfl (keeps_ite rfl ?_)
  dsimp only
  split <;> simp
theorem execSleepUntil_answers {a : BitVec 8} : AnswersIssuer (execSleepUntil a) := by
  refine runIsa_answers fun s i g => ?_
  dsimp only
  split
  · exact deferredOr_keeps rfl rfl
  · refine keeps_ite (deferredOr_keeps rfl rfl) (keeps_ite (keeps_ite rfl rfl) (keeps_ite ?_ rfl))
    have h := sleepCheck_keeps s i ⟨.sys, 1, [.pair a.toNat]⟩ (g.spair a.toNat).toNat
    split
    · next hr =>
      rw [hr] at h
      exact keeps_ite h h
    · exact h
theorem execSleepCyc_answers {a : BitVec 8} : AnswersIssuer (execSleepCyc a) := by
  refine runIsa_answers fun s i g => ?_
  split <;> simp
theorem execYield_answers : AnswersIssuer execYield := by
  refine runIsa_answers fun s i g => ?_
  simp
theorem execSleepExpiry_answers {i : Nat} : Answers (execSleepExpiry i) := by
  refine .of_next (fun _ => rfl) fun s => ?_
  split <;> simp
theorem ctlRun_answers {f : Group → Option (Lanes × List MaskEntry × DWord)} : AnswersIssuer (ctlRun f) := by
  refine runIsa_answers fun s i g => ?_
  split <;> simp
theorem residentFirst_agenda {s t : State} {i n : Nat} {p : Option MetAt}
    (h : s.residentFirst i n = .ok (some (t, p))) : t.agenda = s.agenda := by
  suffices hm : ∀ t p, s.residentFirst i n = .ok (some (t, p)) → t.agenda = s.agenda from hm t p h
  refine List.foldlRecOn (motive := fun (x : Except FaultInfo (Option (State × Option MetAt))) =>
    ∀ t p, x = .ok (some (t, p)) → t.agenda = s.agenda) _ _ ?_ ?_
  · rintro t p ⟨⟩
    rfl
  · intro x hx r _ t p ht
    split at ht
    · cases ht
    · cases ht
    · next u q =>
      have hu := hx u q rfl
      split at ht
      · cases ht; exact hu
      · split at ht
        · cases ht
        · cases ht
        · next hy => cases ht; simp [readSlot_agenda hy, hu]
theorem writeFrame_agenda {s t : State} {g : Group} {pages : List Nat} {b : List Byte}
    (h : s.writeFrame g pages b = some t) : t.agenda = s.agenda :=
  foldl_some_agenda (fun _ => rfl) (fun _ _ _ h => cacheWrite_agenda h) _ h
@[simp] theorem settleBudget_agenda (s : State) (i : Nat) : (s.settleBudget i).1.agenda = s.agenda := by
  unfold State.settleBudget
  grind [skim_agenda]
@[simp] theorem gateEnter_agenda (s : State) (i idx : Nat) (p : GatePass) (start : Nat) :
    (s.gateEnter i idx p start).agenda = s.agenda := by
  unfold State.gateEnter
  grind [modGroup_agenda, commitEarly_agenda, settleBudget_agenda, takeFault_agenda]
theorem execGate_answers {n : BitVec 8} : AnswersIssuer (execGate n) := by
  refine runIsa_answers fun s i g => ?_
  dsimp only
  split
  · trivial
  · refine keeps_ite rfl ?_
    split
    · trivial
    · rfl
    · next hr =>
      refine keeps_ite trivial ?_
      split
      · rfl
      · next hw => exact (gateEnter_agenda ..).trans ((writeFrame_agenda hw).trans (residentFirst_agenda hr))
@[simp] theorem gateLeave_agenda (s : State) (i : Nat) (fault : Option FaultInfo) :
    (s.gateLeave i fault).agenda = s.agenda := by
  unfold State.gateLeave
  grind [setGroup_agenda, takeFault_agenda, settleBudget_agenda]
theorem execGret_answers : AnswersIssuer execGret := by
  refine runIsa_answers fun s i g => ?_
  split
  · trivial
  · refine keeps_ite rfl (keeps_ite trivial ?_)
    split
    · rfl
    · split
      · trivial
      · rfl
      · next hr => exact (gateLeave_agenda ..).trans (residentFirst_agenda hr)
      · next hr => exact (modGroup_agenda ..).trans (residentFirst_agenda hr)
@[simp] theorem calleeReturn_agenda (s : State) (i : Nat) (f : FaultInfo) (pc : DWord) (skid : Nat) :
    (s.calleeReturn i f pc skid).agenda = s.agenda := by simp [State.calleeReturn]
theorem execGateBudgetExpiry_answers {i : Nat} : Answers (execGateBudgetExpiry i) := by
  refine .of_next (fun _ => rfl) fun s => ?_
  simp

/-! ### Barriers, semaphores, monitors and the system's forms (13) -/

@[simp] theorem barArrive_agenda (s : State) (i : Nat) (g : Group) :
    (s.barArrive i g).1.agenda = s.agenda := by simp [State.barArrive]
theorem barReleased_keeps {s : State} {i : Nat} {rel : Bool} {k : State → Res}
    (hk : ∀ t, t.agenda = s.agenda → (k t).Keeps s.agenda) : (barReleased s i rel k).Keeps s.agenda := by
  unfold barReleased
  split
  · split
    · exact (releaseOnly_agenda s i 1).2 _ ‹_›
    · exact hk _ ((releaseOnly_agenda s i 1).1 _ ‹_›)
  · exact hk s rfl
theorem execBarArrive_answers : AnswersIssuer execBarArrive := by
  refine runIsa_answers fun s i g => barReleased_keeps fun t ht => ?_
  have h1 := (barArrive_agenda t i g).trans ht
  exact keeps_ite h1 h1
theorem execBarDrop_answers : AnswersIssuer execBarDrop :=
  runIsa_answers fun _ _ _ => barReleased_keeps fun _ ht => (barDrop_agenda ..).trans ht
theorem execBarWait_answers : AnswersIssuer execBarWait := by
  refine runIsa_answers fun s i g => ?_
  simp
theorem execBar_answers : AnswersIssuer execBar := by
  refine runIsa_answers fun s i g => keeps_ite (acquire_agenda ..) (barReleased_keeps fun t ht => ?_)
  have h1 := (barArrive_agenda t i g).trans ht
  have h2 := (acquire_agenda (t.barArrive i g).1 i 1).trans h1
  exact keeps_ite (keeps_ite h2 h1) (keeps_ite h2 h1)
theorem bobjOff_keeps {a : List Instr} {s : State} {g : Group} {off : Nat} {k : Res} (hs : s.agenda = a)
    (hk : k.Keeps a) : (bobjOff s g off k).Keeps a := keeps_ite hs (keeps_ite hs hk)
theorem bobjRun_answers {pair : Option (BitVec 8)} {b : BitVec 8} {f : State → Nat → Group → Nat → Res}
    (hf : ∀ s i g off, (f s i g off).Keeps s.agenda) : AnswersIssuer (bobjRun pair b f) :=
  runIsa_answers fun s i g => bobjOff_keeps rfl (hf s i g _)
@[simp] theorem bobjUpset_agenda (s : State) (b cell off : Nat) : (s.bobjUpset b cell off).agenda = s.agenda := (rfl)
theorem execBobjInit_answers {p b : BitVec 8} {m : BitVec 1} : AnswersIssuer (execBobjInit p b m) :=
  runIsa_answers fun _ _ _ => bobjOff_keeps rfl (keeps_ite rfl ((bobjUpset_agenda ..).trans (setBobj_agenda ..)))
theorem execBobjJoin_answers {b : BitVec 8} : AnswersIssuer (execBobjJoin b) := by
  delta execBobjJoin
  exact bobjRun_answers fun _ _ _ _ => keeps_ite trivial (keeps_ite rfl ((modGroup_agenda ..).trans (setBobj_agenda ..)))
theorem execBobjLeave_answers {b : BitVec 8} : AnswersIssuer (execBobjLeave b) := by
  delta execBobjLeave
  exact bobjRun_answers fun _ _ _ _ => bobjLeave_agenda ..
@[simp] theorem bobjLane_agenda (i off amount : Nat) (acc : State × List Nat) (l : Nat) :
    (State.bobjLane i off amount acc l).1.agenda = acc.1.agenda := by
  unfold State.bobjLane
  dsimp only
  split <;> simp
theorem execBobjArrive_answers {p b : BitVec 8} {a : BitVec 1} : AnswersIssuer (execBobjArrive p b a) := by
  delta execBobjArrive
  refine bobjRun_answers fun s i g off => ?_
  have h : ∀ (amount : Nat) (l : List Nat),
      (l.foldl (State.bobjLane i off amount) ((s.commitFor g.id.block 2).publishGroup i, [])).1.agenda = s.agenda :=
    fun amount l => (foldl_fst_agenda (fun _ _ => bobjLane_agenda ..) _ _).trans (by simp)
  exact keeps_ite (h _ _) (h _ _)
theorem execBobjExpect_answers {p b : BitVec 8} : AnswersIssuer (execBobjExpect p b) := by
  delta execBobjExpect
  exact bobjRun_answers fun _ _ _ _ => keeps_ite trivial (setBobj_agenda ..)
theorem execBobjWait_answers {p b : BitVec 8} : AnswersIssuer (execBobjWait p b) := by
  delta execBobjWait
  exact bobjRun_answers fun _ _ _ _ => deferredOr_keeps rfl (keeps_ite (acquire_agenda ..) (keeps_ite trivial rfl))
theorem execBobjTest_answers {p b : BitVec 8} : AnswersIssuer (execBobjTest p b) := by
  delta execBobjTest
  exact bobjRun_answers fun _ _ _ _ => if_agenda ((acquire_agenda ..).trans (modGroup_agenda ..)) rfl
theorem execWaitCnt_answers {n : BitVec 6} {c : BitVec 2} : AnswersIssuer (execWaitCnt n c) :=
  runIsa_answers fun _ _ _ => deferredOr_keeps rfl (keeps_ite rfl rfl)
theorem execFence_answers {sc o : BitVec 3} : AnswersIssuer (execFence sc o) :=
  runIsa_answers fun _ _ _ => released_keeps fun _ ht => if_agenda ((acquire_agenda ..).trans ht) ht
@[simp] theorem setSem_agenda (s : State) (cell n : Nat) (u : Word) : (s.setSem cell n u).agenda = s.agenda := (rfl)
theorem semRun_answers {n : BitVec 8} {f : State → Nat → Group → Res} (hf : ∀ s i g, (f s i g).Keeps s.agenda) :
    AnswersIssuer (semRun n f) :=
  runIsa_answers fun s i g => keeps_ite rfl (hf s i g)
theorem semUpdate_answers {n a : BitVec 8} {op : Word → Word → Word} : AnswersIssuer (semUpdate n a op) :=
  semRun_answers fun s i g => released_keeps fun t ht => by simp [ht]
theorem execSemSet_answers {a n : BitVec 8} : AnswersIssuer (execSemSet a n) := by
  delta execSemSet
  exact semUpdate_answers
theorem execSemWaitge_answers {a n : BitVec 8} : AnswersIssuer (execSemWaitge a n) := by
  refine runIsa_answers fun s i g => ?_
  simp
theorem execSemRead_answers {d n : BitVec 8} : AnswersIssuer (execSemRead d n) := by
  refine runIsa_answers fun s i g => ?_
  simp
theorem monDone_keeps (s : State) (i : Nat) : (monDone s i).Keeps s.agenda := by simp [monDone]
theorem execWaitc_answers {r w : BitVec 1} {c : BitVec 3} {a b : BitVec 8} : AnswersIssuer (execWaitc r w c a b) := by
  refine runIsa_answers fun s i g => ?_
  refine keeps_ite (monDone_keeps s i) (keeps_ite (keeps_ite (monDone_keeps s i) rfl) ?_)
  dsimp only
  split
  · rfl
  · generalize hq : Poisons.hit _ _ _ = q
    cases q with
    | none => exact keeps_ite (acquire_agenda ..) (keeps_ite (monDone_keeps s i) (keeps_ite rfl rfl))
    | some x =>
      have h := consume_agenda s i x.2 (g.spair a.toNat).toNat x.1
      exact keeps_ite ((acquire_agenda ..).trans h) (keeps_ite (h ▸ monDone_keeps ..) (keeps_ite h h))
@[simp] theorem monWake_agenda (s : State) (i : Nat) : (s.monWake i).agenda = s.agenda := (rfl)
theorem execMonitorMatch_answers {i : Nat} : Answers (execMonitorMatch i) :=
  .of_next (fun _ => rfl) fun _ => rfl
theorem execMonitorPoll_answers {i : Nat} : Answers (execMonitorPoll i) :=
  .of_next (fun _ => rfl) fun _ => rfl
@[simp] theorem dropTlb_agenda (s : State) (gone : TlbEntry → Bool) : (s.dropTlb gone).agenda = s.agenda := (rfl)
theorem execTlbInv_answers {a : BitVec 8} {l : BitVec 1} : AnswersIssuer (execTlbInv a l) := by
  refine runIsa_answers fun s i g => keeps_ite rfl (released_keeps fun t ht => ?_)
  have h1 : ∀ cs gone, ((t.drainCtxs cs).dropTlb gone).agenda = s.agenda := fun cs gone => by simp [ht]
  exact keeps_ite (h1 ..) (h1 ..)
@[simp] theorem consumeRead_agenda (s : State) (i : Nat) (z : Option (Nat × Nat × Poison)) :
    (s.consumeRead i z).agenda = s.agenda := by
  unfold State.consumeRead
  split <;> simp
theorem execIxuLoad_answers {a : BitVec 8} {n : BitVec 5} : AnswersIssuer (execIxuLoad a n) := by
  refine runIsa_answers fun s i g => ?_
  dsimp only
  (repeat' split) <;> simp
theorem execCcFlush_answers : AnswersIssuer execCcFlush := by
  refine runIsa_answers fun s i g => ?_
  simp
theorem execCcInval_answers : AnswersIssuer execCcInval := by
  refine runIsa_answers fun s i g => ?_
  simp
theorem execBndSet_answers {a : BitVec 8} : AnswersIssuer (execBndSet a) := by
  refine runIsa_answers fun s i g => ?_
  dsimp only
  (repeat' split) <;> simp
theorem execTlbWalkComplete_answers {cell quad c va : Nat} : Answers (execTlbWalkComplete cell quad c va) := by
  refine .of_next (fun _ => rfl) fun s => ?_
  dsimp only
  (repeat' split) <;> simp

end Sys2Proof.Machine
end

section
/-! PROOFS. The instructions of the graphics and of the matrix unit (12 R324; 16 R441 to R465; 17 R466 to R500): they
answer and keep the agenda as well. -/
namespace Sys2Proof.Machine
open Sys2Proof

/-! ### Screeds and tiles -/

theorem dynAlloc_agenda {s : State} {part cell size : Nat} {t : Nat × State} (h : s.dynAlloc part cell size = some t) :
    t.2.agenda = s.agenda := by
  unfold State.dynAlloc at h
  grind [setWindow_agenda]
@[simp] theorem dynFree_agenda (s : State) (part cell off : Nat) :
    (s.dynFree part cell off).agenda = s.agenda := by simp [State.dynFree]
@[simp] theorem modPass_agenda (s : State) (k : Nat) (f : Pass → Pass) : (s.modPass k f).agenda = s.agenda := (rfl)
@[simp] theorem screedWrite_agenda (s : State) (p : Pass) (va : Nat) (b : List Byte) (q : Option Poison) :
    (s.screedWrite p va b q).1.agenda = s.agenda := by
  unfold State.screedWrite
  dsimp only
  (repeat' split) <;> simp
@[simp] theorem screedRecords_agenda (s : State) (p : Pass) (es : List (Nat × Nat × Nat)) :
    (s.screedRecords p es).agenda = s.agenda := by simp [State.screedRecords]
theorem tileLoad_agenda {s u : State} {k t cell : Nat} {p : Pass} (h : s.tileLoad k p t cell = some u) :
    u.agenda = s.agenda := by
  unfold State.tileLoad at h
  dsimp only at h
  split at h
  · cases h
  · next hd => cases h; simpa using dynAlloc_agenda hd
@[simp] theorem markT1_agenda (s : State) (p : Pass) : (s.markT1 p).agenda = s.agenda := by
  unfold State.markT1
  split <;> simp
theorem newTicket_agenda {s u : State} {k t cell : Nat} {q : Prim} (h : s.newTicket k t cell q = some u) :
    u.agenda = s.agenda := by
  unfold State.newTicket at h
  split at h
  · cases h
  · obtain ⟨v, hv, rfl⟩ := Option.map_eq_some_iff.mp h
    have h1 : v.agenda = s.agenda := by
      split at hv
      · cases hv; rfl
      · exact tileLoad_agenda hv
    simpa using h1
theorem takeTile_agenda {s : State} {k t cell : Nat} {x : State × Nat} (h : s.takeTile k t cell = some x) :
    x.1.agenda = s.agenda := by
  unfold State.takeTile at h
  split at h
  · cases h
  · have h1 := (Option.ite_none_left_eq_some.mp h).2
    split at h1
    · obtain ⟨_, _, rfl⟩ := Option.map_eq_some_iff.mp (Option.ite_none_left_eq_some.mp h1).2
      rfl
    · split at h1
      · cases h1
      · split at h1
        · cases h1
        · next hn =>
          obtain ⟨_, _, rfl⟩ := Option.map_eq_some_iff.mp h1
          exact newTicket_agenda hn
theorem pickHalf_agenda {s : State} {k cell : Nat} {x : State × Nat × Nat} (h : s.pickHalf k cell = some x) :
    x.1.agenda = s.agenda := by
  unfold State.pickHalf at h
  split at h
  · cases h
  · split at h
    · cases h
    · obtain ⟨t, _, ht⟩ := List.exists_of_findSome?_eq_some h
      obtain ⟨⟨s1, half⟩, hs, rfl⟩ := Option.map_eq_some_iff.mp ht
      exact takeTile_agenda hs
theorem execTicketDone_answers {k t : Nat} : Answers (execTicketDone k t) := by
  refine .of_next (fun _ => rfl) fun s => ?_
  dsimp only
  (repeat' split) <;> simp
theorem execForcedRender_answers {k : Nat} : Answers (execForcedRender k) :=
  .of_next (fun _ => rfl) fun _ => rfl
theorem execTileFlush_answers {k t : Nat} : Answers (execTileFlush k t) := by
  refine .of_next (fun _ => rfl) fun s => ?_
  dsimp only
  split
  · rfl
  · split
    · rfl
    · refine if_agenda rfl ?_
      rw [modPass_agenda, dynFree_agenda, screedRecords_agenda]
      refine foldl_fst_agenda (fun acc j => ?_) _ _
      split <;> next hw => exact (congrArg (fun x => x.1.agenda) hw.symm).trans (screedWrite_agenda ..)
@[simp] theorem storePixel_agenda (s : State) (p : Pass) (t j : Nat) (colour : Bool) (xs : List Sample) :
    (s.storePixel p t j colour xs).1.agenda = s.agenda := by
  unfold State.storePixel
  dsimp only
  (repeat' split) <;> simp
@[simp] theorem passEnd_agenda (s : State) (k : Nat) : (s.passEnd k).agenda = s.agenda := by
  unfold State.passEnd
  split <;> simp
theorem execTileStore_answers {k t : Nat} : Answers (execTileStore k t) := by
  refine .of_next (fun _ => rfl) fun s => ?_
  dsimp only
  (repeat' split) <;> simp
@[simp] theorem passClose_agenda (s : State) (k : Nat) (discard : Bool) :
    (s.passClose k discard).agenda = s.agenda := (rfl)
/-- The state that an emission leaves, where it leaves one, has the agenda `a`. -/
def Emit.Keeps (a : List Instr) : Emit → Prop
  | .taken s => s.agenda = a
  | .failed _ => True
  | .wait s => s.agenda = a

theorem emit_keeps (s : State) (k : Nat) (words : List Word) : (s.emit k words).Keeps s.agenda := by
  unfold State.emit
  split
  · rfl
  · dsimp only
    split
    · exact modPass_agenda ..
    · split
      · exact modPass_agenda ..
      · split
        · trivial
        · exact (modPass_agenda ..).trans (homeWrite_agenda ..)
theorem openPass_keeps (s : State) (i : Nat) (g : Group) (b : BitVec 7) :
    (∀ r, s.openPass i g b = .error r → r.Keeps s.agenda) ∧
      ∀ x, s.openPass i g b = .ok x → x.1.agenda = s.agenda := by
  unfold State.openPass
  dsimp only
  split
  · split
    · split <;> constructor <;> rintro _ ⟨⟩ <;> rfl
    · constructor <;> rintro _ ⟨⟩
      rfl
  · split
    · constructor <;> rintro _ ⟨⟩
      trivial
    · split
      · constructor <;> rintro _ ⟨⟩
        rfl
      · split
        · constructor <;> rintro _ ⟨⟩
          trivial
        · split
          · constructor <;> rintro _ ⟨⟩
            rfl
          · split
            · constructor <;> rintro _ ⟨⟩
              rfl
            · next hd =>
              constructor <;> rintro _ ⟨⟩
              simpa using dynAlloc_agenda hd
theorem execPrimEmit_answers {a b : BitVec 7} : AnswersIssuer (execPrimEmit a b) := by
  refine runIsa_answers fun s i g => keeps_ite rfl (keeps_ite rfl ?_)
  have ho := openPass_keeps (s.commitEarly g.id.block) i g b
  rw [commitEarly_agenda] at ho
  split
  · next h => exact ho.1 _ h
  · next s1 k h =>
    have hs : s1.agenda = s.agenda := ho.2 _ h
    dsimp only
    generalize hx : List.foldl _ (s1, _) _ = x
    have hx1 : x.1.agenda = s.agenda := by
      subst hx
      refine (foldl_fst_agenda (fun acc l => ?_) _ _).trans hs
      have he := emit_keeps acc.1 k ((List.range 13).map fun j => g.vlane (a.toNat + j) l)
      split
      · rfl
      · split
        · next hr => rw [hr] at he; exact he
        · rfl
        · next hr => rw [hr] at he; exact he
    exact keeps_ite hx1 ((lanesEnd_keeps ..).mpr hx1)
theorem execPrimEmitClose_answers {b : BitVec 7} : AnswersIssuer (execPrimEmitClose b) := by
  refine runIsa_answers fun s i g => ?_
  dsimp only
  split <;> simp
theorem execTileGet_answers {kd : BitVec 3} {b : BitVec 7} : AnswersIssuer (execTileGet kd b) := by
  refine runIsa_answers fun s i g => keeps_ite trivial ?_
  split
  · rfl
  · split
    · rfl
    · next hp =>
      have h1 := pickHalf_agenda hp
      split
      · rfl
      · exact (modGroup_agenda ..).trans ((modPass_agenda ..).trans h1)
theorem boundRun_answers {p : Info} {body : State → Nat → Group → (Nat → Option Frag) → Res}
    (hb : ∀ s i g bs, (body s i g bs).Keeps s.agenda) : AnswersIssuer (boundRun p body) :=
  runIsa_answers fun s i g => keeps_ite trivial (hb s i g _)
theorem execTileDone_answers : AnswersIssuer execTileDone := by
  refine runIsa_answers fun s i g => ?_
  simp
theorem execTileAttr_answers {d : BitVec 7} {w : BitVec 4} : AnswersIssuer (execTileAttr d w) := by
  refine runIsa_answers fun s i g => ?_
  simp
theorem execEdge_answers {d : BitVec 7} : AnswersIssuer (execEdge d) := by
  refine runIsa_answers fun s i g => ?_
  simp
theorem sampleCheck_keeps {a : List Instr} {g : Group} {bs : Nat → Option Frag} {bad : Nat → Bool} {detail : Nat}
    {r : Res} (hr : r.Keeps a) : (sampleCheck g bs bad detail r).Keeps a := keeps_ite trivial hr
theorem execInterp_answers {d : BitVec 7} {p : BitVec 4} {f : BitVec 3} : AnswersIssuer (execInterp d p f) := by
  delta execInterp
  exact boundRun_answers fun _ _ _ _ => sampleCheck_keeps rfl
theorem execSamplepos_answers {d : BitVec 7} {p : BitVec 4} : AnswersIssuer (execSamplepos d p) := by
  delta execSamplepos
  exact boundRun_answers fun _ _ _ _ => sampleCheck_keeps rfl
theorem execOmDepth_answers {d a : BitVec 7} {w : BitVec 1} {o : BitVec 3} : AnswersIssuer (execOmDepth d a w o) := by
  delta execOmDepth
  refine boundRun_answers fun s i g bs => ?_
  dsimp only
  rw [Res.keeps_done, modGroup_agenda]
  generalize hx : List.foldl _ (s, _) _ = x
  have hx1 : x.1.agenda = s.agenda := by
    subst hx
    refine foldl_fst_agenda (fun acc l => ?_) _ _
    split
    · rfl
    · refine foldl_fst_agenda (fun acc k => ?_) _ _
      split
      · exact if_agenda (winWrite_agenda ..) rfl
      · rfl
  split
  · exact (consume_agenda ..).trans hx1
  · exact hx1
theorem execOmWrite_answers {m : BitVec 2} {a c : BitVec 7} : AnswersIssuer (execOmWrite m a c) := by
  delta execOmWrite
  refine boundRun_answers fun s i g bs => foldl_agenda (fun t l => ?_) _ _
  split
  · rfl
  · exact foldl_agenda (fun _ _ => winWrite_agenda ..) _ _
theorem execOmLoad_answers {d : BitVec 7} {k : BitVec 3} : AnswersIssuer (execOmLoad d k) := by
  delta execOmLoad
  refine boundRun_answers fun s i g bs => sampleCheck_keeps ?_
  rw [Res.keeps_done, modGroup_agenda]
  split
  · exact consume_agenda ..
  · rfl

/-! ### The glaze, continuations, textures and traces -/

theorem writeAll_agenda {s t : State} {g : Group} {ws : List (Nat × List Byte)} (h : s.writeAll g ws = .ok t) :
    t.agenda = s.agenda := by
  unfold State.writeAll at h
  split at h
  · cases h
  · cases h; simp
theorem glzRun_answers {chks : List Chk} {sp : BitVec 7} {d n : Nat} {empty : Group → Nat → List Word}
    {op : State → Group → Nat → Glaze → GPixel → Nat → Except FaultInfo GlzOut}
    (hop : ∀ s g l gd px va o, op s g l gd px va = .ok o → o.state.agenda = s.agenda) :
    AnswersIssuer (glzRun chks sp d n empty op) := by
  delta glzRun
  refine boundRun_answers fun s i g bs => ?_
  dsimp only
  split
  · trivial
  · simp only [lanesEnd_keeps, modGroup_agenda]
    refine Eq.trans (b := State.agenda (Prod.fst _)) (by split; exacts [consumeRead_agenda .., rfl]) ?_
    refine (foldl_fst_agenda ?_ _ _).trans (commitEarly_agenda ..)
    rintro ⟨t, fs, out, met⟩ l
    dsimp only
    split
    · rfl
    · rfl
    · split
      · rfl
      · split
        · rfl
        · split
          · rfl
          · split
            · rfl
            · split
              · rfl
              · exact hop _ _ _ _ _ _ _ ‹_›
@[simp] theorem glzSend_agenda (s : State) (g : Group) (va : Nat) : (s.glzSend g va).agenda = s.agenda := by
  unfold State.glzSend
  split <;> simp
theorem glzChange_agenda {s : State} {g : Group} {px : GPixel} {ws : List Word} {w : GWrites} {o : GlzOut}
    (h : glzChange s g px ws w = .ok o) : o.state.agenda = s.agenda := by
  unfold glzChange at h
  split at h
  · cases h; rfl
  · split at h
    · cases h
    · cases h; rfl
    · split at h
      · cases h
      · next hw => cases h; exact (writeAll_agenda hw).trans (glzSend_agenda ..)
theorem execGlzInsert_answers {z sp c : BitVec 7} : AnswersIssuer (execGlzInsert z sp c) := by
  delta execGlzInsert
  exact glzRun_answers fun _ _ _ _ _ _ _ h => glzChange_agenda h
theorem execGlzCount_answers {d sp : BitVec 7} : AnswersIssuer (execGlzCount d sp) := by
  delta execGlzCount
  refine glzRun_answers fun _ _ _ _ _ _ _ h => ?_
  cases h
  exact glzSend_agenda ..
theorem execGlzRead_answers {d sp i : BitVec 7} : AnswersIssuer (execGlzRead d sp i) := by
  delta execGlzRead
  refine glzRun_answers fun _ _ _ _ _ _ _ h => ?_
  cases h
  exact glzSend_agenda ..
theorem glzResolveRun_answers {clear : Bool} {d sp b : BitVec 7} : AnswersIssuer (glzResolveRun clear d sp b) := by
  delta glzResolveRun
  refine glzRun_answers fun s g l gd px va o h => ?_
  dsimp only at h
  split at h
  · exact glzChange_agenda h
  · cases h; simp
theorem execGlzResolve_answers {d sp b : BitVec 7} : AnswersIssuer (execGlzResolve d sp b) := by
  delta execGlzResolve
  exact glzResolveRun_answers
theorem execGlzResolveClr_answers {d sp b : BitVec 7} : AnswersIssuer (execGlzResolveClr d sp b) := by
  delta execGlzResolveClr
  exact glzResolveRun_answers
theorem execGlzClear_answers {sp : BitVec 7} : AnswersIssuer (execGlzClear sp) := by
  delta execGlzClear
  exact glzRun_answers fun _ _ _ _ _ _ _ h => glzChange_agenda h
@[simp] theorem recordWord_agenda (s : State) (g : Group) (va : Nat) (u : Word) (p : Option Poison) :
    (s.recordWord g va u p).agenda = s.agenda := by
  unfold State.recordWord
  dsimp only
  (repeat' split) <;> simp
theorem liveValues_agenda {s t : State} {i : Nat} {regs : List Nat} {l : List (Nat × VVal × Option Poison)}
    (h : s.liveValues i regs = .ok (some (t, l))) : t.agenda = s.agenda := by
  suffices hm : ∀ t l, s.liveValues i regs = .ok (some (t, l)) → t.agenda = s.agenda from hm t l h
  refine List.foldlRecOn (motive := fun (x : Except FaultInfo (Option (State × List (Nat × VVal × Option Poison)))) =>
    ∀ t l, x = .ok (some (t, l)) → t.agenda = s.agenda) _ _ ?_ ?_
  · rintro t l ⟨⟩
    rfl
  · intro x hx r _ t l ht
    split at ht
    · cases ht
    · cases ht
    · next u q =>
      have hu := hx u q rfl
      dsimp only at ht
      split at ht
      · cases ht; exact hu
      · split at ht
        · cases ht
        · cases ht
        · next hy => cases ht; exact (readSlot_agenda hy).trans hu
@[simp] theorem writeRecord_agenda (s : State) (g : Group) (live : Word) (vals : List (Nat × VVal × Option Poison))
    (l : Nat) : (s.writeRecord g live vals l).agenda = s.agenda := by
  refine (foldl_agenda (fun t j => ?_) _ _).trans (foldl_agenda (fun t w => recordWord_agenda ..) _ _)
  split <;> simp
@[simp] theorem takeOut_agenda (s : State) (i : Nat) (m : Lanes) :
    (s.takeOut i m).agenda = s.agenda := by simp [State.takeOut]
theorem captureRun_keeps {a : List Instr} {s : State} (hs : s.agenda = a) {i : Nat} {g : Group} {live : Word}
    {res : List Nat} {ready : Bool} {request : State → List (Nat × ContRef) → State}
    (hr : ∀ t refs, (request t refs).agenda = t.agenda) : (captureRun s i g live res ready request).Keeps a := by
  unfold captureRun
  split
  · trivial
  · split
    · exact hs
    · split
      · trivial
      · exact hs
      · next hv => simp [hr, liveValues_agenda hv, hs]
theorem execContKey_answers {a : BitVec 7} : AnswersIssuer (execContKey a) :=
  runIsa_answers fun _ _ _ => rfl
theorem execRepack_answers {c : BitVec 7} : AnswersIssuer (execRepack c) :=
  runIsa_answers fun _ _ _ => captureRun_keeps rfl fun _ _ => rfl
@[simp] theorem recordReady_agenda (s : State) (r : ContRef) : (s.recordReady r).agenda = s.agenda := (rfl)
theorem execContResultWrite_answers {k : Nat} : Answers (execContResultWrite k) := by
  refine .of_next (fun _ => rfl) fun s => ?_
  split <;> simp
@[simp] theorem texSeen_agenda (s : State) (g : Group) (m : Met) :
    (s.texSeen g m).agenda = s.agenda := by simp [State.texSeen]
theorem texRun_answers {fn : Nat} {capture : Bool} {d a : BitVec 7} {b : BitVec 8} {cm : BitVec 2} {f : BitVec 1}
    {lm : BitVec 2} {c : BitVec 7} : AnswersIssuer (texRun fn capture d a b cm f lm c) := by
  delta texRun
  refine runIsa_answers fun s i g => keeps_ite (captureRun_keeps rfl fun t refs => ?_) (keeps_ite rfl ?_) <;> simp
@[simp] theorem opResult_agenda (s : State) (i op : Nat) (vals : Nat → List Word) (f : Option FaultInfo)
    (q : Option (Nat × Nat × Poison)) :
    (s.opResult i op vals f q).agenda = s.agenda := (rfl)
@[simp] theorem contResult_agenda (s : State) (cont : List (Nat × ContRef)) (vals : Nat → List Word)
    (f : Option FaultInfo) (q : Option (Nat × Nat × Poison)) :
    (s.contResult cont vals f q).agenda = s.agenda := by
  unfold State.contResult
  dsimp only
  (repeat' split) <;> simp
theorem execTexComplete_answers {k : Nat} : Answers (execTexComplete k) := by
  refine .of_next (fun _ => rfl) fun s => ?_
  split <;> simp
@[simp] theorem sendTrace_agenda (s : State) (i : Nat) (g : Group) (desc : Nat) (any first : Bool)
    (lanes : List (Nat × TravLane)) (cont : List (Nat × ContRef)) :
    (s.sendTrace i g desc any first lanes cont).agenda = s.agenda := (rfl)
theorem traceRun_answers {capture : Bool} {d a : BitVec 7} {b : BitVec 8} {tf any : BitVec 1} :
    AnswersIssuer (traceRun capture d a b tf any) := by
  delta traceRun
  refine runIsa_answers fun s i g => keeps_ite (captureRun_keeps rfl fun t refs => ?_) (keeps_ite rfl ?_) <;> simp
theorem hitRun_answers {d : BitVec 7} {more : List Chk} {dec : Group → Nat → Trav → Hit → Option Hit} :
    AnswersIssuer (hitRun d more dec) := by
  delta hitRun
  refine runIsa_answers fun s i g => keeps_ite rfl ?_
  simp
theorem execHitAccept_answers {d : BitVec 7} : AnswersIssuer (execHitAccept d) := by
  delta execHitAccept
  exact hitRun_answers
theorem execHitIgnore_answers {d : BitVec 7} : AnswersIssuer (execHitIgnore d) := by
  delta execHitIgnore
  exact hitRun_answers
theorem execTraceComplete_answers {k : Nat} : Answers (execTraceComplete k) := by
  refine .of_next (fun _ => rfl) fun s => ?_
  dsimp only
  (repeat' split) <;> simp

/-! ### The matrix unit -/

@[simp] theorem setTile_agenda (s : State) (g : Group) (cb : Nat) (w : List Word) :
    (s.setTile g cb w).agenda = s.agenda := (rfl)
theorem matIssue_keeps (s : State) (i : Nat) (op : MatOp) (word av bv : Nat) (obj : Option Nat) (f : Group → Group) :
    (matIssue s i op word av bv obj f).Keeps s.agenda := by
  refine keeps_ite rfl ?_
  rw [Res.keeps_done, modGroup_agenda]
  split <;> simp
theorem fieldsOk_keeps {a : List Instr} {g : Group} {l : List (Chk × Bool × Nat)} {k : Res} (hk : k.Keeps a) :
    (fieldsOk g l k).Keeps a := by
  induction l with
  | nil => exact hk
  | cons x l ih =>
    unfold fieldsOk
    split
    · trivial
    · exact keeps_ite ih trivial
theorem execBeadMode_answers {a : BitVec 8} : AnswersIssuer (execBeadMode a) :=
  runIsa_answers fun _ _ _ => keeps_ite trivial (keeps_ite trivial (matIssue_keeps ..))
theorem mmaRun_answers {clear : Bool} {c : BitVec 6} {a b : BitVec 8} : AnswersIssuer (mmaRun clear c a b) := by
  delta mmaRun
  exact runIsa_answers fun s i g => fieldsOk_keeps (keeps_ite rfl (keeps_ite rfl (matIssue_keeps ..)))
theorem execBeadZero_answers {c : BitVec 6} : AnswersIssuer
    (execBeadZero c) := runIsa_answers fun _ _ _ => matIssue_keeps ..
theorem matObj_keeps {a : List Instr} {s : State} {g : Group} {obj : Nat} {k : Res} (hs : s.agenda = a)
    (hk : k.Keeps a) : (matObj s g obj k).Keeps a := by
  unfold matObj
  split
  · exact hs
  · exact hk
theorem execBeadSync_answers {a : BitVec 8} : AnswersIssuer (execBeadSync a) :=
  runIsa_answers fun _ _ _ => matObj_keeps rfl (matIssue_keeps ..)
theorem execBeadScale_answers {c : BitVec 6} {a : BitVec 8} : AnswersIssuer (execBeadScale c a) :=
  runIsa_answers fun _ _ _ => matIssue_keeps ..
theorem execPalReserve_answers {p : BitVec 6} {a d : BitVec 8} : AnswersIssuer (execPalReserve p a d) := by
  refine runIsa_answers fun s i g => fieldsOk_keeps ?_
  dsimp only
  split <;> simp
theorem execPalFill_answers {p : BitVec 6} {a b : BitVec 8} : AnswersIssuer (execPalFill p a b) :=
  runIsa_answers fun _ _ _ => fieldsOk_keeps <| keeps_ite rfl <| keeps_ite rfl <| matObj_keeps rfl (matIssue_keeps ..)
theorem execPalFillk_answers {p : BitVec 6} {a b : BitVec 8} : AnswersIssuer (execPalFillk p a b) :=
  runIsa_answers fun _ _ _ => fieldsOk_keeps <| keeps_ite rfl <| keeps_ite rfl <| matObj_keeps rfl (matIssue_keeps ..)
theorem execPalRelease_answers {p : BitVec 6} : AnswersIssuer (execPalRelease p) :=
  runIsa_answers fun _ _ _ => matIssue_keeps ..
@[simp] theorem DrainSt_row_agenda (a : DrainSt) (i id cb dst ctl : Nat) (es : List BoundEntry) (d : Nat) :
    (a.row i id cb dst ctl es d).st.agenda = a.st.agenda := by
  unfold DrainSt.row
  dsimp only
  refine if_agenda ((foldl_agenda (fun t j => ?_) _ _).trans ?_) ?_
  · split <;> simp
  · simp
  · simp
@[simp] theorem drainRows_agenda (s : State) (i id cb dst ctl : Nat) :
    (s.drainRows i id cb dst ctl).st.agenda = s.agenda :=
  foldl_keeps (fun a : DrainSt => a.st.agenda) (fun _ _ => DrainSt_row_agenda ..) _ _
@[simp] theorem matFlags_agenda (s : State) (i : Nat) (fl : FFlags) : (s.matFlags i fl).agenda = s.agenda := (rfl)
@[simp] theorem matPoison_agenda (s : State) (i : Nat) (z : Option (Nat × Poison)) :
    (s.matPoison i z).agenda = s.agenda := by
  unfold State.matPoison
  split <;> simp
@[simp] theorem matArrive_agenda (s : State) (i obj n : Nat) (sel : RaceTag → Bool) :
    (s.matArrive i obj n sel).agenda = s.agenda := by
  unfold State.matArrive
  split <;> simp
@[simp] theorem drainDone_agenda (s : State) (i id cb dst ctl : Nat) :
    (s.drainDone i id cb dst ctl).agenda = s.agenda := by simp [State.drainDone]
theorem execCbDrain_answers {c : BitVec 6} {a b : BitVec 8} : AnswersIssuer (execCbDrain c a b) := by
  refine runIsa_answers fun s i g => fieldsOk_keeps <| keeps_ite rfl <| keeps_ite rfl <| matObj_keeps rfl ?_
  refine keeps_ite (keeps_ite rfl ?_) (matIssue_keeps ..)
  dsimp only
  split
  · rfl
  · have h := matIssue_keeps s i (.drain c.toNat (pairAt g a.toNat) (pairAt g b.toNat))
      (mxWord 0x3E 0 c.toNat a.toNat b.toNat) (pairAt g a.toNat) (pairAt g b.toNat) (objOf (ctlObj (pairAt g b.toNat))) id
    split
    · next hr =>
      rw [hr] at h
      simpa using h
    · exact h
theorem execCbLoad_answers {c : BitVec 6} {a : BitVec 8} : AnswersIssuer (execCbLoad c a) :=
  runIsa_answers fun _ _ _ => keeps_ite trivial (keeps_ite rfl (matIssue_keeps ..))
theorem execCbClear_answers {c : BitVec 6} {n : BitVec 8} : AnswersIssuer (execCbClear c n) :=
  runIsa_answers fun _ _ _ => matIssue_keeps ..
@[simp] theorem kstepGo_agenda (s : State) (i : Nat) (e : MatEntry) (clear : Bool) (cb : Nat) (a b : MatSrc) :
    (s.kstepGo i e clear cb a b).agenda = s.agenda := by simp [State.kstepGo]
@[simp] theorem beadServed_agenda (s : State) (i : Nat) : (s.beadServed i).agenda = s.agenda := (rfl)
theorem execKstep_answers {i : Nat} : Answers (execKstep i) := by
  refine .of_next (fun _ => rfl) fun s => ?_
  grind [beadServed_agenda, kstepGo_agenda]
@[simp] theorem palCopy_agenda (s : State) (g : Group) (src dst n : Nat) :
    (s.palCopy g src dst n).agenda = s.agenda := (rfl)
@[simp] theorem tileFill_agenda (s : State) (i cb v : Nat) : (s.tileFill i cb v).agenda = s.agenda := (rfl)
@[simp] theorem tileScale_agenda (s : State) (i cb f : Nat) :
    (s.tileScale i cb f).agenda = s.agenda := by simp [State.tileScale]
@[simp] theorem matPerform_agenda (s : State) (i : Nat) (e : MatEntry) : (s.matPerform i e).agenda = s.agenda := by
  unfold State.matPerform
  dsimp only
  (repeat' split) <;> simp
theorem execMatrixOpComplete_answers {i : Nat} : Answers (execMatrixOpComplete i) := by
  refine .of_next (fun _ => rfl) fun s => ?_
  dsimp only
  (repeat' split) <;> simp
@[simp] theorem doneVector_agenda (s : State) (c : Nat) : (s.doneVector c).agenda = s.agenda := (rfl)
@[simp] theorem doneWord_agenda (s : State) (c addr val status reason : Nat) (irq : Bool) :
    (s.doneWord c addr val status reason irq).agenda = s.agenda := by
  unfold State.doneWord
  grind [writeVa_agenda, ctxRecord_agenda, doneVector_agenda]

end Sys2Proof.Machine
end

section
/-! PROOFS. The steps of the part (07 R194): each answers in every state, and keeps the agenda. -/
namespace Sys2Proof.Machine
open Sys2Proof

/-! ### Regions, blocks and slices -/

theorem takeSpace_agenda {s : State} {part : Nat} {roll : Bool} {shared : Nat} {l : List (Nat × Nat)}
    {x : List Nat × List Nat × State} (h : s.takeSpace part roll shared l = some x) : x.2.2.agenda = s.agenda := by
  induction l generalizing s x with
  | nil => cases h; rfl
  | cons c l ih =>
    obtain ⟨cell, entries⟩ := c
    unfold State.takeSpace at h
    split at h
    · cases h
    · next o s1 hs =>
      have h1 : s1.agenda = s.agenda := by
        split at hs
        · cases hs; rfl
        · exact dynAlloc_agenda hs
      split at h
      · cases h
      · next k s2 ht =>
        have h2 : s2.agenda = s1.agenda := by
          split at ht
          · exact dynAlloc_agenda ht
          · cases ht; rfl
        obtain ⟨y, hy, rfl⟩ := Option.map_eq_some_iff.mp h
        exact (ih hy).trans (h2.trans h1)
theorem finishPlan_agenda {s : State} {k : Nat} {r : Region} {cells : List Nat} {p : List (GLoc × List Nat) × Room}
    {ask : Ask} {x : Plan} (h : s.finishPlan k r cells p ask = some x) : x.st.agenda = s.agenda := by
  have h1 := (Option.ite_none_left_eq_some.mp h).2
  split at h1
  · cases h1
  · split at h1
    · cases h1
    · next hs => cases h1; exact takeSpace_agenda hs
theorem planOn_agenda {s : State} {k : Nat} {r : Region} {ok : Nat → Nat → Bool} {room : Room} {ask : Ask}
    {cells : List Nat} {x : Plan} (h : s.planOn k r ok room ask cells = some x) : x.st.agenda = s.agenda := by
  unfold State.planOn at h
  dsimp only at h
  split at h
  · cases h
  · exact finishPlan_agenda h
theorem plan_agenda {s : State} {k : Nat} {r : Region} {ok : Nat → Nat → Bool} {room : Room} {ask : Ask}
    {x : Plan} (h : s.plan k r ok room ask = some x) : x.st.agenda = s.agenda := by
  unfold State.plan at h
  dsimp only at h
  split at h
  · obtain ⟨c, _, hc⟩ := List.exists_of_findSome?_eq_some h
    exact planOn_agenda (Option.ite_none_right_eq_some.mp hc).2
  · obtain ⟨n, _, hn⟩ := List.exists_of_findSome?_eq_some h
    obtain ⟨c, _, hc⟩ := List.exists_of_findSome?_eq_some hn
    have h1 := (Option.ite_none_left_eq_some.mp hc).2
    split at h1
    · exact planOn_agenda h1
    · obtain ⟨l, _, hl⟩ := List.exists_of_findSome?_eq_some h1
      exact planOn_agenda (Option.ite_none_right_eq_some.mp hl).2
@[simp] theorem emptied_agenda (s : State) (r : Region) : (s.emptied r).agenda = s.agenda := (rfl)
@[simp] theorem newCoat_agenda (s : State) (r : Rcb) (c : Nat) : (s.newCoat r c).1.agenda = s.agenda := by
  unfold State.newCoat
  dsimp only
  split <;> simp
@[simp] theorem admissionFail_agenda (s : State) (c reason rcb : Nat) (launched : Bool) (word : Option Rcb) :
    (s.admissionFail c reason rcb launched word).agenda = s.agenda := by
  unfold State.admissionFail
  dsimp only
  split <;> simp
@[simp] theorem admitRegion_agenda (s : State) (r : Rcb) (reg : Region) (decl : Option (List Byte × List Byte)) :
    (s.admitRegion r reg decl).agenda = s.agenda := by
  unfold State.admitRegion
  dsimp only
  split <;> simp
@[simp] theorem take_agenda (s : State) (c cls rcb : Nat) (parent byBlock : Option Nat) :
    (s.take c cls rcb parent byBlock).1.agenda = s.agenda := by
  unfold State.take
  dsimp only
  (repeat' split) <;> simp
@[simp] theorem callSlices_agenda (s : State) : (s.callSlices).agenda = s.agenda := (rfl)
@[simp] theorem liftSlices_agenda (s : State) : (s.liftSlices).agenda = s.agenda := (rfl)
@[simp] theorem saveBytes_agenda (s : State) (c va : Nat) (b : List Byte) :
    (s.saveBytes c va b).agenda = s.agenda := by
  unfold State.saveBytes
  grind [writeVa_agenda]
@[simp] theorem writeImage_agenda (s : State) (b : Nat) (ids : List Nat) (img : Image) :
    (s.writeImage b ids img).agenda = s.agenda :=
  (foldl_agenda (fun _ _ => saveBytes_agenda ..) _ _).trans <| (foldl_agenda (fun _ _ => saveBytes_agenda ..) _ _).trans <|
    (foldl_agenda (fun _ _ => saveBytes_agenda ..) _ _).trans (saveBytes_agenda ..)
@[simp] theorem ringsOut_agenda (s : State) (b : Nat) : (s.ringsOut b).agenda = s.agenda := by
  unfold State.ringsOut
  split <;> simp
@[simp] theorem evictOne_agenda (s : State) (b : Nat) : (s.evictOne b).agenda = s.agenda := by
  unfold State.evictOne
  dsimp only
  simp only [modBlock_agenda, leavePlace_agenda]
  rw [foldl_agenda (fun _ _ => modQuad_agenda ..), writeImage_agenda, foldl_agenda fun _ _ => setGroup_agenda ..]
  simp
theorem execBlockEvict_answers {b : Nat} : Answers (execBlockEvict b) := by
  refine .of_next (fun _ => rfl) fun s => ?_
  simp
@[simp] theorem clearSlots_agenda (s : State) (g : Group) :
    (s.clearSlots g).agenda = s.agenda := by simp [State.clearSlots]
@[simp] theorem bindRings_agenda (s : State) (cell quad : Nat) (hw : List Nat) (v : Nat → Ring) :
    (s.bindRings cell quad hw v).agenda = s.agenda := (rfl)
@[simp] theorem openCells_agenda (s : State) (c part : Nat) (cells : List Nat) :
    (s.openCells c part cells).agenda = s.agenda := by simp [State.openCells]
@[simp] theorem zeroCharge_agenda (s : State) (k : Nat) (cells : List Nat) :
    (s.zeroCharge k cells).agenda = s.agenda := (rfl)
@[simp] theorem placeNew_agenda (s : State) (k : Nat) (r : Region) (p : Plan) (pool : Nat × Nat) :
    (s.placeNew k r p pool).agenda = p.st.agenda := by
  unfold State.placeNew
  dsimp only
  rw [callSlices_agenda, takeShadow_agenda, modRegion_agenda]
  refine (foldl_agenda (fun t g => ?_) _ _).trans ?_
  · split <;> simp
  · split <;> simp
@[simp] theorem spillHome_agenda (s : State) (i r : Nat) : (s.spillHome i r).agenda = s.agenda := by
  unfold State.spillHome
  dsimp only
  split <;> simp
@[simp] theorem respill_agenda (s : State) (i : Nat) : (s.respill i).agenda = s.agenda := by
  refine foldl_agenda (fun t r => ?_) _ _
  dsimp only
  split
  · rfl
  · split
    · next h => exact spillReg_agenda h
    · exact spillHome_agenda ..
    · rfl
@[simp] theorem placeBack_agenda (s : State) (b k : Nat) (r : Region) (p : Plan) :
    (s.placeBack b k r p).agenda = p.st.agenda := by
  unfold State.placeBack
  dsimp only
  rw [callSlices_agenda]
  split <;> [rw [bindRings_agenda]; skip]
  all_goals
    rw [foldl_agenda (fun t x => ?_), foldl_agenda (fun _ _ => modCell_agenda ..),
      foldl_agenda (fun _ _ => modWindow_agenda ..)]
    · simp
    · split <;> split <;> simp
theorem placeOneItem_agenda {s t : State} {it : Item} {barred : List (Nat × Nat)}
    (h : s.placeOneItem it barred = some t) : t.agenda = s.agenda := by
  unfold State.placeOneItem at h
  dsimp only at h
  split at h
  · cases h
  · split at h
    · obtain ⟨p, hp, rfl⟩ := Option.map_eq_some_iff.mp h
      exact (placeBack_agenda ..).trans (plan_agenda hp)
    · split at h
      · cases h
      · next hp =>
        obtain ⟨pool, _, rfl⟩ := Option.map_eq_some_iff.mp h
        exact (placeNew_agenda ..).trans (plan_agenda hp)
theorem placeGang_agenda {k fuel : Nat} {barred : List (Nat × Nat)} {s t : State}
    (h : State.placeGang k barred fuel s = some t) : t.agenda = s.agenda := by
  induction fuel generalizing s with
  | zero => cases h; rfl
  | succ n ih =>
    unfold State.placeGang at h
    split at h
    · cases h
    · dsimp only at h
      split at h
      · obtain ⟨u, hu, ht⟩ := Option.bind_eq_some_iff.mp h
        exact (ih ht).trans (placeOneItem_agenda hu)
      · split at h
        · obtain ⟨u, hu, ht⟩ := Option.bind_eq_some_iff.mp h
          exact (ih ht).trans (placeOneItem_agenda hu)
        · cases h; rfl
theorem placeItem_agenda {s t : State} {it : Item} {barred : List (Nat × Nat)}
    (h : s.placeItem it barred = some t) : t.agenda = s.agenda := by
  unfold State.placeItem at h
  split at h
  · cases h
  · split at h
    · exact placeGang_agenda h
    · exact placeOneItem_agenda h
@[simp] theorem walkGo_agenda (first : Bool) (barred : List (Nat × Nat)) (l : List Item) (s : State) :
    (State.walkGo first barred l s).agenda = s.agenda := by
  induction l generalizing first barred s with
  | nil => rfl
  | cons it l ih =>
    unfold State.walkGo
    split
    · next h => exact (modRegion_agenda ..).trans (placeItem_agenda h)
    · exact (ih ..).trans (by split <;> rfl)
@[simp] theorem walkList_agenda (s : State) (part : Nat) :
    (s.walkList part).agenda = s.agenda := by simp [State.walkList]
theorem execBlockPlace_answers {p : Nat} : Answers (execBlockPlace p) := by
  refine .of_next (fun _ => rfl) fun s => ?_
  simp
@[simp] theorem without_agenda (s : State) (k cell : Nat) :
    (s.without k cell).agenda = s.agenda := by simp [State.without]
@[simp] theorem endSlice_agenda (s : State) (k cell : Nat) : (s.endSlice k cell).agenda = s.agenda := (rfl)
@[simp] theorem liftSlice_agenda (s : State) (k cell : Nat) : (s.liftSlice k cell).agenda = s.agenda := (rfl)
theorem execSliceEnd_answers {r c : Nat} : Answers (execSliceEnd r c) := by
  refine .of_next (fun _ => rfl) fun s => ?_
  split <;> simp
@[simp] theorem retire_agenda (s : State) (b : Nat) : (s.retire b).agenda = s.agenda := by simp [State.retire]
@[simp] theorem drainRegion_agenda (s : State) (k : Nat) (r : Region) :
    (s.drainRegion k r).agenda = s.agenda := by simp [State.drainRegion]
theorem execRegionComplete_answers {r : Nat} : Answers (execRegionComplete r) := by
  refine .of_next (fun _ => rfl) fun s => ?_
  split <;> simp
theorem execLaunch_answers {a b : BitVec 8} : AnswersIssuer (execLaunch a b) := by
  refine runIsa_answers fun s i g => keeps_ite rfl (released_keeps fun t ht => ?_)
  simp [ht]
theorem execRegionJoin_answers {b : BitVec 8} : AnswersIssuer (execRegionJoin b) := by
  refine runIsa_answers fun s i g => ?_
  simp
@[simp] theorem pick_agenda (s : State) (y : List Nat) : (s.pick y).2.agenda = s.agenda := by
  unfold State.pick
  split <;> simp

/-! ### Supply, power-failure handlers and the hold-up save -/

@[simp] theorem ibi_agenda (s : State) (b : Nat) : (s.ibi b).agenda = s.agenda := (rfl)
@[simp] theorem assertFault_agenda (s : State) : (s.assertFault).agenda = s.agenda := by simp [State.assertFault]
@[simp] theorem deny_agenda (s : State) : (s.deny).agenda = s.agenda := (rfl)
theorem guarded_agenda {s : State} {fw : Nat} {f : State → State} (hf : ∀ t, (f t).agenda = t.agenda) :
    (s.guarded fw f).agenda = s.agenda := if_agenda (hf s) (deny_agenda s)
theorem onHub_agenda {s : State} {f : State → State} (hf : ∀ t, (f t).agenda = t.agenda) :
    (s.onHub f).agenda = s.agenda := if_agenda rfl (hf s)
@[simp] theorem i3cTransfer_agenda (s : State) : (s.i3cTransfer).agenda = s.agenda := (rfl)
@[simp] theorem cutSave_agenda (s : State) : (s.cutSave).agenda = s.agenda := by
  unfold State.cutSave
  dsimp only
  (repeat' split) <;> simp
@[simp] theorem railLoss_agenda (s : State) (l : List SaveRegion) : (s.railLoss l).2.agenda = s.agenda := by
  induction l generalizing s with
  | nil => rfl
  | cons r l ih =>
    unfold State.railLoss
    dsimp only
    rw [ih]
    split <;> rfl
@[simp] theorem capture_agenda (s : State) : (s.capture).agenda = s.agenda := by
  unfold State.capture
  dsimp only
  (repeat' split) <;> simp
theorem launchHandler_agenda {s : State} {m : MustSave} {x : State × Handler} (h : s.launchHandler m = some x) :
    x.1.agenda = s.agenda := by
  unfold State.launchHandler at h
  dsimp only at h
  split at h
  · cases h
    dsimp only
    split <;> rfl
  · cases h
@[simp] theorem launchHandlers_agenda (s : State) (l : List Nat) : (s.launchHandlers l).1.agenda = s.agenda := by
  induction l generalizing s with
  | nil => rfl
  | cons c l ih =>
    unfold State.launchHandlers
    split
    · exact ih s
    · split
      · exact ih s
      · next h => exact (ih _).trans (launchHandler_agenda h)
@[simp] theorem startSave_agenda (s : State) (event : Nat) (rails : Bool) :
    (s.startSave event rails).agenda = s.agenda := by simp [State.startSave]
@[simp] theorem cutCopy_agenda (s : State) : (s.cutCopy).agenda = s.agenda := by
  unfold State.cutCopy
  split <;> simp
theorem execSupplyLoss_answers {rails : Nat} : Answers (execSupplyLoss rails) := by
  refine .of_next (fun _ => rfl) fun s => ?_
  simp
theorem execReserveCharged_answers : Answers execReserveCharged :=
  .of_next (fun _ => rfl) fun _ => rfl
theorem execHandlerBudgetExpiry_answers {k : Nat} : Answers (execHandlerBudgetExpiry k) := by
  refine .of_next (fun _ => rfl) fun s => ?_
  dsimp only
  (repeat' split) <;> simp
theorem execHoldupSaveComplete_answers : Answers execHoldupSaveComplete := by
  refine .of_next (fun _ => rfl) fun s => ?_
  dsimp only
  (repeat' split) <;> simp
theorem execPfailDone_answers : AnswersIssuer execPfailDone := by
  refine runIsa_answers fun s i g => ?_
  simp
@[simp] theorem keepWrite_agenda (s : State) (fw op v : Nat) : (s.keepWrite fw op v).agenda = s.agenda :=
  guarded_agenda fun _ => onHub_agenda fun _ => if_agenda rfl rfl
theorem execKeepDir_answers {v fw : Nat} : Answers (execKeepDir v fw) := by
  refine .of_next (fun _ => rfl) fun s => ?_
  simp
theorem execKeepData_answers {v fw : Nat} : Answers (execKeepData v fw) := by
  refine .of_next (fun _ => rfl) fun s => ?_
  simp
theorem execKeepErase_answers {v fw : Nat} : Answers (execKeepErase v fw) := by
  refine .of_next (fun _ => rfl) fun s => ?_
  simp
theorem execKeepCmdComplete_answers : Answers execKeepCmdComplete := by
  refine .of_next (fun _ => rfl) fun s => ?_
  dsimp only
  (repeat' split) <;> simp

/-! ### Waking, landings and relaunches -/

theorem execArbitration_answers {cell unit : Nat} : Answers (execArbitration cell unit) := by
  refine .of_next (fun _ => rfl) fun s => ?_
  split <;> simp
theorem execGroupWake_answers {i : Nat} : Answers (execGroupWake i) := by
  refine .of_next (fun _ => rfl) fun s => ?_
  grind [modGroup_agenda, barComplete_agenda]
theorem landOld_agenda {s t : State} {i : Nat} {p : Pend} {m : Option MetAt} (h : s.landOld i p = .ok (some (t, m))) :
    t.agenda = s.agenda := by
  unfold State.landOld at h
  split at h
  · cases h; rfl
  · suffices hm : ∀ (t : State) (m : Option MetAt), _ = Except.ok (some (t, m)) → t.agenda = s.agenda from hm t m h
    refine List.foldlRecOn (motive := fun (x : Except FaultInfo (Option (State × Option MetAt))) =>
      ∀ t m, x = .ok (some (t, m)) → t.agenda = s.agenda) _ _ ?_ ?_
    · rintro t m ⟨⟩
      rfl
    · intro x hx r _ t m ht
      split at ht
      · cases ht
      · cases ht
      · next u q =>
        have hu := hx u q rfl
        split at ht
        · cases ht; exact hu
        · split at ht
          · cases ht
          · cases ht
          · next hy => cases ht; simp [readSlot_agenda hy, hu]
@[simp] theorem landed_agenda (s : State) (i : Nat) (p : Pend) : (s.landed i p).agenda = s.agenda := by
  unfold State.landed
  dsimp only
  (repeat' split) <;> simp
theorem execResultLanding_answers {i k : Nat} : Answers (execResultLanding i k) := by
  refine .of_next (fun _ => rfl) fun s => ?_
  dsimp only
  (repeat' split) <;> grind [landed_agenda, modGroup_agenda, landOld_agenda, skim_agenda, consumeNow_agenda, barComplete_agenda]
@[simp] theorem freeGroup_agenda (s : State) (i : Nat) :
    (s.freeGroup i).agenda = s.agenda := by simp [State.freeGroup]
theorem execGroupSlotRelease_answers {i : Nat} : Answers (execGroupSlotRelease i) := by
  refine .of_next (fun _ => rfl) fun s => ?_
  grind [freeGroup_agenda, modGroup_agenda]
theorem execTrackerEntryFree_answers {i : Nat} : Answers (execTrackerEntryFree i) := by
  refine .of_next (fun _ => rfl) fun s => ?_
  simp
@[simp] theorem loadRecords_agenda (s : State) (i : Nat) : (s.loadRecords i).agenda = s.agenda := by
  unfold State.loadRecords
  dsimp only
  split <;> simp
@[simp] theorem relaunch_agenda (s : State) (cell : Nat) (b : Bucket) (units : List (List IndexEntry)) (loc : GLoc) :
    (s.relaunch cell b units loc).agenda = s.agenda := by
  unfold State.relaunch
  grind [modCell_agenda, clearSlots_agenda, loadRecords_agenda, callSlices_agenda, skim_agenda, modGroup_agenda]
theorem execRegroupRelaunch_answers {cell : Nat} : Answers (execRegroupRelaunch cell) := by
  refine .of_next (fun _ => rfl) fun s => ?_
  dsimp only
  split
  · rfl
  · refine if_agenda rfl ?_
    cases h : List.findSome? _ _ with
    | none => rfl
    | some t =>
      obtain ⟨b, _, hb⟩ := List.exists_of_findSome?_eq_some h
      split at hb
      · cases hb
      · obtain ⟨p, _, rfl⟩ := Option.map_eq_some_iff.mp (Option.ite_none_left_eq_some.mp hb).2
        exact relaunch_agenda ..
theorem execWatchdogExpiry_answers {i : Nat} : Answers (execWatchdogExpiry i) := by
  refine .of_next (fun _ => rfl) fun s => ?_
  simp
theorem execRollback_answers {b : Nat} : Answers (execRollback b) := by
  refine .of_next (fun _ => rfl) fun s => ?_
  dsimp only
  (repeat' split) <;> simp
theorem execPostTake_answers {f cls : Nat} : Answers (execPostTake f cls) := by
  refine .of_next (fun _ => rfl) fun s => ?_
  dsimp only
  (repeat' split) <;> simp

/-! ### Resets, clocks, boot and power -/

@[simp] theorem refreshSeams_agenda (s : State) : (s.refreshSeams).agenda = s.agenda := (rfl)
@[simp] theorem physical_agenda (s : State) : (s.physical).agenda = s.agenda := (rfl)
@[simp] theorem bootStart_agenda (s : State) : (s.bootStart).agenda = s.agenda := (rfl)
@[simp] theorem deviceRung_agenda (s : State) (train : Nat) :
    (s.deviceRung train).agenda = s.agenda := by simp [State.deviceRung]
theorem execPorReset_answers {sa boot train : Nat} : Answers (execPorReset sa boot train) := by
  refine .of_next (fun _ => rfl) fun s => ?_
  simp
theorem execPerstReset_answers {train : Nat} : Answers (execPerstReset train) := by
  refine .of_next (fun _ => rfl) fun s => ?_
  simp
theorem execSysclkFault_answers : Answers execSysclkFault :=
  .of_next (fun _ => rfl) fun _ => rfl
theorem execSysclkReturn_answers : Answers execSysclkReturn :=
  .of_next (fun _ => rfl) fun _ => rfl
theorem execDclkFault_answers : Answers execDclkFault := by
  refine .of_next (fun _ => rfl) fun s => ?_
  simp
theorem execDclkReturn_answers : Answers execDclkReturn :=
  .of_next (fun _ => rfl) fun _ => rfl
theorem execLockstepMismatch_answers : Answers execLockstepMismatch := by
  refine .of_next (fun _ => rfl) fun s => ?_
  simp
theorem execThermtrip_answers : Answers execThermtrip :=
  .of_next (fun _ => rfl) fun _ => rfl
theorem execBootGo_answers {v : Nat} : Answers (execBootGo v) := by
  refine .of_next (fun _ => rfl) fun s => ?_
  simp
theorem execFirmwareImageCheck_answers {sig key gen build raise : Nat} : Answers
    (execFirmwareImageCheck sig key gen build raise) := by
  refine .of_next (fun _ => rfl) fun s => ?_
  simp
theorem execPcieLinkStateChange_answers {st width rate hot : Nat} : Answers
    (execPcieLinkStateChange st width rate hot) := by
  refine .of_next (fun _ => rfl) fun s => ?_
  simp
@[simp] theorem zeroCell_agenda (s : State) (c : Nat) : (s.zeroCell c).agenda = s.agenda := (rfl)
@[simp] theorem cleanCell_agenda (s : State) (c : Nat) :
    (s.cleanCell c).agenda = s.agenda := by simp [State.cleanCell]
@[simp] theorem setCellPower_agenda (s : State) (st level c : Nat) :
    (s.setCellPower st level c).agenda = s.agenda := by
  unfold State.setCellPower
  split <;> simp
@[simp] theorem powerRun_agenda (s : State) (rail : Bool) (v : Nat) : (s.powerRun rail v).2.agenda = s.agenda := by
  unfold State.powerRun
  dsimp only
  (repeat' split) <;> simp
@[simp] theorem powerWrite_agenda (s : State) (kind v : Nat) : (s.powerWrite kind v).agenda = s.agenda := by
  unfold State.powerWrite
  dsimp only
  split
  · rfl
  · split
    · simp
    · rw [refreshSeams_agenda, foldl_agenda fun _ _ => modCell_agenda ..]
      rfl
theorem execPowerCmdCell_answers {v : Nat} : Answers (execPowerCmdCell v) := by
  refine .of_next (fun _ => rfl) fun s => ?_
  simp
theorem execPowerCmdPane_answers {v : Nat} : Answers (execPowerCmdPane v) := by
  refine .of_next (fun _ => rfl) fun s => ?_
  simp
theorem execPowerCmdDevice_answers {v : Nat} : Answers (execPowerCmdDevice v) := by
  refine .of_next (fun _ => rfl) fun s => ?_
  simp
theorem execDHold_answers {v : Nat} : Answers (execDHold v) := by
  refine .of_next (fun _ => rfl) fun s => ?_
  simp
theorem execPowerCmdComplete_answers {rail : Nat} : Answers (execPowerCmdComplete rail) := by
  refine .of_next (fun _ => rfl) fun s => ?_
  dsimp only
  (repeat' split) <;> simp
theorem execClampTrigger_answers {kind pane temp : Nat} : Answers (execClampTrigger kind pane temp) :=
  .of_next (fun _ => rfl) fun _ => rfl
theorem execClampStep_answers {tick : ClampTick} : Answers (execClampStep tick) := by
  refine .of_next (fun _ => rfl) fun s => ?_
  dsimp only
  split
  · rfl
  · exact if_agenda rfl (foldl_agenda (fun _ _ => modCell_agenda ..) _ _)
theorem execClampConditionClear_answers : Answers execClampConditionClear := by
  refine .of_next (fun _ => rfl) fun s => ?_
  split <;> simp
theorem execClampRelease_answers {v fw same : Nat} : Answers (execClampRelease v fw same) :=
  .of_next (fun _ => rfl) fun _ => guarded_agenda fun _ => if_agenda rfl <| if_agenda rfl <|
    foldl_agenda (fun _ _ => modCell_agenda ..) _ _

/-! ### Partitions, the reset ladder and the classes -/

@[simp] theorem stage2Inv_agenda (s : State) (f : Nat) (new : List (Nat × Nat)) :
    (s.stage2Inv f new).agenda = s.agenda := by simp [State.stage2Inv]
@[simp] theorem commitTable_agenda (s : State) (t : Table) : (s.commitTable t).agenda = s.agenda := by
  unfold State.commitTable
  dsimp only
  exact foldl_agenda (fun _ _ => stage2Inv_agenda ..) _ _
@[simp] theorem partEnd_agenda (s : State) (r : Nat) : (s.partEnd r).agenda = s.agenda := (rfl)
theorem partWrite_agenda {s : State} {fw op v : Nat} {run : Nat → State → State}
    (hr : ∀ v t, (run v t).agenda = t.agenda) : (s.partWrite fw op v run).agenda = s.agenda :=
  guarded_agenda fun _ => if_agenda rfl (if_agenda rfl (if_agenda (partEnd_agenda ..) (hr ..)))
@[simp] theorem invSettle_agenda (s : State) (cs : List Nat) :
    (s.invSettle cs).agenda = s.agenda := by simp [State.invSettle]
@[simp] theorem invDone_agenda (s : State) : (s.invDone).agenda = s.agenda := by simp [State.invDone]
theorem execPartCommit_answers {v fw : Nat} : Answers (execPartCommit v fw) := by
  refine .of_next (fun _ => rfl) fun _ => partWrite_agenda fun _ s => ?_
  dsimp only
  split
  · simp
  · exact partEnd_agenda ..
  · rw [partEnd_agenda]
    split <;> split <;> simp
theorem execInvCtx_answers {v fw : Nat} : Answers (execInvCtx v fw) := by
  refine .of_next (fun _ => rfl) fun s => ?_
  dsimp only
  grind [partWrite_agenda, invSettle_agenda, dropTlb_agenda, drainCtxs_agenda]
@[simp] theorem flushWindow_agenda (s : State) (part cell : Nat) :
    (s.flushWindow part cell).agenda = s.agenda := by simp [State.flushWindow]
@[simp] theorem handOver_agenda (s : State) (part cell : Nat) (qs : List Nat) (give : Bool) :
    (s.handOver part cell qs give).agenda = s.agenda := by simp [State.handOver]
@[simp] theorem recarveEnd_agenda (s : State) (k : Nat) : (s.recarveEnd k).agenda = s.agenda := by
  unfold State.recarveEnd
  dsimp only
  (repeat' split) <;> simp
@[simp] theorem recarvesEnd_agenda (s : State) : (s.recarvesEnd).agenda = s.agenda :=
  foldl_agenda (fun _ _ => recarveEnd_agenda ..) _ _
@[simp] theorem recarveBegin_agenda (s : State) (part cell : Nat) (qs : List Nat) (grow fence : Bool) (bs : List Nat) :
    (s.recarveBegin part cell qs grow fence bs).agenda = s.agenda := by simp [State.recarveBegin]
@[simp] theorem partSettle_agenda (s : State) : (s.partSettle).agenda = s.agenda := by
  unfold State.partSettle
  dsimp only
  split <;> simp
theorem execPartGrow_answers {v fw : Nat} : Answers (execPartGrow v fw) := by
  refine .of_next (fun _ => rfl) fun s => ?_
  dsimp only
  grind [partWrite_agenda, partEnd_agenda, handOver_agenda, recarveBegin_agenda, partSettle_agenda]
theorem execPartShrink_answers {v fw : Nat} : Answers (execPartShrink v fw) := by
  refine .of_next (fun _ => rfl) fun _ => partWrite_agenda fun v s => ?_
  refine if_agenda (partEnd_agenda ..) (if_agenda (partEnd_agenda ..) ?_)
  simp
theorem execShrinkComplete_answers {k : Nat} : Answers (execShrinkComplete k) := by
  refine .of_next (fun _ => rfl) fun s => ?_
  simp
theorem execDeferredLaunchEviction_answers {k : Nat} : Answers (execDeferredLaunchEviction k) := by
  refine .of_next (fun _ => rfl) fun s => ?_
  split <;> simp
theorem execPartCancel_answers {v fw : Nat} : Answers (execPartCancel v fw) := by
  refine .of_next (fun _ => rfl) fun _ => partWrite_agenda fun v s => ?_
  refine if_agenda (partEnd_agenda ..) (if_agenda (partEnd_agenda ..) ?_)
  simp
@[simp] theorem killCtx_agenda (s : State) (c : Nat) : (s.killCtx c).agenda = s.agenda := by simp [State.killCtx]
@[simp] theorem resetUnit_agenda (s : State) (cell u : Nat) : (s.resetUnit cell u).agenda = s.agenda := by
  unfold State.resetUnit
  split <;> simp
@[simp] theorem rungStart_agenda (s : State) (rung tgt : Nat) (asked : Option Nat) (climbed : Bool) :
    (s.rungStart rung tgt asked climbed).agenda = s.agenda := by simp [State.rungStart]
@[simp] theorem rungAct_agenda (s : State) (y : Rung) : (s.rungAct y).agenda = s.agenda := by
  unfold State.rungAct
  split <;> simp
@[simp] theorem resetSettle_agenda (s : State) (y : Rung) : (s.resetSettle y).agenda = s.agenda := by
  unfold State.resetSettle
  split <;> simp
@[simp] theorem rungEnd_agenda (s : State) (k : Nat) (z : Rung) : (s.rungEnd k z).agenda = s.agenda := by
  unfold State.rungEnd
  dsimp only
  rw [resetSettle_agenda, recarvesEnd_agenda,
    foldl_agenda fun _ _ => (ctxRecord_agenda ..).trans (modCtx_agenda ..), withHub_agenda, rungAct_agenda]
  simp
theorem execRungComplete_answers {k : Nat} : Answers (execRungComplete k) := by
  refine .of_next (fun _ => rfl) fun s => ?_
  split <;> simp
theorem execRungTimeout_answers {k : Nat} : Answers (execRungTimeout k) := by
  refine .of_next (fun _ => rfl) fun s => ?_
  split <;> simp
theorem execRungReset_answers {v fw : Nat} : Answers (execRungReset v fw) :=
  .of_next (fun _ => rfl) fun _ => partWrite_agenda fun _ _ => if_agenda (partEnd_agenda ..) <|
    if_agenda (if_agenda (partEnd_agenda ..) (rungStart_agenda ..)) (if_agenda (withHub_agenda ..) (rungStart_agenda ..))
theorem execFunctionLevelReset_answers {f : Nat} : Answers (execFunctionLevelReset f) := by
  refine .of_next (fun _ => rfl) fun s => ?_
  simp
theorem execVfConfigRequest_answers {f item wr v : Nat} : Answers (execVfConfigRequest f item wr v) := by
  refine .of_next (fun _ => rfl) fun s => ?_
  simp
theorem execApertureRequest_answers {f off n wr v : Nat} : Answers (execApertureRequest f off n wr v) := by
  refine .of_next (fun _ => rfl) fun s => if_agenda rfl <| if_agenda rfl <| if_agenda rfl <| if_agenda rfl ?_
  split
  · exact if_agenda (homeWrite_agenda ..) (foldl_agenda (fun _ _ => homeWrite_agenda ..) _ _)
  · rfl
theorem execClassWaysWrite_answers {cls v fw : Nat} : Answers (execClassWaysWrite cls v fw) :=
  .of_next (fun _ => rfl) fun _ => guarded_agenda fun _ => onHub_agenda fun _ => rfl
theorem execClassBwWrite_answers {cls v fw : Nat} : Answers (execClassBwWrite cls v fw) :=
  .of_next (fun _ => rfl) fun _ => guarded_agenda fun _ => onHub_agenda fun _ => rfl

/-! ### Display and cameras -/

@[simp] theorem modPipe_agenda (s : State) (n : Nat) (f : Pipe → Pipe) : (s.modPipe n f).agenda = s.agenda := (rfl)
@[simp] theorem pipeWrite_agenda (s : State) (n v link : Nat) : (s.pipeWrite n v link).agenda = s.agenda :=
  onHub_agenda fun _ => rfl
theorem execPipeEnable_answers {n v link fw : Nat} : Answers (execPipeEnable n v link fw) := by
  refine .of_next (fun _ => rfl) fun s => ?_
  grind [guarded_agenda, pipeWrite_agenda]
theorem execPipeDisable_answers {n v fw : Nat} : Answers (execPipeDisable n v fw) := by
  refine .of_next (fun _ => rfl) fun s => ?_
  grind [guarded_agenda, pipeWrite_agenda]
theorem execLayerTableCommit_answers {n v link fw : Nat} : Answers (execLayerTableCommit n v link fw) := by
  refine .of_next (fun _ => rfl) fun s => ?_
  grind [guarded_agenda, pipeWrite_agenda]
theorem execLayerCommitTake_answers {n : Nat} : Answers (execLayerCommitTake n) := by
  refine .of_next (fun _ => rfl) fun s => ?_
  simp
@[simp] theorem pipePoison_agenda (s : State) (c : Option Nat) (z : Nat × Poison) :
    (s.pipePoison c z).agenda = s.agenda := by
  unfold State.pipePoison
  split <;> simp
theorem execCoatSign_answers {k : Nat} : Answers (execCoatSign k) := by
  refine .of_next (fun _ => rfl) fun s => ?_
  dsimp only
  (repeat' split) <;> simp
@[simp] theorem quarantine_agenda (s : State) (p : Nat) : (s.quarantine p).agenda = s.agenda := by
  unfold State.quarantine
  split <;> simp
theorem execPaneSelfTestStart_answers {p : Nat} : Answers (execPaneSelfTestStart p) := by
  refine .of_next (fun _ => rfl) fun s => ?_
  split <;> simp
theorem execPaneSelfTestEnd_answers {p fail : Nat} : Answers (execPaneSelfTestEnd p fail) := by
  refine .of_next (fun _ => rfl) fun s => ?_
  simp
theorem execReadmit_answers {v fw : Nat} : Answers (execReadmit v fw) := by
  refine .of_next (fun _ => rfl) fun _ => guarded_agenda fun _ => onHub_agenda fun s => ?_
  refine (foldl_agenda (fun t p => ?_) _ _).trans (withHub_agenda ..)
  split
  · exact if_agenda rfl (if_agenda rfl rfl)
  · rfl
@[simp] theorem mismatch_agenda (s : State) (n i frame : Nat) (t : Nat × Nat) :
    (s.mismatch n i frame t).agenda = s.agenda := by
  refine (foldl_agenda (fun _ _ => quarantine_agenda ..) _ _).trans ?_
  simp
theorem execFrameDecision_answers {n : Nat} : Answers (execFrameDecision n) := by
  refine .of_next (fun _ => rfl) fun s => if_agenda rfl ((foldl_agenda (fun t x => ?_) _ _).trans (if_agenda rfl rfl))
  split
  · exact mismatch_agenda ..
  · rfl
theorem execScanoutTileCheck_answers {n i t : Nat} : Answers (execScanoutTileCheck n i t) := by
  refine .of_next (fun _ => rfl) fun s => ?_
  dsimp only
  (repeat' split) <;> simp
theorem execTelltaleLoad_answers {v fw : Nat} : Answers (execTelltaleLoad v fw) := by
  refine .of_next (fun _ => rfl) fun _ => guarded_agenda fun _ => onHub_agenda fun s => if_agenda rfl (if_agenda rfl ?_)
  simp
theorem execTelltaleCopyComplete_answers : Answers execTelltaleCopyComplete := by
  refine .of_next (fun _ => rfl) fun s => ?_
  split <;> simp
theorem execLatchWrite_answers {w v fw : Nat} : Answers (execLatchWrite w v fw) :=
  .of_next (fun _ => rfl) fun _ => guarded_agenda fun _ => onHub_agenda fun _ => rfl
theorem execHudLatchTake_answers : Answers execHudLatchTake :=
  .of_next (fun _ => rfl) fun _ => rfl
theorem execOmLatch_answers {a : BitVec 7} {w : BitVec 3} : AnswersIssuer (execOmLatch a w) := by
  refine runIsa_answers fun s i g => ?_
  simp
@[simp] theorem modCam_agenda (s : State) (i : Nat) (f : CamStream → CamStream) :
    (s.modCam i f).agenda = s.agenda := (rfl)
theorem execCameraStreamWrite_answers {i v fw : Nat} : Answers (execCameraStreamWrite i v fw) := by
  refine .of_next (fun _ => rfl) fun s => ?_
  dsimp only
  (repeat' split) <;> grind [guarded_agenda, onHub_agenda, modCam_agenda]
theorem camWrite_agenda {s t : State} {owner gpa : Nat} {b : List Byte} (h : s.camWrite owner gpa b = some t) :
    t.agenda = s.agenda := by
  have h1 := (Option.ite_none_left_eq_some.mp h).2
  split at h1
  · cases h1; rfl
  · cases h1
    exact if_agenda (homeWrite_agenda ..) (foldl_agenda (fun _ _ => homeWrite_agenda ..) _ _)
@[simp] theorem camStart_agenda (s : State) (i : Nat) : (s.camStart i).agenda = s.agenda := by
  unfold State.camStart
  grind [camWrite_agenda, modCam_agenda]
theorem execCameraFrameStart_answers {ch : CamChannel} : Answers (execCameraFrameStart ch) := by
  refine .of_next (fun _ => rfl) fun s => ?_
  simp
@[simp] theorem camLine_agenda (s : State) (n v crc i : Nat) : (s.camLine n v crc i).agenda = s.agenda := by
  unfold State.camLine
  grind [modCam_agenda, camWrite_agenda]
theorem execCameraLine_answers {pk : CamPacket} {n v crc : Nat} : Answers (execCameraLine pk n v crc) := by
  refine .of_next (fun _ => rfl) fun s => ?_
  simp
@[simp] theorem camRecord_agenda (s : State) (c : CamStream) (t lines flags : Nat) :
    (s.camRecord c t lines flags).2.agenda = s.agenda := (rfl)
@[simp] theorem camEnd_agenda (s : State) (i : Nat) : (s.camEnd i).agenda = s.agenda := by
  unfold State.camEnd
  grind [modCam_agenda, camRecord_agenda, camWrite_agenda, setSem_agenda, raise_agenda]
theorem execCameraFrameEnd_answers {ch : CamChannel} : Answers (execCameraFrameEnd ch) := by
  refine .of_next (fun _ => rfl) fun s => ?_
  simp
theorem execCameraTxFrame_answers {port : Nat} : Answers (execCameraTxFrame port) :=
  .of_next (fun _ => rfl) fun _ => if_agenda rfl rfl

/-! ### Sparing, seams and self-tests -/

theorem execDevqEnable_answers {v fw : Nat} : Answers (execDevqEnable v fw) :=
  .of_next (fun _ => rfl) fun _ => guarded_agenda fun _ => onHub_agenda fun _ => withHub_agenda ..
@[simp] theorem spareRecord_agenda (s : State) (kind old new sub lane : Nat) :
    (s.spareRecord kind old new sub lane).agenda = s.agenda := by simp [State.spareRecord]
@[simp] theorem spareEnd_agenda (s : State) (r : Nat) : (s.spareEnd r).agenda = s.agenda := (rfl)
theorem spareWrite_agenda {s : State} {fw op v : Nat} {run : Nat → State → State}
    (hr : ∀ v t, (run v t).agenda = t.agenda) : (s.spareWrite fw op v run).agenda = s.agenda :=
  guarded_agenda fun _ => if_agenda rfl (if_agenda rfl (if_agenda (spareEnd_agenda ..) (hr ..)))
theorem execSpareLane_answers {v fw : Nat} : Answers (execSpareLane v fw) := by
  refine .of_next (fun _ => rfl) fun s => ?_
  grind [spareWrite_agenda, spareEnd_agenda]
theorem execSpareCell_answers {v fw : Nat} : Answers (execSpareCell v fw) := by
  refine .of_next (fun _ => rfl) fun s => ?_
  grind [spareWrite_agenda, spareEnd_agenda]
theorem execSpareWay_answers {v fw : Nat} : Answers (execSpareWay v fw) := by
  refine .of_next (fun _ => rfl) fun s => ?_
  grind [spareWrite_agenda, spareEnd_agenda]
theorem execSpareChannel_answers {v fw : Nat} : Answers (execSpareChannel v fw) := by
  refine .of_next (fun _ => rfl) fun _ => spareWrite_agenda fun v s => if_agenda ?_ ?_
  · simp
  · simp
theorem execChannelMigrationComplete_answers : Answers execChannelMigrationComplete := by
  refine .of_next (fun _ => rfl) fun s => ?_
  split <;> simp
theorem execUnfence_answers {v fw : Nat} : Answers (execUnfence v fw) := by
  refine .of_next (fun _ => rfl) fun s => ?_
  grind [spareWrite_agenda, spareEnd_agenda]
@[simp] theorem retireCell_agenda (s : State) (phys : Nat) :
    (s.retireCell phys).agenda = s.agenda := by simp [State.retireCell]
@[simp] theorem fence_agenda (s : State) (c q : Nat) : (s.fence c q).agenda = s.agenda := by simp [State.fence]
@[simp] theorem spareRun_agenda (s : State) (v fail : Nat) : (s.spareRun v fail).2.agenda = s.agenda := by
  unfold State.spareRun
  dsimp only
  (repeat' split) <;> simp
theorem execSpareCmdComplete_answers {fail : Nat} : Answers (execSpareCmdComplete fail) := by
  refine .of_next (fun _ => rfl) fun s => ?_
  split <;> simp
@[simp] theorem modSeam_agenda (s : State) (n : Nat) (f : Seam → Seam) : (s.modSeam n f).agenda = s.agenda := (rfl)
theorem execSeamFlitReplay_answers {n : Nat} : Answers (execSeamFlitReplay n) :=
  .of_next (fun _ => rfl) fun _ => rfl
theorem execSeamStatusClear_answers {n v same : Nat} : Answers (execSeamStatusClear n v same) :=
  .of_next (fun _ => rfl) fun _ => rfl
@[simp] theorem laneFail_agenda (s : State) (n lane : Nat) : (s.laneFail n lane).agenda = s.agenda := by
  unfold State.laneFail
  split <;> simp
theorem execSeamLaneFail_answers {n lane : Nat} : Answers (execSeamLaneFail n lane) := by
  refine .of_next (fun _ => rfl) fun s => ?_
  simp
theorem execSeamEyeCheck_answers {n lane fail : Nat} : Answers (execSeamEyeCheck n lane fail) := by
  refine .of_next (fun _ => rfl) fun s => ?_
  simp
@[simp] theorem threshRecord_agenda (s : State) (src unit cell n : Nat) :
    (s.threshRecord src unit cell n).agenda = s.agenda := by simp [State.threshRecord]
theorem execCorrectedError_answers {p : ErrPlace} : Answers (execCorrectedError p) := by
  refine .of_next (fun _ => rfl) fun s => ?_
  split <;> simp
theorem execAgeSample_answers {phys m reading : Nat} : Answers (execAgeSample phys m reading) := by
  refine .of_next (fun _ => rfl) fun s => ?_
  dsimp only
  (repeat' split) <;> simp
theorem execBeadSelfTestStart_answers {c q : Nat} : Answers (execBeadSelfTestStart c q) := by
  refine .of_next (fun _ => rfl) fun s => ?_
  simp
theorem execBeadSelfTestEnd_answers {c q fail : Nat} : Answers (execBeadSelfTestEnd c q fail) := by
  refine .of_next (fun _ => rfl) fun s => ?_
  simp
theorem execBeadSelfTestOverdue_answers {c q : Nat} : Answers (execBeadSelfTestOverdue c q) := by
  refine .of_next (fun _ => rfl) fun s => ?_
  simp

/-! ### The host's functions and the management bus -/

@[simp] theorem modFn_agenda (s : State) (f : Nat) (g : HostFn → HostFn) : (s.modFn f g).agenda = s.agenda := (rfl)
@[simp] theorem postResult_agenda (s : State) (f cls r : Nat) : (s.postResult f cls r).agenda = s.agenda := (rfl)
@[simp] theorem postReject_agenda (s : State) (f cls : Nat) (why : List Nat) :
    (s.postReject f cls why).agenda = s.agenda := by simp [State.postReject]
@[simp] theorem resyncTake_agenda (s : State) (f : Nat) : (s.resyncTake f).2.agenda = s.agenda := (rfl)
@[simp] theorem resyncDone_agenda (s : State) (f cls r : Nat) : (s.resyncDone f cls r).agenda = s.agenda := (rfl)
@[simp] theorem postRoot_agenda (s : State) (f cls w : Nat) :
    (s.postRoot f cls w).agenda = s.agenda := by simp [State.postRoot]
@[simp] theorem resyncMemory_agenda (s : State) (f cls w : Nat) : (s.resyncMemory f cls w).agenda = s.agenda := by
  unfold State.resyncMemory
  dsimp only
  (repeat' split) <;> grind [postReject_agenda, resyncTake_agenda, modFn_agenda, resyncDone_agenda, writeVa_agenda]
@[simp] theorem resyncWindow_agenda (s : State) (f cls : Nat) : (s.resyncWindow f cls).agenda = s.agenda := by
  unfold State.resyncWindow
  simp
@[simp] theorem postCmd_agenda (s : State) (f cls w : Nat) : (s.postCmd f cls w).agenda = s.agenda := by
  unfold State.postCmd
  split <;> simp
@[simp] theorem postHigh_agenda (s : State) (f cls v : Nat) :
    (s.postHigh f cls v).agenda = s.agenda := by simp [State.postHigh]
@[simp] theorem postWrite_agenda (s : State) (f cls half v : Nat) :
    (s.postWrite f cls half v).agenda = s.agenda := by simp [State.postWrite]
theorem execPostRootRegion_answers {f cls half v : Nat} : Answers (execPostRootRegion f cls half v) := by
  refine .of_next (fun _ => rfl) fun s => ?_
  simp
theorem execPostLowHalfWrite_answers {f cls v : Nat} : Answers (execPostLowHalfWrite f cls v) := by
  refine .of_next (fun _ => rfl) fun s => ?_
  simp
theorem execResyncToMemory_answers {f cls half v : Nat} : Answers (execResyncToMemory f cls half v) := by
  refine .of_next (fun _ => rfl) fun s => ?_
  simp
theorem execResyncToWindow_answers {f cls half v : Nat} : Answers (execResyncToWindow f cls half v) := by
  refine .of_next (fun _ => rfl) fun s => ?_
  simp
theorem execFaultClear_answers {v fw same : Nat} : Answers (execFaultClear v fw same) :=
  .of_next (fun _ => rfl) fun _ => guarded_agenda fun _ => rfl
theorem execArmWrite_answers {v fw : Nat} : Answers (execArmWrite v fw) :=
  .of_next (fun _ => rfl) fun _ => guarded_agenda fun _ => rfl
@[simp] theorem ibiTaken_agenda (s : State) : (s.ibiTaken).agenda = s.agenda := by simp [State.ibiTaken]
@[simp] theorem i3cAnswer_agenda (s : State) (b : List Byte) :
    (s.i3cAnswer b).agenda = s.agenda := by simp [State.i3cAnswer]
@[simp] theorem i3cIgnored_agenda (s : State) : (s.i3cIgnored).agenda = s.agenda := by simp [State.i3cIgnored]
theorem execI3cResync_answers : Answers execI3cResync := by
  refine .of_next (fun _ => rfl) fun s => ?_
  simp
theorem execI3cStatus_answers : Answers execI3cStatus := by
  refine .of_next (fun _ => rfl) fun s => ?_
  simp
theorem execI3cFaultClear_answers {same : Nat} : Answers (execI3cFaultClear same) := by
  refine .of_next (fun _ => rfl) fun s => ?_
  simp
theorem execForceUndercoat_answers {mask : Nat} : Answers (execForceUndercoat mask) := by
  refine .of_next (fun _ => rfl) fun s => ?_
  simp
theorem execReleaseUndercoat_answers {mask : Nat} : Answers (execReleaseUndercoat mask) := by
  refine .of_next (fun _ => rfl) fun s => ?_
  simp
theorem execI3cHoldup_answers : Answers execI3cHoldup := by
  refine .of_next (fun _ => rfl) fun s => ?_
  simp
theorem execI3cUnknownCommand_answers : Answers execI3cUnknownCommand := by
  refine .of_next (fun _ => rfl) fun s => ?_
  simp
theorem execI3cPrivateRead_answers : Answers execI3cPrivateRead := by
  refine .of_next (fun _ => rfl) fun s => ?_
  simp

end Sys2Proof.Machine
end

section
/-! PROOFS. The registers that the host and the firmware write, what comes of the part's own accord, and the float forms;
then each instruction's and each step's answer, together (07 R194; 12 R324). -/
namespace Sys2Proof.Machine
open Sys2Proof

/-! ### Registers -/

/-- A write of the register keeps the agenda. -/
def Reg.Keeps (r : Reg) : Prop := ∀ v s, (r.write v s).agenda = s.agenda
/-- The register that stands at an offset, where one does, keeps the agenda. -/
def RegKeeps (o : Option Reg) : Prop := ∀ r, o = some r → r.Keeps

theorem RegKeeps.none : RegKeeps .none := nofun
theorem RegKeeps.some {r : Reg} (h : r.Keeps) : RegKeeps (some r) := by
  rintro _ ⟨⟩
  exact h
theorem RegKeeps.ite {c : Prop} [Decidable c] {o q : Option Reg} (ho : RegKeeps o) (hq : RegKeeps q) :
    RegKeeps (if c then o else q) := by split <;> assumption
theorem RegKeeps.orElse {o : Option Reg} {f : Unit → Option Reg} (ho : RegKeeps o) (hf : RegKeeps (f ())) :
    RegKeeps (o.orElse f) := by
  cases o with
  | none => exact hf
  | some r => exact ho
theorem Reg.Keeps.ro {w : Nat} {r : State → Nat} : (Reg.ro w r).Keeps := fun _ _ => rfl
theorem Reg.Keeps.hub {w : Nat} {r : Hub → Nat} {f : Nat → Hub → Hub} : (Reg.hub w r f).Keeps := fun _ _ => rfl
theorem after_agenda {s : State} {o : State → Host.Outcome State Fault Refusal} (h : Answers o) :
    (s.after o).agenda = s.agenda := by
  obtain ⟨t, ht, ha⟩ := h s
  unfold State.after
  rw [ht]
  exact ha
@[simp] theorem msixWrite_agenda (s : State) (f o v : Nat) :
    (s.msixWrite f o v).agenda = s.agenda := by simp [State.msixWrite]
theorem hostReg_keeps (f off : Nat) : RegKeeps (hostReg f off) :=
  .ite (.some .ro) <| .ite (.some .ro) <| .ite (.some .ro) <|
    .ite (.some .ro) .none
theorem powerReg_keeps (off : Nat) : RegKeeps (powerReg off) :=
  .ite (.some fun _ _ => powerWrite_agenda ..) <| .ite (.some .hub) <| .ite (.some .ro) <|
  .ite (.some .hub) <| .ite (.some fun _ _ => after_agenda execClampRelease_answers) <|
  .ite (.some .hub) <| .ite (.some fun _ _ => after_agenda execArmWrite_answers) <|
  .ite (.some .hub) <| .ite (.some .hub) <| .ite (.some fun _ _ => rfl) <|
  .ite (.some .ro) <| .ite (.some fun _ _ => after_agenda execBootGo_answers) .none
theorem seamReg_keeps (off : Nat) : RegKeeps (seamReg off) := .ite (.some .hub) .none
@[simp] theorem partCmdWrite_agenda (s : State) (v : Nat) : (s.partCmdWrite v).agenda = s.agenda := by
  unfold State.partCmdWrite
  split
  · exact after_agenda execPartCommit_answers
  · exact after_agenda execPartGrow_answers
  · exact after_agenda execPartShrink_answers
  · exact after_agenda execPartCancel_answers
  · exact after_agenda execRungReset_answers
  · exact after_agenda execInvCtx_answers
  · exact partWrite_agenda fun _ _ => partEnd_agenda ..
theorem partReg_keeps (off : Nat) : RegKeeps (partReg off) :=
  .ite (.some .hub) <| .ite (.some .hub) <| .ite (.some fun _ _ => partCmdWrite_agenda ..) <|
  .ite (.some .hub) <| .ite (.some .ro) <| .ite (.some .ro) <|
  .ite (.some .hub) <| .ite (.some fun _ _ => after_agenda execClassWaysWrite_answers) <|
  .ite (.some fun _ _ => after_agenda execClassBwWrite_answers) <| .ite (.some .ro) .none
theorem pipeReg_keeps (n o : Nat) : RegKeeps (pipeReg n o) := by
  unfold pipeReg
  dsimp only
  split
  · exact .some fun _ s => pipeWrite_agenda (s.free).2 ..
  iterate 9 · exact .some fun _ _ => rfl
  · exact .none
theorem camReg_keeps (i o : Nat) : RegKeeps (camReg i o) := by
  unfold camReg
  dsimp only
  split
  · exact .some fun _ _ => after_agenda execCameraStreamWrite_answers
  iterate 5 · exact .some fun _ _ => rfl
  · exact .none
theorem displayReg_keeps (off : Nat) : RegKeeps (displayReg off) :=
  .ite (.some .hub) <| .ite (.some .hub) <| .ite (.some .hub) <|
  .ite (.some .ro) <| .ite (.some fun _ _ => after_agenda execLatchWrite_answers) <|
  .ite (.some .ro) <| .ite (.some .ro) <|
  .ite (.some fun _ _ => after_agenda execReadmit_answers) <| .ite (.some .hub) <|
  .ite (.some fun _ _ => after_agenda execTelltaleLoad_answers) <| .ite (pipeReg_keeps _ _) <|
  .ite (camReg_keeps _ _) .none
@[simp] theorem spareCmdWrite_agenda (s : State) (v : Nat) : (s.spareCmdWrite v).agenda = s.agenda := by
  unfold State.spareCmdWrite
  split
  · exact after_agenda execSpareLane_answers
  · exact after_agenda execSpareCell_answers
  · exact after_agenda execSpareChannel_answers
  · exact after_agenda execSpareWay_answers
  · exact after_agenda execUnfence_answers
  · exact spareWrite_agenda fun _ _ => spareEnd_agenda ..
theorem reliabReg_keeps (off : Nat) : RegKeeps (reliabReg off) :=
  .ite (.some .hub) <| .ite (.some .hub) <| .ite (.some .ro) <|
  .ite (.some fun _ _ => spareCmdWrite_agenda ..) <| .ite (.some .hub) <| .ite (.some .ro) <|
  .ite (.some .ro) <| .ite (.some .hub) <| .ite (.some .hub) <|
  .ite (.some .ro) <| .ite (.some .hub) <| .ite (.some .ro) <|
  .ite (.some .hub) <| .ite (.some fun _ _ => keepWrite_agenda ..) .none
theorem msixReg_keeps (f off : Nat) : RegKeeps (msixReg f off) :=
  .ite (.some fun _ _ => msixWrite_agenda ..) <| .ite (.some .ro) .none
theorem regAt_keeps (f off : Nat) : RegKeeps (regAt f off) :=
  ((hostReg_keeps f off).orElse (msixReg_keeps f off)).orElse <| .ite .none <|
    ((((powerReg_keeps off).orElse (seamReg_keeps off)).orElse (partReg_keeps off)).orElse (displayReg_keeps off)).orElse
      (reliabReg_keeps off)
theorem wordAt_keeps {f off : Nat} {x : Reg × Bool} (h : wordAt f off = some x) : x.1.Keeps := by
  unfold wordAt at h
  split at h
  · next hr => cases h; exact regAt_keeps f off _ hr
  · have h1 := (Option.ite_none_left_eq_some.mp h).2
    split at h1
    · next hr =>
      obtain ⟨_, hx⟩ := Option.ite_none_right_eq_some.mp h1
      cases hx
      exact regAt_keeps f (off - 4) _ hr
    · cases h1
@[simp] theorem regWrite32_agenda (s : State) (f off v : Nat) : (s.regWrite32 f off v).agenda = s.agenda := by
  refine if_agenda (postHigh_agenda ..) (if_agenda (modFn_agenda ..) ?_)
  split
  · next h => exact wordAt_keeps h ..
  · rfl
@[simp] theorem regWrite_agenda (s : State) (f off n v : Nat) : (s.regWrite f off n v).agenda = s.agenda := by
  refine if_agenda (if_agenda (postCmd_agenda ..) ?_) (regWrite32_agenda ..)
  split
  · next h => exact if_agenda (wordAt_keeps h ..) ((regWrite32_agenda ..).trans (wordAt_keeps h ..))
  · simp
theorem execRegisterWrite_answers {f off n v fw : Nat} : Answers (execRegisterWrite f off n v fw) :=
  .of_next (fun _ => rfl) fun _ => if_agenda rfl <| if_agenda (if_agenda rfl rfl) <| if_agenda (deny_agenda _) <|
    if_agenda rfl (regWrite_agenda ..)

/-! ### Between the steps -/

@[simp] theorem tickSkid_agenda (s : State) (i : Nat) : (s.tickSkid i).agenda = s.agenda := by
  unfold State.tickSkid
  dsimp only
  (repeat' split) <;> simp
@[simp] theorem stopHere_agenda (s : State) (i : Nat) (f : FaultInfo) :
    (s.stopHere i f).agenda = s.agenda := by simp [State.stopHere]
@[simp] theorem chargeIssue_agenda (s : State) (g : Group) : (s.chargeIssue g).agenda = s.agenda := (rfl)
@[simp] theorem grantRequest_agenda (s : State) (u k : Nat) : (s.grantRequest u k).agenda = s.agenda := by
  unfold State.grantRequest
  split <;> simp
@[simp] theorem grantUnit_agenda (s : State) (u c : Nat) : (s.grantUnit u c).agenda = s.agenda := by
  unfold State.grantUnit
  split <;> simp
@[simp] theorem grantSlot_agenda (s : State) (ch k : Nat) : (s.grantSlot ch k).agenda = s.agenda := by
  unfold State.grantSlot
  split <;> simp
@[simp] theorem upsetHome_agenda (s : State) (pa : Nat) : (s.upsetHome pa).agenda = s.agenda := by
  unfold State.upsetHome
  split <;> simp
@[simp] theorem upset_agenda (s : State) : (s.upset).agenda = s.agenda := by
  unfold State.upset
  dsimp only
  (repeat' split) <;> simp
@[simp] theorem internal_agenda (s : State) (y : Choice) : (s.internal y).agenda = s.agenda := by
  unfold State.internal
  split <;> simp
@[simp] theorem choose_agenda (s : State) (y : List Choice) : (s.choose y).2.agenda = s.agenda := by
  unfold State.choose
  split <;> simp
@[simp] theorem next_agenda (s : State) : (s.next).2.agenda = s.agenda := by
  unfold State.next
  split <;> simp

/-! ### The float forms and the conversions (10; 14) -/

theorem fpEnd_keeps {a : List Instr} {s : State} (hs : s.agenda = a) (i : Nat) (g : Group) (fl : Nat → FFlags) :
    (fpEnd s i g fl).Keeps a := keeps_ite hs hs
theorem fpRun_answers {p : Info} {d : BitVec 7} {general : Bool} {srcs : Group → List (VVal × (Nat → Word))}
    {op : List Word → Word × FFlags} : AnswersIssuer (fpRun p d general srcs op) :=
  runIsa_answers fun _ _ _ => fpEnd_keeps rfl ..
theorem drawRun_answers {p : Info} {d : BitVec 7} {rm : Group → Nat} {n : Nat} {sat : Bool}
    {srcs : Group → List (VVal × (Nat → Word))} {op : Nat → List Nat → List Word → Word × FFlags} :
    AnswersIssuer (drawRun p d rm n sat srcs op) :=
  runIsa_answers fun _ _ _ => fpEnd_keeps rfl ..
theorem execCvt_answers {d a : BitVec 7} {el : BitVec 3} {sf : BitVec 4} {sat : BitVec 1} {rm : BitVec 2}
    {df : BitVec 4} : AnswersIssuer (execCvt d a el sf sat rm df) := by
  delta execCvt
  exact drawRun_answers
theorem execFrnd_answers {d a : BitVec 7} {p : BitVec 1} {m : BitVec 3} {lit : Word} : AnswersIssuer
    (execFrnd d a p m lit) := by
  delta execFrnd
  exact drawRun_answers
theorem packRun_answers {n p : Nat} {d a b : BitVec 7} {sat : BitVec 1} {rm : BitVec 2} {df : BitVec 4} : AnswersIssuer
    (packRun n p d a b sat rm df) := by
  delta packRun
  exact drawRun_answers
theorem unpackRun_answers {n e : Nat} {d a b : BitVec 7} {sc : BitVec 2} {sf : BitVec 4} : AnswersIssuer
    (unpackRun n e d a b sc sf) := by
  delta unpackRun
  exact fpRun_answers
theorem execQuantBlk_answers {d a b : BitVec 7} {blk sm : BitVec 1} {rm : BitVec 2} {tf : BitVec 4} :
    AnswersIssuer (execQuantBlk d a b blk sm rm tf) := runIsa_answers fun _ _ _ => fpEnd_keeps rfl ..
theorem reduceF_answers {f : List Word → Word × FFlags} {d a : BitVec 7} {lit : Word} :
    AnswersIssuer (reduceF f d a lit) :=
  runIsa_answers fun _ _ _ => fpEnd_keeps rfl ..
theorem execScanAddF32_answers {d a : BitVec 7} {lit : Word} : AnswersIssuer (execScanAddF32 d a lit) :=
  runIsa_answers fun _ _ _ => fpEnd_keeps rfl ..
theorem derivative_answers {h g' : Nat → Nat} {d a : BitVec 7} {lit : Word} : AnswersIssuer (derivative h g' d a lit) :=
  runIsa_answers fun _ _ _ => fpEnd_keeps rfl ..
theorem execFcmp_answers {c k : BitVec 3} {a b : BitVec 7} {lit : Word} : AnswersIssuer (execFcmp c k a b lit) :=
  runIsa_answers fun _ _ _ => fpEnd_keeps rfl ..

/-! ### Each instruction and each step -/

/-- The meaning answers, where a group issues if it is one of an instruction. -/
def AnswersAs (code : Bool) (f : State → Host.Outcome State Fault Refusal) : Prop :=
  match code with
  | true => AnswersIssuer f
  | false => Answers f

/-- Every instruction answers where a group issues it, and every step of the part answers, with the agenda as it was. -/
theorem exec_answers : ∀ ins : Instr, AnswersAs ins.isCode (exec ins)
  | .porReset _ _ _ => execPorReset_answers
  | .perstReset _ => execPerstReset_answers
  | .sysclkFault => execSysclkFault_answers
  | .sysclkReturn => execSysclkReturn_answers
  | .dclkFault => execDclkFault_answers
  | .lockstepMismatch => execLockstepMismatch_answers
  | .thermtrip => execThermtrip_answers
  | .supplyLoss _ => execSupplyLoss_answers
  | .handlerBudgetExpiry _ => execHandlerBudgetExpiry_answers
  | .holdupSaveComplete => execHoldupSaveComplete_answers
  | .reserveCharged => execReserveCharged_answers
  | .bootGo _ => execBootGo_answers
  | .firmwareImageCheck _ _ _ _ _ => execFirmwareImageCheck_answers
  | .postRootRegion _ _ _ _ => execPostRootRegion_answers
  | .postLowHalfWrite _ _ _ => execPostLowHalfWrite_answers
  | .resyncToMemory _ _ _ _ => execResyncToMemory_answers
  | .resyncToWindow _ _ _ _ => execResyncToWindow_answers
  | .powerCmdCell _ => execPowerCmdCell_answers
  | .powerCmdPane _ => execPowerCmdPane_answers
  | .powerCmdDevice _ => execPowerCmdDevice_answers
  | .dHold _ => execDHold_answers
  | .powerCmdComplete _ => execPowerCmdComplete_answers
  | .clampTrigger _ _ _ => execClampTrigger_answers
  | .clampStep _ => execClampStep_answers
  | .clampRelease _ _ _ => execClampRelease_answers
  | .faultClear _ _ _ => execFaultClear_answers
  | .armWrite _ _ => execArmWrite_answers
  | .seamStatusClear _ _ _ => execSeamStatusClear_answers
  | .registerWrite _ _ _ _ _ => execRegisterWrite_answers
  | .i3cResync => execI3cResync_answers
  | .i3cStatus => execI3cStatus_answers
  | .i3cFaultClear _ => execI3cFaultClear_answers
  | .forceUndercoat _ => execForceUndercoat_answers
  | .releaseUndercoat _ => execReleaseUndercoat_answers
  | .i3cHoldup => execI3cHoldup_answers
  | .i3cUnknownCommand => execI3cUnknownCommand_answers
  | .i3cPrivateRead => execI3cPrivateRead_answers
  | .vfConfigRequest _ _ _ _ => execVfConfigRequest_answers
  | .apertureRequest _ _ _ _ _ => execApertureRequest_answers
  | .functionLevelReset _ => execFunctionLevelReset_answers
  | .partCommit _ _ => execPartCommit_answers
  | .partGrow _ _ => execPartGrow_answers
  | .partShrink _ _ => execPartShrink_answers
  | .shrinkComplete _ => execShrinkComplete_answers
  | .deferredLaunchEviction _ => execDeferredLaunchEviction_answers
  | .partCancel _ _ => execPartCancel_answers
  | .rungReset _ _ => execRungReset_answers
  | .invCtx _ _ => execInvCtx_answers
  | .rungTimeout _ => execRungTimeout_answers
  | .rungComplete _ => execRungComplete_answers
  | .classWaysWrite _ _ _ => execClassWaysWrite_answers
  | .classBwWrite _ _ _ => execClassBwWrite_answers
  | .pipeEnable _ _ _ _ => execPipeEnable_answers
  | .pipeDisable _ _ _ => execPipeDisable_answers
  | .layerTableCommit _ _ _ _ => execLayerTableCommit_answers
  | .layerCommitTake _ => execLayerCommitTake_answers
  | .coatSign _ => execCoatSign_answers
  | .frameDecision _ => execFrameDecision_answers
  | .scanoutTileCheck _ _ _ => execScanoutTileCheck_answers
  | .paneSelfTestStart _ => execPaneSelfTestStart_answers
  | .paneSelfTestEnd _ _ => execPaneSelfTestEnd_answers
  | .readmit _ _ => execReadmit_answers
  | .telltaleLoad _ _ => execTelltaleLoad_answers
  | .telltaleCopyComplete => execTelltaleCopyComplete_answers
  | .latchWrite _ _ _ => execLatchWrite_answers
  | .hudLatchTake => execHudLatchTake_answers
  | .cameraStreamWrite _ _ _ => execCameraStreamWrite_answers
  | .cameraFrameStart _ => execCameraFrameStart_answers
  | .cameraLine _ _ _ _ => execCameraLine_answers
  | .cameraFrameEnd _ => execCameraFrameEnd_answers
  | .cameraTxFrame _ => execCameraTxFrame_answers
  | .devqEnable _ _ => execDevqEnable_answers
  | .spareLane _ _ => execSpareLane_answers
  | .spareCell _ _ => execSpareCell_answers
  | .spareWay _ _ => execSpareWay_answers
  | .spareChannel _ _ => execSpareChannel_answers
  | .unfence _ _ => execUnfence_answers
  | .spareCmdComplete _ => execSpareCmdComplete_answers
  | .channelMigrationComplete => execChannelMigrationComplete_answers
  | .seamFlitReplay _ => execSeamFlitReplay_answers
  | .seamEyeCheck _ _ _ => execSeamEyeCheck_answers
  | .seamLaneFail _ _ => execSeamLaneFail_answers
  | .correctedError _ => execCorrectedError_answers
  | .ageSample _ _ _ => execAgeSample_answers
  | .beadSelfTestStart _ _ => execBeadSelfTestStart_answers
  | .beadSelfTestEnd _ _ _ => execBeadSelfTestEnd_answers
  | .beadSelfTestOverdue _ _ => execBeadSelfTestOverdue_answers
  | .keepDir _ _ => execKeepDir_answers
  | .keepData _ _ => execKeepData_answers
  | .keepErase _ _ => execKeepErase_answers
  | .keepCmdComplete => execKeepCmdComplete_answers
  | .rollback _ => execRollback_answers
  | .postTake _ _ => execPostTake_answers
  | .blockPlace _ => execBlockPlace_answers
  | .arbitration _ _ => execArbitration_answers
  | .groupWake _ => execGroupWake_answers
  | .sliceEnd _ _ => execSliceEnd_answers
  | .blockEvict _ => execBlockEvict_answers
  | .regionComplete _ => execRegionComplete_answers
  | .resultLanding _ _ => execResultLanding_answers
  | .groupSlotRelease _ => execGroupSlotRelease_answers
  | .trackerEntryFree _ => execTrackerEntryFree_answers
  | .contResultWrite _ => execContResultWrite_answers
  | .regroupRelaunch _ => execRegroupRelaunch_answers
  | .watchdogExpiry _ => execWatchdogExpiry_answers
  | .gateBudgetExpiry _ => execGateBudgetExpiry_answers
  | .sleepExpiry _ => execSleepExpiry_answers
  | .lineFillReturn _ => execLineFillReturn_answers
  | .releaseDrainComplete _ => execReleaseDrainComplete_answers
  | .tlbWalkComplete _ _ _ _ => execTlbWalkComplete_answers
  | .atomicPerform _ => execAtomicPerform_answers
  | .atomReply _ => execAtomReply_answers
  | .hodOpComplete _ _ _ => execHodOpComplete_answers
  | .msgDeliver _ => execMsgDeliver_answers
  | .monitorMatch _ => execMonitorMatch_answers
  | .monitorPoll _ => execMonitorPoll_answers
  | .kstep _ => execKstep_answers
  | .matrixOpComplete _ => execMatrixOpComplete_answers
  | .texComplete _ => execTexComplete_answers
  | .traceComplete _ => execTraceComplete_answers
  | .forcedRender _ => execForcedRender_answers
  | .ticketDone _ _ => execTicketDone_answers
  | .tileFlush _ _ => execTileFlush_answers
  | .tileStore _ _ => execTileStore_answers
  | .nop => own_answers
  | .exit => execExit_answers
  | .tail => execTail_answers
  | .trap _ => execTrap_answers
  | .brk _ => execBrk_answers
  | .resume => execResume_answers
  | .sread _ _ => execSread_answers
  | .swrite _ _ => execSwrite_answers
  | .sleepUntil _ => execSleepUntil_answers
  | .sleepCyc _ => execSleepCyc_answers
  | .yield => execYield_answers
  | .pfailDone => execPfailDone_answers
  | .ifKElse _ _ => ctlRun_answers
  | .ifNkElse _ _ => ctlRun_answers
  | .ifSElse _ _ => ctlRun_answers
  | .ifNsElse _ _ => ctlRun_answers
  | .ifK _ _ => ctlRun_answers
  | .ifNk _ _ => ctlRun_answers
  | .ifS _ _ => ctlRun_answers
  | .ifNs _ _ => ctlRun_answers
  | .elseArm _ => ctlRun_answers
  | .endif => ctlRun_answers
  | .loop _ => ctlRun_answers
  | .endloop => ctlRun_answers
  | .breakK _ => ctlRun_answers
  | .breakS _ => ctlRun_answers
  | .continueK _ => ctlRun_answers
  | .continueS _ => ctlRun_answers
  | .call _ => ctlRun_answers
  | .ret => ctlRun_answers
  | .gate _ => execGate_answers
  | .gret => execGret_answers
  | .bar => execBar_answers
  | .barArrive => execBarArrive_answers
  | .barDrop => execBarDrop_answers
  | .barWait => execBarWait_answers
  | .bobjInit _ _ _ => execBobjInit_answers
  | .bobjJoin _ => execBobjJoin_answers
  | .bobjLeave _ => execBobjLeave_answers
  | .bobjArrive _ _ _ => execBobjArrive_answers
  | .bobjExpect _ _ => execBobjExpect_answers
  | .bobjWait _ _ => execBobjWait_answers
  | .bobjTest _ _ => execBobjTest_answers
  | .waitCnt _ _ => execWaitCnt_answers
  | .fence _ _ => execFence_answers
  | .semSet _ _ => execSemSet_answers
  | .semAdd _ _ => semUpdate_answers
  | .semWaitge _ _ => execSemWaitge_answers
  | .semRead _ _ => execSemRead_answers
  | .waitc _ _ _ _ _ => execWaitc_answers
  | .monCancel => own_answers
  | .launch _ _ => execLaunch_answers
  | .regionJoin _ => execRegionJoin_answers
  | .msgSend _ _ => execMsgSend_answers
  | .msgRecv _ _ _ => msgTake_answers
  | .msgPoll _ _ _ => msgTake_answers
  | .msgFree _ _ => execMsgFree_answers
  | .primEmit _ _ => execPrimEmit_answers
  | .primEmitClose _ => execPrimEmitClose_answers
  | .tileGet _ _ => execTileGet_answers
  | .tileDone => execTileDone_answers
  | .tileAttr _ _ => execTileAttr_answers
  | .edge _ => execEdge_answers
  | .interp _ _ _ => execInterp_answers
  | .samplepos _ _ => execSamplepos_answers
  | .glzInsert _ _ _ => execGlzInsert_answers
  | .glzCount _ _ => execGlzCount_answers
  | .glzRead _ _ _ => execGlzRead_answers
  | .glzResolve _ _ _ => execGlzResolve_answers
  | .glzResolveClr _ _ _ => execGlzResolveClr_answers
  | .glzClear _ => execGlzClear_answers
  | .texSample _ _ _ _ _ _ _ => texRun_answers
  | .texLoad _ _ _ _ _ _ _ => texRun_answers
  | .texGather4 _ _ _ _ _ _ _ => texRun_answers
  | .texLod _ _ _ _ _ _ _ => texRun_answers
  | .texSampleC _ _ _ _ _ _ _ => texRun_answers
  | .texLoadC _ _ _ _ _ _ _ => texRun_answers
  | .texGather4C _ _ _ _ _ _ _ => texRun_answers
  | .texLodC _ _ _ _ _ _ _ => texRun_answers
  | .trace _ _ _ _ _ => traceRun_answers
  | .traceC _ _ _ _ _ => traceRun_answers
  | .hitReport _ _ => hitRun_answers
  | .hitAccept _ => execHitAccept_answers
  | .hitIgnore _ => execHitIgnore_answers
  | .contKey _ => execContKey_answers
  | .repack _ => execRepack_answers
  | .iadd _ _ _ _ => own_answers
  | .iaddSat _ _ _ _ => own_answers
  | .iaddSatU _ _ _ _ => own_answers
  | .isub _ _ _ _ => own_answers
  | .isubSat _ _ _ _ => own_answers
  | .isubSatU _ _ _ _ => own_answers
  | .ineg _ _ _ => own_answers
  | .iabs _ _ _ => own_answers
  | .iabsd _ _ _ _ => own_answers
  | .iabsdU _ _ _ _ => own_answers
  | .iaddCc _ _ _ _ _ => own_answers
  | .isubCc _ _ _ _ _ => own_answers
  | .imulLo _ _ _ _ => own_answers
  | .imulHi _ _ _ _ => own_answers
  | .imulHiU _ _ _ _ => own_answers
  | .imac _ _ _ _ => own_answers
  | .idot4 _ _ _ _ _ _ _ => own_answers
  | .and _ _ _ _ => own_answers
  | .or _ _ _ _ => own_answers
  | .xor _ _ _ _ => own_answers
  | .andn _ _ _ _ => own_answers
  | .not _ _ _ => own_answers
  | .shl _ _ _ _ => own_answers
  | .shr _ _ _ _ => own_answers
  | .sar _ _ _ _ => own_answers
  | .rotl _ _ _ _ => own_answers
  | .fshr _ _ _ _ => own_answers
  | .imin _ _ _ _ => own_answers
  | .iminU _ _ _ _ => own_answers
  | .imax _ _ _ _ => own_answers
  | .imaxU _ _ _ _ => own_answers
  | .icmp _ _ _ _ _ => own_answers
  | .popc _ _ _ => own_answers
  | .clz _ _ _ => own_answers
  | .brev _ _ _ => own_answers
  | .bfe _ _ _ _ => own_answers
  | .bfeS _ _ _ _ => own_answers
  | .bfi _ _ _ _ => own_answers
  | .iaddi _ _ _ => own_answers
  | .andi _ _ _ => own_answers
  | .ori _ _ _ => own_answers
  | .xori _ _ _ => own_answers
  | .shli _ _ _ => own_answers
  | .shri _ _ _ => own_answers
  | .sari _ _ _ => own_answers
  | .fadd _ _ _ _ _ _ => fpRun_answers
  | .fsub _ _ _ _ _ _ => fpRun_answers
  | .fmul _ _ _ _ _ _ => fpRun_answers
  | .fmin _ _ _ _ _ _ => fpRun_answers
  | .fmax _ _ _ _ _ _ => fpRun_answers
  | .fmac _ _ _ _ _ _ => fpRun_answers
  | .fma _ _ _ _ _ _ => fpRun_answers
  | .flerp _ _ _ _ _ _ => fpRun_answers
  | .fcmp _ _ _ _ _ => execFcmp_answers
  | .fclass _ _ _ => own_answers
  | .frcp _ _ _ _ => fpRun_answers
  | .frsq _ _ _ _ => fpRun_answers
  | .fsqrt _ _ _ _ => fpRun_answers
  | .fexp2 _ _ _ _ => fpRun_answers
  | .flog2 _ _ _ _ => fpRun_answers
  | .fsin _ _ _ _ => fpRun_answers
  | .fcos _ _ _ _ => fpRun_answers
  | .ftanh _ _ _ _ => fpRun_answers
  | .cvt _ _ _ _ _ _ _ => execCvt_answers
  | .frnd _ _ _ _ _ => execFrnd_answers
  | .cvtPk2 _ _ _ _ _ _ => packRun_answers
  | .cvtPk4 _ _ _ _ _ _ _ => packRun_answers
  | .cvtPk8 _ _ _ _ _ _ _ => packRun_answers
  | .cvtUnpk2 _ _ _ _ _ _ => unpackRun_answers
  | .cvtUnpk4 _ _ _ _ _ _ => unpackRun_answers
  | .cvtUnpk8 _ _ _ _ _ _ => unpackRun_answers
  | .quantBlk _ _ _ _ _ _ _ => execQuantBlk_answers
  | .cbkDec _ _ _ _ _ => execCbkDec_answers
  | .mov _ _ _ => own_answers
  | .sel _ _ _ _ => own_answers
  | .bcast _ _ _ => own_answers
  | .bcastFirst _ _ => own_answers
  | .ballot _ _ => own_answers
  | .shflIdx _ _ _ _ => own_answers
  | .shflUp _ _ _ => own_answers
  | .shflDn _ _ _ => own_answers
  | .shflXor _ _ _ => own_answers
  | .redAdd _ _ _ => own_answers
  | .redAddF32 _ _ _ => reduceF_answers
  | .redMin _ _ _ => own_answers
  | .redMinU _ _ _ => own_answers
  | .redMinF32 _ _ _ => reduceF_answers
  | .redMax _ _ _ => own_answers
  | .redMaxU _ _ _ => own_answers
  | .redMaxF32 _ _ _ => reduceF_answers
  | .scanAdd _ _ _ => own_answers
  | .scanAddEx _ _ _ => own_answers
  | .scanAddF32 _ _ _ => execScanAddF32_answers
  | .sadd _ _ _ => own_answers
  | .ssub _ _ _ => own_answers
  | .smul _ _ _ => own_answers
  | .smulh _ _ _ => own_answers
  | .sand _ _ _ => own_answers
  | .sor _ _ _ => own_answers
  | .sxor _ _ _ => own_answers
  | .sandn _ _ _ => own_answers
  | .sshl _ _ _ => own_answers
  | .sshr _ _ _ => own_answers
  | .ssar _ _ _ => own_answers
  | .srotl _ _ _ => own_answers
  | .scmpEq _ _ _ => own_answers
  | .scmpLt _ _ _ => own_answers
  | .scmpLtu _ _ _ => own_answers
  | .scmpLe _ _ _ => own_answers
  | .smovi _ _ => own_answers
  | .smovhi _ _ => own_answers
  | .saddi _ _ => own_answers
  | .scmpi _ _ _ _ => own_answers
  | .sadd64 _ _ _ => own_answers
  | .ssub64 _ _ _ => own_answers
  | .smul64 _ _ _ => own_answers
  | .sshl64 _ _ _ => own_answers
  | .smin _ _ _ => own_answers
  | .smax _ _ _ => own_answers
  | .spopc _ _ => own_answers
  | .sclz _ _ => own_answers
  | .vget _ _ _ => own_answers
  | .vset _ _ _ => own_answers
  | .ktos _ _ => own_answers
  | .stok _ _ => own_answers
  | .kand _ _ _ => own_answers
  | .kor _ _ _ => own_answers
  | .kxor _ _ _ => own_answers
  | .knot _ _ => own_answers
  | .kmov _ _ => own_answers
  | .ddx _ _ _ => derivative_answers
  | .ddxCoarse _ _ _ => derivative_answers
  | .ddy _ _ _ => derivative_answers
  | .ddyCoarse _ _ _ => derivative_answers
  | .qswap _ _ _ => own_answers
  | .tlbInv _ _ => execTlbInv_answers
  | .ixuLoad _ _ => execIxuLoad_answers
  | .ccFlush => execCcFlush_answers
  | .ccInval => execCcInval_answers
  | .bndSet _ => execBndSet_answers
  | .ldcU8 _ _ _ _ _ => ldcRun_answers
  | .ldcS8 _ _ _ _ _ => ldcRun_answers
  | .ldcU16 _ _ _ _ _ => ldcRun_answers
  | .ldcS16 _ _ _ _ _ => ldcRun_answers
  | .ldc _ _ _ _ _ => ldcRun_answers
  | .ldc64 _ _ _ _ _ => ldcRun_answers
  | .ldcBc _ _ _ _ _ => execLdcBc_answers
  | .ldcOrdered _ _ _ _ _ _ _ => ldcRun_answers
  | .stc8 _ _ _ _ _ => stcRun_answers
  | .stc16 _ _ _ _ _ => stcRun_answers
  | .stc _ _ _ _ _ => stcRun_answers
  | .stc64 _ _ _ _ _ => stcRun_answers
  | .stcOrdered _ _ _ _ _ _ _ => stcRun_answers
  | .ldp _ _ _ _ => execLdp_answers
  | .stp _ _ _ _ => execStp_answers
  | .gld _ _ _ _ _ => gldRun_answers
  | .gld64 _ _ _ _ _ => gldRun_answers
  | .gld128 _ _ _ _ _ => gldRun_answers
  | .gldOrdered _ _ _ _ _ _ _ => gldRun_answers
  | .gst _ _ _ _ _ => gstRun_answers
  | .gst64 _ _ _ _ _ => gstRun_answers
  | .gst128 _ _ _ _ _ => gstRun_answers
  | .gstOrdered _ _ _ _ _ _ _ => gstRun_answers
  | .latom _ _ _ _ _ _ _ _ => execLatom_answers
  | .atom _ _ _ _ _ _ _ _ => atomRun_answers
  | .ared _ _ _ _ _ _ _ => atomRun_answers
  | .aredRel _ _ _ _ _ _ _ => atomRun_answers
  | .rslotLd _ _ => rslotRun_answers
  | .rslotLd64 _ _ => rslotRun_answers
  | .rslotTest _ _ => own_answers
  | .hodCopy _ _ => hodRun_answers
  | .hodGather _ _ => hodRun_answers
  | .hodScatter _ _ => hodRun_answers
  | .hodFill _ _ => hodRun_answers
  | .hodSend _ _ => hodRun_answers
  | .hodReduce _ _ => hodRun_answers
  | .hodPrefetch _ _ => hodRun_answers
  | .ccPrefetch _ _ => execCcPrefetch_answers
  | .ccWb _ _ => execCcWb_answers
  | .ccDiscard _ _ => execCcDiscard_answers
  | .ringAcq _ _ => ringTake_answers
  | .ringCommit _ _ => ringGive_answers
  | .ringWait _ _ => ringTake_answers
  | .ringFree _ _ => ringGive_answers
  | .beadMode _ => execBeadMode_answers
  | .beadMma _ _ _ => mmaRun_answers
  | .beadMmaz _ _ _ => mmaRun_answers
  | .beadZero _ => execBeadZero_answers
  | .beadSync _ => execBeadSync_answers
  | .beadScale _ _ => execBeadScale_answers
  | .palReserve _ _ _ => execPalReserve_answers
  | .palFill _ _ _ => execPalFill_answers
  | .palFillk _ _ _ => execPalFillk_answers
  | .palRelease _ => execPalRelease_answers
  | .cbDrain _ _ _ => execCbDrain_answers
  | .cbLoad _ _ => execCbLoad_answers
  | .cbClear _ _ => execCbClear_answers
  | .omDepth _ _ _ _ => execOmDepth_answers
  | .omWrite _ _ _ => execOmWrite_answers
  | .omLoad _ _ => execOmLoad_answers
  | .omLatch _ _ => execOmLatch_answers
  | .dclkReturn => execDclkReturn_answers
  | .clampConditionClear => execClampConditionClear_answers
  | .pcieLinkStateChange _ _ _ _ => execPcieLinkStateChange_answers

end Sys2Proof.Machine
end

section
/-! PROOFS. The machine goes on (07 R194): what comes of its own accord is a step of the part, an instruction is run only
in the turn of a group that is there, and so a step answers, with steps of the part in the agenda again. -/
namespace Sys2Proof.Machine
open Sys2Proof

/-! ### What comes of the part's own accord (07 R194) -/

/-- A choice is a step of the part, where it is an event at all. -/
def Choice.OfPart : Choice → Prop
  | .event e => e.isCode = false
  | _ => True
/-- Every choice of a list is a step of the part. -/
def OfPart (l : List Choice) : Prop := ∀ c ∈ l, c.OfPart

theorem OfPart.nil : OfPart [] := fun _ h => nomatch h
theorem OfPart.cons {c : Choice} {l : List Choice} (hc : c.OfPart) (hl : OfPart l) : OfPart (c :: l) :=
  List.forall_mem_cons.mpr ⟨hc, hl⟩
theorem OfPart.one {c : Choice} (hc : c.OfPart) : OfPart [c] := .cons hc .nil
theorem OfPart.append {l k : List Choice} (hl : OfPart l) (hk : OfPart k) : OfPart (l ++ k) :=
  List.forall_mem_append.mpr ⟨hl, hk⟩
theorem OfPart.ite {c : Prop} [Decidable c] {l k : List Choice} (hl : OfPart l) (hk : OfPart k) :
    OfPart (if c then l else k) := by split <;> assumption
theorem OfPart.map {α : Type} {f : α → Choice} (h : ∀ a, (f a).OfPart) (l : List α) : OfPart (l.map f) :=
  List.forall_mem_map.mpr fun a _ => h a
theorem OfPart.evs {f : Nat → Instr} (h : ∀ n, (f n).isCode = false) (l : List Nat) : OfPart (evs l f) := .map h l
theorem OfPart.flatMap {α : Type} {f : α → List Choice} (h : ∀ a, OfPart (f a)) (l : List α) : OfPart (l.flatMap f) := by
  intro c hc
  obtain ⟨a, _, ha⟩ := List.mem_flatMap.mp hc
  exact h a c ha

theorem wakeChoices_ofPart (s : State) (i : Nat) : OfPart (s.wakeChoices i) := by
  unfold State.wakeChoices
  split
  · exact .one rfl
  · exact .cons rfl (.one rfl)
  · exact .cons rfl (.cons rfl (.one rfl))
  · exact .one rfl

theorem groupChoices_ofPart (s : State) (i : Nat) : OfPart (s.groupChoices i) := by
  refine .append (.append (.append (.append (.append (.ite (.one trivial) .nil) ?_) (.ite (.one rfl) .nil))
    (.ite .nil (.one rfl))) (.ite .nil (.cons rfl (.one rfl)))) (.evs (fun _ => rfl) _)
  split
  · exact .ite .nil (wakeChoices_ofPart s i)
  · exact .cons rfl (.one rfl)
  · exact .one rfl
  · exact .one rfl
  · exact .one rfl
  · exact .nil

theorem cellChoices_ofPart (s : State) (k c : Nat) : OfPart (s.cellChoices k c) := by
  unfold State.cellChoices
  split
  · exact .nil
  · refine .append (.append (.map (fun _ => ?_) _) (.ite .nil (.one rfl))) (.flatMap (fun _ => ?_) _)
    · rfl
    · exact .append (.evs (fun _ => rfl) _) (.ite (.one rfl) (.ite (.cons rfl (.one rfl)) .nil))

theorem passChoices_ofPart (k n : Nat) (p : Pass) : OfPart (State.passChoices k n p) :=
  .append (.append (.append (.one rfl) (.evs (fun _ => rfl) _)) (.ite (.evs (fun _ => rfl) _) .nil))
    (.ite (.one rfl) .nil)

theorem schedChoices_ofPart (s : State) : OfPart s.schedChoices :=
  .append (.append (.append (.append (.append (.flatMap (fun _ => .evs (fun _ => rfl) _) _)
    (.ite (.evs (fun _ => rfl) _) .nil)) (.evs (fun _ => rfl) _)) (.evs (fun _ => rfl) _)) (.evs (fun _ => rfl) _))
    (.flatMap (fun _ => .ite .nil (.evs (fun _ => rfl) _)) _)

theorem unitChoices_ofPart (s : State) (k : Nat) : OfPart (s.unitChoices k) := by
  have he {f : Nat → Instr} (h : ∀ n, (f n).isCode = false) {l : List Nat} : OfPart (evs l f) := .evs h l
  refine .append (.append (.append (.append (.append (.append (.append (.append (he fun _ => rfl) (he fun _ => rfl))
    (he fun _ => rfl)) (he fun _ => rfl)) (he fun _ => rfl)) (he fun _ => rfl)) (.flatMap (fun c => ?_) _))
    (.map (fun _ => ?_) _)) (.flatMap (fun _ => ?_) _)
  · intro x hx
    obtain ⟨u, _, hu⟩ := List.mem_filterMap.mp hx
    split at hu
    · cases hu
    · cases hu; trivial
  · trivial
  · exact passChoices_ofPart _ _ _

theorem walkChoices_ofPart (s : State) : OfPart s.walkChoices := by
  refine .flatMap (fun _ => ?_) _
  refine .map (fun _ => ?_) _
  rfl

theorem hub_choices_ofPart (h : Hub) (k : Nat) : OfPart (h.choices k) := by
  have he {f : Nat → Instr} (h : ∀ n, (f n).isCode = false) {l : List Nat} : OfPart (evs l f) := .evs h l
  refine .append (.append (.append (.append (.append (.append (.append (.append (.append (.append (.append (.append
    (.append (.append (.append ?_ ?_) ?_) ?_) ?_) ?_) ?_) ?_) ?_) ?_) ?_) ?_) ?_) ?_) ?_) ?_
  · exact .ite (.one trivial) .nil
  · exact .ite (.one trivial) .nil
  · exact .ite .nil (.one trivial)
  · exact .ite (.cons rfl (.one rfl)) .nil
  · exact he fun _ => rfl
  · exact he fun _ => rfl
  · exact he fun _ => rfl
  · exact he fun _ => rfl
  · exact he fun _ => rfl
  · exact he fun _ => rfl
  · exact he fun _ => rfl
  · exact .ite (.one rfl) .nil
  · exact .ite (.one rfl) .nil
  · exact .ite (.one rfl) .nil
  · exact .ite (.one rfl) .nil
  · split
    · exact .append (he fun _ => rfl) (.one rfl)
    · exact .nil

theorem choices_ofPart (s : State) (k : Nat) : OfPart (s.choices k) :=
  .append (.append (.ite (.append (.append (.append (.append (.flatMap (groupChoices_ofPart s) _)
    (.flatMap (cellChoices_ofPart s k) _)) (unitChoices_ofPart s k)) (walkChoices_ofPart s)) (schedChoices_ofPart s))
    .nil) (.ite .nil (.one trivial))) (hub_choices_ofPart s.hub k)

/-- What is chosen from a list stands in it. -/
theorem choose_mem {s t : State} {l : List Choice} {c : Choice} (h : s.choose l = (some c, t)) : c ∈ l := by
  unfold State.choose at h
  split at h
  · cases h
  · cases h; exact List.mem_singleton_self c
  · exact List.mem_of_getElem? (congrArg Prod.fst h)

/-- What happens next, where it is an event, is a step of the part. -/
theorem next_ofPart {s t : State} {c : Choice} (h : s.next = (some c, t)) : c.OfPart := by
  unfold State.next at h
  split at h
  · cases h; rfl
  · exact choices_ofPart _ _ c (choose_mem h)

theorem next_keeps_agenda (s : State) : s.next.2.agenda = s.agenda := by
  unfold State.next
  split
  · rfl
  · exact (choose_agenda ..).trans rfl

/-! ### Time passes, and a group issues (12 R313 to R318) -/

/-- What the starts of lines bring are steps of the part. -/
theorem tickEvents_ofPart (h : Hub) (agenda : List Instr) (f : Nat) : ∀ e ∈ h.tickEvents agenda f, e.isCode = false := by
  intro e he
  obtain ⟨n, _, hn⟩ := List.mem_flatMap.mp he
  split at hn
  · simp only [Hub.lineEvents, List.mem_append, List.mem_map] at hn
    obtain ((⟨_, _, rfl⟩ | hc) | hd) | hl := hn
    · rfl
    · split at hc <;> simp_all [Instr.isCode]
    · split at hd <;> simp_all [Instr.isCode]
    · split at hl <;> simp_all [Instr.isCode]
  · cases hn

theorem tick_agenda (s : State) : s.tick.agenda = s.hub.tickEvents s.agenda s.fresh ++ s.agenda :=
  foldl_agenda (fun _ _ => tickSkid_agenda ..) _ _

/-- The turn stands with the same group, which is there, and the agenda is as it was. -/
structure Standing (s t : State) : Prop where
  agenda : t.agenda = s.agenda
  turn : t.turn = s.turn
  length : t.groups.length = s.groups.length

namespace Standing
variable {s t u : State}

theorem refl (s : State) : Standing s s := ⟨rfl, rfl, rfl⟩
theorem trans (h : Standing s t) (k : Standing t u) : Standing s u :=
  ⟨k.agenda.trans h.agenda, k.turn.trans h.turn, k.length.trans h.length⟩
theorem modGroup (h : Standing s t) (i : Nat) (f : Group → Group) : Standing s (t.modGroup i f) :=
  h.trans ⟨rfl, rfl, List.length_set⟩
theorem free (h : Standing s t) : Standing s (t.free).2 := h.trans ⟨rfl, rfl, rfl⟩
theorem consume (h : Standing s t) (i : Nat) (p : Poison) (va pa : Nat) : Standing s (t.consume i p va pa) :=
  h.trans ⟨rfl, rfl, List.length_set⟩
theorem tlbUse (h : Standing s t) (cell quad c va : Nat) : Standing s (t.tlbUse cell quad c va) := by
  refine h.trans ?_
  unfold State.tlbUse
  dsimp only
  split
  · exact refl t
  · split
    · exact refl t
    · split
      · exact ⟨rfl, rfl, rfl⟩
      · split
        · exact refl t
        · exact ⟨rfl, rfl, rfl⟩

theorem useG (h : Standing s t) (g : Group) (va : Nat) : Standing s (t.useG g va) := h.tlbUse ..
theorem hubUse (h : Standing s t) (write : Bool) (pa n : Nat) : Standing s (t.hubUse write pa n) :=
  h.trans ⟨rfl, rfl, rfl⟩
theorem modQuad (h : Standing s t) (c q : Nat) (f : Quad → Quad) : Standing s (t.modQuad c q f) :=
  h.trans ⟨rfl, rfl, rfl⟩

/-- The fetch of a clause changes the translation buffer, the hub cache and the instruction cache (12 R326). -/
theorem fetchClause {g : Group} {c : Clause} (h : Standing s t) (hf : t.fetchClause g = .ok (c, u)) : Standing s u := by
  unfold State.fetchClause at hf
  dsimp only at hf
  split at hf
  · cases hf
  · cases hf
    exact ((h.useG g _).hubUse ..).free.modQuad ..

end Standing

/-- What a turn comes to keeps the agenda, and leaves an instruction's group its turn. -/
def Issue.Keeps (s : State) : Issue → Prop
  | .done t => t.agenda = s.agenda
  | .run _ t => Standing s t

theorem issueWord_keeps {s t : State} (h : Standing s t) (i : Nat) (c : Clause) : (t.issueWord i c).Keeps s := by
  have hstop : ∀ (u : State) (f : FaultInfo), u.agenda = s.agenda → (u.stopHere i f).agenda = s.agenda := fun u f hu =>
    (stopHere_agenda ..).trans hu
  unfold State.issueWord
  dsimp only
  split
  · exact hstop _ _ h.agenda
  · split
    · exact hstop _ _ h.agenda
    · have hs {p : Prop} [Decidable p] {m n : Nat} : Standing s (if p then (m, (t.free).2) else (n, t)).2 := by
        split
        · exact h.free
        · exact h
      split
      · exact hstop _ _ (h.consume ..).agenda
      · split
        · exact hstop _ _ hs.agenda
        · split
          · exact h.agenda
          · split
            · exact (hs.consume ..).modGroup ..
            · exact hs

theorem issueClause_keeps {s t : State} (h : Standing s t) (i : Nat) (c : Clause) : (t.issueClause i c).Keeps s := by
  unfold State.issueClause
  dsimp only
  split
  · exact issueWord_keeps h i c
  · split
    · refine (stopHere_agenda ..).trans ?_
      split
      · exact (h.consume ..).agenda
      · exact h.agenda
    · split
      · exact h.agenda
      · split
        · exact h.agenda
        · exact issueWord_keeps (h.modGroup ..) i c

theorem issue_keeps (s : State) (i : Nat) : (s.issue i).Keeps s := by
  unfold State.issue
  dsimp only
  split
  · rfl
  · split
    · exact calleeReturn_agenda ..
    · split
      · rfl
      · split
        · rfl
        · split
          · exact issueClause_keeps ((Standing.refl s).modGroup ..) i _
          · split
            · exact (stopHere_agenda ..).trans rfl
            · next hf => exact issueClause_keeps ((((Standing.refl s).modGroup ..).fetchClause hf).modGroup ..) i _

/-- An instruction is issued for a group that is there. -/
theorem lt_of_issue_run {s t : State} {i : Nat} {ins : Instr} (h : s.issue i = .run ins t) : i < s.groups.length := by
  by_contra hge
  have hg : s.group i = Group.none := group_of_ge (Nat.le_of_not_lt hge)
  unfold State.issue at h
  rw [hg] at h
  cases h

/-- Where a group holds the turn, it issues. -/
theorem issuer_isSome {s : State} {i : Nat} (ht : s.turn = some i) (hi : i < s.groups.length) : s.issuer.isSome = true := by
  unfold State.issuer
  simp [ht, hi]

/-! ### The step (07 R194) -/

theorem AnswersAs.of_isSome {code : Bool} {f : State → Host.Outcome State Fault Refusal} (h : AnswersAs code f) {s : State}
    (hs : s.issuer.isSome = true) : ∃ t, f s = .next t ∧ t.agenda = s.agenda := by
  cases code with
  | true => exact h s hs
  | false => exact h s

theorem exec_ofPart {e : Instr} (he : e.isCode = false) (s : State) : ∃ t, exec e s = .next t ∧ t.agenda = s.agenda := by
  have h := exec_answers e
  rw [he] at h
  exact h s

theorem endTurn_agenda (s t : State) (i : Nat) : (s.endTurn t i).agenda = t.agenda := by
  unfold State.endTurn
  dsimp only
  split
  · rfl
  · exact chargeIssue_agenda ..

theorem takeTurn_answers {s : State} {i : Nat} (ht : s.turn = some i) :
    ∃ t, s.takeTurn i = .next t ∧ t.agenda = s.agenda := by
  have hk := issue_keeps s i
  unfold State.takeTurn
  cases hr : s.issue i with
  | done t =>
    rw [hr] at hk
    exact ⟨_, rfl, hk⟩
  | run ins t =>
    rw [hr] at hk
    obtain ⟨hagenda, hturn, hlength⟩ := hk
    obtain ⟨u, hu, ha⟩ := (exec_answers ins).of_isSome
      (issuer_isSome (hturn.trans ht) (hlength ▸ lt_of_issue_run hr))
    refine ⟨t.endTurn u i, by simp only [hu, mapNext], ?_⟩
    exact (endTurn_agenda ..).trans (ha.trans hagenda)

/-- What happens once time has passed leaves in the agenda what stood there, but for the head that has happened. -/
theorem act_answers {s : State} (h : ∀ e ∈ s.agenda, e.isCode = false) :
    ∃ t, s.act = .next t ∧ ∀ e ∈ t.agenda, e.isCode = false := by
  suffices hs : ∃ t, s.act = .next t ∧ t.agenda = s.agenda.tail by
    obtain ⟨t, ht, ha⟩ := hs
    exact ⟨t, ht, fun e he => h e (List.mem_of_mem_tail (ha ▸ he))⟩
  unfold State.act
  cases ha : s.agenda with
  | cons e rest => exact exec_ofPart (h e (ha ▸ List.mem_cons_self)) _
  | nil =>
    dsimp only
    cases ht : s.turn with
    | some i =>
      obtain ⟨t, hn, hk⟩ := takeTurn_answers ht
      exact ⟨t, hn, hk.trans ha⟩
    | none =>
      dsimp only
      have hk := (next_keeps_agenda s).trans ha
      split
      · next hn => rw [hn] at hk; exact ⟨_, rfl, hk⟩
      · next e u hn =>
        rw [hn] at hk
        obtain ⟨t, hx, hk'⟩ := exec_ofPart (next_ofPart hn) u
        exact ⟨t, hx, hk'.trans hk⟩
      · next i u hn =>
        rw [hn] at hk
        obtain ⟨t, hx, hk'⟩ := takeTurn_answers (s := { u with turn := some i }) rfl
        exact ⟨t, hx, hk'.trans hk⟩
      · next hn => rw [hn] at hk; exact ⟨_, rfl, (internal_agenda ..).trans hk⟩

/-- Settles O55: each meaning answers, keeping the agenda, and an instruction of the program is run only in the turn of a
group that is there; what a step adds to the agenda are the events of the display's lines. -/
theorem theMachineGoesOn : Obligations.TheMachineGoesOn := by
  unfold Obligations.TheMachineGoesOn
  intro s hs
  refine act_answers fun e he => ?_
  rw [tick_agenda] at he
  obtain hnew | hold := List.mem_append.mp he
  · exact tickEvents_ofPart _ _ _ e hnew
  · exact hs e hold

end Sys2Proof.Machine
end

section
/-! PROOFS. How an action ends that raises a fault, blocks, or is at a barrier that it completes; and what the ends of
threads leave: the barrier and the objects that they leave signal groups and change nothing else of them (07 R203;
13 R354), the group loses its lanes (07 R204), and what its outstanding operations still raise ends at most its block
(15 R431). -/
namespace Sys2Proof.Machine
open Sys2Proof

/-! ### How an action ends, further -/

section
variable {s t : State} {i : Nat} {g : Group} {p : Info} {body : State → Nat → Group → Res}

/-- The action raises a fault of kind G. -/
theorem runIsa_trap {f : FaultInfo} (h : Ready s i g p) (hb : body s i g = .trap f) :
    runIsa p body s = .next (s.stopsAt i g p.words f) := by
  unfold runIsa State.stopsAt
  simp only [h.turn, h.legal, h.permitted, prepared_ready h, hb, Res.spills, settle, Res.executed, h.group, Bool.false_eq_true,
    if_false]

/-- The action blocks, outside gate calls. -/
theorem runIsa_block {w : Wake} (h : Ready s i g p) (hb : body s i g = .block t w) (hi : i < t.groups.length)
    (hgate : (t.group i).inGate = false) (hskid : (t.group i).trap.skid = [])
    (hbar : (t.block g.id.block).barP = (s.block g.id.block).barP) :
    runIsa p body s = .next (t.setGroup i ((t.group i).blockOn w)) := by
  unfold runIsa
  simp only [h.turn, h.legal, h.permitted, prepared_ready h, hb, Res.spills, settle, Res.executed, Bool.false_eq_true,
    if_false]
  simp only [State.modGroup, hgate, Bool.false_eq_true, if_false]
  rw [shadowAfter_same (by simpa using hbar), skidEnd_steady (by rw [group_setGroup hi]; exact hskid)]

@[simp] theorem shadowAfter_groups (s : State) (i b ph : Nat) : (s.shadowAfter i b ph).groups = s.groups := by
  unfold State.shadowAfter; split <;> rfl
@[simp] theorem shadowAfter_windows (s : State) (i b ph : Nat) : (s.shadowAfter i b ph).windows = s.windows := by
  unfold State.shadowAfter; split <;> rfl
@[simp] theorem shadowAfter_mem (s : State) (i b ph : Nat) : (s.shadowAfter i b ph).mem = s.mem := by
  unfold State.shadowAfter; split <;> rfl
@[simp] theorem shadowAfter_hub (s : State) (i b ph : Nat) : (s.shadowAfter i b ph).hub = s.hub := by
  unfold State.shadowAfter; split <;> rfl

/-- Of a block a new shadow changes the shadow. -/
theorem shadowAfter_block (s : State) (i b ph x : Nat) : ∃ h, (s.shadowAfter i b ph).block x = { s.block x with shadow := h } := by
  unfold State.shadowAfter
  split
  · exact ⟨_, rfl⟩
  · rw [block_modBlock]
    split <;> exact ⟨_, rfl⟩

/-- The action completes, at a barrier perhaps: the group's part of the shadow is the group as it goes on. -/
theorem runIsa_done_shadow (h : Ready s i g p) (hb : body s i g = .done t) (hi : i < t.groups.length)
    (hroom : (t.group i).usage ≤ (t.group i).entryBudget) (hskid : (t.group i).trap.skid = []) :
    runIsa p body s = .next ((t.completes i (t.group i) p.words).shadowAfter i g.id.block (s.block g.id.block).barP) := by
  have hs := skim_done hroom p.named p.writes
  unfold runIsa
  simp only [h.turn, h.legal, h.permitted, prepared_ready h, hb, Res.spills, spillWrites, settle, hs, Res.executed, if_true,
    Bool.false_eq_true, if_false]
  simp only [State.modGroup, setGroup_setGroup, group_setGroup hi]
  rw [skidEnd_steady (by rw [group_congr (shadowAfter_groups ..), group_setGroup hi]; simpa using hskid)]
  rfl

/-- The action sets the group's place itself, at a barrier perhaps. -/
theorem runIsa_moved_shadow (h : Ready s i g p) (hb : body s i g = .moved t) (hi : i < t.groups.length)
    (hskid : (t.group i).trap.skid = []) : runIsa p body s = .next
      ((t.modGroup i fun g => g.withCtl fun c => { c with issued := c.issued + 1 }).shadowAfter i g.id.block
        (s.block g.id.block).barP) := by
  unfold runIsa
  simp only [h.turn, h.legal, h.permitted, prepared_ready h, hb, Res.spills, settle, Res.executed, if_true,
    Bool.false_eq_true, if_false]
  rw [skidEnd_steady]
  rw [group_congr (shadowAfter_groups ..), group_modGroup_same hi]
  exact hskid

end

/-! ### Groups that are signalled (07 R202; 13 R351 to R357) -/

/-- A group told that what it waits for has come, with a fault to take perhaps, its monitors looked at, and its
subscriptions brought up to date. -/
def Group.signalled (g : Group) (hit : Bool) (fault : Option FaultInfo) (subs : List SubEntry) (mons : List Monitor) : Group :=
  { g with ctl := { g.ctl with wakeHit := hit }, trap := { g.trap with atNext := fault }, asy := { g.asy with subs := subs }
           mons := mons }

/-- Groups have been signalled; their number, the hub and the cells' index entries are as they were. -/
structure Signals (s t : State) : Prop where
  count : t.groups.length = s.groups.length
  group : ∀ i, ∃ hit fault subs mons, t.group i = (s.group i).signalled hit fault subs mons
  hub : t.hub = s.hub
  index : ∀ c : Nat, (t.cells[c]?).map (·.index) = (s.cells[c]?).map (·.index)

theorem Signals.of_eq {s t : State} (hg : t.groups = s.groups) (hh : t.hub = s.hub) (hc : t.cells = s.cells) : Signals s t :=
  ⟨by rw [hg], fun i => ⟨_, _, _, _, group_congr hg i⟩, hh, fun c => by rw [hc]⟩

theorem Signals.refl (s : State) : Signals s s := .of_eq rfl rfl rfl

theorem Signals.trans {s t u : State} (h : Signals s t) (k : Signals t u) : Signals s u where
  count := k.count.trans h.count
  group i := by
    obtain ⟨_, _, _, _, h1⟩ := h.group i
    obtain ⟨_, _, _, _, h2⟩ := k.group i
    exact ⟨_, _, _, _, by rw [h2, h1]; rfl⟩
  hub := k.hub.trans h.hub
  index c := (k.index c).trans (h.index c)

theorem Signals.foldl {α : Type} {step : State → α → State} (h : ∀ s a, Signals s (step s a)) (l : List α) (s : State) :
    Signals s (l.foldl step s) :=
  List.foldlRecOn l step (.refl s) fun t ht a _ => ht.trans (h t a)

/-- Bytes that go home signal the monitors of them. -/
theorem Signals.of_home {s t : State} (h : Housekeeping s t) (w : WritesHome s t) : Signals s t := by
  refine ⟨h.groupCount, fun i => ?_, ?_, fun c => ?_⟩
  · obtain ⟨mons, hi⟩ := h.group i
    exact ⟨_, _, _, mons, hi⟩
  all_goals
    obtain ⟨_, _, _, _, _, rfl⟩ := w
    rfl

theorem signals_mapGroups {f : Group → Group} (hf : ∀ g, ∃ hit fault subs mons, f g = g.signalled hit fault subs mons)
    (s : State) : Signals s { s with groups := s.groups.map f } := by
  refine ⟨by simp, fun i => ?_, rfl, fun _ => rfl⟩
  by_cases hi : i < s.groups.length
  · rw [group_map rfl hi]
    exact hf _
  · exact ⟨_, _, _, _, by rw [group_of_ge (by simpa using hi), group_of_ge (Nat.le_of_not_lt hi)]; rfl⟩

theorem signals_modGroup {f : Group → Group} (hf : ∀ g, ∃ hit fault subs mons, f g = g.signalled hit fault subs mons)
    (s : State) (i : Nat) : Signals s (s.modGroup i f) := by
  refine ⟨modGroup_length s i f, fun j => ?_, rfl, fun _ => rfl⟩
  rw [group_modGroup]
  split
  · next h =>
    obtain ⟨rfl, -⟩ := h
    exact hf _
  · exact ⟨_, _, _, _, rfl⟩

theorem hit_signalled (g : Group) (w : Wake) : ∃ hit, g.hit w = g.signalled hit g.trap.atNext g.asy.subs g.mons := by
  unfold Group.hit
  split <;> exact ⟨_, rfl⟩

/-! ### A barrier that completes (07 R202; 05 R141) -/

/-- The condition on which a block's phase completes. -/
def State.barFull (s : State) (b : Nat) : Prop :=
  0 < (s.block b).barE ∧ (s.block b).barA = (s.block b).barE ∧ s.readsDone b = true

/-- What a completion sends home first: under rollback the interval is committed, and in a block on more than one cell
its lines are drained. -/
def State.barHome (s : State) (b : Nat) : State :=
  let s0 := if (s.block b).fdom == .rollback then s.commitLines b else s
  if (s.block b).fdom == .rollback && decide (1 < (s.block b).cells.length) then
    (s.block b).cells.foldl (fun s' c => s'.drainLines (s.block b).part c (allFifoLines (s'.window (s.block b).part c).fifo)) s0
  else s0

/-- The next phase begins, and the groups that wait for it are told. -/
def State.barNext (s : State) (b phase : Nat) : State :=
  let s1 := s.modBlock b fun x => { x with barP := x.barP + 1, barA := 0, arrived := [], tags := [] }
  { s1 with groups := s1.groups.map fun g => if g.id.block == b then g.hit (.bar phase) else g }

theorem barComplete_of_full {s : State} {b : Nat} (h : s.barFull b) :
    s.barComplete b = ((s.barHome b).barNext b (s.block b).barP).takeShadow b := by
  obtain ⟨he, ha, hr⟩ := h
  unfold State.barComplete
  dsimp only
  rw [if_pos (by simp [he, ha, hr])]
  rfl

theorem barComplete_of_not {s : State} {b : Nat} (h : ¬s.barFull b) : s.barComplete b = s := by
  unfold State.barComplete
  dsimp only
  rw [if_neg]
  simpa [State.barFull] using h

theorem housekeeping_barHome (s : State) (b : Nat) : Housekeeping s (s.barHome b) := by
  have hcommit : Housekeeping s (if (s.block b).fdom == .rollback then s.commitLines b else s) := by
    split
    · exact housekeeping_commitLines s b
    · exact .refl s
  unfold State.barHome
  dsimp only
  split
  · exact hcommit.trans (.foldl (fun s c => housekeeping_drainLines s _ c _) _ _)
  · exact hcommit

theorem writesHome_barHome (s : State) (b : Nat) : WritesHome s (s.barHome b) := by
  have hcommit : WritesHome s (if (s.block b).fdom == .rollback then s.commitLines b else s) := by
    split
    · exact ⟨_, _, _, _, _, rfl⟩
    · exact .refl s
  unfold State.barHome
  dsimp only
  split
  · exact hcommit.trans (.foldl (fun s c => writesHome_drainLines s _ c _) _ _)
  · exact hcommit

theorem signals_barNext (s : State) (b phase : Nat) : Signals s (s.barNext b phase) := by
  unfold State.barNext
  refine .trans (t := s.modBlock b _) (.of_eq rfl rfl rfl) (signals_mapGroups (fun g => ?_) _)
  split
  · obtain ⟨hit, h⟩ := hit_signalled g (.bar phase)
    exact ⟨hit, _, _, _, h⟩
  · exact ⟨_, _, _, _, rfl⟩

theorem signals_takeShadow (s : State) (b : Nat) : Signals s (s.takeShadow b) := by
  unfold State.takeShadow
  dsimp only
  split <;> exact .of_eq rfl rfl rfl

theorem signals_barComplete (s : State) (b : Nat) : Signals s (s.barComplete b) := by
  by_cases h : s.barFull b
  · rw [barComplete_of_full h]
    exact ((Signals.of_home (housekeeping_barHome s b) (writesHome_barHome s b)).trans (signals_barNext _ b _)).trans
      (signals_takeShadow _ b)
  · rw [barComplete_of_not h]
    exact .refl s

/-- Of a block the completion of a barrier changes its phase and its arrivals, and what stands for its interval. -/
theorem block_barComplete (s : State) (b x : Nat) : ∃ barP barA arrived shadow early retries rs tags,
    (s.barComplete b).block x = { s.block x with
      barP := barP, barA := barA, arrived := arrived, shadow := shadow, early := early, retries := retries, rs := rs
      tags := tags } := by
  by_cases h : s.barFull b
  · rw [barComplete_of_full h]
    obtain ⟨_, _, _, hshadow⟩ := (takeShadow_frame ((s.barHome b).barNext b (s.block b).barP) b).2.2.2 x
    obtain ⟨_, _, _, hhome⟩ := (housekeeping_barHome s b).block x
    have hnext : ((s.barHome b).barNext b (s.block b).barP).block x = if x = b ∧ b < (s.barHome b).blocks.length then
        { (s.barHome b).block x with barP := ((s.barHome b).block x).barP + 1, barA := 0, arrived := [], tags := [] }
        else (s.barHome b).block x := block_modBlock (s.barHome b) b x _
    rw [hshadow, hnext, hhome]
    split <;> exact ⟨_, _, _, _, _, _, _, _, rfl⟩
  · rw [barComplete_of_not h]
    exact ⟨_, _, _, _, _, _, _, _, rfl⟩

@[simp] theorem dropped_barComplete (s : State) (b x : Nat) : ((s.barComplete b).block x).dropped = (s.block x).dropped := by
  obtain ⟨_, _, _, _, _, _, _, _, h⟩ := block_barComplete s b x
  rw [h]

/-! ### Threads that drop, and lanes that leave barrier objects (07 R203; 13 R354) -/

theorem mem_dropped_drop {x : Block} {t u : Nat × Nat} : u ∈ (x.drop t).dropped ↔ u = t ∨ u ∈ x.dropped := by
  unfold Block.drop
  split
  · next h =>
    have ht : t ∈ x.dropped := by simpa using h
    exact ⟨.inr, fun h => h.elim (fun e => e ▸ ht) id⟩
  · exact List.mem_cons

theorem mem_dropped_foldl {ts : List (Nat × Nat)} {x : Block} {u : Nat × Nat} :
    u ∈ (ts.foldl Block.drop x).dropped ↔ u ∈ ts ∨ u ∈ x.dropped := by
  induction ts generalizing x with
  | nil => simp
  | cons t ts ih =>
    rw [List.foldl_cons, ih, mem_dropped_drop, List.mem_cons]
    tauto

theorem signals_barDrop (s : State) (b : Nat) (ts : List (Nat × Nat)) : Signals s (s.barDrop b ts) :=
  .trans (t := s.modBlock b fun x => ts.foldl Block.drop x) (.of_eq rfl rfl rfl) (signals_barComplete _ b)

theorem mem_dropped_barDrop {s : State} {b : Nat} (hb : b < s.blocks.length) {ts : List (Nat × Nat)} {u : Nat × Nat} :
    u ∈ ((s.barDrop b ts).block b).dropped ↔ u ∈ ts ∨ u ∈ (s.block b).dropped := by
  unfold State.barDrop
  rw [dropped_barComplete, block_modBlock_same hb]
  exact mem_dropped_foldl

theorem setBobj_blocks (s : State) (b cell off : Nat) (o : BObj) : (s.setBobj b cell off o).blocks = s.blocks :=
  modWindow_blocks ..

theorem signals_setBobj (s : State) (b cell off : Nat) (o : BObj) : Signals s (s.setBobj b cell off o) :=
  .of_eq (modWindow_groups ..) (modWindow_hub ..) (modWindow_cells ..)

theorem signals_bobjStarve (s : State) (b cell off : Nat) : Signals s (s.bobjStarve b cell off) := by
  unfold State.bobjStarve
  dsimp only
  split
  · refine signals_mapGroups (fun g => ?_) s
    split
    · dsimp only
      split
      · obtain ⟨hit, h⟩ := hit_signalled g (.bobj off (s.bobj b cell off).phase)
        exact ⟨hit, _, _, _, by rw [h]; rfl⟩
      · exact ⟨_, _, _, _, rfl⟩
    · exact ⟨_, _, _, _, rfl⟩
  · exact .refl s

theorem bobjStarve_blocks (s : State) (b cell off : Nat) : (s.bobjStarve b cell off).blocks = s.blocks := by
  unfold State.bobjStarve
  dsimp only
  split <;> rfl

theorem signals_bobjLeave (s : State) (i off : Nat) (m : Lanes) : Signals s (s.bobjLeave i off m) := by
  unfold State.bobjLeave
  dsimp only
  split
  · exact .refl s
  · refine ((signals_setBobj s _ _ _ _).trans (signals_modGroup ?_ _ i)).trans (signals_bobjStarve _ _ _ _)
    exact fun g => ⟨_, _, _, _, rfl⟩

theorem bobjLeave_blocks (s : State) (i off : Nat) (m : Lanes) : (s.bobjLeave i off m).blocks = s.blocks := by
  unfold State.bobjLeave
  dsimp only
  split
  · rfl
  · exact (bobjStarve_blocks ..).trans (setBobj_blocks ..)

/-- Lanes of a group leave every object that it has subscribed to. -/
def State.leaveObjs (s : State) (i : Nat) (subs : List SubEntry) (m : Lanes) : State :=
  subs.foldl (fun s e => s.bobjLeave i e.off m) s

theorem signals_leaveObjs (s : State) (i : Nat) (subs : List SubEntry) (m : Lanes) : Signals s (s.leaveObjs i subs m) :=
  .foldl (fun s _ => signals_bobjLeave s i _ m) subs s

theorem leaveObjs_blocks (s : State) (i : Nat) (subs : List SubEntry) (m : Lanes) : (s.leaveObjs i subs m).blocks = s.blocks :=
  List.foldlRecOn (motive := fun t : State => t.blocks = s.blocks) subs _ rfl fun _ ht _ _ => (bobjLeave_blocks ..).trans ht

/-! ### A group that loses lanes (07 R204, R207) -/

/-- What becomes of a group that loses lanes: it goes on with what it has, or ends. -/
def State.parted (s : State) (i : Nat) (m : Lanes) (tail : Bool) : State :=
  let s1 := s.modGroup i fun g => g.loseLanes m
  if (s1.group i).ctl.live = 0#32 then s1.endGroup i tail
  else s1.modGroup i (Group.unwind (s1.now (s1.group i)) 34)

theorem endThreads_eq (s : State) (i : Nat) (m : Lanes) (tail : Bool) : s.endThreads i m tail =
    ((s.barDrop (s.group i).id.block ((m &&& (s.group i).ctl.live).toList.map (s.group i).thread)).leaveObjs i
      (s.group i).asy.subs (m &&& (s.group i).ctl.live)).parted i (m &&& (s.group i).ctl.live) tail := rfl

/-- What a group keeps that loses lanes: its skids, its operations and the place where it stands. -/
structure Parts (g h : Group) : Prop where
  skid : h.trap.skid = g.trap.skid
  asy : h.asy = g.asy
  loc : h.loc = g.loc

theorem Parts.refl (g : Group) : Parts g g := ⟨rfl, rfl, rfl⟩
theorem Parts.trans {g h k : Group} (p : Parts g h) (q : Parts h k) : Parts g k :=
  ⟨q.skid.trans p.skid, q.asy.trans p.asy, q.loc.trans p.loc⟩

theorem Parts.endRun {g h : Group} (p : Parts g h) (now : Nat) : Parts g (h.endRun now) :=
  ⟨by rw [endRun_trap, p.skid], (endRun_asy h now).trans p.asy, (endRun_loc h now).trans p.loc⟩

theorem Parts.atReconv {g h : Group} (p : Parts g h) (now : Nat) : Parts g (h.atReconv now) := by
  refine p.trans ?_
  unfold Group.atReconv
  split
  · exact .refl h
  · dsimp only
    split <;>
    · refine Parts.endRun ?_ now
      exact ⟨rfl, rfl, rfl⟩

theorem parts_unwind (now n : Nat) (g : Group) : Parts g (Group.unwind now n g) := by
  induction n generalizing g with
  | zero => exact .refl g
  | succ n ih =>
    unfold Group.unwind
    dsimp only
    split
    · exact .refl g
    · split
      · refine Parts.endRun ?_ now
        exact ⟨rfl, rfl, rfl⟩
      · split
        · refine Parts.endRun ?_ now
          exact ⟨rfl, rfl, rfl⟩
        · refine .trans (Parts.atReconv ?_ now) (ih _)
          exact ⟨rfl, rfl, rfl⟩

theorem parts_loseLanes (g : Group) (m : Lanes) : Parts g (g.loseLanes m) := ⟨rfl, rfl, rfl⟩

/-- The cells' index entries are as they were after a change of one quadrant. -/
theorem index_modQuad (s : State) (c q : Nat) (f : Quad → Quad) (x : Nat) :
    ((s.modQuad c q f).cells[x]?).map (·.index) = (s.cells[x]?).map (·.index) := by
  unfold State.modQuad
  rw [modCell_cells, getElem?_modifyAt]
  split
  · rw [Option.map_map]
    rfl
  · rfl

/-- What becomes of the state when a group gives up its palette units: the blocks, the hub and the index entries stay, and
of the groups that one's matrix state changes. -/
structure OnlyParted (s t : State) (i : Nat) (h : Group) : Prop where
  groups : t.groups = (s.setGroup i h).groups
  blocks : t.blocks = s.blocks
  hub : t.hub = s.hub
  index : ∀ c : Nat, (t.cells[c]?).map (·.index) = (s.cells[c]?).map (·.index)

theorem setGroup_group_self (s : State) (i : Nat) : s.setGroup i (s.group i) = s := by
  by_cases hi : i < s.groups.length
  · simp [State.setGroup, State.group, hi]
  · simp [State.setGroup, List.set_eq_of_length_le (Nat.le_of_not_lt hi)]

theorem palEnd_parted (s : State) (i : Nat) : ∃ h, OnlyParted s (s.palEnd i) i h ∧ h.ctl = (s.group i).ctl ∧
    Parts (s.group i) h := by
  unfold State.palEnd
  dsimp only
  split
  · exact ⟨_, ⟨rfl, rfl, rfl, index_modQuad s _ _ _⟩, rfl, rfl, rfl, rfl⟩
  · exact ⟨s.group i, ⟨by rw [setGroup_group_self], rfl, rfl, fun _ => rfl⟩, rfl, .refl _⟩

/-- The status with which a group ends. -/
def State.endStatus (s : State) (g : Group) (tail : Bool) : Status :=
  if tail && !(g.id.role == .matrix) && decide (s.trackerUse g < maxTracked) then .endedTail else .ended

/-- A group has lost lanes. -/
structure LosesLanes (s : State) (i : Nat) (m : Lanes) (tail : Bool) (h : Group) : Prop where
  live : h.ctl.live = (s.group i).ctl.live &&& ~~~m
  parts : Parts (s.group i) h
  status : (s.group i).ctl.live &&& ~~~m = 0#32 →
    h.ctl.status = (s.modGroup i fun g => g.loseLanes m).endStatus ((s.group i).loseLanes m) tail

theorem parted_loses {s : State} {i : Nat} (hi : i < s.groups.length) (m : Lanes) (tail : Bool) :
    ∃ h, OnlyParted s (s.parted i m tail) i h ∧ LosesLanes s i m tail h := by
  have hlost : (s.modGroup i fun g => g.loseLanes m).group i = (s.group i).loseLanes m := group_modGroup_same hi _
  have hset (k : Group) : (s.modGroup i fun g => g.loseLanes m).setGroup i k = s.setGroup i k := setGroup_setGroup ..
  unfold State.parted
  dsimp only
  rw [hlost]
  split
  · next h0 =>
    unfold State.endGroup
    obtain ⟨h, ⟨hg, hb, hh, hx⟩, hctl, hparts⟩ := palEnd_parted ((s.modGroup i fun g => g.loseLanes m).modGroup i fun g =>
      { (g.withCtl fun c => { c with
          status := (s.modGroup i fun g => g.loseLanes m).endStatus g tail, clause := .none, runCount := 0 }) with mons := [] }) i
    rw [group_modGroup_same (by simpa using hi), hlost] at hctl hparts
    refine ⟨h, ⟨?_, hb, hh, hx⟩, by rw [hctl]; rfl, ⟨hparts.skid, hparts.asy, hparts.loc⟩, fun _ => by rw [hctl]; rfl⟩
    refine hg.trans ?_
    simp only [State.modGroup, setGroup_setGroup]
  · next h0 =>
    generalize State.now _ _ = now
    refine ⟨Group.unwind now 34 ((s.group i).loseLanes m), ⟨?_, rfl, rfl, fun _ => rfl⟩, unwind_live .., ?_, fun h => absurd h h0⟩
    · simp only [State.modGroup, setGroup_setGroup, group_setGroup hi]
    · exact (parts_loseLanes _ m).trans (parts_unwind ..)

end Sys2Proof.Machine
end

section
/-! PROOFS. EXIT, TAIL and PFAIL.DONE end threads, and OM.LATCH writes the pending windscreen set (07 R204 to R207;
13 R334; 17 R481; 04 R125). First what the faults leave that a group's operations still raise when its last thread has
ended (15 R431): its lanes stay ended and the threads that have dropped stay dropped. -/
namespace Sys2Proof.Machine
open Sys2Proof

/-! ### Faults that are raised late (15 R431) -/

/-- Group `i` has no thread again where it had none, and no skid where it had none; the threads that have dropped from the
blocks' barriers and a hold-up save that runs are as they were. -/
structure Aftermath (i : Nat) (s t : State) : Prop where
  count : t.groups.length = s.groups.length
  live : (s.group i).ctl.live = 0#32 → (t.group i).ctl.live = 0#32
  skid : (s.group i).trap.skid = [] → (t.group i).trap.skid = []
  dropped : ∀ b, (t.block b).dropped = (s.block b).dropped
  save : ∀ v, s.hub.save = some v → t.hub.save = some v

theorem Aftermath.refl (i : Nat) (s : State) : Aftermath i s s := ⟨rfl, id, id, fun _ => rfl, fun _ => id⟩

theorem Aftermath.trans {i : Nat} {s t u : State} (h : Aftermath i s t) (k : Aftermath i t u) : Aftermath i s u :=
  ⟨k.count.trans h.count, k.live ∘ h.live, k.skid ∘ h.skid, fun b => (k.dropped b).trans (h.dropped b),
    fun v => k.save v ∘ h.save v⟩

theorem Aftermath.foldl {α : Type} {i : Nat} {step : State → α → State} (h : ∀ s a, Aftermath i s (step s a)) (l : List α)
    (s : State) : Aftermath i s (l.foldl step s) :=
  List.foldlRecOn l step (.refl i s) fun t ht a _ => ht.trans (h t a)

/-- Housekeeping that leaves a running save as it is. -/
theorem Housekeeping.aftermath {s t : State} (h : Housekeeping s t) (hs : ∀ v, s.hub.save = some v → t.hub.save = some v)
    (i : Nat) : Aftermath i s t := by
  obtain ⟨_, hi⟩ := h.group i
  refine ⟨h.groupCount, fun h0 => ?_, fun h0 => ?_, fun b => ?_, hs⟩
  · rw [hi]; exact h0
  · rw [hi]; exact h0
  · obtain ⟨_, _, _, hb⟩ := h.block b
    rw [hb]

/-- While a save runs no record is written (05 R160). -/
theorem faultRecord_of_save {s : State} {v : Save} (hv : s.hub.save = some v) (g : Group) (f : FaultInfo)
    (domain pc skid : Nat) : s.faultRecord g f domain pc skid = s := by
  unfold State.faultRecord State.ctxRecord
  simp [hv]

theorem aftermath_faultRecord (i : Nat) (s : State) (g : Group) (f : FaultInfo) (domain pc skid : Nat) :
    Aftermath i s (s.faultRecord g f domain pc skid) :=
  (housekeeping_faultRecord s g f domain pc skid).aftermath (fun v hv => by rw [faultRecord_of_save hv]; exact hv) i

theorem leavePlace_hub (s : State) (b : Nat) : (s.leavePlace b).hub = s.hub := by
  unfold State.leavePlace
  dsimp only
  split <;> rfl

theorem blockGone_hub (s : State) (b : Nat) : (s.blockGone b).hub = s.hub := by
  have hplace : (if (s.block b).resident then (s.discardLines b).leavePlace b else s.discardLines b).hub = s.hub := by
    split
    · exact (leavePlace_hub ..).trans rfl
    · rfl
  exact List.foldlRecOn (motive := fun t : State => t.hub = s.hub) _ _ hplace fun _ ht _ _ => ht

/-- A group of a block that ends has no thread and no skid; another stays. -/
theorem endBlock_groups (s : State) (b : Nat) : ∃ f : Group → Group, (s.endBlock b).groups = (s.blockGone b).groups.map f ∧
    ∀ g, (f g = g ∨ (f g).ctl.live = 0#32 ∧ (f g).trap.skid = []) := by
  unfold State.endBlock
  obtain ⟨_, _, hend⟩ := withdrawEnded_frame _
  rw [hend]
  refine ⟨_, rfl, fun g => ?_⟩
  dsimp only
  split
  · exact .inr ⟨rfl, rfl⟩
  · exact .inl rfl

theorem endBlock_hub (s : State) (b : Nat) : ∃ must, (s.endBlock b).hub = { s.hub with must := must } := by
  unfold State.endBlock
  obtain ⟨must, _, hend⟩ := withdrawEnded_frame _
  rw [hend]
  exact ⟨must, congrArg (fun h : Hub => { h with must := must }) (blockGone_hub s b)⟩

theorem endBlock_dropped (s : State) (b x : Nat) : ((s.endBlock b).block x).dropped = (s.block x).dropped := by
  have hgone : ((s.blockGone b).block x).dropped = (s.block x).dropped := by
    obtain ⟨_, _, _, hx⟩ := (housekeeping_blockGone s b).block x
    rw [hx]
  unfold State.endBlock
  obtain ⟨_, _, hend⟩ := withdrawEnded_frame _
  rw [hend]
  refine .trans (congrArg Block.dropped (block_modBlock (s.blockGone b) b x _)) ?_
  split <;> exact hgone

theorem aftermath_endBlock (i : Nat) (s : State) (b : Nat) : Aftermath i s (s.endBlock b) := by
  obtain ⟨f, hf, hkeep⟩ := endBlock_groups s b
  have hcount : (s.blockGone b).groups.length = s.groups.length := (housekeeping_blockGone s b).groupCount
  have hgroup : (s.endBlock b).group i = (s.blockGone b).group i ∨ ((s.endBlock b).group i).ctl.live = 0#32 ∧
      ((s.endBlock b).group i).trap.skid = [] := by
    by_cases hi : i < s.groups.length
    · rw [group_map hf (hcount ▸ hi)]
      exact hkeep _
    · exact .inl (by rw [group_of_ge (by simpa [hf, hcount] using hi), group_of_ge (by simpa [hcount] using hi)])
  obtain ⟨_, hgone⟩ := (housekeeping_blockGone s b).group i
  refine ⟨by rw [hf, List.length_map, hcount], fun h0 => ?_, fun h0 => ?_, endBlock_dropped s b, fun v hv => ?_⟩
  · rcases hgroup with h | ⟨h, -⟩
    · rw [h, hgone]; exact h0
    · exact h
  · rcases hgroup with h | ⟨-, h⟩
    · rw [h, hgone]; exact h0
    · exact h
  · obtain ⟨must, hhub⟩ := endBlock_hub s b
    rw [hhub]
    exact hv

theorem aftermath_lateFault (i : Nat) (s : State) (j : Nat) (f : FaultInfo) : Aftermath i s (s.lateFault j f) := by
  unfold State.lateFault
  dsimp only
  split
  · exact aftermath_faultRecord i s _ f _ _ _
  · unfold State.domainFault
    dsimp only
    split
    · rw [if_pos rfl]
      exact aftermath_faultRecord i s _ f _ _ _
    · exact (aftermath_faultRecord i s _ f _ _ _).trans (aftermath_endBlock i _ _)

theorem aftermath_modGroup {i : Nat} {f : Group → Group} (hf : ∀ g, (f g).ctl.live = g.ctl.live ∧ (f g).trap.skid = g.trap.skid)
    (s : State) (j : Nat) : Aftermath i s (s.modGroup j f) := by
  have hgroup : ((s.modGroup j f).group i).ctl.live = (s.group i).ctl.live ∧
      ((s.modGroup j f).group i).trap.skid = (s.group i).trap.skid := by
    rw [group_modGroup]
    split
    · next h =>
      obtain ⟨rfl, -⟩ := h
      exact hf _
    · exact ⟨rfl, rfl⟩
  exact ⟨modGroup_length .., fun h => hgroup.1.trans h, fun h => hgroup.2.trans h, fun _ => rfl, fun _ => id⟩

/-- A group with a thread left raises no late faults. -/
theorem lateFaults_of_live {s : State} {i : Nat} (h : (s.group i).ctl.live ≠ 0#32) : s.lateFaults i = s := by
  unfold State.lateFaults
  dsimp only
  rw [if_pos h]

theorem aftermath_lateFaults (i : Nat) (s : State) : Aftermath i s (s.lateFaults i) := by
  unfold State.lateFaults
  dsimp only
  split
  · exact .refl i s
  · refine .trans (t := s.modGroup i _) (aftermath_modGroup ?_ s i) (.foldl (fun s f => ?_) _ _)
    · exact fun _ => ⟨rfl, rfl⟩
    split
    · exact .refl i s
    · exact aftermath_lateFault i s i f

/-- With no fault outstanding nothing is raised: the group's operations are forgotten at most. -/
theorem lateFaults_of_none {s : State} {i : Nat} (h : ∀ o ∈ (s.group i).asy.deferred ++ (s.group i).asy.ops, o.fault = none) :
    ∃ deferred ops, s.lateFaults i = s.modGroup i fun g => g.withAsy fun a => { a with deferred := deferred, ops := ops } := by
  have hnone : ((s.group i).asy.deferred ++ (s.group i).asy.ops).filterMap (·.fault) = [] :=
    List.filterMap_eq_nil_iff.mpr h
  unfold State.lateFaults
  dsimp only
  rw [hnone]
  split
  · exact ⟨(s.group i).asy.deferred, (s.group i).asy.ops, (setGroup_group_self s i).symm⟩
  · exact ⟨[], (s.group i).asy.ops.map fun o => { o with fault := none }, rfl⟩

/-! ### EXIT, TAIL and PFAIL.DONE (07 R204 to R207; 13 R334) -/

/-- What the end of the threads of some lanes of a group comes to. -/
structure EndsThreads (s : State) (i : Nat) (m : Lanes) (t : State) : Prop where
  count : t.groups.length = s.groups.length
  live : (t.group i).ctl.live = (s.group i).ctl.live &&& ~~~m
  skid : (s.group i).trap.skid = [] → (t.group i).trap.skid = []
  dropped : (s.group i).id.block < s.blocks.length → ∀ u, u ∈ (t.block (s.group i).id.block).dropped ↔
    u ∈ (m &&& (s.group i).ctl.live).toList.map (s.group i).thread ∨ u ∈ (s.block (s.group i).id.block).dropped

/-- Only groups and blocks are spoken of. -/
theorem EndsThreads.congr {s t s' t' : State} {i : Nat} {m : Lanes} (h : EndsThreads s i m t) (hg : s'.groups = s.groups)
    (hb : s'.blocks = s.blocks) (hg' : t'.groups = t.groups) (hb' : t'.blocks = t.blocks) : EndsThreads s' i m t' := by
  obtain ⟨hcount, hlive, hskid, hdropped⟩ := h
  have hs := group_congr hg i
  have ht := group_congr hg' i
  refine ⟨by rw [hg', hg, hcount], by rw [hs, ht, hlive], by rw [hs, ht]; exact hskid, ?_⟩
  rw [hs, block_congr hb, block_congr hb', hb]
  exact hdropped

theorem EndsThreads.aftermath {s t u : State} {i : Nat} {m : Lanes} (h : EndsThreads s i m t) (k : Aftermath i t u)
    (hlive : (t.group i).ctl.live ≠ 0#32 → u = t) : EndsThreads s i m u := by
  refine ⟨k.count.trans h.count, ?_, k.skid ∘ h.skid, fun hb x => by rw [k.dropped]; exact h.dropped hb x⟩
  by_cases h0 : (t.group i).ctl.live = 0#32
  · rw [k.live h0, ← h.live, h0]
  · rw [hlive h0]
    exact h.live

/-- The counts of the retirement trackers look at the statuses and the places of the groups. -/
theorem trackerUse_congr {s t : State} (hc : t.groups.length = s.groups.length)
    (h : ∀ i, (t.group i).ctl.status = (s.group i).ctl.status ∧ (t.group i).loc = (s.group i).loc) {g k : Group}
    (hg : k.loc = g.loc) : t.trackerUse k = s.trackerUse g := by
  have hmap : t.groups.map (fun x => (x.ctl.status, x.loc)) = s.groups.map (fun x => (x.ctl.status, x.loc)) := by
    refine List.ext_getElem (by simp [hc]) fun j hj hj' => ?_
    have hjt : j < t.groups.length := by simpa using hj
    have hjs : j < s.groups.length := by simpa using hj'
    obtain ⟨hs, hl⟩ := h j
    rw [State.group, State.group, List.getD_eq_getElem _ _ hjt, List.getD_eq_getElem _ _ hjs] at hs hl
    rw [List.getElem_map, List.getElem_map, hs, hl]
  have hcount (l : List Group) (k : Group) : (l.filter fun x => x.ctl.status == .tracked && x.loc.cell == k.loc.cell &&
      x.loc.sub == k.loc.sub && !x.loc.abacus).length = (l.map fun x => (x.ctl.status, x.loc)).countP
        fun y => y.1 == .tracked && y.2.cell == k.loc.cell && y.2.sub == k.loc.sub && !y.2.abacus := by
    rw [List.countP_map, List.countP_eq_length_filter]
    rfl
  rw [State.trackerUse, State.trackerUse, hcount, hcount, hmap, hg]

theorem endThreads_ends {s : State} {i : Nat} (hi : i < s.groups.length) (m : Lanes) (tail : Bool) :
    EndsThreads s i m (s.endThreads i m tail) ∧ ((s.endThreads i m tail).group i).asy.ops = (s.group i).asy.ops ∧
    ((s.endThreads i m tail).group i).asy.deferred = (s.group i).asy.deferred ∧
    ((s.group i).ctl.live &&& ~~~m = 0#32 →
      ((s.endThreads i m tail).group i).ctl.status = s.endStatus (s.group i) tail) ∧
    (s.endThreads i m tail).hub = s.hub := by
  rw [endThreads_eq]
  generalize hm : m &&& (s.group i).ctl.live = gone
  have hdrop (hb : (s.group i).id.block < s.blocks.length) (x : Nat × Nat) :=
    mem_dropped_barDrop (s := s) hb (ts := gone.toList.map (s.group i).thread) (u := x)
  have hsig := (signals_barDrop s (s.group i).id.block (gone.toList.map (s.group i).thread)).trans
    (signals_leaveObjs _ i (s.group i).asy.subs gone)
  have hblocks := leaveObjs_blocks (s.barDrop (s.group i).id.block (gone.toList.map (s.group i).thread)) i
    (s.group i).asy.subs gone
  revert hsig hblocks
  generalize State.leaveObjs _ i (s.group i).asy.subs gone = u
  intro hsig hblocks
  have hu : i < u.groups.length := by rw [hsig.count]; exact hi
  obtain ⟨h, ⟨hg, hb, hh, -⟩, hlive, ⟨hskid, hasy, -⟩, hstatus⟩ := parted_loses hu gone tail
  have hself : (u.parted i gone tail).group i = h := (group_congr hg i).trans (group_setGroup hu h)
  obtain ⟨_, _, _, _, hui⟩ := hsig.group i
  have hleft : (u.group i).ctl.live &&& ~~~gone = (s.group i).ctl.live &&& ~~~m := by
    rw [hui, ← hm]
    exact and_not_and_self _ m
  refine ⟨⟨?_, ?_, fun h0 => ?_, fun hlt x => ?_⟩, ?_, ?_, fun h0 => ?_, hh.trans hsig.hub⟩
  · rw [hg, setGroup_length, hsig.count]
  · rw [hself, hlive, hleft]
  · rw [hself, hskid, hui]
    exact h0
  · rw [block_congr hb, block_congr hblocks, hm]
    exact hdrop hlt x
  · rw [hself, hasy, hui]
    rfl
  · rw [hself, hasy, hui]
    rfl
  · rw [hself, hstatus (by rw [hleft]; exact h0)]
    have huse : (u.modGroup i fun g => g.loseLanes gone).trackerUse ((u.group i).loseLanes gone) =
        s.trackerUse (s.group i) := by
      refine trackerUse_congr (by rw [modGroup_length, hsig.count]) (fun j => ?_) (by rw [hui]; rfl)
      obtain ⟨_, _, _, _, huj⟩ := hsig.group j
      rw [group_modGroup]
      split
      · next hj => rw [← hj.1, huj]; exact ⟨rfl, rfl⟩
      · rw [huj]; exact ⟨rfl, rfl⟩
    unfold State.endStatus
    rw [huse, hui]
    rfl

/-- The end of threads with the faults that are raised late, as an instruction leaves it. -/
theorem endThreads_lateFaults {s : State} {i : Nat} (hi : i < s.groups.length) (m : Lanes) (tail : Bool) :
    EndsThreads s i m ((s.endThreads i m tail).lateFaults i) ∧
    ((s.group i).ctl.live &&& ~~~m = 0#32 → (s.group i).asy.ops = [] → (s.group i).asy.deferred = [] →
      (((s.endThreads i m tail).lateFaults i).group i).ctl.status = s.endStatus (s.group i) tail) ∧
    ∀ v, s.hub.save = some v → ((s.endThreads i m tail).lateFaults i).hub.save = some v := by
  obtain ⟨hends, hops, hdef, hstatus, hhub⟩ := endThreads_ends hi m tail
  have hafter := aftermath_lateFaults i (s.endThreads i m tail)
  refine ⟨hends.aftermath hafter lateFaults_of_live, fun h0 ho hd => ?_, fun v hv => hafter.save v (by rw [hhub]; exact hv)⟩
  obtain ⟨_, _, hlate⟩ := lateFaults_of_none (s := s.endThreads i m tail) (i := i) (by rw [hops, hdef, ho, hd]; simp)
  rw [hlate, group_modGroup_same (by rw [hends.count]; exact hi)]
  exact hstatus h0

/-- An instruction that ends threads: what its action leaves is what the state holds after it. -/
theorem runIsa_ends {s t : State} {i : Nat} {g : Group} {p : Info} {body : State → Nat → Group → Res} {m : Lanes}
    (h : Ready s i g p) (hb : body s i g = .moved t) (ht : EndsThreads s i m t) : ∃ u, runIsa p body s = .next u ∧
      (u.group i).ctl.live = g.ctl.live &&& ~~~m ∧ (u.group i).ctl.status = (t.group i).ctl.status ∧
      u.hub = t.hub ∧ (g.id.block < s.blocks.length → ∀ x, x ∈ (u.block g.id.block).dropped ↔
        x ∈ (m &&& g.ctl.live).toList.map g.thread ∨ x ∈ (s.block g.id.block).dropped) := by
  obtain ⟨hcount, hlive, hskid, hdropped⟩ := ht
  rw [h.group] at hlive hskid hdropped
  have hi : i < t.groups.length := hcount ▸ h.lt
  refine ⟨_, runIsa_moved_shadow h hb hi (hskid h.steady), ?_, ?_, shadowAfter_hub .., fun hlt x => ?_⟩
  · rw [group_congr (shadowAfter_groups ..), group_modGroup_same hi]
    exact hlive
  · rw [group_congr (shadowAfter_groups ..), group_modGroup_same hi]
    rfl
  · obtain ⟨_, hx⟩ := shadowAfter_block (t.modGroup i fun g => g.withCtl fun c => { c with issued := c.issued + 1 }) i
      g.id.block (s.block g.id.block).barP g.id.block
    rw [hx]
    exact hdropped hlt x

theorem endStatus_eq (s : State) (g : Group) (tail : Bool) : s.endStatus g tail =
    if tail = true ∧ g.id.role ≠ .matrix ∧ s.trackerUse g < maxTracked then .endedTail else .ended := by
  unfold State.endStatus
  congr 1
  simp [and_assoc]

theorem exit_ends (ins : Instr) (tail : Bool) (hins : (ins = .exit ∧ tail = false) ∨ (ins = .tail ∧ tail = true)) :
    Does ins ⟨.tail, 1, []⟩ (fun s _ g => g.id.block < s.blocks.length) fun s i g t =>
      (t.group i).ctl.live = g.ctl.live &&& ~~~g.ctl.act ∧
      (∀ l, l < 32 → (g.ctl.act &&& g.ctl.live).has l = true → g.thread l ∈ (t.block g.id.block).dropped) ∧
      (∀ th, th ∈ (s.block g.id.block).dropped → th ∈ (t.block g.id.block).dropped) ∧
      (g.ctl.live &&& ~~~g.ctl.act = 0#32 → g.asy.ops = [] → g.asy.deferred = [] →
        (t.group i).ctl.status =
          if tail = true ∧ g.id.role ≠ .matrix ∧ s.trackerUse g < maxTracked then .endedTail else .ended) := by
  intro s i g h hblock
  have hexec : exec ins s = runIsa ⟨.tail, 1, []⟩
      (fun s i g => .moved ((s.endThreads i g.ctl.act tail).lateFaults i)) s := by
    rcases hins with ⟨rfl, rfl⟩ | ⟨rfl, rfl⟩ <;> rfl
  obtain ⟨hends, hstatus, -⟩ := endThreads_lateFaults h.lt g.ctl.act tail
  rw [h.group] at hstatus
  obtain ⟨u, hu, hlive, hst, -, hdrop⟩ := runIsa_ends (body := fun s i g => .moved ((s.endThreads i g.ctl.act tail).lateFaults i)) h rfl hends
  refine ⟨u, hexec.trans hu, hlive, fun l hl hm => (hdrop hblock _).mpr (.inl ?_), fun th hth => (hdrop hblock th).mpr (.inr hth),
    fun h0 ho hd => ?_⟩
  · exact List.mem_map_of_mem (has_toList.mpr ⟨hl, hm⟩)
  · rw [hst, hstatus h0 ho hd, endStatus_eq]

/-- A handler's group has reported that it is done. -/
def Save.doneBy (i : Nat) (v : Save) : Save :=
  { v with handlers := v.handlers.map fun x => if x.group = i then { x with done := true } else x }

theorem doneBy_done {i : Nat} {v : Save} {x : Handler} (hx : x ∈ (v.doneBy i).handlers) (hg : x.group = i) : x.done = true := by
  obtain ⟨y, -, rfl⟩ := List.mem_map.mp hx
  by_cases hy : y.group = i
  · rw [if_pos hy]
  · rw [if_neg hy] at hg
    exact absurd hg hy

theorem and_not_self (m : Lanes) : m &&& ~~~m = 0#32 := by
  apply BitVec.eq_of_getLsbD_eq
  intro j hj
  simp [hj]

/-- What PFAIL.DONE does. -/
def pfailBody (s : State) (i : Nat) (g : Group) : Res :=
  if !g.id.pfail then .trap (.here 0x04 0)
  else if g.inGate then .trap (.here 0x0A 0)
  else .moved ((((s.withHub fun h => { h with save := h.save.map (Save.doneBy i) }).endThreads i g.ctl.live
    false).lateFaults i).capture)

theorem exec_pfailDone (s : State) : exec .pfailDone s = runIsa ⟨.sys, 1, []⟩ pfailBody s := rfl

theorem pfailDone_ends : Does .pfailDone ⟨.sys, 1, []⟩
    (fun s _ g => g.id.pfail = true ∧ g.inGate = false ∧ g.id.block < s.blocks.length)
    fun s i g t => (t.group i).ctl.live = 0#32 ∧
      (∀ l, l < 32 → g.ctl.live.has l = true → g.thread l ∈ (t.block g.id.block).dropped) ∧
      (∀ v, s.hub.save = some v → ∃ v', t.hub.save = some v' ∧ ∀ x ∈ v'.handlers, x.group = i → x.done = true) := by
  intro s i g h ⟨hpfail, hgate, hblock⟩
  let s1 : State := s.withHub fun h => { h with save := h.save.map (Save.doneBy i) }
  obtain ⟨hends1, -, hsave⟩ := endThreads_lateFaults (s := s1) h.lt g.ctl.live false
  obtain ⟨n, rs, hcap⟩ := capture_frame ((s1.endThreads i g.ctl.live false).lateFaults i)
  have hends : EndsThreads s i g.ctl.live ((s1.endThreads i g.ctl.live false).lateFaults i).capture :=
    hends1.congr rfl rfl (by rw [hcap]) (by rw [hcap])
  obtain ⟨u, hu, hul, -, huh, hdrop⟩ := runIsa_ends (p := ⟨.sys, 1, []⟩) (body := pfailBody) h
    (by unfold pfailBody; rw [hpfail, hgate]; rfl) hends
  refine ⟨u, (exec_pfailDone s).trans hu, by rw [hul, and_not_self], fun l hl hm => (hdrop hblock _).mpr (.inl ?_), fun v hv => ?_⟩
  · exact List.mem_map_of_mem (has_toList.mpr ⟨hl, by rw [has_and, hm]; rfl⟩)
  · have hdone : s1.hub.save = some (v.doneBy i) := congrArg (Option.map _) hv
    refine ⟨{ v.doneBy i with regions := rs }, ?_, fun x hx hg => doneBy_done hx hg⟩
    rw [huh, hcap]
    exact congrArg (Option.map fun v : Save => { v with regions := rs }) (hsave _ hdone)

theorem pfailDone_privilege : Does .pfailDone ⟨.sys, 1, []⟩ (fun _ _ g => g.id.pfail = false)
    fun s i g t => t = s.stopsAt i g 1 (.here 0x04 0) := by
  intro s i g h hpfail
  have hb : pfailBody s i g = .trap (.here 0x04 0) := by
    unfold pfailBody
    rw [hpfail]
    rfl
  exact ⟨_, (exec_pfailDone s).trans (runIsa_trap h hb), rfl⟩

/-! ### OM.LATCH (17 R481; 04 R125) -/

/-- A word of the pending set that firmware and the HUD context can write. -/
theorem latchWord_eq {h : Hub} {w : Nat} (hw : w < 8) (h6 : w ≠ 6) (x : Word) : h.latchWord w x =
    { h with latch := h.latch.set w (if w = 7 then x &&& 0xFFFF#32 else x), latchFull := h.latchFull || w == 7 } := by
  unfold Hub.latchWord
  rw [if_neg (by omega)]
  by_cases h7 : w = 7
  · subst h7
    simp
  · simp [h7]

theorem preFault_cond {g : Group} {fam : Fam} {n d : Nat} {ok : Bool} {l : List Chk}
    (h : preFault g ⟨fam, n, .cond ok d :: l⟩ = none) : ok = true := by
  by_contra hno
  have hfail : firstFail g (.cond ok d :: l) = some d := by simp [firstFail, Chk.fails, hno]
  unfold preFault at h
  dsimp only at h
  rw [hfail] at h
  split at h
  · cases h
  · split at h <;> cases h

theorem commitEarly_hub (s : State) (b : Nat) : (s.commitEarly b).hub = s.hub := by
  unfold State.commitEarly
  dsimp only
  split <;> rfl
theorem commitEarly_groups (s : State) (b : Nat) : (s.commitEarly b).groups = s.groups := by
  unfold State.commitEarly
  dsimp only
  split <;> rfl

/-- The hub after OM.LATCH of a context that is the HUD context or is not. -/
def Hub.latchedBy (h : Hub) (mine : Bool) (w : BitVec 3) (x : Word) : Hub := if mine then h.latchWord w.toNat x else h

theorem latchedBy_spec {h : Hub} {w : BitVec 3} (hw : w ≠ 6#3) (hlen : h.latch.length = 8) (mine : Bool) (x : Word) :
    (h.latchedBy mine w x).latchUse = h.latchUse ∧
    (h.latchedBy mine w x).latchFull = (h.latchFull || mine && w == 7#3) ∧
    ∀ n, n < 8 → (h.latchedBy mine w x).latch.getD n 0#32 = if mine = true ∧ n = w.toNat then
      (if w = 7#3 then x &&& 0xFFFF#32 else x) else h.latch.getD n 0#32 := by
  have h6 : w.toNat ≠ 6 := fun h6 => hw (BitVec.eq_of_toNat_eq h6)
  have h7 : (w.toNat = 7) ↔ w = 7#3 := ⟨fun h7 => BitVec.eq_of_toNat_eq h7, fun h7 => by rw [h7]; rfl⟩
  unfold Hub.latchedBy
  cases mine with
  | false => simp
  | true =>
    rw [if_pos rfl, latchWord_eq w.isLt h6]
    refine ⟨rfl, ?_, fun n hn => ?_⟩
    · have hbeq : (w.toNat == 7) = (w == 7#3) := by rw [Bool.eq_iff_iff, beq_iff_eq, beq_iff_eq, h7]
      rw [Bool.true_and, ← hbeq]
    · simp only [h7, true_and, List.getD_eq_getElem?_getD, List.getElem?_set, hlen]
      by_cases hnw : n = w.toNat
      · subst hnw
        simp [w.isLt]
      · rw [if_neg (Ne.symm hnw), if_neg hnw]

/-- The state in which OM.LATCH completes. -/
def State.latched (s : State) (a : BitVec 7) (w : BitVec 3) (g : Group) : State :=
  (s.commitEarly g.id.block).withHub fun h =>
    h.latchedBy (s.hub.hudCtxEn && s.hub.hudCtx == g.id.ctx) w (g.opLane a.toNat 0#32 g.firstAct)

theorem exec_omLatch (a : BitVec 7) (w : BitVec 3) (s : State) : exec (.omLatch a w) s =
    runIsa ⟨.gfx, 1, [.cond (w != 6#3) 6, .vsrc a.toNat false]⟩ (fun s _ g => .done (s.latched a w g)) s := by
  change execOmLatch a w s = _
  unfold execOmLatch
  congr 1
  funext s i g
  unfold State.latched Hub.latchedBy
  dsimp only
  rw [commitEarly_hub]
  split <;> rfl

/-- A group that has completed an instruction which changes nothing of it has passed it. -/
theorem passes_completed (g : Group) (n now : Nat) : Passes g (g.completed n now) n :=
  ⟨⟨completed_regs .., completed_sr .., completed_id .., completed_loc ..⟩, completed_pc g g n now rfl, completed_act ..,
    completed_live .., completed_stack ..⟩

theorem omLatch_writes (a : BitVec 7) (w : BitVec 3) :
    Does (.omLatch a w) ⟨.gfx, 1, [.cond (w != 6#3) 6, .vsrc a.toNat false]⟩ (fun s _ _ => s.hub.latch.length = 8)
      fun s i g t => Passes g (t.group i) 1 ∧
        let mine : Bool := s.hub.hudCtxEn && s.hub.hudCtx == g.id.ctx
        t.hub.latchUse = s.hub.latchUse ∧ t.hub.latchFull = (s.hub.latchFull || mine && w == 7#3) ∧
        ∀ n, n < 8 → t.hub.latch.getD n 0#32 = if mine = true ∧ n = w.toNat then
          (if w = 7#3 then g.opLane a.toNat 0#32 g.firstAct &&& 0xFFFF#32 else g.opLane a.toNat 0#32 g.firstAct)
          else s.hub.latch.getD n 0#32 := by
  intro s i g h hlen
  have hw : w ≠ 6#3 := by simpa using preFault_cond h.legal
  obtain ⟨_, _, _, hblock⟩ := (housekeeping_commitEarly s g.id.block).block g.id.block
  have hgroup : (s.latched a w g).group i = g := (group_congr (commitEarly_groups s _) i).trans h.group
  have hlen' : i < (s.latched a w g).groups.length := (congrArg List.length (commitEarly_groups s _)).symm ▸ h.lt
  have hrun := runIsa_done (body := fun s _ g => .done (s.latched a w g)) h rfl hlen' (by rw [hgroup]; exact h.usage)
    (by rw [hgroup]; exact h.steady) (by change ((s.commitEarly g.id.block).block g.id.block).barP = _; rw [hblock])
  have hhub : ((s.latched a w g).completes i ((s.latched a w g).group i) 1).hub =
      s.hub.latchedBy (s.hub.hudCtxEn && s.hub.hudCtx == g.id.ctx) w (g.opLane a.toNat 0#32 g.firstAct) := by
    change (s.latched a w g).hub = _
    unfold State.latched
    rw [withHub_hub, commitEarly_hub]
  refine ⟨_, (exec_omLatch a w s).trans hrun, ?_, ?_⟩
  · rw [State.completes, group_setGroup hlen', hgroup]
    exact passes_completed g 1 _
  · dsimp only
    rw [hhub]
    exact latchedBy_spec hw hlen _ _

/-- Settles O12: the ends of threads are followed through the barrier and the objects that they leave, and OM.LATCH is
one write of the hub. -/
theorem endsOfThreadsAndLatch : Obligations.EndsOfThreadsAndLatch :=
  ⟨exit_ends, omLatch_writes, pfailDone_ends, pfailDone_privilege⟩

end Sys2Proof.Machine
end

section
/-! PROOFS. CONT.KEY and REPACK (07 R209, R210; 17 R492): the records of captured lanes go home and their entries into
their cell's index; then the lanes leave their group, which changes no index entry. -/
namespace Sys2Proof.Machine
open Sys2Proof

theorem contKey_sets (a : BitVec 7) : Sets (.contKey a) ⟨.cont, 1, [.vsrc a.toNat false]⟩ (fun _ _ => True) fun _ g h =>
    KeepsRest g h ∧ h.regs = g.regs ∧ h.sr = g.sr ∧ GoesOn g h 1 ∧ h.id.tidx = g.id.tidx ∧
    ∀ l, l < 32 → h.id.key.getD l 0#32 = if g.ctl.act.has l then g.opLane a.toNat 0#32 l else g.id.key.getD l 0#32 := by
  intro s i g h _
  let keyed (g : Group) : Group := { g with id := { g.id with
    key := (List.range 32).map fun l => if g.ctl.act.has l then g.opLane a.toNat 0#32 l else g.id.key.getD l 0#32 } }
  refine ⟨_, runIsa_own (f := keyed) h h.usage rfl, _, onlyGroup_setGroup h.lt _, ?_, ?_, ?_, ?_, ?_, fun l hl => ?_⟩
  · constructor <;> simp [keyed]
  · exact completed_regs ..
  · exact completed_sr ..
  · exact ⟨completed_pc g _ _ _ rfl, completed_act .., completed_live .., completed_stack ..⟩
  · rw [completed_id]
  · rw [completed_id]
    simp [keyed, hl]

/-! ### The records of captured lanes (07 R209) -/

/-- Bytes have gone home, and nothing else has happened. -/
structure SentHome (s t : State) : Prop where
  keeps : Housekeeping s t
  home : WritesHome s t

theorem SentHome.refl (s : State) : SentHome s s := ⟨.refl s, .refl s⟩
theorem SentHome.trans {s t u : State} (h : SentHome s t) (k : SentHome t u) : SentHome s u :=
  ⟨h.keeps.trans k.keeps, h.home.trans k.home⟩
theorem SentHome.foldl {α : Type} {step : State → α → State} (h : ∀ s a, SentHome s (step s a)) (l : List α) (s : State) :
    SentHome s (l.foldl step s) :=
  List.foldlRecOn l step (.refl s) fun t ht a _ => ht.trans (h t a)

theorem sentHome_recordWord (s : State) (g : Group) (va : Nat) (x : Word) (p : Option Poison) :
    SentHome s (s.recordWord g va x p) := by
  unfold State.recordWord
  split
  · exact .refl s
  · next t _ =>
    have hw : SentHome s (s.homeWrite (t.phys va) (wordBytes x)) := ⟨housekeeping_homeWrite .., writesHome_homeWrite ..⟩
    dsimp only
    split
    · exact hw.trans ⟨housekeeping_memPoison _ _, ⟨_, _, _, _, _, rfl⟩⟩
    · exact hw

theorem sentHome_writeRecord (s : State) (g : Group) (live : Word) (vals : List (Nat × VVal × Option Poison)) (l : Nat) :
    SentHome s (s.writeRecord g live vals l) := by
  unfold State.writeRecord
  refine SentHome.trans (.foldl (fun s _ => sentHome_recordWord s g _ _ _) _ s) (.foldl (fun s j => ?_) _ _)
  split
  · exact sentHome_recordWord s g _ _ _
  · exact .refl s

/-- Where no register is spilled the values are at hand. -/
theorem liveValues_resident {s : State} {i : Nat} (h : ∀ r, ((s.group i).vreg r).tag = 0) (regs : List Nat) :
    ∃ vals, s.liveValues i regs = .ok (some (s, vals)) := by
  unfold State.liveValues
  refine List.foldlRecOn (motive := fun x => ∃ vals, x = Except.ok (some (s, vals))) regs _ ⟨[], rfl⟩ fun x hx r _ => ?_
  obtain ⟨vals, rfl⟩ := hx
  dsimp only
  rw [if_pos (h r)]
  exact ⟨_, rfl⟩

/-! ### The lanes leave their group (07 R207, R211) -/

/-- The lanes leave their objects and their group; what ends with that raises its late faults. -/
theorem takeOut_parted (s : State) (i : Nat) (m : Lanes) :
    s.takeOut i m = ((s.leaveObjs i (s.group i).asy.subs m).parted i m true).lateFaults i ∨
    s.takeOut i m = (s.leaveObjs i (s.group i).asy.subs m).parted i m true := by
  by_cases h : (((s.leaveObjs i (s.group i).asy.subs m).modGroup i fun g => g.loseLanes m).group i).ctl.live = 0#32
  · exact .inl ((if_pos h).trans (congrArg (State.lateFaults · i) (if_pos h).symm))
  · exact .inr ((if_neg h).trans (if_neg h).symm)

/-- Lanes that leave for their records, no fault outstanding: the blocks and the index entries stay. -/
structure TakesOut (s : State) (i : Nat) (m : Lanes) (t : State) : Prop where
  count : t.groups.length = s.groups.length
  live : (t.group i).ctl.live = (s.group i).ctl.live &&& ~~~m
  skid : (t.group i).trap.skid = (s.group i).trap.skid
  blocks : t.blocks = s.blocks
  index : ∀ c : Nat, (t.cells[c]?).map (·.index) = (s.cells[c]?).map (·.index)

theorem takeOut_takes {s : State} {i : Nat} (hi : i < s.groups.length) (m : Lanes)
    (hfault : ∀ o ∈ (s.group i).asy.deferred ++ (s.group i).asy.ops, o.fault = none) : TakesOut s i m (s.takeOut i m) := by
  have hsig := signals_leaveObjs s i (s.group i).asy.subs m
  have hblocks := leaveObjs_blocks s i (s.group i).asy.subs m
  have hout := takeOut_parted s i m
  revert hsig hblocks hout
  generalize s.leaveObjs i (s.group i).asy.subs m = u
  intro hsig hblocks hout
  have hu : i < u.groups.length := by rw [hsig.count]; exact hi
  obtain ⟨h, ⟨hg, hb, -, hx⟩, hlive, ⟨hskid, hasy, -⟩, -⟩ := parted_loses hu m true
  have hself : (u.parted i m true).group i = h := (group_congr hg i).trans (group_setGroup hu h)
  obtain ⟨_, _, _, _, hui⟩ := hsig.group i
  have hcount : (u.parted i m true).groups.length = s.groups.length := by rw [hg, setGroup_length, hsig.count]
  have hparted : TakesOut s i m (u.parted i m true) :=
    ⟨hcount, by rw [hself, hlive, hui]; rfl, by rw [hself, hskid, hui]; rfl, hb.trans hblocks, fun c => (hx c).trans (hsig.index c)⟩
  rcases hout with hout | hout
  · obtain ⟨_, _, hlate⟩ := lateFaults_of_none (s := u.parted i m true) (i := i) (by rw [hself, hasy, hui]; exact hfault)
    rw [hout, hlate]
    refine ⟨by rw [modGroup_length, hcount], ?_, ?_, hparted.blocks, hparted.index⟩
    · rw [group_modGroup_same (hcount ▸ hi)]
      exact hparted.live
    · rw [group_modGroup_same (hcount ▸ hi)]
      exact hparted.skid
  · rw [hout]
    exact hparted

/-! ### Captures (07 R210) -/

/-- The index entries of captured lanes are appended to those of their cell. -/
def State.indexed (s : State) (cell : Nat) (l : List IndexEntry) : State :=
  s.modCell cell fun c => { c with index := c.index ++ l }

theorem captureRun_takes {s : State} {i : Nat} {g : Group} {live : Word} (hg : s.group i = g) (hcan : g.canCapture s live []) :
    ∃ u, SentHome s u ∧ captureRun s i g live [] true (fun s _ => s) =
      .moved ((u.indexed g.loc.cell (g.ctl.act.toList.map (g.indexEntry (i :: g.asy.heirs) true))).takeOut i g.ctl.act) := by
  obtain ⟨hfault, hpend, htag, -, -⟩ := hcan
  obtain ⟨vals, hvals⟩ := liveValues_resident (s := s) (i := i) (by rw [hg]; exact htag) (liveRegs live)
  refine ⟨g.ctl.act.toList.foldl (fun s l => s.writeRecord g live vals l) s,
    .foldl (fun s l => sentHome_writeRecord s g live vals l) _ s, ?_⟩
  unfold captureRun
  rw [hfault, hpend, hvals]
  rfl

theorem repack_captures (c : BitVec 7) :
    Does (.repack c) ⟨.cont, 1, [.cond (decide (112 ≤ c.toNat ∧ c.toNat ≤ 119)) c.toNat]⟩
      (fun s _ g => g.canCapture s (g.sreg (c.toNat - 112)) []) fun s i g t => Captured s t i g true := by
  intro s i g h hcan
  obtain ⟨u, ⟨hkeep, hhome⟩, hrun⟩ := captureRun_takes h.group hcan
  obtain ⟨-, -, -, hnone, hcell⟩ := hcan
  generalize he : g.ctl.act.toList.map (g.indexEntry (i :: g.asy.heirs) true) = entries at hrun
  have hgroup : (u.indexed g.loc.cell entries).group i = u.group i := rfl
  obtain ⟨_, hui⟩ := hkeep.group i
  rw [h.group] at hui
  obtain ⟨hcount, hlive, hskid, hblocks, hindex⟩ := takeOut_takes (s := u.indexed g.loc.cell entries) (i := i)
    (by rw [State.indexed, modCell_groups, hkeep.groupCount]; exact h.lt) g.ctl.act (by rw [hgroup, hui]; exact hnone)
  rw [hgroup, hui] at hlive hskid
  obtain ⟨_, _, _, hbar⟩ := hkeep.block g.id.block
  have hi : i < ((u.indexed g.loc.cell entries).takeOut i g.ctl.act).groups.length := by
    rw [hcount, State.indexed, modCell_groups, hkeep.groupCount]
    exact h.lt
  refine ⟨_, runIsa_moved h hrun hi (hskid.trans h.steady) ?_, ?_, fun x hx => ?_⟩
  · rw [block_congr hblocks, State.indexed, block_congr (modCell_blocks ..), hbar]
  · rw [group_modGroup_same hi]
    exact hlive
  · have hcells : u.cells = s.cells := by
      obtain ⟨_, _, _, _, _, rfl⟩ := hhome
      rfl
    have hthere := hindex g.loc.cell
    rw [State.indexed, modCell_cells, getElem?_modifyAt, if_pos rfl, hcells, hx] at hthere
    obtain ⟨x', hx', hsame⟩ := Option.map_eq_some_iff.mp hthere
    exact ⟨x', hx', hsame.trans (by rw [← he]; rfl)⟩

/-- Settles O36: CONT.KEY is an action on its group alone, and REPACK's capture is followed through the records, the
index and the lanes that leave. -/
theorem continuations : Obligations.Continuations := ⟨contKey_sets, repack_captures⟩

end Sys2Proof.Machine
end

section
/-! PROOFS. The bytes that a write-back sends home (09 R249): of a dirty line without uncommitted bytes those that are
dirty, run by run, and no byte of another line. -/
namespace Sys2Proof.Machine
open Sys2Proof

/-! ### A line's runs (09 R249) -/

/-- After its first `n` bytes have been looked at: the memory holds those up to the run that is being gathered, and the
run's bytes are dirty and as the cell cache has them. -/
structure RunsHome (s : State) (w : Window) (l : Nat) (m : BitVec 128) (n : Nat) (x : State × Nat × List Byte) : Prop where
  wf : x.1.mem.wf = true
  run : x.2.2 ≠ [] → x.2.1 + x.2.2.length = n
  bytes : ∀ j, j < x.2.2.length → m.getLsbD (x.2.1 + j) = true ∧ x.2.2.getD j 0#8 = w.cache.get (l * 128 + (x.2.1 + j))
  home : ∀ a, x.1.mem.get a = if l * 128 ≤ a ∧ a < l * 128 + (if x.2.2 = [] then n else x.2.1) ∧
    m.getLsbD (a - l * 128) = true then w.cache.get a else s.mem.get a

/-- The memory once the run that is being gathered has been written. -/
def runWritten (l : Nat) (x : State × Nat × List Byte) : State :=
  if x.2.2.isEmpty then x.1 else x.1.homeWrite (l * 128 + x.2.1) x.2.2

theorem RunsHome.written {s : State} {w : Window} {l : Nat} {m : BitVec 128} {n : Nat} {x : State × Nat × List Byte}
    (h : RunsHome s w l m n x) : (runWritten l x).mem.wf = true ∧ ∀ a, (runWritten l x).mem.get a =
      if l * 128 ≤ a ∧ a < l * 128 + n ∧ m.getLsbD (a - l * 128) = true then w.cache.get a else s.mem.get a := by
  obtain ⟨hwf, hrun, hbytes, hhome⟩ := h
  unfold runWritten
  by_cases he : x.2.2 = []
  · rw [if_pos (by simp [he])]
    simp only [he, if_pos] at hhome
    exact ⟨hwf, hhome⟩
  · rw [if_neg (by simpa using he), homeWrite_mem]
    have hn := hrun he
    refine ⟨Mem.wf_put hwf _ _, fun a => ?_⟩
    rw [Mem.get_put hwf, hhome, if_neg he]
    by_cases hin : l * 128 + x.2.1 ≤ a ∧ a < l * 128 + x.2.1 + x.2.2.length
    · obtain ⟨hbit, hval⟩ := hbytes (a - (l * 128 + x.2.1)) (by omega)
      rw [show x.2.1 + (a - (l * 128 + x.2.1)) = a - l * 128 by omega] at hbit hval
      rw [if_pos hin, if_pos ⟨by omega, by omega, hbit⟩, hval]
      congr 1
      omega
    · rw [if_neg hin]
      congr 1
      simp only [eq_iff_iff]
      constructor
      · exact fun ⟨h1, h2, h3⟩ => ⟨h1, by omega, h3⟩
      · exact fun ⟨h1, h2, h3⟩ => ⟨h1, by omega, h3⟩

theorem runsHome_step {s : State} {w : Window} {l : Nat} {m : BitVec 128} {n : Nat} {x : State × Nat × List Byte}
    (h : RunsHome s w l m n x) : RunsHome s w l m (n + 1) (homeRunStep w l m x n) := by
  obtain ⟨hwwf, hwritten⟩ := h.written
  obtain ⟨hwf, hrun, hbytes, hhome⟩ := h
  unfold homeRunStep
  by_cases hbit : (decide (n < 128) && m.getLsbD n) = true
  · have hm : m.getLsbD n = true := (Bool.and_eq_true _ _ ▸ hbit).2
    by_cases hgather : (!(n % 32 == 0 && !x.2.2.isEmpty)) = true
    · rw [if_pos (by rw [hbit, hgather]; rfl)]
      by_cases he : x.2.2 = []
      · simp only [he, List.isEmpty_nil, if_pos, List.nil_append] at hhome ⊢
        exact ⟨hwf, fun _ => rfl, fun j hj => by
          obtain rfl : j = 0 := by simpa using hj
          exact ⟨hm, rfl⟩, fun a => by simpa using hhome a⟩
      · have hne : x.2.2.isEmpty = false := by simpa using he
        have hn := hrun he
        simp only [hne, Bool.false_eq_true, if_false]
        refine ⟨hwf, fun _ => by simp; omega, fun j hj => ?_, fun a => ?_⟩
        · rw [List.length_append, List.length_singleton] at hj
          by_cases hlast : j = x.2.2.length
          · subst hlast
            rw [hn]
            exact ⟨hm, by simp [List.getD_eq_getElem?_getD]⟩
          · obtain ⟨h1, h2⟩ := hbytes j (by omega)
            exact ⟨h1, by rw [List.getD_append _ _ _ _ (by omega), h2]⟩
        · have hne' : x.2.2 ++ [w.cache.get (l * 128 + n)] ≠ [] := List.append_ne_nil_of_right_ne_nil _ (List.cons_ne_nil _ _)
          refine (hhome a).trans ?_
          dsimp only
          rw [if_neg he, if_neg hne']
    · rw [if_neg (by rw [hbit]; simpa using hgather), if_pos hbit]
      exact ⟨hwwf, fun _ => rfl, fun j hj => by
        obtain rfl : j = 0 := by simpa using hj
        exact ⟨hm, rfl⟩, fun a => (hwritten a).trans (by rw [if_neg (List.cons_ne_nil _ _)])⟩
  · rw [if_neg (by simp only [Bool.not_eq_true] at hbit; rw [hbit]; simp), if_neg hbit]
    have hm : m.getLsbD n = false := by
      by_cases hn : n < 128
      · simpa [hn] using hbit
      · exact BitVec.getLsbD_of_ge m n (by omega)
    refine ⟨hwwf, fun hne => absurd rfl hne, fun j hj => absurd hj (by simp), fun a => ?_⟩
    refine (hwritten a).trans ?_
    rw [if_pos rfl]
    congr 1
    simp only [eq_iff_iff]
    constructor
    · exact fun ⟨h1, h2, h3⟩ => ⟨h1, by omega, h3⟩
    · rintro ⟨h1, h2, h3⟩
      refine ⟨h1, ?_, h3⟩
      by_contra hge
      rw [show a - l * 128 = n by omega, hm] at h3
      cases h3

/-- A line's dirty bytes are home, and no other byte has changed. -/
theorem mem_homeRuns {s : State} (hs : s.mem.wf = true) (w : Window) (l : Nat) (m : BitVec 128) :
    (homeRuns s w l m).mem.wf = true ∧ ∀ a, (homeRuns s w l m).mem.get a =
      if l * 128 ≤ a ∧ m.getLsbD (a - l * 128) = true then w.cache.get a else s.mem.get a := by
  have hall (n : Nat) : RunsHome s w l m n ((List.range n).foldl (homeRunStep w l m) (s, 0, [])) := by
    induction n with
    | zero => exact ⟨hs, fun h => absurd rfl h, fun j hj => absurd hj (by simp), fun a => by
        rw [if_neg]
        · rfl
        · rintro ⟨h1, h2, -⟩
          simp at h2
          omega⟩
    | succ n ih =>
      rw [List.range_succ, List.foldl_append]
      exact runsHome_step ih
  have hlast : ((List.range 129).foldl (homeRunStep w l m) (s, 0, [])).2.2 = [] := by
    rw [List.range_succ, List.foldl_append]
    rfl
  obtain ⟨hwf, -, -, hhome⟩ := hall 129
  rw [homeRuns_eq]
  refine ⟨hwf, fun a => (hhome a).trans ?_⟩
  rw [hlast, if_pos rfl]
  congr 1
  simp only [eq_iff_iff]
  constructor
  · exact fun ⟨h1, _, h3⟩ => ⟨h1, h3⟩
  · rintro ⟨h1, h3⟩
    refine ⟨h1, ?_, h3⟩
    have := BitVec.lt_of_getLsbD h3
    omega

/-! ### Write-backs (09 R249, R250) -/

/-- A byte that the write-back of a line sends home: it is dirty, and the line holds no uncommitted byte. -/
def State.goesHome (s : State) (part cell l a : Nat) : Prop :=
  ∃ x, (s.window part cell).line? l = some x ∧ x.uncommitted = 0#128 ∧ l * 128 ≤ a ∧ x.dirty.getLsbD (a - l * 128) = true

theorem mem_writeBack {s : State} (hs : s.mem.wf = true) (part cell l : Nat) : (s.writeBack part cell l).mem.wf = true ∧
    ∀ a, (s.goesHome part cell l a → (s.writeBack part cell l).mem.get a = (s.window part cell).cache.get a) ∧
      (¬s.goesHome part cell l a → (s.writeBack part cell l).mem.get a = s.mem.get a) := by
  by_cases hno : ∀ x, (s.window part cell).line? l = some x → x.dirty = 0#128 ∨ x.uncommitted ≠ 0#128
  · rw [writeBack_of_not hno]
    refine ⟨hs, fun a => ⟨fun ⟨x, hx, hu, _, hd⟩ => ?_, fun _ => rfl⟩⟩
    rcases hno x hx with h | h
    · rw [h] at hd
      simp at hd
    · exact absurd hu h
  · push Not at hno
    obtain ⟨x, hx, hd, hu⟩ := hno
    obtain ⟨poison, hw⟩ := writeBack_of_dirty hx hd hu
    obtain ⟨hwf, hget⟩ := mem_homeRuns hs (s.window part cell) l x.dirty
    have hmem : (s.writeBack part cell l).mem = (homeRuns s (s.window part cell) l x.dirty).mem := by
      rw [hw, modWindow_mem]
    rw [hmem]
    refine ⟨hwf, fun a => ⟨fun ⟨y, hy, _, hle, hbit⟩ => ?_, fun hnot => ?_⟩⟩
    · obtain rfl := Option.some.inj (hx.symm.trans hy)
      rw [hget, if_pos ⟨hle, hbit⟩]
    · rw [hget, if_neg fun ⟨hle, hbit⟩ => hnot ⟨x, hx, hu, hle, hbit⟩]

/-- The byte of a line that goes home lies in that line. -/
theorem goesHome_line {s : State} {part cell l a : Nat} (h : s.goesHome part cell l a) : a / 128 = l := by
  obtain ⟨x, _, _, hle, hbit⟩ := h
  have := BitVec.lt_of_getLsbD hbit
  omega

/-! ### Lines that are drained (09 R250; 05 R141) -/

/-- The numbers of the lines that a cell cache holds. -/
def State.lineNumbers (s : State) (part cell : Nat) : List Nat := (s.window part cell).lines.map (·.line)

theorem goesHome_held {s : State} {part cell l a : Nat} (h : s.goesHome part cell l a) : a / 128 ∈ s.lineNumbers part cell := by
  rw [goesHome_line h]
  obtain ⟨x, hx, -⟩ := h
  exact List.mem_map.mpr ⟨x, List.mem_of_find?_eq_some hx, by simpa using List.find?_some hx⟩

/-- A change of every window that leaves each its key and its lines' numbers. -/
theorem lineNumbers_map {f : Window → Window}
    (hf : ∀ w, (f w).part = w.part ∧ (f w).cell = w.cell ∧ (f w).lines.map (·.line) = w.lines.map (·.line)) {s t : State}
    (h : t.windows = s.windows.map f) (part cell : Nat) : t.lineNumbers part cell = s.lineNumbers part cell := by
  unfold State.lineNumbers
  rw [window_eq, window_eq, h, find?_map_isOf fun w => ⟨(hf w).1, (hf w).2.1⟩]
  cases s.windows.find? (Window.isOf part cell) with
  | none => rfl
  | some w => exact (hf w).2.2

theorem map_line_map {f : CLine → CLine} (hf : ∀ y, (f y).line = y.line) (l : List CLine) :
    (l.map f).map (·.line) = l.map (·.line) := by
  rw [List.map_map]
  exact List.map_congr_left fun y _ => hf y

theorem lineNumbers_commitLines (s : State) (b part cell : Nat) :
    (s.commitLines b).lineNumbers part cell = s.lineNumbers part cell := by
  refine lineNumbers_map (fun w => ?_) rfl part cell
  split
  · refine ⟨rfl, rfl, map_line_map (fun y => ?_) _⟩
    split <;> rfl
  · exact ⟨rfl, rfl, rfl⟩

theorem lineNumbers_writeBack (s : State) (p c k part cell : Nat) :
    (s.writeBack p c k).lineNumbers part cell = s.lineNumbers part cell := by
  by_cases hno : ∀ x, (s.window p c).line? k = some x → x.dirty = 0#128 ∨ x.uncommitted ≠ 0#128
  · rw [writeBack_of_not hno]
  · push Not at hno
    obtain ⟨x, hx, hd, hu⟩ := hno
    unfold State.lineNumbers
    rw [window_writeBack_of_dirty hx hd hu]
    split
    · refine map_line_map (fun y => ?_) _
      split <;> rfl
    · rfl

/-- What has become of memory: it is in canonical form, a byte that lies in none of the lines held is as it was, and the
same lines are held. -/
structure HeldOnly (s t : State) (a : Nat) : Prop where
  wf : t.mem.wf = true
  get : t.mem.get a = s.mem.get a
  lines : ∀ p c, t.lineNumbers p c = s.lineNumbers p c

/-- Lines drained from a cell cache which does not hold the line of a byte leave that byte. -/
theorem heldOnly_drainLines {s : State} (hs : s.mem.wf = true) {part cell a : Nat} (ha : a / 128 ∉ s.lineNumbers part cell)
    (ls : List Nat) : HeldOnly s (s.drainLines part cell ls) a := by
  refine List.foldlRecOn (motive := fun t : State => HeldOnly s t a) ls _ ⟨hs, rfl, fun _ _ => rfl⟩ fun t ht l _ => ?_
  obtain ⟨hwf, hget, hlines⟩ := ht
  obtain ⟨hwf', hmem⟩ := mem_writeBack hwf part cell l
  refine ⟨hwf', ((hmem a).2 fun h => ha ?_).trans hget, fun p c => (lineNumbers_writeBack t part cell l p c).trans (hlines p c)⟩
  rw [← hlines]
  exact goesHome_held h

/-- The same for the caches of several cells. -/
theorem heldOnly_drainCells {s : State} (hs : s.mem.wf = true) {part a : Nat} {cells : List Nat}
    (ha : ∀ c ∈ cells, a / 128 ∉ s.lineNumbers part c) :
    HeldOnly s (cells.foldl (fun s' c => s'.drainLines part c (allFifoLines (s'.window part c).fifo)) s) a := by
  refine List.foldlRecOn (motive := fun t : State => HeldOnly s t a) cells _ ⟨hs, rfl, fun _ _ => rfl⟩ fun t ht c hc => ?_
  obtain ⟨hwf, hget, hlines⟩ := ht
  obtain ⟨hwf', hget', hlines'⟩ := heldOnly_drainLines (part := part) (cell := c) (a := a) hwf (by rw [hlines]; exact ha c hc)
    (allFifoLines (t.window part c).fifo)
  exact ⟨hwf', hget'.trans hget, fun p c => (hlines' p c).trans (hlines p c)⟩

end Sys2Proof.Machine
end

section
/-! PROOFS. The block barrier (07 R202; 13 R350; 05 R141): arrivals, the phase that they complete or wait for, and drops.
Of its own group a form changes nothing but its place, and of memory no byte but those of dirty lines that a completion
under rollback writes home. -/
namespace Sys2Proof.Machine
open Sys2Proof

/-! ### What a form of the barrier leaves of its group -/

/-- From `g` to `h` nothing has changed that an instruction's end looks at, but that a wake has been noted. -/
structure AtRest (g h : Group) : Prop where
  same : SameRegs g h
  ctl : ∃ hit, h.ctl = { g.ctl with wakeHit := hit }
  skid : h.trap.skid = g.trap.skid
  gates : h.asy.gates = g.asy.gates

theorem AtRest.trans {g h k : Group} (p : AtRest g h) (q : AtRest h k) : AtRest g k := by
  obtain ⟨⟨h1, h2, h3, h4⟩, ⟨_, h5⟩, h6, h7⟩ := p
  obtain ⟨⟨k1, k2, k3, k4⟩, ⟨_, k5⟩, k6, k7⟩ := q
  exact ⟨⟨k1.trans h1, k2.trans h2, k3.trans h3, k4.trans h4⟩, ⟨_, by rw [k5, h5]⟩, k6.trans h6, k7.trans h7⟩

theorem Signals.atRest {s t : State} (h : Signals s t) (i : Nat) : AtRest (s.group i) (t.group i) := by
  obtain ⟨_, _, _, _, hi⟩ := h.group i
  rw [hi]
  exact ⟨⟨rfl, rfl, rfl, rfl⟩, ⟨_, rfl⟩, rfl, rfl⟩

theorem AtRest.passes {g h : Group} (p : AtRest g h) (n now : Nat) : Passes g (h.completed n now) n := by
  obtain ⟨⟨hregs, hsr, hid, hloc⟩, ⟨hit, hctl⟩, -, -⟩ := p
  have hnext : h.nextPc n = g.nextPc n := by
    unfold Group.nextPc
    rw [hctl]
  refine ⟨⟨by rw [completed_regs, hregs], by rw [completed_sr, hsr], by rw [completed_id, hid], by rw [completed_loc, hloc]⟩,
    ?_, ?_, ?_, ?_⟩
  · rw [completed_pc h h n now rfl, hnext]
  · rw [completed_act, hctl]
  · rw [completed_live, hctl]
  · rw [completed_stack, hctl]

theorem AtRest.waits {g h : Group} (p : AtRest g h) (w : Wake) : Waits g (h.blockOn w) w := by
  obtain ⟨⟨hregs, hsr, hid, hloc⟩, ⟨hit, hctl⟩, -, -⟩ := p
  unfold Group.blockOn
  refine ⟨⟨hregs, hsr, hid, hloc⟩, ?_, ?_, ?_, ?_, rfl⟩
  all_goals rw [withCtl_ctl, hctl]

/-- The state after it holds memory, windows and blocks as `t` does, but for the shadow of the group's block. -/
structure Leaves (t u : State) : Prop where
  mem : u.mem = t.mem
  windows : u.windows = t.windows
  block : ∀ x, ∃ h, u.block x = { t.block x with shadow := h }

theorem Leaves.sameMem {s t u : State} (h : Leaves t u) (k : SameMem s t) : SameMem s u :=
  ⟨fun a => by rw [h.mem]; exact k.home a, fun p c a => by rw [window_congr h.windows]; exact k.store p c a⟩

section
variable {s t : State} {i : Nat} {g : Group} {ins : Instr} {body : State → Nat → Group → Res}

/-- A form that completes. -/
theorem bar_passes (hx : exec ins s = runIsa ⟨.bar, 1, []⟩ body s) (h : Ready s i g ⟨.bar, 1, []⟩) (hb : body s i g = .done t)
    (hc : t.groups.length = s.groups.length) (hr : AtRest g (t.group i)) :
    ∃ u, exec ins s = .next u ∧ Passes g (u.group i) 1 ∧ Leaves t u := by
  have hi : i < t.groups.length := hc ▸ h.lt
  obtain ⟨⟨hregs, -, hid, -⟩, -, hskid, -⟩ := id hr
  have hroom : (t.group i).usage ≤ (t.group i).entryBudget := by
    have hu := h.usage
    unfold Group.usage Group.entryBudget at hu ⊢
    rw [hregs, hid]
    exact hu
  have hrun := runIsa_done_shadow h hb hi hroom (hskid.trans h.steady)
  refine ⟨_, hx.trans hrun, ?_, shadowAfter_mem .., shadowAfter_windows .., fun x => ?_⟩
  · rw [group_congr (shadowAfter_groups ..), State.completes, group_setGroup hi]
    exact hr.passes 1 _
  · obtain ⟨k, hk⟩ := shadowAfter_block (t.completes i (t.group i) 1) i g.id.block (s.block g.id.block).barP x
    exact ⟨k, hk⟩

/-- A form that waits. -/
theorem bar_waits {w : Wake} (hx : exec ins s = runIsa ⟨.bar, 1, []⟩ body s) (h : Ready s i g ⟨.bar, 1, []⟩)
    (hb : body s i g = .block t w) (hc : t.groups.length = s.groups.length) (hr : AtRest g (t.group i))
    (hbar : (t.block g.id.block).barP = (s.block g.id.block).barP) :
    ∃ u, exec ins s = .next u ∧ Waits g (u.group i) w ∧ Leaves t u := by
  have hi : i < t.groups.length := hc ▸ h.lt
  have hgate : (t.group i).inGate = false := by
    have hp : (g.inGate && !gateOk .bar) = false := h.permitted
    unfold Group.inGate at hp ⊢
    rw [hr.gates]
    simpa [gateOk] using hp
  refine ⟨_, hx.trans (runIsa_block h hb hi hgate (hr.skid.trans h.steady) hbar), ?_, rfl, rfl, fun x => ⟨_, rfl⟩⟩
  rw [group_setGroup hi]
  exact hr.waits w

end

/-! ### Releases and acquires of arrivals (09 R247, R251, R267) -/

theorem publishGroup_frame (s : State) (i : Nat) : ∃ blocks, s.publishGroup i = { s with blocks := blocks } := by
  have hpub (t : State) (b c : Nat) (sel : RaceTag → Bool) : ∃ blocks, t.publish b c sel = { t with blocks := blocks } := ⟨_, rfl⟩
  unfold State.publishGroup
  obtain ⟨l, hl⟩ := hpub s (s.group i).id.block (s.group i).loc.cell _
  dsimp only
  rw [hl]
  refine List.foldlRecOn (motive := fun t : State => ∃ blocks, t = { s with blocks := blocks }) _ _ ⟨_, rfl⟩ fun t ht c _ => ?_
  obtain ⟨l, rfl⟩ := ht
  exact hpub _ _ c _

/-- A release that goes on has published the group's writes. -/
theorem releaseOnly_publishes {s r : State} {i : Nat} (h : s.releaseOnly i 1 = .ok r) : r = s.publishGroup i := by
  unfold State.releaseOnly at h
  dsimp only at h
  rw [if_neg (by decide)] at h
  split at h
  · exact (Except.ok.inj h).symm
  · split at h
    · exact (Except.ok.inj h).symm
    · split at h <;> cases h

/-- An acquire changes the issuing group's view and the lines of its cell cache, and no byte of a memory. -/
structure Acquires (s t : State) : Prop where
  count : t.groups.length = s.groups.length
  group : ∀ i, AtRest (s.group i) (t.group i)
  blocks : t.blocks = s.blocks
  mem : t.mem = s.mem
  store : ∀ p c, (t.window p c).mem = (s.window p c).mem

theorem acquire_acquires (s : State) (i : Nat) : Acquires s (s.acquire i 1) := by
  have hrace : Acquires s (s.acquireRace i) := by
    refine ⟨modGroup_length .., fun j => ?_, rfl, rfl, fun _ _ => rfl⟩
    unfold State.acquireRace
    dsimp only
    rw [group_modGroup]
    split
    · next h => rw [h.1]; exact ⟨⟨rfl, rfl, rfl, rfl⟩, ⟨_, rfl⟩, rfl, rfl⟩
    · exact ⟨⟨rfl, rfl, rfl, rfl⟩, ⟨_, rfl⟩, rfl, rfl⟩
  unfold State.acquire
  dsimp only
  rw [if_neg (by decide)]
  split
  · obtain ⟨hcount, hgroup, hblocks, hmem, hstore⟩ := hrace
    have hkeep := housekeeping_modWindow (f := fun w =>
      let kept := w.lines.map fun y => if y.uncommitted = 0#128 then { y with valid := y.valid &&& y.dirty } else y
      { w with
        tex := []
        lines := kept.filter fun y => y.valid != 0#128
        cache := w.cache.filter fun c => kept.any fun y => y.line == c.1 / 128 && y.valid.getLsbD (c.1 % 128)
        cachePoison := w.cachePoison.filter fun p =>
          kept.any fun y => y.line == p.1 / 128 && (y.valid &&& byteMask (p.1 % 128) 32) != 0#128 })
      (fun _ => ⟨rfl, rfl, rfl⟩) (s.acquireRace i) (s.partOf (s.group i)) (s.group i).loc.cell
    exact ⟨hkeep.groupCount.trans hcount, fun j => by
        rw [group_congr (t := State.markStale _ _ _) (modWindow_groups ..)]; exact hgroup j,
      (modWindow_blocks ..).trans hblocks, (modWindow_mem ..).trans hmem, fun p c => (hkeep.store p c).trans (hstore p c)⟩
  · exact hrace

theorem Acquires.sameMem {s t : State} (h : Acquires s t) : SameMem s t :=
  ⟨fun a => by rw [h.mem], fun p c a => by rw [h.store]⟩

/-! ### Arrivals and drops (07 R202, R203) -/

/-- Threads that have neither dropped nor arrived arrive, each once. -/
theorem arrive_fresh {g : Group} {l : List Nat} : ∀ {x : Block}, (l.map g.thread).Nodup →
    (∀ j ∈ l, g.thread j ∉ x.dropped ∧ g.thread j ∉ x.arrived) → ∃ arrived last,
      x.arrive g l = ({ x with barA := x.barA + l.length, arrived := arrived, lastphase := last }, []) ∧
      ∀ t, t ∈ arrived ↔ t ∈ l.map g.thread ∨ t ∈ x.arrived := by
  induction l with
  | nil => exact fun {x} _ _ => ⟨x.arrived, x.lastphase, rfl, fun t => by simp⟩
  | cons j l ih =>
    intro x hn hfresh
    rw [List.map_cons, List.nodup_cons] at hn
    obtain ⟨hd, ha⟩ := hfresh j List.mem_cons_self
    obtain ⟨arrived, last, hrest, hmem⟩ := ih (x := { x with
      barA := x.barA + 1, arrived := g.thread j :: x.arrived
      lastphase := (g.thread j, x.barP) :: x.lastphase.filter fun y => y.1 != g.thread j }) hn.2 fun k hk => by
        obtain ⟨hkd, hka⟩ := hfresh k (List.mem_cons_of_mem _ hk)
        refine ⟨hkd, fun h => ?_⟩
        rcases List.mem_cons.mp h with h | h
        · exact hn.1 (h ▸ List.mem_map_of_mem hk)
        · exact hka h
    refine ⟨arrived, last, ?_, fun t => ?_⟩
    · unfold Block.arrive at hrest ⊢
      rw [List.foldl_cons]
      dsimp only
      rw [if_neg (by simp [hd, ha]), hrest, List.length_cons, Nat.add_comm l.length, Nat.add_assoc]
    · rw [hmem, List.map_cons, List.mem_cons, List.mem_cons]
      tauto

/-- Threads that have neither dropped nor arrived drop, each once. -/
theorem drop_fresh {ts : List (Nat × Nat)} : ∀ {x : Block}, ts.Nodup → (∀ t ∈ ts, t ∉ x.dropped ∧ t ∉ x.arrived) →
    ∃ arrived dropped, ts.foldl Block.drop x = { x with
      arrived := arrived, dropped := dropped, barE := x.barE - ts.length } := by
  induction ts with
  | nil => exact fun {x} _ _ => ⟨x.arrived, x.dropped, rfl⟩
  | cons t ts ih =>
    intro x hn hfresh
    rw [List.nodup_cons] at hn
    obtain ⟨hd, ha⟩ := hfresh t List.mem_cons_self
    have hdrop : x.drop t = { x with
        arrived := x.arrived.filter fun y => y != t, dropped := t :: x.dropped, barE := x.barE - 1 } := by
      unfold Block.drop
      rw [if_neg (by simpa using hd), if_neg (by simpa using ha)]
    obtain ⟨arrived, dropped, hrest⟩ := ih (x := x.drop t) hn.2 fun u hu => by
      obtain ⟨hud, hua⟩ := hfresh u (List.mem_cons_of_mem _ hu)
      rw [hdrop]
      exact ⟨fun h => (List.mem_cons.mp h).elim (fun e => hn.1 (e ▸ hu)) hud, fun h => hua (List.mem_filter.mp h).1⟩
    refine ⟨arrived, dropped, ?_⟩
    rw [List.foldl_cons, hrest, hdrop, List.length_cons, Nat.sub_sub, Nat.add_comm 1]

/-- The active lanes' threads have been counted as arrived in their block, before its completion is tested. -/
structure Arrives (s : State) (g : Group) (u : State) : Prop where
  signals : Signals s u
  blockCount : u.blocks.length = s.blocks.length
  block : ∃ arrived early rs tags last, u.block g.id.block = { s.block g.id.block with
      barA := (s.block g.id.block).barA + g.ctl.act.toList.length, arrived := arrived, early := early, rs := rs, tags := tags
      lastphase := last } ∧ ∀ l ∈ g.ctl.act.toList, g.thread l ∈ arrived
  mem : u.mem = s.mem
  windows : u.windows = s.windows
  done : u.readsDone g.id.block = s.readsDone g.id.block

theorem readsDone_congr {s t : State} {b : Nat} (hg : t.groups = s.groups) (ha : t.atoms = s.atoms)
    (hf : (t.block b).fdom = (s.block b).fdom) (hr : (t.block b).rollPending = (s.block b).rollPending) :
    t.readsDone b = s.readsDone b := by
  unfold State.readsDone
  rw [hf, hr, hg, ha]
  simp only [group_congr hg]

/-- The active lanes counted in their block. -/
def State.arrivedAt (s : State) (g : Group) : State :=
  s.modBlock g.id.block fun _ => ((s.block g.id.block).arrive g g.ctl.act.toList).1

/-- BAR and BAR.ARRIVE release, and count the active lanes. -/
theorem barArrive_arrives {s : State} {i : Nat} {g : Group} {r : State} (hrel : s.releaseOnly i 1 = .ok r)
    (harr : arrivals s g) : ∃ u, Arrives s g u ∧ r.barArrive i g = (u.barComplete g.id.block, 0#32) ∧
      (r.block g.id.block).barP = (s.block g.id.block).barP := by
  obtain ⟨hb, hn, hfresh⟩ := harr
  have hkeep : Housekeeping s r := releaseOnly_publishes hrel ▸ housekeeping_publishGroup s i
  obtain ⟨_, hr⟩ : ∃ blocks, r = { s with blocks := blocks } := releaseOnly_publishes hrel ▸ publishGroup_frame s i
  obtain ⟨early, rs, tags, hblock⟩ := hkeep.block g.id.block
  obtain ⟨arrived, last, harrive, hmem⟩ := arrive_fresh (x := r.block g.id.block) hn (by rw [hblock]; exact hfresh)
  have hself : (r.arrivedAt g).block g.id.block = _ := block_modBlock_same (by rw [hkeep.blockCount]; exact hb) _
  rw [harrive, hblock] at hself
  refine ⟨r.arrivedAt g, ⟨?_, ?_, ⟨arrived, early, rs, tags, last, hself, fun l hl => (hmem _).mpr (.inl (List.mem_map_of_mem hl))⟩,
    ?_, ?_, readsDone_congr ?_ ?_ (by rw [hself]) (by rw [hself])⟩, ?_⟩
  · exact .of_eq (by rw [hr]; rfl) (by rw [hr]; rfl) (by rw [hr]; rfl)
  · exact (length_modifyAt ..).trans hkeep.blockCount
  · rw [hr]; rfl
  · rw [hr]; rfl
  · rw [hr]; rfl
  · rw [hr]; rfl
  · refine ⟨?_, by rw [hblock]⟩
    have hbad : ((r.block g.id.block).arrive g g.ctl.act.toList).2 = [] := by rw [harrive]
    change (_, Lanes.ofFn 32 fun l => ((r.block g.id.block).arrive g g.ctl.act.toList).2.contains l) = _
    rw [hbad]
    rfl

/-- An arrival's action goes on where its release does. -/
theorem barReleased_ok {s r : State} {i : Nat} (h : s.releaseOnly i 1 = .ok r) (k : State → Res) : barReleased s i true k = k r := by
  unfold barReleased
  rw [if_pos rfl, h]

/-! ### A phase that completes (07 R202; 05 R141) -/

/-- The phase of block `b` has completed; of memory only dirty lines have gone home, under rollback in a block on more than
one cell. -/
structure Completes (s : State) (b : Nat) (t : State) : Prop where
  barP : (t.block b).barP = (s.block b).barP + 1
  barA : (t.block b).barA = 0
  arrived : (t.block b).arrived = []
  store : ∀ p c, (t.window p c).mem = (s.window p c).mem
  still : (s.block b).fdom ≠ .rollback ∨ (s.block b).cells.length ≤ 1 → t.mem = s.mem
  held : ∀ a, (∀ c ∈ (s.block b).cells, a / 128 ∉ s.lineNumbers (s.block b).part c) → t.mem.get a = s.mem.get a

/-- Of its block it speaks of the phase and the arrivals, and of memory of the bytes. -/
theorem Completes.congr {s t u : State} {b : Nat} (h : Completes s b t) (hb : ∃ k, u.block b = { t.block b with shadow := k })
    (hm : u.mem = t.mem) (hw : ∀ p c, (u.window p c).mem = (t.window p c).mem) : Completes s b u := by
  obtain ⟨hp, ha, hr, hs, hstill, hheld⟩ := h
  obtain ⟨_, hb⟩ := hb
  exact ⟨by rw [hb]; exact hp, by rw [hb]; exact ha, by rw [hb]; exact hr, fun p c => (hw p c).trans (hs p c),
    fun h => hm.trans (hstill h), fun a ha => by rw [hm]; exact hheld a ha⟩

theorem takeShadow_store (s : State) (b : Nat) : (s.takeShadow b).mem = s.mem ∧ (s.takeShadow b).windows = s.windows := by
  unfold State.takeShadow
  dsimp only
  split <;> exact ⟨rfl, rfl⟩

theorem mem_barHome_still {s : State} {b : Nat} (h : (s.block b).fdom ≠ .rollback ∨ (s.block b).cells.length ≤ 1) :
    (s.barHome b).mem = s.mem := by
  have hno : ((s.block b).fdom == .rollback && decide (1 < (s.block b).cells.length)) = false := by
    rcases h with h | h
    · simp [h]
    · simp [Nat.not_lt.mpr h]
  unfold State.barHome
  dsimp only
  rw [hno, if_neg Bool.false_ne_true]
  split <;> rfl

theorem mem_barHome_held {s : State} (hs : s.mem.wf = true) {b a : Nat}
    (h : ∀ c ∈ (s.block b).cells, a / 128 ∉ s.lineNumbers (s.block b).part c) : (s.barHome b).mem.get a = s.mem.get a := by
  unfold State.barHome
  dsimp only
  split
  · split
    · exact (heldOnly_drainCells (s := s.commitLines b) hs fun c hc => by rw [lineNumbers_commitLines]; exact h c hc).get
    · exact (heldOnly_drainCells hs h).get
  · split <;> rfl

theorem barComplete_completes {s : State} (hs : s.mem.wf = true) {b : Nat} (hb : b < s.blocks.length) (hfull : s.barFull b) :
    Completes s b (s.barComplete b) := by
  have hhome := housekeeping_barHome s b
  obtain ⟨_, _, _, hblock⟩ := hhome.block b
  obtain ⟨_, _, _, hshadow⟩ := (takeShadow_frame ((s.barHome b).barNext b (s.block b).barP) b).2.2.2 b
  obtain ⟨hmem, hwin⟩ := takeShadow_store ((s.barHome b).barNext b (s.block b).barP) b
  have hnext : ((s.barHome b).barNext b (s.block b).barP).block b = _ :=
    block_modBlock_same (s := s.barHome b) (by rw [hhome.blockCount]; exact hb) fun x =>
      { x with barP := x.barP + 1, barA := 0, arrived := [], tags := [] }
  rw [hnext, hblock] at hshadow
  rw [barComplete_of_full hfull]
  exact ⟨by rw [hshadow], by rw [hshadow], by rw [hshadow], fun p c => by rw [window_congr hwin]; exact hhome.store p c,
    fun h => hmem.trans (mem_barHome_still h), fun a ha => by rw [hmem]; exact mem_barHome_held hs ha⟩

/-! ### The four forms (13 R350) -/

section
variable {s r u : State} {i : Nat} {g : Group}

/-- The phase is full once its last lanes have been counted. -/
theorem barFull_arrives (hu : Arrives s g u) (he : 0 < (s.block g.id.block).barE)
    (hn : (s.block g.id.block).barA + g.ctl.act.toList.length = (s.block g.id.block).barE)
    (hd : s.readsDone g.id.block = true) : u.barFull g.id.block := by
  obtain ⟨_, _, _, _, _, hblock, -⟩ := hu.block
  exact ⟨by rw [hblock]; exact he, by rw [hblock]; exact hn, hu.done.trans hd⟩

/-- It is not while lanes are missing. -/
theorem barComplete_waiting (hu : Arrives s g u)
    (hn : (s.block g.id.block).barA + g.ctl.act.toList.length < (s.block g.id.block).barE) :
    u.barComplete g.id.block = u := by
  obtain ⟨_, _, _, _, _, hblock, -⟩ := hu.block
  refine barComplete_of_not fun hf => ?_
  have heq : (u.block g.id.block).barA = (u.block g.id.block).barE := hf.2.1
  rw [hblock] at heq
  exact absurd heq (Nat.ne_of_lt hn)

theorem Arrives.sameMem (hu : Arrives s g u) : SameMem s u :=
  ⟨fun a => by rw [hu.mem], fun p c a => by rw [window_congr hu.windows]⟩

/-- What the completion of the counted lanes' phase comes to, seen from before they arrived. -/
theorem Arrives.completes (hu : Arrives s g u) {t : State} (h : Completes u g.id.block t) : Completes s g.id.block t := by
  obtain ⟨hp, ha, hr, hs, hstill, hheld⟩ := h
  obtain ⟨_, _, _, _, _, hblock, -⟩ := hu.block
  have hlines (p c : Nat) : u.lineNumbers p c = s.lineNumbers p c := by
    unfold State.lineNumbers
    rw [window_congr hu.windows]
  rw [hblock] at hp hstill hheld
  exact ⟨hp, ha, hr, fun p c => by rw [hs, window_congr hu.windows], fun h => (hstill h).trans hu.mem, fun a h => by
    rw [hheld a fun c hc => by rw [hlines]; exact h c hc, hu.mem]⟩

end

/-- What the statement says of a completion. -/
theorem Completes.post {s t : State} {b : Nat} (h : Completes s b t) : (t.block b).barP = (s.block b).barP + 1 ∧
    (t.block b).barA = 0 ∧ (t.block b).arrived = [] ∧ (∀ p c a, (t.window p c).mem.get a = (s.window p c).mem.get a) ∧
    ((s.block b).fdom ≠ .rollback ∨ (s.block b).cells.length ≤ 1 → SameMem s t) ∧
    ∀ a, (∀ c ∈ (s.block b).cells, ∀ x ∈ (s.window (s.block b).part c).lines, x.line ≠ a / 128) → t.mem.get a = s.mem.get a := by
  obtain ⟨hp, ha, hr, hs, hstill, hheld⟩ := h
  refine ⟨hp, ha, hr, fun p c a => by rw [hs], fun h => ⟨fun a => by rw [hstill h], fun p c a => by rw [hs]⟩, fun a h => ?_⟩
  refine hheld a fun c hc hmem => ?_
  obtain ⟨x, hx, hline⟩ := List.mem_map.mp hmem
  exact h c hc x hx hline

theorem barArrive_counts (n : Nat) : Does .barArrive ⟨.bar, 1, []⟩
    (fun s i g => (∃ r, s.releaseOnly i 1 = .ok r) ∧ arrivals s g ∧ n = g.ctl.act.toList.length ∧
      (s.block g.id.block).barA + n < (s.block g.id.block).barE)
    fun s i g t => Passes g (t.group i) 1 ∧ SameMem s t ∧ (t.block g.id.block).barP = (s.block g.id.block).barP ∧
      (t.block g.id.block).barA = (s.block g.id.block).barA + n ∧
      ∀ l ∈ g.ctl.act.toList, g.thread l ∈ (t.block g.id.block).arrived := by
  intro s i g h ⟨⟨r, hrel⟩, harr, hn, hlt⟩
  subst hn
  obtain ⟨u, hu, hbar, -⟩ := barArrive_arrives hrel harr
  rw [barComplete_waiting hu hlt] at hbar
  obtain ⟨t, ht, hpass, hleave⟩ := bar_passes (ins := .barArrive) (t := u) rfl h
    (by rw [barReleased_ok hrel, hbar]; rfl) hu.signals.count (h.group ▸ hu.signals.atRest i)
  obtain ⟨arrived, _, _, _, _, hblock, hthere⟩ := hu.block
  obtain ⟨_, hk⟩ := hleave.block g.id.block
  rw [hblock] at hk
  exact ⟨t, ht, hpass, hleave.sameMem hu.sameMem, by rw [hk], by rw [hk], by rw [hk]; exact hthere⟩

theorem bar_completes (ins : Instr) (hins : ins = .bar ∨ ins = .barArrive) : Does ins ⟨.bar, 1, []⟩
    (fun s i g => (∃ r, s.releaseOnly i 1 = .ok r) ∧ arrivals s g ∧ g.ctl.wakeHit = false ∧ 0 < (s.block g.id.block).barE ∧
      (s.block g.id.block).barA + g.ctl.act.toList.length = (s.block g.id.block).barE ∧ s.readsDone g.id.block = true)
    fun s i g t => Passes g (t.group i) 1 ∧ (t.block g.id.block).barP = (s.block g.id.block).barP + 1 ∧
      (t.block g.id.block).barA = 0 ∧ (t.block g.id.block).arrived = [] ∧
      (∀ p c a, (t.window p c).mem.get a = (s.window p c).mem.get a) ∧
      ((s.block g.id.block).fdom ≠ .rollback ∨ (s.block g.id.block).cells.length ≤ 1 → SameMem s t) ∧
      ∀ a, (∀ c ∈ (s.block g.id.block).cells, ∀ x ∈ (s.window (s.block g.id.block).part c).lines, x.line ≠ a / 128) →
        t.mem.get a = s.mem.get a := by
  intro s i g h ⟨⟨r, hrel⟩, harr, hwake, he, hn, hd⟩
  obtain ⟨u, hu, hbar, hph⟩ := barArrive_arrives hrel harr
  have hcomp : Completes s g.id.block (u.barComplete g.id.block) := hu.completes <| barComplete_completes
    (by rw [hu.mem]; exact canonical_mem h.canonical) (by rw [hu.blockCount]; exact harr.1) (barFull_arrives hu he hn hd)
  have hsig : Signals s (u.barComplete g.id.block) := hu.signals.trans (signals_barComplete u g.id.block)
  have hrest : AtRest g ((u.barComplete g.id.block).group i) := h.group ▸ hsig.atRest i
  rcases hins with rfl | rfl
  · have hacq := acquire_acquires (u.barComplete g.id.block) i
    have hpassed : ((u.barComplete g.id.block).block g.id.block).barP ≠ (r.block g.id.block).barP := by
      rw [hcomp.barP, hph]
      omega
    obtain ⟨t, ht, hpass, hleave⟩ := bar_passes (ins := .bar) (t := (u.barComplete g.id.block).acquire i 1) rfl h
      (by rw [hwake, if_neg Bool.false_ne_true, barReleased_ok hrel]; dsimp only
          rw [hbar, if_neg (fun h => h rfl), if_pos (by simpa using hpassed)])
      (hacq.count.trans hsig.count) (hrest.trans (hacq.group i))
    refine ⟨t, ht, hpass, Completes.post (hcomp.congr ?_ (hleave.mem.trans hacq.mem) fun p c => ?_)⟩
    · rw [← block_congr hacq.blocks]
      exact hleave.block _
    · rw [window_congr hleave.windows, hacq.store]
  · obtain ⟨t, ht, hpass, hleave⟩ := bar_passes (ins := .barArrive) (t := u.barComplete g.id.block) rfl h
      (by rw [barReleased_ok hrel, hbar]; rfl) hsig.count hrest
    exact ⟨t, ht, hpass, Completes.post (hcomp.congr (hleave.block _) hleave.mem fun p c => by rw [window_congr hleave.windows])⟩

theorem bar_awaits : Does .bar ⟨.bar, 1, []⟩
    (fun s i g => (∃ r, s.releaseOnly i 1 = .ok r) ∧ arrivals s g ∧ g.ctl.wakeHit = false ∧
      (s.block g.id.block).barA + g.ctl.act.toList.length < (s.block g.id.block).barE)
    fun s i g t => Waits g (t.group i) (.bar (s.block g.id.block).barP) ∧ SameMem s t ∧
      (t.block g.id.block).barA = (s.block g.id.block).barA + g.ctl.act.toList.length := by
  intro s i g h ⟨⟨r, hrel⟩, harr, hwake, hlt⟩
  obtain ⟨u, hu, hbar, hph⟩ := barArrive_arrives hrel harr
  rw [barComplete_waiting hu hlt] at hbar
  obtain ⟨_, _, _, _, _, hblock, -⟩ := hu.block
  have hsame : (u.block g.id.block).barP = (s.block g.id.block).barP := by rw [hblock]
  obtain ⟨t, ht, hwait, hleave⟩ := bar_waits (ins := .bar) (t := u) (w := .bar (s.block g.id.block).barP) rfl h
    (by rw [hwake, if_neg Bool.false_ne_true, barReleased_ok hrel]; dsimp only
        rw [hbar, if_neg (fun h => h rfl), hph, if_neg (by simpa using hsame)])
    hu.signals.count (h.group ▸ hu.signals.atRest i) hsame
  obtain ⟨_, hk⟩ := hleave.block g.id.block
  rw [hblock] at hk
  exact ⟨t, ht, hwait, hleave.sameMem hu.sameMem, by rw [hk]⟩

/-- A form that only acquires passes. -/
theorem bar_acquires {s : State} {i : Nat} {g : Group} {ins : Instr} {body : State → Nat → Group → Res}
    (hx : exec ins s = runIsa ⟨.bar, 1, []⟩ body s) (h : Ready s i g ⟨.bar, 1, []⟩) (hb : body s i g = .done (s.acquire i 1)) :
    ∃ t, exec ins s = .next t ∧ Passes g (t.group i) 1 ∧ SameMem s t := by
  have hacq := acquire_acquires s i
  obtain ⟨t, ht, hpass, hleave⟩ := bar_passes hx h hb hacq.count (h.group ▸ hacq.group i)
  exact ⟨t, ht, hpass, hleave.sameMem hacq.sameMem⟩

theorem bar_woken : Does .bar ⟨.bar, 1, []⟩ (fun _ _ g => g.ctl.wakeHit = true)
    fun s i g t => Passes g (t.group i) 1 ∧ SameMem s t :=
  fun _ _ _ h hwake => bar_acquires (ins := .bar) rfl h (if_pos hwake)

/-- A group waits for the phase in which one of its active lanes arrived last. -/
theorem barWaits_iff (s : State) (g : Group) : s.barWaits g = true ↔ (s.block g.id.block).barE ≠ 0 ∧
    ∃ l ∈ g.ctl.act.toList, (g.thread l, (s.block g.id.block).barP) ∈ (s.block g.id.block).lastphase := by
  simp only [State.barWaits, Bool.and_eq_true, bne_iff_ne, List.any_eq_true, beq_iff_eq]
  refine and_congr_right fun _ => exists_congr fun l => and_congr_right fun _ => ?_
  exact ⟨fun ⟨x, hx, h1, h2⟩ => by rw [← h1, ← h2]; exact hx, fun h => ⟨_, h, rfl, rfl⟩⟩

theorem barWait_passes : Does .barWait ⟨.bar, 1, []⟩
    (fun s _ g => g.ctl.wakeHit = true ∨ (s.block g.id.block).barE = 0 ∨ ∀ l ∈ g.ctl.act.toList,
      (g.thread l, (s.block g.id.block).barP) ∉ (s.block g.id.block).lastphase)
    fun s i g t => Passes g (t.group i) 1 ∧ SameMem s t := by
  intro s i g h hwhen
  refine bar_acquires (ins := .barWait) rfl h (if_pos ?_)
  rcases hwhen with hwake | hno
  · rw [hwake, Bool.true_or]
  · have hnot : ¬s.barWaits g = true := by
      rw [barWaits_iff]
      rintro ⟨he, l, hl, hmem⟩
      exact hno.elim he fun hall => hall l hl hmem
    rw [Bool.eq_false_iff.mpr hnot, Bool.not_false, Bool.or_true]

theorem barWait_waits : Does .barWait ⟨.bar, 1, []⟩
    (fun s _ g => g.ctl.wakeHit = false ∧ (s.block g.id.block).barE ≠ 0 ∧ ∃ l ∈ g.ctl.act.toList,
      (g.thread l, (s.block g.id.block).barP) ∈ (s.block g.id.block).lastphase)
    fun s i g t => Waits g (t.group i) (.bar (s.block g.id.block).barP) ∧ SameMem s t := by
  intro s i g h ⟨hwake, hwait⟩
  obtain ⟨t, ht, hw, hleave⟩ := bar_waits (ins := .barWait) (t := s) (w := .bar (s.block g.id.block).barP) rfl h
    (if_neg (by rw [hwake, (barWaits_iff s g).mpr hwait]; decide)) rfl (h.group ▸ (Signals.refl s).atRest i) rfl
  exact ⟨t, ht, hw, hleave.sameMem ⟨fun _ => rfl, fun _ _ _ => rfl⟩⟩

theorem barDrop_passes : Does .barDrop ⟨.bar, 1, []⟩
    (fun s _ g => arrivals s g ∧ (s.block g.id.block).barA + g.ctl.act.toList.length < (s.block g.id.block).barE)
    fun s i g t => Passes g (t.group i) 1 ∧ SameMem s t ∧ (t.block g.id.block).barP = (s.block g.id.block).barP ∧
      (t.block g.id.block).barA = (s.block g.id.block).barA ∧
      (t.block g.id.block).barE = (s.block g.id.block).barE - g.ctl.act.toList.length ∧
      ∀ l ∈ g.ctl.act.toList, g.thread l ∈ (t.block g.id.block).dropped := by
  intro s i g h ⟨⟨hb, hn, hfresh⟩, hlt⟩
  have hmem {x : Nat × Nat} := mem_dropped_barDrop (s := s) hb (ts := g.ctl.act.toList.map g.thread) (u := x)
  obtain ⟨arrived, dropped, hdrop⟩ := drop_fresh (x := s.block g.id.block) hn fun t ht => by
    obtain ⟨l, hl, rfl⟩ := List.mem_map.mp ht
    exact hfresh l hl
  generalize hv : (s.modBlock g.id.block fun x => (g.ctl.act.toList.map g.thread).foldl Block.drop x) = v
  have hself : v.block g.id.block = _ := hv ▸ block_modBlock_same hb _
  rw [hdrop, List.length_map] at hself
  have hstays : s.barDrop g.id.block (g.ctl.act.toList.map g.thread) = v := by
    unfold State.barDrop
    rw [hv]
    refine barComplete_of_not fun hf => ?_
    have heq : (v.block g.id.block).barA = (v.block g.id.block).barE := hf.2.1
    rw [hself] at heq
    dsimp only at heq
    omega
  have hsig : Signals s v := hv ▸ .of_eq rfl rfl rfl
  have hsame : SameMem s v := hv ▸ ⟨fun _ => rfl, fun _ _ _ => rfl⟩
  obtain ⟨t, ht, hpass, hleave⟩ := bar_passes (ins := .barDrop) (t := v) rfl h
    (by unfold barReleased; dsimp only; rw [hstays, hself]; simp) hsig.count (h.group ▸ hsig.atRest i)
  obtain ⟨_, hk⟩ := hleave.block g.id.block
  have hdropped : (t.block g.id.block).dropped = (v.block g.id.block).dropped := by rw [hk]
  refine ⟨t, ht, hpass, hleave.sameMem hsame, by rw [hk, hself], by rw [hk, hself], by rw [hk, hself], fun l hl => ?_⟩
  rw [hdropped, ← hstays]
  exact hmem.mpr (.inl (List.mem_map_of_mem hl))

/-- Settles O14: each form is followed through its arrivals or drops, and a completion through what it sends home. -/
theorem blockBarrier : Obligations.BlockBarrier :=
  ⟨barArrive_counts, bar_completes, bar_awaits, bar_woken, barWait_passes, barWait_waits, barDrop_passes⟩

end Sys2Proof.Machine
end

section
/-! PROOFS. Slots given up and walks that return (07 R205 to R207; 08 R241). -/
namespace Sys2Proof.Machine
open Sys2Proof

/-! ### Slots given up (07 R205 to R207) -/

theorem leavePlace_groups (s : State) (b : Nat) : (s.leavePlace b).groups = s.groups := by
  unfold State.leavePlace
  dsimp only
  split <;> rfl

theorem retire_groups (s : State) (b : Nat) : (s.retire b).groups = s.groups := by
  unfold State.retire
  dsimp only
  split
  · obtain ⟨must, hubc, h⟩ := withdrawEnded_frame
      ((s.leavePlace b).modBlock b fun x => { x with retired := true, resident := false, shadow := .none })
    rw [h]
    exact leavePlace_groups s b
  · rfl

theorem capture_groups (s : State) : s.capture.groups = s.groups := by
  obtain ⟨n, rs, h⟩ := capture_frame s
  rw [h]

theorem freeGroup_status {s : State} {i : Nat} (hi : i < s.groups.length) : ((s.freeGroup i).group i).ctl.status = .free := by
  unfold State.freeGroup
  rw [group_congr (capture_groups _), group_congr (retire_groups _ _), group_modGroup_same hi]
  rfl

theorem groupSlotRelease_frees (i : Nat) : Happens (.groupSlotRelease i)
    (fun s => i < s.groups.length ∧ (s.group i).regs.pend = [] ∧
      ((s.group i).ctl.status = .ended ∨ (s.group i).ctl.status = .endedTail) ∧ s.groupQuiet i = true)
    fun _ t => (t.group i).ctl.status = .free :=
  .of_next (fun _ => rfl) fun s _ ⟨hi, hp, hs, hq⟩ => by
    rcases hs with hs | hs <;> simp [hp, hs, hq, freeGroup_status hi]

theorem trackerEntryFree_frees (i : Nat) : Happens (.trackerEntryFree i)
    (fun s => i < s.groups.length ∧ (s.group i).ctl.status = .tracked ∧ s.groupQuiet i = true)
    fun _ t => (t.group i).ctl.status = .free :=
  .of_next (fun _ => rfl) fun s _ ⟨hi, hs, hq⟩ => by simp [hs, hq, freeGroup_status hi]

/-! ### A walk that returns (08 R241) -/

theorem tlbAdd_room {l same : List TlbEntry} {cap : Nat} (h : same.length < cap) (pick : Nat) (e : TlbEntry) :
    tlbAdd l same cap pick e = l ++ [e] := if_pos h

/-- A first-level TLB with room takes an entry beside those that it holds; nothing but that quadrant's TLB changes. -/
theorem fillTlb1_room {s : State} {cell quad : Nat} {x : Cell} (hx : s.cells[cell]? = some x) (hq : quad < x.quads.length)
    (hroom : (s.quadAt cell quad).tlb.length < 64) (e : TlbEntry) :
    ((s.fillTlb1 cell quad e).quadAt cell quad).tlb = (s.quadAt cell quad).tlb ++ [e] := by
  have hget : x.quads[quad]? = some x.quads[quad] := List.getElem?_eq_getElem hq
  have hat : s.quadAt cell quad = x.quads[quad] := by simp [State.quadAt, hx, hget]
  rw [hat] at hroom ⊢
  simp [State.fillTlb1, State.free, State.quadAt, getElem?_modifyAt, hx, hget, tlbAdd_room (cap := tlb1Entries) hroom]

/-- A second-level TLB whose set of the entry has a way takes it beside those that it holds. -/
theorem fillTlb2_room {s : State} {cell : Nat} {p : Pane} (hp : s.panes[cell / 8]? = some p) {e : TlbEntry}
    (hroom : (p.tlb.filter fun x => x.set == e.set).length < 8) :
    (s.fillTlb2 cell e).panes[cell / 8]? = some { p with tlb := p.tlb ++ [e] } := by
  simp [State.fillTlb2, State.free, getElem?_modifyAt, Config.cellsPerPane, hp, tlbAdd_room (cap := tlb2Ways) hroom]

theorem tlbWalkComplete_fills (cell quad c va : Nat) (e : TlbEntry) (p : Pane) : Happens (.tlbWalkComplete cell quad c va)
    (fun s => s.panes[cell / 8]? = some p ∧ (⟨cell, quad, c, va⟩ : Walk) ∈ p.walks.take 16 ∧
      s.tlb1 cell quad (s.ctxFunc c) (s.ctx c).asid va = none ∧ s.tlb2 cell (s.ctxFunc c) (s.ctx c).asid va = none ∧
      s.walk1 (s.ctxFunc c) va 4 (s.ctx c).s1root 0 = .ok e ∧ (∃ x, s.cells[cell]? = some x ∧ quad < x.quads.length) ∧
      (s.quadAt cell quad).tlb.length < 64 ∧
      (p.tlb.filter fun x => x.set == ({ e with asid := (s.ctx c).asid } : TlbEntry).set).length < 8)
    fun s t => (t.quadAt cell quad).tlb = (s.quadAt cell quad).tlb ++ [{ e with asid := (s.ctx c).asid }] ∧
      (t.panes[cell / 8]?).map (·.tlb) = some (p.tlb ++ [{ e with asid := (s.ctx c).asid }]) ∧
      (t.panes[cell / 8]?).map (·.walks) = some (p.walks.erase ⟨cell, quad, c, va⟩) ∧
      SameMem s t ∧ t.groups = s.groups :=
  .of_next (fun _ => rfl) fun s _ ⟨hp, hw, h1, h2, hwalk, ⟨x, hx, hq⟩, hroom1, hroom2⟩ => by
    have hw' : (!(p.walks.take walkers).contains (⟨cell, quad, c, va⟩ : Walk)) = false := by simpa [walkers] using hw
    simp only [Config.cellsPerPane, hp, hw', h1, h2, hwalk, Bool.false_eq_true, if_false]
    generalize ({ e with asid := (s.ctx c).asid } : TlbEntry) = e' at hroom2 ⊢
    set s1 : State := { s with panes := modifyAt s.panes (cell / 8) fun p =>
      { p with walks := p.walks.erase (⟨cell, quad, c, va⟩ : Walk) } } with hs1
    have hp1 : s1.panes[cell / 8]? = some { p with walks := p.walks.erase (⟨cell, quad, c, va⟩ : Walk) } := by
      simp [hs1, getElem?_modifyAt, hp]
    have hpanes := fillTlb2_room hp1 hroom2
    have htlb := fillTlb1_room (s := s1.fillTlb2 cell e') (cell := cell) (quad := quad) hx hq hroom1 e'
    refine ⟨htlb, ?_, ?_, ⟨fun _ => rfl, fun _ _ _ => rfl⟩, rfl⟩
    · change ((s1.fillTlb2 cell e').panes[cell / 8]?).map (·.tlb) = _
      rw [hpanes]; rfl
    · change ((s1.fillTlb2 cell e').panes[cell / 8]?).map (·.walks) = _
      rw [hpanes]; rfl

end Sys2Proof.Machine
end

section
/-! PROOFS. A release drains the entries ahead of its marker (09 R249, R250; 08 R231). -/
namespace Sys2Proof.Machine
open Sys2Proof

/-- A write-back changes the cached bytes of no window. -/
theorem cache_writeBack (s : State) (p c k part cell : Nat) :
    ((s.writeBack p c k).window part cell).cache = (s.window part cell).cache := by
  by_cases hno : ∀ x, (s.window p c).line? k = some x → x.dirty = 0#128 ∨ x.uncommitted ≠ 0#128
  · rw [writeBack_of_not hno]
  · push Not at hno
    obtain ⟨x, hx, hd, hu⟩ := hno
    rw [window_writeBack_of_dirty hx hd hu]
    split <;> rfl

/-- A byte due home is still due after another line's write-back. -/
theorem goesHome_writeBack {s : State} {part cell l a k : Nat} (h : s.goesHome part cell l a) (hk : l ≠ k) :
    (s.writeBack part cell k).goesHome part cell l a := by
  by_cases hno : ∀ x, (s.window part cell).line? k = some x → x.dirty = 0#128 ∨ x.uncommitted ≠ 0#128
  · rwa [writeBack_of_not hno]
  · push Not at hno
    obtain ⟨x, hx, hd, hu⟩ := hno
    obtain ⟨y, hy, hrest⟩ := h
    have hyl : y.line = l := by simpa using List.find?_some hy
    refine ⟨y, ?_, hrest⟩
    rw [window_writeBack_of_dirty hx hd hu, if_pos ⟨rfl, rfl⟩, line?_cleaned, hy]
    simp [hyl, hk]

/-- A byte that its home copy shares with the cell cache, they still share after any line is written back. -/
theorem home_eq_writeBack {s : State} (hs : s.mem.wf = true) {part cell a : Nat}
    (h : s.mem.get a = (s.window part cell).cache.get a) (k : Nat) :
    (s.writeBack part cell k).mem.get a = ((s.writeBack part cell k).window part cell).cache.get a := by
  obtain ⟨hgo, hstay⟩ := (mem_writeBack hs part cell k).2 a
  rw [cache_writeBack]
  by_cases hh : s.goesHome part cell k a
  · exact hgo hh
  · exact (hstay hh).trans h

theorem home_eq_drainLines {s : State} (hs : s.mem.wf = true) {part cell a : Nat}
    (h : s.mem.get a = (s.window part cell).cache.get a) (ls : List Nat) :
    (s.drainLines part cell ls).mem.get a = ((s.drainLines part cell ls).window part cell).cache.get a :=
  (List.foldlRecOn (motive := fun t : State => t.mem.wf = true ∧ t.mem.get a = (t.window part cell).cache.get a) ls _ ⟨hs, h⟩
    fun _ ⟨hwf, heq⟩ k _ => ⟨(mem_writeBack hwf part cell k).1, home_eq_writeBack hwf heq k⟩).2

theorem cache_drainLines (s : State) (part cell : Nat) (ls : List Nat) (p c : Nat) :
    ((s.drainLines part cell ls).window p c).cache = (s.window p c).cache :=
  List.foldlRecOn (motive := fun t : State => (t.window p c).cache = (s.window p c).cache) ls _ rfl
    fun t ht k _ => (cache_writeBack t part cell k p c).trans ht

/-- A byte due home has gone home once its line is drained. -/
theorem mem_drainLines {s : State} (hs : s.mem.wf = true) {part cell l a : Nat} (h : s.goesHome part cell l a) {ls : List Nat}
    (hl : l ∈ ls) : (s.drainLines part cell ls).mem.get a = (s.window part cell).cache.get a := by
  induction ls generalizing s with
  | nil => simp at hl
  | cons k r ih =>
    obtain ⟨hwf, hmem⟩ := mem_writeBack hs part cell k
    change ((s.writeBack part cell k).drainLines part cell r).mem.get a = _
    by_cases hk : l = k
    · subst hk
      have heq : (s.writeBack part cell l).mem.get a = ((s.writeBack part cell l).window part cell).cache.get a := by
        rw [cache_writeBack, (hmem a).1 h]
      rw [home_eq_drainLines hwf heq, cache_drainLines, cache_writeBack]
    · rw [ih hwf (goesHome_writeBack h hk) ((List.mem_cons.mp hl).resolve_left hk), cache_writeBack]

theorem releaseDrainComplete_drains (i : Nat) : Happens (.releaseDrainComplete i)
    (fun s => i < s.groups.length ∧
      FifoEntry.marker i ∈ (s.window (s.partOf (s.group i)) (s.group i).loc.cell).fifo ∧
      ∀ a ∈ s.atoms, a.group = i → a.reply ≠ none)
    fun s t =>
      let w := s.window (s.partOf (s.group i)) (s.group i).loc.cell
      (t.group i).ctl.drained = true ∧ SameRegs (s.group i) (t.group i) ∧
      FifoEntry.marker i ∉ (t.window (s.partOf (s.group i)) (s.group i).loc.cell).fifo ∧
      ∀ ln ∈ linesAhead i w.fifo, ∀ x, w.line? ln = some x → x.uncommitted = 0#128 → ∀ b, b < 128 →
        x.dirty.getLsbD b = true → t.mem.get (128 * ln + b) = w.cache.get (128 * ln + b) :=
  .of_next (fun _ => rfl) fun s hc ⟨hi, hmark, hatoms⟩ => by
    have hno : (s.atoms.any fun a => a.group == i && a.reply.isNone) = false := by
      refine List.any_eq_false.mpr fun a ha => ?_
      have := hatoms a ha
      simpa using this
    simp only [List.contains_iff_mem.mpr hmark, hno, Bool.not_false, Bool.and_true, if_true]
    generalize hpart : s.partOf (s.group i) = part
    generalize hcell : (s.group i).loc.cell = cell
    have hkeep := housekeeping_drainLines s part cell (linesAhead i (s.window part cell).fifo)
    set u := s.drainLines part cell (linesAhead i (s.window part cell).fifo) with hu
    set v := u.modWindow part cell fun w => { w with fifo := w.fifo.filter fun e => e != .marker i } with hv
    have hgroups : v.groups = u.groups := modWindow_groups _ _ _ _
    have hlen : i < v.groups.length := by rw [hgroups, hkeep.groupCount]; exact hi
    obtain ⟨mons, hg⟩ := hkeep.group i
    rw [group_modGroup_same hlen, group_congr hgroups, hg]
    refine ⟨rfl, ⟨rfl, rfl, rfl, rfl⟩, ?_, fun ln hln x hx hunc b hb hbit => ?_⟩
    · change FifoEntry.marker i ∉ (v.window part cell).fifo
      rw [hv, window_modWindow (f := fun w : Window => { w with fifo := w.fifo.filter fun e => e != .marker i })
        fun _ => ⟨rfl, rfl⟩, if_pos ⟨rfl, rfl⟩]
      simp
    · have hmem : v.mem = u.mem := modWindow_mem _ _ _ _
      change v.mem.get _ = _
      rw [hmem]
      refine mem_drainLines (canonical_mem hc) (l := ln) ⟨x, hx, hunc, by omega, ?_⟩ hln
      rwa [Nat.mul_comm, Nat.add_sub_cancel_left]

end Sys2Proof.Machine
end

section
/-! PROOFS. Lines that a blocked load waits for are filled (08 R231): where each finds a way none is evicted, every byte of
them is then valid, and every byte reads as it did. -/
namespace Sys2Proof.Machine
open Sys2Proof

/-! ### Lists without repetition -/

theorem dedupNat_append_singleton (l : List Nat) (y : Nat) :
    dedupNat (l ++ [y]) = if (dedupNat l).contains y then dedupNat l else dedupNat l ++ [y] := by
  rw [dedupNat, List.foldl_append]
  rfl

theorem nodup_dedupNat (l : List Nat) : (dedupNat l).Nodup := by
  induction l using List.reverseRecOn with
  | nil => exact List.nodup_nil
  | append_singleton l y ih =>
    rw [dedupNat_append_singleton]
    split
    · exact ih
    · next hy =>
      rw [← List.concat_eq_append]
      exact ih.concat (by simpa using hy)

theorem mem_dedupNat {l : List Nat} {x : Nat} : x ∈ dedupNat l ↔ x ∈ l := by
  refine ⟨fun h => ?_, mem_dedupNat_of_mem⟩
  induction l using List.reverseRecOn with
  | nil => exact h
  | append_singleton l y ih =>
    rw [dedupNat_append_singleton] at h
    split at h
    · exact List.mem_append_left _ (ih h)
    · exact (List.mem_append.mp h).elim (fun h => List.mem_append_left _ (ih h)) (List.mem_append_right _)

/-! ### Ways (08 R231) -/

/-- The lines that are held, and those of a list that are not. -/
def withNew (held ls : List Nat) : List Nat := held ++ (dedupNat ls).filter fun l => !held.contains l

/-- No set of the cell cache has more lines than ways. -/
def FitsWays (sets : Nat) (lines : List Nat) : Prop := ∀ r, (lines.filter fun l => l % sets = r).length ≤ 16

theorem FitsWays.subperm {sets : Nat} {l m : List Nat} (h : FitsWays sets m) (hs : l.Subperm m) : FitsWays sets l :=
  fun r => (hs.filter _).length_le.trans (h r)

theorem mem_withNew {held ls : List Nat} {x : Nat} : x ∈ withNew held ls ↔ x ∈ held ∨ x ∈ ls := by
  simp only [withNew, List.mem_append, List.mem_filter, mem_dedupNat, Bool.not_eq_true', List.contains_eq_mem,
    decide_eq_false_iff_not]
  tauto

theorem count_withNew (held ls : List Nat) (x : Nat) :
    (withNew held ls).count x = if x ∈ held then held.count x else if x ∈ ls then 1 else 0 := by
  rw [withNew, List.count_append]
  split
  · next h =>
    have hnew : ((dedupNat ls).filter fun l => !held.contains l).count x = 0 := List.count_eq_zero.mpr (by simp [h])
    rw [hnew, Nat.add_zero]
  · next h =>
    rw [List.count_eq_zero.mpr h, List.count_filter (by simpa using h), (nodup_dedupNat ls).count, Nat.zero_add]
    simp [mem_dedupNat]

/-- Once a line of the list is held, no more lines are asked for than before. -/
theorem withNew_touched (held ls : List Nat) (l : Nat) :
    (withNew (held.filter (· != l) ++ [l]) ls).Subperm (withNew held (l :: ls)) := by
  refine List.subperm_ext_iff.mpr fun x _ => ?_
  rw [count_withNew, count_withNew]
  by_cases hx : x = l
  · subst hx
    have h0 : (held.filter (· != x)).count x = 0 := List.count_eq_zero.mpr (by simp)
    by_cases hh : x ∈ held
    · have := List.count_pos_iff.mpr hh
      simp [h0, hh]
    · simp [h0, hh]
  · have h1 : (held.filter (· != l)).count x = held.count x := List.count_filter (by simpa using hx)
    have h2 : [l].count x = 0 := List.count_eq_zero.mpr (by simpa using hx)
    simp [h1, h2, hx]

/-- A line that is asked for and not held finds a way in its set. -/
theorem FitsWays.room {sets l : Nat} {held ls : List Nat} (h : FitsWays sets (withNew held (l :: ls))) (hl : l ∉ held) :
    (held.filter fun y => y % sets == l % sets).length < 16 := by
  have hle := h (l % sets)
  have hpos : 0 < (((dedupNat (l :: ls)).filter fun x => !held.contains x).filter fun x => x % sets = l % sets).length :=
    List.length_pos_of_mem (a := l) (by simp [mem_dedupNat, hl])
  rw [withNew, List.filter_append, List.length_append] at hle
  have hbeq : (fun y : Nat => y % sets == l % sets) = fun y => decide (y % sets = l % sets) := rfl
  rw [hbeq]
  omega

/-! ### A line filled (08 R231) -/

/-- A line as the window holds it, or a new one without any byte. -/
def Window.lineAt (w : Window) (l : Nat) : CLine := (w.line? l).getD ⟨l, 0#128, 0#128, 0#128, none⟩

theorem lineAt_line (w : Window) (l : Nat) : (w.lineAt l).line = l := by
  unfold Window.lineAt
  cases h : w.line? l with
  | none => rfl
  | some x => simpa using List.find?_some h

theorem line?_putLine (w : Window) (x : CLine) (k : Nat) : (w.putLine x).line? k = if k = x.line then some x else w.line? k := by
  unfold Window.line? Window.putLine
  rw [List.find?_append, List.find?_filter]
  split
  · next h =>
    subst h
    have hnone : (w.lines.find? fun y => decide ((y.line != x.line) = true ∧ (y.line == x.line) = true)) = none :=
      List.find?_eq_none.mpr fun y _ => by simp
    rw [hnone, Option.none_or, List.find?_singleton, if_pos (beq_self_eq_true _)]
  · next h =>
    have hsame : (fun y : CLine => decide ((y.line != x.line) = true ∧ (y.line == k) = true)) = fun y => y.line == k := by
      funext y
      by_cases hy : y.line = k <;> simp [hy, h]
    have hx : ([x].find? fun y => y.line == k) = none := List.find?_eq_none.mpr fun y hy => by
      rw [List.mem_singleton] at hy
      simpa [hy] using fun heq : x.line = k => h heq.symm
    rw [hsame, hx, Option.or_none]

/-- The cached bytes of a line with those that are missing taken from elsewhere. -/
def filledBytes (l : Nat) (missing : BitVec 128) (home cache : Mem) : Mem :=
  (List.range 128).foldl (fun c i => if missing.getLsbD i then c.set (l * 128 + i) (home.get (l * 128 + i)) else c) cache

theorem get_filledBytes {cache : Mem} (hwf : cache.wf = true) (l : Nat) (missing : BitVec 128) (home : Mem) :
    (filledBytes l missing home cache).wf = true ∧ ∀ a, (filledBytes l missing home cache).get a =
      if a / 128 = l ∧ missing.getLsbD (a % 128) = true then home.get a else cache.get a := by
  have hgo (n : Nat) : let c := (List.range n).foldl (fun c i =>
        if missing.getLsbD i then c.set (l * 128 + i) (home.get (l * 128 + i)) else c) cache
      c.wf = true ∧ ∀ a, c.get a =
        if l * 128 ≤ a ∧ a < l * 128 + n ∧ missing.getLsbD (a - l * 128) = true then home.get a else cache.get a := by
    induction n with
    | zero => exact ⟨hwf, fun a => by rw [if_neg (by omega)]; rfl⟩
    | succ n ih =>
      obtain ⟨ihwf, ihget⟩ := ih
      dsimp only
      rw [List.range_succ, List.foldl_append, List.foldl_cons, List.foldl_nil]
      split
      · next hbit =>
        refine ⟨Mem.wf_set ihwf _ _, fun a => ?_⟩
        rw [Mem.get_set ihwf, ihget]
        by_cases ha : a = l * 128 + n
        · subst ha
          rw [if_pos rfl, if_pos ⟨by omega, by omega, by rwa [Nat.add_sub_cancel_left]⟩]
        · rw [if_neg ha]
          exact if_congr ⟨fun ⟨h1, h2, h3⟩ => ⟨h1, by omega, h3⟩, fun ⟨h1, h2, h3⟩ => ⟨h1, by omega, h3⟩⟩ rfl rfl
      · next hbit =>
        refine ⟨ihwf, fun a => ?_⟩
        rw [ihget]
        refine if_congr ⟨fun ⟨h1, h2, h3⟩ => ⟨h1, by omega, h3⟩, fun ⟨h1, h2, h3⟩ => ⟨h1, ?_, h3⟩⟩ rfl rfl
        by_contra hge
        obtain rfl : a = l * 128 + n := by omega
        rw [Nat.add_sub_cancel_left] at h3
        exact hbit h3
  obtain ⟨hw, hg⟩ := hgo 128
  refine ⟨hw, fun a => (hg a).trans (if_congr ⟨fun ⟨h1, h2, h3⟩ => ?_, fun ⟨h1, h2⟩ => ?_⟩ rfl rfl)⟩
  · have : a - l * 128 = a % 128 := by omega
    exact ⟨by omega, this ▸ h3⟩
  · have : a % 128 = a - l * 128 := by omega
    exact ⟨by omega, by omega, this ▸ h2⟩

/-- A window with a line made present, and every byte of it that is not valid taken from the home copy. -/
structure Filled (home : Mem) (w v : Window) (l : Nat) : Prop where
  store : v.mem = w.mem
  numbers : v.lines.map (·.line) = (w.lines.map (·.line)).filter (· != l) ++ [l]
  full : ∃ x, v.line? l = some x ∧ x.valid = BitVec.allOnes 128
  other : ∀ k, k ≠ l → v.line? k = w.line? k
  wf : v.cache.wf = true
  cache : ∀ a, v.cache.get a =
    if a / 128 = l ∧ (w.lineAt l).valid.getLsbD (a % 128) = false then home.get a else w.cache.get a

/-- What a line fill makes of its cell cache, beside the marks of poison. -/
def Window.fill (home : Mem) (marks : Poisons) (w : Window) (l : Nat) : Window :=
  let v := w.putLine (w.lineAt l)
  { v with
    cache := filledBytes l (~~~(w.lineAt l).valid) home v.cache
    cachePoison := marks
    lines := v.lines.map fun y => if y.line == l then { y with valid := BitVec.allOnes 128 } else y }

theorem filled_fill {w : Window} (hwf : w.cache.wf = true) (home : Mem) (marks : Poisons) (l : Nat) :
    Filled home w (w.fill home marks l) l := by
  have hline (k : Nat) : (w.fill home marks l).line? k = ((w.putLine (w.lineAt l)).line? k).map fun y =>
      if y.line == l then { y with valid := BitVec.allOnes 128 } else y := by
    unfold Window.line? Window.fill
    rw [List.find?_map]
    congr 2
    funext y
    dsimp only [Function.comp]
    split <;> rfl
  obtain ⟨hw, hget⟩ := get_filledBytes hwf l (~~~(w.lineAt l).valid) home
  have hcache : (w.fill home marks l).cache = filledBytes l (~~~(w.lineAt l).valid) home w.cache := by
    simp only [Window.fill, Window.putLine]
  refine ⟨rfl, ?_, ?_, fun k hk => ?_, hcache ▸ hw, fun a => ?_⟩
  · unfold Window.fill Window.putLine
    dsimp only
    rw [map_line_map (fun y => by split <;> rfl), List.map_append, lineAt_line, List.filter_map]
    simp only [List.map_cons, List.map_nil, lineAt_line]
    rfl
  · rw [hline, line?_putLine, lineAt_line, if_pos rfl]
    exact ⟨{ w.lineAt l with valid := BitVec.allOnes 128 }, by rw [Option.map_some, if_pos (beq_iff_eq.mpr (lineAt_line w l))], rfl⟩
  · rw [hline, line?_putLine, lineAt_line, if_neg hk]
    cases h : w.line? k with
    | none => rfl
    | some y =>
      have hy : y.line = k := by simpa using List.find?_some h
      simp [hy, hk]
  · rw [hcache, hget, BitVec.getLsbD_not]
    simp [Nat.mod_lt]

/-- A byte reads through a filled line as it did before. -/
theorem Filled.reads {s t : State} {w v : Window} {l : Nat} (h : Filled s.mem w v l) (hm : t.mem = s.mem) (a : Nat) :
    t.cachedByte v a = s.cachedByte w a := by
  unfold State.cachedByte
  by_cases ha : a / 128 = l
  · obtain ⟨x, hx, hv⟩ := h.full
    rw [ha, hx, hm]
    dsimp only
    rw [hv, BitVec.getLsbD_allOnes, if_pos (by simp [Nat.mod_lt]), h.cache]
    unfold Window.lineAt
    cases hw : w.line? l with
    | none => simp [ha]
    | some y => cases hb : y.valid.getLsbD (a % 128) <;> simp [ha, hb]
  · rw [h.other _ ha, h.cache, if_neg fun hc => ha hc.1, hm]

/-- A state in which nothing has changed but the windows and the hub cache's lines. -/
def OnlyCached (s t : State) : Prop := ∃ ws h, t = { s with windows := ws, hubc := h }

theorem onlyCached_refl (s : State) : OnlyCached s s := ⟨_, _, rfl⟩
theorem onlyCached_trans {s t u : State} (h : OnlyCached s t) (k : OnlyCached t u) : OnlyCached s u := by
  obtain ⟨_, _, rfl⟩ := h
  obtain ⟨_, _, rfl⟩ := k
  exact ⟨_, _, rfl⟩

theorem onlyCached_modWindow (s : State) (part cell : Nat) (f : Window → Window) : OnlyCached s (s.modWindow part cell f) := by
  unfold State.modWindow State.setWindow
  split <;> exact ⟨_, _, rfl⟩

theorem onlyCached_hubUse (s : State) (write : Bool) (pa n : Nat) : OnlyCached s (s.hubUse write pa n) := ⟨_, _, rfl⟩

/-- A line that is held, or whose set has a way left, is made the most recently used one, and none is evicted. -/
theorem allocLine_room {s : State} {part cell l : Nat} (h : l ∈ s.lineNumbers part cell ∨
      ((s.lineNumbers part cell).filter fun y => y % max 1 ((s.heldQuads part cell).length * 128) ==
        l % max 1 ((s.heldQuads part cell).length * 128)).length < 16) :
    s.allocLine part cell l = some (s.modWindow part cell fun w => w.putLine (w.lineAt l)) := by
  unfold State.allocLine
  dsimp only
  split
  · next x hx =>
    simp only [State.modWindow, Window.lineAt, hx, Option.getD_some]
  · next hnone =>
    have hl : l ∉ s.lineNumbers part cell := fun hmem => by
      obtain ⟨y, hy, hyl⟩ := List.mem_map.mp hmem
      exact absurd hyl (by simpa using List.find?_eq_none.mp hnone y hy)
    have hroom := h.resolve_left hl
    rw [State.lineNumbers, List.filter_map, List.length_map] at hroom
    rw [if_pos (by exact hroom)]
    simp only [State.modWindow, Window.lineAt, hnone, Option.getD_none]

/-- The bytes of a line that are not valid taken from the home copy, with their sectors' poison. -/
def Window.fillMissing (home : Mem) (poison : Poisons) (l : Nat) (w : Window) : Window :=
  match w.line? l with
  | none => w
  | some x =>
    { w with
      cache := filledBytes l (~~~x.valid) home w.cache
      cachePoison := poison.foldl (fun (acc : Poisons) p =>
        if p.1 / 128 == l && (~~~x.valid &&& byteMask (p.1 % 128) 32) != 0#128 then acc.mark p.1 p.2 else acc) w.cachePoison
      lines := w.lines.map fun y => if y.line == l then { y with valid := BitVec.allOnes 128 } else y }

theorem keepsStore_fillMissing (home : Mem) (poison : Poisons) (l : Nat) : KeepsStore (Window.fillMissing home poison l) := by
  intro w
  unfold Window.fillMissing
  split <;> exact ⟨rfl, rfl, rfl⟩

theorem fillLine_of_alloc {s u : State} {part cell l : Nat} (h : s.allocLine part cell l = some u) : ∃ b : Bool,
    s.fillLine part cell l =
      some ((if b then u.hubUse false (128 * l) 128 else u).modWindow part cell (Window.fillMissing s.mem s.memPoison l)) := by
  unfold State.fillLine
  rw [h]
  exact ⟨_, rfl⟩

/-- A line present, filled. -/
theorem fillMissing_putLine {w : Window} (hwf : w.cache.wf = true) (home : Mem) (poison : Poisons) (l : Nat) :
    Filled home w ((w.putLine (w.lineAt l)).fillMissing home poison l) l := by
  have hline : (w.putLine (w.lineAt l)).line? l = some (w.lineAt l) := by
    rw [line?_putLine, lineAt_line, if_pos rfl]
  unfold Window.fillMissing
  rw [hline]
  exact filled_fill hwf home _ l

/-- What filling lines of a cell cache leaves: the state but for the caches, and every window's store. -/
structure Fills (s t : State) : Prop where
  cached : OnlyCached s t
  store : ∀ p c, (t.window p c).mem = (s.window p c).mem

theorem Fills.refl (s : State) : Fills s s := ⟨onlyCached_refl s, fun _ _ => rfl⟩
theorem Fills.trans {s t u : State} (h : Fills s t) (k : Fills t u) : Fills s u :=
  ⟨onlyCached_trans h.cached k.cached, fun p c => (k.store p c).trans (h.store p c)⟩

theorem fills_modWindow {f : Window → Window} (hf : KeepsStore f) (s : State) (part cell : Nat) :
    Fills s (s.modWindow part cell f) :=
  ⟨onlyCached_modWindow s part cell f, (housekeeping_modWindow hf s part cell).store⟩

theorem fillLine_filled {s : State} {part cell l : Nat} (hwf : (s.window part cell).cache.wf = true)
    (h : l ∈ s.lineNumbers part cell ∨
      ((s.lineNumbers part cell).filter fun y => y % max 1 ((s.heldQuads part cell).length * 128) ==
        l % max 1 ((s.heldQuads part cell).length * 128)).length < 16) :
    ∃ t, s.fillLine part cell l = some t ∧ Fills s t ∧ Filled s.mem (s.window part cell) (t.window part cell) l := by
  obtain ⟨b, hfill⟩ := fillLine_of_alloc (allocLine_room h)
  refine ⟨_, hfill, ?_⟩
  have hput : KeepsStore fun w => w.putLine (w.lineAt l) := fun _ => ⟨rfl, rfl, rfl⟩
  have hu := fills_modWindow hput s part cell
  have hwin : (s.modWindow part cell fun w => w.putLine (w.lineAt l)).window part cell =
      (s.window part cell).putLine ((s.window part cell).lineAt l) := by
    rw [window_modWindow (f := fun w => w.putLine (w.lineAt l)) fun _ => ⟨rfl, rfl⟩, if_pos ⟨rfl, rfl⟩]
  generalize (s.modWindow part cell fun w => w.putLine (w.lineAt l)) = u at hu hwin ⊢
  have hread : Fills u (if b then u.hubUse false (128 * l) 128 else u) := by
    split
    · exact ⟨onlyCached_hubUse u _ _ _, fun p c => rfl⟩
    · exact .refl u
  have hsame : (if b then u.hubUse false (128 * l) 128 else u).window part cell = u.window part cell := by
    split <;> rfl
  generalize (if b then u.hubUse false (128 * l) 128 else u) = v at hread hsame ⊢
  have hkeep := keepsStore_fillMissing s.mem s.memPoison l
  refine ⟨(hu.trans hread).trans (fills_modWindow hkeep v part cell), ?_⟩
  rw [window_modWindow fun w => ⟨(hkeep w).1, (hkeep w).2.1⟩, if_pos ⟨rfl, rfl⟩, hsame, hwin]
  exact fillMissing_putLine hwf s.mem s.memPoison l

/-- Every byte of a line is valid in the cell cache. -/
def State.lineFull (s : State) (part cell l : Nat) : Prop :=
  ∃ x, (s.window part cell).line? l = some x ∧ x.valid = BitVec.allOnes 128

theorem Filled.lineFull {s t : State} {home : Mem} {part cell l k : Nat}
    (h : Filled home (s.window part cell) (t.window part cell) l) (hk : k = l ∨ s.lineFull part cell k) :
    t.lineFull part cell k := by
  by_cases hkl : k = l
  · exact hkl ▸ h.full
  · obtain ⟨x, hx, hv⟩ := hk.resolve_left hkl
    exact ⟨x, (h.other k hkl).trans hx, hv⟩

/-- Lines that all find ways are filled; every byte then reads as before. -/
theorem fillLines_filled {part cell : Nat} {ls : List Nat} {s : State} (hwf : (s.window part cell).cache.wf = true)
    (hways : FitsWays (max 1 ((s.heldQuads part cell).length * 128)) (withNew (s.lineNumbers part cell) ls)) :
    ∃ t, s.fillLines part cell ls = some t ∧ Fills s t ∧
      (∀ a, t.cachedByte (t.window part cell) a = s.cachedByte (s.window part cell) a) ∧
      ∀ l, l ∈ ls ∨ s.lineFull part cell l → t.lineFull part cell l := by
  induction ls generalizing s with
  | nil => exact ⟨s, rfl, .refl s, fun _ => rfl, fun l h => h.resolve_left List.not_mem_nil⟩
  | cons l r ih =>
    have hroom := or_iff_not_imp_left.mpr fun hl : l ∉ s.lineNumbers part cell => hways.room hl
    obtain ⟨u, hu, hsu, hfilled⟩ := fillLine_filled hwf hroom
    obtain ⟨ws, h, rfl⟩ := hsu.cached
    have hways' : FitsWays (max 1 ((s.heldQuads part cell).length * 128))
        (withNew (State.lineNumbers { s with windows := ws, hubc := h } part cell) r) := by
      rw [State.lineNumbers, hfilled.numbers]
      exact hways.subperm (withNew_touched _ r l)
    obtain ⟨t, ht, hst, hreads, hfull⟩ := ih hfilled.wf hways'
    refine ⟨t, ?_, hsu.trans hst, fun a => (hreads a).trans (hfilled.reads rfl a), fun k hk => hfull k ?_⟩
    · rw [State.fillLines, hu]
      exact ht
    · rw [List.mem_cons, or_assoc] at hk
      rcases hk with hk | hk | hk
      · exact .inr (hfilled.lineFull (.inl hk))
      · exact .inl hk
      · exact .inr (hfilled.lineFull (.inr hk))

theorem holds_of_full {s : State} {part cell l : Nat} (h : s.lineFull part cell l) :
    (s.window part cell).holds (128 * l) 128 = true := by
  obtain ⟨x, hx, hv⟩ := h
  refine List.all_eq_true.mpr fun i hi => ?_
  have hlt : i < 128 := List.mem_range.mp hi
  have hdiv : (128 * l + i) / 128 = l := by omega
  have hmod : (128 * l + i) % 128 = i := by omega
  rw [hdiv, hmod, hx]
  change x.valid.getLsbD i = true
  rw [hv, BitVec.getLsbD_allOnes]
  simpa using hlt

theorem canonical_cache {s : State} (h : s.canonical = true) (p c : Nat) : (s.window p c).cache.wf = true := by
  simp only [State.canonical, Bool.and_eq_true] at h
  obtain ⟨⟨⟨⟨⟨⟨-, hwin⟩, -⟩, -⟩, -⟩, -⟩, -⟩ := h
  rw [window_eq]
  cases hfind : s.windows.find? (Window.isOf p c) with
  | none => rfl
  | some w =>
    have hw := List.all_eq_true.mp hwin w (List.mem_of_find?_eq_some hfind)
    rw [Bool.and_eq_true] at hw
    exact hw.2

/-- The condition on addresses as one on the lines' numbers. -/
theorem hasWays_lines {s : State} {g : Group} {ls : List Nat} (h : s.hasWays g (ls.map (128 * ·))) :
    FitsWays (max 1 ((s.heldQuads (s.partOf g) g.loc.cell).length * 128))
      (withNew (s.lineNumbers (s.partOf g) g.loc.cell) ls) := by
  have hmap : (ls.map (128 * ·)).map (fun a => a / 128) = ls := by
    rw [List.map_map]
    exact (List.map_congr_left fun l _ => Nat.mul_div_cancel_left l (by decide)).trans (List.map_id ls)
  unfold State.hasWays at h
  rw [hmap] at h
  exact h

theorem lineFillReturn_fills (i : Nat) (ls : List Nat) : Happens (.lineFillReturn i)
    (fun s => i < s.groups.length ∧ (s.group i).ctl.status = .blocked (.fill ls) ∧
      s.hasWays (s.group i) (ls.map (128 * ·)))
    fun s t => Wakes (s.group i) (t.group i) ∧ SameMem s t ∧ (∀ a, t.seen (s.group i) a = s.seen (s.group i) a) ∧
      ∀ l ∈ ls, (t.window (s.partOf (s.group i)) (s.group i).loc.cell).holds (128 * l) 128 = true :=
  .of_next (fun _ => rfl) fun s hc ⟨hi, hst, hways⟩ => by
    obtain ⟨t, ht, hfills, hreads, hfull⟩ := fillLines_filled (canonical_cache hc _ _) (hasWays_lines hways)
    rw [hst]
    dsimp only
    rw [ht]
    dsimp only
    obtain ⟨ws, h, rfl⟩ := hfills.cached
    refine ⟨?_, ⟨fun _ => rfl, fun p c a => congrArg (Mem.get · a) (hfills.store p c)⟩, hreads,
      fun l hl => holds_of_full (hfull l (.inl hl))⟩
    rw [group_modGroup_same (s := { s with windows := ws, hubc := h }) hi]
    exact wakes_wakeUp (s.group i) true (s.group i).ctl.missed (s.group i).mons _

end Sys2Proof.Machine
end

section
/-! PROOFS. Results that land (07 R205; 08 R222, R223): the lanes that are written, the room that they take, and what else
a landing does, which leaves its group's registers as they are. -/
namespace Sys2Proof.Machine
open Sys2Proof

/-! ### The room that registers take (08 R223) -/

/-- The entries of the register file that a register takes: none where it is spilled. -/
def VReg.room (x : VReg) : Nat := if x.tag = 0 then x.val.entries else 0

/-- Register for register, none takes more entries than the one that stands there in the second list. -/
def NoWider (v w : List VReg) : Prop := List.Forall₂ (fun x y : VReg => x.room ≤ y.room) v w

theorem NoWider.refl (v : List VReg) : NoWider v v := List.forall₂_same.mpr fun _ _ => le_rfl

theorem NoWider.putAt {v w : List VReg} (h : NoWider v w) (n : Nat) {x y : VReg} (hxy : x.room ≤ y.room) :
    NoWider (putAt VReg.zero v n x) (putAt VReg.zero w n y) := by
  induction n generalizing v w with
  | zero =>
    cases h with
    | nil => exact .cons hxy .nil
    | cons _ hr => exact .cons hxy hr
  | succ n ih =>
    cases h with
    | nil => exact .cons le_rfl (ih .nil)
    | cons ha hr => exact .cons ha (ih hr)

theorem NoWider.usage {g h : Group} (hn : NoWider g.regs.v h.regs.v) : g.usage ≤ h.usage := by
  change ((g.regs.v.map VReg.room).foldl (· + ·) 0) ≤ ((h.regs.v.map VReg.room).foldl (· + ·) 0)
  rw [← List.sum_eq_foldl, ← List.sum_eq_foldl]
  exact List.Forall₂.sum_le_sum (List.forall₂_map_left_iff.mpr (List.forall₂_map_right_iff.mpr hn))

/-- The vector registers with those of a list as general values. -/
def widened (v : List VReg) (rs : List Nat) : List VReg := rs.foldl (fun v r => putAt VReg.zero v r ⟨.general [], 0, .none⟩) v

theorem widest_v (g : Group) (rs : List Nat) : (g.widest rs).regs.v = widened g.regs.v rs := by
  unfold Group.widest widened
  induction rs generalizing g with
  | nil => rfl
  | cons r rest ih => exact ih _

/-! ### The lanes that a result writes (07 R205) -/

/-- The shape that a result's word `j` has where the landing may give it one (08 R222). -/
def Pend.shape (p : Pend) (g : Group) (j : Nat) : Option VVal :=
  if p.uniform && g.parkedLanes == 0#32 then some (.uniform ((p.vals.getD ((p.lanes.toList.head?).getD 0) []).getD j 0#32)) else none

/-- A result's register `j` written. -/
def Group.landAt (p : Pend) (g : Group) (j : Nat) : Group :=
  g.writeLanes p.lanes (p.regs.getD j 0) (p.shape g j) fun l => (p.vals.getD l []).getD j 0#32

theorem land_eq (g : Group) (p : Pend) : g.land p = (List.range p.regs.length).foldl (Group.landAt p) g := rfl

/-- A result whose lanes hold equal words, where it is said to be uniform. -/
def Pend.agrees (p : Pend) : Prop :=
  p.uniform = true → ∀ l m, p.lanes.has l = true → p.lanes.has m = true → p.vals.getD l [] = p.vals.getD m []

theorem shape_lane {p : Pend} (hp : p.agrees) {g : Group} {j : Nat} {v : VVal} (hv : p.shape g j = some v) {l : Nat}
    (hl : (p.lanes &&& g.ctl.live).has l = true) : v.lane l = (p.vals.getD l []).getD j 0#32 := by
  rw [has_and, Bool.and_eq_true] at hl
  unfold Pend.shape at hv
  split at hv
  · next hu =>
    rw [Bool.and_eq_true] at hu
    obtain rfl := Option.some.inj hv
    have hlt : l < 32 := BitVec.lt_of_getLsbD hl.1
    have hmem : l ∈ p.lanes.toList := has_toList.mpr ⟨hlt, hl.1⟩
    obtain ⟨m, hm⟩ : ∃ m, p.lanes.toList.head? = some m := by
      cases h : p.lanes.toList with
      | nil => rw [h] at hmem; exact absurd hmem List.not_mem_nil
      | cons a r => exact ⟨a, rfl⟩
    have hhas : p.lanes.has m = true := (has_toList.mp (List.mem_of_head? hm)).2
    rw [hm]
    exact congrArg (·.getD j 0#32) (hp hu.1 m l hhas hl.1)
  · cases hv

/-- The first `n` registers of a result have been written. -/
structure Lands (g h : Group) (p : Pend) (n : Nat) : Prop where
  pend : h.regs.pend = g.regs.pend
  ctl : h.ctl = g.ctl
  id : h.id = g.id
  other : ∀ r, r ∉ p.regs.take n → h.vreg r = g.vreg r
  lanes : ∀ j r l, j < n → p.regs[j]? = some r → l < 32 → g.ctl.live.has l = true →
    (h.vreg r).val.lane l = if p.lanes.has l then (p.vals.getD l []).getD j 0#32 else (g.vreg r).val.lane l
  room : p.lanes ≠ 0#32 → NoWider h.regs.v (widened g.regs.v (p.regs.take n))
  none : p.lanes = 0#32 → h = g

theorem lands_zero (g : Group) (p : Pend) : Lands g g p 0 where
  pend := rfl
  ctl := rfl
  id := rfl
  other _ _ := rfl
  lanes j _ _ hj := absurd hj (Nat.not_lt_zero j)
  room _ := .refl _
  none _ := rfl

theorem Lands.succ {g h : Group} {p : Pend} {n : Nat} (k : Lands g h p n) (hn : n < p.regs.length) (hd : p.regs.Nodup)
    (hp : p.agrees) : Lands g (h.landAt p n) p (n + 1) := by
  obtain ⟨hpend, hctl, hid, hother, hlanes, hroom, hnone⟩ := k
  obtain ⟨r, hr⟩ : ∃ r, p.regs[n]? = some r := ⟨_, List.getElem?_eq_getElem hn⟩
  have hget : p.regs.getD n 0 = r := by rw [List.getD_eq_getElem?_getD, hr]; rfl
  have htake : p.regs.take (n + 1) = p.regs.take n ++ [r] := by rw [List.take_add_one, hr]; rfl
  have hfresh : r ∉ p.regs.take n := fun hmem => by
    have hsub : (p.regs.take n ++ [r]).Nodup := htake ▸ hd.sublist (List.take_sublist _ _)
    exact (List.nodup_append.mp hsub).2.2 r hmem r List.mem_cons_self rfl
  unfold Group.landAt
  rw [hget]
  refine ⟨by rw [writeLanes_pend, hpend], by rw [writeLanes_ctl, hctl], by rw [writeLanes_id, hid], fun q hq => ?_,
    fun j q l hj hq hl hlive => ?_, fun h0 => ?_, fun h0 => ?_⟩
  · rw [htake, List.mem_append, List.mem_singleton, not_or] at hq
    rw [vreg_writeLanes _ _ _ _ _ _ hq.2, hother q hq.1]
  · by_cases hjn : j = n
    · subst hjn
      obtain rfl := Option.some.inj (hr.symm.trans hq)
      rw [lane_writeLanes _ _ _ _ _ _ hl (by rwa [hctl]) fun v hv m hm => shape_lane hp hv hm, hother r hfresh]
    · have hlt : j < n := by omega
      have hqr : q ≠ r := fun heq => hfresh (heq ▸ List.mem_iff_getElem?.mpr ⟨j, by rw [List.getElem?_take_of_lt hlt, hq]⟩)
      rw [vreg_writeLanes _ _ _ _ _ _ hqr, hlanes j q l hlt hq hl hlive]
  · rw [htake, widened, List.foldl_append, Group.writeLanes, if_neg h0]
    exact (hroom h0).putAt r (by simpa [VReg.room, VVal.entries] using entries_le _)
  · rw [Group.writeLanes, if_pos h0, hnone h0]

theorem lands_land {p : Pend} (hd : p.regs.Nodup) (hp : p.agrees) (g : Group) : Lands g (g.land p) p p.regs.length := by
  rw [land_eq]
  have hgo (n : Nat) (hn : n ≤ p.regs.length) : Lands g ((List.range n).foldl (Group.landAt p) g) p n := by
    induction n with
    | zero => exact lands_zero g p
    | succ n ih =>
      rw [List.range_succ, List.foldl_append]
      exact (ih (by omega)).succ hn hd hp
  exact hgo _ le_rfl

/-- A landing that has room in its widest form has room. -/
theorem Lands.fits {g h : Group} {p : Pend} (k : Lands g h p p.regs.length) (hfit : (g.widest p.regs).usage ≤ g.entryBudget) :
    h.usage ≤ h.entryBudget := by
  have hbudget : h.entryBudget = g.entryBudget := by rw [Group.entryBudget, k.id]; rfl
  rw [hbudget]
  by_cases h0 : p.lanes = 0#32
  · rw [k.none h0]
    exact (usage_le_widest g p.regs).trans hfit
  · refine (NoWider.usage ?_).trans hfit
    rw [widest_v]
    simpa only [List.take_length] using k.room h0

/-! ### What else a landing does (07 R205, 05 R131, R141) -/

/-- Of group `i` the registers and the live lanes are as they were. -/
structure HoldsRegs (i : Nat) (s t : State) : Prop where
  count : t.groups.length = s.groups.length
  regs : (t.group i).regs = (s.group i).regs
  live : (t.group i).ctl.live = (s.group i).ctl.live

theorem HoldsRegs.refl (i : Nat) (s : State) : HoldsRegs i s s := ⟨rfl, rfl, rfl⟩
theorem HoldsRegs.trans {i : Nat} {s t u : State} (h : HoldsRegs i s t) (k : HoldsRegs i t u) : HoldsRegs i s u :=
  ⟨k.count.trans h.count, k.regs.trans h.regs, k.live.trans h.live⟩

theorem Signals.holdsRegs {s t : State} (h : Signals s t) (i : Nat) : HoldsRegs i s t := by
  obtain ⟨⟨hregs, -, -, -⟩, ⟨_, hctl⟩, -, -⟩ := h.atRest i
  exact ⟨h.count, hregs, by rw [hctl]⟩

theorem holdsRegs_modGroup {f : Group → Group} (hf : ∀ g, (f g).regs = g.regs ∧ (f g).ctl.live = g.ctl.live) (i j : Nat)
    (s : State) : HoldsRegs i s (s.modGroup j f) := by
  refine ⟨modGroup_length s j f, ?_, ?_⟩
  all_goals
    rw [group_modGroup]
    split
    · next h => simp [hf, h.1]
    · rfl

theorem holdsRegs_consumeNow (i j : Nat) (s : State) (q : PendPoison) : HoldsRegs i s (s.consumeNow j q) := by
  have hskid (f : GTrap → GTrap) : HoldsRegs i s.free.2 (s.free.2.modGroup j fun g => g.withTrap f) :=
    holdsRegs_modGroup (f := fun g => g.withTrap f) (fun _ => ⟨rfl, rfl⟩) i j s.free.2
  exact HoldsRegs.trans (t := s.free.2) ⟨rfl, rfl, rfl⟩ (hskid _)

theorem regs_completeOp (g : Group) (id : Nat) (f : Option FaultInfo) :
    (g.completeOp id f).regs = g.regs ∧ (g.completeOp id f).ctl.live = g.ctl.live := by
  unfold Group.completeOp
  split <;> exact ⟨rfl, rfl⟩

theorem regs_cntHit (g : Group) : g.cntHit.regs = g.regs ∧ g.cntHit.ctl.live = g.ctl.live := by
  unfold Group.cntHit
  split
  · split <;> exact ⟨rfl, rfl⟩
  · split <;> exact ⟨rfl, rfl⟩
  · split <;> exact ⟨rfl, rfl⟩
  · exact ⟨rfl, rfl⟩

/-- An operation that completes in a group with threads leaves its registers; its fault waits for an instruction. -/
theorem holdsRegs_completeOp {i : Nat} {s : State} (hl : (s.group i).ctl.live ≠ 0#32) (id : Nat) (f : Option FaultInfo) :
    HoldsRegs i s (s.completeOp i id f) := by
  have hop : HoldsRegs i s ((s.modGroup i fun g => (g.completeOp id f).cntHit).barComplete (s.group i).id.block) :=
    (holdsRegs_modGroup (fun g => ⟨(regs_cntHit _).1.trans (regs_completeOp g id f).1,
      (regs_cntHit _).2.trans (regs_completeOp g id f).2⟩) i i s).trans ((signals_barComplete _ _).holdsRegs i)
  unfold State.completeOp
  dsimp only
  split
  · exact hop
  · rw [if_neg]
    · exact hop
    · rw [hop.live]
      simp [hl]

/-- A landing whose operation, if it stands for one, has completed. -/
def State.opLanded (s : State) (i : Nat) (p : Pend) : State :=
  match p.kind with
  | .op id => s.completeOp i id (((s.group i).asy.ops.find? fun o => o.id == id).bind (·.fault))
  | _ => s

/-- Beside that a landing at most consumes poison. -/
theorem landed_cases (s : State) (i : Nat) (p : Pend) :
    s.landed i p = s.opLanded i p ∨ ∃ q, s.landed i p = (s.opLanded i p).consumeNow i q := by
  cases hq : p.poison with
  | none =>
    left
    unfold State.landed
    rw [hq]
    rfl
  | some q =>
    have heq : s.landed i p =
        if ((s.opLanded i p).group i).ctl.live = 0#32 then s.opLanded i p else (s.opLanded i p).consumeNow i q := by
      unfold State.landed
      rw [hq]
      rfl
    by_cases h : ((s.opLanded i p).group i).ctl.live = 0#32
    · exact .inl (heq.trans (if_pos h))
    · exact .inr ⟨q, heq.trans (if_neg h)⟩

theorem holdsRegs_landed {i : Nat} {s : State} (hl : (s.group i).ctl.live ≠ 0#32) (p : Pend) :
    HoldsRegs i s (s.landed i p) := by
  have hop : HoldsRegs i s (s.opLanded i p) := by
    unfold State.opLanded
    split
    · exact holdsRegs_completeOp hl _ _
    · exact .refl i s
  rcases landed_cases s i p with h | ⟨q, h⟩
  · exact h ▸ hop
  · exact h ▸ hop.trans (holdsRegs_consumeNow i i _ q)

/-- A landing reads no slot where none of its registers is spilled. -/
theorem landOld_resident {s : State} {i : Nat} {p : Pend} (h : ∀ r ∈ p.regs, ((s.group i).vreg r).tag = 0) :
    s.landOld i p = .ok (some (s, none)) := by
  unfold State.landOld
  split
  · rfl
  · refine List.foldlRecOn (motive := fun x => x = Except.ok (some (s, none))) p.regs _ rfl fun x hx r hr => ?_
    subst hx
    dsimp only
    rw [if_pos (h r hr)]

theorem resultLanding_lands (i k : Nat) (p : Pend) : Happens (.resultLanding i k)
    (fun s => i < s.groups.length ∧ (s.group i).regs.pend[k]? = some p ∧ p.ready = true ∧ (s.group i).ctl.live ≠ 0#32 ∧
      p.regs.Nodup ∧ (∀ r ∈ p.regs, ((s.group i).vreg r).tag = 0) ∧
      ((s.group i).widest p.regs).usage ≤ (s.group i).entryBudget ∧
      (p.uniform = true → ∀ l m, p.lanes.has l = true → p.lanes.has m = true → p.vals.getD l [] = p.vals.getD m []))
    fun s t => (t.group i).regs.pend = (s.group i).regs.pend.eraseIdx k ∧
      (∀ r, r ∉ p.regs → (t.group i).vreg r = (s.group i).vreg r) ∧
      ∀ j r l, p.regs[j]? = some r → l < 32 → (s.group i).ctl.live.has l = true →
        ((t.group i).vreg r).val.lane l =
          if p.lanes.has l then (p.vals.getD l []).getD j 0#32 else ((s.group i).vreg r).val.lane l :=
  .of_next (fun _ => rfl) fun s _ ⟨hi, hp, hready, hlive, hd, htags, hfit, hagree⟩ => by
    have hland := lands_land hd hagree ((s.group i).dropPend k)
    have hroom : (((s.group i).dropPend k).widest p.regs).usage ≤ ((s.group i).dropPend k).entryBudget := by
      refine (NoWider.usage ?_).trans hfit
      rw [widest_v, widest_v]
      exact .refl _
    have hu : (s.modGroup i fun g => (g.dropPend k).land p).group i = ((s.group i).dropPend k).land p :=
      group_modGroup_same hi _
    have hskim := skim_done (s := s.modGroup i fun g => (g.dropPend k).land p) (i := i)
      (by rw [hu]; exact hland.fits hroom) p.regs p.regs
    have hlive' : ((s.modGroup i fun g => (g.dropPend k).land p).group i).ctl.live ≠ 0#32 := by
      rw [hu, hland.ctl]
      exact hlive
    obtain ⟨-, hregs, -⟩ := (holdsRegs_landed hlive' p).trans ((signals_barComplete _ (s.group i).id.block).holdsRegs i)
    rw [hu] at hregs
    simp only [hp, hready, Bool.not_true, Bool.false_eq_true, if_false, if_neg hlive, landOld_resident htags, hskim]
    have hvreg (r : Nat) : ((((s.modGroup i fun g => (g.dropPend k).land p).landed i p).barComplete
        (s.group i).id.block).group i).vreg r = (((s.group i).dropPend k).land p).vreg r := by
      rw [Group.vreg, hregs]
      rfl
    refine ⟨by rw [hregs, hland.pend]; rfl, fun r hr => ?_, fun j r l hj hl hlv => ?_⟩
    · rw [hvreg, hland.other r (by rwa [List.take_length])]
      rfl
    · rw [hvreg, hland.lanes j r l (List.getElem?_eq_some_iff.mp hj).1 hj hl hlv]
      rfl

/-- Settles O40, clause by clause: a landing writes its lanes, a filled line reads as before, a drained line has gone home, a
group with nothing outstanding gives up its slot, and a walk's entry is added where there is room. -/
theorem landingsFillsAndDrains : Obligations.LandingsFillsAndDrains :=
  ⟨resultLanding_lands, lineFillReturn_fills, releaseDrainComplete_drains, groupSlotRelease_frees, trackerEntryFree_frees,
    tlbWalkComplete_fills⟩

end Sys2Proof.Machine
end

section
/-! PROOFS. The canonical form of the byte stores (09 R242; 08 R229): what it says of the parts of a state, and what of
memory, the windows and the caches keeps it. -/
namespace Sys2Proof.Machine
open Sys2Proof

/-! ### The form, part by part -/

/-- Everything in a list meets a condition. -/
def Every {α : Type} (p : α → Prop) (l : List α) : Prop := ∀ x ∈ l, p x

/-- A partition's store on a cell and its cell cache are in canonical form. -/
def Window.Wf (w : Window) : Prop := w.mem.wf = true ∧ w.cache.wf = true
/-- The palette is. -/
def Quad.Wf (q : Quad) : Prop := q.palette.wf = true
/-- The palettes of a cell are. -/
def Cell.Wf (c : Cell) : Prop := Every Quad.Wf c.quads
/-- A function's vector table is. -/
def HostFn.Wf (f : HostFn) : Prop := f.msix.wf = true
/-- The boot buffer, the mesh, the keep die and the vector tables are. -/
def Hub.Wf (h : Hub) : Prop := h.bootBuf.wf = true ∧ h.mesh.wf = true ∧ h.keep.wf = true ∧ Every HostFn.Wf h.fns
/-- Every byte store of the state is in canonical form. -/
def State.Wf (s : State) : Prop := s.mem.wf = true ∧ Every Window.Wf s.windows ∧ Every Cell.Wf s.cells ∧ s.hub.Wf

theorem canonical_iff (s : State) : s.canonical = true ↔ s.Wf := by
  simp only [State.canonical, State.Wf, Hub.Wf, Every, Window.Wf, Cell.Wf, Quad.Wf, HostFn.Wf, Bool.and_eq_true,
    List.all_eq_true]
  tauto

/-! ### Lists -/

namespace Every
variable {α β : Type} {p : α → Prop} {q : β → Prop} {l k : List α}

theorem nil : Every p [] := fun _ h => nomatch h
theorem append (hl : Every p l) (hk : Every p k) : Every p (l ++ k) := List.forall_mem_append.mpr ⟨hl, hk⟩
theorem one {a : α} (ha : p a) : Every p [a] := List.forall_mem_singleton.mpr ha
theorem replicate (n : Nat) {a : α} (ha : p a) : Every p (List.replicate n a) :=
  fun _ h => List.eq_of_mem_replicate h ▸ ha
theorem filter (hl : Every p l) (b : α → Bool) : Every p (l.filter b) := fun a ha => hl a (List.mem_of_mem_filter ha)
theorem map {f : α → β} (hl : Every p l) (hf : ∀ a, p a → q (f a)) : Every q (l.map f) :=
  List.forall_mem_map.mpr fun a ha => hf a (hl a ha)
theorem filterMap {f : α → Option β} (hl : Every p l) (hf : ∀ a b, p a → f a = some b → q b) :
    Every q (l.filterMap f) := by
  intro b hb
  obtain ⟨a, ha, hab⟩ := List.mem_filterMap.mp hb
  exact hf a b (hl a ha) hab
/-- A map that goes by the place as well. -/
theorem zipIdx {f : α × Nat → β} (hl : Every p l) (hf : ∀ x, p x.1 → q (f x)) : Every q (l.zipIdx.map f) :=
  List.forall_mem_map.mpr fun x hx => hf x (hl x.1 (List.fst_mem_of_mem_zipIdx hx))
theorem zip {γ : Type} {f : γ × α → β} (hl : Every p l) (k : List γ) (hf : ∀ x, p x.2 → q (f x)) :
    Every q ((k.zip l).map f) := List.forall_mem_map.mpr fun x hx => hf x (hl x.2 (List.of_mem_zip hx).2)
theorem getElem? (hl : Every p l) {i : Nat} {a : α} (h : l[i]? = some a) : p a := hl a (List.mem_of_getElem? h)
theorem getD (hl : Every p l) {d : α} (hd : p d) (i : Nat) : p (l.getD i d) := by
  rw [List.getD_eq_getElem?_getD]
  cases h : l[i]? with
  | none => exact hd
  | some a => exact hl.getElem? h
theorem set {a : α} (hl : Every p l) (i : Nat) (ha : p a) : Every p (l.set i a) := fun x hx =>
  (List.mem_or_eq_of_mem_set hx).elim (hl x) fun h => h ▸ ha
theorem modifyAt {f : α → α} (hl : Every p l) (i : Nat) (hf : ∀ a, p a → p (f a)) : Every p (modifyAt l i f) := by
  intro a ha
  obtain ⟨j, hj⟩ := List.mem_iff_getElem?.mp ha
  rw [getElem?_modifyAt] at hj
  split at hj
  · obtain ⟨b, hb, rfl⟩ := Option.map_eq_some_iff.mp hj
    exact hf b (hl.getElem? hb)
  · exact hl.getElem? hj

end Every

namespace Hub.Wf
variable {h : Hub}

theorem bootBuf (hh : h.Wf) : h.bootBuf.wf = true := hh.1
theorem mesh (hh : h.Wf) : h.mesh.wf = true := hh.2.1
theorem keep (hh : h.Wf) : h.keep.wf = true := hh.2.2.1
theorem fns (hh : h.Wf) : Every HostFn.Wf h.fns := hh.2.2.2
/-- A hub with another keep die. -/
theorem setKeep {m : Mem} (hh : h.Wf) (hm : m.wf = true) : Hub.Wf { h with keep := m } :=
  ⟨hh.bootBuf, hh.mesh, hm, hh.fns⟩
theorem keepWrites (hh : h.Wf) (l : List (Nat × List Byte)) : (h.keepWrites l).Wf :=
  hh.setKeep (Mem.wf_foldl_put hh.keep l)
theorem latchWord (hh : h.Wf) (w : Nat) (x : Word) : (h.latchWord w x).Wf := by
  unfold Hub.latchWord
  (repeat' split) <;> exact hh

end Hub.Wf

/-- A fold whose steps keep a condition keeps it. -/
theorem foldl_holds {σ α : Type} {p : σ → Prop} {f : σ → α → σ} (hf : ∀ x a, p x → p (f x a)) {x : σ} (h : p x)
    (l : List α) : p (l.foldl f x) :=
  List.foldlRecOn l f h fun y hy a _ => hf y a hy

namespace State.Wf
variable {s t : State}

/-! ### The state and its parts -/

theorem mem (h : s.Wf) : s.mem.wf = true := h.1
theorem windows (h : s.Wf) : Every Window.Wf s.windows := h.2.1
theorem cells (h : s.Wf) : Every Cell.Wf s.cells := h.2.2.1
theorem hub (h : s.Wf) : s.hub.Wf := h.2.2.2
/-- A state with the stores of one in canonical form. -/
theorem of_eq (h : s.Wf) (hm : t.mem = s.mem) (hw : t.windows = s.windows) (hc : t.cells = s.cells)
    (hh : t.hub = s.hub) : t.Wf := by
  unfold State.Wf
  rw [hm, hw, hc, hh]
  exact h

theorem ite {c : Prop} [Decidable c] (h : s.Wf) (ht : t.Wf) : (if c then s else t).Wf := by split <;> assumption
theorem ite_snd {β : Type} {c : Prop} [Decidable c] {x y : β × State} (h : x.2.Wf) (ht : y.2.Wf) :
    (if c then x else y).2.Wf := by split <;> assumption
theorem foldl {α : Type} {f : State → α → State} (h : s.Wf) (hf : ∀ s a, s.Wf → (f s a).Wf) (l : List α) :
    (l.foldl f s).Wf := foldl_holds hf h l
theorem foldl_fst {α β : Type} {f : State × β → α → State × β} {x : State × β} (h : x.1.Wf)
    (hf : ∀ x a, x.1.Wf → (f x a).1.Wf) (l : List α) : (l.foldl f x).1.Wf :=
  foldl_holds (p := fun x : State × β => x.1.Wf) hf h l
/-- A fold that may fail. -/
theorem foldl_some {α : Type} {f : Option State → α → Option State} (h : s.Wf) (h0 : ∀ a, f none a = none)
    (hf : ∀ s a t, s.Wf → f (some s) a = some t → t.Wf) {l : List α} (ht : l.foldl f (some s) = some t) : t.Wf := by
  refine foldl_holds (p := fun o : Option State => ∀ u, o = some u → u.Wf) (fun o a ho u hu => ?_) ?_ l t ht
  · cases o with
    | none => rw [h0] at hu; cases hu
    | some s => exact hf s a u (ho s rfl) hu
  · rintro _ ⟨⟩
    exact h

/-! ### What touches no byte store -/

theorem setGroup (h : s.Wf) (i : Nat) (g : Group) : (s.setGroup i g).Wf := h
theorem modGroup (h : s.Wf) (i : Nat) (f : Group → Group) : (s.modGroup i f).Wf := h
theorem modBlock (h : s.Wf) (b : Nat) (f : Block → Block) : (s.modBlock b f).Wf := h
theorem modRegion (h : s.Wf) (k : Nat) (f : Region → Region) : (s.modRegion k f).Wf := h
theorem modCtx (h : s.Wf) (c : Nat) (f : Context → Context) : (s.modCtx c f).Wf := h
theorem modPass (h : s.Wf) (k : Nat) (f : Pass → Pass) : (s.modPass k f).Wf := h
theorem modPane (h : s.Wf) (p : Nat) (f : Pane → Pane) : (s.modPane p f).Wf := h
theorem mapGroups (h : s.Wf) (b cell : Nat) (f : Group → Group) : (s.mapGroups b cell f).Wf := h
theorem free (h : s.Wf) : s.free.2.Wf := h
theorem hubUse (h : s.Wf) (write : Bool) (pa n : Nat) : (s.hubUse write pa n).Wf := h
theorem hubPin (h : s.Wf) (region cls pa n : Nat) : (s.hubPin region cls pa n).Wf := h
theorem hubRetireWay (h : s.Wf) (way : Nat) : (s.hubRetireWay way).Wf := h

/-! ### Cells, the hub, windows -/

theorem modCell {f : Cell → Cell} (h : s.Wf) (c : Nat) (hf : ∀ x, x.Wf → (f x).Wf) : (s.modCell c f).Wf :=
  ⟨h.mem, h.windows, h.cells.modifyAt c hf, h.hub⟩
theorem modQuad {f : Quad → Quad} (h : s.Wf) (c q : Nat) (hf : ∀ x, x.Wf → (f x).Wf) : (s.modQuad c q f).Wf :=
  h.modCell c fun _ hx => hx.modifyAt q hf
theorem withHub {f : Hub → Hub} (h : s.Wf) (hf : s.hub.Wf → (f s.hub).Wf) : (s.withHub f).Wf :=
  ⟨h.mem, h.windows, h.cells, hf h.hub⟩
theorem modFn {g : HostFn → HostFn} (h : s.Wf) (f : Nat) (hg : ∀ x, x.Wf → (g x).Wf) : (s.modFn f g).Wf :=
  h.withHub fun ⟨hboot, hmesh, hkeep, hfns⟩ => ⟨hboot, hmesh, hkeep, hfns.modifyAt f hg⟩
theorem window (h : s.Wf) (part cell : Nat) : (s.window part cell).Wf := by
  unfold State.window
  cases hw : s.windows.find? fun w => w.part == part && w.cell == cell with
  | none => exact ⟨rfl, rfl⟩
  | some w => exact h.windows w (List.mem_of_find?_eq_some hw)
theorem setWindow {w : Window} (h : s.Wf) (hw : w.Wf) : (s.setWindow w).Wf := by
  unfold State.setWindow
  split
  · exact ⟨h.mem, h.windows.map fun x hx => by split <;> assumption, h.cells, h.hub⟩
  · exact ⟨h.mem, h.windows.append (.one hw), h.cells, h.hub⟩
theorem modWindow {f : Window → Window} (h : s.Wf) (part cell : Nat) (hf : ∀ w, w.Wf → (f w).Wf) :
    (s.modWindow part cell f).Wf := h.setWindow (hf _ (h.window part cell))
theorem mapWindows {f : Window → Window} (h : s.Wf) (hf : ∀ w, w.Wf → (f w).Wf) :
    Wf { s with windows := s.windows.map f } := ⟨h.mem, h.windows.map hf, h.cells, h.hub⟩
theorem mapCells {f : Cell → Cell} (h : s.Wf) (hf : ∀ c, c.Wf → (f c).Wf) : Wf { s with cells := s.cells.map f } :=
  ⟨h.mem, h.windows, h.cells.map hf, h.hub⟩
theorem winWrite (h : s.Wf) (part cell off : Nat) (b : List Byte) : (s.winWrite part cell off b).Wf :=
  h.modWindow part cell fun _ ⟨hmem, hcache⟩ => ⟨Mem.wf_put hmem _ _, hcache⟩

end State.Wf

/-! ### Vectors (02 R43) and lines of a cell cache -/

theorem Hub.Wf.vector {h : Hub} (hh : h.Wf) (f v : Nat) : (h.vector f v).1.Wf := by
  obtain ⟨hboot, hmesh, hkeep, hfns⟩ := hh
  obtain ⟨_, _, _, _, he⟩ := vector_frame h f v
  have hpend : Every HostFn.Wf (h.vector f v).1.fns := by
    rw [vector_fns]
    refine hfns.modifyAt f fun x hx => ?_
    unfold HostFn.pend
    split <;> exact hx
  rw [he] at hpend ⊢
  exact ⟨hboot, hmesh, hkeep, hpend⟩

namespace Quad.Wf
variable {q : Quad}

theorem clearTiles (h : q.Wf) (t n : Nat) : (q.clearTiles t n).Wf := h
theorem cleanElems (h : q.Wf) (t : Nat) (p : Nat → Bool) : (q.cleanElems t p).Wf := h
theorem setTile (h : q.Wf) (t : Nat) (w : List Word) : (q.setTile t w).Wf := h
theorem palDrop (h : q.Wf) (base : Nat) : (q.palDrop base).Wf := h
theorem palTake (h : q.Wf) (base len : Nat) : (q.palTake base len).Wf := Mem.wf_erase h _ _
theorem zeroed (q : Quad) : q.zeroed.Wf := rfl

end Quad.Wf

theorem Cell.Wf.reset : Cell.reset.Wf := .replicate _ rfl

/-- What quadrants hold when a partition's cells are given or taken away (09 R247). -/
theorem wf_rebank (old new : List Nat) (m : Mem) : (rebank old new m).wf = true := by
  refine foldl_holds (p := fun m : Mem => m.wf = true) (fun m x hm => ?_) rfl _
  split
  · exact Mem.wf_paste hm _ _
  · exact hm

namespace Window.Wf
variable {w : Window}

theorem putLine (h : w.Wf) (x : CLine) : (w.putLine x).Wf := h
theorem touch (h : w.Wf) (ls : List Nat) : (w.touch ls).Wf :=
  foldl_holds (fun w l hw => by split <;> exact hw) h ls
theorem dropLine (h : w.Wf) (l : Nat) : (w.dropLine l).Wf := ⟨h.1, Mem.wf_erase h.2 _ _⟩
theorem fillMissing (h : w.Wf) (home : Mem) (poison : Poisons) (l : Nat) : (w.fillMissing home poison l).Wf := by
  unfold Window.fillMissing
  split
  · exact h
  · next x _ => exact ⟨h.1, (get_filledBytes h.2 l (~~~x.valid) home).1⟩

end Window.Wf

namespace State.Wf
variable {s t : State}

theorem homeWrite (h : s.Wf) (pa : Nat) (b : List Byte) : (s.homeWrite pa b).Wf := ⟨Mem.wf_put h.mem pa b, h.2⟩
theorem homeRuns (h : s.Wf) (w : Window) (l : Nat) (m : BitVec 128) : (homeRuns s w l m).Wf := by
  refine foldl_fst h (f := homeRunStep w l m) (fun x i hx => ?_) _
  unfold homeRunStep
  split
  · exact hx
  · split
    · exact ite hx (hx.homeWrite ..)
    · exact ite hx (hx.homeWrite ..)
theorem fillTlb1 (h : s.Wf) (cell quad : Nat) (e : TlbEntry) : (s.fillTlb1 cell quad e).Wf :=
  modQuad (s := s.free.2) h cell quad fun _ hq => hq
theorem tlbUse (h : s.Wf) (cell quad c va : Nat) : (s.tlbUse cell quad c va).Wf := by
  refine ite h ?_
  split
  · exact h
  · split
    · exact h.fillTlb1 ..
    · exact ite h h
theorem useG (h : s.Wf) (g : Group) (va : Nat) : (s.useG g va).Wf := h.tlbUse ..
theorem writeBack (h : s.Wf) (part cell l : Nat) : (s.writeBack part cell l).Wf := by
  unfold State.writeBack
  dsimp only
  split
  · exact h
  · next x _ =>
    have h1 := h.homeRuns (s.window part cell) l x.dirty
    refine ite h (modWindow ?_ _ _ fun _ hw => ?_)
    · exact of_eq h1 rfl rfl rfl rfl
    · exact hw
theorem allocLine {part cell l : Nat} (h : s.Wf) (ht : s.allocLine part cell l = some t) : t.Wf := by
  have hfresh {u : State} (hu : u.Wf) {x : CLine} : (u.modWindow part cell fun w => w.putLine x).Wf :=
    hu.modWindow _ _ fun _ hw => hw.putLine _
  unfold State.allocLine at ht
  dsimp only at ht
  split at ht
  · cases ht
    exact h.setWindow ((h.window ..).putLine _)
  · split at ht
    · cases ht
      exact hfresh h
    · split at ht
      · cases ht
      · cases ht
        exact hfresh ((h.writeBack ..).modWindow _ _ fun _ hw => hw.dropLine _)
theorem fillLine {part cell l : Nat} (h : s.Wf) (ht : s.fillLine part cell l = some t) : t.Wf := by
  cases hu : s.allocLine part cell l with
  | none =>
    unfold State.fillLine at ht
    rw [hu] at ht
    cases ht
  | some u =>
    obtain ⟨b, hb⟩ := fillLine_of_alloc hu
    rw [hb] at ht
    cases ht
    exact (ite ((h.allocLine hu).hubUse ..) (h.allocLine hu)).modWindow part cell fun _ hw => hw.fillMissing ..
theorem cleanFor (h : s.Wf) (part cell : Nat) (k : WriteKind) (l : Nat) : (s.cleanFor part cell k l).Wf := by
  unfold State.cleanFor
  split
  · exact h.writeBack ..
  · exact h
theorem cacheWriteLine {part cell pa : Nat} {k : WriteKind} {b : List Byte} (h : s.Wf)
    (ht : s.cacheWriteLine part cell k pa b = some t) : t.Wf := by
  unfold State.cacheWriteLine at ht
  dsimp only at ht
  split at ht
  · cases ht
  · next ha =>
    cases ht
    refine ((h.cleanFor ..).allocLine ha).modWindow part cell fun w ⟨hmem, hcache⟩ => ?_
    have hput : (w.cache.put pa b).wf = true := Mem.wf_put hcache _ _
    split
    · split <;> exact ⟨hmem, hput⟩
    · exact ⟨hmem, hput⟩
    · split <;> exact ⟨hmem, hput⟩
theorem cacheWriteGo {part cell fuel pa : Nat} {k : WriteKind} {b : List Byte} (h : s.Wf)
    (ht : s.cacheWriteGo part cell k fuel pa b = some t) : t.Wf := by
  induction fuel generalizing s pa b with
  | zero => cases ht; exact h
  | succ n ih =>
    unfold State.cacheWriteGo at ht
    dsimp only at ht
    split at ht
    · cases ht; exact h
    · split at ht
      · cases ht
      · next hl => exact ih (h.cacheWriteLine hl) ht
theorem cacheWrite {part cell pa : Nat} {k : WriteKind} {b : List Byte} (h : s.Wf)
    (ht : s.cacheWrite part cell k pa b = some t) : t.Wf := h.cacheWriteGo ht
theorem drainLines (h : s.Wf) (part cell : Nat) (ls : List Nat) : (s.drainLines part cell ls).Wf :=
  h.foldl (fun _ _ h => h.writeBack ..) ls
theorem markStale (h : s.Wf) (part cell : Nat) : (s.markStale part cell).Wf :=
  h.modWindow part cell fun _ ⟨hmem, hcache⟩ => ⟨hmem, Mem.wfFrom_filter _ hcache⟩
theorem sendLine (h : s.Wf) (part cell pa : Nat) : (s.sendLine part cell pa).Wf :=
  (h.writeBack ..).modWindow part cell fun _ hw => by
    split
    · split
      · exact hw.dropLine _
      · exact hw
    · exact hw
theorem commitLines (h : s.Wf) (b : Nat) : (s.commitLines b).Wf :=
  ⟨h.mem, h.windows.map fun _ hw => by split <;> exact hw, h.cells, h.hub⟩
theorem discardLines (h : s.Wf) (b : Nat) : (s.discardLines b).Wf := by
  refine ⟨h.mem, h.windows.map fun _ hw => ?_, h.cells, h.hub⟩
  split
  · exact ⟨hw.1, Mem.wfFrom_filter _ hw.2⟩
  · exact hw
theorem commitEarly (h : s.Wf) (b : Nat) : (s.commitEarly b).Wf := ite ((h.commitLines b).modBlock b _) h
theorem commitOthers (h : s.Wf) (part cell b pa n : Nat) : (s.commitOthers part cell b pa n).Wf :=
  h.foldl (fun _ _ h => h.commitEarly _) _

end State.Wf
end Sys2Proof.Machine
end

section
/-! PROOFS. The registers of a group, records, barriers, faults and the ends of threads keep the byte stores' form. -/
namespace Sys2Proof.Machine
open Sys2Proof

namespace State.Wf
variable {s t : State}

theorem writeVaGo {c fuel va : Nat} {b : List Byte} (h : s.Wf) (ht : s.writeVaGo c fuel va b = .ok t) : t.Wf := by
  induction fuel generalizing s va b with
  | zero => cases ht; exact h
  | succ n ih =>
    unfold State.writeVaGo at ht
    dsimp only at ht
    split at ht
    · cases ht; exact h
    · split at ht
      · cases ht
      · exact ih (h.homeWrite ..) ht
theorem writeVa {c va : Nat} {b : List Byte} (h : s.Wf) (ht : s.writeVa c va b = .ok t) : t.Wf := h.writeVaGo ht
theorem slotWrite {part cell b : Nat} {e : TlbEntry} {va : Nat} {bytes : List Byte} (h : s.Wf)
    (ht : s.slotWrite part cell b e va bytes = some t) : t.Wf := by
  unfold State.slotWrite at ht
  dsimp only at ht
  split at ht
  · cases ht
    exact (h.commitOthers ..).homeWrite ..
  · exact (h.commitOthers ..).cacheWrite ht
theorem slotMark (h : s.Wf) (part cell : Nat) (e : TlbEntry) (va : Nat) (p : Poison) :
    (s.slotMark part cell e va p).Wf := by
  refine ite h (h.modWindow _ _ fun _ hw => ?_)
  exact hw
theorem spillReg {i r : Nat} (h : s.Wf) (ht : s.spillReg i r = .ok (some t)) : t.Wf := by
  unfold State.spillReg at ht
  dsimp only at ht
  split at ht
  · cases ht
  · split at ht
    · cases ht
    · next hw =>
      have hu := (h.useG ..).slotWrite hw
      cases ht
      refine modGroup ?_ ..
      split
      · exact hu.slotMark ..
      · exact hu
theorem skimGo {i fuel : Nat} {named dests : List Nat} (h : s.Wf) (ht : s.skimGo i named dests fuel = .ok (some t)) :
    t.Wf := by
  induction fuel generalizing s with
  | zero => cases ht; exact h
  | succ n ih =>
    unfold State.skimGo at ht
    dsimp only at ht
    split at ht
    · cases ht; exact h
    · split at ht
      · cases ht; exact h
      · split at ht
        · cases ht
        · cases ht
        · next hr => exact ih (h.spillReg hr) ht
theorem skim {i : Nat} {named dests : List Nat} (h : s.Wf) (ht : s.skim i named dests = .ok (some t)) : t.Wf :=
  h.skimGo ht
theorem readSlot {i r : Nat} {x : SlotRead} (h : s.Wf) (hx : s.readSlot i r = .ok (some x)) : x.st.Wf := by
  unfold State.readSlot at hx
  dsimp only at hx
  split at hx
  · cases hx
  · split at hx
    · cases hx
      exact (h.useG ..).commitOthers ..
    · split at hx
      · cases hx
      · next hf =>
        cases hx
        exact ((h.useG ..).commitOthers ..).fillLine hf
theorem refill {i : Nat} {named l : List Nat} {x : Refill} (h : s.Wf) (hx : s.refill i named l = .ok (some x)) :
    x.st.Wf := by
  induction l generalizing s x with
  | nil => cases hx; exact h
  | cons r rest ih =>
    unfold State.refill at hx
    dsimp only at hx
    split at hx
    · exact ih h hx
    · split at hx
      · cases hx
      · cases hx
      · next hr =>
        have hy := h.readSlot hr
        split at hx
        · cases hx
        · cases hx
        · next u hn =>
          have hu : u.Wf := by
            split at hn
            · exact skim (hy.modGroup ..) hn
            · cases hn
              exact hy.modGroup ..
          split at hx
          · next y hz =>
            cases hx
            exact ih (x := y) hu hz
          · exact ih hu hx
theorem raise (h : s.Wf) (f v : Nat) : (s.raise f v).Wf := by
  unfold State.raise
  refine ⟨h.mem, h.windows, h.cells, ?_⟩
  dsimp only
  split
  · exact (h.hub.vector f v).vector 0 5
  · exact h.hub.vector f v
theorem raiseCtx (h : s.Wf) (c pf vf : Nat) : (s.raiseCtx c pf vf).Wf := h.raise ..
theorem devRecord (h : s.Wf) (r : ErrRec) : (s.devRecord r).Wf := by
  have hrec {pa n q : Nat} {b : List Byte} :
      Wf { s.homeWrite pa b with hub := { s.hub with devqHead := n, devqSeq := q } } := h.homeWrite pa b
  exact ite h (ite (hrec.raise ..) h)
theorem ctxRecord (h : s.Wf) (r : ErrRec) : (s.ctxRecord r).Wf := by
  refine ite h ?_
  split
  · exact h.devRecord _
  · next hw =>
    split at hw
    · cases hw
    · exact raiseCtx (modCtx (h.writeVa hw) ..) ..
theorem faultRecord (h : s.Wf) (g : Group) (f : FaultInfo) (domain pc skid : Nat) :
    (s.faultRecord g f domain pc skid).Wf := h.ctxRecord ..
theorem segWrite (h : s.Wf) (b cell off : Nat) (x : List Byte) : (s.segWrite b cell off x).Wf := h.winWrite ..
theorem publish (h : s.Wf) (b cell : Nat) (sel : RaceTag → Bool) : (s.publish b cell sel).Wf := h
theorem publishGroup (h : s.Wf) (i : Nat) : (s.publishGroup i).Wf :=
  foldl (publish h ..) (fun _ _ h => h.publish ..) _
theorem acquireRace (h : s.Wf) (i : Nat) : (s.acquireRace i).Wf := h
theorem setBobj (h : s.Wf) (b cell off : Nat) (o : BObj) : (s.setBobj b cell off o).Wf := h.segWrite ..
theorem bobjComplete (h : s.Wf) (b cell off : Nat) : (s.bobjComplete b cell off).Wf :=
  ite (mapGroups (h.setBobj ..) ..) h
theorem bobjArrive (h : s.Wf) (b cell off amount : Nat) : (s.bobjArrive b cell off amount).Wf :=
  (h.setBobj ..).bobjComplete ..
theorem bobjStarve (h : s.Wf) (b cell off : Nat) : (s.bobjStarve b cell off).Wf := ite (h.mapGroups ..) h
theorem bobjLeave (h : s.Wf) (i off : Nat) (m : Lanes) : (s.bobjLeave i off m).Wf := by
  unfold State.bobjLeave
  dsimp only
  split
  · exact h
  · exact bobjStarve (modGroup (h.setBobj ..) ..) ..
theorem takeShadow (h : s.Wf) (b : Nat) : (s.takeShadow b).Wf := ite h (h.modBlock ..)
theorem shadowAfter (h : s.Wf) (i b phase : Nat) : (s.shadowAfter i b phase).Wf := ite h (h.modBlock ..)
theorem barComplete (h : s.Wf) (b : Nat) : (s.barComplete b).Wf := by
  have h0 {c : Prop} [Decidable c] : (if c then s.commitLines b else s).Wf := ite (h.commitLines b) h
  unfold State.barComplete
  dsimp only
  generalize hu : (if (s.block b).fdom == .rollback && decide (1 < (s.block b).cells.length) then
    List.foldl _ _ _ else _) = u
  have hu : u.Wf := by
    rw [← hu]
    exact ite (h0.foldl (fun _ _ h => h.drainLines ..) _) h0
  refine ite (takeShadow ?_ _) h
  exact hu
theorem barDrop (h : s.Wf) (b : Nat) (ts : List (Nat × Nat)) : (s.barDrop b ts).Wf := barComplete (h.modBlock ..) _
theorem palEnd (h : s.Wf) (i : Nat) : (s.palEnd i).Wf := by
  refine ite (modGroup (h.modQuad _ _ fun _ hq => ?_) ..) h
  exact hq
theorem endGroup (h : s.Wf) (i : Nat) (tail : Bool) : (s.endGroup i tail).Wf := palEnd (h.modGroup ..) _
theorem endThreads (h : s.Wf) (i : Nat) (m : Lanes) (tail : Bool) : (s.endThreads i m tail).Wf := by
  have h2 {l : List SubEntry} {b : Nat} {m : Lanes} {ts : List (Nat × Nat)} :
      (l.foldl (fun t e => State.bobjLeave t i e.off m) (s.barDrop b ts)).Wf :=
    (h.barDrop ..).foldl (fun _ _ h => h.bobjLeave ..) l
  exact ite (endGroup (h2.modGroup ..) ..) (modGroup (h2.modGroup ..) ..)
theorem leavePlace (h : s.Wf) (b : Nat) : (s.leavePlace b).Wf := by
  have hw {p : Window → Bool} {f : Window → List (Nat × Nat)} :
      Wf { s with windows := s.windows.map fun w => if p w then { w with allocs := f w } else w } :=
    h.mapWindows fun w hw => by split <;> exact hw
  unfold State.leavePlace
  dsimp only
  split
  · exact hw
  · exact hw.modQuad _ _ fun _ hq => hq
  · exact hw
theorem withdrawEnded (h : s.Wf) : s.withdrawEnded.Wf := ite h h
theorem endBlock (h : s.Wf) (b : Nat) : (s.endBlock b).Wf := by
  unfold State.endBlock
  refine withdrawEnded ?_
  generalize hs : List.foldl _ _ _ = u
  have hu : u.Wf := by
    subst hs
    refine foldl (ite ?_ (h.discardLines b)) (fun _ _ h => ?_) _
    · exact (h.discardLines b).leavePlace b
    · exact h.modQuad _ _ fun _ hq => hq
  exact ⟨hu.mem, hu.windows.map fun _ hw => hw, hu.cells.map fun _ hc => hc.map fun _ hq => hq, hu.hub⟩
theorem domainFault (h : s.Wf) (i : Nat) (f : FaultInfo) (lanes : Lanes) (pc : DWord) :
    (s.domainFault i f lanes pc).Wf := by
  have h1 {d : Nat} : (s.faultRecord (s.group i) f d pc.toNat 0).Wf := h.faultRecord ..
  exact ite (ite h1 (h1.endThreads ..)) (h1.endBlock _)
theorem uncorrectable (h : s.Wf) (i : Nat) (fs : List (FaultInfo × Nat)) (pc : DWord) :
    (s.uncorrectable i fs pc).Wf := by
  have h1 {d : Nat} : (fs.foldl (fun t f => State.faultRecord t (s.group i) f.1 d pc.toNat f.2) s).Wf :=
    h.foldl (fun _ _ h => h.faultRecord ..) fs
  unfold State.uncorrectable
  dsimp only
  split
  · exact h1.barComplete _
  · exact h1.endBlock _
  · exact ite (h1.modBlock ..) (h1.endBlock _)
theorem takeFault (h : s.Wf) (i : Nat) (f : FaultInfo) (lanes : Lanes) (trappc ipc next : DWord) :
    (s.takeFault i f lanes trappc ipc next).Wf :=
  ite (h.modGroup ..) (ite (ite (modGroup (h.modGroup ..) ..) (h.modGroup ..)) (domainFault (ite (h.modGroup ..) h) ..))
theorem consumeNow (h : s.Wf) (i : Nat) (q : PendPoison) : (s.consumeNow i q).Wf := h
theorem consume (h : s.Wf) (i : Nat) (p : Poison) (addr paddr : Nat) : (s.consume i p addr paddr).Wf := h
theorem skidEnd (h : s.Wf) (i : Nat) : (s.skidEnd i).Wf :=
  ite (ite (modGroup (h.modGroup ..) ..) (uncorrectable (h.modGroup ..) ..)) h
theorem boundRecords (h : s.Wf) (g : Group) (hs : List BoundHit) : (s.boundRecords g hs).Wf :=
  h.foldl (fun _ _ h => h.ctxRecord ..) _
theorem commitFor (h : s.Wf) (b scope : Nat) : (s.commitFor b scope).Wf := ite (h.commitEarly _) h
theorem releaseOnly {i scope : Nat} (h : s.Wf) (ht : s.releaseOnly i scope = .ok t) : t.Wf := by
  unfold State.releaseOnly at ht
  dsimp only at ht
  split at ht
  · cases ht; exact h
  · split at ht
    · cases ht; exact h.publishGroup _
    · split at ht
      · cases ht; exact h.publishGroup _
      · split at ht <;> cases ht
theorem releaseOnly_held {i scope : Nat} (h : s.Wf) (ht : s.releaseOnly i scope = .error t) : t.Wf := by
  unfold State.releaseOnly at ht
  dsimp only at ht
  split at ht
  · cases ht
  · split at ht
    · cases ht
    · split at ht
      · cases ht
      · split at ht
        · cases ht; exact h
        · cases ht; exact h.modWindow _ _ fun _ hw => hw
theorem release {i scope : Nat} (h : s.Wf) (ht : s.release i scope = .ok t) : t.Wf := (h.commitFor ..).releaseOnly ht
theorem release_held {i scope : Nat} (h : s.Wf) (ht : s.release i scope = .error t) : t.Wf :=
  (h.commitFor ..).releaseOnly_held ht
theorem acquire (h : s.Wf) (i scope : Nat) : (s.acquire i scope).Wf :=
  ite h (ite (markStale (h.acquireRace _) ..) (h.acquireRace _))
theorem drainWindows (h : s.Wf) (sel : Window → Bool) : (s.drainWindows sel).Wf :=
  h.foldl (fun _ _ h => h.drainLines ..) _
theorem drainCtxs (h : s.Wf) (cs : List Nat) : (s.drainCtxs cs).Wf := h.drainWindows _

end State.Wf
end Sys2Proof.Machine
end

section
/-! PROOFS. Memory accesses, copies, rings, messages, gates and barriers keep the byte stores' form. -/
namespace Sys2Proof.Machine
open Sys2Proof

namespace State.Wf
variable {s t : State}

theorem seg {a : StoreAcc} (h : a.st.Wf) (i : Nat) (op : Option Nat) (es : List BoundEntry) (l off : Nat)
    (b : List Byte) : (a.seg i op es l off b).st.Wf := by
  unfold StoreAcc.seg
  dsimp only
  split
  · exact h
  · split
    · exact h
    · exact modBlock (foldl (h.winWrite ..) (fun _ _ h => h.winWrite ..) _) ..
theorem finishSeg {a : StoreAcc} (h : a.st.Wf) (i : Nat) : (a.finishSeg i).Wf := by
  refine boundRecords (ite h (h.setWindow ?_)) ..
  exact h.window ..
theorem fillLines {part cell : Nat} {l : List Nat} (h : s.Wf) (ht : s.fillLines part cell l = some t) : t.Wf := by
  induction l generalizing s with
  | nil => cases ht; exact h
  | cons x l ih =>
    unfold State.fillLines at ht
    split at ht
    · cases ht
    · next hl => exact ih (h.fillLine hl) ht
theorem reach (h : s.Wf) (g : Group) (n : Nat) (l : List (Nat × Nat)) : (s.reach g n l).Wf :=
  h.foldl (fun _ _ h => (h.useG ..).commitOthers ..) l
theorem homeSeen (h : s.Wf) (n : Nat) (pas : List Nat) : (s.homeSeen n pas).Wf := h.foldl (fun _ _ h => h.hubUse ..) _
theorem touchLines (h : s.Wf) (part cell n : Nat) (pas : List Nat) : (s.touchLines part cell n pas).Wf :=
  h.modWindow part cell fun _ hw => hw.touch _
theorem putGlobal {g : Group} {mem pa : Nat} {b : List Byte} (h : s.Wf)
    (ht : s.putGlobal g mem pa b = some t) : t.Wf := by
  unfold State.putGlobal at ht
  dsimp only at ht
  split at ht
  · split at ht
    · cases ht
      exact h.homeWrite ..
    · exact h.cacheWrite ht
  · exact h.cacheWrite ht
theorem putPoison (h : s.Wf) (g : Group) (mem pa : Nat) (q : Poison) : (s.putPoison g mem pa q).Wf := by
  have hmark :
      (s.modWindow (s.partOf g) g.loc.cell fun w => { w with cachePoison := w.cachePoison.mark pa q }).Wf :=
    h.modWindow _ _ fun _ hw => hw
  unfold State.putPoison
  split
  · exact ite h hmark
  · exact hmark
theorem sendAtoms {part cell : Nat} {l : List AtomReq} (h : s.Wf) (ht : s.sendAtoms part cell l = some t) : t.Wf := by
  induction l generalizing s with
  | nil => cases ht; exact h
  | cons r l ih =>
    unfold State.sendAtoms at ht
    dsimp only at ht
    split at ht
    · cases ht
    · split at ht
      · cases ht
      · refine ih ?_ ht
        exact h.sendLine part cell r.pa
theorem consumeFor (h : s.Wf) (i : Nat) (p : Poison) (addr paddr : Nat) : (s.consumeFor i p addr paddr).Wf :=
  ite (h.consumeNow ..) (h.ctxRecord _)
theorem lateFault (h : s.Wf) (i : Nat) (f : FaultInfo) : (s.lateFault i f).Wf :=
  ite (h.faultRecord ..) (h.domainFault ..)
theorem completeOp (h : s.Wf) (i id : Nat) (f : Option FaultInfo) : (s.completeOp i id f).Wf := by
  unfold State.completeOp
  dsimp only
  split
  · exact barComplete (h.modGroup ..) _
  · exact ite (lateFault (modGroup (barComplete (h.modGroup ..) _) ..) ..) (barComplete (h.modGroup ..) _)
theorem flightUp (h : s.Wf) (b cell off : Nat) : (s.flightUp b cell off).Wf := h.setBobj ..
theorem flightDown (h : s.Wf) (b cell off : Nat) : (s.flightDown b cell off).Wf := h.setBobj ..
theorem opArrive (h : s.Wf) (b cell off bytes : Nat) (sel : RaceTag → Bool) : (s.opArrive b cell off bytes sel).1.Wf :=
  ((((h.commitFor b 2).flightDown ..).publish ..).bobjArrive ..).bobjStarve ..
theorem hodReach (h : s.Wf) (g : Group) (seg write : Bool) (a : Int) (n : Nat) : (s.hodReach g seg write a n).Wf := by
  refine ite h ?_
  split
  · exact h
  · exact (h.reach ..).homeSeen ..
theorem hodSegWrite (h : s.Wf) (i op cell off : Nat) (b : List Byte) (p : Option Poison) :
    (s.hodSegWrite i op cell off b p).Wf := by
  unfold State.hodSegWrite
  dsimp only
  split
  · exact modBlock (h.segWrite ..) ..
  · refine modWindow (modBlock (h.segWrite ..) ..) _ _ fun _ hw => ?_
    exact hw
theorem hodWrite {x : HodSt} (h : x.st.Wf) (i op cell : Nat) (es : List BoundEntry) (seg : Bool) (a : Int)
    (b : List Byte) (p : Option Poison) : (x.write i op cell es seg a b p).st.Wf := by
  unfold HodSt.write
  dsimp only
  split
  · split
    · exact h
    · exact foldl (foldl h (fun _ _ h => h.hodSegWrite ..) _) (fun _ _ h => h.winWrite ..) _
  · split
    · exact h
    · split
      · exact h
      · next ht =>
        have hu := foldl_some (h.reach ..) (fun _ => rfl) (fun _ _ _ h ht => h.putGlobal ht) ht
        split
        · exact h
        · dsimp only
          split
          · exact hu
          · exact ite hu (hu.putPoison ..)
theorem hodElem {x : HodSt} (h : x.st.Wf) (i op fn aux : Nat) (d : HodDesc) (es : List BoundEntry) (idx : Nat → Int)
    (v : List Nat) : (x.elem i op fn aux d es idx v).st.Wf := by
  unfold HodSt.elem
  dsimp only
  split
  · exact h
  · split
    · exact h
    · split
      · exact h.hodWrite ..
      · split
        · exact h.hodReach ..
        · split
          · exact hodWrite (h.hodReach ..) ..
          · split
            · split
              · exact h.hodReach ..
              · exact hodWrite (h.hodReach ..) ..
            · split
              · exact h.hodReach ..
              · dsimp only
                generalize hu : List.foldl _ (List.foldl _ _ _) _ = u
                have hu : u.Wf := by
                  rw [← hu]
                  exact foldl (foldl (((h.hodReach ..).reach ..).sendLine ..) (fun _ _ h => h.homeWrite ..) _)
                    (fun _ _ h => h.homeWrite ..) _
                split
                · exact ite hu hu
                · exact hu
theorem hodPrefetch (h : s.Wf) (g : Group) (aux : Nat) (d : HodDesc) : (s.hodPrefetch g aux d).Wf := by
  refine h.foldl (fun s l h => ?_) _
  split
  · exact h
  · exact (h.useG ..).hubUse ..
theorem setRing (h : s.Wf) (g : Group) (n : Nat) (x : Ring) : (s.setRing g n x).Wf := by
  refine h.modQuad _ _ fun _ hq => ?_
  exact hq
theorem lateFaults (h : s.Wf) (i : Nat) : (s.lateFaults i).Wf :=
  ite h (foldl (h.modGroup ..) (fun _ _ h => ite h (h.lateFault ..)) _)
theorem missPromise (h : s.Wf) (c : Nat) : (s.missPromise c).Wf := by
  refine ite (h.ctxRecord _) ?_
  split
  · exact h.ctxRecord _
  · split
    · exact h.ctxRecord _
    · next hw => exact h.writeVa hw
theorem residentFirst {i n : Nat} {x : State × Option MetAt} (h : s.Wf) (hx : s.residentFirst i n = .ok (some x)) :
    x.1.Wf := by
  unfold State.residentFirst at hx
  refine foldl_holds (p := fun y : Except FaultInfo (Option (State × Option MetAt)) => ∀ x, y = .ok (some x) → x.1.Wf)
    (fun y r hy x hx => ?_) ?_ (List.range n) x hx
  · split at hx
    · cases hx
    · cases hx
    · next u q =>
      have hu : u.Wf := hy _ rfl
      split at hx
      · cases hx; exact hu
      · split at hx
        · cases hx
        · cases hx
        · next hr => cases hx; exact modGroup (hu.readSlot hr) ..
  · rintro _ ⟨⟩
    exact h
theorem writeFrame {g : Group} {pages : List Nat} {b : List Byte} (h : s.Wf) (ht : s.writeFrame g pages b = some t) :
    t.Wf := h.foldl_some (fun _ => rfl) (fun _ _ _ h ht => h.cacheWrite ht) ht
theorem settleBudget (h : s.Wf) (i : Nat) : (s.settleBudget i).1.Wf := by
  unfold State.settleBudget
  split
  · next hs => exact h.skim hs
  · exact h
  · exact h
theorem of_settleBudget {i : Nat} {f : Option FaultInfo} (h : s.Wf) (ht : s.settleBudget i = (t, f)) : t.Wf := by
  have hs := h.settleBudget i
  rw [ht] at hs
  exact hs
theorem gateEnter (h : s.Wf) (i idx : Nat) (p : GatePass) (start : Nat) : (s.gateEnter i idx p start).Wf := by
  unfold State.gateEnter
  dsimp only
  split
  · next ht => exact of_settleBudget (modGroup (h.commitEarly _) ..) ht
  · next ht => exact takeFault (of_settleBudget (modGroup (h.commitEarly _) ..) ht) ..
theorem gateLeave (h : s.Wf) (i : Nat) (fault : Option FaultInfo) : (s.gateLeave i fault).Wf := by
  unfold State.gateLeave
  dsimp only
  split
  · exact h
  · split
    · exact takeFault (h.setGroup ..) ..
    · split
      · next ht => exact of_settleBudget (h.setGroup ..) ht
      · next ht => exact takeFault (of_settleBudget (h.setGroup ..) ht) ..
theorem calleeReturn (h : s.Wf) (i : Nat) (f : FaultInfo) (pc : DWord) (skid : Nat) :
    (s.calleeReturn i f pc skid).Wf := ite (h.modGroup ..) (gateLeave (modGroup (h.faultRecord ..) ..) ..)
theorem barArrive (h : s.Wf) (_i : Nat) (g : Group) : (s.barArrive _i g).1.Wf := barComplete (h.modBlock ..) _
theorem bobjUpset (h : s.Wf) (b cell off : Nat) : (s.bobjUpset b cell off).Wf := h
theorem bobjLane {acc : State × List Nat} (h : acc.1.Wf) (i off amount l : Nat) :
    (State.bobjLane i off amount acc l).1.Wf := by
  unfold State.bobjLane
  dsimp only
  split
  · exact h
  · exact bobjArrive (ite (modGroup (setBobj h ..) ..) h) ..
theorem setSem (h : s.Wf) (cell n : Nat) (x : Word) : (s.setSem cell n x).Wf :=
  h.modCell cell (f := fun c => { c with sems := putAt 0#32 c.sems n x }) fun _ hc => hc
theorem dropTlb (h : s.Wf) (gone : TlbEntry → Bool) : (s.dropTlb gone).Wf :=
  h.mapCells (f := fun c => { c with quads := c.quads.map fun q => { q with tlb := q.tlb.filter fun e => !gone e } })
    fun _ hc => hc.map fun _ hq => hq
theorem consumeRead (h : s.Wf) (i : Nat) (x : Option (Nat × Nat × Poison)) : (s.consumeRead i x).Wf := by
  cases x with
  | none => exact h
  | some x => exact h.consume ..
theorem dynAlloc {part cell size : Nat} {x : Nat × State} (h : s.Wf) (hx : s.dynAlloc part cell size = some x) :
    x.2.Wf := by
  obtain ⟨_, hx⟩ := Option.ite_none_right_eq_some.mp hx
  cases hx
  exact h.setWindow (h.window ..)
theorem dynFree (h : s.Wf) (part cell off : Nat) : (s.dynFree part cell off).Wf := by
  refine h.modWindow _ _ fun _ hw => ?_
  exact hw
theorem screedWrite (h : s.Wf) (p : Pass) (va : Nat) (b : List Byte) (q : Option Poison) :
    (s.screedWrite p va b q).1.Wf := by
  have piece {u : State} (hu : u.Wf) {c : Prop} [Decidable c] {x : Except (Nat × Nat) Nat} {y : List Byte}
      {f : Nat → Poisons} : (if c then (u, none) else match x with
        | .error e => (u, some e)
        | .ok pa => ({ u.homeWrite pa y with memPoison := f pa }, none) : State × Option (Nat × Nat)).1.Wf := by
    split
    · exact hu
    · split
      · exact hu
      · exact hu.homeWrite ..
  exact piece (piece h)
theorem screedRecords (h : s.Wf) (p : Pass) (es : List (Nat × Nat × Nat)) : (s.screedRecords p es).Wf :=
  h.foldl (fun _ _ h => h.ctxRecord ..) _

end State.Wf
end Sys2Proof.Machine
end

section
/-! PROOFS. Tiles, glazes, continuations, textures, traces and the matrix unit keep the byte stores' form. -/
namespace Sys2Proof.Machine
open Sys2Proof

namespace State.Wf
variable {s t : State}

theorem tileLoad {k : Nat} {p : Pass} {tile cell : Nat} (h : s.Wf) (ht : s.tileLoad k p tile cell = some t) : t.Wf := by
  unfold State.tileLoad at ht
  dsimp only at ht
  split at ht
  · cases ht
  · next hd =>
    cases ht
    refine modPass (screedRecords ((h.dynAlloc hd).modWindow _ _ fun w hw => ?_) ..) _ _
    exact ⟨Mem.wf_put hw.1 _ _, hw.2⟩
theorem markT1 (h : s.Wf) (p : Pass) : (s.markT1 p).Wf := by
  unfold State.markT1
  split
  · exact ite h h
  · exact h
theorem newTicket {k tile cell : Nat} {q : Prim} (h : s.Wf) (ht : s.newTicket k tile cell q = some t) : t.Wf := by
  unfold State.newTicket at ht
  split at ht
  · cases ht
  · obtain ⟨u, hu, rfl⟩ := Option.map_eq_some_iff.mp ht
    have hu' : u.Wf := by
      split at hu
      · cases hu; exact h
      · exact h.tileLoad hu
    exact hu'.markT1 _
theorem takeTile {k tile cell : Nat} {x : State × Nat} (h : s.Wf) (hx : s.takeTile k tile cell = some x) : x.1.Wf := by
  unfold State.takeTile at hx
  dsimp only at hx
  split at hx
  · cases hx
  · next p _ =>
    obtain ⟨_, hx⟩ := Option.ite_none_left_eq_some.mp hx
    split at hx
    · obtain ⟨_, hx⟩ := Option.ite_none_left_eq_some.mp hx
      obtain ⟨_, _, rfl⟩ := Option.map_eq_some_iff.mp hx
      exact h
    · split at hx
      · cases hx
      · split at hx
        · cases hx
        · next hq =>
          obtain ⟨_, _, rfl⟩ := Option.map_eq_some_iff.mp hx
          exact h.newTicket hq
theorem pickHalf {k cell : Nat} {x : State × Nat × Nat} (h : s.Wf) (hx : s.pickHalf k cell = some x) : x.1.Wf := by
  unfold State.pickHalf at hx
  split at hx
  · cases hx
  · split at hx
    · cases hx
    · obtain ⟨tile, _, ht⟩ := List.exists_of_findSome?_eq_some hx
      obtain ⟨⟨s1, half⟩, hs, rfl⟩ := Option.map_eq_some_iff.mp ht
      exact h.takeTile hs
theorem storePixel (h : s.Wf) (p : Pass) (tile j : Nat) (colour : Bool) (xs : List Sample) :
    (s.storePixel p tile j colour xs).1.Wf := by
  unfold State.storePixel
  grind [screedWrite]
theorem passEnd (h : s.Wf) (k : Nat) : (s.passEnd k).Wf := by
  unfold State.passEnd
  split
  · exact h
  · refine ite ?_ h
    exact h.dynFree ..
theorem passClose (h : s.Wf) (k : Nat) (discard : Bool) : (s.passClose k discard).Wf := h
theorem writeAll {g : Group} {ws : List (Nat × List Byte)} (h : s.Wf) (ht : s.writeAll g ws = .ok t) : t.Wf := by
  unfold State.writeAll at ht
  split at ht
  · cases ht
  · cases ht
    exact h.foldl (fun _ _ h => h.homeWrite ..) _
theorem glzSend (h : s.Wf) (g : Group) (va : Nat) : (s.glzSend g va).Wf := by
  unfold State.glzSend
  split
  · exact h.sendLine ..
  · exact h
theorem recordWord (h : s.Wf) (g : Group) (va : Nat) (x : Word) (p : Option Poison) : (s.recordWord g va x p).Wf := by
  unfold State.recordWord
  split
  · exact h
  · dsimp only
    split <;> exact h.homeWrite ..
theorem liveValues {i : Nat} {regs : List Nat} {x : State × List (Nat × VVal × Option Poison)} (h : s.Wf)
    (hx : s.liveValues i regs = .ok (some x)) : x.1.Wf := by
  unfold State.liveValues at hx
  refine foldl_holds (p := fun y : Except FaultInfo (Option (State × List (Nat × VVal × Option Poison))) =>
    ∀ x, y = .ok (some x) → x.1.Wf) (fun y r hy x hx => ?_) ?_ regs x hx
  · split at hx
    · cases hx
    · cases hx
    · next u l =>
      have hu : u.Wf := hy _ rfl
      dsimp only at hx
      split at hx
      · cases hx; exact hu
      · split at hx
        · cases hx
        · cases hx
        · next hr => cases hx; exact hu.readSlot hr
  · rintro _ ⟨⟩
    exact h
theorem writeRecord (h : s.Wf) (g : Group) (live : Word) (vals : List (Nat × VVal × Option Poison)) (l : Nat) :
    (s.writeRecord g live vals l).Wf := by
  refine foldl (h.foldl (fun _ _ h => h.recordWord ..) _) (fun u j hu => ?_) _
  split
  · exact hu.recordWord ..
  · exact hu
theorem takeOut (h : s.Wf) (i : Nat) (m : Lanes) : (s.takeOut i m).Wf := by
  have h1 : ((s.group i).asy.subs.foldl (fun t e => State.bobjLeave t i e.off m) s).Wf :=
    h.foldl (fun _ _ h => h.bobjLeave ..) _
  exact ite ((endGroup (h1.modGroup ..) ..).lateFaults _) (modGroup (h1.modGroup ..) ..)
theorem recordReady (h : s.Wf) (r : ContRef) : (s.recordReady r).Wf := by
  refine modBlock (h.mapCells fun c hc => ?_) _ _
  exact hc
theorem texSeen (h : s.Wf) (g : Group) (m : Met) : (s.texSeen g m).Wf := by
  refine modWindow (free (h.foldl (fun _ _ h => (h.useG ..).hubUse ..) _)) _ _ fun _ hw => ?_
  exact hw
theorem opResult (h : s.Wf) (i op : Nat) (vals : Nat → List Word) (f : Option FaultInfo)
    (q : Option (Nat × Nat × Poison)) : (s.opResult i op vals f q).Wf := h
theorem contResult (h : s.Wf) (cont : List (Nat × ContRef)) (vals : Nat → List Word) (f : Option FaultInfo)
    (q : Option (Nat × Nat × Poison)) : (s.contResult cont vals f q).Wf := by
  have h1 {l : List ContWrite} : Wf { s with contWrites := l } := h
  have late {u : State} (hu : u.Wf) {c d : Prop} [Decidable c] [Decidable d] {i pc : Nat} {g : Group} {x : FaultInfo}
      {w : DWord} : (if c then u else if d then u.faultRecord g x 0xFF pc 0 else u.domainFault i x 0#32 w).Wf :=
    ite hu (ite (hu.faultRecord ..) (hu.domainFault ..))
  unfold State.contResult
  dsimp only
  split
  · exact h1
  · cases q with
    | none =>
      cases f with
      | none => exact h1
      | some x => exact late h1
    | some q =>
      cases f with
      | none => exact ite h1 (h1.uncorrectable ..)
      | some x => exact late (ite h1 (h1.uncorrectable ..))
theorem setTile (h : s.Wf) (g : Group) (cb : Nat) (w : List Word) : (s.setTile g cb w).Wf :=
  h.modQuad _ _ fun _ hq => hq
theorem drainRow {a : DrainSt} (h : a.st.Wf) (i id cb dst ctl : Nat) (es : List BoundEntry) (d : Nat) :
    (a.row i id cb dst ctl es d).st.Wf := by
  unfold DrainSt.row
  refine ite (foldl ?_ (fun _ _ h => ?_) _) (foldl (h.hodSegWrite ..) (fun _ _ h => h.winWrite ..) _)
  · exact foldl (h.hodSegWrite ..) (fun _ _ h => h.winWrite ..) _
  · split
    · exact h.modWindow _ _ fun _ hw => hw
    · exact h
theorem drainRows (h : s.Wf) (i id cb dst ctl : Nat) : (s.drainRows i id cb dst ctl).st.Wf :=
  foldl_holds (p := fun a : DrainSt => a.st.Wf) (fun _ _ h => h.drainRow ..) h _
theorem matFlags (h : s.Wf) (i : Nat) (fl : FFlags) : (s.matFlags i fl).Wf := h
theorem matPoison (h : s.Wf) (i : Nat) (x : Option (Nat × Poison)) : (s.matPoison i x).Wf := by
  cases x with
  | none => exact h
  | some x => exact ite (ite h (h.uncorrectable ..)) (h.consumeNow ..)
theorem matArrive (h : s.Wf) (i obj n : Nat) (sel : RaceTag → Bool) : (s.matArrive i obj n sel).Wf := by
  unfold State.matArrive
  split
  · exact h
  · exact ite (faultRecord (h.opArrive ..) ..) (h.opArrive ..)
theorem drainDone (h : s.Wf) (i id cb dst ctl : Nat) : (s.drainDone i id cb dst ctl).Wf := by
  have h2 : ∀ {f : Group → Group} {fl : FFlags} {x : Option (Nat × Poison)} {l : List BoundHit},
      (((((s.drainRows i id cb dst ctl).st.boundRecords (s.group i) l).modGroup i f).matFlags i fl).matPoison i x).Wf :=
    matPoison (matFlags (modGroup (boundRecords (h.drainRows ..) ..) ..) ..) ..
  refine matArrive (ite (modQuad (h2.setTile ..) _ _ fun _ hq => ?_) h2) ..
  exact hq.cleanElems ..
theorem kstepGo (h : s.Wf) (i : Nat) (e : MatEntry) (clear : Bool) (cb : Nat) (a b : MatSrc) :
    (s.kstepGo i e clear cb a b).Wf := by
  refine matPoison (matFlags (modGroup ((h.setTile ..).modQuad _ _ fun _ hq => ?_) ..) ..) ..
  exact hq
theorem beadServed (h : s.Wf) (i : Nat) : (s.beadServed i).Wf := by
  refine h.modQuad _ _ fun _ hq => ?_
  exact hq
theorem palCopy (h : s.Wf) (g : Group) (src dst n : Nat) : (s.palCopy g src dst n).Wf :=
  h.modQuad _ _ fun _ hq => Mem.wf_put hq _ _
theorem tileFill (h : s.Wf) (i cb v : Nat) : (s.tileFill i cb v).Wf := by
  unfold State.tileFill
  refine h.modQuad _ _ fun q hq => ?_
  simpa [Quad.Wf, Quad.cleanElems, Quad.setTile] using hq
theorem tileScale (h : s.Wf) (i cb f : Nat) : (s.tileScale i cb f).Wf := by
  refine matPoison (matFlags ((h.setTile ..).modQuad _ _ fun _ hq => ?_) ..) ..
  exact hq
theorem matPerform (h : s.Wf) (i : Nat) (e : MatEntry) : (s.matPerform i e).Wf := by
  unfold State.matPerform
  dsimp only
  split
  · exact h.modGroup ..
  · exact h
  · exact h.modQuad _ _ fun _ hq => hq.clearTiles ..
  · exact h.matArrive ..
  · exact h.tileScale ..
  · exact matArrive (h.foldl (fun _ _ h => h.foldl (fun _ _ h => h.palCopy ..) _) _) ..
  · exact (h.palCopy ..).matArrive ..
  · split
    · exact h
    · exact h.modQuad _ _ fun _ hq => hq.palDrop _
  · exact h.drainDone ..
  · exact h.tileFill ..
  · exact h.modQuad _ _ fun _ hq => hq.clearTiles ..
theorem doneVector (h : s.Wf) (c : Nat) : (s.doneVector c).Wf := h.raiseCtx ..
theorem doneWord (h : s.Wf) (c addr val status reason : Nat) (irq : Bool) :
    (s.doneWord c addr val status reason irq).Wf := by
  unfold State.doneWord
  dsimp only
  generalize hu : (if addr = 0 then s else _) = u
  have hu : u.Wf := by
    rw [← hu]
    refine ite h ?_
    split
    · next hw => exact h.writeVa hw
    · exact h.ctxRecord _
  exact ite (hu.doneVector _) hu

end State.Wf
end Sys2Proof.Machine
end

section
/-! PROOFS. Placements, images, saves, the keep die and resets keep the byte stores' form. -/
namespace Sys2Proof.Machine
open Sys2Proof

namespace State.Wf
variable {s t : State}

theorem takeSpace {part shared : Nat} {roll : Bool} {l : List (Nat × Nat)} {x : List Nat × List Nat × State} (h : s.Wf)
    (hx : s.takeSpace part roll shared l = some x) : x.2.2.Wf := by
  induction l generalizing s x with
  | nil => cases hx; exact h
  | cons c rest ih =>
    obtain ⟨cell, entries⟩ := c
    unfold State.takeSpace at hx
    split at hx
    · cases hx
    · next o s1 ha =>
      have h1 : s1.Wf := by
        split at ha
        · cases ha; exact h
        · exact h.dynAlloc ha
      split at hx
      · cases hx
      · next o' s2 hb =>
        have h2 : s2.Wf := by
          split at hb
          · exact h1.dynAlloc hb
          · cases hb; exact h1
        obtain ⟨y, hy, rfl⟩ := Option.map_eq_some_iff.mp hx
        exact ih (x := y) h2 hy
theorem finishPlan {k : Nat} {r : Region} {cells : List Nat} {p : List (GLoc × List Nat) × Room} {ask : Ask} {x : Plan}
    (h : s.Wf) (hx : s.finishPlan k r cells p ask = some x) : x.st.Wf := by
  unfold State.finishPlan at hx
  dsimp only at hx
  split at hx
  · cases hx
  · split at hx
    · cases hx
    · split at hx
      · cases hx
      · next he =>
        cases hx
        exact h.takeSpace he
theorem planOn {k : Nat} {r : Region} {ok : Nat → Nat → Bool} {room : Room} {ask : Ask} {cells : List Nat} {x : Plan}
    (h : s.Wf) (hx : s.planOn k r ok room ask cells = some x) : x.st.Wf := by
  unfold State.planOn at hx
  dsimp only at hx
  split at hx
  · cases hx
  · exact h.finishPlan hx
theorem plan {k : Nat} {r : Region} {ok : Nat → Nat → Bool} {room : Room} {ask : Ask} {x : Plan} (h : s.Wf)
    (hx : s.plan k r ok room ask = some x) : x.st.Wf := by
  unfold State.plan at hx
  dsimp only at hx
  split at hx
  · obtain ⟨c, _, hc⟩ := List.exists_of_findSome?_eq_some hx
    exact h.planOn (Option.ite_none_right_eq_some.mp hc).2
  · obtain ⟨n, _, hn⟩ := List.exists_of_findSome?_eq_some hx
    obtain ⟨q, _, hq⟩ := List.exists_of_findSome?_eq_some hn
    have h1 := (Option.ite_none_left_eq_some.mp hq).2
    split at h1
    · exact h.planOn h1
    · obtain ⟨l, _, hl⟩ := List.exists_of_findSome?_eq_some h1
      exact h.planOn (Option.ite_none_right_eq_some.mp hl).2
theorem newCoat (h : s.Wf) (r : Rcb) (c : Nat) : (s.newCoat r c).1.Wf := by
  unfold State.newCoat
  dsimp only
  split <;> exact h
theorem admissionFail (h : s.Wf) (c reason rcb : Nat) (launched : Bool) (word : Option Rcb) :
    (s.admissionFail c reason rcb launched word).Wf := by
  unfold State.admissionFail
  dsimp only
  split
  · exact (h.ctxRecord _).doneWord ..
  · exact h.ctxRecord _
theorem admitRegion (h : s.Wf) (r : Rcb) (reg : Region) (decl : Option (List Byte × List Byte)) :
    (s.admitRegion r reg decl).Wf := by
  unfold State.admitRegion
  generalize hx : (if r.isCoat then _ else (s, reg.coat)) = x
  have hx : x.1.Wf := by
    rw [← hx]
    split
    · exact h.newCoat ..
    · exact h
  refine modCtx (foldl ?_ (fun _ _ h => h.hubPin ..) _) ..
  exact hx
theorem take (h : s.Wf) (c cls rcb : Nat) (parent byBlock : Option Nat) : (s.take c cls rcb parent byBlock).1.Wf := by
  have hfail : ∀ n w, (s.admissionFail c n rcb parent.isSome w).Wf := fun _ _ => h.admissionFail ..
  unfold State.take
  split
  · exact hfail ..
  · next raw _ =>
    by_cases hp : s.poisonVa c rcb 256
    · rw [if_pos hp]
      exact hfail ..
    · rw [if_neg hp]
      dsimp only
      split
      · exact hfail ..
      · exact hfail ..
      · split
        · exact hfail ..
        · split
          · exact h.admitRegion ..
          · exact hfail ..
theorem callSlices (h : s.Wf) : (s.callSlices).Wf := h
theorem liftSlices (h : s.Wf) : (s.liftSlices).Wf := h
theorem saveBytes (h : s.Wf) (c va : Nat) (b : List Byte) : (s.saveBytes c va b).Wf := by
  unfold State.saveBytes
  split
  · next hw => exact h.writeVa hw
  · exact h
theorem writeImage (h : s.Wf) (b : Nat) (ids : List Nat) (img : Image) : (s.writeImage b ids img).Wf :=
  foldl (foldl (foldl (h.saveBytes ..) (fun _ _ h => h.saveBytes ..) _) (fun _ _ h => h.saveBytes ..) _)
    (fun _ _ h => h.saveBytes ..) _
theorem ringsOut (h : s.Wf) (b : Nat) : (s.ringsOut b).Wf := by
  unfold State.ringsOut
  dsimp only
  split
  · exact h
  · exact h.foldl (fun _ _ h => h.segWrite ..) _
theorem evictOne (h : s.Wf) (b : Nat) : (s.evictOne b).Wf := by
  unfold State.evictOne
  refine modBlock ?_ ..
  refine mapCells ?_ fun _ hc => ?_
  · refine leavePlace ?_ _
    refine foldl ?_ (fun _ _ h => ?_) _
    · refine writeImage ?_ ..
      refine foldl ?_ (fun _ _ h => h.setGroup ..) _
      refine ringsOut ?_ _
      refine foldl ?_ (fun _ _ h => h.publishGroup _) _
      exact foldl (h.commitEarly _) (fun _ _ h => h.drainLines ..) _
    · refine h.modQuad _ _ fun _ hq => ?_
      exact hq.palDrop _
  · exact hc
theorem clearSlots (h : s.Wf) (g : Group) : (s.clearSlots g).Wf := by
  unfold State.clearSlots
  split
  · exact h
  · exact h.modWindow _ _ fun _ ⟨hmem, hcache⟩ => ⟨Mem.wf_erase hmem _ _, hcache⟩
theorem bindRings (h : s.Wf) (cell quad : Nat) (hw : List Nat) (x : Nat → Ring) : (s.bindRings cell quad hw x).Wf :=
  h.modQuad _ _ fun _ hq => by exact hq
theorem openCells (h : s.Wf) (c part : Nat) (cells : List Nat) : (s.openCells c part cells).Wf := by
  refine h.foldl (fun s x h => (h.markStale ..).modCell _ fun y hy => ?_) _
  exact Every.map hy fun _ hq => by exact hq
theorem zeroCharge (h : s.Wf) (k : Nat) (cells : List Nat) : (s.zeroCharge k cells).Wf := h
theorem placeNew {k : Nat} {r : Region} {p : Plan} (h : p.st.Wf) (s : State) (pool : Nat × Nat) :
    (s.placeNew k r p pool).Wf := by
  unfold State.placeNew
  refine callSlices ?_
  refine takeShadow ?_ _
  refine modRegion ?_ ..
  refine of_eq (s := List.foldl _ _ _) ?_ rfl rfl rfl rfl
  refine foldl ?_ (fun _ _ h => ?_) _
  · generalize hu : List.foldl _ (State.openCells ..) _ = u
    have hu : u.Wf := by
      rw [← hu]
      refine foldl (h.openCells ..) (fun _ _ h => h.modWindow _ _ fun _ hw => ?_) _
      exact ⟨Mem.wf_erase hw.1 _ _, hw.2⟩
    split
    · exact hu.bindRings ..
    · exact hu
  · split
    · exact h.modQuad _ _ fun _ hq => hq.clearTiles ..
    · exact h.clearSlots _
theorem spillHome (h : s.Wf) (i r : Nat) : (s.spillHome i r).Wf := by
  unfold State.spillHome
  dsimp only
  split
  · exact h
  · exact modGroup (h.homeWrite ..) ..
theorem respill (h : s.Wf) (i : Nat) : (s.respill i).Wf := by
  refine h.foldl (fun u r hu => ite hu ?_) _
  split
  · next hs => exact hu.spillReg hs
  · exact hu.spillHome ..
  · exact hu.modGroup ..
theorem placeBack {k : Nat} {r : Region} {p : Plan} (h : p.st.Wf) (s : State) (b : Nat) : (s.placeBack b k r p).Wf := by
  unfold State.placeBack
  refine callSlices ?_
  dsimp only
  generalize hu : List.foldl _ _ (List.zip _ _) = u
  have hu : u.Wf := by
    rw [← hu]
    refine foldl ?_ (fun _ _ h => ?_) _
    · refine foldl ?_ (fun _ _ h => h.modCell _ fun _ hc => ?_) _
      · refine foldl (modBlock (zeroCharge (h.openCells ..) ..) ..) (fun _ _ h => h.modWindow _ _ fun _ hw => ?_) _
        exact ⟨Mem.wf_paste (Mem.wf_erase hw.1 _ _) _ _, hw.2⟩
      · exact hc
    · split
      · refine modQuad (by split <;> exact h) _ _ fun q hq => ?_
        refine foldl_holds (p := Quad.Wf) (fun q j hq => ?_) ?_ _
        · split
          · exact hq
          · exact Mem.wf_paste (Mem.wf_erase hq _ _) _ _
        · exact foldl_holds (p := Quad.Wf) (fun q j hq => hq.setTile ..) (hq.clearTiles ..) _
      · exact respill (clearSlots (by split <;> exact h) _) _
  split
  · exact hu.bindRings ..
  · exact hu
theorem placeOneItem {it : Item} {barred : List (Nat × Nat)} (h : s.Wf) (ht : s.placeOneItem it barred = some t) :
    t.Wf := by
  unfold State.placeOneItem at ht
  dsimp only at ht
  split at ht
  · cases ht
  · split at ht
    · obtain ⟨p, hp, rfl⟩ := Option.map_eq_some_iff.mp ht
      exact placeBack (h.plan hp) ..
    · split at ht
      · cases ht
      · next hp =>
        obtain ⟨pool, _, rfl⟩ := Option.map_eq_some_iff.mp ht
        exact placeNew (h.plan hp) ..
theorem placeGang {k fuel : Nat} {barred : List (Nat × Nat)} (h : s.Wf)
    (ht : State.placeGang k barred fuel s = some t) : t.Wf := by
  induction fuel generalizing s with
  | zero => cases ht; exact h
  | succ n ih =>
    unfold State.placeGang at ht
    dsimp only at ht
    split at ht
    · cases ht
    · split at ht
      · obtain ⟨u, hu, ht⟩ := Option.bind_eq_some_iff.mp ht
        exact ih (h.placeOneItem hu) ht
      · split at ht
        · obtain ⟨u, hu, ht⟩ := Option.bind_eq_some_iff.mp ht
          exact ih (h.placeOneItem hu) ht
        · cases ht; exact h
theorem placeItem {it : Item} {barred : List (Nat × Nat)} (h : s.Wf) (ht : s.placeItem it barred = some t) : t.Wf := by
  unfold State.placeItem at ht
  split at ht
  · cases ht
  · split at ht
    · exact h.placeGang ht
    · exact h.placeOneItem ht
theorem walkGo (h : s.Wf) (first : Bool) (barred : List (Nat × Nat)) (l : List Item) :
    (State.walkGo first barred l s).Wf := by
  induction l generalizing s first barred with
  | nil => exact h
  | cons it rest ih =>
    unfold State.walkGo
    split
    · next hp => exact modRegion (h.placeItem hp) ..
    · exact ih (ite (h.modRegion ..) h) ..
theorem walkList (h : s.Wf) (part : Nat) : (s.walkList part).Wf := h.walkGo ..
theorem endSlice (h : s.Wf) (k cell : Nat) : (s.endSlice k cell).Wf := h
theorem liftSlice (h : s.Wf) (k cell : Nat) : (s.liftSlice k cell).Wf := h
theorem retire (h : s.Wf) (b : Nat) : (s.retire b).Wf := ite (withdrawEnded (modBlock (h.leavePlace _) ..)) h
theorem drainRegion (h : s.Wf) (k : Nat) (r : Region) : (s.drainRegion k r).Wf := h.drainWindows ..
theorem pick (h : s.Wf) (l : List Nat) : (s.pick l).2.Wf := by
  unfold State.pick
  split
  · exact h
  · exact h
  · exact h.free
theorem ibi (h : s.Wf) (b : Nat) : (s.ibi b).Wf := h
theorem assertFault (h : s.Wf) : (s.assertFault).Wf := by
  unfold State.assertFault
  split
  · exact h
  · exact ibi (raise (h.withHub fun hh => hh) ..) _
theorem deny (h : s.Wf) : (s.deny).Wf := h
theorem guarded {f : State → State} (h : s.Wf) (fw : Nat) (hf : (f s).Wf) : (s.guarded fw f).Wf := ite hf h
theorem onHub {f : State → State} (h : s.Wf) (hf : (f s).Wf) : (s.onHub f).Wf := ite h hf
theorem i3cTransfer (h : s.Wf) : (s.i3cTransfer).Wf := h
theorem cutSave (h : s.Wf) : (s.cutSave).Wf := by
  unfold State.cutSave
  split
  · exact h
  · split
    · exact h.free.free.withHub fun hh => hh.keepWrites _
    · exact h
theorem railLoss (h : s.Wf) (l : List SaveRegion) : (s.railLoss l).2.Wf := by
  induction l generalizing s with
  | nil => exact h
  | cons r l ih =>
    unfold State.railLoss
    by_cases hr : r.kind % 128 = 1
    · simp only [hr]; exact ih h
    · simp only [hr]; exact ih h.free
theorem capture (h : s.Wf) : s.capture.Wf := by
  unfold State.capture
  split
  · next v _ =>
    split
    · by_cases hr : v.rails
      · simp only [hr]; exact h.withHub fun hh => hh
      · simp only [hr]; exact (h.railLoss _).withHub fun hh => hh
    · exact h
  · exact h
theorem launchHandler {m : MustSave} {x : State × Handler} (h : s.Wf) (ht : s.launchHandler m = some x) : x.1.Wf := by
  unfold State.launchHandler at ht
  dsimp only at ht
  split at ht
  · cases ht
    dsimp only
    split <;> exact h
  · cases ht
theorem launchHandlers (h : s.Wf) (l : List Nat) : (s.launchHandlers l).1.Wf := by
  induction l generalizing s with
  | nil => exact h
  | cons c l ih =>
    unfold State.launchHandlers
    split
    · exact ih h
    · split
      · exact ih h
      · next hm => exact ih (h.launchHandler hm)
theorem startSave (h : s.Wf) (event : Nat) (rails : Bool) : (s.startSave event rails).Wf :=
  capture (withHub (h.launchHandlers _) fun hh => hh)
theorem cutCopy (h : s.Wf) : s.cutCopy.Wf := by
  unfold State.cutCopy
  split
  · exact h
  · exact withHub (s := s.free.2) h fun hh => hh.setKeep (Mem.wf_put hh.keep _ _)
theorem keepWrite (h : s.Wf) (fw op v : Nat) : (s.keepWrite fw op v).Wf := by
  refine h.guarded fw (h.onHub ?_)
  split
  · exact h
  · exact h.withHub fun hh => hh
theorem landOld {i : Nat} {p : Pend} {x : State × Option MetAt} (h : s.Wf) (hx : s.landOld i p = .ok (some x)) :
    x.1.Wf := by
  unfold State.landOld at hx
  split at hx
  · cases hx; exact h
  · refine foldl_holds (p := fun y : Except FaultInfo (Option (State × Option MetAt)) => ∀ x, y = .ok (some x) → x.1.Wf)
      (fun y r hy x hx => ?_) ?_ p.regs x hx
    · split at hx
      · cases hx
      · cases hx
      · next u q =>
        have hu : u.Wf := hy _ rfl
        split at hx
        · cases hx; exact hu
        · split at hx
          · cases hx
          · cases hx
          · next hr => cases hx; exact modGroup (hu.readSlot hr) ..
    · rintro _ ⟨⟩
      exact h
theorem landed (h : s.Wf) (i : Nat) (p : Pend) : (s.landed i p).Wf := by
  unfold State.landed
  dsimp only
  split
  · split
    · exact ite (h.completeOp ..) (consumeNow (h.completeOp ..) ..)
    · exact ite h (h.consumeNow ..)
  · split
    · exact h.completeOp ..
    · exact h
theorem freeGroup (h : s.Wf) (i : Nat) : (s.freeGroup i).Wf := (retire (h.modGroup ..) _).capture
theorem loadRecords (h : s.Wf) (i : Nat) : (s.loadRecords i).Wf := by
  unfold State.loadRecords
  dsimp only
  split
  · exact consumeNow (h.modGroup ..) ..
  · exact h.modGroup ..
theorem relaunch (h : s.Wf) (cell : Nat) (b : Bucket) (units : List (List IndexEntry)) (loc : GLoc) :
    (s.relaunch cell b units loc).Wf := by
  unfold State.relaunch
  dsimp only
  split
  · exact h
  · refine callSlices ?_
    generalize hu : State.loadRecords _ _ = u
    have hu : u.Wf := by
      rw [← hu]
      refine loadRecords (clearSlots ?_ _) _
      exact h.modCell cell fun _ hc => hc
    split
    · next hs => exact hu.skim hs
    · exact hu
    · exact hu.modGroup ..
theorem refreshSeams (h : s.Wf) : (s.refreshSeams).Wf := h
theorem physical (h : s.Wf) : s.physical.Wf :=
  ⟨rfl, .nil, .replicate _ (.replicate _ rfl), rfl, rfl, h.hub.keep, .replicate _ rfl⟩
theorem bootStart (h : s.Wf) : s.bootStart.Wf := refreshSeams (h.withHub fun hh => hh)
theorem deviceRung (h : s.Wf) (train : Nat) : (s.deviceRung train).Wf := by
  have hcut : s.cutSave.cutCopy.Wf := h.cutSave.cutCopy
  have hphys : s.cutSave.cutCopy.physical.Wf := hcut.physical
  unfold State.deviceRung
  refine bootStart (withHub ?_ fun hh => hh)
  split
  · exact withHub (withHub hphys fun hh => hh) fun hh => hh
  · exact ⟨hcut.mem, hphys.windows, hphys.cells, hphys.hub⟩

end State.Wf
end Sys2Proof.Machine
end

section
/-! PROOFS. Power, partitions, resets, the display, sparing and the host's functions keep the byte stores' form. -/
namespace Sys2Proof.Machine
open Sys2Proof

namespace State.Wf
variable {s t : State}

theorem zeroCell (h : s.Wf) (c : Nat) : (s.zeroCell c).Wf := by
  refine ⟨h.mem, h.windows.map fun w hw => ?_, h.cells.modifyAt c fun x hx => Every.map hx fun _ _ => rfl, h.hub⟩
  split
  · exact ⟨rfl, rfl⟩
  · exact hw
theorem cleanCell (h : s.Wf) (c : Nat) : (s.cleanCell c).Wf := by
  refine h.foldl (fun _ _ h => modWindow (h.drainLines ..) _ _ fun _ hw => ?_) _
  exact hw
theorem setCellPower (h : s.Wf) (st level c : Nat) : (s.setCellPower st level c).Wf := by
  unfold State.setCellPower
  refine modCell ?_ c fun _ hx => ?_
  · split
    · split
      · exact (h.zeroCell c).modCell c fun _ hx => hx
      · exact ite (h.cleanCell c) (ite (h.zeroCell c) h)
    · exact h
  · exact hx
theorem powerRun (h : s.Wf) (rail : Bool) (v : Nat) : (s.powerRun rail v).2.Wf := by
  have hstate : ∀ n, (s.withHub fun h => { h with dstate := n }).Wf := fun _ => h.withHub fun hh => hh
  unfold State.powerRun
  dsimp only
  split
  · split
    · exact h
    · refine ite_snd h (ite_snd h (ite_snd h ?_))
      exact h.foldl (fun _ _ h => h.setCellPower ..) _
  · exact ite_snd h (ite_snd h (ite_snd h (refreshSeams (h.modPane ..))))
  · refine ite_snd h ?_
    split
    · exact ite_snd (hstate 1) h
    · exact hstate 0
    · exact h
    · exact h.pick _
  · exact h
theorem powerWrite (h : s.Wf) (kind v : Nat) : (s.powerWrite kind v).Wf := by
  have h1 : ∀ r, (s.withHub fun h => { h with power := r }).Wf := fun _ => h.withHub fun hh => hh
  unfold State.powerWrite
  dsimp only
  split
  · exact h1 _
  · split
    · exact startSave (cutCopy (withHub (h1 _) fun hh => hh)) ..
    · exact refreshSeams (foldl (h1 _) (fun _ _ h => h.modCell _ fun _ hc => by exact hc) _)
theorem stage2Inv (h : s.Wf) (f : Nat) (new : List (Nat × Nat)) : (s.stage2Inv f new).Wf :=
  ite h ((h.drainWindows _).dropTlb _)
theorem commitTable (h : s.Wf) (x : Table) : (s.commitTable x).Wf := by
  unfold State.commitTable
  dsimp only
  generalize hu : List.foldl _ s _ = u
  have hu : u.Wf := by
    rw [← hu]
    exact h.foldl (fun _ _ h => h.stage2Inv ..) _
  exact hu
theorem partEnd (h : s.Wf) (r : Nat) : (s.partEnd r).Wf := raise (h.withHub fun hh => hh) ..
theorem partWrite {run : Nat → State → State} (h : s.Wf) (fw op v : Nat) (hr : ∀ n u, u.Wf → (run n u).Wf) :
    (s.partWrite fw op v run).Wf := by
  have h1 : ∀ r, (s.withHub fun h => { h with part := r }).Wf := fun _ => h.withHub fun hh => hh
  exact h.guarded fw (ite h (ite (h1 _) (ite (partEnd (h1 _) _) (hr _ _ (h1 _)))))
theorem invSettle (h : s.Wf) (cs : List Nat) : (s.invSettle cs).Wf := ite (h.withHub fun hh => hh) (h.partEnd 0)
theorem invDone (h : s.Wf) : s.invDone.Wf := ite h (partEnd ((h.drainCtxs _).withHub fun hh => hh) 0)
theorem flushWindow (h : s.Wf) (part cell : Nat) : (s.flushWindow part cell).Wf :=
  (h.drainWindows _).modWindow _ _ fun _ ⟨hmem, _⟩ => ⟨hmem, rfl⟩
theorem handOver (h : s.Wf) (part cell : Nat) (qs : List Nat) (give : Bool) : (s.handOver part cell qs give).Wf := by
  unfold State.handOver
  dsimp only
  generalize hu : (s.flushWindow part cell).modCell cell _ = u
  have hu : u.Wf := by
    rw [← hu]
    refine (h.flushWindow ..).modCell cell fun c hc => ?_
    refine Every.zipIdx hc fun x hx => ?_
    split
    · exact Quad.Wf.zeroed x.1
    · exact hx
  split
  · exact ⟨hu.mem, hu.windows.filter _, hu.cells, hu.hub⟩
  · refine hu.modWindow _ _ fun w hw => ?_
    exact ⟨wf_rebank .., hw.2⟩
theorem recarveEnd (h : s.Wf) (k : Nat) : (s.recarveEnd k).Wf := by
  unfold State.recarveEnd
  split
  · exact h
  · next x _ =>
    refine ite h ?_
    dsimp only
    generalize hu : State.withHub (if x.fence then s else _) _ = u
    have hu : u.Wf := by
      rw [← hu]
      exact withHub (ite h (h.handOver ..)) fun hh => hh
    have h3 : (if x.deferred then u.raise 0 7 else u).Wf := ite (hu.raise ..) hu
    split
    · exact ite (h3.partEnd 0) h3
    · exact h3
theorem recarvesEnd (h : s.Wf) : (s.recarvesEnd).Wf := h.foldl (fun _ _ h => h.recarveEnd ..) _
theorem recarveBegin (h : s.Wf) (part cell : Nat) (qs : List Nat) (grow fence : Bool) (bs : List Nat) :
    (s.recarveBegin part cell qs grow fence bs).Wf := by
  unfold State.recarveBegin
  refine callSlices ?_
  dsimp only
  generalize hu : (if fence then s.withHub _ else _) = u
  have hu : u.Wf := by
    rw [← hu]
    refine ite (h.withHub fun hh => hh)
      (modCell (h.withHub fun hh => hh) cell fun c hc => Every.zipIdx hc fun x hx => ?_)
    split <;> exact hx
  exact ite (raise (hu.withHub fun hh => hh) ..) hu
theorem partSettle (h : s.Wf) : (s.partSettle).Wf := by
  unfold State.partSettle
  dsimp only
  split
  · exact h.recarvesEnd
  · exact ite h.recarvesEnd (h.recarvesEnd.partEnd _)
theorem killCtx (h : s.Wf) (c : Nat) : (s.killCtx c).Wf := by
  unfold State.killCtx
  refine withdrawEnded ?_
  dsimp only
  generalize hu : List.foldl _ (List.foldl (fun s b => State.endBlock s b) s _) _ = u
  have hu : u.Wf := by
    rw [← hu]
    refine foldl (h.foldl (fun _ _ h => h.endBlock _) _) (fun _ _ h => ?_) _
    exact foldl (h.dynFree ..) (fun _ _ h => h.dynFree ..) _
  obtain ⟨hboot, hmesh, hkeep, hfns⟩ := hu.hub
  exact ⟨hu.mem, hu.windows, hu.cells, hboot, hmesh, hkeep, hfns.map fun _ hf => hf⟩
theorem resetUnit (h : s.Wf) (cell u : Nat) : (s.resetUnit cell u).Wf := by
  unfold State.resetUnit
  split
  · exact h
  · exact h.modCell _ fun _ hc => hc
  · have h1 : (s.modCell cell fun c => { c with index := [] }).Wf := h.modCell _ fun _ hc => hc
    exact ⟨h1.mem, h.windows.map fun w hw => by split <;> exact hw, h1.cells, h1.hub⟩
  · exact h.modQuad _ _ fun x _ => Quad.Wf.zeroed x
theorem rungStart (h : s.Wf) (rung tgt : Nat) (asked : Option Nat) (climbed : Bool) :
    (s.rungStart rung tgt asked climbed).Wf := by
  have h0 : (s.raise 0 8).Wf := h.raise ..
  unfold State.rungStart
  refine ite (ite h (h0.deviceRung _)) (foldl (h0.withHub fun hh => hh) (fun _ _ h => ?_) _)
  exact ite (h.modCtx ..) (raise (h.modCtx ..) ..)
theorem rungAct (h : s.Wf) (x : Rung) : (s.rungAct x).Wf := by
  have h1 : ((s.rungCtxsNow x).foldl (fun s c => s.killCtx c) s).Wf := h.foldl (fun _ _ h => h.killCtx _) _
  unfold State.rungAct
  dsimp only
  split
  · exact h1.modFn _ fun _ hf => hf
  · exact h1.resetUnit ..
  · refine h1.foldl (fun u c hu => ite hu (setWindow
      (modCell (hu.foldl (fun _ _ h => ?_) _) _ fun _ hc => ?_) ⟨rfl, rfl⟩)) _
    · exact h.modQuad _ _ fun x _ => Quad.Wf.zeroed x
    · exact hc
  · exact h1
theorem resetSettle (h : s.Wf) (x : Rung) : (s.resetSettle x).Wf := by
  unfold State.resetSettle
  split
  · exact ite h (ite (h.rungStart ..) (h.partEnd _))
  · exact h
theorem rungEnd (h : s.Wf) (k : Nat) (x : Rung) : (s.rungEnd k x).Wf := by
  refine resetSettle (recarvesEnd (foldl (withHub (rungAct (h.foldl (fun _ _ h => h.raise ..) _) x) fun hh => ?_)
    (fun _ _ h => ?_) _)) x
  · exact hh
  · exact ctxRecord (h.modCtx ..) _
theorem modPipe (h : s.Wf) (n : Nat) (f : Pipe → Pipe) : (s.modPipe n f).Wf := h
theorem modCam (h : s.Wf) (n : Nat) (f : CamStream → CamStream) : (s.modCam n f).Wf := h
theorem modSeam (h : s.Wf) (n : Nat) (f : Seam → Seam) : (s.modSeam n f).Wf := h
theorem pipeWrite (h : s.Wf) (n v link : Nat) : (s.pipeWrite n v link).Wf := h.onHub (h.modPipe ..)
theorem pipePoison (h : s.Wf) (c : Option Nat) (x : Nat × Poison) : (s.pipePoison c x).Wf := by
  cases c with
  | none => exact h.devRecord _
  | some c => exact h.ctxRecord _
theorem quarantine (h : s.Wf) (p : Nat) : (s.quarantine p).Wf := by
  unfold State.quarantine
  split
  · exact h
  · refine ite h (foldl (withHub (h.modPane ..) fun hh => ?_) (fun _ _ h => h.rungStart ..) _)
    exact hh
theorem mismatch (h : s.Wf) (n i frame : Nat) (x : Nat × Nat) : (s.mismatch n i frame x).Wf := by
  refine foldl (devRecord (raise (assertFault (withHub (h.modPipe ..) fun hh => ?_)) ..) _)
    (fun _ _ h => h.quarantine _) _
  exact hh
theorem camWrite {owner gpa : Nat} {b : List Byte} (h : s.Wf) (ht : s.camWrite owner gpa b = some t) : t.Wf := by
  obtain ⟨_, ht⟩ := Option.ite_none_left_eq_some.mp ht
  split at ht
  · cases ht
    exact h
  · cases ht
    exact ite (h.homeWrite ..) (h.foldl (fun _ _ h => h.homeWrite ..) _)
theorem camStart (h : s.Wf) (i : Nat) : (s.camStart i).Wf := by
  unfold State.camStart
  dsimp only
  split
  · next hw => exact modCam (h.camWrite hw) ..
  · exact h.modCam ..
theorem camLine (h : s.Wf) (n v crc i : Nat) : (s.camLine n v crc i).Wf := by
  unfold State.camLine
  dsimp only
  split
  · exact h
  · refine ite (h.modCam ..) ?_
    split
    · next hw => exact modCam (h.camWrite hw) ..
    · exact h.modCam ..
theorem camRecord (h : s.Wf) (c : CamStream) (time lines flags : Nat) : (s.camRecord c time lines flags).2.Wf := h
theorem camEnd (h : s.Wf) (i : Nat) : (s.camEnd i).Wf := by
  unfold State.camEnd
  dsimp only
  split
  · exact h
  · refine ite (h.modCam ..) ?_
    split
    · exact h.modCam ..
    · next hw =>
      have h3 := (h.camRecord ..).camWrite hw
      exact raise (ite (setSem (h3.modCam ..) ..) (h3.modCam ..)) ..
theorem spareRecord (h : s.Wf) (kind old new sub lane : Nat) : (s.spareRecord kind old new sub lane).Wf :=
  h.devRecord ..
theorem spareEnd (h : s.Wf) (r : Nat) : (s.spareEnd r).Wf := raise (h.withHub fun hh => hh) ..
theorem spareWrite {run : Nat → State → State} (h : s.Wf) (fw op v : Nat) (hr : ∀ n u, u.Wf → (run n u).Wf) :
    (s.spareWrite fw op v run).Wf := by
  have h1 : ∀ r, (s.withHub fun h => { h with spare := r }).Wf := fun _ => h.withHub fun hh => hh
  exact h.guarded fw (ite h (ite (h1 _) (ite (spareEnd (h1 _) _) (hr _ _ (h1 _)))))
theorem retireCell (h : s.Wf) (phys : Nat) : (s.retireCell phys).Wf := by
  have h0 := h.cleanCell ((s.hub.logical phys).getD 0)
  unfold State.retireCell
  refine ⟨h0.mem, h0.windows.filterMap fun w x hw hx => ?_, List.forall_mem_map.mpr fun l _ => ?_, h.hub⟩
  · split at hx
    · cases hx; exact hw
    · obtain ⟨l, _, rfl⟩ := Option.map_eq_some_iff.mp hx
      exact hw
  · have hold : ∀ i, (((s.cleanCell ((s.hub.logical phys).getD 0)).cells).getD i Cell.reset).Wf :=
      fun i => h0.cells.getD Cell.Wf.reset i
    split
    · exact hold _
    · split
      · exact Cell.Wf.reset
      · split
        · exact List.forall_mem_map.mpr fun _ _ => rfl
        · exact hold _
theorem fence (h : s.Wf) (c q : Nat) : (s.fence c q).Wf := by
  have h0 : (s.modQuad c q fun x => { x with fenced := true }).Wf := by
    refine h.modQuad _ _ fun _ hq => ?_
    exact hq
  exact ite (h0.devRecord _) ((h0.devRecord _).recarveBegin ..)
theorem spareRun (h : s.Wf) (v fail : Nat) : (s.spareRun v fail).2.Wf := by
  unfold State.spareRun
  split
  · exact spareRecord ((h.pick _).withHub fun hh => hh) ..
  · refine ite_snd h ?_
    dsimp only
    split
    · exact (h.retireCell _).spareRecord ..
    · exact h.retireCell _
  · dsimp only
    split
    · exact spareRecord (withHub (h.hubRetireWay _) fun hh => hh) ..
    · exact withHub (h.hubRetireWay _) fun hh => hh
  · refine foldl (withHub (h.foldl (fun _ _ h => ?_) _) fun hh => ?_) (fun _ _ h => h.fence ..) _
    · refine h.modQuad _ _ fun _ hq => ?_
      exact hq
    · exact hh
  · exact h
theorem laneFail (h : s.Wf) (n lane : Nat) : (s.laneFail n lane).Wf := by
  have hrec {f : Seam → Seam} {k : Nat} : (((s.modSeam n f).refreshSeams).spareRecord k n 0xFF 0 lane).Wf :=
    spareRecord (refreshSeams (h.modSeam ..)) ..
  unfold State.laneFail
  split
  · exact h
  · refine ite h (ite hrec (ite hrec (ite ?_ (ite (h.modSeam ..) (spareRecord (modSeam (h.modSeam ..) ..) ..)))))
    have h2 : ((((s.modSeam n fun x => { x with lost := lane :: x.lost }).modSeam n fun x =>
        { x with half := false }).refreshSeams).spareRecord 6 n 0xFF 0 lane).Wf :=
      spareRecord (refreshSeams (modSeam (h.modSeam ..) ..)) ..
    exact ite (h2.quarantine _) h2
theorem threshRecord (h : s.Wf) (src unit cell n : Nat) : (s.threshRecord src unit cell n).Wf := h.devRecord ..
theorem postResult (h : s.Wf) (f cls r : Nat) : (s.postResult f cls r).Wf := h.modFn f fun _ hf => hf
theorem postReject (h : s.Wf) (f cls : Nat) (why : List Nat) : (s.postReject f cls why).Wf := by
  unfold State.postReject
  refine raise (modFn (postResult (h.pick _) ..) f fun _ hf => ?_) ..
  exact hf
theorem resyncTake (h : s.Wf) (f : Nat) : (s.resyncTake f).2.Wf := h.modFn f fun _ hf => hf
theorem resyncDone (h : s.Wf) (f cls r : Nat) : (s.resyncDone f cls r).Wf := (h.postResult ..).raise ..
theorem postRoot (h : s.Wf) (f cls w : Nat) : (s.postRoot f cls w).Wf := by
  refine ite (h.postReject ..) (modCtx (postResult (h.modFn f fun _ hf => ?_) ..) ..)
  exact hf
theorem setResync (h : s.Wf) (f : Nat) (b : List Byte) :
    ((s.resyncTake f).2.modFn f fun x => { x with window := b }).Wf := (h.resyncTake f).modFn f fun _ hf => hf
theorem resyncMemory (h : s.Wf) (f cls w : Nat) : (s.resyncMemory f cls w).Wf := by
  refine ite (h.postReject ..) (ite (resyncDone (h.setResync ..) ..) ?_)
  split
  · next hw => exact resyncDone ((h.setResync ..).writeVa hw) ..
  · exact resyncDone (h.setResync ..) ..
theorem resyncWindow (h : s.Wf) (f cls : Nat) : (s.resyncWindow f cls).Wf := resyncDone (h.setResync ..) ..
theorem postCmd (h : s.Wf) (f cls w : Nat) : (s.postCmd f cls w).Wf := by
  unfold State.postCmd
  split
  · exact h.postRoot ..
  · exact h.resyncMemory ..
  · exact h.resyncWindow ..
  · exact h.postReject ..
theorem postHigh (h : s.Wf) (f cls v : Nat) : (s.postHigh f cls v).Wf := by
  refine postCmd (h.modFn f fun _ hf => ?_) ..
  exact hf
theorem postWrite (h : s.Wf) (f cls half v : Nat) : (s.postWrite f cls half v).Wf :=
  ite h (ite (h.postCmd ..) (h.postHigh ..))
theorem ibiTaken (h : s.Wf) : s.ibiTaken.Wf := by
  unfold State.ibiTaken
  exact ite h (ite h.free (h.free.withHub fun hh => hh))
theorem i3cAnswer (h : s.Wf) (b : List Byte) : (s.i3cAnswer b).Wf := h.ibiTaken.withHub fun hh => hh
theorem i3cIgnored (h : s.Wf) : s.i3cIgnored.Wf := h.ibiTaken.withHub fun hh => hh

end State.Wf
end Sys2Proof.Machine
end

section
/-! PROOFS. An action that ends in states whose byte stores are in canonical form leaves them so (12 R324). -/
namespace Sys2Proof.Machine
open Sys2Proof

/-- Every state that the end of an action carries has its byte stores in canonical form. -/
def Res.Wf : Res → Prop
  | .done s => s.Wf
  | .moved s => s.Wf
  | .trap _ => True
  | .laneTrap s _ _ => s.Wf
  | .after s _ _ => s.Wf
  | .laneBlock s _ _ _ => s.Wf
  | .block s _ => s.Wf
  | .hold s => s.Wf

/-- A meaning that leaves the byte stores in canonical form. -/
def KeepsWf (f : State → Host.Outcome State Fault Refusal) : Prop := ∀ s t, s.Wf → f s = .next t → t.Wf

theorem KeepsWf.of_next {f : State → Host.Outcome State Fault Refusal} {g : State → State} (hf : ∀ s, f s = .next (g s))
    (hg : ∀ s, s.Wf → (g s).Wf) : KeepsWf f := by
  intro s t hs ht
  cases (hf s).symm.trans ht
  exact hg s hs

theorem State.Wf.after {s : State} {o : State → Host.Outcome State Fault Refusal} (h : s.Wf) (ho : KeepsWf o) :
    (s.after o).Wf := by
  unfold State.after
  split
  · next ht => exact ho _ _ h ht
  · exact h

namespace Res.Wf
variable {s0 s : State} {i : Nat} {p : Info} {r q : Res}

theorem ite {c : Prop} [Decidable c] (hr : r.Wf) (hq : q.Wf) : (if c then r else q).Wf := by split <;> assumption
theorem barred (r : Res) : (barredRes r).Wf := by
  unfold barredRes
  (repeat' split) <;> trivial
theorem onDone {f : State → State} (h : r.Wf) (hf : ∀ s, s.Wf → (f s).Wf) : (r.onDone f).Wf := by
  cases r with
  | done s => exact hf s h
  | moved s => exact hf s h
  | trap f => trivial
  | laneTrap s f m => exact hf s h
  | after s f m => exact hf s h
  | laneBlock s f m w => exact h
  | block s w => exact h
  | hold s => exact h
theorem spillWrites {k : State → Res} (h0 : s0.Wf) (hs : s.Wf) (hk : ∀ t, t.Wf → (k t).Wf) :
    (spillWrites s0 s i p k).Wf := by
  unfold Machine.spillWrites
  split
  · trivial
  · exact h0
  · next ht => exact hk _ (hs.skim ht)
theorem spills (h : r.Wf) (h0 : s0.Wf) : (r.spills s0 i p).Wf := by
  cases r with
  | done s => exact spillWrites h0 h fun _ ht => ht
  | laneTrap s f m => exact spillWrites h0 h fun _ ht => ht
  | after s f m => exact spillWrites h0 h fun _ ht => ht
  | moved s => exact h
  | trap f => trivial
  | laneBlock s f m w => exact h
  | block s w => exact h
  | hold s => exact h
theorem settle (h : r.Wf) (h0 : s0.Wf) : (settle s0 i p r).Wf := by
  cases r with
  | done s => exact State.Wf.modGroup h ..
  | moved s => exact h
  | trap f => exact h0.takeFault ..
  | laneTrap s f m => exact State.Wf.takeFault (State.Wf.modGroup h ..) ..
  | after s f m => exact State.Wf.takeFault (State.Wf.modGroup h ..) ..
  | laneBlock s f m w => exact State.Wf.modGroup (State.Wf.takeFault h ..) ..
  | block s w => exact State.Wf.modGroup h ..
  | hold s => exact State.Wf.modGroup h ..
/-- An action goes on from a state that the refills of its registers have come to. -/
theorem prepared {body : State → Nat → Group → Res} (h : s.Wf) (hb : ∀ t i g, t.Wf → (body t i g).Wf) :
    (prepared s i p body).Wf := by
  unfold Machine.prepared
  dsimp only
  split
  · exact h
  · split
    · trivial
    · exact h
    · next x hx =>
      have hst : x.st.Wf := h.refill hx
      have h1 : State.Wf (match x.consumed with
          | some (va, pa, q) => x.st.consume i q va pa
          | .none => x.st) := by
        split
        · exact hst.consume ..
        · exact hst
      split
      · exact hb _ _ _ h1
      · exact (hb _ _ _ (h1.modGroup ..)).onDone fun _ ht => ht.consume ..
theorem released {rel : Bool} {scope : Nat} {k : State → Res} (h : s.Wf) (hk : ∀ t, t.Wf → (k t).Wf) :
    (released s i rel scope k).Wf := by
  unfold Machine.released
  split
  · split
    · next ht => exact h.release_held ht
    · next ht => exact hk _ (h.release ht)
  · exact hk s h
theorem barReleased {rel : Bool} {k : State → Res} (h : s.Wf) (hk : ∀ t, t.Wf → (k t).Wf) :
    (barReleased s i rel k).Wf := by
  unfold Machine.barReleased
  split
  · split
    · next ht => exact h.releaseOnly_held ht
    · next ht => exact hk _ (h.releaseOnly ht)
  · exact hk s h
theorem lanesEnd (h : s.Wf) (fs : List (Nat × FaultInfo)) : (lanesEnd s fs).Wf := by
  unfold Machine.lanesEnd
  split <;> exact h
theorem allLanes (h : s.Wf) (g : Group) (f : FaultInfo) : (allLanes s g f).Wf := h
theorem deferredOr {sel : OpRec → Bool} {k : Res} (h : s.Wf) (hk : k.Wf) : (deferredOr s i p sel k).Wf := by
  unfold Machine.deferredOr
  split
  · exact hk
  · exact State.Wf.takeFault (h.setGroup ..) ..
theorem captureRun {g : Group} {live : Word} {res : List Nat} {ready : Bool}
    {request : State → List (Nat × ContRef) → State} (h : s.Wf) (hr : ∀ t refs, t.Wf → (request t refs).Wf) :
    (captureRun s i g live res ready request).Wf := by
  unfold Machine.captureRun
  split
  · trivial
  · split
    · exact h
    · split
      · trivial
      · exact h
      · next hv =>
        refine State.Wf.takeOut (hr _ _ ((State.Wf.foldl (h.liveValues hv) (fun _ _ h => h.writeRecord ..) _).modCell _
          fun _ hc => ?_)) ..
        exact hc
theorem matIssue (h : s.Wf) (op : MatOp) (word av bv : Nat) (obj : Option Nat) (f : Group → Group) :
    (matIssue s i op word av bv obj f).Wf := by
  refine ite h (State.Wf.modGroup ?_ ..)
  split
  · exact h.flightUp ..
  · exact h
theorem fieldsOk {g : Group} {l : List (Chk × Bool × Nat)} (h : r.Wf) : (fieldsOk g l r).Wf := by
  induction l with
  | nil => exact h
  | cons x l ih =>
    unfold Machine.fieldsOk
    split
    · trivial
    · exact ite ih trivial
theorem matObj {g : Group} {obj : Nat} (h : s.Wf) (hr : r.Wf) : (matObj s g obj r).Wf := by
  unfold Machine.matObj
  split
  · exact h
  · exact hr
theorem sampleCheck {g : Group} {bs : Nat → Option Frag} {bad : Nat → Bool} {detail : Nat} (h : r.Wf) :
    (sampleCheck g bs bad detail r).Wf := ite trivial h
theorem bobjOff {g : Group} {off : Nat} (h : s.Wf) (hr : r.Wf) : (bobjOff s g off r).Wf := ite h (ite h hr)

end Res.Wf

/-- An instruction keeps the form where its action does. -/
theorem runIsa_keepsWf {p : Info} {body : State → Nat → Group → Res} (hb : ∀ s i g, s.Wf → (body s i g).Wf) :
    KeepsWf (runIsa p body) := by
  intro s t hs ht
  unfold runIsa at ht
  split at ht
  · cases ht
  · cases ht
    refine State.Wf.skidEnd (State.Wf.shadowAfter ?_ ..) _
    suffices h : Res.Wf _ from .ite ((h.settle hs).modGroup ..) (h.settle hs)
    split
    · trivial
    · exact .ite (.barred _) (.spills (.prepared hs hb) hs)
/-- An instruction that changes its own group alone. -/
theorem own_keepsWf {p : Info} {f : Group → Group} : KeepsWf (runIsa p (own f)) :=
  runIsa_keepsWf fun _ _ _ h => h

end Sys2Proof.Machine
end

section
/-! PROOFS. The instructions that reach memory, and the returns that serve them, keep the byte stores' form (15). -/
namespace Sys2Proof.Machine
open Sys2Proof

/-! ### Local memory -/

theorem ldcRun_keepsWf {code words order scope : Nat} {ext : Bool} {d i : BitVec 7} {x : BitVec 1} {b : BitVec 8}
    {lit : Word} : KeepsWf (ldcRun code words ext order scope d i x b lit) := by
  refine runIsa_keepsWf fun s gi g h => .released h fun t ht => .lanesEnd ?_ _
  split
  · exact ht.modGroup ..
  · exact State.Wf.acquire (ht.modGroup ..) ..
theorem execLdcBc_keepsWf {d i : BitVec 7} {x : BitVec 1} {b : BitVec 8} {lit : Word} :
    KeepsWf (execLdcBc d i x b lit) := by
  refine runIsa_keepsWf fun s i g h => ?_
  dsimp only
  split
  · exact h
  · exact h.modGroup ..
theorem stcRun_keepsWf {code words order scope : Nat} {ext : Bool} {d i : BitVec 7} {x : BitVec 1} {b : BitVec 8}
    {lit : Word} : KeepsWf (stcRun code words ext order scope d i x b lit) := by
  refine runIsa_keepsWf fun s gi g h => .released h fun t ht => ?_
  dsimp only
  generalize hx : List.foldl _ (_ : StoreAcc) _ = x
  have hx : x.st.Wf := by
    rw [← hx]
    exact foldl_holds (p := fun a : StoreAcc => a.st.Wf) (fun _ _ ha => ha.seg ..) ht _
  refine .lanesEnd ?_ _
  split
  · exact State.Wf.acquire (hx.finishSeg gi) ..
  · exact hx.finishSeg gi
theorem execLatom_keepsWf {o : BitVec 3} {d i : BitVec 7} {x : BitVec 1} {b : BitVec 8} {sc : BitVec 3} {op : BitVec 4}
    {c : BitVec 7} : KeepsWf (execLatom o d i x b sc op c) := by
  refine runIsa_keepsWf fun s gi g h => .released h fun t ht => .lanesEnd ?_ _
  refine .ite (State.Wf.acquire (State.Wf.modGroup ?_ ..) ..) (State.Wf.modGroup ?_ ..)
  all_goals
    refine State.Wf.foldl_fst ht (fun acc l hacc => ?_) _
    obtain ⟨u, vs, fs, p⟩ := acc
    dsimp only
    split
    · exact hacc
    · exact State.Wf.segWrite hacc ..
theorem execCbkDec_keepsWf {d a b : BitVec 7} {bf : BitVec 1} {p : BitVec 2} : KeepsWf (execCbkDec d a b bf p) :=
  runIsa_keepsWf fun _ _ _ h => .ite (.allLanes h ..) (.ite (.allLanes h ..) (.lanesEnd (h.modGroup ..) _))

/-! ### Private and global memory -/

theorem execLdp_keepsWf {d i : BitVec 7} {b : BitVec 8} {lit : Word} : KeepsWf (execLdp d i b lit) := by
  refine runIsa_keepsWf fun s gi g h => ?_
  have h0 : ∀ l k, ((s.reach g 4 l).homeSeen 4 k).Wf := fun _ _ => (h.reach ..).homeSeen ..
  dsimp only
  split
  · exact h0 _ _
  · next hf => exact .lanesEnd (State.Wf.modGroup (((h0 _ _).fillLines hf).touchLines ..) ..) _

/-- The state that a store has come to, where it goes on, has its byte stores in canonical form. -/
def GStore.Wf : GStore → Prop
  | .on x => x.st.Wf
  | _ => True

theorem GStore.Wf.lane {x : GStore} (h : x.Wf) (i : Nat) (es : List BoundEntry) (home : Bool) (l va : Nat)
    (tr : Except FaultInfo (Nat × Nat)) (b : List Byte) : (x.lane i es home l va tr b).Wf := by
  cases x with
  | wait => trivial
  | overflow => trivial
  | on y =>
    unfold GStore.lane
    dsimp only
    split
    · exact h
    · split
      · exact h
      · split
        · trivial
        · next u hu =>
          have h1 : u.Wf := by
            refine State.Wf.foldl_some (State.Wf.reach h ..) (fun _ => rfl) (fun s z t hs ht => ?_) hu
            dsimp only at ht
            split at ht
            · cases ht
              refine (hs.homeWrite ..).modWindow _ _ fun w hw => ⟨hw.1, ?_⟩
              refine foldl_holds (p := fun m : Mem => m.wf = true) (fun m k hm => ?_) hw.2 _
              split
              · split
                · exact Mem.wf_set hm _ _
                · exact hm
              · exact hm
            · exact hs.putGlobal ht
          split
          · trivial
          · exact h1
/-- The lanes of a store, one after the other. -/
theorem GStore.Wf.lanes {s : State} {f : GStore → Nat → GStore} (h : s.Wf) (hf : ∀ x l, x.Wf → (f x l).Wf)
    (l : List Nat) : (l.foldl f (.on ⟨s, [], [], []⟩)).Wf :=
  foldl_holds (p := GStore.Wf) (x := .on ⟨s, [], [], []⟩) hf h l
theorem GStore.Wf.finish {x : GStore} {s0 : State} {k : State → State} (h : x.Wf) (h0 : s0.Wf) (i : Nat)
    (hk : ∀ s, s.Wf → (k s).Wf) (more : List (Nat × FaultInfo)) : (x.finish s0 i k more).Wf := by
  cases x with
  | wait => exact h0
  | overflow => trivial
  | on y =>
    have hy : y.st.Wf := h
    refine .lanesEnd (hk _ (State.Wf.boundRecords ?_ ..)) _
    exact .ite hy (hy.setWindow (hy.window ..))
theorem execStp_keepsWf {d i : BitVec 7} {b : BitVec 8} {lit : Word} : KeepsWf (execStp d i b lit) :=
  runIsa_keepsWf fun _ _ _ h => GStore.Wf.finish (.lanes h (fun _ _ hx => hx.lane ..) _) h _
    (fun _ hs => hs) _
theorem gldRun_keepsWf {code words order scope : Nat} {ext : Bool} {d i : BitVec 7} {x : BitVec 1} {b : BitVec 8}
    {lit : Word} : KeepsWf (gldRun code words ext order scope d i x b lit) := by
  refine runIsa_keepsWf fun s gi g h => .released h fun t ht => ?_
  have h0 : ∀ n l k, ((t.reach g n l).homeSeen n k).Wf := fun _ _ _ => (ht.reach ..).homeSeen ..
  have hgo : ∀ {u : State}, u.Wf → ∀ part cell n pas f fs, (lanesEnd (if order = 0 then
      (u.touchLines part cell n pas).modGroup gi f else
        ((u.touchLines part cell n pas).modGroup gi f).acquire gi scope) fs).Wf := fun hu _ _ _ _ _ _ =>
    .lanesEnd (.ite ((hu.touchLines ..).modGroup ..) (State.Wf.acquire ((hu.touchLines ..).modGroup ..) ..)) _
  dsimp only
  split
  · exact hgo (h0 ..) ..
  · split
    · split
      · exact h0 ..
      · next hf => exact hgo ((h0 ..).fillLines hf) ..
    · exact h0 ..
theorem gstRun_keepsWf {code words order scope : Nat} {ext : Bool} {d i : BitVec 7} {x : BitVec 1} {b : BitVec 8}
    {lit : Word} : KeepsWf (gstRun code words ext order scope d i x b lit) :=
  runIsa_keepsWf fun _ _ _ h => .released h fun _ ht =>
    GStore.Wf.finish (.lanes ht (fun _ _ hx => hx.lane ..) _) h _
      (fun _ hs => .ite (hs.acquire ..) hs) _

/-! ### The cell cache -/

theorem ccRun_keepsWf {skip : Bool} {act : State → Nat → Nat → Nat → Bool → State} {near : State → Nat → State}
    {a l : BitVec 8} (ha : ∀ s j k n b, s.Wf → (act s j k n b).Wf) (hn : ∀ s k, s.Wf → (near s k).Wf) :
    KeepsWf (ccRun skip act near a l) := by
  refine runIsa_keepsWf fun s gi g h => ?_
  dsimp only
  generalize (if l = 0xFF#8 then _ else _ : Nat × Nat) = q
  refine .ite trivial ?_
  generalize hx : List.foldl _ (s, _) _ = x
  have hx : x.1.Wf := by
    rw [← hx]
    refine State.Wf.foldl_fst h (fun acc p hacc => ?_) _
    split
    · exact hacc
    · split
      · split <;> exact hacc
      · exact State.Wf.foldl (State.Wf.useG hacc ..) (fun u ln hu => .ite (hn _ _ hu) (ha _ _ _ _ _ hu)) _
  split <;> exact hx
theorem execCcPrefetch_keepsWf {a l : BitVec 8} : KeepsWf (execCcPrefetch a l) := by
  delta execCcPrefetch
  refine ccRun_keepsWf (fun s j k n _ h => ?_) fun s k h => h.hubUse ..
  cases hf : s.fillLine j k n with
  | none => exact h
  | some t => exact h.fillLine hf
theorem execCcWb_keepsWf {a l : BitVec 8} : KeepsWf (execCcWb a l) := by
  delta execCcWb
  exact ccRun_keepsWf (fun _ _ _ _ _ h => .ite h (h.writeBack ..)) fun _ _ h => h
theorem execCcDiscard_keepsWf {a l : BitVec 8} : KeepsWf (execCcDiscard a l) := by
  delta execCcDiscard
  exact ccRun_keepsWf (fun _ _ _ _ _ h => .ite h (.ite (h.modWindow _ _ fun _ hw => hw.dropLine _) (h.writeBack ..)))
    fun _ _ h => h
theorem execLineFillReturn_keepsWf {g : Nat} : KeepsWf (execLineFillReturn g) := by
  refine .of_next (fun _ => rfl) fun s h => ?_
  split
  · split
    · exact h
    · next hf => exact (h.fillLines hf).modGroup ..
  · exact h
theorem execReleaseDrainComplete_keepsWf {g : Nat} : KeepsWf (execReleaseDrainComplete g) := by
  refine .of_next (fun _ => rfl) fun s h => .ite (((h.drainLines ..).modWindow _ _ fun _ hw => ?_).modGroup ..) h
  exact hw

/-! ### Atomics -/

theorem atomRun_keepsWf {slot : Option Nat} {order : Nat} {z i : BitVec 7} {x : BitVec 1} {b : BitVec 8} {sc : BitVec 3}
    {op : BitVec 4} {c : BitVec 7} : KeepsWf (atomRun slot order z i x b sc op c) := by
  refine runIsa_keepsWf fun s gi g h => .ite h (.released (h.commitEarly _) fun t ht => ?_)
  dsimp only
  split
  · exact ht
  · next hu =>
    have hsent := State.Wf.sendAtoms (State.Wf.foldl (ht.foldl (fun _ _ h => h.useG ..) _)
      (fun _ _ h => h.commitOthers ..) _) hu
    refine .lanesEnd ?_ _
    split
    · exact hsent
    · exact hsent.modGroup ..
theorem rslotRun_keepsWf {wide : Bool} {d : BitVec 7} {slot : BitVec 3} : KeepsWf (rslotRun wide d slot) := by
  refine runIsa_keepsWf fun s gi g h => ?_
  dsimp only
  split
  · exact .ite h (State.Wf.acquire (h.modGroup ..) ..)
  · exact h.modGroup ..
theorem execAtomicPerform_keepsWf {k : Nat} : KeepsWf (execAtomicPerform k) := by
  refine .of_next (fun _ => rfl) fun s h => ?_
  dsimp only
  split
  · exact h
  · refine .ite h ?_
    split
    · exact (h.consumeFor ..).homeWrite ..
    · exact h.homeWrite ..
theorem execAtomReply_keepsWf {k : Nat} : KeepsWf (execAtomReply k) := by
  refine .of_next (fun _ => rfl) fun s h => ?_
  split
  · exact h
  · split
    · refine .ite (State.Wf.barComplete ?_ _)
        (State.Wf.barComplete (State.Wf.modGroup (State.Wf.winWrite ?_ ..) ..) _) <;>
        exact h
    · exact h

/-! ### Copies -/

theorem hodRun_keepsWf {fn : Nat} {d b : BitVec 8} : KeepsWf (hodRun fn d b) := by
  refine runIsa_keepsWf fun s gi g h => ?_
  dsimp only
  split
  · exact h
  · refine .ite h (State.Wf.modQuad (State.Wf.modGroup ?_ ..) _ _ fun _ hq => ?_)
    · split
      · exact State.Wf.flightUp (.ite (h.commitEarly _) h) ..
      · exact .ite (h.commitEarly _) h
    · exact hq
theorem execHodOpComplete_keepsWf {cell quad k : Nat} : KeepsWf (execHodOpComplete cell quad k) := by
  refine .of_next (fun _ => rfl) fun s h => ?_
  dsimp only
  split
  · exact h
  · next r _ =>
    refine .ite h ?_
    generalize hx : (if r.fn = 6 then _ else _ : HodSt) = x
    have hx : x.st.Wf := by
      rw [← hx]
      split
      · dsimp only
        exact h.hodPrefetch ..
      · exact foldl_holds (p := fun x : HodSt => x.st.Wf) (x := ⟨s, .none, fNone, [], false⟩)
          (fun _ _ hx => State.Wf.hodElem hx ..) h _
    refine .ite h ?_
    generalize hu : State.modGroup _ r.group _ = u
    have hu : u.Wf := by
      rw [← hu]
      refine State.Wf.modGroup ?_ ..
      refine State.Wf.modQuad (hx.boundRecords ..) _ _ fun _ hq => ?_
      exact hq
    split
    · exact hu.completeOp ..
    · exact .ite (State.Wf.completeOp (State.Wf.bobjStarve (hu.flightDown ..) ..) ..)
        (State.Wf.completeOp (hu.opArrive ..) ..)

/-! ### Rings and messages -/

theorem ringTake_keepsWf {producer : Bool} {want next : Nat} {d : BitVec 8} {r : BitVec 4} :
    KeepsWf (ringTake producer want next d r) :=
  runIsa_keepsWf fun _ _ _ h => .ite trivial (.ite h (State.Wf.acquire (State.Wf.modGroup (h.setRing ..) ..) ..))
theorem ringGive_keepsWf {producer : Bool} {want next : Nat} {a : BitVec 8} {r : BitVec 4} :
    KeepsWf (ringGive producer want next a r) :=
  runIsa_keepsWf fun _ _ _ h => .ite trivial (.ite trivial
    (State.Wf.modGroup (State.Wf.setRing ((h.commitFor ..).publishGroup _) ..) ..))
theorem execMsgSend_keepsWf {r b : BitVec 8} : KeepsWf (execMsgSend r b) := by
  refine runIsa_keepsWf fun s i g h => ?_
  dsimp only
  split
  · exact h
  · exact .ite trivial (.ite h (.released h fun t ht => ht.commitEarly _))
theorem takeMsg_wf {s : State} (h : s.Wf) (gi r off k : Nat) (m : Msg) : (takeMsg s gi r off k m).Wf := by
  have hseg :
      ((StoreAcc.seg ⟨s, [], [], []⟩ gi .none (s.boundsOf (s.group gi).id.ctx) 0 off m.payload).finishSeg gi).Wf :=
    State.Wf.finishSeg (State.Wf.seg (a := ⟨s, [], [], []⟩) h ..) _
  unfold takeMsg
  dsimp only
  split
  · exact h
  · refine State.Wf.acquire (State.Wf.modGroup (hseg.modWindow _ _ fun _ hw => ?_) ..) ..
    exact hw
theorem msgTake_keepsWf {wait : Bool} {r b : BitVec 8} {c : BitVec 4} : KeepsWf (msgTake wait r b c) := by
  refine runIsa_keepsWf fun s i g h => ?_
  dsimp only
  split
  · exact h
  · split
    · exact takeMsg_wf h ..
    · exact .ite h h
theorem execMsgFree_keepsWf {r : BitVec 8} {c : BitVec 4} : KeepsWf (execMsgFree r c) := by
  refine runIsa_keepsWf fun s i g h => ?_
  dsimp only
  split
  · refine State.Wf.modGroup (h.modWindow _ _ fun _ hw => ?_) ..
    exact hw
  · exact h.modGroup ..
theorem execMsgDeliver_keepsWf {k : Nat} : KeepsWf (execMsgDeliver k) := by
  refine .of_next (fun _ => rfl) fun s h => ?_
  split
  · exact h
  · refine .ite h (.ite h (State.Wf.completeOp (State.Wf.modWindow ?_ _ _ fun _ hw => ?_) ..))
    · exact h
    · exact hw

end Sys2Proof.Machine
end

section
/-! PROOFS. The ends of threads, sleeps, gate calls, barriers, semaphores, monitors and the system's forms keep the byte
stores' form (07; 13). -/
namespace Sys2Proof.Machine
open Sys2Proof

/-! ### Ends, traps, sleeps and gates -/

theorem execExit_keepsWf : KeepsWf execExit := runIsa_keepsWf fun _ _ _ h => (h.endThreads ..).lateFaults _
theorem execTail_keepsWf : KeepsWf execTail := runIsa_keepsWf fun _ _ _ h => (h.endThreads ..).lateFaults _
theorem execTrap_keepsWf {n : BitVec 8} : KeepsWf (execTrap n) := runIsa_keepsWf fun _ _ _ h => h
theorem execBrk_keepsWf {n : BitVec 8} : KeepsWf (execBrk n) := runIsa_keepsWf fun _ _ _ h => h
theorem execResume_keepsWf : KeepsWf execResume := by
  refine runIsa_keepsWf fun s i g h => ?_
  split
  · trivial
  · refine .ite trivial ?_
    split
    · trivial
    · exact h
theorem execSread_keepsWf {d n : BitVec 8} : KeepsWf (execSread d n) := runIsa_keepsWf fun _ _ _ h => h
theorem execSwrite_keepsWf {a n : BitVec 8} : KeepsWf (execSwrite a n) :=
  runIsa_keepsWf fun _ _ _ h => .ite trivial (.ite trivial h)
theorem sleepCheck_wf {s : State} (h : s.Wf) (i : Nat) (p : Info) (t : Nat) : (sleepCheck s i p t).Wf :=
  .deferredOr h (.ite h (.ite (h.missPromise _) (h.missPromise _)))
theorem execSleepUntil_keepsWf {a : BitVec 8} : KeepsWf (execSleepUntil a) := by
  refine runIsa_keepsWf fun s i g h => ?_
  dsimp only
  split
  · exact .deferredOr h h
  · refine .ite (.deferredOr h h) (.ite (.ite h h) (.ite ?_ h))
    have hc := sleepCheck_wf h i ⟨.sys, 1, [.pair a.toNat]⟩ (g.spair a.toNat).toNat
    split
    · next hr =>
      rw [hr] at hc
      exact .ite hc hc
    · exact hc
theorem execSleepCyc_keepsWf {a : BitVec 8} : KeepsWf (execSleepCyc a) := by
  refine runIsa_keepsWf fun s i g h => .ite h ?_
  split
  · exact .ite h h
  · exact .ite h h
theorem execYield_keepsWf : KeepsWf execYield := runIsa_keepsWf fun _ _ _ h => .ite h h
theorem execSleepExpiry_keepsWf {i : Nat} : KeepsWf (execSleepExpiry i) := by
  refine .of_next (fun _ => rfl) fun s h => ?_
  dsimp only
  split
  · exact .ite h (.ite h (.ite (h.missPromise _) (h.missPromise _)))
  · exact h
theorem ctlRun_keepsWf {f : Group → Option (Lanes × List MaskEntry × DWord)} : KeepsWf (ctlRun f) := by
  refine runIsa_keepsWf fun s i g h => ?_
  split
  · trivial
  · exact h
theorem execGate_keepsWf {n : BitVec 8} : KeepsWf (execGate n) := by
  refine runIsa_keepsWf fun s i g h => ?_
  dsimp only
  split
  · trivial
  · refine .ite h ?_
    split
    · trivial
    · exact h
    · next hr =>
      refine .ite trivial ?_
      split
      · exact h
      · next hw => exact State.Wf.gateEnter ((h.residentFirst hr).writeFrame hw) ..
theorem execGret_keepsWf : KeepsWf execGret := by
  refine runIsa_keepsWf fun s i g h => ?_
  split
  · trivial
  · refine .ite h (.ite trivial ?_)
    split
    · exact h
    · split
      · trivial
      · exact h
      · next hr => exact State.Wf.gateLeave (h.residentFirst hr) ..
      · next hr => exact State.Wf.modGroup (h.residentFirst hr) ..
theorem execGateBudgetExpiry_keepsWf {i : Nat} : KeepsWf (execGateBudgetExpiry i) :=
  .of_next (fun _ => rfl) fun _ h => .ite (h.takeFault ..) h

/-! ### Barriers -/

theorem execBarArrive_keepsWf : KeepsWf execBarArrive := by
  refine runIsa_keepsWf fun s i g h => .barReleased h fun t ht => ?_
  have h1 := ht.barArrive i g
  exact .ite h1 h1
theorem execBarDrop_keepsWf : KeepsWf execBarDrop :=
  runIsa_keepsWf fun _ _ _ h => .barReleased h fun _ ht => ht.barDrop ..
theorem execBarWait_keepsWf : KeepsWf execBarWait := runIsa_keepsWf fun _ _ _ h => .ite (h.acquire ..) h
theorem execBar_keepsWf : KeepsWf execBar := by
  refine runIsa_keepsWf fun s i g h => .ite (h.acquire ..) (.barReleased h fun t ht => ?_)
  have h1 := ht.barArrive i g
  exact .ite (.ite (h1.acquire i 1) h1) (.ite (h1.acquire i 1) h1)
theorem bobjRun_keepsWf {pair : Option (BitVec 8)} {b : BitVec 8} {f : State → Nat → Group → Nat → Res}
    (hf : ∀ s i g off, s.Wf → (f s i g off).Wf) : KeepsWf (bobjRun pair b f) :=
  runIsa_keepsWf fun s i g h => .bobjOff h (hf s i g _ h)
theorem execBobjInit_keepsWf {p b : BitVec 8} {m : BitVec 1} : KeepsWf (execBobjInit p b m) :=
  runIsa_keepsWf fun _ _ _ h => .bobjOff h (.ite h ((h.setBobj ..).bobjUpset ..))
theorem execBobjJoin_keepsWf {b : BitVec 8} : KeepsWf (execBobjJoin b) := by
  delta execBobjJoin
  exact bobjRun_keepsWf fun _ _ _ _ h => .ite trivial (.ite h (State.Wf.modGroup (h.setBobj ..) ..))
theorem execBobjLeave_keepsWf {b : BitVec 8} : KeepsWf (execBobjLeave b) := by
  delta execBobjLeave
  exact bobjRun_keepsWf fun _ _ _ _ h => h.bobjLeave ..
theorem execBobjArrive_keepsWf {p b : BitVec 8} {a : BitVec 1} : KeepsWf (execBobjArrive p b a) := by
  delta execBobjArrive
  refine bobjRun_keepsWf fun s i g off h => ?_
  have hl : ∀ (amount : Nat) (l : List Nat),
      (l.foldl (State.bobjLane i off amount) ((s.commitFor g.id.block 2).publishGroup i, [])).1.Wf :=
    fun _ _ => State.Wf.foldl_fst ((h.commitFor ..).publishGroup _) (fun _ _ hacc => hacc.bobjLane ..) _
  exact .ite (hl ..) (hl ..)
theorem execBobjExpect_keepsWf {p b : BitVec 8} : KeepsWf (execBobjExpect p b) := by
  delta execBobjExpect
  exact bobjRun_keepsWf fun _ _ _ _ h => .ite trivial (h.setBobj ..)
theorem execBobjWait_keepsWf {p b : BitVec 8} : KeepsWf (execBobjWait p b) := by
  delta execBobjWait
  exact bobjRun_keepsWf fun _ _ _ _ h => .deferredOr h (.ite (h.acquire ..) (.ite trivial h))
theorem execBobjTest_keepsWf {p b : BitVec 8} : KeepsWf (execBobjTest p b) := by
  delta execBobjTest
  exact bobjRun_keepsWf fun _ _ _ _ h => State.Wf.ite (State.Wf.acquire (h.modGroup ..) ..) (h.modGroup ..)
theorem execWaitCnt_keepsWf {n : BitVec 6} {c : BitVec 2} : KeepsWf (execWaitCnt n c) :=
  runIsa_keepsWf fun _ _ _ h => .deferredOr h (.ite h h)
theorem execFence_keepsWf {sc o : BitVec 3} : KeepsWf (execFence sc o) :=
  runIsa_keepsWf fun _ _ _ h => .released h fun _ ht => State.Wf.ite (ht.acquire ..) ht

/-! ### Semaphores and monitors -/

theorem semRun_keepsWf {n : BitVec 8} {f : State → Nat → Group → Res} (hf : ∀ s i g, s.Wf → (f s i g).Wf) :
    KeepsWf (semRun n f) := runIsa_keepsWf fun s i g h => .ite h (hf s i g h)
theorem semUpdate_keepsWf {n a : BitVec 8} {op : Word → Word → Word} : KeepsWf (semUpdate n a op) :=
  semRun_keepsWf fun _ _ _ h => .released h fun _ ht => (ht.commitEarly _).setSem ..
theorem execSemSet_keepsWf {a n : BitVec 8} : KeepsWf (execSemSet a n) := by
  delta execSemSet
  exact semUpdate_keepsWf
theorem execSemWaitge_keepsWf {a n : BitVec 8} : KeepsWf (execSemWaitge a n) :=
  semRun_keepsWf fun _ _ _ h => .ite (h.acquire ..) h
theorem execSemRead_keepsWf {d n : BitVec 8} : KeepsWf (execSemRead d n) :=
  semRun_keepsWf fun _ _ _ h => State.Wf.acquire (h.modGroup ..) ..
theorem monDone_wf {s : State} (h : s.Wf) (i : Nat) : (monDone s i).Wf := State.Wf.acquire (h.modGroup ..) ..
theorem execWaitc_keepsWf {r w : BitVec 1} {c : BitVec 3} {a b : BitVec 8} : KeepsWf (execWaitc r w c a b) := by
  refine runIsa_keepsWf fun s i g h => .ite (monDone_wf h i) (.ite (.ite (monDone_wf h i) h) ?_)
  dsimp only
  split
  · exact h
  · generalize Poisons.hit _ _ _ = q
    cases q with
    | none => exact .ite (State.Wf.acquire (h.modGroup ..) ..) (.ite (monDone_wf h i) (.ite h h))
    | some x =>
      have h1 := h.consume i x.2 (g.spair a.toNat).toNat x.1
      exact .ite (State.Wf.acquire (h1.modGroup ..) ..) (.ite (monDone_wf h1 i) (.ite h1 h1))
theorem execMonitorMatch_keepsWf {i : Nat} : KeepsWf (execMonitorMatch i) := .of_next (fun _ => rfl) fun _ h => h
theorem execMonitorPoll_keepsWf {i : Nat} : KeepsWf (execMonitorPoll i) := .of_next (fun _ => rfl) fun _ h => h

/-! ### The system's forms -/

theorem execTlbInv_keepsWf {a : BitVec 8} {l : BitVec 1} : KeepsWf (execTlbInv a l) :=
  runIsa_keepsWf fun _ _ _ h => .ite h (.released h fun _ ht =>
    .ite ((ht.drainCtxs _).dropTlb _) ((ht.drainCtxs _).dropTlb _))
theorem execIxuLoad_keepsWf {a : BitVec 8} {n : BitVec 5} : KeepsWf (execIxuLoad a n) := by
  refine runIsa_keepsWf fun s i g h => .ite h ?_
  split
  · exact h
  · refine State.Wf.modCell (h.consumeRead ..) _ fun _ hc => ?_
    exact hc
theorem execCcFlush_keepsWf : KeepsWf execCcFlush := runIsa_keepsWf fun _ _ _ h => h.drainLines ..
theorem execCcInval_keepsWf : KeepsWf execCcInval := by
  refine runIsa_keepsWf fun s i g h => State.Wf.modWindow (h.drainLines ..) _ _ fun w hw => ?_
  exact foldl_holds (p := Window.Wf) (fun _ _ hw => hw.dropLine _) hw _
theorem execBndSet_keepsWf {a : BitVec 8} : KeepsWf (execBndSet a) := by
  refine runIsa_keepsWf fun s i g h => .ite h ?_
  split
  · exact h
  · exact State.Wf.modCtx (h.consumeRead ..) ..
theorem execTlbWalkComplete_keepsWf {cell quad c va : Nat} : KeepsWf (execTlbWalkComplete cell quad c va) := by
  refine .of_next (fun _ => rfl) fun s h => ?_
  dsimp only
  split
  · exact h
  · refine .ite h ?_
    split
    · exact h
    · exact State.Wf.fillTlb1 (s := { s with panes := _ }) h ..
    · split
      · exact h
      · refine State.Wf.fillTlb1 ?_ ..
        exact h

end Sys2Proof.Machine
end

section
/-! PROOFS. The instructions of the graphics and of the matrix unit, and the operations they start, keep the byte
stores' form (16 R441 to R465; 17 R466 to R500). -/
namespace Sys2Proof.Machine
open Sys2Proof

/-! ### Screeds and tiles -/

theorem execTicketDone_keepsWf {k t : Nat} : KeepsWf (execTicketDone k t) := by
  refine .of_next (fun _ => rfl) fun s h => ?_
  dsimp only
  split
  · exact h
  · split
    · exact h
    · exact .ite h h
theorem execForcedRender_keepsWf {k : Nat} : KeepsWf (execForcedRender k) := .of_next (fun _ => rfl) fun _ h => h
theorem execTileFlush_keepsWf {k t : Nat} : KeepsWf (execTileFlush k t) := by
  refine .of_next (fun _ => rfl) fun s h => ?_
  dsimp only
  split
  · exact h
  · split
    · exact h
    · refine .ite h (State.Wf.modPass (State.Wf.dynFree (State.Wf.screedRecords ?_ ..) ..) ..)
      refine State.Wf.foldl_fst h (fun acc j hacc => ?_) _
      split <;> next hw => exact congrArg Prod.fst hw ▸ State.Wf.screedWrite hacc ..
/-- The pixels of a tile, stored one after another. -/
theorem State.Wf.storePixels {s : State} (h : s.Wf) (p : Pass) (t : Nat) (colour : Bool) (xs : List Sample)
    (es : List (Nat × Nat × Nat)) (l : List Nat) :
    (l.foldl (fun (acc : State × List (Nat × Nat × Nat)) j =>
      ((acc.1.storePixel p t j colour xs).1, acc.2 ++ (acc.1.storePixel p t j colour xs).2)) (s, es)).1.Wf := by
  refine foldl_holds (p := fun x : State × List (Nat × Nat × Nat) => x.1.Wf) (fun x j hx => ?_) h l
  exact State.Wf.storePixel hx p t j colour xs
theorem execTileStore_keepsWf {k t : Nat} : KeepsWf (execTileStore k t) := by
  refine .of_next (fun _ => rfl) fun s h => ?_
  dsimp only
  split
  · exact h
  · next p _ =>
    refine .ite h ?_
    refine State.Wf.passEnd (State.Wf.modPass ?_ ..) _
    split
    · exact State.Wf.dynFree
        (State.Wf.foldl (State.Wf.screedRecords (h.storePixels ..) ..) (fun _ _ h => h.ctxRecord _) _) ..
    · exact State.Wf.foldl (State.Wf.screedRecords (h.storePixels ..) ..) (fun _ _ h => h.ctxRecord _) _

/-- The state that an emission leaves, where it leaves one, has its byte stores in canonical form. -/
def Emit.Wf : Emit → Prop
  | .taken s => s.Wf
  | .failed _ => True
  | .wait s => s.Wf

theorem State.Wf.emit {s : State} (h : s.Wf) (k : Nat) (words : List Word) : (s.emit k words).Wf := by
  unfold State.emit
  split
  · exact h
  · dsimp only
    split
    · exact h
    · split
      · exact h
      · split
        · trivial
        · exact State.Wf.modPass (h.homeWrite ..) ..
theorem State.Wf.openPass {s : State} (h : s.Wf) (i : Nat) (g : Group) (b : BitVec 7) :
    (∀ r, s.openPass i g b = .error r → r.Wf) ∧ ∀ x, s.openPass i g b = .ok x → x.1.Wf := by
  unfold State.openPass
  dsimp only
  (repeat' split) <;> constructor <;> rintro _ ⟨⟩
  all_goals first | trivial | exact h | skip
  next hd => exact State.Wf.consumeRead (h.dynAlloc hd) ..
theorem execPrimEmit_keepsWf {a b : BitVec 7} : KeepsWf (execPrimEmit a b) := by
  refine runIsa_keepsWf fun s i g h => .ite h (.ite h ?_)
  have ho := (h.commitEarly g.id.block).openPass i g b
  split
  · next he => exact ho.1 _ he
  · next s1 k he =>
    have h1 : s1.Wf := ho.2 _ he
    dsimp only
    generalize hx : List.foldl _ (s1, _) _ = x
    have hx : x.1.Wf := by
      rw [← hx]
      refine State.Wf.foldl_fst h1 (fun acc l hacc => ?_) _
      have hm := State.Wf.emit hacc k ((List.range 13).map fun j => g.vlane (a.toNat + j) l)
      split
      · exact hacc
      · split
        · next hr => rw [hr] at hm; exact hm
        · exact hacc
        · next hr => rw [hr] at hm; exact hm
    exact .ite hx (.lanesEnd hx _)
theorem execPrimEmitClose_keepsWf {b : BitVec 7} : KeepsWf (execPrimEmitClose b) := by
  refine runIsa_keepsWf fun s i g h => ?_
  dsimp only
  split
  · exact State.Wf.passClose (h.commitEarly _) ..
  · exact h.commitEarly _
theorem execTileGet_keepsWf {kd : BitVec 3} {b : BitVec 7} : KeepsWf (execTileGet kd b) := by
  refine runIsa_keepsWf fun s i g h => .ite trivial ?_
  split
  · exact h
  · split
    · exact h
    · next hp =>
      split
      · exact h
      · exact h.pickHalf hp
theorem boundRun_keepsWf {p : Info} {body : State → Nat → Group → (Nat → Option Frag) → Res}
    (hb : ∀ s i g bs, s.Wf → (body s i g bs).Wf) : KeepsWf (boundRun p body) :=
  runIsa_keepsWf fun s i g h => .ite trivial (hb s i g _ h)
theorem execTileDone_keepsWf : KeepsWf execTileDone := by
  delta execTileDone
  exact boundRun_keepsWf fun _ _ _ _ h => h
theorem execTileAttr_keepsWf {d : BitVec 7} {w : BitVec 4} : KeepsWf (execTileAttr d w) := by
  delta execTileAttr
  exact boundRun_keepsWf fun _ _ _ _ h => h
theorem execEdge_keepsWf {d : BitVec 7} : KeepsWf (execEdge d) := by
  delta execEdge
  exact boundRun_keepsWf fun _ _ _ _ h => h
theorem execInterp_keepsWf {d : BitVec 7} {p : BitVec 4} {f : BitVec 3} : KeepsWf (execInterp d p f) := by
  delta execInterp
  exact boundRun_keepsWf fun _ _ _ _ h => .sampleCheck h
theorem execSamplepos_keepsWf {d : BitVec 7} {p : BitVec 4} : KeepsWf (execSamplepos d p) := by
  delta execSamplepos
  exact boundRun_keepsWf fun _ _ _ _ h => .sampleCheck h
theorem execOmDepth_keepsWf {d a : BitVec 7} {w : BitVec 1} {o : BitVec 3} : KeepsWf (execOmDepth d a w o) := by
  delta execOmDepth
  refine boundRun_keepsWf fun s i g bs h => ?_
  dsimp only
  generalize hx : List.foldl _ (s, _) _ = x
  have hx : x.1.Wf := by
    rw [← hx]
    refine State.Wf.foldl_fst h (fun acc l hacc => ?_) _
    split
    · exact hacc
    · refine State.Wf.foldl_fst hacc (fun acc k hacc => ?_) _
      split
      · exact .ite (State.Wf.winWrite hacc ..) hacc
      · exact hacc
  refine State.Wf.modGroup ?_ ..
  split
  · exact hx.consume ..
  · exact hx
theorem execOmWrite_keepsWf {m : BitVec 2} {a c : BitVec 7} : KeepsWf (execOmWrite m a c) := by
  delta execOmWrite
  refine boundRun_keepsWf fun s i g bs h => State.Wf.foldl h (fun t l ht => ?_) _
  split
  · exact ht
  · exact ht.foldl (fun _ _ h => h.winWrite ..) _
theorem execOmLoad_keepsWf {d : BitVec 7} {k : BitVec 3} : KeepsWf (execOmLoad d k) := by
  delta execOmLoad
  refine boundRun_keepsWf fun s i g bs h => .sampleCheck (State.Wf.modGroup ?_ ..)
  split
  · exact h.consume ..
  · exact h
theorem execOmLatch_keepsWf {a : BitVec 7} {w : BitVec 3} : KeepsWf (execOmLatch a w) :=
  runIsa_keepsWf fun _ _ _ h => State.Wf.ite ((h.commitEarly _).withHub fun hh => hh.latchWord ..) (h.commitEarly _)

/-! ### Glazes -/

theorem glzRun_keepsWf {chks : List Chk} {sp : BitVec 7} {d n : Nat} {empty : Group → Nat → List Word}
    {op : State → Group → Nat → Glaze → GPixel → Nat → Except FaultInfo GlzOut}
    (hop : ∀ s g l gd px va o, s.Wf → op s g l gd px va = .ok o → o.state.Wf) :
    KeepsWf (glzRun chks sp d n empty op) := by
  delta glzRun
  refine boundRun_keepsWf fun s i g bs h => ?_
  dsimp only
  generalize hx : List.foldl _ (s.commitEarly _, _) _ = x
  have hx : x.1.Wf := by
    rw [← hx]
    refine State.Wf.foldl_fst (h.commitEarly _) ?_ _
    rintro ⟨t, fs, out, met⟩ l ht
    dsimp only
    split
    · exact ht
    · exact ht
    · split
      · exact ht
      · split
        · exact ht
        · split
          · exact ht
          · split
            · exact ht
            · split
              · exact ht
              · next ho => exact hop _ _ _ _ _ _ _ ht ho
  split
  · trivial
  · refine .lanesEnd (State.Wf.modGroup ?_ ..) _
    split
    · exact hx.consumeRead ..
    · exact hx
theorem glzChange_wf {s : State} (h : s.Wf) {g : Group} {px : GPixel} {ws : List Word} {w : GWrites} {o : GlzOut}
    (ho : glzChange s g px ws w = .ok o) : o.state.Wf := by
  unfold glzChange at ho
  split at ho
  · cases ho; exact h
  · split at ho
    · cases ho
    · cases ho; exact h
    · split at ho
      · cases ho
      · next hw => cases ho; exact (h.glzSend ..).writeAll hw
theorem execGlzInsert_keepsWf {z sp c : BitVec 7} : KeepsWf (execGlzInsert z sp c) := by
  delta execGlzInsert
  exact glzRun_keepsWf fun _ _ _ _ _ _ _ h ho => glzChange_wf h ho
theorem execGlzCount_keepsWf {d sp : BitVec 7} : KeepsWf (execGlzCount d sp) := by
  delta execGlzCount
  refine glzRun_keepsWf fun _ _ _ _ _ _ _ h ho => ?_
  cases ho
  exact h.glzSend ..
theorem execGlzRead_keepsWf {d sp i : BitVec 7} : KeepsWf (execGlzRead d sp i) := by
  delta execGlzRead
  refine glzRun_keepsWf fun _ _ _ _ _ _ _ h ho => ?_
  cases ho
  exact h.glzSend ..
theorem glzResolveRun_keepsWf {clear : Bool} {d sp b : BitVec 7} : KeepsWf (glzResolveRun clear d sp b) := by
  delta glzResolveRun
  refine glzRun_keepsWf fun s g l gd px va o h ho => ?_
  dsimp only at ho
  split at ho
  · exact glzChange_wf h ho
  · cases ho; exact h.glzSend ..
theorem execGlzResolve_keepsWf {d sp b : BitVec 7} : KeepsWf (execGlzResolve d sp b) := by
  delta execGlzResolve
  exact glzResolveRun_keepsWf
theorem execGlzResolveClr_keepsWf {d sp b : BitVec 7} : KeepsWf (execGlzResolveClr d sp b) := by
  delta execGlzResolveClr
  exact glzResolveRun_keepsWf
theorem execGlzClear_keepsWf {sp : BitVec 7} : KeepsWf (execGlzClear sp) := by
  delta execGlzClear
  exact glzRun_keepsWf fun _ _ _ _ _ _ _ h ho => glzChange_wf h ho

/-! ### Continuations, textures and traces -/

theorem execContKey_keepsWf {a : BitVec 7} : KeepsWf (execContKey a) := runIsa_keepsWf fun _ _ _ h => h
theorem execRepack_keepsWf {c : BitVec 7} : KeepsWf (execRepack c) :=
  runIsa_keepsWf fun _ _ _ h => .captureRun h fun _ _ ht => ht
theorem execContResultWrite_keepsWf {k : Nat} : KeepsWf (execContResultWrite k) := by
  refine .of_next (fun _ => rfl) fun s h => ?_
  dsimp only
  split
  · exact h
  · have h0 : State.Wf { s with contWrites := s.contWrites.eraseIdx k } := h
    refine .ite h (.ite (.ite h0 (h0.completeOp ..)) (.ite ?_ ?_))
    · exact .ite ((h0.faultRecord ..).endBlock _) (State.Wf.completeOp ((h0.faultRecord ..).endBlock _) ..)
    · generalize hu : State.recordReady _ _ = u
      have hu : u.Wf := by
        rw [← hu]
        refine State.Wf.recordReady (State.Wf.foldl ?_ (fun _ _ h => h.recordWord ..) _) _
        exact h0.recordWord ..
      exact .ite hu (hu.completeOp ..)
theorem texRun_keepsWf {fn : Nat} {capture : Bool} {d a : BitVec 7} {b : BitVec 8} {cm : BitVec 2} {f : BitVec 1}
    {lm : BitVec 2} {c : BitVec 7} : KeepsWf (texRun fn capture d a b cm f lm c) := by
  delta texRun
  exact runIsa_keepsWf fun _ _ _ h => .ite (.captureRun h fun _ _ ht => ht) (.ite h h)
theorem execTexComplete_keepsWf {k : Nat} : KeepsWf (execTexComplete k) := by
  refine .of_next (fun _ => rfl) fun s h => ?_
  split
  · exact h
  · refine .ite h (.ite (State.Wf.opResult (State.Wf.texSeen ?_ ..) ..)
      (State.Wf.contResult (State.Wf.texSeen ?_ ..) ..))
    · exact h
    · exact h
theorem traceRun_keepsWf {capture : Bool} {d a : BitVec 7} {b : BitVec 8} {tf any : BitVec 1} :
    KeepsWf (traceRun capture d a b tf any) := by
  delta traceRun
  exact runIsa_keepsWf fun _ _ _ h => .ite (.captureRun h fun _ _ ht => ht) (.ite h h)
theorem hitRun_keepsWf {d : BitVec 7} {more : List Chk} {dec : Group → Nat → Trav → Hit → Option Hit} :
    KeepsWf (hitRun d more dec) := by
  delta hitRun
  exact runIsa_keepsWf fun _ _ _ h => .ite h h
theorem execHitAccept_keepsWf {d : BitVec 7} : KeepsWf (execHitAccept d) := by
  delta execHitAccept
  exact hitRun_keepsWf
theorem execHitIgnore_keepsWf {d : BitVec 7} : KeepsWf (execHitIgnore d) := by
  delta execHitIgnore
  exact hitRun_keepsWf
theorem execTraceComplete_keepsWf {k : Nat} : KeepsWf (execTraceComplete k) := by
  refine .of_next (fun _ => rfl) fun s h => ?_
  dsimp only
  split
  · exact h
  · refine .ite h (.ite ?_ (.ite (State.Wf.opResult ?_ ..) (State.Wf.contResult ?_ ..)))
    · split
      · exact .ite (h.texSeen ..) (h.texSeen ..)
      · exact h.texSeen ..
    · exact h.texSeen ..
    · exact h.texSeen ..

/-! ### The matrix unit -/

theorem execBeadMode_keepsWf {a : BitVec 8} : KeepsWf (execBeadMode a) :=
  runIsa_keepsWf fun _ _ _ h => .ite trivial (.ite trivial (.matIssue h ..))
theorem mmaRun_keepsWf {clear : Bool} {c : BitVec 6} {a b : BitVec 8} : KeepsWf (mmaRun clear c a b) := by
  delta mmaRun
  exact runIsa_keepsWf fun _ _ _ h => .fieldsOk (.ite h (.ite h (.matIssue h ..)))
theorem execBeadZero_keepsWf {c : BitVec 6} : KeepsWf (execBeadZero c) := runIsa_keepsWf fun _ _ _ h => .matIssue h ..
theorem execBeadSync_keepsWf {a : BitVec 8} : KeepsWf (execBeadSync a) :=
  runIsa_keepsWf fun _ _ _ h => .matObj h (.matIssue h ..)
theorem execBeadScale_keepsWf {c : BitVec 6} {a : BitVec 8} : KeepsWf (execBeadScale c a) :=
  runIsa_keepsWf fun _ _ _ h => .matIssue h ..
theorem execPalReserve_keepsWf {p : BitVec 6} {a d : BitVec 8} : KeepsWf (execPalReserve p a d) := by
  refine runIsa_keepsWf fun s i g h => .fieldsOk ?_
  dsimp only
  split
  · exact h
  · exact State.Wf.modGroup (h.modQuad _ _ fun _ hq => hq.palTake ..) ..
theorem execPalFill_keepsWf {p : BitVec 6} {a b : BitVec 8} : KeepsWf (execPalFill p a b) :=
  runIsa_keepsWf fun _ _ _ h => .fieldsOk (.ite h (.ite h (.matObj h (.matIssue h ..))))
theorem execPalFillk_keepsWf {p : BitVec 6} {a b : BitVec 8} : KeepsWf (execPalFillk p a b) :=
  runIsa_keepsWf fun _ _ _ h => .fieldsOk (.ite h (.ite h (.matObj h (.matIssue h ..))))
theorem execPalRelease_keepsWf {p : BitVec 6} : KeepsWf (execPalRelease p) :=
  runIsa_keepsWf fun _ _ _ h => .matIssue h ..
theorem execCbDrain_keepsWf {c : BitVec 6} {a b : BitVec 8} : KeepsWf (execCbDrain c a b) := by
  refine runIsa_keepsWf fun s i g h => .fieldsOk (.ite h (.ite h (.matObj h ?_)))
  have hm := Res.Wf.matIssue (i := i) h (.drain c.toNat (pairAt g a.toNat) (pairAt g b.toNat))
    (mxWord 0x3E 0 c.toNat a.toNat b.toNat) (pairAt g a.toNat) (pairAt g b.toNat) (objOf (ctlObj (pairAt g b.toNat))) id
  refine .ite (.ite h ?_) hm
  dsimp only
  split
  · exact h
  · split
    · next hr =>
      rw [hr] at hm
      exact State.Wf.completeOp (State.Wf.drainDone (State.Wf.modGroup hm ..) ..) ..
    · exact hm
theorem execCbLoad_keepsWf {c : BitVec 6} {a : BitVec 8} : KeepsWf (execCbLoad c a) :=
  runIsa_keepsWf fun _ _ _ h => .ite trivial (.ite h (.matIssue h ..))
theorem execCbClear_keepsWf {c : BitVec 6} {n : BitVec 8} : KeepsWf (execCbClear c n) :=
  runIsa_keepsWf fun _ _ _ h => .matIssue h ..
theorem execKstep_keepsWf {i : Nat} : KeepsWf (execKstep i) := by
  refine .of_next (fun _ => rfl) fun s h => .ite h ?_
  split
  · split
    · exact .ite (State.Wf.beadServed (h.kstepGo ..) _) h
    · exact h
  · exact h
theorem execMatrixOpComplete_keepsWf {i : Nat} : KeepsWf (execMatrixOpComplete i) := by
  refine .of_next (fun _ => rfl) fun s h => .ite h ?_
  split
  · exact h
  · refine .ite h (State.Wf.palEnd (State.Wf.completeOp (State.Wf.modGroup ?_ ..) ..) _)
    split
    · exact h
    · exact State.Wf.beadServed (h.matPerform ..) _

end Sys2Proof.Machine
end

section
/-! PROOFS. Scheduling, the supply, landings and relaunches, clocks, boot and power keep the byte stores' form
(04 R91 to R124; 05; 12). -/
namespace Sys2Proof.Machine
open Sys2Proof

/-! ### Blocks and regions -/

theorem execBlockEvict_keepsWf {b : Nat} : KeepsWf (execBlockEvict b) :=
  .of_next (fun _ => rfl) fun _ h => .ite (h.foldl (fun _ _ h => h.evictOne _) _) h
theorem execBlockPlace_keepsWf {p : Nat} : KeepsWf (execBlockPlace p) :=
  .of_next (fun _ => rfl) fun _ h => .ite h (h.walkList _)
theorem execSliceEnd_keepsWf {r c : Nat} : KeepsWf (execSliceEnd r c) := by
  refine .of_next (fun _ => rfl) fun s h => ?_
  split
  · exact h
  · exact .ite (.ite h (h.liftSlice ..)) (.ite (.ite (h.endSlice ..) (h.modRegion ..)) (.ite (h.endSlice ..) h))
theorem execRegionComplete_keepsWf {r : Nat} : KeepsWf (execRegionComplete r) := by
  refine .of_next (fun _ => rfl) fun s h => ?_
  split
  · exact h
  · refine .ite h (.ite (h.foldl (fun _ _ h => h.passClose ..) _) (.ite h (State.Wf.doneWord ?_ ..)))
    exact State.Wf.modRegion (h.drainRegion ..) ..
theorem execLaunch_keepsWf {a b : BitVec 8} : KeepsWf (execLaunch a b) := by
  refine runIsa_keepsWf fun s i g h => .ite h (.released h fun t ht => ?_)
  have h1 := (ht.commitEarly g.id.block).take g.id.ctx 0 (g.spair a.toNat).toNat
    (some ((t.commitEarly g.id.block).block g.id.block).region) (some g.id.block)
  exact State.Wf.ite h1 (h1.modGroup ..)
theorem execRegionJoin_keepsWf {b : BitVec 8} : KeepsWf (execRegionJoin b) :=
  runIsa_keepsWf fun _ _ _ h => State.Wf.ite (State.Wf.acquire (h.modGroup ..) ..) (h.modGroup ..)

/-! ### The supply, power-failure handlers and the keep die -/

theorem execSupplyLoss_keepsWf {rails : Nat} : KeepsWf (execSupplyLoss rails) := by
  refine .of_next (fun _ => rfl) fun s h => ?_
  have h1 : (s.withHub fun h => { h with lost := true, switch := true, ready := false }).Wf := h.withHub fun hh => hh
  exact .ite (.ite (h.withHub fun hh => hh) h) (.ite (h1.cutCopy.startSave ..) (h1.cutCopy.withHub fun hh => hh))
theorem execReserveCharged_keepsWf : KeepsWf execReserveCharged :=
  .of_next (fun _ => rfl) fun _ h => h.withHub fun hh => hh
theorem execHandlerBudgetExpiry_keepsWf {k : Nat} : KeepsWf (execHandlerBudgetExpiry k) := by
  refine .of_next (fun _ => rfl) fun s h => ?_
  split
  · exact h
  · split
    · exact h
    · refine .ite h (State.Wf.capture (State.Wf.modGroup ?_ ..))
      exact h.withHub fun hh => hh
/-- A hub with what a hold-up save writes to the keep die. -/
theorem Hub.Wf.saved {h : Hub} (hh : h.Wf) (l : List (Nat × List Byte)) (v : Option Save) (d : Nat) :
    Hub.Wf { h.keepWrites l with save := v, dstate := d } := hh.keepWrites l
theorem execHoldupSaveComplete_keepsWf : KeepsWf execHoldupSaveComplete := by
  refine .of_next (fun _ => rfl) fun s h => ?_
  have h1 := h.capture
  dsimp only
  generalize s.capture = t at h1 ⊢
  split
  · exact h1
  · split
    · refine h1.withHub ?_
      exact fun hh => hh.saved ..
    · exact h1
theorem execPfailDone_keepsWf : KeepsWf execPfailDone := by
  refine runIsa_keepsWf fun s i g h => .ite trivial (.ite trivial ?_)
  exact (State.Wf.endThreads (h.withHub fun hh => hh) ..).lateFaults _ |>.capture
theorem execKeepDir_keepsWf {v fw : Nat} : KeepsWf (execKeepDir v fw) :=
  .of_next (fun _ => rfl) fun _ h => h.keepWrite ..
theorem execKeepData_keepsWf {v fw : Nat} : KeepsWf (execKeepData v fw) :=
  .of_next (fun _ => rfl) fun _ h => h.keepWrite ..
theorem execKeepErase_keepsWf {v fw : Nat} : KeepsWf (execKeepErase v fw) :=
  .of_next (fun _ => rfl) fun _ h => h.keepWrite ..
theorem execKeepCmdComplete_keepsWf : KeepsWf execKeepCmdComplete := by
  refine .of_next (fun _ => rfl) fun s h => ?_
  have done {t : State} (ht : t.Wf) (r : Nat) :
      ((t.withHub fun h => { h with keepCmd := .none, keepResult := r }).raise 0 15).Wf :=
    State.Wf.raise (ht.withHub fun hh => hh) ..
  dsimp only
  split
  · exact h
  · refine .ite (done h _) (.ite (done h _) (.ite (done (h.withHub fun hh => ?_) _) ?_))
    · exact hh.setKeep (Mem.wf_erase hh.keep _ _)
    · split
      · exact done h _
      · exact .ite (done h _) (done (h.homeWrite ..) _)

/-! ### Waking, landings and relaunches -/

theorem execArbitration_keepsWf {cell unit : Nat} : KeepsWf (execArbitration cell unit) := by
  refine .of_next (fun _ => rfl) fun s h => ?_
  split <;> exact h
theorem execGroupWake_keepsWf {i : Nat} : KeepsWf (execGroupWake i) := by
  refine .of_next (fun _ => rfl) fun s h => .ite h (.ite (h.modGroup ..) ?_)
  split
  · exact h.barComplete _
  · exact h
theorem execResultLanding_keepsWf {i k : Nat} : KeepsWf (execResultLanding i k) := by
  refine .of_next (fun _ => rfl) fun s h => ?_
  dsimp only
  split
  · exact h
  · refine .ite h (.ite (State.Wf.landed (h.modGroup ..) ..) ?_)
    split
    · exact h
    · exact h
    · next hl =>
      split
      · exact h
      · exact h
      · next hs =>
        have h2 := State.Wf.skim (State.Wf.modGroup (h.landOld hl) ..) hs
        refine State.Wf.barComplete (State.Wf.landed ?_ ..) _
        split
        · exact h2.consumeNow ..
        · exact h2
theorem execGroupSlotRelease_keepsWf {i : Nat} : KeepsWf (execGroupSlotRelease i) := by
  refine .of_next (fun _ => rfl) fun s h => .ite h ?_
  split
  · exact .ite (h.freeGroup _) h
  · exact .ite (h.freeGroup _) (.ite (h.modGroup ..) h)
  · exact h
theorem execTrackerEntryFree_keepsWf {i : Nat} : KeepsWf (execTrackerEntryFree i) :=
  .of_next (fun _ => rfl) fun _ h => .ite (h.freeGroup _) h
theorem execRegroupRelaunch_keepsWf {cell : Nat} : KeepsWf (execRegroupRelaunch cell) := by
  refine .of_next (fun _ => rfl) fun s h => ?_
  dsimp only
  split
  · exact h
  · refine .ite h ?_
    cases hf : List.findSome? _ _ with
    | none => exact h
    | some t =>
      obtain ⟨b, _, hb⟩ := List.exists_of_findSome?_eq_some hf
      split at hb
      · cases hb
      · obtain ⟨p, _, rfl⟩ := Option.map_eq_some_iff.mp (Option.ite_none_left_eq_some.mp hb).2
        exact h.relaunch ..
theorem execWatchdogExpiry_keepsWf {i : Nat} : KeepsWf (execWatchdogExpiry i) :=
  .of_next (fun _ => rfl) fun _ h => .ite (State.Wf.takeFault (h.modGroup ..) ..) h

/-- The groups' places, the operations on their way and what the cells hold of a block go back to its shadow's
(05 R138). -/
theorem execRollback_keepsWf {b : Nat} : KeepsWf (execRollback b) := by
  refine .of_next (fun _ => rfl) fun s h => ?_
  dsimp only
  split
  · exact h
  · next x _ =>
    refine .ite h (.ite (h.endBlock _) (State.Wf.modBlock ?_ ..))
    have hd := h.discardLines b
    refine State.Wf.foldl ?_ (fun _ _ h => h.respill _) _
    generalize hu : List.foldl _ _ x.segs = u
    have hu : u.Wf := by
      rw [← hu]
      refine State.Wf.foldl ?_ (fun _ y h => h.modWindow _ _ fun w hw => ?_) _
      · refine ⟨hd.mem, hd.windows.map fun w hw => ?_, hd.cells.zip _ fun y hy => ?_, hd.hub⟩
        · exact hw
        · exact Every.map hy fun _ hq => hq
      · exact ⟨Mem.wf_paste (Mem.wf_erase hw.1 _ _) _ _, hw.2⟩
    split
    · exact hu.bindRings ..
    · exact hu
theorem execPostTake_keepsWf {f cls : Nat} : KeepsWf (execPostTake f cls) := by
  refine .of_next (fun _ => rfl) fun s h => ?_
  dsimp only
  split
  · exact h
  · split
    · exact h
    · refine .ite h (State.Wf.take ?_ ..)
      exact h.modFn f fun _ hf => hf

/-! ### Resets, clocks and boot -/

theorem execPorReset_keepsWf {sa boot train : Nat} : KeepsWf (execPorReset sa boot train) :=
  .of_next (fun _ => rfl) fun s h =>
    State.Wf.bootStart (State.Wf.withHub (s := { s.cutSave.cutCopy.physical with hv := 0 }) h.cutSave.cutCopy.physical
      fun hh => hh)
theorem execPerstReset_keepsWf {train : Nat} : KeepsWf (execPerstReset train) :=
  .of_next (fun _ => rfl) fun _ h => h.deviceRung _
theorem execSysclkFault_keepsWf : KeepsWf execSysclkFault := .of_next (fun _ => rfl) fun _ h => h.withHub fun hh => hh
theorem execSysclkReturn_keepsWf : KeepsWf execSysclkReturn := .of_next (fun _ => rfl) fun _ h => h.withHub fun hh => hh
theorem execDclkFault_keepsWf : KeepsWf execDclkFault :=
  .of_next (fun _ => rfl) fun _ h => (h.withHub fun hh => hh).assertFault
theorem execDclkReturn_keepsWf : KeepsWf execDclkReturn := .of_next (fun _ => rfl) fun _ h => h.withHub fun hh => hh
theorem execLockstepMismatch_keepsWf : KeepsWf execLockstepMismatch :=
  .of_next (fun _ => rfl) fun _ h => (h.withHub fun hh => hh).assertFault
theorem execThermtrip_keepsWf : KeepsWf execThermtrip := .of_next (fun _ => rfl) fun _ h => h.withHub fun hh => hh
theorem execBootGo_keepsWf {v : Nat} : KeepsWf (execBootGo v) :=
  .of_next (fun _ => rfl) fun _ h => .ite (h.withHub fun hh => hh) h
theorem execFirmwareImageCheck_keepsWf {sig key gen build raise : Nat} :
    KeepsWf (execFirmwareImageCheck sig key gen build raise) := by
  refine .of_next (fun _ => rfl) fun s h => .ite h (h.withHub fun hh => ?_)
  split
  · exact hh
  · split <;> exact hh
theorem execPcieLinkStateChange_keepsWf {st width rate hot : Nat} :
    KeepsWf (execPcieLinkStateChange st width rate hot) := by
  refine .of_next (fun _ => rfl) fun s h => .ite h (h.withHub fun ⟨hboot, hmesh, hkeep, hfns⟩ => ?_)
  exact ⟨hboot, hmesh, hkeep, hfns.zipIdx fun _ hx => hx⟩

end Sys2Proof.Machine
end

section
/-! PROOFS. Power, partitions, the reset ladder, the display, cameras, sparing, self-tests and the host's functions keep
the byte stores' form (02; 03; 04 R95 to R124; 05 R125 to R158; 16). -/
namespace Sys2Proof.Machine
open Sys2Proof

/-! ### Power and the clamp -/

theorem execPowerCmdCell_keepsWf {v : Nat} : KeepsWf (execPowerCmdCell v) :=
  .of_next (fun _ => rfl) fun _ h => h.powerWrite ..
theorem execPowerCmdPane_keepsWf {v : Nat} : KeepsWf (execPowerCmdPane v) :=
  .of_next (fun _ => rfl) fun _ h => h.powerWrite ..
theorem execPowerCmdDevice_keepsWf {v : Nat} : KeepsWf (execPowerCmdDevice v) :=
  .of_next (fun _ => rfl) fun _ h => h.powerWrite ..
theorem execDHold_keepsWf {v : Nat} : KeepsWf (execDHold v) := .of_next (fun _ => rfl) fun _ h => h.powerWrite ..
theorem execPowerCmdComplete_keepsWf {rail : Nat} : KeepsWf (execPowerCmdComplete rail) := by
  refine .of_next (fun _ => rfl) fun s h => ?_
  dsimp only
  split
  · exact h
  · refine .ite h (.ite h (State.Wf.raise (State.Wf.refreshSeams (State.Wf.withHub ?_ fun hh => hh)) ..))
    exact State.Wf.mapCells (State.Wf.ite_snd h (h.powerRun ..)) fun _ hc => hc
theorem execClampTrigger_keepsWf {kind pane temp : Nat} : KeepsWf (execClampTrigger kind pane temp) :=
  .of_next (fun _ => rfl) fun _ h => State.Wf.ibi (State.Wf.raise (h.withHub fun hh => hh) ..) _
theorem execClampStep_keepsWf {tick : ClampTick} : KeepsWf (execClampStep tick) := by
  refine .of_next (fun _ => rfl) fun s h => ?_
  dsimp only
  split
  · exact h
  · refine .ite h (State.Wf.foldl (h.withHub fun hh => hh) (fun _ _ h => h.modCell _ fun _ hc => ?_) _)
    exact hc
theorem execClampConditionClear_keepsWf : KeepsWf execClampConditionClear := by
  refine .of_next (fun _ => rfl) fun s h => ?_
  split
  · exact h
  · exact h.free.withHub fun hh => hh
theorem execClampRelease_keepsWf {v fw same : Nat} : KeepsWf (execClampRelease v fw same) := by
  refine .of_next (fun _ => rfl) fun s h => h.guarded fw (.ite h (.ite (h.withHub fun hh => hh) ?_))
  refine State.Wf.foldl (h.withHub fun hh => hh) (fun _ _ h => h.modCell _ fun _ hc => ?_) _
  exact hc

/-! ### Partitions, the reset ladder and the classes -/

theorem execPartCommit_keepsWf {v fw : Nat} : KeepsWf (execPartCommit v fw) := by
  refine .of_next (fun _ => rfl) fun s h => h.partWrite _ _ _ fun _ u hu => ?_
  dsimp only
  split
  · exact (hu.commitTable _).invSettle _
  · exact hu.partEnd _
  · refine State.Wf.partEnd (.ite (State.Wf.withHub ?_ fun hh => hh) ?_) _
    · exact .ite_snd (hu.pick _) hu
    · exact .ite_snd (hu.pick _) hu
theorem execInvCtx_keepsWf {v fw : Nat} : KeepsWf (execInvCtx v fw) :=
  .of_next (fun _ => rfl) fun _ h => h.partWrite _ _ _ fun _ _ hu => ((hu.drainCtxs _).dropTlb _).invSettle _
theorem execPartGrow_keepsWf {v fw : Nat} : KeepsWf (execPartGrow v fw) := by
  refine .of_next (fun _ => rfl) fun s h => h.partWrite _ _ _ fun _ u hu => ?_
  refine .ite (hu.partEnd _) (.ite (hu.partEnd _) (.ite (hu.partEnd _) (.ite ((hu.handOver ..).partEnd _)
    (.ite (hu.partEnd _) ?_))))
  exact .ite ((hu.recarveBegin ..).partEnd _) (hu.recarveBegin ..).partSettle
theorem execPartShrink_keepsWf {v fw : Nat} : KeepsWf (execPartShrink v fw) := by
  refine .of_next (fun _ => rfl) fun s h => h.partWrite _ _ _ fun _ u hu => ?_
  refine .ite (hu.partEnd _) (.ite (hu.partEnd _)
    (.ite (State.Wf.recarvesEnd (State.Wf.partEnd ?_ _)) (State.Wf.partSettle ?_)))
  · exact hu.foldl (fun _ _ h => h.recarveBegin ..) _
  · exact hu.foldl (fun _ _ h => h.recarveBegin ..) _
theorem execShrinkComplete_keepsWf {k : Nat} : KeepsWf (execShrinkComplete k) :=
  .of_next (fun _ => rfl) fun _ h => h.recarveEnd _
theorem execDeferredLaunchEviction_keepsWf {k : Nat} : KeepsWf (execDeferredLaunchEviction k) := by
  refine .of_next (fun _ => rfl) fun s h => ?_
  split
  · exact h
  · next x _ =>
    have h1 : (if s.launchBlocked x then s.withHub fun h =>
        { h with recarves := modifyAt h.recarves k fun y => { y with began := true } } else s).Wf :=
      .ite (h.withHub fun hh => hh) h
    exact .ite (State.Wf.recarveEnd (h1.foldl (fun _ _ h => h.evictOne _) _) _) h1
theorem execPartCancel_keepsWf {v fw : Nat} : KeepsWf (execPartCancel v fw) := by
  refine .of_next (fun _ => rfl) fun s h => h.partWrite _ _ _ fun _ u hu => ?_
  refine .ite (hu.partEnd _) (.ite (hu.partEnd _) (State.Wf.partEnd (State.Wf.liftSlices ?_) _))
  refine State.Wf.modCell (hu.withHub fun hh => hh) _ fun c hc => Every.zipIdx hc fun x hx => ?_
  dsimp only
  split <;> exact hx
theorem execRungComplete_keepsWf {k : Nat} : KeepsWf (execRungComplete k) := by
  refine .of_next (fun _ => rfl) fun s h => ?_
  split
  · exact h
  · exact .ite h (h.rungEnd ..)
theorem execRungTimeout_keepsWf {k : Nat} : KeepsWf (execRungTimeout k) := by
  refine .of_next (fun _ => rfl) fun s h => ?_
  split
  · exact h
  · exact .ite h (.ite (h.rungEnd ..) (State.Wf.foldl (h.withHub fun hh => hh) (fun _ _ h => h.rungStart ..) _))
theorem execRungReset_keepsWf {v fw : Nat} : KeepsWf (execRungReset v fw) :=
  .of_next (fun _ => rfl) fun _ h => h.partWrite _ _ _ fun _ _ hu => .ite (hu.partEnd _) <|
    .ite (.ite (hu.partEnd _) (hu.rungStart ..)) (.ite (hu.withHub fun hh => hh) (hu.rungStart ..))
theorem execFunctionLevelReset_keepsWf {f : Nat} : KeepsWf (execFunctionLevelReset f) := by
  refine .of_next (fun _ => rfl) fun s h => .ite (h.rungStart ..) (.ite h (State.Wf.foldl ?_ (fun _ _ hu => ?_) _))
  · exact h.withHub fun ⟨hboot, hmesh, hkeep, hfns⟩ => ⟨hboot, hmesh, hkeep, hfns.set _ rfl⟩
  · exact .ite hu (hu.rungStart ..)
theorem Hub.Wf.configWrite {h : Hub} (hh : h.Wf) (f item v most : Nat) : (h.configWrite f item v most).Wf := by
  unfold Hub.configWrite
  (repeat' split) <;> exact hh
theorem execVfConfigRequest_keepsWf {f item wr v : Nat} : KeepsWf (execVfConfigRequest f item wr v) :=
  .of_next (fun _ => rfl) fun _ h => .ite (h.withHub fun hh => hh) <|
    .ite (h.withHub fun hh => hh) (h.withHub fun hh => hh.configWrite f item v _)
theorem execApertureRequest_keepsWf {f off n wr v : Nat} : KeepsWf (execApertureRequest f off n wr v) := by
  refine .of_next (fun _ => rfl) fun s h =>
    .ite h (.ite (h.withHub fun hh => hh) (.ite (h.withHub fun hh => hh) (.ite h ?_)))
  split
  · exact .ite (h.homeWrite ..) (h.foldl (fun _ _ h => h.homeWrite ..) _)
  · exact h
theorem execClassWaysWrite_keepsWf {cls v fw : Nat} : KeepsWf (execClassWaysWrite cls v fw) := by
  refine .of_next (fun _ => rfl) fun s h => h.guarded fw (h.onHub (h.withHub fun hh => ?_))
  dsimp only
  split
  · exact hh
  · split <;> exact hh
theorem execClassBwWrite_keepsWf {cls v fw : Nat} : KeepsWf (execClassBwWrite cls v fw) := by
  refine .of_next (fun _ => rfl) fun s h => h.guarded fw (h.onHub (h.withHub fun hh => ?_))
  dsimp only
  split
  · exact hh
  · split <;> exact hh

/-! ### Display and cameras -/

theorem execPipeEnable_keepsWf {n v link fw : Nat} : KeepsWf (execPipeEnable n v link fw) :=
  .of_next (fun _ => rfl) fun _ h => h.guarded fw (h.pipeWrite ..)
theorem execPipeDisable_keepsWf {n v fw : Nat} : KeepsWf (execPipeDisable n v fw) :=
  .of_next (fun _ => rfl) fun _ h => h.guarded fw (h.pipeWrite ..)
theorem execLayerTableCommit_keepsWf {n v link fw : Nat} : KeepsWf (execLayerTableCommit n v link fw) :=
  .of_next (fun _ => rfl) fun _ h => h.guarded fw (h.pipeWrite ..)
theorem execLayerCommitTake_keepsWf {n : Nat} : KeepsWf (execLayerCommitTake n) := by
  refine .of_next (fun _ => rfl) fun s h => .ite h ?_
  have hd {l : List (List Byte)} : (l.foldl (fun t _ => State.deny t) s).Wf := h.foldl (fun _ _ h => h.deny) l
  have h2 {l : List (List Byte)} {f : Pipe → Pipe} : ((l.foldl (fun t _ => State.deny t) s).modPipe n f).Wf :=
    hd.modPipe ..
  refine .ite (hd.modPipe ..) (.ite (h2.withHub fun hh => ?_) (hd.modPipe ..))
  exact ⟨hh.bootBuf, Mem.wf_slice h2.mem _ _, hh.keep, hh.fns⟩
theorem execCoatSign_keepsWf {k : Nat} : KeepsWf (execCoatSign k) := by
  refine .of_next (fun _ => rfl) fun s h => ?_
  have hset {f : Coat → Coat} : (s.withHub fun h => { h with coats := modifyAt h.coats k f }).Wf :=
    h.withHub fun hh => hh
  dsimp only
  split
  · exact h
  · refine .ite h (.ite (hset.modPipe ..) ?_)
    split
    · exact hset.pipePoison ..
    · exact hset
theorem execPaneSelfTestStart_keepsWf {p : Nat} : KeepsWf (execPaneSelfTestStart p) := by
  refine .of_next (fun _ => rfl) fun s h => ?_
  split
  · exact .ite (h.withHub fun hh => hh) h
  · exact h
theorem execPaneSelfTestEnd_keepsWf {p fail : Nat} : KeepsWf (execPaneSelfTestEnd p fail) :=
  .of_next (fun _ => rfl) fun _ h => .ite (State.Wf.raise (h.withHub fun hh => hh) ..) h
theorem execReadmit_keepsWf {v fw : Nat} : KeepsWf (execReadmit v fw) := by
  refine .of_next (fun _ => rfl) fun s h => h.guarded fw (h.onHub ?_)
  refine State.Wf.foldl (h.withHub fun hh => hh) (fun u p hu => ?_) _
  split
  · exact .ite hu (.ite (hu.withHub fun hh => hh) (hu.modPane ..))
  · exact hu
theorem execFrameDecision_keepsWf {n : Nat} : KeepsWf (execFrameDecision n) := by
  refine .of_next (fun _ => rfl) fun s h => .ite h (State.Wf.foldl ?_ (fun u x hu => ?_) _)
  · exact .ite (State.Wf.raise (h.modPipe ..) ..) (h.modPipe ..)
  · split
    · exact hu.mismatch ..
    · exact hu
theorem execScanoutTileCheck_keepsWf {n i t : Nat} : KeepsWf (execScanoutTileCheck n i t) := by
  refine .of_next (fun _ => rfl) fun s h => ?_
  dsimp only
  split
  · have differs {u : State} (hu : u.Wf) {f : Pipe → Pipe} {r : ErrRec} :
        ((((u.modPipe n f).withHub fun h => { h with coatfail := true }).assertFault.raise 0 9).devRecord r).Wf :=
      ((State.Wf.assertFault ((hu.modPipe n f).withHub fun hh => hh)).raise 0 9).devRecord r
    generalize s.rowPoison _ = met
    cases met with
    | none => exact .ite h (differs h)
    | some x => exact .ite (h.pipePoison ..) (differs (h.pipePoison ..))
  · exact h
theorem execTelltaleLoad_keepsWf {v fw : Nat} : KeepsWf (execTelltaleLoad v fw) :=
  .of_next (fun _ => rfl) fun _ h => h.guarded fw (h.onHub (.ite h (.ite (h.withHub fun hh => hh)
    ((h.pick _).withHub fun hh => hh))))
theorem execTelltaleCopyComplete_keepsWf : KeepsWf execTelltaleCopyComplete := by
  refine .of_next (fun _ => rfl) fun s h => ?_
  split
  · exact h.withHub fun hh => hh.setKeep (Mem.wf_put hh.keep _ _)
  · exact h
theorem execLatchWrite_keepsWf {w v fw : Nat} : KeepsWf (execLatchWrite w v fw) :=
  .of_next (fun _ => rfl) fun _ h => h.guarded fw (h.onHub (h.withHub fun hh => hh.latchWord ..))
theorem execHudLatchTake_keepsWf : KeepsWf execHudLatchTake := by
  refine .of_next (fun _ => rfl) fun s h => h.withHub fun hh => ?_
  split <;> exact hh
theorem execCameraStreamWrite_keepsWf {i v fw : Nat} : KeepsWf (execCameraStreamWrite i v fw) :=
  .of_next (fun _ => rfl) fun _ h => h.guarded fw (h.onHub (h.modCam ..))
theorem execCameraFrameStart_keepsWf {ch : CamChannel} : KeepsWf (execCameraFrameStart ch) :=
  .of_next (fun _ => rfl) fun _ h => h.foldl (fun _ _ h => h.camStart _) _
theorem execCameraLine_keepsWf {pk : CamPacket} {n v crc : Nat} : KeepsWf (execCameraLine pk n v crc) :=
  .of_next (fun _ => rfl) fun _ h => h.foldl (fun _ _ h => h.camLine ..) _
theorem execCameraFrameEnd_keepsWf {ch : CamChannel} : KeepsWf (execCameraFrameEnd ch) :=
  .of_next (fun _ => rfl) fun _ h => h.foldl (fun _ _ h => h.camEnd _) _
theorem execCameraTxFrame_keepsWf {port : Nat} : KeepsWf (execCameraTxFrame port) :=
  .of_next (fun _ => rfl) fun _ h => .ite h (h.withHub fun hh => hh)

/-! ### Sparing, seams and self-tests -/

theorem Hub.Wf.devqWrite {h : Hub} (hh : h.Wf) (v : Nat) : (h.devqWrite v).Wf :=
  ⟨hh.bootBuf, hh.mesh, hh.keep, hh.fns⟩
theorem execDevqEnable_keepsWf {v fw : Nat} : KeepsWf (execDevqEnable v fw) :=
  .of_next (fun _ => rfl) fun _ h => h.guarded fw (h.onHub (h.withHub fun hh => hh.devqWrite _))
theorem execSpareLane_keepsWf {v fw : Nat} : KeepsWf (execSpareLane v fw) :=
  .of_next (fun _ => rfl) fun _ h => h.spareWrite _ _ _ fun _ _ hu =>
    .ite (hu.spareEnd _) (.ite (hu.spareEnd _) (.ite (hu.spareEnd _) hu))
theorem execSpareCell_keepsWf {v fw : Nat} : KeepsWf (execSpareCell v fw) :=
  .of_next (fun _ => rfl) fun _ h => h.spareWrite _ _ _ fun _ _ hu =>
    .ite (hu.spareEnd _) (.ite (hu.spareEnd _) (.ite (hu.spareEnd _) hu))
theorem execSpareWay_keepsWf {v fw : Nat} : KeepsWf (execSpareWay v fw) :=
  .of_next (fun _ => rfl) fun _ h => h.spareWrite _ _ _ fun _ _ hu => .ite (hu.spareEnd _) (.ite (hu.spareEnd _) hu)
theorem execSpareChannel_keepsWf {v fw : Nat} : KeepsWf (execSpareChannel v fw) :=
  .of_next (fun _ => rfl) fun _ h => h.spareWrite _ _ _ fun _ _ hu =>
    .ite ((hu.pick _).withHub fun hh => hh) ((hu.pick _).spareEnd _)
theorem execChannelMigrationComplete_keepsWf : KeepsWf execChannelMigrationComplete := by
  refine .of_next (fun _ => rfl) fun s h => ?_
  split
  · exact h
  · exact State.Wf.spareRecord (h.withHub fun hh => hh) ..
theorem execUnfence_keepsWf {v fw : Nat} : KeepsWf (execUnfence v fw) :=
  .of_next (fun _ => rfl) fun _ h => h.spareWrite _ _ _ fun _ _ hu => .ite (hu.spareEnd _) (.ite (hu.spareEnd _) hu)
theorem execSpareCmdComplete_keepsWf {fail : Nat} : KeepsWf (execSpareCmdComplete fail) := by
  refine .of_next (fun _ => rfl) fun s h => ?_
  split
  · exact h
  · exact .ite h ((h.spareRun ..).spareEnd _)
theorem execSeamFlitReplay_keepsWf {n : Nat} : KeepsWf (execSeamFlitReplay n) :=
  .of_next (fun _ => rfl) fun _ h => h.modSeam ..
theorem execSeamStatusClear_keepsWf {n v same : Nat} : KeepsWf (execSeamStatusClear n v same) :=
  .of_next (fun _ => rfl) fun _ h => h.modSeam ..
theorem execSeamLaneFail_keepsWf {n lane : Nat} : KeepsWf (execSeamLaneFail n lane) :=
  .of_next (fun _ => rfl) fun _ h => h.laneFail ..
theorem execSeamEyeCheck_keepsWf {n lane fail : Nat} : KeepsWf (execSeamEyeCheck n lane fail) :=
  .of_next (fun _ => rfl) fun _ h => .ite h (h.laneFail ..)
theorem execCorrectedError_keepsWf {p : ErrPlace} : KeepsWf (execCorrectedError p) := by
  refine .of_next (fun _ => rfl) fun s h => ?_
  split
  · exact .ite (State.Wf.threshRecord (h.withHub fun hh => hh) ..) (h.withHub fun hh => hh)
  · exact .ite (State.Wf.threshRecord (h.withHub fun hh => hh) ..) (h.withHub fun hh => hh)
  · exact .ite (State.Wf.threshRecord (h.withHub fun hh => hh) ..) (h.withHub fun hh => hh)
theorem execAgeSample_keepsWf {phys m reading : Nat} : KeepsWf (execAgeSample phys m reading) := by
  refine .of_next (fun _ => rfl) fun s h => ?_
  split
  · exact h
  · split
    · exact .ite h (.ite (State.Wf.devRecord (h.withHub fun hh => hh) _) (h.withHub fun hh => hh))
    · exact h
theorem execBeadSelfTestStart_keepsWf {c q : Nat} : KeepsWf (execBeadSelfTestStart c q) := by
  refine .of_next (fun _ => rfl) fun s h => .ite (h.modQuad _ _ fun _ hq => ?_) h
  exact hq
theorem execBeadSelfTestEnd_keepsWf {c q fail : Nat} : KeepsWf (execBeadSelfTestEnd c q fail) := by
  refine .of_next (fun _ => rfl) fun s h => ?_
  have h1 {f : Nat → Nat} :
      (s.modQuad c q fun x => { x with testing := false, testClock := f x.testClock, idleClocks := 0 }).Wf :=
    h.modQuad _ _ fun _ hq => hq
  exact .ite (.ite h1 (h1.fence ..)) h
theorem execBeadSelfTestOverdue_keepsWf {c q : Nat} : KeepsWf (execBeadSelfTestOverdue c q) := by
  refine .of_next (fun _ => rfl) fun s h => .ite (State.Wf.devRecord (h.modQuad _ _ fun _ hq => ?_) _) h
  exact hq

/-! ### The host's functions and the management bus -/

theorem execPostRootRegion_keepsWf {f cls half v : Nat} : KeepsWf (execPostRootRegion f cls half v) :=
  .of_next (fun _ => rfl) fun _ h => h.postWrite ..
theorem execPostLowHalfWrite_keepsWf {f cls v : Nat} : KeepsWf (execPostLowHalfWrite f cls v) :=
  .of_next (fun _ => rfl) fun _ h => .ite h (h.modFn _ fun _ hf => hf)
theorem execResyncToMemory_keepsWf {f cls half v : Nat} : KeepsWf (execResyncToMemory f cls half v) :=
  .of_next (fun _ => rfl) fun _ h => h.postWrite ..
theorem execResyncToWindow_keepsWf {f cls half v : Nat} : KeepsWf (execResyncToWindow f cls half v) :=
  .of_next (fun _ => rfl) fun _ h => h.postWrite ..
theorem execFaultClear_keepsWf {v fw same : Nat} : KeepsWf (execFaultClear v fw same) :=
  .of_next (fun _ => rfl) fun _ h => h.guarded fw (h.withHub fun hh => hh)
theorem execArmWrite_keepsWf {v fw : Nat} : KeepsWf (execArmWrite v fw) :=
  .of_next (fun _ => rfl) fun _ h => h.guarded fw (h.withHub fun hh => hh)
theorem execI3cResync_keepsWf : KeepsWf execI3cResync := .of_next (fun _ => rfl) fun _ h => (h.resyncTake 0).i3cAnswer _
theorem execI3cStatus_keepsWf : KeepsWf execI3cStatus := .of_next (fun _ => rfl) fun _ h => h.i3cAnswer _
theorem execI3cFaultClear_keepsWf {same : Nat} : KeepsWf (execI3cFaultClear same) :=
  .of_next (fun _ => rfl) fun _ h => .ite (State.Wf.i3cAnswer (h.withHub fun hh => hh) _) (h.i3cAnswer _)
theorem execForceUndercoat_keepsWf {mask : Nat} : KeepsWf (execForceUndercoat mask) :=
  .of_next (fun _ => rfl) fun _ h => .ite h.i3cIgnored (State.Wf.i3cAnswer (h.withHub fun hh => hh) _)
theorem execReleaseUndercoat_keepsWf {mask : Nat} : KeepsWf (execReleaseUndercoat mask) :=
  .of_next (fun _ => rfl) fun _ h => .ite h.i3cIgnored (State.Wf.i3cAnswer (h.withHub fun hh => hh) _)
theorem execI3cHoldup_keepsWf : KeepsWf execI3cHoldup := .of_next (fun _ => rfl) fun _ h => h.i3cAnswer _
theorem execI3cUnknownCommand_keepsWf : KeepsWf execI3cUnknownCommand := .of_next (fun _ => rfl) fun _ h => h.i3cIgnored
theorem execI3cPrivateRead_keepsWf : KeepsWf execI3cPrivateRead :=
  .of_next (fun _ => rfl) fun _ h => h.ibiTaken.withHub fun hh => hh

end Sys2Proof.Machine
end

section
/-! PROOFS. The registers that the host and the firmware write, time, what comes of the part's own accord, and the float
forms keep the byte stores' form; then every instruction and every step does (07 R194; 12 R324). -/
namespace Sys2Proof.Machine
open Sys2Proof

/-! ### Registers -/

/-- A write of the register keeps the byte stores' form. -/
def Reg.KeepsWf (r : Reg) : Prop := ∀ v s, s.Wf → (r.write v s).Wf
/-- A write of the register that stands at an offset does, where one stands there. -/
def RegKeepsWf (o : Option Reg) : Prop := ∀ r, o = some r → r.KeepsWf

theorem RegKeepsWf.none : RegKeepsWf .none := nofun
theorem RegKeepsWf.some {r : Reg} (h : r.KeepsWf) : RegKeepsWf (some r) := by
  rintro _ ⟨⟩
  exact h
theorem RegKeepsWf.ite {c : Prop} [Decidable c] {o q : Option Reg} (ho : RegKeepsWf o) (hq : RegKeepsWf q) :
    RegKeepsWf (if c then o else q) := by split <;> assumption
theorem RegKeepsWf.orElse {o : Option Reg} {f : Unit → Option Reg} (ho : RegKeepsWf o) (hf : RegKeepsWf (f ())) :
    RegKeepsWf (o.orElse f) := by
  cases o with
  | none => exact hf
  | some r => exact ho
theorem Reg.KeepsWf.ro {w : Nat} {r : State → Nat} : (Reg.ro w r).KeepsWf := fun _ _ h => h
theorem Reg.KeepsWf.hub {w : Nat} {r : Hub → Nat} {f : Nat → Hub → Hub} (hf : ∀ v h, h.Wf → (f v h).Wf) :
    (Reg.hub w r f).KeepsWf := fun v _ h => h.withHub (hf v _)
theorem State.Wf.msixWrite {s : State} (h : s.Wf) (f o v : Nat) : (s.msixWrite f o v).Wf := by
  refine State.Wf.foldl (h.modFn f fun x hx => ?_) (fun _ _ h => h.raise ..) _
  exact Mem.wf_put hx _ _
theorem hostReg_keepsWf (f off : Nat) : RegKeepsWf (hostReg f off) :=
  .ite (.some .ro) <| .ite (.some .ro) <| .ite (.some .ro) <| .ite (.some .ro) .none
theorem powerReg_keepsWf (off : Nat) : RegKeepsWf (powerReg off) :=
  .ite (.some fun _ _ h => h.powerWrite ..) <| .ite (.some (.hub fun _ _ hh => hh)) <| .ite (.some .ro) <|
  .ite (.some (.hub fun _ _ hh => hh)) <| .ite (.some fun _ _ h => h.after execClampRelease_keepsWf) <|
  .ite (.some (.hub fun _ _ hh => hh)) <| .ite (.some fun _ _ h => h.after execArmWrite_keepsWf) <|
  .ite (.some (.hub fun _ _ hh => hh)) <| .ite (.some (.hub fun _ _ hh => hh)) <|
  .ite (.some fun _ _ h => h.withHub fun hh => hh) <| .ite (.some .ro) <|
  .ite (.some fun _ _ h => h.after execBootGo_keepsWf) .none
theorem seamReg_keepsWf (off : Nat) : RegKeepsWf (seamReg off) := .ite (.some (.hub fun _ _ hh => hh)) .none
theorem State.Wf.partCmdWrite {s : State} (h : s.Wf) (v : Nat) : (s.partCmdWrite v).Wf := by
  unfold State.partCmdWrite
  split
  · exact h.after execPartCommit_keepsWf
  · exact h.after execPartGrow_keepsWf
  · exact h.after execPartShrink_keepsWf
  · exact h.after execPartCancel_keepsWf
  · exact h.after execRungReset_keepsWf
  · exact h.after execInvCtx_keepsWf
  · exact h.partWrite _ _ _ fun _ _ hu => hu.partEnd _
theorem partReg_keepsWf (off : Nat) : RegKeepsWf (partReg off) :=
  .ite (.some (.hub fun _ _ hh => hh)) <| .ite (.some (.hub fun _ _ hh => hh)) <|
  .ite (.some fun _ _ h => h.partCmdWrite _) <| .ite (.some (.hub fun _ _ hh => hh)) <| .ite (.some .ro) <|
  .ite (.some .ro) <| .ite (.some (.hub fun _ _ hh => hh)) <|
  .ite (.some fun _ _ h => h.after execClassWaysWrite_keepsWf) <|
  .ite (.some fun _ _ h => h.after execClassBwWrite_keepsWf) <| .ite (.some .ro) .none
theorem pipeReg_keepsWf (n o : Nat) : RegKeepsWf (pipeReg n o) := by
  unfold pipeReg
  dsimp only
  split
  · exact .some fun _ _ h => h.free.pipeWrite ..
  iterate 9 · exact .some fun _ _ h => h
  · exact .none
theorem camReg_keepsWf (i o : Nat) : RegKeepsWf (camReg i o) := by
  unfold camReg
  dsimp only
  split
  · exact .some fun _ _ h => h.after execCameraStreamWrite_keepsWf
  iterate 5 · exact .some fun _ _ h => h
  · exact .none
theorem displayReg_keepsWf (off : Nat) : RegKeepsWf (displayReg off) :=
  .ite (.some (.hub fun _ _ hh => hh)) <| .ite (.some (.hub fun _ _ hh => hh)) <|
  .ite (.some (.hub fun _ _ hh => hh)) <| .ite (.some .ro) <|
  .ite (.some fun _ _ h => h.after execLatchWrite_keepsWf) <| .ite (.some .ro) <|
  .ite (.some .ro) <| .ite (.some fun _ _ h => h.after execReadmit_keepsWf) <|
  .ite (.some (.hub fun _ _ hh => hh)) <| .ite (.some fun _ _ h => h.after execTelltaleLoad_keepsWf) <|
  .ite (pipeReg_keepsWf _ _) <| .ite (camReg_keepsWf _ _) .none
theorem State.Wf.spareCmdWrite {s : State} (h : s.Wf) (v : Nat) : (s.spareCmdWrite v).Wf := by
  unfold State.spareCmdWrite
  split
  · exact h.after execSpareLane_keepsWf
  · exact h.after execSpareCell_keepsWf
  · exact h.after execSpareChannel_keepsWf
  · exact h.after execSpareWay_keepsWf
  · exact h.after execUnfence_keepsWf
  · exact h.spareWrite _ _ _ fun _ _ hu => hu.spareEnd _
theorem reliabReg_keepsWf (off : Nat) : RegKeepsWf (reliabReg off) :=
  .ite (.some (.hub fun _ _ hh => hh)) <| .ite (.some (.hub fun v _ hh => hh.devqWrite v)) <| .ite (.some .ro) <|
  .ite (.some fun _ _ h => h.spareCmdWrite _) <| .ite (.some (.hub fun _ _ hh => hh)) <| .ite (.some .ro) <|
  .ite (.some .ro) <| .ite (.some (.hub fun _ _ hh => hh)) <| .ite (.some (.hub fun _ _ hh => hh)) <|
  .ite (.some .ro) <| .ite (.some (.hub fun _ _ hh => hh)) <| .ite (.some .ro) <|
  .ite (.some (.hub fun _ _ hh => hh)) <| .ite (.some fun _ _ h => h.keepWrite ..) .none
theorem msixReg_keepsWf (f off : Nat) : RegKeepsWf (msixReg f off) :=
  .ite (.some fun _ _ h => h.msixWrite ..) <| .ite (.some .ro) .none
theorem regAt_keepsWf (f off : Nat) : RegKeepsWf (regAt f off) :=
  ((hostReg_keepsWf f off).orElse (msixReg_keepsWf f off)).orElse <| .ite .none <|
    ((((powerReg_keepsWf off).orElse (seamReg_keepsWf off)).orElse (partReg_keepsWf off)).orElse
      (displayReg_keepsWf off)).orElse (reliabReg_keepsWf off)
theorem wordAt_keepsWf {f off : Nat} {x : Reg × Bool} (h : wordAt f off = some x) : x.1.KeepsWf := by
  unfold wordAt at h
  split at h
  · next hr => cases h; exact regAt_keepsWf f off _ hr
  · have h1 := (Option.ite_none_left_eq_some.mp h).2
    split at h1
    · next hr =>
      obtain ⟨_, hx⟩ := Option.ite_none_right_eq_some.mp h1
      cases hx
      exact regAt_keepsWf f (off - 4) _ hr
    · cases h1

namespace State.Wf
variable {s t : State}

theorem regWrite32 (h : s.Wf) (f off v : Nat) : (s.regWrite32 f off v).Wf := by
  refine ite (h.postHigh ..) (ite (h.modFn _ fun _ hf => hf) ?_)
  split
  · next hw => exact wordAt_keepsWf hw _ _ h
  · exact h
theorem regWrite (h : s.Wf) (f off n v : Nat) : (s.regWrite f off n v).Wf := by
  refine ite (ite (h.postCmd ..) ?_) (h.regWrite32 ..)
  split
  · next hw => exact ite (wordAt_keepsWf hw _ _ h) (regWrite32 (wordAt_keepsWf hw _ _ h) ..)
  · exact (h.regWrite32 ..).regWrite32 ..

end State.Wf

theorem execRegisterWrite_keepsWf {f off n v fw : Nat} : KeepsWf (execRegisterWrite f off n v fw) := by
  refine .of_next (fun _ => rfl) fun s h =>
    .ite h (.ite (.ite (h.withHub fun hh => ?_) h) (.ite h.deny (.ite h (h.regWrite ..))))
  exact ⟨Mem.wf_put hh.bootBuf _ _, hh.mesh, hh.keep, hh.fns⟩

/-! ### Time, and what comes of the part's own accord -/

namespace State.Wf
variable {s t : State}

theorem tickSkid (h : s.Wf) (i : Nat) : (s.tickSkid i).Wf := by
  have hcut {u : State} (hu : u.Wf) {f : Group → Group} : ((u.modGroup i f).skidEnd i).Wf := (hu.modGroup i f).skidEnd i
  unfold State.tickSkid
  refine ite h (ite (hcut h) ?_)
  split
  · exact ite (h.free.skidEnd i) (hcut h.free)
  · exact h.skidEnd i
theorem tick (h : s.Wf) : s.tick.Wf := by
  refine foldl ?_ (fun _ _ hu => hu.tickSkid _) _
  refine ⟨h.mem, h.windows, h.cells.zipIdx fun x hx => ?_, h.hub⟩
  unfold State.tickCell
  split
  · exact Every.zipIdx hx fun _ hq => hq
  · exact hx
theorem stopHere (h : s.Wf) (i : Nat) (f : FaultInfo) : (s.stopHere i f).Wf := h.takeFault ..
theorem endTurn (h : t.Wf) (s : State) (i : Nat) : (s.endTurn t i).Wf := ite h (h.modRegion ..)
theorem fetchClause {g : Group} {c : Clause} (h : s.Wf) (hf : s.fetchClause g = .ok (c, t)) : t.Wf := by
  unfold State.fetchClause at hf
  dsimp only at hf
  split at hf
  · cases hf
  · cases hf
    refine State.Wf.modQuad ((h.useG g _).hubUse ..).free _ _ fun _ hq => ?_
    exact hq
theorem grantRequest (h : s.Wf) (u k : Nat) : (s.grantRequest u k).Wf := by
  unfold State.grantRequest
  split <;> exact h
theorem grantUnit (h : s.Wf) (u c : Nat) : (s.grantUnit u c).Wf := by
  unfold State.grantUnit
  split
  · refine (h.grantRequest ..).modCell _ fun _ hc => ?_
    exact hc
  · exact h
theorem grantSlot (h : s.Wf) (ch k : Nat) : (s.grantSlot ch k).Wf := by
  unfold State.grantSlot
  split <;> exact h
theorem upsetHome (h : s.Wf) (pa : Nat) : (s.upsetHome pa).Wf := by
  unfold State.upsetHome
  split <;> exact h
/-- A window takes poison, and no byte changes. -/
theorem modifyWindows {f : Window → Window} (h : s.Wf) (i : Nat) (hf : ∀ w, w.Wf → (f w).Wf) :
    Wf { s with windows := Machine.modifyAt s.windows i f } := ⟨h.mem, h.windows.modifyAt i hf, h.cells, h.hub⟩
theorem upset (h : s.Wf) : s.upset.Wf := by
  have h3 : s.free.2.free.2.free.2.Wf := h
  unfold State.upset
  dsimp only
  split
  · exact h3.upsetHome _
  · exact h3.modifyWindows _ fun _ hw => hw
  · refine h3.modifyWindows _ fun _ hw => ?_
    split <;> exact hw
  · exact ite (h3.modGroup ..) h3
  · exact h3.modQuad _ _ fun _ hq => hq
  · exact h3.modQuad _ _ fun _ hq => hq
  · exact h3.modQuad _ _ fun _ hq => hq
theorem internal (h : s.Wf) (y : Choice) : (s.internal y).Wf := by
  cases y with
  | turn i => exact h
  | event e => exact h
  | grant u c => exact h.grantUnit ..
  | slot ch k => exact h.grantSlot ..
  | upset => exact h.upset
  | i3cController => exact h.i3cTransfer
  | i3cAddress a => exact h.withHub fun hh => hh
  | invalidated => exact h.invDone
theorem choose (h : s.Wf) (y : List Choice) : (s.choose y).2.Wf := by
  unfold State.choose
  split
  · exact h
  · exact h
  · exact h.free
theorem next (h : s.Wf) : s.next.2.Wf := by
  unfold State.next
  split
  · exact h
  · exact h.free.choose _

end State.Wf

/-! ### The float forms and the conversions (10; 14) -/

theorem fpEnd_wf {s : State} (h : s.Wf) (i : Nat) (g : Group) (fl : Nat → FFlags) : (fpEnd s i g fl).Wf := .ite h h
theorem fpRun_keepsWf {p : Info} {d : BitVec 7} {general : Bool} {srcs : Group → List (VVal × (Nat → Word))}
    {op : List Word → Word × FFlags} : KeepsWf (fpRun p d general srcs op) :=
  runIsa_keepsWf fun _ _ _ h => fpEnd_wf h ..
theorem drawRun_keepsWf {p : Info} {d : BitVec 7} {rm : Group → Nat} {n : Nat} {sat : Bool}
    {srcs : Group → List (VVal × (Nat → Word))} {op : Nat → List Nat → List Word → Word × FFlags} :
    KeepsWf (drawRun p d rm n sat srcs op) :=
  runIsa_keepsWf fun _ _ _ h => fpEnd_wf h ..
theorem execCvt_keepsWf {d a : BitVec 7} {el : BitVec 3} {sf : BitVec 4} {sat : BitVec 1} {rm : BitVec 2}
    {df : BitVec 4} : KeepsWf (execCvt d a el sf sat rm df) := by
  delta execCvt
  exact drawRun_keepsWf
theorem execFrnd_keepsWf {d a : BitVec 7} {p : BitVec 1} {m : BitVec 3} {lit : Word} :
    KeepsWf (execFrnd d a p m lit) := by
  delta execFrnd
  exact drawRun_keepsWf
theorem packRun_keepsWf {n p : Nat} {d a b : BitVec 7} {sat : BitVec 1} {rm : BitVec 2} {df : BitVec 4} :
    KeepsWf (packRun n p d a b sat rm df) := by
  delta packRun
  exact drawRun_keepsWf
theorem unpackRun_keepsWf {n e : Nat} {d a b : BitVec 7} {sc : BitVec 2} {sf : BitVec 4} :
    KeepsWf (unpackRun n e d a b sc sf) := by
  delta unpackRun
  exact fpRun_keepsWf
theorem execQuantBlk_keepsWf {d a b : BitVec 7} {blk sm : BitVec 1} {rm : BitVec 2} {tf : BitVec 4} :
    KeepsWf (execQuantBlk d a b blk sm rm tf) := runIsa_keepsWf fun _ _ _ h => fpEnd_wf h ..
theorem reduceF_keepsWf {f : List Word → Word × FFlags} {d a : BitVec 7} {lit : Word} : KeepsWf (reduceF f d a lit) :=
  runIsa_keepsWf fun _ _ _ h => fpEnd_wf h ..
theorem execScanAddF32_keepsWf {d a : BitVec 7} {lit : Word} : KeepsWf (execScanAddF32 d a lit) :=
  runIsa_keepsWf fun _ _ _ h => fpEnd_wf h ..
theorem derivative_keepsWf {h g' : Nat → Nat} {d a : BitVec 7} {lit : Word} : KeepsWf (derivative h g' d a lit) :=
  runIsa_keepsWf fun _ _ _ h => fpEnd_wf h ..
theorem execFcmp_keepsWf {c k : BitVec 3} {a b : BitVec 7} {lit : Word} : KeepsWf (execFcmp c k a b lit) :=
  runIsa_keepsWf fun _ _ _ h => fpEnd_wf h ..

end Sys2Proof.Machine
end

section
/-! PROOFS. Every instruction and every step keeps the byte stores' form (07 R194; 09 R242). -/
namespace Sys2Proof.Machine
open Sys2Proof

/-! ### Each instruction and each event -/

/-- Every meaning keeps the byte stores' form. -/
theorem exec_keepsWf : ∀ ins : Instr, KeepsWf (exec ins)
  | .porReset _ _ _ => execPorReset_keepsWf
  | .perstReset _ => execPerstReset_keepsWf
  | .sysclkFault => execSysclkFault_keepsWf
  | .sysclkReturn => execSysclkReturn_keepsWf
  | .dclkFault => execDclkFault_keepsWf
  | .lockstepMismatch => execLockstepMismatch_keepsWf
  | .thermtrip => execThermtrip_keepsWf
  | .supplyLoss _ => execSupplyLoss_keepsWf
  | .handlerBudgetExpiry _ => execHandlerBudgetExpiry_keepsWf
  | .holdupSaveComplete => execHoldupSaveComplete_keepsWf
  | .reserveCharged => execReserveCharged_keepsWf
  | .bootGo _ => execBootGo_keepsWf
  | .firmwareImageCheck _ _ _ _ _ => execFirmwareImageCheck_keepsWf
  | .postRootRegion _ _ _ _ => execPostRootRegion_keepsWf
  | .postLowHalfWrite _ _ _ => execPostLowHalfWrite_keepsWf
  | .resyncToMemory _ _ _ _ => execResyncToMemory_keepsWf
  | .resyncToWindow _ _ _ _ => execResyncToWindow_keepsWf
  | .powerCmdCell _ => execPowerCmdCell_keepsWf
  | .powerCmdPane _ => execPowerCmdPane_keepsWf
  | .powerCmdDevice _ => execPowerCmdDevice_keepsWf
  | .dHold _ => execDHold_keepsWf
  | .powerCmdComplete _ => execPowerCmdComplete_keepsWf
  | .clampTrigger _ _ _ => execClampTrigger_keepsWf
  | .clampStep _ => execClampStep_keepsWf
  | .clampRelease _ _ _ => execClampRelease_keepsWf
  | .faultClear _ _ _ => execFaultClear_keepsWf
  | .armWrite _ _ => execArmWrite_keepsWf
  | .seamStatusClear _ _ _ => execSeamStatusClear_keepsWf
  | .registerWrite _ _ _ _ _ => execRegisterWrite_keepsWf
  | .i3cResync => execI3cResync_keepsWf
  | .i3cStatus => execI3cStatus_keepsWf
  | .i3cFaultClear _ => execI3cFaultClear_keepsWf
  | .forceUndercoat _ => execForceUndercoat_keepsWf
  | .releaseUndercoat _ => execReleaseUndercoat_keepsWf
  | .i3cHoldup => execI3cHoldup_keepsWf
  | .i3cUnknownCommand => execI3cUnknownCommand_keepsWf
  | .i3cPrivateRead => execI3cPrivateRead_keepsWf
  | .vfConfigRequest _ _ _ _ => execVfConfigRequest_keepsWf
  | .apertureRequest _ _ _ _ _ => execApertureRequest_keepsWf
  | .functionLevelReset _ => execFunctionLevelReset_keepsWf
  | .partCommit _ _ => execPartCommit_keepsWf
  | .partGrow _ _ => execPartGrow_keepsWf
  | .partShrink _ _ => execPartShrink_keepsWf
  | .shrinkComplete _ => execShrinkComplete_keepsWf
  | .deferredLaunchEviction _ => execDeferredLaunchEviction_keepsWf
  | .partCancel _ _ => execPartCancel_keepsWf
  | .rungReset _ _ => execRungReset_keepsWf
  | .invCtx _ _ => execInvCtx_keepsWf
  | .rungTimeout _ => execRungTimeout_keepsWf
  | .rungComplete _ => execRungComplete_keepsWf
  | .classWaysWrite _ _ _ => execClassWaysWrite_keepsWf
  | .classBwWrite _ _ _ => execClassBwWrite_keepsWf
  | .pipeEnable _ _ _ _ => execPipeEnable_keepsWf
  | .pipeDisable _ _ _ => execPipeDisable_keepsWf
  | .layerTableCommit _ _ _ _ => execLayerTableCommit_keepsWf
  | .layerCommitTake _ => execLayerCommitTake_keepsWf
  | .coatSign _ => execCoatSign_keepsWf
  | .frameDecision _ => execFrameDecision_keepsWf
  | .scanoutTileCheck _ _ _ => execScanoutTileCheck_keepsWf
  | .paneSelfTestStart _ => execPaneSelfTestStart_keepsWf
  | .paneSelfTestEnd _ _ => execPaneSelfTestEnd_keepsWf
  | .readmit _ _ => execReadmit_keepsWf
  | .telltaleLoad _ _ => execTelltaleLoad_keepsWf
  | .telltaleCopyComplete => execTelltaleCopyComplete_keepsWf
  | .latchWrite _ _ _ => execLatchWrite_keepsWf
  | .hudLatchTake => execHudLatchTake_keepsWf
  | .cameraStreamWrite _ _ _ => execCameraStreamWrite_keepsWf
  | .cameraFrameStart _ => execCameraFrameStart_keepsWf
  | .cameraLine _ _ _ _ => execCameraLine_keepsWf
  | .cameraFrameEnd _ => execCameraFrameEnd_keepsWf
  | .cameraTxFrame _ => execCameraTxFrame_keepsWf
  | .devqEnable _ _ => execDevqEnable_keepsWf
  | .spareLane _ _ => execSpareLane_keepsWf
  | .spareCell _ _ => execSpareCell_keepsWf
  | .spareWay _ _ => execSpareWay_keepsWf
  | .spareChannel _ _ => execSpareChannel_keepsWf
  | .unfence _ _ => execUnfence_keepsWf
  | .spareCmdComplete _ => execSpareCmdComplete_keepsWf
  | .channelMigrationComplete => execChannelMigrationComplete_keepsWf
  | .seamFlitReplay _ => execSeamFlitReplay_keepsWf
  | .seamEyeCheck _ _ _ => execSeamEyeCheck_keepsWf
  | .seamLaneFail _ _ => execSeamLaneFail_keepsWf
  | .correctedError _ => execCorrectedError_keepsWf
  | .ageSample _ _ _ => execAgeSample_keepsWf
  | .beadSelfTestStart _ _ => execBeadSelfTestStart_keepsWf
  | .beadSelfTestEnd _ _ _ => execBeadSelfTestEnd_keepsWf
  | .beadSelfTestOverdue _ _ => execBeadSelfTestOverdue_keepsWf
  | .keepDir _ _ => execKeepDir_keepsWf
  | .keepData _ _ => execKeepData_keepsWf
  | .keepErase _ _ => execKeepErase_keepsWf
  | .keepCmdComplete => execKeepCmdComplete_keepsWf
  | .rollback _ => execRollback_keepsWf
  | .postTake _ _ => execPostTake_keepsWf
  | .blockPlace _ => execBlockPlace_keepsWf
  | .arbitration _ _ => execArbitration_keepsWf
  | .groupWake _ => execGroupWake_keepsWf
  | .sliceEnd _ _ => execSliceEnd_keepsWf
  | .blockEvict _ => execBlockEvict_keepsWf
  | .regionComplete _ => execRegionComplete_keepsWf
  | .resultLanding _ _ => execResultLanding_keepsWf
  | .groupSlotRelease _ => execGroupSlotRelease_keepsWf
  | .trackerEntryFree _ => execTrackerEntryFree_keepsWf
  | .contResultWrite _ => execContResultWrite_keepsWf
  | .regroupRelaunch _ => execRegroupRelaunch_keepsWf
  | .watchdogExpiry _ => execWatchdogExpiry_keepsWf
  | .gateBudgetExpiry _ => execGateBudgetExpiry_keepsWf
  | .sleepExpiry _ => execSleepExpiry_keepsWf
  | .lineFillReturn _ => execLineFillReturn_keepsWf
  | .releaseDrainComplete _ => execReleaseDrainComplete_keepsWf
  | .tlbWalkComplete _ _ _ _ => execTlbWalkComplete_keepsWf
  | .atomicPerform _ => execAtomicPerform_keepsWf
  | .atomReply _ => execAtomReply_keepsWf
  | .hodOpComplete _ _ _ => execHodOpComplete_keepsWf
  | .msgDeliver _ => execMsgDeliver_keepsWf
  | .monitorMatch _ => execMonitorMatch_keepsWf
  | .monitorPoll _ => execMonitorPoll_keepsWf
  | .kstep _ => execKstep_keepsWf
  | .matrixOpComplete _ => execMatrixOpComplete_keepsWf
  | .texComplete _ => execTexComplete_keepsWf
  | .traceComplete _ => execTraceComplete_keepsWf
  | .forcedRender _ => execForcedRender_keepsWf
  | .ticketDone _ _ => execTicketDone_keepsWf
  | .tileFlush _ _ => execTileFlush_keepsWf
  | .tileStore _ _ => execTileStore_keepsWf
  | .nop => own_keepsWf
  | .exit => execExit_keepsWf
  | .tail => execTail_keepsWf
  | .trap _ => execTrap_keepsWf
  | .brk _ => execBrk_keepsWf
  | .resume => execResume_keepsWf
  | .sread _ _ => execSread_keepsWf
  | .swrite _ _ => execSwrite_keepsWf
  | .sleepUntil _ => execSleepUntil_keepsWf
  | .sleepCyc _ => execSleepCyc_keepsWf
  | .yield => execYield_keepsWf
  | .pfailDone => execPfailDone_keepsWf
  | .ifKElse _ _ => ctlRun_keepsWf
  | .ifNkElse _ _ => ctlRun_keepsWf
  | .ifSElse _ _ => ctlRun_keepsWf
  | .ifNsElse _ _ => ctlRun_keepsWf
  | .ifK _ _ => ctlRun_keepsWf
  | .ifNk _ _ => ctlRun_keepsWf
  | .ifS _ _ => ctlRun_keepsWf
  | .ifNs _ _ => ctlRun_keepsWf
  | .elseArm _ => ctlRun_keepsWf
  | .endif => ctlRun_keepsWf
  | .loop _ => ctlRun_keepsWf
  | .endloop => ctlRun_keepsWf
  | .breakK _ => ctlRun_keepsWf
  | .breakS _ => ctlRun_keepsWf
  | .continueK _ => ctlRun_keepsWf
  | .continueS _ => ctlRun_keepsWf
  | .call _ => ctlRun_keepsWf
  | .ret => ctlRun_keepsWf
  | .gate _ => execGate_keepsWf
  | .gret => execGret_keepsWf
  | .bar => execBar_keepsWf
  | .barArrive => execBarArrive_keepsWf
  | .barDrop => execBarDrop_keepsWf
  | .barWait => execBarWait_keepsWf
  | .bobjInit _ _ _ => execBobjInit_keepsWf
  | .bobjJoin _ => execBobjJoin_keepsWf
  | .bobjLeave _ => execBobjLeave_keepsWf
  | .bobjArrive _ _ _ => execBobjArrive_keepsWf
  | .bobjExpect _ _ => execBobjExpect_keepsWf
  | .bobjWait _ _ => execBobjWait_keepsWf
  | .bobjTest _ _ => execBobjTest_keepsWf
  | .waitCnt _ _ => execWaitCnt_keepsWf
  | .fence _ _ => execFence_keepsWf
  | .semSet _ _ => execSemSet_keepsWf
  | .semAdd _ _ => semUpdate_keepsWf
  | .semWaitge _ _ => execSemWaitge_keepsWf
  | .semRead _ _ => execSemRead_keepsWf
  | .waitc _ _ _ _ _ => execWaitc_keepsWf
  | .monCancel => own_keepsWf
  | .launch _ _ => execLaunch_keepsWf
  | .regionJoin _ => execRegionJoin_keepsWf
  | .msgSend _ _ => execMsgSend_keepsWf
  | .msgRecv _ _ _ => msgTake_keepsWf
  | .msgPoll _ _ _ => msgTake_keepsWf
  | .msgFree _ _ => execMsgFree_keepsWf
  | .primEmit _ _ => execPrimEmit_keepsWf
  | .primEmitClose _ => execPrimEmitClose_keepsWf
  | .tileGet _ _ => execTileGet_keepsWf
  | .tileDone => execTileDone_keepsWf
  | .tileAttr _ _ => execTileAttr_keepsWf
  | .edge _ => execEdge_keepsWf
  | .interp _ _ _ => execInterp_keepsWf
  | .samplepos _ _ => execSamplepos_keepsWf
  | .glzInsert _ _ _ => execGlzInsert_keepsWf
  | .glzCount _ _ => execGlzCount_keepsWf
  | .glzRead _ _ _ => execGlzRead_keepsWf
  | .glzResolve _ _ _ => execGlzResolve_keepsWf
  | .glzResolveClr _ _ _ => execGlzResolveClr_keepsWf
  | .glzClear _ => execGlzClear_keepsWf
  | .texSample _ _ _ _ _ _ _ => texRun_keepsWf
  | .texLoad _ _ _ _ _ _ _ => texRun_keepsWf
  | .texGather4 _ _ _ _ _ _ _ => texRun_keepsWf
  | .texLod _ _ _ _ _ _ _ => texRun_keepsWf
  | .texSampleC _ _ _ _ _ _ _ => texRun_keepsWf
  | .texLoadC _ _ _ _ _ _ _ => texRun_keepsWf
  | .texGather4C _ _ _ _ _ _ _ => texRun_keepsWf
  | .texLodC _ _ _ _ _ _ _ => texRun_keepsWf
  | .trace _ _ _ _ _ => traceRun_keepsWf
  | .traceC _ _ _ _ _ => traceRun_keepsWf
  | .hitReport _ _ => hitRun_keepsWf
  | .hitAccept _ => execHitAccept_keepsWf
  | .hitIgnore _ => execHitIgnore_keepsWf
  | .contKey _ => execContKey_keepsWf
  | .repack _ => execRepack_keepsWf
  | .iadd _ _ _ _ => own_keepsWf
  | .iaddSat _ _ _ _ => own_keepsWf
  | .iaddSatU _ _ _ _ => own_keepsWf
  | .isub _ _ _ _ => own_keepsWf
  | .isubSat _ _ _ _ => own_keepsWf
  | .isubSatU _ _ _ _ => own_keepsWf
  | .ineg _ _ _ => own_keepsWf
  | .iabs _ _ _ => own_keepsWf
  | .iabsd _ _ _ _ => own_keepsWf
  | .iabsdU _ _ _ _ => own_keepsWf
  | .iaddCc _ _ _ _ _ => own_keepsWf
  | .isubCc _ _ _ _ _ => own_keepsWf
  | .imulLo _ _ _ _ => own_keepsWf
  | .imulHi _ _ _ _ => own_keepsWf
  | .imulHiU _ _ _ _ => own_keepsWf
  | .imac _ _ _ _ => own_keepsWf
  | .idot4 _ _ _ _ _ _ _ => own_keepsWf
  | .and _ _ _ _ => own_keepsWf
  | .or _ _ _ _ => own_keepsWf
  | .xor _ _ _ _ => own_keepsWf
  | .andn _ _ _ _ => own_keepsWf
  | .not _ _ _ => own_keepsWf
  | .shl _ _ _ _ => own_keepsWf
  | .shr _ _ _ _ => own_keepsWf
  | .sar _ _ _ _ => own_keepsWf
  | .rotl _ _ _ _ => own_keepsWf
  | .fshr _ _ _ _ => own_keepsWf
  | .imin _ _ _ _ => own_keepsWf
  | .iminU _ _ _ _ => own_keepsWf
  | .imax _ _ _ _ => own_keepsWf
  | .imaxU _ _ _ _ => own_keepsWf
  | .icmp _ _ _ _ _ => own_keepsWf
  | .popc _ _ _ => own_keepsWf
  | .clz _ _ _ => own_keepsWf
  | .brev _ _ _ => own_keepsWf
  | .bfe _ _ _ _ => own_keepsWf
  | .bfeS _ _ _ _ => own_keepsWf
  | .bfi _ _ _ _ => own_keepsWf
  | .iaddi _ _ _ => own_keepsWf
  | .andi _ _ _ => own_keepsWf
  | .ori _ _ _ => own_keepsWf
  | .xori _ _ _ => own_keepsWf
  | .shli _ _ _ => own_keepsWf
  | .shri _ _ _ => own_keepsWf
  | .sari _ _ _ => own_keepsWf
  | .fadd _ _ _ _ _ _ => fpRun_keepsWf
  | .fsub _ _ _ _ _ _ => fpRun_keepsWf
  | .fmul _ _ _ _ _ _ => fpRun_keepsWf
  | .fmin _ _ _ _ _ _ => fpRun_keepsWf
  | .fmax _ _ _ _ _ _ => fpRun_keepsWf
  | .fmac _ _ _ _ _ _ => fpRun_keepsWf
  | .fma _ _ _ _ _ _ => fpRun_keepsWf
  | .flerp _ _ _ _ _ _ => fpRun_keepsWf
  | .fcmp _ _ _ _ _ => execFcmp_keepsWf
  | .fclass _ _ _ => own_keepsWf
  | .frcp _ _ _ _ => fpRun_keepsWf
  | .frsq _ _ _ _ => fpRun_keepsWf
  | .fsqrt _ _ _ _ => fpRun_keepsWf
  | .fexp2 _ _ _ _ => fpRun_keepsWf
  | .flog2 _ _ _ _ => fpRun_keepsWf
  | .fsin _ _ _ _ => fpRun_keepsWf
  | .fcos _ _ _ _ => fpRun_keepsWf
  | .ftanh _ _ _ _ => fpRun_keepsWf
  | .cvt _ _ _ _ _ _ _ => execCvt_keepsWf
  | .frnd _ _ _ _ _ => execFrnd_keepsWf
  | .cvtPk2 _ _ _ _ _ _ => packRun_keepsWf
  | .cvtPk4 _ _ _ _ _ _ _ => packRun_keepsWf
  | .cvtPk8 _ _ _ _ _ _ _ => packRun_keepsWf
  | .cvtUnpk2 _ _ _ _ _ _ => unpackRun_keepsWf
  | .cvtUnpk4 _ _ _ _ _ _ => unpackRun_keepsWf
  | .cvtUnpk8 _ _ _ _ _ _ => unpackRun_keepsWf
  | .quantBlk _ _ _ _ _ _ _ => execQuantBlk_keepsWf
  | .cbkDec _ _ _ _ _ => execCbkDec_keepsWf
  | .mov _ _ _ => own_keepsWf
  | .sel _ _ _ _ => own_keepsWf
  | .bcast _ _ _ => own_keepsWf
  | .bcastFirst _ _ => own_keepsWf
  | .ballot _ _ => own_keepsWf
  | .shflIdx _ _ _ _ => own_keepsWf
  | .shflUp _ _ _ => own_keepsWf
  | .shflDn _ _ _ => own_keepsWf
  | .shflXor _ _ _ => own_keepsWf
  | .redAdd _ _ _ => own_keepsWf
  | .redAddF32 _ _ _ => reduceF_keepsWf
  | .redMin _ _ _ => own_keepsWf
  | .redMinU _ _ _ => own_keepsWf
  | .redMinF32 _ _ _ => reduceF_keepsWf
  | .redMax _ _ _ => own_keepsWf
  | .redMaxU _ _ _ => own_keepsWf
  | .redMaxF32 _ _ _ => reduceF_keepsWf
  | .scanAdd _ _ _ => own_keepsWf
  | .scanAddEx _ _ _ => own_keepsWf
  | .scanAddF32 _ _ _ => execScanAddF32_keepsWf
  | .sadd _ _ _ => own_keepsWf
  | .ssub _ _ _ => own_keepsWf
  | .smul _ _ _ => own_keepsWf
  | .smulh _ _ _ => own_keepsWf
  | .sand _ _ _ => own_keepsWf
  | .sor _ _ _ => own_keepsWf
  | .sxor _ _ _ => own_keepsWf
  | .sandn _ _ _ => own_keepsWf
  | .sshl _ _ _ => own_keepsWf
  | .sshr _ _ _ => own_keepsWf
  | .ssar _ _ _ => own_keepsWf
  | .srotl _ _ _ => own_keepsWf
  | .scmpEq _ _ _ => own_keepsWf
  | .scmpLt _ _ _ => own_keepsWf
  | .scmpLtu _ _ _ => own_keepsWf
  | .scmpLe _ _ _ => own_keepsWf
  | .smovi _ _ => own_keepsWf
  | .smovhi _ _ => own_keepsWf
  | .saddi _ _ => own_keepsWf
  | .scmpi _ _ _ _ => own_keepsWf
  | .sadd64 _ _ _ => own_keepsWf
  | .ssub64 _ _ _ => own_keepsWf
  | .smul64 _ _ _ => own_keepsWf
  | .sshl64 _ _ _ => own_keepsWf
  | .smin _ _ _ => own_keepsWf
  | .smax _ _ _ => own_keepsWf
  | .spopc _ _ => own_keepsWf
  | .sclz _ _ => own_keepsWf
  | .vget _ _ _ => own_keepsWf
  | .vset _ _ _ => own_keepsWf
  | .ktos _ _ => own_keepsWf
  | .stok _ _ => own_keepsWf
  | .kand _ _ _ => own_keepsWf
  | .kor _ _ _ => own_keepsWf
  | .kxor _ _ _ => own_keepsWf
  | .knot _ _ => own_keepsWf
  | .kmov _ _ => own_keepsWf
  | .ddx _ _ _ => derivative_keepsWf
  | .ddxCoarse _ _ _ => derivative_keepsWf
  | .ddy _ _ _ => derivative_keepsWf
  | .ddyCoarse _ _ _ => derivative_keepsWf
  | .qswap _ _ _ => own_keepsWf
  | .tlbInv _ _ => execTlbInv_keepsWf
  | .ixuLoad _ _ => execIxuLoad_keepsWf
  | .ccFlush => execCcFlush_keepsWf
  | .ccInval => execCcInval_keepsWf
  | .bndSet _ => execBndSet_keepsWf
  | .ldcU8 _ _ _ _ _ => ldcRun_keepsWf
  | .ldcS8 _ _ _ _ _ => ldcRun_keepsWf
  | .ldcU16 _ _ _ _ _ => ldcRun_keepsWf
  | .ldcS16 _ _ _ _ _ => ldcRun_keepsWf
  | .ldc _ _ _ _ _ => ldcRun_keepsWf
  | .ldc64 _ _ _ _ _ => ldcRun_keepsWf
  | .ldcBc _ _ _ _ _ => execLdcBc_keepsWf
  | .ldcOrdered _ _ _ _ _ _ _ => ldcRun_keepsWf
  | .stc8 _ _ _ _ _ => stcRun_keepsWf
  | .stc16 _ _ _ _ _ => stcRun_keepsWf
  | .stc _ _ _ _ _ => stcRun_keepsWf
  | .stc64 _ _ _ _ _ => stcRun_keepsWf
  | .stcOrdered _ _ _ _ _ _ _ => stcRun_keepsWf
  | .ldp _ _ _ _ => execLdp_keepsWf
  | .stp _ _ _ _ => execStp_keepsWf
  | .gld _ _ _ _ _ => gldRun_keepsWf
  | .gld64 _ _ _ _ _ => gldRun_keepsWf
  | .gld128 _ _ _ _ _ => gldRun_keepsWf
  | .gldOrdered _ _ _ _ _ _ _ => gldRun_keepsWf
  | .gst _ _ _ _ _ => gstRun_keepsWf
  | .gst64 _ _ _ _ _ => gstRun_keepsWf
  | .gst128 _ _ _ _ _ => gstRun_keepsWf
  | .gstOrdered _ _ _ _ _ _ _ => gstRun_keepsWf
  | .latom _ _ _ _ _ _ _ _ => execLatom_keepsWf
  | .atom _ _ _ _ _ _ _ _ => atomRun_keepsWf
  | .ared _ _ _ _ _ _ _ => atomRun_keepsWf
  | .aredRel _ _ _ _ _ _ _ => atomRun_keepsWf
  | .rslotLd _ _ => rslotRun_keepsWf
  | .rslotLd64 _ _ => rslotRun_keepsWf
  | .rslotTest _ _ => own_keepsWf
  | .hodCopy _ _ => hodRun_keepsWf
  | .hodGather _ _ => hodRun_keepsWf
  | .hodScatter _ _ => hodRun_keepsWf
  | .hodFill _ _ => hodRun_keepsWf
  | .hodSend _ _ => hodRun_keepsWf
  | .hodReduce _ _ => hodRun_keepsWf
  | .hodPrefetch _ _ => hodRun_keepsWf
  | .ccPrefetch _ _ => execCcPrefetch_keepsWf
  | .ccWb _ _ => execCcWb_keepsWf
  | .ccDiscard _ _ => execCcDiscard_keepsWf
  | .ringAcq _ _ => ringTake_keepsWf
  | .ringCommit _ _ => ringGive_keepsWf
  | .ringWait _ _ => ringTake_keepsWf
  | .ringFree _ _ => ringGive_keepsWf
  | .beadMode _ => execBeadMode_keepsWf
  | .beadMma _ _ _ => mmaRun_keepsWf
  | .beadMmaz _ _ _ => mmaRun_keepsWf
  | .beadZero _ => execBeadZero_keepsWf
  | .beadSync _ => execBeadSync_keepsWf
  | .beadScale _ _ => execBeadScale_keepsWf
  | .palReserve _ _ _ => execPalReserve_keepsWf
  | .palFill _ _ _ => execPalFill_keepsWf
  | .palFillk _ _ _ => execPalFillk_keepsWf
  | .palRelease _ => execPalRelease_keepsWf
  | .cbDrain _ _ _ => execCbDrain_keepsWf
  | .cbLoad _ _ => execCbLoad_keepsWf
  | .cbClear _ _ => execCbClear_keepsWf
  | .omDepth _ _ _ _ => execOmDepth_keepsWf
  | .omWrite _ _ _ => execOmWrite_keepsWf
  | .omLoad _ _ => execOmLoad_keepsWf
  | .omLatch _ _ => execOmLatch_keepsWf
  | .dclkReturn => execDclkReturn_keepsWf
  | .clampConditionClear => execClampConditionClear_keepsWf
  | .pcieLinkStateChange _ _ _ _ => execPcieLinkStateChange_keepsWf

/-! ### A turn (12 R313 to R318) -/

/-- The state that a turn comes to has its byte stores in canonical form. -/
def Issue.Wf : Issue → Prop
  | .done s => s.Wf
  | .run _ s => s.Wf

theorem issueWord_wf {s : State} (h : s.Wf) (i : Nat) (c : Clause) : (s.issueWord i c).Wf := by
  unfold State.issueWord
  dsimp only
  split
  · exact State.Wf.stopHere (h.modGroup ..) ..
  · split
    · exact h.stopHere ..
    · have hs {p : Prop} [Decidable p] {m n : Nat} : (if p then (m, (s.free).2) else (n, s)).2.Wf :=
        State.Wf.ite_snd h.free h
      split
      · exact (h.consume ..).stopHere ..
      · split
        · exact hs.stopHere ..
        · split
          · exact h.modGroup ..
          · split
            · exact (hs.consume ..).modGroup ..
            · exact hs

theorem issueClause_wf {s : State} (h : s.Wf) (i : Nat) (c : Clause) : (s.issueClause i c).Wf := by
  unfold State.issueClause
  dsimp only
  split
  · exact issueWord_wf h i c
  · split
    · refine State.Wf.stopHere ?_ ..
      split
      · exact h.consume ..
      · exact h
    · split
      · exact h.modGroup ..
      · split
        · exact h.modGroup ..
        · exact issueWord_wf (h.modGroup ..) i c

theorem issue_wf {s : State} (h : s.Wf) (i : Nat) : (s.issue i).Wf := by
  unfold State.issue
  dsimp only
  split
  · exact h
  · split
    · exact h.calleeReturn ..
    · split
      · exact h
      · split
        · exact h
        · split
          · exact issueClause_wf (h.modGroup ..) i _
          · split
            · exact State.Wf.stopHere (h.modGroup ..) ..
            · next hf => exact issueClause_wf (State.Wf.modGroup (State.Wf.fetchClause (h.modGroup ..) hf) ..) i _

theorem takeTurn_wf {s t : State} {i : Nat} (h : s.Wf) (ht : s.takeTurn i = .next t) : t.Wf := by
  have hi := issue_wf h i
  unfold State.takeTurn at ht
  split at ht
  · next hr =>
    rw [hr] at hi
    cases ht
    exact hi
  · next ins u hr =>
    rw [hr] at hi
    cases hv : exec ins u with
    | next v =>
      rw [hv] at ht
      cases ht
      exact (exec_keepsWf ins u v hi hv).endTurn ..
    | fault f => rw [hv] at ht; cases ht
    | refused r => rw [hv] at ht; cases ht

/-! ### The step (07 R194) -/

theorem act_keepsWf : KeepsWf State.act := by
  intro s t h ht
  have hn := h.next
  unfold State.act at ht
  split at ht
  · next e rest _ => exact exec_keepsWf e { s with agenda := rest } t h ht
  · split at ht
    · exact takeTurn_wf h ht
    · split at ht
      · next hx => cases ht; rw [hx] at hn; exact hn
      · next hx => rw [hx] at hn; exact exec_keepsWf _ _ _ hn ht
      · next i u hx => rw [hx] at hn; exact takeTurn_wf (s := { u with turn := some i }) hn ht
      · next hx => cases ht; rw [hx] at hn; exact hn.internal _

/-- Settles O56: time passes and something happens, and each meaning, each completion and each register write leaves in
canonical form every byte store that it writes. -/
theorem stepsKeepByteStoresCanonical : Obligations.StepsKeepByteStoresCanonical := by
  unfold Obligations.StepsKeepByteStoresCanonical
  intro s t hs ht
  rw [canonical_iff] at hs ⊢
  exact act_keepsWf _ _ hs.tick ht

end Sys2Proof.Machine
end
